-- ==== Sys2Proof/Word.lean ====
section
/-! DEFINITION. The word types of the Prazon PZ4 and the names of its parts: spec/00_scope.md R2, R13; spec/01_execution_model.md R30-R33. -/

namespace Sys2Proof

/-- A byte of memory or of a store (R13: little-endian everywhere). -/
abbrev Byte := BitVec 8
/-- A 16-bit element. -/
abbrev W16 := BitVec 16
/-- An instruction word or a 32-bit element (R107). -/
abbrev W32 := BitVec 32
/-- A register (R42: 64 bits). -/
abbrev Word := BitVec 64

/-- Package room index, which is also the number of the room's Suite (R2). -/
abbrev SuiteId := Fin 64
/-- Steward context number (R321). -/
abbrev CtxId := Fin 128
/-- Tenant number (R321). -/
abbrev TenantId := Fin 64
/-- Array die (R2). -/
abbrev DieId := Fin 4

/-- The map that decodes a line, fixed by the line's owner (R16). -/
inductive Map where
  | a      -- A-stream lines and chanter lines
  | x      -- X-stream lines
  | drain  -- drain lines
  deriving DecidableEq, Repr

/-- Where a stream's registers live: a context bank of a Suite (R32), or a Steward context (R321). -/
inductive BankRef where
  | bank (u : SuiteId) (b : Fin 2)
  | ctx (c : CtxId)
  deriving DecidableEq, Repr

/-- The kinds of instruction stream (R16, R31, R227, R250). -/
inductive StreamKind where
  | a
  | x
  | chanter
  | drain
  deriving DecidableEq, Repr

/-- A stream of a bank. The chanter and the drain pipeline of a Suite name the bank they serve. -/
structure Agent where
  bank : BankRef
  kind : StreamKind
  deriving DecidableEq, Repr

/-- The engines that exchange tokens, coded as R112 does. -/
inductive Engine where
  | a | x | m | c
  deriving DecidableEq, Repr

/-- The code of an engine in a token field (R112). -/
def Engine.code : Engine → BitVec 2
  | .a => 0 | .x => 1 | .m => 2 | .c => 3

/-- The engine of a code (R112). -/
def Engine.ofCode (c : BitVec 2) : Engine :=
  if c = 0 then .a else if c = 1 then .x else if c = 2 then .m else .c

/-- Sign-extension of the low bits to a register (R80 `sext`). -/
abbrev sext {n : Nat} (v : BitVec n) : Word := v.signExtend 64
/-- Zero-extension to a register (R80 `zext`). -/
abbrev zext {n : Nat} (v : BitVec n) : Word := v.setWidth 64

end Sys2Proof
end

