-- ==== Sys2Proof/Machine/Flags.lean ====
section
/-! DEFINITION. Number formats, exact values, rounding and every flag computation: spec/03_number_formats.md R69-R81. -/

namespace Sys2Proof.Machine

/-- The element formats, in the order of their codes 0-9 (R61). -/
inductive Fmt where
  | fp32 | bf16 | fp16 | e4m3 | e5m2 | i8 | u8 | i32 | i64 | cb4
  deriving DecidableEq, Repr

/-- The format of a code (R61); codes 10-15 name none. -/
def Fmt.ofCode : Nat → Option Fmt
  | 0 => some .fp32 | 1 => some .bf16 | 2 => some .fp16 | 3 => some .e4m3 | 4 => some .e5m2
  | 5 => some .i8 | 6 => some .u8 | 7 => some .i32 | 8 => some .i64 | 9 => some .cb4
  | _ => none

/-- The format of a ty or dty field, codes 0-7 (R114). -/
def Fmt.ofTy (ty : BitVec 3) : Fmt :=
  match ty.toNat with
  | 0 => .fp32 | 1 => .bf16 | 2 => .fp16 | 3 => .e4m3 | 4 => .e5m2 | 5 => .i8 | 6 => .u8 | _ => .i32

/-- Element width in bits (R61, R69, R74). -/
def Fmt.width : Fmt → Nat
  | .fp32 => 32 | .bf16 => 16 | .fp16 => 16 | .e4m3 => 8 | .e5m2 => 8
  | .i8 => 8 | .u8 => 8 | .i32 => 32 | .i64 => 64 | .cb4 => 4

/-- Element size in bytes; a CB4 pair shares one byte, and the size given here is that of the byte (R45, R61). -/
def Fmt.esz (f : Fmt) : Nat := (f.width + 7) / 8

/-- The integer formats (R74). -/
def Fmt.isInt : Fmt → Bool
  | .i8 | .u8 | .i32 | .i64 => true
  | _ => false

/-- The set F of R166. -/
def Fmt.isF : Fmt → Bool
  | .fp32 | .bf16 | .fp16 => true
  | _ => false

/-- The set I of R166. -/
def Fmt.isI : Fmt → Bool
  | .i8 | .u8 | .i32 => true
  | _ => false

/-- Significand bits with the hidden bit (R69). -/
def Fmt.sig : Fmt → Nat
  | .fp32 => 24 | .bf16 => 8 | .fp16 => 11 | .e4m3 => 4 | .e5m2 => 3 | _ => 0

/-- Exponent of the least subnormal (R69). -/
def Fmt.emin : Fmt → Int
  | .fp32 => -149 | .bf16 => -133 | .fp16 => -24 | .e4m3 => -9 | .e5m2 => -16 | _ => 0

/-- Encoding of the largest finite value (R69). -/
def Fmt.maxEnc : Fmt → Nat
  | .fp32 => 0x7f7fffff | .bf16 => 0x7f7f | .fp16 => 0x7bff | .e4m3 => 0x7e | .e5m2 => 0x7b | _ => 0

/-- The canonical NaN (R72). -/
def Fmt.nanEnc : Fmt → Nat
  | .fp32 => 0x7fc00000 | .bf16 => 0x7fc0 | .fp16 => 0x7e00 | .e5m2 => 0x7e | .e4m3 => 0x7f | _ => 0

/-- Least value of an integer format (R74). -/
def Fmt.minInt : Fmt → Int
  | .i8 => -128 | .u8 => 0 | .i32 => -2147483648 | .i64 => -9223372036854775808 | _ => 0

/-- Greatest value of an integer format (R74). -/
def Fmt.maxInt : Fmt → Int
  | .i8 => 127 | .u8 => 255 | .i32 => 2147483647 | .i64 => 9223372036854775807 | _ => 0

/-- An exact value: NaN, an infinity, or (-1)^neg x mag x 2^exp; a zero keeps its sign (R70, R73). -/
inductive Val where
  | nan
  | inf (neg : Bool)
  | fin (neg : Bool) (mag : Nat) (exp : Int)
  deriving DecidableEq, Repr

/-- The five sticky flags in the layout of XFLG[4:0]: inexact, underflow, overflow, divide by zero, invalid (R54). -/
abbrev Flags := BitVec 5

def Flags.invalid : Flags := 1
def Flags.divZero : Flags := 2
def Flags.overflow : Flags := 4
def Flags.underflow : Flags := 8
def Flags.inexact : Flags := 16

/-- The zero of a sign. -/
def Val.zero (neg : Bool := false) : Val := .fin neg 0 0

/-- The exact value of an integer. -/
def Val.ofInt (i : Int) : Val := .fin (decide (i < 0)) i.natAbs 0

def Val.isZero : Val → Bool
  | .fin _ m _ => m == 0
  | _ => false

def Val.isNaN : Val → Bool
  | .nan => true
  | _ => false

def Val.isFinite : Val → Bool
  | .fin .. => true
  | _ => false

/-- Sign inverted; NaN stays NaN. -/
def Val.negate : Val → Val
  | .nan => .nan
  | .inf s => .inf (!s)
  | .fin s m e => .fin (!s) m e

/-- Sign cleared. -/
def Val.abs : Val → Val
  | .nan => .nan
  | .inf _ => .inf false
  | .fin _ m e => .fin false m e

/-- Multiplication by a power of two, exact. -/
def Val.scale (k : Int) : Val → Val
  | .fin s m e => .fin s m (e + k)
  | v => v

/-- The 16 codebook values k(c) (R81). -/
def cb4Values : List Int :=
  [-1024, -713, -538, -404, -290, -187, -91, 0, 81, 163, 248, 339, 441, 564, 738, 1024]

/-- k(c) (R81). -/
def cb4 (c : Nat) : Int := cb4Values.getD (c % 16) 0

/-- `dec(bits, f)`: the value of an encoding (R70, R74, R80); a CB4 code stands for k(c)/1024 (R81). -/
def dec (bits : Nat) (f : Fmt) : Val :=
  match f with
  | .i8 | .i32 | .i64 =>
    let w := f.width
    let b := bits % 2 ^ w
    Val.ofInt (if b < 2 ^ (w - 1) then (b : Int) else (b : Int) - 2 ^ w)
  | .u8 => Val.ofInt (bits % 256 : Nat)
  | .cb4 => (Val.ofInt (cb4 bits)).scale (-10)
  | _ =>
    let w := f.width
    let b := bits % 2 ^ w
    let s := decide (2 ^ (w - 1) ≤ b)
    let r := b % 2 ^ (w - 1)
    let p := f.sig - 1
    let ex := r / 2 ^ p
    let fr := r % 2 ^ p
    if f.maxEnc < r then
      (if f = .e4m3 then .nan else if fr = 0 then .inf s else .nan)
    else if ex = 0 then .fin s fr f.emin
    else .fin s (2 ^ p + fr) (f.emin + (ex - 1 : Nat))

/-- Round a magnitude m x 2^e to a multiple of 2^q by mode rm (R75). Answers the multiple and whether it is inexact. -/
def roundAt (rm : BitVec 2) (neg : Bool) (m : Nat) (e q : Int) : Nat × Bool :=
  if q ≤ e then (m * 2 ^ (e - q).toNat, false)
  else
    let k := (q - e).toNat
    let lo := m / 2 ^ k
    let r := m % 2 ^ k
    if r = 0 then (lo, false)
    else
      let up : Bool :=
        match rm.toNat with
        | 0 => decide (2 ^ k < 2 * r) || (decide (2 * r = 2 ^ k) && decide (lo % 2 = 1))
        | 1 => false
        | 2 => !neg
        | _ => neg
      (if up then lo + 1 else lo, true)

/-- Number of bits of a magnitude. -/
def bitLen (m : Nat) : Nat := if m = 0 then 0 else Nat.log2 m + 1

/-- The quantum to which a magnitude is rounded: full precision, but never below the spacing of subnormals (R76). -/
def quantum (f : Fmt) (m : Nat) (e : Int) : Int := max ((bitLen m : Int) + e - f.sig) f.emin

/-- Whether a non-zero value is tiny: rounded to full precision with an unbounded exponent it lies below the least normal (R79). -/
def isTiny (f : Fmt) (rm : BitVec 2) (neg : Bool) (m : Nat) (e : Int) : Bool :=
  let q := (bitLen m : Int) + e - f.sig
  let r := (roundAt rm neg m e q).1
  decide ((bitLen r : Int) + q < f.emin + f.sig)

/-- The sign bit of an encoding. -/
def signBit (f : Fmt) (neg : Bool) : Nat := if neg then 2 ^ (f.width - 1) else 0

/-- The encoding of an infinity of R76's table: E4M3 has none and takes its NaN 0x7f. -/
def infEnc (f : Fmt) (neg : Bool) : Nat :=
  if f = .e4m3 then f.nanEnc else signBit f neg + f.maxEnc + 1

/-- The encoding that an overflow yields (R76). -/
def overflowEnc (f : Fmt) (rm : BitVec 2) (sat neg : Bool) : Nat :=
  if sat then signBit f neg + f.maxEnc
  else
    match rm.toNat with
    | 0 => infEnc f neg
    | 1 => signBit f neg + f.maxEnc
    | 2 => if neg then signBit f neg + f.maxEnc else infEnc f neg
    | _ => if neg then infEnc f neg else signBit f neg + f.maxEnc

/-- An integer rounded by rm (R78). -/
def roundInt (rm : BitVec 2) (neg : Bool) (m : Nat) (e : Int) : Int × Bool :=
  let (r, ix) := roundAt rm neg m e 0
  (if neg then -(r : Int) else r, ix)

/-- `sat(v, lo, hi)` (R80). -/
def sat (v lo hi : Int) : Int := if v < lo then lo else if hi < v then hi else v

/-- Conversion to a floating-point format of a finite value (R76, R79). -/
def cvtFinite (f : Fmt) (rm : BitVec 2) (satm neg : Bool) (m : Nat) (e : Int) : Nat × Flags :=
  if m = 0 then (signBit f neg, 0)
  else
    let q := quantum f m e
    let (r, ix) := roundAt rm neg m e q
    let enc := (q - f.emin).toNat * 2 ^ (f.sig - 1) + r
    if f.maxEnc < enc then (overflowEnc f rm satm neg, Flags.overflow ||| Flags.inexact)
    else
      (signBit f neg + enc,
        if ix then (if isTiny f rm neg m e then Flags.underflow ||| Flags.inexact else Flags.inexact) else 0)

/-- `cvt(x, f, rm, ov)` with the flags it raises (R76, R78, R79, R80). `satm` is the overflow mode SAT. -/
def cvt (x : Val) (f : Fmt) (rm : BitVec 2) (satm : Bool) : Nat × Flags :=
  if f.isInt then
    match x with
    | .nan => (0, Flags.invalid)
    | .inf s => (((if s then f.minInt else f.maxInt) % 2 ^ f.width).toNat, Flags.invalid)
    | .fin s m e =>
      let (y, ix) := roundInt rm s m e
      let z := sat y f.minInt f.maxInt
      ((z % 2 ^ f.width).toNat,
        if z = y then (if ix then Flags.inexact else 0) else Flags.invalid ||| Flags.inexact)
  else
    match x with
    | .nan => (f.nanEnc, 0)
    | .inf s =>
      if satm then (signBit f s + f.maxEnc, Flags.inexact)
      else if f = .e4m3 then (f.nanEnc, Flags.invalid)
      else (infEnc f s, 0)
    | .fin s m e => cvtFinite f rm satm s m e

/-- `rne32(x)` as bits (R80). -/
def rne32 (x : Val) : W32 := BitVec.ofNat 32 (cvt x .fp32 0 false).1
/-- `rne16(x)` as bits (R80). -/
def rne16 (x : Val) : W16 := BitVec.ofNat 16 (cvt x .bf16 0 false).1
/-- `wrap32(v)` as bits (R80). -/
def wrap32 (v : Int) : W32 := BitVec.ofInt 32 v
/-- `dec(w, FP32)`. -/
def dec32 (w : W32) : Val := dec w.toNat .fp32

/-- The signed integer of a finite value in units of 2^e', where e' is at most its exponent. -/
def Val.units (e' : Int) : Val → Int
  | .fin s m e => let n : Int := (m * 2 ^ (e - e').toNat : Nat); if s then -n else n
  | _ => 0

/-- Exact sum with the invalid flag of infinity minus infinity; `rd` gives the sign of an exact zero (R72, R73). -/
def addV (rd : Bool) (x y : Val) : Val × Flags :=
  match x, y with
  | .nan, _ => (.nan, 0)
  | _, .nan => (.nan, 0)
  | .inf s, .inf t => if s = t then (.inf s, 0) else (.nan, Flags.invalid)
  | .inf s, _ => (.inf s, 0)
  | _, .inf t => (.inf t, 0)
  | .fin s m e, .fin t n g =>
    let b := min e g
    let i := Val.units b (.fin s m e) + Val.units b (.fin t n g)
    if i = 0 then
      (if s = t then .fin s 0 0 else .fin rd 0 0, 0)
    else (.fin (decide (i < 0)) i.natAbs b, 0)

/-- Exact product with the invalid flag of zero times infinity (R72, R73). -/
def mulV (x y : Val) : Val × Flags :=
  match x, y with
  | .nan, _ => (.nan, 0)
  | _, .nan => (.nan, 0)
  | .inf s, .inf t => (.inf (s != t), 0)
  | .inf s, .fin t n _ => if n = 0 then (.nan, Flags.invalid) else (.inf (s != t), 0)
  | .fin s m _, .inf t => if m = 0 then (.nan, Flags.invalid) else (.inf (s != t), 0)
  | .fin s m e, .fin t n g => (.fin (s != t) (m * n) (e + g), 0)

/-- The order of two values that are not NaN, with the zeros equal. -/
def ltV (x y : Val) : Bool :=
  match x, y with
  | .nan, _ | _, .nan => false
  | .inf s, .inf t => s && !t
  | .inf s, _ => s
  | _, .inf t => !t
  | .fin s m e, .fin t n g =>
    let b := min e g
    decide (Val.units b (.fin s m e) < Val.units b (.fin t n g))

/-- Equality of two values that are not NaN, with the zeros equal. -/
def eqV (x y : Val) : Bool :=
  match x, y with
  | .nan, _ | _, .nan => false
  | _, _ => !ltV x y && !ltV y x

/-- Whether x comes before y in the order of VMIN and VMAX, where -0 < +0 (R170). -/
def beforeV (x y : Val) : Bool :=
  if ltV x y then true
  else if ltV y x then false
  else
    match x, y with
    | .fin s _ _, .fin t _ _ => s && !t
    | _, _ => false

/-- The lesser (`mx` false) or greater of two values; a NaN gives NaN (R154, R170, R252). -/
def minMaxV (mx : Bool) (x y : Val) : Val :=
  if x.isNaN || y.isNaN then .nan
  else if beforeV x y then (if mx then y else x) else (if mx then x else y)

/-- A floating-point encoding with every NaN made canonical (R72, R175). -/
def canonBits (bits : Nat) (f : Fmt) : Nat :=
  if (dec bits f).isNaN then f.nanEnc else bits % 2 ^ f.width

/-- XFLG after an instruction that raised `fl` (R79, R167): the sticky bits gather it, and `last` takes it when it is not empty. -/
def xflgAfter (xflg : BitVec 13) (fl : Flags) : BitVec 13 :=
  if fl = 0 then xflg
  else (fl ++ (0 : BitVec 3) ++ (xflg.extractLsb' 0 5 ||| fl) : BitVec 13)

end Sys2Proof.Machine
end

