-- ==== Sys2Proof/Syntax.lean ====
section
/-! DEFINITION. The instructions and events of the PZ4: one constructor per row of spec/opcode_table.json. Encoded rows carry the
fields of their form (spec/05_encoding.md R109, R114, R115); event rows carry the names of the parts they happen to. -/

namespace Sys2Proof

/-- The token fields of an AC command (R112): pop mask [14:11], push_en [10], push_dst [9:8]. -/
structure Tok where
  pop : BitVec 4
  pushEn : BitVec 1
  pushDst : BitVec 2
  deriving DecidableEq, Repr

/-- What a packet from another package carries (R268, R273, R276, R270). -/
inductive Packet where
  | slot (tenant : TenantId) (p : Fin 8) (n : Nat) (data : List Byte)   -- PSEND data for slot n of boundary 4
  | credit (tenant : TenantId) (p : Fin 8)                       -- a credit that comes back on boundary 3
  | csPost (tenant : TenantId) (n : Fin 16)                      -- a collective-semaphore post
  | slotFull (tenant : TenantId) (p : Fin 8) (n : Nat)           -- the receiving die of boundary 3 has filled slot n
  | collArrive (tenant : TenantId) (seg offset inst rank : Nat) (time : Word)   -- a rank of another package arrives at an instance, at a time
  | collWords (tenant : TenantId) (seg offset inst stepNo : Nat) (words : List W32)
  | collAbandon (tenant : TenantId) (seg offset inst : Nat)      -- an instance is abandoned
  | passDown (tenant : TenantId) (p : Fin 8) (recv : Bool)         -- the peer end of a passage is lost to its PSENDs or PRECVs (R417, R426)
  | bulk                                                         -- any other traffic
  deriving DecidableEq, Repr

/-- A place that a soft error strikes (R393, R408). -/
inductive ErrSite where
  | mem (addr : Nat)                                  -- a byte of HBM or of a dirty cache line
  | ls (u : SuiteId) (addr : Nat)                     -- a byte of a Local Store
  | tile (u : SuiteId) (t : Fin 48) (row : Fin 128) (unit : Fin 4)
  | clean (u : SuiteId)                               -- a clean copy: L1 or a clean cache line
  | acc (u : SuiteId) (k : Fin 32) (row col : Fin 128)
  | flue (seg : W32)                                  -- a beat of the next shift of a scan segment (R411)
  | ctrl                                              -- a control-die queue, a Steward register or a single bit of an SRAM, corrected (R408, R435)
  deriving DecidableEq, Repr

/-- One constructor per row of spec/opcode_table.json. `w` is the wait field (R107), `dn` the done fields, bit 3 the enable (R108). -/
inductive Instr where
  -- A map, integer (R128-R131)
  | add (d s1 s2 : BitVec 5) (w : BitVec 4)
  | sub (d s1 s2 : BitVec 5) (w : BitVec 4)
  | mul (d s1 s2 : BitVec 5) (w : BitVec 4)
  | mulh (d s1 s2 : BitVec 5) (w : BitVec 4)
  | div (d s1 s2 : BitVec 5) (dn : BitVec 4) (w : BitVec 4)
  | divu (d s1 s2 : BitVec 5) (dn : BitVec 4) (w : BitVec 4)
  | rem (d s1 s2 : BitVec 5) (dn : BitVec 4) (w : BitVec 4)
  | remu (d s1 s2 : BitVec 5) (dn : BitVec 4) (w : BitVec 4)
  | divideCompletion (b : BankRef) (k : Nat)
  | and (d s1 s2 : BitVec 5) (w : BitVec 4)
  | or (d s1 s2 : BitVec 5) (w : BitVec 4)
  | xor (d s1 s2 : BitVec 5) (w : BitVec 4)
  | shl (d s1 s2 : BitVec 5) (w : BitVec 4)
  | shr (d s1 s2 : BitVec 5) (w : BitVec 4)
  | sra (d s1 s2 : BitVec 5) (w : BitVec 4)
  | min (d s1 s2 : BitVec 5) (w : BitVec 4)
  | max (d s1 s2 : BitVec 5) (w : BitVec 4)
  | minu (d s1 s2 : BitVec 5) (w : BitVec 4)
  | maxu (d s1 s2 : BitVec 5) (w : BitVec 4)
  | slt (d s1 s2 : BitVec 5) (w : BitVec 4)
  | sltu (d s1 s2 : BitVec 5) (w : BitVec 4)
  | sel (d s1 s2 : BitVec 5) (w : BitVec 4)
  | clz (d s1 : BitVec 5) (w : BitVec 4)
  | popc (d s1 : BitVec 5) (w : BitVec 4)
  | addi (d s1 : BitVec 5) (imm : BitVec 11) (w : BitVec 4)
  | andi (d s1 : BitVec 5) (imm : BitVec 11) (w : BitVec 4)
  | ori (d s1 : BitVec 5) (imm : BitVec 11) (w : BitVec 4)
  | xori (d s1 : BitVec 5) (imm : BitVec 11) (w : BitVec 4)
  | shli (d s1 : BitVec 5) (imm : BitVec 11) (w : BitVec 4)
  | shri (d s1 : BitVec 5) (imm : BitVec 11) (w : BitVec 4)
  | srai (d s1 : BitVec 5) (imm : BitVec 11) (w : BitVec 4)
  | slti (d s1 : BitVec 5) (imm : BitVec 11) (w : BitVec 4)
  | lui (d : BitVec 5) (imm : BitVec 16) (w : BitVec 4)
  | lix (d : BitVec 5) (imm : BitVec 32) (w : BitVec 4)
  -- A map, control (R132-R138)
  | br (cond : BitVec 3) (s1 s2 : BitVec 5) (target : BitVec 28) (w : BitVec 4)
  | jmp (target : BitVec 28) (w : BitVec 4)
  | call (target : BitVec 28) (w : BitVec 4)
  | ret (w : BitVec 4)
  | loop (lid : BitVec 3) (s1 : BitVec 5) (target : BitVec 28) (w : BitVec 4)
  | brk (imm : BitVec 16) (w : BitVec 4)
  | cqp (s1 : BitVec 5) (w : BitVec 4)
  | endA (w : BitVec 4)
  | nopA (w : BitVec 4)
  | hint (x : BitVec 25)
  -- A map, memory (R139-R152)
  | ld (d s1 : BitVec 5) (size : BitVec 2) (sgn : BitVec 1) (ord : BitVec 2) (dn : BitVec 4) (sub : BitVec 2) (w : BitVec 4)
  | st (d s1 : BitVec 5) (size : BitVec 2) (ord : BitVec 2) (dn : BitVec 4) (sub : BitVec 2) (w : BitVec 4)
  | ldl (d s1 : BitVec 5) (size : BitVec 2) (sgn : BitVec 1) (w : BitVec 4)
  | stl (d s1 : BitVec 5) (size : BitVec 2) (w : BitVec 4)
  | ldt (t : BitVec 6) (s1 : BitVec 5) (src : BitVec 1) (dn : BitVec 4) (w : BitVec 4)
  | stt (t : BitVec 6) (s1 : BitVec 5) (src : BitVec 1) (dn : BitVec 4) (w : BitVec 4)
  | pft (s1 : BitVec 5) (dn : BitVec 4) (w : BitVec 4)
  | align (w : BitVec 4)
  | fence (scope : BitVec 2) (w : BitVec 4)
  | drnt (dn : BitVec 4) (scope : BitVec 2) (w : BitVec 4)
  | drntCompletion (b : BankRef)
  | queueEntryPerform (b : BankRef) (store : Bool)
  | pageFaultBankSwitch (b : BankRef)
  | waita (d s1 s2 : BitVec 5) (dn : BitVec 4) (scope : BitVec 2) (w : BitVec 4)
  | monitorTrigger (b : BankRef)
  | waittmoExpiry (b : BankRef)
  -- A map, atomics, tokens, CSRs, system (R153-R165)
  | aat (d s1 s2 : BitVec 5) (dn : BitVec 4) (s3 : BitVec 5) (aop : BitVec 3) (ty : BitVec 1) (ord : BitVec 1) (w : BitVec 4)
  | orderedAtomicApply (u : SuiteId)
  | accseqWrite (u : SuiteId) (v : Word)
  | amem (d s1 s2 : BitVec 5) (dn : BitVec 4) (sub : BitVec 2) (w : BitVec 4)
  | toksA (dst : BitVec 2) (w : BitVec 4)
  | tokwA (pop : BitVec 4) (w : BitVec 4)
  | crd (d s1 : BitVec 5) (csr : BitVec 11) (w : BitVec 4)
  | cwr (d s1 : BitVec 5) (csr : BitVec 11) (w : BitVec 4)
  | cmw (d s1 : BitVec 5) (csr : BitVec 11) (w : BitVec 4)
  | cxc (d s1 : BitVec 5) (csr : BitVec 11) (w : BitVec 4)
  | csrWrite (ag : Agent) (num : BitVec 12) (v : Word)
  | trap (imm : BitVec 16) (w : BitVec 4)
  | eret (w : BitVec 4)
  | yieldA (w : BitVec 4)
  | rpush (imm : BitVec 16) (w : BitVec 4)
  | rpop (w : BitVec 4)
  | tinv (s1 s2 : BitVec 5) (dn : BitVec 4) (w : BitVec 4)
  | tinvCompletion (c : CtxId)
  | frel (s1 s2 : BitVec 5) (dn : BitVec 4) (w : BitVec 4)
  | frelCompletion (c : CtxId)
  | ssync (d : BitVec 5) (dn : BitVec 4) (w : BitVec 4)
  | ssyncArrival (u : SuiteId) (b : Fin 2)
  | barrierCompletion (t : TenantId) (scope : Fin 3) (inst : Nat)
  | digstatWrite (t : TenantId) (v : Word)
  | digpeerWrite (t : TenantId) (v : Word)
  -- room commands (R213-R218)
  | mnest (s1 s2 : BitVec 5) (tok : Tok) (dn : BitVec 4) (w : BitVec 4)
  | mfmt (s1 s2 : BitVec 5) (tok : Tok) (dn : BitVec 4) (w : BitVec 4)
  | mgo (tok : Tok) (dn : BitVec 4) (w : BitVec 4)
  | mgoStart (u : SuiteId)
  | nestBeat (u : SuiteId)
  | drainRow (u : SuiteId)
  | haltRestart (u : SuiteId)
  | mwing (s1 : BitVec 5) (tok : Tok) (dn : BitVec 4) (w : BitVec 4)
  | reshapeEffect (u : SuiteId)
  | mdrn (s1 s2 : BitVec 5) (tok : Tok) (dn : BitVec 4) (w : BitVec 4)
  -- drone mode (R229-R235)
  | dstart (s1 s2 : BitVec 5) (tok : Tok) (dn : BitVec 4) (w : BitVec 4)
  | dstartEffect (u : SuiteId)
  | dlook (s1 : BitVec 5) (tok : Tok) (dn : BitVec 4) (w : BitVec 4)
  | dfeed (s1 s2 : BitVec 5) (tok : Tok) (dn : BitVec 4) (w : BitVec 4)
  | dfeedHead (u : SuiteId)
  | ddrn (s1 : BitVec 5) (tok : Tok) (dn : BitVec 4) (w : BitVec 4)
  | ddrnHead (u : SuiteId)
  | dend (tok : Tok) (dn : BitVec 4) (w : BitVec 4)
  | dret (w : BitVec 4)
  | beatDue (u : SuiteId)
  | droneBeat (u : SuiteId)
  | missdl (u : SuiteId)
  | demandVector (u : SuiteId)
  -- copies, passages, collectives (R236-R243, R268-R278)
  | cpy (s1 s2 : BitVec 5) (tok : Tok) (dn : BitVec 4) (desc : BitVec 17) (w : BitVec 4)
  | cpyStart (u : SuiteId)
  | cpyCompletion (u : SuiteId) (k : Nat)
  | cpyq (tok : Tok) (dn : BitVec 4) (w : BitVec 4)
  | commandCompletion (u : SuiteId) (k : Nat)
  | psend (s1 s2 : BitVec 5) (tok : Tok) (dn : BitVec 4) (w : BitVec 4)
  | psendCredit (u : SuiteId)
  | psendCompletion (u : SuiteId) (k : Nat)
  | precv (s1 s2 : BitVec 5) (tok : Tok) (dn : BitVec 4) (w : BitVec 4)
  | precvSlot (u : SuiteId)
  | precvCompletion (u : SuiteId) (k : Nat)
  | coll (s1 s2 : BitVec 5) (tok : Tok) (dn : BitVec 4) (w : BitVec 4)
  | collArrival (u : SuiteId)
  | collStep (inst : Nat)
  | collInstanceCompletion (inst : Nat)
  | collw (s1 : BitVec 5) (dn : BitVec 4) (w : BitVec 4)
  -- scan group (R297-R303)
  | scnstop (d s1 s2 : BitVec 5) (dn : BitVec 4) (w : BitVec 4)
  | scnrun (d s1 s2 : BitVec 5) (dn : BitVec 4) (w : BitVec 4)
  | scnout (d s1 : BitVec 5) (dn : BitVec 4) (w : BitVec 4)
  | scnin (d s1 : BitVec 5) (dn : BitVec 4) (w : BitVec 4)
  | scnq (d s1 s2 : BitVec 5) (dn : BitVec 4) (w : BitVec 4)
  | scanControllerTake (c : CtxId)
  | beatStop (c : CtxId)
  | coreStopComplete (c : CtxId)
  | scnrunRestart (c : CtxId)
  -- X map (R170-R192)
  | vadd (d s1 s2 : BitVec 6) (ty : BitVec 3) (w : BitVec 4)
  | vsub (d s1 s2 : BitVec 6) (ty : BitVec 3) (w : BitVec 4)
  | vmul (d s1 s2 : BitVec 6) (ty : BitVec 3) (w : BitVec 4)
  | vfma (d s1 s2 : BitVec 6) (ty : BitVec 3) (w : BitVec 4)
  | vfms (d s1 s2 : BitVec 6) (ty : BitVec 3) (w : BitVec 4)
  | vmin (d s1 s2 : BitVec 6) (ty : BitVec 3) (w : BitVec 4)
  | vmax (d s1 s2 : BitVec 6) (ty : BitVec 3) (w : BitVec 4)
  | vabs (d s1 : BitVec 6) (ty : BitVec 3) (w : BitVec 4)
  | vneg (d s1 : BitVec 6) (ty : BitVec 3) (w : BitVec 4)
  | vand (d s1 s2 : BitVec 6) (w : BitVec 4)
  | vor (d s1 s2 : BitVec 6) (w : BitVec 4)
  | vxor (d s1 s2 : BitVec 6) (w : BitVec 4)
  | vnot (d s1 : BitVec 6) (w : BitVec 4)
  | vshl (d s1 s2 : BitVec 6) (ty : BitVec 3) (w : BitVec 4)
  | vshr (d s1 s2 : BitVec 6) (ty : BitVec 3) (w : BitVec 4)
  | vsra (d s1 s2 : BitVec 6) (ty : BitVec 3) (w : BitVec 4)
  | vcmp (md : BitVec 3) (cond : BitVec 3) (s1 s2 : BitVec 6) (ty : BitVec 3) (w : BitVec 4)
  | vsel (d s1 : BitVec 6) (m : BitVec 3) (ty : BitVec 3) (w : BitVec 4)
  | vexp2 (d s1 : BitVec 6) (ty : BitVec 3) (w : BitVec 4)
  | vlog2 (d s1 : BitVec 6) (ty : BitVec 3) (w : BitVec 4)
  | vrcp (d s1 : BitVec 6) (ty : BitVec 3) (w : BitVec 4)
  | vrsq (d s1 : BitVec 6) (ty : BitVec 3) (w : BitVec 4)
  | vsqrt (d s1 : BitVec 6) (ty : BitVec 3) (w : BitVec 4)
  | vsigm (d s1 : BitVec 6) (ty : BitVec 3) (w : BitVec 4)
  | vtanh (d s1 : BitVec 6) (ty : BitVec 3) (w : BitVec 4)
  | vcvt (d s1 : BitVec 6) (dty : BitVec 3) (rm : BitVec 2) (ov : BitVec 1) (ty : BitVec 3) (w : BitVec 4)
  | vqdec (d s1 s2 : BitVec 6) (ty : BitVec 3) (w : BitVec 4)
  | vqenc (d s1 s2 : BitVec 6) (ty : BitVec 3) (w : BitVec 4)
  | vscl (d s1 s2 : BitVec 6) (ty : BitVec 3) (w : BitVec 4)
  | vred (d s1 : BitVec 6) (order axis : BitVec 1) (kind : BitVec 2) (ty : BitVec 3) (w : BitVec 4)
  | vscan (d s1 : BitVec 6) (order axis : BitVec 1) (kind : BitVec 2) (ty : BitVec 3) (w : BitVec 4)
  | vbcr (d s1 : BitVec 6) (ty : BitVec 3) (w : BitVec 4)
  | vbcc (d s1 : BitVec 6) (ty : BitVec 3) (w : BitVec 4)
  | vbcs (d s1 : BitVec 6) (ty : BitVec 3) (w : BitVec 4)
  | vtrn (d s1 : BitVec 6) (ty : BitVec 3) (w : BitVec 4)
  | vshf (d s1 s2 : BitVec 6) (ty : BitVec 3) (w : BitVec 4)
  | vmov (d s1 : BitVec 6) (w : BitVec 4)
  | vzero (d : BitVec 6) (w : BitVec 4)
  | vacc (t : BitVec 6) (k : BitVec 5) (h : BitVec 1) (w : BitVec 4)
  | vacw (t : BitVec 6) (k : BitVec 5) (h : BitVec 1) (mode : BitVec 1) (w : BitVec 4)
  | mand (md ms1 ms2 : BitVec 3) (w : BitVec 4)
  | mor (md ms1 ms2 : BitVec 3) (w : BitVec 4)
  | mxor (md ms1 ms2 : BitVec 3) (w : BitVec 4)
  | mnot (md ms1 : BitVec 3) (w : BitVec 4)
  | mpop (md ms1 : BitVec 3) (w : BitVec 4)
  | eadd (d s1 s2 : BitVec 4) (imm : BitVec 9) (w : BitVec 4)
  | esub (d s1 s2 : BitVec 4) (imm : BitVec 9) (w : BitVec 4)
  | emul (d s1 s2 : BitVec 4) (w : BitVec 4)
  | emov (d s1 : BitVec 4) (w : BitVec 4)
  | eli (d : BitVec 4) (imm : BitVec 17) (w : BitVec 4)
  | erd (d : BitVec 4) (csr : BitVec 12) (w : BitVec 4)
  | ewr (d : BitVec 4) (csr : BitVec 12) (w : BitVec 4)
  | cqb (cond : BitVec 3) (s1 s2 : BitVec 4) (target : BitVec 28) (w : BitVec 4)
  | cqr (d : BitVec 4) (w : BitVec 4)
  | xloop (lid : BitVec 3) (s1 : BitVec 4) (target : BitVec 28) (w : BitVec 4)
  | xbr (cond : BitVec 3) (s1 s2 : BitVec 4) (target : BitVec 28) (w : BitVec 4)
  | toksX (dst : BitVec 2) (w : BitVec 4)
  | tokwX (pop : BitVec 4) (w : BitVec 4)
  | nopX (w : BitVec 4)
  | xend (w : BitVec 4)
  -- drain micro-ops (R252)
  | dscl (n : BitVec 12)
  | dbia (n : BitVec 12)
  | dact (fn : BitVec 6)
  | dclp (n : BitVec 12)
  | dcvt (ov : BitVec 1) (rm : BitVec 2) (ty : BitVec 3)
  | dmul (n : BitVec 12)
  | dadd (n : BitVec 12)
  | dovw (k : BitVec 5)
  | dstl (pitch : BitVec 2) (n : BitVec 12)
  | drainDend (nomain : BitVec 1)
  -- launches, visits and events (R34-R41, R327, R347)
  | launchReady (t : TenantId) (id : W32)
  | priorityAging (t : TenantId) (id : W32)
  | visitPlacement (lead : SuiteId) (shape : Fin 9)
  | visitRetire (u : SuiteId) (b : Fin 2)
  | eventRingWrite (c : CtxId)
  | evqheadWrite (c : CtxId) (v : Word)
  | evqbaseWrite (c : CtxId) (v : Word)
  | counterOverflow (b : BankRef) (n : Fin 8)
  | vcmdResume (c : CtxId)
  | vcmdSkip (c : CtxId)
  | varegWrite (c : CtxId) (v : Word)
  | fedead (u : SuiteId) (b : Fin 2)
  | lssplitWrite (u : SuiteId) (v : Word)
  | migration (t : TenantId) (seg : Fin 65536)
  | ctxstartWrite (c : CtxId) (v : Word)
  | lsubmitWrite (c : CtxId) (v : Word)
  | keyctlAssign (t : TenantId) (slot : Fin 128)
  | keyctlRelease (slot : Fin 128)
  | ownmaskWrite (t : TenantId) (v : Word)
  | wingsetWrite (c : CtxId) (v : Word)
  | resetDie (d : DieId)
  | resetTenant (t : TenantId)
  | resetRoom (u : SuiteId)
  | visitAbort (u : SuiteId) (b : Fin 2) (replace : Bool)
  | feataccWrite (hi : Bool) (v : Word)
  | detctlWrite (t : TenantId) (v : Word)
  | passWrite (bd : Fin 5) (p : Fin 8) (v : Word)
  | l2qosWrite (t : TenantId) (v : Word)
  | l2PortGrant (port : Nat)
  | alockWrite (c : CtxId) (v : Word)
  | aunlkWrite (c : CtxId)
  | ologwWrite (c : CtxId) (v : Word)
  | ologlimWrite (t : TenantId) (v : Word)
  | replaydiv (t : TenantId)
  | trctlWrite (t : TenantId) (v : Word)
  | roomfltClear (u : SuiteId)
  | scndmgClear (v : Word)
  -- host, fabric, environment (R330-R333, R408, R422-R426, R435)
  -- landings and movements (R121, R148, R156, R237, R302, R366, R408)
  | accumulatorAtomicApply (u : SuiteId)
  | prefetchCompletion (b : BankRef) (k : Nat)
  | copyElementMove (u : SuiteId) (k : Nat)
  | scanShiftCompletion (c : CtxId)
  -- what comes from outside, and turns that every cycle has (R121, R325, R330-R333, R343, R366, R408, R422-R425, R435)
  | hostLaunch (t : TenantId) (tag : W16) (record : List Byte)
  | hostDoorbell (t : TenantId) (v : Word)
  | hostQuote (tag : W16) (nonce : BitVec 256)
  | flitReceive (port : Fin 12) (crcOk : Bool) (source : Nat) (seq : Nat) (packet : Packet)
  | linkdown (port : Fin 12)
  | linkRetrain (port : Fin 12) (ok : Bool)
  | routeUpdate (reachable : List Nat)
  | powerThrottle (d : DieId) (blocks : Nat)
  | patrolScrub (line : Nat)
  | stewardRegisterUe (c : CtxId)
  | softError (site : ErrSite)
  | peerDigest (t : TenantId) (digest : BitVec 256) (count : Word) (errs : BitVec 32)
  | unassignedEncoding (m : Map) (word : W32)
  | resultLanding (b : BankRef)
  | l2BucketRefill (port : Nat)
  | escapeChannelEntry (port : Fin 12)
  | thermalTrip
  | packageReset
  deriving DecidableEq, Repr

end Sys2Proof
end

