-- ==== Sys2Proof/WellFormed.lean ====
section
/-! DEFINITION. The field values that an instruction may carry: spec/05_encoding.md R110-R115, spec/18_instruction_exceptions.md R367-R374.
A value that these refuse traps ILLFLD at stage 1. Tile, mask and accumulator numbers are not fields of this kind: they trap ILLREG. -/

namespace Sys2Proof

/-- The bit that stands for an engine in a pop mask: [14] a, [13] x, [12] m, [11] c (R112). -/
def Engine.popBit : Engine → BitVec 4
  | .a => 8 | .x => 4 | .m => 2 | .c => 1

/-- The token fields of a command that engine `e` executes (R112). -/
def Tok.ok (e : Engine) (t : Tok) : Bool :=
  (t.pop &&& e.popBit) == 0 && (if t.pushEn = 1 then t.pushDst != e.code else t.pushDst == 0)

/-- The type set F of R166. -/
def tyF (ty : BitVec 3) : Bool := (Machine.Fmt.ofTy ty).isF
/-- The type set I of R166. -/
def tyI (ty : BitVec 3) : Bool := (Machine.Fmt.ofTy ty).isI
/-- The type set A of R166. -/
def tyA (ty : BitVec 3) : Bool := tyF ty || tyI ty

/-- The field checks of stage 1 that an instruction's own fields can fail. An event has no fields to check. -/
def Instr.fieldsOk : Instr → Bool
  | .shli _ _ imm _ | .shri _ _ imm _ | .srai _ _ imm _ => decide (imm.toNat < 64)
  | .br cond _ s2 _ _ => decide (cond.toNat < 6) || s2 == 0
  | .loop lid _ _ _ => decide (lid.toNat < 6)
  | .ld _ _ size sgn ord _ sc _ =>
    decide (ord.toNat < 2) && !(size == 3 && sgn == 1) && (sc == 0 || ord == 1)
  | .st _ _ _ ord _ sc _ => ord != 1 && (sc == 0 || ord == 2)
  | .ldl _ _ size sgn _ => !(size == 3 && sgn == 1)
  | .aat _ _ _ _ s3 aop _ ord _ =>
    decide (aop.toNat < 5) && !(aop == 4 && ord == 1) && (s3 == 0 || aop == 4 || ord == 1)
  | .toksA dst _ => dst != 0
  | .tokwA pop _ => pop != 0 && (pop &&& 8) == 0
  | .toksX dst _ => dst != 1
  | .tokwX pop _ => pop != 0 && (pop &&& 4) == 0
  | .mnest _ _ tok _ _ | .mfmt _ _ tok _ _ | .mgo tok _ _ | .mwing _ tok _ _ | .mdrn _ _ tok _ _ | .dstart _ _ tok _ _
  | .dlook _ tok _ _ | .dfeed _ _ tok _ _ | .ddrn _ tok _ _ | .dend tok _ _ => tok.ok .m
  | .cpy _ _ tok _ _ _ | .cpyq tok _ _ | .psend _ _ tok _ _ | .precv _ _ tok _ _ | .coll _ _ tok _ _ => tok.ok .c
  | .vadd _ _ _ ty _ | .vsub _ _ _ ty _ | .vmul _ _ _ ty _ | .vfma _ _ _ ty _ | .vfms _ _ _ ty _ | .vmin _ _ _ ty _
  | .vmax _ _ _ ty _ | .vabs _ _ ty _ | .vneg _ _ ty _ | .vcmp _ _ _ _ ty _ => tyA ty
  | .vshl _ _ _ ty _ | .vshr _ _ _ ty _ | .vsra _ _ _ ty _ => tyI ty
  | .vexp2 _ _ ty _ | .vlog2 _ _ ty _ | .vrcp _ _ ty _ | .vrsq _ _ ty _ | .vsqrt _ _ ty _ | .vsigm _ _ ty _ | .vtanh _ _ ty _
  | .vqdec _ _ _ ty _ | .vqenc _ _ _ ty _ | .vscl _ _ _ ty _ => tyF ty
  | .vred _ _ _ _ kind ty _ => kind != 3 && tyA ty
  | .vscan _ _ _ _ kind ty _ => decide (kind.toNat < 2) && tyA ty
  | .cqb cond _ s2 _ _ => decide (cond.toNat < 6) || s2 == 0
  | .xloop lid _ _ _ => decide (lid.toNat < 6)
  | .dact fn => decide (fn.toNat < 6)
  | _ => true

/-- An instruction whose field values the manual admits. -/
abbrev Instr.WellFormed (i : Instr) : Prop := i.fieldsOk = true

end Sys2Proof
end

