-- ==== Sys2Proof/Decode.lean ====
section
/-! DEFINITION. The decoder of the three opcode maps and the encoder: spec/05_encoding.md R107-R118, spec/18_instruction_exceptions.md R366. -/

namespace Sys2Proof

/-- Why a word names no instruction (R119 steps 2 and 3, R366). -/
inductive DecodeError where
  | noOpcode       -- an opcode shown as a dash
  | reservedField  -- a non-zero reserved field, or a sub value that selects no mnemonic
  deriving DecidableEq, Repr

/-- The n bits of a word from bit lo upward. -/
def fld (w : W32) (lo n : Nat) : BitVec n := w.extractLsb' lo n

/-- The token fields of an AC or XQ word (R112). -/
def tokOf (w : W32) : Tok := ⟨fld w 11 4, fld w 10 1, fld w 8 2⟩

/-- An instruction whose reserved fields are zero, or the refusal. -/
def need (c : Bool) (i : Instr) : Except DecodeError Instr := if c then .ok i else .error .reservedField

/-- The two mnemonics that one opcode gives by its sub field (R111). -/
def pick (c : Bool) (sub : BitVec 2) (i j : Instr) : Except DecodeError Instr :=
  if c && sub == 0 then .ok i else if c && sub == 1 then .ok j else .error .reservedField

/-- The A map (R109-R113, R116). `x` is the word after a two-slot form. -/
def decodeA (w x : W32) : Except DecodeError Instr :=
  match (fld w 25 7).toNat with
  | 0x00 => need (fld w 4 6 == 0) (.add (fld w 20 5) (fld w 15 5) (fld w 10 5) (fld w 0 4))
  | 0x01 => need (fld w 4 6 == 0) (.sub (fld w 20 5) (fld w 15 5) (fld w 10 5) (fld w 0 4))
  | 0x02 => need (fld w 4 6 == 0) (.mul (fld w 20 5) (fld w 15 5) (fld w 10 5) (fld w 0 4))
  | 0x03 => need (fld w 4 6 == 0) (.mulh (fld w 20 5) (fld w 15 5) (fld w 10 5) (fld w 0 4))
  | 0x04 => need (fld w 4 2 == 0) (.div (fld w 20 5) (fld w 15 5) (fld w 10 5) (fld w 6 4) (fld w 0 4))
  | 0x05 => need (fld w 4 2 == 0) (.divu (fld w 20 5) (fld w 15 5) (fld w 10 5) (fld w 6 4) (fld w 0 4))
  | 0x06 => need (fld w 4 2 == 0) (.rem (fld w 20 5) (fld w 15 5) (fld w 10 5) (fld w 6 4) (fld w 0 4))
  | 0x07 => need (fld w 4 2 == 0) (.remu (fld w 20 5) (fld w 15 5) (fld w 10 5) (fld w 6 4) (fld w 0 4))
  | 0x08 => need (fld w 4 6 == 0) (.and (fld w 20 5) (fld w 15 5) (fld w 10 5) (fld w 0 4))
  | 0x09 => need (fld w 4 6 == 0) (.or (fld w 20 5) (fld w 15 5) (fld w 10 5) (fld w 0 4))
  | 0x0a => need (fld w 4 6 == 0) (.xor (fld w 20 5) (fld w 15 5) (fld w 10 5) (fld w 0 4))
  | 0x0b => need (fld w 4 6 == 0) (.shl (fld w 20 5) (fld w 15 5) (fld w 10 5) (fld w 0 4))
  | 0x0c => need (fld w 4 6 == 0) (.shr (fld w 20 5) (fld w 15 5) (fld w 10 5) (fld w 0 4))
  | 0x0d => need (fld w 4 6 == 0) (.sra (fld w 20 5) (fld w 15 5) (fld w 10 5) (fld w 0 4))
  | 0x0e => need (fld w 4 6 == 0) (.min (fld w 20 5) (fld w 15 5) (fld w 10 5) (fld w 0 4))
  | 0x0f => need (fld w 4 6 == 0) (.max (fld w 20 5) (fld w 15 5) (fld w 10 5) (fld w 0 4))
  | 0x10 => need (fld w 4 6 == 0) (.minu (fld w 20 5) (fld w 15 5) (fld w 10 5) (fld w 0 4))
  | 0x11 => need (fld w 4 6 == 0) (.maxu (fld w 20 5) (fld w 15 5) (fld w 10 5) (fld w 0 4))
  | 0x12 => need (fld w 4 6 == 0) (.slt (fld w 20 5) (fld w 15 5) (fld w 10 5) (fld w 0 4))
  | 0x13 => need (fld w 4 6 == 0) (.sltu (fld w 20 5) (fld w 15 5) (fld w 10 5) (fld w 0 4))
  | 0x14 => need (fld w 4 6 == 0) (.sel (fld w 20 5) (fld w 15 5) (fld w 10 5) (fld w 0 4))
  | 0x15 => pick (fld w 10 5 == 0 && fld w 6 4 == 0) (fld w 4 2) (.clz (fld w 20 5) (fld w 15 5) (fld w 0 4)) (.popc (fld w 20 5) (fld w 15 5) (fld w 0 4))
  | 0x16 => .ok (.addi (fld w 20 5) (fld w 15 5) (fld w 4 11) (fld w 0 4))
  | 0x17 => .ok (.andi (fld w 20 5) (fld w 15 5) (fld w 4 11) (fld w 0 4))
  | 0x18 => .ok (.ori (fld w 20 5) (fld w 15 5) (fld w 4 11) (fld w 0 4))
  | 0x19 => .ok (.xori (fld w 20 5) (fld w 15 5) (fld w 4 11) (fld w 0 4))
  | 0x1a => .ok (.shli (fld w 20 5) (fld w 15 5) (fld w 4 11) (fld w 0 4))
  | 0x1b => .ok (.shri (fld w 20 5) (fld w 15 5) (fld w 4 11) (fld w 0 4))
  | 0x1c => .ok (.srai (fld w 20 5) (fld w 15 5) (fld w 4 11) (fld w 0 4))
  | 0x1d => .ok (.slti (fld w 20 5) (fld w 15 5) (fld w 4 11) (fld w 0 4))
  | 0x1e => .ok (.lui (fld w 20 5) (fld w 4 16) (fld w 0 4))
  | 0x1f => need (fld w 4 16 == 0) (.lix (fld w 20 5) x (fld w 0 4))
  | 0x20 => need (fld w 20 2 == 0 && fld w 4 6 == 0 && fld x 0 4 == 0) (.br (fld w 22 3) (fld w 15 5) (fld w 10 5) (fld x 4 28) (fld w 0 4))
  | 0x21 => need (fld w 4 21 == 0 && fld x 0 4 == 0) (.jmp (fld x 4 28) (fld w 0 4))
  | 0x22 => need (fld w 4 21 == 0 && fld x 0 4 == 0) (.call (fld x 4 28) (fld w 0 4))
  | 0x23 => need (fld w 4 21 == 0) (.ret (fld w 0 4))
  | 0x24 => need (fld w 20 2 == 0 && fld w 4 11 == 0 && fld x 0 4 == 0) (.loop (fld w 22 3) (fld w 15 5) (fld x 4 28) (fld w 0 4))
  | 0x25 => need (fld w 20 5 == 0) (.brk (fld w 4 16) (fld w 0 4))
  | 0x26 => need (fld w 20 5 == 0 && fld w 4 11 == 0) (.cqp (fld w 15 5) (fld w 0 4))
  | 0x27 => need (fld w 4 21 == 0) (.endA (fld w 0 4))
  | 0x28 => need (fld w 4 21 == 0) (.nopA (fld w 0 4))
  | 0x30 => .ok (.ld (fld w 20 5) (fld w 15 5) (fld w 13 2) (fld w 12 1) (fld w 10 2) (fld w 6 4) (fld w 4 2) (fld w 0 4))
  | 0x31 => need (fld w 12 1 == 0) (.st (fld w 20 5) (fld w 15 5) (fld w 13 2) (fld w 10 2) (fld w 6 4) (fld w 4 2) (fld w 0 4))
  | 0x32 => need (fld w 4 8 == 0) (.ldl (fld w 20 5) (fld w 15 5) (fld w 13 2) (fld w 12 1) (fld w 0 4))
  | 0x33 => need (fld w 4 9 == 0) (.stl (fld w 20 5) (fld w 15 5) (fld w 13 2) (fld w 0 4))
  | 0x34 => need (fld w 10 3 == 0 && fld w 4 2 == 0) (.ldt (fld w 19 6) (fld w 14 5) (fld w 13 1) (fld w 6 4) (fld w 0 4))
  | 0x35 => need (fld w 10 3 == 0 && fld w 4 2 == 0) (.stt (fld w 19 6) (fld w 14 5) (fld w 13 1) (fld w 6 4) (fld w 0 4))
  | 0x36 => need (fld w 19 6 == 0 && fld w 10 4 == 0 && fld w 4 2 == 0) (.pft (fld w 14 5) (fld w 6 4) (fld w 0 4))
  | 0x37 => need (fld w 4 21 == 0) (.align (fld w 0 4))
  | 0x38 => need (fld w 6 19 == 0) (.fence (fld w 4 2) (fld w 0 4))
  | 0x39 => need (fld w 10 15 == 0) (.drnt (fld w 6 4) (fld w 4 2) (fld w 0 4))
  | 0x3a => .ok (.waita (fld w 20 5) (fld w 15 5) (fld w 10 5) (fld w 6 4) (fld w 4 2) (fld w 0 4))
  | 0x3b => .ok (.amem (fld w 20 5) (fld w 15 5) (fld w 10 5) (fld w 6 4) (fld w 4 2) (fld w 0 4))
  | 0x48 => need (fld w 4 2 == 0 && fld x 0 22 == 0) (.aat (fld w 20 5) (fld w 15 5) (fld w 10 5) (fld w 6 4) (fld x 27 5) (fld x 24 3) (fld x 23 1) (fld x 22 1) (fld w 0 4))
  | 0x49 => need (fld w 10 10 == 0 && fld w 4 2 == 0) (.ssync (fld w 20 5) (fld w 6 4) (fld w 0 4))
  | 0x58 => .ok (.mnest (fld w 20 5) (fld w 15 5) (tokOf w) (fld w 4 4) (fld w 0 4))
  | 0x59 => .ok (.mfmt (fld w 20 5) (fld w 15 5) (tokOf w) (fld w 4 4) (fld w 0 4))
  | 0x5a => need (fld w 15 10 == 0) (.mgo (tokOf w) (fld w 4 4) (fld w 0 4))
  | 0x5b => need (fld w 15 5 == 0) (.mwing (fld w 20 5) (tokOf w) (fld w 4 4) (fld w 0 4))
  | 0x5c => .ok (.mdrn (fld w 20 5) (fld w 15 5) (tokOf w) (fld w 4 4) (fld w 0 4))
  | 0x5d => .ok (.dstart (fld w 20 5) (fld w 15 5) (tokOf w) (fld w 4 4) (fld w 0 4))
  | 0x5e => need (fld w 15 5 == 0) (.dlook (fld w 20 5) (tokOf w) (fld w 4 4) (fld w 0 4))
  | 0x5f => .ok (.dfeed (fld w 20 5) (fld w 15 5) (tokOf w) (fld w 4 4) (fld w 0 4))
  | 0x60 => need (fld w 15 5 == 0) (.ddrn (fld w 20 5) (tokOf w) (fld w 4 4) (fld w 0 4))
  | 0x61 => need (fld w 15 10 == 0) (.dend (tokOf w) (fld w 4 4) (fld w 0 4))
  | 0x63 => need (fld x 23 9 == 0 && fld x 0 6 == 0) (.cpy (fld w 20 5) (fld w 15 5) (tokOf w) (fld w 4 4) (fld x 6 17) (fld w 0 4))
  | 0x64 => need (fld w 15 10 == 0) (.cpyq (tokOf w) (fld w 4 4) (fld w 0 4))
  | 0x67 => .ok (.psend (fld w 20 5) (fld w 15 5) (tokOf w) (fld w 4 4) (fld w 0 4))
  | 0x68 => .ok (.precv (fld w 20 5) (fld w 15 5) (tokOf w) (fld w 4 4) (fld w 0 4))
  | 0x69 => .ok (.coll (fld w 20 5) (fld w 15 5) (tokOf w) (fld w 4 4) (fld w 0 4))
  | 0x62 => need (fld w 4 21 == 0) (.dret (fld w 0 4))
  | 0x65 => need (fld w 11 14 == 0 && fld w 4 4 == 0 && fld w 10 1 == 1) (.toksA (fld w 8 2) (fld w 0 4))
  | 0x66 => need (fld w 15 10 == 0 && fld w 4 7 == 0) (.tokwA (fld w 11 4) (fld w 0 4))
  | 0x6a => need (fld w 20 5 == 0 && fld w 10 5 == 0 && fld w 4 2 == 0) (.collw (fld w 15 5) (fld w 6 4) (fld w 0 4))
  | 0x70 => .ok (.crd (fld w 20 5) (fld w 15 5) (fld w 4 11) (fld w 0 4))
  | 0x71 => .ok (.cwr (fld w 20 5) (fld w 15 5) (fld w 4 11) (fld w 0 4))
  | 0x72 => .ok (.cmw (fld w 20 5) (fld w 15 5) (fld w 4 11) (fld w 0 4))
  | 0x73 => .ok (.cxc (fld w 20 5) (fld w 15 5) (fld w 4 11) (fld w 0 4))
  | 0x74 => need (fld w 20 5 == 0) (.trap (fld w 4 16) (fld w 0 4))
  | 0x75 => need (fld w 4 21 == 0) (.eret (fld w 0 4))
  | 0x76 => need (fld w 4 21 == 0) (.yieldA (fld w 0 4))
  | 0x77 => need (fld w 20 5 == 0) (.rpush (fld w 4 16) (fld w 0 4))
  | 0x78 => need (fld w 4 21 == 0) (.rpop (fld w 0 4))
  | 0x79 => need (fld w 20 5 == 0 && fld w 4 2 == 0) (.tinv (fld w 15 5) (fld w 10 5) (fld w 6 4) (fld w 0 4))
  | 0x7a => need (fld w 20 5 == 0 && fld w 4 2 == 0) (.frel (fld w 15 5) (fld w 10 5) (fld w 6 4) (fld w 0 4))
  | 0x7b => need (fld w 4 2 == 0) (.scnstop (fld w 20 5) (fld w 15 5) (fld w 10 5) (fld w 6 4) (fld w 0 4))
  | 0x7c => need (fld w 4 2 == 0) (.scnrun (fld w 20 5) (fld w 15 5) (fld w 10 5) (fld w 6 4) (fld w 0 4))
  | 0x7d => pick (fld w 10 5 == 0) (fld w 4 2) (.scnout (fld w 20 5) (fld w 15 5) (fld w 6 4) (fld w 0 4)) (.scnin (fld w 20 5) (fld w 15 5) (fld w 6 4) (fld w 0 4))
  | 0x7e => .ok (.hint (fld w 0 25))
  | 0x7f => need (fld w 4 2 == 0) (.scnq (fld w 20 5) (fld w 15 5) (fld w 10 5) (fld w 6 4) (fld w 0 4))
  | _ => .error .noOpcode

/-- The X map (R114, R117). -/
def decodeX (w x : W32) : Except DecodeError Instr :=
  match (fld w 25 7).toNat with
  | 0x00 => .ok (.vadd (fld w 19 6) (fld w 13 6) (fld w 7 6) (fld w 4 3) (fld w 0 4))
  | 0x01 => .ok (.vsub (fld w 19 6) (fld w 13 6) (fld w 7 6) (fld w 4 3) (fld w 0 4))
  | 0x02 => .ok (.vmul (fld w 19 6) (fld w 13 6) (fld w 7 6) (fld w 4 3) (fld w 0 4))
  | 0x03 => .ok (.vfma (fld w 19 6) (fld w 13 6) (fld w 7 6) (fld w 4 3) (fld w 0 4))
  | 0x04 => .ok (.vfms (fld w 19 6) (fld w 13 6) (fld w 7 6) (fld w 4 3) (fld w 0 4))
  | 0x05 => .ok (.vmin (fld w 19 6) (fld w 13 6) (fld w 7 6) (fld w 4 3) (fld w 0 4))
  | 0x06 => .ok (.vmax (fld w 19 6) (fld w 13 6) (fld w 7 6) (fld w 4 3) (fld w 0 4))
  | 0x07 => need (fld w 7 6 == 0) (.vabs (fld w 19 6) (fld w 13 6) (fld w 4 3) (fld w 0 4))
  | 0x08 => need (fld w 7 6 == 0) (.vneg (fld w 19 6) (fld w 13 6) (fld w 4 3) (fld w 0 4))
  | 0x09 => need (fld w 4 3 == 0) (.vand (fld w 19 6) (fld w 13 6) (fld w 7 6) (fld w 0 4))
  | 0x0a => need (fld w 4 3 == 0) (.vor (fld w 19 6) (fld w 13 6) (fld w 7 6) (fld w 0 4))
  | 0x0b => need (fld w 4 3 == 0) (.vxor (fld w 19 6) (fld w 13 6) (fld w 7 6) (fld w 0 4))
  | 0x0c => need (fld w 4 9 == 0) (.vnot (fld w 19 6) (fld w 13 6) (fld w 0 4))
  | 0x0d => .ok (.vshl (fld w 19 6) (fld w 13 6) (fld w 7 6) (fld w 4 3) (fld w 0 4))
  | 0x0e => .ok (.vshr (fld w 19 6) (fld w 13 6) (fld w 7 6) (fld w 4 3) (fld w 0 4))
  | 0x0f => .ok (.vsra (fld w 19 6) (fld w 13 6) (fld w 7 6) (fld w 4 3) (fld w 0 4))
  | 0x10 => .ok (.vcmp (fld w 22 3) (fld w 19 3) (fld w 13 6) (fld w 7 6) (fld w 4 3) (fld w 0 4))
  | 0x11 => need (fld w 7 3 == 0) (.vsel (fld w 19 6) (fld w 13 6) (fld w 10 3) (fld w 4 3) (fld w 0 4))
  | 0x18 => need (fld w 7 6 == 0) (.vexp2 (fld w 19 6) (fld w 13 6) (fld w 4 3) (fld w 0 4))
  | 0x19 => need (fld w 7 6 == 0) (.vlog2 (fld w 19 6) (fld w 13 6) (fld w 4 3) (fld w 0 4))
  | 0x1a => need (fld w 7 6 == 0) (.vrcp (fld w 19 6) (fld w 13 6) (fld w 4 3) (fld w 0 4))
  | 0x1b => need (fld w 7 6 == 0) (.vrsq (fld w 19 6) (fld w 13 6) (fld w 4 3) (fld w 0 4))
  | 0x1c => need (fld w 7 6 == 0) (.vsqrt (fld w 19 6) (fld w 13 6) (fld w 4 3) (fld w 0 4))
  | 0x1d => need (fld w 7 6 == 0) (.vsigm (fld w 19 6) (fld w 13 6) (fld w 4 3) (fld w 0 4))
  | 0x1e => need (fld w 7 6 == 0) (.vtanh (fld w 19 6) (fld w 13 6) (fld w 4 3) (fld w 0 4))
  | 0x40 => .ok (.vcvt (fld w 19 6) (fld w 13 6) (fld w 10 3) (fld w 8 2) (fld w 7 1) (fld w 4 3) (fld w 0 4))
  | 0x41 => .ok (.vqdec (fld w 19 6) (fld w 13 6) (fld w 7 6) (fld w 4 3) (fld w 0 4))
  | 0x42 => .ok (.vqenc (fld w 19 6) (fld w 13 6) (fld w 7 6) (fld w 4 3) (fld w 0 4))
  | 0x43 => .ok (.vscl (fld w 19 6) (fld w 13 6) (fld w 7 6) (fld w 4 3) (fld w 0 4))
  | 0x50 => need (fld w 7 2 == 0) (.vred (fld w 19 6) (fld w 13 6) (fld w 12 1) (fld w 11 1) (fld w 9 2) (fld w 4 3) (fld w 0 4))
  | 0x51 => need (fld w 7 2 == 0) (.vscan (fld w 19 6) (fld w 13 6) (fld w 12 1) (fld w 11 1) (fld w 9 2) (fld w 4 3) (fld w 0 4))
  | 0x52 => need (fld w 7 6 == 0) (.vbcr (fld w 19 6) (fld w 13 6) (fld w 4 3) (fld w 0 4))
  | 0x53 => need (fld w 7 6 == 0) (.vbcc (fld w 19 6) (fld w 13 6) (fld w 4 3) (fld w 0 4))
  | 0x54 => need (fld w 7 6 == 0) (.vbcs (fld w 19 6) (fld w 13 6) (fld w 4 3) (fld w 0 4))
  | 0x55 => need (fld w 7 6 == 0) (.vtrn (fld w 19 6) (fld w 13 6) (fld w 4 3) (fld w 0 4))
  | 0x56 => .ok (.vshf (fld w 19 6) (fld w 13 6) (fld w 7 6) (fld w 4 3) (fld w 0 4))
  | 0x57 => need (fld w 4 9 == 0) (.vmov (fld w 19 6) (fld w 13 6) (fld w 0 4))
  | 0x58 => need (fld w 4 15 == 0) (.vzero (fld w 19 6) (fld w 0 4))
  | 0x59 => need (fld w 4 9 == 0) (.vacc (fld w 19 6) (fld w 14 5) (fld w 13 1) (fld w 0 4))
  | 0x5a => need (fld w 4 8 == 0) (.vacw (fld w 19 6) (fld w 14 5) (fld w 13 1) (fld w 12 1) (fld w 0 4))
  | 0x60 => need (fld w 4 12 == 0) (.mand (fld w 22 3) (fld w 19 3) (fld w 16 3) (fld w 0 4))
  | 0x61 => need (fld w 4 12 == 0) (.mor (fld w 22 3) (fld w 19 3) (fld w 16 3) (fld w 0 4))
  | 0x62 => need (fld w 4 12 == 0) (.mxor (fld w 22 3) (fld w 19 3) (fld w 16 3) (fld w 0 4))
  | 0x63 => need (fld w 4 15 == 0) (.mnot (fld w 22 3) (fld w 19 3) (fld w 0 4))
  | 0x64 => need (fld w 4 15 == 0) (.mpop (fld w 22 3) (fld w 19 3) (fld w 0 4))
  | 0x68 => .ok (.eadd (fld w 21 4) (fld w 17 4) (fld w 13 4) (fld w 4 9) (fld w 0 4))
  | 0x69 => .ok (.esub (fld w 21 4) (fld w 17 4) (fld w 13 4) (fld w 4 9) (fld w 0 4))
  | 0x6a => need (fld w 4 9 == 0) (.emul (fld w 21 4) (fld w 17 4) (fld w 13 4) (fld w 0 4))
  | 0x6b => need (fld w 4 13 == 0) (.emov (fld w 21 4) (fld w 17 4) (fld w 0 4))
  | 0x6c => .ok (.eli (fld w 21 4) (fld w 4 17) (fld w 0 4))
  | 0x6d => need (fld w 23 2 == 0 && fld w 4 3 == 0) (.erd (fld w 19 4) (fld w 7 12) (fld w 0 4))
  | 0x6e => need (fld w 23 2 == 0 && fld w 4 3 == 0) (.ewr (fld w 19 4) (fld w 7 12) (fld w 0 4))
  | 0x70 => need (fld w 4 10 == 0 && fld x 0 4 == 0) (.cqb (fld w 22 3) (fld w 18 4) (fld w 14 4) (fld x 4 28) (fld w 0 4))
  | 0x71 => need (fld w 4 17 == 0) (.cqr (fld w 21 4) (fld w 0 4))
  | 0x72 => need (fld w 22 3 == 0 && fld w 14 4 == 0 && fld w 4 7 == 0 && fld x 0 4 == 0) (.xloop (fld w 11 3) (fld w 18 4) (fld x 4 28) (fld w 0 4))
  | 0x73 => need (fld w 4 10 == 0 && fld x 0 4 == 0) (.xbr (fld w 22 3) (fld w 18 4) (fld w 14 4) (fld x 4 28) (fld w 0 4))
  | 0x74 => need (fld w 11 14 == 0 && fld w 4 4 == 0 && fld w 10 1 == 1) (.toksX (fld w 8 2) (fld w 0 4))
  | 0x75 => need (fld w 15 10 == 0 && fld w 4 7 == 0) (.tokwX (fld w 11 4) (fld w 0 4))
  | 0x76 => need (fld w 4 21 == 0) (.nopX (fld w 0 4))
  | 0x77 => need (fld w 4 21 == 0) (.xend (fld w 0 4))
  | _ => .error .noOpcode

/-- The drain map (R115, R118). -/
def decodeDrain (w : W32) : Except DecodeError Instr :=
  match (fld w 25 7).toNat with
  | 0x00 => need (fld w 16 9 == 0 && fld w 0 4 == 0) (.dscl (fld w 4 12))
  | 0x01 => need (fld w 16 9 == 0 && fld w 0 4 == 0) (.dbia (fld w 4 12))
  | 0x02 => need (fld w 0 19 == 0) (.dact (fld w 19 6))
  | 0x03 => need (fld w 16 9 == 0 && fld w 0 4 == 0) (.dclp (fld w 4 12))
  | 0x04 => need (fld w 22 3 == 0 && fld w 0 16 == 0) (.dcvt (fld w 21 1) (fld w 19 2) (fld w 16 3))
  | 0x05 => need (fld w 16 9 == 0 && fld w 0 4 == 0) (.dmul (fld w 4 12))
  | 0x06 => need (fld w 16 9 == 0 && fld w 0 4 == 0) (.dadd (fld w 4 12))
  | 0x07 => need (fld w 9 16 == 0 && fld w 0 4 == 0) (.dovw (fld w 4 5))
  | 0x08 => need (fld w 21 4 == 0 && fld w 16 3 == 0 && fld w 0 4 == 0) (.dstl (fld w 19 2) (fld w 4 12))
  | 0x09 => need (fld w 20 5 == 0 && fld w 0 19 == 0) (.drainDend (fld w 19 1))
  | _ => .error .noOpcode

/-- The decoder: a line's map, the word, and the word after it in the line. -/
def decode (m : Map) (w x : W32) : Except DecodeError Instr :=
  match m with
  | .a => decodeA w x
  | .x => decodeX w x
  | .drain => decodeDrain w

/-- Whether a word's opcode is that of a two-slot form (R109, R113, R114). -/
def twoSlot (m : Map) (w : W32) : Bool :=
  match m with
  | .a => [0x1f, 0x20, 0x21, 0x22, 0x24, 0x48, 0x63].contains (fld w 25 7).toNat
  | .x => [0x70, 0x72, 0x73].contains (fld w 25 7).toNat
  | .drain => false

/-- The words of an instruction, from the same layouts; an event has none. -/
def encode : Instr → List W32
  | .add f0 f1 f2 w => [0x00#7 ++ f0 ++ f1 ++ f2 ++ 0#6 ++ w]
  | .sub f0 f1 f2 w => [0x01#7 ++ f0 ++ f1 ++ f2 ++ 0#6 ++ w]
  | .mul f0 f1 f2 w => [0x02#7 ++ f0 ++ f1 ++ f2 ++ 0#6 ++ w]
  | .mulh f0 f1 f2 w => [0x03#7 ++ f0 ++ f1 ++ f2 ++ 0#6 ++ w]
  | .div f0 f1 f2 f3 w => [0x04#7 ++ f0 ++ f1 ++ f2 ++ f3 ++ 0#2 ++ w]
  | .divu f0 f1 f2 f3 w => [0x05#7 ++ f0 ++ f1 ++ f2 ++ f3 ++ 0#2 ++ w]
  | .rem f0 f1 f2 f3 w => [0x06#7 ++ f0 ++ f1 ++ f2 ++ f3 ++ 0#2 ++ w]
  | .remu f0 f1 f2 f3 w => [0x07#7 ++ f0 ++ f1 ++ f2 ++ f3 ++ 0#2 ++ w]
  | .and f0 f1 f2 w => [0x08#7 ++ f0 ++ f1 ++ f2 ++ 0#6 ++ w]
  | .or f0 f1 f2 w => [0x09#7 ++ f0 ++ f1 ++ f2 ++ 0#6 ++ w]
  | .xor f0 f1 f2 w => [0x0a#7 ++ f0 ++ f1 ++ f2 ++ 0#6 ++ w]
  | .shl f0 f1 f2 w => [0x0b#7 ++ f0 ++ f1 ++ f2 ++ 0#6 ++ w]
  | .shr f0 f1 f2 w => [0x0c#7 ++ f0 ++ f1 ++ f2 ++ 0#6 ++ w]
  | .sra f0 f1 f2 w => [0x0d#7 ++ f0 ++ f1 ++ f2 ++ 0#6 ++ w]
  | .min f0 f1 f2 w => [0x0e#7 ++ f0 ++ f1 ++ f2 ++ 0#6 ++ w]
  | .max f0 f1 f2 w => [0x0f#7 ++ f0 ++ f1 ++ f2 ++ 0#6 ++ w]
  | .minu f0 f1 f2 w => [0x10#7 ++ f0 ++ f1 ++ f2 ++ 0#6 ++ w]
  | .maxu f0 f1 f2 w => [0x11#7 ++ f0 ++ f1 ++ f2 ++ 0#6 ++ w]
  | .slt f0 f1 f2 w => [0x12#7 ++ f0 ++ f1 ++ f2 ++ 0#6 ++ w]
  | .sltu f0 f1 f2 w => [0x13#7 ++ f0 ++ f1 ++ f2 ++ 0#6 ++ w]
  | .sel f0 f1 f2 w => [0x14#7 ++ f0 ++ f1 ++ f2 ++ 0#6 ++ w]
  | .clz f0 f1 w => [0x15#7 ++ f0 ++ f1 ++ 0#5 ++ 0#4 ++ 0#2 ++ w]
  | .popc f0 f1 w => [0x15#7 ++ f0 ++ f1 ++ 0#5 ++ 0#4 ++ 1#2 ++ w]
  | .addi f0 f1 f2 w => [0x16#7 ++ f0 ++ f1 ++ f2 ++ w]
  | .andi f0 f1 f2 w => [0x17#7 ++ f0 ++ f1 ++ f2 ++ w]
  | .ori f0 f1 f2 w => [0x18#7 ++ f0 ++ f1 ++ f2 ++ w]
  | .xori f0 f1 f2 w => [0x19#7 ++ f0 ++ f1 ++ f2 ++ w]
  | .shli f0 f1 f2 w => [0x1a#7 ++ f0 ++ f1 ++ f2 ++ w]
  | .shri f0 f1 f2 w => [0x1b#7 ++ f0 ++ f1 ++ f2 ++ w]
  | .srai f0 f1 f2 w => [0x1c#7 ++ f0 ++ f1 ++ f2 ++ w]
  | .slti f0 f1 f2 w => [0x1d#7 ++ f0 ++ f1 ++ f2 ++ w]
  | .lui f0 f1 w => [0x1e#7 ++ f0 ++ f1 ++ w]
  | .lix f0 imm w => [0x1f#7 ++ f0 ++ 0#16 ++ w, imm]
  | .br f0 f1 f2 target w => [0x20#7 ++ f0 ++ 0#2 ++ f1 ++ f2 ++ 0#6 ++ w, target ++ 0#4]
  | .jmp target w => [0x21#7 ++ 0#21 ++ w, target ++ 0#4]
  | .call target w => [0x22#7 ++ 0#21 ++ w, target ++ 0#4]
  | .ret w => [0x23#7 ++ 0#21 ++ w]
  | .loop f0 f1 target w => [0x24#7 ++ f0 ++ 0#2 ++ f1 ++ 0#11 ++ w, target ++ 0#4]
  | .brk f0 w => [0x25#7 ++ 0#5 ++ f0 ++ w]
  | .cqp f0 w => [0x26#7 ++ 0#5 ++ f0 ++ 0#11 ++ w]
  | .endA w => [0x27#7 ++ 0#21 ++ w]
  | .nopA w => [0x28#7 ++ 0#21 ++ w]
  | .ld f0 f1 f2 f3 f4 f5 f6 w => [0x30#7 ++ f0 ++ f1 ++ f2 ++ f3 ++ f4 ++ f5 ++ f6 ++ w]
  | .st f0 f1 f2 f3 f4 f5 w => [0x31#7 ++ f0 ++ f1 ++ f2 ++ 0#1 ++ f3 ++ f4 ++ f5 ++ w]
  | .ldl f0 f1 f2 f3 w => [0x32#7 ++ f0 ++ f1 ++ f2 ++ f3 ++ 0#8 ++ w]
  | .stl f0 f1 f2 w => [0x33#7 ++ f0 ++ f1 ++ f2 ++ 0#9 ++ w]
  | .ldt f0 f1 f2 f3 w => [0x34#7 ++ f0 ++ f1 ++ f2 ++ 0#3 ++ f3 ++ 0#2 ++ w]
  | .stt f0 f1 f2 f3 w => [0x35#7 ++ f0 ++ f1 ++ f2 ++ 0#3 ++ f3 ++ 0#2 ++ w]
  | .pft f0 f1 w => [0x36#7 ++ 0#6 ++ f0 ++ 0#4 ++ f1 ++ 0#2 ++ w]
  | .align w => [0x37#7 ++ 0#21 ++ w]
  | .fence f0 w => [0x38#7 ++ 0#19 ++ f0 ++ w]
  | .drnt f0 f1 w => [0x39#7 ++ 0#15 ++ f0 ++ f1 ++ w]
  | .waita f0 f1 f2 f3 f4 w => [0x3a#7 ++ f0 ++ f1 ++ f2 ++ f3 ++ f4 ++ w]
  | .amem f0 f1 f2 f3 f4 w => [0x3b#7 ++ f0 ++ f1 ++ f2 ++ f3 ++ f4 ++ w]
  | .aat f0 f1 f2 f3 s3 aop aty aord w => [0x48#7 ++ f0 ++ f1 ++ f2 ++ f3 ++ 0#2 ++ w, s3 ++ aop ++ aty ++ aord ++ 0#22]
  | .ssync f0 f1 w => [0x49#7 ++ f0 ++ 0#10 ++ f1 ++ 0#2 ++ w]
  | .mnest f0 f1 tok f3 w => [0x58#7 ++ f0 ++ f1 ++ tok.pop ++ tok.pushEn ++ tok.pushDst ++ f3 ++ w]
  | .mfmt f0 f1 tok f3 w => [0x59#7 ++ f0 ++ f1 ++ tok.pop ++ tok.pushEn ++ tok.pushDst ++ f3 ++ w]
  | .mgo tok f1 w => [0x5a#7 ++ 0#10 ++ tok.pop ++ tok.pushEn ++ tok.pushDst ++ f1 ++ w]
  | .mwing f0 tok f2 w => [0x5b#7 ++ f0 ++ 0#5 ++ tok.pop ++ tok.pushEn ++ tok.pushDst ++ f2 ++ w]
  | .mdrn f0 f1 tok f3 w => [0x5c#7 ++ f0 ++ f1 ++ tok.pop ++ tok.pushEn ++ tok.pushDst ++ f3 ++ w]
  | .dstart f0 f1 tok f3 w => [0x5d#7 ++ f0 ++ f1 ++ tok.pop ++ tok.pushEn ++ tok.pushDst ++ f3 ++ w]
  | .dlook f0 tok f2 w => [0x5e#7 ++ f0 ++ 0#5 ++ tok.pop ++ tok.pushEn ++ tok.pushDst ++ f2 ++ w]
  | .dfeed f0 f1 tok f3 w => [0x5f#7 ++ f0 ++ f1 ++ tok.pop ++ tok.pushEn ++ tok.pushDst ++ f3 ++ w]
  | .ddrn f0 tok f2 w => [0x60#7 ++ f0 ++ 0#5 ++ tok.pop ++ tok.pushEn ++ tok.pushDst ++ f2 ++ w]
  | .dend tok f1 w => [0x61#7 ++ 0#10 ++ tok.pop ++ tok.pushEn ++ tok.pushDst ++ f1 ++ w]
  | .cpy f0 f1 tok f3 desc w => [0x63#7 ++ f0 ++ f1 ++ tok.pop ++ tok.pushEn ++ tok.pushDst ++ f3 ++ w, 0#9 ++ desc ++ 0#6]
  | .cpyq tok f1 w => [0x64#7 ++ 0#10 ++ tok.pop ++ tok.pushEn ++ tok.pushDst ++ f1 ++ w]
  | .psend f0 f1 tok f3 w => [0x67#7 ++ f0 ++ f1 ++ tok.pop ++ tok.pushEn ++ tok.pushDst ++ f3 ++ w]
  | .precv f0 f1 tok f3 w => [0x68#7 ++ f0 ++ f1 ++ tok.pop ++ tok.pushEn ++ tok.pushDst ++ f3 ++ w]
  | .coll f0 f1 tok f3 w => [0x69#7 ++ f0 ++ f1 ++ tok.pop ++ tok.pushEn ++ tok.pushDst ++ f3 ++ w]
  | .dret w => [0x62#7 ++ 0#21 ++ w]
  | .toksA f0 w => [0x65#7 ++ 0#14 ++ 1#1 ++ f0 ++ 0#4 ++ w]
  | .tokwA f0 w => [0x66#7 ++ 0#10 ++ f0 ++ 0#7 ++ w]
  | .collw f0 f1 w => [0x6a#7 ++ 0#5 ++ f0 ++ 0#5 ++ f1 ++ 0#2 ++ w]
  | .crd f0 f1 f2 w => [0x70#7 ++ f0 ++ f1 ++ f2 ++ w]
  | .cwr f0 f1 f2 w => [0x71#7 ++ f0 ++ f1 ++ f2 ++ w]
  | .cmw f0 f1 f2 w => [0x72#7 ++ f0 ++ f1 ++ f2 ++ w]
  | .cxc f0 f1 f2 w => [0x73#7 ++ f0 ++ f1 ++ f2 ++ w]
  | .trap f0 w => [0x74#7 ++ 0#5 ++ f0 ++ w]
  | .eret w => [0x75#7 ++ 0#21 ++ w]
  | .yieldA w => [0x76#7 ++ 0#21 ++ w]
  | .rpush f0 w => [0x77#7 ++ 0#5 ++ f0 ++ w]
  | .rpop w => [0x78#7 ++ 0#21 ++ w]
  | .tinv f0 f1 f2 w => [0x79#7 ++ 0#5 ++ f0 ++ f1 ++ f2 ++ 0#2 ++ w]
  | .frel f0 f1 f2 w => [0x7a#7 ++ 0#5 ++ f0 ++ f1 ++ f2 ++ 0#2 ++ w]
  | .scnstop f0 f1 f2 f3 w => [0x7b#7 ++ f0 ++ f1 ++ f2 ++ f3 ++ 0#2 ++ w]
  | .scnrun f0 f1 f2 f3 w => [0x7c#7 ++ f0 ++ f1 ++ f2 ++ f3 ++ 0#2 ++ w]
  | .scnout f0 f1 f2 w => [0x7d#7 ++ f0 ++ f1 ++ 0#5 ++ f2 ++ 0#2 ++ w]
  | .scnin f0 f1 f2 w => [0x7d#7 ++ f0 ++ f1 ++ 0#5 ++ f2 ++ 1#2 ++ w]
  | .hint f0 => [0x7e#7 ++ f0]
  | .scnq f0 f1 f2 f3 w => [0x7f#7 ++ f0 ++ f1 ++ f2 ++ f3 ++ 0#2 ++ w]
  | .vadd f0 f1 f2 f3 w => [0x00#7 ++ f0 ++ f1 ++ f2 ++ f3 ++ w]
  | .vsub f0 f1 f2 f3 w => [0x01#7 ++ f0 ++ f1 ++ f2 ++ f3 ++ w]
  | .vmul f0 f1 f2 f3 w => [0x02#7 ++ f0 ++ f1 ++ f2 ++ f3 ++ w]
  | .vfma f0 f1 f2 f3 w => [0x03#7 ++ f0 ++ f1 ++ f2 ++ f3 ++ w]
  | .vfms f0 f1 f2 f3 w => [0x04#7 ++ f0 ++ f1 ++ f2 ++ f3 ++ w]
  | .vmin f0 f1 f2 f3 w => [0x05#7 ++ f0 ++ f1 ++ f2 ++ f3 ++ w]
  | .vmax f0 f1 f2 f3 w => [0x06#7 ++ f0 ++ f1 ++ f2 ++ f3 ++ w]
  | .vabs f0 f1 f2 w => [0x07#7 ++ f0 ++ f1 ++ 0#6 ++ f2 ++ w]
  | .vneg f0 f1 f2 w => [0x08#7 ++ f0 ++ f1 ++ 0#6 ++ f2 ++ w]
  | .vand f0 f1 f2 w => [0x09#7 ++ f0 ++ f1 ++ f2 ++ 0#3 ++ w]
  | .vor f0 f1 f2 w => [0x0a#7 ++ f0 ++ f1 ++ f2 ++ 0#3 ++ w]
  | .vxor f0 f1 f2 w => [0x0b#7 ++ f0 ++ f1 ++ f2 ++ 0#3 ++ w]
  | .vnot f0 f1 w => [0x0c#7 ++ f0 ++ f1 ++ 0#9 ++ w]
  | .vshl f0 f1 f2 f3 w => [0x0d#7 ++ f0 ++ f1 ++ f2 ++ f3 ++ w]
  | .vshr f0 f1 f2 f3 w => [0x0e#7 ++ f0 ++ f1 ++ f2 ++ f3 ++ w]
  | .vsra f0 f1 f2 f3 w => [0x0f#7 ++ f0 ++ f1 ++ f2 ++ f3 ++ w]
  | .vcmp f0 f1 f2 f3 f4 w => [0x10#7 ++ f0 ++ f1 ++ f2 ++ f3 ++ f4 ++ w]
  | .vsel f0 f1 f2 f3 w => [0x11#7 ++ f0 ++ f1 ++ f2 ++ 0#3 ++ f3 ++ w]
  | .vexp2 f0 f1 f2 w => [0x18#7 ++ f0 ++ f1 ++ 0#6 ++ f2 ++ w]
  | .vlog2 f0 f1 f2 w => [0x19#7 ++ f0 ++ f1 ++ 0#6 ++ f2 ++ w]
  | .vrcp f0 f1 f2 w => [0x1a#7 ++ f0 ++ f1 ++ 0#6 ++ f2 ++ w]
  | .vrsq f0 f1 f2 w => [0x1b#7 ++ f0 ++ f1 ++ 0#6 ++ f2 ++ w]
  | .vsqrt f0 f1 f2 w => [0x1c#7 ++ f0 ++ f1 ++ 0#6 ++ f2 ++ w]
  | .vsigm f0 f1 f2 w => [0x1d#7 ++ f0 ++ f1 ++ 0#6 ++ f2 ++ w]
  | .vtanh f0 f1 f2 w => [0x1e#7 ++ f0 ++ f1 ++ 0#6 ++ f2 ++ w]
  | .vcvt f0 f1 f2 f3 f4 f5 w => [0x40#7 ++ f0 ++ f1 ++ f2 ++ f3 ++ f4 ++ f5 ++ w]
  | .vqdec f0 f1 f2 f3 w => [0x41#7 ++ f0 ++ f1 ++ f2 ++ f3 ++ w]
  | .vqenc f0 f1 f2 f3 w => [0x42#7 ++ f0 ++ f1 ++ f2 ++ f3 ++ w]
  | .vscl f0 f1 f2 f3 w => [0x43#7 ++ f0 ++ f1 ++ f2 ++ f3 ++ w]
  | .vred f0 f1 f2 f3 f4 f5 w => [0x50#7 ++ f0 ++ f1 ++ f2 ++ f3 ++ f4 ++ 0#2 ++ f5 ++ w]
  | .vscan f0 f1 f2 f3 f4 f5 w => [0x51#7 ++ f0 ++ f1 ++ f2 ++ f3 ++ f4 ++ 0#2 ++ f5 ++ w]
  | .vbcr f0 f1 f2 w => [0x52#7 ++ f0 ++ f1 ++ 0#6 ++ f2 ++ w]
  | .vbcc f0 f1 f2 w => [0x53#7 ++ f0 ++ f1 ++ 0#6 ++ f2 ++ w]
  | .vbcs f0 f1 f2 w => [0x54#7 ++ f0 ++ f1 ++ 0#6 ++ f2 ++ w]
  | .vtrn f0 f1 f2 w => [0x55#7 ++ f0 ++ f1 ++ 0#6 ++ f2 ++ w]
  | .vshf f0 f1 f2 f3 w => [0x56#7 ++ f0 ++ f1 ++ f2 ++ f3 ++ w]
  | .vmov f0 f1 w => [0x57#7 ++ f0 ++ f1 ++ 0#9 ++ w]
  | .vzero f0 w => [0x58#7 ++ f0 ++ 0#15 ++ w]
  | .vacc f0 f1 f2 w => [0x59#7 ++ f0 ++ f1 ++ f2 ++ 0#9 ++ w]
  | .vacw f0 f1 f2 f3 w => [0x5a#7 ++ f0 ++ f1 ++ f2 ++ f3 ++ 0#8 ++ w]
  | .mand f0 f1 f2 w => [0x60#7 ++ f0 ++ f1 ++ f2 ++ 0#12 ++ w]
  | .mor f0 f1 f2 w => [0x61#7 ++ f0 ++ f1 ++ f2 ++ 0#12 ++ w]
  | .mxor f0 f1 f2 w => [0x62#7 ++ f0 ++ f1 ++ f2 ++ 0#12 ++ w]
  | .mnot f0 f1 w => [0x63#7 ++ f0 ++ f1 ++ 0#15 ++ w]
  | .mpop f0 f1 w => [0x64#7 ++ f0 ++ f1 ++ 0#15 ++ w]
  | .eadd f0 f1 f2 f3 w => [0x68#7 ++ f0 ++ f1 ++ f2 ++ f3 ++ w]
  | .esub f0 f1 f2 f3 w => [0x69#7 ++ f0 ++ f1 ++ f2 ++ f3 ++ w]
  | .emul f0 f1 f2 w => [0x6a#7 ++ f0 ++ f1 ++ f2 ++ 0#9 ++ w]
  | .emov f0 f1 w => [0x6b#7 ++ f0 ++ f1 ++ 0#13 ++ w]
  | .eli f0 f1 w => [0x6c#7 ++ f0 ++ f1 ++ w]
  | .erd f0 f1 w => [0x6d#7 ++ 0#2 ++ f0 ++ f1 ++ 0#3 ++ w]
  | .ewr f0 f1 w => [0x6e#7 ++ 0#2 ++ f0 ++ f1 ++ 0#3 ++ w]
  | .cqb f0 f1 f2 target w => [0x70#7 ++ f0 ++ f1 ++ f2 ++ 0#10 ++ w, target ++ 0#4]
  | .cqr f0 w => [0x71#7 ++ f0 ++ 0#17 ++ w]
  | .xloop f0 f1 target w => [0x72#7 ++ 0#3 ++ f1 ++ 0#4 ++ f0 ++ 0#7 ++ w, target ++ 0#4]
  | .xbr f0 f1 f2 target w => [0x73#7 ++ f0 ++ f1 ++ f2 ++ 0#10 ++ w, target ++ 0#4]
  | .toksX f0 w => [0x74#7 ++ 0#14 ++ 1#1 ++ f0 ++ 0#4 ++ w]
  | .tokwX f0 w => [0x75#7 ++ 0#10 ++ f0 ++ 0#7 ++ w]
  | .nopX w => [0x76#7 ++ 0#21 ++ w]
  | .xend w => [0x77#7 ++ 0#21 ++ w]
  | .dscl f0 => [0x00#7 ++ 0#9 ++ f0 ++ 0#4]
  | .dbia f0 => [0x01#7 ++ 0#9 ++ f0 ++ 0#4]
  | .dact f0 => [0x02#7 ++ f0 ++ 0#19]
  | .dclp f0 => [0x03#7 ++ 0#9 ++ f0 ++ 0#4]
  | .dcvt f0 f1 f2 => [0x04#7 ++ 0#3 ++ f0 ++ f1 ++ f2 ++ 0#16]
  | .dmul f0 => [0x05#7 ++ 0#9 ++ f0 ++ 0#4]
  | .dadd f0 => [0x06#7 ++ 0#9 ++ f0 ++ 0#4]
  | .dovw f0 => [0x07#7 ++ 0#16 ++ f0 ++ 0#4]
  | .dstl f0 f1 => [0x08#7 ++ 0#4 ++ f0 ++ 0#3 ++ f1 ++ 0#4]
  | .drainDend f0 => [0x09#7 ++ 0#5 ++ f0 ++ 0#19]
  | _ => []

/-- The map whose words an instruction's encoding belongs to; none for an event. -/
def Instr.map : Instr → Option Map
  | .add _ _ _ _ | .sub _ _ _ _ | .mul _ _ _ _ | .mulh _ _ _ _ | .div _ _ _ _ _ | .divu _ _ _ _ _ | .rem _ _ _ _ _
  | .remu _ _ _ _ _ | .and _ _ _ _ | .or _ _ _ _ | .xor _ _ _ _ | .shl _ _ _ _ | .shr _ _ _ _ | .sra _ _ _ _ | .min _ _ _ _
  | .max _ _ _ _ | .minu _ _ _ _ | .maxu _ _ _ _ | .slt _ _ _ _ | .sltu _ _ _ _ | .sel _ _ _ _ | .clz _ _ _ | .popc _ _ _
  | .addi _ _ _ _ | .andi _ _ _ _ | .ori _ _ _ _ | .xori _ _ _ _ | .shli _ _ _ _ | .shri _ _ _ _ | .srai _ _ _ _ | .slti _ _ _ _
  | .lui _ _ _ | .lix _ _ _ | .br _ _ _ _ _ | .jmp _ _ | .call _ _ | .ret _ | .loop _ _ _ _ | .brk _ _ | .cqp _ _ | .endA _
  | .nopA _ | .ld _ _ _ _ _ _ _ _ | .st _ _ _ _ _ _ _ | .ldl _ _ _ _ _ | .stl _ _ _ _ | .ldt _ _ _ _ _ | .stt _ _ _ _ _
  | .pft _ _ _ | .align _ | .fence _ _ | .drnt _ _ _ | .waita _ _ _ _ _ _ | .amem _ _ _ _ _ _ | .aat _ _ _ _ _ _ _ _ _
  | .ssync _ _ _ | .mnest _ _ _ _ _ | .mfmt _ _ _ _ _ | .mgo _ _ _ | .mwing _ _ _ _ | .mdrn _ _ _ _ _ | .dstart _ _ _ _ _
  | .dlook _ _ _ _ | .dfeed _ _ _ _ _ | .ddrn _ _ _ _ | .dend _ _ _ | .cpy _ _ _ _ _ _ | .cpyq _ _ _ | .psend _ _ _ _ _
  | .precv _ _ _ _ _ | .coll _ _ _ _ _ | .dret _ | .toksA _ _ | .tokwA _ _ | .collw _ _ _ | .crd _ _ _ _ | .cwr _ _ _ _
  | .cmw _ _ _ _ | .cxc _ _ _ _ | .trap _ _ | .eret _ | .yieldA _ | .rpush _ _ | .rpop _ | .tinv _ _ _ _ | .frel _ _ _ _
  | .scnstop _ _ _ _ _ | .scnrun _ _ _ _ _ | .scnout _ _ _ _ | .scnin _ _ _ _ | .hint _ | .scnq _ _ _ _ _ => some .a
  | .vadd _ _ _ _ _ | .vsub _ _ _ _ _ | .vmul _ _ _ _ _ | .vfma _ _ _ _ _ | .vfms _ _ _ _ _ | .vmin _ _ _ _ _ | .vmax _ _ _ _ _
  | .vabs _ _ _ _ | .vneg _ _ _ _ | .vand _ _ _ _ | .vor _ _ _ _ | .vxor _ _ _ _ | .vnot _ _ _ | .vshl _ _ _ _ _
  | .vshr _ _ _ _ _ | .vsra _ _ _ _ _ | .vcmp _ _ _ _ _ _ | .vsel _ _ _ _ _ | .vexp2 _ _ _ _ | .vlog2 _ _ _ _ | .vrcp _ _ _ _
  | .vrsq _ _ _ _ | .vsqrt _ _ _ _ | .vsigm _ _ _ _ | .vtanh _ _ _ _ | .vcvt _ _ _ _ _ _ _ | .vqdec _ _ _ _ _ | .vqenc _ _ _ _ _
  | .vscl _ _ _ _ _ | .vred _ _ _ _ _ _ _ | .vscan _ _ _ _ _ _ _ | .vbcr _ _ _ _ | .vbcc _ _ _ _ | .vbcs _ _ _ _ | .vtrn _ _ _ _
  | .vshf _ _ _ _ _ | .vmov _ _ _ | .vzero _ _ | .vacc _ _ _ _ | .vacw _ _ _ _ _ | .mand _ _ _ _ | .mor _ _ _ _ | .mxor _ _ _ _
  | .mnot _ _ _ | .mpop _ _ _ | .eadd _ _ _ _ _ | .esub _ _ _ _ _ | .emul _ _ _ _ | .emov _ _ _ | .eli _ _ _ | .erd _ _ _
  | .ewr _ _ _ | .cqb _ _ _ _ _ | .cqr _ _ | .xloop _ _ _ _ | .xbr _ _ _ _ _ | .toksX _ _ | .tokwX _ _ | .nopX _ | .xend _ => some .x
  | .dscl _ | .dbia _ | .dact _ | .dclp _ | .dcvt _ _ _ | .dmul _ | .dadd _ | .dovw _ | .dstl _ _ | .drainDend _ => some .drain
  | _ => none

/-- The instruction of a word that the table numbers: bits 31-0 are the first word, bits 63-32 the second. A word is read by the A map where
that names an instruction, else by the X map, else by the drain map: the same bits stand for different instructions in lines of different
owners, and a bare word does not say which (DESIGN CHOICE, log 10). -/
def decodeTableWord (_nbits w : Nat) : Option Instr :=
  let a := BitVec.ofNat 32 w
  let b := BitVec.ofNat 32 (w / 2 ^ 32)
  match decode .a a b with
  | .ok i => some i
  | .error _ =>
    match decode .x a b with
    | .ok i => some i
    | .error _ => (decode .drain a b).toOption

end Sys2Proof
end

