-- ==== Sys2Proof/Config.lean ====
section
/-! DEFINITION. What one implementation fixes, and the free values: nothing in Lean can evaluate or constrain a constant of this file that
has no body (log 3, log 7, log 11, log 13). -/

namespace Sys2Proof.Config

/-- DESIGN CHOICE (log 3): the n-th free choice of the device: when a queue entry performs, which element a copy moves next, whether a
cached copy of a descriptor is used, whether a request hits in L2. Applied to the counter `State.fresh`. -/
opaque choice : Nat → Nat

/-- DESIGN CHOICE (log 7): the delay of a divide, a function of the operation and its operand values (R129). -/
opaque divDelay : Nat → Word → Word → Nat

/-- DESIGN CHOICE (log 11): what the 16 bytes of a unit, written under one key draw, read as under another (R68, R324). -/
opaque garble : Nat → Nat → Nat → List Byte → BitVec 128

/-- DESIGN CHOICE (log 6): a byte that the manual leaves open, by what it depends on. -/
opaque freeByte : Nat → Nat → Nat → Byte

/-- DESIGN CHOICE (log 31): the stack and the L2 slice port that are a line's home (R67): the manual gives no interleave. -/
opaque homeStack : Nat → Fin 8
opaque homeSlice : Nat → Fin 384

/-- DESIGN CHOICE (log 51): the package in which a frame lies that is not one of the package's own (R404 knows such frames; no rule maps them). -/
opaque framePackage : Nat → BitVec 9

/-- DESIGN CHOICE (log 13): the values the manual leaves to the part or to its maker: offered features 0-3 (R331), package number (R281),
disabled rows of each room (R312), the host endpoint number fused into it (R330), firmware hash and the quote signature over the first 128 bytes (R332). -/
opaque featOffered : BitVec 4
opaque pkgId : BitVec 9
opaque disabledRows : Nat → BitVec 8 × BitVec 8
opaque hostEndpoint : BitVec 16
opaque firmwareHash : BitVec 256
opaque quoteSignature : List Byte → BitVec 3072

/-- DESIGN CHOICE (log 4): whether the firmware's signature verifies, its version and the fused rollback count, and the hypervisor image that the
firmware starts (R331, R332). -/
opaque firmwareSigned : Bool
opaque firmwareVersion : Nat
opaque rollbackCount : Nat
opaque bootLines : Nat
opaque bootEntryA : BitVec 32
opaque bootEntryX : BitVec 32
opaque bootWord : Nat → BitVec 32

/-- The boot ROM accepts the firmware if both checks pass (R332). -/
def firmwareGood : Bool := firmwareSigned && decide (rollbackCount ≤ firmwareVersion)
/-- Device identity (R54). -/
def devId : Word := 0x0000000045040768
/-- LAYVER0 (R307). -/
def layver0 : Word := 0x0101010201020103
/-- LAYVER1 (R307). -/
def layver1 : Word := 0x0101010101040105
/-- The layout version of a segment class (R307). -/
def layoutVersion (cls : Nat) : Nat := [0x0103, 0x0102, 0x0102, 0x0101, 0x0105, 0x0104, 0x0101, 0x0101].getD cls 0
/-- The device's own latency of a class C0-C11; 0 for the variable classes C2 and C4 (R99, R120). -/
def latency (cls : Nat) : Nat := [1, 3, 0, 4, 0, 32, 40, 24, 34, 48, 1, 2].getD cls 0
/-- What a byte of memory that nothing has written reads as: DESIGN CHOICE, log 2. -/
def memDefault : Byte := 0

end Sys2Proof.Config
end

