-- ==== Sys2Proof/Machine/State.lean ====
section
/-! DEFINITION. The state of one PZ4 package as plain data, its faults and refusals, and the machine right after reset. INVENTORY.md lists
every piece with the rule that names it. -/

namespace Sys2Proof.Machine

/-- Reasons for which the machine itself would stop. The PZ4 has none: every fault of the manual is a trap that a context takes, a status or
a record (R353), so no meaning raises this. Safe. -/
inductive Fault where
  /-- Raised by nothing: kept so that a stop of the whole machine has a name. Safe. -/
  | machineCheck
  deriving DecidableEq, Repr

/-- Reasons for which an instruction has no meaning in the model. -/
inductive Refusal where
  /-- Raised by an arm of exec whose instruction has no meaning yet. Safe. -/
  | notModelled (mnemonic : String)
  deriving DecidableEq, Repr

/-! ### Memory -/

/-- Physical memory: addresses strictly rising, no byte equal to what an unlisted address reads as. -/
abbrev Memory := List Host.Cell

/-! ### Streams and banks -/

/-- The record of one hardware loop (R135, R311). -/
structure LoopRec where
  counter : W32
  start : Nat
  stop : Nat
  active : Bool
  age : Nat
  done : Nat
  deriving DecidableEq, Repr

/-- What each stream of a bank holds. `blocked`, `flagHeld` and `flagWait` say whether it was blocked (R358) or held on a flag (R349) in
this cycle, for how many cycles the flag wait has lasted, and `waitOn` which flag it waits for. -/
structure Stream where
  pos : Nat
  running : Bool
  sems : Vector (BitVec 6) 8
  semNew : Vector Nat 8
  loops : Vector LoopRec 6
  loopAge : Nat
  frm : BitVec 2
  xflg : BitVec 13
  semsat : BitVec 8
  waittmo : BitVec 48
  rlOver : Bool
  rlUnder : Bool
  labels : List W16
  hndl : Vector (BitVec 28) 7
  tfbase : Word
  tfdepth : BitVec 3
  lineMode : Option Bool
  blocked : Bool
  flagHeld : Bool
  flagWait : Nat
  waitOn : Nat
  deriving DecidableEq, Repr

/-- A tile register: 128 rows of 256 bytes (R42). -/
abbrev Tile := Vector (Vector Byte 256) 128
/-- A mask: one bit per byte of a tile (R42, R46). -/
abbrev Mask := Vector (BitVec 256) 128
/-- An accumulator tile: 128 rows of 128 words (R58). -/
abbrev AccTile := Vector (Vector W32 128) 128

/-- A register as the scoreboard of R122 sees it; tiles and masks by physical number. -/
inductive Reg where
  | a (n : Nat)
  | c (n : Nat)
  | e (n : Nat)
  | t (n : Nat)
  | m (n : Nat)
  | csr (n : Nat)
  deriving DecidableEq, Repr

/-- How a CSR write combines at its landing (R159, R188). -/
inductive CsrOp where
  | write (v : Word)
  | masked (v mask : Word)
  | exchange (v : Word) (d : BitVec 5)
  deriving DecidableEq, Repr

/-- What one result does to the registers when it lands (R121, R168). `accRead` marks the cycles in which a VACC reads its words
(R183); `acc` is what a VACW of a tenant still writes, from a row on (R184, R337). -/
inductive Result where
  | a (r : BitVec 5) (v : Word)
  | c (r : Fin 8) (v : Word)
  | e (r : BitVec 4) (v : Word)
  | tile (t : Fin 48) (v : Tile) (produce : Bool)
  | consume (t : Fin 48)
  | mask (m : Fin 8) (v : Mask)
  | csr (num : BitVec 12) (op : CsrOp)
  | acc (k : Fin 32) (half : Bool) (add : Bool) (t : Tile) (row : Nat) (tn : TenantId)
  | accRead (k : Fin 32) (half : Bool) (t : Fin 48)
  | sem (n : BitVec 3)
  deriving DecidableEq, Repr

/-- A result in flight: `left` cycle ends still pass before it lands; `born` is its issue cycle (R121, R291). `var` marks a result of variable
latency, which waits here for the end of the cycle of its completion. -/
structure Flight where
  kind : StreamKind
  left : Nat
  res : List Result
  flags : Flags
  born : Nat
  var : Bool
  deriving DecidableEq, Repr

/-- A division under way (R129). -/
structure DivOp where
  kind : StreamKind
  d : BitVec 5
  value : Word
  dn : BitVec 4
  left : Nat
  born : Nat
  deriving DecidableEq, Repr

/-- The box of a tile fill or drain (R145). -/
structure TileBox where
  seg : Nat
  rowDim : Nat
  colDim : Nat
  rows : Nat
  cols : Nat
  origin : List Int
  pad : Word
  deriving DecidableEq, Repr

/-- Entries of the load and store queues (R142-R152). `left` names the elements of a box still to move. -/
inductive QOp where
  | ld (d : BitVec 5) (va : Word) (size : BitVec 2) (sgn : Bool) (acq : Option (BitVec 2))
  | st (va : Word) (size : BitVec 2) (data : Word) (rel : Option (BitVec 2)) (nt : Bool)
  | ldt (t : Fin 48) (box : TileBox) (data : Tile) (left : List Nat)
  | stt (t : Fin 48) (box : TileBox) (data : Tile) (left : List Nat)
  | waita (d : BitVec 5) (va : Word) (cmp : Word) (scope : BitVec 2) (watched : Option Nat) (expire : Option Nat) (start : Nat)
  | drnt (scope : BitVec 2)
  deriving DecidableEq, Repr

/-- A queue entry with its place in program order, its done fields, and the position and cycle of its issue. -/
structure QEntry where
  seq : Nat
  op : QOp
  dn : BitVec 4
  ret : Nat
  born : Nat
  deriving DecidableEq, Repr

/-- A trap record (R354). -/
structure Trap where
  cause : BitVec 8
  cls : BitVec 2
  agent : BitVec 3
  bank : BitVec 1
  ret : BitVec 28
  tval : Word
  deriving DecidableEq, Repr

/-- The Visit a bank holds (R30, R32, R25). -/
structure Visit where
  tenant : TenantId
  launch : W32
  iter : Nat
  image : Nat
  dual : Bool
  forced : Bool
  lead : SuiteId
  shape : Fin 9
  scope : BitVec 2
  stage : Nat
  viter : Word
  deriving DecidableEq, Repr

/-- Progress of an SSYNC: the cycles of its issue and of its arrival (R264). -/
inductive SyncState where
  | none
  | waiting (d : BitVec 5) (dn : BitVec 4) (seq : Nat) (start : Nat)
  | arrived (d : BitVec 5) (dn : BitVec 4) (start at_ : Nat)
  deriving DecidableEq, Repr

/-- One context bank of a Suite, or the register set of a Steward context (R32, R321). `trapsLater` holds the engine
traps kept pending, with the cycles of their detection (R365); `wrote` lists the registers that instructions issued in this
cycle have written at once (R121). -/
structure Bank where
  a : Vector Word 32
  e : Vector Word 16
  sa : Stream
  sx : Stream
  cq : List Word
  cqNew : List Word
  tok : Vector Nat 12
  tokNew : Vector Nat 12
  visit : Option Visit
  lq : List QEntry
  sq : List QEntry
  nextSeq : Nat
  aligns : List Nat
  fence : Option (Nat × Bool)
  replay : List QEntry
  pageWait : Bool
  switched : Bool
  traps : List Trap
  trapsLater : List (Nat × Trap)
  trapAt : Option Nat
  fly : List Flight
  divs : List DivOp
  prefetch : List (BitVec 4 × List Byte)
  phase : BitVec 2
  sync : SyncState
  deadCount : Nat
  yieldLeft : Nat
  wrote : List (StreamKind × Reg)
  deriving DecidableEq, Repr

/-! ### Engine commands -/

/-- A copy under way (R238-R242): the fields of the descriptor with both registers added, the physical tile of an accumulator partner, what it
has moved (elements, or rows that have landed), the words that an accumulator load has read, and the nest and unit that hold its rows back (R382). -/
structure CopyJob where
  seg : Nat
  k : Fin 32
  rank : Nat
  store : Bool
  acc : Bool
  add : Bool
  rm : BitVec 2
  satm : Bool
  pfmt : Fmt
  ext : List Nat
  lpitch : Nat
  origin : List Int
  pad : Word
  pa : Nat
  moved : List Nat
  got : List W32
  hold : Option (Nat × Nat)
  deriving DecidableEq, Repr

/-- What an M or C command does (R214-R218, R230-R234, R241-R243, R268, R277). An arrived COLL names its instance. -/
inductive CmdOp where
  | mnest (sel : Nat) (bytes : List Byte)
  | mfmt (mask : W16) (bytes : List Byte)
  | mgo
  | mwing (shape : Nat)
  | mdrn (prog : BitVec 4) (dbase : W32)
  | dstart (cfg cfg2 : Word)
  | dlook (l : Nat)
  | dfeed (src ctl : Word)
  | ddrn (k : Nat)
  | dend
  | cpy (job : CopyJob)
  | cpyq
  | psend (src ctl : Word)
  | precv (dst ctl : Word)
  | coll (offset : Nat) (rank : Nat) (inst : Option Nat)
  deriving DecidableEq, Repr

/-- How far a command has come. -/
inductive CmdStatus where
  | queued
  | popped
  | running
  | complete
  deriving DecidableEq, Repr

/-- A command of the M or C queue with its token and done fields (R112, R213). `trapLevel` is 1 while its trap is recorded, 2 while its trap
is kept pending (R365); `discard` marks a command of an aborted Visit (R361); `tenant`, `dual` and `image` are those of its Visit. -/
structure Cmd where
  op : CmdOp
  bank : Fin 2
  kind : StreamKind
  tok : Tok
  dn : BitVec 4
  ret : Nat
  status : CmdStatus
  trapLevel : Nat
  discard : Bool
  tenant : TenantId
  dual : Bool
  image : Nat
  slot : Option (Nat × Tile)
  deriving DecidableEq, Repr

/-! ### Rooms -/

/-- One processing element with its class-3 extension (R286): `blk` is P_b in units of 2^-133. -/
structure Pe where
  acc : W32
  a : W16
  b : W16
  va : Bool
  vb : Bool
  tag : BitVec 2
  ak1 : W16
  ak2 : W16
  ak3 : W16
  blk : Int
  blkPos : Bool
  blkNeg : Bool
  blkNan : Bool
  deriving DecidableEq, Repr

/-- A nest set: the nest table, the format table and the drain binding (R198, R199, R85, R216). -/
structure NestSet where
  table : Vector Byte 448
  fmts : Vector W16 16
  prog : BitVec 4
  dbase : W32
  deriving DecidableEq, Repr

/-- A staging slot of a feeder (R224). -/
structure Slot where
  full : Bool
  data : List Byte
  deriving DecidableEq, Repr

/-- A beat-step inside the wing: the beat of its entry, its format entry, whether it is the first of its unit or ends a block, and its slices
and scales, one list per fed room (R193, R194, R201). -/
structure StepRec where
  entry : Nat
  cls : Nat
  aFmt : Fmt
  bFmt : Fmt
  aSlices : List (List Byte)
  bSlices : List (List Byte)
  first : Bool
  blockEnd : Bool
  scales : List (List (Byte × W32))
  deriving DecidableEq, Repr

/-- A drain unit not yet drained whole: the beat in which its row 0 drains, its destination once it is named, and whether it accumulates
INT32 (R195, R222, R224). -/
structure UnitRec where
  drainAt : Nat
  c : Option Nat
  final : Bool
  unitNo : Nat
  int : Bool
  deriving DecidableEq, Repr

/-- A nest or a drone computation running on a wing (R217, R219): the beat to come, the beat-steps that have entered, the beat in which the
next may enter, and the cycle in which the last one entered. `ftNow` is the entry in force, `unitInt` the type of the running unit, and `staged`
counts the beat-steps whose slices the feeders have staged (R193). -/
structure WingRun where
  cmd : Cmd
  drone : Bool
  set : NestSet
  beat : Nat
  nextStep : Nat
  nextEntry : Nat
  total : Nat
  started : Nat
  lastIn : Option Nat
  ftNow : W16
  unitInt : Bool
  staged : Nat
  steps : List StepRec
  units : List UnitRec
  deriving DecidableEq, Repr

/-- The registers of a drone wing, kept at its lead room (R219-R230): `finalStep` counts the beat-steps once the final one is fixed,
`feedOpen` lists the beat-steps whose feed demand is unanswered, `withdrawnA` and `withdrawnB` count the withdrawn demands whose DFEED of that side
may still come (R385), `drainOpen` the unit whose drain demand is, `queueNew` counts the demands raised
in this cycle, and `sinceBeat` the cycles since the last beat fired. A beat that is held (`missNow`) and the end of a computation (`ending`) show at
the end of their cycle (R222, R228). -/
structure Drone where
  active : Bool
  fixed : Bool
  held : Bool
  dbeat : Word
  dmiss : Word
  look : BitVec 7
  ddem : Word
  dstep : Word
  dcfg : Word
  dcfg2 : Word
  finalStep : Option Nat
  nextDemand : Nat
  feedOpen : List Nat
  withdrawnA : Nat
  withdrawnB : Nat
  drainOpen : Option Nat
  queue : List Word
  queueNew : Nat
  sinceBeat : Nat
  missRaised : Bool
  missNow : Bool
  ending : Bool
  deriving DecidableEq, Repr

/-- An accumulator atomic waiting to apply (R154-R156), with the tenant of the Visit that issued it (R406). -/
structure Atomic where
  tenant : TenantId
  kind : StreamKind
  bank : Fin 2
  d : BitVec 5
  dn : BitVec 4
  k : Fin 32
  row : Fin 128
  col : Fin 128
  v : W32
  cmp : W32
  aop : BitVec 3
  i32 : Bool
  ordered : Bool
  discard : Bool
  born : Nat
  deriving DecidableEq, Repr

/-- The row a drain program is transforming (R250), and what DSTL writes at the end of the cycle (R251). -/
structure DrainCtx where
  bank : Fin 2
  writes : List (Nat × List Byte)
  lanes : Vector W32 128
  ty : Fmt
  row : Nat
  c : Nat
  mode : Nat
  dbase : Nat
  pitch : Nat
  isInt : Bool
  image : Nat
  dual : Bool
  deriving DecidableEq, Repr

/-- Halt state of a room (R376-R378): `since` is the cycle of the halt, `held` names the banks whose resume releases a trap that caused it, with the trap's level. -/
structure Halt where
  halted : Bool
  cause : BitVec 8
  row : BitVec 7
  tile : BitVec 5
  ftidx : BitVec 4
  phase : Nat
  held : List (SuiteId × Fin 2 × Nat)
  since : Nat
  deriving DecidableEq, Repr

/-- A room. `unitOld` keeps what bytes of the Local Store held before a row of the unit that drains now wrote them (R253). `lastOwner` is the tenant that owned it last (R51). `damaged` lists its damaged segments and those of its Suite core (R413); `seqIn` holds the indices, the flags and the beats since the unit's
last beat-step of a room-control image loaded since the clocks stopped, `feedA` and `feedB` the indices and the Local Store address of feeder images (R302, R309, R310), `aShift` and `bShift` how far such an image has moved a
feeder from the beat-step and the address that the wing's nest gives; `beatNow` says that NBEAT or DBEAT advanced in this cycle (R300), `ovfNow` that an
INT32 result overflowed in it (R392), `stopBeat` what the one in force
was when the clocks last stopped (R305). -/
structure Room where
  pes : Vector (Vector Pe 128) 128
  aFeed : Vector Slot 64
  bFeed : Vector Slot 64
  aNext : Nat
  bNext : Nat
  acc : Vector AccTile 32
  active : NestSet
  shadow : Vector NestSet 2
  runs : List WingRun
  nbeat : W32
  busy : Bool
  ovf : Bool
  ovfNow : Bool
  halt : Halt
  ce : W16
  ue : W16
  accseq : W32
  atomics : List Atomic
  wingLead : SuiteId
  wingShape : Fin 9
  latchE : Vector (BitVec 24) 128
  latchS : Vector (BitVec 24) 128
  latchX : Vector (BitVec 48) 128
  rphase : BitVec 3
  stopped : Bool
  damaged : List Nat
  drone : Drone
  drain : Option DrainCtx
  drainPos : Nat
  portRows : List Nat
  portAtoms : List Nat
  unitOld : List (Nat × Byte)
  seqIn : Option (List Nat × Nat × Nat)
  feedA : Option (List Nat × Nat)
  feedB : Option (List Nat × Nat)
  aShift : Int × Int
  bShift : Int × Int
  beatNow : Bool
  stopBeat : Word
  lastOwner : Option TenantId
  deriving DecidableEq, Repr

/-! ### Suites -/

/-- A line of L1: 64 bytes tagged by tenant, segment number and line of the offset (R57), and the frames that any of them came from (R165). -/
structure L1Line where
  tenant : TenantId
  seg : Nat
  line : Nat
  frames : List Nat
  data : List Byte
  deriving DecidableEq, Repr

/-- The chanter of a Suite (R227); after DRET it is idle from the end of the cycle (R235). -/
structure Chanter where
  c : Vector Word 8
  pos : Nat
  busy : Bool
  bank : Fin 2
  trapped : Bool
  ending : Bool
  lineMode : Option Bool
  deriving DecidableEq, Repr

/-- Counters of a Suite or context (R344), what each has counted in this cycle, and those written in it, which count no more in it (R346). -/
structure Counters where
  sel : Vector Byte 8
  cnt : Vector (BitVec 48) 8
  ovf : Byte
  inc : Vector Nat 8
  set : Vector Bool 8
  deriving DecidableEq, Repr

/-- Full/empty bit of a tile, its accesses in flight (R47), and the agent code that last set the bit (R350). -/
structure TileFlag where
  full : Bool
  producing : Bool
  consuming : Bool
  setter : BitVec 3
  deriving DecidableEq, Repr

/-- A store that a retired Visit left behind, with its Visit and bank (R34, R142). -/
structure Leftover where
  visit : Visit
  bank : Fin 2
  entry : QEntry
  deriving DecidableEq, Repr

/-- A Suite: a Suite core and its Local Store (R3). `leftover` holds the
stores of retired Visits that have not performed (R34, R142). `snapIn` names the snapshot of a Suite-core image loaded since the clocks stopped (0: it names none), `stopBound` says whether the Suite was bound when its clock last
stopped (R313), `stopBoth` whether the room's clock stopped in that same cycle (R288), `stopBeat` what beat its room was in then (R305). `aPort` says that the A issue port has been used in this cycle (R33). -/
structure Suite where
  banks : Vector Bank 2
  tiles : Vector Tile 48
  flags : Vector TileFlag 48
  leftover : List Leftover
  masks : Vector Mask 8
  chanter : Chanter
  ls : Memory
  l1 : List L1Line
  l1mib : BitVec 4
  mq : List Cmd
  mrun : List Cmd
  cqueue : List Cmd
  crun : List Cmd
  lastBank : Fin 2
  aPort : Bool
  stopped : Bool
  stopBound : Bool
  stopBoth : Bool
  stopBeat : Word
  snapIn : Option Nat
  counters : Counters
  dbgarm : Word
  wpaddr : Word
  wpctl : Word
  ologsp : BitVec 48
  deriving DecidableEq, Repr

/-! ### Steward contexts -/

/-- An event record (R327), and whether the host has been sent it (R328, R420). -/
structure Event where
  seq : Nat
  kind : Nat
  tenant : Nat
  source : Nat
  payload : BitVec 128
  sent : Bool
  deriving DecidableEq, Repr

/-- The scan commands (R297). -/
inductive ScanOp where
  | stop | run | out | inp | query
  deriving DecidableEq, Repr

/-- An entry of a segment list: its id and dead bit (R296). -/
structure SegEntry where
  id : W32
  dead : Bool
  deriving DecidableEq, Repr

/-- A scan command waiting or running (R297-R303). `ports` holds the flue time that remains at each Suite's port (R290), `data` the lines that SCNIN has read;
once every flue is done (`shifted`), `lines` holds what SCNOUT has still to write and `bad` the first segment that a parity error damaged. -/
structure ScanCmd where
  op : ScanOp
  d : BitVec 5
  dn : BitVec 4
  rooms : Word
  ctl : Word
  acting : TenantId
  buf : Word
  entries : List SegEntry
  pendingStop : Bool
  shifting : Bool
  awaitStop : Bool
  waitRun : Bool
  ports : List (SuiteId × Nat)
  shifted : Bool
  data : List (List Byte)
  lines : List (Nat × List Byte)
  bad : Option Nat
  deriving DecidableEq, Repr

/-- A Steward context (R321-R328). `evqRetry` says that the arbiter's new try of a stalled write must still wait (R247, R327). -/
structure Ctx where
  regs : Bank
  running : Bool
  image : Nat
  hasImage : Bool
  helperTenant : TenantId
  segbase : Word
  segcnt : BitVec 17
  lstat : Byte
  evqbase : Word
  evqhead : BitVec 9
  evqtail : BitVec 9
  evqStalled : Bool
  evqRetry : Bool
  hostfwd : Bool
  events : List Event
  vsel : Word
  scans : List ScanCmd
  tinv : List (Nat × Nat × Nat × BitVec 4)
  frel : List (Nat × TenantId × Nat × BitVec 4)
  held : List Trap
  counters : Counters
  lock : Option Nat
  deriving DecidableEq, Repr

/-! ### Tenants -/

/-- One slice of a SLICE launch: the wing it belongs to, its D index, the iterations that an abort gave back, and the bounds of the rest,
counted among the iterations of its D index (R27, R361). -/
structure Slice where
  lead : SuiteId
  dIndex : Option Nat
  again : List Nat
  next : Nat
  stop : Nat
  deriving DecidableEq, Repr

/-- A launch in a tenant's queue (R20-R39). `todo` counts the iterations never placed, `again` those that an abort gave back under GREEDY,
`readyClk` the cycles spent ready and unplaced, `gone` the Visits aborted without replace (R361), `dDies` the die of each D index of which GREEDY has placed an iteration (R28). -/
structure Launch where
  id : W32
  imageSeg : Nat
  image : Nat
  prio : Nat
  slice : Bool
  scope : BitVec 2
  shape : Fin 9
  nlev : Nat
  kinds : List Nat
  levels : List Nat
  trips : List Nat
  param : Word
  affinity : Word
  deps : List W32
  seq : Nat
  ready : Bool
  effPrio : Nat
  readyClk : Nat
  todo : Nat
  again : List Nat
  slices : List Slice
  slicedD : List (Option Nat)
  dDies : List (Nat × Nat)
  retired : Nat
  gone : Nat
  failed : Bool
  barriers : Nat
  deriving DecidableEq, Repr

/-- Trace configuration of a tenant (R349, R436), and its records not yet written, oldest first (R351). -/
structure Trace where
  base : Word
  len : W32
  pos : W32
  ctl : BitVec 6
  filt : BitVec 33
  loops : Word
  waitthr : W32
  drop : W32
  pending : List (List Byte)
  deriving DecidableEq, Repr

/-- Bandwidth settings of a tenant (R325, R326, R419). -/
structure Qos where
  prio : BitVec 4
  depth : BitVec 13
  rate : BitVec 11
  weight : Byte
  wait : W32
  deriving DecidableEq, Repr

/-- The order log of a tenant (R338): `age` counts the cycles that the entry at OLOGPOS waits in replay (R339), `full` says that LOGFULL has been raised. -/
structure OrderLog where
  seg : W16
  pos : BitVec 48
  lim : BitVec 48
  r : Word
  age : Nat
  full : Bool
  deriving DecidableEq, Repr

/-- Replica digests of a tenant (R342, R432): the digest and the errs of its own that wait for the peer's, and what of
the peer has come. -/
structure Replica where
  segs : Vector (BitVec 17) 8
  peer : BitVec 9
  count : Word
  errs : W32
  fenced : Bool
  rerun : Bool
  pending : Bool
  own : Option (BitVec 256 × W32)
  got : Option (BitVec 256 × Word × W32)
  deriving DecidableEq, Repr

/-- A tenant. -/
structure Tenant where
  launches : List Launch
  mask : Word
  cs : Vector (BitVec 6) 16
  csSat : BitVec 16
  detctl : BitVec 4
  olog : OrderLog
  replica : Replica
  trace : Trace
  qos : Qos
  locks : List (Nat × CtxId)
  lockQueue : List (Nat × CtxId)
  barriersDie : Vector Nat 4
  barriersPkg : Nat
  held : List Nat
  deriving DecidableEq, Repr

/-! ### Package -/

/-- A code image in the instruction store (R19): header fields and lines (R15, R99). -/
structure Image where
  tenant : TenantId
  seg : Nat
  nlines : Nat
  dual : Bool
  entryA : W32
  entryX : W32
  entryCh : W32
  drains : List W32
  latency : List Nat
  lines : List (List W32)
  deriving DecidableEq, Repr

/-- A key slot: its tenant, and how many keys have been drawn for it (R324). -/
structure KeySlot where
  tenant : Option TenantId
  draw : Nat
  deriving DecidableEq, Repr

/-- What a memory port has cached (R66). -/
inductive PortEntry where
  | desc (t : TenantId) (seg : Nat) (bytes : List Byte)
  | pte (t : TenantId) (seg : Nat) (idx : Nat) (v : Word)
  deriving DecidableEq, Repr

/-- A passage (R266, R267): its register, the slots not yet taken in credit order, each with its number and its data once it is full, the
number of the next slot, the slots that are not empty, and the slots in another package that it has reported full and whose PSEND has not yet completed. -/
structure Passage where
  csr : Word
  slots : List (Nat × Option Tile)
  nextSlot : Nat
  used : Nat
  filled : List Nat
  deriving DecidableEq, Repr

/-- Progress of a collective instance (R271-R275): its steps as (operation, source, destination, time), its local ranks, the ranks that have
arrived in other packages, each with its package, the words received for a step, the time of the latest arrival known, and for each started step the rows written and what holds it (R382). -/
structure CollInst where
  tenant : TenantId
  imageSeg : Nat
  offset : Nat
  inst : Nat
  scope : Nat
  int : Bool
  wire : Fmt
  acck : Nat
  nrank : Nat
  lsAddr : Nat
  rows : Nat
  cols : Nat
  post : Option Nat
  kind : Nat
  steps : List (Nat × Nat × Nat × Nat)
  ranks : List (Nat × SuiteId)
  remote : List (Nat × Nat)
  lastAt : Word
  words : List (Nat × List W32)
  doneSteps : List Nat
  progress : List (Nat × Nat × Option (Nat × Nat))
  t0 : Option Nat
  abandoned : Bool
  closed : Bool
  deriving DecidableEq, Repr

/-- A segment whose frames the walker moves (R247): the entries read at the hold and not yet copied, and the entries that the rebind writes. -/
structure Migr where
  tenant : TenantId
  seg : Nat
  todo : List (Nat × Word)
  moved : List (Nat × Word)
  bound : Bool
  deriving DecidableEq, Repr

/-- Who asks a slice port: a bank or context for its accesses, the scan commands of a context (R290), the order log of a tenant (R338), or its
trace, which takes no tokens (R351). -/
inductive Asker where
  | agent (r : BankRef)
  | scan (c : CtxId)
  | olog (t : TenantId)
  | trace (t : TenantId)
  deriving DecidableEq, Repr

/-- A request at an L2 slice port: its tenant, who makes it, its line, and the cycles it has waited (R325, R419). -/
structure L2Req where
  tenant : TenantId
  who : Asker
  line : Nat
  wait : Nat
  deriving DecidableEq, Repr

/-- One L2 slice port: per tenant bucket and fraction (absent: both 0), the pool, the tenant last granted from a bucket, the waiting requests, oldest
first, and the granted ones whose access has not yet been made (R325). -/
structure L2Port where
  port : Nat
  buckets : List (TenantId × Nat × Nat)
  pool : Nat
  last : Nat
  reqs : List L2Req
  granted : List (Asker × Nat)
  deriving DecidableEq, Repr

/-- A message to the host, or a packet to another package with its sequence number (R422). -/
structure OutMsg where
  kind : Nat
  tag : Nat
  bytes : List Byte
  seq : Nat
  deriving DecidableEq, Repr

/-- A packet that waits at a Cheyrlink port: its destination, its tenant, whether it is of the control class (R282), the flits that have still to
leave, sixteenths of a link cycle waited, and what it carries. -/
structure Waiting where
  dest : Nat
  tenant : TenantId
  control : Bool
  flits : Nat
  age : Nat
  msg : OutMsg
  deriving DecidableEq, Repr

/-- A flit in a replay buffer (R422): its packet's destination, tenant, class and sequence number. -/
structure SentFlit where
  dest : Nat
  tenant : TenantId
  control : Bool
  seq : Nat
  deriving DecidableEq, Repr

/-- A Cheyrlink port (R422-R425): `accepted` lists the packets taken, by source and sequence number, `failing` the one whose flit failed last and `fails`
its failures in a row, `updating` that it has gone down or come back up and the routes are not yet known anew (R425), `waiting` the packets that have not
left, `escaped` those in the escape channel (R283), `sent` the replay buffer of the last 256 flits, the latest first, `resend` the flits that are sent again, the oldest first
(R422), `time` the sixteenths of a link cycle not yet used, `credit` what the weighted round robin owes each tenant, and `control` the bulk flits since
the control class had its turn (R326). -/
structure Link where
  trained : Bool
  down : Bool
  downs : W16
  retries : W32
  accepted : List (Nat × Nat)
  failing : Option (Nat × Nat)
  fails : Nat
  updating : Bool
  waiting : List Waiting
  escaped : List Waiting
  sent : List SentFlit
  resend : List SentFlit
  time : Nat
  credit : List (TenantId × Int)
  control : Nat
  deriving DecidableEq, Repr

/-- The frames a FREL is releasing and the owner the key manager records (R165, R402). -/
structure Frames where
  owner : List (Nat × TenantId)
  releasing : List (Nat × TenantId)
  deriving DecidableEq, Repr

/-- What a Suite-core image holds in the areas whose layout the manual does not print (R311): queue records, results in flight, waits and the
page-fault state of both banks, the nest behind a running M command and its halt (log 18). -/
structure Snap where
  lead : SuiteId
  banks : Vector Bank 2
  mq : List Cmd
  mrun : List Cmd
  cqueue : List Cmd
  crun : List Cmd
  flags : Vector TileFlag 48
  chanter : Chanter
  runs : List WingRun
  halt : Halt
  deriving DecidableEq, Repr

/-- What exists once per package. `throttle` counts the cycles that a die's arithmetic clock still pauses, `pausing` says that it pauses in this cycle (R333). `monitors` holds the watched lines, by whom, and whether each has been triggered (R152). `setters` names who last wrote an aligned word of 8 bytes (R350). `routes` lists the packages that had a route after the last update (R425), `packetSeq` numbers the packets sent (R422). `stopReq` names the room and core clocks that stop at the end of this cycle (R300). `away` lists the detached Visits, which exist only in images (R315). -/
structure Package where
  mem : Memory
  stamps : List (Nat × Nat)
  poison : List Nat
  setters : List (Nat × W16)
  flips : List ErrSite
  frames : Frames
  keys : Vector KeySlot 128
  ports : List PortEntry
  images : List Image
  passages : Vector (Vector Passage 8) 5
  colls : List CollInst
  collCount : List (Nat × Nat × Nat × Nat × Nat)
  monitors : List (Nat × BankRef × Bool)
  l2 : List L2Port
  links : Vector Link 12
  routes : Option (List Nat)
  linklost : W32
  packetSeq : Nat
  out : List OutMsg
  eventSeq : Nat
  featacc0 : Word
  featacc1 : Word
  featLocked : Bool
  memerr : Word
  memeaddr : Word
  scnerr : Word
  pwrcap : BitVec 12
  throttle : Vector Nat 4
  pausing : Vector Bool 4
  rcyc : Vector Word 4
  qossel : BitVec 6
  ownsel : BitVec 6
  hvact : BitVec 6
  ctxasgSel : BitVec 7
  wingsel : Vector (BitVec 6) 128
  migrating : List Migr
  snaps : List Snap
  away : List Visit
  stopReq : List (SuiteId × Bool × Bool)
  booted : Bool
  deriving DecidableEq, Repr

/-- One turn of a cycle: a stream’s chance to issue or an event’s chance to happen (log 5); the refill of a slice port (L2_BUCKET_REFILL), the
ageing of what waits at a link (ESCAPE_CHANNEL_ENTRY) and the landings of a bank (RESULT_LANDING) have turns of their own; so has a CSR write that
lands. A phase becomes the turns of one part of the cycle, from the state that it then finds. -/
inductive Turn where
  | issue (ag : Agent)
  | event (i : Instr)
  | csr (ag : Agent) (num : BitVec 12) (op : CsrOp)
  | phase (n : Nat)
  | refill (port : Nat)
  | escape (port : Fin 12)
  | landing (r : BankRef)
  deriving DecidableEq, Repr

/-- The whole package. `cur` is the stream whose instruction runs, `turns` what is left of the cycle, `inputs` what the outside will do,
`resetFrom` the endpoint numbers in the headers of the RESET messages among them, `fresh` the counter of free choices: the model's own fields (log 3, log 5,
log 6, log 41). -/
structure State where
  cycle : Nat
  fabric : Word
  suites : Vector Suite 64
  rooms : Vector Room 64
  ctxs : Vector Ctx 128
  tenants : Vector Tenant 64
  pkg : Package
  cur : Agent
  turns : List Turn
  inputs : List Instr
  resetFrom : List (BitVec 16)
  fresh : Nat
  deriving DecidableEq, Repr

/-! ### Reset -/

def LoopRec.reset : LoopRec := ⟨0, 0, 0, false, 0, 0⟩

def Stream.reset : Stream where
  pos := 0
  running := false
  sems := Vector.replicate 8 0
  semNew := Vector.replicate 8 0
  loops := Vector.replicate 6 LoopRec.reset
  loopAge := 0
  frm := 0
  xflg := 0
  semsat := 0
  waittmo := 0
  rlOver := false
  rlUnder := false
  labels := []
  hndl := Vector.replicate 7 0
  tfbase := 0
  tfdepth := 0
  lineMode := none
  blocked := false
  flagHeld := false
  flagWait := 0
  waitOn := 0

def Bank.reset : Bank where
  a := Vector.replicate 32 0
  e := Vector.replicate 16 0
  sa := Stream.reset
  sx := Stream.reset
  cq := []
  cqNew := []
  tok := Vector.replicate 12 0
  tokNew := Vector.replicate 12 0
  visit := none
  lq := []
  sq := []
  nextSeq := 0
  aligns := []
  fence := none
  replay := []
  pageWait := false
  switched := false
  traps := []
  trapsLater := []
  trapAt := none
  fly := []
  divs := []
  prefetch := []
  phase := 0
  sync := .none
  deadCount := 0
  yieldLeft := 0
  wrote := []

def Tile.zero : Tile := Vector.replicate 128 (Vector.replicate 256 0)
def Mask.zero : Mask := Vector.replicate 128 0
def AccTile.zero : AccTile := Vector.replicate 128 (Vector.replicate 128 0)
def Pe.reset : Pe := ⟨0, 0, 0, false, false, 0, 0, 0, 0, 0, false, false, false⟩
/-- Tables of zeros, formats BF16 x BF16 (R85), no drain program. -/
def NestSet.reset : NestSet := ⟨Vector.replicate 448 0, Vector.replicate 16 0x0110, 15, 0⟩
def Slot.reset : Slot := ⟨false, []⟩
def Halt.reset : Halt := ⟨false, 0, 0, 0, 0, 0, [], 0⟩

def Drone.reset : Drone where
  active := false
  fixed := false
  held := false
  dbeat := 0
  dmiss := 0
  look := 1
  ddem := 0
  dstep := 0
  dcfg := 0
  dcfg2 := 0
  finalStep := none
  nextDemand := 0
  feedOpen := []
  withdrawnA := 0
  withdrawnB := 0
  drainOpen := none
  queue := []
  queueNew := 0
  sinceBeat := 0
  missRaised := false
  missNow := false
  ending := false

def Room.reset (u : SuiteId) : Room where
  pes := Vector.replicate 128 (Vector.replicate 128 Pe.reset)
  aFeed := Vector.replicate 64 Slot.reset
  bFeed := Vector.replicate 64 Slot.reset
  aNext := 0
  bNext := 0
  acc := Vector.replicate 32 AccTile.zero
  active := NestSet.reset
  shadow := Vector.replicate 2 NestSet.reset
  runs := []
  nbeat := 0
  busy := false
  ovf := false
  ovfNow := false
  halt := Halt.reset
  ce := 0
  ue := 0
  accseq := 0
  atomics := []
  wingLead := u
  wingShape := 0
  latchE := Vector.replicate 128 0
  latchS := Vector.replicate 128 0
  latchX := Vector.replicate 128 0
  rphase := 0
  stopped := false
  damaged := []
  drone := Drone.reset
  drain := none
  drainPos := 0
  portRows := []
  portAtoms := []
  unitOld := []
  seqIn := none
  feedA := none
  feedB := none
  aShift := (0, 0)
  bShift := (0, 0)
  beatNow := false
  stopBeat := 0
  lastOwner := none

def Counters.reset : Counters := ⟨Vector.replicate 8 0, Vector.replicate 8 0, 0, Vector.replicate 8 0, Vector.replicate 8 false⟩
def Chanter.reset : Chanter := ⟨Vector.replicate 8 0, 0, false, 0, false, false, none⟩

def Suite.reset : Suite where
  banks := Vector.replicate 2 Bank.reset
  tiles := Vector.replicate 48 Tile.zero
  flags := Vector.replicate 48 ⟨false, false, false, 0⟩
  leftover := []
  masks := Vector.replicate 8 Mask.zero
  chanter := Chanter.reset
  ls := []
  l1 := []
  l1mib := 0
  mq := []
  mrun := []
  cqueue := []
  crun := []
  lastBank := 0
  aPort := false
  stopped := false
  stopBound := false
  stopBoth := false
  stopBeat := 0
  snapIn := none
  counters := Counters.reset
  dbgarm := 0
  wpaddr := 0
  wpctl := 0x300
  ologsp := 0

def Ctx.reset : Ctx where
  regs := Bank.reset
  running := false
  image := 0
  hasImage := false
  helperTenant := 0
  segbase := 0
  segcnt := 0
  lstat := 0
  evqbase := 0
  evqhead := 0
  evqtail := 0
  evqStalled := false
  evqRetry := false
  hostfwd := false
  events := []
  vsel := 0
  scans := []
  tinv := []
  frel := []
  held := []
  counters := Counters.reset
  lock := none

def Trace.reset : Trace := ⟨0, 0, 0, 0, 0, 0, 0, 0, []⟩
/-- R325 and R326 give depth 4,096, rate 1,024 and weight 16. -/
def Qos.reset : Qos := ⟨0, 4096, 1024, 16, 0⟩
def OrderLog.reset : OrderLog := ⟨0, 0, 0, 0, 0, false⟩
def Replica.reset : Replica := ⟨Vector.replicate 8 0, 0, 0, 0, false, false, false, none, none⟩

def Tenant.reset : Tenant where
  launches := []
  mask := 0
  cs := Vector.replicate 16 0
  csSat := 0
  detctl := 0
  olog := OrderLog.reset
  replica := Replica.reset
  trace := Trace.reset
  qos := Qos.reset
  locks := []
  lockQueue := []
  barriersDie := Vector.replicate 4 0
  barriersPkg := 0
  held := []

def Passage.reset : Passage := ⟨0, [], 0, 0, []⟩
def Link.reset : Link := ⟨false, false, 0, 0, [], none, 0, false, [], [], [], [], 0, [], 0⟩

def Package.reset : Package where
  mem := []
  stamps := []
  poison := []
  setters := []
  flips := []
  frames := ⟨[], []⟩
  keys := Vector.replicate 128 ⟨none, 0⟩
  ports := []
  images := []
  passages := Vector.replicate 5 (Vector.replicate 8 Passage.reset)
  colls := []
  collCount := []
  monitors := []
  l2 := (List.range 1536).map fun p => ⟨p, [], 0, 63, [], []⟩
  links := Vector.replicate 12 Link.reset
  routes := none
  linklost := 0
  packetSeq := 0
  out := []
  eventSeq := 0
  featacc0 := 0
  featacc1 := 0
  featLocked := false
  memerr := 0
  memeaddr := 0
  scnerr := 0
  pwrcap := 3000
  throttle := Vector.replicate 4 0
  pausing := Vector.replicate 4 false
  rcyc := Vector.replicate 4 0
  qossel := 0
  ownsel := 0
  hvact := 0
  ctxasgSel := 64
  wingsel := Vector.replicate 128 0
  migrating := []
  snaps := []
  away := []
  stopReq := []
  booted := false

/-- The package right after a package reset (R329): no Visit placed, every context stopped, nothing written in memory. -/
def State.reset : State where
  cycle := 0
  fabric := 0
  suites := Vector.replicate 64 Suite.reset
  rooms := Vector.ofFn fun u => Room.reset u
  ctxs := Vector.replicate 128 Ctx.reset
  tenants := Vector.replicate 64 Tenant.reset
  pkg := Package.reset
  cur := ⟨.ctx 127, .a⟩
  turns := []
  inputs := []
  resetFrom := []
  fresh := 0

end Sys2Proof.Machine
end

