-- ==== Sys2Proof/Machine/Access.lean ====
section
/-! DEFINITION. Reading and replacing the parts of the state: Suites, rooms, contexts, tenants, banks, streams and registers. -/

namespace Sys2Proof

/-- Agent codes of R354. -/
def StreamKind.code : StreamKind → BitVec 3
  | .a => 0 | .x => 1 | .chanter => 2 | .drain => 3

/-- The package room index of a bank; a Steward context has none. -/
def BankRef.suite? : BankRef → Option SuiteId
  | .bank u _ => some u
  | .ctx _ => none

def BankRef.isCtx : BankRef → Bool
  | .ctx _ => true
  | .bank .. => false

/-- The context bank number (R54 BANKID); 0 in a Steward context. -/
def BankRef.index : BankRef → Nat
  | .bank _ b => b.val
  | .ctx _ => 0

/-- The source field of an event or trace record: a room index or 0x100 + context (R327, R350). -/
def BankRef.source : BankRef → Nat
  | .bank u _ => u.val
  | .ctx c => 256 + c.val

/-- The Suite of an agent; a Steward context has none and the value is not used. -/
def Agent.suite (ag : Agent) : SuiteId := ag.bank.suite?.getD 0

end Sys2Proof

namespace Sys2Proof.Machine

def State.suite (s : State) (u : SuiteId) : Suite := s.suites.get u
def State.setSuite (s : State) (u : SuiteId) (x : Suite) : State := { s with suites := s.suites.set u.val x u.isLt }
def State.modSuite (s : State) (u : SuiteId) (f : Suite → Suite) : State := s.setSuite u (f (s.suite u))
def State.room (s : State) (u : SuiteId) : Room := s.rooms.get u
def State.setRoom (s : State) (u : SuiteId) (x : Room) : State := { s with rooms := s.rooms.set u.val x u.isLt }
def State.modRoom (s : State) (u : SuiteId) (f : Room → Room) : State := s.setRoom u (f (s.room u))
def State.ctx (s : State) (c : CtxId) : Ctx := s.ctxs.get c
def State.setCtx (s : State) (c : CtxId) (x : Ctx) : State := { s with ctxs := s.ctxs.set c.val x c.isLt }
def State.modCtx (s : State) (c : CtxId) (f : Ctx → Ctx) : State := s.setCtx c (f (s.ctx c))
def State.tenant (s : State) (t : TenantId) : Tenant := s.tenants.get t
def State.setTenant (s : State) (t : TenantId) (x : Tenant) : State := { s with tenants := s.tenants.set t.val x t.isLt }
def State.modTenant (s : State) (t : TenantId) (f : Tenant → Tenant) : State := s.setTenant t (f (s.tenant t))
def State.modPkg (s : State) (f : Package → Package) : State := { s with pkg := f s.pkg }

/-- A bank, or the register set of a Steward context. -/
def State.bank (s : State) : BankRef → Bank
  | .bank u b => (s.suite u).banks.get b
  | .ctx c => (s.ctx c).regs

def State.setBank (s : State) (r : BankRef) (x : Bank) : State :=
  match r with
  | .bank u b => s.setSuite u { s.suite u with banks := (s.suite u).banks.set b.val x b.isLt }
  | .ctx c => s.setCtx c { s.ctx c with regs := x }

def State.modBank (s : State) (r : BankRef) (f : Bank → Bank) : State := s.setBank r (f (s.bank r))

/-- The stream state an agent uses: the chanter waits on and increments the A-stream's semaphores (R44), and the other stream-local numbers that it
reads are the A-stream's too: R311 holds copies for the A- and the X-stream only (DESIGN CHOICE, log 55). -/
def Bank.stream (b : Bank) : StreamKind → Stream
  | .x => b.sx
  | _ => b.sa

def Bank.setStream (b : Bank) (k : StreamKind) (x : Stream) : Bank :=
  match k with
  | .x => { b with sx := x }
  | _ => { b with sa := x }

def State.stream (s : State) (ag : Agent) : Stream := (s.bank ag.bank).stream ag.kind
def State.modStream (s : State) (ag : Agent) (f : Stream → Stream) : State :=
  s.modBank ag.bank fun b => b.setStream ag.kind (f (b.stream ag.kind))

/-- Array die of a room (R2). -/
def dieOf (u : SuiteId) : Nat := u.val / 16

/-- Row and column of a room within its die's 4 x 4 grid (R2). -/
def roomRow (u : SuiteId) : Nat := u.val % 16 / 4
def roomCol (u : SuiteId) : Nat := u.val % 4

/-- Rows and columns of rooms of a shape code (R21). -/
def shapeRows (c : Nat) : Nat := [1, 1, 2, 2, 1, 4, 2, 4, 4].getD c 1
def shapeCols (c : Nat) : Nat := [1, 2, 1, 2, 4, 1, 4, 2, 4].getD c 1

/-- Whether a lead room is an aligned position of a shape (R26). -/
def aligned (lead : SuiteId) (shape : Nat) : Bool := roomRow lead % shapeRows shape == 0 && roomCol lead % shapeCols shape == 0

/-- The rooms of the wing of a shape at a lead room, by row then column (R208). -/
def wingRooms (lead : SuiteId) (shape : Nat) : List SuiteId :=
  (List.finRange 64).filter fun v =>
    dieOf v == dieOf lead && decide (roomRow lead ≤ roomRow v) && decide (roomRow v < roomRow lead + shapeRows shape)
      && decide (roomCol lead ≤ roomCol v) && decide (roomCol v < roomCol lead + shapeCols shape)

/-- The supervisor context of a tenant (R321). -/
def supervisor (t : TenantId) : CtxId := ⟨t.val, by omega⟩
/-- The hypervisor context (R321). -/
def hypervisor : CtxId := 127

/-- The tenant for which a context acts: its own, the one CTXASG gave a helper, or HVACT's (R321, R348). -/
def ctxTenant (s : State) (c : CtxId) : TenantId :=
  if h : c.val < 64 then ⟨c.val, h⟩
  else if c.val = 127 then ⟨s.pkg.hvact.toNat, s.pkg.hvact.isLt⟩
  else (s.ctx c).helperTenant

/-- The tenant of a bank's Visit or of a context. -/
def tenantOf (s : State) : BankRef → TenantId
  | .bank u b => match ((s.suite u).banks.get b).visit with
    | some v => v.tenant
    | none => 0
  | .ctx c => ctxTenant s c

/-- Whether the image of the bank's Visit has the dual flag (R32). -/
def dualOf (s : State) (r : BankRef) : Bool :=
  match (s.bank r).visit with
  | some v => v.dual
  | none => false

/-! ### The division of a Suite between its banks (R32) -/

def physTile (s : State) (r : BankRef) (t : BitVec 6) : Fin 48 :=
  if dualOf s r then ⟨24 * (r.index % 2) + t.toNat % 24, by omega⟩ else ⟨t.toNat % 48, by omega⟩
def physMask (s : State) (r : BankRef) (m : BitVec 3) : Fin 8 :=
  if dualOf s r then ⟨4 * (r.index % 2) + m.toNat % 4, by omega⟩ else ⟨m.toNat % 8, by omega⟩
def physAcc (s : State) (r : BankRef) (k : Nat) : Fin 32 :=
  if dualOf s r then ⟨16 * (r.index % 2) + k % 16, by omega⟩ else ⟨k % 32, by omega⟩

/-! ### Registers -/

/-- A read of an address register: a0 reads zero; in a chanter line numbers 24-31 name c0-c7 (R42-R44). -/
def readA (s : State) (ag : Agent) (n : BitVec 5) : Word :=
  if ag.kind = .chanter ∧ 24 ≤ n.toNat then
    (s.suite ag.suite).chanter.c.get ⟨n.toNat % 8, by omega⟩
  else if n = 0 then 0
  else (s.bank ag.bank).a.get ⟨n.toNat, n.isLt⟩

/-- A write of an address register: a0 discards it (R43); in a chanter line numbers 24-31 name c0-c7 (R44). -/
def writeA (s : State) (ag : Agent) (n : BitVec 5) (v : Word) : State :=
  if ag.kind = .chanter then
    s.modSuite ag.suite fun x =>
      { x with chanter := { x.chanter with c := x.chanter.c.set (n.toNat % 8) v (by omega) } }
  else if n = 0 then s
  else s.modBank ag.bank fun b => { b with a := b.a.set n.toNat v n.isLt }

def readE (s : State) (ag : Agent) (n : BitVec 4) : Word := (s.bank ag.bank).e.get ⟨n.toNat, n.isLt⟩
def writeE (s : State) (ag : Agent) (n : BitVec 4) (v : Word) : State :=
  s.modBank ag.bank fun b => { b with e := b.e.set n.toNat v n.isLt }

/-- A semaphore increment of a stream's set; past 63 it stays and sets the SEMSAT bit (R48). -/
def semIncrement (st : Stream) (n : BitVec 3) : Stream :=
  let v := st.sems.get ⟨n.toNat, n.isLt⟩
  if v = 63 then { st with semsat := st.semsat ||| (1 <<< n.toNat) }
  else { st with sems := st.sems.set n.toNat (v + 1) n.isLt }

/-- An increment that takes effect at the end of the cycle (R48). -/
def semLater (st : Stream) (n : BitVec 3) : Stream :=
  { st with semNew := st.semNew.set n.toNat (st.semNew.get ⟨n.toNat, n.isLt⟩ + 1) n.isLt }

/-- The completion increment of a pair of done fields, bit 3 the enable (R108). -/
def doneFor (s : State) (r : BankRef) (k : StreamKind) (dn : BitVec 4) : State :=
  if dn.getLsbD 3 then s.modBank r fun b => b.setStream k (semLater (b.stream k) (dn.setWidth 3)) else s

/-! ### Token queues (R50) -/

/-- Index of the queue from one engine to another among the twelve. -/
def tokIndex (src dst : Engine) : Fin 12 :=
  match src, dst with
  | .a, .x => 0 | .a, .m => 1 | .a, .c => 2
  | .x, .a => 3 | .x, .m => 4 | .x, .c => 5
  | .m, .a => 6 | .m, .x => 7 | .m, .c => 8
  | .c, .a => 9 | .c, .x => 10 | .c, .m => 11
  | .a, .a => 0 | .x, .x => 3 | .m, .m => 6 | .c, .c => 9

/-- Tokens that a queue holds, those placed in this cycle included. -/
def tokHeld (b : Bank) (src dst : Engine) : Nat := b.tok.get (tokIndex src dst) + b.tokNew.get (tokIndex src dst)
/-- Tokens that a queue held when the cycle began and still holds: only these satisfy a pop (R158, R191). -/
def tokReady (b : Bank) (src dst : Engine) : Nat := b.tok.get (tokIndex src dst)
def tokPut (b : Bank) (src dst : Engine) : Bank :=
  let i := tokIndex src dst
  { b with tokNew := b.tokNew.set i.val (b.tokNew.get i + 1) i.isLt }
def tokTake (b : Bank) (src dst : Engine) : Bank :=
  let i := tokIndex src dst
  { b with tok := b.tok.set i.val (b.tok.get i - 1) i.isLt }

/-- The sources that a pop mask names (R112). -/
def popSources (pop : BitVec 4) : List Engine :=
  (if pop.getLsbD 3 then [.a] else []) ++ (if pop.getLsbD 2 then [.x] else []) ++
  (if pop.getLsbD 1 then [.m] else []) ++ (if pop.getLsbD 0 then [.c] else [])

def popReady (b : Bank) (e : Engine) (pop : BitVec 4) : Bool := (popSources pop).all fun src => decide (0 < tokReady b src e)
def popTake (b : Bank) (e : Engine) (pop : BitVec 4) : Bank := (popSources pop).foldl (fun b src => tokTake b src e) b

/-! ### Free choices (log 3) -/

/-- The next free choice, below n. -/
def chooseBelow (s : State) (n : Nat) : Nat × State := (Config.choice s.fresh % n, { s with fresh := s.fresh + 1 })

/-! ### Bytes and words -/

/-- The value of bytes, least significant first (R13). -/
def leNat : List Byte → Nat
  | [] => 0
  | b :: t => b.toNat + 256 * leNat t

/-- n bytes of a value, least significant first. -/
def leBytes : Nat → Nat → List Byte
  | 0, _ => []
  | n + 1, v => BitVec.ofNat 8 v :: leBytes n (v / 256)

/-- The n bits of a natural number from bit lo upward. -/
def natBits (v lo n : Nat) : Nat := v / 2 ^ lo % 2 ^ n

/-- Bytes of a list from an offset. -/
def bytesAt (l : List Byte) (off n : Nat) : List Byte := (l.drop off).take n
/-- A little-endian field of a list of bytes. -/
def fieldAt (l : List Byte) (off n : Nat) : Nat := leNat (bytesAt l off n)
/-- A natural number read as an n-bit two's complement value. -/
def signedOf (n v : Nat) : Int := if v % 2 ^ n < 2 ^ (n - 1) then (v % 2 ^ n : Nat) else ((v % 2 ^ n : Nat) : Int) - 2 ^ n

end Sys2Proof.Machine
end

