-- ==== Sys2Proof/Machine/Memory.lean ====
section
/-! DEFINITION. Memory: bytes, keys and poison, segment descriptors and tile tables, translation, L1 and the Local Store.
spec/02_state_and_addressing.md R55-R68, spec/11_memory_model.md R255-R256, spec/20_faults_memory.md R394-R402, R408. -/

namespace Sys2Proof.Machine

/-! ### The list of bytes -/

/-- One byte of a memory. -/
def memGet : Memory → Nat → Byte
  | [], _ => Config.memDefault
  | (k, v) :: t, a => if k = a then v else memGet t a

/-- A memory with one byte replaced; the list stays strictly rising and without default bytes. -/
def memPut : Memory → Nat → Byte → Memory
  | [], a, v => if v = Config.memDefault then [] else [(a, v)]
  | (k, x) :: t, a, v =>
    if a < k then (if v = Config.memDefault then (k, x) :: t else (a, v) :: (k, x) :: t)
    else if a = k then (if v = Config.memDefault then t else (a, v) :: t)
    else (k, x) :: memPut t a v

/-- Every address listed lies above `lo`, addresses rise strictly, and no byte listed is the default. -/
def memWfFrom : Nat → Memory → Bool
  | _, [] => true
  | lo, (k, v) :: t => decide (lo ≤ k) && v != Config.memDefault && memWfFrom (k + 1) t

/-- The canonical form. -/
def Memory.wf (m : Memory) : Bool := memWfFrom 0 m

def memRead (m : Memory) (a : Nat) : Nat → List Byte
  | 0 => []
  | n + 1 => memGet m a :: memRead m (a + 1) n

def memWrite (m : Memory) (a : Nat) : List Byte → Memory
  | [] => m
  | b :: t => memWrite (memPut m a b) (a + 1) t

/-- A memory with a range of bytes back at the default. -/
def memClear (m : Memory) (a n : Nat) : Memory := m.filter fun c => !(decide (a ≤ c.1) && decide (c.1 < a + n))

/-! ### Physical memory: capacity, poison, single-bit errors, key draws -/

/-- Frames of 64 KiB in the installed 768 GB (R7; DESIGN CHOICE, log 51: they are the lowest frame numbers). -/
def frameCount : Nat := 12 * 2 ^ 20
/-- The first physical address that no installed memory answers. -/
def hbmLimit : Nat := frameCount * 65536

/-- Whether a package has a route (R425); 0xffff stands for every package of a collective. -/
def reachable (s : State) (peer : Nat) : Bool := match s.pkg.routes with | some l => peer == 0xffff || l.contains peer | none => true

/-- Whether a physical address lies in another package that has no route (R426; DESIGN CHOICE, log 51). -/
def farLost (s : State) (a : Nat) : Bool :=
  let p := Config.framePackage (a / 65536)
  decide (hbmLimit ≤ a) && p != Config.pkgId && !reachable s p.toNat

/-- A byte of the installed memory; beyond it every read is a free value (DESIGN CHOICE, log 51). -/
def hbmGet (m : Memory) (a : Nat) : Byte := if a < hbmLimit then memGet m a else Config.freeByte a 7 0
def hbmRead (m : Memory) (a : Nat) : Nat → List Byte
  | 0 => []
  | n + 1 => hbmGet m a :: hbmRead m (a + 1) n

/-- A write to the installed memory; what lies beyond it is lost (DESIGN CHOICE, log 51). -/
def hbmWrite (m : Memory) (a : Nat) (bs : List Byte) : Memory := memWrite m a (bs.take (hbmLimit - a))

/-- The stamp of a unit written under a key slot's current draw (R68, R324). -/
def stampOf (s : State) (slot : Nat) : Nat :=
  slot + 128 * (if h : slot < 128 then (s.pkg.keys[slot]).draw else 0) + 1

/-- The stamp under which a 16-byte unit was last written; a unit never written has none. -/
def stampAt (s : State) (unit : Nat) : Option Nat := (s.pkg.stamps.find? fun p => p.1 == unit).map (·.2)

/-- One byte as it reads under a key slot: poisoned units and what has no route read 0xff (R408, R426), units written under another draw read garbled as a whole (R68). -/
def physByte (s : State) (slot a : Nat) : Byte :=
  if s.pkg.poison.contains (a / 64) || farLost s a then 0xff
  else
    match stampAt s (a / 16) with
    | none => hbmGet s.pkg.mem a
    | some k =>
      if k = stampOf s slot then hbmGet s.pkg.mem a
      else (Config.garble (a / 16) k (stampOf s slot) (hbmRead s.pkg.mem (a / 16 * 16) 16)).extractLsb' (8 * (a % 16)) 8

def physBytes (s : State) (slot a : Nat) : Nat → List Byte
  | 0 => []
  | n + 1 => physByte s slot a :: physBytes s slot (a + 1) n

/-- A saturating count of 32 bits. -/
def satAdd32 (c : W32) : W32 := if c = 0xffffffff then c else c + 1

/-- An access to another package without a route is discarded and counted (R426). -/
def countLost (s : State) (a : Nat) : State := if farLost s a then s.modPkg fun p => { p with linklost := satAdd32 p.linklost } else s

/-- An error of the package, or of a room of a tenant, that DIGSTAT errs of the tenants that `p` selects counts (R432). -/
def countErr (s : State) (p : Tenant → Bool) : State :=
  { s with tenants := s.tenants.map fun t => if p t then { t with replica := { t.replica with errs := satAdd32 t.replica.errs } } else t }

/-- Corrected errors of MEMERR (R408). -/
def countCe (s : State) : State :=
  (countErr s fun _ => true).modPkg fun p => { p with memerr := (satAdd32 (p.memerr.setWidth 32)).setWidth 64 ||| (p.memerr &&& 0xffffffff00000000) }

/-- A read corrects the single-bit errors it meets and writes them back (R408). -/
def correctErrors (s : State) (a n : Nat) : State :=
  let hit := s.pkg.flips.filter fun e => match e with | .mem x => decide (a / 64 ≤ x / 64) && decide (x / 64 ≤ (a + n - 1) / 64) | _ => false
  if hit.isEmpty then s
  else
    hit.foldl (fun s _ => countCe s) (s.modPkg fun p => { p with flips := p.flips.filter fun e => !hit.contains e })

/-- A write that reaches a line is a trigger for the monitors that watch the line (R152). -/
def triggerMonitors (s : State) (line : Nat) : State :=
  s.modPkg fun p => { p with monitors := p.monitors.map fun (l, r, t) => (l, r, t || l == line) }

/-- A write names the setter of an aligned word of 8 bytes (R350). -/
def nameSetter (setter : Nat) (s : State) (word : Nat) : State :=
  s.modPkg fun p => { p with setters := (word, BitVec.ofNat 16 setter) :: p.setters.filter fun q => q.1 != word }

/-- The units of `size` bytes that a range touches. -/
def unitsOf (a n size : Nat) : List Nat :=
  if n = 0 then [] else (List.range ((a + n - 1) / size - a / size + 1)).map (a / size + ·)

/-- A write first makes each touched unit readable under the new draw: a poisoned unit becomes 0xff bytes, and a unit written under another
draw becomes what reads of it return (R68, R408). -/
def rewriteUnit (slot : Nat) (s : State) (unit : Nat) : State :=
  let old := physBytes s slot (unit * 16) 16
  let st := stampOf s slot
  s.modPkg fun p =>
    { p with mem := hbmWrite p.mem (unit * 16) old, stamps := (unit, st) :: p.stamps.filter fun q => q.1 != unit }

/-- A physical write under a key slot. `setter` is the source recorded for monitors (R350). -/
def physWrite (s : State) (slot a : Nat) (bs : List Byte) (setter : Nat) : State :=
  if bs.isEmpty then s
  else
    let lines := unitsOf a bs.length 64
    let bad := lines.filter s.pkg.poison.contains
    let s1 := bad.foldl (fun s l => (List.range 4).foldl (fun s i => rewriteUnit slot s (l * 4 + i)) s) s
    let s2 := (unitsOf a bs.length 16).foldl (rewriteUnit slot) s1
    let s3 := s2.modPkg fun p => { p with mem := hbmWrite p.mem a bs, poison := p.poison.filter fun l => !lines.contains l }
    lines.foldl triggerMonitors ((unitsOf a bs.length 8).foldl (nameSetter setter) (countLost s3 a))

/-- A read of a physical range under a key slot, with the errors it meets corrected. -/
def physRead (s : State) (slot a n : Nat) : List Byte × State := (physBytes s slot a n, countLost (correctErrors s a n) a)

/-- A read by the device at a physical address: the plaintext as written, under whatever key it was written (DESIGN CHOICE, log 11). -/
def devByte (s : State) (a : Nat) : Byte := if s.pkg.poison.contains (a / 64) || farLost s a then 0xff else hbmGet s.pkg.mem a
def devRead (s : State) (a : Nat) : Nat → List Byte
  | 0 => []
  | n + 1 => devByte s a :: devRead s (a + 1) n

/-- The bytes that the device reads, with the single-bit errors it meets corrected (R408). -/
def devFetch (s : State) (a n : Nat) : List Byte × State := (devRead s a n, countLost (correctErrors s a n) a)

/-- A device write at a physical address keeps the stamps (DESIGN CHOICE, log 11) and is a write for monitors; a poisoned unit that it touches becomes
0xff bytes first and its poison ends (R408). -/
def devWrite (s : State) (a : Nat) (bs : List Byte) : State :=
  let lines := unitsOf a bs.length 64
  let bad := lines.filter s.pkg.poison.contains
  let s1 := s.modPkg fun p =>
    { p with mem := hbmWrite (bad.foldl (fun m l => hbmWrite m (l * 64) (List.replicate 64 0xff)) p.mem) a bs
             poison := p.poison.filter fun l => !lines.contains l }
  lines.foldl triggerMonitors ((unitsOf a bs.length 8).foldl (nameSetter 0xffff) (countLost s1 a))

/-! ### Segments -/

/-- A segment descriptor (R60). -/
structure Desc where
  rank : Nat
  fmt : Fmt
  tiled : Bool
  writable : Bool
  code : Bool
  pinned : Bool
  busy : Nat
  dims : List Nat
  tshape : List Nat
  owner : Nat
  ttab : Nat
  nent : Nat
  deriving DecidableEq, Repr

/-- Bytes of n elements of a format; a CB4 element takes half a byte (R61). -/
def bytesOf (f : Fmt) (n : Nat) : Nat := if f = .cb4 then n / 2 else n * f.esz

/-- Elements and bytes of one tile of a tiled segment (R63). -/
def Desc.telems (d : Desc) : Nat := d.tshape.foldl (· * ·) 1
def Desc.tbytes (d : Desc) : Nat := bytesOf d.fmt d.telems

/-- Whether a natural number is a power of two. -/
def isPow2 (n : Nat) : Bool := n != 0 && n &&& (n - 1) == 0

/-- The descriptor that 64 bytes hold; none where it is not valid or breaks R60-R63. A tile's bytes are a power of two exactly where its elements are,
the formats being of 1/2, 1, 2, 4 or 8 bytes. Format 9 needs feature bit 1 (R331). -/
def parseDesc (cb4ok : Bool) (l : List Byte) : Option Desc :=
  let f n k := fieldAt l n k
  let rank := f 0 1
  let flags := f 3 1
  let dims := (List.range 6).map fun i => f (8 + 4 * i) 4
  let tsh := (List.range 6).map fun i => f (0x20 + 2 * i) 2
  let tiled := f 2 1 == 1
  match Fmt.ofCode (f 1 1) with
  | none => none
  | some fmt =>
    let d : Desc :=
      { rank := rank, fmt := fmt, tiled := tiled, writable := flags.testBit 1, code := flags.testBit 2, pinned := flags.testBit 3,
        busy := f 4 4, dims := dims, tshape := if tiled then tsh else [1, 1, 1, 1, 1, 1], owner := f 0x2c 1, ttab := f 0x30 8, nent := f 0x38 4 }
    let above := (dims.drop rank).all (· == 1) && (!tiled || ((tsh.drop rank).all (· == 1) && tsh.all (· != 0)))
    if flags.testBit 0 && decide (flags < 16) && decide (1 ≤ rank) && decide (rank ≤ 6) && decide (f 2 1 < 2) && above
        && f 0x2d 3 == 0 && f 0x3c 4 == 0 && d.ttab % 8 == 0 && (fmt != .cb4 || cb4ok)
        && (!tiled || (isPow2 d.telems && decide (64 ≤ d.tbytes) && decide (d.tbytes ≤ 65536))) then some d
    else none

/-- Element number of a linear layout, or within a tile: x0 + n0 (x1 + n1 (x2 + …)) (R62). -/
def nestIndex : List Nat → List Nat → Nat
  | x :: xs, n :: ns => x + n * nestIndex xs ns
  | _, _ => 0

/-- Element number at coordinates, in elements from the start of the segment (R62, R63); all coordinates lie in [0, dim). -/
def Desc.elem (d : Desc) (x : List Nat) : Nat :=
  if d.tiled then
    let nt := (d.dims.zip d.tshape).map fun (n, t) => (n + t - 1) / t
    let q := (x.zip d.tshape).map fun (v, t) => v / t
    let w := (x.zip d.tshape).map fun (v, t) => v % t
    nestIndex q nt * d.telems + nestIndex w d.tshape
  else nestIndex x d.dims

/-- Byte offset of an element (R62, R63). -/
def Desc.offset (d : Desc) (x : List Nat) : Nat := bytesOf d.fmt (d.elem x)

/-- Whether a feature has been accepted (R331). -/
def featOn (s : State) (i : Nat) : Bool := s.pkg.featacc0.getLsbD i

/-- SEGBASE and SEGCNT of a tenant (R59). -/
def segTable (s : State) (t : TenantId) : Nat × Nat :=
  let c := s.ctx (supervisor t)
  (c.segbase.toNat, c.segcnt.toNat)

/-- The copies that memory ports may still use (R66). -/
def cachedDescs (s : State) (t : TenantId) (seg : Nat) : List (List Byte) :=
  s.pkg.ports.filterMap fun e => match e with | .desc t' g b => if t' = t ∧ g = seg then some b else none | _ => none
def cachedPtes (s : State) (t : TenantId) (seg idx : Nat) : List Word :=
  s.pkg.ports.filterMap fun e => match e with | .pte t' g i v => if t' = t ∧ g = seg ∧ i = idx then some v else none | _ => none

/-- The descriptor with which an access translates: one of the ports' copies or, by free choice, the one in memory, which a port then caches
if it is valid (R59, R66, R396). A table that runs past the 56-bit physical space reads there as memory nothing has written (DESIGN CHOICE, log 53). -/
def getDesc (s : State) (t : TenantId) (seg : Nat) : Option Desc × State :=
  let (base, cnt) := segTable s t
  if cnt ≤ seg then (none, s)
  else
    let copies := cachedDescs s t seg
    let (k, s1) := if copies.isEmpty then (0, s) else chooseBelow s (copies.length + 1)
    match copies[k]? with
    | some b => (parseDesc (featOn s 1) b, s1)
    | none =>
      let (b, s2) := devFetch s1 (base + 64 * seg) 64
      match parseDesc (featOn s 1) b with
      | none => (none, s2)
      | some d => (some d, if copies.contains b then s2 else s2.modPkg fun p => { p with ports := .desc t seg b :: p.ports })

/-- What a memory access gives: its answer, the cause of a fault, or that it must wait (R247, R394, R402). -/
inductive Mres (α : Type) where
  | ok (a : α)
  | fault (cause : BitVec 8)
  | wait
  deriving DecidableEq, Repr

/-- Causes SEGNP, TILENP, PROT, MISALIGN (R353). -/
def cSEGNP : BitVec 8 := 0x20
def cTILENP : BitVec 8 := 0x21
def cPROT : BitVec 8 := 0x22
def cMISALIGN : BitVec 8 := 0x23

/-- Whether an entry can be used: present, reserved bits [59:57] and [49:40] zero (R64). -/
def pteUsable (e : Word) : Bool := e.getLsbD 63 && (e &&& 0x0e03ff0000000000) == 0

/-- The entry with which an access translates, from a port's copy or from memory (R66, R396). A ttab above the 56-bit physical space reads as memory
nothing has written (DESIGN CHOICE, log 53). -/
def getPte (s : State) (t : TenantId) (seg idx : Nat) (d : Desc) : Word × State :=
  let copies := cachedPtes s t seg idx
  let (k, s1) := if copies.isEmpty then (0, s) else chooseBelow s (copies.length + 1)
  match copies[k]? with
  | some e => (e, s1)
  | none =>
    let (b, s2) := devFetch s1 (d.ttab + 8 * idx) 8
    let e : Word := BitVec.ofNat 64 (leNat b)
    (e, if pteUsable e && !copies.contains e then s2.modPkg fun p => { p with ports := .pte t seg idx e :: p.ports } else s2)

/-- Of the accessed and dirty bits, those that the copy used has clear are set in memory and in that copy (R65, R397). -/
def markPte (s : State) (t : TenantId) (seg idx : Nat) (d : Desc) (e : Word) (write : Bool) : State :=
  let bits : Word := (if write then 0x6000000000000000 else 0x2000000000000000) &&& ~~~e
  if bits = 0 then s
  else
    let a := d.ttab + 8 * idx
    let (b, s0) := devFetch s a 8
    let s1 := devWrite s0 a (leBytes 8 (BitVec.ofNat 64 (leNat b) ||| bits).toNat)
    s1.modPkg fun p =>
      { p with ports := p.ports.map fun x => match x with
          | .pte t' g i v => if t' = t ∧ g = seg ∧ i = idx ∧ v = e then .pte t' g i (v ||| bits) else x
          | _ => x }

/-- Translation of a byte offset under a descriptor, with the checks 2-5 of R394. Answers the physical address and the key slot. A frame beyond the
installed HBM translates like any other, and an element's offset of 2^36 or more counts as any other offset (DESIGN CHOICE, log 51, log 52). An access
through a held segment waits; `cross` marks the elements of a copy, which do not (R247, R389). -/
def translate (s : State) (t : TenantId) (seg : Nat) (d : Desc) (off : Nat) (write : Bool) (cross : Bool := false) : Mres (Nat × Nat) × State :=
  if !cross && (s.tenant t).held.contains seg then (.wait, s)
  else if d.nent ≤ off / 65536 then (.fault cSEGNP, s)
  else
    let (e, s1) := getPte s t seg (off / 65536) d
    let frame := (e.setWidth 40).toNat
    let slot := natBits e.toNat 50 7
    if !pteUsable e then (.fault cTILENP, s1)
    else if s.pkg.frames.releasing.any (fun f => f.1 == frame && f.2 == t) then (.fault cTILENP, s1)
    else if s.pkg.frames.releasing.any (fun f => f.1 == frame) then (.wait, s1)
    else if write && !d.writable then (.fault cPROT, s1)
    else if h : slot < 128 then
      if s.pkg.keys[slot].tenant ≠ some t then (.fault cPROT, s1)
      else if s.pkg.frames.owner.any (fun f => f.1 == frame && f.2 != t) then (.fault cPROT, s1)
      else (.ok (frame * 65536 + off % 65536, slot), markPte s1 t seg (off / 65536) d e write)
    else (.fault cPROT, s1)

/-- Translation of a virtual address with every check of R394. -/
def translateVa (s : State) (t : TenantId) (va : Nat) (write : Bool) : Mres (Nat × Nat) × State :=
  let seg := natBits va 36 16
  let (d?, s1) := getDesc s t seg
  match d? with
  | none => (.fault cSEGNP, s1)
  | some d => translate s1 t seg d (va % 2 ^ 36) write

/-! ### L1 (R57, R255, R256) -/

def l1Find (x : Suite) (t : TenantId) (seg line : Nat) : Option (List Byte) :=
  (x.l1.find? fun e => e.tenant == t && e.seg == seg && e.line == line).map (·.data)
/-- Every L1 line of a Suite is removed. -/
def l1Clear (s : State) (u : SuiteId) : State := s.modSuite u fun x => { x with l1 := [] }
/-- The L1 lines of one segment are removed in every Suite (TINV, migration). -/
def l1ClearSeg (s : State) (t : TenantId) (p : Nat → Bool) : State :=
  { s with suites := s.suites.map fun x => { x with l1 := x.l1.filter fun e => !(e.tenant == t && p e.seg) } }
/-- One line is removed from a Suite's L1 (a copy's segment write, R245). -/
def l1DropLine (s : State) (u : SuiteId) (t : TenantId) (seg line : Nat) : State :=
  s.modSuite u fun x => { x with l1 := x.l1.filter fun e => !(e.tenant == t && e.seg == seg && e.line == line) }
/-- The Suite's own copy of a line takes bytes of a frame: of a store (R57), or of a read past L1, after which a later read of them through L1 is no
older (R256, R261; DEDUCED, log 9). -/
def l1Update (s : State) (u : SuiteId) (t : TenantId) (seg off frame : Nat) (bs : List Byte) : State :=
  s.modSuite u fun x => { x with l1 := x.l1.map fun e =>
    if e.tenant == t && e.seg == seg && e.line == off / 64 then
      { e with data := e.data.take (off % 64) ++ bs ++ e.data.drop (off % 64 + bs.length), frames := frame :: e.frames.filter (· != frame) }
    else e }

/-- Counters with n events of a code added to what this cycle has counted (R344, R345); one written in this cycle counts nothing (R346). -/
def countIn (c : Counters) (code n : Nat) : Counters :=
  { c with inc := Vector.ofFn fun i => c.inc.get i + if (c.sel.get i).toNat = code ∧ c.set.get i = false then n else 0 }

/-- Counters at the end of a cycle: each advances and wraps to the remainder; the wraps are listed (R344, R347). -/
def countClose (c : Counters) : Counters × List (Fin 8) :=
  ({ c with cnt := Vector.ofFn fun i => c.cnt.get i + BitVec.ofNat 48 (c.inc.get i), inc := Vector.replicate 8 0, set := Vector.replicate 8 false },
   (List.finRange 8).filter fun i => decide (2 ^ 48 ≤ (c.cnt.get i).toNat + c.inc.get i))

/-- Counts n events of a code for a Suite while its core clock runs, or for a running context (R345, R346). -/
def countEvents (s : State) (r : BankRef) (code n : Nat) : State :=
  if code = 0 ∨ n = 0 then s
  else
    match r with
    | .bank u _ => if (s.suite u).stopped then s else s.modSuite u fun x => { x with counters := countIn x.counters code n }
    | .ctx k => if (s.ctx k).running then s.modCtx k fun x => { x with counters := countIn x.counters code n } else s

/-- The 64-byte flits that a number of bytes needs, at least one (R8). -/
def flitsOf (n : Nat) : Nat := max 1 ((n + 63) / 64)

/-- The slice port that is the home of a line: stacks 2d and 2d+1 belong to die d; the interleave is free (R67, DESIGN CHOICE, log 31). -/
def homePort (line : Nat) : Nat := 384 * ((Config.homeStack line).val / 2) + (Config.homeSlice line).val
def l2Port (s : State) (line : Nat) : L2Port := s.pkg.l2.getD (homePort line) ⟨homePort line, [], 0, 63, [], []⟩
def modL2 (s : State) (line : Nat) (f : L2Port → L2Port) : State :=
  s.modPkg fun p => { p with l2 := p.l2.map fun x => if x.port = homePort line then f x else x }

/-- A request of a tenant waits at its line's home port (R325). -/
def requestL2 (s : State) (t : TenantId) (who : Asker) (line : Nat) : State :=
  modL2 s line fun x => { x with reqs := x.reqs ++ [⟨t, who, line, 0⟩] }

/-- Whether the port has granted a request for a line (R325). -/
def l2GrantedTo (s : State) (w : Asker) (line : Nat) : Bool := (l2Port s line).granted.contains (w, line)
/-- Whether a request for a line waits at its port. -/
def l2Asked (s : State) (w : Asker) (line : Nat) : Bool := (l2Port s line).reqs.any fun q => q.who == w && q.line == line
/-- An access asks its line's home port, once, and waits until the port grants it (R325). -/
def l2AskFor (s : State) (w : Asker) (t : TenantId) (line : Nat) : State := if l2Asked s w line then s else requestL2 s t w line
/-- A granted access is made. -/
def l2Use (s : State) (w : Asker) (line : Nat) : State := modL2 s line fun x => { x with granted := x.granted.erase (w, line) }

/-- The same for the accesses of a bank or context. -/
def l2Granted (s : State) (r : BankRef) (line : Nat) : Bool := l2GrantedTo s (.agent r) line
def l2Ask (s : State) (r : BankRef) (t : TenantId) (line : Nat) : State := l2AskFor s (.agent r) t line

/-- A granted access is made: it hits or misses by free choice and is counted for its own Suite or context (R345, R346). -/
def countL2 (s : State) (r : BankRef) (line : Nat) : State :=
  let s1 := l2Use s (.agent r) line
  match r with
  | .ctx _ => s1
  | .bank .. => let (k, s2) := chooseBelow s1 2; countEvents s2 r (3 + k) 1

/-- A read past L1 of a bank's agents updates the Suite's copy of the bytes it read. -/
def l1Refresh (s : State) (r : BankRef) (t : TenantId) (seg off frame : Nat) (bs : List Byte) : State :=
  match r with
  | .bank u _ => l1Update s u t seg off frame bs
  | .ctx _ => s

/-- The L1 copy from which a read of a bank's agents takes its bytes, where it goes through L1, the line is there (R255), and the read does not go to the
line's home all the same, by free choice while it has not asked its port: a read that is not fresh may take any value since the last invalidation
(R256, log 9). -/
def l1Hit (s : State) (r : BankRef) (t : TenantId) (seg line home : Nat) (bypass : Bool) : Option (List Byte) × State :=
  match r with
  | .ctx _ => (none, s)
  | .bank u _ =>
    if bypass || (s.suite u).l1mib == 0 then (none, s)
    else
      match l1Find (s.suite u) t seg line with
      | none => (none, s)
      | some data =>
        if l2Granted s r home || l2Asked s (.agent r) home then (none, s)
        else let (k, s1) := chooseBelow s 2; (if k = 0 then some data else none, s1)

/-- A read of n bytes at a segment offset for a bank's agents, through L1 or past it (R142, R255), once the home port has granted it (R325). The bytes
lie within one line. A read through L1 fills the line unless it is there (R57). -/
def loadBytes (s : State) (r : BankRef) (t : TenantId) (seg : Nat) (d : Desc) (off n : Nat) (bypass : Bool)
    (cross : Bool := false) : Mres (List Byte) × State :=
  match translate s t seg d off false cross with
  | (.fault c, s1) => (.fault c, s1)
  | (.wait, s1) => (.wait, s1)
  | (.ok (pa, slot), s1) =>
    match l1Hit s1 r t seg (off / 64) (pa / 64) bypass with
    | (some data, s2) => (.ok (bytesAt data (off % 64) n), s2)
    | (none, s2) =>
      if !l2Granted s2 r (pa / 64) then (.wait, l2Ask s2 r t (pa / 64))
      else
        match r with
        | .ctx _ => let (b, s3) := physRead s2 slot pa n; (.ok b, countL2 s3 r (pa / 64))
        | .bank u _ =>
          if bypass || (s2.suite u).l1mib == 0 || (l1Find (s2.suite u) t seg (off / 64)).isSome then
            let (b, s3) := physRead s2 slot pa n
            (.ok b, l1Refresh (countL2 s3 r (pa / 64)) r t seg off (pa / 65536) b)
          else
            let (data, s3) := physRead s2 slot (pa - pa % 64) 64
            let s4 := s3.modSuite u fun x => { x with l1 := ⟨t, seg, off / 64, [pa / 65536], data⟩ :: x.l1 }
            (.ok (bytesAt data (off % 64) n), countL2 s4 r (pa / 64))

/-- A write of bytes at a segment offset, performed at the line's home (R142) once its port has granted it (R325). -/
def storeBytes (s : State) (r : BankRef) (t : TenantId) (seg : Nat) (d : Desc) (off : Nat) (bs : List Byte) (setter : Nat)
    (cross : Bool := false) : Mres Unit × State :=
  match translate s t seg d off true cross with
  | (.fault c, s1) => (.fault c, s1)
  | (.wait, s1) => (.wait, s1)
  | (.ok (pa, slot), s1) =>
    if !l2Granted s1 r (pa / 64) then (.wait, l2Ask s1 r t (pa / 64))
    else
      let s2 := physWrite s1 slot pa bs setter
      match r with
      | .ctx _ => (.ok (), countL2 s2 r (pa / 64))
      | .bank u _ => (.ok (), countL2 (l1Update s2 u t seg off (pa / 65536) bs) r (pa / 64))

/-- Bytes of a segment from an offset, one after another. -/
def loadSeg (s : State) (t : TenantId) (seg : Nat) (d : Desc) (off : Nat) : Nat → Mres (List Byte) × State
  | 0 => (.ok [], s)
  | k + 1 =>
    match translate s t seg d off false with
    | (.fault c, s1) => (.fault c, s1)
    | (.wait, s1) => (.wait, s1)
    | (.ok (pa, slot), s1) =>
      let (b, s2) := physRead s1 slot pa 1
      match loadSeg s2 t seg d (off + 1) k with
      | (.ok bs, s3) => (.ok (b ++ bs), s3)
      | other => other

/-- Reads of a range at a virtual address by the device for a tenant; used for records and images. Bits above 51 of an address that the device holds
belong to its segment number, which no SEGCNT covers then: SEGNP (R59, R394; DEDUCED, log 54). -/
def loadVa (s : State) (t : TenantId) (va n : Nat) : Mres (List Byte) × State :=
  match getDesc s t (va / 2 ^ 36) with
  | (none, s1) => (.fault cSEGNP, s1)
  | (some d, s1) => loadSeg s1 t (va / 2 ^ 36) d (va % 2 ^ 36) n

/-- A write of aligned 8-byte words at a virtual address by the device for a tenant, its address read as in loadVa (DEDUCED, log 54). -/
def storeVa (s : State) (t : TenantId) (va : Nat) (bs : List Byte) (setter : Nat) : Mres Unit × State :=
  match getDesc s t (va / 2 ^ 36) with
  | (none, s1) => (.fault cSEGNP, s1)
  | (some d, s1) =>
    match translate s1 t (va / 2 ^ 36) d (va % 2 ^ 36) true with
    | (.fault c, s2) => (.fault c, s2)
    | (.wait, s2) => (.wait, s2)
    | (.ok (pa, slot), s2) => (.ok (), physWrite s2 slot pa bs setter)

/-- The same through the slice port: the store waits until its line's home port has granted it, under the buckets of a tenant (R325). The bytes lie
within one line. -/
def storeVaBy (s : State) (w : Asker) (bucket t : TenantId) (va : Nat) (bs : List Byte) (setter : Nat) : Mres Unit × State :=
  match getDesc s t (va / 2 ^ 36) with
  | (none, s1) => (.fault cSEGNP, s1)
  | (some d, s1) =>
    match translate s1 t (va / 2 ^ 36) d (va % 2 ^ 36) true with
    | (.fault c, s2) => (.fault c, s2)
    | (.wait, s2) => (.wait, s2)
    | (.ok (pa, slot), s2) =>
      if l2GrantedTo s2 w (pa / 64) then (.ok (), physWrite (l2Use s2 w (pa / 64)) slot pa bs setter) else (.wait, l2AskFor s2 w bucket (pa / 64))

/-- A read of n bytes within one line at a virtual address through the slice port (R325). -/
def loadVaBy (s : State) (w : Asker) (bucket t : TenantId) (va n : Nat) : Mres (List Byte) × State :=
  match getDesc s t (va / 2 ^ 36) with
  | (none, s1) => (.fault cSEGNP, s1)
  | (some d, s1) =>
    match translate s1 t (va / 2 ^ 36) d (va % 2 ^ 36) false with
    | (.fault c, s2) => (.fault c, s2)
    | (.wait, s2) => (.wait, s2)
    | (.ok (pa, slot), s2) =>
      if l2GrantedTo s2 w (pa / 64) then let (b, s3) := physRead (l2Use s2 w (pa / 64)) slot pa n; (.ok b, s3)
      else (.wait, l2AskFor s2 w bucket (pa / 64))

/-! ### Local Store (R55, R56) -/

/-- Bytes of the scratchpad: the range below L1. -/
def scratchLimit (x : Suite) : Nat := 0x800000 - x.l1mib.toNat * 0x100000
/-- Whether a range lies in the scratchpad. -/
def inScratch (x : Suite) (a n : Nat) : Bool := decide (a + n ≤ scratchLimit x)
/-- Whether a 64-byte unit of the Local Store is poisoned (R408). -/
def lsPoisoned (s : State) (u : SuiteId) (a : Nat) : Bool :=
  s.pkg.flips.any fun e => match e with | .ls v x => v == u && x / 64 == a / 64 | _ => false

def lsRead (s : State) (u : SuiteId) (a n : Nat) : List Byte :=
  (List.range n).map fun i => if lsPoisoned s u (a + i) then 0xff else memGet (s.suite u).ls (a + i)

/-- A write to the Local Store; a poisoned unit becomes 0xff bytes first and its poison ends (R408). -/
def lsWrite (s : State) (u : SuiteId) (a : Nat) (bs : List Byte) : State :=
  let bad := (unitsOf a bs.length 64).filter fun l => lsPoisoned s u (l * 64)
  let s1 := bad.foldl (fun s l => s.modSuite u fun x => { x with ls := memWrite x.ls (l * 64) (List.replicate 64 0xff) }) s
  let s2 := if bad.isEmpty then s1 else s1.modPkg fun p =>
    { p with flips := p.flips.filter fun e => match e with | .ls v x => !(v == u && bad.contains (x / 64)) | _ => true }
  s2.modSuite u fun x => { x with ls := memWrite x.ls a bs }

/-! ### Accumulator words and their errors (R58, R393) -/

/-- A word of the accumulator store, its errors apart. -/
def accGet (s : State) (u : SuiteId) (k : Fin 32) (row col : Fin 128) : W32 := (((s.room u).acc.get k).get row).get col

/-- A write of words of an accumulator row ends their errors (R393). -/
def dropAccErrors (s : State) (u : SuiteId) (k : Fin 32) (row : Fin 128) (p : Fin 128 → Bool) : State :=
  if s.pkg.flips.isEmpty then s
  else s.modPkg fun q => { q with flips := q.flips.filter fun e => match e with
    | .acc u' k' r c => !(u' == u && k' == k && r == row && p c)
    | _ => true }

/-- A read of a word: a single-bit error is corrected, written back and counted; with more bits in error the canonical NaN reads (R393). -/
def accRead (s : State) (u : SuiteId) (k : Fin 32) (row col : Fin 128) : W32 × State :=
  match s.pkg.flips.count (ErrSite.acc u k row col) with
  | 0 => (accGet s u k row col, s)
  | 1 => (accGet s u k row col,
      (countErr (dropAccErrors s u k row fun c => c == col) fun t => t.mask.getLsbD u.val).modRoom u fun x =>
        { x with ce := if x.ce = 0xffff then x.ce else x.ce + 1 })
  | _ => (0x7fc00000,
      (countErr s fun t => t.mask.getLsbD u.val).modRoom u fun x => { x with ue := if x.ue = 0xffff then x.ue else x.ue + 1 })

/-- A read of a row. -/
def accReadRow (s : State) (u : SuiteId) (k : Fin 32) (row : Fin 128) : Vector W32 128 × State :=
  let v := ((s.room u).acc.get k).get row
  (List.finRange 128).foldl (fun (p : Vector W32 128 × State) c =>
    if p.2.pkg.flips.isEmpty then p
    else let (w, s1) := accRead p.2 u k row c; (p.1.set c.val w c.isLt, s1)) (v, s)

/-- Whether column c lies in half h of an accumulator tile (R183). -/
def inHalf (h : Bool) (c : Fin 128) : Bool := decide (64 ≤ c.val) == h

/-- A read of half a tile in the rows named (R183, R184); the rest is as it stands. -/
def accReadHalf (s : State) (u : SuiteId) (k : Fin 32) (h : Bool) (rows : Fin 128 → Bool := fun _ => true) : AccTile × State :=
  (List.finRange 128).foldl (fun (p : AccTile × State) r =>
    (List.finRange 128).foldl (fun (p : AccTile × State) c =>
      if p.2.pkg.flips.isEmpty || !inHalf h c || !rows r then p
      else
        let (w, s1) := accRead p.2 u k r c
        (p.1.set r.val ((p.1.get r).set c.val w c.isLt) r.isLt, s1)) p) ((s.room u).acc.get k, s)

/-- Bank group of a Local Store address (R56). -/
def bankGroup (a : Nat) : Nat := a / 0x200000 % 4

end Sys2Proof.Machine
end

