-- ==== Sys2Proof/Machine/Observe.lean ====
section
/-! DEFINITION. Events and their routing, host messages, trace records, debug stops and watchpoints: spec/01_execution_model.md R41,
spec/15_tenancy_and_service.md R327-R328, spec/16_determinism_and_observation.md R349-R352, spec/22_faults_fabric_and_replicas.md R436. -/

namespace Sys2Proof.Machine

/-- Event kinds of R327. -/
def evLaunch : Nat := 1
def evTrap : Nat := 2
def evCounter : Nat := 3
def evScan : Nat := 4
def evDoorbell : Nat := 5
def evBreak : Nat := 6
def evReset : Nat := 7
def evStopped : Nat := 8
def evThermal : Nat := 9

/-- The 32 bytes of an event record (R327). -/
def eventBytes (e : Event) : List Byte :=
  leBytes 8 e.seq ++ leBytes 1 e.kind ++ leBytes 1 e.tenant ++ leBytes 2 e.source ++ leBytes 4 0 ++ leBytes 16 e.payload.toNat

/-- A message to the host behind its 64-byte header: kind, tenant, payload bytes and tag (R330). A reply carries the kind of the message that it
answers (DESIGN CHOICE, log 6). The host is a Cheyrlink endpoint, so that the flits of the message are sent (R8, R345). -/
def sendHost (s : State) (kind tenant tag : Nat) (bytes : List Byte) : State :=
  countEvents (s.modPkg fun p => { p with out := p.out ++
    [⟨kind, tag, leBytes 64 (kind % 256 + 2 ^ 8 * (tenant % 64) + 2 ^ 16 * (bytes.length % 65536) + 2 ^ 32 * (tag % 65536)) ++ bytes, 0⟩] })
    (.ctx hypervisor) 0x10 (flitsOf (64 + bytes.length))

/-- A message of the host with n payload bytes is received (R345). -/
def hostFlits (s : State) (n : Nat) : State := countEvents s (.ctx hypervisor) 0x11 (flitsOf (64 + n))

/-- The arbiter stamps an event and queues it for a context; with HOSTFWD set the host gets it too (R41, R327, R328). -/
def postEvent (s : State) (target : CtxId) (kind tenant source : Nat) (payload : BitVec 128) : State :=
  let e : Event := ⟨s.pkg.eventSeq, kind, tenant, source, payload, (s.ctx target).hostfwd⟩
  let s1 := (s.modPkg fun p => { p with eventSeq := p.eventSeq + 1 }).modCtx target fun c => { c with events := c.events ++ [e] }
  if (s.ctx target).hostfwd then sendHost s1 5 tenant 0 (eventBytes e) else s1

/-- Once HOSTFWD is set, the events of the context that are still held and that the host has not been sent go to it (R420; DEDUCED, log 73). -/
def forwardHeld (s : State) (c : CtxId) : State :=
  ((s.ctx c).events.foldl (fun s e => if e.sent then s else sendHost s 5 e.tenant 0 (eventBytes e)) s).modCtx c fun x =>
    { x with events := x.events.map fun e => { e with sent := true } }

/-- An event for the host alone (R328): it is stamped like any other. -/
def postHostEvent (s : State) (kind tenant source : Nat) (payload : BitVec 128) : State :=
  sendHost (s.modPkg fun p => { p with eventSeq := p.eventSeq + 1 }) 5 tenant 0 (eventBytes ⟨s.pkg.eventSeq, kind, tenant, source, payload, true⟩)

/-- The context that gets an event of a bank's agents: the tenant's supervisor, or the Steward context itself (R328). -/
def eventTarget (s : State) : BankRef → CtxId
  | .bank u b => supervisor (tenantOf s (.bank u b))
  | .ctx c => c

/-! ### Trace records (R350, R436) -/

/-- The top range label of a stream, or 0. -/
def topLabel (st : Stream) : W16 := st.labels.headD 0

/-- A 32-byte record for a tenant's ring: it waits to be written, and nothing waits for it (R436). -/
def writeRecord (s : State) (t : TenantId) (bytes : List Byte) : State :=
  s.modTenant t fun x => { x with trace := { x.trace with pending := x.trace.pending ++ [bytes] } }

/-- TRPOS after a record: with wrap it returns to 0 at TRLEN (R349). -/
def Trace.advance (x : Trace) : Trace :=
  let n := x.pos.toNat + 1
  { x with pos := if x.ctl.getLsbD 4 && n == x.len.toNat then 0 else BitVec.ofNat 32 n }

/-- A tenant's records are written with the trace tag, oldest first (R351). One whose write would fault is discarded and counted (R436); one whose
write must wait, for its port or for a held segment, keeps the rest. Where TRPOS stands at or above TRLEN nothing is written, with wrap set too, and
no discard is counted (DESIGN CHOICE, log 71). -/
def writePending (t : TenantId) : List (List Byte) → State → State
  | [], s => s.modTenant t fun x => { x with trace := { x.trace with pending := [] } }
  | bytes :: rest, s =>
    let tr := (s.tenant t).trace
    if tr.len.toNat ≤ tr.pos.toNat then writePending t rest s
    else
      match storeVaBy s (.trace t) t t ((tr.base + BitVec.ofNat 64 (32 * tr.pos.toNat)).toNat) bytes 0xffff with
      | (.ok (), s1) => writePending t rest (s1.modTenant t fun x => { x with trace := x.trace.advance })
      | (.wait, s1) => s1.modTenant t fun x => { x with trace := { x.trace with pending := bytes :: rest } }
      | (.fault _, s1) => writePending t rest (s1.modTenant t fun x => { x with trace := { x.trace with drop := satAdd32 x.trace.drop } })

/-- The trace unit's part of a cycle. -/
def traceFlush (s : State) (t : TenantId) : State :=
  if (s.tenant t).trace.pending.isEmpty then s else writePending t (s.tenant t).trace.pending s

/-- Whether a tenant's trace takes records under a label: enabled, the label filter passed (R349). -/
def traceFits (s : State) (t : TenantId) (label : W16) : Bool :=
  let tr := (s.tenant t).trace
  tr.ctl.getLsbD 0 && (!tr.filt.getLsbD 32 || (let m : W16 := tr.filt.extractLsb' 16 16; label &&& m == tr.filt.extractLsb' 0 16 &&& m))

/-- Whether it takes a wait, loop or range record: the kind's bit is set too (R349). -/
def traceOn (s : State) (t : TenantId) (kindBit : Nat) (label : W16) : Bool :=
  traceFits s t label && (s.tenant t).trace.ctl.getLsbD kindBit

/-- The index of the D level of a Visit, or 0 (R25). -/
def stageOf (v : Option Visit) : Nat := match v with | some v => v.stage | none => 0

/-- The layout of R350. -/
def recordBytes (s : State) (r : BankRef) (stage kind agent : Nat) (label : W16) (flag : Nat) (count : Nat) (setter sub : Nat) : List Byte :=
  leBytes 8 s.fabric.toNat ++ leBytes 1 kind ++ leBytes 1 (agent + 128 * r.index) ++ leBytes 2 r.source ++ leBytes 2 label.toNat ++
    leBytes 2 0 ++ leBytes 8 flag ++ leBytes 4 (min count 0xffffffff) ++ leBytes 2 setter ++ leBytes 1 sub ++ leBytes 1 stage

/-- A wait record, where the wait lasted at least WAITTHR cycles (R349). -/
def waitRecord (s : State) (ag : Agent) (flag count setter sub : Nat) : State :=
  let t := tenantOf s ag.bank
  let label := topLabel (s.stream ag)
  if traceOn s t 1 label && decide ((s.tenant t).trace.waitthr.toNat ≤ count) then
    writeRecord s t (recordBytes s ag.bank (stageOf (s.bank ag.bank).visit) 1 ag.kind.code.toNat label flag count setter sub)
  else s

/-- A range record for RPUSH (3) or RPOP (4) (R163, R350). -/
def rangeRecord (s : State) (ag : Agent) (kind : Nat) (label : W16) : State :=
  let t := tenantOf s ag.bank
  if traceOn s t 3 label then writeRecord s t (recordBytes s ag.bank (stageOf (s.bank ag.bank).visit) kind ag.kind.code.toNat label 0 0 0 0) else s

/-- A debug-stop (5) or watchpoint (6) record of a Visit, which no kind bit selects (R349, R352). -/
def debugRecord (s : State) (t : TenantId) (v : Option Visit) (label : W16) (ag : Agent) (kind flag count : Nat) : State :=
  if traceFits s t label then writeRecord s t (recordBytes s ag.bank (stageOf v) kind ag.kind.code.toNat label flag count 0 0) else s

/-- Debug capture of the tenant (R138, R352). -/
def dbgOn (s : State) (t : TenantId) : Bool := (s.tenant t).trace.ctl.getLsbD 5

/-- A set of rooms with every room of each active wing that it names in part (R289). -/
def extendRooms (s : State) (l : List SuiteId) : List SuiteId :=
  let leads := l.map fun u => (s.room u).wingLead
  (List.finRange 64).filter fun v => leads.contains (s.room v).wingLead

/-- Clocks of rooms and of their Suite cores that stop at the end of this cycle (R300). -/
def requestStop (s : State) (l : List SuiteId) (room core : Bool) : State :=
  s.modPkg fun p => { p with stopReq := p.stopReq ++ l.map fun u => (u, room, core) }

/-- A WAITA gives up its monitor and will read again as a first read (R407). -/
def unwatch (e : QEntry) : QEntry :=
  match e.op with
  | .waita d va cmp scope _ expire start => { e with op := .waita d va cmp scope none expire start }
  | _ => e

/-- The beat that an image header shows: DBEAT of the room while a drone computation runs, else NBEAT (R305). -/
def shownBeat (s : State) (u : SuiteId) : Word :=
  let d := (s.room (s.room u).wingLead).drone
  if d.active then d.dbeat else (s.room u).nbeat.setWidth 64

/-- Whether a Suite is bound: a PSEND, PRECV or COLL of it has left the C head, or a Visit of it has arrived at a barrier (R313). -/
def suiteBound (s : State) (u : SuiteId) : Bool :=
  let x := s.suite u
  (x.crun.any fun c => match c.op with | .psend .. | .precv .. | .coll .. => c.status != .complete | _ => false)
    || x.banks.toList.any fun b => match b.sync with | .arrived .. => true | _ => false

/-- A room clock and a core clock stop: the phase and the beat are kept (R305, R310), and a core's waits release their monitors (R407). -/
def stopClocks (s : State) (u : SuiteId) (room core : Bool) : State :=
  let s1 := if room && !(s.room u).stopped then
      s.modRoom u fun x =>
        { x with stopped := true, stopBeat := shownBeat s u, rphase := BitVec.ofNat 3 (s.pkg.rcyc.toList.getD (dieOf u) 0).toNat } else s
  if core && !(s.suite u).stopped then
    (s1.modSuite u fun x => { x with stopped := true, stopBound := suiteBound s u, stopBoth := room && !(s.room u).stopped, stopBeat := shownBeat s u, banks := x.banks.map fun b => { b with lq := b.lq.map unwatch } }).modPkg fun p =>
      { p with monitors := p.monitors.filter fun m => m.2.1 != .bank u 0 && m.2.1 != .bank u 1 }
  else s1

/-- The end of a cycle: the clocks that were asked to stop (R288, R300). -/
def applyStops (s : State) : State :=
  s.pkg.stopReq.foldl (fun s (u, room, core) => stopClocks s u room core) (s.modPkg fun p => { p with stopReq := [] })

/-- A debug stop (R352): the clocks of the Suite and its room stop at the end of the cycle as by an immediate SCNSTOP, DBGARM.en clears, a record and a breakpoint event are posted. -/
def debugStop (s : State) (ag : Agent) (u : SuiteId) (lid n : Nat) : State :=
  let t := tenantOf s ag.bank
  let s1 := s.modSuite u fun x => { x with dbgarm := x.dbgarm &&& ~~~1 }
  let s2 := requestStop s1 (extendRooms s1 [u]) true true
  postEvent (debugRecord s2 t (s.bank ag.bank).visit (topLabel (s.stream ag)) ag 5 lid n) (supervisor t) evBreak t.val u.val 0

/-- What a completed iteration of a hardware loop adds: a loop record (R350) and an armed debug stop (R352). `n` counts iterations since the
LOOP. -/
def loopIteration (s : State) (ag : Agent) (lid n : Nat) : State :=
  let t := tenantOf s ag.bank
  let tr := (s.tenant t).trace
  let label := topLabel (s.stream ag)
  let sel := tr.loops.getLsbD (if ag.kind = .x then 8 + lid else lid)
  let s1 := if sel && traceOn s t 2 label then
      writeRecord s t (recordBytes s ag.bank (stageOf (s.bank ag.bank).visit) 2 ag.kind.code.toNat label lid n 0 0) else s
  match ag.bank with
  | .ctx _ => s1
  | .bank u _ =>
    let arm := (s1.suite u).dbgarm.toNat
    let stage := stageOf (s1.bank ag.bank).visit
    if arm.testBit 0 && dbgOn s1 t && decide (arm.testBit 1 = (ag.kind = .x)) && natBits arm 2 3 == lid && natBits arm 32 32 == n
        && (!arm.testBit 16 || natBits arm 8 8 == stage) then debugStop s1 ag u lid n
    else s1

/-- Whether an access of a Suite touches its watched range (R352). -/
def watchHit (s : State) (t : TenantId) (u : SuiteId) (store : Bool) (lo n : Nat) : Bool :=
  let x := s.suite u
  dbgOn s t && x.wpctl.getLsbD (if store then 1 else 0) && decide (lo < x.wpaddr.toNat + 2 ^ natBits x.wpctl.toNat 8 6)
    && decide (x.wpaddr.toNat < lo + n)

/-- A watchpoint (R352): an access of a Visit on a Suite that touches the watched range posts a record and a breakpoint event. -/
def watchAs (s : State) (t : TenantId) (v : Option Visit) (label : W16) (u : SuiteId) (ag : Agent) (store : Bool) (lo n : Nat) : State :=
  if watchHit s t u store lo n then postEvent (debugRecord s t v label ag 6 lo 0) (supervisor t) evBreak t.val u.val 0 else s

/-- The watchpoint of a bank's access. -/
def watchAccess (s : State) (ag : Agent) (store : Bool) (lo n : Nat) : State :=
  match ag.bank with
  | .ctx _ => s
  | .bank u _ => watchAs s (tenantOf s ag.bank) (s.bank ag.bank).visit (topLabel (s.stream ag)) u ag store lo n

end Sys2Proof.Machine
end

