-- ==== Sys2Proof/Machine/Ops.lean ====
section
/-! DEFINITION. Code images and fetch, taking a trap (holding a bank, or the trap frame of a Steward stream) and the return from one:
spec/01_execution_model.md R15-R18, spec/05_encoding.md R119, spec/17_faults_execution.md R353-R360. -/

namespace Sys2Proof.Machine

/-! ### Cause codes (R353) -/

def cILLOP : BitVec 8 := 0x01
def cILLFLD : BitVec 8 := 0x02
def cILLREG : BitVec 8 := 0x03
def cPRIV : BitVec 8 := 0x04
def cLINKERR : BitVec 8 := 0x05
def cSWTRAP : BitVec 8 := 0x06
def cATOMEMU : BitVec 8 := 0x28
def cBANKCF : BitVec 8 := 0x40
def cSCHEDV : BitVec 8 := 0x41
def cWINGV : BitVec 8 := 0x42
def cMISSDL : BitVec 8 := 0x43
def cFMTINV : BitVec 8 := 0x44
def cDEMERR : BitVec 8 := 0x45
def cCPYOVF : BitVec 8 := 0x48
def cBUSYOVF : BitVec 8 := 0x49
def cPASSERR : BitVec 8 := 0x4a
def cCOLLERR : BitVec 8 := 0x4b
def cFEDEAD : BitVec 8 := 0x60
def cTOKOVF : BitVec 8 := 0x61
def cORDSEQ : BitVec 8 := 0x62
def cSCNVER : BitVec 8 := 0x71
def cSCNCRC : BitVec 8 := 0x72
def cLINKDOWN : BitVec 8 := 0x80
def cDIGEST : BitVec 8 := 0x90
def cREPLAYDIV : BitVec 8 := 0x91
def cLOGFULL : BitVec 8 := 0x92

/-- A trap record as 128 bits (R354). -/
def trapBits (t : Trap) : BitVec 128 :=
  t.tval ++ (0 : BitVec 20) ++ t.ret ++ t.cls ++ (0 : BitVec 2) ++ t.bank ++ t.agent ++ t.cause

/-! ### Lines (R15-R17) -/

/-- The link word of a line and its parts. -/
def Image.link (im : Image) (line : Nat) : W32 := (im.lines.getD line []).headD 0
def Image.count (im : Image) (line : Nat) : Nat := (fld (im.link line) 24 4).toNat
def Image.last (im : Image) (line : Nat) : Bool := (im.link line).getLsbD 28
def Image.inter (im : Image) (line : Nat) : Bool := (im.link line).getLsbD 29
def Image.owner (im : Image) (line : Nat) : Nat := (fld (im.link line) 30 2).toNat
def Image.next (im : Image) (line : Nat) : Nat := (fld (im.link line) 0 24).toNat
def Image.slot (im : Image) (line slot : Nat) : W32 := (im.lines.getD line []).getD (slot + 1) 0

/-- The owner value of a stream's lines (R15). -/
def ownerOf : StreamKind → Nat
  | .a => 0 | .x => 1 | .drain => 2 | .chanter => 3
/-- The map that decodes a stream's lines (R16). -/
def mapOf : StreamKind → Map
  | .a | .chanter => .a
  | .x => .x
  | .drain => .drain

/-- The image from which a bank or context fetches (R19). -/
def imageOf (s : State) (r : BankRef) : Option Image :=
  match r with
  | .bank .. => match (s.bank r).visit with
    | some v => s.pkg.images[v.image]?
    | none => none
  | .ctx c => if (s.ctx c).hasImage then s.pkg.images[(s.ctx c).image]? else none

/-- The image of an agent: a drain row runs the program of its own nest's image. -/
def agentImage (s : State) (ag : Agent) : Option Image :=
  match ag.kind, (s.room ag.suite).drain with
  | .drain, some x => s.pkg.images[x.image]?
  | _, _ => imageOf s ag.bank

/-- The code position of an agent: line x 16 + slot (R132). -/
def posOf (s : State) (ag : Agent) : Nat :=
  match ag.kind with
  | .chanter => (s.suite ag.suite).chanter.pos
  | .drain => (s.room ag.suite).drainPos
  | _ => (s.stream ag).pos

def setPos (s : State) (ag : Agent) (p : Nat) : State :=
  match ag.kind with
  | .chanter => s.modSuite ag.suite fun x => { x with chanter := { x.chanter with pos := p } }
  | .drain => s.modRoom ag.suite fun x => { x with drainPos := p }
  | _ => s.modStream ag fun x => { x with pos := p }

/-- The position after the last word of an instruction of `words` words (R17, R132). A line that cannot be left by its link word is left at
the position just after its last valid slot, where the fetch faults (R357). -/
def nextPos (im : Image) (pos words : Nat) : Nat :=
  let line := pos / 16
  let slot := pos % 16 + words
  if slot ≤ im.count line then line * 16 + slot
  else if im.last line || im.count line = 0 || decide (im.nlines ≤ im.next line) then line * 16 + slot
  else im.next line * 16

/-- What a stream finds at its position. -/
inductive Fetched where
  | word (m : Map) (w x : W32)
  | linkErr (line : Nat)
  | nothing
  deriving DecidableEq, Repr

/-- Fetch with the link-word checks of R119 step 1 and R357. -/
def fetchAt (im : Image) (k : StreamKind) (pos : Nat) : Fetched :=
  let line := pos / 16
  let slot := pos % 16
  if im.nlines ≤ line then .linkErr line
  else if im.count line = 15 then .linkErr line
  else if im.owner line ≠ ownerOf k then .linkErr line
  else if im.count line < slot then .linkErr line
  else
    let w := im.slot line slot
    if twoSlot (mapOf k) w then
      if im.count line < slot + 1 then .linkErr line else .word (mapOf k) w (im.slot line (slot + 1))
    else .word (mapOf k) w 0

def fetch (s : State) (ag : Agent) : Fetched :=
  match agentImage s ag with
  | none => .nothing
  | some im => fetchAt im ag.kind (posOf s ag)

/-- Whether a transfer of control may not land on a position (R119, R127); slot 15 lies above every count (R366). The failing line is the trap value. -/
def targetBad (s : State) (ag : Agent) (p : Nat) : Bool :=
  match agentImage s ag with
  | none => true
  | some im => decide (im.nlines ≤ p / 16) || p % 16 == 15 || decide (im.count (p / 16) < p % 16) || im.owner (p / 16) != ownerOf ag.kind

/-! ### Taking a trap -/

/-- Stops a Steward context and reports it: kind 2, then kind 8, both to the receiver of its kind-8 events (R328, R356). -/
def stopContext (s : State) (c : CtxId) (rec : Option Trap) : State :=
  let s1 := s.modCtx c fun x =>
    { x with running := false, held := [], regs := { x.regs with sa := { x.regs.sa with running := false }, sx := { x.regs.sx with running := false } } }
  let src := 256 + c.val
  let t := (ctxTenant s c).val
  let post := fun (s : State) (kind : Nat) (p : BitVec 128) =>
    if c.val = 127 then postHostEvent s kind t src p
    else if 64 ≤ c.val then postEvent s (supervisor (s.ctx c).helperTenant) kind t src p
    else postEvent s hypervisor kind t src p
  match rec with
  | some r => post (post s1 evTrap (trapBits r)) evStopped 0
  | none => post s1 evStopped 0

/-- The cause block that selects a handler (R356). -/
def causeBlock (c : BitVec 8) : Nat :=
  let n := c.toNat
  if n < 0x20 then 0 else if n < 0x40 then 1 else if n < 0x60 then 2 else if n < 0x70 then 3 else if n < 0x80 then 4 else if n < 0x90 then 5 else 6

/-- The 64 bytes of a trap frame (R356). -/
def frameBytes (s : State) (c : CtxId) (t : Trap) : List Byte :=
  let a := (s.ctx c).regs.a
  leBytes 16 (trapBits t).toNat ++ leBytes 8 s.fabric.toNat ++ leBytes 8 a[29].toNat ++ leBytes 8 a[30].toNat ++ leBytes 8 a[31].toNat ++
    List.replicate 16 0

/-- A Steward stream takes its own trap (R356): the frame is written, the depth grows and the stream goes on at its handler; without a
handler, at depth 4, or where a store of the frame faults, the context stops. Where the segment of the frame is held (R247), a precise trap is
detected again, and an external one stays with the context, whose A-stream issues nothing before it. -/
def stewardTrap (s : State) (c : CtxId) (k : StreamKind) (t : Trap) : State :=
  let ag : Agent := ⟨.ctx c, k⟩
  let st := s.stream ag
  let h := st.hndl.toList.getD (causeBlock t.cause) 0
  if h = 0 ∨ 4 ≤ st.tfdepth.toNat then stopContext s c (some t)
  else
    match storeVa s (ctxTenant s c) (st.tfbase.toNat + 64 * st.tfdepth.toNat) (frameBytes s c t) (256 + c.val) with
    | (.ok (), s1) => s1.modStream ag fun x => { x with tfdepth := x.tfdepth + 1, pos := h.toNat }
    | (.wait, s1) => if t.cls = 3 then s1.modCtx c fun x => { x with held := x.held ++ [t] } else s1
    | (.fault _, s1) => stopContext s1 c (some t)

/-- The oldest trap that waits for its frame is tried again; its return position is where the stream now stands (R412). -/
def retryTrap (s : State) (c : CtxId) : State :=
  match (s.ctx c).held with
  | [] => s
  | t :: rest =>
    let s1 := stewardTrap (s.modCtx c fun x => { x with held := [] }) c .a { t with ret := BitVec.ofNat 28 (s.ctx c).regs.sa.pos }
    if (s1.ctx c).running then s1.modCtx c fun x => { x with held := x.held ++ rest } else s1

/-- The return from a Steward trap (R161, R356): a29-a31 and the position come back from the top frame as it reads now. A frame that cannot
be read stops the context with a record whose return position is `ret`. -/
def stewardReturn (s : State) (c : CtxId) (k : StreamKind) (ret : Nat) : State :=
  let ag : Agent := ⟨.ctx c, k⟩
  let st := s.stream ag
  let base := st.tfbase.toNat + 64 * (st.tfdepth.toNat - 1)
  match loadVa s (ctxTenant s c) base 64 with
  | (.ok b, s1) =>
    let s2 := s1.modBank (.ctx c) fun x =>
      { x with a := ((x.a.set 29 (BitVec.ofNat 64 (fieldAt b 0x18 8))).set 30 (BitVec.ofNat 64 (fieldAt b 0x20 8))).set 31
                 (BitVec.ofNat 64 (fieldAt b 0x28 8)) }
    s2.modStream ag fun x => { x with tfdepth := x.tfdepth - 1, pos := natBits (fieldAt b 0 8) 16 28 }
  | (.wait, s1) => s1
  | (.fault cause, s1) => stopContext s1 c (some ⟨cause, 0, k.code, 0, BitVec.ofNat 28 ret, BitVec.ofNat 64 base⟩)

/-- Holds a bank with a trap record and posts the kind-2 event to the supervisor (R354, R355). -/
def holdBank (s : State) (r : BankRef) (t : Trap) : State :=
  let s1 := s.modBank r fun b => { b with traps := b.traps ++ [t], trapAt := some s.cycle }
  postEvent s1 (supervisor (tenantOf s r)) evTrap (tenantOf s r).val r.source (trapBits t)

/-- A bank that detects no further traps: it is held, and not by a trap of this very cycle (R355). -/
def heldBefore (s : State) (r : BankRef) : Bool :=
  let b := s.bank r
  !b.traps.isEmpty && b.trapAt != some s.cycle

/-- A precise trap of a stream (R353-R356). `ret` is the return position, `tval` the trap value. ATOMEMU of a helper context goes to its
supervisor and holds the helper as a Suite stream is held. -/
def takeTrap (s : State) (ag : Agent) (cause : BitVec 8) (tval : Word) (ret : Nat) : State :=
  let t : Trap := ⟨cause, 0, ag.kind.code, BitVec.ofNat 1 ag.bank.index, BitVec.ofNat 28 ret, tval⟩
  match ag.bank with
  | .ctx c =>
    if cause = cATOMEMU ∧ 64 ≤ c.val ∧ c.val ≠ 127 then holdBank s ag.bank t else stewardTrap s c ag.kind t
  | .bank u _ =>
    if heldBefore s ag.bank then s
    else
      let s1 := holdBank s ag.bank t
      if ag.kind = .chanter then s1.modSuite u fun x => { x with chanter := { x.chanter with trapped := true } } else s1

/-- The agent code of an M or C command (R354). -/
def engineAgent (e : Engine) : BitVec 3 := if e = .m then 3 else 4

/-- A pending trap takes its place: by the cycle of its detection, and within one cycle by agent code (R365). -/
def insertLater (x : Nat × Trap) : List (Nat × Trap) → List (Nat × Trap)
  | [] => [x]
  | y :: l => if x.1 = y.1 ∧ x.2.agent < y.2.agent then x :: y :: l else y :: insertLater x l

/-- An engine-class trap of a command of a bank: recorded at once, or kept pending while the bank is held (R355, R365). -/
def engineTrap (s : State) (u : SuiteId) (b : Fin 2) (e : Engine) (cause : BitVec 8) (qpos ret : Nat) : State :=
  let t : Trap := ⟨cause, 2, engineAgent e, BitVec.ofNat 1 b.val, BitVec.ofNat 28 ret, BitVec.ofNat 64 qpos⟩
  let r : BankRef := .bank u b
  if heldBefore s r then s.modBank r fun x => { x with trapsLater := insertLater (s.cycle, t) x.trapsLater } else holdBank s r t

/-- A queue-class trap of an LQ or SQ entry (R360). -/
def queueTrap (s : State) (r : BankRef) (cause : BitVec 8) (tval : Word) (ret : Nat) : State :=
  holdBank s r ⟨cause, 1, 0, BitVec.ofNat 1 r.index, BitVec.ofNat 28 ret, tval⟩

/-- A trap of class external, for a context (R353): it is a kind-2 event and holds nothing. -/
def externalTrap (s : State) (target : CtxId) (cause : BitVec 8) (tenant source : Nat) (tval : Word) : State :=
  postEvent s target evTrap tenant source (trapBits ⟨cause, 3, 0, 0, 0, tval⟩)

end Sys2Proof.Machine
end

