-- ==== Sys2Proof/Machine/Operands.lean ====
section
/-! DEFINITION. Which registers an instruction names, who may issue it, and the checks of stage 1: spec/05_encoding.md R119-R122,
spec/06_access_instructions.md R126, spec/18_instruction_exceptions.md R364-R373, spec/15_tenancy_and_service.md R321, R331. -/

namespace Sys2Proof

/-- The address registers that an instruction reads or writes, for the scoreboard (R122). -/
def Instr.aRegs : Instr → List (BitVec 5)
  | .add d a b _ | .sub d a b _ | .mul d a b _ | .mulh d a b _ | .and d a b _ | .or d a b _ | .xor d a b _ | .shl d a b _ | .shr d a b _
  | .sra d a b _ | .min d a b _ | .max d a b _ | .minu d a b _ | .maxu d a b _ | .slt d a b _ | .sltu d a b _ | .sel d a b _ => [d, a, b]
  | .div d a b _ _ | .divu d a b _ _ | .rem d a b _ _ | .remu d a b _ _ => [d, a, b]
  | .clz d a _ | .popc d a _ => [d, a]
  | .addi d a _ _ | .andi d a _ _ | .ori d a _ _ | .xori d a _ _ | .shli d a _ _ | .shri d a _ _ | .srai d a _ _ | .slti d a _ _ => [d, a]
  | .lui d _ _ | .lix d _ _ => [d]
  | .br _ a b _ _ => [a, b]
  | .call _ _ | .ret _ => [31]
  | .loop _ a _ _ | .cqp a _ => [a]
  | .ld d a _ _ _ _ _ _ | .st d a _ _ _ _ _ | .ldl d a _ _ _ | .stl d a _ _ => [d, a]
  | .ldt _ a _ _ _ | .stt _ a _ _ _ | .pft a _ _ => [a]
  | .waita d a b _ _ _ | .amem d a b _ _ _ => [d, a, b]
  | .aat d a b _ c _ _ _ _ => [d, a, b, c]
  | .crd d a _ _ | .cwr d a _ _ | .cmw d a _ _ | .cxc d a _ _ => [d, a]
  | .eret _ => [29, 30, 31]
  | .tinv a b _ _ | .frel a b _ _ => [a, b]
  | .ssync d _ _ => [d]
  | .mnest a b _ _ _ | .mfmt a b _ _ _ | .mdrn a b _ _ _ | .dstart a b _ _ _ | .dfeed a b _ _ _ | .cpy a b _ _ _ _ | .psend a b _ _ _
  | .precv a b _ _ _ | .coll a b _ _ _ => [a, b]
  | .mwing a _ _ _ | .dlook a _ _ _ | .ddrn a _ _ _ | .collw a _ _ => [a]
  | .scnstop d a b _ _ | .scnrun d a b _ _ | .scnq d a b _ _ => [d, a, b]
  | .scnout d a _ _ | .scnin d a _ _ => [d, a]
  | _ => []

/-- The scalar registers that an instruction reads or writes. -/
def Instr.eRegs : Instr → List (BitVec 4)
  | .eadd d a b _ _ | .esub d a b _ _ | .emul d a b _ => [d, a, b]
  | .emov d a _ => [d, a]
  | .eli d _ _ | .erd d _ _ | .ewr d _ _ | .cqr d _ => [d]
  | .cqb _ a b _ _ | .xbr _ a b _ _ => [a, b]
  | .xloop _ a _ _ => [a]
  | .mpop d _ _ => [d.setWidth 4]
  | _ => []

/-- The tile registers that an instruction names. -/
def Instr.tileRegs : Instr → List (BitVec 6)
  | .ldt t _ _ _ _ | .stt t _ _ _ _ => [t]
  | .vadd d a b _ _ | .vsub d a b _ _ | .vmul d a b _ _ | .vfma d a b _ _ | .vfms d a b _ _ | .vmin d a b _ _ | .vmax d a b _ _ => [d, a, b]
  | .vand d a b _ | .vor d a b _ | .vxor d a b _ => [d, a, b]
  | .vshl d a b _ _ | .vshr d a b _ _ | .vsra d a b _ _ | .vqdec d a b _ _ | .vqenc d a b _ _ | .vscl d a b _ _ | .vshf d a b _ _ => [d, a, b]
  | .vabs d a _ _ | .vneg d a _ _ | .vexp2 d a _ _ | .vlog2 d a _ _ | .vrcp d a _ _ | .vrsq d a _ _ | .vsqrt d a _ _ | .vsigm d a _ _
  | .vtanh d a _ _ | .vbcr d a _ _ | .vbcc d a _ _ | .vbcs d a _ _ | .vtrn d a _ _ => [d, a]
  | .vnot d a _ | .vmov d a _ => [d, a]
  | .vcmp _ _ a b _ _ => [a, b]
  | .vsel d a _ _ _ => [d, a]
  | .vcvt d a _ _ _ _ _ => [d, a]
  | .vred d a _ _ _ _ _ | .vscan d a _ _ _ _ _ => [d, a]
  | .vzero d _ => [d]
  | .vacc t _ _ _ => [t]
  | .vacw t _ _ _ _ => [t]
  | _ => []

/-- The masks that an instruction names. -/
def Instr.maskRegs : Instr → List (BitVec 3)
  | .vcmp m _ _ _ _ _ => [m]
  | .vsel _ _ m _ _ => [m]
  | .mand d a b _ | .mor d a b _ | .mxor d a b _ => [d, a, b]
  | .mnot d a _ => [d, a]
  | .mpop _ a _ => [a]
  | _ => []

/-- The accumulator tiles that an instruction names in a field. -/
def Instr.accRegs : Instr → List (BitVec 5)
  | .vacc _ k _ _ => [k]
  | .vacw _ k _ _ _ => [k]
  | _ => []

/-- The A-map integer and immediate forms 0x00-0x1f. -/
def Instr.isInteger : Instr → Bool
  | .add .. | .sub .. | .mul .. | .mulh .. | .div .. | .divu .. | .rem .. | .remu .. | .and .. | .or .. | .xor .. | .shl .. | .shr .. | .sra ..
  | .min .. | .max .. | .minu .. | .maxu .. | .slt .. | .sltu .. | .sel .. | .clz .. | .popc .. | .addi .. | .andi .. | .ori .. | .xori ..
  | .shli .. | .shri .. | .srai .. | .slti .. | .lui .. | .lix .. => true
  | _ => false

/-- What a chanter line admits (R126, R227). -/
def Instr.chanterOk (i : Instr) : Bool :=
  i.isInteger ||
  match i with
  | .br .. | .jmp .. | .nopA .. | .hint .. | .ldl .. | .stl .. | .crd .. | .dfeed .. | .ddrn .. | .dend .. | .dret .. => true
  | _ => false

/-- What a Steward context may not issue (R321). -/
def Instr.stewardBad : Instr → Bool
  | .ldl .. | .stl .. | .ldt .. | .stt .. | .pft .. | .aat .. | .ssync .. | .toksA .. | .tokwA .. => true
  | .mnest .. | .mfmt .. | .mgo .. | .mwing .. | .mdrn .. | .dstart .. | .dlook .. | .dfeed .. | .ddrn .. | .dend .. | .dret .. => true
  | .cpy .. | .cpyq .. | .psend .. | .precv .. | .coll .. => true
  | .eadd .. | .esub .. | .emul .. | .emov .. | .cqr .. | .eli .. | .cqb .. | .xloop .. | .xbr .. | .nopX .. | .xend .. => false
  | i => i.map == some .x

/-- The latency class of an instruction that puts a fixed-latency result in flight (R120, R123). -/
def Instr.resultClass (i : Instr) : Option Nat :=
  match i with
  | .mul .. | .mulh .. => some 1
  | .div .. | .divu .. | .rem .. | .remu .. => none
  | .call .. | .eadd .. | .esub .. | .emul .. | .emov .. | .eli .. => some 0
  | .ldl .. | .cqr .. => some 3
  | .cqb .. => some 0
  | .crd .. | .cwr .. | .cmw .. | .cxc .. => some 11
  | .vexp2 .. | .vlog2 .. | .vrcp .. | .vrsq .. | .vsqrt .. | .vsigm .. | .vtanh .. => some 6
  | .vacc .. => some 7
  | .vcvt .. | .vqdec .. | .vqenc .. => some 8
  | .vred .. | .vscan .. => some 9
  | .erd .. | .ewr .. | .vacw .. | .vcmp .. | .mpop .. => some 5
  | .ldt .. | .stt .. => none
  | i => if i.isInteger then some 0 else if i.tileRegs.isEmpty && i.maskRegs.isEmpty then none else some 5

/-- The instructions of drone mode and of CB4, which need features 0 and 1 (R331). -/
def Instr.feature : Instr → Option Nat
  | .dstart .. | .dlook .. | .dfeed .. | .ddrn .. | .dend .. | .dret .. => some 0
  | .vqdec .. | .vqenc .. => some 1
  | _ => none

/-- The privileged instructions (R116). -/
def Instr.privileged : Instr → Bool
  | .eret .. | .tinv .. | .frel .. | .scnstop .. | .scnrun .. | .scnout .. | .scnin .. | .scnq .. => true
  | _ => false

/-- The destination that a chanter line checks (R44, R367). -/
def Instr.chanterDest (i : Instr) : Option (BitVec 5) :=
  if i.isInteger then i.aRegs.head?
  else
    match i with
    | .ldl d .. | .crd d .. => some d
    | _ => none

namespace Machine

/-- An opcode that the issuing agent may not use (R364 stage 1). -/
def agentRefuses (s : State) (ag : Agent) (i : Instr) : Bool :=
  (ag.kind == .chanter && !i.chanterOk)
  || (match i with
      | .dret .. => ag.kind != .chanter
      | .dfeed .. | .ddrn .. => ag.kind == .a
      | _ => false)
  || (ag.bank.isCtx && i.stewardBad)
  || (match i.feature with
      | some f => !featOn s f
      | none => false)

/-- A register number that ILLREG refuses (R119 step 4). -/
def regRefused (s : State) (ag : Agent) (i : Instr) : Bool :=
  let dual := dualOf s ag.bank
  i.tileRegs.any (fun t => decide ((if dual then 24 else 48) ≤ t.toNat))
  || (dual && (i.accRegs.any (fun k => decide (16 ≤ k.toNat)) || i.maskRegs.any (fun m => decide (4 ≤ m.toNat))))
  || (ag.kind == .chanter && (match i.chanterDest with | some d => decide (d.toNat < 24) | none => false))

/-- Stage 1 after the fetch: ILLOP, ILLFLD, ILLREG, PRIV, in that order (R119, R364). Hint words pass every check. -/
def stage1 (s : State) (ag : Agent) (i : Instr) : Option (BitVec 8) :=
  match i with
  | .hint _ => none
  | _ =>
    if agentRefuses s ag i then some cILLOP
    else if !i.fieldsOk then some cILLFLD
    else if regRefused s ag i then some cILLREG
    else if i.privileged && !ag.bank.isCtx then some cPRIV
    else none

/-- An opcode whose instructions the issuing agent may not use, whatever the other fields of the word hold (R119, R364). -/
def opcodeRefused (s : State) (ag : Agent) (m : Map) (w : W32) : Bool :=
  [w &&& 0xfe000000#32, w &&& 0xfe000000#32 ||| 0x400#32].any fun v => match decode m v 0 with | .ok i => agentRefuses s ag i | .error _ => false

/-- The CSRs that an instruction reads or writes by its meaning, and the CSR of a CSR access (R122): address translation reads the segment table's
registers and HVACT, a Local Store access LSSPLIT, WAITA its timeout, ERET the frame's place, an ordered AAT ACCSEQ; RPUSH and RPOP write RLSTAT. -/
def csrRegs (s : State) (ag : Agent) (i : Instr) : List Nat :=
  let va := [0x400, 0x401, 0x407]
  match i with
  | .crd _ a csr _ | .cwr _ a csr _ => [(readA s ag a).toNat + csr.toNat]
  | .cmw _ _ csr _ | .cxc _ _ csr _ | .erd _ csr _ | .ewr _ csr _ => [csr.toNat]
  | .rpush .. | .rpop .. => [0x031]
  | .ld .. | .st .. | .tinv .. | .frel .. | .scnstop .. | .scnrun .. | .scnout .. | .scnin .. | .scnq .. => va
  | .ldt .. | .stt .. | .pft .. | .ldl .. | .stl .. | .cpy .. | .mnest .. | .mfmt .. | .psend .. | .precv .. | .coll .. => 0x100 :: va
  | .waita .. => 0x030 :: va
  | .eret .. => [0x048, 0x049]
  | .aat .. => [0x102]
  | _ => []

/-- The registers of an instruction as the scoreboard of its stream sees them (R122); a write to a0 is none. -/
def regsOf (s : State) (ag : Agent) (i : Instr) : List Reg :=
  let a := i.aRegs.filterMap fun n =>
    if ag.kind = .chanter then (if 24 ≤ n.toNat then some (Reg.c (n.toNat % 8)) else none)
    else if n = 0 then none else some (Reg.a n.toNat)
  a ++ i.eRegs.map (fun n => Reg.e n.toNat) ++ i.tileRegs.map (fun t => Reg.t (physTile s ag.bank t).val)
    ++ i.maskRegs.map (fun m => Reg.m (physMask s ag.bank m).val) ++ (csrRegs s ag i).map Reg.csr

/-- The registers that a result will write. -/
def resultRegs (k : StreamKind) : Result → List Reg
  | .a r _ => if k = .chanter then [.c (r.toNat % 8)] else [.a r.toNat]
  | .c r _ => [.c r.val]
  | .e r _ => [.e r.toNat]
  | .tile t _ _ => [.t t.val]
  | .consume _ => []
  | .mask m _ => [.m m.val]
  | .csr num op => .csr num.toNat :: (match op with | .exchange _ d => [Reg.a d.toNat] | _ => [])
  | .acc .. => []
  | .accRead .. => []
  | .sem _ => []

/-- The CSRs whose values a write of one changes, itself among them: a selector moves what its window reads, LSUBMIT writes LSTAT, FEATACC shows in
FEATON, and HVACT changes for whom every address is translated (R316, R323, R325, R331, R348, R355). -/
def csrTargets (num : Nat) : List Nat :=
  num :: (match num with
    | 0x404 => [0x405]
    | 0x407 => [0x003, 0x120, 0x121, 0x400, 0x401, 0x500, 0x501] ++ (List.range 8).map (0x320 + ·) ++ (List.range 0x30).map (0x600 + ·)
    | 0x40e => [0xf12]
    | 0x40f => [0xf13]
    | 0x410 => [0x411, 0x412, 0x413, 0x414]
    | 0x413 => [0x411, 0x412]
    | 0x419 => [0x418]
    | 0x450 => [0x451, 0x452, 0x453]
    | 0x500 => [0x501]
    | 0x510 => [0x511]
    | 0x604 => [0x602, 0x605]
    | _ => [])

/-- The registers that queue entries of the A-stream will write. -/
def queueRegs (e : QEntry) : List Reg :=
  match e.op with
  | .ld d .. => [.a d.toNat]
  | .waita d .. => [.a d.toNat]
  | .ldt t .. => [.t t.val]
  | _ => []

/-- Whether a result in flight may still record flags in XFLG (R79, R184). -/
def Flight.recordsFlags (f : Flight) : Bool :=
  f.kind == .x && (f.flags != 0 || f.res.any fun x => match x with | .acc _ _ add _ _ _ => add | _ => false)

/-- Every register that an earlier instruction of the stream has still to write (R122), XFLG for its flags among them. -/
def pendingRegs (s : State) (ag : Agent) : List Reg :=
  let b := s.bank ag.bank
  let fly := (b.fly.filter fun f => f.kind == ag.kind).flatMap fun f => f.res.flatMap fun x => match x with
    | .csr num _ => resultRegs f.kind x ++ (csrTargets num.toNat).map Reg.csr
    | _ => resultRegs f.kind x
  let flags := if (b.fly.any fun f => f.kind == ag.kind && f.recordsFlags) then [Reg.csr 0x009] else []
  let divs := (b.divs.filter fun d => d.kind == ag.kind).flatMap fun d => resultRegs d.kind (.a d.d 0)
  let rest :=
    if ag.kind = .a then
      b.lq.flatMap queueRegs ++ b.replay.flatMap queueRegs
      ++ (match b.sync with | .waiting d _ _ _ => [Reg.a d.toNat] | .arrived d _ _ _ => [Reg.a d.toNat] | .none => [])
      ++ (match ag.bank with
          | .bank u x => (s.room u).atomics.filterMap fun a => if a.bank = x ∧ !a.discard then some (Reg.a a.d.toNat) else none
          | .ctx c => (s.ctx c).scans.map fun q => Reg.a q.d.toNat)
    else []
  fly ++ flags ++ divs ++ rest

end Machine
end Sys2Proof
end

