-- ==== Sys2Proof/Machine/Csr.lean ====
section
/-! DEFINITION. The control and status registers: which numbers exist for whom, what a read gives, which writes trap, and the writes that only
set fields. spec/02_state_and_addressing.md R52-R54, spec/18_instruction_exceptions.md R371-R372 and the tables of each register's own rule. -/

namespace Sys2Proof.Machine

/-- The drone registers of a Suite's wing are kept at its lead room (R228). -/
def droneOf (s : State) (u : SuiteId) : Drone := (s.room (s.room u).wingLead).drone
def chanterBusy (s : State) (u : SuiteId) : Bool := (s.suite (s.room u).wingLead).chanter.busy

/-- DSTAT of a drone's registers and its chanter (R228). -/
def statOf (d : Drone) (busy : Bool) : Word :=
  let bit := fun (b : Bool) (n : Nat) => if b then (2 : Nat) ^ n else 0
  BitVec.ofNat 64 (bit d.active 0 + bit d.fixed 1 + bit d.held 2 + 256 * min d.feedOpen.length 64 + bit d.drainOpen.isSome 16
    + 2 ^ 17 * min d.queue.length 127 + bit busy 24)
def dstat (s : State) (u : SuiteId) : Word := statOf (droneOf s u) (chanterBusy s u)

/-- A Suite's place in its active wing: shape code, row and column (R54 WINGPOS, R212); a Steward context has none. -/
def wingpos (s : State) (ag : Agent) : Word :=
  match ag.bank with
  | .bank u _ =>
    let r := s.room u
    BitVec.ofNat 64 (256 * r.wingShape.val + 4 * (roomRow u - roomRow r.wingLead) + (roomCol u - roomCol r.wingLead))
  | .ctx _ => 0

/-- Whether a tenant owns a room (R293). -/
def owns (s : State) (t : TenantId) (u : SuiteId) : Bool := (s.tenant t).mask.getLsbD u.val

/-- The bank that VSEL names (R355): a helper context, or a bank of a room. -/
def vselRef (v : Word) : BankRef :=
  if v.getLsbD 7 then .ctx ⟨v.toNat % 128, by omega⟩
  else .bank ⟨v.toNat % 64, by omega⟩ (if v.getLsbD 8 then 1 else 0)

/-- Whether the acting tenant may reach the selection of VSEL: a room it owns, or a helper context of its own (R355). -/
def vselOwned (s : State) (c : CtxId) : Bool :=
  match vselRef (s.ctx c).vsel with
  | .bank u _ => owns s (ctxTenant s c) u
  | .ctx h => decide (64 ≤ h.val) && decide (h.val < 127) && (s.ctx h).helperTenant == ctxTenant s c

/-- The trap record that a bank shows (R355): that of its first unanswered trap. -/
def shownTrap (s : State) (r : BankRef) : BitVec 128 := match (s.bank r).traps with | t :: _ => trapBits t | [] => 0

/-- The lock of a virtual address (R404). -/
def lockOf (va : Nat) : Nat := natBits va 3 12 ^^^ natBits va 15 12 ^^^ natBits va 27 12 ^^^ natBits va 39 12

/-- A passage register by its CSR number (R267). -/
def passageOf (num : Nat) : Fin 5 × Fin 8 := (⟨(num - 0x420) / 8 % 5, by omega⟩, ⟨(num - 0x420) % 8, by omega⟩)

/-- The collective semaphores in one register (R276). -/
def csBytes (t : Tenant) (lo : Nat) : Word :=
  BitVec.ofNat 64 (leNat ((List.range 8).map fun i =>
    BitVec.ofNat 8 ((t.cs.toList.getD (lo + i) 0).toNat + (if t.csSat.getLsbD (lo + i) then 64 else 0))))

/-- ROOMFLT (R378). -/
def roomflt (r : Room) : Word :=
  let h := r.halt
  BitVec.ofNat 64 (2 ^ 48 * r.ue.toNat + 2 ^ 32 * r.ce.toNat + 2 ^ 24 * h.row.toNat + 2 ^ 16 * h.cause.toNat + 2 ^ 11 * h.tile.toNat
    + 2 ^ 7 * h.ftidx.toNat + (if h.halted then 2 else 0))

/-- Rooms that are damaged, as the bits of SCNDMG (R413). -/
def damagedMask (s : State) : Word :=
  (List.finRange 64).foldl (fun (m : Word) u => if !(s.room u).damaged.isEmpty then m ||| (1 <<< u.val) else m) 0

/-- A read of a stream-local number (R52-R54, R123, R152, R163, R356); none where the number is not assigned. -/
def readLocal (s : State) (ag : Agent) (num : Nat) : Option Word :=
  let b := s.bank ag.bank
  let st := b.stream ag.kind
  if num = 0x000 then some (match b.visit with | some v => v.viter | none => 0)
  else if num = 0x001 then some (wingpos s ag)
  else if num = 0x002 then some (BitVec.ofNat 64 ag.bank.index)
  else if num = 0x003 then some (BitVec.ofNat 64 (tenantOf s ag.bank).val)
  else if num = 0x004 then some (match b.visit with | some v => if v.forced then 1 else 0 | none => 0)
  else if num = 0x008 then some (st.frm.setWidth 64)
  else if num = 0x009 then some (st.xflg.setWidth 64)
  else if num = 0x00a then some (st.semsat.setWidth 64)
  else if 0x010 ≤ num ∧ num ≤ 0x015 then
    match st.loops.toList[num - 0x010]? with
    | some l => some (if l.active then l.counter.setWidth 64 else 0)
    | none => none
  else if num = 0x020 then some (BitVec.ofNat 64 (b.cq.length + b.cqNew.length))
  else if num = 0x030 then some (st.waittmo.setWidth 64)
  else if num = 0x031 then
    some (BitVec.ofNat 64 (st.labels.length + (if st.rlOver then 256 else 0) + (if st.rlUnder then 512 else 0)))
  else if 0x038 ≤ num ∧ num ≤ 0x03f then some (if ag.kind = .chanter then b.a.toList.getD (24 + (num - 0x038)) 0 else 0)
  else if !ag.bank.isCtx then none
  else if 0x040 ≤ num ∧ num ≤ 0x046 then some ((st.hndl.toList.getD (num - 0x040) 0).setWidth 64)
  else if num = 0x048 then some st.tfbase
  else if num = 0x049 then some (st.tfdepth.setWidth 64)
  else none

/-- The counters of a Suite or context (R344-R346). -/
def countersOf (s : State) : BankRef → Counters
  | .bank u _ => (s.suite u).counters
  | .ctx c => (s.ctx c).counters
def setCounters (s : State) (r : BankRef) (x : Counters) : State :=
  match r with
  | .bank u _ => s.modSuite u fun y => { y with counters := x }
  | .ctx c => s.modCtx c fun y => { y with counters := x }
/-- Codes 0x10 and 0x11 count only in the hypervisor context; elsewhere such a counter reads 0 and ignores writes (R346). -/
def fabricCode (r : BankRef) (code : Byte) : Bool := (code == 0x10 || code == 0x11) && r != .ctx hypervisor

/-- A read of the Suite, room, drone and counter ranges (R54, R155, R207, R228, R276, R292, R344, R349, R352, R378, R436). -/
def readSuite (s : State) (ag : Agent) (num : Nat) : Option Word :=
  let t := tenantOf s ag.bank
  let cnt := countersOf s ag.bank
  let tr := (s.tenant t).trace
  if num = 0x120 then some (csBytes (s.tenant t) 0)
  else if num = 0x121 then some (csBytes (s.tenant t) 8)
  else if 0x300 ≤ num ∧ num ≤ 0x307 then some ((cnt.sel.toList.getD (num - 0x300) 0).setWidth 64)
  else if 0x308 ≤ num ∧ num ≤ 0x30f then
    some (if fabricCode ag.bank (cnt.sel.toList.getD (num - 0x308) 0) then 0 else (cnt.cnt.toList.getD (num - 0x308) 0).setWidth 64)
  else if num = 0x310 then some (cnt.ovf.setWidth 64)
  else
    match ag.bank with
    | .ctx _ =>
      if num = 0x320 then some tr.base
      else if num = 0x321 then some (tr.len.setWidth 64)
      else if num = 0x322 then some (tr.pos.setWidth 64)
      else if num = 0x323 then some (tr.ctl.setWidth 64)
      else if num = 0x324 then some (tr.filt.setWidth 64)
      else if num = 0x325 then some tr.loops
      else if num = 0x326 then some (tr.waitthr.setWidth 64)
      else if num = 0x327 then some (tr.drop.setWidth 64)
      else none
    | .bank u _ =>
      let x := s.suite u
      let r := s.room u
      let d := droneOf s u
      if num = 0x100 then some (x.l1mib.setWidth 64)
      else if num = 0x101 then some (BitVec.ofNat 64 ((if r.busy then 2 else 0) + (if r.ovf then 1 else 0)))
      else if num = 0x102 then some (r.accseq.setWidth 64)
      else if num = 0x103 then some (s.pkg.rcyc.toList.getD (dieOf u) 0)
      else if num = 0x104 then some (r.nbeat.setWidth 64)
      else if num = 0x105 then some (roomflt r)
      else if num = 0x200 then some (dstat s u)
      else if num = 0x201 then some d.dbeat
      else if num = 0x202 then some d.dmiss
      else if num = 0x203 then some (d.look.setWidth 64)
      else if num = 0x204 then some d.ddem
      else if num = 0x205 then some d.dstep
      else if num = 0x206 then some d.dcfg
      else if num = 0x330 then some x.dbgarm
      else if num = 0x331 then some x.wpaddr
      else if num = 0x332 then some x.wpctl
      else none

/-- A read of the determinism range, the tenant's own copies (R335-R342, R432). -/
def readDet (s : State) (ag : Agent) (num : Nat) : Option Word :=
  let t := s.tenant (tenantOf s ag.bank)
  if num = 0x600 then some (t.detctl.setWidth 64)
  else if num = 0x601 then some (t.olog.seg.setWidth 64)
  else if num = 0x602 then some (t.olog.pos.setWidth 64)
  else if num = 0x603 then some (t.olog.lim.setWidth 64)
  else if num = 0x604 then some 0
  else if num = 0x605 then some t.olog.r
  else if num = 0x606 then some (match ag.bank with | .bank u _ => (s.suite u).ologsp.setWidth 64 | .ctx _ => 0)
  else if 0x610 ≤ num ∧ num ≤ 0x617 then some ((t.replica.segs.toList.getD (num - 0x610) 0).setWidth 64)
  else if num = 0x618 then some (t.replica.peer.setWidth 64)
  else if num = 0x619 then some t.replica.count
  else if num = 0x61a then
    some (BitVec.ofNat 64 (2 ^ 32 * t.replica.errs.toNat + (if t.replica.fenced then 4 else 0) + (if t.replica.rerun then 2 else 0)
      + (if t.replica.pending then 1 else 0)))
  else none

/-- ROWMAP of a room (R312): two bytes, each a disabled row of 0-129 or 0xff for none, dis0 before dis1. -/
def rowmap (u : SuiteId) : BitVec 16 :=
  let row := fun (x : BitVec 8) => if x.toNat < 130 then x.toNat else 255
  let a := row (Config.disabledRows u.val).1
  let b := row (Config.disabledRows u.val).2
  BitVec.ofNat 16 (if a = b then 256 * 255 + a else if a < b then 256 * b + a else 256 * a + b)

/-- A read of the identity range (R54, R281, R307, R312). -/
def readId (s : State) (ag : Agent) (num : Nat) : Option Word :=
  if num = 0xf00 then some Config.devId
  else if num = 0xf01 then some (match ag.bank with | .bank u _ => BitVec.ofNat 64 u.val | .ctx _ => 0)
  else if num = 0xf02 then some (Config.pkgId.setWidth 64)
  else if num = 0xf03 then some (match ag.bank with | .bank u _ => (rowmap u).setWidth 64 | .ctx _ => 0)
  else if num = 0xf08 then some Config.layver0
  else if num = 0xf09 then some Config.layver1
  else if num = 0xf10 then some (Config.featOffered.setWidth 64)
  else if num = 0xf11 then some 0
  else if num = 0xf12 then some s.pkg.featacc0
  else if num = 0xf13 then some s.pkg.featacc1
  else none

/-- L2QOS of a tenant (R325). -/
def l2qosWord (q : Qos) : Word := BitVec.ofNat 64 (2 ^ 32 * q.prio.toNat + 2 ^ 16 * q.depth.toNat + q.rate.toNat)
/-- LINKSTAT of a port (R423). -/
def linkstat (l : Link) : Word :=
  BitVec.ofNat 64 (2 ^ 32 * l.retries.toNat + 2 ^ 16 * l.downs.toNat + (if l.down then 2 else 0) + (if l.trained then 1 else 0))

/-- A read of the privileged ranges from Steward context c: the value, or the cause of a trap. Write-only registers read 0. SEGBASE and
SEGCNT are those of the acting tenant's supervisor (R54, R348). HVACT traps every access of another context (R348); of the other fields that only the
hypervisor writes, a write alone traps (R372). -/
def readPriv (s : State) (c : CtxId) (num : Nat) : Except (BitVec 8) Word :=
  let x := s.ctx c
  let t := ctxTenant s c
  let hv := c == hypervisor
  let sup := s.ctx (supervisor t)
  let q := (s.tenant ⟨s.pkg.qossel.toNat, s.pkg.qossel.isLt⟩).qos
  let seg := vselRef x.vsel
  if num = 0x400 then .ok sup.segbase
  else if num = 0x401 then .ok (sup.segcnt.setWidth 64)
  else if num = 0x402 then .ok (BitVec.ofNat 64 (s.pkg.ctxasgSel.toNat
      + 256 * (s.ctx ⟨s.pkg.ctxasgSel.toNat, s.pkg.ctxasgSel.isLt⟩).helperTenant.val))
  else if num = 0x403 ∨ num = 0x404 ∨ num = 0x406 ∨ num = 0x40c ∨ num = 0x419 then .ok 0
  else if num = 0x405 then .ok (x.lstat.setWidth 64)
  else if num = 0x407 then if hv then .ok (s.pkg.hvact.setWidth 64) else .error cPRIV
  else if num = 0x408 then .ok x.evqbase
  else if num = 0x409 then .ok (x.evqhead.setWidth 64)
  else if num = 0x40a then .ok (BitVec.ofNat 64 (x.evqtail.toNat + (if x.evqStalled then 512 else 0)))
  else if num = 0x40b then .ok (if x.hostfwd then 1 else 0)
  else if num = 0x40e then .ok s.pkg.featacc0
  else if num = 0x40f then .ok s.pkg.featacc1
  else if num = 0x410 then .ok x.vsel
  else if num = 0x411 then if vselOwned s c then .ok ((shownTrap s seg).setWidth 64) else .error cPROT
  else if num = 0x412 then if vselOwned s c then .ok ((shownTrap s seg).extractLsb' 64 64) else .error cPROT
  else if num = 0x413 then if vselOwned s c then .ok 0 else .error cPROT
  else if num = 0x414 then
    if vselOwned s c then
      let n := natBits x.vsel.toNat 16 5
      .ok (if n = 0 then 0 else (s.bank seg).a.toList.getD n 0)
    else .error cPROT
  else if num = 0x418 then .ok (match x.lock with | some l => BitVec.ofNat 64 (4096 + l) | none => 0)
  else if 0x420 ≤ num ∧ num ≤ 0x447 then .ok ((s.pkg.passages.get (passageOf num).1).get (passageOf num).2).csr
  else if num = 0x450 then .ok (s.pkg.qossel.setWidth 64)
  else if num = 0x451 then .ok (l2qosWord q)
  else if num = 0x452 then .ok (q.weight.setWidth 64)
  else if num = 0x453 then .ok (q.wait.setWidth 64)
  else if num = 0x454 then .ok (s.pkg.pwrcap.setWidth 64)
  else if num = 0x455 then .ok s.pkg.memerr
  else if num = 0x456 then .ok s.pkg.memeaddr
  else if 0x460 ≤ num ∧ num ≤ 0x46b then
    if hv then .ok (match s.pkg.links.toList[num - 0x460]? with | some l => linkstat l | none => 0) else .error cILLFLD
  else if num = 0x46c then if hv then .ok (s.pkg.linklost.setWidth 64) else .error cILLFLD
  else if num = 0x500 then .ok (if hv then s.pkg.ownsel.setWidth 64 else BitVec.ofNat 64 t.val)
  else if num = 0x501 then .ok (s.tenant (if hv then ⟨s.pkg.ownsel.toNat, s.pkg.ownsel.isLt⟩ else t)).mask
  else if num = 0x510 then .ok ((s.pkg.wingsel.get c).setWidth 64)
  else if num = 0x511 then
    let lead : SuiteId := ⟨(s.pkg.wingsel.get c).toNat, (s.pkg.wingsel.get c).isLt⟩
    .ok (BitVec.ofNat 64 (s.room lead).wingShape.val)
  else if num = 0x520 then .ok s.pkg.scnerr
  else if num = 0x521 then .ok (if hv then damagedMask s else damagedMask s &&& (s.tenant t).mask)
  else .error cILLFLD

/-- A read of any number: R53 and R372 decide what traps. -/
def csrRead (s : State) (ag : Agent) (num : Nat) : Except (BitVec 8) Word :=
  let some? := fun (o : Option Word) => match o with | some v => Except.ok v | none => .error cILLFLD
  if num < 0x100 then some? (readLocal s ag num)
  else if num < 0x400 then some? (readSuite s ag num)
  else if num < 0x600 then
    match ag.bank with
    | .bank .. => .error cPRIV
    | .ctx c => readPriv s c num
  else if num < 0x700 then some? (readDet s ag num)
  else if num < 0xf00 then .error cILLFLD
  else some? (readId s ag num)

/-- The numbers that only the hypervisor may write (R293, R322, R324, R325, R331, R333, R348, R408, R413, R419). -/
def hvWriteOnly (num : Nat) : Bool :=
  [0x402, 0x406, 0x407, 0x40e, 0x40f, 0x450, 0x451, 0x452, 0x453, 0x454, 0x455, 0x501, 0x521].contains num

/-- Whether an incomplete launch of the tenant stands in the way of DETCTL (R335, R430). -/
def detctlBusy (s : State) (t : TenantId) : Bool := !(s.tenant t).launches.isEmpty && !(s.tenant t).replica.pending

/-- A RESETREQ value that its own map excludes, or that the context is not entitled to (R329, R361). -/
def resetreqTrap (s : State) (c : CtxId) (v : Nat) : Option (BitVec 8) :=
  let level := v % 8
  let target := natBits v 8 6
  let named := level + 256 * target + (if level = 4 then v / 65536 % 4 * 65536 else 0)
  if level = 0 ∨ 4 < level ∨ v ≠ named ∨ (level = 1 ∧ 4 ≤ target) then some cILLFLD
  else
    let u : SuiteId := ⟨target % 64, by omega⟩
    let hv := c == hypervisor
    let sup := decide (c.val < 64) && owns s (ctxTenant s c) u
    if level ≤ 2 then (if hv then none else some cPRIV)
    else if level = 3 then (if hv || (sup && (s.room u).stopped && (s.suite u).stopped) then none else some cPRIV)
    else (if sup then none else some cPRIV)

/-- A value that a field's own map excludes (R371). -/
def valueExcluded (num : Nat) (v : Word) : Bool :=
  let n := v.toNat
  if num = 0x049 then decide (4 < n % 8)
  else if num = 0x048 then n % 256 != 0
  else if num = 0x100 then decide (8 < n % 16)
  else if 0x300 ≤ num ∧ num ≤ 0x307 then !([0, 1, 2, 3, 4, 5, 6, 7, 8, 0x10, 0x11].contains (n % 256))
  else if num = 0x320 then n % 64 != 0
  else if num = 0x332 then decide (natBits n 8 6 < 3) || decide (36 < natBits n 8 6)
  else if num = 0x401 then decide (65536 < n % 2 ^ 17)
  else if num = 0x402 then decide (n % 128 < 64) || n % 128 == 127
  else if num = 0x406 then n.testBit 16 && n.testBit 17
  else if num = 0x408 then n % 64 != 0
  else if num = 0x413 then n % 4 == 0 || n % 4 == 3
  else if num = 0x418 then n / 2 ^ 52 != 0
  else if 0x420 ≤ num ∧ num ≤ 0x447 then decide ((passageOf num).1.val < 3) && natBits n 32 9 != 0
  else if num = 0x451 then decide (1024 < n % 2048) || natBits n 16 13 == 0 || decide (4096 < natBits n 16 13)
  else if num = 0x454 then decide (n % 4096 < 1000) || decide (3000 < n % 4096)
  else if num = 0x511 then decide (8 < n % 16)
  else if num = 0x600 then n / 2 % 4 == 3
  else if num = 0x330 then decide (5 < natBits n 2 3)
  else false

/-- What stage 2 traps on a write of value v to a number, in the order of R371: privilege, an unassigned number, an excluded value, and the
register's own checks. -/
def csrWriteTrap (s : State) (ag : Agent) (num : Nat) (v : Word) : Option (BitVec 8) :=
  let priv := match ag.bank with
    | .bank .. => (decide (0x400 ≤ num) && decide (num < 0x700))
    | .ctx c => hvWriteOnly num && c != hypervisor
  if priv then some cPRIV
  else
    match csrRead s ag num with
    | .error e => some e
    | .ok _ =>
      if valueExcluded num v then some cILLFLD
      else
        match ag.bank with
        | .bank .. => none
        | .ctx c =>
          let t := ctxTenant s c
          if num = 0x40c then resetreqTrap s c v.toNat
          else if num = 0x40e ∨ num = 0x40f then (if s.pkg.featLocked then some cPROT else none)
          else if num = 0x413 ∨ num = 0x414 then
            if !vselOwned s c then some cPROT
            else if (s.bank (vselRef (s.ctx c).vsel)).traps.isEmpty then some cILLFLD
            else if num = 0x413 ∧ v.toNat % 4 = 2 ∧ ((s.bank (vselRef (s.ctx c).vsel)).traps.any fun r => r.cls != 0) then some cILLFLD
            else none
          else if num = 0x418 then (if (s.ctx c).lock.isSome || (s.tenant t).locks.any (fun q => q.2 == c) then some cILLFLD else none)
          else if num = 0x600 then (if detctlBusy s t then some cPROT else none)
          else if num = 0x511 then
            let lead : SuiteId := ⟨(s.pkg.wingsel.get c).toNat, (s.pkg.wingsel.get c).isLt⟩
            let sh := v.toNat % 16
            if aligned lead sh && (wingRooms lead sh).all (fun r => (s.room r).stopped && (s.suite r).stopped && owns s t r) then none
            else some cPROT
          else none

/-- The writable bits of a register that has a plain home; other bits keep their value (R53). -/
def writeMask (num : Nat) : Word :=
  if num = 0x008 then 3
  else if num = 0x009 then 0x1f1f
  else if num = 0x00a then 0xff
  else if num = 0x030 then 0xffffffffffff
  else if num = 0x031 then 0x300
  else if num = 0x332 then 0x3f03
  else if num = 0x330 then 0xffffffff0001ff1f
  else if num = 0x325 then 0x3f3f
  else if num = 0x410 then 0x1f01ff
  else if num = 0x400 then 0xffffffffffffc0
  else 0xffffffffffffffff

/-- A write that only sets fields, at its landing (CSR_WRITE, R53, R159). Numbers with an effect of their own are other events; read-only
numbers ignore it. -/
def csrSet (s : State) (ag : Agent) (num : Nat) (v : Word) : State :=
  let t := tenantOf s ag.bank
  let cnt := countersOf s ag.bank
  if num = 0x008 then s.modStream ag fun x => { x with frm := v.setWidth 2 }
  else if num = 0x009 then s.modStream ag fun x => { x with xflg := (v &&& writeMask num).setWidth 13 }
  else if num = 0x00a then s.modStream ag fun x => { x with semsat := v.setWidth 8 }
  else if num = 0x030 then s.modStream ag fun x => { x with waittmo := v.setWidth 48 }
  else if num = 0x031 then s.modStream ag fun x => { x with rlOver := v.getLsbD 8, rlUnder := v.getLsbD 9 }
  else if 0x040 ≤ num ∧ num ≤ 0x046 then
    s.modStream ag fun x => { x with hndl := x.hndl.set ((num - 0x040) % 7) (v.setWidth 28) (by omega) }
  else if num = 0x048 then s.modStream ag fun x => { x with tfbase := v }
  else if num = 0x049 then s.modStream ag fun x => { x with tfdepth := v.setWidth 3 }
  else if 0x300 ≤ num ∧ num ≤ 0x307 then
    setCounters s ag.bank { cnt with sel := cnt.sel.set ((num - 0x300) % 8) (v.setWidth 8) (by omega) }
  else if 0x308 ≤ num ∧ num ≤ 0x30f then
    if fabricCode ag.bank (cnt.sel.toList.getD (num - 0x308) 0) then s
    else setCounters s ag.bank { cnt with
      cnt := cnt.cnt.set ((num - 0x308) % 8) (v.setWidth 48) (by omega), inc := cnt.inc.set ((num - 0x308) % 8) 0 (by omega),
      set := cnt.set.set ((num - 0x308) % 8) true (by omega) }
  else if num = 0x310 then setCounters s ag.bank { cnt with ovf := v.setWidth 8 }
  else
    match ag.bank with
    | .bank u _ =>
      if num = 0x330 then s.modSuite u fun x => { x with dbgarm := v &&& writeMask num }
      else if num = 0x331 then s.modSuite u fun x => { x with wpaddr := v }
      else if num = 0x332 then s.modSuite u fun x => { x with wpctl := v &&& writeMask num }
      else s
    | .ctx c =>
      let tr := fun (f : Trace → Trace) => s.modTenant t fun x => { x with trace := f x.trace }
      let olog := fun (f : OrderLog → OrderLog) => if featOn s 2 then s.modTenant t fun x => { x with olog := f x.olog } else s
      let qt : TenantId := ⟨s.pkg.qossel.toNat, s.pkg.qossel.isLt⟩
      if num = 0x320 then tr fun x => { x with base := v }
      else if num = 0x321 then tr fun x => { x with len := v.setWidth 32 }
      else if num = 0x322 then tr fun x => { x with pos := v.setWidth 32 }
      else if num = 0x324 then tr fun x => { x with filt := v.setWidth 33 }
      else if num = 0x325 then tr fun x => { x with loops := v &&& writeMask num }
      else if num = 0x326 then tr fun x => { x with waitthr := v.setWidth 32 }
      else if num = 0x400 then s.modCtx (supervisor t) fun x => { x with segbase := v &&& writeMask num }
      else if num = 0x401 then s.modCtx (supervisor t) fun x => { x with segcnt := v.setWidth 17 }
      else if num = 0x402 then
        (s.modPkg fun p => { p with ctxasgSel := v.setWidth 7 }).modCtx ⟨v.toNat % 128, by omega⟩ fun x =>
          { x with helperTenant := ⟨natBits v.toNat 8 6, Nat.mod_lt _ (by decide)⟩ }
      else if num = 0x407 then s.modPkg fun p => { p with hvact := v.setWidth 6 }
      else if num = 0x40b then
        let s1 := s.modCtx c fun x => { x with hostfwd := v.getLsbD 0 }
        if v.getLsbD 0 then forwardHeld s1 c else s1
      else if num = 0x410 then s.modCtx c fun x => { x with vsel := v &&& writeMask num }
      else if num = 0x450 then s.modPkg fun p => { p with qossel := v.setWidth 6 }
      else if num = 0x452 then s.modTenant qt fun x => { x with qos := { x.qos with weight := v.setWidth 8 } }
      else if num = 0x453 then s.modTenant qt fun x => { x with qos := { x.qos with wait := v.setWidth 32 } }
      else if num = 0x454 then s.modPkg fun p => { p with pwrcap := v.setWidth 12 }
      else if num = 0x455 then s.modPkg fun p => { p with memerr := v }
      else if 0x460 ≤ num ∧ num ≤ 0x46b then
        if c = hypervisor then
          let l : Link := s.pkg.links.get ⟨(num - 0x460) % 12, by omega⟩
          let l1 : Link := { l with retries := v.extractLsb' 32 32 }
          s.modPkg fun p => { p with links := p.links.set ((num - 0x460) % 12) l1 (by omega) }
        else s
      else if num = 0x500 then (if c = hypervisor then s.modPkg fun p => { p with ownsel := v.setWidth 6 } else s)
      else if num = 0x510 then s.modPkg fun p => { p with wingsel := p.wingsel.set c.val (v.setWidth 6) c.isLt }
      else if num = 0x601 then olog fun x => { x with seg := v.setWidth 16 }
      else if num = 0x602 then olog fun x => { x with pos := v.setWidth 48, age := 0 }
      else if 0x610 ≤ num ∧ num ≤ 0x617 then
        if featOn s 3 then
          s.modTenant t fun x => { x with replica :=
            { x.replica with segs := x.replica.segs.set ((num - 0x610) % 8) (v.setWidth 17) (by omega) } }
        else s
      else s

/-- The event that a write becomes at its landing: a register with an effect of its own has its own event, any other is CSR_WRITE. -/
def csrEvent (s : State) (ag : Agent) (num : BitVec 12) (v : Word) : Instr :=
  let n := num.toNat
  let t := tenantOf s ag.bank
  match ag.bank with
  | .bank u _ =>
    if n = 0x100 then .lssplitWrite u v
    else if n = 0x102 then .accseqWrite u v
    else if n = 0x105 ∧ v.getLsbD 0 then .roomfltClear u
    else .csrWrite ag num v
  | .ctx c =>
    if n = 0x323 then .trctlWrite t v
    else if n = 0x403 then .ctxstartWrite c v
    else if n = 0x404 then .lsubmitWrite c v
    else if n = 0x406 then
      if v.getLsbD 16 then .keyctlAssign ⟨natBits v.toNat 8 6, Nat.mod_lt _ (by decide)⟩ ⟨v.toNat % 128, by omega⟩
      else if v.getLsbD 17 then .keyctlRelease ⟨v.toNat % 128, by omega⟩
      else .csrWrite ag num v
    else if n = 0x408 then .evqbaseWrite c v
    else if n = 0x409 then .evqheadWrite c v
    else if n = 0x40c then
      let x := natBits v.toNat 8 6
      let u : SuiteId := ⟨x, Nat.mod_lt _ (by decide)⟩
      if v.toNat % 8 = 1 then .resetDie ⟨x % 4, by omega⟩
      else if v.toNat % 8 = 2 then .resetTenant u
      else if v.toNat % 8 = 3 then .resetRoom u
      else .visitAbort u (if v.getLsbD 16 then 1 else 0) (v.getLsbD 17)
    else if n = 0x40e then .feataccWrite false v
    else if n = 0x40f then .feataccWrite true v
    else if n = 0x413 then (if v.toNat % 4 = 1 then .vcmdResume c else .vcmdSkip c)
    else if n = 0x414 then .varegWrite c v
    else if n = 0x418 then .alockWrite c v
    else if n = 0x419 then .aunlkWrite c
    else if 0x420 ≤ n ∧ n ≤ 0x447 then .passWrite (passageOf n).1 (passageOf n).2 v
    else if n = 0x451 then .l2qosWrite ⟨s.pkg.qossel.toNat, s.pkg.qossel.isLt⟩ v
    else if n = 0x501 then .ownmaskWrite ⟨s.pkg.ownsel.toNat, s.pkg.ownsel.isLt⟩ v
    else if n = 0x511 then .wingsetWrite c v
    else if n = 0x521 then .scndmgClear v
    else if n = 0x600 then .detctlWrite t v
    else if n = 0x603 then .ologlimWrite t v
    else if n = 0x604 then .ologwWrite c v
    else if n = 0x618 then .digpeerWrite t v
    else if n = 0x61a then .digstatWrite t v
    else .csrWrite ag num v

end Sys2Proof.Machine
end

