-- ==== Sys2Proof/Machine/Olog.lean ====
section
/-! DEFINITION. The order-log unit: recording and forcing an order-sensitive choice, spec/16_determinism_and_observation.md R337-R341. -/

namespace Sys2Proof.Machine

/-- 0 off, 1 record, 2 replay; off while feature 2 is not accepted (R331, R335). -/
def ologMode (s : State) (t : TenantId) : Nat := if featOn s 2 then natBits (s.tenant t).detctl.toNat 1 2 else 0

/-- Virtual address of entry i (R338). -/
def ologVa (s : State) (t : TenantId) (i : Nat) : Nat := (s.tenant t).olog.seg.toNat * 2 ^ 36 + 16 * i

/-- The 16 bytes of an entry (R338). -/
def ologBytes (t : TenantId) (kind source value : Nat) : List Byte :=
  leBytes 2 kind ++ leBytes 1 t.val ++ leBytes 1 0 ++ leBytes 2 source ++ leBytes 2 0 ++ leBytes 8 value

/-- An entry of a source is written or consumed: OLOGPOS advances past it, and a Suite's OLOGSP follows (R338). -/
def ologAdvance (s : State) (t : TenantId) (source : Nat) : State :=
  let p := (s.tenant t).olog.pos
  let s1 := s.modTenant t fun x => { x with olog := { x.olog with pos := p + 1, age := 0, full := false } }
  if h : source < 64 then s1.modSuite ⟨source, h⟩ fun x => { x with ologsp := p + 1 } else s1

/-- Whether OLOGPOS lies below OLOGLIM (R338). -/
def ologRoom (s : State) (t : TenantId) : Bool := decide ((s.tenant t).olog.pos.toNat < (s.tenant t).olog.lim.toNat)

/-- The entry at OLOGPOS as it reads: kind, source, value. -/
def ologEntry (s : State) (t : TenantId) : Option (Nat × Nat × Nat) :=
  match loadVa s t (ologVa s t (s.tenant t).olog.pos.toNat) 16 with
  | (.ok b, _) => some (fieldAt b 0 2, fieldAt b 4 2, fieldAt b 8 8)
  | _ => none

/-- Whether the entry at OLOGPOS has a source Suite whose OLOGSP lies above its index: a restored Suite has consumed it (R341). -/
def ologPassed (s : State) (t : TenantId) : Bool :=
  ologRoom s t &&
  match ologEntry s t with
  | some (_, src, _) => if h : src < 64 then decide ((s.tenant t).olog.pos.toNat < (s.suite ⟨src, h⟩).ologsp.toNat) else false
  | none => false

/-- Replay skips such entries, as many as one look allows. -/
def ologSkip (t : TenantId) : Nat → State → State
  | 0, s => s
  | n + 1, s =>
    if ologPassed s t then ologSkip t n (s.modTenant t fun x => { x with olog := { x.olog with pos := x.olog.pos + 1, age := 0 } }) else s

/-- Whether REPLAYDIV has been raised for the entry at OLOGPOS: every choice point stays waiting (R339, R434). -/
def ologDead (s : State) (t : TenantId) : Bool := decide (2 ^ 24 ≤ (s.tenant t).olog.age)

/-- The entry that replay may consume now: none at OLOGLIM or after REPLAYDIV, and none where the entry is to be skipped (R338, R339, R341). -/
def ologNext (s : State) (t : TenantId) : Option (Nat × Nat × Nat) :=
  if !ologRoom s t || ologDead s t || ologPassed s t then none else ologEntry s t

/-- LOGFULL is raised once for a choice that finds OLOGPOS at OLOGLIM (R338). -/
def logFull (s : State) (t : TenantId) (source : Nat) : State :=
  let o := (s.tenant t).olog
  if !ologRoom s t && !o.full then
    externalTrap (s.modTenant t fun x => { x with olog := { x.olog with full := true } }) (supervisor t) cLOGFULL t.val source (o.pos.setWidth 64)
  else s

/-- An entry is stored at OLOGPOS, an ordinary store of the tenant that its line's port must have granted (R325, R338). The answer is whether it has
performed. -/
def ologRecord (s : State) (t : TenantId) (kind source value : Nat) : Bool × State :=
  match storeVaBy s (.olog t) t t (ologVa s t (s.tenant t).olog.pos.toNat) (ologBytes t kind source value) 0xffff with
  | (.ok (), s1) => (true, ologAdvance s1 t source)
  | (_, s1) => (false, s1)

/-- A choice point of a kind in a source, whose choice by itself would be `value`. With the log off the choice is the device's. Recording stores the entry
first, and the choice takes effect then; while the log is full, which raises LOGFULL once, or the entry cannot be stored, the choice waits. Replay waits
until the entry at OLOGPOS has the kind and the source, and a value that the point can take, and forces that value (R337-R339, log 38). The answer is
the value chosen, or none where the choice must wait. -/
def ologTake (s : State) (t : TenantId) (kind source value : Nat) (fits : Nat → Bool) : Option Nat × State :=
  match ologMode s t with
  | 0 => (some value, s)
  | 1 =>
    if !ologRoom s t then (none, logFull s t source)
    else match ologRecord s t kind source value with
      | (true, s1) => (some value, s1)
      | (false, s1) => (none, s1)
  | _ =>
    let s1 := ologSkip t 64 s
    if !ologRoom s1 t then (none, logFull s1 t source)
    else match ologNext s1 t with
      | some (k, src, v) => if k = kind ∧ src = source ∧ fits v then (some v, ologAdvance s1 t source) else (none, s1)
      | none => (none, s1)

/-- A choice point that can take any value. -/
def ologChoice (s : State) (t : TenantId) (kind source value : Nat) : Option Nat × State := ologTake s t kind source value fun _ => true

/-- The counter that kind-3 entries carry: NBEAT, or DBEAT in drone mode, modulo 2^32 (R337). -/
def beatStamp (s : State) (u : SuiteId) : Nat :=
  if (droneOf s u).active then (droneOf s u).dbeat.toNat % 2 ^ 32 else (s.room u).nbeat.toNat

/-- The value of a kind-3 entry (R337). `agent` is 0 AAT, 1 copy row, 2 VACW row, 3 collective step row. -/
def accChoice (s : State) (u : SuiteId) (agent bank tile row col : Nat) : Nat :=
  agent + 8 * bank + 16 * tile + 512 * row + 65536 * col + 2 ^ 32 * beatStamp s u

/-- An accumulator write under the order log: in replay it applies only where the logged entry is this write and its counter has come. -/
def accLogged (s : State) (t : TenantId) (u : SuiteId) (agent bank tile row col : Nat) : Bool × State :=
  match ologTake s t 3 u.val (accChoice s u agent bank tile row col) (fun w => w == accChoice s u agent bank tile row col) with
  | (some _, s1) => (true, s1)
  | (none, s1) => (false, s1)

/-- Whether replay forces an accumulator write now: the entry at OLOGPOS is this write and its counter has come (R337). -/
def accForced (s : State) (t : TenantId) (u : SuiteId) (agent bank tile row col : Nat) : Bool :=
  ologMode s t == 2 && ologNext (ologSkip t 64 s) t == some (3, u.val, accChoice s u agent bank tile row col)

end Sys2Proof.Machine
end

