-- ==== Sys2Proof/Machine/Issue.lean ====
section
/-! DEFINITION. Issue: what holds an instruction, its traps, the advance of the position with the hardware loops, and the landing of results.
spec/05_encoding.md R108, R119-R124, spec/01_execution_model.md R33, spec/02_state_and_addressing.md R47-R48,
spec/06_access_instructions.md R135, R143, R149-R151, spec/18_instruction_exceptions.md R364. -/

namespace Sys2Proof.Machine

/-! ### Latencies (R120-R123) -/

/-- The fixed classes. -/
def fixedClasses : List Nat := [0, 1, 3, 5, 6, 7, 8, 9, 10, 11]

/-- Whether an image's latency bytes force the interlock: some fixed class lies below the device's (R123). -/
def forcesInterlock (im : Image) : Bool := fixedClasses.any fun c => decide (im.latency.getD c (Config.latency c) < Config.latency c)

/-- The forced mode of a bank's Visit, or of a context's image: R123 speaks of a Visit at its placement; that a Steward context's image with a low
latency byte runs interlocked too, while its IMGMODE reads 0, is the model's choice (DESIGN CHOICE, log 62). -/
def forcedOf (s : State) (r : BankRef) : Bool :=
  match r with
  | .bank .. => match (s.bank r).visit with | some v => v.forced | none => false
  | .ctx _ => match imageOf s r with | some im => forcesInterlock im | none => false

/-- The latency of a class for an agent: padded to the header's unless the interlock is forced (R123). -/
def latencyOf (s : State) (r : BankRef) (cls : Nat) : Nat :=
  if forcedOf s r then Config.latency cls
  else
    match imageOf s r with
    | some im => max (im.latency.getD cls (Config.latency cls)) (Config.latency cls)
    | none => Config.latency cls

/-- Whether the agent's present line is interlocked (R122, R123). -/
def interlocked (s : State) (ag : Agent) : Bool :=
  forcedOf s ag.bank ||
  match imageOf s ag.bank with
  | some im => im.inter (posOf s ag / 16)
  | none => false

/-! ### Landing (R121, R167) -/

/-- The union of flags recorded in the X-stream's XFLG (R79, R167). -/
def recordFlags (s : State) (r : BankRef) (fl : Flags) : State :=
  if fl = 0 then s else s.modBank r fun b => { b with sx := { b.sx with xflg := xflgAfter b.sx.xflg fl } }

/-- Writes one tile register whole. -/
def setTile (s : State) (u : SuiteId) (t : Fin 48) (v : Tile) : State :=
  (s.modSuite u fun x => { x with tiles := x.tiles.set t.val v t.isLt }).modPkg fun p =>
    { p with flips := p.flips.filter fun e => match e with | .tile a b _ _ => !(a == u && b == t) | _ => true }

def tileFlag (s : State) (u : SuiteId) (t : Fin 48) : TileFlag := (s.suite u).flags.get t
def modTileFlag (s : State) (u : SuiteId) (t : Fin 48) (f : TileFlag → TileFlag) : State :=
  s.modSuite u fun x => { x with flags := x.flags.set t.val (f (x.flags.get t)) t.isLt }

/-- A tile register as it reads: poisoned 64-byte units read 0xff (R408). -/
def readTile (s : State) (u : SuiteId) (t : Fin 48) : Tile :=
  s.pkg.flips.foldl (fun v e => match e with
    | .tile a b row unit =>
      if a = u ∧ b = t then
        v.set row.val (Vector.ofFn fun j => if j.val / 64 = unit.val then (0xff : Byte) else (v.get row).get j) row.isLt
      else v
    | _ => v) ((s.suite u).tiles.get t)

/-- The word of a tile row at bytes 4j to 4j+3 (R45). -/
def tileWord (t : Tile) (i : Fin 128) (j : Fin 64) : W32 :=
  let r := t.get i
  (r.get ⟨4 * j.val + 3, by omega⟩) ++ (r.get ⟨4 * j.val + 2, by omega⟩) ++ (r.get ⟨4 * j.val + 1, by omega⟩) ++ (r.get ⟨4 * j.val, by omega⟩)

/-- VACW writes the rows of half h of an accumulator tile that `rows` names (R184). -/
def vacwTile (old : AccTile) (h add : Bool) (t : Tile) (rows : Fin 128 → Bool) : AccTile × Flags :=
  let lo := if h then 64 else 0
  let step := fun (w x : W32) => if add then
      (let (v, f1) := addV false (dec32 w) (dec32 x); let (b, f2) := cvt v .fp32 0 false; (BitVec.ofNat 32 b, f1 ||| f2))
    else (x, 0)
  let new : AccTile := Vector.ofFn fun i => if rows i then Vector.ofFn fun j =>
    if hj : lo ≤ j.val ∧ j.val < lo + 64 then (step ((old.get i).get j) (tileWord t i ⟨j.val - lo, by omega⟩)).1 else (old.get i).get j
    else old.get i
  let fl := if add then
      (List.finRange 128).foldl (fun f i => if rows i then (List.finRange 64).foldl (fun f j =>
        f ||| (step ((old.get i).get ⟨(lo + j.val) % 128, by omega⟩) (tileWord t i j)).2) f else f) (0 : Flags)
    else 0
  (new, fl)

/-- The rows of a VACW that are written now, with the flags of their adds (R184, R156). -/
def vacwWrite (s : State) (r : BankRef) (k : StreamKind) (u : SuiteId) (kt : Fin 32) (half add : Bool) (t : Tile) (rows : Fin 128 → Bool) : State :=
  let (old, s1) := accReadHalf s u kt half rows
  let (new, fl) := vacwTile old half add t rows
  let s2 := (List.finRange 128).foldl (fun s i => if rows i then dropAccErrors s u kt i (inHalf half) else s) (if add then s1 else s)
  let s3 := s2.modRoom u fun x => { x with acc := x.acc.set kt.val new kt.isLt }
  if k = .x then recordFlags s3 r fl else s3

/-- The value that a CSR write will leave, given what a read gives now (R159). -/
def csrNew (old : Word) : CsrOp → Word
  | .write v => v
  | .masked v m => (old &&& ~~~m) ||| (v &&& m)
  | .exchange v _ => v

/-- One result reaches its destination. A CSR write becomes a turn of its own, which comes next. -/
def landResult (s : State) (r : BankRef) (k : StreamKind) (res : Result) : State :=
  match res with
  | .a n v => writeA s ⟨r, k⟩ n v
  | .c n v => match r with
    | .bank u _ => s.modSuite u fun x => { x with chanter := { x.chanter with c := x.chanter.c.set n.val v n.isLt } }
    | .ctx _ => s
  | .e n v => writeE s ⟨r, k⟩ n v
  | .tile t v produce => match r with
    | .bank u _ =>
      let s1 := setTile s u t v
      if produce then modTileFlag s1 u t fun f => { f with full := true, producing := false, setter := k.code } else s1
    | .ctx _ => s
  | .consume t => match r with
    | .bank u _ => modTileFlag s u t fun f => { f with full := false, consuming := false, setter := k.code }
    | .ctx _ => s
  | .mask m v => match r with
    | .bank u _ => s.modSuite u fun x => { x with masks := x.masks.set m.val v m.isLt }
    | .ctx _ => s
  | .csr num op => { s with turns := s.turns ++ [.csr ⟨r, k⟩ num op] }
  | .acc kt half add t row _ => match r with
    | .bank u _ => vacwWrite s r k u kt half add t fun i => decide (row ≤ i.val)
    | .ctx _ => s
  | .accRead .. => s
  | .sem n => s.modBank r fun b => b.setStream k (semLater (b.stream k) n)

def landResults (s : State) (r : BankRef) (k : StreamKind) (l : List Result) : State := l.foldl (fun s x => landResult s r k x) s

/-- Results of a fixed-latency instruction: latency 1 is written now, which no other agent can tell from the end of the cycle; any other
latency flies (R121). -/
def emit (s : State) (ag : Agent) (cls : Nat) (res : List Result) (fl : Flags := 0) : State :=
  let l := latencyOf s ag.bank cls
  if l ≤ 1 then
    landResults (recordFlags (s.modBank ag.bank fun b =>
      { b with wrote := b.wrote ++ (res.flatMap (resultRegs ag.kind)).map fun x => (ag.kind, x) }) ag.bank fl) ag.bank ag.kind res
  else s.modBank ag.bank fun b => { b with fly := b.fly ++ [⟨ag.kind, l - 1, res, fl, s.cycle, false⟩] }

/-- What is left of a result of a stream at its landing where a later instruction wrote at once in the same cycle: of two writes of one register in
one cycle the later-issued one is kept (R121). -/
def keepUnwritten (wrote : List (StreamKind × Reg)) (k : StreamKind) (x : Result) : Option Result :=
  match x with
  | .csr num (.exchange v d) => some (if wrote.contains (k, .a d.toNat) then .csr num (.write v) else x)
  | _ => if (resultRegs k x).any fun g => wrote.contains (k, g) then none else some x

/-- Whether a VACW in flight loses this cycle's port to a row (R184), from the cycle after its issue on, or finds its room stopped (R288). -/
def portTaken (s : State) (r : BankRef) (f : Flight) : Bool :=
  f.res.any fun x => match x, r with
    | .acc k _ _ _ _ _, .bank u _ => (s.room u).stopped || (f.left != 31 && (s.room u).portRows.contains (k.val % 8))
    | _, _ => false

/-- A VACW under the order log writes its rows one after another, each once its entry is logged or is due (R337). Answers the first row not written. -/
def vacwRows (r : BankRef) (k : StreamKind) (u : SuiteId) (b : Nat) (kt : Fin 32) (half add : Bool) (t : Tile) (tn : TenantId) :
    Nat → Nat → State → Nat × State
  | 0, row, s => (row, s)
  | n + 1, row, s =>
    match accLogged s tn u 2 b kt.val row 0 with
    | (true, s1) => vacwRows r k u b kt half add t tn n (row + 1) (vacwWrite s1 r k u kt half add t fun i => i.val == row)
    | (false, s1) => (row, s1)

/-- Results that are due, in issue order (R121); stable for results of one cycle. -/
def insertBorn (f : Flight) : List Flight → List Flight
  | [] => [f]
  | g :: t => if g.born ≤ f.born then g :: insertBorn f t else f :: g :: t
def sortBorn (l : List Flight) : List Flight := l.foldl (fun acc f => insertBorn f acc) []

/-- A result of variable latency that is written at the end of this cycle, the cycle of its completion (R121). -/
def landLater (s : State) (r : BankRef) (k : StreamKind) (res : List Result) (born left : Nat := 0) : State :=
  s.modBank r fun b => { b with fly := b.fly ++ [⟨k, left, res, 0, born, true⟩] }

/-- Whether the reads of a LSUBMIT or CTXSTART write would wait for a migration (R247, R322, R323). -/
def readsWait (s : State) (t : TenantId) (va n : Nat) : Bool := match (loadVa s t va n).1 with | .wait => true | _ => false
def submitWaits (s : State) (t : TenantId) (va : Nat) : Bool :=
  match (loadVa s t va 128).1 with
  | .ok l => readsWait s t (fieldAt l 4 2 * 2 ^ 36) 256
  | .fault _ => false
  | .wait => true

/-- Slots or credits of a passage register that its write waits for; a passage within the package has an end at either boundary (R267). -/
def passageBusy (s : State) (b : Fin 5) (p : Fin 8) : Bool :=
  let busy := fun (b : Fin 5) => let x := (s.pkg.passages.get b).get p; !(x.slots.isEmpty && x.used == 0)
  let own := natBits ((s.pkg.passages.get b).get p).csr.toNat 32 9 == Config.pkgId.toNat
  busy b || (own && ((b == 3 && busy 4) || (b == 4 && busy 3)))

/-- A CSR write that its register makes wait at issue (R55, R155, R159, R267, R351, R403, R404); a register of a room whose clock stands still cannot be
written (R288). -/
def csrWaits (s : State) (ag : Agent) (num : Nat) (v : Word) : Bool :=
  match ag.bank with
  | .bank u _ =>
    let x := s.suite u
    if num = 0x100 then
      !(x.mq.isEmpty && x.cqueue.isEmpty && x.mrun.isEmpty && x.crun.isEmpty && (s.room (s.room u).wingLead).runs.isEmpty)
    else if num = 0x102 then (s.room u).atomics.any (·.ordered) || (s.room u).stopped
    else if num = 0x101 ∨ num = 0x105 then (s.room u).stopped
    else false
  | .ctx c =>
    let t := ctxTenant s c
    if num = 0x413 then !(s.bank ag.bank).sq.isEmpty
    else if num = 0x403 then readsWait s (ctxTenant s ⟨natBits v.toNat 16 7, Nat.mod_lt _ (by decide)⟩) (v.toNat % 65536 * 2 ^ 36) 256
    else if num = 0x404 then submitWaits s t v.toNat
    else if num = 0x418 then
      let l := lockOf v.toNat
      let y := s.tenant t
      !y.locks.contains (l, c)
        && (y.locks.any (fun p => p.1 == l) || (match y.lockQueue.find? fun p => p.1 == l with | some p => p.2 != c | none => false))
    else if 0x420 ≤ num ∧ num ≤ 0x447 then
      ((s.pkg.passages.get (passageOf num).1).get (passageOf num).2).csr.getLsbD 31 && passageBusy s (passageOf num).1 (passageOf num).2
    else if num = 0x323 then (s.tenant t).trace.ctl.getLsbD 0 && !v.getLsbD 0 && !(s.tenant t).trace.pending.isEmpty
    else false

/-- Whether a landing of a CSR write must still wait: in a Steward context for what its register waits for, in a Suite only for the clock of its room,
since the other waits of R188 come at issue. -/
def landWaits (s : State) (ag : Agent) (num : Nat) (v : Word) : Bool :=
  match ag.bank with
  | .bank u _ => (num == 0x101 || num == 0x102 || num == 0x105) && (s.room u).stopped
  | .ctx _ => csrWaits s ag num v

/-- The value that a CSR write in flight would leave now. -/
def csrOld (s : State) (ag : Agent) (num : Nat) : Word := match csrRead s ag num with | .ok w => w | .error _ => 0
def flightWaits (s : State) (r : BankRef) (f : Flight) : Bool :=
  f.res.any fun x => match x with
    | .csr num op => landWaits s ⟨r, f.kind⟩ num.toNat (csrNew (csrOld s ⟨r, f.kind⟩ num.toNat) op)
    | _ => false

/-- Lands one flight that is due; under the order log a VACW stays until its last row is written (R337). -/
def landOne (s : State) (r : BankRef) (f : Flight) : State :=
  let f1 : Flight := { f with res := f.res.filterMap (keepUnwritten (s.bank r).wrote f.kind) }
  let all := fun (s : State) => landResults (recordFlags s r f.flags) r f.kind f1.res
  match r, f.res with
  | .bank u b, [.acc k half add t row tn] =>
    if ologMode s tn = 0 then all s
    else
      match vacwRows r f.kind u b.val k half add t tn (128 - row) row s with
      | (n, s1) => if n < 128 then s1.modBank r fun b => { b with fly := b.fly ++ [{ f with res := [.acc k half add t n tn] }] } else s1
  | _, _ => all s

/-- The end of a cycle for the results in flight of a bank: those that are due land in issue order, those of the X-stream first, so that an
A-stream fill of the same tile is kept (R169), and the CSR writes among them have their turns in that order. While the core clock stands still only
results of variable latency move (R291). -/
def landDue (s : State) (r : BankRef) : State :=
  let stopped := match r with | .bank u _ => (s.suite u).stopped | .ctx _ => false
  let moves := fun (f : Flight) => (!stopped || f.var) && !portTaken s r f && !(f.left == 0 && flightWaits s r f)
  let fly := (s.bank r).fly
  let now := fly.filter fun f => f.left == 0 && moves f
  let due := sortBorn (now.filter fun f => f.kind == .x) ++ sortBorn (now.filter fun f => f.kind != .x)
  let rest := (fly.filter fun f => !(f.left == 0 && moves f)).map fun f => if moves f then { f with left := f.left - 1 } else f
  let s2 := due.foldl (fun s f => landOne s r f) { s.modBank r fun b => { b with fly := rest } with turns := [] }
  { s2 with turns := s2.turns ++ s.turns }

/-! ### What holds an instruction -/

/-- Why an instruction is held: whether the stream counts as blocked (R358), and whether it is held on a flag (R349). -/
structure Hold where
  blocked : Bool
  flag : Bool
  deriving DecidableEq, Repr

def holdFlag : Hold := ⟨true, true⟩      -- full/empty, token queues
def holdBlocked : Hold := ⟨true, false⟩  -- CQ, semaphore, crossing
def holdFlagOnly : Hold := ⟨false, true⟩ -- SSYNC, COLLW
def holdPlain : Hold := ⟨false, false⟩   -- anything else

/-- Instructions that a FENCE holds (R150). -/
def fenced : Instr → Bool
  | .ld .. | .st .. | .ldt .. | .stt .. | .ldl .. | .stl .. | .waita .. => true
  | _ => false

/-- A non-temporal store (R143). -/
def QEntry.isNt (e : QEntry) : Bool := match e.op with | .st _ _ _ _ nt => nt | _ => false
/-- Whether an entry still has to perform before position q of the stream's program order, non-temporal stores apart (R149, R150). -/
def earlierPending (b : Bank) (q : Nat) : Bool := b.lq.any (fun e => decide (e.seq < q)) || b.sq.any (fun e => decide (e.seq < q) && !e.isNt)

/-- An entry that a page fault has put aside still has to perform too (R150, R360). -/
def replayPending (b : Bank) (q : Nat) : Bool := b.replay.any fun e => decide (e.seq < q) && !e.isNt

/-- A FENCE is over once every earlier access has performed; at scope die and wider the Suite's L1 is then invalidated (R150, R57). -/
def settleFence (s : State) (r : BankRef) : State :=
  match (s.bank r).fence with
  | none => s
  | some (q, inval) =>
    if earlierPending (s.bank r) q || replayPending (s.bank r) q then s
    else
      let s1 := s.modBank r fun b => { b with fence := none }
      match r with
      | .bank u _ => if inval then l1Clear s1 u else s1
      | .ctx _ => s1

/-- A command of the Visit in the M or C queue of any Suite of its envelope (R124, R210). -/
def queuedCommands (s : State) (r : BankRef) : Bool :=
  match r, (s.bank r).visit with
  | .bank _ b, some v => (wingRooms v.lead v.shape.val).any fun u => ((s.suite u).mq ++ (s.suite u).cqueue).any fun c => c.bank == b && !c.discard
  | _, _ => false

/-- The mode of the line last issued from (R124). -/
def lastMode (s : State) (ag : Agent) : Option Bool :=
  if ag.kind = .chanter then (s.suite ag.suite).chanter.lineMode else (s.stream ag).lineMode
def setLastMode (s : State) (ag : Agent) (m : Bool) : State :=
  if ag.kind = .chanter then s.modSuite ag.suite fun x => { x with chanter := { x.chanter with lineMode := some m } }
  else s.modStream ag fun x => { x with lineMode := some m }
/-- The mode bit of the present line. -/
def lineMode (s : State) (ag : Agent) : Bool :=
  match imageOf s ag.bank with
  | some im => im.inter (posOf s ag / 16)
  | none => true

/-- A crossing between line modes waits for the stream's results and, for the A- and X-stream, for the command queues (R124). -/
def crossingHeld (s : State) (ag : Agent) : Bool :=
  !forcedOf s ag.bank &&
  match lastMode s ag with
  | none => false
  | some m => m != lineMode s ag && (!(pendingRegs s ag).isEmpty
      || (s.bank ag.bank).fly.any (fun f => f.kind == ag.kind) || (ag.kind != .chanter && queuedCommands s ag.bank))

/-- A fixed-latency result; the reads of a VACC are none. -/
def Flight.fixed (f : Flight) : Bool := !f.var && f.res.any fun x => match x with | .accRead .. => false | _ => true

/-- Fixed-latency results in flight on the A issue port, or of the X-streams of both banks (R123). -/
def inFlight (s : State) (ag : Agent) : Nat :=
  let n := fun (b : Bank) => (b.fly.filter fun f => f.fixed && (f.kind == .x) == (ag.kind == .x)).length
  match ag.bank with
  | .bank u _ => n ((s.suite u).banks.get 0) + n ((s.suite u).banks.get 1)
  | .ctx _ => n (s.bank ag.bank)

/-- Whether the wait field's semaphore is non-zero (R48). -/
def semReady (s : State) (ag : Agent) (w : BitVec 4) : Bool :=
  !w.getLsbD 3 || (s.stream ag).sems.get ⟨w.toNat % 8, by omega⟩ != 0
def semTake (s : State) (ag : Agent) (w : BitVec 4) : State :=
  if w.getLsbD 3 then
    s.modStream ag fun x => { x with sems := x.sems.set (w.toNat % 8) (x.sems.get ⟨w.toNat % 8, by omega⟩ - 1) (by omega) }
  else s

/-- An EWR of the stream that has not landed (R188). -/
def ewrPending (s : State) (ag : Agent) : Bool :=
  ag.kind == .x && (s.bank ag.bank).fly.any fun f => f.kind == .x && f.res.any fun x => match x with | .csr .. => true | _ => false

/-- A Steward stream issues nothing after a memory access before it has performed, a wait too, so that its fault names it and no later instruction
has issued (R395, log 17). -/
def stewardHeld (s : State) (ag : Agent) : Bool :=
  ag.bank.isCtx && ag.kind == .a && (!(s.bank ag.bank).lq.isEmpty || !(s.bank ag.bank).sq.isEmpty)

/-- A scan command that the controller has taken (R319). -/
def ScanCmd.taken (x : ScanCmd) : Bool := x.pendingStop || x.shifting || x.awaitStop || x.waitRun

/-- A FENCE or a release store of a Steward context waits until the controller has taken every earlier scan command (R319). -/
def scanHeld (s : State) (ag : Agent) (i : Instr) : Bool :=
  (match i with | .fence .. => true | .st _ _ _ ord _ _ _ => ord == 2 | _ => false) &&
  (match ag.bank with | .ctx c => (s.ctx c).scans.any fun x => !x.taken | .bank .. => false)

/-- A fixed-latency instruction whose result would be one too many in flight (R123). -/
def flightsFull (s : State) (ag : Agent) (i : Instr) : Bool :=
  match i.resultClass with
  | some cls => decide (1 < latencyOf s ag.bank cls) && decide ((if ag.kind = .x then 48 else 8) ≤ inFlight s ag)
  | none => false

/-- The waits that any instruction can meet before it issues. A FENCE holds the A-stream that issued it, not the chanter. -/
def commonHold (s : State) (ag : Agent) (i : Instr) (w : BitVec 4) : Option Hold :=
  if crossingHeld s ag then some holdBlocked
  else if !semReady s ag w then some holdBlocked
  else if ewrPending s ag then some holdPlain
  else if stewardHeld s ag then some holdPlain
  else if scanHeld s ag i then some holdPlain
  else if interlocked s ag && (regsOf s ag i).any (pendingRegs s ag).contains then some holdPlain
  else if flightsFull s ag i then some holdPlain
  else if ag.kind == .a && fenced i && ((settleFence s ag.bank).bank ag.bank).fence.isSome then some holdPlain
  else none

/-! ### The advance of the position (R17, R132, R135) -/

/-- One round of the loop rule at an instruction's position: the most recently started active loop that ends there. -/
def loopRound (st : Stream) (pos : Nat) : Option (Fin 6) :=
  ((List.finRange 6).filter fun i => (st.loops.get i).active && (st.loops.get i).stop == pos).foldl
    (fun best i => match best with
      | none => some i
      | some j => if (st.loops.get j).age < (st.loops.get i).age then some i else best) none

/-- The loop rule of R135 applied until a loop goes round or none ends here. Answers the next position, the stream, and the iterations
completed as (loop id, count since its LOOP). -/
def loopEnd (pos next : Nat) : Nat → Stream → Nat × Stream × List (Nat × Nat)
  | 0, st => (next, st, [])
  | n + 1, st =>
    match loopRound st pos with
    | none => (next, st, [])
    | some i =>
      let l := st.loops.get i
      let l' := { l with counter := l.counter - 1, done := l.done + 1, active := l.counter != 1 }
      let st' := { st with loops := st.loops.set i.val l' i.isLt }
      if l.counter ≠ 1 then (l.start, st', [(i.val, l'.done)])
      else
        let (p, st'', it) := loopEnd pos next n st'
        (p, st'', (i.val, l'.done) :: it)

/-- The position after an instruction that does not transfer control. -/
def sequential (s : State) (ag : Agent) (words : Nat) : Nat :=
  match agentImage s ag with
  | some im => nextPos im (posOf s ag) words
  | none => posOf s ag + words

/-- Moves on after an instruction that does not transfer control. -/
def advance (s : State) (ag : Agent) (words : Nat) : State :=
  let pos := posOf s ag
  let next := sequential s ag words
  if ag.kind = .chanter ∨ ag.kind = .drain then setPos s ag next
  else
    let (p, st, it) := loopEnd pos next 6 (s.stream ag)
    let s1 := s.modStream ag fun _ => { st with pos := p }
    it.foldl (fun s (lid, n) => loopIteration s ag lid n) s1

/-- Where an active hardware loop takes its stream back to after the instruction at its position, if that does not transfer control; no loop starts at
the position that stands for none. -/
def loopReturn (s : State) (ag : Agent) : Option Nat :=
  if ag.kind = .chanter ∨ ag.kind = .drain then none
  else if (loopEnd (posOf s ag) (2 ^ 40) 6 (s.stream ag)).1 = 2 ^ 40 then none else some (loopEnd (posOf s ag) (2 ^ 40) 6 (s.stream ag)).1

/-- A hardware loop that would return to a line that the stream may not enter (R127, R357). -/
def loopBad (s : State) (ag : Agent) : Option Nat := (loopReturn s ag).filter (targetBad s ag)

/-! ### The protocol of R364 -/

/-- What an instruction asks of the issue protocol: its own waits, its traps of stages 2 and 3 with tval, where it transfers control, and its
effect, which runs after the position has moved. `onHold` is what a wait of its own does. `wait` describes a flag wait for its record: flag, setter, sub (R350). -/
structure Plan where
  hold : Option Hold := none
  trap : Option (BitVec 8 × Word) := none
  retNext : Bool := false
  jump : Option Nat := none
  words : Nat := 1
  wait : Nat × Nat × Nat := (0, 0, 0)
  act : State → State := fun s => s
  onHold : State → State := fun s => s

/-- A held stream: blocked and flag marks of this cycle, and the count of wait cycles (R345, R349, R358). -/
def markHeld (s : State) (ag : Agent) (h : Hold) : State :=
  if ag.kind = .chanter then s
  else
    let s1 := s.modStream ag fun x => { x with blocked := h.blocked, flagHeld := h.flag }
    if h.flag then countEvents s1 ag.bank 7 1 else s1

/-- The end of a flag wait, where the instruction was held on one: its record is due (R349). -/
def endWait (s : State) (ag : Agent) (p : Plan) : State :=
  if (s.stream ag).flagWait = 0 ∨ ag.kind = .chanter then s else
    (waitRecord s ag p.wait.1 (s.stream ag).flagWait p.wait.2.1 p.wait.2.2).modStream ag fun x => { x with flagWait := 0 }

/-- An instruction issues: it is counted, its wait ends, and the position moves before the effect. -/
def complete (s : State) (ag : Agent) (w : BitVec 4) (p : Plan) : State :=
  let s2 := endWait (settleFence (semTake s ag w) ag.bank) ag p
  let s3 := countEvents (setLastMode s2 ag (lineMode s ag)) ag.bank (if ag.kind = .x then 6 else 5) 1
  let s4 := if ag.kind = .x then s3 else match ag.bank with
    | .bank u _ => s3.modSuite u fun x => { x with aPort := true }
    | .ctx _ => s3
  let s5 := match p.jump with
    | some t => setPos s4 ag t
    | none => advance s4 ag p.words
  p.act s5

/-- The trap of a Steward stream reads the handler and the frame's place: in an interlocked line it waits for an earlier write of them (R122, R356). -/
def trapHeld (s : State) (ag : Agent) (cause : BitVec 8) : Bool :=
  ag.bank.isCtx && interlocked s ag && [0x040 + causeBlock cause, 0x048, 0x049].any fun n => (pendingRegs s ag).contains (.csr n)

/-- A trap that the running stream's instruction raises. -/
def issueTrap (s : State) (ag : Agent) (cause : BitVec 8) (tval : Word) (ret : Nat) : State :=
  if trapHeld s ag cause then markHeld s ag holdPlain else takeTrap s ag cause tval ret

/-- Stages 1 to 3 of R364 for the running stream's instruction, and its issue. The return of a hardware loop is a transfer of the instruction at its
end, judged last (R127, R357). -/
def issueState (i : Instr) (w : BitVec 4) (p : State → Agent → Plan) (s : State) : State :=
  let ag := s.cur
  match stage1 s ag i with
  | some c => issueTrap s ag c 0 (posOf s ag)
  | none =>
    match commonHold s ag i w with
    | some h => markHeld s ag h
    | none =>
      match (p s ag).hold with
      | some h => (p s ag).onHold (markHeld s ag h)
      | none =>
        match (p s ag).trap with
        | some (c, v) => issueTrap (endWait s ag (p s ag)) ag c v (if (p s ag).retNext then sequential s ag (p s ag).words else posOf s ag)
        | none =>
          match (if (p s ag).jump.isNone then loopBad s ag else none) with
          | some q => issueTrap (endWait s ag (p s ag)) ag cLINKERR (BitVec.ofNat 64 (q / 16)) (posOf s ag)
          | none => complete s ag w (p s ag)

/-- The meaning of an encoded instruction. -/
def issue (i : Instr) (w : BitVec 4) (p : State → Agent → Plan) (s : State) : Host.Outcome State Fault Refusal := .next (issueState i w p s)

end Sys2Proof.Machine
end

