-- ==== Sys2Proof/Machine/Fed.lean ====
section
/-! DEFINITION. The nest table's fields, the bank groups that running nests feed, and the Local Store checks: spec/08_rooms_and_wings.md
R199, R203-R204, spec/02_state_and_addressing.md R56, spec/06_access_instructions.md R144. -/

namespace Sys2Proof.Machine

/-- A field of a nest table (R199). -/
def nestField (n : NestSet) (off len : Nat) : Nat := fieldAt n.table.toList off len
def nestNlev (n : NestSet) : Nat := nestField n 0 1
def nestFlev (n : NestSet) : Nat := nestField n 1 1
def nestDlev (n : NestSet) : Nat := nestField n 2 1
def nestAbg (n : NestSet) : Nat := nestField n 3 1 % 4
def nestBbg (n : NestSet) : Nat := nestField n 3 1 / 4 % 4
def nestDmode (n : NestSet) : Nat := nestField n 4 1
def nestAbase (n : NestSet) : Nat := nestField n 8 4
def nestBbase (n : NestSet) : Nat := nestField n 0xc 4
def nestCbase (n : NestSet) : Nat := nestField n 0x10 4
def nestCpitch (n : NestSet) : Nat := nestField n 0x14 4
def nestScl (n : NestSet) : Nat := nestField n 0x18 4
def nestSsc (n : NestSet) : Nat := nestField n 0x1c 4
/-- Trip count and strides of level i (R199). -/
def nestTrip (n : NestSet) (i : Nat) : Nat := nestField n (64 + 64 * i) 4
def nestAstride (n : NestSet) (i : Nat) : Int := signedOf 32 (nestField n (68 + 64 * i) 4)
def nestBstride (n : NestSet) (i : Nat) : Int := signedOf 32 (nestField n (72 + 64 * i) 4)
def nestCstride (n : NestSet) (i : Nat) : Int := signedOf 32 (nestField n (76 + 64 * i) 4)

/-- The bank groups of a Suite that a running nest of its wing still feeds: a_bg in the rooms of the west edge, b_bg in those of the north edge,
until the last beat-step has entered (R203). -/
def fedGroups (s : State) (u : SuiteId) : List Nat :=
  let lead := (s.room u).wingLead
  (s.room lead).runs.flatMap fun r =>
    if r.drone || (decide (r.total ≤ r.nextStep) && r.lastIn != some s.cycle) then []
    else
      (if roomCol u = roomCol lead then [nestAbg r.set] else []) ++ (if roomRow u = roomRow lead then [nestBbg r.set] else [])

/-- Whether a range of the Local Store touches a fed group (R204). -/
def touchesFed (s : State) (u : SuiteId) (a n : Nat) : Bool :=
  let g := fedGroups s u
  !g.isEmpty && (List.range 4).any fun k => g.contains k && decide (a < (k + 1) * 0x200000) && decide (k * 0x200000 < a + n)

/-- The address checks of a Local Store access, in the order of R368: PROT above bit 22, MISALIGN, PROT outside the scratchpad. -/
def lsTrap (s : State) (u : SuiteId) (addr : Word) (align n : Nat) : Option (BitVec 8 × Word) :=
  if addr.toNat / 2 ^ 23 ≠ 0 then some (cPROT, 0)
  else if addr.toNat % align ≠ 0 then some (cMISALIGN, 0)
  else if !inScratch (s.suite u) addr.toNat n then some (cPROT, 0)
  else none

/-- An acquire read of the stream that has not performed holds its later Local Store accesses (R143). -/
def acquirePending (b : Bank) : Bool :=
  b.lq.any fun e => match e.op with | .ld _ _ _ _ (some _) => true | .waita .. => true | _ => false

end Sys2Proof.Machine
end

