-- ==== Sys2Proof/Machine/LoadStore.lean ====
section
/-! DEFINITION. Loads, stores, the Local Store, tile fills and drains, prefetch, the ordering instructions and WAITA, with the events that
perform their queue entries: spec/06_access_instructions.md R139-R152, spec/11_memory_model.md R255-R259, spec/17_faults_execution.md R360,
spec/18_instruction_exceptions.md R368, spec/20_faults_memory.md R394-R407. -/

namespace Sys2Proof.Machine

/-! ### Queue entries -/

/-- A queue entry of the issuing instruction takes the next place in program order. -/
def pushEntry (s : State) (ag : Agent) (store : Bool) (op : QOp) (dn : BitVec 4) (ret : Nat) : State :=
  s.modBank ag.bank fun b =>
    let e : QEntry := ⟨b.nextSeq, op, dn, ret, s.cycle⟩
    if store then { b with sq := b.sq ++ [e], nextSeq := b.nextSeq + 1 } else { b with lq := b.lq ++ [e], nextSeq := b.nextSeq + 1 }

/-- The stage-2 checks of a memory address (R139, R368). -/
def vaTrap (va : Word) (align : Nat) : Option (BitVec 8 × Word) :=
  if va.toNat / 2 ^ 52 ≠ 0 then some (cSEGNP, va) else if va.toNat % align ≠ 0 then some (cMISALIGN, va) else none

/-- A DRNT of the stream that has not completed holds a release store and a FENCE (R151, R259). -/
def drntPending (b : Bank) : Bool := b.sq.any fun e => match e.op with | .drnt _ => true | _ => false

/-- LD (R139, R140). -/
def execLd (d s1 : BitVec 5) (size : BitVec 2) (sgn : BitVec 1) (ord : BitVec 2) (dn : BitVec 4) (sub : BitVec 2) (w : BitVec 4) (s : State) :
    Host.Outcome State Fault Refusal :=
  issue (.ld d s1 size sgn ord dn sub w) w (fun s ag =>
    let va := readA s ag s1
    { trap := vaTrap va (2 ^ size.toNat)
      act := fun t => pushEntry t ag false (.ld d va size (sgn == 1) (if ord = 1 then some sub else none)) dn (posOf s ag) }) s

/-- ST (R139, R141, R143). -/
def execSt (d s1 : BitVec 5) (size : BitVec 2) (ord : BitVec 2) (dn : BitVec 4) (sub : BitVec 2) (w : BitVec 4) (s : State) :
    Host.Outcome State Fault Refusal :=
  issue (.st d s1 size ord dn sub w) w (fun s ag =>
    let va := readA s ag s1
    { hold := if ord = 2 ∧ drntPending (s.bank ag.bank) then some holdPlain else none
      trap := vaTrap va (2 ^ size.toNat)
      act := fun t => pushEntry t ag true (.st va size (readA s ag d) (if ord = 2 then some sub else none) (ord == 3)) dn (posOf s ag) }) s

/-! ### The Local Store -/

/-- A loaded value: zero- or sign-extended (R140). -/
def loadValue (size : BitVec 2) (sgn : Bool) (bs : List Byte) : Word :=
  let n := leNat bs
  if sgn then BitVec.ofInt 64 (signedOf (8 * 2 ^ size.toNat) n) else BitVec.ofNat 64 n

/-- A read in a fed group waits for a free bank cycle, which comes by free choice (R203). -/
def fedReadHold (s : State) (u : SuiteId) (a n : Nat) : Option Hold :=
  if touchesFed s u a n && decide (Config.choice s.fresh % 2 = 1) then some holdPlain else none

/-- A Local Store access of the A-stream waits for an earlier acquire of the stream, the chanter being another agent (R143). -/
def lsHold (s : State) (ag : Agent) : Option Hold := if ag.kind == .a && acquirePending (s.bank ag.bank) then some holdPlain else none

/-- LDL reads at issue; its result lands after class C3 (R144). -/
def execLdl (d s1 : BitVec 5) (size : BitVec 2) (sgn : BitVec 1) (w : BitVec 4) (s : State) : Host.Outcome State Fault Refusal :=
  issue (.ldl d s1 size sgn w) w (fun s ag =>
    let a := readA s ag s1
    let n := 2 ^ size.toNat
    { hold := (lsHold s ag).or (fedReadHold s ag.suite a.toNat n)
      trap := lsTrap s ag.suite a n n
      act := fun t => emit t ag 3 [.a d (loadValue size (sgn == 1) (lsRead s ag.suite a.toNat n))] }) s

/-- STL writes at issue (R144); into a fed group it traps BANKCF (R204, R381). -/
def execStl (d s1 : BitVec 5) (size : BitVec 2) (w : BitVec 4) (s : State) : Host.Outcome State Fault Refusal :=
  issue (.stl d s1 size w) w (fun s ag =>
    let a := readA s ag s1
    let n := 2 ^ size.toNat
    { hold := lsHold s ag
      trap := (lsTrap s ag.suite a n n).or (if touchesFed s ag.suite a.toNat n then some (cBANKCF, 0) else none)
      act := fun t => lsWrite t ag.suite a.toNat (leBytes n (readA s ag d).toNat) }) s

/-! ### Tile boxes (R145) -/

/-- A box descriptor's fields. -/
def parseBox (l : List Byte) : TileBox :=
  { seg := fieldAt l 0 2, rowDim := fieldAt l 2 1, colDim := fieldAt l 3 1, rows := fieldAt l 4 1, cols := fieldAt l 6 2,
    origin := (List.range 6).map fun i => signedOf 32 (fieldAt l (8 + 4 * i) 4), pad := BitVec.ofNat 64 (fieldAt l 0x20 8) }

/-- The coordinates of element idx of a box, rows first (R145). -/
def TileBox.coord (x : TileBox) (idx : Nat) : List Int :=
  (List.range 6).map fun i =>
    x.origin.getD i 0 + (if i = x.rowDim then (idx / x.cols : Nat) else 0) + (if i = x.colDim then (idx % x.cols : Nat) else 0)

/-- Whether coordinates lie outside a segment (R145). -/
def outsideOf (d : Desc) (x : List Int) : Bool := (x.zip d.dims).any fun (v, n) => decide (v < 0) || decide ((n : Int) ≤ v)
/-- The byte offset of coordinates inside. -/
def offsetOf (d : Desc) (x : List Int) : Nat := d.offset (x.map Int.toNat)

/-- The element number that R62 or R63 gives for coordinates of any sign, by floor division, and its byte offset. -/
def Desc.elemInt (d : Desc) (x : List Int) : Int :=
  let nest := fun (v : List Int) (n : List Nat) => (v.zip n).foldr (fun (p : Int × Nat) acc => p.1 + (p.2 : Int) * acc) 0
  if d.tiled then
    let nt := (d.dims.zip d.tshape).map fun (n, t) => (n + t - 1) / t
    nest ((x.zip d.tshape).map fun (v, t) => v.fdiv t) nt * (d.telems : Int) + nest ((x.zip d.tshape).map fun (v, t) => v.fmod t) d.tshape
  else nest x d.dims
def Desc.offsetInt (d : Desc) (x : List Int) : Int := if d.fmt = .cb4 then (d.elemInt x).fdiv 2 else d.elemInt x * d.fmt.esz

def outside47 (v : Int) : Bool := decide (v < -(2 ^ 47)) || decide (2 ^ 47 ≤ v)

/-- Whether a position leaves the signed 48-bit range, as coordinates or as the layout maps it. Both grow with every coordinate, so that the first and
the last position of a box decide for all (R145, R242). -/
def Desc.strays (d : Desc) (x : List Int) : Bool := x.any outside47 || outside47 (d.offsetInt x)

/-- The checks of R368 on the 64 bytes of a box descriptor, in order. -/
def boxCheck (s : State) (t : TenantId) (l : List Byte) : Option (BitVec 8 × Word) :=
  let x := parseBox l
  if x.rows = 0 ∨ 128 < x.rows ∨ x.cols = 0 ∨ 512 < x.cols ∨ fieldAt l 5 1 ≠ 0 ∨ fieldAt l 0x28 24 ≠ 0 then some (cILLFLD, 0)
  else
    match (getDesc s t x.seg).1 with
    | none => some (cSEGNP, BitVec.ofNat 64 (x.seg * 2 ^ 36))
    | some d =>
      if d.rank ≤ x.rowDim ∨ d.rank ≤ x.colDim ∨ x.rowDim = x.colDim ∨ 256 < bytesOf d.fmt x.cols then some (cILLFLD, 0)
      else if d.fmt = .cb4 ∧ (x.colDim ≠ 0 ∨ x.origin.headD 0 % 2 ≠ 0 ∨ x.cols % 2 ≠ 0) then some (cMISALIGN, 0)
      else if [0, x.rows * x.cols - 1].any fun i => d.strays (x.coord i) then some (cCPYOVF, 0)
      else none

/-- The stage-2 checks of R368 on a box, in order. -/
def boxTrap (s : State) (ag : Agent) (addr : Word) : Option (BitVec 8 × Word) :=
  if addr.toNat % 64 ≠ 0 then some (cMISALIGN, 0)
  else if addr.toNat / 2 ^ 23 ≠ 0 ∨ !inScratch (s.suite ag.suite) addr.toNat 64 then some (cPROT, 0)
  else boxCheck s (tenantOf s ag.bank) (lsRead s ag.suite addr.toNat 64)

/-- A produce waits while the tile is full or being produced; a consume while it is empty or being consumed (R47). -/
def produceHold (s : State) (u : SuiteId) (t : Fin 48) : Option Hold :=
  if (tileFlag s u t).full || (tileFlag s u t).producing then some holdFlag else none
def consumeHold (s : State) (u : SuiteId) (t : Fin 48) : Option Hold :=
  if !(tileFlag s u t).full || (tileFlag s u t).consuming then some holdFlag else none

/-- The wait record of a full/empty wait: tile, setter, kind 2 (R350). -/
def tileWait (s : State) (u : SuiteId) (t : Fin 48) : Nat × Nat × Nat := (t.val, u.val + 4096 * (tileFlag s u t).setter.toNat, 2)

/-- The semaphore result of done fields. -/
def semResult (dn : BitVec 4) : List Result := if dn.getLsbD 3 then [.sem (dn.setWidth 3)] else []

/-- A result of variable latency lands after a free number of cycles (R121). -/
def landFree (s : State) (r : BankRef) (k : StreamKind) (res : List Result) : State :=
  landLater { s with fresh := s.fresh + 1 } r k res s.cycle (Config.choice s.fresh)

/-- 32 KiB of the Local Store as a tile, and back (R146, R147). -/
def tileOfBytes (l : List Byte) : Tile :=
  let v := l.toArray
  Vector.ofFn fun i => Vector.ofFn fun j => v.getD (256 * i.val + j.val) 0
def bytesOfTile (t : Tile) : List Byte := t.toList.flatMap fun r => r.toList

/-- LDT (R146). -/
def execLdt (t : BitVec 6) (s1 : BitVec 5) (src : BitVec 1) (dn : BitVec 4) (w : BitVec 4) (s : State) : Host.Outcome State Fault Refusal :=
  issue (.ldt t s1 src dn w) w (fun s ag =>
    let a := readA s ag s1
    let u := ag.suite
    let p := physTile s ag.bank t
    let mark := fun (x : State) => modTileFlag x u p fun f => { f with producing := true }
    if src = 1 then
      { hold := ((lsHold s ag).or (produceHold s u p)).or (fedReadHold s u a.toNat 32768)
        wait := tileWait s u p
        trap := if a.toNat % 256 ≠ 0 then some (cMISALIGN, 0) else lsTrap s u a 256 32768
        act := fun x => landFree (mark x) ag.bank ag.kind (.tile p (tileOfBytes (lsRead s u a.toNat 32768)) true :: semResult dn) }
    else
      { hold := (lsHold s ag).or (produceHold s u p)
        wait := tileWait s u p
        trap := boxTrap s ag a
        act := fun x =>
          let b := parseBox (lsRead s u a.toNat 64)
          pushEntry (mark x) ag false (.ldt p b Tile.zero (List.range (b.rows * b.cols))) dn (posOf s ag) }) s

/-- STT (R147). -/
def execStt (t : BitVec 6) (s1 : BitVec 5) (src : BitVec 1) (dn : BitVec 4) (w : BitVec 4) (s : State) : Host.Outcome State Fault Refusal :=
  issue (.stt t s1 src dn w) w (fun s ag =>
    let a := readA s ag s1
    let u := ag.suite
    let p := physTile s ag.bank t
    let mark := fun (x : State) => modTileFlag x u p fun f => { f with consuming := true }
    if src = 1 then
      { hold := (lsHold s ag).or (consumeHold s u p)
        wait := tileWait s u p
        trap := (if a.toNat % 256 ≠ 0 then some (cMISALIGN, (0 : Word)) else lsTrap s u a 256 32768).or
          (if touchesFed s u a.toNat 32768 then some (cBANKCF, 0) else none)
        act := fun x => landFree (mark (lsWrite x u a.toNat (bytesOfTile (readTile s u p)))) ag.bank ag.kind (.consume p :: semResult dn) }
    else
      { hold := (lsHold s ag).or (consumeHold s u p)
        wait := tileWait s u p
        trap := boxTrap s ag a
        act := fun x =>
          let b := parseBox (lsRead s u a.toNat 64)
          pushEntry (mark x) ag true (.stt p b (readTile s u p) (List.range (b.rows * b.cols))) dn (posOf s ag) }) s

/-! ### Moving the elements of a box -/

/-- An element's value in a tile row image: bytes esz·c upward, or the nibble of code c (R45). -/
def tileElem (t : Tile) (f : Fmt) (r c : Nat) : Nat :=
  let row := (t.toList.getD r (Vector.replicate 256 0)).toList
  if f = .cb4 then natBits ((row.getD (c / 2) 0).toNat) (4 * (c % 2)) 4 else leNat (bytesAt row (f.esz * c) f.esz)

/-- A tile with bytes replaced in one row. -/
def setRowBytes (t : Tile) (r off : Nat) (bs : List Byte) : Tile :=
  if h : r < 128 then
    let row := t[r]
    t.set r (bs.zipIdx.foldl (fun (x : Vector Byte 256) (b, i) => if hi : off + i < 256 then x.set (off + i) b hi else x) row) h
  else t

/-- A tile with one element replaced (R45). -/
def setTileElem (t : Tile) (f : Fmt) (r c v : Nat) : Tile :=
  if f = .cb4 then
    let old := ((t.toList.getD r (Vector.replicate 256 0)).toList.getD (c / 2) 0).toNat
    let new := if c % 2 = 0 then old / 16 * 16 + v % 16 else old % 16 + 16 * (v % 16)
    setRowBytes t r (c / 2) [BitVec.ofNat 8 new]
  else setRowBytes t r (f.esz * c) (leBytes f.esz v)

/-- The read of one element (R146): pad where it lies outside. -/
def loadElem (s : State) (r : BankRef) (t : TenantId) (d : Desc) (x : TileBox) (idx : Nat) : Mres Nat × State :=
  let c := x.coord idx
  if outsideOf d c then (.ok (natBits x.pad.toNat 0 d.fmt.width), s)
  else
    match loadBytes s r t x.seg d (offsetOf d c) d.fmt.esz false with
    | (.ok bs, s1) => (.ok (if d.fmt = .cb4 then natBits (leNat bs) (4 * (d.elem (c.map Int.toNat) % 2)) 4 else leNat bs), s1)
    | (.fault e, s1) => (.fault e, s1)
    | (.wait, s1) => (.wait, s1)

/-- A write of half a byte, indivisible on its byte (R254). -/
def storeNibble (s : State) (r : BankRef) (t : TenantId) (seg : Nat) (d : Desc) (off half v setter : Nat) (cross : Bool := false) :
    Mres Unit × State :=
  match translate s t seg d off true cross with
  | (.ok (pa, slot), s1) =>
    let old := (physByte s1 slot pa).toNat
    storeBytes s1 r t seg d off [BitVec.ofNat 8 (if half = 0 then old / 16 * 16 + v % 16 else old % 16 + 16 * (v % 16))] setter cross
  | (.fault e, s1) => (.fault e, s1)
  | (.wait, s1) => (.wait, s1)

/-- The write of one element; a write outside is suppressed (R147). -/
def storeElem (s : State) (r : BankRef) (t : TenantId) (d : Desc) (x : TileBox) (idx v : Nat) : Mres Unit × State :=
  let c := x.coord idx
  if outsideOf d c then (.ok (), s)
  else if d.fmt = .cb4 then storeNibble s r t x.seg d (offsetOf d c) (d.elem (c.map Int.toNat) % 2) v r.source
  else storeBytes s r t x.seg d (offsetOf d c) (leBytes d.fmt.esz v) r.source

/-- The virtual address of an element, for traps and watchpoints (R394); an offset of 2^36 or more carries into the segment field (DESIGN CHOICE,
log 52). -/
def elemVa (d : Desc) (x : TileBox) (idx : Nat) : Nat := x.seg * 2 ^ 36 + offsetOf d (x.coord idx)

/-- The reads of a tile fill, in a given order, until one fails: the tile, the elements left and how the last one ended. -/
def loadElems (s : State) (r : BankRef) (t : TenantId) (d : Desc) (x : TileBox) (tile : Tile) : List Nat → Mres Unit × Tile × List Nat × State
  | [] => (.ok (), tile, [], s)
  | i :: rest =>
    match loadElem s r t d x i with
    | (.ok v, s1) => loadElems s1 r t d x (setTileElem tile d.fmt (i / x.cols) (i % x.cols) v) rest
    | (.fault e, s1) => (.fault e, tile, i :: rest, s1)
    | (.wait, s1) => (.wait, tile, i :: rest, s1)

/-- The writes of a tile drain, in box order, until one fails. -/
def storeElems (s : State) (r : BankRef) (t : TenantId) (d : Desc) (x : TileBox) (tile : Tile) : List Nat → Mres Unit × List Nat × State
  | [] => (.ok (), [], s)
  | i :: rest =>
    match storeElem s r t d x i (tileElem tile d.fmt (i / x.cols) (i % x.cols)) with
    | (.ok _, s1) => storeElems s1 r t d x tile rest
    | (.fault e, s1) => (.fault e, i :: rest, s1)
    | (.wait, s1) => (.wait, i :: rest, s1)

/-- The first element of a box inside its segment that touches the watched range (R352). -/
def watchedElem (s : State) (t : TenantId) (u : SuiteId) (store : Bool) (d : Desc) (x : TileBox) : Option Nat :=
  (List.range (x.rows * x.cols)).find? fun i => !outsideOf d (x.coord i) && watchHit s t u store (elemVa d x i) d.fmt.esz

/-- A watchpoint of a bank's tile access. -/
def watchBox (s : State) (ag : Agent) (store : Bool) (d : Desc) (x : TileBox) : State :=
  if dbgOn s (tenantOf s ag.bank) then
    match watchedElem s (tenantOf s ag.bank) ag.suite store d x with
    | some i => watchAccess s ag store (elemVa d x i) d.fmt.esz
    | none => s
  else s

/-! ### When an entry may perform (R142, R143, R149, R259) -/

/-- A read that is an acquire, or may yet be one. -/
def QEntry.isAcquire (e : QEntry) : Bool := match e.op with | .ld _ _ _ _ (some _) => true | .waita .. => true | _ => false
def QEntry.isRelease (e : QEntry) : Bool := match e.op with | .st _ _ _ (some _) _ => true | _ => false
def QEntry.isDrnt (e : QEntry) : Bool := match e.op with | .drnt _ => true | _ => false

/-- Whether an ALIGN ahead of an entry still holds it (R149). -/
def alignHolds (b : Bank) (e : QEntry) : Bool := b.aligns.any fun q => decide (q ≤ e.seq) && earlierPending b q

/-- Whether an entry that heads its queue may perform now. -/
def mayPerform (b : Bank) (e : QEntry) : Bool :=
  e.isNt ||
    (!b.lq.any (fun f => f.isAcquire && decide (f.seq < e.seq)) && !alignHolds b e
      && !(e.isRelease && earlierPending b e.seq) && !e.isDrnt)

/-- The entry that performs next: the head of a queue, or a non-temporal store by free choice (R143). -/
def chooseEntry (s : State) (r : BankRef) (store : Bool) : Option QEntry × State :=
  let b := s.bank r
  if !store then ((b.lq.head?).filter (mayPerform b), s)
  else
    let head := ((b.sq.find? fun e => !e.isNt).filter (mayPerform b)).toList
    let all := head ++ b.sq.filter (·.isNt)
    if all.length ≤ 1 then (all.head?, s) else let (k, s1) := chooseBelow s all.length; (all[k]?, s1)

def eraseEntry (l : List QEntry) (seq : Nat) : List QEntry := l.filter fun e => e.seq != seq
def dropEntry (s : State) (r : BankRef) (seq : Nat) : State :=
  let s1 := s.modBank r fun b =>
    let b1 := { b with lq := eraseEntry b.lq seq, sq := eraseEntry b.sq seq }
    { b1 with aligns := b1.aligns.filter fun q => earlierPending b1 q || b1.replay.any fun e => decide (e.seq < q) }
  settleFence s1 r
def replaceEntry (s : State) (r : BankRef) (e : QEntry) : State :=
  s.modBank r fun b => { b with lq := b.lq.map (fun f => if f.seq = e.seq then e else f), sq := b.sq.map fun f => if f.seq = e.seq then e else f }

/-! ### Page faults (R360, R395) -/

def insertSeq (e : QEntry) : List QEntry → List QEntry
  | [] => [e]
  | f :: t => if e.seq < f.seq then e :: f :: t else f :: insertSeq e t
/-- Entries in program order. -/
def sortSeq (l : List QEntry) : List QEntry := l.foldl (fun acc e => insertSeq e acc) []

/-- Whether R259 orders e after f; `store` says which queue each is in. -/
def orderedAfter (aligns : List Nat) (f e : Bool × QEntry) : Bool :=
  decide (f.2.seq < e.2.seq) && !e.2.isNt &&
    ((f.1 == e.1 && !f.2.isNt) || f.2.isAcquire || (e.2.isRelease && !f.2.isNt)
      || (!f.2.isNt && aligns.any fun q => decide (f.2.seq < q) && decide (q ≤ e.2.seq)))

/-- The faulting entry and every entry ordered after it, in program order. -/
def faultClosure (b : Bank) (f : QEntry) : List QEntry :=
  let all := sortSeq (b.lq ++ b.sq)
  let tag := fun (e : QEntry) => (b.sq.any fun x => x.seq == e.seq, e)
  (all.foldl (fun (acc : List (Bool × QEntry)) e =>
    if e.seq = f.seq ∨ acc.any (fun g => orderedAfter b.aligns g (tag e)) then acc ++ [tag e] else acc) []).map (·.2)

/-- An entry of a replay list begins again: a fill reads every element again, a WAITA makes a new first read (R152, R395). -/
def restartEntry (x : QEntry) : QEntry :=
  match x.op with
  | .ldt t box _ _ => { x with op := QOp.ldt t box Tile.zero (List.range (box.rows * box.cols)) }
  | .waita d va cmp sc _ ex st => { x with op := QOp.waita d va cmp sc none ex st }
  | _ => x

/-- A fault at translation: a Suite bank holds the entry and those ordered after it in its replay list and traps once; a Steward stream takes the fault
itself, with the position of the faulting instruction (R360, R395). While the bank is held for another trap the entry waits (R355). -/
def pageFault (s : State) (r : BankRef) (e : QEntry) (cause : BitVec 8) (tval : Nat) : State :=
  match r with
  | .ctx c =>
    let s1 := stewardTrap s c .a ⟨cause, 1, 0, 0, BitVec.ofNat 28 e.ret, BitVec.ofNat 64 tval⟩
    if (s1.ctx c).regs.sa.tfdepth = (s.ctx c).regs.sa.tfdepth ∧ (s1.ctx c).running then s1 else dropEntry s1 r e.seq
  | .bank .. =>
    let b := s.bank r
    let faulted := b.traps.any fun t => t.cls == 1
    if !faulted && heldBefore s r then s
    else
      let moved := faultClosure b e
      let out := fun (l : List QEntry) => l.filter fun x => !moved.any fun m => m.seq == x.seq
      let s1 := s.modBank r fun b => { b with lq := out b.lq, sq := out b.sq, replay := sortSeq (b.replay ++ moved.map restartEntry) }
      if faulted then s1
      else (queueTrap s1 r cause (BitVec.ofNat 64 tval) b.sa.pos).modBank r fun b => { b with pageWait := true }

/-! ### Performing -/

/-- The result and the done increment of an entry that has performed. -/
def finishEntry (s : State) (r : BankRef) (e : QEntry) (res : List Result) : State :=
  doneFor (landLater (dropEntry s r e.seq) r .a res e.born) r .a e.dn

/-- The invalidation of an acquire at scope die and wider (R143, R256). -/
def acquireInvalidate (s : State) (r : BankRef) (scope : BitVec 2) : State :=
  match r with | .bank u _ => if scope = 0 then s else l1Clear s u | .ctx _ => s

/-- The number of monitor entries a die's table holds; the control die is 4 (R407). -/
def monitorDie : BankRef → Nat | .bank u _ => dieOf u | .ctx _ => 4
def monitorsHeld (s : State) (r : BankRef) : Nat := (s.pkg.monitors.filter fun m => monitorDie m.2.1 == monitorDie r).length
def freeMonitor (s : State) (r : BankRef) : State := s.modPkg fun p => { p with monitors := p.monitors.filter fun m => m.2.1 != r }

/-- The status a WAITA ends with, under the order log of kind 5 (R337): the device's own, or the logged one. -/
def waitaStatus (s : State) (r : BankRef) (own : Option Nat) : Option Nat × State :=
  match r with
  | .ctx _ => (own, s)
  | .bank u b =>
    let t := tenantOf s r
    if ologMode s t = 2 then
      match ologTake s t 5 u.val 0 fun v => v / 4 % 2 == b.val && (v % 4 != 0 || own == some 0) with
      | (some v, s1) => (some (v % 4), s1)
      | (none, s1) => (none, s1)
    else
      match own with
      | none => (none, s)
      | some st =>
        match ologChoice s t 5 u.val (st + 4 * b.val) with
        | (some _, s1) => (some st, s1)
        | (none, s1) => (none, s1)

/-- Who last wrote an aligned word of 8 bytes; for one that nothing has written, a free value (R350). -/
def setterOf (s : State) (word : Nat) : Nat × State :=
  match s.pkg.setters.find? fun q => q.1 == word with
  | some q => (q.2.toNat, s)
  | none => chooseBelow s 65536

/-- A WAITA ends with a status (R152). `setter` is what its wait record names (R350). -/
def finishWaita (s : State) (r : BankRef) (e : QEntry) (d : BitVec 5) (va : Word) (scope : BitVec 2) (start status setter : Nat) : State :=
  let s1 := freeMonitor s r
  let s2 := if status = 0 then acquireInvalidate s1 r scope else s1
  let s3 := waitRecord s2 ⟨r, .a⟩ va.toNat (s2.cycle - start) setter 0
  finishEntry s3 r e [.a d (BitVec.ofNat 64 status)]

/-- A read of a WAITA, the first or a re-read: status 0 where the word has changed, status 2 where no monitor entry is free at the first read,
otherwise a monitor of the translated line; `expired` ends the wait with status 1 (R152). The read waits for its grant (R325). The setter of the record is
who last wrote the word (R350). -/
def waitaRead (s : State) (r : BankRef) (e : QEntry) (d : BitVec 5) (va cmp : Word) (scope : BitVec 2) (watched : Option Nat)
    (expire : Option Nat) (start : Nat) (expired : Bool) : State :=
  match translateVa s (tenantOf s r) va.toNat false with
  | (.fault c, s1) => pageFault (freeMonitor s1 r) r e c va.toNat
  | (.wait, s1) => s1
  | (.ok (pa, slot), s1) =>
    if !l2Granted s1 r (pa / 64) then l2Ask s1 r (tenantOf s r) (pa / 64)
    else
    let (by_, s0) := setterOf s1 (pa / 8)
    let (bs, s2) := physRead s0 slot pa 8
    let changed := leNat bs ≠ cmp.toNat
    let full := watched.isNone && decide (512 ≤ monitorsHeld s2 r)
    let own : Option Nat := if changed then some 0 else if expired then some 1 else if full then some 2 else none
    let seen := l1Refresh (countL2 s2 r (pa / 64)) r (tenantOf s r) (natBits va.toNat 36 16) (va.toNat % 2 ^ 36) (pa / 65536) bs
    match waitaStatus seen r own with
    | (some st, s3) => finishWaita s3 r e d va scope start st (if st = 0 then by_ else 0xffff)
    | (none, s3) =>
      if changed ∨ full then replaceEntry (freeMonitor s3 r) r { e with op := .waita d va cmp scope none expire start }
      else
        replaceEntry ((freeMonitor s3 r).modPkg fun p => { p with monitors := p.monitors ++ [(pa / 64, r, false)] }) r
          { e with op := .waita d va cmp scope (some (pa / 64)) expire start }

/-- An entry is translated and performs (R142). -/
def performEntry (s : State) (r : BankRef) (e : QEntry) : State :=
  let t := tenantOf s r
  let ag : Agent := ⟨r, .a⟩
  match e.op with
  | .ld d va size sgn acq =>
    let n := 2 ^ size.toNat
    let bypass := match acq with | some sc => sc != 0 | none => false
    match getDesc s t (natBits va.toNat 36 16) with
    | (none, s1) => pageFault s1 r e cSEGNP va.toNat
    | (some ds, s1) =>
      match loadBytes s1 r t (natBits va.toNat 36 16) ds (va.toNat % 2 ^ 36) n bypass with
      | (.fault c, s2) => pageFault s2 r e c va.toNat
      | (.wait, s2) => s2
      | (.ok bs, s2) =>
        let s3 := match acq with | some sc => acquireInvalidate s2 r sc | none => s2
        finishEntry (watchAccess s3 ag false va.toNat n) r e [.a d (loadValue size sgn bs)]
  | .st va size data _ _ =>
    let n := 2 ^ size.toNat
    match getDesc s t (natBits va.toNat 36 16) with
    | (none, s1) => pageFault s1 r e cSEGNP va.toNat
    | (some ds, s1) =>
      match storeBytes s1 r t (natBits va.toNat 36 16) ds (va.toNat % 2 ^ 36) (leBytes n data.toNat) r.source with
      | (.fault c, s2) => pageFault s2 r e c va.toNat
      | (.wait, s2) => s2
      | (.ok _, s2) => finishEntry (watchAccess s2 ag true va.toNat n) r e []
  | .ldt tl box data left =>
    match getDesc s t box.seg with
    | (none, s1) => pageFault s1 r e cSEGNP (box.seg * 2 ^ 36)
    | (some ds, s1) =>
      let (k, s2) := chooseBelow s1 (left.length + 1)
      let now := if k = 0 then left else [left.getD (k - 1) 0]
      let later := if k = 0 then [] else left.eraseIdx (k - 1)
      match loadElems s2 r t ds box data now with
      | (.fault c, _, rest, s3) => pageFault s3 r e c (elemVa ds box (rest.headD 0))
      | (.wait, data', rest, s3) => replaceEntry s3 r { e with op := .ldt tl box data' (rest ++ later) }
      | (.ok _, data', _, s3) =>
        if later.isEmpty then finishEntry (watchBox s3 ag false ds box) r e [.tile tl data' true]
        else replaceEntry s3 r { e with op := .ldt tl box data' later }
  | .stt tl box data left =>
    match getDesc s t box.seg with
    | (none, s1) => pageFault s1 r e cSEGNP (box.seg * 2 ^ 36)
    | (some ds, s1) =>
      let (k, s2) := chooseBelow s1 (left.length + 1)
      let now := if k = 0 then left else left.take k
      let later := if k = 0 then [] else left.drop k
      match storeElems s2 r t ds box data now with
      | (.fault c, rest, s3) =>
        let e' := { e with op := .stt tl box data (rest ++ later) }
        pageFault (replaceEntry s3 r e') r e' c (elemVa ds box (rest.headD 0))
      | (.wait, rest, s3) => replaceEntry s3 r { e with op := .stt tl box data (rest ++ later) }
      | (.ok _, _, s3) =>
        if later.isEmpty then finishEntry (watchBox s3 ag true ds box) r e [.consume tl]
        else replaceEntry s3 r { e with op := .stt tl box data later }
  | .waita d va cmp scope none expire start => waitaRead s r e d va cmp scope none expire start false
  | .waita .. => s
  | .drnt _ => s

/-- A store that a retired Visit left behind performs: the oldest, or a non-temporal one by free choice. One that faults is lost, since no
bank holds its Visit any longer (R34, R142). -/
def leftoverStep (s : State) (u : SuiteId) : State :=
  let l := (s.suite u).leftover
  let picks := (l.zipIdx.filter fun p => p.2 == 0 || p.1.entry.isNt).map (·.2)
  let (k, s1) := chooseBelow s (max 1 picks.length)
  let i := picks.getD k 0
  let drop := fun (s : State) => s.modSuite u fun x => { x with leftover := x.leftover.eraseIdx i }
  match l[i]? with
  | none => s
  | some x =>
    let t := x.visit.tenant
    let ag : Agent := ⟨.bank u x.bank, .a⟩
    match x.entry.op with
    | .st va size data _ _ =>
      match getDesc s1 t (natBits va.toNat 36 16) with
      | (none, s2) => drop s2
      | (some ds, s2) =>
        match storeBytes s2 (.bank u 0) t (natBits va.toNat 36 16) ds (va.toNat % 2 ^ 36) (leBytes (2 ^ size.toNat) data.toNat) u.val with
        | (.wait, s3) => s3
        | (.fault _, s3) => drop s3
        | (.ok _, s3) => drop (watchAs s3 t (some x.visit) 0 u ag true va.toNat (2 ^ size.toNat))
    | .stt tl box data left =>
      match getDesc s1 t box.seg with
      | (none, s2) => drop s2
      | (some ds, s2) =>
        match storeElems s2 (.bank u 0) t ds box data left with
        | (.wait, rest, s3) => s3.modSuite u fun y =>
            { y with leftover := y.leftover.set i { x with entry := { x.entry with op := .stt tl box data rest } } }
        | (.fault _, _, s3) => drop s3
        | (.ok _, _, s3) =>
          match watchedElem s3 t u true ds box with
          | some n => drop (watchAs s3 t (some x.visit) 0 u ag true (elemVa ds box n) ds.fmt.esz)
          | none => drop s3
    | _ => drop s1

/-- A freely chosen chance of the stores left behind. -/
def leftoverTurn (s : State) : BankRef → State
  | .bank u b =>
    if b ≠ 0 ∨ (s.suite u).leftover.isEmpty then s
    else
      let (k, s1) := chooseBelow s 2
      if k = 0 then leftoverStep s1 u else s1
  | .ctx _ => s

/-- A wait of a core whose clock stands still: it reads again only once the core restarts, and keeps what is ordered behind it (R291, R407). -/
def waitFrozen (s : State) (r : BankRef) (e : QEntry) : Bool :=
  match r, e.op with
  | .bank u _, .waita .. => (s.suite u).stopped
  | _, _ => false

/-- QUEUE_ENTRY_PERFORM (R142). -/
def execQueueEntryPerform (b : BankRef) (store : Bool) (s0 : State) : Host.Outcome State Fault Refusal :=
  .next <|
    let s := if store then leftoverTurn s0 b else s0
    match chooseEntry s b store with
    | (some e, s1) => if waitFrozen s1 b e then s1 else performEntry s1 b e
    | (none, s1) => s1

/-- PAGE_FAULT_BANK_SWITCH: with its last performing entry gone, the bank becomes non-runnable (R360). -/
def execPageFaultBankSwitch (b : BankRef) (s : State) : Host.Outcome State Fault Refusal :=
  .next <|
    let x := s.bank b
    if x.pageWait && x.lq.isEmpty && x.sq.isEmpty then s.modBank b fun y => { y with pageWait := false, switched := true } else s

/-! ### Prefetch and ordering -/

/-- PFT sends a request for a box; it checks nothing, and reads its descriptor in Local Store order (R143, R148). -/
def execPft (s1 : BitVec 5) (dn : BitVec 4) (w : BitVec 4) (s : State) : Host.Outcome State Fault Refusal :=
  issue (.pft s1 dn w) w (fun s ag =>
    let a := (readA s ag s1).toNat
    let ok := a % 64 == 0 && decide (a < 2 ^ 23) && inScratch (s.suite ag.suite) a 64
    { hold := lsHold s ag
      act := fun t => t.modBank ag.bank fun b => { b with prefetch := b.prefetch ++ [(dn, if ok then lsRead s ag.suite a 64 else [])] } }) s

/-- The L1 lines that a prefetch needs, as the offset in the segment, the physical address and the key slot of each, once every element of the box
translates; a fault or a wait is answered as such (R148, R247). -/
def prefetchLines (s : State) (t : TenantId) (d : Desc) (x : TileBox) : List Nat → List (Nat × Nat × Nat) → Mres (List (Nat × Nat × Nat)) × State
  | [], l => (.ok l, s)
  | i :: rest, l =>
    let c := x.coord i
    if outsideOf d c then prefetchLines s t d x rest l
    else
      match translate s t x.seg d (offsetOf d c) false with
      | (.fault e, s1) => (.fault e, s1)
      | (.wait, s1) => (.wait, s1)
      | (.ok (pa, slot), s1) =>
        let line := (offsetOf d c / 64, pa / 64, slot)
        prefetchLines s1 t d x rest (if l.contains line then l else line :: l)

/-- One line of a prefetch comes into L1. -/
def prefetchLine (u : SuiteId) (b : BankRef) (t : TenantId) (seg : Nat) (s : State) (line : Nat × Nat × Nat) : State :=
  let (data, s1) := physRead s line.2.2 (line.2.1 * 64) 64
  countL2 (s1.modSuite u fun x => { x with l1 := ⟨t, seg, line.1, [line.2.1 / 1024], data⟩ :: x.l1 }) b line.2.1

/-- PREFETCH_COMPLETION: the lines of a box that would not fault come into L1, once the port of each has granted it, and the done semaphore is
incremented. A box that would fault, or lies in a held segment, is not fetched; without an L1 nothing that a program can see is (R148, R247). -/
def execPrefetchCompletion (b : BankRef) (k : Nat) (s : State) : Host.Outcome State Fault Refusal :=
  .next <|
    match (s.bank b).prefetch[k]? with
    | none => s
    | some (dn, l) =>
      let ends := fun (s : State) => doneFor (s.modBank b fun x => { x with prefetch := x.prefetch.eraseIdx k }) b .a dn
      let t := tenantOf s b
      let box := parseBox l
      match b with
      | .ctx _ => ends s
      | .bank u _ =>
        if l.isEmpty || (boxCheck s t l).isSome || (s.suite u).l1mib == 0 then ends s
        else
          match getDesc s t box.seg with
          | (none, _) => ends s
          | (some ds, s2) =>
            match prefetchLines s2 t ds box (List.range (box.rows * box.cols)) [] with
            | (.ok lines, s3) =>
              let need := lines.filter fun x => (l1Find (s3.suite u) t box.seg x.1).isNone
              if need.all fun x => l2Granted s3 b x.2.1 then ends (need.foldl (prefetchLine u b t box.seg) s3)
              else need.foldl (fun s x => if l2Granted s b x.2.1 then s else l2Ask s b t x.2.1) s3
            | _ => ends s

/-- The markers of an ALIGN stand at the present place of program order; with nothing ahead of them they order nothing (R149). -/
def placeAlign (b : Bank) : Bank := if earlierPending b b.nextSeq then { b with aligns := b.aligns ++ [b.nextSeq] } else b

/-- ALIGN (R149). -/
def execAlign (w : BitVec 4) (s : State) : Host.Outcome State Fault Refusal :=
  issue (.align w) w (fun _ ag => { act := fun t => t.modBank ag.bank placeAlign }) s

/-- FENCE (R150). -/
def execFence (scope : BitVec 2) (w : BitVec 4) (s : State) : Host.Outcome State Fault Refusal :=
  issue (.fence scope w) w (fun s ag =>
    { hold := if drntPending (s.bank ag.bank) then some holdPlain else none
      act := fun t => settleFence (t.modBank ag.bank fun b =>
        { b with fence := some (b.nextSeq, scope != 0 || (match b.fence with | some (_, v) => v | none => false)) }) ag.bank }) s

/-- DRNT (R151). -/
def execDrnt (dn : BitVec 4) (scope : BitVec 2) (w : BitVec 4) (s : State) : Host.Outcome State Fault Refusal :=
  issue (.drnt dn scope w) w (fun s ag => { act := fun t => pushEntry t ag true (.drnt scope) dn (posOf s ag) }) s

/-- DRNT_COMPLETION: the marker heads the ordered part of SQ, neither an ALIGN nor an earlier acquire read holds it, and every earlier non-temporal store
has performed (R143, R149, R151). -/
def execDrntCompletion (b : BankRef) (s : State) : Host.Outcome State Fault Refusal :=
  .next <|
    match (s.bank b).sq.find? fun e => !e.isNt with
    | none => s
    | some e =>
      if e.isDrnt && !alignHolds (s.bank b) e && !(s.bank b).lq.any (fun f => f.isAcquire && decide (f.seq < e.seq)) && !((s.bank b).sq ++ (s.bank b).replay).any (fun f => f.isNt && decide (f.seq < e.seq)) then
        doneFor (dropEntry s b e.seq) b .a e.dn
      else s

/-! ### WAITA -/

/-- WAITA (R152): the timeout counts from issue. -/
def execWaita (d s1 s2 : BitVec 5) (dn : BitVec 4) (scope : BitVec 2) (w : BitVec 4) (s : State) : Host.Outcome State Fault Refusal :=
  issue (.waita d s1 s2 dn scope w) w (fun s ag =>
    let va := readA s ag s1
    let tmo := (s.stream ag).waittmo.toNat
    { trap := vaTrap va 8
      act := fun t => pushEntry t ag false
        (.waita d va (readA s ag s2) scope none (if tmo = 0 then none else some (s.fabric.toNat + tmo)) s.cycle) dn (posOf s ag) }) s

/-- Whether a wait's timeout has passed. -/
def waitExpired (s : State) (expire : Option Nat) : Bool := match expire with | some x => decide (x ≤ s.fabric.toNat) | none => false

/-- MONITOR_TRIGGER: the word is translated and read again (R152). -/
def execMonitorTrigger (b : BankRef) (s : State) : Host.Outcome State Fault Refusal :=
  .next <|
    match (s.bank b).lq.head?, s.pkg.monitors.any fun m => m.2.1 == b && m.2.2 with
    | some e, true =>
      match e.op with
      | .waita d va cmp scope (some l) expire start =>
        waitaRead s b e d va cmp scope (some l) expire start (waitExpired s expire)
      | _ => s
    | _, _ => s

/-- WAITTMO_EXPIRY: the wait ends with status 1, without a read (R152); in replay it ends with the status that the log holds for it, once its entry is the
next (R337). -/
def execWaittmoExpiry (b : BankRef) (s : State) : Host.Outcome State Fault Refusal :=
  .next <|
    match (s.bank b).lq.head? with
    | some e =>
      match e.op with
      | .waita d va _ scope (some _) expire start =>
        let forced := ologMode s (tenantOf s b) == 2 && !b.isCtx
        if (waitExpired s expire || forced) && !s.pkg.monitors.any (fun m => m.2.1 == b && m.2.2) then
          match waitaStatus s b (if waitExpired s expire then some 1 else none) with
          | (some st, s1) => finishWaita s1 b e d va scope start st 0xffff
          | (none, s1) => s1
        else s
      | _ => s
    | none => s

end Sys2Proof.Machine
end

