-- ==== Sys2Proof/Machine/Images.lean ====
section
/-! DEFINITION. Code images: their headers and their copy in the instruction store (R15, R19, R99), and the checks of the registers that name
one in memory, CTXSTART and LSUBMIT (R322, R323). -/

namespace Sys2Proof.Machine

/-- The fields of an image header (R99). -/
structure Header where
  good : Bool
  dual : Bool
  nlines : Nat
  entryA : W32
  entryX : W32
  entryCh : W32
  drains : List W32
  latency : List Nat
  feat : BitVec 128
  deriving DecidableEq, Repr

/-- Magic and version (R99). -/
def headerGood (l : List Byte) : Bool := fieldAt l 0 4 == 0x494c414a && fieldAt l 4 2 == 1

def parseHeader (l : List Byte) : Header :=
  { good := headerGood l
    dual := (fieldAt l 6 2).testBit 0
    nlines := fieldAt l 8 4
    entryA := BitVec.ofNat 32 (fieldAt l 0xc 4)
    entryX := BitVec.ofNat 32 (fieldAt l 0x10 4)
    entryCh := BitVec.ofNat 32 (fieldAt l 0x14 4)
    drains := (List.range 8).map fun i => BitVec.ofNat 32 (fieldAt l (0x20 + 4 * i) 4)
    latency := (List.range 12).map fun i => fieldAt l (0x40 + i) 1
    feat := BitVec.ofNat 128 (fieldAt l 0x50 16) }

/-- Reads the header of an image segment. -/
def readHeader (s : State) (t : TenantId) (seg : Nat) : Mres Header × State :=
  match loadVa s t (seg * 2 ^ 36) 256 with
  | (.ok l, s1) => (.ok (parseHeader l), s1)
  | (.fault c, s1) => (.fault c, s1)
  | (.wait, s1) => (.wait, s1)

/-- The sixteen words of a line. -/
def lineWords (l : List Byte) : List W32 := (List.range 16).map fun i => BitVec.ofNat 32 (fieldAt l (4 * i) 4)

/-- Reads a line; a line that cannot be read holds free values (log 8). -/
def readLine (s : State) (t : TenantId) (seg line : Nat) : List W32 :=
  let va := seg * 2 ^ 36 + 0x100 + 64 * line
  match (loadVa s t va 64).1 with
  | .ok l => lineWords l
  | _ => lineWords ((List.range 64).map fun i => Config.freeByte (va + i) 0 0)

/-- The lines of an image, from line n of n + k. -/
def readLines (s : State) (t : TenantId) (seg n : Nat) : Nat → List (List W32)
  | 0 => []
  | k + 1 => readLine s t seg n :: readLines s t seg (n + 1) k

/-- Puts an image into the instruction store; an equal copy is used again. Answers its index. -/
def storeImage (s : State) (im : Image) : Nat × State :=
  match s.pkg.images.idxOf? im with
  | some i => (i, s)
  | none => (s.pkg.images.length, s.modPkg fun p => { p with images := p.images ++ [im] })

/-- Reads an image into the instruction store (R19). -/
def loadImage (s : State) (t : TenantId) (seg : Nat) (h : Header) : Nat × State :=
  storeImage s
    { tenant := t, seg := seg, nlines := h.nlines, dual := h.dual, entryA := h.entryA, entryX := h.entryX, entryCh := h.entryCh,
      drains := h.drains, latency := h.latency, lines := readLines s t seg 0 h.nlines }

/-! ### CTXSTART (R322) -/

/-- The context and the segment that a CTXSTART value names. -/
def ctxstartTarget (v : Word) : CtxId × Nat := (⟨natBits v.toNat 16 7, Nat.mod_lt _ (by decide)⟩, v.toNat % 65536)

/-- Whether a context belongs to a tenant (R321). -/
def ctxOf (s : State) (x : CtxId) (t : TenantId) : Bool :=
  decide (x.val = t.val) || (decide (64 ≤ x.val) && decide (x.val < 127) && (s.ctx x).helperTenant == t)

/-- The checks of R322, in order. -/
def ctxstartTrap (s : State) (c : CtxId) (v : Word) : Option (BitVec 8 × Word) :=
  let (x, seg) := ctxstartTarget v
  let t := ctxTenant s x
  let va := BitVec.ofNat 64 (seg * 2 ^ 36)
  if (s.ctx x).running ∨ (c ≠ hypervisor ∧ !ctxOf s x (ctxTenant s c)) then some (cPROT, 0)
  else
    match (getDesc s t seg).1 with
    | none => some (cSEGNP, va)
    | some d =>
      if !d.code then some (cPROT, 0)
      else
        match (readHeader s t seg).1 with
        | .fault e => some (e, va)
        | .wait => none
        | .ok h => if h.good && decide (h.entryA.toNat < h.nlines) && decide (h.entryX.toNat < h.nlines) then none else some (cILLFLD, 0)

/-- CTXSTART_WRITE: the context starts at both entries, its registers zero (R322). -/
def startContext (s : State) (c : CtxId) (v : Word) : State :=
  let (x, seg) := ctxstartTarget v
  let t := ctxTenant s x
  if (ctxstartTrap s c v).isSome then s
  else
    match readHeader s t seg with
    | (.ok h, s1) =>
      let (i, s2) := loadImage s1 t seg h
      let run := fun (st : Stream) (line : W32) =>
        { st with pos := line.toNat * 16, running := true, lineMode := none, loops := Vector.replicate 6 LoopRec.reset, labels := [] }
      s2.modCtx x fun y =>
        { y with running := true, image := i, hasImage := true,
                 regs := { y.regs with a := Vector.replicate 32 0, e := Vector.replicate 16 0, sa := run y.regs.sa h.entryA,
                                       sx := run y.regs.sx h.entryX, cq := [], cqNew := [] } }
    | (_, s1) => s1

/-- The traps of an LSUBMIT write (R323). -/
def lsubmitTrap (s : State) (c : CtxId) (v : Word) : Option (BitVec 8 × Word) :=
  if v.toNat % 64 ≠ 0 then some (cMISALIGN, v)
  else
    match (loadVa s (ctxTenant s c) v.toNat 128).1 with
    | .fault e => some (e, v)
    | _ => none

end Sys2Proof.Machine
end

