-- ==== Sys2Proof/Machine/Accum.lean ====
section
/-! DEFINITION. Words of the accumulator store, what a VACC under way sees of a write to them, and the accumulator atomics:
spec/02_state_and_addressing.md R58, spec/06_access_instructions.md R153-R156, spec/07_execute_instructions.md R183, R185. -/

namespace Sys2Proof.Machine

/-- A tile image with the word at row `row`, word column `col` replaced (R45). -/
def setTileWord (t : Tile) (row col : Nat) (w : W32) : Tile := setRowBytes t row (4 * col) (leBytes 4 w.toNat)

/-- The destination and the issue cycle of a VACC that still reads half h of tile k. -/
def Flight.reads (f : Flight) (k : Fin 32) (h : Bool) : Option (Fin 48 × Nat) :=
  f.res.findSome? fun x => match x with | .accRead k' h' t => if k' = k ∧ h' = h then some (t, f.born) else none | _ => none

/-- A VACC under way may read a word after a write to it: each word is read once in some cycle from c to c + 23 (R156, R183). -/
def vaccSees (s : State) (u : SuiteId) (k : Fin 32) (row col : Fin 128) (w : W32) : State :=
  [(0 : Fin 2), 1].foldl (fun s b =>
    let h := decide (64 ≤ col.val)
    let readers := (s.bank (.bank u b)).fly.filterMap fun f => f.reads k h
    if readers.isEmpty then s
    else
      let (c, s1) := chooseBelow s 2
      if c = 0 then s1
      else s1.modBank (.bank u b) fun x => { x with fly := x.fly.map fun f =>
        { f with res := f.res.map fun r => match r with
          | .tile t v p => if readers.contains (t, f.born) then .tile t (setTileWord v row (col.val % 64) w) p else r
          | r => r } }) s

/-- Writes a word of the accumulator store. -/
def accSet (s : State) (u : SuiteId) (k : Fin 32) (row col : Fin 128) (w : W32) : State :=
  vaccSees ((dropAccErrors s u k row fun c => c == col).modRoom u fun x =>
    let t := x.acc.get k
    { x with acc := x.acc.set k.val (t.set row.val ((t.get row).set col.val w col.isLt) row.isLt) k.isLt }) u k row col w
/-- Writes a row of the accumulator store. -/
def accSetRow (s : State) (u : SuiteId) (k : Fin 32) (row : Fin 128) (v : Vector W32 128) : State :=
  let s1 := (dropAccErrors s u k row fun _ => true).modRoom u fun x =>
    { x with acc := x.acc.set k.val ((x.acc.get k).set row.val v row.isLt) k.isLt }
  if [(0 : Fin 2), 1].any fun b => (s.bank (.bank u b)).fly.any fun f => (f.reads k false).isSome || (f.reads k true).isSome then
    (List.finRange 128).foldl (fun s c => vaccSees s u k row c (v.get c)) s1
  else s1

/-! ### Atomics (R153-R156) -/

/-- The word that an atomic leaves (R154). -/
def atomicNew (aop : BitVec 3) (i32 : Bool) (old v c : W32) : W32 :=
  match aop.toNat with
  | 0 => if i32 then old + v else rne32 (addV false (dec32 old) (dec32 v)).1
  | 1 => if i32 then (if old.slt v then old else v) else
      (if (dec32 old).isNaN || (dec32 v).isNaN then 0x7fc00000 else if beforeV (dec32 v) (dec32 old) then v else old)
  | 2 => if i32 then (if old.slt v then v else old) else
      (if (dec32 old).isNaN || (dec32 v).isNaN then 0x7fc00000 else if beforeV (dec32 old) (dec32 v) then v else old)
  | 3 => v
  | _ => if old = c then v else old

/-- The value that an atomic returns (R154). -/
def atomicOld (i32 : Bool) (old : W32) : Word := if i32 then sext old else zext old

/-- An atomic applies: the word, a[d] and the done semaphore; what an aborted Visit would have received is discarded (R154, R406). -/
def applyAtomic (s : State) (u : SuiteId) (a : Atomic) : State :=
  let (old, s0) := accRead s u a.k a.row a.col
  let s1 := accSet s0 u a.k a.row a.col (atomicNew a.aop a.i32 old a.v a.cmp)
  if a.discard then s1
  else doneFor (landLater s1 (.bank u a.bank) a.kind [.a a.d (atomicOld a.i32 old)] a.born) (.bank u a.bank) a.kind a.dn

/-- AAT (R153-R155). The bits of a[s1] select the word; an ordered atomic carries its sequence number in a[s3]
and waits for a place in its room's buffer, which a stopped room does not change (R288). -/
def execAat (d s1 s2 : BitVec 5) (dn : BitVec 4) (s3 : BitVec 5) (aop : BitVec 3) (ty : BitVec 1) (ord : BitVec 1) (w : BitVec 4) (s : State) :
    Host.Outcome State Fault Refusal :=
  issue (.aat d s1 s2 dn s3 aop ty ord w) w (fun s ag =>
    let x := readA s ag s1
    let k := (x.extractLsb' 14 5).toNat
    let q : W32 := (readA s ag s3).setWidth 32
    let room := s.room ag.suite
    let a : Atomic :=
      { tenant := tenantOf s ag.bank, kind := ag.kind, bank := match ag.bank with | .bank _ b => b | .ctx _ => 0, d := d, dn := dn, k := physAcc s ag.bank k,
        row := ⟨(x.extractLsb' 7 7).toNat, (x.extractLsb' 7 7).isLt⟩, col := ⟨(x.extractLsb' 0 7).toNat, (x.extractLsb' 0 7).isLt⟩,
        v := (readA s ag s2).setWidth 32, cmp := q, aop := aop, i32 := ty == 1, ordered := ord == 1, discard := false, born := s.cycle }
    { words := 2
      hold := if ord = 1 ∧ (64 ≤ (room.atomics.filter (·.ordered)).length ∨ room.stopped = true) then some holdPlain else none
      trap :=
        if x.toNat / 2 ^ 19 ≠ 0 then some (cPROT, 0)
        else if dualOf s ag.bank && decide (16 ≤ k) then some (cPROT, 0)
        else if ord = 1 ∧ 2 ^ 31 ≤ (q - room.accseq).toNat then some (cORDSEQ, 0)
        else none
      act := fun t => t.modRoom ag.suite fun r => { r with atomics := r.atomics ++ [a] } }) s

/-- Whether a bank port of a room is taken in this cycle by a row or an atomic, or by a VACW still writing (R184, R205). -/
def portBusy (s : State) (u : SuiteId) (k : Fin 32) : Bool :=
  (s.room u).portRows.contains (k.val % 8) || (s.room u).portAtoms.contains (k.val % 8) || [(0 : Fin 2), 1].any fun b =>
    (s.bank (.bank u b)).fly.any fun f => f.res.any fun x => match x with | .acc k' _ _ _ _ _ => k'.val % 8 == k.val % 8 | _ => false

/-- Applies the i-th waiting atomic of a room where its port and the order log admit it (R156, R337). In a stopped room it waits; an unordered one
sent before the room and its Suite core stopped in one cycle completes before that stop does (R288, R291). -/
def tryAtomic (s : State) (u : SuiteId) (i : Nat) : State :=
  match (s.room u).atomics[i]? with
  | none => s
  | some a =>
    if ((s.room u).stopped ∧ (a.ordered ∨ (s.suite u).stopped = false ∨ (s.suite u).stopBoth = false)) ∨ portBusy s u a.k then s
    else
      match accLogged s a.tenant u 0 a.bank.val a.k.val a.row.val a.col.val with
      | (false, s1) => s1
      | (true, s1) =>
        let s2 := s1.modRoom u fun r =>
          { r with atomics := r.atomics.eraseIdx i, portAtoms := (a.k.val % 8) :: r.portAtoms, accseq := if a.ordered then r.accseq + 1 else r.accseq }
        applyAtomic s2 u a

/-- ORDERED_ATOMIC_APPLY: the ordered atomic whose number ACCSEQ has reached (R155). -/
def execOrderedAtomicApply (u : SuiteId) (s : State) : Host.Outcome State Fault Refusal :=
  .next <|
    match (s.room u).atomics.findIdx? fun a => a.ordered && a.cmp == (s.room u).accseq with
    | some i => tryAtomic s u i
    | none => s

/-- Whether replay forces a waiting atomic now (R337). -/
def atomicForced (s : State) (u : SuiteId) (a : Atomic) : Bool := accForced s a.tenant u 0 a.bank.val a.k.val a.row.val a.col.val

/-- ACCUMULATOR_ATOMIC_APPLY: an unordered AAT, in some order (R156), or the one that replay forces (R337). -/
def execAccumulatorAtomicApply (u : SuiteId) (s : State) : Host.Outcome State Fault Refusal :=
  .next <|
    let l := (s.room u).atomics.zipIdx.filter fun p => !p.1.ordered
    if l.isEmpty then s
    else
      match l.find? fun p => atomicForced s u p.1 with
      | some p => tryAtomic s u p.2
      | none =>
        let (k, s1) := chooseBelow s l.length
        tryAtomic s1 u ((l.map (·.2)).getD k 0)

/-- ACCSEQ_WRITE: the write has waited at issue for the ordered-atomic buffer to empty, and lands (R155, R159, R188). -/
def execAccseqWrite (u : SuiteId) (v : Word) (s : State) : Host.Outcome State Fault Refusal :=
  .next (s.modRoom u fun r => { r with accseq := v.setWidth 32 })

end Sys2Proof.Machine
end

