-- ==== Sys2Proof/Machine/Func.lean ====
section
/-! DEFINITION. The correctly rounded functions of spec/03_number_formats.md R84. A function whose exact result is no dyadic number is enclosed
between two integers over a power of two until 64 leading bits are decided; the value handed to `cvt` is then those bits with one more bit
set below them, which every rounding mode rounds, and flags, as the exact value (log 12). -/

namespace Sys2Proof.Machine

/-- Bounds of a non-negative number in units of 2^-W. -/
structure Iv where
  lo : Nat
  hi : Nat
  deriving DecidableEq, Repr

namespace Iv

def add (a b : Iv) : Iv := ⟨a.lo + b.lo, a.hi + b.hi⟩
/-- Difference of a number and a lesser one. -/
def sub (a b : Iv) : Iv := ⟨a.lo - b.hi, a.hi - b.lo⟩
def mul (W : Nat) (a b : Iv) : Iv := ⟨a.lo * b.lo / 2 ^ W, a.hi * b.hi / 2 ^ W + 1⟩
/-- Quotient by a number that is not zero. -/
def div (W : Nat) (a b : Iv) : Iv := ⟨a.lo * 2 ^ W / b.hi, a.hi * 2 ^ W / b.lo + 1⟩
def divNat (a : Iv) (n : Nat) : Iv := ⟨a.lo / n, a.hi / n + 1⟩
def one (W : Nat) : Iv := ⟨2 ^ W, 2 ^ W⟩
/-- A dyadic number m x 2^e. -/
def ofDyadic (W m : Nat) (e : Int) : Iv :=
  if 0 ≤ e + W then ⟨m * 2 ^ (e + W).toNat, m * 2 ^ (e + W).toNat⟩
  else ⟨m / 2 ^ (-(e + W)).toNat, m / 2 ^ (-(e + W)).toNat + 1⟩

/-- Terms n, n+1, … of the exponential series, with the remainder in the upper bound. -/
def expTerms (W : Nat) (t : Iv) : Nat → Nat → Iv → Iv → Iv
  | 0, _, term, acc => ⟨acc.lo, acc.hi + 2 * term.hi + 2⟩
  | fuel + 1, n, term, acc =>
    let term' := divNat (mul W term t) n
    expTerms W t fuel (n + 1) term' (add acc term')

/-- e^t for 0 ≤ t ≤ 1. -/
def exp1 (W : Nat) (t : Iv) : Iv := expTerms W t (W / 4 + 20) 1 (one W) (one W)

/-- The n-fold square. -/
def squares (W : Nat) : Nat → Iv → Iv
  | 0, a => a
  | n + 1, a => squares W n (mul W a a)

/-- e^t for 0 ≤ t ≤ 256. -/
def exp (W : Nat) (t : Iv) : Iv := squares W 8 (exp1 W (divNat t 256))

/-- Partial sums of Σ 1/(n 2^n). -/
def ln2Terms (W : Nat) : Nat → Nat → Nat
  | 0, acc => acc
  | n + 1, acc => ln2Terms W n (acc + 2 ^ W / ((n + 1) * 2 ^ (n + 1)))

/-- The natural logarithm of 2. -/
def ln2 (W : Nat) : Iv := let s := ln2Terms W (W + 2) 0; ⟨s, s + W + 4⟩

/-- Terms of z + z^3/3 + z^5/5 + … from the power z^(2i+1). -/
def atanhTerms (W : Nat) (z2 : Iv) : Nat → Nat → Iv → Iv → Iv
  | 0, _, pw, acc => ⟨acc.lo, acc.hi + 2 * pw.hi + 2⟩
  | fuel + 1, i, pw, acc =>
    let pw' := mul W pw z2
    atanhTerms W z2 fuel (i + 1) pw' (add acc (divNat pw' (2 * i + 3)))

/-- ln y for 1 ≤ y ≤ 2. -/
def ln (W : Nat) (y : Iv) : Iv :=
  let z := div W (sub y (one W)) (add y (one W))
  let s := atanhTerms W (mul W z z) (W / 3 + 10) 0 z z
  add s s

/-- Terms of arctan(1/q) x 2^W: alternating partial sums, positive and negative parts. -/
def arctanTerms (q2 : Nat) : Nat → Nat → Nat → Int → Int
  | 0, _, _, acc => acc
  | fuel + 1, i, pw, acc =>
    let t : Int := (pw / (2 * i + 1) : Nat)
    arctanTerms q2 fuel (i + 1) (pw / q2) (if i % 2 = 0 then acc + t else acc - t)

/-- π by Machin's formula; every truncation is below one unit. -/
def pi (W : Nat) : Iv :=
  let n := W / 2 + 10
  let a := arctanTerms 25 n 0 (2 ^ W / 5) 0
  let b := arctanTerms (239 * 239) n 0 (2 ^ W / 239) 0
  let p := 16 * a - 4 * b
  ⟨(p - 64 * (n + 4 : Nat)).toNat, (p + 64 * (n + 4 : Nat)).toNat⟩

/-- Partial sums of Σ (-1)^n x^(2n+1) / (2^n n! (2n+1)), the positive and the negative terms apart; `u` is x²/2 and `pw` is x u^n / n!. -/
def phiTerms (W : Nat) (u : Iv) : Nat → Nat → Iv → Iv → Iv → Iv × Iv
  | 0, _, pw, pos, neg => (⟨pos.lo, pos.hi + 2 * pw.hi + 2⟩, ⟨neg.lo, neg.hi + 2 * pw.hi + 2⟩)
  | fuel + 1, n, pw, pos, neg =>
    let t := divNat pw (2 * n + 1)
    let pw' := divNat (mul W pw u) (n + 1)
    if n % 2 = 0 then phiTerms W u fuel (n + 1) pw' (add pos t) neg
    else phiTerms W u fuel (n + 1) pw' pos (add neg t)

end Iv

/-- Integer square root, bit by bit: `fuel` bits remain. -/
def isqrtAux (n : Nat) : Nat → Nat → Nat
  | 0, r => r
  | k + 1, r =>
    let r' := r + 2 ^ k
    isqrtAux n k (if r' * r' ≤ n then r' else r)

/-- Integer square root. -/
def isqrt (n : Nat) : Nat := isqrtAux n (bitLen n / 2 + 1) 0

/-- Bounds with 64 leading bits decided give the value that stands for the exact result. -/
def certify (neg : Bool) (W : Nat) (v : Iv) : Option Val :=
  let n := bitLen v.lo
  if 66 ≤ n then
    let k := n - 64
    if v.lo / 2 ^ k = v.hi / 2 ^ k then some (.fin neg (2 * (v.lo / 2 ^ k) + 1) ((k : Int) - W - 1)) else none
  else none

/-- The working precisions tried in turn (log 12). -/
def precisions : List Nat := [256, 512, 1024, 2048, 4096]

/-- The first precision that decides the result; were none to, the last one's lower bound (log 12). -/
def decide64 (neg : Bool) (f : Nat → Iv) : Val :=
  match precisions.findSome? (fun W => certify neg W (f W)) with
  | some v => v
  | none => .fin neg (2 * (f 4096).lo + 1) (-4097)

/-- A positive value below every format's least subnormal, not zero. -/
def tinyV (neg : Bool) : Val := .fin neg 1 (-5000)
/-- A value just below m x 2^e. -/
def justBelow (neg : Bool) (m : Nat) (e : Int) : Val := .fin neg (m * 2 ^ 128 - 1) (e - 128)
/-- Whether a magnitude exceeds a natural number. -/
def magGt (m : Nat) (e : Int) (b : Nat) : Bool :=
  if 0 ≤ e then decide (b < m * 2 ^ e.toNat) else decide (b * 2 ^ (-e).toNat < m)

/-- exp2 (R84). -/
def fExp2 : Val → Val × Flags
  | .nan => (.nan, 0)
  | .inf s => (if s then .zero else .inf false, 0)
  | .fin s m e =>
    if m = 0 then (.fin false 1 0, 0)
    else if magGt m e 4096 then (if s then tinyV false else .fin false 1 5000, 0)
    else
      let den := 2 ^ (-e).toNat
      let num := m * 2 ^ e.toNat
      if num % den = 0 then (.fin false 1 (if s then -((num / den : Nat) : Int) else (num / den : Nat)), 0)
      else
        let n : Int := if s then -((num / den : Nat) : Int) - 1 else (num / den : Nat)
        let r := if s then den - num % den else num % den
        let v := decide64 false (fun W => Iv.exp1 W (Iv.mul W (Iv.ofDyadic W r (-((-e).toNat : Int))) (Iv.ln2 W)))
        (v.scale n, 0)

/-- log2 (R84). -/
def fLog2 : Val → Val × Flags
  | .nan => (.nan, 0)
  | .inf s => if s then (.nan, Flags.invalid) else (.inf false, 0)
  | .fin s m e =>
    if m = 0 then (.inf true, Flags.divZero)
    else if s then (.nan, Flags.invalid)
    else
      let n := bitLen m - 1
      let k : Int := e + n
      if m = 2 ^ n then (Val.ofInt k, 0)
      else
        let lg := fun W => Iv.div W (Iv.ln W (Iv.ofDyadic W m (-(n : Int)))) (Iv.ln2 W)
        if 0 ≤ k then (decide64 false (fun W => Iv.add ⟨k.toNat * 2 ^ W, k.toNat * 2 ^ W⟩ (lg W)), 0)
        else (decide64 true (fun W => Iv.sub ⟨(-k).toNat * 2 ^ W, (-k).toNat * 2 ^ W⟩ (lg W)), 0)

/-- A quotient q with remainder r, in units of 2^e: the exact value, or one that stands for it. -/
def sticky (neg : Bool) (q : Nat) (exact : Bool) (e : Int) : Val :=
  if exact then .fin neg q e else .fin neg (2 * q + 1) (e - 1)

/-- rcp (R84). -/
def fRcp : Val → Val × Flags
  | .nan => (.nan, 0)
  | .inf s => (.zero s, 0)
  | .fin s m e =>
    if m = 0 then (.inf s, Flags.divZero)
    else
      let K := bitLen m + 64
      (sticky s (2 ^ K / m) (decide (2 ^ K % m = 0)) (-e - K), 0)

/-- A magnitude with an even exponent. -/
def evenExp (m : Nat) (e : Int) : Nat × Int := if e % 2 = 0 then (m, e) else (2 * m, e - 1)

/-- sqrt (R84). -/
def fSqrt : Val → Val × Flags
  | .nan => (.nan, 0)
  | .inf s => if s then (.nan, Flags.invalid) else (.inf false, 0)
  | .fin s m e =>
    if m = 0 then (.zero s, 0)
    else if s then (.nan, Flags.invalid)
    else
      let (m', e') := evenExp m e
      let n := m' * 2 ^ 128
      let r := isqrt n
      (sticky false r (decide (r * r = n)) (e' / 2 - 64), 0)

/-- rsq (R84). -/
def fRsq : Val → Val × Flags
  | .nan => (.nan, 0)
  | .inf s => if s then (.nan, Flags.invalid) else (.zero, 0)
  | .fin s m e =>
    if m = 0 then (.inf s, Flags.divZero)
    else if s then (.nan, Flags.invalid)
    else
      let (m', e') := evenExp m e
      let K := bitLen m' + 64
      let r := isqrt (2 ^ (2 * K) / m')
      (sticky false r (decide (r * r * m' = 2 ^ (2 * K))) (-(e' / 2) - K), 0)

/-- e^-|x| for a magnitude at most 256. -/
def expNeg (W m : Nat) (e : Int) : Iv := Iv.div W (Iv.one W) (Iv.exp W (Iv.ofDyadic W m e))

/-- sigm (R84). -/
def fSigm : Val → Val × Flags
  | .nan => (.nan, 0)
  | .inf s => (if s then .zero else .fin false 1 0, 0)
  | .fin s m e =>
    if m = 0 then (.fin false 1 (-1), 0)
    else if magGt m e 255 then (if s then tinyV false else justBelow false 1 0, 0)
    else
      (decide64 false (fun W =>
        let E := expNeg W m e
        Iv.div W (if s then E else Iv.one W) (Iv.add (Iv.one W) E)), 0)

/-- tanh (R84). -/
def fTanh : Val → Val × Flags
  | .nan => (.nan, 0)
  | .inf s => (.fin s 1 0, 0)
  | .fin s m e =>
    if m = 0 then (.zero s, 0)
    else if magGt m e 127 then (justBelow s 1 0, 0)
    else
      (decide64 s (fun W =>
        let E := expNeg W m (e + 1)
        Iv.div W (Iv.sub (Iv.one W) E) (Iv.add (Iv.one W) E)), 0)

/-- silu(x) = x sigm(x) (R84). -/
def fSilu : Val → Val × Flags
  | .nan => (.nan, 0)
  | .inf s => (if s then .zero true else .inf false, 0)
  | .fin s m e =>
    if m = 0 then (.zero s, 0)
    else if magGt m e 255 then (if s then tinyV true else justBelow false m e, 0)
    else
      (decide64 s (fun W =>
        let E := expNeg W m e
        Iv.mul W (Iv.ofDyadic W m e) (Iv.div W (if s then E else Iv.one W) (Iv.add (Iv.one W) E))), 0)

/-- Φ(-|x|) or Φ(|x|) for a magnitude at most 16, Φ the standard normal distribution function. -/
def phi (W m : Nat) (e : Int) (neg : Bool) : Iv :=
  let x := Iv.ofDyadic W m e
  let u := Iv.divNat (Iv.mul W x x) 2
  let (p, n) := Iv.phiTerms W u (W / 2 + 400) 0 x ⟨0, 0⟩ ⟨0, 0⟩
  let twoPi : Iv := let q := Iv.pi W; Iv.add q q
  let root : Iv := ⟨isqrt (twoPi.lo * 2 ^ W), isqrt (twoPi.hi * 2 ^ W) + 1⟩
  let i := Iv.div W (Iv.sub p n) root
  let half : Iv := ⟨2 ^ (W - 1), 2 ^ (W - 1)⟩
  if neg then Iv.sub half i else Iv.add half i

/-- gelu(x) = x Φ(x) (R84). -/
def fGelu : Val → Val × Flags
  | .nan => (.nan, 0)
  | .inf s => (if s then .zero true else .inf false, 0)
  | .fin s m e =>
    if m = 0 then (.zero s, 0)
    else if magGt m e 15 then (if s then tinyV true else justBelow false m e, 0)
    else (decide64 s (fun W => Iv.mul W (Iv.ofDyadic W m e) (phi W m e s)), 0)

end Sys2Proof.Machine
end

