-- ==== Sys2Proof/Machine/System.lean ====
section
/-! DEFINITION. Token instructions, CSR access from both maps, TRAP, ERET, YIELD, range labels, TINV, FREL and AMEM:
spec/06_access_instructions.md R157-R165, spec/07_execute_instructions.md R188, R191, spec/18_instruction_exceptions.md R369, R371-R373. -/

namespace Sys2Proof.Machine

/-! ### Tokens (R158, R191) -/

/-- Agent codes of the engines (R354). -/
def engineCode (e : Engine) : Nat := match e with | .a => 0 | .x => 1 | .m => 3 | .c => 4

/-- Whether an accumulator access of the X-stream has not finished (R185). -/
def vacwPending (s : State) (ag : Agent) : Bool :=
  (s.bank ag.bank).fly.any fun f => f.kind == .x && f.res.any fun x => match x with | .acc .. => true | _ => false
def vaccPending (s : State) (ag : Agent) : Bool :=
  (s.bank ag.bank).fly.any fun f => f.kind == .x && f.res.any fun x => match x with | .accRead .. => true | _ => false

/-- TOKS: one token at issue, or TOKOVF (R158, R191). -/
def planToks (e : Engine) (dst : BitVec 2) (s : State) (ag : Agent) : Plan :=
  { hold := if e = .x ∧ (vacwPending s ag ∨ vaccPending s ag) then some holdPlain else none
    trap := if 8 ≤ tokHeld (s.bank ag.bank) e (Engine.ofCode dst) then some (cTOKOVF, 0) else none
    act := fun t => t.modBank ag.bank fun b => tokPut b e (Engine.ofCode dst) }

/-- TOKW: a token from every marked queue, all in one cycle (R158, R191). Its wait record names the queue that was empty to the end (R350). -/
def planTokw (e : Engine) (pop : BitVec 4) (s : State) (ag : Agent) : Plan :=
  let q := (s.stream ag).waitOn
  { hold := if popReady (s.bank ag.bank) e pop then none else some holdFlag
    onHold := fun t => t.modStream ag fun x => { x with
      waitOn := (((popSources pop).find? fun y => tokReady (s.bank ag.bank) y e == 0).map fun y => (tokIndex y e).val).getD 0 }
    wait := (q, ag.suite.val + 4096 * engineCode ([Engine.a, .x, .m, .c].getD (q / 3) .a), 1)
    act := fun t => t.modBank ag.bank fun b => popTake b e pop }

/-- TOKS of the A map (R158). -/
def execToksA (dst : BitVec 2) (w : BitVec 4) (s : State) : Host.Outcome State Fault Refusal := issue (.toksA dst w) w (planToks .a dst) s
/-- TOKW of the A map (R158). -/
def execTokwA (pop : BitVec 4) (w : BitVec 4) (s : State) : Host.Outcome State Fault Refusal := issue (.tokwA pop w) w (planTokw .a pop) s
/-- TOKS of the X map (R191). -/
def execToksX (dst : BitVec 2) (w : BitVec 4) (s : State) : Host.Outcome State Fault Refusal := issue (.toksX dst w) w (planToks .x dst) s
/-- TOKW of the X map (R191). -/
def execTokwX (pop : BitVec 4) (w : BitVec 4) (s : State) : Host.Outcome State Fault Refusal := issue (.tokwX pop w) w (planTokw .x pop) s

/-! ### CSR access (R159, R188) -/

/-- Every trap of a CSR write, with tval (R371, R322, R323). -/
def csrWriteTrapFull (s : State) (ag : Agent) (num : Nat) (v : Word) : Option (BitVec 8 × Word) :=
  if 0x1000 ≤ num then some (cILLFLD, 0)
  else
    match csrWriteTrap s ag num v with
    | some c => some (c, 0)
    | none =>
      match ag.bank with
      | .ctx c => if num = 0x403 then ctxstartTrap s c v else if num = 0x404 then lsubmitTrap s c v else none
      | .bank .. => none

/-- A read of a CSR, in the issue cycle. -/
def csrValue (s : State) (ag : Agent) (num : Nat) : Word := match csrRead s ag num with | .ok w => w | .error _ => 0

def planCsrRead (num : Nat) (cls : Nat) (res : Word → Result) (s : State) (ag : Agent) : Plan :=
  { trap := if 0x1000 ≤ num then some (cILLFLD, 0) else match csrRead s ag num with | .error c => some (c, 0) | .ok _ => none
    act := fun t => emit t ag cls [res (csrValue s ag num)] }

/-- What a waiting write does: ALOCK asks for its lock (R404). -/
def csrAsk (s : State) (ag : Agent) (num : Nat) (v : Word) : State :=
  match ag.bank with
  | .bank .. => s
  | .ctx c =>
    let t := ctxTenant s c
    if num = 0x418 then
      let l := (lockOf v.toNat, c)
      if (s.tenant t).lockQueue.contains l then s else s.modTenant t fun x => { x with lockQueue := x.lockQueue ++ [l] }
    else s

/-- A write that issues takes the lock it was granted (R404). -/
def csrTake (s : State) (ag : Agent) (num : Nat) (v : Word) : State :=
  match ag.bank with
  | .bank .. => s
  | .ctx c =>
    if num = 0x418 then
      let l := (lockOf v.toNat, c)
      s.modTenant (ctxTenant s c) fun x =>
        { x with locks := if x.locks.contains l then x.locks else x.locks ++ [l], lockQueue := x.lockQueue.filter fun q => q != l }
    else s

/-- A CSR write: its traps are judged on the value it would leave; it waits where its register says so, and lands by its class. -/
def planCsrWrite (num : Nat) (op : CsrOp) (cls : Nat) (s : State) (ag : Agent) : Plan :=
  let v := csrNew (csrValue s ag num) op
  let trap := csrWriteTrapFull s ag num v
  { hold := if trap.isNone && csrWaits s ag num v then some holdPlain else none
    onHold := fun t => csrAsk t ag num v
    trap := trap
    act := fun t => emit (csrTake t ag num v) ag cls [.csr (BitVec.ofNat 12 num) op] }

/-- The CSR number of CRD and CWR (R159). -/
def csrNumber (s : State) (ag : Agent) (s1 : BitVec 5) (csr : BitVec 11) : Nat := (readA s ag s1).toNat + csr.toNat

/-- CRD (R159). -/
def execCrd (d s1 : BitVec 5) (csr : BitVec 11) (w : BitVec 4) (s : State) : Host.Outcome State Fault Refusal :=
  issue (.crd d s1 csr w) w (fun s ag => planCsrRead (csrNumber s ag s1 csr) 11 (.a d) s ag) s

/-- CWR (R159). -/
def execCwr (d s1 : BitVec 5) (csr : BitVec 11) (w : BitVec 4) (s : State) : Host.Outcome State Fault Refusal :=
  issue (.cwr d s1 csr w) w (fun s ag => planCsrWrite (csrNumber s ag s1 csr) (.write (readA s ag d)) 11 s ag) s

/-- CMW (R159). -/
def execCmw (d s1 : BitVec 5) (csr : BitVec 11) (w : BitVec 4) (s : State) : Host.Outcome State Fault Refusal :=
  issue (.cmw d s1 csr w) w (fun s ag => planCsrWrite csr.toNat (.masked (readA s ag d) (readA s ag s1)) 11 s ag) s

/-- CXC (R159). -/
def execCxc (d s1 : BitVec 5) (csr : BitVec 11) (w : BitVec 4) (s : State) : Host.Outcome State Fault Refusal :=
  issue (.cxc d s1 csr w) w (fun s ag => planCsrWrite csr.toNat (.exchange (readA s ag s1) d) 11 s ag) s

/-- ERD (R188). -/
def execErd (d : BitVec 4) (csr : BitVec 12) (w : BitVec 4) (s : State) : Host.Outcome State Fault Refusal :=
  issue (.erd d csr w) w (fun s ag => planCsrRead csr.toNat 5 (.e d) s ag) s

/-- EWR (R188). -/
def execEwr (d : BitVec 4) (csr : BitVec 12) (w : BitVec 4) (s : State) : Host.Outcome State Fault Refusal :=
  issue (.ewr d csr w) w (fun s ag => planCsrWrite csr.toNat (.write (readE s ag d)) 5 s ag) s

/-- CSR_WRITE: a write to a CSR that has no step of its own changes its writable fields (R53, R159). -/
def execCsrWrite (ag : Agent) (num : BitVec 12) (v : Word) (s : State) : Host.Outcome State Fault Refusal := .next (csrSet s ag num.toNat v)

/-! ### Traps, labels, yielding -/

/-- TRAP (R160). -/
def execTrap (imm : BitVec 16) (w : BitVec 4) (s : State) : Host.Outcome State Fault Refusal :=
  issue (.trap imm w) w (fun _ _ => { trap := some (cSWTRAP, zext imm), retNext := true }) s

/-- ERET (R161, R356): it waits while its frame cannot be read yet. -/
def execEret (w : BitVec 4) (s : State) : Host.Outcome State Fault Refusal :=
  issue (.eret w) w (fun s ag =>
    match ag.bank with
    | .bank .. => {}
    | .ctx c =>
      let st := s.stream ag
      { hold := match (loadVa s (ctxTenant s c) (st.tfbase.toNat + 64 * (st.tfdepth.toNat - 1)) 64).1 with
          | .wait => if st.tfdepth = 0 then none else some holdPlain
          | _ => none
        trap := if st.tfdepth = 0 then some (cILLOP, 0) else none
        act := fun t => stewardReturn t c ag.kind (posOf s ag) }) s

/-- YIELD: the bank is not selected for 16 cycles while the other is runnable; a Steward context only passes issue (R162). -/
def execYieldA (w : BitVec 4) (s : State) : Host.Outcome State Fault Refusal :=
  issue (.yieldA w) w (fun _ ag =>
    { act := fun t => t.modBank ag.bank fun b => { b with yieldLeft := match ag.bank with | .bank .. => 17 | .ctx _ => 2 } }) s

/-- RPUSH (R163). -/
def execRpush (imm : BitVec 16) (w : BitVec 4) (s : State) : Host.Outcome State Fault Refusal :=
  issue (.rpush imm w) w (fun s ag =>
    { act := fun t =>
        if 16 ≤ (s.stream ag).labels.length then t.modStream ag fun x => { x with rlOver := true }
        else rangeRecord (t.modStream ag fun x => { x with labels := imm :: x.labels }) ag 3 imm }) s

/-- RPOP (R163). -/
def execRpop (w : BitVec 4) (s : State) : Host.Outcome State Fault Refusal :=
  issue (.rpop w) w (fun s ag =>
    { act := fun t =>
        match (s.stream ag).labels with
        | [] => t.modStream ag fun x => { x with rlUnder := true }
        | l :: rest => rangeRecord (t.modStream ag fun x => { x with labels := rest }) ag 4 l }) s

/-! ### TINV (R164) -/

/-- TINV (R164, R371). -/
def execTinv (s1 s2 : BitVec 5) (dn : BitVec 4) (w : BitVec 4) (s : State) : Host.Outcome State Fault Refusal :=
  issue (.tinv s1 s2 dn w) w (fun s ag =>
    let x := (readA s ag s1).toNat
    let n := (readA s ag s2).toNat
    match ag.bank with
    | .bank .. => {}
    | .ctx c =>
      { trap :=
          if x / 2 ^ 22 ≠ 0 then some (cILLFLD, 0)
          else if c ≠ hypervisor ∧ natBits x 16 6 ≠ (ctxTenant s c).val then some (cPROT, 0)
          else none
        act := fun t =>
          if n = 0 then doneFor t ag.bank ag.kind dn
          else t.modCtx c fun y => { y with tinv := y.tinv ++ [(x % 65536, natBits x 16 6, n, dn)] } }) s

/-- A monitor whose wait reads a segment of a tenant that `p` selects triggers (R152). -/
def triggerSegment (s : State) (t : TenantId) (p : Nat → Bool) : State :=
  let hit := fun (r : BankRef) => tenantOf s r == t && match (s.bank r).lq.head? with
    | some e => (match e.op with | .waita _ va .. => p (natBits va.toNat 36 16) | _ => false)
    | none => false
  s.modPkg fun q => { q with monitors := q.monitors.map fun (l, r, x) => (l, r, x || hit r) }

/-- No agent holds the contents of the segments that `p` selects any longer (R66). -/
def invalidateSegments (s : State) (t : TenantId) (p : Nat → Bool) : State :=
  l1ClearSeg (s.modPkg fun q => { q with ports := q.ports.filter fun e => match e with
    | .desc t' g _ => !(t' == t && p g)
    | .pte t' g _ _ => !(t' == t && p g) }) t p

/-- TINV_COMPLETION: every access translated with the old contents has performed, for an access translates and performs in one step; the ports
and every L1 lose the named segments, and waits on them read again (R164, R66, R152). -/
def execTinvCompletion (c : CtxId) (s : State) : Host.Outcome State Fault Refusal :=
  .next <|
    match (s.ctx c).tinv with
    | [] => s
    | (first, t, n, dn) :: rest =>
      let tn : TenantId := ⟨t % 64, by omega⟩
      let p := fun (g : Nat) => decide (first ≤ g) && decide (g < first + n)
      let s1 := invalidateSegments (s.modCtx c fun x => { x with tinv := rest }) tn p
      doneFor (triggerSegment s1 tn p) (.ctx c) .a dn

/-! ### FREL (R165, R402) -/

/-- The owner that the key manager records for a frame. -/
def frameOwner (s : State) (frame : Nat) : Option TenantId := (s.pkg.frames.owner.find? fun p => p.1 == frame).map (·.2)

/-- FREL (R165, R371): from its acceptance the frame is in release. -/
def execFrel (s1 s2 : BitVec 5) (dn : BitVec 4) (w : BitVec 4) (s : State) : Host.Outcome State Fault Refusal :=
  issue (.frel s1 s2 dn w) w (fun s ag =>
    let f := (readA s ag s1).toNat
    let x := (readA s ag s2).toNat
    let r : TenantId := ⟨x % 64, Nat.mod_lt _ (by decide)⟩
    let slot : Fin 128 := ⟨natBits x 8 7, Nat.mod_lt _ (by decide)⟩
    match ag.bank with
    | .bank .. => {}
    | .ctx c =>
      { trap :=
          if f / 2 ^ 40 ≠ 0 ∨ x / 2 ^ 15 ≠ 0 ∨ natBits x 6 2 ≠ 0 then some (cILLFLD, 0)
          else if c ≠ hypervisor ∧ frameOwner s f ≠ some (ctxTenant s c) then some (cPROT, 0)
          else if (s.pkg.keys.get slot).tenant ≠ some r then some (cPROT, 0)
          else none
        act := fun t => (t.modCtx c fun y => { y with frel := y.frel ++ [(f, r, slot.val, dn)] }).modPkg fun p =>
          { p with frames := { p.frames with releasing := (f, r) :: p.frames.releasing } } }) s

/-- FREL_COMPLETION: the frame is zeroed under the receiver's key, every copy of its lines goes, and the receiver owns it (R165, R402). -/
def execFrelCompletion (c : CtxId) (s : State) : Host.Outcome State Fault Refusal :=
  .next <|
    match (s.ctx c).frel with
    | [] => s
    | (f, r, slot, dn) :: rest =>
      let s1 := s.modCtx c fun x => { x with frel := rest }
      let s2 := s1.modPkg fun p =>
        { p with mem := memClear p.mem (f * 65536) 65536
                 stamps := (List.range 4096).map (fun i => (f * 4096 + i, stampOf s1 slot)) ++ p.stamps.filter (fun q => q.1 / 4096 != f)
                 poison := p.poison.filter fun l => l / 1024 != f
                 setters := (List.range 8192).map (fun i => (f * 8192 + i, BitVec.ofNat 16 (256 + c.val))) ++ p.setters.filter (fun q => q.1 / 8192 != f)
                 monitors := p.monitors.map fun (l, w, x) => (l, w, x || l / 1024 == f)
                 frames := { owner := (f, r) :: p.frames.owner.filter (fun q => q.1 != f), releasing := p.frames.releasing.erase (f, r) } }
      let s3 := { s2 with suites := s2.suites.map fun x => { x with l1 := x.l1.filter fun e => !e.frames.contains f } }
      doneFor s3 (.ctx c) .a dn

/-! ### AMEM (R157, R403) -/

/-- AMEM traps ATOMEMU at every execution, once every earlier access of the stream has performed. -/
def execAmem (d s1 s2 : BitVec 5) (dn : BitVec 4) (sub : BitVec 2) (w : BitVec 4) (s : State) : Host.Outcome State Fault Refusal :=
  issue (.amem d s1 s2 dn sub w) w (fun s ag =>
    { hold := if earlierPending (s.bank ag.bank) (s.bank ag.bank).nextSeq then some holdPlain else none
      trap := some (cATOMEMU, readA s ag s1) }) s

end Sys2Proof.Machine
end

