-- ==== Sys2Proof/Machine/Tiles.lean ====
section
/-! DEFINITION. The tile arithmetic of the X map: element grids, lanewise operations, comparison, selection, conversion, CB4 and scaling:
spec/07_execute_instructions.md R166-R178. -/

namespace Sys2Proof.Machine

/-! ### Element grids (R45, R166) -/

/-- Elements of a row. -/
def Fmt.rowLen (f : Fmt) : Nat := if f = .cb4 then 512 else 256 / f.esz

/-- Element j of a row. -/
def rowElem (row : Vector Byte 256) (f : Fmt) (j : Nat) : Nat :=
  let b := fun (k : Nat) => (row.toArray.getD k 0).toNat
  match f.width with
  | 4 => natBits (b (j / 2)) (4 * (j % 2)) 4
  | 8 => b j
  | 16 => b (2 * j) + 256 * b (2 * j + 1)
  | 32 => b (4 * j) + 256 * b (4 * j + 1) + 65536 * b (4 * j + 2) + 16777216 * b (4 * j + 3)
  | _ => leNat ((List.range 8).map fun k => row.toArray.getD (8 * j + k) 0)

/-- Element (i, j) of a tile. -/
def elemAt (t : Tile) (f : Fmt) (i : Fin 128) (j : Nat) : Nat := rowElem (t.get i) f j

/-- The values of a tile's elements with the flags each raised, row by row. -/
abbrev Grid := Vector (Array (Nat × Flags)) 128

/-- The grid of a format from a function of row and column. -/
def gridOf (f : Fmt) (g : Fin 128 → Nat → Nat × Flags) : Grid := Vector.ofFn fun i => Array.ofFn (n := f.rowLen) fun j => g i j.val

/-- The tile that a grid of a format fills, whole rows of whole elements. -/
def gridTile (f : Fmt) (g : Grid) : Tile :=
  Vector.ofFn fun i =>
    let row := g.get i
    Vector.ofFn fun b =>
      let e := fun (j : Nat) => (row.getD j (0, 0)).1
      if f = .cb4 then BitVec.ofNat 8 (e (2 * b.val) % 16 + 16 * (e (2 * b.val + 1) % 16))
      else BitVec.ofNat 8 (e (b.val / f.esz) / 256 ^ (b.val % f.esz))

/-- The union of the flags of a grid (R167). -/
def gridFlags (g : Grid) : Flags := g.foldl (fun a row => row.foldl (fun a x => a ||| x.2) a) 0

/-- The signed or unsigned integer of an element's bits (R74). -/
def intOf (f : Fmt) (x : Nat) : Int := if f = .u8 then (x % 256 : Nat) else signedOf f.width x

/-- The tile operand of a field as it reads now. -/
def tileOp (s : State) (ag : Agent) (t : BitVec 6) : Tile := readTile s ag.suite (physTile s ag.bank t)

/-- An instruction that fills a tile from a grid and records its flags. -/
def planGrid (cls : Nat) (d : BitVec 6) (f : Fmt) (g : Unit → Grid) (s : State) (ag : Agent) : Plan :=
  { act := fun t => let x := g (); emit t ag cls [.tile (physTile s ag.bank d) (gridTile f x) false] (gridFlags x) }

/-- An instruction that fills a tile without flags. -/
def planTile (cls : Nat) (d : BitVec 6) (v : Unit → Tile) (s : State) (ag : Agent) : Plan :=
  { act := fun t => emit t ag cls [.tile (physTile s ag.bank d) (v ()) false] }

/-! ### Arithmetic (R170) -/

/-- The X-stream's rounding mode, sampled at issue (R167). -/
def frmOf (s : State) (ag : Agent) : BitVec 2 := (s.stream ag).frm

/-- Exact results with their own flags, rounded once (R170). -/
def roundTo (f : Fmt) (rm : BitVec 2) (x : Val × Flags) : Nat × Flags := let (b, fl) := cvt x.1 f rm false; (b, x.2 ||| fl)

/-- A lanewise operation of two or three sources: a float rule on exact values and an integer rule on bit patterns. -/
def planLane (d s1 s2 : BitVec 6) (ty : BitVec 3) (fl : BitVec 2 → Val → Val → Val → Val × Flags) (int : Fmt → Nat → Nat → Nat → Nat)
    (s : State) (ag : Agent) : Plan :=
  let f := Fmt.ofTy ty
  let rm := frmOf s ag
  let x := tileOp s ag s1
  let y := tileOp s ag s2
  let z := tileOp s ag d
  planGrid 5 d f (fun _ => gridOf f fun i j =>
    let a := elemAt x f i j
    let b := elemAt y f i j
    let c := elemAt z f i j
    if f.isF then roundTo f rm (fl rm (dec a f) (dec b f) (dec c f)) else (int f a b c % 2 ^ f.width, 0)) s ag

/-- An integer as a pattern of the format's width. -/
def patOf (f : Fmt) (v : Int) : Nat := (v % 2 ^ f.width).toNat

/-- VADD (R170). -/
def execVadd (d s1 s2 : BitVec 6) (ty : BitVec 3) (w : BitVec 4) (s : State) : Host.Outcome State Fault Refusal :=
  issue (.vadd d s1 s2 ty w) w (planLane d s1 s2 ty (fun rm x y _ => addV (rm == 3) x y) fun _ x y _ => x + y) s

/-- VSUB (R170). -/
def execVsub (d s1 s2 : BitVec 6) (ty : BitVec 3) (w : BitVec 4) (s : State) : Host.Outcome State Fault Refusal :=
  issue (.vsub d s1 s2 ty w) w
    (planLane d s1 s2 ty (fun rm x y _ => addV (rm == 3) x y.negate) fun f x y _ => patOf f (intOf f x - intOf f y)) s

/-- VMUL (R170). -/
def execVmul (d s1 s2 : BitVec 6) (ty : BitVec 3) (w : BitVec 4) (s : State) : Host.Outcome State Fault Refusal :=
  issue (.vmul d s1 s2 ty w) w (planLane d s1 s2 ty (fun _ x y _ => mulV x y) fun _ x y _ => x * y) s

/-- x × y + z, exact, with the invalid operations of both steps (R72, R170). -/
def fmaV (rm : BitVec 2) (x y z : Val) : Val × Flags :=
  let (p, f1) := mulV x y
  let (r, f2) := addV (rm == 3) p z
  (r, f1 ||| f2)

/-- VFMA (R170). -/
def execVfma (d s1 s2 : BitVec 6) (ty : BitVec 3) (w : BitVec 4) (s : State) : Host.Outcome State Fault Refusal :=
  issue (.vfma d s1 s2 ty w) w (planLane d s1 s2 ty (fun rm x y z => fmaV rm x y z) fun _ x y z => x * y + z) s

/-- VFMS (R170). -/
def execVfms (d s1 s2 : BitVec 6) (ty : BitVec 3) (w : BitVec 4) (s : State) : Host.Outcome State Fault Refusal :=
  issue (.vfms d s1 s2 ty w) w
    (planLane d s1 s2 ty (fun rm x y z => fmaV rm x y z.negate) fun f x y z => patOf f (intOf f x * intOf f y - intOf f z)) s

/-- VMIN (R170). -/
def execVmin (d s1 s2 : BitVec 6) (ty : BitVec 3) (w : BitVec 4) (s : State) : Host.Outcome State Fault Refusal :=
  issue (.vmin d s1 s2 ty w) w
    (planLane d s1 s2 ty (fun _ x y _ => (minMaxV false x y, 0)) fun f x y _ => if intOf f y < intOf f x then y else x) s

/-- VMAX (R170). -/
def execVmax (d s1 s2 : BitVec 6) (ty : BitVec 3) (w : BitVec 4) (s : State) : Host.Outcome State Fault Refusal :=
  issue (.vmax d s1 s2 ty w) w
    (planLane d s1 s2 ty (fun _ x y _ => (minMaxV true x y, 0)) fun f x y _ => if intOf f x < intOf f y then y else x) s

/-- VABS (R170). -/
def execVabs (d s1 : BitVec 6) (ty : BitVec 3) (w : BitVec 4) (s : State) : Host.Outcome State Fault Refusal :=
  issue (.vabs d s1 ty w) w
    (planLane d s1 s1 ty (fun _ x _ _ => (x.abs, 0)) fun f x _ _ => if intOf f x < 0 then patOf f (-intOf f x) else x) s

/-- VNEG (R170). -/
def execVneg (d s1 : BitVec 6) (ty : BitVec 3) (w : BitVec 4) (s : State) : Host.Outcome State Fault Refusal :=
  issue (.vneg d s1 ty w) w (planLane d s1 s1 ty (fun _ x _ _ => (x.negate, 0)) fun f x _ _ => patOf f (-intOf f x)) s

/-! ### Bits and shifts (R171) -/

/-- A bytewise operation on whole tiles. -/
def planBytes (d s1 s2 : BitVec 6) (f : Byte → Byte → Byte) (s : State) (ag : Agent) : Plan :=
  let x := tileOp s ag s1
  let y := tileOp s ag s2
  planTile 5 d (fun _ => Vector.ofFn fun i => Vector.ofFn fun b => f ((x.get i).get b) ((y.get i).get b)) s ag

/-- VAND (R171). -/
def execVand (d s1 s2 : BitVec 6) (w : BitVec 4) (s : State) : Host.Outcome State Fault Refusal :=
  issue (.vand d s1 s2 w) w (planBytes d s1 s2 fun x y => x &&& y) s

/-- VOR (R171). -/
def execVor (d s1 s2 : BitVec 6) (w : BitVec 4) (s : State) : Host.Outcome State Fault Refusal :=
  issue (.vor d s1 s2 w) w (planBytes d s1 s2 fun x y => x ||| y) s

/-- VXOR (R171). -/
def execVxor (d s1 s2 : BitVec 6) (w : BitVec 4) (s : State) : Host.Outcome State Fault Refusal :=
  issue (.vxor d s1 s2 w) w (planBytes d s1 s2 fun x y => x ^^^ y) s

/-- VNOT (R171). -/
def execVnot (d s1 : BitVec 6) (w : BitVec 4) (s : State) : Host.Outcome State Fault Refusal :=
  issue (.vnot d s1 w) w (planBytes d s1 s1 fun x _ => ~~~x) s

/-- A shift of integer elements by y mod w (R171). -/
def planShift (d s1 s2 : BitVec 6) (ty : BitVec 3) (g : Nat → Nat → Nat → Nat) (s : State) (ag : Agent) : Plan :=
  let f := Fmt.ofTy ty
  let x := tileOp s ag s1
  let y := tileOp s ag s2
  planGrid 5 d f (fun _ => gridOf f fun i j => (g f.width (elemAt x f i j) (elemAt y f i j % f.width) % 2 ^ f.width, 0)) s ag

/-- VSHL (R171). -/
def execVshl (d s1 s2 : BitVec 6) (ty : BitVec 3) (w : BitVec 4) (s : State) : Host.Outcome State Fault Refusal :=
  issue (.vshl d s1 s2 ty w) w (planShift d s1 s2 ty fun _ x n => x * 2 ^ n) s

/-- VSHR (R171). -/
def execVshr (d s1 s2 : BitVec 6) (ty : BitVec 3) (w : BitVec 4) (s : State) : Host.Outcome State Fault Refusal :=
  issue (.vshr d s1 s2 ty w) w (planShift d s1 s2 ty fun _ x n => x / 2 ^ n) s

/-- VSRA replicates the top bit of the pattern (R171). -/
def execVsra (d s1 s2 : BitVec 6) (ty : BitVec 3) (w : BitVec 4) (s : State) : Host.Outcome State Fault Refusal :=
  issue (.vsra d s1 s2 ty w) w (planShift d s1 s2 ty fun k x n => (signedOf k x / 2 ^ n % 2 ^ k).toNat) s

/-! ### Masks (R46, R172, R173, R186) -/

/-- A mask row in which every bit of an element is the element's result (R46). -/
def maskRow (f : Fmt) (g : Nat → Bool) : BitVec 256 :=
  BitVec.ofNat 256 ((List.range f.rowLen).foldl (fun a j => if g j then a + (2 ^ f.esz - 1) * 2 ^ (f.esz * j) else a) 0)

/-- The conditions of R172. -/
def cmpHolds (cond : BitVec 3) (f : Fmt) (x y : Nat) : Bool :=
  let (un, lt, eq) :=
    if f.isF then
      (let a := dec x f; let b := dec y f; (a.isNaN || b.isNaN, ltV a b, eqV a b))
    else (false, decide (intOf f x < intOf f y), intOf f x == intOf f y)
  match cond.toNat with
  | 0 => !un && eq
  | 1 => un || !eq
  | 2 => !un && lt
  | 3 => !un && (lt || eq)
  | 4 => !un && !lt && !eq
  | 5 => !un && !lt
  | 6 => un
  | _ => !un

/-- VCMP (R172). -/
def execVcmp (md : BitVec 3) (cond : BitVec 3) (s1 s2 : BitVec 6) (ty : BitVec 3) (w : BitVec 4) (s : State) :
    Host.Outcome State Fault Refusal :=
  issue (.vcmp md cond s1 s2 ty w) w (fun s ag =>
    let f := Fmt.ofTy ty
    let x := tileOp s ag s1
    let y := tileOp s ag s2
    { act := fun t => emit t ag 5
        [.mask (physMask s ag.bank md) (Vector.ofFn fun i => maskRow f fun j => cmpHolds cond f (elemAt x f i j) (elemAt y f i j))] }) s

def maskOp (s : State) (ag : Agent) (m : BitVec 3) : Mask := (s.suite ag.suite).masks.get (physMask s ag.bank m)

/-- VSEL: the bit of an element's lowest byte governs it (R46, R173). -/
def execVsel (d s1 : BitVec 6) (m : BitVec 3) (ty : BitVec 3) (w : BitVec 4) (s : State) : Host.Outcome State Fault Refusal :=
  issue (.vsel d s1 m ty w) w (fun s ag =>
    let e := (Fmt.ofTy ty).esz
    let x := tileOp s ag s1
    let z := tileOp s ag d
    let k := maskOp s ag m
    planTile 5 d (fun _ => Vector.ofFn fun i => Vector.ofFn fun b =>
      if (k.get i).getLsbD (b.val - b.val % e) then (x.get i).get b else (z.get i).get b) s ag) s

/-- A mask operation (R186). -/
def planMask (md : BitVec 3) (v : Mask) (s : State) (ag : Agent) : Plan := { act := fun t => emit t ag 5 [.mask (physMask s ag.bank md) v] }

/-- MAND (R186). -/
def execMand (md ms1 ms2 : BitVec 3) (w : BitVec 4) (s : State) : Host.Outcome State Fault Refusal :=
  issue (.mand md ms1 ms2 w) w (fun s ag =>
    planMask md (Vector.ofFn fun i => (maskOp s ag ms1).get i &&& (maskOp s ag ms2).get i) s ag) s

/-- MOR (R186). -/
def execMor (md ms1 ms2 : BitVec 3) (w : BitVec 4) (s : State) : Host.Outcome State Fault Refusal :=
  issue (.mor md ms1 ms2 w) w (fun s ag =>
    planMask md (Vector.ofFn fun i => (maskOp s ag ms1).get i ||| (maskOp s ag ms2).get i) s ag) s

/-- MXOR (R186). -/
def execMxor (md ms1 ms2 : BitVec 3) (w : BitVec 4) (s : State) : Host.Outcome State Fault Refusal :=
  issue (.mxor md ms1 ms2 w) w (fun s ag =>
    planMask md (Vector.ofFn fun i => (maskOp s ag ms1).get i ^^^ (maskOp s ag ms2).get i) s ag) s

/-- MNOT (R186). -/
def execMnot (md ms1 : BitVec 3) (w : BitVec 4) (s : State) : Host.Outcome State Fault Refusal :=
  issue (.mnot md ms1 w) w (fun s ag => planMask md (Vector.ofFn fun i => ~~~(maskOp s ag ms1).get i) s ag) s

/-- The number of set bits of a mask. -/
def maskCount (m : Mask) : Nat := m.foldl (fun a r => a + (List.range 256).countP fun i => r.getLsbD i) 0

/-- MPOP (R186). -/
def execMpop (md ms1 : BitVec 3) (w : BitVec 4) (s : State) : Host.Outcome State Fault Refusal :=
  issue (.mpop md ms1 w) w (fun s ag => { act := fun t => emit t ag 5 [.e (md.setWidth 4) (BitVec.ofNat 64 (maskCount (maskOp s ag ms1)))] }) s

/-! ### Functions (R174) -/

/-- A function of one source, exact and then rounded once (R84, R174). -/
def planFun (d s1 : BitVec 6) (ty : BitVec 3) (g : Val → Val × Flags) (s : State) (ag : Agent) : Plan :=
  let f := Fmt.ofTy ty
  let rm := frmOf s ag
  let x := tileOp s ag s1
  planGrid 6 d f (fun _ => gridOf f fun i j => roundTo f rm (g (dec (elemAt x f i j) f))) s ag

/-- VEXP2 (R174). -/
def execVexp2 (d s1 : BitVec 6) (ty : BitVec 3) (w : BitVec 4) (s : State) : Host.Outcome State Fault Refusal :=
  issue (.vexp2 d s1 ty w) w (planFun d s1 ty fExp2) s

/-- VLOG2 (R174). -/
def execVlog2 (d s1 : BitVec 6) (ty : BitVec 3) (w : BitVec 4) (s : State) : Host.Outcome State Fault Refusal :=
  issue (.vlog2 d s1 ty w) w (planFun d s1 ty fLog2) s

/-- VRCP (R174). -/
def execVrcp (d s1 : BitVec 6) (ty : BitVec 3) (w : BitVec 4) (s : State) : Host.Outcome State Fault Refusal :=
  issue (.vrcp d s1 ty w) w (planFun d s1 ty fRcp) s

/-- VRSQ (R174). -/
def execVrsq (d s1 : BitVec 6) (ty : BitVec 3) (w : BitVec 4) (s : State) : Host.Outcome State Fault Refusal :=
  issue (.vrsq d s1 ty w) w (planFun d s1 ty fRsq) s

/-- VSQRT (R174). -/
def execVsqrt (d s1 : BitVec 6) (ty : BitVec 3) (w : BitVec 4) (s : State) : Host.Outcome State Fault Refusal :=
  issue (.vsqrt d s1 ty w) w (planFun d s1 ty fSqrt) s

/-- VSIGM (R174). -/
def execVsigm (d s1 : BitVec 6) (ty : BitVec 3) (w : BitVec 4) (s : State) : Host.Outcome State Fault Refusal :=
  issue (.vsigm d s1 ty w) w (planFun d s1 ty fSigm) s

/-- VTANH (R174). -/
def execVtanh (d s1 : BitVec 6) (ty : BitVec 3) (w : BitVec 4) (s : State) : Host.Outcome State Fault Refusal :=
  issue (.vtanh d s1 ty w) w (planFun d s1 ty fTanh) s

/-! ### Conversion and CB4 (R175-R178) -/

/-- One element of VCVT: equal types copy the bits, with every NaN canonical (R168, R175, R373); so does an infinity under SAT, with no flag
(DEDUCED, log 49). -/
def vcvtElem (f g : Fmt) (rm : BitVec 2) (ov : Bool) (x : Nat) : Nat × Flags :=
  if f = g then (if f.isInt then (x, 0) else (canonBits x f, 0)) else cvt (dec x f) g rm ov

/-- VCVT, d in produce mode (R168, R175). -/
def execVcvt (d s1 : BitVec 6) (dty : BitVec 3) (rm : BitVec 2) (ov : BitVec 1) (ty : BitVec 3) (w : BitVec 4) (s : State) :
    Host.Outcome State Fault Refusal :=
  issue (.vcvt d s1 dty rm ov ty w) w (fun s ag =>
    let f := Fmt.ofTy ty
    let g := Fmt.ofTy dty
    let p := physTile s ag.bank d
    let x := tileOp s ag s1
    { hold := produceHold s ag.suite p
      wait := tileWait s ag.suite p
      act := fun t =>
        let v := gridOf g fun i j => if j < f.rowLen then vcvtElem f g rm (ov == 1) (elemAt x f i j) else (0, 0)
        emit (modTileFlag t ag.suite p fun q => { q with producing := true }) ag 8 [.tile p (gridTile g v) true] (gridFlags v) }) s

/-- The super-scale of a row of a scale tile, and the scale code of a block (R176). -/
def superScale (t : Tile) (i : Fin 128) : Val := dec (rowElem (t.get i) .fp32 2) .fp32
def scaleCode (t : Tile) (i : Fin 128) (b : Nat) : Nat := rowElem (t.get i) .u8 b

/-- The exact value of a code under a scale: S × (s + 1) × k(c) × 2^-18 (R81). -/
def cb4Val (sc : Val) (s c : Nat) : Val × Flags := mulV sc ((Val.ofInt (((s + 1 : Nat) : Int) * cb4 c)).scale (-18))

/-- VQDEC, s1 in consume mode (R168, R176). -/
def execVqdec (d s1 s2 : BitVec 6) (ty : BitVec 3) (w : BitVec 4) (s : State) : Host.Outcome State Fault Refusal :=
  issue (.vqdec d s1 s2 ty w) w (fun s ag =>
    let f := Fmt.ofTy ty
    let p := physTile s ag.bank s1
    let rm := frmOf s ag
    let x := tileOp s ag s1
    let y := tileOp s ag s2
    { hold := consumeHold s ag.suite p
      wait := tileWait s ag.suite p
      act := fun t =>
        let v := gridOf f fun i j => roundTo f rm (cb4Val (superScale y i) (scaleCode y i (j / 64)) (elemAt x .cb4 i j))
        emit (modTileFlag t ag.suite p fun q => { q with consuming := true }) ag 8
          [.tile (physTile s ag.bank d) (gridTile f v) false, .consume p] (gridFlags v) }) s

/-- The distance of a value from v(c) in units of 2^b, and |k(c)|. -/
def cb4Dist (x sc : Val) (s : Nat) (b : Int) (c : Nat) : Nat × Nat :=
  ((Val.units b x - Val.units b (cb4Val sc s c).1).natAbs, (cb4 c).natAbs)

/-- The nearest code, the smaller |k| on a tie (R177). -/
def nearestCode (x sc : Val) (s : Nat) : Nat × Bool :=
  let e := fun (v : Val) => match v with | .fin _ _ k => k | _ => 0
  let b := min (e x) (e sc - 18)
  let best := (List.range 16).foldl (fun m c =>
    let p := cb4Dist x sc s b m
    let q := cb4Dist x sc s b c
    if q.1 < p.1 ∨ (q.1 = p.1 ∧ q.2 < p.2) then c else m) 0
  (best, (cb4Dist x sc s b best).1 != 0)

/-- The code of greatest (or least) v (R177). -/
def extremeCode (sc : Val) (greatest : Bool) : Nat :=
  match sc with
  | .fin neg _ _ => if neg == greatest then 0 else 15
  | _ => 7

/-- One element of VQENC (R177). -/
def vqencElem (x sc : Val) (s : Nat) : Nat × Flags :=
  if x.isNaN || !sc.isFinite then (7, Flags.invalid)
  else if sc.isZero then (7, if x.isZero then 0 else Flags.inexact)
  else
    match x with
    | .inf neg => (extremeCode sc (!neg), Flags.inexact)
    | _ => let (c, ix) := nearestCode x sc s; (c, if ix then Flags.inexact else 0)

/-- VQENC, d in produce mode (R168, R177). -/
def execVqenc (d s1 s2 : BitVec 6) (ty : BitVec 3) (w : BitVec 4) (s : State) : Host.Outcome State Fault Refusal :=
  issue (.vqenc d s1 s2 ty w) w (fun s ag =>
    let f := Fmt.ofTy ty
    let p := physTile s ag.bank d
    let x := tileOp s ag s1
    let y := tileOp s ag s2
    { hold := produceHold s ag.suite p
      wait := tileWait s ag.suite p
      act := fun t =>
        let v := gridOf .cb4 fun i j =>
          if j < f.rowLen then vqencElem (dec (elemAt x f i j) f) (superScale y i) (scaleCode y i (j / 64)) else (7, 0)
        emit (modTileFlag t ag.suite p fun q => { q with producing := true }) ag 8 [.tile p (gridTile .cb4 v) true] (gridFlags v) }) s

/-- VSCL (R178). -/
def execVscl (d s1 s2 : BitVec 6) (ty : BitVec 3) (w : BitVec 4) (s : State) : Host.Outcome State Fault Refusal :=
  issue (.vscl d s1 s2 ty w) w (fun s ag =>
    let f := Fmt.ofTy ty
    let rm := frmOf s ag
    let x := tileOp s ag s1
    let y := tileOp s ag s2
    planGrid 5 d f (fun _ => gridOf f fun i j => roundTo f rm (mulV (dec (elemAt x f i j) f) (dec (elemAt y f i 0) f))) s ag) s

end Sys2Proof.Machine
end

