-- ==== Sys2Proof/Machine/Lines.lean ====
section
/-! DEFINITION. Reductions and scans, tile movement, accumulator access and the scalar instructions of the X map:
spec/07_execute_instructions.md R179-R187. -/

namespace Sys2Proof.Machine

/-! ### Reductions and scans (R179-R181) -/

/-- An element as reductions take it: a NaN is canonical (R72). -/
def lineElem (f : Fmt) (x : Nat) : Nat := if f.isF then canonBits x f else x

/-- rnd(x + y) (R180). -/
def addRnd (f : Fmt) (rm : BitVec 2) (x y : Nat × Flags) : Nat × Flags :=
  if f.isF then
    let (b, fl) := roundTo f rm (addV (rm == 3) (dec x.1 f) (dec y.1 f))
    (b, x.2 ||| y.2 ||| fl)
  else ((x.1 + y.1) % 2 ^ f.width, 0)

/-- Sums of neighbouring pairs. -/
def pairSums (add : Nat × Flags → Nat × Flags → Nat × Flags) : List (Nat × Flags) → List (Nat × Flags)
  | x :: y :: t => add x y :: pairSums add t
  | l => l

/-- tree(0, 2^p) of a list of 2^p elements (R180). -/
def treeSum (add : Nat × Flags → Nat × Flags → Nat × Flags) : Nat → List (Nat × Flags) → Nat × Flags
  | 0, l => l.headD (0, 0)
  | p + 1, l => if l.length ≤ 1 then l.headD (0, 0) else treeSum add p (pairSums add l)

/-- seq(0, n-1) (R180). -/
def seqSum (add : Nat × Flags → Nat × Flags → Nat × Flags) : List (Nat × Flags) → Nat × Flags
  | [] => (0, 0)
  | x :: t => t.foldl add x

/-- Every seq(0, m) (R181). -/
def seqScan (add : Nat × Flags → Nat × Flags → Nat × Flags) : Nat × Flags → List (Nat × Flags) → List (Nat × Flags)
  | _, [] => []
  | y, x :: t => let z := add y x; z :: seqScan add z t

/-- Sums of the aligned blocks of a prefix, least block first, as (p, tree sum): one more element joins equal blocks. -/
def carryBlocks (add : Nat × Flags → Nat × Flags → Nat × Flags) : Nat → Nat → Nat × Flags → List (Nat × (Nat × Flags)) →
    List (Nat × (Nat × Flags))
  | 0, p, x, l => (p, x) :: l
  | n + 1, p, x, l =>
    match l with
    | (q, y) :: t => if q = p then carryBlocks add n (p + 1) (add y x) t else (p, x) :: l
    | [] => [(p, x)]

/-- rnd(… rnd(T_1 + T_2) … + T_r) over the blocks of a prefix, greatest block first (R181). -/
def joinBlocks (add : Nat × Flags → Nat × Flags → Nat × Flags) (l : List (Nat × (Nat × Flags))) : Nat × Flags :=
  seqSum add ((l.map (·.2)).reverse)

/-- Every P_m under tree (R181). -/
def treeScan (add : Nat × Flags → Nat × Flags → Nat × Flags) : List (Nat × (Nat × Flags)) → List (Nat × Flags) → List (Nat × Flags)
  | _, [] => []
  | bl, x :: t =>
    let bl' := carryBlocks add 16 0 x bl
    joinBlocks add bl' :: treeScan add bl' t

/-- The greatest or least of a line (R180). -/
def extremeOf (f : Fmt) (mx : Bool) (x y : Nat × Flags) : Nat × Flags :=
  if f.isF then ((cvt (minMaxV mx (dec x.1 f) (dec y.1 f)) f 0 false).1, 0)
  else (if (if mx then decide (intOf f x.1 < intOf f y.1) else decide (intOf f y.1 < intOf f x.1)) then y.1 else x.1, 0)

/-- VRED of one line. -/
def redLine (f : Fmt) (rm : BitVec 2) (tree : Bool) (kind : BitVec 2) (l : List (Nat × Flags)) : Nat × Flags :=
  match kind.toNat with
  | 0 => if tree then treeSum (addRnd f rm) 8 l else seqSum (addRnd f rm) l
  | 1 => seqSum (extremeOf f true) l
  | _ => seqSum (extremeOf f false) l

/-- VSCAN of one line. -/
def scanLine (f : Fmt) (rm : BitVec 2) (tree excl : Bool) (l : List (Nat × Flags)) : List (Nat × Flags) :=
  let p := if tree then treeScan (addRnd f rm) [] l else match l with | [] => [] | x :: t => x :: seqScan (addRnd f rm) x t
  if excl then (0, 0) :: p.dropLast else p

/-- Row i of a tile, or its column j, as a line. -/
def rowLine (t : Tile) (f : Fmt) (i : Fin 128) : List (Nat × Flags) := (List.range f.rowLen).map fun j => (lineElem f (elemAt t f i j), 0)
def colLine (t : Tile) (f : Fmt) (j : Nat) : List (Nat × Flags) := (List.finRange 128).map fun i => (lineElem f (elemAt t f i j), 0)

/-- VRED (R179, R180): the results stand in column 0 or row 0, every other element is zero. -/
def execVred (d s1 : BitVec 6) (order axis : BitVec 1) (kind : BitVec 2) (ty : BitVec 3) (w : BitVec 4) (s : State) :
    Host.Outcome State Fault Refusal :=
  issue (.vred d s1 order axis kind ty w) w (fun s ag =>
    let f := Fmt.ofTy ty
    let rm := frmOf s ag
    let x := tileOp s ag s1
    planGrid 9 d f (fun _ =>
      if axis = 0 then
        let r : Vector (Nat × Flags) 128 := Vector.ofFn fun i => redLine f rm (order == 1) kind (rowLine x f i)
        gridOf f fun i j => if j = 0 then r.get i else (0, 0)
      else
        let r := Array.ofFn (n := f.rowLen) fun j => redLine f rm (order == 1) kind (colLine x f j.val)
        gridOf f fun i j => if i = 0 then r.getD j (0, 0) else (0, 0)) s ag) s

/-- VSCAN (R179, R181). An exclusive scan raises the flags of the prefixes it writes. -/
def execVscan (d s1 : BitVec 6) (order axis : BitVec 1) (kind : BitVec 2) (ty : BitVec 3) (w : BitVec 4) (s : State) :
    Host.Outcome State Fault Refusal :=
  issue (.vscan d s1 order axis kind ty w) w (fun s ag =>
    let f := Fmt.ofTy ty
    let rm := frmOf s ag
    let x := tileOp s ag s1
    planGrid 9 d f (fun _ =>
      if axis = 0 then
        let r : Vector (Array (Nat × Flags)) 128 := Vector.ofFn fun i => (scanLine f rm (order == 1) (kind == 1) (rowLine x f i)).toArray
        gridOf f fun i j => (r.get i).getD j (0, 0)
      else
        let r := Array.ofFn (n := f.rowLen) fun j => (scanLine f rm (order == 1) (kind == 1) (colLine x f j.val)).toArray
        gridOf f fun i j => (r.getD j #[]).getD i.val (0, 0)) s ag) s

/-! ### Movement (R182) -/

/-- A tile whose element (i, j) is an element of another, or zero; ty sets only the element size. -/
def planMove (d s1 : BitVec 6) (ty : BitVec 3) (g : Fmt → Fin 128 → Nat → Option (Fin 128 × Nat)) (s : State) (ag : Agent) : Plan :=
  let f := Fmt.ofTy ty
  let x := tileOp s ag s1
  planTile 5 d (fun _ => gridTile f (gridOf f fun i j => match g f i j with | some (k, l) => (elemAt x f k l, 0) | none => (0, 0))) s ag

/-- VBCR (R182). -/
def execVbcr (d s1 : BitVec 6) (ty : BitVec 3) (w : BitVec 4) (s : State) : Host.Outcome State Fault Refusal :=
  issue (.vbcr d s1 ty w) w (planMove d s1 ty fun _ _ j => some (0, j)) s

/-- VBCC (R182). -/
def execVbcc (d s1 : BitVec 6) (ty : BitVec 3) (w : BitVec 4) (s : State) : Host.Outcome State Fault Refusal :=
  issue (.vbcc d s1 ty w) w (planMove d s1 ty fun _ i _ => some (i, 0)) s

/-- VBCS (R182). -/
def execVbcs (d s1 : BitVec 6) (ty : BitVec 3) (w : BitVec 4) (s : State) : Host.Outcome State Fault Refusal :=
  issue (.vbcs d s1 ty w) w (planMove d s1 ty fun _ _ _ => some (0, 0)) s

/-- VTRN transposes the leading square of min(128, N) (R182). -/
def execVtrn (d s1 : BitVec 6) (ty : BitVec 3) (w : BitVec 4) (s : State) : Host.Outcome State Fault Refusal :=
  issue (.vtrn d s1 ty w) w (planMove d s1 ty fun f i j =>
    let n := min 128 f.rowLen
    if i.val < n ∧ j < n then some (⟨j % 128, by omega⟩, i.val) else none) s

/-- VSHF (R182). -/
def execVshf (d s1 s2 : BitVec 6) (ty : BitVec 3) (w : BitVec 4) (s : State) : Host.Outcome State Fault Refusal :=
  issue (.vshf d s1 s2 ty w) w (fun s ag =>
    let q := tileOp s ag s2
    planMove d s1 ty (fun f i j => some (i, elemAt q .u8 i j % f.rowLen)) s ag) s

/-- VMOV, s1 in consume mode (R168, R182). -/
def execVmov (d s1 : BitVec 6) (w : BitVec 4) (s : State) : Host.Outcome State Fault Refusal :=
  issue (.vmov d s1 w) w (fun s ag =>
    let p := physTile s ag.bank s1
    { hold := consumeHold s ag.suite p
      wait := tileWait s ag.suite p
      act := fun t => emit (modTileFlag t ag.suite p fun q => { q with consuming := true }) ag 5
        [.tile (physTile s ag.bank d) (tileOp s ag s1) false, .consume p] }) s

/-- VZERO (R182). -/
def execVzero (d : BitVec 6) (w : BitVec 4) (s : State) : Host.Outcome State Fault Refusal :=
  issue (.vzero d w) w (planTile 5 d fun _ => Tile.zero) s

/-! ### Accumulator access (R183-R185) -/

/-- Half h of an accumulator tile as a tile image (R183). -/
def accHalf (a : AccTile) (h : Bool) : Tile :=
  let lo := if h then 64 else 0
  Vector.ofFn fun i =>
    let r := a.get i
    Vector.ofFn fun b => ((r.get ⟨(lo + b.val / 4) % 128, by omega⟩).extractLsb' (8 * (b.val % 4)) 8)

/-- VACC waits for the stream's earlier VACWs and for a stopped room (R183, R185, R288); it reads its words in the 24 cycles from its issue, whatever
the latency of its result. -/
def execVacc (t : BitVec 6) (k : BitVec 5) (h : BitVec 1) (w : BitVec 4) (s : State) : Host.Outcome State Fault Refusal :=
  issue (.vacc t k h w) w (fun s ag =>
    let p := physTile s ag.bank t
    let q := physAcc s ag.bank k.toNat
    { hold := if vacwPending s ag || (s.room ag.suite).stopped then some holdPlain else none
      act := fun x =>
        let (a, x1) := accReadHalf x ag.suite q (h == 1)
        (emit x1 ag 7 [.tile p (accHalf a (h == 1)) false]).modBank ag.bank fun b =>
          { b with fly := b.fly ++ [⟨ag.kind, 23, [.accRead q (h == 1) p], 0, s.cycle, false⟩] } }) s

/-- VACW writes its last word at the end of cycle c + 31, later where rows take its port (R184, R185). -/
def execVacw (t : BitVec 6) (k : BitVec 5) (h : BitVec 1) (mode : BitVec 1) (w : BitVec 4) (s : State) : Host.Outcome State Fault Refusal :=
  issue (.vacw t k h mode w) w (fun s ag =>
    { hold := if vacwPending s ag || vaccPending s ag || (s.room ag.suite).stopped then some holdPlain else none
      act := fun x => x.modBank ag.bank fun b => { b with fly := b.fly ++
        [⟨ag.kind, 31, [.acc (physAcc s ag.bank k.toNat) (h == 1) (mode == 1) (tileOp s ag t) 0 (tenantOf s ag.bank)], 0, s.cycle, false⟩] } }) s

/-! ### Scalars (R187) -/

/-- EADD (R187). -/
def execEadd (d s1 s2 : BitVec 4) (imm : BitVec 9) (w : BitVec 4) (s : State) : Host.Outcome State Fault Refusal :=
  issue (.eadd d s1 s2 imm w) w (fun s ag => { act := fun t => emit t ag 0 [.e d (readE s ag s1 + readE s ag s2 + sext imm)] }) s

/-- ESUB (R187). -/
def execEsub (d s1 s2 : BitVec 4) (imm : BitVec 9) (w : BitVec 4) (s : State) : Host.Outcome State Fault Refusal :=
  issue (.esub d s1 s2 imm w) w (fun s ag => { act := fun t => emit t ag 0 [.e d (readE s ag s1 - readE s ag s2 + sext imm)] }) s

/-- EMUL (R187). -/
def execEmul (d s1 s2 : BitVec 4) (w : BitVec 4) (s : State) : Host.Outcome State Fault Refusal :=
  issue (.emul d s1 s2 w) w (fun s ag => { act := fun t => emit t ag 0 [.e d (readE s ag s1 * readE s ag s2)] }) s

/-- EMOV (R187). -/
def execEmov (d s1 : BitVec 4) (w : BitVec 4) (s : State) : Host.Outcome State Fault Refusal :=
  issue (.emov d s1 w) w (fun s ag => { act := fun t => emit t ag 0 [.e d (readE s ag s1)] }) s

/-- ELI (R187). -/
def execEli (d : BitVec 4) (imm : BitVec 17) (w : BitVec 4) (s : State) : Host.Outcome State Fault Refusal :=
  issue (.eli d imm w) w (fun _ ag => { act := fun t => emit t ag 0 [.e d (sext imm)] }) s

end Sys2Proof.Machine
end

