-- ==== Sys2Proof/Machine/Engines.lean ====
section
/-! DEFINITION. The M and C queues: acceptance of a command, its pops, its traps, its push and its done increment, for a wing as for a Suite:
spec/08_rooms_and_wings.md R208-R213, spec/10_copy_and_drain.md R236, spec/17_faults_execution.md R361, spec/18_instruction_exceptions.md
R364-R365, R370, R375. -/

namespace Sys2Proof.Machine

/-- The lead Suite of a room's active wing (R208). -/
def leadOf (s : State) (u : SuiteId) : SuiteId := (s.room u).wingLead
/-- The member rooms of the active wing that a lead room leads (R208). -/
def members (s : State) (lead : SuiteId) : List SuiteId := wingRooms lead (s.room lead).wingShape.val
/-- Whether the arithmetic clock of a Suite's die, which drives its room, its core, its Local Store and the die's L2, pauses in this cycle (R4, R333). -/
def paused (s : State) (u : SuiteId) : Bool := s.pkg.pausing.toList.getD (dieOf u) false

/-- Width and height of a wing in PEs (R195). -/
def wingW (s : State) (lead : SuiteId) : Nat := 128 * shapeCols (s.room lead).wingShape.val
def wingH (s : State) (lead : SuiteId) : Nat := 128 * shapeRows (s.room lead).wingShape.val

/-- The Suites whose streams exchange tokens with an engine: every member of the wing for M (R210), its own for C. -/
def engineSuites (s : State) (e : Engine) (u : SuiteId) : List SuiteId := if e = .m then members s u else [u]

def queueOf (x : Suite) (e : Engine) : List Cmd := if e = .m then x.mq else x.cqueue
def runningOf (x : Suite) (e : Engine) : List Cmd := if e = .m then x.mrun else x.crun
def modQueue (s : State) (u : SuiteId) (e : Engine) (f : List Cmd → List Cmd) : State :=
  s.modSuite u fun x => if e = .m then { x with mq := f x.mq } else { x with cqueue := f x.cqueue }
def modRunning (s : State) (u : SuiteId) (e : Engine) (f : List Cmd → List Cmd) : State :=
  s.modSuite u fun x => if e = .m then { x with mrun := f x.mrun } else { x with crun := f x.crun }

/-- Capacity of either queue (R213, R236). -/
def queueDepth : Nat := 16

/-- The physical tile and accumulator tile of a number that a command names (R32). -/
def Cmd.tile (c : Cmd) (t : Nat) : Fin 48 := if c.dual then ⟨24 * c.bank.val + t % 24, by omega⟩ else ⟨t % 48, by omega⟩
def Cmd.accTile (c : Cmd) (k : Nat) : Fin 32 := if c.dual then ⟨16 * c.bank.val + k % 16, by omega⟩ else ⟨k % 32, by omega⟩

/-! ### Acceptance (R213, R370) -/

/-- A new command of the issuing stream. -/
def newCmd (s : State) (ag : Agent) (op : CmdOp) (tok : Tok) (dn : BitVec 4) (words : Nat) : Cmd :=
  { op := op, bank := match ag.bank with | .bank _ b => b | .ctx _ => 0, kind := ag.kind, tok := tok, dn := dn, ret := sequential s ag words,
    status := .queued, trapLevel := 0, discard := false, tenant := tenantOf s ag.bank,
    dual := dualOf s ag.bank, image := match (s.bank ag.bank).visit with | some v => v.image | none => 0, slot := none }

/-- Acceptance into the M or C queue: a full queue holds the stream; an M command from a Suite that leads no wing traps WINGV (R210). -/
def planAccept (e : Engine) (op : CmdOp) (tok : Tok) (dn : BitVec 4) (hold : Option Hold) (trap : Option (BitVec 8 × Word)) (words : Nat)
    (s : State) (ag : Agent) : Plan :=
  let u := ag.suite
  { words := words
    hold := if queueDepth ≤ (queueOf (s.suite u) e).length then some holdPlain else hold
    trap := if e = .m ∧ leadOf s u ≠ u then some (cWINGV, 0) else trap
    act := fun t => modQueue t u e fun q => q ++ [newCmd s ag op tok dn words] }

/-! ### Tokens and done fields of a command (R112, R210, R213) -/

/-- Whether its pop tokens are there; those of a stopped Suite stay where they are (R210, R288). -/
def popsReady (s : State) (u : SuiteId) (e : Engine) (c : Cmd) : Bool :=
  (engineSuites s e u).all fun v => popReady (s.bank (.bank v c.bank)) e c.tok.pop && (c.tok.pop == 0 || !(s.suite v).stopped)
def takePops (s : State) (u : SuiteId) (e : Engine) (c : Cmd) : State :=
  (engineSuites s e u).foldl (fun s v => s.modBank (.bank v c.bank) fun b => popTake b e c.tok.pop) s

/-- Whether the command may complete: its Suite core runs, and so does every Suite that it pushes to, whose queue has room (R210, R288). -/
def pushRoom (s : State) (u : SuiteId) (e : Engine) (c : Cmd) : Bool :=
  c.discard || (!(s.suite u).stopped && (c.tok.pushEn == 0 ||
    (engineSuites s e u).all fun v => !(s.suite v).stopped && decide (tokHeld (s.bank (.bank v c.bank)) e (Engine.ofCode c.tok.pushDst) < 8)))

/-- The push and the done increment of a completed command, in one cycle (R213); an aborted Visit's are discarded (R361). A completed CPY is an event of
code 8 (R345). -/
def completeCmd (s : State) (u : SuiteId) (e : Engine) (c : Cmd) : State :=
  if c.discard then s
  else
    let s1 := if c.tok.pushEn = 0 then s
      else (engineSuites s e u).foldl (fun s v => s.modBank (.bank v c.bank) fun b => tokPut b e (Engine.ofCode c.tok.pushDst)) s
    let s2 := match c.op with | .cpy _ => countEvents s1 (.bank u c.bank) 8 1 | _ => s1
    doneFor s2 (.bank u c.bank) c.kind c.dn

/-! ### The head of a queue -/

def headOf (s : State) (u : SuiteId) (e : Engine) : Option Cmd := (queueOf (s.suite u) e).head?
def headOp (s : State) (u : SuiteId) (e : Engine) : Option CmdOp := (headOf s u e).map (·.op)
def setHead (s : State) (u : SuiteId) (e : Engine) (c : Cmd) : State := modQueue s u e fun q => match q with | _ :: t => c :: t | [] => []
def dropHead (s : State) (u : SuiteId) (e : Engine) : State := modQueue s u e (·.drop 1)

/-- An M command changes every room of its wing, so it waits while a member room's clock stands still; MWING traps then (R211, R288). -/
def roomsWait (s : State) (u : SuiteId) (e : Engine) (c : Cmd) : Bool :=
  e == .m && (members s u).any (fun v => (s.room v).stopped) && (match c.op with | .mwing _ => false | _ => true)

/-- The head of a queue once its pop tokens are taken (R213): none while it waits for a token or a stopped room, is trapped, or its Suite core is stopped. -/
def popHead (s : State) (u : SuiteId) (e : Engine) : Option Cmd × State :=
  match headOf s u e with
  | none => (none, s)
  | some c =>
    if (s.suite u).stopped ∨ c.trapLevel ≠ 0 ∨ roomsWait s u e c = true then (none, s)
    else
      match c.status with
      | .queued =>
        if popsReady s u e c then
          let c1 := { c with status := .popped }
          (some c1, setHead (takePops s u e c) u e c1)
        else (none, s)
      | _ => (some c, s)

/-- How deep a trap of a bank's command lies: recorded, or kept pending while the bank is held (R365). -/
def trapDepth (s : State) (u : SuiteId) (b : Fin 2) : Nat := if heldBefore s (.bank u b) then 2 else 1

/-- A trap of the head command: it stays at the head and keeps its tokens (R365). -/
def headTrap (s : State) (u : SuiteId) (e : Engine) (c : Cmd) (cause : BitVec 8) (tval : Nat := 0) : State :=
  engineTrap (setHead s u e { c with trapLevel := trapDepth s u c.bank }) u c.bank e cause tval c.ret

/-- A trap of the n-th running command (R375). Its queue position counts the running commands. A command of an aborted Visit has no one to report to: a
C command ends, what an M command started goes on (R361). -/
def runTrap (s : State) (u : SuiteId) (e : Engine) (n : Nat) (cause : BitVec 8) (tval : Option Nat := none) : State :=
  match (runningOf (s.suite u) e)[n]? with
  | none => s
  | some c =>
    if c.discard then (if e = .m then s else modRunning s u e fun l => l.eraseIdx n)
    else engineTrap (modRunning s u e fun l => l.set n { c with trapLevel := trapDepth s u c.bank }) u c.bank e cause (tval.getD n) c.ret

/-- A command that completes at the head in one cycle: its effect comes once, and it leaves when its push has room (R213, R359). -/
def finishHead (s : State) (u : SuiteId) (e : Engine) (effect : State → State) : State :=
  match popHead s u e with
  | (none, s1) => s1
  | (some c, s1) =>
    let s2 := if c.status = .complete then s1 else effect s1
    if pushRoom s2 u e c then completeCmd (dropHead s2 u e) u e c
    else setHead s2 u e { c with status := .complete }

/-- The head command starts and goes on as a running command. -/
def startHead (s : State) (u : SuiteId) (e : Engine) (c : Cmd) : State :=
  modRunning (dropHead s u e) u e fun l => l ++ [{ c with status := .running }]

/-- The n-th running command has done its work; it completes with its push and done increment as soon as its push has room. -/
def finishRunning (s : State) (u : SuiteId) (e : Engine) (n : Nat) : State :=
  match (runningOf (s.suite u) e)[n]? with
  | none => s
  | some c =>
    if pushRoom s u e c then completeCmd (modRunning s u e fun l => l.eraseIdx n) u e c
    else modRunning s u e fun l => l.set n { c with status := .complete }

/-- The first running command that p selects. -/
def findRunning (s : State) (u : SuiteId) (e : Engine) (p : Cmd → Bool) : Option Nat := (runningOf (s.suite u) e).findIdx? p

end Sys2Proof.Machine
end

