-- ==== Sys2Proof/Machine/Drains.lean ====
section
/-! DEFINITION. Drain programs: reading one, the check of a bound program, the micro-ops, and the end of a drained row:
spec/08_rooms_and_wings.md R195-R197, spec/10_copy_and_drain.md R250-R253, spec/18_instruction_exceptions.md R374, R387, R391. -/

namespace Sys2Proof.Machine

/-! ### Reading a program (R253) -/

/-- Whether a word has the opcode of DEND, a reserved field that is not zero or no (R117, R253). -/
def dendWord (w : W32) : Bool := match decode .drain (w &&& 0xfe000000#32) 0 with | .ok (.drainDend _) => true | _ => false

/-- The words of a chain up to its first DEND or its 16th micro-op, decoded; or the line whose link word fails. -/
def readChain (im : Image) : Nat → Nat → Nat → Except Nat (List (Except DecodeError Instr))
  | 0, _, _ => .ok []
  | fuel + 1, line, left =>
    if im.nlines ≤ line ∨ im.owner line ≠ 2 ∨ im.count line = 15 ∨ (im.count line = 0 ∧ im.last line = false) ∨ im.nlines ≤ im.next line then
      .error line
    else
      let ops := ((List.range (im.count line + 1)).take left).map fun i => decode .drain (im.slot line i) 0
      match ((List.range (im.count line + 1)).take left).findIdx? fun i => dendWord (im.slot line i) with
      | some i => .ok (ops.take (i + 1))
      | none =>
        if left ≤ ops.length then .ok ops
        else if im.last line then .error line
        else (readChain im fuel (im.next line) (left - ops.length)).map (ops ++ ·)

/-- The micro-ops of drain program `num` of an image; 15 is none (R216). -/
def readProgram (im : Image) (num : Nat) : Except Nat (List (Except DecodeError Instr)) :=
  if 8 ≤ num then .ok [] else readChain im 17 ((im.drains.getD num 0xffffffff).toNat) 16

/-- The micro-ops of a program that has passed its check. -/
def programOps (im : Image) (num : Nat) : List Instr :=
  match readProgram im num with
  | .ok l => l.filterMap Except.toOption
  | .error _ => []

/-- The type of the row after a micro-op (R252). -/
def tyAfter (t : Fmt) : Instr → Fmt
  | .dcvt _ _ ty => Fmt.ofTy ty
  | _ => t

/-- Whether a row type has 32-bit words. -/
def is32 (t : Fmt) : Bool := t == .fp32 || t == .i32

/-- The range of the Local Store that a micro-op touches over all rows: first byte and length (R374). -/
def opRange (dbase : Nat) (t : Fmt) : Instr → Option (Nat × Nat)
  | .dscl n | .dbia n | .dclp n => some (dbase + 512 * n.toNat, 512)
  | .dmul n | .dadd n => some (dbase + 512 * n.toNat, 65536)
  | .dstl pitch n => some (dbase + 512 * n.toNat, 127 * (256 * 2 ^ pitch.toNat) + 128 * t.esz)
  | _ => none

/-- Step 2 of R253 on one micro-op at row type t; `acc` says that the main destination is an accumulator tile. -/
def opRefused (acc : Bool) (t : Fmt) (i : Instr) : Bool :=
  !i.fieldsOk ||
  match i with
  | .dscl _ | .dbia _ | .dclp _ | .dmul _ | .dadd _ => !is32 t
  | .dact fn => !is32 t || (t == .i32 && decide (2 ≤ fn.toNat))
  | .dovw _ => !is32 t
  | .drainDend nomain => nomain == 0 && acc && !is32 t
  | _ => false

/-- Each micro-op with the row type before it. -/
def typed : Fmt → List Instr → List (Fmt × Instr)
  | _, [] => []
  | t, i :: l => (t, i) :: typed (tyAfter t i) l

def dovwTiles (l : List Instr) : List Nat := l.filterMap fun i => match i with | .dovw k => some k.toNat | _ => none
def endsNomain (l : List Instr) : Bool := l.any fun i => match i with | .drainDend n => n == 1 | _ => false
def hasDend (l : List Instr) : Bool := l.any fun i => match i with | .drainDend _ => true | _ => false

/-- Whether a range touches a bank group. -/
def touchesGroup (lo n g : Nat) : Bool := decide (lo < (g + 1) * 0x200000) && decide (g * 0x200000 < lo + n)

/-- The check of R253: the cause and, for LINKERR, the line. `types` are the row types with which rows can arrive, `groups` those of the nest,
`mains` the main tiles' banks, `tops` the scratchpad limits of the member Suites. -/
def checkProgram (im : Image) (num dbase : Nat) (types : List Fmt) (acc dual : Bool) (groups mains tops : List Nat) : Option (BitVec 8 × Nat) :=
  if 8 ≤ num then none
  else
    match readProgram im num with
    | .error line => some (cLINKERR, line)
    | .ok l =>
      let ops := l.filterMap Except.toOption
      let rows := types.map fun t => typed t ops
      let ranges := rows.flatMap fun r => r.filterMap fun (t, i) => opRange dbase t i
      let banks := (dovwTiles ops).map (· % 8)
      if l.any (fun o => match o with | .error .noOpcode => true | _ => false) then some (cILLOP, 0)
      else if l.any (fun o => match o with | .error .reservedField => true | _ => false) || !hasDend ops
          || rows.any (fun r => r.any fun (t, i) => opRefused acc t i) then some (cILLFLD, 0)
      else if ranges.any fun (lo, n) => groups.any (touchesGroup lo n) then some (cBANKCF, 0)
      else if ranges.any (fun (lo, n) => tops.any fun top => decide (top < lo + n)) || (dual && (dovwTiles ops).any fun k => decide (16 ≤ k)) then
        some (cPROT, 0)
      else if !banks.Nodup || (!endsNomain ops && mains.any banks.contains) then some (cSCHEDV, 0)
      else none

/-- Bytes of one Local Store row of the main destination, none where the first DEND is `nomain` (R202). -/
def mainRowBytes (im : Image) (num : Nat) : Option Nat :=
  match readProgram im num with
  | .error _ => some 512
  | .ok l =>
    let ops := l.filterMap Except.toOption
    if !hasDend ops then some 512
    else if endsNomain ops then none
    else
      let t := ops.foldl tyAfter .fp32
      some (128 * t.esz)

/-! ### The row in the pipeline -/

/-- A word of the Suite's Local Store. -/
def lsWord (s : State) (u : SuiteId) (a : Nat) : W32 := BitVec.ofNat 32 (leNat (lsRead s u a 4))

/-- Bytes of the Local Store as the rows of the unit that drains now read them: what an earlier row of the unit wrote does not show (R253). -/
def unitRead (s : State) (u : SuiteId) (a n : Nat) : List Byte :=
  (lsRead s u a n).zipIdx.map fun (b, i) => match (s.room u).unitOld.find? fun p => p.1 == a + i with | some p => p.2 | none => b
/-- A write of a row of the unit, which keeps what its bytes held before the unit. -/
def unitWrite (s : State) (u : SuiteId) (a : Nat) (bs : List Byte) : State :=
  let fresh := ((lsRead s u a bs.length).zipIdx.map fun (b, i) => (a + i, b)).filter fun p => (s.room u).unitOld.all fun q => q.1 != p.1
  lsWrite (s.modRoom u fun r => { r with unitOld := fresh ++ r.unitOld }) u a bs

/-- Word j of operand line n of the row's program (R251). -/
def lineWord (s : State) (u : SuiteId) (x : DrainCtx) (n j : Nat) : W32 := BitVec.ofNat 32 (leNat (unitRead s u (x.dbase + 512 * n + 4 * j) 4))

/-- Product or sum on one lane, with the overflow of INT32 (R252, R391). -/
def laneArith (mul : Bool) (t : Fmt) (v w : W32) : W32 × Bool :=
  if t = .i32 then
    let z := if mul then v.toInt * w.toInt else v.toInt + w.toInt
    (wrap32 z, decide (z < -(2 ^ 31)) || decide (2 ^ 31 ≤ z))
  else (rne32 (if mul then (mulV (dec32 v) (dec32 w)).1 else (addV false (dec32 v) (dec32 w)).1), false)

/-- DACT on one lane (R252, R84). -/
def laneAct (fn : BitVec 6) (t : Fmt) (v : W32) : W32 :=
  if t = .i32 then (if fn = 0 then v else if (0 : W32).slt v then v else 0)
  else
    let x := dec32 v
    match fn.toNat with
    | 0 => BitVec.ofNat 32 (canonBits v.toNat .fp32)
    | 1 => if x.isNaN then 0x7fc00000 else if ltV (Val.zero) x then v else 0
    | 2 => rne32 (fSilu x).1
    | 3 => rne32 (fGelu x).1
    | 4 => rne32 (fSigm x).1
    | _ => rne32 (fTanh x).1

/-- DCLP on one lane (R252). -/
def laneClamp (t : Fmt) (lo hi v : W32) : W32 :=
  if t = .i32 then
    let m := if v.slt lo then lo else v
    if hi.slt m then hi else m
  else rne32 (minMaxV false (minMaxV true (dec32 v) (dec32 lo)) (dec32 hi))

/-- A micro-op: its effect on the row of the room, the move to the next word, and the next word's turn. Without a row it only moves on. -/
def drainOp (f : SuiteId → DrainCtx → State → State) (s : State) : Host.Outcome State Fault Refusal :=
  .next <|
    let u := s.cur.suite
    match (s.room u).drain with
    | none => advance s s.cur 1
    | some x =>
      let s1 := f u x (advance s s.cur 1)
      { s1 with turns := .issue s.cur :: s1.turns }

/-- The physical accumulator tile of a number in the Visit of the row (R32). -/
def DrainCtx.accTile (x : DrainCtx) (k : Nat) : Fin 32 := if x.dual then ⟨16 * x.bank.val + k % 16, by omega⟩ else ⟨k % 32, by omega⟩

def setRow (s : State) (u : SuiteId) (x : DrainCtx) : State := s.modRoom u fun r => { r with drain := some x }

/-- A product or sum with words of an operand line; `perRow` takes line n + i′ (R252). -/
def drainArith (mul perRow : Bool) (n : BitVec 12) (u : SuiteId) (x : DrainCtx) (s : State) : State :=
  let line := n.toNat + (if perRow then x.row else 0)
  let r : Vector (W32 × Bool) 128 := Vector.ofFn fun j => laneArith mul x.ty (x.lanes.get j) (lineWord s u x line j.val)
  let s1 := setRow s u { x with lanes := r.map (·.1) }
  if r.toList.any (·.2) then s1.modRoom u fun q => { q with ovf := true, ovfNow := true } else s1

/-- DSCL (R252). -/
def execDscl (n : BitVec 12) (s : State) : Host.Outcome State Fault Refusal := drainOp (drainArith true false n) s
/-- DBIA (R252). -/
def execDbia (n : BitVec 12) (s : State) : Host.Outcome State Fault Refusal := drainOp (drainArith false false n) s
/-- DMUL (R252). -/
def execDmul (n : BitVec 12) (s : State) : Host.Outcome State Fault Refusal := drainOp (drainArith true true n) s
/-- DADD (R252). -/
def execDadd (n : BitVec 12) (s : State) : Host.Outcome State Fault Refusal := drainOp (drainArith false true n) s

/-- DACT (R252). -/
def execDact (fn : BitVec 6) (s : State) : Host.Outcome State Fault Refusal :=
  drainOp (fun u x s => setRow s u { x with lanes := x.lanes.map (laneAct fn x.ty) }) s

/-- DCLP (R252). -/
def execDclp (n : BitVec 12) (s : State) : Host.Outcome State Fault Refusal :=
  drainOp (fun u x s =>
    setRow s u { x with lanes := x.lanes.map (laneClamp x.ty (lineWord s u x n.toNat 0) (lineWord s u x n.toNat 1)) }) s

/-- DCVT (R252). -/
def execDcvt (ov : BitVec 1) (rm : BitVec 2) (ty : BitVec 3) (s : State) : Host.Outcome State Fault Refusal :=
  drainOp (fun u x s =>
    let f := Fmt.ofTy ty
    setRow s u { x with ty := f, lanes := x.lanes.map fun v => BitVec.ofNat 32 (cvt (dec v.toNat x.ty) f rm (ov == 1)).1 }) s

/-- A drained row takes a bank port of its room in this cycle (R205). -/
def takePort (s : State) (u : SuiteId) (k : Fin 32) : State := s.modRoom u fun r => { r with portRows := r.portRows ++ [k.val % 8] }

/-- DOVW writes the row to tile k (R252). -/
def execDovw (k : BitVec 5) (s : State) : Host.Outcome State Fault Refusal :=
  drainOp (fun u x s =>
    let p := x.accTile k.toNat
    if h : x.row < 128 then accSetRow (takePort s u p) u p ⟨x.row, h⟩ x.lanes else s) s

/-- The bytes of a row in ascending lane (R196, R252). -/
def rowBytes (x : DrainCtx) : List Byte := x.lanes.toList.flatMap fun v => leBytes x.ty.esz v.toNat

/-- DSTL writes at the end of the drain cycle (R251, R252). -/
def execDstl (pitch : BitVec 2) (n : BitVec 12) (s : State) : Host.Outcome State Fault Refusal :=
  drainOp (fun u x s =>
    setRow s u { x with writes := x.writes ++ [(x.dbase + 512 * n.toNat + 256 * 2 ^ pitch.toNat * x.row, rowBytes x)] }) s

/-- The main destination of a row (R196). -/
def writeMain (s : State) (u : SuiteId) (x : DrainCtx) : State :=
  if x.mode = 2 then unitWrite s u (x.c + x.row * x.pitch) (rowBytes x)
  else
    let p := x.accTile x.c
    if h : x.row < 128 then
      let s1 := takePort s u p
      if x.mode = 1 then
        let (old, s2) := accReadRow s1 u p ⟨x.row, h⟩
        let r : Vector (W32 × Bool) 128 := Vector.ofFn fun j => laneArith false x.ty (old.get j) (x.lanes.get j)
        let s3 := accSetRow s2 u p ⟨x.row, h⟩ (r.map (·.1))
        if r.toList.any (·.2) then s3.modRoom u fun q => { q with ovf := true, ovfNow := true } else s3
      else accSetRow s1 u p ⟨x.row, h⟩ x.lanes
    else s

/-- The end of a row: the main destination unless `nomain`, after every read; then the row leaves (R251, R252). Where a DSTL range of the row overlaps
another or the row's own Local Store destination, the spec does not say which bytes stand: the DSTLs are written in program order and the main row last
(DESIGN CHOICE, log 64). -/
def finishRow (s : State) (u : SuiteId) (x : DrainCtx) (main : Bool) : State :=
  let s1 := x.writes.foldl (fun s (a, bs) => unitWrite s u a bs) s
  let s2 := if main then writeMain s1 u x else s1
  s2.modRoom u fun r => { r with drain := none }

/-- DEND of a drain program (R252). -/
def execDrainDend (nomain : BitVec 1) (s : State) : Host.Outcome State Fault Refusal :=
  .next <|
    let u := s.cur.suite
    match (s.room u).drain with
    | none => advance s s.cur 1
    | some x => finishRow s u x (nomain == 0)

end Sys2Proof.Machine
end

