-- ==== Sys2Proof/Machine/Beats.lean ====
section
/-! DEFINITION. What a beat does to a wing: the nest's indices and addresses, the step that enters, the combination in each PE, the doorway
latches, and the rows that drain. spec/08_rooms_and_wings.md R193-R201, R206, R209, spec/03_number_formats.md R82-R87,
spec/13_scan_segments.md R286-R287, R292, spec/14_context_images.md R308-R309. -/

namespace Sys2Proof.Machine

/-! ### The nest's enumeration (R199-R201) -/

/-- Indices of a number in a mixed radix, least first. -/
def splitIndex : List Nat → Nat → List Nat
  | [], _ => []
  | t :: ts, k => k % t :: splitIndex ts (k / t)

def nestTrips (n : NestSet) : List Nat := (List.range (nestNlev n)).map (nestTrip n)
/-- Beat-steps of one drain unit: the levels 0 to dlev. -/
def nestUnit (n : NestSet) : Nat := ((nestTrips n).take (nestDlev n + 1)).foldl (· * ·) 1
def nestTotal (n : NestSet) : Nat := (nestTrips n).foldl (· * ·) 1

/-- A base and the strides times the indices (R200). -/
def strided (base : Nat) (xs : List Nat) (st : List Int) : Int := (base : Int) + ((xs.zip st).map fun (x, k) => (x : Int) * k).sum

def nestStrides (n : NestSet) (f : NestSet → Nat → Int) : List Int := (List.range (nestNlev n)).map (f n)
def nestA (n : NestSet) (xs : List Nat) : Int := strided (nestAbase n) xs (nestStrides n nestAstride)
def nestB (n : NestSet) (xs : List Nat) : Int := strided (nestBbase n) xs (nestStrides n nestBstride)
/-- The drain address of a unit: only the levels above dlev count (R200). -/
def nestC (n : NestSet) (xs : List Nat) : Int :=
  strided (nestCbase n) (xs.drop (nestDlev n + 1)) ((nestStrides n nestCstride).drop (nestDlev n + 1))

/-! ### Format entries (R85-R87) -/

/-- The operand class of an entry, none where it is invalid; class 3 needs feature 1 (R331). -/
def ftClass (cb4ok : Bool) (e : W16) : Option Nat :=
  if e.toNat % 16 ≠ 0 ∨ e.toNat / 4096 ≠ 0 then none
  else
    match natBits e.toNat 4 4, natBits e.toNat 8 4 with
    | 1, 1 => some 0
    | 2, 2 => some 0
    | 3, 3 => some 1 | 3, 4 => some 1 | 4, 3 => some 1 | 4, 4 => some 1
    | 5, 5 => some 2 | 5, 6 => some 2 | 6, 5 => some 2 | 6, 6 => some 2
    | 1, 9 => if cb4ok then some 3 else none
    | _, _ => none

def ftA (e : W16) : Fmt := (Fmt.ofCode (natBits e.toNat 4 4)).getD .bf16
def ftB (e : W16) : Fmt := (Fmt.ofCode (natBits e.toNat 8 4)).getD .bf16

/-! ### The wing -/

/-- The room at a row and column of a wing (R208). -/
def roomAt (lead : SuiteId) (row col : Nat) : SuiteId := ⟨(lead.val + 4 * row + col) % 64, by omega⟩
def wingRows (s : State) (lead : SuiteId) : Nat := shapeRows (s.room lead).wingShape.val
def wingCols (s : State) (lead : SuiteId) : Nat := shapeCols (s.room lead).wingShape.val
/-- The rooms whose A-feeders and B-feeders feed the wing: the west column and the north row (R200). -/
def westRooms (s : State) (lead : SuiteId) : List SuiteId := (List.range (wingRows s lead)).map fun i => roomAt lead i 0
def northRooms (s : State) (lead : SuiteId) : List SuiteId := (List.range (wingCols s lead)).map fun j => roomAt lead 0 j

/-- RCYC of a room's die (R207). -/
def rcycOf (s : State) (u : SuiteId) : Nat := (s.pkg.rcyc.toList.getD (dieOf u) 0).toNat

/-! ### PEs (R82, R83, R286) -/

/-- A PE on an empty step (R219, R308). -/
def Pe.onEmpty (p : Pe) : Pe :=
  { p with a := 0, b := 0, va := false, vb := false, ak1 := 0, ak2 := 0, ak3 := 0, blk := 0, blkPos := false, blkNeg := false, blkNan := false }

/-- The value of the block register (R286). -/
def Pe.block (p : Pe) : Val :=
  if p.blkNan || (p.blkPos && p.blkNeg) then .nan
  else if p.blkPos then .inf false
  else if p.blkNeg then .inf true
  else .fin (decide (p.blk < 0)) p.blk.natAbs (-133)

/-- One product k(c) x a of class 3 in the block register (R83, R286). -/
def Pe.blockAdd (p : Pe) (a : W16) (c : Nat) : Pe :=
  match dec a.toNat .bf16 with
  | .nan => { p with blkNan := true }
  | .inf neg =>
    let k := cb4 c
    if k = 0 then { p with blkNan := true }
    else if decide (k < 0) = neg then { p with blkPos := true } else { p with blkNeg := true }
  | .fin neg m e => { p with blk := p.blk + cb4 c * Val.units (-133) (.fin neg m e) }

/-- The end of a block: both roundings and the addition to the accumulator (R83). -/
def Pe.blockEnd (p : Pe) (scale : Byte × W32) : Pe :=
  let q := rne32 (mulV (Val.ofInt (scale.1.toNat + 1)) p.block).1
  let r := rne32 ((mulV (dec32 q) (dec32 scale.2)).1.scale (-18))
  { p with acc := rne32 (addV false (dec32 p.acc) (dec32 r)).1, blk := 0, blkPos := false, blkNeg := false, blkNan := false }

/-- Integer of an 8-bit operand. -/
def opInt (bits : Nat) (f : Fmt) : Int := if f = .u8 then (bits % 256 : Nat) else signedOf 8 bits

/-- The per-beat step of a PE on its operands (R82, R83): `a0` to `a3` are the A operands, `b` the B operand field. The flag says that a class-2
sum left the INT32 range. -/
def peStep (st : StepRec) (p : Pe) (a0 a1 a2 a3 b : W16) (scale : Byte × W32) : Pe × Bool :=
  let x : Pe := { p with a := a0, b := b, va := true, vb := true }
  let y := Pe.onEmpty x
  let z : Pe := { y with a := a0, b := b, va := true, vb := true }
  match st.cls with
  | 0 =>
    let t := (mulV (dec a0.toNat st.aFmt) (dec b.toNat st.bFmt)).1
    ({ z with acc := rne32 (addV false (dec32 p.acc) t).1 }, false)
  | 1 =>
    let t := (mulV (dec (a0.toNat % 256) st.aFmt) (dec (b.toNat % 256) st.bFmt)).1
    let u := (mulV (dec (a0.toNat / 256) st.aFmt) (dec (b.toNat / 256) st.bFmt)).1
    ({ z with acc := rne32 (addV false (dec32 p.acc) (addV false t u).1).1 }, false)
  | 2 =>
    let t := opInt (a0.toNat % 256) st.aFmt * opInt (b.toNat % 256) st.bFmt
    let u := opInt (a0.toNat / 256) st.aFmt * opInt (b.toNat / 256) st.bFmt
    let v := p.acc.toInt + t + u
    ({ z with acc := wrap32 v }, decide (v < -(2 ^ 31)) || decide (2 ^ 31 ≤ v))
  | _ =>
    let w : Pe := { x with ak1 := a1, ak2 := a2, ak3 := a3 }
    let c := fun (m : Nat) => natBits b.toNat (4 * m) 4
    let q := (((w.blockAdd a0 (c 0)).blockAdd a1 (c 1)).blockAdd a2 (c 2)).blockAdd a3 (c 3)
    (if st.blockEnd then q.blockEnd scale else q, false)

/-- The operand field of lane i of a slice (R193). -/
def slice16 (l : Array Byte) (off : Nat) : W16 := (l.getD (off + 1) 0) ++ (l.getD off 0)

/-- A step as a room meets it: the step and the slices of the row and column of rooms that it stands in. -/
structure RoomStep where
  step : StepRec
  a : Array Byte
  b : Array Byte
  scales : Array (Byte × W32)

def roomStep (st : StepRec) (row col : Nat) : RoomStep :=
  ⟨st, (st.aSlices.getD row []).toArray, (st.bSlices.getD col []).toArray, (st.scales.getD col []).toArray⟩

/-- The step that stands `off` PEs from the wing's corner in the present beat (R194). -/
def stepAt (runs : List WingRun) (off : Nat) : Option StepRec :=
  runs.findSome? fun r => if r.beat < off then none else r.steps.find? fun t => t.entry == r.beat - off

/-- The step of a PE (i, j) of a room. -/
def peBeat (looks : Array (Option RoomStep)) (p : Pe) (i j : Nat) : Pe × Bool :=
  match looks.getD (i + j) none with
  | none => (p.onEmpty, false)
  | some r =>
    let b := slice16 r.b (2 * j)
    if r.step.cls = 3 then
      peStep r.step p (slice16 r.a (8 * i)) (slice16 r.a (8 * i + 2)) (slice16 r.a (8 * i + 4)) (slice16 r.a (8 * i + 6)) b (r.scales.getD j (0, 0))
    else peStep r.step p (slice16 r.a (2 * i)) 0 0 0 b (0, 0)

/-- The lanes of a doorway latch (R287): the operands that the PEs at the doorway pass on in the next beat. -/
def latchLane (valid : Bool) (tag : BitVec 2) (op : W16) : BitVec 24 := op ++ (if valid then (1 : BitVec 1) else 0) ++ tag ++ (0 : BitVec 5)

/-- The beat of one member room at a row and column of the wing. -/
def roomBeat (x : Room) (runs : List WingRun) (row col rows cols : Nat) : Room :=
  let base := 128 * row + 128 * col
  let looks : Array (Option RoomStep) := Array.ofFn (n := 255) fun d => (stepAt runs (base + d.val)).map fun st => roomStep st row col
  let tagged := (stepAt runs base).filter (·.first)
  let res : Vector (Vector (Pe × Bool) 128) 128 := Vector.ofFn fun i => Vector.ofFn fun j =>
    let p := (x.pes.get i).get j
    peBeat looks (match tagged with | some st => { p with tag := BitVec.ofNat 2 st.cls } | none => p) i.val j.val
  let pes := res.map fun r => r.map (·.1)
  let overflow := res.toList.any fun r => r.toList.any (·.2)
  let east := decide (col + 1 < cols)
  let south := decide (row + 1 < rows)
  { x with
    pes := pes
    ovf := x.ovf || overflow
    ovfNow := x.ovfNow || overflow
    latchE := Vector.ofFn fun i => let p := (pes.get i).get 127; if east && p.va then latchLane p.va p.tag p.a else 0
    latchX := Vector.ofFn fun i => let p := (pes.get i).get 127; if east then p.ak3 ++ p.ak2 ++ p.ak1 else 0
    latchS := Vector.ofFn fun j => let p := (pes.get 127).get j; if south && p.vb then latchLane p.vb p.tag p.b else 0 }

/-- Every member room of a wing takes a beat of its runs (R194, R219). -/
def wingBeat (s : State) (lead : SuiteId) : State :=
  let runs := (s.room lead).runs
  let rows := wingRows s lead
  let cols := wingCols s lead
  (members s lead).foldl (fun s v =>
    s.modRoom v fun x => roomBeat x runs (roomRow v - roomRow lead) (roomCol v - roomCol lead) rows cols) s

/-! ### The step that enters (R193, R199-R201) -/

/-- The next beat-step of a nest: its indices, the entry in force and its table index. -/
structure NextStep where
  xs : List Nat
  ft : W16
  idx : Nat
  first : Bool
  unitIdx : Nat
  deriving DecidableEq, Repr

def nextStepOf (r : WingRun) : NextStep :=
  let xs := splitIndex (nestTrips r.set) r.nextStep
  let x := xs.getD (nestFlev r.set) 0
  let sampled := (xs.take (nestFlev r.set)).all (· == 0)
  let k := r.nextStep % nestUnit r.set
  { xs := xs, ft := if sampled then r.set.fmts.toList.getD (x % 16) 0 else r.ftNow, idx := x % 16, first := k == 0, unitIdx := k }

/-- Whether a nest's next step enters in the present beat (R195). -/
def stepDue (r : WingRun) : Bool := !r.drone && decide (r.nextStep < r.total) && decide (r.nextEntry ≤ r.beat)

/-- The entry with which the present beat would fail (R87, R380). -/
def fmtFails (s : State) (r : WingRun) : Option Nat :=
  if stepDue r then
    let n := nextStepOf r
    match ftClass (featOn s 1) n.ft with
    | none => some n.idx
    | some c => if !n.first && decide (c = 2) != r.unitInt then some n.idx else none
  else none

/-- Slots that a slice takes (R193). -/
def slotsOf (bytes : List Byte) : Nat := (bytes.length + 255) / 256

/-- Full slots of a feeder; they follow one another from the next to enter (R193, R309). -/
def fullCount (v : Vector Slot 64) : Nat := (v.toList.filter (·.full)).length

/-- A slice is staged in a feeder's next slots (R193). -/
def stageSlots (v : Vector Slot 64) (next : Nat) (bytes : List Byte) : Vector Slot 64 :=
  let at_ := next + fullCount v
  (List.range (slotsOf bytes)).foldl (fun (w : Vector Slot 64) q => w.set ((at_ + q) % 64) ⟨true, bytesAt bytes (256 * q) 256⟩ (by omega)) v

/-- The slice in a feeder's next n slots, and the slots once it has entered. -/
def slotBytes (v : Vector Slot 64) (next n : Nat) : List Byte := (List.range n).flatMap fun q => (v.get ⟨(next + q) % 64, by omega⟩).data
def freeSlots (v : Vector Slot 64) (next n : Nat) : Vector Slot 64 :=
  (List.range n).foldl (fun (w : Vector Slot 64) q => w.set ((next + q) % 64) { w.get ⟨(next + q) % 64, by omega⟩ with full := false } (by omega)) v

/-- The class of a nest's beat-step by its format entry (R86). -/
def stepClass (s : State) (r : WingRun) (k : Nat) : Option Nat :=
  ftClass (featOn s 1) (r.set.fmts.toList.getD ((splitIndex (nestTrips r.set) k).getD (nestFlev r.set) 0 % 16) 0)

/-- The indices of the beat-step that a feeder fetches next, and the address, each moved as a loaded image says (R309). -/
def fetchStep (r : WingRun) (shift : Int × Int) : List Nat := splitIndex (nestTrips r.set) ((r.staged : Int) + shift.1).toNat
def fetchA (r : WingRun) (shift : Int × Int) : Nat := (nestA r.set (fetchStep r shift) + shift.2).toNat
def fetchB (r : WingRun) (shift : Int × Int) : Nat := (nestB r.set (fetchStep r shift) + shift.2).toNat

/-- The feeders of the wing's edges read the slices of the next beat-step that they have not staged (R193, R200). -/
def stageStep (s : State) (lead : SuiteId) (r : WingRun) : WingRun × State :=
  let n := if stepClass s r r.staged = some 3 then 1024 else 256
  let s1 := (westRooms s lead).foldl (fun t u => t.modRoom u fun x =>
    { x with aFeed := stageSlots x.aFeed x.aNext (lsRead s u (fetchA r x.aShift) n) }) s
  let s2 := (northRooms s lead).foldl (fun t u => t.modRoom u fun x =>
    { x with bFeed := stageSlots x.bFeed x.bNext (lsRead s u (fetchB r x.bShift) 256) }) s1
  ({ r with staged := r.staged + 1 }, s2)

/-- Whether the feeders may stage another beat-step: one is left, its entry names a class, its slots are free, and its Local Stores run (R193, R288). -/
def stages (s : State) (lead : SuiteId) (r : WingRun) : Bool :=
  !r.drone && decide (r.staged < r.total) &&
  (match stepClass s r r.staged with
   | some c => decide (fullCount (s.room lead).aFeed + (if c = 3 then 4 else 1) ≤ 64) && decide (fullCount (s.room lead).bFeed < 64)
   | none => false)
  && (westRooms s lead ++ northRooms s lead).all fun u => !(s.suite u).stopped

/-- How far ahead the feeders stage in a cycle is a free choice among what their slots allow (R193; DESIGN CHOICE, log 19). -/
def stageAhead (lead : SuiteId) : Nat → WingRun × State → WingRun × State
  | 0, p => p
  | n + 1, (r, s) => if stages s lead r then stageAhead lead n (stageStep s lead r) else (r, s)

/-- The feeders of a running nest in a beat: a step that is due is staged at the latest now. -/
def feed (s : State) (lead : SuiteId) (r : WingRun) : WingRun × State :=
  if r.drone || decide (r.total ≤ r.staged) then (r, s)
  else
    let (k, s1) := chooseBelow s 65
    let (r1, s2) := stageAhead lead k (r, s1)
    if stepDue r1 && decide (r1.staged ≤ r1.nextStep) then stageStep s2 lead r1 else (r1, s2)

/-- The scales of a block for the columns of a north room (R201). -/
def blockScales (s : State) (n : NestSet) (u : SuiteId) (unitIdx : Nat) : List (Byte × W32) :=
  let b := unitIdx / 16
  let g := b / 256
  (List.range 128).map fun j =>
    ((lsRead s u (nestScl n + 128 * b + j) 1).headD 0, lsWord s u (nestSsc n + 512 * g + 4 * j))

/-- The step that enters the wing in the present beat, from the slots in which it is staged. -/
def enterStep (s : State) (lead : SuiteId) (r : WingRun) : WingRun × State :=
  if !stepDue r then (r, s)
  else
    let n := nextStepOf r
    let cls := (ftClass (featOn s 1) n.ft).getD 0
    let len := nestUnit r.set
    let lastOfUnit := n.unitIdx + 1 == len
    let blockEnd := cls == 3 && (n.unitIdx % 16 == 15 || lastOfUnit)
    let q := if cls = 3 then 4 else 1
    let aBytes := (westRooms s lead).map fun u => slotBytes (s.room u).aFeed (s.room u).aNext q
    let bBytes := (northRooms s lead).map fun u => slotBytes (s.room u).bFeed (s.room u).bNext 1
    let st : StepRec :=
      { entry := r.beat, cls := cls, aFmt := ftA n.ft, bFmt := ftB n.ft, aSlices := aBytes, bSlices := bBytes, first := n.first, blockEnd := blockEnd,
        scales := if blockEnd then (northRooms s lead).map fun u => blockScales s r.set u n.unitIdx else [] }
    let s1 := (westRooms s lead).foldl (fun s u => s.modRoom u fun x =>
      { x with aFeed := freeSlots x.aFeed x.aNext q, aNext := (x.aNext + q) % 64 }) s
    let s2 := (northRooms s lead).foldl (fun s u => s.modRoom u fun x =>
      { x with bFeed := freeSlots x.bFeed x.bNext 1, bNext := (x.bNext + 1) % 64 }) s1
    let int := if n.first then cls == 2 else r.unitInt
    let unit : UnitRec :=
      { drainAt := r.beat + wingW s lead, c := some (nestC r.set n.xs).toNat, final := r.nextStep + 1 == r.total,
        unitNo := r.nextStep / len, int := int }
    ({ r with
        nextStep := r.nextStep + 1
        nextEntry := if lastOfUnit then r.beat + wingW s lead + 1 else r.beat + 1
        lastIn := if r.nextStep + 1 = r.total then some s.cycle else r.lastIn
        ftNow := n.ft
        unitInt := int
        steps := st :: r.steps
        units := if lastOfUnit then r.units ++ [unit] else r.units }, s2)

/-- A run after a beat: the steps that have left the wing and the units drained whole go. -/
def WingRun.after (r : WingRun) (w h : Nat) : WingRun :=
  { r with beat := r.beat + 1
           steps := r.steps.filter fun t => decide (r.beat + 1 < t.entry + w + h)
           units := r.units.filter fun q => decide (r.beat + 1 < q.drainAt + h) }

/-! ### Rows that drain (R195-R197, R205) -/

/-- The unit and local row that a room of a wing drains in the present beat. -/
def rowDue (s : State) (v : SuiteId) : Option (WingRun × UnitRec × Nat) :=
  let lead := leadOf s v
  (s.room lead).runs.findSome? fun r => r.units.findSome? fun q =>
    if q.drainAt ≤ r.beat ∧ (r.beat - q.drainAt) / 128 = roomRow v - roomRow lead ∧ r.beat < q.drainAt + wingH s lead then
      some (r, q, (r.beat - q.drainAt) % 128)
    else none

/-- The main destination's mode of a run (R196, R230). -/
def runMode (s : State) (lead : SuiteId) (r : WingRun) : Nat := if r.drone then natBits (s.room lead).drone.dcfg.toNat 10 2 else nestDmode r.set

/-- The image of the Visit that a command belongs to. -/
def cmdImage (s : State) (c : Cmd) : Option Image := s.pkg.images[c.image]?

/-- The accumulator tiles, by physical number, that a room's row of the present beat writes: the main tile and every DOVW tile (R205, R252). -/
def rowTiles (s : State) (v : SuiteId) : List (Fin 32) :=
  match rowDue s v with
  | none => []
  | some (r, q, _) =>
    let lead := leadOf s v
    let ops := match cmdImage s r.cmd with | some im => programOps im r.set.prog.toNat | none => []
    let main := if runMode s lead r = 2 ∨ endsNomain ops then [] else [q.c.getD 0]
    (main ++ dovwTiles ops).map r.cmd.accTile

/-- A row of a room leaves its PEs: without a program it is written at once, with one the pipeline runs (R195-R197, R250). -/
def drainRoom (s : State) (v : SuiteId) : State :=
  match rowDue s v with
  | none => s
  | some (r, q, i) =>
    let lead := leadOf s v
    if h : i < 128 then
      let row := (s.room v).pes.get ⟨i, h⟩
      let s1 := s.modRoom v fun x =>
        { x with pes := x.pes.set i (row.map fun p => { p with acc := 0 }) h, unitOld := if i = 0 then [] else x.unitOld }
      let x : DrainCtx :=
        { bank := r.cmd.bank, writes := [], lanes := row.map (·.acc), ty := if q.int then .i32 else .fp32, row := i, c := q.c.getD 0,
          mode := runMode s lead r, dbase := r.set.dbase.toNat, pitch := nestCpitch r.set, isInt := q.int, image := r.cmd.image,
          dual := r.cmd.dual }
      match cmdImage s r.cmd with
      | some im =>
        if 8 ≤ r.set.prog.toNat then finishRow s1 v x true
        else
          let s2 := s1.modRoom v fun y => { y with drain := some x, drainPos := (im.drains.getD r.set.prog.toNat 0).toNat * 16 }
          { s2 with turns := .issue ⟨.bank v r.cmd.bank, .drain⟩ :: s2.turns }
      | none => finishRow s1 v x true
    else s

end Sys2Proof.Machine
end

