-- ==== Sys2Proof/Machine/Rooms.lean ====
section
/-! DEFINITION. The room commands MNEST, MFMT, MGO, MWING and MDRN, the start of a nest and its checks, nest beats, drained rows, halts and
reshapes: spec/08_rooms_and_wings.md R198-R218, spec/19_faults_rooms_and_engines.md R376-R383, R391-R392. -/

namespace Sys2Proof.Machine

/-! ### Acceptance (R214-R218) -/

/-- The checks of a record read at acceptance (R214, R215). -/
def recordTrap (s : State) (u : SuiteId) (a : Word) (align n : Nat) : Option (BitVec 8 × Word) :=
  if a.toNat % align ≠ 0 then some (cMISALIGN, 0)
  else if a.toNat / 2 ^ 23 ≠ 0 ∨ !inScratch (s.suite u) a.toNat n then some (cPROT, 0)
  else none

/-- A record read is a Local Store access in program order and waits for a free cycle of a fed bank (R203, R214). -/
def recordHold (s : State) (ag : Agent) (a n : Nat) : Option Hold := (lsHold s ag).or (fedReadHold s ag.suite a n)

/-- MNEST (R214). -/
def execMnest (s1 s2 : BitVec 5) (tok : Tok) (dn : BitVec 4) (w : BitVec 4) (s : State) : Host.Outcome State Fault Refusal :=
  issue (.mnest s1 s2 tok dn w) w (fun s ag =>
    let a := readA s ag s1
    let x := readA s ag s2
    let sel := x.toNat % 8
    let n := if sel = 7 then 448 else 64
    planAccept .m (.mnest sel (lsRead s ag.suite a.toNat n)) tok dn (recordHold s ag a.toNat n)
      (if x.toNat / 8 ≠ 0 then some (cILLFLD, 0) else recordTrap s ag.suite a 64 n) 1 s ag) s

/-- MFMT (R215). -/
def execMfmt (s1 s2 : BitVec 5) (tok : Tok) (dn : BitVec 4) (w : BitVec 4) (s : State) : Host.Outcome State Fault Refusal :=
  issue (.mfmt s1 s2 tok dn w) w (fun s ag =>
    let a := readA s ag s1
    let x := readA s ag s2
    planAccept .m (.mfmt (x.setWidth 16) (lsRead s ag.suite a.toNat 32)) tok dn (recordHold s ag a.toNat 32)
      (if x.toNat / 2 ^ 16 ≠ 0 then some (cILLFLD, 0) else recordTrap s ag.suite a 32 32) 1 s ag) s

/-- MGO (R217). -/
def execMgo (tok : Tok) (dn : BitVec 4) (w : BitVec 4) (s : State) : Host.Outcome State Fault Refusal :=
  issue (.mgo tok dn w) w (planAccept .m .mgo tok dn none none 1) s

/-- Whether a drain program number names none that exists (R216, R230). -/
def programAbsent (s : State) (ag : Agent) (num : Nat) : Bool :=
  num != 15 && (decide (8 ≤ num) || match imageOf s ag.bank with | some im => im.drains.getD num 0xffffffff == 0xffffffff | none => true)

/-- MDRN (R216). -/
def execMdrn (s1 s2 : BitVec 5) (tok : Tok) (dn : BitVec 4) (w : BitVec 4) (s : State) : Host.Outcome State Fault Refusal :=
  issue (.mdrn s1 s2 tok dn w) w (fun s ag =>
    let x := readA s ag s1
    let base := readA s ag s2
    let num := x.toNat % 16
    planAccept .m (.mdrn (x.setWidth 4) (base.setWidth 32)) tok dn none
      (if programAbsent s ag num || x.toNat / 16 != 0 then some (cILLFLD, 0)
       else if num ≠ 15 ∧ base.toNat % 256 ≠ 0 then some (cMISALIGN, 0) else none) 1 s ag) s

/-- The envelope of a bank's Visit: lead room and shape (R208). -/
def envelopeOf (s : State) (r : BankRef) : SuiteId × Nat := match (s.bank r).visit with | some v => (v.lead, v.shape.val) | none => (0, 0)

/-- MWING (R218): the envelope's lead, and no other Suite, may reshape it. -/
def execMwing (s1 : BitVec 5) (tok : Tok) (dn : BitVec 4) (w : BitVec 4) (s : State) : Host.Outcome State Fault Refusal :=
  issue (.mwing s1 tok dn w) w (fun s ag =>
    let x := (readA s ag s1).toNat
    let env := envelopeOf s ag.bank
    { planAccept .m (.mwing x) tok dn none none 1 s ag with
      trap :=
        if 9 ≤ x then some (cILLFLD, 0)
        else if shapeRows env.2 < shapeRows x ∨ shapeCols env.2 < shapeCols x then some (cWINGV, 0)
        else if env.1 ≠ ag.suite then some (cWINGV, 0)
        else none }) s

/-! ### The shadow set (R198, R214-R216) -/

def setTable (n : NestSet) (off : Nat) (bs : List Byte) : NestSet :=
  { n with table := bs.zipIdx.foldl (fun (t : Vector Byte 448) (b, i) => if h : off + i < 448 then t.set (off + i) b h else t) n.table }

/-- A write to the issuing bank's shadow set in the lead room. -/
def modShadow (s : State) (u : SuiteId) (b : Fin 2) (f : NestSet → NestSet) : State :=
  s.modRoom u fun x => { x with shadow := x.shadow.set b.val (f (x.shadow.get b)) b.isLt }

/-- What MNEST, MFMT and MDRN do at the head (R214-R216). -/
def shadowEffect (u : SuiteId) (c : Cmd) (s : State) : State :=
  match c.op with
  | .mnest sel bytes => modShadow s u c.bank fun n => setTable n (if 6 ≤ sel then 0 else 64 + 64 * sel) bytes
  | .mfmt mask bytes =>
    modShadow s u c.bank fun n =>
      { n with fmts := Vector.ofFn fun i => if mask.getLsbD i.val then BitVec.ofNat 16 (fieldAt bytes (2 * i.val) 2) else n.fmts.get i }
  | .mdrn prog dbase => modShadow s u c.bank fun n => { n with prog := prog, dbase := dbase }
  | _ => s

/-! ### The checks of a nest (R202, R253, R381) -/

/-- Least and greatest value that a base takes over strides and trips (R202). -/
def spanOf (base : Int) (l : List (Nat × Int)) : Int × Int :=
  l.foldl (fun (p : Int × Int) (t, k) =>
    let v := ((t : Int) - 1) * k
    (p.1 + min 0 v, p.2 + max 0 v)) (base, base)

/-- Whether bytes lo to hi + n - 1 lie in group g and below every limit. -/
def insideGroup (lo hi : Int) (n g : Nat) (tops : List Nat) : Bool :=
  decide ((g * 0x200000 : Nat) ≤ lo) && decide (hi + n ≤ ((g + 1) * 0x200000 : Nat)) && tops.all fun (t : Nat) => decide (hi + n ≤ (t : Int))

/-- The table indices that the nest's format level reaches. -/
def usedEntries (n : NestSet) : List Nat := List.range (min 16 (nestTrip n (nestFlev n)))

/-- The extreme A addresses of the class-3 steps: the format level takes only the iterations whose entry is of class 3. -/
def spanA3 (n : NestSet) (three : List Nat) : Int × Int :=
  let f := nestFlev n
  let k := nestAstride n f
  let others := ((List.range (nestNlev n)).filter (· ≠ f)).map fun i => (nestTrip n i, nestAstride n i)
  let ends : List Int := three.flatMap fun i => [Int.ofNat i, Int.ofNat (i + 16 * ((nestTrip n f - 1 - i) / 16))]
  ends.foldl (fun (p : Int × Int) x => let q := spanOf (nestAbase n + x * k) others; (min p.1 q.1, max p.2 q.2))
    (spanOf (nestAbase n + ends.headD 0 * k) others)

/-- Step 1 of R202. -/
def nestMalformed (n : NestSet) : Bool :=
  let l := n.table.toList
  let zero := fun (off len : Nat) => fieldAt l off len == 0
  let m := nestDmode n
  !(nestField n 3 1 / 16 == 0 && zero 5 3 && zero 0x20 32)
    || nestNlev n == 0 || decide (6 < nestNlev n) || decide (nestNlev n ≤ nestFlev n) || decide (nestNlev n ≤ nestDlev n) || decide (3 ≤ m)
    || nestAbase n % 256 != 0 || nestBbase n % 256 != 0 || nestScl n % 128 != 0 || nestSsc n % 512 != 0
    || (if m = 2 then nestCbase n % 256 != 0 || nestCpitch n % 256 != 0 else nestCpitch n != 0)
    || (List.range (nestNlev n)).any fun i =>
      nestTrip n i == 0 || nestAstride n i % 256 != 0 || nestBstride n i % 256 != 0 || (m == 2 && nestCstride n i % 256 != 0)
        || !zero (80 + 64 * i) 48

/-- The range of the drain addresses, and of the Local Store rows of dmode 2: first and last start, and the bytes of a row (R196, R202). -/
def drainSpan (n : NestSet) : Int × Int :=
  spanOf (nestCbase n) (((List.range (nestNlev n)).drop (nestDlev n + 1)).map fun i => (nestTrip n i, nestCstride n i))

/-- The checks of R202: the first that fails. `rowBytes` is none where no main row is written; `west`, `north` and `tops` are the scratchpad
limits of the rooms that feed A, that feed B, and of all. -/
def nestCheck (cb4ok : Bool) (n : NestSet) (rowBytes : Option Nat) (dual : Bool) (west north tops : List Nat) : Option (BitVec 8) :=
  if nestMalformed n then some cILLFLD
  else
    let c := drainSpan n
    let ls : Option (Int × Int) := if nestDmode n = 2 then rowBytes.map fun b => (c.1, c.2 + 127 * nestCpitch n + b) else none
    let a := spanOf (nestAbase n) ((List.range (nestNlev n)).map fun i => (nestTrip n i, nestAstride n i))
    let b := spanOf (nestBbase n) ((List.range (nestNlev n)).map fun i => (nestTrip n i, nestBstride n i))
    let three := (usedEntries n).filter fun i => ftClass cb4ok (n.fmts.toList.getD i 0) == some 3
    let blocks := (nestUnit n - 1) / 16 + 1
    let groups := [nestAbg n, nestBbg n]
    if nestAbg n = nestBbg n then some cBANKCF
    else if (match ls with
        | some (lo, hi) => groups.any fun g => decide (lo < ((g + 1) * 0x200000 : Nat)) && decide ((g * 0x200000 : Nat) < hi)
        | none => false) then some cBANKCF
    else if !insideGroup a.1 a.2 256 (nestAbg n) west || !insideGroup b.1 b.2 256 (nestBbg n) north then some cPROT
    else if !three.isEmpty && !(insideGroup (spanA3 n three).1 (spanA3 n three).2 1024 (nestAbg n) west
        && insideGroup (nestScl n) (nestScl n) (128 * blocks) (nestBbg n) north
        && insideGroup (nestSsc n) (nestSsc n) (512 * ((blocks - 1) / 256 + 1)) (nestBbg n) north) then some cPROT
    else if (match ls with | some (lo, hi) => decide (lo < 0) || tops.any fun (t : Nat) => decide ((t : Int) < hi) | none => false) then some cPROT
    else if nestDmode n < 2 ∧ (c.1 < 0 ∨ (if dual then 15 else 31) < c.2) then some cPROT
    else none

/-- The banks of the main tiles that a nest can drain to (R200, R253). -/
def mainBanks (n : NestSet) : List Nat :=
  if nestDmode n = 2 then []
  else
    (((List.range (nestNlev n)).drop (nestDlev n + 1)).foldl (fun (acc : List Int) i =>
      (acc.flatMap fun r => (List.range (min 8 (nestTrip n i))).map fun x => (r + (x : Int) * nestCstride n i) % 8).dedup)
      [(nestCbase n : Int) % 8]).map Int.toNat

/-- The row types of the entries that a nest uses (R85, R250). -/
def rowTypes (cb4ok : Bool) (n : NestSet) : List Fmt :=
  let l := (usedEntries n).filterMap fun i => (ftClass cb4ok (n.fmts.toList.getD i 0)).map fun c => if c = 2 then Fmt.i32 else .fp32
  if l.isEmpty then [.fp32] else l.dedup

/-- Whether the rows of a nest that have not drained yet write into one of the groups: main rows of dmode 2 and DSTL rows (R381). In the last row of rooms
of the wing rows `i` and above are left. -/
def drainsInto (s : State) (lead : SuiteId) (r : WingRun) (groups : List Nat) : Bool :=
  match cmdImage s r.cmd with
  | none => false
  | some im =>
    let n := r.set
    let ops := programOps im n.prog.toNat
    let into := fun (lo k : Nat) => groups.any (touchesGroup lo k)
    r.units.any fun q =>
      let i := r.beat - (q.drainAt + (wingH s lead - 128))
      decide (i < 128) &&
      ((nestDmode n == 2 && match (if 8 ≤ n.prog.toNat then some 512 else mainRowBytes im n.prog.toNat) with
          | some b => into (q.c.getD 0 + i * nestCpitch n) ((127 - i) * nestCpitch n + b)
          | none => false)
        || (typed (if q.int then .i32 else .fp32) ops).any fun (t, op) => match op with
          | .dstl pitch l => into (n.dbase.toNat + 512 * l.toNat + 256 * 2 ^ pitch.toNat * i) ((127 - i) * (256 * 2 ^ pitch.toNat) + 128 * t.esz)
          | _ => false)

/-- Every check of an MGO's start, in order: R202, R253, then the rows of earlier nests (R381). -/
def startCheck (s : State) (lead : SuiteId) (c : Cmd) (n : NestSet) : Option (BitVec 8 × Nat) :=
  match cmdImage s c with
  | none => some (cILLFLD, 0)
  | some im =>
    let cb4 := featOn s 1
    let dual := c.dual
    let lim := fun (l : List SuiteId) => l.map fun v => scratchLimit (s.suite v)
    let tops := lim (members s lead)
    let rowBytes := if 8 ≤ n.prog.toNat then some 512 else mainRowBytes im n.prog.toNat
    match nestCheck cb4 n rowBytes dual (lim (westRooms s lead)) (lim (northRooms s lead)) tops with
    | some e => some (e, 0)
    | none =>
      let groups := [nestAbg n, nestBbg n]
      match checkProgram im n.prog.toNat n.dbase.toNat (rowTypes cb4 n) (nestDmode n != 2) dual groups (mainBanks n) tops with
      | some e => some e
      | none => if (s.room lead).runs.any fun r => drainsInto s lead r groups then some (cBANKCF, 0) else none

/-! ### Starting a nest (R217) -/

/-- Whether the wing's rooms all run: none halted, none stopped by scan. -/
def wingLive (s : State) (lead : SuiteId) : Bool := (members s lead).all fun v => !(s.room v).halt.halted && !(s.room v).stopped

/-- The nest that a command starts. -/
def newRun (c : Cmd) (drone : Bool) (n : NestSet) (total now : Nat) : WingRun :=
  { started := now, cmd := { c with status := .running }, drone := drone, set := n, beat := 0, nextStep := 0, nextEntry := 0, total := total, lastIn := none,
    ftNow := 0, unitInt := false, staged := 0, steps := [], units := [] }

/-- A room with every psum zero and nothing staged (R195, R377). -/
def quietRoom (x : Room) : Room :=
  { x with pes := x.pes.map fun r => r.map fun p => { p with acc := 0, blk := 0, blkPos := false, blkNeg := false, blkNan := false }
           aFeed := x.aFeed.map fun q => { q with full := false }, bFeed := x.bFeed.map fun q => { q with full := false } }

/-- MGO_START: at the head, in a cycle with RCYC mod 8 = 0 and when a new unit may enter, the shadow set becomes active and is checked; the nest
starts or the MGO traps (R217, R202, R253, R379). On an idle wing every psum is zero then (R195). -/
def execMgoStart (u : SuiteId) (s : State) : Host.Outcome State Fault Refusal :=
  .next <|
    match headOp s u .m with
    | some .mgo =>
      match popHead s u .m with
      | (none, s1) => s1
      | (some c, s1) =>
        let runs := (s1.room u).runs
        let free := runs.all fun r => !r.drone && decide (r.total ≤ r.nextStep) && decide (r.nextEntry ≤ r.beat)
        if !free || (s1.room u).drone.active || !wingLive s1 u || rcycOf s1 u % 8 != 0 then s1
        else
          let n := (s1.room u).shadow.get c.bank
          let s2 := (members s1 u).foldl (fun s v => s.modRoom v fun x => { x with active := n }) s1
          match startCheck s2 u c n with
          | some (cause, tval) => headTrap s2 u .m c cause tval
          | none =>
            let s3 := startHead s2 u .m c
            let s4 := s3.modRoom u fun x => { x with runs := x.runs ++ [newRun c false n (nestTotal n) s.cycle] }
            (members s4 u).foldl (fun s v => s.modRoom v fun x =>
              { (if runs.isEmpty then quietRoom x else x) with busy := true, nbeat := 0, aShift := (0, 0), bShift := (0, 0) }) s4
    | _ => s

/-! ### Beats of nests, drained rows, halts -/

/-- Whether a room's Local Store is read or written in the wing's next beat: by a drained row, by a feeder for a step that is due and not staged, or for
the scales of a block. -/
def lsNeeded (s : State) (lead v : SuiteId) : Bool :=
  (match rowDue s v with | some (r, _, _) => runMode s lead r == 2 || decide (r.set.prog.toNat < 8) | none => false)
    || ((roomCol v == roomCol lead || roomRow v == roomRow lead)
      && (s.room lead).runs.any fun r => stepDue r && (decide (r.staged ≤ r.nextStep) || ftClass (featOn s 1) (nextStepOf r).ft == some 3))

/-- A beat that needs the Local Store of a Suite whose core is stopped by scan waits (R288). -/
def lsStalled (s : State) (lead : SuiteId) : Bool := (members s lead).any fun v => (s.suite v).stopped && lsNeeded s lead v

/-- Whether the nests of a wing take a beat in this cycle. -/
def nestRuns (s : State) (lead : SuiteId) : Bool :=
  !(s.room lead).runs.isEmpty && (s.room lead).runs.all (fun r => !r.drone) && wingLive s lead && !lsStalled s lead

/-- Halts every room of a wing at the end of this cycle (R376). -/
def haltWing (s : State) (lead : SuiteId) (h : Halt) : State :=
  (members s lead).foldl (fun s v => s.modRoom v fun x => { x with halt := h }) s

/-- The running M command that a run belongs to: of several alike, the runs have theirs in order. -/
def runCommand (s : State) (lead : SuiteId) (r : WingRun) : Nat :=
  let l := (s.suite lead).mrun
  let mine := (List.range l.length).filter fun n => match l[n]? with
    | some c => c.bank == r.cmd.bank && c.status == .running && c.op == r.cmd.op
    | none => false
  let before := ((s.room lead).runs.takeWhile fun q => q.started != r.started).countP fun q => q.cmd.bank == r.cmd.bank && q.cmd.op == r.cmd.op
  mine.getD before (mine.headD l.length)

/-- Whether the Visit of a run's command has been aborted (R361). -/
def runDiscarded (s : State) (lead : SuiteId) (r : WingRun) : Bool :=
  match (s.suite lead).mrun[runCommand s lead r]? with | some c => c.discard | none => false

/-- The nests and the drone computation of a bank end: PEs at zero, staging empty, demands withdrawn, the room idle; what another bank still runs on the
wing goes on (R377). -/
def endBankRuns (s : State) (lead : SuiteId) (b : Fin 2) : State :=
  let mine := (s.room lead).runs.filter fun r => r.cmd.bank == b
  let rest := ((s.room lead).runs.filter fun r => r.cmd.bank != b).map fun r => { r with staged := r.nextStep }
  if mine.isEmpty then s
  else
    let s1 := (s.modRoom lead fun x => { x with runs := rest }).modSuite lead fun x =>
      { x with mrun := x.mrun.filter fun c => !(c.bank == b && (match c.op with | .mgo => true | .dstart .. => true | .ddrn _ => true | _ => false)) }
    let s2 := (members s1 lead).foldl (fun s v => s.modRoom v fun x =>
      let y := { quietRoom x with halt := Halt.reset, drain := none }
      if rest.isEmpty then { y with busy := false, nbeat := 0 } else y) s1
    if mine.any (·.drone) then
      s2.modRoom lead fun x => { x with drone := { x.drone with
        active := false, fixed := false, held := false, finalStep := none, feedOpen := [], withdrawnA := 0, withdrawnB := 0, drainOpen := none, queue := [], queueNew := 0,
        missNow := false, ending := false } }
    else s2

/-- FMTINV at a beat (R380): the trap of the MGO, and the halt; the nest of an aborted Visit ends instead (R377). -/
def haltFmt (s : State) (lead : SuiteId) (r : WingRun) (idx : Nat) : State :=
  let lvl := trapDepth s lead r.cmd.bank
  if runDiscarded s lead r then endBankRuns s lead r.cmd.bank
  else runTrap (haltWing s lead
    { halted := true, cause := cFMTINV, row := 0, tile := 0, ftidx := BitVec.ofNat 4 idx, phase := rcycOf s lead % 8, held := [(lead, r.cmd.bank, lvl)],
      since := s.cycle })
    lead .m (runCommand s lead r) cFMTINV

/-- The entry with which some nest of the wing would fail in this cycle. -/
def wingFails (s : State) (lead : SuiteId) : Option (WingRun × Nat) := (s.room lead).runs.findSome? fun r => (fmtFails s r).map fun i => (r, i)

/-- DRAIN_ROW: the row of a room that is due in this cycle's beat (R195, R196); none drains in the cycle of a halt (R376). -/
def execDrainRow (u : SuiteId) (s : State) : Host.Outcome State Fault Refusal :=
  .next (if nestRuns s (leadOf s u) && (wingFails s (leadOf s u)).isNone then drainRoom s u else s)

/-- At the end of a cycle the nests whose last row has drained leave: ROOMSTAT[1] clears with the last, and their MGO completes (R217). -/
def finishRuns (s : State) (lead : SuiteId) : State :=
  (s.room lead).runs.foldl (fun s r =>
    if !r.drone ∧ r.total ≤ r.nextStep ∧ r.units.isEmpty then
      let rest := (s.room lead).runs.drop 1
      let n := runCommand s lead r
      let s1 := s.modRoom lead fun x => { x with runs := rest }
      let s2 := if rest.isEmpty then (members s1 lead).foldl (fun s v => s.modRoom v fun x => { x with busy := false, nbeat := 0 }) s1 else s1
      finishRunning s2 lead .m n
    else s) s

/-- The beat-step that reaches a room in the present beat is an event of code 2 of its Suite (R345). -/
def countSteps (s : State) (lead : SuiteId) : State :=
  let runs := (s.room lead).runs
  (members s lead).foldl (fun s v =>
    if (stepAt runs (128 * (roomRow v - roomRow lead) + 128 * (roomCol v - roomCol lead))).isSome then countEvents s (.bank v 0) 2 1 else s) s

/-- NBEAT of every room of a wing: every beat of the nest that started last counts, those that drain it too (R292; log 19). -/
def setNbeat (s : State) (lead : SuiteId) (n : Nat) : State :=
  (members s lead).foldl (fun s v => s.modRoom v fun x => { x with nbeat := BitVec.ofNat 32 n, beatNow := true }) s

/-- NEST_BEAT: the next step enters and every PE of the wing combines (R194); an invalid entry halts the wing first (R87, R380). -/
def execNestBeat (u : SuiteId) (s : State) : Host.Outcome State Fault Refusal :=
  .next <|
    if !nestRuns s u then s
    else
      match wingFails s u with
      | some (r, i) => haltFmt s u r i
      | none =>
        let (runs, s1) := (s.room u).runs.foldl (fun (p : List WingRun × State) r =>
          let (r1, s1) := feed p.2 u r
          let (r2, s2) := enterStep s1 u r1
          (p.1 ++ [r2], s2)) ([], s)
        let s2 := countSteps (wingBeat (s1.modRoom u fun x => { x with runs := runs }) u) u
        let s3 := match (s.room u).runs.getLast? with
          | some r => setNbeat s2 u (r.beat + 1)
          | none => s2
        let w := wingW s u
        let h := wingH s u
        s3.modRoom u fun x => { x with runs := x.runs.map fun r => WingRun.after r w h }

/-- HALT_RESTART: with every trap of the halt released, the wing goes on in the first cycle with the halt's phase in which its clocks run (R288, R377). -/
def execHaltRestart (u : SuiteId) (s : State) : Host.Outcome State Fault Refusal :=
  .next <|
    let h := (s.room u).halt
    if h.halted && h.held.isEmpty && rcycOf s u % 8 == h.phase && (members s u).all (fun v => !(s.room v).stopped) then haltWing s (leadOf s u) Halt.reset else s

/-! ### Reshaping (R211, R212, R383) -/

/-- Whether a room of an envelope is idle: its wing runs nothing, and nothing is staged, and its M queue holds nothing ahead of the MWING (R211). -/
def roomIdle (s : State) (lead v : SuiteId) : Bool :=
  let l := leadOf s v
  (s.room l).runs.isEmpty && !(s.room l).drone.active && !(s.room v).halt.halted && (v == lead || (s.suite v).mq.isEmpty)
    && fullCount (s.room v).aFeed == 0 && fullCount (s.room v).bFeed == 0

/-- The wings of a shape that an envelope is cut into: doorways at their edges close (R209, R212). -/
def setWings (s : State) (lead : SuiteId) (env shape : Nat) : State :=
  (wingRooms lead env).foldl (fun s v =>
    let r := (roomRow v - roomRow lead) / shapeRows shape * shapeRows shape
    let c := (roomCol v - roomCol lead) / shapeCols shape * shapeCols shape
    s.modRoom v fun x =>
      { x with wingLead := roomAt lead r c, wingShape := ⟨shape % 9, by omega⟩,
               latchE := Vector.replicate 128 0, latchS := Vector.replicate 128 0, latchX := Vector.replicate 128 0 }) s

/-- RESHAPE_EFFECT: the MWING at the head traps WINGV on a stopped or foreign room, waits for idle rooms, or takes effect and leaves. -/
def execReshapeEffect (u : SuiteId) (s : State) : Host.Outcome State Fault Refusal :=
  .next <|
    match headOp s u .m with
    | some (.mwing _) =>
      match popHead s u .m with
      | (none, s1) => s1
      | (some c, s1) =>
        let env := envelopeOf s1 (.bank u c.bank)
        let rooms := wingRooms env.1 env.2
        let t := tenantOf s1 (.bank u c.bank)
        match c.op with
        | .mwing shape =>
          if rooms.any fun v => !owns s1 t v || (s1.room v).stopped then headTrap s1 u .m c cWINGV
          else if !rooms.all (roomIdle s1 u) then s1
          else
            let s2 := startHead (setWings s1 env.1 env.2 shape) u .m c
            finishRunning s2 u .m ((s2.suite u).mrun.length - 1)
        | _ => s1
    | _ => s

end Sys2Proof.Machine
end

