-- ==== Sys2Proof/Machine/Drone.lean ====
section
/-! DEFINITION. Drone mode: the commands DSTART, DLOOK, DFEED, DDRN, DEND and DRET, the beat clock, demands and the chanter:
spec/09_drone_mode.md R219-R235, spec/19_faults_rooms_and_engines.md R384-R386. -/

namespace Sys2Proof.Machine

/-! ### Acceptance (R229-R234) -/

/-- DSTART (R230). -/
def execDstart (s1 s2 : BitVec 5) (tok : Tok) (dn : BitVec 4) (w : BitVec 4) (s : State) : Host.Outcome State Fault Refusal :=
  issue (.dstart s1 s2 tok dn w) w (fun s ag =>
    let x := readA s ag s1
    let y := readA s ag s2
    let n := x.toNat
    let num := natBits n 12 4
    let noChanter : Bool := match imageOf s ag.bank with | some im => im.entryCh == 0xffffffff | none => true
    planAccept .m (.dstart x y) tok dn none
      (if natBits n 16 16 = 0 ∨ programAbsent s ag num ∨ 2 ≤ natBits n 10 2 ∨ natBits n 8 2 ≠ 0 ∨ natBits n 4 4 ≠ 0 ∨ natBits y.toNat 16 16 ≠ 0
          ∨ noChanter then some (cILLFLD, 0)
       else if num ≠ 15 ∧ natBits y.toNat 32 32 % 256 ≠ 0 then some (cMISALIGN, 0) else none) 1 s ag) s

/-- DLOOK (R231). -/
def execDlook (s1 : BitVec 5) (tok : Tok) (dn : BitVec 4) (w : BitVec 4) (s : State) : Host.Outcome State Fault Refusal :=
  issue (.dlook s1 tok dn w) w (fun s ag =>
    let l := (readA s ag s1).toNat
    planAccept .m (.dlook l) tok dn none (if l = 0 ∨ 64 < l then some (cILLFLD, 0) else none) 1 s ag) s

/-- DFEED (R232). -/
def execDfeed (s1 s2 : BitVec 5) (tok : Tok) (dn : BitVec 4) (w : BitVec 4) (s : State) : Host.Outcome State Fault Refusal :=
  issue (.dfeed s1 s2 tok dn w) w (fun s ag =>
    let src := readA s ag s1
    let ctl := readA s ag s2
    let n := src.toNat
    let tile := ctl.getLsbD 1
    let bad := if tile then n / 2 ^ 15 != 0 || natBits n 6 2 != 0 else n / 2 ^ 23 != 0
    planAccept .m (.dfeed src ctl) tok dn none
      (if ctl.toNat / 4 ≠ 0 ∨ bad then some (cILLFLD, 0)
       else if tile && decide ((if dualOf s ag.bank then 24 else 48) ≤ n % 64) then some (cILLREG, 0) else none) 1 s ag) s

/-- DDRN (R233). -/
def execDdrn (s1 : BitVec 5) (tok : Tok) (dn : BitVec 4) (w : BitVec 4) (s : State) : Host.Outcome State Fault Refusal :=
  issue (.ddrn s1 tok dn w) w (fun s ag =>
    let k := (readA s ag s1).toNat
    planAccept .m (.ddrn (k % 32)) tok dn none
      (if 32 ≤ k then some (cILLFLD, 0) else if dualOf s ag.bank && decide (16 ≤ k) then some (cPROT, 0) else none) 1 s ag) s

/-- DEND (R234). -/
def execDend (tok : Tok) (dn : BitVec 4) (w : BitVec 4) (s : State) : Host.Outcome State Fault Refusal :=
  issue (.dend tok dn w) w (planAccept .m .dend tok dn none none 1) s

/-- DRET: the chanter becomes idle at the end of the cycle (R235). -/
def execDret (w : BitVec 4) (s : State) : Host.Outcome State Fault Refusal :=
  issue (.dret w) w (fun _ ag => { act := fun t => t.modSuite ag.suite fun x => { x with chanter := { x.chanter with ending := true } } }) s

/-! ### Demands (R224-R226) -/

def modDrone (s : State) (lead : SuiteId) (f : Drone → Drone) : State := s.modRoom lead fun x => { x with drone := f x.drone }

/-- The demand record of a beat-step or unit (R226). -/
def demandRecord (drain : Bool) (i : Nat) : Word := BitVec.ofNat 64 (i % 2 ^ 32 + (if drain then 2 ^ 63 else 0))

/-- DSTART's count, unit, period and deadline (R230). -/
def Drone.count (d : Drone) : Nat := natBits d.dcfg.toNat 32 32
def Drone.unit (d : Drone) : Nat := natBits d.dcfg.toNat 16 16
def Drone.period (d : Drone) : Nat := natBits d.dcfg.toNat 0 4 + 1
def Drone.deadline (d : Drone) : Nat := natBits d.dcfg2.toNat 0 16

/-- Raises the feed demands below a beat-step that are not yet raised (R225). -/
def raiseFeeds (d : Drone) (below : Nat) : Drone :=
  let top := if d.count = 0 then below else min below d.count
  if d.fixed then d
  else
    let new := (List.range (top - d.nextDemand)).map (d.nextDemand + ·)
    { d with nextDemand := max top d.nextDemand, feedOpen := d.feedOpen ++ new, queue := d.queue ++ new.map (demandRecord false),
             queueNew := d.queueNew + new.length }

/-- The demands raised before this cycle, and those raised in it (R226). -/
def Drone.older (d : Drone) : List Word := d.queue.take (d.queue.length - d.queueNew)
def Drone.newer (d : Drone) : List Word := d.queue.drop (d.queue.length - d.queueNew)

/-- Raises the drain demand of a unit (R224), which comes first among those of its cycle (R226). -/
def raiseDrain (d : Drone) (u : Nat) : Drone :=
  { d with drainOpen := some u, queue := d.older ++ demandRecord true u :: d.newer, queueNew := d.queueNew + 1 }

/-- Withdraws the feed demands that are unanswered (R223); `fullA` and `fullB` say of which sides the slots are full. -/
def withdrawFeeds (d : Drone) (fullA fullB : Nat → Bool) : Drone :=
  let keep := fun (q : Word) => !d.feedOpen.any fun k => demandRecord false k == q
  { d with feedOpen := [], withdrawnA := d.feedOpen.countP fun k => !fullA k, withdrawnB := d.feedOpen.countP fun k => !fullB k, queue := d.older.filter keep ++ d.newer.filter keep, queueNew := (d.newer.filter keep).length }

/-- DEMAND_VECTOR: the oldest demand, raised in an earlier cycle, starts the chanter of the lead Suite, which issues from the next cycle on (R226). -/
def execDemandVector (u : SuiteId) (s : State) : Host.Outcome State Fault Refusal :=
  .next <|
    let d := (s.room u).drone
    let x := s.suite u
    match d.older with
    | [] => s
    | q :: _ =>
      if x.chanter.busy || x.chanter.trapped || x.stopped || (s.room u).stopped then s
      else
        let entry := match imageOf s (.bank u x.chanter.bank) with | some im => im.entryCh.toNat | none => 0
        (modDrone s u fun d => { d with queue := d.queue.drop 1, ddem := q }).modSuite u fun y =>
          { y with chanter := { y.chanter with c := y.chanter.c.set 7 q, pos := entry * 16, busy := true, lineMode := none } }

/-! ### Starting (R230) -/

/-- Every staging slot empty. -/
def clearSlots (x : Room) : Room :=
  { x with aFeed := x.aFeed.map fun q => { q with full := false }, bFeed := x.bFeed.map fun q => { q with full := false } }

/-- DSTART_EFFECT: with the wing idle the format table is copied, its entry 0 and the drain program are checked, and the computation starts. -/
def execDstartEffect (u : SuiteId) (s : State) : Host.Outcome State Fault Refusal :=
  .next <|
    match headOp s u .m with
    | some (.dstart cfg cfg2) =>
      match popHead s u .m with
      | (none, s1) => s1
      | (some c, s1) =>
        if (s1.room u).drone.active || !(s1.room u).runs.isEmpty || !wingLive s1 u then s1
        else
          let fmts := ((s1.room u).shadow.get c.bank).fmts
          let s2 := (members s1 u).foldl (fun s v => s.modRoom v fun x => { x with active := { x.active with fmts := fmts } }) s1
          let prog := BitVec.ofNat 4 (natBits cfg.toNat 12 4)
          let dbase := BitVec.ofNat 32 (natBits cfg2.toNat 32 32)
          match ftClass (featOn s 1) (fmts.get 0) with
          | none => headTrap s2 u .m c cFMTINV
          | some cls =>
            if cls = 3 then headTrap s2 u .m c cFMTINV
            else
              let tops := (members s2 u).map fun v => scratchLimit (s2.suite v)
              let bad := match cmdImage s2 c with
                | some im => checkProgram im prog.toNat dbase.toNat [if cls = 2 then .i32 else .fp32] true c.dual [] [] tops
                | none => none
              match bad with
              | some (cause, tval) => headTrap s2 u .m c cause tval
              | none =>
                let s3 := (startHead s2 u .m c).modSuite u fun x =>
                  { x with chanter := { x.chanter with c := Vector.replicate 8 0, bank := c.bank } }
                let set := { (s3.room u).active with prog := prog, dbase := dbase }
                let run := { newRun c true set 0 s.cycle with ftNow := fmts.get 0, unitInt := cls == 2 }
                let s4 := (members s3 u).foldl (fun s v => s.modRoom v fun x => { clearSlots x with busy := true }) s3
                let s5 := s4.modRoom u fun x => { x with runs := [run] }
                modDrone s5 u fun d =>
                  raiseFeeds { d with active := true, fixed := false, held := false, dbeat := 0, dmiss := 0, dstep := 0, dcfg := cfg, dcfg2 := cfg2,
                                      finalStep := none, nextDemand := 0, feedOpen := [], withdrawnA := 0, withdrawnB := 0, drainOpen := none, sinceBeat := 0,
                                      missRaised := false, missNow := false, ending := false } d.look.toNat
    | _ => s

/-! ### The final beat-step (R223) -/

/-- Whether a side's slots of a beat-step are full in every fed room. -/
def sideFull (s : State) (lead : SuiteId) (b : Bool) (step : Nat) : Bool :=
  let full := fun (v : Vector Slot 64) => (v.get ⟨step % 64, by omega⟩).full
  if b then (northRooms s lead).all fun u => full (s.room u).bFeed else (westRooms s lead).all fun u => full (s.room u).aFeed
def stepFull (s : State) (lead : SuiteId) (step : Nat) : Bool := sideFull s lead false step && sideFull s lead true step

/-- Empties the slots of a beat-step. -/
def emptyStep (s : State) (lead : SuiteId) (step : Nat) : State :=
  let off := fun (v : Vector Slot 64) => v.set (step % 64) { v.get ⟨step % 64, by omega⟩ with full := false } (by omega)
  let s1 := (westRooms s lead).foldl (fun s u => s.modRoom u fun x => { x with aFeed := off x.aFeed }) s
  (northRooms s lead).foldl (fun s u => s.modRoom u fun x => { x with bFeed := off x.bFeed }) s1

/-- The end of a drone computation, at the end of its last cycle (R222, R230). DSTAT[1] clears; a DFEED of a demand that was withdrawn and that reaches
the head only after the end still completes without effect, for which the counts of such demands stay until the next DSTART (DEDUCED, log 63). -/
def endDrone (s : State) (lead : SuiteId) : State :=
  let s1 := (members s lead).foldl (fun s v => s.modRoom v fun x => { x with busy := false }) (s.modRoom lead fun x => { x with runs := [] })
  let s2 := modDrone s1 lead fun d => { d with active := false, fixed := false, held := false, finalStep := none, missNow := false, ending := false }
  match findRunning s2 lead .m fun c => c.status == .running && (match c.op with | .dstart .. => true | _ => false) with
  | some n => finishRunning s2 lead .m n
  | none => s2

/-- Fixes the final beat-step at `count` beat-steps: unanswered demands are withdrawn, partly filled slots of later ones emptied, and a final unit whose last step has fired
already gets its drain (R223). -/
def fixFinal (s : State) (lead : SuiteId) (count : Nat) : State :=
  match (s.room lead).runs.head? with
  | none => s
  | some r =>
    let d := (s.room lead).drone
    let s1 := (List.range (d.nextDemand - count)).foldl (fun s i =>
      if stepFull s lead (count + i) then s else emptyStep s lead (count + i)) s
    let s2 := modDrone s1 lead fun d => { withdrawFeeds d (sideFull s lead false) (sideFull s lead true) with fixed := true, finalStep := some count }
    if count = 0 then modDrone s2 lead fun d => { d with ending := true }
    else if r.nextStep = count then
      if count % d.unit = 0 then
        s2.modRoom lead fun x => { x with runs := x.runs.map fun q => { q with units := q.units.map fun y =>
          if y.unitNo = (count - 1) / d.unit then { y with final := true } else y } }
      else
        let unit : UnitRec :=
          { drainAt := r.beat - 1 + wingW s lead, c := none, final := true, unitNo := (count - 1) / d.unit, int := r.unitInt }
        modDrone (s2.modRoom lead fun x => { x with runs := x.runs.map fun q => { q with units := q.units ++ [unit] } }) lead fun d =>
          raiseDrain d unit.unitNo
    else s2

/-- The least beat-step that has not fired and whose slots are not all full (R223). -/
def firstUnfilled (s : State) (lead : SuiteId) (from_ : Nat) : Nat → Nat
  | 0 => from_
  | n + 1 => if stepFull s lead from_ then firstUnfilled s lead (from_ + 1) n else from_

/-- DEND at the head (R234). -/
def dendEffect (u : SuiteId) (s : State) : State :=
  let d := (s.room u).drone
  if !d.active || d.fixed then s else fixFinal s u (firstUnfilled s u d.dstep.toNat 64)

/-- DLOOK at the head (R231, R225). -/
def dlookEffect (u : SuiteId) (l : Nat) (s : State) : State :=
  modDrone s u fun d =>
    let d1 := { d with look := BitVec.ofNat 7 l }
    if d.active then raiseFeeds d1 (d.dstep.toNat + l) else d1

/-! ### The beat clock (R219-R222) -/

/-- Whether the next beat carries a beat-step. -/
def feedBeat (d : Drone) (r : WingRun) : Bool :=
  decide (r.nextEntry ≤ r.beat) && match d.finalStep with | some n => decide (r.nextStep < n) | none => true

/-- Whether the next beat is ready (R220): its slots are full, every row that drains in it has a destination, and no Local Store that the row needs is
stopped by scan (R288). -/
def beatReady (s : State) (lead : SuiteId) (r : WingRun) : Bool :=
  (!feedBeat (s.room lead).drone r || stepFull s lead r.nextStep)
    && (r.units.all fun q => q.c.isSome || decide (r.beat < q.drainAt) || decide (q.drainAt + wingH s lead ≤ r.beat))
    && !lsStalled s lead

/-- The run of an active computation whose wing's clocks run. -/
def droneRun (s : State) (lead : SuiteId) : Option WingRun :=
  if (s.room lead).drone.active && wingLive s lead && !(s.room lead).drone.ending then (s.room lead).runs.find? (·.drone) else none

/-- Whether a beat fires in this cycle: beat 0 once ready, a later one when due or held, and ready (R220). -/
def beatFires (s : State) (lead : SuiteId) : Bool :=
  match droneRun s lead with
  | none => false
  | some r => (r.beat == 0 || decide ((s.room lead).drone.period ≤ (s.room lead).drone.sinceBeat)) && beatReady s lead r

/-- BEAT_DUE: a beat that is due and not ready is held, and counted once, at the end of the cycle (R220, R228). -/
def execBeatDue (u : SuiteId) (s : State) : Host.Outcome State Fault Refusal :=
  .next <|
    match droneRun s u with
    | none => s
    | some r =>
      let d := (s.room u).drone
      if r.beat ≠ 0 ∧ d.sinceBeat = d.period ∧ d.held = false ∧ beatReady s u r = false then
        modDrone s u fun d => { d with missNow := true }
      else s

/-- The step that a feed beat brings in (R193, R219, R222). -/
def enterDrone (s : State) (lead : SuiteId) (r : WingRun) : State :=
  let d := (s.room lead).drone
  let step := r.nextStep
  let slot := fun (v : Vector Slot 64) => (v.get ⟨step % 64, by omega⟩).data
  let last := d.count != 0 && step + 1 == d.count
  let final := last || d.finalStep == some (step + 1)
  let unitEnd := final || (step + 1) % d.unit == 0
  let st : StepRec :=
    { entry := r.beat, cls := (ftClass (featOn s 1) r.ftNow).getD 0, aFmt := ftA r.ftNow, bFmt := ftB r.ftNow,
      aSlices := (westRooms s lead).map fun u => slot (s.room u).aFeed, bSlices := (northRooms s lead).map fun u => slot (s.room u).bFeed,
      first := step % d.unit == 0, blockEnd := false, scales := [] }
  let unit : UnitRec := { drainAt := r.beat + wingW s lead, c := none, final := final, unitNo := step / d.unit, int := r.unitInt }
  let s1 := (emptyStep s lead step).modRoom lead fun x => { x with runs := x.runs.map fun q =>
    { q with nextStep := step + 1, nextEntry := if unitEnd then r.beat + wingW s lead + 1 else r.beat + 1, steps := st :: q.steps,
             units := if unitEnd then q.units ++ [unit] else q.units } }
  modDrone s1 lead fun d =>
    let d1 := { d with dstep := d.dstep + 1, fixed := d.fixed || last, finalStep := if last then some d.count else d.finalStep }
    let d2 := if unitEnd then raiseDrain d1 (step / d.unit) else d1
    raiseFeeds d2 (step + 1 + d2.look.toNat)

/-- The units drained whole in this beat complete their DDRN, and the cycle of the last flush beat ends the computation (R222, R229). -/
def droneAfter (s : State) (lead : SuiteId) (before : Nat) : State :=
  match (s.room lead).runs.head? with
  | none => s
  | some r =>
    let s1 := (List.range (before - r.units.length)).foldl (fun s _ =>
      match findRunning s lead .m fun c => c.status == .running && (match c.op with | .ddrn _ => true | _ => false) with
      | some n => finishRunning s lead .m n
      | none => s) s
    match (s.room lead).drone.finalStep with
    | some n => if n ≤ r.nextStep ∧ r.units.isEmpty then modDrone s1 lead fun d => { d with ending := true } else s1
    | none => s1

/-- DRONE_BEAT: a ready beat fires: rows drain, the step or an empty slice enters, and the wing advances (R219-R225). -/
def execDroneBeat (u : SuiteId) (s : State) : Host.Outcome State Fault Refusal :=
  .next <|
    if !beatFires s u then s
    else
      match droneRun s u with
      | none => s
      | some r =>
        let s1 := (members s u).foldl drainRoom s
        let s2 := if feedBeat (s.room u).drone r then
            (members s u).foldl (fun s v => countEvents s (.bank v 0) 2 1) (enterDrone s1 u r) else s1
        let n := match (s2.room u).runs.head? with | some q => q.units.length | none => 0
        let w := wingW s u
        let h := wingH s u
        let s3 := (wingBeat s2 u).modRoom u fun x => { x with runs := x.runs.map fun q => WingRun.after q w h }
        droneAfter (modDrone (s3.modRoom u fun x => { x with beatNow := true }) u fun d => { d with dbeat := d.dbeat + 1, held := false, missRaised := false, sinceBeat := 0 }) u n

/-- MISSDL: a beat still held D x P cycles after its due cycle (R221, R384). While one such trap is pending no other is raised. -/
def execMissdl (u : SuiteId) (s : State) : Host.Outcome State Fault Refusal :=
  .next <|
    match droneRun s u with
    | none => s
    | some _ =>
      let d := (s.room u).drone
      if d.deadline ≠ 0 ∧ d.held = true ∧ d.missRaised = false ∧ d.sinceBeat = d.period + d.deadline * d.period then
        let s1 := modDrone s u fun d => { d with missRaised := true }
        match findRunning s1 u .m fun c => c.status == .running && (match c.op with | .dstart .. => true | _ => false) with
        | some n =>
          match (s1.suite u).mrun[n]? with
          | some c => if c.trapLevel = 0 then runTrap s1 u .m n cMISSDL else s1
          | none => s1
        | none => s1
      else s

/-! ### DFEED and DDRN at the head (R232, R233, R385) -/

/-- The fed rooms of a side. -/
def fedRooms (s : State) (lead : SuiteId) (b : Bool) : List SuiteId := if b then northRooms s lead else westRooms s lead

/-- Fills a side's slots of a beat-step; a demand with both sides full is answered (R224, R232). -/
def fillSide (s : State) (lead : SuiteId) (bank : Fin 2) (b : Bool) (step : Nat) (src ctl : Word) : State :=
  let bytes := fun (u : SuiteId) =>
    if ctl.getLsbD 1 then
      (((readTile s u (physTile s (.bank u bank) (src.setWidth 6))).get ⟨natBits src.toNat 8 7, Nat.mod_lt _ (by decide)⟩).toList)
    else lsRead s u src.toNat 256
  let fill := fun (v : Vector Slot 64) (l : List Byte) => v.set (step % 64) ⟨true, l⟩ (by omega)
  let s1 := (fedRooms s lead b).foldl (fun t u => t.modRoom u fun x =>
    if b then { x with bFeed := fill x.bFeed (bytes u) } else { x with aFeed := fill x.aFeed (bytes u) }) s
  if stepFull s1 lead step then modDrone s1 lead fun d => { d with feedOpen := d.feedOpen.filter (· != step) } else s1

/-- A DFEED of a demand withdrawn once the final beat-step was fixed (R385). -/
def Drone.withdrawn (d : Drone) (b : Bool) : Nat := if b then d.withdrawnB else d.withdrawnA
def dropWithdrawn (b : Bool) (d : Drone) : Drone :=
  if b then { d with withdrawnB := d.withdrawnB - 1 } else { d with withdrawnA := d.withdrawnA - 1 }

/-- DFEED_HEAD (R232, R385). -/
def execDfeedHead (u : SuiteId) (s : State) : Host.Outcome State Fault Refusal :=
  .next <|
    match headOp s u .m with
    | some (.dfeed src ctl) =>
      match popHead s u .m with
      | (none, s1) => s1
      | (some c, s1) =>
        let b := ctl.getLsbD 0
        let tile := ctl.getLsbD 1
        let d := (s1.room u).drone
        let fed := fedRooms s1 u b
        if c.status = .complete then finishHead s1 u .m id
        else if fed.any fun v => (s1.suite v).stopped || (s1.room v).stopped then s1
        else if !tile && src.toNat % 256 != 0 then headTrap s1 u .m c cMISALIGN
        else if !tile && fed.any (fun v => !inScratch (s1.suite v) src.toNat 256) then headTrap s1 u .m c cPROT
        else if d.fixed then finishHead s1 u .m fun t => modDrone t u (dropWithdrawn b)
        else
          match d.feedOpen.find? fun k => !sideFull s1 u b k with
          | none => if d.withdrawn b = 0 then headTrap s1 u .m c cDEMERR else finishHead s1 u .m fun t => modDrone t u (dropWithdrawn b)
          | some k => finishHead s1 u .m fun t => fillSide t u c.bank b k src ctl
    | _ => s

/-- DDRN_HEAD (R233). -/
def execDdrnHead (u : SuiteId) (s : State) : Host.Outcome State Fault Refusal :=
  .next <|
    match headOp s u .m with
    | some (.ddrn k) =>
      match popHead s u .m with
      | (none, s1) => s1
      | (some c, s1) =>
        match (s1.room u).drone.drainOpen with
        | none => headTrap s1 u .m c cDEMERR
        | some unit =>
          let ops := match (s1.room u).runs.head?, cmdImage s1 c with | some r, some im => programOps im r.set.prog.toNat | _, _ => []
          if !endsNomain ops && (dovwTiles ops).any fun t => t % 8 == k % 8 then headTrap s1 u .m c cSCHEDV
          else
            let s2 := (modDrone s1 u fun d => { d with drainOpen := none }).modRoom u fun x =>
              { x with runs := x.runs.map fun r => { r with units := r.units.map fun q => if q.unitNo = unit then { q with c := some k } else q } }
            startHead s2 u .m c
    | _ => s

end Sys2Proof.Machine
end

