-- ==== Sys2Proof/Machine/Copies.lean ====
section
/-! DEFINITION. Bulk copies: the checks of CPY, the movement of elements and accumulator rows, the busy count, CPYQ and the completions of
copies: spec/10_copy_and_drain.md R236-R246, spec/19_faults_rooms_and_engines.md R381-R382, R388-R390. -/

namespace Sys2Proof.Machine

/-! ### The descriptor (R238, R239) -/

/-- The copy that 64 descriptor bytes and two registers describe; the accumulator tile is resolved at acceptance. -/
def parseCopy (l : List Byte) (r1 r2 : Word) (tile : Nat → Fin 32) : CopyJob :=
  let ctl := fieldAt l 3 1
  let pa := BitVec.ofNat 64 (fieldAt l 0x38 4) + r1
  let adim := fieldAt l 5 1
  { seg := fieldAt l 0 2, k := tile (pa.toNat % 32), rank := fieldAt l 2 1, store := ctl.testBit 0, acc := natBits ctl 1 2 == 1, add := ctl.testBit 3,
    rm := BitVec.ofNat 2 (natBits ctl 4 2), satm := ctl.testBit 6, pfmt := (Fmt.ofCode (fieldAt l 4 1)).getD .fp32,
    ext := (List.range 6).map fun i => fieldAt l (8 + 2 * i) 2, lpitch := fieldAt l 0x14 4,
    origin := (List.range 6).map fun i =>
      let o : Word := BitVec.ofInt 64 (signedOf 32 (fieldAt l (0x18 + 4 * i) 4))
      (if i = adim then o + r2 else o).toInt,
    pad := BitVec.ofNat 64 (fieldAt l 0x30 8), pa := pa.toNat, moved := [], got := [], hold := none }

def CopyJob.e (j : CopyJob) (i : Nat) : Nat := j.ext.getD i 1
/-- Elements of the box. -/
def CopyJob.size (j : CopyJob) : Nat := j.ext.foldl (· * ·) 1
/-- The index vector of an element, x0 fastest. -/
def CopyJob.index (j : CopyJob) (n : Nat) : List Nat := splitIndex j.ext n
/-- Segment coordinates of an element. -/
def CopyJob.coord (j : CopyJob) (n : Nat) : List Int := (j.origin.zip (j.index n)).map fun (o, x) => o + (x : Int)
/-- The Local Store address of an element (R239). -/
def CopyJob.lsAddr (j : CopyJob) (n : Nat) : Nat :=
  let x := j.index n
  j.pa + bytesOf j.pfmt (x.headD 0) + j.lpitch * nestIndex (x.drop 1) (j.ext.drop 1)
/-- First row and column of an accumulator window. -/
def CopyJob.row0 (j : CopyJob) : Nat := natBits j.pa 8 7
def CopyJob.col0 (j : CopyJob) : Nat := natBits j.pa 16 7

/-- Step 2 of R242. -/
def copyMalformed (l : List Byte) (j : CopyJob) : Bool :=
  let ctl := fieldAt l 3 1
  let pkind := natBits ctl 1 2
  let z := fun (off n : Nat) => fieldAt l off n == 0
  let short := if j.pfmt = .cb4 then decide (2 * j.lpitch < j.e 0) else decide (j.lpitch < j.e 0 * j.pfmt.esz)
  ctl.testBit 7 || !z 6 2 || !z 0x3c 4
    || (pkind == 1 && decide (j.pa &&& 0x7f7f1f ≠ j.pa))
    || j.rank == 0 || decide (6 < j.rank) || decide (2 ≤ pkind) || (j.add && (j.store || pkind == 0)) || (Fmt.ofCode (fieldAt l 4 1)).isNone
    || decide (j.rank ≤ fieldAt l 5 1) || j.ext.any (· == 0) || (j.ext.drop j.rank).any (· != 1)
    || (j.lpitch != 0 && (pkind == 1 || decide (j.rank < 2)))
    || (pkind == 0 && decide (2 ≤ j.rank) && (short || j.lpitch % j.pfmt.esz != 0))
    || (pkind == 1 && (decide (2 < j.rank) || !(j.pfmt == .fp32 || j.pfmt == .i32) || decide (128 < j.row0 + j.e 1) || decide (128 < j.col0 + j.e 0)))

/-- The last byte after a Local Store partner: the element offset grows with every index. -/
def CopyJob.lsEnd (j : CopyJob) : Nat :=
  let top := j.ext.map (· - 1)
  j.pa + j.lpitch * nestIndex (top.drop 1) (j.ext.drop 1) + (if j.pfmt = .cb4 then (j.e 0 + 1) / 2 else j.e 0 * j.pfmt.esz)

/-- Where a segment's descriptor lies in memory (R59). -/
def descAddr (s : State) (t : TenantId) (seg : Nat) : Nat := (segTable s t).1 + 64 * seg
/-- The busy count in memory (R246). -/
def busyCount (s : State) (t : TenantId) (seg : Nat) : Nat := leNat (devRead s (descAddr s t seg + 4) 4)
def setBusy (s : State) (t : TenantId) (seg n : Nat) : State := devWrite s (descAddr s t seg + 4) (leBytes 4 n)
/-- Completion lowers the count; a count of 0 stays (R389). -/
def lowerBusy (s : State) (t : TenantId) (seg : Nat) : State := let n := busyCount s t seg; if n = 0 then s else setBusy s t seg (n - 1)

/-- Steps 1 to 7 of R242, in order, with tval. -/
def copyTrap (s : State) (ag : Agent) (addr : Nat) (l : List Byte) (j : CopyJob) : Option (BitVec 8 × Word) :=
  let x := s.suite ag.suite
  if !inScratch x addr 64 then some (cPROT, 0)
  else if copyMalformed l j then some (cILLFLD, 0)
  else
    match (getDesc s (tenantOf s ag.bank) j.seg).1 with
    | none => some (cSEGNP, BitVec.ofNat 64 (j.seg * 2 ^ 36))
    | some d =>
      let top := (j.origin.zip j.ext).map fun (o, e) => o + ((e : Int) - 1)
      if d.rank < j.rank ∨ (d.fmt == .cb4) ≠ (j.pfmt == .cb4) then some (cILLFLD, 0)
      else if !j.acc && j.pa % j.pfmt.esz != 0 then some (cMISALIGN, 0)
      else if d.fmt = .cb4 ∧ (j.origin.headD 0 % 2 ≠ 0 ∨ j.e 0 % 2 ≠ 0) then some (cMISALIGN, 0)
      else if !j.acc && decide (scratchLimit x < j.lsEnd) then some (cPROT, 0)
      else if j.acc && dualOf s ag.bank && decide (16 ≤ j.pa % 32) then some (cPROT, 0)
      else if j.store && !d.writable then some (cPROT, 0)
      else if d.strays j.origin || d.strays top then some (cCPYOVF, 0)
      else none

/-- CPY (R241, R242): the descriptor is read at acceptance, the busy count is raised. -/
def execCpy (s1 s2 : BitVec 5) (tok : Tok) (dn : BitVec 4) (desc : BitVec 17) (w : BitVec 4) (s : State) : Host.Outcome State Fault Refusal :=
  issue (.cpy s1 s2 tok dn desc w) w (fun s ag =>
    let u := ag.suite
    let t := tenantOf s ag.bank
    let addr := 64 * desc.toNat
    let l := lsRead s u addr 64
    let j := parseCopy l (readA s ag s1) (readA s ag s2) (physAcc s ag.bank)
    let trap := copyTrap s ag addr l j
    let held := trap.isNone && (s.tenant t).held.contains j.seg
    let p := planAccept .c (.cpy j) tok dn ((recordHold s ag addr 64).or (if held then some holdPlain else none))
      (if trap.isNone && busyCount s t j.seg == 0xffffffff then some (cBUSYOVF, 0) else trap) 2 s ag
    { p with act := fun x => setBusy (p.act x) t j.seg (busyCount x t j.seg + 1) }) s

/-- CPYQ (R243). -/
def execCpyq (tok : Tok) (dn : BitVec 4) (w : BitVec 4) (s : State) : Host.Outcome State Fault Refusal :=
  issue (.cpyq tok dn w) w (planAccept .c .cpyq tok dn none none 1) s

/-! ### In the C engine -/

/-- CPY_START: the head leaves when fewer than four copies of the Suite are in flight (R236). -/
def execCpyStart (u : SuiteId) (s : State) : Host.Outcome State Fault Refusal :=
  .next <|
    match headOp s u .c with
    | some (.cpy _) =>
      match popHead s u .c with
      | (none, s1) => s1
      | (some c, s1) =>
        let flying := (s1.suite u).crun.countP fun c => c.status == .running && (match c.op with | .cpy _ => true | _ => false)
        if flying < 4 then startHead s1 u .c c else s1
    | _ => s

/-- The running C command at index k replaced in part. -/
def modRun (s : State) (u : SuiteId) (k : Nat) (f : Cmd → Cmd) : State := modRunning s u .c fun l => l.modify k f

/-- How a step of a copy ends: done, waiting, or trapped with a cause and a faulting address. -/
inductive Moved where
  | done
  | wait
  | trap (cause : BitVec 8) (tval : Option Nat)
  deriving DecidableEq, Repr

/-- An element converted between formats (R240): unchanged within one format. -/
def convElem (j : CopyJob) (a b : Fmt) (v : Nat) : Nat := if a = b then v else (cvt (dec v a) b j.rm j.satm).1

/-- The segment element of a copy, past L1, or the pad where it lies outside (R239, R240, R245). -/
def readSegElem (s : State) (u : SuiteId) (c : Cmd) (j : CopyJob) (d : Desc) (n : Nat) : Mres Nat × State :=
  let x := j.coord n
  if outsideOf d x then (.ok (natBits j.pad.toNat 0 d.fmt.width), s)
  else
    match loadBytes s (.bank u c.bank) c.tenant j.seg d (offsetOf d x) d.fmt.esz true true with
    | (.ok bs, s1) => (.ok (if d.fmt = .cb4 then natBits (leNat bs) (4 * (d.elem (x.map Int.toNat) % 2)) 4 else leNat bs), s1)
    | (.fault e, s1) => (.fault e, s1)
    | (.wait, s1) => (.wait, s1)

/-- The virtual address of a copy's element (R394). -/
def copyVa (j : CopyJob) (d : Desc) (n : Nat) : Nat := j.seg * 2 ^ 36 + offsetOf d (j.coord n)

/-- A write of a segment element at its line's home; with it the line leaves the issuing Suite's L1 (R57, R245). The setter is the Suite and the agent
code of C (R350). -/
def writeSegElem (s : State) (u : SuiteId) (c : Cmd) (j : CopyJob) (d : Desc) (n v : Nat) : Mres Unit × State :=
  let x := j.coord n
  let off := offsetOf d x
  let r : Mres Unit × State :=
    if d.fmt = .cb4 then storeNibble s (.bank u c.bank) c.tenant j.seg d off (d.elem (x.map Int.toNat) % 2) v (u.val + 4 * 4096) true
    else storeBytes s (.bank u c.bank) c.tenant j.seg d off (leBytes d.fmt.esz v) (u.val + 4 * 4096) true
  match r.1 with
  | .ok _ => (r.1, l1DropLine r.2 u c.tenant j.seg (off / 64))
  | _ => r

/-- The Local Store element of a copy (R239). -/
def readLsElem (s : State) (u : SuiteId) (j : CopyJob) (n : Nat) : Nat :=
  let v := leNat (lsRead s u (j.lsAddr n) j.pfmt.esz)
  if j.pfmt = .cb4 then natBits v (4 * ((j.index n).headD 0 % 2)) 4 else v
def writeLsElem (s : State) (u : SuiteId) (j : CopyJob) (n v : Nat) : State :=
  if j.pfmt = .cb4 then
    let old := leNat (lsRead s u (j.lsAddr n) 1)
    lsWrite s u (j.lsAddr n) [BitVec.ofNat 8 (if (j.index n).headD 0 % 2 = 0 then old / 16 * 16 + v % 16 else old % 16 + 16 * (v % 16))]
  else lsWrite s u (j.lsAddr n) (leBytes j.pfmt.esz v)

/-- Row and column of an accumulator partner's element. -/
def accPlace (j : CopyJob) (n : Nat) : Fin 128 × Fin 128 :=
  let x := j.index n
  (⟨(j.row0 + x.getD 1 0) % 128, by omega⟩, ⟨(j.col0 + x.headD 0) % 128, by omega⟩)

/-- One element of a copy other than an accumulator load. Its accumulator word is read, and its errors counted, once: when its write performs (R393). -/
def moveElem (s : State) (u : SuiteId) (c : Cmd) (j : CopyJob) (d : Desc) (n : Nat) : Moved × State :=
  if j.store then
    if outsideOf d (j.coord n) then (.done, s)
    else
      let word := accRead s u j.k (accPlace j n).1 (accPlace j n).2
      let src : Option Nat :=
        if j.acc then (if (s.room u).stopped then none else some word.1.toNat)
        else if (fedReadHold s u (j.lsAddr n) j.pfmt.esz).isSome then none
        else some (readLsElem s u j n)
      match src with
      | none => (.wait, s)
      | some v =>
        match writeSegElem s u c j d n (convElem j j.pfmt d.fmt v) with
        | (.ok _, s2) => (.done, if j.acc then (accRead s2 u j.k (accPlace j n).1 (accPlace j n).2).2 else s2)
        | (.fault e, s2) => (.trap e (some (copyVa j d n)), s2)
        | (.wait, s2) => (.wait, s2)
  else
    match readSegElem s u c j d n with
    | (.ok v, s1) =>
      if touchesFed s1 u (j.lsAddr n) j.pfmt.esz then (.trap cBANKCF none, s1)
      else (.done, writeLsElem s1 u j n (convElem j d.fmt j.pfmt v))
    | (.fault e, s1) => (.trap e (some (copyVa j d n)), s1)
    | (.wait, s1) => (.wait, s1)

/-- Elements of a copy one after another until one waits or traps: those moved, and how the last one ended. -/
def moveElems (s : State) (u : SuiteId) (c : Cmd) (j : CopyJob) (d : Desc) : List Nat → List Nat × Moved × State
  | [] => ([], .done, s)
  | n :: rest =>
    match moveElem s u c j d n with
    | (.done, s1) => let (l, m, s2) := moveElems s1 u c j d rest; (n :: l, m, s2)
    | (m, s1) => ([], m, s1)

/-! ### Accumulator rows (R205, R206, R244, R382) -/

/-- Whether a row of a room drains in this cycle. -/
def drainsNow (s : State) (u : SuiteId) : Bool :=
  let lead := leadOf s u
  (nestRuns s lead && (wingFails s lead).isNone) || beatFires s lead

/-- A wing that SCHEDV has halted in this very cycle: the rows that were due meet every other row of the cycle too (R376, R382). -/
def haltedNow (s : State) (u : SuiteId) : Bool := let h := (s.room u).halt; h.halted && h.cause == cSCHEDV && h.since == s.cycle

/-- The drained or DOVW tile whose row would take a bank port of a room in this cycle. -/
def portClash (s : State) (u : SuiteId) (bank : Nat) : Option (Fin 32) :=
  if drainsNow s u || haltedNow s u then (rowTiles s u).find? fun k => k.val % 8 == bank else none

/-- SCHEDV (R206, R382): the wing halts; the MGO or DSTART traps as agent M, once. `held` are the banks of the other command. Answers also the nest and unit
whose drains come first. -/
def haltSched (s : State) (u : SuiteId) (tile : Fin 32) (held : List (SuiteId × Fin 2 × Nat)) : Option (Nat × Nat) × State :=
  let lead := leadOf s u
  match rowDue s u with
  | none => (none, s)
  | some (r, q, i) =>
    let n := runCommand s lead r
    let trapped := match (s.suite lead).mrun[n]? with | some c => c.trapLevel != 0 | none => true
    let own := if runDiscarded s lead r || trapped then [] else [(lead, r.cmd.bank, trapDepth s lead r.cmd.bank)]
    let h0 := (s.room u).halt
    let h : Halt :=
      if haltedNow s u then { h0 with held := h0.held ++ own ++ held }
      else
        { halted := true, cause := cSCHEDV, row := BitVec.ofNat 7 i, tile := BitVec.ofNat 5 tile.val, ftidx := 0, phase := rcycOf s lead % 8,
          held := own ++ held, since := s.cycle }
    let s1 := haltWing s lead h
    (some (r.started, q.unitNo), if trapped then s1 else runTrap s1 lead .m n cSCHEDV)

/-- Whether the nest and unit that hold a copy's rows back still drain into a bank of a room (R382). -/
def unitDrains (s : State) (u : SuiteId) (h : Option (Nat × Nat)) (bank : Nat) : Bool :=
  match h with
  | none => false
  | some (started, unitNo) =>
    let lead := leadOf s u
    (s.room lead).runs.any fun r => r.started == started && r.units.any fun q =>
      q.unitNo == unitNo && decide (r.beat < q.drainAt + 128 * (roomRow u - roomRow lead + 1)) &&
        (let ops := match cmdImage s r.cmd with | some im => programOps im r.set.prog.toNat | none => []
         ((if runMode s lead r = 2 ∨ endsNomain ops then [] else [q.c.getD 0]) ++ dovwTiles ops).any fun k => k % 8 == bank)

/-- Words of an accumulator load, row after row, read and converted until a read waits or traps, and how the last one ended (R240). -/
def loadWords (s : State) (u : SuiteId) (c : Cmd) (j : CopyJob) (d : Desc) : List Nat → List W32 × Moved × State
  | [] => ([], .done, s)
  | n :: rest =>
    match readSegElem s u c j d n with
    | (.ok v, s1) =>
      let (l, m, s2) := loadWords s1 u c j d rest
      (BitVec.ofNat 32 (convElem j d.fmt j.pfmt v) :: l, m, s2)
    | (.fault e, s1) => ([], .trap e (some (copyVa j d n)), s1)
    | (.wait, s1) => ([], .wait, s1)

/-- A word written or added to the accumulator store by a copy or a collective (R240, R273). -/
def accPutWord (s : State) (u : SuiteId) (k : Fin 32) (row col : Fin 128) (add int : Bool) (w : W32) : State :=
  if add then
    let (old, s1) := accRead s u k row col
    accSet s1 u k row col (if int then old + w else rne32 (addV false (dec32 old) (dec32 w)).1)
  else accSet s u k row col w

/-- A running copy stops with a trap; one of an aborted Visit ends, and its busy count falls (R361, R375, R390). -/
def copyTraps (s : State) (u : SuiteId) (kk : Nat) (c : Cmd) (j : CopyJob) (cause : BitVec 8) (tval : Option Nat) : State :=
  runTrap (modRun (if c.discard then lowerBusy s c.tenant j.seg else s) u kk fun c => { c with op := .cpy j }) u .c kk cause tval

/-- An accumulator load reads every word of its window first, as its requests are granted; its rows then land (R205, R240, R244). -/
def readRows (s : State) (u : SuiteId) (kk : Nat) (c : Cmd) (j : CopyJob) (d : Desc) : State :=
  match loadWords s u c j d ((List.range j.size).drop j.got.length) with
  | (l, .trap e v, s1) => copyTraps s1 u kk c { j with got := j.got ++ l } e v
  | (l, _, s1) => modRun s1 u kk fun c => { c with op := .cpy { j with got := j.got ++ l } }

/-- The next row of an accumulator load lands in the next free copy slot of its bank, or meets a drained row (R205, R206, R244, R382). In which slot the
first row lands is free; replay forces each row's cycle (R337). -/
def moveRow (s : State) (u : SuiteId) (kk : Nat) (c : Cmd) (j : CopyJob) : State :=
  let bank := j.k.val % 8
  let row := j.moved.length
  if rcycOf s u % 8 ≠ bank ∨ (s.room u).stopped ∨ (s.room u).portRows.contains bank ∨ unitDrains s u j.hold bank then s
  else
    let (w, s1) := if row = 0 ∧ ologMode s c.tenant ≠ 2 then chooseBelow s 2 else (0, s)
    if w = 1 then s1
    else
      match portClash s1 u bank with
      | some tile =>
        let (h, s2) := haltSched s1 u tile (if c.discard then [] else [(u, c.bank, trapDepth s1 u c.bank)])
        copyTraps s2 u kk c { j with hold := h } cSCHEDV none
      | none =>
        let r : Fin 128 := ⟨(j.row0 + row) % 128, by omega⟩
        match accLogged s1 c.tenant u 1 c.bank.val j.k.val r.val 0 with
        | (false, s2) => s2
        | (true, s2) =>
          let words := (j.got.drop (row * j.e 0)).take (j.e 0)
          let s3 := words.zipIdx.foldl (fun s (w, x) => accPutWord s u j.k r (accPlace j (row * j.e 0 + x)).2 j.add (j.pfmt == .i32) w) (takePort s2 u j.k)
          modRun s3 u kk fun c => { c with op := .cpy { j with moved := j.moved ++ [row] } }

/-- What a copy has still to move: elements, or rows of an accumulator load. -/
def CopyJob.left (j : CopyJob) : List Nat :=
  if j.acc && !j.store then (List.range (j.e 1)).drop j.moved.length else (List.range j.size).filter fun n => !j.moved.contains n

/-- COPY_ELEMENT_MOVE: a running copy moves elements, in an order that is not defined, or its next row (R237, R240, R244, R245). -/
def execCopyElementMove (u : SuiteId) (k : Nat) (s : State) : Host.Outcome State Fault Refusal :=
  .next <|
    match (s.suite u).crun[k]? with
    | none => s
    | some c =>
      match c.op with
      | .cpy j =>
        if (s.suite u).stopped ∨ c.trapLevel ≠ 0 ∨ c.status ≠ .running ∨ j.left.isEmpty then s
        else if j.acc && !j.store && decide (j.size ≤ j.got.length) then moveRow s u k c j
        else
          match getDesc s c.tenant j.seg with
          | (none, s1) => copyTraps s1 u k c j cSEGNP (some (j.seg * 2 ^ 36))
          | (some d, s1) =>
            if j.acc && !j.store then readRows s1 u k c j d
            else
              let left := j.left
              let (n, s2) := chooseBelow s1 (left.length + 1)
              let (l, m, s3) := moveElems s2 u c j d (if n = 0 then left else [left.getD (n - 1) 0])
              let j1 := { j with moved := j.moved ++ l }
              match m with
              | .trap e v => copyTraps s3 u k c j1 e v
              | _ => modRun s3 u k fun c => { c with op := .cpy j1 }
      | _ => s

/-- CPY_COMPLETION: everything has moved; the busy count falls and the copy completes (R237, R246). -/
def execCpyCompletion (u : SuiteId) (k : Nat) (s : State) : Host.Outcome State Fault Refusal :=
  .next <|
    match (s.suite u).crun[k]? with
    | none => s
    | some c =>
      match c.op with
      | .cpy j =>
        if c.status = .running ∧ j.left.isEmpty ∧ (s.suite u).stopped = false then finishRunning (lowerBusy s c.tenant j.seg) u .c k else s
      | _ => s

/-- COMMAND_COMPLETION: 0 and 1 are the heads of the M and C queue where they complete in one cycle, k + 2 the k-th running command whose push
still waits for room, those of M first (R213, R236, R243, R359). A CPYQ waits for the commands before it until their pushes have found room as well: R243
does not say whether a copy that is complete by R237 but whose push waits counts (DESIGN CHOICE, log 65). -/
def execCommandCompletion (u : SuiteId) (k : Nat) (s : State) : Host.Outcome State Fault Refusal :=
  .next <|
    let x := s.suite u
    let again := fun (e : Engine) (n : Nat) => match (runningOf x e)[n]? with
      | some c => if c.status = .complete then finishRunning s u e n else s
      | none => s
    match k with
    | 0 =>
      match headOf s u .m with
      | none => s
      | some c =>
        match c.op with
        | .mnest .. | .mfmt .. | .mdrn .. => finishHead s u .m (shadowEffect u c)
        | .dlook l => finishHead s u .m (dlookEffect u l)
        | .dend => finishHead s u .m (dendEffect u)
        | _ => s
    | 1 =>
      match headOf s u .c with
      | none => s
      | some c =>
        match c.op with
        | .cpyq => match popHead s u .c with
          | (none, s1) => s1
          | (some _, s1) => if (s1.suite u).crun.isEmpty then finishHead s1 u .c id else s1
        | _ => s
    | n + 2 => if n < x.mrun.length then again .m n else again .c (n - x.mrun.length)

end Sys2Proof.Machine
end

