-- ==== Sys2Proof/Machine/Collectives.lean ====
section
/-! DEFINITION. Passages, collective engines and collective semaphores: spec/12_supersteps_and_collectives.md R266-R279,
spec/19_faults_rooms_and_engines.md R381-R382, spec/22_faults_fabric_and_replicas.md R437. -/

namespace Sys2Proof.Machine

/-! ### Packets to other packages (R268, R273, R276, R343) -/

/-- A packet to another package; its kind is that of the message list of the package: 3 passage slot, 4 passage credit, 5 semaphore post,
6 collective arrival, 7 collective words, 8 abandonment, 9 digest, 10 passage lost, 11 passage slot full. Credits, posts and digests are of the control
class, the rest is bulk of its tenant (R282, R343). It waits, numbered, at a freely chosen port that is up, in as many flits as its bytes need and by free
choice one more (R8; DESIGN CHOICE, log 43); without a route it is discarded and counted (R426). -/
def sendPacket (s : State) (kind peer : Nat) (t : TenantId) (bytes : List Byte) : State :=
  if !reachable s peer then s.modPkg fun p => { p with linklost := satAdd32 p.linklost }
  else
    let ports := (List.finRange 12).filter fun i => (s.pkg.links.get i).trained && !(s.pkg.links.get i).down
    let (k, s1) := chooseBelow s (max 1 ports.length)
    let (n, s2) := chooseBelow s1 2
    let i := ports.getD k 0
    s2.modPkg fun p =>
      let l := p.links.get i
      let w : Waiting := ⟨peer, t, kind == 4 || kind == 5 || kind == 9, flitsOf bytes.length + n, 0, ⟨kind, peer, bytes, p.packetSeq⟩⟩
      { p with packetSeq := p.packetSeq + 1, links := p.links.set i.val { l with waiting := l.waiting ++ [w] } i.isLt }

/-! ### Passages (R266-R270) -/

/-- The boundary that a PSEND or a PRECV of a room uses (R266). -/
def sendBoundary (u : SuiteId) : Fin 5 := ⟨dieOf u, by have := u.isLt; unfold dieOf; omega⟩
def recvBoundary (u : SuiteId) : Fin 5 := if dieOf u = 0 then 4 else ⟨dieOf u - 1, by have := u.isLt; unfold dieOf; omega⟩

def passage (s : State) (b : Fin 5) (p : Fin 8) : Passage := (s.pkg.passages.get b).get p
def modPassage (s : State) (b : Fin 5) (p : Fin 8) (f : Passage → Passage) : State :=
  s.modPkg fun q =>
    let row := q.passages.get b
    { q with passages := q.passages.set b.val (row.set p.val (f (row.get p)) p.isLt) b.isLt }

/-- The fields of PASS(b, p) (R267). -/
def Passage.en (p : Passage) : Bool := p.csr.getLsbD 31
def Passage.tenant (p : Passage) : Nat := natBits p.csr.toNat 16 6
def Passage.peer (p : Passage) : Nat := natBits p.csr.toNat 32 9
def Passage.depth (p : Passage) : Nat := natBits p.csr.toNat 8 4 + 1
/-- Enabled, owner and depth of two ends agree (R267). -/
def Passage.matches (p q : Passage) : Bool := p.en && q.en && p.tenant == q.tenant && p.depth == q.depth

/-- Whether a passage may be used by a tenant (R269). Whether another package's register joins the passage cannot be seen from here: that is a
free choice (log 6), and a peer without a route is none (R426). -/
def passageOk (s : State) (b : Fin 5) (p : Fin 8) (t : TenantId) : Bool :=
  let x := passage s b p
  x.en && x.tenant == t.val &&
    (decide (b.val < 3)
      || (if x.peer = Config.pkgId.toNat then
            x.matches (passage s (if b.val = 3 then 4 else 3) p) && (passage s (if b.val = 3 then 4 else 3) p).peer == Config.pkgId.toNat
          else reachable s x.peer && decide (Config.choice s.fresh % 2 = 0)))

/-- The boundary at which the slots of a sending boundary stand: the package itself may be its own neighbour. -/
def slotBoundary (s : State) (b : Fin 5) (p : Fin 8) : Fin 5 := if b.val = 3 ∧ (passage s b p).peer = Config.pkgId.toNat then 4 else b

/-- Whether the slots of a sending boundary stand in another package. -/
def crosses (s : State) (b : Fin 5) (p : Fin 8) : Bool := b.val == 3 && slotBoundary s b p == b

/-- The acceptance checks of PSEND and PRECV, in the order of R269. -/
def passageTrap (s : State) (ag : Agent) (a1 a2 : Word) : Option (BitVec 8 × Word) :=
  if a2 &&& ~~~0x107 ≠ 0 then some (cILLFLD, 0)
  else if a2.getLsbD 8 then
    (if 48 ≤ a1.toNat % 64 ∨ (dualOf s ag.bank ∧ 24 ≤ a1.toNat % 64) then some (cILLREG, 0) else none)
  else if a1.toNat % 256 ≠ 0 then some (cMISALIGN, 0)
  else if !inScratch (s.suite ag.suite) a1.toNat 32768 then some (cPROT, 0)
  else none

/-- PSEND (R268). -/
def execPsend (s1 s2 : BitVec 5) (tok : Tok) (dn : BitVec 4) (w : BitVec 4) (s : State) : Host.Outcome State Fault Refusal :=
  issue (.psend s1 s2 tok dn w) w (fun s ag =>
    let a1 := readA s ag s1
    let a2 := readA s ag s2
    planAccept .c (.psend a1 a2) tok dn none (passageTrap s ag a1 a2) 1 s ag) s

/-- PRECV (R268). -/
def execPrecv (s1 s2 : BitVec 5) (tok : Tok) (dn : BitVec 4) (w : BitVec 4) (s : State) : Host.Outcome State Fault Refusal :=
  issue (.precv s1 s2 tok dn w) w (fun s ag =>
    let a1 := readA s ag s1
    let a2 := readA s ag s2
    planAccept .c (.precv a1 a2) tok dn none (passageTrap s ag a1 a2) 1 s ag) s

/-- The passage that a control word names. -/
def passageNo (ctl : Word) : Fin 8 := ⟨ctl.toNat % 8, by omega⟩

/-- A credit is taken: the next slot is reserved (R268). -/
def reserveSlot (s : State) (b : Fin 5) (p : Fin 8) : State :=
  modPassage s b p fun x => { x with slots := x.slots ++ [(x.nextSlot, none)], nextSlot := x.nextSlot + 1, used := x.used + 1 }

/-- PSEND_CREDIT: at the head a PSEND takes a credit, in the order in which the Suites' commands reach the port (R268-R270, R337). -/
def execPsendCredit (u : SuiteId) (s : State) : Host.Outcome State Fault Refusal :=
  .next <|
    match headOp s u .c with
    | some (.psend _ ctl) =>
      match popHead s u .c with
      | (none, s1) => s1
      | (some c, s1) =>
        let p := passageNo ctl
        let b := sendBoundary u
        let at_ := slotBoundary s1 b p
        let x := passage s1 at_ p
        if !passageOk s1 b p c.tenant then headTrap s1 u .c c cPASSERR
        else if x.depth ≤ x.used then s1
        else
          let (n, s2) := chooseBelow s1 2
          if n = 1 then s2
          else
            match ologChoice s2 c.tenant 2 u.val (p.val + 16 * b.val) with
            | (none, s3) => s3
            | (some _, s3) =>
              startHead (reserveSlot s3 at_ p) u .c { c with slot := some (x.nextSlot, Tile.zero) }
    | _ => s

/-- The 32 KiB operand of a passage command, read (R268); none while it must wait. -/
def passageRead (s : State) (u : SuiteId) (c : Cmd) (a1 a2 : Word) : Option Tile :=
  if a2.getLsbD 8 then some (readTile s u (c.tile (a1.toNat % 64)))
  else if (fedReadHold s u a1.toNat 32768).isSome then none
  else some (tileOfBytes (lsRead s u a1.toNat 32768))

/-- Full slots at the front of a passage to another package leave as packets, in slot order (R283). -/
def flushSlots (b : Fin 5) (p : Fin 8) (t : TenantId) (peer : Nat) : Nat → State → State
  | 0, s => s
  | n + 1, s =>
    match (passage s b p).slots with
    | (id, some d) :: rest =>
      flushSlots b p t peer n (sendPacket (modPassage s b p fun x => { x with slots := rest }) 3 peer t
        (leBytes 1 t.val ++ leBytes 1 p.val ++ leBytes 4 id ++ bytesOfTile d))
    | _ => s

/-- PSEND_COMPLETION: the operand is copied into the reserved slot; slots fill in credit order, and the command completes when its slot is full at the
receiving die, which another package reports (R268, R270). One whose slot was discarded takes a credit anew (R375, R426), a choice that the order log
records like the first (R337). -/
def execPsendCompletion (u : SuiteId) (k : Nat) (s : State) : Host.Outcome State Fault Refusal :=
  .next <|
    match (s.suite u).crun[k]? with
    | none => s
    | some c =>
      match c.op with
      | .psend src ctl =>
        if (s.suite u).stopped ∨ c.trapLevel ≠ 0 ∨ c.status ≠ .running then s
        else
          let p := passageNo ctl
          let b := sendBoundary u
          let at_ := slotBoundary s b p
          let x := passage s at_ p
          match c.slot with
          | none =>
            if !passageOk s b p c.tenant then runTrap s u .c k cPASSERR
            else if x.depth ≤ x.used then s
            else
              match ologChoice s c.tenant 2 u.val (p.val + 16 * b.val) with
              | (none, s1) => s1
              | (some _, s1) => modRun (reserveSlot s1 at_ p) u k fun c => { c with slot := some (x.nextSlot, Tile.zero) }
          | some (id, _) =>
            let earlier := x.slots.takeWhile fun q => q.1 != id
            let (n, s1) := chooseBelow s 2
            if crosses s b p ∧ !x.slots.any (fun q => q.1 == id) then
              (if x.filled.contains id then
                finishRunning (modPassage s at_ p fun y => { y with filled := y.filled.filter (· != id) }) u .c k else s)
            else if n = 1 ∨ earlier.any (fun q => q.2.isNone) then s1
            else
              match passageRead s1 u c src ctl with
              | none => s1
              | some d =>
                let s2 := modPassage s1 at_ p fun x => { x with slots := x.slots.map fun q => if q.1 = id then (id, some d) else q }
                if crosses s b p then flushSlots b p c.tenant x.peer 17 s2 else finishRunning s2 u .c k
      | _ => s

/-- The number that a running PRECV keeps for a slot whose credit has gone back without it (R417). -/
def noSlot : Nat := 2 ^ 32

/-- PRECV_SLOT: at the head a PRECV takes the oldest full slot (R268-R270). -/
def execPrecvSlot (u : SuiteId) (s : State) : Host.Outcome State Fault Refusal :=
  .next <|
    match headOp s u .c with
    | some (.precv _ ctl) =>
      match popHead s u .c with
      | (none, s1) => s1
      | (some c, s1) =>
        let p := passageNo ctl
        let b := recvBoundary u
        if !passageOk s1 b p c.tenant then headTrap s1 u .c c cPASSERR
        else
          match (passage s1 b p).slots with
          | (id, some d) :: rest => startHead (modPassage s1 b p fun x => { x with slots := rest }) u .c { c with slot := some (id, d) }
          | _ => s1
    | _ => s

/-- A slot is empty: its credit goes back to the sender (R268). -/
def returnCredit (s : State) (b : Fin 5) (p : Fin 8) (t : TenantId) : State :=
  let s1 := modPassage s b p fun x => { x with used := x.used - 1 }
  let peer := (passage s1 b p).peer
  if b.val = 4 ∧ peer ≠ Config.pkgId.toNat then sendPacket s1 4 peer t (leBytes 1 t.val ++ leBytes 1 p.val) else s1

/-- PRECV_COMPLETION: the operand is written, the slot is empty and the credit returns; a write into a fed bank group traps BANKCF (R268,
R381). Resumed after its slot was discarded it takes the oldest full slot anew (R375, R426). -/
def execPrecvCompletion (u : SuiteId) (k : Nat) (s : State) : Host.Outcome State Fault Refusal :=
  .next <|
    match (s.suite u).crun[k]? with
    | none => s
    | some c =>
      match c.op, c.slot with
      | .precv _ ctl, none =>
        let p := passageNo ctl
        let b := recvBoundary u
        if (s.suite u).stopped ∨ c.trapLevel ≠ 0 ∨ c.status ≠ .running then s
        else if !passageOk s b p c.tenant then runTrap s u .c k cPASSERR
        else
          match (passage s b p).slots with
          | (id, some d) :: rest => modRun (modPassage s b p fun x => { x with slots := rest }) u k fun c => { c with slot := some (id, d) }
          | _ => s
      | .precv dst ctl, some (id, d) =>
        if (s.suite u).stopped ∨ c.trapLevel ≠ 0 ∨ c.status ≠ .running then s
        else
          let (n, s1) := chooseBelow s 2
          if n = 1 then s1
          else if !ctl.getLsbD 8 && touchesFed s1 u dst.toNat 32768 then runTrap s1 u .c k cBANKCF
          else
            let p := passageNo ctl
            let b := recvBoundary u
            let s2 := if ctl.getLsbD 8 then setTile s1 u (c.tile (dst.toNat % 64)) d else lsWrite s1 u dst.toNat (bytesOfTile d)
            finishRunning (if id = noSlot then s2 else returnCredit s2 b p c.tenant) u .c k
      | _, _ => s

/-! ### Collective semaphores (R276, R278) -/

/-- A post: past 63 the semaphore stays and its sat bit sets (R276). -/
def postCs (s : State) (t : TenantId) (n : Fin 16) : State :=
  s.modTenant t fun x =>
    if x.cs.get n = 63 then { x with csSat := x.csSat ||| (1 <<< n.val) } else { x with cs := x.cs.set n.val (x.cs.get n + 1) n.isLt }
/-- A count is taken. -/
def takeCs (s : State) (t : TenantId) (n : Fin 16) : State :=
  s.modTenant t fun x => { x with cs := x.cs.set n.val (x.cs.get n - 1) n.isLt }

/-- COLLW (R278). The manual gives a post no Suite and no agent code: the setter of its wait record is a free value (DESIGN CHOICE, log 25). -/
def execCollw (s1 : BitVec 5) (dn : BitVec 4) (w : BitVec 4) (s : State) : Host.Outcome State Fault Refusal :=
  issue (.collw s1 dn w) w (fun s ag =>
    let a := readA s ag s1
    let n : Fin 16 := ⟨a.toNat % 16, by omega⟩
    let t := tenantOf s ag.bank
    let trap := if a.toNat / 16 ≠ 0 then some (cILLFLD, (0 : Word)) else none
    { hold := if trap.isNone && (s.tenant t).cs.get n == 0 then some holdFlagOnly else none
      trap := trap
      wait := (n.val, (Config.freeByte s.cycle 5 n.val).toNat + 256 * (Config.freeByte s.cycle 6 n.val).toNat, 4)
      act := fun x => doneFor (takeCs x t n) ag.bank ag.kind dn }) s

/-! ### Schedule records (R272) -/

/-- Operations of a step; 4 to 6 are the engine's own of R275: +0, mv(acc(src)) + blk(dst), and acc(src) + blk(src) sent once. -/
def opSet : Nat := 0
def opAdd : Nat := 1
def opAddT : Nat := 2
def opPut : Nat := 3
def opZero : Nat := 4
def opScan : Nat := 5
def opSum : Nat := 6

/-- Whether a header of 64 bytes keeps R272, its steps apart; `dual` is the Visit's. -/
def recordOk (x : Suite) (dual : Bool) (h : List Byte) : Bool :=
  let f := fieldAt h
  let scope := f 0 1
  let limit := if scope = 1 then 16 else if scope = 2 then 64 else 512
  let rows := f 0xc 2
  let cols := f 0xe 2
  decide (1 ≤ scope) && decide (scope ≤ 3) && (if f 1 1 = 0 then decide (f 2 1 ≤ 1) else f 1 1 == 7 && f 2 1 == 7)
    && decide (f 3 1 < if dual then 16 else 32) && decide (1 ≤ f 4 2) && decide (f 4 2 ≤ limit) && decide (f 6 2 ≤ 1024)
    && decide (f 0x12 1 ≤ 2) && ((f 6 2 == 0) == (f 0x12 1 != 0)) && f 8 4 % 256 == 0 && decide (1 ≤ rows) && decide (rows ≤ 128)
    && decide (1 ≤ cols) && decide (cols ≤ 128) && inScratch x (f 8 4) (512 * (rows - 1) + 4 * cols)
    && decide (f 0x10 1 < 32) && decide (f 0x11 1 < 32) && (h.drop 0x13).all (· == 0)

/-- Whether a step record keeps R272. -/
def stepOk (h st : List Byte) : Bool :=
  let f := fieldAt st
  st.length == 16 && decide (f 0 1 ≤ 3) && f 1 1 == 0 && f 6 2 == 0 && f 0xc 4 == 0 && decide (f 2 2 < fieldAt h 4 2)
    && decide (f 4 2 < fieldAt h 4 2) && (f 0 1 != opAddT || f 2 2 != f 4 2) && (fieldAt h 0 1 == 3 || f 8 4 == 0)

/-- The steps of an instance: those of the record, or the stated order of a scan (R275). -/
def stepsOf (h : List Byte) (recs : List (List Byte)) : List (Nat × Nat × Nat × Nat) :=
  let n := fieldAt h 4 2
  let puts := (List.range n).map fun r => (opPut, r, r, 0)
  match fieldAt h 0x12 1 with
  | 0 => recs.map fun st => (fieldAt st 0 1, fieldAt st 2 2, fieldAt st 4 2, fieldAt st 8 4)
  | 1 => (List.range n).map (fun r => if r = 0 then (opSet, 0, 0, 0) else (opScan, r - 1, r, 0)) ++ puts
  | _ => (List.range n).map (fun r => if r = 0 then (opZero, 0, 0, 0) else (opSum, r - 1, r, 0)) ++ puts

/-- A new instance of a record. -/
def newInst (t : TenantId) (seg offset inst : Nat) (h : List Byte) (recs : List (List Byte)) : CollInst :=
  { tenant := t, imageSeg := seg, offset := offset, inst := inst, scope := fieldAt h 0 1, int := fieldAt h 1 1 == 7,
    wire := if fieldAt h 2 1 = 1 then .bf16 else if fieldAt h 2 1 = 7 then .i32 else .fp32, acck := fieldAt h 3 1, nrank := fieldAt h 4 2,
    lsAddr := fieldAt h 8 4, rows := fieldAt h 0xc 2, cols := fieldAt h 0xe 2,
    post := if (fieldAt h 0x11 1).testBit 4 then some (fieldAt h 0x11 1 % 16) else none, kind := fieldAt h 0x12 1, steps := stepsOf h recs,
    ranks := [], remote := [], lastAt := 0, words := [], doneSteps := [], progress := [], t0 := none, abandoned := false, closed := false }

/-- The 64 bytes of a record and its step records; none where they cannot be read or break R272. The reads wait as any other (R247). -/
def readRecord (s : State) (u : SuiteId) (dual : Bool) (t : TenantId) (seg offset : Nat) : Mres (Option (List Byte × List (List Byte))) × State :=
  let va := seg * 2 ^ 36 + offset
  match loadVa s t va 64 with
  | (.ok h, s1) =>
    if !recordOk (s.suite u) dual h then (.ok none, s1)
    else
      match loadVa s1 t (va + 64) (16 * fieldAt h 6 2) with
      | (.ok b, s2) =>
        let recs := (List.range (fieldAt h 6 2)).map fun i => bytesAt b (16 * i) 16
        (.ok (if recs.all (stepOk h) then some (h, recs) else none), s2)
      | (.fault _, s2) => (.ok none, s2)
      | (.wait, s2) => (.wait, s2)
  | (.fault _, s1) => (.ok none, s1)
  | (.wait, s1) => (.wait, s1)

/-! ### COLL (R277) -/

/-- The image segment of an agent's code. -/
def imageSegOf (s : State) (r : BankRef) : Nat := match imageOf s r with | some im => im.seg | none => 0

/-- COLL (R277). -/
def execColl (s1 s2 : BitVec 5) (tok : Tok) (dn : BitVec 4) (w : BitVec 4) (s : State) : Host.Outcome State Fault Refusal :=
  issue (.coll s1 s2 tok dn w) w (fun s ag =>
    let off := (readA s ag s1).toNat
    let rank := (readA s ag s2).toNat
    let size := match (getDesc s (tenantOf s ag.bank) (imageSegOf s ag.bank)).1 with
      | some d => bytesOf d.fmt (d.dims.foldl (· * ·) 1)
      | none => 0
    planAccept .c (.coll off (rank % 65536) none) tok dn none
      (if off % 64 ≠ 0 then some (cMISALIGN, 0) else if size ≤ off then some (cPROT, 0) else if rank / 65536 ≠ 0 then some (cILLFLD, 0) else none)
      1 s ag) s

/-- COLLs of a Suite that have named a record. -/
def collCountOf (s : State) (t : TenantId) (seg off : Nat) (u : SuiteId) : Nat :=
  match s.pkg.collCount.find? fun (a, b, c, d, _) => a == t.val && b == seg && c == off && d == u.val with
  | some (_, _, _, _, n) => n
  | none => 0
def bumpCollCount (s : State) (t : TenantId) (seg off : Nat) (u : SuiteId) : State :=
  let n := collCountOf s t seg off u
  let others := s.pkg.collCount.filter fun (a, b, c, d, _) => !(a == t.val && b == seg && c == off && d == u.val)
  s.modPkg fun p => { p with collCount := (t.val, seg, off, u.val, n + 1) :: others }

def modInst (s : State) (i : Nat) (f : CollInst → CollInst) : State := s.modPkg fun p => { p with colls := p.colls.modify i f }

/-- The running COLL of a Suite at an instance. -/
def collCmd (s : State) (u : SuiteId) (i : Nat) : Option Nat :=
  findRunning s u .c fun c => match c.op with | .coll _ _ (some j) => j == i | _ => false

/-- How a packet names an instance: its tenant, its image segment, its record and its number (R271). -/
def instName (x : CollInst) : List Byte := leBytes 1 x.tenant.val ++ leBytes 2 x.imageSeg ++ leBytes 4 x.offset ++ leBytes 4 x.inst

/-- The other packages learn that a fabric instance is abandoned. -/
def sendAbandon (s : State) (x : CollInst) : State :=
  sendPacket s 8 0xffff x.tenant (instName x)

/-- COLL_ABANDON: every COLL that has arrived traps COLLERR, and other packages learn of it (R277, R437). -/
def abandonInst (s : State) (i : Nat) : State :=
  match s.pkg.colls[i]? with
  | none => s
  | some x =>
    if x.abandoned then s
    else
      let s1 := modInst s i fun y => { y with abandoned := true }
      let s2 := if x.scope = 3 then sendAbandon s1 x else s1
      x.ranks.foldl (fun s (_, u) => match collCmd s u i with | some k => runTrap s u .c k cCOLLERR | none => s) s2

/-- Once every rank has arrived T0 is fixed: at scope fabric the time base of the last arrival, in whichever package, rounded up to a multiple of 1,024
(R274). -/
def fixT0 (s : State) (i : Nat) : State :=
  modInst s i fun x =>
    if x.t0.isNone ∧ 0 < x.nrank ∧ x.nrank ≤ x.ranks.length + x.remote.length then
      { x with t0 := some (if x.scope = 3 then (x.lastAt.toNat + 1023) / 1024 * 1024 else 0) }
    else x

/-- The instance that the next COLL of a Suite joins: found, or made from the record and from ranks of other packages that came first. -/
def joinInst (s : State) (t : TenantId) (seg off : Nat) (u : SuiteId) (rec : Option (List Byte × List (List Byte))) : Nat × State :=
  let k := collCountOf s t seg off u
  let s1 := bumpCollCount s t seg off u
  match s1.pkg.colls.findIdx? fun x => x.tenant == t && x.imageSeg == seg && x.offset == off && x.inst == k && x.nrank != 0 with
  | some i => (i, s1)
  | none =>
    let (h, recs) := rec.getD ([], [])
    let x := newInst t seg off k h recs
    let early := if x.scope = 3 then s1.pkg.colls.findIdx? fun y => y.tenant == t && y.imageSeg == seg && y.offset == off && y.inst == k && y.nrank == 0 else none
    match early with
    | some i =>
      (i, modInst s1 i fun y => { x with nrank := max x.nrank 1, remote := y.remote, lastAt := y.lastAt, words := y.words,
                                               doneSteps := y.doneSteps, abandoned := y.abandoned })
    | none => (s1.pkg.colls.length, s1.modPkg fun p => { p with colls := p.colls ++ [{ x with nrank := max x.nrank 1 }] })

/-- Whether an arrival breaks R271 or R277. -/
def arrivalBad (x : CollInst) (u : SuiteId) (rank : Nat) : Bool :=
  x.abandoned || x.closed || decide (x.nrank ≤ rank) || x.ranks.any (fun p => p.1 == rank) || x.remote.any (fun p => p.1 == rank)
    || (x.scope == 1 && x.ranks.any fun p => dieOf p.2 != dieOf u) || (x.scope == 3 && !x.ranks.isEmpty)

/-- A COLL whose record has been read takes its semaphore, once it is non-zero, leaves the head, and its rank arrives (R277). -/
def arriveColl (s : State) (u : SuiteId) (c : Cmd) (seg off rank : Nat) (rec_ : Option (List Byte × List (List Byte))) : State :=
  let wcs := match rec_ with | some (h, _) => fieldAt h 0x10 1 | none => 0
  let n : Fin 16 := ⟨wcs % 16, by omega⟩
  if wcs.testBit 4 ∧ (s.tenant c.tenant).cs.get n = 0 then s
  else
    let s2 := if wcs.testBit 4 then takeCs s c.tenant n else s
    let (i, s3) := joinInst s2 c.tenant seg off u rec_
    let s4 := startHead s3 u .c { c with op := .coll off rank (some i) }
    match s4.pkg.colls[i]? with
    | none => s4
    | some x =>
      if rec_.isNone ∨ arrivalBad x u rank then
        let s5 := abandonInst s4 i
        match collCmd s5 u i with
        | some k => if ((s5.suite u).crun[k]?.map (·.trapLevel)) = some 0 then runTrap s5 u .c k cCOLLERR else s5
        | none => s5
      else
        let s5 := modInst s4 i fun y => { y with ranks := y.ranks ++ [(rank, u)], lastAt := if y.lastAt.toNat < s.fabric.toNat then s.fabric else y.lastAt }
        fixT0 (if x.scope = 3 then sendPacket s5 6 0xffff c.tenant (instName x ++ leBytes 2 rank ++ leBytes 8 s.fabric.toNat) else s5) i

/-- COLL_ARRIVAL: the head takes its pops and its semaphore, leaves, and its rank arrives (R277). Local Store accesses perform at issue, so none
of the stream is outstanding. -/
def execCollArrival (u : SuiteId) (s : State) : Host.Outcome State Fault Refusal :=
  .next <|
    match headOp s u .c with
    | some (.coll off rank _) =>
      match popHead s u .c with
      | (none, s1) => s1
      | (some c, s1) =>
        let seg := imageSegOf s1 (.bank u c.bank)
        match readRecord s1 u c.dual c.tenant seg off with
        | (.ok rec_, s2) => arriveColl s2 u c seg off rank rec_
        | (_, s2) => s2
    | _ => s

/-! ### Steps (R273-R275) -/

/-- The locations that a step reads or writes: accumulator windows and Local Store blocks by rank. -/
def stepLocs (st : Nat × Nat × Nat × Nat) : List (Bool × Nat) :=
  let (op, src, dst, _) := st
  match op with
  | 0 | 1 => [(false, src), (true, dst)]
  | 2 => [(true, src), (true, dst)]
  | 3 => [(true, src), (false, dst)]
  | 4 => [(true, dst)]
  | 5 => [(true, src), (false, dst), (true, dst)]
  | _ => [(true, src), (false, src), (true, dst)]

/-- Whether step n may run: every earlier step on one of its locations has completed, and its time has come (R274). -/
def stepReady (s : State) (x : CollInst) (n : Nat) : Bool :=
  match x.steps[n]?, x.t0 with
  | some st, some t0 =>
    let (_, _, _, time) := st
    !x.doneSteps.contains n && decide (x.scope ≠ 3 ∨ t0 + time ≤ s.fabric.toNat) &&
      (List.range n).all fun m => x.doneSteps.contains m ||
        (match x.steps[m]? with | some e => !(stepLocs e).any (stepLocs st).contains | none => true)
  | _, _ => false

/-- The Suite of a local rank. -/
def rankSuite (x : CollInst) (r : Nat) : Option SuiteId := (x.ranks.find? fun p => p.1 == r).map (·.2)

/-- The physical accumulator tile of a rank (R32). -/
def rankTile (s : State) (x : CollInst) (i : Nat) (u : SuiteId) : Fin 32 :=
  match collCmd s u i with
  | some k => match (s.suite u).crun[k]? with | some c => c.accTile x.acck | none => ⟨x.acck % 32, by omega⟩
  | none => ⟨x.acck % 32, by omega⟩

/-- rne32(a + b), or wrap32 for INT32. -/
def collSum (int : Bool) (a b : W32) : W32 := if int then a + b else rne32 (addV false (dec32 a) (dec32 b)).1
/-- A word moved between ranks: converted to the wire format and widened (R273). -/
def moveWord (x : CollInst) (v : W32) : W32 :=
  if x.int then v else BitVec.ofNat 32 (cvt (dec (cvt (dec32 v) x.wire 0 false).1 x.wire) .fp32 0 false).1

/-- A word of blk(r) and of acc(r), row y and column c. -/
def blkWord (s : State) (x : CollInst) (u : SuiteId) (y c : Nat) : W32 := BitVec.ofNat 32 (leNat (lsRead s u (x.lsAddr + 512 * y + 4 * c) 4))
def accWordOf (s : State) (u : SuiteId) (k : Fin 32) (y c : Nat) : W32 × State := accRead s u k ⟨y % 128, by omega⟩ ⟨c % 128, by omega⟩

/-- What a local source rank contributes to one word; the conversion of a moved word apart. -/
def srcWord (s : State) (x : CollInst) (i op : Nat) (u : SuiteId) (y c : Nat) : W32 × State :=
  match op with
  | 0 | 1 => (blkWord s x u y c, s)
  | 4 => (0, s)
  | 6 => let (a, s1) := accWordOf s u (rankTile s x i u) y c; (collSum x.int a (blkWord s1 x u y c), s1)
  | _ => accWordOf s u (rankTile s x i u) y c

/-- One row as the source sends it. -/
def srcRow (s : State) (x : CollInst) (i op : Nat) (moved : Bool) (u : SuiteId) (y : Nat) : List W32 × State :=
  (List.range x.cols).foldl (fun (p : List W32 × State) c =>
    let (v, s1) := srcWord p.2 x i op u y c
    (p.1 ++ [if moved then moveWord x v else v], s1)) ([], s)

/-- Whether a part that a step touches stands still (R4, R288). -/
def partStopped (s : State) (u : SuiteId) : Bool := (s.suite u).stopped || (s.room u).stopped || paused s u

/-- How far a started step has come. -/
def progressOf (x : CollInst) (n : Nat) : Nat × Option (Nat × Nat) :=
  match x.progress.find? fun p => p.1 == n with | some (_, r, h) => (r, h) | none => (0, none)
def setProgress (s : State) (i n rows : Nat) (hold : Option (Nat × Nat)) : State :=
  modInst s i fun x => { x with progress := (n, rows, hold) :: x.progress.filter fun p => p.1 != n }

/-- A step has completed; the ranks of other packages learn of it. -/
def finishStep (s : State) (i n : Nat) : State :=
  let s1 := modInst s i fun x => { x with doneSteps := x.doneSteps ++ [n] }
  match s1.pkg.colls[i]? with
  | some x => if x.remote.isEmpty then s1 else sendPacket s1 7 0xffff x.tenant (instName x ++ leBytes 4 n)
  | none => s1

/-- A row that the source gives: read from a local rank, or from the words that a packet brought. -/
def stepRow (s : State) (x : CollInst) (i n op src dst y : Nat) : Option (List W32 × State) :=
  match rankSuite x src with
  | some u => if partStopped s u then none else some (srcRow s x i op (src != dst) u y)
  | none => match x.words.find? fun p => p.1 == n with
    | some (_, ws) => some ((ws.drop (y * x.cols)).take x.cols, s)
    | none => none

/-- After a row: the next, or the end of the step. -/
def rowDone (s : State) (x : CollInst) (i n y : Nat) : State :=
  let s1 := setProgress s i n (y + 1) none
  if x.rows ≤ y + 1 then finishStep s1 i n else s1

/-- A row into a local accumulator window, in a copy slot of its bank (R205, R273, R382). In which slot the first row lands is free; replay forces each
row's cycle (R337). -/
def landRow (s : State) (x : CollInst) (i n op src dst : Nat) (u : SuiteId) (y : Nat) (hold : Option (Nat × Nat)) : State :=
  match collCmd s u i with
  | none => s
  | some kk =>
    match (s.suite u).crun[kk]? with
    | none => s
    | some c =>
      let k := c.accTile x.acck
      let bank := k.val % 8
      if rcycOf s u % 8 ≠ bank ∨ (s.room u).stopped ∨ paused s u ∨ (s.room u).portRows.contains bank ∨ (hold.isSome ∧ c.trapLevel ≠ 0)
          ∨ unitDrains s u hold bank then s
      else
        let (w, s1) := if y = 0 ∧ ologMode s x.tenant ≠ 2 then chooseBelow s 2 else (0, s)
        if w = 1 then s1
        else
          match stepRow s1 x i n op src dst y with
          | none => s1
          | some (words, s2) =>
            match portClash s2 u bank with
            | some tile =>
              let (h, s3) := haltSched s2 u tile (if c.discard then [] else [(u, c.bank, trapDepth s2 u c.bank)])
              runTrap (setProgress s3 i n y h) u .c kk cSCHEDV
            | none =>
              match accLogged s2 x.tenant u 3 c.bank.val k.val y 0 with
              | (false, s3) => s3
              | (true, s3) =>
                let r : Fin 128 := ⟨y % 128, by omega⟩
                let put := fun (s : State) (p : W32 × Nat) =>
                  let col : Fin 128 := ⟨p.2 % 128, by omega⟩
                  let v := if op = opScan then collSum x.int p.1 (blkWord s x u y p.2) else p.1
                  accPutWord s u k r col (op == opAdd || op == opAddT) x.int v
                rowDone (words.zipIdx.foldl put (takePort s3 u k)) x i n y

/-- A row of PUT into a local block. -/
def putRow (s : State) (x : CollInst) (i n src dst : Nat) (u : SuiteId) (y : Nat) : State :=
  if partStopped s u then s
  else
    match stepRow s x i n opPut src dst y with
    | none => s
    | some (words, s1) => rowDone (lsWrite s1 u (x.lsAddr + 512 * y) (words.flatMap fun w => leBytes 4 w.toNat)) x i n y

/-- A step moves on: a row at its local destination, or its words to another package. -/
def runStep (s : State) (i n : Nat) : State :=
  match s.pkg.colls[i]? with
  | none => s
  | some x =>
    match x.steps[n]? with
    | none => s
    | some (op, src, dst, _) =>
      let (y, hold) := progressOf x n
      match rankSuite x dst with
      | some u => if op = opPut then putRow s x i n src dst u y else landRow s x i n op src dst u y hold
      | none =>
        match rankSuite x src with
        | some u =>
          if y ≠ 0 ∨ partStopped s u then s
          else
            let (ws, s1) := (List.range x.rows).foldl (fun (p : List W32 × State) y =>
              let (l, s1) := srcRow p.2 x i op true u y; (p.1 ++ l, s1)) (([] : List W32), s)
            sendPacket (setProgress s1 i n 1 none) 7 0xffff x.tenant (instName x ++ leBytes 4 n ++ ws.flatMap fun w => leBytes 4 w.toNat)
        | none => s

/-- Whether an instance runs: every rank has arrived and the instance before it has ended (R274, R271). -/
def instRuns (s : State) (x : CollInst) : Bool :=
  !x.abandoned && !x.closed && x.t0.isSome &&
    s.pkg.colls.all fun y => !(y.tenant == x.tenant && y.imageSeg == x.imageSeg && y.offset == x.offset && decide (y.inst < x.inst))
      || y.abandoned || y.closed

/-- COLL_STEP: every step that may run in this cycle moves on (R273-R275, R205). -/
def execCollStep (inst : Nat) (s : State) : Host.Outcome State Fault Refusal :=
  .next <|
    match s.pkg.colls[inst]? with
    | none => s
    | some x =>
      if !instRuns s x then s
      else ((List.range x.steps.length).filter (stepReady s x)).foldl (fun s n => runStep s inst n) s

/-- COLL_INSTANCE_COMPLETION: every step has completed: the semaphore is posted and every COLL completes, one on a Suite whose core stands still once it
goes on (R4, R288). A COLL of an abandoned instance
completes once its trap is answered by a resume (R274, R277, R437). -/
def execCollInstanceCompletion (inst : Nat) (s : State) : Host.Outcome State Fault Refusal :=
  .next <|
    match s.pkg.colls[inst]? with
    | none => s
    | some x =>
      let finish := fun (s : State) (u : SuiteId) =>
        match collCmd s u inst with
        | some k =>
          if paused s u = false ∧ (s.suite u).stopped = false ∧ ((s.suite u).crun[k]?.map fun c => (c.trapLevel, c.status)) = some (0, .running) then finishRunning s u .c k else s
        | none => s
      if x.abandoned ∨ x.closed then (List.finRange 64).foldl finish s
      else if !instRuns s x ∨ x.doneSteps.length < x.steps.length then s
      else
        let s1 := modInst s inst fun y => { y with closed := true }
        let s2 := match x.post with | some n => postCs s1 x.tenant ⟨n % 16, by omega⟩ | none => s1
        x.ranks.foldl (fun s p => finish s p.2) s2

end Sys2Proof.Machine
end

