-- ==== Sys2Proof/Machine/Integer.lean ====
section
/-! DEFINITION. The integer and immediate instructions and the divides: spec/06_access_instructions.md R128-R131. -/

namespace Sys2Proof.Machine

/-- An integer instruction of two register sources. -/
def planRR (cls : Nat) (d a b : BitVec 5) (f : Word → Word → Word) (s : State) (ag : Agent) : Plan :=
  { act := fun t => emit t ag cls [.a d (f (readA s ag a) (readA s ag b))] }

/-- An integer instruction of one register and the sign-extended immediate (R130). -/
def planRI (d a : BitVec 5) (imm : BitVec 11) (f : Word → Word → Word) (s : State) (ag : Agent) : Plan :=
  { act := fun t => emit t ag 0 [.a d (f (readA s ag a) (sext imm))] }

/-- High 64 bits of the signed product (R128). -/
def mulHigh (x y : Word) : Word := BitVec.ofInt 64 (x.toInt * y.toInt / 2 ^ 64)
/-- Number of leading zero bits (R128). -/
def clzWord (x : Word) : Word := BitVec.ofNat 64 (64 - bitLen x.toNat)
/-- Number of one bits (R128). -/
def popWord (x : Word) : Word := BitVec.ofNat 64 ((List.range 64).countP fun i => x.getLsbD i)
/-- 1 or 0. -/
def boolWord (b : Bool) : Word := if b then 1 else 0

/-- The results of R129. -/
def divSigned (x y : Word) : Word := if y = 0 then -1 else x.sdiv y
def remSigned (x y : Word) : Word := if y = 0 then x else x.srem y
def divUnsigned (x y : Word) : Word := if y = 0 then -1 else x.udiv y
def remUnsigned (x y : Word) : Word := if y = 0 then x else x.umod y

/-- Cycles from the issue of a divide to its completion: 4 to 20, a function of the operation and its operand values alone (R129). -/
def divCycles (op : Nat) (x y : Word) : Nat := 4 + Config.divDelay op x y % 17

/-- A divide goes under way with its result; it is written at its completion (R129). -/
def planDiv (op : Nat) (d a b : BitVec 5) (dn : BitVec 4) (f : Word → Word → Word) (s : State) (ag : Agent) : Plan :=
  let x := readA s ag a
  let y := readA s ag b
  { act := fun t => t.modBank ag.bank fun k => { k with divs := k.divs ++ [⟨ag.kind, d, f x y, dn, divCycles op x y, s.cycle⟩] } }

/-- ADD (R128). -/
def execAdd (d s1 s2 : BitVec 5) (w : BitVec 4) (s : State) : Host.Outcome State Fault Refusal :=
  issue (.add d s1 s2 w) w (planRR 0 d s1 s2 fun x y => x + y) s

/-- SUB (R128). -/
def execSub (d s1 s2 : BitVec 5) (w : BitVec 4) (s : State) : Host.Outcome State Fault Refusal :=
  issue (.sub d s1 s2 w) w (planRR 0 d s1 s2 fun x y => x - y) s

/-- MUL (R128). -/
def execMul (d s1 s2 : BitVec 5) (w : BitVec 4) (s : State) : Host.Outcome State Fault Refusal :=
  issue (.mul d s1 s2 w) w (planRR 1 d s1 s2 fun x y => x * y) s

/-- MULH (R128). -/
def execMulh (d s1 s2 : BitVec 5) (w : BitVec 4) (s : State) : Host.Outcome State Fault Refusal :=
  issue (.mulh d s1 s2 w) w (planRR 1 d s1 s2 fun x y => mulHigh x y) s

/-- AND (R128). -/
def execAnd (d s1 s2 : BitVec 5) (w : BitVec 4) (s : State) : Host.Outcome State Fault Refusal :=
  issue (.and d s1 s2 w) w (planRR 0 d s1 s2 fun x y => x &&& y) s

/-- OR (R128). -/
def execOr (d s1 s2 : BitVec 5) (w : BitVec 4) (s : State) : Host.Outcome State Fault Refusal :=
  issue (.or d s1 s2 w) w (planRR 0 d s1 s2 fun x y => x ||| y) s

/-- XOR (R128). -/
def execXor (d s1 s2 : BitVec 5) (w : BitVec 4) (s : State) : Host.Outcome State Fault Refusal :=
  issue (.xor d s1 s2 w) w (planRR 0 d s1 s2 fun x y => x ^^^ y) s

/-- SHL (R128). -/
def execShl (d s1 s2 : BitVec 5) (w : BitVec 4) (s : State) : Host.Outcome State Fault Refusal :=
  issue (.shl d s1 s2 w) w (planRR 0 d s1 s2 fun x y => x <<< (y.toNat % 64)) s

/-- SHR (R128). -/
def execShr (d s1 s2 : BitVec 5) (w : BitVec 4) (s : State) : Host.Outcome State Fault Refusal :=
  issue (.shr d s1 s2 w) w (planRR 0 d s1 s2 fun x y => x >>> (y.toNat % 64)) s

/-- SRA (R128). -/
def execSra (d s1 s2 : BitVec 5) (w : BitVec 4) (s : State) : Host.Outcome State Fault Refusal :=
  issue (.sra d s1 s2 w) w (planRR 0 d s1 s2 fun x y => x.sshiftRight (y.toNat % 64)) s

/-- MIN (R128). -/
def execMin (d s1 s2 : BitVec 5) (w : BitVec 4) (s : State) : Host.Outcome State Fault Refusal :=
  issue (.min d s1 s2 w) w (planRR 0 d s1 s2 fun x y => if x.slt y then x else y) s

/-- MAX (R128). -/
def execMax (d s1 s2 : BitVec 5) (w : BitVec 4) (s : State) : Host.Outcome State Fault Refusal :=
  issue (.max d s1 s2 w) w (planRR 0 d s1 s2 fun x y => if x.slt y then y else x) s

/-- MINU (R128). -/
def execMinu (d s1 s2 : BitVec 5) (w : BitVec 4) (s : State) : Host.Outcome State Fault Refusal :=
  issue (.minu d s1 s2 w) w (planRR 0 d s1 s2 fun x y => if x.ult y then x else y) s

/-- MAXU (R128). -/
def execMaxu (d s1 s2 : BitVec 5) (w : BitVec 4) (s : State) : Host.Outcome State Fault Refusal :=
  issue (.maxu d s1 s2 w) w (planRR 0 d s1 s2 fun x y => if x.ult y then y else x) s

/-- SLT (R128). -/
def execSlt (d s1 s2 : BitVec 5) (w : BitVec 4) (s : State) : Host.Outcome State Fault Refusal :=
  issue (.slt d s1 s2 w) w (planRR 0 d s1 s2 fun x y => boolWord (x.slt y)) s

/-- SLTU (R128). -/
def execSltu (d s1 s2 : BitVec 5) (w : BitVec 4) (s : State) : Host.Outcome State Fault Refusal :=
  issue (.sltu d s1 s2 w) w (planRR 0 d s1 s2 fun x y => boolWord (x.ult y)) s

/-- SEL reads a[d] as its condition (R128). -/
def execSel (d s1 s2 : BitVec 5) (w : BitVec 4) (s : State) : Host.Outcome State Fault Refusal :=
  issue (.sel d s1 s2 w) w (fun s ag => planRR 0 d s1 s2 (fun x y => if readA s ag d ≠ 0 then x else y) s ag) s

/-- CLZ (R128). -/
def execClz (d s1 : BitVec 5) (w : BitVec 4) (s : State) : Host.Outcome State Fault Refusal :=
  issue (.clz d s1 w) w (planRR 0 d s1 0 fun x _ => clzWord x) s

/-- POPC (R128). -/
def execPopc (d s1 : BitVec 5) (w : BitVec 4) (s : State) : Host.Outcome State Fault Refusal :=
  issue (.popc d s1 w) w (planRR 0 d s1 0 fun x _ => popWord x) s

/-- DIV (R129). -/
def execDiv (d s1 s2 : BitVec 5) (dn : BitVec 4) (w : BitVec 4) (s : State) : Host.Outcome State Fault Refusal :=
  issue (.div d s1 s2 dn w) w (planDiv 0 d s1 s2 dn divSigned) s

/-- DIVU (R129). -/
def execDivu (d s1 s2 : BitVec 5) (dn : BitVec 4) (w : BitVec 4) (s : State) : Host.Outcome State Fault Refusal :=
  issue (.divu d s1 s2 dn w) w (planDiv 1 d s1 s2 dn divUnsigned) s

/-- REM (R129). -/
def execRem (d s1 s2 : BitVec 5) (dn : BitVec 4) (w : BitVec 4) (s : State) : Host.Outcome State Fault Refusal :=
  issue (.rem d s1 s2 dn w) w (planDiv 2 d s1 s2 dn remSigned) s

/-- REMU (R129). -/
def execRemu (d s1 s2 : BitVec 5) (dn : BitVec 4) (w : BitVec 4) (s : State) : Host.Outcome State Fault Refusal :=
  issue (.remu d s1 s2 dn w) w (planDiv 3 d s1 s2 dn remUnsigned) s

/-- ADDI (R130). -/
def execAddi (d s1 : BitVec 5) (imm : BitVec 11) (w : BitVec 4) (s : State) : Host.Outcome State Fault Refusal :=
  issue (.addi d s1 imm w) w (planRI d s1 imm fun x y => x + y) s

/-- ANDI (R130). -/
def execAndi (d s1 : BitVec 5) (imm : BitVec 11) (w : BitVec 4) (s : State) : Host.Outcome State Fault Refusal :=
  issue (.andi d s1 imm w) w (planRI d s1 imm fun x y => x &&& y) s

/-- ORI (R130). -/
def execOri (d s1 : BitVec 5) (imm : BitVec 11) (w : BitVec 4) (s : State) : Host.Outcome State Fault Refusal :=
  issue (.ori d s1 imm w) w (planRI d s1 imm fun x y => x ||| y) s

/-- XORI (R130). -/
def execXori (d s1 : BitVec 5) (imm : BitVec 11) (w : BitVec 4) (s : State) : Host.Outcome State Fault Refusal :=
  issue (.xori d s1 imm w) w (planRI d s1 imm fun x y => x ^^^ y) s

/-- SHLI (R130). -/
def execShli (d s1 : BitVec 5) (imm : BitVec 11) (w : BitVec 4) (s : State) : Host.Outcome State Fault Refusal :=
  issue (.shli d s1 imm w) w (planRI d s1 imm fun x y => x <<< (y.toNat % 64)) s

/-- SHRI (R130). -/
def execShri (d s1 : BitVec 5) (imm : BitVec 11) (w : BitVec 4) (s : State) : Host.Outcome State Fault Refusal :=
  issue (.shri d s1 imm w) w (planRI d s1 imm fun x y => x >>> (y.toNat % 64)) s

/-- SRAI (R130). -/
def execSrai (d s1 : BitVec 5) (imm : BitVec 11) (w : BitVec 4) (s : State) : Host.Outcome State Fault Refusal :=
  issue (.srai d s1 imm w) w (planRI d s1 imm fun x y => x.sshiftRight (y.toNat % 64)) s

/-- SLTI (R130). -/
def execSlti (d s1 : BitVec 5) (imm : BitVec 11) (w : BitVec 4) (s : State) : Host.Outcome State Fault Refusal :=
  issue (.slti d s1 imm w) w (planRI d s1 imm fun x y => boolWord (x.slt y)) s

/-- LUI (R131). -/
def execLui (d : BitVec 5) (imm : BitVec 16) (w : BitVec 4) (s : State) : Host.Outcome State Fault Refusal :=
  issue (.lui d imm w) w (fun _ ag => { act := fun t => emit t ag 0 [.a d (sext imm <<< 16)] }) s

/-- LIX, two words (R131). -/
def execLix (d : BitVec 5) (imm : BitVec 32) (w : BitVec 4) (s : State) : Host.Outcome State Fault Refusal :=
  issue (.lix d imm w) w (fun _ ag => { words := 2, act := fun t => emit t ag 0 [.a d (sext imm)] }) s

/-- DIVIDE_COMPLETION: the k-th divide under way writes a[d] at the end of its completion cycle and increments its done semaphore (R129, R48). -/
def execDivideCompletion (b : BankRef) (k : Nat) (s : State) : Host.Outcome State Fault Refusal :=
  .next <|
    match (s.bank b).divs[k]? with
    | none => s
    | some v =>
      if v.left ≠ 0 then s
      else
        let s1 := s.modBank b fun x => { x with divs := x.divs.eraseIdx k }
        doneFor (landLater s1 b v.kind [.a v.d v.value] v.born) b v.kind v.dn

end Sys2Proof.Machine
end

