-- ==== Sys2Proof/Machine/Control.lean ====
section
/-! DEFINITION. Control flow, hardware loops, the control queue, END and NOP of both streams, BRK: spec/06_access_instructions.md R132-R138,
spec/07_execute_instructions.md R189-R190, R192. -/

namespace Sys2Proof.Machine

/-- The conditions of R133. -/
def condHolds (cond : BitVec 3) (x y : Word) : Bool :=
  match cond.toNat with
  | 0 => x == y
  | 1 => x != y
  | 2 => x.slt y
  | 3 => !x.slt y
  | 4 => x.ult y
  | 5 => !x.ult y
  | 6 => x == 0
  | _ => x != 0

/-- The LINKERR of a transfer to a position (R119, R127, R357). -/
def transferTrap (s : State) (ag : Agent) (p : Nat) : Option (BitVec 8 × Word) :=
  if targetBad s ag p then some (cLINKERR, BitVec.ofNat 64 (p / 16)) else none

/-- A two-slot branch: it transfers when its condition holds, and only then checks its target (R133, R367). -/
def planBranch (taken : Bool) (target : BitVec 28) (s : State) (ag : Agent) : Plan :=
  if taken then { words := 2, trap := transferTrap s ag target.toNat, jump := some target.toNat } else { words := 2 }

/-- BR (R133). -/
def execBr (cond : BitVec 3) (s1 s2 : BitVec 5) (target : BitVec 28) (w : BitVec 4) (s : State) : Host.Outcome State Fault Refusal :=
  issue (.br cond s1 s2 target w) w (fun s ag => planBranch (condHolds cond (readA s ag s1) (readA s ag s2)) target s ag) s

/-- JMP (R134). -/
def execJmp (target : BitVec 28) (w : BitVec 4) (s : State) : Host.Outcome State Fault Refusal :=
  issue (.jmp target w) w (fun s ag => planBranch true target s ag) s

/-- CALL writes a31 and transfers (R134). -/
def execCall (target : BitVec 28) (w : BitVec 4) (s : State) : Host.Outcome State Fault Refusal :=
  issue (.call target w) w (fun s ag =>
    { planBranch true target s ag with act := fun t => emit t ag 0 [.a 31 (BitVec.ofNat 64 (sequential s ag 2))] }) s

/-- RET transfers to the position in a31 (R134). -/
def execRet (w : BitVec 4) (s : State) : Host.Outcome State Fault Refusal :=
  issue (.ret w) w (fun s ag =>
    let p := (readA s ag 31).toNat
    { trap := if 2 ^ 28 ≤ p then some (cLINKERR, BitVec.ofNat 64 (p / 16)) else transferTrap s ag p, jump := some p }) s

/-- Whether position `p` comes at or after `start` in the same chain (R135): the chain is followed line by line. -/
def inChainFrom (im : Image) (p : Nat) : Nat → Nat → Bool
  | 0, _ => false
  | n + 1, start =>
    if p / 16 = start / 16 then decide (start % 16 ≤ p % 16)
    else if im.last (start / 16) || decide (im.nlines ≤ im.next (start / 16)) then false
    else inChainFrom im p n (im.next (start / 16) * 16)

/-- The words of the instruction at a position. -/
def wordsAt (im : Image) (k : StreamKind) (p : Nat) : Nat := if twoSlot (mapOf k) (im.slot (p / 16) (p % 16)) then 2 else 1

/-- LOOP and XLOOP: start hardware loop lid, or skip the body when the trip count is 0 (R135, R190). A LOOP that skips its body transfers control, so that
an outer loop that ends at it keeps its counter (DESIGN CHOICE, log 56). -/
def planLoop (lid : BitVec 3) (count : W32) (target : BitVec 28) (s : State) (ag : Agent) : Plan :=
  let start := sequential s ag 2
  let p := target.toNat
  let bad := match imageOf s ag.bank with
    | some im => targetBad s ag p || !inChainFrom im p (im.nlines + 1) start
    | none => true
  let after := match imageOf s ag.bank with
    | some im => nextPos im p (wordsAt im ag.kind p)
    | none => p
  { words := 2
    trap := if bad then some (cLINKERR, BitVec.ofNat 64 ((if targetBad s ag p then p else posOf s ag) / 16)) else none
    jump := if count = 0 then some after else none
    act := fun t =>
      if count = 0 then t
      else t.modStream ag fun x =>
        { x with loopAge := x.loopAge + 1, loops := x.loops.set (lid.toNat % 6) ⟨count, start, p, true, x.loopAge + 1, 0⟩ (by omega) } }

/-- LOOP (R135). -/
def execLoop (lid : BitVec 3) (s1 : BitVec 5) (target : BitVec 28) (w : BitVec 4) (s : State) : Host.Outcome State Fault Refusal :=
  issue (.loop lid s1 target w) w (fun s ag => planLoop lid ((readA s ag s1).setWidth 32) target s ag) s

/-- XLOOP (R190). -/
def execXloop (lid : BitVec 3) (s1 : BitVec 4) (target : BitVec 28) (w : BitVec 4) (s : State) : Host.Outcome State Fault Refusal :=
  issue (.xloop lid s1 target w) w (fun s ag => planLoop lid ((readE s ag s1).setWidth 32) target s ag) s

/-- XBR (R190). -/
def execXbr (cond : BitVec 3) (s1 s2 : BitVec 4) (target : BitVec 28) (w : BitVec 4) (s : State) : Host.Outcome State Fault Refusal :=
  issue (.xbr cond s1 s2 target w) w (fun s ag => planBranch (condHolds cond (readE s ag s1) (readE s ag s2)) target s ag) s

/-- BRK posts a breakpoint event while debug capture is on, and is a NOP otherwise (R138). -/
def execBrk (imm : BitVec 16) (w : BitVec 4) (s : State) : Host.Outcome State Fault Refusal :=
  issue (.brk imm w) w (fun s ag =>
    let t := tenantOf s ag.bank
    { act := fun u => if dbgOn s t then postEvent u (eventTarget s ag.bank) evBreak t.val ag.bank.source (imm.setWidth 128) else u }) s

/-- CQP pushes a[s1] into CQ; a full CQ holds it (R137, R50). -/
def execCqp (s1 : BitVec 5) (w : BitVec 4) (s : State) : Host.Outcome State Fault Refusal :=
  issue (.cqp s1 w) w (fun s ag =>
    let b := s.bank ag.bank
    { hold := if 16 ≤ b.cq.length + b.cqNew.length then some holdBlocked else none
      act := fun t => t.modBank ag.bank fun x => { x with cqNew := x.cqNew ++ [readA s ag s1] } }) s

/-- A stream that has executed END or XEND; a Steward context whose streams both have stops (R136, R192, R322). -/
def endStream (s : State) (ag : Agent) : State :=
  let s1 := s.modStream ag fun x => { x with running := false }
  match ag.bank with
  | .bank .. => s1
  | .ctx c =>
    let b := s1.bank ag.bank
    if (s1.ctx c).running && !b.sa.running && !b.sx.running then stopContext s1 c none else s1

/-- END (R136). -/
def execEndA (w : BitVec 4) (s : State) : Host.Outcome State Fault Refusal :=
  issue (.endA w) w (fun _ ag => { act := fun t => endStream t ag }) s

/-- XEND (R192). -/
def execXend (w : BitVec 4) (s : State) : Host.Outcome State Fault Refusal :=
  issue (.xend w) w (fun _ ag => { act := fun t => endStream t ag }) s

/-- NOP of the A map (R136). -/
def execNopA (w : BitVec 4) (s : State) : Host.Outcome State Fault Refusal := issue (.nopA w) w (fun _ _ => {}) s

/-- NOP of the X map (R192). -/
def execNopX (w : BitVec 4) (s : State) : Host.Outcome State Fault Refusal := issue (.nopX w) w (fun _ _ => {}) s

/-- Hint space: a NOP whose wait field is not applied (R119, R366). -/
def execHint (x : BitVec 25) (s : State) : Host.Outcome State Fault Refusal := issue (.hint x) 0 (fun _ _ => {}) s

/-- The waits and the FEDEAD of an instruction that takes an entry of CQ (R189, R358). -/
def cqHold (s : State) (ag : Agent) : Option Hold :=
  let b := s.bank ag.bank
  if b.cq.isEmpty && (b.sa.running || !b.cqNew.isEmpty) then some holdBlocked else none
def cqTrap (s : State) (ag : Agent) : Option (BitVec 8 × Word) :=
  let b := s.bank ag.bank
  if b.cq.isEmpty && !b.sa.running && b.cqNew.isEmpty then some (cFEDEAD, 0) else none
def cqTake (s : State) (ag : Agent) : State := s.modBank ag.bank fun x => { x with cq := x.cq.drop 1 }

/-- CQB takes the head of CQ into e[s1] and branches on it (R189). -/
def execCqb (cond : BitVec 3) (s1 s2 : BitVec 4) (target : BitVec 28) (w : BitVec 4) (s : State) : Host.Outcome State Fault Refusal :=
  issue (.cqb cond s1 s2 target w) w (fun s ag =>
    let v := (s.bank ag.bank).cq.headD 0
    let p := planBranch (condHolds cond v (readE s ag s2)) target s ag
    { p with hold := cqHold s ag, trap := (cqTrap s ag).or p.trap, act := fun t => emit (cqTake t ag) ag 0 [.e s1 v] }) s

/-- CQR takes the head of CQ into e[d] (R189). -/
def execCqr (d : BitVec 4) (w : BitVec 4) (s : State) : Host.Outcome State Fault Refusal :=
  issue (.cqr d w) w (fun s ag =>
    let v := (s.bank ag.bank).cq.headD 0
    { hold := cqHold s ag, trap := cqTrap s ag, act := fun t => emit (cqTake t ag) ag 3 [.e d v] }) s

end Sys2Proof.Machine
end

