-- ==== Sys2Proof/Machine/ScanImages.lean ====
section
/-! DEFINITION. Scan segments and their images: ids, sizes, CRC-32C, headers, and what each class of payload holds and loads:
spec/13_scan_segments.md R284-R287, R296, spec/14_context_images.md R304-R314, R318, spec/20_faults_memory.md R408. -/

namespace Sys2Proof.Machine

/-! ### Segment ids (R284, R285) -/

def segRoom (id : Nat) : SuiteId := ⟨natBits id 24 6, Nat.mod_lt _ (by decide)⟩
def segClass (id : Nat) : Nat := natBits id 21 3
def segIndex (id : Nat) : Nat := natBits id 12 9
/-- The id of a class and index of a room. -/
def segId (u : SuiteId) (cls index : Nat) : Nat := u.val * 2 ^ 24 + cls * 2 ^ 21 + index * 2 ^ 12

/-- Whether an id is well formed; its dead bit apart. -/
def segOk (id : Nat) : Bool :=
  let u := segRoom id
  let i := segIndex id
  decide (id < 2 ^ 30) && id % 4096 == 0 && match segClass id with
    | 0 => true
    | 3 => decide (i < 8)
    | 6 => decide (i < 16)
    | 7 => if i = 1 then decide (roomRow u < 3) else decide (i < 3) && decide (roomCol u < 3)
    | _ => i == 0

/-- Payload length in bits (R285). -/
def payloadBits (id : Nat) : Nat :=
  match segClass id with
  | 0 => if segIndex id < 256 then 4608 else 24576
  | 1 => 135168
  | 2 => 135168
  | 3 => 2097152
  | 4 => 32768
  | 5 => 25649152
  | 6 => 4194304
  | _ => if segIndex id = 2 then 6144 else 3072

/-- Bytes of an image of an entry (R301), and its flue time (R290). -/
def imageSize (e : SegEntry) : Nat := if e.dead then 64 else 64 + payloadBits e.id.toNat / 8
def flueTime (e : SegEntry) : Nat := if e.dead then 0 else payloadBits e.id.toNat / 256

/-! ### CRC-32C (R306) -/

def crcBit (c : W32) : W32 := if c.getLsbD 0 then (c >>> 1) ^^^ 0x82f63b78 else c >>> 1
def crcByte (c : W32) (b : Byte) : W32 :=
  crcBit (crcBit (crcBit (crcBit (crcBit (crcBit (crcBit (crcBit (c ^^^ b.setWidth 32))))))))
def crc32c (l : List Byte) : W32 := ~~~(l.foldl crcByte 0xffffffff)

/-! ### Byte layouts -/

/-- Fields at rising offsets, zeros between them, n bytes in all. -/
def layOut (n : Nat) (l : List (Nat × List Byte)) : List Byte :=
  let body := l.foldl (fun acc (off, bs) => acc ++ List.replicate (off - acc.length) 0 ++ bs) []
  (body ++ List.replicate (n - body.length) 0).take n

def words8 (l : List Word) : List Byte := l.flatMap fun w => leBytes 8 w.toNat
def word8 (l : List Byte) (off : Nat) : Word := BitVec.ofNat 64 (fieldAt l off 8)

/-! ### Classes 0 to 3, 6 and 7 (R286, R287, R309) -/

/-- 72 bits of a PE, and 384 bits of its extension. -/
def peBits (p : Pe) : BitVec 72 :=
  p.acc ++ p.a ++ p.b ++ (if p.va then (1 : BitVec 1) else 0) ++ (if p.vb then (1 : BitVec 1) else 0) ++ p.tag ++ (0 : BitVec 4)
def peExtBits (p : Pe) : BitVec 384 :=
  (0 : BitVec 48) ++ (0 : BitVec 6) ++ (if p.blkNan then (1 : BitVec 1) else 0) ++ (if p.blkNeg then (1 : BitVec 1) else 0)
    ++ (if p.blkPos then (1 : BitVec 1) else 0) ++ BitVec.ofInt 279 p.blk ++ p.ak3 ++ p.ak2 ++ p.ak1

def peLoad (p : Pe) (v : BitVec 72) : Pe :=
  { p with acc := v.extractLsb' 40 32, a := v.extractLsb' 24 16, b := v.extractLsb' 8 16, va := v.getLsbD 7, vb := v.getLsbD 6,
           tag := v.extractLsb' 4 2 }
def peExtLoad (p : Pe) (v : BitVec 384) : Pe :=
  { p with ak1 := v.extractLsb' 0 16, ak2 := v.extractLsb' 16 16, ak3 := v.extractLsb' 32 16, blk := (v.extractLsb' 48 279).toInt,
           blkPos := v.getLsbD 327, blkNeg := v.getLsbD 328, blkNan := v.getLsbD 329 }

/-- The PEs of segment p, row by row. -/
def segPes (x : Room) (p : Nat) : List Pe :=
  (List.range 64).map fun n =>
    (x.pes.get ⟨(8 * (p % 256 / 16) + n / 8) % 128, by omega⟩).get ⟨(8 * (p % 16) + n % 8) % 128, by omega⟩

def pePayload (x : Room) (i : Nat) : List Byte :=
  if i < 256 then (segPes x i).flatMap fun p => leBytes 9 (peBits p).toNat
  else (segPes x i).flatMap fun p => leBytes 48 (peExtBits p).toNat

def peUnload (x : Room) (i : Nat) (l : List Byte) : Room :=
  let s := i % 256
  { x with pes := Vector.ofFn fun r => Vector.ofFn fun c =>
      let p := (x.pes.get r).get c
      if r.val / 8 = s / 16 ∧ c.val / 8 = s % 16 then
        let n := 8 * (r.val % 8) + c.val % 8
        if i < 256 then peLoad p (BitVec.ofNat 72 (fieldAt l (9 * n) 9)) else peExtLoad p (BitVec.ofNat 384 (fieldAt l (48 * n) 48))
      else p }

/-- The indices of the beat-step that a wing's sequencer will enter next: those of the newest nest, or a drone's count (R310). -/
def nextIndices (s : State) (lead : SuiteId) : List Nat :=
  match (s.room lead).runs.getLast? with
  | some r => if r.drone then [r.nextStep % 2 ^ 32] else splitIndex (nestTrips r.set) r.nextStep
  | none => []
/-- Those of the beat-step that a feeder of a wing will fetch next, and its Local Store address (R309). -/
def fetchNext (s : State) (lead u : SuiteId) (b : Bool) : List Nat × Nat :=
  let x := s.room u
  match (s.room lead).runs.getLast? with
  | some r =>
    if r.drone then ([r.nextStep % 2 ^ 32], 0)
    else if b then (fetchStep r x.bShift, if r.total ≤ r.staged then 0 else fetchB r x.bShift)
    else (fetchStep r x.aShift, if r.total ≤ r.staged then 0 else fetchA r x.aShift)
  | none => ([], 0)
def index4 (l : List Nat) : List Byte := (List.range 6).flatMap fun i => leBytes 4 (l.getD i 0)

/-- A feeder's payload (R309): the slots, then the state of a feeder that feeds, or what an image loaded since the clocks stopped holds of it (R302). -/
def feedPayload (s : State) (u : SuiteId) (b : Bool) : List Byte :=
  let x := s.room u
  let v := if b then x.bFeed else x.aFeed
  let lead := leadOf s u
  let feeds := (if b then northRooms s lead else westRooms s lead).contains u && !(s.room lead).runs.isEmpty
  let (xs, addr) := match if b then x.feedB else x.feedA with
    | some q => q
    | none => if feeds then fetchNext s lead u b else ([], 0)
  let full := (List.range 64).foldl (fun acc i => if (v.toList.getD i Slot.reset).full then acc + 2 ^ i else acc) 0
  let next := match (s.room lead).runs.getLast? with
    | some r => if r.drone then r.nextStep % 64 else if b then x.bNext else x.aNext
    | none => if b then x.bNext else x.aNext
  layOut 16896 [(0, v.toList.flatMap fun q => (q.data ++ List.replicate (256 - q.data.length) 0).take 256),
    (16384, index4 xs), (16408, leBytes 4 addr), (16412, leBytes 8 full), (16420, leBytes 1 next)]

/-- A feeder loads its slots, the slot that enters next, and the beat-step and the Local Store address that it fetches next, which take effect at
SCNRUN. -/
def feedUnload (x : Room) (b : Bool) (l : List Byte) : Room :=
  let v : Vector Slot 64 := Vector.ofFn fun i => ⟨(fieldAt l 16412 8).testBit i.val, bytesAt l (256 * i.val) 256⟩
  let n := fieldAt l 16420 1 % 64
  let q := ((List.range 6).map fun i => fieldAt l (16384 + 4 * i) 4, fieldAt l 16408 4)
  if b then { x with bFeed := v, bNext := n, feedB := some q } else { x with aFeed := v, aNext := n, feedA := some q }

/-- An accumulator bank: tiles b, b + 8, b + 16, b + 24 (R309), each word read as by any reader: its errors are corrected or read as the canonical NaN,
and counted (R393). -/
def accPayload (s : State) (u : SuiteId) (b : Nat) : List Byte × State :=
  let rows := [b, b + 8, b + 16, b + 24].flatMap fun k => (List.finRange 128).map fun i => ((⟨k % 32, by omega⟩ : Fin 32), i)
  let (l, s1) := rows.foldl (fun (p : List (Vector W32 128) × State) (k, i) =>
    let (v, s1) := accReadRow p.2 u k i
    (p.1 ++ [v], s1)) ([], s)
  (l.flatMap fun v => v.toList.flatMap fun w => leBytes 4 w.toNat, s1)

def accUnload (x : Room) (b : Nat) (l : List Byte) : Room :=
  let a := l.toArray
  { x with acc := Vector.ofFn fun k =>
      if k.val % 8 = b % 8 then
        Vector.ofFn fun i => Vector.ofFn fun j =>
          let o := 65536 * (k.val / 8) + 512 * i.val + 4 * j.val
          (a.getD (o + 3) 0) ++ (a.getD (o + 2) 0) ++ (a.getD (o + 1) 0) ++ (a.getD o 0)
      else x.acc.get k }

/-- A Local Store bank: bytes that lie in L1 are zero, and are not loaded (R309, R314). -/
def lsPayload (s : State) (u : SuiteId) (n : Nat) : List Byte :=
  (List.range 524288).map fun i =>
    let a := 524288 * n + i
    if scratchLimit (s.suite u) ≤ a then 0 else (lsRead s u a 1).headD 0

def lsUnload (s : State) (u : SuiteId) (n : Nat) (l : List Byte) : State :=
  let lim := scratchLimit (s.suite u) - 524288 * n
  l1Clear (lsWrite s u (524288 * n) (l.take lim)) u

/-- Whether a room's east or south doorway is open: the next room lies in the same wing (R209, R287). -/
def doorOpen (s : State) (u : SuiteId) (south : Bool) : Bool :=
  let lead := leadOf s u
  if south then decide (roomRow u - roomRow lead + 1 < wingRows s lead) else decide (roomCol u - roomCol lead + 1 < wingCols s lead)

def doorPayload (s : State) (u : SuiteId) (i : Nat) : List Byte :=
  let x := s.room u
  let l := match i with
    | 0 => x.latchE.toList.flatMap fun v => leBytes 3 v.toNat
    | 1 => x.latchS.toList.flatMap fun v => leBytes 3 v.toNat
    | _ => x.latchX.toList.flatMap fun v => leBytes 6 v.toNat
  if doorOpen s u (i == 1) then l else List.replicate l.length 0

def doorUnload (s : State) (u : SuiteId) (i : Nat) (l : List Byte) : State :=
  if !doorOpen s u (i == 1) then s
  else s.modRoom u fun x =>
    match i with
    | 0 => { x with latchE := Vector.ofFn fun n => BitVec.ofNat 24 (fieldAt l (3 * n.val) 3) }
    | 1 => { x with latchS := Vector.ofFn fun n => BitVec.ofNat 24 (fieldAt l (3 * n.val) 3) }
    | _ => { x with latchX := Vector.ofFn fun n => BitVec.ofNat 48 (fieldAt l (6 * n.val) 6) }

/-! ### Room control (R310) -/

/-- The wing byte of R305. -/
def wingByte (s : State) (u : SuiteId) : Nat :=
  16 * (s.room u).wingShape.val + 4 * (roomRow u - roomRow (leadOf s u)) + (roomCol u - roomCol (leadOf s u))

def fmtBytes (n : NestSet) : List Byte := n.fmts.toList.flatMap fun e => leBytes 2 e.toNat
def bindBytes (n : NestSet) : List Byte := leBytes 4 n.prog.toNat ++ leBytes 4 n.dbase.toNat

/-- An entry of the ordered-atomic buffer. -/
def atomicBytes (a : Atomic) : List Byte :=
  leBytes 4 a.cmp.toNat ++ leBytes 4 (16384 * a.k.val + 128 * a.row.val + a.col.val) ++ leBytes 4 a.v.toNat
    ++ leBytes 1 (a.aop.toNat + (if a.i32 then 8 else 0)) ++ leBytes 1 a.d.toNat ++ leBytes 1 (a.bank.val + 2 * a.dn.toNat)
    ++ leBytes 1 (1 + (if a.discard then 2 else 0))

def atomicLoad (t : TenantId) (l : List Byte) : Option Atomic :=
  let f := fieldAt l
  let sel := f 4 4
  if !(f 15 1).testBit 0 then none
  else some
    { tenant := t, kind := .a, bank := ⟨f 14 1 % 2, by omega⟩, d := BitVec.ofNat 5 (f 13 1), dn := BitVec.ofNat 4 (f 14 1 / 2),
      k := ⟨natBits sel 14 5, Nat.mod_lt _ (by decide)⟩, row := ⟨natBits sel 7 7, Nat.mod_lt _ (by decide)⟩,
      col := ⟨natBits sel 0 7, Nat.mod_lt _ (by decide)⟩, v := BitVec.ofNat 32 (f 8 4), cmp := BitVec.ofNat 32 (f 0 4),
      aop := BitVec.ofNat 3 (f 12 1), i32 := (f 12 1).testBit 3, ordered := true, discard := (f 15 1).testBit 1, born := 0 }

/-- Beats since the newest run's current unit had its last beat-step: 0 before it, counting on until the next unit's first one enters. The manual does not say whether the beat of the stop itself counts:
it does (DESIGN CHOICE, log 67). -/
def sinceUnit (unit : Nat) (r : WingRun) (w : Nat) : Nat :=
  if r.nextStep ≠ 0 ∧ r.nextStep % unit = 0 then r.beat + w + 1 - r.nextEntry
  else match r.units.getLast? with
    | some q => if q.final then r.beat + w - q.drainAt else 0
    | none => 0

/-- Beat-steps of a unit of a run (R199, R223). -/
def runUnit (s : State) (lead : SuiteId) (r : WingRun) : Nat := if r.drone then (s.room lead).drone.unit else nestUnit r.set

/-- Whether the unit that beat-step n - 1 belongs to is the one of the final beat-step of a drone computation (R223). -/
def droneFinal (d : Drone) (r : WingRun) : Bool :=
  match d.finalStep with
  | some n => decide ((n - 1) / d.unit ≤ (r.nextStep - 1) / d.unit)
  | none => false

/-- Flags of the sequencer: a nest runs, a drone computation runs, the unit whose beat-step entered last is the final one. -/
def seqFlags (s : State) (lead : SuiteId) : Nat :=
  match (s.room lead).runs.getLast? with
  | none => 0
  | some r =>
    if r.drone then 2 + (if droneFinal (s.room lead).drone r then 4 else 0)
    else 1 + (if r.total ≤ ((r.nextStep - 1) / nestUnit r.set + 1) * nestUnit r.set then 4 else 0)

def optWord (o : Option Nat) : Nat := o.getD 0xffffffffffffffff

/-- The feed demands of a drone computation that are not answered: those raised whose slots are not full, until the final beat-step is fixed (R223, R225). -/
def openFeeds (s : State) (lead : SuiteId) (d : Drone) : List Nat :=
  if d.active && !d.fixed then
    ((List.range (d.nextDemand - d.dstep.toNat)).map (d.dstep.toNat + ·)).filter fun k => !stepFull s lead k
  else []

/-- The sequencer's indices, flags and count: those of an image loaded since the clocks stopped, or the wing's own (R302). -/
def seqState (s : State) (u : SuiteId) : List Nat × Nat × Nat :=
  let lead := leadOf s u
  match (s.room u).seqIn with
  | some (xs, flags, since) => (xs, flags % 8, since)
  | none =>
    (nextIndices s lead, seqFlags s lead,
      match (s.room lead).runs.getLast? with | some r => sinceUnit (runUnit s lead r) r (wingW s lead) | none => 0)

def controlPayload (s : State) (u : SuiteId) : List Byte :=
  let x := s.room u
  let lead := leadOf s u
  let d := if x.seqIn.isSome then { x.drone with feedOpen := openFeeds s lead x.drone } else (s.room lead).drone
  let set := fun (b : Fin 2) => x.shadow.get b
  let (xs, flags, since) := seqState s u
  layOut 4096 [(0, x.active.table.toList), (0x1c0, (set 0).table.toList ++ (set 1).table.toList),
    (0x540, fmtBytes x.active ++ fmtBytes (set 0) ++ fmtBytes (set 1)),
    (0x5a0, bindBytes x.active ++ bindBytes (set 0) ++ bindBytes (set 1)),
    (0x5b8, index4 xs), (0x5d0, leBytes 4 since), (0x5d4, leBytes 4 (flags + 8 * x.rphase.toNat)),
    (0x5d8, leBytes 8 x.nbeat.toNat), (0x5e0, leBytes 8 ((if x.busy then 2 else 0) + (if x.ovf then 1 else 0))),
    (0x5e8, leBytes 8 (wingByte s u)), (0x5f0, leBytes 8 x.accseq.toNat),
    (0x600, words8 [statOf d (chanterBusy s u), d.dbeat, d.dmiss, d.look.setWidth 64, d.ddem, d.dstep, d.dcfg, d.dcfg2]),
    (0x640, leBytes 8 (if d.held then d.sinceBeat - d.period else 0) ++ leBytes 8 d.sinceBeat),
    (0x650, leBytes 8 (optWord (d.finalStep.map (· - 1))) ++ leBytes 8 d.nextDemand ++ leBytes 8 (optWord d.drainOpen)),
    (0x668, leBytes 8 d.queue.length), (0x670, words8 (d.queue.take 72)),
    (0x8b0, ((x.atomics.filter (·.ordered)).take 64).flatMap atomicBytes)]

def loadSet (old : NestSet) (l : List Byte) (table fmts bind : Nat) : NestSet :=
  { old with table := Vector.ofFn fun i => BitVec.ofNat 8 (fieldAt l (table + i.val) 1),
             fmts := Vector.ofFn fun i => BitVec.ofNat 16 (fieldAt l (fmts + 2 * i.val) 2),
             prog := BitVec.ofNat 4 (fieldAt l bind 1), dbase := BitVec.ofNat 32 (fieldAt l (bind + 4) 4) }

/-- The drone registers that a room-control payload carries. -/
def loadDrone (d : Drone) (l : List Byte) : Drone :=
  let f := fieldAt l
  let opt := fun (v : Nat) => if v = 0xffffffffffffffff then none else some v
  let stat := f 0x600 8
  let cfg := word8 l 0x630
  let dl := natBits (f 0x638 8) 0 16
  let per := natBits cfg.toNat 0 4 + 1
  { d with active := stat.testBit 0, fixed := stat.testBit 1, held := stat.testBit 2, dbeat := word8 l 0x608, dmiss := word8 l 0x610,
           look := BitVec.ofNat 7 (f 0x618 8), ddem := word8 l 0x620, dstep := word8 l 0x628, dcfg := cfg, dcfg2 := word8 l 0x638,
           finalStep := (opt (f 0x650 8)).map (· + 1), nextDemand := f 0x658 8, drainOpen := opt (f 0x660 8),
           queue := (List.range (min 72 (f 0x668 8))).map fun i => word8 l (0x670 + 8 * i), sinceBeat := f 0x648 8,
           missRaised := stat.testBit 2 && decide (per + dl * per ≤ f 0x648 8), withdrawnA := 0, withdrawnB := 0, queueNew := 0, missNow := false, ending := false }

/-- What a room-control image loads: all but its wing byte (R314). The sequencer's indices and flags take effect at SCNRUN. -/
def controlUnload (acting : TenantId) (x : Room) (l : List Byte) : Room :=
  let f := fieldAt l
  { x with
    active := loadSet x.active l 0 0x540 0x5a0
    shadow := (x.shadow.set 0 (loadSet (x.shadow.get 0) l 0x1c0 0x560 0x5a8)).set 1 (loadSet (x.shadow.get 1) l 0x380 0x580 0x5b0)
    seqIn := some ((List.range 6).map fun i => f (0x5b8 + 4 * i) 4, f 0x5d4 4, f 0x5d0 4)
    rphase := BitVec.ofNat 3 (f 0x5d4 4 / 8)
    nbeat := BitVec.ofNat 32 (f 0x5d8 8)
    busy := (f 0x5e0 8).testBit 1
    ovf := (f 0x5e0 8).testBit 0
    accseq := BitVec.ofNat 32 (f 0x5f0 8)
    drone := loadDrone x.drone l
    atomics := x.atomics.filter (fun a => !a.ordered) ++ (List.range 64).filterMap fun i => atomicLoad acting (bytesAt l (0x8b0 + 16 * i) 16) }

/-! ### Suite core (R311) -/

/-- A loop record: counter, start, end, and the order of starting where it is active. -/
def loopBytes (l : LoopRec) : List Byte :=
  leBytes 4 l.counter.toNat ++ leBytes 4 l.start ++ leBytes 4 l.stop ++ leBytes 4 (if l.active then l.age + 1 else 0)
def loopLoad (old : LoopRec) (l : List Byte) : LoopRec :=
  { old with counter := BitVec.ofNat 32 (fieldAt l 0 4), start := fieldAt l 4 4, stop := fieldAt l 8 4, active := fieldAt l 12 4 != 0,
             age := fieldAt l 12 4 - 1 }

/-- A stream's own CSRs 0x000 to 0x0ff; unassigned numbers read 0. -/
def streamCsrs (s : State) (ag : Agent) : List Word := (List.range 256).map fun n => (readLocal s ag n).getD 0

/-- What a stream takes from the bytes of a bank; the rest is the snapshot's. -/
def loadStream (st : Stream) (l : List Byte) (x : Nat) : Stream :=
  let csr := fun (n : Nat) => word8 l (0x300 + 2048 * x + 8 * n)
  let depth := (csr 0x031).toNat % 32
  { st with
    pos := fieldAt l (0x180 + 8 * x) 8
    sems := Vector.ofFn fun i => BitVec.ofNat 6 (fieldAt l (0x190 + 8 * x + i.val) 1)
    loops := Vector.ofFn fun i => loopLoad (st.loops.get i) (bytesAt l (0x1a0 + 96 * x + 16 * i.val) 16)
    frm := (csr 0x008).setWidth 2
    xflg := (csr 0x009 &&& 0x1f1f).setWidth 13
    semsat := (csr 0x00a).setWidth 8
    waittmo := (csr 0x030).setWidth 48
    rlOver := (csr 0x031).getLsbD 8
    rlUnder := (csr 0x031).getLsbD 9
    labels := (List.range (min 16 depth)).map fun i => BitVec.ofNat 16 (fieldAt l (0x1300 + 32 * x + 2 * i) 2) }

def parseTrap (v : Nat) : Trap :=
  { cause := BitVec.ofNat 8 v, cls := BitVec.ofNat 2 (v / 2 ^ 14), agent := BitVec.ofNat 3 (v / 2 ^ 8), bank := BitVec.ofNat 1 (v / 2 ^ 11),
    ret := BitVec.ofNat 28 (v / 2 ^ 16), tval := BitVec.ofNat 64 (v / 2 ^ 64) }

def bankPayload (s : State) (u : SuiteId) (b : Fin 2) : List Byte :=
  let r : BankRef := .bank u b
  let k := s.bank r
  let st := fun (x : Stream) => x.sems.toList.flatMap fun v => leBytes 1 v.toNat
  let lp := fun (x : Stream) => x.loops.toList.flatMap loopBytes
  let lb := fun (x : Stream) => layOut 32 [(0, x.labels.flatMap fun v => leBytes 2 v.toNat)]
  let (id, it) := match k.visit with | some v => (v.launch.toNat, v.viter.toNat) | none => (0, 0)
  layOut 8192 [(0, words8 k.a.toList), (0x100, words8 k.e.toList), (0x180, leBytes 8 k.sa.pos ++ leBytes 8 k.sx.pos), (0x190, st k.sa ++ st k.sx),
    (0x1a0, lp k.sa ++ lp k.sx), (0x260, words8 (k.cq.take 16)), (0x2e0, leBytes 8 k.cq.length), (0x2e8, k.tok.toList.flatMap fun n => leBytes 1 n),
    (0x300, words8 (streamCsrs s ⟨r, .a⟩)), (0xb00, words8 (streamCsrs s ⟨r, .x⟩)), (0x1300, lb k.sa ++ lb k.sx),
    (0x1400, leBytes 8 id ++ leBytes 8 it ++ leBytes 16 (shownTrap s r).toNat
      ++ leBytes 1 ((if k.pageWait then 1 else 0) + (if k.switched then 2 else 0)))]

/-- What SCNIN makes of a bank (R311, R314): the printed fields from the bytes, the others from the snapshot. -/
def loadBank (k : Bank) (l : List Byte) (phase : Nat) : Bank :=
  let n := min 16 (fieldAt l 0x2e0 8)
  let tr := fieldAt l 0x1410 16
  { k with
    a := Vector.ofFn fun i => word8 l (8 * i.val)
    e := Vector.ofFn fun i => word8 l (0x100 + 8 * i.val)
    sa := loadStream k.sa l 0
    sx := loadStream k.sx l 1
    cq := (List.range n).map fun i => word8 l (0x260 + 8 * i)
    cqNew := []
    tok := Vector.ofFn fun i => fieldAt l (0x2e8 + i.val) 1
    tokNew := Vector.replicate 12 0
    phase := BitVec.ofNat 2 phase
    traps := if tr = 0 then [] else parseTrap tr :: k.traps.drop 1
    pageWait := (fieldAt l 0x1420 1).testBit 0
    switched := (fieldAt l 0x1420 1).testBit 1 }

/-- Results in flight that a class-5 image carries, with their banks, oldest first (R291, R311). -/
def insertOldest (p : Fin 2 × Flight) : List (Fin 2 × Flight) → List (Fin 2 × Flight)
  | [] => [p]
  | q :: t => if q.2.born ≤ p.2.born then q :: insertOldest p t else p :: q :: t
def coreFlights (banks : Vector Bank 2) (p : Flight → Bool) : List (Fin 2 × Flight) :=
  ([(0 : Fin 2), 1].flatMap fun b => (((banks.get b).fly.filter p).map fun f => (b, f))).foldl (fun acc q => insertOldest q acc) []
def aFlight (f : Flight) : Bool := f.kind != .x
/-- The mark of the cycles in which a VACC reads its words rides in the slot of its result. -/
def Flight.isMark (f : Flight) : Bool := f.res.any fun x => match x with | .accRead .. => true | _ => false
def xFlight (f : Flight) : Bool := f.kind == .x && !f.isMark

/-- What a record holds of a result beside its data: the kind of the destination, its number, a value and a mask or register (log 18). -/
def resTag : Result → Nat × Nat × Nat × Nat
  | .a d v => (1, d.toNat, v.toNat, 0)
  | .c d v => (2, d.val, v.toNat, 0)
  | .e d v => (3, d.toNat, v.toNat, 0)
  | .csr n (.write v) => (4, n.toNat, v.toNat, 0)
  | .csr n (.masked v m) => (5, n.toNat, v.toNat, m.toNat)
  | .csr n (.exchange v d) => (6, n.toNat, v.toNat, d.toNat)
  | .tile t _ p => (7, t.val, if p then 1 else 0, 0)
  | .mask m _ => (8, m.val, 0, 0)
  | .acc k h a _ row tn => (9, k.val, (if h then 1 else 0) + (if a then 2 else 0) + 4 * row + 1024 * tn.val, 0)
  | .sem n => (10, n.toNat, 0, 0)
  | .consume t => (11, t.val, 0, 0)
  | .accRead .. => (0, 0, 0, 0)

/-- The data of a result: a tile whole, a mask, or a scalar (R311). -/
def resData : Result → List Byte
  | .tile _ v _ => bytesOfTile v
  | .acc _ _ _ v _ _ => bytesOfTile v
  | .mask _ v => v.toList.flatMap fun r => leBytes 32 r.toNat
  | x => leBytes 8 (resTag x).2.2.1

/-- A tile and a mask from their bytes in an image. -/
def tileOf (a : Array Byte) (off : Nat) : Tile :=
  Vector.ofFn fun i => Vector.ofFn fun j => a.getD (off + 256 * i.val + j.val) 0
def maskOf (l : List Byte) : Mask := Vector.ofFn fun i => BitVec.ofNat 256 (fieldAt l (32 * i.val) 32)

/-- The result that a record holds. -/
def resOf (code n v m : Nat) (data : List Byte) : Option Result :=
  let w : Word := BitVec.ofNat 64 v
  match code with
  | 1 => some (.a (BitVec.ofNat 5 n) w)
  | 2 => some (.c ⟨n % 8, by omega⟩ w)
  | 3 => some (.e (BitVec.ofNat 4 n) w)
  | 4 => some (.csr (BitVec.ofNat 12 n) (.write w))
  | 5 => some (.csr (BitVec.ofNat 12 n) (.masked w (BitVec.ofNat 64 m)))
  | 6 => some (.csr (BitVec.ofNat 12 n) (.exchange w (BitVec.ofNat 5 m)))
  | 7 => some (.tile ⟨n % 48, by omega⟩ (tileOf data.toArray 0) (v % 2 == 1))
  | 8 => some (.mask ⟨n % 8, by omega⟩ (maskOf data))
  | 9 => some (.acc ⟨n % 32, by omega⟩ (v.testBit 0) (v.testBit 1) (tileOf data.toArray 0) (v / 4 % 256) ⟨v / 1024 % 64, by omega⟩)
  | 10 => some (.sem (BitVec.ofNat 3 n))
  | 11 => some (.consume ⟨n % 48, by omega⟩)
  | _ => none

def StreamKind.ofCode (n : Nat) : StreamKind := match n % 4 with | 0 => .a | 1 => .x | 2 => .chanter | _ => .drain

/-- A result in flight of the A issue port: valid, bank, kind of destination, stream, number, cycles still to landing, cycles since its issue, value, mask. -/
def flightBytes (now : Nat) (b : Fin 2) (f : Flight) : List Byte :=
  let (kind, n, v, m) := match f.res.head? with | some x => resTag x | none => (0, 0, 0, 0)
  layOut 32 [(0, [1, BitVec.ofNat 8 b.val, BitVec.ofNat 8 kind, BitVec.ofNat 8 f.kind.code.toNat]), (4, leBytes 4 n),
    (8, leBytes 2 f.left ++ leBytes 2 f.flags.toNat), (12, leBytes 4 (now - f.born)), (16, leBytes 8 v), (24, leBytes 8 m)]

/-- The result in flight that such a record holds, with its bank. -/
def loadFlight (now : Nat) (l : List Byte) : Option (Fin 2 × Flight) :=
  let f := fieldAt l
  if f 0 1 = 0 then none
  else
    some (⟨f 1 1 % 2, by omega⟩,
      { kind := StreamKind.ofCode (f 3 1), left := f 8 2, flags := BitVec.ofNat 5 (f 10 2), born := now - f 12 4, var := false,
        res := (resOf (f 2 1) (f 4 4) (f 16 8) (f 24 8) []).toList })

/-- An X result in flight: its tag, with the tiles that it empties and the mark of a VACC that still reads, and its data. -/
def flightSlot (now : Nat) (fly : List Flight) (b : Fin 2) (f : Flight) : List Byte :=
  let x := (f.res.find? fun x => match x with | .consume _ => false | _ => true).or f.res.head?
  let (kind, n, v, m) := match x with | some x => resTag x | none => (0, 0, 0, 0)
  let empties := (f.res.filterMap fun y => match y with | .consume t => if some y = x then none else some t.val | _ => none).take 6
  let mark := fly.findSome? fun g => if g.born = f.born then g.res.findSome? fun y => match y with
    | .accRead k h t => if kind = 7 ∧ t.val = n then some [1 + (if h then 2 else 0), BitVec.ofNat 8 k.val, BitVec.ofNat 8 g.left] else none
    | _ => none else none
  layOut 32832 [(0, [1, BitVec.ofNat 8 b.val, BitVec.ofNat 8 kind, BitVec.ofNat 8 f.kind.code.toNat]), (4, leBytes 4 n),
    (8, leBytes 2 f.left ++ leBytes 2 f.flags.toNat), (12, leBytes 4 (now - f.born)), (16, leBytes 8 v), (24, leBytes 8 m),
    (32, leBytes 1 empties.length ++ empties.flatMap (leBytes 1)), (40, mark.getD []), (64, match x with | some x => resData x | none => [])]

/-- The results in flight that such a slot holds, with their bank. -/
def loadSlot (now : Nat) (l : List Byte) : List (Fin 2 × Flight) :=
  let f := fieldAt l
  if f 0 1 = 0 then []
  else
    let b : Fin 2 := ⟨f 1 1 % 2, by omega⟩
    let scalar := f 2 1 ≠ 7 ∧ f 2 1 ≠ 9
    let g : Flight :=
      { kind := StreamKind.ofCode (f 3 1), left := f 8 2, flags := BitVec.ofNat 5 (f 10 2), born := now - f 12 4, var := false,
        res := (resOf (f 2 1) (f 4 4) (if scalar then f 64 8 else f 16 8) (f 24 8) (l.drop 64)).toList
          ++ (List.range (min 6 (f 32 1))).map fun i => .consume ⟨f (33 + i) 1 % 48, by omega⟩ }
    let mark : Flight := { g with flags := 0, left := f 42 1, res := [.accRead ⟨f 41 1 % 32, by omega⟩ (f 40 1 / 2 == 1) ⟨f 4 4 % 48, by omega⟩] }
    (b, g) :: (if f 40 1 = 0 then [] else [(b, mark)])

/-! ### Queue records (R311, log 18) -/

/-- A command's code and the operands that its record holds. -/
def cmdWords : CmdOp → Nat × List Nat
  | .mnest sel _ => (1, [sel])
  | .mfmt mask bytes => (2, mask.toNat :: (List.range 4).map fun i => fieldAt bytes (8 * i) 8)
  | .mgo => (3, [])
  | .mwing sh => (4, [sh])
  | .mdrn p d => (5, [p.toNat, d.toNat])
  | .dstart x y => (6, [x.toNat, y.toNat])
  | .dlook l => (7, [l])
  | .dfeed x y => (8, [x.toNat, y.toNat])
  | .ddrn k => (9, [k])
  | .dend => (10, [])
  | .cpy j => (11, [j.moved.length, j.got.length])
  | .cpyq => (12, [])
  | .psend x y => (13, [x.toNat, y.toNat])
  | .precv x y => (14, [x.toNat, y.toNat])
  | .coll off rank inst => (15, [off, rank, match inst with | some i => i + 1 | none => 0])

/-- The operation that a record holds; an MNEST table and a copy job, which 64 bytes do not hold, are those of the command that the snapshot names. -/
def cmdOpOf (old : Option CmdOp) (code : Nat) (w : Nat → Nat) : Option CmdOp :=
  match code with
  | 1 => some (.mnest (w 0) (match old with | some (.mnest _ bytes) => bytes | _ => List.replicate 448 0))
  | 2 => some (.mfmt (BitVec.ofNat 16 (w 0)) ((List.range 4).flatMap fun i => leBytes 8 (w (1 + i))))
  | 3 => some .mgo
  | 4 => some (.mwing (w 0))
  | 5 => some (.mdrn (BitVec.ofNat 4 (w 0)) (BitVec.ofNat 32 (w 1)))
  | 6 => some (.dstart (BitVec.ofNat 64 (w 0)) (BitVec.ofNat 64 (w 1)))
  | 7 => some (.dlook (w 0))
  | 8 => some (.dfeed (BitVec.ofNat 64 (w 0)) (BitVec.ofNat 64 (w 1)))
  | 9 => some (.ddrn (w 0))
  | 10 => some .dend
  | 11 => match old with | some (.cpy j) => some (.cpy j) | _ => none
  | 12 => some .cpyq
  | 13 => some (.psend (BitVec.ofNat 64 (w 0)) (BitVec.ofNat 64 (w 1)))
  | 14 => some (.precv (BitVec.ofNat 64 (w 0)) (BitVec.ofNat 64 (w 1)))
  | 15 => some (.coll (w 0) (w 1) (if w 2 = 0 then none else some (w 2 - 1)))
  | _ => none

def CmdStatus.code : CmdStatus → Nat
  | .queued => 0 | .popped => 1 | .running => 2 | .complete => 3
def CmdStatus.ofCode (n : Nat) : CmdStatus :=
  match n % 4 with | 0 => .queued | 1 => .popped | 2 => .running | _ => .complete

/-- The record of a command: 1 where it stands in its queue, 2 where it has left the head. A PSEND or PRECV names its slot; the trapped M command of a halted
room holds what ROOMFLT shows of it (R378). -/
def cmdBytes (halt : Halt) (place : Nat) (c : Cmd) : List Byte :=
  let (code, ws) := cmdWords c.op
  let slot := match c.op, c.slot with
    | .psend .., some (n, _) => [n + 1]
    | .precv .., some (n, _) => [n + 1]
    | _, _ => []
  let halts := halt.halted && c.trapLevel != 0 && (match c.op with | .mgo => true | .dstart .. => true | _ => false)
  layOut 56 [(0, leBytes 1 place ++ leBytes 1 code ++ leBytes 1 (c.bank.val + 2 * c.kind.code.toNat) ++ leBytes 1 (c.status.code + 4 * c.trapLevel
      + (if c.discard then 16 else 0)) ++ leBytes 1 c.tok.pop.toNat ++ leBytes 1 (c.tok.pushEn.toNat + 2 * c.tok.pushDst.toNat) ++ leBytes 1 c.dn.toNat),
    (8, leBytes 4 c.ret),
    (12, if halts then leBytes 1 halt.cause.toNat ++ leBytes 1 halt.row.toNat ++ leBytes 1 halt.tile.toNat ++ leBytes 1 (halt.ftidx.toNat + 16 * halt.phase)
      else []),
    (16, (ws ++ slot).flatMap (leBytes 8))]

/-- The command that a record holds: its Visit is the one of its bank; what the record has no room for is the snapshot's. -/
def cmdLoad (acting : TenantId) (visit : Fin 2 → Option Visit) (old : Option Cmd) (l : List Byte) : Option Cmd :=
  let f := fieldAt l
  let w := fun i => f (16 + 8 * i) 8
  let b : Fin 2 := ⟨f 2 1 % 2, by omega⟩
  let held := fun (n : Nat) => if w n = 0 then none else some (w n - 1, match old with | some c => (match c.slot with | some q => q.2 | none => Tile.zero) | none => Tile.zero)
  (cmdOpOf (old.map (·.op)) (f 1 1) w).map fun op =>
    { op := op, bank := b, kind := StreamKind.ofCode (f 2 1 / 2), status := CmdStatus.ofCode (f 3 1), trapLevel := f 3 1 / 4 % 4, discard := (f 3 1).testBit 4,
      tok := ⟨BitVec.ofNat 4 (f 4 1), BitVec.ofNat 1 (f 5 1), BitVec.ofNat 2 (f 5 1 / 2)⟩, dn := BitVec.ofNat 4 (f 6 1), ret := f 8 4, tenant := acting,
      dual := match visit b, old with | some v, _ => v.dual | none, some c => c.dual | none, none => false,
      image := match visit b, old with | some v, _ => v.image | none, some c => c.image | none, none => 0,
      slot := match op with | .psend .. => held 2 | .precv .. => held 2 | _ => none }

/-- The commands of a queue and those that have left its head, each with its place. -/
def placedCmds (queue running : List Cmd) : List (Nat × Cmd) := running.map (fun c => (2, c)) ++ queue.map fun c => (1, c)
/-- The 16 records of a queue; each ends in the number of the snapshot that holds the rest of its command. -/
def queueBytes (halt : Halt) (queue running : List Cmd) (handle : Nat) : List Byte :=
  (List.range 16).flatMap fun i =>
    (match (placedCmds queue running)[i]? with | some (p, c) => cmdBytes halt p c | none => List.replicate 56 0) ++ leBytes 8 handle
/-- A queue as its records say, at the place that is asked for. -/
def queueLoad (acting : TenantId) (visit : Fin 2 → Option Visit) (queue running : List Cmd) (l : List Byte) (place : Nat) : List Cmd :=
  (List.range 16).filterMap fun i =>
    if fieldAt l (64 * i) 1 = place then cmdLoad acting visit ((placedCmds queue running)[i]?.map (·.2)) (bytesAt l (64 * i) 64) else none

/-- The halt of a wing as the record of its trapped M command says (R378); the banks that release it are the snapshot's, or its own. -/
def haltLoad (u : SuiteId) (held : List (SuiteId × Fin 2 × Nat)) (l : List Byte) : Halt :=
  match (List.range 16).find? fun i => fieldAt l (64 * i) 1 == 2 && fieldAt l (64 * i + 12) 1 != 0 with
  | none => Halt.reset
  | some i =>
    let f := fun n => fieldAt l (64 * i + n) 1
    { halted := true, cause := BitVec.ofNat 8 (f 12), row := BitVec.ofNat 7 (f 13), tile := BitVec.ofNat 5 (f 14), ftidx := BitVec.ofNat 4 (f 15),
      phase := f 15 / 16, since := 0, held := if held.isEmpty then [(u, ⟨f 2 % 2, by omega⟩, 1)] else held }

/-- What of a Suite core its records have no room for (log 18). -/
def snapOf (s : State) (u : SuiteId) : Snap :=
  let x := s.suite u
  let r := s.room u
  { lead := u, banks := x.banks, mq := x.mq, mrun := x.mrun, cqueue := x.cqueue, crun := x.crun, flags := x.flags, chanter := x.chanter,
    runs := r.runs, halt := r.halt }

/-- Whether an arrived Visit of the bank waits in a barrier (R265). -/
def hasArrived (b : Bank) : Bool := match b.sync with | .arrived .. => true | _ => false

/-- The Suite-core payload; `handle` names the snapshot in the queue records. -/
def corePayload (s : State) (u : SuiteId) (handle : Nat) : List Byte :=
  let x := s.suite u
  let b0 := x.banks.get 0
  let b1 := x.banks.get 1
  let fe := (List.finRange 48).foldl (fun acc t => if (x.flags.get t).full then acc + 2 ^ t.val else acc) 0
  let cnt := x.counters
  layOut 3206144 [(0, x.tiles.toList.zipIdx.flatMap fun (_, i) => bytesOfTile (readTile s u ⟨i % 48, by omega⟩)),
    (0x180000, x.masks.toList.flatMap fun m => m.toList.flatMap fun r => leBytes 32 r.toNat),
    (0x188000, bankPayload s u 0 ++ bankPayload s u 1),
    (0x18c000, leBytes 8 fe ++ words8 x.chanter.c.toList ++ leBytes 8 x.chanter.pos ++ leBytes 8 ((if x.chanter.busy then 1 else 0) + 2 * x.chanter.bank.val)),
    (0x18c058, leBytes 8 (b0.phase.toNat + 4 * b1.phase.toNat + (if hasArrived b0 then 16 else 0) + (if hasArrived b1 then 32 else 0))
      ++ leBytes 8 x.ologsp.toNat ++ leBytes 8 x.lastBank.val),
    (0x18c080, ((coreFlights x.banks aFlight).take 8).flatMap fun (b, f) => flightBytes s.cycle b f),
    (0x18c180, queueBytes (s.room u).halt x.mq x.mrun handle ++ queueBytes Halt.reset x.cqueue x.crun handle),
    (0x18d000, words8 ([x.l1mib.setWidth 64] ++ cnt.sel.toList.map (·.setWidth 64) ++ cnt.cnt.toList.map (·.setWidth 64)
      ++ [cnt.ovf.setWidth 64, x.dbgarm, x.wpaddr, x.wpctl])),
    (0x18e000, ((coreFlights x.banks xFlight).take 48).flatMap fun (b, f) => flightSlot s.cycle (x.banks.get b).fly b f)]

/-! ### The image (R304, R305, R313) -/

/-- The payload of a segment; a Suite core leaves a snapshot behind. -/
def payloadOf (s : State) (id : Nat) : List Byte × State :=
  let u := segRoom id
  let i := segIndex id
  match segClass id with
  | 0 => (pePayload (s.room u) i, s)
  | 1 => (feedPayload s u false, s)
  | 2 => (feedPayload s u true, s)
  | 3 => accPayload s u i
  | 4 => (controlPayload s u, s)
  | 5 => (corePayload s u (s.pkg.snaps.length + 1), s.modPkg fun p => { p with snaps := p.snaps ++ [snapOf s u] })
  | 6 => (lsPayload s u i, s)
  | _ => (doorPayload s u i, s)

/-- The beat field of a header: that of the stop of the segment's clock. -/
def headerBeat (s : State) (u : SuiteId) (cls : Nat) : Nat :=
  if cls = 5 ∨ cls = 6 then (s.suite u).stopBeat.toNat else (s.room u).stopBeat.toNat

/-- The header of an image (R305); `crc` is that of the payload, or its complement after a parity error (R411). -/
def headerBytes (s : State) (acting : TenantId) (e : SegEntry) (crc : W32) : List Byte :=
  let id := e.id.toNat
  let u := segRoom id
  layOut 64 [(0, leBytes 4 0x4e43534a ++ leBytes 2 1 ++ leBytes 2 (Config.layoutVersion (segClass id)) ++ leBytes 4 id ++ leBytes 1 (segClass id)
      ++ leBytes 1 ((if e.dead then 1 else 0) + (if segClass id = 5 ∧ (s.suite u).stopBound = true then 2 else 0)) ++ leBytes 1 acting.val
      ++ leBytes 1 (wingByte s u) ++ leBytes 4 (if e.dead then 0 else payloadBits id) ++ leBytes 4 (if e.dead then 0 else crc.toNat)
      ++ leBytes 8 (headerBeat s u (segClass id)) ++ leBytes 8 (s.suite u).ologsp.toNat)]

/-- The refusal of an image for a live entry, in the order of R313: VERSION 3, NOTOWN 1, CRC 4, SHAPE 5. -/
def imageStatus (s : State) (acting : TenantId) (e : SegEntry) (l : List Byte) : Option Nat :=
  let f := fieldAt l
  let id := e.id.toNat
  let u := segRoom id
  let dead := (f 0xd 1).testBit 0
  let pay := if dead then [] else l.drop 64
  let carried := fun (b : Nat) => f (64 + 0x188000 + 8192 * b + 0x1400) 4
  if f 0 4 ≠ 0x4e43534a ∨ f 4 2 ≠ 1 ∨ f 0x10 4 ≠ (if dead then 0 else payloadBits id) ∨ f 0xc 1 ≠ segClass id
      ∨ segIndex (f 8 4) ≠ segIndex id ∨ f 6 2 ≠ Config.layoutVersion (segClass id) then some 3
  else if f 0xe 1 ≠ acting.val then some 1
  else if (crc32c pay).toNat ≠ f 0x14 4 then some 4
  else if f 0xf 1 ≠ wingByte s u ∨ ((f 0xd 1).testBit 1 ∧ segRoom (f 8 4) ≠ u) then some 5
  else if segClass id = 5 ∧ !dead ∧ [0, 1].any (fun b => carried b != 0 && !(s.tenant acting).launches.any fun x => x.id.toNat == carried b) then some 5
  else none

/-! ### Loading (R296, R302, R314) -/

/-- Names in a snapshot move with the wing that is restored. -/
def shiftRoom (old new v : SuiteId) : SuiteId := ⟨(v.val + 64 + new.val - old.val) % 64, by omega⟩

/-- The Visit that a Suite-core image carries, bound to a Suite as a placed Visit of its launch (R314). Its envelope, the wing of its launch, moves with
the Suite; where the moved wing is none, the Suite's active wing is it (R316). -/
def carriedVisit (s : State) (acting : TenantId) (u from_ : SuiteId) (l : List Byte) (old : Option Visit) : Option Visit :=
  let id := fieldAt l 0x1400 4
  match (s.tenant acting).launches.find? fun x => x.id.toNat == id with
  | none => none
  | some x =>
    if id = 0 then none
    else
      let im := s.pkg.images[x.image]?
      let (lead, shape) := match old with
        | some v =>
          let at_ := shiftRoom from_ u v.lead
          if aligned at_ v.shape.val && (wingRooms at_ v.shape.val).contains u then (at_, v.shape) else (leadOf s u, (s.room u).wingShape)
        | none => (leadOf s u, (s.room u).wingShape)
      some
        { tenant := acting, launch := x.id, iter := fieldAt l 0x1408 8, image := x.image, dual := match im with | some i => i.dual | none => false,
          forced := match im with | some i => forcesInterlock i | none => false, lead := lead, shape := shape, scope := x.scope,
          stage := match old with | some v => v.stage | none => 0, viter := word8 l 0x1408 }

/-- A Visit that is bound elsewhere leaves the Suite that its image came from. -/
def dropOrigin (s : State) (from_ u : SuiteId) (v : Option Visit) : State :=
  match v with
  | none => s
  | some v =>
    if from_ = u then s
    else [(0 : Fin 2), 1].foldl (fun s b => match (s.bank (.bank from_ b)).visit with
      | some w => if w.tenant = v.tenant ∧ w.launch = v.launch ∧ w.iter = v.iter then s.setBank (.bank from_ b) Bank.reset else s
      | none => s) s

/-- The results in flight that an image holds, by bank (R291, R311, R314). -/
def loadFlights (now : Nat) (l : List Byte) (b : Fin 2) : List Flight :=
  let all := ((List.range 8).filterMap fun i => loadFlight now (bytesAt l (0x18c080 + 32 * i) 32))
    ++ (List.range 48).flatMap fun i => loadSlot now (bytesAt l (0x18e000 + 32832 * i) 32832)
  (all.filter fun q => q.1 == b).map (·.2)

/-- SCNIN of a Suite core. -/
def coreUnload (s : State) (acting : TenantId) (u from_ : SuiteId) (l : List Byte) : State :=
  let h := fieldAt l (0x18c180 + 56) 8
  let empty : Snap := ⟨u, Vector.replicate 2 Bank.reset, [], [], [], [], Vector.replicate 48 ⟨false, false, false, 0⟩, Chanter.reset, [], Halt.reset⟩
  let snap := if h = 0 then empty else s.pkg.snaps.getD (h - 1) empty
  let fe := fieldAt l 0x18c000 8
  let ph := fieldAt l 0x18c058 8
  let a := l.toArray
  let old := s.suite u
  let mrec := bytesAt l 0x18c180 1024
  let crec := bytesAt l 0x18c580 1024
  let bank := fun (b : Fin 2) =>
    let bytes := bytesAt l (0x188000 + 8192 * b.val) 8192
    let k := loadBank { snap.banks.get b with fly := loadFlights s.cycle l b } bytes (ph / 4 ^ b.val % 4)
    let sync := match k.sync with
      | .arrived d dn st ar => if ph.testBit (4 + b.val) then SyncState.arrived d dn st ar else .none
      | x => x
    { k with sync := sync, visit := carriedVisit s acting u from_ bytes (snap.banks.get b).visit }
  let c := fun (n : Nat) => word8 l (0x18d000 + 8 * n)
  let cmds := queueLoad acting fun b => (bank b).visit
  let x : Suite :=
    { old with
      banks := (old.banks.set 0 (bank 0)).set 1 (bank 1)
      tiles := Vector.ofFn fun t => tileOf a (32768 * t.val)
      masks := Vector.ofFn fun m => maskOf (bytesAt l (0x180000 + 4096 * m.val) 4096)
      flags := Vector.ofFn fun t => { snap.flags.get t with full := fe.testBit t.val }
      chanter := { snap.chanter with c := Vector.ofFn fun i => word8 l (0x18c008 + 8 * i.val), pos := fieldAt l 0x18c048 8,
                                     busy := (fieldAt l 0x18c050 1).testBit 0, bank := ⟨fieldAt l 0x18c050 1 / 2 % 2, by omega⟩ }
      ologsp := (word8 l 0x18c060).setWidth 48
      lastBank := ⟨fieldAt l 0x18c068 1 % 2, by omega⟩
      mq := cmds snap.mq snap.mrun mrec 1, mrun := cmds snap.mq snap.mrun mrec 2
      cqueue := cmds snap.cqueue snap.crun crec 1, crun := cmds snap.cqueue snap.crun crec 2
      l1mib := (c 0).setWidth 4
      counters := ⟨Vector.ofFn fun i => (c (1 + i.val)).setWidth 8, Vector.ofFn fun i => (c (9 + i.val)).setWidth 48,
                   (c 17).setWidth 8, Vector.replicate 8 0, Vector.replicate 8 false⟩
      dbgarm := c 18, wpaddr := c 19, wpctl := c 20
      snapIn := some h }
  let s1 := dropOrigin (dropOrigin s from_ u (bank 0).visit) from_ u (bank 1).visit
  let s2 := (s1.setSuite u x).modPkg fun p =>
    { p with flips := p.flips.filter fun e => match e with | .tile v _ _ _ => v != u | _ => true
             away := p.away.filter fun v => !([(0 : Fin 2), 1].any fun b => match (bank b).visit with
               | some w => w.tenant == v.tenant && w.launch == v.launch && w.iter == v.iter
               | none => false) }
  let halt := haltLoad u (snap.halt.held.map fun (v, b, n) => (shiftRoom snap.lead u v, b, n)) mrec
  let s3 := if leadOf s2 u = u then (members s2 u).foldl (fun s v => s.modRoom v fun y => { y with halt := halt }) s2 else s2
  l1Clear s3 u

/-- Loads a payload into a segment. -/
def unloadSeg (s : State) (acting : TenantId) (id : Nat) (from_ : SuiteId) (l : List Byte) : State :=
  let u := segRoom id
  let i := segIndex id
  match segClass id with
  | 0 => s.modRoom u fun x => peUnload x i l
  | 1 => s.modRoom u fun x => feedUnload x false l
  | 2 => s.modRoom u fun x => feedUnload x true l
  | 3 => (s.modRoom u fun x => accUnload x i l).modPkg fun p =>
      { p with flips := p.flips.filter fun e => match e with | .acc v k _ _ => !(v == u && k.val % 8 == i) | _ => true }
  | 4 => s.modRoom u fun x => controlUnload acting x l
  | 5 => coreUnload s acting u from_ l
  | 6 => lsUnload s u i l
  | _ => doorUnload s u i l

/-- SCNIN of one entry: a dead entry or image sets every bit to zero (R296, R313). -/
def loadEntry (s : State) (acting : TenantId) (e : SegEntry) (image : List Byte) : State :=
  let id := e.id.toNat
  let dead := e.dead || (fieldAt image 0xd 1).testBit 0
  let zeros := List.replicate (payloadBits id / 8) (0 : Byte)
  if dead then unloadSeg s acting id (segRoom id) zeros else unloadSeg s acting id (segRoom (fieldAt image 8 4)) (image.drop 64)

/-! ### The sequencer at a restart (R302, R318) -/

/-- A nest's beat-step number from the indices of an image. -/
def stepNumber (n : NestSet) (xs : List Nat) : Nat := nestIndex xs (nestTrips n)

/-- The A operand that PE (i, j) passes east, by lane and K-step, as the PEs and doorway latches hold it. -/
def passedA (s : State) (lead : SuiteId) (i j m : Nat) : W16 :=
  let x := s.room (roomAt lead (i / 128) (j / 128))
  let p := (x.pes.get ⟨i % 128, by omega⟩).get ⟨j % 128, by omega⟩
  let open_ := decide (j % 128 = 127) && decide (j / 128 + 1 < wingCols s lead)
  match m with
  | 0 => if open_ then (x.latchE.get ⟨i % 128, by omega⟩).extractLsb' 8 16 else p.a
  | m + 1 => if open_ then (x.latchX.get ⟨i % 128, by omega⟩).extractLsb' (16 * m) 16 else [p.ak1, p.ak2, p.ak3].getD m 0
/-- The B operand that PE (i, j) passes south. -/
def passedB (s : State) (lead : SuiteId) (i j : Nat) : W16 :=
  let x := s.room (roomAt lead (i / 128) (j / 128))
  if i % 128 = 127 ∧ i / 128 + 1 < wingRows s lead then (x.latchS.get ⟨j % 128, by omega⟩).extractLsb' 8 16
  else ((x.pes.get ⟨i % 128, by omega⟩).get ⟨j % 128, by omega⟩).b

/-- The bytes of a slice with the lanes that have entered the wing replaced by what the PEs hold. -/
def heldSlice (bytes : List Byte) (lane : Nat → Option (List Byte)) (w : Nat) : List Byte :=
  (List.range 128).flatMap fun i => (lane i).getD ((bytes.drop (w * i)).take w)

/-- A step in the wing takes its operands from the PEs and latches that hold them (R286, R308). -/
def heldStep (s : State) (lead : SuiteId) (beat : Nat) (t : StepRec) : StepRec :=
  let k := if t.cls = 3 then 4 else 1
  let age := beat - t.entry
  let laneA := fun (row i : Nat) =>
    let g := 128 * row + i
    if g < age ∧ age - g ≤ wingW s lead then
      some ((List.range k).flatMap fun m => leBytes 2 (passedA s lead g (age - g - 1) m).toNat)
    else none
  let laneB := fun (col j : Nat) =>
    let g := 128 * col + j
    if g < age ∧ age - g ≤ wingH s lead then some (leBytes 2 (passedB s lead (age - g - 1) g).toNat) else none
  { t with aSlices := t.aSlices.zipIdx.map fun (l, row) => heldSlice l (laneA row) (2 * k),
           bSlices := t.bSlices.zipIdx.map fun (l, col) => heldSlice l (laneB col) 2 }

/-- A nest or computation that a room-control image says runs, where no record of its M command has come: it completes no command. -/
def orphanRun (s : State) (lead : SuiteId) (drone : Bool) : WingRun :=
  let x := s.room lead
  let c : Cmd :=
    { op := if drone then .dstart x.drone.dcfg x.drone.dcfg2 else .mgo, bank := 0, kind := .a, tok := ⟨0, 0, 0⟩, dn := 0, ret := 0, status := .running,
      trapLevel := 0, discard := true, tenant := x.lastOwner.getD 0, dual := false, image := 0, slot := none }
  let beat := if drone then x.drone.dbeat.toNat else x.nbeat.toNat
  { newRun c drone x.active (if drone then 0 else nestTotal x.active) s.cycle with
    beat := beat, nextEntry := beat, ftNow := x.active.fmts.get 0, unitInt := ((x.pes.get 0).get 0).tag == 2 }

/-- The newest run with what a room-control image says of it: its tables, its next beat-step, and the beats since its unit's last one (R310). -/
def loadRun (x : Room) (w : Nat) (r : WingRun) (xs : List Nat) (flags since : Nat) : WingRun :=
  let set := if r.drone then { x.active with prog := r.set.prog, dbase := r.set.dbase } else x.active
  let r1 := { r with set := set }
  let done := flags.testBit 2 && since != 0
  let r2 := if r.drone then { r1 with nextStep := r.nextStep / 2 ^ 32 * 2 ^ 32 + xs.headD 0 }
    else if done then { r1 with nextStep := r.total } else { r1 with nextStep := stepNumber set xs }
  let entry := if since = 0 then min r.nextEntry r.beat else r.beat + w + 1 - since
  let units := if since = 0 then r.units
    else r.units.zipIdx.map fun (q, i) => if i + 1 = r.units.length then { q with drainAt := r.beat + w - since } else q
  { r2 with nextEntry := entry, units := units }

/-- The runs of a wing once its images have come: the records of running M commands come with the lead's Suite core, the newest one's progress with the
room control and the lead's A-feeder (R302, R310, R318). -/
def loadedRuns (s : State) (lead : SuiteId) (from_ : List WingRun) : List WingRun :=
  let x := s.room lead
  let runs := match x.seqIn with
    | none => x.runs
    | some (xs, flags, since) =>
      if flags % 4 = 0 then []
      else
        let l := if from_.isEmpty then [orphanRun s lead (flags.testBit 1)] else from_
        l.zipIdx.map fun (r, i) => if i + 1 = l.length then loadRun x (wingW s lead) r xs flags since else r
  let fed := fun (r : WingRun) => match x.feedA with
    | some (xs, _) =>
      if r.drone then r
      else
        let n := stepNumber r.set xs
        { r with staged := if n = 0 ∧ (0 < r.nextStep ∨ fullCount x.aFeed ≠ 0) then r.total else n }
    | none => r
  runs.zipIdx.map fun (r, i) => if i + 1 = runs.length then fed r else r

/-- How far a feeder that an image has loaded stands from the beat-step and the address that the newest nest gives it (R302, R309). -/
def feedShift (r : WingRun) (b : Bool) (q : List Nat × Nat) : Int × Int :=
  if r.drone ∨ r.total ≤ r.staged then (0, 0)
  else
    let n := stepNumber r.set q.1
    let xs := splitIndex (nestTrips r.set) n
    ((n : Int) - r.staged, (q.2 : Int) - if b then nestB r.set xs else nestA r.set xs)

/-- What the images loaded into a stopped wing make of its nests and drone computation when it restarts (R302). Every step in the wing takes its operands
from the PEs and latches; where nothing was loaded they hold what the step brought. -/
def settleWing (s : State) (lead : SuiteId) : State :=
  let snap? := match (s.suite lead).snapIn with | some h => if h = 0 then none else s.pkg.snaps[h - 1]? | none => none
  let runs := loadedRuns s lead (match snap? with | some p => p.runs | none => (s.room lead).runs)
  let s1 := s.modRoom lead fun x => { x with runs := runs.map fun r => { r with steps := r.steps.map (heldStep s lead r.beat) } }
  let s2 := match (s.room lead).seqIn with
    | none => s1
    | some _ =>
      modDrone s1 lead fun d => { d with feedOpen := openFeeds s1 lead d }
  (members s2 lead).foldl (fun s v =>
    (s.modRoom v fun x =>
      let shift := fun (b : Bool) (q : Option (List Nat × Nat)) (old : Int × Int) => match q, runs.getLast? with
        | some q, some r => feedShift r b q
        | _, _ => old
      { x with drone := if v = lead then x.drone else Drone.reset, seqIn := none, feedA := none, feedB := none, aShift := shift false x.feedA x.aShift, bShift := shift true x.feedB x.bShift }).modSuite v fun x =>
      { x with snapIn := none }) s2

end Sys2Proof.Machine
end

