-- ==== Sys2Proof/Machine/Scan.lean ====
section
/-! DEFINITION. The scan instructions and the scan controller: stops, restarts, shifts out and in, queries, damage and the end of commands by a
reset: spec/13_scan_segments.md R288-R303, spec/14_context_images.md R313-R319, spec/21_faults_scan_and_tenancy.md R409-R415. -/

namespace Sys2Proof.Machine

/-! ### Status codes (R298) -/

def stOk : Nat := 0
def stNotOwn : Nat := 1
def stBusy : Nat := 2
def stLive : Nat := 6
/-- A result word (R298). -/
def scanWord (status whr : Nat) : Word := BitVec.ofNat 64 (256 * whr + status)

/-! ### Issue (R299-R303) -/

/-- The acting tenant that tsel and a tenant field name (R294). -/
def actingOf (s : State) (c : CtxId) (tsel : Bool) (t : Nat) : TenantId :=
  if tsel then ⟨t % 64, Nat.mod_lt _ (by decide)⟩ else ctxTenant s c

/-- A command of the issuing context, not yet taken. -/
def newScan (op : ScanOp) (d : BitVec 5) (dn : BitVec 4) (rooms ctl : Word) (acting : TenantId) (buf : Word) (entries : List SegEntry) : ScanCmd :=
  { op := op, d := d, dn := dn, rooms := rooms, ctl := ctl, acting := acting, buf := buf, entries := entries, pendingStop := false,
    shifting := false, awaitStop := false, waitRun := false, ports := [], shifted := false, data := [], lines := [], bad := none }

/-- Fields of a[s2] of SCNSTOP and SCNRUN that are malformed (R300). -/
def stopMalformed (run : Bool) (rooms ctl : Word) : Bool :=
  let n := ctl.toNat
  let at_ := n.testBit 18
  rooms == 0 || (ctl &&& ~~~0xffffffff0007013f) != 0 || !(n.testBit 16 || n.testBit 17) || at_ != (n / 2 ^ 32 != 0) || (run && at_)
    || (!n.testBit 8 && n % 64 != 0)

/-- The plan of a command that names rooms or a segment in its registers. -/
def planScan (op : ScanOp) (d : BitVec 5) (dn : BitVec 4) (bad : Bool) (rooms ctl : Word) (entries : List SegEntry) (s : State) (ag : Agent) :
    Plan :=
  match ag.bank with
  | .bank .. => {}
  | .ctx c =>
    let tsel := ctl.getLsbD 8
    { trap := if bad then some (cILLFLD, 0) else if tsel && c != hypervisor then some (cPROT, 0) else none
      act := fun t => t.modCtx c fun x =>
        { x with scans := x.scans ++ [newScan op d dn rooms ctl (actingOf s c tsel (ctl.toNat % 64)) 0 entries] } }

/-- SCNSTOP (R300). -/
def execScnstop (d s1 s2 : BitVec 5) (dn : BitVec 4) (w : BitVec 4) (s : State) : Host.Outcome State Fault Refusal :=
  issue (.scnstop d s1 s2 dn w) w (fun s ag =>
    planScan .stop d dn (stopMalformed false (readA s ag s1) (readA s ag s2)) (readA s ag s1) (readA s ag s2) [] s ag) s

/-- SCNRUN (R300). -/
def execScnrun (d s1 s2 : BitVec 5) (dn : BitVec 4) (w : BitVec 4) (s : State) : Host.Outcome State Fault Refusal :=
  issue (.scnrun d s1 s2 dn w) w (fun s ag =>
    planScan .run d dn (stopMalformed true (readA s ag s1) (readA s ag s2)) (readA s ag s1) (readA s ag s2) [] s ag) s

/-- SCNQ (R303). -/
def execScnq (d s1 s2 : BitVec 5) (dn : BitVec 4) (w : BitVec 4) (s : State) : Host.Outcome State Fault Refusal :=
  issue (.scnq d s1 s2 dn w) w (fun s ag =>
    let a := (readA s ag s1).toNat
    let x := readA s ag s2
    planScan .query d dn (!segOk a || (x &&& ~~~0x13f) != 0 || (!x.getLsbD 8 && x.toNat % 64 != 0)) 0 x
      [⟨BitVec.ofNat 32 a, false⟩] s ag) s

/-- Whether bytes of memory are reached by an access now: the first fault with its address, a wait, or neither (R139). -/
def rangeAccess (s : State) (t : TenantId) (va n : Nat) (write : Bool) : Mres Unit × Nat :=
  if va / 2 ^ 52 ≠ 0 then (.fault cSEGNP, va)
  else
    match (getDesc s t (natBits va 36 16)).1 with
    | none => (.fault cSEGNP, va)
    | some d =>
      let seg := natBits va 36 16
      let off := va % 2 ^ 36
      let pages := (off + n - 1) / 65536 - off / 65536
      let offs := off :: (List.range pages).map fun i => (off / 65536 + i + 1) * 65536
      offs.foldl (fun acc o => match acc with
        | (.ok (), _) => (match (translate s t seg d o write).1 with
            | .ok _ => (.ok (), va)
            | .fault e => (.fault e, va - off + o)
            | .wait => (.wait, va))
        | other => other) (.ok (), va)

/-- What issue makes of a scan descriptor: a command, a trap, or a wait. -/
inductive Prepared where
  | cmd (acting : TenantId) (buf : Word) (entries : List SegEntry)
  | trap (cause : BitVec 8) (tval : Word)
  | hold
  deriving DecidableEq, Repr

/-- Reads bytes of the issuing context's memory at issue. -/
def prepRead (s : State) (t : TenantId) (va : Word) (align n : Nat) (k : List Byte → Prepared) : Prepared :=
  if va.toNat % align ≠ 0 then .trap cMISALIGN va
  else if va.toNat / 2 ^ 52 ≠ 0 then .trap cSEGNP va
  else
    match (loadVa s t va.toNat n).1 with
    | .ok l => k l
    | .fault e => .trap e (BitVec.ofNat 64 (match rangeAccess s t va.toNat n false with | (.fault _, a) => a | _ => va.toNat))
    | .wait => .hold

/-- The checks of a scan descriptor, its list and its buffer, in the order of R299. The buffer range of stage 1.4 is the bytes that the images need, not all
of buflen (DESIGN CHOICE, log 66: the manual does not say which). -/
def prepare (s : State) (c : CtxId) (out : Bool) (va : Word) : Prepared :=
  let t := ctxTenant s c
  prepRead s t va 8 32 fun l =>
    let count := fieldAt l 0x18 2
    let flags := fieldAt l 0x1b 1
    let tsel := flags.testBit 0
    let ten := fieldAt l 0x1a 1
    if flags / 2 ≠ 0 ∨ fieldAt l 0x1c 4 ≠ 0 ∨ count = 0 ∨ 1024 < count ∨ (tsel ∧ 64 ≤ ten) then .trap cILLFLD 0
    else if tsel ∧ c ≠ hypervisor then .trap cPROT 0
    else
      prepRead s t (word8 l 0) 4 (4 * count) fun ids =>
        let es : List SegEntry := (List.range count).map fun i =>
          let v := fieldAt ids (4 * i) 4
          ⟨BitVec.ofNat 32 (v / 2 * 2), v.testBit 0⟩
        let need := es.foldl (fun n e => n + imageSize e) 0
        let buf := word8 l 8
        if !(es.all fun e => segOk e.id.toNat) || !(es.map (·.id)).Nodup then .trap cILLFLD 0
        else if fieldAt l 0x10 8 < need then .trap cILLFLD 0
        else if buf.toNat % 64 ≠ 0 then .trap cMISALIGN buf
        else
          match rangeAccess s t buf.toNat need out with
          | (.fault e, a) => .trap e (BitVec.ofNat 64 a)
          | (.wait, _) => .hold
          | (.ok (), _) => .cmd (actingOf s c tsel ten) buf es

/-- The plan of SCNOUT and SCNIN. -/
def planTransfer (out : Bool) (d : BitVec 5) (dn : BitVec 4) (va : Word) (s : State) (ag : Agent) : Plan :=
  match ag.bank with
  | .bank .. => {}
  | .ctx c =>
    match prepare s c out va with
    | .hold => { hold := some holdPlain }
    | .trap e v => { trap := some (e, v) }
    | .cmd t buf es =>
      { act := fun x => x.modCtx c fun y => { y with scans := y.scans ++ [newScan (if out then .out else .inp) d dn 0 0 t buf es] } }

/-- SCNOUT (R301, R302). -/
def execScnout (d s1 : BitVec 5) (dn : BitVec 4) (w : BitVec 4) (s : State) : Host.Outcome State Fault Refusal :=
  issue (.scnout d s1 dn w) w (fun s ag => planTransfer true d dn (readA s ag s1) s ag) s

/-- SCNIN (R301, R302). -/
def execScnin (d s1 : BitVec 5) (dn : BitVec 4) (w : BitVec 4) (s : State) : Host.Outcome State Fault Refusal :=
  issue (.scnin d s1 dn w) w (fun s ag => planTransfer false d dn (readA s ag s1) s ag) s

/-! ### What is stopped, held or shifting -/

/-- Whether a stream of the bank has issued a variable-latency result that has not landed (R291). -/
def bankQuiet (s : State) (u : SuiteId) (b : Fin 2) : Bool :=
  let k := (s.suite u).banks.get b
  let blocked := fun (e : QEntry) => k.lq.any fun f => (match f.op with | .waita .. => true | _ => false) && decide (f.seq < e.seq)
  (k.lq.all fun e => (match e.op with | .waita .. => true | _ => false) || blocked e) && k.sq.all (fun e => blocked e && !mayPerform k e)
    && k.divs.isEmpty && k.prefetch.isEmpty && !(k.fly.any (·.var))
    && !((List.finRange 64).any fun v => v == u && (s.room v).atomics.any fun a => a.bank == b && !a.ordered)

/-- A Suite core whose stop is complete (R291, R298). -/
def coreStopped (s : State) (u : SuiteId) : Bool :=
  (s.suite u).stopped && bankQuiet s u 0 && bankQuiet s u 1 && (s.suite u).leftover.isEmpty

/-- A stopped segment (R298): classes 5 and 6 follow the core clock, the others the room clock (R285). -/
def segStopped (s : State) (id : Nat) : Bool :=
  if segClass id = 5 ∨ segClass id = 6 then coreStopped s (segRoom id) else (s.room (segRoom id)).stopped

def maskRooms (m : Word) : List SuiteId := (List.finRange 64).filter fun u => m.getLsbD u.val
def roomsMask (l : List SuiteId) : Word := l.foldl (fun (m : Word) u => m ||| (1 <<< u.val)) 0

/-- A pending beat stop of another context holds a room (R300). -/
def heldByStop (s : State) (c : CtxId) (u : SuiteId) : Bool :=
  (List.finRange 128).any fun k => k != c && (s.ctx k).scans.any fun x => x.pendingStop && x.rooms.getLsbD u.val

/-- A command of another context shifts a segment that `p` selects; a dead entry uses no flue (R296). -/
def flueBusy (s : State) (c : CtxId) (p : Nat → Bool) : Bool :=
  (List.finRange 128).any fun k => k != c && (s.ctx k).scans.any fun x => x.shifting && x.entries.any fun e => !e.dead && p e.id.toNat

/-! ### Completion (R297) -/

/-- The n-th command of a context completes: its result word at the end of the cycle, its done increment and its event. -/
def finishScan (s : State) (c : CtxId) (n : Nat) (word : Word) : State :=
  match (s.ctx c).scans[n]? with
  | none => s
  | some x =>
    let s1 := landLater (s.modCtx c fun y => { y with scans := y.scans.eraseIdx n }) (.ctx c) .a [.a x.d word]
    let s2 := doneFor s1 (.ctx c) .a x.dn
    if x.op = .query then s2 else postEvent s2 c evScan x.acting.val (256 + c.val) (word.setWidth 128)

/-- A command that completes with a trap of its issuing stream: the result word is written first, and the stream takes the trap at the
first instruction that it has not issued (R412, R414). -/
def finishTrapped (s : State) (c : CtxId) (n : Nat) (cause : BitVec 8) (tval : Nat) : State :=
  match (s.ctx c).scans[n]? with
  | none => s
  | some x =>
    let word := scanWord stOk 0
    let s1 := writeA (s.modCtx c fun y => { y with scans := y.scans.eraseIdx n }) ⟨.ctx c, .a⟩ x.d word
    let s2 := postEvent (doneFor s1 (.ctx c) .a x.dn) c evScan x.acting.val (256 + c.val) (word.setWidth 128)
    let st := s2.stream ⟨.ctx c, .a⟩
    if st.running then stewardTrap s2 c .a ⟨cause, 3, 0, 0, BitVec.ofNat 28 st.pos, BitVec.ofNat 64 tval⟩ else s2

def modScan (s : State) (c : CtxId) (n : Nat) (f : ScanCmd → ScanCmd) : State :=
  s.modCtx c fun y => { y with scans := y.scans.modify n f }

/-- Whether every core that a stop names has come to rest; one that a later command has started again had done so or need not any more. -/
def stopDone (s : State) (x : ScanCmd) : Bool :=
  !x.ctl.getLsbD 17 || (maskRooms x.rooms).all fun u => coreStopped s u || (!(s.suite u).stopped && !(s.pkg.stopReq.any fun q => q.1 == u && q.2.2))

/-- Stops of a context that are complete leave, in order; an immediate one passes the commands that stand behind the pending one (R297, R300). -/
def settleStops (c : CtxId) : Nat → State → State
  | 0, s => s
  | n + 1, s =>
    match (s.ctx c).scans.findIdx? (·.awaitStop) with
    | some i =>
      match (s.ctx c).scans[i]? with
      | some x => if stopDone s x then settleStops c n (finishScan s c i (scanWord stOk 0)) else s
      | none => s
    | none => s

/-- The clocks that a stop command names stop at the end of this cycle. -/
def stopNamed (s : State) (x : ScanCmd) : State := requestStop s (maskRooms x.rooms) (x.ctl.getLsbD 16) (x.ctl.getLsbD 17)

/-! ### SCNSTOP (R295, R297, R300) -/

/-- The first named room that decides a refusal, with its status: NOTOWN before BUSY (R299). -/
def roomRefusal (s : State) (c : CtxId) (x : ScanCmd) (rooms : List SuiteId) : Option (Nat × Nat) :=
  match (maskRooms x.rooms).find? fun u => !owns s x.acting u with
  | some u => some (stNotOwn, u.val)
  | none =>
    match rooms.find? fun u => heldByStop s c u || (x.op == .run && flueBusy s c fun id => segRoom id == u) with
    | some u => some (stBusy, u.val)
    | none => none

/-- The controller takes the n-th command, a SCNSTOP. -/
def takeStop (s : State) (c : CtxId) (n : Nat) (x : ScanCmd) : State :=
  let rooms := extendRooms s (maskRooms x.rooms)
  match roomRefusal s c x rooms with
  | some (st, whr) => finishScan s c n (scanWord st whr)
  | none =>
    let x1 := { x with rooms := roomsMask rooms }
    if x.ctl.getLsbD 18 then modScan s c n fun _ => { x1 with pendingStop := true }
    else
      let pend := (s.ctx c).scans.filter (·.pendingStop)
      let s1 := pend.foldl stopNamed (stopNamed s x1)
      let s2 := s1.modCtx c fun y =>
        { y with scans := (y.scans.set n { x1 with awaitStop := true }).map fun z =>
            if z.pendingStop then { z with pendingStop := false, awaitStop := true } else z }
      settleStops c 2 s2

/-! ### SCNRUN (R300, R317, R413, R414) -/

/-- A format table that names code 9, CB4. -/
def namesCb4 (n : NestSet) : Bool := n.fmts.toList.any fun e => natBits e.toNat 4 4 == 9 || natBits e.toNat 8 4 == 9

/-- A room whose restored control state, its own or its wing's, uses a feature that is not accepted (R414). -/
def usesUnaccepted (s : State) (u : SuiteId) : Bool :=
  let x := s.room u
  (!featOn s 0 && [x.drone, (s.room (leadOf s u)).drone].any fun d => d.active || !d.queue.isEmpty)
    || (!featOn s 1 && (namesCb4 x.active || namesCb4 (x.shadow.get 0) || namesCb4 (x.shadow.get 1)))

/-- The rooms that a SCNRUN restarts, and the room for which it raises SCNVER. -/
def runRooms (s : State) (x : ScanCmd) : List SuiteId × Option SuiteId :=
  let rooms := extendRooms s (maskRooms x.rooms)
  let damagedLeads := (rooms.filter fun u => !(s.room u).damaged.isEmpty).map (leadOf s)
  let bad := if x.ctl.getLsbD 16 then rooms.filter fun u => (s.room u).stopped && usesUnaccepted s u && !damagedLeads.contains (leadOf s u) else []
  let skip := damagedLeads ++ bad.map (leadOf s)
  (rooms.filter fun u => !skip.contains (leadOf s u), bad.head?)

/-- The controller takes the n-th command, a SCNRUN: it is refused, or waits for its phase. -/
def takeRun (s : State) (c : CtxId) (n : Nat) (x : ScanCmd) : State :=
  match roomRefusal s c x (extendRooms s (maskRooms x.rooms)) with
  | some (st, whr) => finishScan s c n (scanWord st whr)
  | none => modScan s c n fun x => { x with waitRun := true }

/-- SCNRUN_RESTART: in the first cycle of the right phase the named clocks restart together and the command completes (R317). -/
def execScnrunRestart (c : CtxId) (s : State) : Host.Outcome State Fault Refusal :=
  .next <|
    match (s.ctx c).scans with
    | [] => s
    | x :: _ =>
      let (rooms, ver) := runRooms s x
      let clocks := if x.ctl.getLsbD 16 then rooms.filter fun u => (s.room u).stopped else []
      let due := match clocks.head? with
        | some u => rcycOf s u % 8 == ((s.room u).rphase.toNat + 1) % 8
        | none => true
      if !x.waitRun || !due then s
      else
        let leads := ((if x.ctl.getLsbD 17 then rooms else clocks).map (leadOf s)).dedup
        let s1 := leads.foldl settleWing s
        let s2 := clocks.foldl (fun s u => s.modRoom u fun r => { r with stopped := false }) s1
        let s3 := if x.ctl.getLsbD 17 then rooms.foldl (fun s u => s.modSuite u fun y => { y with stopped := false }) s2 else s2
        match ver with
        | some u => finishTrapped s3 c 0 cSCNVER (segId u 4 0)
        | none => finishScan s3 c 0 (scanWord stOk 0)

/-! ### SCNOUT and SCNIN (R299, R302, R313) -/

/-- A line of an image buffer as the controller reads it through the slice port, under the buckets of the acting tenant (R290, R325): none while it must
wait; a byte that cannot be read any longer is a free value (log 11). -/
def bufferLine (s : State) (c : CtxId) (acting : TenantId) (va : Nat) : Option (List Byte) × State :=
  match loadVaBy s (.scan c) acting (ctxTenant s c) va 64 with
  | (.ok l, s1) => (some l, s1)
  | (.wait, s1) => (none, s1)
  | (.fault _, s1) => (some ((List.range 64).map fun i => Config.freeByte s1.fresh i 2), { s1 with fresh := s1.fresh + 1 })

/-- Lines of images are written one after another, each once the port has granted it; answers those that still wait (R290, R302). -/
def writeLines (c : CtxId) (acting : TenantId) : List (Nat × List Byte) → State → List (Nat × List Byte) × State
  | [], s => ([], s)
  | (va, l) :: rest, s =>
    match storeVaBy s (.scan c) acting (ctxTenant s c) va l (256 + c.val) with
    | (.wait, s1) => ((va, l) :: rest, s1)
    | (_, s1) => writeLines c acting rest s1

/-- The 64-byte lines of some bytes at an address. -/
def linesOf (va : Nat) (l : List Byte) : List (Nat × List Byte) :=
  (List.range ((l.length + 63) / 64)).map fun i => (va + 64 * i, (l.drop (64 * i)).take 64)

/-- The offset of each entry's image in the buffer, and the flue cycles of its Suite that come before it (R290, R301). -/
def entryPlaces (es : List SegEntry) : List (SegEntry × Nat × Nat) :=
  es.zipIdx.map fun (e, i) =>
    let before := es.take i
    (e, before.foldl (fun n x => n + imageSize x) 0,
      before.foldl (fun n x => if segRoom x.id.toNat = segRoom e.id.toNat then n + flueTime x else n) 0)

/-- Flue cycles of a Suite's entries in a list, and what each Suite's port has to do for it (R290). -/
def suiteSpan (es : List SegEntry) (u : SuiteId) : Nat := es.foldl (fun n e => if segRoom e.id.toNat = u then n + flueTime e else n) 0
def shiftPorts (es : List SegEntry) : List (SuiteId × Nat) :=
  ((es.map fun e => segRoom e.id.toNat).dedup).map fun u => (u, suiteSpan es u)

/-- Flue cycles that a command has had at the port of a Suite. -/
def ScanCmd.doneAt (x : ScanCmd) (u : SuiteId) : Nat :=
  suiteSpan x.entries u - (match x.ports.find? fun p => p.1 == u with | some p => p.2 | none => 0)

/-- The entry that decides a refusal, each check over every entry (R299). -/
def transferRefusal (s : State) (c : CtxId) (x : ScanCmd) (images : List (List Byte)) : Option (Nat × Nat) :=
  let first := fun (p : SegEntry → Bool) => x.entries.findIdx? p
  match first fun e => !owns s x.acting (segRoom e.id.toNat) with
  | some i => some (stNotOwn, i)
  | none =>
    match first fun e => flueBusy s c (fun id => id == e.id.toNat) || heldByStop s c (segRoom e.id.toNat) with
    | some i => some (stBusy, i)
    | none =>
      match first fun e => !segStopped s e.id.toNat with
      | some i => some (stLive, i)
      | none =>
        ((x.entries.zip images).zipIdx).findSome? fun ((e, l), i) =>
          if e.dead then none else (imageStatus s x.acting e l).map fun st => (st, i)

/-- The lines of the images that SCNIN reads, dead entries apart (R296), and the images that they hold. -/
def imageLines (x : ScanCmd) : List Nat :=
  (entryPlaces x.entries).flatMap fun (e, off, _) => if e.dead then [] else (List.range (imageSize e / 64)).map fun i => x.buf.toNat + off + 64 * i
def splitImages : List SegEntry → List (List Byte) → List (List Byte)
  | [], _ => []
  | e :: es, l => if e.dead then [] :: splitImages es l else (l.take (imageSize e / 64)).flatten :: splitImages es (l.drop (imageSize e / 64))

/-- The images' lines, each read once (R313), as far as the port grants them in this cycle. -/
def readImages (c : CtxId) (acting : TenantId) : List Nat → State → List (List Byte) × State
  | [], s => ([], s)
  | va :: rest, s =>
    match bufferLine s c acting va with
    | (none, s1) => ([], s1)
    | (some l, s1) => let (ls, s2) := readImages c acting rest s1; (l :: ls, s2)

/-- The controller takes the n-th command, a SCNOUT or SCNIN; SCNIN reads its images once the command itself is not refused. -/
def takeTransfer (s : State) (c : CtxId) (n : Nat) (x : ScanCmd) : State :=
  match transferRefusal s c x [] with
  | some (st, whr) => finishScan s c n (scanWord st whr)
  | none =>
    let todo := if x.op = .inp then (imageLines x).drop x.data.length else []
    let (got, s1) := readImages c x.acting todo s
    let data := x.data ++ got
    if got.length < todo.length then modScan s1 c n fun x => { x with data := data }
    else
      match if x.op = .inp then transferRefusal s1 c x (splitImages x.entries data) else none with
      | some (st, whr) => finishScan s1 c n (scanWord st whr)
      | none => modScan s1 c n fun x => { x with shifting := true, ports := shiftPorts x.entries, data := data }

/-- Whether a command's flue of a segment shifts in this cycle: the segment's turn on its Suite's port has come and is not over (R290, R303). -/
def flueShifts (y : ScanCmd) (id : Nat) : Bool :=
  y.shifting && (entryPlaces y.entries).any fun (e, _, before) =>
    e.id.toNat == id && decide (before ≤ y.doneAt (segRoom id)) && decide (y.doneAt (segRoom id) < before + flueTime e)

/-- SCNQ (R303). -/
def takeQuery (s : State) (c : CtxId) (n : Nat) (x : ScanCmd) : State :=
  let id := match x.entries with | e :: _ => e.id.toNat | [] => 0
  let u := segRoom id
  let pend := (List.finRange 128).any fun k => (s.ctx k).scans.any fun y => y.pendingStop && y.rooms.getLsbD u.val
  let flue := (List.finRange 128).any fun k => (s.ctx k).scans.any fun y => flueShifts y id
  let word := if !owns s x.acting u then scanWord stNotOwn 0
    else BitVec.ofNat 64 (2 ^ 32 * payloadBits id + (if pend then 1024 else 0) + (if flue then 512 else 0) + (if segStopped s id then 256 else 0))
  finishScan s c n word

/-- SCAN_CONTROLLER_TAKE: the controller takes a context's next command, or the immediate SCNSTOP that may pass a pending beat stop (R297). -/
def execScanControllerTake (c : CtxId) (s : State) : Host.Outcome State Fault Refusal :=
  .next <|
    match (s.ctx c).scans with
    | [] => s
    | x :: rest =>
      if x.pendingStop then
        match rest.findIdx? fun y => y.op == .stop && !y.ctl.getLsbD 18 && !y.taken with
        | some i => match rest[i]? with | some y => takeStop s c (i + 1) y | none => s
        | none => s
      else if x.taken then s
      else
        match x.op with
        | .stop => takeStop s c 0 x
        | .run => takeRun s c 0 x
        | .out | .inp => takeTransfer s c 0 x
        | .query => takeQuery s c 0 x

/-- Whether the beat count of a named room became n in this cycle: NBEAT while a nest runs, DBEAT of its wing in drone mode (R292, R300). -/
def beatReached (s : State) (n : Nat) (u : SuiteId) : Bool :=
  let l := s.room (leadOf s u)
  (s.room u).beatNow && (s.room u).nbeat.toNat == n || (l.beatNow && l.nbeat == 0 && l.drone.dbeat.toNat == n)

/-- BEAT_STOP: the pending stop stops every named clock at the end of the cycle in which its count is reached (R300). -/
def execBeatStop (c : CtxId) (s : State) : Host.Outcome State Fault Refusal :=
  .next <|
    match (s.ctx c).scans with
    | x :: _ =>
      if x.pendingStop && (maskRooms x.rooms).any (beatReached s (x.ctl.toNat / 2 ^ 32)) then
        settleStops c 2 (modScan (stopNamed s x) c 0 fun y => { y with pendingStop := false, awaitStop := true })
      else s
    | [] => s

/-- CORE_STOP_COMPLETE: a stop completes when the last result of every named core has landed (R291, R300). -/
def execCoreStopComplete (c : CtxId) (s : State) : Host.Outcome State Fault Refusal := .next (settleStops c 2 s)

/-! ### Shifts and damage (R302, R411-R413) -/

/-- A flue parity error is counted, in every tenant's errs too (R432), and damages its segment. -/
def damageSeg (s : State) (id : Nat) : State :=
  ((countErr s fun _ => true).modRoom (segRoom id) fun x => { x with damaged := if x.damaged.contains id then x.damaged else x.damaged ++ [id] }).modPkg fun p =>
    let n := min 0xffff (natBits p.scnerr.toNat 16 16 + 1)
    { p with scnerr := BitVec.ofNat 64 (2 ^ 32 * id + 2 ^ 16 * n + 1) }
def healSeg (s : State) (id : Nat) : State := s.modRoom (segRoom id) fun x => { x with damaged := x.damaged.filter (· != id) }

/-- The parity errors that strike the next shift of a segment; the shift consumes them. -/
def flueErrors (s : State) (id : Nat) : Nat × State :=
  let hit := fun (e : ErrSite) => match e with | .flue g => g.toNat == id | _ => false
  (s.pkg.flips.countP hit, s.modPkg fun p => { p with flips := p.flips.filter fun e => !hit e })
/-- Each of n parity errors is counted (R412). -/
def damageTimes (s : State) (id n : Nat) : State := (List.range n).foldl (fun s _ => damageSeg s id) s

/-- What is received of a payload when a beat fails: that beat, whichever it is, holds free values (R411, log 13). -/
def receiveBeat (s : State) (l : List Byte) : List Byte × State :=
  let (k, s1) := chooseBelow s (l.length / 32)
  (l.zipIdx.map fun (b, i) => if i / 32 = k then Config.freeByte s1.fresh i 1 else b, s1)

/-- One entry is shifted: SCNOUT gives the lines of its payload and then of its header, SCNIN loads its image. A dead entry shifts nothing, so that it ends no
damage (R296, R413). The Bool says whether parity failed. -/
def shiftEntry (s : State) (x : ScanCmd) (e : SegEntry) (off : Nat) (image : List Byte) : Bool × List (Nat × List Byte) × State :=
  let id := e.id.toNat
  let va := x.buf.toNat + off
  if e.dead then
    if x.op = .out then (false, linesOf va (headerBytes s x.acting e 0), s) else (false, [], loadEntry s x.acting e [])
  else
    let (n, s1) := flueErrors s id
    if x.op = .out then
      let (pay, s2) := payloadOf s1 id
      let (got, s3) := if n ≠ 0 then receiveBeat s2 pay else (pay, s2)
      let s4 := if n ≠ 0 then damageTimes (unloadSeg s3 x.acting id (segRoom id) got) id n else s3
      let crc := if n ≠ 0 then ~~~(crc32c got) else crc32c got
      (n != 0, linesOf (va + 64) got ++ linesOf va (headerBytes s4 x.acting e crc), s4)
    else
      let (got, s2) := if n ≠ 0 then receiveBeat s1 (image.drop 64) else (image.drop 64, s1)
      let s3 := loadEntry s2 x.acting e (image.take 64 ++ got)
      (n != 0, [], if n ≠ 0 then damageTimes s3 id n else healSeg s3 id)

/-- Shifts the entries that `p` selects; answers the first damaged id and the lines to write. -/
def shiftEntries (s : State) (x : ScanCmd) (p : SegEntry → Nat → Bool) : Option Nat × List (Nat × List Byte) × State :=
  let images := splitImages x.entries x.data
  ((entryPlaces x.entries).zipIdx).foldl (fun (acc : Option Nat × List (Nat × List Byte) × State) ((e, off, before), i) =>
    if p e before then
      let (err, l, s1) := shiftEntry acc.2.2 x e off (images.getD i [])
      (if err && acc.1.isNone then some e.id.toNat else acc.1, acc.2.1 ++ l, s1)
    else acc) (none, [], s)

/-- Whether a command of a context has the port of a Suite in this cycle: the commands of several contexts share it, and the one of the lowest context goes
first (R290; DESIGN CHOICE, log 31). -/
def portMine (s : State) (c : CtxId) (u : SuiteId) : Bool :=
  (List.finRange 128).all fun k => decide (c.val ≤ k.val) ||
    match (s.ctx k).scans with | y :: _ => !(y.shifting && y.ports.any fun p => p.1 == u && p.2 != 0) | [] => true

/-- SCAN_SHIFT_COMPLETION: the flues shift on; once they are done the images are loaded, or written line by line, and the command completes at a freely
chosen time (log 7). A parity error then raises SCNCRC (R412). -/
def execScanShiftCompletion (c : CtxId) (s : State) : Host.Outcome State Fault Refusal :=
  .next <|
    match (s.ctx c).scans with
    | [] => s
    | x :: _ =>
      if !x.shifting then s
      else if x.ports.any (fun p => p.2 != 0) then
        modScan s c 0 fun y => { y with ports := y.ports.map fun p => if portMine s c p.1 then (p.1, p.2 - 1) else p }
      else if !x.shifted then
        let (k, s1) := chooseBelow s 2
        if k ≠ 0 then s1
        else
          let (bad, l, s2) := shiftEntries s1 x fun _ _ => true
          modScan s2 c 0 fun y => { y with shifted := true, lines := l, bad := bad }
      else
        match writeLines c x.acting x.lines s with
        | ([], s1) =>
          match x.bad with
          | some id => finishTrapped s1 c 0 cSCNCRC id
          | none => finishScan s1 c 0 (scanWord stOk 0)
        | (l, s1) => modScan s1 c 0 fun y => { y with lines := l }

/-! ### Resets and damage cleared by hand (R410, R413, R415) -/

/-- Whether a command names a room that a reset acts on. -/
def scanNames (s : State) (x : ScanCmd) (rooms : List SuiteId) : Bool :=
  (extendRooms s (maskRooms x.rooms)).any rooms.contains || x.entries.any fun e => rooms.contains (segRoom e.id.toNat)

/-- One command is ended by a reset: a pending beat stop with OK and its rooms stopped, unless the reset is a die's; any other BUSY and where 0xffff once the
segments begun have shifted whole and their lines, with those that still waited for the port, are written (R410, R415). -/
def endScan (s : State) (die : Bool) (c : CtxId) (n : Nat) (x : ScanCmd) : State :=
  if x.pendingStop && !die then
    finishScan ((maskRooms x.rooms).foldl (fun s u => stopClocks s u (x.ctl.getLsbD 16) (x.ctl.getLsbD 17)) s) c n (scanWord stOk 0)
  else
    let (l, s1) :=
      if !x.shifting then ([], s)
      else if x.shifted then (x.lines, s)
      else (shiftEntries s x fun e before => decide (before ≤ x.doneAt (segRoom e.id.toNat))).2
    let s2 := l.foldl (fun s (va, b) => (storeVa s (ctxTenant s c) va b (256 + c.val)).2) s1
    finishScan s2 c n (scanWord stBusy 0xffff)

/-- Every scan command that names one of the rooms ends, whichever context issued it (R410, R415). -/
def endScans (s : State) (die : Bool) (rooms : List SuiteId) : State :=
  (List.finRange 128).foldl (fun s c =>
    (s.ctx c).scans.zipIdx.reverse.foldl (fun s (x, n) => if scanNames s x rooms then endScan s die c n x else s) s) s

/-- SCNDMG_CLEAR: the hypervisor lets damaged rooms restart (R413). -/
def execScndmgClear (v : Word) (s : State) : Host.Outcome State Fault Refusal :=
  .next ((maskRooms v).foldl (fun s u => s.modRoom u fun x => { x with damaged := [] }) s)

end Sys2Proof.Machine
end

