-- ==== Sys2Proof/Machine/Launches.lean ====
section
/-! DEFINITION. Launch queues: submission, readiness, ageing, completion and failure of launches, and the walker's order of iterations:
spec/01_execution_model.md R20-R28, R36-R41, spec/15_tenancy_and_service.md R322-R323, spec/17_faults_execution.md R361-R362. -/

namespace Sys2Proof.Machine

/-! ### Launch records (R20-R22) -/

/-- The walker's levels from the perm entries still to read, outermost first; none where the list is malformed (R22). -/
def permLevels (nlev total : Nat) (kinds : List Nat) : List Nat → List Nat → Option (List Nat)
  | [], taken => if taken.length = total then some taken else none
  | e :: rest, taken =>
    if taken.length = total then (if e = 0 ∧ rest.all (· == 0) then some taken else none)
    else if nlev ≤ e ∨ taken.contains e then none
    else if kinds.getD e 0 = 0 then permLevels nlev total kinds rest taken
    else permLevels nlev total kinds rest (taken ++ [e])

/-- Dies on which a tenant owns rooms, ascending (R22, R27). -/
def ownedDies (s : State) (t : TenantId) : List Nat :=
  (List.range 4).filter fun d => (List.finRange 64).any fun u => dieOf u == d && owns s t u

/-- A launch from its record; none where a field breaks R20-R22. The image and the sequence number are filled in at acceptance. -/
def parseLaunch (s : State) (t : TenantId) (l : List Byte) : Option Launch :=
  let f := fieldAt l
  let ctl := f 7 1
  let nlev := f 9 1
  let kw := f 0xa 2
  let kinds := (List.range 6).map fun i => natBits kw (2 * i) 2
  let perm := (List.range 6).map fun i => natBits (f 0xc 4) (15 - 3 * i) 3
  let trips := (List.range 6).map fun i => f (0x20 + 4 * i) 4
  let total := (kinds.filter (· ≠ 0)).length
  let dlev := kinds.findIdx? (· == 2)
  let dOk := match dlev with | some i => decide (trips.getD i 0 ≤ (ownedDies s t).length) | none => true
  if !(bytesAt l 0x38 8 ++ bytesAt l 0x50 48).all (· == 0) ∨ ctl.testBit 7 ∨ natBits ctl 5 2 = 3 ∨ 8 < f 8 1 ∨ nlev = 0 ∨ 6 < nlev
      ∨ kw / 2 ^ 12 ≠ 0 ∨ kinds.contains 3 ∨ (kinds.drop nlev).any (· ≠ 0) ∨ natBits (f 0xc 4) 18 14 ≠ 0 ∨ 1 < (kinds.filter (· == 2)).length
      ∨ !dOk then none
  else
    match permLevels nlev total kinds perm [] with
    | none => none
    | some levels =>
      some
        { id := BitVec.ofNat 32 (f 0 4), imageSeg := f 4 2, image := 0, prio := ctl % 16, slice := ctl.testBit 4,
          scope := BitVec.ofNat 2 (ctl / 32), shape := ⟨f 8 1 % 9, Nat.mod_lt _ (by decide)⟩, nlev := nlev, kinds := kinds, levels := levels,
          trips := trips, param := word8 l 0x10, affinity := word8 l 0x18,
          deps := ((List.range 4).map fun i => BitVec.ofNat 32 (f (0x40 + 4 * i) 4)).filter (· ≠ 0), seq := 0, ready := false,
          effPrio := ctl % 16, readyClk := 0, todo := (levels.map fun i => trips.getD i 0).foldl (· * ·) 1, again := [], slices := [],
          slicedD := [], dDies := [], retired := 0, gone := 0, failed := false, barriers := 0 }

/-! ### Iterations (R23, R24, R27) -/

/-- The iteration count N (R23). -/
def Launch.total (x : Launch) : Nat := (x.levels.map fun i => x.trips.getD i 0).foldl (· * ·) 1
/-- Iterations not placed now: those never placed and those that an abort gave back. -/
def Launch.unplaced (x : Launch) : Nat := x.todo + x.again.length + x.slices.foldl (fun n y => n + y.again.length) 0
/-- Placed Visits that have neither retired nor been aborted. -/
def Launch.live (x : Launch) : Nat := x.total - x.unplaced - x.retired - x.gone

/-- The D level, and the indices of an iteration by position in perm order (R24). -/
def Launch.dLevel (x : Launch) : Option Nat := x.levels.find? fun i => x.kinds.getD i 0 == 2
def splitLex : List Nat → Nat → List Nat
  | [], _ => []
  | _ :: rest, n => n / rest.foldl (· * ·) 1 :: splitLex rest (n % rest.foldl (· * ·) 1)
def Launch.indices (x : Launch) (n : Nat) : List Nat := splitLex (x.levels.map fun i => x.trips.getD i 0) n
/-- The index of level i in iteration n, where the level is listed. -/
def Launch.index (x : Launch) (n i : Nat) : Option Nat :=
  match x.levels.idxOf? i with
  | some p => (x.indices n)[p]?
  | none => none
def Launch.dIndex (x : Launch) (n : Nat) : Option Nat := match x.dLevel with | some i => x.index n i | none => none

/-- Iterations of one D index, or of the launch (R27). -/
def Launch.group (x : Launch) : Nat := match x.dLevel with | some i => x.total / x.trips.getD i 1 | none => x.total
/-- The j-th iteration, in ascending n, of a D index. -/
def Launch.nth (x : Launch) (d : Option Nat) (j : Nat) : Nat :=
  let others := x.levels.filter fun i => some i != x.dLevel || d.isNone
  let digits := splitLex (others.map fun i => x.trips.getD i 0) j
  x.levels.foldl (fun n i =>
    let v := if some i = x.dLevel then d.getD 0 else digits.getD ((others.idxOf? i).getD 0) 0
    n * x.trips.getD i 0 + v) 0

def modLaunch (s : State) (t : TenantId) (id : W32) (f : Launch → Launch) : State :=
  s.modTenant t fun x => { x with launches := x.launches.map fun y => if y.id = id then f y else y }
def findLaunch (s : State) (t : TenantId) (id : W32) : Option Launch := (s.tenant t).launches.find? fun x => x.id == id

/-! ### The end of a launch (R37, R362) -/

/-- A launch leaves the queue with a status and its completion event. -/
def postEnd (s : State) (t : TenantId) (id : W32) (status source : Nat) : State :=
  postEvent (s.modTenant t fun x => { x with launches := x.launches.filter fun y => y.id != id }) (supervisor t) evLaunch t.val source
    (BitVec.ofNat 128 (id.toNat + 2 ^ 32 * status))

/-- Launches that depend on failed ones are removed with status 2, in the order in which the failures are posted (R362). -/
def failDependents (t : TenantId) : Nat → List W32 → State → State
  | 0, _, s => s
  | _ + 1, [], s => s
  | n + 1, id :: rest, s =>
    let l := ((s.tenant t).launches.filter fun y => !y.ready && y.deps.contains id).map (·.id)
    failDependents t n (rest ++ l) (l.foldl (fun s k => postEnd s t k 2 (256 + t.val)) s)

/-- A launch ends: 0 completed, 1 failed. -/
def endLaunch (s : State) (t : TenantId) (id : W32) (status source : Nat) : State :=
  let s1 := postEnd s t id status source
  if status = 0 then s1 else failDependents t 300 [id] s1

/-- A launch whose Visits are all over: it completes, or fails once its other Visits, those not yet placed among them, have retired after an abort without
replace (R37, R361). -/
def settleLaunch (s : State) (t : TenantId) (id : W32) (source : Nat) : State :=
  match findLaunch s t id with
  | none => s
  | some x =>
    if x.ready && x.retired == x.total then endLaunch s t id 0 source
    else if x.failed && x.live == 0 && x.unplaced == 0 then endLaunch s t id 1 source
    else s

/-- LAUNCH_READY: every dependence has completed or is unknown; a launch without iterations completes at once (R23, R37). -/
def execLaunchReady (t : TenantId) (id : W32) (s : State) : Host.Outcome State Fault Refusal :=
  .next <|
    match findLaunch s t id with
    | none => s
    | some x =>
      if x.ready || x.deps.any (fun d => (s.tenant t).launches.any fun y => y.id == d) then s
      else settleLaunch (modLaunch s t id fun y => { y with ready := true }) t id (256 + t.val)

/-- Cycles of the Suite clock in 2^22 cycles of the 2 GHz package network (R8, R38). -/
def agePeriod : Nat := 2 ^ 23

/-- PRIORITY_AGING: one more cycle spent ready and unplaced (R38). A launch of which some iterations are placed and some are not counts as unplaced: it is
still offered wings (DESIGN CHOICE, log 57). -/
def execPriorityAging (t : TenantId) (id : W32) (s : State) : Host.Outcome State Fault Refusal :=
  .next <|
    match findLaunch s t id with
    | none => s
    | some x =>
      if !x.ready || x.unplaced == 0 then s
      else
        modLaunch s t id fun y =>
          if y.readyClk + 1 = agePeriod then { y with readyClk := 0, effPrio := min 15 (y.effPrio + 1) } else { y with readyClk := y.readyClk + 1 }

/-! ### Submission (R323, R331) -/

/-- The image that a launch names: its header, where image_seg holds a readable image (R323). -/
def launchHeader (s : State) (t : TenantId) (seg : Nat) : Option Header :=
  match (getDesc s t seg).1 with
  | none => none
  | some d =>
    if !d.code then none
    else match (readHeader s t seg).1 with | .ok h => if h.good then some h else none | _ => none

/-- Submits a record: its status, and the launch in its tenant's queue (R20-R23, R323). -/
def submitLaunch (s : State) (t : TenantId) (l : List Byte) : Nat × State :=
  let queue := (s.tenant t).launches
  match parseLaunch s t l, launchHeader s t (fieldAt l 4 2) with
  | some x, some h =>
    if x.id = 0 ∨ queue.any (fun y => y.id == x.id) then (2, s)
    else if 256 ≤ queue.length then (3, s)
    else if h.feat &&& ~~~(s.pkg.featacc1 ++ s.pkg.featacc0) ≠ 0 then (4, s)
    else
      let (i, s1) := loadImage s t x.imageSeg h
      let s2 := s1.modPkg fun p => { p with eventSeq := p.eventSeq + 1 }
      (0, s2.modTenant t fun y => { y with launches := y.launches ++ [{ x with image := i, seq := s.pkg.eventSeq }] })
  | _, _ => (1, s)

/-- LSUBMIT_WRITE: the record is submitted for the acting tenant, the accepted features lock and LSTAT is written (R323, R331). -/
def execLsubmitWrite (c : CtxId) (v : Word) (s : State) : Host.Outcome State Fault Refusal :=
  .next <|
    let t := ctxTenant s c
    match (loadVa s t v.toNat 128).1 with
    | .ok l =>
      let (st, s1) := submitLaunch (s.modPkg fun p => { p with featLocked := true }) t l
      s1.modCtx c fun x => { x with lstat := BitVec.ofNat 8 st }
    | _ => s

/-- CTXSTART_WRITE (R322). -/
def execCtxstartWrite (c : CtxId) (v : Word) (s : State) : Host.Outcome State Fault Refusal := .next (startContext s c v)

end Sys2Proof.Machine
end

