-- ==== Sys2Proof/Machine/Visits.lean ====
section
/-! DEFINITION. Visits: candidate wings, slices, greedy choices, placement, retirement, abort, and what a supervisor does to a held bank:
spec/01_execution_model.md R24-R34, R39, R51, spec/16_determinism_and_observation.md R336-R337, spec/17_faults_execution.md R355, R358,
R361-R362, spec/19_faults_rooms_and_engines.md R377. -/

namespace Sys2Proof.Machine

/-! ### Candidate wings and free banks (R26, R32, R211) -/

/-- A candidate wing of a tenant (R26). -/
def candidate (s : State) (t : TenantId) (lead : SuiteId) (shape : Nat) : Bool :=
  aligned lead shape && (wingRooms lead shape).all fun v => owns s t v && !(s.room v).stopped && !(s.suite v).stopped

/-- Whether a bank holds a dual Visit of this very envelope (R32). -/
def dualPartner (s : State) (u : SuiteId) (b : Fin 2) (lead : SuiteId) (shape : Nat) : Bool :=
  match (s.bank (.bank u b)).visit with
  | some v => v.dual && v.lead == lead && v.shape.val == shape
  | none => false
def bankEmpty (s : State) (u : SuiteId) (b : Fin 2) : Bool := (s.bank (.bank u b)).visit.isNone
def otherBank (b : Fin 2) : Fin 2 := if b = 0 then 1 else 0

/-- A room that a new envelope may take: nothing runs in its wing and its M queue is empty (R211). -/
def roomFree (s : State) (v : SuiteId) : Bool :=
  let l := leadOf s v
  (s.room l).runs.isEmpty && !(s.room l).drone.active && !(s.room v).halt.halted && (s.suite v).mq.isEmpty && (s.suite v).mrun.isEmpty

/-- The bank in which a Visit of a free candidate wing is placed: the lowest that is empty in every member Suite, the other bank empty or
holding a dual Visit of the same envelope. -/
def freeBank (s : State) (dual : Bool) (lead : SuiteId) (shape : Nat) : Option (Fin 2) :=
  let rooms := wingRooms lead shape
  [(0 : Fin 2), 1].find? fun b =>
    rooms.all (fun v => bankEmpty s v b) &&
      (if rooms.all fun v => bankEmpty s v (otherBank b) then rooms.all (roomFree s)
       else dual && rooms.all fun v => dualPartner s v (otherBank b) lead shape)

def launchDual (s : State) (x : Launch) : Bool := match s.pkg.images[x.image]? with | some im => im.dual | none => false

/-- The candidates of a launch on the dies it may use, ascending (R26). -/
def candidates (s : State) (t : TenantId) (x : Launch) (dies : List Nat) : List SuiteId :=
  (List.finRange 64).filter fun u => dies.contains (dieOf u) && candidate s t u x.shape.val

/-- The dies of a D index, or all (R27). -/
def diesFor (s : State) (t : TenantId) (d : Option Nat) : List Nat :=
  match d with
  | some d => ((ownedDies s t)[d]?).toList
  | none => [0, 1, 2, 3]

/-- The die of a D index of a GREEDY launch: fixed once an iteration of the index has been placed (R28). -/
def greedyDies (s : State) (t : TenantId) (x : Launch) (d : Option Nat) : List Nat :=
  match d.bind fun d => x.dDies.find? fun p => p.1 == d with
  | some p => [p.2]
  | none => diesFor s t d
/-- A GREEDY launch once it has placed iteration n at a lead room: the die of its D index is fixed. -/
def Launch.fixDie (x : Launch) (n : Nat) (lead : SuiteId) : Launch :=
  match x.dIndex n with
  | some d => if x.dDies.any fun p => p.1 == d then x else { x with dDies := (d, dieOf lead) :: x.dDies }
  | none => x

/-! ### SLICE (R27, R336) -/

/-- Whether a launch is placed by the SLICE rule: it says so, or its tenant is in DET mode (R336). -/
def sliced (s : State) (t : TenantId) (x : Launch) : Bool := x.slice || (s.tenant t).detctl.getLsbD 0

/-- The D index whose iterations a wing takes, where the launch has a D level (R27). -/
def wingGroup (s : State) (t : TenantId) (x : Launch) (lead : SuiteId) : Option (Option Nat) :=
  match x.dLevel with
  | none => some none
  | some i =>
    match (ownedDies s t).idxOf? (dieOf lead) with
    | some d => if d < x.trips.getD i 0 then some (some d) else none
    | none => none

/-- The slices of a D index over the candidates of this cycle (R27). -/
def newSlices (s : State) (t : TenantId) (x : Launch) (d : Option Nat) : List Slice :=
  let c := candidates s t x (diesFor s t d)
  let q := x.group / c.length
  let rem := x.group % c.length
  c.zipIdx.map fun (u, w) =>
    { lead := u, dIndex := d, again := [], next := w * q + min w rem, stop := w * q + min w rem + q + (if w < rem then 1 else 0) }

/-- The launch with the slices of a wing's D index fixed. -/
def fixSlices (s : State) (t : TenantId) (x : Launch) (lead : SuiteId) : Launch :=
  match wingGroup s t x lead with
  | none => x
  | some d => if x.slicedD.contains d then x else { x with slices := x.slices ++ newSlices s t x d, slicedD := x.slicedD ++ [d] }

def Slice.hasWork (y : Slice) : Bool := !y.again.isEmpty || decide (y.next < y.stop)

/-- The next iteration of a wing's slice, and the launch without it. -/
def takeSlice (x : Launch) (lead : SuiteId) : Option (Nat × Launch) :=
  match x.slices.findIdx? fun y => y.lead == lead && y.hasWork with
  | none => none
  | some i =>
    match x.slices[i]? with
    | none => none
    | some y =>
      match y.again with
      | n :: rest => some (n, { x with slices := x.slices.set i { y with again := rest } })
      | [] => some (x.nth y.dIndex y.next, { x with todo := x.todo - 1, slices := x.slices.set i { y with next := y.next + 1 } })

/-! ### GREEDY (R28) -/

/-- The next iteration of a GREEDY launch, and the launch without it. -/
def takeGreedy (x : Launch) : Nat × Launch :=
  match x.again with
  | n :: rest => (n, { x with again := rest })
  | [] => (x.total - x.todo, { x with todo := x.todo - 1 })

/-- Entry n of the affinity table: zeros where its read would fault, none while the read waits (R247, R402). -/
def affinity (s : State) (t : TenantId) (x : Launch) (n : Nat) : Option (List Byte) × State :=
  if x.affinity = 0 then (some (List.replicate 8 0), s)
  else
    match loadVa s t (x.affinity.toNat + 8 * n) 8 with
    | (.ok l, s1) => (some l, s1)
    | (.fault _, s1) => (some (List.replicate 8 0), s1)
    | (.wait, s1) => (none, s1)
def dieScore (l : List Byte) (d : Nat) : Nat := (l.getD (2 * d) 0).toNat + (l.getD (2 * d + 1) 0).toNat

/-- The wing of the next iteration of a GREEDY launch: the best die, then the lowest lead room. -/
def greedyWing (s : State) (t : TenantId) (x : Launch) : Option SuiteId × State :=
  let n := (takeGreedy x).1
  let d := x.dIndex n
  let free := (candidates s t x (greedyDies s t x d)).filter fun u => (freeBank s (launchDual s x) u x.shape.val).isSome
  match if d.isSome then (some (List.replicate 8 0), s) else affinity s t x n with
  | (none, s1) => (none, s1)
  | (some l, s1) =>
    (free.foldl (fun (m : Option SuiteId) u => match m with
      | none => some u
      | some v => if dieScore l (dieOf v) < dieScore l (dieOf u) then some u else some v) none, s1)

/-! ### The choice of a launch (R39) -/

/-- Whether a launch may take a free candidate wing: its next iteration can go there. -/
def usable (s : State) (t : TenantId) (x : Launch) (lead : SuiteId) : Bool :=
  if sliced s t x then ((takeSlice (fixSlices s t x lead) lead)).isSome
  else (greedyDies s t x (x.dIndex (takeGreedy x).1)).contains (dieOf lead)

/-- Whether a launch has something to place on a wing. -/
def fits (s : State) (t : TenantId) (x : Launch) (lead : SuiteId) : Bool :=
  x.ready && decide (0 < x.unplaced) && (freeBank s (launchDual s x) lead x.shape.val).isSome && usable s t x lead

/-- Whether one launch comes before another: higher effective priority, then the older (R39). -/
def Launch.outranks (x y : Launch) : Bool := decide (y.effPrio < x.effPrio) || (x.effPrio == y.effPrio && decide (x.seq < y.seq))

/-- The launch to which a wing is offered. -/
def offered (s : State) (t : TenantId) (lead : SuiteId) (shape : Nat) : Option Launch :=
  ((s.tenant t).launches.filter fun x => x.shape.val == shape && fits s t x lead).foldl
    (fun m x => match m with
      | none => some x
      | some y => if x.outranks y then some x else some y) none

/-- Whether a launch that comes first, of whatever shape, could take a wing that shares a room with this one: it goes first (R40). -/
def claimed (s : State) (t : TenantId) (x : Launch) (lead : SuiteId) : Bool :=
  let rooms := wingRooms lead x.shape.val
  (s.tenant t).launches.any fun y => y.outranks x && (List.finRange 64).any fun u =>
    (wingRooms u y.shape.val).any rooms.contains && candidate s t u y.shape.val && fits s t y u

/-! ### Placement (R24, R25, R208) -/

/-- Rooms of wings that a new envelope cuts are wings of their own; the envelope takes its shape (R208, R209, R211). -/
def setEnvelope (s : State) (lead : SuiteId) (shape : Nat) : State :=
  let rooms := wingRooms lead shape
  let cut := ((rooms.map (leadOf s)).dedup.flatMap (members s)).filter fun v => !rooms.contains v
  setWings (cut.foldl (fun s v => setWings s v 0 0) s) lead shape shape

/-- What a bank keeps of results in flight when its Visit leaves: those that reach tiles, masks, accumulators and Suite registers (R121, R34). Their flags
have no stream any more: XFLG is each stream's own (R167). -/
def leaveFly (l : List Flight) : List Flight :=
  l.filterMap fun f =>
    let keep := f.res.filterMap fun x => match x with
      | .tile t v _ => some (Result.tile t v false)
      | .mask m v => some (Result.mask m v)
      | .acc k h a t row tn => some (Result.acc k h a t row tn)
      | .csr n op => if 0x100 ≤ n.toNat then (match op with | .exchange v _ => some (Result.csr n (.write v)) | _ => some (Result.csr n op)) else none
      | _ => none
    let vacw := keep.any fun x => match x with | .acc .. => true | _ => false
    if keep.isEmpty then none else some { f with res := keep, flags := 0, kind := if vacw then .drain else f.kind }

/-- A free bank (R34, R361). -/
def freed (b : Bank) : Bank := { Bank.reset with fly := leaveFly b.fly }

/-- The registers of a new Visit (R25). -/
def levelWord (x : Launch) (n i : Nat) : Word :=
  if x.nlev ≤ i then 0
  else match x.index n i with
    | some v => BitVec.ofNat 64 v
    | none => BitVec.ofNat 64 (x.trips.getD i 0)

def placedStream (line : W32) : Stream := { Stream.reset with pos := line.toNat * 16, running := true }

def placedBank (old : Bank) (im : Image) (x : Launch) (t : TenantId) (n : Nat) (lead : SuiteId) (phase : Nat) : Bank :=
  let a : Vector Word 32 := Vector.ofFn fun r =>
    if 1 ≤ r.val ∧ r.val ≤ 6 then levelWord x n (r.val - 1) else if r.val = 7 then x.param else 0
  let e : Vector Word 16 := Vector.ofFn fun r => if 1 ≤ r.val ∧ r.val ≤ 6 then levelWord x n (r.val - 1) else 0
  { Bank.reset with
    a := a, e := e, sa := placedStream im.entryA, sx := placedStream im.entryX, fly := old.fly, phase := BitVec.ofNat 2 phase,
    visit := some { tenant := t, launch := x.id, iter := n, image := x.image, dual := im.dual, forced := forcesInterlock im, lead := lead,
                    shape := x.shape, scope := x.scope, stage := (x.dIndex n).getD 0, viter := BitVec.ofNat 64 n } }

/-- Barriers that a launch's scope instance has completed (R265). -/
def barriersDone (s : State) (t : TenantId) (x : Launch) (lead : SuiteId) : Nat :=
  if x.scope = 0 then x.barriers else if x.scope = 1 then (s.tenant t).barriersDie.toList.getD (dieOf lead) 0 else (s.tenant t).barriersPkg

/-- The tile registers of a bank's share (R32). -/
def inShare (dual : Bool) (b : Fin 2) (t : Nat) : Bool := !dual || t / 24 == b.val

/-- A Visit is placed in bank b of every Suite of a wing. -/
def placeVisit (s : State) (t : TenantId) (x : Launch) (n : Nat) (lead : SuiteId) (b : Fin 2) : State :=
  match s.pkg.images[x.image]? with
  | none => s
  | some im =>
    let rooms := wingRooms lead x.shape.val
    let s1 := if rooms.all fun v => bankEmpty s v (otherBank b) then setEnvelope s lead x.shape.val else s
    rooms.foldl (fun s v =>
      (s.modBank (.bank v b) fun old => placedBank old im x t n lead (barriersDone s t x lead)).modSuite v fun y =>
        { y with flags := Vector.ofFn fun k => if inShare im.dual b k.val then ⟨false, false, false, 0⟩ else y.flags.get k }) s1

/-- The tenant that owns a room. -/
def ownerOf? (s : State) (u : SuiteId) : Option TenantId := (List.finRange 64).find? fun t => owns s t u

/-- A GREEDY launch without its iteration n: those before it that were never placed stay to be placed. -/
def takeIteration (x : Launch) (n : Nat) : Option Launch :=
  let first := x.total - x.todo
  if x.again.contains n then some { x with again := x.again.erase n }
  else if first ≤ n ∧ n < x.total then
    some { x with again := x.again ++ (List.range (n - first)).map (first + ·), todo := x.total - n - 1 }
  else none

/-- Replay places the iteration that the log names on the wing that it names, as soon as that wing is free; at OLOGLIM the choice waits and raises LOGFULL
(R337, R338). -/
def replayPlacement (s : State) (t : TenantId) (lead : SuiteId) (shape : Nat) : State :=
  let s0 := ologSkip t 64 s
  if !ologRoom s0 t then logFull s0 t lead.val
  else match ologNext s0 t with
  | some (k, src, v) =>
    match findLaunch s0 t (BitVec.ofNat 32 (v / 2 ^ 32)) with
    | some x =>
      if k = 1 ∧ src = lead.val ∧ x.shape.val = shape ∧ x.ready = true ∧ sliced s0 t x = false then
        let start := x.total - x.todo
        let n := if x.again.contains (v % 2 ^ 32) then v % 2 ^ 32 else start + (v + 2 ^ 32 - start % 2 ^ 32) % 2 ^ 32
        match freeBank s0 (launchDual s0 x) lead shape, takeIteration x n with
        | some b, some y =>
          match ologChoice s0 t 1 lead.val v with
          | (some _, s1) => modLaunch (placeVisit s1 t x n lead b) t x.id fun _ => y.fixDie n lead
          | (none, s1) => s1
        | _, _ => s0
      else s0
    | none => s0
  | none => s0

/-- VISIT_PLACEMENT: a free candidate wing is offered to one launch, which places its next iteration there (R39), unless its die's clock pauses (R4). A GREEDY choice is logged,
and in replay made as the log says (R337). -/
def execVisitPlacement (lead : SuiteId) (shape : Fin 9) (s : State) : Host.Outcome State Fault Refusal :=
  .next <|
    match ownerOf? s lead with
    | none => s
    | some t =>
      if !candidate s t lead shape.val || paused s lead then s
      else
        match offered s t lead shape.val with
        | none => s
        | some x =>
          match freeBank s (launchDual s x) lead shape.val with
          | none => s
          | some b =>
            if sliced s t x then
              if claimed s t x lead then s
              else
                match takeSlice (fixSlices s t x lead) lead with
                | some (n, y) => modLaunch (placeVisit s t x n lead b) t x.id fun _ => y
                | none => s
            else if ologMode s t = 2 then replayPlacement s t lead shape.val
            else if claimed s t x lead then s
            else
              let (n, y) := takeGreedy x
              match greedyWing s t x with
              | (w, s1) =>
                if w ≠ some lead then s1
                else
                  match ologChoice s1 t 1 lead.val (n % 2 ^ 32 + 2 ^ 32 * x.id.toNat) with
                  | (some _, s2) => modLaunch (placeVisit s2 t x n lead b) t x.id fun _ => y.fixDie n lead
                  | (none, s2) => s2

/-! ### Retirement (R34) -/

/-- Whether two banks hold one Visit. -/
def sameVisit (v w : Visit) : Bool := v.tenant == w.tenant && v.launch == w.launch && v.iter == w.iter

/-- The Suites of a Visit: those of its envelope whose bank holds it. -/
def visitSuites (s : State) (b : Fin 2) (v : Visit) : List SuiteId :=
  (wingRooms v.lead v.shape.val).filter fun u => match (s.bank (.bank u b)).visit with | some w => sameVisit v w | none => false

/-- A command of a bank's own Visit in a queue or running. -/
def ownCommands (x : Suite) (b : Fin 2) : Bool := (x.mq ++ x.mrun ++ x.cqueue ++ x.crun).any fun c => c.bank == b && !c.discard

/-- Whether a Suite's part of a Visit is over. -/
def partOver (s : State) (u : SuiteId) (b : Fin 2) : Bool :=
  let k := s.bank (.bank u b)
  !k.sa.running && !k.sx.running && !ownCommands (s.suite u) b && k.tok.toList.all (· == 0) && k.tokNew.toList.all (· == 0)
    && k.traps.isEmpty && !(s.suite u).stopped

/-- Atomics of a Visit that leaves apply without their result (R406). -/
def discardAtomics (s : State) (u : SuiteId) (b : Fin 2) : State :=
  s.modRoom u fun x => { x with atomics := x.atomics.map fun a => if a.bank = b then { a with discard := true } else a }

/-- A bank is freed: its monitor goes, and its chanter and the demands queued for it; at retirement its stores still perform. -/
def releaseBank (s : State) (u : SuiteId) (b : Fin 2) (keepStores : Bool) : State :=
  let r : BankRef := .bank u b
  let left := match (s.bank r).visit with
    | some v => if keepStores then
        ((sortSeq ((s.bank r).sq ++ (s.bank r).replay)).filter fun e => match e.op with | .st .. => true | .stt .. => true | _ => false).map fun e =>
          (⟨v, b, e⟩ : Leftover)
      else []
    | none => []
  let s0 := if (s.suite u).chanter.bank = b then s.modRoom u fun x => { x with drone := { x.drone with queue := [], queueNew := 0 } } else s
  let s1 := (freeMonitor (discardAtomics s0 u b) r).modSuite u fun x =>
    { x with leftover := x.leftover ++ left,
             chanter := if x.chanter.bank = b ∧ x.chanter.busy then { x.chanter with busy := false, trapped := false, ending := false } else x.chanter }
  s1.modBank r freed

/-- VISIT_RETIRE: a Visit whose streams have ended and whose commands and tokens are gone leaves its banks, unless its die's clock pauses (R4, R34, R37). -/
def execVisitRetire (u : SuiteId) (b : Fin 2) (s : State) : Host.Outcome State Fault Refusal :=
  .next <|
    match (s.bank (.bank u b)).visit with
    | none => s
    | some v =>
      let suites := visitSuites s b v
      if v.lead ≠ u ∨ paused s u = true ∨ !suites.all fun w => partOver s w b then s
      else
        let s1 := suites.foldl (fun s w => releaseBank s w b true) s
        settleLaunch (modLaunch s1 v.tenant v.launch fun x => { x with retired := x.retired + 1 }) v.tenant v.launch u.val

/-! ### Abort (R361, R377) -/

/-- The commands of a bank: those not started are removed, and so is a running C command whose trap will have no answer; the other started ones complete,
and their acknowledgements are discarded. Busy counts of removed copies are lowered (R246, R361). -/
def abortCommands (s : State) (u : SuiteId) (b : Fin 2) : State :=
  let trapped := fun (c : Cmd) => c.bank == b && c.trapLevel != 0
  let gone := ((s.suite u).cqueue.filter fun c => c.bank == b) ++ (s.suite u).crun.filter trapped
  let s1 := gone.foldl (fun s c => match c.op with | .cpy j => lowerBusy s c.tenant j.seg | _ => s) s
  let keep := fun (l : List Cmd) => l.filter fun c => c.bank != b
  let mark := fun (l : List Cmd) => l.map fun c => if c.bank = b then { c with discard := true, trapLevel := 0 } else c
  s1.modSuite u fun x =>
    { x with mq := keep x.mq, cqueue := keep x.cqueue, mrun := mark x.mrun, crun := mark (x.crun.filter fun c => !trapped c) }

/-- A halt no longer waits for a bank (R377). -/
def releaseHalts (s : State) (u : SuiteId) (b : Fin 2) : State :=
  { s with rooms := s.rooms.map fun x => { x with halt := { x.halt with held := x.halt.held.filter fun (v, k, _) => !(v == u && k == b) } } }

/-- A Visit is aborted: its launch gets the iteration back with replace set, and fails without it (R361). Of several iterations that come back, the one aborted
last is placed first (DESIGN CHOICE, log 72: the manual puts them ahead of the remaining slice and gives no order among them). -/
def abortVisit (s : State) (b : Fin 2) (v : Visit) (replace : Bool) : State :=
  let suites := visitSuites s b v
  let s1 := suites.foldl (fun s u =>
    let l := leadOf s u
    let drone := (s.room l).runs.any fun r => r.drone && r.cmd.bank == b
    let halted := (s.room l).halt.halted && (s.room l).halt.held.any (fun (w, k, _) => w == l && k == b)
      && ((s.suite l).mrun.any fun c => c.bank == b && c.trapLevel != 0)
    if u = l ∧ (drone ∨ halted) then endBankRuns s l b else s) s
  let s2 := suites.foldl (fun s u => releaseBank (releaseHalts (abortCommands s u b) u b) u b false) s1
  let sliceWing := match findLaunch s2 v.tenant v.launch with | some x => x.slices.any fun y => y.lead == v.lead && y.dIndex == x.dIndex v.iter | none => false
  let s3 := modLaunch s2 v.tenant v.launch fun x =>
    if replace then
      if sliceWing then
        { x with slices := x.slices.map fun y => if y.lead = v.lead ∧ y.dIndex = x.dIndex v.iter then { y with again := v.iter :: y.again } else y }
      else { x with again := v.iter :: x.again }
    else { x with gone := x.gone + 1, failed := true }
  settleLaunch (s3.modPkg fun p => { p with away := p.away.filter fun w => !sameVisit v w }) v.tenant v.launch v.lead.val

/-- VISIT_ABORT: the Visit of a bank is aborted, and the reset-complete event ends it (R329, R361). -/
def execVisitAbort (u : SuiteId) (b : Fin 2) (replace : Bool) (s : State) : Host.Outcome State Fault Refusal :=
  .next <|
    let t := tenantOf s (.bank u b)
    let s1 := match (s.bank (.bank u b)).visit with | some v => abortVisit s b v replace | none => s
    postEvent s1 hypervisor evReset t.val u.val 4

/-! ### Answering a trap (R355) -/

/-- Queue entries of a replay list by their queue. -/
def isStoreEntry (e : QEntry) : Bool := match e.op with | .st .. => true | .stt .. => true | .drnt _ => true | _ => false

/-- The words of the instruction at a stream's position. -/
def slotsAt (s : State) (ag : Agent) : Nat := match fetch s ag with | .word m w _ => if twoSlot m w then 2 else 1 | _ => 1

/-- The agent that a trap record names, among the streams. -/
def trapAgent (r : BankRef) (t : Trap) : Option Agent :=
  if t.cls ≠ 0 then none
  else if t.agent = 0 then some ⟨r, .a⟩
  else if t.agent = 1 then some ⟨r, .x⟩
  else if t.agent = 2 then some ⟨r, .chanter⟩
  else none

/-- A precise trap is over: the stream goes on at ret, or after the instruction that a skip counts as executed (R355). -/
def answerTrap (s : State) (r : BankRef) (t : Trap) (skip : Bool) : State :=
  match trapAgent r t with
  | none => s
  | some ag =>
    let s1 := if ag.kind = .chanter then s.modSuite ag.suite fun x => { x with chanter := { x.chanter with trapped := false } } else s
    if skip then advance s1 ag (slotsAt s1 ag) else setPos s1 ag t.ret.toNat

/-- A skipped AMEM counts as completed: its done semaphore is incremented (R405). -/
def skipDone (s : State) (r : BankRef) (t : Trap) : State :=
  match trapAgent r t with
  | some ag =>
    match fetch s ag with
    | .word m w x => match decode m w x with | .ok (.amem _ _ _ dn _ _) => doneFor s r ag.kind dn | _ => s
    | _ => s
  | none => s

/-- Commands of the bank whose traps are released or come to be recorded. -/
def releaseCommands (s : State) (u : SuiteId) (b : Fin 2) : State :=
  let f := fun (l : List Cmd) => l.map fun c => if c.bank = b then { c with trapLevel := c.trapLevel - 1 } else c
  let s1 := s.modSuite u fun x => { x with mq := f x.mq, mrun := f x.mrun, cqueue := f x.cqueue, crun := f x.crun }
  { s1 with rooms := s1.rooms.map fun x =>
      { x with halt := { x.halt with held := x.halt.held.filterMap fun (v, k, n) =>
          if v = u ∧ k = b then (if n ≤ 1 then none else some (v, k, n - 1)) else some (v, k, n) } } }

/-- The bank that VSEL names resumes; with `skip` the instruction of the shown trap counts as executed (R355, R360, R365). -/
def resumeBank (s : State) (r : BankRef) (skip : Bool) : State :=
  let k := s.bank r
  let s0 := match k.traps with | t :: _ => if skip then skipDone s r t else s | [] => s
  let s1 := k.traps.zipIdx.foldl (fun s (t, i) => answerTrap s r t (skip && i == 0)) s0
  let s2 := s1.modBank r fun b =>
    { b with traps := [], trapsLater := [], trapAt := none, pageWait := false, switched := false, replay := [],
             lq := sortSeq (b.replay.filter (fun e => !isStoreEntry e) ++ b.lq), sq := sortSeq (b.replay.filter isStoreEntry ++ b.sq) }
  let s3 := match r with | .bank u b => releaseCommands s2 u b | .ctx _ => s2
  k.trapsLater.foldl (fun s t => holdBank s r t.2) s3

/-- VCMD_RESUME (R355). -/
def execVcmdResume (c : CtxId) (s : State) : Host.Outcome State Fault Refusal := .next (resumeBank s (vselRef (s.ctx c).vsel) false)

/-- VCMD_SKIP (R355). -/
def execVcmdSkip (c : CtxId) (s : State) : Host.Outcome State Fault Refusal := .next (resumeBank s (vselRef (s.ctx c).vsel) true)

/-- VAREG_WRITE: a write to a register of a held bank; a0 discards it (R355). -/
def execVaregWrite (c : CtxId) (v : Word) (s : State) : Host.Outcome State Fault Refusal :=
  .next (writeA s ⟨vselRef (s.ctx c).vsel, .a⟩ (BitVec.ofNat 5 (natBits (s.ctx c).vsel.toNat 16 5)) v)

/-! ### Deadlock (R358) -/

/-- The Suites of a bank's Visit: every one of its envelope. -/
def visitRooms (s : State) (u : SuiteId) (b : Fin 2) : List SuiteId :=
  match (s.bank (.bank u b)).visit with | some v => wingRooms v.lead v.shape.val | none => [u]

/-- What R358 asks of a bank in a cycle: its streams stand, nothing of its own is in flight, and its Visit has no command and no drone computation on any Suite
of its envelope. -/
def deadNow (s : State) (u : SuiteId) (b : Fin 2) : Bool :=
  let k := s.bank (.bank u b)
  let stuck := fun (x : Stream) => x.blocked || !x.running
  stuck k.sa && stuck k.sx && (k.sa.blocked || k.sx.blocked) && k.lq.isEmpty && k.sq.isEmpty && k.divs.isEmpty && k.prefetch.isEmpty
    && !(k.fly.any (·.var)) && !((s.room u).atomics.any fun a => a.bank == b && !a.discard)
    && !(visitRooms s u b).any fun w => ownCommands (s.suite w) b || ((s.room w).drone.active && (s.room w).runs.any fun r => r.drone && r.cmd.bank == b)

/-- FEDEAD: the count of dead cycles, and the trap of the blocked stream when it reaches 2^20 (R358). -/
def execFedead (u : SuiteId) (b : Fin 2) (s : State) : Host.Outcome State Fault Refusal :=
  .next <|
    let r : BankRef := .bank u b
    let k := s.bank r
    if k.visit.isNone ∨ (s.suite u).stopped ∨ !k.traps.isEmpty then s
    else if !deadNow s u b then (if k.deadCount = 0 then s else s.modBank r fun x => { x with deadCount := 0 })
    else if k.deadCount + 1 < 2 ^ 20 then s.modBank r fun x => { x with deadCount := x.deadCount + 1 }
    else
      let s1 := s.modBank r fun x => { x with deadCount := 0 }
      let kind : StreamKind := if k.sa.blocked then .a else .x
      let other := if k.sa.blocked then k.sx else k.sa
      takeTrap s1 ⟨r, kind⟩ cFEDEAD (if other.blocked then BitVec.ofNat 64 other.pos else 0) (k.stream kind).pos

end Sys2Proof.Machine
end

