-- ==== Sys2Proof/Machine/Sha.lean ====
section
/-! DEFINITION. SHA-256 (FIPS 180-4), which R332 and R342 name: spec/15_tenancy_and_service.md, spec/16_determinism_and_observation.md. -/

namespace Sys2Proof.Machine

/-- The 64 constants of the rounds: fractions of the cube roots of the first primes. -/
def shaK : List W32 :=
  [0x428a2f98, 0x71374491, 0xb5c0fbcf, 0xe9b5dba5, 0x3956c25b, 0x59f111f1, 0x923f82a4, 0xab1c5ed5]
   ++ [0xd807aa98, 0x12835b01, 0x243185be, 0x550c7dc3, 0x72be5d74, 0x80deb1fe, 0x9bdc06a7, 0xc19bf174]
   ++ [0xe49b69c1, 0xefbe4786, 0x0fc19dc6, 0x240ca1cc, 0x2de92c6f, 0x4a7484aa, 0x5cb0a9dc, 0x76f988da]
   ++ [0x983e5152, 0xa831c66d, 0xb00327c8, 0xbf597fc7, 0xc6e00bf3, 0xd5a79147, 0x06ca6351, 0x14292967]
   ++ [0x27b70a85, 0x2e1b2138, 0x4d2c6dfc, 0x53380d13, 0x650a7354, 0x766a0abb, 0x81c2c92e, 0x92722c85]
   ++ [0xa2bfe8a1, 0xa81a664b, 0xc24b8b70, 0xc76c51a3, 0xd192e819, 0xd6990624, 0xf40e3585, 0x106aa070]
   ++ [0x19a4c116, 0x1e376c08, 0x2748774c, 0x34b0bcb5, 0x391c0cb3, 0x4ed8aa4a, 0x5b9cca4f, 0x682e6ff3]
   ++ [0x748f82ee, 0x78a5636f, 0x84c87814, 0x8cc70208, 0x90befffa, 0xa4506ceb, 0xbef9a3f7, 0xc67178f2]

/-- The eight working words. -/
structure Sha8 where
  a : W32
  b : W32
  c : W32
  d : W32
  e : W32
  f : W32
  g : W32
  h : W32
  deriving DecidableEq, Repr

def shaInit : Sha8 := ⟨0x6a09e667, 0xbb67ae85, 0x3c6ef372, 0xa54ff53a, 0x510e527f, 0x9b05688c, 0x1f83d9ab, 0x5be0cd19⟩

def rotr (x : W32) (n : Nat) : W32 := (x >>> n) ||| (x <<< (32 - n))

/-- The rounds left, over a window of the next 16 schedule words. -/
def shaRounds : List W32 → List W32 → Sha8 → Sha8
  | [], _, x => x
  | k :: ks, win, x =>
    let w := fun i => win.getD i 0
    let t1 := x.h + (rotr x.e 6 ^^^ rotr x.e 11 ^^^ rotr x.e 25) + ((x.e &&& x.f) ^^^ (~~~x.e &&& x.g)) + k + w 0
    let t2 := (rotr x.a 2 ^^^ rotr x.a 13 ^^^ rotr x.a 22) + ((x.a &&& x.b) ^^^ (x.a &&& x.c) ^^^ (x.b &&& x.c))
    let next := (rotr (w 14) 17 ^^^ rotr (w 14) 19 ^^^ (w 14 >>> 10)) + w 9 + (rotr (w 1) 7 ^^^ rotr (w 1) 18 ^^^ (w 1 >>> 3)) + w 0
    shaRounds ks (win.drop 1 ++ [next]) ⟨t1 + t2, x.a, x.b, x.c, x.d + t1, x.e, x.f, x.g⟩

def Sha8.add (x y : Sha8) : Sha8 := ⟨x.a + y.a, x.b + y.b, x.c + y.c, x.d + y.d, x.e + y.e, x.f + y.f, x.g + y.g, x.h + y.h⟩

/-- A word from four bytes, the most significant first. -/
def shaWord (l : List Byte) (i : Nat) : W32 := l.getD (4 * i) 0 ++ l.getD (4 * i + 1) 0 ++ l.getD (4 * i + 2) 0 ++ l.getD (4 * i + 3) 0

/-- The blocks of 64 bytes, one after another; `n` bounds their number. -/
def shaBlocks : Nat → List Byte → Sha8 → Sha8
  | 0, _, x => x
  | n + 1, l, x =>
    if l.isEmpty then x else shaBlocks n (l.drop 64) (x.add (shaRounds shaK ((List.range 16).map (shaWord (l.take 64))) x))

/-- The message padded: a one bit, zeros, and its length in bits. -/
def shaPad (l : List Byte) : List Byte :=
  l ++ [0x80] ++ List.replicate ((119 - l.length % 64) % 64) 0 ++ (leBytes 8 (8 * l.length)).reverse

/-- SHA-256 of a list of bytes; the first byte of the digest is the most significant. -/
def sha256 (l : List Byte) : BitVec 256 :=
  let x := shaBlocks (l.length / 64 + 2) (shaPad l) shaInit
  x.a ++ x.b ++ x.c ++ x.d ++ x.e ++ x.f ++ x.g ++ x.h

/-- The 32 bytes of a digest in their order. -/
def digestBytes (d : BitVec 256) : List Byte := (leBytes 32 d.toNat).reverse

end Sys2Proof.Machine
end

