-- ==== Sys2Proof/Machine/Supersteps.lean ====
section
/-! DEFINITION. Supersteps: SSYNC, arrival, the barrier, and the replica digests compared at it: spec/12_supersteps_and_collectives.md
R263-R265, spec/16_determinism_and_observation.md R342-R343, spec/22_faults_fabric_and_replicas.md R430-R433. -/

namespace Sys2Proof.Machine

/-! ### SSYNC and arrival (R264) -/

/-- SSYNC: nothing of the A-stream issues until the barrier completes. -/
def execSsync (d : BitVec 5) (dn : BitVec 4) (w : BitVec 4) (s : State) : Host.Outcome State Fault Refusal :=
  issue (.ssync d dn w) w (fun s ag =>
    { hold := if (s.bank ag.bank).sync = .none then none else some holdFlagOnly
      act := fun x => x.modBank ag.bank fun b => { b with sync := .waiting d dn b.nextSeq x.cycle } }) s

/-- Whether a command of the A-stream of a bank has not completed. -/
def streamCommands (x : Suite) (b : Fin 2) : Bool :=
  (x.mq ++ x.mrun ++ x.cqueue ++ x.crun).any fun c => c.bank == b && c.kind == .a && !c.discard

/-- Whether an accumulator atomic of the A-stream of a bank has not applied (R261, superstep order). -/
def streamAtomics (s : State) (u : SuiteId) (b : Fin 2) : Bool := (s.room u).atomics.any fun a => a.bank == b && a.kind == .a && !a.discard

/-- SSYNC_ARRIVAL: every access, atomic and command before the SSYNC is over; Local Store accesses perform at issue. Nothing arrives while the clock
pauses (R4). -/
def execSsyncArrival (u : SuiteId) (b : Fin 2) (s : State) : Host.Outcome State Fault Refusal :=
  .next <|
    let k := s.bank (.bank u b)
    match k.sync with
    | .waiting d dn q start =>
      if (s.suite u).stopped ∨ paused s u ∨ (k.lq ++ k.sq ++ k.replay).any (fun e => decide (e.seq < q)) ∨ streamCommands (s.suite u) b
          ∨ streamAtomics s u b then s
      else s.modBank (.bank u b) fun x => { x with sync := .arrived d dn start s.cycle }
    | _ => s

/-! ### The barrier (R36, R263-R265) -/

/-- The banks whose Visits take part: scope 0 of a launch, 1 of a die, 2 of the package. -/
def participants (s : State) (t : TenantId) (scope : Fin 3) (inst : Nat) : List (SuiteId × Fin 2) :=
  (List.finRange 64).flatMap fun u => [(0 : Fin 2), 1].filter (fun b =>
    match (s.bank (.bank u b)).visit with
    | some v => v.tenant == t && v.scope.toNat == scope.val
        && (if scope = 0 then v.launch.toNat == inst else if scope = 1 then dieOf u == inst else true)
    | none => false) |>.map fun b => (u, b)

/-- Whether a detached Visit takes part: it stays a placed Visit and has not arrived (R315). -/
def awayIn (s : State) (t : TenantId) (scope : Fin 3) (inst : Nat) : Bool :=
  s.pkg.away.any fun v => v.tenant == t && v.scope.toNat == scope.val
    && (if scope = 0 then v.launch.toNat == inst else if scope = 1 then dieOf v.lead == inst else true)

/-- Whether every participant has arrived; at scope launch an iteration not yet placed has not. -/
def allArrived (s : State) (t : TenantId) (scope : Fin 3) (inst : Nat) : Bool :=
  let l := participants s t scope inst
  !l.isEmpty && !awayIn s t scope inst && l.all (fun p => hasArrived (s.bank (.bank p.1 p.2)))
    && (scope != 0 || match findLaunch s t (BitVec.ofNat 32 inst) with | some x => x.unplaced == 0 | none => true)

/-- Whether the clock of a participant's die pauses: the barrier completes when all run (R4; DESIGN CHOICE, log 61). -/
def anyPaused (s : State) (t : TenantId) (scope : Fin 3) (inst : Nat) : Bool := (participants s t scope inst).any fun p => paused s p.1

/-- One participant goes on with the new phase; its result lands at the end of the cycle, in the order of issue (R121). The wait record's flag is the
new phase, the one that the SSYNC answers (DESIGN CHOICE, log 70). -/
def passBarrier (setter : Nat) (s : State) (p : SuiteId × Fin 2) : State :=
  let r : BankRef := .bank p.1 p.2
  let k := s.bank r
  match k.sync with
  | .arrived d dn start _ =>
    let phase := k.phase + 1
    let s1 := (l1Clear s p.1).modBank r fun b => { b with phase := phase, sync := .none }
    let s2 := doneFor (landLater s1 r .a [.a d (phase.setWidth 64)] start) r .a dn
    waitRecord s2 ⟨r, .a⟩ phase.toNat (s.cycle - start) setter 3
  | _ => s

/-- The participant that arrived last; its room is the setter of the wait records. Of several that arrived last in one cycle it is the highest-numbered
room (DESIGN CHOICE, log 69). -/
def lastArrival (s : State) (l : List (SuiteId × Fin 2)) : Nat :=
  (l.foldl (fun (best : Nat × Nat) p =>
    match (s.bank (.bank p.1 p.2)).sync with
    | .arrived _ _ _ at_ => if best.1 ≤ at_ then (at_, p.1.val) else best
    | _ => best) (0, 0)).2

/-- The scope instance counts the barrier (R265). -/
def countBarrier (s : State) (t : TenantId) (scope : Fin 3) (inst : Nat) : State :=
  if scope = 0 then modLaunch s t (BitVec.ofNat 32 inst) fun x => { x with barriers := x.barriers + 1 }
  else s.modTenant t fun x =>
    if scope = 1 then { x with barriersDie := x.barriersDie.set (inst % 4) (x.barriersDie.get ⟨inst % 4, by omega⟩ + 1) (by omega) }
    else { x with barriersPkg := x.barriersPkg + 1 }

/-- A barrier completes. -/
def passAll (s : State) (t : TenantId) (scope : Fin 3) (inst : Nat) : State :=
  let l := participants s t scope inst
  l.foldl (passBarrier (lastArrival s l)) (countBarrier s t scope inst)

/-! ### Digests (R342, R343) -/

def modReplica (s : State) (t : TenantId) (f : Replica → Replica) : State := s.modTenant t fun x => { x with replica := f x.replica }

/-- Whether a tenant's barriers of scope package compare digests. -/
def digestOn (s : State) (t : TenantId) : Bool :=
  featOn s 3 && (s.tenant t).detctl.getLsbD 3 && (s.tenant t).replica.peer != Config.pkgId

/-- The bytes of a segment from 0 to its extent (R342). -/
def Desc.extent (d : Desc) : Nat :=
  if d.tiled then d.tbytes * ((d.dims.zip d.tshape).map fun (n, t) => (n + t - 1) / t).foldl (· * ·) 1
  else let n := d.dims.foldl (· * ·) 1; if d.fmt = .cb4 then (n + 1) / 2 else n * d.fmt.esz

/-- A byte of a declared segment; what a byte that cannot be read contributes is a free value. -/
def declaredByte (s : State) (t : TenantId) (seg : Nat) (d : Desc) (off : Nat) : Byte :=
  match (loadSeg s t seg d off 1).1 with
  | .ok l => l.headD 0
  | _ => Config.freeByte s.fresh off seg

/-- Whether a byte of a declared segment can only be read later: the walker moves its frame, or the frame is being released (R247, R402). -/
def declaredWaits (s : State) (t : TenantId) : Bool :=
  (s.tenant t).replica.segs.toList.any fun x => x.getLsbD 16 &&
    match (getDesc s t (x.toNat % 65536)).1 with
    | some d => (List.range d.extent).any fun off => (loadSeg s t (x.toNat % 65536) d off 1).1 == .wait
    | none => false

def declaredBytes (s : State) (t : TenantId) : List Byte :=
  (s.tenant t).replica.segs.toList.flatMap fun x =>
    if x.getLsbD 16 then
      match (getDesc s t (x.toNat % 65536)).1 with
      | some d => (List.range d.extent).map (declaredByte s t (x.toNat % 65536) d)
      | none => []
    else []

/-- The digests agree, or comparison is over: DIGCNT advances, DIGSTAT returns to 0 and the barrier completes (R343, R431). -/
def digestsAgree (s : State) (t : TenantId) : State :=
  passAll (modReplica s t fun x =>
    { x with count := x.count + 1, errs := 0, fenced := false, rerun := false, pending := false, own := none, got := none }) t 2 0

/-- Every Visit of a tenant is aborted without replace (R431). -/
def abortTenant (s : State) (t : TenantId) : State :=
  (List.finRange 64).foldl (fun s u => [(0 : Fin 2), 1].foldl (fun s b =>
    match (s.bank (.bank u b)).visit with
    | some v => if v.tenant = t ∧ v.lead = u then abortVisit s b v false else s
    | none => s) s) s

/-- The DIGEST trap of a tenant. -/
def digestTrap (s : State) (target : CtxId) (t : TenantId) (count : Word) : State := externalTrap s target cDIGEST t.val (256 + t.val) count

/-- The newest event of a context goes to the host too, whatever HOSTFWD holds (R431). -/
def alsoHost (s : State) (c : CtxId) : State :=
  match (s.ctx c).events.getLast? with
  | some e =>
    if e.sent then s
    else (sendHost s 5 e.tenant 0 (eventBytes e)).modCtx c fun x => { x with events := x.events.dropLast ++ [{ e with sent := true }] }
  | none => s

/-- Both digests are present and the participants' clocks run: they are compared (R343, R430, R431). -/
def compareDigests (s : State) (t : TenantId) : State :=
  let x := (s.tenant t).replica
  match x.own, x.got with
  | some (d, mine), some (e, count, theirs) =>
    if count ≠ x.count ∨ anyPaused s t 2 0 then s
    else if d = e then digestsAgree s t
    else
      let s1 := digestTrap (modReplica s t fun y => { y with own := none, got := none, pending := true, rerun := false }) (supervisor t) t x.count
      if !x.rerun then s1
      else if mine ≠ 0 ∧ theirs = 0 then
        digestTrap (abortTenant (modReplica s1 t fun y => { y with fenced := true }) t) hypervisor t x.count
      else if mine = 0 ∧ theirs ≠ 0 then digestsAgree (modReplica s1 t fun y => { y with peer := Config.pkgId }) t
      else
        let rooms := (List.finRange 64).filter fun u => owns s1 t u
        alsoHost (requestStop s1 (extendRooms s1 rooms) true true) (supervisor t)
  | _, _ => s

/-- The digest is taken after the last arrival and sent to the peer in the control class (R343). -/
def takeDigest (s : State) (t : TenantId) : State :=
  let x := (s.tenant t).replica
  let d := sha256 (declaredBytes s t)
  let s1 := modReplica s t fun y => { y with own := some (d, x.errs) }
  compareDigests (sendPacket s1 9 x.peer.toNat t (leBytes 1 t.val ++ digestBytes d ++ leBytes 8 x.count.toNat ++ leBytes 4 x.errs.toNat)) t

/-- BARRIER_COMPLETION: once every participant has arrived and runs, the barrier completes, at scope package after the digests agree. A digest waits
until every declared byte can be read. -/
def execBarrierCompletion (t : TenantId) (scope : Fin 3) (inst : Nat) (s : State) : Host.Outcome State Fault Refusal :=
  .next <|
    let x := (s.tenant t).replica
    if !allArrived s t scope inst ∨ anyPaused s t scope inst then s
    else if scope = 2 ∧ digestOn s t then
      if x.own.isSome then compareDigests s t else if (x.pending ∧ !x.rerun) ∨ declaredWaits s t then s else takeDigest s t
    else passAll s t scope inst

/-- PEER_DIGEST: the peer's digest of a barrier arrives, in flits that are received (R345), and is compared with this package's own. -/
def execPeerDigest (t : TenantId) (digest : BitVec 256) (count : Word) (errs : BitVec 32) (s : State) : Host.Outcome State Fault Refusal :=
  .next <|
    let s1 := countEvents s (.ctx hypervisor) 0x11 (flitsOf 45)
    if digestOn s1 t then compareDigests (modReplica s1 t fun x => { x with got := some (digest, count, errs) }) t else s1

/-- DIGSTAT_WRITE: the rollback marks its rerun (R430, R432). -/
def execDigstatWrite (t : TenantId) (v : Word) (s : State) : Host.Outcome State Fault Refusal :=
  .next (if featOn s 3 then modReplica s t fun x => { x with rerun := v.getLsbD 1 } else s)

/-- DIGPEER_WRITE: the package's own number turns comparison off, and a barrier that waits for a peer digest completes (R433), once the participants'
clocks run. -/
def execDigpeerWrite (t : TenantId) (v : Word) (s : State) : Host.Outcome State Fault Refusal :=
  .next <|
    if !featOn s 3 then s
    else
      let s1 := modReplica s t fun x => { x with peer := v.setWidth 9 }
      if (s1.tenant t).replica.peer = Config.pkgId ∧ (s1.tenant t).replica.own.isSome then
        let s2 := modReplica s1 t fun x => { x with own := none, got := none }
        if anyPaused s2 t 2 0 then s2 else passAll s2 t 2 0
      else s1

end Sys2Proof.Machine
end

