-- ==== Sys2Proof/Machine/Events.lean ====
section
/-! DEFINITION. Event rings, counter overflow, LSSPLIT, frame migration, L2 slice ports, and the writes of the order-log, trace and room-fault
registers: spec/02_state_and_addressing.md R55, spec/10_copy_and_drain.md R247, spec/15_tenancy_and_service.md R325, R327-R328,
spec/16_determinism_and_observation.md R337-R349, spec/19_faults_rooms_and_engines.md R378, spec/20_faults_memory.md R398-R399,
spec/22_faults_fabric_and_replicas.md R418-R420. -/

namespace Sys2Proof.Machine

/-! ### Event rings (R327) -/

/-- All 256 slots are unread. -/
def ringFull (x : Ctx) : Bool := x.evqtail - x.evqhead == 256

/-- The arbiter writes the oldest held event of a context and then the index word. A write that would fault leaves the event held and stalls
the ring; one that must wait is tried again in the next cycle. -/
def pushEvent (s : State) (c : CtxId) : State :=
  let x := s.ctx c
  match x.events with
  | [] => s.modCtx c fun y => { y with evqStalled := false, evqRetry := false }
  | e :: rest =>
    if x.evqbase = 0 ∨ ringFull x then s
    else
      let t := ctxTenant s c
      let base := x.evqbase.toNat
      let tail := x.evqtail + 1
      match storeVa s t (base + 32 * (x.evqtail.toNat % 256)) (eventBytes e) 0xffff with
      | (.wait, s1) => s1.modCtx c fun y => { y with evqRetry := true }
      | (.fault _, s1) => s1.modCtx c fun y => { y with evqStalled := true, evqRetry := false }
      | (.ok (), s1) =>
        match storeVa s1 t (base + 8192) (leBytes 8 tail.toNat) 0xffff with
        | (.wait, s2) => s2.modCtx c fun y => { y with evqRetry := true }
        | (.fault _, s2) => s2.modCtx c fun y => { y with evqStalled := true, evqRetry := false }
        | (.ok (), s2) => s2.modCtx c fun y => { y with events := rest, evqtail := tail, evqStalled := false, evqRetry := false }

/-- The sequence number of the event that the arbiter would write next to a context's ring: the ring has an address and room and is not stalled. -/
def ringNext (x : Ctx) : Option Nat :=
  if x.evqbase = 0 ∨ ringFull x ∨ (x.evqStalled ∧ !x.evqRetry) then none else x.events.head?.map (·.seq)

/-- Whether that event comes before those of the other rings: records are written in the order of the sequence numbers. -/
def ringTurn (s : State) (c : CtxId) : Bool :=
  match ringNext (s.ctx c) with
  | some n => (List.finRange 128).all fun d => match ringNext (s.ctx d) with | some m => decide (n ≤ m) | none => true
  | none => false

/-- EVENT_RING_WRITE: one event reaches its ring, unless the ring is full, has no address or is stalled, or an earlier event comes first. -/
def execEventRingWrite (c : CtxId) (s : State) : Host.Outcome State Fault Refusal := .next (if ringTurn s c then pushEvent s c else s)

/-- A write of EVQHEAD or EVQBASE makes the arbiter try a stalled write again. -/
def retryEvent (s : State) (c : CtxId) : State := if (s.ctx c).evqStalled then pushEvent s c else s

/-- EVQHEAD_WRITE. -/
def execEvqheadWrite (c : CtxId) (v : Word) (s : State) : Host.Outcome State Fault Refusal :=
  .next (retryEvent (s.modCtx c fun x => { x with evqhead := v.setWidth 9 }) c)

/-- EVQBASE_WRITE. -/
def execEvqbaseWrite (c : CtxId) (v : Word) (s : State) : Host.Outcome State Fault Refusal :=
  .next (retryEvent (s.modCtx c fun x => { x with evqbase := v }) c)

/-! ### Counters (R347) -/

/-- The context that gets a counter's overflow and the tenant that it concerns: the supervisor of the room's owner or of the context's
tenant; without an owner, and for its own counters, the hypervisor. -/
def counterTarget (s : State) : BankRef → CtxId × Nat
  | .bank u _ => match ownerOf? s u with | some t => (supervisor t, t.val) | none => (hypervisor, 0)
  | .ctx c => if c = hypervisor then (hypervisor, 0) else (supervisor (ctxTenant s c), (ctxTenant s c).val)

/-- COUNTER_OVERFLOW: the sticky bit sets and the event is posted. -/
def execCounterOverflow (b : BankRef) (n : Fin 8) (s : State) : Host.Outcome State Fault Refusal :=
  .next <|
    let c := countersOf s b
    let (target, t) := counterTarget s b
    postEvent (setCounters s b { c with ovf := c.ovf ||| (1 <<< n.val) }) target evCounter t b.source (BitVec.ofNat 128 n.val)

/-! ### LSSPLIT (R55) -/

/-- LSSPLIT_WRITE: L1 is invalidated, and bytes that return to the scratchpad read zero. -/
def execLssplitWrite (u : SuiteId) (v : Word) (s : State) : Host.Outcome State Fault Refusal :=
  .next <|
    let old := scratchLimit (s.suite u)
    let s1 := s.modSuite u fun x => { x with l1 := [], l1mib := v.setWidth 4 }
    let new := scratchLimit (s1.suite u)
    (s1.modSuite u fun x => { x with ls := memClear x.ls old (new - old) }).modPkg fun p =>
      { p with flips := p.flips.filter fun e => match e with
          | .ls w a => !(w == u && decide (old ≤ a) && decide (a < new))
          | _ => true }

/-! ### Migration (R29, R247, R398, R399) -/

/-- Entry i of a tile table as it stands in memory. -/
def pteAt (s : State) (d : Desc) (i : Nat) : Word := BitVec.ofNat 64 (leNat (devRead s (d.ttab + 8 * i) 8))
def putPte (s : State) (d : Desc) (i : Nat) (v : Word) : State := devWrite s (d.ttab + 8 * i) (leBytes 8 v.toNat)
def migrBit : Word := 0x1000000000000000

/-- The descriptor of a segment as it stands in memory. -/
def homeDesc (s : State) (t : TenantId) (seg : Nat) : Option Desc :=
  let (base, cnt) := segTable s t
  if cnt ≤ seg then none else parseDesc (featOn s 1) (devRead s (base + 64 * seg) 64)

/-- Whether a range of n bytes lies partly in a frame. -/
def inFrame (f a n : Nat) : Bool := n != 0 && decide (a / 65536 ≤ f) && decide (f ≤ (a + n - 1) / 65536)

/-- Whether a tenant's tables lie in a frame, or an entry of one of its tile tables names it, present or not. -/
def frameNamed (s : State) (t : TenantId) (f : Nat) : Bool :=
  let (base, cnt) := segTable s t
  inFrame f base (64 * cnt) || (List.range cnt).any fun seg => match homeDesc s t seg with
    | some d => inFrame f d.ttab (8 * d.nent) || (List.range d.nent).any fun i => ((pteAt s d i).setWidth 40).toNat == f
    | none => false

/-- A frame that the walker may bind: nothing names it and nothing is kept in it. -/
def frameUnused (s : State) (f : Nat) : Bool :=
  let mine := fun (a : Nat) => a / 65536 == f
  !(s.pkg.mem.any fun c => mine c.1) && !(s.pkg.poison.any fun l => l / 1024 == f) && !(s.pkg.frames.owner.any fun p => p.1 == f)
    && !(s.pkg.frames.releasing.any fun p => p.1 == f) && !(s.pkg.stamps.any fun p => p.1 / 4096 == f)
    && !(s.pkg.migrating.any fun m => m.moved.any fun p => (p.2.setWidth 40).toNat == f) && !((List.finRange 64).any fun t => frameNamed s t f)

/-- Key slots of a tenant. -/
def slotsOfTenant (s : State) (t : TenantId) : List Nat := (List.range 128).filter fun k => match s.pkg.keys.toList[k]? with | some x => x.tenant == some t | none => false

/-- The bytes of a frame that its copy carries, by address: what is listed of an installed one, and every byte as it reads of one in another package. -/
def frameCells (s : State) (f : Nat) : List (Nat × Byte) :=
  if f < frameCount then s.pkg.mem.filter fun c => c.1 / 65536 == f
  else (List.range 65536).map fun k => (65536 * f + k, devByte s (65536 * f + k))

/-- A frame is copied with its poison, and single-bit errors of the source are corrected (R408). What is read under the entry's key slot is written under the new one, so that no read changes; without a new slot
the frame keeps its draws. -/
def copyFrame (s0 : State) (src dst old : Nat) (new : Option Nat) : State :=
  let s := countLost (correctErrors s0 (65536 * src) 65536) (65536 * src)
  let bytes := frameCells s src
  let drawn := s.pkg.stamps.filter fun q => q.1 / 4096 == src
  let raw := bytes.foldl (fun m c => memPut m (c.1 % 65536 + dst * 65536) c.2) s.pkg.mem
  let mem := if new.isNone then raw
    else drawn.foldl (fun m q => memWrite m (16 * (q.1 % 4096) + dst * 65536) (physBytes s old (16 * q.1) 16)) raw
  s.modPkg fun p =>
    { p with mem := mem
             stamps := drawn.map (fun q => (q.1 % 4096 + dst * 4096, match new with | some k => stampOf s k | none => q.2)) ++ p.stamps
             poison := (p.poison.filter fun l => l / 1024 == src).map (fun l => l % 1024 + dst * 1024) ++ p.poison
             frames := { p.frames with owner := (p.frames.owner.filter fun q => q.1 == src).map (fun q => (dst, q.2)) ++ p.frames.owner } }

/-- The hold: with no copy counted in busy the segment is held, and its present entries are read and marked. -/
def migrationHold (s : State) (t : TenantId) (seg : Nat) (d : Desc) : State :=
  let entries := ((List.range d.nent).map fun i => (i, pteAt s d i)).filter fun p => p.2.getLsbD 63
  let s1 := entries.foldl (fun s p => putPte s d p.1 (p.2 ||| migrBit)) s
  (s1.modTenant t fun x => { x with held := seg :: x.held }).modPkg fun p => { p with migrating := p.migrating ++ [⟨t, seg, entries, [], false⟩] }

def modMigr (s : State) (m : Migr) (f : Migr → List Migr) : State :=
  s.modPkg fun p => { p with migrating := p.migrating.flatMap fun x => if x = m then f x else [x] }

/-- MIGRATION: the next of its steps: hold, the copy of one frame, the rebind of every entry, the release. The walker picks the frames,
and for each the key slot of its stack among the tenant's (R324; log 40). -/
def execMigration (t : TenantId) (seg : Fin 65536) (s : State) : Host.Outcome State Fault Refusal :=
  .next <|
    match homeDesc s t seg.val with
    | none => s
    | some d =>
      match s.pkg.migrating.find? fun m => m.tenant == t && m.seg == seg.val with
      | none => if d.pinned ∨ d.busy ≠ 0 ∨ (s.tenant t).held.contains seg.val then s else migrationHold s t seg.val d
      | some m =>
        match m.todo with
        | (i, e) :: rest =>
          let (f, s1) := chooseBelow s frameCount
          if !frameUnused s1 f then s1
          else
            let old := natBits e.toNat 50 7
            let slots := slotsOfTenant s1 t
            let (k, s2) := chooseBelow s1 (max 1 slots.length)
            let key := if slots.contains old then slots[k]? else none
            let new : Word := (e &&& 0xfe03ff0000000000) ||| BitVec.ofNat 64 (f + 2 ^ 50 * key.getD old) ||| migrBit
            modMigr (copyFrame s2 (e.setWidth 40).toNat f old key) m fun x => [{ x with todo := rest, moved := x.moved ++ [(i, new)] }]
        | [] =>
          if !m.bound then modMigr (m.moved.foldl (fun s p => putPte s d p.1 p.2) s) m fun x => [{ x with bound := true }]
          else
            let p := fun (g : Nat) => g == seg.val
            let s1 := triggerSegment (invalidateSegments s t p) t p
            let s2 := m.moved.foldl (fun s q => putPte s d q.1 (pteAt s d q.1 &&& ~~~migrBit)) s1
            modMigr (s2.modTenant t fun x => { x with held := x.held.filter (· != seg.val) }) m fun _ => []

/-! ### L2 slice ports (R325, R418, R419) -/

def modPort (s : State) (port : Nat) (f : L2Port → L2Port) : State :=
  s.modPkg fun p => { p with l2 := p.l2.map fun x => if x.port = port then f x else x }
def portOf (s : State) (port : Nat) : Option L2Port := s.pkg.l2.find? fun x => x.port == port

/-- Bucket and fraction of a tenant at a port. -/
def L2Port.bucket (x : L2Port) (t : TenantId) : Nat × Nat := match x.buckets.find? fun b => b.1 == t with | some (_, b, f) => (b, f) | none => (0, 0)
def L2Port.setBucket (x : L2Port) (t : TenantId) (b f : Nat) : L2Port :=
  { x with buckets := (t, b, f) :: x.buckets.filter fun y => y.1 != t }

/-- Tenants in round-robin order after the one last granted. -/
def robinOrder (last : Nat) : List TenantId := (List.range 64).map fun i => ⟨(last + 1 + i) % 64, Nat.mod_lt _ (by decide)⟩

/-- Whether a request carries the trace tag (R351). -/
def L2Req.traced (r : L2Req) : Bool := match r.who with | .trace _ => true | _ => false
/-- Whether it is one of a tenant, for which the port takes tokens. -/
def L2Req.isOf (t : TenantId) (r : L2Req) : Bool := r.tenant == t && !r.traced

/-- The tenant that a port grants, and whether from its bucket. -/
def L2Port.choose (x : L2Port) (prio : TenantId → Nat) : Option (TenantId × Bool) :=
  let asks := fun (t : TenantId) => x.reqs.any (L2Req.isOf t)
  match (robinOrder x.last).find? fun t => asks t && decide (1 ≤ (x.bucket t).1) with
  | some t => some (t, true)
  | none =>
    if x.pool = 0 then none
    else ((List.finRange 64).filter asks).foldl (fun best t =>
      match best with
      | none => some (t, false)
      | some (b, _) => if prio b < prio t then some (t, false) else best) none

/-- A request that has waited one more cycle. -/
def L2Req.older (r : L2Req) : L2Req := { r with wait := r.wait + 1 }

/-- The oldest request that a predicate selects, and the others a cycle older. -/
def takeRequest (p : L2Req → Bool) : List L2Req → Option L2Req × List L2Req
  | [] => (none, [])
  | r :: rest =>
    if p r then (some r, rest.map L2Req.older)
    else match takeRequest p rest with | (g, l) => (g, r.older :: l)

/-- The port grants the oldest request that a predicate selects: its access may now be made. -/
def L2Port.grant (x : L2Port) (p : L2Req → Bool) : L2Port :=
  match takeRequest p x.reqs with
  | (some r, l) => { x with reqs := l, granted := x.granted ++ [(r.who, r.line)] }
  | (none, l) => { x with reqs := l }

/-- L2_PORT_GRANT: at most one request is granted; traffic with the trace tag only where no tenant's request is (R418). QOSWAIT keeps a tenant's longest wait. -/
def execL2PortGrant (port : Nat) (s : State) : Host.Outcome State Fault Refusal :=
  .next <|
    match portOf s port with
    | none => s
    | some x =>
      if x.reqs.isEmpty then s
      else
        let y := match x.choose fun t => (s.tenant t).qos.prio.toNat with
          | none => x.grant L2Req.traced
          | some (t, true) => { (x.setBucket t ((x.bucket t).1 - 1) (x.bucket t).2).grant (L2Req.isOf t) with last := t.val }
          | some (t, false) => { x.grant (L2Req.isOf t) with pool := x.pool - 1 }
        x.reqs.foldl (fun s q =>
          if !q.traced ∧ (s.tenant q.tenant).qos.wait.toNat < q.wait then
            s.modTenant q.tenant fun z => { z with qos := { z.qos with wait := BitVec.ofNat 32 (min q.wait 0xffffffff) } }
          else s) (modPort s port fun _ => y)

/-- One tenant's refill at a port. -/
def refillTenant (depth rate : TenantId → Nat) (x : L2Port) (t : TenantId) : L2Port :=
  let (b, f) := x.bucket t
  let n := f + rate t
  if n < 1024 then x.setBucket t b n
  else if b < depth t then x.setBucket t (b + 1) (n - 1024)
  else { x.setBucket t b (n - 1024) with pool := min 4096 (x.pool + 1) }

/-- L2_BUCKET_REFILL: every tenant's fraction grows by its rate. -/
def execL2BucketRefill (port : Nat) (s : State) : Host.Outcome State Fault Refusal :=
  .next (modPort s port fun x =>
    (List.finRange 64).foldl (refillTenant (fun t => (s.tenant t).qos.depth.toNat) fun t => (s.tenant t).qos.rate.toNat) x)

/-- L2QOS_WRITE: the write applies at every slice port, where a bucket holds at most depth tokens (R325). -/
def execL2qosWrite (t : TenantId) (v : Word) (s : State) : Host.Outcome State Fault Refusal :=
  .next <|
    let depth := natBits v.toNat 16 13
    (s.modTenant t fun x =>
      { x with qos := { x.qos with prio := v.extractLsb' 32 4, depth := v.extractLsb' 16 13, rate := v.extractLsb' 0 11 } }).modPkg fun p =>
        { p with l2 := p.l2.map fun x => if (x.bucket t).1 ≤ depth then x else x.setBucket t depth (x.bucket t).2 }

/-! ### Order log registers (R338-R340), trace and room faults (R349, R378) -/

/-- OLOGW_WRITE (R340). A write whose choice must wait (R338, R339) stays in flight and is judged anew in the next cycle. -/
def execOlogwWrite (c : CtxId) (v : Word) (s : State) : Host.Outcome State Fault Refusal :=
  .next <|
    let t := ctxTenant s c
    if !featOn s 2 then s
    else
      match ologChoice s t 4 (256 + c.val) v.toNat with
      | (some x, s1) => s1.modTenant t fun y => { y with olog := { y.olog with r := BitVec.ofNat 64 x } }
      | (none, s1) => s1.modBank (.ctx c) fun b => { b with fly := b.fly ++ [⟨.a, 0, [.csr 0x604 (.write v)], 0, 0, false⟩] }

/-- OLOGLIM_WRITE: choices that wait for room in the log go on once it is raised (R338). -/
def execOloglimWrite (t : TenantId) (v : Word) (s : State) : Host.Outcome State Fault Refusal :=
  .next (if featOn s 2 then s.modTenant t fun x => { x with olog := { x.olog with lim := v.setWidth 48, full := false } } else s)

/-- REPLAYDIV: the entry at OLOGPOS grows older, readable or not; 2^24 cycles unconsumed, or of an unassigned kind, it traps, once while it is next
(R339). -/
def execReplaydiv (t : TenantId) (s : State) : Host.Outcome State Fault Refusal :=
  .next <|
    if ologMode s t ≠ 2 then s
    else
      let s1 := ologSkip t 64 s
      let o := (s1.tenant t).olog
      let put := fun (n : Nat) => s1.modTenant t fun x => { x with olog := { x.olog with age := n } }
      let (known, src) := match ologEntry s1 t with
        | some (k, src, _) => (decide (1 ≤ k) && decide (k ≤ 5), src)
        | none => (true, 256 + t.val)
      if ologPassed s1 t ∨ o.lim.toNat ≤ o.pos.toNat ∨ 2 ^ 24 ≤ o.age then s1
      else if known = false ∨ o.age + 1 = 2 ^ 24 then externalTrap (put (2 ^ 24)) (supervisor t) cREPLAYDIV t.val src (o.pos.setWidth 64)
      else put (o.age + 1)

/-- TRCTL_WRITE (R349). -/
def execTrctlWrite (t : TenantId) (v : Word) (s : State) : Host.Outcome State Fault Refusal :=
  .next (s.modTenant t fun x => { x with trace := { x.trace with ctl := v.setWidth 6 } })

/-- ROOMFLT_CLEAR: writing 1 to ovfclr clears the INT32 overflow bit of ROOMSTAT, but for an overflow of the same cycle (R378, R392). -/
def execRoomfltClear (u : SuiteId) (s : State) : Host.Outcome State Fault Refusal := .next (s.modRoom u fun x => { x with ovf := x.ovfNow })

end Sys2Proof.Machine
end

