-- ==== Sys2Proof/Machine/Tenancy.lean ====
section
/-! DEFINITION. Keys, ownership, wing shapes set by supervisors, resets, accepted features, passages and locks:
spec/13_scan_segments.md R293, spec/14_context_images.md R315, spec/15_tenancy_and_service.md R321-R332, spec/02_state_and_addressing.md R51,
spec/20_faults_memory.md R404, spec/21_faults_scan_and_tenancy.md R415-R421. -/

namespace Sys2Proof.Machine

/-! ### Key slots (R324) -/

/-- A fresh key pair is drawn for a slot, or its keys are erased. -/
def drawKey (s : State) (slot : Fin 128) (t : Option TenantId) : State :=
  s.modPkg fun p => { p with keys := p.keys.set slot.val ⟨t, (p.keys.get slot).draw + 1⟩ slot.isLt }

/-- KEYCTL_ASSIGN. -/
def execKeyctlAssign (t : TenantId) (slot : Fin 128) (s : State) : Host.Outcome State Fault Refusal := .next (drawKey s slot (some t))
/-- KEYCTL_RELEASE. -/
def execKeyctlRelease (slot : Fin 128) (s : State) : Host.Outcome State Fault Refusal := .next (drawKey s slot none)

/-! ### Ownership (R293, R51, R315) -/

/-- Errors struck in the stores of a room and its Suite are gone with what they struck. -/
def dropRoomErrors (s : State) (u : SuiteId) : State :=
  s.modPkg fun p => { p with flips := p.flips.filter fun e => match e with
    | .ls v _ => v != u
    | .tile v _ _ _ => v != u
    | .acc v _ _ _ => v != u
    | _ => true }

/-- A room passes to another tenant: R51 zeroes what a Visit could leave, R346, R378 and R392 the counters and the overflow bit, and its idle PEs hold no
psums (R195). -/
def zeroContents (s : State) (u : SuiteId) : State :=
  let s1 := (dropRoomErrors s u).modSuite u fun x =>
    { x with tiles := Vector.replicate 48 Tile.zero, masks := Vector.replicate 8 Mask.zero,
             chanter := { x.chanter with c := Vector.replicate 8 0 }, ls := [], l1 := [], counters := Counters.reset }
  s1.modRoom u fun x => { quietRoom x with acc := Vector.replicate 32 AccTile.zero, ce := 0, ue := 0, ovf := false, ovfNow := false }

/-- The Visits that a Suite still holds when its bit is cleared become detached: they live on in a saved image alone, and stay placed Visits (R315). -/
def detach (s : State) (u : SuiteId) : State :=
  let held := [(0 : Fin 2), 1].any fun b => (s.bank (.bank u b)).visit.isSome
  if !held then s
  else
    let gone := [(0 : Fin 2), 1].filterMap fun b => (s.bank (.bank u b)).visit
    let s0 := s.modPkg fun p => { p with away := p.away ++ gone.filter fun v => !p.away.any (sameVisit v) }
    let s1 := [(0 : Fin 2), 1].foldl (fun s b => freeMonitor s (.bank u b)) s0
    let s2 := s1.modSuite u fun x =>
      { x with banks := Vector.replicate 2 Bank.reset, mq := [], mrun := [], cqueue := [], crun := [], snapIn := none,
               chanter := { x.chanter with busy := false, trapped := false, ending := false } }
    s2.modRoom u fun x =>
      { quietRoom x with runs := [], busy := false, atomics := [], halt := Halt.reset, drone := Drone.reset, drain := none, unitOld := [],
                         seqIn := none, feedA := none, feedB := none, aShift := (0, 0), bShift := (0, 0) }

/-- One bit of a written mask. -/
def ownBit (t : TenantId) (v : Word) (s : State) (u : SuiteId) : State :=
  let has := owns s t u
  let wants := v.getLsbD u.val
  let put := fun (s : State) (f : Word → Word) => s.modTenant t fun x => { x with mask := f x.mask }
  if wants && !has then
    if (ownerOf? s u).isSome then s
    else
      let s1 := match (s.room u).lastOwner with | some o => if o = t then s else zeroContents s u | none => s
      (put s1 fun m => m ||| (1 <<< u.val)).modRoom u fun x => { x with lastOwner := some t }
  else if has && !wants then
    if (s.room u).stopped && (s.suite u).stopped then put (detach s u) fun m => m &&& ~~~((1 : Word) <<< u.val) else s
  else s

/-- OWNMASK_WRITE. -/
def execOwnmaskWrite (t : TenantId) (v : Word) (s : State) : Host.Outcome State Fault Refusal :=
  .next ((List.finRange 64).foldl (ownBit t v) s)

/-! ### WINGSET (R314) -/

/-- WINGSET_WRITE: the rooms of the wing at WINGSEL take a shape, and the Visits that they hold its envelope. -/
def execWingsetWrite (c : CtxId) (v : Word) (s : State) : Host.Outcome State Fault Refusal :=
  .next <|
    let lead : SuiteId := ⟨(s.pkg.wingsel.get c).toNat, (s.pkg.wingsel.get c).isLt⟩
    let shape : Fin 9 := ⟨v.toNat % 16 % 9, by omega⟩
    (wingRooms lead shape.val).foldl (fun s u => s.modSuite u fun x =>
      { x with banks := x.banks.map fun b => { b with visit := b.visit.map fun w => { w with lead := lead, shape := shape } } })
      (setEnvelope s lead shape.val)

/-! ### Resets (R329, R415-R420) -/

/-- Every Visit held in a bank of some rooms is aborted without replace, in every room of its wing; `done` is what ends each abort. -/
def abortRooms (s : State) (rooms : List SuiteId) (done : SuiteId → State → State) : State :=
  rooms.foldl (fun s u => [(0 : Fin 2), 1].foldl (fun s b =>
    match (s.bank (.bank u b)).visit with
    | some v => done u (abortVisit s b v false)
    | none => s) s) s

/-- A room and its Suite at zero; the wing that the room belongs to is kept. -/
def zeroRoom (stopped : Bool) (s : State) (u : SuiteId) : State :=
  let r := s.room u
  let s1 := [(0 : Fin 2), 1].foldl (fun s b => freeMonitor s (.bank u b)) (dropRoomErrors s u)
  ((s1.setSuite u { Suite.reset with stopped := stopped }).setRoom u
    { Room.reset u with wingLead := r.wingLead, wingShape := r.wingShape, lastOwner := r.lastOwner, stopped := stopped }).modPkg fun p =>
      { p with stopReq := p.stopReq.filter fun q => q.1 != u }

/-- The reset-complete event of a level (R327, R328). -/
def resetComplete (s : State) (tenant source level : Nat) : State := postEvent s hypervisor evReset tenant source (BitVec.ofNat 128 level)

/-- RESET_ROOM: scan commands that name the room end, its Visits are aborted, and it is zeroed and left stopped. -/
def execResetRoom (u : SuiteId) (s : State) : Host.Outcome State Fault Refusal :=
  .next <|
    let t := match ownerOf? s u with | some t => t.val | none => 0
    resetComplete (zeroRoom true (abortRooms (endScans s false [u]) [u] fun _ s => s) u) t u.val 3

/-- Passages of a boundary, with no register set and no slot. -/
def clearBoundary (s : State) (b : Fin 5) : State :=
  s.modPkg fun p => { p with passages := p.passages.set b.val (Vector.replicate 8 Passage.reset) b.isLt }

/-- RESET_DIE: the rooms of the die as after reset, RCYC at 0, its slice ports and its passages empty. -/
def execResetDie (d : DieId) (s : State) : Host.Outcome State Fault Refusal :=
  .next <|
    let rooms := (List.finRange 64).filter fun u => dieOf u == d.val
    let s1 := abortRooms (endScans s true rooms) rooms fun _ s => s
    let s2 := rooms.foldl (fun s u => (zeroRoom false s u).modRoom u fun x => { x with wingLead := u, wingShape := 0 }) s1
    let s3 := clearBoundary (clearBoundary s2 ⟨d.val, by omega⟩) (if d.val = 0 then 4 else ⟨d.val - 1, by omega⟩)
    let s4 := s3.modPkg fun p =>
      { p with rcyc := p.rcyc.set d.val 0 d.isLt, throttle := p.throttle.set d.val 0 d.isLt,
               l2 := p.l2.map fun x => if x.port / 384 = d.val then ⟨x.port, [], 0, 63, [], []⟩ else x }
    resetComplete s4 0 (256 + 127) 1

/-- Contexts that act for a tenant: its supervisor and its helpers. -/
def contextsOf (s : State) (t : TenantId) : List CtxId :=
  (List.finRange 128).filter fun c => c == supervisor t || (decide (64 ≤ c.val) && decide (c.val < 127) && (s.ctx c).helperTenant == t)

/-- The arbiter writes what it can of the events sequenced before the reset (R420). -/
def flushEvents (c : CtxId) : Nat → State → State
  | 0, s => s
  | n + 1, s => if (s.ctx c).events.isEmpty ∨ (s.ctx c).evqStalled then s else flushEvents c n (pushEvent s c)

/-- The event registers of a context at zero: its events are held until EVQBASE is set (R420). -/
def closeRing (x : Ctx) : Ctx := { x with evqbase := 0, evqhead := 0, evqtail := 0, evqStalled := false, evqRetry := false, hostfwd := false }

/-- A stream stops, and nothing of its work under way is delivered any more. -/
def stopStream (st : Stream) : Stream := { st with running := false, semNew := Vector.replicate 8 0 }
/-- The streams of a context stop, and what their accesses and results in flight would still do is dropped (R415). -/
def dropStreams (b : Bank) : Bank :=
  { b with sa := stopStream b.sa, sx := stopStream b.sx, lq := [], sq := [], replay := [], aligns := [], fence := none, fly := [], divs := [], prefetch := [] }

/-- The supervisor restarts stopped, at zero; a helper stops (R329 steps 4 and 5). Neither makes another request. -/
def resetContext (t : TenantId) (s : State) (c : CtxId) : State :=
  (freeMonitor s (.ctx c)).modCtx c fun x =>
    if c = supervisor t then { Ctx.reset with events := x.events, tinv := x.tinv, frel := x.frel }
    else { x with running := false, regs := dropStreams x.regs, scans := [], held := [], lock := none }

/-- Every lock of a tenant is released, whichever context holds it (R404). -/
def freeLocks (s : State) (t : TenantId) : State := (s.tenant t).locks.foldl (fun s q => s.modCtx q.2 fun x => { x with lock := none }) s

/-- A passage of the tenant is disabled; what crosses packages is no longer joined, and the peer learns of it (R329, R417). -/
def dropPassage (t : TenantId) (s : State) (b : Fin 5) (p : Fin 8) : State :=
  let x := passage s b p
  if !x.en ∨ x.tenant ≠ t.val then s
  else
    let s1 := modPassage s b p fun y => { y with csr := y.csr &&& 0xffffffff7fffffff, slots := [], used := 0, nextSlot := 0, filled := [] }
    if 3 ≤ b.val ∧ x.peer ≠ Config.pkgId.toNat then
      sendPacket s1 10 x.peer t (leBytes 1 t.val ++ leBytes 1 p.val ++ leBytes 1 (if b.val = 3 then 1 else 0))
    else s1

/-- What a tenant keeps: the ownership mask, DETCTL, L2QOS and LINKW, and the frames that the walker is moving. -/
def clearedTenant (x : Tenant) : Tenant :=
  { Tenant.reset with mask := x.mask, detctl := x.detctl, qos := x.qos, held := x.held }

/-- The tenant's packets in flight, of both classes, and its flits in the replay buffers are discarded at every port, and its requests at every slice port;
those of others keep their order (R329, R428). -/
def dropTraffic (s : State) (t : TenantId) (ctxs : List CtxId) : State :=
  let keep := fun (q : Waiting) => q.tenant != t
  let mine := fun (a : Asker) => match a with
    | .agent (.bank u _) => owns s t u
    | .agent (.ctx c) => ctxs.contains c
    | .scan c => ctxs.contains c
    | .olog x => x == t
    | .trace x => x == t
  let port := fun (l : Link) =>
    { l with waiting := l.waiting.filter keep, escaped := l.escaped.filter keep, sent := l.sent.filter fun q => q.tenant != t,
             resend := l.resend.filter fun q => q.tenant != t, credit := l.credit.filter fun q => q.1 != t }
  s.modPkg fun p =>
    { p with links := p.links.map port
             l2 := p.l2.map fun x => { x with reqs := x.reqs.filter fun q => q.tenant != t, granted := x.granted.filter fun q => !mine q.1 }
             away := p.away.filter fun v => v.tenant != t }

/-- RESET_TENANT (R329, R415-R420). It is over in one event, so that the tenant's requests, refills and link share during it do not show (log 41). -/
def execResetTenant (t : TenantId) (s : State) : Host.Outcome State Fault Refusal :=
  .next <|
    let ctxs := contextsOf s t
    let rooms := (List.finRange 64).filter fun u => owns s t u
    let s1 := ctxs.foldl (fun s c => (flushEvents c (s.ctx c).events.length s).modCtx c closeRing) (endScans s false rooms)
    let s2 := (s1.tenant t).launches.foldl (fun s x => postEnd s t x.id 1 (256 + t.val)) s1
    let s3 := abortRooms s2 rooms fun u s => postEvent s (supervisor t) evReset t.val u.val 4
    let s4 := rooms.foldl (zeroRoom true) s3
    let slots := (List.finRange 128).filter fun k => (s4.pkg.keys.get k).tenant == some t
    let s5 := slots.foldl (fun s k => drawKey s k (some t)) (dropTraffic s4 t ctxs)
    let s6 := (List.finRange 5).foldl (fun s b => (List.finRange 8).foldl (fun s p => dropPassage t s b p) s) s5
    let insts := (List.range s6.pkg.colls.length).filter fun i => match s6.pkg.colls[i]? with | some x => x.tenant == t && !x.closed | none => false
    let s7 := insts.foldl abandonInst s6
    let s8 := ctxs.foldl (resetContext t) ((freeLocks s7 t).modTenant t clearedTenant)
    resetComplete s8 t.val (256 + t.val) 2

/-! ### Package reset and bring-up (R329-R332) -/

/-- The hypervisor image that the firmware starts. -/
def bootImage : Image :=
  { tenant := 0, seg := 0, nlines := Config.bootLines, dual := false, entryA := Config.bootEntryA, entryX := Config.bootEntryX, entryCh := 0,
    drains := [], latency := (List.range 12).map Config.latency,
    lines := (List.range Config.bootLines).map fun i => (List.range 16).map fun j => Config.bootWord (16 * i + j) }

/-- The state of reset; what the outside has still to do, what has been sent and the free choices used are the model's own. -/
def resetState (s : State) : State :=
  { State.reset with inputs := s.inputs, resetFrom := s.resetFrom, fresh := s.fresh, pkg := { Package.reset with out := s.pkg.out } }

/-- The firmware trains the links; which ports have a partner is a free choice (R331, R423; log 41). -/
def trainLinks (s : State) : State :=
  (List.finRange 12).foldl (fun s i =>
    let (k, s1) := chooseBelow s 2
    s1.modPkg fun p => { p with links := p.links.set i.val { p.links.get i with trained := k == 0 } i.isLt }) s

/-- Verified firmware trains the links and starts the hypervisor in context 127; without it the package stays in reset (R331, R332). -/
def bringUp (s : State) : State :=
  if Config.firmwareGood then
    let run := fun (st : Stream) (line : W32) => { st with pos := line.toNat * 16, running := true }
    ((trainLinks s).modPkg fun p => { p with booted := true, images := [bootImage] }).modCtx hypervisor fun x =>
      { x with running := true, hasImage := true, image := 0,
               regs := { x.regs with sa := run x.regs.sa Config.bootEntryA, sx := run x.regs.sx Config.bootEntryX } }
  else s

/-- A reply with a status only, of the kind of the message that it answers (R330). -/
def replyStatus (s : State) (kind : Nat) (t : TenantId) (tag : W16) (status : Byte) : State := sendHost s kind t.val tag.toNat [status]
/-- A package that stays in reset answers with a status that the manual does not name (R332, log 6). -/
def unbooted (s : State) (kind : Nat) (t : TenantId) (tag : W16) : State := replyStatus s kind t tag (Config.freeByte tag.toNat kind 0)

/-- PACKAGE_RESET: a RESET message, honoured from the fused host endpoint only, or power-on: everything is cleared, and bring-up follows (R329-R331). A
package whose firmware does not verify stays in reset and answers the message (R332). A message that is not honoured counts its flit (R345). -/
def execPackageReset (s : State) : Host.Outcome State Fault Refusal :=
  .next <|
    let s1 := if s.pkg.booted || !Config.firmwareGood then { s with resetFrom := s.resetFrom.tail } else s
    if !s.pkg.booted && !Config.firmwareGood then unbooted s1 3 0 0
    else if s.pkg.booted && s.resetFrom.head?.any (· != Config.hostEndpoint) then hostFlits s1 0
    else bringUp (resetState s1)

/-- FEATACC_WRITE: bits not offered are written as zero; FEATON mirrors the result (R331). Features 64-127 are not offered. -/
def execFeataccWrite (hi : Bool) (v : Word) (s : State) : Host.Outcome State Fault Refusal :=
  .next <|
    if s.pkg.featLocked then s
    else s.modPkg fun p => if hi then { p with featacc1 := 0 } else { p with featacc0 := v &&& Config.featOffered.setWidth 64 }

/-- DETCTL_WRITE (R335). -/
def execDetctlWrite (t : TenantId) (v : Word) (s : State) : Host.Outcome State Fault Refusal :=
  .next (s.modTenant t fun x => { x with detctl := v.setWidth 4 })

/-! ### Passage registers and locks (R267, R404) -/

/-- PASS_WRITE. The slots of a passage that holds none are numbered anew. -/
def execPassWrite (bd : Fin 5) (p : Fin 8) (v : Word) (s : State) : Host.Outcome State Fault Refusal :=
  .next (modPassage s bd p fun x => { x with csr := v &&& (if bd.val < 3 then 0x803f0f00 else 0x1ff803f0f00),
                                              nextSlot := if x.slots.isEmpty ∧ x.used = 0 ∧ x.filled.isEmpty then 0 else x.nextSlot })

/-- ALOCK_WRITE: the lock granted to the writer is held. -/
def execAlockWrite (c : CtxId) (v : Word) (s : State) : Host.Outcome State Fault Refusal :=
  .next (s.modCtx c fun x => { x with lock := some (lockOf v.toNat) })

/-- AUNLK_WRITE: the held lock is released. -/
def execAunlkWrite (c : CtxId) (s : State) : Host.Outcome State Fault Refusal :=
  .next <|
    if (s.ctx c).lock.isNone then s
    else
      { s.modCtx c fun x => { x with lock := none } with
        tenants := s.tenants.map fun x => { x with locks := x.locks.filter fun q => q.2 != c } }

end Sys2Proof.Machine
end

