-- ==== Sys2Proof/Machine/Fabric.lean ====
section
/-! DEFINITION. Host messages, Cheyrlink ports and packets, soft errors, thermal and power events, the landing of results and unassigned
encodings: spec/12_supersteps_and_collectives.md R268-R283, spec/15_tenancy_and_service.md R330-R333, spec/20_faults_memory.md R393, R408,
spec/22_faults_fabric_and_replicas.md R417, R422-R428, R435, spec/05_encoding.md R121, R364-R366. -/

namespace Sys2Proof.Machine

/-! ### Host messages (R330, R332) -/

/-- A host message is an event: the arbiter stamps it (R41). -/
def stampMessage (s : State) : State := s.modPkg fun p => { p with eventSeq := p.eventSeq + 1 }

/-- HOST_LAUNCH: submitted as LSUBMIT of the tenant; the reply carries LSTAT. A message that submits nothing is stamped too. -/
def execHostLaunch (t : TenantId) (tag : W16) (record : List Byte) (s0 : State) : Host.Outcome State Fault Refusal :=
  .next <|
    let s := hostFlits s0 record.length
    if !s.pkg.booted then unbooted s 1 t tag
    else if record.length ≠ 128 then replyStatus (stampMessage s) 1 t tag 1
    else
      let (st, s1) := submitLaunch (s.modPkg fun p => { p with featLocked := true }) t record
      replyStatus (if st = 0 then s1 else stampMessage s1) 1 t tag (BitVec.ofNat 8 st)

/-- HOST_DOORBELL. -/
def execHostDoorbell (t : TenantId) (v : Word) (s0 : State) : Host.Outcome State Fault Refusal :=
  .next <|
    let s := hostFlits s0 8
    if s.pkg.booted then postEvent s (supervisor t) evDoorbell t.val 0xffff (v.setWidth 128) else unbooted s 2 t 0

/-- The 128 bytes of a quote that are signed. -/
def quoteHead (s : State) (nonce : BitVec 256) : List Byte :=
  leBytes 4 0x54514a45 ++ leBytes 4 1 ++ leBytes 8 Config.devId.toNat ++ digestBytes nonce ++ digestBytes Config.firmwareHash ++
    leBytes 16 Config.featOffered.toNat ++ leBytes 16 (s.pkg.featacc1 ++ s.pkg.featacc0).toNat ++ leBytes 16 0

/-- HOST_QUOTE. The reply carries the tag of the message and tenant 0 (DESIGN CHOICE, log 68: the manual gives a message a tag, and says for no reply
which). -/
def execHostQuote (tag : W16) (nonce : BitVec 256) (s0 : State) : Host.Outcome State Fault Refusal :=
  .next <|
    let s := hostFlits s0 32
    if !s.pkg.booted then unbooted s 4 0 tag
    else
      let h := quoteHead s nonce
      sendHost (stampMessage s) 4 0 tag.toNat (h ++ leBytes 384 (Config.quoteSignature h).toNat)

/-! ### Packets (R268-R276, R417, R426) -/

/-- The fabric instance that a packet concerns, by its image segment, its record and its number (R271). -/
def fabricInst (s : State) (t : TenantId) (seg off inst : Nat) : Option Nat :=
  s.pkg.colls.findIdx? fun x => x.tenant == t && x.imageSeg == seg && x.offset == off && x.scope == 3 && x.inst == inst

/-- A rank of another package arrives, at a value of the time base; an instance that no local rank has named yet is kept by its remote ranks alone. One
that is abandoned answers so (R277). -/
def remoteArrives (s : State) (source : Nat) (t : TenantId) (seg off inst rank : Nat) (time : Word) : State :=
  match fabricInst s t seg off inst with
  | none =>
    s.modPkg fun p => { p with colls := p.colls ++ [{ newInst t seg off inst [] [] with scope := 3, remote := [(rank, source)], lastAt := time }] }
  | some i =>
    match s.pkg.colls[i]? with
    | none => s
    | some x =>
      if x.abandoned then sendAbandon s x
      else if x.closed then s
      else if x.remote.any (fun p => p.1 == rank) ∨ (x.nrank ≠ 0 ∧ (x.nrank ≤ rank ∨ x.ranks.any fun p => p.1 == rank)) then abandonInst s i
      else fixT0 (modInst s i fun y =>
        { y with remote := y.remote ++ [(rank, source)], lastAt := if y.lastAt.toNat < time.toNat then time else y.lastAt }) i

/-- The words of a step, or none where the other package has completed it. -/
def remoteWords (s : State) (t : TenantId) (seg off inst n : Nat) (ws : List W32) : State :=
  match fabricInst s t seg off inst with
  | none => s
  | some i => modInst s i fun x =>
      if ws.isEmpty then (if x.doneSteps.contains n then x else { x with doneSteps := x.doneSteps ++ [n] }) else { x with words := x.words ++ [(n, ws)] }

/-- Another package has abandoned an instance, which no local rank need have named. -/
def remoteAbandon (s : State) (t : TenantId) (seg off inst : Nat) : State :=
  match fabricInst s t seg off inst with
  | none => s.modPkg fun p => { p with colls := p.colls ++ [{ newInst t seg off inst [] [] with scope := 3, abandoned := true }] }
  | some i => match s.pkg.colls[i]? with | some x => if x.closed then s else abandonInst s i | none => s

/-- The places of a list from the last to the first. -/
def downFrom {α : Type} (l : List α) : List Nat := (List.range l.length).reverse

/-- What the loss of the peer end leaves of a command on a passage: a PSEND, or with `trap` a PRECV, has no slot any more and traps PASSERR once; without `trap` a running
PRECV keeps the data that it has taken, its credit having gone back (R375, R417, R426). -/
def passageGone (s : State) (u : SuiteId) (k : Nat) (recv trap : Bool) : State :=
  match (s.suite u).crun[k]? with
  | none => s
  | some c =>
    if recv && !trap then modRun s u k fun c => { c with slot := c.slot.map fun q => (noSlot, q.2) }
    else
      let s1 := modRun s u k fun c => { c with slot := none }
      if c.trapLevel = 0 ∧ c.status = .running then runTrap s1 u .c k cPASSERR else s1

/-- The peer end of a passage is lost to its PSENDs or its PRECVs: no slot is left, and its slots are numbered anew (R417, R426). -/
def passageDown (s : State) (t : TenantId) (p : Fin 8) (recv trap : Bool) : State :=
  let uses := fun (c : Cmd) => c.tenant == t && match c.op with
    | .psend _ ctl => !recv && passageNo ctl == p
    | .precv _ ctl => recv && passageNo ctl == p
    | _ => false
  let s1 := modPassage s (if recv then 4 else 3) p fun x => { x with slots := [], used := 0, nextSlot := 0, filled := [] }
  ((List.finRange 64).filter fun u => dieOf u == (if recv then 0 else 3)).foldl (fun s u =>
    ((downFrom (s.suite u).crun).filter fun k => match (s.suite u).crun[k]? with | some c => uses c | none => false).foldl
      (fun s k => passageGone s u k recv trap) s) s1

/-- Whether a slot of another package fits a passage: it is missing, or its credits lie within the depth (R266). -/
def Passage.takes (x : Passage) (n : Nat) : Bool :=
  if n < x.nextSlot then x.slots.contains (n, none) else decide (x.used + (n + 1 - x.nextSlot) ≤ x.depth)

/-- A passage with slot n filled; slots before it that have not come keep their places (R283). -/
def Passage.fill (x : Passage) (n : Nat) (d : Tile) : Passage :=
  if n < x.nextSlot then { x with slots := x.slots.map fun q => if q.1 = n then (n, some d) else q }
  else
    { x with slots := x.slots ++ ((List.range (n - x.nextSlot)).map fun i => (x.nextSlot + i, none)) ++ [(n, some d)],
             used := x.used + (n + 1 - x.nextSlot), nextSlot := n + 1 }

/-- A packet of another package is delivered. A slot that it fills is reported to the sender (R268). -/
def deliver (s : State) (source : Nat) : Packet → State
  | .slot t p n data =>
    let x := passage s 4 p
    if x.en ∧ x.tenant = t.val ∧ x.takes n then
      sendPacket (modPassage s 4 p fun x => x.fill n (tileOfBytes data)) 11 x.peer t (leBytes 1 t.val ++ leBytes 1 p.val ++ leBytes 4 n)
    else s
  | .slotFull t p n =>
    modPassage s 3 p fun x => if x.tenant = t.val ∧ n < x.nextSlot ∧ x.filled.contains n = false then { x with filled := n :: x.filled } else x
  | .credit t p => if (passage s 3 p).tenant = t.val then modPassage s 3 p fun x => { x with used := x.used - 1 } else s
  | .csPost t n => postCs s t n
  | .collArrive t seg off inst rank time => remoteArrives s source t seg off inst rank time
  | .collWords t seg off inst n ws => remoteWords s t seg off inst n ws
  | .collAbandon t seg off inst => remoteAbandon s t seg off inst
  | .passDown t p recv => passageDown s t p recv false
  | .bulk => s

/-- How many flits a packet has: as many as its bytes need, and by free choice more behind its header (R8; DESIGN CHOICE, log 43). -/
def packetFlits (s : State) (p : Packet) : Nat × State :=
  match p with
  | .slot _ _ _ data => let (n, s1) := chooseBelow s 2; (flitsOf (6 + data.length) + n, s1)
  | .collWords _ _ _ _ _ ws => let (n, s1) := chooseBelow s 2; (flitsOf (15 + 4 * ws.length) + n, s1)
  | .bulk => let (n, s1) := chooseBelow s 1024; (n + 1, s1)
  | _ => let (n, s1) := chooseBelow s 2; (n + 1, s1)

/-! ### Ports (R422-R425, R283) -/

def modLink (s : State) (port : Fin 12) (f : Link → Link) : State :=
  s.modPkg fun p => { p with links := p.links.set port.val (f (p.links.get port)) port.isLt }

/-- A port goes down: LINKDOWN goes to the hypervisor, and what waits there waits for the routes to be known anew (R424, R425). -/
def portDown (s : State) (port : Fin 12) : State :=
  let l := s.pkg.links.get port
  if !l.trained ∨ l.down then s
  else
    let s1 := modLink s port fun x =>
      { x with down := true, updating := true, downs := if x.downs = 0xffff then x.downs else x.downs + 1, failing := none, fails := 0 }
    externalTrap s1 hypervisor cLINKDOWN 0 (256 + 127) (BitVec.ofNat 64 port.val)

/-- What waits at a port that is down, and the flits of its replay buffer, leave by another, chosen freely, if one is up; a packet in the escape channel
stays in it (R424, R425). -/
def reroute (s : State) (port : Fin 12) : State :=
  let l := s.pkg.links.get port
  let others := (List.finRange 12).filter fun i => (s.pkg.links.get i).trained && !(s.pkg.links.get i).down
  let (k, s1) := chooseBelow s (max 1 others.length)
  match if l.down then others[k]? else none with
  | some i => modLink (modLink s1 port fun x => { x with waiting := [], escaped := [], sent := [], resend := [] }) i fun x =>
      { x with waiting := x.waiting ++ l.waiting, escaped := x.escaped ++ l.escaped, resend := x.resend ++ l.sent.reverse ++ l.resend }
  | none => s

/-- LINKDOWN: the port has received no flit for 1 us. -/
def execLinkdown (port : Fin 12) (s : State) : Host.Outcome State Fault Refusal := .next (portDown s port)

/-- Flits replayed are counted, up to the largest count (R423). -/
def addRetries (c : W32) (n : Nat) : W32 := BitVec.ofNat 32 (min 0xffffffff (c.toNat + n))

/-- FLIT_RECEIVE: a flit that fails its check is requested again with every later one of the buffer, as many as the partner has sent, and takes the port
down when its sixteenth replay in a row fails; a packet is accepted once, and no retry shows in a count of a program (R422, R424, R345). -/
def execFlitReceive (port : Fin 12) (crcOk : Bool) (source : Nat) (seq : Nat) (packet : Packet) (s : State) : Host.Outcome State Fault Refusal :=
  .next <|
    let l := s.pkg.links.get port
    if !l.trained ∨ l.down then s
    else if !crcOk then
      let (n, s1) := chooseBelow s 256
      let fails := if l.failing = some (source, seq) then l.fails + 1 else 1
      let s2 := modLink s1 port fun x => { x with failing := some (source, seq), fails := fails, retries := addRetries x.retries (n + 1) }
      if fails = 17 then portDown s2 port else s2
    else
      let s1 := modLink s port fun x => if x.failing = some (source, seq) then { x with failing := none, fails := 0 } else x
      if s1.pkg.links.toList.any fun x => x.accepted.contains (source, seq) then s1
      else
        let (n, s2) := packetFlits (modLink s1 port fun x => { x with accepted := (source, seq) :: x.accepted }) packet
        deliver (countEvents s2 (.ctx hypervisor) 0x11 n) source packet

/-- LINK_RETRAIN: an attempt that succeeds clears down and posts no event; a port that comes back up waits for the routes (R424, R425). -/
def execLinkRetrain (port : Fin 12) (ok : Bool) (s : State) : Host.Outcome State Fault Refusal :=
  .next (if ok then modLink s port fun x => { x with trained := true, down := false, updating := x.updating || x.down, failing := none, fails := 0 } else s)

/-- What a tenant had under way with packages that have lost their route (R426). -/
def dropUnreachable (s : State) : State :=
  let lost := fun (b : Fin 5) (p : Fin 8) =>
    let x := passage s b p
    x.en && x.peer != Config.pkgId.toNat && !reachable s x.peer
  let s1 := (List.finRange 8).foldl (fun s p =>
    let t3 : TenantId := ⟨(passage s 3 p).tenant % 64, by omega⟩
    let t4 : TenantId := ⟨(passage s 4 p).tenant % 64, by omega⟩
    let s1 := if lost 3 p then passageDown s t3 p false true else s
    if lost 4 p then passageDown s1 t4 p true true else s1) s
  let gone := fun (x : CollInst) => x.scope == 3 && !x.closed && x.remote.any fun p => !reachable s1 p.2
  ((List.range s1.pkg.colls.length).filter fun i => match s1.pkg.colls[i]? with | some x => gone x | none => false).foldl abandonInst s1

/-- ROUTE_UPDATE: the packages that have a route are known anew; packets without one are discarded and counted, and what waits at a port that is down
leaves by another (R425, R426). -/
def execRouteUpdate (reachablePkgs : List Nat) (s : State) : Host.Outcome State Fault Refusal :=
  .next <|
    let keep := fun (d : Nat) => d == 0xffff || reachablePkgs.contains d
    let lost := s.pkg.links.toList.foldl (fun n l => n + (l.waiting.filter fun q => !keep q.dest).length + (l.escaped.filter fun q => !keep q.dest).length) 0
    let s1 := s.modPkg fun p =>
      { p with routes := some reachablePkgs, linklost := BitVec.ofNat 32 (min 0xffffffff (p.linklost.toNat + lost)),
               links := p.links.map fun l =>
                 { l with updating := false, waiting := l.waiting.filter fun q => keep q.dest, escaped := l.escaped.filter fun q => keep q.dest,
                          sent := l.sent.filter fun q => keep q.dest, resend := l.resend.filter fun q => keep q.dest } }
    dropUnreachable ((List.finRange 12).foldl reroute s1)

/-- A cycle of the Suite clock in sixteenths of a link cycle of 0.16 ns (R8, R283). -/
def linkSixteenths : Nat := 25

/-- The bulk packets of a port whose flits may leave now: those of the escape channel, and the others unless the ordinary channels take none (R283). -/
def Link.bulk (l : Link) (open_ : Bool) : List Waiting := (l.escaped ++ if open_ then l.waiting else []).filter fun q => !q.control

/-- Tenants with such a flit, and those of them among whom the bulk bandwidth is shared: the ones of non-zero weight, if any (R326). -/
def Link.ready (l : Link) (open_ : Bool) : List TenantId := (List.finRange 64).filter fun t => (l.bulk open_).any fun q => q.tenant == t
def Link.sharers (l : Link) (open_ : Bool) (weight : TenantId → Nat) : List TenantId :=
  let heavy := (l.ready open_).filter fun t => weight t != 0
  if heavy.isEmpty then l.ready open_ else heavy
def Link.owed (l : Link) (t : TenantId) : Int := match l.credit.find? fun q => q.1 == t with | some (_, n) => n | none => 0

/-- Who sends the next flit: the control class (none) when no bulk flit is ready or 15 have left since it had its turn (R282), else the tenant to which
the weighted round robin owes most, the lowest first (R326). -/
def Link.serve (l : Link) (open_ : Bool) (weight : TenantId → Nat) : Option (Option TenantId) :=
  if (l.escaped ++ l.waiting).any (·.control) && ((l.ready open_).isEmpty || decide (15 ≤ l.control)) then some none
  else ((l.sharers open_ weight).foldl (fun (best : Option TenantId) t => match best with
    | none => some t
    | some b => if l.owed b < l.owed t then some t else best) none).map some

/-- A port once one flit has been served: every sharer is owed its weight, and the one served pays for all of them. -/
def Link.charge (l : Link) (open_ : Bool) (weight : TenantId → Nat) : Option TenantId → Link
  | none => { l with control := 0 }
  | some t =>
    let all := l.sharers open_ weight
    let total := (all.map weight).foldl (· + ·) 0
    { l with control := l.control + 1
             credit := all.map fun u => (u, l.owed u + (weight u : Int) - ((if u = t then total else 0 : Nat) : Int)) }

/-- Whether a packet is of a class: the control class (none) or a tenant's bulk. -/
def Waiting.isOf (q : Waiting) : Option TenantId → Bool
  | none => q.control
  | some t => !q.control && q.tenant == t

/-- One flit of the oldest packet of a class in a channel: the packet, and the channel after it. -/
def takeFlit (t : Option TenantId) : List Waiting → Option (Waiting × List Waiting)
  | [] => none
  | q :: rest =>
    if q.isOf t then some (q, if q.flits ≤ 1 then rest else { q with flits := q.flits - 1 } :: rest)
    else (takeFlit t rest).map fun (w, l) => (w, q :: l)

/-- One flit of a class leaves the escape channel or the ordinary ones, in the order asked for. -/
def Link.leave (l : Link) (t : Option TenantId) (escape : Bool) : Option (Waiting × Link) :=
  match takeFlit t (if escape then l.escaped else l.waiting) with
  | some (w, rest) => some (w, if escape then { l with escaped := rest } else { l with waiting := rest })
  | none =>
    match takeFlit t (if escape then l.waiting else l.escaped) with
    | some (w, rest) => some (w, if escape then { l with waiting := rest } else { l with escaped := rest })
    | none => none

/-- A flit that has left stands in the replay buffer (R422). -/
def Link.keep (l : Link) (f : SentFlit) : Link := { l with sent := (f :: l.sent).take 256 }

/-- The partner asks for the last n flits again: they are re-sent in their original order (R422, R423). -/
def Link.replay (l : Link) (n : Nat) : Link :=
  let again := l.sent.take n
  { l with sent := l.sent.drop n, resend := again.reverse ++ l.resend, retries := addRetries l.retries again.length }

/-- One flit leaves a port that is up: one that is sent again, or of the packet that is served. In which link cycles the ordinary channels take a bulk
flit, and which channel comes first, is free (R283; DESIGN CHOICE, log 43). A flit counts when it is sent first (R345, R422), and the message of a packet is
out with its last flit. -/
def sendFlit (s : State) (port : Fin 12) : State :=
  let l := s.pkg.links.get port
  match l.resend with
  | f :: rest => modLink s port fun x => ({ x with resend := rest } : Link).keep f
  | [] =>
    let (k, s1) := chooseBelow s 4
    let open_ := k % 2 == 0
    let weight := fun (t : TenantId) => (s.tenant t).qos.weight.toNat
    match (l.serve open_ weight).bind fun t => (l.leave t (k / 2 == 1 || (t.isSome && !open_))).map fun y => (t, y) with
    | none => s1
    | some (t, w, y) =>
      let after := ({ l.charge open_ weight t with waiting := y.waiting, escaped := y.escaped } : Link).keep ⟨w.dest, w.tenant, w.control, w.msg.seq⟩
      let s2 := countEvents (modLink s1 port fun _ => after) (.ctx hypervisor) 0x10 1
      if w.flits ≤ 1 then s2.modPkg fun p => { p with out := p.out ++ [w.msg] } else s2

/-- ESCAPE_CHANNEL_ENTRY: packets that wait, unless it is for a route update (R425), grow older, those of 4,096 link cycles enter the escape channel, and
as many flits leave a port that is up as the cycle has link cycles (R8, R283). How many flits the partner asks for again is free (R422). -/
def execEscapeChannelEntry (port : Fin 12) (s : State) : Host.Outcome State Fault Refusal :=
  .next <|
    let l := s.pkg.links.get port
    if l.updating then s
    else
      let aged := l.waiting.map fun q => { q with age := q.age + linkSixteenths }
      let (n, s1) := chooseBelow s 257
      let up := l.trained && !l.down
      let time := l.time + linkSixteenths
      let s2 := modLink s1 port fun x =>
        let y : Link := { x with waiting := aged.filter fun q => decide (q.age < 4096 * 16), time := time % 16,
                                 escaped := l.escaped ++ aged.filter fun q => decide (4096 * 16 ≤ q.age) }
        if up then y.replay n else y
      if up then (List.range (time / 16)).foldl (fun s _ => sendFlit s port) s2 else s2

/-! ### Heat and power (R333) -/

/-- THERMAL_TRIP: one event to the hypervisor, as every thermal event (R328), and to the host, then a reset of the package. -/
def execThermalTrip (s : State) : Host.Outcome State Fault Refusal :=
  .next <|
    let s1 := postEvent s hypervisor evThermal 0 (256 + 127) 0
    let s2 := if (s.ctx hypervisor).hostfwd then s1 else sendHost s1 5 0 0 (eventBytes ⟨s.pkg.eventSeq, evThermal, 0, 256 + 127, 0, true⟩)
    bringUp (resetState s2)

/-- POWER_THROTTLE: an array die pauses its arithmetic clock for whole blocks of 8 cycles. -/
def execPowerThrottle (d : DieId) (blocks : Nat) (s : State) : Host.Outcome State Fault Refusal :=
  .next (s.modPkg fun p => { p with throttle := p.throttle.set d.val (p.throttle.get d + 8 * blocks) d.isLt })

/-! ### Soft errors (R393, R408, R411, R435) -/

/-- An uncorrectable error is counted. -/
def countUe (s : State) : State :=
  (countErr s fun _ => true).modPkg fun p => { p with memerr := (satAdd32 (p.memerr.extractLsb' 32 32)) ++ p.memerr.extractLsb' 0 32 }

/-- SOFT_ERROR: one flipped bit of an HBM line waits for its correction and a second one poisons the line; an uncorrectable error poisons a unit of
the Local Store or of a tile; a clean copy is discarded; the others wait for their readers or are corrected at once. -/
def execSoftError (site : ErrSite) (s : State) : Host.Outcome State Fault Refusal :=
  .next <|
    let strike := fun (s : State) => s.modPkg fun p => { p with flips := site :: p.flips }
    match site with
    | .mem a =>
      let line := a / 64
      let mine := fun (e : ErrSite) => match e with | .mem x => x / 64 == line | _ => false
      if s.pkg.poison.contains line then s
      else if s.pkg.flips.any mine then
        (countUe s).modPkg fun p =>
          { p with flips := p.flips.filter fun e => !mine e, poison := line :: p.poison, memeaddr := BitVec.ofNat 64 (64 * line + 1) }
      else strike s
    | .ls .. => countUe (strike s)
    | .tile .. => countUe (strike s)
    | .clean u =>
      let (k, s1) := chooseBelow s (max 1 (s.suite u).l1.length)
      countUe (s1.modSuite u fun x => { x with l1 := x.l1.eraseIdx k })
    | .acc .. => strike s
    | .flue _ => strike s
    | .ctrl => countCe s

/-- PATROL_SCRUB: an HBM line is read and corrected. -/
def execPatrolScrub (line : Nat) (s : State) : Host.Outcome State Fault Refusal := .next (correctErrors s (64 * line) 64)

/-- STEWARD_REGISTER_UE: the context stops; kind 8 with payload byte 0 set goes to its receiver, and to the hypervisor (R435). -/
def execStewardRegisterUe (c : CtxId) (s : State) : Host.Outcome State Fault Refusal :=
  .next <|
    let t := (ctxTenant s c).val
    let s1 := (countUe s).modCtx c fun x => { x with running := false, regs := { x.regs with sa := { x.regs.sa with running := false }, sx := { x.regs.sx with running := false } } }
    let src := 256 + c.val
    if c = hypervisor then postEvent (postHostEvent s1 evStopped t src 1) hypervisor evStopped t src 1
    else if 64 ≤ c.val then postEvent (postEvent s1 (supervisor (ctxTenant s c)) evStopped t src 1) hypervisor evStopped t src 1
    else postEvent s1 hypervisor evStopped t src 1

/-! ### Landings and words that name no instruction (R121, R366) -/

/-- RESULT_LANDING: the end of a cycle for the results in flight of a bank. -/
def execResultLanding (b : BankRef) (s : State) : Host.Outcome State Fault Refusal := .next (landDue s b)

/-- UNASSIGNED_ENCODING: a stream takes ILLOP, or ILLFLD for a reserved field of an instruction that it may issue (R119, R364); a row of a drain program is
dropped. A word that does decode has no effect here. -/
def execUnassignedEncoding (m : Map) (word : W32) (s : State) : Host.Outcome State Fault Refusal :=
  .next <|
    let ag := s.cur
    let x := match fetch s ag with | .word _ _ x => x | _ => 0
    let cause := match decode m word x with
      | .error .noOpcode => some cILLOP
      | .error .reservedField => some (if opcodeRefused s ag m word then cILLOP else cILLFLD)
      | .ok _ => none
    match cause with
    | none => s
    | some c =>
      if ag.kind = .drain then s.modRoom ag.suite fun r => { r with drain := none }
      else takeTrap s ag c 0 (posOf s ag)

end Sys2Proof.Machine
end

