-- ==== Sys2Proof/Machine/Dispatch.lean ====
section
/-! DEFINITION. One arm per constructor of Instr: a direct call of its meaning, or a rejection by name. -/

namespace Sys2Proof.Machine

def exec (i : Instr) (s : State) : Host.Outcome State Fault Refusal :=
  match i with
  | .add d s1 s2 w => Sys2Proof.Machine.execAdd d s1 s2 w s
  | .sub d s1 s2 w => Sys2Proof.Machine.execSub d s1 s2 w s
  | .mul d s1 s2 w => Sys2Proof.Machine.execMul d s1 s2 w s
  | .mulh d s1 s2 w => Sys2Proof.Machine.execMulh d s1 s2 w s
  | .div d s1 s2 dn w => Sys2Proof.Machine.execDiv d s1 s2 dn w s
  | .divu d s1 s2 dn w => Sys2Proof.Machine.execDivu d s1 s2 dn w s
  | .rem d s1 s2 dn w => Sys2Proof.Machine.execRem d s1 s2 dn w s
  | .remu d s1 s2 dn w => Sys2Proof.Machine.execRemu d s1 s2 dn w s
  | .divideCompletion b k => Sys2Proof.Machine.execDivideCompletion b k s
  | .and d s1 s2 w => Sys2Proof.Machine.execAnd d s1 s2 w s
  | .or d s1 s2 w => Sys2Proof.Machine.execOr d s1 s2 w s
  | .xor d s1 s2 w => Sys2Proof.Machine.execXor d s1 s2 w s
  | .shl d s1 s2 w => Sys2Proof.Machine.execShl d s1 s2 w s
  | .shr d s1 s2 w => Sys2Proof.Machine.execShr d s1 s2 w s
  | .sra d s1 s2 w => Sys2Proof.Machine.execSra d s1 s2 w s
  | .min d s1 s2 w => Sys2Proof.Machine.execMin d s1 s2 w s
  | .max d s1 s2 w => Sys2Proof.Machine.execMax d s1 s2 w s
  | .minu d s1 s2 w => Sys2Proof.Machine.execMinu d s1 s2 w s
  | .maxu d s1 s2 w => Sys2Proof.Machine.execMaxu d s1 s2 w s
  | .slt d s1 s2 w => Sys2Proof.Machine.execSlt d s1 s2 w s
  | .sltu d s1 s2 w => Sys2Proof.Machine.execSltu d s1 s2 w s
  | .sel d s1 s2 w => Sys2Proof.Machine.execSel d s1 s2 w s
  | .clz d s1 w => Sys2Proof.Machine.execClz d s1 w s
  | .popc d s1 w => Sys2Proof.Machine.execPopc d s1 w s
  | .addi d s1 imm w => Sys2Proof.Machine.execAddi d s1 imm w s
  | .andi d s1 imm w => Sys2Proof.Machine.execAndi d s1 imm w s
  | .ori d s1 imm w => Sys2Proof.Machine.execOri d s1 imm w s
  | .xori d s1 imm w => Sys2Proof.Machine.execXori d s1 imm w s
  | .shli d s1 imm w => Sys2Proof.Machine.execShli d s1 imm w s
  | .shri d s1 imm w => Sys2Proof.Machine.execShri d s1 imm w s
  | .srai d s1 imm w => Sys2Proof.Machine.execSrai d s1 imm w s
  | .slti d s1 imm w => Sys2Proof.Machine.execSlti d s1 imm w s
  | .lui d imm w => Sys2Proof.Machine.execLui d imm w s
  | .lix d imm w => Sys2Proof.Machine.execLix d imm w s
  | .br cond s1 s2 target w => Sys2Proof.Machine.execBr cond s1 s2 target w s
  | .jmp target w => Sys2Proof.Machine.execJmp target w s
  | .call target w => Sys2Proof.Machine.execCall target w s
  | .ret w => Sys2Proof.Machine.execRet w s
  | .loop lid s1 target w => Sys2Proof.Machine.execLoop lid s1 target w s
  | .brk imm w => Sys2Proof.Machine.execBrk imm w s
  | .cqp s1 w => Sys2Proof.Machine.execCqp s1 w s
  | .endA w => Sys2Proof.Machine.execEndA w s
  | .nopA w => Sys2Proof.Machine.execNopA w s
  | .hint x => Sys2Proof.Machine.execHint x s
  | .ld d s1 size sgn ord dn sub w => Sys2Proof.Machine.execLd d s1 size sgn ord dn sub w s
  | .st d s1 size ord dn sub w => Sys2Proof.Machine.execSt d s1 size ord dn sub w s
  | .ldl d s1 size sgn w => Sys2Proof.Machine.execLdl d s1 size sgn w s
  | .stl d s1 size w => Sys2Proof.Machine.execStl d s1 size w s
  | .ldt t s1 src dn w => Sys2Proof.Machine.execLdt t s1 src dn w s
  | .stt t s1 src dn w => Sys2Proof.Machine.execStt t s1 src dn w s
  | .pft s1 dn w => Sys2Proof.Machine.execPft s1 dn w s
  | .align w => Sys2Proof.Machine.execAlign w s
  | .fence scope w => Sys2Proof.Machine.execFence scope w s
  | .drnt dn scope w => Sys2Proof.Machine.execDrnt dn scope w s
  | .drntCompletion b => Sys2Proof.Machine.execDrntCompletion b s
  | .queueEntryPerform b store => Sys2Proof.Machine.execQueueEntryPerform b store s
  | .pageFaultBankSwitch b => Sys2Proof.Machine.execPageFaultBankSwitch b s
  | .waita d s1 s2 dn scope w => Sys2Proof.Machine.execWaita d s1 s2 dn scope w s
  | .monitorTrigger b => Sys2Proof.Machine.execMonitorTrigger b s
  | .waittmoExpiry b => Sys2Proof.Machine.execWaittmoExpiry b s
  | .aat d s1 s2 dn s3 aop ty ord w => Sys2Proof.Machine.execAat d s1 s2 dn s3 aop ty ord w s
  | .orderedAtomicApply u => Sys2Proof.Machine.execOrderedAtomicApply u s
  | .accseqWrite u v => Sys2Proof.Machine.execAccseqWrite u v s
  | .amem d s1 s2 dn sub w => Sys2Proof.Machine.execAmem d s1 s2 dn sub w s
  | .toksA dst w => Sys2Proof.Machine.execToksA dst w s
  | .tokwA pop w => Sys2Proof.Machine.execTokwA pop w s
  | .crd d s1 csr w => Sys2Proof.Machine.execCrd d s1 csr w s
  | .cwr d s1 csr w => Sys2Proof.Machine.execCwr d s1 csr w s
  | .cmw d s1 csr w => Sys2Proof.Machine.execCmw d s1 csr w s
  | .cxc d s1 csr w => Sys2Proof.Machine.execCxc d s1 csr w s
  | .csrWrite ag num v => Sys2Proof.Machine.execCsrWrite ag num v s
  | .trap imm w => Sys2Proof.Machine.execTrap imm w s
  | .eret w => Sys2Proof.Machine.execEret w s
  | .yieldA w => Sys2Proof.Machine.execYieldA w s
  | .rpush imm w => Sys2Proof.Machine.execRpush imm w s
  | .rpop w => Sys2Proof.Machine.execRpop w s
  | .tinv s1 s2 dn w => Sys2Proof.Machine.execTinv s1 s2 dn w s
  | .tinvCompletion c => Sys2Proof.Machine.execTinvCompletion c s
  | .frel s1 s2 dn w => Sys2Proof.Machine.execFrel s1 s2 dn w s
  | .frelCompletion c => Sys2Proof.Machine.execFrelCompletion c s
  | .ssync d dn w => Sys2Proof.Machine.execSsync d dn w s
  | .ssyncArrival u b => Sys2Proof.Machine.execSsyncArrival u b s
  | .barrierCompletion t scope inst => Sys2Proof.Machine.execBarrierCompletion t scope inst s
  | .digstatWrite t v => Sys2Proof.Machine.execDigstatWrite t v s
  | .digpeerWrite t v => Sys2Proof.Machine.execDigpeerWrite t v s
  | .mnest s1 s2 tok dn w => Sys2Proof.Machine.execMnest s1 s2 tok dn w s
  | .mfmt s1 s2 tok dn w => Sys2Proof.Machine.execMfmt s1 s2 tok dn w s
  | .mgo tok dn w => Sys2Proof.Machine.execMgo tok dn w s
  | .mgoStart u => Sys2Proof.Machine.execMgoStart u s
  | .nestBeat u => Sys2Proof.Machine.execNestBeat u s
  | .drainRow u => Sys2Proof.Machine.execDrainRow u s
  | .haltRestart u => Sys2Proof.Machine.execHaltRestart u s
  | .mwing s1 tok dn w => Sys2Proof.Machine.execMwing s1 tok dn w s
  | .reshapeEffect u => Sys2Proof.Machine.execReshapeEffect u s
  | .mdrn s1 s2 tok dn w => Sys2Proof.Machine.execMdrn s1 s2 tok dn w s
  | .dstart s1 s2 tok dn w => Sys2Proof.Machine.execDstart s1 s2 tok dn w s
  | .dstartEffect u => Sys2Proof.Machine.execDstartEffect u s
  | .dlook s1 tok dn w => Sys2Proof.Machine.execDlook s1 tok dn w s
  | .dfeed s1 s2 tok dn w => Sys2Proof.Machine.execDfeed s1 s2 tok dn w s
  | .dfeedHead u => Sys2Proof.Machine.execDfeedHead u s
  | .ddrn s1 tok dn w => Sys2Proof.Machine.execDdrn s1 tok dn w s
  | .ddrnHead u => Sys2Proof.Machine.execDdrnHead u s
  | .dend tok dn w => Sys2Proof.Machine.execDend tok dn w s
  | .dret w => Sys2Proof.Machine.execDret w s
  | .beatDue u => Sys2Proof.Machine.execBeatDue u s
  | .droneBeat u => Sys2Proof.Machine.execDroneBeat u s
  | .missdl u => Sys2Proof.Machine.execMissdl u s
  | .demandVector u => Sys2Proof.Machine.execDemandVector u s
  | .cpy s1 s2 tok dn desc w => Sys2Proof.Machine.execCpy s1 s2 tok dn desc w s
  | .cpyStart u => Sys2Proof.Machine.execCpyStart u s
  | .cpyCompletion u k => Sys2Proof.Machine.execCpyCompletion u k s
  | .cpyq tok dn w => Sys2Proof.Machine.execCpyq tok dn w s
  | .commandCompletion u k => Sys2Proof.Machine.execCommandCompletion u k s
  | .psend s1 s2 tok dn w => Sys2Proof.Machine.execPsend s1 s2 tok dn w s
  | .psendCredit u => Sys2Proof.Machine.execPsendCredit u s
  | .psendCompletion u k => Sys2Proof.Machine.execPsendCompletion u k s
  | .precv s1 s2 tok dn w => Sys2Proof.Machine.execPrecv s1 s2 tok dn w s
  | .precvSlot u => Sys2Proof.Machine.execPrecvSlot u s
  | .precvCompletion u k => Sys2Proof.Machine.execPrecvCompletion u k s
  | .coll s1 s2 tok dn w => Sys2Proof.Machine.execColl s1 s2 tok dn w s
  | .collArrival u => Sys2Proof.Machine.execCollArrival u s
  | .collStep inst => Sys2Proof.Machine.execCollStep inst s
  | .collInstanceCompletion inst => Sys2Proof.Machine.execCollInstanceCompletion inst s
  | .collw s1 dn w => Sys2Proof.Machine.execCollw s1 dn w s
  | .scnstop d s1 s2 dn w => Sys2Proof.Machine.execScnstop d s1 s2 dn w s
  | .scnrun d s1 s2 dn w => Sys2Proof.Machine.execScnrun d s1 s2 dn w s
  | .scnout d s1 dn w => Sys2Proof.Machine.execScnout d s1 dn w s
  | .scnin d s1 dn w => Sys2Proof.Machine.execScnin d s1 dn w s
  | .scnq d s1 s2 dn w => Sys2Proof.Machine.execScnq d s1 s2 dn w s
  | .scanControllerTake c => Sys2Proof.Machine.execScanControllerTake c s
  | .beatStop c => Sys2Proof.Machine.execBeatStop c s
  | .coreStopComplete c => Sys2Proof.Machine.execCoreStopComplete c s
  | .scnrunRestart c => Sys2Proof.Machine.execScnrunRestart c s
  | .vadd d s1 s2 ty w => Sys2Proof.Machine.execVadd d s1 s2 ty w s
  | .vsub d s1 s2 ty w => Sys2Proof.Machine.execVsub d s1 s2 ty w s
  | .vmul d s1 s2 ty w => Sys2Proof.Machine.execVmul d s1 s2 ty w s
  | .vfma d s1 s2 ty w => Sys2Proof.Machine.execVfma d s1 s2 ty w s
  | .vfms d s1 s2 ty w => Sys2Proof.Machine.execVfms d s1 s2 ty w s
  | .vmin d s1 s2 ty w => Sys2Proof.Machine.execVmin d s1 s2 ty w s
  | .vmax d s1 s2 ty w => Sys2Proof.Machine.execVmax d s1 s2 ty w s
  | .vabs d s1 ty w => Sys2Proof.Machine.execVabs d s1 ty w s
  | .vneg d s1 ty w => Sys2Proof.Machine.execVneg d s1 ty w s
  | .vand d s1 s2 w => Sys2Proof.Machine.execVand d s1 s2 w s
  | .vor d s1 s2 w => Sys2Proof.Machine.execVor d s1 s2 w s
  | .vxor d s1 s2 w => Sys2Proof.Machine.execVxor d s1 s2 w s
  | .vnot d s1 w => Sys2Proof.Machine.execVnot d s1 w s
  | .vshl d s1 s2 ty w => Sys2Proof.Machine.execVshl d s1 s2 ty w s
  | .vshr d s1 s2 ty w => Sys2Proof.Machine.execVshr d s1 s2 ty w s
  | .vsra d s1 s2 ty w => Sys2Proof.Machine.execVsra d s1 s2 ty w s
  | .vcmp md cond s1 s2 ty w => Sys2Proof.Machine.execVcmp md cond s1 s2 ty w s
  | .vsel d s1 m ty w => Sys2Proof.Machine.execVsel d s1 m ty w s
  | .vexp2 d s1 ty w => Sys2Proof.Machine.execVexp2 d s1 ty w s
  | .vlog2 d s1 ty w => Sys2Proof.Machine.execVlog2 d s1 ty w s
  | .vrcp d s1 ty w => Sys2Proof.Machine.execVrcp d s1 ty w s
  | .vrsq d s1 ty w => Sys2Proof.Machine.execVrsq d s1 ty w s
  | .vsqrt d s1 ty w => Sys2Proof.Machine.execVsqrt d s1 ty w s
  | .vsigm d s1 ty w => Sys2Proof.Machine.execVsigm d s1 ty w s
  | .vtanh d s1 ty w => Sys2Proof.Machine.execVtanh d s1 ty w s
  | .vcvt d s1 dty rm ov ty w => Sys2Proof.Machine.execVcvt d s1 dty rm ov ty w s
  | .vqdec d s1 s2 ty w => Sys2Proof.Machine.execVqdec d s1 s2 ty w s
  | .vqenc d s1 s2 ty w => Sys2Proof.Machine.execVqenc d s1 s2 ty w s
  | .vscl d s1 s2 ty w => Sys2Proof.Machine.execVscl d s1 s2 ty w s
  | .vred d s1 order axis kind ty w => Sys2Proof.Machine.execVred d s1 order axis kind ty w s
  | .vscan d s1 order axis kind ty w => Sys2Proof.Machine.execVscan d s1 order axis kind ty w s
  | .vbcr d s1 ty w => Sys2Proof.Machine.execVbcr d s1 ty w s
  | .vbcc d s1 ty w => Sys2Proof.Machine.execVbcc d s1 ty w s
  | .vbcs d s1 ty w => Sys2Proof.Machine.execVbcs d s1 ty w s
  | .vtrn d s1 ty w => Sys2Proof.Machine.execVtrn d s1 ty w s
  | .vshf d s1 s2 ty w => Sys2Proof.Machine.execVshf d s1 s2 ty w s
  | .vmov d s1 w => Sys2Proof.Machine.execVmov d s1 w s
  | .vzero d w => Sys2Proof.Machine.execVzero d w s
  | .vacc t k h w => Sys2Proof.Machine.execVacc t k h w s
  | .vacw t k h mode w => Sys2Proof.Machine.execVacw t k h mode w s
  | .mand md ms1 ms2 w => Sys2Proof.Machine.execMand md ms1 ms2 w s
  | .mor md ms1 ms2 w => Sys2Proof.Machine.execMor md ms1 ms2 w s
  | .mxor md ms1 ms2 w => Sys2Proof.Machine.execMxor md ms1 ms2 w s
  | .mnot md ms1 w => Sys2Proof.Machine.execMnot md ms1 w s
  | .mpop md ms1 w => Sys2Proof.Machine.execMpop md ms1 w s
  | .eadd d s1 s2 imm w => Sys2Proof.Machine.execEadd d s1 s2 imm w s
  | .esub d s1 s2 imm w => Sys2Proof.Machine.execEsub d s1 s2 imm w s
  | .emul d s1 s2 w => Sys2Proof.Machine.execEmul d s1 s2 w s
  | .emov d s1 w => Sys2Proof.Machine.execEmov d s1 w s
  | .eli d imm w => Sys2Proof.Machine.execEli d imm w s
  | .erd d csr w => Sys2Proof.Machine.execErd d csr w s
  | .ewr d csr w => Sys2Proof.Machine.execEwr d csr w s
  | .cqb cond s1 s2 target w => Sys2Proof.Machine.execCqb cond s1 s2 target w s
  | .cqr d w => Sys2Proof.Machine.execCqr d w s
  | .xloop lid s1 target w => Sys2Proof.Machine.execXloop lid s1 target w s
  | .xbr cond s1 s2 target w => Sys2Proof.Machine.execXbr cond s1 s2 target w s
  | .toksX dst w => Sys2Proof.Machine.execToksX dst w s
  | .tokwX pop w => Sys2Proof.Machine.execTokwX pop w s
  | .nopX w => Sys2Proof.Machine.execNopX w s
  | .xend w => Sys2Proof.Machine.execXend w s
  | .dscl n => Sys2Proof.Machine.execDscl n s
  | .dbia n => Sys2Proof.Machine.execDbia n s
  | .dact fn => Sys2Proof.Machine.execDact fn s
  | .dclp n => Sys2Proof.Machine.execDclp n s
  | .dcvt ov rm ty => Sys2Proof.Machine.execDcvt ov rm ty s
  | .dmul n => Sys2Proof.Machine.execDmul n s
  | .dadd n => Sys2Proof.Machine.execDadd n s
  | .dovw k => Sys2Proof.Machine.execDovw k s
  | .dstl pitch n => Sys2Proof.Machine.execDstl pitch n s
  | .drainDend nomain => Sys2Proof.Machine.execDrainDend nomain s
  | .launchReady t id => Sys2Proof.Machine.execLaunchReady t id s
  | .priorityAging t id => Sys2Proof.Machine.execPriorityAging t id s
  | .visitPlacement lead shape => Sys2Proof.Machine.execVisitPlacement lead shape s
  | .visitRetire u b => Sys2Proof.Machine.execVisitRetire u b s
  | .eventRingWrite c => Sys2Proof.Machine.execEventRingWrite c s
  | .evqheadWrite c v => Sys2Proof.Machine.execEvqheadWrite c v s
  | .evqbaseWrite c v => Sys2Proof.Machine.execEvqbaseWrite c v s
  | .counterOverflow b n => Sys2Proof.Machine.execCounterOverflow b n s
  | .vcmdResume c => Sys2Proof.Machine.execVcmdResume c s
  | .vcmdSkip c => Sys2Proof.Machine.execVcmdSkip c s
  | .varegWrite c v => Sys2Proof.Machine.execVaregWrite c v s
  | .fedead u b => Sys2Proof.Machine.execFedead u b s
  | .lssplitWrite u v => Sys2Proof.Machine.execLssplitWrite u v s
  | .migration t seg => Sys2Proof.Machine.execMigration t seg s
  | .ctxstartWrite c v => Sys2Proof.Machine.execCtxstartWrite c v s
  | .lsubmitWrite c v => Sys2Proof.Machine.execLsubmitWrite c v s
  | .keyctlAssign t slot => Sys2Proof.Machine.execKeyctlAssign t slot s
  | .keyctlRelease slot => Sys2Proof.Machine.execKeyctlRelease slot s
  | .ownmaskWrite t v => Sys2Proof.Machine.execOwnmaskWrite t v s
  | .wingsetWrite c v => Sys2Proof.Machine.execWingsetWrite c v s
  | .resetDie d => Sys2Proof.Machine.execResetDie d s
  | .resetTenant t => Sys2Proof.Machine.execResetTenant t s
  | .resetRoom u => Sys2Proof.Machine.execResetRoom u s
  | .visitAbort u b replace => Sys2Proof.Machine.execVisitAbort u b replace s
  | .feataccWrite hi v => Sys2Proof.Machine.execFeataccWrite hi v s
  | .detctlWrite t v => Sys2Proof.Machine.execDetctlWrite t v s
  | .passWrite bd p v => Sys2Proof.Machine.execPassWrite bd p v s
  | .l2qosWrite t v => Sys2Proof.Machine.execL2qosWrite t v s
  | .l2PortGrant port => Sys2Proof.Machine.execL2PortGrant port s
  | .alockWrite c v => Sys2Proof.Machine.execAlockWrite c v s
  | .aunlkWrite c => Sys2Proof.Machine.execAunlkWrite c s
  | .ologwWrite c v => Sys2Proof.Machine.execOlogwWrite c v s
  | .ologlimWrite t v => Sys2Proof.Machine.execOloglimWrite t v s
  | .replaydiv t => Sys2Proof.Machine.execReplaydiv t s
  | .trctlWrite t v => Sys2Proof.Machine.execTrctlWrite t v s
  | .roomfltClear u => Sys2Proof.Machine.execRoomfltClear u s
  | .scndmgClear v => Sys2Proof.Machine.execScndmgClear v s
  | .accumulatorAtomicApply u => Sys2Proof.Machine.execAccumulatorAtomicApply u s
  | .prefetchCompletion b k => Sys2Proof.Machine.execPrefetchCompletion b k s
  | .copyElementMove u k => Sys2Proof.Machine.execCopyElementMove u k s
  | .scanShiftCompletion c => Sys2Proof.Machine.execScanShiftCompletion c s
  | .hostLaunch t tag record => Sys2Proof.Machine.execHostLaunch t tag record s
  | .hostDoorbell t v => Sys2Proof.Machine.execHostDoorbell t v s
  | .hostQuote tag nonce => Sys2Proof.Machine.execHostQuote tag nonce s
  | .flitReceive port crcOk source seq packet => Sys2Proof.Machine.execFlitReceive port crcOk source seq packet s
  | .linkdown port => Sys2Proof.Machine.execLinkdown port s
  | .linkRetrain port ok => Sys2Proof.Machine.execLinkRetrain port ok s
  | .routeUpdate reachable => Sys2Proof.Machine.execRouteUpdate reachable s
  | .powerThrottle d blocks => Sys2Proof.Machine.execPowerThrottle d blocks s
  | .patrolScrub line => Sys2Proof.Machine.execPatrolScrub line s
  | .stewardRegisterUe c => Sys2Proof.Machine.execStewardRegisterUe c s
  | .softError site => Sys2Proof.Machine.execSoftError site s
  | .peerDigest t digest count errs => Sys2Proof.Machine.execPeerDigest t digest count errs s
  | .unassignedEncoding m word => Sys2Proof.Machine.execUnassignedEncoding m word s
  | .resultLanding b => Sys2Proof.Machine.execResultLanding b s
  | .l2BucketRefill port => Sys2Proof.Machine.execL2BucketRefill port s
  | .escapeChannelEntry port => Sys2Proof.Machine.execEscapeChannelEntry port s
  | .thermalTrip => Sys2Proof.Machine.execThermalTrip s
  | .packageReset => Sys2Proof.Machine.execPackageReset s

end Sys2Proof.Machine
end

