-- ==== Sys2Proof/Machine/Cycle.lean ====
section
/-! DEFINITION. One cycle as a list of turns (log 5): which streams may issue, which events have their chance, and the end of the cycle:
spec/01_execution_model.md R8, R33, spec/02_state_and_addressing.md R47-R50, spec/16_determinism_and_observation.md R344-R347,
spec/17_faults_execution.md R355, R358. A cycle is cut into parts, the phases; the turns of a part come from the state that it finds. -/

namespace Sys2Proof.Machine

/-! ### One turn of a stream -/

/-- The state that a meaning answers; a meaning that stops keeps the state. -/
def after (s : State) : Host.Outcome State Fault Refusal → State
  | .next t => t
  | _ => s

/-- What the instruction at an agent's position does. A drain row whose program cannot be fetched is dropped. -/
def runAt (s0 : State) (ag : Agent) : Host.Outcome State Fault Refusal :=
  let s := { s0 with cur := ag }
  match fetch s ag with
  | .word m w x => match decode m w x with | .ok i => exec i s | .error _ => execUnassignedEncoding m w s
  | .linkErr line =>
    if ag.kind = .drain then .next (s.modRoom ag.suite fun r => { r with drain := none })
    else .next (takeTrap s ag cLINKERR (BitVec.ofNat 64 line) (posOf s ag))
  | .nothing => .next s

/-- Whether a stream may issue at all: it runs, its core is not stopped, its bank is not held by an earlier trap and not switched away for a page
fault, its A-stream is not in an SSYNC, and no trap of a Steward stream waits for its frame (R33, R264, R355, R360, R412). The chanter runs on while its bank is held. -/
def live (s : State) (ag : Agent) : Bool :=
  let b := s.bank ag.bank
  let there := match ag.bank with
    | .bank u _ => b.visit.isSome && !(s.suite u).stopped
    | .ctx c => (s.ctx c).running && (ag.kind != .a || (s.ctx c).held.isEmpty)
  let open_ := !heldBefore s ag.bank && !b.pageWait && !b.switched
  match ag.kind with
  | .a => there && open_ && b.sa.running && b.sync == .none
  | .x => there && open_ && b.sx.running
  | .chanter => match ag.bank with
    | .bank u k => there && (s.suite u).chanter.busy && !(s.suite u).chanter.trapped && (s.suite u).chanter.bank == k
    | .ctx _ => false
  | .drain => (s.room ag.suite).drain.isSome

/-- Whether a stream that may issue would take a precise trap in this cycle. -/
def wouldTrap (s : State) (ag : Agent) : Bool :=
  live s ag && decide ((s.bank ag.bank).traps.length < ((after s (runAt s ag)).bank ag.bank).traps.length)

/-- The marks of a stream that cannot issue in this cycle whatever it finds (R349, R358). -/
def probe (s : State) (ag : Agent) : State :=
  let b := s.bank ag.bank
  if ag.kind = .a ∧ b.sync ≠ .none then markHeld s ag holdFlagOnly
  else if !live s ag then s
  else
    let st := (after s (runAt s ag)).stream ag
    if st.blocked || st.flagHeld then markHeld s ag ⟨st.blocked, st.flagHeld⟩ else s

/-- The turn of an X-stream of a bank. A trap of the bank's A-stream is found first, unless the chanter has used the port; in a cycle with a trap of
the bank neither stream issues, but a trap of the X-stream is recorded too (R355). -/
def pairTurn (s : State) (r : BankRef) : Host.Outcome State Fault Refusal :=
  let a : Agent := ⟨r, .a⟩
  let x : Agent := ⟨r, .x⟩
  let s1 := if !(s.suite a.suite).aPort && wouldTrap s a then after s (runAt s a) else s
  if !live s1 x then .next s1
  else if !(s1.bank r).traps.isEmpty && !wouldTrap s1 x then .next s1
  else runAt s1 x

/-- One turn of a stream (R33): the A issue port issues once in a cycle, the chanter before the A-stream. -/
def streamTurn (s : State) (ag : Agent) : Host.Outcome State Fault Refusal :=
  match ag.bank, ag.kind with
  | .bank .., .x => pairTurn s ag.bank
  | .bank u _, .a =>
    if !(s.bank ag.bank).traps.isEmpty then .next s
    else if (s.suite u).aPort || !live s ag then .next (probe s ag)
    else runAt s ag
  | .ctx c, .a => if !(s.ctx c).held.isEmpty then .next (retryTrap s c) else if live s ag then runAt s ag else .next s
  | _, _ => if live s ag then runAt s ag else .next s

/-- A CSR write lands as the event that it is of its register, with the value that the register's present contents give (R159); CXC leaves those in a[d]. -/
def csrTurn (s : State) (ag : Agent) (num : BitVec 12) (op : CsrOp) : Host.Outcome State Fault Refusal :=
  let old := csrOld s ag num.toNat
  let s1 := match op with | .exchange _ d => writeA s ag d old | _ => s
  exec (csrEvent s1 ag num (csrNew old op)) s1

/-! ### The turns of a cycle -/

/-- What the outside may do (log 6). -/
def isInput : Instr → Bool
  | .hostLaunch .. | .hostDoorbell .. | .hostQuote .. | .packageReset | .flitReceive .. | .linkdown .. | .linkRetrain .. | .routeUpdate ..
  | .thermalTrip | .powerThrottle .. | .patrolScrub .. | .softError .. | .stewardRegisterUe .. | .peerDigest .. | .migration .. => true
  | _ => false

/-- A host's launch waits while the walker moves the image that it names (R247). -/
def inputWaits (s : State) : Instr → Bool
  | .hostLaunch t _ record => record.length == 128 && readsWait s t (fieldAt record 4 2 * 2 ^ 36) 256
  | _ => false

def allBanks : List BankRef := (List.finRange 64).flatMap fun u => [.bank u 0, .bank u 1]
def allCtxs : List BankRef := (List.finRange 128).map .ctx

/-- The event of the command at the head of a queue; MGO has its own place in the cycle. -/
def headEvent (s : State) (u : SuiteId) (e : Engine) : List Instr :=
  match headOp s u e with
  | some op => match op with
    | .mgo => []
    | .mwing _ => [.reshapeEffect u]
    | .dstart .. => [.dstartEffect u]
    | .dfeed .. => [.dfeedHead u]
    | .ddrn _ => [.ddrnHead u]
    | .cpy _ => [.cpyStart u]
    | .cpyq => [.commandCompletion u 1]
    | .psend .. => [.psendCredit u]
    | .precv .. => [.precvSlot u]
    | .coll .. => [.collArrival u]
    | .mnest .. | .mfmt .. | .mdrn .. | .dlook _ | .dend => [.commandCompletion u 0]
  | none => []

/-- The events that may end running commands of a Suite, the later ones first. -/
def runningEvents (x : Suite) (u : SuiteId) : List Instr :=
  let n := x.mrun.length
  ((downFrom x.crun).filterMap fun k => match x.crun[k]? with
    | some c => if c.status = .complete then some (.commandCompletion u (2 + n + k)) else match c.op with
      | .cpy _ => some (.cpyCompletion u k)
      | .psend .. => some (.psendCompletion u k)
      | .precv .. => some (.precvCompletion u k)
      | _ => none
    | none => none) ++
  ((downFrom x.mrun).filterMap fun k => match x.mrun[k]? with
    | some c => if c.status = .complete then some (.commandCompletion u (2 + k)) else none
    | none => none)

/-- Suites whose die's arithmetic clock runs in this cycle (R4, R333). -/
def onSuites (s : State) : List SuiteId := (List.finRange 64).filter fun u => !paused s u
/-- The lead rooms among them. -/
def onLeads (s : State) : List SuiteId := (onSuites s).filter fun u => leadOf s u == u
/-- Instances of collectives that have not closed. -/
def openInsts (s : State) : List Nat := (List.range s.pkg.colls.length).filter fun i => match s.pkg.colls[i]? with | some x => !x.closed | none => false
/-- Instances that some COLL still runs in: a closed one is left as soon as the COLL's Suite runs (R4, R288). -/
def runningInsts (s : State) : List Nat :=
  ((onSuites s).flatMap fun u => (s.suite u).crun.filterMap fun c => match c.op with | .coll _ _ i => i | _ => none).dedup

/-- What rooms, copies and collective steps do in a cycle, before the beats of nests. -/
def roomEvents (s : State) : List Instr :=
  let rooms := onSuites s
  (rooms.filter fun u => (s.room u).halt.halted).map .haltRestart
    ++ (rooms.filter fun u => match headOp s u .m with | some .mgo => true | _ => false).map .mgoStart
    ++ rooms.flatMap (fun u => (List.range (s.suite u).crun.length).filterMap fun k => match (s.suite u).crun[k]? with
        | some c => (match c.op with | .cpy _ => some (.copyElementMove u k) | _ => none)
        | none => none)
    ++ (openInsts s).map .collStep
    ++ (rooms.filter fun u => !(s.room (leadOf s u)).runs.isEmpty).map .drainRow

/-- The beats: those of nests, a nest that has started in this cycle among them (R206, R217), and those of drone computations. -/
def beatEvents (s : State) : List Instr :=
  ((onLeads s).filter fun u => (s.room u).runs.any fun r => !r.drone).map .nestBeat
    ++ ((onLeads s).filter fun u => (s.room u).drone.active).flatMap fun u => [.beatDue u, .droneBeat u, .missdl u]

/-- Whether an A-stream stands at a COLLW. -/
def atCollw (s : State) (r : BankRef) : Bool :=
  match fetch s ⟨r, .a⟩ with
  | .word m w x => match decode m w x with | .ok (.collw ..) => true | _ => false
  | _ => false

/-- Whether the COLL at the head of a C queue would trap in this cycle; then it does before the streams of its bank issue (R355). -/
def collTraps (s : State) (u : SuiteId) (b : Fin 2) : Bool :=
  decide ((s.bank (.bank u b)).traps.length < ((after s (exec (.collArrival u) s)).bank (.bank u b)).traps.length)

/-- Whether the COLL at the head of a C queue lets the COLLWs of its tenant take their counts first in this cycle (R278). -/
def collYields (s : State) (u : SuiteId) : Bool :=
  match headOf s u .c with
  | some c => (match c.op with | .coll .. => true | _ => false) && ((allBanks ++ allCtxs).any fun r => tenantOf s r == c.tenant && atCollw s r)
      && !collTraps s u c.bank
  | none => false

/-- The heads of the queues; a COLL that lets a COLLW go first has its turn after the streams. -/
def headEvents (s : State) : List Instr :=
  (onSuites s).flatMap fun u => headEvent s u .m ++ if collYields s u then [] else headEvent s u .c
def laterHeads (s : State) : List Instr := ((onSuites s).filter (collYields s)).flatMap fun u => headEvent s u .c

/-- The running commands that may end. -/
def endingEvents (s : State) : List Instr :=
  (onSuites s).flatMap (fun u => runningEvents (s.suite u) u) ++ (openInsts s ++ (runningInsts s).filter fun i => !(openInsts s).contains i).map .collInstanceCompletion

/-- The events of a list that happen in this cycle, each by free choice (R142, R164, R165, R262; log 7). -/
def someOf (l : List Instr) (s : State) : List Instr × State :=
  l.foldl (fun (p : List Instr × State) i => let (k, s1) := chooseBelow p.2 2; (if k = 0 then p.1 ++ [i] else p.1, s1)) ([], s)

/-- What the queues and the operations under way of a bank or context may do in a cycle. -/
def bankChances (s : State) (r : BankRef) : List Instr :=
  let b := s.bank r
  let left := match r with | .bank u k => k == 0 && !(s.suite u).leftover.isEmpty | .ctx _ => false
  (if b.lq.isEmpty then [] else [.queueEntryPerform r false]) ++ (if b.sq.isEmpty && !left then [] else [.queueEntryPerform r true])
    ++ (downFrom b.prefetch).map (.prefetchCompletion r)
    ++ (match r with
        | .ctx c => (if (s.ctx c).tinv.isEmpty then [] else [.tinvCompletion c]) ++ (if (s.ctx c).frel.isEmpty then [] else [.frelCompletion c])
        | .bank .. => [])

/-- What they do whenever they can. -/
def bankEvents (s : State) (r : BankRef) : List Instr :=
  let b := s.bank r
  (if b.lq.isEmpty then [] else [.monitorTrigger r, .waittmoExpiry r]) ++ (if b.sq.isEmpty then [] else [.drntCompletion r])
    ++ (downFrom b.divs).map (.divideCompletion r) ++ (if b.pageWait then [.pageFaultBankSwitch r] else [])

/-- What the rooms' atomics do in a cycle. -/
def atomicEvents (s : State) : List Instr :=
  ((onSuites s).filter fun u => !(s.room u).atomics.isEmpty).flatMap fun u => [.orderedAtomicApply u, .accumulatorAtomicApply u]

/-- What the Steward contexts' own commands do late in a cycle: scan commands and event rings. A SCNRUN waits for the restarts of the next cycle. -/
def ctxEvents (s : State) (c : CtxId) : List Instr :=
  let x := s.ctx c
  (match x.scans with
    | [] => []
    | y :: _ => (if y.op = .run then [] else [.scanControllerTake c]) ++ [.beatStop c, .coreStopComplete c, .scanShiftCompletion c])
    ++ (if x.events.isEmpty then [] else [.eventRingWrite c])

/-- Restarts by SCNRUN come first in a cycle. -/
def restartEvents (s : State) : List Instr :=
  (List.finRange 128).flatMap fun c => match (s.ctx c).scans with
    | x :: _ => (if x.op = .run ∧ !x.taken then [.scanControllerTake c] else []) ++ (if x.op = .run then [.scnrunRestart c] else [])
    | [] => []

/-- Barriers that some bank waits in. -/
def barrierEvents (s : State) : List Instr :=
  let waits := allBanks.filterMap fun r => match r, (s.bank r).visit with
    | .bank u _, some v =>
      if (s.bank r).sync = .none then none
      else if v.scope = 0 then some (v.tenant, (0 : Fin 3), v.launch.toNat)
      else if v.scope = 1 then some (v.tenant, (1 : Fin 3), dieOf u)
      else some (v.tenant, (2 : Fin 3), 0)
    | _, _ => none
  (allBanks.filterMap fun r => match r with | .bank u b => if (s.bank r).sync = .none then none else some (.ssyncArrival u b) | .ctx _ => none)
    ++ waits.dedup.map fun (t, scope, inst) => .barrierCompletion t scope inst

/-- What the walker does in a cycle. -/
def walkerEvents (s : State) : List Instr :=
  let tenants := (List.finRange 64).filter fun t => !(s.tenant t).launches.isEmpty
  let all := tenants.flatMap fun t => (s.tenant t).launches.map fun x => (t, x.id)
  let shapes := (tenants.flatMap fun t => (s.tenant t).launches.map (·.shape)).dedup
  all.map (fun (t, id) => .launchReady t id) ++ all.map (fun (t, id) => .priorityAging t id)
    ++ (if tenants.isEmpty then [] else (List.finRange 64).flatMap fun u => shapes.filterMap fun sh => if aligned u sh.val then some (.visitPlacement u sh) else none)
    ++ allBanks.filterMap (fun r => match r, (s.bank r).visit with | .bank u b, some v => if v.lead = u then some (.visitRetire u b) else none | _, _ => none)
    ++ s.pkg.migrating.map fun m => .migration m.tenant ⟨m.seg % 65536, Nat.mod_lt _ (by decide)⟩

/-- Demands wait for the chanter after a computation has ended too (R226). -/
def demandEvents (s : State) : List Instr := ((onSuites s).filter fun u => !(s.room u).drone.queue.isEmpty).map .demandVector

/-- A slice port whose die runs (R4, R333). -/
def portOn (s : State) (x : L2Port) : Bool := !(s.pkg.pausing.toList.getD (x.port / 384) false)

/-- What the control die and the slice ports do late in a cycle. -/
def lateEvents (s : State) : List Instr :=
  (List.finRange 128).flatMap (ctxEvents s)
    ++ (onSuites s).flatMap (fun u => [(0 : Fin 2), 1].filterMap fun b => if (s.bank (.bank u b)).visit.isSome then some (.fedead u b) else none)
    ++ ((List.finRange 64).filter fun t => ologMode s t == 2).map .replaydiv
    ++ (s.pkg.l2.filter fun x => portOn s x && !x.reqs.isEmpty).map (fun x => .l2PortGrant x.port)

/-! ### The order of a bank's trap events (R365) -/

/-- Traps in ascending agent code, those of one agent in their order. -/
def insertTrap (t : Trap) : List Trap → List Trap
  | [] => [t]
  | u :: l => if t.agent.toNat < u.agent.toNat then t :: u :: l else u :: insertTrap t l
def sortByAgent (l : List Trap) : List Trap := l.foldl (fun acc t => insertTrap t acc) []

/-- Trap events of a list take the payloads of `new` one after another where they had those of `old`. -/
def orderEvents (source : Nat) (old new : List Trap) : List Event → List Event
  | [] => []
  | e :: rest =>
    if e.kind = evTrap ∧ e.source = source ∧ old.any (fun t => trapBits t == e.payload) then
      match new with
      | t :: more => { e with payload := trapBits t } :: orderEvents source old more rest
      | [] => e :: orderEvents source old [] rest
    else e :: orderEvents source old new rest

/-- A bank with several traps of this cycle: they are recorded, and their events posted, in ascending agent code (R365). The supervisor's events of this
cycle still stand in its list; copies to the host follow them (R328). -/
def orderTraps (s : State) (r : BankRef) : State :=
  let old := (s.bank r).traps
  let new := sortByAgent old
  let c := supervisor (tenantOf s r)
  let before := (s.ctx c).events
  let events := orderEvents r.source old new before
  if (s.bank r).trapAt ≠ some s.cycle ∨ old = new then s
  else
    let changed := (before.zip events).filter fun p => p.1 != p.2
    let copy := fun (m : OutMsg) => match changed.find? fun p => m.kind == 5 && m.bytes.drop 64 == eventBytes p.1 with
      | some p => { m with bytes := m.bytes.take 64 ++ eventBytes p.2 }
      | none => m
    ((s.modBank r fun b => { b with traps := new }).modCtx c fun x => { x with events := events }).modPkg fun p => { p with out := p.out.map copy }
def sortTraps (s : State) : State := allBanks.foldl orderTraps s

/-! ### The banks and contexts that issue (R33, R162) -/

/-- Whether a bank is runnable. -/
def runnable (s : State) (u : SuiteId) (b : Fin 2) : Bool :=
  let k := s.bank (.bank u b)
  k.visit.isSome && !(s.suite u).stopped && k.traps.isEmpty && !k.pageWait && !k.switched

/-- The bank that a Suite core selects. Where both banks have yielded within 16 cycles they alternate (R33, R162; DESIGN CHOICE, log 58). -/
def selectBank (s : State) (u : SuiteId) : Option (Fin 2) :=
  let y := fun (b : Fin 2) => (s.bank (.bank u b)).yieldLeft != 0
  if runnable s u 0 && runnable s u 1 then
    if y 0 && !y 1 then some 1 else if y 1 && !y 0 then some 0 else some (if (s.suite u).lastBank = 0 then 1 else 0)
  else if runnable s u 0 then some 0
  else if runnable s u 1 then some 1
  else none

/-- The turns of the streams of the selected bank, once in a cycle; those of the other bank are only looked at (R358). -/
def selectSuite (p : List Turn × State) (u : SuiteId) : List Turn × State :=
  match selectBank p.2 u with
  | some b =>
    let o := otherBank b
    let s1 := p.2.modSuite u fun x => { x with lastBank := b }
    (p.1 ++ [.issue ⟨.bank u b, .x⟩, .issue ⟨.bank u b, .a⟩],
      if runnable s1 u o then probe (probe s1 ⟨.bank u o, .a⟩) ⟨.bank u o, .x⟩ else s1)
  | none => p

/-- The chanters' turns; the chanter of a held bank runs on (R355). -/
def chanterTurns (s : State) : List Turn :=
  ((onSuites s).filter fun u => (s.suite u).chanter.busy).map fun u => .issue ⟨.bank u (s.suite u).chanter.bank, .chanter⟩

/-- Steward cores of 16 contexts each (R2, log 5): the core of a context. -/
def coreContexts (core : Nat) : List CtxId := (List.finRange 128).filter fun c => c.val / 16 == core

/-- Contexts that may issue. -/
def ctxRunnable (s : State) (c : CtxId) : Bool := !(s.ctx c).held.isEmpty || live s ⟨.ctx c, .a⟩ || live s ⟨.ctx c, .x⟩

/-- One Steward core: by free choice one of its contexts issues, a context that yielded only alone; the others are looked at. -/
def selectCore (p : List Turn × State) (core : Nat) : List Turn × State :=
  let run := (coreContexts core).filter (ctxRunnable p.2)
  let fresh := run.filter fun c => (p.2.ctx c).regs.yieldLeft == 0
  let cand := if fresh.isEmpty then run else fresh
  if cand.isEmpty then p
  else
    let (k, s1) := chooseBelow p.2 cand.length
    match cand[k]? with
    | none => (p.1, s1)
    | some c =>
      (p.1 ++ [.issue ⟨.ctx c, .x⟩, .issue ⟨.ctx c, .a⟩],
       (run.filter (· != c)).foldl (fun s d => probe (probe s ⟨.ctx d, .a⟩) ⟨.ctx d, .x⟩) s1)

/-! ### The parts of a cycle -/

/-- Cycles counted for the Suites and contexts whose clock runs (R345). -/
def countCycles (s : State) : State :=
  let s1 := (onSuites s).foldl (fun s u => countEvents s (.bank u 0) 1 1) s
  (List.finRange 128).foldl (fun s c => countEvents s (.ctx c) 1 1) s1

def eventTurns (l : List Instr) : List Turn := l.map Turn.event

/-- The turns of one part of a cycle (log 5). Part 0: restarts by SCNRUN. 1: queues. 2: the banks that issue are selected; this part names the rest of the
cycle. 3: rooms and copies. 4: beats. 5: heads of the queues, after the chanters, whose commands run at once (R229), before the other streams, whose
commands wait for the next cycle. 6: commands that end. 7: atomics. 8: barriers, demands, the walker. 9: the control die, ports, links, landings. -/
def phaseTurns (n : Nat) (s : State) : List Turn × State :=
  let banks := (onSuites s).flatMap fun u => [BankRef.bank u 0, .bank u 1]
  match n with
  | 0 => (eventTurns (restartEvents s), s)
  | 1 =>
    let (l, s1) := (banks ++ allCtxs).foldl (fun (p : List Instr × State) r =>
      let (m, s1) := someOf (bankChances p.2 r) p.2
      (p.1 ++ m ++ bankEvents p.2 r, s1)) ([], s)
    (eventTurns l, s1)
  | 2 =>
    let (suiteTurns, s1) := (onSuites s).foldl selectSuite ([], countCycles s)
    let (ctxTurns, s2) := (List.range 8).foldl selectCore ([], s1)
    ([.phase 3, .phase 4] ++ chanterTurns s ++ [.phase 5, .phase 6] ++ suiteTurns ++ ctxTurns ++ [.phase 7, .phase 8, .phase 9], s2)
  | 3 => (eventTurns (roomEvents s), s)
  | 4 => (eventTurns (beatEvents s), s)
  | 5 =>
    let others := fun (x : Turn) => x != .phase 7
    (eventTurns (headEvents s), { s with turns := s.turns.takeWhile others ++ eventTurns (laterHeads s) ++ s.turns.dropWhile others })
  | 6 => (eventTurns (endingEvents s), s)
  | 7 => (eventTurns (atomicEvents s), s)
  | 8 => (eventTurns (barrierEvents s ++ demandEvents s ++ walkerEvents s), s)
  | _ =>
    let s1 := sortTraps s
    let ports := (s1.pkg.l2.filter (portOn s1)).map fun x => Turn.refill x.port
    let links := ((List.finRange 12).filter fun i => (s1.pkg.links.get i).trained).map Turn.escape
    (eventTurns (lateEvents s1) ++ ports ++ links ++ (banks ++ allCtxs).map Turn.landing, s1)

/-! ### The bounds of a cycle -/

/-- A new cycle: how many of the inputs come in it is a free choice, and every part has its turn. A package that is not booted only resets, by itself once
its firmware is accepted, and RESET messages of that cycle ask for no other reset (R331, R332). -/
def startCycle (s : State) : State :=
  let (k, s1) := chooseBelow s (s.inputs.length + 1)
  let n := s.inputs.length - k
  let now := (s1.inputs.take n).filter fun i => isInput i && !inputWaits s i
  let s2 := { s1 with inputs := (s1.inputs.take n).filter (inputWaits s) ++ s1.inputs.drop n }
  if s2.pkg.booted then
    { s2.modPkg fun p => { p with pausing := p.throttle.map (· != 0) } with turns := s2.turns ++ eventTurns now ++ [.phase 0, .phase 1, .phase 2] }
  else if Config.firmwareGood then
    { s2 with resetFrom := s2.resetFrom.drop (now.filter (· == .packageReset)).length
              turns := eventTurns (now.filter (· != .packageReset) ++ [.packageReset]) }
  else { s2 with turns := eventTurns now }

/-- A stream at the end of a cycle: increments take effect, and a cycle held on a flag is counted (R48, R349). -/
def closeStream (sync : Bool) (st : Stream) : Stream :=
  let st1 := (List.finRange 8).foldl (fun st n =>
    (List.range (st.semNew.get n)).foldl (fun st _ => semIncrement st (BitVec.ofNat 3 n.val)) st) st
  { st1 with semNew := Vector.replicate 8 0, flagWait := if st1.flagHeld && !sync then st1.flagWait + 1 else st1.flagWait, blocked := false, flagHeld := false }

/-- A bank at the end of a cycle: what was placed in this cycle is there for the next (R50, R158, R191). `on` says that its die's clock has run, and `run`
its own: a division ends in a core that stops (R291). -/
def closeBank (on run : Bool) (b : Bank) : Bank :=
  { b with sa := closeStream (b.sync != .none) b.sa, sx := closeStream false b.sx, cq := b.cq ++ b.cqNew, cqNew := [],
           tok := Vector.ofFn fun i => b.tok.get i + b.tokNew.get i, tokNew := Vector.replicate 12 0,
           divs := if on then b.divs.map fun d => { d with left := d.left - 1 } else b.divs, yieldLeft := if run then b.yieldLeft - 1 else b.yieldLeft,
           wrote := [] }

/-- The chanter at the end of a cycle: after DRET it is idle (R235). -/
def closeChanter (x : Chanter) : Chanter := { x with busy := x.busy && !x.ending, ending := false }

/-- Drone registers at the end of a cycle: a beat that was due and not ready is held and counted, and demands of this cycle may be vectored from the next
on (R220, R226, R228). `run` says whether the beat clock has counted the cycle. -/
def closeDrone (run : Bool) (d : Drone) : Drone :=
  { d with held := d.held || d.missNow, dmiss := if d.missNow then d.dmiss + 1 else d.dmiss, missNow := false, queueNew := 0,
           sinceBeat := if run then d.sinceBeat + 1 else d.sinceBeat }

/-- A WAITA that watches its word is a flag wait of its stream (R345, R349). -/
def countWaits (s : State) (r : BankRef) : State :=
  match (s.bank r).lq.head? with
  | some e => match e.op with
    | .waita _ _ _ _ (some _) _ _ => if (s.bank r).sa.flagHeld then s else countEvents s r 7 1
    | _ => s
  | none => s

/-- What ends with a cycle before its registers close: fences, trace records, nests and drone computations, flag waits. -/
def endEffects (s : State) : State :=
  let s1 := (allBanks ++ allCtxs).foldl settleFence s
  let s2 := (List.finRange 64).foldl traceFlush s1
  let s3 := (onLeads s2).foldl finishRuns s2
  let s4 := (onLeads s3).foldl (fun s u => if (s.room u).drone.ending then endDrone s u else s) s3
  ((onSuites s4).flatMap (fun u => [BankRef.bank u 0, .bank u 1]) ++ allCtxs).foldl countWaits s4

/-- The overflows that the counters of a Suite or context show at the end of a cycle (R347). -/
def overflows (s : State) (r : BankRef) : List Turn := (countClose (countersOf s r)).2.map fun n => .event (.counterOverflow r n)

/-- The end of a cycle. Clocks that stop stop last: the cycle still counts for them (R300, R317). The 1 GHz time base advances at the end of each cycle
whose number is 3 modulo 4, counted from reset: the manual does not give its phase against the 4 GHz clock (R4; DESIGN CHOICE, log 61). -/
def endCycle (s : State) : State :=
  let s1 := endEffects s
  let runs := fun (u : SuiteId) => (s1.room u).drone.active && wingLive s1 u && !paused s1 u
  let s2 := { s1 with
    suites := Vector.ofFn fun u =>
      let x := s1.suite u
      { x with banks := x.banks.map (closeBank (!paused s1 u) (!paused s1 u && !x.stopped)), aPort := false, chanter := closeChanter x.chanter,
               counters := (countClose x.counters).1 }
    ctxs := s1.ctxs.map fun x => { x with regs := closeBank true true x.regs, counters := (countClose x.counters).1 }
    rooms := Vector.ofFn fun u => let x := s1.room u; { x with portRows := [], portAtoms := [], beatNow := false, ovfNow := false, drone := closeDrone (runs u) x.drone }
    turns := s1.turns ++ (List.finRange 64).flatMap (fun u => overflows s1 (.bank u 0)) ++ allCtxs.flatMap (overflows s1)
    cycle := s1.cycle + 1
    fabric := if s1.cycle % 4 = 3 then s1.fabric + 1 else s1.fabric
    fresh := s1.fresh + 1 }
  (applyStops s2).modPkg fun p =>
    { p with rcyc := Vector.ofFn fun d => if p.pausing.get d then p.rcyc.get d else p.rcyc.get d + 1
             throttle := Vector.ofFn fun d => if p.pausing.get d then p.throttle.get d - 1 else p.throttle.get d }

/-- One step of the machine: the next turn of the cycle, or the passage to the next cycle. -/
def turn (s : State) : Host.Outcome State Fault Refusal :=
  match s.turns with
  | [] => .next (startCycle (endCycle s))
  | .event i :: rest => exec i { s with turns := rest }
  | .issue ag :: rest => streamTurn { s with turns := rest } ag
  | .csr ag num op :: rest => csrTurn { s with turns := rest } ag num op
  | .phase n :: rest => let (l, s1) := phaseTurns n { s with turns := rest }; .next { s1 with turns := l ++ s1.turns }
  | .refill port :: rest => execL2BucketRefill port { s with turns := rest }
  | .escape port :: rest => execEscapeChannelEntry port { s with turns := rest }
  | .landing r :: rest => execResultLanding r { s with turns := rest }

end Sys2Proof.Machine
end

