-- ==== Sys2Proof/Machine/Step.lean ====
section
/-! DEFINITION. The step of the machine, and the placing of one instruction where the next step fetches it. -/

namespace Sys2Proof.Machine

/-- One step: one turn of a cycle, or the passage from a cycle to the next (log 5). -/
def step (s : State) : Host.Outcome State Fault Refusal := turn s

/-- The map whose line holds a word, in the order of decodeTableWord (log 10). -/
def mapFor (a b : W32) : Map :=
  match decode .a a b with
  | .ok _ => .a
  | .error _ =>
    match decode .x a b with
    | .ok _ => .x
    | .error _ => match decode .drain a b with | .ok _ => .drain | .error _ => .a

/-- The stream that runs it: a privileged instruction needs a Steward context, the chanter's own commands its line. -/
def agentFor (m : Map) (i : Option Instr) : Agent :=
  match m with
  | .x => ⟨.bank 0 0, .x⟩
  | .drain => ⟨.bank 0 0, .drain⟩
  | .a =>
    match i with
    | some i =>
      if i.privileged then ⟨.ctx 0, .a⟩
      else match i with
        | .dfeed .. | .ddrn .. | .dret .. => ⟨.bank 0 0, .chanter⟩
        | _ => ⟨.bank 0 0, .a⟩
    | none => ⟨.bank 0 0, .a⟩

/-- An image of one interlocked line that holds two words (R15). -/
def oneLine (k : StreamKind) (a b : W32) : Image where
  tenant := 0
  seg := 0
  nlines := 1
  dual := false
  entryA := 0
  entryX := 0
  entryCh := 0
  drains := []
  latency := (List.range 12).map Config.latency
  lines := [[BitVec.ofNat 32 (2 ^ 30 * ownerOf k + 2 ^ 29 + 2 ^ 28 + 2 * 2 ^ 24), a, b] ++ List.replicate 13 0]

/-- A Visit of tenant 0 in the wing of room 0. -/
def oneVisit (image : Nat) : Visit where
  tenant := 0
  launch := 0
  iter := 0
  image := image
  dual := false
  forced := false
  lead := 0
  shape := 0
  scope := 0
  stage := 0
  viter := 0

/-- A drain row that is about to run the first word of a program. -/
def oneRow (image : Nat) : DrainCtx where
  bank := 0
  writes := []
  lanes := Vector.replicate 128 0
  ty := .fp32
  row := 0
  c := 0
  mode := 0
  dbase := 0
  pitch := 0
  isInt := false
  image := image
  dual := false

/-- The instruction whose bits are w, placed so that the very next step fetches and runs it: it stands at the first slot of a loaded image, in the
line of the stream that it needs, that stream stands there and runs, and the next turn of the cycle is its own (log 4). -/
def State.withFetchWord (s : State) (nbits w : Nat) : State :=
  let a := BitVec.ofNat 32 w
  let b := BitVec.ofNat 32 (w / 2 ^ 32)
  let ag := agentFor (mapFor a b) (decodeTableWord nbits w)
  let n := s.pkg.images.length
  let s1 := { s.modPkg fun p => { p with booted := true, images := p.images ++ [oneLine ag.kind a b] } with turns := [.issue ag] }
  let run := fun (st : Stream) (on : Bool) => { st with pos := 0, running := on }
  match ag.bank with
  | .ctx c => s1.modCtx c fun x =>
      { x with running := true, hasImage := true, image := n, regs := { x.regs with sa := run x.regs.sa true } }
  | .bank u k =>
    let s2 := s1.modBank (.bank u k) fun x =>
      { x with visit := some (oneVisit n), sa := run x.sa (ag.kind == .a), sx := run x.sx (ag.kind == .x) }
    match ag.kind with
    | .chanter => s2.modSuite u fun x => { x with chanter := { x.chanter with busy := true, bank := k, pos := 0 } }
    | .drain => s2.modRoom u fun x => { x with drain := some (oneRow n), drainPos := 0 }
    | _ => s2

end Sys2Proof.Machine
end

