-- ==== Sys2Proof/Safety.lean ====
section
/-! DEFINITION. The terms that claims use: a machine that goes on, an instruction that is ready to issue, the state after its issue, and what an
issue leaves alone. -/

namespace Sys2Proof

/-- The wait field of an instruction (R107); an event, a hint and a drain micro-op have none. -/
def Instr.waitField : Instr → BitVec 4
  | .add _ _ _ w | .sub _ _ _ w | .mul _ _ _ w | .mulh _ _ _ w | .div _ _ _ _ w | .divu _ _ _ _ w | .rem _ _ _ _ w | .remu _ _ _ _ w
  | .and _ _ _ w | .or _ _ _ w | .xor _ _ _ w | .shl _ _ _ w | .shr _ _ _ w | .sra _ _ _ w | .min _ _ _ w | .max _ _ _ w | .minu _ _ _ w
  | .maxu _ _ _ w | .slt _ _ _ w | .sltu _ _ _ w | .sel _ _ _ w | .clz _ _ w | .popc _ _ w | .addi _ _ _ w | .andi _ _ _ w | .ori _ _ _ w
  | .xori _ _ _ w | .shli _ _ _ w | .shri _ _ _ w | .srai _ _ _ w | .slti _ _ _ w | .lui _ _ w | .lix _ _ w | .br _ _ _ _ w | .jmp _ w
  | .call _ w | .ret w | .loop _ _ _ w | .brk _ w | .cqp _ w | .endA w | .nopA w | .ld _ _ _ _ _ _ _ w | .st _ _ _ _ _ _ w | .ldl _ _ _ _ w
  | .stl _ _ _ w | .ldt _ _ _ _ w | .stt _ _ _ _ w | .pft _ _ w | .align w | .fence _ w | .drnt _ _ w | .waita _ _ _ _ _ w
  | .aat _ _ _ _ _ _ _ _ w | .amem _ _ _ _ _ w | .toksA _ w | .tokwA _ w | .crd _ _ _ w | .cwr _ _ _ w | .cmw _ _ _ w | .cxc _ _ _ w | .trap _ w
  | .eret w | .yieldA w | .rpush _ w | .rpop w | .tinv _ _ _ w | .frel _ _ _ w | .ssync _ _ w | .mnest _ _ _ _ w | .mfmt _ _ _ _ w | .mgo _ _ w
  | .mwing _ _ _ w | .mdrn _ _ _ _ w | .dstart _ _ _ _ w | .dlook _ _ _ w | .dfeed _ _ _ _ w | .ddrn _ _ _ w | .dend _ _ w | .dret w
  | .cpy _ _ _ _ _ w | .cpyq _ _ w | .psend _ _ _ _ w | .precv _ _ _ _ w | .coll _ _ _ _ w | .collw _ _ w | .scnstop _ _ _ _ w
  | .scnrun _ _ _ _ w | .scnout _ _ _ w | .scnin _ _ _ w | .scnq _ _ _ _ w | .vadd _ _ _ _ w | .vsub _ _ _ _ w | .vmul _ _ _ _ w
  | .vfma _ _ _ _ w | .vfms _ _ _ _ w | .vmin _ _ _ _ w | .vmax _ _ _ _ w | .vabs _ _ _ w | .vneg _ _ _ w | .vand _ _ _ w | .vor _ _ _ w
  | .vxor _ _ _ w | .vnot _ _ w | .vshl _ _ _ _ w | .vshr _ _ _ _ w | .vsra _ _ _ _ w | .vcmp _ _ _ _ _ w | .vsel _ _ _ _ w | .vexp2 _ _ _ w
  | .vlog2 _ _ _ w | .vrcp _ _ _ w | .vrsq _ _ _ w | .vsqrt _ _ _ w | .vsigm _ _ _ w | .vtanh _ _ _ w | .vcvt _ _ _ _ _ _ w | .vqdec _ _ _ _ w
  | .vqenc _ _ _ _ w | .vscl _ _ _ _ w | .vred _ _ _ _ _ _ w | .vscan _ _ _ _ _ _ w | .vbcr _ _ _ w | .vbcc _ _ _ w | .vbcs _ _ _ w
  | .vtrn _ _ _ w | .vshf _ _ _ _ w | .vmov _ _ w | .vzero _ w | .vacc _ _ _ w | .vacw _ _ _ _ w | .mand _ _ _ w | .mor _ _ _ w | .mxor _ _ _ w
  | .mnot _ _ w | .mpop _ _ w | .eadd _ _ _ _ w | .esub _ _ _ _ w | .emul _ _ _ w | .emov _ _ w | .eli _ _ w | .erd _ _ w | .ewr _ _ w
  | .cqb _ _ _ _ w | .cqr _ w | .xloop _ _ _ w | .xbr _ _ _ _ w | .toksX _ w | .tokwX _ w | .nopX w | .xend w => w
  | _ => 0


end Sys2Proof

namespace Sys2Proof.Machine

/-- Physical memory and every Local Store stand in their canonical form. -/
def State.memoriesWf (s : State) : Bool := s.pkg.mem.wf && (List.finRange 64).all fun u => (s.suite u).ls.wf

/-- A step that neither stops the machine nor lacks a meaning. -/
def goesOn (o : Host.Outcome State Fault Refusal) : Bool := match o with | .next _ => true | _ => false

/-- The instruction runs to a next state that satisfies `P`. -/
def answers (i : Instr) (s : State) (P : State → Prop) : Prop := ∃ t, exec i s = .next t ∧ P t

/-- The running stream's instruction passes the checks of stage 1, and none of the waits that any instruction can meet holds it (R364). -/
def free (s : State) (i : Instr) (w : BitVec 4) : Bool := (stage1 s s.cur i).isNone && (commonHold s s.cur i w).isNone

/-- The same for an instruction that does not transfer control: no hardware loop that ends at it would return to a line that the stream may not enter,
for which it traps LINKERR (R127, R357). -/
def ready (s : State) (i : Instr) (w : BitVec 4) : Bool := free s i w && (loopBad s s.cur).isNone

/-- The state after the issue of an instruction without its own effect: the wait field's semaphore taken, a finished FENCE settled, the issue
counted and the position moved on, by `p.words` or to `p.jump` (R108, R132, R135, R364). -/
def issued (s : State) (w : BitVec 4) (p : Plan := {}) : State := complete s s.cur w { p with act := fun t => t }

/-- The running stream's instruction takes a trap (R364): with cause, trap value and return position. Where it was held on a flag before, that wait ends
first, with its record (R349); in an interlocked line a Steward stream waits for an earlier write of the handler or the frame's place (R122). -/
def trapsAs (s : State) (i : Instr) (cause : BitVec 8) (tval : Word) (ret : Nat) : Prop :=
  ∃ p : Plan, exec i s = .next (issueTrap (endWait s s.cur p) s.cur cause tval ret)

/-- The issuing stream's tenant takes no trace records and debug capture is off (R349, R352). -/
def quiet (s : State) : Bool :=
  let ctl := (s.tenant (tenantOf s s.cur.bank)).trace.ctl
  !ctl.getLsbD 0 && !ctl.getLsbD 5

/-- A stream without what an issue moves: position, semaphores, hardware loops, the wait just ended, the line's mode. -/
def Stream.kept (x : Stream) : Stream :=
  { x with pos := 0, sems := Vector.replicate 8 0, loops := Vector.replicate 6 LoopRec.reset, loopAge := 0, flagWait := 0, lineMode := none }

/-- A bank without its registers, those written in this cycle, its results in flight, its FENCE and what issues move in its streams. -/
def Bank.kept (x : Bank) : Bank :=
  { x with a := Vector.replicate 32 0, e := Vector.replicate 16 0, fly := [], fence := none, wrote := [], sa := x.sa.kept, sx := x.sx.kept }

/-- A Suite without its banks, L1, counters, the A port and the chanter's position and registers. -/
def Suite.kept (x : Suite) : Suite :=
  { x with banks := Vector.replicate 2 Bank.reset, l1 := [], counters := Counters.reset, aPort := false,
           chanter := { x.chanter with pos := 0, lineMode := none, c := Vector.replicate 8 0 } }

/-- A Steward context without its registers and counters. -/
def Ctx.kept (x : Ctx) : Ctx := { x with regs := Bank.reset, counters := Counters.reset }

/-- Nothing but the issue of one instruction of `ag` lies between two states, its registers and results in flight left open: rooms, tenants and
the package (all of memory with it), every other bank, the Local Stores, tiles, masks and queues of every Suite are as they were. -/
structure OnlyIssue (s t : State) (ag : Agent) : Prop where
  cycle : t.cycle = s.cycle
  fabric : t.fabric = s.fabric
  rooms : t.rooms = s.rooms
  tenants : t.tenants = s.tenants
  pkg : t.pkg = s.pkg
  cur : t.cur = s.cur
  inputs : t.inputs = s.inputs
  fresh : t.fresh = s.fresh
  suites : ∀ u, (t.suite u).kept = (s.suite u).kept
  ctxs : ∀ c, (t.ctx c).kept = (s.ctx c).kept
  others : ∀ r, r ≠ ag.bank → t.bank r = s.bank r
  bank : (t.bank ag.bank).kept = (s.bank ag.bank).kept

/-- The registers that results reach: a and e of the bank, the chanter's c registers, and the results in flight. -/
structure SameRegs (s t : State) (ag : Agent) : Prop where
  a : (t.bank ag.bank).a = (s.bank ag.bank).a
  e : (t.bank ag.bank).e = (s.bank ag.bank).e
  fly : (t.bank ag.bank).fly = (s.bank ag.bank).fly
  c : ∀ u, (t.suite u).chanter.c = (s.suite u).chanter.c

/-- The done fields have been applied: the semaphore they name is one increment ahead, which takes effect at the end of the cycle, and no other
semaphore of the stream is (R108, R48). -/
def doneIn (s t : State) (r : BankRef) (k : StreamKind) (dn : BitVec 4) : Prop :=
  ∀ n : BitVec 3, ((t.bank r).stream k).semNew.get ⟨n.toNat, n.isLt⟩ =
    ((s.bank r).stream k).semNew.get ⟨n.toNat, n.isLt⟩ + if dn.getLsbD 3 = true ∧ dn.setWidth 3 = n then 1 else 0

/-- A tile that holds given elements of a format, to its width, and the union of their flags (R45, R166, R167). -/
structure Elements (f : Fmt) (res : Fin 128 → Nat → Nat × Flags) (v : Tile) (fl : Flags) : Prop where
  values : ∀ i j, j < f.rowLen → elemAt v f i j = (res i j).1 % 2 ^ f.width
  flags : ∀ n, fl.getLsbD n = true ↔ ∃ i j, j < f.rowLen ∧ (res i j).2.getLsbD n = true

/-- Once ready, the instruction issues and fills tile register d, in plain mode, with given elements of a format; the tile lands by class `cls`, and its
flags with it (R121, R167). -/
def fills (s : State) (i : Instr) (w : BitVec 4) (cls : Nat) (d : BitVec 6) (f : Fmt) (res : Fin 128 → Nat → Nat × Flags) : Prop :=
  ready s i w = true → ∃ v fl, Elements f res v fl ∧
    exec i s = .next (emit (issued s w) s.cur cls [.tile (physTile s s.cur.bank d) v false] fl)

/-- A feeder holds n staged slots, those that enter next (R193). -/
def stagedIn (v : Vector Slot 64) (next n : Nat) : Prop := ∀ i, i < 64 → (v.get ⟨(next + i) % 64, Nat.mod_lt _ (by decide)⟩).full = decide (i < n)

end Sys2Proof.Machine
end

