-- ==== Sys2Proof/Certificates/Slice0/Obligations.lean ====
section
/-! DEFINITION. The statements about the PZ4 model, for the provers. Each docstring names the rules of spec/ that the statement formalises. -/

open Sys2Proof Sys2Proof.Machine

/-! ### Decoding and stepping -/

/-- Words that the manual prints decode to the instructions that it prints beside them (examples of R119, R128, R129, R133, R159, R171, R173,
R180, R189, R217, R241, R252, R264, R297). -/
def Obligations.DecodedWords : Prop :=
  decode .a 0x28429800 0 = .ok (.sel 4 5 6 0) ∧
  decode .a 0x0884aac0 0 = .ok (.div 8 9 10 0xb 0) ∧
  decode .a 0x40818400 0 = .ok (.br 2 3 1 0 0) ∧
  decode .a 0x60536660 0 = .ok (.ld 5 6 3 0 1 9 2 0) ∧
  decode .a 0x90531e80 0x40400000 = .ok (.aat 5 6 7 0xa 8 0 0 1 0) ∧
  decode .a 0xb4000da0 0 = .ok (.mgo ⟨1, 1, 1⟩ 0xa 0) ∧
  decode .a 0xc6000080 0x00600000 = .ok (.cpy 0 0 ⟨0, 0, 0⟩ 8 0x18000 0) ∧
  decode .a 0xe46380a0 0 = .ok (.cmw 6 7 0xa 0) ∧
  decode .a 0xf6563600 0 = .ok (.scnstop 5 12 13 8 0) ∧
  decode .x 0x06308290 0 = .ok (.vfma 6 4 5 1 0) ∧
  decode .x 0xa0387000 0 = .ok (.vred 7 3 1 0 0 0 0) ∧
  decode .x 0xe1d00000 0x00000520 = .ok (.cqb 7 4 0 0x52 0) ∧
  decode .drain 0x02000020 0 = .ok (.dbia 2) ∧
  decode .drain 0x12080000 0 = .ok (.drainDend 1)

/-- Every encoded instruction is read back from its own words in its map, with every operand, and takes two slots exactly where its opcode is that
of a two-slot form (R107-R118). -/
def Obligations.DecodeEncode : Prop :=
  ∀ (i : Instr) (m : Map), i.map = some m →
    decode m ((encode i).getD 0 0) ((encode i).getD 1 0) = .ok i ∧
    (encode i).length = if twoSlot m ((encode i).getD 0 0) then 2 else 1

/-- No two words stand for one instruction and no bit of a word is ignored: an instruction that the decoder reads from a word has that word as its
encoding, and the word after it too where the form takes two slots (R107-R118, R119). -/
def Obligations.EncodeDecode : Prop :=
  ∀ (m : Map) (w x : W32) (i : Instr), decode m w x = .ok i →
    i.map = some m ∧ (encode i).getD 0 0 = w ∧ (twoSlot m w = true → (encode i).getD 1 0 = x)

/-- When the turn of a stream that may issue comes, the step is exec of the instruction that its position decodes to, with that stream as the
running one; a Suite's A-stream needs a free A port (R33), and in a cycle with a trap of its bank neither stream of the bank issues (R355). The turn
of an event is exec of that event; the turn of a CSR write that lands is exec of the write's event, with the value that CWR carries, or that CMW or CXC
makes of what the register holds then (R159). -/
def Obligations.StepRunsDecoded : Prop :=
  (∀ (s : State) (ag : Agent) (rest : List Turn) (m : Map) (w x : W32) (i : Instr),
    let s1 : State := { s with turns := rest }
    s.turns = .issue ag :: rest → live s1 ag = true → fetch s ag = .word m w x → decode m w x = .ok i →
    (ag.bank.isCtx = true ∨ ag.kind = .chanter ∨ ag.kind = .drain → step s = exec i { s1 with cur := ag }) ∧
    (ag.bank.isCtx = false → ag.kind = .a → (s.bank ag.bank).traps = [] → (s.suite ag.suite).aPort = false → step s = exec i { s1 with cur := ag }) ∧
    (ag.bank.isCtx = false → ag.kind = .x → (s.bank ag.bank).traps = [] →
      wouldTrap s1 ⟨ag.bank, .a⟩ = false ∨ (s.suite ag.suite).aPort = true → step s = exec i { s1 with cur := ag })) ∧
  (∀ (s : State) (i : Instr) (rest : List Turn), s.turns = .event i :: rest → step s = exec i { s with turns := rest }) ∧
  (∀ (s : State) (ag : Agent) (num : BitVec 12) (v m : Word) (d : BitVec 5) (rest : List Turn),
    let s1 : State := { s with turns := rest }
    let old := csrOld s1 ag num.toNat
    (s.turns = .csr ag num (.write v) :: rest → step s = exec (csrEvent s1 ag num v) s1) ∧
    (s.turns = .csr ag num (.masked v m) :: rest → step s = exec (csrEvent s1 ag num ((old &&& ~~~m) ||| (v &&& m))) s1) ∧
    (s.turns = .csr ag num (.exchange v d) :: rest → step s = exec (csrEvent (writeA s1 ag d old) ag num v) (writeA s1 ag d old)))

/-- Every step of every state goes on to a next state: the PZ4 has no stop of the whole machine, every fault is a trap, a status or a record
(R353). -/
def Obligations.StepGoesOn : Prop := ∀ s : State, goesOn (step s) = true

/-! ### Reset and memory -/

/-- What the manual says of the machine after a package reset: no bank holds a Visit, every context is stopped, no feature is accepted and no key slot
is assigned (R329, R331, R324), and the registers read the reset values that their tables print (R85, R325, R326, R333, R352, R225). -/
def Obligations.ResetState : Prop :=
  let s := State.reset
  (∀ u b, ((s.suite u).banks.get b).visit = none) ∧ (∀ c, (s.ctx c).running = false) ∧
  s.pkg.featacc0 = 0 ∧ s.pkg.featLocked = false ∧ (∀ k : Fin 128, (s.pkg.keys.get k).tenant = none) ∧
  (∀ u i, (s.room u).active.fmts.get i = 0x0110) ∧ (∀ u, (s.room u).drone.look = 1) ∧
  (∀ t, (s.tenant t).qos.depth = 4096 ∧ (s.tenant t).qos.rate = 1024 ∧ (s.tenant t).qos.weight = 16) ∧
  s.pkg.pwrcap = 3000 ∧ (∀ u, (s.suite u).wpctl = 0x300) ∧ (∀ d : Fin 4, s.pkg.rcyc.get d = 0)

/-- The memories of the machine after reset list nothing, which is their canonical form (log 2: what an unlisted byte reads as is the model's choice). -/
def Obligations.ResetMemoriesCanonical : Prop :=
  State.reset.memoriesWf = true ∧ State.reset.pkg.mem = [] ∧ ∀ u, (State.reset.suite u).ls = []

/-- A write at physical addresses under a key slot: each byte written reads back under that slot, poisoned lines that it touches are poisoned no
longer and their other bytes read 0xff as before, and every other byte of memory reads under that slot what it read before, across redraws of the
slot's key too (R68, R324, R408). The canonical form is kept. The bytes meant are those of the installed 768 GB (R7; which frames these are is the
model's choice, log 51), and beyond them those of no line that the write touches.

A write to a Local Store: each byte written reads back, every other byte of every Local Store reads what it read before, poisoned units
that it touches included, and physical memory is as it was (R55, R408). The canonical form is kept. -/
def Obligations.MemoryWrites : Prop :=
  (∀ (s : State) (slot a : Nat) (bs : List Byte) (setter : Nat), s.pkg.mem.wf = true →
    (physWrite s slot a bs setter).pkg.mem.wf = true ∧
    ∀ b, b < hbmLimit ∨ b / 64 < a / 64 ∨ (a + bs.length - 1) / 64 < b / 64 →
      physByte (physWrite s slot a bs setter) slot b = if a ≤ b ∧ b < a + bs.length then bs.getD (b - a) 0 else physByte s slot b) ∧
  (∀ (s : State) (u : SuiteId) (a : Nat) (bs : List Byte), (∀ v, (s.suite v).ls.wf = true) →
    (∀ v, ((lsWrite s u a bs).suite v).ls.wf = true) ∧ (lsWrite s u a bs).pkg.mem = s.pkg.mem ∧
    ∀ v b, lsRead (lsWrite s u a bs) v b 1 =
      if v = u ∧ a ≤ b ∧ b < a + bs.length then [bs.getD (b - a) 0] else lsRead s v b 1)

/-! ### Issue, waits and traps -/

/-- What an issue moves (R108, R17, R132, R135): the semaphore of an enabled wait field goes down by one and no other changes; the position goes to
`p.jump`, or over the words of the instruction where no active loop ends at it; where one active loop alone ends there, it goes back to the loop's
start while iterations remain and falls through after the last. Trace records and debug stops apart (R349, R352). -/
def Obligations.IssueMoves : Prop :=
  ∀ (s : State) (w : BitVec 4) (p : Plan), quiet s = true → s.cur.kind = .a ∨ s.cur.kind = .x →
    let st := s.stream s.cur
    let t := (issued s w p).stream s.cur
    (∀ n : BitVec 3, t.sems.get ⟨n.toNat, n.isLt⟩ = st.sems.get ⟨n.toNat, n.isLt⟩ - if w.getLsbD 3 = true ∧ w.setWidth 3 = n then 1 else 0) ∧
    (∀ q, p.jump = some q → t.pos = q) ∧
    (p.jump = none → (∀ i : Fin 6, (st.loops.get i).active = true → (st.loops.get i).stop ≠ st.pos) → t.pos = sequential s s.cur p.words) ∧
    (∀ i : Fin 6, p.jump = none → (st.loops.get i).active = true → (st.loops.get i).stop = st.pos →
      (∀ j : Fin 6, j ≠ i → (st.loops.get j).active = true → (st.loops.get j).stop ≠ st.pos) →
      (t.loops.get i).counter = (st.loops.get i).counter - 1 ∧
      ((st.loops.get i).counter ≠ 1 → t.pos = (st.loops.get i).start ∧ (t.loops.get i).active = true) ∧
      ((st.loops.get i).counter = 1 → t.pos = sequential s s.cur p.words ∧ (t.loops.get i).active = false))

/-- An instruction that fails a check of stage 1 takes that trap and has no other effect: ILLOP, ILLFLD, ILLREG and PRIV come first, in this order,
with tval 0 and the instruction's own position as the return position (R119, R364); a Steward stream in an interlocked line first waits for an earlier
write of the handler or of its frame's place (R122).

A privileged instruction traps PRIV in a Suite and executes nothing (R116, R119): the trap is recorded, or dropped in a bank that an earlier
trap already holds.

An instruction that a wait of every instruction holds does nothing in the cycle: the whole state is as it was but for the marks of the stream, as
blocked or as held on a flag, so it is tried again (R124, R122, R48, R150, R358). What a hold leaves, whichever wait it is of: those marks, and where it
is on a flag one event of code 7 more in every counter of the Suite or context that selects the code, while the core runs (R345, R349); a counter
written in this cycle counts nothing (R346). A held chanter changes nothing at all. -/
def Obligations.ChecksAndWaits : Prop :=
  (∀ (i : Instr) (s : State) (c : BitVec 8), i.map = some .a ∨ i.map = some .x → stage1 s s.cur i = some c →
    (trapHeld s s.cur c = false → exec i s = .next (takeTrap s s.cur c 0 (posOf s s.cur))) ∧
    (trapHeld s s.cur c = true → exec i s = .next (markHeld s s.cur ⟨false, false⟩))) ∧
  (∀ (i : Instr) (s : State) (u : SuiteId) (b : Fin 2), i.privileged = true → i.WellFormed → s.cur = ⟨.bank u b, .a⟩ →
    exec i s = .next (takeTrap s s.cur 0x04 0 (s.stream s.cur).pos)) ∧
  (∀ (i : Instr) (s : State) (h : Hold), i.map = some .a ∨ i.map = some .x → (∀ x, i ≠ .hint x) →
    stage1 s s.cur i = none → commonHold s s.cur i i.waitField = some h → exec i s = .next (markHeld s s.cur h)) ∧
  (∀ (s : State) (r : BankRef) (k : StreamKind) (h : Hold),
    let marked := s.modStream ⟨r, k⟩ fun x => { x with blocked := h.blocked, flagHeld := h.flag }
    let counted := fun (c : Counters) => { c with inc := Vector.ofFn fun i => c.inc.get i + if (c.sel.get i).toNat = 7 ∧ c.set.get i = false then 1 else 0 }
    (k = .chanter → markHeld s ⟨r, k⟩ h = s) ∧
    (k ≠ .chanter → h.flag = false → markHeld s ⟨r, k⟩ h = marked) ∧
    (k ≠ .chanter → h.flag = true →
      (∀ u b, r = .bank u b →
        ((s.suite u).stopped = false → markHeld s ⟨r, k⟩ h = marked.modSuite u fun x => { x with counters := counted x.counters }) ∧
        ((s.suite u).stopped = true → markHeld s ⟨r, k⟩ h = marked)) ∧
      (∀ c, r = .ctx c →
        ((s.ctx c).running = true → markHeld s ⟨r, k⟩ h = marked.modCtx c fun x => { x with counters := counted x.counters }) ∧
        ((s.ctx c).running = false → markHeld s ⟨r, k⟩ h = marked))))

/-- A precise trap of a Suite stream holds its bank (R353, R354, R355): the record is appended, an event of kind 2 with the record as payload goes to
the supervisor of the Visit's tenant, and nothing else changes: position, registers, rooms and memory are as they were. A bank that is already held
detects nothing. The record lays out cause, agent, bank, class, return position and trap value as R354 does.

A Steward stream takes its own trap (R356): with a handler for the cause's block, a depth below 4 and a frame that can be written, frame `depth`
receives the record, the time and a29 to a31, the depth grows by one, the stream goes on at the handler, and its registers keep their values. Without
a handler or at depth 4 the context stops, and kinds 2 and 8 are posted for it. -/
def Obligations.TrapEntry : Prop :=
  ((∀ (s : State) (u : SuiteId) (b : Fin 2) (k : StreamKind) (c : BitVec 8) (v : Word) (ret : Nat),
    let r : BankRef := .bank u b
    let tr : Trap := ⟨c, 0, k.code, BitVec.ofNat 1 b.val, BitVec.ofNat 28 ret, v⟩
    let t := takeTrap s ⟨r, k⟩ c v ret
    let tn := tenantOf s r
    (heldBefore s r = true → t = s) ∧
    (heldBefore s r = false →
      (t.bank r).traps = (s.bank r).traps ++ [tr] ∧ (t.bank r).trapAt = some s.cycle ∧
      (t.ctx (supervisor tn)).events = (s.ctx (supervisor tn)).events ++ [⟨s.pkg.eventSeq, 2, tn.val, u.val, trapBits tr, (s.ctx (supervisor tn)).hostfwd⟩] ∧
      t.pkg.eventSeq = s.pkg.eventSeq + 1 ∧
      (t.bank r).a = (s.bank r).a ∧ (t.bank r).e = (s.bank r).e ∧ (t.bank r).sa = (s.bank r).sa ∧ (t.bank r).sx = (s.bank r).sx ∧
      t.pkg.mem = s.pkg.mem ∧ t.rooms = s.rooms ∧ t.tenants = s.tenants)) ∧
  (∀ t : Trap, (trapBits t).extractLsb' 0 8 = t.cause ∧ (trapBits t).extractLsb' 8 3 = t.agent ∧ (trapBits t).extractLsb' 11 1 = t.bank ∧
    (trapBits t).extractLsb' 14 2 = t.cls ∧ (trapBits t).extractLsb' 16 28 = t.ret ∧ (trapBits t).extractLsb' 64 64 = t.tval ∧
    (trapBits t).extractLsb' 12 2 = 0 ∧ (trapBits t).extractLsb' 44 20 = 0)) ∧
  (∀ (s : State) (c : CtxId) (k : StreamKind) (cause : BitVec 8) (v : Word) (ret : Nat), cause ≠ 0x28 →
    let ag : Agent := ⟨.ctx c, k⟩
    let st := s.stream ag
    let h := st.hndl.toList.getD (causeBlock cause) 0
    let tr : Trap := ⟨cause, 0, k.code, 0, BitVec.ofNat 28 ret, v⟩
    let t := takeTrap s ag cause v ret
    (h = 0 ∨ 4 ≤ st.tfdepth.toNat → t = stopContext s c (some tr) ∧ (t.ctx c).running = false ∧
      (t.stream ag).pos = st.pos ∧ (t.bank (.ctx c)).a = (s.bank (.ctx c)).a) ∧
    (h ≠ 0 → st.tfdepth.toNat < 4 →
      ∀ s1, storeVa s (ctxTenant s c) (st.tfbase.toNat + 64 * st.tfdepth.toNat) (frameBytes s c tr) (256 + c.val) = (.ok (), s1) →
        t = s1.modStream ag fun x => { x with tfdepth := x.tfdepth + 1, pos := h.toNat }))

/-- The integer instructions of two registers write a[d] as R128 says, with latency class C0, MUL and MULH with C1 (R120); CLZ and POPC take one
source; SEL reads a[d] as its condition.

The immediate instructions take the sign-extended immediate (R130); LUI shifts its sign-extended immediate left by 16, and LIX, of two words,
takes a sign-extended 32-bit one (R131).

The scalar instructions (R187): 64-bit patterns with wrap-around, their result written by class C0, and nothing else of the machine changed but
what an issue moves.

A divide goes under way with the result of R129 and completes 4 to 20 cycles later; until then its destination keeps its value. At its
completion it leaves the divides under way, its result lands at the end of that cycle and its done semaphore is incremented (R129, R48). -/
def Obligations.RegisterResults : Prop :=
  ((∀ (d s1 s2 : BitVec 5) (w : BitVec 4) (s : State),
    let x := readA s s.cur s1
    let y := readA s s.cur s2
    let writes := fun (cls : Nat) (v : Word) => emit (issued s w) s.cur cls [.a d v]
    (ready s (.add d s1 s2 w) w → exec (.add d s1 s2 w) s = .next (writes 0 (x + y))) ∧
    (ready s (.sub d s1 s2 w) w → exec (.sub d s1 s2 w) s = .next (writes 0 (x - y))) ∧
    (ready s (.mul d s1 s2 w) w → exec (.mul d s1 s2 w) s = .next (writes 1 (x * y))) ∧
    (ready s (.mulh d s1 s2 w) w → exec (.mulh d s1 s2 w) s = .next (writes 1 (BitVec.ofInt 64 (x.toInt * y.toInt / 2 ^ 64)))) ∧
    (ready s (.and d s1 s2 w) w → exec (.and d s1 s2 w) s = .next (writes 0 (x &&& y))) ∧
    (ready s (.or d s1 s2 w) w → exec (.or d s1 s2 w) s = .next (writes 0 (x ||| y))) ∧
    (ready s (.xor d s1 s2 w) w → exec (.xor d s1 s2 w) s = .next (writes 0 (x ^^^ y))) ∧
    (ready s (.shl d s1 s2 w) w → exec (.shl d s1 s2 w) s = .next (writes 0 (x <<< (y.toNat % 64)))) ∧
    (ready s (.shr d s1 s2 w) w → exec (.shr d s1 s2 w) s = .next (writes 0 (x >>> (y.toNat % 64)))) ∧
    (ready s (.sra d s1 s2 w) w → exec (.sra d s1 s2 w) s = .next (writes 0 (x.sshiftRight (y.toNat % 64)))) ∧
    (ready s (.min d s1 s2 w) w → exec (.min d s1 s2 w) s = .next (writes 0 (if x.toInt ≤ y.toInt then x else y))) ∧
    (ready s (.max d s1 s2 w) w → exec (.max d s1 s2 w) s = .next (writes 0 (if x.toInt ≤ y.toInt then y else x))) ∧
    (ready s (.minu d s1 s2 w) w → exec (.minu d s1 s2 w) s = .next (writes 0 (if x.toNat ≤ y.toNat then x else y))) ∧
    (ready s (.maxu d s1 s2 w) w → exec (.maxu d s1 s2 w) s = .next (writes 0 (if x.toNat ≤ y.toNat then y else x))) ∧
    (ready s (.slt d s1 s2 w) w → exec (.slt d s1 s2 w) s = .next (writes 0 (if x.toInt < y.toInt then 1 else 0))) ∧
    (ready s (.sltu d s1 s2 w) w → exec (.sltu d s1 s2 w) s = .next (writes 0 (if x.toNat < y.toNat then 1 else 0))) ∧
    (ready s (.sel d s1 s2 w) w → exec (.sel d s1 s2 w) s = .next (writes 0 (if readA s s.cur d ≠ 0 then x else y))) ∧
    (ready s (.clz d s1 w) w → ∃ v : Word, exec (.clz d s1 w) s = .next (writes 0 v) ∧ v.toNat ≤ 64 ∧
      (∀ i, 64 - v.toNat ≤ i → i < 64 → x.getLsbD i = false) ∧ (v.toNat < 64 → x.getLsbD (63 - v.toNat) = true)) ∧
    (ready s (.popc d s1 w) w →
      exec (.popc d s1 w) s = .next (writes 0 (BitVec.ofNat 64 ((List.range 64).countP fun i => x.getLsbD i))))) ∧
  (∀ (d s1 : BitVec 5) (imm : BitVec 11) (h : BitVec 16) (l : W32) (w : BitVec 4) (s : State),
    let x := readA s s.cur s1
    let y : Word := imm.signExtend 64
    let writes := fun (v : Word) => emit (issued s w) s.cur 0 [.a d v]
    (ready s (.addi d s1 imm w) w → exec (.addi d s1 imm w) s = .next (writes (x + y))) ∧
    (ready s (.andi d s1 imm w) w → exec (.andi d s1 imm w) s = .next (writes (x &&& y))) ∧
    (ready s (.ori d s1 imm w) w → exec (.ori d s1 imm w) s = .next (writes (x ||| y))) ∧
    (ready s (.xori d s1 imm w) w → exec (.xori d s1 imm w) s = .next (writes (x ^^^ y))) ∧
    (ready s (.shli d s1 imm w) w → exec (.shli d s1 imm w) s = .next (writes (x <<< imm.toNat))) ∧
    (ready s (.shri d s1 imm w) w → exec (.shri d s1 imm w) s = .next (writes (x >>> imm.toNat))) ∧
    (ready s (.srai d s1 imm w) w → exec (.srai d s1 imm w) s = .next (writes (x.sshiftRight imm.toNat))) ∧
    (ready s (.slti d s1 imm w) w → exec (.slti d s1 imm w) s = .next (writes (if x.toInt < y.toInt then 1 else 0))) ∧
    (ready s (.lui d h w) w → exec (.lui d h w) s = .next (writes (h.signExtend 64 <<< 16))) ∧
    (ready s (.lix d l w) w → exec (.lix d l w) s = .next (emit (issued s w { words := 2 }) s.cur 0 [.a d (l.signExtend 64)])))) ∧
  (∀ (d s1 s2 : BitVec 4) (imm : BitVec 9) (imm17 : BitVec 17) (w : BitVec 4) (s : State),
    let x := readE s s.cur s1
    let y := readE s s.cur s2
    let writes := fun (i : Instr) (v : Word) => ready s i w → exec i s = .next (emit (issued s w) s.cur 0 [.e d v])
    writes (.eadd d s1 s2 imm w) (x + y + imm.signExtend 64) ∧ writes (.esub d s1 s2 imm w) (x - y + imm.signExtend 64) ∧
    writes (.emul d s1 s2 w) (x * y) ∧ writes (.emov d s1 w) x ∧ writes (.eli d imm17 w) (imm17.signExtend 64)) ∧
  ((∀ (d s1 s2 : BitVec 5) (dn w : BitVec 4) (s : State),
    let x := readA s s.cur s1
    let y := readA s s.cur s2
    let starts := fun (i : Instr) (v : Word) => ready s i w → ∃ n, 4 ≤ n ∧ n ≤ 20 ∧
      exec i s = .next ((issued s w).modBank s.cur.bank fun b => { b with divs := b.divs ++ [⟨s.cur.kind, d, v, dn, n, s.cycle⟩] })
    starts (.div d s1 s2 dn w) (if y = 0 then -1 else BitVec.ofInt 64 (x.toInt.tdiv y.toInt)) ∧
    starts (.divu d s1 s2 dn w) (if y = 0 then -1 else BitVec.ofNat 64 (x.toNat / y.toNat)) ∧
    starts (.rem d s1 s2 dn w) (if y = 0 then x else BitVec.ofInt 64 (x.toInt.tmod y.toInt)) ∧
    starts (.remu d s1 s2 dn w) (if y = 0 then x else BitVec.ofNat 64 (x.toNat % y.toNat))) ∧
  (∀ (r : BankRef) (k : Nat) (v : DivOp) (s : State), (s.bank r).divs[k]? = some v → v.left = 0 →
    answers (.divideCompletion r k) s fun t =>
      (t.bank r).divs = (s.bank r).divs.eraseIdx k ∧
      (t.bank r).fly = (s.bank r).fly ++ [⟨v.kind, 0, [.a v.d v.value], 0, v.born, true⟩] ∧
      doneIn s t r v.kind v.dn ∧
      (t.bank r).a = (s.bank r).a ∧ t.pkg = s.pkg ∧ t.rooms = s.rooms))

/-- Issuing an integer instruction leaves alone every register but its destination, every flag and CSR, the load and store queues, the control and token
queues and the command queues, every semaphore that the wait field does not name, every other bank and context, every room, and every byte of memory
and of every Local Store (R128-R131). What an issue itself moves is left open: position, hardware loops and line mode, the semaphore of the wait field,
results in flight, a FENCE that is over with the L1 lines that it drops, the counters and the A port; a divide joins those under way. Trace records and
debug stops apart (R349). -/
def Obligations.IntegerFrame : Prop :=
  ∀ (i : Instr) (d : BitVec 5) (s : State), i.isInteger = true → i.aRegs.head? = some d → ready s i i.waitField → quiet s → s.cur.kind ≠ .drain →
    answers i s fun t =>
      let r := s.cur.bank
      (∀ n, n ≠ d → readA t s.cur n = readA s s.cur n) ∧ readA t s.cur 0 = readA s s.cur 0 ∧
      (t.bank r).e = (s.bank r).e ∧
      (s.cur.kind ≠ .chanter → ∀ u, (t.suite u).chanter.c = (s.suite u).chanter.c) ∧
      (∀ a, memGet t.pkg.mem a = memGet s.pkg.mem a) ∧ (∀ u a, memGet (t.suite u).ls a = memGet (s.suite u).ls a) ∧
      (∀ k, (t.stream ⟨r, k⟩).kept = (s.stream ⟨r, k⟩).kept) ∧
      (∀ n : BitVec 3, (i.waitField.getLsbD 3 = true → i.waitField.setWidth 3 ≠ n) →
        (t.stream s.cur).sems.get ⟨n.toNat, n.isLt⟩ = (s.stream s.cur).sems.get ⟨n.toNat, n.isLt⟩) ∧
      (s.cur.kind = .x → (t.bank r).sa = (s.bank r).sa) ∧ (s.cur.kind ≠ .x → (t.bank r).sx = (s.bank r).sx) ∧
      { (t.bank r).kept with divs := [] } = { (s.bank r).kept with divs := [] } ∧
      ((t.bank r).divs = (s.bank r).divs ∨ ∃ v, v.d = d ∧ (t.bank r).divs = (s.bank r).divs ++ [v]) ∧
      t.pkg = s.pkg ∧ t.rooms = s.rooms ∧ t.tenants = s.tenants ∧ t.inputs = s.inputs ∧ (∀ q, q ≠ r → t.bank q = s.bank q) ∧
      (∀ u, (t.suite u).kept = (s.suite u).kept) ∧ (∀ c, (t.ctx c).kept = (s.ctx c).kept)

/-! ### Control flow -/

/-- BR and XBR (R133, R190), JMP, CALL and RET (R134). A branch whose condition fails goes on behind its two words; any transfer that is taken
goes to its target, or traps LINKERR, with the target's line as trap value and no other effect, where the target is no position of the stream's lines.
A write to a0 is discarded (R43). CALL writes the position behind it to a31 before it goes; RET also traps where a31 holds a value of 2^28 or more. The
return of a hardware loop is such a transfer of the instruction at its end: where the loop's start is no position of the stream's lines, it traps (R357).

LOOP and XLOOP (R135, R190): with a trip count of 0 the stream goes on behind the instruction at the end; that this only jumps, frees an active loop of
that number, and takes no step of an outer loop that ends there too is the model's choice (log 56). Otherwise loop `lid`
becomes active with the count, its start behind the instruction and its end at the target, as the most recently started one, over an active loop of
that number too. An end that is no position of the stream, or does not lie at or after the start in its chain, traps LINKERR. -/
def Obligations.TransfersAndLoops : Prop :=
  ((∀ (s : State) (ag : Agent) (v : Word), ag.kind ≠ .chanter → writeA s ag 0 v = s ∧ readA s ag 0 = 0) ∧
  (∀ x y : Word, (condHolds 0 x y ↔ x = y) ∧ (condHolds 1 x y ↔ x ≠ y) ∧ (condHolds 2 x y ↔ x.toInt < y.toInt) ∧
    (condHolds 3 x y ↔ y.toInt ≤ x.toInt) ∧ (condHolds 4 x y ↔ x.toNat < y.toNat) ∧ (condHolds 5 x y ↔ y.toNat ≤ x.toNat) ∧
    (condHolds 6 x y ↔ x = 0) ∧ (condHolds 7 x y ↔ x ≠ 0)) ∧
  ∀ (cond : BitVec 3) (s1 s2 : BitVec 5) (e1 e2 : BitVec 4) (target : BitVec 28) (w : BitVec 4) (s : State),
    let ag := s.cur
    let p := target.toNat
    let there : Plan := { jump := some p, words := 2 }
    let linkErr := fun (i : Instr) (q : Nat) => trapsAs s i 0x05 (BitVec.ofNat 64 (q / 16)) (posOf s ag)
    let branch := fun (i : Instr) (taken : Bool) =>
      (ready s i w → taken = false → exec i s = .next (issued s w { words := 2 })) ∧
      (free s i w → taken = true → targetBad s ag p = false → exec i s = .next (issued s w there)) ∧
      (free s i w → taken = true → targetBad s ag p = true → linkErr i p) ∧
      (free s i w → taken = false → ∀ q, loopBad s ag = some q → linkErr i q)
    let a31 := (readA s ag 31).toNat
    branch (.br cond s1 s2 target w) (condHolds cond (readA s ag s1) (readA s ag s2)) ∧
    branch (.xbr cond e1 e2 target w) (condHolds cond (readE s ag e1) (readE s ag e2)) ∧
    branch (.jmp target w) true ∧
    (∀ (i : Fin 6) (st : Stream), st = s.stream ag → ag.kind = .a ∨ ag.kind = .x → (st.loops.get i).active = true → (st.loops.get i).stop = st.pos →
      (∀ j : Fin 6, j ≠ i → (st.loops.get j).active = true → (st.loops.get j).stop ≠ st.pos) → (st.loops.get i).counter ≠ 1 →
      (st.loops.get i).start ≠ 2 ^ 40 → targetBad s ag (st.loops.get i).start = true → loopBad s ag = some (st.loops.get i).start) ∧
    (free s (.call target w) w →
      (targetBad s ag p = false →
        exec (.call target w) s = .next (emit (issued s w there) ag 0 [.a 31 (BitVec.ofNat 64 (sequential s ag 2))])) ∧
      (targetBad s ag p = true → linkErr (.call target w) p)) ∧
    (free s (.ret w) w →
      (a31 < 2 ^ 28 → targetBad s ag a31 = false → exec (.ret w) s = .next (issued s w { jump := some a31 })) ∧
      (2 ^ 28 ≤ a31 ∨ targetBad s ag a31 = true → linkErr (.ret w) a31))) ∧
  (∀ (lid : BitVec 3) (s1 : BitVec 5) (e1 : BitVec 4) (target : BitVec 28) (w : BitVec 4) (s : State) (im : Image),
    let ag := s.cur
    let p := target.toNat
    let start := sequential s ag 2
    let good := targetBad s ag p = false ∧ inChainFrom im p (im.nlines + 1) start = true
    let starts := fun (i : Instr) (n : W32) => free s i w → lid.toNat < 6 →
      (good → n = 0 → exec i s = .next (issued s w { jump := some (nextPos im p (wordsAt im ag.kind p)), words := 2 })) ∧
      (good → n ≠ 0 → ready s i w → exec i s = .next ((issued s w { words := 2 }).modStream ag fun x =>
        { x with loopAge := x.loopAge + 1, loops := x.loops.set (lid.toNat % 6) ⟨n, start, p, true, x.loopAge + 1, 0⟩ (Nat.mod_lt _ (by decide)) })) ∧
      (¬ good → ∃ line, trapsAs s i 0x05 (BitVec.ofNat 64 line) (posOf s ag))
    imageOf s ag.bank = some im →
      starts (.loop lid s1 target w) ((readA s ag s1).setWidth 32) ∧ starts (.xloop lid e1 target w) ((readE s ag e1).setWidth 32))

/-- NOP of both maps and the hint space have no effect beyond their issue (R136, R192, R119); a hint's wait field is not applied. BRK adds a
breakpoint event with its immediate for the tenant's supervisor, or for the Steward context itself, while debug capture is on, and is a NOP otherwise
(R138). END and XEND stop their stream (R136, R192).

YIELD, RPUSH and RPOP (R162, R163): YIELD changes nothing but how long the issuing bank passes; RPUSH puts its label on the stack of sixteen, and
one more is discarded and sets RLSTAT.over; RPOP removes the top label, and sets RLSTAT.under on an empty stack. A change of the stack may leave a trace record.

The ordering instructions (R149-R151) and PFT (R148): ALIGN places its markers at the present place of program order, which order nothing when
nothing earlier is pending; FENCE holds later accesses until the earlier ones have performed, those that a page fault has put aside too, and, with a
scope other than suite, clears L1 then; a DRNT of the stream that has not completed holds it; PFT queues a request and checks nothing, its descriptor
being read after an earlier acquire of the stream. -/
def Obligations.PlainEffects : Prop :=
  (((∀ (w : BitVec 4) (x : BitVec 25) (s : State),
    (ready s (.nopA w) w → exec (.nopA w) s = .next (issued s w)) ∧
    (ready s (.nopX w) w → exec (.nopX w) s = .next (issued s w)) ∧
    (ready s (.hint x) 0 → exec (.hint x) s = .next (issued s 0))) ∧
  (∀ (imm : BitVec 16) (w : BitVec 4) (s : State), ready s (.brk imm w) w →
    let t := tenantOf s s.cur.bank
    (dbgOn s t = false → exec (.brk imm w) s = .next (issued s w)) ∧
    (dbgOn s t = true → exec (.brk imm w) s =
      .next (postEvent (issued s w) (eventTarget s s.cur.bank) 6 t.val s.cur.bank.source (imm.setWidth 128)))) ∧
  (∀ (w : BitVec 4) (s : State) (u : SuiteId) (b : Fin 2), s.cur.bank = .bank u b →
    let stopped := (issued s w).modStream s.cur fun x => { x with running := false }
    (ready s (.endA w) w → exec (.endA w) s = .next stopped) ∧
    (ready s (.xend w) w → exec (.xend w) s = .next stopped)) ∧
  (∀ (w : BitVec 4) (s : State) (c : CtxId) (i : Instr), s.cur.bank = .ctx c → i = .endA w ∨ i = .xend w → ready s i w →
    let t := (issued s w).modStream s.cur fun x => { x with running := false }
    exec i s = .next (if (t.ctx c).running ∧ ¬ (t.ctx c).regs.sa.running ∧ ¬ (t.ctx c).regs.sx.running then stopContext t c none else t))) ∧
  (∀ (imm : BitVec 16) (w : BitVec 4) (s : State),
    let ag := s.cur
    let labels := (s.stream ag).labels
    let upd := fun (f : Stream → Stream) => (issued s w).modStream ag f
    (ready s (.yieldA w) w → exec (.yieldA w) s = .next ((issued s w).modBank ag.bank fun b =>
      { b with yieldLeft := if ag.bank.isCtx then 2 else 17 })) ∧
    (ready s (.rpush imm w) w →
      (labels.length < 16 → exec (.rpush imm w) s = .next (rangeRecord (upd fun x => { x with labels := imm :: x.labels }) ag 3 imm)) ∧
      (16 ≤ labels.length → exec (.rpush imm w) s = .next (upd fun x => { x with rlOver := true }))) ∧
    (ready s (.rpop w) w →
      (labels = [] → exec (.rpop w) s = .next (upd fun x => { x with rlUnder := true })) ∧
      (∀ l rest, labels = l :: rest → exec (.rpop w) s = .next (rangeRecord (upd fun x => { x with labels := rest }) ag 4 l))))) ∧
  (∀ (s1 : BitVec 5) (dn w : BitVec 4) (scope : BitVec 2) (s : State),
    let ag := s.cur
    let a := (readA s ag s1).toNat
    let b := s.bank ag.bank
    (ready s (.align w) w → exec (.align w) s = .next ((issued s w).modBank ag.bank fun x =>
      if earlierPending x x.nextSeq then { x with aligns := x.aligns ++ [x.nextSeq] } else x)) ∧
    (ready s (.fence scope w) w →
      (b.sq.any (fun e => e.isDrnt) = true → exec (.fence scope w) s = .next (markHeld s ag ⟨false, false⟩)) ∧
      (b.sq.any (fun e => e.isDrnt) = false → exec (.fence scope w) s = .next (settleFence ((issued s w).modBank ag.bank fun x =>
        { x with fence := some (x.nextSeq, scope != 0 || (match x.fence with | some (_, inval) => inval | none => false)) }) ag.bank))) ∧
    let held := ag.kind = .a ∧ acquirePending b = true
    (free s (.pft s1 dn w) w → held → exec (.pft s1 dn w) s = .next (markHeld s ag ⟨false, false⟩)) ∧
    (ready s (.pft s1 dn w) w → ¬ held → exec (.pft s1 dn w) s = .next ((issued s w).modBank ag.bank fun x => { x with
      prefetch := x.prefetch ++ [(dn, if a % 64 = 0 ∧ a < 2 ^ 23 ∧ inScratch (s.suite ag.suite) a 64 then lsRead s ag.suite a 64 else [])] })) ∧
    (∀ (r : BankRef) (t : State), t = settleFence s r → ∀ q inval, (s.bank r).fence = some (q, inval) →
      (earlierPending (s.bank r) q = true ∨ replayPending (s.bank r) q = true → t = s) ∧
      (earlierPending (s.bank r) q = false → replayPending (s.bank r) q = false → (t.bank r).fence = none ∧ ∀ u c, r = .bank u c → inval = true → (t.suite u).l1 = [])))

/-! ### Loads and stores -/

/-- The queued accesses at issue (R139-R142, R149-R152): an address of a segment (bits 63 to 52 zero) that is a multiple of the access size puts
one entry behind the others of its queue, a load or WAITA in LQ, a store or DRNT in SQ; a store takes a[d] at issue. An address with bits above 51
traps SEGNP and a misaligned one MISALIGN, the address as trap value, and queues nothing. A release store waits while a DRNT of the stream is open.

AAT (R153, R155): the word address of a[s1] below 2^19 puts the atomic behind those that wait in the room; an address with higher bits, or a tile
of 16 or more in a dual Visit, traps PROT; an ordered atomic behind ACCSEQ traps ORDSEQ; a buffer of 64 ordered atomics, or a room whose clock stands
still (R288), holds the next one. -/
def Obligations.AccessesIssue : Prop :=
  (∀ (d s1 s2 : BitVec 5) (size : BitVec 2) (sgn : BitVec 1) (ord sub : BitVec 2) (dn w : BitVec 4) (s : State),
    let ag := s.cur
    let va := readA s ag s1
    let queued := fun (store : Bool) (op : QOp) => (issued s w).modBank ag.bank fun b =>
      let e : QEntry := ⟨b.nextSeq, op, dn, posOf s ag, s.cycle⟩
      if store then { b with sq := b.sq ++ [e], nextSeq := b.nextSeq + 1 } else { b with lq := b.lq ++ [e], nextSeq := b.nextSeq + 1 }
    let access := fun (i : Instr) (align : Nat) (t : State) => free s i w →
      (ready s i w → va.toNat < 2 ^ 52 → va.toNat % align = 0 → exec i s = .next t) ∧
      (2 ^ 52 ≤ va.toNat → trapsAs s i 0x20 va (posOf s ag)) ∧
      (va.toNat < 2 ^ 52 → va.toNat % align ≠ 0 → trapsAs s i 0x23 va (posOf s ag))
    let tmo := (s.stream ag).waittmo.toNat
    access (.ld d s1 size sgn ord dn sub w) (2 ^ size.toNat) (queued false (.ld d va size (sgn == 1) (if ord = 1 then some sub else none))) ∧
    ((s.bank ag.bank).sq.all (fun e => !e.isDrnt) ∨ ord ≠ 2 →
      access (.st d s1 size ord dn sub w) (2 ^ size.toNat)
        (queued true (.st va size (readA s ag d) (if ord = 2 then some sub else none) (ord == 3)))) ∧
    ((s.bank ag.bank).sq.any (fun e => e.isDrnt) → ord = 2 → free s (.st d s1 size ord dn sub w) w →
      exec (.st d s1 size ord dn sub w) s = .next (markHeld s ag ⟨false, false⟩)) ∧
    access (.waita d s1 s2 dn sub w) 8 (queued false
      (.waita d va (readA s ag s2) sub none (if tmo = 0 then none else some (s.fabric.toNat + tmo)) s.cycle)) ∧
    (ready s (.drnt dn sub w) w → exec (.drnt dn sub w) s = .next (queued true (.drnt sub)))) ∧
  (∀ (d s1 s2 s3 : BitVec 5) (dn : BitVec 4) (aop : BitVec 3) (ty ord : BitVec 1) (w : BitVec 4) (s : State) (u : SuiteId) (b : Fin 2) (k : StreamKind),
    let i : Instr := .aat d s1 s2 dn s3 aop ty ord w
    let ag := s.cur
    let x := readA s ag s1
    let q : W32 := (readA s ag s3).setWidth 32
    let tile := (x.extractLsb' 14 5).toNat
    let atom : Atomic := ⟨tenantOf s ag.bank, k, b, d, dn, physAcc s ag.bank tile, ⟨(x.extractLsb' 7 7).toNat, (x.extractLsb' 7 7).isLt⟩,
      ⟨(x.extractLsb' 0 7).toNat, (x.extractLsb' 0 7).isLt⟩, (readA s ag s2).setWidth 32, q, aop, ty == 1, ord == 1, false, s.cycle⟩
    let full := 64 ≤ ((s.room u).atomics.filter (·.ordered)).length ∨ (s.room u).stopped = true
    let bad := 2 ^ 19 ≤ x.toNat ∨ (dualOf s ag.bank = true ∧ 16 ≤ tile)
    ag = ⟨.bank u b, k⟩ → free s i w →
      (ord = 1 → full → exec i s = .next (markHeld s ag ⟨false, false⟩)) ∧
      (ord = 0 ∨ ¬ full →
        (bad → trapsAs s i 0x22 0 (posOf s ag)) ∧
        (¬ bad → ord = 1 → 2 ^ 31 ≤ (q - (s.room u).accseq).toNat → trapsAs s i 0x62 0 (posOf s ag)) ∧
        (ready s i w → ¬ bad → ord = 0 ∨ (q - (s.room u).accseq).toNat < 2 ^ 31 →
          exec i s = .next ((issued s w { words := 2 }).modRoom u fun r => { r with atomics := r.atomics ++ [atom] }))))

/-- A load performs (R57, R139, R140, R142, R143): with its line translated, it takes its bytes from memory under the entry's key slot where it goes
past L1 (a Steward context, an acquire of scope die and wider, a Suite without L1) or L1 lacks the line, and from L1's copy otherwise. A request that
goes to memory waits until the port that is the line's home has granted it (R325). It leaves its queue, its value, zero- or sign-extended, is written at the end of the cycle, its done semaphore is incremented, and no byte of memory changes.

A loaded value of 1, 2, 4 or 8 bytes is zero-extended, or sign-extended where sign is s (R140).

A store performs (R139, R141, R142) once its line's home port has granted it (R325): the low 2^size bytes of its data stand in memory at the translated address, and every other byte of memory
reads under that key slot what it read after the translation. It leaves its queue, its done semaphore is incremented, and registers, Local Stores and
rooms are as they were. -/
def Obligations.AccessesPerform : Prop :=
  ((∀ (r : BankRef) (e : QEntry) (rest : List QEntry) (d : BitVec 5) (va : Word) (size : BitVec 2) (sgn : Bool) (acq : Option (BitVec 2)) (ds : Desc)
    (s s1 s2 : State) (pa slot : Nat),
    let n := 2 ^ size.toNat
    let seg := natBits va.toNat 36 16
    let off := va.toNat % 2 ^ 36
    let tn := tenantOf s r
    let bypass := match acq with | some sc => sc != 0 | none => false
    let hit := l1Hit s2 r tn seg (off / 64) (pa / 64) bypass
    let data := match hit.1 with
      | some l => bytesAt l (off % 64) n
      | none => match r with
        | .ctx _ => physBytes s2 slot pa n
        | .bank u _ =>
          if bypass = true ∨ (s2.suite u).l1mib = 0 ∨ (l1Find (s2.suite u) tn seg (off / 64)).isSome then physBytes s2 slot pa n
          else bytesAt (physBytes s2 slot (pa - pa % 64) 64) (off % 64) n
    (s.bank r).lq = e :: rest → mayPerform (s.bank r) e = true → e.op = .ld d va size sgn acq →
    getDesc s tn seg = (some ds, s1) → translate s1 tn seg ds off false = (.ok (pa, slot), s2) → dbgOn s2 tn = false →
    (∀ l, hit.1 = some l → bypass = false ∧ ∃ u b, r = .bank u b ∧ (s2.suite u).l1mib ≠ 0 ∧ l1Find (s2.suite u) tn seg (off / 64) = some l) ∧
    (hit.1 = none → l2Granted s2 r (pa / 64) = false → exec (.queueEntryPerform r false) s = .next (l2Ask hit.2 r tn (pa / 64))) ∧
    (hit.1 ≠ none ∨ l2Granted s2 r (pa / 64) = true → answers (.queueEntryPerform r false) s fun t =>
      (t.bank r).lq = (s.bank r).lq.filter (fun f => f.seq != e.seq) ∧
      (t.bank r).fly = (s.bank r).fly ++ [⟨.a, 0, [.a d (loadValue size sgn data)], 0, e.born, true⟩] ∧
      doneIn s t r .a e.dn ∧ t.pkg.mem = s2.pkg.mem ∧ (∀ u, (t.suite u).ls = (s.suite u).ls) ∧
      (t.bank r).a = (s.bank r).a ∧ t.rooms = s.rooms)) ∧
  (∀ (size : BitVec 2) (bs : List Byte), bs.length = 2 ^ size.toNat →
    (∀ i, i < 64 → (loadValue size false bs).getLsbD i = if i < 8 * bs.length then (bs.getD (i / 8) 0).getLsbD (i % 8) else false) ∧
    (∀ i, i < 64 → (loadValue size true bs).getLsbD i =
      if i < 8 * bs.length then (bs.getD (i / 8) 0).getLsbD (i % 8) else (bs.getD (bs.length - 1) 0).getLsbD 7))) ∧
  (∀ (r : BankRef) (e : QEntry) (va : Word) (size : BitVec 2) (data : Word) (rel : Option (BitVec 2)) (nt : Bool) (ds : Desc)
    (s s0 s1 s2 : State) (pa slot : Nat),
    let n := 2 ^ size.toNat
    let seg := natBits va.toNat 36 16
    let tn := tenantOf s0 r
    leftoverTurn s r = s → chooseEntry s r true = (some e, s0) → e.op = .st va size data rel nt →
    getDesc s0 tn seg = (some ds, s1) → translate s1 tn seg ds (va.toNat % 2 ^ 36) true = (.ok (pa, slot), s2) →
    dbgOn s2 tn = false → s2.pkg.mem.wf = true →
    (l2Granted s2 r (pa / 64) = false → exec (.queueEntryPerform r true) s = .next (l2Ask s2 r tn (pa / 64))) ∧
    (l2Granted s2 r (pa / 64) = true → answers (.queueEntryPerform r true) s fun t =>
      (∀ b, b < hbmLimit ∨ b / 64 ≠ pa / 64 → physByte t slot b = if pa ≤ b ∧ b < pa + n then (data >>> (8 * (b - pa))).setWidth 8 else physByte s2 slot b) ∧
      t.pkg.mem.wf = true ∧ (t.bank r).sq = (s.bank r).sq.filter (fun f => f.seq != e.seq) ∧ doneIn s t r .a e.dn ∧
      (t.bank r).a = (s.bank r).a ∧ (t.bank r).e = (s.bank r).e ∧ (∀ u, (t.suite u).ls = (s.suite u).ls) ∧ t.rooms = s.rooms))

/-- An access of a Suite that faults at translation (R360, R395): the entry and all that R259 orders after it leave the queues for the replay list, in
program order, and one queue-class trap is recorded with the cause, the address and the A-stream's position; later faults of the bank only join the
replay list. Once both queues are empty the bank ceases to be runnable. -/
def Obligations.PageFaultEntry : Prop :=
  (∀ (s : State) (u : SuiteId) (b : Fin 2) (e : QEntry) (cause : BitVec 8) (tval : Nat),
    let r : BankRef := .bank u b
    let x := s.bank r
    let t := pageFault s r e cause tval
    let moved := faultClosure x e
    let stays := fun (l : List QEntry) => l.filter fun f => !moved.any fun m => m.seq == f.seq
    let left := (t.bank r).lq = stays x.lq ∧ (t.bank r).sq = stays x.sq ∧
      (t.bank r).replay = sortSeq (x.replay ++ moved.map restartEntry) ∧ (t.bank r).a = x.a ∧ t.pkg.mem = s.pkg.mem
    (x.traps = [] → left ∧ (t.bank r).pageWait = true ∧
      (t.bank r).traps = [⟨cause, 1, 0, BitVec.ofNat 1 b.val, BitVec.ofNat 28 x.sa.pos, BitVec.ofNat 64 tval⟩]) ∧
    (x.traps.any (fun f => f.cls == 1) = true → left ∧ (t.bank r).traps = x.traps) ∧
    (x.traps.any (fun f => f.cls == 1) = false → heldBefore s r = true → t = s)) ∧
  (∀ (r : BankRef) (s : State), (s.bank r).pageWait = true → (s.bank r).lq = [] → (s.bank r).sq = [] →
    exec (.pageFaultBankSwitch r) s = .next (s.modBank r fun y => { y with pageWait := false, switched := true }))

/-- LDL and STL (R144): from a scratchpad address that is a multiple of the access size, LDL writes the bytes read, extended, to a[d] with class C3,
and STL writes the low bytes of a[d]. An address that leaves the scratchpad traps PROT, and a misaligned one MISALIGN; STL into a bank group that a
nest feeds traps BANKCF (R204); an acquire of the A-stream that has not performed holds those of the A-stream (R143).

The frame of LDL and STL (R144): LDL changes no register but a[d], and STL no register; neither changes memory, a room or another bank; LDL
changes no byte of a Local Store, and STL only the bytes that it stores. -/
def Obligations.LocalStoreAccess : Prop :=
  (∀ (d s1 : BitVec 5) (size : BitVec 2) (sgn : BitVec 1) (w : BitVec 4) (s : State) (i : Instr),
    let ag := s.cur
    let u := ag.suite
    let a := readA s ag s1
    let n := 2 ^ size.toNat
    let inside := a.toNat < 2 ^ 23 ∧ a.toNat + n ≤ 0x800000 - (s.suite u).l1mib.toNat * 0x100000
    let ldl : Instr := .ldl d s1 size sgn w
    let stl : Instr := .stl d s1 size w
    let traps := fun (c : BitVec 8) => trapsAs s i c 0 (posOf s ag)
    let held := ag.kind = .a ∧ acquirePending (s.bank ag.bank) = true
    i = ldl ∨ i = stl → free s i w →
      (held → exec i s = .next (markHeld s ag ⟨false, false⟩)) ∧
      (¬ held →
        (touchesFed s u a.toNat n = false →
          (a.toNat % n = 0 → ¬ inside → traps 0x22) ∧ (a.toNat < 2 ^ 23 → a.toNat % n ≠ 0 → traps 0x23)) ∧
        (inside → a.toNat % n = 0 →
          (ready s i w → i = ldl → touchesFed s u a.toNat n = false →
            exec i s = .next (emit (issued s w) ag 3 [.a d (loadValue size (sgn == 1) (lsRead s u a.toNat n))])) ∧
          (ready s i w → i = stl → touchesFed s u a.toNat n = false →
            exec i s = .next (lsWrite (issued s w) u a.toNat (leBytes n (readA s ag d).toNat))) ∧
          (i = stl → touchesFed s u a.toNat n = true → traps 0x40)))) ∧
  (∀ (d s1 : BitVec 5) (size : BitVec 2) (sgn : BitVec 1) (w : BitVec 4) (s : State),
    let ag := s.cur
    let u := ag.suite
    let a := (readA s ag s1).toNat
    let n := 2 ^ size.toNat
    let good := a % n = 0 ∧ a + n ≤ 0x800000 - (s.suite u).l1mib.toNat * 0x100000 ∧ a < 2 ^ 23 ∧
      (ag.kind = .a → acquirePending (s.bank ag.bank) = false) ∧ touchesFed s u a n = false
    quiet s = true → (∀ v, (s.suite v).ls.wf = true) → good →
      (ready s (.ldl d s1 size sgn w) w → answers (.ldl d s1 size sgn w) s fun t =>
        (∀ m, m ≠ d → readA t ag m = readA s ag m) ∧ (t.bank ag.bank).e = (s.bank ag.bank).e ∧ t.pkg = s.pkg ∧ t.rooms = s.rooms ∧
        (∀ r, r ≠ ag.bank → t.bank r = s.bank r) ∧ ∀ v b, lsRead t v b 1 = lsRead s v b 1) ∧
      (ready s (.stl d s1 size w) w → answers (.stl d s1 size w) s fun t =>
        (∀ m, readA t ag m = readA s ag m) ∧ (t.bank ag.bank).e = (s.bank ag.bank).e ∧ t.pkg.mem = s.pkg.mem ∧ t.rooms = s.rooms ∧
        (∀ r, r ≠ ag.bank → t.bank r = s.bank r) ∧
        ∀ v b, lsRead t v b 1 =
          if v = u ∧ a ≤ b ∧ b < a + n then [(readA s ag d >>> (8 * (b - a))).setWidth 8] else lsRead s v b 1))

/-- LDT and STT (R47, R145-R147). From a Local Store address that is a multiple of 256, LDT waits while the tile is full or being produced and then
carries 32 KiB into it, and STT waits until it is full and not being consumed and writes it out at issue; from a segment, one LQ or SQ entry stands
for the box. An acquire of the A-stream that has not performed holds those of the A-stream first (R143). A fill marks the tile as being produced and a drain as being consumed; the full bit changes when the access completes. -/
def Obligations.TileFillsAndDrains : Prop :=
  ∀ (t : BitVec 6) (s1 : BitVec 5) (dn w : BitVec 4) (s : State),
    let ag := s.cur
    let u := ag.suite
    let a := readA s ag s1
    let p := physTile s ag.bank t
    let f := tileFlag s u p
    let wait := tileWait s u p
    let free := !f.full && !f.producing
    let ready1 := f.full && !f.consuming
    let lsOk := a.toNat % 256 = 0 ∧ a.toNat + 32768 ≤ 0x800000 - (s.suite u).l1mib.toNat * 0x100000 ∧ a.toNat < 2 ^ 23 ∧
      touchesFed s u a.toNat 32768 = false
    let held := ag.kind = .a ∧ acquirePending (s.bank ag.bank) = true
    let produces := fun (x : State) => modTileFlag x u p fun g => { g with producing := true }
    let consumes := fun (x : State) => modTileFlag x u p fun g => { g with consuming := true }
    let box := parseBox (lsRead s u a.toNat 64)
    let it := issued s w { wait := wait }
    let entry := fun (b : Bank) (op : QOp) => (⟨b.nextSeq, op, dn, posOf s ag, s.cycle⟩ : QEntry)
    (∀ i src, i = .ldt t s1 src dn w ∨ i = .stt t s1 src dn w → Machine.free s i w → held → exec i s = .next (markHeld s ag ⟨false, false⟩)) ∧
    (ready s (.ldt t s1 1 dn w) w → ¬ held → lsOk →
      (free = true → exec (.ldt t s1 1 dn w) s = .next (landFree (produces it) ag.bank ag.kind
        (.tile p (tileOfBytes (lsRead s u a.toNat 32768)) true :: semResult dn))) ∧
      (free = false → exec (.ldt t s1 1 dn w) s = .next (markHeld s ag ⟨true, true⟩))) ∧
    (ready s (.stt t s1 1 dn w) w → ¬ held → lsOk →
      (ready1 = true → exec (.stt t s1 1 dn w) s = .next (landFree
        (consumes (lsWrite it u a.toNat (bytesOfTile (readTile s u p)))) ag.bank ag.kind (.consume p :: semResult dn))) ∧
      (ready1 = false → exec (.stt t s1 1 dn w) s = .next (markHeld s ag ⟨true, true⟩))) ∧
    (ready s (.ldt t s1 0 dn w) w → ¬ held → boxTrap s ag a = none →
      (free = true → exec (.ldt t s1 0 dn w) s = .next ((produces it).modBank ag.bank fun b =>
        { b with lq := b.lq ++ [entry b (.ldt p box Tile.zero (List.range (box.rows * box.cols)))], nextSeq := b.nextSeq + 1 })) ∧
      (free = false → exec (.ldt t s1 0 dn w) s = .next (markHeld s ag ⟨true, true⟩))) ∧
    (ready s (.stt t s1 0 dn w) w → ¬ held → boxTrap s ag a = none →
      (ready1 = true → exec (.stt t s1 0 dn w) s = .next ((consumes it).modBank ag.bank fun b =>
        { b with sq := b.sq ++ [entry b (.stt p box (readTile s u p) (List.range (box.rows * box.cols)))], nextSeq := b.nextSeq + 1 })) ∧
      (ready1 = false → exec (.stt t s1 0 dn w) s = .next (markHeld s ag ⟨true, true⟩)))

/-- The completions of prefetches and DRNTs (R148, R151): a prefetch whose box was not fetched ends and counts its done semaphore all the same; a DRNT
completes when it heads the ordered part of SQ, no ALIGN ahead of it holds it (R149) and every earlier non-temporal store has performed, leaving its queue and counting its done
semaphore; until then it stays.

WAITA (R152), order log and trace apart: a read waits until its line's home port has granted it (R325); one that finds the word changed ends the wait with status 0 and frees its monitor; an expiry
without a trigger ends it with status 1 and makes no read; a first read that finds the die's table of 512 full ends with status 2. -/
def Obligations.QueueEntriesComplete : Prop :=
  ((∀ (r : BankRef) (k : Nat) (dn : BitVec 4) (s : State), (s.bank r).prefetch[k]? = some (dn, []) →
    answers (.prefetchCompletion r k) s fun t =>
      (t.bank r).prefetch = (s.bank r).prefetch.eraseIdx k ∧ doneIn s t r .a dn ∧ (t.bank r).a = (s.bank r).a ∧ t.pkg = s.pkg) ∧
  (∀ (r : BankRef) (k : Nat) (s : State), (s.bank r).prefetch[k]? = none → exec (.prefetchCompletion r k) s = .next s) ∧
  (∀ (r : BankRef) (e : QEntry) (sc : BitVec 2) (s : State), ((s.bank r).sq.find? fun f => !f.isNt) = some e → e.op = .drnt sc →
    let waits := alignHolds (s.bank r) e || (s.bank r).lq.any (fun f => f.isAcquire && decide (f.seq < e.seq)) ||
      ((s.bank r).sq ++ (s.bank r).replay).any fun f => f.isNt && decide (f.seq < e.seq)
    (waits = true → exec (.drntCompletion r) s = .next s) ∧
    (waits = false → answers (.drntCompletion r) s fun t =>
      (t.bank r).sq = (s.bank r).sq.filter (fun f => f.seq != e.seq) ∧ doneIn s t r .a e.dn ∧ (t.bank r).a = (s.bank r).a ∧ t.pkg = s.pkg))) ∧
  (∀ (r : BankRef) (e : QEntry) (d : BitVec 5) (va cmp : Word) (scope : BitVec 2) (watched expire : Option Nat) (start : Nat) (s : State),
    let tn := tenantOf s r
    let ends := fun (status : Nat) (t : State) =>
      (t.bank r).fly = (s.bank r).fly ++ [⟨.a, 0, [.a d (BitVec.ofNat 64 status)], 0, e.born, true⟩] ∧ doneIn s t r .a e.dn ∧
      (t.pkg.monitors.all fun m => m.2.1 != r) = true
    (s.tenant tn).trace.ctl.getLsbD 0 = false → ologMode s tn = 0 →
      (∀ pa slot s1, translateVa s tn va.toNat false = (.ok (pa, slot), s1) → l2Granted s1 r (pa / 64) = false →
        waitaRead s r e d va cmp scope watched expire start false = l2Ask s1 r tn (pa / 64)) ∧
      (∀ pa slot s1, translateVa s tn va.toNat false = (.ok (pa, slot), s1) → l2Granted s1 r (pa / 64) = true →
        (leNat (physBytes s1 slot pa 8) ≠ cmp.toNat → ends 0 (waitaRead s r e d va cmp scope watched expire start false)) ∧
        (leNat (physBytes s1 slot pa 8) = cmp.toNat → watched = none → 512 ≤ monitorsHeld s1 r →
          ends 2 (waitaRead s r e d va cmp scope none expire start false))) ∧
      (∀ l x rest, (s.bank r).lq = e :: rest → e.op = .waita d va cmp scope (some l) (some x) start → x ≤ s.fabric.toNat →
        (s.pkg.monitors.any fun m => m.2.1 == r && m.2.2) = false → answers (.waittmoExpiry r) s (ends 1)) ∧
      (∀ l rest, (s.bank r).lq = e :: rest → e.op = .waita d va cmp scope (some l) expire start →
        (s.pkg.monitors.any fun m => m.2.1 == r && m.2.2) = true →
        exec (.monitorTrigger r) s = .next (waitaRead s r e d va cmp scope (some l) expire start (waitExpired s expire))))

/-! ### Atomics on the accumulator store -/

/-- An atomic applies (R154-R156), order log off and no word in error: the one waiting atomic of a room, an ordered one once ACCSEQ has reached its
number, replaces its word by what R154 gives, returns the old word and counts its done semaphore; an ordered one moves ACCSEQ on by one; every
other word of every accumulator store is as it was. A write to ACCSEQ waits at issue for ordered atomics, and for a room whose clock stands still
(R288); its landing sets it.

The word that an atomic leaves (R154): FP32 sums rounded to nearest even, INT32 sums that wrap, the lesser or greater value with any NaN giving
0x7fc00000, the new value for swap, and for cas the new value exactly where the old one equals the comparand; a[d] gets the old word, zero-extended
for f32 and sign-extended for i32. -/
def Obligations.AtomicsApply : Prop :=
  ((∀ (s : State) (u : SuiteId) (a : Atomic),
    let i : Instr := if a.ordered then .orderedAtomicApply u else .accumulatorAtomicApply u
    let r : BankRef := .bank u a.bank
    let old := accGet s u a.k a.row a.col
    (s.room u).atomics = [a] → (a.ordered = true → a.cmp = (s.room u).accseq) → a.discard = false → (s.room u).stopped = false →
    portBusy s u a.k = false → ologMode s a.tenant = 0 → s.pkg.flips = [] →
    answers i s fun t =>
      (∀ v k row col, accGet t v k row col =
        if v = u ∧ k = a.k ∧ row = a.row ∧ col = a.col then atomicNew a.aop a.i32 old a.v a.cmp else accGet s v k row col) ∧
      (t.room u).atomics = [] ∧ (t.room u).accseq = (if a.ordered then (s.room u).accseq + 1 else (s.room u).accseq) ∧
      (∃ before, (t.bank r).fly = before ++ [⟨a.kind, 0, [.a a.d (atomicOld a.i32 old)], 0, a.born, true⟩]) ∧
      doneIn s t r a.kind a.dn ∧ (t.bank r).a = (s.bank r).a ∧ t.pkg = s.pkg) ∧
  (∀ (s : State) (u : SuiteId) (b : Fin 2) (k : StreamKind) (v : Word),
    csrWaits s ⟨.bank u b, k⟩ 0x102 v = ((s.room u).atomics.any (·.ordered) || (s.room u).stopped) ∧
    exec (.accseqWrite u v) s = .next (s.modRoom u fun r => { r with accseq := v.setWidth 32 }))) ∧
  (∀ (old v c : W32),
    atomicNew 0 true old v c = old + v ∧
    atomicNew 0 false old v c = rne32 (addV false (dec32 old) (dec32 v)).1 ∧
    (atomicNew 1 true old v c).toInt = min old.toInt v.toInt ∧ (atomicNew 2 true old v c).toInt = max old.toInt v.toInt ∧
    ((dec32 old).isNaN = true ∨ (dec32 v).isNaN = true → atomicNew 1 false old v c = 0x7fc00000 ∧ atomicNew 2 false old v c = 0x7fc00000) ∧
    ((dec32 old).isNaN = false → (dec32 v).isNaN = false →
      atomicNew 1 false old v c = (if beforeV (dec32 v) (dec32 old) then v else old) ∧
      atomicNew 2 false old v c = (if beforeV (dec32 old) (dec32 v) then v else old)) ∧
    (∀ i32, atomicNew 3 i32 old v c = v ∧ (old = c → atomicNew 4 i32 old v c = v) ∧ (old ≠ c → atomicNew 4 i32 old v c = old)) ∧
    atomicOld false old = old.zeroExtend 64 ∧ atomicOld true old = old.signExtend 64)

/-! ### Tokens and CSRs -/

/-- TOKS and TOKW of both maps (R50, R158, R191): TOKS places one token in the queue from its own engine, or traps TOKOVF at eight; TOKW takes one
token from every marked queue in one cycle, and waits, on a flag, until each held one when the cycle began.

The control queue (R137, R189): CQP adds a[s1] to what becomes visible in later cycles, and a queue of sixteen entries holds it; CQR and CQB
remove the head and write it to an e register (CQR with class C3, CQB with C0), and CQB branches on it. An empty queue holds both while the A-stream
runs or an entry is on its way, and traps FEDEAD once the A-stream has ended. -/
def Obligations.TokensAndControlQueue : Prop :=
  (∀ (dst : BitVec 2) (pop : BitVec 4) (w : BitVec 4) (s : State),
    let ag := s.cur
    let b := s.bank ag.bank
    let toks := fun (i : Instr) (e : Engine) => free s i w →
      let q := tokIndex e (Engine.ofCode dst)
      let n := b.tok.get q + b.tokNew.get q
      (ready s i w → n < 8 → exec i s = .next ((issued s w).modBank ag.bank fun x => { x with tokNew := x.tokNew.set q.val (x.tokNew.get q + 1) q.isLt })) ∧
      (8 ≤ n → trapsAs s i 0x61 0 (posOf s ag))
    let tokw := fun (i : Instr) (e : Engine) => free s i w →
      let all := (popSources pop).all fun src => decide (0 < b.tok.get (tokIndex src e))
      (ready s i w → all = true → ∃ p, exec i s = .next ((issued s w { wait := p }).modBank ag.bank fun x => (popSources pop).foldl (fun x src =>
        { x with tok := x.tok.set (tokIndex src e).val (x.tok.get (tokIndex src e) - 1) (tokIndex src e).isLt }) x)) ∧
      (all = false → ∃ q, exec i s = .next ((markHeld s ag ⟨true, true⟩).modStream ag fun x => { x with waitOn := q }))
    toks (.toksA dst w) .a ∧ tokw (.tokwA pop w) .a ∧ tokw (.tokwX pop w) .x ∧
    ((b.fly.any fun f => f.kind == .x && f.res.any fun r => match r with | .acc .. => true | .accRead .. => true | _ => false) = false →
      toks (.toksX dst w) .x)) ∧
  (∀ (s1 : BitVec 5) (d e1 e2 : BitVec 4) (cond : BitVec 3) (target : BitVec 28) (w : BitVec 4) (s : State),
    let ag := s.cur
    let b := s.bank ag.bank
    let p := target.toNat
    let cqb : Instr := .cqb cond e1 e2 target w
    (free s (.cqp s1 w) w →
      (ready s (.cqp s1 w) w → b.cq.length + b.cqNew.length < 16 →
        exec (.cqp s1 w) s = .next ((issued s w).modBank ag.bank fun x => { x with cqNew := x.cqNew ++ [readA s ag s1] })) ∧
      (16 ≤ b.cq.length + b.cqNew.length → exec (.cqp s1 w) s = .next (markHeld s ag ⟨true, false⟩))) ∧
    (∀ v rest, b.cq = v :: rest →
      let taken := fun (pl : Plan) => (issued s w pl).modBank ag.bank fun x => { x with cq := x.cq.drop 1 }
      (ready s (.cqr d w) w → exec (.cqr d w) s = .next (emit (taken {}) ag 3 [.e d v])) ∧
      (free s cqb w →
        (ready s cqb w → condHolds cond v (readE s ag e2) = false → exec cqb s = .next (emit (taken { words := 2 }) ag 0 [.e e1 v])) ∧
        (condHolds cond v (readE s ag e2) = true → targetBad s ag p = false →
          exec cqb s = .next (emit (taken { jump := some p, words := 2 }) ag 0 [.e e1 v])) ∧
        (condHolds cond v (readE s ag e2) = true → targetBad s ag p = true →
          trapsAs s cqb 0x05 (BitVec.ofNat 64 (p / 16)) (posOf s ag)))) ∧
    (b.cq = [] → ∀ i, i = .cqr d w ∨ i = cqb → free s i w →
      (b.sa.running = true ∨ b.cqNew ≠ [] → exec i s = .next (markHeld s ag ⟨true, false⟩)) ∧
      (b.sa.running = false → b.cqNew = [] → trapsAs s i 0x60 0 (posOf s ag))))

/-- CSR reads and writes at issue (R159, R188, R371): CRD and ERD read in their issue cycle; a write whose number and value pass their checks and whose
register does not make it wait is on its way to its landing, with class C11 or, for EWR, C5; a failed check traps with trap value 0 on a read, and
a register that waits holds the stream.

The privilege of CSR numbers (R52, R53, R372): from a Suite stream every number in 0x400-0x5ff traps PRIV, read or written, and so does a write
to 0x600-0x6ff; no number in 0x700-0xeff is assigned, so it traps ILLFLD from every context; writes to assigned numbers of 0xf00-0xfff are ignored without a trap; a supervisor's or helper's write to a register that only the hypervisor writes traps PRIV.

A written register of a Suite stream reads back its writable bits (R54, R152, R352), and no other register of the list, no address register and no
byte of memory changes: FRM, XFLG, SEMSAT and WAITTMO of the writing stream, and the debug registers of its Suite. -/
def Obligations.ControlRegisters : Prop :=
  (∀ (d s1 : BitVec 5) (e : BitVec 4) (csr : BitVec 11) (n12 : BitVec 12) (w : BitVec 4) (s : State),
    let ag := s.cur
    let far := (readA s ag s1).toNat + csr.toNat
    let reads := fun (i : Instr) (num cls : Nat) (res : Word → Result) => free s i w →
      (0x1000 ≤ num → trapsAs s i 0x02 0 (posOf s ag)) ∧
      (num < 0x1000 → ∀ c, csrRead s ag num = .error c → trapsAs s i c 0 (posOf s ag)) ∧
      (ready s i w → num < 0x1000 → ∀ v, csrRead s ag num = .ok v → exec i s = .next (emit (issued s w) ag cls [res v]))
    let writes := fun (i : Instr) (num cls : Nat) (op : CsrOp) => free s i w →
      let v := csrNew (csrValue s ag num) op
      (ready s i w → csrWriteTrapFull s ag num v = none → csrWaits s ag num v = false →
        exec i s = .next (emit (csrTake (issued s w) ag num v) ag cls [.csr (BitVec.ofNat 12 num) op])) ∧
      (∀ c x, csrWriteTrapFull s ag num v = some (c, x) → trapsAs s i c x (posOf s ag)) ∧
      (csrWriteTrapFull s ag num v = none → csrWaits s ag num v = true →
        exec i s = .next (csrAsk (markHeld s ag ⟨false, false⟩) ag num v))
    reads (.crd d s1 csr w) far 11 (.a d) ∧ reads (.erd e n12 w) n12.toNat 5 (.e e) ∧
    writes (.cwr d s1 csr w) far 11 (.write (readA s ag d)) ∧
    writes (.cmw d s1 csr w) csr.toNat 11 (.masked (readA s ag d) (readA s ag s1)) ∧
    writes (.cxc d s1 csr w) csr.toNat 11 (.exchange (readA s ag s1) d) ∧
    writes (.ewr e n12 w) n12.toNat 5 (.write (readE s ag e))) ∧
  (((∀ (s : State) (u : SuiteId) (b : Fin 2) (k : StreamKind) (num : Nat) (v : Word), 0x400 ≤ num → num < 0x700 →
    (num < 0x600 → csrRead s ⟨.bank u b, k⟩ num = .error 0x04) ∧ csrWriteTrap s ⟨.bank u b, k⟩ num v = some 0x04) ∧
  (∀ (s : State) (ag : Agent) (num : Nat) (v : Word), 0x700 ≤ num → num < 0xf00 →
    csrRead s ag num = .error 0x02 ∧ csrWriteTrap s ag num v = some 0x02) ∧
  (∀ (s : State) (ag : Agent) (num : Nat) (v w : Word), 0xf00 ≤ num → csrRead s ag num = .ok w →
    csrWriteTrap s ag num v = none ∧ exec (.csrWrite ag (BitVec.ofNat 12 num) v) s = .next s) ∧
  (∀ (s : State) (c : CtxId) (k : StreamKind) (num : Nat) (v : Word), c ≠ hypervisor → hvWriteOnly num = true →
    csrWriteTrap s ⟨.ctx c, k⟩ num v = some 0x04)) ∧
  (∀ (s : State) (u : SuiteId) (b : Fin 2) (k : StreamKind) (num : BitVec 12) (v mask : Word),
    let ag : Agent := ⟨.bank u b, k⟩
    let list : List (BitVec 12 × Word) := [(0x008, 3), (0x009, 0x1f1f), (0x00a, 0xff), (0x030, 0xffffffffffff),
      (0x330, 0xffffffff0001ff1f), (0x331, 0xffffffffffffffff), (0x332, 0x3f03)]
    (num, mask) ∈ list → answers (.csrWrite ag num v) s fun t =>
      csrRead t ag num.toNat = .ok (v &&& mask) ∧
      (∀ n m, (n, m) ∈ list → n ≠ num → csrRead t ag n.toNat = csrRead s ag n.toNat) ∧
      (∀ n, readA t ag n = readA s ag n) ∧ t.pkg = s.pkg ∧ t.rooms = s.rooms ∧ t.tenants = s.tenants ∧
      (∀ r, r ≠ ag.bank → t.bank r = s.bank r) ∧ ∀ x, (t.suite x).ls = (s.suite x).ls))

/-! ### The system group -/

/-- TRAP traps SWTRAP with its immediate as trap value and the position behind it as return position (R160). ERET of a Steward stream returns from
its newest trap (R161), and traps ILLOP without one. AMEM traps ATOMEMU with its address, once every earlier access has performed (R157).

The return from a Steward trap (R161, R356): a29, a30, a31 and the position come from the newest frame as it reads now, the depth goes down by one,
and every other register keeps its value; a frame that cannot be read stops the context, with a record that has the ERET's own position. -/
def Obligations.SystemTraps : Prop :=
  ((∀ (imm : BitVec 16) (w : BitVec 4) (s : State), free s (.trap imm w) w →
    trapsAs s (.trap imm w) 0x06 (imm.zeroExtend 64) (sequential s s.cur 1)) ∧
  (∀ (w : BitVec 4) (s : State) (c : CtxId), s.cur.bank = .ctx c → free s (.eret w) w →
    let st := s.stream s.cur
    (st.tfdepth = 0 → trapsAs s (.eret w) 0x01 0 (posOf s s.cur)) ∧
    (st.tfdepth ≠ 0 → ready s (.eret w) w → (∀ s1, loadVa s (ctxTenant s c) (st.tfbase.toNat + 64 * (st.tfdepth.toNat - 1)) 64 ≠ (.wait, s1)) →
      exec (.eret w) s = .next (stewardReturn (issued s w) c s.cur.kind (posOf s s.cur)))) ∧
  (∀ (d s1 s2 : BitVec 5) (dn : BitVec 4) (sub : BitVec 2) (w : BitVec 4) (s : State),
    let i : Instr := .amem d s1 s2 dn sub w
    let b := s.bank s.cur.bank
    free s i w →
      (earlierPending b b.nextSeq = false → trapsAs s i 0x28 (readA s s.cur s1) (posOf s s.cur)) ∧
      (earlierPending b b.nextSeq = true → exec i s = .next (markHeld s s.cur ⟨false, false⟩)))) ∧
  (∀ (s s1 : State) (c : CtxId) (k : StreamKind) (ret : Nat),
    let ag : Agent := ⟨.ctx c, k⟩
    let st := s.stream ag
    let base := st.tfbase.toNat + 64 * (st.tfdepth.toNat - 1)
    let t := stewardReturn s c k ret
    (∀ f, loadVa s (ctxTenant s c) base 64 = (.ok f, s1) →
      (t.stream ag).pos = fieldAt f 0 8 / 2 ^ 16 % 2 ^ 28 ∧ (t.stream ag).tfdepth = st.tfdepth - 1 ∧
      (∀ n : Fin 32, (t.bank (.ctx c)).a.get n =
        if n = 29 then BitVec.ofNat 64 (fieldAt f 24 8) else if n = 30 then BitVec.ofNat 64 (fieldAt f 32 8)
        else if n = 31 then BitVec.ofNat 64 (fieldAt f 40 8) else (s.bank (.ctx c)).a.get n) ∧
      (t.bank (.ctx c)).e = (s.bank (.ctx c)).e) ∧
    (∀ cause, loadVa s (ctxTenant s c) base 64 = (.fault cause, s1) → (t.ctx c).running = false ∧
      t = stopContext s1 c (some ⟨cause, 0, k.code, 0, BitVec.ofNat 28 ret, BitVec.ofNat 64 base⟩)))

/-- TINV (R164, R66, R371): a range of a tenant that the context may name is invalidated; at completion no port and no L1 holds a descriptor, an entry
or a line of the named segments, nothing else of them has gone, and the done semaphore counts. A count of 0 completes at once.

FREL (R165, R371): a frame that the acting tenant owns (any frame, for the hypervisor) goes into release for a receiver whose key slot it names; at
completion every byte of the frame reads zero under that slot, where it is one of the installed frames (which these are is the model's choice, log 51),
and every other byte of memory what it read, no L1 holds a line of it or bytes of it in a line, the receiver owns it, and the done semaphore counts. -/
def Obligations.TranslationsAndFrames : Prop :=
  ((∀ (s1 s2 : BitVec 5) (dn w : BitVec 4) (s : State) (c : CtxId), s.cur.bank = .ctx c → free s (.tinv s1 s2 dn w) w →
    let x := (readA s s.cur s1).toNat
    let n := (readA s s.cur s2).toNat
    let t := x / 2 ^ 16 % 64
    (2 ^ 22 ≤ x → trapsAs s (.tinv s1 s2 dn w) 0x02 0 (posOf s s.cur)) ∧
    (x < 2 ^ 22 → c ≠ hypervisor → t ≠ (ctxTenant s c).val → trapsAs s (.tinv s1 s2 dn w) 0x22 0 (posOf s s.cur)) ∧
    (ready s (.tinv s1 s2 dn w) w → x < 2 ^ 22 → c = hypervisor ∨ t = (ctxTenant s c).val →
      (n = 0 → exec (.tinv s1 s2 dn w) s = .next (doneFor (issued s w) s.cur.bank s.cur.kind dn)) ∧
      (n ≠ 0 → exec (.tinv s1 s2 dn w) s =
        .next ((issued s w).modCtx c fun y => { y with tinv := y.tinv ++ [(x % 65536, t, n, dn)] })))) ∧
  (∀ (s : State) (c : CtxId) (first n : Nat) (tn : TenantId) (dn : BitVec 4) (rest : List (Nat × Nat × Nat × BitVec 4)),
    let named := fun (g : Nat) => decide (first ≤ g) && decide (g < first + n)
    (s.ctx c).tinv = (first, tn.val, n, dn) :: rest → answers (.tinvCompletion c) s fun t =>
      (t.ctx c).tinv = rest ∧ doneIn s t (.ctx c) .a dn ∧ t.pkg.mem = s.pkg.mem ∧
      (∀ e, e ∈ t.pkg.ports ↔ e ∈ s.pkg.ports ∧ match e with
        | .desc t' g _ => ¬ (t' = tn ∧ named g = true)
        | .pte t' g _ _ => ¬ (t' = tn ∧ named g = true)) ∧
      ∀ u l, l ∈ (t.suite u).l1 ↔ l ∈ (s.suite u).l1 ∧ ¬ (l.tenant = tn ∧ named l.seg = true))) ∧
  ((∀ (s1 s2 : BitVec 5) (dn w : BitVec 4) (s : State) (c : CtxId), s.cur.bank = .ctx c → free s (.frel s1 s2 dn w) w →
    let f := (readA s s.cur s1).toNat
    let x := (readA s s.cur s2).toNat
    let r : TenantId := ⟨x % 64, Nat.mod_lt _ (by decide)⟩
    let slot : Fin 128 := ⟨x / 256 % 128, Nat.mod_lt _ (by decide)⟩
    let fields := f < 2 ^ 40 ∧ x < 2 ^ 15 ∧ x / 64 % 4 = 0
    let entitled := (c = hypervisor ∨ frameOwner s f = some (ctxTenant s c)) ∧ (s.pkg.keys.get slot).tenant = some r
    (¬ fields → trapsAs s (.frel s1 s2 dn w) 0x02 0 (posOf s s.cur)) ∧
    (fields → ¬ entitled → trapsAs s (.frel s1 s2 dn w) 0x22 0 (posOf s s.cur)) ∧
    (ready s (.frel s1 s2 dn w) w → fields → entitled → exec (.frel s1 s2 dn w) s =
      .next (((issued s w).modCtx c fun y => { y with frel := y.frel ++ [(f, r, slot.val, dn)] }).modPkg fun p =>
        { p with frames := { p.frames with releasing := (f, r) :: p.frames.releasing } }))) ∧
  (∀ (s : State) (c : CtxId) (f slot : Nat) (r : TenantId) (dn : BitVec 4) (rest : List (Nat × TenantId × Nat × BitVec 4)),
    (s.ctx c).frel = (f, r, slot, dn) :: rest → answers (.frelCompletion c) s fun t =>
      (f < frameCount → ∀ a, a / 65536 = f → physByte t slot a = 0) ∧ (∀ k a, a / 65536 ≠ f → physByte t k a = physByte s k a) ∧
      (∀ u l, l ∈ (t.suite u).l1 ↔ l ∈ (s.suite u).l1 ∧ f ∉ l.frames) ∧
      frameOwner t f = some r ∧ (∀ g, g ≠ f → frameOwner t g = frameOwner s g) ∧ (t.ctx c).frel = rest ∧ doneIn s t (.ctx c) .a dn))

/-! ### Tile arithmetic of the X map -/

/-- VADD, VSUB, VMUL, VFMA, VFMS, VMIN, VMAX, VABS and VNEG (R170, R73, R76): element by element, a float result is the exact result rounded once
by the stream's FRM in the IEEE overflow mode, with the flags of the exact operation and of the rounding; an integer result is taken modulo 2^w. All
land by class C5. -/
def Obligations.TileArithmetic : Prop :=
  ∀ (d s1 s2 : BitVec 6) (ty : BitVec 3) (w : BitVec 4) (s : State),
    let f := Fmt.ofTy ty
    let rm := (s.stream s.cur).frm
    let at1 := fun i j => elemAt (tileOp s s.cur s1) f i j
    let at2 := fun i j => elemAt (tileOp s s.cur s2) f i j
    let at3 := fun i j => elemAt (tileOp s s.cur d) f i j
    let lane := fun (i : Instr) (fl : Val → Val → Val → Val × Flags) (int : Int → Int → Int → Int) =>
      fills s i w 5 d f fun r c =>
        if f.isF then
          let e := fl (dec (at1 r c) f) (dec (at2 r c) f) (dec (at3 r c) f)
          ((cvt e.1 f rm false).1, e.2 ||| (cvt e.1 f rm false).2)
        else ((int (intOf f (at1 r c)) (intOf f (at2 r c)) (intOf f (at3 r c)) % 2 ^ f.width).toNat, 0)
    lane (.vadd d s1 s2 ty w) (fun x y _ => addV (rm == 3) x y) (fun x y _ => x + y) ∧
    lane (.vsub d s1 s2 ty w) (fun x y _ => addV (rm == 3) x y.negate) (fun x y _ => x - y) ∧
    lane (.vmul d s1 s2 ty w) (fun x y _ => mulV x y) (fun x y _ => x * y) ∧
    lane (.vfma d s1 s2 ty w) (fun x y z => ((addV (rm == 3) (mulV x y).1 z).1, (mulV x y).2 ||| (addV (rm == 3) (mulV x y).1 z).2))
      (fun x y z => x * y + z) ∧
    lane (.vfms d s1 s2 ty w) (fun x y z => ((addV (rm == 3) (mulV x y).1 z.negate).1, (mulV x y).2 ||| (addV (rm == 3) (mulV x y).1 z.negate).2))
      (fun x y z => x * y - z) ∧
    lane (.vmin d s1 s2 ty w) (fun x y _ => (minMaxV false x y, 0)) (fun x y _ => min x y) ∧
    lane (.vmax d s1 s2 ty w) (fun x y _ => (minMaxV true x y, 0)) (fun x y _ => max x y) ∧
    lane (.vabs d s1 ty w) (fun x _ _ => (x.abs, 0)) (fun x _ _ => |x|) ∧
    lane (.vneg d s1 ty w) (fun x _ _ => (x.negate, 0)) (fun x _ _ => -x)

/-- VAND, VOR, VXOR and VNOT act on every byte of the tile; VSHL, VSHR and VSRA shift each w-bit pattern by the second operand's pattern modulo
w, VSRA with copies of the top bit whatever the type (R171). All land by class C5 without flags.

VCMP gives every one of an element's bits in mask md the outcome of its condition (R46, R172): with a NaN operand only ne and uo hold of floats,
zeros of both signs are equal, and integers compare by their type. VSEL takes an element of s1 where its mask bit is set and leaves the rest of d (R173).

MAND, MOR, MXOR and MNOT act on every bit of a mask, and MPOP writes e[md] with the number of set bits (R186). All land by class C5. -/
def Obligations.TileBitsAndMasks : Prop :=
  (∀ (d s1 s2 : BitVec 6) (ty : BitVec 3) (w : BitVec 4) (s : State),
    let f := Fmt.ofTy ty
    let x := tileOp s s.cur s1
    let y := tileOp s s.cur s2
    let bytes := fun (i : Instr) (op : Byte → Byte → Byte) => ready s i w → ∃ v : Tile,
      exec i s = .next (emit (issued s w) s.cur 5 [.tile (physTile s s.cur.bank d) v false]) ∧
      ∀ (r : Fin 128) (b : Fin 256), (v.get r).get b = op ((x.get r).get b) ((y.get r).get b)
    let shifts := fun (i : Instr) (op : BitVec f.width → Nat → BitVec f.width) => fills s i w 5 d f fun r c =>
      ((op (BitVec.ofNat f.width (elemAt x f r c)) (elemAt y f r c % f.width)).toNat, 0)
    bytes (.vand d s1 s2 w) (fun a b => a &&& b) ∧ bytes (.vor d s1 s2 w) (fun a b => a ||| b) ∧
    bytes (.vxor d s1 s2 w) (fun a b => a ^^^ b) ∧ bytes (.vnot d s1 w) (fun a _ => ~~~a) ∧
    shifts (.vshl d s1 s2 ty w) (fun a n => a <<< n) ∧ shifts (.vshr d s1 s2 ty w) (fun a n => a >>> n) ∧
    shifts (.vsra d s1 s2 ty w) (fun a n => a.sshiftRight n)) ∧
  (((∀ (md cond : BitVec 3) (s1 s2 : BitVec 6) (ty : BitVec 3) (w : BitVec 4) (s : State),
    let f := Fmt.ofTy ty
    let i : Instr := .vcmp md cond s1 s2 ty w
    ready s i w → ∃ m : Mask, exec i s = .next (emit (issued s w) s.cur 5 [.mask (physMask s s.cur.bank md) m]) ∧
      ∀ (r : Fin 128) (c k : Nat), c < f.rowLen → k < f.esz →
        (m.get r).getLsbD (f.esz * c + k) = cmpHolds cond f (elemAt (tileOp s s.cur s1) f r c) (elemAt (tileOp s s.cur s2) f r c)) ∧
  (∀ (f : Fmt) (x y : Nat),
    let a := dec x f
    let b := dec y f
    (f.isF = true → (a.isNaN = true ∨ b.isNaN = true) → ∀ c : BitVec 3, cmpHolds c f x y = (c == 1 || c == 6)) ∧
    (f.isF = true → a.isNaN = false → b.isNaN = false →
      cmpHolds 0 f x y = eqV a b ∧ cmpHolds 1 f x y = !eqV a b ∧ cmpHolds 2 f x y = ltV a b ∧ cmpHolds 3 f x y = (ltV a b || eqV a b) ∧
      cmpHolds 4 f x y = (!ltV a b && !eqV a b) ∧ cmpHolds 5 f x y = !ltV a b ∧ cmpHolds 6 f x y = false ∧ cmpHolds 7 f x y = true) ∧
    (f.isF = false → cmpHolds 0 f x y = decide (intOf f x = intOf f y) ∧ cmpHolds 1 f x y = decide (intOf f x ≠ intOf f y) ∧
      cmpHolds 2 f x y = decide (intOf f x < intOf f y) ∧ cmpHolds 3 f x y = decide (intOf f x ≤ intOf f y) ∧
      cmpHolds 4 f x y = decide (intOf f y < intOf f x) ∧ cmpHolds 5 f x y = decide (intOf f y ≤ intOf f x) ∧
      cmpHolds 6 f x y = false ∧ cmpHolds 7 f x y = true)) ∧
  (∀ (d s1 : BitVec 6) (m ty : BitVec 3) (w : BitVec 4) (s : State),
    let e := (Fmt.ofTy ty).esz
    let i : Instr := .vsel d s1 m ty w
    ready s i w → ∃ v : Tile, exec i s = .next (emit (issued s w) s.cur 5 [.tile (physTile s s.cur.bank d) v false]) ∧
      ∀ (r : Fin 128) (b : Fin 256), (v.get r).get b =
        if ((maskOp s s.cur m).get r).getLsbD (b.val - b.val % e) then ((tileOp s s.cur s1).get r).get b else ((tileOp s s.cur d).get r).get b)) ∧
  (∀ (md m1 m2 : BitVec 3) (w : BitVec 4) (s : State),
    let x := maskOp s s.cur m1
    let y := maskOp s s.cur m2
    let masks := fun (i : Instr) (op : BitVec 256 → BitVec 256 → BitVec 256) => ready s i w → ∃ m : Mask,
      exec i s = .next (emit (issued s w) s.cur 5 [.mask (physMask s s.cur.bank md) m]) ∧ ∀ r : Fin 128, m.get r = op (x.get r) (y.get r)
    masks (.mand md m1 m2 w) (fun a b => a &&& b) ∧ masks (.mor md m1 m2 w) (fun a b => a ||| b) ∧
    masks (.mxor md m1 m2 w) (fun a b => a ^^^ b) ∧ masks (.mnot md m1 w) (fun a _ => ~~~a) ∧
    (ready s (.mpop md m1 w) w → exec (.mpop md m1 w) s =
      .next (emit (issued s w) s.cur 5 [.e (md.setWidth 4) (BitVec.ofNat 64 (maskCount x))]) ∧
      maskCount x = ((List.finRange 128).map fun r => (List.range 256).countP fun k => (x.get r).getLsbD k).sum)))

/-- VEXP2, VLOG2, VRCP, VRSQ, VSQRT, VSIGM and VTANH (R84, R174): each element is its function's result rounded once by FRM, with the function's flags
and the rounding's; they land by class C6.

The special operands of the functions (R84): infinities, zeros, NaN and negative numbers.

Reciprocal and square root stand for the exact result (R84): what they hand to the rounding is the exact number where that has a finite binary
form of the length kept, and otherwise an odd number of at least 65 bits whose neighbours enclose the exact one, so that every format's rounding and
flags are those of the exact result. -/
def Obligations.TileFunctions : Prop :=
  (∀ (d s1 : BitVec 6) (ty : BitVec 3) (w : BitVec 4) (s : State),
    let f := Fmt.ofTy ty
    let rm := (s.stream s.cur).frm
    let fn := fun (i : Instr) (g : Val → Val × Flags) => fills s i w 6 d f fun r c =>
      let e := g (dec (elemAt (tileOp s s.cur s1) f r c) f)
      ((cvt e.1 f rm false).1, e.2 ||| (cvt e.1 f rm false).2)
    fn (.vexp2 d s1 ty w) fExp2 ∧ fn (.vlog2 d s1 ty w) fLog2 ∧ fn (.vrcp d s1 ty w) fRcp ∧ fn (.vrsq d s1 ty w) fRsq ∧
    fn (.vsqrt d s1 ty w) fSqrt ∧ fn (.vsigm d s1 ty w) fSigm ∧ fn (.vtanh d s1 ty w) fTanh) ∧
  (let nanInv : Val × Flags := (.nan, Flags.invalid)
  (∀ g ∈ [fExp2, fLog2, fRcp, fRsq, fSqrt, fSigm, fTanh, fSilu, fGelu], g .nan = (.nan, 0)) ∧
  (∀ (n : Bool) (e : Int), fExp2 (.inf true) = (.zero, 0) ∧ fExp2 (.inf false) = (.inf false, 0) ∧ fExp2 (.fin n 0 e) = (.fin false 1 0, 0) ∧
    fLog2 (.inf true) = nanInv ∧ fLog2 (.inf false) = (.inf false, 0) ∧ fLog2 (.fin n 0 e) = (.inf true, Flags.divZero) ∧
    fRcp (.inf n) = (.zero n, 0) ∧ fRcp (.fin n 0 e) = (.inf n, Flags.divZero) ∧
    fRsq (.inf true) = nanInv ∧ fRsq (.inf false) = (.zero, 0) ∧ fRsq (.fin n 0 e) = (.inf n, Flags.divZero) ∧
    fSqrt (.inf true) = nanInv ∧ fSqrt (.inf false) = (.inf false, 0) ∧ fSqrt (.fin n 0 e) = (.zero n, 0) ∧
    fSigm (.inf true) = (.zero, 0) ∧ fSigm (.inf false) = (.fin false 1 0, 0) ∧ fSigm (.fin n 0 e) = (.fin false 1 (-1), 0) ∧
    fTanh (.inf n) = (.fin n 1 0, 0) ∧ fTanh (.fin n 0 e) = (.zero n, 0) ∧
    fSilu (.inf true) = (.zero true, 0) ∧ fSilu (.inf false) = (.inf false, 0) ∧ fSilu (.fin n 0 e) = (.zero n, 0) ∧
    fGelu (.inf true) = (.zero true, 0) ∧ fGelu (.inf false) = (.inf false, 0) ∧ fGelu (.fin n 0 e) = (.zero n, 0)) ∧
  (∀ (m : Nat) (e : Int), m ≠ 0 → fLog2 (.fin true m e) = nanInv ∧ fRsq (.fin true m e) = nanInv ∧ fSqrt (.fin true m e) = nanInv)) ∧
  ((∀ (n : Bool) (m : Nat) (e : Int), m ≠ 0 → ∃ q k, fRcp (.fin n m e) = (.fin n q k, 0) ∧ k + e ≤ 0 ∧
    ((q * m = 2 ^ (-(k + e)).toNat) ∨
      (q % 2 = 1 ∧ 2 ^ 64 ≤ q ∧ (q - 1) * m < 2 ^ (-(k + e)).toNat ∧ 2 ^ (-(k + e)).toNat < (q + 1) * m))) ∧
  (∀ (m : Nat) (e : Int), m ≠ 0 → ∃ q k, fSqrt (.fin false m e) = (.fin false q k, 0) ∧ 2 * k ≤ e ∧
    ((q * q = m * 2 ^ (e - 2 * k).toNat) ∨
      (q % 2 = 1 ∧ 2 ^ 64 ≤ q ∧ (q - 1) * (q - 1) < m * 2 ^ (e - 2 * k).toNat ∧ m * 2 ^ (e - 2 * k).toNat < (q + 1) * (q + 1)))))

/-- VCVT, VQDEC, VQENC and VSCL (R168, R175-R178). VCVT converts element by element by its own rm and ov, copying bits between equal types with NaNs
canonical, writes zero beyond the source's row, and waits until its destination is empty; VQDEC takes codes of a full tile and rounds each code's exact
value; VQENC gives each position its nearest code, and 7 beyond the source's row; VSCL multiplies each row by element 0 of the row's scale.

The code that VQENC chooses (R177): 7 with invalid for a NaN or a scale that is no finite number; 7 for a product of zero; the code of
greatest or least value for an infinity; and otherwise a code whose value no other code's is nearer to, the one of smaller |k| on a tie, with
inexact exactly where its value differs. -/
def Obligations.TileConversions : Prop :=
  (∀ (d s1 s2 : BitVec 6) (dty : BitVec 3) (rmi : BitVec 2) (ov : BitVec 1) (ty : BitVec 3) (w : BitVec 4) (s : State),
    let ag := s.cur
    let f := Fmt.ofTy ty
    let g := Fmt.ofTy dty
    let rm := (s.stream ag).frm
    let x := tileOp s ag s1
    let y := tileOp s ag s2
    let p := physTile s ag.bank d
    let q := physTile s ag.bank s1
    let fp := tileFlag s ag.suite p
    let fq := tileFlag s ag.suite q
    let scale := fun (r : Fin 128) => dec (rowElem (y.get r) .fp32 2) .fp32
    let code := fun (r : Fin 128) (c : Nat) => rowElem (y.get r) .u8 (c / 64)
    let produces := fun (i : Instr) (out : Fmt) (res : Fin 128 → Nat → Nat × Flags) =>
      (ready s i w → fp.full = false → fp.producing = false → ∃ v fl, Elements out res v fl ∧
        exec i s = .next (emit (modTileFlag (issued s w { wait := tileWait s ag.suite p }) ag.suite p fun h => { h with producing := true }) ag 8
          [.tile p v true] fl)) ∧
      (free s i w → fp.full = true ∨ fp.producing = true → exec i s = .next (markHeld s ag ⟨true, true⟩))
    produces (.vcvt d s1 dty rmi ov ty w) g (fun r c =>
      if c < f.rowLen then
        if f = g then (if f.isInt then (elemAt x f r c, 0) else (canonBits (elemAt x f r c) f, 0)) else cvt (dec (elemAt x f r c) f) g rmi (ov == 1)
      else (0, 0)) ∧
    produces (.vqenc d s1 s2 ty w) .cb4 (fun r c =>
      if c < f.rowLen then vqencElem (dec (elemAt x f r c) f) (scale r) (code r c) else (7, 0)) ∧
    ((ready s (.vqdec d s1 s2 ty w) w → fq.full = true → fq.consuming = false → ∃ v fl, Elements f (fun r c =>
          let e := mulV (scale r) ((Val.ofInt (((code r c + 1 : Nat) : Int) * cb4 (elemAt x .cb4 r c))).scale (-18))
          ((cvt e.1 f rm false).1, e.2 ||| (cvt e.1 f rm false).2)) v fl ∧
        exec (.vqdec d s1 s2 ty w) s = .next (emit (modTileFlag (issued s w { wait := tileWait s ag.suite q }) ag.suite q
          fun h => { h with consuming := true }) ag 8 [.tile p v false, .consume q] fl)) ∧
      (free s (.vqdec d s1 s2 ty w) w → fq.full = false ∨ fq.consuming = true → exec (.vqdec d s1 s2 ty w) s = .next (markHeld s ag ⟨true, true⟩))) ∧
    fills s (.vscl d s1 s2 ty w) w 5 d f (fun r c =>
      let e := mulV (dec (elemAt x f r c) f) (dec (elemAt y f r 0) f)
      ((cvt e.1 f rm false).1, e.2 ||| (cvt e.1 f rm false).2))) ∧
  (∀ (x sc : Val) (sb : Nat),
    (x.isNaN = true ∨ sc.isFinite = false → vqencElem x sc sb = (7, Flags.invalid)) ∧
    (x.isNaN = false → sc.isZero = true → vqencElem x sc sb = (7, if x.isZero then 0 else Flags.inexact)) ∧
    (∀ (n m : Bool) (a : Nat) (b : Int), a ≠ 0 → x = .inf n → sc = .fin m a b → vqencElem x sc sb = (if m = n then 15 else 0, Flags.inexact)) ∧
    (∀ (n m : Bool) (u a : Nat) (v b : Int), a ≠ 0 → x = .fin n u v → sc = .fin m a b →
      let unit := min v (b - 18)
      let gap := fun (c : Nat) => (Val.units unit x - Val.units unit (cb4Val sc sb c).1).natAbs
      let c := (vqencElem x sc sb).1
      c < 16 ∧ (∀ e, e < 16 → gap c < gap e ∨ (gap c = gap e ∧ (cb4 c).natAbs ≤ (cb4 e).natAbs)) ∧
      (vqencElem x sc sb).2 = if gap c = 0 then 0 else Flags.inexact))

/-- VRED and VSCAN (R179-R181): a reduction leaves one result a line, in column 0 or row 0, and zero elsewhere; a scan leaves every prefix of every
line, an exclusive one behind a zero. Elements are taken with NaNs canonical and no flags; they land by class C9.

The tree order of R180: a block of one element is that element, and the sum of an aligned block of 2^(p+1) elements is the rounded sum of the tree
sums of its halves.

The prefixes of a tree scan (R181): with 2^p the least block of the m + 1 elements, the prefix is the tree sum of that block where it is the only
one, and otherwise the rounded sum of the prefix before the block and the block's tree sum. -/
def Obligations.ReductionsAndScans : Prop :=
  (∀ (d s1 : BitVec 6) (order axis : BitVec 1) (kind : BitVec 2) (ty : BitVec 3) (w : BitVec 4) (s : State),
    let f := Fmt.ofTy ty
    let rm := (s.stream s.cur).frm
    let x := tileOp s s.cur s1
    let add := addRnd f rm
    let sum := fun (l : List (Nat × Flags)) => if order = 1 then treeSum add 8 l else l.tail.foldl add (l.headD (0, 0))
    let red := fun (l : List (Nat × Flags)) =>
      if kind = 0 then sum l else l.tail.foldl (extremeOf f (kind == 1)) (l.headD (0, 0))
    let prefixes := fun (l : List (Nat × Flags)) (m : Nat) =>
      if order = 1 then (treeScan add [] l).getD m (0, 0) else (l.tail.take m).foldl add (l.headD (0, 0))
    let scan := fun (l : List (Nat × Flags)) (m : Nat) => if kind = 1 then (if m = 0 then (0, 0) else prefixes l (m - 1)) else prefixes l m
    fills s (.vred d s1 order axis kind ty w) w 9 d f (fun r c =>
      if axis = 0 then (if c = 0 then red (rowLine x f r) else (0, 0)) else (if r = 0 then red (colLine x f c) else (0, 0))) ∧
    fills s (.vscan d s1 order axis kind ty w) w 9 d f (fun r c => if axis = 0 then scan (rowLine x f r) c else scan (colLine x f c) r.val)) ∧
  (∀ (add : Nat × Flags → Nat × Flags → Nat × Flags),
    (∀ x, treeSum add 8 [x] = x) ∧
    ∀ (p : Nat) (l r : List (Nat × Flags)), p < 8 → l.length = 2 ^ p → r.length = 2 ^ p →
      treeSum add 8 (l ++ r) = add (treeSum add 8 l) (treeSum add 8 r)) ∧
  (∀ (add : Nat × Flags → Nat × Flags → Nat × Flags) (l : List (Nat × Flags)) (m p k : Nat), l.length ≤ 256 → m < l.length →
    m + 1 = 2 ^ p * (2 * k + 1) →
    let block := treeSum add 8 ((l.drop (m + 1 - 2 ^ p)).take (2 ^ p))
    (k = 0 → (treeScan add [] l)[m]? = some block) ∧
    (k ≠ 0 → ∃ before, (treeScan add [] l)[m - 2 ^ p]? = some before ∧ (treeScan add [] l)[m]? = some (add before block)))

/-- The movement instructions (R182): VBCR, VBCC and VBCS spread the first row, the first column or the first element, VTRN transposes the leading
square and clears the rest, VSHF takes from each row the element that a byte of s2 names; VMOV, once its source is full, copies the tile and empties the
source, and VZERO clears a tile. All land by class C5.

VACC and VACW (R183-R185): VACC copies the 64 words of each row of the named half into its tile, which it reads in the 24 cycles from its issue whatever the latency of its class,
and waits for the stream's earlier VACWs; VACW reads its tile at issue, waits for the stream's earlier accumulator accesses too, and lands 32 cycles later. When it lands, in set mode each word of the
half is the tile's, in add mode the rounded FP32 sum of both, and every other word of every accumulator store is as it was. -/
def Obligations.TileMoves : Prop :=
  (∀ (d s1 s2 : BitVec 6) (ty : BitVec 3) (w : BitVec 4) (s : State),
    let ag := s.cur
    let f := Fmt.ofTy ty
    let x := tileOp s ag s1
    let n := min 128 f.rowLen
    let p := physTile s ag.bank d
    let q := physTile s ag.bank s1
    let fq := tileFlag s ag.suite q
    fills s (.vbcr d s1 ty w) w 5 d f (fun _ c => (elemAt x f 0 c, 0)) ∧
    fills s (.vbcc d s1 ty w) w 5 d f (fun r _ => (elemAt x f r 0, 0)) ∧
    fills s (.vbcs d s1 ty w) w 5 d f (fun _ _ => (elemAt x f 0 0, 0)) ∧
    fills s (.vtrn d s1 ty w) w 5 d f (fun r c => if r.val < n ∧ c < n then (elemAt x f ⟨c % 128, Nat.mod_lt _ (by decide)⟩ r.val, 0) else (0, 0)) ∧
    fills s (.vshf d s1 s2 ty w) w 5 d f (fun r c => (elemAt x f r (elemAt (tileOp s ag s2) .u8 r c % f.rowLen), 0)) ∧
    (ready s (.vzero d w) w → exec (.vzero d w) s = .next (emit (issued s w) ag 5 [.tile p Tile.zero false])) ∧
    ((ready s (.vmov d s1 w) w → fq.full = true → fq.consuming = false → exec (.vmov d s1 w) s =
        .next (emit (modTileFlag (issued s w { wait := tileWait s ag.suite q }) ag.suite q fun h => { h with consuming := true }) ag 5
          [.tile p x false, .consume q])) ∧
      (free s (.vmov d s1 w) w → fq.full = false ∨ fq.consuming = true → exec (.vmov d s1 w) s = .next (markHeld s ag ⟨true, true⟩)))) ∧
  ((∀ (t : BitVec 6) (k : BitVec 5) (h mode : BitVec 1) (w : BitVec 4) (s : State),
    let ag := s.cur
    let q := physAcc s ag.bank k.toNat
    let stopped := (s.room ag.suite).stopped
    (ready s (.vacc t k h w) w → quiet s → s.pkg.flips = [] → vacwPending s ag = false → stopped = false →
      ∃ v : Tile, exec (.vacc t k h w) s =
          .next ((emit (issued s w) ag 7 [.tile (physTile s ag.bank t) v false]).modBank ag.bank fun b =>
            { b with fly := b.fly ++ [⟨ag.kind, 23, [.accRead q (h == 1) (physTile s ag.bank t)], 0, s.cycle, false⟩] }) ∧
        ∀ (i : Fin 128) (j : Fin 64), tileWord v i j = accGet s ag.suite q i ⟨64 * h.toNat + j.val, by have := h.isLt; omega⟩) ∧
    (free s (.vacc t k h w) w → vacwPending s ag = true ∨ stopped = true → exec (.vacc t k h w) s = .next (markHeld s ag ⟨false, false⟩)) ∧
    (ready s (.vacw t k h mode w) w → vacwPending s ag = false → vaccPending s ag = false → stopped = false →
      exec (.vacw t k h mode w) s = .next ((issued s w).modBank ag.bank fun b => { b with
        fly := b.fly ++ [⟨ag.kind, 31, [.acc q (h == 1) (mode == 1) (tileOp s ag t) 0 (tenantOf s ag.bank)], 0, s.cycle, false⟩] })) ∧
    (free s (.vacw t k h mode w) w → vacwPending s ag = true ∨ vaccPending s ag = true ∨ stopped = true →
      exec (.vacw t k h mode w) s = .next (markHeld s ag ⟨false, false⟩))) ∧
  (∀ (s : State) (u : SuiteId) (b : Fin 2) (k : StreamKind) (q : Fin 32) (h add : Bool) (v : Tile) (row : Nat) (tn : TenantId), s.pkg.flips = [] →
    let t := landResult s (.bank u b) k (.acc q h add v row tn)
    ∀ (u' : SuiteId) (q' : Fin 32) (i j : Fin 128), accGet t u' q' i j =
      if u' = u ∧ q' = q ∧ row ≤ i.val ∧ decide (64 ≤ j.val) = h then
        (let x := tileWord v i ⟨j.val % 64, Nat.mod_lt _ (by decide)⟩
         if add then rne32 (addV false (dec32 (accGet s u q i j)) (dec32 x)).1 else x)
      else accGet s u' q' i j))

/-- A result of a fixed-latency instruction (R121): of latency 1 it reads back from its register at once, and with a longer latency it is in flight,
its register keeping its value, for as many cycles less one; the flags of an X-stream result enter XFLG when it lands.

The frame of the X-map arithmetic (R167): nothing but the destination tile register, mask or e register, the results in flight and XFLG changes when one
of these instructions issues: every other tile and mask, every address register, rooms, memory, Local Stores and other banks are as they were.

Results that are due, and words that name no instruction (R119, R121, R169, R291, R366). The end of a cycle lands a register result whose
count of cycles is 0, unless a later instruction of the stream has written the register in the same cycle, and counts another down; with the core clock standing still it stays, but for one of variable latency, which completes before the stop does. A stream takes ILLOP for an
unassigned opcode, and for a reserved field ILLFLD unless its agent may not use the opcode at all, which is ILLOP and comes first; tval is 0 at the instruction's own position; a drain row is dropped. A word that decodes has no effect of this kind. -/
def Obligations.ResultsLand : Prop :=
  (∀ (s : State) (u : SuiteId) (b : Fin 2) (k : StreamKind) (cls : Nat) (d : BitVec 5) (e : BitVec 4) (q : Fin 48) (m : Fin 8) (v : Word) (tile : Tile)
    (mask : Mask) (fl : Flags), k = .a ∨ k = .x →
    let ag : Agent := ⟨.bank u b, k⟩
    let l := latencyOf s ag.bank cls
    let now := fun (r : Result) (f : Flags) => emit s ag cls [r] f
    (l ≤ 1 → readA (now (.a d v) 0) ag d = (if d = 0 then 0 else v) ∧ readE (now (.e e v) 0) ag e = v ∧
      ((now (.tile q tile false) fl).suite u).tiles.get q = tile ∧ ((now (.mask m mask) 0).suite u).masks.get m = mask ∧
      ((now (.tile q tile false) fl).bank ag.bank).sx.xflg = xflgAfter (s.bank ag.bank).sx.xflg fl) ∧
    (1 < l → ∀ r f, now r f = s.modBank ag.bank fun x => { x with fly := x.fly ++ [⟨k, l - 1, [r], f, s.cycle, false⟩] }) ∧
    (∀ n : Fin 5, (xflgAfter (s.bank ag.bank).sx.xflg fl).getLsbD n.val = ((s.bank ag.bank).sx.xflg.getLsbD n.val || fl.getLsbD n.val)) ∧
    (fl ≠ 0 → (xflgAfter (s.bank ag.bank).sx.xflg fl).extractLsb' 8 5 = fl)) ∧
  (∀ (s : State) (w : BitVec 4) (p : Plan) (cls : Nat) (r : Result) (fl : Flags) (u : SuiteId) (b : Fin 2), quiet s = true → s.cur = ⟨.bank u b, .x⟩ →
    (∃ d v, r = .tile d v false) ∨ (∃ m v, r = .mask m v) ∨ (∃ d v, r = .e d v) →
    let t := emit (issued s w p) s.cur cls [r] fl
    (∀ d : Fin 48, (∀ v, r ≠ .tile d v false) → (t.suite u).tiles.get d = (s.suite u).tiles.get d) ∧
    (∀ m : Fin 8, (∀ v, r ≠ .mask m v) → (t.suite u).masks.get m = (s.suite u).masks.get m) ∧
    (∀ n : BitVec 4, (∀ v, r ≠ .e n v) → readE t s.cur n = readE s s.cur n) ∧
    (t.suite u).flags = (s.suite u).flags ∧ (t.bank s.cur.bank).a = (s.bank s.cur.bank).a ∧ t.rooms = s.rooms ∧ t.tenants = s.tenants ∧
    t.pkg.mem = s.pkg.mem ∧ (∀ v, (t.suite v).ls = (s.suite v).ls) ∧ (∀ v, v ≠ u → (t.suite v).tiles = (s.suite v).tiles) ∧
    ∀ q, q ≠ s.cur.bank → t.bank q = s.bank q) ∧
  ((∀ (s : State) (u : SuiteId) (b : Fin 2) (k : StreamKind) (d : BitVec 5) (v : Word) (left born : Nat) (var : Bool),
    let r : BankRef := .bank u b
    let late := (s.bank r).wrote.contains (k, Reg.a d.toNat)
    k = .a ∨ k = .x → (s.bank r).fly = [⟨k, left, [.a d v], 0, born, var⟩] →
      ((s.suite u).stopped = true → var = false → answers (.resultLanding r) s fun z => (z.bank r).fly = (s.bank r).fly ∧ (z.bank r).a = (s.bank r).a) ∧
      ((s.suite u).stopped = false ∨ var = true → 0 < left → answers (.resultLanding r) s fun z =>
        (z.bank r).fly = [⟨k, left - 1, [.a d v], 0, born, var⟩] ∧ (z.bank r).a = (s.bank r).a) ∧
      ((s.suite u).stopped = false ∨ var = true → left = 0 → answers (.resultLanding r) s fun z =>
        (z.bank r).fly = [] ∧ ∀ n, readA z ⟨r, .a⟩ n = if n = d ∧ d ≠ 0 ∧ late = false then v else readA s ⟨r, .a⟩ n)) ∧
  (∀ (s : State) (m : Map) (word f x : W32) (k : Map), fetch s s.cur = .word k f x →
    let i : Instr := .unassignedEncoding m word
    (decode m word x = .error .noOpcode → s.cur.kind ≠ .drain → exec i s = .next (takeTrap s s.cur 0x01 0 (posOf s s.cur))) ∧
    (decode m word x = .error .reservedField → s.cur.kind ≠ .drain →
      exec i s = .next (takeTrap s s.cur (if opcodeRefused s s.cur m word then 0x01 else 0x02) 0 (posOf s s.cur))) ∧
    (∀ e, decode m word x = .error e → s.cur.kind = .drain → exec i s = .next (s.modRoom s.cur.suite fun r => { r with drain := none })) ∧
    (∀ j, decode m word x = .ok j → exec i s = .next s)))

/-! ### Commands of the M and C engines -/

/-- Acceptance of the room and drone commands (R210, R213-R218, R229-R234): a full M queue of sixteen holds the stream; otherwise the first check
that fails traps with trap value 0 and accepts nothing, and a command that passes joins the tail of the queue with the words and bytes that it
reads. Every one of them but MWING traps WINGV from a Suite that does not lead its wing. DRET only marks the chanter idle from the end of its cycle (R235).

Acceptance of the copy, passage and collective commands (R236, R241-R243, R268, R277): a full C queue of sixteen holds the stream; otherwise a
failed check traps, and a command that passes joins the tail of the queue, CPY with the descriptor's copy and the segment's busy count raised by one in
memory. COLLW takes one increment of the collective semaphore a[s1] of its tenant, or waits on it, on a flag, while it is zero. -/
def Obligations.CommandsAccepted : Prop :=
  (∀ (s1 s2 : BitVec 5) (tok : Tok) (dn w : BitVec 4) (s : State),
    let ag := s.cur
    let u := ag.suite
    let x := readA s ag s1
    let y := readA s ag s2
    let n := x.toNat
    let env := match (s.bank ag.bank).visit with | some v => (v.lead, v.shape.val) | none => (0, 0)
    let notLead := decide ((s.room u).wingLead ≠ u)
    let dual := dualOf s ag.bank
    let noChanter := match imageOf s ag.bank with | some im => im.entryCh == 0xffffffff | none => true
    let top := 0x800000 - (s.suite u).l1mib.toNat * 0x100000
    let cmd := fun (i : Instr) (op : CmdOp) (readFree : Bool) (checks : List (Bool × BitVec 8)) => free s i w →
      (16 ≤ (s.suite u).mq.length → exec i s = .next (markHeld s ag ⟨false, false⟩)) ∧
      ((s.suite u).mq.length < 16 → readFree = true →
        (∀ c, (checks.find? (·.1)).map (·.2) = some c → trapsAs s i c 0 (posOf s ag)) ∧
        (checks.all (fun k => !k.1) = true → ready s i w →
          exec i s = .next ((issued s w).modSuite u fun z => { z with mq := z.mq ++ [newCmd s ag op tok dn 1] })))
    let quietLs := fun (len : Nat) => !(ag.kind == .a && acquirePending (s.bank ag.bank)) && !touchesFed s u n len
    let record := fun (align len : Nat) => [(n % align != 0, (0x23 : BitVec 8)), (decide (2 ^ 23 ≤ n) || decide (top < n + len), 0x22)]
    let sel := y.toNat % 8
    let len := if sel = 7 then 448 else 64
    cmd (.mnest s1 s2 tok dn w) (.mnest sel (lsRead s u n len)) (quietLs len)
      ([(notLead, 0x42), (decide (8 ≤ y.toNat), 0x02)] ++ record 64 len) ∧
    cmd (.mfmt s1 s2 tok dn w) (.mfmt (y.setWidth 16) (lsRead s u n 32)) (quietLs 32)
      ([(notLead, 0x42), (decide (2 ^ 16 ≤ y.toNat), 0x02)] ++ record 32 32) ∧
    cmd (.mgo tok dn w) .mgo true [(notLead, 0x42)] ∧
    cmd (.mdrn s1 s2 tok dn w) (.mdrn (x.setWidth 4) (y.setWidth 32)) true
      [(notLead, 0x42), (programAbsent s ag (n % 16) || decide (16 ≤ n), 0x02), (n % 16 != 15 && y.toNat % 256 != 0, 0x23)] ∧
    cmd (.mwing s1 tok dn w) (.mwing n) true
      [(decide (9 ≤ n), 0x02), (decide (shapeRows env.2 < shapeRows n) || decide (shapeCols env.2 < shapeCols n), 0x42), (env.1 != u, 0x42)] ∧
    cmd (.dstart s1 s2 tok dn w) (.dstart x y) true
      [(notLead, 0x42),
       (natBits n 16 16 == 0 || programAbsent s ag (natBits n 12 4) || decide (2 ≤ natBits n 10 2) || natBits n 8 2 != 0 || natBits n 4 4 != 0 ||
         natBits y.toNat 16 16 != 0 || noChanter, 0x02),
       (natBits n 12 4 != 15 && natBits y.toNat 32 32 % 256 != 0, 0x23)] ∧
    cmd (.dlook s1 tok dn w) (.dlook n) true [(notLead, 0x42), (n == 0 || decide (64 < n), 0x02)] ∧
    cmd (.dfeed s1 s2 tok dn w) (.dfeed x y) true
      [(notLead, 0x42),
       (decide (4 ≤ y.toNat) || (if y.getLsbD 1 then decide (2 ^ 15 ≤ n) || natBits n 6 2 != 0 else decide (2 ^ 23 ≤ n)), 0x02),
       (y.getLsbD 1 && decide ((if dual then 24 else 48) ≤ n % 64), 0x03)] ∧
    cmd (.ddrn s1 tok dn w) (.ddrn (n % 32)) true [(notLead, 0x42), (decide (32 ≤ n), 0x02), (dual && decide (16 ≤ n), 0x22)] ∧
    cmd (.dend tok dn w) .dend true [(notLead, 0x42)] ∧
    (ready s (.dret w) w → exec (.dret w) s = .next ((issued s w).modSuite u fun z => { z with chanter := { z.chanter with ending := true } }))) ∧
  (∀ (s1 s2 : BitVec 5) (tok : Tok) (dn w : BitVec 4) (desc : BitVec 17) (s : State),
    let ag := s.cur
    let u := ag.suite
    let t := tenantOf s ag.bank
    let x := readA s ag s1
    let y := readA s ag s2
    let addr := 64 * desc.toNat
    let bytes := lsRead s u addr 64
    let job := parseCopy bytes x y (physAcc s ag.bank)
    let cpy : Instr := .cpy s1 s2 tok dn desc w
    let full := 16 ≤ (s.suite u).cqueue.length
    let top := 0x800000 - (s.suite u).l1mib.toNat * 0x100000
    let joins := fun (op : CmdOp) (k : Nat) => (issued s w { words := k }).modSuite u fun z => { z with cqueue := z.cqueue ++ [newCmd s ag op tok dn k] }
    let held := markHeld s ag ⟨false, false⟩
    let cmd := fun (i : Instr) (op : CmdOp) (checks : List (Bool × BitVec 8)) => free s i w →
      (full → exec i s = .next held) ∧
      (¬ full → (∀ c, (checks.find? (·.1)).map (·.2) = some c → trapsAs s i c 0 (posOf s ag)) ∧
        (checks.all (fun k => !k.1) = true → ready s i w → exec i s = .next (joins op 1)))
    let passage := [(y &&& ~~~0x107 != 0, (0x02 : BitVec 8)),
      (y.getLsbD 8 && decide ((if dualOf s ag.bank then 24 else 48) ≤ x.toNat % 64), 0x03),
      (!y.getLsbD 8 && x.toNat % 256 != 0, 0x23), (!y.getLsbD 8 && decide (top < x.toNat + 32768), 0x22)]
    let size := match (getDesc s t (imageSegOf s ag.bank)).1 with | some d => bytesOf d.fmt (d.dims.foldl (· * ·) 1) | none => 0
    let sem : Fin 16 := ⟨x.toNat % 16, Nat.mod_lt _ (by decide)⟩
    let collw : Instr := .collw s1 dn w
    (free s cpy w → (ag.kind = .a → acquirePending (s.bank ag.bank) = false) → touchesFed s u addr 64 = false →
      (full → exec cpy s = .next held) ∧
      (¬ full → ∀ c v, copyTrap s ag addr bytes job = some (c, v) → trapsAs s cpy c v (posOf s ag)) ∧
      (¬ full → copyTrap s ag addr bytes job = none → (s.tenant t).held.contains job.seg = true → exec cpy s = .next held) ∧
      (¬ full → copyTrap s ag addr bytes job = none → (s.tenant t).held.contains job.seg = false →
        (busyCount s t job.seg = 0xffffffff → trapsAs s cpy 0x49 0 (posOf s ag)) ∧
        (busyCount s t job.seg ≠ 0xffffffff → ready s cpy w →
          exec cpy s = .next (setBusy (joins (.cpy job) 2) t job.seg (busyCount (issued s w { words := 2 }) t job.seg + 1))))) ∧
    cmd (.cpyq tok dn w) .cpyq [] ∧ cmd (.psend s1 s2 tok dn w) (.psend x y) passage ∧ cmd (.precv s1 s2 tok dn w) (.precv x y) passage ∧
    cmd (.coll s1 s2 tok dn w) (.coll x.toNat (y.toNat % 65536) none)
      [(x.toNat % 64 != 0, 0x23), (decide (size ≤ x.toNat), 0x22), (decide (65536 ≤ y.toNat), 0x02)] ∧
    (free s collw w →
      (16 ≤ x.toNat → trapsAs s collw 0x02 0 (posOf s ag)) ∧
      (x.toNat < 16 → (s.tenant t).cs.get sem = 0 → exec collw s = .next (markHeld s ag ⟨false, true⟩)) ∧
      (ready s collw w → x.toNat < 16 → (s.tenant t).cs.get sem ≠ 0 → ∃ p, exec collw s = .next (doneFor (takeCs (issued s w { wait := p }) t sem) ag.bank ag.kind dn))))

/-! ### Drain programs -/

/-- The micro-ops that transform a row (R250-R252): an operand line reads as it stood before the first row of the unit (R253); the position moves on by one, the next micro-op has its turn in the same cycle, and of the machine
nothing else changes but the row's lanes (its type with DCVT, its pending writes with DSTL) and ROOMSTAT's overflow bit. Floats are rounded to
nearest even and INT32 lanes wrap.

DOVW writes the row over row i' of its tile, and DEND ends the row: the writes of DSTL land in order, and unless `nomain` the row goes to its
main destination: over the tile's row, added to it (rounded to nearest even, or wrapped with the overflow bit), or as bytes into the Local
Store at c + pitch * i' (R196, R251, R252). Every other word of every accumulator store is as it was. Where writes of one row overlap, that the DSTLs go in
program order and the main row last is the model's choice (log 64). A write of a row goes to the Local Store like any other, and operand lines of the
later rows of the unit still read what stood there before (R253). -/
def Obligations.DrainOperations : Prop :=
  (∀ (n : BitVec 12) (ov : BitVec 1) (rm pitch : BitVec 2) (ty : BitVec 3) (s : State) (r : BankRef) (x : DrainCtx),
    let u := s.cur.suite
    let moved := advance s s.cur 1
    s.cur = ⟨r, .drain⟩ → (s.room u).drain = some x →
    let byte := fun (a : Nat) => match (s.room u).unitOld.find? fun p => p.1 == a with | some p => p.2 | none => (lsRead moved u a 1).headD 0
    let word := fun (line j : Nat) => (BitVec.ofNat 32 (leNat ((List.range 4).map fun i => byte (x.dbase + 512 * line + 4 * j + i))) : W32)
    let goesOn := fun (i : Instr) (y : DrainCtx) (ovf : Bool) => exec i s = .next
      { (moved.modRoom u fun q => { q with drain := some y, ovf := q.ovf || ovf, ovfNow := q.ovfNow || ovf }) with turns := .issue s.cur :: moved.turns }
    let lanes := fun (i : Instr) (t : Fmt) (f : Fin 128 → W32) (ovf : Bool) => ∃ v : Vector W32 128, (∀ j, v.get j = f j) ∧
      goesOn i { x with lanes := v, ty := t } ovf
    let outside := fun (z : Int) => decide (z < -(2 ^ 31)) || decide (2 ^ 31 ≤ z)
    let arith := fun (i : Instr) (line : Nat) (fl : Val → Val → Val) (int : Int → Int → Int) =>
      (x.ty = .i32 → lanes i x.ty (fun j => BitVec.ofInt 32 (int (x.lanes.get j).toInt (word line j.val).toInt))
        ((List.finRange 128).any fun j => outside (int (x.lanes.get j).toInt (word line j.val).toInt))) ∧
      (x.ty ≠ .i32 → lanes i x.ty (fun j => rne32 (fl (dec32 (x.lanes.get j)) (dec32 (word line j.val)))) false)
    let times := fun (a b : Val) => (mulV a b).1
    let plus := fun (a b : Val) => (addV false a b).1
    let acts := fun (k : BitVec 6) (g : Val → Val) => x.ty ≠ .i32 → lanes (.dact k) x.ty (fun j => rne32 (g (dec32 (x.lanes.get j)))) false
    arith (.dscl n) n.toNat times (· * ·) ∧ arith (.dbia n) n.toNat plus (· + ·) ∧
    arith (.dmul n) (n.toNat + x.row) times (· * ·) ∧ arith (.dadd n) (n.toNat + x.row) plus (· + ·) ∧
    (x.ty = .i32 → lanes (.dact 0) x.ty (fun j => x.lanes.get j) false ∧
      lanes (.dact 1) x.ty (fun j => if 0 < (x.lanes.get j).toInt then x.lanes.get j else 0) false) ∧
    (x.ty ≠ .i32 → lanes (.dact 0) x.ty (fun j => BitVec.ofNat 32 (canonBits (x.lanes.get j).toNat .fp32)) false ∧
      lanes (.dact 1) x.ty (fun j => let a := dec32 (x.lanes.get j)
        if a.isNaN then 0x7fc00000 else if ltV .zero a then x.lanes.get j else 0) false) ∧
    acts 2 (fun a => (fSilu a).1) ∧ acts 3 (fun a => (fGelu a).1) ∧ acts 4 (fun a => (fSigm a).1) ∧ acts 5 (fun a => (fTanh a).1) ∧
    (x.ty = .i32 → lanes (.dclp n) x.ty (fun j => BitVec.ofInt 32
      (min (max (x.lanes.get j).toInt (word n.toNat 0).toInt) (word n.toNat 1).toInt)) false) ∧
    (x.ty ≠ .i32 → lanes (.dclp n) x.ty (fun j => rne32
      (minMaxV false (minMaxV true (dec32 (x.lanes.get j)) (dec32 (word n.toNat 0))) (dec32 (word n.toNat 1)))) false) ∧
    lanes (.dcvt ov rm ty) (Fmt.ofTy ty) (fun j => BitVec.ofNat 32 (cvt (dec (x.lanes.get j).toNat x.ty) (Fmt.ofTy ty) rm (ov == 1)).1) false ∧
    goesOn (.dstl pitch n) { x with writes := x.writes ++
      [(x.dbase + 512 * n.toNat + 256 * 2 ^ pitch.toNat * x.row, x.lanes.toList.flatMap fun v => leBytes x.ty.esz v.toNat)] } false) ∧
  (∀ (k : BitVec 5) (s : State) (r : BankRef) (x : DrainCtx),
    let u := s.cur.suite
    let tile := fun (n : Nat) => (if x.dual then 16 * x.bank.val + n % 16 else n % 32)
    let bytes := x.lanes.toList.flatMap fun v => leBytes x.ty.esz v.toNat
    let stored := x.writes.foldl (fun (t : State) (p : Nat × List Byte) => unitWrite t u p.1 p.2) s
    let here := fun (n : Nat) (v : SuiteId) (q : Fin 32) (i : Fin 128) => v = u ∧ q.val = tile n ∧ i.val = x.row
    s.cur = ⟨r, .drain⟩ → (s.room u).drain = some x → x.row < 128 → s.pkg.flips = [] →
    (answers (.dovw k) s fun t => (t.room u).drain = some x ∧ t.turns = .issue s.cur :: s.turns ∧ (∀ v, (t.suite v).ls = (s.suite v).ls) ∧
      ∀ v q i j, accGet t v q i j = if here k.toNat v q i then x.lanes.get j else accGet s v q i j) ∧
    exec (.drainDend 1) s = .next (stored.modRoom u fun q => { q with drain := none }) ∧
    (x.mode = 2 → exec (.drainDend 0) s = .next ((unitWrite stored u (x.c + x.row * x.pitch) bytes).modRoom u fun q => { q with drain := none })) ∧
    (x.mode = 0 → answers (.drainDend 0) s fun t => (t.room u).drain = none ∧ (∀ v, (t.suite v).ls = (stored.suite v).ls) ∧
      ∀ v q i j, accGet t v q i j = if here x.c v q i then x.lanes.get j else accGet s v q i j) ∧
    (x.mode = 1 → answers (.drainDend 0) s fun t => (t.room u).drain = none ∧ (∀ v, (t.suite v).ls = (stored.suite v).ls) ∧
      ∀ v q i j, accGet t v q i j =
        if here x.c v q i then
          (if x.ty = .i32 then accGet s v q i j + x.lanes.get j else rne32 (addV false (dec32 (accGet s v q i j)) (dec32 (x.lanes.get j))).1)
        else accGet s v q i j)) ∧
  (∀ (s : State) (u : SuiteId) (a : Nat) (bs : List Byte), (s.suite u).ls.wf = true →
    let t := unitWrite s u a bs
    (∀ v, (t.suite v).ls = ((lsWrite s u a bs).suite v).ls) ∧ t.pkg.mem = s.pkg.mem ∧ ∀ b, unitRead t u b 1 = unitRead s u b 1)

/-! ### Commands at the head of a queue, nests and drones -/

/-- How commands run (R213, R236, R288, R359). A head command takes its pop tokens first, all of them in one cycle, and does nothing while one is
missing, or while a clock stands still that it would act under: its Suite core's, that of a Suite whose tokens it takes, or for an M command but MWING a member room's.
MNEST, MFMT, MDRN, DLOOK, DEND and, once no C command runs, CPYQ then have their effect and complete: they leave the queue, push their token and
increment their done semaphore in one cycle, which waits for room for the push. So does a running command that waits for its push alone. -/
def Obligations.CommandsRun : Prop :=
  ∀ (s : State) (u : SuiteId) (c : Cmd),
    let quick := fun (o : CmdOp) => match o with | .mnest .. | .mfmt .. | .mdrn .. | .dlook _ | .dend => true | _ => false
    let heads : List (Instr × Engine × (CmdOp → Bool)) :=
      [(.commandCompletion u 0, .m, quick), (.commandCompletion u 1, .c, (· == .cpyq)), (.mgoStart u, .m, (· == .mgo)),
       (.reshapeEffect u, .m, fun o => match o with | .mwing _ => true | _ => false),
       (.dstartEffect u, .m, fun o => match o with | .dstart .. => true | _ => false),
       (.dfeedHead u, .m, fun o => match o with | .dfeed .. => true | _ => false),
       (.ddrnHead u, .m, fun o => match o with | .ddrn _ => true | _ => false),
       (.cpyStart u, .c, fun o => match o with | .cpy _ => true | _ => false)]
    let complete := fun (t : State) (e : Engine) (d : Cmd) => if pushRoom t u e d then completeCmd (dropHead t u e) u e d
      else setHead t u e { d with status := .complete }
    (∀ i e mine, (i, e, mine) ∈ heads → headOf s u e = some c → mine c.op = true → c.status = .queued →
      (popsReady s u e c = false ∨ (s.suite u).stopped = true ∨ c.trapLevel ≠ 0 ∨ roomsWait s u e c = true → exec i s = .next s) ∧
      (popsReady s u e c = true → (s.suite u).stopped = false → c.trapLevel = 0 → roomsWait s u e c = false →
        exec i s = exec i (setHead (takePops s u e c) u e { c with status := .popped }))) ∧
    (∀ e, roomsWait s u e c = true ↔ e = .m ∧ (∀ n, c.op ≠ .mwing n) ∧ ∃ v, v ∈ members s u ∧ (s.room v).stopped = true) ∧
    ((s.suite u).stopped = false → c.trapLevel = 0 → c.status = .popped →
      (headOf s u .m = some c → roomsWait s u .m c = false →
        let mset := fun (f : NestSet → NestSet) => exec (.commandCompletion u 0) s = .next (complete
          (s.modRoom u fun x => { x with shadow := x.shadow.set c.bank.val (f (x.shadow.get c.bank)) c.bank.isLt }) .m c)
        (∀ sel bs, c.op = .mnest sel bs → mset fun n => setTable n (if 6 ≤ sel then 0 else 64 + 64 * sel) bs) ∧
        (∀ mask bs, c.op = .mfmt mask bs → mset fun n =>
          { n with fmts := Vector.ofFn fun i => if mask.getLsbD i.val then BitVec.ofNat 16 (fieldAt bs (2 * i.val) 2) else n.fmts.get i }) ∧
        (∀ p b, c.op = .mdrn p b → mset fun n => { n with prog := p, dbase := b }) ∧
        (∀ l, c.op = .dlook l → exec (.commandCompletion u 0) s = .next (complete (dlookEffect u l s) .m c)) ∧
        (c.op = .dend → exec (.commandCompletion u 0) s = .next (complete (dendEffect u s) .m c))) ∧
      (headOf s u .c = some c → c.op = .cpyq →
        ((s.suite u).crun = [] → exec (.commandCompletion u 1) s = .next (complete s .c c)) ∧
        ((s.suite u).crun ≠ [] → exec (.commandCompletion u 1) s = .next s))) ∧
    (∀ k, c.status = .complete → (s.suite u).mrun[k]? = some c → exec (.commandCompletion u (k + 2)) s =
      .next (if pushRoom s u .m c then completeCmd (s.modSuite u fun x => { x with mrun := x.mrun.eraseIdx k }) u .m c else s)) ∧
    (∀ k, c.status = .complete → (s.suite u).crun[k]? = some c → exec (.commandCompletion u (k + 2 + (s.suite u).mrun.length)) s =
      .next (if pushRoom s u .c c then completeCmd (s.modSuite u fun x => { x with crun := x.crun.eraseIdx k }) u .c c else s))

/-- The start of a nest (R217, R198, R202): in a cycle with RCYC mod 8 = 0, on a running wing whose earlier nests have no step to enter, the issuing
bank's shadow set becomes the active set of every member room; a check that fails traps and starts nothing; otherwise the nest runs, ROOMSTAT[1]
is set and NBEAT is 0 in every member, and on an idle wing every psum is zero (R195). A reshape (R211, R212, R218) traps WINGV on a foreign or stopped room, waits for idle rooms, and then gives every
room of the envelope its place in its sub-wing and completes. A halted wing goes on in the first cycle with the halt's phase in which its clocks run, once
every trap of the halt is released (R288, R377). -/
def Obligations.NestsStart : Prop :=
  ∀ (s : State) (u : SuiteId) (c : Cmd) (rest : List Cmd),
    let i : Instr := .mgoStart u
    let rooms := (s.room u).runs
    let may := wingLive s u = true ∧ (s.room u).drone.active = false ∧ rcycOf s u % 8 = 0 ∧
      ∀ r ∈ rooms, r.drone = false ∧ r.total ≤ r.nextStep ∧ r.nextEntry ≤ r.beat
    let n := (s.room u).shadow.get c.bank
    let s1 := (members s u).foldl (fun t v => t.modRoom v fun x => { x with active := n }) s
    let popped := (s.suite u).mq = c :: rest ∧ c.status = .popped ∧ c.trapLevel = 0 ∧ (s.suite u).stopped = false
    let h := (s.room u).halt
    let restarts := h.halted = true ∧ h.held = [] ∧ rcycOf s u % 8 = h.phase ∧ ∀ v ∈ members s u, (s.room v).stopped = false
    (popped → c.op = .mgo →
      (¬ may → exec i s = .next s) ∧
      (may → (∀ v, ((s1.room v).active = if v ∈ members s u then n else (s.room v).active)) ∧
        (∀ cause v, startCheck s1 u c n = some (cause, v) → exec i s = .next (headTrap s1 u .m c cause v)) ∧
        (startCheck s1 u c n = none → answers i s fun t =>
          (t.suite u).mq = rest ∧ (t.suite u).mrun = (s.suite u).mrun ++ [{ c with status := .running }] ∧
          (t.room u).runs = rooms ++ [newRun c false n (nestTotal n) s.cycle] ∧
          (∀ v, v ∈ members s u → (t.room v).active = n ∧ (t.room v).busy = true ∧ (t.room v).nbeat = 0 ∧ (t.room v).aShift = (0, 0) ∧ (t.room v).bShift = (0, 0) ∧
            (rooms = [] → ∀ i j : Fin 128, (((t.room v).pes.get i).get j).acc = 0)) ∧
          (∀ v, v ∉ members s u → v ≠ u → t.room v = s.room v) ∧ t.pkg = s.pkg ∧ t.tenants = s.tenants ∧ t.ctxs = s.ctxs))) ∧
    (∀ shape, popped → c.op = .mwing shape →
      let env := envelopeOf s (.bank u c.bank)
      let all := wingRooms env.1 env.2
      let bad := all.any fun v => !owns s (tenantOf s (.bank u c.bank)) v || (s.room v).stopped
      (bad = true → exec (.reshapeEffect u) s = .next (headTrap s u .m c 0x42 0)) ∧
      (bad = false → all.all (roomIdle s u) = false → exec (.reshapeEffect u) s = .next s) ∧
      (bad = false → all.all (roomIdle s u) = true → c.tok.pushEn = 0 → c.discard = false → answers (.reshapeEffect u) s fun t =>
        (∀ v, v ∈ all →
          (t.room v).wingShape.val = shape % 9 ∧ (t.room v).wingLead = roomAt env.1
            ((roomRow v - roomRow env.1) / shapeRows shape * shapeRows shape) ((roomCol v - roomCol env.1) / shapeCols shape * shapeCols shape)) ∧
        (∀ v, v ∉ all → t.room v = s.room v) ∧ (t.suite u).mq = rest ∧ (t.suite u).mrun = (s.suite u).mrun ∧
        doneIn s t (.bank u c.bank) c.kind c.dn)) ∧
    (restarts → answers (.haltRestart u) s fun t =>
      (∀ v, t.room v = if v ∈ members s (leadOf s u) then { s.room v with halt := Halt.reset } else s.room v) ∧ t.suites = s.suites ∧ t.pkg = s.pkg) ∧
    (¬ restarts → exec (.haltRestart u) s = .next s)

/-- A beat of the only nest of a wing (R82, R193, R194, R200, R292, R380). PE (i, j) of the wing combines in the beat the step that entered i + j beats
before, element i of its A slice with element j of its B slice, by the step of its class, and keeps its accumulator where there is none; NBEAT
counts. The next step that is due enters with the slices of the feeders' next slots, and where none are staged with those at a_addr and b_addr of the Local
Stores of the west and north rooms, moved as a loaded image says (R309), which are staged in this very beat. An entry that names no class halts the wing and traps FMTINV, and then no PE combines. -/
def Obligations.NestBeats : Prop :=
  ∀ (s : State) (u : SuiteId) (r : WingRun), (s.room u).runs = [r] → nestRuns s u = true →
    let half := fun (l : List Byte) (n : Nat) => (l.getD (2 * n + 1) 0 ++ l.getD (2 * n) 0 : W16)
    let combined := fun (st : StepRec) (acc : W32) (a b : W16) =>
      let mul := fun (x y : Nat) => (mulV (dec x st.aFmt) (dec y st.bFmt)).1
      let int := fun (f : Fmt) (x : Nat) => if f = .u8 then (x : Int) else (BitVec.ofNat 8 x).toInt
      match st.cls with
      | 0 => rne32 (addV false (dec32 acc) (mul a.toNat b.toNat)).1
      | 1 => rne32 (addV false (dec32 acc) (addV false (mul (a.toNat % 256) (b.toNat % 256)) (mul (a.toNat / 256) (b.toNat / 256))).1).1
      | _ => BitVec.ofInt 32 (acc.toInt + int st.aFmt (a.toNat % 256) * int st.bFmt (b.toNat % 256)
          + int st.aFmt (a.toNat / 256) * int st.bFmt (b.toNat / 256))
    (∀ q i, wingFails s u = some (q, i) → exec (.nestBeat u) s = .next (haltFmt s u q i)) ∧
    (wingFails s u = none → answers (.nestBeat u) s fun t =>
      (∀ v, v ∈ members s u → ∀ i j : Fin 128,
        let row := roomRow v - roomRow u
        let col := roomCol v - roomCol u
        let away := 128 * row + 128 * col + i.val + j.val
        let acc := fun (x : State) => (((x.room v).pes.get i).get j).acc
        let here := if r.beat < away then none else r.steps.find? fun st => st.entry == r.beat - away
        away ≠ 0 ∨ stepDue r = false →
          (here = none → acc t = acc s) ∧
          (∀ st, here = some st → st.cls < 3 →
            acc t = combined st (acc s) (half (st.aSlices.getD row []) i.val) (half (st.bSlices.getD col []) j.val))) ∧
      (∀ v, v ∈ members s u → (t.room v).nbeat = BitVec.ofNat 32 (r.beat + 1)) ∧
      ∃ q, (t.room u).runs = [q] ∧ q.beat = r.beat + 1 ∧
        (stepDue r = false → q.nextStep = r.nextStep) ∧
        (stepDue r = true → q.nextStep = r.nextStep + 1 ∧
          ∃ st, st ∈ q.steps ∧ st.entry = r.beat ∧
            let k := if st.cls = 3 then 4 else 1
            ∀ m n, (∀ v, v ∈ westRooms s u → stagedIn (s.room v).aFeed (s.room v).aNext m) →
              (∀ v, v ∈ northRooms s u → stagedIn (s.room v).bFeed (s.room v).bNext n) →
              stepClass s r r.nextStep = ftClass (featOn s 1) (nextStepOf r).ft →
              (r.nextStep < r.staged → k ≤ m → 1 ≤ n →
                st.aSlices = (westRooms s u).map (fun v => slotBytes (s.room v).aFeed (s.room v).aNext k) ∧
                st.bSlices = (northRooms s u).map (fun v => slotBytes (s.room v).bFeed (s.room v).bNext 1)) ∧
              (r.staged = r.nextStep → m = 0 → n = 0 →
                let at1 := fun (addr : List Nat → Int) (shift : Int × Int) =>
                  (addr (splitIndex (nestTrips r.set) ((r.nextStep : Int) + shift.1).toNat) + shift.2).toNat
                st.aSlices = (westRooms s u).map (fun v => lsRead s v (at1 (nestA r.set) (s.room v).aShift) (256 * k)) ∧
                st.bSlices = (northRooms s u).map (fun v => lsRead s v (at1 (nestB r.set) (s.room v).bShift) 256))))

/-- The row of a room that is due in the beat leaves its PEs, which become zero (R195-R197, R250). Without a drain program its words reach the main
destination: over row i' of tile c, added to it, or as bytes at c + c_pitch * i' of the Local Store; with one, the row stands before the program's
first micro-op, whose turn comes in the same cycle. Where no row is due, nothing changes. -/
def Obligations.RowsDrain : Prop :=
  ∀ (s : State) (v : SuiteId),
    let lead := leadOf s v
    let runs := nestRuns s lead = true ∧ wingFails s lead = none
    (¬ runs ∨ rowDue s v = none → exec (.drainRow v) s = .next s) ∧
    (∀ r q k im, runs → rowDue s v = some (r, q, k) → cmdImage s r.cmd = some im → s.pkg.flips = [] → ∀ h : k < 128,
      let i : Fin 128 := ⟨k, h⟩
      let psum := fun (x : State) (j : Fin 128) => (((x.room v).pes.get i).get j).acc
      let c := q.c.getD 0
      let tile := if r.cmd.dual then 16 * r.cmd.bank.val + c % 16 else c % 32
      let mode := runMode s lead r
      let row := ((s.room v).pes.get i).map (·.acc)
      (8 ≤ r.set.prog.toNat → answers (.drainRow v) s fun t => (∀ j, psum t j = 0) ∧ (t.room v).drain = none ∧
        (mode = 2 → (t.suite v).ls = ((lsWrite s v (c + k * nestCpitch r.set) (row.toList.flatMap fun w => leBytes 4 w.toNat)).suite v).ls) ∧
        (mode ≠ 2 → (t.suite v).ls = (s.suite v).ls ∧ ∀ p f j n, accGet t p f n j =
          if p = v ∧ f.val = tile ∧ n = i then
            (if mode = 1 then (if q.int then accGet s p f n j + psum s j else rne32 (addV false (dec32 (accGet s p f n j)) (dec32 (psum s j))).1)
             else psum s j)
          else accGet s p f n j)) ∧
      (r.set.prog.toNat < 8 → answers (.drainRow v) s fun t => (∀ j, psum t j = 0) ∧
        t.turns = .issue ⟨.bank v r.cmd.bank, .drain⟩ :: s.turns ∧
        (t.room v).drainPos = (im.drains.getD r.set.prog.toNat 0).toNat * 16 ∧
        (∀ p f j n, accGet t p f n j = accGet s p f n j) ∧
        ∃ x, (t.room v).drain = some x ∧ x.lanes = row ∧ x.row = k ∧ x.c = c ∧ x.mode = mode ∧ x.writes = [] ∧
          x.ty = (if q.int then .i32 else .fp32) ∧ x.dbase = r.set.dbase.toNat ∧ x.dual = r.cmd.dual ∧ x.bank = r.cmd.bank))

/-- Drone computations (R220-R235, R384, R385). DSTART at the head of an idle wing takes the format table and starts, or traps; the chanter, once idle,
is started on the oldest demand, where that was raised in an earlier cycle; DFEED fills one side's slots of the oldest demand that lacks them, or traps, and one of a demand that was withdrawn only completes, after the end of the
computation too (that it does so then is the model's reading, log 63); DDRN names the destination of
the unit whose drain is asked for, or traps. A beat that is due and not ready is held and counted once, at the end of its cycle (R228); a ready one fires
and is counted; one held past its deadline traps MISSDL on the DSTART, once, and stops nothing. -/
def Obligations.DronesRun : Prop :=
  ∀ (s : State) (u : SuiteId) (c : Cmd) (rest : List Cmd),
    let d := (s.room u).drone
    let popped := (s.suite u).mq = c :: rest ∧ c.status = .popped ∧ c.trapLevel = 0 ∧ (s.suite u).stopped = false ∧ roomsWait s u .m c = false
    let trap := fun (i : Instr) (t : State) (cause : BitVec 8) => exec i s = .next (headTrap t u .m c cause 0)
    let isStart := fun (x : Cmd) => x.status == .running && (match x.op with | .dstart .. => true | _ => false)
    (∀ cfg cfg2, popped → c.op = .dstart cfg cfg2 →
      let i : Instr := .dstartEffect u
      let fmts := ((s.room u).shadow.get c.bank).fmts
      let cls := ftClass (featOn s 1) (fmts.get 0)
      let idle := d.active = false ∧ (s.room u).runs = [] ∧ wingLive s u = true
      let s1 := (members s u).foldl (fun t v => t.modRoom v fun x => { x with active := { x.active with fmts := fmts } }) s
      let tops := (members s u).map fun v => 0x800000 - (s.suite v).l1mib.toNat * 0x100000
      let good := ∀ im, cmdImage s c = some im →
        checkProgram im (natBits cfg.toNat 12 4) (natBits cfg2.toNat 32 32) [if cls = some 2 then .i32 else .fp32] true c.dual [] [] tops = none
      let count := natBits cfg.toNat 32 32
      let ahead := List.range (if count = 0 then d.look.toNat else min d.look.toNat count)
      (¬ idle → exec i s = .next s) ∧
      (idle → cls = none ∨ cls = some 3 → trap i s1 0x44) ∧
      (idle → ∀ k, cls = some k → k ≠ 3 → good → answers i s fun t =>
        let e := (t.room u).drone
        e.active = true ∧ e.fixed = false ∧ e.held = false ∧ e.dbeat = 0 ∧ e.dmiss = 0 ∧ e.dstep = 0 ∧ e.dcfg = cfg ∧ e.dcfg2 = cfg2 ∧
        e.feedOpen = ahead ∧ e.withdrawnA = 0 ∧ e.withdrawnB = 0 ∧ e.drainOpen = none ∧ e.queue = d.queue ++ ahead.map (fun n => BitVec.ofNat 64 (n % 2 ^ 32)) ∧
        (t.suite u).chanter.c = Vector.replicate 8 0 ∧ (t.suite u).mq = rest ∧
        (∀ v, v ∈ members s u → (t.room v).busy = true ∧ (t.room v).active.fmts = fmts ∧
          ∀ n, ((t.room v).aFeed.get n).full = false ∧ ((t.room v).bFeed.get n).full = false) ∧
        ∃ r, (t.room u).runs = [r] ∧ r.drone = true ∧ r.beat = 0 ∧ r.nextStep = 0)) ∧
    (let y := s.suite u
     let may := y.chanter.busy = false ∧ y.chanter.trapped = false ∧ y.stopped = false ∧ (s.room u).stopped = false
     let older := d.queue.take (d.queue.length - d.queueNew)
     (older = [] ∨ ¬ may → exec (.demandVector u) s = .next s) ∧
     (∀ q l im, may → older ≠ [] → d.queue = q :: l → imageOf s (.bank u y.chanter.bank) = some im → answers (.demandVector u) s fun t =>
       (t.room u).drone.queue = l ∧ (t.room u).drone.ddem = q ∧ (t.suite u).chanter.busy = true ∧
       (t.suite u).chanter.pos = im.entryCh.toNat * 16 ∧
       ∀ n : Fin 8, (t.suite u).chanter.c.get n = if n = 7 then q else y.chanter.c.get n)) ∧
    (∀ src ctl, popped → c.op = .dfeed src ctl → c.tok.pushEn = 0 → c.discard = false →
      let i : Instr := .dfeedHead u
      let b := ctl.getLsbD 0
      let tile := ctl.getLsbD 1
      let fed := if b then northRooms s u else westRooms s u
      let ls := fun (v : SuiteId) => src.toNat + 256 ≤ 0x800000 - (s.suite v).l1mib.toNat * 0x100000
      let open1 := d.feedOpen.find? fun k => !sideFull s u b k
      let left := if b then d.withdrawnB else d.withdrawnA
      (∀ v, v ∈ fed → (s.suite v).stopped = false ∧ (s.room v).stopped = false) →
        (tile = false → src.toNat % 256 ≠ 0 → trap i s 0x23) ∧
        (tile = false → src.toNat % 256 = 0 → (∃ v, v ∈ fed ∧ ¬ ls v) → trap i s 0x22) ∧
        (tile = true ∨ (src.toNat % 256 = 0 ∧ ∀ v, v ∈ fed → ls v) →
          (d.fixed = true ∨ (open1 = none ∧ left ≠ 0) → answers i s fun t => (t.suite u).mq = rest ∧ doneIn s t (.bank u c.bank) c.kind c.dn ∧
            (∀ v, v ≠ u → t.room v = s.room v) ∧
            t.room u = { s.room u with drone := if b then { d with withdrawnB := left - 1 } else { d with withdrawnA := left - 1 } }) ∧
          (d.fixed = false → open1 = none → left = 0 → trap i s 0x45) ∧
          (∀ k, d.fixed = false → open1 = some k → answers i s fun t =>
            (t.suite u).mq = rest ∧ doneIn s t (.bank u c.bank) c.kind c.dn ∧
            (∀ v, v ∈ fed → (if b then (t.room v).bFeed else (t.room v).aFeed).get ⟨k % 64, Nat.mod_lt _ (by decide)⟩ =
              ⟨true, if tile then ((readTile s v (physTile s (.bank v c.bank) (src.setWidth 6))).get ⟨natBits src.toNat 8 7, Nat.mod_lt _ (by decide)⟩).toList
                else lsRead s v src.toNat 256⟩) ∧
            (t.room u).drone.feedOpen = if sideFull s u (!b) k then d.feedOpen.filter (· != k) else d.feedOpen))) ∧
    (∀ k, popped → c.op = .ddrn k →
      let ops := match (s.room u).runs.head?, cmdImage s c with | some r, some im => programOps im r.set.prog.toNat | _, _ => []
      let clash := !endsNomain ops && (dovwTiles ops).any fun t => t % 8 == k % 8
      (d.drainOpen = none → trap (.ddrnHead u) s 0x45) ∧
      (∀ n, d.drainOpen = some n → clash = true → trap (.ddrnHead u) s 0x41) ∧
      (∀ n, d.drainOpen = some n → clash = false → answers (.ddrnHead u) s fun t =>
        (t.room u).drone.drainOpen = none ∧ (t.suite u).mq = rest ∧ (t.suite u).mrun = (s.suite u).mrun ++ [{ c with status := .running }] ∧
        ((t.room u).runs.map fun r => r.units.map fun q => (q.unitNo, q.c)) =
          (s.room u).runs.map fun r => r.units.map fun q => (q.unitNo, if q.unitNo = n then some k else q.c))) ∧
    (∀ r, droneRun s u = some r →
      let due := r.beat ≠ 0 ∧ d.sinceBeat = d.period ∧ d.held = false ∧ beatReady s u r = false
      let late := d.deadline ≠ 0 ∧ d.held = true ∧ d.missRaised = false ∧ d.sinceBeat = d.period + d.deadline * d.period
      (due → exec (.beatDue u) s = .next (modDrone s u fun e => { e with missNow := true })) ∧
      (∀ run, (closeDrone run { d with missNow := true }).held = true ∧ (closeDrone run { d with missNow := true }).dmiss = d.dmiss + 1) ∧
      (¬ due → exec (.beatDue u) s = .next s) ∧
      (beatFires s u = false → exec (.droneBeat u) s = .next s) ∧
      (beatFires s u = true → answers (.droneBeat u) s fun t =>
        let e := (t.room u).drone
        e.dbeat = d.dbeat + 1 ∧ e.held = false ∧ e.sinceBeat = 0 ∧ e.dmiss = d.dmiss ∧
        e.dstep = if feedBeat d r then d.dstep + 1 else d.dstep) ∧
      (¬ late → exec (.missdl u) s = .next s) ∧
      (∀ n x, late → findRunning s u .m isStart = some n → (s.suite u).mrun[n]? = some x → x.trapLevel = 0 →
        exec (.missdl u) s = .next (runTrap (modDrone s u fun e => { e with missRaised := true }) u .m n 0x43 none))) ∧
    (droneRun s u = none → ∀ i, i = .beatDue u ∨ i = .droneBeat u ∨ i = .missdl u → exec i s = .next s)

/-! ### Copies, passages and collectives -/

/-- Copies (R236, R237, R239, R240, R245, R246). At most four fly at once. The last element of a copy into the Local Store is read at its translated
address, converted between the formats by the copy's own rounding and written at its Local Store address (the pad where it lies outside the segment); the
last element of a copy out of the Local Store is converted and stored, and its line leaves the Suite's L1; a row of a copy into the accumulator
store lands, set or added, in a cycle that belongs to its bank and has no drained row for it, once every word of the window has been read, those
granted before being kept, and in which such cycle the first row lands is free; the later ones follow in the next. When everything has moved
the busy count falls by one and the copy completes. (The order log is off.) -/
def Obligations.CopiesMove : Prop :=
  ∀ (s : State) (u : SuiteId) (c : Cmd) (rest : List Cmd) (j : CopyJob) (k : Nat),
    let go : Instr := .copyElementMove u k
    let flying := (s.suite u).crun.countP fun x => x.status == .running && (match x.op with | .cpy _ => true | _ => false)
    let running := (s.suite u).crun[k]? = some c ∧ c.op = .cpy j ∧ c.status = .running ∧ c.trapLevel = 0 ∧ (s.suite u).stopped = false
    let chosen := fun (x : State) => { x with fresh := x.fresh + 1 }
    let moves := fun (t : State) (m : Nat) => t.modSuite u fun x => { x with crun := x.crun.modify k fun y =>
      { y with op := .cpy { j with moved := j.moved ++ [m] } } }
    let conv := fun (a b : Fmt) (v : Nat) => if a = b then v else (cvt (dec v a) b j.rm j.satm).1
    ((s.suite u).cqueue = c :: rest → c.op = .cpy j → c.status = .popped → c.trapLevel = 0 → (s.suite u).stopped = false →
      (4 ≤ flying → exec (.cpyStart u) s = .next s) ∧
      (flying < 4 → exec (.cpyStart u) s =
        .next (s.modSuite u fun x => { x with cqueue := rest, crun := x.crun ++ [{ c with status := .running }] }))) ∧
    (∀ d s1 m, running → j.left = [m] → getDesc s c.tenant j.seg = (some d, s1) →
      let x := j.coord m
      let at1 := chosen s1
      let off := offsetOf d x
      let b : BankRef := .bank u c.bank
      d.fmt ≠ .cb4 → j.pfmt ≠ .cb4 →
        (j.store = false → j.acc = false →
          (outsideOf d x = true → touchesFed at1 u (j.lsAddr m) j.pfmt.esz = false → exec go s = .next (moves
            (lsWrite at1 u (j.lsAddr m) (leBytes j.pfmt.esz (conv d.fmt j.pfmt (natBits j.pad.toNat 0 d.fmt.width)))) m)) ∧
          (∀ bs s2, outsideOf d x = false → loadBytes at1 b c.tenant j.seg d off d.fmt.esz true true = (.ok bs, s2) →
            touchesFed s2 u (j.lsAddr m) j.pfmt.esz = false →
            exec go s = .next (moves (lsWrite s2 u (j.lsAddr m) (leBytes j.pfmt.esz (conv d.fmt j.pfmt (leNat bs)))) m))) ∧
        (j.store = true → j.acc = false → touchesFed at1 u (j.lsAddr m) j.pfmt.esz = false →
          (outsideOf d x = true → exec go s = .next (moves at1 m)) ∧
          (∀ s2, outsideOf d x = false →
            storeBytes at1 b c.tenant j.seg d off (leBytes d.fmt.esz (conv j.pfmt d.fmt (leNat (lsRead at1 u (j.lsAddr m) j.pfmt.esz)))) (u.val + 4 * 4096) true = (.ok (), s2) →
            exec go s = .next (moves (l1DropLine s2 u c.tenant j.seg (off / 64)) m)))) ∧
    (running → j.left ≠ [] → j.store = false → j.acc = true →
      let y := j.moved.length
      let bank := j.k.val % 8
      let job := fun (t : State) (j' : CopyJob) => t.modSuite u fun x => { x with crun := x.crun.modify k fun z => { z with op := .cpy j' } }
      let mine := rcycOf s u % 8 = bank ∧ (s.room u).stopped = false ∧ ¬ bank ∈ (s.room u).portRows ∧ unitDrains s u j.hold bank = false
      let s2 := if y = 0 then chosen s else s
      let waits := y = 0 ∧ Config.choice s.fresh % 2 = 1
      (∀ d s1 l m s3, j.got.length < j.size → getDesc s c.tenant j.seg = (some d, s1) →
        loadWords s1 u c j d ((List.range j.size).drop j.got.length) = (l, m, s3) → m = .wait ∨ m = .done →
        exec go s = .next (job s3 { j with got := j.got ++ l })) ∧
      (j.size ≤ j.got.length → ologMode s c.tenant = 0 →
        (¬ mine → exec go s = .next s) ∧
        (mine → waits → exec go s = .next s2) ∧
        (mine → ¬ waits → portClash s2 u bank = none → exec go s = .next (job
          (((j.got.drop (y * j.e 0)).take (j.e 0)).zipIdx.foldl (fun t p => accPutWord t u j.k ⟨(j.row0 + y) % 128, Nat.mod_lt _ (by decide)⟩
            (accPlace j (y * j.e 0 + p.2)).2 j.add (j.pfmt == .i32) p.1) (takePort s2 u j.k)) { j with moved := j.moved ++ [y] })))) ∧
    ((s.suite u).crun[k]? = some c → c.op = .cpy j → c.status = .running → (s.suite u).stopped = false →
      let n := busyCount s c.tenant j.seg
      let lower := if n = 0 then s else setBusy s c.tenant j.seg (n - 1)
      (j.left ≠ [] → exec (.cpyCompletion u k) s = .next s) ∧
      (j.left = [] → c.tok.pushEn = 0 → exec (.cpyCompletion u k) s =
        .next (completeCmd (lower.modSuite u fun x => { x with crun := x.crun.eraseIdx k }) u .c c)))

/-- Passages between the dies of the package (R266-R270). A PSEND whose passage is not open to its tenant traps PASSERR; otherwise it takes a credit while
one is left, at a time the device chooses, and reserves the next slot, which its operand fills at a time of its own once the slots before are full. A
PRECV takes the oldest full slot, writes its 32 KiB, and returns the credit, but for a slot whose credit a reset has returned already (R417). (With the order log on, R337 adds its own waits.) -/
def Obligations.PassagesMove : Prop :=
  ∀ (s : State) (u : SuiteId) (c : Cmd) (rest : List Cmd) (a ctl : Word) (k id : Nat) (data : Tile),
    let no : Fin 8 := ⟨ctl.toNat % 8, Nat.mod_lt _ (by decide)⟩
    let sb := sendBoundary u
    let rb := recvBoundary u
    let sat := slotBoundary s sb no
    let passage := fun (t : State) (b : Fin 5) => (t.pkg.passages.get b).get no
    let popped := (s.suite u).cqueue = c :: rest ∧ c.status = .popped ∧ c.trapLevel = 0 ∧ (s.suite u).stopped = false
    let running := fun (o : CmdOp) (d : Tile) => (s.suite u).crun[k]? = some c ∧ c.op = o ∧ c.slot = some (id, d) ∧ c.status = .running ∧
      c.trapLevel = 0 ∧ (s.suite u).stopped = false
    let later := { s with fresh := s.fresh + 1 }
    let waits := Config.choice s.fresh % 2 = 1
    let starts := fun (t : State) (d : Nat × Tile) => t.modSuite u fun x =>
      { x with cqueue := rest, crun := x.crun ++ [{ c with status := .running, slot := some d }] }
    let ends := fun (t : State) => completeCmd (t.modSuite u fun x => { x with crun := x.crun.eraseIdx k }) u .c c
    let tile := c.tile (a.toNat % 64)
    (popped → c.op = .psend a ctl →
      let x := passage s sat
      (passageOk s sb no c.tenant = false → exec (.psendCredit u) s = .next (headTrap s u .c c 0x4a 0)) ∧
      (passageOk s sb no c.tenant = true → x.depth ≤ x.used → exec (.psendCredit u) s = .next s) ∧
      (passageOk s sb no c.tenant = true → x.used < x.depth → ologMode s c.tenant = 0 → exec (.psendCredit u) s =
        .next (if waits then later else starts (modPassage later sat no fun y =>
          { y with slots := y.slots ++ [(y.nextSlot, none)], nextSlot := y.nextSlot + 1, used := y.used + 1 }) (x.nextSlot, Tile.zero)))) ∧
    (running (.psend a ctl) data → c.tok.pushEn = 0 → sb.val < 3 →
      let before := (passage s sb).slots.takeWhile fun q => q.1 != id
      (before.any (fun q => q.2.isNone) = true → exec (.psendCompletion u k) s = .next later) ∧
      (before.any (fun q => q.2.isNone) = false →
        (ctl.getLsbD 8 = true ∨ touchesFed s u a.toNat 32768 = false) → exec (.psendCompletion u k) s =
          .next (if waits then later else ends (modPassage later sb no fun x =>
            { x with slots := x.slots.map fun q => if q.1 = id then
                (id, some (if ctl.getLsbD 8 then readTile s u tile else tileOfBytes (lsRead s u a.toNat 32768))) else q })))) ∧
    (popped → c.op = .precv a ctl →
      (passageOk s rb no c.tenant = false → exec (.precvSlot u) s = .next (headTrap s u .c c 0x4a 0)) ∧
      (∀ n d more, passageOk s rb no c.tenant = true → (passage s rb).slots = (n, some d) :: more →
        exec (.precvSlot u) s = .next (starts (modPassage s rb no fun x => { x with slots := more }) (n, d))) ∧
      (passageOk s rb no c.tenant = true → (∀ n d more, (passage s rb).slots ≠ (n, some d) :: more) → exec (.precvSlot u) s = .next s)) ∧
    (running (.precv a ctl) data → c.tok.pushEn = 0 → rb.val < 4 →
      let written := if ctl.getLsbD 8 then setTile later u tile data else lsWrite later u a.toNat (bytesOfTile data)
      let put := if id = noSlot then written else modPassage written rb no fun x => { x with used := x.used - 1 }
      (ctl.getLsbD 8 = false → touchesFed s u a.toNat 32768 = true → exec (.precvCompletion u k) s =
        .next (if waits then later else runTrap later u .c k 0x40 none)) ∧
      (ctl.getLsbD 8 = true ∨ touchesFed s u a.toNat 32768 = false → exec (.precvCompletion u k) s = .next (if waits then later else ends put)))

/-- Collectives (R271-R278, R382, R437). A COLL at the head waits for its reads, takes its semaphore, or waits for it, and its rank arrives at the next instance of its record;
a rank that breaks the rules abandons the instance; the last arrival fixes T0. A row of a step is what its operation makes of the source's words,
converted to the wire format where the ranks differ: PUT writes it to the block of dst in the Local Store, SET, ADD and ADDT set it in or add it to the
accumulator window of dst, in a cycle of the tile's bank and when the device chooses to begin. When every step has completed the
instance closes, its semaphore is posted, and its COLLs complete. -/
def Obligations.CollectivesRun : Prop :=
  (∀ (s : State) (u : SuiteId) (c : Cmd) (rest : List Cmd) (off rank : Nat) (given : Option Nat) (h : List Byte) (recs : List (List Byte)) (s0 : State),
    let seg := imageSegOf s (.bank u c.bank)
    let wcs := fieldAt h 0x10 1
    let sem : Fin 16 := ⟨wcs % 16, Nat.mod_lt _ (by decide)⟩
    let s1 := if wcs.testBit 4 then takeCs s0 c.tenant sem else s0
    let j := joinInst s1 c.tenant seg off u (some (h, recs))
    (s.suite u).cqueue = c :: rest → c.op = .coll off rank given → c.status = .popped → c.trapLevel = 0 → (s.suite u).stopped = false →
    (readRecord s u c.dual c.tenant seg off = (.wait, s0) → exec (.collArrival u) s = .next s0) ∧
    (readRecord s u c.dual c.tenant seg off = (.ok (some (h, recs)), s0) →
      (wcs.testBit 4 = true → (s0.tenant c.tenant).cs.get sem = 0 → exec (.collArrival u) s = .next s0) ∧
      (∀ x, wcs.testBit 4 = false ∨ (s0.tenant c.tenant).cs.get sem ≠ 0 → j.2.pkg.colls[j.1]? = some x →
        (arrivalBad x u rank = true → x.abandoned = false → answers (.collArrival u) s fun t =>
          (t.suite u).cqueue = rest ∧ ∃ y, t.pkg.colls[j.1]? = some y ∧ y.abandoned = true ∧ y.ranks = x.ranks) ∧
        (arrivalBad x u rank = false → x.scope ≠ 3 → answers (.collArrival u) s fun t =>
          (t.suite u).cqueue = rest ∧
          (t.suite u).crun = (s.suite u).crun ++ [{ c with op := .coll off rank (some j.1), status := .running }] ∧
          ∃ y, t.pkg.colls[j.1]? = some y ∧ y.ranks = x.ranks ++ [(rank, u)] ∧ y.abandoned = false ∧
            (x.t0 = none → 0 < x.nrank → x.nrank ≤ x.ranks.length + 1 + x.remote.length → y.t0 = some 0))))) ∧
  (∀ (s : State) (i n op src dst time : Nat) (x : CollInst) (us ud : SuiteId), s.pkg.colls[i]? = some x →
    let y := (progressOf x n).1
    let hold := (progressOf x n).2
    let blk := fun (u : SuiteId) (col : Nat) => (BitVec.ofNat 32 (leNat (lsRead s u (x.lsAddr + 512 * y + 4 * col) 4)) : W32)
    let acc := fun (u : SuiteId) (col : Nat) => accGet s u (rankTile s x i u) ⟨y % 128, Nat.mod_lt _ (by decide)⟩ ⟨col % 128, Nat.mod_lt _ (by decide)⟩
    let sent := fun (col : Nat) => let v := if op ≤ 1 then blk us col else acc us col
      if src ≠ dst ∧ x.int = false then BitVec.ofNat 32 (cvt (dec (cvt (dec32 v) x.wire 0 false).1 x.wire) .fp32 0 false).1 else v
    let row := (List.range x.cols).map sent
    (instRuns s x = false → exec (.collStep i) s = .next s) ∧
    (instRuns s x = true → (List.range x.steps.length).filter (stepReady s x) = [n] → x.steps[n]? = some (op, src, dst, time) →
      rankSuite x src = some us → rankSuite x dst = some ud → partStopped s us = false → s.pkg.flips = [] →
      (op = 3 → partStopped s ud = false → exec (.collStep i) s =
        .next (rowDone (lsWrite s ud (x.lsAddr + 512 * y) (row.flatMap fun v => leBytes 4 v.toNat)) x i n y)) ∧
      (∀ kk c, op ≤ 2 → collCmd s ud i = some kk → (s.suite ud).crun[kk]? = some c → c.trapLevel = 0 → ologMode s x.tenant = 0 →
        let k := c.accTile x.acck
        let bank := k.val % 8
        let mine := rcycOf s ud % 8 = bank ∧ (s.room ud).stopped = false ∧ paused s ud = false ∧ ¬ bank ∈ (s.room ud).portRows ∧ unitDrains s ud hold bank = false
        let later := if y = 0 then { s with fresh := s.fresh + 1 } else s
        (¬ mine → exec (.collStep i) s = .next s) ∧
        (mine → portClash s ud bank = none → exec (.collStep i) s = .next (if y = 0 ∧ Config.choice s.fresh % 2 = 1 then later else
          rowDone (row.zipIdx.foldl (fun t p => accPutWord t ud k ⟨y % 128, Nat.mod_lt _ (by decide)⟩ ⟨p.2 % 128, Nat.mod_lt _ (by decide)⟩
            (op != 0) x.int p.1) (takePort later ud k)) x i n y))))) ∧
  (∀ (s : State) (i r : Nat) (x : CollInst) (u : SuiteId), s.pkg.colls[i]? = some x →
    (x.abandoned = false → x.closed = true ∨ instRuns s x = false ∨ x.doneSteps.length < x.steps.length →
      exec (.collInstanceCompletion i) s = .next s) ∧
    (∀ k c, instRuns s x = true → x.closed = false → x.steps.length ≤ x.doneSteps.length → x.ranks = [(r, u)] → collCmd s u i = some k →
      (s.suite u).crun[k]? = some c → c.trapLevel = 0 → c.status = .running → c.tok.pushEn = 0 → c.discard = false → (s.suite u).stopped = false → paused s u = false →
      answers (.collInstanceCompletion i) s fun t =>
        t.pkg.colls = s.pkg.colls.modify i (fun y => { y with closed := true }) ∧ (t.suite u).crun = (s.suite u).crun.eraseIdx k ∧
        doneIn s t (.bank u c.bank) c.kind c.dn ∧
        ∀ tn, (t.tenant tn).cs = match x.post with
          | some n => if tn = x.tenant then ((postCs s tn ⟨n % 16, Nat.mod_lt _ (by decide)⟩).tenant tn).cs else (s.tenant tn).cs
          | none => (s.tenant tn).cs))

/-! ### Scan -/

/-- The scan instructions at issue (R297, R299-R301, R303). SCNSTOP, SCNRUN and SCNQ trap ILLFLD on malformed words and PROT where a context that is
not the hypervisor names an acting tenant; SCNOUT and SCNIN trap as their descriptor, list and buffer say; otherwise the command joins the context's
commands. A descriptor that is well formed, with a list of distinct segments and a buffer that is long enough, aligned and accessible, is accepted. -/
def Obligations.ScanCommandsIssue : Prop :=
  ∀ (d s1 s2 : BitVec 5) (dn w : BitVec 4) (s : State) (c : CtxId), s.cur.bank = .ctx c →
    let ag := s.cur
    let x := readA s ag s1
    let y := readA s ag s2
    let t := ctxTenant s c
    let tsel := y.getLsbD 8
    let joins := fun (op : ScanOp) (rooms ctl : Word) (acting : TenantId) (buf : Word) (es : List SegEntry) =>
      (issued s w).modCtx c fun z => { z with scans := z.scans ++ [newScan op d dn rooms ctl acting buf es] }
    let traps := fun (i : Instr) (cause : BitVec 8) (v : Word) => trapsAs s i cause v (posOf s ag)
    let acting := if tsel then (⟨y.toNat % 64, Nat.mod_lt _ (by decide)⟩ : TenantId) else t
    let named := fun (i : Instr) (op : ScanOp) (rooms : Word) (bad : Prop) (es : List SegEntry) => free s i w →
      (bad → traps i 0x02 0) ∧ (¬ bad → tsel = true → c ≠ hypervisor → traps i 0x22 0) ∧
      (ready s i w → ¬ bad → tsel = false ∨ c = hypervisor → exec i s = .next (joins op rooms y acting 0 es))
    let words := x = 0 ∨ y &&& ~~~0xffffffff0007013f ≠ 0 ∨ (y.getLsbD 16 = false ∧ y.getLsbD 17 = false) ∨ (y.getLsbD 18 = true ↔ y.toNat < 2 ^ 32) ∨
      (tsel = false ∧ y.toNat % 64 ≠ 0)
    let moves := fun (i : Instr) (op : ScanOp) (out : Bool) => free s i w →
      (∀ e v, prepare s c out x = .trap e v → traps i e v) ∧
      (∀ u buf es, ready s i w → prepare s c out x = .cmd u buf es → exec i s = .next (joins op 0 0 u buf es)) ∧
      (prepare s c out x = .hold → exec i s = .next (markHeld s ag ⟨false, false⟩))
    named (.scnstop d s1 s2 dn w) .stop x words [] ∧
    named (.scnrun d s1 s2 dn w) .run x (words ∨ y.getLsbD 18 = true) [] ∧
    named (.scnq d s1 s2 dn w) .query 0 (segOk x.toNat = false ∨ y &&& ~~~0x13f ≠ 0 ∨ (tsel = false ∧ y.toNat % 64 ≠ 0)) [⟨BitVec.ofNat 32 x.toNat, false⟩] ∧
    moves (.scnout d s1 dn w) .out true ∧ moves (.scnin d s1 dn w) .inp false ∧
    (∀ (out : Bool) (l ids : List Byte) (q1 q2 : State), x.toNat % 8 = 0 → x.toNat < 2 ^ 52 → loadVa s t x.toNat 32 = (.ok l, q1) →
      let n := fieldAt l 0x18 2
      let list := BitVec.ofNat 64 (fieldAt l 0 8)
      let buf := BitVec.ofNat 64 (fieldAt l 8 8)
      let es : List SegEntry := (List.range n).map fun k => let v := fieldAt ids (4 * k) 4; ⟨BitVec.ofNat 32 (v / 2 * 2), v.testBit 0⟩
      let need := (es.map imageSize).sum
      fieldAt l 0x1b 1 = 0 → fieldAt l 0x1c 4 = 0 → 1 ≤ n → n ≤ 1024 → list.toNat % 4 = 0 → list.toNat < 2 ^ 52 →
      loadVa s t list.toNat (4 * n) = (.ok ids, q2) → (∀ e, e ∈ es → segOk e.id.toNat = true) → (es.map (·.id)).Nodup →
      need ≤ fieldAt l 0x10 8 → buf.toNat % 64 = 0 → (rangeAccess s t buf.toNat need out).1 = .ok () → prepare s c out x = .cmd t buf es)

/-- How the scan controller runs a context's commands (R289, R297-R303, R317, R411, R413). A room of the mask that the acting tenant does not own refuses
a stop or a restart with NOTOWN and the room; an immediate stop names its clocks for the end of the cycle and completes once every named core is at
rest or has been started again; a stop at a beat waits, and then stops its clocks; a restart waits for the phase of its first stopped room, starts the named clocks together, and
completes; a query answers at once; a SCNIN that nothing refuses reads each line of its images once, as the slice ports grant it, and is then refused for what
they hold or shifts; a shift takes its flue cycles at the port of each Suite it names, then loads its image, or unloads it and writes its lines as the ports
grant them, at a time the device chooses, and completes, with SCNCRC where parity failed. That commands of two contexts share a port lowest context first is
the model's choice (log 31). A completion writes the result word to a[d], counts the done field, and posts a scan event, except for a query. -/
def Obligations.ScanCommandsRun : Prop :=
  ∀ (s : State) (c : CtxId) (x : ScanCmd) (rest : List ScanCmd), (s.ctx c).scans = x :: rest →
    let take := exec (.scanControllerTake c) s
    let ends := fun (t : State) (word : Word) => finishScan t c 0 word
    let mask := (List.finRange 64).filter fun u => x.rooms.getLsbD u.val
    let rooms := extendRooms s mask
    let foreign := mask.find? fun u => !owns s x.acting u
    let free := foreign = none ∧ ∀ u, u ∈ rooms → heldByStop s c u = false
    let clocks := (rooms.map fun u => (u, x.ctl.getLsbD 16, x.ctl.getLsbD 17))
    let asked := fun (t : State) (l : List (SuiteId × Bool × Bool)) => t.modPkg fun p => { p with stopReq := p.stopReq ++ l }
    let becomes := fun (t : State) (z : ScanCmd) => t.modCtx c fun y => { y with scans := z :: rest }
    let roomsWord := roomsMask rooms
    (∀ word, let t := ends s word
      (t.ctx c).scans = rest ∧ (t.bank (.ctx c)).fly = (s.bank (.ctx c)).fly ++ [⟨.a, 0, [.a x.d word], 0, 0, true⟩] ∧
      doneIn s t (.ctx c) .a x.dn ∧
      (t.ctx c).events = (s.ctx c).events ++ if x.op = .query then [] else [⟨s.pkg.eventSeq, 4, x.acting.val, 256 + c.val, word.setWidth 128, (s.ctx c).hostfwd⟩]) ∧
    (x.taken = false →
      (∀ u, x.op = .stop ∨ x.op = .run → foreign = some u → take = .next (ends s (BitVec.ofNat 64 (256 * u.val + 1)))) ∧
      (x.op = .stop → free → x.ctl.getLsbD 18 = true → take = .next (becomes s { x with rooms := roomsWord, pendingStop := true })) ∧
      (x.op = .stop → free → x.ctl.getLsbD 18 = false → (∀ y, y ∈ rest → y.taken = false) →
        let t := becomes (asked s clocks) { x with rooms := roomsWord, awaitStop := true }
        let rests := x.ctl.getLsbD 17 = false ∨ ∀ u, u ∈ rooms → coreStopped s u = true
        (rests → take = .next (ends t 0)) ∧ (¬ rests → take = .next t)) ∧
      (x.op = .run → free → (∀ u, u ∈ rooms → flueBusy s c (fun id => segRoom id == u) = false) → take = .next (becomes s { x with waitRun := true })) ∧
      (∀ e, x.op = .query → x.entries = [e] → owns s x.acting (segRoom e.id.toNat) = false → take = .next (ends s 1)) ∧
      (∀ e, x.op = .query → x.entries = [e] → owns s x.acting (segRoom e.id.toNat) = true → ∃ pend flue : Bool, take = .next (ends s (BitVec.ofNat 64
        (2 ^ 32 * payloadBits e.id.toNat + 1024 * pend.toNat + 512 * flue.toNat + 256 * (segStopped s e.id.toNat).toNat)))) ∧
      (x.op = .out ∨ x.op = .inp → ∀ st k, transferRefusal s c x [] = some (st, k) → take = .next (ends s (BitVec.ofNat 64 (256 * k + st)))) ∧
      (let todo := (imageLines x).drop x.data.length
       let with1 := fun (t : State) (f : ScanCmd → ScanCmd) => t.modCtx c fun y => { y with scans := y.scans.modify 0 f }
       let shifts := fun (t : State) (data : List (List Byte)) => with1 t fun z => { z with shifting := true, ports := shiftPorts x.entries, data := data }
       transferRefusal s c x [] = none →
       (x.op = .out → take = .next (shifts s x.data)) ∧
       (x.op = .inp → ∀ got t1, readImages c x.acting todo s = (got, t1) →
         let data := x.data ++ got
         (got.length < todo.length → take = .next (with1 t1 fun z => { z with data := data })) ∧
         (todo.length ≤ got.length →
           (∀ st k, transferRefusal t1 c x (splitImages x.entries data) = some (st, k) → take = .next (ends t1 (BitVec.ofNat 64 (256 * k + st)))) ∧
           (transferRefusal t1 c x (splitImages x.entries data) = none → take = .next (shifts t1 data)))))) ∧
    (∀ va, (∀ l t, loadVaBy s (.scan c) x.acting (ctxTenant s c) va 64 = (.ok l, t) → bufferLine s c x.acting va = (some l, t)) ∧
      (∀ t, loadVaBy s (.scan c) x.acting (ctxTenant s c) va 64 = (.wait, t) → bufferLine s c x.acting va = (none, t))) ∧
    (x.pendingStop = true → (∀ y, y ∈ rest → y.taken = false) →
      let named := mask.map fun u => (u, x.ctl.getLsbD 16, x.ctl.getLsbD 17)
      let t := becomes (asked s named) { x with pendingStop := false, awaitStop := true }
      let met := mask.any (beatReached s (x.ctl.toNat / 2 ^ 32))
      (met = false → exec (.beatStop c) s = .next s) ∧
      (met = true → exec (.beatStop c) s = .next (if x.ctl.getLsbD 17 = true ∧ ¬ (∀ u, u ∈ mask → coreStopped s u = true) then t else ends t 0))) ∧
    (x.awaitStop = true → (∀ y, y ∈ rest → y.taken = false) → exec (.coreStopComplete c) s =
      .next (if x.ctl.getLsbD 17 = true ∧ ¬ (∀ u, u ∈ mask → coreStopped s u = true ∨
          ((s.suite u).stopped = false ∧ ∀ q, q ∈ s.pkg.stopReq → q.1 = u → q.2.2 = false)) then s else ends s 0)) ∧
    (x.waitRun = true → x.ctl.getLsbD 16 = true → (∀ u, u ∈ rooms → (s.room u).damaged = [] ∧ usesUnaccepted s u = false) →
      let first := rooms.find? fun u => (s.room u).stopped
      let due := match first with | some u => rcycOf s u % 8 = ((s.room u).rphase.toNat + 1) % 8 | none => True
      (¬ due → exec (.scnrunRestart c) s = .next s) ∧
      (due → answers (.scnrunRestart c) s fun t => (t.ctx c).scans = rest ∧ (∀ u, (t.room u).stopped = ((s.room u).stopped && !rooms.contains u)) ∧
        ∀ u, (t.suite u).stopped = ((s.suite u).stopped && !(x.ctl.getLsbD 17 && rooms.contains u)))) ∧
    (x.shifting = true →
      let go := exec (.scanShiftCompletion c) s
      let with1 := fun (t : State) (f : ScanCmd → ScanCmd) => t.modCtx c fun y => { y with scans := y.scans.modify 0 f }
      let cut := fun (va : Nat) (l : List Byte) => (List.range ((l.length + 63) / 64)).map fun i => (va + 64 * i, (l.drop (64 * i)).take 64)
      ((∃ p, p ∈ x.ports ∧ p.2 ≠ 0) →
        go = .next (becomes s { x with ports := x.ports.map fun p => if portMine s c p.1 then (p.1, p.2 - 1) else p })) ∧
      (∀ e, (∀ p, p ∈ x.ports → p.2 = 0) → x.shifted = false → x.entries = [e] → e.dead = false → s.pkg.flips = [] →
        let later := { s with fresh := s.fresh + 1 }
        let id := e.id.toNat
        (Config.choice s.fresh % 2 = 1 → go = .next later) ∧
        (Config.choice s.fresh % 2 = 0 →
          (x.op = .inp → go = .next (with1 (healSeg (loadEntry later x.acting e (x.data.take (imageSize e / 64)).flatten) id)
            fun y => { y with shifted := true, lines := [], bad := none })) ∧
          (x.op = .out →
            let p := payloadOf later id
            let l := cut (x.buf.toNat + 64) p.1 ++ cut x.buf.toNat (headerBytes p.2 x.acting e (crc32c p.1))
            go = .next (with1 p.2 fun y => { y with shifted := true, lines := l, bad := none })))) ∧
      ((∀ p, p ∈ x.ports → p.2 = 0) → x.shifted = true → ∀ l t, writeLines c x.acting x.lines s = (l, t) →
        (l ≠ [] → go = .next (with1 t fun y => { y with lines := l })) ∧
        (l = [] → x.bad = none → go = .next (ends t 0)) ∧
        (∀ bad, l = [] → x.bad = some bad → go = .next (finishTrapped t c 0 0x72 bad)))) ∧
    (∀ v : Word, answers (.scndmgClear v) s fun t => ∀ u, t.room u = if v.getLsbD u.val then { s.room u with damaged := [] } else s.room u)

/-! ### Launches, Visits and answers to traps -/

/-- Launch queues and the start of a Steward context (R20-R23, R37, R38, R322, R323, R330, R331). A record from LSUBMIT or from the host locks the accepted
features, gets its status (0 queued, 1 malformed, 2 a bad id, 3 a full queue, 4 a feature not accepted), and joins the queue with the next sequence
number where the status is 0; a message from the host counts its flits, and one that queues nothing takes a number too (R41). A launch becomes ready once none of its dependences is in the queue, and completes at once without iterations. The effective priority
starts at the submitted one; a ready launch with iterations to place gains one step of priority, up to 15, for every 2^23 Suite cycles. CTXSTART starts a context at both entries with
its registers zero. That a launch counts as unplaced until its last iteration is placed is the model's choice (log 57), and so are the length of an ageing step in
Suite cycles and the source 256 + t of a completion without a Visit (log 29). -/
def Obligations.LaunchesQueue : Prop :=
  (∀ (s : State) (t : TenantId) (l : List Byte),
    let result := fun (s : State) (r : Nat × State) =>
      let s1 := s.modPkg fun p => { p with featLocked := true }
      let q := (s.tenant t).launches
      (parseLaunch s1 t l = none ∨ launchHeader s1 t (fieldAt l 4 2) = none → r = (1, s1)) ∧
      ∀ x h, parseLaunch s1 t l = some x → launchHeader s1 t (fieldAt l 4 2) = some h →
        let missing := h.feat &&& ~~~(s.pkg.featacc1 ++ s.pkg.featacc0) ≠ 0
        (x.id = 0 ∨ (∃ y, y ∈ q ∧ y.id = x.id) → r = (2, s1)) ∧
        (x.id ≠ 0 → (∀ y, y ∈ q → y.id ≠ x.id) → 256 ≤ q.length → r = (3, s1)) ∧
        (x.id ≠ 0 → (∀ y, y ∈ q → y.id ≠ x.id) → q.length < 256 → missing → r = (4, s1)) ∧
        (x.id ≠ 0 → (∀ y, y ∈ q → y.id ≠ x.id) → q.length < 256 → ¬ missing → r.1 = 0 ∧
          (r.2.tenant t).launches = q ++ [{ x with image := (loadImage s1 t x.imageSeg h).1, seq := s.pkg.eventSeq }] ∧
          r.2.pkg.eventSeq = s.pkg.eventSeq + 1)
    let came := countEvents s (.ctx hypervisor) 0x11 3
    (∃ r, result s r ∧ ∀ c v, ctxTenant s c = t → (loadVa s t v.toNat 128).1 = .ok l →
      exec (.lsubmitWrite c v) s = .next (r.2.modCtx c fun x => { x with lstat := BitVec.ofNat 8 r.1 })) ∧
    (∃ r, result came r ∧ ∀ tag, s.pkg.booted = true → l.length = 128 → exec (.hostLaunch t tag l) s =
      .next (sendHost (if r.1 = 0 then r.2 else r.2.modPkg fun p => { p with eventSeq := p.eventSeq + 1 }) 1 t.val tag.toNat [BitVec.ofNat 8 r.1]))) ∧
  (∀ (s : State) (t : TenantId) (l : List Byte) (x : Launch), parseLaunch s t l = some x → x.effPrio = x.prio ∧ x.readyClk = 0) ∧
  (∀ (s : State) (t : TenantId) (id : W32) (x : Launch), findLaunch s t id = some x →
    let waits := x.ready = true ∨ ∃ d y, d ∈ x.deps ∧ y ∈ (s.tenant t).launches ∧ y.id = d
    let set := fun (f : Launch → Launch) => s.modTenant t fun z => { z with launches := z.launches.map fun y => if y.id = id then f y else y }
    let sleeps := x.ready = false ∨ x.unplaced = 0
    (waits → exec (.launchReady t id) s = .next s) ∧
    (¬ waits → x.retired < x.total → x.failed = false → exec (.launchReady t id) s = .next (set fun y => { y with ready := true })) ∧
    (¬ waits → x.total = 0 → x.retired = 0 → answers (.launchReady t id) s fun z =>
      (z.tenant t).launches.map (·.id) = ((s.tenant t).launches.map (·.id)).filter (· != id) ∧
      (z.ctx (supervisor t)).events = (s.ctx (supervisor t)).events ++ [⟨s.pkg.eventSeq, 1, t.val, 256 + t.val, BitVec.ofNat 128 id.toNat, (s.ctx (supervisor t)).hostfwd⟩]) ∧
    (sleeps → exec (.priorityAging t id) s = .next s) ∧
    (¬ sleeps → exec (.priorityAging t id) s = .next (set fun y => if y.readyClk + 1 = 2 ^ 23 then
      { y with readyClk := 0, effPrio := min 15 (y.effPrio + 1) } else { y with readyClk := y.readyClk + 1 }))) ∧
  (∀ (s s1 : State) (c : CtxId) (v : Word) (h : Header),
    let x : CtxId := ⟨natBits v.toNat 16 7, Nat.mod_lt _ (by decide)⟩
    let seg := v.toNat % 65536
    ctxstartTrap s c v = none → readHeader s (ctxTenant s x) seg = (.ok h, s1) → answers (.ctxstartWrite c v) s fun t =>
      let r := (t.ctx x).regs
      (t.ctx x).running = true ∧ r.a = Vector.replicate 32 0 ∧ r.e = Vector.replicate 16 0 ∧ r.sa.running = true ∧ r.sx.running = true ∧
      r.sa.pos = h.entryA.toNat * 16 ∧ r.sx.pos = h.entryX.toNat * 16 ∧
      (∃ im, t.pkg.images[(t.ctx x).image]? = some im ∧ im.tenant = ctxTenant s x ∧ im.seg = seg ∧ im.nlines = h.nlines) ∧
      ∀ y, y ≠ x → t.ctx y = s1.ctx y)

/-- Placement, retirement and abort of Visits, and dead banks (R24, R25, R28, R32, R34, R37, R39, R358, R361). A free candidate wing takes the next iteration
of the launch that is offered it, in every member Suite, unless a launch that comes first could take a wing with one of its rooms (R40): the registers hold the indices, the parameter and zeros, and both streams stand at their entries.
A Visit whose streams have ended and whose commands and tokens are gone leaves its banks and counts as retired. An abort frees the banks, removes the
commands not started, gives the iteration back with replace, fails the launch without, and posts its reset event. A bank that is dead for 2^20 cycles
traps FEDEAD on its blocked stream. Nothing is placed and nothing retires while the die's clock pauses (R4). The stores that a retired Visit leaves behind
and the source of the abort's event are the model's choices (log 30), and so is the order in which a launch that comes first holds a wing (R40, log 29). -/
def Obligations.VisitsLive : Prop :=
  (∀ (s : State) (lead : SuiteId) (shape : Fin 9) (t : TenantId) (x : Launch) (b : Fin 2) (im : Image),
    let i : Instr := .visitPlacement lead shape
    let n := (takeGreedy x).1
    (candidate s t lead shape.val = false ∨ paused s lead = true ∨ offered s t lead shape.val = none → ownerOf? s lead = some t → exec i s = .next s) ∧
    (ownerOf? s lead = some t → candidate s t lead shape.val = true → paused s lead = false → offered s t lead shape.val = some x → x.shape = shape →
      freeBank s (launchDual s x) lead shape.val = some b → s.pkg.images[x.image]? = some im → sliced s t x = false → ologMode s t = 0 →
      (claimed s t x lead = true → exec i s = .next s) ∧
      (∀ w s1, claimed s t x lead = false → greedyWing s t x = (w, s1) →
       (w ≠ some lead → exec i s = .next s1) ∧
       (w = some lead → answers i s fun z =>
        (∀ u, u ∈ wingRooms lead shape.val →
          let y := z.bank (.bank u b)
          let level := fun (k : Nat) => if x.nlev ≤ k then 0 else match x.index n k with | some m => m | none => x.trips.getD k 0
          (∀ r : Fin 32, y.a.get r = if 1 ≤ r.val ∧ r.val ≤ 6 then BitVec.ofNat 64 (level (r.val - 1)) else if r.val = 7 then x.param else 0) ∧
          (∀ r : Fin 16, y.e.get r = if 1 ≤ r.val ∧ r.val ≤ 6 then BitVec.ofNat 64 (level (r.val - 1)) else 0) ∧
          y.sa.running = true ∧ y.sa.pos = im.entryA.toNat * 16 ∧ y.sx.running = true ∧ y.sx.pos = im.entryX.toNat * 16 ∧
          y.lq = [] ∧ y.sq = [] ∧ y.tok = Vector.replicate 12 0 ∧ y.cq = [] ∧ y.traps = [] ∧
          ∃ v, y.visit = some v ∧ v.tenant = t ∧ v.launch = x.id ∧ v.iter = n ∧ v.lead = lead ∧ v.shape = shape) ∧
        (∀ u c, u ∉ wingRooms lead shape.val ∨ c ≠ b → z.bank (.bank u c) = s1.bank (.bank u c)) ∧ z.pkg.mem = s1.pkg.mem)))) ∧
  (∀ (s : State) (u : SuiteId) (b : Fin 2) (v : Visit), (s.bank (.bank u b)).visit = some v → v.lead = u → v.shape = 0 →
    let over1 := partOver s u b
    let r : BankRef := .bank u b
    (over1 = false ∨ paused s u = true → exec (.visitRetire u b) s = .next s) ∧
    (∀ x, over1 = true → paused s u = false → findLaunch s v.tenant v.launch = some x → x.retired + 1 < x.total → x.failed = false →
      answers (.visitRetire u b) s fun t => (t.bank r).visit = none ∧ (t.bank r).sa.running = false ∧ (t.bank r).lq = [] ∧ (t.bank r).sq = [] ∧
        (t.suite u).leftover = (s.suite u).leftover ++ ((sortSeq ((s.bank r).sq ++ (s.bank r).replay)).filter fun e =>
          match e.op with | .st .. => true | .stt .. => true | _ => false).map (fun e => ⟨v, b, e⟩) ∧
        (t.tenant v.tenant).launches = (s.tenant v.tenant).launches.map fun y => if y.id = v.launch then { y with retired := y.retired + 1 } else y)) ∧
  (∀ (s : State) (u : SuiteId) (b : Fin 2) (replace : Bool) (v : Visit), (s.bank (.bank u b)).visit = some v → v.lead = u → v.shape = 0 →
    (s.room u).runs = [] → answers (.visitAbort u b replace) s fun t =>
      (t.bank (.bank u b)).visit = none ∧ (t.bank (.bank u b)).traps = [] ∧ (∀ c, c ∈ (t.suite u).mq ++ (t.suite u).cqueue → c.bank ≠ b) ∧
      (∀ c, c ∈ (t.suite u).mrun ++ (t.suite u).crun → c.bank = b → c.discard = true) ∧
      (∃ before seq, (t.ctx hypervisor).events = before ++ [⟨seq, 7, v.tenant.val, u.val, 4, (s.ctx hypervisor).hostfwd⟩]) ∧
      (∀ x, findLaunch s v.tenant v.launch = some x → x.slices = [] → replace = true → 0 < x.live → x.failed = false → x.retired < x.total →
        ∃ y, findLaunch t v.tenant v.launch = some y ∧ y.again = v.iter :: x.again ∧ y.failed = false)) ∧
  (∀ (s : State) (u : SuiteId) (b : Fin 2),
    let r : BankRef := .bank u b
    let k := s.bank r
    let counts := k.visit ≠ none ∧ (s.suite u).stopped = false ∧ k.traps = []
    (¬ counts → exec (.fedead u b) s = .next s) ∧
    (counts → deadNow s u b = false → exec (.fedead u b) s = .next (s.modBank r fun x => { x with deadCount := 0 })) ∧
    (counts → deadNow s u b = true → k.deadCount + 1 < 2 ^ 20 → exec (.fedead u b) s = .next (s.modBank r fun x => { x with deadCount := x.deadCount + 1 })) ∧
    (counts → deadNow s u b = true → 2 ^ 20 ≤ k.deadCount + 1 →
      let t := s.modBank r fun x => { x with deadCount := 0 }
      exec (.fedead u b) s = .next (if k.sa.blocked then takeTrap t ⟨r, .a⟩ 0x60 (if k.sx.blocked then BitVec.ofNat 64 k.sx.pos else 0) k.sa.pos
        else takeTrap t ⟨r, .x⟩ 0x60 (if k.sa.blocked then BitVec.ofNat 64 k.sa.pos else 0) k.sx.pos)))

/-- Answers to a trap (R355). VCMD_RESUME releases the bank that VSEL names: it holds no trap, its replay list goes back into its queues in
program order, each trapped stream stands at the return position of its record, commands of the bank lose one level of trap, and no other bank and no
byte of memory changes. VCMD_SKIP lets the trapped instruction of the shown record count as executed: the stream goes on after it, and a skipped AMEM
increments its done semaphore (R405). VAREG_WRITE writes the selected register, and a0 discards it. -/
def Obligations.TrapsAnswered : Prop :=
  (∀ (s : State) (c : CtxId),
    let r := vselRef (s.ctx c).vsel
    let k := s.bank r
    k.trapsLater = [] →
    let back := fun (t : State) =>
      (t.bank r).traps = [] ∧ (t.bank r).replay = [] ∧ (t.bank r).switched = false ∧ (t.bank r).pageWait = false ∧
      (t.bank r).lq = sortSeq ((k.replay.filter fun e => !isStoreEntry e) ++ k.lq) ∧ (t.bank r).sq = sortSeq (k.replay.filter isStoreEntry ++ k.sq) ∧
      ∀ u b, r = .bank u b →
        let f := fun (l : List Cmd) => l.map fun x => if x.bank = b then { x with trapLevel := x.trapLevel - 1 } else x
        (t.suite u).mq = f (s.suite u).mq ∧ (t.suite u).mrun = f (s.suite u).mrun ∧ (t.suite u).cqueue = f (s.suite u).cqueue ∧
        (t.suite u).crun = f (s.suite u).crun
    answers (.vcmdResume c) s (fun t => back t ∧
      (∀ p ag, p ∈ k.traps → trapAgent r p = some ag → ag.kind ≠ .chanter → (∀ q, q ∈ k.traps → trapAgent r q = some ag → q.ret = p.ret) →
        (t.stream ag).pos = p.ret.toNat) ∧
      (∀ q, q ≠ r → t.bank q = s.bank q) ∧ t.pkg.mem = s.pkg.mem ∧ (t.bank r).a = k.a ∧ (t.bank r).e = k.e) ∧
    answers (.vcmdSkip c) s (fun t => back t ∧
      ∀ p rest ag, k.traps = p :: rest → trapAgent r p = some ag → ag.kind ≠ .chanter → (∀ q, q ∈ rest → trapAgent r q ≠ some ag) →
        (t.stream ag).pos = posOf (advance (skipDone s r p) ag (slotsAt (skipDone s r p) ag)) ag ∧
        ∀ m w x, fetch s ag = .word m w x →
          (∀ d s1 s2 dn sub wf, decode m w x = .ok (.amem d s1 s2 dn sub wf) → doneIn s t r ag.kind dn) ∧
          ((∀ d s1 s2 dn sub wf, decode m w x ≠ .ok (.amem d s1 s2 dn sub wf)) → (t.stream ag).semNew = (s.stream ag).semNew))) ∧
  (∀ (s : State) (c : CtxId) (v : Word),
    let r := vselRef (s.ctx c).vsel
    let n := BitVec.ofNat 5 (natBits (s.ctx c).vsel.toNat 16 5)
    answers (.varegWrite c v) s fun t => readA t ⟨r, .a⟩ n = (if n = 0 then 0 else v) ∧ (∀ k, k ≠ n → readA t ⟨r, .a⟩ k = readA s ⟨r, .a⟩ k) ∧
      (t.bank r).e = (s.bank r).e ∧ (t.bank r).traps = (s.bank r).traps ∧ (∀ q, q ≠ r → t.bank q = s.bank q) ∧ t.pkg = s.pkg ∧ t.rooms = s.rooms)

/-! ### Supersteps and replicas -/

/-- SSYNC, arrival and the barrier (R36, R263, R264, R265). SSYNC leaves its bank waiting; it has arrived once the Suite runs and its clock does not pause
(R4), every queue entry before it has gone and no command or accumulator atomic of its A-stream is left. A barrier waits for every participant, a detached
Visit among them, and for their clocks to run (the model's choice, log 61). It then clears
the L1 of each, gives each the next phase, modulo 4, in the bank and at the end of the cycle in its register, increments the done semaphore, lets the A-stream go on, and is counted. No bank that takes no part changes. -/
def Obligations.Supersteps : Prop :=
  (∀ (d : BitVec 5) (dn w : BitVec 4) (s : State), ready s (.ssync d dn w) w = true → (s.bank s.cur.bank).sync = .none →
    exec (.ssync d dn w) s = .next ((issued s w).modBank s.cur.bank fun b => { b with sync := .waiting d dn b.nextSeq (issued s w).cycle })) ∧
  (∀ (s : State) (u : SuiteId) (b : Fin 2) (d : BitVec 5) (dn : BitVec 4) (q start : Nat),
    let k := s.bank (.bank u b)
    let before := (∃ e, e ∈ k.lq ++ k.sq ++ k.replay ∧ e.seq < q) ∨ streamCommands (s.suite u) b = true ∨
      ∃ a, a ∈ (s.room u).atomics ∧ a.bank = b ∧ a.kind = .a ∧ a.discard = false
    k.sync = .waiting d dn q start →
      ((s.suite u).stopped = true ∨ paused s u = true ∨ before → exec (.ssyncArrival u b) s = .next s) ∧
      ((s.suite u).stopped = false → paused s u = false → ¬ before →
        exec (.ssyncArrival u b) s = .next (s.modBank (.bank u b) fun x => { x with sync := .arrived d dn start s.cycle }))) ∧
  (∀ (s : State) (t : TenantId) (scope : Fin 3) (inst : Nat),
    let i : Instr := .barrierCompletion t scope inst
    ((∃ v, v ∈ s.pkg.away ∧ v.tenant = t ∧ v.scope.toNat = scope.val ∧
        (scope = 0 → v.launch.toNat = inst) ∧ (scope = 1 → dieOf v.lead = inst)) → exec i s = .next s) ∧
    (allArrived s t scope inst = false → exec i s = .next s) ∧
    ((∃ u b, (u, b) ∈ participants s t scope inst ∧ paused s u = true) → exec i s = .next s) ∧
    (allArrived s t scope inst = true → (∀ u b, (u, b) ∈ participants s t scope inst → paused s u = false) → scope ≠ 2 ∨ digestOn s t = false → answers i s fun z =>
      (∀ u b, (u, b) ∈ participants s t scope inst → ∀ d dn start stop, (s.bank (.bank u b)).sync = .arrived d dn start stop →
        let r : BankRef := .bank u b
        (z.bank r).sync = .none ∧ (z.bank r).phase = (s.bank r).phase + 1 ∧ (z.suite u).l1 = [] ∧ doneIn s z r .a dn ∧
        (z.bank r).fly = (s.bank r).fly ++ [⟨.a, 0, [.a d (((s.bank r).phase + 1).setWidth 64)], 0, start, true⟩] ∧ (z.bank r).a = (s.bank r).a) ∧
      (∀ u b, (u, b) ∉ participants s t scope inst → z.bank (.bank u b) = s.bank (.bank u b)) ∧
      (scope = 0 → (z.tenant t).launches = (s.tenant t).launches.map fun x =>
        if x.id = BitVec.ofNat 32 inst then { x with barriers := x.barriers + 1 } else x) ∧
      (scope = 2 → (z.tenant t).barriersPkg = (s.tenant t).barriersPkg + 1)))

/-- Digests at a barrier of scope package (R342, R343, R430-R433). With comparison on, the SHA-256 of the declared bytes is kept and sent to the peer
with DIGCNT and the error count, once. A digest waits until every declared byte can be read, and all of it until the participants' clocks run. A peer's digest
counts its flits and waits for this package's own. Where both agree the barrier completes, DIGCNT counts it and DIGSTAT
returns to 0 (its error count too, unless trace records that the barrier writes meet errors). A disagreement traps DIGEST at the supervisor and leaves the barrier pending. In the rerun, the package that alone saw errors is fenced: its
Visits are aborted and the hypervisor learns of it. The one that alone saw none goes on without a peer; two of a kind stop the tenant's rooms.
DIGSTAT marks a rerun, and DIGPEER at the own package turns comparison off and lets a barrier with a digest complete. That a second disagreement clears the
rerun bit (log 37), the DIGEST event's source 256 + t (log 32) and the wait for paused clocks (log 61) are the model's choices. -/
def Obligations.ReplicaDigests : Prop :=
  (∀ (s : State) (t : TenantId) (inst : Nat),
    let x := (s.tenant t).replica
    let i : Instr := .barrierCompletion t 2 inst
    let held := ∃ u b, (u, b) ∈ participants s t 2 0 ∧ paused s u = true
    allArrived s t 2 inst = true → digestOn s t = true →
      (held ∨ (x.own.isSome = true ∧ x.got = none) ∨ (x.own = none ∧ (declaredWaits s t = true ∨ (x.pending = true ∧ x.rerun = false))) →
        exec i s = .next s) ∧
      (¬ held → x.own = none → declaredWaits s t = false → x.pending = false ∨ x.rerun = true → x.got = none →
        let d := sha256 (declaredBytes s t)
        exec i s = .next (sendPacket (modReplica s t fun y => { y with own := some (d, x.errs) }) 9 x.peer.toNat t
          (leBytes 1 t.val ++ digestBytes d ++ leBytes 8 x.count.toNat ++ leBytes 4 x.errs.toNat)))) ∧
  (∀ (s : State) (t : TenantId) (digest mine : BitVec 256) (errs ours : BitVec 32),
    let x := (s.tenant t).replica
    let i : Instr := .peerDigest t digest x.count errs
    let came := countEvents s (.ctx hypervisor) 0x11 1
    let kept := modReplica came t fun y => { y with got := some (digest, x.count, errs) }
    let held := ∃ u b, (u, b) ∈ participants s t 2 0 ∧ paused s u = true
    let s1 := digestTrap (modReplica came t fun y => { y with own := none, got := none, pending := true, rerun := false }) (supervisor t) t x.count
    let goesOnIn := fun (z : State) =>
      (z.tenant t).replica.count = x.count + 1 ∧ (z.tenant t).replica.fenced = false ∧
      ((s.tenant t).trace.ctl.getLsbD 0 = false → (z.tenant t).replica.errs = 0) ∧
      (z.tenant t).replica.pending = false ∧ (z.tenant t).replica.rerun = false ∧ (z.tenant t).replica.own = none ∧ (z.tenant t).replica.got = none ∧
      ∀ u b, (u, b) ∈ participants s t 2 0 → hasArrived (s.bank (.bank u b)) = true →
        (z.bank (.bank u b)).sync = .none ∧ (z.bank (.bank u b)).phase = (s.bank (.bank u b)).phase + 1
    (digestOn s t = false → exec i s = .next came) ∧
    (digestOn s t = true → x.own = none ∨ held → exec i s = .next kept) ∧
    (digestOn s t = true → ¬ held → x.own = some (mine, ours) →
      (mine = digest → answers i s goesOnIn) ∧
      (mine ≠ digest → x.rerun = false → exec i s = .next s1 ∧ (s1.ctx (supervisor t)).events =
        (s.ctx (supervisor t)).events ++ [⟨s.pkg.eventSeq, 2, t.val, 256 + t.val, trapBits ⟨0x90, 3, 0, 0, 0, x.count⟩, (s.ctx (supervisor t)).hostfwd⟩]) ∧
      (mine ≠ digest → x.rerun = true → ours ≠ 0 → errs = 0 →
        exec i s = .next (digestTrap (abortTenant (modReplica s1 t fun y => { y with fenced := true }) t) hypervisor t x.count)) ∧
      (mine ≠ digest → x.rerun = true → ours = 0 → errs ≠ 0 → answers i s fun z => goesOnIn z ∧ (z.tenant t).replica.peer = Config.pkgId) ∧
      (mine ≠ digest → x.rerun = true → (ours = 0 ↔ errs = 0) → answers i s fun z =>
        z.pkg.stopReq = s.pkg.stopReq ++ (extendRooms s ((List.finRange 64).filter fun u => owns s t u)).map (fun u => (u, true, true)) ∧
        (z.tenant t).replica.pending = true ∧ (∀ r, z.bank r = s.bank r) ∧ ∃ e, (z.ctx (supervisor t)).events.getLast? = some e ∧ e.kind = 2 ∧ e.sent = true))) ∧
  (∀ (s : State) (t : TenantId), (s.tenant t).replica.peer = Config.pkgId → digestOn s t = false) ∧
  (∀ (s : State) (t : TenantId) (v : Word), featOn s 3 = true →
    exec (.digstatWrite t v) s = .next (modReplica s t fun x => { x with rerun := v.getLsbD 1 }) ∧
    (v.setWidth 9 ≠ Config.pkgId ∨ (s.tenant t).replica.own = none →
      exec (.digpeerWrite t v) s = .next (modReplica s t fun x => { x with peer := v.setWidth 9 })) ∧
    (v.setWidth 9 = Config.pkgId → (s.tenant t).replica.own ≠ none → answers (.digpeerWrite t v) s fun z =>
      (z.tenant t).replica.peer = Config.pkgId ∧ (z.tenant t).replica.own = none ∧ (z.tenant t).replica.got = none ∧
      ((∀ u b, (u, b) ∈ participants s t 2 0 → paused s u = false) → ∀ u b, (u, b) ∈ participants s t 2 0 → hasArrived (s.bank (.bank u b)) = true →
        (z.bank (.bank u b)).sync = .none ∧ (z.bank (.bank u b)).phase = (s.bank (.bank u b)).phase + 1)))

/-! ### Events and tenancy -/

/-- Event rings and counter overflow (R327, R346, R347). One event at a time reaches its ring, unless none is held, the ring is stalled or full, EVQBASE is
0, or the next event of another ring that takes records has a lower sequence number: the record of 32 bytes first, then the index word at offset 8192, and the event leaves the
arbiter. A write that would fault leaves the event and stalls the ring, the record staying written where it is the index word's (DEDUCED, log 39), one that must wait is tried again; a write of EVQHEAD or EVQBASE tries a stalled write again. A counter that is not written in the cycle advances by the events of its code, for a Suite while its
core clock runs and for a context that runs; at the end of the cycle it has advanced, and one that passes 2^48 - 1 has wrapped to the remainder; its
overflow sets the sticky bit and posts one event of kind 3 to the supervisor of the owner, if the Suite has one. -/
def Obligations.EventRings : Prop :=
  (∀ (s : State) (c : CtxId) (e : Event) (rest : List Event),
    let x := s.ctx c
    let t := ctxTenant s c
    let push := exec (.eventRingWrite c) s
    let record := storeVa s t (x.evqbase.toNat + 32 * (x.evqtail.toNat % 256)) (eventBytes e) 0xffff
    let index := fun (s1 : State) => storeVa s1 t (x.evqbase.toNat + 8192) (leBytes 8 (x.evqtail + 1).toNat) 0xffff
    let takes := fun (y : Ctx) => y.evqbase ≠ 0 ∧ y.evqtail - y.evqhead ≠ 256 ∧ (y.evqStalled = false ∨ y.evqRetry = true)
    let first := ∀ d f l, takes (s.ctx d) → (s.ctx d).events = f :: l → e.seq ≤ f.seq
    let stall := fun (z : State) => z.modCtx c fun y => { y with evqStalled := true, evqRetry := false }
    let retry := fun (z : State) => z.modCtx c fun y => { y with evqRetry := true }
    (x.events = [] ∨ ¬ takes x → push = .next s) ∧
    (x.events = e :: rest → takes x →
      (¬ first → push = .next s) ∧
      (first → ∀ s1 s2,
        (record = (.ok (), s1) → index s1 = (.ok (), s2) →
          push = .next (s2.modCtx c fun y => { y with events := rest, evqtail := x.evqtail + 1, evqStalled := false, evqRetry := false })) ∧
        (∀ f, record = (.fault f, s1) → push = .next (stall s1)) ∧
        (∀ f, record = (.ok (), s1) → index s1 = (.fault f, s2) → push = .next (stall s2)) ∧
        (record = (.wait, s1) → push = .next (retry s1)) ∧
        (record = (.ok (), s1) → index s1 = (.wait, s2) → push = .next (retry s2))))) ∧
  (∀ (s : State) (c : CtxId) (v : Word),
    let head := s.modCtx c fun x => { x with evqhead := v.setWidth 9 }
    let base := s.modCtx c fun x => { x with evqbase := v }
    ((s.ctx c).evqStalled = false → exec (.evqheadWrite c v) s = .next head ∧ exec (.evqbaseWrite c v) s = .next base) ∧
    ((s.ctx c).evqStalled = true → exec (.evqheadWrite c v) s = .next (pushEvent head c) ∧ exec (.evqbaseWrite c v) s = .next (pushEvent base c))) ∧
  (∀ (s : State) (b : BankRef) (n : Fin 8),
    let x := (counterTarget s b).1
    let t := (counterTarget s b).2
    answers (.counterOverflow b n) s (fun z => (countersOf z b).ovf = (countersOf s b).ovf ||| (1 <<< n.val) ∧
      (countersOf z b).cnt = (countersOf s b).cnt ∧ (z.ctx x).events = (s.ctx x).events ++ [⟨s.pkg.eventSeq, 3, t, b.source, BitVec.ofNat 128 n.val, (s.ctx x).hostfwd⟩]) ∧
    (∀ u k o, b = .bank u k → ownerOf? s u = some o → x = supervisor o ∧ t = o.val) ∧
    (∀ c, b = .ctx c → c ≠ hypervisor → x = supervisor (ctxTenant s c) ∧ t = (ctxTenant s c).val)) ∧
  (∀ (s : State) (b : BankRef) (code n : Nat), code ≠ 0 → 0 < n →
    let old := countersOf s b
    let counts := match b with | .bank u _ => (s.suite u).stopped = false | .ctx c => (s.ctx c).running = true
    let z := countEvents s b code n
    (counts → ∀ i, (countersOf z b).inc.get i = old.inc.get i + if (old.sel.get i).toNat = code ∧ old.set.get i = false then n else 0) ∧
    (¬ counts → z = s) ∧ z.pkg = s.pkg ∧ z.tenants = s.tenants ∧ z.turns = s.turns ∧ (countersOf z b).cnt = old.cnt) ∧
  (∀ (x : Counters) (i : Fin 8), (countClose x).1.cnt.get i = x.cnt.get i + BitVec.ofNat 48 (x.inc.get i) ∧ (countClose x).1.inc.get i = 0 ∧ (countClose x).1.set.get i = false ∧
    (i ∈ (countClose x).2 ↔ 2 ^ 48 ≤ (x.cnt.get i).toNat + x.inc.get i)) ∧
  (∀ (s : State) (b : BankRef) (i : Fin 8), i ∈ (countClose (countersOf s b)).2 → Turn.event (.counterOverflow b i) ∈ overflows s b)

/-- Keys, rooms and wings of tenants (R51, R293, R314, R324). Assigning a key slot draws a fresh key for its tenant, releasing it leaves it without one, and no
other slot changes. A room that no tenant owns passes to the writer; one that another tenant owned before has its tiles, masks, chanter registers,
accumulators, Local Store and counters at zero. A bit is cleared only on a room whose room and core clocks both stand, which then holds no Visit.
Every other room keeps its owner. WINGSET gives the rooms of the selected wing its shape, and their Visits its envelope. That the contents are zeroed at the OWNMASK write itself, against the last owner, is the
model's choice (DEDUCED, log 33): R51 asks for it before the new tenant's first Visit. -/
def Obligations.KeysAndRooms : Prop :=
  (∀ (s : State) (t : TenantId) (slot : Fin 128),
    let set := fun (o : Option TenantId) (z : State) => (z.pkg.keys.get slot).tenant = o ∧ (z.pkg.keys.get slot).draw = (s.pkg.keys.get slot).draw + 1 ∧
      (∀ k, k ≠ slot → z.pkg.keys.get k = s.pkg.keys.get k) ∧ z.pkg.mem = s.pkg.mem ∧ z.suites = s.suites ∧ z.rooms = s.rooms
    answers (.keyctlAssign t slot) s (set (some t)) ∧ answers (.keyctlRelease slot) s (set none)) ∧
  (∀ (s : State) (t : TenantId) (v : Word), answers (.ownmaskWrite t v) s fun z =>
    (∀ o, o ≠ t → (z.tenant o).mask = (s.tenant o).mask) ∧
    ∀ u : SuiteId,
      let has := owns s t u
      let wants := v.getLsbD u.val
      let same := z.room u = s.room u ∧ z.suite u = s.suite u
      (has = wants → owns z t u = has ∧ same) ∧
      (wants = true → has = false → ownerOf? s u ≠ none → owns z t u = false ∧ same) ∧
      (wants = true → has = false → ownerOf? s u = none → owns z t u = true ∧ (z.room u).lastOwner = some t ∧
        ((s.room u).lastOwner = none ∨ (s.room u).lastOwner = some t → z.suite u = s.suite u ∧ (z.room u).acc = (s.room u).acc) ∧
        (∀ o, (s.room u).lastOwner = some o → o ≠ t → (z.suite u).tiles = Vector.replicate 48 Tile.zero ∧ (z.suite u).masks = Vector.replicate 8 Mask.zero ∧
          (z.suite u).chanter.c = Vector.replicate 8 0 ∧ (z.suite u).ls = [] ∧ (z.suite u).counters = Counters.reset ∧
          (z.room u).acc = Vector.replicate 32 AccTile.zero)) ∧
      (has = true → wants = false → (s.room u).stopped = false ∨ (s.suite u).stopped = false → owns z t u = true ∧ same) ∧
      (has = true → wants = false → (s.room u).stopped = true → (s.suite u).stopped = true → owns z t u = false ∧
        (∀ b : Fin 2, ((z.suite u).banks.get b).visit = none) ∧ (z.suite u).tiles = (s.suite u).tiles ∧ (z.suite u).ls = (s.suite u).ls)) ∧
  (∀ (s : State) (c : CtxId) (v : Word),
    let lead : SuiteId := ⟨(s.pkg.wingsel.get c).toNat, (s.pkg.wingsel.get c).isLt⟩
    let shape := v.toNat % 16 % 9
    answers (.wingsetWrite c v) s fun z =>
      (∀ u, u ∈ wingRooms lead shape → (z.room u).wingLead = lead ∧ (z.room u).wingShape.val = shape ∧
        ∀ b x, (s.bank (.bank u b)).visit = some x → ∃ y, (z.bank (.bank u b)).visit = some y ∧ y.lead = lead ∧ y.shape.val = shape ∧
          y.tenant = x.tenant ∧ y.launch = x.launch ∧ y.iter = x.iter) ∧
      (∀ u, u ∉ wingRooms lead shape → z.suite u = s.suite u) ∧ z.pkg.mem = s.pkg.mem)

/-- Registers whose writes only set what they name (R267, R325, R331, R335, R349, R378, R392, R404). FEATACC takes the offered features until the first launch
locks it. DETCTL and TRCTL keep their fields, ROOMFLT's ovfclr clears the overflow bit unless a result
overflows in the same cycle, PASS keeps the fields of its boundary, L2QOS sets priority, depth
and rate and cuts longer buckets at every port, ALOCK holds the lock of its address and AUNLK gives it up. -/
def Obligations.TenantRegisters : Prop :=
  (∀ (s : State) (v : Word), let masked := v &&& Config.featOffered.setWidth 64
    (s.pkg.featLocked = false → exec (.feataccWrite false v) s = .next (s.modPkg fun p => { p with featacc0 := masked }) ∧
      exec (.feataccWrite true v) s = .next (s.modPkg fun p => { p with featacc1 := 0 })) ∧
    (s.pkg.featLocked = true → ∀ hi, exec (.feataccWrite hi v) s = .next s)) ∧
  (∀ (s : State) (t : TenantId) (v : Word),
    exec (.detctlWrite t v) s = .next (s.modTenant t fun x => { x with detctl := v.setWidth 4 }) ∧
    exec (.trctlWrite t v) s = .next (s.modTenant t fun x => { x with trace := { x.trace with ctl := v.setWidth 6 } })) ∧
  (∀ (s : State) (u : SuiteId), exec (.roomfltClear u) s = .next (s.modRoom u fun x => { x with ovf := x.ovfNow })) ∧
  (∀ (s : State) (b : Fin 5) (p : Fin 8) (v : Word), answers (.passWrite b p v) s fun z =>
    (passage z b p).en = v.getLsbD 31 ∧ (passage z b p).tenant = v.toNat / 2 ^ 16 % 64 ∧ (passage z b p).depth = v.toNat / 2 ^ 8 % 16 + 1 ∧
    (passage z b p).peer = (if b.val < 3 then 0 else v.toNat / 2 ^ 32 % 512) ∧ (passage z b p).slots = (passage s b p).slots ∧
    ∀ c q, c ≠ b ∨ q ≠ p → passage z c q = passage s c q) ∧
  (∀ (s : State) (t : TenantId) (v : Word), answers (.l2qosWrite t v) s fun z =>
    (z.tenant t).qos.prio = v.extractLsb' 32 4 ∧ (z.tenant t).qos.depth = v.extractLsb' 16 13 ∧ (z.tenant t).qos.rate = v.extractLsb' 0 11 ∧
    (z.tenant t).qos.weight = (s.tenant t).qos.weight ∧ (∀ o, o ≠ t → z.tenant o = s.tenant o) ∧
    ∀ x, x ∈ s.pkg.l2 → ∃ y, y ∈ z.pkg.l2 ∧ y.port = x.port ∧ (y.bucket t).1 = min (x.bucket t).1 (v.toNat / 2 ^ 16 % 2 ^ 13) ∧
      ∀ o, o ≠ t → y.bucket o = x.bucket o) ∧
  (∀ (s : State) (c : CtxId) (v : Word),
    exec (.alockWrite c v) s = .next (s.modCtx c fun x => { x with lock := some (lockOf v.toNat) }) ∧
    ((s.ctx c).lock = none → exec (.aunlkWrite c) s = .next s) ∧
    ((s.ctx c).lock ≠ none → answers (.aunlkWrite c) s fun z => (z.ctx c).lock = none ∧
      ∀ t, (z.tenant t).locks = (s.tenant t).locks.filter fun q => q.2 != c))

/-- The order log (R337-R340). OLOGW writes OLOGR at once with the log off. In record mode with room for it an entry of kind 4 with the value is stored at OLOGPOS
first, and then OLOGPOS advances and OLOGR takes the value; while the store must wait, the write stays in flight. Without room it waits, in either mode, and
LOGFULL goes to the supervisor once. In replay mode with the writing context's own entry next it takes the logged value; any other write waits. No entry is next at OLOGLIM,
or once REPLAYDIV has been raised for it. An accumulator write that replay orders takes place exactly where its own entry is next. OLOGLIM lets waiting
choices go on. The entry at OLOGPOS grows older every cycle, and traps REPLAYDIV after 2^24, or for an unassigned kind. The store before the effect, the wait
while it cannot be made and the 64 entries that one look may skip are the model's choices (log 38). -/
def Obligations.OrderLogs : Prop :=
  (∀ (s : State) (c : CtxId) (v : Word), featOn s 2 = true →
    let t := ctxTenant s c
    let o := (s.tenant t).olog
    let src := 256 + c.val
    let i : Instr := .ologwWrite c v
    let set := fun (z : State) (x : Word) => .next (z.modTenant t fun y => { y with olog := { y.olog with r := x } })
    let waits := fun (z : State) => .next (z.modBank (.ctx c) fun b => { b with fly := b.fly ++ [⟨.a, 0, [.csr 0x604 (.write v)], 0, 0, false⟩] })
    let full := fun (z : State) =>
      let o := (z.tenant t).olog
      o.lim ≤ o.pos → (o.full = true → exec i s = waits z) ∧
        (o.full = false → answers i s fun y => (y.tenant t).olog.full = true ∧ (y.tenant t).olog.pos = o.pos ∧
          (y.bank (.ctx c)).fly = (s.bank (.ctx c)).fly ++ [⟨.a, 0, [.csr 0x604 (.write v)], 0, 0, false⟩] ∧
          (y.ctx (supervisor t)).events = (s.ctx (supervisor t)).events ++
            [⟨s.pkg.eventSeq, 2, t.val, src, trapBits ⟨0x92, 3, 0, 0, 0, o.pos.setWidth 64⟩, (s.ctx (supervisor t)).hostfwd⟩])
    (ologMode s t = 0 → exec i s = set s v) ∧
    (ologMode s t = 1 → full s ∧ (o.pos < o.lim → ∀ r s1,
      storeVaBy s (.olog t) t t (ologVa s t o.pos.toNat) (ologBytes t 4 src v.toNat) 0xffff = (r, s1) →
        (r = .ok () → exec i s = set (ologAdvance s1 t src) v) ∧ (r ≠ .ok () → exec i s = waits s1))) ∧
    (ologMode s t = 2 →
      let s1 := ologSkip t 64 s
      full s1 ∧ (∀ x, ologNext s1 t = some (4, src, x) → exec i s = set (ologAdvance s1 t src) (BitVec.ofNat 64 x)) ∧
      ((s1.tenant t).olog.pos < (s1.tenant t).olog.lim → (∀ x, ologNext s1 t ≠ some (4, src, x)) → exec i s = waits s1))) ∧
  (∀ (s : State) (t : TenantId) (src : Nat),
    let o := (s.tenant t).olog
    let z := ologAdvance s t src
    (z.tenant t).olog = { o with pos := o.pos + 1, age := 0, full := false } ∧ (∀ x, x ≠ t → z.tenant x = s.tenant x) ∧
    (∀ u : SuiteId, (z.suite u).ologsp = if u.val = src then o.pos + 1 else (s.suite u).ologsp) ∧ z.pkg = s.pkg ∧ z.rooms = s.rooms ∧
    (o.lim ≤ o.pos ∨ 2 ^ 24 ≤ o.age → ologNext s t = none)) ∧
  (∀ (s : State) (t : TenantId) (u : SuiteId) (agent bank tile row col : Nat), ologMode s t = 2 →
    ((accLogged s t u agent bank tile row col).1 = true ↔
      ologNext (ologSkip t 64 s) t = some (3, u.val, agent + 8 * bank + 16 * tile + 512 * row + 65536 * col + 2 ^ 32 * beatStamp s u))) ∧
  (∀ (s : State) (t : TenantId) (v : Word), exec (.ologlimWrite t v) s = .next (if featOn s 2 = true then
    s.modTenant t fun x => { x with olog := { x.olog with lim := v.setWidth 48, full := false } } else s)) ∧
  (∀ (s : State) (t : TenantId), ∃ z, exec (.replaydiv t) s = .next z ∧ z.suites = s.suites ∧ z.rooms = s.rooms ∧ z.pkg.mem = s.pkg.mem ∧
    (z.tenant t).olog.r = (s.tenant t).olog.r ∧ (z.tenant t).olog.lim = (s.tenant t).olog.lim) ∧
  (∀ (s : State) (t : TenantId),
    let s1 := ologSkip t 64 s
    let o := (s1.tenant t).olog
    let i : Instr := .replaydiv t
    let put := fun (n : Nat) => s1.modTenant t fun x => { x with olog := { x.olog with age := n } }
    let known := ∀ e, ologEntry s1 t = some e → 1 ≤ e.1 ∧ e.1 ≤ 5
    let rests := ologPassed s1 t = true ∨ o.lim ≤ o.pos ∨ 2 ^ 24 ≤ o.age
    (ologMode s t ≠ 2 → exec i s = .next s) ∧
    (ologMode s t = 2 → (rests → exec i s = .next s1) ∧
      (¬ rests → known → o.age + 1 < 2 ^ 24 → exec i s = .next (put (o.age + 1))) ∧
      (¬ rests → ¬ known ∨ o.age + 1 = 2 ^ 24 → answers i s fun z => (z.tenant t).olog.age = 2 ^ 24 ∧
        (z.ctx (supervisor t)).events = (s.ctx (supervisor t)).events ++ [⟨s.pkg.eventSeq, 2, t.val,
          (match ologEntry s1 t with | some (_, src, _) => src | none => 256 + t.val), trapBits ⟨0x91, 3, 0, 0, 0, o.pos.setWidth 64⟩,
          (s.ctx (supervisor t)).hostfwd⟩])))

/-- LSSPLIT and migration (R55, R247, R398). A write of LSSPLIT invalidates L1, sets its size, and the bytes that return to the scratchpad read zero, no other
byte changing. A migration waits for an unpinned segment that no copy counts in and that is not held; it then holds it and marks its present entries. Each
frame is copied to an unused frame, every byte reading under the entry's new key slot as it read before, and no other frame changes. Once every entry is copied they are rebound, each as it stood at the
hold with its new frame; last the segment's copies are invalidated, the entries lose their migrating bit and the hold ends. Which of the tenant's key
slots the new frame gets (log 40) and that the installed frames are the lowest (log 51) are the model's choices. -/
def Obligations.LsSplitAndMigration : Prop :=
  (∀ (s : State) (u : SuiteId) (v : Word),
    let old := scratchLimit (s.suite u)
    let new := 0x800000 - v.toNat % 16 * 0x100000
    answers (.lssplitWrite u v) s fun z => (z.suite u).l1 = [] ∧ (z.suite u).l1mib = v.setWidth 4 ∧ scratchLimit (z.suite u) = new ∧
      (∀ a, lsRead z u a 1 = if old ≤ a ∧ a < new then [Config.memDefault] else lsRead s u a 1) ∧
      (∀ w, w ≠ u → z.suite w = s.suite w ∧ ∀ a, lsRead z w a 1 = lsRead s w a 1) ∧ z.pkg.mem = s.pkg.mem) ∧
  (∀ (s : State) (t : TenantId) (seg : Fin 65536) (d : Desc),
    let i : Instr := .migration t seg
    let mine := fun (m : Migr) => m.tenant == t && m.seg == seg.val
    let found := s.pkg.migrating.find? mine
    let waits := d.pinned = true ∨ d.busy ≠ 0 ∨ seg.val ∈ (s.tenant t).held
    (homeDesc s t seg.val = none → exec i s = .next s) ∧
    (homeDesc s t seg.val = some d → found = none →
      (waits → exec i s = .next s) ∧
      (¬ waits → answers i s fun z => (z.tenant t).held = seg.val :: (s.tenant t).held ∧ ∃ l,
        z.pkg.migrating = s.pkg.migrating ++ [⟨t, seg.val, l, [], false⟩] ∧
        ∀ n e, (n, e) ∈ l ↔ n < d.nent ∧ e = pteAt s d n ∧ e.getLsbD 63 = true)) ∧
    (∀ m n e rest, homeDesc s t seg.val = some d → found = some m → m.todo = (n, e) :: rest → s.pkg.mem.wf = true →
      let f := Config.choice s.fresh % frameCount
      let s1 := (chooseBelow s frameCount).2
      (frameUnused s1 f = false → exec i s = .next s1) ∧
      (frameUnused s1 f = true →
        let old := e.toNat / 2 ^ 50 % 128
        let slots := slotsOfTenant s t
        let key := if slots.contains old then slots[Config.choice (s.fresh + 1) % max 1 slots.length]? else none
        let new := key.getD old
        answers i s fun z =>
          (old ∈ slots → ∀ k, k < 65536 → physByte z new (65536 * f + k) = physByte s old (65536 * (e.setWidth 40).toNat + k)) ∧
          (old ∉ slots → ∀ k, k < 65536 → memGet z.pkg.mem (65536 * f + k) =
            (let a := 65536 * (e.setWidth 40).toNat + k; if (e.setWidth 40).toNat < frameCount then memGet s.pkg.mem a else devByte s a)) ∧
          (∀ a, a / 65536 ≠ f → memGet z.pkg.mem a = memGet s.pkg.mem a ∧ ∀ slot, physByte z slot a = physByte s slot a) ∧
          z.pkg.migrating = s.pkg.migrating.map fun x => if x = m then { x with todo := rest, moved := x.moved ++
            [(n, (e &&& 0xfe03ff0000000000) ||| BitVec.ofNat 64 (f + 2 ^ 50 * new) ||| 0x1000000000000000)] } else x)) ∧
    (∀ m, homeDesc s t seg.val = some d → found = some m → m.todo = [] →
      (m.bound = false → answers i s fun z =>
        z.pkg.mem = (m.moved.foldl (fun x q => putPte x d q.1 q.2) s).pkg.mem ∧
        z.pkg.migrating = s.pkg.migrating.map fun x => if x = m then { x with bound := true } else x) ∧
      (m.bound = true → answers i s fun z => seg.val ∉ (z.tenant t).held ∧ z.pkg.migrating = s.pkg.migrating.filter (· != m) ∧
        (∀ u e, e ∈ (z.suite u).l1 → ¬ (e.tenant = t ∧ e.seg = seg.val)) ∧ ∀ b, .desc t seg.val b ∉ z.pkg.ports)))

/-- Soft errors (R393, R408, R411, R435). A second flipped bit of an HBM line, or one uncorrectable, poisons its line: it reads 0xff and MEMEADDR names it. A first
one waits to be corrected, by a reader or by the patrol scrub, and is then counted. A struck unit of a Local Store reads 0xff. A struck clean copy
goes. Every uncorrectable error is counted in MEMERR, saturating. One in a Steward context's registers stops the context, and events of kind 8 with payload 1
go to its receiver and to the hypervisor. -/
def Obligations.SoftErrors : Prop :=
  (∀ s : State,
    let more := fun (z : State) => z.pkg.memerr.extractLsb' 32 32 = satAdd32 (s.pkg.memerr.extractLsb' 32 32)
    let struck := fun (x : ErrSite) => s.modPkg fun p => { p with flips := x :: p.flips }
    (∀ a,
      let line := a / 64
      let hit := ∃ b, ErrSite.mem b ∈ s.pkg.flips ∧ b / 64 = line
      (line ∈ s.pkg.poison → exec (.softError (.mem a)) s = .next s) ∧
      (line ∉ s.pkg.poison → hit → answers (.softError (.mem a)) s fun z => more z ∧ z.pkg.poison = line :: s.pkg.poison ∧
        z.pkg.memeaddr = BitVec.ofNat 64 (64 * line + 1) ∧ (∀ slot b, b / 64 = line → physByte z slot b = 0xff) ∧
        (∀ slot b, b / 64 ≠ line → physByte z slot b = physByte s slot b) ∧ ∀ b, ErrSite.mem b ∈ z.pkg.flips → b / 64 ≠ line) ∧
      (line ∉ s.pkg.poison → ¬ hit → exec (.softError (.mem a)) s = .next (struck (.mem a))) ∧
      answers (.patrolScrub line) s (fun z => z.pkg.mem = s.pkg.mem ∧ z.pkg.poison = s.pkg.poison ∧
        ∀ x, x ∈ z.pkg.flips ↔ x ∈ s.pkg.flips ∧ ∀ b, x = .mem b → b / 64 ≠ line)) ∧
    (∀ u a, answers (.softError (.ls u a)) s fun z => more z ∧ (∀ b, b / 64 = a / 64 → lsRead z u b 1 = [0xff]) ∧
      (∀ b, b / 64 ≠ a / 64 → lsRead z u b 1 = lsRead s u b 1) ∧ z.suites = s.suites ∧ z.pkg.mem = s.pkg.mem) ∧
    (∀ u k i j, answers (.softError (.tile u k i j)) s fun z => more z ∧ z.pkg.flips = .tile u k i j :: s.pkg.flips ∧ z.suites = s.suites) ∧
    (∀ u, answers (.softError (.clean u)) s fun z => more z ∧
      (z.suite u).l1 = (s.suite u).l1.eraseIdx (Config.choice s.fresh % max 1 (s.suite u).l1.length) ∧ z.pkg.mem = s.pkg.mem ∧ z.pkg.flips = s.pkg.flips) ∧
    (∀ u k i j, exec (.softError (.acc u k i j)) s = .next (struck (.acc u k i j))) ∧
    (∀ n, exec (.softError (.flue n)) s = .next (struck (.flue n))) ∧
    answers (.softError .ctrl) s fun z => z.pkg.memerr.setWidth 32 = satAdd32 (s.pkg.memerr.setWidth 32) ∧
      z.pkg.memerr.extractLsb' 32 32 = s.pkg.memerr.extractLsb' 32 32 ∧ z.pkg.flips = s.pkg.flips ∧ z.pkg.mem = s.pkg.mem) ∧
  (∀ (s : State) (c : CtxId),
    let t := ctxTenant s c
    let e := fun (x : CtxId) (n : Nat) => let sent := (s.ctx x).hostfwd; (⟨s.pkg.eventSeq + n, 8, t.val, 256 + c.val, 1, sent⟩ : Event)
    answers (.stewardRegisterUe c) s fun z => (z.ctx c).running = false ∧ (z.stream ⟨.ctx c, .a⟩).running = false ∧
      (z.stream ⟨.ctx c, .x⟩).running = false ∧ z.pkg.mem = s.pkg.mem ∧
      (c.val < 64 → (z.ctx hypervisor).events = (s.ctx hypervisor).events ++ [e hypervisor 0]) ∧
      (64 ≤ c.val → c ≠ hypervisor → (z.ctx (supervisor t)).events = (s.ctx (supervisor t)).events ++ [e (supervisor t) 0] ∧
        (z.ctx hypervisor).events = (s.ctx hypervisor).events ++ [e hypervisor 1]) ∧
      (c = hypervisor → (z.ctx hypervisor).events = (s.ctx hypervisor).events ++ [e hypervisor 1] ∧
        (sendHost s 5 t.val 0 (eventBytes (e hypervisor 0))).pkg.out <+: z.pkg.out))

/-- L2 slice ports (R325, R351, R418, R419). A port with requests grants at most one: the next tenant after the last one granted that asks and has a token of its own, which
it spends; else, from the pool, the asking tenant of highest priority, the lower number on a tie; else a trace unit, whose requests count for no tenant; else none. The oldest request of the
granted one is granted, so that its access may be made, and every other request is a cycle older. Every cycle each tenant's fraction grows by its rate; a whole token goes into a bucket that is not full, and
otherwise into the pool, up to 4,096. -/
def Obligations.SlicePorts : Prop :=
  (∀ (s : State) (n : Nat) (x : L2Port), portOf s n = some x → (∀ y, y ∈ s.pkg.l2 → y.port = n → y = x) →
    let trace := fun (q : L2Req) => ∃ o, q.who = .trace o
    let mine := fun (t : TenantId) (q : L2Req) => q.tenant = t ∧ ¬ trace q
    let asks := fun (t : TenantId) => ∃ q, q ∈ x.reqs ∧ mine t q
    let older := fun (q : L2Req) => { q with wait := q.wait + 1 }
    let rich := fun (t : TenantId) => 1 ≤ (x.bucket t).1
    let turnOf := fun (t : TenantId) => (t.val + 63 - x.last % 64) % 64
    let prio := fun (t : TenantId) => (s.tenant t).qos.prio.toNat
    let i : Instr := .l2PortGrant n
    let grants := fun (m : L2Req → Prop) (P : L2Port → Prop) => ∃ before q after, x.reqs = before ++ q :: after ∧ m q ∧
      (∀ o, o ∈ before → ¬ m o) ∧ answers i s fun z => ∃ y, portOf z n = some y ∧ y.reqs = (before ++ after).map older ∧
        y.granted = x.granted ++ [(q.who, q.line)] ∧ P y
    (x.reqs = [] → exec i s = .next s) ∧
    (∀ t, asks t → rich t → (∀ o, asks o → rich o → turnOf t ≤ turnOf o) → grants (mine t) fun y =>
      (y.bucket t).1 = (x.bucket t).1 - 1 ∧ (∀ o, o ≠ t → y.bucket o = x.bucket o) ∧ y.last = t.val ∧ y.pool = x.pool) ∧
    (∀ t, asks t → (∀ o, asks o → ¬ rich o) → 0 < x.pool →
      (∀ o, asks o → prio o ≤ prio t ∧ (prio o = prio t → t.val ≤ o.val)) → grants (mine t) fun y =>
        y.pool = x.pool - 1 ∧ y.last = x.last ∧ ∀ o, y.bucket o = x.bucket o) ∧
    ((∃ q, q ∈ x.reqs ∧ trace q) → (∀ o, asks o → ¬ rich o ∧ x.pool = 0) → grants trace fun y =>
      y.pool = x.pool ∧ y.last = x.last ∧ ∀ o, y.bucket o = x.bucket o) ∧
    (x.reqs ≠ [] → (∀ q, q ∈ x.reqs → ¬ trace q) → (∀ o, asks o → ¬ rich o) → x.pool = 0 → answers i s fun z => ∃ y, portOf z n = some y ∧
      y.reqs = x.reqs.map older ∧ y.granted = x.granted ∧ y.pool = 0 ∧ ∀ o, y.bucket o = x.bucket o)) ∧
  (∀ (s : State) (n : Nat) (x : L2Port), portOf s n = some x →
    let f := fun (t : TenantId) => (x.bucket t).2 + (s.tenant t).qos.rate.toNat
    let full := fun (t : TenantId) => decide ((s.tenant t).qos.depth.toNat ≤ (x.bucket t).1)
    let spills := ((List.finRange 64).filter fun t => decide (1024 ≤ f t) && full t).length
    answers (.l2BucketRefill n) s fun z => ∃ y, portOf z n = some y ∧ y.reqs = x.reqs ∧ y.granted = x.granted ∧ y.last = x.last ∧
      (x.pool ≤ 4096 → y.pool = min 4096 (x.pool + spills)) ∧ ∀ t,
        (y.bucket t).2 = (if f t < 1024 then f t else f t - 1024) ∧
        (y.bucket t).1 = (if f t < 1024 ∨ full t = true then (x.bucket t).1 else (x.bucket t).1 + 1))

/-! ### Resets, the host and the links -/

/-- Resets (R329, R331, R333, R415). A room reset leaves the room and its Suite at their reset values with both clocks stopped, its wing and its last owner
kept. A die reset does the same to all rooms of the die with the clocks running, each room a wing of its own, and clears RCYC; every other die keeps RCYC. A tenant
reset removes the tenant's launches with a completion event each, leaves its rooms stopped at reset values, redraws its keys, keeps its ownership mask and
DETCTL, and leaves its supervisor stopped. Each of them ends with an event of kind 7 to the hypervisor. A package reset, or a thermal trip after its
event, is the state of reset, from which verified firmware starts the hypervisor. A RESET message of another endpoint than the fused one only counts its flit, and a
package that stays in reset answers it with a status only. Which ports have a partner (log 41) and the sources of the events of kind 7 and 9, 256 + 127 for
what concerns no tenant and 256 + t for a tenant (log 32), are the model's choices. -/
def Obligations.Resets : Prop :=
  (∀ (s : State) (u : SuiteId), answers (.resetRoom u) s fun z =>
    let r := z.room u
    z.suite u = { Suite.reset with stopped := true } ∧ r.stopped = true ∧ r.acc = (Room.reset u).acc ∧ r.pes = (Room.reset u).pes ∧ r.runs = [] ∧
    r.lastOwner = (s.room u).lastOwner ∧ (∀ t, (z.tenant t).mask = (s.tenant t).mask) ∧
    ∃ l, (z.ctx hypervisor).events = l ++ [⟨z.pkg.eventSeq - 1, 7, (match ownerOf? s u with | some t => t.val | none => 0), u.val, 3, (s.ctx hypervisor).hostfwd⟩]) ∧
  (∀ (s : State) (d : DieId), answers (.resetDie d) s fun z =>
    (∀ u, dieOf u = d.val → z.suite u = { Suite.reset with stopped := false } ∧ (z.room u).stopped = false ∧ (z.room u).wingLead = u ∧
      (z.room u).wingShape = 0 ∧ (z.room u).acc = (Room.reset u).acc ∧ (z.room u).pes = (Room.reset u).pes ∧ (z.room u).lastOwner = (s.room u).lastOwner) ∧
    z.pkg.rcyc.get d = 0 ∧ (∀ e, e ≠ d → z.pkg.rcyc.get e = s.pkg.rcyc.get e) ∧ (∀ t, (z.tenant t).mask = (s.tenant t).mask) ∧
    ∃ l, (z.ctx hypervisor).events = l ++ [⟨z.pkg.eventSeq - 1, 7, 0, 256 + 127, 1, (s.ctx hypervisor).hostfwd⟩]) ∧
  (∀ (s : State) (t : TenantId), answers (.resetTenant t) s fun z =>
    (z.tenant t).launches = [] ∧ (z.tenant t).mask = (s.tenant t).mask ∧ (z.tenant t).detctl = (s.tenant t).detctl ∧ (z.tenant t).locks = [] ∧
    (∀ u, owns s t u = true → z.suite u = { Suite.reset with stopped := true } ∧ (z.room u).stopped = true ∧ (z.room u).acc = (Room.reset u).acc) ∧
    (∀ k : Fin 128, (s.pkg.keys.get k).tenant = some t → (z.pkg.keys.get k).tenant = some t ∧ (z.pkg.keys.get k).draw = (s.pkg.keys.get k).draw + 1) ∧
    (∀ k : Fin 128, (s.pkg.keys.get k).tenant ≠ some t → z.pkg.keys.get k = s.pkg.keys.get k) ∧
    (z.ctx (supervisor t)).running = false ∧ (z.ctx (supervisor t)).segbase = 0 ∧
    (∀ x, x ∈ (s.tenant t).launches → ∃ e, e ∈ (z.ctx (supervisor t)).events ∧ e.kind = 1 ∧ e.payload = BitVec.ofNat 128 (x.id.toNat + 2 ^ 32)) ∧
    ∃ l, (z.ctx hypervisor).events = l ++ [⟨z.pkg.eventSeq - 1, 7, t.val, 256 + t.val, 2, (s.ctx hypervisor).hostfwd⟩]) ∧
  (∀ s : State,
    let begins := fun (s : State) (z : State) =>
      (Config.firmwareGood = false → z = { State.reset with inputs := s.inputs, resetFrom := s.resetFrom, fresh := s.fresh, pkg := { Package.reset with out := s.pkg.out } }) ∧
      (Config.firmwareGood = true → z.pkg.booted = true ∧ (z.ctx hypervisor).running = true ∧ z.pkg.images = [bootImage] ∧
        (z.stream ⟨.ctx hypervisor, .a⟩).running = true ∧ (z.stream ⟨.ctx hypervisor, .a⟩).pos = Config.bootEntryA.toNat * 16 ∧
        (z.stream ⟨.ctx hypervisor, .x⟩).pos = Config.bootEntryX.toNat * 16 ∧ (∀ c, c ≠ hypervisor → z.ctx c = Ctx.reset) ∧
        z.suites = State.reset.suites ∧ z.rooms = State.reset.rooms ∧ z.tenants = State.reset.tenants ∧ z.pkg.mem = [] ∧ z.pkg.out = s.pkg.out)
    let stays := s.pkg.booted = false ∧ Config.firmwareGood = false
    let taken := { s with resetFrom := s.resetFrom.tail }
    (stays → ∃ b, exec .packageReset s = .next (sendHost taken 3 0 0 [b])) ∧
    (s.pkg.booted = true → ∀ ep, s.resetFrom.head? = some ep → ep ≠ Config.hostEndpoint →
      exec .packageReset s = .next (countEvents taken (.ctx hypervisor) 0x11 1)) ∧
    (s.pkg.booted = true → s.resetFrom = [] ∨ s.resetFrom.head? = some Config.hostEndpoint → answers .packageReset s (begins taken)) ∧
    (s.pkg.booted = false → Config.firmwareGood = true → answers .packageReset s (begins s)) ∧
    answers .thermalTrip s (begins (sendHost s 5 0 0 (eventBytes ⟨s.pkg.eventSeq, 9, 0, 256 + 127, 0, true⟩))))

/-- The host, the ports and the routes (R268, R282, R283, R326, R330, R332, R333, R345, R422-R426). A message of the host counts its flits. A booted package answers a LAUNCH of a wrong length
with status 1, turns a DOORBELL into event kind 5, and answers QUOTE with the signed 512 bytes; one that stays in reset answers with a status only. A flit
that fails its check is asked for again with later ones, which are counted as replayed, and its seventeenth failure in a row takes the port down; a packet is taken once,
and no retry shows in a count. A port that goes down raises LINKDOWN at the hypervisor, and its packets wait without growing older until the routes are known
anew, when they and the flits of its replay buffer go to another port that is up; a retraining that succeeds clears down, and packets there wait too. A packet
without a route is discarded and counted, and passages to lost packages lose their slots. A packet of 4,096 link cycles enters the escape channel. As many flits leave a port that is up as the
cycle has link cycles: first those that are sent again, then one of the oldest packet of a class, the control class only after 15 bulk flits or when no bulk flit
may leave, a tenant of weight 0 only when no other may; a message is out with the last flit of its packet. A slot takes its number's place in its passage,
and a report of it is kept once. Throttling adds whole blocks of 8 cycles. The flits of a packet beyond its bytes, the link cycles in which the ordinary channels
take bulk and how many flits are asked for again are free (log 43); the tag of a reply and the source of LINKDOWN are the model's choices (logs 68, 32). -/
def Obligations.HostAndLinks : Prop :=
  (∀ (s : State) (t : TenantId) (tag : W16) (nonce : BitVec 256) (record : List Byte) (v : Word),
    let came := fun (n : Nat) => countEvents s (.ctx hypervisor) 0x11 n
    let stamped := fun (n : Nat) => (came n).modPkg fun p => { p with eventSeq := p.eventSeq + 1 }
    let size := flitsOf (64 + record.length)
    (s.pkg.booted = false → ∃ b,
      exec (.hostLaunch t tag record) s = .next (sendHost (came size) 1 t.val tag.toNat [b]) ∧
      ∃ c, exec (.hostDoorbell t v) s = .next (sendHost (came 2) 2 t.val 0 [c]) ∧
      ∃ d, exec (.hostQuote tag nonce) s = .next (sendHost (came 2) 4 0 tag.toNat [d])) ∧
    (s.pkg.booted = true →
      (record.length ≠ 128 → exec (.hostLaunch t tag record) s = .next (sendHost (stamped size) 1 t.val tag.toNat [1])) ∧
      (answers (.hostDoorbell t v) s fun z =>
        (z.ctx (supervisor t)).events = (s.ctx (supervisor t)).events ++
          [⟨s.pkg.eventSeq, 5, t.val, 0xffff, v.setWidth 128, (s.ctx (supervisor t)).hostfwd⟩]) ∧
      let head := leBytes 4 0x54514a45 ++ leBytes 4 1 ++ leBytes 8 Config.devId.toNat ++ digestBytes nonce ++ digestBytes Config.firmwareHash ++
        leBytes 16 Config.featOffered.toNat ++ leBytes 16 (s.pkg.featacc1 ++ s.pkg.featacc0).toNat ++ leBytes 16 0
      exec (.hostQuote tag nonce) s = .next (sendHost (stamped 2) 4 0 tag.toNat (head ++ leBytes 384 (Config.quoteSignature head).toNat)))) ∧
  (∀ (s : State) (port : Fin 12),
    let l := s.pkg.links.get port
    let up := fun (i : Fin 12) => (s.pkg.links.get i).trained = true ∧ (s.pkg.links.get i).down = false
    let isDown := fun (z : State) => (z.pkg.links.get port).down = true ∧
      (z.pkg.links.get port).downs = (if l.downs = 0xffff then l.downs else l.downs + 1) ∧
      (z.ctx hypervisor).events = (s.ctx hypervisor).events ++
        [⟨s.pkg.eventSeq, 2, 0, 383, trapBits ⟨0x80, 3, 0, 0, 0, BitVec.ofNat 64 port.val⟩, (s.ctx hypervisor).hostfwd⟩] ∧
      (z.pkg.links.get port).updating = true ∧ (z.pkg.links.get port).waiting = l.waiting ∧ (z.pkg.links.get port).escaped = l.escaped ∧
      (z.pkg.links.get port).sent = l.sent ∧ (z.pkg.links.get port).resend = l.resend ∧ ∀ i, i ≠ port → z.pkg.links.get i = s.pkg.links.get i
    (¬ up port → exec (.linkdown port) s = .next s ∧ ∀ ok src seq p, exec (.flitReceive port ok src seq p) s = .next s) ∧
    (up port → answers (.linkdown port) s isDown ∧ ∀ src seq p,
      let fails := if l.failing = some (src, seq) then l.fails + 1 else 1
      let clear := fun (x : Link) => if x.failing = some (src, seq) then { x with failing := none, fails := 0 } else x
      (fails = 17 → answers (.flitReceive port false src seq p) s isDown) ∧
      (fails ≠ 17 → exec (.flitReceive port false src seq p) s = .next (modLink { s with fresh := s.fresh + 1 } port fun x =>
        { x with failing := some (src, seq), fails := fails, retries := addRetries x.retries (Config.choice s.fresh % 256 + 1) })) ∧
      ((∃ i, (src, seq) ∈ (s.pkg.links.get i).accepted) → exec (.flitReceive port true src seq p) s = .next (modLink s port clear)) ∧
      ((∀ i, (src, seq) ∉ (s.pkg.links.get i).accepted) → ∀ n z,
        packetFlits (modLink s port fun x => { clear x with accepted := (src, seq) :: x.accepted }) p = (n, z) →
        exec (.flitReceive port true src seq p) s = .next (deliver (countEvents z (.ctx hypervisor) 0x11 n) src p))) ∧
    exec (.linkRetrain port true) s = .next (modLink s port fun x =>
      { x with trained := true, down := false, updating := x.updating || x.down, failing := none, fails := 0 }) ∧
    exec (.linkRetrain port false) s = .next s ∧
    (l.updating = true → exec (.escapeChannelEntry port) s = .next s) ∧
    (l.updating = false →
      let n := Config.choice s.fresh % 257
      let aged := l.waiting.map fun q => { q with age := q.age + 25 }
      let next := { l with waiting := aged.filter fun q => decide (q.age < 4096 * 16), escaped := l.escaped ++ aged.filter fun q => decide (4096 * 16 ≤ q.age),
                           time := (l.time + 25) % 16 }
      let again := { next with sent := l.sent.drop n, resend := (l.sent.take n).reverse ++ l.resend,
                               retries := addRetries l.retries (l.sent.take n).length }
      let put := fun (x : Link) => modLink { s with fresh := s.fresh + 1 } port fun _ => x
      (¬ up port → exec (.escapeChannelEntry port) s = .next (put next)) ∧
      (up port → exec (.escapeChannelEntry port) s = .next ((List.range ((l.time + 25) / 16)).foldl (fun z _ => sendFlit z port) (put again))))) ∧
  (∀ (s : State) (port : Fin 12),
    let l := s.pkg.links.get port
    let z := sendFlit s port
    let y := z.pkg.links.get port
    let weight := fun (t : TenantId) => (s.tenant t).qos.weight
    let opened := Config.choice s.fresh % 4 % 2 = 0
    let all := l.escaped ++ l.waiting
    let bulk := fun (q : Waiting) => q.control = false ∧ (q ∈ l.escaped ∨ (opened ∧ q ∈ l.waiting))
    let any := (∃ q, q ∈ all ∧ q.control = true) ∨ ∃ q, bulk q
    (∀ f rest, l.resend = f :: rest → z = modLink s port fun x => { x with resend := rest, sent := (f :: x.sent).take 256 }) ∧
    (l.resend = [] → ¬ any → z = { s with fresh := s.fresh + 1 }) ∧
    (l.resend = [] → any → ∃ w before after,
      let same := fun (q : Waiting) => q.control = w.control ∧ (w.control = true ∨ q.tenant = w.tenant)
      let left := before ++ (if w.flits ≤ 1 then after else { w with flits := w.flits - 1 } :: after)
      (∀ q, q ∈ before → ¬ same q) ∧
      ((l.waiting = before ++ w :: after ∧ y.waiting = left ∧ y.escaped = l.escaped) ∨
        (l.escaped = before ++ w :: after ∧ y.escaped = left ∧ y.waiting = l.waiting)) ∧
      y.sent = ((⟨w.dest, w.tenant, w.control, w.msg.seq⟩ : SentFlit) :: l.sent).take 256 ∧ y.resend = [] ∧
      z.pkg.out = s.pkg.out ++ (if w.flits ≤ 1 then [w.msg] else []) ∧
      (w.control = true → 15 ≤ l.control ∨ ∀ q, ¬ bulk q) ∧
      (w.control = false → bulk w ∧ (l.control < 15 ∨ ∀ q, q ∈ all → q.control = false) ∧ (weight w.tenant ≠ 0 ∨ ∀ q, bulk q → weight q.tenant = 0)) ∧
      ∀ i, i ≠ port → z.pkg.links.get i = s.pkg.links.get i)) ∧
  (∀ (s : State) (p : Packet), let n := (packetFlits s p).1
    1 ≤ n ∧ (p = .bulk → n ≤ 1024) ∧ (∀ t q k d, p = .slot t q k d → flitsOf (6 + d.length) ≤ n ∧ n ≤ flitsOf (6 + d.length) + 1) ∧
    (∀ t g o i k ws, p = .collWords t g o i k ws → flitsOf (15 + 4 * ws.length) ≤ n ∧ n ≤ flitsOf (15 + 4 * ws.length) + 1)) ∧
  (∀ (s : State) (source n : Nat) (t : TenantId) (p : Fin 8) (data : List Byte),
    let x := passage s 4 p
    let z := deliver s source (.slot t p n data)
    let y := passage z 4 p
    let mine := x.en = true ∧ x.tenant = t.val
    (mine → x.nextSlot ≤ n → x.used + (n + 1 - x.nextSlot) ≤ x.depth →
      y.slots = x.slots ++ ((List.range (n - x.nextSlot)).map fun i => (x.nextSlot + i, none)) ++ [(n, some (tileOfBytes data))] ∧
        y.used = x.used + (n + 1 - x.nextSlot) ∧ y.nextSlot = n + 1) ∧
    (mine → n < x.nextSlot → (n, none) ∈ x.slots → y = { x with slots := x.slots.map fun q => if q.1 = n then (n, some (tileOfBytes data)) else q }) ∧
    (¬ mine ∨ (x.nextSlot ≤ n ∧ x.depth < x.used + (n + 1 - x.nextSlot)) ∨ (n < x.nextSlot ∧ (n, none) ∉ x.slots) → z = s)) ∧
  (∀ (s : State) (source n : Nat) (t : TenantId) (p : Fin 8), let x := passage s 3 p
    passage (deliver s source (.slotFull t p n)) 3 p =
      if x.tenant = t.val ∧ n < x.nextSlot ∧ n ∉ x.filled then { x with filled := n :: x.filled } else x) ∧
  (∀ (s : State) (l : List Nat),
    let keep := fun (d : Nat) => d == 0xffff || l.contains d
    let lost := s.pkg.links.toList.foldl (fun n x => n + (x.waiting.filter fun q => !keep q.dest).length + (x.escaped.filter fun q => !keep q.dest).length) 0
    answers (.routeUpdate l) s fun z => z.pkg.routes = some l ∧
      (let old := fun (i : Fin 12) => s.pkg.links.get i
        let new := fun (i : Fin 12) => z.pkg.links.get i
        let up := fun (i : Fin 12) => (old i).trained = true ∧ (old i).down = false
        let kept := fun (w : List Waiting) => w.filter fun q => keep q.dest
        let flits := fun (w : List SentFlit) => w.filter fun q => keep q.dest
        z.pkg.linklost = BitVec.ofNat 32 (min 0xffffffff (s.pkg.linklost.toNat + lost)) ∧
        (∀ i, (new i).updating = false ∧ (new i).down = (old i).down) ∧
        ((∀ i, (old i).down = false ∨ ¬ ∃ j, up j) → ∀ i, kept (old i).waiting <+: (new i).waiting ∧ (new i).escaped = kept (old i).escaped ∧
          (new i).sent = flits (old i).sent ∧ (new i).resend = flits (old i).resend) ∧
        ((∃ j, up j) → ∀ i,
          ((old i).down = true → (new i).waiting = [] ∧ (new i).escaped = [] ∧ (new i).sent = [] ∧ (new i).resend = [] ∧
            (∀ q ∈ kept (old i).waiting, ∃ j, up j ∧ q ∈ (new j).waiting) ∧ (∀ q ∈ kept (old i).escaped, ∃ j, up j ∧ q ∈ (new j).escaped) ∧
            ∀ f ∈ flits (old i).sent ++ flits (old i).resend, ∃ j, up j ∧ f ∈ (new j).resend) ∧
          ((old i).down = false → kept (old i).waiting <+: (new i).waiting ∧ kept (old i).escaped <+: (new i).escaped ∧
            (new i).sent = flits (old i).sent ∧ flits (old i).resend <+: (new i).resend))) ∧
      ∀ b p, b = 3 ∨ b = 4 → (passage s b p).en = true → (passage s b p).peer ≠ Config.pkgId.toNat → keep (passage s b p).peer = false →
        (passage z b p).slots = [] ∧ (passage z b p).used = 0) ∧
  (∀ (s : State) (d : DieId) (n : Nat), exec (.powerThrottle d n) s =
    .next (s.modPkg fun p => { p with throttle := p.throttle.set d.val (p.throttle.get d + 8 * n) d.isLt }))

/-- Every step keeps the canonical form of every memory: physical memory and the 64 Local Stores stay strictly rising lists without an entry that an unlisted
address reads as. (The form is the model's own; that a step does not lose it is what makes equal contents equal data.) -/
def Obligations.StepKeepsMemories : Prop :=
  ∀ s t : State, s.memoriesWf = true → step s = .next t → t.memoriesWf = true
end

