-- ==== Sys2Proof/Laws/State.lean ====
section
/-! SUPPORT. What each replacement of a part of the state leaves and gives: one lemma per field and update, so that no proof unfolds an update. -/

namespace Sys2Proof.Machine

/-- Reading an entry of a vector after one entry was replaced. -/
theorem vget_set {α : Type} {n : Nat} (v : Vector α n) (i j : Fin n) (x : α) :
    (v.set i.val x i.isLt).get j = if i = j then x else v.get j := by
  show (v.set i.val x i.isLt)[j.val] = if i = j then x else v[j.val]
  simp [Vector.getElem_set, Fin.ext_iff]

/-! ### setSuite -/

@[simp] theorem State.setSuite_cycle (s : State) (u : SuiteId) (x : Suite) : (s.setSuite u x).cycle = s.cycle := rfl
@[simp] theorem State.setSuite_fabric (s : State) (u : SuiteId) (x : Suite) : (s.setSuite u x).fabric = s.fabric := rfl
@[simp] theorem State.setSuite_rooms (s : State) (u : SuiteId) (x : Suite) : (s.setSuite u x).rooms = s.rooms := rfl
@[simp] theorem State.setSuite_ctxs (s : State) (u : SuiteId) (x : Suite) : (s.setSuite u x).ctxs = s.ctxs := rfl
@[simp] theorem State.setSuite_tenants (s : State) (u : SuiteId) (x : Suite) : (s.setSuite u x).tenants = s.tenants := rfl
@[simp] theorem State.setSuite_pkg (s : State) (u : SuiteId) (x : Suite) : (s.setSuite u x).pkg = s.pkg := rfl
@[simp] theorem State.setSuite_cur (s : State) (u : SuiteId) (x : Suite) : (s.setSuite u x).cur = s.cur := rfl
@[simp] theorem State.setSuite_turns (s : State) (u : SuiteId) (x : Suite) : (s.setSuite u x).turns = s.turns := rfl
@[simp] theorem State.setSuite_inputs (s : State) (u : SuiteId) (x : Suite) : (s.setSuite u x).inputs = s.inputs := rfl
@[simp] theorem State.setSuite_resetFrom (s : State) (u : SuiteId) (x : Suite) : (s.setSuite u x).resetFrom = s.resetFrom := rfl
@[simp] theorem State.setSuite_fresh (s : State) (u : SuiteId) (x : Suite) : (s.setSuite u x).fresh = s.fresh := rfl

/-! ### modSuite -/

@[simp] theorem State.modSuite_cycle (s : State) (u : SuiteId) (f : Suite → Suite) : (s.modSuite u f).cycle = s.cycle := rfl
@[simp] theorem State.modSuite_fabric (s : State) (u : SuiteId) (f : Suite → Suite) : (s.modSuite u f).fabric = s.fabric := rfl
@[simp] theorem State.modSuite_rooms (s : State) (u : SuiteId) (f : Suite → Suite) : (s.modSuite u f).rooms = s.rooms := rfl
@[simp] theorem State.modSuite_ctxs (s : State) (u : SuiteId) (f : Suite → Suite) : (s.modSuite u f).ctxs = s.ctxs := rfl
@[simp] theorem State.modSuite_tenants (s : State) (u : SuiteId) (f : Suite → Suite) : (s.modSuite u f).tenants = s.tenants := rfl
@[simp] theorem State.modSuite_pkg (s : State) (u : SuiteId) (f : Suite → Suite) : (s.modSuite u f).pkg = s.pkg := rfl
@[simp] theorem State.modSuite_cur (s : State) (u : SuiteId) (f : Suite → Suite) : (s.modSuite u f).cur = s.cur := rfl
@[simp] theorem State.modSuite_turns (s : State) (u : SuiteId) (f : Suite → Suite) : (s.modSuite u f).turns = s.turns := rfl
@[simp] theorem State.modSuite_inputs (s : State) (u : SuiteId) (f : Suite → Suite) : (s.modSuite u f).inputs = s.inputs := rfl
@[simp] theorem State.modSuite_resetFrom (s : State) (u : SuiteId) (f : Suite → Suite) : (s.modSuite u f).resetFrom = s.resetFrom := rfl
@[simp] theorem State.modSuite_fresh (s : State) (u : SuiteId) (f : Suite → Suite) : (s.modSuite u f).fresh = s.fresh := rfl

/-! ### setRoom -/

@[simp] theorem State.setRoom_cycle (s : State) (u : SuiteId) (x : Room) : (s.setRoom u x).cycle = s.cycle := rfl
@[simp] theorem State.setRoom_fabric (s : State) (u : SuiteId) (x : Room) : (s.setRoom u x).fabric = s.fabric := rfl
@[simp] theorem State.setRoom_suites (s : State) (u : SuiteId) (x : Room) : (s.setRoom u x).suites = s.suites := rfl
@[simp] theorem State.setRoom_ctxs (s : State) (u : SuiteId) (x : Room) : (s.setRoom u x).ctxs = s.ctxs := rfl
@[simp] theorem State.setRoom_tenants (s : State) (u : SuiteId) (x : Room) : (s.setRoom u x).tenants = s.tenants := rfl
@[simp] theorem State.setRoom_pkg (s : State) (u : SuiteId) (x : Room) : (s.setRoom u x).pkg = s.pkg := rfl
@[simp] theorem State.setRoom_cur (s : State) (u : SuiteId) (x : Room) : (s.setRoom u x).cur = s.cur := rfl
@[simp] theorem State.setRoom_turns (s : State) (u : SuiteId) (x : Room) : (s.setRoom u x).turns = s.turns := rfl
@[simp] theorem State.setRoom_inputs (s : State) (u : SuiteId) (x : Room) : (s.setRoom u x).inputs = s.inputs := rfl
@[simp] theorem State.setRoom_resetFrom (s : State) (u : SuiteId) (x : Room) : (s.setRoom u x).resetFrom = s.resetFrom := rfl
@[simp] theorem State.setRoom_fresh (s : State) (u : SuiteId) (x : Room) : (s.setRoom u x).fresh = s.fresh := rfl

/-! ### modRoom -/

@[simp] theorem State.modRoom_cycle (s : State) (u : SuiteId) (f : Room → Room) : (s.modRoom u f).cycle = s.cycle := rfl
@[simp] theorem State.modRoom_fabric (s : State) (u : SuiteId) (f : Room → Room) : (s.modRoom u f).fabric = s.fabric := rfl
@[simp] theorem State.modRoom_suites (s : State) (u : SuiteId) (f : Room → Room) : (s.modRoom u f).suites = s.suites := rfl
@[simp] theorem State.modRoom_ctxs (s : State) (u : SuiteId) (f : Room → Room) : (s.modRoom u f).ctxs = s.ctxs := rfl
@[simp] theorem State.modRoom_tenants (s : State) (u : SuiteId) (f : Room → Room) : (s.modRoom u f).tenants = s.tenants := rfl
@[simp] theorem State.modRoom_pkg (s : State) (u : SuiteId) (f : Room → Room) : (s.modRoom u f).pkg = s.pkg := rfl
@[simp] theorem State.modRoom_cur (s : State) (u : SuiteId) (f : Room → Room) : (s.modRoom u f).cur = s.cur := rfl
@[simp] theorem State.modRoom_turns (s : State) (u : SuiteId) (f : Room → Room) : (s.modRoom u f).turns = s.turns := rfl
@[simp] theorem State.modRoom_inputs (s : State) (u : SuiteId) (f : Room → Room) : (s.modRoom u f).inputs = s.inputs := rfl
@[simp] theorem State.modRoom_resetFrom (s : State) (u : SuiteId) (f : Room → Room) : (s.modRoom u f).resetFrom = s.resetFrom := rfl
@[simp] theorem State.modRoom_fresh (s : State) (u : SuiteId) (f : Room → Room) : (s.modRoom u f).fresh = s.fresh := rfl

/-! ### setCtx -/

@[simp] theorem State.setCtx_cycle (s : State) (c : CtxId) (x : Ctx) : (s.setCtx c x).cycle = s.cycle := rfl
@[simp] theorem State.setCtx_fabric (s : State) (c : CtxId) (x : Ctx) : (s.setCtx c x).fabric = s.fabric := rfl
@[simp] theorem State.setCtx_suites (s : State) (c : CtxId) (x : Ctx) : (s.setCtx c x).suites = s.suites := rfl
@[simp] theorem State.setCtx_rooms (s : State) (c : CtxId) (x : Ctx) : (s.setCtx c x).rooms = s.rooms := rfl
@[simp] theorem State.setCtx_tenants (s : State) (c : CtxId) (x : Ctx) : (s.setCtx c x).tenants = s.tenants := rfl
@[simp] theorem State.setCtx_pkg (s : State) (c : CtxId) (x : Ctx) : (s.setCtx c x).pkg = s.pkg := rfl
@[simp] theorem State.setCtx_cur (s : State) (c : CtxId) (x : Ctx) : (s.setCtx c x).cur = s.cur := rfl
@[simp] theorem State.setCtx_turns (s : State) (c : CtxId) (x : Ctx) : (s.setCtx c x).turns = s.turns := rfl
@[simp] theorem State.setCtx_inputs (s : State) (c : CtxId) (x : Ctx) : (s.setCtx c x).inputs = s.inputs := rfl
@[simp] theorem State.setCtx_resetFrom (s : State) (c : CtxId) (x : Ctx) : (s.setCtx c x).resetFrom = s.resetFrom := rfl
@[simp] theorem State.setCtx_fresh (s : State) (c : CtxId) (x : Ctx) : (s.setCtx c x).fresh = s.fresh := rfl

/-! ### modCtx -/

@[simp] theorem State.modCtx_cycle (s : State) (c : CtxId) (f : Ctx → Ctx) : (s.modCtx c f).cycle = s.cycle := rfl
@[simp] theorem State.modCtx_fabric (s : State) (c : CtxId) (f : Ctx → Ctx) : (s.modCtx c f).fabric = s.fabric := rfl
@[simp] theorem State.modCtx_suites (s : State) (c : CtxId) (f : Ctx → Ctx) : (s.modCtx c f).suites = s.suites := rfl
@[simp] theorem State.modCtx_rooms (s : State) (c : CtxId) (f : Ctx → Ctx) : (s.modCtx c f).rooms = s.rooms := rfl
@[simp] theorem State.modCtx_tenants (s : State) (c : CtxId) (f : Ctx → Ctx) : (s.modCtx c f).tenants = s.tenants := rfl
@[simp] theorem State.modCtx_pkg (s : State) (c : CtxId) (f : Ctx → Ctx) : (s.modCtx c f).pkg = s.pkg := rfl
@[simp] theorem State.modCtx_cur (s : State) (c : CtxId) (f : Ctx → Ctx) : (s.modCtx c f).cur = s.cur := rfl
@[simp] theorem State.modCtx_turns (s : State) (c : CtxId) (f : Ctx → Ctx) : (s.modCtx c f).turns = s.turns := rfl
@[simp] theorem State.modCtx_inputs (s : State) (c : CtxId) (f : Ctx → Ctx) : (s.modCtx c f).inputs = s.inputs := rfl
@[simp] theorem State.modCtx_resetFrom (s : State) (c : CtxId) (f : Ctx → Ctx) : (s.modCtx c f).resetFrom = s.resetFrom := rfl
@[simp] theorem State.modCtx_fresh (s : State) (c : CtxId) (f : Ctx → Ctx) : (s.modCtx c f).fresh = s.fresh := rfl

/-! ### setTenant -/

@[simp] theorem State.setTenant_cycle (s : State) (t : TenantId) (x : Tenant) : (s.setTenant t x).cycle = s.cycle := rfl
@[simp] theorem State.setTenant_fabric (s : State) (t : TenantId) (x : Tenant) : (s.setTenant t x).fabric = s.fabric := rfl
@[simp] theorem State.setTenant_suites (s : State) (t : TenantId) (x : Tenant) : (s.setTenant t x).suites = s.suites := rfl
@[simp] theorem State.setTenant_rooms (s : State) (t : TenantId) (x : Tenant) : (s.setTenant t x).rooms = s.rooms := rfl
@[simp] theorem State.setTenant_ctxs (s : State) (t : TenantId) (x : Tenant) : (s.setTenant t x).ctxs = s.ctxs := rfl
@[simp] theorem State.setTenant_pkg (s : State) (t : TenantId) (x : Tenant) : (s.setTenant t x).pkg = s.pkg := rfl
@[simp] theorem State.setTenant_cur (s : State) (t : TenantId) (x : Tenant) : (s.setTenant t x).cur = s.cur := rfl
@[simp] theorem State.setTenant_turns (s : State) (t : TenantId) (x : Tenant) : (s.setTenant t x).turns = s.turns := rfl
@[simp] theorem State.setTenant_inputs (s : State) (t : TenantId) (x : Tenant) : (s.setTenant t x).inputs = s.inputs := rfl
@[simp] theorem State.setTenant_resetFrom (s : State) (t : TenantId) (x : Tenant) : (s.setTenant t x).resetFrom = s.resetFrom := rfl
@[simp] theorem State.setTenant_fresh (s : State) (t : TenantId) (x : Tenant) : (s.setTenant t x).fresh = s.fresh := rfl

/-! ### modTenant -/

@[simp] theorem State.modTenant_cycle (s : State) (t : TenantId) (f : Tenant → Tenant) : (s.modTenant t f).cycle = s.cycle := rfl
@[simp] theorem State.modTenant_fabric (s : State) (t : TenantId) (f : Tenant → Tenant) : (s.modTenant t f).fabric = s.fabric := rfl
@[simp] theorem State.modTenant_suites (s : State) (t : TenantId) (f : Tenant → Tenant) : (s.modTenant t f).suites = s.suites := rfl
@[simp] theorem State.modTenant_rooms (s : State) (t : TenantId) (f : Tenant → Tenant) : (s.modTenant t f).rooms = s.rooms := rfl
@[simp] theorem State.modTenant_ctxs (s : State) (t : TenantId) (f : Tenant → Tenant) : (s.modTenant t f).ctxs = s.ctxs := rfl
@[simp] theorem State.modTenant_pkg (s : State) (t : TenantId) (f : Tenant → Tenant) : (s.modTenant t f).pkg = s.pkg := rfl
@[simp] theorem State.modTenant_cur (s : State) (t : TenantId) (f : Tenant → Tenant) : (s.modTenant t f).cur = s.cur := rfl
@[simp] theorem State.modTenant_turns (s : State) (t : TenantId) (f : Tenant → Tenant) : (s.modTenant t f).turns = s.turns := rfl
@[simp] theorem State.modTenant_inputs (s : State) (t : TenantId) (f : Tenant → Tenant) : (s.modTenant t f).inputs = s.inputs := rfl
@[simp] theorem State.modTenant_resetFrom (s : State) (t : TenantId) (f : Tenant → Tenant) : (s.modTenant t f).resetFrom = s.resetFrom := rfl
@[simp] theorem State.modTenant_fresh (s : State) (t : TenantId) (f : Tenant → Tenant) : (s.modTenant t f).fresh = s.fresh := rfl

/-! ### modPkg -/

@[simp] theorem State.modPkg_cycle (s : State) (f : Package → Package) : (s.modPkg f).cycle = s.cycle := rfl
@[simp] theorem State.modPkg_fabric (s : State) (f : Package → Package) : (s.modPkg f).fabric = s.fabric := rfl
@[simp] theorem State.modPkg_suites (s : State) (f : Package → Package) : (s.modPkg f).suites = s.suites := rfl
@[simp] theorem State.modPkg_rooms (s : State) (f : Package → Package) : (s.modPkg f).rooms = s.rooms := rfl
@[simp] theorem State.modPkg_ctxs (s : State) (f : Package → Package) : (s.modPkg f).ctxs = s.ctxs := rfl
@[simp] theorem State.modPkg_tenants (s : State) (f : Package → Package) : (s.modPkg f).tenants = s.tenants := rfl
@[simp] theorem State.modPkg_cur (s : State) (f : Package → Package) : (s.modPkg f).cur = s.cur := rfl
@[simp] theorem State.modPkg_turns (s : State) (f : Package → Package) : (s.modPkg f).turns = s.turns := rfl
@[simp] theorem State.modPkg_inputs (s : State) (f : Package → Package) : (s.modPkg f).inputs = s.inputs := rfl
@[simp] theorem State.modPkg_resetFrom (s : State) (f : Package → Package) : (s.modPkg f).resetFrom = s.resetFrom := rfl
@[simp] theorem State.modPkg_fresh (s : State) (f : Package → Package) : (s.modPkg f).fresh = s.fresh := rfl

/-! ### Reading a suite after an update -/

@[simp] theorem State.suite_setSuite (s : State) (i j : SuiteId) (x : Suite) : (s.setSuite i x).suite j = if i = j then x else s.suite j := by
  simp [State.suite, State.setSuite, vget_set]
@[simp] theorem State.suite_modSuite (s : State) (i j : SuiteId) (f : Suite → Suite) : (s.modSuite i f).suite j = if i = j then f (s.suite i) else s.suite j := by
  simp [State.modSuite]
@[simp] theorem State.suite_setRoom (s : State) (u : SuiteId) (x : Room) (k : SuiteId) : (s.setRoom u x).suite k = s.suite k := rfl
@[simp] theorem State.suite_modRoom (s : State) (u : SuiteId) (f : Room → Room) (k : SuiteId) : (s.modRoom u f).suite k = s.suite k := rfl
@[simp] theorem State.suite_setCtx (s : State) (c : CtxId) (x : Ctx) (k : SuiteId) : (s.setCtx c x).suite k = s.suite k := rfl
@[simp] theorem State.suite_modCtx (s : State) (c : CtxId) (f : Ctx → Ctx) (k : SuiteId) : (s.modCtx c f).suite k = s.suite k := rfl
@[simp] theorem State.suite_setTenant (s : State) (t : TenantId) (x : Tenant) (k : SuiteId) : (s.setTenant t x).suite k = s.suite k := rfl
@[simp] theorem State.suite_modTenant (s : State) (t : TenantId) (f : Tenant → Tenant) (k : SuiteId) : (s.modTenant t f).suite k = s.suite k := rfl
@[simp] theorem State.suite_modPkg (s : State) (f : Package → Package) (k : SuiteId) : (s.modPkg f).suite k = s.suite k := rfl

/-! ### Reading a room after an update -/

@[simp] theorem State.room_setRoom (s : State) (i j : SuiteId) (x : Room) : (s.setRoom i x).room j = if i = j then x else s.room j := by
  simp [State.room, State.setRoom, vget_set]
@[simp] theorem State.room_modRoom (s : State) (i j : SuiteId) (f : Room → Room) : (s.modRoom i f).room j = if i = j then f (s.room i) else s.room j := by
  simp [State.modRoom]
@[simp] theorem State.room_setSuite (s : State) (u : SuiteId) (x : Suite) (k : SuiteId) : (s.setSuite u x).room k = s.room k := rfl
@[simp] theorem State.room_modSuite (s : State) (u : SuiteId) (f : Suite → Suite) (k : SuiteId) : (s.modSuite u f).room k = s.room k := rfl
@[simp] theorem State.room_setCtx (s : State) (c : CtxId) (x : Ctx) (k : SuiteId) : (s.setCtx c x).room k = s.room k := rfl
@[simp] theorem State.room_modCtx (s : State) (c : CtxId) (f : Ctx → Ctx) (k : SuiteId) : (s.modCtx c f).room k = s.room k := rfl
@[simp] theorem State.room_setTenant (s : State) (t : TenantId) (x : Tenant) (k : SuiteId) : (s.setTenant t x).room k = s.room k := rfl
@[simp] theorem State.room_modTenant (s : State) (t : TenantId) (f : Tenant → Tenant) (k : SuiteId) : (s.modTenant t f).room k = s.room k := rfl
@[simp] theorem State.room_modPkg (s : State) (f : Package → Package) (k : SuiteId) : (s.modPkg f).room k = s.room k := rfl

/-! ### Reading a ctx after an update -/

@[simp] theorem State.ctx_setCtx (s : State) (i j : CtxId) (x : Ctx) : (s.setCtx i x).ctx j = if i = j then x else s.ctx j := by
  simp [State.ctx, State.setCtx, vget_set]
@[simp] theorem State.ctx_modCtx (s : State) (i j : CtxId) (f : Ctx → Ctx) : (s.modCtx i f).ctx j = if i = j then f (s.ctx i) else s.ctx j := by
  simp [State.modCtx]
@[simp] theorem State.ctx_setSuite (s : State) (u : SuiteId) (x : Suite) (k : CtxId) : (s.setSuite u x).ctx k = s.ctx k := rfl
@[simp] theorem State.ctx_modSuite (s : State) (u : SuiteId) (f : Suite → Suite) (k : CtxId) : (s.modSuite u f).ctx k = s.ctx k := rfl
@[simp] theorem State.ctx_setRoom (s : State) (u : SuiteId) (x : Room) (k : CtxId) : (s.setRoom u x).ctx k = s.ctx k := rfl
@[simp] theorem State.ctx_modRoom (s : State) (u : SuiteId) (f : Room → Room) (k : CtxId) : (s.modRoom u f).ctx k = s.ctx k := rfl
@[simp] theorem State.ctx_setTenant (s : State) (t : TenantId) (x : Tenant) (k : CtxId) : (s.setTenant t x).ctx k = s.ctx k := rfl
@[simp] theorem State.ctx_modTenant (s : State) (t : TenantId) (f : Tenant → Tenant) (k : CtxId) : (s.modTenant t f).ctx k = s.ctx k := rfl
@[simp] theorem State.ctx_modPkg (s : State) (f : Package → Package) (k : CtxId) : (s.modPkg f).ctx k = s.ctx k := rfl

/-! ### Reading a tenant after an update -/

@[simp] theorem State.tenant_setTenant (s : State) (i j : TenantId) (x : Tenant) : (s.setTenant i x).tenant j = if i = j then x else s.tenant j := by
  simp [State.tenant, State.setTenant, vget_set]
@[simp] theorem State.tenant_modTenant (s : State) (i j : TenantId) (f : Tenant → Tenant) : (s.modTenant i f).tenant j = if i = j then f (s.tenant i) else s.tenant j := by
  simp [State.modTenant]
@[simp] theorem State.tenant_setSuite (s : State) (u : SuiteId) (x : Suite) (k : TenantId) : (s.setSuite u x).tenant k = s.tenant k := rfl
@[simp] theorem State.tenant_modSuite (s : State) (u : SuiteId) (f : Suite → Suite) (k : TenantId) : (s.modSuite u f).tenant k = s.tenant k := rfl
@[simp] theorem State.tenant_setRoom (s : State) (u : SuiteId) (x : Room) (k : TenantId) : (s.setRoom u x).tenant k = s.tenant k := rfl
@[simp] theorem State.tenant_modRoom (s : State) (u : SuiteId) (f : Room → Room) (k : TenantId) : (s.modRoom u f).tenant k = s.tenant k := rfl
@[simp] theorem State.tenant_setCtx (s : State) (c : CtxId) (x : Ctx) (k : TenantId) : (s.setCtx c x).tenant k = s.tenant k := rfl
@[simp] theorem State.tenant_modCtx (s : State) (c : CtxId) (f : Ctx → Ctx) (k : TenantId) : (s.modCtx c f).tenant k = s.tenant k := rfl
@[simp] theorem State.tenant_modPkg (s : State) (f : Package → Package) (k : TenantId) : (s.modPkg f).tenant k = s.tenant k := rfl

@[simp] theorem State.pkg_modPkg (s : State) (f : Package → Package) : (s.modPkg f).pkg = f s.pkg := rfl

/-! ### Banks and streams -/

@[simp] theorem State.setBank_cycle (s : State) (r : BankRef) (x : Bank) : (s.setBank r x).cycle = s.cycle := by cases r <;> rfl
@[simp] theorem State.modBank_cycle (s : State) (r : BankRef) (f : Bank → Bank) : (s.modBank r f).cycle = s.cycle := by cases r <;> rfl
@[simp] theorem State.modStream_cycle (s : State) (ag : Agent) (f : Stream → Stream) : (s.modStream ag f).cycle = s.cycle := by
  simp [State.modStream]
@[simp] theorem State.setBank_fabric (s : State) (r : BankRef) (x : Bank) : (s.setBank r x).fabric = s.fabric := by cases r <;> rfl
@[simp] theorem State.modBank_fabric (s : State) (r : BankRef) (f : Bank → Bank) : (s.modBank r f).fabric = s.fabric := by cases r <;> rfl
@[simp] theorem State.modStream_fabric (s : State) (ag : Agent) (f : Stream → Stream) : (s.modStream ag f).fabric = s.fabric := by
  simp [State.modStream]
@[simp] theorem State.setBank_rooms (s : State) (r : BankRef) (x : Bank) : (s.setBank r x).rooms = s.rooms := by cases r <;> rfl
@[simp] theorem State.modBank_rooms (s : State) (r : BankRef) (f : Bank → Bank) : (s.modBank r f).rooms = s.rooms := by cases r <;> rfl
@[simp] theorem State.modStream_rooms (s : State) (ag : Agent) (f : Stream → Stream) : (s.modStream ag f).rooms = s.rooms := by
  simp [State.modStream]
@[simp] theorem State.setBank_tenants (s : State) (r : BankRef) (x : Bank) : (s.setBank r x).tenants = s.tenants := by cases r <;> rfl
@[simp] theorem State.modBank_tenants (s : State) (r : BankRef) (f : Bank → Bank) : (s.modBank r f).tenants = s.tenants := by cases r <;> rfl
@[simp] theorem State.modStream_tenants (s : State) (ag : Agent) (f : Stream → Stream) : (s.modStream ag f).tenants = s.tenants := by
  simp [State.modStream]
@[simp] theorem State.setBank_pkg (s : State) (r : BankRef) (x : Bank) : (s.setBank r x).pkg = s.pkg := by cases r <;> rfl
@[simp] theorem State.modBank_pkg (s : State) (r : BankRef) (f : Bank → Bank) : (s.modBank r f).pkg = s.pkg := by cases r <;> rfl
@[simp] theorem State.modStream_pkg (s : State) (ag : Agent) (f : Stream → Stream) : (s.modStream ag f).pkg = s.pkg := by
  simp [State.modStream]
@[simp] theorem State.setBank_cur (s : State) (r : BankRef) (x : Bank) : (s.setBank r x).cur = s.cur := by cases r <;> rfl
@[simp] theorem State.modBank_cur (s : State) (r : BankRef) (f : Bank → Bank) : (s.modBank r f).cur = s.cur := by cases r <;> rfl
@[simp] theorem State.modStream_cur (s : State) (ag : Agent) (f : Stream → Stream) : (s.modStream ag f).cur = s.cur := by
  simp [State.modStream]
@[simp] theorem State.setBank_turns (s : State) (r : BankRef) (x : Bank) : (s.setBank r x).turns = s.turns := by cases r <;> rfl
@[simp] theorem State.modBank_turns (s : State) (r : BankRef) (f : Bank → Bank) : (s.modBank r f).turns = s.turns := by cases r <;> rfl
@[simp] theorem State.modStream_turns (s : State) (ag : Agent) (f : Stream → Stream) : (s.modStream ag f).turns = s.turns := by
  simp [State.modStream]
@[simp] theorem State.setBank_inputs (s : State) (r : BankRef) (x : Bank) : (s.setBank r x).inputs = s.inputs := by cases r <;> rfl
@[simp] theorem State.setBank_resetFrom (s : State) (r : BankRef) (x : Bank) : (s.setBank r x).resetFrom = s.resetFrom := by cases r <;> rfl
@[simp] theorem State.modBank_inputs (s : State) (r : BankRef) (f : Bank → Bank) : (s.modBank r f).inputs = s.inputs := by cases r <;> rfl
@[simp] theorem State.modBank_resetFrom (s : State) (r : BankRef) (f : Bank → Bank) : (s.modBank r f).resetFrom = s.resetFrom := by cases r <;> rfl
@[simp] theorem State.modStream_inputs (s : State) (ag : Agent) (f : Stream → Stream) : (s.modStream ag f).inputs = s.inputs := by
  simp [State.modStream]
@[simp] theorem State.modStream_resetFrom (s : State) (ag : Agent) (f : Stream → Stream) : (s.modStream ag f).resetFrom = s.resetFrom := by
  simp [State.modStream]
@[simp] theorem State.setBank_fresh (s : State) (r : BankRef) (x : Bank) : (s.setBank r x).fresh = s.fresh := by cases r <;> rfl
@[simp] theorem State.modBank_fresh (s : State) (r : BankRef) (f : Bank → Bank) : (s.modBank r f).fresh = s.fresh := by cases r <;> rfl
@[simp] theorem State.modStream_fresh (s : State) (ag : Agent) (f : Stream → Stream) : (s.modStream ag f).fresh = s.fresh := by
  simp [State.modStream]

@[simp] theorem State.bank_setBank_same (s : State) (r : BankRef) (x : Bank) : (s.setBank r x).bank r = x := by
  cases r <;> simp [State.setBank, State.bank, vget_set]
@[simp] theorem State.bank_modBank_same (s : State) (r : BankRef) (f : Bank → Bank) : (s.modBank r f).bank r = f (s.bank r) := by
  simp [State.modBank]
@[simp] theorem State.bank_modPkg (s : State) (r : BankRef) (f : Package → Package) : (s.modPkg f).bank r = s.bank r := by
  cases r <;> rfl
@[simp] theorem State.bank_modRoom (s : State) (r : BankRef) (u : SuiteId) (f : Room → Room) : (s.modRoom u f).bank r = s.bank r := by
  cases r <;> rfl
@[simp] theorem State.bank_modTenant (s : State) (r : BankRef) (t : TenantId) (f : Tenant → Tenant) : (s.modTenant t f).bank r = s.bank r := by
  cases r <;> rfl
/-- A bank that is not the one written keeps its value. -/
theorem State.bank_setBank_ne (s : State) (r q : BankRef) (x : Bank) (h : r ≠ q) : (s.setBank r x).bank q = s.bank q := by
  cases r with
  | bank u b =>
    cases q with
    | bank v k =>
      by_cases hu : u = v
      · subst hu
        have : b ≠ k := fun e => h (by rw [e])
        simp [State.setBank, State.bank, vget_set, this]
      · simp [State.setBank, State.bank, hu]
    | ctx c => simp [State.setBank, State.bank]
  | ctx c =>
    cases q with
    | bank v k => simp [State.setBank, State.bank]
    | ctx d =>
      have : c ≠ d := fun e => h (by rw [e])
      simp [State.setBank, State.bank, this]
@[simp] theorem Bank.stream_setStream (b : Bank) (k : StreamKind) (x : Stream) : (b.setStream k x).stream k = x := by cases k <;> rfl
@[simp] theorem State.stream_modStream (s : State) (ag : Agent) (f : Stream → Stream) : (s.modStream ag f).stream ag = f (s.stream ag) := by
  simp [State.modStream, State.stream]

end Sys2Proof.Machine
end

