-- ==== Sys2Proof/Laws/Issue.lean ====
section
/-! SUPPORT. The issue protocol: its five outcomes, and what an issue leaves alone. -/

namespace Sys2Proof.Machine

/-! ### OnlyIssue and SameRegs compose -/

theorem OnlyIssue.refl (s : State) (ag : Agent) : OnlyIssue s s ag :=
  ⟨rfl, rfl, rfl, rfl, rfl, rfl, rfl, rfl, fun _ => rfl, fun _ => rfl, fun _ _ => rfl, rfl⟩

theorem OnlyIssue.trans {s t v : State} {ag : Agent} (h : OnlyIssue s t ag) (g : OnlyIssue t v ag) : OnlyIssue s v ag :=
  ⟨g.cycle.trans h.cycle, g.fabric.trans h.fabric, g.rooms.trans h.rooms, g.tenants.trans h.tenants, g.pkg.trans h.pkg, g.cur.trans h.cur,
   g.inputs.trans h.inputs, g.fresh.trans h.fresh, fun u => (g.suites u).trans (h.suites u), fun c => (g.ctxs c).trans (h.ctxs c),
   fun r hr => (g.others r hr).trans (h.others r hr), g.bank.trans h.bank⟩

theorem SameRegs.refl (s : State) (ag : Agent) : SameRegs s s ag := ⟨rfl, rfl, rfl, fun _ => rfl⟩

theorem SameRegs.trans {s t v : State} {ag : Agent} (h : SameRegs s t ag) (g : SameRegs t v ag) : SameRegs s v ag :=
  ⟨g.a.trans h.a, g.e.trans h.e, g.fly.trans h.fly, fun u => (g.c u).trans (h.c u)⟩

/-! ### What the blanked parts still say -/

theorem Stream.kept_running {x y : Stream} (h : x.kept = y.kept) : x.running = y.running := show x.kept.running = y.kept.running by rw [h]
theorem Stream.kept_semNew {x y : Stream} (h : x.kept = y.kept) : x.semNew = y.semNew := show x.kept.semNew = y.kept.semNew by rw [h]
theorem Stream.kept_frm {x y : Stream} (h : x.kept = y.kept) : x.frm = y.frm := show x.kept.frm = y.kept.frm by rw [h]
theorem Stream.kept_xflg {x y : Stream} (h : x.kept = y.kept) : x.xflg = y.xflg := show x.kept.xflg = y.kept.xflg by rw [h]
theorem Stream.kept_semsat {x y : Stream} (h : x.kept = y.kept) : x.semsat = y.semsat := show x.kept.semsat = y.kept.semsat by rw [h]
theorem Stream.kept_waittmo {x y : Stream} (h : x.kept = y.kept) : x.waittmo = y.waittmo := show x.kept.waittmo = y.kept.waittmo by rw [h]
theorem Stream.kept_rlOver {x y : Stream} (h : x.kept = y.kept) : x.rlOver = y.rlOver := show x.kept.rlOver = y.kept.rlOver by rw [h]
theorem Stream.kept_rlUnder {x y : Stream} (h : x.kept = y.kept) : x.rlUnder = y.rlUnder := show x.kept.rlUnder = y.kept.rlUnder by rw [h]
theorem Stream.kept_labels {x y : Stream} (h : x.kept = y.kept) : x.labels = y.labels := show x.kept.labels = y.kept.labels by rw [h]
theorem Stream.kept_hndl {x y : Stream} (h : x.kept = y.kept) : x.hndl = y.hndl := show x.kept.hndl = y.kept.hndl by rw [h]
theorem Stream.kept_tfbase {x y : Stream} (h : x.kept = y.kept) : x.tfbase = y.tfbase := show x.kept.tfbase = y.kept.tfbase by rw [h]
theorem Stream.kept_tfdepth {x y : Stream} (h : x.kept = y.kept) : x.tfdepth = y.tfdepth := show x.kept.tfdepth = y.kept.tfdepth by rw [h]
theorem Stream.kept_blocked {x y : Stream} (h : x.kept = y.kept) : x.blocked = y.blocked := show x.kept.blocked = y.kept.blocked by rw [h]
theorem Stream.kept_flagHeld {x y : Stream} (h : x.kept = y.kept) : x.flagHeld = y.flagHeld := show x.kept.flagHeld = y.kept.flagHeld by rw [h]
theorem Bank.kept_cq {x y : Bank} (h : x.kept = y.kept) : x.cq = y.cq := show x.kept.cq = y.kept.cq by rw [h]
theorem Bank.kept_cqNew {x y : Bank} (h : x.kept = y.kept) : x.cqNew = y.cqNew := show x.kept.cqNew = y.kept.cqNew by rw [h]
theorem Bank.kept_tok {x y : Bank} (h : x.kept = y.kept) : x.tok = y.tok := show x.kept.tok = y.kept.tok by rw [h]
theorem Bank.kept_tokNew {x y : Bank} (h : x.kept = y.kept) : x.tokNew = y.tokNew := show x.kept.tokNew = y.kept.tokNew by rw [h]
theorem Bank.kept_visit {x y : Bank} (h : x.kept = y.kept) : x.visit = y.visit := show x.kept.visit = y.kept.visit by rw [h]
theorem Bank.kept_lq {x y : Bank} (h : x.kept = y.kept) : x.lq = y.lq := show x.kept.lq = y.kept.lq by rw [h]
theorem Bank.kept_sq {x y : Bank} (h : x.kept = y.kept) : x.sq = y.sq := show x.kept.sq = y.kept.sq by rw [h]
theorem Bank.kept_nextSeq {x y : Bank} (h : x.kept = y.kept) : x.nextSeq = y.nextSeq := show x.kept.nextSeq = y.kept.nextSeq by rw [h]
theorem Bank.kept_aligns {x y : Bank} (h : x.kept = y.kept) : x.aligns = y.aligns := show x.kept.aligns = y.kept.aligns by rw [h]
theorem Bank.kept_replay {x y : Bank} (h : x.kept = y.kept) : x.replay = y.replay := show x.kept.replay = y.kept.replay by rw [h]
theorem Bank.kept_pageWait {x y : Bank} (h : x.kept = y.kept) : x.pageWait = y.pageWait := show x.kept.pageWait = y.kept.pageWait by rw [h]
theorem Bank.kept_switched {x y : Bank} (h : x.kept = y.kept) : x.switched = y.switched := show x.kept.switched = y.kept.switched by rw [h]
theorem Bank.kept_traps {x y : Bank} (h : x.kept = y.kept) : x.traps = y.traps := show x.kept.traps = y.kept.traps by rw [h]
theorem Bank.kept_trapsLater {x y : Bank} (h : x.kept = y.kept) : x.trapsLater = y.trapsLater := show x.kept.trapsLater = y.kept.trapsLater by rw [h]
theorem Bank.kept_trapAt {x y : Bank} (h : x.kept = y.kept) : x.trapAt = y.trapAt := show x.kept.trapAt = y.kept.trapAt by rw [h]
theorem Bank.kept_divs {x y : Bank} (h : x.kept = y.kept) : x.divs = y.divs := show x.kept.divs = y.kept.divs by rw [h]
theorem Bank.kept_prefetch {x y : Bank} (h : x.kept = y.kept) : x.prefetch = y.prefetch := show x.kept.prefetch = y.kept.prefetch by rw [h]
theorem Bank.kept_phase {x y : Bank} (h : x.kept = y.kept) : x.phase = y.phase := show x.kept.phase = y.kept.phase by rw [h]
theorem Bank.kept_sync {x y : Bank} (h : x.kept = y.kept) : x.sync = y.sync := show x.kept.sync = y.kept.sync by rw [h]
theorem Bank.kept_deadCount {x y : Bank} (h : x.kept = y.kept) : x.deadCount = y.deadCount := show x.kept.deadCount = y.kept.deadCount by rw [h]
theorem Bank.kept_yieldLeft {x y : Bank} (h : x.kept = y.kept) : x.yieldLeft = y.yieldLeft := show x.kept.yieldLeft = y.kept.yieldLeft by rw [h]
theorem Suite.kept_tiles {x y : Suite} (h : x.kept = y.kept) : x.tiles = y.tiles := show x.kept.tiles = y.kept.tiles by rw [h]
theorem Suite.kept_flags {x y : Suite} (h : x.kept = y.kept) : x.flags = y.flags := show x.kept.flags = y.kept.flags by rw [h]
theorem Suite.kept_leftover {x y : Suite} (h : x.kept = y.kept) : x.leftover = y.leftover := show x.kept.leftover = y.kept.leftover by rw [h]
theorem Suite.kept_masks {x y : Suite} (h : x.kept = y.kept) : x.masks = y.masks := show x.kept.masks = y.kept.masks by rw [h]
theorem Suite.kept_ls {x y : Suite} (h : x.kept = y.kept) : x.ls = y.ls := show x.kept.ls = y.kept.ls by rw [h]
theorem Suite.kept_l1mib {x y : Suite} (h : x.kept = y.kept) : x.l1mib = y.l1mib := show x.kept.l1mib = y.kept.l1mib by rw [h]
theorem Suite.kept_mq {x y : Suite} (h : x.kept = y.kept) : x.mq = y.mq := show x.kept.mq = y.kept.mq by rw [h]
theorem Suite.kept_mrun {x y : Suite} (h : x.kept = y.kept) : x.mrun = y.mrun := show x.kept.mrun = y.kept.mrun by rw [h]
theorem Suite.kept_cqueue {x y : Suite} (h : x.kept = y.kept) : x.cqueue = y.cqueue := show x.kept.cqueue = y.kept.cqueue by rw [h]
theorem Suite.kept_crun {x y : Suite} (h : x.kept = y.kept) : x.crun = y.crun := show x.kept.crun = y.kept.crun by rw [h]
theorem Suite.kept_lastBank {x y : Suite} (h : x.kept = y.kept) : x.lastBank = y.lastBank := show x.kept.lastBank = y.kept.lastBank by rw [h]
theorem Suite.kept_stopped {x y : Suite} (h : x.kept = y.kept) : x.stopped = y.stopped := show x.kept.stopped = y.kept.stopped by rw [h]
theorem Suite.kept_snapIn {x y : Suite} (h : x.kept = y.kept) : x.snapIn = y.snapIn := show x.kept.snapIn = y.kept.snapIn by rw [h]
theorem Suite.kept_dbgarm {x y : Suite} (h : x.kept = y.kept) : x.dbgarm = y.dbgarm := show x.kept.dbgarm = y.kept.dbgarm by rw [h]
theorem Suite.kept_wpaddr {x y : Suite} (h : x.kept = y.kept) : x.wpaddr = y.wpaddr := show x.kept.wpaddr = y.kept.wpaddr by rw [h]
theorem Suite.kept_wpctl {x y : Suite} (h : x.kept = y.kept) : x.wpctl = y.wpctl := show x.kept.wpctl = y.kept.wpctl by rw [h]
theorem Suite.kept_ologsp {x y : Suite} (h : x.kept = y.kept) : x.ologsp = y.ologsp := show x.kept.ologsp = y.kept.ologsp by rw [h]

theorem OnlyIssue.stream {s t : State} {ag : Agent} (o : OnlyIssue s t ag) (k : StreamKind) :
    (t.stream ⟨ag.bank, k⟩).kept = (s.stream ⟨ag.bank, k⟩).kept := by
  have h1 : ((t.bank ag.bank).sa).kept = ((s.bank ag.bank).sa).kept := show (t.bank ag.bank).kept.sa = (s.bank ag.bank).kept.sa by rw [o.bank]
  have h2 : ((t.bank ag.bank).sx).kept = ((s.bank ag.bank).sx).kept := show (t.bank ag.bank).kept.sx = (s.bank ag.bank).kept.sx by rw [o.bank]
  cases k
  · exact h1
  · exact h2
  · exact h1
  · exact h1

/-! ### Updates of one bank, Suite or context -/

/-- Replacing a bank leaves every Suite but its banks. -/
theorem State.suite_setBank (s : State) (r : BankRef) (x : Bank) (u : SuiteId) :
    { (s.setBank r x).suite u with banks := (s.suite u).banks } = s.suite u := by
  cases r with
  | ctx c => simp [State.setBank]
  | bank v b => by_cases h : v = u <;> simp [State.setBank, h]

theorem State.suite_setBank_kept (s : State) (r : BankRef) (x : Bank) (u : SuiteId) : ((s.setBank r x).suite u).kept = (s.suite u).kept := by
  rw [← State.suite_setBank s r x u]; rfl

theorem State.chanter_setBank (s : State) (r : BankRef) (x : Bank) (u : SuiteId) : ((s.setBank r x).suite u).chanter = (s.suite u).chanter := by
  rw [← State.suite_setBank s r x u]

/-- Replacing a bank leaves every context but its registers. -/
theorem State.ctx_setBank_kept (s : State) (r : BankRef) (x : Bank) (c : CtxId) : ((s.setBank r x).ctx c).kept = (s.ctx c).kept := by
  cases r with
  | bank v b => simp [State.setBank]
  | ctx d => by_cases h : d = c <;> simp [State.setBank, h, Ctx.kept]

theorem onlyIssue_modBank (s : State) (ag : Agent) (f : Bank → Bank) (h : (f (s.bank ag.bank)).kept = (s.bank ag.bank).kept) :
    OnlyIssue s (s.modBank ag.bank f) ag where
  cycle := by simp
  fabric := by simp
  rooms := by simp
  tenants := by simp
  pkg := by simp
  cur := by simp
  inputs := by simp
  fresh := by simp
  suites := fun _ => State.suite_setBank_kept ..
  ctxs := fun _ => State.ctx_setBank_kept ..
  others := fun _ hr => State.bank_setBank_ne _ _ _ _ (Ne.symm hr)
  bank := by simpa using h

theorem sameRegs_modBank (s : State) (ag : Agent) (f : Bank → Bank) (ha : (f (s.bank ag.bank)).a = (s.bank ag.bank).a)
    (he : (f (s.bank ag.bank)).e = (s.bank ag.bank).e) (hf : (f (s.bank ag.bank)).fly = (s.bank ag.bank).fly) :
    SameRegs s (s.modBank ag.bank f) ag :=
  ⟨by simpa using ha, by simpa using he, by simpa using hf, fun u => congrArg Chanter.c (State.chanter_setBank ..)⟩

theorem State.bank_modSuite (s : State) (u : SuiteId) (f : Suite → Suite) (h : (f (s.suite u)).banks = (s.suite u).banks) (r : BankRef) :
    (s.modSuite u f).bank r = s.bank r := by
  cases r with
  | ctx c => rfl
  | bank v b => by_cases e : u = v <;> simp [State.bank, e]; subst e; rw [h]

theorem onlyIssue_modSuite (s : State) (ag : Agent) (u : SuiteId) (f : Suite → Suite) (hb : (f (s.suite u)).banks = (s.suite u).banks)
    (hk : (f (s.suite u)).kept = (s.suite u).kept) : OnlyIssue s (s.modSuite u f) ag where
  cycle := rfl
  fabric := rfl
  rooms := rfl
  tenants := rfl
  pkg := rfl
  cur := rfl
  inputs := rfl
  fresh := rfl
  suites := fun v => by
    by_cases e : u = v <;> simp [e]
    subst e; exact hk
  ctxs := fun _ => rfl
  others := fun r _ => State.bank_modSuite s u f hb r
  bank := by rw [State.bank_modSuite s u f hb]

theorem sameRegs_modSuite (s : State) (ag : Agent) (u : SuiteId) (f : Suite → Suite) (hb : (f (s.suite u)).banks = (s.suite u).banks)
    (hc : (f (s.suite u)).chanter.c = (s.suite u).chanter.c) : SameRegs s (s.modSuite u f) ag := by
  have h := State.bank_modSuite s u f hb ag.bank
  refine ⟨by rw [h], by rw [h], by rw [h], fun v => ?_⟩
  by_cases e : u = v <;> simp [e]
  subst e; exact hc

theorem State.bank_modCtx (s : State) (c : CtxId) (f : Ctx → Ctx) (h : (f (s.ctx c)).regs = (s.ctx c).regs) (r : BankRef) :
    (s.modCtx c f).bank r = s.bank r := by
  cases r with
  | bank v b => rfl
  | ctx d => by_cases e : c = d <;> simp [State.bank, e]; subst e; exact h

/-! ### The parts of an issue -/

theorem onlyIssue_modStream (s : State) (ag : Agent) (f : Stream → Stream) (h : (f (s.stream ag)).kept = (s.stream ag).kept) :
    OnlyIssue s (s.modStream ag f) ag := by
  refine onlyIssue_modBank s ag _ ?_
  unfold State.stream at h
  cases hk : ag.kind <;> simp only [hk, Bank.stream] at h <;> simp [Bank.kept, Bank.setStream, Bank.stream, h]

theorem sameRegs_modStream (s : State) (ag : Agent) (f : Stream → Stream) : SameRegs s (s.modStream ag f) ag := by
  refine sameRegs_modBank s ag _ ?_ ?_ ?_ <;> cases ag.kind <;> rfl

/-- Both frames at once. -/
def Bookkeeping (s t : State) (ag : Agent) : Prop := OnlyIssue s t ag ∧ SameRegs s t ag

theorem Bookkeeping.trans {s t v : State} {ag : Agent} (h : Bookkeeping s t ag) (g : Bookkeeping t v ag) : Bookkeeping s v ag :=
  ⟨h.1.trans g.1, h.2.trans g.2⟩

theorem Bookkeeping.refl (s : State) (ag : Agent) : Bookkeeping s s ag := ⟨.refl s ag, .refl s ag⟩

theorem bookkeeping_modStream (s : State) (ag : Agent) (f : Stream → Stream) (h : (f (s.stream ag)).kept = (s.stream ag).kept) :
    Bookkeeping s (s.modStream ag f) ag := ⟨onlyIssue_modStream s ag f h, sameRegs_modStream s ag f⟩

theorem semTake_bookkeeping (s : State) (ag : Agent) (w : BitVec 4) : Bookkeeping s (semTake s ag w) ag := by
  unfold semTake
  split
  · exact bookkeeping_modStream s ag _ rfl
  · exact .refl s ag

theorem l1Clear_bookkeeping (s : State) (ag : Agent) (u : SuiteId) : Bookkeeping s (l1Clear s u) ag :=
  ⟨onlyIssue_modSuite s ag u _ rfl rfl, sameRegs_modSuite s ag u _ rfl rfl⟩

theorem settleFence_bookkeeping (s : State) (ag : Agent) : Bookkeeping s (settleFence s ag.bank) ag := by
  have clear : Bookkeeping s (s.modBank ag.bank fun b => { b with fence := none }) ag :=
    ⟨onlyIssue_modBank s ag _ rfl, sameRegs_modBank s ag _ rfl rfl rfl⟩
  unfold settleFence
  split
  · exact .refl s ag
  · split
    · exact .refl s ag
    · split
      · split
        · exact clear.trans (l1Clear_bookkeeping _ ag _)
        · exact clear
      · exact clear

theorem countEvents_bookkeeping (s : State) (ag : Agent) (code n : Nat) : Bookkeeping s (countEvents s ag.bank code n) ag := by
  unfold countEvents
  split
  · exact .refl s ag
  · split
    · split
      · exact .refl s ag
      · exact ⟨onlyIssue_modSuite s ag _ _ rfl rfl, sameRegs_modSuite s ag _ _ rfl rfl⟩
    · rename_i k _
      split
      · have hb := State.bank_modCtx s k (fun x => { x with counters := countIn x.counters code n }) rfl
        refine ⟨⟨rfl, rfl, rfl, rfl, rfl, rfl, rfl, rfl, fun _ => rfl, fun c => ?_, fun r _ => hb r, by rw [hb]⟩,
          ⟨by rw [hb], by rw [hb], by rw [hb], fun _ => rfl⟩⟩
        by_cases e : k = c <;> simp [e, Ctx.kept]
      · exact .refl s ag

theorem setLastMode_bookkeeping (s : State) (ag : Agent) (m : Bool) : Bookkeeping s (setLastMode s ag m) ag := by
  unfold setLastMode
  split
  · exact ⟨onlyIssue_modSuite s ag _ _ rfl rfl, sameRegs_modSuite s ag _ _ rfl rfl⟩
  · exact bookkeeping_modStream s ag _ rfl

theorem setPos_bookkeeping (s : State) (ag : Agent) (p : Nat) (h : ag.kind ≠ .drain) : Bookkeeping s (setPos s ag p) ag := by
  unfold setPos
  split
  · exact ⟨onlyIssue_modSuite s ag _ _ rfl rfl, sameRegs_modSuite s ag _ _ rfl rfl⟩
  · rename_i hk; exact absurd hk h
  · exact bookkeeping_modStream s ag _ rfl

/-! ### Trace and debug capture off -/

/-- `quiet` for a given agent. -/
def quietFor (s : State) (ag : Agent) : Prop :=
  (s.tenant (tenantOf s ag.bank)).trace.ctl.getLsbD 0 = false ∧ (s.tenant (tenantOf s ag.bank)).trace.ctl.getLsbD 5 = false

theorem quietFor_of_quiet {s : State} (h : quiet s = true) : quietFor s s.cur := by
  simpa [quiet, quietFor] using h

theorem OnlyIssue.tenantOf {s t : State} {ag : Agent} (h : OnlyIssue s t ag) : tenantOf t ag.bank = tenantOf s ag.bank := by
  cases hb : ag.bank with
  | bank u b =>
    have hv : (t.bank ag.bank).visit = (s.bank ag.bank).visit := by
      have := congrArg Bank.visit h.bank; exact this
    rw [hb] at hv
    show (match (t.bank (.bank u b)).visit with | some v => v.tenant | none => 0) = _
    rw [hv]; rfl
  | ctx c =>
    show ctxTenant t c = ctxTenant s c
    unfold ctxTenant
    have hc : (t.ctx c).helperTenant = (s.ctx c).helperTenant := by
      have := congrArg Ctx.helperTenant (h.ctxs c); exact this
    simp only [hc, h.pkg]

theorem OnlyIssue.tenant {s t : State} {ag : Agent} (h : OnlyIssue s t ag) (k : TenantId) : t.tenant k = s.tenant k := by
  simp only [State.tenant, h.tenants]

theorem quietFor_keep {s t : State} {ag : Agent} (h : OnlyIssue s t ag) (q : quietFor s ag) : quietFor t ag := by
  unfold quietFor at q ⊢
  rw [h.tenantOf, h.tenant]; exact q

theorem traceOn_quiet {s : State} {ag : Agent} (q : quietFor s ag) (k : Nat) (l : W16) : traceOn s (tenantOf s ag.bank) k l = false := by
  simp only [traceOn, traceFits, q.1, Bool.false_and]

theorem waitRecord_quiet (s : State) (ag : Agent) (a b c d : Nat) (q : quietFor s ag) : waitRecord s ag a b c d = s := by
  simp only [waitRecord, traceOn_quiet q, Bool.false_and, Bool.false_eq_true, if_false]

theorem loopIteration_quiet (s : State) (ag : Agent) (lid n : Nat) (q : quietFor s ag) : loopIteration s ag lid n = s := by
  have h2 : dbgOn s (tenantOf s ag.bank) = false := q.2
  unfold loopIteration
  simp only [traceOn_quiet q, Bool.and_false, Bool.false_eq_true, if_false]
  split
  · rfl
  · simp only [h2, Bool.and_false, Bool.false_and, Bool.false_eq_true, if_false]

theorem loopIterations_quiet (ag : Agent) (s : State) (q : quietFor s ag) : ∀ (l : List (Nat × Nat)),
    l.foldl (fun s x => loopIteration s ag x.1 x.2) s = s
  | [] => rfl
  | x :: l => by rw [List.foldl_cons, loopIteration_quiet s ag x.1 x.2 q]; exact loopIterations_quiet ag s q l

/-- The loop rule changes loops and position alone. -/
theorem loopEnd_kept (pos next : Nat) : ∀ (n : Nat) (st : Stream), (loopEnd pos next n st).2.1.kept = st.kept
  | 0, _ => rfl
  | n + 1, st => by
    unfold loopEnd
    split
    · rfl
    · rename_i i _
      dsimp only
      split
      · rfl
      · exact (loopEnd_kept pos next n _).trans rfl

theorem advance_bookkeeping (s : State) (ag : Agent) (words : Nat) (h : ag.kind ≠ .drain) (q : quietFor s ag) :
    Bookkeeping s (advance s ag words) ag := by
  unfold advance
  dsimp only
  split
  · exact setPos_bookkeeping s ag _ h
  · have hk := loopEnd_kept (posOf s ag) (sequential s ag words) 6 (s.stream ag)
    have b : Bookkeeping s (s.modStream ag fun _ => { (loopEnd (posOf s ag) (sequential s ag words) 6 (s.stream ag)).2.1 with
        pos := (loopEnd (posOf s ag) (sequential s ag words) 6 (s.stream ag)).1 }) ag :=
      bookkeeping_modStream s ag _ (Eq.trans rfl hk)
    have := loopIterations_quiet ag _ (quietFor_keep b.1 q) (loopEnd (posOf s ag) (sequential s ag words) 6 (s.stream ag)).2.2
    rw [this]; exact b

/-- The frame of an issue: with trace and debug capture off, an issue changes nothing but what `OnlyIssue` and `SameRegs` leave open. -/
theorem complete_bookkeeping (s : State) (ag : Agent) (w : BitVec 4) (p : Plan) (h : ag.kind ≠ .drain) (q : quietFor s ag) :
    Bookkeeping s (complete s ag w { p with act := fun t => t }) ag := by
  unfold complete endWait
  dsimp only
  have b1 : Bookkeeping s (settleFence (semTake s ag w) ag.bank) ag :=
    (semTake_bookkeeping s ag w).trans (settleFence_bookkeeping _ ag)
  generalize settleFence (semTake s ag w) ag.bank = t1 at b1
  have b2 : Bookkeeping s (if (t1.stream ag).flagWait = 0 ∨ ag.kind = .chanter then t1 else
      (waitRecord t1 ag p.wait.1 (t1.stream ag).flagWait p.wait.2.1 p.wait.2.2).modStream ag fun x => { x with flagWait := 0 }) ag := by
    split
    · exact b1
    · rw [waitRecord_quiet _ _ _ _ _ _ (quietFor_keep b1.1 q)]
      exact b1.trans (bookkeeping_modStream _ ag _ rfl)
  generalize (if (t1.stream ag).flagWait = 0 ∨ ag.kind = .chanter then t1 else
      (waitRecord t1 ag p.wait.1 (t1.stream ag).flagWait p.wait.2.1 p.wait.2.2).modStream ag fun x => { x with flagWait := 0 }) = t2 at b2
  have b3 := (b2.trans (setLastMode_bookkeeping t2 ag (lineMode s ag))).trans
    (countEvents_bookkeeping (setLastMode t2 ag (lineMode s ag)) ag (if ag.kind = .x then 6 else 5) 1)
  generalize countEvents (setLastMode t2 ag (lineMode s ag)) ag.bank (if ag.kind = .x then 6 else 5) 1 = t3 at b3
  have b4 : Bookkeeping s (if ag.kind = .x then t3 else match ag.bank with
      | .bank u _ => t3.modSuite u fun x => { x with aPort := true }
      | .ctx _ => t3) ag := by
    split
    · exact b3
    · split
      · exact b3.trans ⟨onlyIssue_modSuite _ ag _ _ rfl rfl, sameRegs_modSuite _ ag _ _ rfl rfl⟩
      · exact b3
  generalize (if ag.kind = .x then t3 else match ag.bank with
      | .bank u _ => t3.modSuite u fun x => { x with aPort := true }
      | .ctx _ => t3) = t4 at b4
  split
  · exact b4.trans (setPos_bookkeeping t4 ag _ h)
  · exact b4.trans (advance_bookkeeping t4 ag _ h (quietFor_keep b4.1 q))

/-! ### The landing of one register result -/

theorem wrote_onlyIssue (s : State) (ag : Agent) (l : List (StreamKind × Reg)) :
    OnlyIssue s (s.modBank ag.bank fun b => { b with wrote := b.wrote ++ l }) ag := onlyIssue_modBank s ag _ rfl

theorem wrote_regs (s : State) (ag : Agent) (l : List (StreamKind × Reg)) :
    let t := s.modBank ag.bank fun b => { b with wrote := b.wrote ++ l }
    (t.bank ag.bank).a = (s.bank ag.bank).a ∧ (t.bank ag.bank).e = (s.bank ag.bank).e ∧ ∀ u, (t.suite u).chanter = (s.suite u).chanter :=
  ⟨by simp, by simp, fun _ => State.chanter_setBank ..⟩

theorem readA_congr {s t : State} {ag : Agent} (ha : (t.bank ag.bank).a = (s.bank ag.bank).a)
    (hc : (t.suite ag.suite).chanter.c = (s.suite ag.suite).chanter.c) (n : BitVec 5) : readA t ag n = readA s ag n := by
  simp only [readA, ha, hc]

theorem writeA_onlyIssue (s : State) (ag : Agent) (d : BitVec 5) (v : Word) : OnlyIssue s (writeA s ag d v) ag := by
  unfold writeA
  split
  · exact onlyIssue_modSuite s ag _ _ rfl rfl
  · split
    · exact .refl s ag
    · exact onlyIssue_modBank s ag _ rfl

/-- A write of an address register: the register reads the value (a0 still reads zero) and every other one what it read before. In a chanter line
the destination is one of the c registers (R43, R44). -/
theorem readA_writeA (s : State) (ag : Agent) (d n : BitVec 5) (v : Word) (h : ag.kind = .chanter → 24 ≤ d.toNat) :
    readA (writeA s ag d v) ag n = if n = d ∧ (ag.kind = .chanter ∨ n ≠ 0) then v else readA s ag n := by
  unfold writeA readA
  by_cases hk : ag.kind = .chanter
  · have hd := h hk
    simp only [hk, true_and, true_or, and_true, if_true]
    by_cases hn : 24 ≤ n.toNat
    · simp only [hn, if_true]
      have : ∀ (i j : Fin 8), i.val = d.toNat % 8 → j.val = n.toNat % 8 → (i = j ↔ n = d) := fun i j hi hj => by
        rw [Fin.ext_iff, hi, hj, ← BitVec.toNat_inj]
        have := n.isLt; have := d.isLt; omega
      simp only [State.suite_modSuite, if_true]
      rw [show ∀ (c : Vector Word 8) (hlt : d.toNat % 8 < 8), c.set (d.toNat % 8) v hlt = c.set (⟨d.toNat % 8, hlt⟩ : Fin 8).val v hlt from
        fun _ _ => rfl, vget_set]
      simp only [this ⟨d.toNat % 8, by omega⟩ ⟨n.toNat % 8, by omega⟩ rfl rfl]
    · have ne : n ≠ d := by rintro rfl; exact hn hd
      simp only [hn, if_false, ne]
      rw [State.bank_modSuite s _ _ rfl]
  · simp only [hk, false_and, if_false, false_or]
    by_cases d0 : d = 0
    · subst d0
      by_cases n0 : n = 0 <;> simp [n0]
    · by_cases n0 : n = 0
      · simp [n0]
      · simp only [d0, n0, if_false, State.bank_modBank_same, ne_eq, not_false_eq_true, and_true]
        have : ((s.bank ag.bank).a.set d.toNat v d.isLt).get ⟨n.toNat, n.isLt⟩ =
            if (⟨d.toNat, d.isLt⟩ : Fin 32) = ⟨n.toNat, n.isLt⟩ then v else (s.bank ag.bank).a.get ⟨n.toNat, n.isLt⟩ := vget_set _ _ _ _
        rw [this]
        simp only [Fin.mk.injEq, BitVec.toNat_inj, eq_comm]

theorem writeA_e (s : State) (ag : Agent) (d : BitVec 5) (v : Word) : ((writeA s ag d v).bank ag.bank).e = (s.bank ag.bank).e := by
  unfold writeA
  split
  · rw [State.bank_modSuite s _ _ rfl]
  · split
    · rfl
    · simp

/-- One address-register result: nothing but that register and the results in flight changes, and a result that lands at once is read back. -/
theorem emit_a (s : State) (ag : Agent) (cls : Nat) (d : BitVec 5) (v : Word) (h : ag.kind = .chanter → 24 ≤ d.toNat) :
    OnlyIssue s (emit s ag cls [.a d v]) ag ∧
    ((emit s ag cls [.a d v]).bank ag.bank).e = (s.bank ag.bank).e ∧
    (∀ n, readA (emit s ag cls [.a d v]) ag n =
      if latencyOf s ag.bank cls ≤ 1 ∧ n = d ∧ (ag.kind = .chanter ∨ n ≠ 0) then v else readA s ag n) ∧
    (ag.kind ≠ .chanter → ∀ u, ((emit s ag cls [.a d v]).suite u).chanter.c = (s.suite u).chanter.c) ∧
    (¬ latencyOf s ag.bank cls ≤ 1 → (emit s ag cls [.a d v]) =
      s.modBank ag.bank fun b => { b with fly := b.fly ++ [⟨ag.kind, latencyOf s ag.bank cls - 1, [.a d v], 0, s.cycle, false⟩] }) := by
  unfold emit
  dsimp only
  split
  · rename_i l
    simp only [l, true_and, not_true_eq_false, false_implies, and_true]
    have e0 : ∀ t : State, recordFlags t ag.bank (0 : Flags) = t := fun t => by simp [recordFlags]
    have e1 : ∀ t : State, landResults t ag.bank ag.kind [.a d v] = writeA t ag d v := fun t => rfl
    rw [e0, e1]
    generalize hr : ((List.flatMap (resultRegs ag.kind) [Result.a d v]).map fun x => (ag.kind, x)) = regs
    have o := wrote_onlyIssue s ag regs
    obtain ⟨ga, ge, gc⟩ := wrote_regs s ag regs
    refine ⟨o.trans (writeA_onlyIssue _ ag d v), (writeA_e _ ag d v).trans ge, fun n => ?_, fun hk u => ?_⟩
    · rw [readA_writeA _ ag d n v h, readA_congr ga (congrArg Chanter.c (gc _))]
    · unfold writeA
      rw [if_neg hk]
      split
      · exact congrArg Chanter.c (gc u)
      · exact (congrArg Chanter.c (State.chanter_setBank ..)).trans (congrArg Chanter.c (gc u))
  · rename_i l
    simp only [l, false_and, if_false, not_false_eq_true, true_implies, and_true]
    have c : ∀ u, ((s.modBank ag.bank fun b => { b with fly := b.fly ++ [⟨ag.kind, latencyOf s ag.bank cls - 1, [.a d v], 0, s.cycle, false⟩] }).suite
        u).chanter = (s.suite u).chanter := fun u => State.chanter_setBank ..
    exact ⟨onlyIssue_modBank s ag _ rfl, by simp, fun n => readA_congr (ag := ag) (by simp) (congrArg Chanter.c (c _)) n, fun _ u => congrArg Chanter.c (c u)⟩

/-! ### Done fields -/

theorem vget_set_bv {α : Type} {k : Nat} (v : Vector α (2 ^ k)) (i j : BitVec k) (x : α) :
    (v.set i.toNat x i.isLt).get ⟨j.toNat, j.isLt⟩ = if i = j then x else v.get ⟨j.toNat, j.isLt⟩ := by
  have := vget_set v ⟨i.toNat, i.isLt⟩ ⟨j.toNat, j.isLt⟩ x
  simpa [Fin.ext_iff, BitVec.toNat_inj] using this

/-- The done fields increment the semaphore that they name, and no other. -/
theorem doneFor_done (s : State) (r : BankRef) (k : StreamKind) (dn : BitVec 4) : doneIn s (doneFor s r k dn) r k dn := by
  intro n
  unfold doneFor
  split
  · rename_i h
    simp only [State.bank_modBank_same, Bank.stream_setStream, semLater, h, true_and]
    refine (vget_set_bv (k := 3) _ (dn.setWidth 3) n _).trans ?_
    by_cases e : dn.setWidth 3 = n
    · simp [e]
    · simp [e]
  · rename_i h; rw [if_neg (fun e => h e.1)]; rfl

/-- The done fields change nothing but a count of semaphore increments. -/
theorem doneFor_keeps (s : State) (r : BankRef) (k : StreamKind) (dn : BitVec 4) :
    (doneFor s r k dn).pkg = s.pkg ∧ (doneFor s r k dn).rooms = s.rooms ∧ (doneFor s r k dn).tenants = s.tenants ∧
    (doneFor s r k dn).cycle = s.cycle ∧ (doneFor s r k dn).turns = s.turns ∧
    (∀ q, q ≠ r → (doneFor s r k dn).bank q = s.bank q) ∧
    (∀ u, { (doneFor s r k dn).suite u with banks := (s.suite u).banks } = s.suite u) ∧
    ((doneFor s r k dn).bank r = { s.bank r with sa := ((doneFor s r k dn).bank r).sa, sx := ((doneFor s r k dn).bank r).sx }) := by
  unfold doneFor
  split
  · refine ⟨by simp, by simp, by simp, by simp, by simp, fun q hq => State.bank_setBank_ne _ _ _ _ (Ne.symm hq),
      fun u => State.suite_setBank .., ?_⟩
    simp only [State.bank_modBank_same]
    cases k <;> rfl
  · exact ⟨rfl, rfl, rfl, rfl, rfl, fun _ _ => rfl, fun _ => rfl, rfl⟩

/-! ### The outcomes of the protocol -/

theorem free_iff {s : State} {i : Instr} {w : BitVec 4} : free s i w = true ↔ stage1 s s.cur i = none ∧ commonHold s s.cur i w = none := by
  simp [free]

theorem ready_iff {s : State} {i : Instr} {w : BitVec 4} : ready s i w = true ↔ free s i w = true ∧ loopBad s s.cur = none := by
  simp [ready]

/-- What stage 1 passing says of an instruction that is no hint. -/
theorem stage1_none {s : State} {ag : Agent} {i : Instr} (nh : ∀ x, i ≠ .hint x) :
    stage1 s ag i = none ↔ agentRefuses s ag i = false ∧ i.fieldsOk = true ∧ regRefused s ag i = false ∧ (i.privileged && !ag.bank.isCtx) = false := by
  unfold stage1
  split
  · rename_i x; exact absurd rfl (nh x)
  · cases agentRefuses s ag i <;> cases i.fieldsOk <;> cases regRefused s ag i <;> cases (i.privileged && !ag.bank.isCtx) <;> simp

/-- A ready instruction with no wait and no trap of its own issues: its own effect runs on the state after the issue. -/
theorem issue_next {i : Instr} {w : BitVec 4} {p : State → Agent → Plan} {s : State} (h : ready s i w = true)
    (hh : (p s s.cur).hold = none) (ht : (p s s.cur).trap = none) :
    issue i w p s = .next ((p s s.cur).act
      (issued s w { jump := (p s s.cur).jump, words := (p s s.cur).words, wait := (p s s.cur).wait })) := by
  obtain ⟨h0, h3⟩ := ready_iff.mp h
  obtain ⟨h1, h2⟩ := free_iff.mp h0
  simp only [issue, issueState, h1, h2, hh, ht, h3, ite_self]
  rfl

/-- So does one that transfers control, whatever loops end at it. -/
theorem issue_jumps {i : Instr} {w : BitVec 4} {p : State → Agent → Plan} {s : State} (h : free s i w = true)
    (hh : (p s s.cur).hold = none) (ht : (p s s.cur).trap = none) {q : Nat} (hj : (p s s.cur).jump = some q) :
    issue i w p s = .next ((p s s.cur).act (issued s w { jump := some q, words := (p s s.cur).words, wait := (p s s.cur).wait })) := by
  obtain ⟨h1, h2⟩ := free_iff.mp h
  simp only [issue, issueState, h1, h2, hh, ht, hj, Option.isNone_some, Bool.false_eq_true, if_false]
  simp only [issued, complete, endWait, hj]

/-- A free instruction whose own wait is on only marks its stream and does what its wait does. -/
theorem issue_waits {i : Instr} {w : BitVec 4} {p : State → Agent → Plan} {s : State} (h : free s i w = true) {k : Hold}
    (hh : (p s s.cur).hold = some k) : issue i w p s = .next ((p s s.cur).onHold (markHeld s s.cur k)) := by
  obtain ⟨h1, h2⟩ := free_iff.mp h
  simp only [issue, issueState, h1, h2, hh]

/-- A free instruction with a trap of stages 2 and 3 takes it, once its own wait has ended. -/
theorem issue_traps {i : Instr} {w : BitVec 4} {p : State → Agent → Plan} {s : State} (h : free s i w = true)
    (hh : (p s s.cur).hold = none) {c : BitVec 8} {v : Word} (ht : (p s s.cur).trap = some (c, v)) :
    issue i w p s = .next (issueTrap (endWait s s.cur (p s s.cur)) s.cur c v
      (if (p s s.cur).retNext then sequential s s.cur (p s s.cur).words else posOf s s.cur)) := by
  obtain ⟨h1, h2⟩ := free_iff.mp h
  simp only [issue, issueState, h1, h2, hh, ht]

/-- Last comes the return of a hardware loop to a line that the stream may not enter (R127, R357). -/
theorem issue_loopBad {i : Instr} {w : BitVec 4} {p : State → Agent → Plan} {s : State} (h : free s i w = true)
    (hh : (p s s.cur).hold = none) (ht : (p s s.cur).trap = none) (hj : (p s s.cur).jump = none) {q : Nat} (hl : loopBad s s.cur = some q) :
    issue i w p s = .next (issueTrap (endWait s s.cur (p s s.cur)) s.cur cLINKERR (BitVec.ofNat 64 (q / 16)) (posOf s s.cur)) := by
  obtain ⟨h1, h2⟩ := free_iff.mp h
  simp only [issue, issueState, h1, h2, hh, ht, hj, Option.isNone_none, if_true, hl]

/-- A trap of stage 1 comes before everything else. -/
theorem issue_stage1 {i : Instr} {w : BitVec 4} {p : State → Agent → Plan} {s : State} {c : BitVec 8} (h : stage1 s s.cur i = some c) :
    issue i w p s = .next (issueTrap s s.cur c 0 (posOf s s.cur)) := by
  simp only [issue, issueState, h]

/-- A held instruction only marks its stream. -/
theorem issue_held {i : Instr} {w : BitVec 4} {p : State → Agent → Plan} {s : State} {k : Hold} (h : stage1 s s.cur i = none)
    (hh : commonHold s s.cur i w = some k) : issue i w p s = .next (markHeld s s.cur k) := by
  simp only [issue, issueState, h, hh]

/-- Every instruction of the A and X maps runs through the issue protocol, with its own wait field. -/
theorem exec_issue (i : Instr) (s : State) (h : i.map = some .a ∨ i.map = some .x) : ∃ p, exec i s = issue i i.waitField p s := by
  cases i <;> first
    | (rcases h with h | h <;> cases h; done)
    | exact ⟨_, rfl⟩

end Sys2Proof.Machine
end

