-- ==== Sys2Proof/Laws/Memory.lean ====
section
/-! SUPPORT. The laws of the byte lists and of physical memory: what a write reads as, what it leaves alone, and the canonical form that every
operation keeps. -/

namespace Sys2Proof.Machine

/-! ### One byte -/

theorem memWfFrom_mono {lo hi : Nat} (h : lo ≤ hi) : ∀ {m : Memory}, memWfFrom hi m = true → memWfFrom lo m = true
  | [], _ => rfl
  | (k, v) :: t, w => by
    simp only [memWfFrom, Bool.and_eq_true, decide_eq_true_eq, bne_iff_ne] at w ⊢
    exact ⟨⟨by omega, w.1.2⟩, w.2⟩

/-- An address below every listed one reads as the default. -/
theorem memGet_below : ∀ {m : Memory} {lo a : Nat}, memWfFrom lo m = true → a < lo → memGet m a = Config.memDefault
  | [], _, _, _, _ => rfl
  | (k, v) :: t, lo, a, w, h => by
    simp only [memWfFrom, Bool.and_eq_true, decide_eq_true_eq, bne_iff_ne] at w
    have : k ≠ a := by omega
    simp only [memGet, this, if_false]
    exact memGet_below w.2 (by omega)

/-- Reading after one byte was replaced. -/
theorem memGet_memPut : ∀ {m : Memory} {lo : Nat} (a b : Nat) (v : Byte), memWfFrom lo m = true →
    memGet (memPut m a v) b = if a = b then v else memGet m b
  | [], _, a, b, v, _ => by
    by_cases h : v = Config.memDefault <;> by_cases e : a = b <;> simp [memPut, memGet, h, e]
  | (k, x) :: t, lo, a, b, v, w => by
    simp only [memWfFrom, Bool.and_eq_true, decide_eq_true_eq, bne_iff_ne] at w
    unfold memPut
    split
    · rename_i lt
      split
      · rename_i hv
        by_cases e : a = b
        · subst e
          rw [if_pos rfl, hv]
          exact memGet_below (lo := a + 1) (by simp [memWfFrom, w.1.2, w.2]; omega) (by omega)
        · rw [if_neg e]
      · simp only [memGet]
    · split
      · rename_i _ eq
        subst eq
        split
        · rename_i hv
          by_cases e : a = b
          · subst e
            rw [if_pos rfl, hv]
            exact memGet_below w.2 (by omega)
          · simp [memGet, e]
        · by_cases e : a = b <;> simp [memGet, e]
      · rename_i n1 n2
        have ih := memGet_memPut a b v w.2
        by_cases e : k = b
        · have : a ≠ b := by omega
          simp [memGet, e, this]
        · simp [memGet, e, ih]

/-- Replacing a byte keeps the canonical form. -/
theorem memPut_wf : ∀ {m : Memory} {lo : Nat} (a : Nat) (v : Byte), memWfFrom lo m = true → lo ≤ a → memWfFrom lo (memPut m a v) = true
  | [], lo, a, v, _, h => by
    by_cases e : v = Config.memDefault <;> simp [memPut, memWfFrom, e, h]
  | (k, x) :: t, lo, a, v, w, h => by
    simp only [memWfFrom, Bool.and_eq_true, decide_eq_true_eq, bne_iff_ne] at w
    unfold memPut
    split
    · split
      · simp [memWfFrom, w.1.1, w.1.2, w.2]
      · rename_i lt nv
        simp [memWfFrom, h, nv, w.1.2, w.2]; omega
    · split
      · rename_i _ eq
        split
        · exact memWfFrom_mono (by omega) w.2
        · rename_i nv
          have : lo ≤ k := w.1.1
          simp [memWfFrom, nv, eq, w.2, this]
      · rename_i n1 n2
        have := memPut_wf a v w.2 (by omega)
        simp [memWfFrom, w.1.1, w.1.2, this]

/-! ### A range of bytes -/

theorem memWrite_wf : ∀ (bs : List Byte) (m : Memory) (a : Nat), m.wf = true → (memWrite m a bs).wf = true
  | [], _, _, w => w
  | b :: t, m, a, w => memWrite_wf t (memPut m a b) (a + 1) (memPut_wf a b w (Nat.zero_le a))

/-- Reading after a range was written. -/
theorem memGet_memWrite : ∀ (bs : List Byte) (m : Memory) (a b : Nat), m.wf = true →
    memGet (memWrite m a bs) b = if a ≤ b ∧ b < a + bs.length then bs.getD (b - a) 0 else memGet m b
  | [], m, a, b, _ => by
    have : ¬ (a ≤ b ∧ b < a + ([] : List Byte).length) := by simp
    rw [if_neg this]; rfl
  | x :: t, m, a, b, w => by
    have w1 : (memPut m a x).wf = true := memPut_wf a x w (Nat.zero_le a)
    show memGet (memWrite (memPut m a x) (a + 1) t) b = _
    rw [memGet_memWrite t (memPut m a x) (a + 1) b w1, memGet_memPut a b x w]
    simp only [List.length_cons]
    by_cases e : a = b
    · subst e; simp
    · by_cases c : a + 1 ≤ b ∧ b < a + 1 + t.length
      · have c' : a ≤ b ∧ b < a + (t.length + 1) := by omega
        rw [if_pos c, if_pos c']
        have : b - a = (b - (a + 1)) + 1 := by omega
        rw [this, List.getD_cons_succ]
      · have c' : ¬ (a ≤ b ∧ b < a + (t.length + 1)) := by omega
        rw [if_neg c, if_neg c', if_neg e]

theorem memClear_wfFrom : ∀ (m : Memory) (lo a n : Nat), memWfFrom lo m = true → memWfFrom lo (memClear m a n) = true
  | [], _, _, _, _ => rfl
  | (k, v) :: t, lo, a, n, w => by
    simp only [memWfFrom, Bool.and_eq_true, decide_eq_true_eq, bne_iff_ne] at w
    have ih := memClear_wfFrom t (k + 1) a n w.2
    unfold memClear at ih ⊢
    rw [List.filter_cons]
    split
    · simp only [memWfFrom, Bool.and_eq_true, decide_eq_true_eq, bne_iff_ne]
      exact ⟨w.1, ih⟩
    · exact memWfFrom_mono (by omega) ih

theorem memClear_wf (m : Memory) (a n : Nat) (w : m.wf = true) : (memClear m a n).wf = true := memClear_wfFrom m 0 a n w

/-! ### Physical memory -/

theorem hbmWrite_wf (m : Memory) (a : Nat) (bs : List Byte) (w : m.wf = true) : (hbmWrite m a bs).wf = true := memWrite_wf _ _ _ w

/-- Reading an installed byte after a range was written. -/
theorem memGet_hbmWrite (bs : List Byte) (m : Memory) (a b : Nat) (w : m.wf = true) (hb : b < hbmLimit) :
    memGet (hbmWrite m a bs) b = if a ≤ b ∧ b < a + bs.length then bs.getD (b - a) 0 else memGet m b := by
  unfold hbmWrite
  rw [memGet_memWrite _ _ _ _ w, List.length_take]
  by_cases c : a ≤ b ∧ b < a + bs.length
  · rw [if_pos c, if_pos (by omega)]
    simp only [List.getD_eq_getElem?_getD, List.getElem?_take, show b - a < hbmLimit - a by omega, if_true]
  · rw [if_neg c, if_neg (by omega)]

theorem rewriteUnit_wf (slot : Nat) (s : State) (unit : Nat) (w : s.pkg.mem.wf = true) : (rewriteUnit slot s unit).pkg.mem.wf = true :=
  hbmWrite_wf _ _ _ w

theorem rewriteUnits_wf (slot : Nat) : ∀ (l : List Nat) (s : State), s.pkg.mem.wf = true →
    (l.foldl (rewriteUnit slot) s).pkg.mem.wf = true
  | [], _, w => w
  | u :: t, s, w => rewriteUnits_wf slot t _ (rewriteUnit_wf slot s u w)

theorem triggerAll_mem : ∀ (l : List Nat) (s : State), (l.foldl triggerMonitors s).pkg.mem = s.pkg.mem
  | [], _ => rfl
  | x :: t, s => (triggerAll_mem t (triggerMonitors s x)).trans rfl

theorem nameAll_mem (setter : Nat) : ∀ (l : List Nat) (s : State), (l.foldl (nameSetter setter) s).pkg.mem = s.pkg.mem
  | [], _ => rfl
  | x :: t, s => (nameAll_mem setter t (nameSetter setter s x)).trans rfl

theorem countLost_mem (s : State) (a : Nat) : (countLost s a).pkg.mem = s.pkg.mem := by unfold countLost; split <;> rfl

theorem rewriteLines_wf (slot : Nat) (q : List Nat) : ∀ (l : List Nat) (s : State), s.pkg.mem.wf = true →
    (l.foldl (fun s x => q.foldl (fun s i => rewriteUnit slot s (x * 4 + i)) s) s).pkg.mem.wf = true
  | [], _, w => w
  | x :: t, s, w => by
    have : ∀ (q : List Nat) (s : State), s.pkg.mem.wf = true → (q.foldl (fun s i => rewriteUnit slot s (x * 4 + i)) s).pkg.mem.wf = true := by
      intro q
      induction q with
      | nil => intro s w; exact w
      | cons y q ih => intro s w; exact ih _ (rewriteUnit_wf slot s _ w)
    rw [List.foldl_cons]
    exact rewriteLines_wf slot q t _ (this q s w)

/-- A physical write keeps the canonical form. -/
theorem physWrite_wf (s : State) (slot a : Nat) (bs : List Byte) (setter : Nat) (w : s.pkg.mem.wf = true) :
    (physWrite s slot a bs setter).pkg.mem.wf = true := by
  unfold physWrite
  split
  · exact w
  · rw [triggerAll_mem, nameAll_mem, countLost_mem]
    exact hbmWrite_wf _ _ _ (rewriteUnits_wf slot _ _ (rewriteLines_wf slot _ _ _ w))

theorem devWrite_wf (s : State) (a : Nat) (bs : List Byte) (w : s.pkg.mem.wf = true) : (devWrite s a bs).pkg.mem.wf = true := by
  have many : ∀ (l : List Nat) (m : Memory), m.wf = true → (l.foldl (fun m l => hbmWrite m (l * 64) (List.replicate 64 0xff)) m).wf = true := by
    intro l
    induction l with
    | nil => exact fun _ w => w
    | cons x l ih => exact fun m w => ih _ (hbmWrite_wf _ _ _ w)
  unfold devWrite
  rw [triggerAll_mem, nameAll_mem, countLost_mem]
  exact hbmWrite_wf _ _ _ (many _ _ w)

/-! ### Rewriting units under the present draw of a key slot -/

theorem physBytes_getD (s : State) (slot : Nat) : ∀ (n a i : Nat), i < n → (physBytes s slot a n).getD i 0 = physByte s slot (a + i)
  | n + 1, a, 0, _ => rfl
  | n + 1, a, i + 1, h => by
    show (physBytes s slot (a+1) n).getD i 0 = _
    rw [physBytes_getD s slot n (a+1) i (by omega)]; congr 1; omega

theorem physBytes_length (s : State) (slot : Nat) : ∀ (n a : Nat), (physBytes s slot a n).length = n
  | 0, _ => rfl
  | n + 1, a => by simp [physBytes, physBytes_length s slot n]

theorem stampAt_rewriteUnit (slot : Nat) (s : State) (u v : Nat) :
    stampAt (rewriteUnit slot s u) v = if u = v then some (stampOf s slot) else stampAt s v := by
  unfold stampAt rewriteUnit
  simp only [State.pkg_modPkg, List.find?_cons]
  by_cases e : u = v
  · simp [e]
  · simp only [e, if_false, show (u == v) = false by simp [e]]
    congr 1
    induction s.pkg.stamps with
    | nil => rfl
    | cons p l ih =>
      rw [List.filter_cons]
      by_cases hp : p.1 = u
      · have : p.1 ≠ v := by omega
        simp [hp, ih, e]
      · simp only [bne_iff_ne, ne_eq, hp, not_false_eq_true, if_true, List.find?_cons]
        split
        · rfl
        · exact ih

theorem stampOf_rewriteUnit (slot k : Nat) (s : State) (u : Nat) : stampOf (rewriteUnit slot s u) k = stampOf s k := by
  simp only [stampOf, rewriteUnit, State.pkg_modPkg]

theorem poison_rewriteUnit (slot : Nat) (s : State) (u : Nat) : (rewriteUnit slot s u).pkg.poison = s.pkg.poison := by
  simp only [rewriteUnit, State.pkg_modPkg]

theorem mem_rewriteUnit (slot : Nat) (s : State) (u b : Nat) (w : s.pkg.mem.wf = true) (hb : b < hbmLimit) :
    memGet (rewriteUnit slot s u).pkg.mem b = if b / 16 = u then physByte s slot b else memGet s.pkg.mem b := by
  unfold rewriteUnit
  simp only [State.pkg_modPkg]
  rw [memGet_hbmWrite _ _ _ _ w hb, physBytes_length]
  by_cases e : b / 16 = u
  · rw [if_pos (by omega), if_pos e, physBytes_getD _ _ _ _ _ (by omega)]; congr 1; omega
  · rw [if_neg (by omega), if_neg e]

/-- Reads of an installed range agree where its bytes agree. -/
theorem hbmRead_congr {m m' : Memory} : ∀ (a n : Nat), a + n ≤ hbmLimit → (∀ i, i < n → memGet m (a + i) = memGet m' (a + i)) →
    hbmRead m a n = hbmRead m' a n
  | _, 0, _, _ => rfl
  | a, n + 1, l, h => by
    have h0 : memGet m a = memGet m' a := h 0 (by omega)
    have hn : hbmRead m (a + 1) n = hbmRead m' (a + 1) n := hbmRead_congr (a + 1) n (by omega) fun i hi => by
      have g := h (i + 1) (by omega)
      rwa [← Nat.add_assoc, Nat.add_right_comm] at g
    show hbmGet m a :: hbmRead m (a + 1) n = _
    rw [hn]; simp only [hbmRead, hbmGet, h0]

/-- An installed byte always has a route. -/
theorem farLost_installed (s : State) {b : Nat} (hb : b < hbmLimit) : farLost s b = false := by
  simp only [farLost, show ¬ hbmLimit ≤ b from by omega, decide_false, Bool.false_and]

theorem physByte_rewriteUnit (slot : Nat) (s : State) (u b : Nat) (w : s.pkg.mem.wf = true) (hb : b < hbmLimit) :
    physByte (rewriteUnit slot s u) slot b = physByte s slot b := by
  unfold physByte
  rw [poison_rewriteUnit, stampAt_rewriteUnit, stampOf_rewriteUnit, farLost_installed _ hb, farLost_installed _ hb]
  by_cases hp : s.pkg.poison.contains (b / 64) = true
  · simp only [hp, Bool.true_or, if_true]
  · simp only [hp, hbmGet, hb, if_true, mem_rewriteUnit _ _ _ _ w hb]
    by_cases e : b / 16 = u
    · simp only [e, if_true]
      unfold physByte; simp only [hp, hbmGet, hb, e, farLost_installed _ hb]; rfl
    · have hl : b / 16 * 16 + 16 ≤ hbmLimit := by unfold hbmLimit frameCount at *; omega
      have r : hbmRead (rewriteUnit slot s u).pkg.mem (b / 16 * 16) 16 = hbmRead s.pkg.mem (b / 16 * 16) 16 :=
        hbmRead_congr _ _ hl fun i hi => by rw [mem_rewriteUnit _ _ _ _ w (by omega), if_neg (by omega)]
      simp only [e, if_false, show ¬ u = b / 16 from fun h => e h.symm, r]

/-- Rewriting units under a slot's present draw: every installed byte reads as before, and the stamps of the units are those of the draw. -/
structure Rewritten (slot : Nat) (s t : State) : Prop where
  wf : t.pkg.mem.wf = true
  same : ∀ b, b < hbmLimit → physByte t slot b = physByte s slot b
  poison : t.pkg.poison = s.pkg.poison
  stamp : stampOf t slot = stampOf s slot
  keep : ∀ u, stampAt s u = some (stampOf s slot) → stampAt t u = some (stampOf s slot)
  plain : ∀ b, b < hbmLimit → memGet s.pkg.mem b = physByte s slot b → memGet t.pkg.mem b = physByte s slot b

theorem Rewritten.trans {slot s t v} (h : Rewritten slot s t) (g : Rewritten slot t v) : Rewritten slot s v :=
  ⟨g.wf, fun b l => (g.same b l).trans (h.same b l), g.poison.trans h.poison, g.stamp.trans h.stamp,
    fun u hu => by have := g.keep u (by rw [h.stamp]; exact h.keep u hu); rw [this, h.stamp],
    fun b l hb => by have := g.plain b l (by rw [h.same b l]; exact h.plain b l hb); rw [this, h.same b l]⟩

theorem rewriteUnit_rewritten (slot : Nat) (s : State) (u : Nat) (w : s.pkg.mem.wf = true) : Rewritten slot s (rewriteUnit slot s u) :=
  ⟨rewriteUnit_wf _ _ _ w, fun b l => physByte_rewriteUnit _ _ _ _ w l, poison_rewriteUnit _ _ _, stampOf_rewriteUnit _ _ _ _,
   fun v hv => by rw [stampAt_rewriteUnit]; split <;> simp [hv],
   fun b l hb => by rw [mem_rewriteUnit _ _ _ _ w l]; split <;> simp [hb]⟩

theorem rewriteUnits_rewritten (slot : Nat) : ∀ (l : List Nat) (s : State), s.pkg.mem.wf = true →
    Rewritten slot s (l.foldl (rewriteUnit slot) s) ∧ ∀ u ∈ l, stampAt (l.foldl (rewriteUnit slot) s) u = some (stampOf s slot) ∧
      ∀ b, b < hbmLimit → b / 16 = u → memGet (l.foldl (rewriteUnit slot) s).pkg.mem b = physByte s slot b
  | [], s, w => ⟨⟨w, fun _ _ => rfl, rfl, rfl, fun _ h => h, fun _ _ h => h⟩, by simp⟩
  | x :: l, s, w => by
    have h1 := rewriteUnit_rewritten slot s x w
    obtain ⟨h2, h3⟩ := rewriteUnits_rewritten slot l (rewriteUnit slot s x) h1.wf
    rw [List.foldl_cons]
    refine ⟨h1.trans h2, fun u hu => ?_⟩
    rcases List.mem_cons.mp hu with rfl | hu
    · have := h2.keep u (by rw [stampAt_rewriteUnit, if_pos rfl, h1.stamp])
      refine ⟨by rw [this, h1.stamp], fun b l hb => ?_⟩
      have := h2.plain b l (by rw [mem_rewriteUnit _ _ _ _ w l, if_pos hb, h1.same b l])
      rw [this, h1.same b l]
    · rw [← h1.stamp]; refine ⟨(h3 u hu).1, fun b l hb => ?_⟩
      rw [(h3 u hu).2 b l hb, h1.same b l]

theorem rewriteLines_rewritten (slot : Nat) : ∀ (l : List Nat) (s : State), s.pkg.mem.wf = true →
    Rewritten slot s (l.foldl (fun s x => (List.range 4).foldl (fun s i => rewriteUnit slot s (x * 4 + i)) s) s) ∧
    ∀ x ∈ l, ∀ i, i < 4 → stampAt (l.foldl (fun s x => (List.range 4).foldl (fun s i => rewriteUnit slot s (x * 4 + i)) s) s) (x * 4 + i) = some (stampOf s slot) ∧
      ∀ b, b < hbmLimit → b / 16 = x * 4 + i → memGet (l.foldl (fun s x => (List.range 4).foldl (fun s i => rewriteUnit slot s (x * 4 + i)) s) s).pkg.mem b = physByte s slot b := by
  intro l
  generalize hq : List.range 4 = q
  induction l with
  | nil => intro s w; exact ⟨⟨w, fun _ _ => rfl, rfl, rfl, fun _ h => h, fun _ _ h => h⟩, by simp⟩
  | cons x l ih =>
    intro s w
    have e : ∀ s : State, q.foldl (fun s i => rewriteUnit slot s (x * 4 + i)) s = (q.map (x * 4 + ·)).foldl (rewriteUnit slot) s := fun s => by
      rw [List.foldl_map]
    obtain ⟨h1, h1'⟩ := rewriteUnits_rewritten slot (q.map (x * 4 + ·)) s w
    obtain ⟨h2, h3⟩ := ih _ h1.wf
    rw [List.foldl_cons, e]
    refine ⟨h1.trans h2, fun y hy i hi => ?_⟩
    rcases List.mem_cons.mp hy with rfl | hy
    · have k := h1' _ (List.mem_map.mpr ⟨i, by rw [← hq]; simpa using hi, rfl⟩)
      refine ⟨by rw [← h1.stamp]; exact h2.keep _ (by rw [h1.stamp]; exact k.1), fun b l hb => ?_⟩
      rw [h2.plain b l (by rw [h1.same b l]; exact k.2 b l hb), h1.same b l]
    · rw [← h1.stamp]; refine ⟨(h3 y hy i hi).1, fun b l hb => ?_⟩
      rw [(h3 y hy i hi).2 b l hb, h1.same b l]

theorem triggerAll_physByte : ∀ (l : List Nat) (s : State) (slot b : Nat), physByte (l.foldl triggerMonitors s) slot b = physByte s slot b
  | [], _, _, _ => rfl
  | x :: l, s, slot, b => (triggerAll_physByte l (triggerMonitors s x) slot b).trans rfl

theorem nameAll_physByte (setter : Nat) : ∀ (l : List Nat) (s : State) (slot b : Nat),
    physByte (l.foldl (nameSetter setter) s) slot b = physByte s slot b
  | [], _, _, _ => rfl
  | x :: l, s, slot, b => (nameAll_physByte setter l (nameSetter setter s x) slot b).trans rfl

theorem countLost_physByte (s : State) (a slot b : Nat) : physByte (countLost s a) slot b = physByte s slot b := by
  unfold countLost; split <;> rfl

theorem mem_units (a n size x : Nat) (hn : n ≠ 0) : x ∈ unitsOf a n size ↔ a / size ≤ x ∧ x ≤ (a + n - 1) / size := by
  unfold unitsOf
  have : a / size ≤ (a + n - 1) / size := Nat.div_le_div_right (by omega)
  simp only [hn, if_false, List.mem_map, List.mem_range]
  constructor
  · rintro ⟨i, hi, rfl⟩; omega
  · intro h; exact ⟨x - a / size, by omega, by omega⟩

/-! ### Local Stores -/

/-- A Local Store write keeps the canonical form of every Local Store. -/
theorem lsWrite_wf (s : State) (u : SuiteId) (a : Nat) (bs : List Byte) (w : ∀ v, (s.suite v).ls.wf = true) (v : SuiteId) :
    ((lsWrite s u a bs).suite v).ls.wf = true := by
  have one : ∀ (s : State) (a : Nat) (bs : List Byte), (∀ v, (s.suite v).ls.wf = true) →
      ∀ v, ((s.modSuite u fun x => { x with ls := memWrite x.ls a bs }).suite v).ls.wf = true := by
    intro s a bs w v
    rw [State.suite_modSuite]
    split
    · exact memWrite_wf _ _ _ (w u)
    · exact w v
  have many : ∀ (l : List Nat) (s : State), (∀ v, (s.suite v).ls.wf = true) →
      ∀ v, ((l.foldl (fun s x => s.modSuite u fun y => { y with ls := memWrite y.ls (x * 64) (List.replicate 64 0xff) }) s).suite v).ls.wf = true := by
    intro l
    induction l with
    | nil => intro s w; exact w
    | cons x t ih => intro s w; exact ih _ (one s _ _ w)
  unfold lsWrite
  apply one
  intro v
  split
  · exact many _ s w v
  · exact many _ s w v

end Sys2Proof.Machine
end

