-- ==== Sys2Proof/Laws/Access.lean ====
section
/-! SUPPORT. What translating an address, counting, correcting errors and finishing a queue entry can change, each said once. -/

namespace Sys2Proof.Machine

/-! ### Counting and error correction -/

/-- Nothing but counters, L1 lines, error records and requests at slice ports lies between two states. -/
structure Counted (s t : State) : Prop where
  cycle : t.cycle = s.cycle
  rooms : t.rooms = s.rooms
  bank : ∀ r, t.bank r = s.bank r
  suite : ∀ u, { t.suite u with counters := (s.suite u).counters, l1 := (s.suite u).l1 } = s.suite u
  ctx : ∀ c, { t.ctx c with counters := (s.ctx c).counters } = s.ctx c
  mem : t.pkg.mem = s.pkg.mem
  stamps : t.pkg.stamps = s.pkg.stamps
  poison : t.pkg.poison = s.pkg.poison
  keys : t.pkg.keys = s.pkg.keys
  routes : t.pkg.routes = s.pkg.routes
  hvact : t.pkg.hvact = s.pkg.hvact
  trace : ∀ k, (t.tenant k).trace = (s.tenant k).trace

theorem Counted.refl (s : State) : Counted s s :=
  ⟨rfl, rfl, fun _ => rfl, fun _ => rfl, fun _ => rfl, rfl, rfl, rfl, rfl, rfl, rfl, fun _ => rfl⟩

theorem Counted.trans {s t v : State} (h : Counted s t) (g : Counted t v) : Counted s v where
  cycle := g.cycle.trans h.cycle
  rooms := g.rooms.trans h.rooms
  bank r := (g.bank r).trans (h.bank r)
  suite u := by rw [← h.suite u, ← g.suite u]
  ctx c := by rw [← h.ctx c, ← g.ctx c]
  mem := g.mem.trans h.mem
  stamps := g.stamps.trans h.stamps
  poison := g.poison.trans h.poison
  keys := g.keys.trans h.keys
  routes := g.routes.trans h.routes
  hvact := g.hvact.trans h.hvact
  trace k := (g.trace k).trans (h.trace k)

theorem Counted.ls {s t : State} (h : Counted s t) (u : SuiteId) : (t.suite u).ls = (s.suite u).ls := by
  have := congrArg Suite.ls (h.suite u); exact this

theorem Counted.tenantOf {s t : State} (h : Counted s t) (r : BankRef) : tenantOf t r = tenantOf s r := by
  cases r with
  | bank u b =>
    show (match (t.bank (.bank u b)).visit with | some v => v.tenant | none => 0) = _
    rw [h.bank]; rfl
  | ctx c =>
    show ctxTenant t c = ctxTenant s c
    unfold ctxTenant
    have hc : (t.ctx c).helperTenant = (s.ctx c).helperTenant := by have := congrArg Ctx.helperTenant (h.ctx c); exact this
    simp only [hc, h.hvact]

theorem Counted.physByte {s t : State} (h : Counted s t) (slot a : Nat) : physByte t slot a = physByte s slot a := by
  unfold Machine.physByte stampAt stampOf farLost reachable
  rw [h.poison, h.stamps, h.keys, h.mem, h.routes]

theorem Counted.dbgOn {s t : State} (h : Counted s t) (k : TenantId) : dbgOn t k = dbgOn s k := by
  unfold Machine.dbgOn; rw [h.trace]

/-- An update of package fields other than memory. -/
theorem counted_modPkg (s : State) (f : Package → Package) (hm : (f s.pkg).mem = s.pkg.mem) (hs : (f s.pkg).stamps = s.pkg.stamps)
    (hp : (f s.pkg).poison = s.pkg.poison) (hk : (f s.pkg).keys = s.pkg.keys) (hr : (f s.pkg).routes = s.pkg.routes)
    (hh : (f s.pkg).hvact = s.pkg.hvact) : Counted s (s.modPkg f) :=
  ⟨rfl, rfl, fun r => by cases r <;> rfl, fun _ => rfl, fun _ => rfl, hm, hs, hp, hk, hr, hh, fun _ => rfl⟩

theorem counted_countErr (s : State) (p : Tenant → Bool) : Counted s (countErr s p) := by
  refine ⟨rfl, rfl, fun r => by cases r <;> rfl, fun _ => rfl, fun _ => rfl, rfl, rfl, rfl, rfl, rfl, rfl, fun k => ?_⟩
  have e : (countErr s p).tenant k = if p (s.tenant k) then
      { s.tenant k with replica := { (s.tenant k).replica with errs := satAdd32 (s.tenant k).replica.errs } } else s.tenant k := by
    unfold countErr State.tenant
    exact Vector.getElem_map ..
  rw [e]; split <;> rfl

theorem counted_countCe (s : State) : Counted s (countCe s) :=
  (counted_countErr s _).trans (counted_modPkg _ _ rfl rfl rfl rfl rfl rfl)

theorem counted_correctErrors (s : State) (a n : Nat) : Counted s (correctErrors s a n) := by
  unfold correctErrors
  dsimp only
  split
  · exact .refl s
  · have : ∀ (l : List ErrSite) (t : State), Counted t (l.foldl (fun s _ => countCe s) t) := by
      intro l
      induction l with
      | nil => exact fun t => .refl t
      | cons _ _ ih => exact fun t => (counted_countCe t).trans (ih _)
    exact (counted_modPkg s _ rfl rfl rfl rfl rfl rfl).trans (this _ _)

theorem counted_turns (s : State) (l : List Turn) : Counted s { s with turns := l } :=
  ⟨rfl, rfl, fun r => by cases r <;> rfl, fun _ => rfl, fun _ => rfl, rfl, rfl, rfl, rfl, rfl, rfl, fun _ => rfl⟩

theorem counted_fresh (s : State) (n : Nat) : Counted s { s with fresh := n } :=
  ⟨rfl, rfl, fun r => by cases r <;> rfl, fun _ => rfl, fun _ => rfl, rfl, rfl, rfl, rfl, rfl, rfl, fun _ => rfl⟩

theorem counted_modSuite (s : State) (u : SuiteId) (f : Suite → Suite)
    (h : { f (s.suite u) with counters := (s.suite u).counters, l1 := (s.suite u).l1 } = s.suite u) : Counted s (s.modSuite u f) := by
  have hb : (f (s.suite u)).banks = (s.suite u).banks := by have := congrArg Suite.banks h; exact this
  refine ⟨rfl, rfl, fun r => State.bank_modSuite s u f hb r, fun v => ?_, fun _ => rfl, rfl, rfl, rfl, rfl, rfl, rfl, fun _ => rfl⟩
  by_cases e : u = v <;> simp [e]
  subst e; exact h

theorem counted_countEvents (s : State) (r : BankRef) (code n : Nat) : Counted s (countEvents s r code n) := by
  unfold countEvents
  split
  · exact .refl s
  · split
    · split
      · exact .refl s
      · exact counted_modSuite s _ _ rfl
    · rename_i k
      split
      · refine ⟨rfl, rfl, fun q => State.bank_modCtx s k _ rfl q, fun _ => rfl, fun c => ?_, rfl, rfl, rfl, rfl, rfl, rfl, fun _ => rfl⟩
        by_cases e : k = c <;> simp [e]
      · exact .refl s

theorem counted_modL2 (s : State) (line : Nat) (f : L2Port → L2Port) : Counted s (modL2 s line f) := counted_modPkg s _ rfl rfl rfl rfl rfl rfl

theorem counted_requestL2 (s : State) (t : TenantId) (who : Asker) (line : Nat) : Counted s (requestL2 s t who line) := counted_modL2 s _ _

theorem counted_l2AskFor (s : State) (w : Asker) (t : TenantId) (line : Nat) : Counted s (l2AskFor s w t line) := by
  unfold l2AskFor
  split
  · exact .refl s
  · exact counted_requestL2 s _ _ _

theorem counted_l2Ask (s : State) (r : BankRef) (t : TenantId) (line : Nat) : Counted s (l2Ask s r t line) := counted_l2AskFor s _ t line

theorem counted_l2Use (s : State) (w : Asker) (line : Nat) : Counted s (l2Use s w line) := counted_modL2 s _ _

theorem counted_chooseBelow (s : State) (n : Nat) : Counted s (chooseBelow s n).2 := counted_fresh s _

theorem counted_countLost (s : State) (a : Nat) : Counted s (countLost s a) := by
  unfold countLost
  split
  · exact counted_modPkg s _ rfl rfl rfl rfl rfl rfl
  · exact .refl s

theorem counted_countL2 (s : State) (r : BankRef) (line : Nat) : Counted s (countL2 s r line) := by
  have h := counted_l2Use s (.agent r) line
  cases r with
  | ctx c => exact h
  | bank u b =>
    unfold countL2
    dsimp only
    generalize l2Use s _ line = x at h ⊢
    exact (h.trans (counted_chooseBelow x 2)).trans (counted_countEvents (chooseBelow x 2).2 _ _ _)

theorem counted_l1Update (s : State) (u : SuiteId) (t : TenantId) (seg off frame : Nat) (bs : List Byte) :
    Counted s (l1Update s u t seg off frame bs) := counted_modSuite s u _ rfl

theorem counted_l1Refresh (s : State) (r : BankRef) (t : TenantId) (seg off frame : Nat) (bs : List Byte) :
    Counted s (l1Refresh s r t seg off frame bs) := by
  cases r with
  | ctx c => exact .refl s
  | bank u b => exact counted_l1Update s u t seg off frame bs

theorem counted_l1Hit (s : State) (r : BankRef) (t : TenantId) (seg line home : Nat) (bypass : Bool) :
    Counted s (l1Hit s r t seg line home bypass).2 := by
  unfold l1Hit
  cases r with
  | ctx c => exact .refl s
  | bank u b =>
    dsimp only
    split
    · exact .refl s
    · split
      · exact .refl s
      · split
        · exact .refl s
        · exact counted_chooseBelow s 2

theorem counted_l1Clear (s : State) (u : SuiteId) : Counted s (l1Clear s u) := counted_modSuite s u _ rfl

/-! ### Translation -/

/-- A tenant without its count of errors. -/
def Tenant.noErrs (x : Tenant) : Tenant := { x with replica := { x.replica with errs := 0 } }

/-- Nothing but what a translation touches lies between two states: the accessed and dirty bits in memory with the monitors that they trigger and who
wrote their words, the ports' copies, the errors corrected and counted on the way, and the counter of free choices. -/
structure Translated (s t : State) : Prop where
  rest : ∃ mem poison setters ports monitors flips memerr linklost fresh tenants,
    t = { s with fresh := fresh, tenants := tenants,
                 pkg := { s.pkg with mem := mem, poison := poison, setters := setters, ports := ports, monitors := monitors, flips := flips,
                                     memerr := memerr, linklost := linklost } }
  errs : ∀ k, (t.tenant k).noErrs = (s.tenant k).noErrs

theorem Translated.refl (s : State) : Translated s s := ⟨⟨_, _, _, _, _, _, _, _, _, _, rfl⟩, fun _ => rfl⟩

theorem Translated.trans {s t v : State} (h : Translated s t) (g : Translated t v) : Translated s v := by
  refine ⟨?_, fun k => (g.errs k).trans (h.errs k)⟩
  obtain ⟨_, _, _, _, _, _, _, _, _, _, rfl⟩ := h.rest
  obtain ⟨m, p, w, o, q, f, e, l, n, x, rfl⟩ := g.rest
  exact ⟨m, p, w, o, q, f, e, l, n, x, rfl⟩

theorem chooseBelow_translated (s : State) (n : Nat) : Translated s (chooseBelow s n).2 := ⟨⟨_, _, _, _, _, _, _, _, _, _, rfl⟩, fun _ => rfl⟩

/-- A change of the fields of the package that a translation may touch. -/
theorem modPkg_translated (s : State) (f : Package → Package)
    (h : ∃ mem poison setters ports monitors flips memerr linklost,
      f s.pkg = { s.pkg with mem := mem, poison := poison, setters := setters, ports := ports, monitors := monitors, flips := flips,
                             memerr := memerr, linklost := linklost }) : Translated s (s.modPkg f) := by
  obtain ⟨m, p, w, o, q, e, r, l, h⟩ := h
  refine ⟨⟨m, p, w, o, q, e, r, l, s.fresh, s.tenants, ?_⟩, fun _ => rfl⟩
  show { s with pkg := f s.pkg } = _
  rw [h]

theorem countErr_translated (s : State) (p : Tenant → Bool) : Translated s (countErr s p) := by
  refine ⟨⟨_, _, _, _, _, _, _, _, _, _, rfl⟩, fun k => ?_⟩
  have e : (countErr s p).tenant k = if p (s.tenant k) then
      { s.tenant k with replica := { (s.tenant k).replica with errs := satAdd32 (s.tenant k).replica.errs } } else s.tenant k := by
    unfold countErr State.tenant
    exact Vector.getElem_map ..
  rw [e]; split <;> rfl

theorem correctErrors_translated (s : State) (a n : Nat) : Translated s (correctErrors s a n) := by
  have ce : ∀ s, Translated s (countCe s) := fun s =>
    (countErr_translated s _).trans (modPkg_translated _ _ ⟨_, _, _, _, _, _, _, _, rfl⟩)
  unfold correctErrors
  dsimp only
  split
  · exact .refl s
  · have : ∀ (l : List ErrSite) (t : State), Translated t (l.foldl (fun s _ => countCe s) t) := by
      intro l
      induction l with
      | nil => exact fun t => .refl t
      | cons _ _ ih => exact fun t => (ce t).trans (ih _)
    exact (modPkg_translated s _ ⟨_, _, _, _, _, _, _, _, rfl⟩).trans (this _ _)

theorem countLost_translated (s : State) (a : Nat) : Translated s (countLost s a) := by
  unfold countLost
  split
  · exact modPkg_translated s _ ⟨_, _, _, _, _, _, _, _, rfl⟩
  · exact .refl s

theorem devFetch_translated (s : State) (a n : Nat) : Translated s (devFetch s a n).2 :=
  (correctErrors_translated s a n).trans (countLost_translated _ a)

theorem devFetch_mem (s : State) (a n : Nat) : (devFetch s a n).2.pkg.mem = s.pkg.mem :=
  (countLost_mem _ a).trans (counted_correctErrors s a n).mem

theorem triggerAll_translated : ∀ (l : List Nat) (s : State), Translated s (l.foldl triggerMonitors s)
  | [], s => .refl s
  | x :: l, s => (modPkg_translated s _ ⟨_, _, _, _, _, _, _, _, rfl⟩).trans (triggerAll_translated l (triggerMonitors s x))

theorem nameAll_translated (setter : Nat) : ∀ (l : List Nat) (s : State), Translated s (l.foldl (nameSetter setter) s)
  | [], s => .refl s
  | x :: l, s => (modPkg_translated s _ ⟨_, _, _, _, _, _, _, _, rfl⟩).trans (nameAll_translated setter l (nameSetter setter s x))

theorem devWrite_translated (s : State) (a : Nat) (bs : List Byte) : Translated s (devWrite s a bs) := by
  unfold devWrite
  dsimp only
  exact (((modPkg_translated s _ ⟨_, _, _, _, _, _, _, _, rfl⟩).trans (countLost_translated _ a)).trans (nameAll_translated _ _ _)).trans
    (triggerAll_translated _ _)

theorem getDesc_translated (s : State) (t : TenantId) (seg : Nat) : Translated s (getDesc s t seg).2 := by
  unfold getDesc
  dsimp only
  split
  · exact .refl s
  · have h : Translated s (if (cachedDescs s t seg).isEmpty then ((0 : Nat), s) else chooseBelow s ((cachedDescs s t seg).length + 1)).2 := by
      split
      · exact .refl s
      · exact chooseBelow_translated s _
    generalize (if (cachedDescs s t seg).isEmpty then ((0 : Nat), s) else chooseBelow s ((cachedDescs s t seg).length + 1)) = c at h ⊢
    split
    · exact h
    · have h2 := h.trans (devFetch_translated _ ((segTable s t).1 + 64 * seg) 64)
      split
      · exact h2
      · dsimp only
        split
        · exact h2
        · exact h2.trans (modPkg_translated _ _ ⟨_, _, _, _, _, _, _, _, rfl⟩)

theorem getPte_translated (s : State) (t : TenantId) (seg idx : Nat) (d : Desc) : Translated s (getPte s t seg idx d).2 := by
  unfold getPte
  dsimp only
  have h : Translated s (if (cachedPtes s t seg idx).isEmpty then ((0 : Nat), s) else chooseBelow s ((cachedPtes s t seg idx).length + 1)).2 := by
    split
    · exact .refl s
    · exact chooseBelow_translated s _
  generalize (if (cachedPtes s t seg idx).isEmpty then ((0 : Nat), s) else chooseBelow s ((cachedPtes s t seg idx).length + 1)) = c at h ⊢
  split
  · exact h
  · have h2 := h.trans (devFetch_translated _ (d.ttab + 8 * idx) 8)
    dsimp only
    split
    · exact h2.trans (modPkg_translated _ _ ⟨_, _, _, _, _, _, _, _, rfl⟩)
    · exact h2

theorem markPte_translated (s : State) (t : TenantId) (seg idx : Nat) (d : Desc) (e : Word) (write : Bool) :
    Translated s (markPte s t seg idx d e write) := by
  unfold markPte
  generalize (if write then (0x6000000000000000 : Word) else 0x2000000000000000) &&& ~~~e = bits
  dsimp only
  split
  · exact .refl s
  · exact ((devFetch_translated s _ 8).trans (devWrite_translated _ _ _)).trans (modPkg_translated _ _ ⟨_, _, _, _, _, _, _, _, rfl⟩)

theorem translate_translated (s : State) (t : TenantId) (seg : Nat) (d : Desc) (off : Nat) (write cross : Bool) :
    Translated s (translate s t seg d off write cross).2 := by
  unfold translate
  dsimp only
  have h := getPte_translated s t seg (off / 65536) d
  repeat' split
  all_goals first | exact .refl s | exact h | exact h.trans (markPte_translated ..)

/-- A translation keeps the canonical form. -/
theorem translate_wf (s : State) (t : TenantId) (seg : Nat) (d : Desc) (off : Nat) (write cross : Bool) (w : s.pkg.mem.wf = true) :
    (translate s t seg d off write cross).2.pkg.mem.wf = true := by
  have g : (getPte s t seg (off / 65536) d).2.pkg.mem = s.pkg.mem := by
    unfold getPte
    dsimp only
    have h : (if (cachedPtes s t seg (off / 65536)).isEmpty then ((0 : Nat), s) else
        chooseBelow s ((cachedPtes s t seg (off / 65536)).length + 1)).2.pkg = s.pkg := by split <;> rfl
    generalize (if (cachedPtes s t seg (off / 65536)).isEmpty then ((0 : Nat), s) else
        chooseBelow s ((cachedPtes s t seg (off / 65536)).length + 1)) = c at h ⊢
    have h2 := fun a n => (devFetch_mem c.2 a n).trans (congrArg Package.mem h)
    split
    · rw [h]
    · dsimp only
      split
      · exact (h2 (d.ttab + 8 * (off / 65536)) 8 :)
      · exact h2 _ _
  have m : ∀ (x : State) (e : Word), x.pkg.mem.wf = true → (markPte x t seg (off / 65536) d e write).pkg.mem.wf = true := fun x e hx => by
    unfold markPte
    generalize (if write then (0x6000000000000000 : Word) else 0x2000000000000000) &&& ~~~e = bits
    dsimp only
    split
    · exact hx
    · exact devWrite_wf _ _ _ (by rw [devFetch_mem]; exact hx)
  unfold translate
  dsimp only
  repeat' split
  all_goals first | exact w | (rw [g]; exact w) | exact m _ _ (by rw [g]; exact w)

/-! ### Finishing a queue entry -/

/-- An entry that has performed leaves its queues, its results land at the end of the cycle and its done semaphore counts; nothing else of its bank
changes but what its departure ends (ALIGN markers, a FENCE), and beyond the bank only L1 lines can go, where a FENCE ends. -/
theorem finishEntry_keeps (s : State) (r : BankRef) (e : QEntry) (res : List Result) :
    let t := finishEntry s r e res
    (t.bank r).lq = eraseEntry (s.bank r).lq e.seq ∧ (t.bank r).sq = eraseEntry (s.bank r).sq e.seq ∧
    (t.bank r).fly = (s.bank r).fly ++ [⟨.a, 0, res, 0, e.born, true⟩] ∧ doneIn s t r .a e.dn ∧
    (t.bank r).a = (s.bank r).a ∧ (t.bank r).e = (s.bank r).e ∧ t.rooms = s.rooms ∧ t.pkg = s.pkg ∧ ∀ u, (t.suite u).ls = (s.suite u).ls := by
  have sf : ∀ (x : State), ∃ f, (settleFence x r).bank r = { x.bank r with fence := f } ∧ (settleFence x r).rooms = x.rooms ∧
      (settleFence x r).pkg = x.pkg ∧ ∀ u, ((settleFence x r).suite u).ls = (x.suite u).ls := by
    intro x
    have hm : ((x.modBank r fun b => { b with fence := none }).bank r) = { x.bank r with fence := none } := by simp
    have hl : ∀ u, ((x.modBank r fun b => { b with fence := none }).suite u).ls = (x.suite u).ls := fun u => Suite.kept_ls (State.suite_setBank_kept ..)
    have hc : ∀ u, ∃ f, ((l1Clear (x.modBank r fun b => { b with fence := none }) u).bank r) = { x.bank r with fence := f } ∧
        (l1Clear (x.modBank r fun b => { b with fence := none }) u).rooms = x.rooms ∧
        (l1Clear (x.modBank r fun b => { b with fence := none }) u).pkg = x.pkg ∧
        ∀ v, ((l1Clear (x.modBank r fun b => { b with fence := none }) u).suite v).ls = (x.suite v).ls := fun u => by
      have c := counted_l1Clear (x.modBank r fun b => { b with fence := none }) u
      refine ⟨none, (c.bank r).trans hm, c.rooms.trans (by simp), by simp [l1Clear], fun v => (c.ls v).trans (hl v)⟩
    unfold settleFence
    split
    · exact ⟨(x.bank r).fence, rfl, rfl, rfl, fun _ => rfl⟩
    · split
      · exact ⟨(x.bank r).fence, rfl, rfl, rfl, fun _ => rfl⟩
      · split
        · split
          · exact hc _
          · exact ⟨none, hm, by simp, by simp, hl⟩
        · exact ⟨none, hm, by simp, by simp, hl⟩
  unfold finishEntry
  dsimp only
  generalize hx : dropEntry s r e.seq = x
  unfold dropEntry at hx
  dsimp only at hx
  obtain ⟨f, h1, h2, h3, h4⟩ := sf (s.modBank r fun b => { b with
    lq := eraseEntry b.lq e.seq, sq := eraseEntry b.sq e.seq,
    aligns := b.aligns.filter fun q => earlierPending { b with lq := eraseEntry b.lq e.seq, sq := eraseEntry b.sq e.seq } q ||
      b.replay.any fun e => decide (e.seq < q) })
  have hx' : x = settleFence (s.modBank r fun b => { b with
    lq := eraseEntry b.lq e.seq, sq := eraseEntry b.sq e.seq,
    aligns := b.aligns.filter fun q => earlierPending { b with lq := eraseEntry b.lq e.seq, sq := eraseEntry b.sq e.seq } q ||
      b.replay.any fun e => decide (e.seq < q) }) r := hx.symm
  rw [← hx'] at h1 h2 h3 h4
  simp only [State.bank_modBank_same] at h1
  obtain ⟨k1, k2, -, -, -, -, k3, k4⟩ := doneFor_keeps (landLater x r .a res e.born) r .a e.dn
  have kd := doneFor_done (landLater x r .a res e.born) r .a e.dn
  have bl : (landLater x r .a res e.born).bank r = { x.bank r with fly := (x.bank r).fly ++ [⟨.a, 0, res, 0, e.born, true⟩] } := by simp [landLater]
  refine ⟨?_, ?_, ?_, fun n => (kd n).trans ?_, ?_, ?_, ?_, ?_, fun u => ?_⟩
  · rw [k4, bl, h1]
  · rw [k4, bl, h1]
  · rw [k4, bl, h1]
  · simp only [bl, h1, Bank.stream]
  · rw [k4, bl, h1]
  · rw [k4, bl, h1]
  · exact k2.trans ((by simp [landLater] : (landLater x r .a res e.born).rooms = x.rooms).trans (h2.trans (by simp)))
  · exact k1.trans ((by simp [landLater] : (landLater x r .a res e.born).pkg = x.pkg).trans (h3.trans (by simp)))
  · have a1 := congrArg Suite.ls (k3 u)
    have a2 : ((landLater x r .a res e.born).suite u).ls = (x.suite u).ls := Suite.kept_ls (State.suite_setBank_kept ..)
    exact (show ((doneFor (landLater x r .a res e.born) r .a e.dn).suite u).ls = _ from a1).trans
      (a2.trans ((h4 u).trans (Suite.kept_ls (State.suite_setBank_kept ..))))

end Sys2Proof.Machine
end

