-- ==== Sys2Proof/Laws/Integer.lean ====
section
/-! SUPPORT. Integer instructions: the two ways in which one that is ready goes on. -/

namespace Sys2Proof.Machine

/-- An integer instruction that is ready writes one register result, or puts a divide under way. -/
theorem exec_integer (i : Instr) (d : BitVec 5) (s : State) (hi : i.isInteger = true) (hd : i.aRegs.head? = some d)
    (h : ready s i i.waitField = true) :
    (∃ pl cls v, exec i s = .next (emit (issued s i.waitField pl) s.cur cls [.a d v])) ∨
    (∃ pl v dn n, exec i s = .next ((issued s i.waitField pl).modBank s.cur.bank fun b =>
      { b with divs := b.divs ++ [⟨s.cur.kind, d, v, dn, n, s.cycle⟩] })) := by
  cases i
  case add => injection hd with e; subst e; exact .inl ⟨_, _, _, issue_next h rfl rfl⟩
  case sub => injection hd with e; subst e; exact .inl ⟨_, _, _, issue_next h rfl rfl⟩
  case mul => injection hd with e; subst e; exact .inl ⟨_, _, _, issue_next h rfl rfl⟩
  case mulh => injection hd with e; subst e; exact .inl ⟨_, _, _, issue_next h rfl rfl⟩
  case and => injection hd with e; subst e; exact .inl ⟨_, _, _, issue_next h rfl rfl⟩
  case or => injection hd with e; subst e; exact .inl ⟨_, _, _, issue_next h rfl rfl⟩
  case xor => injection hd with e; subst e; exact .inl ⟨_, _, _, issue_next h rfl rfl⟩
  case shl => injection hd with e; subst e; exact .inl ⟨_, _, _, issue_next h rfl rfl⟩
  case shr => injection hd with e; subst e; exact .inl ⟨_, _, _, issue_next h rfl rfl⟩
  case sra => injection hd with e; subst e; exact .inl ⟨_, _, _, issue_next h rfl rfl⟩
  case min => injection hd with e; subst e; exact .inl ⟨_, _, _, issue_next h rfl rfl⟩
  case max => injection hd with e; subst e; exact .inl ⟨_, _, _, issue_next h rfl rfl⟩
  case minu => injection hd with e; subst e; exact .inl ⟨_, _, _, issue_next h rfl rfl⟩
  case maxu => injection hd with e; subst e; exact .inl ⟨_, _, _, issue_next h rfl rfl⟩
  case slt => injection hd with e; subst e; exact .inl ⟨_, _, _, issue_next h rfl rfl⟩
  case sltu => injection hd with e; subst e; exact .inl ⟨_, _, _, issue_next h rfl rfl⟩
  case sel => injection hd with e; subst e; exact .inl ⟨_, _, _, issue_next h rfl rfl⟩
  case clz => injection hd with e; subst e; exact .inl ⟨_, _, _, issue_next h rfl rfl⟩
  case popc => injection hd with e; subst e; exact .inl ⟨_, _, _, issue_next h rfl rfl⟩
  case addi => injection hd with e; subst e; exact .inl ⟨_, _, _, issue_next h rfl rfl⟩
  case andi => injection hd with e; subst e; exact .inl ⟨_, _, _, issue_next h rfl rfl⟩
  case ori => injection hd with e; subst e; exact .inl ⟨_, _, _, issue_next h rfl rfl⟩
  case xori => injection hd with e; subst e; exact .inl ⟨_, _, _, issue_next h rfl rfl⟩
  case shli => injection hd with e; subst e; exact .inl ⟨_, _, _, issue_next h rfl rfl⟩
  case shri => injection hd with e; subst e; exact .inl ⟨_, _, _, issue_next h rfl rfl⟩
  case srai => injection hd with e; subst e; exact .inl ⟨_, _, _, issue_next h rfl rfl⟩
  case slti => injection hd with e; subst e; exact .inl ⟨_, _, _, issue_next h rfl rfl⟩
  case lui => injection hd with e; subst e; exact .inl ⟨_, _, _, issue_next h rfl rfl⟩
  case lix => injection hd with e; subst e; exact .inl ⟨_, _, _, issue_next h rfl rfl⟩
  case div => injection hd with e; subst e; exact .inr ⟨_, _, _, _, issue_next h rfl rfl⟩
  case divu => injection hd with e; subst e; exact .inr ⟨_, _, _, _, issue_next h rfl rfl⟩
  case rem => injection hd with e; subst e; exact .inr ⟨_, _, _, _, issue_next h rfl rfl⟩
  case remu => injection hd with e; subst e; exact .inr ⟨_, _, _, _, issue_next h rfl rfl⟩
  all_goals exact Bool.noConfusion hi

end Sys2Proof.Machine
end

