-- ==== Sys2Proof/Laws/PerInstr.lean ====
section
/-! SUPPORT. The per-instruction family `Encoding`: the decoder reads every encoded instruction back from its own words (R107-R118). -/

namespace Sys2Proof.Laws.Encoding

/-- Decoding the words of an instruction in its map gives the instruction; an event has neither map nor words. -/
def Statement (i : Instr) : Prop := ∀ m, i.map = some m → decode m ((encode i).getD 0 0) ((encode i).getD 1 0) = .ok i

/-! ### The fields of a word laid out as parts -/

theorem parts_5_3_1_1_22 (a : BitVec 5) (b : BitVec 3) (c : BitVec 1) (d : BitVec 1) (e : BitVec 22) :
    fld (a ++ b ++ c ++ d ++ e) 27 5 = a ∧
    fld (a ++ b ++ c ++ d ++ e) 24 3 = b ∧
    fld (a ++ b ++ c ++ d ++ e) 23 1 = c ∧
    fld (a ++ b ++ c ++ d ++ e) 22 1 = d ∧
    fld (a ++ b ++ c ++ d ++ e) 0 22 = e := by
  show BitVec.extractLsb' 27 5 (a ++ b ++ c ++ d ++ e) = a ∧
    BitVec.extractLsb' 24 3 (a ++ b ++ c ++ d ++ e) = b ∧
    BitVec.extractLsb' 23 1 (a ++ b ++ c ++ d ++ e) = c ∧
    BitVec.extractLsb' 22 1 (a ++ b ++ c ++ d ++ e) = d ∧
    BitVec.extractLsb' 0 22 (a ++ b ++ c ++ d ++ e) = e
  simp (disch := decide) only [BitVec.extractLsb'_append_eq_of_le, BitVec.extractLsb'_append_eq_of_add_le, BitVec.extractLsb'_eq_self, Nat.reduceSub, and_self]

theorem parts_7_2_4_12_3_4 (a : BitVec 7) (b : BitVec 2) (c : BitVec 4) (d : BitVec 12) (e : BitVec 3) (f : BitVec 4) :
    fld (a ++ b ++ c ++ d ++ e ++ f) 25 7 = a ∧
    fld (a ++ b ++ c ++ d ++ e ++ f) 23 2 = b ∧
    fld (a ++ b ++ c ++ d ++ e ++ f) 19 4 = c ∧
    fld (a ++ b ++ c ++ d ++ e ++ f) 7 12 = d ∧
    fld (a ++ b ++ c ++ d ++ e ++ f) 4 3 = e ∧
    fld (a ++ b ++ c ++ d ++ e ++ f) 0 4 = f := by
  show BitVec.extractLsb' 25 7 (a ++ b ++ c ++ d ++ e ++ f) = a ∧
    BitVec.extractLsb' 23 2 (a ++ b ++ c ++ d ++ e ++ f) = b ∧
    BitVec.extractLsb' 19 4 (a ++ b ++ c ++ d ++ e ++ f) = c ∧
    BitVec.extractLsb' 7 12 (a ++ b ++ c ++ d ++ e ++ f) = d ∧
    BitVec.extractLsb' 4 3 (a ++ b ++ c ++ d ++ e ++ f) = e ∧
    BitVec.extractLsb' 0 4 (a ++ b ++ c ++ d ++ e ++ f) = f
  simp (disch := decide) only [BitVec.extractLsb'_append_eq_of_le, BitVec.extractLsb'_append_eq_of_add_le, BitVec.extractLsb'_eq_self, Nat.reduceSub, and_self]

theorem parts_7_3_1_2_3_16 (a : BitVec 7) (b : BitVec 3) (c : BitVec 1) (d : BitVec 2) (e : BitVec 3) (f : BitVec 16) :
    fld (a ++ b ++ c ++ d ++ e ++ f) 25 7 = a ∧
    fld (a ++ b ++ c ++ d ++ e ++ f) 22 3 = b ∧
    fld (a ++ b ++ c ++ d ++ e ++ f) 21 1 = c ∧
    fld (a ++ b ++ c ++ d ++ e ++ f) 19 2 = d ∧
    fld (a ++ b ++ c ++ d ++ e ++ f) 16 3 = e ∧
    fld (a ++ b ++ c ++ d ++ e ++ f) 0 16 = f := by
  show BitVec.extractLsb' 25 7 (a ++ b ++ c ++ d ++ e ++ f) = a ∧
    BitVec.extractLsb' 22 3 (a ++ b ++ c ++ d ++ e ++ f) = b ∧
    BitVec.extractLsb' 21 1 (a ++ b ++ c ++ d ++ e ++ f) = c ∧
    BitVec.extractLsb' 19 2 (a ++ b ++ c ++ d ++ e ++ f) = d ∧
    BitVec.extractLsb' 16 3 (a ++ b ++ c ++ d ++ e ++ f) = e ∧
    BitVec.extractLsb' 0 16 (a ++ b ++ c ++ d ++ e ++ f) = f
  simp (disch := decide) only [BitVec.extractLsb'_append_eq_of_le, BitVec.extractLsb'_append_eq_of_add_le, BitVec.extractLsb'_eq_self, Nat.reduceSub, and_self]

theorem parts_7_3_2_5_5_6_4 (a : BitVec 7) (b : BitVec 3) (c : BitVec 2) (d : BitVec 5) (e : BitVec 5) (f : BitVec 6) (g : BitVec 4) :
    fld (a ++ b ++ c ++ d ++ e ++ f ++ g) 25 7 = a ∧
    fld (a ++ b ++ c ++ d ++ e ++ f ++ g) 22 3 = b ∧
    fld (a ++ b ++ c ++ d ++ e ++ f ++ g) 20 2 = c ∧
    fld (a ++ b ++ c ++ d ++ e ++ f ++ g) 15 5 = d ∧
    fld (a ++ b ++ c ++ d ++ e ++ f ++ g) 10 5 = e ∧
    fld (a ++ b ++ c ++ d ++ e ++ f ++ g) 4 6 = f ∧
    fld (a ++ b ++ c ++ d ++ e ++ f ++ g) 0 4 = g := by
  show BitVec.extractLsb' 25 7 (a ++ b ++ c ++ d ++ e ++ f ++ g) = a ∧
    BitVec.extractLsb' 22 3 (a ++ b ++ c ++ d ++ e ++ f ++ g) = b ∧
    BitVec.extractLsb' 20 2 (a ++ b ++ c ++ d ++ e ++ f ++ g) = c ∧
    BitVec.extractLsb' 15 5 (a ++ b ++ c ++ d ++ e ++ f ++ g) = d ∧
    BitVec.extractLsb' 10 5 (a ++ b ++ c ++ d ++ e ++ f ++ g) = e ∧
    BitVec.extractLsb' 4 6 (a ++ b ++ c ++ d ++ e ++ f ++ g) = f ∧
    BitVec.extractLsb' 0 4 (a ++ b ++ c ++ d ++ e ++ f ++ g) = g
  simp (disch := decide) only [BitVec.extractLsb'_append_eq_of_le, BitVec.extractLsb'_append_eq_of_add_le, BitVec.extractLsb'_eq_self, Nat.reduceSub, and_self]

theorem parts_7_3_2_5_11_4 (a : BitVec 7) (b : BitVec 3) (c : BitVec 2) (d : BitVec 5) (e : BitVec 11) (f : BitVec 4) :
    fld (a ++ b ++ c ++ d ++ e ++ f) 25 7 = a ∧
    fld (a ++ b ++ c ++ d ++ e ++ f) 22 3 = b ∧
    fld (a ++ b ++ c ++ d ++ e ++ f) 20 2 = c ∧
    fld (a ++ b ++ c ++ d ++ e ++ f) 15 5 = d ∧
    fld (a ++ b ++ c ++ d ++ e ++ f) 4 11 = e ∧
    fld (a ++ b ++ c ++ d ++ e ++ f) 0 4 = f := by
  show BitVec.extractLsb' 25 7 (a ++ b ++ c ++ d ++ e ++ f) = a ∧
    BitVec.extractLsb' 22 3 (a ++ b ++ c ++ d ++ e ++ f) = b ∧
    BitVec.extractLsb' 20 2 (a ++ b ++ c ++ d ++ e ++ f) = c ∧
    BitVec.extractLsb' 15 5 (a ++ b ++ c ++ d ++ e ++ f) = d ∧
    BitVec.extractLsb' 4 11 (a ++ b ++ c ++ d ++ e ++ f) = e ∧
    BitVec.extractLsb' 0 4 (a ++ b ++ c ++ d ++ e ++ f) = f
  simp (disch := decide) only [BitVec.extractLsb'_append_eq_of_le, BitVec.extractLsb'_append_eq_of_add_le, BitVec.extractLsb'_eq_self, Nat.reduceSub, and_self]

theorem parts_7_3_3_3_12_4 (a : BitVec 7) (b : BitVec 3) (c : BitVec 3) (d : BitVec 3) (e : BitVec 12) (f : BitVec 4) :
    fld (a ++ b ++ c ++ d ++ e ++ f) 25 7 = a ∧
    fld (a ++ b ++ c ++ d ++ e ++ f) 22 3 = b ∧
    fld (a ++ b ++ c ++ d ++ e ++ f) 19 3 = c ∧
    fld (a ++ b ++ c ++ d ++ e ++ f) 16 3 = d ∧
    fld (a ++ b ++ c ++ d ++ e ++ f) 4 12 = e ∧
    fld (a ++ b ++ c ++ d ++ e ++ f) 0 4 = f := by
  show BitVec.extractLsb' 25 7 (a ++ b ++ c ++ d ++ e ++ f) = a ∧
    BitVec.extractLsb' 22 3 (a ++ b ++ c ++ d ++ e ++ f) = b ∧
    BitVec.extractLsb' 19 3 (a ++ b ++ c ++ d ++ e ++ f) = c ∧
    BitVec.extractLsb' 16 3 (a ++ b ++ c ++ d ++ e ++ f) = d ∧
    BitVec.extractLsb' 4 12 (a ++ b ++ c ++ d ++ e ++ f) = e ∧
    BitVec.extractLsb' 0 4 (a ++ b ++ c ++ d ++ e ++ f) = f
  simp (disch := decide) only [BitVec.extractLsb'_append_eq_of_le, BitVec.extractLsb'_append_eq_of_add_le, BitVec.extractLsb'_eq_self, Nat.reduceSub, and_self]

theorem parts_7_3_3_6_6_3_4 (a : BitVec 7) (b : BitVec 3) (c : BitVec 3) (d : BitVec 6) (e : BitVec 6) (f : BitVec 3) (g : BitVec 4) :
    fld (a ++ b ++ c ++ d ++ e ++ f ++ g) 25 7 = a ∧
    fld (a ++ b ++ c ++ d ++ e ++ f ++ g) 22 3 = b ∧
    fld (a ++ b ++ c ++ d ++ e ++ f ++ g) 19 3 = c ∧
    fld (a ++ b ++ c ++ d ++ e ++ f ++ g) 13 6 = d ∧
    fld (a ++ b ++ c ++ d ++ e ++ f ++ g) 7 6 = e ∧
    fld (a ++ b ++ c ++ d ++ e ++ f ++ g) 4 3 = f ∧
    fld (a ++ b ++ c ++ d ++ e ++ f ++ g) 0 4 = g := by
  show BitVec.extractLsb' 25 7 (a ++ b ++ c ++ d ++ e ++ f ++ g) = a ∧
    BitVec.extractLsb' 22 3 (a ++ b ++ c ++ d ++ e ++ f ++ g) = b ∧
    BitVec.extractLsb' 19 3 (a ++ b ++ c ++ d ++ e ++ f ++ g) = c ∧
    BitVec.extractLsb' 13 6 (a ++ b ++ c ++ d ++ e ++ f ++ g) = d ∧
    BitVec.extractLsb' 7 6 (a ++ b ++ c ++ d ++ e ++ f ++ g) = e ∧
    BitVec.extractLsb' 4 3 (a ++ b ++ c ++ d ++ e ++ f ++ g) = f ∧
    BitVec.extractLsb' 0 4 (a ++ b ++ c ++ d ++ e ++ f ++ g) = g
  simp (disch := decide) only [BitVec.extractLsb'_append_eq_of_le, BitVec.extractLsb'_append_eq_of_add_le, BitVec.extractLsb'_eq_self, Nat.reduceSub, and_self]

theorem parts_7_3_3_15_4 (a : BitVec 7) (b : BitVec 3) (c : BitVec 3) (d : BitVec 15) (e : BitVec 4) :
    fld (a ++ b ++ c ++ d ++ e) 25 7 = a ∧
    fld (a ++ b ++ c ++ d ++ e) 22 3 = b ∧
    fld (a ++ b ++ c ++ d ++ e) 19 3 = c ∧
    fld (a ++ b ++ c ++ d ++ e) 4 15 = d ∧
    fld (a ++ b ++ c ++ d ++ e) 0 4 = e := by
  show BitVec.extractLsb' 25 7 (a ++ b ++ c ++ d ++ e) = a ∧
    BitVec.extractLsb' 22 3 (a ++ b ++ c ++ d ++ e) = b ∧
    BitVec.extractLsb' 19 3 (a ++ b ++ c ++ d ++ e) = c ∧
    BitVec.extractLsb' 4 15 (a ++ b ++ c ++ d ++ e) = d ∧
    BitVec.extractLsb' 0 4 (a ++ b ++ c ++ d ++ e) = e
  simp (disch := decide) only [BitVec.extractLsb'_append_eq_of_le, BitVec.extractLsb'_append_eq_of_add_le, BitVec.extractLsb'_eq_self, Nat.reduceSub, and_self]

theorem parts_7_3_4_4_3_7_4 (a : BitVec 7) (b : BitVec 3) (c : BitVec 4) (d : BitVec 4) (e : BitVec 3) (f : BitVec 7) (g : BitVec 4) :
    fld (a ++ b ++ c ++ d ++ e ++ f ++ g) 25 7 = a ∧
    fld (a ++ b ++ c ++ d ++ e ++ f ++ g) 22 3 = b ∧
    fld (a ++ b ++ c ++ d ++ e ++ f ++ g) 18 4 = c ∧
    fld (a ++ b ++ c ++ d ++ e ++ f ++ g) 14 4 = d ∧
    fld (a ++ b ++ c ++ d ++ e ++ f ++ g) 11 3 = e ∧
    fld (a ++ b ++ c ++ d ++ e ++ f ++ g) 4 7 = f ∧
    fld (a ++ b ++ c ++ d ++ e ++ f ++ g) 0 4 = g := by
  show BitVec.extractLsb' 25 7 (a ++ b ++ c ++ d ++ e ++ f ++ g) = a ∧
    BitVec.extractLsb' 22 3 (a ++ b ++ c ++ d ++ e ++ f ++ g) = b ∧
    BitVec.extractLsb' 18 4 (a ++ b ++ c ++ d ++ e ++ f ++ g) = c ∧
    BitVec.extractLsb' 14 4 (a ++ b ++ c ++ d ++ e ++ f ++ g) = d ∧
    BitVec.extractLsb' 11 3 (a ++ b ++ c ++ d ++ e ++ f ++ g) = e ∧
    BitVec.extractLsb' 4 7 (a ++ b ++ c ++ d ++ e ++ f ++ g) = f ∧
    BitVec.extractLsb' 0 4 (a ++ b ++ c ++ d ++ e ++ f ++ g) = g
  simp (disch := decide) only [BitVec.extractLsb'_append_eq_of_le, BitVec.extractLsb'_append_eq_of_add_le, BitVec.extractLsb'_eq_self, Nat.reduceSub, and_self]

theorem parts_7_3_4_4_10_4 (a : BitVec 7) (b : BitVec 3) (c : BitVec 4) (d : BitVec 4) (e : BitVec 10) (f : BitVec 4) :
    fld (a ++ b ++ c ++ d ++ e ++ f) 25 7 = a ∧
    fld (a ++ b ++ c ++ d ++ e ++ f) 22 3 = b ∧
    fld (a ++ b ++ c ++ d ++ e ++ f) 18 4 = c ∧
    fld (a ++ b ++ c ++ d ++ e ++ f) 14 4 = d ∧
    fld (a ++ b ++ c ++ d ++ e ++ f) 4 10 = e ∧
    fld (a ++ b ++ c ++ d ++ e ++ f) 0 4 = f := by
  show BitVec.extractLsb' 25 7 (a ++ b ++ c ++ d ++ e ++ f) = a ∧
    BitVec.extractLsb' 22 3 (a ++ b ++ c ++ d ++ e ++ f) = b ∧
    BitVec.extractLsb' 18 4 (a ++ b ++ c ++ d ++ e ++ f) = c ∧
    BitVec.extractLsb' 14 4 (a ++ b ++ c ++ d ++ e ++ f) = d ∧
    BitVec.extractLsb' 4 10 (a ++ b ++ c ++ d ++ e ++ f) = e ∧
    BitVec.extractLsb' 0 4 (a ++ b ++ c ++ d ++ e ++ f) = f
  simp (disch := decide) only [BitVec.extractLsb'_append_eq_of_le, BitVec.extractLsb'_append_eq_of_add_le, BitVec.extractLsb'_eq_self, Nat.reduceSub, and_self]

theorem parts_7_4_2_3_12_4 (a : BitVec 7) (b : BitVec 4) (c : BitVec 2) (d : BitVec 3) (e : BitVec 12) (f : BitVec 4) :
    fld (a ++ b ++ c ++ d ++ e ++ f) 25 7 = a ∧
    fld (a ++ b ++ c ++ d ++ e ++ f) 21 4 = b ∧
    fld (a ++ b ++ c ++ d ++ e ++ f) 19 2 = c ∧
    fld (a ++ b ++ c ++ d ++ e ++ f) 16 3 = d ∧
    fld (a ++ b ++ c ++ d ++ e ++ f) 4 12 = e ∧
    fld (a ++ b ++ c ++ d ++ e ++ f) 0 4 = f := by
  show BitVec.extractLsb' 25 7 (a ++ b ++ c ++ d ++ e ++ f) = a ∧
    BitVec.extractLsb' 21 4 (a ++ b ++ c ++ d ++ e ++ f) = b ∧
    BitVec.extractLsb' 19 2 (a ++ b ++ c ++ d ++ e ++ f) = c ∧
    BitVec.extractLsb' 16 3 (a ++ b ++ c ++ d ++ e ++ f) = d ∧
    BitVec.extractLsb' 4 12 (a ++ b ++ c ++ d ++ e ++ f) = e ∧
    BitVec.extractLsb' 0 4 (a ++ b ++ c ++ d ++ e ++ f) = f
  simp (disch := decide) only [BitVec.extractLsb'_append_eq_of_le, BitVec.extractLsb'_append_eq_of_add_le, BitVec.extractLsb'_eq_self, Nat.reduceSub, and_self]

theorem parts_7_4_4_4_9_4 (a : BitVec 7) (b : BitVec 4) (c : BitVec 4) (d : BitVec 4) (e : BitVec 9) (f : BitVec 4) :
    fld (a ++ b ++ c ++ d ++ e ++ f) 25 7 = a ∧
    fld (a ++ b ++ c ++ d ++ e ++ f) 21 4 = b ∧
    fld (a ++ b ++ c ++ d ++ e ++ f) 17 4 = c ∧
    fld (a ++ b ++ c ++ d ++ e ++ f) 13 4 = d ∧
    fld (a ++ b ++ c ++ d ++ e ++ f) 4 9 = e ∧
    fld (a ++ b ++ c ++ d ++ e ++ f) 0 4 = f := by
  show BitVec.extractLsb' 25 7 (a ++ b ++ c ++ d ++ e ++ f) = a ∧
    BitVec.extractLsb' 21 4 (a ++ b ++ c ++ d ++ e ++ f) = b ∧
    BitVec.extractLsb' 17 4 (a ++ b ++ c ++ d ++ e ++ f) = c ∧
    BitVec.extractLsb' 13 4 (a ++ b ++ c ++ d ++ e ++ f) = d ∧
    BitVec.extractLsb' 4 9 (a ++ b ++ c ++ d ++ e ++ f) = e ∧
    BitVec.extractLsb' 0 4 (a ++ b ++ c ++ d ++ e ++ f) = f
  simp (disch := decide) only [BitVec.extractLsb'_append_eq_of_le, BitVec.extractLsb'_append_eq_of_add_le, BitVec.extractLsb'_eq_self, Nat.reduceSub, and_self]

theorem parts_7_4_4_13_4 (a : BitVec 7) (b : BitVec 4) (c : BitVec 4) (d : BitVec 13) (e : BitVec 4) :
    fld (a ++ b ++ c ++ d ++ e) 25 7 = a ∧
    fld (a ++ b ++ c ++ d ++ e) 21 4 = b ∧
    fld (a ++ b ++ c ++ d ++ e) 17 4 = c ∧
    fld (a ++ b ++ c ++ d ++ e) 4 13 = d ∧
    fld (a ++ b ++ c ++ d ++ e) 0 4 = e := by
  show BitVec.extractLsb' 25 7 (a ++ b ++ c ++ d ++ e) = a ∧
    BitVec.extractLsb' 21 4 (a ++ b ++ c ++ d ++ e) = b ∧
    BitVec.extractLsb' 17 4 (a ++ b ++ c ++ d ++ e) = c ∧
    BitVec.extractLsb' 4 13 (a ++ b ++ c ++ d ++ e) = d ∧
    BitVec.extractLsb' 0 4 (a ++ b ++ c ++ d ++ e) = e
  simp (disch := decide) only [BitVec.extractLsb'_append_eq_of_le, BitVec.extractLsb'_append_eq_of_add_le, BitVec.extractLsb'_eq_self, Nat.reduceSub, and_self]

theorem parts_7_4_17_4 (a : BitVec 7) (b : BitVec 4) (c : BitVec 17) (d : BitVec 4) :
    fld (a ++ b ++ c ++ d) 25 7 = a ∧
    fld (a ++ b ++ c ++ d) 21 4 = b ∧
    fld (a ++ b ++ c ++ d) 4 17 = c ∧
    fld (a ++ b ++ c ++ d) 0 4 = d := by
  show BitVec.extractLsb' 25 7 (a ++ b ++ c ++ d) = a ∧
    BitVec.extractLsb' 21 4 (a ++ b ++ c ++ d) = b ∧
    BitVec.extractLsb' 4 17 (a ++ b ++ c ++ d) = c ∧
    BitVec.extractLsb' 0 4 (a ++ b ++ c ++ d) = d
  simp (disch := decide) only [BitVec.extractLsb'_append_eq_of_le, BitVec.extractLsb'_append_eq_of_add_le, BitVec.extractLsb'_eq_self, Nat.reduceSub, and_self]

theorem parts_7_5_1_19 (a : BitVec 7) (b : BitVec 5) (c : BitVec 1) (d : BitVec 19) :
    fld (a ++ b ++ c ++ d) 25 7 = a ∧
    fld (a ++ b ++ c ++ d) 20 5 = b ∧
    fld (a ++ b ++ c ++ d) 19 1 = c ∧
    fld (a ++ b ++ c ++ d) 0 19 = d := by
  show BitVec.extractLsb' 25 7 (a ++ b ++ c ++ d) = a ∧
    BitVec.extractLsb' 20 5 (a ++ b ++ c ++ d) = b ∧
    BitVec.extractLsb' 19 1 (a ++ b ++ c ++ d) = c ∧
    BitVec.extractLsb' 0 19 (a ++ b ++ c ++ d) = d
  simp (disch := decide) only [BitVec.extractLsb'_append_eq_of_le, BitVec.extractLsb'_append_eq_of_add_le, BitVec.extractLsb'_eq_self, Nat.reduceSub, and_self]

theorem parts_7_5_5_2_1_2_4_2_4 (a : BitVec 7) (b : BitVec 5) (c : BitVec 5) (d : BitVec 2) (e : BitVec 1) (f : BitVec 2) (g : BitVec 4) (h : BitVec 2) (i : BitVec 4) :
    fld (a ++ b ++ c ++ d ++ e ++ f ++ g ++ h ++ i) 25 7 = a ∧
    fld (a ++ b ++ c ++ d ++ e ++ f ++ g ++ h ++ i) 20 5 = b ∧
    fld (a ++ b ++ c ++ d ++ e ++ f ++ g ++ h ++ i) 15 5 = c ∧
    fld (a ++ b ++ c ++ d ++ e ++ f ++ g ++ h ++ i) 13 2 = d ∧
    fld (a ++ b ++ c ++ d ++ e ++ f ++ g ++ h ++ i) 12 1 = e ∧
    fld (a ++ b ++ c ++ d ++ e ++ f ++ g ++ h ++ i) 10 2 = f ∧
    fld (a ++ b ++ c ++ d ++ e ++ f ++ g ++ h ++ i) 6 4 = g ∧
    fld (a ++ b ++ c ++ d ++ e ++ f ++ g ++ h ++ i) 4 2 = h ∧
    fld (a ++ b ++ c ++ d ++ e ++ f ++ g ++ h ++ i) 0 4 = i := by
  show BitVec.extractLsb' 25 7 (a ++ b ++ c ++ d ++ e ++ f ++ g ++ h ++ i) = a ∧
    BitVec.extractLsb' 20 5 (a ++ b ++ c ++ d ++ e ++ f ++ g ++ h ++ i) = b ∧
    BitVec.extractLsb' 15 5 (a ++ b ++ c ++ d ++ e ++ f ++ g ++ h ++ i) = c ∧
    BitVec.extractLsb' 13 2 (a ++ b ++ c ++ d ++ e ++ f ++ g ++ h ++ i) = d ∧
    BitVec.extractLsb' 12 1 (a ++ b ++ c ++ d ++ e ++ f ++ g ++ h ++ i) = e ∧
    BitVec.extractLsb' 10 2 (a ++ b ++ c ++ d ++ e ++ f ++ g ++ h ++ i) = f ∧
    BitVec.extractLsb' 6 4 (a ++ b ++ c ++ d ++ e ++ f ++ g ++ h ++ i) = g ∧
    BitVec.extractLsb' 4 2 (a ++ b ++ c ++ d ++ e ++ f ++ g ++ h ++ i) = h ∧
    BitVec.extractLsb' 0 4 (a ++ b ++ c ++ d ++ e ++ f ++ g ++ h ++ i) = i
  simp (disch := decide) only [BitVec.extractLsb'_append_eq_of_le, BitVec.extractLsb'_append_eq_of_add_le, BitVec.extractLsb'_eq_self, Nat.reduceSub, and_self]

theorem parts_7_5_5_2_1_8_4 (a : BitVec 7) (b : BitVec 5) (c : BitVec 5) (d : BitVec 2) (e : BitVec 1) (f : BitVec 8) (g : BitVec 4) :
    fld (a ++ b ++ c ++ d ++ e ++ f ++ g) 25 7 = a ∧
    fld (a ++ b ++ c ++ d ++ e ++ f ++ g) 20 5 = b ∧
    fld (a ++ b ++ c ++ d ++ e ++ f ++ g) 15 5 = c ∧
    fld (a ++ b ++ c ++ d ++ e ++ f ++ g) 13 2 = d ∧
    fld (a ++ b ++ c ++ d ++ e ++ f ++ g) 12 1 = e ∧
    fld (a ++ b ++ c ++ d ++ e ++ f ++ g) 4 8 = f ∧
    fld (a ++ b ++ c ++ d ++ e ++ f ++ g) 0 4 = g := by
  show BitVec.extractLsb' 25 7 (a ++ b ++ c ++ d ++ e ++ f ++ g) = a ∧
    BitVec.extractLsb' 20 5 (a ++ b ++ c ++ d ++ e ++ f ++ g) = b ∧
    BitVec.extractLsb' 15 5 (a ++ b ++ c ++ d ++ e ++ f ++ g) = c ∧
    BitVec.extractLsb' 13 2 (a ++ b ++ c ++ d ++ e ++ f ++ g) = d ∧
    BitVec.extractLsb' 12 1 (a ++ b ++ c ++ d ++ e ++ f ++ g) = e ∧
    BitVec.extractLsb' 4 8 (a ++ b ++ c ++ d ++ e ++ f ++ g) = f ∧
    BitVec.extractLsb' 0 4 (a ++ b ++ c ++ d ++ e ++ f ++ g) = g
  simp (disch := decide) only [BitVec.extractLsb'_append_eq_of_le, BitVec.extractLsb'_append_eq_of_add_le, BitVec.extractLsb'_eq_self, Nat.reduceSub, and_self]

theorem parts_7_5_5_2_9_4 (a : BitVec 7) (b : BitVec 5) (c : BitVec 5) (d : BitVec 2) (e : BitVec 9) (f : BitVec 4) :
    fld (a ++ b ++ c ++ d ++ e ++ f) 25 7 = a ∧
    fld (a ++ b ++ c ++ d ++ e ++ f) 20 5 = b ∧
    fld (a ++ b ++ c ++ d ++ e ++ f) 15 5 = c ∧
    fld (a ++ b ++ c ++ d ++ e ++ f) 13 2 = d ∧
    fld (a ++ b ++ c ++ d ++ e ++ f) 4 9 = e ∧
    fld (a ++ b ++ c ++ d ++ e ++ f) 0 4 = f := by
  show BitVec.extractLsb' 25 7 (a ++ b ++ c ++ d ++ e ++ f) = a ∧
    BitVec.extractLsb' 20 5 (a ++ b ++ c ++ d ++ e ++ f) = b ∧
    BitVec.extractLsb' 15 5 (a ++ b ++ c ++ d ++ e ++ f) = c ∧
    BitVec.extractLsb' 13 2 (a ++ b ++ c ++ d ++ e ++ f) = d ∧
    BitVec.extractLsb' 4 9 (a ++ b ++ c ++ d ++ e ++ f) = e ∧
    BitVec.extractLsb' 0 4 (a ++ b ++ c ++ d ++ e ++ f) = f
  simp (disch := decide) only [BitVec.extractLsb'_append_eq_of_le, BitVec.extractLsb'_append_eq_of_add_le, BitVec.extractLsb'_eq_self, Nat.reduceSub, and_self]

theorem parts_7_5_5_4_1_2_4_4 (a : BitVec 7) (b : BitVec 5) (c : BitVec 5) (d : BitVec 4) (e : BitVec 1) (f : BitVec 2) (g : BitVec 4) (h : BitVec 4) :
    fld (a ++ b ++ c ++ d ++ e ++ f ++ g ++ h) 25 7 = a ∧
    fld (a ++ b ++ c ++ d ++ e ++ f ++ g ++ h) 20 5 = b ∧
    fld (a ++ b ++ c ++ d ++ e ++ f ++ g ++ h) 15 5 = c ∧
    fld (a ++ b ++ c ++ d ++ e ++ f ++ g ++ h) 11 4 = d ∧
    fld (a ++ b ++ c ++ d ++ e ++ f ++ g ++ h) 10 1 = e ∧
    fld (a ++ b ++ c ++ d ++ e ++ f ++ g ++ h) 8 2 = f ∧
    fld (a ++ b ++ c ++ d ++ e ++ f ++ g ++ h) 4 4 = g ∧
    fld (a ++ b ++ c ++ d ++ e ++ f ++ g ++ h) 0 4 = h := by
  show BitVec.extractLsb' 25 7 (a ++ b ++ c ++ d ++ e ++ f ++ g ++ h) = a ∧
    BitVec.extractLsb' 20 5 (a ++ b ++ c ++ d ++ e ++ f ++ g ++ h) = b ∧
    BitVec.extractLsb' 15 5 (a ++ b ++ c ++ d ++ e ++ f ++ g ++ h) = c ∧
    BitVec.extractLsb' 11 4 (a ++ b ++ c ++ d ++ e ++ f ++ g ++ h) = d ∧
    BitVec.extractLsb' 10 1 (a ++ b ++ c ++ d ++ e ++ f ++ g ++ h) = e ∧
    BitVec.extractLsb' 8 2 (a ++ b ++ c ++ d ++ e ++ f ++ g ++ h) = f ∧
    BitVec.extractLsb' 4 4 (a ++ b ++ c ++ d ++ e ++ f ++ g ++ h) = g ∧
    BitVec.extractLsb' 0 4 (a ++ b ++ c ++ d ++ e ++ f ++ g ++ h) = h
  simp (disch := decide) only [BitVec.extractLsb'_append_eq_of_le, BitVec.extractLsb'_append_eq_of_add_le, BitVec.extractLsb'_eq_self, Nat.reduceSub, and_self]

theorem parts_7_5_5_5_4_2_4 (a : BitVec 7) (b : BitVec 5) (c : BitVec 5) (d : BitVec 5) (e : BitVec 4) (f : BitVec 2) (g : BitVec 4) :
    fld (a ++ b ++ c ++ d ++ e ++ f ++ g) 25 7 = a ∧
    fld (a ++ b ++ c ++ d ++ e ++ f ++ g) 20 5 = b ∧
    fld (a ++ b ++ c ++ d ++ e ++ f ++ g) 15 5 = c ∧
    fld (a ++ b ++ c ++ d ++ e ++ f ++ g) 10 5 = d ∧
    fld (a ++ b ++ c ++ d ++ e ++ f ++ g) 6 4 = e ∧
    fld (a ++ b ++ c ++ d ++ e ++ f ++ g) 4 2 = f ∧
    fld (a ++ b ++ c ++ d ++ e ++ f ++ g) 0 4 = g := by
  show BitVec.extractLsb' 25 7 (a ++ b ++ c ++ d ++ e ++ f ++ g) = a ∧
    BitVec.extractLsb' 20 5 (a ++ b ++ c ++ d ++ e ++ f ++ g) = b ∧
    BitVec.extractLsb' 15 5 (a ++ b ++ c ++ d ++ e ++ f ++ g) = c ∧
    BitVec.extractLsb' 10 5 (a ++ b ++ c ++ d ++ e ++ f ++ g) = d ∧
    BitVec.extractLsb' 6 4 (a ++ b ++ c ++ d ++ e ++ f ++ g) = e ∧
    BitVec.extractLsb' 4 2 (a ++ b ++ c ++ d ++ e ++ f ++ g) = f ∧
    BitVec.extractLsb' 0 4 (a ++ b ++ c ++ d ++ e ++ f ++ g) = g
  simp (disch := decide) only [BitVec.extractLsb'_append_eq_of_le, BitVec.extractLsb'_append_eq_of_add_le, BitVec.extractLsb'_eq_self, Nat.reduceSub, and_self]

theorem parts_7_5_5_5_6_4 (a : BitVec 7) (b : BitVec 5) (c : BitVec 5) (d : BitVec 5) (e : BitVec 6) (f : BitVec 4) :
    fld (a ++ b ++ c ++ d ++ e ++ f) 25 7 = a ∧
    fld (a ++ b ++ c ++ d ++ e ++ f) 20 5 = b ∧
    fld (a ++ b ++ c ++ d ++ e ++ f) 15 5 = c ∧
    fld (a ++ b ++ c ++ d ++ e ++ f) 10 5 = d ∧
    fld (a ++ b ++ c ++ d ++ e ++ f) 4 6 = e ∧
    fld (a ++ b ++ c ++ d ++ e ++ f) 0 4 = f := by
  show BitVec.extractLsb' 25 7 (a ++ b ++ c ++ d ++ e ++ f) = a ∧
    BitVec.extractLsb' 20 5 (a ++ b ++ c ++ d ++ e ++ f) = b ∧
    BitVec.extractLsb' 15 5 (a ++ b ++ c ++ d ++ e ++ f) = c ∧
    BitVec.extractLsb' 10 5 (a ++ b ++ c ++ d ++ e ++ f) = d ∧
    BitVec.extractLsb' 4 6 (a ++ b ++ c ++ d ++ e ++ f) = e ∧
    BitVec.extractLsb' 0 4 (a ++ b ++ c ++ d ++ e ++ f) = f
  simp (disch := decide) only [BitVec.extractLsb'_append_eq_of_le, BitVec.extractLsb'_append_eq_of_add_le, BitVec.extractLsb'_eq_self, Nat.reduceSub, and_self]

theorem parts_7_5_5_11_4 (a : BitVec 7) (b : BitVec 5) (c : BitVec 5) (d : BitVec 11) (e : BitVec 4) :
    fld (a ++ b ++ c ++ d ++ e) 25 7 = a ∧
    fld (a ++ b ++ c ++ d ++ e) 20 5 = b ∧
    fld (a ++ b ++ c ++ d ++ e) 15 5 = c ∧
    fld (a ++ b ++ c ++ d ++ e) 4 11 = d ∧
    fld (a ++ b ++ c ++ d ++ e) 0 4 = e := by
  show BitVec.extractLsb' 25 7 (a ++ b ++ c ++ d ++ e) = a ∧
    BitVec.extractLsb' 20 5 (a ++ b ++ c ++ d ++ e) = b ∧
    BitVec.extractLsb' 15 5 (a ++ b ++ c ++ d ++ e) = c ∧
    BitVec.extractLsb' 4 11 (a ++ b ++ c ++ d ++ e) = d ∧
    BitVec.extractLsb' 0 4 (a ++ b ++ c ++ d ++ e) = e
  simp (disch := decide) only [BitVec.extractLsb'_append_eq_of_le, BitVec.extractLsb'_append_eq_of_add_le, BitVec.extractLsb'_eq_self, Nat.reduceSub, and_self]

theorem parts_7_5_10_4_2_4 (a : BitVec 7) (b : BitVec 5) (c : BitVec 10) (d : BitVec 4) (e : BitVec 2) (f : BitVec 4) :
    fld (a ++ b ++ c ++ d ++ e ++ f) 25 7 = a ∧
    fld (a ++ b ++ c ++ d ++ e ++ f) 20 5 = b ∧
    fld (a ++ b ++ c ++ d ++ e ++ f) 10 10 = c ∧
    fld (a ++ b ++ c ++ d ++ e ++ f) 6 4 = d ∧
    fld (a ++ b ++ c ++ d ++ e ++ f) 4 2 = e ∧
    fld (a ++ b ++ c ++ d ++ e ++ f) 0 4 = f := by
  show BitVec.extractLsb' 25 7 (a ++ b ++ c ++ d ++ e ++ f) = a ∧
    BitVec.extractLsb' 20 5 (a ++ b ++ c ++ d ++ e ++ f) = b ∧
    BitVec.extractLsb' 10 10 (a ++ b ++ c ++ d ++ e ++ f) = c ∧
    BitVec.extractLsb' 6 4 (a ++ b ++ c ++ d ++ e ++ f) = d ∧
    BitVec.extractLsb' 4 2 (a ++ b ++ c ++ d ++ e ++ f) = e ∧
    BitVec.extractLsb' 0 4 (a ++ b ++ c ++ d ++ e ++ f) = f
  simp (disch := decide) only [BitVec.extractLsb'_append_eq_of_le, BitVec.extractLsb'_append_eq_of_add_le, BitVec.extractLsb'_eq_self, Nat.reduceSub, and_self]

theorem parts_7_5_16_4 (a : BitVec 7) (b : BitVec 5) (c : BitVec 16) (d : BitVec 4) :
    fld (a ++ b ++ c ++ d) 25 7 = a ∧
    fld (a ++ b ++ c ++ d) 20 5 = b ∧
    fld (a ++ b ++ c ++ d) 4 16 = c ∧
    fld (a ++ b ++ c ++ d) 0 4 = d := by
  show BitVec.extractLsb' 25 7 (a ++ b ++ c ++ d) = a ∧
    BitVec.extractLsb' 20 5 (a ++ b ++ c ++ d) = b ∧
    BitVec.extractLsb' 4 16 (a ++ b ++ c ++ d) = c ∧
    BitVec.extractLsb' 0 4 (a ++ b ++ c ++ d) = d
  simp (disch := decide) only [BitVec.extractLsb'_append_eq_of_le, BitVec.extractLsb'_append_eq_of_add_le, BitVec.extractLsb'_eq_self, Nat.reduceSub, and_self]

theorem parts_7_6_5_1_1_8_4 (a : BitVec 7) (b : BitVec 6) (c : BitVec 5) (d : BitVec 1) (e : BitVec 1) (f : BitVec 8) (g : BitVec 4) :
    fld (a ++ b ++ c ++ d ++ e ++ f ++ g) 25 7 = a ∧
    fld (a ++ b ++ c ++ d ++ e ++ f ++ g) 19 6 = b ∧
    fld (a ++ b ++ c ++ d ++ e ++ f ++ g) 14 5 = c ∧
    fld (a ++ b ++ c ++ d ++ e ++ f ++ g) 13 1 = d ∧
    fld (a ++ b ++ c ++ d ++ e ++ f ++ g) 12 1 = e ∧
    fld (a ++ b ++ c ++ d ++ e ++ f ++ g) 4 8 = f ∧
    fld (a ++ b ++ c ++ d ++ e ++ f ++ g) 0 4 = g := by
  show BitVec.extractLsb' 25 7 (a ++ b ++ c ++ d ++ e ++ f ++ g) = a ∧
    BitVec.extractLsb' 19 6 (a ++ b ++ c ++ d ++ e ++ f ++ g) = b ∧
    BitVec.extractLsb' 14 5 (a ++ b ++ c ++ d ++ e ++ f ++ g) = c ∧
    BitVec.extractLsb' 13 1 (a ++ b ++ c ++ d ++ e ++ f ++ g) = d ∧
    BitVec.extractLsb' 12 1 (a ++ b ++ c ++ d ++ e ++ f ++ g) = e ∧
    BitVec.extractLsb' 4 8 (a ++ b ++ c ++ d ++ e ++ f ++ g) = f ∧
    BitVec.extractLsb' 0 4 (a ++ b ++ c ++ d ++ e ++ f ++ g) = g
  simp (disch := decide) only [BitVec.extractLsb'_append_eq_of_le, BitVec.extractLsb'_append_eq_of_add_le, BitVec.extractLsb'_eq_self, Nat.reduceSub, and_self]

theorem parts_7_6_5_1_3_4_2_4 (a : BitVec 7) (b : BitVec 6) (c : BitVec 5) (d : BitVec 1) (e : BitVec 3) (f : BitVec 4) (g : BitVec 2) (h : BitVec 4) :
    fld (a ++ b ++ c ++ d ++ e ++ f ++ g ++ h) 25 7 = a ∧
    fld (a ++ b ++ c ++ d ++ e ++ f ++ g ++ h) 19 6 = b ∧
    fld (a ++ b ++ c ++ d ++ e ++ f ++ g ++ h) 14 5 = c ∧
    fld (a ++ b ++ c ++ d ++ e ++ f ++ g ++ h) 13 1 = d ∧
    fld (a ++ b ++ c ++ d ++ e ++ f ++ g ++ h) 10 3 = e ∧
    fld (a ++ b ++ c ++ d ++ e ++ f ++ g ++ h) 6 4 = f ∧
    fld (a ++ b ++ c ++ d ++ e ++ f ++ g ++ h) 4 2 = g ∧
    fld (a ++ b ++ c ++ d ++ e ++ f ++ g ++ h) 0 4 = h := by
  show BitVec.extractLsb' 25 7 (a ++ b ++ c ++ d ++ e ++ f ++ g ++ h) = a ∧
    BitVec.extractLsb' 19 6 (a ++ b ++ c ++ d ++ e ++ f ++ g ++ h) = b ∧
    BitVec.extractLsb' 14 5 (a ++ b ++ c ++ d ++ e ++ f ++ g ++ h) = c ∧
    BitVec.extractLsb' 13 1 (a ++ b ++ c ++ d ++ e ++ f ++ g ++ h) = d ∧
    BitVec.extractLsb' 10 3 (a ++ b ++ c ++ d ++ e ++ f ++ g ++ h) = e ∧
    BitVec.extractLsb' 6 4 (a ++ b ++ c ++ d ++ e ++ f ++ g ++ h) = f ∧
    BitVec.extractLsb' 4 2 (a ++ b ++ c ++ d ++ e ++ f ++ g ++ h) = g ∧
    BitVec.extractLsb' 0 4 (a ++ b ++ c ++ d ++ e ++ f ++ g ++ h) = h
  simp (disch := decide) only [BitVec.extractLsb'_append_eq_of_le, BitVec.extractLsb'_append_eq_of_add_le, BitVec.extractLsb'_eq_self, Nat.reduceSub, and_self]

theorem parts_7_6_5_1_9_4 (a : BitVec 7) (b : BitVec 6) (c : BitVec 5) (d : BitVec 1) (e : BitVec 9) (f : BitVec 4) :
    fld (a ++ b ++ c ++ d ++ e ++ f) 25 7 = a ∧
    fld (a ++ b ++ c ++ d ++ e ++ f) 19 6 = b ∧
    fld (a ++ b ++ c ++ d ++ e ++ f) 14 5 = c ∧
    fld (a ++ b ++ c ++ d ++ e ++ f) 13 1 = d ∧
    fld (a ++ b ++ c ++ d ++ e ++ f) 4 9 = e ∧
    fld (a ++ b ++ c ++ d ++ e ++ f) 0 4 = f := by
  show BitVec.extractLsb' 25 7 (a ++ b ++ c ++ d ++ e ++ f) = a ∧
    BitVec.extractLsb' 19 6 (a ++ b ++ c ++ d ++ e ++ f) = b ∧
    BitVec.extractLsb' 14 5 (a ++ b ++ c ++ d ++ e ++ f) = c ∧
    BitVec.extractLsb' 13 1 (a ++ b ++ c ++ d ++ e ++ f) = d ∧
    BitVec.extractLsb' 4 9 (a ++ b ++ c ++ d ++ e ++ f) = e ∧
    BitVec.extractLsb' 0 4 (a ++ b ++ c ++ d ++ e ++ f) = f
  simp (disch := decide) only [BitVec.extractLsb'_append_eq_of_le, BitVec.extractLsb'_append_eq_of_add_le, BitVec.extractLsb'_eq_self, Nat.reduceSub, and_self]

theorem parts_7_6_5_4_4_2_4 (a : BitVec 7) (b : BitVec 6) (c : BitVec 5) (d : BitVec 4) (e : BitVec 4) (f : BitVec 2) (g : BitVec 4) :
    fld (a ++ b ++ c ++ d ++ e ++ f ++ g) 25 7 = a ∧
    fld (a ++ b ++ c ++ d ++ e ++ f ++ g) 19 6 = b ∧
    fld (a ++ b ++ c ++ d ++ e ++ f ++ g) 14 5 = c ∧
    fld (a ++ b ++ c ++ d ++ e ++ f ++ g) 10 4 = d ∧
    fld (a ++ b ++ c ++ d ++ e ++ f ++ g) 6 4 = e ∧
    fld (a ++ b ++ c ++ d ++ e ++ f ++ g) 4 2 = f ∧
    fld (a ++ b ++ c ++ d ++ e ++ f ++ g) 0 4 = g := by
  show BitVec.extractLsb' 25 7 (a ++ b ++ c ++ d ++ e ++ f ++ g) = a ∧
    BitVec.extractLsb' 19 6 (a ++ b ++ c ++ d ++ e ++ f ++ g) = b ∧
    BitVec.extractLsb' 14 5 (a ++ b ++ c ++ d ++ e ++ f ++ g) = c ∧
    BitVec.extractLsb' 10 4 (a ++ b ++ c ++ d ++ e ++ f ++ g) = d ∧
    BitVec.extractLsb' 6 4 (a ++ b ++ c ++ d ++ e ++ f ++ g) = e ∧
    BitVec.extractLsb' 4 2 (a ++ b ++ c ++ d ++ e ++ f ++ g) = f ∧
    BitVec.extractLsb' 0 4 (a ++ b ++ c ++ d ++ e ++ f ++ g) = g
  simp (disch := decide) only [BitVec.extractLsb'_append_eq_of_le, BitVec.extractLsb'_append_eq_of_add_le, BitVec.extractLsb'_eq_self, Nat.reduceSub, and_self]

theorem parts_7_6_6_1_1_2_2_3_4 (a : BitVec 7) (b : BitVec 6) (c : BitVec 6) (d : BitVec 1) (e : BitVec 1) (f : BitVec 2) (g : BitVec 2) (h : BitVec 3) (i : BitVec 4) :
    fld (a ++ b ++ c ++ d ++ e ++ f ++ g ++ h ++ i) 25 7 = a ∧
    fld (a ++ b ++ c ++ d ++ e ++ f ++ g ++ h ++ i) 19 6 = b ∧
    fld (a ++ b ++ c ++ d ++ e ++ f ++ g ++ h ++ i) 13 6 = c ∧
    fld (a ++ b ++ c ++ d ++ e ++ f ++ g ++ h ++ i) 12 1 = d ∧
    fld (a ++ b ++ c ++ d ++ e ++ f ++ g ++ h ++ i) 11 1 = e ∧
    fld (a ++ b ++ c ++ d ++ e ++ f ++ g ++ h ++ i) 9 2 = f ∧
    fld (a ++ b ++ c ++ d ++ e ++ f ++ g ++ h ++ i) 7 2 = g ∧
    fld (a ++ b ++ c ++ d ++ e ++ f ++ g ++ h ++ i) 4 3 = h ∧
    fld (a ++ b ++ c ++ d ++ e ++ f ++ g ++ h ++ i) 0 4 = i := by
  show BitVec.extractLsb' 25 7 (a ++ b ++ c ++ d ++ e ++ f ++ g ++ h ++ i) = a ∧
    BitVec.extractLsb' 19 6 (a ++ b ++ c ++ d ++ e ++ f ++ g ++ h ++ i) = b ∧
    BitVec.extractLsb' 13 6 (a ++ b ++ c ++ d ++ e ++ f ++ g ++ h ++ i) = c ∧
    BitVec.extractLsb' 12 1 (a ++ b ++ c ++ d ++ e ++ f ++ g ++ h ++ i) = d ∧
    BitVec.extractLsb' 11 1 (a ++ b ++ c ++ d ++ e ++ f ++ g ++ h ++ i) = e ∧
    BitVec.extractLsb' 9 2 (a ++ b ++ c ++ d ++ e ++ f ++ g ++ h ++ i) = f ∧
    BitVec.extractLsb' 7 2 (a ++ b ++ c ++ d ++ e ++ f ++ g ++ h ++ i) = g ∧
    BitVec.extractLsb' 4 3 (a ++ b ++ c ++ d ++ e ++ f ++ g ++ h ++ i) = h ∧
    BitVec.extractLsb' 0 4 (a ++ b ++ c ++ d ++ e ++ f ++ g ++ h ++ i) = i
  simp (disch := decide) only [BitVec.extractLsb'_append_eq_of_le, BitVec.extractLsb'_append_eq_of_add_le, BitVec.extractLsb'_eq_self, Nat.reduceSub, and_self]

theorem parts_7_6_6_3_2_1_3_4 (a : BitVec 7) (b : BitVec 6) (c : BitVec 6) (d : BitVec 3) (e : BitVec 2) (f : BitVec 1) (g : BitVec 3) (h : BitVec 4) :
    fld (a ++ b ++ c ++ d ++ e ++ f ++ g ++ h) 25 7 = a ∧
    fld (a ++ b ++ c ++ d ++ e ++ f ++ g ++ h) 19 6 = b ∧
    fld (a ++ b ++ c ++ d ++ e ++ f ++ g ++ h) 13 6 = c ∧
    fld (a ++ b ++ c ++ d ++ e ++ f ++ g ++ h) 10 3 = d ∧
    fld (a ++ b ++ c ++ d ++ e ++ f ++ g ++ h) 8 2 = e ∧
    fld (a ++ b ++ c ++ d ++ e ++ f ++ g ++ h) 7 1 = f ∧
    fld (a ++ b ++ c ++ d ++ e ++ f ++ g ++ h) 4 3 = g ∧
    fld (a ++ b ++ c ++ d ++ e ++ f ++ g ++ h) 0 4 = h := by
  show BitVec.extractLsb' 25 7 (a ++ b ++ c ++ d ++ e ++ f ++ g ++ h) = a ∧
    BitVec.extractLsb' 19 6 (a ++ b ++ c ++ d ++ e ++ f ++ g ++ h) = b ∧
    BitVec.extractLsb' 13 6 (a ++ b ++ c ++ d ++ e ++ f ++ g ++ h) = c ∧
    BitVec.extractLsb' 10 3 (a ++ b ++ c ++ d ++ e ++ f ++ g ++ h) = d ∧
    BitVec.extractLsb' 8 2 (a ++ b ++ c ++ d ++ e ++ f ++ g ++ h) = e ∧
    BitVec.extractLsb' 7 1 (a ++ b ++ c ++ d ++ e ++ f ++ g ++ h) = f ∧
    BitVec.extractLsb' 4 3 (a ++ b ++ c ++ d ++ e ++ f ++ g ++ h) = g ∧
    BitVec.extractLsb' 0 4 (a ++ b ++ c ++ d ++ e ++ f ++ g ++ h) = h
  simp (disch := decide) only [BitVec.extractLsb'_append_eq_of_le, BitVec.extractLsb'_append_eq_of_add_le, BitVec.extractLsb'_eq_self, Nat.reduceSub, and_self]

theorem parts_7_6_6_3_3_3_4 (a : BitVec 7) (b : BitVec 6) (c : BitVec 6) (d : BitVec 3) (e : BitVec 3) (f : BitVec 3) (g : BitVec 4) :
    fld (a ++ b ++ c ++ d ++ e ++ f ++ g) 25 7 = a ∧
    fld (a ++ b ++ c ++ d ++ e ++ f ++ g) 19 6 = b ∧
    fld (a ++ b ++ c ++ d ++ e ++ f ++ g) 13 6 = c ∧
    fld (a ++ b ++ c ++ d ++ e ++ f ++ g) 10 3 = d ∧
    fld (a ++ b ++ c ++ d ++ e ++ f ++ g) 7 3 = e ∧
    fld (a ++ b ++ c ++ d ++ e ++ f ++ g) 4 3 = f ∧
    fld (a ++ b ++ c ++ d ++ e ++ f ++ g) 0 4 = g := by
  show BitVec.extractLsb' 25 7 (a ++ b ++ c ++ d ++ e ++ f ++ g) = a ∧
    BitVec.extractLsb' 19 6 (a ++ b ++ c ++ d ++ e ++ f ++ g) = b ∧
    BitVec.extractLsb' 13 6 (a ++ b ++ c ++ d ++ e ++ f ++ g) = c ∧
    BitVec.extractLsb' 10 3 (a ++ b ++ c ++ d ++ e ++ f ++ g) = d ∧
    BitVec.extractLsb' 7 3 (a ++ b ++ c ++ d ++ e ++ f ++ g) = e ∧
    BitVec.extractLsb' 4 3 (a ++ b ++ c ++ d ++ e ++ f ++ g) = f ∧
    BitVec.extractLsb' 0 4 (a ++ b ++ c ++ d ++ e ++ f ++ g) = g
  simp (disch := decide) only [BitVec.extractLsb'_append_eq_of_le, BitVec.extractLsb'_append_eq_of_add_le, BitVec.extractLsb'_eq_self, Nat.reduceSub, and_self]

theorem parts_7_6_6_6_3_4 (a : BitVec 7) (b : BitVec 6) (c : BitVec 6) (d : BitVec 6) (e : BitVec 3) (f : BitVec 4) :
    fld (a ++ b ++ c ++ d ++ e ++ f) 25 7 = a ∧
    fld (a ++ b ++ c ++ d ++ e ++ f) 19 6 = b ∧
    fld (a ++ b ++ c ++ d ++ e ++ f) 13 6 = c ∧
    fld (a ++ b ++ c ++ d ++ e ++ f) 7 6 = d ∧
    fld (a ++ b ++ c ++ d ++ e ++ f) 4 3 = e ∧
    fld (a ++ b ++ c ++ d ++ e ++ f) 0 4 = f := by
  show BitVec.extractLsb' 25 7 (a ++ b ++ c ++ d ++ e ++ f) = a ∧
    BitVec.extractLsb' 19 6 (a ++ b ++ c ++ d ++ e ++ f) = b ∧
    BitVec.extractLsb' 13 6 (a ++ b ++ c ++ d ++ e ++ f) = c ∧
    BitVec.extractLsb' 7 6 (a ++ b ++ c ++ d ++ e ++ f) = d ∧
    BitVec.extractLsb' 4 3 (a ++ b ++ c ++ d ++ e ++ f) = e ∧
    BitVec.extractLsb' 0 4 (a ++ b ++ c ++ d ++ e ++ f) = f
  simp (disch := decide) only [BitVec.extractLsb'_append_eq_of_le, BitVec.extractLsb'_append_eq_of_add_le, BitVec.extractLsb'_eq_self, Nat.reduceSub, and_self]

theorem parts_7_6_6_9_4 (a : BitVec 7) (b : BitVec 6) (c : BitVec 6) (d : BitVec 9) (e : BitVec 4) :
    fld (a ++ b ++ c ++ d ++ e) 25 7 = a ∧
    fld (a ++ b ++ c ++ d ++ e) 19 6 = b ∧
    fld (a ++ b ++ c ++ d ++ e) 13 6 = c ∧
    fld (a ++ b ++ c ++ d ++ e) 4 9 = d ∧
    fld (a ++ b ++ c ++ d ++ e) 0 4 = e := by
  show BitVec.extractLsb' 25 7 (a ++ b ++ c ++ d ++ e) = a ∧
    BitVec.extractLsb' 19 6 (a ++ b ++ c ++ d ++ e) = b ∧
    BitVec.extractLsb' 13 6 (a ++ b ++ c ++ d ++ e) = c ∧
    BitVec.extractLsb' 4 9 (a ++ b ++ c ++ d ++ e) = d ∧
    BitVec.extractLsb' 0 4 (a ++ b ++ c ++ d ++ e) = e
  simp (disch := decide) only [BitVec.extractLsb'_append_eq_of_le, BitVec.extractLsb'_append_eq_of_add_le, BitVec.extractLsb'_eq_self, Nat.reduceSub, and_self]

theorem parts_7_6_15_4 (a : BitVec 7) (b : BitVec 6) (c : BitVec 15) (d : BitVec 4) :
    fld (a ++ b ++ c ++ d) 25 7 = a ∧
    fld (a ++ b ++ c ++ d) 19 6 = b ∧
    fld (a ++ b ++ c ++ d) 4 15 = c ∧
    fld (a ++ b ++ c ++ d) 0 4 = d := by
  show BitVec.extractLsb' 25 7 (a ++ b ++ c ++ d) = a ∧
    BitVec.extractLsb' 19 6 (a ++ b ++ c ++ d) = b ∧
    BitVec.extractLsb' 4 15 (a ++ b ++ c ++ d) = c ∧
    BitVec.extractLsb' 0 4 (a ++ b ++ c ++ d) = d
  simp (disch := decide) only [BitVec.extractLsb'_append_eq_of_le, BitVec.extractLsb'_append_eq_of_add_le, BitVec.extractLsb'_eq_self, Nat.reduceSub, and_self]

theorem parts_7_6_19 (a : BitVec 7) (b : BitVec 6) (c : BitVec 19) :
    fld (a ++ b ++ c) 25 7 = a ∧
    fld (a ++ b ++ c) 19 6 = b ∧
    fld (a ++ b ++ c) 0 19 = c := by
  show BitVec.extractLsb' 25 7 (a ++ b ++ c) = a ∧
    BitVec.extractLsb' 19 6 (a ++ b ++ c) = b ∧
    BitVec.extractLsb' 0 19 (a ++ b ++ c) = c
  simp (disch := decide) only [BitVec.extractLsb'_append_eq_of_le, BitVec.extractLsb'_append_eq_of_add_le, BitVec.extractLsb'_eq_self, Nat.reduceSub, and_self]

theorem parts_7_9_12_4 (a : BitVec 7) (b : BitVec 9) (c : BitVec 12) (d : BitVec 4) :
    fld (a ++ b ++ c ++ d) 25 7 = a ∧
    fld (a ++ b ++ c ++ d) 16 9 = b ∧
    fld (a ++ b ++ c ++ d) 4 12 = c ∧
    fld (a ++ b ++ c ++ d) 0 4 = d := by
  show BitVec.extractLsb' 25 7 (a ++ b ++ c ++ d) = a ∧
    BitVec.extractLsb' 16 9 (a ++ b ++ c ++ d) = b ∧
    BitVec.extractLsb' 4 12 (a ++ b ++ c ++ d) = c ∧
    BitVec.extractLsb' 0 4 (a ++ b ++ c ++ d) = d
  simp (disch := decide) only [BitVec.extractLsb'_append_eq_of_le, BitVec.extractLsb'_append_eq_of_add_le, BitVec.extractLsb'_eq_self, Nat.reduceSub, and_self]

theorem parts_7_10_4_1_2_4_4 (a : BitVec 7) (b : BitVec 10) (c : BitVec 4) (d : BitVec 1) (e : BitVec 2) (f : BitVec 4) (g : BitVec 4) :
    fld (a ++ b ++ c ++ d ++ e ++ f ++ g) 25 7 = a ∧
    fld (a ++ b ++ c ++ d ++ e ++ f ++ g) 15 10 = b ∧
    fld (a ++ b ++ c ++ d ++ e ++ f ++ g) 11 4 = c ∧
    fld (a ++ b ++ c ++ d ++ e ++ f ++ g) 10 1 = d ∧
    fld (a ++ b ++ c ++ d ++ e ++ f ++ g) 8 2 = e ∧
    fld (a ++ b ++ c ++ d ++ e ++ f ++ g) 4 4 = f ∧
    fld (a ++ b ++ c ++ d ++ e ++ f ++ g) 0 4 = g := by
  show BitVec.extractLsb' 25 7 (a ++ b ++ c ++ d ++ e ++ f ++ g) = a ∧
    BitVec.extractLsb' 15 10 (a ++ b ++ c ++ d ++ e ++ f ++ g) = b ∧
    BitVec.extractLsb' 11 4 (a ++ b ++ c ++ d ++ e ++ f ++ g) = c ∧
    BitVec.extractLsb' 10 1 (a ++ b ++ c ++ d ++ e ++ f ++ g) = d ∧
    BitVec.extractLsb' 8 2 (a ++ b ++ c ++ d ++ e ++ f ++ g) = e ∧
    BitVec.extractLsb' 4 4 (a ++ b ++ c ++ d ++ e ++ f ++ g) = f ∧
    BitVec.extractLsb' 0 4 (a ++ b ++ c ++ d ++ e ++ f ++ g) = g
  simp (disch := decide) only [BitVec.extractLsb'_append_eq_of_le, BitVec.extractLsb'_append_eq_of_add_le, BitVec.extractLsb'_eq_self, Nat.reduceSub, and_self]

theorem parts_7_10_4_7_4 (a : BitVec 7) (b : BitVec 10) (c : BitVec 4) (d : BitVec 7) (e : BitVec 4) :
    fld (a ++ b ++ c ++ d ++ e) 25 7 = a ∧
    fld (a ++ b ++ c ++ d ++ e) 15 10 = b ∧
    fld (a ++ b ++ c ++ d ++ e) 11 4 = c ∧
    fld (a ++ b ++ c ++ d ++ e) 4 7 = d ∧
    fld (a ++ b ++ c ++ d ++ e) 0 4 = e := by
  show BitVec.extractLsb' 25 7 (a ++ b ++ c ++ d ++ e) = a ∧
    BitVec.extractLsb' 15 10 (a ++ b ++ c ++ d ++ e) = b ∧
    BitVec.extractLsb' 11 4 (a ++ b ++ c ++ d ++ e) = c ∧
    BitVec.extractLsb' 4 7 (a ++ b ++ c ++ d ++ e) = d ∧
    BitVec.extractLsb' 0 4 (a ++ b ++ c ++ d ++ e) = e
  simp (disch := decide) only [BitVec.extractLsb'_append_eq_of_le, BitVec.extractLsb'_append_eq_of_add_le, BitVec.extractLsb'_eq_self, Nat.reduceSub, and_self]

theorem parts_7_14_1_2_4_4 (a : BitVec 7) (b : BitVec 14) (c : BitVec 1) (d : BitVec 2) (e : BitVec 4) (f : BitVec 4) :
    fld (a ++ b ++ c ++ d ++ e ++ f) 25 7 = a ∧
    fld (a ++ b ++ c ++ d ++ e ++ f) 11 14 = b ∧
    fld (a ++ b ++ c ++ d ++ e ++ f) 10 1 = c ∧
    fld (a ++ b ++ c ++ d ++ e ++ f) 8 2 = d ∧
    fld (a ++ b ++ c ++ d ++ e ++ f) 4 4 = e ∧
    fld (a ++ b ++ c ++ d ++ e ++ f) 0 4 = f := by
  show BitVec.extractLsb' 25 7 (a ++ b ++ c ++ d ++ e ++ f) = a ∧
    BitVec.extractLsb' 11 14 (a ++ b ++ c ++ d ++ e ++ f) = b ∧
    BitVec.extractLsb' 10 1 (a ++ b ++ c ++ d ++ e ++ f) = c ∧
    BitVec.extractLsb' 8 2 (a ++ b ++ c ++ d ++ e ++ f) = d ∧
    BitVec.extractLsb' 4 4 (a ++ b ++ c ++ d ++ e ++ f) = e ∧
    BitVec.extractLsb' 0 4 (a ++ b ++ c ++ d ++ e ++ f) = f
  simp (disch := decide) only [BitVec.extractLsb'_append_eq_of_le, BitVec.extractLsb'_append_eq_of_add_le, BitVec.extractLsb'_eq_self, Nat.reduceSub, and_self]

theorem parts_7_15_4_2_4 (a : BitVec 7) (b : BitVec 15) (c : BitVec 4) (d : BitVec 2) (e : BitVec 4) :
    fld (a ++ b ++ c ++ d ++ e) 25 7 = a ∧
    fld (a ++ b ++ c ++ d ++ e) 10 15 = b ∧
    fld (a ++ b ++ c ++ d ++ e) 6 4 = c ∧
    fld (a ++ b ++ c ++ d ++ e) 4 2 = d ∧
    fld (a ++ b ++ c ++ d ++ e) 0 4 = e := by
  show BitVec.extractLsb' 25 7 (a ++ b ++ c ++ d ++ e) = a ∧
    BitVec.extractLsb' 10 15 (a ++ b ++ c ++ d ++ e) = b ∧
    BitVec.extractLsb' 6 4 (a ++ b ++ c ++ d ++ e) = c ∧
    BitVec.extractLsb' 4 2 (a ++ b ++ c ++ d ++ e) = d ∧
    BitVec.extractLsb' 0 4 (a ++ b ++ c ++ d ++ e) = e
  simp (disch := decide) only [BitVec.extractLsb'_append_eq_of_le, BitVec.extractLsb'_append_eq_of_add_le, BitVec.extractLsb'_eq_self, Nat.reduceSub, and_self]

theorem parts_7_16_5_4 (a : BitVec 7) (b : BitVec 16) (c : BitVec 5) (d : BitVec 4) :
    fld (a ++ b ++ c ++ d) 25 7 = a ∧
    fld (a ++ b ++ c ++ d) 9 16 = b ∧
    fld (a ++ b ++ c ++ d) 4 5 = c ∧
    fld (a ++ b ++ c ++ d) 0 4 = d := by
  show BitVec.extractLsb' 25 7 (a ++ b ++ c ++ d) = a ∧
    BitVec.extractLsb' 9 16 (a ++ b ++ c ++ d) = b ∧
    BitVec.extractLsb' 4 5 (a ++ b ++ c ++ d) = c ∧
    BitVec.extractLsb' 0 4 (a ++ b ++ c ++ d) = d
  simp (disch := decide) only [BitVec.extractLsb'_append_eq_of_le, BitVec.extractLsb'_append_eq_of_add_le, BitVec.extractLsb'_eq_self, Nat.reduceSub, and_self]

theorem parts_7_19_2_4 (a : BitVec 7) (b : BitVec 19) (c : BitVec 2) (d : BitVec 4) :
    fld (a ++ b ++ c ++ d) 25 7 = a ∧
    fld (a ++ b ++ c ++ d) 6 19 = b ∧
    fld (a ++ b ++ c ++ d) 4 2 = c ∧
    fld (a ++ b ++ c ++ d) 0 4 = d := by
  show BitVec.extractLsb' 25 7 (a ++ b ++ c ++ d) = a ∧
    BitVec.extractLsb' 6 19 (a ++ b ++ c ++ d) = b ∧
    BitVec.extractLsb' 4 2 (a ++ b ++ c ++ d) = c ∧
    BitVec.extractLsb' 0 4 (a ++ b ++ c ++ d) = d
  simp (disch := decide) only [BitVec.extractLsb'_append_eq_of_le, BitVec.extractLsb'_append_eq_of_add_le, BitVec.extractLsb'_eq_self, Nat.reduceSub, and_self]

theorem parts_7_21_4 (a : BitVec 7) (b : BitVec 21) (c : BitVec 4) :
    fld (a ++ b ++ c) 25 7 = a ∧
    fld (a ++ b ++ c) 4 21 = b ∧
    fld (a ++ b ++ c) 0 4 = c := by
  show BitVec.extractLsb' 25 7 (a ++ b ++ c) = a ∧
    BitVec.extractLsb' 4 21 (a ++ b ++ c) = b ∧
    BitVec.extractLsb' 0 4 (a ++ b ++ c) = c
  simp (disch := decide) only [BitVec.extractLsb'_append_eq_of_le, BitVec.extractLsb'_append_eq_of_add_le, BitVec.extractLsb'_eq_self, Nat.reduceSub, and_self]

theorem parts_7_25 (a : BitVec 7) (b : BitVec 25) :
    fld (a ++ b) 25 7 = a ∧
    fld (a ++ b) 0 25 = b := by
  show BitVec.extractLsb' 25 7 (a ++ b) = a ∧
    BitVec.extractLsb' 0 25 (a ++ b) = b
  simp (disch := decide) only [BitVec.extractLsb'_append_eq_of_le, BitVec.extractLsb'_append_eq_of_add_le, BitVec.extractLsb'_eq_self, Nat.reduceSub, and_self]

theorem parts_9_17_6 (a : BitVec 9) (b : BitVec 17) (c : BitVec 6) :
    fld (a ++ b ++ c) 23 9 = a ∧
    fld (a ++ b ++ c) 6 17 = b ∧
    fld (a ++ b ++ c) 0 6 = c := by
  show BitVec.extractLsb' 23 9 (a ++ b ++ c) = a ∧
    BitVec.extractLsb' 6 17 (a ++ b ++ c) = b ∧
    BitVec.extractLsb' 0 6 (a ++ b ++ c) = c
  simp (disch := decide) only [BitVec.extractLsb'_append_eq_of_le, BitVec.extractLsb'_append_eq_of_add_le, BitVec.extractLsb'_eq_self, Nat.reduceSub, and_self]

theorem parts_28_4 (a : BitVec 28) (b : BitVec 4) :
    fld (a ++ b) 4 28 = a ∧
    fld (a ++ b) 0 4 = b := by
  show BitVec.extractLsb' 4 28 (a ++ b) = a ∧
    BitVec.extractLsb' 0 4 (a ++ b) = b
  simp (disch := decide) only [BitVec.extractLsb'_append_eq_of_le, BitVec.extractLsb'_append_eq_of_add_le, BitVec.extractLsb'_eq_self, Nat.reduceSub, and_self]

theorem noMap {m : Map} {p : Prop} (h : none = some m) : p := by cases h

/-! ### The arm of each opcode -/

theorem opA_00 (w x : W32) (h : fld w 25 7 = 0x00#7) : decodeA w x =
    need (fld w 4 6 == 0) (.add (fld w 20 5) (fld w 15 5) (fld w 10 5) (fld w 0 4)) := by unfold decodeA; rw [h]; rfl
theorem opA_01 (w x : W32) (h : fld w 25 7 = 0x01#7) : decodeA w x =
    need (fld w 4 6 == 0) (.sub (fld w 20 5) (fld w 15 5) (fld w 10 5) (fld w 0 4)) := by unfold decodeA; rw [h]; rfl
theorem opA_02 (w x : W32) (h : fld w 25 7 = 0x02#7) : decodeA w x =
    need (fld w 4 6 == 0) (.mul (fld w 20 5) (fld w 15 5) (fld w 10 5) (fld w 0 4)) := by unfold decodeA; rw [h]; rfl
theorem opA_03 (w x : W32) (h : fld w 25 7 = 0x03#7) : decodeA w x =
    need (fld w 4 6 == 0) (.mulh (fld w 20 5) (fld w 15 5) (fld w 10 5) (fld w 0 4)) := by unfold decodeA; rw [h]; rfl
theorem opA_04 (w x : W32) (h : fld w 25 7 = 0x04#7) : decodeA w x =
    need (fld w 4 2 == 0) (.div (fld w 20 5) (fld w 15 5) (fld w 10 5) (fld w 6 4) (fld w 0 4)) := by unfold decodeA; rw [h]; rfl
theorem opA_05 (w x : W32) (h : fld w 25 7 = 0x05#7) : decodeA w x =
    need (fld w 4 2 == 0) (.divu (fld w 20 5) (fld w 15 5) (fld w 10 5) (fld w 6 4) (fld w 0 4)) := by unfold decodeA; rw [h]; rfl
theorem opA_06 (w x : W32) (h : fld w 25 7 = 0x06#7) : decodeA w x =
    need (fld w 4 2 == 0) (.rem (fld w 20 5) (fld w 15 5) (fld w 10 5) (fld w 6 4) (fld w 0 4)) := by unfold decodeA; rw [h]; rfl
theorem opA_07 (w x : W32) (h : fld w 25 7 = 0x07#7) : decodeA w x =
    need (fld w 4 2 == 0) (.remu (fld w 20 5) (fld w 15 5) (fld w 10 5) (fld w 6 4) (fld w 0 4)) := by unfold decodeA; rw [h]; rfl
theorem opA_08 (w x : W32) (h : fld w 25 7 = 0x08#7) : decodeA w x =
    need (fld w 4 6 == 0) (.and (fld w 20 5) (fld w 15 5) (fld w 10 5) (fld w 0 4)) := by unfold decodeA; rw [h]; rfl
theorem opA_09 (w x : W32) (h : fld w 25 7 = 0x09#7) : decodeA w x =
    need (fld w 4 6 == 0) (.or (fld w 20 5) (fld w 15 5) (fld w 10 5) (fld w 0 4)) := by unfold decodeA; rw [h]; rfl
theorem opA_0a (w x : W32) (h : fld w 25 7 = 0x0a#7) : decodeA w x =
    need (fld w 4 6 == 0) (.xor (fld w 20 5) (fld w 15 5) (fld w 10 5) (fld w 0 4)) := by unfold decodeA; rw [h]; rfl
theorem opA_0b (w x : W32) (h : fld w 25 7 = 0x0b#7) : decodeA w x =
    need (fld w 4 6 == 0) (.shl (fld w 20 5) (fld w 15 5) (fld w 10 5) (fld w 0 4)) := by unfold decodeA; rw [h]; rfl
theorem opA_0c (w x : W32) (h : fld w 25 7 = 0x0c#7) : decodeA w x =
    need (fld w 4 6 == 0) (.shr (fld w 20 5) (fld w 15 5) (fld w 10 5) (fld w 0 4)) := by unfold decodeA; rw [h]; rfl
theorem opA_0d (w x : W32) (h : fld w 25 7 = 0x0d#7) : decodeA w x =
    need (fld w 4 6 == 0) (.sra (fld w 20 5) (fld w 15 5) (fld w 10 5) (fld w 0 4)) := by unfold decodeA; rw [h]; rfl
theorem opA_0e (w x : W32) (h : fld w 25 7 = 0x0e#7) : decodeA w x =
    need (fld w 4 6 == 0) (.min (fld w 20 5) (fld w 15 5) (fld w 10 5) (fld w 0 4)) := by unfold decodeA; rw [h]; rfl
theorem opA_0f (w x : W32) (h : fld w 25 7 = 0x0f#7) : decodeA w x =
    need (fld w 4 6 == 0) (.max (fld w 20 5) (fld w 15 5) (fld w 10 5) (fld w 0 4)) := by unfold decodeA; rw [h]; rfl
theorem opA_10 (w x : W32) (h : fld w 25 7 = 0x10#7) : decodeA w x =
    need (fld w 4 6 == 0) (.minu (fld w 20 5) (fld w 15 5) (fld w 10 5) (fld w 0 4)) := by unfold decodeA; rw [h]; rfl
theorem opA_11 (w x : W32) (h : fld w 25 7 = 0x11#7) : decodeA w x =
    need (fld w 4 6 == 0) (.maxu (fld w 20 5) (fld w 15 5) (fld w 10 5) (fld w 0 4)) := by unfold decodeA; rw [h]; rfl
theorem opA_12 (w x : W32) (h : fld w 25 7 = 0x12#7) : decodeA w x =
    need (fld w 4 6 == 0) (.slt (fld w 20 5) (fld w 15 5) (fld w 10 5) (fld w 0 4)) := by unfold decodeA; rw [h]; rfl
theorem opA_13 (w x : W32) (h : fld w 25 7 = 0x13#7) : decodeA w x =
    need (fld w 4 6 == 0) (.sltu (fld w 20 5) (fld w 15 5) (fld w 10 5) (fld w 0 4)) := by unfold decodeA; rw [h]; rfl
theorem opA_14 (w x : W32) (h : fld w 25 7 = 0x14#7) : decodeA w x =
    need (fld w 4 6 == 0) (.sel (fld w 20 5) (fld w 15 5) (fld w 10 5) (fld w 0 4)) := by unfold decodeA; rw [h]; rfl
theorem opA_15 (w x : W32) (h : fld w 25 7 = 0x15#7) : decodeA w x =
    pick (fld w 10 5 == 0 && fld w 6 4 == 0) (fld w 4 2) (.clz (fld w 20 5) (fld w 15 5) (fld w 0 4)) (.popc (fld w 20 5) (fld w 15 5) (fld w 0 4)) := by unfold decodeA; rw [h]; rfl
theorem opA_16 (w x : W32) (h : fld w 25 7 = 0x16#7) : decodeA w x =
    .ok (.addi (fld w 20 5) (fld w 15 5) (fld w 4 11) (fld w 0 4)) := by unfold decodeA; rw [h]; rfl
theorem opA_17 (w x : W32) (h : fld w 25 7 = 0x17#7) : decodeA w x =
    .ok (.andi (fld w 20 5) (fld w 15 5) (fld w 4 11) (fld w 0 4)) := by unfold decodeA; rw [h]; rfl
theorem opA_18 (w x : W32) (h : fld w 25 7 = 0x18#7) : decodeA w x =
    .ok (.ori (fld w 20 5) (fld w 15 5) (fld w 4 11) (fld w 0 4)) := by unfold decodeA; rw [h]; rfl
theorem opA_19 (w x : W32) (h : fld w 25 7 = 0x19#7) : decodeA w x =
    .ok (.xori (fld w 20 5) (fld w 15 5) (fld w 4 11) (fld w 0 4)) := by unfold decodeA; rw [h]; rfl
theorem opA_1a (w x : W32) (h : fld w 25 7 = 0x1a#7) : decodeA w x =
    .ok (.shli (fld w 20 5) (fld w 15 5) (fld w 4 11) (fld w 0 4)) := by unfold decodeA; rw [h]; rfl
theorem opA_1b (w x : W32) (h : fld w 25 7 = 0x1b#7) : decodeA w x =
    .ok (.shri (fld w 20 5) (fld w 15 5) (fld w 4 11) (fld w 0 4)) := by unfold decodeA; rw [h]; rfl
theorem opA_1c (w x : W32) (h : fld w 25 7 = 0x1c#7) : decodeA w x =
    .ok (.srai (fld w 20 5) (fld w 15 5) (fld w 4 11) (fld w 0 4)) := by unfold decodeA; rw [h]; rfl
theorem opA_1d (w x : W32) (h : fld w 25 7 = 0x1d#7) : decodeA w x =
    .ok (.slti (fld w 20 5) (fld w 15 5) (fld w 4 11) (fld w 0 4)) := by unfold decodeA; rw [h]; rfl
theorem opA_1e (w x : W32) (h : fld w 25 7 = 0x1e#7) : decodeA w x =
    .ok (.lui (fld w 20 5) (fld w 4 16) (fld w 0 4)) := by unfold decodeA; rw [h]; rfl
theorem opA_1f (w x : W32) (h : fld w 25 7 = 0x1f#7) : decodeA w x =
    need (fld w 4 16 == 0) (.lix (fld w 20 5) x (fld w 0 4)) := by unfold decodeA; rw [h]; rfl
theorem opA_20 (w x : W32) (h : fld w 25 7 = 0x20#7) : decodeA w x =
    need (fld w 20 2 == 0 && fld w 4 6 == 0 && fld x 0 4 == 0) (.br (fld w 22 3) (fld w 15 5) (fld w 10 5) (fld x 4 28) (fld w 0 4)) := by unfold decodeA; rw [h]; rfl
theorem opA_21 (w x : W32) (h : fld w 25 7 = 0x21#7) : decodeA w x =
    need (fld w 4 21 == 0 && fld x 0 4 == 0) (.jmp (fld x 4 28) (fld w 0 4)) := by unfold decodeA; rw [h]; rfl
theorem opA_22 (w x : W32) (h : fld w 25 7 = 0x22#7) : decodeA w x =
    need (fld w 4 21 == 0 && fld x 0 4 == 0) (.call (fld x 4 28) (fld w 0 4)) := by unfold decodeA; rw [h]; rfl
theorem opA_23 (w x : W32) (h : fld w 25 7 = 0x23#7) : decodeA w x =
    need (fld w 4 21 == 0) (.ret (fld w 0 4)) := by unfold decodeA; rw [h]; rfl
theorem opA_24 (w x : W32) (h : fld w 25 7 = 0x24#7) : decodeA w x =
    need (fld w 20 2 == 0 && fld w 4 11 == 0 && fld x 0 4 == 0) (.loop (fld w 22 3) (fld w 15 5) (fld x 4 28) (fld w 0 4)) := by unfold decodeA; rw [h]; rfl
theorem opA_25 (w x : W32) (h : fld w 25 7 = 0x25#7) : decodeA w x =
    need (fld w 20 5 == 0) (.brk (fld w 4 16) (fld w 0 4)) := by unfold decodeA; rw [h]; rfl
theorem opA_26 (w x : W32) (h : fld w 25 7 = 0x26#7) : decodeA w x =
    need (fld w 20 5 == 0 && fld w 4 11 == 0) (.cqp (fld w 15 5) (fld w 0 4)) := by unfold decodeA; rw [h]; rfl
theorem opA_27 (w x : W32) (h : fld w 25 7 = 0x27#7) : decodeA w x =
    need (fld w 4 21 == 0) (.endA (fld w 0 4)) := by unfold decodeA; rw [h]; rfl
theorem opA_28 (w x : W32) (h : fld w 25 7 = 0x28#7) : decodeA w x =
    need (fld w 4 21 == 0) (.nopA (fld w 0 4)) := by unfold decodeA; rw [h]; rfl
theorem opA_30 (w x : W32) (h : fld w 25 7 = 0x30#7) : decodeA w x =
    .ok (.ld (fld w 20 5) (fld w 15 5) (fld w 13 2) (fld w 12 1) (fld w 10 2) (fld w 6 4) (fld w 4 2) (fld w 0 4)) := by unfold decodeA; rw [h]; rfl
theorem opA_31 (w x : W32) (h : fld w 25 7 = 0x31#7) : decodeA w x =
    need (fld w 12 1 == 0) (.st (fld w 20 5) (fld w 15 5) (fld w 13 2) (fld w 10 2) (fld w 6 4) (fld w 4 2) (fld w 0 4)) := by unfold decodeA; rw [h]; rfl
theorem opA_32 (w x : W32) (h : fld w 25 7 = 0x32#7) : decodeA w x =
    need (fld w 4 8 == 0) (.ldl (fld w 20 5) (fld w 15 5) (fld w 13 2) (fld w 12 1) (fld w 0 4)) := by unfold decodeA; rw [h]; rfl
theorem opA_33 (w x : W32) (h : fld w 25 7 = 0x33#7) : decodeA w x =
    need (fld w 4 9 == 0) (.stl (fld w 20 5) (fld w 15 5) (fld w 13 2) (fld w 0 4)) := by unfold decodeA; rw [h]; rfl
theorem opA_34 (w x : W32) (h : fld w 25 7 = 0x34#7) : decodeA w x =
    need (fld w 10 3 == 0 && fld w 4 2 == 0) (.ldt (fld w 19 6) (fld w 14 5) (fld w 13 1) (fld w 6 4) (fld w 0 4)) := by unfold decodeA; rw [h]; rfl
theorem opA_35 (w x : W32) (h : fld w 25 7 = 0x35#7) : decodeA w x =
    need (fld w 10 3 == 0 && fld w 4 2 == 0) (.stt (fld w 19 6) (fld w 14 5) (fld w 13 1) (fld w 6 4) (fld w 0 4)) := by unfold decodeA; rw [h]; rfl
theorem opA_36 (w x : W32) (h : fld w 25 7 = 0x36#7) : decodeA w x =
    need (fld w 19 6 == 0 && fld w 10 4 == 0 && fld w 4 2 == 0) (.pft (fld w 14 5) (fld w 6 4) (fld w 0 4)) := by unfold decodeA; rw [h]; rfl
theorem opA_37 (w x : W32) (h : fld w 25 7 = 0x37#7) : decodeA w x =
    need (fld w 4 21 == 0) (.align (fld w 0 4)) := by unfold decodeA; rw [h]; rfl
theorem opA_38 (w x : W32) (h : fld w 25 7 = 0x38#7) : decodeA w x =
    need (fld w 6 19 == 0) (.fence (fld w 4 2) (fld w 0 4)) := by unfold decodeA; rw [h]; rfl
theorem opA_39 (w x : W32) (h : fld w 25 7 = 0x39#7) : decodeA w x =
    need (fld w 10 15 == 0) (.drnt (fld w 6 4) (fld w 4 2) (fld w 0 4)) := by unfold decodeA; rw [h]; rfl
theorem opA_3a (w x : W32) (h : fld w 25 7 = 0x3a#7) : decodeA w x =
    .ok (.waita (fld w 20 5) (fld w 15 5) (fld w 10 5) (fld w 6 4) (fld w 4 2) (fld w 0 4)) := by unfold decodeA; rw [h]; rfl
theorem opA_3b (w x : W32) (h : fld w 25 7 = 0x3b#7) : decodeA w x =
    .ok (.amem (fld w 20 5) (fld w 15 5) (fld w 10 5) (fld w 6 4) (fld w 4 2) (fld w 0 4)) := by unfold decodeA; rw [h]; rfl
theorem opA_48 (w x : W32) (h : fld w 25 7 = 0x48#7) : decodeA w x =
    need (fld w 4 2 == 0 && fld x 0 22 == 0) (.aat (fld w 20 5) (fld w 15 5) (fld w 10 5) (fld w 6 4) (fld x 27 5) (fld x 24 3) (fld x 23 1) (fld x 22 1) (fld w 0 4)) := by unfold decodeA; rw [h]; rfl
theorem opA_49 (w x : W32) (h : fld w 25 7 = 0x49#7) : decodeA w x =
    need (fld w 10 10 == 0 && fld w 4 2 == 0) (.ssync (fld w 20 5) (fld w 6 4) (fld w 0 4)) := by unfold decodeA; rw [h]; rfl
theorem opA_58 (w x : W32) (h : fld w 25 7 = 0x58#7) : decodeA w x =
    .ok (.mnest (fld w 20 5) (fld w 15 5) (tokOf w) (fld w 4 4) (fld w 0 4)) := by unfold decodeA; rw [h]; rfl
theorem opA_59 (w x : W32) (h : fld w 25 7 = 0x59#7) : decodeA w x =
    .ok (.mfmt (fld w 20 5) (fld w 15 5) (tokOf w) (fld w 4 4) (fld w 0 4)) := by unfold decodeA; rw [h]; rfl
theorem opA_5a (w x : W32) (h : fld w 25 7 = 0x5a#7) : decodeA w x =
    need (fld w 15 10 == 0) (.mgo (tokOf w) (fld w 4 4) (fld w 0 4)) := by unfold decodeA; rw [h]; rfl
theorem opA_5b (w x : W32) (h : fld w 25 7 = 0x5b#7) : decodeA w x =
    need (fld w 15 5 == 0) (.mwing (fld w 20 5) (tokOf w) (fld w 4 4) (fld w 0 4)) := by unfold decodeA; rw [h]; rfl
theorem opA_5c (w x : W32) (h : fld w 25 7 = 0x5c#7) : decodeA w x =
    .ok (.mdrn (fld w 20 5) (fld w 15 5) (tokOf w) (fld w 4 4) (fld w 0 4)) := by unfold decodeA; rw [h]; rfl
theorem opA_5d (w x : W32) (h : fld w 25 7 = 0x5d#7) : decodeA w x =
    .ok (.dstart (fld w 20 5) (fld w 15 5) (tokOf w) (fld w 4 4) (fld w 0 4)) := by unfold decodeA; rw [h]; rfl
theorem opA_5e (w x : W32) (h : fld w 25 7 = 0x5e#7) : decodeA w x =
    need (fld w 15 5 == 0) (.dlook (fld w 20 5) (tokOf w) (fld w 4 4) (fld w 0 4)) := by unfold decodeA; rw [h]; rfl
theorem opA_5f (w x : W32) (h : fld w 25 7 = 0x5f#7) : decodeA w x =
    .ok (.dfeed (fld w 20 5) (fld w 15 5) (tokOf w) (fld w 4 4) (fld w 0 4)) := by unfold decodeA; rw [h]; rfl
theorem opA_60 (w x : W32) (h : fld w 25 7 = 0x60#7) : decodeA w x =
    need (fld w 15 5 == 0) (.ddrn (fld w 20 5) (tokOf w) (fld w 4 4) (fld w 0 4)) := by unfold decodeA; rw [h]; rfl
theorem opA_61 (w x : W32) (h : fld w 25 7 = 0x61#7) : decodeA w x =
    need (fld w 15 10 == 0) (.dend (tokOf w) (fld w 4 4) (fld w 0 4)) := by unfold decodeA; rw [h]; rfl
theorem opA_63 (w x : W32) (h : fld w 25 7 = 0x63#7) : decodeA w x =
    need (fld x 23 9 == 0 && fld x 0 6 == 0) (.cpy (fld w 20 5) (fld w 15 5) (tokOf w) (fld w 4 4) (fld x 6 17) (fld w 0 4)) := by unfold decodeA; rw [h]; rfl
theorem opA_64 (w x : W32) (h : fld w 25 7 = 0x64#7) : decodeA w x =
    need (fld w 15 10 == 0) (.cpyq (tokOf w) (fld w 4 4) (fld w 0 4)) := by unfold decodeA; rw [h]; rfl
theorem opA_67 (w x : W32) (h : fld w 25 7 = 0x67#7) : decodeA w x =
    .ok (.psend (fld w 20 5) (fld w 15 5) (tokOf w) (fld w 4 4) (fld w 0 4)) := by unfold decodeA; rw [h]; rfl
theorem opA_68 (w x : W32) (h : fld w 25 7 = 0x68#7) : decodeA w x =
    .ok (.precv (fld w 20 5) (fld w 15 5) (tokOf w) (fld w 4 4) (fld w 0 4)) := by unfold decodeA; rw [h]; rfl
theorem opA_69 (w x : W32) (h : fld w 25 7 = 0x69#7) : decodeA w x =
    .ok (.coll (fld w 20 5) (fld w 15 5) (tokOf w) (fld w 4 4) (fld w 0 4)) := by unfold decodeA; rw [h]; rfl
theorem opA_62 (w x : W32) (h : fld w 25 7 = 0x62#7) : decodeA w x =
    need (fld w 4 21 == 0) (.dret (fld w 0 4)) := by unfold decodeA; rw [h]; rfl
theorem opA_65 (w x : W32) (h : fld w 25 7 = 0x65#7) : decodeA w x =
    need (fld w 11 14 == 0 && fld w 4 4 == 0 && fld w 10 1 == 1) (.toksA (fld w 8 2) (fld w 0 4)) := by unfold decodeA; rw [h]; rfl
theorem opA_66 (w x : W32) (h : fld w 25 7 = 0x66#7) : decodeA w x =
    need (fld w 15 10 == 0 && fld w 4 7 == 0) (.tokwA (fld w 11 4) (fld w 0 4)) := by unfold decodeA; rw [h]; rfl
theorem opA_6a (w x : W32) (h : fld w 25 7 = 0x6a#7) : decodeA w x =
    need (fld w 20 5 == 0 && fld w 10 5 == 0 && fld w 4 2 == 0) (.collw (fld w 15 5) (fld w 6 4) (fld w 0 4)) := by unfold decodeA; rw [h]; rfl
theorem opA_70 (w x : W32) (h : fld w 25 7 = 0x70#7) : decodeA w x =
    .ok (.crd (fld w 20 5) (fld w 15 5) (fld w 4 11) (fld w 0 4)) := by unfold decodeA; rw [h]; rfl
theorem opA_71 (w x : W32) (h : fld w 25 7 = 0x71#7) : decodeA w x =
    .ok (.cwr (fld w 20 5) (fld w 15 5) (fld w 4 11) (fld w 0 4)) := by unfold decodeA; rw [h]; rfl
theorem opA_72 (w x : W32) (h : fld w 25 7 = 0x72#7) : decodeA w x =
    .ok (.cmw (fld w 20 5) (fld w 15 5) (fld w 4 11) (fld w 0 4)) := by unfold decodeA; rw [h]; rfl
theorem opA_73 (w x : W32) (h : fld w 25 7 = 0x73#7) : decodeA w x =
    .ok (.cxc (fld w 20 5) (fld w 15 5) (fld w 4 11) (fld w 0 4)) := by unfold decodeA; rw [h]; rfl
theorem opA_74 (w x : W32) (h : fld w 25 7 = 0x74#7) : decodeA w x =
    need (fld w 20 5 == 0) (.trap (fld w 4 16) (fld w 0 4)) := by unfold decodeA; rw [h]; rfl
theorem opA_75 (w x : W32) (h : fld w 25 7 = 0x75#7) : decodeA w x =
    need (fld w 4 21 == 0) (.eret (fld w 0 4)) := by unfold decodeA; rw [h]; rfl
theorem opA_76 (w x : W32) (h : fld w 25 7 = 0x76#7) : decodeA w x =
    need (fld w 4 21 == 0) (.yieldA (fld w 0 4)) := by unfold decodeA; rw [h]; rfl
theorem opA_77 (w x : W32) (h : fld w 25 7 = 0x77#7) : decodeA w x =
    need (fld w 20 5 == 0) (.rpush (fld w 4 16) (fld w 0 4)) := by unfold decodeA; rw [h]; rfl
theorem opA_78 (w x : W32) (h : fld w 25 7 = 0x78#7) : decodeA w x =
    need (fld w 4 21 == 0) (.rpop (fld w 0 4)) := by unfold decodeA; rw [h]; rfl
theorem opA_79 (w x : W32) (h : fld w 25 7 = 0x79#7) : decodeA w x =
    need (fld w 20 5 == 0 && fld w 4 2 == 0) (.tinv (fld w 15 5) (fld w 10 5) (fld w 6 4) (fld w 0 4)) := by unfold decodeA; rw [h]; rfl
theorem opA_7a (w x : W32) (h : fld w 25 7 = 0x7a#7) : decodeA w x =
    need (fld w 20 5 == 0 && fld w 4 2 == 0) (.frel (fld w 15 5) (fld w 10 5) (fld w 6 4) (fld w 0 4)) := by unfold decodeA; rw [h]; rfl
theorem opA_7b (w x : W32) (h : fld w 25 7 = 0x7b#7) : decodeA w x =
    need (fld w 4 2 == 0) (.scnstop (fld w 20 5) (fld w 15 5) (fld w 10 5) (fld w 6 4) (fld w 0 4)) := by unfold decodeA; rw [h]; rfl
theorem opA_7c (w x : W32) (h : fld w 25 7 = 0x7c#7) : decodeA w x =
    need (fld w 4 2 == 0) (.scnrun (fld w 20 5) (fld w 15 5) (fld w 10 5) (fld w 6 4) (fld w 0 4)) := by unfold decodeA; rw [h]; rfl
theorem opA_7d (w x : W32) (h : fld w 25 7 = 0x7d#7) : decodeA w x =
    pick (fld w 10 5 == 0) (fld w 4 2) (.scnout (fld w 20 5) (fld w 15 5) (fld w 6 4) (fld w 0 4)) (.scnin (fld w 20 5) (fld w 15 5) (fld w 6 4) (fld w 0 4)) := by unfold decodeA; rw [h]; rfl
theorem opA_7e (w x : W32) (h : fld w 25 7 = 0x7e#7) : decodeA w x =
    .ok (.hint (fld w 0 25)) := by unfold decodeA; rw [h]; rfl
theorem opA_7f (w x : W32) (h : fld w 25 7 = 0x7f#7) : decodeA w x =
    need (fld w 4 2 == 0) (.scnq (fld w 20 5) (fld w 15 5) (fld w 10 5) (fld w 6 4) (fld w 0 4)) := by unfold decodeA; rw [h]; rfl
theorem opX_00 (w x : W32) (h : fld w 25 7 = 0x00#7) : decodeX w x =
    .ok (.vadd (fld w 19 6) (fld w 13 6) (fld w 7 6) (fld w 4 3) (fld w 0 4)) := by unfold decodeX; rw [h]; rfl
theorem opX_01 (w x : W32) (h : fld w 25 7 = 0x01#7) : decodeX w x =
    .ok (.vsub (fld w 19 6) (fld w 13 6) (fld w 7 6) (fld w 4 3) (fld w 0 4)) := by unfold decodeX; rw [h]; rfl
theorem opX_02 (w x : W32) (h : fld w 25 7 = 0x02#7) : decodeX w x =
    .ok (.vmul (fld w 19 6) (fld w 13 6) (fld w 7 6) (fld w 4 3) (fld w 0 4)) := by unfold decodeX; rw [h]; rfl
theorem opX_03 (w x : W32) (h : fld w 25 7 = 0x03#7) : decodeX w x =
    .ok (.vfma (fld w 19 6) (fld w 13 6) (fld w 7 6) (fld w 4 3) (fld w 0 4)) := by unfold decodeX; rw [h]; rfl
theorem opX_04 (w x : W32) (h : fld w 25 7 = 0x04#7) : decodeX w x =
    .ok (.vfms (fld w 19 6) (fld w 13 6) (fld w 7 6) (fld w 4 3) (fld w 0 4)) := by unfold decodeX; rw [h]; rfl
theorem opX_05 (w x : W32) (h : fld w 25 7 = 0x05#7) : decodeX w x =
    .ok (.vmin (fld w 19 6) (fld w 13 6) (fld w 7 6) (fld w 4 3) (fld w 0 4)) := by unfold decodeX; rw [h]; rfl
theorem opX_06 (w x : W32) (h : fld w 25 7 = 0x06#7) : decodeX w x =
    .ok (.vmax (fld w 19 6) (fld w 13 6) (fld w 7 6) (fld w 4 3) (fld w 0 4)) := by unfold decodeX; rw [h]; rfl
theorem opX_07 (w x : W32) (h : fld w 25 7 = 0x07#7) : decodeX w x =
    need (fld w 7 6 == 0) (.vabs (fld w 19 6) (fld w 13 6) (fld w 4 3) (fld w 0 4)) := by unfold decodeX; rw [h]; rfl
theorem opX_08 (w x : W32) (h : fld w 25 7 = 0x08#7) : decodeX w x =
    need (fld w 7 6 == 0) (.vneg (fld w 19 6) (fld w 13 6) (fld w 4 3) (fld w 0 4)) := by unfold decodeX; rw [h]; rfl
theorem opX_09 (w x : W32) (h : fld w 25 7 = 0x09#7) : decodeX w x =
    need (fld w 4 3 == 0) (.vand (fld w 19 6) (fld w 13 6) (fld w 7 6) (fld w 0 4)) := by unfold decodeX; rw [h]; rfl
theorem opX_0a (w x : W32) (h : fld w 25 7 = 0x0a#7) : decodeX w x =
    need (fld w 4 3 == 0) (.vor (fld w 19 6) (fld w 13 6) (fld w 7 6) (fld w 0 4)) := by unfold decodeX; rw [h]; rfl
theorem opX_0b (w x : W32) (h : fld w 25 7 = 0x0b#7) : decodeX w x =
    need (fld w 4 3 == 0) (.vxor (fld w 19 6) (fld w 13 6) (fld w 7 6) (fld w 0 4)) := by unfold decodeX; rw [h]; rfl
theorem opX_0c (w x : W32) (h : fld w 25 7 = 0x0c#7) : decodeX w x =
    need (fld w 4 9 == 0) (.vnot (fld w 19 6) (fld w 13 6) (fld w 0 4)) := by unfold decodeX; rw [h]; rfl
theorem opX_0d (w x : W32) (h : fld w 25 7 = 0x0d#7) : decodeX w x =
    .ok (.vshl (fld w 19 6) (fld w 13 6) (fld w 7 6) (fld w 4 3) (fld w 0 4)) := by unfold decodeX; rw [h]; rfl
theorem opX_0e (w x : W32) (h : fld w 25 7 = 0x0e#7) : decodeX w x =
    .ok (.vshr (fld w 19 6) (fld w 13 6) (fld w 7 6) (fld w 4 3) (fld w 0 4)) := by unfold decodeX; rw [h]; rfl
theorem opX_0f (w x : W32) (h : fld w 25 7 = 0x0f#7) : decodeX w x =
    .ok (.vsra (fld w 19 6) (fld w 13 6) (fld w 7 6) (fld w 4 3) (fld w 0 4)) := by unfold decodeX; rw [h]; rfl
theorem opX_10 (w x : W32) (h : fld w 25 7 = 0x10#7) : decodeX w x =
    .ok (.vcmp (fld w 22 3) (fld w 19 3) (fld w 13 6) (fld w 7 6) (fld w 4 3) (fld w 0 4)) := by unfold decodeX; rw [h]; rfl
theorem opX_11 (w x : W32) (h : fld w 25 7 = 0x11#7) : decodeX w x =
    need (fld w 7 3 == 0) (.vsel (fld w 19 6) (fld w 13 6) (fld w 10 3) (fld w 4 3) (fld w 0 4)) := by unfold decodeX; rw [h]; rfl
theorem opX_18 (w x : W32) (h : fld w 25 7 = 0x18#7) : decodeX w x =
    need (fld w 7 6 == 0) (.vexp2 (fld w 19 6) (fld w 13 6) (fld w 4 3) (fld w 0 4)) := by unfold decodeX; rw [h]; rfl
theorem opX_19 (w x : W32) (h : fld w 25 7 = 0x19#7) : decodeX w x =
    need (fld w 7 6 == 0) (.vlog2 (fld w 19 6) (fld w 13 6) (fld w 4 3) (fld w 0 4)) := by unfold decodeX; rw [h]; rfl
theorem opX_1a (w x : W32) (h : fld w 25 7 = 0x1a#7) : decodeX w x =
    need (fld w 7 6 == 0) (.vrcp (fld w 19 6) (fld w 13 6) (fld w 4 3) (fld w 0 4)) := by unfold decodeX; rw [h]; rfl
theorem opX_1b (w x : W32) (h : fld w 25 7 = 0x1b#7) : decodeX w x =
    need (fld w 7 6 == 0) (.vrsq (fld w 19 6) (fld w 13 6) (fld w 4 3) (fld w 0 4)) := by unfold decodeX; rw [h]; rfl
theorem opX_1c (w x : W32) (h : fld w 25 7 = 0x1c#7) : decodeX w x =
    need (fld w 7 6 == 0) (.vsqrt (fld w 19 6) (fld w 13 6) (fld w 4 3) (fld w 0 4)) := by unfold decodeX; rw [h]; rfl
theorem opX_1d (w x : W32) (h : fld w 25 7 = 0x1d#7) : decodeX w x =
    need (fld w 7 6 == 0) (.vsigm (fld w 19 6) (fld w 13 6) (fld w 4 3) (fld w 0 4)) := by unfold decodeX; rw [h]; rfl
theorem opX_1e (w x : W32) (h : fld w 25 7 = 0x1e#7) : decodeX w x =
    need (fld w 7 6 == 0) (.vtanh (fld w 19 6) (fld w 13 6) (fld w 4 3) (fld w 0 4)) := by unfold decodeX; rw [h]; rfl
theorem opX_40 (w x : W32) (h : fld w 25 7 = 0x40#7) : decodeX w x =
    .ok (.vcvt (fld w 19 6) (fld w 13 6) (fld w 10 3) (fld w 8 2) (fld w 7 1) (fld w 4 3) (fld w 0 4)) := by unfold decodeX; rw [h]; rfl
theorem opX_41 (w x : W32) (h : fld w 25 7 = 0x41#7) : decodeX w x =
    .ok (.vqdec (fld w 19 6) (fld w 13 6) (fld w 7 6) (fld w 4 3) (fld w 0 4)) := by unfold decodeX; rw [h]; rfl
theorem opX_42 (w x : W32) (h : fld w 25 7 = 0x42#7) : decodeX w x =
    .ok (.vqenc (fld w 19 6) (fld w 13 6) (fld w 7 6) (fld w 4 3) (fld w 0 4)) := by unfold decodeX; rw [h]; rfl
theorem opX_43 (w x : W32) (h : fld w 25 7 = 0x43#7) : decodeX w x =
    .ok (.vscl (fld w 19 6) (fld w 13 6) (fld w 7 6) (fld w 4 3) (fld w 0 4)) := by unfold decodeX; rw [h]; rfl
theorem opX_50 (w x : W32) (h : fld w 25 7 = 0x50#7) : decodeX w x =
    need (fld w 7 2 == 0) (.vred (fld w 19 6) (fld w 13 6) (fld w 12 1) (fld w 11 1) (fld w 9 2) (fld w 4 3) (fld w 0 4)) := by unfold decodeX; rw [h]; rfl
theorem opX_51 (w x : W32) (h : fld w 25 7 = 0x51#7) : decodeX w x =
    need (fld w 7 2 == 0) (.vscan (fld w 19 6) (fld w 13 6) (fld w 12 1) (fld w 11 1) (fld w 9 2) (fld w 4 3) (fld w 0 4)) := by unfold decodeX; rw [h]; rfl
theorem opX_52 (w x : W32) (h : fld w 25 7 = 0x52#7) : decodeX w x =
    need (fld w 7 6 == 0) (.vbcr (fld w 19 6) (fld w 13 6) (fld w 4 3) (fld w 0 4)) := by unfold decodeX; rw [h]; rfl
theorem opX_53 (w x : W32) (h : fld w 25 7 = 0x53#7) : decodeX w x =
    need (fld w 7 6 == 0) (.vbcc (fld w 19 6) (fld w 13 6) (fld w 4 3) (fld w 0 4)) := by unfold decodeX; rw [h]; rfl
theorem opX_54 (w x : W32) (h : fld w 25 7 = 0x54#7) : decodeX w x =
    need (fld w 7 6 == 0) (.vbcs (fld w 19 6) (fld w 13 6) (fld w 4 3) (fld w 0 4)) := by unfold decodeX; rw [h]; rfl
theorem opX_55 (w x : W32) (h : fld w 25 7 = 0x55#7) : decodeX w x =
    need (fld w 7 6 == 0) (.vtrn (fld w 19 6) (fld w 13 6) (fld w 4 3) (fld w 0 4)) := by unfold decodeX; rw [h]; rfl
theorem opX_56 (w x : W32) (h : fld w 25 7 = 0x56#7) : decodeX w x =
    .ok (.vshf (fld w 19 6) (fld w 13 6) (fld w 7 6) (fld w 4 3) (fld w 0 4)) := by unfold decodeX; rw [h]; rfl
theorem opX_57 (w x : W32) (h : fld w 25 7 = 0x57#7) : decodeX w x =
    need (fld w 4 9 == 0) (.vmov (fld w 19 6) (fld w 13 6) (fld w 0 4)) := by unfold decodeX; rw [h]; rfl
theorem opX_58 (w x : W32) (h : fld w 25 7 = 0x58#7) : decodeX w x =
    need (fld w 4 15 == 0) (.vzero (fld w 19 6) (fld w 0 4)) := by unfold decodeX; rw [h]; rfl
theorem opX_59 (w x : W32) (h : fld w 25 7 = 0x59#7) : decodeX w x =
    need (fld w 4 9 == 0) (.vacc (fld w 19 6) (fld w 14 5) (fld w 13 1) (fld w 0 4)) := by unfold decodeX; rw [h]; rfl
theorem opX_5a (w x : W32) (h : fld w 25 7 = 0x5a#7) : decodeX w x =
    need (fld w 4 8 == 0) (.vacw (fld w 19 6) (fld w 14 5) (fld w 13 1) (fld w 12 1) (fld w 0 4)) := by unfold decodeX; rw [h]; rfl
theorem opX_60 (w x : W32) (h : fld w 25 7 = 0x60#7) : decodeX w x =
    need (fld w 4 12 == 0) (.mand (fld w 22 3) (fld w 19 3) (fld w 16 3) (fld w 0 4)) := by unfold decodeX; rw [h]; rfl
theorem opX_61 (w x : W32) (h : fld w 25 7 = 0x61#7) : decodeX w x =
    need (fld w 4 12 == 0) (.mor (fld w 22 3) (fld w 19 3) (fld w 16 3) (fld w 0 4)) := by unfold decodeX; rw [h]; rfl
theorem opX_62 (w x : W32) (h : fld w 25 7 = 0x62#7) : decodeX w x =
    need (fld w 4 12 == 0) (.mxor (fld w 22 3) (fld w 19 3) (fld w 16 3) (fld w 0 4)) := by unfold decodeX; rw [h]; rfl
theorem opX_63 (w x : W32) (h : fld w 25 7 = 0x63#7) : decodeX w x =
    need (fld w 4 15 == 0) (.mnot (fld w 22 3) (fld w 19 3) (fld w 0 4)) := by unfold decodeX; rw [h]; rfl
theorem opX_64 (w x : W32) (h : fld w 25 7 = 0x64#7) : decodeX w x =
    need (fld w 4 15 == 0) (.mpop (fld w 22 3) (fld w 19 3) (fld w 0 4)) := by unfold decodeX; rw [h]; rfl
theorem opX_68 (w x : W32) (h : fld w 25 7 = 0x68#7) : decodeX w x =
    .ok (.eadd (fld w 21 4) (fld w 17 4) (fld w 13 4) (fld w 4 9) (fld w 0 4)) := by unfold decodeX; rw [h]; rfl
theorem opX_69 (w x : W32) (h : fld w 25 7 = 0x69#7) : decodeX w x =
    .ok (.esub (fld w 21 4) (fld w 17 4) (fld w 13 4) (fld w 4 9) (fld w 0 4)) := by unfold decodeX; rw [h]; rfl
theorem opX_6a (w x : W32) (h : fld w 25 7 = 0x6a#7) : decodeX w x =
    need (fld w 4 9 == 0) (.emul (fld w 21 4) (fld w 17 4) (fld w 13 4) (fld w 0 4)) := by unfold decodeX; rw [h]; rfl
theorem opX_6b (w x : W32) (h : fld w 25 7 = 0x6b#7) : decodeX w x =
    need (fld w 4 13 == 0) (.emov (fld w 21 4) (fld w 17 4) (fld w 0 4)) := by unfold decodeX; rw [h]; rfl
theorem opX_6c (w x : W32) (h : fld w 25 7 = 0x6c#7) : decodeX w x =
    .ok (.eli (fld w 21 4) (fld w 4 17) (fld w 0 4)) := by unfold decodeX; rw [h]; rfl
theorem opX_6d (w x : W32) (h : fld w 25 7 = 0x6d#7) : decodeX w x =
    need (fld w 23 2 == 0 && fld w 4 3 == 0) (.erd (fld w 19 4) (fld w 7 12) (fld w 0 4)) := by unfold decodeX; rw [h]; rfl
theorem opX_6e (w x : W32) (h : fld w 25 7 = 0x6e#7) : decodeX w x =
    need (fld w 23 2 == 0 && fld w 4 3 == 0) (.ewr (fld w 19 4) (fld w 7 12) (fld w 0 4)) := by unfold decodeX; rw [h]; rfl
theorem opX_70 (w x : W32) (h : fld w 25 7 = 0x70#7) : decodeX w x =
    need (fld w 4 10 == 0 && fld x 0 4 == 0) (.cqb (fld w 22 3) (fld w 18 4) (fld w 14 4) (fld x 4 28) (fld w 0 4)) := by unfold decodeX; rw [h]; rfl
theorem opX_71 (w x : W32) (h : fld w 25 7 = 0x71#7) : decodeX w x =
    need (fld w 4 17 == 0) (.cqr (fld w 21 4) (fld w 0 4)) := by unfold decodeX; rw [h]; rfl
theorem opX_72 (w x : W32) (h : fld w 25 7 = 0x72#7) : decodeX w x =
    need (fld w 22 3 == 0 && fld w 14 4 == 0 && fld w 4 7 == 0 && fld x 0 4 == 0) (.xloop (fld w 11 3) (fld w 18 4) (fld x 4 28) (fld w 0 4)) := by unfold decodeX; rw [h]; rfl
theorem opX_73 (w x : W32) (h : fld w 25 7 = 0x73#7) : decodeX w x =
    need (fld w 4 10 == 0 && fld x 0 4 == 0) (.xbr (fld w 22 3) (fld w 18 4) (fld w 14 4) (fld x 4 28) (fld w 0 4)) := by unfold decodeX; rw [h]; rfl
theorem opX_74 (w x : W32) (h : fld w 25 7 = 0x74#7) : decodeX w x =
    need (fld w 11 14 == 0 && fld w 4 4 == 0 && fld w 10 1 == 1) (.toksX (fld w 8 2) (fld w 0 4)) := by unfold decodeX; rw [h]; rfl
theorem opX_75 (w x : W32) (h : fld w 25 7 = 0x75#7) : decodeX w x =
    need (fld w 15 10 == 0 && fld w 4 7 == 0) (.tokwX (fld w 11 4) (fld w 0 4)) := by unfold decodeX; rw [h]; rfl
theorem opX_76 (w x : W32) (h : fld w 25 7 = 0x76#7) : decodeX w x =
    need (fld w 4 21 == 0) (.nopX (fld w 0 4)) := by unfold decodeX; rw [h]; rfl
theorem opX_77 (w x : W32) (h : fld w 25 7 = 0x77#7) : decodeX w x =
    need (fld w 4 21 == 0) (.xend (fld w 0 4)) := by unfold decodeX; rw [h]; rfl
theorem opD_00 (w : W32) (h : fld w 25 7 = 0x00#7) : decodeDrain w =
    need (fld w 16 9 == 0 && fld w 0 4 == 0) (.dscl (fld w 4 12)) := by unfold decodeDrain; rw [h]; rfl
theorem opD_01 (w : W32) (h : fld w 25 7 = 0x01#7) : decodeDrain w =
    need (fld w 16 9 == 0 && fld w 0 4 == 0) (.dbia (fld w 4 12)) := by unfold decodeDrain; rw [h]; rfl
theorem opD_02 (w : W32) (h : fld w 25 7 = 0x02#7) : decodeDrain w =
    need (fld w 0 19 == 0) (.dact (fld w 19 6)) := by unfold decodeDrain; rw [h]; rfl
theorem opD_03 (w : W32) (h : fld w 25 7 = 0x03#7) : decodeDrain w =
    need (fld w 16 9 == 0 && fld w 0 4 == 0) (.dclp (fld w 4 12)) := by unfold decodeDrain; rw [h]; rfl
theorem opD_04 (w : W32) (h : fld w 25 7 = 0x04#7) : decodeDrain w =
    need (fld w 22 3 == 0 && fld w 0 16 == 0) (.dcvt (fld w 21 1) (fld w 19 2) (fld w 16 3)) := by unfold decodeDrain; rw [h]; rfl
theorem opD_05 (w : W32) (h : fld w 25 7 = 0x05#7) : decodeDrain w =
    need (fld w 16 9 == 0 && fld w 0 4 == 0) (.dmul (fld w 4 12)) := by unfold decodeDrain; rw [h]; rfl
theorem opD_06 (w : W32) (h : fld w 25 7 = 0x06#7) : decodeDrain w =
    need (fld w 16 9 == 0 && fld w 0 4 == 0) (.dadd (fld w 4 12)) := by unfold decodeDrain; rw [h]; rfl
theorem opD_07 (w : W32) (h : fld w 25 7 = 0x07#7) : decodeDrain w =
    need (fld w 9 16 == 0 && fld w 0 4 == 0) (.dovw (fld w 4 5)) := by unfold decodeDrain; rw [h]; rfl
theorem opD_08 (w : W32) (h : fld w 25 7 = 0x08#7) : decodeDrain w =
    need (fld w 21 4 == 0 && fld w 16 3 == 0 && fld w 0 4 == 0) (.dstl (fld w 19 2) (fld w 4 12)) := by unfold decodeDrain; rw [h]; rfl
theorem opD_09 (w : W32) (h : fld w 25 7 = 0x09#7) : decodeDrain w =
    need (fld w 20 5 == 0 && fld w 0 19 == 0) (.drainDend (fld w 19 1)) := by unfold decodeDrain; rw [h]; rfl

/-! ### One lemma per constructor -/

theorem add (d : BitVec 5) (s1 : BitVec 5) (s2 : BitVec 5) (w : BitVec 4) : Statement (.add d s1 s2 w) := by
  intro m hm
  injection (show some Map.a = some m from hm) with hm
  subst hm
  show decodeA _ _ = _
  obtain ⟨h0, h1, h2, h3, h4, h5⟩ := parts_7_5_5_5_6_4 (0x00#7) d s1 s2 (0#6) w
  have e := opA_00 _ 0 h0
  simp only [h1, h2, h3, h4, h5] at e
  exact e
theorem sub (d : BitVec 5) (s1 : BitVec 5) (s2 : BitVec 5) (w : BitVec 4) : Statement (.sub d s1 s2 w) := by
  intro m hm
  injection (show some Map.a = some m from hm) with hm
  subst hm
  show decodeA _ _ = _
  obtain ⟨h0, h1, h2, h3, h4, h5⟩ := parts_7_5_5_5_6_4 (0x01#7) d s1 s2 (0#6) w
  have e := opA_01 _ 0 h0
  simp only [h1, h2, h3, h4, h5] at e
  exact e
theorem mul (d : BitVec 5) (s1 : BitVec 5) (s2 : BitVec 5) (w : BitVec 4) : Statement (.mul d s1 s2 w) := by
  intro m hm
  injection (show some Map.a = some m from hm) with hm
  subst hm
  show decodeA _ _ = _
  obtain ⟨h0, h1, h2, h3, h4, h5⟩ := parts_7_5_5_5_6_4 (0x02#7) d s1 s2 (0#6) w
  have e := opA_02 _ 0 h0
  simp only [h1, h2, h3, h4, h5] at e
  exact e
theorem mulh (d : BitVec 5) (s1 : BitVec 5) (s2 : BitVec 5) (w : BitVec 4) : Statement (.mulh d s1 s2 w) := by
  intro m hm
  injection (show some Map.a = some m from hm) with hm
  subst hm
  show decodeA _ _ = _
  obtain ⟨h0, h1, h2, h3, h4, h5⟩ := parts_7_5_5_5_6_4 (0x03#7) d s1 s2 (0#6) w
  have e := opA_03 _ 0 h0
  simp only [h1, h2, h3, h4, h5] at e
  exact e
theorem div (d : BitVec 5) (s1 : BitVec 5) (s2 : BitVec 5) (dn : BitVec 4) (w : BitVec 4) : Statement (.div d s1 s2 dn w) := by
  intro m hm
  injection (show some Map.a = some m from hm) with hm
  subst hm
  show decodeA _ _ = _
  obtain ⟨h0, h1, h2, h3, h4, h5, h6⟩ := parts_7_5_5_5_4_2_4 (0x04#7) d s1 s2 dn (0#2) w
  have e := opA_04 _ 0 h0
  simp only [h1, h2, h3, h4, h5, h6] at e
  exact e
theorem divu (d : BitVec 5) (s1 : BitVec 5) (s2 : BitVec 5) (dn : BitVec 4) (w : BitVec 4) : Statement (.divu d s1 s2 dn w) := by
  intro m hm
  injection (show some Map.a = some m from hm) with hm
  subst hm
  show decodeA _ _ = _
  obtain ⟨h0, h1, h2, h3, h4, h5, h6⟩ := parts_7_5_5_5_4_2_4 (0x05#7) d s1 s2 dn (0#2) w
  have e := opA_05 _ 0 h0
  simp only [h1, h2, h3, h4, h5, h6] at e
  exact e
theorem rem (d : BitVec 5) (s1 : BitVec 5) (s2 : BitVec 5) (dn : BitVec 4) (w : BitVec 4) : Statement (.rem d s1 s2 dn w) := by
  intro m hm
  injection (show some Map.a = some m from hm) with hm
  subst hm
  show decodeA _ _ = _
  obtain ⟨h0, h1, h2, h3, h4, h5, h6⟩ := parts_7_5_5_5_4_2_4 (0x06#7) d s1 s2 dn (0#2) w
  have e := opA_06 _ 0 h0
  simp only [h1, h2, h3, h4, h5, h6] at e
  exact e
theorem remu (d : BitVec 5) (s1 : BitVec 5) (s2 : BitVec 5) (dn : BitVec 4) (w : BitVec 4) : Statement (.remu d s1 s2 dn w) := by
  intro m hm
  injection (show some Map.a = some m from hm) with hm
  subst hm
  show decodeA _ _ = _
  obtain ⟨h0, h1, h2, h3, h4, h5, h6⟩ := parts_7_5_5_5_4_2_4 (0x07#7) d s1 s2 dn (0#2) w
  have e := opA_07 _ 0 h0
  simp only [h1, h2, h3, h4, h5, h6] at e
  exact e
theorem divideCompletion (b : BankRef) (k : Nat) : Statement (.divideCompletion b k) := fun _ h => noMap h
theorem and (d : BitVec 5) (s1 : BitVec 5) (s2 : BitVec 5) (w : BitVec 4) : Statement (.and d s1 s2 w) := by
  intro m hm
  injection (show some Map.a = some m from hm) with hm
  subst hm
  show decodeA _ _ = _
  obtain ⟨h0, h1, h2, h3, h4, h5⟩ := parts_7_5_5_5_6_4 (0x08#7) d s1 s2 (0#6) w
  have e := opA_08 _ 0 h0
  simp only [h1, h2, h3, h4, h5] at e
  exact e
theorem or (d : BitVec 5) (s1 : BitVec 5) (s2 : BitVec 5) (w : BitVec 4) : Statement (.or d s1 s2 w) := by
  intro m hm
  injection (show some Map.a = some m from hm) with hm
  subst hm
  show decodeA _ _ = _
  obtain ⟨h0, h1, h2, h3, h4, h5⟩ := parts_7_5_5_5_6_4 (0x09#7) d s1 s2 (0#6) w
  have e := opA_09 _ 0 h0
  simp only [h1, h2, h3, h4, h5] at e
  exact e
theorem xor (d : BitVec 5) (s1 : BitVec 5) (s2 : BitVec 5) (w : BitVec 4) : Statement (.xor d s1 s2 w) := by
  intro m hm
  injection (show some Map.a = some m from hm) with hm
  subst hm
  show decodeA _ _ = _
  obtain ⟨h0, h1, h2, h3, h4, h5⟩ := parts_7_5_5_5_6_4 (0x0a#7) d s1 s2 (0#6) w
  have e := opA_0a _ 0 h0
  simp only [h1, h2, h3, h4, h5] at e
  exact e
theorem shl (d : BitVec 5) (s1 : BitVec 5) (s2 : BitVec 5) (w : BitVec 4) : Statement (.shl d s1 s2 w) := by
  intro m hm
  injection (show some Map.a = some m from hm) with hm
  subst hm
  show decodeA _ _ = _
  obtain ⟨h0, h1, h2, h3, h4, h5⟩ := parts_7_5_5_5_6_4 (0x0b#7) d s1 s2 (0#6) w
  have e := opA_0b _ 0 h0
  simp only [h1, h2, h3, h4, h5] at e
  exact e
theorem shr (d : BitVec 5) (s1 : BitVec 5) (s2 : BitVec 5) (w : BitVec 4) : Statement (.shr d s1 s2 w) := by
  intro m hm
  injection (show some Map.a = some m from hm) with hm
  subst hm
  show decodeA _ _ = _
  obtain ⟨h0, h1, h2, h3, h4, h5⟩ := parts_7_5_5_5_6_4 (0x0c#7) d s1 s2 (0#6) w
  have e := opA_0c _ 0 h0
  simp only [h1, h2, h3, h4, h5] at e
  exact e
theorem sra (d : BitVec 5) (s1 : BitVec 5) (s2 : BitVec 5) (w : BitVec 4) : Statement (.sra d s1 s2 w) := by
  intro m hm
  injection (show some Map.a = some m from hm) with hm
  subst hm
  show decodeA _ _ = _
  obtain ⟨h0, h1, h2, h3, h4, h5⟩ := parts_7_5_5_5_6_4 (0x0d#7) d s1 s2 (0#6) w
  have e := opA_0d _ 0 h0
  simp only [h1, h2, h3, h4, h5] at e
  exact e
theorem min (d : BitVec 5) (s1 : BitVec 5) (s2 : BitVec 5) (w : BitVec 4) : Statement (.min d s1 s2 w) := by
  intro m hm
  injection (show some Map.a = some m from hm) with hm
  subst hm
  show decodeA _ _ = _
  obtain ⟨h0, h1, h2, h3, h4, h5⟩ := parts_7_5_5_5_6_4 (0x0e#7) d s1 s2 (0#6) w
  have e := opA_0e _ 0 h0
  simp only [h1, h2, h3, h4, h5] at e
  exact e
theorem max (d : BitVec 5) (s1 : BitVec 5) (s2 : BitVec 5) (w : BitVec 4) : Statement (.max d s1 s2 w) := by
  intro m hm
  injection (show some Map.a = some m from hm) with hm
  subst hm
  show decodeA _ _ = _
  obtain ⟨h0, h1, h2, h3, h4, h5⟩ := parts_7_5_5_5_6_4 (0x0f#7) d s1 s2 (0#6) w
  have e := opA_0f _ 0 h0
  simp only [h1, h2, h3, h4, h5] at e
  exact e
theorem minu (d : BitVec 5) (s1 : BitVec 5) (s2 : BitVec 5) (w : BitVec 4) : Statement (.minu d s1 s2 w) := by
  intro m hm
  injection (show some Map.a = some m from hm) with hm
  subst hm
  show decodeA _ _ = _
  obtain ⟨h0, h1, h2, h3, h4, h5⟩ := parts_7_5_5_5_6_4 (0x10#7) d s1 s2 (0#6) w
  have e := opA_10 _ 0 h0
  simp only [h1, h2, h3, h4, h5] at e
  exact e
theorem maxu (d : BitVec 5) (s1 : BitVec 5) (s2 : BitVec 5) (w : BitVec 4) : Statement (.maxu d s1 s2 w) := by
  intro m hm
  injection (show some Map.a = some m from hm) with hm
  subst hm
  show decodeA _ _ = _
  obtain ⟨h0, h1, h2, h3, h4, h5⟩ := parts_7_5_5_5_6_4 (0x11#7) d s1 s2 (0#6) w
  have e := opA_11 _ 0 h0
  simp only [h1, h2, h3, h4, h5] at e
  exact e
theorem slt (d : BitVec 5) (s1 : BitVec 5) (s2 : BitVec 5) (w : BitVec 4) : Statement (.slt d s1 s2 w) := by
  intro m hm
  injection (show some Map.a = some m from hm) with hm
  subst hm
  show decodeA _ _ = _
  obtain ⟨h0, h1, h2, h3, h4, h5⟩ := parts_7_5_5_5_6_4 (0x12#7) d s1 s2 (0#6) w
  have e := opA_12 _ 0 h0
  simp only [h1, h2, h3, h4, h5] at e
  exact e
theorem sltu (d : BitVec 5) (s1 : BitVec 5) (s2 : BitVec 5) (w : BitVec 4) : Statement (.sltu d s1 s2 w) := by
  intro m hm
  injection (show some Map.a = some m from hm) with hm
  subst hm
  show decodeA _ _ = _
  obtain ⟨h0, h1, h2, h3, h4, h5⟩ := parts_7_5_5_5_6_4 (0x13#7) d s1 s2 (0#6) w
  have e := opA_13 _ 0 h0
  simp only [h1, h2, h3, h4, h5] at e
  exact e
theorem sel (d : BitVec 5) (s1 : BitVec 5) (s2 : BitVec 5) (w : BitVec 4) : Statement (.sel d s1 s2 w) := by
  intro m hm
  injection (show some Map.a = some m from hm) with hm
  subst hm
  show decodeA _ _ = _
  obtain ⟨h0, h1, h2, h3, h4, h5⟩ := parts_7_5_5_5_6_4 (0x14#7) d s1 s2 (0#6) w
  have e := opA_14 _ 0 h0
  simp only [h1, h2, h3, h4, h5] at e
  exact e
theorem clz (d : BitVec 5) (s1 : BitVec 5) (w : BitVec 4) : Statement (.clz d s1 w) := by
  intro m hm
  injection (show some Map.a = some m from hm) with hm
  subst hm
  show decodeA _ _ = _
  obtain ⟨h0, h1, h2, h3, h4, h5, h6⟩ := parts_7_5_5_5_4_2_4 (0x15#7) d s1 (0#5) (0#4) (0#2) w
  have e := opA_15 _ 0 h0
  simp only [h1, h2, h3, h4, h5, h6] at e
  exact e
theorem popc (d : BitVec 5) (s1 : BitVec 5) (w : BitVec 4) : Statement (.popc d s1 w) := by
  intro m hm
  injection (show some Map.a = some m from hm) with hm
  subst hm
  show decodeA _ _ = _
  obtain ⟨h0, h1, h2, h3, h4, h5, h6⟩ := parts_7_5_5_5_4_2_4 (0x15#7) d s1 (0#5) (0#4) (1#2) w
  have e := opA_15 _ 0 h0
  simp only [h1, h2, h3, h4, h5, h6] at e
  exact e
theorem addi (d : BitVec 5) (s1 : BitVec 5) (imm : BitVec 11) (w : BitVec 4) : Statement (.addi d s1 imm w) := by
  intro m hm
  injection (show some Map.a = some m from hm) with hm
  subst hm
  show decodeA _ _ = _
  obtain ⟨h0, h1, h2, h3, h4⟩ := parts_7_5_5_11_4 (0x16#7) d s1 imm w
  have e := opA_16 _ 0 h0
  simp only [h1, h2, h3, h4] at e
  exact e
theorem andi (d : BitVec 5) (s1 : BitVec 5) (imm : BitVec 11) (w : BitVec 4) : Statement (.andi d s1 imm w) := by
  intro m hm
  injection (show some Map.a = some m from hm) with hm
  subst hm
  show decodeA _ _ = _
  obtain ⟨h0, h1, h2, h3, h4⟩ := parts_7_5_5_11_4 (0x17#7) d s1 imm w
  have e := opA_17 _ 0 h0
  simp only [h1, h2, h3, h4] at e
  exact e
theorem ori (d : BitVec 5) (s1 : BitVec 5) (imm : BitVec 11) (w : BitVec 4) : Statement (.ori d s1 imm w) := by
  intro m hm
  injection (show some Map.a = some m from hm) with hm
  subst hm
  show decodeA _ _ = _
  obtain ⟨h0, h1, h2, h3, h4⟩ := parts_7_5_5_11_4 (0x18#7) d s1 imm w
  have e := opA_18 _ 0 h0
  simp only [h1, h2, h3, h4] at e
  exact e
theorem xori (d : BitVec 5) (s1 : BitVec 5) (imm : BitVec 11) (w : BitVec 4) : Statement (.xori d s1 imm w) := by
  intro m hm
  injection (show some Map.a = some m from hm) with hm
  subst hm
  show decodeA _ _ = _
  obtain ⟨h0, h1, h2, h3, h4⟩ := parts_7_5_5_11_4 (0x19#7) d s1 imm w
  have e := opA_19 _ 0 h0
  simp only [h1, h2, h3, h4] at e
  exact e
theorem shli (d : BitVec 5) (s1 : BitVec 5) (imm : BitVec 11) (w : BitVec 4) : Statement (.shli d s1 imm w) := by
  intro m hm
  injection (show some Map.a = some m from hm) with hm
  subst hm
  show decodeA _ _ = _
  obtain ⟨h0, h1, h2, h3, h4⟩ := parts_7_5_5_11_4 (0x1a#7) d s1 imm w
  have e := opA_1a _ 0 h0
  simp only [h1, h2, h3, h4] at e
  exact e
theorem shri (d : BitVec 5) (s1 : BitVec 5) (imm : BitVec 11) (w : BitVec 4) : Statement (.shri d s1 imm w) := by
  intro m hm
  injection (show some Map.a = some m from hm) with hm
  subst hm
  show decodeA _ _ = _
  obtain ⟨h0, h1, h2, h3, h4⟩ := parts_7_5_5_11_4 (0x1b#7) d s1 imm w
  have e := opA_1b _ 0 h0
  simp only [h1, h2, h3, h4] at e
  exact e
theorem srai (d : BitVec 5) (s1 : BitVec 5) (imm : BitVec 11) (w : BitVec 4) : Statement (.srai d s1 imm w) := by
  intro m hm
  injection (show some Map.a = some m from hm) with hm
  subst hm
  show decodeA _ _ = _
  obtain ⟨h0, h1, h2, h3, h4⟩ := parts_7_5_5_11_4 (0x1c#7) d s1 imm w
  have e := opA_1c _ 0 h0
  simp only [h1, h2, h3, h4] at e
  exact e
theorem slti (d : BitVec 5) (s1 : BitVec 5) (imm : BitVec 11) (w : BitVec 4) : Statement (.slti d s1 imm w) := by
  intro m hm
  injection (show some Map.a = some m from hm) with hm
  subst hm
  show decodeA _ _ = _
  obtain ⟨h0, h1, h2, h3, h4⟩ := parts_7_5_5_11_4 (0x1d#7) d s1 imm w
  have e := opA_1d _ 0 h0
  simp only [h1, h2, h3, h4] at e
  exact e
theorem lui (d : BitVec 5) (imm : BitVec 16) (w : BitVec 4) : Statement (.lui d imm w) := by
  intro m hm
  injection (show some Map.a = some m from hm) with hm
  subst hm
  show decodeA _ _ = _
  obtain ⟨h0, h1, h2, h3⟩ := parts_7_5_16_4 (0x1e#7) d imm w
  have e := opA_1e _ 0 h0
  simp only [h1, h2, h3] at e
  exact e
theorem lix (d : BitVec 5) (imm : BitVec 32) (w : BitVec 4) : Statement (.lix d imm w) := by
  intro m hm
  injection (show some Map.a = some m from hm) with hm
  subst hm
  show decodeA _ _ = _
  obtain ⟨h0, h1, h2, h3⟩ := parts_7_5_16_4 (0x1f#7) d (0#16) w
  have e := opA_1f _ (imm) h0
  simp only [h1, h2, h3] at e
  exact e
theorem br (cond : BitVec 3) (s1 : BitVec 5) (s2 : BitVec 5) (target : BitVec 28) (w : BitVec 4) : Statement (.br cond s1 s2 target w) := by
  intro m hm
  injection (show some Map.a = some m from hm) with hm
  subst hm
  show decodeA _ _ = _
  obtain ⟨h0, h1, h2, h3, h4, h5, h6⟩ := parts_7_3_2_5_5_6_4 (0x20#7) cond (0#2) s1 s2 (0#6) w
  obtain ⟨g0, g1⟩ := parts_28_4 target (0#4)
  have e := opA_20 _ (target ++ 0#4) h0
  simp only [h1, h2, h3, h4, h5, h6, g0, g1] at e
  exact e
theorem jmp (target : BitVec 28) (w : BitVec 4) : Statement (.jmp target w) := by
  intro m hm
  injection (show some Map.a = some m from hm) with hm
  subst hm
  show decodeA _ _ = _
  obtain ⟨h0, h1, h2⟩ := parts_7_21_4 (0x21#7) (0#21) w
  obtain ⟨g0, g1⟩ := parts_28_4 target (0#4)
  have e := opA_21 _ (target ++ 0#4) h0
  simp only [h1, h2, g0, g1] at e
  exact e
theorem call (target : BitVec 28) (w : BitVec 4) : Statement (.call target w) := by
  intro m hm
  injection (show some Map.a = some m from hm) with hm
  subst hm
  show decodeA _ _ = _
  obtain ⟨h0, h1, h2⟩ := parts_7_21_4 (0x22#7) (0#21) w
  obtain ⟨g0, g1⟩ := parts_28_4 target (0#4)
  have e := opA_22 _ (target ++ 0#4) h0
  simp only [h1, h2, g0, g1] at e
  exact e
theorem ret (w : BitVec 4) : Statement (.ret w) := by
  intro m hm
  injection (show some Map.a = some m from hm) with hm
  subst hm
  show decodeA _ _ = _
  obtain ⟨h0, h1, h2⟩ := parts_7_21_4 (0x23#7) (0#21) w
  have e := opA_23 _ 0 h0
  simp only [h1, h2] at e
  exact e
theorem loop (lid : BitVec 3) (s1 : BitVec 5) (target : BitVec 28) (w : BitVec 4) : Statement (.loop lid s1 target w) := by
  intro m hm
  injection (show some Map.a = some m from hm) with hm
  subst hm
  show decodeA _ _ = _
  obtain ⟨h0, h1, h2, h3, h4, h5⟩ := parts_7_3_2_5_11_4 (0x24#7) lid (0#2) s1 (0#11) w
  obtain ⟨g0, g1⟩ := parts_28_4 target (0#4)
  have e := opA_24 _ (target ++ 0#4) h0
  simp only [h1, h2, h3, h4, h5, g0, g1] at e
  exact e
theorem brk (imm : BitVec 16) (w : BitVec 4) : Statement (.brk imm w) := by
  intro m hm
  injection (show some Map.a = some m from hm) with hm
  subst hm
  show decodeA _ _ = _
  obtain ⟨h0, h1, h2, h3⟩ := parts_7_5_16_4 (0x25#7) (0#5) imm w
  have e := opA_25 _ 0 h0
  simp only [h1, h2, h3] at e
  exact e
theorem cqp (s1 : BitVec 5) (w : BitVec 4) : Statement (.cqp s1 w) := by
  intro m hm
  injection (show some Map.a = some m from hm) with hm
  subst hm
  show decodeA _ _ = _
  obtain ⟨h0, h1, h2, h3, h4⟩ := parts_7_5_5_11_4 (0x26#7) (0#5) s1 (0#11) w
  have e := opA_26 _ 0 h0
  simp only [h1, h2, h3, h4] at e
  exact e
theorem endA (w : BitVec 4) : Statement (.endA w) := by
  intro m hm
  injection (show some Map.a = some m from hm) with hm
  subst hm
  show decodeA _ _ = _
  obtain ⟨h0, h1, h2⟩ := parts_7_21_4 (0x27#7) (0#21) w
  have e := opA_27 _ 0 h0
  simp only [h1, h2] at e
  exact e
theorem nopA (w : BitVec 4) : Statement (.nopA w) := by
  intro m hm
  injection (show some Map.a = some m from hm) with hm
  subst hm
  show decodeA _ _ = _
  obtain ⟨h0, h1, h2⟩ := parts_7_21_4 (0x28#7) (0#21) w
  have e := opA_28 _ 0 h0
  simp only [h1, h2] at e
  exact e
theorem hint (x : BitVec 25) : Statement (.hint x) := by
  intro m hm
  injection (show some Map.a = some m from hm) with hm
  subst hm
  show decodeA _ _ = _
  obtain ⟨h0, h1⟩ := parts_7_25 (0x7e#7) x
  have e := opA_7e _ 0 h0
  simp only [h1] at e
  exact e
theorem ld (d : BitVec 5) (s1 : BitVec 5) (size : BitVec 2) (sgn : BitVec 1) (ord : BitVec 2) (dn : BitVec 4) (sub : BitVec 2) (w : BitVec 4) : Statement (.ld d s1 size sgn ord dn sub w) := by
  intro m hm
  injection (show some Map.a = some m from hm) with hm
  subst hm
  show decodeA _ _ = _
  obtain ⟨h0, h1, h2, h3, h4, h5, h6, h7, h8⟩ := parts_7_5_5_2_1_2_4_2_4 (0x30#7) d s1 size sgn ord dn sub w
  have e := opA_30 _ 0 h0
  simp only [h1, h2, h3, h4, h5, h6, h7, h8] at e
  exact e
theorem st (d : BitVec 5) (s1 : BitVec 5) (size : BitVec 2) (ord : BitVec 2) (dn : BitVec 4) (sub : BitVec 2) (w : BitVec 4) : Statement (.st d s1 size ord dn sub w) := by
  intro m hm
  injection (show some Map.a = some m from hm) with hm
  subst hm
  show decodeA _ _ = _
  obtain ⟨h0, h1, h2, h3, h4, h5, h6, h7, h8⟩ := parts_7_5_5_2_1_2_4_2_4 (0x31#7) d s1 size (0#1) ord dn sub w
  have e := opA_31 _ 0 h0
  simp only [h1, h2, h3, h4, h5, h6, h7, h8] at e
  exact e
theorem ldl (d : BitVec 5) (s1 : BitVec 5) (size : BitVec 2) (sgn : BitVec 1) (w : BitVec 4) : Statement (.ldl d s1 size sgn w) := by
  intro m hm
  injection (show some Map.a = some m from hm) with hm
  subst hm
  show decodeA _ _ = _
  obtain ⟨h0, h1, h2, h3, h4, h5, h6⟩ := parts_7_5_5_2_1_8_4 (0x32#7) d s1 size sgn (0#8) w
  have e := opA_32 _ 0 h0
  simp only [h1, h2, h3, h4, h5, h6] at e
  exact e
theorem stl (d : BitVec 5) (s1 : BitVec 5) (size : BitVec 2) (w : BitVec 4) : Statement (.stl d s1 size w) := by
  intro m hm
  injection (show some Map.a = some m from hm) with hm
  subst hm
  show decodeA _ _ = _
  obtain ⟨h0, h1, h2, h3, h4, h5⟩ := parts_7_5_5_2_9_4 (0x33#7) d s1 size (0#9) w
  have e := opA_33 _ 0 h0
  simp only [h1, h2, h3, h4, h5] at e
  exact e
theorem ldt (t : BitVec 6) (s1 : BitVec 5) (src : BitVec 1) (dn : BitVec 4) (w : BitVec 4) : Statement (.ldt t s1 src dn w) := by
  intro m hm
  injection (show some Map.a = some m from hm) with hm
  subst hm
  show decodeA _ _ = _
  obtain ⟨h0, h1, h2, h3, h4, h5, h6, h7⟩ := parts_7_6_5_1_3_4_2_4 (0x34#7) t s1 src (0#3) dn (0#2) w
  have e := opA_34 _ 0 h0
  simp only [h1, h2, h3, h4, h5, h6, h7] at e
  exact e
theorem stt (t : BitVec 6) (s1 : BitVec 5) (src : BitVec 1) (dn : BitVec 4) (w : BitVec 4) : Statement (.stt t s1 src dn w) := by
  intro m hm
  injection (show some Map.a = some m from hm) with hm
  subst hm
  show decodeA _ _ = _
  obtain ⟨h0, h1, h2, h3, h4, h5, h6, h7⟩ := parts_7_6_5_1_3_4_2_4 (0x35#7) t s1 src (0#3) dn (0#2) w
  have e := opA_35 _ 0 h0
  simp only [h1, h2, h3, h4, h5, h6, h7] at e
  exact e
theorem pft (s1 : BitVec 5) (dn : BitVec 4) (w : BitVec 4) : Statement (.pft s1 dn w) := by
  intro m hm
  injection (show some Map.a = some m from hm) with hm
  subst hm
  show decodeA _ _ = _
  obtain ⟨h0, h1, h2, h3, h4, h5, h6⟩ := parts_7_6_5_4_4_2_4 (0x36#7) (0#6) s1 (0#4) dn (0#2) w
  have e := opA_36 _ 0 h0
  simp only [h1, h2, h3, h4, h5, h6] at e
  exact e
theorem align (w : BitVec 4) : Statement (.align w) := by
  intro m hm
  injection (show some Map.a = some m from hm) with hm
  subst hm
  show decodeA _ _ = _
  obtain ⟨h0, h1, h2⟩ := parts_7_21_4 (0x37#7) (0#21) w
  have e := opA_37 _ 0 h0
  simp only [h1, h2] at e
  exact e
theorem fence (scope : BitVec 2) (w : BitVec 4) : Statement (.fence scope w) := by
  intro m hm
  injection (show some Map.a = some m from hm) with hm
  subst hm
  show decodeA _ _ = _
  obtain ⟨h0, h1, h2, h3⟩ := parts_7_19_2_4 (0x38#7) (0#19) scope w
  have e := opA_38 _ 0 h0
  simp only [h1, h2, h3] at e
  exact e
theorem drnt (dn : BitVec 4) (scope : BitVec 2) (w : BitVec 4) : Statement (.drnt dn scope w) := by
  intro m hm
  injection (show some Map.a = some m from hm) with hm
  subst hm
  show decodeA _ _ = _
  obtain ⟨h0, h1, h2, h3, h4⟩ := parts_7_15_4_2_4 (0x39#7) (0#15) dn scope w
  have e := opA_39 _ 0 h0
  simp only [h1, h2, h3, h4] at e
  exact e
theorem drntCompletion (b : BankRef) : Statement (.drntCompletion b) := fun _ h => noMap h
theorem queueEntryPerform (b : BankRef) (store : Bool) : Statement (.queueEntryPerform b store) := fun _ h => noMap h
theorem pageFaultBankSwitch (b : BankRef) : Statement (.pageFaultBankSwitch b) := fun _ h => noMap h
theorem waita (d : BitVec 5) (s1 : BitVec 5) (s2 : BitVec 5) (dn : BitVec 4) (scope : BitVec 2) (w : BitVec 4) : Statement (.waita d s1 s2 dn scope w) := by
  intro m hm
  injection (show some Map.a = some m from hm) with hm
  subst hm
  show decodeA _ _ = _
  obtain ⟨h0, h1, h2, h3, h4, h5, h6⟩ := parts_7_5_5_5_4_2_4 (0x3a#7) d s1 s2 dn scope w
  have e := opA_3a _ 0 h0
  simp only [h1, h2, h3, h4, h5, h6] at e
  exact e
theorem monitorTrigger (b : BankRef) : Statement (.monitorTrigger b) := fun _ h => noMap h
theorem waittmoExpiry (b : BankRef) : Statement (.waittmoExpiry b) := fun _ h => noMap h
theorem aat (d : BitVec 5) (s1 : BitVec 5) (s2 : BitVec 5) (dn : BitVec 4) (s3 : BitVec 5) (aop : BitVec 3) (ty : BitVec 1) (ord : BitVec 1) (w : BitVec 4) : Statement (.aat d s1 s2 dn s3 aop ty ord w) := by
  intro m hm
  injection (show some Map.a = some m from hm) with hm
  subst hm
  show decodeA _ _ = _
  obtain ⟨h0, h1, h2, h3, h4, h5, h6⟩ := parts_7_5_5_5_4_2_4 (0x48#7) d s1 s2 dn (0#2) w
  obtain ⟨g0, g1, g2, g3, g4⟩ := parts_5_3_1_1_22 s3 aop ty ord (0#22)
  have e := opA_48 _ (s3 ++ aop ++ ty ++ ord ++ 0#22) h0
  simp only [h1, h2, h3, h4, h5, h6, g0, g1, g2, g3, g4] at e
  exact e
theorem orderedAtomicApply (u : SuiteId) : Statement (.orderedAtomicApply u) := fun _ h => noMap h
theorem accseqWrite (u : SuiteId) (v : Word) : Statement (.accseqWrite u v) := fun _ h => noMap h
theorem amem (d : BitVec 5) (s1 : BitVec 5) (s2 : BitVec 5) (dn : BitVec 4) (sub : BitVec 2) (w : BitVec 4) : Statement (.amem d s1 s2 dn sub w) := by
  intro m hm
  injection (show some Map.a = some m from hm) with hm
  subst hm
  show decodeA _ _ = _
  obtain ⟨h0, h1, h2, h3, h4, h5, h6⟩ := parts_7_5_5_5_4_2_4 (0x3b#7) d s1 s2 dn sub w
  have e := opA_3b _ 0 h0
  simp only [h1, h2, h3, h4, h5, h6] at e
  exact e
theorem toksA (dst : BitVec 2) (w : BitVec 4) : Statement (.toksA dst w) := by
  intro m hm
  injection (show some Map.a = some m from hm) with hm
  subst hm
  show decodeA _ _ = _
  obtain ⟨h0, h1, h2, h3, h4, h5⟩ := parts_7_14_1_2_4_4 (0x65#7) (0#14) (1#1) dst (0#4) w
  have e := opA_65 _ 0 h0
  simp only [h1, h2, h3, h4, h5] at e
  exact e
theorem tokwA (pop : BitVec 4) (w : BitVec 4) : Statement (.tokwA pop w) := by
  intro m hm
  injection (show some Map.a = some m from hm) with hm
  subst hm
  show decodeA _ _ = _
  obtain ⟨h0, h1, h2, h3, h4⟩ := parts_7_10_4_7_4 (0x66#7) (0#10) pop (0#7) w
  have e := opA_66 _ 0 h0
  simp only [h1, h2, h3, h4] at e
  exact e
theorem crd (d : BitVec 5) (s1 : BitVec 5) (csr : BitVec 11) (w : BitVec 4) : Statement (.crd d s1 csr w) := by
  intro m hm
  injection (show some Map.a = some m from hm) with hm
  subst hm
  show decodeA _ _ = _
  obtain ⟨h0, h1, h2, h3, h4⟩ := parts_7_5_5_11_4 (0x70#7) d s1 csr w
  have e := opA_70 _ 0 h0
  simp only [h1, h2, h3, h4] at e
  exact e
theorem cwr (d : BitVec 5) (s1 : BitVec 5) (csr : BitVec 11) (w : BitVec 4) : Statement (.cwr d s1 csr w) := by
  intro m hm
  injection (show some Map.a = some m from hm) with hm
  subst hm
  show decodeA _ _ = _
  obtain ⟨h0, h1, h2, h3, h4⟩ := parts_7_5_5_11_4 (0x71#7) d s1 csr w
  have e := opA_71 _ 0 h0
  simp only [h1, h2, h3, h4] at e
  exact e
theorem cmw (d : BitVec 5) (s1 : BitVec 5) (csr : BitVec 11) (w : BitVec 4) : Statement (.cmw d s1 csr w) := by
  intro m hm
  injection (show some Map.a = some m from hm) with hm
  subst hm
  show decodeA _ _ = _
  obtain ⟨h0, h1, h2, h3, h4⟩ := parts_7_5_5_11_4 (0x72#7) d s1 csr w
  have e := opA_72 _ 0 h0
  simp only [h1, h2, h3, h4] at e
  exact e
theorem cxc (d : BitVec 5) (s1 : BitVec 5) (csr : BitVec 11) (w : BitVec 4) : Statement (.cxc d s1 csr w) := by
  intro m hm
  injection (show some Map.a = some m from hm) with hm
  subst hm
  show decodeA _ _ = _
  obtain ⟨h0, h1, h2, h3, h4⟩ := parts_7_5_5_11_4 (0x73#7) d s1 csr w
  have e := opA_73 _ 0 h0
  simp only [h1, h2, h3, h4] at e
  exact e
theorem csrWrite (ag : Agent) (num : BitVec 12) (v : Word) : Statement (.csrWrite ag num v) := fun _ h => noMap h
theorem trap (imm : BitVec 16) (w : BitVec 4) : Statement (.trap imm w) := by
  intro m hm
  injection (show some Map.a = some m from hm) with hm
  subst hm
  show decodeA _ _ = _
  obtain ⟨h0, h1, h2, h3⟩ := parts_7_5_16_4 (0x74#7) (0#5) imm w
  have e := opA_74 _ 0 h0
  simp only [h1, h2, h3] at e
  exact e
theorem eret (w : BitVec 4) : Statement (.eret w) := by
  intro m hm
  injection (show some Map.a = some m from hm) with hm
  subst hm
  show decodeA _ _ = _
  obtain ⟨h0, h1, h2⟩ := parts_7_21_4 (0x75#7) (0#21) w
  have e := opA_75 _ 0 h0
  simp only [h1, h2] at e
  exact e
theorem yieldA (w : BitVec 4) : Statement (.yieldA w) := by
  intro m hm
  injection (show some Map.a = some m from hm) with hm
  subst hm
  show decodeA _ _ = _
  obtain ⟨h0, h1, h2⟩ := parts_7_21_4 (0x76#7) (0#21) w
  have e := opA_76 _ 0 h0
  simp only [h1, h2] at e
  exact e
theorem rpush (imm : BitVec 16) (w : BitVec 4) : Statement (.rpush imm w) := by
  intro m hm
  injection (show some Map.a = some m from hm) with hm
  subst hm
  show decodeA _ _ = _
  obtain ⟨h0, h1, h2, h3⟩ := parts_7_5_16_4 (0x77#7) (0#5) imm w
  have e := opA_77 _ 0 h0
  simp only [h1, h2, h3] at e
  exact e
theorem rpop (w : BitVec 4) : Statement (.rpop w) := by
  intro m hm
  injection (show some Map.a = some m from hm) with hm
  subst hm
  show decodeA _ _ = _
  obtain ⟨h0, h1, h2⟩ := parts_7_21_4 (0x78#7) (0#21) w
  have e := opA_78 _ 0 h0
  simp only [h1, h2] at e
  exact e
theorem tinv (s1 : BitVec 5) (s2 : BitVec 5) (dn : BitVec 4) (w : BitVec 4) : Statement (.tinv s1 s2 dn w) := by
  intro m hm
  injection (show some Map.a = some m from hm) with hm
  subst hm
  show decodeA _ _ = _
  obtain ⟨h0, h1, h2, h3, h4, h5, h6⟩ := parts_7_5_5_5_4_2_4 (0x79#7) (0#5) s1 s2 dn (0#2) w
  have e := opA_79 _ 0 h0
  simp only [h1, h2, h3, h4, h5, h6] at e
  exact e
theorem tinvCompletion (c : CtxId) : Statement (.tinvCompletion c) := fun _ h => noMap h
theorem frel (s1 : BitVec 5) (s2 : BitVec 5) (dn : BitVec 4) (w : BitVec 4) : Statement (.frel s1 s2 dn w) := by
  intro m hm
  injection (show some Map.a = some m from hm) with hm
  subst hm
  show decodeA _ _ = _
  obtain ⟨h0, h1, h2, h3, h4, h5, h6⟩ := parts_7_5_5_5_4_2_4 (0x7a#7) (0#5) s1 s2 dn (0#2) w
  have e := opA_7a _ 0 h0
  simp only [h1, h2, h3, h4, h5, h6] at e
  exact e
theorem frelCompletion (c : CtxId) : Statement (.frelCompletion c) := fun _ h => noMap h
theorem ssync (d : BitVec 5) (dn : BitVec 4) (w : BitVec 4) : Statement (.ssync d dn w) := by
  intro m hm
  injection (show some Map.a = some m from hm) with hm
  subst hm
  show decodeA _ _ = _
  obtain ⟨h0, h1, h2, h3, h4, h5⟩ := parts_7_5_10_4_2_4 (0x49#7) d (0#10) dn (0#2) w
  have e := opA_49 _ 0 h0
  simp only [h1, h2, h3, h4, h5] at e
  exact e
theorem ssyncArrival (u : SuiteId) (b : Fin 2) : Statement (.ssyncArrival u b) := fun _ h => noMap h
theorem barrierCompletion (t : TenantId) (scope : Fin 3) (inst : Nat) : Statement (.barrierCompletion t scope inst) := fun _ h => noMap h
theorem digstatWrite (t : TenantId) (v : Word) : Statement (.digstatWrite t v) := fun _ h => noMap h
theorem digpeerWrite (t : TenantId) (v : Word) : Statement (.digpeerWrite t v) := fun _ h => noMap h
theorem mnest (s1 : BitVec 5) (s2 : BitVec 5) (tok : Tok) (dn : BitVec 4) (w : BitVec 4) : Statement (.mnest s1 s2 tok dn w) := by
  intro m hm
  injection (show some Map.a = some m from hm) with hm
  subst hm
  show decodeA _ _ = _
  obtain ⟨h0, h1, h2, h3, h4, h5, h6, h7⟩ := parts_7_5_5_4_1_2_4_4 (0x58#7) s1 s2 tok.pop tok.pushEn tok.pushDst dn w
  have e := opA_58 _ 0 h0
  simp only [tokOf, h1, h2, h3, h4, h5, h6, h7] at e
  exact e
theorem mfmt (s1 : BitVec 5) (s2 : BitVec 5) (tok : Tok) (dn : BitVec 4) (w : BitVec 4) : Statement (.mfmt s1 s2 tok dn w) := by
  intro m hm
  injection (show some Map.a = some m from hm) with hm
  subst hm
  show decodeA _ _ = _
  obtain ⟨h0, h1, h2, h3, h4, h5, h6, h7⟩ := parts_7_5_5_4_1_2_4_4 (0x59#7) s1 s2 tok.pop tok.pushEn tok.pushDst dn w
  have e := opA_59 _ 0 h0
  simp only [tokOf, h1, h2, h3, h4, h5, h6, h7] at e
  exact e
theorem mgo (tok : Tok) (dn : BitVec 4) (w : BitVec 4) : Statement (.mgo tok dn w) := by
  intro m hm
  injection (show some Map.a = some m from hm) with hm
  subst hm
  show decodeA _ _ = _
  obtain ⟨h0, h1, h2, h3, h4, h5, h6⟩ := parts_7_10_4_1_2_4_4 (0x5a#7) (0#10) tok.pop tok.pushEn tok.pushDst dn w
  have e := opA_5a _ 0 h0
  simp only [tokOf, h1, h2, h3, h4, h5, h6] at e
  exact e
theorem mgoStart (u : SuiteId) : Statement (.mgoStart u) := fun _ h => noMap h
theorem nestBeat (u : SuiteId) : Statement (.nestBeat u) := fun _ h => noMap h
theorem drainRow (u : SuiteId) : Statement (.drainRow u) := fun _ h => noMap h
theorem haltRestart (u : SuiteId) : Statement (.haltRestart u) := fun _ h => noMap h
theorem mwing (s1 : BitVec 5) (tok : Tok) (dn : BitVec 4) (w : BitVec 4) : Statement (.mwing s1 tok dn w) := by
  intro m hm
  injection (show some Map.a = some m from hm) with hm
  subst hm
  show decodeA _ _ = _
  obtain ⟨h0, h1, h2, h3, h4, h5, h6, h7⟩ := parts_7_5_5_4_1_2_4_4 (0x5b#7) s1 (0#5) tok.pop tok.pushEn tok.pushDst dn w
  have e := opA_5b _ 0 h0
  simp only [tokOf, h1, h2, h3, h4, h5, h6, h7] at e
  exact e
theorem reshapeEffect (u : SuiteId) : Statement (.reshapeEffect u) := fun _ h => noMap h
theorem mdrn (s1 : BitVec 5) (s2 : BitVec 5) (tok : Tok) (dn : BitVec 4) (w : BitVec 4) : Statement (.mdrn s1 s2 tok dn w) := by
  intro m hm
  injection (show some Map.a = some m from hm) with hm
  subst hm
  show decodeA _ _ = _
  obtain ⟨h0, h1, h2, h3, h4, h5, h6, h7⟩ := parts_7_5_5_4_1_2_4_4 (0x5c#7) s1 s2 tok.pop tok.pushEn tok.pushDst dn w
  have e := opA_5c _ 0 h0
  simp only [tokOf, h1, h2, h3, h4, h5, h6, h7] at e
  exact e
theorem dstart (s1 : BitVec 5) (s2 : BitVec 5) (tok : Tok) (dn : BitVec 4) (w : BitVec 4) : Statement (.dstart s1 s2 tok dn w) := by
  intro m hm
  injection (show some Map.a = some m from hm) with hm
  subst hm
  show decodeA _ _ = _
  obtain ⟨h0, h1, h2, h3, h4, h5, h6, h7⟩ := parts_7_5_5_4_1_2_4_4 (0x5d#7) s1 s2 tok.pop tok.pushEn tok.pushDst dn w
  have e := opA_5d _ 0 h0
  simp only [tokOf, h1, h2, h3, h4, h5, h6, h7] at e
  exact e
theorem dstartEffect (u : SuiteId) : Statement (.dstartEffect u) := fun _ h => noMap h
theorem dlook (s1 : BitVec 5) (tok : Tok) (dn : BitVec 4) (w : BitVec 4) : Statement (.dlook s1 tok dn w) := by
  intro m hm
  injection (show some Map.a = some m from hm) with hm
  subst hm
  show decodeA _ _ = _
  obtain ⟨h0, h1, h2, h3, h4, h5, h6, h7⟩ := parts_7_5_5_4_1_2_4_4 (0x5e#7) s1 (0#5) tok.pop tok.pushEn tok.pushDst dn w
  have e := opA_5e _ 0 h0
  simp only [tokOf, h1, h2, h3, h4, h5, h6, h7] at e
  exact e
theorem dfeed (s1 : BitVec 5) (s2 : BitVec 5) (tok : Tok) (dn : BitVec 4) (w : BitVec 4) : Statement (.dfeed s1 s2 tok dn w) := by
  intro m hm
  injection (show some Map.a = some m from hm) with hm
  subst hm
  show decodeA _ _ = _
  obtain ⟨h0, h1, h2, h3, h4, h5, h6, h7⟩ := parts_7_5_5_4_1_2_4_4 (0x5f#7) s1 s2 tok.pop tok.pushEn tok.pushDst dn w
  have e := opA_5f _ 0 h0
  simp only [tokOf, h1, h2, h3, h4, h5, h6, h7] at e
  exact e
theorem dfeedHead (u : SuiteId) : Statement (.dfeedHead u) := fun _ h => noMap h
theorem ddrn (s1 : BitVec 5) (tok : Tok) (dn : BitVec 4) (w : BitVec 4) : Statement (.ddrn s1 tok dn w) := by
  intro m hm
  injection (show some Map.a = some m from hm) with hm
  subst hm
  show decodeA _ _ = _
  obtain ⟨h0, h1, h2, h3, h4, h5, h6, h7⟩ := parts_7_5_5_4_1_2_4_4 (0x60#7) s1 (0#5) tok.pop tok.pushEn tok.pushDst dn w
  have e := opA_60 _ 0 h0
  simp only [tokOf, h1, h2, h3, h4, h5, h6, h7] at e
  exact e
theorem ddrnHead (u : SuiteId) : Statement (.ddrnHead u) := fun _ h => noMap h
theorem dend (tok : Tok) (dn : BitVec 4) (w : BitVec 4) : Statement (.dend tok dn w) := by
  intro m hm
  injection (show some Map.a = some m from hm) with hm
  subst hm
  show decodeA _ _ = _
  obtain ⟨h0, h1, h2, h3, h4, h5, h6⟩ := parts_7_10_4_1_2_4_4 (0x61#7) (0#10) tok.pop tok.pushEn tok.pushDst dn w
  have e := opA_61 _ 0 h0
  simp only [tokOf, h1, h2, h3, h4, h5, h6] at e
  exact e
theorem dret (w : BitVec 4) : Statement (.dret w) := by
  intro m hm
  injection (show some Map.a = some m from hm) with hm
  subst hm
  show decodeA _ _ = _
  obtain ⟨h0, h1, h2⟩ := parts_7_21_4 (0x62#7) (0#21) w
  have e := opA_62 _ 0 h0
  simp only [h1, h2] at e
  exact e
theorem beatDue (u : SuiteId) : Statement (.beatDue u) := fun _ h => noMap h
theorem droneBeat (u : SuiteId) : Statement (.droneBeat u) := fun _ h => noMap h
theorem missdl (u : SuiteId) : Statement (.missdl u) := fun _ h => noMap h
theorem demandVector (u : SuiteId) : Statement (.demandVector u) := fun _ h => noMap h
theorem cpy (s1 : BitVec 5) (s2 : BitVec 5) (tok : Tok) (dn : BitVec 4) (desc : BitVec 17) (w : BitVec 4) : Statement (.cpy s1 s2 tok dn desc w) := by
  intro m hm
  injection (show some Map.a = some m from hm) with hm
  subst hm
  show decodeA _ _ = _
  obtain ⟨h0, h1, h2, h3, h4, h5, h6, h7⟩ := parts_7_5_5_4_1_2_4_4 (0x63#7) s1 s2 tok.pop tok.pushEn tok.pushDst dn w
  obtain ⟨g0, g1, g2⟩ := parts_9_17_6 (0#9) desc (0#6)
  have e := opA_63 _ (0#9 ++ desc ++ 0#6) h0
  simp only [tokOf, h1, h2, h3, h4, h5, h6, h7, g0, g1, g2] at e
  exact e
theorem cpyStart (u : SuiteId) : Statement (.cpyStart u) := fun _ h => noMap h
theorem cpyCompletion (u : SuiteId) (k : Nat) : Statement (.cpyCompletion u k) := fun _ h => noMap h
theorem cpyq (tok : Tok) (dn : BitVec 4) (w : BitVec 4) : Statement (.cpyq tok dn w) := by
  intro m hm
  injection (show some Map.a = some m from hm) with hm
  subst hm
  show decodeA _ _ = _
  obtain ⟨h0, h1, h2, h3, h4, h5, h6⟩ := parts_7_10_4_1_2_4_4 (0x64#7) (0#10) tok.pop tok.pushEn tok.pushDst dn w
  have e := opA_64 _ 0 h0
  simp only [tokOf, h1, h2, h3, h4, h5, h6] at e
  exact e
theorem commandCompletion (u : SuiteId) (k : Nat) : Statement (.commandCompletion u k) := fun _ h => noMap h
theorem psend (s1 : BitVec 5) (s2 : BitVec 5) (tok : Tok) (dn : BitVec 4) (w : BitVec 4) : Statement (.psend s1 s2 tok dn w) := by
  intro m hm
  injection (show some Map.a = some m from hm) with hm
  subst hm
  show decodeA _ _ = _
  obtain ⟨h0, h1, h2, h3, h4, h5, h6, h7⟩ := parts_7_5_5_4_1_2_4_4 (0x67#7) s1 s2 tok.pop tok.pushEn tok.pushDst dn w
  have e := opA_67 _ 0 h0
  simp only [tokOf, h1, h2, h3, h4, h5, h6, h7] at e
  exact e
theorem psendCredit (u : SuiteId) : Statement (.psendCredit u) := fun _ h => noMap h
theorem psendCompletion (u : SuiteId) (k : Nat) : Statement (.psendCompletion u k) := fun _ h => noMap h
theorem precv (s1 : BitVec 5) (s2 : BitVec 5) (tok : Tok) (dn : BitVec 4) (w : BitVec 4) : Statement (.precv s1 s2 tok dn w) := by
  intro m hm
  injection (show some Map.a = some m from hm) with hm
  subst hm
  show decodeA _ _ = _
  obtain ⟨h0, h1, h2, h3, h4, h5, h6, h7⟩ := parts_7_5_5_4_1_2_4_4 (0x68#7) s1 s2 tok.pop tok.pushEn tok.pushDst dn w
  have e := opA_68 _ 0 h0
  simp only [tokOf, h1, h2, h3, h4, h5, h6, h7] at e
  exact e
theorem precvSlot (u : SuiteId) : Statement (.precvSlot u) := fun _ h => noMap h
theorem precvCompletion (u : SuiteId) (k : Nat) : Statement (.precvCompletion u k) := fun _ h => noMap h
theorem coll (s1 : BitVec 5) (s2 : BitVec 5) (tok : Tok) (dn : BitVec 4) (w : BitVec 4) : Statement (.coll s1 s2 tok dn w) := by
  intro m hm
  injection (show some Map.a = some m from hm) with hm
  subst hm
  show decodeA _ _ = _
  obtain ⟨h0, h1, h2, h3, h4, h5, h6, h7⟩ := parts_7_5_5_4_1_2_4_4 (0x69#7) s1 s2 tok.pop tok.pushEn tok.pushDst dn w
  have e := opA_69 _ 0 h0
  simp only [tokOf, h1, h2, h3, h4, h5, h6, h7] at e
  exact e
theorem collArrival (u : SuiteId) : Statement (.collArrival u) := fun _ h => noMap h
theorem collStep (inst : Nat) : Statement (.collStep inst) := fun _ h => noMap h
theorem collInstanceCompletion (inst : Nat) : Statement (.collInstanceCompletion inst) := fun _ h => noMap h
theorem collw (s1 : BitVec 5) (dn : BitVec 4) (w : BitVec 4) : Statement (.collw s1 dn w) := by
  intro m hm
  injection (show some Map.a = some m from hm) with hm
  subst hm
  show decodeA _ _ = _
  obtain ⟨h0, h1, h2, h3, h4, h5, h6⟩ := parts_7_5_5_5_4_2_4 (0x6a#7) (0#5) s1 (0#5) dn (0#2) w
  have e := opA_6a _ 0 h0
  simp only [h1, h2, h3, h4, h5, h6] at e
  exact e
theorem scnstop (d : BitVec 5) (s1 : BitVec 5) (s2 : BitVec 5) (dn : BitVec 4) (w : BitVec 4) : Statement (.scnstop d s1 s2 dn w) := by
  intro m hm
  injection (show some Map.a = some m from hm) with hm
  subst hm
  show decodeA _ _ = _
  obtain ⟨h0, h1, h2, h3, h4, h5, h6⟩ := parts_7_5_5_5_4_2_4 (0x7b#7) d s1 s2 dn (0#2) w
  have e := opA_7b _ 0 h0
  simp only [h1, h2, h3, h4, h5, h6] at e
  exact e
theorem scnrun (d : BitVec 5) (s1 : BitVec 5) (s2 : BitVec 5) (dn : BitVec 4) (w : BitVec 4) : Statement (.scnrun d s1 s2 dn w) := by
  intro m hm
  injection (show some Map.a = some m from hm) with hm
  subst hm
  show decodeA _ _ = _
  obtain ⟨h0, h1, h2, h3, h4, h5, h6⟩ := parts_7_5_5_5_4_2_4 (0x7c#7) d s1 s2 dn (0#2) w
  have e := opA_7c _ 0 h0
  simp only [h1, h2, h3, h4, h5, h6] at e
  exact e
theorem scnout (d : BitVec 5) (s1 : BitVec 5) (dn : BitVec 4) (w : BitVec 4) : Statement (.scnout d s1 dn w) := by
  intro m hm
  injection (show some Map.a = some m from hm) with hm
  subst hm
  show decodeA _ _ = _
  obtain ⟨h0, h1, h2, h3, h4, h5, h6⟩ := parts_7_5_5_5_4_2_4 (0x7d#7) d s1 (0#5) dn (0#2) w
  have e := opA_7d _ 0 h0
  simp only [h1, h2, h3, h4, h5, h6] at e
  exact e
theorem scnin (d : BitVec 5) (s1 : BitVec 5) (dn : BitVec 4) (w : BitVec 4) : Statement (.scnin d s1 dn w) := by
  intro m hm
  injection (show some Map.a = some m from hm) with hm
  subst hm
  show decodeA _ _ = _
  obtain ⟨h0, h1, h2, h3, h4, h5, h6⟩ := parts_7_5_5_5_4_2_4 (0x7d#7) d s1 (0#5) dn (1#2) w
  have e := opA_7d _ 0 h0
  simp only [h1, h2, h3, h4, h5, h6] at e
  exact e
theorem scnq (d : BitVec 5) (s1 : BitVec 5) (s2 : BitVec 5) (dn : BitVec 4) (w : BitVec 4) : Statement (.scnq d s1 s2 dn w) := by
  intro m hm
  injection (show some Map.a = some m from hm) with hm
  subst hm
  show decodeA _ _ = _
  obtain ⟨h0, h1, h2, h3, h4, h5, h6⟩ := parts_7_5_5_5_4_2_4 (0x7f#7) d s1 s2 dn (0#2) w
  have e := opA_7f _ 0 h0
  simp only [h1, h2, h3, h4, h5, h6] at e
  exact e
theorem scanControllerTake (c : CtxId) : Statement (.scanControllerTake c) := fun _ h => noMap h
theorem beatStop (c : CtxId) : Statement (.beatStop c) := fun _ h => noMap h
theorem coreStopComplete (c : CtxId) : Statement (.coreStopComplete c) := fun _ h => noMap h
theorem scnrunRestart (c : CtxId) : Statement (.scnrunRestart c) := fun _ h => noMap h
theorem vadd (d : BitVec 6) (s1 : BitVec 6) (s2 : BitVec 6) (ty : BitVec 3) (w : BitVec 4) : Statement (.vadd d s1 s2 ty w) := by
  intro m hm
  injection (show some Map.x = some m from hm) with hm
  subst hm
  show decodeX _ _ = _
  obtain ⟨h0, h1, h2, h3, h4, h5⟩ := parts_7_6_6_6_3_4 (0x00#7) d s1 s2 ty w
  have e := opX_00 _ 0 h0
  simp only [h1, h2, h3, h4, h5] at e
  exact e
theorem vsub (d : BitVec 6) (s1 : BitVec 6) (s2 : BitVec 6) (ty : BitVec 3) (w : BitVec 4) : Statement (.vsub d s1 s2 ty w) := by
  intro m hm
  injection (show some Map.x = some m from hm) with hm
  subst hm
  show decodeX _ _ = _
  obtain ⟨h0, h1, h2, h3, h4, h5⟩ := parts_7_6_6_6_3_4 (0x01#7) d s1 s2 ty w
  have e := opX_01 _ 0 h0
  simp only [h1, h2, h3, h4, h5] at e
  exact e
theorem vmul (d : BitVec 6) (s1 : BitVec 6) (s2 : BitVec 6) (ty : BitVec 3) (w : BitVec 4) : Statement (.vmul d s1 s2 ty w) := by
  intro m hm
  injection (show some Map.x = some m from hm) with hm
  subst hm
  show decodeX _ _ = _
  obtain ⟨h0, h1, h2, h3, h4, h5⟩ := parts_7_6_6_6_3_4 (0x02#7) d s1 s2 ty w
  have e := opX_02 _ 0 h0
  simp only [h1, h2, h3, h4, h5] at e
  exact e
theorem vfma (d : BitVec 6) (s1 : BitVec 6) (s2 : BitVec 6) (ty : BitVec 3) (w : BitVec 4) : Statement (.vfma d s1 s2 ty w) := by
  intro m hm
  injection (show some Map.x = some m from hm) with hm
  subst hm
  show decodeX _ _ = _
  obtain ⟨h0, h1, h2, h3, h4, h5⟩ := parts_7_6_6_6_3_4 (0x03#7) d s1 s2 ty w
  have e := opX_03 _ 0 h0
  simp only [h1, h2, h3, h4, h5] at e
  exact e
theorem vfms (d : BitVec 6) (s1 : BitVec 6) (s2 : BitVec 6) (ty : BitVec 3) (w : BitVec 4) : Statement (.vfms d s1 s2 ty w) := by
  intro m hm
  injection (show some Map.x = some m from hm) with hm
  subst hm
  show decodeX _ _ = _
  obtain ⟨h0, h1, h2, h3, h4, h5⟩ := parts_7_6_6_6_3_4 (0x04#7) d s1 s2 ty w
  have e := opX_04 _ 0 h0
  simp only [h1, h2, h3, h4, h5] at e
  exact e
theorem vmin (d : BitVec 6) (s1 : BitVec 6) (s2 : BitVec 6) (ty : BitVec 3) (w : BitVec 4) : Statement (.vmin d s1 s2 ty w) := by
  intro m hm
  injection (show some Map.x = some m from hm) with hm
  subst hm
  show decodeX _ _ = _
  obtain ⟨h0, h1, h2, h3, h4, h5⟩ := parts_7_6_6_6_3_4 (0x05#7) d s1 s2 ty w
  have e := opX_05 _ 0 h0
  simp only [h1, h2, h3, h4, h5] at e
  exact e
theorem vmax (d : BitVec 6) (s1 : BitVec 6) (s2 : BitVec 6) (ty : BitVec 3) (w : BitVec 4) : Statement (.vmax d s1 s2 ty w) := by
  intro m hm
  injection (show some Map.x = some m from hm) with hm
  subst hm
  show decodeX _ _ = _
  obtain ⟨h0, h1, h2, h3, h4, h5⟩ := parts_7_6_6_6_3_4 (0x06#7) d s1 s2 ty w
  have e := opX_06 _ 0 h0
  simp only [h1, h2, h3, h4, h5] at e
  exact e
theorem vabs (d : BitVec 6) (s1 : BitVec 6) (ty : BitVec 3) (w : BitVec 4) : Statement (.vabs d s1 ty w) := by
  intro m hm
  injection (show some Map.x = some m from hm) with hm
  subst hm
  show decodeX _ _ = _
  obtain ⟨h0, h1, h2, h3, h4, h5⟩ := parts_7_6_6_6_3_4 (0x07#7) d s1 (0#6) ty w
  have e := opX_07 _ 0 h0
  simp only [h1, h2, h3, h4, h5] at e
  exact e
theorem vneg (d : BitVec 6) (s1 : BitVec 6) (ty : BitVec 3) (w : BitVec 4) : Statement (.vneg d s1 ty w) := by
  intro m hm
  injection (show some Map.x = some m from hm) with hm
  subst hm
  show decodeX _ _ = _
  obtain ⟨h0, h1, h2, h3, h4, h5⟩ := parts_7_6_6_6_3_4 (0x08#7) d s1 (0#6) ty w
  have e := opX_08 _ 0 h0
  simp only [h1, h2, h3, h4, h5] at e
  exact e
theorem vand (d : BitVec 6) (s1 : BitVec 6) (s2 : BitVec 6) (w : BitVec 4) : Statement (.vand d s1 s2 w) := by
  intro m hm
  injection (show some Map.x = some m from hm) with hm
  subst hm
  show decodeX _ _ = _
  obtain ⟨h0, h1, h2, h3, h4, h5⟩ := parts_7_6_6_6_3_4 (0x09#7) d s1 s2 (0#3) w
  have e := opX_09 _ 0 h0
  simp only [h1, h2, h3, h4, h5] at e
  exact e
theorem vor (d : BitVec 6) (s1 : BitVec 6) (s2 : BitVec 6) (w : BitVec 4) : Statement (.vor d s1 s2 w) := by
  intro m hm
  injection (show some Map.x = some m from hm) with hm
  subst hm
  show decodeX _ _ = _
  obtain ⟨h0, h1, h2, h3, h4, h5⟩ := parts_7_6_6_6_3_4 (0x0a#7) d s1 s2 (0#3) w
  have e := opX_0a _ 0 h0
  simp only [h1, h2, h3, h4, h5] at e
  exact e
theorem vxor (d : BitVec 6) (s1 : BitVec 6) (s2 : BitVec 6) (w : BitVec 4) : Statement (.vxor d s1 s2 w) := by
  intro m hm
  injection (show some Map.x = some m from hm) with hm
  subst hm
  show decodeX _ _ = _
  obtain ⟨h0, h1, h2, h3, h4, h5⟩ := parts_7_6_6_6_3_4 (0x0b#7) d s1 s2 (0#3) w
  have e := opX_0b _ 0 h0
  simp only [h1, h2, h3, h4, h5] at e
  exact e
theorem vnot (d : BitVec 6) (s1 : BitVec 6) (w : BitVec 4) : Statement (.vnot d s1 w) := by
  intro m hm
  injection (show some Map.x = some m from hm) with hm
  subst hm
  show decodeX _ _ = _
  obtain ⟨h0, h1, h2, h3, h4⟩ := parts_7_6_6_9_4 (0x0c#7) d s1 (0#9) w
  have e := opX_0c _ 0 h0
  simp only [h1, h2, h3, h4] at e
  exact e
theorem vshl (d : BitVec 6) (s1 : BitVec 6) (s2 : BitVec 6) (ty : BitVec 3) (w : BitVec 4) : Statement (.vshl d s1 s2 ty w) := by
  intro m hm
  injection (show some Map.x = some m from hm) with hm
  subst hm
  show decodeX _ _ = _
  obtain ⟨h0, h1, h2, h3, h4, h5⟩ := parts_7_6_6_6_3_4 (0x0d#7) d s1 s2 ty w
  have e := opX_0d _ 0 h0
  simp only [h1, h2, h3, h4, h5] at e
  exact e
theorem vshr (d : BitVec 6) (s1 : BitVec 6) (s2 : BitVec 6) (ty : BitVec 3) (w : BitVec 4) : Statement (.vshr d s1 s2 ty w) := by
  intro m hm
  injection (show some Map.x = some m from hm) with hm
  subst hm
  show decodeX _ _ = _
  obtain ⟨h0, h1, h2, h3, h4, h5⟩ := parts_7_6_6_6_3_4 (0x0e#7) d s1 s2 ty w
  have e := opX_0e _ 0 h0
  simp only [h1, h2, h3, h4, h5] at e
  exact e
theorem vsra (d : BitVec 6) (s1 : BitVec 6) (s2 : BitVec 6) (ty : BitVec 3) (w : BitVec 4) : Statement (.vsra d s1 s2 ty w) := by
  intro m hm
  injection (show some Map.x = some m from hm) with hm
  subst hm
  show decodeX _ _ = _
  obtain ⟨h0, h1, h2, h3, h4, h5⟩ := parts_7_6_6_6_3_4 (0x0f#7) d s1 s2 ty w
  have e := opX_0f _ 0 h0
  simp only [h1, h2, h3, h4, h5] at e
  exact e
theorem vcmp (md : BitVec 3) (cond : BitVec 3) (s1 : BitVec 6) (s2 : BitVec 6) (ty : BitVec 3) (w : BitVec 4) : Statement (.vcmp md cond s1 s2 ty w) := by
  intro m hm
  injection (show some Map.x = some m from hm) with hm
  subst hm
  show decodeX _ _ = _
  obtain ⟨h0, h1, h2, h3, h4, h5, h6⟩ := parts_7_3_3_6_6_3_4 (0x10#7) md cond s1 s2 ty w
  have e := opX_10 _ 0 h0
  simp only [h1, h2, h3, h4, h5, h6] at e
  exact e
theorem vsel (d : BitVec 6) (s1 : BitVec 6) (m : BitVec 3) (ty : BitVec 3) (w : BitVec 4) : Statement (.vsel d s1 m ty w) := by
  intro m hm
  injection (show some Map.x = some m from hm) with hm
  subst hm
  show decodeX _ _ = _
  obtain ⟨h0, h1, h2, h3, h4, h5, h6⟩ := parts_7_6_6_3_3_3_4 (0x11#7) d s1 m (0#3) ty w
  have e := opX_11 _ 0 h0
  simp only [h1, h2, h3, h4, h5, h6] at e
  exact e
theorem vexp2 (d : BitVec 6) (s1 : BitVec 6) (ty : BitVec 3) (w : BitVec 4) : Statement (.vexp2 d s1 ty w) := by
  intro m hm
  injection (show some Map.x = some m from hm) with hm
  subst hm
  show decodeX _ _ = _
  obtain ⟨h0, h1, h2, h3, h4, h5⟩ := parts_7_6_6_6_3_4 (0x18#7) d s1 (0#6) ty w
  have e := opX_18 _ 0 h0
  simp only [h1, h2, h3, h4, h5] at e
  exact e
theorem vlog2 (d : BitVec 6) (s1 : BitVec 6) (ty : BitVec 3) (w : BitVec 4) : Statement (.vlog2 d s1 ty w) := by
  intro m hm
  injection (show some Map.x = some m from hm) with hm
  subst hm
  show decodeX _ _ = _
  obtain ⟨h0, h1, h2, h3, h4, h5⟩ := parts_7_6_6_6_3_4 (0x19#7) d s1 (0#6) ty w
  have e := opX_19 _ 0 h0
  simp only [h1, h2, h3, h4, h5] at e
  exact e
theorem vrcp (d : BitVec 6) (s1 : BitVec 6) (ty : BitVec 3) (w : BitVec 4) : Statement (.vrcp d s1 ty w) := by
  intro m hm
  injection (show some Map.x = some m from hm) with hm
  subst hm
  show decodeX _ _ = _
  obtain ⟨h0, h1, h2, h3, h4, h5⟩ := parts_7_6_6_6_3_4 (0x1a#7) d s1 (0#6) ty w
  have e := opX_1a _ 0 h0
  simp only [h1, h2, h3, h4, h5] at e
  exact e
theorem vrsq (d : BitVec 6) (s1 : BitVec 6) (ty : BitVec 3) (w : BitVec 4) : Statement (.vrsq d s1 ty w) := by
  intro m hm
  injection (show some Map.x = some m from hm) with hm
  subst hm
  show decodeX _ _ = _
  obtain ⟨h0, h1, h2, h3, h4, h5⟩ := parts_7_6_6_6_3_4 (0x1b#7) d s1 (0#6) ty w
  have e := opX_1b _ 0 h0
  simp only [h1, h2, h3, h4, h5] at e
  exact e
theorem vsqrt (d : BitVec 6) (s1 : BitVec 6) (ty : BitVec 3) (w : BitVec 4) : Statement (.vsqrt d s1 ty w) := by
  intro m hm
  injection (show some Map.x = some m from hm) with hm
  subst hm
  show decodeX _ _ = _
  obtain ⟨h0, h1, h2, h3, h4, h5⟩ := parts_7_6_6_6_3_4 (0x1c#7) d s1 (0#6) ty w
  have e := opX_1c _ 0 h0
  simp only [h1, h2, h3, h4, h5] at e
  exact e
theorem vsigm (d : BitVec 6) (s1 : BitVec 6) (ty : BitVec 3) (w : BitVec 4) : Statement (.vsigm d s1 ty w) := by
  intro m hm
  injection (show some Map.x = some m from hm) with hm
  subst hm
  show decodeX _ _ = _
  obtain ⟨h0, h1, h2, h3, h4, h5⟩ := parts_7_6_6_6_3_4 (0x1d#7) d s1 (0#6) ty w
  have e := opX_1d _ 0 h0
  simp only [h1, h2, h3, h4, h5] at e
  exact e
theorem vtanh (d : BitVec 6) (s1 : BitVec 6) (ty : BitVec 3) (w : BitVec 4) : Statement (.vtanh d s1 ty w) := by
  intro m hm
  injection (show some Map.x = some m from hm) with hm
  subst hm
  show decodeX _ _ = _
  obtain ⟨h0, h1, h2, h3, h4, h5⟩ := parts_7_6_6_6_3_4 (0x1e#7) d s1 (0#6) ty w
  have e := opX_1e _ 0 h0
  simp only [h1, h2, h3, h4, h5] at e
  exact e
theorem vcvt (d : BitVec 6) (s1 : BitVec 6) (dty : BitVec 3) (rm : BitVec 2) (ov : BitVec 1) (ty : BitVec 3) (w : BitVec 4) : Statement (.vcvt d s1 dty rm ov ty w) := by
  intro m hm
  injection (show some Map.x = some m from hm) with hm
  subst hm
  show decodeX _ _ = _
  obtain ⟨h0, h1, h2, h3, h4, h5, h6, h7⟩ := parts_7_6_6_3_2_1_3_4 (0x40#7) d s1 dty rm ov ty w
  have e := opX_40 _ 0 h0
  simp only [h1, h2, h3, h4, h5, h6, h7] at e
  exact e
theorem vqdec (d : BitVec 6) (s1 : BitVec 6) (s2 : BitVec 6) (ty : BitVec 3) (w : BitVec 4) : Statement (.vqdec d s1 s2 ty w) := by
  intro m hm
  injection (show some Map.x = some m from hm) with hm
  subst hm
  show decodeX _ _ = _
  obtain ⟨h0, h1, h2, h3, h4, h5⟩ := parts_7_6_6_6_3_4 (0x41#7) d s1 s2 ty w
  have e := opX_41 _ 0 h0
  simp only [h1, h2, h3, h4, h5] at e
  exact e
theorem vqenc (d : BitVec 6) (s1 : BitVec 6) (s2 : BitVec 6) (ty : BitVec 3) (w : BitVec 4) : Statement (.vqenc d s1 s2 ty w) := by
  intro m hm
  injection (show some Map.x = some m from hm) with hm
  subst hm
  show decodeX _ _ = _
  obtain ⟨h0, h1, h2, h3, h4, h5⟩ := parts_7_6_6_6_3_4 (0x42#7) d s1 s2 ty w
  have e := opX_42 _ 0 h0
  simp only [h1, h2, h3, h4, h5] at e
  exact e
theorem vscl (d : BitVec 6) (s1 : BitVec 6) (s2 : BitVec 6) (ty : BitVec 3) (w : BitVec 4) : Statement (.vscl d s1 s2 ty w) := by
  intro m hm
  injection (show some Map.x = some m from hm) with hm
  subst hm
  show decodeX _ _ = _
  obtain ⟨h0, h1, h2, h3, h4, h5⟩ := parts_7_6_6_6_3_4 (0x43#7) d s1 s2 ty w
  have e := opX_43 _ 0 h0
  simp only [h1, h2, h3, h4, h5] at e
  exact e
theorem vred (d : BitVec 6) (s1 : BitVec 6) (order : BitVec 1) (axis : BitVec 1) (kind : BitVec 2) (ty : BitVec 3) (w : BitVec 4) : Statement (.vred d s1 order axis kind ty w) := by
  intro m hm
  injection (show some Map.x = some m from hm) with hm
  subst hm
  show decodeX _ _ = _
  obtain ⟨h0, h1, h2, h3, h4, h5, h6, h7, h8⟩ := parts_7_6_6_1_1_2_2_3_4 (0x50#7) d s1 order axis kind (0#2) ty w
  have e := opX_50 _ 0 h0
  simp only [h1, h2, h3, h4, h5, h6, h7, h8] at e
  exact e
theorem vscan (d : BitVec 6) (s1 : BitVec 6) (order : BitVec 1) (axis : BitVec 1) (kind : BitVec 2) (ty : BitVec 3) (w : BitVec 4) : Statement (.vscan d s1 order axis kind ty w) := by
  intro m hm
  injection (show some Map.x = some m from hm) with hm
  subst hm
  show decodeX _ _ = _
  obtain ⟨h0, h1, h2, h3, h4, h5, h6, h7, h8⟩ := parts_7_6_6_1_1_2_2_3_4 (0x51#7) d s1 order axis kind (0#2) ty w
  have e := opX_51 _ 0 h0
  simp only [h1, h2, h3, h4, h5, h6, h7, h8] at e
  exact e
theorem vbcr (d : BitVec 6) (s1 : BitVec 6) (ty : BitVec 3) (w : BitVec 4) : Statement (.vbcr d s1 ty w) := by
  intro m hm
  injection (show some Map.x = some m from hm) with hm
  subst hm
  show decodeX _ _ = _
  obtain ⟨h0, h1, h2, h3, h4, h5⟩ := parts_7_6_6_6_3_4 (0x52#7) d s1 (0#6) ty w
  have e := opX_52 _ 0 h0
  simp only [h1, h2, h3, h4, h5] at e
  exact e
theorem vbcc (d : BitVec 6) (s1 : BitVec 6) (ty : BitVec 3) (w : BitVec 4) : Statement (.vbcc d s1 ty w) := by
  intro m hm
  injection (show some Map.x = some m from hm) with hm
  subst hm
  show decodeX _ _ = _
  obtain ⟨h0, h1, h2, h3, h4, h5⟩ := parts_7_6_6_6_3_4 (0x53#7) d s1 (0#6) ty w
  have e := opX_53 _ 0 h0
  simp only [h1, h2, h3, h4, h5] at e
  exact e
theorem vbcs (d : BitVec 6) (s1 : BitVec 6) (ty : BitVec 3) (w : BitVec 4) : Statement (.vbcs d s1 ty w) := by
  intro m hm
  injection (show some Map.x = some m from hm) with hm
  subst hm
  show decodeX _ _ = _
  obtain ⟨h0, h1, h2, h3, h4, h5⟩ := parts_7_6_6_6_3_4 (0x54#7) d s1 (0#6) ty w
  have e := opX_54 _ 0 h0
  simp only [h1, h2, h3, h4, h5] at e
  exact e
theorem vtrn (d : BitVec 6) (s1 : BitVec 6) (ty : BitVec 3) (w : BitVec 4) : Statement (.vtrn d s1 ty w) := by
  intro m hm
  injection (show some Map.x = some m from hm) with hm
  subst hm
  show decodeX _ _ = _
  obtain ⟨h0, h1, h2, h3, h4, h5⟩ := parts_7_6_6_6_3_4 (0x55#7) d s1 (0#6) ty w
  have e := opX_55 _ 0 h0
  simp only [h1, h2, h3, h4, h5] at e
  exact e
theorem vshf (d : BitVec 6) (s1 : BitVec 6) (s2 : BitVec 6) (ty : BitVec 3) (w : BitVec 4) : Statement (.vshf d s1 s2 ty w) := by
  intro m hm
  injection (show some Map.x = some m from hm) with hm
  subst hm
  show decodeX _ _ = _
  obtain ⟨h0, h1, h2, h3, h4, h5⟩ := parts_7_6_6_6_3_4 (0x56#7) d s1 s2 ty w
  have e := opX_56 _ 0 h0
  simp only [h1, h2, h3, h4, h5] at e
  exact e
theorem vmov (d : BitVec 6) (s1 : BitVec 6) (w : BitVec 4) : Statement (.vmov d s1 w) := by
  intro m hm
  injection (show some Map.x = some m from hm) with hm
  subst hm
  show decodeX _ _ = _
  obtain ⟨h0, h1, h2, h3, h4⟩ := parts_7_6_6_9_4 (0x57#7) d s1 (0#9) w
  have e := opX_57 _ 0 h0
  simp only [h1, h2, h3, h4] at e
  exact e
theorem vzero (d : BitVec 6) (w : BitVec 4) : Statement (.vzero d w) := by
  intro m hm
  injection (show some Map.x = some m from hm) with hm
  subst hm
  show decodeX _ _ = _
  obtain ⟨h0, h1, h2, h3⟩ := parts_7_6_15_4 (0x58#7) d (0#15) w
  have e := opX_58 _ 0 h0
  simp only [h1, h2, h3] at e
  exact e
theorem vacc (t : BitVec 6) (k : BitVec 5) (h : BitVec 1) (w : BitVec 4) : Statement (.vacc t k h w) := by
  intro m hm
  injection (show some Map.x = some m from hm) with hm
  subst hm
  show decodeX _ _ = _
  obtain ⟨h0, h1, h2, h3, h4, h5⟩ := parts_7_6_5_1_9_4 (0x59#7) t k h (0#9) w
  have e := opX_59 _ 0 h0
  simp only [h1, h2, h3, h4, h5] at e
  exact e
theorem vacw (t : BitVec 6) (k : BitVec 5) (h : BitVec 1) (mode : BitVec 1) (w : BitVec 4) : Statement (.vacw t k h mode w) := by
  intro m hm
  injection (show some Map.x = some m from hm) with hm
  subst hm
  show decodeX _ _ = _
  obtain ⟨h0, h1, h2, h3, h4, h5, h6⟩ := parts_7_6_5_1_1_8_4 (0x5a#7) t k h mode (0#8) w
  have e := opX_5a _ 0 h0
  simp only [h1, h2, h3, h4, h5, h6] at e
  exact e
theorem mand (md : BitVec 3) (ms1 : BitVec 3) (ms2 : BitVec 3) (w : BitVec 4) : Statement (.mand md ms1 ms2 w) := by
  intro m hm
  injection (show some Map.x = some m from hm) with hm
  subst hm
  show decodeX _ _ = _
  obtain ⟨h0, h1, h2, h3, h4, h5⟩ := parts_7_3_3_3_12_4 (0x60#7) md ms1 ms2 (0#12) w
  have e := opX_60 _ 0 h0
  simp only [h1, h2, h3, h4, h5] at e
  exact e
theorem mor (md : BitVec 3) (ms1 : BitVec 3) (ms2 : BitVec 3) (w : BitVec 4) : Statement (.mor md ms1 ms2 w) := by
  intro m hm
  injection (show some Map.x = some m from hm) with hm
  subst hm
  show decodeX _ _ = _
  obtain ⟨h0, h1, h2, h3, h4, h5⟩ := parts_7_3_3_3_12_4 (0x61#7) md ms1 ms2 (0#12) w
  have e := opX_61 _ 0 h0
  simp only [h1, h2, h3, h4, h5] at e
  exact e
theorem mxor (md : BitVec 3) (ms1 : BitVec 3) (ms2 : BitVec 3) (w : BitVec 4) : Statement (.mxor md ms1 ms2 w) := by
  intro m hm
  injection (show some Map.x = some m from hm) with hm
  subst hm
  show decodeX _ _ = _
  obtain ⟨h0, h1, h2, h3, h4, h5⟩ := parts_7_3_3_3_12_4 (0x62#7) md ms1 ms2 (0#12) w
  have e := opX_62 _ 0 h0
  simp only [h1, h2, h3, h4, h5] at e
  exact e
theorem mnot (md : BitVec 3) (ms1 : BitVec 3) (w : BitVec 4) : Statement (.mnot md ms1 w) := by
  intro m hm
  injection (show some Map.x = some m from hm) with hm
  subst hm
  show decodeX _ _ = _
  obtain ⟨h0, h1, h2, h3, h4⟩ := parts_7_3_3_15_4 (0x63#7) md ms1 (0#15) w
  have e := opX_63 _ 0 h0
  simp only [h1, h2, h3, h4] at e
  exact e
theorem mpop (md : BitVec 3) (ms1 : BitVec 3) (w : BitVec 4) : Statement (.mpop md ms1 w) := by
  intro m hm
  injection (show some Map.x = some m from hm) with hm
  subst hm
  show decodeX _ _ = _
  obtain ⟨h0, h1, h2, h3, h4⟩ := parts_7_3_3_15_4 (0x64#7) md ms1 (0#15) w
  have e := opX_64 _ 0 h0
  simp only [h1, h2, h3, h4] at e
  exact e
theorem eadd (d : BitVec 4) (s1 : BitVec 4) (s2 : BitVec 4) (imm : BitVec 9) (w : BitVec 4) : Statement (.eadd d s1 s2 imm w) := by
  intro m hm
  injection (show some Map.x = some m from hm) with hm
  subst hm
  show decodeX _ _ = _
  obtain ⟨h0, h1, h2, h3, h4, h5⟩ := parts_7_4_4_4_9_4 (0x68#7) d s1 s2 imm w
  have e := opX_68 _ 0 h0
  simp only [h1, h2, h3, h4, h5] at e
  exact e
theorem esub (d : BitVec 4) (s1 : BitVec 4) (s2 : BitVec 4) (imm : BitVec 9) (w : BitVec 4) : Statement (.esub d s1 s2 imm w) := by
  intro m hm
  injection (show some Map.x = some m from hm) with hm
  subst hm
  show decodeX _ _ = _
  obtain ⟨h0, h1, h2, h3, h4, h5⟩ := parts_7_4_4_4_9_4 (0x69#7) d s1 s2 imm w
  have e := opX_69 _ 0 h0
  simp only [h1, h2, h3, h4, h5] at e
  exact e
theorem emul (d : BitVec 4) (s1 : BitVec 4) (s2 : BitVec 4) (w : BitVec 4) : Statement (.emul d s1 s2 w) := by
  intro m hm
  injection (show some Map.x = some m from hm) with hm
  subst hm
  show decodeX _ _ = _
  obtain ⟨h0, h1, h2, h3, h4, h5⟩ := parts_7_4_4_4_9_4 (0x6a#7) d s1 s2 (0#9) w
  have e := opX_6a _ 0 h0
  simp only [h1, h2, h3, h4, h5] at e
  exact e
theorem emov (d : BitVec 4) (s1 : BitVec 4) (w : BitVec 4) : Statement (.emov d s1 w) := by
  intro m hm
  injection (show some Map.x = some m from hm) with hm
  subst hm
  show decodeX _ _ = _
  obtain ⟨h0, h1, h2, h3, h4⟩ := parts_7_4_4_13_4 (0x6b#7) d s1 (0#13) w
  have e := opX_6b _ 0 h0
  simp only [h1, h2, h3, h4] at e
  exact e
theorem eli (d : BitVec 4) (imm : BitVec 17) (w : BitVec 4) : Statement (.eli d imm w) := by
  intro m hm
  injection (show some Map.x = some m from hm) with hm
  subst hm
  show decodeX _ _ = _
  obtain ⟨h0, h1, h2, h3⟩ := parts_7_4_17_4 (0x6c#7) d imm w
  have e := opX_6c _ 0 h0
  simp only [h1, h2, h3] at e
  exact e
theorem erd (d : BitVec 4) (csr : BitVec 12) (w : BitVec 4) : Statement (.erd d csr w) := by
  intro m hm
  injection (show some Map.x = some m from hm) with hm
  subst hm
  show decodeX _ _ = _
  obtain ⟨h0, h1, h2, h3, h4, h5⟩ := parts_7_2_4_12_3_4 (0x6d#7) (0#2) d csr (0#3) w
  have e := opX_6d _ 0 h0
  simp only [h1, h2, h3, h4, h5] at e
  exact e
theorem ewr (d : BitVec 4) (csr : BitVec 12) (w : BitVec 4) : Statement (.ewr d csr w) := by
  intro m hm
  injection (show some Map.x = some m from hm) with hm
  subst hm
  show decodeX _ _ = _
  obtain ⟨h0, h1, h2, h3, h4, h5⟩ := parts_7_2_4_12_3_4 (0x6e#7) (0#2) d csr (0#3) w
  have e := opX_6e _ 0 h0
  simp only [h1, h2, h3, h4, h5] at e
  exact e
theorem cqb (cond : BitVec 3) (s1 : BitVec 4) (s2 : BitVec 4) (target : BitVec 28) (w : BitVec 4) : Statement (.cqb cond s1 s2 target w) := by
  intro m hm
  injection (show some Map.x = some m from hm) with hm
  subst hm
  show decodeX _ _ = _
  obtain ⟨h0, h1, h2, h3, h4, h5⟩ := parts_7_3_4_4_10_4 (0x70#7) cond s1 s2 (0#10) w
  obtain ⟨g0, g1⟩ := parts_28_4 target (0#4)
  have e := opX_70 _ (target ++ 0#4) h0
  simp only [h1, h2, h3, h4, h5, g0, g1] at e
  exact e
theorem cqr (d : BitVec 4) (w : BitVec 4) : Statement (.cqr d w) := by
  intro m hm
  injection (show some Map.x = some m from hm) with hm
  subst hm
  show decodeX _ _ = _
  obtain ⟨h0, h1, h2, h3⟩ := parts_7_4_17_4 (0x71#7) d (0#17) w
  have e := opX_71 _ 0 h0
  simp only [h1, h2, h3] at e
  exact e
theorem xloop (lid : BitVec 3) (s1 : BitVec 4) (target : BitVec 28) (w : BitVec 4) : Statement (.xloop lid s1 target w) := by
  intro m hm
  injection (show some Map.x = some m from hm) with hm
  subst hm
  show decodeX _ _ = _
  obtain ⟨h0, h1, h2, h3, h4, h5, h6⟩ := parts_7_3_4_4_3_7_4 (0x72#7) (0#3) s1 (0#4) lid (0#7) w
  obtain ⟨g0, g1⟩ := parts_28_4 target (0#4)
  have e := opX_72 _ (target ++ 0#4) h0
  simp only [h1, h2, h3, h4, h5, h6, g0, g1] at e
  exact e
theorem xbr (cond : BitVec 3) (s1 : BitVec 4) (s2 : BitVec 4) (target : BitVec 28) (w : BitVec 4) : Statement (.xbr cond s1 s2 target w) := by
  intro m hm
  injection (show some Map.x = some m from hm) with hm
  subst hm
  show decodeX _ _ = _
  obtain ⟨h0, h1, h2, h3, h4, h5⟩ := parts_7_3_4_4_10_4 (0x73#7) cond s1 s2 (0#10) w
  obtain ⟨g0, g1⟩ := parts_28_4 target (0#4)
  have e := opX_73 _ (target ++ 0#4) h0
  simp only [h1, h2, h3, h4, h5, g0, g1] at e
  exact e
theorem toksX (dst : BitVec 2) (w : BitVec 4) : Statement (.toksX dst w) := by
  intro m hm
  injection (show some Map.x = some m from hm) with hm
  subst hm
  show decodeX _ _ = _
  obtain ⟨h0, h1, h2, h3, h4, h5⟩ := parts_7_14_1_2_4_4 (0x74#7) (0#14) (1#1) dst (0#4) w
  have e := opX_74 _ 0 h0
  simp only [h1, h2, h3, h4, h5] at e
  exact e
theorem tokwX (pop : BitVec 4) (w : BitVec 4) : Statement (.tokwX pop w) := by
  intro m hm
  injection (show some Map.x = some m from hm) with hm
  subst hm
  show decodeX _ _ = _
  obtain ⟨h0, h1, h2, h3, h4⟩ := parts_7_10_4_7_4 (0x75#7) (0#10) pop (0#7) w
  have e := opX_75 _ 0 h0
  simp only [h1, h2, h3, h4] at e
  exact e
theorem nopX (w : BitVec 4) : Statement (.nopX w) := by
  intro m hm
  injection (show some Map.x = some m from hm) with hm
  subst hm
  show decodeX _ _ = _
  obtain ⟨h0, h1, h2⟩ := parts_7_21_4 (0x76#7) (0#21) w
  have e := opX_76 _ 0 h0
  simp only [h1, h2] at e
  exact e
theorem xend (w : BitVec 4) : Statement (.xend w) := by
  intro m hm
  injection (show some Map.x = some m from hm) with hm
  subst hm
  show decodeX _ _ = _
  obtain ⟨h0, h1, h2⟩ := parts_7_21_4 (0x77#7) (0#21) w
  have e := opX_77 _ 0 h0
  simp only [h1, h2] at e
  exact e
theorem dscl (n : BitVec 12) : Statement (.dscl n) := by
  intro m hm
  injection (show some Map.drain = some m from hm) with hm
  subst hm
  show decodeDrain _ = _
  obtain ⟨h0, h1, h2, h3⟩ := parts_7_9_12_4 (0x00#7) (0#9) n (0#4)
  have e := opD_00 _ h0
  simp only [h1, h2, h3] at e
  exact e
theorem dbia (n : BitVec 12) : Statement (.dbia n) := by
  intro m hm
  injection (show some Map.drain = some m from hm) with hm
  subst hm
  show decodeDrain _ = _
  obtain ⟨h0, h1, h2, h3⟩ := parts_7_9_12_4 (0x01#7) (0#9) n (0#4)
  have e := opD_01 _ h0
  simp only [h1, h2, h3] at e
  exact e
theorem dact (fn : BitVec 6) : Statement (.dact fn) := by
  intro m hm
  injection (show some Map.drain = some m from hm) with hm
  subst hm
  show decodeDrain _ = _
  obtain ⟨h0, h1, h2⟩ := parts_7_6_19 (0x02#7) fn (0#19)
  have e := opD_02 _ h0
  simp only [h1, h2] at e
  exact e
theorem dclp (n : BitVec 12) : Statement (.dclp n) := by
  intro m hm
  injection (show some Map.drain = some m from hm) with hm
  subst hm
  show decodeDrain _ = _
  obtain ⟨h0, h1, h2, h3⟩ := parts_7_9_12_4 (0x03#7) (0#9) n (0#4)
  have e := opD_03 _ h0
  simp only [h1, h2, h3] at e
  exact e
theorem dcvt (ov : BitVec 1) (rm : BitVec 2) (ty : BitVec 3) : Statement (.dcvt ov rm ty) := by
  intro m hm
  injection (show some Map.drain = some m from hm) with hm
  subst hm
  show decodeDrain _ = _
  obtain ⟨h0, h1, h2, h3, h4, h5⟩ := parts_7_3_1_2_3_16 (0x04#7) (0#3) ov rm ty (0#16)
  have e := opD_04 _ h0
  simp only [h1, h2, h3, h4, h5] at e
  exact e
theorem dmul (n : BitVec 12) : Statement (.dmul n) := by
  intro m hm
  injection (show some Map.drain = some m from hm) with hm
  subst hm
  show decodeDrain _ = _
  obtain ⟨h0, h1, h2, h3⟩ := parts_7_9_12_4 (0x05#7) (0#9) n (0#4)
  have e := opD_05 _ h0
  simp only [h1, h2, h3] at e
  exact e
theorem dadd (n : BitVec 12) : Statement (.dadd n) := by
  intro m hm
  injection (show some Map.drain = some m from hm) with hm
  subst hm
  show decodeDrain _ = _
  obtain ⟨h0, h1, h2, h3⟩ := parts_7_9_12_4 (0x06#7) (0#9) n (0#4)
  have e := opD_06 _ h0
  simp only [h1, h2, h3] at e
  exact e
theorem dovw (k : BitVec 5) : Statement (.dovw k) := by
  intro m hm
  injection (show some Map.drain = some m from hm) with hm
  subst hm
  show decodeDrain _ = _
  obtain ⟨h0, h1, h2, h3⟩ := parts_7_16_5_4 (0x07#7) (0#16) k (0#4)
  have e := opD_07 _ h0
  simp only [h1, h2, h3] at e
  exact e
theorem dstl (pitch : BitVec 2) (n : BitVec 12) : Statement (.dstl pitch n) := by
  intro m hm
  injection (show some Map.drain = some m from hm) with hm
  subst hm
  show decodeDrain _ = _
  obtain ⟨h0, h1, h2, h3, h4, h5⟩ := parts_7_4_2_3_12_4 (0x08#7) (0#4) pitch (0#3) n (0#4)
  have e := opD_08 _ h0
  simp only [h1, h2, h3, h4, h5] at e
  exact e
theorem drainDend (nomain : BitVec 1) : Statement (.drainDend nomain) := by
  intro m hm
  injection (show some Map.drain = some m from hm) with hm
  subst hm
  show decodeDrain _ = _
  obtain ⟨h0, h1, h2, h3⟩ := parts_7_5_1_19 (0x09#7) (0#5) nomain (0#19)
  have e := opD_09 _ h0
  simp only [h1, h2, h3] at e
  exact e
theorem launchReady (t : TenantId) (id : W32) : Statement (.launchReady t id) := fun _ h => noMap h
theorem priorityAging (t : TenantId) (id : W32) : Statement (.priorityAging t id) := fun _ h => noMap h
theorem visitPlacement (lead : SuiteId) (shape : Fin 9) : Statement (.visitPlacement lead shape) := fun _ h => noMap h
theorem visitRetire (u : SuiteId) (b : Fin 2) : Statement (.visitRetire u b) := fun _ h => noMap h
theorem eventRingWrite (c : CtxId) : Statement (.eventRingWrite c) := fun _ h => noMap h
theorem evqheadWrite (c : CtxId) (v : Word) : Statement (.evqheadWrite c v) := fun _ h => noMap h
theorem evqbaseWrite (c : CtxId) (v : Word) : Statement (.evqbaseWrite c v) := fun _ h => noMap h
theorem counterOverflow (b : BankRef) (n : Fin 8) : Statement (.counterOverflow b n) := fun _ h => noMap h
theorem vcmdResume (c : CtxId) : Statement (.vcmdResume c) := fun _ h => noMap h
theorem vcmdSkip (c : CtxId) : Statement (.vcmdSkip c) := fun _ h => noMap h
theorem varegWrite (c : CtxId) (v : Word) : Statement (.varegWrite c v) := fun _ h => noMap h
theorem fedead (u : SuiteId) (b : Fin 2) : Statement (.fedead u b) := fun _ h => noMap h
theorem lssplitWrite (u : SuiteId) (v : Word) : Statement (.lssplitWrite u v) := fun _ h => noMap h
theorem migration (t : TenantId) (seg : Fin 65536) : Statement (.migration t seg) := fun _ h => noMap h
theorem ctxstartWrite (c : CtxId) (v : Word) : Statement (.ctxstartWrite c v) := fun _ h => noMap h
theorem lsubmitWrite (c : CtxId) (v : Word) : Statement (.lsubmitWrite c v) := fun _ h => noMap h
theorem keyctlAssign (t : TenantId) (slot : Fin 128) : Statement (.keyctlAssign t slot) := fun _ h => noMap h
theorem keyctlRelease (slot : Fin 128) : Statement (.keyctlRelease slot) := fun _ h => noMap h
theorem ownmaskWrite (t : TenantId) (v : Word) : Statement (.ownmaskWrite t v) := fun _ h => noMap h
theorem wingsetWrite (c : CtxId) (v : Word) : Statement (.wingsetWrite c v) := fun _ h => noMap h
theorem resetDie (d : DieId) : Statement (.resetDie d) := fun _ h => noMap h
theorem resetTenant (t : TenantId) : Statement (.resetTenant t) := fun _ h => noMap h
theorem resetRoom (u : SuiteId) : Statement (.resetRoom u) := fun _ h => noMap h
theorem visitAbort (u : SuiteId) (b : Fin 2) (replace : Bool) : Statement (.visitAbort u b replace) := fun _ h => noMap h
theorem feataccWrite (hi : Bool) (v : Word) : Statement (.feataccWrite hi v) := fun _ h => noMap h
theorem detctlWrite (t : TenantId) (v : Word) : Statement (.detctlWrite t v) := fun _ h => noMap h
theorem passWrite (bd : Fin 5) (p : Fin 8) (v : Word) : Statement (.passWrite bd p v) := fun _ h => noMap h
theorem l2qosWrite (t : TenantId) (v : Word) : Statement (.l2qosWrite t v) := fun _ h => noMap h
theorem l2PortGrant (port : Nat) : Statement (.l2PortGrant port) := fun _ h => noMap h
theorem alockWrite (c : CtxId) (v : Word) : Statement (.alockWrite c v) := fun _ h => noMap h
theorem aunlkWrite (c : CtxId) : Statement (.aunlkWrite c) := fun _ h => noMap h
theorem ologwWrite (c : CtxId) (v : Word) : Statement (.ologwWrite c v) := fun _ h => noMap h
theorem ologlimWrite (t : TenantId) (v : Word) : Statement (.ologlimWrite t v) := fun _ h => noMap h
theorem replaydiv (t : TenantId) : Statement (.replaydiv t) := fun _ h => noMap h
theorem trctlWrite (t : TenantId) (v : Word) : Statement (.trctlWrite t v) := fun _ h => noMap h
theorem roomfltClear (u : SuiteId) : Statement (.roomfltClear u) := fun _ h => noMap h
theorem scndmgClear (v : Word) : Statement (.scndmgClear v) := fun _ h => noMap h
theorem accumulatorAtomicApply (u : SuiteId) : Statement (.accumulatorAtomicApply u) := fun _ h => noMap h
theorem prefetchCompletion (b : BankRef) (k : Nat) : Statement (.prefetchCompletion b k) := fun _ h => noMap h
theorem copyElementMove (u : SuiteId) (k : Nat) : Statement (.copyElementMove u k) := fun _ h => noMap h
theorem scanShiftCompletion (c : CtxId) : Statement (.scanShiftCompletion c) := fun _ h => noMap h
theorem hostLaunch (t : TenantId) (tag : W16) (record : List Byte) : Statement (.hostLaunch t tag record) := fun _ h => noMap h
theorem hostDoorbell (t : TenantId) (v : Word) : Statement (.hostDoorbell t v) := fun _ h => noMap h
theorem hostQuote (tag : W16) (nonce : BitVec 256) : Statement (.hostQuote tag nonce) := fun _ h => noMap h
theorem flitReceive (port : Fin 12) (crcOk : Bool) (source : Nat) (seq : Nat) (packet : Packet) : Statement (.flitReceive port crcOk source seq packet) := fun _ h => noMap h
theorem linkdown (port : Fin 12) : Statement (.linkdown port) := fun _ h => noMap h
theorem linkRetrain (port : Fin 12) (ok : Bool) : Statement (.linkRetrain port ok) := fun _ h => noMap h
theorem routeUpdate (reachable : List Nat) : Statement (.routeUpdate reachable) := fun _ h => noMap h
theorem powerThrottle (d : DieId) (blocks : Nat) : Statement (.powerThrottle d blocks) := fun _ h => noMap h
theorem patrolScrub (line : Nat) : Statement (.patrolScrub line) := fun _ h => noMap h
theorem stewardRegisterUe (c : CtxId) : Statement (.stewardRegisterUe c) := fun _ h => noMap h
theorem softError (site : ErrSite) : Statement (.softError site) := fun _ h => noMap h
theorem peerDigest (t : TenantId) (digest : BitVec 256) (count : Word) (errs : BitVec 32) : Statement (.peerDigest t digest count errs) := fun _ h => noMap h
theorem unassignedEncoding (m : Map) (word : W32) : Statement (.unassignedEncoding m word) := fun _ h => noMap h
theorem resultLanding (b : BankRef) : Statement (.resultLanding b) := fun _ h => noMap h
theorem l2BucketRefill (port : Nat) : Statement (.l2BucketRefill port) := fun _ h => noMap h
theorem escapeChannelEntry (port : Fin 12) : Statement (.escapeChannelEntry port) := fun _ h => noMap h
theorem thermalTrip : Statement (.thermalTrip) := fun _ h => noMap h
theorem packageReset : Statement .packageReset := fun _ h => noMap h

/-! ### The words that a decoding came from -/

/-- An instruction fits the words that it was decoded from: its map, its first word, and for a two-slot form its second. -/
def Fits (m : Map) (w x : W32) (i : Instr) : Prop :=
  i.map = some m ∧ (encode i).getD 0 0 = w ∧ (twoSlot m w = true → (encode i).getD 1 0 = x)

theorem need_ok {c : Bool} {i j : Instr} (h : need c i = .ok j) : c = true ∧ i = j := by
  unfold need at h; split at h
  · exact ⟨‹_›, by injection h⟩
  · cases h

theorem pick_ok {c : Bool} {sub : BitVec 2} {i j k : Instr} (h : pick c sub i j = .ok k) :
    (c = true ∧ sub = 0 ∧ i = k) ∨ (c = true ∧ sub = 1 ∧ j = k) := by
  unfold pick at h; split at h
  · rename_i hc
    simp only [Bool.and_eq_true, beq_iff_eq] at hc
    exact .inl ⟨hc.1, hc.2, by injection h⟩
  · split at h
    · rename_i hc
      simp only [Bool.and_eq_true, beq_iff_eq] at hc
      exact .inr ⟨hc.1, hc.2, by injection h⟩
    · cases h

theorem join_5_3_1_1_22 (w : W32) : fld w 27 5 ++ fld w 24 3 ++ fld w 23 1 ++ fld w 22 1 ++ fld w 0 22 = w := by
  unfold fld
  rw [BitVec.extractLsb'_append_extractLsb'_eq_extractLsb' (by decide), BitVec.extractLsb'_append_extractLsb'_eq_extractLsb' (by decide), BitVec.extractLsb'_append_extractLsb'_eq_extractLsb' (by decide), BitVec.extractLsb'_append_extractLsb'_eq_extractLsb' (by decide)]
  exact BitVec.extractLsb'_eq_self
theorem join_7_2_4_12_3_4 (w : W32) : fld w 25 7 ++ fld w 23 2 ++ fld w 19 4 ++ fld w 7 12 ++ fld w 4 3 ++ fld w 0 4 = w := by
  unfold fld
  rw [BitVec.extractLsb'_append_extractLsb'_eq_extractLsb' (by decide), BitVec.extractLsb'_append_extractLsb'_eq_extractLsb' (by decide), BitVec.extractLsb'_append_extractLsb'_eq_extractLsb' (by decide), BitVec.extractLsb'_append_extractLsb'_eq_extractLsb' (by decide), BitVec.extractLsb'_append_extractLsb'_eq_extractLsb' (by decide)]
  exact BitVec.extractLsb'_eq_self
theorem join_7_3_1_2_3_16 (w : W32) : fld w 25 7 ++ fld w 22 3 ++ fld w 21 1 ++ fld w 19 2 ++ fld w 16 3 ++ fld w 0 16 = w := by
  unfold fld
  rw [BitVec.extractLsb'_append_extractLsb'_eq_extractLsb' (by decide), BitVec.extractLsb'_append_extractLsb'_eq_extractLsb' (by decide), BitVec.extractLsb'_append_extractLsb'_eq_extractLsb' (by decide), BitVec.extractLsb'_append_extractLsb'_eq_extractLsb' (by decide), BitVec.extractLsb'_append_extractLsb'_eq_extractLsb' (by decide)]
  exact BitVec.extractLsb'_eq_self
theorem join_7_3_2_5_5_6_4 (w : W32) : fld w 25 7 ++ fld w 22 3 ++ fld w 20 2 ++ fld w 15 5 ++ fld w 10 5 ++ fld w 4 6 ++ fld w 0 4 = w := by
  unfold fld
  rw [BitVec.extractLsb'_append_extractLsb'_eq_extractLsb' (by decide), BitVec.extractLsb'_append_extractLsb'_eq_extractLsb' (by decide), BitVec.extractLsb'_append_extractLsb'_eq_extractLsb' (by decide), BitVec.extractLsb'_append_extractLsb'_eq_extractLsb' (by decide), BitVec.extractLsb'_append_extractLsb'_eq_extractLsb' (by decide), BitVec.extractLsb'_append_extractLsb'_eq_extractLsb' (by decide)]
  exact BitVec.extractLsb'_eq_self
theorem join_7_3_2_5_11_4 (w : W32) : fld w 25 7 ++ fld w 22 3 ++ fld w 20 2 ++ fld w 15 5 ++ fld w 4 11 ++ fld w 0 4 = w := by
  unfold fld
  rw [BitVec.extractLsb'_append_extractLsb'_eq_extractLsb' (by decide), BitVec.extractLsb'_append_extractLsb'_eq_extractLsb' (by decide), BitVec.extractLsb'_append_extractLsb'_eq_extractLsb' (by decide), BitVec.extractLsb'_append_extractLsb'_eq_extractLsb' (by decide), BitVec.extractLsb'_append_extractLsb'_eq_extractLsb' (by decide)]
  exact BitVec.extractLsb'_eq_self
theorem join_7_3_3_3_12_4 (w : W32) : fld w 25 7 ++ fld w 22 3 ++ fld w 19 3 ++ fld w 16 3 ++ fld w 4 12 ++ fld w 0 4 = w := by
  unfold fld
  rw [BitVec.extractLsb'_append_extractLsb'_eq_extractLsb' (by decide), BitVec.extractLsb'_append_extractLsb'_eq_extractLsb' (by decide), BitVec.extractLsb'_append_extractLsb'_eq_extractLsb' (by decide), BitVec.extractLsb'_append_extractLsb'_eq_extractLsb' (by decide), BitVec.extractLsb'_append_extractLsb'_eq_extractLsb' (by decide)]
  exact BitVec.extractLsb'_eq_self
theorem join_7_3_3_6_6_3_4 (w : W32) : fld w 25 7 ++ fld w 22 3 ++ fld w 19 3 ++ fld w 13 6 ++ fld w 7 6 ++ fld w 4 3 ++ fld w 0 4 = w := by
  unfold fld
  rw [BitVec.extractLsb'_append_extractLsb'_eq_extractLsb' (by decide), BitVec.extractLsb'_append_extractLsb'_eq_extractLsb' (by decide), BitVec.extractLsb'_append_extractLsb'_eq_extractLsb' (by decide), BitVec.extractLsb'_append_extractLsb'_eq_extractLsb' (by decide), BitVec.extractLsb'_append_extractLsb'_eq_extractLsb' (by decide), BitVec.extractLsb'_append_extractLsb'_eq_extractLsb' (by decide)]
  exact BitVec.extractLsb'_eq_self
theorem join_7_3_3_15_4 (w : W32) : fld w 25 7 ++ fld w 22 3 ++ fld w 19 3 ++ fld w 4 15 ++ fld w 0 4 = w := by
  unfold fld
  rw [BitVec.extractLsb'_append_extractLsb'_eq_extractLsb' (by decide), BitVec.extractLsb'_append_extractLsb'_eq_extractLsb' (by decide), BitVec.extractLsb'_append_extractLsb'_eq_extractLsb' (by decide), BitVec.extractLsb'_append_extractLsb'_eq_extractLsb' (by decide)]
  exact BitVec.extractLsb'_eq_self
theorem join_7_3_4_4_3_7_4 (w : W32) : fld w 25 7 ++ fld w 22 3 ++ fld w 18 4 ++ fld w 14 4 ++ fld w 11 3 ++ fld w 4 7 ++ fld w 0 4 = w := by
  unfold fld
  rw [BitVec.extractLsb'_append_extractLsb'_eq_extractLsb' (by decide), BitVec.extractLsb'_append_extractLsb'_eq_extractLsb' (by decide), BitVec.extractLsb'_append_extractLsb'_eq_extractLsb' (by decide), BitVec.extractLsb'_append_extractLsb'_eq_extractLsb' (by decide), BitVec.extractLsb'_append_extractLsb'_eq_extractLsb' (by decide), BitVec.extractLsb'_append_extractLsb'_eq_extractLsb' (by decide)]
  exact BitVec.extractLsb'_eq_self
theorem join_7_3_4_4_10_4 (w : W32) : fld w 25 7 ++ fld w 22 3 ++ fld w 18 4 ++ fld w 14 4 ++ fld w 4 10 ++ fld w 0 4 = w := by
  unfold fld
  rw [BitVec.extractLsb'_append_extractLsb'_eq_extractLsb' (by decide), BitVec.extractLsb'_append_extractLsb'_eq_extractLsb' (by decide), BitVec.extractLsb'_append_extractLsb'_eq_extractLsb' (by decide), BitVec.extractLsb'_append_extractLsb'_eq_extractLsb' (by decide), BitVec.extractLsb'_append_extractLsb'_eq_extractLsb' (by decide)]
  exact BitVec.extractLsb'_eq_self
theorem join_7_4_2_3_12_4 (w : W32) : fld w 25 7 ++ fld w 21 4 ++ fld w 19 2 ++ fld w 16 3 ++ fld w 4 12 ++ fld w 0 4 = w := by
  unfold fld
  rw [BitVec.extractLsb'_append_extractLsb'_eq_extractLsb' (by decide), BitVec.extractLsb'_append_extractLsb'_eq_extractLsb' (by decide), BitVec.extractLsb'_append_extractLsb'_eq_extractLsb' (by decide), BitVec.extractLsb'_append_extractLsb'_eq_extractLsb' (by decide), BitVec.extractLsb'_append_extractLsb'_eq_extractLsb' (by decide)]
  exact BitVec.extractLsb'_eq_self
theorem join_7_4_4_4_9_4 (w : W32) : fld w 25 7 ++ fld w 21 4 ++ fld w 17 4 ++ fld w 13 4 ++ fld w 4 9 ++ fld w 0 4 = w := by
  unfold fld
  rw [BitVec.extractLsb'_append_extractLsb'_eq_extractLsb' (by decide), BitVec.extractLsb'_append_extractLsb'_eq_extractLsb' (by decide), BitVec.extractLsb'_append_extractLsb'_eq_extractLsb' (by decide), BitVec.extractLsb'_append_extractLsb'_eq_extractLsb' (by decide), BitVec.extractLsb'_append_extractLsb'_eq_extractLsb' (by decide)]
  exact BitVec.extractLsb'_eq_self
theorem join_7_4_4_13_4 (w : W32) : fld w 25 7 ++ fld w 21 4 ++ fld w 17 4 ++ fld w 4 13 ++ fld w 0 4 = w := by
  unfold fld
  rw [BitVec.extractLsb'_append_extractLsb'_eq_extractLsb' (by decide), BitVec.extractLsb'_append_extractLsb'_eq_extractLsb' (by decide), BitVec.extractLsb'_append_extractLsb'_eq_extractLsb' (by decide), BitVec.extractLsb'_append_extractLsb'_eq_extractLsb' (by decide)]
  exact BitVec.extractLsb'_eq_self
theorem join_7_4_17_4 (w : W32) : fld w 25 7 ++ fld w 21 4 ++ fld w 4 17 ++ fld w 0 4 = w := by
  unfold fld
  rw [BitVec.extractLsb'_append_extractLsb'_eq_extractLsb' (by decide), BitVec.extractLsb'_append_extractLsb'_eq_extractLsb' (by decide), BitVec.extractLsb'_append_extractLsb'_eq_extractLsb' (by decide)]
  exact BitVec.extractLsb'_eq_self
theorem join_7_5_1_19 (w : W32) : fld w 25 7 ++ fld w 20 5 ++ fld w 19 1 ++ fld w 0 19 = w := by
  unfold fld
  rw [BitVec.extractLsb'_append_extractLsb'_eq_extractLsb' (by decide), BitVec.extractLsb'_append_extractLsb'_eq_extractLsb' (by decide), BitVec.extractLsb'_append_extractLsb'_eq_extractLsb' (by decide)]
  exact BitVec.extractLsb'_eq_self
theorem join_7_5_5_2_1_2_4_2_4 (w : W32) : fld w 25 7 ++ fld w 20 5 ++ fld w 15 5 ++ fld w 13 2 ++ fld w 12 1 ++ fld w 10 2 ++ fld w 6 4 ++ fld w 4 2 ++ fld w 0 4 = w := by
  unfold fld
  rw [BitVec.extractLsb'_append_extractLsb'_eq_extractLsb' (by decide), BitVec.extractLsb'_append_extractLsb'_eq_extractLsb' (by decide), BitVec.extractLsb'_append_extractLsb'_eq_extractLsb' (by decide), BitVec.extractLsb'_append_extractLsb'_eq_extractLsb' (by decide), BitVec.extractLsb'_append_extractLsb'_eq_extractLsb' (by decide), BitVec.extractLsb'_append_extractLsb'_eq_extractLsb' (by decide), BitVec.extractLsb'_append_extractLsb'_eq_extractLsb' (by decide), BitVec.extractLsb'_append_extractLsb'_eq_extractLsb' (by decide)]
  exact BitVec.extractLsb'_eq_self
theorem join_7_5_5_2_1_8_4 (w : W32) : fld w 25 7 ++ fld w 20 5 ++ fld w 15 5 ++ fld w 13 2 ++ fld w 12 1 ++ fld w 4 8 ++ fld w 0 4 = w := by
  unfold fld
  rw [BitVec.extractLsb'_append_extractLsb'_eq_extractLsb' (by decide), BitVec.extractLsb'_append_extractLsb'_eq_extractLsb' (by decide), BitVec.extractLsb'_append_extractLsb'_eq_extractLsb' (by decide), BitVec.extractLsb'_append_extractLsb'_eq_extractLsb' (by decide), BitVec.extractLsb'_append_extractLsb'_eq_extractLsb' (by decide), BitVec.extractLsb'_append_extractLsb'_eq_extractLsb' (by decide)]
  exact BitVec.extractLsb'_eq_self
theorem join_7_5_5_2_9_4 (w : W32) : fld w 25 7 ++ fld w 20 5 ++ fld w 15 5 ++ fld w 13 2 ++ fld w 4 9 ++ fld w 0 4 = w := by
  unfold fld
  rw [BitVec.extractLsb'_append_extractLsb'_eq_extractLsb' (by decide), BitVec.extractLsb'_append_extractLsb'_eq_extractLsb' (by decide), BitVec.extractLsb'_append_extractLsb'_eq_extractLsb' (by decide), BitVec.extractLsb'_append_extractLsb'_eq_extractLsb' (by decide), BitVec.extractLsb'_append_extractLsb'_eq_extractLsb' (by decide)]
  exact BitVec.extractLsb'_eq_self
theorem join_7_5_5_4_1_2_4_4 (w : W32) : fld w 25 7 ++ fld w 20 5 ++ fld w 15 5 ++ fld w 11 4 ++ fld w 10 1 ++ fld w 8 2 ++ fld w 4 4 ++ fld w 0 4 = w := by
  unfold fld
  rw [BitVec.extractLsb'_append_extractLsb'_eq_extractLsb' (by decide), BitVec.extractLsb'_append_extractLsb'_eq_extractLsb' (by decide), BitVec.extractLsb'_append_extractLsb'_eq_extractLsb' (by decide), BitVec.extractLsb'_append_extractLsb'_eq_extractLsb' (by decide), BitVec.extractLsb'_append_extractLsb'_eq_extractLsb' (by decide), BitVec.extractLsb'_append_extractLsb'_eq_extractLsb' (by decide), BitVec.extractLsb'_append_extractLsb'_eq_extractLsb' (by decide)]
  exact BitVec.extractLsb'_eq_self
theorem join_7_5_5_5_4_2_4 (w : W32) : fld w 25 7 ++ fld w 20 5 ++ fld w 15 5 ++ fld w 10 5 ++ fld w 6 4 ++ fld w 4 2 ++ fld w 0 4 = w := by
  unfold fld
  rw [BitVec.extractLsb'_append_extractLsb'_eq_extractLsb' (by decide), BitVec.extractLsb'_append_extractLsb'_eq_extractLsb' (by decide), BitVec.extractLsb'_append_extractLsb'_eq_extractLsb' (by decide), BitVec.extractLsb'_append_extractLsb'_eq_extractLsb' (by decide), BitVec.extractLsb'_append_extractLsb'_eq_extractLsb' (by decide), BitVec.extractLsb'_append_extractLsb'_eq_extractLsb' (by decide)]
  exact BitVec.extractLsb'_eq_self
theorem join_7_5_5_5_6_4 (w : W32) : fld w 25 7 ++ fld w 20 5 ++ fld w 15 5 ++ fld w 10 5 ++ fld w 4 6 ++ fld w 0 4 = w := by
  unfold fld
  rw [BitVec.extractLsb'_append_extractLsb'_eq_extractLsb' (by decide), BitVec.extractLsb'_append_extractLsb'_eq_extractLsb' (by decide), BitVec.extractLsb'_append_extractLsb'_eq_extractLsb' (by decide), BitVec.extractLsb'_append_extractLsb'_eq_extractLsb' (by decide), BitVec.extractLsb'_append_extractLsb'_eq_extractLsb' (by decide)]
  exact BitVec.extractLsb'_eq_self
theorem join_7_5_5_11_4 (w : W32) : fld w 25 7 ++ fld w 20 5 ++ fld w 15 5 ++ fld w 4 11 ++ fld w 0 4 = w := by
  unfold fld
  rw [BitVec.extractLsb'_append_extractLsb'_eq_extractLsb' (by decide), BitVec.extractLsb'_append_extractLsb'_eq_extractLsb' (by decide), BitVec.extractLsb'_append_extractLsb'_eq_extractLsb' (by decide), BitVec.extractLsb'_append_extractLsb'_eq_extractLsb' (by decide)]
  exact BitVec.extractLsb'_eq_self
theorem join_7_5_10_4_2_4 (w : W32) : fld w 25 7 ++ fld w 20 5 ++ fld w 10 10 ++ fld w 6 4 ++ fld w 4 2 ++ fld w 0 4 = w := by
  unfold fld
  rw [BitVec.extractLsb'_append_extractLsb'_eq_extractLsb' (by decide), BitVec.extractLsb'_append_extractLsb'_eq_extractLsb' (by decide), BitVec.extractLsb'_append_extractLsb'_eq_extractLsb' (by decide), BitVec.extractLsb'_append_extractLsb'_eq_extractLsb' (by decide), BitVec.extractLsb'_append_extractLsb'_eq_extractLsb' (by decide)]
  exact BitVec.extractLsb'_eq_self
theorem join_7_5_16_4 (w : W32) : fld w 25 7 ++ fld w 20 5 ++ fld w 4 16 ++ fld w 0 4 = w := by
  unfold fld
  rw [BitVec.extractLsb'_append_extractLsb'_eq_extractLsb' (by decide), BitVec.extractLsb'_append_extractLsb'_eq_extractLsb' (by decide), BitVec.extractLsb'_append_extractLsb'_eq_extractLsb' (by decide)]
  exact BitVec.extractLsb'_eq_self
theorem join_7_6_5_1_1_8_4 (w : W32) : fld w 25 7 ++ fld w 19 6 ++ fld w 14 5 ++ fld w 13 1 ++ fld w 12 1 ++ fld w 4 8 ++ fld w 0 4 = w := by
  unfold fld
  rw [BitVec.extractLsb'_append_extractLsb'_eq_extractLsb' (by decide), BitVec.extractLsb'_append_extractLsb'_eq_extractLsb' (by decide), BitVec.extractLsb'_append_extractLsb'_eq_extractLsb' (by decide), BitVec.extractLsb'_append_extractLsb'_eq_extractLsb' (by decide), BitVec.extractLsb'_append_extractLsb'_eq_extractLsb' (by decide), BitVec.extractLsb'_append_extractLsb'_eq_extractLsb' (by decide)]
  exact BitVec.extractLsb'_eq_self
theorem join_7_6_5_1_3_4_2_4 (w : W32) : fld w 25 7 ++ fld w 19 6 ++ fld w 14 5 ++ fld w 13 1 ++ fld w 10 3 ++ fld w 6 4 ++ fld w 4 2 ++ fld w 0 4 = w := by
  unfold fld
  rw [BitVec.extractLsb'_append_extractLsb'_eq_extractLsb' (by decide), BitVec.extractLsb'_append_extractLsb'_eq_extractLsb' (by decide), BitVec.extractLsb'_append_extractLsb'_eq_extractLsb' (by decide), BitVec.extractLsb'_append_extractLsb'_eq_extractLsb' (by decide), BitVec.extractLsb'_append_extractLsb'_eq_extractLsb' (by decide), BitVec.extractLsb'_append_extractLsb'_eq_extractLsb' (by decide), BitVec.extractLsb'_append_extractLsb'_eq_extractLsb' (by decide)]
  exact BitVec.extractLsb'_eq_self
theorem join_7_6_5_1_9_4 (w : W32) : fld w 25 7 ++ fld w 19 6 ++ fld w 14 5 ++ fld w 13 1 ++ fld w 4 9 ++ fld w 0 4 = w := by
  unfold fld
  rw [BitVec.extractLsb'_append_extractLsb'_eq_extractLsb' (by decide), BitVec.extractLsb'_append_extractLsb'_eq_extractLsb' (by decide), BitVec.extractLsb'_append_extractLsb'_eq_extractLsb' (by decide), BitVec.extractLsb'_append_extractLsb'_eq_extractLsb' (by decide), BitVec.extractLsb'_append_extractLsb'_eq_extractLsb' (by decide)]
  exact BitVec.extractLsb'_eq_self
theorem join_7_6_5_4_4_2_4 (w : W32) : fld w 25 7 ++ fld w 19 6 ++ fld w 14 5 ++ fld w 10 4 ++ fld w 6 4 ++ fld w 4 2 ++ fld w 0 4 = w := by
  unfold fld
  rw [BitVec.extractLsb'_append_extractLsb'_eq_extractLsb' (by decide), BitVec.extractLsb'_append_extractLsb'_eq_extractLsb' (by decide), BitVec.extractLsb'_append_extractLsb'_eq_extractLsb' (by decide), BitVec.extractLsb'_append_extractLsb'_eq_extractLsb' (by decide), BitVec.extractLsb'_append_extractLsb'_eq_extractLsb' (by decide), BitVec.extractLsb'_append_extractLsb'_eq_extractLsb' (by decide)]
  exact BitVec.extractLsb'_eq_self
theorem join_7_6_6_1_1_2_2_3_4 (w : W32) : fld w 25 7 ++ fld w 19 6 ++ fld w 13 6 ++ fld w 12 1 ++ fld w 11 1 ++ fld w 9 2 ++ fld w 7 2 ++ fld w 4 3 ++ fld w 0 4 = w := by
  unfold fld
  rw [BitVec.extractLsb'_append_extractLsb'_eq_extractLsb' (by decide), BitVec.extractLsb'_append_extractLsb'_eq_extractLsb' (by decide), BitVec.extractLsb'_append_extractLsb'_eq_extractLsb' (by decide), BitVec.extractLsb'_append_extractLsb'_eq_extractLsb' (by decide), BitVec.extractLsb'_append_extractLsb'_eq_extractLsb' (by decide), BitVec.extractLsb'_append_extractLsb'_eq_extractLsb' (by decide), BitVec.extractLsb'_append_extractLsb'_eq_extractLsb' (by decide), BitVec.extractLsb'_append_extractLsb'_eq_extractLsb' (by decide)]
  exact BitVec.extractLsb'_eq_self
theorem join_7_6_6_3_2_1_3_4 (w : W32) : fld w 25 7 ++ fld w 19 6 ++ fld w 13 6 ++ fld w 10 3 ++ fld w 8 2 ++ fld w 7 1 ++ fld w 4 3 ++ fld w 0 4 = w := by
  unfold fld
  rw [BitVec.extractLsb'_append_extractLsb'_eq_extractLsb' (by decide), BitVec.extractLsb'_append_extractLsb'_eq_extractLsb' (by decide), BitVec.extractLsb'_append_extractLsb'_eq_extractLsb' (by decide), BitVec.extractLsb'_append_extractLsb'_eq_extractLsb' (by decide), BitVec.extractLsb'_append_extractLsb'_eq_extractLsb' (by decide), BitVec.extractLsb'_append_extractLsb'_eq_extractLsb' (by decide), BitVec.extractLsb'_append_extractLsb'_eq_extractLsb' (by decide)]
  exact BitVec.extractLsb'_eq_self
theorem join_7_6_6_3_3_3_4 (w : W32) : fld w 25 7 ++ fld w 19 6 ++ fld w 13 6 ++ fld w 10 3 ++ fld w 7 3 ++ fld w 4 3 ++ fld w 0 4 = w := by
  unfold fld
  rw [BitVec.extractLsb'_append_extractLsb'_eq_extractLsb' (by decide), BitVec.extractLsb'_append_extractLsb'_eq_extractLsb' (by decide), BitVec.extractLsb'_append_extractLsb'_eq_extractLsb' (by decide), BitVec.extractLsb'_append_extractLsb'_eq_extractLsb' (by decide), BitVec.extractLsb'_append_extractLsb'_eq_extractLsb' (by decide), BitVec.extractLsb'_append_extractLsb'_eq_extractLsb' (by decide)]
  exact BitVec.extractLsb'_eq_self
theorem join_7_6_6_6_3_4 (w : W32) : fld w 25 7 ++ fld w 19 6 ++ fld w 13 6 ++ fld w 7 6 ++ fld w 4 3 ++ fld w 0 4 = w := by
  unfold fld
  rw [BitVec.extractLsb'_append_extractLsb'_eq_extractLsb' (by decide), BitVec.extractLsb'_append_extractLsb'_eq_extractLsb' (by decide), BitVec.extractLsb'_append_extractLsb'_eq_extractLsb' (by decide), BitVec.extractLsb'_append_extractLsb'_eq_extractLsb' (by decide), BitVec.extractLsb'_append_extractLsb'_eq_extractLsb' (by decide)]
  exact BitVec.extractLsb'_eq_self
theorem join_7_6_6_9_4 (w : W32) : fld w 25 7 ++ fld w 19 6 ++ fld w 13 6 ++ fld w 4 9 ++ fld w 0 4 = w := by
  unfold fld
  rw [BitVec.extractLsb'_append_extractLsb'_eq_extractLsb' (by decide), BitVec.extractLsb'_append_extractLsb'_eq_extractLsb' (by decide), BitVec.extractLsb'_append_extractLsb'_eq_extractLsb' (by decide), BitVec.extractLsb'_append_extractLsb'_eq_extractLsb' (by decide)]
  exact BitVec.extractLsb'_eq_self
theorem join_7_6_15_4 (w : W32) : fld w 25 7 ++ fld w 19 6 ++ fld w 4 15 ++ fld w 0 4 = w := by
  unfold fld
  rw [BitVec.extractLsb'_append_extractLsb'_eq_extractLsb' (by decide), BitVec.extractLsb'_append_extractLsb'_eq_extractLsb' (by decide), BitVec.extractLsb'_append_extractLsb'_eq_extractLsb' (by decide)]
  exact BitVec.extractLsb'_eq_self
theorem join_7_6_19 (w : W32) : fld w 25 7 ++ fld w 19 6 ++ fld w 0 19 = w := by
  unfold fld
  rw [BitVec.extractLsb'_append_extractLsb'_eq_extractLsb' (by decide), BitVec.extractLsb'_append_extractLsb'_eq_extractLsb' (by decide)]
  exact BitVec.extractLsb'_eq_self
theorem join_7_9_12_4 (w : W32) : fld w 25 7 ++ fld w 16 9 ++ fld w 4 12 ++ fld w 0 4 = w := by
  unfold fld
  rw [BitVec.extractLsb'_append_extractLsb'_eq_extractLsb' (by decide), BitVec.extractLsb'_append_extractLsb'_eq_extractLsb' (by decide), BitVec.extractLsb'_append_extractLsb'_eq_extractLsb' (by decide)]
  exact BitVec.extractLsb'_eq_self
theorem join_7_10_4_1_2_4_4 (w : W32) : fld w 25 7 ++ fld w 15 10 ++ fld w 11 4 ++ fld w 10 1 ++ fld w 8 2 ++ fld w 4 4 ++ fld w 0 4 = w := by
  unfold fld
  rw [BitVec.extractLsb'_append_extractLsb'_eq_extractLsb' (by decide), BitVec.extractLsb'_append_extractLsb'_eq_extractLsb' (by decide), BitVec.extractLsb'_append_extractLsb'_eq_extractLsb' (by decide), BitVec.extractLsb'_append_extractLsb'_eq_extractLsb' (by decide), BitVec.extractLsb'_append_extractLsb'_eq_extractLsb' (by decide), BitVec.extractLsb'_append_extractLsb'_eq_extractLsb' (by decide)]
  exact BitVec.extractLsb'_eq_self
theorem join_7_10_4_7_4 (w : W32) : fld w 25 7 ++ fld w 15 10 ++ fld w 11 4 ++ fld w 4 7 ++ fld w 0 4 = w := by
  unfold fld
  rw [BitVec.extractLsb'_append_extractLsb'_eq_extractLsb' (by decide), BitVec.extractLsb'_append_extractLsb'_eq_extractLsb' (by decide), BitVec.extractLsb'_append_extractLsb'_eq_extractLsb' (by decide), BitVec.extractLsb'_append_extractLsb'_eq_extractLsb' (by decide)]
  exact BitVec.extractLsb'_eq_self
theorem join_7_14_1_2_4_4 (w : W32) : fld w 25 7 ++ fld w 11 14 ++ fld w 10 1 ++ fld w 8 2 ++ fld w 4 4 ++ fld w 0 4 = w := by
  unfold fld
  rw [BitVec.extractLsb'_append_extractLsb'_eq_extractLsb' (by decide), BitVec.extractLsb'_append_extractLsb'_eq_extractLsb' (by decide), BitVec.extractLsb'_append_extractLsb'_eq_extractLsb' (by decide), BitVec.extractLsb'_append_extractLsb'_eq_extractLsb' (by decide), BitVec.extractLsb'_append_extractLsb'_eq_extractLsb' (by decide)]
  exact BitVec.extractLsb'_eq_self
theorem join_7_15_4_2_4 (w : W32) : fld w 25 7 ++ fld w 10 15 ++ fld w 6 4 ++ fld w 4 2 ++ fld w 0 4 = w := by
  unfold fld
  rw [BitVec.extractLsb'_append_extractLsb'_eq_extractLsb' (by decide), BitVec.extractLsb'_append_extractLsb'_eq_extractLsb' (by decide), BitVec.extractLsb'_append_extractLsb'_eq_extractLsb' (by decide), BitVec.extractLsb'_append_extractLsb'_eq_extractLsb' (by decide)]
  exact BitVec.extractLsb'_eq_self
theorem join_7_16_5_4 (w : W32) : fld w 25 7 ++ fld w 9 16 ++ fld w 4 5 ++ fld w 0 4 = w := by
  unfold fld
  rw [BitVec.extractLsb'_append_extractLsb'_eq_extractLsb' (by decide), BitVec.extractLsb'_append_extractLsb'_eq_extractLsb' (by decide), BitVec.extractLsb'_append_extractLsb'_eq_extractLsb' (by decide)]
  exact BitVec.extractLsb'_eq_self
theorem join_7_19_2_4 (w : W32) : fld w 25 7 ++ fld w 6 19 ++ fld w 4 2 ++ fld w 0 4 = w := by
  unfold fld
  rw [BitVec.extractLsb'_append_extractLsb'_eq_extractLsb' (by decide), BitVec.extractLsb'_append_extractLsb'_eq_extractLsb' (by decide), BitVec.extractLsb'_append_extractLsb'_eq_extractLsb' (by decide)]
  exact BitVec.extractLsb'_eq_self
theorem join_7_21_4 (w : W32) : fld w 25 7 ++ fld w 4 21 ++ fld w 0 4 = w := by
  unfold fld
  rw [BitVec.extractLsb'_append_extractLsb'_eq_extractLsb' (by decide), BitVec.extractLsb'_append_extractLsb'_eq_extractLsb' (by decide)]
  exact BitVec.extractLsb'_eq_self
theorem join_7_25 (w : W32) : fld w 25 7 ++ fld w 0 25 = w := by
  unfold fld
  rw [BitVec.extractLsb'_append_extractLsb'_eq_extractLsb' (by decide)]
  exact BitVec.extractLsb'_eq_self
theorem join_9_17_6 (w : W32) : fld w 23 9 ++ fld w 6 17 ++ fld w 0 6 = w := by
  unfold fld
  rw [BitVec.extractLsb'_append_extractLsb'_eq_extractLsb' (by decide), BitVec.extractLsb'_append_extractLsb'_eq_extractLsb' (by decide)]
  exact BitVec.extractLsb'_eq_self
theorem join_28_4 (w : W32) : fld w 4 28 ++ fld w 0 4 = w := by
  unfold fld
  rw [BitVec.extractLsb'_append_extractLsb'_eq_extractLsb' (by decide)]
  exact BitVec.extractLsb'_eq_self

theorem backA_00 (w x : W32) (i : Instr) (h : fld w 25 7 = 0x00#7) (hd : decodeA w x = .ok i) : Fits .a w x i := by
  rw [opA_00 w x h] at hd
  obtain ⟨hc, rfl⟩ := need_ok hd
  simp only [beq_iff_eq] at hc
  have c0 := hc
  exact ⟨rfl, by have e := join_7_5_5_5_6_4 w; rw [h, c0] at e; exact e, fun t => absurd (show twoSlot .a w = true from t) (by simp [twoSlot, h])⟩
theorem backA_01 (w x : W32) (i : Instr) (h : fld w 25 7 = 0x01#7) (hd : decodeA w x = .ok i) : Fits .a w x i := by
  rw [opA_01 w x h] at hd
  obtain ⟨hc, rfl⟩ := need_ok hd
  simp only [beq_iff_eq] at hc
  have c0 := hc
  exact ⟨rfl, by have e := join_7_5_5_5_6_4 w; rw [h, c0] at e; exact e, fun t => absurd (show twoSlot .a w = true from t) (by simp [twoSlot, h])⟩
theorem backA_02 (w x : W32) (i : Instr) (h : fld w 25 7 = 0x02#7) (hd : decodeA w x = .ok i) : Fits .a w x i := by
  rw [opA_02 w x h] at hd
  obtain ⟨hc, rfl⟩ := need_ok hd
  simp only [beq_iff_eq] at hc
  have c0 := hc
  exact ⟨rfl, by have e := join_7_5_5_5_6_4 w; rw [h, c0] at e; exact e, fun t => absurd (show twoSlot .a w = true from t) (by simp [twoSlot, h])⟩
theorem backA_03 (w x : W32) (i : Instr) (h : fld w 25 7 = 0x03#7) (hd : decodeA w x = .ok i) : Fits .a w x i := by
  rw [opA_03 w x h] at hd
  obtain ⟨hc, rfl⟩ := need_ok hd
  simp only [beq_iff_eq] at hc
  have c0 := hc
  exact ⟨rfl, by have e := join_7_5_5_5_6_4 w; rw [h, c0] at e; exact e, fun t => absurd (show twoSlot .a w = true from t) (by simp [twoSlot, h])⟩
theorem backA_04 (w x : W32) (i : Instr) (h : fld w 25 7 = 0x04#7) (hd : decodeA w x = .ok i) : Fits .a w x i := by
  rw [opA_04 w x h] at hd
  obtain ⟨hc, rfl⟩ := need_ok hd
  simp only [beq_iff_eq] at hc
  have c0 := hc
  exact ⟨rfl, by have e := join_7_5_5_5_4_2_4 w; rw [h, c0] at e; exact e, fun t => absurd (show twoSlot .a w = true from t) (by simp [twoSlot, h])⟩
theorem backA_05 (w x : W32) (i : Instr) (h : fld w 25 7 = 0x05#7) (hd : decodeA w x = .ok i) : Fits .a w x i := by
  rw [opA_05 w x h] at hd
  obtain ⟨hc, rfl⟩ := need_ok hd
  simp only [beq_iff_eq] at hc
  have c0 := hc
  exact ⟨rfl, by have e := join_7_5_5_5_4_2_4 w; rw [h, c0] at e; exact e, fun t => absurd (show twoSlot .a w = true from t) (by simp [twoSlot, h])⟩
theorem backA_06 (w x : W32) (i : Instr) (h : fld w 25 7 = 0x06#7) (hd : decodeA w x = .ok i) : Fits .a w x i := by
  rw [opA_06 w x h] at hd
  obtain ⟨hc, rfl⟩ := need_ok hd
  simp only [beq_iff_eq] at hc
  have c0 := hc
  exact ⟨rfl, by have e := join_7_5_5_5_4_2_4 w; rw [h, c0] at e; exact e, fun t => absurd (show twoSlot .a w = true from t) (by simp [twoSlot, h])⟩
theorem backA_07 (w x : W32) (i : Instr) (h : fld w 25 7 = 0x07#7) (hd : decodeA w x = .ok i) : Fits .a w x i := by
  rw [opA_07 w x h] at hd
  obtain ⟨hc, rfl⟩ := need_ok hd
  simp only [beq_iff_eq] at hc
  have c0 := hc
  exact ⟨rfl, by have e := join_7_5_5_5_4_2_4 w; rw [h, c0] at e; exact e, fun t => absurd (show twoSlot .a w = true from t) (by simp [twoSlot, h])⟩
theorem backA_08 (w x : W32) (i : Instr) (h : fld w 25 7 = 0x08#7) (hd : decodeA w x = .ok i) : Fits .a w x i := by
  rw [opA_08 w x h] at hd
  obtain ⟨hc, rfl⟩ := need_ok hd
  simp only [beq_iff_eq] at hc
  have c0 := hc
  exact ⟨rfl, by have e := join_7_5_5_5_6_4 w; rw [h, c0] at e; exact e, fun t => absurd (show twoSlot .a w = true from t) (by simp [twoSlot, h])⟩
theorem backA_09 (w x : W32) (i : Instr) (h : fld w 25 7 = 0x09#7) (hd : decodeA w x = .ok i) : Fits .a w x i := by
  rw [opA_09 w x h] at hd
  obtain ⟨hc, rfl⟩ := need_ok hd
  simp only [beq_iff_eq] at hc
  have c0 := hc
  exact ⟨rfl, by have e := join_7_5_5_5_6_4 w; rw [h, c0] at e; exact e, fun t => absurd (show twoSlot .a w = true from t) (by simp [twoSlot, h])⟩
theorem backA_0a (w x : W32) (i : Instr) (h : fld w 25 7 = 0x0a#7) (hd : decodeA w x = .ok i) : Fits .a w x i := by
  rw [opA_0a w x h] at hd
  obtain ⟨hc, rfl⟩ := need_ok hd
  simp only [beq_iff_eq] at hc
  have c0 := hc
  exact ⟨rfl, by have e := join_7_5_5_5_6_4 w; rw [h, c0] at e; exact e, fun t => absurd (show twoSlot .a w = true from t) (by simp [twoSlot, h])⟩
theorem backA_0b (w x : W32) (i : Instr) (h : fld w 25 7 = 0x0b#7) (hd : decodeA w x = .ok i) : Fits .a w x i := by
  rw [opA_0b w x h] at hd
  obtain ⟨hc, rfl⟩ := need_ok hd
  simp only [beq_iff_eq] at hc
  have c0 := hc
  exact ⟨rfl, by have e := join_7_5_5_5_6_4 w; rw [h, c0] at e; exact e, fun t => absurd (show twoSlot .a w = true from t) (by simp [twoSlot, h])⟩
theorem backA_0c (w x : W32) (i : Instr) (h : fld w 25 7 = 0x0c#7) (hd : decodeA w x = .ok i) : Fits .a w x i := by
  rw [opA_0c w x h] at hd
  obtain ⟨hc, rfl⟩ := need_ok hd
  simp only [beq_iff_eq] at hc
  have c0 := hc
  exact ⟨rfl, by have e := join_7_5_5_5_6_4 w; rw [h, c0] at e; exact e, fun t => absurd (show twoSlot .a w = true from t) (by simp [twoSlot, h])⟩
theorem backA_0d (w x : W32) (i : Instr) (h : fld w 25 7 = 0x0d#7) (hd : decodeA w x = .ok i) : Fits .a w x i := by
  rw [opA_0d w x h] at hd
  obtain ⟨hc, rfl⟩ := need_ok hd
  simp only [beq_iff_eq] at hc
  have c0 := hc
  exact ⟨rfl, by have e := join_7_5_5_5_6_4 w; rw [h, c0] at e; exact e, fun t => absurd (show twoSlot .a w = true from t) (by simp [twoSlot, h])⟩
theorem backA_0e (w x : W32) (i : Instr) (h : fld w 25 7 = 0x0e#7) (hd : decodeA w x = .ok i) : Fits .a w x i := by
  rw [opA_0e w x h] at hd
  obtain ⟨hc, rfl⟩ := need_ok hd
  simp only [beq_iff_eq] at hc
  have c0 := hc
  exact ⟨rfl, by have e := join_7_5_5_5_6_4 w; rw [h, c0] at e; exact e, fun t => absurd (show twoSlot .a w = true from t) (by simp [twoSlot, h])⟩
theorem backA_0f (w x : W32) (i : Instr) (h : fld w 25 7 = 0x0f#7) (hd : decodeA w x = .ok i) : Fits .a w x i := by
  rw [opA_0f w x h] at hd
  obtain ⟨hc, rfl⟩ := need_ok hd
  simp only [beq_iff_eq] at hc
  have c0 := hc
  exact ⟨rfl, by have e := join_7_5_5_5_6_4 w; rw [h, c0] at e; exact e, fun t => absurd (show twoSlot .a w = true from t) (by simp [twoSlot, h])⟩
theorem backA_10 (w x : W32) (i : Instr) (h : fld w 25 7 = 0x10#7) (hd : decodeA w x = .ok i) : Fits .a w x i := by
  rw [opA_10 w x h] at hd
  obtain ⟨hc, rfl⟩ := need_ok hd
  simp only [beq_iff_eq] at hc
  have c0 := hc
  exact ⟨rfl, by have e := join_7_5_5_5_6_4 w; rw [h, c0] at e; exact e, fun t => absurd (show twoSlot .a w = true from t) (by simp [twoSlot, h])⟩
theorem backA_11 (w x : W32) (i : Instr) (h : fld w 25 7 = 0x11#7) (hd : decodeA w x = .ok i) : Fits .a w x i := by
  rw [opA_11 w x h] at hd
  obtain ⟨hc, rfl⟩ := need_ok hd
  simp only [beq_iff_eq] at hc
  have c0 := hc
  exact ⟨rfl, by have e := join_7_5_5_5_6_4 w; rw [h, c0] at e; exact e, fun t => absurd (show twoSlot .a w = true from t) (by simp [twoSlot, h])⟩
theorem backA_12 (w x : W32) (i : Instr) (h : fld w 25 7 = 0x12#7) (hd : decodeA w x = .ok i) : Fits .a w x i := by
  rw [opA_12 w x h] at hd
  obtain ⟨hc, rfl⟩ := need_ok hd
  simp only [beq_iff_eq] at hc
  have c0 := hc
  exact ⟨rfl, by have e := join_7_5_5_5_6_4 w; rw [h, c0] at e; exact e, fun t => absurd (show twoSlot .a w = true from t) (by simp [twoSlot, h])⟩
theorem backA_13 (w x : W32) (i : Instr) (h : fld w 25 7 = 0x13#7) (hd : decodeA w x = .ok i) : Fits .a w x i := by
  rw [opA_13 w x h] at hd
  obtain ⟨hc, rfl⟩ := need_ok hd
  simp only [beq_iff_eq] at hc
  have c0 := hc
  exact ⟨rfl, by have e := join_7_5_5_5_6_4 w; rw [h, c0] at e; exact e, fun t => absurd (show twoSlot .a w = true from t) (by simp [twoSlot, h])⟩
theorem backA_14 (w x : W32) (i : Instr) (h : fld w 25 7 = 0x14#7) (hd : decodeA w x = .ok i) : Fits .a w x i := by
  rw [opA_14 w x h] at hd
  obtain ⟨hc, rfl⟩ := need_ok hd
  simp only [beq_iff_eq] at hc
  have c0 := hc
  exact ⟨rfl, by have e := join_7_5_5_5_6_4 w; rw [h, c0] at e; exact e, fun t => absurd (show twoSlot .a w = true from t) (by simp [twoSlot, h])⟩
theorem backA_15 (w x : W32) (i : Instr) (h : fld w 25 7 = 0x15#7) (hd : decodeA w x = .ok i) : Fits .a w x i := by
  rw [opA_15 w x h] at hd
  rcases pick_ok hd with ⟨hc, hs, rfl⟩ | ⟨hc, hs, rfl⟩
  · simp only [Bool.and_eq_true, beq_iff_eq] at hc
    obtain ⟨c0, c1⟩ := hc
    exact ⟨rfl, by have e := join_7_5_5_5_4_2_4 w; rw [h, c0, c1, hs] at e; exact e, fun t => absurd (show twoSlot .a w = true from t) (by simp [twoSlot, h])⟩
  · simp only [Bool.and_eq_true, beq_iff_eq] at hc
    obtain ⟨c0, c1⟩ := hc
    exact ⟨rfl, by have e := join_7_5_5_5_4_2_4 w; rw [h, c0, c1, hs] at e; exact e, fun t => absurd (show twoSlot .a w = true from t) (by simp [twoSlot, h])⟩
theorem backA_16 (w x : W32) (i : Instr) (h : fld w 25 7 = 0x16#7) (hd : decodeA w x = .ok i) : Fits .a w x i := by
  rw [opA_16 w x h] at hd
  injection hd with hd
  subst hd
  exact ⟨rfl, by have e := join_7_5_5_11_4 w; rw [h] at e; exact e, fun t => absurd (show twoSlot .a w = true from t) (by simp [twoSlot, h])⟩
theorem backA_17 (w x : W32) (i : Instr) (h : fld w 25 7 = 0x17#7) (hd : decodeA w x = .ok i) : Fits .a w x i := by
  rw [opA_17 w x h] at hd
  injection hd with hd
  subst hd
  exact ⟨rfl, by have e := join_7_5_5_11_4 w; rw [h] at e; exact e, fun t => absurd (show twoSlot .a w = true from t) (by simp [twoSlot, h])⟩
theorem backA_18 (w x : W32) (i : Instr) (h : fld w 25 7 = 0x18#7) (hd : decodeA w x = .ok i) : Fits .a w x i := by
  rw [opA_18 w x h] at hd
  injection hd with hd
  subst hd
  exact ⟨rfl, by have e := join_7_5_5_11_4 w; rw [h] at e; exact e, fun t => absurd (show twoSlot .a w = true from t) (by simp [twoSlot, h])⟩
theorem backA_19 (w x : W32) (i : Instr) (h : fld w 25 7 = 0x19#7) (hd : decodeA w x = .ok i) : Fits .a w x i := by
  rw [opA_19 w x h] at hd
  injection hd with hd
  subst hd
  exact ⟨rfl, by have e := join_7_5_5_11_4 w; rw [h] at e; exact e, fun t => absurd (show twoSlot .a w = true from t) (by simp [twoSlot, h])⟩
theorem backA_1a (w x : W32) (i : Instr) (h : fld w 25 7 = 0x1a#7) (hd : decodeA w x = .ok i) : Fits .a w x i := by
  rw [opA_1a w x h] at hd
  injection hd with hd
  subst hd
  exact ⟨rfl, by have e := join_7_5_5_11_4 w; rw [h] at e; exact e, fun t => absurd (show twoSlot .a w = true from t) (by simp [twoSlot, h])⟩
theorem backA_1b (w x : W32) (i : Instr) (h : fld w 25 7 = 0x1b#7) (hd : decodeA w x = .ok i) : Fits .a w x i := by
  rw [opA_1b w x h] at hd
  injection hd with hd
  subst hd
  exact ⟨rfl, by have e := join_7_5_5_11_4 w; rw [h] at e; exact e, fun t => absurd (show twoSlot .a w = true from t) (by simp [twoSlot, h])⟩
theorem backA_1c (w x : W32) (i : Instr) (h : fld w 25 7 = 0x1c#7) (hd : decodeA w x = .ok i) : Fits .a w x i := by
  rw [opA_1c w x h] at hd
  injection hd with hd
  subst hd
  exact ⟨rfl, by have e := join_7_5_5_11_4 w; rw [h] at e; exact e, fun t => absurd (show twoSlot .a w = true from t) (by simp [twoSlot, h])⟩
theorem backA_1d (w x : W32) (i : Instr) (h : fld w 25 7 = 0x1d#7) (hd : decodeA w x = .ok i) : Fits .a w x i := by
  rw [opA_1d w x h] at hd
  injection hd with hd
  subst hd
  exact ⟨rfl, by have e := join_7_5_5_11_4 w; rw [h] at e; exact e, fun t => absurd (show twoSlot .a w = true from t) (by simp [twoSlot, h])⟩
theorem backA_1e (w x : W32) (i : Instr) (h : fld w 25 7 = 0x1e#7) (hd : decodeA w x = .ok i) : Fits .a w x i := by
  rw [opA_1e w x h] at hd
  injection hd with hd
  subst hd
  exact ⟨rfl, by have e := join_7_5_16_4 w; rw [h] at e; exact e, fun t => absurd (show twoSlot .a w = true from t) (by simp [twoSlot, h])⟩
theorem backA_1f (w x : W32) (i : Instr) (h : fld w 25 7 = 0x1f#7) (hd : decodeA w x = .ok i) : Fits .a w x i := by
  rw [opA_1f w x h] at hd
  obtain ⟨hc, rfl⟩ := need_ok hd
  simp only [beq_iff_eq] at hc
  have c0 := hc
  exact ⟨rfl, by have e := join_7_5_16_4 w; rw [h, c0] at e; exact e, fun _ => rfl⟩
theorem backA_20 (w x : W32) (i : Instr) (h : fld w 25 7 = 0x20#7) (hd : decodeA w x = .ok i) : Fits .a w x i := by
  rw [opA_20 w x h] at hd
  obtain ⟨hc, rfl⟩ := need_ok hd
  simp only [Bool.and_eq_true, beq_iff_eq] at hc
  obtain ⟨⟨c0, c1⟩, c2⟩ := hc
  exact ⟨rfl, by have e := join_7_3_2_5_5_6_4 w; rw [h, c0, c1] at e; exact e, fun _ => by have e := join_28_4 x; rw [c2] at e; exact e⟩
theorem backA_21 (w x : W32) (i : Instr) (h : fld w 25 7 = 0x21#7) (hd : decodeA w x = .ok i) : Fits .a w x i := by
  rw [opA_21 w x h] at hd
  obtain ⟨hc, rfl⟩ := need_ok hd
  simp only [Bool.and_eq_true, beq_iff_eq] at hc
  obtain ⟨c0, c1⟩ := hc
  exact ⟨rfl, by have e := join_7_21_4 w; rw [h, c0] at e; exact e, fun _ => by have e := join_28_4 x; rw [c1] at e; exact e⟩
theorem backA_22 (w x : W32) (i : Instr) (h : fld w 25 7 = 0x22#7) (hd : decodeA w x = .ok i) : Fits .a w x i := by
  rw [opA_22 w x h] at hd
  obtain ⟨hc, rfl⟩ := need_ok hd
  simp only [Bool.and_eq_true, beq_iff_eq] at hc
  obtain ⟨c0, c1⟩ := hc
  exact ⟨rfl, by have e := join_7_21_4 w; rw [h, c0] at e; exact e, fun _ => by have e := join_28_4 x; rw [c1] at e; exact e⟩
theorem backA_23 (w x : W32) (i : Instr) (h : fld w 25 7 = 0x23#7) (hd : decodeA w x = .ok i) : Fits .a w x i := by
  rw [opA_23 w x h] at hd
  obtain ⟨hc, rfl⟩ := need_ok hd
  simp only [beq_iff_eq] at hc
  have c0 := hc
  exact ⟨rfl, by have e := join_7_21_4 w; rw [h, c0] at e; exact e, fun t => absurd (show twoSlot .a w = true from t) (by simp [twoSlot, h])⟩
theorem backA_24 (w x : W32) (i : Instr) (h : fld w 25 7 = 0x24#7) (hd : decodeA w x = .ok i) : Fits .a w x i := by
  rw [opA_24 w x h] at hd
  obtain ⟨hc, rfl⟩ := need_ok hd
  simp only [Bool.and_eq_true, beq_iff_eq] at hc
  obtain ⟨⟨c0, c1⟩, c2⟩ := hc
  exact ⟨rfl, by have e := join_7_3_2_5_11_4 w; rw [h, c0, c1] at e; exact e, fun _ => by have e := join_28_4 x; rw [c2] at e; exact e⟩
theorem backA_25 (w x : W32) (i : Instr) (h : fld w 25 7 = 0x25#7) (hd : decodeA w x = .ok i) : Fits .a w x i := by
  rw [opA_25 w x h] at hd
  obtain ⟨hc, rfl⟩ := need_ok hd
  simp only [beq_iff_eq] at hc
  have c0 := hc
  exact ⟨rfl, by have e := join_7_5_16_4 w; rw [h, c0] at e; exact e, fun t => absurd (show twoSlot .a w = true from t) (by simp [twoSlot, h])⟩
theorem backA_26 (w x : W32) (i : Instr) (h : fld w 25 7 = 0x26#7) (hd : decodeA w x = .ok i) : Fits .a w x i := by
  rw [opA_26 w x h] at hd
  obtain ⟨hc, rfl⟩ := need_ok hd
  simp only [Bool.and_eq_true, beq_iff_eq] at hc
  obtain ⟨c0, c1⟩ := hc
  exact ⟨rfl, by have e := join_7_5_5_11_4 w; rw [h, c0, c1] at e; exact e, fun t => absurd (show twoSlot .a w = true from t) (by simp [twoSlot, h])⟩
theorem backA_27 (w x : W32) (i : Instr) (h : fld w 25 7 = 0x27#7) (hd : decodeA w x = .ok i) : Fits .a w x i := by
  rw [opA_27 w x h] at hd
  obtain ⟨hc, rfl⟩ := need_ok hd
  simp only [beq_iff_eq] at hc
  have c0 := hc
  exact ⟨rfl, by have e := join_7_21_4 w; rw [h, c0] at e; exact e, fun t => absurd (show twoSlot .a w = true from t) (by simp [twoSlot, h])⟩
theorem backA_28 (w x : W32) (i : Instr) (h : fld w 25 7 = 0x28#7) (hd : decodeA w x = .ok i) : Fits .a w x i := by
  rw [opA_28 w x h] at hd
  obtain ⟨hc, rfl⟩ := need_ok hd
  simp only [beq_iff_eq] at hc
  have c0 := hc
  exact ⟨rfl, by have e := join_7_21_4 w; rw [h, c0] at e; exact e, fun t => absurd (show twoSlot .a w = true from t) (by simp [twoSlot, h])⟩
theorem backA_30 (w x : W32) (i : Instr) (h : fld w 25 7 = 0x30#7) (hd : decodeA w x = .ok i) : Fits .a w x i := by
  rw [opA_30 w x h] at hd
  injection hd with hd
  subst hd
  exact ⟨rfl, by have e := join_7_5_5_2_1_2_4_2_4 w; rw [h] at e; exact e, fun t => absurd (show twoSlot .a w = true from t) (by simp [twoSlot, h])⟩
theorem backA_31 (w x : W32) (i : Instr) (h : fld w 25 7 = 0x31#7) (hd : decodeA w x = .ok i) : Fits .a w x i := by
  rw [opA_31 w x h] at hd
  obtain ⟨hc, rfl⟩ := need_ok hd
  simp only [beq_iff_eq] at hc
  have c0 := hc
  exact ⟨rfl, by have e := join_7_5_5_2_1_2_4_2_4 w; rw [h, c0] at e; exact e, fun t => absurd (show twoSlot .a w = true from t) (by simp [twoSlot, h])⟩
theorem backA_32 (w x : W32) (i : Instr) (h : fld w 25 7 = 0x32#7) (hd : decodeA w x = .ok i) : Fits .a w x i := by
  rw [opA_32 w x h] at hd
  obtain ⟨hc, rfl⟩ := need_ok hd
  simp only [beq_iff_eq] at hc
  have c0 := hc
  exact ⟨rfl, by have e := join_7_5_5_2_1_8_4 w; rw [h, c0] at e; exact e, fun t => absurd (show twoSlot .a w = true from t) (by simp [twoSlot, h])⟩
theorem backA_33 (w x : W32) (i : Instr) (h : fld w 25 7 = 0x33#7) (hd : decodeA w x = .ok i) : Fits .a w x i := by
  rw [opA_33 w x h] at hd
  obtain ⟨hc, rfl⟩ := need_ok hd
  simp only [beq_iff_eq] at hc
  have c0 := hc
  exact ⟨rfl, by have e := join_7_5_5_2_9_4 w; rw [h, c0] at e; exact e, fun t => absurd (show twoSlot .a w = true from t) (by simp [twoSlot, h])⟩
theorem backA_34 (w x : W32) (i : Instr) (h : fld w 25 7 = 0x34#7) (hd : decodeA w x = .ok i) : Fits .a w x i := by
  rw [opA_34 w x h] at hd
  obtain ⟨hc, rfl⟩ := need_ok hd
  simp only [Bool.and_eq_true, beq_iff_eq] at hc
  obtain ⟨c0, c1⟩ := hc
  exact ⟨rfl, by have e := join_7_6_5_1_3_4_2_4 w; rw [h, c0, c1] at e; exact e, fun t => absurd (show twoSlot .a w = true from t) (by simp [twoSlot, h])⟩
theorem backA_35 (w x : W32) (i : Instr) (h : fld w 25 7 = 0x35#7) (hd : decodeA w x = .ok i) : Fits .a w x i := by
  rw [opA_35 w x h] at hd
  obtain ⟨hc, rfl⟩ := need_ok hd
  simp only [Bool.and_eq_true, beq_iff_eq] at hc
  obtain ⟨c0, c1⟩ := hc
  exact ⟨rfl, by have e := join_7_6_5_1_3_4_2_4 w; rw [h, c0, c1] at e; exact e, fun t => absurd (show twoSlot .a w = true from t) (by simp [twoSlot, h])⟩
theorem backA_36 (w x : W32) (i : Instr) (h : fld w 25 7 = 0x36#7) (hd : decodeA w x = .ok i) : Fits .a w x i := by
  rw [opA_36 w x h] at hd
  obtain ⟨hc, rfl⟩ := need_ok hd
  simp only [Bool.and_eq_true, beq_iff_eq] at hc
  obtain ⟨⟨c0, c1⟩, c2⟩ := hc
  exact ⟨rfl, by have e := join_7_6_5_4_4_2_4 w; rw [h, c0, c1, c2] at e; exact e, fun t => absurd (show twoSlot .a w = true from t) (by simp [twoSlot, h])⟩
theorem backA_37 (w x : W32) (i : Instr) (h : fld w 25 7 = 0x37#7) (hd : decodeA w x = .ok i) : Fits .a w x i := by
  rw [opA_37 w x h] at hd
  obtain ⟨hc, rfl⟩ := need_ok hd
  simp only [beq_iff_eq] at hc
  have c0 := hc
  exact ⟨rfl, by have e := join_7_21_4 w; rw [h, c0] at e; exact e, fun t => absurd (show twoSlot .a w = true from t) (by simp [twoSlot, h])⟩
theorem backA_38 (w x : W32) (i : Instr) (h : fld w 25 7 = 0x38#7) (hd : decodeA w x = .ok i) : Fits .a w x i := by
  rw [opA_38 w x h] at hd
  obtain ⟨hc, rfl⟩ := need_ok hd
  simp only [beq_iff_eq] at hc
  have c0 := hc
  exact ⟨rfl, by have e := join_7_19_2_4 w; rw [h, c0] at e; exact e, fun t => absurd (show twoSlot .a w = true from t) (by simp [twoSlot, h])⟩
theorem backA_39 (w x : W32) (i : Instr) (h : fld w 25 7 = 0x39#7) (hd : decodeA w x = .ok i) : Fits .a w x i := by
  rw [opA_39 w x h] at hd
  obtain ⟨hc, rfl⟩ := need_ok hd
  simp only [beq_iff_eq] at hc
  have c0 := hc
  exact ⟨rfl, by have e := join_7_15_4_2_4 w; rw [h, c0] at e; exact e, fun t => absurd (show twoSlot .a w = true from t) (by simp [twoSlot, h])⟩
theorem backA_3a (w x : W32) (i : Instr) (h : fld w 25 7 = 0x3a#7) (hd : decodeA w x = .ok i) : Fits .a w x i := by
  rw [opA_3a w x h] at hd
  injection hd with hd
  subst hd
  exact ⟨rfl, by have e := join_7_5_5_5_4_2_4 w; rw [h] at e; exact e, fun t => absurd (show twoSlot .a w = true from t) (by simp [twoSlot, h])⟩
theorem backA_3b (w x : W32) (i : Instr) (h : fld w 25 7 = 0x3b#7) (hd : decodeA w x = .ok i) : Fits .a w x i := by
  rw [opA_3b w x h] at hd
  injection hd with hd
  subst hd
  exact ⟨rfl, by have e := join_7_5_5_5_4_2_4 w; rw [h] at e; exact e, fun t => absurd (show twoSlot .a w = true from t) (by simp [twoSlot, h])⟩
theorem backA_48 (w x : W32) (i : Instr) (h : fld w 25 7 = 0x48#7) (hd : decodeA w x = .ok i) : Fits .a w x i := by
  rw [opA_48 w x h] at hd
  obtain ⟨hc, rfl⟩ := need_ok hd
  simp only [Bool.and_eq_true, beq_iff_eq] at hc
  obtain ⟨c0, c1⟩ := hc
  exact ⟨rfl, by have e := join_7_5_5_5_4_2_4 w; rw [h, c0] at e; exact e, fun _ => by have e := join_5_3_1_1_22 x; rw [c1] at e; exact e⟩
theorem backA_49 (w x : W32) (i : Instr) (h : fld w 25 7 = 0x49#7) (hd : decodeA w x = .ok i) : Fits .a w x i := by
  rw [opA_49 w x h] at hd
  obtain ⟨hc, rfl⟩ := need_ok hd
  simp only [Bool.and_eq_true, beq_iff_eq] at hc
  obtain ⟨c0, c1⟩ := hc
  exact ⟨rfl, by have e := join_7_5_10_4_2_4 w; rw [h, c0, c1] at e; exact e, fun t => absurd (show twoSlot .a w = true from t) (by simp [twoSlot, h])⟩
theorem backA_58 (w x : W32) (i : Instr) (h : fld w 25 7 = 0x58#7) (hd : decodeA w x = .ok i) : Fits .a w x i := by
  rw [opA_58 w x h] at hd
  injection hd with hd
  subst hd
  exact ⟨rfl, by have e := join_7_5_5_4_1_2_4_4 w; rw [h] at e; exact e, fun t => absurd (show twoSlot .a w = true from t) (by simp [twoSlot, h])⟩
theorem backA_59 (w x : W32) (i : Instr) (h : fld w 25 7 = 0x59#7) (hd : decodeA w x = .ok i) : Fits .a w x i := by
  rw [opA_59 w x h] at hd
  injection hd with hd
  subst hd
  exact ⟨rfl, by have e := join_7_5_5_4_1_2_4_4 w; rw [h] at e; exact e, fun t => absurd (show twoSlot .a w = true from t) (by simp [twoSlot, h])⟩
theorem backA_5a (w x : W32) (i : Instr) (h : fld w 25 7 = 0x5a#7) (hd : decodeA w x = .ok i) : Fits .a w x i := by
  rw [opA_5a w x h] at hd
  obtain ⟨hc, rfl⟩ := need_ok hd
  simp only [beq_iff_eq] at hc
  have c0 := hc
  exact ⟨rfl, by have e := join_7_10_4_1_2_4_4 w; rw [h, c0] at e; exact e, fun t => absurd (show twoSlot .a w = true from t) (by simp [twoSlot, h])⟩
theorem backA_5b (w x : W32) (i : Instr) (h : fld w 25 7 = 0x5b#7) (hd : decodeA w x = .ok i) : Fits .a w x i := by
  rw [opA_5b w x h] at hd
  obtain ⟨hc, rfl⟩ := need_ok hd
  simp only [beq_iff_eq] at hc
  have c0 := hc
  exact ⟨rfl, by have e := join_7_5_5_4_1_2_4_4 w; rw [h, c0] at e; exact e, fun t => absurd (show twoSlot .a w = true from t) (by simp [twoSlot, h])⟩
theorem backA_5c (w x : W32) (i : Instr) (h : fld w 25 7 = 0x5c#7) (hd : decodeA w x = .ok i) : Fits .a w x i := by
  rw [opA_5c w x h] at hd
  injection hd with hd
  subst hd
  exact ⟨rfl, by have e := join_7_5_5_4_1_2_4_4 w; rw [h] at e; exact e, fun t => absurd (show twoSlot .a w = true from t) (by simp [twoSlot, h])⟩
theorem backA_5d (w x : W32) (i : Instr) (h : fld w 25 7 = 0x5d#7) (hd : decodeA w x = .ok i) : Fits .a w x i := by
  rw [opA_5d w x h] at hd
  injection hd with hd
  subst hd
  exact ⟨rfl, by have e := join_7_5_5_4_1_2_4_4 w; rw [h] at e; exact e, fun t => absurd (show twoSlot .a w = true from t) (by simp [twoSlot, h])⟩
theorem backA_5e (w x : W32) (i : Instr) (h : fld w 25 7 = 0x5e#7) (hd : decodeA w x = .ok i) : Fits .a w x i := by
  rw [opA_5e w x h] at hd
  obtain ⟨hc, rfl⟩ := need_ok hd
  simp only [beq_iff_eq] at hc
  have c0 := hc
  exact ⟨rfl, by have e := join_7_5_5_4_1_2_4_4 w; rw [h, c0] at e; exact e, fun t => absurd (show twoSlot .a w = true from t) (by simp [twoSlot, h])⟩
theorem backA_5f (w x : W32) (i : Instr) (h : fld w 25 7 = 0x5f#7) (hd : decodeA w x = .ok i) : Fits .a w x i := by
  rw [opA_5f w x h] at hd
  injection hd with hd
  subst hd
  exact ⟨rfl, by have e := join_7_5_5_4_1_2_4_4 w; rw [h] at e; exact e, fun t => absurd (show twoSlot .a w = true from t) (by simp [twoSlot, h])⟩
theorem backA_60 (w x : W32) (i : Instr) (h : fld w 25 7 = 0x60#7) (hd : decodeA w x = .ok i) : Fits .a w x i := by
  rw [opA_60 w x h] at hd
  obtain ⟨hc, rfl⟩ := need_ok hd
  simp only [beq_iff_eq] at hc
  have c0 := hc
  exact ⟨rfl, by have e := join_7_5_5_4_1_2_4_4 w; rw [h, c0] at e; exact e, fun t => absurd (show twoSlot .a w = true from t) (by simp [twoSlot, h])⟩
theorem backA_61 (w x : W32) (i : Instr) (h : fld w 25 7 = 0x61#7) (hd : decodeA w x = .ok i) : Fits .a w x i := by
  rw [opA_61 w x h] at hd
  obtain ⟨hc, rfl⟩ := need_ok hd
  simp only [beq_iff_eq] at hc
  have c0 := hc
  exact ⟨rfl, by have e := join_7_10_4_1_2_4_4 w; rw [h, c0] at e; exact e, fun t => absurd (show twoSlot .a w = true from t) (by simp [twoSlot, h])⟩
theorem backA_63 (w x : W32) (i : Instr) (h : fld w 25 7 = 0x63#7) (hd : decodeA w x = .ok i) : Fits .a w x i := by
  rw [opA_63 w x h] at hd
  obtain ⟨hc, rfl⟩ := need_ok hd
  simp only [Bool.and_eq_true, beq_iff_eq] at hc
  obtain ⟨c0, c1⟩ := hc
  exact ⟨rfl, by have e := join_7_5_5_4_1_2_4_4 w; rw [h] at e; exact e, fun _ => by have e := join_9_17_6 x; rw [c0, c1] at e; exact e⟩
theorem backA_64 (w x : W32) (i : Instr) (h : fld w 25 7 = 0x64#7) (hd : decodeA w x = .ok i) : Fits .a w x i := by
  rw [opA_64 w x h] at hd
  obtain ⟨hc, rfl⟩ := need_ok hd
  simp only [beq_iff_eq] at hc
  have c0 := hc
  exact ⟨rfl, by have e := join_7_10_4_1_2_4_4 w; rw [h, c0] at e; exact e, fun t => absurd (show twoSlot .a w = true from t) (by simp [twoSlot, h])⟩
theorem backA_67 (w x : W32) (i : Instr) (h : fld w 25 7 = 0x67#7) (hd : decodeA w x = .ok i) : Fits .a w x i := by
  rw [opA_67 w x h] at hd
  injection hd with hd
  subst hd
  exact ⟨rfl, by have e := join_7_5_5_4_1_2_4_4 w; rw [h] at e; exact e, fun t => absurd (show twoSlot .a w = true from t) (by simp [twoSlot, h])⟩
theorem backA_68 (w x : W32) (i : Instr) (h : fld w 25 7 = 0x68#7) (hd : decodeA w x = .ok i) : Fits .a w x i := by
  rw [opA_68 w x h] at hd
  injection hd with hd
  subst hd
  exact ⟨rfl, by have e := join_7_5_5_4_1_2_4_4 w; rw [h] at e; exact e, fun t => absurd (show twoSlot .a w = true from t) (by simp [twoSlot, h])⟩
theorem backA_69 (w x : W32) (i : Instr) (h : fld w 25 7 = 0x69#7) (hd : decodeA w x = .ok i) : Fits .a w x i := by
  rw [opA_69 w x h] at hd
  injection hd with hd
  subst hd
  exact ⟨rfl, by have e := join_7_5_5_4_1_2_4_4 w; rw [h] at e; exact e, fun t => absurd (show twoSlot .a w = true from t) (by simp [twoSlot, h])⟩
theorem backA_62 (w x : W32) (i : Instr) (h : fld w 25 7 = 0x62#7) (hd : decodeA w x = .ok i) : Fits .a w x i := by
  rw [opA_62 w x h] at hd
  obtain ⟨hc, rfl⟩ := need_ok hd
  simp only [beq_iff_eq] at hc
  have c0 := hc
  exact ⟨rfl, by have e := join_7_21_4 w; rw [h, c0] at e; exact e, fun t => absurd (show twoSlot .a w = true from t) (by simp [twoSlot, h])⟩
theorem backA_65 (w x : W32) (i : Instr) (h : fld w 25 7 = 0x65#7) (hd : decodeA w x = .ok i) : Fits .a w x i := by
  rw [opA_65 w x h] at hd
  obtain ⟨hc, rfl⟩ := need_ok hd
  simp only [Bool.and_eq_true, beq_iff_eq] at hc
  obtain ⟨⟨c0, c1⟩, c2⟩ := hc
  exact ⟨rfl, by have e := join_7_14_1_2_4_4 w; rw [h, c0, c2, c1] at e; exact e, fun t => absurd (show twoSlot .a w = true from t) (by simp [twoSlot, h])⟩
theorem backA_66 (w x : W32) (i : Instr) (h : fld w 25 7 = 0x66#7) (hd : decodeA w x = .ok i) : Fits .a w x i := by
  rw [opA_66 w x h] at hd
  obtain ⟨hc, rfl⟩ := need_ok hd
  simp only [Bool.and_eq_true, beq_iff_eq] at hc
  obtain ⟨c0, c1⟩ := hc
  exact ⟨rfl, by have e := join_7_10_4_7_4 w; rw [h, c0, c1] at e; exact e, fun t => absurd (show twoSlot .a w = true from t) (by simp [twoSlot, h])⟩
theorem backA_6a (w x : W32) (i : Instr) (h : fld w 25 7 = 0x6a#7) (hd : decodeA w x = .ok i) : Fits .a w x i := by
  rw [opA_6a w x h] at hd
  obtain ⟨hc, rfl⟩ := need_ok hd
  simp only [Bool.and_eq_true, beq_iff_eq] at hc
  obtain ⟨⟨c0, c1⟩, c2⟩ := hc
  exact ⟨rfl, by have e := join_7_5_5_5_4_2_4 w; rw [h, c0, c1, c2] at e; exact e, fun t => absurd (show twoSlot .a w = true from t) (by simp [twoSlot, h])⟩
theorem backA_70 (w x : W32) (i : Instr) (h : fld w 25 7 = 0x70#7) (hd : decodeA w x = .ok i) : Fits .a w x i := by
  rw [opA_70 w x h] at hd
  injection hd with hd
  subst hd
  exact ⟨rfl, by have e := join_7_5_5_11_4 w; rw [h] at e; exact e, fun t => absurd (show twoSlot .a w = true from t) (by simp [twoSlot, h])⟩
theorem backA_71 (w x : W32) (i : Instr) (h : fld w 25 7 = 0x71#7) (hd : decodeA w x = .ok i) : Fits .a w x i := by
  rw [opA_71 w x h] at hd
  injection hd with hd
  subst hd
  exact ⟨rfl, by have e := join_7_5_5_11_4 w; rw [h] at e; exact e, fun t => absurd (show twoSlot .a w = true from t) (by simp [twoSlot, h])⟩
theorem backA_72 (w x : W32) (i : Instr) (h : fld w 25 7 = 0x72#7) (hd : decodeA w x = .ok i) : Fits .a w x i := by
  rw [opA_72 w x h] at hd
  injection hd with hd
  subst hd
  exact ⟨rfl, by have e := join_7_5_5_11_4 w; rw [h] at e; exact e, fun t => absurd (show twoSlot .a w = true from t) (by simp [twoSlot, h])⟩
theorem backA_73 (w x : W32) (i : Instr) (h : fld w 25 7 = 0x73#7) (hd : decodeA w x = .ok i) : Fits .a w x i := by
  rw [opA_73 w x h] at hd
  injection hd with hd
  subst hd
  exact ⟨rfl, by have e := join_7_5_5_11_4 w; rw [h] at e; exact e, fun t => absurd (show twoSlot .a w = true from t) (by simp [twoSlot, h])⟩
theorem backA_74 (w x : W32) (i : Instr) (h : fld w 25 7 = 0x74#7) (hd : decodeA w x = .ok i) : Fits .a w x i := by
  rw [opA_74 w x h] at hd
  obtain ⟨hc, rfl⟩ := need_ok hd
  simp only [beq_iff_eq] at hc
  have c0 := hc
  exact ⟨rfl, by have e := join_7_5_16_4 w; rw [h, c0] at e; exact e, fun t => absurd (show twoSlot .a w = true from t) (by simp [twoSlot, h])⟩
theorem backA_75 (w x : W32) (i : Instr) (h : fld w 25 7 = 0x75#7) (hd : decodeA w x = .ok i) : Fits .a w x i := by
  rw [opA_75 w x h] at hd
  obtain ⟨hc, rfl⟩ := need_ok hd
  simp only [beq_iff_eq] at hc
  have c0 := hc
  exact ⟨rfl, by have e := join_7_21_4 w; rw [h, c0] at e; exact e, fun t => absurd (show twoSlot .a w = true from t) (by simp [twoSlot, h])⟩
theorem backA_76 (w x : W32) (i : Instr) (h : fld w 25 7 = 0x76#7) (hd : decodeA w x = .ok i) : Fits .a w x i := by
  rw [opA_76 w x h] at hd
  obtain ⟨hc, rfl⟩ := need_ok hd
  simp only [beq_iff_eq] at hc
  have c0 := hc
  exact ⟨rfl, by have e := join_7_21_4 w; rw [h, c0] at e; exact e, fun t => absurd (show twoSlot .a w = true from t) (by simp [twoSlot, h])⟩
theorem backA_77 (w x : W32) (i : Instr) (h : fld w 25 7 = 0x77#7) (hd : decodeA w x = .ok i) : Fits .a w x i := by
  rw [opA_77 w x h] at hd
  obtain ⟨hc, rfl⟩ := need_ok hd
  simp only [beq_iff_eq] at hc
  have c0 := hc
  exact ⟨rfl, by have e := join_7_5_16_4 w; rw [h, c0] at e; exact e, fun t => absurd (show twoSlot .a w = true from t) (by simp [twoSlot, h])⟩
theorem backA_78 (w x : W32) (i : Instr) (h : fld w 25 7 = 0x78#7) (hd : decodeA w x = .ok i) : Fits .a w x i := by
  rw [opA_78 w x h] at hd
  obtain ⟨hc, rfl⟩ := need_ok hd
  simp only [beq_iff_eq] at hc
  have c0 := hc
  exact ⟨rfl, by have e := join_7_21_4 w; rw [h, c0] at e; exact e, fun t => absurd (show twoSlot .a w = true from t) (by simp [twoSlot, h])⟩
theorem backA_79 (w x : W32) (i : Instr) (h : fld w 25 7 = 0x79#7) (hd : decodeA w x = .ok i) : Fits .a w x i := by
  rw [opA_79 w x h] at hd
  obtain ⟨hc, rfl⟩ := need_ok hd
  simp only [Bool.and_eq_true, beq_iff_eq] at hc
  obtain ⟨c0, c1⟩ := hc
  exact ⟨rfl, by have e := join_7_5_5_5_4_2_4 w; rw [h, c0, c1] at e; exact e, fun t => absurd (show twoSlot .a w = true from t) (by simp [twoSlot, h])⟩
theorem backA_7a (w x : W32) (i : Instr) (h : fld w 25 7 = 0x7a#7) (hd : decodeA w x = .ok i) : Fits .a w x i := by
  rw [opA_7a w x h] at hd
  obtain ⟨hc, rfl⟩ := need_ok hd
  simp only [Bool.and_eq_true, beq_iff_eq] at hc
  obtain ⟨c0, c1⟩ := hc
  exact ⟨rfl, by have e := join_7_5_5_5_4_2_4 w; rw [h, c0, c1] at e; exact e, fun t => absurd (show twoSlot .a w = true from t) (by simp [twoSlot, h])⟩
theorem backA_7b (w x : W32) (i : Instr) (h : fld w 25 7 = 0x7b#7) (hd : decodeA w x = .ok i) : Fits .a w x i := by
  rw [opA_7b w x h] at hd
  obtain ⟨hc, rfl⟩ := need_ok hd
  simp only [beq_iff_eq] at hc
  have c0 := hc
  exact ⟨rfl, by have e := join_7_5_5_5_4_2_4 w; rw [h, c0] at e; exact e, fun t => absurd (show twoSlot .a w = true from t) (by simp [twoSlot, h])⟩
theorem backA_7c (w x : W32) (i : Instr) (h : fld w 25 7 = 0x7c#7) (hd : decodeA w x = .ok i) : Fits .a w x i := by
  rw [opA_7c w x h] at hd
  obtain ⟨hc, rfl⟩ := need_ok hd
  simp only [beq_iff_eq] at hc
  have c0 := hc
  exact ⟨rfl, by have e := join_7_5_5_5_4_2_4 w; rw [h, c0] at e; exact e, fun t => absurd (show twoSlot .a w = true from t) (by simp [twoSlot, h])⟩
theorem backA_7d (w x : W32) (i : Instr) (h : fld w 25 7 = 0x7d#7) (hd : decodeA w x = .ok i) : Fits .a w x i := by
  rw [opA_7d w x h] at hd
  rcases pick_ok hd with ⟨hc, hs, rfl⟩ | ⟨hc, hs, rfl⟩
  · simp only [beq_iff_eq] at hc
    have c0 := hc
    exact ⟨rfl, by have e := join_7_5_5_5_4_2_4 w; rw [h, c0, hs] at e; exact e, fun t => absurd (show twoSlot .a w = true from t) (by simp [twoSlot, h])⟩
  · simp only [beq_iff_eq] at hc
    have c0 := hc
    exact ⟨rfl, by have e := join_7_5_5_5_4_2_4 w; rw [h, c0, hs] at e; exact e, fun t => absurd (show twoSlot .a w = true from t) (by simp [twoSlot, h])⟩
theorem backA_7e (w x : W32) (i : Instr) (h : fld w 25 7 = 0x7e#7) (hd : decodeA w x = .ok i) : Fits .a w x i := by
  rw [opA_7e w x h] at hd
  injection hd with hd
  subst hd
  exact ⟨rfl, by have e := join_7_25 w; rw [h] at e; exact e, fun t => absurd (show twoSlot .a w = true from t) (by simp [twoSlot, h])⟩
theorem backA_7f (w x : W32) (i : Instr) (h : fld w 25 7 = 0x7f#7) (hd : decodeA w x = .ok i) : Fits .a w x i := by
  rw [opA_7f w x h] at hd
  obtain ⟨hc, rfl⟩ := need_ok hd
  simp only [beq_iff_eq] at hc
  have c0 := hc
  exact ⟨rfl, by have e := join_7_5_5_5_4_2_4 w; rw [h, c0] at e; exact e, fun t => absurd (show twoSlot .a w = true from t) (by simp [twoSlot, h])⟩
theorem backX_00 (w x : W32) (i : Instr) (h : fld w 25 7 = 0x00#7) (hd : decodeX w x = .ok i) : Fits .x w x i := by
  rw [opX_00 w x h] at hd
  injection hd with hd
  subst hd
  exact ⟨rfl, by have e := join_7_6_6_6_3_4 w; rw [h] at e; exact e, fun t => absurd (show twoSlot .x w = true from t) (by simp [twoSlot, h])⟩
theorem backX_01 (w x : W32) (i : Instr) (h : fld w 25 7 = 0x01#7) (hd : decodeX w x = .ok i) : Fits .x w x i := by
  rw [opX_01 w x h] at hd
  injection hd with hd
  subst hd
  exact ⟨rfl, by have e := join_7_6_6_6_3_4 w; rw [h] at e; exact e, fun t => absurd (show twoSlot .x w = true from t) (by simp [twoSlot, h])⟩
theorem backX_02 (w x : W32) (i : Instr) (h : fld w 25 7 = 0x02#7) (hd : decodeX w x = .ok i) : Fits .x w x i := by
  rw [opX_02 w x h] at hd
  injection hd with hd
  subst hd
  exact ⟨rfl, by have e := join_7_6_6_6_3_4 w; rw [h] at e; exact e, fun t => absurd (show twoSlot .x w = true from t) (by simp [twoSlot, h])⟩
theorem backX_03 (w x : W32) (i : Instr) (h : fld w 25 7 = 0x03#7) (hd : decodeX w x = .ok i) : Fits .x w x i := by
  rw [opX_03 w x h] at hd
  injection hd with hd
  subst hd
  exact ⟨rfl, by have e := join_7_6_6_6_3_4 w; rw [h] at e; exact e, fun t => absurd (show twoSlot .x w = true from t) (by simp [twoSlot, h])⟩
theorem backX_04 (w x : W32) (i : Instr) (h : fld w 25 7 = 0x04#7) (hd : decodeX w x = .ok i) : Fits .x w x i := by
  rw [opX_04 w x h] at hd
  injection hd with hd
  subst hd
  exact ⟨rfl, by have e := join_7_6_6_6_3_4 w; rw [h] at e; exact e, fun t => absurd (show twoSlot .x w = true from t) (by simp [twoSlot, h])⟩
theorem backX_05 (w x : W32) (i : Instr) (h : fld w 25 7 = 0x05#7) (hd : decodeX w x = .ok i) : Fits .x w x i := by
  rw [opX_05 w x h] at hd
  injection hd with hd
  subst hd
  exact ⟨rfl, by have e := join_7_6_6_6_3_4 w; rw [h] at e; exact e, fun t => absurd (show twoSlot .x w = true from t) (by simp [twoSlot, h])⟩
theorem backX_06 (w x : W32) (i : Instr) (h : fld w 25 7 = 0x06#7) (hd : decodeX w x = .ok i) : Fits .x w x i := by
  rw [opX_06 w x h] at hd
  injection hd with hd
  subst hd
  exact ⟨rfl, by have e := join_7_6_6_6_3_4 w; rw [h] at e; exact e, fun t => absurd (show twoSlot .x w = true from t) (by simp [twoSlot, h])⟩
theorem backX_07 (w x : W32) (i : Instr) (h : fld w 25 7 = 0x07#7) (hd : decodeX w x = .ok i) : Fits .x w x i := by
  rw [opX_07 w x h] at hd
  obtain ⟨hc, rfl⟩ := need_ok hd
  simp only [beq_iff_eq] at hc
  have c0 := hc
  exact ⟨rfl, by have e := join_7_6_6_6_3_4 w; rw [h, c0] at e; exact e, fun t => absurd (show twoSlot .x w = true from t) (by simp [twoSlot, h])⟩
theorem backX_08 (w x : W32) (i : Instr) (h : fld w 25 7 = 0x08#7) (hd : decodeX w x = .ok i) : Fits .x w x i := by
  rw [opX_08 w x h] at hd
  obtain ⟨hc, rfl⟩ := need_ok hd
  simp only [beq_iff_eq] at hc
  have c0 := hc
  exact ⟨rfl, by have e := join_7_6_6_6_3_4 w; rw [h, c0] at e; exact e, fun t => absurd (show twoSlot .x w = true from t) (by simp [twoSlot, h])⟩
theorem backX_09 (w x : W32) (i : Instr) (h : fld w 25 7 = 0x09#7) (hd : decodeX w x = .ok i) : Fits .x w x i := by
  rw [opX_09 w x h] at hd
  obtain ⟨hc, rfl⟩ := need_ok hd
  simp only [beq_iff_eq] at hc
  have c0 := hc
  exact ⟨rfl, by have e := join_7_6_6_6_3_4 w; rw [h, c0] at e; exact e, fun t => absurd (show twoSlot .x w = true from t) (by simp [twoSlot, h])⟩
theorem backX_0a (w x : W32) (i : Instr) (h : fld w 25 7 = 0x0a#7) (hd : decodeX w x = .ok i) : Fits .x w x i := by
  rw [opX_0a w x h] at hd
  obtain ⟨hc, rfl⟩ := need_ok hd
  simp only [beq_iff_eq] at hc
  have c0 := hc
  exact ⟨rfl, by have e := join_7_6_6_6_3_4 w; rw [h, c0] at e; exact e, fun t => absurd (show twoSlot .x w = true from t) (by simp [twoSlot, h])⟩
theorem backX_0b (w x : W32) (i : Instr) (h : fld w 25 7 = 0x0b#7) (hd : decodeX w x = .ok i) : Fits .x w x i := by
  rw [opX_0b w x h] at hd
  obtain ⟨hc, rfl⟩ := need_ok hd
  simp only [beq_iff_eq] at hc
  have c0 := hc
  exact ⟨rfl, by have e := join_7_6_6_6_3_4 w; rw [h, c0] at e; exact e, fun t => absurd (show twoSlot .x w = true from t) (by simp [twoSlot, h])⟩
theorem backX_0c (w x : W32) (i : Instr) (h : fld w 25 7 = 0x0c#7) (hd : decodeX w x = .ok i) : Fits .x w x i := by
  rw [opX_0c w x h] at hd
  obtain ⟨hc, rfl⟩ := need_ok hd
  simp only [beq_iff_eq] at hc
  have c0 := hc
  exact ⟨rfl, by have e := join_7_6_6_9_4 w; rw [h, c0] at e; exact e, fun t => absurd (show twoSlot .x w = true from t) (by simp [twoSlot, h])⟩
theorem backX_0d (w x : W32) (i : Instr) (h : fld w 25 7 = 0x0d#7) (hd : decodeX w x = .ok i) : Fits .x w x i := by
  rw [opX_0d w x h] at hd
  injection hd with hd
  subst hd
  exact ⟨rfl, by have e := join_7_6_6_6_3_4 w; rw [h] at e; exact e, fun t => absurd (show twoSlot .x w = true from t) (by simp [twoSlot, h])⟩
theorem backX_0e (w x : W32) (i : Instr) (h : fld w 25 7 = 0x0e#7) (hd : decodeX w x = .ok i) : Fits .x w x i := by
  rw [opX_0e w x h] at hd
  injection hd with hd
  subst hd
  exact ⟨rfl, by have e := join_7_6_6_6_3_4 w; rw [h] at e; exact e, fun t => absurd (show twoSlot .x w = true from t) (by simp [twoSlot, h])⟩
theorem backX_0f (w x : W32) (i : Instr) (h : fld w 25 7 = 0x0f#7) (hd : decodeX w x = .ok i) : Fits .x w x i := by
  rw [opX_0f w x h] at hd
  injection hd with hd
  subst hd
  exact ⟨rfl, by have e := join_7_6_6_6_3_4 w; rw [h] at e; exact e, fun t => absurd (show twoSlot .x w = true from t) (by simp [twoSlot, h])⟩
theorem backX_10 (w x : W32) (i : Instr) (h : fld w 25 7 = 0x10#7) (hd : decodeX w x = .ok i) : Fits .x w x i := by
  rw [opX_10 w x h] at hd
  injection hd with hd
  subst hd
  exact ⟨rfl, by have e := join_7_3_3_6_6_3_4 w; rw [h] at e; exact e, fun t => absurd (show twoSlot .x w = true from t) (by simp [twoSlot, h])⟩
theorem backX_11 (w x : W32) (i : Instr) (h : fld w 25 7 = 0x11#7) (hd : decodeX w x = .ok i) : Fits .x w x i := by
  rw [opX_11 w x h] at hd
  obtain ⟨hc, rfl⟩ := need_ok hd
  simp only [beq_iff_eq] at hc
  have c0 := hc
  exact ⟨rfl, by have e := join_7_6_6_3_3_3_4 w; rw [h, c0] at e; exact e, fun t => absurd (show twoSlot .x w = true from t) (by simp [twoSlot, h])⟩
theorem backX_18 (w x : W32) (i : Instr) (h : fld w 25 7 = 0x18#7) (hd : decodeX w x = .ok i) : Fits .x w x i := by
  rw [opX_18 w x h] at hd
  obtain ⟨hc, rfl⟩ := need_ok hd
  simp only [beq_iff_eq] at hc
  have c0 := hc
  exact ⟨rfl, by have e := join_7_6_6_6_3_4 w; rw [h, c0] at e; exact e, fun t => absurd (show twoSlot .x w = true from t) (by simp [twoSlot, h])⟩
theorem backX_19 (w x : W32) (i : Instr) (h : fld w 25 7 = 0x19#7) (hd : decodeX w x = .ok i) : Fits .x w x i := by
  rw [opX_19 w x h] at hd
  obtain ⟨hc, rfl⟩ := need_ok hd
  simp only [beq_iff_eq] at hc
  have c0 := hc
  exact ⟨rfl, by have e := join_7_6_6_6_3_4 w; rw [h, c0] at e; exact e, fun t => absurd (show twoSlot .x w = true from t) (by simp [twoSlot, h])⟩
theorem backX_1a (w x : W32) (i : Instr) (h : fld w 25 7 = 0x1a#7) (hd : decodeX w x = .ok i) : Fits .x w x i := by
  rw [opX_1a w x h] at hd
  obtain ⟨hc, rfl⟩ := need_ok hd
  simp only [beq_iff_eq] at hc
  have c0 := hc
  exact ⟨rfl, by have e := join_7_6_6_6_3_4 w; rw [h, c0] at e; exact e, fun t => absurd (show twoSlot .x w = true from t) (by simp [twoSlot, h])⟩
theorem backX_1b (w x : W32) (i : Instr) (h : fld w 25 7 = 0x1b#7) (hd : decodeX w x = .ok i) : Fits .x w x i := by
  rw [opX_1b w x h] at hd
  obtain ⟨hc, rfl⟩ := need_ok hd
  simp only [beq_iff_eq] at hc
  have c0 := hc
  exact ⟨rfl, by have e := join_7_6_6_6_3_4 w; rw [h, c0] at e; exact e, fun t => absurd (show twoSlot .x w = true from t) (by simp [twoSlot, h])⟩
theorem backX_1c (w x : W32) (i : Instr) (h : fld w 25 7 = 0x1c#7) (hd : decodeX w x = .ok i) : Fits .x w x i := by
  rw [opX_1c w x h] at hd
  obtain ⟨hc, rfl⟩ := need_ok hd
  simp only [beq_iff_eq] at hc
  have c0 := hc
  exact ⟨rfl, by have e := join_7_6_6_6_3_4 w; rw [h, c0] at e; exact e, fun t => absurd (show twoSlot .x w = true from t) (by simp [twoSlot, h])⟩
theorem backX_1d (w x : W32) (i : Instr) (h : fld w 25 7 = 0x1d#7) (hd : decodeX w x = .ok i) : Fits .x w x i := by
  rw [opX_1d w x h] at hd
  obtain ⟨hc, rfl⟩ := need_ok hd
  simp only [beq_iff_eq] at hc
  have c0 := hc
  exact ⟨rfl, by have e := join_7_6_6_6_3_4 w; rw [h, c0] at e; exact e, fun t => absurd (show twoSlot .x w = true from t) (by simp [twoSlot, h])⟩
theorem backX_1e (w x : W32) (i : Instr) (h : fld w 25 7 = 0x1e#7) (hd : decodeX w x = .ok i) : Fits .x w x i := by
  rw [opX_1e w x h] at hd
  obtain ⟨hc, rfl⟩ := need_ok hd
  simp only [beq_iff_eq] at hc
  have c0 := hc
  exact ⟨rfl, by have e := join_7_6_6_6_3_4 w; rw [h, c0] at e; exact e, fun t => absurd (show twoSlot .x w = true from t) (by simp [twoSlot, h])⟩
theorem backX_40 (w x : W32) (i : Instr) (h : fld w 25 7 = 0x40#7) (hd : decodeX w x = .ok i) : Fits .x w x i := by
  rw [opX_40 w x h] at hd
  injection hd with hd
  subst hd
  exact ⟨rfl, by have e := join_7_6_6_3_2_1_3_4 w; rw [h] at e; exact e, fun t => absurd (show twoSlot .x w = true from t) (by simp [twoSlot, h])⟩
theorem backX_41 (w x : W32) (i : Instr) (h : fld w 25 7 = 0x41#7) (hd : decodeX w x = .ok i) : Fits .x w x i := by
  rw [opX_41 w x h] at hd
  injection hd with hd
  subst hd
  exact ⟨rfl, by have e := join_7_6_6_6_3_4 w; rw [h] at e; exact e, fun t => absurd (show twoSlot .x w = true from t) (by simp [twoSlot, h])⟩
theorem backX_42 (w x : W32) (i : Instr) (h : fld w 25 7 = 0x42#7) (hd : decodeX w x = .ok i) : Fits .x w x i := by
  rw [opX_42 w x h] at hd
  injection hd with hd
  subst hd
  exact ⟨rfl, by have e := join_7_6_6_6_3_4 w; rw [h] at e; exact e, fun t => absurd (show twoSlot .x w = true from t) (by simp [twoSlot, h])⟩
theorem backX_43 (w x : W32) (i : Instr) (h : fld w 25 7 = 0x43#7) (hd : decodeX w x = .ok i) : Fits .x w x i := by
  rw [opX_43 w x h] at hd
  injection hd with hd
  subst hd
  exact ⟨rfl, by have e := join_7_6_6_6_3_4 w; rw [h] at e; exact e, fun t => absurd (show twoSlot .x w = true from t) (by simp [twoSlot, h])⟩
theorem backX_50 (w x : W32) (i : Instr) (h : fld w 25 7 = 0x50#7) (hd : decodeX w x = .ok i) : Fits .x w x i := by
  rw [opX_50 w x h] at hd
  obtain ⟨hc, rfl⟩ := need_ok hd
  simp only [beq_iff_eq] at hc
  have c0 := hc
  exact ⟨rfl, by have e := join_7_6_6_1_1_2_2_3_4 w; rw [h, c0] at e; exact e, fun t => absurd (show twoSlot .x w = true from t) (by simp [twoSlot, h])⟩
theorem backX_51 (w x : W32) (i : Instr) (h : fld w 25 7 = 0x51#7) (hd : decodeX w x = .ok i) : Fits .x w x i := by
  rw [opX_51 w x h] at hd
  obtain ⟨hc, rfl⟩ := need_ok hd
  simp only [beq_iff_eq] at hc
  have c0 := hc
  exact ⟨rfl, by have e := join_7_6_6_1_1_2_2_3_4 w; rw [h, c0] at e; exact e, fun t => absurd (show twoSlot .x w = true from t) (by simp [twoSlot, h])⟩
theorem backX_52 (w x : W32) (i : Instr) (h : fld w 25 7 = 0x52#7) (hd : decodeX w x = .ok i) : Fits .x w x i := by
  rw [opX_52 w x h] at hd
  obtain ⟨hc, rfl⟩ := need_ok hd
  simp only [beq_iff_eq] at hc
  have c0 := hc
  exact ⟨rfl, by have e := join_7_6_6_6_3_4 w; rw [h, c0] at e; exact e, fun t => absurd (show twoSlot .x w = true from t) (by simp [twoSlot, h])⟩
theorem backX_53 (w x : W32) (i : Instr) (h : fld w 25 7 = 0x53#7) (hd : decodeX w x = .ok i) : Fits .x w x i := by
  rw [opX_53 w x h] at hd
  obtain ⟨hc, rfl⟩ := need_ok hd
  simp only [beq_iff_eq] at hc
  have c0 := hc
  exact ⟨rfl, by have e := join_7_6_6_6_3_4 w; rw [h, c0] at e; exact e, fun t => absurd (show twoSlot .x w = true from t) (by simp [twoSlot, h])⟩
theorem backX_54 (w x : W32) (i : Instr) (h : fld w 25 7 = 0x54#7) (hd : decodeX w x = .ok i) : Fits .x w x i := by
  rw [opX_54 w x h] at hd
  obtain ⟨hc, rfl⟩ := need_ok hd
  simp only [beq_iff_eq] at hc
  have c0 := hc
  exact ⟨rfl, by have e := join_7_6_6_6_3_4 w; rw [h, c0] at e; exact e, fun t => absurd (show twoSlot .x w = true from t) (by simp [twoSlot, h])⟩
theorem backX_55 (w x : W32) (i : Instr) (h : fld w 25 7 = 0x55#7) (hd : decodeX w x = .ok i) : Fits .x w x i := by
  rw [opX_55 w x h] at hd
  obtain ⟨hc, rfl⟩ := need_ok hd
  simp only [beq_iff_eq] at hc
  have c0 := hc
  exact ⟨rfl, by have e := join_7_6_6_6_3_4 w; rw [h, c0] at e; exact e, fun t => absurd (show twoSlot .x w = true from t) (by simp [twoSlot, h])⟩
theorem backX_56 (w x : W32) (i : Instr) (h : fld w 25 7 = 0x56#7) (hd : decodeX w x = .ok i) : Fits .x w x i := by
  rw [opX_56 w x h] at hd
  injection hd with hd
  subst hd
  exact ⟨rfl, by have e := join_7_6_6_6_3_4 w; rw [h] at e; exact e, fun t => absurd (show twoSlot .x w = true from t) (by simp [twoSlot, h])⟩
theorem backX_57 (w x : W32) (i : Instr) (h : fld w 25 7 = 0x57#7) (hd : decodeX w x = .ok i) : Fits .x w x i := by
  rw [opX_57 w x h] at hd
  obtain ⟨hc, rfl⟩ := need_ok hd
  simp only [beq_iff_eq] at hc
  have c0 := hc
  exact ⟨rfl, by have e := join_7_6_6_9_4 w; rw [h, c0] at e; exact e, fun t => absurd (show twoSlot .x w = true from t) (by simp [twoSlot, h])⟩
theorem backX_58 (w x : W32) (i : Instr) (h : fld w 25 7 = 0x58#7) (hd : decodeX w x = .ok i) : Fits .x w x i := by
  rw [opX_58 w x h] at hd
  obtain ⟨hc, rfl⟩ := need_ok hd
  simp only [beq_iff_eq] at hc
  have c0 := hc
  exact ⟨rfl, by have e := join_7_6_15_4 w; rw [h, c0] at e; exact e, fun t => absurd (show twoSlot .x w = true from t) (by simp [twoSlot, h])⟩
theorem backX_59 (w x : W32) (i : Instr) (h : fld w 25 7 = 0x59#7) (hd : decodeX w x = .ok i) : Fits .x w x i := by
  rw [opX_59 w x h] at hd
  obtain ⟨hc, rfl⟩ := need_ok hd
  simp only [beq_iff_eq] at hc
  have c0 := hc
  exact ⟨rfl, by have e := join_7_6_5_1_9_4 w; rw [h, c0] at e; exact e, fun t => absurd (show twoSlot .x w = true from t) (by simp [twoSlot, h])⟩
theorem backX_5a (w x : W32) (i : Instr) (h : fld w 25 7 = 0x5a#7) (hd : decodeX w x = .ok i) : Fits .x w x i := by
  rw [opX_5a w x h] at hd
  obtain ⟨hc, rfl⟩ := need_ok hd
  simp only [beq_iff_eq] at hc
  have c0 := hc
  exact ⟨rfl, by have e := join_7_6_5_1_1_8_4 w; rw [h, c0] at e; exact e, fun t => absurd (show twoSlot .x w = true from t) (by simp [twoSlot, h])⟩
theorem backX_60 (w x : W32) (i : Instr) (h : fld w 25 7 = 0x60#7) (hd : decodeX w x = .ok i) : Fits .x w x i := by
  rw [opX_60 w x h] at hd
  obtain ⟨hc, rfl⟩ := need_ok hd
  simp only [beq_iff_eq] at hc
  have c0 := hc
  exact ⟨rfl, by have e := join_7_3_3_3_12_4 w; rw [h, c0] at e; exact e, fun t => absurd (show twoSlot .x w = true from t) (by simp [twoSlot, h])⟩
theorem backX_61 (w x : W32) (i : Instr) (h : fld w 25 7 = 0x61#7) (hd : decodeX w x = .ok i) : Fits .x w x i := by
  rw [opX_61 w x h] at hd
  obtain ⟨hc, rfl⟩ := need_ok hd
  simp only [beq_iff_eq] at hc
  have c0 := hc
  exact ⟨rfl, by have e := join_7_3_3_3_12_4 w; rw [h, c0] at e; exact e, fun t => absurd (show twoSlot .x w = true from t) (by simp [twoSlot, h])⟩
theorem backX_62 (w x : W32) (i : Instr) (h : fld w 25 7 = 0x62#7) (hd : decodeX w x = .ok i) : Fits .x w x i := by
  rw [opX_62 w x h] at hd
  obtain ⟨hc, rfl⟩ := need_ok hd
  simp only [beq_iff_eq] at hc
  have c0 := hc
  exact ⟨rfl, by have e := join_7_3_3_3_12_4 w; rw [h, c0] at e; exact e, fun t => absurd (show twoSlot .x w = true from t) (by simp [twoSlot, h])⟩
theorem backX_63 (w x : W32) (i : Instr) (h : fld w 25 7 = 0x63#7) (hd : decodeX w x = .ok i) : Fits .x w x i := by
  rw [opX_63 w x h] at hd
  obtain ⟨hc, rfl⟩ := need_ok hd
  simp only [beq_iff_eq] at hc
  have c0 := hc
  exact ⟨rfl, by have e := join_7_3_3_15_4 w; rw [h, c0] at e; exact e, fun t => absurd (show twoSlot .x w = true from t) (by simp [twoSlot, h])⟩
theorem backX_64 (w x : W32) (i : Instr) (h : fld w 25 7 = 0x64#7) (hd : decodeX w x = .ok i) : Fits .x w x i := by
  rw [opX_64 w x h] at hd
  obtain ⟨hc, rfl⟩ := need_ok hd
  simp only [beq_iff_eq] at hc
  have c0 := hc
  exact ⟨rfl, by have e := join_7_3_3_15_4 w; rw [h, c0] at e; exact e, fun t => absurd (show twoSlot .x w = true from t) (by simp [twoSlot, h])⟩
theorem backX_68 (w x : W32) (i : Instr) (h : fld w 25 7 = 0x68#7) (hd : decodeX w x = .ok i) : Fits .x w x i := by
  rw [opX_68 w x h] at hd
  injection hd with hd
  subst hd
  exact ⟨rfl, by have e := join_7_4_4_4_9_4 w; rw [h] at e; exact e, fun t => absurd (show twoSlot .x w = true from t) (by simp [twoSlot, h])⟩
theorem backX_69 (w x : W32) (i : Instr) (h : fld w 25 7 = 0x69#7) (hd : decodeX w x = .ok i) : Fits .x w x i := by
  rw [opX_69 w x h] at hd
  injection hd with hd
  subst hd
  exact ⟨rfl, by have e := join_7_4_4_4_9_4 w; rw [h] at e; exact e, fun t => absurd (show twoSlot .x w = true from t) (by simp [twoSlot, h])⟩
theorem backX_6a (w x : W32) (i : Instr) (h : fld w 25 7 = 0x6a#7) (hd : decodeX w x = .ok i) : Fits .x w x i := by
  rw [opX_6a w x h] at hd
  obtain ⟨hc, rfl⟩ := need_ok hd
  simp only [beq_iff_eq] at hc
  have c0 := hc
  exact ⟨rfl, by have e := join_7_4_4_4_9_4 w; rw [h, c0] at e; exact e, fun t => absurd (show twoSlot .x w = true from t) (by simp [twoSlot, h])⟩
theorem backX_6b (w x : W32) (i : Instr) (h : fld w 25 7 = 0x6b#7) (hd : decodeX w x = .ok i) : Fits .x w x i := by
  rw [opX_6b w x h] at hd
  obtain ⟨hc, rfl⟩ := need_ok hd
  simp only [beq_iff_eq] at hc
  have c0 := hc
  exact ⟨rfl, by have e := join_7_4_4_13_4 w; rw [h, c0] at e; exact e, fun t => absurd (show twoSlot .x w = true from t) (by simp [twoSlot, h])⟩
theorem backX_6c (w x : W32) (i : Instr) (h : fld w 25 7 = 0x6c#7) (hd : decodeX w x = .ok i) : Fits .x w x i := by
  rw [opX_6c w x h] at hd
  injection hd with hd
  subst hd
  exact ⟨rfl, by have e := join_7_4_17_4 w; rw [h] at e; exact e, fun t => absurd (show twoSlot .x w = true from t) (by simp [twoSlot, h])⟩
theorem backX_6d (w x : W32) (i : Instr) (h : fld w 25 7 = 0x6d#7) (hd : decodeX w x = .ok i) : Fits .x w x i := by
  rw [opX_6d w x h] at hd
  obtain ⟨hc, rfl⟩ := need_ok hd
  simp only [Bool.and_eq_true, beq_iff_eq] at hc
  obtain ⟨c0, c1⟩ := hc
  exact ⟨rfl, by have e := join_7_2_4_12_3_4 w; rw [h, c0, c1] at e; exact e, fun t => absurd (show twoSlot .x w = true from t) (by simp [twoSlot, h])⟩
theorem backX_6e (w x : W32) (i : Instr) (h : fld w 25 7 = 0x6e#7) (hd : decodeX w x = .ok i) : Fits .x w x i := by
  rw [opX_6e w x h] at hd
  obtain ⟨hc, rfl⟩ := need_ok hd
  simp only [Bool.and_eq_true, beq_iff_eq] at hc
  obtain ⟨c0, c1⟩ := hc
  exact ⟨rfl, by have e := join_7_2_4_12_3_4 w; rw [h, c0, c1] at e; exact e, fun t => absurd (show twoSlot .x w = true from t) (by simp [twoSlot, h])⟩
theorem backX_70 (w x : W32) (i : Instr) (h : fld w 25 7 = 0x70#7) (hd : decodeX w x = .ok i) : Fits .x w x i := by
  rw [opX_70 w x h] at hd
  obtain ⟨hc, rfl⟩ := need_ok hd
  simp only [Bool.and_eq_true, beq_iff_eq] at hc
  obtain ⟨c0, c1⟩ := hc
  exact ⟨rfl, by have e := join_7_3_4_4_10_4 w; rw [h, c0] at e; exact e, fun _ => by have e := join_28_4 x; rw [c1] at e; exact e⟩
theorem backX_71 (w x : W32) (i : Instr) (h : fld w 25 7 = 0x71#7) (hd : decodeX w x = .ok i) : Fits .x w x i := by
  rw [opX_71 w x h] at hd
  obtain ⟨hc, rfl⟩ := need_ok hd
  simp only [beq_iff_eq] at hc
  have c0 := hc
  exact ⟨rfl, by have e := join_7_4_17_4 w; rw [h, c0] at e; exact e, fun t => absurd (show twoSlot .x w = true from t) (by simp [twoSlot, h])⟩
theorem backX_72 (w x : W32) (i : Instr) (h : fld w 25 7 = 0x72#7) (hd : decodeX w x = .ok i) : Fits .x w x i := by
  rw [opX_72 w x h] at hd
  obtain ⟨hc, rfl⟩ := need_ok hd
  simp only [Bool.and_eq_true, beq_iff_eq] at hc
  obtain ⟨⟨⟨c0, c1⟩, c2⟩, c3⟩ := hc
  exact ⟨rfl, by have e := join_7_3_4_4_3_7_4 w; rw [h, c0, c1, c2] at e; exact e, fun _ => by have e := join_28_4 x; rw [c3] at e; exact e⟩
theorem backX_73 (w x : W32) (i : Instr) (h : fld w 25 7 = 0x73#7) (hd : decodeX w x = .ok i) : Fits .x w x i := by
  rw [opX_73 w x h] at hd
  obtain ⟨hc, rfl⟩ := need_ok hd
  simp only [Bool.and_eq_true, beq_iff_eq] at hc
  obtain ⟨c0, c1⟩ := hc
  exact ⟨rfl, by have e := join_7_3_4_4_10_4 w; rw [h, c0] at e; exact e, fun _ => by have e := join_28_4 x; rw [c1] at e; exact e⟩
theorem backX_74 (w x : W32) (i : Instr) (h : fld w 25 7 = 0x74#7) (hd : decodeX w x = .ok i) : Fits .x w x i := by
  rw [opX_74 w x h] at hd
  obtain ⟨hc, rfl⟩ := need_ok hd
  simp only [Bool.and_eq_true, beq_iff_eq] at hc
  obtain ⟨⟨c0, c1⟩, c2⟩ := hc
  exact ⟨rfl, by have e := join_7_14_1_2_4_4 w; rw [h, c0, c2, c1] at e; exact e, fun t => absurd (show twoSlot .x w = true from t) (by simp [twoSlot, h])⟩
theorem backX_75 (w x : W32) (i : Instr) (h : fld w 25 7 = 0x75#7) (hd : decodeX w x = .ok i) : Fits .x w x i := by
  rw [opX_75 w x h] at hd
  obtain ⟨hc, rfl⟩ := need_ok hd
  simp only [Bool.and_eq_true, beq_iff_eq] at hc
  obtain ⟨c0, c1⟩ := hc
  exact ⟨rfl, by have e := join_7_10_4_7_4 w; rw [h, c0, c1] at e; exact e, fun t => absurd (show twoSlot .x w = true from t) (by simp [twoSlot, h])⟩
theorem backX_76 (w x : W32) (i : Instr) (h : fld w 25 7 = 0x76#7) (hd : decodeX w x = .ok i) : Fits .x w x i := by
  rw [opX_76 w x h] at hd
  obtain ⟨hc, rfl⟩ := need_ok hd
  simp only [beq_iff_eq] at hc
  have c0 := hc
  exact ⟨rfl, by have e := join_7_21_4 w; rw [h, c0] at e; exact e, fun t => absurd (show twoSlot .x w = true from t) (by simp [twoSlot, h])⟩
theorem backX_77 (w x : W32) (i : Instr) (h : fld w 25 7 = 0x77#7) (hd : decodeX w x = .ok i) : Fits .x w x i := by
  rw [opX_77 w x h] at hd
  obtain ⟨hc, rfl⟩ := need_ok hd
  simp only [beq_iff_eq] at hc
  have c0 := hc
  exact ⟨rfl, by have e := join_7_21_4 w; rw [h, c0] at e; exact e, fun t => absurd (show twoSlot .x w = true from t) (by simp [twoSlot, h])⟩
theorem backD_00 (w x : W32) (i : Instr) (h : fld w 25 7 = 0x00#7) (hd : decodeDrain w = .ok i) : Fits .drain w x i := by
  rw [opD_00 w h] at hd
  obtain ⟨hc, rfl⟩ := need_ok hd
  simp only [Bool.and_eq_true, beq_iff_eq] at hc
  obtain ⟨c0, c1⟩ := hc
  exact ⟨rfl, by have e := join_7_9_12_4 w; rw [h, c0, c1] at e; exact e, fun t => absurd (show twoSlot .drain w = true from t) (by simp [twoSlot])⟩
theorem backD_01 (w x : W32) (i : Instr) (h : fld w 25 7 = 0x01#7) (hd : decodeDrain w = .ok i) : Fits .drain w x i := by
  rw [opD_01 w h] at hd
  obtain ⟨hc, rfl⟩ := need_ok hd
  simp only [Bool.and_eq_true, beq_iff_eq] at hc
  obtain ⟨c0, c1⟩ := hc
  exact ⟨rfl, by have e := join_7_9_12_4 w; rw [h, c0, c1] at e; exact e, fun t => absurd (show twoSlot .drain w = true from t) (by simp [twoSlot])⟩
theorem backD_02 (w x : W32) (i : Instr) (h : fld w 25 7 = 0x02#7) (hd : decodeDrain w = .ok i) : Fits .drain w x i := by
  rw [opD_02 w h] at hd
  obtain ⟨hc, rfl⟩ := need_ok hd
  simp only [beq_iff_eq] at hc
  have c0 := hc
  exact ⟨rfl, by have e := join_7_6_19 w; rw [h, c0] at e; exact e, fun t => absurd (show twoSlot .drain w = true from t) (by simp [twoSlot])⟩
theorem backD_03 (w x : W32) (i : Instr) (h : fld w 25 7 = 0x03#7) (hd : decodeDrain w = .ok i) : Fits .drain w x i := by
  rw [opD_03 w h] at hd
  obtain ⟨hc, rfl⟩ := need_ok hd
  simp only [Bool.and_eq_true, beq_iff_eq] at hc
  obtain ⟨c0, c1⟩ := hc
  exact ⟨rfl, by have e := join_7_9_12_4 w; rw [h, c0, c1] at e; exact e, fun t => absurd (show twoSlot .drain w = true from t) (by simp [twoSlot])⟩
theorem backD_04 (w x : W32) (i : Instr) (h : fld w 25 7 = 0x04#7) (hd : decodeDrain w = .ok i) : Fits .drain w x i := by
  rw [opD_04 w h] at hd
  obtain ⟨hc, rfl⟩ := need_ok hd
  simp only [Bool.and_eq_true, beq_iff_eq] at hc
  obtain ⟨c0, c1⟩ := hc
  exact ⟨rfl, by have e := join_7_3_1_2_3_16 w; rw [h, c0, c1] at e; exact e, fun t => absurd (show twoSlot .drain w = true from t) (by simp [twoSlot])⟩
theorem backD_05 (w x : W32) (i : Instr) (h : fld w 25 7 = 0x05#7) (hd : decodeDrain w = .ok i) : Fits .drain w x i := by
  rw [opD_05 w h] at hd
  obtain ⟨hc, rfl⟩ := need_ok hd
  simp only [Bool.and_eq_true, beq_iff_eq] at hc
  obtain ⟨c0, c1⟩ := hc
  exact ⟨rfl, by have e := join_7_9_12_4 w; rw [h, c0, c1] at e; exact e, fun t => absurd (show twoSlot .drain w = true from t) (by simp [twoSlot])⟩
theorem backD_06 (w x : W32) (i : Instr) (h : fld w 25 7 = 0x06#7) (hd : decodeDrain w = .ok i) : Fits .drain w x i := by
  rw [opD_06 w h] at hd
  obtain ⟨hc, rfl⟩ := need_ok hd
  simp only [Bool.and_eq_true, beq_iff_eq] at hc
  obtain ⟨c0, c1⟩ := hc
  exact ⟨rfl, by have e := join_7_9_12_4 w; rw [h, c0, c1] at e; exact e, fun t => absurd (show twoSlot .drain w = true from t) (by simp [twoSlot])⟩
theorem backD_07 (w x : W32) (i : Instr) (h : fld w 25 7 = 0x07#7) (hd : decodeDrain w = .ok i) : Fits .drain w x i := by
  rw [opD_07 w h] at hd
  obtain ⟨hc, rfl⟩ := need_ok hd
  simp only [Bool.and_eq_true, beq_iff_eq] at hc
  obtain ⟨c0, c1⟩ := hc
  exact ⟨rfl, by have e := join_7_16_5_4 w; rw [h, c0, c1] at e; exact e, fun t => absurd (show twoSlot .drain w = true from t) (by simp [twoSlot])⟩
theorem backD_08 (w x : W32) (i : Instr) (h : fld w 25 7 = 0x08#7) (hd : decodeDrain w = .ok i) : Fits .drain w x i := by
  rw [opD_08 w h] at hd
  obtain ⟨hc, rfl⟩ := need_ok hd
  simp only [Bool.and_eq_true, beq_iff_eq] at hc
  obtain ⟨⟨c0, c1⟩, c2⟩ := hc
  exact ⟨rfl, by have e := join_7_4_2_3_12_4 w; rw [h, c0, c1, c2] at e; exact e, fun t => absurd (show twoSlot .drain w = true from t) (by simp [twoSlot])⟩
theorem backD_09 (w x : W32) (i : Instr) (h : fld w 25 7 = 0x09#7) (hd : decodeDrain w = .ok i) : Fits .drain w x i := by
  rw [opD_09 w h] at hd
  obtain ⟨hc, rfl⟩ := need_ok hd
  simp only [Bool.and_eq_true, beq_iff_eq] at hc
  obtain ⟨c0, c1⟩ := hc
  exact ⟨rfl, by have e := join_7_5_1_19 w; rw [h, c0, c1] at e; exact e, fun t => absurd (show twoSlot .drain w = true from t) (by simp [twoSlot])⟩

end Sys2Proof.Laws.Encoding
end

