-- ==== Sys2Proof/Laws/Tiles.lean ====
section
/-! SUPPORT. What a grid of elements leaves in a tile, and the flags that it raises. -/

namespace Sys2Proof.Machine

theorem gridOf_getD (f : Fmt) (g : Fin 128 → Nat → Nat × Flags) (i : Fin 128) (j : Nat) (h : j < f.rowLen) :
    ((gridOf f g).get i).getD j (0, 0) = g i j := by
  show ((gridOf f g)[i.val]).getD j (0, 0) = g i j
  unfold gridOf
  rw [Vector.getElem_ofFn]
  simp [Array.getD, h]

theorem gridTile_byte (f : Fmt) (g : Grid) (i : Fin 128) (k : Nat) (h : k < 256) :
    ((gridTile f g).get i).toArray.getD k 0 =
      if f = .cb4 then BitVec.ofNat 8 (((g.get i).getD (2 * k) (0, 0)).1 % 16 + 16 * (((g.get i).getD (2 * k + 1) (0, 0)).1 % 16))
      else BitVec.ofNat 8 (((g.get i).getD (k / f.esz) (0, 0)).1 / 256 ^ (k % f.esz)) := by
  have : (gridTile f g).get i = Vector.ofFn fun b : Fin 256 =>
      if f = .cb4 then BitVec.ofNat 8 (((g.get i).getD (2 * b.val) (0, 0)).1 % 16 + 16 * (((g.get i).getD (2 * b.val + 1) (0, 0)).1 % 16))
      else BitVec.ofNat 8 (((g.get i).getD (b.val / f.esz) (0, 0)).1 / 256 ^ (b.val % f.esz)) := by
    show (gridTile f g)[i.val] = _
    unfold gridTile
    rw [Vector.getElem_ofFn]
  rw [this]
  simp [Array.getD, h]

/-- An element of the tile that a grid fills is the grid's value, to the width of the format (R45, R166). -/
theorem elemAt_gridTile (f : Fmt) (g : Fin 128 → Nat → Nat × Flags) (i : Fin 128) (j : Nat) (h : j < f.rowLen) :
    elemAt (gridTile f (gridOf f g)) f i j = (g i j).1 % 2 ^ f.width := by
  unfold elemAt rowElem
  have b := fun k hk => gridTile_byte f (gridOf f g) i k hk
  cases f
  case cb4 =>
    simp only [Fmt.rowLen, if_true] at h
    simp only [Fmt.width]
    rw [b (j / 2) (by omega)]
    simp only [if_true, BitVec.toNat_ofNat, natBits]
    rcases Nat.mod_two_eq_zero_or_one j with e | e
    · have : 2 * (j / 2) = j := by omega
      rw [this, e, gridOf_getD .cb4 g i j (by simp [Fmt.rowLen]; omega)]
      omega
    · have : 2 * (j / 2) + 1 = j := by omega
      rw [this, e, gridOf_getD .cb4 g i j (by simp [Fmt.rowLen]; omega)]
      norm_num
      omega
  case i64 =>
    simp only [Fmt.rowLen, Fmt.esz, Fmt.width, reduceCtorEq, if_false] at h
    simp only [Fmt.width]
    have e : ∀ k, k < 8 → ((gridTile Fmt.i64 (gridOf Fmt.i64 g)).get i).toArray.getD (8 * j + k) 0 = BitVec.ofNat 8 ((g i j).1 / 256 ^ k) := fun k hk => by
      rw [b (8 * j + k) (by omega)]
      simp only [Fmt.esz, Fmt.width, reduceCtorEq, if_false]
      rw [show (8 * j + k) / ((64 + 7) / 8) = j by omega, show (8 * j + k) % ((64 + 7) / 8) = k by omega,
        gridOf_getD _ _ _ _ (by simp [Fmt.rowLen, Fmt.esz, Fmt.width]; omega)]
    have : ((List.range 8).map fun k => ((gridTile Fmt.i64 (gridOf Fmt.i64 g)).get i).toArray.getD (8 * j + k) 0) =
        (List.range 8).map fun k => BitVec.ofNat 8 ((g i j).1 / 256 ^ k) :=
      List.map_congr_left fun k hk => e k (List.mem_range.mp hk)
    rw [this]
    simp [List.range, List.range.loop, leNat]
    omega
  all_goals
    simp only [Fmt.rowLen, Fmt.esz, Fmt.width, reduceCtorEq, if_false] at h
    simp only [Fmt.width]
    repeat rw [b _ (by omega)]
    simp only [Fmt.esz, Fmt.width, reduceCtorEq, if_false, BitVec.toNat_ofNat]
  case fp32 | i32 =>
    rw [show (4 * j) / ((32 + 7) / 8) = j by omega, show (4 * j + 1) / ((32 + 7) / 8) = j by omega, show (4 * j + 2) / ((32 + 7) / 8) = j by omega,
      show (4 * j + 3) / ((32 + 7) / 8) = j by omega, show (4 * j) % ((32 + 7) / 8) = 0 by omega, show (4 * j + 1) % ((32 + 7) / 8) = 1 by omega,
      show (4 * j + 2) % ((32 + 7) / 8) = 2 by omega, show (4 * j + 3) % ((32 + 7) / 8) = 3 by omega,
      gridOf_getD _ _ _ _ (by simp [Fmt.rowLen, Fmt.esz, Fmt.width]; omega)]
    omega
  case bf16 | fp16 =>
    rw [show (2 * j) / ((16 + 7) / 8) = j by omega, show (2 * j + 1) / ((16 + 7) / 8) = j by omega, show (2 * j) % ((16 + 7) / 8) = 0 by omega,
      show (2 * j + 1) % ((16 + 7) / 8) = 1 by omega, gridOf_getD _ _ _ _ (by simp [Fmt.rowLen, Fmt.esz, Fmt.width]; omega)]
    omega
  case e4m3 | e5m2 | i8 | u8 =>
    rw [show j / ((8 + 7) / 8) = j by omega, show j % ((8 + 7) / 8) = 0 by omega, gridOf_getD _ _ _ _ (by simp [Fmt.rowLen, Fmt.esz, Fmt.width]; omega)]
    omega

/-- A fold of flags raises exactly what some member raises. -/
theorem foldFlags_getLsbD {α : Type} (h : α → Flags) (n : Nat) : ∀ (l : List α) (a : Flags),
    (l.foldl (fun a x => a ||| h x) a).getLsbD n = (a.getLsbD n || l.any fun x => (h x).getLsbD n)
  | [], a => by simp
  | x :: l, a => by rw [List.foldl_cons, foldFlags_getLsbD h n l]; simp [Bool.or_assoc]

/-- The flags of one row. -/
def rowFlags (r : Array (Nat × Flags)) : Flags := r.foldl (fun a x => a ||| x.2) 0

theorem rowFlags_ofFn (n m : Nat) (h : Fin m → Nat × Flags) :
    (rowFlags (Array.ofFn h)).getLsbD n = true ↔ ∃ j, (h j).2.getLsbD n = true := by
  have z : (0 : Flags).getLsbD n = false := by simp
  unfold rowFlags
  rw [← Array.foldl_toList, foldFlags_getLsbD (fun x : Nat × Flags => x.2)]
  simp only [z, Bool.false_or, List.any_eq_true, Array.toList_ofFn, List.mem_ofFn]
  constructor
  · rintro ⟨_, ⟨j, rfl⟩, hn⟩; exact ⟨j, hn⟩
  · rintro ⟨j, hn⟩; exact ⟨_, ⟨j, rfl⟩, hn⟩

theorem fold_rowFlags (r : Array (Nat × Flags)) (a : Flags) : r.foldl (fun a x => a ||| x.2) a = a ||| rowFlags r := by
  unfold rowFlags
  apply BitVec.eq_of_getLsbD_eq
  intro k _
  rw [← Array.foldl_toList, ← Array.foldl_toList, BitVec.getLsbD_or, foldFlags_getLsbD (fun x : Nat × Flags => x.2),
    foldFlags_getLsbD (fun x : Nat × Flags => x.2)]
  simp

theorem gridFlags_rows (g : Grid) (n : Nat) : (gridFlags g).getLsbD n = true ↔ ∃ i, (rowFlags (g.get i)).getLsbD n = true := by
  have z : (0 : Flags).getLsbD n = false := by simp
  have : gridFlags g = g.toList.foldl (fun a r => a ||| rowFlags r) 0 := by
    unfold gridFlags
    rw [show ∀ (v : Grid) (h : Flags → Array (Nat × Flags) → Flags), v.foldl h 0 = v.toList.foldl h 0 from fun v h => by simp [Vector.foldl]]
    congr 1
    funext a r; exact fold_rowFlags r a
  rw [this, foldFlags_getLsbD rowFlags]
  simp only [z, Bool.false_or, List.any_eq_true]
  constructor
  · rintro ⟨r, hr, hn⟩
    obtain ⟨i, hi, rfl⟩ := List.getElem_of_mem hr
    have hi' : i < 128 := by simpa using hi
    refine ⟨⟨i, hi'⟩, ?_⟩
    rw [← hn]; congr 2
  · rintro ⟨i, hn⟩
    refine ⟨g.toList[i.val]'(by simp), List.getElem_mem _, ?_⟩
    rw [← hn]; congr 2

/-- The flags of a grid are the union of the flags of its elements (R167). -/
theorem gridFlags_getLsbD (f : Fmt) (g : Fin 128 → Nat → Nat × Flags) (n : Nat) :
    (gridFlags (gridOf f g)).getLsbD n = true ↔ ∃ i j, j < f.rowLen ∧ (g i j).2.getLsbD n = true := by
  have e : ∀ i, (gridOf f g).get i = Array.ofFn (n := f.rowLen) fun j => g i j.val := fun i => by
    show (gridOf f g)[i.val] = _
    unfold gridOf
    rw [Vector.getElem_ofFn]
  rw [gridFlags_rows]
  simp only [e, rowFlags_ofFn]
  constructor
  · rintro ⟨i, j, hn⟩; exact ⟨i, j.val, j.isLt, hn⟩
  · rintro ⟨i, j, hj, hn⟩; exact ⟨i, ⟨j, hj⟩, hn⟩

end Sys2Proof.Machine
end

