-- ==== Sys2Proof/Tests/Slice0.lean ====
section
/-! SUPPORT. Tests: words written out from the manual's encodings, ill-formed terms that the field checks refuse, single steps with results taken from the
manual, and for every statement of Certificates/Slice0/Obligations.lean a witness: a state and operands that meet its hypotheses together, a part for
each clause. -/

set_option maxRecDepth 8000
set_option Elab.async false

namespace Sys2Proof.Tests
open Sys2Proof Sys2Proof.Machine

/-! ### Decoding: a word of each family, as the manual prints or lays it out -/

/-- Integer family, R128-R131 and their examples: SEL 0x14, DIV 0x04, ADDI 0x16; LUI and LIX from R109 and R113. -/
theorem test_words_integer :
    decode .a 0x28429800 0 = .ok (.sel 4 5 6 0) ∧ decode .a 0x0884aac0 0 = .ok (.div 8 9 10 0xb 0) ∧
    decode .a 0x2c318010 0 = .ok (.addi 3 3 1 0) ∧ decode .a 0x00c62c00 0 = .ok (.add 12 12 11 0) ∧
    decode .a 0x2ca00030 0 = .ok (.addi 10 0 3 0) := by decide

/-- Control family, R132-R138: BR and LOOP with their extension words, END. -/
theorem test_words_control :
    decode .a 0x40818400 0 = .ok (.br 2 3 1 0 0) ∧ decode .a 0x48050000 0x40 = .ok (.loop 0 10 4 0) ∧
    decode .a 0x48410000 0x370 = .ok (.loop 1 2 0x37 0) ∧ decode .a 0x4e000000 0 = .ok (.endA 0) := by decide

/-- Access family, R139-R158: LD, ST, LDT, STT, WAITA, AAT and TOKW. -/
theorem test_words_access :
    decode .a 0x60536660 0 = .ok (.ld 5 6 3 0 1 9 2 0) ∧ decode .a 0x62734810 0 = .ok (.st 7 6 2 2 0 1 0) ∧
    decode .a 0x684b0200 0 = .ok (.ldt 9 12 0 8 0) ∧ decode .a 0x6a15a240 0 = .ok (.stt 2 22 1 9 0) ∧
    decode .a 0x75de0020 0 = .ok (.waita 29 28 0 0 2 0) ∧ decode .a 0x90531e80 0x40400000 = .ok (.aat 5 6 7 0xa 8 0 0 1 0) ∧
    decode .a 0xcc003000 0 = .ok (.tokwA 6 0) ∧ decode .a 0xca000500 0 = .ok (.toksA 1 0) := by decide

/-- System family, R159-R165: CRD, CWR, CMW and CXC. -/
theorem test_words_system :
    decode .a 0xe0401010 0 = .ok (.crd 4 0 0x101 0) ∧ decode .a 0xe2703000 0 = .ok (.cwr 7 0 0x300 0) ∧
    decode .a 0xe46380a0 0 = .ok (.cmw 6 7 0xa 0) ∧ decode .a 0xe6530080 0 = .ok (.cxc 5 6 8 0) := by decide

/-- Rooms and drones, R214-R235. -/
theorem test_words_rooms :
    decode .a 0xb0a58000 0 = .ok (.mnest 10 11 ⟨0, 0, 0⟩ 0 0) ∧ decode .a 0xb2c68000 0 = .ok (.mfmt 12 13 ⟨0, 0, 0⟩ 0 0) ∧
    decode .a 0xb4000da0 0 = .ok (.mgo ⟨1, 1, 1⟩ 0xa 0) ∧ decode .a 0xb8f80000 0 = .ok (.mdrn 15 16 ⟨0, 0, 0⟩ 0 0) ∧
    decode .a 0xb6e00000 0 = .ok (.mwing 14 ⟨0, 0, 0⟩ 0 0) ∧ decode .a 0xbb24c400 0 = .ok (.dstart 18 9 ⟨8, 1, 0⟩ 0 0) ∧
    decode .a 0xbd100000 0 = .ok (.dlook 17 ⟨0, 0, 0⟩ 0 0) ∧ decode .a 0xbf9b0000 0 = .ok (.dfeed 25 22 ⟨0, 0, 0⟩ 0 0) ∧
    decode .a 0xc0000000 0 = .ok (.ddrn 0 ⟨0, 0, 0⟩ 0 0) ∧ decode .a 0xc2000000 0 = .ok (.dend ⟨0, 0, 0⟩ 0 0) ∧
    decode .a 0xc4000000 0 = .ok (.dret 0) := by decide

/-- Copies, passages, collectives and supersteps, R241-R243, R264, R268-R278. -/
theorem test_words_copies :
    decode .a 0xc6000080 0x00600000 = .ok (.cpy 0 0 ⟨0, 0, 0⟩ 8 0x18000 0) ∧ decode .a 0xc8000600 0 = .ok (.cpyq ⟨0, 1, 2⟩ 0 0) ∧
    decode .a 0xce848400 0 = .ok (.psend 8 9 ⟨0, 1, 0⟩ 0 0) ∧ decode .a 0xd0848500 0 = .ok (.precv 8 9 ⟨0, 1, 1⟩ 0 0) ∧
    decode .a 0xd2f08000 0 = .ok (.coll 15 1 ⟨0, 0, 0⟩ 0 0) ∧ decode .a 0xd4080000 0 = .ok (.collw 16 0 0) ∧
    decode .a 0x93100000 0 = .ok (.ssync 17 0 0) := by decide

/-- Scan family, R297-R303. -/
theorem test_words_scan :
    decode .a 0xf6563600 0 = .ok (.scnstop 5 12 13 8 0) ∧ decode .a 0xf8863ec0 0 = .ok (.scnrun 8 12 15 0xb 0) ∧
    decode .a 0xfa650240 0 = .ok (.scnout 6 10 9 0) ∧ decode .a 0xfa530250 0 = .ok (.scnin 5 6 9 0) ∧
    decode .a 0xfe931c00 0 = .ok (.scnq 9 6 7 0 0) := by decide

/-- Execute instructions, R166-R192. -/
theorem test_words_execute :
    decode .x 0x00282110 0 = .ok (.vadd 5 1 2 1 0) ∧ decode .x 0x06308290 0 = .ok (.vfma 6 4 5 1 0) ∧
    decode .x 0x2228c410 0 = .ok (.vsel 5 6 1 1 0) ∧ decode .x 0x20606200 0 = .ok (.vcmp 1 4 3 4 0 0) ∧
    decode .x 0x3a206000 0 = .ok (.vsigm 4 3 0 0) ∧ decode .x 0x80128c80 0 = .ok (.vcvt 2 20 3 0 1 0 0) ∧
    decode .x 0x84490390 0 = .ok (.vqenc 9 8 7 1 0) ∧ decode .x 0xa0386000 0 = .ok (.vred 7 3 0 0 0 0 0) ∧
    decode .x 0xa2406000 0 = .ok (.vscan 8 3 0 0 0 0 0) ∧ decode .x 0xaea02000 0 = .ok (.vmov 20 1 0) ∧
    decode .x 0xb2188000 0 = .ok (.vacc 3 2 0 0) ∧ decode .x 0xb418b000 0 = .ok (.vacw 3 2 1 1 0) ∧
    decode .x 0xc8980000 0 = .ok (.mpop 2 3 0) ∧ decode .x 0xd0624050 0 = .ok (.eadd 3 1 2 5 0) ∧
    decode .x 0xda100400 0 = .ok (.erd 2 8 0) ∧ decode .x 0xdc280480 0 = .ok (.ewr 5 9 0) ∧
    decode .x 0xe1d00000 0x520 = .ok (.cqb 7 4 0 0x52 0) ∧ decode .x 0xe4040000 0x370 = .ok (.xloop 0 1 0x37 0) ∧
    decode .x 0xe8000400 0 = .ok (.toksX 0 0) ∧ decode .x 0xea001000 0 = .ok (.tokwX 2 0) ∧ decode .x 0xee000000 0 = .ok (.xend 0) := by decide

/-- Drain micro-ops, R252. -/
theorem test_words_drain :
    decode .drain 0x02000020 0 = .ok (.dbia 2) ∧ decode .drain 0x04080000 0 = .ok (.dact 1) ∧ decode .drain 0x10000080 0 = .ok (.dstl 0 8) ∧
    decode .drain 0x12080000 0 = .ok (.drainDend 1) := by decide

/-- Opcodes that the maps leave out, and reserved fields that are not zero (R116-R119). -/
theorem test_words_refused :
    decode .a 0x52000000 0 = .error .noOpcode ∧ decode .x 0xf0000000 0 = .error .noOpcode ∧ decode .drain 0x14000000 0 = .error .noOpcode ∧
    decode .a 0x4e000010 0 = .error .reservedField ∧ decode .x 0xee000010 0 = .error .reservedField ∧
    decode .drain 0x02000021 0 = .error .reservedField := by decide

/-! ### Ill-formed terms, one for each field check (R110-R115, R367-R374) -/

/-- Shift immediates, conditions, loop numbers and widths of accesses. -/
theorem test_ill_formed_scalar_fields :
    ¬ (Instr.shli 1 2 64 0).WellFormed ∧ ¬ (Instr.shri 1 2 0x7ff 0).WellFormed ∧ ¬ (Instr.srai 1 2 64 0).WellFormed ∧
    ¬ (Instr.br 6 1 2 0 0).WellFormed ∧ (Instr.br 6 1 0 0 0).WellFormed ∧ ¬ (Instr.loop 6 1 0 0).WellFormed ∧
    ¬ (Instr.ld 1 2 3 0 2 0 0 0).WellFormed ∧ ¬ (Instr.ld 1 2 3 1 0 0 0 0).WellFormed ∧ ¬ (Instr.ld 1 2 3 0 0 0 1 0).WellFormed ∧
    ¬ (Instr.st 1 2 3 1 0 0 0).WellFormed ∧ ¬ (Instr.st 1 2 3 0 0 1 0).WellFormed ∧ ¬ (Instr.ldl 1 2 3 1 0).WellFormed ∧
    ¬ (Instr.cqb 7 1 2 0 0).WellFormed ∧ ¬ (Instr.xloop 7 1 0 0).WellFormed ∧ ¬ (Instr.dact 6).WellFormed := by decide

/-- Atomics and tokens. -/
theorem test_ill_formed_atomics_and_tokens :
    ¬ (Instr.aat 1 2 3 0 0 5 0 0 0).WellFormed ∧ ¬ (Instr.aat 1 2 3 0 0 4 0 1 0).WellFormed ∧ ¬ (Instr.aat 1 2 3 0 9 0 0 0 0).WellFormed ∧
    ¬ (Instr.toksA 0 0).WellFormed ∧ ¬ (Instr.tokwA 0 0).WellFormed ∧ ¬ (Instr.tokwA 8 0).WellFormed ∧
    ¬ (Instr.toksX 1 0).WellFormed ∧ ¬ (Instr.tokwX 0 0).WellFormed ∧ ¬ (Instr.tokwX 4 0).WellFormed ∧
    ¬ (Instr.mgo ⟨2, 0, 0⟩ 0 0).WellFormed ∧ ¬ (Instr.mgo ⟨0, 1, 2⟩ 0 0).WellFormed ∧ ¬ (Instr.mgo ⟨0, 0, 1⟩ 0 0).WellFormed ∧
    ¬ (Instr.cpyq ⟨1, 0, 0⟩ 0 0).WellFormed ∧ ¬ (Instr.cpyq ⟨0, 1, 3⟩ 0 0).WellFormed := by decide

/-- Element types and kinds of the execute instructions. -/
theorem test_ill_formed_types :
    ¬ (Instr.vadd 1 2 3 3 0).WellFormed ∧ ¬ (Instr.vshl 1 2 3 0 0).WellFormed ∧ ¬ (Instr.vexp2 1 2 7 0).WellFormed ∧
    ¬ (Instr.vqenc 1 2 3 5 0).WellFormed ∧ ¬ (Instr.vred 1 2 0 0 3 0 0).WellFormed ∧ ¬ (Instr.vscan 1 2 0 0 2 0 0).WellFormed ∧
    (Instr.vadd 1 2 3 0 0).WellFormed := by decide

/-! ### Single steps -/

/-- An image of one line, its latencies those of the manual's class table where they are fixed (R120) and 1 elsewhere. -/
def image (k : StreamKind) (a b : W32) : Image := { oneLine k a b with latency := [1, 3, 1, 4, 1, 32, 40, 24, 34, 48, 1, 2] }

/-- Suite 0, bank 0 runs a Visit of tenant 0 with both streams at slot 0 of that image; `k` is the running stream. -/
def suite0 (k : StreamKind) : State :=
  let s := State.reset.modPkg fun p => { p with booted := true, images := [image k 0 0] }
  { s.modBank (.bank 0 0) fun x =>
      { x with visit := some (oneVisit 0), sa := { x.sa with running := true }, sx := { x.sx with running := true } } with
    cur := ⟨.bank 0 0, k⟩ }

/-- The supervisor context of tenant 0 runs that image. -/
def steward : State :=
  let s := State.reset.modPkg fun p => { p with booted := true, images := [image .a 0 0] }
  { s.modCtx 0 fun x => { x with running := true, hasImage := true, image := 0, regs := { x.regs with sa := { x.regs.sa with running := true } } } with
    cur := ⟨.ctx 0, .a⟩ }

def putA (n : BitVec 5) (v : Word) (s : State) : State := writeA s s.cur n v
def putE (n : BitVec 4) (v : Word) (s : State) : State := writeE s s.cur n v

/-- The state that an instruction leads to, where it goes on. -/
def ran (s : State) (i : Instr) : State := after s (exec i s)
def aOf (s : State) (n : BitVec 5) : Word := readA s s.cur n
def eOf (s : State) (n : BitVec 4) : Word := readE s s.cur n
/-- a1 after an instruction over a2 = x and a3 = y. -/
def aResult (i : Instr) (x y : Word) : Word := aOf (ran (putA 2 x (putA 3 y (suite0 .a))) i) 1

/-- R128: results wrap modulo 2^64. -/
theorem test_add_wraps : aResult (.add 1 2 3 0) 0xffffffffffffffff 2 = 1 := by decide
theorem test_sub_wraps : aResult (.sub 1 2 3 0) 1 2 = 0xffffffffffffffff := by decide
/-- R128: signed and unsigned minima and comparisons of -1 and 1. -/
theorem test_min_signed : aResult (.min 1 2 3 0) (-1) 1 = -1 := by decide
theorem test_minu_unsigned : aResult (.minu 1 2 3 0) (-1) 1 = 1 := by decide
theorem test_max_signed : aResult (.max 1 2 3 0) (-1) 1 = 1 := by decide
theorem test_maxu_unsigned : aResult (.maxu 1 2 3 0) (-1) 1 = -1 := by decide
theorem test_slt_signed : aResult (.slt 1 2 3 0) (-1) 1 = 1 := by decide
theorem test_sltu_unsigned : aResult (.sltu 1 2 3 0) (-1) 1 = 0 := by decide
/-- R128: shifts use y[5:0]. -/
theorem test_shl_uses_six_bits : aResult (.shl 1 2 3 0) 1 65 = 2 := by decide
theorem test_shr_uses_six_bits : aResult (.shr 1 2 3 0) 4 65 = 2 := by decide
theorem test_sra_keeps_sign : aResult (.sra 1 2 3 0) (-4) 1 = -2 := by decide
theorem test_and : aResult (.and 1 2 3 0) 12 10 = 8 := by decide
theorem test_or : aResult (.or 1 2 3 0) 12 10 = 14 := by decide
theorem test_xor : aResult (.xor 1 2 3 0) 12 10 = 6 := by decide
/-- R128: SEL takes x where the old a[d] is not 0, else y. -/
theorem test_sel_zero : aResult (.sel 1 2 3 0) 5 6 = 6 := by decide
theorem test_sel_nonzero : aOf (ran (putA 1 9 (putA 2 5 (putA 3 6 (suite0 .a)))) (.sel 1 2 3 0)) 1 = 5 := by decide
/-- R128: CLZ of 0 is 64. -/
theorem test_clz_zero : aResult (.clz 1 2 0) 0 0 = 64 := by decide
theorem test_clz_one : aResult (.clz 1 2 0) 1 0 = 63 := by decide
theorem test_popc : aResult (.popc 1 2 0) 0xff01 0 = 9 := by decide
/-- R130: imm is sign-extended from 11 bits. -/
theorem test_addi_sign : aResult (.addi 1 2 0x7ff 0) 5 0 = 4 := by decide
theorem test_andi_sign : aResult (.andi 1 2 0x400 0) (-1) 0 = 0xfffffffffffffc00 := by decide
theorem test_ori : aResult (.ori 1 2 3 0) 4 0 = 7 := by decide
theorem test_xori : aResult (.xori 1 2 0x7ff 0) 0 0 = -1 := by decide
theorem test_shli : aResult (.shli 1 2 63 0) 1 0 = 0x8000000000000000 := by decide
theorem test_shri : aResult (.shri 1 2 63 0) (-1) 0 = 1 := by decide
theorem test_srai : aResult (.srai 1 2 63 0) 0x8000000000000000 0 = -1 := by decide
theorem test_slti_sign : aResult (.slti 1 2 0x7ff 0) 0 0 = 0 := by decide
/-- R131: LUI and LIX sign-extend; LIX takes two slots. -/
theorem test_lui_sign : aResult (.lui 1 0x8000 0) 0 0 = 0xffffffff80000000 := by decide
theorem test_lix_sign : aResult (.lix 1 0x80000000 0) 0 0 = 0xffffffff80000000 := by decide
theorem test_lix_two_slots : ((ran (suite0 .a) (.lix 1 5 0)).stream ⟨.bank 0 0, .a⟩).pos = 2 := by decide
/-- R128: MUL and MULH have class C1: the destination keeps its value until the third cycle. -/
theorem test_mul_in_flight :
    aResult (.mul 1 2 3 0) 3 5 = 0 ∧ ((ran (putA 2 3 (putA 3 5 (suite0 .a))) (.mul 1 2 3 0)).bank (.bank 0 0)).fly.map (·.res) = [[.a 1 15]] := by
  decide
theorem test_mulh_signed :
    ((ran (putA 2 (-1) (putA 3 2 (suite0 .a))) (.mulh 1 2 3 0)).bank (.bank 0 0)).fly.map (·.res) = [[.a 1 (-1)]] := by decide
/-- R43: a write to a0 is discarded. -/
theorem test_a0_discards : aOf (ran (putA 2 1 (suite0 .a)) (.add 0 2 2 0)) 0 = 0 := by decide
/-- R129: division by zero, and -2^63 / -1. -/
def divValues (i : Instr) (x y : Word) : List Word := ((ran (putA 2 x (putA 3 y (suite0 .a))) i).bank (.bank 0 0)).divs.map (·.value)
theorem test_div_by_zero : divValues (.div 1 2 3 0 0) 7 0 = [-1] ∧ divValues (.divu 1 2 3 0 0) 7 0 = [-1] := by decide
theorem test_rem_by_zero : divValues (.rem 1 2 3 0 0) 7 0 = [7] ∧ divValues (.remu 1 2 3 0 0) 7 0 = [7] := by decide
theorem test_div_overflow :
    divValues (.div 1 2 3 0 0) 0x8000000000000000 (-1) = [0x8000000000000000] ∧ divValues (.rem 1 2 3 0 0) 0x8000000000000000 (-1) = [0] := by decide
theorem test_div_truncates : divValues (.div 1 2 3 0 0) (-7) 2 = [-3] ∧ divValues (.rem 1 2 3 0 0) (-7) 2 = [-1] := by decide

/-! Control: R133-R137, R187-R190. Position 1 is slot 1 of line 0, position 2 the place after a two-slot form at slot 0. -/

def posAfter (k : StreamKind) (s : State) (i : Instr) : Nat := ((ran s i).stream ⟨.bank 0 0, k⟩).pos
theorem test_br_taken : posAfter .a (putA 2 (-1) (suite0 .a)) (.br 2 2 0 1 0) = 1 := by decide
theorem test_br_unsigned_not_taken : posAfter .a (putA 2 (-1) (suite0 .a)) (.br 4 2 0 1 0) = 2 := by decide
theorem test_jmp : posAfter .a (suite0 .a) (.jmp 1 0) = 1 := by decide
theorem test_jmp_outside_traps : ((ran (suite0 .a) (.jmp 16 0)).bank (.bank 0 0)).traps.map (·.cause) = [0x05] := by decide
theorem test_call_links : aOf (ran (suite0 .a) (.call 1 0)) 31 = 2 ∧ posAfter .a (suite0 .a) (.call 1 0) = 1 := by decide
theorem test_ret : posAfter .a (putA 31 1 (suite0 .a)) (.ret 0) = 1 := by decide
theorem test_xbr : posAfter .x (suite0 .x) (.xbr 0 0 0 1 0) = 1 := by decide
theorem test_loop_starts : (((ran (putA 2 3 (suite0 .a)) (.loop 0 2 2 0)).stream ⟨.bank 0 0, .a⟩).loops.get 0).counter = 3 := by decide
theorem test_end_stops : ((ran (suite0 .a) (.endA 0)).stream ⟨.bank 0 0, .a⟩).running = false := by decide
theorem test_xend_stops : ((ran (suite0 .x) (.xend 0)).stream ⟨.bank 0 0, .x⟩).running = false := by decide
theorem test_cqp_pushes : ((ran (putA 2 7 (suite0 .a)) (.cqp 2 0)).bank (.bank 0 0)).cqNew = [7] := by decide
theorem test_toks_pushes : (((ran (suite0 .a) (.toksA 1 0)).bank (.bank 0 0)).tokNew.get 0) = 1 := by decide
theorem test_nop_goes_on : posAfter .a (suite0 .a) (.nopA 0) = 1 := by decide
theorem test_trap_cause : ((ran (suite0 .a) (.trap 5 0)).bank (.bank 0 0)).traps.map (·.cause) = [0x06] := by decide

/-- Scalars of the X-stream: wrap-around, and sign extension from 9 and 17 bits (R187). -/
def eResult (i : Instr) (x y : Word) : Word := eOf (ran (putE 2 x (putE 3 y (suite0 .x))) i) 1
theorem test_eadd_sign : eResult (.eadd 1 2 3 0x1ff 0) 5 6 = 10 := by decide
theorem test_esub_imm_added : eResult (.esub 1 2 3 1 0) 5 6 = 0 := by decide
theorem test_emul_wraps : eResult (.emul 1 2 3 0) (-1) 2 = -2 := by decide
theorem test_emov : eResult (.emov 1 2 0) 9 0 = 9 := by decide
theorem test_eli_sign : eResult (.eli 1 0x10000 0) 0 0 = 0xffffffffffff0000 := by decide

/-! Local Store and tiles: R143, R144, R182. -/

theorem test_stl_writes_low_byte_first :
    lsRead (ran (putA 2 64 (putA 1 0x0102 (suite0 .a))) (.stl 1 2 1 0)) 0 64 2 = [2, 1] := by decide
theorem test_stl_misaligned_traps :
    ((ran (putA 2 65 (putA 1 0x0102 (suite0 .a))) (.stl 1 2 1 0)).bank (.bank 0 0)).traps.map (·.cause) = [0x23] := by decide

/-! Numbers: R70-R76, R84. The values are those of IEEE 754 for binary32, and of the OCP formats of R69. -/

theorem test_fp32_add : (cvt (addV false (dec 0x3f800000 .fp32) (dec 0x40000000 .fp32)).1 .fp32 0 false).1 = 0x40400000 := by decide
theorem test_fp32_mul_rounds :
    (cvt (mulV (dec 0x3f800001 .fp32) (dec 0x3f800001 .fp32)).1 .fp32 0 false) = (0x3f800002, Flags.inexact) := by decide +kernel
theorem test_fp32_rcp : (cvt (fRcp (dec 0x40400000 .fp32)).1 .fp32 0 false) = (0x3eaaaaab, Flags.inexact) := by decide +kernel
theorem test_fp32_sqrt : (cvt (fSqrt (dec 0x40000000 .fp32)).1 .fp32 0 false) = (0x3fb504f3, Flags.inexact) := by decide +kernel
theorem test_fp32_exp2 : (cvt (fExp2 (dec 0x3f000000 .fp32)).1 .fp32 0 false).1 = 0x3fb504f3 := by decide +kernel
theorem test_e4m3_maximum : (cvt (dec 0x43e00000 .fp32) .e4m3 0 true).1 = 0x7e := by decide +kernel
theorem test_bf16_tie_to_even : (cvt (dec 0x3f808000 .fp32) .bf16 0 false).1 = 0x3f80 := by decide +kernel

/-- The SHA-256 of "abc" (FIPS 180-4, appendix B.1), which R342 takes digests by. -/
theorem test_sha256_abc :
    sha256 [0x61, 0x62, 0x63] = 0xba7816bf8f01cfea414140de5dae2223b00361a396177a9cb410ff61f20015ad := by decide
/-- The check value of CRC-32C over "123456789" (R306). -/
theorem test_crc32c_check : crc32c [0x31, 0x32, 0x33, 0x34, 0x35, 0x36, 0x37, 0x38, 0x39] = 0xe3069283 := by decide

/-! ### Witnesses: for every statement with hypotheses, states and operands that meet them, clause by clause -/

/-- What an answer and a state say separately, said of the pair. -/
theorem pair_of {α β : Type} {p : α × β} {a : α} (h : p.1 = a) : ∃ b, p = (a, b) := ⟨p.2, by rw [← h]⟩

/-- Ready with the instruction's own wait field. -/
def rd (s : State) (i : Instr) : Bool := ready s i i.waitField

/-- Segment 0 of tenant 0: 65,536 bytes, writable and with code, in frame 1 under key slot 0; its descriptor stands at 0x100 and its entry, accessed and
dirty, at 0x1000 (R59, R60, R64). -/
def mapped (s : State) : State :=
  (s.modPkg fun p => { p with
    mem := [(0x100, 1), (0x101, 6), (0x103, 7), (0x10a, 1), (0x10c, 1), (0x110, 1), (0x114, 1), (0x118, 1), (0x11c, 1), (0x131, 0x10), (0x138, 1),
      (0x1000, 1), (0x1007, 0xe0)]
    keys := p.keys.set 0 ⟨some 0, 0⟩ }).modCtx 0 fun x => { x with segbase := 0x100, segcnt := 1 }

/-- Bank 0 of Suite 0 changed. -/
def withBank (f : Bank → Bank) (s : State) : State := s.modBank (.bank 0 0) f
def withA (f : Stream → Stream) (s : State) : State := withBank (fun b => { b with sa := f b.sa }) s

theorem witness_DecodeEncode : (Instr.add 1 2 3 0).map = some .a ∧ (Instr.vadd 1 2 3 0 0).map = some .x ∧ (Instr.dbia 1).map = some .drain := by decide
theorem witness_EncodeDecode : decode .a 0x28429800 0 = .ok (.sel 4 5 6 0) := by decide

/-- The turn of each kind of stream comes: the A- and the X-stream of a bank, a Steward context's, the chanter's, a drain row's; and an event's. -/
theorem witness_StepRunsDecoded :
    let s := suite0 .a
    let ok := fun (s : State) (ag : Agent) (m : Map) (i : Instr) => live s ag = true ∧ fetch s ag = .word m 0 0 ∧ decode m 0 0 = .ok i
    ({ s with turns := [.issue ⟨.bank 0 0, .a⟩] } : State).turns = [.issue ⟨.bank 0 0, .a⟩] ∧ ok s ⟨.bank 0 0, .a⟩ .a (.add 0 0 0 0) ∧
    (s.bank (.bank 0 0)).traps = [] ∧ (s.suite 0).aPort = false ∧
    (let x := suite0 .x
     ok x ⟨.bank 0 0, .x⟩ .x (.vadd 0 0 0 0 0) ∧ (x.bank (.bank 0 0)).traps = [] ∧ wouldTrap x ⟨.bank 0 0, .a⟩ = true ∧
     ((x.modSuite 0 fun y => { y with aPort := true }).suite 0).aPort = true ∧
     (let y := withA (fun st => { st with running := false }) x
      ok y ⟨.bank 0 0, .x⟩ .x (.vadd 0 0 0 0 0) ∧ wouldTrap y ⟨.bank 0 0, .a⟩ = false)) ∧
    ok steward ⟨.ctx 0, .a⟩ .a (.add 0 0 0 0) ∧
    (let c := (State.reset.withFetchWord 32 0xc4000000)
     live c ⟨.bank 0 0, .chanter⟩ = true ∧ fetch c ⟨.bank 0 0, .chanter⟩ = .word .a 0xc4000000 0 ∧ decode .a 0xc4000000 0 = .ok (.dret 0)) ∧
    (let d := (State.reset.withFetchWord 32 0x14000000)
     d.turns = [.issue ⟨.bank 0 0, .a⟩]) ∧
    (∀ t ∈ ([.event .thermalTrip, .csr ⟨.bank 0 0, .a⟩ 8 (.write 1), .csr ⟨.bank 0 0, .a⟩ 8 (.masked 1 1), .csr ⟨.bank 0 0, .a⟩ 8 (.exchange 1 2)] : List Turn),
      ({ s with turns := [t] } : State).turns = [t]) := by decide

theorem witness_MemoryWrites : State.reset.pkg.mem.wf = true ∧ ∀ v, (State.reset.suite v).ls.wf = true := by decide

/-- One active loop that ends at the position, with one and with more iterations to go; none that ends there. -/
def looping (n : W32) (stop : Nat) : State :=
  withA (fun x => { x with loops := x.loops.set 2 ⟨n, 0, stop, true, 1, 0⟩ }) (suite0 .a)
theorem witness_IssueMoves :
    quiet (suite0 .a) = true ∧ quiet (suite0 .x) = true ∧
    (∀ n : W32, n = 1 ∨ n = 2 → quiet (looping n 0) = true ∧
      (((looping n 0).stream ⟨.bank 0 0, .a⟩).loops.get 2).active = true ∧ (((looping n 0).stream ⟨.bank 0 0, .a⟩).loops.get 2).stop = 0 ∧
      (((looping n 0).stream ⟨.bank 0 0, .a⟩).loops.get 2).counter = n ∧
      ∀ j : Fin 6, j ≠ 2 → (((looping n 0).stream ⟨.bank 0 0, .a⟩).loops.get j).active = false) ∧
    (((looping 1 5).stream ⟨.bank 0 0, .a⟩).loops.get 2).stop ≠ ((looping 1 5).stream ⟨.bank 0 0, .a⟩).pos := by
  refine ⟨by decide, by decide, ?_, by decide⟩
  rintro n (rfl | rfl) <;> decide

/-- Each check of stage 1 fails somewhere; a privileged word in a Suite; a wait field whose semaphore is 0. -/
theorem witness_ChecksAndWaits :
    stage1 (suite0 .a) ⟨.bank 0 0, .a⟩ (.shli 1 2 64 0) = some 0x02 ∧ (Instr.shli 1 2 64 0).map = some .a ∧
    stage1 (suite0 .x) ⟨.bank 0 0, .x⟩ (.vzero 48 0) = some 0x03 ∧ (Instr.vzero 48 0).map = some .x ∧
    stage1 (suite0 .a) ⟨.bank 0 0, .a⟩ (.dret 0) = some 0x01 ∧ stage1 (suite0 .a) ⟨.bank 0 0, .a⟩ (.eret 0) = some 0x04 ∧
    (Instr.eret 0).privileged = true ∧ (Instr.eret 0).WellFormed ∧
    stage1 (suite0 .a) ⟨.bank 0 0, .a⟩ (.add 1 2 3 8) = none ∧ (commonHold (suite0 .a) ⟨.bank 0 0, .a⟩ (.add 1 2 3 8) 8).isSome = true := by decide

/-- A bank that an earlier trap holds, and one that none holds; a context without a handler, at depth 4, and with a handler and a frame in memory. -/
def handled (depth : BitVec 3) : State :=
  mapped (steward.modCtx 0 fun x => { x with regs := { x.regs with sa := { x.regs.sa with hndl := Vector.replicate _ 16, tfdepth := depth } } })
theorem witness_TrapEntry :
    heldBefore (suite0 .a) (.bank 0 0) = false ∧
    heldBefore (withBank (fun b => { b with traps := [⟨6, 0, 0, 0, 0, 0⟩], trapAt := none }) (suite0 .a)) (.bank 0 0) = true ∧
    ((steward.stream ⟨.ctx 0, .a⟩).hndl.toList.getD (causeBlock 0x06) 0) = 0 ∧ 4 ≤ ((handled 4).stream ⟨.ctx 0, .a⟩).tfdepth.toNat ∧
    ((handled 3).stream ⟨.ctx 0, .a⟩).tfdepth.toNat < 4 ∧ ((handled 3).stream ⟨.ctx 0, .a⟩).hndl.toList.getD (causeBlock 0x06) 0 ≠ 0 ∧
    (storeVa (handled 3) (ctxTenant (handled 3) 0) (0 + 64 * 3) (frameBytes (handled 3) 0 ⟨6, 0, 0, 0, 0, 0⟩) 256).1 = .ok () := by decide

theorem witness_RegisterResults :
    (∀ i ∈ ([.add 1 2 3 0, .sub 1 2 3 0, .mul 1 2 3 0, .mulh 1 2 3 0, .and 1 2 3 0, .or 1 2 3 0, .xor 1 2 3 0, .shl 1 2 3 0, .shr 1 2 3 0, .sra 1 2 3 0,
      .min 1 2 3 0, .max 1 2 3 0, .minu 1 2 3 0, .maxu 1 2 3 0, .slt 1 2 3 0, .sltu 1 2 3 0, .sel 1 2 3 0, .clz 1 2 0, .popc 1 2 0, .addi 0 2 3 0,
      .andi 1 2 3 0, .ori 1 2 3 0, .xori 1 2 3 0, .shli 1 2 63 0, .shri 1 2 63 0, .srai 1 2 63 0, .slti 1 2 3 0, .lui 1 3 0, .lix 1 3 0,
      .div 1 2 3 0 0, .divu 1 2 3 0 0, .rem 1 2 3 0 0, .remu 1 2 3 0 0] : List Instr), rd (suite0 .a) i = true) ∧
    (∀ i ∈ ([.eadd 1 2 3 4 0, .esub 1 2 3 4 0, .emul 1 2 3 0, .emov 1 2 0, .eli 1 2 0] : List Instr), rd (suite0 .x) i = true) ∧
    (let s := withBank (fun b => { b with divs := [⟨.a, 1, 7, 8, 0, 0⟩] }) (suite0 .a)
     (s.bank (.bank 0 0)).divs[0]? = some ⟨.a, 1, 7, 8, 0, 0⟩) := by decide

theorem witness_IntegerFrame :
    (Instr.add 1 2 3 0).isInteger = true ∧ (Instr.add 1 2 3 0).aRegs.head? = some 1 ∧ rd (suite0 .a) (.add 1 2 3 0) = true ∧ quiet (suite0 .a) = true ∧
    (suite0 .a).cur.kind ≠ .drain ∧ rd (suite0 .a) (.add 0 2 3 0) = true := by decide

/-- Targets in and outside the image, a31 with high bits, loops of 0 and of 3 iterations. -/
theorem witness_TransfersAndLoops :
    let s := suite0 .a
    let x := suite0 .x
    rd s (.br 0 1 1 1 0) = true ∧ rd x (.xbr 0 1 1 1 0) = true ∧ rd s (.jmp 1 0) = true ∧ rd s (.call 1 0) = true ∧ rd s (.ret 0) = true ∧
    targetBad s s.cur 1 = false ∧ targetBad s s.cur 16 = true ∧ targetBad x x.cur 1 = false ∧ targetBad x x.cur 3 = true ∧
    2 ^ 28 ≤ (readA (putA 31 0x10000000 s) s.cur 31).toNat ∧ rd (putA 31 0x10000000 s) (.ret 0) = true ∧
    rd s (.loop 5 2 2 0) = true ∧ rd x (.xloop 0 2 2 0) = true ∧
    (imageOf s s.cur.bank).isSome = true ∧ (∀ im, imageOf s s.cur.bank = some im → inChainFrom im 2 (im.nlines + 1) (sequential s s.cur 2) = true) ∧
    targetBad s s.cur 2 = false ∧ (∀ im, imageOf s s.cur.bank = some im → inChainFrom im 1 (im.nlines + 1) (sequential s s.cur 2) = false) ∧
    (s.cur.kind ≠ .chanter) ∧
    (let y := withA (fun st => { st with loops := st.loops.set 2 ⟨2, 500, 0, true, 1, 0⟩ }) s
     free y (.br 1 1 1 1 0) 0 = true ∧ condHolds 1 (readA y y.cur 1) (readA y y.cur 1) = false ∧ loopBad y y.cur = some 500 ∧
     ((y.stream y.cur).loops.get 2).active = true ∧ ((y.stream y.cur).loops.get 2).stop = (y.stream y.cur).pos ∧
     (∀ j : Fin 6, j ≠ 2 → ((y.stream y.cur).loops.get j).active = false) ∧ ((y.stream y.cur).loops.get 2).counter ≠ 1 ∧
     targetBad y y.cur ((y.stream y.cur).loops.get 2).start = true) := by
  refine ⟨by decide, by decide, by decide, by decide, by decide, by decide, by decide, by decide, by decide, by decide, by decide, by decide, by decide,
    by decide, ?_, by decide, ?_, by decide, by decide⟩ <;>
  · intro im h
    have h' : imageOf (suite0 .a) (suite0 .a).cur.bank = some (image .a 0 0) := by decide
    rw [h'] at h
    cases h
    decide

/-- Debug capture of tenant 0 on, with the stream otherwise ready (R349). -/
def debugging (s : State) : State := s.modTenant 0 fun t => { t with trace := { t.trace with ctl := 0x20 } }
/-- One entry of a queue: a load of 8 bytes at 0x40 into a5, the same with scope die, a store, a non-temporal store, a DRNT. -/
def qLoad (acq : Option (BitVec 2)) : QEntry := ⟨0, .ld 5 0x40 3 false acq, 9, 0, 0⟩
def qStore (nt : Bool) (q : Nat) : QEntry := ⟨q, .st 0x40 3 0x1122334455667788 none nt, 9, 0, 0⟩
def qDrnt (q : Nat) : QEntry := ⟨q, .drnt 1, 9, 0, 0⟩
def withLq (l : List QEntry) : State → State := withBank fun b => { b with lq := l }
def withSq (l : List QEntry) : State → State := withBank fun b => { b with sq := l }

theorem witness_PlainEffects :
    rd (suite0 .a) (.nopA 0) = true ∧ rd (suite0 .x) (.nopX 0) = true ∧ rd (suite0 .a) (.hint 5) = true ∧
    rd (suite0 .a) (.brk 5 0) = true ∧ dbgOn (suite0 .a) (tenantOf (suite0 .a) (.bank 0 0)) = false ∧
    rd (debugging (suite0 .a)) (.brk 5 0) = true ∧ dbgOn (debugging (suite0 .a)) (tenantOf (debugging (suite0 .a)) (.bank 0 0)) = true ∧
    (suite0 .a).cur.bank = .bank 0 0 ∧ rd (suite0 .a) (.endA 0) = true ∧ (suite0 .x).cur.bank = .bank 0 0 ∧ rd (suite0 .x) (.xend 0) = true ∧
    steward.cur.bank = .ctx 0 ∧ rd steward (.endA 0) = true ∧
    rd (suite0 .a) (.yieldA 0) = true ∧ rd (suite0 .a) (.rpush 5 0) = true ∧ ((suite0 .a).stream (suite0 .a).cur).labels.length < 16 ∧
    (let s := withA (fun x => { x with labels := List.replicate 16 7 }) (suite0 .a)
     rd s (.rpush 5 0) = true ∧ 16 ≤ (s.stream s.cur).labels.length) ∧
    rd (suite0 .a) (.rpop 0) = true ∧ ((suite0 .a).stream (suite0 .a).cur).labels = [] ∧
    (let s := withA (fun x => { x with labels := [7, 8] }) (suite0 .a)
     rd s (.rpop 0) = true ∧ (s.stream s.cur).labels = [7, 8]) ∧
    rd (suite0 .a) (.align 0) = true ∧ rd (suite0 .a) (.pft 1 0 0) = true ∧
    rd (suite0 .a) (.fence 1 0) = true ∧ ((suite0 .a).bank (suite0 .a).cur.bank).sq.any (fun e => e.isDrnt) = false ∧
    (let s := withSq [qDrnt 0] (suite0 .a)
     rd s (.fence 1 0) = true ∧ (s.bank s.cur.bank).sq.any (fun e => e.isDrnt) = true) ∧
    (let s := withBank (fun b => { b with fence := some (1, true), lq := [qLoad none] }) (suite0 .a)
     (s.bank (.bank 0 0)).fence = some (1, true) ∧ earlierPending (s.bank (.bank 0 0)) 1 = true) ∧
    (let s := withBank (fun b => { b with fence := some (1, true) }) (suite0 .a)
     (s.bank (.bank 0 0)).fence = some (1, true) ∧ earlierPending (s.bank (.bank 0 0)) 1 = false ∧ replayPending (s.bank (.bank 0 0)) 1 = false) ∧
    (let s := withBank (fun b => { b with fence := some (1, true), replay := [qStore false 0] }) (suite0 .a)
     (s.bank (.bank 0 0)).fence = some (1, true) ∧ replayPending (s.bank (.bank 0 0)) 1 = true) ∧
    (let s := withLq [qLoad (some 1)] (suite0 .a)
     free s (.pft 1 0 0) 0 = true ∧ s.cur.kind = .a ∧ acquirePending (s.bank s.cur.bank) = true) ∧
    acquirePending ((suite0 .a).bank (suite0 .a).cur.bank) = false := by
  and_intros <;> decide +kernel

/-- The queued accesses are ready with that address in a6. -/
def accessReady (n : Word) : Bool :=
  [Instr.ld 5 6 3 0 0 0 0 0, .ld 5 6 3 0 1 0 2 0, .st 5 6 3 0 0 0 0, .st 5 6 3 2 0 1 0, .waita 5 6 7 0 0 0].all fun i => rd (putA 6 n (suite0 .a)) i
def lsReady (n : Word) : Bool :=
  let s := putA 6 n (suite0 .a)
  rd s (.ldl 9 6 3 0 0) && rd s (.stl 9 6 3 0) && !acquirePending (s.bank (.bank 0 0)) && !touchesFed s 0 n.toNat 8

/-- Aligned, far and misaligned addresses; with and without an open DRNT; atomics good, out of range, behind ACCSEQ and with the buffer full. -/
theorem witness_AccessesIssue :
    (let va := fun (n : Word) => readA (putA 6 n (suite0 .a)) (suite0 .a).cur 6
     (va 0x40).toNat < 2 ^ 52 ∧ (va 0x40).toNat % 8 = 0 ∧ 2 ^ 52 ≤ (va 0x10000000000000).toNat ∧ (va 0x41).toNat < 2 ^ 52 ∧ (va 0x41).toNat % 8 ≠ 0) ∧
    accessReady 0x40 = true ∧ accessReady 0x10000000000000 = true ∧ accessReady 0x41 = true ∧
    rd (suite0 .a) (.drnt 0 0 0) = true ∧ ((suite0 .a).bank (suite0 .a).cur.bank).sq.all (fun e => !e.isDrnt) = true ∧
    (let s := withSq [qDrnt 0] (suite0 .a)
     (s.bank s.cur.bank).sq.any (fun e => e.isDrnt) = true ∧ rd s (.st 5 6 3 2 0 1 0) = true) ∧
    (let q := fun (s : State) => (((readA s s.cur 8).setWidth 32 : W32) - (s.room 0).accseq).toNat
     let fill := fun (s : State) => s.modRoom 0 fun r =>
       { r with atomics := List.replicate 64 ⟨0, .a, 0, 10, 0, 0, 0, 0, 0, 0, 0, false, true, false, 0⟩ }
     let count := fun (s : State) => ((s.room 0).atomics.filter (·.ordered)).length
     let s := suite0 .a
     s.cur = ⟨.bank 0 0, .a⟩ ∧ rd s (.aat 5 6 7 0 8 0 1 1 0) = true ∧ rd s (.aat 5 6 7 0 0 0 1 0 0) = true ∧ count s < 64 ∧ (readA s s.cur 6).toNat < 2 ^ 19 ∧
     dualOf s s.cur.bank = false ∧ q s < 2 ^ 31 ∧ rd (fill s) (.aat 5 6 7 0 8 0 1 1 0) = true ∧ 64 ≤ count (fill s) ∧ (fill s).cur = ⟨.bank 0 0, .a⟩ ∧
     (let t := putA 6 0x80000 s
      t.cur = ⟨.bank 0 0, .a⟩ ∧ rd t (.aat 5 6 7 0 0 0 1 0 0) = true ∧ 2 ^ 19 ≤ (readA t t.cur 6).toNat) ∧
     (let t := putA 8 0x80000000 s
      t.cur = ⟨.bank 0 0, .a⟩ ∧ rd t (.aat 5 6 7 0 8 0 1 1 0) = true ∧ (readA t t.cur 6).toNat < 2 ^ 19 ∧ dualOf t t.cur.bank = false ∧
        2 ^ 31 ≤ q t)) := by
  and_intros <;> decide +kernel

/-- Every slice port with one granted request. -/
def granted (w : Asker) (line : Nat) : List L2Port := List.replicate 1536 ⟨0, [], 0, 63, [], [(w, line)]⟩
def grantAll (r : BankRef) (line : Nat) (s : State) : State := s.modPkg fun p => { p with l2 := granted (.agent r) line }
/-- Whichever port is the home of a line. -/
theorem homePort_lt (line : Nat) : homePort line < 1536 := by
  have h1 := (Config.homeStack line).isLt
  have h2 := (Config.homeSlice line).isLt
  unfold homePort
  omega
theorem granted_to {s : State} {w : Asker} {line : Nat} (h : s.pkg.l2 = granted w line) : l2GrantedTo s w line = true := by
  have hg : (l2Port s line).granted = [(w, line)] := by
    unfold l2Port granted at *
    rw [h, List.getD_eq_getElem?_getD, List.getElem?_replicate, if_pos (homePort_lt line)]
    rfl
  simp [l2GrantedTo, hg]
theorem granted_all {s : State} {r : BankRef} {line : Nat} (h : s.pkg.l2 = granted (.agent r) line) : l2Granted s r line = true := granted_to h
theorem granted_none {s : State} (r : BankRef) (line : Nat) (h : (s.pkg.l2.all fun x => x.granted.isEmpty) = true) : l2Granted s r line = false := by
  have : (l2Port s line).granted = [] := by
    unfold l2Port List.getD
    cases hx : s.pkg.l2[homePort line]? with
    | none => rfl
    | some x => simpa using List.all_eq_true.mp h x (List.mem_of_getElem? hx)
  simp [l2Granted, l2GrantedTo, this]

/-- An address of a tenant translates, to `pa` under key slot 0, with debug capture off, memory in its canonical form and the slice ports as before. -/
def translatesTo (s : State) (tn : TenantId) (va : Nat) (store : Bool) (pa : Nat) : Bool :=
  match getDesc s tn (natBits va 36 16) with
  | (some ds, s1) =>
    match Sys2Proof.Machine.translate s1 tn (natBits va 36 16) ds (va % 2 ^ 36) store with
    | (.ok (a, slot), s2) => a == pa && slot == 0 && !dbgOn s2 tn && s2.pkg.mem.wf && s2.pkg.l2 == s.pkg.l2
    | _ => false
  | _ => false
/-- The same, with the answer of the line's home port. -/
def Reaches (s : State) (r : BankRef) (tn : TenantId) (va : Nat) (store : Bool) (pa : Nat) (answer : Bool) : Prop :=
  ∃ ds s1 s2, getDesc s tn (natBits va 36 16) = (some ds, s1) ∧
    Sys2Proof.Machine.translate s1 tn (natBits va 36 16) ds (va % 2 ^ 36) store = (.ok (pa, 0), s2) ∧ dbgOn s2 tn = false ∧ s2.pkg.mem.wf = true ∧
    l2Granted s2 r (pa / 64) = answer
theorem translates_of {s : State} {tn : TenantId} {va pa : Nat} {store : Bool} (h : translatesTo s tn va store pa = true) :
    ∃ ds s1 s2, getDesc s tn (natBits va 36 16) = (some ds, s1) ∧
      Sys2Proof.Machine.translate s1 tn (natBits va 36 16) ds (va % 2 ^ 36) store = (.ok (pa, 0), s2) ∧ dbgOn s2 tn = false ∧ s2.pkg.mem.wf = true ∧
      s2.pkg.l2 = s.pkg.l2 := by
  unfold translatesTo at h
  split at h
  · rename_i ds s1 h1
    split at h
    · rename_i a slot s2 h2
      simp only [Bool.and_eq_true, beq_iff_eq, Bool.not_eq_true'] at h
      obtain ⟨⟨⟨⟨rfl, rfl⟩, h3⟩, h4⟩, h5⟩ := h
      exact ⟨ds, s1, s2, h1, h2, h3, h4, h5⟩
    · cases h
  · cases h
theorem reaches_granted {s : State} {r : BankRef} {tn : TenantId} {va pa : Nat} {store : Bool} (h : translatesTo s tn va store pa = true)
    (hl : s.pkg.l2 = granted (.agent r) (pa / 64)) : Reaches s r tn va store pa true := by
  obtain ⟨ds, s1, s2, h1, h2, h3, h4, h5⟩ := translates_of h
  exact ⟨ds, s1, s2, h1, h2, h3, h4, granted_all (h5.trans hl)⟩
theorem reaches_waiting {s : State} {r : BankRef} {tn : TenantId} {va pa : Nat} {store : Bool} (h : translatesTo s tn va store pa = true)
    (hl : (s.pkg.l2.all fun x => x.granted.isEmpty) = true) : Reaches s r tn va store pa false := by
  obtain ⟨ds, s1, s2, h1, h2, h3, h4, h5⟩ := translates_of h
  exact ⟨ds, s1, s2, h1, h2, h3, h4, granted_none _ _ (h5 ▸ hl)⟩

/-- A Suite that no retired Visit has left stores in takes no turn for them. -/
theorem leftover_none (s : State) (u : SuiteId) (b : Fin 2) (h : (s.suite u).leftover = []) : leftoverTurn s (.bank u b) = s := by
  simp [leftoverTurn, h]

/-- A load of a Suite and of a Steward context, and a store, at 0x40 of the mapped segment, their line not granted yet and granted. -/
theorem witness_AccessesPerform :
    (∀ acq ∈ ([none, some 1] : List (Option (BitVec 2))),
      (let s := grantAll (.bank 0 0) 0x401 (withLq [qLoad acq] (mapped (suite0 .a)))
       (s.bank (.bank 0 0)).lq = [qLoad acq] ∧ mayPerform (s.bank (.bank 0 0)) (qLoad acq) = true ∧ Reaches s (.bank 0 0) 0 0x40 false 0x10040 true)) ∧
    (let s := (mapped steward).modBank (.ctx 0) fun b => { b with lq := [qLoad none] }
     (s.bank (.ctx 0)).lq = [qLoad none] ∧ mayPerform (s.bank (.ctx 0)) (qLoad none) = true ∧ Reaches s (.ctx 0) 0 0x40 false 0x10040 false ∧
     ∀ s2, (l1Hit s2 (.ctx 0) 0 0 1 0x401 false).1 = none) ∧
    (∀ g : Bool,
      (let s := (if g then grantAll (.bank 0 0) 0x401 else id) (withSq [qStore false 0] (mapped (suite0 .a)))
       let c := chooseEntry s (.bank 0 0) true
       leftoverTurn s (.bank 0 0) = s ∧ c.1 = some (qStore false 0) ∧ Reaches c.2 (.bank 0 0) 0 0x40 true 0x10040 g)) ∧
    ([1, 2, 3, 4] : List Byte).length = 2 ^ (2 : BitVec 2).toNat := by
  refine ⟨?_, ⟨by decide +kernel, by decide +kernel, reaches_waiting (by decide +kernel) (by decide +kernel), fun _ => rfl⟩, ?_, by decide +kernel⟩
  · intro acq h
    simp only [List.mem_cons, List.not_mem_nil, or_false] at h
    rcases h with rfl | rfl <;> exact ⟨by decide +kernel, by decide +kernel, reaches_granted (by decide +kernel) rfl⟩
  · intro g
    cases g
    · exact ⟨leftover_none _ _ _ (by decide +kernel), by decide +kernel, reaches_waiting (by decide +kernel) (by decide +kernel)⟩
    · exact ⟨leftover_none _ _ _ (by decide +kernel), by decide +kernel, reaches_granted (by decide +kernel) rfl⟩

theorem witness_PageFaultEntry :
    ((suite0 .a).bank (.bank 0 0)).traps = [] ∧
    (withBank (fun b => { b with traps := [⟨0x20, 1, 0, 0, 0, 0⟩] }) (suite0 .a) |>.bank (.bank 0 0)).traps.any (fun f => f.cls == 1) = true ∧
    (let s := withBank (fun b => { b with traps := [⟨6, 0, 0, 0, 0, 0⟩] }) (suite0 .a)
     (s.bank (.bank 0 0)).traps.any (fun f => f.cls == 1) = false ∧ heldBefore s (.bank 0 0) = true) ∧
    (let s := withBank (fun b => { b with pageWait := true }) (suite0 .a)
     (s.bank (.bank 0 0)).pageWait = true ∧ (s.bank (.bank 0 0)).lq = [] ∧ (s.bank (.bank 0 0)).sq = []) := by
  and_intros <;> decide +kernel

/-- The descriptor at 0x100 with a second dimension, and at 0x40 of the Local Store a box of one element of segment 0 (R60, R145). -/
def boxed (s : State) : State :=
  ((mapped s).modPkg fun p => { p with mem := p.mem.map fun c => if c.1 = 0x100 then (0x100, 2) else c }).modSuite 0 fun x =>
    { x with ls := [(0x42, 1), (0x44, 1), (0x46, 1)] }
def tile0 (full busy : Bool) (s : State) : State := modTileFlag s 0 0 fun f => { f with full := full, producing := busy, consuming := busy }
/-- LDT and STT of tile 0 are ready with a2 = 0x40 or 0x100, and whether a produce and a consume may go on. -/
def tileReady (loc : BitVec 1) (a : Word) (full busy : Bool) : Bool × Bool × Bool :=
  let s := boxed (tile0 full busy (putA 2 a (suite0 .a)))
  let f := tileFlag s 0 (physTile s s.cur.bank 0)
  (rd s (.ldt 0 2 loc 9 0) && rd s (.stt 0 2 loc 9 0), !f.full && !f.producing, f.full && !f.consuming)

theorem witness_TileFillsAndDrains :
    tileReady 1 0x100 false false = (true, true, false) ∧ tileReady 1 0x100 true false = (true, false, true) ∧
    tileReady 1 0x100 true true = (true, false, false) ∧
    tileReady 0 0x40 false false = (true, true, false) ∧ tileReady 0 0x40 true false = (true, false, true) ∧
    (let s := boxed (tile0 true false (putA 2 0x40 (suite0 .a)))
     boxTrap s s.cur (readA s s.cur 2) = none) ∧
    (let s := suite0 .a
     (0x100 : Word).toNat % 256 = 0 ∧ (0x100 : Word).toNat + 32768 ≤ 0x800000 - (s.suite 0).l1mib.toNat * 0x100000 ∧ (0x100 : Word).toNat < 2 ^ 23 ∧
      acquirePending (s.bank s.cur.bank) = false ∧ touchesFed s 0 0x100 32768 = false) ∧
    (let s := withLq [qLoad (some 1)] (suite0 .a)
     rd s (.ldt 0 2 1 9 0) = true ∧ rd s (.stt 0 2 0 9 0) = true ∧ s.cur.kind = .a ∧ acquirePending (s.bank s.cur.bank) = true) := by
  and_intros <;> decide +kernel

def qWaita (watched expire : Option Nat) : QEntry := ⟨0, .waita 5 0x40 0 1 watched expire 0, 9, 0, 0⟩
/-- A translation that succeeds and leaves the slice ports alone: the word that it leads to, and whether the die's monitors are all held. -/
def wordAt (s : State) (va : Nat) : Option (Nat × Bool) :=
  match translateVa s 0 va false with
  | (.ok (pa, slot), s1) => if s1.pkg.l2 == s.pkg.l2 && pa == 65536 + va then some (leNat (physBytes s1 slot pa 8), decide (512 ≤ monitorsHeld s1 (.bank 0 0))) else none
  | _ => none
theorem word_of {s : State} {va : Nat} {v : Nat × Bool} (h : wordAt s va = some v) : ∃ slot s1, translateVa s 0 va false = (.ok (65536 + va, slot), s1) ∧
    leNat (physBytes s1 slot (65536 + va) 8) = v.1 ∧ decide (512 ≤ monitorsHeld s1 (.bank 0 0)) = v.2 ∧ s1.pkg.l2 = s.pkg.l2 := by
  unfold wordAt at h
  split at h
  · rename_i pa slot s1 h1
    split at h
    · rename_i hc
      simp only [Bool.and_eq_true, beq_iff_eq] at hc
      obtain ⟨h2, rfl⟩ := hc
      rw [Option.some.injEq] at h
      subst h
      exact ⟨slot, s1, h1, rfl, rfl, h2⟩
    · cases h
  · cases h

/-- Every monitor of the die is held. -/
def monitorsFull (s : State) : State := s.modPkg fun p => { p with monitors := List.replicate 512 (5, .bank 0 1, false) }
theorem witness_QueueEntriesComplete :
    (let s := withBank (fun b => { b with prefetch := [(9, [])] }) (suite0 .a)
     (s.bank (.bank 0 0)).prefetch[0]? = some (9, []) ∧ (s.bank (.bank 0 0)).prefetch[1]? = none) ∧
    (let s := withSq [qStore true 0, qDrnt 1] (suite0 .a)
     (s.bank (.bank 0 0)).sq.find? (fun f => !f.isNt) = some (qDrnt 1) ∧
     ((s.bank (.bank 0 0)).sq ++ (s.bank (.bank 0 0)).replay).any (fun f => f.isNt && decide (f.seq < 1)) = true) ∧
    (let s := withSq [qDrnt 1] (suite0 .a)
     (s.bank (.bank 0 0)).sq.find? (fun f => !f.isNt) = some (qDrnt 1) ∧
     ((s.bank (.bank 0 0)).sq ++ (s.bank (.bank 0 0)).replay).any (fun f => f.isNt && decide (f.seq < 1)) = false ∧
     alignHolds (s.bank (.bank 0 0)) (qDrnt 1) = false ∧ (s.bank (.bank 0 0)).lq.any (fun f => f.isAcquire && decide (f.seq < 1)) = false) ∧
    (let s := withBank (fun b => { b with lq := [qLoad (some 1)], sq := [qDrnt 1] }) (suite0 .a)
     (s.bank (.bank 0 0)).sq.find? (fun f => !f.isNt) = some (qDrnt 1) ∧ (s.bank (.bank 0 0)).lq.any (fun f => f.isAcquire && decide (f.seq < 1)) = true) ∧
    (let s := mapped (suite0 .a)
     (s.tenant (tenantOf s (.bank 0 0))).trace.ctl.getLsbD 0 = false ∧ ologMode s (tenantOf s (.bank 0 0)) = 0 ∧
     tenantOf s (.bank 0 0) = 0 ∧
     (∃ slot s1, translateVa s 0 0x40 false = (.ok (0x10040, slot), s1) ∧ l2Granted s1 (.bank 0 0) (0x10040 / 64) = false) ∧
     (∃ slot s1, translateVa (grantAll (.bank 0 0) 0x401 s) 0 0x40 false = (.ok (0x10040, slot), s1) ∧ l2Granted s1 (.bank 0 0) (0x10040 / 64) = true ∧
       leNat (physBytes s1 slot 0x10040 8) ≠ (1 : Word).toNat) ∧
     (∃ slot s1, translateVa (grantAll (.bank 0 0) 0x401 (monitorsFull s)) 0 0x40 false =
       (.ok (0x10040, slot), s1) ∧ l2Granted s1 (.bank 0 0) (0x10040 / 64) = true ∧ leNat (physBytes s1 slot 0x10040 8) = (0 : Word).toNat ∧
       512 ≤ monitorsHeld s1 (.bank 0 0))) ∧
    (let s := withBank (fun b => { b with lq := [qLoad none], sq := [qDrnt 1], aligns := [1] }) (suite0 .a)
     (s.bank (.bank 0 0)).sq.find? (fun f => !f.isNt) = some (qDrnt 1) ∧ alignHolds (s.bank (.bank 0 0)) (qDrnt 1) = true) ∧
    (let s := withLq [qWaita (some 1) (some 0)] (suite0 .a)
     (s.bank (.bank 0 0)).lq = [qWaita (some 1) (some 0)] ∧ 0 ≤ s.fabric.toNat ∧
     (s.pkg.monitors.any fun m => m.2.1 == .bank 0 0 && m.2.2) = false) ∧
    (let s := (withLq [qWaita (some 1) none] (suite0 .a)).modPkg fun p => { p with monitors := [(1, .bank 0 0, true)] }
     (s.bank (.bank 0 0)).lq = [qWaita (some 1) none] ∧
     (s.pkg.monitors.any fun m => m.2.1 == .bank 0 0 && m.2.2) = true) := by
  refine ⟨by decide +kernel, by decide +kernel, by decide +kernel, by decide +kernel, ⟨by decide +kernel, by decide +kernel, by decide +kernel, ?_, ?_, ?_⟩, by decide +kernel,
    by decide +kernel, by decide +kernel⟩
  · obtain ⟨slot, s1, h1, -, -, h2⟩ := word_of (s := mapped (suite0 .a)) (va := 0x40) (v := (0, false)) (by decide +kernel)
    exact ⟨slot, s1, h1, granted_none _ _ (h2 ▸ by decide +kernel)⟩
  · obtain ⟨slot, s1, h1, h3, -, h2⟩ := word_of (s := grantAll (.bank 0 0) 0x401 (mapped (suite0 .a))) (va := 0x40) (v := (0, false)) (by decide +kernel)
    exact ⟨slot, s1, h1, granted_all h2, by rw [show 0x10040 = 65536 + 0x40 from rfl, h3]; decide⟩
  · obtain ⟨slot, s1, h1, h3, h4, h2⟩ := word_of (s := grantAll (.bank 0 0) 0x401 (monitorsFull (mapped (suite0 .a)))) (va := 0x40) (v := (0, true)) (by decide +kernel)
    exact ⟨slot, s1, h1, granted_all h2, h3, by simpa using h4⟩

def atom0 (ordered : Bool) : Atomic := ⟨0, .a, 0, 5, 9, 0, 0, 0, 1, 0, 0, true, ordered, false, 0⟩
def withAtom (l : List Atomic) : State := (suite0 .a).modRoom 0 fun r => { r with atomics := l }
theorem witness_AtomicsApply :
    (∀ o : Bool, ((withAtom [atom0 o]).room 0).atomics = [atom0 o] ∧ (atom0 o).cmp = ((withAtom [atom0 o]).room 0).accseq ∧ (atom0 o).discard = false ∧
      ((withAtom [atom0 o]).room 0).stopped = false ∧ portBusy (withAtom [atom0 o]) 0 (atom0 o).k = false ∧
      ologMode (withAtom [atom0 o]) (atom0 o).tenant = 0 ∧ (withAtom [atom0 o]).pkg.flips = []) ∧
    ((withAtom [atom0 true]).room 0).atomics.any (·.ordered) = true ∧ ((withAtom []).room 0).atomics.any (·.ordered) = false ∧
    (dec32 0x7fc00000).isNaN = true ∧ (dec32 0x80000000).isNaN = false := by
  and_intros <;> decide +kernel

def tokens (n : Nat) (s : State) : State := withBank (fun b => { b with tok := Vector.replicate 12 n }) s
def queued (l m : List Word) (s : State) : State := withBank (fun b => { b with cq := l, cqNew := m }) s
def tokensHeld (s : State) (pop : BitVec 4) (e : Engine) : Bool :=
  (popSources pop).all fun src => decide (0 < (s.bank s.cur.bank).tok.get (tokIndex src e))

theorem witness_TokensAndControlQueue :
    (∀ n : Fin 2, rd (tokens (8 * n.val) (suite0 .a)) (.toksA 1 0) = true ∧ rd (tokens (8 * n.val) (suite0 .a)) (.tokwA 6 0) = true ∧
      rd (tokens (8 * n.val) (suite0 .x)) (.toksX 0 0) = true ∧ rd (tokens (8 * n.val) (suite0 .x)) (.tokwX 2 0) = true ∧
      tokensHeld (tokens (8 * n.val) (suite0 .a)) 6 .a = (n == 1) ∧ tokensHeld (tokens (8 * n.val) (suite0 .x)) 2 .x = (n == 1)) ∧
    ((suite0 .a).bank (.bank 0 0)).tokNew = Vector.replicate 12 0 ∧ ((suite0 .x).bank (.bank 0 0)).fly = [] ∧
    rd (suite0 .a) (.cqp 1 0) = true ∧ ((suite0 .a).bank (.bank 0 0)).cq.length + ((suite0 .a).bank (.bank 0 0)).cqNew.length < 16 ∧
    (let s := queued (List.replicate 15 0) [0] (suite0 .a)
     rd s (.cqp 1 0) = true ∧ 16 ≤ (s.bank (.bank 0 0)).cq.length + (s.bank (.bank 0 0)).cqNew.length) ∧
    (let s := queued [5] [] (suite0 .x)
     (s.bank s.cur.bank).cq = [5] ∧ rd s (.cqr 1 0) = true ∧ rd s (.cqb 0 1 2 1 0) = true ∧ rd s (.cqb 1 1 2 1 0) = true ∧
     condHolds 0 5 (readE s s.cur 2) = false ∧ condHolds 1 5 (readE s s.cur 2) = true ∧ targetBad s s.cur 1 = false) ∧
    (let s := suite0 .x
     (s.bank s.cur.bank).cq = [] ∧ rd s (.cqr 1 0) = true ∧ rd s (.cqb 0 1 2 1 0) = true ∧ (s.bank s.cur.bank).sa.running = true ∧
     (s.bank s.cur.bank).cqNew = []) ∧
    (let s := withA (fun x => { x with running := false }) (suite0 .x)
     (s.bank s.cur.bank).cq = [] ∧ rd s (.cqr 1 0) = true ∧ rd s (.cqb 0 1 2 1 0) = true ∧ (s.bank s.cur.bank).sa.running = false ∧
     (s.bank s.cur.bank).cqNew = []) := by
  and_intros <;> decide +kernel

def readsOk (x : Except (BitVec 8) Word) : Bool := match x with | .ok _ => true | .error _ => false
/-- Each outcome of a read and of a write: beyond 0xfff, refused, waiting, and taken. -/
theorem witness_ControlRegisters :
    rd (suite0 .a) (.crd 1 2 0x8 0) = true ∧ rd (suite0 .a) (.crd 1 2 0x400 0) = true ∧ rd (suite0 .x) (.erd 1 0x8 0) = true ∧
    rd (suite0 .a) (.cwr 1 2 0x8 0) = true ∧ rd (suite0 .a) (.cmw 1 2 0x8 0) = true ∧ rd (suite0 .a) (.cxc 1 2 0x8 0) = true ∧
    rd (suite0 .x) (.ewr 1 0x8 0) = true ∧ rd (suite0 .a) (.cwr 1 2 0x102 0) = true ∧
    (let s := putA 2 0x1000 (suite0 .a)
     rd s (.crd 1 2 0 0) = true ∧ 0x1000 ≤ (readA s s.cur 2).toNat + (0 : BitVec 11).toNat) ∧
    (let s := suite0 .a
     csrRead s s.cur 0x400 = .error 0x04 ∧ readsOk (csrRead s s.cur 8) = true ∧ csrWriteTrapFull s s.cur 8 0 = none ∧
     csrWaits s s.cur 8 0 = false ∧ csrWriteTrapFull s s.cur 0x400 0 = some (0x04, 0) ∧
     csrWriteTrapFull (withAtom [atom0 true]) s.cur 0x102 0 = none ∧ csrWaits (withAtom [atom0 true]) s.cur 0x102 0 = true ∧
     rd (withAtom [atom0 true]) (.cwr 1 2 0x102 0) = true) ∧
    readsOk (csrRead (suite0 .a) ⟨.ctx 0, .a⟩ 0xf00) = true ∧ hvWriteOnly 0x402 = true ∧ (0 : CtxId) ≠ hypervisor ∧
    ((0x030 : BitVec 12), (0xffffffffffff : Word)) ∈ ([(0x008, 3), (0x009, 0x1f1f), (0x00a, 0xff), (0x030, 0xffffffffffff),
      (0x330, 0xffffffff0001ff1f), (0x331, 0xffffffffffffffff), (0x332, 0x3f03)] : List (BitVec 12 × Word)) := by
  and_intros <;> decide +kernel

/-- Every copy of entry 0 of a segment, and the entry in memory, is `e`, present and accessed, of a frame and a key slot that the tenant may use;
physical bytes read as `look` says. -/
structure Steady (look : Nat → Nat → Byte) (s : State) (t : TenantId) (seg : Nat) (d : Desc) (e : Word) : Prop where
  held : seg ∉ (s.tenant t).held
  copies : ∀ x ∈ cachedPtes s t seg 0, x = e
  mem : BitVec.ofNat 64 (leNat (devRead s d.ttab 8)) = e
  releasing : s.pkg.frames.releasing = []
  owner : s.pkg.frames.owner = []
  usable : pteUsable e = true
  accessed : (0x2000000000000000 : Word) &&& ~~~e = 0
  slot : ∃ h : natBits e.toNat 50 7 < 128, s.pkg.keys[natBits e.toNat 50 7].tenant = some t
  bytes : ∀ k a, physByte s k a = look k a
  listed : seg < (segTable s t).2
  home : parseDesc (featOn s 1) (devRead s ((segTable s t).1 + 64 * seg) 64) = some d
  descs : ∀ b ∈ cachedDescs s t seg, parseDesc (featOn s 1) b = some d
  flips : s.pkg.flips = []
  tabIn : d.ttab < hbmLimit
  descIn : (segTable s t).1 + 64 * seg < hbmLimit
  frameIn : (e.setWidth 40).toNat < frameCount

theorem dev_same {s q : State} (h1 : q.pkg.mem = s.pkg.mem) (h2 : q.pkg.poison = s.pkg.poison) (h3 : q.pkg.routes = s.pkg.routes) :
    ∀ n a, devRead q a n = devRead s a n := by
  intro n
  induction n with
  | zero => intro a; rfl
  | succ k ih => intro a; simp [devRead, devByte, farLost, reachable, h1, h2, h3, ih]
/-- Without single-bit errors, reads of installed memory change nothing. -/
theorem lost_same {s : State} {a : Nat} (n : Nat) (hf : s.pkg.flips = []) (ha : a < hbmLimit) : countLost (correctErrors s a n) a = s := by
  have hc : correctErrors s a n = s := by unfold correctErrors; simp [hf]
  simp [hc, countLost, farLost, Nat.not_le.mpr ha]
theorem fetch_same {s : State} {a : Nat} (n : Nat) (hf : s.pkg.flips = []) (ha : a < hbmLimit) : devFetch s a n = (devRead s a n, s) := by
  simp [devFetch, lost_same n hf ha]
theorem phys_same {s : State} {a : Nat} (slot n : Nat) (hf : s.pkg.flips = []) (ha : a < hbmLimit) :
    physRead s slot a n = (physBytes s slot a n, s) := by
  simp [physRead, lost_same n hf ha]

theorem steady_entry {look : Nat → Nat → Byte} {s : State} {t : TenantId} {seg : Nat} {d : Desc} {e : Word} (h : Steady look s t seg d e) :
    ∃ s1, getPte s t seg 0 d = (e, s1) ∧ Steady look s1 t seg d e := by
  have hd : ∀ (q : State), q.pkg.mem = s.pkg.mem → q.pkg.poison = s.pkg.poison → q.pkg.routes = s.pkg.routes → ∀ n a, devRead q a n = devRead s a n :=
    fun q => dev_same
  have hm := h.mem
  have key : ∀ (k : Nat) (q : State), (q = s ∨ q = { s with fresh := s.fresh + 1 }) → ∃ s1,
      (match (cachedPtes s t seg 0)[k]? with
        | some e => (e, q)
        | none =>
          let e : Word := BitVec.ofNat 64 (leNat (devRead s (d.ttab + 8 * 0) 8))
          (e, if pteUsable e && !(cachedPtes s t seg 0).contains e then q.modPkg fun p => { p with ports := .pte t seg 0 e :: p.ports } else q)) = (e, s1) ∧
      Steady look s1 t seg d e := by
    intro k q hq
    have hs : Steady look q t seg d e := by
      rcases hq with rfl | rfl
      · exact h
      · exact ⟨h.held, h.copies, by rw [hd { s with fresh := s.fresh + 1 } rfl rfl rfl]; exact hm, h.releasing, h.owner, h.usable, h.accessed, h.slot,
          h.bytes, h.listed, by rw [hd { s with fresh := s.fresh + 1 } rfl rfl rfl]; exact h.home, h.descs, h.flips, h.tabIn, h.descIn, h.frameIn⟩
    cases hk : (cachedPtes s t seg 0)[k]? with
    | some x => exact ⟨q, by simp [h.copies x (List.mem_of_getElem? hk)], hs⟩
    | none =>
      refine ⟨_, by simp [hm]; rfl, ?_⟩
      split
      · refine ⟨hs.held, ?_, ?_, hs.releasing, hs.owner, hs.usable, hs.accessed, hs.slot, hs.bytes, hs.listed,
          hs.home, ?_, hs.flips, hs.tabIn, hs.descIn, hs.frameIn⟩
        · intro x hx
          simp [cachedPtes, State.modPkg] at hx
          rcases hx with rfl | hx
          · rfl
          · exact hs.copies x (by simpa [cachedPtes] using hx)
        · rw [hd (q.modPkg _) (by rcases hq with rfl | rfl <;> rfl) (by rcases hq with rfl | rfl <;> rfl) (by rcases hq with rfl | rfl <;> rfl)]; exact hm
        · intro b hb
          exact hs.descs b (by simpa [cachedDescs, State.modPkg] using hb)
      · exact hs
  unfold getPte chooseBelow
  by_cases hc : (cachedPtes s t seg 0).isEmpty = true
  · simp only [hc, if_true, fetch_same 8 h.flips (show d.ttab + 8 * 0 < hbmLimit from h.tabIn)]
    exact key 0 s (.inl rfl)
  · simp only [hc, fetch_same (s := { s with fresh := s.fresh + 1 }) 8 h.flips (show d.ttab + 8 * 0 < hbmLimit from h.tabIn), Bool.false_eq_true, if_false,
      hd { s with fresh := s.fresh + 1 } rfl rfl rfl]
    exact key _ _ (.inr rfl)

theorem steady_load {look : Nat → Nat → Byte} {t : TenantId} {seg : Nat} {d : Desc} {e : Word} (hn : 0 < d.nent) : ∀ (n off : Nat) (s : State),
    Steady look s t seg d e → off + n ≤ 65536 →
    ∃ s1, loadSeg s t seg d off n =
      (.ok ((List.range' off n).map fun i => look (natBits e.toNat 50 7) ((e.setWidth 40).toNat * 65536 + i)), s1) ∧ Steady look s1 t seg d e
  | 0, _, s, h, _ => ⟨s, rfl, h⟩
  | n + 1, off, s, h, ho => by
    obtain ⟨s1, h1, hs1⟩ := steady_entry h
    obtain ⟨hlt, hkey⟩ := h.slot
    have hz : off / 65536 = 0 := Nat.div_eq_of_lt (by omega)
    have hr : off % 65536 = off := Nat.mod_eq_of_lt (by omega)
    have ht : Sys2Proof.Machine.translate s t seg d off false = (.ok ((e.setWidth 40).toNat * 65536 + off, natBits e.toNat 50 7), s1) := by
      unfold Sys2Proof.Machine.translate
      rw [hz, h1]
      have hm : markPte s1 t seg 0 d e false = s1 := by unfold markPte; exact if_pos h.accessed
      simp [h.held, Nat.not_le.mpr hn, h.usable, h.releasing, hlt, hkey, h.owner, hm, hr]
    obtain ⟨s2, h2, hs2⟩ := steady_load hn n (off + 1) s1 hs1 (by omega)
    have hp : (e.setWidth 40).toNat * 65536 + off < hbmLimit := by have := h.frameIn; unfold hbmLimit; omega
    exact ⟨s2, by rw [loadSeg, ht]; simp only [phys_same _ 1 hs1.flips hp, physBytes, h2, List.range'_succ, List.map_cons, hs1.bytes]; rfl, hs2⟩

theorem steady_desc {look : Nat → Nat → Byte} {s : State} {t : TenantId} {seg : Nat} {d : Desc} {e : Word} (h : Steady look s t seg d e) :
    ∃ s1, getDesc s t seg = (some d, s1) ∧ Steady look s1 t seg d e := by
  have hf : Steady look { s with fresh := s.fresh + 1 } t seg d e :=
    ⟨h.held, h.copies, by rw [dev_same (s := s) (q := { s with fresh := s.fresh + 1 }) rfl rfl rfl]; exact h.mem, h.releasing, h.owner, h.usable, h.accessed,
      h.slot, h.bytes, h.listed, by rw [dev_same (s := s) (q := { s with fresh := s.fresh + 1 }) rfl rfl rfl]; exact h.home, h.descs, h.flips, h.tabIn, h.descIn,
      h.frameIn⟩
  have key : ∀ (k : Nat) (q : State), Steady look q t seg d e → q.pkg = s.pkg → ∃ s1,
      (match (cachedDescs s t seg)[k]? with
        | some b => (parseDesc (featOn s 1) b, q)
        | none =>
          match parseDesc (featOn s 1) (devRead s ((segTable s t).1 + 64 * seg) 64) with
          | none => (none, q)
          | some d => (some d, if (cachedDescs s t seg).contains (devRead s ((segTable s t).1 + 64 * seg) 64) then q
              else q.modPkg fun p => { p with ports := .desc t seg (devRead s ((segTable s t).1 + 64 * seg) 64) :: p.ports })) = (some d, s1) ∧
      Steady look s1 t seg d e := by
    intro k q hq hp
    cases hk : (cachedDescs s t seg)[k]? with
    | some b => exact ⟨q, by simp [h.descs b (List.mem_of_getElem? hk)], hq⟩
    | none =>
      simp only [h.home]
      refine ⟨_, rfl, ?_⟩
      split
      · exact hq
      · refine ⟨hq.held, hq.copies, ?_, hq.releasing, hq.owner, hq.usable, hq.accessed, hq.slot, hq.bytes, hq.listed, ?_, ?_, hq.flips, hq.tabIn, hq.descIn,
          hq.frameIn⟩
        · rw [dev_same (s := q) (q := q.modPkg _) rfl rfl rfl]; exact hq.mem
        · rw [dev_same (s := q) (q := q.modPkg _) rfl rfl rfl]; exact hq.home
        · intro b hb
          have hfeat : featOn q 1 = featOn s 1 := by simp [featOn, hp]
          simp only [cachedDescs, State.modPkg, List.filterMap_cons, if_true, and_self, List.mem_cons] at hb
          rcases hb with rfl | hb
          · exact (congrArg (fun f => parseDesc f _) hfeat).trans h.home
          · exact hq.descs b hb
  unfold getDesc chooseBelow
  simp only [Nat.not_le.mpr h.listed, if_false]
  by_cases hc : (cachedDescs s t seg).isEmpty = true
  · simp only [hc, if_true, fetch_same 64 h.flips h.descIn]
    exact key 0 s h rfl
  · simp only [hc, fetch_same (s := { s with fresh := s.fresh + 1 }) 64 h.flips h.descIn, Bool.false_eq_true, if_false,
      dev_same (s := s) (q := { s with fresh := s.fresh + 1 }) rfl rfl rfl]
    exact key _ _ hf rfl

/-- What makes `mapped`'s segment readable, and its bytes. -/
def steadyOk (s : State) : Bool :=
  match getDesc s 0 0 with
  | (some d, s1) =>
    d.ttab == 0x1000 && d.nent == 1 && (s1.tenant 0).held.isEmpty && (cachedPtes s1 0 0 0).isEmpty &&
      BitVec.ofNat 64 (leNat (devRead s1 0x1000 8)) == (0xe000000000000001 : Word) && s1.pkg.frames.releasing.isEmpty && s1.pkg.frames.owner.isEmpty &&
      s1.pkg.keys[0].tenant == some 0 && decide (0 < (segTable s1 0).2) &&
      parseDesc (featOn s1 1) (devRead s1 ((segTable s1 0).1 + 64 * 0) 64) == some d && ((cachedDescs s1 0 0).all fun b => parseDesc (featOn s1 1) b == some d)
      && s1.pkg.flips.isEmpty && decide ((segTable s1 0).1 + 64 * 0 < hbmLimit)
  | _ => false
def bytesVa (s : State) (va n : Nat) : List Byte := (List.range' va n).map fun i => physByte (getDesc s 0 0).2 0 (65536 + i)
/-- Two reads, one after the other: the first of n bytes, the second of none. -/
theorem loads_then (s : State) (va n va2 : Nat) (h : steadyOk s = true) (hv : va + n ≤ 65536) (h2v : va2 < 65536) :
    ∃ s1, loadVa s 0 va n = (.ok (bytesVa s va n), s1) ∧ ∃ s2, loadVa s1 0 va2 0 = (.ok [], s2) := by
  unfold steadyOk at h
  cases hd : getDesc s 0 0 with
  | mk o s1 =>
    rw [hd] at h
    cases o with
    | none => cases h
    | some d =>
      simp only [Bool.and_eq_true, beq_iff_eq, List.isEmpty_iff, decide_eq_true_eq] at h
      obtain ⟨⟨⟨⟨⟨⟨⟨⟨⟨⟨⟨⟨h1, h2⟩, h3⟩, h4⟩, h5⟩, h6⟩, h7⟩, h8⟩, h9⟩, h10⟩, h11⟩, h12⟩, h13⟩ := h
      have st : Steady (physByte s1) s1 0 0 d 0xe000000000000001 :=
        ⟨by rw [h3]; simp, by rw [h4]; simp, by rw [h1]; exact h5, h6, h7, by decide, by decide, ⟨by decide, h8⟩, fun _ _ => rfl, h9, h10,
          fun b hb => by simpa using List.all_eq_true.mp h11 b hb, h12, by rw [h1]; decide, h13, by decide⟩
      obtain ⟨s2, hl, st2⟩ := steady_load (by rw [h2]; decide) n va s1 st hv
      obtain ⟨s3, hd3, -⟩ := steady_desc st2
      have hz : va / 2 ^ 36 = 0 := Nat.div_eq_of_lt (by omega)
      have hz2 : va2 / 2 ^ 36 = 0 := Nat.div_eq_of_lt (by omega)
      have hm : va % 2 ^ 36 = va := Nat.mod_eq_of_lt (by omega)
      have he : bytesVa s va n = (List.range' va n).map fun i => physByte s1 0 (65536 + i) := by unfold bytesVa; rw [hd]
      refine ⟨s2, ?_, s3, ?_⟩
      · unfold loadVa
        rw [hz, hd, hm, he]
        exact hl
      · unfold loadVa
        rw [hz2, hd3]
        rfl
theorem loads_ok (s : State) (va n : Nat) (h : steadyOk s = true) (hv : va + n ≤ 65536) : ∃ s1, loadVa s 0 va n = (.ok (bytesVa s va n), s1) := by
  obtain ⟨s1, h1, -⟩ := loads_then s va n 0 h hv (by decide)
  exact ⟨s1, h1⟩

def loads (s : State) (va n : Nat) : Mres (List Byte) := (loadVa s 0 va n).1
theorem witness_SystemTraps :
    rd (suite0 .a) (.trap 5 0) = true ∧ steward.cur.bank = .ctx 0 ∧ rd steward (.eret 0) = true ∧ (steward.stream steward.cur).tfdepth = 0 ∧
    rd (handled 3) (.eret 0) = true ∧ ((handled 3).stream (handled 3).cur).tfdepth ≠ 0 ∧
    (∃ f s1, loadVa (handled 3) (ctxTenant (handled 3) 0) (0 + 64 * 2) 64 = (.ok f, s1)) ∧
    (let s := steward.modCtx 0 fun x => { x with regs := { x.regs with sa := { x.regs.sa with tfdepth := 3 } } }
     (match loads s (0 + 64 * 2) 64 with | .fault _ => true | _ => false) = true) ∧
    rd (suite0 .a) (.amem 1 2 3 0 0 0) = true ∧ earlierPending ((suite0 .a).bank (.bank 0 0)) ((suite0 .a).bank (.bank 0 0)).nextSeq = false ∧
    (let s := withBank (fun b => { b with sq := [qStore false 0], nextSeq := 1 }) (suite0 .a)
     rd s (.amem 1 2 3 0 0 0) = true ∧ earlierPending (s.bank (.bank 0 0)) (s.bank (.bank 0 0)).nextSeq = true) := by
  refine ⟨by decide +kernel, by decide +kernel, by decide +kernel, by decide +kernel, by decide +kernel, by decide +kernel, ?_, by decide +kernel,
    by decide +kernel, by decide +kernel, by decide +kernel⟩
  obtain ⟨s1, h⟩ := loads_ok (handled 3) 128 64 (by decide +kernel) (by decide)
  exact ⟨_, s1, h⟩

def stewardWith (x n : Word) : State := putA 1 x (putA 2 n (mapped (steward.modPkg fun p => { p with frames := { p.frames with owner := [(1, 0)] } })))
theorem witness_TranslationsAndFrames :
    (steward).cur.bank = .ctx 0 ∧ (ctxTenant steward 0) = 0 ∧ (0 : CtxId) ≠ hypervisor ∧
    rd (stewardWith 0x400000 1) (.tinv 1 2 9 0) = true ∧ 2 ^ 22 ≤ (readA (stewardWith 0x400000 1) (stewardWith 0x400000 1).cur 1).toNat ∧
    rd (stewardWith 0x10000 1) (.tinv 1 2 9 0) = true ∧ (readA (stewardWith 0x10000 1) (stewardWith 0x10000 1).cur 1).toNat / 2 ^ 16 % 64 = 1 ∧
    rd (stewardWith 3 0) (.tinv 1 2 9 0) = true ∧ (readA (stewardWith 3 0) (stewardWith 3 0).cur 2).toNat = 0 ∧
    rd (stewardWith 3 5) (.tinv 1 2 9 0) = true ∧ (readA (stewardWith 3 5) (stewardWith 3 5).cur 1).toNat / 2 ^ 16 % 64 = 0 ∧
    (let s := steward.modCtx 0 fun y => { y with tinv := [(0, 0, 1, 9)], frel := [(1, 0, 0, 9)] }
     (s.ctx 0).tinv = [(0, (0 : TenantId).val, 1, 9)] ∧ (s.ctx 0).frel = [(1, 0, 0, 9)]) ∧
    rd (stewardWith 0x10000000000 0) (.frel 1 2 9 0) = true ∧
    ¬ (readA (stewardWith 0x10000000000 0) (stewardWith 0x10000000000 0).cur 1).toNat < 2 ^ 40 ∧
    rd (stewardWith 2 0) (.frel 1 2 9 0) = true ∧ frameOwner (stewardWith 2 0) 2 = none ∧
    rd (stewardWith 1 0) (.frel 1 2 9 0) = true ∧ frameOwner (stewardWith 1 0) 1 = some (ctxTenant (stewardWith 1 0) 0) ∧
    ((stewardWith 1 0).pkg.keys.get 0).tenant = some 0 := by
  and_intros <;> decide +kernel

theorem witness_TileArithmetic :
    (∀ i ∈ ([.vadd 1 2 3 0 0, .vsub 1 2 3 1 0, .vmul 1 2 3 2 0, .vfma 1 2 3 0 0, .vfms 1 2 3 1 0, .vmin 1 2 3 7 0, .vmax 1 2 3 7 0, .vabs 1 2 0 0,
      .vneg 1 2 7 0] : List Instr), rd (suite0 .x) i = true) := by decide
theorem witness_TileBitsAndMasks :
    (∀ i ∈ ([.vand 1 2 3 0, .vor 1 2 3 0, .vxor 1 2 3 0, .vnot 1 2 0, .vshl 1 2 3 7 0, .vshr 1 2 3 7 0, .vsra 1 2 3 7 0, .vcmp 1 2 3 4 7 0, .vsel 1 2 3 0 0,
      .mand 1 2 3 0, .mor 1 2 3 0, .mxor 1 2 3 0, .mnot 1 2 0, .mpop 1 2 0] : List Instr), rd (suite0 .x) i = true) ∧
    (Fmt.fp32).isF = true ∧ (dec 0x7fc00000 .fp32).isNaN = true ∧ (dec 0 .fp32).isNaN = false ∧ (Fmt.i32).isF = false := by
  and_intros <;> decide +kernel
theorem witness_TileFunctions :
    (∀ i ∈ ([.vexp2 1 2 0 0, .vlog2 1 2 0 0, .vrcp 1 2 0 0, .vrsq 1 2 1 0, .vsqrt 1 2 2 0, .vsigm 1 2 0 0, .vtanh 1 2 0 0] : List Instr),
      rd (suite0 .x) i = true) := by decide

/-- Tile 0 in the state of the X-stream with its full bit and its marks; the CB4 feature accepted (R331). -/
def xTile (full busy : Bool) : State := tile0 full busy ((suite0 .x).modPkg fun p => { p with featacc0 := 2 })
theorem witness_TileConversions :
    (∀ b : Bool, ∀ c : Bool, rd (xTile b c) (.vcvt 0 2 3 0 1 0 0) = true ∧ rd (xTile b c) (.vqenc 0 2 3 0 0) = true ∧
      rd (xTile b c) (.vqdec 1 0 3 0 0) = true ∧ rd (xTile b c) (.vscl 1 2 3 0 0) = true ∧
      (let f := tileFlag (xTile b c) 0 (physTile (xTile b c) (.bank 0 0) 0)
       f.full = b ∧ f.producing = c ∧ f.consuming = c)) ∧
    Val.isNaN .nan = true ∧ Val.isFinite (.inf false) = false ∧ Val.isNaN (.fin false 3 0) = false ∧ Val.isZero (.fin false 0 0) = true := by
  and_intros <;> decide +kernel

theorem witness_ReductionsAndScans :
    (∀ i ∈ ([.vred 1 2 0 0 0 0 0, .vred 1 2 1 1 0 0 0, .vred 1 2 0 0 1 7 0, .vred 1 2 0 1 2 0 0, .vscan 1 2 0 0 0 0 0, .vscan 1 2 1 1 1 7 0] : List Instr),
      rd (suite0 .x) i = true) ∧
    ([(1, 0), (2, 0)] : List (Nat × Flags)).length = 2 ^ 1 ∧ (1 : Nat) < 8 ∧
    ([(1, 0), (2, 0), (3, 0)] : List (Nat × Flags)).length ≤ 256 ∧ (2 : Nat) < 3 ∧ 2 + 1 = 2 ^ 0 * (2 * 1 + 1) ∧ 1 + 1 = 2 ^ 1 * (2 * 0 + 1) := by
  and_intros <;> decide +kernel

/-- A VACW, and a VACC, of the stream in flight. -/
def withFly (r : Result) : State := withBank (fun b => { b with fly := [⟨.x, 3, [r], 0, 0, false⟩] }) (suite0 .x)
def halted0 : State := (suite0 .x).modRoom 0 fun r => { r with stopped := true }
theorem witness_TileMoves :
    (∀ i ∈ ([.vbcr 1 2 0 0, .vbcc 1 2 0 0, .vbcs 1 2 0 0, .vtrn 1 2 0 0, .vshf 1 2 3 0 0, .vzero 1 0, .vmov 1 0 0, .vacc 3 2 0 0, .vacw 3 2 1 1 0] :
      List Instr), rd (suite0 .x) i = true) ∧
    (∀ b : Bool, ∀ c : Bool, rd (xTile b c) (.vmov 1 0 0) = true) ∧
    quiet (suite0 .x) = true ∧ (suite0 .x).pkg.flips = [] ∧ vacwPending (suite0 .x) (suite0 .x).cur = false ∧
    vaccPending (suite0 .x) (suite0 .x).cur = false ∧ ((suite0 .x).room 0).stopped = false ∧
    (let s := withFly (.acc 2 false false Tile.zero 0 0)
     vacwPending s s.cur = true ∧ rd s (.vacc 3 2 0 0) = true ∧ rd s (.vacw 3 2 0 0 0) = true) ∧
    (let s := withFly (.accRead 2 false 5)
     vaccPending s s.cur = true ∧ rd s (.vacw 3 2 0 0 0) = true) ∧
    (halted0.room 0).stopped = true ∧ rd halted0 (.vacc 3 2 0 0) = true ∧ rd halted0 (.vacw 3 2 0 0 0) = true := by
  and_intros <;> decide +kernel

/-- A row that a drain program is transforming, at a given word. -/
def drainState (w : W32) : State :=
  let s := State.reset.modPkg fun p => { p with booted := true, images := [image .drain w 0] }
  { (s.modBank (.bank 0 0) fun x => { x with visit := some (oneVisit 0) }).modRoom 0 fun x => { x with drain := some (oneRow 0), drainPos := 0 } with
    cur := ⟨.bank 0 0, .drain⟩ }
/-- A latency of 1 and a longer one; a result with cycles to go, due, and with the clock stopped; words that name nothing, in a stream and in a drain
program. -/
theorem witness_ResultsLand :
    latencyOf (suite0 .a) (.bank 0 0) 0 ≤ 1 ∧ 1 < latencyOf (suite0 .a) (.bank 0 0) 1 ∧ (0x10 : Flags) ≠ 0 ∧
    quiet (suite0 .x) = true ∧ (suite0 .x).cur = ⟨.bank 0 0, .x⟩ ∧
    (∀ n : Fin 2, ∀ var : Bool, (withBank (fun b => { b with fly := [⟨.a, n.val, [.a 5 7], 0, 0, var⟩] }) (suite0 .a) |>.bank (.bank 0 0)).fly =
      [⟨.a, n.val, [.a 5 7], 0, 0, var⟩]) ∧
    (∀ l : Bool, (withBank (fun b => { b with wrote := if l then [(.a, .a 5)] else [] }) (suite0 .a) |>.bank (.bank 0 0)).wrote.contains (.a, Reg.a 5) = l) ∧
    ((suite0 .a).suite 0).stopped = false ∧ (((suite0 .a).modSuite 0 fun x => { x with stopped := true }).suite 0).stopped = true ∧
    fetch (suite0 .a) (suite0 .a).cur = .word .a 0 0 ∧ (suite0 .a).cur.kind ≠ .drain ∧ decode .a 0x52000000 0 = .error .noOpcode ∧
    decode .a 0x4e000010 0 = .error .reservedField ∧ opcodeRefused (suite0 .a) (suite0 .a).cur .a 0x4e000010 = false ∧
    decode .a 0xc4000010 0 = .error .reservedField ∧ opcodeRefused (suite0 .a) (suite0 .a).cur .a 0xc4000010 = true ∧ decode .a 0 0 = .ok (.add 0 0 0 0) ∧
    fetch (drainState 0x14000000) (drainState 0x14000000).cur = .word .drain 0x14000000 0 ∧ (drainState 0x14000000).cur.kind = .drain ∧
    decode .drain 0x14000000 0 = .error .noOpcode := by
  and_intros <;> decide +kernel

/-- A command of bank 0 with a status and token fields, and Suite 0 with commands in its queues. -/
def cmdOf (op : CmdOp) (st : CmdStatus) (tok : Tok := ⟨0, 0, 0⟩) : Cmd where
  op := op
  bank := 0
  kind := .a
  tok := tok
  dn := 9
  ret := 0
  status := st
  trapLevel := 0
  discard := false
  tenant := 0
  dual := false
  image := 0
  slot := none
def mqOf (l : List Cmd) (s : State) : State := s.modSuite 0 fun x => { x with mq := l }
def cqOf (l : List Cmd) (s : State) : State := s.modSuite 0 fun x => { x with cqueue := l }
/-- At 0x40 of the Local Store a copy of one element of segment 0 into the Local Store (R238). -/
def copyBox (s : State) : State :=
  (mapped s).modSuite 0 fun x => { x with ls := [(0x42, 1), (0x44, 6), (0x48, 1), (0x4a, 1), (0x4c, 1), (0x4e, 1), (0x50, 1), (0x52, 1)] }
def copyOf (s : State) : CopyJob := parseCopy (lsRead s 0 0x40 64) 0 0 (physAcc s (.bank 0 0))

/-- The drone feature accepted (R331). -/
def drones (s : State) : State := s.modPkg fun p => { p with featacc0 := 1 }

theorem witness_CommandsAccepted :
    (let cmds : List Instr := [.mnest 1 2 ⟨0, 0, 0⟩ 0 0, .mfmt 1 2 ⟨0, 0, 0⟩ 0 0, .mgo ⟨0, 0, 0⟩ 0 0, .mdrn 1 2 ⟨0, 0, 0⟩ 0 0, .mwing 1 ⟨0, 0, 0⟩ 0 0,
       .dstart 1 2 ⟨0, 0, 0⟩ 0 0, .dlook 1 ⟨0, 0, 0⟩ 0 0, .dend ⟨0, 0, 0⟩ 0 0,
       .cpy 1 2 ⟨0, 0, 0⟩ 0 1 0, .cpyq ⟨0, 0, 0⟩ 0 0, .psend 1 2 ⟨0, 0, 0⟩ 0 0, .precv 1 2 ⟨0, 0, 0⟩ 0 0, .coll 1 2 ⟨0, 0, 0⟩ 0 0, .collw 1 0 0]
     ∀ i ∈ cmds, rd (drones (suite0 .a)) i = true) ∧
    ((suite0 .a).suite 0).mq.length < 16 ∧ ((suite0 .a).suite 0).cqueue.length < 16 ∧ acquirePending ((suite0 .a).bank (.bank 0 0)) = false ∧
    touchesFed (suite0 .a) 0 0 448 = false ∧
    (let s := mqOf (List.replicate 16 (cmdOf .mgo .queued)) (cqOf (List.replicate 16 (cmdOf .cpyq .queued)) (suite0 .a))
     16 ≤ (s.suite 0).mq.length ∧ 16 ≤ (s.suite 0).cqueue.length ∧ rd s (.mgo ⟨0, 0, 0⟩ 0 0) = true ∧ rd s (.cpyq ⟨0, 0, 0⟩ 0 0) = true) ∧
    (let c : State := drones { State.reset.withFetchWord 32 0xc4000000 with cur := ⟨.bank 0 0, .chanter⟩ }
     rd c (.dret 0) = true ∧ rd c (.dfeed 1 2 ⟨0, 0, 0⟩ 0 0) = true ∧ rd c (.ddrn 1 ⟨0, 0, 0⟩ 0 0) = true ∧ (c.suite c.cur.suite).mq.length < 16) ∧
    (let s := suite0 .a
     (copyTrap s s.cur 0x40 (lsRead s 0 0x40 64) (copyOf s)).isSome = true) ∧
    (let s := copyBox (suite0 .a)
     rd s (.cpy 0 0 ⟨0, 0, 0⟩ 0 1 0) = true ∧ copyTrap s s.cur 0x40 (lsRead s 0 0x40 64) (copyOf s) = none ∧
     (s.tenant 0).held.contains (copyOf s).seg = false ∧ busyCount s 0 (copyOf s).seg ≠ 0xffffffff ∧ touchesFed s 0 0x40 64 = false) ∧
    (let s := (copyBox (suite0 .a)).modTenant 0 fun t => { t with held := [0] }
     rd s (.cpy 0 0 ⟨0, 0, 0⟩ 0 1 0) = true ∧ copyTrap s s.cur 0x40 (lsRead s 0 0x40 64) (copyOf s) = none ∧
     (s.tenant 0).held.contains (copyOf s).seg = true) ∧
    (let s := (copyBox (suite0 .a)).modPkg fun p => { p with mem := memWrite p.mem 0x104 [0xff, 0xff, 0xff, 0xff] }
     rd s (.cpy 0 0 ⟨0, 0, 0⟩ 0 1 0) = true ∧ copyTrap s s.cur 0x40 (lsRead s 0 0x40 64) (copyOf s) = none ∧
     (s.tenant 0).held.contains (copyOf s).seg = false ∧ busyCount s 0 (copyOf s).seg = 0xffffffff) ∧
    (let s := putA 1 16 (suite0 .a)
     rd s (.collw 1 0 0) = true ∧ 16 ≤ (readA s s.cur 1).toNat) ∧
    ((suite0 .a).tenant 0).cs.get 0 = 0 ∧
    (let s := (suite0 .a).modTenant 0 fun t => { t with cs := Vector.replicate 16 1 }
     rd s (.collw 1 0 0) = true ∧ (s.tenant 0).cs.get 0 ≠ 0) := by
  and_intros <;> decide +kernel

def rowOf (ty : Fmt) (mode : Nat) : State := (drainState 0).modRoom 0 fun r => { r with drain := some { oneRow 0 with ty := ty, mode := mode } }
theorem witness_DrainOperations :
    (∀ m : Fin 3, (rowOf .i32 m.val).cur = ⟨.bank 0 0, .drain⟩ ∧ ((rowOf .i32 m.val).room 0).drain = some { oneRow 0 with ty := .i32, mode := m.val } ∧
      (rowOf .fp32 m.val).cur = ⟨.bank 0 0, .drain⟩ ∧ ((rowOf .fp32 m.val).room 0).drain = some { oneRow 0 with ty := .fp32, mode := m.val }) ∧
    (oneRow 0).row < 128 ∧ (rowOf .i32 0).pkg.flips = [] ∧ Fmt.fp32 ≠ .i32 ∧ ((rowOf .i32 0).suite 0).ls.wf = true := by
  and_intros <;> decide +kernel

/-- Every kind of command at the head of its queue, ready and not; popped; complete and running. -/
theorem witness_CommandsRun :
    (let good := fun (e : Engine) (s : State) (c : Cmd) =>
       headOf s 0 e = some c ∧ c.status = .queued ∧ popsReady s 0 e c = true ∧ (s.suite 0).stopped = false ∧ c.trapLevel = 0 ∧ roomsWait s 0 e c = false
     (∀ op ∈ ([.mnest 0 [], .mfmt 0 [], .mdrn 0 0, .dlook 1, .dend, .mgo, .mwing 0, .dstart 0 0, .dfeed 0 0, .ddrn 0] : List CmdOp),
       good .m (mqOf [cmdOf op .queued] (suite0 .a)) (cmdOf op .queued)) ∧
     (∀ op ∈ ([.cpyq, .cpy (copyOf (suite0 .a))] : List CmdOp), good .c (cqOf [cmdOf op .queued] (suite0 .a)) (cmdOf op .queued))) ∧
    (let c := cmdOf .mgo .queued ⟨8, 0, 0⟩
     popsReady (mqOf [c] (suite0 .a)) 0 .m c = false ∧
     roomsWait ((mqOf [c] (suite0 .a)).modRoom 0 fun r => { r with stopped := true }) 0 .m c = true) ∧
    (∀ op ∈ ([.mnest 0 [], .mfmt 0 [], .mdrn 0 0, .dlook 1, .dend] : List CmdOp),
      headOf (mqOf [cmdOf op .popped] (suite0 .a)) 0 .m = some (cmdOf op .popped)) ∧
    (let s := cqOf [cmdOf .cpyq .popped] (suite0 .a)
     headOf s 0 .c = some (cmdOf .cpyq .popped) ∧ (s.suite 0).crun = [] ∧
     ((s.modSuite 0 fun x => { x with crun := [cmdOf .cpyq .running] }).suite 0).crun ≠ []) ∧
    (let s := (suite0 .a).modSuite 0 fun x => { x with mrun := [cmdOf .mgo .complete], crun := [cmdOf .cpyq .complete] }
     (s.suite 0).mrun[0]? = some (cmdOf .mgo .complete) ∧ (s.suite 0).crun[0]? = some (cmdOf .cpyq .complete)) := by
  and_intros <;> decide +kernel

/-- A nest of one level and two beat-steps from group 0 and group 1 (R199). -/
def oneNest : NestSet :=
  { NestSet.reset with table := ((((Vector.replicate 448 0).set 0 1).set 3 4).set 0xe 0x20).set 64 2 }
def popM (op : CmdOp) : State :=
  mqOf [cmdOf op .popped] ((suite0 .a).modRoom 0 fun r => { r with shadow := Vector.replicate 2 oneNest })
/-- The start check passes for that nest, and fails for a table of zeros. -/
theorem witness_NestsStart :
    (let may := fun (s : State) => wingLive s 0 = true ∧ (s.room 0).drone.active = false ∧ rcycOf s 0 % 8 = 0 ∧ (s.room 0).runs = []
     let s := popM .mgo
     let ranged := fun (n : NestSet) (s : State) => (members s 0).foldl (fun t v => t.modRoom v fun x => { x with active := n }) s
     (s.suite 0).mq = [cmdOf .mgo .popped] ∧ (s.suite 0).stopped = false ∧ may s ∧
     startCheck (ranged oneNest s) 0 (cmdOf .mgo .popped) oneNest = none ∧
     (startCheck (ranged NestSet.reset s) 0 (cmdOf .mgo .popped) NestSet.reset).isSome = true ∧
     (((mqOf [cmdOf .mgo .popped] (suite0 .a)).room 0).shadow.get 0).prog = NestSet.reset.prog ∧ may (mqOf [cmdOf .mgo .popped] (suite0 .a)) ∧
     wingLive (s.modRoom 0 fun r => { r with stopped := true }) 0 = false) ∧
    (let s := popM (.mwing 0)
     (s.suite 0).mq = [cmdOf (.mwing 0) .popped] ∧ owns s (tenantOf s (.bank 0 0)) 0 = false ∧ wingRooms 0 0 = [0]) ∧
    (let s := (popM (.mwing 0)).modTenant 0 fun t => { t with mask := 1 }
     (s.suite 0).mq = [cmdOf (.mwing 0) .popped] ∧ owns s (tenantOf s (.bank 0 0)) 0 = true ∧ (s.room 0).stopped = false ∧ roomIdle s 0 0 = true ∧
     (cmdOf (.mwing 0) .popped).tok.pushEn = 0 ∧ roomIdle (s.modRoom 0 fun r => { r with drone := { r.drone with active := true } }) 0 0 = false) ∧
    (let s := (suite0 .a).modRoom 0 fun r => { r with halt := { r.halt with halted := true } }
     let h := (s.room 0).halt
     h.halted = true ∧ h.held = [] ∧ rcycOf s 0 % 8 = h.phase) ∧ ((suite0 .a).room 0).halt.halted = false := by
  and_intros <;> decide +kernel

/-- A running nest in its second beat, with the step that entered in the first and with the second step due. -/
def oneRun (next : Nat) (prog : BitVec 4) : WingRun :=
  { newRun (cmdOf .mgo .running) false { oneNest with prog := prog } 2 0 with
    beat := 1, nextStep := next, nextEntry := 1, lastIn := some 0, ftNow := 0x0110,
    steps := [⟨0, 0, .bf16, .bf16, [List.replicate 256 0], [List.replicate 256 0], true, false, []⟩],
    units := [⟨1, some 3, true, 0, false⟩] }
def nestState (r : WingRun) : State := (suite0 .a).modRoom 0 fun x => { x with runs := [r] }
/-- An address inside, outside and misaligned; an acquire that has not performed; a group of banks that a nest feeds. -/
theorem witness_LocalStoreAccess :
    lsReady 0x40 = true ∧ lsReady 0x800000 = true ∧ lsReady 0x41 = true ∧
    (let inside := fun (n : Word) => n.toNat < 2 ^ 23 ∧ n.toNat + 8 ≤ 0x800000 - ((suite0 .a).suite 0).l1mib.toNat * 0x100000
     inside 0x40 ∧ (0x40 : Word).toNat % 8 = 0 ∧ (0x800000 : Word).toNat % 8 = 0 ∧ ¬ inside 0x800000 ∧ (0x41 : Word).toNat % 8 ≠ 0) ∧
    (let s := withLq [qLoad (some 1)] (suite0 .a)
     rd s (.ldl 9 6 3 0 0) = true ∧ acquirePending (s.bank (.bank 0 0)) = true) ∧
    (let s := putA 6 0x40 (nestState (oneRun 0 15))
     free s (.stl 9 6 3 0) 0 = true ∧ acquirePending (s.bank s.cur.bank) = false ∧ touchesFed s 0 0x40 8 = true) ∧
    quiet (suite0 .a) = true ∧ (∀ v, ((suite0 .a).suite v).ls.wf = true) := by
  and_intros <;> decide +kernel

theorem witness_NestBeats :
    (∀ n : Fin 3, ((nestState (oneRun n.val 15)).room 0).runs.map (·.nextStep) = [n.val] ∧ nestRuns (nestState (oneRun n.val 15)) 0 = true ∧
      (wingFails (nestState (oneRun n.val 15)) 0).isNone = true ∧ stepDue (oneRun n.val 15) = decide (n.val < 2)) ∧
    (let r : WingRun := { oneRun 0 15 with set := { oneNest with fmts := Vector.replicate 16 0 } }
     nestRuns (nestState r) 0 = true ∧ (wingFails (nestState r) 0).isSome = true) ∧
    (0 : SuiteId) ∈ members (nestState (oneRun 0 15)) 0 ∧ (oneRun 0 15).steps.find? (fun st => st.entry == 1 - 1) ≠ none ∧
    (oneRun 0 15).steps.find? (fun st => st.entry == 1 - 0) = none ∧ (oneRun 0 15).nextStep + 1 < (oneRun 0 15).total ∧
    ¬ (oneRun 0 15).beat < 1 := by
  and_intros <;> decide +kernel
/-- The steps ahead of a nest are staged, or its feeders are empty (R193). -/
def stagedState (k : Nat) (full : Bool) : State :=
  (nestState { oneRun 1 15 with staged := k }).modRoom 0 fun x =>
    let one := fun (v : Vector Slot 64) (n : BitVec 6) => if full then v.set n.toNat ⟨true, List.replicate 256 1⟩ n.isLt else v
    { x with aFeed := one x.aFeed x.aNext, bFeed := one x.bFeed x.bNext }
theorem staged_of (v : Vector Slot 64) (next n : Nat)
    (h : ((List.range 64).all fun i => (v.get ⟨(next + i) % 64, Nat.mod_lt _ (by decide)⟩).full == decide (i < n)) = true) : stagedIn v next n :=
  fun i hi => eq_of_beq (List.all_eq_true.mp h i (List.mem_range.mpr hi))
theorem witness_NestBeatsStaged :
    (∀ k : Fin 2, let s := stagedState (k.val + 1) (k == 1)
      (westRooms s 0 = [0] ∧ northRooms s 0 = [0]) ∧ stagedIn (s.room 0).aFeed (s.room 0).aNext k.val ∧ stagedIn (s.room 0).bFeed (s.room 0).bNext k.val) ∧
    (∀ k : Fin 2, let s := stagedState (k.val + 1) (k == 1)
      let r := { oneRun 1 15 with staged := k.val + 1 }
      nestRuns s 0 = true ∧ (wingFails s 0).isNone = true ∧ stepDue r = true ∧ stepClass s r 1 = ftClass (featOn s 1) (nextStepOf r).ft) ∧
    (∀ k : Fin 2, ((stagedState (k.val + 1) (k == 1)).room 0).runs = [{ oneRun 1 15 with staged := k.val + 1 }]) := by
  refine ⟨fun k => ⟨?_, staged_of _ _ _ ?_, staged_of _ _ _ ?_⟩, ?_, fun _ => rfl⟩ <;> (try revert k) <;> decide +kernel

theorem witness_RowsDrain :
    (∀ p ∈ ([0, 15] : List (BitVec 4)), (let s := nestState (oneRun 2 p)
      nestRuns s (leadOf s 0) = true ∧ (wingFails s (leadOf s 0)).isNone = true ∧ (rowDue s 0).map (fun x => (x.1.set.prog, x.2)) = some (p, ⟨1, some 3, true, 0, false⟩, 0) ∧
      cmdImage s (oneRun 2 p).cmd = some (image .a 0 0) ∧ s.pkg.flips = [])) ∧
    nestRuns (suite0 .a) (leadOf (suite0 .a) 0) = false ∧
    (let s := nestState { oneRun 2 0 with units := [] }
     nestRuns s (leadOf s 0) = true ∧ (rowDue s 0).isNone = true) := by
  and_intros <;> decide +kernel

def droned (f : Drone → Drone) (s : State) : State := s.modRoom 0 fun r => { r with drone := f r.drone }
/-- A drone computation in its second beat, whose next step needs no data any more. -/
def droneState (f : Drone → Drone) : State :=
  droned (fun d => f { d with active := true, finalStep := some 0, sinceBeat := 1 }) ((suite0 .a).modRoom 0 fun x => { x with runs :=
    [{ newRun (cmdOf (.dstart 0 0) .running) true oneNest 0 0 with beat := 1, nextEntry := 1 }] })
/-- A program of DOVW 1 and DEND. -/
def dovwState : State :=
  let r : WingRun := { newRun (cmdOf (.dstart 0 0) .running) true { oneNest with prog := 0 } 0 0 with units := [⟨1, none, true, 7, false⟩] }
  droned (fun d => { d with active := true, drainOpen := some 7 }) (((suite0 .a).modRoom 0 fun x => { x with runs := [r] }).modPkg fun p =>
    { p with images := [{ image .drain 0x0e000010 0x12000000 with drains := [0] }] })
theorem witness_DronesRun :
    (let s := popM (.dstart 0xf000 0)
     (s.suite 0).mq = [cmdOf (.dstart 0xf000 0) .popped] ∧ (s.room 0).drone.active = false ∧ (s.room 0).runs = [] ∧ wingLive s 0 = true ∧
     ftClass (featOn s 1) (((s.room 0).shadow.get 0).fmts.get 0) = some 0 ∧ natBits (0xf000 : Word).toNat 12 4 = 15 ∧
     (∀ im, cmdImage s (cmdOf (.dstart 0xf000 0) .popped) = some im → checkProgram im 15 0 [.fp32] true false [] [] [0x800000] = none) ∧
     wingLive (s.modRoom 0 fun r => { r with stopped := true }) 0 = false) ∧
    ftClass false 0 = none ∧
    (let s := droned (fun d => { d with queue := [5] }) (suite0 .a)
     let y := s.suite 0
     y.chanter.busy = false ∧ y.chanter.trapped = false ∧ y.stopped = false ∧ (s.room 0).stopped = false ∧ (s.room 0).drone.queue = [5] ∧
     (imageOf s (.bank 0 y.chanter.bank)).isSome = true) ∧
    ((suite0 .a).room 0).drone.queue = [] ∧
    (let s := fun (src ctl : Word) (f : Bool) (l : List Nat) => droned (fun d => { d with fixed := f, feedOpen := l }) (popM (.dfeed src ctl))
     ((s 0 0 true []).suite 0).mq = [cmdOf (.dfeed 0 0) .popped] ∧ westRooms (s 0 0 true []) 0 = [0] ∧ northRooms (s 0 0 true []) 0 = [0] ∧
     ((s 0 0 true []).room 0).stopped = false ∧ (0x10 : Word).toNat % 256 ≠ 0 ∧
     ¬ (0x800000 : Word).toNat + 256 ≤ 0x800000 - ((s 0x800000 0 true []).suite 0).l1mib.toNat * 0x100000 ∧
     (0 : Word).toNat + 256 ≤ 0x800000 - ((s 0 0 false []).suite 0).l1mib.toNat * 0x100000 ∧
     ((s 0 2 false [4]).room 0).drone.feedOpen.find? (fun k => !sideFull (s 0 2 false [4]) 0 false k) = some 4 ∧
     ((s 0 2 false []).room 0).drone.feedOpen.find? (fun k => !sideFull (s 0 2 false []) 0 false k) = none) ∧
    (let s := mqOf [cmdOf (.ddrn 3) .popped] dovwState
     let ops := programOps { image .drain 0x0e000010 0x12000000 with drains := [0] } 0
     (s.suite 0).mq = [cmdOf (.ddrn 3) .popped] ∧ (s.room 0).drone.drainOpen = some 7 ∧ ((suite0 .a).room 0).drone.drainOpen = none ∧
     endsNomain ops = false ∧ dovwTiles ops = [1] ∧ (1 % 8 == 3 % 8) = false ∧ (1 % 8 == 9 % 8) = true) ∧
    (let s := droneState id
     let due := droneState fun d => { d with finalStep := none }
     let late := (droneState fun d => { d with held := true, dcfg2 := 1, sinceBeat := 2 }).modSuite 0 fun x =>
       { x with mrun := [cmdOf (.dstart 0 0) .running] }
     (droneRun s 0).isSome = true ∧ beatFires s 0 = true ∧ droneRun (suite0 .a) 0 = none ∧ beatFires (suite0 .a) 0 = false ∧
     (droneRun due 0).any (fun r => !beatReady due 0 r && r.beat == 1) = true ∧ (due.room 0).drone.sinceBeat = (due.room 0).drone.period ∧
     (due.room 0).drone.held = false ∧ beatFires due 0 = false ∧
     (droneRun late 0).isSome = true ∧ (late.room 0).drone.deadline = 1 ∧ (late.room 0).drone.held = true ∧ (late.room 0).drone.missRaised = false ∧
     (late.room 0).drone.sinceBeat = (late.room 0).drone.period + (late.room 0).drone.deadline * (late.room 0).drone.period ∧
     findRunning late 0 .m (fun x => x.status == .running && (match x.op with | .dstart .. => true | _ => false)) = some 0) := by
  and_intros <;> decide +kernel
theorem witness_DronesRunWaits :
    roomsWait (popM (.dstart 0xf000 0)) 0 .m (cmdOf (.dstart 0xf000 0) .popped) = false ∧
    roomsWait (mqOf [cmdOf (.ddrn 3) .popped] dovwState) 0 .m (cmdOf (.ddrn 3) .popped) = false ∧
    (let d := ((droned (fun d => { d with queue := [5, 6], queueNew := 1 }) (suite0 .a)).room 0).drone
     d.queue.take (d.queue.length - d.queueNew) = [5]) ∧
    (let d := ((droned (fun d => { d with queue := [5], queueNew := 1 }) (suite0 .a)).room 0).drone
     d.queue.take (d.queue.length - d.queueNew) = []) ∧
    (∀ n : Fin 2, let d := ((droned (fun d => { d with withdrawnA := n.val }) (popM (.dfeed 0 0))).room 0).drone
     d.fixed = false ∧ d.feedOpen.find? (fun k => !sideFull (droned (fun d => { d with withdrawnA := n.val }) (popM (.dfeed 0 0))) 0 false k) = none ∧
       d.withdrawnA = n.val) := by
  and_intros <;> decide +kernel

/-- A copy that runs in Suite 0, its first and only element still to move; its destination and origin may be given. -/
def copyJob (f : CopyJob → CopyJob) : CopyJob := f (copyOf (copyBox (suite0 .a)))
def copying (f : CopyJob → CopyJob) : State := (mapped (suite0 .a)).modSuite 0 fun x => { x with crun := [cmdOf (.cpy (copyJob f)) .running] }
/-- An element's address translates and its line's home port has granted it. -/
def opens (s : State) (d : Desc) (seg off : Nat) (store : Bool) : Bool :=
  match Sys2Proof.Machine.translate s 0 seg d off store true with
  | (.ok (pa, _), s1) => s1.pkg.l2 == granted (.agent (.bank 0 0)) (pa / 64)
  | _ => false
theorem loads_when {s : State} {d : Desc} {seg off : Nat} (n : Nat) (h : opens s d seg off false = true) :
    ∃ bs s2, loadBytes s (.bank 0 0) 0 seg d off n true true = (.ok bs, s2) := by
  unfold opens at h
  split at h
  · rename_i pa slot s1 h1
    have hg := granted_all (beq_iff_eq.mp h)
    exact ⟨_, _, by unfold loadBytes; simp only [h1, l1Hit, hg, Bool.true_or, Bool.not_true, if_true]; rfl⟩
  · cases h
theorem stores_when {s : State} {d : Desc} {seg off : Nat} (bs : List Byte) (setter : Nat) (h : opens s d seg off true = true) :
    ∃ s2, storeBytes s (.bank 0 0) 0 seg d off bs setter true = (.ok (), s2) := by
  unfold opens at h
  split at h
  · rename_i pa slot s1 h1
    have hg := granted_all (beq_iff_eq.mp h)
    exact ⟨_, by unfold storeBytes; simp only [h1, hg, Bool.not_true]; rfl⟩
  · cases h
/-- The descriptor of the copied segment, and the state in which its element moves. -/
def copyDesc (s : State) (f : CopyJob → CopyJob) : Option (Desc × State) :=
  match getDesc s 0 (copyJob f).seg with
  | (some d, s1) => some (d, { s1 with fresh := s1.fresh + 1 })
  | _ => none
/-- Of the element that moves: it lies outside the segment, its address opens for a read, for a write, and neither format is CB4. -/
def copyFacts (f : CopyJob → CopyJob) : Bool × Bool × Bool × Bool :=
  let j := copyJob f
  match copyDesc (grantAll (.bank 0 0) 0x400 (copying f)) f with
  | some (d, at1) =>
    (outsideOf d (j.coord 0), opens at1 d j.seg (offsetOf d (j.coord 0)) false, opens at1 d j.seg (offsetOf d (j.coord 0)) true,
      d.fmt != .cb4 && j.pfmt != .cb4 && !touchesFed at1 0 (j.lsAddr 0) j.pfmt.esz)
  | none => (false, false, false, false)
/-- A load of two rows of one word into the accumulator store, outside the segment: its words not read, and read with one row landed. -/
def accJob (j : CopyJob) : CopyJob := { j with acc := true, pfmt := .fp32, origin := [70000, 0, 0, 0, 0, 0], ext := [1, 2, 1, 1, 1, 1] }
def accRow (j : CopyJob) : CopyJob := { accJob j with got := [0, 0], moved := [0] }
/-- Its words are read at once. -/
def accReads (s : State) : Bool :=
  let j := copyJob accJob
  match getDesc s 0 j.seg with
  | (some d, s1) => match (loadWords s1 0 (cmdOf (.cpy j) .running) j d ((List.range j.size).drop j.got.length)).2.1 with | .done => true | _ => false
  | _ => false
/-- The turn of its next row comes, and no drained row is in the way. -/
def accFacts (s : State) : Bool :=
  let j := copyJob accRow
  rcycOf s 0 % 8 == j.k.val % 8 && !(s.room 0).stopped && !(s.room 0).portRows.contains (j.k.val % 8) && !unitDrains s 0 j.hold (j.k.val % 8) &&
    (portClash s 0 (j.k.val % 8)).isNone && ologMode s 0 == 0
/-- A load whose word lies in the segment, and whose request no port has granted yet. -/
def accWait (j : CopyJob) : CopyJob := { j with acc := true, pfmt := .fp32 }
def accWaits (s : State) (d : Desc) : Bool :=
  let j := copyJob accWait
  !outsideOf d (j.coord 0) && (match Sys2Proof.Machine.translate s 0 j.seg d (offsetOf d (j.coord 0)) false true with
    | (.ok _, s2) => s2.pkg.l2.all fun x => x.granted.isEmpty
    | _ => false)
theorem words_wait {s : State} {d : Desc} {c : Cmd} (rest : List Nat) (hb : c.bank = 0) (ht : c.tenant = 0) (h : accWaits s d = true) :
    (loadWords s 0 c (copyJob accWait) d (0 :: rest)).2.1 = .wait := by
  unfold accWaits at h
  simp only [Bool.and_eq_true, Bool.not_eq_true'] at h
  obtain ⟨h0, h⟩ := h
  split at h
  · rename_i x s2 h1
    have hr : (readSegElem s 0 c (copyJob accWait) d 0).1 = .wait := by
      unfold readSegElem loadBytes
      simp [h0, hb, ht, h1, l1Hit, granted_none (.bank 0 0) (x.1 / 64) h]
    unfold loadWords
    cases hx : readSegElem s 0 c (copyJob accWait) d 0 with
    | mk r s1 => rw [hx] at hr; subst hr; rfl
  · cases h

theorem witness_CopiesMove :
    (let j := copyJob id
     let s := cqOf [cmdOf (.cpy j) .popped] (suite0 .a)
     (s.suite 0).cqueue = [cmdOf (.cpy j) .popped] ∧ (s.suite 0).stopped = false ∧ (s.suite 0).crun.length < 4 ∧
     4 ≤ ((s.modSuite 0 fun x => { x with crun := List.replicate 4 (cmdOf (.cpy j) .running) }).suite 0).crun.countP
       (fun x => x.status == .running && (match x.op with | .cpy _ => true | _ => false))) ∧
    ((copying id).suite 0).crun = [cmdOf (.cpy (copyJob id)) .running] ∧ ((copying id).suite 0).stopped = false ∧ (copyJob id).left = [0] ∧
    (copyJob id).store = false ∧ (copyJob id).acc = false ∧ copyFacts id = (false, true, true, true) ∧
    (∀ x, copyDesc (grantAll (.bank 0 0) 0x400 (copying id)) id = some x →
      ∃ bs s2, loadBytes x.2 (.bank 0 0) 0 (copyJob id).seg x.1 (offsetOf x.1 ((copyJob id).coord 0)) x.1.fmt.esz true true = (.ok bs, s2)) ∧
    copyFacts (fun j => { j with origin := [70000, 0, 0, 0, 0, 0] }) = (true, false, false, true) ∧
    (copyJob fun j => { j with store := true }).left = [0] ∧ copyFacts (fun j => { j with store := true }) = (false, true, true, true) ∧
    copyFacts (fun j => { j with store := true, origin := [70000, 0, 0, 0, 0, 0] }) = (true, false, false, true) ∧
    (copyJob accJob).left ≠ [] ∧ (copyJob accJob).got.length < (copyJob accJob).size ∧ accReads (copying accJob) = true ∧
    (copyJob accRow).left ≠ [] ∧ (copyJob accRow).size ≤ (copyJob accRow).got.length ∧ accFacts (copying accRow) = true ∧
    rcycOf ((copying accRow).modPkg fun p => { p with rcyc := Vector.replicate 4 1 }) 0 % 8 ≠ 0 ∧
    (∃ d, (getDesc (copying accWait) 0 (copyJob accWait).seg).1 = some d ∧
      (loadWords (getDesc (copying accWait) 0 (copyJob accWait).seg).2 0 (cmdOf (.cpy (copyJob accWait)) .running) (copyJob accWait) d [0]).2.1 = .wait) ∧
    (copyJob fun j => { j with moved := [0] }).left = [] := by
  refine ⟨by decide +kernel, by decide +kernel, by decide +kernel, by decide +kernel, by decide +kernel, by decide +kernel, by decide +kernel, ?_,
    by decide +kernel, by decide +kernel, by decide +kernel, by decide +kernel, by decide +kernel, by decide +kernel, by decide +kernel, by decide +kernel,
    by decide +kernel, by decide +kernel, by decide +kernel, ?_, by decide +kernel⟩
  rotate_left
  · have hg : (match getDesc (copying accWait) 0 (copyJob accWait).seg with | (some d, s1) => accWaits s1 d | _ => false) = true := by decide +kernel
    cases hx : getDesc (copying accWait) 0 (copyJob accWait).seg with
    | mk o s1 =>
      rw [hx] at hg
      cases o with
      | none => cases hg
      | some d => exact ⟨d, rfl, words_wait [] rfl rfl hg⟩
  intro x h
  have ho : (copyFacts id).2.1 = true := by decide +kernel
  unfold copyFacts at ho
  simp only [h] at ho
  exact loads_when _ ho

/-- Every passage enabled, owned by tenant 0, with one slot; commands of Suite 0 and of Suite 16, which receives what die 0 sends. -/
def passages (l : List (Nat × Option Tile)) (used : Nat) (s : State) : State :=
  s.modPkg fun p => { p with passages := Vector.replicate 5 (Vector.replicate 8 ⟨0x80000000, l, 1, used, []⟩) }
def psendCmd (st : CmdStatus) : Cmd := { cmdOf (.psend 0 0x100) st with slot := some (0, Tile.zero) }
def precvCmd (ctl : Word) (st : CmdStatus) : Cmd := { cmdOf (.precv 0 ctl) st with slot := some (0, Tile.zero) }
theorem witness_PassagesMove :
    (let s := fun (l : List (Nat × Option Tile)) (n : Nat) => passages l n (cqOf [cmdOf (.psend 0 0x100) .popped] (suite0 .a))
     ((s [] 0).suite 0).cqueue = [cmdOf (.psend 0 0x100) .popped] ∧ passageOk (s [] 0) (sendBoundary 0) 0 0 = true ∧
     slotBoundary (s [] 0) (sendBoundary 0) 0 = 0 ∧ (passage (s [] 0) 0 0).used < (passage (s [] 0) 0 0).depth ∧
     (passage (s [] 1) 0 0).depth ≤ (passage (s [] 1) 0 0).used ∧ ologMode (s [] 0) 0 = 0 ∧
     passageOk (cqOf [cmdOf (.psend 0 0x100) .popped] (suite0 .a)) (sendBoundary 0) 0 0 = false) ∧
    (sendBoundary 0).val < 3 ∧ (psendCmd .running).slot.map (·.1) = some 0 ∧ (psendCmd .running).tok.pushEn = 0 ∧
    ([(0, none)] : List (Nat × Option Tile)).takeWhile (fun q => q.1 != 0) = [] ∧
    (([(7, none), (0, none)] : List (Nat × Option Tile)).takeWhile fun q => q.1 != 0).any (fun q => q.2.isNone) = true ∧
    (let s := (suite0 .a).modSuite 0 fun x => { x with crun := [psendCmd .running] }
     ((s.suite 0).crun[0]?).isSome = true ∧ (s.suite 0).stopped = false ∧ touchesFed s 0 0 32768 = false) ∧
    (recvBoundary 16).val < 4 ∧
    (let s := fun (l : List (Nat × Option Tile)) => passages l 1 ((suite0 .a).modSuite 16 fun x => { x with cqueue := [cmdOf (.precv 0 0x100) .popped] })
     ((s []).suite 16).cqueue = [cmdOf (.precv 0 0x100) .popped] ∧ passageOk (s []) (recvBoundary 16) 0 0 = true ∧ (passage (s []) (recvBoundary 16) 0).slots = [] ∧
     (passage (s [(3, some Tile.zero)]) (recvBoundary 16) 0).slots.map (fun q => (q.1, q.2.isSome)) = [(3, true)] ∧
     ((s []).suite 16).stopped = false) ∧
    (let s := (suite0 .a).modSuite 16 fun x => { x with crun := [precvCmd 0 .running] }
     ((s.suite 16).crun[0]?).isSome = true ∧ touchesFed s 16 0 32768 = false) ∧
    touchesFed (nestState (oneRun 0 15)) 0 0 32768 = true ∧ dieOf 0 = 0 := by
  and_intros <;> decide +kernel

/-- The record of a collective of one rank, a scan of one row and one column, at the start of segment 0; `wcs` is its wait field (R272). -/
def collState (wcs rank : Nat) (n : Nat) : State :=
  (cqOf [cmdOf (.coll 0 rank none) .popped] ((mapped (suite0 .a)).modPkg fun p => { p with
    mem := p.mem ++ [(0x10000, 1), (0x10004, 1), (0x1000c, 1), (0x1000e, 1)] ++ (if wcs = 0 then [] else [(0x10010, BitVec.ofNat 8 wcs)]) ++
      [(0x10012, 1)] })).modTenant 0 fun t => { t with cs := Vector.replicate 16 (BitVec.ofNat _ n) }
theorem record_ok (s : State) (u : SuiteId) (h : steadyOk s = true) (hr : recordOk (s.suite u) false (bytesVa s 0 64) = true)
    (h0 : fieldAt (bytesVa s 0 64) 6 2 = 0) : ∃ s0, readRecord s u false 0 0 0 = (.ok (some (bytesVa s 0 64, [])), s0) := by
  obtain ⟨s1, h1, s2, h2⟩ := loads_then s 0 64 64 h (by decide) (by decide)
  refine ⟨s2, ?_⟩
  unfold readRecord
  simp only [Nat.zero_mul, Nat.zero_add, h1, hr, h0, Nat.mul_zero, h2]
  simp
/-- A read of a segment that is held for migration waits. -/
theorem record_waits (s : State) (u : SuiteId) (h : (loadVa s 0 0 64).1 = .wait) : ∃ s0, readRecord s u false 0 0 0 = (.wait, s0) := by
  obtain ⟨s0, h0⟩ := pair_of h
  exact ⟨s0, by unfold readRecord; simp only [Nat.zero_mul, Nat.zero_add, h0]⟩
/-- What an arrival of the record's instance finds. -/
def arrival (s : State) (rank : Nat) : Option (Bool × Nat × Nat × Bool) :=
  let j := joinInst s 0 0 0 0 (some (bytesVa s 0 64, []))
  (j.2.pkg.colls[j.1]?).map fun x => (arrivalBad x 0 rank, x.scope, x.nrank, x.abandoned || x.t0.isSome || !x.remote.isEmpty || !x.ranks.isEmpty)
def collInst (f : CollInst → CollInst) : CollInst :=
  f { newInst 0 0 0 0 (bytesVa (collState 0 0 0) 0 64) [] with ranks := [(0, 0)], t0 := some 0, steps := [(3, 0, 0, 0)] }
def collRun (f : CollInst → CollInst) : State :=
  ((suite0 .a).modPkg fun p => { p with colls := [collInst f] }).modSuite 0 fun x => { x with crun := [cmdOf (.coll 0 0 (some 0)) .running] }

theorem witness_CollectivesRun :
    ((∃ s0, readRecord (collState 0 0 0) 0 false 0 0 0 = (.ok (some (bytesVa (collState 0 0 0) 0 64, [])), s0)) ∧
     (∃ s0, readRecord (collState 0x10 0 0) 0 false 0 0 0 = (.ok (some (bytesVa (collState 0x10 0 0) 0 64, [])), s0)) ∧
     ∃ s0, readRecord ((collState 0 0 0).modTenant 0 fun t => { t with held := [0] }) 0 false 0 0 0 = (.wait, s0)) ∧
    ((collState 0 0 0).suite 0).cqueue = [cmdOf (.coll 0 0 none) .popped] ∧ imageSegOf (collState 0 0 0) (.bank 0 0) = 0 ∧
    ((collState 0 0 0).suite 0).stopped = false ∧
    fieldAt (bytesVa (collState 0x10 0 0) 0 64) 0x10 1 = 0x10 ∧ ((collState 0x10 0 0).tenant 0).cs.get 0 = 0 ∧
    ((collState 0x10 0 1).tenant 0).cs.get 0 ≠ 0 ∧ fieldAt (bytesVa (collState 0 0 0) 0 64) 0x10 1 = 0 ∧
    arrival (collState 0 0 0) 0 = some (false, 1, 1, false) ∧ arrival (collState 0 5 0) 5 = some (true, 1, 1, false) ∧
    (let facts := fun (f : CollInst → CollInst) => (instRuns (collRun f) (collInst f),
       (List.range (collInst f).steps.length).filter (stepReady (collRun f) (collInst f)), rankSuite (collInst f) 0, collCmd (collRun f) 0 0)
     facts id = (true, [0], some 0, some 0) ∧ facts (fun x => { x with steps := [(1, 0, 0, 0)] }) = (true, [0], some 0, some 0) ∧
     (facts fun x => { x with closed := true }).1 = false) ∧
    partStopped (collRun id) 0 = false ∧ paused (collRun id) 0 = false ∧ (collRun id).pkg.flips = [] ∧ ologMode (collRun id) 0 = 0 ∧ rcycOf (collRun id) 0 % 8 = 0 ∧
    ((collRun id).room 0).portRows = [] ∧ unitDrains (collRun id) 0 none 0 = false ∧ portClash (collRun id) 0 0 = none ∧
    (cmdOf (.coll 0 0 (some 0)) .running).accTile (collInst id).acck = 0 ∧
    rcycOf ((collRun id).modPkg fun p => { p with rcyc := Vector.replicate 4 1 }) 0 % 8 ≠ 0 ∧
    (collInst id).doneSteps.length < (collInst id).steps.length ∧
    (let f := fun (x : CollInst) => { x with doneSteps := [0] }
     instRuns (collRun f) (collInst f) = true ∧ (collInst f).steps.length ≤ (collInst f).doneSteps.length ∧ (collInst f).ranks = [(0, 0)] ∧
     collCmd (collRun f) 0 0 = some 0 ∧ ((collRun f).suite 0).crun = [cmdOf (.coll 0 0 (some 0)) .running]) := by
  refine ⟨⟨record_ok _ _ (by decide +kernel) (by decide +kernel) (by decide +kernel),
    record_ok _ _ (by decide +kernel) (by decide +kernel) (by decide +kernel), record_waits _ _ (by decide +kernel)⟩, ?_⟩
  and_intros <;> decide +kernel

/-- A read of the descriptor's list and of its 32 bytes succeeds at once. -/
theorem prep_ok (s : State) (va : Word) (al n : Nat) (k : List Byte → Prepared) (h : steadyOk s = true) (ha : va.toNat % al = 0) (hv : va.toNat + n ≤ 65536) :
    prepRead s 0 va al n k = k (bytesVa s va.toNat n) := by
  obtain ⟨s1, h1⟩ := loads_ok s va.toNat n h hv
  unfold prepRead
  rw [if_neg (by omega), if_neg (by rw [Nat.div_eq_of_lt (by omega)]; decide), h1]
/-- A scan descriptor at 0 of one dead entry of segment id 0, its list at 0x100, its buffer of 64 bytes at 0x200 (R299). -/
def scanDesc : State := (mapped steward).modPkg fun p => { p with
  mem := p.mem ++ [(0x10001, 1), (0x10009, 2), (0x10010, 64), (0x10018, 1), (0x10100, 1)] }
def isCmd (p : Prepared) : Bool := match p with | .cmd .. => true | _ => false
theorem prepared : isCmd (prepare scanDesc 0 true 0) = true := by
  have h : steadyOk scanDesc = true := by decide +kernel
  unfold prepare
  rw [show ctxTenant scanDesc 0 = 0 from rfl, prep_ok _ _ _ _ _ h (by decide) (by decide)]
  rw [if_neg (by decide +kernel), if_neg (by decide +kernel), show word8 (bytesVa scanDesc (0 : Word).toNat 32) 0 = 0x100 by decide +kernel,
    prep_ok _ _ _ _ _ h (by decide) (by decide +kernel)]
  rw [if_neg (by decide +kernel), if_neg (by decide +kernel), if_neg (by decide +kernel)]
  have hr : (match (rangeAccess scanDesc 0 (word8 (bytesVa scanDesc (0 : Word).toNat 32) 8).toNat 64 true).1 with | .ok _ => true | _ => false) = true := by
    decide +kernel
  have hn : List.foldl (fun n e => n + imageSize e) 0 (List.map (fun i => (⟨BitVec.ofNat 32 (fieldAt (bytesVa scanDesc (0x100 : Word).toNat
      (4 * fieldAt (bytesVa scanDesc (0 : Word).toNat 32) 24 2)) (4 * i) 4 / 2 * 2), (fieldAt (bytesVa scanDesc (0x100 : Word).toNat
      (4 * fieldAt (bytesVa scanDesc (0 : Word).toNat 32) 24 2)) (4 * i) 4).testBit 0⟩ : SegEntry))
      (List.range (fieldAt (bytesVa scanDesc (0 : Word).toNat 32) 24 2))) = 64 := by decide +kernel
  rw [hn]
  cases hx : rangeAccess scanDesc 0 (word8 (bytesVa scanDesc (0 : Word).toNat 32) 8).toNat 64 true with
  | mk r a =>
    rw [hx] at hr
    cases r with
    | ok x => cases x; rfl
    | fault e => cases hr
    | wait => cases hr

def stewardXY (x y : Word) : State := putA 1 x (putA 2 y steward)
def scanReady (x y : Word) : Bool :=
  [Instr.scnstop 5 1 2 0 0, .scnrun 5 1 2 0 0, .scnq 5 1 2 0 0, .scnout 5 1 0 0, .scnin 5 1 0 0].all fun i => rd (stewardXY x y) i
theorem witness_ScanCommandsIssue :
    steward.cur.bank = .ctx 0 ∧ scanReady 0 0 = true ∧ scanReady 1 0x10000 = true ∧ scanReady 1 0x10100 = true ∧ scanReady 0 0x100 = true ∧
    (let words := fun (x y : Word) => x = 0 ∨ y &&& ~~~0xffffffff0007013f ≠ 0 ∨ (y.getLsbD 16 = false ∧ y.getLsbD 17 = false) ∨
       (y.getLsbD 18 = true ↔ y.toNat < 2 ^ 32) ∨ (y.getLsbD 8 = false ∧ y.toNat % 64 ≠ 0)
     words 0 0 ∧ ¬ words 1 0x10000 ∧ ¬ words 1 0x10100 ∧ (0x10100 : Word).getLsbD 8 = true ∧ (0x10000 : Word).getLsbD 18 = false) ∧
    segOk 0 = true ∧ segOk 1 = false ∧ (0 : CtxId) ≠ hypervisor ∧
    isCmd (prepare scanDesc 0 true 0) = true ∧
    (match prepare steward 0 true 1 with | .trap .. => true | _ => false) = true ∧
    (match prepare (scanDesc.modTenant 0 fun t => { t with held := [0] }) 0 true 0 with | .hold => true | _ => false) = true ∧
    (∃ q1, loadVa scanDesc 0 0 32 = (.ok (bytesVa scanDesc 0 32), q1)) ∧ (∃ q2, loadVa scanDesc 0 0x100 4 = (.ok (bytesVa scanDesc 0x100 4), q2)) ∧
    fieldAt (bytesVa scanDesc 0 32) 0 8 = 0x100 ∧ fieldAt (bytesVa scanDesc 0 32) 8 8 = 0x200 ∧ fieldAt (bytesVa scanDesc 0 32) 0x10 8 = 64 ∧
    fieldAt (bytesVa scanDesc 0 32) 0x18 2 = 1 ∧ fieldAt (bytesVa scanDesc 0 32) 0x1b 1 = 0 ∧ fieldAt (bytesVa scanDesc 0 32) 0x1c 4 = 0 ∧
    bytesVa scanDesc 0x100 4 = [1, 0, 0, 0] ∧ imageSize ⟨0, true⟩ = 64 ∧
    (match (rangeAccess scanDesc 0 0x200 64 true).1 with | .ok _ => true | _ => false) = true := by
  refine ⟨?_, ?_, ?_, ?_, ?_, ?_, ?_, ?_, ?_, prepared, ?_, ?_, loads_ok _ _ _ (by decide +kernel) (by decide), loads_ok _ _ _ (by decide +kernel) (by decide),
    ?_⟩
  all_goals and_intros
  all_goals decide +kernel

/-- A scan command at the head of context 0's queue; tenant 0 owns room 0 where `own` is set. -/
def scanCmd (op : ScanOp) (ctl : Word) (f : ScanCmd → ScanCmd) : ScanCmd := f (newScan op 5 9 1 ctl 0 0 [⟨0, true⟩])
def scanning (own : Bool) (x : ScanCmd) : State :=
  (steward.modCtx 0 fun c => { c with scans := [x] }).modTenant 0 fun t => { t with mask := if own then 1 else 0 }
def foreignIn (s : State) : Option SuiteId := ((List.finRange 64).filter fun u => (1 : Word).getLsbD u.val).find? fun u => !owns s 0 u
/-- A line of a scan buffer that the port has granted. -/
def bufferState : State := (mapped steward).modPkg fun p => { p with l2 := granted (.scan 0) 0x408 }
theorem buffer_line : ∃ l t, loadVaBy bufferState (.scan 0) 0 (ctxTenant bufferState 0) 0x200 64 = (.ok l, t) := by
  have h : translatesTo bufferState 0 0x200 false 0x10200 = true := by decide +kernel
  obtain ⟨ds, s1, s2, h1, h2, -, -, h5⟩ := translates_of h
  have hg : l2GrantedTo s2 (.scan 0) (0x10200 / 64) = true := granted_to h5
  exact ⟨_, _, by
    rw [show ctxTenant bufferState 0 = 0 from rfl]
    unfold loadVaBy
    rw [show (0x200 : Nat) / 2 ^ 36 = natBits 0x200 36 16 by decide, h1]
    simp only [h2, hg, if_true]
    rfl⟩
theorem witness_ScanCommandsRun :
    (let x := scanCmd .stop 0x10000 id
     ((scanning true x).ctx 0).scans = [x] ∧ x.taken = false ∧ foreignIn (scanning false x) = some 0 ∧ foreignIn (scanning true x) = none ∧
     extendRooms (scanning true x) [0] = [0] ∧ heldByStop (scanning true x) 0 0 = false ∧ x.ctl.getLsbD 18 = false ∧ x.ctl.getLsbD 17 = false ∧
     (0x20000 : Word).getLsbD 17 = true ∧ coreStopped (scanning true x) 0 = false ∧ (0x100050000 : Word).getLsbD 18 = true ∧
     flueBusy (scanning true (scanCmd .run 0x10000 id)) 0 (fun id => segRoom id == 0) = false ∧
     owns (scanning false x) 0 (segRoom 0) = false ∧ owns (scanning true x) 0 (segRoom 0) = true ∧
     transferRefusal (scanning false (scanCmd .out 0 id)) 0 (scanCmd .out 0 id) [] = some (1, 0) ∧
     transferRefusal (scanning false (scanCmd .inp 0 id)) 0 (scanCmd .inp 0 id) [[]] = some (1, 0)) ∧
    (let x := scanCmd .stop 0x100050000 fun x => { x with pendingStop := true }
     let on := (scanning true x).modRoom 0 fun r => { r with beatNow := true, nbeat := 1 }
     x.pendingStop = true ∧ beatReached (scanning true x) (x.ctl.toNat / 2 ^ 32) 0 = false ∧ beatReached on (x.ctl.toNat / 2 ^ 32) 0 = true) ∧
    (scanCmd .stop 0x20000 fun x => { x with awaitStop := true }).awaitStop = true ∧
    (let x := scanCmd .run 0x10000 fun x => { x with waitRun := true }
     let stop := fun (p : BitVec 3) => (scanning true x).modRoom 0 fun r => { r with stopped := true, rphase := p }
     x.waitRun = true ∧ x.ctl.getLsbD 16 = true ∧ ((stop 7).room 0).damaged = [] ∧ usesUnaccepted (stop 7) 0 = false ∧
     rcycOf (stop 7) 0 % 8 = (((stop 7).room 0).rphase.toNat + 1) % 8 ∧ rcycOf (stop 3) 0 % 8 ≠ (((stop 3).room 0).rphase.toNat + 1) % 8) ∧
    (let x := scanCmd .inp 0 fun x => { x with shifting := true, entries := [⟨0, false⟩] }
     x.shifting = true ∧ (x.ports.all fun p => p.2 == 0) = true ∧ x.shifted = false ∧ x.entries = [⟨0, false⟩] ∧ (scanning true x).pkg.flips = [] ∧
     ((scanCmd .out 0 fun x => { x with shifting := true, ports := [(0, 3)] }).ports.any fun p => p.2 != 0) = true) ∧
    (∀ b : Bool, let x := scanCmd .out 0 fun x => { x with shifting := true, shifted := true, bad := if b then some 0 else none }
     x.shifted = true ∧ x.bad.isSome = b ∧ (writeLines 0 0 x.lines (scanning true x)).1 = []) ∧
    (let x := scanCmd .out 0 fun x => { x with shifting := true, shifted := true, lines := [(0, [])] }
     let s := (((mapped steward).modCtx 0 fun c => { c with scans := [x] })).modTenant 0 fun t => { t with held := [0] }
     (writeLines 0 0 x.lines s).1 ≠ []) := by
  and_intros <;> decide +kernel
/-- A transfer that is not refused; an image list that is read, and one whose buffer lies in a held segment; a core that runs on at a stop. -/
theorem witness_ScanTransfers :
    (let x := scanCmd .out 0 id
     let s := (scanning true x).modRoom 0 fun r => { r with stopped := true }
     transferRefusal s 0 x [] = none) ∧
    (let x := scanCmd .inp 0 id
     let s := (scanning true x).modRoom 0 fun r => { r with stopped := true }
     transferRefusal s 0 x [] = none ∧ imageLines x = [] ∧ transferRefusal s 0 x (splitImages x.entries []) = none) ∧
    (let x := scanCmd .inp 0 fun x => { x with entries := [⟨0, false⟩] }
     let s := ((((mapped steward).modCtx 0 fun c => { c with scans := [x] }).modRoom 0 fun r => { r with stopped := true }).modTenant 0 fun t =>
       { t with mask := 1, held := [0] })
     transferRefusal s 0 x [] = none ∧ imageLines x ≠ [] ∧ (readImages 0 0 (imageLines x) s).1 = [] ∧
     (match (loadVaBy s (.scan 0) 0 (ctxTenant s 0) 0x200 64).1 with | .wait => true | _ => false) = true) ∧
    (let s := scanning true (scanCmd .stop 0x20000 fun x => { x with awaitStop := true })
     (s.suite 0).stopped = false ∧ ∀ q ∈ s.pkg.stopReq, q.1 = 0 → q.2.2 = false) ∧
    (let s := (scanning true (scanCmd .stop 0x20000 id)).modPkg fun p => { p with stopReq := [(0, false, true)] }
     coreStopped s 0 = false ∧ (0, false, true) ∈ s.pkg.stopReq) := by
  and_intros <;> decide +kernel

/-- An image header at the start of segment 0 (R99) and a launch record at 0x400 (R20). -/
def recordBytes (id : Byte) : List Byte :=
  [id, 0, 0, 0, 0, 0, 0, 0, 0, 1, 1, 0, 0, 0, 0, 0, 0, 0, 0, 0, 0, 0, 0, 0, 0, 0, 0, 0, 0, 0, 0, 0, 1] ++ List.replicate 95 0
def imaged (feat : List Host.Cell) (s : State) : State := (mapped s).modPkg fun p => { p with
  mem := p.mem ++ [(0x10000, 0x4a), (0x10001, 0x41), (0x10002, 0x4c), (0x10003, 0x49), (0x10004, 1), (0x10008, 1)] ++ feat ++
    [(0x10400, 5), (0x10409, 1), (0x1040a, 1), (0x10420, 1)], booted := true }
theorem header_ok (s : State) (h : steadyOk s = true) (hg : headerGood (bytesVa s 0 256) = true) (hc : (getDesc s 0 0).1.map (·.code) = some true) :
    launchHeader s 0 0 = some (parseHeader (bytesVa s 0 256)) ∧ ∃ s1, readHeader s 0 0 = (.ok (parseHeader (bytesVa s 0 256)), s1) := by
  obtain ⟨s1, h1⟩ := loads_ok s 0 256 h (by decide)
  have hr : readHeader s 0 0 = (.ok (parseHeader (bytesVa s 0 256)), s1) := by
    unfold readHeader
    rw [Nat.zero_mul, h1]
  refine ⟨?_, s1, hr⟩
  unfold launchHeader
  cases hd : (getDesc s 0 0).1 with
  | none => rw [hd] at hc; cases hc
  | some d =>
    rw [hd] at hc
    have : d.code = true := by simpa using hc
    simp [this, hr, parseHeader, hg]
def launch0 (f : Launch → Launch) : Launch := f
  { id := 0, imageSeg := 0, image := 0, prio := 3, slice := false, scope := 0, shape := 0, nlev := 1, kinds := [1, 0, 0, 0, 0, 0], levels := [0],
    trips := [3, 0, 0, 0, 0, 0], param := 0, affinity := 0, deps := [], seq := 0, ready := false, effPrio := 3, readyClk := 0, todo := 3, again := [],
    slices := [], slicedD := [], dDies := [], retired := 0, gone := 0, failed := false, barriers := 0 }
def launched (l : List Launch) (s : State) : State := s.modTenant 0 fun t => { t with launches := l, mask := 3 }
/-- A launch that is accepted, one with a bad id, one whose queue is full and one whose image wants a feature. -/
theorem witness_LaunchesQueue :
    (let s1 := fun (feat : List Host.Cell) => (imaged feat steward).modPkg fun p => { p with featLocked := true }
     (launchHeader (s1 []) 0 0 = some (parseHeader (bytesVa (s1 []) 0 256)) ∧
      launchHeader (s1 [(0x10050, 1)]) 0 0 = some (parseHeader (bytesVa (s1 [(0x10050, 1)]) 0 256))) ∧
     (parseHeader (bytesVa (s1 []) 0 256)).feat = 0 ∧ (parseHeader (bytesVa (s1 [(0x10050, 1)]) 0 256)).feat = 1 ∧
     (parseLaunch (s1 []) 0 (recordBytes 5)).map (·.id) = some 5 ∧ (parseLaunch (s1 []) 0 (recordBytes 0)).map (·.id) = some 0 ∧
     (parseLaunch (s1 []) 0 (List.replicate 128 0)).isNone = true ∧ (recordBytes 5).length = 128) ∧
    ctxTenant (imaged [] steward) 0 = 0 ∧ (∃ q, loadVa (imaged [] steward) 0 0x400 128 = (.ok (bytesVa (imaged [] steward) 0x400 128), q)) ∧
    bytesVa (imaged [] steward) 0x400 128 = recordBytes 5 ∧ (imaged [] steward).pkg.booted = true ∧
    256 ≤ ((launched (List.replicate 256 (launch0 id)) steward).tenant 0).launches.length ∧
    (let find := fun (f : Launch → Launch) => findLaunch (launched [launch0 f] steward) 0 0
     find id = some (launch0 id) ∧ (launch0 id).ready = false ∧ (launch0 id).deps = [] ∧ (launch0 id).retired < (launch0 id).total ∧
     (launch0 id).failed = false ∧ find (fun x => { x with ready := true }) = some (launch0 fun x => { x with ready := true }) ∧
     (launch0 fun x => { x with ready := true }).unplaced ≠ 0 ∧ find (fun x => { x with trips := [0], todo := 0 }) = some (launch0 fun x =>
       { x with trips := [0], todo := 0 }) ∧ (launch0 fun x => { x with trips := [0], todo := 0 }).total = 0) ∧
    (let s := (imaged [] steward).modCtx 0 fun x => { x with running := false }
     (∃ s1, readHeader s 0 0 = (.ok (parseHeader (bytesVa s 0 256)), s1)) ∧ ctxTenant s ⟨natBits (0 : Word).toNat 16 7, by decide⟩ = 0 ∧
     (s.ctx 0).running = false ∧ ctxOf s 0 (ctxTenant s 0) = true ∧ (getDesc s 0 0).1.map (·.code) = some true ∧
     (let h := parseHeader (bytesVa s 0 256)
      (h.good && decide (h.entryA.toNat < h.nlines) && decide (h.entryX.toNat < h.nlines)) = true)) := by
  refine ⟨⟨⟨(header_ok _ (by decide +kernel) (by decide +kernel) (by decide +kernel)).1, (header_ok _ (by decide +kernel) (by decide +kernel) (by decide +kernel)).1⟩, ?_⟩,
    ?_, loads_ok _ _ _ (by decide +kernel) (by decide), ?_, ?_, ?_, ?_,
    (header_ok _ (by decide +kernel) (by decide +kernel) (by decide +kernel)).2, ?_⟩
  all_goals and_intros
  all_goals decide +kernel
theorem witness_LaunchesAge :
    (launch0 fun x => { x with ready := true, readyClk := 2 ^ 23 - 1 }).readyClk + 1 = 2 ^ 23 ∧ (launch0 id).readyClk + 1 ≠ 2 ^ 23 := by decide +kernel

def placing (l : List Launch) : State := launched l (State.reset.modPkg fun p => { p with booted := true, images := [image .a 0 0] })
def ready0 : Launch := launch0 fun x => { x with ready := true }
/-- A launch of a higher priority, of wings of two rooms. -/
def over0 : Launch := launch0 fun x => { x with id := 1, ready := true, effPrio := 5, shape := 1 }
def ended (s : State) : State :=
  withBank (fun b => { b with sa := { b.sa with running := false }, sx := { b.sx with running := false } }) s
def blockedA (n : Nat) : State :=
  withBank (fun b => { b with sa := { b.sa with blocked := true }, sx := { b.sx with running := false }, deadCount := n }) (suite0 .a)
/-- Every die's clock pauses. -/
def pausing (s : State) : State := s.modPkg fun p => { p with pausing := Vector.replicate 4 true }
theorem witness_VisitsLive :
    (let s := placing [ready0]
     ownerOf? s 0 = some 0 ∧ ownerOf? s 1 = some 0 ∧ candidate s 0 0 0 = true ∧ offered s 0 0 0 = some ready0 ∧ offered s 0 1 0 = some ready0 ∧
     ready0.shape = 0 ∧ freeBank s (launchDual s ready0) 0 0 = some 0 ∧ freeBank s (launchDual s ready0) 1 0 = some 0 ∧
     s.pkg.images[ready0.image]? = some (image .a 0 0) ∧ sliced s 0 ready0 = false ∧ ologMode s 0 = 0 ∧ (greedyWing s 0 ready0).1 = some 0 ∧
     (greedyWing s 0 ready0).1 ≠ some 1 ∧ claimed s 0 ready0 0 = false ∧ claimed (placing [ready0, over0]) 0 ready0 0 = true ∧
     offered (placing [ready0, over0]) 0 0 0 = some ready0 ∧ offered (placing []) 0 0 0 = none ∧ paused s 0 = false ∧ paused (pausing s) 0 = true) ∧
    paused (ended (suite0 .a)) 0 = false ∧ paused (pausing (ended (suite0 .a))) 0 = true ∧
    ((suite0 .a).bank (.bank 0 0)).visit = some (oneVisit 0) ∧ (oneVisit 0).lead = 0 ∧ (oneVisit 0).shape = 0 ∧ partOver (suite0 .a) 0 0 = false ∧
    partOver (ended (suite0 .a)) 0 0 = true ∧
    (let s := launched [launch0 fun x => { x with todo := 2 }] (ended (suite0 .a))
     let x := launch0 fun x => { x with todo := 2 }
     findLaunch s 0 0 = some x ∧ x.retired + 1 < x.total ∧ x.failed = false ∧ x.slices = [] ∧ 0 < x.live ∧ (s.room 0).runs = []) ∧
    ((suite0 .a).suite 0).stopped = false ∧ deadNow (suite0 .a) 0 0 = false ∧ deadNow (blockedA 0) 0 0 = true ∧
    ((blockedA 0).bank (.bank 0 0)).deadCount + 1 < 2 ^ 20 ∧ deadNow (blockedA (2 ^ 20 - 1)) 0 0 = true ∧
    2 ^ 20 ≤ ((blockedA (2 ^ 20 - 1)).bank (.bank 0 0)).deadCount + 1 ∧ (State.reset.bank (.bank 0 0)).visit = none := by
  and_intros <;> decide +kernel

/-- A bank held by a trap of its A-stream at an AMEM, and at another instruction. -/
def trapped (w : W32) : State :=
  (withBank (fun b => { b with traps := [⟨0x28, 0, 0, 0, 0, 0⟩] }) (suite0 .a)).modPkg fun p => { p with images := [image .a w 0] }
theorem witness_TrapsAnswered :
    vselRef ((trapped 0).ctx 0).vsel = .bank 0 0 ∧ ((trapped 0).bank (.bank 0 0)).trapsLater = [] ∧
    ((trapped 0).bank (.bank 0 0)).traps = [⟨0x28, 0, 0, 0, 0, 0⟩] ∧ trapAgent (.bank 0 0) ⟨0x28, 0, 0, 0, 0, 0⟩ = some ⟨.bank 0 0, .a⟩ ∧
    (let w := (encode (.amem 1 2 3 9 0 0)).headD 0
     fetch (trapped w) ⟨.bank 0 0, .a⟩ = .word .a w 0 ∧ decode .a w 0 = .ok (.amem 1 2 3 9 0 0)) ∧
    fetch (trapped 0) ⟨.bank 0 0, .a⟩ = .word .a 0 0 ∧ decode .a 0 0 = .ok (.add 0 0 0 0) := by
  and_intros <;> decide +kernel

/-- Bank 0 of Suite 0, its Visit of a scope, at a barrier. -/
def syncing (scope : BitVec 2) (y : SyncState) (s : State) : State :=
  withBank (fun b => { b with visit := some { oneVisit 0 with scope := scope }, sync := y }) s
theorem witness_Supersteps :
    rd (suite0 .a) (.ssync 5 9 0) = true ∧ ((suite0 .a).bank (suite0 .a).cur.bank).sync = .none ∧
    (let s := syncing 0 (.waiting 5 9 1 0) (suite0 .a)
     (s.bank (.bank 0 0)).sync = .waiting 5 9 1 0 ∧ (s.suite 0).stopped = false ∧ paused s 0 = false ∧ paused (pausing s) 0 = true ∧
     (let b := s.bank (.bank 0 0); b.lq ++ b.sq ++ b.replay = []) ∧ streamCommands (s.suite 0) 0 = false ∧
     streamCommands ((mqOf [cmdOf .mgo .queued] s).suite 0) 0 = true ∧
     (((withLq [qLoad none] s).bank (.bank 0 0)).lq.any fun e => decide (e.seq < 1)) = true ∧
     ((s.modSuite 0 fun x => { x with stopped := true }).suite 0).stopped = true) ∧
    (let s := fun (sc : BitVec 2) => syncing sc (.arrived 5 9 0 0) (suite0 .a)
     allArrived (s 0) 0 0 0 = true ∧ allArrived (s 1) 0 1 0 = true ∧ allArrived (s 2) 0 2 0 = true ∧ digestOn (s 2) 0 = false ∧
     participants (s 0) 0 0 0 = [(0, 0)] ∧ participants (s 1) 0 1 0 = [(0, 0)] ∧ participants (s 2) 0 2 0 = [(0, 0)] ∧ paused (s 0) 0 = false ∧
     paused (s 1) 0 = false ∧ paused (s 2) 0 = false ∧ participants (pausing (s 0)) 0 0 0 = [(0, 0)] ∧ paused (pausing (s 0)) 0 = true ∧ ((s 0).bank (.bank 0 0)).sync = .arrived 5 9 0 0 ∧
     allArrived (syncing 0 (.waiting 5 9 1 0) (suite0 .a)) 0 0 0 = false) := by
  and_intros <;> decide +kernel
/-- A detached Visit of each scope, and an atomic of the A-stream that is still to apply (R36, R263, R264). -/
theorem witness_SuperstepsHeld :
    (∀ sc : Fin 3, let s := (suite0 .a).modPkg fun p => { p with away := [{ oneVisit 0 with scope := BitVec.ofNat 2 sc.val }] }
      ∃ v, v ∈ s.pkg.away ∧ v.tenant = 0 ∧ v.scope.toNat = sc.val ∧ (sc = 0 → v.launch.toNat = (oneVisit 0).launch.toNat) ∧ (sc = 1 → dieOf v.lead = 0)) ∧
    (let a : Atomic := ⟨0, .a, 0, 5, 9, 0, 0, 0, 1, 0, 0, false, false, false, 0⟩
     let s := (syncing 0 (.waiting 5 9 1 0) (suite0 .a)).modRoom 0 fun r => { r with atomics := [a] }
     a ∈ (s.room 0).atomics ∧ a.bank = 0 ∧ a.kind = .a ∧ a.discard = false) := by
  refine ⟨fun sc => ⟨{ oneVisit 0 with scope := BitVec.ofNat 2 sc.val }, List.Mem.head _, rfl, ?_, fun _ => rfl, fun _ => ?_⟩, by decide +kernel⟩
  · revert sc
    decide
  · show dieOf (oneVisit 0).lead = 0
    decide

/-- The digest feature accepted, comparison on, at a barrier of scope package that has gathered; the peer is another package. -/
def digests (f : Replica → Replica) : State :=
  ((syncing 2 (.arrived 5 9 0 0) (suite0 .a)).modPkg fun p => { p with featacc0 := 8 }).modTenant 0 fun t =>
    { t with detctl := 8, replica := f { t.replica with peer := Config.pkgId + 1 } }
theorem other_package : Config.pkgId + 1 ≠ Config.pkgId := by
  intro h
  have h1 := congrArg BitVec.toNat h
  simp [BitVec.toNat_add] at h1
  have := Config.pkgId.isLt
  omega
theorem digests_on (f : Replica → Replica) (hf : ∀ x, (f x).peer = x.peer) : digestOn (digests f) 0 = true := by
  have h1 : featOn (digests f) 3 = true := by
    show (8 : Word).getLsbD 3 = true
    decide
  have h2 : ((digests f).tenant 0).detctl.getLsbD 3 = true := by
    show (8 : BitVec 4).getLsbD 3 = true
    decide
  have h3 : ((digests f).tenant 0).replica.peer = Config.pkgId + 1 := by
    show (f _).peer = _
    rw [hf]
  unfold digestOn
  rw [h1, h2, h3]
  simp only [Bool.true_and, bne_iff_ne, ne_eq]
  exact other_package
theorem witness_ReplicaDigests :
    (digestOn (digests id) 0 = true ∧ digestOn (digests fun x => { x with own := some (5, 1) }) 0 = true ∧
     digestOn (digests fun x => { x with rerun := true, own := some (5, 1) }) 0 = true ∧
     digestOn (digests fun x => { x with rerun := true, own := some (5, 0) }) 0 = true ∧
     digestOn (digests fun x => { x with pending := true }) 0 = true) ∧
    allArrived (digests id) 0 2 0 = true ∧ ((digests id).tenant 0).replica.own = none ∧ ((digests id).tenant 0).replica.pending = false ∧
    ((digests id).tenant 0).replica.got = none ∧ ((digests id).tenant 0).replica.rerun = false ∧
    ((digests fun x => { x with own := some (5, 1) }).tenant 0).replica.own = some (5, 1) ∧ (5 : BitVec 256) ≠ 6 ∧ (1 : W32) ≠ 0 ∧
    digestOn (suite0 .a) 0 = false ∧ participants (digests id) 0 2 0 = [(0, 0)] ∧ hasArrived ((digests id).bank (.bank 0 0)) = true ∧
    featOn (digests id) 3 = true ∧ ((digests id).tenant 0).trace.ctl.getLsbD 0 = false ∧
    (∃ v : Word, v.setWidth 9 = Config.pkgId) ∧ (∃ v : Word, v.setWidth 9 ≠ Config.pkgId) ∧
    (∃ s : State, (s.tenant 0).replica.peer = Config.pkgId) ∧
    declaredWaits (digests id) 0 = false ∧ paused (digests id) 0 = false ∧
    (let s := (mapped (digests id)).modTenant 0 fun t => { t with held := [0], replica := { t.replica with segs := t.replica.segs.set 0 0x10000 } }
     declaredWaits s 0 = true) ∧
    participants (pausing (digests id)) 0 2 0 = [(0, 0)] ∧ paused (pausing (digests id)) 0 = true := by
  refine ⟨⟨digests_on _ fun _ => rfl, digests_on _ fun _ => rfl, digests_on _ fun _ => rfl, digests_on _ fun _ => rfl, digests_on _ fun _ => rfl⟩,
    ?_, ?_, ?_, ?_, ?_, ?_, ?_, ?_, ?_, ?_, ?_, ?_, ?_, ⟨Config.pkgId.setWidth 64, by simp⟩, ⟨(Config.pkgId + 1).setWidth 64, ?_⟩,
    ⟨(suite0 .a).modTenant 0 fun t => { t with replica := { t.replica with peer := Config.pkgId } }, by rfl⟩, ?_⟩
  case refine_14 =>
    have h : ((Config.pkgId + 1).setWidth 64).setWidth 9 = Config.pkgId + 1 := by simp
    rw [h]
    exact other_package
  all_goals (try and_intros) <;> decide +kernel

/-- A context with an event, a ring at 0x800 of segment 0 (or unmapped), and an empty or full ring. -/
def ringed (base : Word) (tail : BitVec 9) (stalled : Bool) : State :=
  (mapped steward).modCtx 0 fun x => { x with events := [⟨0, 1, 0, 256, 5, false⟩], evqbase := base, evqtail := tail, evqStalled := stalled }
/-- A ring whose records lie at the end of segment 0 and whose index word lies in segment 1, of which `cnt` are present. -/
def ringed2 (cnt : BitVec 17) : State :=
  ((ringed 0xfffffe000 0 false).modCtx 0 fun x => { x with segcnt := cnt }).modPkg fun p => { p with
    mem := [(0x100, 1), (0x101, 6), (0x103, 7), (0x10a, 1), (0x10c, 1), (0x110, 1), (0x114, 1), (0x118, 1), (0x11c, 1), (0x131, 0x10), (0x13a, 0x10),
      (0x140, 1), (0x141, 6), (0x143, 7), (0x14a, 1), (0x14c, 1), (0x150, 1), (0x154, 1), (0x158, 1), (0x15c, 1), (0x171, 0x10), (0x178, 1),
      (0x1000, 1), (0x1007, 0xe0), (0x800ff8, 2), (0x800fff, 0xe0)] }
theorem witness_EventRings :
    ((ringed 0x800 0 false).ctx 0).events = [⟨0, 1, 0, 256, 5, false⟩] ∧ ((ringed 0x800 0 false).ctx 0).evqStalled = false ∧
    ((ringed 0x800 0 true).ctx 0).evqStalled = true ∧ ((ringed 0x800 0 true).ctx 0).evqRetry = false ∧
    ((List.finRange 128).all fun d => d == 0 || ((ringed 0x800 0 false).ctx d).events.isEmpty) = true ∧
    ((List.finRange 128).all fun d => d == 0 || ((ringed2 2).ctx d).events.isEmpty) = true ∧
    (let s := (ringed 0x800 0 false).modCtx 0 fun x => { x with events := [⟨7, 1, 0, 256, 5, false⟩] }
     let s := s.modCtx 1 fun x => { x with events := [⟨3, 1, 0, 256, 5, false⟩], evqbase := 0x800 }
     (s.ctx 1).evqbase ≠ 0 ∧ (s.ctx 1).evqtail - (s.ctx 1).evqhead ≠ 256 ∧ (s.ctx 1).evqStalled = false ∧
     (s.ctx 0).events.map (·.seq) = [7] ∧ (s.ctx 1).events.map (·.seq) = [3]) ∧ (steward.ctx 0).events = [] ∧ ((ringed 0 0 false).ctx 0).evqbase = 0 ∧
    (let x := (ringed 0x800 256 false).ctx 0; x.evqtail - x.evqhead = 256) ∧ (let x := (ringed 0x800 0 false).ctx 0; x.evqtail - x.evqhead ≠ 256) ∧
    (let record := fun (s : State) => storeVa s 0 0xfffffe000 (eventBytes ⟨0, 1, 0, 256, 5, false⟩) 0xffff
     let index := fun (s : State) => (storeVa (record s).2 0 (0xfffffe000 + 8192) (leBytes 8 1) 0xffff).1
     (record (ringed2 2)).1 = .ok () ∧ index (ringed2 2) = .ok () ∧ (record (ringed2 1)).1 = .ok () ∧ index (ringed2 1) = .fault 0x20 ∧
     (let s := (ringed2 2).modTenant 0 fun t => { t with held := [1] }; (record s).1 = .ok () ∧ index s = .wait)) ∧
    (storeVa (ringed 0x1000000000 0 false) 0 0x1000000000 (eventBytes ⟨0, 1, 0, 256, 5, false⟩) 0xffff).1 = .fault 0x20 ∧
    (storeVa ((ringed 0x800 0 false).modTenant 0 fun t => { t with held := [0] }) 0 0x800 (eventBytes ⟨0, 1, 0, 256, 5, false⟩) 0xffff).1 = .wait ∧
    ownerOf? ((suite0 .a).modTenant 3 fun t => { t with mask := 1 }) 0 = some 3 ∧ (0 : CtxId) ≠ hypervisor ∧ (3 : Nat) ≠ 0 ∧ 0 < (1 : Nat) := by
  and_intros <;> decide +kernel
/-- A running and a stopped bank and context; a counter that wraps and one that does not (R346). -/
theorem witness_CountersWrap :
    ((suite0 .a).suite 0).stopped = false ∧ (((suite0 .a).modSuite 0 fun x => { x with stopped := true }).suite 0).stopped = true ∧
    (steward.ctx 0).running = true ∧ ((suite0 .a).ctx 3).running = false ∧
    (let x : Counters := { Counters.reset with cnt := Vector.replicate 8 0xffffffffffff, inc := Vector.replicate 8 1 }
     2 ^ 48 ≤ (x.cnt.get 0).toNat + x.inc.get 0 ∧ 0 ∈ (countClose x).2) ∧ 0 ∉ (countClose Counters.reset).2 := by
  and_intros <;> decide +kernel

def ownedBy (t : TenantId) (s : State) : State := s.modTenant t fun x => { x with mask := 1 }
def lastOwned (o : Option TenantId) (s : State) : State := s.modRoom 0 fun r => { r with lastOwner := o }
def clocksOff (s : State) : State := (s.modRoom 0 fun r => { r with stopped := true }).modSuite 0 fun x => { x with stopped := true }
theorem witness_KeysAndRooms :
    (owns (suite0 .a) 0 0 = false ∧ ownerOf? (suite0 .a) 0 = none ∧ (1 : Word).getLsbD (0 : SuiteId).val = true ∧ (0 : Word).getLsbD (0 : SuiteId).val = false) ∧
    ownerOf? (ownedBy 5 (suite0 .a)) 0 = some 5 ∧ owns (ownedBy 5 (suite0 .a)) 0 0 = false ∧ owns (ownedBy 0 (suite0 .a)) 0 0 = true ∧
    ((lastOwned none (suite0 .a)).room 0).lastOwner = none ∧ ((lastOwned (some 0) (suite0 .a)).room 0).lastOwner = some 0 ∧
    ((lastOwned (some 7) (suite0 .a)).room 0).lastOwner = some 7 ∧ (7 : TenantId) ≠ 0 ∧
    ((ownedBy 0 (suite0 .a)).room 0).stopped = false ∧
    (let s := clocksOff (ownedBy 0 (suite0 .a))
     owns s 0 0 = true ∧ (s.room 0).stopped = true ∧ (s.suite 0).stopped = true) ∧
    (0 : SuiteId) ∈ wingRooms 0 0 ∧ (1 : SuiteId) ∉ wingRooms 0 0 ∧ ((suite0 .a).bank (.bank 0 0)).visit = some (oneVisit 0) := by
  and_intros <;> decide +kernel

theorem witness_TenantRegisters :
    State.reset.pkg.featLocked = false ∧ (State.reset.modPkg fun p => { p with featLocked := true }).pkg.featLocked = true ∧
    (steward.ctx 0).lock = none ∧ ((steward.modCtx 0 fun x => { x with lock := some 3 }).ctx 0).lock ≠ none := by
  and_intros <;> decide +kernel

/-- The order log of tenant 0 in segment 0, in a mode, with an entry at its position of a kind and a source. -/
def logging (mode : BitVec 4) (kind src : Byte) (f : OrderLog → OrderLog) : State :=
  ((mapped steward).modPkg fun p => { p with featacc0 := 4, mem := p.mem ++ (if kind = 0 then [] else [(0x10000, kind)]) ++
    [(0x10004, src), (0x10005, 1), (0x10008, 7)] }).modTenant 0 fun t => { t with detctl := mode, olog := f t.olog }
theorem entry_ok (s : State) (h : steadyOk s = true) (hv : ologVa s 0 (s.tenant 0).olog.pos.toNat = 0) :
    ologEntry s 0 = some (fieldAt (bytesVa s 0 16) 0 2, fieldAt (bytesVa s 0 16) 4 2, fieldAt (bytesVa s 0 16) 8 8) := by
  obtain ⟨s1, h1⟩ := loads_ok s 0 16 h (by decide)
  unfold ologEntry
  simp only [hv, h1]
theorem skip_ok (s : State) (h : steadyOk s = true) (hv : ologVa s 0 (s.tenant 0).olog.pos.toNat = 0) (hs : 64 ≤ fieldAt (bytesVa s 0 16) 4 2)
    (hr : ologRoom s 0 = true) (hd : ologDead s 0 = false) :
    ologPassed s 0 = false ∧ ologSkip 0 64 s = s ∧
      ologNext s 0 = some (fieldAt (bytesVa s 0 16) 0 2, fieldAt (bytesVa s 0 16) 4 2, fieldAt (bytesVa s 0 16) 8 8) := by
  have hp : ologPassed s 0 = false := by
    unfold ologPassed
    rw [entry_ok s h hv, hr, Bool.true_and]
    exact dif_neg (by omega)
  refine ⟨hp, ?_, ?_⟩
  · unfold ologSkip
    simp [hp]
  · unfold ologNext
    rw [hp, hr, hd]
    exact entry_ok s h hv
/-- What replay reads at OLOGPOS (R338, R339). -/
def ReplayReads (s : State) (e : Nat × Nat × Nat) : Prop :=
  ologPassed s 0 = false ∧ ologSkip 0 64 s = s ∧ ologNext s 0 = some e ∧ ologEntry s 0 = some e
theorem replay_reads (s : State) (e : Nat × Nat × Nat)
    (h : steadyOk s = true ∧ ologVa s 0 (s.tenant 0).olog.pos.toNat = 0 ∧ ologRoom s 0 = true ∧ ologDead s 0 = false)
    (he : (fieldAt (bytesVa s 0 16) 0 2, fieldAt (bytesVa s 0 16) 4 2, fieldAt (bytesVa s 0 16) 8 8) = e) (hs : 64 ≤ e.2.1) : ReplayReads s e := by
  subst he
  have h1 := skip_ok s h.1 h.2.1 hs h.2.2.1 h.2.2.2
  exact ⟨h1.1, h1.2.1, h1.2.2, entry_ok s h.1 h.2.1⟩
def below (o : OrderLog) : OrderLog := { o with lim := 9 }
def aged (n : Nat) (o : OrderLog) : OrderLog := { o with lim := 9, age := n }
/-- An OLOGW of context 0 or 1, and an entry of an unassigned kind, fresh or waited for. -/
theorem reads_0 : ReplayReads (logging 4 4 0 below) (4, 256, 7) := replay_reads _ _ (by and_intros <;> decide +kernel) (by decide +kernel) (by decide)
theorem reads_1 : ReplayReads (logging 4 4 1 below) (4, 257, 7) := replay_reads _ _ (by and_intros <;> decide +kernel) (by decide +kernel) (by decide)
theorem reads_unassigned : ReplayReads (logging 4 0 1 below) (0, 257, 7) :=
  replay_reads _ _ (by and_intros <;> decide +kernel) (by decide +kernel) (by decide)
theorem reads_aged : ReplayReads (logging 4 4 0 (aged (2 ^ 24 - 1))) (4, 256, 7) :=
  replay_reads _ _ (by and_intros <;> decide +kernel) (by decide +kernel) (by decide)
/-- With the log's position at its limit, replay skips nothing. -/
theorem skip_full (s : State) (hr : ologRoom s 0 = false) : ologSkip 0 64 s = s := by
  unfold ologSkip ologPassed
  simp [hr]
/-- An entry's store that its port has granted, and one through a segment that the walker holds. -/
def recorded : State := (logging 2 4 1 below).modPkg fun p => { p with l2 := granted (.olog 0) 0x400 }
theorem recorded_ok : ∃ t, storeVaBy recorded (.olog 0) 0 0 0 (ologBytes 0 4 256 9) 0xffff = (.ok (), t) := by
  have h : translatesTo recorded 0 0 true 0x10000 = true := by decide +kernel
  obtain ⟨ds, s1, s2, h1, h2, -, -, h5⟩ := translates_of h
  have hg : l2GrantedTo s2 (.olog 0) (0x10000 / 64) = true := granted_to h5
  exact ⟨_, by
    unfold storeVaBy
    rw [show (0 : Nat) / 2 ^ 36 = natBits 0 36 16 by decide, h1]
    simp only [h2, hg, if_true]
    rfl⟩
theorem witness_OrderLogs :
    (ReplayReads (logging 4 4 0 below) (4, 256, 7) ∧ ReplayReads (logging 4 4 1 below) (4, 257, 7) ∧ ReplayReads (logging 4 0 1 below) (0, 257, 7) ∧
      ReplayReads (logging 4 4 0 (aged (2 ^ 24 - 1))) (4, 256, 7)) ∧
    (∃ t, storeVaBy recorded (.olog 0) 0 0 0 (ologBytes 0 4 256 9) 0xffff = (.ok (), t)) ∧ ologSkip 0 64 (logging 4 4 0 id) = logging 4 4 0 id ∧
    (featOn (logging 0 4 0 id) 2 = true ∧ ologMode (logging 0 4 0 id) 0 = 0 ∧ ologMode (logging 2 4 0 id) 0 = 1 ∧ ologMode (logging 4 4 0 id) 0 = 2) ∧
    (let o := ((logging 2 4 0 id).tenant 0).olog
     o.lim ≤ o.pos ∧ o.full = false ∧ ((logging 2 4 0 fun o => { o with full := true }).tenant 0).olog.full = true) ∧
    ((recorded.tenant 0).olog.pos < (recorded.tenant 0).olog.lim ∧ ologMode recorded 0 = 1 ∧ ologVa recorded 0 (recorded.tenant 0).olog.pos.toNat = 0) ∧
    (let s := (logging 2 4 0 below).modTenant 0 fun t => { t with held := [0] }
     (match (storeVaBy s (.olog 0) 0 0 0 (ologBytes 0 4 256 9) 0xffff).1 with | .wait => true | _ => false) = true) ∧
    (let o := ((logging 4 4 0 id).tenant 0).olog
     o.lim ≤ o.pos ∧ o.full = false ∧ ((logging 4 4 0 fun o => { o with full := true }).tenant 0).olog.full = true) ∧
    2 ^ 24 ≤ ((logging 4 4 0 (aged (2 ^ 24))).tenant 0).olog.age ∧
    (let o := ((logging 4 4 0 below).tenant 0).olog
     o.pos < o.lim ∧ o.age + 1 < 2 ^ 24 ∧ ((logging 4 4 0 (aged (2 ^ 24 - 1))).tenant 0).olog.age + 1 = 2 ^ 24) := by
  refine ⟨⟨reads_0, reads_1, reads_unassigned, reads_aged⟩, recorded_ok, skip_full _ (by decide +kernel), ?_⟩
  and_intros <;> decide +kernel

/-- Segment 0 with its descriptor, tile table and nothing else in frame b, its entry naming frame e; pinned, or counted in by a copy (R60, R247); key slot 0 is
the tenant's, or no one's. -/
def migrState (b e : Nat) (flags busy : Byte) (own : Bool) (m : List Migr) : State :=
  let cells : List Host.Cell := [(0x100, 1), (0x101, 6), (0x103, flags), (0x104, busy), (0x10a, 1), (0x10c, 1), (0x110, 1), (0x114, 1), (0x118, 1),
    (0x11c, 1), (0x131, 0x10), (0x132, BitVec.ofNat 8 b), (0x138, 1), (0x1000, BitVec.ofNat 8 e), (0x1007, 0xe0)]
  let listed := (cells.filter fun c => c.2 != 0).map fun c => (c.1 + 65536 * b, c.2)
  ((suite0 .a).modPkg fun p => { p with migrating := m, mem := listed, keys := if own then p.keys.set 0 ⟨some 0, 0⟩ else p.keys }).modCtx 0 fun x =>
    { x with segbase := BitVec.ofNat 64 (0x100 + 65536 * b), segcnt := 1 }
def migr0 (todo : List (Nat × Word)) (bound : Bool) : Migr := ⟨0, 0, todo, [], bound⟩
/-- The descriptor in memory as the walker sees it: pinned, busy, and the frame of its entry. -/
def homeOf (s : State) : Option (Bool × Nat × Nat) := (homeDesc s 0 0).map fun d => (d.pinned, d.busy, (pteAt s d 0).toNat % 2 ^ 40)
/-- A tenant's tables lie in frames of a list, and their entries name no other. -/
def onlyFrames (s : State) (t : TenantId) (l : List Nat) : Bool :=
  let one := fun (a n : Nat) => n == 0 || (l.contains (a / 65536) && a / 65536 == (a + n - 1) / 65536)
  one (segTable s t).1 (64 * (segTable s t).2) && (List.range (segTable s t).2).all fun seg => match homeDesc s t seg with
    | some d => one d.ttab (8 * d.nent) && (List.range d.nent).all fun i => l.contains ((pteAt s d i).setWidth 40).toNat
    | none => true
theorem inFrame_one {l : List Nat} {f a n : Nat} (h : (n == 0 || (l.contains (a / 65536) && a / 65536 == (a + n - 1) / 65536)) = true) (hf : f ∉ l) :
    inFrame f a n = false := by
  rw [Bool.eq_false_iff]
  intro hi
  simp only [inFrame, Bool.and_eq_true, bne_iff_ne, decide_eq_true_eq] at hi
  simp only [Bool.or_eq_true, Bool.and_eq_true, beq_iff_eq, List.contains_iff_mem] at h
  rcases h with h | ⟨h1, h2⟩
  · exact hi.1.1 h
  · exact hf (by rwa [show f = a / 65536 by omega])
theorem named_in {s : State} {t : TenantId} {l : List Nat} {f : Nat} (h : onlyFrames s t l = true) (hf : f ∉ l) : frameNamed s t f = false := by
  unfold onlyFrames at h
  simp only [Bool.and_eq_true] at h
  obtain ⟨h1, h2⟩ := h
  unfold frameNamed
  rw [Bool.or_eq_false_iff]
  refine ⟨inFrame_one h1 hf, ?_⟩
  rw [List.any_eq_false]
  intro seg hs
  have h3 := List.all_eq_true.mp h2 seg hs
  cases hd : homeDesc s t seg with
  | none => simp
  | some d =>
    rw [hd] at h3
    simp only [Bool.and_eq_true] at h3
    simp only [Bool.not_eq_true, Bool.or_eq_false_iff]
    refine ⟨inFrame_one h3.1 hf, ?_⟩
    rw [List.any_eq_false]
    intro i hi he
    have h4 := List.all_eq_true.mp h3.2 i hi
    rw [beq_iff_eq] at he
    exact hf (by rw [← he]; exact List.contains_iff_mem.mp h4)
theorem unused_of (s : State) (b e f : Nat) (hm : (s.pkg.mem.all fun c => c.1 / 65536 == b) = true) (hp : s.pkg.poison = []) (ho : s.pkg.frames.owner = [])
    (hr : s.pkg.frames.releasing = []) (hs : s.pkg.stamps = []) (hg : (s.pkg.migrating.all fun m => m.moved.isEmpty) = true)
    (hn : ((List.finRange 64).all fun t => onlyFrames s t [b, e]) = true) (hf : f ≠ b ∧ f ≠ e) : frameUnused s f = true := by
  have h1 : (s.pkg.mem.any fun c => c.1 / 65536 == f) = false := by
    rw [Bool.eq_false_iff]
    intro h
    obtain ⟨c, hc, he⟩ := List.any_eq_true.mp h
    have := List.all_eq_true.mp hm c hc
    simp only [beq_iff_eq] at this he
    omega
  have h2 : (s.pkg.migrating.any fun m => m.moved.any fun p => (p.2.setWidth 40).toNat == f) = false := by
    rw [List.any_eq_false]
    intro m hc
    have := List.all_eq_true.mp hg m hc
    rw [List.isEmpty_iff.mp this]
    simp
  have h3 : ((List.finRange 64).any fun t => frameNamed s t f) = false := by
    rw [List.any_eq_false]
    intro t ht
    rw [named_in (List.all_eq_true.mp hn t ht) (by simp [hf.1, hf.2])]
    simp
  simp only [frameUnused, h1, h2, h3, hp, ho, hr, hs, List.any_nil, Bool.not_false, Bool.and_self]
def migrBusy (b e : Nat) (own : Bool) : State := migrState b e 7 0 own [migr0 [(0, 3)] false]
theorem unused_there (b e : Fin 2) (own : Bool) (h : Config.choice 0 % frameCount ≠ b.val ∧ Config.choice 0 % frameCount ≠ 3 + e.val) :
    frameUnused (chooseBelow (migrBusy b.val (3 + e.val) own) frameCount).2 (Config.choice 0 % frameCount) = true := by
  have key : ∀ b e : Fin 2, ∀ own : Bool,
      (let s := (chooseBelow (migrBusy b.val (3 + e.val) own) frameCount).2
       (s.pkg.mem.all fun c => c.1 / 65536 == b.val) = true ∧ s.pkg.poison = [] ∧ s.pkg.frames.owner = [] ∧ s.pkg.frames.releasing = [] ∧ s.pkg.stamps = [] ∧
       (s.pkg.migrating.all fun m => m.moved.isEmpty) = true ∧ ((List.finRange 64).all fun t => onlyFrames s t [b.val, 3 + e.val]) = true) := by
    decide +kernel
  obtain ⟨h1, h2, h3, h4, h5, h6, h7⟩ := key b e own
  exact unused_of _ b.val (3 + e.val) _ h1 h2 h3 h4 h5 h6 h7 h
/-- Whichever frame the walker chooses, there is a state in which it is unused and one in which it is not. -/
theorem witness_LsSplitAndMigration :
    (homeDesc (suite0 .a) 0 0).isNone = true ∧ homeOf (migrState 0 3 7 0 false []) = some (false, 0, 3) ∧ homeOf (migrState 0 3 15 0 false []) = some (true, 0, 3) ∧
    homeOf (migrState 0 3 7 2 false []) = some (false, 2, 3) ∧ ((migrState 0 3 7 0 false []).tenant 0).held = [] ∧ (migrState 0 3 7 0 false []).pkg.migrating = [] ∧
    (∀ b e : Fin 2, ∀ own : Bool, homeOf (migrBusy b.val (3 + e.val) own) = some (false, 0, 3 + e.val) ∧
      (migrBusy b.val (3 + e.val) own).pkg.migrating.find? (fun m => m.tenant == 0 && m.seg == 0) = some (migr0 [(0, 3)] false) ∧
      (migrBusy b.val (3 + e.val) own).pkg.mem.wf = true ∧ (slotsOfTenant (migrBusy b.val (3 + e.val) own) 0).contains ((3 : Word).toNat / 2 ^ 50 % 128) = own) ∧
    (∀ own : Bool, ∃ b e : Fin 2, let s := migrBusy b.val (3 + e.val) own
      frameUnused (chooseBelow s frameCount).2 (Config.choice s.fresh % frameCount) = true) ∧
    (∃ s : State, s.pkg.migrating = [migr0 [(0, 3)] false] ∧
      frameUnused (chooseBelow s frameCount).2 (Config.choice s.fresh % frameCount) = false) ∧
    (∀ bound : Bool, homeOf (migrState 0 3 7 0 false [migr0 [] bound]) = some (false, 0, 3) ∧
      (migrState 0 3 7 0 false [migr0 [] bound]).pkg.migrating.find? (fun m => m.tenant == 0 && m.seg == 0) = some (migr0 [] bound)) := by
  refine ⟨by decide +kernel, by decide +kernel, by decide +kernel, by decide +kernel, by decide +kernel, by decide +kernel, by decide +kernel, ?_, ?_,
    by decide +kernel⟩
  · intro own
    by_cases h : Config.choice 0 % frameCount = 0
    · exact ⟨1, 0, unused_there 1 0 own (by rw [h]; decide)⟩
    · by_cases h3 : Config.choice 0 % frameCount = 3
      · exact ⟨0, 1, unused_there 0 1 own (by rw [h3]; decide)⟩
      · exact ⟨0, 0, unused_there 0 0 own ⟨h, h3⟩⟩
  · refine ⟨(migrBusy 0 3 false).modPkg fun p => { p with frames := { p.frames with owner := [(Config.choice 0 % frameCount, 0)] } }, ?_, ?_⟩
    · decide +kernel
    · unfold frameUnused
      have ho : (chooseBelow ((migrBusy 0 3 false).modPkg fun p =>
        { p with frames := { p.frames with owner := [(Config.choice 0 % frameCount, 0)] } }) frameCount).2.pkg.frames.owner =
          [(Config.choice 0 % frameCount, 0)] := rfl
      have hf : ((migrBusy 0 3 false).modPkg fun p =>
        { p with frames := { p.frames with owner := [(Config.choice 0 % frameCount, 0)] } }).fresh = 0 := rfl
      rw [ho, hf]
      simp

def flipped (flips : List ErrSite) (poison : List Nat) : State := State.reset.modPkg fun p => { p with flips := flips, poison := poison }
theorem witness_SoftErrors :
    100 / 64 ∈ (flipped [] [1]).pkg.poison ∧ 100 / 64 ∉ (flipped [.mem 70] []).pkg.poison ∧ ErrSite.mem 70 ∈ (flipped [.mem 70] []).pkg.flips ∧ 70 / 64 = 100 / 64 ∧
    (flipped [] []).pkg.flips = [] ∧ (3 : CtxId).val < 64 ∧ 64 ≤ (70 : CtxId).val ∧ (70 : CtxId) ≠ hypervisor := by
  and_intros <;> decide +kernel

/-- A single port with requests, buckets and a pool. -/
def ported (x : L2Port) : State := State.reset.modPkg fun p => { p with l2 := [x] }
def asks (t : TenantId) (wait : Nat) : L2Req := ⟨t, .agent (.ctx 3), 9, wait⟩
def traces : L2Req := ⟨0, .trace 3, 9, 0⟩
def isTrace (q : L2Req) : Bool := match q.who with | .trace _ => true | _ => false
theorem witness_SlicePorts :
    (∀ x ∈ ([⟨5, [], 0, 63, [], []⟩, ⟨5, [(3, 2, 0)], 0, 63, [asks 4 1, asks 3 0], []⟩, ⟨5, [], 2, 63, [asks 3 0], []⟩, ⟨5, [], 0, 63, [asks 3 0], []⟩,
        ⟨5, [], 0, 63, [asks 3 0, traces], []⟩] : List L2Port), portOf (ported x) 5 = some x ∧ (ported x).pkg.l2 = [x]) ∧
    (let x : L2Port := ⟨5, [(3, 2, 0)], 0, 63, [asks 4 1, asks 3 0], []⟩
     asks 3 0 ∈ x.reqs ∧ (asks 3 0).tenant = 3 ∧ isTrace (asks 3 0) = false ∧ 1 ≤ (x.bucket 3).1 ∧ (x.bucket 4).1 = 0) ∧
    (let x : L2Port := ⟨5, [], 2, 63, [asks 3 0], []⟩
     asks 3 0 ∈ x.reqs ∧ (x.bucket 3).1 = 0 ∧ 0 < x.pool) ∧
    (let x : L2Port := ⟨5, [], 0, 63, [asks 3 0, traces], []⟩
     traces ∈ x.reqs ∧ isTrace traces = true ∧ (x.bucket 3).1 = 0 ∧ x.pool = 0) ∧
    (let x : L2Port := ⟨5, [], 0, 63, [asks 3 0], []⟩
     x.reqs ≠ [] ∧ (x.bucket 3).1 = 0 ∧ x.pool = 0) := by
  and_intros <;> decide +kernel

theorem witness_Resets :
    dieOf 20 = (1 : DieId).val ∧ (0 : DieId) ≠ 1 ∧ owns (ownedBy 0 (suite0 .a)) 0 0 = true ∧
    ((mapped (suite0 .a)).pkg.keys.get 0).tenant = some 0 ∧ ((suite0 .a).pkg.keys.get 0).tenant ≠ some 0 ∧
    launch0 id ∈ ((launched [launch0 id] (suite0 .a)).tenant 0).launches ∧ (0 : CtxId) ≠ hypervisor := by
  and_intros <;> decide +kernel
/-- A RESET message of another endpoint, one of the host's, and none; a package that has not come up (R330, R332). -/
theorem witness_ResetMessages :
    Config.hostEndpoint + 1 ≠ Config.hostEndpoint ∧
    (∀ l ∈ ([[Config.hostEndpoint + 1], [Config.hostEndpoint], []] : List (List (BitVec 16))),
      ({ suite0 .a with resetFrom := l }).pkg.booted = true ∧ ({ suite0 .a with resetFrom := l }).resetFrom = l) ∧ State.reset.pkg.booted = false := by
  refine ⟨fun h => ?_, fun _ _ => ⟨show (suite0 .a).pkg.booted = true by decide +kernel, rfl⟩, by decide +kernel⟩
  have h1 := congrArg BitVec.toNat h
  simp [BitVec.toNat_add] at h1
  have := Config.hostEndpoint.isLt
  omega

/-- Port 0 trained, with what f gives it; port 1 trained too. -/
def linked (f : Link → Link) : State :=
  State.reset.modPkg fun p => { p with booted := true, links := (p.links.set 0 (f { p.links.get 0 with
    trained := true, down := false })).set 1 { p.links.get 1 with trained := true, down := false } }
def port0 (f : Link → Link) : Link := (linked f).pkg.links.get 0
def bulk3 : Waiting := ⟨7, 3, false, 2, 0, ⟨0, 7, [], 0⟩⟩
def ctrl3 : Waiting := ⟨7, 3, true, 1, 0, ⟨0, 7, [], 0⟩⟩
def unweighted (s : State) : State := s.modTenant 3 fun t => { t with qos := { t.qos with weight := 0 } }
/-- A receiving passage of tenant 0, four slots deep, with slots of a passage of two numbers. -/
def receiving (slots : List (Nat × Option Tile)) : State :=
  State.reset.modPkg fun p => { p with passages := Vector.replicate 5 (Vector.replicate 8 ⟨0x80000000, slots, 2, slots.length, []⟩) }
theorem witness_HostAndLinks :
    State.reset.pkg.booted = false ∧ (linked id).pkg.booted = true ∧ ([] : List Byte).length ≠ 128 ∧
    (State.reset.pkg.links.get 0).trained = false ∧
    ((port0 id).trained = true ∧ (port0 id).down = false ∧ ((linked id).pkg.links.get 1).trained = true ∧ ((linked id).pkg.links.get 1).down = false ∧
     (let l := port0 fun l => { l with failing := some (2, 9), fails := 16 }
      l.failing = some (2, 9) ∧ l.fails + 1 = 17) ∧ (port0 id).failing ≠ some (2, 9) ∧
     (2, 9) ∈ (port0 fun l => { l with accepted := [(2, 9)] }).accepted ∧ (∀ i, (2, 9) ∉ ((linked id).pkg.links.get i).accepted) ∧
     (port0 id).updating = false ∧ (port0 fun l => { l with updating := true }).updating = true) ∧
    ((port0 fun l => { l with resend := [⟨7, 3, false, 5⟩] }).resend ≠ [] ∧ (port0 id).resend = [] ∧ (port0 id).waiting = [] ∧ (port0 id).escaped = []) ∧
    (let l := port0 fun l => { l with escaped := [bulk3, ctrl3] }
     l.resend = [] ∧ bulk3 ∈ l.escaped ∧ bulk3.control = false ∧ ctrl3 ∈ l.escaped ++ l.waiting ∧ ctrl3.control = true ∧ l.control < 15) ∧
    (let x := passage (receiving []) 4 0
     x.en = true ∧ x.tenant = (0 : TenantId).val ∧ x.nextSlot ≤ 2 ∧ x.used + (2 + 1 - x.nextSlot) ≤ x.depth ∧ x.depth < x.used + (99 + 1 - x.nextSlot)) ∧
    (let x := passage (receiving [(0, none), (1, some Tile.zero)]) 4 0
     x.en = true ∧ x.tenant = (0 : TenantId).val ∧ 0 < x.nextSlot ∧ (0, none) ∈ x.slots ∧ 1 < x.nextSlot ∧ (1, none) ∉ x.slots) ∧
    (let x := passage (receiving []) 3 0
     x.tenant = (0 : TenantId).val ∧ 1 < x.nextSlot ∧ 1 ∉ x.filled) ∧ ([7] : List Nat) ≠ [] ∧
    (∃ n : Fin 2, let s := State.reset.modPkg fun p => { p with passages := Vector.replicate 5 (Vector.replicate 8
        ⟨BitVec.ofNat 64 (2 ^ 31 + 2 ^ 32 * (n.val + 1)), [], 1, 1, []⟩) }
      (passage s 3 0).en = true ∧ (passage s 3 0).peer ≠ Config.pkgId.toNat ∧ ((passage s 3 0).peer == 0xffff || [7].contains (passage s 3 0).peer) = false) := by
  refine ⟨by decide +kernel, by decide +kernel, by decide +kernel, by decide +kernel, by and_intros <;> decide +kernel, by and_intros <;> decide +kernel,
    by and_intros <;> decide +kernel, by and_intros <;> decide +kernel, by and_intros <;> decide +kernel, by and_intros <;> decide +kernel, by decide +kernel, ?_⟩
  by_cases h : Config.pkgId.toNat = 1
  · refine ⟨1, by decide +kernel, ?_, by decide +kernel⟩
    rw [h]
    decide +kernel
  · refine ⟨0, by decide +kernel, fun e => h ?_, by decide +kernel⟩
    rw [← e]
    decide +kernel
/-- A port that waits for the routes, beside one that is up (R425); tenants of some weight and of none (R326); a flit of the control class after 15 of bulk. -/
theorem witness_LastPort :
    (let s := portDown (linked id) 0
     (s.pkg.links.get 0).updating = true ∧ (s.pkg.links.get 0).down = true ∧ (s.pkg.links.get 1).trained = true ∧ (s.pkg.links.get 1).down = false) ∧
    (∀ i : Fin 12, ((linked id).pkg.links.get i).down = false) ∧
    ((linked id).tenant 3).qos.weight ≠ 0 ∧ ((unweighted (linked id)).tenant 3).qos.weight = 0 ∧
    (port0 fun l => { l with escaped := [bulk3, ctrl3], control := 15 }).control = 15 := by
  and_intros <;> decide +kernel

/-- From the reset state, whose memories are canonical, a step goes on. -/
theorem witness_StepKeepsMemories : State.reset.memoriesWf = true ∧ goesOn (step State.reset) = true := by
  and_intros <;> decide +kernel

end Sys2Proof.Tests
end

section
/-! PROOFS. Supersteps: what SSYNC and its arrival do, and what the completion of a barrier does to the banks that take part, to the others, and
to the count of barriers (R36, R263-R265). -/

namespace Sys2Proof.Machine

/-! ### Meanings of the three instructions -/

theorem exec_ssync (d : BitVec 5) (dn w : BitVec 4) (s : State) : exec (.ssync d dn w) s = execSsync d dn w s := rfl

theorem exec_ssyncArrival (u : SuiteId) (b : Fin 2) (s : State) : exec (.ssyncArrival u b) s = execSsyncArrival u b s := rfl

theorem exec_barrierCompletion (t : TenantId) (scope : Fin 3) (inst : Nat) (s : State) :
    exec (.barrierCompletion t scope inst) s = execBarrierCompletion t scope inst s := rfl

/-! ### SSYNC and arrival -/

theorem streamAtomics_iff (s : State) (u : SuiteId) (b : Fin 2) :
    streamAtomics s u b = true ↔ ∃ a, a ∈ (s.room u).atomics ∧ a.bank = b ∧ a.kind = .a ∧ a.discard = false := by
  simp [streamAtomics, and_assoc]

/-- What a waiting bank still waits for before it arrives (R264): an entry of its queues, a command or an atomic of its A-stream. -/
def arrivalOwes (s : State) (u : SuiteId) (b : Fin 2) (q : Nat) : Prop :=
  let k := s.bank (.bank u b)
  (∃ e, e ∈ k.lq ++ k.sq ++ k.replay ∧ e.seq < q) ∨ streamCommands (s.suite u) b = true ∨
    ∃ a, a ∈ (s.room u).atomics ∧ a.bank = b ∧ a.kind = .a ∧ a.discard = false

theorem arrivalOwes_iff (s : State) (u : SuiteId) (b : Fin 2) (q : Nat) :
    arrivalOwes s u b q ↔
      ((s.bank (.bank u b)).lq ++ (s.bank (.bank u b)).sq ++ (s.bank (.bank u b)).replay).any (fun e => decide (e.seq < q)) = true ∨
        streamCommands (s.suite u) b = true ∨ streamAtomics s u b = true := by
  simp only [arrivalOwes, List.any_eq_true, decide_eq_true_eq, streamAtomics_iff]

section Arrival
variable {s : State} {u : SuiteId} {b : Fin 2} {d : BitVec 5} {dn : BitVec 4} {q start : Nat}

theorem execSsyncArrival_waits (hk : (s.bank (.bank u b)).sync = .waiting d dn q start)
    (h : (s.suite u).stopped = true ∨ paused s u = true ∨ arrivalOwes s u b q) : execSsyncArrival u b s = .next s := by
  rw [arrivalOwes_iff] at h
  simp only [execSsyncArrival, hk]
  rw [if_pos h]

theorem execSsyncArrival_arrives (hk : (s.bank (.bank u b)).sync = .waiting d dn q start) (hs : (s.suite u).stopped = false)
    (hp : paused s u = false) (h : ¬ arrivalOwes s u b q) :
    execSsyncArrival u b s = .next (s.modBank (.bank u b) fun x => { x with sync := .arrived d dn start s.cycle }) := by
  rw [arrivalOwes_iff] at h
  simp only [execSsyncArrival, hk]
  rw [if_neg]
  rintro (e | e | e)
  · simp [hs] at e
  · simp [hp] at e
  · exact h e

end Arrival

/-! ### When a barrier waits -/

theorem allArrived_of_away {s : State} {t : TenantId} {scope : Fin 3} {inst : Nat} {v : Visit} (hv : v ∈ s.pkg.away) (ht : v.tenant = t)
    (hs : v.scope.toNat = scope.val) (h0 : scope = 0 → v.launch.toNat = inst) (h1 : scope = 1 → dieOf v.lead = inst) :
    allArrived s t scope inst = false := by
  have away : awayIn s t scope inst = true := by
    refine List.any_eq_true.mpr ⟨v, hv, ?_⟩
    by_cases e0 : scope = 0
    · simp [ht, hs, e0, h0 e0]
    · by_cases e1 : scope = 1
      · simp [ht, hs, e1, h1 e1]
      · simp [ht, hs, e0, e1]
  simp [allArrived, away]

theorem anyPaused_iff (s : State) (t : TenantId) (scope : Fin 3) (inst : Nat) :
    anyPaused s t scope inst = true ↔ ∃ u b, (u, b) ∈ participants s t scope inst ∧ paused s u = true := by
  simp [anyPaused]

theorem execBarrierCompletion_waits {s : State} {t : TenantId} {scope : Fin 3} {inst : Nat}
    (h : allArrived s t scope inst = false ∨ anyPaused s t scope inst = true) : execBarrierCompletion t scope inst s = .next s := by
  have held : (!allArrived s t scope inst) = true ∨ anyPaused s t scope inst = true := by simpa using h
  simp only [execBarrierCompletion, held, if_true]

theorem execBarrierCompletion_passes {s : State} {t : TenantId} {scope : Fin 3} {inst : Nat} (ha : allArrived s t scope inst = true)
    (hp : anyPaused s t scope inst = false) (hd : scope ≠ 2 ∨ digestOn s t = false) :
    execBarrierCompletion t scope inst s = .next (passAll s t scope inst) := by
  have on : ¬ (scope = 2 ∧ digestOn s t = true) := by
    rintro ⟨e, he⟩
    simp [e, he] at hd
  simp [execBarrierCompletion, ha, hp, on]

/-! ### The frame of a participant's passage -/

/-- Nothing but the banks of a list, L1 lines that go and trace records lies between two states, as far as a barrier is concerned. -/
structure BarrierFrame (l : List (SuiteId × Fin 2)) (s z : State) : Prop where
  banks : ∀ r, (∀ p ∈ l, r ≠ .bank p.1 p.2) → z.bank r = s.bank r
  l1 : ∀ u, (s.suite u).l1 = [] → (z.suite u).l1 = []
  tenant : ∀ t, ∃ tr, z.tenant t = { s.tenant t with trace := tr }

section Frame
variable {l : List (SuiteId × Fin 2)} {s y z : State}

theorem BarrierFrame.refl (l : List (SuiteId × Fin 2)) (s : State) : BarrierFrame l s s := ⟨fun _ _ => rfl, fun _ h => h, fun _ => ⟨_, rfl⟩⟩

theorem BarrierFrame.trans (h : BarrierFrame l s y) (g : BarrierFrame l y z) : BarrierFrame l s z := by
  refine ⟨fun r hr => (g.banks r hr).trans (h.banks r hr), fun u hu => g.l1 u (h.l1 u hu), fun t => ?_⟩
  obtain ⟨_, h1⟩ := h.tenant t
  obtain ⟨tr, g1⟩ := g.tenant t
  exact ⟨tr, by rw [g1, h1]⟩

theorem bank_l1Clear (s : State) (u : SuiteId) (r : BankRef) : (l1Clear s u).bank r = s.bank r := State.bank_modSuite s u _ rfl r

theorem l1_l1Clear (s : State) (u v : SuiteId) : ((l1Clear s u).suite v).l1 = if u = v then [] else (s.suite v).l1 := by
  simp only [l1Clear, State.suite_modSuite]
  split <;> rfl

theorem l1_modBank (s : State) (r : BankRef) (f : Bank → Bank) (u : SuiteId) : ((s.modBank r f).suite u).l1 = (s.suite u).l1 := by
  rw [← State.suite_setBank s r (f (s.bank r)) u]
  rfl

theorem barrierFrame_l1Clear (l : List (SuiteId × Fin 2)) (s : State) (u : SuiteId) : BarrierFrame l s (l1Clear s u) := by
  refine ⟨fun r _ => bank_l1Clear s u r, fun v hv => ?_, fun _ => ⟨_, rfl⟩⟩
  rw [l1_l1Clear, hv, ite_self]

theorem barrierFrame_modBank {p : SuiteId × Fin 2} (hp : p ∈ l) (s : State) (f : Bank → Bank) :
    BarrierFrame l s (s.modBank (.bank p.1 p.2) f) :=
  ⟨fun _ hr => State.bank_setBank_ne _ _ _ _ (Ne.symm (hr p hp)), fun u hu => (l1_modBank s _ f u).trans hu, fun _ => ⟨_, rfl⟩⟩

theorem barrierFrame_landLater {p : SuiteId × Fin 2} (hp : p ∈ l) (s : State) (k : StreamKind) (res : List Result) (born : Nat) :
    BarrierFrame l s (landLater s (.bank p.1 p.2) k res born) := barrierFrame_modBank hp s _

theorem barrierFrame_doneFor {p : SuiteId × Fin 2} (hp : p ∈ l) (s : State) (k : StreamKind) (dn : BitVec 4) :
    BarrierFrame l s (doneFor s (.bank p.1 p.2) k dn) := by
  unfold doneFor
  split
  · exact barrierFrame_modBank hp s _
  · exact .refl l s

/-- A wait record adds to a tenant's trace alone. -/
theorem waitRecord_cases (s : State) (ag : Agent) (flag count setter sub : Nat) : waitRecord s ag flag count setter sub = s ∨
    ∃ t bytes, waitRecord s ag flag count setter sub = writeRecord s t bytes := by
  unfold waitRecord
  dsimp only
  split
  · exact .inr ⟨_, _, rfl⟩
  · exact .inl rfl

theorem barrierFrame_writeRecord (l : List (SuiteId × Fin 2)) (s : State) (t : TenantId) (bytes : List Byte) :
    BarrierFrame l s (writeRecord s t bytes) := by
  refine ⟨fun r _ => State.bank_modTenant s r t _, fun _ hu => hu, fun k => ?_⟩
  simp only [writeRecord, State.tenant_modTenant]
  split
  next e => subst e; exact ⟨_, rfl⟩
  next => exact ⟨_, rfl⟩

theorem barrierFrame_waitRecord (l : List (SuiteId × Fin 2)) (s : State) (ag : Agent) (flag count setter sub : Nat) :
    BarrierFrame l s (waitRecord s ag flag count setter sub) := by
  obtain h | ⟨t, bytes, h⟩ := waitRecord_cases s ag flag count setter sub
  · rw [h]; exact .refl l s
  · rw [h]; exact barrierFrame_writeRecord l s t bytes

end Frame

/-! ### One participant goes on -/

/-- A participant before its done increment and its record: L1 cleared, the next phase, its result to land at the end of the cycle. -/
def released (s : State) (p : SuiteId × Fin 2) (d : BitVec 5) (start : Nat) : State :=
  let r : BankRef := .bank p.1 p.2
  let phase := (s.bank r).phase + 1
  landLater ((l1Clear s p.1).modBank r fun b => { b with phase := phase, sync := .none }) r .a [.a d (phase.setWidth 64)] start

theorem passBarrier_arrived {s : State} {p : SuiteId × Fin 2} {d : BitVec 5} {dn : BitVec 4} {start stop : Nat} (setter : Nat)
    (h : (s.bank (.bank p.1 p.2)).sync = .arrived d dn start stop) :
    passBarrier setter s p = waitRecord (doneFor (released s p d start) (.bank p.1 p.2) .a dn) ⟨.bank p.1 p.2, .a⟩
      ((s.bank (.bank p.1 p.2)).phase + 1).toNat (s.cycle - start) setter 3 := by
  simp only [passBarrier, h, released]

theorem passBarrier_other {s : State} {p : SuiteId × Fin 2} (setter : Nat)
    (h : ∀ d dn start stop, (s.bank (.bank p.1 p.2)).sync ≠ .arrived d dn start stop) : passBarrier setter s p = s := by
  unfold passBarrier
  dsimp only
  split
  next e => exact absurd e (h _ _ _ _)
  next => rfl

theorem bank_released (s : State) (p : SuiteId × Fin 2) (d : BitVec 5) (start : Nat) :
    let k := s.bank (.bank p.1 p.2)
    (released s p d start).bank (.bank p.1 p.2) =
      { k with phase := k.phase + 1, sync := .none, fly := k.fly ++ [⟨.a, 0, [.a d ((k.phase + 1).setWidth 64)], 0, start, true⟩] } := by
  simp only [released, landLater, State.bank_modBank_same, bank_l1Clear]

theorem l1_released (s : State) (p : SuiteId × Fin 2) (d : BitVec 5) (start : Nat) : ((released s p d start).suite p.1).l1 = [] := by
  simp only [released, landLater, l1_modBank, l1_l1Clear, if_true]

theorem barrierFrame_released {l : List (SuiteId × Fin 2)} {p : SuiteId × Fin 2} (hp : p ∈ l) (s : State) (d : BitVec 5) (start : Nat) :
    BarrierFrame l s (released s p d start) :=
  ((barrierFrame_l1Clear l s p.1).trans (barrierFrame_modBank hp _ _)).trans (barrierFrame_landLater hp _ _ _ _)

theorem barrierFrame_passBarrier {l : List (SuiteId × Fin 2)} {p : SuiteId × Fin 2} (hp : p ∈ l) (setter : Nat) (s : State) :
    BarrierFrame l s (passBarrier setter s p) := by
  by_cases h : ∃ d dn start stop, (s.bank (.bank p.1 p.2)).sync = .arrived d dn start stop
  · obtain ⟨d, dn, start, stop, h⟩ := h
    rw [passBarrier_arrived setter h]
    exact ((barrierFrame_released hp s d start).trans (barrierFrame_doneFor hp _ _ _)).trans (barrierFrame_waitRecord l _ _ _ _ _ _)
  · rw [passBarrier_other setter fun d dn start stop e => h ⟨d, dn, start, stop, e⟩]
    exact .refl l s

theorem barrierFrame_foldl {l : List (SuiteId × Fin 2)} (setter : Nat) :
    ∀ (m : List (SuiteId × Fin 2)) (s : State), m ⊆ l → BarrierFrame l s (m.foldl (passBarrier setter) s)
  | [], s, _ => .refl l s
  | p :: m, s, h =>
    (barrierFrame_passBarrier (h (.head m)) setter s).trans
      (barrierFrame_foldl setter m (passBarrier setter s p) fun _ hx => h (.tail p hx))

/-- What a barrier does for a participant whose SSYNC named register d and done field dn and issued in cycle `start` (R36, R263-R265). -/
structure Passed (s z : State) (u : SuiteId) (b : Fin 2) (d : BitVec 5) (dn : BitVec 4) (start : Nat) : Prop where
  sync : (z.bank (.bank u b)).sync = .none
  phase : (z.bank (.bank u b)).phase = (s.bank (.bank u b)).phase + 1
  l1 : (z.suite u).l1 = []
  done : doneIn s z (.bank u b) .a dn
  fly : (z.bank (.bank u b)).fly =
    (s.bank (.bank u b)).fly ++ [⟨.a, 0, [.a d (((s.bank (.bank u b)).phase + 1).setWidth 64)], 0, start, true⟩]
  a : (z.bank (.bank u b)).a = (s.bank (.bank u b)).a

/-- A passage is a matter of the bank before, the bank after, and the L1 after. -/
theorem Passed.congr {s s' z z' : State} {u : SuiteId} {b : Fin 2} {d : BitVec 5} {dn : BitVec 4} {start : Nat} (h : Passed s z u b d dn start)
    (hs : s'.bank (.bank u b) = s.bank (.bank u b)) (hz : z'.bank (.bank u b) = z.bank (.bank u b)) (hl : (z'.suite u).l1 = []) :
    Passed s' z' u b d dn start := by
  obtain ⟨sync, phase, -, done, fly, a⟩ := h
  refine ⟨?_, ?_, hl, ?_, ?_, ?_⟩ <;> simpa only [doneIn, hs, hz]

theorem passed_passBarrier {s : State} {p : SuiteId × Fin 2} {d : BitVec 5} {dn : BitVec 4} {start stop : Nat} (setter : Nat)
    (h : (s.bank (.bank p.1 p.2)).sync = .arrived d dn start stop) : Passed s (passBarrier setter s p) p.1 p.2 d dn start := by
  have record := barrierFrame_waitRecord [] (doneFor (released s p d start) (.bank p.1 p.2) .a dn) ⟨.bank p.1 p.2, .a⟩
    ((s.bank (.bank p.1 p.2)).phase + 1).toNat (s.cycle - start) setter 3
  have inc := barrierFrame_doneFor (.head []) (released s p d start) (p := p) .a dn
  obtain ⟨-, -, -, -, -, -, -, kept⟩ := doneFor_keeps (released s p d start) (.bank p.1 p.2) .a dn
  have done := doneFor_done (released s p d start) (.bank p.1 p.2) .a dn
  rw [passBarrier_arrived setter h]
  refine Passed.congr (s := s) (z := doneFor (released s p d start) (.bank p.1 p.2) .a dn) ?_ rfl (record.banks _ (by simp))
    (record.l1 _ (inc.l1 _ (l1_released s p d start)))
  refine ⟨?_, ?_, inc.l1 _ (l1_released s p d start), fun n => (done n).trans ?_, ?_, ?_⟩
  · rw [kept, bank_released]
  · rw [kept, bank_released]
  · rw [bank_released]; rfl
  · rw [kept, bank_released]
  · rw [kept, bank_released]

/-! ### All participants go on -/

/-- Each participant of a list passes in its own turn; the turns of the others do not touch its bank and bring back no L1 line. -/
theorem passed_foldl (setter : Nat) {u : SuiteId} {b : Fin 2} {d : BitVec 5} {dn : BitVec 4} {start stop : Nat} :
    ∀ (l : List (SuiteId × Fin 2)) (s : State), l.Nodup → (u, b) ∈ l → (s.bank (.bank u b)).sync = .arrived d dn start stop →
      Passed s (l.foldl (passBarrier setter) s) u b d dn start
  | [], _, _, hm, _ => absurd hm List.not_mem_nil
  | p :: l, s, hn, hm, h => by
    obtain ⟨hp, hl⟩ := List.nodup_cons.mp hn
    rw [List.foldl_cons]
    by_cases e : (u, b) = p
    · subst e
      have now := passed_passBarrier (p := (u, b)) setter h
      have rest := barrierFrame_foldl setter l (passBarrier setter s (u, b)) (List.Subset.refl l)
      refine now.congr rfl (rest.banks _ ?_) (rest.l1 _ now.l1)
      rintro q hq eq
      cases eq
      exact hp hq
    · have skip : (passBarrier setter s p).bank (.bank u b) = s.bank (.bank u b) := by
        refine (barrierFrame_passBarrier (List.mem_singleton_self p) setter s).banks _ fun q hq eq => e ?_
        cases List.mem_singleton.mp hq
        cases eq
        rfl
      have later := passed_foldl setter l (passBarrier setter s p) hl ((List.mem_cons.mp hm).resolve_left e) (by rw [skip]; exact h)
      exact later.congr skip.symm rfl later.l1

/-- No bank takes part twice. -/
theorem participants_nodup (s : State) (t : TenantId) (scope : Fin 3) (inst : Nat) : (participants s t scope inst).Nodup := by
  refine List.nodup_flatMap.mpr ⟨fun u _ => ?_, (List.nodup_finRange 64).imp fun {u v} ne => ?_⟩
  · exact (List.Nodup.filter _ (by decide)).map fun _ _ e => (Prod.mk.inj e).2
  · intro x hu hv
    obtain ⟨_, -, rfl⟩ := List.mem_map.mp hu
    obtain ⟨_, -, e⟩ := List.mem_map.mp hv
    exact ne (Prod.mk.inj e).1.symm

/-! ### The count of barriers -/

theorem bank_countBarrier (s : State) (t : TenantId) (scope : Fin 3) (inst : Nat) (r : BankRef) :
    (countBarrier s t scope inst).bank r = s.bank r := by
  unfold countBarrier
  split <;> exact State.bank_modTenant s r t _

theorem launches_countBarrier (s : State) (t : TenantId) (inst : Nat) :
    ((countBarrier s t 0 inst).tenant t).launches =
      (s.tenant t).launches.map fun x => if x.id = BitVec.ofNat 32 inst then { x with barriers := x.barriers + 1 } else x := by
  simp only [countBarrier, modLaunch, if_true, State.tenant_modTenant]

theorem barriersPkg_countBarrier (s : State) (t : TenantId) (inst : Nat) :
    ((countBarrier s t 2 inst).tenant t).barriersPkg = (s.tenant t).barriersPkg + 1 := by
  simp [countBarrier]

/-! ### A barrier completes -/

theorem barrierFrame_passAll (s : State) (t : TenantId) (scope : Fin 3) (inst : Nat) :
    BarrierFrame (participants s t scope inst) (countBarrier s t scope inst) (passAll s t scope inst) :=
  barrierFrame_foldl _ _ _ (List.Subset.refl _)

theorem passed_passAll {s : State} {t : TenantId} {scope : Fin 3} {inst : Nat} {u : SuiteId} {b : Fin 2} (hm : (u, b) ∈ participants s t scope inst)
    {d : BitVec 5} {dn : BitVec 4} {start stop : Nat} (h : (s.bank (.bank u b)).sync = .arrived d dn start stop) :
    Passed s (passAll s t scope inst) u b d dn start := by
  have count := bank_countBarrier s t scope inst (.bank u b)
  have pass := passed_foldl (lastArrival s (participants s t scope inst)) _ (countBarrier s t scope inst)
    (participants_nodup s t scope inst) hm (by rw [count]; exact h)
  exact pass.congr count.symm rfl pass.l1

theorem bank_passAll_other {s : State} {t : TenantId} {scope : Fin 3} {inst : Nat} {u : SuiteId} {b : Fin 2}
    (hm : (u, b) ∉ participants s t scope inst) : (passAll s t scope inst).bank (.bank u b) = s.bank (.bank u b) := by
  refine ((barrierFrame_passAll s t scope inst).banks _ ?_).trans (bank_countBarrier s t scope inst _)
  rintro p hp e
  cases e
  exact hm hp

theorem launches_passAll (s : State) (t : TenantId) (inst : Nat) :
    ((passAll s t 0 inst).tenant t).launches =
      (s.tenant t).launches.map fun x => if x.id = BitVec.ofNat 32 inst then { x with barriers := x.barriers + 1 } else x := by
  obtain ⟨tr, h⟩ := (barrierFrame_passAll s t 0 inst).tenant t
  rw [h]
  exact launches_countBarrier s t inst

theorem barriersPkg_passAll (s : State) (t : TenantId) (inst : Nat) :
    ((passAll s t 2 inst).tenant t).barriersPkg = (s.tenant t).barriersPkg + 1 := by
  obtain ⟨tr, h⟩ := (barrierFrame_passAll s t 2 inst).tenant t
  rw [h]
  exact barriersPkg_countBarrier s t inst

/-- Settles O49: SSYNC issues into a waiting bank, which arrives when it owes nothing; the barrier is a fold of independent passages over the
participants, each a bank of its own, after the count. -/
theorem supersteps : Obligations.Supersteps := by
  refine ⟨fun d dn w s hr hs => ?_, fun s u b d dn q start => ?_, fun s t scope inst => ⟨?_, fun h => ?_, fun h => ?_, fun ha hp hd => ?_⟩⟩
  · rw [exec_ssync]
    exact issue_next hr (by simp [hs]) rfl
  · exact fun hk => ⟨execSsyncArrival_waits hk, execSsyncArrival_arrives hk⟩
  · rintro ⟨v, hv, ht, hs, h0, h1⟩
    exact execBarrierCompletion_waits (.inl (allArrived_of_away hv ht hs h0 h1))
  · exact execBarrierCompletion_waits (.inl h)
  · exact execBarrierCompletion_waits (.inr ((anyPaused_iff s t scope inst).mpr h))
  · have run : anyPaused s t scope inst = false := by
      rw [Bool.eq_false_iff, ne_eq, anyPaused_iff]
      rintro ⟨u, b, hm, h⟩
      simp [hp u b hm] at h
    refine ⟨passAll s t scope inst, execBarrierCompletion_passes ha run hd, fun u b hm d dn start stop h => ?_,
      fun u b hm => bank_passAll_other hm, ?_, ?_⟩
    · obtain ⟨sync, phase, l1, done, fly, a⟩ := passed_passAll hm h
      exact ⟨sync, phase, l1, done, fly, a⟩
    · rintro rfl
      exact launches_passAll s t inst
    · rintro rfl
      exact barriersPkg_passAll s t inst

end Sys2Proof.Machine
end

section
/-! PROOFS. The turn of a stream, of an event and of a CSR write as one step (R33, R159, R355). -/

namespace Sys2Proof.Machine

/-! ### The step at the head of the cycle's turns -/

theorem step_issue {s : State} {ag : Agent} {rest : List Turn} (h : s.turns = .issue ag :: rest) :
    step s = streamTurn { s with turns := rest } ag := by
  simp only [step, turn, h]

theorem step_event {s : State} {i : Instr} {rest : List Turn} (h : s.turns = .event i :: rest) : step s = exec i { s with turns := rest } := by
  simp only [step, turn, h]

theorem step_csr {s : State} {ag : Agent} {num : BitVec 12} {op : CsrOp} {rest : List Turn} (h : s.turns = .csr ag num op :: rest) :
    step s = csrTurn { s with turns := rest } ag num op := by
  simp only [step, turn, h]

/-! ### The turn of a stream -/

/-- What a stream fetches depends neither on the turns still to come nor on which stream runs. -/
theorem fetch_turns_cur (s : State) (rest : List Turn) (cur ag : Agent) : fetch { s with turns := rest, cur := cur } ag = fetch s ag := by
  obtain ⟨r, k⟩ := ag
  cases r <;> cases k <;> rfl

/-- At a position with a good instruction the stream runs that instruction's exec. -/
theorem runAt_word {s : State} {ag : Agent} {rest : List Turn} {m : Map} {w x : W32} {i : Instr} (hf : fetch s ag = .word m w x)
    (hd : decode m w x = .ok i) : runAt { s with turns := rest } ag = exec i { s with turns := rest, cur := ag } := by
  simp only [runAt, fetch_turns_cur, hf, hd]

/-- A Steward A-stream is live only where no trap of it waits for its frame (R412). -/
theorem held_of_live {s : State} {c : CtxId} (h : live s ⟨.ctx c, .a⟩ = true) : (s.ctx c).held.isEmpty = true := by
  simp only [live, bne_self_eq_false, Bool.false_or, Bool.and_eq_true] at h
  tauto

/-- A live stream that no other stream's turn comes before: one of a Steward context, a chanter, a drain row. -/
theorem streamTurn_own {s : State} {ag : Agent} (hl : live s ag = true) (h : ag.bank.isCtx = true ∨ ag.kind = .chanter ∨ ag.kind = .drain) :
    streamTurn s ag = runAt s ag := by
  obtain ⟨r, k⟩ := ag
  cases r with
  | bank u b =>
    have hk : k = .chanter ∨ k = .drain := h.resolve_left Bool.false_ne_true
    obtain rfl | rfl := hk <;> simp only [streamTurn, hl, if_true]
  | ctx c =>
    cases k with
    | a => simp only [streamTurn, held_of_live hl, hl, Bool.not_true, Bool.false_eq_true, if_false, if_true]
    | x | chanter | drain => simp only [streamTurn, hl, if_true]

/-- A live A-stream of a Suite runs where its bank holds no trap and its port is free (R33, R355). -/
theorem streamTurn_suiteA {s : State} {u : SuiteId} {b : Fin 2} (hl : live s ⟨.bank u b, .a⟩ = true) (ht : (s.bank (.bank u b)).traps = [])
    (hp : (s.suite u).aPort = false) : streamTurn s ⟨.bank u b, .a⟩ = runAt s ⟨.bank u b, .a⟩ := by
  simp only [streamTurn, ht, hp, hl, List.isEmpty_nil, Bool.not_true, Bool.or_self, Bool.false_eq_true, if_false]

/-- A live X-stream of a Suite runs where its bank holds no trap and the A-stream finds none in this cycle (R355). -/
theorem streamTurn_suiteX {s : State} {u : SuiteId} {b : Fin 2} (hl : live s ⟨.bank u b, .x⟩ = true) (ht : (s.bank (.bank u b)).traps = [])
    (ha : wouldTrap s ⟨.bank u b, .a⟩ = false ∨ (s.suite u).aPort = true) : streamTurn s ⟨.bank u b, .x⟩ = runAt s ⟨.bank u b, .x⟩ := by
  have found : (!(s.suite (Agent.suite ⟨.bank u b, .a⟩)).aPort && wouldTrap s ⟨.bank u b, .a⟩) = false := by
    obtain h | h := ha
    · simp [h]
    · simp [Agent.suite, BankRef.suite?, h]
  simp only [streamTurn, pairTurn, found, hl, ht, List.isEmpty_nil, Bool.not_true, Bool.false_and, Bool.false_eq_true, if_false]

/-- Settles O4: each turn at the head of the cycle is taken by its own branch of the step, and a live stream that nothing keeps from issuing runs the
instruction at its position. -/
theorem stepRunsDecoded : Obligations.StepRunsDecoded := by
  refine ⟨?_, fun s i rest h => step_event h, fun s ag num v m d rest => ⟨fun h => step_csr h, fun h => step_csr h, fun h => step_csr h⟩⟩
  intro s ag rest m w x i s1 h hl hf hd
  rw [step_issue h, ← runAt_word hf hd]
  refine ⟨streamTurn_own hl, ?_⟩
  obtain ⟨⟨u, b⟩ | c, k⟩ := ag
  · refine ⟨fun _ hk ht hp => ?_, fun _ hk ht ha => ?_⟩
    · cases hk
      exact streamTurn_suiteA hl ht hp
    · cases hk
      exact streamTurn_suiteX hl ht ha
  · exact ⟨fun hb => Bool.noConfusion hb, fun hb => Bool.noConfusion hb⟩

end Sys2Proof.Machine
end

section
/-! PROOFS. What an issue moves in its stream: the wait field's semaphore, the position and the hardware loop that ends there (R17, R108, R132,
R135). -/

namespace Sys2Proof.Machine

/-! ### The stream before its position moves -/

/-- An issue of any stream but an X-stream takes the A port of its Suite for the cycle (R33). -/
def usePort (s : State) (ag : Agent) : State :=
  if ag.kind = .x then s else match ag.bank with
    | .bank u _ => s.modSuite u fun x => { x with aPort := true }
    | .ctx _ => s

/-- The state of an issue up to the move of the position. -/
def beforeMove (s : State) (ag : Agent) (w : BitVec 4) (p : Plan) : State :=
  let t := endWait (settleFence (semTake s ag w) ag.bank) ag p
  usePort (countEvents (setLastMode t ag (lineMode s ag)) ag.bank (if ag.kind = .x then 6 else 5) 1) ag

theorem issued_eq (s : State) (w : BitVec 4) (p : Plan) :
    issued s w p = match p.jump with
      | some q => setPos (beforeMove s s.cur w p) s.cur q
      | none => advance (beforeMove s s.cur w p) s.cur p.words := by
  unfold issued complete beforeMove endWait
  cases p.jump <;> rfl

/-- A stream whose semaphores the wait field has taken from. -/
def Stream.taken (x : Stream) (w : BitVec 4) : Stream :=
  if w.getLsbD 3 then { x with sems := x.sems.set (w.toNat % 8) (x.sems.get ⟨w.toNat % 8, by omega⟩ - 1) (by omega) } else x

theorem stream_semTake (s : State) (ag : Agent) (w : BitVec 4) : (semTake s ag w).stream ag = (s.stream ag).taken w := by
  unfold semTake Stream.taken
  split
  · exact State.stream_modStream ..
  · rfl

theorem sems_taken (x : Stream) (w : BitVec 4) (n : BitVec 3) :
    (x.taken w).sems.get ⟨n.toNat, n.isLt⟩ = x.sems.get ⟨n.toNat, n.isLt⟩ - if w.getLsbD 3 = true ∧ w.setWidth 3 = n then 1 else 0 := by
  have named : w.setWidth 3 = n ↔ w.toNat % 8 = n.toNat := by rw [← BitVec.toNat_inj, BitVec.toNat_setWidth]
  unfold Stream.taken
  split
  next on =>
    refine (vget_set x.sems ⟨w.toNat % 8, by omega⟩ ⟨n.toNat, n.isLt⟩ _).trans ?_
    by_cases e : w.toNat % 8 = n.toNat
    · simp only [e, if_true, on, named, and_self]
    · simp only [Fin.mk.injEq, e, if_false, on, named, and_false, sub_zero]
  next off => simp only [off, Bool.false_eq_true, false_and, if_false, sub_zero]

/-- A FENCE that ends leaves the streams of its bank alone. -/
theorem stream_settleFence (s : State) (ag : Agent) : (settleFence s ag.bank).stream ag = s.stream ag := by
  have cleared : ∀ t : State, ((t.modBank ag.bank fun b => { b with fence := none }).bank ag.bank).stream ag.kind = (t.bank ag.bank).stream ag.kind := by
    intro t
    rw [State.bank_modBank_same]
    cases ag.kind <;> rfl
  unfold settleFence State.stream
  dsimp only
  split
  · rfl
  · split
    · rfl
    · split
      · split
        · rw [bank_l1Clear, cleared]
        · exact cleared s
      · exact cleared s

theorem stream_countEvents (s : State) (r : BankRef) (code n : Nat) (ag : Agent) : (countEvents s r code n).stream ag = s.stream ag := by
  simp only [State.stream, (counted_countEvents s r code n).bank]

/-- Without trace records the end of a wait resets the stream's count of it alone. -/
theorem stream_endWait {s : State} {ag : Agent} (p : Plan) (hk : ag.kind ≠ .chanter) (q : quietFor s ag) :
    (endWait s ag p).stream ag = { s.stream ag with flagWait := 0 } := by
  unfold endWait
  split
  next h =>
    have zero : (s.stream ag).flagWait = 0 := h.resolve_right hk
    rw [← zero]
  next => rw [waitRecord_quiet _ _ _ _ _ _ q, State.stream_modStream]

theorem stream_setLastMode (s : State) {ag : Agent} (m : Bool) (hk : ag.kind ≠ .chanter) :
    (setLastMode s ag m).stream ag = { s.stream ag with lineMode := some m } := by
  simp only [setLastMode, hk, if_false, State.stream_modStream]

theorem usePort_bookkeeping (s : State) (ag : Agent) : Bookkeeping s (usePort s ag) ag := by
  unfold usePort
  split
  · exact .refl s ag
  · split
    · exact ⟨onlyIssue_modSuite _ ag _ _ rfl rfl, sameRegs_modSuite _ ag _ _ rfl rfl⟩
    · exact .refl s ag

theorem stream_usePort (s : State) (ag : Agent) : (usePort s ag).stream ag = s.stream ag := by
  unfold usePort
  split
  · rfl
  · split
    · exact congrArg (Bank.stream · ag.kind) (State.bank_modSuite s _ _ rfl ag.bank)
    · rfl

theorem endWait_bookkeeping {s : State} {ag : Agent} (p : Plan) (q : quietFor s ag) : Bookkeeping s (endWait s ag p) ag := by
  unfold endWait
  split
  · exact .refl s ag
  · rw [waitRecord_quiet _ _ _ _ _ _ q]
    exact bookkeeping_modStream s ag _ rfl

theorem beforeMove_bookkeeping {s : State} {ag : Agent} (w : BitVec 4) (p : Plan) (q : quietFor s ag) :
    Bookkeeping s (beforeMove s ag w p) ag := by
  have fence : Bookkeeping s (settleFence (semTake s ag w) ag.bank) ag :=
    (semTake_bookkeeping s ag w).trans (settleFence_bookkeeping _ ag)
  have wait := fence.trans (endWait_bookkeeping p (quietFor_keep fence.1 q))
  exact ((wait.trans (setLastMode_bookkeeping _ ag _)).trans (countEvents_bookkeeping _ ag _ 1)).trans (usePort_bookkeeping _ ag)

/-- Before its position moves, the stream has lost what the wait field takes, its wait is over and the line's mode is noted. -/
def Stream.noted (x : Stream) (w : BitVec 4) (mode : Bool) : Stream := { x.taken w with flagWait := 0, lineMode := some mode }

theorem stream_beforeMove {s : State} {ag : Agent} (w : BitVec 4) (p : Plan) (hk : ag.kind ≠ .chanter) (q : quietFor s ag) :
    (beforeMove s ag w p).stream ag = (s.stream ag).noted w (lineMode s ag) := by
  have quiet : quietFor (settleFence (semTake s ag w) ag.bank) ag :=
    quietFor_keep ((semTake_bookkeeping s ag w).trans (settleFence_bookkeeping _ ag)).1 q
  simp only [beforeMove, stream_usePort, stream_countEvents, stream_setLastMode _ _ hk, stream_endWait p hk quiet, stream_settleFence,
    stream_semTake, Stream.noted]

theorem loops_noted (x : Stream) (w : BitVec 4) (mode : Bool) : (x.noted w mode).loops = x.loops := by
  unfold Stream.noted Stream.taken
  split <;> rfl

theorem pos_noted (x : Stream) (w : BitVec 4) (mode : Bool) : (x.noted w mode).pos = x.pos := by
  unfold Stream.noted Stream.taken
  split <;> rfl

/-! ### Where the position goes -/

/-- An issue leaves the image that its stream runs. -/
theorem OnlyIssue.imageOf {s t : State} {ag : Agent} (o : OnlyIssue s t ag) : imageOf t ag.bank = imageOf s ag.bank := by
  cases hb : ag.bank with
  | bank u b =>
    have hv : (t.bank (.bank u b)).visit = (s.bank (.bank u b)).visit := by
      rw [← hb]
      exact Bank.kept_visit o.bank
    simp only [Machine.imageOf, hv, o.pkg]
  | ctx c =>
    have hi : (t.ctx c).hasImage = (s.ctx c).hasImage := show (t.ctx c).kept.hasImage = (s.ctx c).kept.hasImage by rw [o.ctxs]
    have hn : (t.ctx c).image = (s.ctx c).image := show (t.ctx c).kept.image = (s.ctx c).kept.image by rw [o.ctxs]
    simp only [Machine.imageOf, hi, hn, o.pkg]

/-- An A- or X-stream stands where its stream record says. -/
theorem posOf_stream (s : State) {ag : Agent} (h : ag.kind = .a ∨ ag.kind = .x) : posOf s ag = (s.stream ag).pos := by
  obtain h | h := h <;> simp only [posOf, h]

theorem stream_setPos (s : State) {ag : Agent} (q : Nat) (h : ag.kind = .a ∨ ag.kind = .x) :
    (setPos s ag q).stream ag = { s.stream ag with pos := q } := by
  obtain h | h := h <;> simp only [setPos, h, State.stream_modStream]

/-- The next position of an A- or X-stream depends on its image and its position alone. -/
theorem sequential_congr {s t : State} {ag : Agent} (words : Nat) (h : ag.kind = .a ∨ ag.kind = .x)
    (hi : imageOf t ag.bank = imageOf s ag.bank) (hp : (t.stream ag).pos = (s.stream ag).pos) :
    sequential t ag words = sequential s ag words := by
  have image : ∀ x : State, agentImage x ag = imageOf x ag.bank := fun x => by
    obtain h | h := h <;> simp only [agentImage, h]
  simp only [sequential, image, posOf_stream _ h, hi, hp]

/-- With trace records and debug stops off, the move over an instruction is the loop rule's. -/
theorem stream_advance {s : State} {ag : Agent} (words : Nat) (h : ag.kind = .a ∨ ag.kind = .x) (q : quietFor s ag) :
    let l := loopEnd (s.stream ag).pos (sequential s ag words) 6 (s.stream ag)
    (advance s ag words).stream ag = { l.2.1 with pos := l.1 } := by
  intro l
  have other : ¬ (ag.kind = .chanter ∨ ag.kind = .drain) := by
    obtain h | h := h <;> simp [h]
  have moved : OnlyIssue s (s.modStream ag fun _ => { l.2.1 with pos := l.1 }) ag :=
    onlyIssue_modStream s ag _ (Eq.trans rfl (loopEnd_kept _ _ 6 (s.stream ag)))
  simp only [advance, other, if_false, posOf_stream _ h]
  rw [loopIterations_quiet ag _ (quietFor_keep moved q), State.stream_modStream]

/-! ### The loop rule -/

/-- A hardware loop of a stream is active and ends at a position. -/
def endsAt (x : Stream) (pos : Nat) (i : Fin 6) : Prop := (x.loops.get i).active = true ∧ (x.loops.get i).stop = pos

theorem loopRound_none {x : Stream} {pos : Nat} (h : ∀ i, ¬ endsAt x pos i) : loopRound x pos = none := by
  have none : (List.finRange 6).filter (fun i => (x.loops.get i).active && (x.loops.get i).stop == pos) = [] := by
    refine List.filter_eq_nil_iff.mpr fun i _ => ?_
    simpa [endsAt] using h i
  rw [loopRound, none, List.foldl_nil]

theorem loopRound_one {x : Stream} {pos : Nat} {i : Fin 6} (h : endsAt x pos i) (alone : ∀ j, j ≠ i → ¬ endsAt x pos j) :
    loopRound x pos = some i := by
  have one : (List.finRange 6).filter (fun j => (x.loops.get j).active && (x.loops.get j).stop == pos) = [i] := by
    have same : ∀ j, ((x.loops.get j).active && (x.loops.get j).stop == pos) = (j == i) := fun j => by
      by_cases e : j = i
      · subst e
        simp [h.1, h.2]
      · have free := alone j e
        rw [endsAt, not_and] at free
        simpa only [beq_eq_false_iff_ne.mpr e, Bool.and_eq_false_imp, beq_eq_false_iff_ne] using free
    simp only [same]
    clear same alone h
    revert i
    decide
  rw [loopRound, one, List.foldl_cons, List.foldl_nil]

/-- A stream after one loop has gone round once, or has ended. -/
def Stream.round (x : Stream) (i : Fin 6) : Stream :=
  let l := x.loops.get i
  { x with loops := x.loops.set i.val { l with counter := l.counter - 1, done := l.done + 1, active := l.counter != 1 } i.isLt }

theorem loops_round (x : Stream) (i j : Fin 6) : (x.round i).loops.get j =
    if i = j then { x.loops.get i with counter := (x.loops.get i).counter - 1, done := (x.loops.get i).done + 1,
                                       active := (x.loops.get i).counter != 1 } else x.loops.get j := vget_set ..

theorem loopEnd_none {x : Stream} {pos : Nat} (next n : Nat) (h : ∀ i, ¬ endsAt x pos i) : loopEnd pos next n x = (next, x, []) := by
  cases n with
  | zero => rfl
  | succ n => simp only [loopEnd, loopRound_none h]

theorem loopEnd_some {x : Stream} {pos : Nat} {i : Fin 6} (next n : Nat) (h : loopRound x pos = some i) :
    loopEnd pos next (n + 1) x =
      if (x.loops.get i).counter ≠ 1 then ((x.loops.get i).start, x.round i, [(i.val, (x.loops.get i).done + 1)])
      else ((loopEnd pos next n (x.round i)).1, (loopEnd pos next n (x.round i)).2.1,
        (i.val, (x.loops.get i).done + 1) :: (loopEnd pos next n (x.round i)).2.2) := by
  simp only [loopEnd, h, Stream.round]

/-- One loop that ends here and has iterations left goes back to its start. -/
theorem loopEnd_back {x : Stream} {pos : Nat} {i : Fin 6} (next n : Nat) (h : endsAt x pos i) (alone : ∀ j, j ≠ i → ¬ endsAt x pos j)
    (more : (x.loops.get i).counter ≠ 1) :
    loopEnd pos next (n + 1) x = ((x.loops.get i).start, x.round i, [(i.val, (x.loops.get i).done + 1)]) := by
  rw [loopEnd_some next n (loopRound_one h alone), if_pos more]

/-- One loop that ends here after its last iteration falls through. -/
theorem loopEnd_through {x : Stream} {pos : Nat} {i : Fin 6} (next n : Nat) (h : endsAt x pos i) (alone : ∀ j, j ≠ i → ¬ endsAt x pos j)
    (last : (x.loops.get i).counter = 1) :
    loopEnd pos next (n + 1) x = (next, x.round i, [(i.val, (x.loops.get i).done + 1)]) := by
  have ended : ∀ j, ¬ endsAt (x.round i) pos j := by
    rintro j ⟨active, stop⟩
    rw [loops_round] at active stop
    by_cases e : i = j
    · rw [if_pos e, last] at active
      exact Bool.noConfusion active
    · rw [if_neg e] at active stop
      exact alone j (Ne.symm e) ⟨active, stop⟩
  rw [loopEnd_some next n (loopRound_one h alone), if_neg (not_not.mpr last), loopEnd_none next n ended]

/-! ### The issue -/

section Issue
variable {s : State} {w : BitVec 4} {p : Plan}

theorem stream_issued_jump (q : quiet s = true) (hk : s.cur.kind = .a ∨ s.cur.kind = .x) {dest : Nat} (hj : p.jump = some dest) :
    (issued s w p).stream s.cur = { (s.stream s.cur).noted w (lineMode s s.cur) with pos := dest } := by
  have hc : s.cur.kind ≠ .chanter := by obtain h | h := hk <;> simp [h]
  simp only [issued_eq, hj, stream_setPos _ _ hk, stream_beforeMove w p hc (quietFor_of_quiet q)]

/-- Without a transfer of control, position and loops are what the loop rule makes of those before the issue. -/
theorem stream_issued_next (q : quiet s = true) (hk : s.cur.kind = .a ∨ s.cur.kind = .x) (hj : p.jump = none) :
    let l := loopEnd (s.stream s.cur).pos (sequential s s.cur p.words) 6 ((s.stream s.cur).noted w (lineMode s s.cur))
    (issued s w p).stream s.cur = { l.2.1 with pos := l.1 } := by
  intro l
  have hc : s.cur.kind ≠ .chanter := by obtain h | h := hk <;> simp [h]
  have stand := stream_beforeMove w p hc (quietFor_of_quiet q)
  have frame := (beforeMove_bookkeeping w p (quietFor_of_quiet q)).1
  have pos : ((beforeMove s s.cur w p).stream s.cur).pos = (s.stream s.cur).pos := by rw [stand, pos_noted]
  simp only [issued_eq, hj]
  rw [stream_advance _ hk (quietFor_keep frame (quietFor_of_quiet q)), sequential_congr _ hk frame.imageOf pos, pos, stand]

/-- The loop rule leaves the semaphores. -/
theorem sems_loopEnd (pos next : Nat) : ∀ (n : Nat) (x : Stream), (loopEnd pos next n x).2.1.sems = x.sems
  | 0, _ => rfl
  | n + 1, x => by
    unfold loopEnd
    split
    · rfl
    · rename_i i _
      dsimp only
      split
      · rfl
      · exact (sems_loopEnd pos next n _).trans rfl

theorem sems_issued (q : quiet s = true) (hk : s.cur.kind = .a ∨ s.cur.kind = .x) :
    ((issued s w p).stream s.cur).sems = ((s.stream s.cur).taken w).sems := by
  cases hj : p.jump with
  | some dest => rw [stream_issued_jump q hk hj]; rfl
  | none =>
    rw [stream_issued_next q hk hj]
    exact sems_loopEnd _ _ 6 _

end Issue

/-- Settles O9: up to the move of the position an issue takes the semaphore alone, and the position then jumps or follows the loop rule, which finds no
loop or one. -/
theorem issueMoves : Obligations.IssueMoves := by
  intro s w p q hk st t
  have ends : ∀ i, endsAt (st.noted w (lineMode s s.cur)) st.pos i ↔ (st.loops.get i).active = true ∧ (st.loops.get i).stop = st.pos := fun i => by
    rw [endsAt, loops_noted]
  refine ⟨fun n => ?_, fun dest hj => ?_, fun hj h => ?_, fun i hj ha hs alone => ?_⟩
  · rw [sems_issued q hk]
    exact sems_taken st w n
  · rw [show t = _ from stream_issued_jump q hk hj]
  · have idle : ∀ i, ¬ endsAt (st.noted w (lineMode s s.cur)) st.pos i := fun i e => h i ((ends i).mp e).1 ((ends i).mp e).2
    rw [show t = _ from stream_issued_next q hk hj, loopEnd_none _ 6 idle]
  · have here := (ends i).mpr ⟨ha, hs⟩
    have lone : ∀ j, j ≠ i → ¬ endsAt (st.noted w (lineMode s s.cur)) st.pos j := fun j hj e => alone j hj ((ends j).mp e).1 ((ends j).mp e).2
    have next : t = _ := stream_issued_next q hk hj
    have loop : ((st.noted w (lineMode s s.cur)).round i).loops.get i =
        { st.loops.get i with counter := (st.loops.get i).counter - 1, done := (st.loops.get i).done + 1,
                              active := (st.loops.get i).counter != 1 } := by
      rw [loops_round, if_pos rfl, loops_noted]
    have active : (((st.noted w (lineMode s s.cur)).round i).loops.get i).active = ((st.loops.get i).counter != 1) := congrArg LoopRec.active loop
    by_cases last : (st.loops.get i).counter = 1
    · rw [next, loopEnd_through _ 5 here lone (by rw [loops_noted]; exact last)]
      exact ⟨congrArg LoopRec.counter loop, fun more => absurd last more, fun _ => ⟨rfl, active.trans (bne_eq_false_iff_eq.mpr last)⟩⟩
    · rw [next, loopEnd_back _ 5 here lone (by rw [loops_noted]; exact last), loops_noted]
      exact ⟨congrArg LoopRec.counter loop, fun _ => ⟨rfl, active.trans (bne_iff_ne.mpr last)⟩, fun one => absurd one last⟩

end Sys2Proof.Machine
end

section
/-! PROOFS. Launches: submission, readiness and ageing, the completion of a launch without iterations, and the start of a Steward context
(R20-R23, R37, R38, R322, R323, R330, R331). -/

namespace Sys2Proof.Machine

/-! ### Events and messages -/

/-- Events counted for a context reach its counters alone. -/
theorem countEvents_ctx (s : State) (c : CtxId) (code n : Nat) : ∃ ctxs, countEvents s (.ctx c) code n = { s with ctxs := ctxs } ∧
    ∀ d, ∃ k, ctxs.get d = { s.ctx d with counters := k } := by
  unfold countEvents
  split
  · exact ⟨s.ctxs, rfl, fun d => ⟨(s.ctx d).counters, rfl⟩⟩
  · dsimp only
    split
    · refine ⟨_, rfl, fun d => ?_⟩
      rw [vget_set]
      split
      next e => subst e; exact ⟨_, rfl⟩
      next => exact ⟨(s.ctx d).counters, rfl⟩
    · exact ⟨s.ctxs, rfl, fun d => ⟨(s.ctx d).counters, rfl⟩⟩

/-- A message to the host is queued and its flits are counted. -/
theorem sendHost_eq (s : State) (kind tenant tag : Nat) (bytes : List Byte) : ∃ out ctxs,
    sendHost s kind tenant tag bytes = { s with pkg := { s.pkg with out := out }, ctxs := ctxs } ∧
    ∀ d, ∃ k, ctxs.get d = { s.ctx d with counters := k } := by
  obtain ⟨ctxs, h, hc⟩ := countEvents_ctx (s.modPkg fun p => { p with out := p.out ++
    [⟨kind, tag, leBytes 64 (kind % 256 + 2 ^ 8 * (tenant % 64) + 2 ^ 16 * (bytes.length % 65536) + 2 ^ 32 * (tag % 65536)) ++ bytes, 0⟩] })
    hypervisor 0x10 (flitsOf (64 + bytes.length))
  exact ⟨_, ctxs, h, hc⟩

/-- The record that the arbiter makes of an event for a context (R41, R327). -/
def eventFor (s : State) (target : CtxId) (kind tenant source : Nat) (payload : BitVec 128) : Event :=
  ⟨s.pkg.eventSeq, kind, tenant, source, payload, (s.ctx target).hostfwd⟩

/-- An event takes the next sequence number and joins its context's queue; whether the host gets it too shows in messages and counters alone. -/
theorem postEvent_eq (s : State) (target : CtxId) (kind tenant source : Nat) (payload : BitVec 128) : ∃ out ctxs,
    postEvent s target kind tenant source payload = { s with pkg := { s.pkg with eventSeq := s.pkg.eventSeq + 1, out := out }, ctxs := ctxs } ∧
    ∀ d, ∃ k, ctxs.get d = { s.ctx d with
      counters := k
      events := if target = d then (s.ctx d).events ++ [eventFor s target kind tenant source payload] else (s.ctx d).events } := by
  have queued : ∀ d, ((s.modPkg fun p => { p with eventSeq := p.eventSeq + 1 }).modCtx target fun c =>
      { c with events := c.events ++ [eventFor s target kind tenant source payload] }).ctx d = { s.ctx d with
        events := if target = d then (s.ctx d).events ++ [eventFor s target kind tenant source payload] else (s.ctx d).events } := fun d => by
    rw [State.ctx_modCtx]
    split
    next e => subst e; rfl
    next => rfl
  unfold postEvent
  dsimp only
  split
  · obtain ⟨out, ctxs, h, hc⟩ := sendHost_eq ((s.modPkg fun p => { p with eventSeq := p.eventSeq + 1 }).modCtx target fun c =>
      { c with events := c.events ++ [eventFor s target kind tenant source payload] }) 5 tenant 0
      (eventBytes (eventFor s target kind tenant source payload))
    refine ⟨out, ctxs, h, fun d => ?_⟩
    obtain ⟨k, hk⟩ := hc d
    exact ⟨k, by rw [hk, queued]⟩
  · exact ⟨s.pkg.out, _, rfl, fun d => ⟨(s.ctx d).counters, queued d⟩⟩

theorem tenant_postEvent (s : State) (target : CtxId) (kind tenant source : Nat) (payload : BitVec 128) (t : TenantId) :
    (postEvent s target kind tenant source payload).tenant t = s.tenant t := by
  obtain ⟨_, _, h, -⟩ := postEvent_eq s target kind tenant source payload
  rw [h]; rfl

theorem events_postEvent (s : State) (target : CtxId) (kind tenant source : Nat) (payload : BitVec 128) :
    ((postEvent s target kind tenant source payload).ctx target).events =
      (s.ctx target).events ++ [eventFor s target kind tenant source payload] := by
  obtain ⟨_, _, h, hc⟩ := postEvent_eq s target kind tenant source payload
  obtain ⟨_, hk⟩ := hc target
  rw [h, State.ctx, hk, if_pos rfl]

/-! ### The launch queue -/

theorem launches_modLaunch (s : State) (t : TenantId) (id : W32) (f : Launch → Launch) :
    ((modLaunch s t id f).tenant t).launches = (s.tenant t).launches.map fun y => if y.id = id then f y else y := by
  rw [modLaunch, State.tenant_modTenant, if_pos rfl]

theorem ids_modLaunch (s : State) (t : TenantId) (id : W32) {f : Launch → Launch} (hf : ∀ y, (f y).id = y.id) :
    ((modLaunch s t id f).tenant t).launches.map (·.id) = (s.tenant t).launches.map (·.id) := by
  rw [launches_modLaunch, List.map_map]
  refine List.map_congr_left fun y _ => ?_
  show (if y.id = id then f y else y).id = y.id
  split
  · exact hf y
  · rfl

/-- A launch is found again after a change that keeps numbers. -/
theorem findLaunch_modLaunch {s : State} {t : TenantId} {id : W32} {x : Launch} {f : Launch → Launch} (hf : ∀ y, (f y).id = y.id)
    (h : findLaunch s t id = some x) : findLaunch (modLaunch s t id f) t id = some (f x) := by
  have hx : x.id = id := by simpa using List.find?_some h
  have same : ((fun y : Launch => y.id == id) ∘ fun y => if y.id = id then f y else y) = fun y => y.id == id := by
    funext y
    by_cases e : y.id = id <;> simp [e, hf]
  rw [findLaunch, launches_modLaunch, List.find?_map, same, show (s.tenant t).launches.find? (fun y => y.id == id) = some x from h,
    Option.map_some, if_pos hx]

/-- A launch with Visits still to retire stays in the queue. -/
theorem settleLaunch_waits {s : State} {t : TenantId} {id : W32} {x : Launch} (source : Nat) (h : findLaunch s t id = some x)
    (more : x.retired < x.total) (sound : x.failed = false) : settleLaunch s t id source = s := by
  have unfinished : (x.retired == x.total) = false := beq_eq_false_iff_ne.mpr (Nat.ne_of_lt more)
  simp only [settleLaunch, h, unfinished, sound, Bool.and_false, Bool.false_and, Bool.false_eq_true, if_false]

/-- A ready launch whose Visits have all retired leaves with its completion event. -/
theorem settleLaunch_completes {s : State} {t : TenantId} {id : W32} {x : Launch} (source : Nat) (h : findLaunch s t id = some x)
    (ready : x.ready = true) (done : x.retired = x.total) : settleLaunch s t id source = postEnd s t id 0 source := by
  simp only [settleLaunch, h, ready, done, BEq.rfl, Bool.and_self, if_true, endLaunch]

theorem launches_postEnd (s : State) (t : TenantId) (id : W32) (status source : Nat) :
    ((postEnd s t id status source).tenant t).launches = (s.tenant t).launches.filter fun y => y.id != id := by
  rw [postEnd, tenant_postEvent, State.tenant_modTenant, if_pos rfl]

theorem events_postEnd (s : State) (t : TenantId) (id : W32) (status source : Nat) :
    ((postEnd s t id status source).ctx (supervisor t)).events = (s.ctx (supervisor t)).events ++
      [eventFor s (supervisor t) 1 t.val source (BitVec.ofNat 128 (id.toNat + 2 ^ 32 * status))] := by
  rw [postEnd, events_postEvent]
  rfl

/-! ### Submission -/

theorem submitLaunch_malformed {s : State} {t : TenantId} {l : List Byte} (h : parseLaunch s t l = none ∨ launchHeader s t (fieldAt l 4 2) = none) :
    submitLaunch s t l = (1, s) := by
  unfold submitLaunch
  dsimp only
  split
  next hp hh => simp [hp, hh] at h
  next => rfl

/-- A launch number is bad where it is 0 or the number of a launch in the queue. -/
theorem idTaken_iff (q : List Launch) (k : W32) : (k = 0 ∨ q.any (fun y => y.id == k) = true) ↔ k = 0 ∨ ∃ y, y ∈ q ∧ y.id = k := by
  simp only [List.any_eq_true, beq_iff_eq]

theorem not_idTaken {q : List Launch} {k : W32} (id : k ≠ 0) (new : ∀ y, y ∈ q → y.id ≠ k) :
    ¬ (k = 0 ∨ q.any (fun y => y.id == k) = true) := by
  rw [idTaken_iff]
  rintro (e | ⟨y, hy, e⟩)
  · exact id e
  · exact new y hy e

section Submit
variable {s : State} {t : TenantId} {l : List Byte} {x : Launch} {h : Header}

/-- What the submission of a well-formed record that names a readable image comes to. -/
theorem submitLaunch_read (hp : parseLaunch s t l = some x) (hh : launchHeader s t (fieldAt l 4 2) = some h) :
    submitLaunch s t l =
      if x.id = 0 ∨ (s.tenant t).launches.any (fun y => y.id == x.id) then (2, s)
      else if 256 ≤ (s.tenant t).launches.length then (3, s)
      else if h.feat &&& ~~~(s.pkg.featacc1 ++ s.pkg.featacc0) ≠ 0 then (4, s)
      else (0, ((loadImage s t x.imageSeg h).2.modPkg fun p => { p with eventSeq := p.eventSeq + 1 }).modTenant t fun y =>
        { y with launches := y.launches ++ [{ x with image := (loadImage s t x.imageSeg h).1, seq := s.pkg.eventSeq }] }) := by
  simp only [submitLaunch, hp, hh]

theorem submitLaunch_badId (hp : parseLaunch s t l = some x) (hh : launchHeader s t (fieldAt l 4 2) = some h)
    (bad : x.id = 0 ∨ ∃ y, y ∈ (s.tenant t).launches ∧ y.id = x.id) : submitLaunch s t l = (2, s) := by
  rw [submitLaunch_read hp hh, if_pos ((idTaken_iff _ _).mpr bad)]

theorem submitLaunch_full (hp : parseLaunch s t l = some x) (hh : launchHeader s t (fieldAt l 4 2) = some h) (id : x.id ≠ 0)
    (new : ∀ y, y ∈ (s.tenant t).launches → y.id ≠ x.id) (long : 256 ≤ (s.tenant t).launches.length) : submitLaunch s t l = (3, s) := by
  rw [submitLaunch_read hp hh, if_neg (not_idTaken id new), if_pos long]

theorem submitLaunch_feature (hp : parseLaunch s t l = some x) (hh : launchHeader s t (fieldAt l 4 2) = some h) (id : x.id ≠ 0)
    (new : ∀ y, y ∈ (s.tenant t).launches → y.id ≠ x.id) (short : (s.tenant t).launches.length < 256)
    (feat : h.feat &&& ~~~(s.pkg.featacc1 ++ s.pkg.featacc0) ≠ 0) : submitLaunch s t l = (4, s) := by
  rw [submitLaunch_read hp hh, if_neg (not_idTaken id new), if_neg (Nat.not_le.mpr short), if_pos feat]

end Submit

/-- An image enters the instruction store, or stands there already, and nothing else changes (R19). -/
theorem loadImage_eq (s : State) (t : TenantId) (seg : Nat) (h : Header) :
    ∃ im images, (loadImage s t seg h).2 = s.modPkg (fun p => { p with images := images }) ∧ images[(loadImage s t seg h).1]? = some im ∧
      im.tenant = t ∧ im.seg = seg ∧ im.nlines = h.nlines := by
  unfold loadImage storeImage
  split
  next i e =>
    obtain ⟨hi, hm, -⟩ := List.idxOf?_eq_some_iff.mp e
    exact ⟨_, s.pkg.images, rfl, List.getElem?_eq_some_iff.mpr ⟨hi, hm⟩, rfl, rfl, rfl⟩
  next => exact ⟨_, _, rfl, List.getElem?_concat_length, rfl, rfl, rfl⟩

/-- A record that is accepted joins its tenant's queue with the next sequence number (R20-R23). -/
theorem submitLaunch_queued {s : State} {t : TenantId} {l : List Byte} {x : Launch} {h : Header} (hp : parseLaunch s t l = some x)
    (hh : launchHeader s t (fieldAt l 4 2) = some h) (id : x.id ≠ 0) (new : ∀ y, y ∈ (s.tenant t).launches → y.id ≠ x.id)
    (short : (s.tenant t).launches.length < 256) (feat : h.feat &&& ~~~(s.pkg.featacc1 ++ s.pkg.featacc0) = 0) :
    (submitLaunch s t l).1 = 0 ∧
      ((submitLaunch s t l).2.tenant t).launches =
        (s.tenant t).launches ++ [{ x with image := (loadImage s t x.imageSeg h).1, seq := s.pkg.eventSeq }] ∧
      (submitLaunch s t l).2.pkg.eventSeq = s.pkg.eventSeq + 1 := by
  obtain ⟨_, images, hi, -⟩ := loadImage_eq s t x.imageSeg h
  rw [submitLaunch_read hp hh, if_neg (not_idTaken id new), if_neg (Nat.not_le.mpr short), if_neg (not_not.mpr feat), hi]
  refine ⟨rfl, ?_, rfl⟩
  rw [State.tenant_modTenant, if_pos rfl]
  rfl

/-- A record that LSUBMIT reads is submitted for the acting tenant, and LSTAT takes its status (R323). -/
theorem execLsubmitWrite_read {s : State} {c : CtxId} {v : Word} {l : List Byte} (h : (loadVa s (ctxTenant s c) v.toNat 128).1 = .ok l) :
    execLsubmitWrite c v s =
      let r := submitLaunch (s.modPkg fun p => { p with featLocked := true }) (ctxTenant s c) l
      .next (r.2.modCtx c fun x => { x with lstat := BitVec.ofNat 8 r.1 }) := by
  simp only [execLsubmitWrite, h]

/-- A host's record of the right length is submitted once the flits of its message are counted. -/
theorem execHostLaunch_booted {s : State} {t : TenantId} {tag : W16} {l : List Byte} (booted : s.pkg.booted = true) (len : l.length = 128) :
    execHostLaunch t tag l s =
      let r := submitLaunch ((countEvents s (.ctx hypervisor) 0x11 3).modPkg fun p => { p with featLocked := true }) t l
      .next (sendHost (if r.1 = 0 then r.2 else stampMessage r.2) 1 t.val tag.toNat [BitVec.ofNat 8 r.1]) := by
  have flits : hostFlits s 128 = countEvents s (.ctx hypervisor) 0x11 3 := rfl
  obtain ⟨_, count, -⟩ := countEvents_ctx s hypervisor 0x11 3
  have up : (countEvents s (.ctx hypervisor) 0x11 3).pkg.booted = true := by rw [count]; exact booted
  simp only [execHostLaunch, len, flits, up, Bool.not_true, Bool.false_eq_true, ne_eq, not_true_eq_false, if_false, replyStatus]

theorem parseLaunch_priority {s : State} {t : TenantId} {l : List Byte} {x : Launch} (h : parseLaunch s t l = some x) :
    x.effPrio = x.prio ∧ x.readyClk = 0 := by
  unfold parseLaunch at h
  obtain ⟨-, h⟩ := Option.ite_none_left_eq_some.mp h
  split at h
  · cases h
  · cases h
    exact ⟨rfl, rfl⟩

/-! ### Readiness and ageing -/

section Ready
variable {s : State} {t : TenantId} {id : W32} {x : Launch}

/-- A launch waits while it is ready already or one of its dependences is in the queue. -/
def readyWaits (s : State) (t : TenantId) (x : Launch) : Prop :=
  x.ready = true ∨ ∃ d y, d ∈ x.deps ∧ y ∈ (s.tenant t).launches ∧ y.id = d

theorem readyWaits_iff : readyWaits s t x ↔ (x.ready || x.deps.any fun d => (s.tenant t).launches.any fun y => y.id == d) = true := by
  simp only [readyWaits, Bool.or_eq_true, List.any_eq_true, beq_iff_eq]
  constructor
  · rintro (h | ⟨d, y, hd, hy, e⟩)
    · exact .inl h
    · exact .inr ⟨d, hd, y, hy, e⟩
  · rintro (h | ⟨d, hd, y, hy, e⟩)
    · exact .inl h
    · exact .inr ⟨d, y, hd, hy, e⟩

theorem execLaunchReady_waits (hx : findLaunch s t id = some x) (h : readyWaits s t x) : execLaunchReady t id s = .next s := by
  rw [readyWaits_iff] at h
  simp only [execLaunchReady, hx, h, if_true]

theorem execLaunchReady_ready (hx : findLaunch s t id = some x) (h : ¬ readyWaits s t x) : execLaunchReady t id s =
    .next (settleLaunch (modLaunch s t id fun y => { y with ready := true }) t id (256 + t.val)) := by
  rw [readyWaits_iff, Bool.not_eq_true] at h
  simp only [execLaunchReady, hx, h, Bool.false_eq_true, if_false]

theorem execPriorityAging_sleeps (hx : findLaunch s t id = some x) (h : x.ready = false ∨ x.unplaced = 0) :
    execPriorityAging t id s = .next s := by
  have asleep : (!x.ready || x.unplaced == 0) = true := by simpa using h
  simp only [execPriorityAging, hx, asleep, if_true]

theorem execPriorityAging_ages (hx : findLaunch s t id = some x) (h : ¬ (x.ready = false ∨ x.unplaced = 0)) :
    execPriorityAging t id s = .next (modLaunch s t id fun y => if y.readyClk + 1 = 2 ^ 23 then
      { y with readyClk := 0, effPrio := min 15 (y.effPrio + 1) } else { y with readyClk := y.readyClk + 1 }) := by
  have awake : (!x.ready || x.unplaced == 0) = false := by simpa using h
  simp only [execPriorityAging, hx, awake, Bool.false_eq_true, if_false]
  rfl

end Ready

/-! ### The start of a context -/

/-- A stream of a context that starts at a line (R322). -/
def Stream.started (x : Stream) (line : W32) : Stream :=
  { x with pos := line.toNat * 16, running := true, lineMode := none, loops := Vector.replicate 6 LoopRec.reset, labels := [] }

/-- A context that starts an image (R322). -/
def Ctx.started (x : Ctx) (image : Nat) (h : Header) : Ctx :=
  { x with running := true, image := image, hasImage := true,
           regs := { x.regs with a := Vector.replicate 32 0, e := Vector.replicate 16 0, sa := x.regs.sa.started h.entryA,
                                 sx := x.regs.sx.started h.entryX, cq := [], cqNew := [] } }

/-- Where the checks pass, the context that the value names starts its loaded image, and no other context changes after the header is read. -/
theorem execCtxstartWrite_starts {s s1 : State} {c x : CtxId} {v : Word} {seg : Nat} {h : Header} (target : ctxstartTarget v = (x, seg))
    (ok : ctxstartTrap s c v = none) (hh : readHeader s (ctxTenant s x) seg = (.ok h, s1)) : ∃ z n im,
      execCtxstartWrite c v s = .next z ∧ z.ctx x = (s1.ctx x).started n h ∧ (∀ y, y ≠ x → z.ctx y = s1.ctx y) ∧
      z.pkg.images[n]? = some im ∧ im.tenant = ctxTenant s x ∧ im.seg = seg ∧ im.nlines = h.nlines := by
  obtain ⟨im, images, stored, found, tenant, segment, lines⟩ := loadImage_eq s1 (ctxTenant s x) seg h
  refine ⟨(loadImage s1 (ctxTenant s x) seg h).2.modCtx x fun y => y.started (loadImage s1 (ctxTenant s x) seg h).1 h,
    (loadImage s1 (ctxTenant s x) seg h).1, im, ?_, ?_, fun y hy => ?_, ?_, tenant, segment, lines⟩
  · simp only [execCtxstartWrite, startContext, target, ok, hh, Option.isSome_none, Bool.false_eq_true, if_false, Ctx.started, Stream.started]
  · rw [State.ctx_modCtx, if_pos rfl, stored, State.ctx_modPkg]
  · rw [State.ctx_modCtx, if_neg (Ne.symm hy), stored, State.ctx_modPkg]
  · rw [State.modCtx_pkg, stored]
    exact found

/-! ### The statement -/

/-- Settles O46: a submission is one chain of checks, a launch becomes ready and settles, ageing is a change of one launch, and a context starts after its
image is loaded. -/
theorem launchesQueue : Obligations.LaunchesQueue := by
  refine ⟨fun s t l => ?_, fun s t l x => parseLaunch_priority, fun s t id x hx => ?_, fun s s1 c v h => ?_⟩
  · intro result came
    have submit : ∀ s : State, result s (submitLaunch (s.modPkg fun p => { p with featLocked := true }) t l) := by
      intro s
      exact ⟨submitLaunch_malformed, fun x h hp hh => ⟨submitLaunch_badId hp hh, submitLaunch_full hp hh, submitLaunch_feature hp hh,
        fun id new short feat => submitLaunch_queued hp hh id new short (not_not.mp feat)⟩⟩
    refine ⟨⟨_, submit s, fun c v ht hl => ?_⟩, ⟨_, submit came, fun tag => ?_⟩⟩
    · subst ht
      exact execLsubmitWrite_read hl
    · exact execHostLaunch_booted
  · intro waits set sleeps
    have ready := findLaunch_modLaunch (f := fun y => { y with ready := true }) (fun _ => rfl) hx
    refine ⟨execLaunchReady_waits hx, fun go more sound => ?_, fun go none old => ?_, execPriorityAging_sleeps hx, execPriorityAging_ages hx⟩
    · exact (execLaunchReady_ready hx go).trans (congrArg _ (settleLaunch_waits _ ready more sound))
    · refine ⟨_, (execLaunchReady_ready hx go).trans (congrArg _ (settleLaunch_completes _ ready rfl (old.trans none.symm))), ?_, ?_⟩
      · rw [launches_postEnd, ← ids_modLaunch s t id (f := fun y => { y with ready := true }) fun _ => rfl, List.filter_map]
        rfl
      · exact events_postEnd _ t id 0 (256 + t.val)
  · intro x seg ok hh
    obtain ⟨z, n, im, go, here, others, found, tenant, segment, lines⟩ := execCtxstartWrite_starts (x := x) (seg := seg) rfl ok hh
    have image : (z.ctx x).image = n := congrArg Ctx.image here
    refine ⟨z, go, congrArg Ctx.running here, congrArg (·.regs.a) here, congrArg (·.regs.e) here, congrArg (·.regs.sa.running) here,
      congrArg (·.regs.sx.running) here, congrArg (·.regs.sa.pos) here, congrArg (·.regs.sx.pos) here, ⟨im, ?_, tenant, segment, lines⟩, others⟩
    rw [image]
    exact found

end Sys2Proof.Machine
end

section
/-! PROOFS. Placement of Visits: a GREEDY launch takes a free candidate wing (R24, R25, R28, R39, R40). -/

namespace Sys2Proof.Machine

/-! ### Reads by the device -/

theorem physRead_translated (s : State) (slot a n : Nat) : Translated s (physRead s slot a n).2 :=
  (correctErrors_translated s a n).trans (countLost_translated _ a)

theorem loadSeg_translated (t : TenantId) (seg : Nat) (d : Desc) : ∀ (k off : Nat) (s : State), Translated s (loadSeg s t seg d off k).2
  | 0, _, s => .refl s
  | k + 1, off, s => by
    have h := translate_translated s t seg d off false false
    unfold loadSeg
    split
    next e => rw [e] at h; exact h
    next e => rw [e] at h; exact h
    next pa slot s1 e =>
      rw [e] at h
      have g := (h.trans (physRead_translated s1 slot pa 1)).trans (loadSeg_translated t seg d k (off + 1) (physRead s1 slot pa 1).2)
      dsimp only
      split
      next e2 => rw [e2] at g; exact g
      next => exact g

theorem loadVa_translated (s : State) (t : TenantId) (va n : Nat) : Translated s (loadVa s t va n).2 := by
  have h := getDesc_translated s t (va / 2 ^ 36)
  unfold loadVa
  split
  next e => rw [e] at h; exact h
  next e => rw [e] at h; exact h.trans (loadSeg_translated t _ _ n _ _)

theorem affinity_translated (s : State) (t : TenantId) (x : Launch) (n : Nat) : Translated s (affinity s t x n).2 := by
  unfold affinity
  split
  · exact .refl s
  · have h := loadVa_translated s t (x.affinity.toNat + 8 * n) 8
    split
    next e => rw [e] at h; exact h
    next e => rw [e] at h; exact h
    next e => rw [e] at h; exact h

/-- The choice of a wing reads the affinity table, and changes nothing else. -/
theorem greedyWing_translated (s : State) (t : TenantId) (x : Launch) : Translated s (greedyWing s t x).2 := by
  have h : Translated s (if (x.dIndex (takeGreedy x).1).isSome then (some (List.replicate 8 0), s) else affinity s t x (takeGreedy x).1).2 := by
    split
    · exact .refl s
    · exact affinity_translated s t x _
  unfold greedyWing
  dsimp only
  split
  next e => rw [e] at h; exact h
  next e => rw [e] at h; exact h

theorem Translated.images {s t : State} (h : Translated s t) : t.pkg.images = s.pkg.images := by
  obtain ⟨_, _, _, _, _, _, _, _, _, _, rfl⟩ := h.rest
  rfl

theorem Translated.ologMode {s t : State} (h : Translated s t) (k : TenantId) : ologMode t k = ologMode s k := by
  have mode : (t.tenant k).detctl = (s.tenant k).detctl := show (t.tenant k).noErrs.detctl = (s.tenant k).noErrs.detctl by rw [h.errs]
  have feat : t.pkg.featacc0 = s.pkg.featacc0 := by
    obtain ⟨_, _, _, _, _, _, _, _, _, _, rfl⟩ := h.rest
    rfl
  rw [Machine.ologMode, Machine.ologMode, featOn, featOn, mode, feat]

/-! ### The offer of a wing -/

/-- With the order log off a choice is the device's own. -/
theorem ologChoice_off {s : State} {t : TenantId} (h : ologMode s t = 0) (kind source value : Nat) :
    ologChoice s t kind source value = (some value, s) := by
  simp only [ologChoice, ologTake, h]

section Offer
variable {s : State} {lead : SuiteId} {shape : Fin 9} {t : TenantId} {x : Launch} {b : Fin 2}

theorem execVisitPlacement_stays (ho : ownerOf? s lead = some t)
    (h : candidate s t lead shape.val = false ∨ paused s lead = true ∨ offered s t lead shape.val = none) :
    execVisitPlacement lead shape s = .next s := by
  simp only [execVisitPlacement, ho]
  by_cases away : (!candidate s t lead shape.val || paused s lead) = true
  · rw [if_pos away]
  · have none : offered s t lead shape.val = none := by
      obtain h | h | h := h
      · simp [h] at away
      · simp [h] at away
      · exact h
    rw [if_neg away, none]

/-- A free candidate wing that is offered to a GREEDY launch, the order log off: the launch takes it where no launch that comes first could, and where
it is the wing of its own choice. -/
theorem execVisitPlacement_greedy {w : Option SuiteId} {s1 : State} (ho : ownerOf? s lead = some t) (hc : candidate s t lead shape.val = true)
    (hp : paused s lead = false) (hx : offered s t lead shape.val = some x) (hb : freeBank s (launchDual s x) lead shape.val = some b)
    (hs : sliced s t x = false) (hl : ologMode s t = 0) (hw : greedyWing s t x = (w, s1)) :
    execVisitPlacement lead shape s = .next (if claimed s t x lead then s else if w ≠ some lead then s1
      else modLaunch (placeVisit s1 t x (takeGreedy x).1 lead b) t x.id fun _ => (takeGreedy x).2.fixDie (takeGreedy x).1 lead) := by
  have log : ologMode s1 t = 0 := by
    have read := greedyWing_translated s t x
    rw [hw] at read
    exact (read.ologMode t).trans hl
  simp only [execVisitPlacement, ho, hc, hp, hx, hb, hs, hl, hw, ologChoice_off log, Bool.not_true, Bool.or_false, Bool.false_eq_true, if_false,
    OfNat.zero_ne_ofNat]

end Offer

/-! ### A Visit takes its banks -/

/-- A fold of steps that keep a reading keeps it. -/
theorem foldl_keeps {α β γ : Type} (g : β → γ) {f : β → α → β} (h : ∀ y a, g (f y a) = g y) : ∀ (l : List α) (y : β), g (l.foldl f y) = g y
  | [], _ => rfl
  | a :: l, y => (foldl_keeps g h l (f y a)).trans (h y a)

theorem setWings_keeps (s : State) (lead : SuiteId) (env shape : Nat) :
    ((setWings s lead env shape).suites, (setWings s lead env shape).pkg) = (s.suites, s.pkg) := by
  refine foldl_keeps (fun y : State => (y.suites, y.pkg)) ?_ _ s
  exact fun _ _ => rfl

/-- A new envelope changes rooms alone (R208, R211). -/
theorem setEnvelope_keeps (s : State) (lead : SuiteId) (shape : Nat) :
    ((setEnvelope s lead shape).suites, (setEnvelope s lead shape).pkg) = (s.suites, s.pkg) := by
  unfold setEnvelope
  exact (setWings_keeps _ lead shape shape).trans
    (foldl_keeps (fun y : State => (y.suites, y.pkg)) (fun y v => setWings_keeps y v 0 0) _ s)

/-- The part of a placement that concerns one member Suite (R25, R32). -/
def placeIn (im : Image) (x : Launch) (t : TenantId) (n : Nat) (lead : SuiteId) (b : Fin 2) (s : State) (v : SuiteId) : State :=
  (s.modBank (.bank v b) fun old => placedBank old im x t n lead (barriersDone s t x lead)).modSuite v fun y =>
    { y with flags := Vector.ofFn fun k => if inShare im.dual b k.val then ⟨false, false, false, 0⟩ else y.flags.get k }

theorem placeVisit_eq {s : State} {x : Launch} {im : Image} (hi : s.pkg.images[x.image]? = some im) (t : TenantId) (n : Nat) (lead : SuiteId)
    (b : Fin 2) : placeVisit s t x n lead b = (wingRooms lead x.shape.val).foldl (placeIn im x t n lead b)
      (if (wingRooms lead x.shape.val).all fun v => bankEmpty s v (otherBank b) then setEnvelope s lead x.shape.val else s) := by
  simp only [placeVisit, hi]
  rfl

section Place
variable (im : Image) (x : Launch) (t : TenantId) (n : Nat) (lead : SuiteId) (b : Fin 2)

theorem bank_placeIn_same (s : State) (v : SuiteId) : (placeIn im x t n lead b s v).bank (.bank v b) =
    placedBank (s.bank (.bank v b)) im x t n lead (barriersDone s t x lead) := by
  rw [placeIn, State.bank_modSuite _ _ _ rfl, State.bank_modBank_same]

theorem bank_placeIn_ne (s : State) {v : SuiteId} {r : BankRef} (h : r ≠ .bank v b) : (placeIn im x t n lead b s v).bank r = s.bank r := by
  rw [placeIn, State.bank_modSuite _ _ _ rfl]
  exact State.bank_setBank_ne _ _ _ _ (Ne.symm h)

theorem bank_placeAll_ne {r : BankRef} : ∀ (l : List SuiteId) (s : State), (∀ v, v ∈ l → r ≠ .bank v b) →
    (l.foldl (placeIn im x t n lead b) s).bank r = s.bank r
  | [], _, _ => rfl
  | v :: l, s, h => (bank_placeAll_ne l _ fun w hw => h w (.tail v hw)).trans (bank_placeIn_ne im x t n lead b s (h v (.head l)))

/-- Every member Suite's bank holds the Visit. -/
theorem bank_placeAll {u : SuiteId} : ∀ (l : List SuiteId) (s : State), u ∈ l →
    ∃ old phase, (l.foldl (placeIn im x t n lead b) s).bank (.bank u b) = placedBank old im x t n lead phase
  | [], _, h => absurd h List.not_mem_nil
  | v :: l, s, h => by
    by_cases later : u ∈ l
    · exact bank_placeAll l (placeIn im x t n lead b s v) later
    · obtain rfl : u = v := (List.mem_cons.mp h).resolve_right later
      refine ⟨_, _, (bank_placeAll_ne im x t n lead b l _ ?_).trans (bank_placeIn_same im x t n lead b s u)⟩
      rintro w hw e
      cases e
      exact later hw

theorem pkg_placeAll (l : List SuiteId) (s : State) : (l.foldl (placeIn im x t n lead b) s).pkg = s.pkg := by
  refine foldl_keeps State.pkg ?_ l s
  exact fun _ _ => rfl

end Place

/-- What a placement does: in every member Suite the bank holds the Visit, and no other bank and no byte of memory changes. -/
theorem placeVisit_placed {s : State} {x : Launch} {im : Image} (hi : s.pkg.images[x.image]? = some im) (t : TenantId) (n : Nat)
    (lead : SuiteId) (b : Fin 2) :
    (∀ u, u ∈ wingRooms lead x.shape.val → ∃ old phase, (placeVisit s t x n lead b).bank (.bank u b) = placedBank old im x t n lead phase) ∧
    (∀ u c, u ∉ wingRooms lead x.shape.val ∨ c ≠ b → (placeVisit s t x n lead b).bank (.bank u c) = s.bank (.bank u c)) ∧
    (placeVisit s t x n lead b).pkg = s.pkg := by
  rw [placeVisit_eq hi]
  generalize he : (if (wingRooms lead x.shape.val).all fun v => bankEmpty s v (otherBank b) then setEnvelope s lead x.shape.val else s) = z
  have keep : (z.suites, z.pkg) = (s.suites, s.pkg) := by
    rw [← he]
    split
    · exact setEnvelope_keeps s lead _
    · rfl
  obtain ⟨suites, pkg⟩ := Prod.mk.inj keep
  refine ⟨fun u hu => bank_placeAll im x t n lead b _ z hu, fun u c h => ?_, (pkg_placeAll im x t n lead b _ z).trans pkg⟩
  refine (bank_placeAll_ne im x t n lead b _ z ?_).trans (by simp only [State.bank, State.suite, suites])
  rintro v hv e
  cases e
  exact h.elim (fun out => out hv) fun other => other rfl

/-- The launch places its next iteration on the wing of its choice. -/
theorem execVisitPlacement_places {s s1 : State} {lead : SuiteId} {shape : Fin 9} {t : TenantId} {x : Launch} {b : Fin 2} {im : Image}
    (ho : ownerOf? s lead = some t) (hc : candidate s t lead shape.val = true) (hp : paused s lead = false)
    (hx : offered s t lead shape.val = some x) (hsh : x.shape = shape) (hb : freeBank s (launchDual s x) lead shape.val = some b)
    (hi : s.pkg.images[x.image]? = some im) (hs : sliced s t x = false) (hl : ologMode s t = 0) (free : claimed s t x lead = false)
    (hw : greedyWing s t x = (some lead, s1)) : ∃ z, execVisitPlacement lead shape s = .next z ∧
      (∀ u, u ∈ wingRooms lead shape.val → ∃ old phase, z.bank (.bank u b) = placedBank old im x t (takeGreedy x).1 lead phase) ∧
      (∀ u c, u ∉ wingRooms lead shape.val ∨ c ≠ b → z.bank (.bank u c) = s1.bank (.bank u c)) ∧ z.pkg.mem = s1.pkg.mem := by
  have go := execVisitPlacement_greedy ho hc hp hx hb hs hl hw
  rw [free, if_neg Bool.false_ne_true, if_neg (not_not.mpr rfl)] at go
  have images : s1.pkg.images[x.image]? = some im := by
    have read := greedyWing_translated s t x
    rw [hw] at read
    rw [read.images]
    exact hi
  obtain ⟨placed, others, pkg⟩ := placeVisit_placed images t (takeGreedy x).1 lead b
  rw [hsh] at placed others
  refine ⟨_, go, fun u hu => ?_, fun u c h => (State.bank_modTenant ..).trans (others u c h), (congrArg Package.mem pkg :)⟩
  obtain ⟨old, phase, hy⟩ := placed u hu
  exact ⟨old, phase, (State.bank_modTenant ..).trans hy⟩

/-- The word of a level: its index, or its trip count where it is not listed (R25). -/
theorem levelWord_eq (x : Launch) (n k : Nat) :
    levelWord x n k = BitVec.ofNat 64 (if x.nlev ≤ k then 0 else (x.index n k).getD (x.trips.getD k 0)) := by
  unfold levelWord
  split
  · rfl
  · cases x.index n k <;> rfl

section Placed
variable (old : Bank) (im : Image) (x : Launch) (t : TenantId) (n : Nat) (lead : SuiteId) (phase : Nat)

theorem a_placedBank (r : Fin 32) : (placedBank old im x t n lead phase).a.get r =
    if 1 ≤ r.val ∧ r.val ≤ 6 then levelWord x n (r.val - 1) else if r.val = 7 then x.param else 0 := Vector.getElem_ofFn ..

theorem e_placedBank (r : Fin 16) : (placedBank old im x t n lead phase).e.get r =
    if 1 ≤ r.val ∧ r.val ≤ 6 then levelWord x n (r.val - 1) else 0 := Vector.getElem_ofFn ..

end Placed

end Sys2Proof.Machine
end

section
/-! PROOFS. Retirement and abort of Visits, dead banks, and with them the life of a Visit (R24, R25, R34, R37, R39, R358, R361). -/

namespace Sys2Proof.Machine

/-! ### A Visit of one Suite -/

/-- The wing of shape 0 is its lead room. -/
theorem wingRooms_single (u : SuiteId) : wingRooms u 0 = [u] := by
  have lead : ∀ v : SuiteId, (dieOf v == dieOf u && decide (roomRow u ≤ roomRow v) && decide (roomRow v < roomRow u + shapeRows 0)
      && decide (roomCol u ≤ roomCol v) && decide (roomCol v < roomCol u + shapeCols 0)) = (v == u) := fun v => by
    rw [Bool.eq_iff_iff]
    simp only [Bool.and_eq_true, beq_iff_eq, decide_eq_true_eq, Fin.ext_iff]
    simp only [dieOf, roomRow, roomCol, shapeRows, shapeCols, List.getD_cons_zero]
    omega
  unfold wingRooms
  simp only [lead]
  rw [List.filter_beq, List.count_eq_one_of_mem (List.nodup_finRange 64) (List.mem_finRange u), List.replicate_one]

/-- A Visit of one room is on its lead Suite alone. -/
theorem visitSuites_single {s : State} {u : SuiteId} {b : Fin 2} {v : Visit} (hv : (s.bank (.bank u b)).visit = some v) (hl : v.lead = u)
    (hs : v.shape = 0) : visitSuites s b v = [u] := by
  subst hl
  have same : sameVisit v v = true := by simp only [sameVisit, BEq.rfl, Bool.and_self]
  have room : wingRooms v.lead v.shape.val = [v.lead] := by rw [hs]; exact wingRooms_single v.lead
  simp only [visitSuites, room, List.filter_cons, hv, same, if_true, List.filter_nil]

/-! ### A bank is released -/

/-- The stores that a Visit leaves behind when it retires, in program order (R34). -/
def storesLeft (k : Bank) (v : Visit) (b : Fin 2) : List Leftover :=
  ((sortSeq (k.sq ++ k.replay)).filter fun e => match e.op with | .st .. => true | .stt .. => true | _ => false).map fun e => ⟨v, b, e⟩

/-- The state in which a bank is freed: its Suite with the stores left behind and the chanter let go, its atomics and demands discarded, its monitor
gone. -/
theorem releaseBank_eq (s : State) (u : SuiteId) (b : Fin 2) (stores : Bool) (v : Visit) (hv : (s.bank (.bank u b)).visit = some v) :
    ∃ rooms monitors chanter, releaseBank s u b stores =
      ({ s with rooms := rooms, pkg := { s.pkg with monitors := monitors } }.modSuite u fun x =>
        { x with leftover := x.leftover ++ if stores then storesLeft (s.bank (.bank u b)) v b else [], chanter := chanter }).modBank (.bank u b) freed := by
  unfold releaseBank
  simp only [hv]
  split
  · exact ⟨_, _, _, rfl⟩
  · exact ⟨_, _, _, rfl⟩

/-- Freeing a bank leaves its Suite but for the bank. -/
theorem suite_modBank (s : State) (r : BankRef) (f : Bank → Bank) (u : SuiteId) :
    { (s.modBank r f).suite u with banks := (s.suite u).banks } = s.suite u := State.suite_setBank ..

/-- What is left of a bank whose Visit is gone (R34, R361). -/
structure Released (s z : State) (u : SuiteId) (b : Fin 2) (left : List Leftover) : Prop where
  bank : ∃ k, z.bank (.bank u b) = freed k
  leftover : (z.suite u).leftover = (s.suite u).leftover ++ left
  mq : (z.suite u).mq = (s.suite u).mq
  mrun : (z.suite u).mrun = (s.suite u).mrun
  cqueue : (z.suite u).cqueue = (s.suite u).cqueue
  crun : (z.suite u).crun = (s.suite u).crun
  tenants : z.tenants = s.tenants
  ctxs : z.ctxs = s.ctxs

theorem releaseBank_released {s : State} {u : SuiteId} {b : Fin 2} {v : Visit} (stores : Bool) (hv : (s.bank (.bank u b)).visit = some v) :
    Released s (releaseBank s u b stores) u b (if stores then storesLeft (s.bank (.bank u b)) v b else []) := by
  obtain ⟨rooms, monitors, chanter, h⟩ := releaseBank_eq s u b stores v hv
  generalize hx : ({ s with rooms := rooms, pkg := { s.pkg with monitors := monitors } }.modSuite u fun x =>
    { x with leftover := x.leftover ++ if stores then storesLeft (s.bank (.bank u b)) v b else [], chanter := chanter }) = x at h
  have suite : x.suite u = { s.suite u with
      leftover := (s.suite u).leftover ++ if stores then storesLeft (s.bank (.bank u b)) v b else [], chanter := chanter } := by
    rw [← hx, State.suite_modSuite, if_pos rfl]
    rfl
  have rest := suite_modBank x (.bank u b) freed u
  rw [← h, suite] at rest
  refine ⟨⟨_, by rw [h, State.bank_modBank_same]⟩, (congrArg Suite.leftover rest :), (congrArg Suite.mq rest :),
    (congrArg Suite.mrun rest :), (congrArg Suite.cqueue rest :), (congrArg Suite.crun rest :), ?_, ?_⟩
  · rw [h, State.modBank_tenants, ← hx]; rfl
  · rw [h, ← hx]; rfl

theorem Released.launches {s z : State} {u : SuiteId} {b : Fin 2} {left : List Leftover} (h : Released s z u b left) (t : TenantId) :
    (z.tenant t).launches = (s.tenant t).launches := by
  rw [State.tenant, h.tenants]
  rfl

/-! ### Retirement -/

theorem findLaunch_congr {s z : State} {t : TenantId} (id : W32) (h : (z.tenant t).launches = (s.tenant t).launches) :
    findLaunch z t id = findLaunch s t id := by
  rw [findLaunch, findLaunch, h]

section Retire
variable {s : State} {u : SuiteId} {b : Fin 2} {v : Visit}

/-- The retirement of a Visit of one room. -/
theorem execVisitRetire_single (hv : (s.bank (.bank u b)).visit = some v) (hl : v.lead = u) (hs : v.shape = 0) :
    execVisitRetire u b s = .next (if paused s u = true ∨ partOver s u b = false then s
      else settleLaunch (modLaunch (releaseBank s u b true) v.tenant v.launch fun x => { x with retired := x.retired + 1 })
        v.tenant v.launch u.val) := by
  have suites := visitSuites_single hv hl hs
  simp only [execVisitRetire, hv, suites, hl, ne_eq, not_true_eq_false, false_or, List.all_cons, List.all_nil, Bool.and_true, Bool.not_eq_eq_eq_not,
    Bool.not_true, List.foldl_cons, List.foldl_nil]

/-- A Visit that is over leaves its bank and counts as retired; its launch goes on while others are to retire. -/
theorem execVisitRetire_leaves (hv : (s.bank (.bank u b)).visit = some v) (hl : v.lead = u) (hs : v.shape = 0) (ends : partOver s u b = true)
    (runs : paused s u = false) {x : Launch} (hx : findLaunch s v.tenant v.launch = some x) (more : x.retired + 1 < x.total)
    (sound : x.failed = false) : execVisitRetire u b s =
      .next (modLaunch (releaseBank s u b true) v.tenant v.launch fun x => { x with retired := x.retired + 1 }) := by
  have there := (findLaunch_congr v.launch ((releaseBank_released true hv).launches v.tenant)).trans hx
  have retired := findLaunch_modLaunch (f := fun x => { x with retired := x.retired + 1 }) (fun _ => rfl) there
  have busy : ¬ (paused s u = true ∨ partOver s u b = false) := by
    rw [runs, ends]
    decide
  rw [execVisitRetire_single hv hl hs, if_neg busy, settleLaunch_waits _ retired more sound]

end Retire

/-! ### News to the supervisors -/

/-- Between two states lie only events and what is recorded of launches: every Suite and room is as it was, and so is where events are forwarded. -/
structure Told (s t : State) : Prop where
  suites : t.suites = s.suites
  hostfwd : ∀ c, (t.ctx c).hostfwd = (s.ctx c).hostfwd

theorem Told.refl (s : State) : Told s s := ⟨rfl, fun _ => rfl⟩

theorem Told.trans {s t v : State} (h : Told s t) (g : Told t v) : Told s v :=
  ⟨g.suites.trans h.suites, fun c => (g.hostfwd c).trans (h.hostfwd c)⟩

theorem Told.suite {s t : State} (h : Told s t) (u : SuiteId) : t.suite u = s.suite u := by
  rw [State.suite, h.suites]
  rfl

theorem Told.bank {s t : State} (h : Told s t) (u : SuiteId) (b : Fin 2) : t.bank (.bank u b) = s.bank (.bank u b) := by
  rw [State.bank, State.bank, h.suite]

theorem modTenant_told (s : State) (t : TenantId) (f : Tenant → Tenant) : Told s (s.modTenant t f) := ⟨rfl, fun _ => rfl⟩

theorem modPkg_told (s : State) (f : Package → Package) : Told s (s.modPkg f) := ⟨rfl, fun _ => rfl⟩

theorem postEvent_told (s : State) (target : CtxId) (kind tenant source : Nat) (payload : BitVec 128) :
    Told s (postEvent s target kind tenant source payload) := by
  obtain ⟨_, _, h, hc⟩ := postEvent_eq s target kind tenant source payload
  rw [h]
  refine ⟨rfl, fun c => ?_⟩
  obtain ⟨_, hk⟩ := hc c
  rw [State.ctx, hk]

theorem postEnd_told (s : State) (t : TenantId) (id : W32) (status source : Nat) : Told s (postEnd s t id status source) :=
  (modTenant_told s t _).trans (postEvent_told ..)

theorem failAll_told (t : TenantId) : ∀ (l : List W32) (s : State), Told s (l.foldl (fun s k => postEnd s t k 2 (256 + t.val)) s)
  | [], s => .refl s
  | k :: l, s => (postEnd_told s t k 2 _).trans (failAll_told t l _)

theorem failDependents_told (t : TenantId) : ∀ (n : Nat) (l : List W32) (s : State), Told s (failDependents t n l s)
  | 0, _, s => .refl s
  | _ + 1, [], s => .refl s
  | n + 1, _ :: _, s => (failAll_told t _ s).trans (failDependents_told t n _ _)

theorem endLaunch_told (s : State) (t : TenantId) (id : W32) (status source : Nat) : Told s (endLaunch s t id status source) := by
  unfold endLaunch
  dsimp only
  split
  · exact postEnd_told s t id status source
  · exact (postEnd_told s t id status source).trans (failDependents_told t 300 [id] _)

theorem settleLaunch_told (s : State) (t : TenantId) (id : W32) (source : Nat) : Told s (settleLaunch s t id source) := by
  unfold settleLaunch
  split
  · exact .refl s
  · split
    · exact endLaunch_told ..
    · split
      · exact endLaunch_told ..
      · exact .refl s

/-! ### Abort -/

theorem lowerBusy_translated (s : State) (t : TenantId) (seg : Nat) : Translated s (lowerBusy s t seg) := by
  unfold lowerBusy
  dsimp only
  split
  · exact .refl s
  · exact devWrite_translated s _ _

/-- The busy count of a copy that is removed. -/
def lowerFor (s : State) (c : Cmd) : State := match c.op with | .cpy j => lowerBusy s c.tenant j.seg | _ => s

theorem lowerAll_translated : ∀ (l : List Cmd) (s : State), Translated s (l.foldl lowerFor s)
  | [], s => .refl s
  | c :: l, s => by
    refine Translated.trans ?_ (lowerAll_translated l (lowerFor s c))
    unfold lowerFor
    split
    · exact lowerBusy_translated ..
    · exact .refl s

/-- The commands of a queue that stay when a bank's Visit is aborted: those of the other bank (R361). -/
def othersOf (b : Fin 2) (l : List Cmd) : List Cmd := l.filter fun c => c.bank != b

/-- Running commands once a bank's Visit is aborted: its own complete unacknowledged (R361). -/
def discardOf (b : Fin 2) (l : List Cmd) : List Cmd := l.map fun c => if c.bank = b then { c with discard := true, trapLevel := 0 } else c

theorem abortCommands_eq (s : State) (u : SuiteId) (b : Fin 2) : ∃ z, Translated s z ∧ abortCommands s u b = z.modSuite u fun x =>
    { x with mq := othersOf b x.mq, cqueue := othersOf b x.cqueue, mrun := discardOf b x.mrun,
             crun := discardOf b (x.crun.filter fun c => !(c.bank == b && c.trapLevel != 0)) } :=
  ⟨_, lowerAll_translated _ s, rfl⟩

theorem bank_releaseHalts (s : State) (u : SuiteId) (b : Fin 2) (r : BankRef) : (releaseHalts s u b).bank r = s.bank r := by
  cases r <;> rfl

theorem suite_releaseHalts (s : State) (u : SuiteId) (b : Fin 2) (v : SuiteId) : (releaseHalts s u b).suite v = s.suite v := rfl

theorem bank_othersOf {b : Fin 2} {l : List Cmd} {c : Cmd} (h : c ∈ othersOf b l) : c.bank ≠ b := by
  simpa using (List.mem_filter.mp h).2

theorem discard_discardOf {b : Fin 2} {l : List Cmd} {c : Cmd} (h : c ∈ discardOf b l) (hb : c.bank = b) : c.discard = true := by
  obtain ⟨d, -, rfl⟩ := List.mem_map.mp h
  split at hb
  next e => rw [if_pos e]
  next e => exact absurd hb e

/-- A bank that an abort frees, before anything is told of it. -/
def vacate (s : State) (u : SuiteId) (b : Fin 2) : State := releaseBank (releaseHalts (abortCommands s u b) u b) u b false

/-- What an abort leaves of a Visit of one room (R361). -/
structure Vacated (s z : State) (u : SuiteId) (b : Fin 2) : Prop where
  bank : ∃ k, z.bank (.bank u b) = freed k
  queued : ∀ c, c ∈ (z.suite u).mq ++ (z.suite u).cqueue → c.bank ≠ b
  running : ∀ c, c ∈ (z.suite u).mrun ++ (z.suite u).crun → c.bank = b → c.discard = true
  launches : ∀ t, (z.tenant t).launches = (s.tenant t).launches
  hostfwd : ∀ c, (z.ctx c).hostfwd = (s.ctx c).hostfwd

theorem vacate_vacated {s : State} {u : SuiteId} {b : Fin 2} {v : Visit} (hv : (s.bank (.bank u b)).visit = some v) :
    Vacated s (vacate s u b) u b := by
  obtain ⟨z, hz, ha⟩ := abortCommands_eq s u b
  have errs := hz.errs
  obtain ⟨_, _, _, _, _, _, _, _, _, _, rfl⟩ := hz.rest
  have bank : (releaseHalts (abortCommands s u b) u b).bank (.bank u b) = s.bank (.bank u b) := by
    rw [bank_releaseHalts, ha, State.bank_modSuite _ _ _ rfl]
    rfl
  have suite : (releaseHalts (abortCommands s u b) u b).suite u = { s.suite u with
      mq := othersOf b (s.suite u).mq, cqueue := othersOf b (s.suite u).cqueue, mrun := discardOf b (s.suite u).mrun,
      crun := discardOf b ((s.suite u).crun.filter fun c => !(c.bank == b && c.trapLevel != 0)) } := by
    rw [suite_releaseHalts, ha, State.suite_modSuite, if_pos rfl]
    rfl
  obtain ⟨free, -, mq, mrun, cqueue, crun, tenants, ctxs⟩ := releaseBank_released false (bank ▸ hv)
  rw [suite] at mq mrun cqueue crun
  refine ⟨free, fun c hc => ?_, fun c hc hb => ?_, fun t => ?_, fun c => ?_⟩
  · rw [vacate, mq, cqueue] at hc
    exact (List.mem_append.mp hc).elim bank_othersOf bank_othersOf
  · rw [vacate, mrun, crun] at hc
    exact (List.mem_append.mp hc).elim (discard_discardOf · hb) (discard_discardOf · hb)
  · have same : (vacate s u b).tenant t = (releaseHalts (abortCommands s u b) u b).tenant t := by rw [State.tenant, vacate, tenants]; rfl
    rw [same, ha]
    exact (congrArg Tenant.launches (errs t) :)
  · have same : (vacate s u b).ctx c = (releaseHalts (abortCommands s u b) u b).ctx c := by rw [State.ctx, vacate, ctxs]; rfl
    rw [same, ha]
    rfl

/-- A wing without runs has none of a bank's to end. -/
theorem endBankRuns_idle {s : State} {lead : SuiteId} (b : Fin 2) (h : (s.room lead).runs = []) : endBankRuns s lead b = s := by
  simp only [endBankRuns, h, List.filter_nil, List.isEmpty_nil, if_true]

/-- Whether the iteration of a Visit belongs to a slice of its launch. -/
def inSlice (s : State) (v : Visit) : Bool :=
  match findLaunch s v.tenant v.launch with
  | some x => x.slices.any fun y => y.lead == v.lead && y.dIndex == x.dIndex v.iter
  | none => false

/-- A launch once a Visit of it is aborted: it has the iteration back, or fails without it (R361). -/
def giveBack (v : Visit) (slice replace : Bool) (x : Launch) : Launch :=
  if replace then
    if slice then
      { x with slices := x.slices.map fun y => if y.lead = v.lead ∧ y.dIndex = x.dIndex v.iter then { y with again := v.iter :: y.again } else y }
    else { x with again := v.iter :: x.again }
  else { x with gone := x.gone + 1, failed := true }

theorem id_giveBack (v : Visit) (slice replace : Bool) (x : Launch) : (giveBack v slice replace x).id = x.id := by
  unfold giveBack
  split
  · split <;> rfl
  · rfl

section Abort
variable {s : State} {u : SuiteId} {b : Fin 2} {v : Visit}

/-- The state in which an abort settles its launch. -/
def gaveBack (s : State) (u : SuiteId) (b : Fin 2) (v : Visit) (replace : Bool) : State :=
  (modLaunch (vacate s u b) v.tenant v.launch (giveBack v (inSlice (vacate s u b) v) replace)).modPkg fun p =>
    { p with away := p.away.filter fun w => !sameVisit v w }

theorem abortVisit_single (hv : (s.bank (.bank u b)).visit = some v) (hl : v.lead = u) (hs : v.shape = 0) (idle : (s.room u).runs = [])
    (replace : Bool) : abortVisit s b v replace = settleLaunch (gaveBack s u b v replace) v.tenant v.launch u.val := by
  have runs : ∀ p : Prop, [Decidable p] → (if u = leadOf s u ∧ p then endBankRuns s (leadOf s u) b else s) = s := fun p _ => by
    split
    next h => rw [← h.1, endBankRuns_idle b idle]
    next => rfl
  unfold abortVisit
  simp only [visitSuites_single hv hl hs, List.foldl_cons, List.foldl_nil, runs]
  subst hl
  rfl

/-- What is told of an abort leaves the Suites as they were freed. -/
theorem abortVisit_told (hv : (s.bank (.bank u b)).visit = some v) (hl : v.lead = u) (hs : v.shape = 0) (idle : (s.room u).runs = [])
    (replace : Bool) : Told (vacate s u b) (abortVisit s b v replace) := by
  have back : Told (vacate s u b) (gaveBack s u b v replace) := (modTenant_told ..).trans (modPkg_told ..)
  rw [abortVisit_single hv hl hs idle]
  exact back.trans (settleLaunch_told _ _ _ _)

/-- With replace set, a launch without slices stays, the iteration first among those to be placed again. -/
theorem findLaunch_abortVisit (hv : (s.bank (.bank u b)).visit = some v) (hl : v.lead = u) (hs : v.shape = 0) (idle : (s.room u).runs = [])
    {x : Launch} (hx : findLaunch s v.tenant v.launch = some x) (whole : x.slices = []) (more : x.retired < x.total) (sound : x.failed = false) :
    findLaunch (abortVisit s b v true) v.tenant v.launch = some { x with again := v.iter :: x.again } := by
  have there : findLaunch (vacate s u b) v.tenant v.launch = some x :=
    (findLaunch_congr v.launch ((vacate_vacated hv).launches v.tenant)).trans hx
  have greedy : inSlice (vacate s u b) v = false := by simp only [inSlice, there, whole, List.any_nil]
  have given : giveBack v false true x = { x with again := v.iter :: x.again } := rfl
  have back : findLaunch (gaveBack s u b v true) v.tenant v.launch = some { x with again := v.iter :: x.again } := by
    rw [gaveBack, findLaunch_congr v.launch (congrArg Tenant.launches (State.tenant_modPkg ..)), greedy,
      findLaunch_modLaunch (id_giveBack v false true) there, given]
  rw [abortVisit_single hv hl hs idle, settleLaunch_waits _ back more sound]
  exact back

/-- The event of an abort comes last to the hypervisor (R329). -/
theorem execVisitAbort_eq (hv : (s.bank (.bank u b)).visit = some v) (replace : Bool) :
    execVisitAbort u b replace s = .next (postEvent (abortVisit s b v replace) hypervisor 7 v.tenant.val u.val 4) := by
  have tenant : tenantOf s (.bank u b) = v.tenant := by
    show (match (s.bank (.bank u b)).visit with | some v => v.tenant | none => 0) = _
    rw [hv]
  simp only [execVisitAbort, hv, tenant]
  rfl

end Abort

/-! ### Dead banks -/

theorem State.setSuite_self (s : State) (u : SuiteId) : s.setSuite u (s.suite u) = s := by
  show { s with suites := s.suites.set u.val s.suites[u.val] u.isLt } = s
  rw [Vector.set_getElem_self]

theorem State.setBank_self (s : State) (u : SuiteId) (b : Fin 2) : s.setBank (.bank u b) (s.bank (.bank u b)) = s := by
  have banks : (s.suite u).banks.set b.val ((s.suite u).banks.get b) b.isLt = (s.suite u).banks := by
    show (s.suite u).banks.set b.val (s.suite u).banks[b.val] b.isLt = _
    rw [Vector.set_getElem_self]
  simp only [State.setBank, State.bank, banks]
  exact State.setSuite_self s u

section Dead
variable {s : State} {u : SuiteId} {b : Fin 2}

/-- The cycles of a bank count towards FEDEAD while it holds a Visit, its core runs and no trap holds it (R358). -/
def deadCounts (s : State) (u : SuiteId) (b : Fin 2) : Prop :=
  (s.bank (.bank u b)).visit ≠ none ∧ (s.suite u).stopped = false ∧ (s.bank (.bank u b)).traps = []

/-- A bank with another count of dead cycles. -/
def countDead (s : State) (u : SuiteId) (b : Fin 2) (n : Nat) : State := s.modBank (.bank u b) fun x => { x with deadCount := n }

theorem not_deadCounts_iff : ¬ deadCounts s u b ↔
    (s.bank (.bank u b)).visit.isNone = true ∨ (s.suite u).stopped = true ∨ (!(s.bank (.bank u b)).traps.isEmpty) = true := by
  simp only [deadCounts, ne_eq, Classical.not_and_iff_not_or_not, not_not, Option.isNone_iff_eq_none, Bool.not_eq_false, Bool.not_eq_true',
    List.isEmpty_eq_false_iff]

theorem countDead_same (h : (s.bank (.bank u b)).deadCount = 0) : countDead s u b 0 = s := by
  have same : { s.bank (.bank u b) with deadCount := 0 } = s.bank (.bank u b) := by rw [← h]
  rw [countDead, State.modBank, same]
  exact State.setBank_self s u b

theorem execFedead_rests (h : ¬ deadCounts s u b) : execFedead u b s = .next s := by
  rw [not_deadCounts_iff] at h
  simp only [execFedead]
  rw [if_pos h]

theorem execFedead_alive (hc : deadCounts s u b) (h : deadNow s u b = false) : execFedead u b s = .next (countDead s u b 0) := by
  have on := mt not_deadCounts_iff.mpr (not_not.mpr hc)
  simp only [execFedead, h, Bool.not_false, if_true]
  rw [if_neg on]
  split
  next zero => rw [countDead_same zero]
  next => rfl

theorem execFedead_counts (hc : deadCounts s u b) (h : deadNow s u b = true) (more : (s.bank (.bank u b)).deadCount + 1 < 2 ^ 20) :
    execFedead u b s = .next (s.modBank (.bank u b) fun x => { x with deadCount := x.deadCount + 1 }) := by
  have on := mt not_deadCounts_iff.mpr (not_not.mpr hc)
  simp only [execFedead, h, Bool.not_true, Bool.false_eq_true, if_false]
  rw [if_neg on, if_pos more]

/-- The trap of the blocked stream, the A-stream first, with the position of the other where that is blocked too (R358). -/
theorem execFedead_traps (hc : deadCounts s u b) (h : deadNow s u b = true) (full : 2 ^ 20 ≤ (s.bank (.bank u b)).deadCount + 1) :
    execFedead u b s = .next (
      if (s.bank (.bank u b)).sa.blocked then
        takeTrap (countDead s u b 0) ⟨.bank u b, .a⟩ 0x60
          (if (s.bank (.bank u b)).sx.blocked then BitVec.ofNat 64 (s.bank (.bank u b)).sx.pos else 0) (s.bank (.bank u b)).sa.pos
      else
        takeTrap (countDead s u b 0) ⟨.bank u b, .x⟩ 0x60
          (if (s.bank (.bank u b)).sa.blocked then BitVec.ofNat 64 (s.bank (.bank u b)).sa.pos else 0) (s.bank (.bank u b)).sx.pos) := by
  have on := mt not_deadCounts_iff.mpr (not_not.mpr hc)
  simp only [execFedead, h, Bool.not_true, Bool.false_eq_true, if_false]
  rw [if_neg on, if_neg (Nat.not_lt.mpr full)]
  by_cases stands : (s.bank (.bank u b)).sa.blocked = true
  · simp only [stands, if_true, Bank.stream, countDead, cFEDEAD]
  · simp only [stands, if_false, Bank.stream, countDead, cFEDEAD, Bool.false_eq_true]

end Dead

/-! ### The statement -/

/-- Settles O47: a placement is a fold over the member Suites of the wing that the greedy choice names; retirement and abort release the bank and settle
the launch, which changes no Suite; and FEDEAD is the trap of a counted bank. -/
theorem visitsLive : Obligations.VisitsLive := by
  refine ⟨?_, ?_, ?_, ?_⟩
  · intro s lead shape t x b im i n
    refine ⟨fun h ho => execVisitPlacement_stays ho h, fun ho hc hp hx hsh hb hi hs hl => ?_⟩
    refine ⟨fun taken => ?_, fun w s1 free hw => ⟨fun away => ?_, fun here => ?_⟩⟩
    · exact (execVisitPlacement_greedy ho hc hp hx hb hs hl rfl).trans (by rw [if_pos taken])
    · exact (execVisitPlacement_greedy ho hc hp hx hb hs hl hw).trans (by rw [free, if_neg Bool.false_ne_true, if_pos away])
    · subst here
      obtain ⟨z, go, placed, others, mem⟩ := execVisitPlacement_places ho hc hp hx hsh hb hi hs hl free hw
      refine ⟨z, go, fun u hu => ?_, others, mem⟩
      intro y level
      obtain ⟨old, phase, bank⟩ := placed u hu
      have word : ∀ k, levelWord x n k = BitVec.ofNat 64 (level k) := fun k => by
        rw [levelWord_eq]
        cases hk : x.index n k <;> simp only [level, hk, Option.getD_none, Option.getD_some]
      rw [show y = placedBank old im x t n lead phase from bank]
      exact ⟨fun _ => by rw [a_placedBank, word], fun _ => by rw [e_placedBank, word], rfl, rfl, rfl, rfl, rfl, rfl, rfl, rfl, rfl,
        _, rfl, rfl, rfl, rfl, rfl, hsh⟩
  · intro s u b v hv hl hs over1 r
    refine ⟨fun stays => (execVisitRetire_single hv hl hs).trans (by rw [if_pos stays.symm]), fun x ends runs hx more sound => ?_⟩
    have gone := releaseBank_released true hv
    obtain ⟨k, free⟩ := gone.bank
    have bank : ∀ f, (modLaunch (releaseBank s u b true) v.tenant v.launch f).bank r = freed k := fun f => (State.bank_modTenant ..).trans free
    refine ⟨_, execVisitRetire_leaves hv hl hs ends runs hx more sound, congrArg (·.visit) (bank _), congrArg (·.sa.running) (bank _),
      congrArg (·.lq) (bank _), congrArg (·.sq) (bank _), gone.leftover, ?_⟩
    rw [launches_modLaunch, gone.launches]
  · intro s u b replace v hv hl hs idle
    obtain ⟨⟨k, free⟩, queued, running, -, hostfwd⟩ := vacate_vacated hv
    have abort := abortVisit_told hv hl hs idle replace
    have told := abort.trans (postEvent_told _ hypervisor 7 v.tenant.val u.val 4)
    have bank := (told.bank u b).trans free
    refine ⟨_, execVisitAbort_eq hv replace, congrArg (·.visit) bank, congrArg (·.traps) bank, by rw [told.suite]; exact queued,
      by rw [told.suite]; exact running, ?_, fun x hx whole again live sound more => ?_⟩
    · refine ⟨((abortVisit s b v replace).ctx hypervisor).events, (abortVisit s b v replace).pkg.eventSeq, ?_⟩
      rw [events_postEvent, eventFor, abort.hostfwd, hostfwd]
    · subst again
      refine ⟨{ x with again := v.iter :: x.again }, ?_, rfl, sound⟩
      rw [findLaunch_congr v.launch (congrArg Tenant.launches (tenant_postEvent ..))]
      exact findLaunch_abortVisit hv hl hs idle hx whole more sound
  · intro s u b r k counts
    exact ⟨execFedead_rests, execFedead_alive, execFedead_counts, execFedead_traps⟩

end Sys2Proof.Machine
end

section
/-! PROOFS. Stage-1 checks and the waits of every instruction: the trap, or the marks of a held stream (R119, R122, R345, R349, R364). -/

namespace Sys2Proof.Machine

/-! ### Privileged instructions -/

/-- Every privileged instruction is one of the A map, as its constructor says. -/
theorem privileged_map (i : Instr) : (!i.privileged || i.map == some .a) = true := by
  cases i <;> rfl

theorem map_of_privileged {i : Instr} (hp : i.privileged = true) : i.map = some .a := by
  have fact := privileged_map i
  rwa [hp, Bool.not_true, Bool.false_or, beq_iff_eq] at fact

/-- What stage 1 asks of it before its privilege: it is not refused to a Suite's A-stream and names no tile, mask or accumulator. -/
theorem privileged_facts (s : State) (u : SuiteId) (b : Fin 2) (i : Instr) : (!i.privileged || (!agentRefuses s ⟨.bank u b, .a⟩ i &&
    i.tileRegs.isEmpty && i.accRegs.isEmpty && i.maskRegs.isEmpty)) = true := by
  cases i <;> rfl

section Privileged
variable (s : State) (u : SuiteId) (b : Fin 2) {i : Instr} (hp : i.privileged = true)
include hp

theorem agentRefuses_privileged : agentRefuses s ⟨.bank u b, .a⟩ i = false := by
  have facts := privileged_facts s u b i
  simp only [hp, Bool.not_true, Bool.false_or, Bool.and_eq_true, Bool.not_eq_true'] at facts
  obtain ⟨⟨⟨allowed, -⟩, -⟩, -⟩ := facts
  exact allowed

theorem regRefused_privileged : regRefused s ⟨.bank u b, .a⟩ i = false := by
  have facts := privileged_facts s u b i
  simp only [hp, Bool.not_true, Bool.false_or, Bool.and_eq_true, List.isEmpty_iff] at facts
  obtain ⟨⟨⟨-, tiles⟩, accs⟩, masks⟩ := facts
  simp [regRefused, tiles, accs, masks]

end Privileged

/-- So what stage 1 finds in a Suite is PRIV (R116, R119). -/
theorem stage1_privileged (s : State) (u : SuiteId) (b : Fin 2) {i : Instr} (hp : i.privileged = true) (hw : i.WellFormed) :
    stage1 s ⟨.bank u b, .a⟩ i = some cPRIV := by
  unfold stage1
  split
  · exact absurd hp Bool.false_ne_true
  · simp [agentRefuses_privileged s u b hp, regRefused_privileged s u b hp, hp, show i.fieldsOk = true from hw, BankRef.isCtx]

/-! ### What a trap of stage 1 comes to -/

section Stage1
variable {i : Instr} {s : State} {c : BitVec 8} (hm : i.map = some .a ∨ i.map = some .x) (hc : stage1 s s.cur i = some c)
include hm hc

theorem exec_stage1_taken (h : trapHeld s s.cur c = false) : exec i s = .next (takeTrap s s.cur c 0 (posOf s s.cur)) := by
  obtain ⟨p, run⟩ := exec_issue i s hm
  rw [run, issue_stage1 hc, issueTrap, h]
  rfl

theorem exec_stage1_held (h : trapHeld s s.cur c = true) : exec i s = .next (markHeld s s.cur holdPlain) := by
  obtain ⟨p, run⟩ := exec_issue i s hm
  rw [run, issue_stage1 hc, issueTrap, h]
  rfl

end Stage1

/-- A Suite stream's trap waits for nothing. -/
theorem trapHeld_bank {s : State} {ag : Agent} {u : SuiteId} {b : Fin 2} (h : ag.bank = .bank u b) (c : BitVec 8) : trapHeld s ag c = false := by
  simp only [trapHeld, h, BankRef.isCtx, Bool.false_and]

/-! ### The marks of a held stream -/

theorem markHeld_chanter {s : State} {ag : Agent} (k : ag.kind = .chanter) (h : Hold) : markHeld s ag h = s := if_pos k

theorem markHeld_plain {s : State} {ag : Agent} {h : Hold} (k : ag.kind ≠ .chanter) (plain : h.flag = false) :
    markHeld s ag h = s.modStream ag fun x => { x with blocked := h.blocked, flagHeld := h.flag } := by
  simp only [markHeld, k, plain, if_false, Bool.false_eq_true]

theorem markHeld_flag {s : State} {ag : Agent} {h : Hold} (k : ag.kind ≠ .chanter) (flag : h.flag = true) :
    markHeld s ag h = countEvents (s.modStream ag fun x => { x with blocked := h.blocked, flagHeld := h.flag }) ag.bank 7 1 := by
  simp only [markHeld, k, flag, if_false, if_true]

theorem countEvents_bank (s : State) (u : SuiteId) (b : Fin 2) : countEvents s (.bank u b) 7 1 =
    if (s.suite u).stopped then s else s.modSuite u fun x => { x with counters := countIn x.counters 7 1 } := rfl

theorem countEvents_context (s : State) (c : CtxId) : countEvents s (.ctx c) 7 1 =
    if (s.ctx c).running then s.modCtx c fun x => { x with counters := countIn x.counters 7 1 } else s := rfl

/-- Neither the clock of a Suite core nor the run of a context is a matter of its streams. -/
theorem stopped_modStream (s : State) (ag : Agent) (f : Stream → Stream) (u : SuiteId) :
    ((s.modStream ag f).suite u).stopped = (s.suite u).stopped := by
  have := congrArg Suite.stopped (State.suite_setBank s ag.bank ((s.bank ag.bank).setStream ag.kind (f ((s.bank ag.bank).stream ag.kind))) u)
  exact this

theorem running_modStream (s : State) (ag : Agent) (f : Stream → Stream) (c : CtxId) :
    ((s.modStream ag f).ctx c).running = (s.ctx c).running := by
  have := congrArg Ctx.running (State.ctx_setBank_kept s ag.bank ((s.bank ag.bank).setStream ag.kind (f ((s.bank ag.bank).stream ag.kind))) c)
  exact this

/-- Settles O10: stage 1 answers before every wait, a privileged instruction meets PRIV there, and a wait leaves the marks of the stream and, on a flag, one
counted event. -/
theorem checksAndWaits : Obligations.ChecksAndWaits := by
  refine ⟨fun i s c hm hc => ⟨exec_stage1_taken hm hc, exec_stage1_held hm hc⟩, fun i s u b hp hw hs => ?_, fun i s h hm _ h1 hh => ?_,
    fun s r k h => ?_⟩
  · have trap : stage1 s s.cur i = some 0x04 := by rw [hs]; exact stage1_privileged s u b hp hw
    rw [exec_stage1_taken (.inl (map_of_privileged hp)) trap (trapHeld_bank (by rw [hs]) _), hs]
    rfl
  · obtain ⟨p, run⟩ := exec_issue i s hm
    rw [run, issue_held h1 hh]
  · intro marked counted
    refine ⟨fun hk => markHeld_chanter hk h, fun hk => markHeld_plain hk, fun hk flag => ⟨fun u b hr => ?_, fun c hr => ?_⟩⟩
    · subst hr
      have clock : (marked.suite u).stopped = (s.suite u).stopped := stopped_modStream ..
      rw [markHeld_flag hk flag, show countEvents _ _ 7 1 = _ from countEvents_bank marked u b, clock]
      exact ⟨fun run => if_neg (by simp [run]), fun stop => if_pos stop⟩
    · subst hr
      have run : (marked.ctx c).running = (s.ctx c).running := running_modStream ..
      rw [markHeld_flag hk flag, show countEvents _ _ 7 1 = _ from countEvents_context marked c, run]
      exact ⟨fun on => if_pos on, fun off => if_neg (by simp [off])⟩

end Sys2Proof.Machine
end

section
/-! PROOFS. The values that integer, immediate, divide and scalar instructions write, and the completion of a divide (R128-R131, R187). -/

namespace Sys2Proof.Machine

/-! ### The model's functions of two words, as the manual states them -/

theorem boolWord_slt (x y : Word) : boolWord (x.slt y) = if x.toInt < y.toInt then 1 else 0 := by
  simp only [boolWord, BitVec.slt_iff_toInt_lt]

theorem boolWord_ult (x y : Word) : boolWord (x.ult y) = if x.toNat < y.toNat then 1 else 0 := by
  simp only [boolWord, BitVec.ult_iff_toNat_lt]

/-- Of two equal words it does not matter which is the lesser. -/
theorem ite_lt_eq_ite_le {α : Type} {x y : α} (f : α → Int) (hf : ∀ {a b}, f a = f b → a = b) :
    ((if f x < f y then x else y) = if f x ≤ f y then x else y) ∧ ((if f x < f y then y else x) = if f x ≤ f y then y else x) := by
  rcases lt_trichotomy (f x) (f y) with h | h | h
  · simp [h, h.le]
  · have := hf h
    subst this
    simp
  · simp [h.not_gt, h.not_ge]

theorem signed_min_max (x y : Word) :
    ((if x.slt y then x else y) = if x.toInt ≤ y.toInt then x else y) ∧ ((if x.slt y then y else x) = if x.toInt ≤ y.toInt then y else x) := by
  simp only [BitVec.slt_iff_toInt_lt]
  exact ite_lt_eq_ite_le BitVec.toInt fun h => BitVec.toInt_inj.mp h

theorem unsigned_min_max (x y : Word) :
    ((if x.ult y then x else y) = if x.toNat ≤ y.toNat then x else y) ∧ ((if x.ult y then y else x) = if x.toNat ≤ y.toNat then y else x) := by
  have := ite_lt_eq_ite_le (x := x) (y := y) (fun v : Word => (v.toNat : Int)) fun h => BitVec.toNat_inj.mp (Int.ofNat.inj h)
  simpa only [BitVec.ult_iff_toNat_lt, Nat.cast_lt, Nat.cast_le] using this

/-- A shift amount that the field check admits is the immediate itself (R130). -/
theorem shiftAmount {imm : BitVec 11} (h : imm.toNat < 64) : (imm.signExtend 64 : Word).toNat % 64 = imm.toNat := by
  have low : imm.msb = false := by rw [BitVec.msb_eq_decide]; exact decide_eq_false (by omega)
  rw [BitVec.signExtend_eq_setWidth_of_msb_false low, BitVec.toNat_setWidth]
  omega

theorem divSigned_eq (x y : Word) : divSigned x y = if y = 0 then -1 else BitVec.ofInt 64 (x.toInt.tdiv y.toInt) := by
  unfold divSigned
  split
  · rfl
  · rw [← BitVec.toInt_inj, BitVec.toInt_sdiv, BitVec.toInt_ofInt]

theorem remSigned_eq (x y : Word) : remSigned x y = if y = 0 then x else BitVec.ofInt 64 (x.toInt.tmod y.toInt) := by
  unfold remSigned
  split
  · rfl
  · rw [← BitVec.toInt_srem, BitVec.ofInt_toInt]

theorem divUnsigned_eq (x y : Word) : divUnsigned x y = if y = 0 then -1 else BitVec.ofNat 64 (x.toNat / y.toNat) := by
  unfold divUnsigned
  split
  · rfl
  · rw [← BitVec.toNat_udiv, BitVec.ofNat_toNat, BitVec.setWidth_eq]
    rfl

theorem remUnsigned_eq (x y : Word) : remUnsigned x y = if y = 0 then x else BitVec.ofNat 64 (x.toNat % y.toNat) := by
  unfold remUnsigned
  split
  · rfl
  · rw [← BitVec.toNat_umod, BitVec.ofNat_toNat, BitVec.setWidth_eq]
    rfl

/-! ### Leading zeros -/

theorem lt_two_pow_bitLen (n : Nat) : n < 2 ^ bitLen n := by
  unfold bitLen
  split
  next zero => simp [zero]
  next => exact Nat.lt_log2_self

/-- The highest bit of a number that is not 0 is one. -/
theorem testBit_bitLen {n : Nat} (h : n ≠ 0) : n.testBit (bitLen n - 1) = true := by
  simp only [bitLen, h, if_false, Nat.add_sub_cancel]
  exact Nat.testBit_log2 h

theorem bitLen_le {n k : Nat} (h : n < 2 ^ k) : bitLen n ≤ k := by
  unfold bitLen
  split
  next => omega
  next pos => exact (Nat.log2_lt pos).mpr h

theorem bitLen_zero_iff (n : Nat) : bitLen n = 0 ↔ n = 0 := by
  unfold bitLen
  split <;> simp_all

/-- CLZ counts the zeros above the highest one (R128). -/
theorem clzWord_spec (x : Word) : (clzWord x).toNat ≤ 64 ∧ (∀ i, 64 - (clzWord x).toNat ≤ i → i < 64 → x.getLsbD i = false) ∧
    ((clzWord x).toNat < 64 → x.getLsbD (63 - (clzWord x).toNat) = true) := by
  have short : bitLen x.toNat ≤ 64 := bitLen_le x.isLt
  have count : (clzWord x).toNat = 64 - bitLen x.toNat := by
    rw [clzWord, BitVec.toNat_ofNat]
    omega
  rw [count]
  refine ⟨by omega, fun i hi _ => ?_, fun some => ?_⟩
  · exact Nat.testBit_lt_two_pow (Nat.lt_of_lt_of_le (lt_two_pow_bitLen _) (Nat.pow_le_pow_right (by decide) (by omega)))
  · have pos : x.toNat ≠ 0 := fun zero => by
      have := (bitLen_zero_iff _).mpr zero
      omega
    rw [show 63 - (64 - bitLen x.toNat) = bitLen x.toNat - 1 by omega]
    exact testBit_bitLen pos

/-! ### Divides -/

/-- A divide takes 4 to 20 cycles, a function of its operation and operands (R129). -/
theorem divCycles_bounds (op : Nat) (x y : Word) : 4 ≤ divCycles op x y ∧ divCycles op x y ≤ 20 := by
  unfold divCycles
  omega

theorem exec_divideCompletion {s : State} {r : BankRef} {k : Nat} {v : DivOp} (h : (s.bank r).divs[k]? = some v) (due : v.left = 0) :
    exec (.divideCompletion r k) s = .next (doneFor (landLater (s.modBank r fun x => { x with divs := x.divs.eraseIdx k }) r v.kind
      [.a v.d v.value] v.born) r v.kind v.dn) := by
  show execDivideCompletion r k s = _
  simp only [execDivideCompletion, h, due, ne_eq, not_true_eq_false, if_false]

/-- A change of a bank that keeps its streams moves no semaphore. -/
theorem doneIn_congr {s s' t : State} {r : BankRef} {k : StreamKind} {dn : BitVec 4}
    (h : ((s'.bank r).stream k).semNew = ((s.bank r).stream k).semNew) (d : doneIn s' t r k dn) : doneIn s t r k dn := by
  intro n
  rw [d n, h]

theorem divide_completes {s : State} {r : BankRef} {k : Nat} {v : DivOp} (h : (s.bank r).divs[k]? = some v) (due : v.left = 0) :
    answers (.divideCompletion r k) s fun t =>
      (t.bank r).divs = (s.bank r).divs.eraseIdx k ∧ (t.bank r).fly = (s.bank r).fly ++ [⟨v.kind, 0, [.a v.d v.value], 0, v.born, true⟩] ∧
      doneIn s t r v.kind v.dn ∧ (t.bank r).a = (s.bank r).a ∧ t.pkg = s.pkg ∧ t.rooms = s.rooms := by
  generalize hx : landLater (s.modBank r fun x => { x with divs := x.divs.eraseIdx k }) r v.kind [.a v.d v.value] v.born = x
  have landed : x.bank r = { s.bank r with divs := (s.bank r).divs.eraseIdx k,
                                           fly := (s.bank r).fly ++ [⟨v.kind, 0, [.a v.d v.value], 0, v.born, true⟩] } := by
    simp [← hx, landLater]
  obtain ⟨pkg, rooms, -, -, -, -, -, bank⟩ := doneFor_keeps x r v.kind v.dn
  have done : doneIn s (doneFor x r v.kind v.dn) r v.kind v.dn := by
    refine doneIn_congr ?_ (doneFor_done x r v.kind v.dn)
    rw [landed]
    cases v.kind <;> rfl
  refine ⟨_, (exec_divideCompletion h due).trans (by rw [hx]), ?_, ?_, done, ?_, pkg.trans ?_, rooms.trans ?_⟩
  · rw [bank, landed]
  · rw [bank, landed]
  · rw [bank, landed]
  · simp [← hx, landLater]
  · simp [← hx, landLater]

/-! ### The statement -/

/-- The field check of a ready immediate shift. -/
theorem fieldsOk_of_ready {s : State} {i : Instr} {w : BitVec 4} (nh : ∀ x, i ≠ .hint x) (h : ready s i w = true) : i.fieldsOk = true := by
  obtain ⟨free, -⟩ := ready_iff.mp h
  exact ((stage1_none nh).mp (free_iff.mp free).1).2.1

/-- Settles O12: a ready instruction issues and its plan emits one result; what is left are the identities between the model's functions of words and
the manual's, and the completion of a divide. -/
theorem registerResults : Obligations.RegisterResults := by
  refine ⟨⟨fun d s1 s2 w s => ?_, fun d s1 imm h l w s => ?_⟩, fun d s1 s2 imm imm17 w s => ?_, fun d s1 s2 dn w s => ?_,
    fun r k v s => divide_completes⟩
  · intro x y writes
    have smin := signed_min_max x y
    have umin := unsigned_min_max x y
    refine ⟨fun h => issue_next h rfl rfl, fun h => issue_next h rfl rfl, fun h => issue_next h rfl rfl, fun h => issue_next h rfl rfl,
      fun h => issue_next h rfl rfl, fun h => issue_next h rfl rfl, fun h => issue_next h rfl rfl, fun h => issue_next h rfl rfl,
      fun h => issue_next h rfl rfl, fun h => issue_next h rfl rfl, fun h => ?_, fun h => ?_, fun h => ?_, fun h => ?_, fun h => ?_, fun h => ?_,
      fun h => issue_next h rfl rfl, fun h => ⟨clzWord x, issue_next h rfl rfl, clzWord_spec x⟩, fun h => issue_next h rfl rfl⟩
    · rw [← smin.1]; exact issue_next h rfl rfl
    · rw [← smin.2]; exact issue_next h rfl rfl
    · rw [← umin.1]; exact issue_next h rfl rfl
    · rw [← umin.2]; exact issue_next h rfl rfl
    · rw [← boolWord_slt]; exact issue_next h rfl rfl
    · rw [← boolWord_ult]; exact issue_next h rfl rfl
  · intro x y writes
    have shift : ∀ {i : Instr}, (∀ x, i ≠ .hint x) → i.fieldsOk = decide (imm.toNat < 64) → ready s i w = true → imm.toNat = y.toNat % 64 :=
      fun nh field h => (shiftAmount (of_decide_eq_true (field.symm.trans (fieldsOk_of_ready nh h)))).symm
    refine ⟨fun h => issue_next h rfl rfl, fun h => issue_next h rfl rfl, fun h => issue_next h rfl rfl, fun h => issue_next h rfl rfl,
      fun h => ?_, fun h => ?_, fun h => ?_, fun h => ?_, fun h => issue_next h rfl rfl, fun h => issue_next h rfl rfl⟩
    · rw [shift (by simp) rfl h]; exact issue_next h rfl rfl
    · rw [shift (by simp) rfl h]; exact issue_next h rfl rfl
    · rw [shift (by simp) rfl h]; exact issue_next h rfl rfl
    · rw [← boolWord_slt]; exact issue_next h rfl rfl
  · exact ⟨fun h => issue_next h rfl rfl, fun h => issue_next h rfl rfl, fun h => issue_next h rfl rfl, fun h => issue_next h rfl rfl,
      fun h => issue_next h rfl rfl⟩
  · intro x y starts
    rw [← divSigned_eq, ← divUnsigned_eq, ← remSigned_eq, ← remUnsigned_eq]
    have cycles := fun op => divCycles_bounds op x y
    exact ⟨fun h => ⟨_, (cycles 0).1, (cycles 0).2, issue_next h rfl rfl⟩, fun h => ⟨_, (cycles 1).1, (cycles 1).2, issue_next h rfl rfl⟩,
      fun h => ⟨_, (cycles 2).1, (cycles 2).2, issue_next h rfl rfl⟩, fun h => ⟨_, (cycles 3).1, (cycles 3).2, issue_next h rfl rfl⟩⟩

end Sys2Proof.Machine
end

section
/-! PROOFS. Transfers of control and hardware loops: branches, calls, returns, the start of a loop and its return (R43, R133-R135, R190, R357). -/

namespace Sys2Proof.Machine

/-! ### The traps of a free instruction, as statements name them -/

section Traps
variable {i : Instr} {w : BitVec 4} {p : State → Agent → Plan} {s : State} (run : exec i s = issue i w p s) (h : free s i w = true)
  (hold : (p s s.cur).hold = none)
include run h hold

theorem trapsAs_plan {c : BitVec 8} {v : Word} (trap : (p s s.cur).trap = some (c, v)) (ret : (p s s.cur).retNext = false) :
    trapsAs s i c v (posOf s s.cur) := by
  refine ⟨p s s.cur, run.trans ((issue_traps h hold trap).trans ?_)⟩
  rw [ret]
  rfl

theorem trapsAs_loopBad (trap : (p s s.cur).trap = none) (jump : (p s s.cur).jump = none) {q : Nat} (bad : loopBad s s.cur = some q) :
    trapsAs s i cLINKERR (BitVec.ofNat 64 (q / 16)) (posOf s s.cur) :=
  ⟨p s s.cur, run.trans (issue_loopBad h hold trap jump bad)⟩

end Traps

/-! ### Registers and conditions -/

theorem writeA_zero {s : State} {ag : Agent} (k : ag.kind ≠ .chanter) (v : Word) : writeA s ag 0 v = s := by
  simp only [writeA, k, if_false, if_true]

theorem readA_zero {s : State} {ag : Agent} (k : ag.kind ≠ .chanter) : readA s ag 0 = 0 := by
  simp only [readA, k, false_and, if_false, if_true]

theorem condHolds_iff (x y : Word) : (condHolds 0 x y ↔ x = y) ∧ (condHolds 1 x y ↔ x ≠ y) ∧ (condHolds 2 x y ↔ x.toInt < y.toInt) ∧
    (condHolds 3 x y ↔ y.toInt ≤ x.toInt) ∧ (condHolds 4 x y ↔ x.toNat < y.toNat) ∧ (condHolds 5 x y ↔ y.toNat ≤ x.toNat) ∧
    (condHolds 6 x y ↔ x = 0) ∧ (condHolds 7 x y ↔ x ≠ 0) := by
  simp [condHolds, BitVec.slt_eq_decide, BitVec.ult_eq_decide]

/-! ### Branches -/

theorem transferTrap_good {s : State} {ag : Agent} {p : Nat} (h : targetBad s ag p = false) : transferTrap s ag p = none := by
  simp only [transferTrap, h, Bool.false_eq_true, if_false]

theorem transferTrap_bad {s : State} {ag : Agent} {p : Nat} (h : targetBad s ag p = true) :
    transferTrap s ag p = some (cLINKERR, BitVec.ofNat 64 (p / 16)) := if_pos h

/-- What a conditional transfer comes to (R133, R134, R357). -/
structure Branches (s : State) (i : Instr) (w : BitVec 4) (taken : Bool) (p : Nat) : Prop where
  falls : ready s i w = true → taken = false → exec i s = .next (issued s w { words := 2 })
  jumps : free s i w = true → taken = true → targetBad s s.cur p = false → exec i s = .next (issued s w { jump := some p, words := 2 })
  refused : free s i w = true → taken = true → targetBad s s.cur p = true → trapsAs s i 0x05 (BitVec.ofNat 64 (p / 16)) (posOf s s.cur)
  loops : free s i w = true → taken = false → ∀ q, loopBad s s.cur = some q → trapsAs s i 0x05 (BitVec.ofNat 64 (q / 16)) (posOf s s.cur)

/-- An instruction with the plan of a branch is one. -/
theorem branches_of_plan {i : Instr} {w : BitVec 4} {taken : Bool} {target : BitVec 28} {s : State} {p : State → Agent → Plan}
    (run : exec i s = issue i w p s) (plan : p s s.cur = planBranch taken target s s.cur) : Branches s i w taken target.toNat := by
  cases taken
  · have straight : p s s.cur = { words := 2 } := plan
    refine ⟨fun h _ => ?_, fun _ t => absurd t Bool.false_ne_true, fun _ t => absurd t Bool.false_ne_true, fun h _ q bad => ?_⟩
    · rw [run, issue_next h (by rw [straight]) (by rw [straight]), straight]
    · exact trapsAs_loopBad run h (by rw [straight]) (by rw [straight]) (by rw [straight]) bad
  · have jump : p s s.cur = { words := 2, trap := transferTrap s s.cur target.toNat, jump := some target.toNat } := plan
    refine ⟨fun _ t => absurd t Bool.noConfusion, fun h _ good => ?_, fun h _ bad => ?_, fun _ t => absurd t Bool.noConfusion⟩
    · rw [run, issue_jumps h (by rw [jump]) (by rw [jump]; exact transferTrap_good good) (by rw [jump]), jump]
    · exact trapsAs_plan run h (by rw [jump]) (by rw [jump]; exact transferTrap_bad bad) (by rw [jump])

/-! ### Loops -/

/-- One active loop that ends at the position and has iterations left would take the stream back to its start, where that may not be entered
(R127, R357). -/
theorem loopBad_back {s : State} {ag : Agent} {i : Fin 6} (k : ag.kind = .a ∨ ag.kind = .x) (here : endsAt (s.stream ag) (s.stream ag).pos i)
    (alone : ∀ j, j ≠ i → ¬ endsAt (s.stream ag) (s.stream ag).pos j) (more : ((s.stream ag).loops.get i).counter ≠ 1)
    (real : ((s.stream ag).loops.get i).start ≠ 2 ^ 40) (bad : targetBad s ag ((s.stream ag).loops.get i).start = true) :
    loopBad s ag = some ((s.stream ag).loops.get i).start := by
  have stream : ¬ (ag.kind = .chanter ∨ ag.kind = .drain) := by rcases k with k | k <;> simp [k]
  have back : loopReturn s ag = some ((s.stream ag).loops.get i).start := by
    simp only [loopReturn, stream, posOf_stream s k, loopEnd_back _ 5 here alone more, real, if_false]
  simp only [loopBad, back, Option.filter_some, bad, if_true]

/-- A loop's end is good: the stream may go there, and it lies at or after the start in its chain (R135). -/
def loopGood (s : State) (im : Image) (p start : Nat) : Prop :=
  targetBad s s.cur p = false ∧ inChainFrom im p (im.nlines + 1) start = true

/-- What LOOP and XLOOP with a count n come to (R135, R190). -/
structure StartsLoop (s : State) (im : Image) (i : Instr) (w : BitVec 4) (lid : BitVec 3) (n : W32) (p : Nat) : Prop where
  skips : loopGood s im p (sequential s s.cur 2) → n = 0 →
    exec i s = .next (issued s w { jump := some (nextPos im p (wordsAt im s.cur.kind p)), words := 2 })
  starts : loopGood s im p (sequential s s.cur 2) → n ≠ 0 → ready s i w = true → exec i s = .next ((issued s w { words := 2 }).modStream s.cur fun x =>
    { x with loopAge := x.loopAge + 1,
             loops := x.loops.set (lid.toNat % 6) ⟨n, sequential s s.cur 2, p, true, x.loopAge + 1, 0⟩ (Nat.mod_lt _ (by decide)) })
  refused : ¬ loopGood s im p (sequential s s.cur 2) → ∃ line, trapsAs s i 0x05 (BitVec.ofNat 64 line) (posOf s s.cur)

theorem startsLoop_of_plan {i : Instr} {w : BitVec 4} {lid : BitVec 3} {n : W32} {target : BitVec 28} {s : State} {im : Image}
    {p : State → Agent → Plan} (run : exec i s = issue i w p s) (plan : p s s.cur = planLoop lid n target s s.cur)
    (image : imageOf s s.cur.bank = some im) (h : free s i w = true) : StartsLoop s im i w lid n target.toNat := by
  have hold : (p s s.cur).hold = none := by rw [plan]; rfl
  have good : loopGood s im target.toNat (sequential s s.cur 2) → (p s s.cur).trap = none := by
    rintro ⟨there, chain⟩
    simp [plan, planLoop, image, there, chain]
  refine ⟨fun g zero => ?_, fun g more r => ?_, fun bad => ?_⟩
  · have jump : (p s s.cur).jump = some (nextPos im target.toNat (wordsAt im s.cur.kind target.toNat)) := by
      simp [plan, planLoop, image, zero]
    rw [run, issue_jumps h hold (good g) jump, plan]
    simp [planLoop, zero, issued, complete, endWait]
  · have jump : (p s s.cur).jump = none := by rw [plan]; exact if_neg more
    rw [run, issue_next r hold (good g), jump, plan]
    exact congrArg Host.Outcome.next (if_neg more)
  · have trap : ∃ line, (p s s.cur).trap = some (cLINKERR, BitVec.ofNat 64 line) := by
      have refuse : (targetBad s s.cur target.toNat || !inChainFrom im target.toNat (im.nlines + 1) (sequential s s.cur 2)) = true := by
        rw [loopGood, not_and] at bad
        cases there : targetBad s s.cur target.toNat
        · simpa using bad there
        · rfl
      exact ⟨_, by simp only [plan, planLoop, image, refuse, if_true]; rfl⟩
    obtain ⟨line, trap⟩ := trap
    exact ⟨line, trapsAs_plan run h hold trap (by rw [plan]; rfl)⟩

/-! ### Calls and returns -/

theorem exec_call {target : BitVec 28} {w : BitVec 4} {s : State} (h : free s (.call target w) w = true)
    (good : targetBad s s.cur target.toNat = false) : exec (.call target w) s =
      .next (emit (issued s w { jump := some target.toNat, words := 2 }) s.cur 0 [.a 31 (BitVec.ofNat 64 (sequential s s.cur 2))]) :=
  issue_jumps h rfl (transferTrap_good good) rfl

theorem exec_ret {w : BitVec 4} {s : State} (h : free s (.ret w) w = true) (near : (readA s s.cur 31).toNat < 2 ^ 28)
    (good : targetBad s s.cur (readA s s.cur 31).toNat = false) :
    exec (.ret w) s = .next (issued s w { jump := some (readA s s.cur 31).toNat }) :=
  issue_jumps h rfl ((if_neg (Nat.not_le.mpr near)).trans (transferTrap_good good)) rfl

theorem ret_traps {w : BitVec 4} {s : State} (h : free s (.ret w) w = true)
    (bad : 2 ^ 28 ≤ (readA s s.cur 31).toNat ∨ targetBad s s.cur (readA s s.cur 31).toNat = true) :
    trapsAs s (.ret w) 0x05 (BitVec.ofNat 64 ((readA s s.cur 31).toNat / 16)) (posOf s s.cur) := by
  refine trapsAs_plan rfl h rfl ?_ rfl
  by_cases far : 2 ^ 28 ≤ (readA s s.cur 31).toNat
  · exact if_pos far
  · exact (if_neg far).trans (transferTrap_bad (bad.resolve_left far))

/-- Settles O14: branches share one plan and loops another; the transfer that a hardware loop makes at its end is the loop rule's first round. -/
theorem transfersAndLoops : Obligations.TransfersAndLoops := by
  refine ⟨⟨fun s ag v k => ⟨writeA_zero k v, readA_zero k⟩, condHolds_iff, fun cond s1 s2 e1 e2 target w s => ?_⟩,
    fun lid s1 e1 target w s im => ?_⟩
  · intro ag p there linkErr branch a31
    have split : ∀ {i : Instr} {taken : Bool}, Branches s i w taken p → branch i taken := fun b => ⟨b.falls, b.jumps, b.refused, b.loops⟩
    refine ⟨split (branches_of_plan rfl rfl), split (branches_of_plan rfl rfl), split (branches_of_plan rfl rfl), ?_, fun h => ⟨exec_call h, ?_⟩,
      fun h => ⟨exec_ret h, ret_traps h⟩⟩
    · rintro i st rfl k active stop alone more real bad
      exact loopBad_back k ⟨active, stop⟩ (fun j ne e => alone j ne e.1 e.2) more real bad
    · exact fun bad => trapsAs_plan rfl h rfl (transferTrap_bad bad) rfl
  · intro ag p start good starts image
    have split : ∀ {i : Instr} {n : W32}, (free s i w = true → StartsLoop s im i w lid n p) → starts i n := fun b h _ =>
      ⟨(b h).skips, (b h).starts, (b h).refused⟩
    exact ⟨split (startsLoop_of_plan rfl rfl image), split (startsLoop_of_plan rfl rfl image)⟩

end Sys2Proof.Machine
end

section
/-! PROOFS. Token pushes and waits, and the control queue (R50, R137, R158, R189, R191). -/

namespace Sys2Proof.Machine

/-! ### Tokens -/

/-- A result that reads or writes an accumulator. -/
def Result.ofAcc (r : Result) : Bool := match r with | .acc .. => true | .accRead .. => true | _ => false

/-- Without an accumulator access in flight neither of the two waits of the X map's TOKS holds (R185). -/
theorem noAccPending {s : State} {ag : Agent}
    (h : ((s.bank ag.bank).fly.any fun f => f.kind == .x && f.res.any Result.ofAcc) = false) :
    vacwPending s ag = false ∧ vaccPending s ag = false := by
  have idle : ∀ f ∈ (s.bank ag.bank).fly, f.kind = .x → ∀ r ∈ f.res, r.ofAcc = false := by
    simpa [List.any_eq_false] using h
  constructor
  · simp only [vacwPending, List.any_eq_false, Bool.and_eq_true, beq_iff_eq, List.any_eq_true, not_and, not_exists]
    intro f hf k r hr
    have plain := idle f hf k r hr
    revert plain
    cases r <;> simp [Result.ofAcc]
  · simp only [vaccPending, List.any_eq_false, Bool.and_eq_true, beq_iff_eq, List.any_eq_true, not_and, not_exists]
    intro f hf k r hr
    have plain := idle f hf k r hr
    revert plain
    cases r <;> simp [Result.ofAcc]

section Tokens
variable {i : Instr} {w : BitVec 4} {s : State}

/-- What a TOKS of engine e that no accumulator access holds comes to (R158, R191). -/
structure PushesToken (s : State) (i : Instr) (w : BitVec 4) (e dst : Engine) : Prop where
  pushes : ready s i w = true → tokHeld (s.bank s.cur.bank) e dst < 8 →
    exec i s = .next ((issued s w).modBank s.cur.bank fun b => tokPut b e dst)
  refused : 8 ≤ tokHeld (s.bank s.cur.bank) e dst → trapsAs s i 0x61 0 (posOf s s.cur)

theorem pushesToken_of_plan {e : Engine} {dst : BitVec 2} (run : exec i s = issue i w (planToks e dst) s)
    (idle : e = .x → vacwPending s s.cur = false ∧ vaccPending s s.cur = false) (h : free s i w = true) :
    PushesToken s i w e (Engine.ofCode dst) := by
  have hold : (planToks e dst s s.cur).hold = none := by
    refine if_neg ?_
    rintro ⟨x, pending⟩
    obtain ⟨write, read⟩ := idle x
    simp [write, read] at pending
  exact ⟨fun r room => run.trans (issue_next r hold (if_neg (Nat.not_le.mpr room))), fun full => trapsAs_plan run h hold (if_pos full) rfl⟩

/-- What a TOKW of engine e comes to (R158, R191, R350). -/
structure TakesTokens (s : State) (i : Instr) (w : BitVec 4) (e : Engine) (pop : BitVec 4) : Prop where
  takes : ready s i w = true → popReady (s.bank s.cur.bank) e pop = true →
    ∃ p, exec i s = .next ((issued s w { wait := p }).modBank s.cur.bank fun b => popTake b e pop)
  waits : popReady (s.bank s.cur.bank) e pop = false →
    ∃ q, exec i s = .next ((markHeld s s.cur holdFlag).modStream s.cur fun x => { x with waitOn := q })

theorem takesTokens_of_plan {e : Engine} {pop : BitVec 4} (run : exec i s = issue i w (planTokw e pop) s) (h : free s i w = true) :
    TakesTokens s i w e pop :=
  ⟨fun r all => ⟨_, run.trans (issue_next r (if_pos all) rfl)⟩, fun empty => ⟨_, run.trans (issue_waits h (if_neg (by simp [empty])))⟩⟩

end Tokens

/-! ### The control queue -/

section Queue
variable {s : State} {ag : Agent}

theorem cqHold_some {v : Word} {rest : List Word} (h : (s.bank ag.bank).cq = v :: rest) : cqHold s ag = none := by
  simp [cqHold, h]

theorem cqTrap_some {v : Word} {rest : List Word} (h : (s.bank ag.bank).cq = v :: rest) : cqTrap s ag = none := by
  simp [cqTrap, h]

/-- An empty queue holds while the A-stream runs or an entry is on its way (R189). -/
theorem cqHold_empty (h : (s.bank ag.bank).cq = []) (more : (s.bank ag.bank).sa.running = true ∨ (s.bank ag.bank).cqNew ≠ []) :
    cqHold s ag = some holdBlocked := by
  rcases more with run | new <;> simp [cqHold, *]

theorem cqHold_dead (run : (s.bank ag.bank).sa.running = false) (none : (s.bank ag.bank).cqNew = []) : cqHold s ag = Option.none := by
  simp [cqHold, run, none]

theorem cqTrap_dead (h : (s.bank ag.bank).cq = []) (run : (s.bank ag.bank).sa.running = false) (none : (s.bank ag.bank).cqNew = []) :
    cqTrap s ag = some (cFEDEAD, 0) := by
  simp [cqTrap, h, run, none]

end Queue

section Instructions
variable {s : State} {w : BitVec 4}

theorem exec_cqp {s1 : BitVec 5} (r : ready s (.cqp s1 w) w = true) (room : (s.bank s.cur.bank).cq.length + (s.bank s.cur.bank).cqNew.length < 16) :
    exec (.cqp s1 w) s = .next ((issued s w).modBank s.cur.bank fun x => { x with cqNew := x.cqNew ++ [readA s s.cur s1] }) :=
  issue_next r (if_neg (Nat.not_le.mpr room)) rfl

theorem exec_cqp_full {s1 : BitVec 5} (h : free s (.cqp s1 w) w = true)
    (full : 16 ≤ (s.bank s.cur.bank).cq.length + (s.bank s.cur.bank).cqNew.length) :
    exec (.cqp s1 w) s = .next (markHeld s s.cur ⟨true, false⟩) := issue_waits h (if_pos full)

theorem exec_cqr {d : BitVec 4} {v : Word} {rest : List Word} (hq : (s.bank s.cur.bank).cq = v :: rest) (r : ready s (.cqr d w) w = true) :
    exec (.cqr d w) s = .next (emit ((issued s w).modBank s.cur.bank fun x => { x with cq := x.cq.drop 1 }) s.cur 3 [.e d v]) := by
  have head : (s.bank s.cur.bank).cq.headD 0 = v := by rw [hq]; rfl
  rw [← head]
  exact issue_next r (cqHold_some hq) (cqTrap_some hq)

/-- What a CQB that finds a head comes to: it takes it, and is a branch otherwise (R189). -/
structure QueueBranches (s : State) (i : Instr) (w e1 : BitVec 4) (v : Word) (taken : Bool) (p : Nat) : Prop where
  falls : ready s i w = true → taken = false → exec i s = .next (emit ((issued s w { words := 2 }).modBank s.cur.bank fun x =>
    { x with cq := x.cq.drop 1 }) s.cur 0 [.e e1 v])
  jumps : taken = true → targetBad s s.cur p = false → exec i s = .next (emit ((issued s w { jump := some p, words := 2 }).modBank s.cur.bank fun x =>
    { x with cq := x.cq.drop 1 }) s.cur 0 [.e e1 v])
  refused : taken = true → targetBad s s.cur p = true → trapsAs s i 0x05 (BitVec.ofNat 64 (p / 16)) (posOf s s.cur)

theorem queueBranches_cqb {cond : BitVec 3} {e1 e2 : BitVec 4} {target : BitVec 28} {v : Word} {rest : List Word}
    (hq : (s.bank s.cur.bank).cq = v :: rest) (h : free s (.cqb cond e1 e2 target w) w = true) :
    QueueBranches s (.cqb cond e1 e2 target w) w e1 v (condHolds cond v (readE s s.cur e2)) target.toNat := by
  have head : (s.bank s.cur.bank).cq.headD 0 = v := by rw [hq]; rfl
  rw [← head]
  generalize ht : condHolds cond ((s.bank s.cur.bank).cq.headD 0) (readE s s.cur e2) = taken
  have run : exec (.cqb cond e1 e2 target w) s = issue (.cqb cond e1 e2 target w) w (fun s ag =>
    { planBranch (condHolds cond ((s.bank ag.bank).cq.headD 0) (readE s ag e2)) target s ag with
      hold := cqHold s ag
      trap := (cqTrap s ag).or (planBranch (condHolds cond ((s.bank ag.bank).cq.headD 0) (readE s ag e2)) target s ag).trap
      act := fun t => emit (cqTake t ag) ag 0 [.e e1 ((s.bank ag.bank).cq.headD 0)] }) s := rfl
  have hold := cqHold_some hq
  have trap := cqTrap_some hq
  refine ⟨?_, ?_, ?_⟩
  · rintro r rfl
    rw [run, issue_next r hold (by simp only [trap, ht]; rfl)]
    simp only [ht]
    rfl
  · rintro rfl good
    rw [run, issue_jumps (q := target.toNat) h hold (by simp only [trap, ht]; exact transferTrap_good good) (by simp only [ht]; rfl)]
    simp only [ht]
    rfl
  · rintro rfl bad
    exact trapsAs_plan run h hold (by simp only [trap, ht]; exact transferTrap_bad bad) (by simp only [ht]; rfl)

/-- A branch waits for nothing, and its trap leaves the position. -/
theorem planBranch_bare (taken : Bool) (target : BitVec 28) (s : State) (ag : Agent) :
    (planBranch taken target s ag).onHold = id ∧ (planBranch taken target s ag).retNext = false := by
  cases taken <;> exact ⟨rfl, rfl⟩

/-- Both takers meet an empty queue alike. -/
theorem taker_empty {d e1 e2 : BitVec 4} {cond : BitVec 3} {target : BitVec 28} (hq : (s.bank s.cur.bank).cq = []) {i : Instr}
    (hi : i = .cqr d w ∨ i = .cqb cond e1 e2 target w) (h : free s i w = true) :
    ((s.bank s.cur.bank).sa.running = true ∨ (s.bank s.cur.bank).cqNew ≠ [] → exec i s = .next (markHeld s s.cur ⟨true, false⟩)) ∧
    ((s.bank s.cur.bank).sa.running = false → (s.bank s.cur.bank).cqNew = [] → trapsAs s i 0x60 0 (posOf s s.cur)) := by
  have plan : ∃ p, exec i s = issue i w p s ∧ (p s s.cur).hold = cqHold s s.cur ∧ (p s s.cur).onHold = id ∧ (p s s.cur).retNext = false ∧
      ∃ t, (p s s.cur).trap = (cqTrap s s.cur).or t := by
    rcases hi with rfl | rfl
    · exact ⟨_, rfl, rfl, rfl, rfl, none, (Option.or_none).symm⟩
    · exact ⟨_, rfl, rfl, (planBranch_bare _ _ _ _).1, (planBranch_bare _ _ _ _).2, _, rfl⟩
  obtain ⟨p, run, hold, onHold, ret, t, trap⟩ := plan
  refine ⟨fun more => ?_, fun off none => ?_⟩
  · rw [run, issue_waits h (hold.trans (cqHold_empty hq more)), onHold]
    rfl
  · exact trapsAs_plan run h (hold.trans (cqHold_dead off none)) (by rw [trap, cqTrap_dead hq off none]; rfl) ret

end Instructions

/-- Settles O23: each token instruction has one plan for both maps, and a taker of the control queue waits or traps by the queue alone. -/
theorem tokensAndControlQueue : Obligations.TokensAndControlQueue := by
  refine ⟨fun dst pop w s => ?_, fun s1 d e1 e2 cond target w s => ?_⟩
  · intro ag b toks tokw
    have push : ∀ {i : Instr} {e : Engine}, (free s i w = true → PushesToken s i w e (Engine.ofCode dst)) → toks i e := fun t h =>
      ⟨(t h).pushes, (t h).refused⟩
    have take : ∀ {i : Instr} {e : Engine}, (free s i w = true → TakesTokens s i w e pop) → tokw i e := fun t h => ⟨(t h).takes, (t h).waits⟩
    exact ⟨push (pushesToken_of_plan rfl (by simp)), take (takesTokens_of_plan rfl), take (takesTokens_of_plan rfl),
      fun idle => push (pushesToken_of_plan rfl fun _ => noAccPending idle)⟩
  · intro ag b p cqb
    refine ⟨fun h => ⟨exec_cqp, exec_cqp_full h⟩, fun v rest hq => ?_, fun hq i hi h => taker_empty hq hi h⟩
    intro taken
    refine ⟨exec_cqr hq, fun h => ?_⟩
    have b := queueBranches_cqb hq h
    exact ⟨b.falls, b.jumps, b.refused⟩

end Sys2Proof.Machine
end

section
/-! PROOFS. Control registers: their reads and writes at issue, who may reach which numbers, and what a landed write changes (R52-R54, R159, R188,
R371, R372). -/

namespace Sys2Proof.Machine

/-! ### Reads and writes at issue -/

section Issue
variable {i : Instr} {w : BitVec 4} {s : State} {num cls : Nat}

/-- What a CSR read comes to (R159, R188). -/
structure ReadsCsr (s : State) (i : Instr) (w : BitVec 4) (num cls : Nat) (res : Word → Result) : Prop where
  wide : 0x1000 ≤ num → trapsAs s i 0x02 0 (posOf s s.cur)
  refused : num < 0x1000 → ∀ c, csrRead s s.cur num = .error c → trapsAs s i c 0 (posOf s s.cur)
  reads : ready s i w = true → num < 0x1000 → ∀ v, csrRead s s.cur num = .ok v → exec i s = .next (emit (issued s w) s.cur cls [res v])

theorem readsCsr_of_plan {res : Word → Result} (run : exec i s = issue i w (planCsrRead num cls res) s) (h : free s i w = true) :
    ReadsCsr s i w num cls res := by
  refine ⟨fun wide => ?_, fun narrow c refused => ?_, fun r narrow v value => ?_⟩
  · exact trapsAs_plan run h rfl (if_pos wide) rfl
  · exact trapsAs_plan run h rfl ((if_neg (Nat.not_le.mpr narrow)).trans (by rw [refused])) rfl
  · have val : csrValue s s.cur num = v := by simp only [csrValue, value]
    rw [run, issue_next r rfl ((if_neg (Nat.not_le.mpr narrow)).trans (by rw [value])), ← val]
    rfl

/-- What a CSR write comes to, judged on the value that it would leave (R159, R188). -/
structure WritesCsr (s : State) (i : Instr) (w : BitVec 4) (num cls : Nat) (op : CsrOp) (v : Word) : Prop where
  lands : ready s i w = true → csrWriteTrapFull s s.cur num v = none → csrWaits s s.cur num v = false →
    exec i s = .next (emit (csrTake (issued s w) s.cur num v) s.cur cls [.csr (BitVec.ofNat 12 num) op])
  refused : ∀ c x, csrWriteTrapFull s s.cur num v = some (c, x) → trapsAs s i c x (posOf s s.cur)
  waits : csrWriteTrapFull s s.cur num v = none → csrWaits s s.cur num v = true →
    exec i s = .next (csrAsk (markHeld s s.cur ⟨false, false⟩) s.cur num v)

theorem writesCsr_of_plan {op : CsrOp} (run : exec i s = issue i w (planCsrWrite num op cls) s) (h : free s i w = true) :
    WritesCsr s i w num cls op (csrNew (csrValue s s.cur num) op) := by
  refine ⟨fun r sound go => ?_, fun c x trap => ?_, fun sound wait => ?_⟩
  · exact run.trans (issue_next r (if_neg (by simp [go])) sound)
  · exact trapsAs_plan run h (if_neg (by simp [trap])) trap rfl
  · exact run.trans (issue_waits h (if_pos (by simp [sound, wait])))

end Issue

/-! ### The privilege of numbers -/

theorem csrRead_unassigned (s : State) (ag : Agent) {num : Nat} (lo : 0x700 ≤ num) (hi : num < 0xf00) : csrRead s ag num = .error cILLFLD := by
  unfold csrRead
  rw [if_neg (by omega), if_neg (by omega), if_neg (by omega), if_neg (by omega), if_pos hi]

/-- From a Suite the privileged numbers read as no register of its own (R53, R372). -/
theorem csrRead_privileged (s : State) (u : SuiteId) (b : Fin 2) (k : StreamKind) {num : Nat} (lo : 0x400 ≤ num) (hi : num < 0x600) :
    csrRead s ⟨.bank u b, k⟩ num = .error cPRIV := by
  unfold csrRead
  rw [if_neg (by omega), if_neg (by omega), if_pos hi]

theorem csrWriteTrap_privileged (s : State) (u : SuiteId) (b : Fin 2) (k : StreamKind) {num : Nat} (v : Word) (lo : 0x400 ≤ num)
    (hi : num < 0x700) : csrWriteTrap s ⟨.bank u b, k⟩ num v = some cPRIV := by
  simp [csrWriteTrap, lo, hi]

/-- No number from 0x522 on is one that only the hypervisor writes. -/
theorem hvWriteOnly_high {num : Nat} (h : 0x522 ≤ num) : hvWriteOnly num = false := by
  have low : ∀ n ∈ [0x402, 0x406, 0x407, 0x40e, 0x40f, 0x450, 0x451, 0x452, 0x453, 0x454, 0x455, 0x501, 0x521], n < 0x522 := by decide
  rw [Bool.eq_false_iff]
  exact fun named => absurd (low num (List.contains_iff_mem.mp named)) (Nat.not_lt.mpr h)

theorem csrWriteTrap_hypervisor (s : State) {c : CtxId} (k : StreamKind) {num : Nat} (v : Word) (hc : c ≠ hypervisor) (hn : hvWriteOnly num = true) :
    csrWriteTrap s ⟨.ctx c, k⟩ num v = some cPRIV := by
  simp [csrWriteTrap, hn, hc]

theorem valueExcluded_high {num : Nat} (v : Word) (h : 0x700 ≤ num) : valueExcluded num v = false := by
  unfold valueExcluded
  dsimp only
  iterate 18 rw [if_neg (by omega)]

/-- Above the privileged numbers a write traps as the read does (R53, R372). -/
theorem csrWriteTrap_error {s : State} {ag : Agent} {num : Nat} {e : BitVec 8} (v : Word) (h : 0x700 ≤ num) (read : csrRead s ag num = .error e) :
    csrWriteTrap s ag num v = some e := by
  obtain ⟨r, k⟩ := ag
  cases r <;> simp [csrWriteTrap, read, hvWriteOnly_high (show 0x522 ≤ num by omega), Nat.not_lt.mpr h]

/-- And otherwise not at all. -/
theorem csrWriteTrap_ok {s : State} {ag : Agent} {num : Nat} {w : Word} (v : Word) (h : 0x700 ≤ num) (read : csrRead s ag num = .ok w) :
    csrWriteTrap s ag num v = none := by
  obtain ⟨r, k⟩ := ag
  cases r with
  | bank u b => simp [csrWriteTrap, read, valueExcluded_high v h, Nat.not_lt.mpr h]
  | ctx c =>
    have plain : num ≠ 0x40c ∧ num ≠ 0x40e ∧ num ≠ 0x40f ∧ num ≠ 0x413 ∧ num ≠ 0x414 ∧ num ≠ 0x418 ∧ num ≠ 0x600 ∧ num ≠ 0x511 := by omega
    simp [csrWriteTrap, read, valueExcluded_high v h, hvWriteOnly_high (show 0x522 ≤ num by omega), plain]

/-- A landed write to the identity numbers changes nothing (R53). -/
theorem csrSet_high (s : State) (ag : Agent) {num : Nat} (v : Word) (h : 0x700 ≤ num) : csrSet s ag num v = s := by
  unfold csrSet
  dsimp only
  repeat rw [if_neg (by omega)]
  split
  · repeat rw [if_neg (by omega)]
  · repeat rw [if_neg (by omega)]

/-- The assigned identity numbers have twelve bits. -/
theorem lt_of_readId {s : State} {ag : Agent} {num : Nat} {w : Word} (h : readId s ag num = some w) : num < 0x1000 := by
  by_contra wide
  unfold readId at h
  repeat rw [if_neg (by omega)] at h
  cases h

theorem readId_of_csrRead {s : State} {ag : Agent} {num : Nat} {w : Word} (h : 0xf00 ≤ num) (read : csrRead s ag num = .ok w) :
    readId s ag num = some w := by
  unfold csrRead at read
  rw [if_neg (by omega), if_neg (by omega), if_neg (by omega), if_neg (by omega), if_neg (by omega)] at read
  dsimp only at read
  split at read
  next value => rw [value, Except.ok.inj read]
  next => cases read

theorem identity_ignored {s : State} {ag : Agent} {num : Nat} {w : Word} (v : Word) (h : 0xf00 ≤ num) (read : csrRead s ag num = .ok w) :
    csrWriteTrap s ag num v = none ∧ exec (.csrWrite ag (BitVec.ofNat 12 num) v) s = .next s := by
  have narrow : num < 0x1000 := lt_of_readId (readId_of_csrRead h read)
  refine ⟨csrWriteTrap_ok v (by omega) read, congrArg Host.Outcome.next (csrSet_high s ag v ?_)⟩
  rw [BitVec.toNat_ofNat]
  omega

/-! ### The writable registers of a Suite stream -/

section Reads
variable (s : State) (ag : Agent)

theorem csrRead_frm : csrRead s ag 0x008 = .ok ((s.stream ag).frm.setWidth 64) := rfl
theorem csrRead_xflg : csrRead s ag 0x009 = .ok ((s.stream ag).xflg.setWidth 64) := rfl
theorem csrRead_semsat : csrRead s ag 0x00a = .ok ((s.stream ag).semsat.setWidth 64) := rfl
theorem csrRead_waittmo : csrRead s ag 0x030 = .ok ((s.stream ag).waittmo.setWidth 64) := rfl

variable (u : SuiteId) (b : Fin 2) (k : StreamKind)

theorem csrRead_dbgarm : csrRead s ⟨.bank u b, k⟩ 0x330 = .ok (s.suite u).dbgarm := rfl
theorem csrRead_wpaddr : csrRead s ⟨.bank u b, k⟩ 0x331 = .ok (s.suite u).wpaddr := rfl
theorem csrRead_wpctl : csrRead s ⟨.bank u b, k⟩ 0x332 = .ok (s.suite u).wpctl := rfl

end Reads

/-- What a landed write to a register of a Suite stream leaves as it was (R53). -/
structure CsrFrame (s t : State) (ag : Agent) : Prop where
  reads : ∀ n, readA t ag n = readA s ag n
  pkg : t.pkg = s.pkg
  rooms : t.rooms = s.rooms
  tenants : t.tenants = s.tenants
  others : ∀ r, r ≠ ag.bank → t.bank r = s.bank r
  ls : ∀ x, (t.suite x).ls = (s.suite x).ls

theorem a_setStream (b : Bank) (k : StreamKind) (x : Stream) : (b.setStream k x).a = b.a := by cases k <;> rfl

theorem csrFrame_modStream (s : State) (ag : Agent) (f : Stream → Stream) : CsrFrame s (s.modStream ag f) ag where
  reads n := readA_congr (by simp [a_setStream]) (congrArg Chanter.c (State.chanter_setBank ..)) n
  pkg := by simp
  rooms := by simp
  tenants := by simp
  others _ hr := State.bank_setBank_ne _ _ _ _ (Ne.symm hr)
  ls _ := Suite.kept_ls (State.suite_setBank_kept ..)

/-- The debug registers of a Suite are none of its streams'. -/
theorem debug_modStream (s : State) (ag : Agent) (f : Stream → Stream) (u : SuiteId) : ((s.modStream ag f).suite u).dbgarm = (s.suite u).dbgarm ∧
    ((s.modStream ag f).suite u).wpaddr = (s.suite u).wpaddr ∧ ((s.modStream ag f).suite u).wpctl = (s.suite u).wpctl := by
  have same := State.suite_setBank_kept s ag.bank ((s.bank ag.bank).setStream ag.kind (f ((s.bank ag.bank).stream ag.kind))) u
  exact ⟨by have := congrArg Suite.dbgarm same; exact this, by have := congrArg Suite.wpaddr same; exact this,
    by have := congrArg Suite.wpctl same; exact this⟩

section Debug
variable (s : State) (u : SuiteId) (b : Fin 2) (k : StreamKind) (f : Suite → Suite) (hb : (f (s.suite u)).banks = (s.suite u).banks)
include hb

theorem csrFrame_modSuite (hc : (f (s.suite u)).chanter = (s.suite u).chanter) (hl : (f (s.suite u)).ls = (s.suite u).ls) :
    CsrFrame s (s.modSuite u f) ⟨.bank u b, k⟩ where
  reads n := by
    refine readA_congr (by rw [State.bank_modSuite s u f hb]) ?_ n
    simp [Agent.suite, BankRef.suite?, hc]
  pkg := rfl
  rooms := rfl
  tenants := rfl
  others r _ := State.bank_modSuite s u f hb r
  ls x := by
    by_cases e : u = x
    · subst e; simp [hl]
    · simp [e]

theorem stream_modSuite : (s.modSuite u f).stream ⟨.bank u b, k⟩ = s.stream ⟨.bank u b, k⟩ := by
  simp only [State.stream, State.bank_modSuite s u f hb]

end Debug

/-- A narrow register reads back the bits of the value that it holds. -/
theorem setWidth_setWidth_and (v : Word) : (v.setWidth 2).setWidth 64 = v &&& 3 ∧ ((v &&& 0x1f1f).setWidth 13).setWidth 64 = v &&& 0x1f1f ∧
    (v.setWidth 8).setWidth 64 = v &&& 0xff ∧ (v.setWidth 48).setWidth 64 = v &&& 0xffffffffffff := by
  have low : ∀ n : Nat, n ≤ 64 → ((v.setWidth n).setWidth 64).toNat = v.toNat &&& (2 ^ n - 1) := by
    intro n hn
    rw [BitVec.toNat_setWidth_of_le hn, BitVec.toNat_setWidth, Nat.and_two_pow_sub_one_eq_mod]
  refine ⟨BitVec.eq_of_toNat_eq (low 2 (by decide)), BitVec.eq_of_toNat_eq ?_, BitVec.eq_of_toNat_eq (low 8 (by decide)),
    BitVec.eq_of_toNat_eq (low 48 (by decide))⟩
  have small : (v &&& 0x1f1f).toNat < 2 ^ 13 := by
    rw [BitVec.toNat_and]
    exact Nat.lt_of_le_of_lt Nat.and_le_right (by decide)
  rw [BitVec.toNat_setWidth_of_le (by decide), BitVec.toNat_setWidth, Nat.mod_eq_of_lt small]

/-- The writable registers of a Suite stream, each with its writable bits (R54, R152, R352). -/
def suiteCsrs : List (BitVec 12 × Word) := [(0x008, 3), (0x009, 0x1f1f), (0x00a, 0xff), (0x030, 0xffffffffffff),
  (0x330, 0xffffffff0001ff1f), (0x331, 0xffffffffffffffff), (0x332, 0x3f03)]

section Kept
variable {s t : State} {u : SuiteId} {b : Fin 2} {k : StreamKind} {num : BitVec 12}

/-- Where the fields of the stream and of its Suite are as they were but for one register's, every other register reads as it did. -/
theorem csrRead_kept (frm : num ≠ 0x008 → (t.stream ⟨.bank u b, k⟩).frm = (s.stream ⟨.bank u b, k⟩).frm)
    (xflg : num ≠ 0x009 → (t.stream ⟨.bank u b, k⟩).xflg = (s.stream ⟨.bank u b, k⟩).xflg)
    (semsat : num ≠ 0x00a → (t.stream ⟨.bank u b, k⟩).semsat = (s.stream ⟨.bank u b, k⟩).semsat)
    (waittmo : num ≠ 0x030 → (t.stream ⟨.bank u b, k⟩).waittmo = (s.stream ⟨.bank u b, k⟩).waittmo)
    (dbgarm : num ≠ 0x330 → (t.suite u).dbgarm = (s.suite u).dbgarm) (wpaddr : num ≠ 0x331 → (t.suite u).wpaddr = (s.suite u).wpaddr)
    (wpctl : num ≠ 0x332 → (t.suite u).wpctl = (s.suite u).wpctl) (n : BitVec 12) (m : Word) (listed : (n, m) ∈ suiteCsrs) (other : n ≠ num) :
    csrRead t ⟨.bank u b, k⟩ n.toNat = csrRead s ⟨.bank u b, k⟩ n.toNat := by
  simp only [suiteCsrs, List.mem_cons, Prod.mk.injEq, List.not_mem_nil, or_false] at listed
  obtain ⟨rfl, -⟩ | ⟨rfl, -⟩ | ⟨rfl, -⟩ | ⟨rfl, -⟩ | ⟨rfl, -⟩ | ⟨rfl, -⟩ | ⟨rfl, -⟩ := listed
  · exact congrArg (fun x : BitVec 2 => Except.ok (x.setWidth 64)) (frm other.symm)
  · exact congrArg (fun x : BitVec 13 => Except.ok (x.setWidth 64)) (xflg other.symm)
  · exact congrArg (fun x : BitVec 8 => Except.ok (x.setWidth 64)) (semsat other.symm)
  · exact congrArg (fun x : BitVec 48 => Except.ok (x.setWidth 64)) (waittmo other.symm)
  · exact congrArg Except.ok (dbgarm other.symm)
  · exact congrArg Except.ok (wpaddr other.symm)
  · exact congrArg Except.ok (wpctl other.symm)

end Kept

/-- What a landed write to a register of a Suite stream comes to. -/
structure CsrLands (s t : State) (ag : Agent) (num : BitVec 12) (v mask : Word) : Prop extends CsrFrame s t ag where
  back : csrRead t ag num.toNat = .ok (v &&& mask)
  kept : ∀ n m, (n, m) ∈ suiteCsrs → n ≠ num → csrRead t ag n.toNat = csrRead s ag n.toNat

/-- A write to a register of the stream lands in it alone. -/
theorem csrLands_modStream (s : State) (u : SuiteId) (b : Fin 2) (k : StreamKind) {num : BitVec 12} {v mask : Word} (f : Stream → Stream)
    (frm : num ≠ 0x008 → ∀ x, (f x).frm = x.frm) (xflg : num ≠ 0x009 → ∀ x, (f x).xflg = x.xflg) (semsat : num ≠ 0x00a → ∀ x, (f x).semsat = x.semsat)
    (waittmo : num ≠ 0x030 → ∀ x, (f x).waittmo = x.waittmo)
    (back : csrRead (s.modStream ⟨.bank u b, k⟩ f) ⟨.bank u b, k⟩ num.toNat = .ok (v &&& mask)) :
    CsrLands s (s.modStream ⟨.bank u b, k⟩ f) ⟨.bank u b, k⟩ num v mask := by
  obtain ⟨dbgarm, wpaddr, wpctl⟩ := debug_modStream s ⟨.bank u b, k⟩ f u
  have field : (s.modStream ⟨.bank u b, k⟩ f).stream ⟨.bank u b, k⟩ = f (s.stream ⟨.bank u b, k⟩) := State.stream_modStream ..
  exact ⟨csrFrame_modStream .., back, csrRead_kept (fun h => by rw [field, frm h]) (fun h => by rw [field, xflg h])
    (fun h => by rw [field, semsat h]) (fun h => by rw [field, waittmo h]) (fun _ => dbgarm) (fun _ => wpaddr) (fun _ => wpctl)⟩

/-- A write to a debug register of the Suite lands in it alone. -/
theorem csrLands_modSuite (s : State) (u : SuiteId) (b : Fin 2) (k : StreamKind) {num : BitVec 12} {v mask : Word} (f : Suite → Suite)
    (hb : (f (s.suite u)).banks = (s.suite u).banks) (hc : (f (s.suite u)).chanter = (s.suite u).chanter) (hl : (f (s.suite u)).ls = (s.suite u).ls)
    (dbgarm : num ≠ 0x330 → (f (s.suite u)).dbgarm = (s.suite u).dbgarm) (wpaddr : num ≠ 0x331 → (f (s.suite u)).wpaddr = (s.suite u).wpaddr)
    (wpctl : num ≠ 0x332 → (f (s.suite u)).wpctl = (s.suite u).wpctl)
    (back : csrRead (s.modSuite u f) ⟨.bank u b, k⟩ num.toNat = .ok (v &&& mask)) :
    CsrLands s (s.modSuite u f) ⟨.bank u b, k⟩ num v mask := by
  have field : (s.modSuite u f).suite u = f (s.suite u) := (State.suite_modSuite ..).trans (if_pos rfl)
  have same := stream_modSuite s u b k f hb
  exact ⟨csrFrame_modSuite s u b k f hb hc hl, back, csrRead_kept (fun _ => by rw [same]) (fun _ => by rw [same]) (fun _ => by rw [same])
    (fun _ => by rw [same]) (fun h => by rw [field, dbgarm h]) (fun h => by rw [field, wpaddr h]) (fun h => by rw [field, wpctl h])⟩

theorem csrLands (s : State) (u : SuiteId) (b : Fin 2) (k : StreamKind) (num : BitVec 12) (v mask : Word) (listed : (num, mask) ∈ suiteCsrs) :
    CsrLands s (csrSet s ⟨.bank u b, k⟩ num.toNat v) ⟨.bank u b, k⟩ num v mask := by
  obtain ⟨frm, xflg, semsat, waittmo⟩ := setWidth_setWidth_and v
  simp only [suiteCsrs, List.mem_cons, Prod.mk.injEq, List.not_mem_nil, or_false] at listed
  obtain ⟨rfl, rfl⟩ | ⟨rfl, rfl⟩ | ⟨rfl, rfl⟩ | ⟨rfl, rfl⟩ | ⟨rfl, rfl⟩ | ⟨rfl, rfl⟩ | ⟨rfl, rfl⟩ := listed
  · exact csrLands_modStream s u b k (fun x => { x with frm := v.setWidth 2 }) (fun h => absurd rfl h) (fun _ _ => rfl) (fun _ _ => rfl)
      (fun _ _ => rfl) ((csrRead_frm ..).trans (by rw [State.stream_modStream, frm]))
  · exact csrLands_modStream s u b k (fun x => { x with xflg := (v &&& 0x1f1f).setWidth 13 }) (fun _ _ => rfl) (fun h => absurd rfl h)
      (fun _ _ => rfl) (fun _ _ => rfl) ((csrRead_xflg ..).trans (by rw [State.stream_modStream, xflg]))
  · exact csrLands_modStream s u b k (fun x => { x with semsat := v.setWidth 8 }) (fun _ _ => rfl) (fun _ _ => rfl) (fun h => absurd rfl h)
      (fun _ _ => rfl) ((csrRead_semsat ..).trans (by rw [State.stream_modStream, semsat]))
  · exact csrLands_modStream s u b k (fun x => { x with waittmo := v.setWidth 48 }) (fun _ _ => rfl) (fun _ _ => rfl) (fun _ _ => rfl)
      (fun h => absurd rfl h) ((csrRead_waittmo ..).trans (by rw [State.stream_modStream, waittmo]))
  · exact csrLands_modSuite s u b k (fun x => { x with dbgarm := v &&& 0xffffffff0001ff1f }) rfl rfl rfl (fun h => absurd rfl h) (fun _ => rfl)
      (fun _ => rfl) ((csrRead_dbgarm ..).trans (by rw [State.suite_modSuite, if_pos rfl]))
  · exact csrLands_modSuite s u b k (fun x => { x with wpaddr := v }) rfl rfl rfl (fun _ => rfl) (fun h => absurd rfl h)
      (fun _ => rfl) ((csrRead_wpaddr ..).trans (by rw [State.suite_modSuite, if_pos rfl]; exact congrArg Except.ok (BitVec.and_allOnes (x := v)).symm))
  · exact csrLands_modSuite s u b k (fun x => { x with wpctl := v &&& 0x3f03 }) rfl rfl rfl (fun _ => rfl) (fun _ => rfl)
      (fun h => absurd rfl h) ((csrRead_wpctl ..).trans (by rw [State.suite_modSuite, if_pos rfl]))

/-- Settles O24: each read and write is its plan's outcomes, the ranges of numbers are those of the checks, and a landed write changes one field. -/
theorem controlRegisters : Obligations.ControlRegisters := by
  unfold Obligations.ControlRegisters
  refine ⟨fun d s1 e csr n12 w s => ?_, ⟨?_, ?_, ?_, ?_⟩, ?_⟩
  · have reads : ∀ {i num cls res}, ReadsCsr s i w num cls res → _ := fun {i num cls res} (h : ReadsCsr s i w num cls res) =>
      And.intro h.wide (And.intro h.refused h.reads)
    have writes : ∀ {i num cls op v}, WritesCsr s i w num cls op v → _ := fun {i num cls op v} (h : WritesCsr s i w num cls op v) =>
      And.intro h.lands (And.intro h.refused h.waits)
    exact ⟨fun h => reads (readsCsr_of_plan rfl h), fun h => reads (readsCsr_of_plan rfl h), fun h => writes (writesCsr_of_plan rfl h),
      fun h => writes (writesCsr_of_plan rfl h), fun h => writes (writesCsr_of_plan rfl h), fun h => writes (writesCsr_of_plan rfl h)⟩
  · exact fun s u b k num v lo hi => ⟨csrRead_privileged s u b k lo, csrWriteTrap_privileged s u b k v lo hi⟩
  · intro s ag num v lo hi
    have read := csrRead_unassigned s ag lo hi
    exact ⟨read, csrWriteTrap_error v lo read⟩
  · exact fun s ag num v w => identity_ignored v
  · exact fun s c k num v => csrWriteTrap_hypervisor s k v
  · intro s u b k num v mask ag list listed
    have lands := csrLands s u b k num v mask listed
    exact ⟨_, rfl, lands.back, lands.kept, lands.reads, lands.pkg, lands.rooms, lands.tenants, lands.others, lands.ls⟩

end Sys2Proof.Machine
end

section
/-! PROOFS. Tile fills and drains: the waits on the full bit and the moves at issue (R47, R145-R147). -/

namespace Sys2Proof.Machine

/-! ### The clock of an issue

An entry that an issue queues bears the cycle in which it was queued. -/

theorem cycle_waitRecord (s : State) (ag : Agent) (flag count setter sub : Nat) : (waitRecord s ag flag count setter sub).cycle = s.cycle := by
  obtain h | ⟨t, bytes, h⟩ := waitRecord_cases s ag flag count setter sub <;> rw [h]
  rfl

theorem cycle_endWait (s : State) (ag : Agent) (p : Plan) : (endWait s ag p).cycle = s.cycle := by
  unfold endWait
  split
  · rfl
  · rw [State.modStream_cycle, cycle_waitRecord]

theorem cycle_settleFence (s : State) (r : BankRef) : (settleFence s r).cycle = s.cycle := by
  unfold settleFence
  split
  · rfl
  next q inval _ =>
    split
    · rfl
    · cases r
      · cases inval <;> simp [l1Clear]
      · simp

theorem cycle_beforeMove (s : State) (ag : Agent) (w : BitVec 4) (p : Plan) : (beforeMove s ag w p).cycle = s.cycle := by
  have port : ∀ t, (usePort t ag).cycle = t.cycle := fun t => by unfold usePort; split <;> [rfl; cases ag.bank <;> rfl]
  have mode : ∀ t m, (setLastMode t ag m).cycle = t.cycle := fun t m => by unfold setLastMode; split <;> simp
  have take : (semTake s ag w).cycle = s.cycle := by unfold semTake; split <;> simp
  unfold beforeMove
  rw [port, (counted_countEvents ..).cycle, mode, cycle_endWait, cycle_settleFence, take]

theorem cycle_setPos (s : State) (ag : Agent) (q : Nat) : (setPos s ag q).cycle = s.cycle := by
  unfold setPos
  cases ag.kind <;> simp

theorem cycle_loopIteration (s : State) (ag : Agent) (lid n : Nat) : (loopIteration s ag lid n).cycle = s.cycle := by
  have stop : ∀ t u, (debugStop t ag u lid n).cycle = t.cycle := fun t u => by
    have post : ∀ (v : State) c kind tenant source payload, (postEvent v c kind tenant source payload).cycle = v.cycle := by
      intro v c kind tenant source payload
      obtain ⟨_, _, h, -⟩ := postEvent_eq v c kind tenant source payload
      rw [h]
    unfold debugStop debugRecord
    dsimp only
    rw [post]
    split <;> rfl
  unfold loopIteration
  extract_lets t tr label sel s1
  have recorded : s1.cycle = s.cycle := by show (if _ then _ else _ : State).cycle = _; split <;> rfl
  split
  · exact recorded
  · dsimp only
    split
    · rw [stop, recorded]
    · exact recorded

theorem cycle_advance (s : State) (ag : Agent) (words : Nat) : (advance s ag words).cycle = s.cycle := by
  have steps : ∀ (l : List (Nat × Nat)) (t : State), (l.foldl (fun s x => loopIteration s ag x.1 x.2) t).cycle = t.cycle := by
    intro l
    induction l with
    | nil => exact fun _ => rfl
    | cons x l ih => exact fun t => (ih _).trans (cycle_loopIteration t ag x.1 x.2)
  unfold advance
  dsimp only
  split
  · exact cycle_setPos s ag _
  · exact (steps _ _).trans (State.modStream_cycle ..)

theorem cycle_issued (s : State) (w : BitVec 4) (p : Plan) : (issued s w p).cycle = s.cycle := by
  rw [issued_eq]
  split
  · rw [cycle_setPos, cycle_beforeMove]
  · rw [cycle_advance, cycle_beforeMove]

section Push
variable {s : State} {ag : Agent} {op : QOp} {dn : BitVec 4} {ret now : Nat} (h : s.cycle = now)
include h

theorem pushEntry_load : pushEntry s ag false op dn ret =
    s.modBank ag.bank fun b => { b with lq := b.lq ++ [⟨b.nextSeq, op, dn, ret, now⟩], nextSeq := b.nextSeq + 1 } := by
  subst h; rfl

theorem pushEntry_store : pushEntry s ag true op dn ret =
    s.modBank ag.bank fun b => { b with sq := b.sq ++ [⟨b.nextSeq, op, dn, ret, now⟩], nextSeq := b.nextSeq + 1 } := by
  subst h; rfl

end Push

/-! ### The waits -/

theorem lsHold_eq_some {s : State} {ag : Agent} (a : ag.kind = .a) (p : acquirePending (s.bank ag.bank) = true) : lsHold s ag = some ⟨false, false⟩ := by
  simp [lsHold, a, p, holdPlain]

theorem lsHold_eq_none {s : State} {ag : Agent} (h : ¬ (ag.kind = .a ∧ acquirePending (s.bank ag.bank) = true)) : lsHold s ag = none := by
  unfold lsHold
  rw [if_neg (by simpa using h)]

theorem fedReadHold_eq_none {s : State} {u : SuiteId} {a n : Nat} (h : touchesFed s u a n = false) : fedReadHold s u a n = none := by
  simp [fedReadHold, h]

/-- An aligned access of a tile inside the scratchpad passes the checks of a Local Store address (R146, R147). -/
theorem lsTrap_eq_none {s : State} {u : SuiteId} {a : Word} {align n : Nat} (m : a.toNat % align = 0)
    (fits : a.toNat + n ≤ 0x800000 - (s.suite u).l1mib.toNat * 0x100000) (narrow : a.toNat < 2 ^ 23) : lsTrap s u a align n = none := by
  simp [lsTrap, inScratch, scratchLimit, m, fits, show a.toNat < 8388608 from narrow]

theorem produceHold_free {s : State} {u : SuiteId} {p : Fin 48} (h : (!(tileFlag s u p).full && !(tileFlag s u p).producing) = true) :
    produceHold s u p = none := by
  simpa [produceHold] using h

theorem produceHold_taken {s : State} {u : SuiteId} {p : Fin 48} (h : (!(tileFlag s u p).full && !(tileFlag s u p).producing) = false) :
    produceHold s u p = some ⟨true, true⟩ := by
  unfold produceHold
  rw [if_pos (by revert h; cases (tileFlag s u p).full <;> simp)]
  rfl

theorem consumeHold_ready {s : State} {u : SuiteId} {p : Fin 48} (h : ((tileFlag s u p).full && !(tileFlag s u p).consuming) = true) :
    consumeHold s u p = none := by
  simpa [consumeHold] using h

theorem consumeHold_waits {s : State} {u : SuiteId} {p : Fin 48} (h : ((tileFlag s u p).full && !(tileFlag s u p).consuming) = false) :
    consumeHold s u p = some ⟨true, true⟩ := by
  unfold consumeHold
  rw [if_pos (by revert h; cases (tileFlag s u p).full <;> simp)]
  rfl

/-- What an instruction does that goes on when `go` holds and otherwise waits on a flag. -/
theorem next_or_waits {i : Instr} {w : BitVec 4} {run : State → Agent → Plan} {s : State} {go : Bool} {t : State} (r : ready s i w = true)
    (run_eq : exec i s = issue i w run s) (goes : go = true → (run s s.cur).hold = none) (waits : go = false → (run s s.cur).hold = some ⟨true, true⟩)
    (sound : (run s s.cur).trap = none) (plain : (run s s.cur).onHold = id)
    (ends : (run s s.cur).act (issued s w { jump := (run s s.cur).jump, words := (run s s.cur).words, wait := (run s s.cur).wait }) = t) :
    (go = true → exec i s = .next t) ∧ (go = false → exec i s = .next (markHeld s s.cur ⟨true, true⟩)) := by
  refine ⟨fun g => ?_, fun g => ?_⟩
  · rw [run_eq, issue_next r (goes g) sound, ends]
  · rw [run_eq, issue_waits (ready_iff.mp r).1 (waits g), plain]
    rfl

/-- An acquire that has not performed holds a fill and a drain of the A-stream before any wait of theirs (R143). -/
theorem acquire_holds_tiles {s : State} {i : Instr} {t : BitVec 6} {s1 : BitVec 5} {dn w : BitVec 4} {src : BitVec 1}
    (which : i = .ldt t s1 src dn w ∨ i = .stt t s1 src dn w) (h : free s i w = true) (a : s.cur.kind = .a)
    (p : acquirePending (s.bank s.cur.bank) = true) : exec i s = .next (markHeld s s.cur ⟨false, false⟩) := by
  have first : ∀ x, (lsHold s s.cur).or x = some ⟨false, false⟩ := fun x => by rw [lsHold_eq_some a p]; rfl
  have src_cases : ∀ b : BitVec 1, b = 1 ∨ b = 0 := by decide
  obtain rfl | rfl := src_cases src <;> obtain rfl | rfl := which
  · exact issue_waits h ((congrArg (Option.or · _) (first _)).trans rfl)
  · exact issue_waits h (first _)
  · exact issue_waits h (first _)
  · exact issue_waits h (first _)

/-- Settles O20: each wait is the plan's hold, in order, and the rest is what the plan does once none of them holds. -/
theorem tileFillsAndDrains : Obligations.TileFillsAndDrains := by
  unfold Obligations.TileFillsAndDrains
  intro t s1 dn w s ag u a p f wait free ready1 lsOk held produces consumes box it entry
  have skip : ¬ held → ∀ x, (lsHold s ag).or x = x := fun idle x => by rw [lsHold_eq_none idle]; rfl
  have now : it.cycle = s.cycle := cycle_issued ..
  refine ⟨fun i src which h hold => acquire_holds_tiles which h hold.1 hold.2, fun r idle ok => ?_, fun r idle ok => ?_, fun r idle sound => ?_,
    fun r idle sound => ?_⟩
  · obtain ⟨aligned, fits, narrow, quiet⟩ := ok
    have first : ((lsHold s ag).or (produceHold s u p)).or (fedReadHold s u a.toNat 32768) = produceHold s u p := by
      rw [skip idle, fedReadHold_eq_none quiet, Option.or_none]
    exact next_or_waits r rfl (fun go => first.trans (produceHold_free go)) (fun no => first.trans (produceHold_taken no))
      ((if_neg (not_not.mpr aligned)).trans (lsTrap_eq_none aligned fits narrow)) rfl rfl
  · obtain ⟨aligned, fits, narrow, quiet⟩ := ok
    have sound : (if a.toNat % 256 ≠ 0 then some (cMISALIGN, (0 : Word)) else lsTrap s u a 256 32768).or
        (if touchesFed s u a.toNat 32768 then some (cBANKCF, 0) else none) = none := by
      rw [if_neg (not_not.mpr aligned), lsTrap_eq_none aligned fits narrow, quiet]
      rfl
    exact next_or_waits r rfl (fun go => (skip idle _).trans (consumeHold_ready go)) (fun no => (skip idle _).trans (consumeHold_waits no))
      sound rfl rfl
  · refine next_or_waits r rfl (fun go => (skip idle _).trans (produceHold_free go)) (fun no => (skip idle _).trans (produceHold_taken no))
      sound rfl ?_
    have now : (produces it).cycle = s.cycle := now
    exact Eq.trans (b := pushEntry (produces it) ag false (.ldt p box Tile.zero (List.range (box.rows * box.cols))) dn (posOf s ag)) rfl
      (pushEntry_load now)
  · refine next_or_waits r rfl (fun go => (skip idle _).trans (consumeHold_ready go)) (fun no => (skip idle _).trans (consumeHold_waits no))
      sound rfl ?_
    have now : (consumes it).cycle = s.cycle := now
    exact Eq.trans (b := pushEntry (consumes it) ag true (.stt p box (readTile s u p) (List.range (box.rows * box.cols))) dn (posOf s ag)) rfl
      (pushEntry_store now)

end Sys2Proof.Machine
end

section
/-! PROOFS. What a write to physical memory and to a Local Store leaves in every byte (R55, R68, R324, R408). -/

namespace Sys2Proof.Machine

/-! ### A byte as it reads -/

theorem hbmRead_ext {m m' : Memory} : ∀ (n a : Nat), (∀ i, i < n → hbmGet m (a + i) = hbmGet m' (a + i)) → hbmRead m a n = hbmRead m' a n
  | 0, _, _ => rfl
  | n + 1, a, h => congrArg₂ List.cons (h 0 (Nat.succ_pos n)) (hbmRead_ext n (a + 1) fun i hi => by
      have := h (i + 1) (Nat.succ_lt_succ hi)
      rwa [← Nat.add_assoc, Nat.add_right_comm] at this)

/-- A byte reads alike where its poison, its route, its stamp, the slot's draw and the bytes of its 16-byte unit are alike (R68). -/
theorem physByte_congr {s t : State} {slot b : Nat} (poison : t.pkg.poison.contains (b / 64) = s.pkg.poison.contains (b / 64))
    (lost : farLost t b = farLost s b) (stamp : stampAt t (b / 16) = stampAt s (b / 16)) (draw : stampOf t slot = stampOf s slot)
    (bytes : ∀ c, c / 16 = b / 16 → hbmGet t.pkg.mem c = hbmGet s.pkg.mem c) : physByte t slot b = physByte s slot b := by
  have unit : hbmRead t.pkg.mem (b / 16 * 16) 16 = hbmRead s.pkg.mem (b / 16 * 16) 16 := hbmRead_ext 16 _ fun i hi => bytes _ (by omega)
  unfold physByte
  rw [poison, lost, stamp, draw, unit, bytes b rfl]

/-- A byte written under the slot's present draw reads as it stands. -/
theorem physByte_current {s : State} {slot b : Nat} (clean : s.pkg.poison.contains (b / 64) = false) (hb : b < hbmLimit)
    (stamp : stampAt s (b / 16) = some (stampOf s slot)) : physByte s slot b = memGet s.pkg.mem b := by
  unfold physByte
  rw [clean, farLost_installed _ hb, stamp]
  simp [hbmGet, hb]

theorem hbmGet_hbmWrite_outside {m : Memory} {a b : Nat} {bs : List Byte} (w : m.wf = true) (out : ¬ (a ≤ b ∧ b < a + bs.length)) :
    hbmGet (hbmWrite m a bs) b = hbmGet m b := by
  unfold hbmGet
  by_cases hb : b < hbmLimit
  · rw [if_pos hb, if_pos hb, memGet_hbmWrite _ _ _ _ w hb, if_neg out]
  · rw [if_neg hb, if_neg hb]

/-- Rewriting a unit beyond the installed memory reaches no byte of another. -/
theorem physByte_rewriteUnit_far (slot : Nat) (s : State) {u b : Nat} (far : hbmLimit ≤ b) (other : u ≠ b / 16) :
    physByte (rewriteUnit slot s u) slot b = physByte s slot b := by
  refine physByte_congr (by rw [poison_rewriteUnit]) rfl (by rw [stampAt_rewriteUnit, if_neg other]) (stampOf_rewriteUnit ..) fun c hc => ?_
  have : ¬ c < hbmLimit := by unfold hbmLimit at *; omega
  rw [hbmGet, if_neg this, hbmGet, if_neg this]

theorem physByte_rewriteUnits_far (slot : Nat) {b : Nat} (far : hbmLimit ≤ b) : ∀ (l : List Nat) (s : State), (∀ u ∈ l, u ≠ b / 16) →
    physByte (l.foldl (rewriteUnit slot) s) slot b = physByte s slot b
  | [], _, _ => rfl
  | u :: l, s, h => (physByte_rewriteUnits_far slot far l _ fun v hv => h v (List.mem_cons_of_mem _ hv)).trans
      (physByte_rewriteUnit_far slot s far (h u List.mem_cons_self))

/-! ### The parts of a physical write -/

/-- The state of a write once the units that it touches stand under the present draw. -/
def prepared (s : State) (slot a n : Nat) : State :=
  (unitsOf a n 16).foldl (rewriteUnit slot) (((unitsOf a n 64).filter s.pkg.poison.contains).foldl
    (fun s l => (List.range 4).foldl (fun s i => rewriteUnit slot s (l * 4 + i)) s) s)

/-- The bytes stand in memory, and no line of theirs is poisoned. -/
def stored (s : State) (a : Nat) (bs : List Byte) : State :=
  s.modPkg fun p => { p with mem := hbmWrite p.mem a bs, poison := p.poison.filter fun l => !(unitsOf a bs.length 64).contains l }

/-- What follows the bytes concerns monitors, setters and counts alone. -/
theorem physByte_physWrite (s : State) (slot a : Nat) {bs : List Byte} (setter : Nat) (ne : bs ≠ []) (b : Nat) :
    physByte (physWrite s slot a bs setter) slot b = physByte (stored (prepared s slot a bs.length) a bs) slot b := by
  unfold physWrite
  rw [if_neg (by simpa using ne), triggerAll_physByte, nameAll_physByte, countLost_physByte]
  rfl

section Prepared
variable (s : State) (slot a : Nat) {n : Nat} (w : s.pkg.mem.wf = true)
include w

theorem prepared_rewritten (n : Nat) : Rewritten slot s (prepared s slot a n) := by
  have lines := (rewriteLines_rewritten slot ((unitsOf a n 64).filter s.pkg.poison.contains) s w).1
  exact lines.trans (rewriteUnits_rewritten slot _ _ lines.wf).1

/-- Every installed byte of a touched unit and of a touched poisoned line stands as it read, under the present draw. -/
theorem prepared_stands {b : Nat} (hb : b < hbmLimit) (h : b / 16 ∈ unitsOf a n 16 ∨
    b / 64 ∈ unitsOf a n 64 ∧ s.pkg.poison.contains (b / 64) = true) :
    stampAt (prepared s slot a n) (b / 16) = some (stampOf s slot) ∧ memGet (prepared s slot a n).pkg.mem b = physByte s slot b := by
  obtain ⟨lines, ofLine⟩ := rewriteLines_rewritten slot ((unitsOf a n 64).filter s.pkg.poison.contains) s w
  obtain ⟨units, ofUnit⟩ := rewriteUnits_rewritten slot (unitsOf a n 16) _ lines.wf
  obtain touched | ⟨touched, bad⟩ := h
  · obtain ⟨stamp, bytes⟩ := ofUnit _ touched
    exact ⟨stamp.trans (congrArg some lines.stamp), (bytes b hb rfl).trans (lines.same b hb)⟩
  · obtain ⟨stamp, bytes⟩ := ofLine (b / 64) (List.mem_filter.mpr ⟨touched, bad⟩) (b / 16 % 4) (by omega)
    rw [show b / 64 * 4 + b / 16 % 4 = b / 16 by omega] at stamp bytes
    have kept := units.keep _ (stamp.trans (congrArg some lines.stamp.symm))
    have plain := units.plain b hb ((bytes b hb rfl).trans (lines.same b hb).symm)
    exact ⟨kept.trans (congrArg some lines.stamp), plain.trans (lines.same b hb)⟩

omit w in
/-- Beyond the installed memory the lines that a write does not touch read as before. -/
theorem physByte_prepared_far (ne : n ≠ 0) {b : Nat} (far : hbmLimit ≤ b) (h : b / 64 ∉ unitsOf a n 64) :
    physByte (prepared s slot a n) slot b = physByte s slot b := by
  rw [mem_units _ _ _ _ ne] at h
  have line : ∀ (l : List Nat) (t : State), (∀ x ∈ l, x ≠ b / 64) →
      physByte (l.foldl (fun s l => (List.range 4).foldl (fun s i => rewriteUnit slot s (l * 4 + i)) s) t) slot b = physByte t slot b := by
    intro l
    induction l with
    | nil => exact fun _ _ => rfl
    | cons x l ih =>
      intro t other
      have own : x ≠ b / 64 := other x List.mem_cons_self
      refine (ih _ fun y hy => other y (List.mem_cons_of_mem _ hy)).trans ?_
      refine (congrArg (physByte · slot b) (List.foldl_map (f := (x * 4 + ·)) (g := rewriteUnit slot)).symm).trans ?_
      refine physByte_rewriteUnits_far slot far _ t fun u hu => ?_
      obtain ⟨i, hi, rfl⟩ := List.mem_map.mp hu
      have := List.mem_range.mp hi
      omega
  unfold prepared
  rw [physByte_rewriteUnits_far slot far _ _ fun u hu e => ?_, line _ _ fun x hx e => ?_]
  · have := (mem_units _ _ _ _ ne).mp (List.mem_filter.mp hx).1
    exact h (e ▸ this)
  · have := (mem_units _ _ _ _ ne).mp hu
    omega

end Prepared

/-- A write ends the poison of the lines that it touches (R408). -/
theorem poison_stored (s : State) (a : Nat) (bs : List Byte) (l : Nat) :
    (stored s a bs).pkg.poison.contains l = (s.pkg.poison.contains l && !(unitsOf a bs.length 64).contains l) := by
  rw [Bool.eq_iff_iff]
  simp [stored]

/-- Bytes outside the units of a write whose poison it leaves read as they did before the bytes were stored. -/
theorem physByte_stored_frame {s : State} (w : s.pkg.mem.wf = true) (slot : Nat) {a b : Nat} {bs : List Byte} (ne : bs.length ≠ 0)
    (unit : b / 16 ∉ unitsOf a bs.length 16) (line : b / 64 ∈ unitsOf a bs.length 64 → s.pkg.poison.contains (b / 64) = false) :
    physByte (stored s a bs) slot b = physByte s slot b := by
  refine physByte_congr ?_ rfl rfl rfl fun c hc => hbmGet_hbmWrite_outside w fun inside => unit ((mem_units _ _ _ _ ne).mpr (by omega))
  rw [poison_stored]
  by_cases touched : b / 64 ∈ unitsOf a bs.length 64
  · rw [line touched, Bool.false_and]
  · rw [List.contains_iff_mem.not.mpr touched |> Bool.eq_false_iff.mpr, Bool.not_false, Bool.and_true]

/-- A byte of memory after a write (R68, R324, R408). -/
theorem physByte_physWrite_of (s : State) (slot a : Nat) (bs : List Byte) (setter : Nat) (w : s.pkg.mem.wf = true) (b : Nat)
    (h : b < hbmLimit ∨ b / 64 < a / 64 ∨ (a + bs.length - 1) / 64 < b / 64) :
    physByte (physWrite s slot a bs setter) slot b = if a ≤ b ∧ b < a + bs.length then bs.getD (b - a) 0 else physByte s slot b := by
  by_cases empty : bs = []
  · subst empty
    rw [if_neg (by simp)]
    rfl
  have ne : bs.length ≠ 0 := by simpa using empty
  have ready := prepared_rewritten s slot a w bs.length
  have inLine : (a ≤ b ∧ b < a + bs.length) → b / 16 ∈ unitsOf a bs.length 16 := fun inside => (mem_units _ _ _ _ ne).mpr (by omega)
  have ofUnit : b / 16 ∈ unitsOf a bs.length 16 → b / 64 ∈ unitsOf a bs.length 64 := by
    rw [mem_units _ _ _ _ ne, mem_units _ _ _ _ ne]
    omega
  rw [physByte_physWrite s slot a setter empty]
  by_cases stands : b / 16 ∈ unitsOf a bs.length 16 ∨ b / 64 ∈ unitsOf a bs.length 64 ∧ s.pkg.poison.contains (b / 64) = true
  · have touched : b / 64 ∈ unitsOf a bs.length 64 := stands.elim ofUnit And.left
    have hb : b < hbmLimit := by
      have := (mem_units _ _ _ _ ne).mp touched
      omega
    obtain ⟨stamp, bytes⟩ := prepared_stands s slot a w hb stands
    have clean : (stored (prepared s slot a bs.length) a bs).pkg.poison.contains (b / 64) = false := by
      rw [poison_stored, List.contains_iff_mem.mpr touched, Bool.not_true, Bool.and_false]
    rw [physByte_current clean hb (stamp.trans (congrArg some ready.stamp.symm))]
    exact (memGet_hbmWrite bs _ a b ready.wf hb).trans (by rw [bytes])
  · obtain ⟨unit, line⟩ := not_or.mp stands
    rw [if_neg (mt inLine unit), physByte_stored_frame ready.wf slot ne unit fun touched => by
      rw [ready.poison]; exact Bool.eq_false_iff.mpr fun bad => line ⟨touched, bad⟩]
    by_cases hb : b < hbmLimit
    · exact ready.same b hb
    · refine physByte_prepared_far s slot a ne (Nat.not_lt.mp hb) fun touched => ?_
      have := (mem_units _ _ _ _ ne).mp touched
      omega

/-! ### Local Stores -/

/-- The touched units of a Local Store that are poisoned. -/
def badUnits (s : State) (u : SuiteId) (a n : Nat) : List Nat := (unitsOf a n 64).filter fun l => lsPoisoned s u (l * 64)

/-- Units of a Local Store filled with 0xff bytes. -/
def filled (u : SuiteId) (s : State) (l : List Nat) : State :=
  l.foldl (fun s l => s.modSuite u fun x => { x with ls := memWrite x.ls (l * 64) (List.replicate 64 0xff) }) s

/-- No poison of these units stands any more. -/
def unpoisoned (u : SuiteId) (s : State) (l : List Nat) : State := s.modPkg fun p =>
  { p with flips := p.flips.filter fun e => match e with | .ls v x => !(v == u && l.contains (x / 64)) | _ => true }

theorem pkg_filled (u : SuiteId) : ∀ (l : List Nat) (s : State), (filled u s l).pkg = s.pkg
  | [], _ => rfl
  | _ :: l, _ => (pkg_filled u l _).trans rfl

theorem ls_filled_other {u v : SuiteId} (h : v ≠ u) : ∀ (l : List Nat) (s : State), ((filled u s l).suite v).ls = (s.suite v).ls
  | [], _ => rfl
  | _ :: l, s => (ls_filled_other h l _).trans (by rw [State.suite_modSuite, if_neg (Ne.symm h)])

theorem ls_filled (u : SuiteId) : ∀ (l : List Nat) (s : State) (b : Nat), (s.suite u).ls.wf = true → ((filled u s l).suite u).ls.wf = true ∧
    memGet ((filled u s l).suite u).ls b = if b / 64 ∈ l then 0xff else memGet (s.suite u).ls b
  | [], _, _, w => ⟨w, by simp [filled]⟩
  | x :: l, s, b, w => by
    have one : ((s.modSuite u fun y => { y with ls := memWrite y.ls (x * 64) (List.replicate 64 0xff) }).suite u).ls =
        memWrite (s.suite u).ls (x * 64) (List.replicate 64 0xff) := by rw [State.suite_modSuite, if_pos rfl]
    obtain ⟨wf, bytes⟩ := ls_filled u l _ b (by rw [one]; exact memWrite_wf _ _ _ w)
    refine ⟨wf, bytes.trans ?_⟩
    rw [one, memGet_memWrite _ _ _ _ w, List.length_replicate]
    by_cases e : b / 64 = x
    · rw [if_pos (show x * 64 ≤ b ∧ b < x * 64 + 64 by omega), List.getD_replicate _ (show b - x * 64 < 64 by omega), ite_self]
      exact (if_pos (List.mem_cons.mpr (.inl e))).symm
    · rw [if_neg (show ¬ (x * 64 ≤ b ∧ b < x * 64 + 64) by omega)]
      simp [e]

/-- A Local Store's poison is that of whole units. -/
theorem lsPoisoned_unit (s : State) (u : SuiteId) (b : Nat) : lsPoisoned s u (b / 64 * 64) = lsPoisoned s u b := by
  unfold lsPoisoned
  rw [Nat.mul_div_cancel _ (by decide)]

/-- Error sites without those of Local Stores that `keep` leaves out. -/
def keepLs (keep : SuiteId → Nat → Bool) : ErrSite → Bool
  | .ls v x => keep v x
  | _ => true

/-- Where whole units lose their errors, the others are poisoned as before. -/
theorem lsPoisoned_keepLs {s t : State} {keep : SuiteId → Nat → Bool} (h : t.pkg.flips = s.pkg.flips.filter (keepLs keep)) (v : SuiteId) (b : Nat)
    (unit : ∀ x, x / 64 = b / 64 → keep v x = keep v b) : lsPoisoned t v b = (lsPoisoned s v b && keep v b) := by
  unfold lsPoisoned
  rw [h, List.any_filter, Bool.eq_iff_iff]
  simp only [List.any_eq_true, Bool.and_eq_true]
  have same : ∀ {w : SuiteId} {x : Nat}, (w == v && x / 64 == b / 64) = true → w = v ∧ x / 64 = b / 64 := fun hit => by simpa using hit
  constructor
  · rintro ⟨e, he, kept, hit⟩
    refine ⟨⟨e, he, hit⟩, ?_⟩
    cases e with
    | ls w x => obtain ⟨rfl, hx⟩ := same hit; rw [← unit x hx]; exact kept
    | _ => cases hit
  · rintro ⟨⟨e, he, hit⟩, kept⟩
    refine ⟨e, he, ?_, hit⟩
    cases e with
    | ls w x => obtain ⟨rfl, hx⟩ := same hit; rw [← unit x hx] at kept; exact kept
    | _ => rfl

theorem lsPoisoned_unpoisoned (u v : SuiteId) (s : State) (l : List Nat) (b : Nat) :
    lsPoisoned (unpoisoned u s l) v b = (lsPoisoned s v b && !(v == u && l.contains (b / 64))) :=
  lsPoisoned_keepLs (keep := fun w x => !(w == u && l.contains (x / 64)))
    (congrArg (List.filter · s.pkg.flips) (funext fun e => by cases e <;> rfl)) v b fun x hx => by rw [hx]

/-- The state of a Local Store write before its bytes stand there. -/
def cleared (s : State) (u : SuiteId) (a n : Nat) : State :=
  if (badUnits s u a n).isEmpty then filled u s (badUnits s u a n) else unpoisoned u (filled u s (badUnits s u a n)) (badUnits s u a n)

theorem lsWrite_eq (s : State) (u : SuiteId) (a : Nat) (bs : List Byte) :
    lsWrite s u a bs = (cleared s u a bs.length).modSuite u fun x => { x with ls := memWrite x.ls a bs } := rfl

theorem suite_cleared (s : State) (u v : SuiteId) (a n : Nat) : (cleared s u a n).suite v = (filled u s (badUnits s u a n)).suite v := by
  unfold cleared
  split <;> rfl

theorem mem_cleared (s : State) (u : SuiteId) (a n : Nat) : (cleared s u a n).pkg.mem = s.pkg.mem := by
  unfold cleared
  split
  · rw [pkg_filled]
  · rw [unpoisoned, State.pkg_modPkg, pkg_filled]

theorem lsPoisoned_filled (u v : SuiteId) (l : List Nat) (s : State) (b : Nat) : lsPoisoned (filled u s l) v b = lsPoisoned s v b := by
  unfold lsPoisoned
  rw [pkg_filled]

theorem lsPoisoned_cleared (s : State) (u v : SuiteId) (a n b : Nat) :
    lsPoisoned (cleared s u a n) v b = (lsPoisoned s v b && !(v == u && (badUnits s u a n).contains (b / 64))) := by
  unfold cleared
  split
  next none =>
    rw [lsPoisoned_filled, List.isEmpty_iff.mp none]
    simp
  next => rw [lsPoisoned_unpoisoned, lsPoisoned_filled]

theorem mem_badUnits {s : State} {u : SuiteId} {a n b : Nat} : b / 64 ∈ badUnits s u a n ↔ b / 64 ∈ unitsOf a n 64 ∧ lsPoisoned s u b = true := by
  rw [badUnits, List.mem_filter, lsPoisoned_unit]

/-- One byte of a Local Store. -/
theorem lsRead_one (s : State) (u : SuiteId) (b : Nat) : lsRead s u b 1 = [if lsPoisoned s u b then 0xff else memGet (s.suite u).ls b] := rfl

theorem lsRead_lsWrite_other (s : State) {u v : SuiteId} (a : Nat) (bs : List Byte) (b : Nat) (h : v ≠ u) :
    lsRead (lsWrite s u a bs) v b 1 = lsRead s v b 1 := by
  have poison : lsPoisoned (lsWrite s u a bs) v b = lsPoisoned s v b := by
    refine (lsPoisoned_cleared s u v a bs.length b).trans ?_
    simp [h]
  have bytes : ((lsWrite s u a bs).suite v).ls = (s.suite v).ls := by
    rw [lsWrite_eq, State.suite_modSuite, if_neg (Ne.symm h), suite_cleared, ls_filled_other h]
  rw [lsRead_one, lsRead_one, poison, bytes]

theorem lsRead_lsWrite_same (s : State) (u : SuiteId) (a : Nat) (bs : List Byte) (w : (s.suite u).ls.wf = true) (b : Nat) :
    lsRead (lsWrite s u a bs) u b 1 = if a ≤ b ∧ b < a + bs.length then [bs.getD (b - a) 0] else lsRead s u b 1 := by
  obtain ⟨wf, fill⟩ := ls_filled u (badUnits s u a bs.length) s b w
  have poison : lsPoisoned (lsWrite s u a bs) u b = (lsPoisoned s u b && !(badUnits s u a bs.length).contains (b / 64)) := by
    refine (lsPoisoned_cleared s u u a bs.length b).trans ?_
    simp
  have bytes : memGet ((lsWrite s u a bs).suite u).ls b = if a ≤ b ∧ b < a + bs.length then bs.getD (b - a) 0 else
      if b / 64 ∈ badUnits s u a bs.length then 0xff else memGet (s.suite u).ls b := by
    rw [lsWrite_eq, State.suite_modSuite, if_pos rfl, suite_cleared]
    exact (memGet_memWrite bs _ a b wf).trans (by rw [fill])
  rw [lsRead_one, lsRead_one, poison, bytes]
  by_cases inside : a ≤ b ∧ b < a + bs.length
  · have touched : b / 64 ∈ unitsOf a bs.length 64 := (mem_units _ _ _ _ (by omega)).mpr (by omega)
    have ends : (lsPoisoned s u b && !(badUnits s u a bs.length).contains (b / 64)) = false := by
      cases bad : lsPoisoned s u b
      · rfl
      · rw [List.contains_iff_mem.mpr (mem_badUnits.mpr ⟨touched, bad⟩)]; rfl
    rw [if_pos inside, if_pos inside, ends]
    rfl
  · rw [if_neg inside, if_neg inside]
    by_cases bad : b / 64 ∈ badUnits s u a bs.length
    · rw [if_pos bad, ite_self, if_pos (mem_badUnits.mp bad).2]
    · rw [if_neg bad, List.contains_iff_mem.not.mpr bad |> Bool.eq_false_iff.mpr, Bool.not_false, Bool.and_true]

/-- Settles O8: a write first makes every byte of the units it touches stand as it reads, then replaces its own. -/
theorem memoryWrites : Obligations.MemoryWrites := by
  unfold Obligations.MemoryWrites
  refine ⟨fun s slot a bs setter w => ⟨physWrite_wf s slot a bs setter w, physByte_physWrite_of s slot a bs setter w⟩,
    fun s u a bs w => ⟨lsWrite_wf s u a bs w, mem_cleared s u a bs.length, fun v b => ?_⟩⟩
  by_cases h : v = u
  · subst h
    rw [lsRead_lsWrite_same s v a bs (w v) b]
    simp only [true_and]
  · rw [lsRead_lsWrite_other s a bs b h, if_neg fun c => h c.1]

end Sys2Proof.Machine
end

section
/-! PROOFS. TINV and FREL: their checks and their completions (R66, R164, R165, R371). -/

namespace Sys2Proof.Machine

/-- Only what the plan is for the running stream counts. -/
theorem exec_of_plan {i : Instr} {w : BitVec 4} {s : State} {run : State → Agent → Plan} {p : Plan} (run_eq : exec i s = issue i w run s)
    (plan : run s s.cur = p) : exec i s = issue i w (fun _ _ => p) s := by
  subst plan
  exact run_eq

/-! ### TINV -/

section Tinv
variable {s1 s2 : BitVec 5} {dn w : BitVec 4} {s : State} {c : CtxId}

/-- What TINV asks of the issue protocol in a context. -/
def tinvPlan (s : State) (c : CtxId) (s1 s2 : BitVec 5) (dn : BitVec 4) : Plan :=
  let x := (readA s s.cur s1).toNat
  let n := (readA s s.cur s2).toNat
  { trap := if x / 2 ^ 22 ≠ 0 then some (cILLFLD, 0) else if c ≠ hypervisor ∧ natBits x 16 6 ≠ (ctxTenant s c).val then some (cPROT, 0) else none
    act := fun t => if n = 0 then doneFor t (.ctx c) s.cur.kind dn
      else t.modCtx c fun y => { y with tinv := y.tinv ++ [(x % 65536, natBits x 16 6, n, dn)] } }

theorem exec_tinv (hc : s.cur.bank = .ctx c) : exec (.tinv s1 s2 dn w) s = issue (.tinv s1 s2 dn w) w (fun _ _ => tinvPlan s c s1 s2 dn) s :=
  exec_of_plan (i := .tinv s1 s2 dn w) rfl (by simp only [hc]; rfl)

theorem tinv_wide (hc : s.cur.bank = .ctx c) (h : free s (.tinv s1 s2 dn w) w = true) (wide : 2 ^ 22 ≤ (readA s s.cur s1).toNat) :
    trapsAs s (.tinv s1 s2 dn w) 0x02 0 (posOf s s.cur) :=
  trapsAs_plan (exec_tinv hc) h rfl (if_pos (Nat.div_pos wide (by decide)).ne') rfl

theorem tinv_narrow {x : Nat} (narrow : x < 2 ^ 22) : ¬ x / 2 ^ 22 ≠ 0 := not_not.mpr (Nat.div_eq_of_lt narrow)

theorem tinv_foreign (hc : s.cur.bank = .ctx c) (h : free s (.tinv s1 s2 dn w) w = true) (narrow : (readA s s.cur s1).toNat < 2 ^ 22)
    (foreign : c ≠ hypervisor ∧ (readA s s.cur s1).toNat / 2 ^ 16 % 64 ≠ (ctxTenant s c).val) :
    trapsAs s (.tinv s1 s2 dn w) 0x22 0 (posOf s s.cur) :=
  trapsAs_plan (exec_tinv hc) h rfl ((if_neg (tinv_narrow narrow)).trans (if_pos foreign)) rfl

theorem tinv_accepted (hc : s.cur.bank = .ctx c) (r : ready s (.tinv s1 s2 dn w) w = true) (narrow : (readA s s.cur s1).toNat < 2 ^ 22)
    (own : c = hypervisor ∨ (readA s s.cur s1).toNat / 2 ^ 16 % 64 = (ctxTenant s c).val) :
    exec (.tinv s1 s2 dn w) s = .next ((tinvPlan s c s1 s2 dn).act (issued s w)) :=
  (exec_tinv hc).trans (issue_next r rfl ((if_neg (tinv_narrow narrow)).trans (if_neg fun bad => own.elim bad.1 bad.2)))

end Tinv

/-- A completion of a context reaches its stream through the done fields alone. -/
theorem doneFor_ctx (s : State) (c : CtxId) (k : StreamKind) (dn : BitVec 4) : ((doneFor s (.ctx c) k dn).ctx c).kept = (s.ctx c).kept := by
  unfold doneFor
  split
  · exact State.ctx_setBank_kept ..
  · rfl

theorem l1_doneFor (s : State) (r : BankRef) (k : StreamKind) (dn : BitVec 4) (u : SuiteId) : ((doneFor s r k dn).suite u).l1 = (s.suite u).l1 := by
  obtain ⟨-, -, -, -, -, -, suites, -⟩ := doneFor_keeps s r k dn
  have := congrArg Suite.l1 (suites u)
  exact this

section MapSuites
variable (s : State) (g : Suite → Suite)

/-- Where every Suite changes alike. -/
theorem suite_mapSuites (u : SuiteId) : ({ s with suites := s.suites.map g } : State).suite u = g (s.suite u) := Vector.getElem_map ..

end MapSuites

/-- Whether a range of segments from `first` names one. -/
def inRange (first n g : Nat) : Bool := decide (first ≤ g) && decide (g < first + n)

/-- The state of a TINV completion before its done fields. -/
def tinvDone (s : State) (c : CtxId) (rest : List (Nat × Nat × Nat × BitVec 4)) (tn : TenantId) (p : Nat → Bool) : State :=
  triggerSegment (invalidateSegments (s.modCtx c fun x => { x with tinv := rest }) tn p) tn p

theorem ctx_tinvDone (s : State) (c : CtxId) (rest : List (Nat × Nat × Nat × BitVec 4)) (tn : TenantId) (p : Nat → Bool) :
    (tinvDone s c rest tn p).ctx c = { s.ctx c with tinv := rest } :=
  (State.ctx_modCtx s c c fun x => { x with tinv := rest }).trans (if_pos rfl)

theorem exec_tinvCompletion {s : State} {c : CtxId} {first n : Nat} {tn : TenantId} {dn : BitVec 4} {rest : List (Nat × Nat × Nat × BitVec 4)}
    (h : (s.ctx c).tinv = (first, tn.val, n, dn) :: rest) :
    exec (.tinvCompletion c) s = .next (doneFor (tinvDone s c rest tn (inRange first n)) (.ctx c) .a dn) := by
  show execTinvCompletion c s = _
  have tenant : (⟨tn.val % 64, Nat.mod_lt _ (by decide)⟩ : TenantId) = tn := Fin.ext (Nat.mod_eq_of_lt tn.isLt)
  unfold execTinvCompletion
  rw [h]
  dsimp only
  rw [tenant]
  rfl

theorem mem_ports_invalidate (s : State) (tn : TenantId) (p : Nat → Bool) (e : PortEntry) :
    e ∈ (invalidateSegments s tn p).pkg.ports ↔ e ∈ s.pkg.ports ∧ match e with
      | .desc t' g _ => ¬ (t' = tn ∧ p g = true)
      | .pte t' g _ _ => ¬ (t' = tn ∧ p g = true) := by
  refine List.mem_filter.trans (and_congr_right fun _ => ?_)
  cases e <;> simp [imp_iff_not_or]

theorem mem_l1_clearSeg (s : State) (tn : TenantId) (p : Nat → Bool) (u : SuiteId) (l : L1Line) :
    l ∈ ((l1ClearSeg s tn p).suite u).l1 ↔ l ∈ (s.suite u).l1 ∧ ¬ (l.tenant = tn ∧ p l.seg = true) := by
  refine (iff_of_eq (congrArg (fun x : Suite => l ∈ x.l1) (suite_mapSuites s _ u))).trans (List.mem_filter.trans (and_congr_right fun _ => ?_))
  simp [imp_iff_not_or]

theorem mem_l1_tinvDone (s : State) (c : CtxId) (rest : List (Nat × Nat × Nat × BitVec 4)) (tn : TenantId) (p : Nat → Bool) (u : SuiteId) (l : L1Line) :
    l ∈ ((tinvDone s c rest tn p).suite u).l1 ↔ l ∈ (s.suite u).l1 ∧ ¬ (l.tenant = tn ∧ p l.seg = true) :=
  mem_l1_clearSeg ..

theorem tinv_completes (s : State) (c : CtxId) (first n : Nat) (tn : TenantId) (dn : BitVec 4) (rest : List (Nat × Nat × Nat × BitVec 4))
    (h : (s.ctx c).tinv = (first, tn.val, n, dn) :: rest) : answers (.tinvCompletion c) s fun t =>
      (t.ctx c).tinv = rest ∧ doneIn s t (.ctx c) .a dn ∧ t.pkg.mem = s.pkg.mem ∧
      (∀ e, e ∈ t.pkg.ports ↔ e ∈ s.pkg.ports ∧ match e with
        | .desc t' g _ => ¬ (t' = tn ∧ inRange first n g = true)
        | .pte t' g _ _ => ¬ (t' = tn ∧ inRange first n g = true)) ∧
      ∀ u l, l ∈ (t.suite u).l1 ↔ l ∈ (s.suite u).l1 ∧ ¬ (l.tenant = tn ∧ inRange first n l.seg = true) := by
  refine ⟨_, exec_tinvCompletion h, ?_, ?_, ?_, fun e => ?_, fun u l => ?_⟩
  · have kept := congrArg Ctx.tinv (doneFor_ctx (tinvDone s c rest tn (inRange first n)) c .a dn)
    rw [ctx_tinvDone] at kept
    exact kept
  · refine doneIn_congr ?_ (doneFor_done (tinvDone s c rest tn (inRange first n)) (.ctx c) .a dn)
    have regs := congrArg Ctx.regs (ctx_tinvDone s c rest tn (inRange first n))
    exact congrArg (fun b : Bank => (b.stream .a).semNew) regs
  · rw [(doneFor_keeps ..).1]
    rfl
  · rw [(doneFor_keeps ..).1]
    exact mem_ports_invalidate ..
  · rw [l1_doneFor]
    exact mem_l1_tinvDone ..

/-! ### FREL -/

section Frel
variable {s1 s2 : BitVec 5} {dn w : BitVec 4} {s : State} {c : CtxId}

/-- What FREL asks of the issue protocol in a context. -/
def frelPlan (s : State) (c : CtxId) (f x : Nat) (dn : BitVec 4) : Plan :=
  let r : TenantId := ⟨x % 64, Nat.mod_lt _ (by decide)⟩
  let slot : Fin 128 := ⟨natBits x 8 7, Nat.mod_lt _ (by decide)⟩
  { trap := if f / 2 ^ 40 ≠ 0 ∨ x / 2 ^ 15 ≠ 0 ∨ natBits x 6 2 ≠ 0 then some (cILLFLD, 0)
      else if c ≠ hypervisor ∧ frameOwner s f ≠ some (ctxTenant s c) then some (cPROT, 0)
      else if (s.pkg.keys.get slot).tenant ≠ some r then some (cPROT, 0)
      else none
    act := fun t => (t.modCtx c fun y => { y with frel := y.frel ++ [(f, r, slot.val, dn)] }).modPkg fun p =>
      { p with frames := { p.frames with releasing := (f, r) :: p.frames.releasing } } }

theorem exec_frel (hc : s.cur.bank = .ctx c) : exec (.frel s1 s2 dn w) s =
    issue (.frel s1 s2 dn w) w (fun _ _ => frelPlan s c (readA s s.cur s1).toNat (readA s s.cur s2).toNat dn) s :=
  exec_of_plan (i := .frel s1 s2 dn w) rfl (by simp only [hc]; rfl)

end Frel

/-- The state of an FREL completion before its done fields. -/
def frelDone (s : State) (c : CtxId) (f slot : Nat) (r : TenantId) (rest : List (Nat × TenantId × Nat × BitVec 4)) : State :=
  let s1 := (s.modCtx c fun x => { x with frel := rest }).modPkg fun p =>
    { p with mem := memClear p.mem (f * 65536) 65536
             stamps := (List.range 4096).map (fun i => (f * 4096 + i, stampOf s slot)) ++ p.stamps.filter (fun q => q.1 / 4096 != f)
             poison := p.poison.filter fun l => l / 1024 != f
             setters := (List.range 8192).map (fun i => (f * 8192 + i, BitVec.ofNat 16 (256 + c.val))) ++ p.setters.filter (fun q => q.1 / 8192 != f)
             monitors := p.monitors.map fun (l, w, x) => (l, w, x || l / 1024 == f)
             frames := { owner := (f, r) :: p.frames.owner.filter (fun q => q.1 != f), releasing := p.frames.releasing.erase (f, r) } }
  { s1 with suites := s1.suites.map fun x => { x with l1 := x.l1.filter fun e => !e.frames.contains f } }

theorem ctx_frelDone (s : State) (c : CtxId) (f slot : Nat) (r : TenantId) (rest : List (Nat × TenantId × Nat × BitVec 4)) :
    (frelDone s c f slot r rest).ctx c = { s.ctx c with frel := rest } :=
  (State.ctx_modCtx s c c fun x => { x with frel := rest }).trans (if_pos rfl)

theorem exec_frelCompletion {s : State} {c : CtxId} {f slot : Nat} {r : TenantId} {dn : BitVec 4} {rest : List (Nat × TenantId × Nat × BitVec 4)}
    (h : (s.ctx c).frel = (f, r, slot, dn) :: rest) :
    exec (.frelCompletion c) s = .next (doneFor (frelDone s c f slot r rest) (.ctx c) .a dn) := by
  show execFrelCompletion c s = _
  unfold execFrelCompletion
  rw [h]
  rfl

/-! ### A frame that comes back zeroed -/

theorem memGet_memClear (m : Memory) (a n b : Nat) : memGet (memClear m a n) b = if a ≤ b ∧ b < a + n then Config.memDefault else memGet m b := by
  induction m with
  | nil => exact (ite_self _).symm
  | cons e m ih =>
    obtain ⟨k, v⟩ := e
    unfold memClear at ih ⊢
    rw [List.filter_cons]
    by_cases e : k = b
    · subst e
      by_cases inside : a ≤ k ∧ k < a + n
      · rw [if_neg (by simp [inside]), ih, if_pos inside, if_pos inside]
      · rw [if_pos (by simpa [-not_and, not_and_or] using inside), if_neg inside]
        simp [memGet]
    · split
      · simp only [memGet, if_neg e, ih]
      · rw [ih]
        simp only [memGet, if_neg e]

/-- The stamps of a frame's units are put in front of all others. -/
theorem stampAt_cons_range {s : State} {f k u : Nat} {rest : List (Nat × Nat)}
    (h : s.pkg.stamps = (List.range 4096).map (fun i => (f * 4096 + i, k)) ++ rest) (inside : u / 4096 = f) : stampAt s u = some k := by
  have listed : (f * 4096 + u % 4096, k) ∈ (List.range 4096).map (fun i => (f * 4096 + i, k)) :=
    List.mem_map.mpr ⟨u % 4096, List.mem_range.mpr (Nat.mod_lt _ (by decide)), rfl⟩
  unfold stampAt
  rw [h, List.find?_append]
  cases found : ((List.range 4096).map fun i => (f * 4096 + i, k)).find? fun p => p.1 == u with
  | none =>
    have := List.find?_eq_none.mp found _ listed
    exact absurd (show f * 4096 + u % 4096 = u by omega) (by simpa using this)
  | some q =>
    obtain ⟨i, -, rfl⟩ := List.mem_map.mp (List.mem_of_find?_eq_some found)
    rfl

/-- And leave those of other frames. -/
theorem stampAt_outside {s t : State} {f k u : Nat}
    (h : t.pkg.stamps = (List.range 4096).map (fun i => (f * 4096 + i, k)) ++ s.pkg.stamps.filter fun q => q.1 / 4096 != f)
    (outside : u / 4096 ≠ f) : stampAt t u = stampAt s u := by
  unfold stampAt
  rw [h, List.find?_append, List.find?_filter, List.find?_eq_none.mpr, Option.none_or]
  · congr 2
    funext q
    by_cases e : q.1 = u
    · simp [e, outside]
    · simp [e]
  · intro q hq
    obtain ⟨i, hi, rfl⟩ := List.mem_map.mp hq
    have := List.mem_range.mp hi
    simp only [beq_iff_eq]
    omega

/-- What reads of memory return rests on the package alone. -/
theorem physByte_of_pkg {s t : State} (h : t.pkg = s.pkg) (slot b : Nat) : physByte t slot b = physByte s slot b := by
  refine physByte_congr (by rw [h]) ?_ ?_ ?_ fun _ _ => by rw [h]
  · simp only [farLost, reachable, h]
  · simp only [stampAt, h]
  · simp only [stampOf, h]

section Frame
variable (s : State) (c : CtxId) (f slot : Nat) (r : TenantId) (rest : List (Nat × TenantId × Nat × BitVec 4))

theorem poison_frelDone (l : Nat) : (frelDone s c f slot r rest).pkg.poison.contains l = (s.pkg.poison.contains l && l / 1024 != f) := by
  show (s.pkg.poison.filter fun l => l / 1024 != f).contains l = _
  rw [Bool.eq_iff_iff]
  simp

/-- Every byte of the frame reads zero under the receiver's key slot (R165). -/
theorem physByte_frelDone_inside (installed : f < frameCount) {a : Nat} (inside : a / 65536 = f) : physByte (frelDone s c f slot r rest) slot a = 0 := by
  have clean : (frelDone s c f slot r rest).pkg.poison.contains (a / 64) = false := by
    rw [poison_frelDone, show a / 64 / 1024 = f by omega]
    simp
  have stamp : stampAt (frelDone s c f slot r rest) (a / 16) = some (stampOf s slot) := stampAt_cons_range rfl (by omega)
  rw [physByte_current clean (by unfold hbmLimit; omega) stamp]
  exact (memGet_memClear ..).trans (if_pos (by omega))

/-- No byte of another frame reads otherwise. -/
theorem physByte_frelDone_outside (k : Nat) {a : Nat} (outside : a / 65536 ≠ f) : physByte (frelDone s c f slot r rest) k a = physByte s k a := by
  refine physByte_congr ?_ rfl (stampAt_outside rfl (by omega)) rfl fun b hb => ?_
  · rw [poison_frelDone]
    simp [show a / 64 / 1024 ≠ f by omega]
  · have same : memGet (frelDone s c f slot r rest).pkg.mem b = memGet s.pkg.mem b := (memGet_memClear ..).trans (if_neg (by omega))
    unfold hbmGet
    rw [same]

theorem frameOwner_frelDone (g : Nat) : frameOwner (frelDone s c f slot r rest) g = if g = f then some r else frameOwner s g := by
  show (((f, r) :: s.pkg.frames.owner.filter fun q => q.1 != f).find? fun p => p.1 == g).map (·.2) = _
  by_cases e : g = f
  · subst e
    rw [List.find?_cons_of_pos (by simp), if_pos rfl]
    rfl
  · rw [List.find?_cons_of_neg (by simpa using Ne.symm e), if_neg e, List.find?_filter]
    unfold frameOwner
    congr 2
    funext q
    by_cases e' : q.1 = g
    · simp [e', e]
    · simp [e']

theorem mem_l1_frelDone (u : SuiteId) (l : L1Line) :
    l ∈ ((frelDone s c f slot r rest).suite u).l1 ↔ l ∈ (s.suite u).l1 ∧ f ∉ l.frames := by
  refine (iff_of_eq (congrArg (fun x : Suite => l ∈ x.l1) (suite_mapSuites _ _ u))).trans (List.mem_filter.trans (and_congr_right fun _ => ?_))
  simp

end Frame

theorem frel_completes (s : State) (c : CtxId) (f slot : Nat) (r : TenantId) (dn : BitVec 4) (rest : List (Nat × TenantId × Nat × BitVec 4))
    (h : (s.ctx c).frel = (f, r, slot, dn) :: rest) : answers (.frelCompletion c) s fun t =>
      (f < frameCount → ∀ a, a / 65536 = f → physByte t slot a = 0) ∧ (∀ k a, a / 65536 ≠ f → physByte t k a = physByte s k a) ∧
      (∀ u l, l ∈ (t.suite u).l1 ↔ l ∈ (s.suite u).l1 ∧ f ∉ l.frames) ∧
      frameOwner t f = some r ∧ (∀ g, g ≠ f → frameOwner t g = frameOwner s g) ∧ (t.ctx c).frel = rest ∧ doneIn s t (.ctx c) .a dn := by
  have pkg : (doneFor (frelDone s c f slot r rest) (.ctx c) .a dn).pkg = (frelDone s c f slot r rest).pkg := (doneFor_keeps ..).1
  have owner : ∀ g, frameOwner (doneFor (frelDone s c f slot r rest) (.ctx c) .a dn) g = if g = f then some r else frameOwner s g := fun g => by
    rw [← frameOwner_frelDone s c f slot r rest g, frameOwner, frameOwner, pkg]
  refine ⟨_, exec_frelCompletion h, fun installed a inside => ?_, fun k a outside => ?_, fun u l => ?_, ?_, fun g other => ?_, ?_, ?_⟩
  · rw [physByte_of_pkg pkg, physByte_frelDone_inside s c f slot r rest installed inside]
  · rw [physByte_of_pkg pkg, physByte_frelDone_outside s c f slot r rest k outside]
  · rw [l1_doneFor, mem_l1_frelDone]
  · rw [owner, if_pos rfl]
  · rw [owner, if_neg other]
  · have kept := congrArg Ctx.frel (doneFor_ctx (frelDone s c f slot r rest) c .a dn)
    rw [ctx_frelDone] at kept
    exact kept
  · refine doneIn_congr ?_ (doneFor_done (frelDone s c f slot r rest) (.ctx c) .a dn)
    have regs := congrArg Ctx.regs (ctx_frelDone s c f slot r rest)
    exact congrArg (fun b : Bank => (b.stream .a).semNew) regs

/-! ### The checks of FREL -/

/-- The fields of FREL's operands that must be zero are (R371). -/
theorem frel_fields {f x : Nat} : ¬ (f / 2 ^ 40 ≠ 0 ∨ x / 2 ^ 15 ≠ 0 ∨ natBits x 6 2 ≠ 0) ↔ f < 2 ^ 40 ∧ x < 2 ^ 15 ∧ x / 64 % 4 = 0 := by
  unfold natBits
  omega

/-- FREL asks for a frame of the acting tenant, whichever in the hypervisor, and a slot of the receiver. -/
def frelMay (s : State) (c : CtxId) (f x : Nat) : Prop :=
  (c = hypervisor ∨ frameOwner s f = some (ctxTenant s c)) ∧
    (s.pkg.keys.get ⟨x / 256 % 128, Nat.mod_lt _ (by decide)⟩).tenant = some ⟨x % 64, Nat.mod_lt _ (by decide)⟩

theorem frelPlan_trap_fields {s : State} {c : CtxId} {f x : Nat} (dn : BitVec 4) (bad : ¬ (f < 2 ^ 40 ∧ x < 2 ^ 15 ∧ x / 64 % 4 = 0)) :
    (frelPlan s c f x dn).trap = some (0x02, 0) := if_pos (not_not.mp (mt frel_fields.mp bad))

theorem frelPlan_trap_refused {s : State} {c : CtxId} {f x : Nat} (dn : BitVec 4) (good : f < 2 ^ 40 ∧ x < 2 ^ 15 ∧ x / 64 % 4 = 0)
    (refused : ¬ frelMay s c f x) : (frelPlan s c f x dn).trap = some (0x22, 0) := by
  refine (if_neg (frel_fields.mpr good)).trans ?_
  by_cases foreign : c ≠ hypervisor ∧ frameOwner s f ≠ some (ctxTenant s c)
  · exact if_pos foreign
  · refine (if_neg foreign).trans (if_pos fun slot => refused ⟨?_, slot⟩)
    tauto

theorem frelPlan_trap_none {s : State} {c : CtxId} {f x : Nat} (dn : BitVec 4) (good : f < 2 ^ 40 ∧ x < 2 ^ 15 ∧ x / 64 % 4 = 0)
    (may : frelMay s c f x) : (frelPlan s c f x dn).trap = none :=
  (if_neg (frel_fields.mpr good)).trans ((if_neg fun foreign => may.1.elim foreign.1 foreign.2).trans (if_neg (not_not.mpr may.2)))

/-- Settles O26: the checks are the plans', and each completion is read off the one state that it makes. -/
theorem translationsAndFrames : Obligations.TranslationsAndFrames := by
  unfold Obligations.TranslationsAndFrames
  refine ⟨⟨?_, tinv_completes⟩, ?_, frel_completes⟩
  · intro s1 s2 dn w s c hc h x n t
    refine ⟨tinv_wide hc h, fun narrow other foreign => tinv_foreign hc h narrow ⟨other, foreign⟩, fun r narrow own => ?_⟩
    have goes := tinv_accepted hc r narrow own
    refine ⟨fun none => goes.trans ?_, fun some => goes.trans ?_⟩
    · rw [hc]
      exact congrArg Host.Outcome.next (if_pos none)
    · exact congrArg Host.Outcome.next (if_neg some)
  · intro s1 s2 dn w s c hc h f x r slot fields entitled
    exact ⟨fun bad => trapsAs_plan (exec_frel hc) h rfl (frelPlan_trap_fields dn bad) rfl,
      fun good refused => trapsAs_plan (exec_frel hc) h rfl (frelPlan_trap_refused dn good refused) rfl,
      fun rd good may => (exec_frel hc).trans (issue_next rd rfl (frelPlan_trap_none dn good may))⟩

end Sys2Proof.Machine
end

section
/-! PROOFS. Key slots, room ownership and wing shapes (R51, R293, R314, R324). -/

namespace Sys2Proof.Machine

/-! ### One bit of a mask -/

theorem getLsbD_bit (i j : Fin 64) : ((1 : Word) <<< i.val).getLsbD j.val = decide (j = i) := by
  obtain ⟨i, hi⟩ := i
  obtain ⟨j, hj⟩ := j
  rw [BitVec.getLsbD_shiftLeft]
  simp only [hj, decide_true, Bool.true_and, Fin.mk.injEq]
  by_cases e : j = i
  · subst e; simp
  · simp only [e, decide_false]
    by_cases lt : j < i
    · simp [lt]
    · simp [lt]; omega

/-- What lies between two states leaves a room, its Suite and who owns it alone. -/
structure SameAt (s z : State) (u : SuiteId) : Prop where
  room : z.room u = s.room u
  suite : z.suite u = s.suite u
  owns : ∀ o, owns z o u = owns s o u

theorem SameAt.refl (s : State) (u : SuiteId) : SameAt s s u := ⟨rfl, rfl, fun _ => rfl⟩

theorem SameAt.trans {s y z : State} {u : SuiteId} (h : SameAt s y u) (g : SameAt y z u) : SameAt s z u :=
  ⟨g.room.trans h.room, g.suite.trans h.suite, fun o => (g.owns o).trans (h.owns o)⟩

theorem SameAt.ownerOf {s z : State} {u : SuiteId} (h : SameAt s z u) : ownerOf? z u = ownerOf? s u := by
  unfold ownerOf?
  simp only [h.owns]

/-- A tenant's mask with one bit set or cleared. -/
def putMask (s : State) (t : TenantId) (f : Word → Word) : State := s.modTenant t fun x => { x with mask := f x.mask }

theorem mask_putMask (s : State) (t o : TenantId) (f : Word → Word) :
    ((putMask s t f).tenant o).mask = if o = t then f (s.tenant t).mask else (s.tenant o).mask := by
  unfold putMask
  rw [State.tenant_modTenant]
  by_cases e : o = t
  · subst e; simp
  · rw [if_neg (Ne.symm e), if_neg e]

/-- What a room's change of hands does to it before the mask (R51; DEDUCED, log 33). -/
def handOver (s : State) (t : TenantId) (u : SuiteId) : State :=
  if (s.room u).lastOwner = none ∨ (s.room u).lastOwner = some t then s else zeroContents s u

/-- A room's bit set for its new owner, and cleared. -/
def takenBy (s : State) (t : TenantId) (u : SuiteId) : State :=
  (putMask (handOver s t u) t fun m => m ||| (1 : Word) <<< u.val).modRoom u fun x => { x with lastOwner := some t }
def givenUp (s : State) (t : TenantId) (u : SuiteId) : State := putMask (detach s u) t fun m => m &&& ~~~((1 : Word) <<< u.val)

section OwnBit
variable {t : TenantId} {v : Word} {s : State} {u : SuiteId}

theorem ownBit_same (h : owns s t u = v.getLsbD u.val) : ownBit t v s u = s := by
  unfold ownBit
  simp [h]

theorem ownBit_taken (wants : v.getLsbD u.val = true) (lacks : owns s t u = false) (other : ownerOf? s u ≠ none) : ownBit t v s u = s := by
  unfold ownBit
  simp [wants, lacks, Option.isSome_iff_ne_none.mpr other]

theorem ownBit_takes (wants : v.getLsbD u.val = true) (lacks : owns s t u = false) (loose : ownerOf? s u = none) :
    ownBit t v s u = takenBy s t u := by
  unfold ownBit takenBy handOver
  simp only [wants, lacks, loose, Bool.not_false, Bool.and_self, if_true, Option.isSome_none, Bool.false_eq_true, if_false]
  cases (s.room u).lastOwner with
  | none => simp; rfl
  | some o => by_cases e : o = t <;> simp [e] <;> rfl

theorem ownBit_runs (wants : v.getLsbD u.val = false) (has : owns s t u = true) (runs : (s.room u).stopped = false ∨ (s.suite u).stopped = false) :
    ownBit t v s u = s := by
  unfold ownBit
  simp only [wants, has, Bool.false_and, Bool.not_false, Bool.and_self, Bool.false_eq_true, if_false, if_true]
  exact if_neg (by obtain r | r := runs <;> simp [r])

theorem ownBit_clears (wants : v.getLsbD u.val = false) (has : owns s t u = true) (room : (s.room u).stopped = true)
    (core : (s.suite u).stopped = true) : ownBit t v s u = givenUp s t u := by
  unfold ownBit
  simp only [wants, has, room, core, Bool.false_and, Bool.not_false, Bool.and_self, Bool.false_eq_true, if_false, if_true]
  rfl

end OwnBit

/-! ### What a change of hands reaches -/

section Reach
variable (s : State) (u : SuiteId)

theorem room_modBoth (f : Suite → Suite) (g : Room → Room) (w : SuiteId) :
    ((s.modSuite u f).modRoom u g).room w = if u = w then g (s.room u) else s.room w := State.room_modRoom ..

theorem suite_modBoth (f : Suite → Suite) (g : Room → Room) (w : SuiteId) :
    ((s.modSuite u f).modRoom u g).suite w = if u = w then f (s.suite u) else s.suite w := State.suite_modSuite ..

theorem modBoth_same (f : Suite → Suite) (g : Room → Room) {w : SuiteId} (h : w ≠ u) : SameAt s ((s.modSuite u f).modRoom u g) w :=
  ⟨(room_modBoth ..).trans (if_neg (Ne.symm h)), (suite_modBoth ..).trans (if_neg (Ne.symm h)), fun _ => rfl⟩

/-- A Suite and a room as a new tenant finds them (R51). -/
def Suite.zeroed (x : Suite) : Suite :=
  { x with tiles := Vector.replicate 48 Tile.zero, masks := Vector.replicate 8 Mask.zero, chanter := { x.chanter with c := Vector.replicate 8 0 },
           ls := [], l1 := [], counters := Counters.reset }
def Room.zeroed (x : Room) : Room := { quietRoom x with acc := Vector.replicate 32 AccTile.zero, ce := 0, ue := 0, ovf := false, ovfNow := false }

theorem zeroContents_eq : zeroContents s u = ((dropRoomErrors s u).modSuite u Suite.zeroed).modRoom u Room.zeroed := rfl

theorem zeroContents_same {w : SuiteId} (h : w ≠ u) : SameAt s (zeroContents s u) w := by
  obtain ⟨room, suite, owns⟩ := modBoth_same (dropRoomErrors s u) u Suite.zeroed Room.zeroed h
  exact ⟨room, suite, owns⟩

theorem suite_zeroContents : (zeroContents s u).suite u = (s.suite u).zeroed := (suite_modBoth ..).trans (if_pos rfl)

theorem room_zeroContents : (zeroContents s u).room u = (s.room u).zeroed := (room_modBoth ..).trans (if_pos rfl)

/-- A Suite and a room without the Visits that they held (R315). -/
def Suite.emptied (x : Suite) : Suite :=
  { x with banks := Vector.replicate 2 Bank.reset, mq := [], mrun := [], cqueue := [], crun := [], snapIn := none,
           chanter := { x.chanter with busy := false, trapped := false, ending := false } }
def Room.emptied (x : Room) : Room :=
  { quietRoom x with runs := [], busy := false, atomics := [], halt := Halt.reset, drone := Drone.reset, drain := none, unitOld := [], seqIn := none,
                     feedA := none, feedB := none, aShift := (0, 0), bShift := (0, 0) }

/-- A Suite without a Visit is left alone; otherwise only the package keeps track of those that go. -/
theorem detach_eq : ((∀ b, (s.bank (.bank u b)).visit = none) ∧ detach s u = s) ∨
    ∃ p, detach s u = (({ s with pkg := p } : State).modSuite u Suite.emptied).modRoom u Room.emptied := by
  unfold detach
  dsimp only
  split
  next idle => exact .inl ⟨by simpa using idle, rfl⟩
  next => exact .inr ⟨_, rfl⟩

theorem detach_same {w : SuiteId} (h : w ≠ u) : SameAt s (detach s u) w := by
  obtain ⟨-, e⟩ | ⟨p, e⟩ := detach_eq s u <;> rw [e]
  · exact .refl s w
  · obtain ⟨room, suite, owns⟩ := modBoth_same { s with pkg := p } u Suite.emptied Room.emptied h
    exact ⟨room, suite, owns⟩

theorem tenant_detach (t : TenantId) : (detach s u).tenant t = s.tenant t := by
  obtain ⟨-, e⟩ | ⟨p, e⟩ := detach_eq s u <;> rw [e]
  rfl

/-- After it the Suite holds no Visit; its tiles and its Local Store are as they were. -/
theorem detach_clears : (∀ b : Fin 2, (((detach s u).suite u).banks.get b).visit = none) ∧ ((detach s u).suite u).tiles = (s.suite u).tiles ∧
    ((detach s u).suite u).ls = (s.suite u).ls := by
  obtain ⟨idle, e⟩ | ⟨p, e⟩ := detach_eq s u
  · rw [e]
    exact ⟨idle, rfl, rfl⟩
  · have own : (detach s u).suite u = (s.suite u).emptied := by
      rw [e]
      exact (suite_modBoth ..).trans (if_pos rfl)
    have fresh : ∀ b : Fin 2, ((Vector.replicate 2 Bank.reset).get b).visit = none := by decide
    rw [own]
    exact ⟨fresh, rfl, rfl⟩

end Reach

theorem handOver_same (s : State) (t : TenantId) {u w : SuiteId} (h : w ≠ u) : SameAt s (handOver s t u) w := by
  unfold handOver
  split
  · exact .refl s w
  · exact zeroContents_same s u h

theorem tenant_handOver (s : State) (t o : TenantId) (u : SuiteId) : (handOver s t u).tenant o = s.tenant o := by
  unfold handOver
  split <;> rfl

theorem getLsbD_or_bit (m : Word) (u w : SuiteId) : (m ||| (1 : Word) <<< u.val).getLsbD w.val = (m.getLsbD w.val || decide (w = u)) := by
  rw [BitVec.getLsbD_or, getLsbD_bit]

theorem getLsbD_and_not_bit (m : Word) (u w : SuiteId) : (m &&& ~~~((1 : Word) <<< u.val)).getLsbD w.val = (m.getLsbD w.val && !decide (w = u)) := by
  rw [BitVec.getLsbD_and, BitVec.getLsbD_not, getLsbD_bit]
  simp

/-! ### The outcomes of one bit -/

section Outcomes
variable (t : TenantId) (v : Word) (s : State) (u : SuiteId)

theorem room_takenBy : (takenBy s t u).room u = { (handOver s t u).room u with lastOwner := some t } := (State.room_modRoom ..).trans (if_pos rfl)
theorem suite_takenBy : (takenBy s t u).suite u = (handOver s t u).suite u := State.suite_modRoom ..
theorem mask_takenBy (o : TenantId) :
    ((takenBy s t u).tenant o).mask = if o = t then (s.tenant t).mask ||| (1 : Word) <<< u.val else (s.tenant o).mask := by
  rw [takenBy, State.tenant_modRoom, mask_putMask, tenant_handOver, tenant_handOver]

theorem mask_givenUp (o : TenantId) :
    ((givenUp s t u).tenant o).mask = if o = t then (s.tenant t).mask &&& ~~~((1 : Word) <<< u.val) else (s.tenant o).mask := by
  rw [givenUp, mask_putMask, tenant_detach, tenant_detach]

theorem owns_takenBy (o : TenantId) (w : SuiteId) : owns (takenBy s t u) o w = (owns s o w || decide (o = t ∧ w = u)) := by
  unfold owns
  rw [mask_takenBy]
  split
  next e => rw [e, getLsbD_or_bit]; simp
  next e => simp [e]

theorem owns_givenUp (o : TenantId) (w : SuiteId) : owns (givenUp s t u) o w = (owns s o w && !decide (o = t ∧ w = u)) := by
  unfold owns
  rw [mask_givenUp]
  split
  next e => rw [e, getLsbD_and_not_bit]; simp
  next e => simp [e]

/-- Each bit is kept, taken or given up. -/
theorem ownBit_cases : ownBit t v s u = s ∨ ownBit t v s u = takenBy s t u ∨ ownBit t v s u = givenUp s t u := by
  cases has : owns s t u <;> cases wants : v.getLsbD u.val
  · exact .inl (ownBit_same (by rw [has, wants]))
  · by_cases loose : ownerOf? s u = none
    · exact .inr (.inl (ownBit_takes wants has loose))
    · exact .inl (ownBit_taken wants has loose)
  · by_cases still : (s.room u).stopped = true ∧ (s.suite u).stopped = true
    · exact .inr (.inr (ownBit_clears wants has still.1 still.2))
    · refine .inl (ownBit_runs wants has ?_)
      simpa only [not_and_or, Bool.not_eq_true] using still
  · exact .inl (ownBit_same (by rw [has, wants]))

/-- One bit reaches no other room. -/
theorem ownBit_same_other {w : SuiteId} (h : w ≠ u) : SameAt s (ownBit t v s u) w := by
  obtain e | e | e := ownBit_cases t v s u <;> rw [e]
  · exact .refl s w
  · obtain ⟨room, suite, -⟩ := handOver_same s t h
    exact ⟨((State.room_modRoom ..).trans (if_neg (Ne.symm h))).trans room, (State.suite_modRoom ..).trans suite, fun o => by rw [owns_takenBy]; simp [h]⟩
  · obtain ⟨room, suite, -⟩ := detach_same s u h
    exact ⟨room, suite, fun o => by rw [owns_givenUp]; simp [h]⟩

/-- And no other tenant's mask. -/
theorem ownBit_mask_other {o : TenantId} (h : o ≠ t) : ((ownBit t v s u).tenant o).mask = (s.tenant o).mask := by
  obtain e | e | e := ownBit_cases t v s u <;> rw [e]
  · rw [mask_takenBy, if_neg h]
  · rw [mask_givenUp, if_neg h]

end Outcomes

/-- What a written bit comes to: the ownership, the room and the Suite before it and after. -/
structure BitOutcome (t : TenantId) (wants has : Bool) (owner : Option TenantId) (r : Room) (x : Suite) (has' : Bool) (r' : Room) (x' : Suite) : Prop where
  same : has = wants → has' = has ∧ r' = r ∧ x' = x
  refused : wants = true → has = false → owner ≠ none → has' = false ∧ r' = r ∧ x' = x
  takes : wants = true → has = false → owner = none → has' = true ∧ r'.lastOwner = some t ∧
    (r.lastOwner = none ∨ r.lastOwner = some t → x' = x ∧ r'.acc = r.acc) ∧
    (∀ o, r.lastOwner = some o → o ≠ t → x'.tiles = Vector.replicate 48 Tile.zero ∧ x'.masks = Vector.replicate 8 Mask.zero ∧
      x'.chanter.c = Vector.replicate 8 0 ∧ x'.ls = [] ∧ x'.counters = Counters.reset ∧ r'.acc = Vector.replicate 32 AccTile.zero)
  runs : has = true → wants = false → r.stopped = false ∨ x.stopped = false → has' = true ∧ r' = r ∧ x' = x
  clears : has = true → wants = false → r.stopped = true → x.stopped = true → has' = false ∧ (∀ b : Fin 2, (x'.banks.get b).visit = none) ∧
    x'.tiles = x.tiles ∧ x'.ls = x.ls

theorem ownBit_outcome (t : TenantId) (v : Word) (s : State) (u : SuiteId) :
    BitOutcome t (v.getLsbD u.val) (owns s t u) (ownerOf? s u) (s.room u) (s.suite u)
      (owns (ownBit t v s u) t u) ((ownBit t v s u).room u) ((ownBit t v s u).suite u) := by
  refine ⟨fun same => ?_, fun wants lacks other => ?_, fun wants lacks loose => ?_, fun has gives runs => ?_, fun has gives room core => ?_⟩
  · rw [ownBit_same same]
    exact ⟨rfl, rfl, rfl⟩
  · rw [ownBit_taken wants lacks other]
    exact ⟨lacks, rfl, rfl⟩
  · rw [ownBit_takes wants lacks loose, owns_takenBy, room_takenBy, suite_takenBy]
    refine ⟨by simp, rfl, fun quiet => ?_, fun o last foreign => ?_⟩
    · rw [handOver, if_pos quiet]
      exact ⟨rfl, rfl⟩
    · have passed : ¬ ((s.room u).lastOwner = none ∨ (s.room u).lastOwner = some t) := by simp [last, foreign]
      rw [handOver, if_neg passed, suite_zeroContents, room_zeroContents]
      exact ⟨rfl, rfl, rfl, rfl, rfl, rfl⟩
  · rw [ownBit_runs gives has runs]
    exact ⟨has, rfl, rfl⟩
  · rw [ownBit_clears gives has room core, owns_givenUp]
    exact ⟨by simp, detach_clears s u⟩

/-! ### The whole mask -/

section Mask
variable (t : TenantId) (v : Word) {u : SuiteId}

theorem ownBits_other : ∀ (l : List SuiteId) (s : State), u ∉ l → SameAt s (l.foldl (ownBit t v) s) u
  | [], s, _ => .refl s u
  | w :: l, s, h => (ownBit_same_other t v s w (List.ne_of_not_mem_cons h)).trans (ownBits_other l _ (List.not_mem_of_not_mem_cons h))

/-- A room's own bit is the only one that reaches it. -/
theorem ownBits_at : ∀ (l : List SuiteId) (s : State), l.Nodup → u ∈ l →
    ∃ y, SameAt s y u ∧ SameAt (ownBit t v y u) (l.foldl (ownBit t v) s) u
  | w :: l, s, distinct, listed => by
    obtain ⟨first, rest⟩ := List.nodup_cons.mp distinct
    by_cases e : u = w
    · subst e
      exact ⟨s, .refl s u, ownBits_other t v l _ first⟩
    · obtain ⟨y, before, after⟩ := ownBits_at l (ownBit t v s w) rest ((List.mem_cons.mp listed).resolve_left e)
      exact ⟨y, (ownBit_same_other t v s w e).trans before, after⟩

theorem ownBits_mask_other {o : TenantId} (h : o ≠ t) (l : List SuiteId) (s : State) : ((l.foldl (ownBit t v) s).tenant o).mask = (s.tenant o).mask :=
  foldl_keeps (fun y : State => (y.tenant o).mask) (fun y w => ownBit_mask_other t v y w h) l s

theorem ownmask_outcome (s : State) (u : SuiteId) : ∀ z, z = (List.finRange 64).foldl (ownBit t v) s →
    BitOutcome t (v.getLsbD u.val) (owns s t u) (ownerOf? s u) (s.room u) (s.suite u) (owns z t u) (z.room u) (z.suite u) := by
  rintro z rfl
  obtain ⟨y, before, after⟩ := ownBits_at t v (List.finRange 64) s (List.nodup_finRange 64) (List.mem_finRange u)
  have bit := ownBit_outcome t v y u
  rwa [before.owns, before.ownerOf, before.room, before.suite, ← after.owns, ← after.room, ← after.suite] at bit

end Mask

/-! ### Wing shapes -/

/-- Inside a wing of the written shape every room leads back to the lead. -/
theorem roomAt_inside {lead u : SuiteId} {shape : Nat} (h : u ∈ wingRooms lead shape) :
    roomAt lead ((roomRow u - roomRow lead) / shapeRows shape * shapeRows shape) ((roomCol u - roomCol lead) / shapeCols shape * shapeCols shape) = lead := by
  simp only [wingRooms, List.mem_filter, Bool.and_eq_true, decide_eq_true_eq] at h
  obtain ⟨-, ⟨⟨⟨-, north⟩, row⟩, west⟩, col⟩ := h
  rw [Nat.div_eq_of_lt (by omega), Nat.div_eq_of_lt (by omega)]
  exact Fin.ext (by simp [roomAt])

/-- Changes of rooms one after another: what every change of a room brings about holds of each room changed. -/
theorem foldl_modRoom {P : Room → Prop} (f : SuiteId → Room → Room) {u : SuiteId} (hf : ∀ x, P (f u x)) : ∀ (l : List SuiteId) (s : State),
    u ∈ l ∨ P (s.room u) → P ((l.foldl (fun s w => s.modRoom w (f w)) s).room u)
  | [], s, h => h.resolve_left List.not_mem_nil
  | w :: l, s, h => by
    refine foldl_modRoom f hf l (s.modRoom w (f w)) ?_
    rw [State.room_modRoom]
    by_cases e : w = u
    · subst e
      exact .inr (by rw [if_pos rfl]; exact hf _)
    · rw [if_neg e]
      exact h.imp_left fun m => (List.mem_cons.mp m).resolve_left (Ne.symm e)

theorem setWings_room (s : State) {lead u : SuiteId} {shape : Nat} (h : u ∈ wingRooms lead shape) :
    ((setWings s lead shape shape).room u).wingLead = lead ∧ ((setWings s lead shape shape).room u).wingShape.val = shape % 9 :=
  foldl_modRoom (P := fun x => x.wingLead = lead ∧ x.wingShape.val = shape % 9) _ (fun _ => ⟨roomAt_inside h, rfl⟩) _ s (.inl h)

/-- A Suite whose Visits belong to a wing. -/
def Suite.retagged (lead : SuiteId) (shape : Fin 9) (x : Suite) : Suite :=
  { x with banks := x.banks.map fun b => { b with visit := b.visit.map fun w => { w with lead := lead, shape := shape } } }

theorem foldl_retagged (lead : SuiteId) (shape : Fin 9) (u : SuiteId) : ∀ (l : List SuiteId) (s : State),
    (l.foldl (fun s w => s.modSuite w (Suite.retagged lead shape)) s).suite u = if u ∈ l then (s.suite u).retagged lead shape else s.suite u
  | [], _ => by simp
  | w :: l, s => by
    have again : ((s.suite u).retagged lead shape).retagged lead shape = (s.suite u).retagged lead shape := by
      simp [Suite.retagged, Function.comp_def]
    refine (foldl_retagged lead shape u l _).trans ?_
    rw [State.suite_modSuite]
    by_cases e : w = u
    · subst e
      simp [again]
    · simp [e, Ne.symm e]

theorem drawKey_draws (s : State) (slot : Fin 128) (o : Option TenantId) :
    ((drawKey s slot o).pkg.keys.get slot).tenant = o ∧ ((drawKey s slot o).pkg.keys.get slot).draw = (s.pkg.keys.get slot).draw + 1 ∧
      ∀ k, k ≠ slot → (drawKey s slot o).pkg.keys.get k = s.pkg.keys.get k := by
  have entry : ∀ k, (drawKey s slot o).pkg.keys.get k = if slot = k then ⟨o, (s.pkg.keys.get slot).draw + 1⟩ else s.pkg.keys.get k :=
    fun k => vget_set s.pkg.keys slot k _
  rw [entry, if_pos rfl]
  exact ⟨rfl, rfl, fun k other => (entry k).trans (if_neg (Ne.symm other))⟩

theorem drawKey_sets (s : State) (slot : Fin 128) (o : Option TenantId) :
    ((drawKey s slot o).pkg.keys.get slot).tenant = o ∧ ((drawKey s slot o).pkg.keys.get slot).draw = (s.pkg.keys.get slot).draw + 1 ∧
      (∀ k, k ≠ slot → (drawKey s slot o).pkg.keys.get k = s.pkg.keys.get k) ∧ (drawKey s slot o).pkg.mem = s.pkg.mem ∧
      (drawKey s slot o).suites = s.suites ∧ (drawKey s slot o).rooms = s.rooms := by
  obtain ⟨tenant, draw, others⟩ := drawKey_draws s slot o
  exact ⟨tenant, draw, others, rfl, rfl, rfl⟩

/-- The state that a shape written at a lead room leaves. -/
def wingShaped (s : State) (lead : SuiteId) (shape : Fin 9) : State :=
  (wingRooms lead shape.val).foldl (fun s w => s.modSuite w (Suite.retagged lead shape)) (setEnvelope s lead shape.val)

section Wing
variable (s : State) (lead : SuiteId) (shape : Fin 9)

theorem suite_wingShaped (u : SuiteId) :
    (wingShaped s lead shape).suite u = if u ∈ wingRooms lead shape.val then (s.suite u).retagged lead shape else s.suite u := by
  have suites : (setEnvelope s lead shape.val).suite u = s.suite u := congrArg (fun p => p.1.get u) (setEnvelope_keeps s lead shape.val)
  rw [wingShaped, foldl_retagged, suites]

theorem room_wingShaped {u : SuiteId} (h : u ∈ wingRooms lead shape.val) :
    ((wingShaped s lead shape).room u).wingLead = lead ∧ ((wingShaped s lead shape).room u).wingShape.val = shape.val := by
  have rooms : (wingShaped s lead shape).rooms = (setEnvelope s lead shape.val).rooms :=
    foldl_keeps State.rooms (f := fun s w => s.modSuite w (Suite.retagged lead shape)) (fun _ _ => rfl) _ _
  have room : (wingShaped s lead shape).room u = (setEnvelope s lead shape.val).room u := congrArg (fun v => v.get u) rooms
  rw [room]
  have set := setWings_room ((((wingRooms lead shape.val).map (leadOf s)).dedup.flatMap (members s)).filter
    (fun v => !(wingRooms lead shape.val).contains v) |>.foldl (fun s v => setWings s v 0 0) s) h
  rwa [Nat.mod_eq_of_lt shape.isLt] at set

theorem mem_wingShaped : (wingShaped s lead shape).pkg.mem = s.pkg.mem := by
  have pkg : (wingShaped s lead shape).pkg = (setEnvelope s lead shape.val).pkg :=
    foldl_keeps State.pkg (f := fun s w => s.modSuite w (Suite.retagged lead shape)) (fun _ _ => rfl) _ _
  rw [pkg]
  exact congrArg (fun p => p.2.mem) (setEnvelope_keeps s lead shape.val)

theorem visit_wingShaped {u : SuiteId} (h : u ∈ wingRooms lead shape.val) (b : Fin 2) :
    ((wingShaped s lead shape).bank (.bank u b)).visit = (s.bank (.bank u b)).visit.map fun w => { w with lead := lead, shape := shape } := by
  have suite := (suite_wingShaped s lead shape u).trans (if_pos h)
  have bank := congrArg (fun x : Suite => (x.banks.get b).visit) suite
  exact bank.trans (congrArg Bank.visit (Vector.getElem_map ..))

end Wing

/-- Settles O52: a key slot is one entry, a mask is written bit by bit and each bit reaches its own room, and a shape is set room by room. -/
theorem keysAndRooms : Obligations.KeysAndRooms := by
  unfold Obligations.KeysAndRooms
  refine ⟨?_, fun s t v => ?_, ?_⟩
  · intro s t slot set
    exact ⟨⟨_, rfl, drawKey_sets s slot (some t)⟩, ⟨_, rfl, drawKey_sets s slot none⟩⟩
  · refine ⟨_, rfl, fun o other => ownBits_mask_other t v other _ s, fun u => ?_⟩
    obtain ⟨same, refused, takes, runs, clears⟩ := ownmask_outcome t v s u _ rfl
    exact ⟨same, refused, takes, runs, clears⟩
  · intro s c v lead shape
    have code : shape < 9 := Nat.mod_lt _ (by decide)
    refine ⟨wingShaped s lead ⟨shape, code⟩, rfl, fun u inside => ?_, fun u outside => ?_, mem_wingShaped ..⟩
    · obtain ⟨wing, form⟩ := room_wingShaped s lead ⟨shape, code⟩ inside
      refine ⟨wing, form, fun b x visit => ⟨{ x with lead := lead, shape := ⟨shape, code⟩ }, ?_, rfl, rfl, rfl, rfl, rfl⟩⟩
      rw [visit_wingShaped s lead ⟨shape, code⟩ inside b, visit]
      rfl
    · exact (suite_wingShaped ..).trans (if_neg outside)

end Sys2Proof.Machine
end

section
/-! PROOFS. LSSPLIT (R55). -/

namespace Sys2Proof.Machine

/-- The scratchpad's limit under a written LSSPLIT. -/
def splitLimit (v : Word) : Nat := 0x800000 - v.toNat % 16 * 0x100000

/-- A Suite whose L1 is empty and has another size; what returns to the scratchpad is back at the default. -/
def Suite.resplit (old : Nat) (v : Word) (x : Suite) : Suite :=
  { x with l1 := [], l1mib := v.setWidth 4, ls := memClear x.ls old (splitLimit v - old) }

/-- Errors in what returns to the scratchpad are gone. -/
def keepSplit (s : State) (u : SuiteId) (v : Word) (w : SuiteId) (a : Nat) : Bool :=
  !(w == u && decide (scratchLimit (s.suite u) ≤ a) && decide (a < splitLimit v))

/-- The state that a write of LSSPLIT leaves. -/
def resplit (s : State) (u : SuiteId) (v : Word) : State :=
  (s.modSuite u (Suite.resplit (scratchLimit (s.suite u)) v)).modPkg fun p => { p with flips := p.flips.filter (keepLs (keepSplit s u v)) }

section Resplit
variable (s : State) (u : SuiteId) (v : Word)

theorem scratchLimit_split (x : Suite) : scratchLimit { x with l1 := [], l1mib := v.setWidth 4 } = splitLimit v := by
  simp only [scratchLimit, splitLimit, BitVec.toNat_setWidth, Nat.reducePow]

theorem modSuite_modSuite (f g : Suite → Suite) : (s.modSuite u f).modSuite u g = s.modSuite u fun x => g (f x) := by
  have inner : (s.modSuite u f).suite u = f (s.suite u) := (State.suite_modSuite ..).trans (if_pos rfl)
  unfold State.modSuite State.setSuite at *
  dsimp only at *
  rw [inner, Vector.set_set]

theorem exec_lssplitWrite : exec (.lssplitWrite u v) s = .next (resplit s u v) := by
  have inner : (s.modSuite u fun x => { x with l1 := [], l1mib := v.setWidth 4 }).suite u = { s.suite u with l1 := [], l1mib := v.setWidth 4 } :=
    (State.suite_modSuite ..).trans (if_pos rfl)
  show execLssplitWrite u v s = _
  unfold execLssplitWrite resplit
  dsimp only
  rw [inner, scratchLimit_split, modSuite_modSuite]
  refine congrArg Host.Outcome.next (congrArg (State.modPkg _) (funext fun p => ?_))
  exact congrArg (fun l => ({ p with flips := l } : Package)) (congrArg (List.filter · p.flips) (funext fun e => by cases e <;> rfl))

theorem suite_resplit_same : (resplit s u v).suite u = (s.suite u).resplit (scratchLimit (s.suite u)) v :=
  (State.suite_modSuite ..).trans (if_pos rfl)

theorem suite_resplit_other {w : SuiteId} (h : w ≠ u) : (resplit s u v).suite w = s.suite w := (State.suite_modSuite ..).trans (if_neg (Ne.symm h))

/-- The sizes are whole MiB, so errors are those of whole units still. -/
theorem lsPoisoned_resplit (w : SuiteId) (a : Nat) : lsPoisoned (resplit s u v) w a = (lsPoisoned s w a && keepSplit s u v w a) := by
  refine lsPoisoned_keepLs (s := s) (t := resplit s u v) rfl w a fun x hx => ?_
  unfold keepSplit scratchLimit splitLimit
  congr 2
  · exact congrArg (w == u && ·) (decide_eq_decide.mpr (by omega))
  · exact decide_eq_decide.mpr (by omega)

theorem lsRead_resplit_other {w : SuiteId} (h : w ≠ u) (a : Nat) : lsRead (resplit s u v) w a 1 = lsRead s w a 1 := by
  rw [lsRead_one, lsRead_one, suite_resplit_other s u v h, lsPoisoned_resplit]
  simp [keepSplit, h]

theorem lsRead_resplit_same (a : Nat) : lsRead (resplit s u v) u a 1 =
    if scratchLimit (s.suite u) ≤ a ∧ a < splitLimit v then [Config.memDefault] else lsRead s u a 1 := by
  have range : scratchLimit (s.suite u) ≤ a ∧ a < scratchLimit (s.suite u) + (splitLimit v - scratchLimit (s.suite u)) ↔
      scratchLimit (s.suite u) ≤ a ∧ a < splitLimit v := by omega
  rw [lsRead_one, lsRead_one, suite_resplit_same, lsPoisoned_resplit, Suite.resplit, memGet_memClear, keepSplit, if_congr range rfl rfl]
  by_cases back : scratchLimit (s.suite u) ≤ a ∧ a < splitLimit v
  · simp [back]
  · have out : (decide (scratchLimit (s.suite u) ≤ a) && decide (a < splitLimit v)) = false := by simpa using back
    rw [if_neg back, if_neg back, Bool.and_assoc, out, Bool.and_false, Bool.not_false, Bool.and_true]

end Resplit

end Sys2Proof.Machine
end

section
/-! PROOFS. The copy of one frame in a migration (R398, R408). -/

namespace Sys2Proof.Machine

/-! ### Cells put one after another -/

/-- Cells of a frame, moved to the same places of another. -/
def putCells (dst : Nat) (m : Memory) (cells : List (Nat × Byte)) : Memory := cells.foldl (fun m c => memPut m (c.1 % 65536 + dst * 65536) c.2) m

theorem memGet_not_mem {m : Memory} {a : Nat} (h : ∀ c ∈ m, c.1 ≠ a) : memGet m a = Config.memDefault := by
  induction m with
  | nil => rfl
  | cons c m ih =>
    obtain ⟨k, v⟩ := c
    exact (if_neg (h (k, v) List.mem_cons_self)).trans (ih fun c hc => h c (List.mem_cons_of_mem _ hc))

theorem putCells_wf (dst : Nat) : ∀ (cells : List (Nat × Byte)) (m : Memory), m.wf = true → (putCells dst m cells).wf = true
  | [], _, w => w
  | c :: cells, _, w => putCells_wf dst cells _ (memPut_wf (c.1 % 65536 + dst * 65536) c.2 w (Nat.zero_le _))

theorem memGet_putCells_outside {dst b : Nat} (out : b / 65536 ≠ dst) : ∀ (cells : List (Nat × Byte)) (m : Memory), m.wf = true →
    memGet (putCells dst m cells) b = memGet m b
  | [], _, _ => rfl
  | c :: cells, m, w => by
    refine (memGet_putCells_outside out cells _ (memPut_wf _ c.2 w (Nat.zero_le _))).trans ?_
    rw [memGet_memPut _ _ _ w, if_neg (by omega)]

/-- Inside the frame the cells stand as they are listed, where they are all of one frame and no two of one place. -/
theorem memGet_putCells_inside {src dst k : Nat} (hk : k < 65536) : ∀ (cells : List (Nat × Byte)) (m : Memory), m.wf = true →
    (∀ c ∈ cells, c.1 / 65536 = src) → (cells.map Prod.fst).Nodup →
    memGet (putCells dst m cells) (65536 * dst + k) =
      if 65536 * src + k ∈ cells.map Prod.fst then memGet cells (65536 * src + k) else memGet m (65536 * dst + k)
  | [], _, _, _, _ => by simp [putCells]
  | c :: cells, m, w, frame, distinct => by
    obtain ⟨own, v⟩ := c
    obtain ⟨first, rest⟩ := List.nodup_cons.mp distinct
    have here : own / 65536 = src := frame (own, v) List.mem_cons_self
    refine (memGet_putCells_inside hk cells _ (memPut_wf _ v w (Nat.zero_le _)) (fun c hc => frame c (List.mem_cons_of_mem _ hc)) rest).trans ?_
    rw [memGet_memPut _ _ _ w]
    by_cases e : own = 65536 * src + k
    · have absent : 65536 * src + k ∉ cells.map Prod.fst := e ▸ first
      rw [if_neg absent, if_pos (show own % 65536 + dst * 65536 = 65536 * dst + k by omega), if_pos (by simp [e])]
      exact (if_pos e).symm
    · rw [if_neg (show own % 65536 + dst * 65536 ≠ 65536 * dst + k by omega)]
      have tail : memGet ((own, v) :: cells) (65536 * src + k) = memGet cells (65536 * src + k) := if_neg e
      simp only [List.map_cons, List.mem_cons, Ne.symm e, false_or, tail]

/-- A canonical memory lists no place twice. -/
theorem nodup_of_wf : ∀ {m : Memory} {lo : Nat}, memWfFrom lo m = true → (m.map Prod.fst).Nodup ∧ ∀ c ∈ m, lo ≤ c.1
  | [], _, _ => ⟨List.nodup_nil, by simp⟩
  | (k, v) :: m, lo, w => by
    simp only [memWfFrom, Bool.and_eq_true, decide_eq_true_eq] at w
    obtain ⟨⟨low, -⟩, rest⟩ := w
    obtain ⟨distinct, above⟩ := nodup_of_wf rest
    refine ⟨List.nodup_cons.mpr ⟨fun listed => ?_, distinct⟩, fun c hc => ?_⟩
    · obtain ⟨c, hc, e⟩ := List.mem_map.mp listed
      have := above c hc
      simp only at e
      omega
    · obtain rfl | hc := List.mem_cons.mp hc
      · exact low
      · have := above c hc
        omega

theorem memGet_of_mem {m : Memory} {a : Nat} {v : Byte} (distinct : (m.map Prod.fst).Nodup) (h : (a, v) ∈ m) : memGet m a = v := by
  induction m with
  | nil => exact absurd h List.not_mem_nil
  | cons c m ih =>
    obtain ⟨k, x⟩ := c
    obtain ⟨first, rest⟩ := List.nodup_cons.mp distinct
    obtain e | later := List.mem_cons.mp h
    · obtain ⟨rfl, rfl⟩ := Prod.mk.inj e
      exact if_pos rfl
    · exact (if_neg fun e => first (List.mem_map.mpr ⟨(a, v), later, e.symm⟩)).trans (ih rest later)

/-! ### The bytes that a copy carries -/

section Cells
variable (s : State) (src : Nat)

theorem frameCells_frame : ∀ c ∈ frameCells s src, c.1 / 65536 = src := by
  intro c hc
  unfold frameCells at hc
  split at hc
  · simpa using (List.mem_filter.mp hc).2
  · obtain ⟨k, hk, rfl⟩ := List.mem_map.mp hc
    have := List.mem_range.mp hk
    dsimp only
    omega

theorem frameCells_nodup (w : s.pkg.mem.wf = true) : ((frameCells s src).map Prod.fst).Nodup := by
  unfold frameCells
  split
  · exact (nodup_of_wf w).1.sublist (List.filter_sublist.map Prod.fst)
  · rw [List.map_map]
    exact (List.nodup_range).map fun i j e => by simpa using e

theorem memGet_filter {m : Memory} {p : Nat → Bool} {a : Nat} (h : p a = true) : memGet (m.filter fun c => p c.1) a = memGet m a := by
  induction m with
  | nil => rfl
  | cons c m ih =>
    obtain ⟨k, v⟩ := c
    by_cases e : k = a
    · subst e
      rw [List.filter_cons_of_pos (p := fun c : Nat × Byte => p c.1) h]
      exact (if_pos rfl).trans (if_pos rfl).symm
    · have tail : memGet ((k, v) :: m) a = memGet m a := if_neg e
      rw [tail, List.filter_cons]
      split
      · exact (if_neg e).trans ih
      · exact ih

/-- The byte of a frame that its copy carries: as it stands in an installed frame, as it reads in another package's. -/
theorem memGet_frameCells (w : s.pkg.mem.wf = true) {k : Nat} (hk : k < 65536) : memGet (frameCells s src) (65536 * src + k) =
    if src < frameCount then memGet s.pkg.mem (65536 * src + k) else devByte s (65536 * src + k) := by
  have distinct := frameCells_nodup s src w
  unfold frameCells at distinct ⊢
  split
  · exact memGet_filter (p := fun a => a / 65536 == src) (by simp; omega)
  next far =>
    rw [if_neg far] at distinct
    exact memGet_of_mem distinct (List.mem_map.mpr ⟨k, List.mem_range.mpr hk, rfl⟩)

end Cells

/-- A place that no cell of a frame names carries the default byte. -/
theorem memGet_putCells_frame {s : State} (src dst : Nat) (w : s.pkg.mem.wf = true) (empty : ∀ c ∈ s.pkg.mem, c.1 / 65536 ≠ dst) {k : Nat}
    (hk : k < 65536) : memGet (putCells dst s.pkg.mem (frameCells s src)) (65536 * dst + k) =
      if src < frameCount then memGet s.pkg.mem (65536 * src + k) else devByte s (65536 * src + k) := by
  rw [← memGet_frameCells s src w hk,
    memGet_putCells_inside hk _ _ w (frameCells_frame s src) (frameCells_nodup s src w)]
  split
  · rfl
  next absent =>
    rw [memGet_not_mem fun c hc e => empty c hc (by omega), memGet_not_mem fun c hc e => absent (List.mem_map.mpr ⟨c, hc, e⟩)]

/-! ### The units that are written anew under the new slot -/

/-- Units of a frame, as they read under a slot, moved to the same places of another. -/
def putUnits (s : State) (dst old : Nat) (m : Memory) (units : List (Nat × Nat)) : Memory :=
  units.foldl (fun m q => memWrite m (16 * (q.1 % 4096) + dst * 65536) (physBytes s old (16 * q.1) 16)) m

section Units
variable {s : State} {dst old : Nat}

theorem putUnits_wf : ∀ (units : List (Nat × Nat)) (m : Memory), m.wf = true → (putUnits s dst old m units).wf = true
  | [], _, w => w
  | _ :: units, _, w => putUnits_wf units _ (memWrite_wf _ _ _ w)

theorem memGet_putUnits_outside {b : Nat} (out : b / 65536 ≠ dst) : ∀ (units : List (Nat × Nat)) (m : Memory), m.wf = true →
    memGet (putUnits s dst old m units) b = memGet m b
  | [], _, _ => rfl
  | q :: units, m, w => by
    refine (memGet_putUnits_outside out units _ (memWrite_wf _ _ _ w)).trans ?_
    rw [memGet_memWrite _ _ _ _ w, physBytes_length, if_neg (by omega)]

theorem memGet_putUnits_inside {src k : Nat} (hk : k < 65536) : ∀ (units : List (Nat × Nat)) (m : Memory), m.wf = true →
    (∀ q ∈ units, q.1 / 4096 = src) → memGet (putUnits s dst old m units) (65536 * dst + k) =
      if 4096 * src + k / 16 ∈ units.map Prod.fst then physByte s old (65536 * src + k) else memGet m (65536 * dst + k)
  | [], _, _, _ => by simp [putUnits]
  | q :: units, m, w, frame => by
    have own : q.1 / 4096 = src := frame q List.mem_cons_self
    refine (memGet_putUnits_inside hk units _ (memWrite_wf _ _ _ w) fun q hq => frame q (List.mem_cons_of_mem _ hq)).trans ?_
    rw [memGet_memWrite _ _ _ _ w, physBytes_length]
    by_cases e : q.1 = 4096 * src + k / 16
    · rw [if_pos (show 16 * (q.1 % 4096) + dst * 65536 ≤ 65536 * dst + k ∧ 65536 * dst + k < 16 * (q.1 % 4096) + dst * 65536 + 16 by omega),
        physBytes_getD _ _ _ _ _ (by omega),
        show 16 * q.1 + (65536 * dst + k - (16 * (q.1 % 4096) + dst * 65536)) = 65536 * src + k by omega, ite_self]
      exact (if_pos (List.mem_cons.mpr (.inl e.symm))).symm
    · rw [if_neg (show ¬ (16 * (q.1 % 4096) + dst * 65536 ≤ 65536 * dst + k ∧ 65536 * dst + k < 16 * (q.1 % 4096) + dst * 65536 + 16) by omega)]
      simp only [List.map_cons, List.mem_cons, Ne.symm e, false_or]

end Units

/-! ### The copy of a frame -/

/-- A byte that was never written under a key reads as the device reads it. -/
theorem physByte_unstamped {s : State} {slot b : Nat} (h : stampAt s (b / 16) = none) : physByte s slot b = devByte s b := by
  unfold physByte devByte
  rw [h]

theorem devByte_installed {s : State} {b : Nat} (clean : s.pkg.poison.contains (b / 64) = false) (hb : b < hbmLimit) :
    devByte s b = memGet s.pkg.mem b := by
  unfold devByte
  rw [clean, farLost_installed _ hb]
  exact if_pos hb

/-- The stamps of the units of a frame. -/
def drawnUnits (s : State) (src : Nat) : List (Nat × Nat) := s.pkg.stamps.filter fun q => q.1 / 4096 == src

/-- Memory after a copy. -/
def copiedMem (s : State) (src dst old : Nat) (new : Option Nat) : Memory :=
  if new.isNone then putCells dst s.pkg.mem (frameCells s src) else putUnits s dst old (putCells dst s.pkg.mem (frameCells s src)) (drawnUnits s src)

/-- The package after a copy. -/
def copied (s : State) (src dst old : Nat) (new : Option Nat) : State := s.modPkg fun p =>
  { p with mem := copiedMem s src dst old new
           stamps := (drawnUnits s src).map (fun q => (q.1 % 4096 + dst * 4096, match new with | some k => stampOf s k | none => q.2)) ++ p.stamps
           poison := (p.poison.filter fun l => l / 1024 == src).map (fun l => l % 1024 + dst * 1024) ++ p.poison
           frames := { p.frames with owner := (p.frames.owner.filter fun q => q.1 == src).map (fun q => (dst, q.2)) ++ p.frames.owner } }

theorem copyFrame_eq (s : State) (src dst old : Nat) (new : Option Nat) :
    copyFrame s src dst old new = copied (countLost (correctErrors s (65536 * src) 65536) (65536 * src)) src dst old new := rfl

/-- Nothing is kept in a frame. -/
structure EmptyFrame (s : State) (f : Nat) : Prop where
  mem : ∀ c ∈ s.pkg.mem, c.1 / 65536 ≠ f
  poison : ∀ l ∈ s.pkg.poison, l / 1024 ≠ f
  stamps : ∀ q ∈ s.pkg.stamps, q.1 / 4096 ≠ f

theorem emptyFrame_of_unused {s : State} {f : Nat} (h : frameUnused s f = true) : EmptyFrame s f := by
  simp only [frameUnused, Bool.and_eq_true, Bool.not_eq_true', List.any_eq_false, beq_iff_eq] at h
  obtain ⟨⟨⟨⟨⟨⟨mem, poison⟩, -⟩, -⟩, stamps⟩, -⟩, -⟩ := h
  exact ⟨mem, poison, stamps⟩

section Copied
variable {s : State} {src dst old : Nat} {new : Option Nat}

theorem memGet_copied_outside (w : s.pkg.mem.wf = true) {b : Nat} (out : b / 65536 ≠ dst) :
    memGet (copied s src dst old new).pkg.mem b = memGet s.pkg.mem b := by
  show memGet (copiedMem s src dst old new) b = _
  unfold copiedMem
  split
  · exact memGet_putCells_outside out _ _ w
  · rw [memGet_putUnits_outside out _ _ (putCells_wf _ _ _ w), memGet_putCells_outside out _ _ w]

/-- A frame that keeps its draws has its bytes copied as they stand. -/
theorem memGet_copied_kept (w : s.pkg.mem.wf = true) (empty : EmptyFrame s dst) {k : Nat} (hk : k < 65536) :
    memGet (copied s src dst old none).pkg.mem (65536 * dst + k) =
      if src < frameCount then memGet s.pkg.mem (65536 * src + k) else devByte s (65536 * src + k) := memGet_putCells_frame src dst w empty.mem hk

theorem memGet_copied_redrawn (w : s.pkg.mem.wf = true) (empty : EmptyFrame s dst) {slot k : Nat} (hk : k < 65536) :
    memGet (copied s src dst old (some slot)).pkg.mem (65536 * dst + k) =
      if 4096 * src + k / 16 ∈ (drawnUnits s src).map Prod.fst then physByte s old (65536 * src + k)
      else if src < frameCount then memGet s.pkg.mem (65536 * src + k) else devByte s (65536 * src + k) := by
  rw [← memGet_putCells_frame src dst w empty.mem hk]
  exact memGet_putUnits_inside hk _ _ (putCells_wf _ _ _ w) fun q hq => by simpa using (List.mem_filter.mp hq).2

theorem poison_copied_outside {l : Nat} (out : l / 1024 ≠ dst) : (copied s src dst old new).pkg.poison.contains l = s.pkg.poison.contains l := by
  rw [Bool.eq_iff_iff, List.contains_iff_mem, List.contains_iff_mem]
  refine List.mem_append.trans (or_iff_right fun h => ?_)
  obtain ⟨x, -, rfl⟩ := List.mem_map.mp h
  omega

theorem poison_copied_inside (empty : EmptyFrame s dst) {k : Nat} (hk : k < 1024) :
    (copied s src dst old new).pkg.poison.contains (1024 * dst + k) = s.pkg.poison.contains (1024 * src + k) := by
  rw [Bool.eq_iff_iff, List.contains_iff_mem, List.contains_iff_mem]
  refine List.mem_append.trans ((or_iff_left fun h => empty.poison _ h (by omega)).trans ⟨fun h => ?_, fun h => ?_⟩)
  · obtain ⟨x, hx, e⟩ := List.mem_map.mp h
    obtain ⟨listed, frame⟩ := List.mem_filter.mp hx
    rw [beq_iff_eq] at frame
    rwa [show 1024 * src + k = x by omega]
  · exact List.mem_map.mpr ⟨1024 * src + k, List.mem_filter.mpr ⟨h, by rw [beq_iff_eq]; omega⟩, by omega⟩

theorem stampAt_copied_outside {u : Nat} (out : u / 4096 ≠ dst) : stampAt (copied s src dst old new) u = stampAt s u := by
  have none : ((drawnUnits s src).map fun q => (q.1 % 4096 + dst * 4096, match new with | some k => stampOf s k | none => q.2)).find?
      (fun p => p.1 == u) = none := List.find?_eq_none.mpr fun p hp => by
    obtain ⟨q, -, rfl⟩ := List.mem_map.mp hp
    rw [beq_iff_eq]
    dsimp only
    omega
  refine congrArg (Option.map Prod.snd) (List.find?_append.trans ?_)
  exact (congrArg (Option.or · _) none).trans Option.none_or

/-- The units of the source that are stamped are stamped with the new slot's draw. -/
theorem stampAt_copied_inside (empty : EmptyFrame s dst) {slot k : Nat} (hk : k < 4096) :
    stampAt (copied s src dst old (some slot)) (4096 * dst + k) =
      if 4096 * src + k ∈ (drawnUnits s src).map Prod.fst then some (stampOf s slot) else none := by
  have fresh : s.pkg.stamps.find? (fun p => p.1 == 4096 * dst + k) = none := List.find?_eq_none.mpr fun p hp e => by
    rw [beq_iff_eq] at e
    exact empty.stamps p hp (by omega)
  have frame : ∀ q ∈ drawnUnits s src, q.1 / 4096 = src := fun q hq => by simpa using (List.mem_filter.mp hq).2
  have found : ((drawnUnits s src).map fun q => (q.1 % 4096 + dst * 4096, stampOf s slot)).find? (fun p => p.1 == 4096 * dst + k) =
      if 4096 * src + k ∈ (drawnUnits s src).map Prod.fst then some (4096 * dst + k, stampOf s slot) else none := by
    split
    next listed =>
      obtain ⟨q, hq, e⟩ := List.mem_map.mp listed
      cases hit : ((drawnUnits s src).map fun q => (q.1 % 4096 + dst * 4096, stampOf s slot)).find? (fun p => p.1 == 4096 * dst + k) with
      | none =>
        have := List.find?_eq_none.mp hit _ (List.mem_map.mpr ⟨q, hq, rfl⟩)
        rw [beq_iff_eq] at this
        omega
      | some x =>
        obtain ⟨y, -, rfl⟩ := List.mem_map.mp (List.mem_of_find?_eq_some hit)
        have place := List.find?_some hit
        rw [beq_iff_eq] at place
        rw [← place]
    next absent =>
      refine List.find?_eq_none.mpr fun p hp e => absent ?_
      obtain ⟨q, hq, rfl⟩ := List.mem_map.mp hp
      have own := frame q hq
      rw [beq_iff_eq] at e
      exact List.mem_map.mpr ⟨q, hq, by dsimp only at e; omega⟩
  have first : stampAt (copied s src dst old (some slot)) (4096 * dst + k) = Option.map Prod.snd ((((drawnUnits s src).map fun q =>
      (q.1 % 4096 + dst * 4096, stampOf s slot)).find? (fun p => p.1 == 4096 * dst + k)).or (s.pkg.stamps.find? fun p => p.1 == 4096 * dst + k)) :=
    congrArg (Option.map Prod.snd) List.find?_append
  rw [first, fresh, found, Option.or_none]
  split <;> rfl

/-- Every byte of the copy reads under the new slot as its source does under the old one. -/
theorem physByte_copied_inside (w : s.pkg.mem.wf = true) (empty : EmptyFrame s dst) (installed : dst < frameCount) {slot k : Nat} (hk : k < 65536) :
    physByte (copied s src dst old (some slot)) slot (65536 * dst + k) = physByte s old (65536 * src + k) := by
  have poison : (copied s src dst old (some slot)).pkg.poison.contains ((65536 * dst + k) / 64) = s.pkg.poison.contains ((65536 * src + k) / 64) := by
    have := poison_copied_inside (s := s) (src := src) (old := old) (new := some slot) empty (k := k / 64) (by omega)
    rwa [show 1024 * dst + k / 64 = (65536 * dst + k) / 64 by omega, show 1024 * src + k / 64 = (65536 * src + k) / 64 by omega] at this
  have here : 65536 * dst + k < hbmLimit := by unfold hbmLimit; omega
  by_cases bad : s.pkg.poison.contains ((65536 * src + k) / 64) = true
  · rw [physByte, physByte, poison, bad]
    rfl
  · rw [Bool.not_eq_true] at bad
    have clean := poison.trans bad
    have stamp := stampAt_copied_inside (s := s) (src := src) (old := old) (slot := slot) empty (k := k / 16) (by omega)
    rw [show 4096 * dst + k / 16 = (65536 * dst + k) / 16 by omega] at stamp
    have byte := memGet_copied_redrawn (s := s) (src := src) (dst := dst) (old := old) (slot := slot) w empty hk
    by_cases drawn : 4096 * src + k / 16 ∈ (drawnUnits s src).map Prod.fst
    · rw [if_pos drawn] at stamp byte
      rw [physByte_current clean here stamp, byte]
    · rw [if_neg drawn] at stamp byte
      have unstamped : stampAt s ((65536 * src + k) / 16) = none := by
        refine Option.map_eq_none_iff.mpr (List.find?_eq_none.mpr fun q hq e => drawn (List.mem_map.mpr ⟨q, List.mem_filter.mpr ⟨hq, ?_⟩, ?_⟩))
        · rw [beq_iff_eq] at e ⊢
          omega
        · rw [beq_iff_eq] at e
          omega
      rw [physByte_unstamped stamp, devByte_installed clean here, byte, physByte_unstamped unstamped]
      split
      next near => exact (devByte_installed bad (by unfold hbmLimit; omega)).symm
      next => rfl

/-- Every byte of another frame reads as before. -/
theorem physByte_copied_outside (w : s.pkg.mem.wf = true) (slot : Nat) {b : Nat} (out : b / 65536 ≠ dst) :
    physByte (copied s src dst old new) slot b = physByte s slot b := by
  refine physByte_congr (poison_copied_outside (by omega)) rfl (stampAt_copied_outside (by omega)) rfl fun c hc => ?_
  have same : memGet (copied s src dst old new).pkg.mem c = memGet s.pkg.mem c := memGet_copied_outside w (by omega)
  unfold hbmGet
  rw [same]

end Copied

end Sys2Proof.Machine
end

section
/-! PROOFS. The steps of a migration (R247, R398). -/

namespace Sys2Proof.Machine

/-! ### Writes of tile table entries -/

theorem putPtes_translated (d : Desc) (f : State → Nat × Word → Word) : ∀ (l : List (Nat × Word)) (s : State),
    Translated s (l.foldl (fun s q => putPte s d q.1 (f s q)) s)
  | [], s => .refl s
  | _ :: l, s => (devWrite_translated s _ _).trans (putPtes_translated d f l _)

theorem ports_devWrite (s : State) (a : Nat) (bs : List Byte) : (devWrite s a bs).pkg.ports = s.pkg.ports := by
  have lost : ∀ t : State, (countLost t a).pkg.ports = t.pkg.ports := fun t => by unfold countLost; split <;> rfl
  have triggered : ∀ (l : List Nat) (t : State), (l.foldl triggerMonitors t).pkg.ports = t.pkg.ports :=
    foldl_keeps (fun t : State => t.pkg.ports) (f := triggerMonitors) fun _ _ => rfl
  have named : ∀ (l : List Nat) (t : State), (l.foldl (nameSetter 0xffff) t).pkg.ports = t.pkg.ports :=
    foldl_keeps (fun t : State => t.pkg.ports) (f := nameSetter 0xffff) fun _ _ => rfl
  unfold devWrite
  rw [triggered, named, lost]
  rfl

theorem ports_putPtes (d : Desc) (f : State → Nat × Word → Word) : ∀ (l : List (Nat × Word)) (s : State),
    (l.foldl (fun s q => putPte s d q.1 (f s q)) s).pkg.ports = s.pkg.ports
  | [], _ => rfl
  | _ :: l, s => (ports_putPtes d f l _).trans (ports_devWrite s _ _)

theorem Translated.migrating {s t : State} (h : Translated s t) : t.pkg.migrating = s.pkg.migrating := by
  obtain ⟨_, _, _, _, _, _, _, _, _, _, rfl⟩ := h.rest
  rfl

theorem Translated.suite {s t : State} (h : Translated s t) (u : SuiteId) : t.suite u = s.suite u := by
  obtain ⟨_, _, _, _, _, _, _, _, _, _, rfl⟩ := h.rest
  rfl

theorem Translated.held {s t : State} (h : Translated s t) (k : TenantId) : (t.tenant k).held = (s.tenant k).held := by
  have := congrArg Tenant.held (h.errs k)
  exact this

theorem Counted.devByte {s t : State} (h : Counted s t) (a : Nat) : devByte t a = devByte s a := by
  unfold Machine.devByte farLost reachable
  rw [h.poison, h.mem, h.routes]

/-! ### Records of migrations under way -/

theorem flatMap_replace {α : Type} [DecidableEq α] (m : α) (g : α → α) (l : List α) :
    (l.flatMap fun x => if x = m then [g x] else [x]) = l.map fun x => if x = m then g x else x := by
  rw [List.map_eq_flatMap]
  congr 1
  funext x
  split <;> rfl

theorem flatMap_remove {α : Type} [DecidableEq α] (m : α) (l : List α) : (l.flatMap fun x => if x = m then [] else [x]) = l.filter (· != m) := by
  induction l with
  | nil => rfl
  | cons x l ih =>
    rw [List.flatMap_cons, ih]
    by_cases e : x = m <;> simp [e]

theorem migrating_modMigr (s : State) (m : Migr) (g : Migr → Migr) :
    (modMigr s m fun x => [g x]).pkg.migrating = s.pkg.migrating.map fun x => if x = m then g x else x := flatMap_replace m g _

theorem physByte_modMigr (s : State) (m : Migr) (g : Migr → List Migr) (slot b : Nat) : physByte (modMigr s m g) slot b = physByte s slot b := rfl

/-! ### The steps -/

section Steps
variable {s : State} {t : TenantId} {seg : Fin 65536} {d : Desc}

/-- The migration of a segment that is under way. -/
def migrOf (s : State) (t : TenantId) (seg : Nat) : Option Migr := s.pkg.migrating.find? fun m => m.tenant == t && m.seg == seg

theorem migration_none (h : homeDesc s t seg.val = none) : exec (.migration t seg) s = .next s := by
  show execMigration t seg s = _
  unfold execMigration
  rw [h]

/-- What holds a migration from its start. -/
def migrWaits (s : State) (t : TenantId) (seg : Nat) (d : Desc) : Prop := d.pinned = true ∨ d.busy ≠ 0 ∨ seg ∈ (s.tenant t).held

theorem migration_start (h : homeDesc s t seg.val = some d) (found : migrOf s t seg.val = none) :
    (migrWaits s t seg.val d → exec (.migration t seg) s = .next s) ∧
    (¬ migrWaits s t seg.val d → exec (.migration t seg) s = .next (migrationHold s t seg.val d)) := by
  have run : exec (.migration t seg) s = .next (if d.pinned ∨ d.busy ≠ 0 ∨ (s.tenant t).held.contains seg.val then s else migrationHold s t seg.val d) := by
    show execMigration t seg s = _
    unfold migrOf at found
    unfold execMigration
    rw [h]
    dsimp only
    rw [found]
  have same : migrWaits s t seg.val d ↔ d.pinned = true ∨ d.busy ≠ 0 ∨ (s.tenant t).held.contains seg.val = true := by
    rw [List.contains_iff_mem]
    rfl
  exact ⟨fun waits => by rw [run, if_pos (same.mp waits)], fun goes => by rw [run, if_neg (mt same.mpr goes)]⟩

/-- The present entries of a segment's tile table. -/
def presentPtes (s : State) (d : Desc) : List (Nat × Word) := ((List.range d.nent).map fun i => (i, pteAt s d i)).filter fun p => p.2.getLsbD 63

theorem mem_presentPtes (n : Nat) (e : Word) : (n, e) ∈ presentPtes s d ↔ n < d.nent ∧ e = pteAt s d n ∧ e.getLsbD 63 = true := by
  simp only [presentPtes, List.mem_filter, List.mem_map, List.mem_range, Prod.mk.injEq]
  constructor
  · rintro ⟨⟨i, hi, rfl, rfl⟩, present⟩
    exact ⟨hi, rfl, present⟩
  · rintro ⟨hn, rfl, present⟩
    exact ⟨⟨n, hn, rfl, rfl⟩, present⟩

/-- A tenant that holds one more segment, or one fewer. -/
theorem held_modTenant (s : State) (t : TenantId) (f : List Nat → List Nat) :
    ((s.modTenant t fun x => { x with held := f x.held }).tenant t).held = f (s.tenant t).held := by
  rw [State.tenant_modTenant, if_pos rfl]

theorem migrationHold_holds : ((migrationHold s t seg.val d).tenant t).held = seg.val :: (s.tenant t).held ∧
    (migrationHold s t seg.val d).pkg.migrating = s.pkg.migrating ++ [⟨t, seg.val, presentPtes s d, [], false⟩] := by
  have marked := putPtes_translated d (fun _ p => p.2 ||| migrBit) (presentPtes s d) s
  exact ⟨(held_modTenant _ t (seg.val :: ·)).trans (congrArg (seg.val :: ·) (marked.held t)), congrArg (· ++ _) marked.migrating⟩

/-- The key slot of the new frame, one of the tenant's where the old frame had one of them (log 40). -/
def newSlot (s : State) (t : TenantId) (e : Word) : Option Nat :=
  if (slotsOfTenant s t).contains (e.toNat / 2 ^ 50 % 128) then
    (slotsOfTenant s t)[Config.choice (s.fresh + 1) % max 1 (slotsOfTenant s t).length]? else none

/-- The entry of a copied frame. -/
def movedPte (s : State) (t : TenantId) (f : Nat) (e : Word) : Word :=
  (e &&& 0xfe03ff0000000000) ||| BitVec.ofNat 64 (f + 2 ^ 50 * (newSlot s t e).getD (e.toNat / 2 ^ 50 % 128)) ||| migrBit

/-- The state that the copy of one frame leaves. -/
def migrationCopy (s : State) (t : TenantId) (m : Migr) (n : Nat) (e : Word) (rest : List (Nat × Word)) : State :=
  let f := Config.choice s.fresh % frameCount
  modMigr (copyFrame { s with fresh := s.fresh + 2 } (e.setWidth 40).toNat f (e.toNat / 2 ^ 50 % 128) (newSlot s t e)) m
    fun x => [{ x with todo := rest, moved := x.moved ++ [(n, movedPte s t f e)] }]

/-- The state that the rebind of every entry leaves. -/
def migrationBound (s : State) (d : Desc) (m : Migr) : State :=
  modMigr (m.moved.foldl (fun s p => putPte s d p.1 p.2) s) m fun x => [{ x with bound := true }]

/-- The state that the release leaves. -/
def migrationDone (s : State) (t : TenantId) (seg : Nat) (d : Desc) (m : Migr) : State :=
  let s1 := triggerSegment (invalidateSegments s t (· == seg)) t (· == seg)
  let s2 := m.moved.foldl (fun s q => putPte s d q.1 (pteAt s d q.1 &&& ~~~migrBit)) s1
  modMigr (s2.modTenant t fun x => { x with held := x.held.filter (· != seg) }) m fun _ => []

/-- The next step of a migration that is under way. -/
def migrationStep (s : State) (t : TenantId) (seg : Nat) (d : Desc) (m : Migr) : List (Nat × Word) → State
  | (n, e) :: rest =>
    if frameUnused (chooseBelow s frameCount).2 (Config.choice s.fresh % frameCount) then migrationCopy s t m n e rest else (chooseBelow s frameCount).2
  | [] => if m.bound then migrationDone s t seg d m else migrationBound s d m

theorem migration_found {m : Migr} (h : homeDesc s t seg.val = some d) (found : migrOf s t seg.val = some m) :
    exec (.migration t seg) s = .next (migrationStep s t seg.val d m m.todo) := by
  show execMigration t seg s = _
  unfold migrOf at found
  unfold execMigration
  rw [h]
  dsimp only
  rw [found]
  dsimp only
  cases m.todo with
  | nil => cases bound : m.bound <;> simp [migrationStep, bound] <;> rfl
  | cons q rest =>
    obtain ⟨n, e⟩ := q
    cases used : frameUnused (chooseBelow s frameCount).2 (Config.choice s.fresh % frameCount) with
    | false =>
      have waits : migrationStep s t seg.val d m ((n, e) :: rest) = (chooseBelow s frameCount).2 := if_neg (by rw [used]; decide)
      rw [waits]
      exact congrArg Host.Outcome.next (if_pos (congrArg not used))
    | true =>
      have copies : migrationStep s t seg.val d m ((n, e) :: rest) = migrationCopy s t m n e rest := if_pos used
      rw [copies]
      exact congrArg Host.Outcome.next (if_neg (Bool.eq_false_iff.mp (congrArg not used)))

/-! ### What a copy leaves -/

section Copy
variable (s t) (m : Migr) (n : Nat) (e : Word) (rest : List (Nat × Word))

/-- The state that a copy reads: the errors of the old frame corrected. -/
def corrected (s : State) (src : Nat) : State := countLost (correctErrors { s with fresh := s.fresh + 2 } (65536 * src) 65536) (65536 * src)

theorem corrected_counted (src : Nat) : Counted s (corrected s src) :=
  ((counted_fresh s (s.fresh + 2)).trans (counted_correctErrors _ _ _)).trans (counted_countLost _ _)

theorem corrected_translated (src : Nat) : Translated s (corrected s src) :=
  (Translated.trans ⟨⟨_, _, _, _, _, _, _, _, _, _, rfl⟩, fun _ => rfl⟩ (correctErrors_translated { s with fresh := s.fresh + 2 } _ _)).trans
    (countLost_translated _ _)

theorem migrationCopy_eq : migrationCopy s t m n e rest =
    modMigr (copied (corrected s (e.setWidth 40).toNat) (e.setWidth 40).toNat (Config.choice s.fresh % frameCount) (e.toNat / 2 ^ 50 % 128)
      (newSlot s t e)) m fun x => [{ x with todo := rest, moved := x.moved ++ [(n, movedPte s t (Config.choice s.fresh % frameCount) e)] }] := rfl

theorem migrating_migrationCopy : (migrationCopy s t m n e rest).pkg.migrating = s.pkg.migrating.map fun x => if x = m then
    { x with todo := rest, moved := x.moved ++ [(n, movedPte s t (Config.choice s.fresh % frameCount) e)] } else x := by
  rw [← (corrected_translated s (e.setWidth 40).toNat).migrating]
  exact migrating_modMigr ..

/-- A slot of the tenant's is replaced by one of the tenant's. -/
theorem newSlot_some (h : e.toNat / 2 ^ 50 % 128 ∈ slotsOfTenant s t) : ∃ k, newSlot s t e = some k := by
  have some : 0 < (slotsOfTenant s t).length := List.length_pos_of_mem h
  have inside : Config.choice (s.fresh + 1) % max 1 (slotsOfTenant s t).length < (slotsOfTenant s t).length := by
    rw [max_eq_right some]
    exact Nat.mod_lt _ some
  exact ⟨_, (if_pos (List.contains_iff_mem.mpr h)).trans (List.getElem?_eq_getElem inside)⟩

theorem newSlot_none (h : e.toNat / 2 ^ 50 % 128 ∉ slotsOfTenant s t) : newSlot s t e = none := if_neg (by rwa [List.contains_iff_mem])

variable (w : s.pkg.mem.wf = true) (free : frameUnused (chooseBelow s frameCount).2 (Config.choice s.fresh % frameCount) = true)
include w

theorem corrected_wf (src : Nat) : (corrected s src).pkg.mem.wf = true := by rwa [(corrected_counted s src).mem]

theorem migrationCopy_outside {a : Nat} (out : a / 65536 ≠ Config.choice s.fresh % frameCount) :
    memGet (migrationCopy s t m n e rest).pkg.mem a = memGet s.pkg.mem a ∧
      ∀ slot, physByte (migrationCopy s t m n e rest) slot a = physByte s slot a := by
  have same := corrected_counted s (e.setWidth 40).toNat
  rw [migrationCopy_eq]
  refine ⟨?_, fun slot => ?_⟩
  · rw [← same.mem]
    exact memGet_copied_outside (corrected_wf s w _) out
  · rw [physByte_modMigr, physByte_copied_outside (corrected_wf s w _) slot out, same.physByte]

include free

omit w in
theorem corrected_empty (src : Nat) : EmptyFrame (corrected s src) (Config.choice s.fresh % frameCount) := by
  have same := corrected_counted s src
  obtain ⟨mem, poison, stamps⟩ := emptyFrame_of_unused free
  exact ⟨by rw [same.mem]; exact mem, by rw [same.poison]; exact poison, by rw [same.stamps]; exact stamps⟩

theorem migrationCopy_redrawn (mine : e.toNat / 2 ^ 50 % 128 ∈ slotsOfTenant s t) {k : Nat} (hk : k < 65536) :
    physByte (migrationCopy s t m n e rest) ((newSlot s t e).getD (e.toNat / 2 ^ 50 % 128)) (65536 * (Config.choice s.fresh % frameCount) + k) =
      physByte s (e.toNat / 2 ^ 50 % 128) (65536 * (e.setWidth 40).toNat + k) := by
  have installed : Config.choice s.fresh % frameCount < frameCount := Nat.mod_lt _ (by decide)
  obtain ⟨slot, new⟩ := newSlot_some s t e mine
  rw [migrationCopy_eq, physByte_modMigr, new, Option.getD_some,
    physByte_copied_inside (corrected_wf s w _) (corrected_empty s free _) installed hk, (corrected_counted ..).physByte]

theorem migrationCopy_kept (other : e.toNat / 2 ^ 50 % 128 ∉ slotsOfTenant s t) {k : Nat} (hk : k < 65536) :
    memGet (migrationCopy s t m n e rest).pkg.mem (65536 * (Config.choice s.fresh % frameCount) + k) =
      if (e.setWidth 40).toNat < frameCount then memGet s.pkg.mem (65536 * (e.setWidth 40).toNat + k)
      else devByte s (65536 * (e.setWidth 40).toNat + k) := by
  have same := corrected_counted s (e.setWidth 40).toNat
  rw [migrationCopy_eq, newSlot_none s t e other, ← same.devByte, ← same.mem]
  exact memGet_copied_kept (old := e.toNat / 2 ^ 50 % 128) (corrected_wf s w _) (corrected_empty s free _) hk

end Copy

/-! ### What a rebind and a release leave -/

theorem migrationBound_binds (s : State) (d : Desc) (m : Migr) :
    (migrationBound s d m).pkg.mem = (m.moved.foldl (fun x q => putPte x d q.1 q.2) s).pkg.mem ∧
      (migrationBound s d m).pkg.migrating = s.pkg.migrating.map fun x => if x = m then { x with bound := true } else x := by
  refine ⟨rfl, ?_⟩
  rw [← (putPtes_translated d (fun _ q => q.2) m.moved s).migrating]
  exact migrating_modMigr ..

section Done
variable (s : State) (t : TenantId) (seg : Nat) (d : Desc) (m : Migr)

/-- The rebound entries with their migrating bit cleared, once no port and no L1 holds anything of the segment. -/
def unmarked : State :=
  m.moved.foldl (fun s q => putPte s d q.1 (pteAt s d q.1 &&& ~~~migrBit)) (triggerSegment (invalidateSegments s t (· == seg)) t (· == seg))

theorem unmarked_translated : Translated (triggerSegment (invalidateSegments s t (· == seg)) t (· == seg)) (unmarked s t seg d m) :=
  putPtes_translated d (fun s q => pteAt s d q.1 &&& ~~~migrBit) m.moved _

theorem migrationDone_released : seg ∉ ((migrationDone s t seg d m).tenant t).held := by
  have held : ((migrationDone s t seg d m).tenant t).held = _ := held_modTenant (unmarked s t seg d m) t fun l => l.filter (· != seg)
  rw [held, List.mem_filter]
  simp

theorem migrating_migrationDone : (migrationDone s t seg d m).pkg.migrating = s.pkg.migrating.filter (· != m) := by
  have same : (unmarked s t seg d m).pkg.migrating = s.pkg.migrating := (unmarked_translated s t seg d m).migrating
  rw [← same]
  exact flatMap_remove m _

theorem l1_migrationDone (u : SuiteId) (l : L1Line) (h : l ∈ ((migrationDone s t seg d m).suite u).l1) : ¬ (l.tenant = t ∧ l.seg = seg) := by
  have suite : (migrationDone s t seg d m).suite u = (invalidateSegments s t (· == seg)).suite u := (unmarked_translated s t seg d m).suite u
  rw [suite] at h
  simpa using ((mem_l1_clearSeg _ t (· == seg) u l).mp h).2

theorem ports_migrationDone (b : List Byte) : .desc t seg b ∉ (migrationDone s t seg d m).pkg.ports := by
  have ports : (migrationDone s t seg d m).pkg.ports = (invalidateSegments s t (· == seg)).pkg.ports :=
    ports_putPtes d (fun s q => pteAt s d q.1 &&& ~~~migrBit) m.moved _
  rw [ports]
  exact fun h => ((mem_ports_invalidate s t (· == seg) _).mp h).2 ⟨rfl, beq_self_eq_true seg⟩

end Done

end Steps

/-- Settles O55: LSSPLIT clears what returns to the scratchpad, and each step of a migration is read off the one state that it makes. -/
theorem lsSplitAndMigration : Obligations.LsSplitAndMigration := by
  unfold Obligations.LsSplitAndMigration
  refine ⟨?_, ?_⟩
  · intro s u v old new
    have own := suite_resplit_same s u v
    refine ⟨_, exec_lssplitWrite s u v, by rw [own]; rfl, by rw [own]; rfl, by rw [own]; exact scratchLimit_split v (s.suite u),
      lsRead_resplit_same s u v, fun w other => ⟨suite_resplit_other s u v other, lsRead_resplit_other s u v other⟩, rfl⟩
  · intro s t seg d i mine found waits
    refine ⟨migration_none, fun home idle => ?_, ?_, ?_⟩
    · obtain ⟨held, goes⟩ := migration_start home idle
      obtain ⟨mark, record⟩ := migrationHold_holds (s := s) (t := t) (seg := seg) (d := d)
      exact ⟨held, fun go => ⟨_, goes go, mark, _, record, mem_presentPtes⟩⟩
    · intro m n e rest home run todo w f s1
      have step := migration_found home run
      rw [todo] at step
      refine ⟨fun used => ?_, fun free => ?_⟩
      · exact step.trans (congrArg Host.Outcome.next (if_neg (by rw [show frameUnused _ _ = false from used]; decide)))
      · intro old slots key new
        refine ⟨_, step.trans (congrArg Host.Outcome.next (if_pos free)), fun mine k hk => migrationCopy_redrawn s t m n e rest w free mine hk,
          fun other k hk => migrationCopy_kept s t m n e rest w free other hk, fun a out => migrationCopy_outside s t m n e rest w out,
          migrating_migrationCopy s t m n e rest⟩
    · intro m home run todo
      have step := migration_found home run
      rw [todo] at step
      refine ⟨fun unbound => ?_, fun bound => ?_⟩
      · exact ⟨_, step.trans (congrArg Host.Outcome.next (if_neg (by rw [unbound]; decide))), migrationBound_binds s d m⟩
      · exact ⟨_, step.trans (congrArg Host.Outcome.next (if_pos bound)), migrationDone_released s t seg.val d m,
          migrating_migrationDone s t seg.val d m, l1_migrationDone s t seg.val d m, ports_migrationDone s t seg.val d m⟩

end Sys2Proof.Machine
end

section
/-! PROOFS. A store that is not aligned and lies beyond the installed memory does not leave its bytes in the second line that it reaches (R139, R142). -/

namespace Sys2Proof.Machine

/-! ### The bytes that a write beyond the installed memory leaves -/

theorem routes_prepared (s : State) (slot a n : Nat) : (prepared s slot a n).pkg.routes = s.pkg.routes := by
  have units : ∀ (l : List Nat) (t : State), (l.foldl (rewriteUnit slot) t).pkg.routes = t.pkg.routes :=
    foldl_keeps (fun t : State => t.pkg.routes) (f := rewriteUnit slot) fun _ _ => rfl
  have lines : ∀ (l : List Nat) (t : State),
      (l.foldl (fun s l => (List.range 4).foldl (fun s i => rewriteUnit slot s (l * 4 + i)) s) t).pkg.routes = t.pkg.routes :=
    foldl_keeps (fun t : State => t.pkg.routes) fun t l => foldl_keeps (fun t : State => t.pkg.routes) (fun _ _ => rfl) (List.range 4) t
  unfold prepared
  rw [units, lines]

/-- Every touched unit is stamped, beyond the installed memory too. -/
theorem stampAt_prepared (s : State) (slot a : Nat) {n u : Nat} (w : s.pkg.mem.wf = true) (h : u ∈ unitsOf a n 16) :
    stampAt (prepared s slot a n) u = some (stampOf (prepared s slot a n) slot) := by
  have lines := (rewriteLines_rewritten slot ((unitsOf a n 64).filter s.pkg.poison.contains) s w).1
  obtain ⟨units, each⟩ := rewriteUnits_rewritten slot (unitsOf a n 16) _ lines.wf
  exact (each u h).1.trans (congrArg some units.stamp.symm)

/-- A byte beyond the installed memory that a write touches reads as the value that nothing has written, whatever the write carries. -/
theorem physByte_physWrite_far (s : State) (slot a : Nat) {bs : List Byte} (setter : Nat) (w : s.pkg.mem.wf = true) {b : Nat} (far : hbmLimit ≤ b)
    (inside : a ≤ b ∧ b < a + bs.length) (route : s.pkg.routes = none) :
    physByte (physWrite s slot a bs setter) slot b = Config.freeByte b 7 0 := by
  have ne : bs.length ≠ 0 := by omega
  have some : bs ≠ [] := by rwa [← List.length_pos_iff_ne_nil, Nat.pos_iff_ne_zero]
  have line : b / 64 ∈ unitsOf a bs.length 64 := (mem_units _ _ _ _ ne).mpr (by omega)
  have unit : b / 16 ∈ unitsOf a bs.length 16 := (mem_units _ _ _ _ ne).mpr (by omega)
  have clean : (stored (prepared s slot a bs.length) a bs).pkg.poison.contains (b / 64) = false := by
    rw [poison_stored, List.contains_iff_mem.mpr line, Bool.not_true, Bool.and_false]
  have routes : (stored (prepared s slot a bs.length) a bs).pkg.routes = none := (routes_prepared s slot a bs.length).trans route
  have reached : farLost (stored (prepared s slot a bs.length) a bs) b = false := by
    simp only [farLost, reachable, routes, Bool.not_true, Bool.and_false]
  have stamp : stampAt (stored (prepared s slot a bs.length) a bs) (b / 16) =
      Option.some (stampOf (stored (prepared s slot a bs.length) a bs) slot) := stampAt_prepared s slot a w unit
  rw [physByte_physWrite s slot a setter some, physByte, clean, reached, stamp]
  simp [hbmGet, Nat.not_lt.mpr far]

/-- A store of a context that its line's home port has granted. -/
theorem storeBytes_ctx {s s2 : State} {c : CtxId} {t : TenantId} {seg off pa slot : Nat} {d : Desc} {bs : List Byte} {setter : Nat}
    (h : translate s t seg d off true false = (.ok (pa, slot), s2)) (granted : l2Granted s2 (.ctx c) (pa / 64) = true) :
    storeBytes s (.ctx c) t seg d off bs setter = (.ok (), countL2 (physWrite s2 slot pa bs setter) (.ctx c) (pa / 64)) := by
  unfold storeBytes
  rw [h]
  dsimp only
  rw [granted]
  rfl

/-- A store whose bytes are written performs. -/
theorem performEntry_store {s s1 s2 : State} {r : BankRef} {e : QEntry} {va : Word} {size : BitVec 2} {data : Word} {rel : Option (BitVec 2)}
    {nt : Bool} {d : Desc} (op : e.op = .st va size data rel nt) (desc : getDesc s (tenantOf s r) (natBits va.toNat 36 16) = (some d, s1))
    (stored : storeBytes s1 r (tenantOf s r) (natBits va.toNat 36 16) d (va.toNat % 2 ^ 36) (leBytes (2 ^ size.toNat) data.toNat) r.source =
      (.ok (), s2)) : performEntry s r e = finishEntry (watchAccess s2 ⟨r, .a⟩ true va.toNat (2 ^ size.toNat)) r e [] := by
  unfold performEntry
  rw [op]
  dsimp only
  rw [desc]
  dsimp only
  rw [stored]

/-! ### A store that reaches into a second line, beyond the installed memory -/

/-- Where the store goes: the last four bytes of a line of the first frame that is not installed. -/
def farPlace : Nat := hbmLimit + 0x3c

/-- Data whose fifth byte differs from what is read at the start of the next line. -/
def farData : Word := ((Config.freeByte (hbmLimit + 64) 7 0 ^^^ 1).setWidth 64) <<< 32

/-- A store of 8 bytes at 0x3c of segment 0. -/
def farEntry : QEntry := ⟨0, .st 0x3c 3 farData none false, 0, 0, 0⟩

/-- Segment 0 of tenant 0, of one frame, writable, its descriptor at 0x100 and its entry, accessed and dirty, at 0x1000 (R59, R60, R64). -/
def farDesc : Desc :=
  { rank := 1, fmt := .u8, tiled := false, writable := true, code := false, pinned := false, busy := 0, dims := [65536, 1, 1, 1, 1, 1],
    tshape := [1, 1, 1, 1, 1, 1], owner := 0, ttab := 0x1000, nent := 1 }

/-- A slice port that has granted the store. -/
def farPort : L2Port := ⟨0, [], 0, 63, [], [(.agent (.ctx 0), farPlace / 64)]⟩

/-- The supervisor context of that tenant with the store in its queue, granted by the home port of its line. -/
def farState : State :=
  (State.reset.modPkg fun p => { p with
    mem := [(0x100, 1), (0x101, 6), (0x103, 3), (0x10a, 1), (0x10c, 1), (0x110, 1), (0x114, 1), (0x118, 1), (0x11c, 1), (0x131, 0x10), (0x138, 1),
      (0x1002, 0xc0), (0x1007, 0xe0)]
    keys := p.keys.set 0 ⟨some 0, 0⟩
    l2 := List.replicate 1536 farPort }).modCtx 0 fun x =>
      { x with segbase := 0x100, segcnt := 1, regs := { x.regs with sq := [farEntry] } }

theorem farState_describes : (getDesc farState 0 0).1 = some farDesc := by decide +kernel

theorem farState_translates : (translate (getDesc farState 0 0).2 0 0 farDesc 0x3c true).1 = .ok (farPlace, 0) := by decide +kernel

theorem farState_chooses : chooseEntry farState (.ctx 0) true = (some farEntry, farState) := by
  rfl

/-- The home port of its line, whichever that is, has granted the store. -/
theorem farState_granted {t : State} (h : t.pkg.l2 = farState.pkg.l2) : l2Granted t (.ctx 0) (farPlace / 64) = true := by
  have home : homePort (farPlace / 64) < 1536 := by
    have stack := (Config.homeStack (farPlace / 64)).isLt
    have slice := (Config.homeSlice (farPlace / 64)).isLt
    unfold homePort
    omega
  have port : (l2Port t (farPlace / 64)).granted = [(.agent (.ctx 0), farPlace / 64)] := by
    unfold l2Port
    rw [h, show farState.pkg.l2 = List.replicate 1536 farPort from rfl, List.getD_replicate _ home]
    rfl
  simp [l2Granted, l2GrantedTo, port]

theorem farData_byte : (farData >>> (8 * (hbmLimit + 64 - farPlace))).setWidth 8 ≠ Config.freeByte (hbmLimit + 64) 7 0 := by
  have differs : ∀ x : Byte, ((((x ^^^ 1).setWidth 64 : Word) <<< 32) >>> 32).setWidth 8 ≠ x := by decide
  rw [show 8 * (hbmLimit + 64 - farPlace) = 32 by unfold farPlace; omega]
  exact differs _

theorem Translated.trace {s t : State} (h : Translated s t) (k : TenantId) : (t.tenant k).trace = (s.tenant k).trace := by
  have := congrArg Tenant.trace (h.errs k)
  exact this

theorem Translated.ways {s t : State} (h : Translated s t) : t.pkg.l2 = s.pkg.l2 ∧ t.pkg.routes = s.pkg.routes := by
  obtain ⟨_, _, _, _, _, _, _, _, _, _, rfl⟩ := h.rest
  exact ⟨rfl, rfl⟩

/-- The state in which the store performs. -/
def farReady : State := (translate (getDesc farState 0 0).2 0 0 farDesc 0x3c true).2

theorem farReady_translated : Translated farState farReady := (getDesc_translated farState 0 0).trans (translate_translated _ 0 0 farDesc 0x3c true false)

theorem farReady_wf : farReady.pkg.mem.wf = true := translate_wf _ 0 0 farDesc 0x3c true false (by decide +kernel)

theorem farState_performs : exec (.queueEntryPerform (.ctx 0) true) farState = .next (finishEntry
    (countL2 (physWrite farReady 0 farPlace (leBytes 8 farData.toNat) (BankRef.ctx 0).source) (.ctx 0) (farPlace / 64)) (.ctx 0) farEntry []) := by
  have stored := storeBytes_ctx (c := 0) (bs := leBytes 8 farData.toNat) (setter := (BankRef.ctx 0).source)
    (Prod.ext farState_translates rfl : translate (getDesc farState 0 0).2 0 0 farDesc 0x3c true false = (.ok (farPlace, 0), farReady))
    (farState_granted farReady_translated.ways.1)
  have described : getDesc farState 0 0 = (some farDesc, (getDesc farState 0 0).2) := Prod.ext farState_describes rfl
  have performs := performEntry_store (e := farEntry) (nt := false) (rel := none) rfl described stored
  show execQueueEntryPerform (.ctx 0) true farState = _
  unfold execQueueEntryPerform
  rw [if_pos rfl, show leftoverTurn farState (.ctx 0) = farState from rfl]
  dsimp only
  rw [farState_chooses]
  exact congrArg Host.Outcome.next performs

/-- Refutes O17: a store that is not aligned reaches into a second line, and beyond the installed memory its bytes are not kept there. -/
theorem not_accessesPerform : ¬ Obligations.AccessesPerform := by
  unfold Obligations.AccessesPerform
  rintro ⟨-, stores⟩
  obtain ⟨ports, routes⟩ := farReady_translated.ways
  have debug : dbgOn farReady 0 = false := by
    unfold dbgOn
    rw [farReady_translated.trace]
    decide +kernel
  obtain ⟨-, performs⟩ := stores (.ctx 0) farEntry 0x3c 3 farData none false farDesc farState farState (getDesc farState 0 0).2 farReady farPlace 0
    rfl farState_chooses rfl (Prod.ext farState_describes rfl) (Prod.ext farState_translates rfl) debug farReady_wf
  obtain ⟨t, run, bytes, -⟩ := performs (farState_granted ports)
  have same := Host.Outcome.next.inj (farState_performs.symm.trans run)
  have other : (hbmLimit + 64) / 64 ≠ farPlace / 64 := by decide
  have inside : farPlace ≤ hbmLimit + 64 ∧ hbmLimit + 64 < farPlace + 8 := by decide
  have kept := bytes (hbmLimit + 64) (.inr other)
  have read : physByte t 0 (hbmLimit + 64) = Config.freeByte (hbmLimit + 64) 7 0 := by
    obtain ⟨-, -, -, -, -, -, -, pkg, -⟩ := finishEntry_keeps
      (countL2 (physWrite farReady 0 farPlace (leBytes 8 farData.toNat) (BankRef.ctx 0).source) (.ctx 0) (farPlace / 64)) (.ctx 0) farEntry []
    rw [← same, physByte_of_pkg pkg, (counted_countL2 ..).physByte]
    exact physByte_physWrite_far farReady 0 farPlace _ farReady_wf (Nat.le_add_right ..) inside (routes.trans rfl)
  exact farData_byte ((if_pos inside).symm.trans (kept.symm.trans read))

end Sys2Proof.Machine
end

section
/-! PROOFS. The state after a package reset (R329, R331, R324). -/

namespace Sys2Proof.Machine

theorem vget_replicate {α : Type} {n : Nat} (x : α) (i : Fin n) : (Vector.replicate n x).get i = x := Vector.getElem_replicate i.isLt

theorem suite_reset (u : SuiteId) : State.reset.suite u = Suite.reset := vget_replicate _ u
theorem room_reset (u : SuiteId) : State.reset.room u = Room.reset u := Vector.getElem_ofFn u.isLt
theorem ctx_reset (c : CtxId) : State.reset.ctx c = Ctx.reset := vget_replicate _ c
theorem tenant_reset (t : TenantId) : State.reset.tenant t = Tenant.reset := vget_replicate _ t

/-- Settles O6: each table of the reset state holds one reset record, and the record has the printed values. -/
theorem resetState_asPrinted : Obligations.ResetState := by
  unfold Obligations.ResetState
  refine ⟨fun u b => ?_, fun c => ?_, rfl, rfl, fun k => ?_, fun u i => ?_, fun u => ?_, fun t => ?_, rfl, fun u => ?_, fun d => ?_⟩
  · rw [suite_reset]
    exact congrArg Bank.visit (vget_replicate Bank.reset b)
  · rw [ctx_reset]
    rfl
  · exact congrArg KeySlot.tenant (vget_replicate _ k)
  · rw [room_reset]
    exact vget_replicate _ i
  · rw [room_reset]
    rfl
  · rw [tenant_reset]
    exact ⟨rfl, rfl, rfl⟩
  · rw [suite_reset]
    rfl
  · exact vget_replicate _ d

end Sys2Proof.Machine
end

section
/-! PROOFS. Tiles filled element by element: arithmetic (R170). -/

namespace Sys2Proof.Machine

/-! ### A grid fills a tile -/

/-- A ready instruction whose plan fills a tile from a grid gives the tile the grid's elements, to the format's width, and their flags. -/
theorem fills_planGrid {s : State} {i : Instr} {w : BitVec 4} {cls : Nat} {d : BitVec 6} {f : Fmt} {p : State → Agent → Plan}
    {g res : Fin 128 → Nat → Nat × Flags} (run : exec i s = issue i w p s) (plan : p s s.cur = planGrid cls d f (fun _ => gridOf f g) s s.cur)
    (same : ∀ r c, (g r c).1 % 2 ^ f.width = (res r c).1 % 2 ^ f.width ∧ (g r c).2 = (res r c).2) :
    fills s i w cls d f res := by
  intro h
  refine ⟨gridTile f (gridOf f g), gridFlags (gridOf f g), ⟨fun r c hc => ?_, fun n => ?_⟩, ?_⟩
  · rw [elemAt_gridTile f g r c hc, (same r c).1]
  · simp only [gridFlags_getLsbD, (same _ _).2]
  · rw [run, issue_next h (by rw [plan]; rfl) (by rw [plan]; rfl), plan]
    rfl

/-! ### Integers of a format -/

theorem natMod_modEq (v n : Nat) : ((v % n : Nat) : Int) ≡ v [ZMOD n] := by
  rw [Int.natCast_mod]
  exact Int.mod_modEq _ _

theorem signedOf_modEq (n v : Nat) : signedOf n v ≡ v [ZMOD 2 ^ n] := by
  have low : ((v % 2 ^ n : Nat) : Int) ≡ v [ZMOD 2 ^ n] := by exact_mod_cast natMod_modEq v (2 ^ n)
  unfold signedOf
  split
  · exact low
  · exact Int.sub_modulus_modEq_iff.mpr low

/-- The integer that a pattern stands for differs from the pattern by a multiple of 2^w (R74). -/
theorem intOf_modEq (f : Fmt) (x : Nat) : intOf f x ≡ x [ZMOD 2 ^ f.width] := by
  unfold intOf
  split
  next unsigned =>
    subst unsigned
    exact natMod_modEq x 256
  next => exact signedOf_modEq f.width x

theorem two_pow_width_ne_zero (f : Fmt) : (2 : Int) ^ f.width ≠ 0 := pow_ne_zero _ two_ne_zero

theorem patOf_modEq (f : Fmt) (v : Int) : v ≡ patOf f v [ZMOD 2 ^ f.width] := by
  unfold patOf
  rw [Int.toNat_of_nonneg (Int.emod_nonneg _ (two_pow_width_ne_zero f))]
  exact (Int.mod_modEq _ _).symm

/-- A pattern that is congruent to an integer is the integer's residue. -/
theorem mod_width_of_modEq {f : Fmt} {v : Int} {x : Nat} (h : v ≡ x [ZMOD 2 ^ f.width]) : x % 2 ^ f.width = (v % 2 ^ f.width).toNat := by
  rw [h]
  exact_mod_cast (Int.toNat_natCast (x % 2 ^ f.width)).symm

/-! ### Lanes -/

/-- An element of a lanewise operation: the float rule's exact value rounded once, or the integer rule's residue (R170). -/
def laneElem (s : State) (d s1 s2 : BitVec 6) (f : Fmt) (fl : Val → Val → Val → Val × Flags) (int : Int → Int → Int → Int) (r : Fin 128) (c : Nat) :
    Nat × Flags :=
  let x := elemAt (tileOp s s.cur s1) f r c
  let y := elemAt (tileOp s s.cur s2) f r c
  let z := elemAt (tileOp s s.cur d) f r c
  if f.isF then roundTo f (frmOf s s.cur) (fl (dec x f) (dec y f) (dec z f)) else (patOf f (int (intOf f x) (intOf f y) (intOf f z)), 0)

/-- A lanewise plan fills its tile as a float rule says that agrees with its own under the stream's FRM, and as an integer rule says to which its
patterns are congruent. -/
theorem fills_lane {s : State} {i : Instr} {w : BitVec 4} {d s1 s2 : BitVec 6} {ty : BitVec 3} {own : BitVec 2 → Val → Val → Val → Val × Flags}
    {pat : Fmt → Nat → Nat → Nat → Nat} {fl : Val → Val → Val → Val × Flags} {int : Int → Int → Int → Int}
    (run : exec i s = issue i w (planLane d s1 s2 ty own pat) s) (floats : own (frmOf s s.cur) = fl)
    (ints : ∀ f x y z, int (intOf f x) (intOf f y) (intOf f z) ≡ pat f x y z [ZMOD 2 ^ f.width]) :
    fills s i w 5 d (Fmt.ofTy ty) (laneElem s d s1 s2 (Fmt.ofTy ty) fl int) := by
  subst floats
  refine fills_planGrid run rfl fun r c => ?_
  unfold laneElem
  dsimp only
  split
  · exact ⟨rfl, rfl⟩
  · exact ⟨congrArg (· % 2 ^ (Fmt.ofTy ty).width) (mod_width_of_modEq (ints _ _ _ _)), rfl⟩

/-! ### Integer rules on patterns -/

section Patterns
variable (f : Fmt) (x y z : Nat)

theorem intOf_add_modEq : intOf f x + intOf f y ≡ (x + y : Nat) [ZMOD 2 ^ f.width] := by
  push_cast
  exact (intOf_modEq f x).add (intOf_modEq f y)

theorem intOf_mul_modEq : intOf f x * intOf f y ≡ (x * y : Nat) [ZMOD 2 ^ f.width] := by
  push_cast
  exact (intOf_modEq f x).mul (intOf_modEq f y)

theorem intOf_mulAdd_modEq : intOf f x * intOf f y + intOf f z ≡ (x * y + z : Nat) [ZMOD 2 ^ f.width] := by
  rw [Nat.cast_add]
  exact (intOf_mul_modEq f x y).add (intOf_modEq f z)

theorem intOf_min_modEq : min (intOf f x) (intOf f y) ≡ (if intOf f y < intOf f x then y else x : Nat) [ZMOD 2 ^ f.width] := by
  split
  next less => rw [min_eq_right less.le]; exact intOf_modEq f y
  next notLess => rw [min_eq_left (not_lt.mp notLess)]; exact intOf_modEq f x

theorem intOf_max_modEq : max (intOf f x) (intOf f y) ≡ (if intOf f x < intOf f y then y else x : Nat) [ZMOD 2 ^ f.width] := by
  split
  next less => rw [max_eq_right less.le]; exact intOf_modEq f y
  next notLess => rw [max_eq_left (not_lt.mp notLess)]; exact intOf_modEq f x

theorem intOf_abs_modEq : |intOf f x| ≡ (if intOf f x < 0 then patOf f (-intOf f x) else x : Nat) [ZMOD 2 ^ f.width] := by
  split
  next negative => rw [abs_of_neg negative]; exact patOf_modEq f _
  next notNegative => rw [abs_of_nonneg (not_lt.mp notNegative)]; exact intOf_modEq f x

end Patterns

/-- Settles O27: each instruction's plan is one lanewise grid, and its rule on patterns agrees with the rule on integers to the format's width. -/
theorem tileArithmetic : Obligations.TileArithmetic := by
  unfold Obligations.TileArithmetic
  intro d s1 s2 ty w s f rm at1 at2 at3 lane
  have fill : ∀ {i : Instr} {own : BitVec 2 → Val → Val → Val → Val × Flags} {pat : Fmt → Nat → Nat → Nat → Nat}
      {fl : Val → Val → Val → Val × Flags} {int : Int → Int → Int → Int}, exec i s = issue i w (planLane d s1 s2 ty own pat) s →
      own rm = fl → (∀ f x y z, int (intOf f x) (intOf f y) (intOf f z) ≡ pat f x y z [ZMOD 2 ^ f.width]) → lane i fl int :=
    fun run floats ints => fills_lane run floats ints
  have fill1 : ∀ {i : Instr} {fl : Val → Val} {pat : Fmt → Nat → Nat} {int : Int → Int},
      exec i s = issue i w (planLane d s1 s1 ty (fun _ x _ _ => (fl x, 0)) fun f x _ _ => pat f x) s →
      (∀ f x, int (intOf f x) ≡ pat f x [ZMOD 2 ^ f.width]) → lane i (fun x _ _ => (fl x, 0)) (fun x _ _ => int x) :=
    fun {i fl pat int} run ints => fills_lane (int := fun x _ _ => int x) run rfl fun f x _ _ => ints f x
  clear_value lane
  refine ⟨fill rfl rfl ?_, fill rfl rfl ?_, fill rfl rfl ?_, fill rfl rfl ?_, fill rfl rfl ?_, fill rfl rfl ?_, fill rfl rfl ?_,
    fill1 rfl ?_, fill1 rfl ?_⟩
  · exact fun f x y _ => intOf_add_modEq f x y
  · exact fun f _ _ _ => patOf_modEq f _
  · exact fun f x y _ => intOf_mul_modEq f x y
  · exact intOf_mulAdd_modEq
  · exact fun f _ _ _ => patOf_modEq f _
  · exact fun f x y _ => intOf_min_modEq f x y
  · exact fun f x y _ => intOf_max_modEq f x y
  · exact intOf_abs_modEq
  · exact fun f _ => patOf_modEq f _

end Sys2Proof.Machine
end

section
/-! PROOFS. The tile functions, their special operands, and the exact reciprocal and square root (R84, R174). -/

namespace Sys2Proof.Machine

theorem fills_planFun {s : State} {i : Instr} {w : BitVec 4} {d s1 : BitVec 6} {ty : BitVec 3} {g : Val → Val × Flags}
    (run : exec i s = issue i w (planFun d s1 ty g) s) :
    fills s i w 6 d (Fmt.ofTy ty) fun r c =>
      roundTo (Fmt.ofTy ty) (frmOf s s.cur) (g (dec (elemAt (tileOp s s.cur s1) (Fmt.ofTy ty) r c) (Fmt.ofTy ty))) :=
  fills_planGrid run rfl fun _ _ => ⟨rfl, rfl⟩

/-! ### Special operands -/

theorem functions_nan : ∀ g ∈ [fExp2, fLog2, fRcp, fRsq, fSqrt, fSigm, fTanh, fSilu, fGelu], g .nan = (.nan, 0) := by
  simp [fExp2, fLog2, fRcp, fRsq, fSqrt, fSigm, fTanh, fSilu, fGelu]

/-- The logarithm and the roots of a negative number are invalid. -/
theorem functions_negative {m : Nat} (e : Int) (h : m ≠ 0) :
    fLog2 (.fin true m e) = (.nan, Flags.invalid) ∧ fRsq (.fin true m e) = (.nan, Flags.invalid) ∧ fSqrt (.fin true m e) = (.nan, Flags.invalid) := by
  simp [fLog2, fRsq, fSqrt, h]

/-! ### Reciprocal -/

theorem fRcp_fin (n : Bool) {m : Nat} (e : Int) (h : m ≠ 0) : fRcp (.fin n m e) =
    (sticky n (2 ^ (bitLen m + 64) / m) (decide (2 ^ (bitLen m + 64) % m = 0)) (-e - (bitLen m + 64 : Nat)), 0) := by
  simp only [fRcp, h, if_false]

/-- A quotient that leaves a remainder lies between its neighbours at twice the precision. -/
theorem div_enclosed {n m : Nat} (pos : 0 < m) (rest : n % m ≠ 0) : 2 * (n / m) * m < 2 * n ∧ 2 * n < (2 * (n / m) + 2) * m := by
  have split : m * (n / m) + n % m = n := Nat.div_add_mod n m
  have less : n % m < m := Nat.mod_lt _ pos
  have twice : 2 * (n / m) * m = 2 * (m * (n / m)) := by ring
  rw [Nat.add_mul, twice]
  omega

/-- The quotient kept for a reciprocal has at least 65 bits. -/
theorem two_pow_le_reciprocal {m : Nat} (pos : 0 < m) : 2 ^ 64 ≤ 2 ^ (bitLen m + 64) / m := by
  rw [Nat.le_div_iff_mul_le pos, Nat.pow_add, Nat.mul_comm]
  exact Nat.mul_le_mul_right _ (lt_two_pow_bitLen m).le

theorem fRcp_encloses (n : Bool) {m : Nat} (e : Int) (h : m ≠ 0) : ∃ q k, fRcp (.fin n m e) = (.fin n q k, 0) ∧ k + e ≤ 0 ∧
    ((q * m = 2 ^ (-(k + e)).toNat) ∨
      (q % 2 = 1 ∧ 2 ^ 64 ≤ q ∧ (q - 1) * m < 2 ^ (-(k + e)).toNat ∧ 2 ^ (-(k + e)).toNat < (q + 1) * m)) := by
  have pos := Nat.pos_of_ne_zero h
  have long := two_pow_le_reciprocal pos
  rw [fRcp_fin n e h]
  generalize bitLen m + 64 = K at long ⊢
  by_cases divides : 2 ^ K % m = 0
  · have scale : (-(-e - (K : Int) + e)).toNat = K := by omega
    refine ⟨_, _, by rw [decide_eq_true divides]; rfl, by omega, .inl ?_⟩
    rw [scale, Nat.div_mul_cancel (Nat.dvd_of_mod_eq_zero divides)]
  · have scale : (-(-e - (K : Int) - 1 + e)).toNat = K + 1 := by omega
    obtain ⟨below, above⟩ := div_enclosed pos divides
    refine ⟨_, _, by rw [decide_eq_false divides]; rfl, by omega, .inr ⟨by omega, by omega, ?_, ?_⟩⟩
    · rwa [scale, Nat.pow_succ', Nat.add_sub_cancel]
    · rwa [scale, Nat.pow_succ']

/-! ### Square root -/

/-- With k bits to go the root found so far is that of the number's leading part. -/
theorem isqrtAux_spec (n : Nat) : ∀ (k r : Nat), r * r ≤ n → n < (r + 2 ^ k) * (r + 2 ^ k) →
    isqrtAux n k r * isqrtAux n k r ≤ n ∧ n < (isqrtAux n k r + 1) * (isqrtAux n k r + 1)
  | 0, _, low, high => ⟨low, high⟩
  | k + 1, r, low, high => by
    rw [isqrtAux]
    split
    next taken =>
      refine isqrtAux_spec n k _ taken ?_
      rwa [Nat.add_assoc, ← Nat.two_mul, ← Nat.pow_succ']
    next left => exact isqrtAux_spec n k r low (not_le.mp left)

theorem isqrt_spec (n : Nat) : isqrt n * isqrt n ≤ n ∧ n < (isqrt n + 1) * (isqrt n + 1) := by
  refine isqrtAux_spec n _ 0 (Nat.zero_le _) ?_
  rw [Nat.zero_add, ← Nat.pow_add]
  exact (lt_two_pow_bitLen n).trans_le (Nat.pow_le_pow_right two_pos (by omega))

/-- A root that is not exact lies between its neighbours at twice the precision. -/
theorem isqrt_enclosed {n : Nat} (inexact : isqrt n * isqrt n ≠ n) :
    2 * isqrt n * (2 * isqrt n) < 4 * n ∧ 4 * n < (2 * isqrt n + 2) * (2 * isqrt n + 2) := by
  obtain ⟨low, high⟩ := isqrt_spec n
  have below : 2 * isqrt n * (2 * isqrt n) = 4 * (isqrt n * isqrt n) := by ring
  have above : (2 * isqrt n + 2) * (2 * isqrt n + 2) = 4 * ((isqrt n + 1) * (isqrt n + 1)) := by ring
  omega

theorem evenExp_spec (m : Nat) (e : Int) : ∃ j : Nat, (evenExp m e).1 = m * 2 ^ j ∧ (evenExp m e).2 = e - j ∧ (evenExp m e).2 % 2 = 0 := by
  unfold evenExp
  split
  next even => exact ⟨0, by simp, by simp, even⟩
  next odd => exact ⟨1, by simp [Nat.mul_comm], rfl, by omega⟩

theorem fSqrt_fin {m : Nat} (e : Int) (h : m ≠ 0) : fSqrt (.fin false m e) =
    (sticky false (isqrt ((evenExp m e).1 * 2 ^ 128))
      (decide (isqrt ((evenExp m e).1 * 2 ^ 128) * isqrt ((evenExp m e).1 * 2 ^ 128) = (evenExp m e).1 * 2 ^ 128))
      ((evenExp m e).2 / 2 - 64), 0) := by
  simp only [fSqrt, h, if_false, Bool.false_eq_true]

theorem two_pow_le_isqrt {n : Nat} (h : 2 ^ 128 ≤ n) : 2 ^ 64 ≤ isqrt n := by
  by_contra less
  have root : isqrt n + 1 ≤ 2 ^ 64 := not_le.mp less
  have := (isqrt_spec n).2.trans_le (Nat.mul_le_mul root root)
  omega

theorem fSqrt_encloses {m : Nat} (e : Int) (h : m ≠ 0) : ∃ q k, fSqrt (.fin false m e) = (.fin false q k, 0) ∧ 2 * k ≤ e ∧
    ((q * q = m * 2 ^ (e - 2 * k).toNat) ∨
      (q % 2 = 1 ∧ 2 ^ 64 ≤ q ∧ (q - 1) * (q - 1) < m * 2 ^ (e - 2 * k).toNat ∧ m * 2 ^ (e - 2 * k).toNat < (q + 1) * (q + 1))) := by
  obtain ⟨j, mag, exp, even⟩ := evenExp_spec m e
  have long : 2 ^ 64 ≤ isqrt ((evenExp m e).1 * 2 ^ 128) := by
    refine two_pow_le_isqrt (Nat.le_mul_of_pos_left _ ?_)
    rw [mag]
    positivity
  rw [fSqrt_fin e h]
  by_cases square : isqrt ((evenExp m e).1 * 2 ^ 128) * isqrt ((evenExp m e).1 * 2 ^ 128) = (evenExp m e).1 * 2 ^ 128
  · have scale : (e - 2 * ((evenExp m e).2 / 2 - 64)).toNat = j + 128 := by omega
    refine ⟨_, _, by rw [decide_eq_true square]; rfl, by omega, .inl ?_⟩
    rw [scale, square, mag, Nat.pow_add, Nat.mul_assoc]
  · have scale : m * 2 ^ (e - 2 * ((evenExp m e).2 / 2 - 64 - 1)).toNat = 4 * ((evenExp m e).1 * 2 ^ 128) := by
      rw [show (e - 2 * ((evenExp m e).2 / 2 - 64 - 1)).toNat = j + 128 + 2 by omega, mag]
      ring
    obtain ⟨below, above⟩ := isqrt_enclosed square
    refine ⟨_, _, by rw [decide_eq_false square]; rfl, by omega, .inr ⟨by omega, by omega, ?_, ?_⟩⟩
    · rwa [scale, Nat.add_sub_cancel]
    · rwa [scale]

/-- Settles O29: each instruction's plan is one grid of its function, the special operands are the functions' first branches, and a quotient or root with
a remainder gets one more bit below it. -/
theorem tileFunctions : Obligations.TileFunctions := by
  unfold Obligations.TileFunctions
  refine ⟨fun d s1 ty w s => ?_, ⟨functions_nan, fun n e => ?_, fun m e h => functions_negative e h⟩,
    fun n m e h => fRcp_encloses n e h, fun m e h => fSqrt_encloses e h⟩
  · exact ⟨fills_planFun rfl, fills_planFun rfl, fills_planFun rfl, fills_planFun rfl, fills_planFun rfl, fills_planFun rfl, fills_planFun rfl⟩
  · and_intros
    all_goals rfl

end Sys2Proof.Machine
end

section
/-! PROOFS. The slots of a feeder, and the feeders of a wing as its nests stage beat-steps in them (R193, R309). -/

namespace Sys2Proof.Machine

/-! ### Slots from the next to enter onward -/

/-- The slot of a feeder at a distance from the next to enter. -/
def slotAt (v : Vector Slot 64) (next i : Nat) : Slot := v.get ⟨(next + i) % 64, Nat.mod_lt _ (by decide)⟩

theorem slotBytes_eq (v : Vector Slot 64) (next n : Nat) : slotBytes v next n = (List.range n).flatMap fun q => (slotAt v next q).data := rfl

theorem slotBytes_congr {v w : Vector Slot 64} {next n : Nat} (h : ∀ i, i < n → slotAt v next i = slotAt w next i) :
    slotBytes v next n = slotBytes w next n := by
  rw [slotBytes_eq, slotBytes_eq]
  refine List.flatMap_congr fun q hq => ?_
  rw [h q (List.mem_range.mp hq)]

/-- A feeder has 64 slots. -/
theorem stagedIn_min {v : Vector Slot 64} {next n : Nat} (h : stagedIn v next n) : stagedIn v next (min n 64) := by
  intro i hi
  rw [h i hi]
  exact decide_eq_decide.mpr (by omega)

theorem toList_eq_map_get {α : Type} {n : Nat} (v : Vector α n) : v.toList = (List.finRange n).map v.get := by
  refine List.ext_getElem (by simp) fun i _ _ => ?_
  simp [Vector.get]

/-- The slots that follow one another from the next to enter are all the full ones. -/
theorem fullCount_of_stagedIn {v : Vector Slot 64} {next n : Nat} (h : stagedIn v next n) (short : n ≤ 64) : fullCount v = n := by
  have turned := (Equiv.addLeft (Fin.ofNat 64 next)).map_finRange_perm
  have count : ∀ n : Fin 65, ((List.finRange 64).countP fun i => decide (i.val < n.val)) = n.val := by decide
  rw [fullCount, ← List.countP_eq_length_filter, toList_eq_map_get, List.countP_map, ← turned.countP_eq, List.countP_map]
  refine Eq.trans (List.countP_congr fun i _ => ?_) (count ⟨n, by omega⟩)
  have place : Fin.ofNat 64 next + i = ⟨(next + i.val) % 64, Nat.mod_lt _ (by decide)⟩ := Fin.ext (by simp [Fin.val_add])
  have full := h i.val i.isLt
  simp only [Function.comp_apply, Equiv.coe_addLeft, place, full]

/-! ### A slice is staged -/

/-- Slots written one after another behind the first `base`. -/
theorem slotAt_foldl_set (data : Nat → Slot) (v : Vector Slot 64) (next base : Nat) {i : Nat} (hi : i < 64) : ∀ c, base + c ≤ 64 →
    slotAt ((List.range c).foldl (fun (w : Vector Slot 64) q => w.set ((next + base + q) % 64) (data q) (Nat.mod_lt _ (by decide))) v) next i =
      if base ≤ i ∧ i < base + c then data (i - base) else slotAt v next i
  | 0, _ => by rw [if_neg (by omega)]; rfl
  | c + 1, h => by
    have before := slotAt_foldl_set data v next base hi c (by omega)
    rw [List.range_succ, List.foldl_append]
    refine (vget_set _ ⟨(next + base + c) % 64, Nat.mod_lt _ (by decide)⟩ _ _).trans ?_
    by_cases here : i = base + c
    · rw [if_pos (Fin.ext (by simp [here, Nat.add_assoc])), if_pos (by omega), here, Nat.add_sub_cancel_left]
    · rw [if_neg fun e => here (by have := Fin.mk.inj e; omega)]
      refine before.trans ?_
      by_cases there : base ≤ i ∧ i < base + c
      · rw [if_pos there, if_pos (by omega)]
      · rw [if_neg there, if_neg (by omega)]

section Stage
variable {v : Vector Slot 64} {next n : Nat} {bytes : List Byte}

theorem slotAt_stageSlots (h : stagedIn v next n) (fits : n + slotsOf bytes ≤ 64) {i : Nat} (hi : i < 64) :
    slotAt (stageSlots v next bytes) next i =
      if n ≤ i ∧ i < n + slotsOf bytes then ⟨true, bytesAt bytes (256 * (i - n)) 256⟩ else slotAt v next i := by
  have full := fullCount_of_stagedIn h (by omega)
  subst full
  exact slotAt_foldl_set (fun q => ⟨true, bytesAt bytes (256 * q) 256⟩) v next (fullCount v) hi _ fits

theorem stagedIn_stageSlots (h : stagedIn v next n) (fits : n + slotsOf bytes ≤ 64) : stagedIn (stageSlots v next bytes) next (n + slotsOf bytes) := by
  intro i hi
  refine (congrArg Slot.full (slotAt_stageSlots h fits hi)).trans ?_
  split
  next here => exact (decide_eq_true here.2).symm
  next elsewhere =>
    refine (h i hi).trans (decide_eq_decide.mpr ?_)
    omega

/-- Staging leaves the slots that are full already. -/
theorem slotBytes_stageSlots_full (h : stagedIn v next n) (fits : n + slotsOf bytes ≤ 64) {k : Nat} (hk : k ≤ n) :
    slotBytes (stageSlots v next bytes) next k = slotBytes v next k :=
  slotBytes_congr fun i hi => by rw [slotAt_stageSlots h fits (by omega), if_neg (by omega)]

theorem flatMap_bytesAt (l : List Byte) : ∀ k, ((List.range k).flatMap fun q => bytesAt l (256 * q) 256) = l.take (256 * k)
  | 0 => rfl
  | k + 1 => by
    rw [List.range_succ, List.flatMap_append, flatMap_bytesAt l k, Nat.mul_succ, List.take_add]
    simp [bytesAt]

/-- An empty feeder holds then just the slice that was staged. -/
theorem slotBytes_stageSlots_empty (h : stagedIn v next 0) {k : Nat} (len : bytes.length = 256 * k) (short : k ≤ 64) :
    slotBytes (stageSlots v next bytes) next k = bytes := by
  have slots : slotsOf bytes = k := by unfold slotsOf; omega
  have data : ∀ q ∈ List.range k, (slotAt (stageSlots v next bytes) next q).data = bytesAt bytes (256 * q) 256 := fun q hq => by
    have := List.mem_range.mp hq
    rw [slotAt_stageSlots h (by omega) (by omega), if_pos (by omega)]
    rfl
  rw [slotBytes_eq, List.flatMap_congr data, flatMap_bytesAt, ← len, List.take_length]

end Stage

end Sys2Proof.Machine
end

section
/-! PROOFS. The feeders of a wing's edges in a beat: what they hold when a beat-step enters (R193, R200, R309). -/

namespace Sys2Proof.Machine

/-! ### The rooms of a wing's edges -/

theorem shape_bounds : ∀ c : Fin 9, (1 ≤ shapeRows c.val ∧ shapeRows c.val ≤ 4) ∧ (1 ≤ shapeCols c.val ∧ shapeCols c.val ≤ 4) := by decide

theorem nodup_westRooms (s : State) (lead : SuiteId) : (westRooms s lead).Nodup := by
  have short : wingRows s lead ≤ 4 := (shape_bounds _).1.2
  refine List.Nodup.map_on (fun i hi j hj e => ?_) List.nodup_range
  have := List.mem_range.mp hi
  have := List.mem_range.mp hj
  have := Fin.mk.inj e
  omega

theorem nodup_northRooms (s : State) (lead : SuiteId) : (northRooms s lead).Nodup := by
  have short : wingCols s lead ≤ 4 := (shape_bounds _).2.2
  refine List.Nodup.map_on (fun i hi j hj e => ?_) List.nodup_range
  have := List.mem_range.mp hi
  have := List.mem_range.mp hj
  have := Fin.mk.inj e
  omega

theorem roomAt_lead (lead : SuiteId) : roomAt lead 0 0 = lead := Fin.ext (Nat.mod_eq_of_lt lead.isLt)

theorem lead_mem_westRooms (s : State) (lead : SuiteId) : lead ∈ westRooms s lead :=
  List.mem_map.mpr ⟨0, List.mem_range.mpr (shape_bounds _).1.1, roomAt_lead lead⟩

theorem lead_mem_northRooms (s : State) (lead : SuiteId) : lead ∈ northRooms s lead :=
  List.mem_map.mpr ⟨0, List.mem_range.mpr (shape_bounds _).2.1, roomAt_lead lead⟩

/-! ### Changes of rooms, one room at a time -/

/-- Each room of a list without repetition is changed once. -/
theorem room_foldl_modRoom (f : SuiteId → Room → Room) (v : SuiteId) : ∀ {l : List SuiteId}, l.Nodup → ∀ s : State,
    (l.foldl (fun t u => t.modRoom u (f u)) s).room v = if v ∈ l then f v (s.room v) else s.room v
  | [], _, _ => rfl
  | u :: l, once, s => by
    obtain ⟨first, rest⟩ := List.nodup_cons.mp once
    refine (room_foldl_modRoom f v rest (s.modRoom u (f u))).trans ?_
    rw [State.room_modRoom]
    by_cases e : u = v
    · subst e
      simp [first]
    · simp [e, Ne.symm e]

/-- A reading that no change of a room touches stays. -/
theorem foldl_modRoom_keeps {α : Type} (g : Room → α) {f : SuiteId → Room → Room} (h : ∀ u x, g (f u x) = g x) (l : List SuiteId) (s : State)
    (v : SuiteId) : g ((l.foldl (fun t u => t.modRoom u (f u)) s).room v) = g (s.room v) := by
  refine foldl_keeps (fun t : State => g (t.room v)) (fun t u => ?_) l s
  rw [State.room_modRoom]
  split
  next e => subst e; exact h u _
  next => rfl

/-! ### Staging changes the slots alone -/

/-- A room without the slots of its feeders. -/
def Room.unfed (x : Room) : Room := { x with aFeed := Vector.replicate 64 Slot.reset, bFeed := Vector.replicate 64 Slot.reset }

/-- Two states that differ in nothing that a beat reads but the slots of feeders. -/
structure OnlySlots (s t : State) : Prop where
  pkg : t.pkg = s.pkg
  suites : t.suites = s.suites
  rooms : ∀ v, (t.room v).unfed = (s.room v).unfed

namespace OnlySlots

theorem refl (s : State) : OnlySlots s s := ⟨rfl, rfl, fun _ => rfl⟩

variable {s t r : State} (h : OnlySlots s t)
include h

theorem trans (k : OnlySlots t r) : OnlySlots s r :=
  ⟨k.pkg.trans h.pkg, k.suites.trans h.suites, fun v => (k.rooms v).trans (h.rooms v)⟩

/-- What is read of a room beside its slots is the same. -/
theorem room_eq {α : Type} (g : Room → α) (v : SuiteId) : g (t.room v).unfed = g (s.room v).unfed := congrArg g (h.rooms v)

theorem aNext (v : SuiteId) : (t.room v).aNext = (s.room v).aNext := h.room_eq Room.aNext v
theorem bNext (v : SuiteId) : (t.room v).bNext = (s.room v).bNext := h.room_eq Room.bNext v
theorem aShift (v : SuiteId) : (t.room v).aShift = (s.room v).aShift := h.room_eq Room.aShift v
theorem bShift (v : SuiteId) : (t.room v).bShift = (s.room v).bShift := h.room_eq Room.bShift v
theorem wingShape (v : SuiteId) : (t.room v).wingShape = (s.room v).wingShape := h.room_eq Room.wingShape v
theorem pes (v : SuiteId) : (t.room v).pes = (s.room v).pes := h.room_eq Room.pes v

theorem westRooms (lead : SuiteId) : westRooms t lead = westRooms s lead := by
  unfold Machine.westRooms wingRows
  rw [h.wingShape]

theorem northRooms (lead : SuiteId) : northRooms t lead = northRooms s lead := by
  unfold Machine.northRooms wingCols
  rw [h.wingShape]

theorem lsRead (u : SuiteId) (a n : Nat) : lsRead t u a n = lsRead s u a n := by
  unfold Machine.lsRead lsPoisoned State.suite
  rw [h.pkg, h.suites]

theorem featOn (i : Nat) : featOn t i = featOn s i := congrArg (fun p : Package => p.featacc0.getLsbD i) h.pkg

theorem stepClass (r : WingRun) (k : Nat) : stepClass t r k = stepClass s r k := by
  unfold Machine.stepClass
  rw [h.featOn]

end OnlySlots

theorem onlySlots_foldl {f : SuiteId → Room → Room} (h : ∀ u x, (f u x).unfed = x.unfed) (l : List SuiteId) (s : State) :
    OnlySlots s (l.foldl (fun t u => t.modRoom u (f u)) s) :=
  ⟨foldl_keeps State.pkg (f := fun t u => t.modRoom u (f u)) (fun _ _ => rfl) l s,
    foldl_keeps State.suites (f := fun t u => t.modRoom u (f u)) (fun _ _ => rfl) l s, foldl_modRoom_keeps Room.unfed h l s⟩

theorem onlySlots_chooseBelow (s : State) (n : Nat) : OnlySlots s (chooseBelow s n).2 := ⟨rfl, rfl, fun _ => rfl⟩

/-! ### One beat-step is staged -/

/-- Slots that a beat-step of a class takes in an A-feeder (R193). -/
def aSlots (cls : Option Nat) : Nat := if cls = some 3 then 4 else 1

/-- The slice that a room's A-feeder, or B-feeder, stages next. -/
def nextA (s : State) (r : WingRun) (v : SuiteId) : List Byte := lsRead s v (fetchA r (s.room v).aShift) (256 * aSlots (stepClass s r r.staged))
def nextB (s : State) (r : WingRun) (v : SuiteId) : List Byte := lsRead s v (fetchB r (s.room v).bShift) 256

theorem length_lsRead (s : State) (u : SuiteId) (a n : Nat) : (lsRead s u a n).length = n := by
  simp [lsRead]

theorem slotsOf_nextA (s : State) (r : WingRun) (v : SuiteId) : slotsOf (nextA s r v) = aSlots (stepClass s r r.staged) := by
  unfold slotsOf nextA
  rw [length_lsRead]
  omega

theorem slotsOf_nextB (s : State) (r : WingRun) (v : SuiteId) : slotsOf (nextB s r v) = 1 := by
  unfold slotsOf nextB
  rw [length_lsRead]

section StageStep
variable (s : State) (lead : SuiteId) (r : WingRun)

/-- A room with a slice staged in its A-feeder, or its B-feeder. -/
def stageA (u : SuiteId) (x : Room) : Room :=
  { x with aFeed := stageSlots x.aFeed x.aNext (lsRead s u (fetchA r x.aShift) (256 * aSlots (stepClass s r r.staged))) }
def stageB (u : SuiteId) (x : Room) : Room := { x with bFeed := stageSlots x.bFeed x.bNext (lsRead s u (fetchB r x.bShift) 256) }

/-- The state with the A-feeders' slices staged, which come first. -/
def stagedWest : State := (westRooms s lead).foldl (fun t u => t.modRoom u (stageA s r u)) s

theorem stageStep_eq : (stageStep s lead r).2 = (northRooms s lead).foldl (fun t u => t.modRoom u (stageB s r u)) (stagedWest s lead r) := by
  have size : (if stepClass s r r.staged = some 3 then 1024 else 256) = 256 * aSlots (stepClass s r r.staged) := by
    unfold aSlots
    split <;> rfl
  unfold stageStep stagedWest
  rw [size]
  rfl

theorem onlySlots_stagedWest : OnlySlots s (stagedWest s lead r) := onlySlots_foldl (f := stageA s r) (fun _ _ => rfl) _ s

theorem onlySlots_stageStep : OnlySlots s (stageStep s lead r).2 := by
  rw [stageStep_eq]
  exact (onlySlots_stagedWest s lead r).trans (onlySlots_foldl (f := stageB s r) (fun _ _ => rfl) _ _)

theorem aFeed_stageStep {v : SuiteId} (h : v ∈ westRooms s lead) :
    ((stageStep s lead r).2.room v).aFeed = stageSlots (s.room v).aFeed (s.room v).aNext (nextA s r v) := by
  rw [stageStep_eq, foldl_modRoom_keeps Room.aFeed (f := stageB s r) (fun _ _ => rfl), stagedWest,
    room_foldl_modRoom _ v (nodup_westRooms s lead), if_pos h]
  rfl

theorem bFeed_stageStep {v : SuiteId} (h : v ∈ northRooms s lead) :
    ((stageStep s lead r).2.room v).bFeed = stageSlots (s.room v).bFeed (s.room v).bNext (nextB s r v) := by
  have slots : ((stagedWest s lead r).room v).bFeed = (s.room v).bFeed := foldl_modRoom_keeps Room.bFeed (f := stageA s r) (fun _ _ => rfl) _ s v
  rw [stageStep_eq, room_foldl_modRoom _ v (nodup_northRooms s lead), if_pos h]
  simp only [stageB, nextB, slots, (onlySlots_stagedWest s lead r).bNext, (onlySlots_stagedWest s lead r).bShift]

end StageStep

/-- Where the feeders may stage, the lead's have room for the slots of the beat-step. -/
theorem stages_room {s : State} {lead : SuiteId} {r : WingRun} (h : stages s lead r = true) :
    fullCount (s.room lead).aFeed + aSlots (stepClass s r r.staged) ≤ 64 ∧ fullCount (s.room lead).bFeed + 1 ≤ 64 := by
  simp only [stages, Bool.and_eq_true] at h
  obtain ⟨⟨-, slots⟩, -⟩ := h
  cases hc : stepClass s r r.staged with
  | none => simp [hc] at slots
  | some c =>
    simp only [hc, Bool.and_eq_true, decide_eq_true_eq] at slots
    simp only [aSlots, Option.some.injEq]
    exact slots

/-! ### What the edges hold -/

/-- A feeder holds m staged slots, the first k of them with given bytes. -/
def Holds (v : Vector Slot 64) (next m k : Nat) (bytes : List Byte) : Prop := stagedIn v next m ∧ slotBytes v next k = bytes

theorem Holds.stage {v : Vector Slot 64} {next m k : Nat} {bytes more : List Byte} (h : Holds v next m k bytes) (hk : k ≤ m)
    (fits : m + slotsOf more ≤ 64) : Holds (stageSlots v next more) next (m + slotsOf more) k bytes :=
  ⟨stagedIn_stageSlots h.1 fits, (slotBytes_stageSlots_full h.1 fits hk).trans h.2⟩

theorem holds_first {v : Vector Slot 64} {next k : Nat} {bytes : List Byte} (h : stagedIn v next 0) (len : bytes.length = 256 * k) (short : k ≤ 64) :
    Holds (stageSlots v next bytes) next k k bytes := by
  have slots : slotsOf bytes = k := by unfold slotsOf; omega
  have staged := stagedIn_stageSlots (bytes := bytes) h (by omega)
  rw [slots, Nat.zero_add] at staged
  exact ⟨staged, slotBytes_stageSlots_empty h len short⟩

/-- From state s on the edges of a wing have filled slots only, and the next beat-step to enter has its slices A in k slots and B in one. -/
structure Edges (s t : State) (lead : SuiteId) (k : Nat) (A B : SuiteId → List Byte) : Prop where
  only : OnlySlots s t
  west : ∃ m, k ≤ m ∧ m ≤ 64 ∧ ∀ v ∈ westRooms s lead, Holds (t.room v).aFeed (t.room v).aNext m k (A v)
  north : ∃ n, 1 ≤ n ∧ n ≤ 64 ∧ ∀ v ∈ northRooms s lead, Holds (t.room v).bFeed (t.room v).bNext n 1 (B v)

section Edges
variable {s t : State} {lead : SuiteId} {r : WingRun} {k : Nat} {A B : SuiteId → List Byte}

/-- The slices that enter are those that the edges hold. -/
theorem Edges.slices (h : Edges s t lead k A B) :
    (westRooms t lead).map (fun v => slotBytes (t.room v).aFeed (t.room v).aNext k) = (westRooms s lead).map A ∧
    (northRooms t lead).map (fun v => slotBytes (t.room v).bFeed (t.room v).bNext 1) = (northRooms s lead).map B := by
  obtain ⟨only, ⟨m, -, -, west⟩, n, -, -, north⟩ := h
  rw [only.westRooms, only.northRooms]
  exact ⟨List.map_congr_left fun v hv => (west v hv).2, List.map_congr_left fun v hv => (north v hv).2⟩

/-- Staging a later beat-step leaves them. -/
theorem Edges.stageStep (h : Edges s t lead k A B) (free : stages t lead r = true) : Edges s (stageStep t lead r).2 lead k A B := by
  obtain ⟨only, ⟨m, km, m64, west⟩, n, n1, n64, north⟩ := h
  have step := onlySlots_stageStep t lead r
  obtain ⟨roomA, roomB⟩ := stages_room free
  rw [fullCount_of_stagedIn (west lead (lead_mem_westRooms s lead)).1 m64] at roomA
  rw [fullCount_of_stagedIn (north lead (lead_mem_northRooms s lead)).1 n64] at roomB
  refine ⟨only.trans step, ⟨m + aSlots (stepClass t r r.staged), by omega, roomA, fun v hv => ?_⟩, n + 1, by omega, roomB, fun v hv => ?_⟩
  · rw [aFeed_stageStep t lead r (by rwa [only.westRooms]), step.aNext]
    have staged := (west v hv).stage (more := nextA t r v) km (by rwa [slotsOf_nextA])
    rwa [slotsOf_nextA] at staged
  · rw [bFeed_stageStep t lead r (by rwa [only.northRooms]), step.bNext]
    have staged := (north v hv).stage (more := nextB t r v) n1 (by rwa [slotsOf_nextB])
    rwa [slotsOf_nextB] at staged

/-- Empty edges hold the slices of the first beat-step staged. -/
theorem edges_first (only : OnlySlots s t) (west : ∀ v ∈ westRooms s lead, stagedIn (t.room v).aFeed (t.room v).aNext 0)
    (north : ∀ v ∈ northRooms s lead, stagedIn (t.room v).bFeed (t.room v).bNext 0) :
    Edges s (stageStep t lead r).2 lead (aSlots (stepClass s r r.staged)) (nextA s r) (nextB s r) := by
  have step := onlySlots_stageStep t lead r
  have few : aSlots (stepClass s r r.staged) ≤ 64 := by unfold aSlots; split <;> decide
  have sameA : ∀ v, nextA t r v = nextA s r v := fun v => by unfold nextA; rw [only.aShift, only.stepClass, only.lsRead]
  have sameB : ∀ v, nextB t r v = nextB s r v := fun v => by unfold nextB; rw [only.bShift, only.lsRead]
  refine ⟨only.trans step, ⟨_, le_refl _, few, fun v hv => ?_⟩, 1, le_refl _, by decide, fun v hv => ?_⟩
  · rw [aFeed_stageStep t lead r (by rwa [only.westRooms]), step.aNext, sameA]
    exact holds_first (west v hv) (length_lsRead ..) few
  · rw [bFeed_stageStep t lead r (by rwa [only.northRooms]), step.bNext, sameB]
    exact holds_first (north v hv) (length_lsRead ..) (by decide)

end Edges

/-! ### The feeders of a beat -/

/-- A run of which only the count of staged beat-steps may have grown. -/
def StagedOn (r q : WingRun) : Prop := ∃ k, r.staged ≤ k ∧ q = { r with staged := k }

theorem StagedOn.refl (r : WingRun) : StagedOn r r := ⟨r.staged, le_refl _, rfl⟩

theorem StagedOn.stageStep {r q : WingRun} (h : StagedOn r q) (s : State) (lead : SuiteId) : StagedOn r (stageStep s lead q).1 := by
  obtain ⟨k, le, rfl⟩ := h
  exact ⟨k + 1, by omega, rfl⟩

/-- What holds of a run and a state, and of each staging that the slots allow, holds after staging ahead. -/
theorem stageAhead_induct {P : WingRun → State → Prop} {lead : SuiteId}
    (step : ∀ r s, P r s → stages s lead r = true → P (stageStep s lead r).1 (stageStep s lead r).2) :
    ∀ (n : Nat) (r : WingRun) (s : State), P r s → P (stageAhead lead n (r, s)).1 (stageAhead lead n (r, s)).2
  | 0, _, _, h => h
  | n + 1, r, s, h => by
    rw [stageAhead]
    split
    next free => exact stageAhead_induct step n _ _ (step r s h free)
    next => exact h

theorem stageAhead_stagedOn (lead : SuiteId) (n : Nat) (r : WingRun) (s : State) :
    StagedOn r (stageAhead lead n (r, s)).1 ∧ OnlySlots s (stageAhead lead n (r, s)).2 :=
  stageAhead_induct (P := fun q t => StagedOn r q ∧ OnlySlots s t)
    (fun q t h _ => ⟨h.1.stageStep t lead, h.2.trans (onlySlots_stageStep t lead q)⟩) n r s ⟨.refl r, .refl s⟩

/-- A step that is due and not staged is staged at the latest now. -/
def stageLate (lead : SuiteId) (p : WingRun × State) : WingRun × State :=
  if stepDue p.1 && decide (p.1.staged ≤ p.1.nextStep) then stageStep p.2 lead p.1 else p

theorem feed_eq (s : State) (lead : SuiteId) (r : WingRun) : feed s lead r =
    if r.drone || decide (r.total ≤ r.staged) then (r, s)
    else stageLate lead (stageAhead lead (chooseBelow s 65).1 (r, (chooseBelow s 65).2)) := rfl

theorem stageLate_staged {lead : SuiteId} {p : WingRun × State} (h : p.1.nextStep < p.1.staged) : stageLate lead p = p := by
  unfold stageLate
  rw [decide_eq_false (by omega), Bool.and_false]
  rfl

section Feed
variable {s : State} {lead : SuiteId} {r : WingRun} {k : Nat} {A B : SuiteId → List Byte}

theorem feed_stagedOn (s : State) (lead : SuiteId) (r : WingRun) : StagedOn r (feed s lead r).1 ∧ OnlySlots s (feed s lead r).2 := by
  rw [feed_eq]
  split
  next => exact ⟨.refl r, .refl s⟩
  next =>
    obtain ⟨run, slots⟩ := stageAhead_stagedOn lead (chooseBelow s 65).1 r (chooseBelow s 65).2
    have kept := (onlySlots_chooseBelow s 65).trans slots
    unfold stageLate
    split
    next => exact ⟨run.stageStep _ lead, kept.trans (onlySlots_stageStep _ lead _)⟩
    next => exact ⟨run, kept⟩

/-- What the edges hold stays while the feeders stage ahead, and no step is late. -/
theorem Edges.stageAhead {t : State} (h : Edges s t lead k A B) (ahead : r.nextStep < r.staged) (n : Nat) :
    Edges s (stageLate lead (stageAhead lead n (r, t))).2 lead k A B := by
  obtain ⟨run, edges⟩ := stageAhead_induct (P := fun q t => StagedOn r q ∧ Edges s t lead k A B)
    (fun q t h free => ⟨h.1.stageStep t lead, h.2.stageStep free⟩) n r t ⟨.refl r, h⟩
  obtain ⟨j, le, run⟩ := run
  rw [stageLate_staged (by rw [run]; exact ahead.trans_le le)]
  exact edges

/-- A beat-step that was staged before the beat enters with the slices that the edges held. -/
theorem edges_feed_ahead (ahead : r.nextStep < r.staged) (h : Edges s s lead k A B) : Edges s (feed s lead r).2 lead k A B := by
  rw [feed_eq]
  split
  next => exact h
  next => exact Edges.stageAhead (t := (chooseBelow s 65).2) ⟨onlySlots_chooseBelow s 65, h.west, h.north⟩ ahead _

/-- With empty edges the beat-step that is due is staged in the beat. -/
theorem edges_feed_first (due : stepDue r = true) (unstaged : r.staged = r.nextStep)
    (west : ∀ v ∈ westRooms s lead, stagedIn (s.room v).aFeed (s.room v).aNext 0)
    (north : ∀ v ∈ northRooms s lead, stagedIn (s.room v).bFeed (s.room v).bNext 0) :
    Edges s (feed s lead r).2 lead (aSlots (stepClass s r r.staged)) (nextA s r) (nextB s r) := by
  have left : ¬ (r.drone || decide (r.total ≤ r.staged)) = true := by
    simp only [stepDue, Bool.and_eq_true, Bool.not_eq_true', decide_eq_true_eq] at due
    simp [due.1.1, unstaged, due.1.2]
  have first := edges_first (s := s) (t := (chooseBelow s 65).2) (r := r) (lead := lead) (onlySlots_chooseBelow s 65) west north
  have late : stageLate lead (r, (chooseBelow s 65).2) = stageStep (chooseBelow s 65).2 lead r := by
    unfold stageLate
    rw [if_pos (by simp [due, unstaged])]
  rw [feed_eq, if_neg left]
  cases (chooseBelow s 65).1 with
  | zero => exact late ▸ first
  | succ n =>
    rw [stageAhead]
    split
    next => exact first.stageAhead (r := { r with staged := r.staged + 1 }) (by simp [unstaged]) n
    next => exact late ▸ first

end Feed

end Sys2Proof.Machine
end

section
/-! PROOFS. The beat of a wing's only nest (R82, R193, R194, R200, R292, R380). -/

namespace Sys2Proof.Machine

/-! ### The step that enters -/

theorem enterStep_waits {s : State} {lead : SuiteId} {r : WingRun} (h : stepDue r = false) : enterStep s lead r = (r, s) := by
  unfold enterStep
  rw [h]
  rfl

/-- A due step enters at the head of the steps, with its class and the slices that the edges hold for it; the next one is due after it. -/
theorem enterStep_enters {s : State} {lead : SuiteId} {r : WingRun} (h : stepDue r = true) :
    ∃ st, (enterStep s lead r).1.steps = st :: r.steps ∧ (enterStep s lead r).1.nextStep = r.nextStep + 1 ∧ st.entry = r.beat ∧
      st.cls = (ftClass (featOn s 1) (nextStepOf r).ft).getD 0 ∧
      st.aSlices = (westRooms s lead).map (fun u => slotBytes (s.room u).aFeed (s.room u).aNext (if st.cls = 3 then 4 else 1)) ∧
      st.bSlices = (northRooms s lead).map (fun u => slotBytes (s.room u).bFeed (s.room u).bNext 1) := by
  unfold enterStep
  rw [h]
  exact ⟨_, rfl, rfl, rfl, rfl, rfl, rfl⟩

theorem enterStep_beat (s : State) (lead : SuiteId) (r : WingRun) : (enterStep s lead r).1.beat = r.beat := by
  unfold enterStep
  split <;> rfl

/-- A room's slots of the step that entered are free again. -/
def freeA (q : Nat) (_ : SuiteId) (x : Room) : Room := { x with aFeed := freeSlots x.aFeed x.aNext q, aNext := (x.aNext + q) % 64 }
def freeB (_ : SuiteId) (x : Room) : Room := { x with bFeed := freeSlots x.bFeed x.bNext 1, bNext := (x.bNext + 1) % 64 }

/-- What is read of a room beside its feeders stays when a step enters. -/
theorem enterStep_keeps {α : Type} (g : Room → α) (hA : ∀ q u x, g (freeA q u x) = g x) (hB : ∀ u x, g (freeB u x) = g x)
    (s : State) (lead : SuiteId) (r : WingRun) (v : SuiteId) : g ((enterStep s lead r).2.room v) = g (s.room v) := by
  cases h : stepDue r with
  | false => rw [enterStep_waits h]
  | true =>
    unfold enterStep
    rw [h]
    exact (foldl_modRoom_keeps g (f := freeB) hB _ _ v).trans (foldl_modRoom_keeps g (f := freeA _) (hA _) _ s v)

/-! ### The combination in a PE -/

/-- The accumulator after a step of class 0 to 2 (R82). -/
def combine (st : StepRec) (acc : W32) (a b : W16) : W32 :=
  let mul := fun (x y : Nat) => (mulV (dec x st.aFmt) (dec y st.bFmt)).1
  let int := fun (f : Fmt) (x : Nat) => if f = .u8 then (x : Int) else (BitVec.ofNat 8 x).toInt
  match st.cls with
  | 0 => rne32 (addV false (dec32 acc) (mul a.toNat b.toNat)).1
  | 1 => rne32 (addV false (dec32 acc) (addV false (mul (a.toNat % 256) (b.toNat % 256)) (mul (a.toNat / 256) (b.toNat / 256))).1).1
  | _ => BitVec.ofInt 32 (acc.toInt + int st.aFmt (a.toNat % 256) * int st.bFmt (b.toNat % 256)
      + int st.aFmt (a.toNat / 256) * int st.bFmt (b.toNat / 256))

theorem signedOf_eq_toInt (x : Nat) : signedOf 8 x = (BitVec.ofNat 8 x).toInt := by
  rw [BitVec.toInt_eq_toNat_cond, BitVec.toNat_ofNat]
  unfold signedOf
  split <;> split <;> omega

theorem opInt_eq {x : Nat} (h : x < 256) (f : Fmt) : opInt x f = if f = .u8 then (x : Int) else (BitVec.ofNat 8 x).toInt := by
  unfold opInt
  rw [Nat.mod_eq_of_lt h, signedOf_eq_toInt]

theorem acc_peStep (st : StepRec) (h : st.cls < 3) (p : Pe) (a a1 a2 a3 b : W16) (scale : Byte × W32) :
    (peStep st p a a1 a2 a3 b scale).1.acc = combine st p.acc a b := by
  have low : ∀ x : W16, x.toNat % 256 < 256 := fun x => Nat.mod_lt _ (by decide)
  have high : ∀ x : W16, x.toNat / 256 < 256 := fun x => by omega
  match hc : st.cls, h with
  | 0, _ => simp only [peStep, combine, hc]
  | 1, _ => simp only [peStep, combine, hc]
  | 2, _ => simp only [peStep, combine, hc, wrap32, opInt_eq (low _), opInt_eq (high _)]

/-- Element n of a slice of 16-bit operands (R193). -/
def operand (l : List Byte) (n : Nat) : W16 := l.getD (2 * n + 1) 0 ++ l.getD (2 * n) 0

theorem slice16_eq (l : List Byte) (n : Nat) : slice16 l.toArray (2 * n) = operand l n := by
  unfold slice16 operand
  simp [Array.getD_eq_getD_getElem?, List.getD_eq_getElem?_getD]

section RoomBeat
variable (x : Room) (runs : List WingRun) (row col rows cols : Nat) (i j : Fin 128)

/-- The steps that stand before the diagonals of a room. -/
def looksOf : Array (Option RoomStep) := Array.ofFn (n := 255) fun d => (stepAt runs (128 * row + 128 * col + d.val)).map fun st => roomStep st row col

theorem looksOf_getD : (looksOf runs row col).getD (i.val + j.val) none =
    (stepAt runs (128 * row + 128 * col + i.val + j.val)).map fun st => roomStep st row col := by
  have inside : i.val + j.val < 255 := by omega
  simp [looksOf, Array.getD, inside, Nat.add_assoc]

/-- A PE with the class of the first step of a unit that reaches its room. -/
def tagPe (first : Option StepRec) (p : Pe) : Pe := match first with | some st => { p with tag := BitVec.ofNat 2 st.cls } | none => p

theorem acc_tagPe (first : Option StepRec) (p : Pe) : (tagPe first p).acc = p.acc := by cases first <;> rfl

theorem pe_roomBeat : ((roomBeat x runs row col rows cols).pes.get i).get j =
    (peBeat (looksOf runs row col) (tagPe ((stepAt runs (128 * row + 128 * col)).filter (·.first)) ((x.pes.get i).get j)) i.val j.val).1 := by
  show ((roomBeat x runs row col rows cols).pes[i.val])[j.val] = _
  simp only [roomBeat, Vector.getElem_map, Vector.getElem_ofFn]
  rfl

theorem acc_roomBeat_empty (h : stepAt runs (128 * row + 128 * col + i.val + j.val) = none) :
    (((roomBeat x runs row col rows cols).pes.get i).get j).acc = ((x.pes.get i).get j).acc := by
  rw [pe_roomBeat, ← acc_tagPe ((stepAt runs (128 * row + 128 * col)).filter (·.first)) ((x.pes.get i).get j)]
  unfold peBeat
  rw [looksOf_getD, h]
  rfl

theorem acc_roomBeat_step {st : StepRec} (h : stepAt runs (128 * row + 128 * col + i.val + j.val) = some st) (hc : st.cls < 3) :
    (((roomBeat x runs row col rows cols).pes.get i).get j).acc =
      combine st ((x.pes.get i).get j).acc (operand (st.aSlices.getD row []) i.val) (operand (st.bSlices.getD col []) j.val) := by
  have notThree : st.cls ≠ 3 := by omega
  rw [pe_roomBeat, ← acc_tagPe ((stepAt runs (128 * row + 128 * col)).filter (·.first)) ((x.pes.get i).get j)]
  unfold peBeat
  rw [looksOf_getD, h]
  simp only [Option.map_some, roomStep, notThree, if_false]
  rw [acc_peStep st hc, slice16_eq, slice16_eq]

end RoomBeat

theorem stepAt_single (q : WingRun) (off : Nat) : stepAt [q] off = if q.beat < off then none else q.steps.find? fun t => t.entry == q.beat - off := by
  unfold stepAt
  rw [List.findSome?_cons]
  generalize (if q.beat < off then none else q.steps.find? fun t => t.entry == q.beat - off) = found
  cases found <;> rfl

/-- Away from the corner the step that enters in this beat is not met yet. -/
theorem stepAt_enterStep (s : State) (lead : SuiteId) (r : WingRun) {off : Nat} (h : off ≠ 0 ∨ stepDue r = false) :
    stepAt [(enterStep s lead r).1] off = stepAt [r] off := by
  cases due : stepDue r with
  | false => rw [enterStep_waits due]
  | true =>
    have away := h.resolve_right (by simp [due])
    obtain ⟨st, steps, -, entry, -⟩ := enterStep_enters (s := s) (lead := lead) due
    rw [stepAt_single, stepAt_single, enterStep_beat, steps]
    split
    · rfl
    · rw [List.find?_cons_of_neg]
      simp only [entry, beq_iff_eq]
      omega

end Sys2Proof.Machine
end

section
/-! PROOFS. The state after a beat of a wing's only nest (R194, R292). -/

namespace Sys2Proof.Machine

theorem nodup_members (s : State) (lead : SuiteId) : (members s lead).Nodup := by
  unfold members wingRooms
  exact (List.nodup_finRange 64).filter _

/-- The run as the beat's step enters it, and the state. -/
def enteredBeat (s : State) (u : SuiteId) (r : WingRun) : WingRun × State := enterStep (feed s u r).2 u (feed s u r).1

/-- The state in which every PE combines. -/
def beforeCombine (s : State) (u : SuiteId) (r : WingRun) : State :=
  (enteredBeat s u r).2.modRoom u fun x => { x with runs := [(enteredBeat s u r).1] }

/-- The state after the beat. -/
def afterBeat (s : State) (u : SuiteId) (r : WingRun) : State :=
  (setNbeat (countSteps (wingBeat (beforeCombine s u r) u) u) u (r.beat + 1)).modRoom u fun x =>
    { x with runs := x.runs.map fun q => q.after (wingW s u) (wingH s u) }

section Beat
variable {s : State} {u : SuiteId} {r : WingRun}

theorem exec_nestBeat_fails (go : nestRuns s u = true) {q : WingRun} {i : Nat} (h : wingFails s u = some (q, i)) :
    exec (.nestBeat u) s = .next (haltFmt s u q i) := by
  show execNestBeat u s = _
  simp only [execNestBeat, go, h, Bool.not_true, Bool.false_eq_true, if_false]

theorem exec_nestBeat_one (runs : (s.room u).runs = [r]) (go : nestRuns s u = true) (ok : wingFails s u = none) :
    exec (.nestBeat u) s = .next (afterBeat s u r) := by
  show execNestBeat u s = _
  simp only [execNestBeat, go, ok, runs, Bool.not_true, Bool.false_eq_true, if_false, List.foldl_cons, List.foldl_nil, List.nil_append,
    List.getLast?_singleton]
  rfl

theorem feed_run (s : State) (u : SuiteId) (r : WingRun) : ∃ k, (feed s u r).1 = { r with staged := k } := by
  obtain ⟨⟨k, -, run⟩, -⟩ := feed_stagedOn s u r
  exact ⟨k, run⟩

/-- How far the feeders have staged changes nothing of the step that is due. -/
theorem stepDue_feed (s : State) (u : SuiteId) (r : WingRun) : stepDue (feed s u r).1 = stepDue r := by
  obtain ⟨k, run⟩ := feed_run s u r
  rw [run]
  rfl

theorem enteredBeat_beat (s : State) (u : SuiteId) (r : WingRun) : (enteredBeat s u r).1.beat = r.beat := by
  obtain ⟨k, run⟩ := feed_run s u r
  rw [enteredBeat, enterStep_beat, run]

theorem stepAt_enteredBeat (s : State) (u : SuiteId) (r : WingRun) {off : Nat} (h : off ≠ 0 ∨ stepDue r = false) :
    stepAt [(enteredBeat s u r).1] off = stepAt [r] off := by
  rw [← stepDue_feed s u] at h
  rw [enteredBeat, stepAt_enterStep _ _ _ h, stepAt_single, stepAt_single]
  obtain ⟨k, run⟩ := feed_run s u r
  rw [run]

/-- Up to the combination the beat changes feeders and runs only. -/
theorem beforeCombine_keeps {α : Type} (g : Room → α) (hA : ∀ q u x, g (freeA q u x) = g x) (hB : ∀ u x, g (freeB u x) = g x)
    (unfed : ∀ x, g x.unfed = g x) (runs : ∀ x l, g { x with runs := l } = g x) (s : State) (u : SuiteId) (r : WingRun) (v : SuiteId) :
    g ((beforeCombine s u r).room v) = g (s.room v) := by
  have fed : g ((feed s u r).2.room v) = g (s.room v) := by
    rw [← unfed, (feed_stagedOn s u r).2.rooms v, unfed]
  have entered : g ((enteredBeat s u r).2.room v) = g (s.room v) := (enterStep_keeps g hA hB _ _ _ v).trans fed
  unfold beforeCombine
  rw [State.room_modRoom]
  split
  next e => subst e; rw [runs, entered]
  next => exact entered

theorem members_beforeCombine (s : State) (u : SuiteId) (r : WingRun) : members (beforeCombine s u r) u = members s u := by
  unfold members
  rw [beforeCombine_keeps Room.wingShape (fun _ _ _ => rfl) (fun _ _ => rfl) (fun _ => rfl) fun _ _ => rfl]

theorem runs_beforeCombine (s : State) (u : SuiteId) (r : WingRun) : ((beforeCombine s u r).room u).runs = [(enteredBeat s u r).1] := by
  simp [beforeCombine]

theorem rooms_countSteps (s : State) (lead : SuiteId) : (countSteps s lead).rooms = s.rooms := by
  refine foldl_keeps State.rooms (fun t v => ?_) _ s
  split
  next => exact (counted_countEvents t (.bank v 0) 2 1).rooms
  next => rfl

theorem room_countSteps (s : State) (lead v : SuiteId) : (countSteps s lead).room v = s.room v :=
  congrArg (fun x => x.get v) (rooms_countSteps s lead)

/-- The beat of a member room at its place in the wing. -/
def memberBeat (runs : List WingRun) (lead : SuiteId) (rows cols : Nat) (v : SuiteId) (x : Room) : Room :=
  roomBeat x runs (roomRow v - roomRow lead) (roomCol v - roomCol lead) rows cols

/-- NBEAT of a room. -/
def countBeat (n : Nat) (_ : SuiteId) (x : Room) : Room := { x with nbeat := BitVec.ofNat 32 n, beatNow := true }

theorem wingBeat_keeps {α : Type} (g : Room → α) (h : ∀ x runs row col rows cols, g (roomBeat x runs row col rows cols) = g x)
    (s : State) (lead v : SuiteId) : g ((wingBeat s lead).room v) = g (s.room v) :=
  foldl_modRoom_keeps g (f := memberBeat _ lead _ _) (fun _ _ => h ..) _ s v

theorem room_setNbeat {s : State} {lead v : SuiteId} (h : v ∈ members s lead) (n : Nat) : (setNbeat s lead n).room v = countBeat n v (s.room v) :=
  (room_foldl_modRoom (countBeat n) v (nodup_members s lead) s).trans (if_pos h)

/-- The state in which NBEAT counts. -/
def combinedBeat (s : State) (u : SuiteId) (r : WingRun) : State := countSteps (wingBeat (beforeCombine s u r) u) u

theorem combinedBeat_keeps {α : Type} (g : Room → α) (h : ∀ x runs row col rows cols, g (roomBeat x runs row col rows cols) = g x) (v : SuiteId) :
    g ((combinedBeat s u r).room v) = g ((beforeCombine s u r).room v) := by
  unfold combinedBeat
  rw [room_countSteps, wingBeat_keeps g h]

theorem members_combinedBeat (s : State) (u : SuiteId) (r : WingRun) : members (combinedBeat s u r) u = members s u := by
  rw [← members_beforeCombine s u r]
  unfold members
  rw [combinedBeat_keeps Room.wingShape fun _ _ _ _ _ _ => rfl]

theorem room_combinedBeat {v : SuiteId} (h : v ∈ members s u) : (combinedBeat s u r).room v =
    memberBeat [(enteredBeat s u r).1] u (wingRows (beforeCombine s u r) u) (wingCols (beforeCombine s u r) u) v ((beforeCombine s u r).room v) := by
  have member : v ∈ members (beforeCombine s u r) u := by rwa [members_beforeCombine]
  rw [← runs_beforeCombine]
  exact (room_countSteps _ u v).trans ((room_foldl_modRoom (memberBeat _ u _ _) v (nodup_members _ u) _).trans (if_pos member))

/-- A member room after the beat. -/
theorem room_afterBeat {v : SuiteId} (h : v ∈ members s u) :
    ((afterBeat s u r).room v).nbeat = BitVec.ofNat 32 (r.beat + 1) ∧
    ((afterBeat s u r).room v).pes = (memberBeat [(enteredBeat s u r).1] u (wingRows (beforeCombine s u r) u) (wingCols (beforeCombine s u r) u) v
      ((beforeCombine s u r).room v)).pes := by
  have counted : (setNbeat (combinedBeat s u r) u (r.beat + 1)).room v = countBeat (r.beat + 1) v ((combinedBeat s u r).room v) :=
    room_setNbeat (by rwa [members_combinedBeat]) _
  have after : (afterBeat s u r).room v = (if u = v then
      { countBeat (r.beat + 1) v ((combinedBeat s u r).room v) with
        runs := ((setNbeat (combinedBeat s u r) u (r.beat + 1)).room u).runs.map fun q => q.after (wingW s u) (wingH s u) }
      else countBeat (r.beat + 1) v ((combinedBeat s u r).room v)) := by
    rw [← counted]
    refine (State.room_modRoom ..).trans ?_
    split
    next e => subst e; rfl
    next => rfl
  rw [after, ← room_combinedBeat h]
  split <;> exact ⟨rfl, rfl⟩

/-- The nest after the beat. -/
theorem runs_afterBeat (s : State) (u : SuiteId) (r : WingRun) :
    ((afterBeat s u r).room u).runs = [(enteredBeat s u r).1.after (wingW s u) (wingH s u)] := by
  have counted : ((setNbeat (combinedBeat s u r) u (r.beat + 1)).room u).runs = [(enteredBeat s u r).1] := by
    rw [← runs_beforeCombine, ← combinedBeat_keeps Room.runs fun _ _ _ _ _ _ => rfl]
    exact foldl_modRoom_keeps Room.runs (f := countBeat _) (fun _ _ => rfl) _ _ u
  refine (congrArg Room.runs (State.room_modRoom ..)).trans ?_
  rw [if_pos rfl]
  exact congrArg (List.map fun q => WingRun.after q (wingW s u) (wingH s u)) counted

/-! ### What the beat leaves of the run and of each PE -/

/-- The PEs that combine are those before the beat. -/
theorem pes_beforeCombine (s : State) (u : SuiteId) (r : WingRun) (v : SuiteId) : ((beforeCombine s u r).room v).pes = (s.room v).pes :=
  beforeCombine_keeps Room.pes (fun _ _ _ => rfl) (fun _ _ => rfl) (fun _ => rfl) (fun _ _ => rfl) s u r v

section Pe
variable {v : SuiteId} (h : v ∈ members s u) (i j : Fin 128)
include h

theorem acc_afterBeat_empty {off : Nat} (place : off = 128 * (roomRow v - roomRow u) + 128 * (roomCol v - roomCol u) + i.val + j.val)
    (known : off ≠ 0 ∨ stepDue r = false) (empty : stepAt [r] off = none) :
    ((((afterBeat s u r).room v).pes.get i).get j).acc = (((s.room v).pes.get i).get j).acc := by
  subst place
  rw [(room_afterBeat h).2, memberBeat, acc_roomBeat_empty _ _ _ _ _ _ _ _ (by rw [stepAt_enteredBeat _ _ _ known, empty]), pes_beforeCombine]

theorem acc_afterBeat_step {off : Nat} (place : off = 128 * (roomRow v - roomRow u) + 128 * (roomCol v - roomCol u) + i.val + j.val)
    (known : off ≠ 0 ∨ stepDue r = false) {st : StepRec} (here : stepAt [r] off = some st) (hc : st.cls < 3) :
    ((((afterBeat s u r).room v).pes.get i).get j).acc = combine st (((s.room v).pes.get i).get j).acc
      (operand (st.aSlices.getD (roomRow v - roomRow u) []) i.val) (operand (st.bSlices.getD (roomCol v - roomCol u) []) j.val) := by
  subst place
  rw [(room_afterBeat h).2, memberBeat, acc_roomBeat_step _ _ _ _ _ _ _ _ (by rw [stepAt_enteredBeat _ _ _ known, here]) hc, pes_beforeCombine]

end Pe

end Beat

/-- The step that entered stands in the wing after the beat. -/
theorem mem_after {q : WingRun} {st : StepRec} (h : st ∈ q.steps) (new : st.entry = q.beat) (s : State) (u : SuiteId) :
    st ∈ (q.after (wingW s u) (wingH s u)).steps := by
  have wide : 128 ≤ wingW s u := by
    have := (shape_bounds (s.room u).wingShape).2.1
    unfold wingW
    omega
  refine List.mem_filter.mpr ⟨h, decide_eq_true ?_⟩
  have tall : 128 ≤ wingH s u := by
    have := (shape_bounds (s.room u).wingShape).1.1
    unfold wingH
    omega
  omega

/-- The slices with which a due step enters. -/
theorem enteredBeat_enters {s : State} {u : SuiteId} {r : WingRun} (due : stepDue r = true) :
    ∃ st, st ∈ (enteredBeat s u r).1.steps ∧ (enteredBeat s u r).1.nextStep = r.nextStep + 1 ∧ st.entry = r.beat ∧
      st.cls = (ftClass (featOn s 1) (nextStepOf r).ft).getD 0 ∧
      ∀ A B, Edges s (feed s u r).2 u (if st.cls = 3 then 4 else 1) A B →
        st.aSlices = (westRooms s u).map A ∧ st.bSlices = (northRooms s u).map B := by
  have slots := (feed_stagedOn s u r).2
  obtain ⟨k, run⟩ := feed_run s u r
  obtain ⟨st, steps, next, entry, cls, aSlices, bSlices⟩ := enterStep_enters (s := (feed s u r).2) (lead := u) ((stepDue_feed s u r).trans due)
  refine ⟨st, ?_, ?_, ?_, ?_, fun A B edges => ?_⟩
  · rw [enteredBeat, steps]
    exact List.mem_cons_self
  · rw [enteredBeat, next, run]
  · rw [entry, run]
  · rw [cls, slots.featOn, run]
    rfl
  · rw [aSlices, bSlices]
    exact edges.slices

/-- The slots of the entering step are counted by its class as the feeders count them. -/
theorem aSlots_eq (o : Option Nat) : aSlots o = if o.getD 0 = 3 then 4 else 1 := by
  cases o <;> simp [aSlots]

/-- Settles O38: the feeders keep what they hold for the next step or stage it in the beat, the step enters at the wing's corner, and every PE meets
the step of its diagonal alone. -/
theorem nestBeats : Obligations.NestBeats := by
  unfold Obligations.NestBeats
  intro s u r runs go half combined
  refine ⟨fun q i fails => exec_nestBeat_fails go fails, fun ok => ⟨_, exec_nestBeat_one runs go ok, fun v member i j => ?_, fun v member => ?_,
    _, runs_afterBeat s u r, ?_, fun waits => ?_, fun due => ?_⟩⟩
  · intro row col away acc here known
    have meets : here = stepAt [r] away := (stepAt_single r away).symm
    refine ⟨fun empty => ?_, fun st met cls => ?_⟩
    · exact acc_afterBeat_empty member i j rfl known (meets.symm.trans empty)
    · exact acc_afterBeat_step member i j rfl known (meets.symm.trans met) cls
  · exact (room_afterBeat member).1
  · exact congrArg (· + 1) (enteredBeat_beat s u r)
  · obtain ⟨k, run⟩ := feed_run s u r
    show (enteredBeat s u r).1.nextStep = r.nextStep
    rw [enteredBeat, enterStep_waits ((stepDue_feed s u r).trans waits), run]
  · obtain ⟨st, steps, next, entry, cls, slices⟩ := enteredBeat_enters (s := s) (u := u) due
    refine ⟨next, st, mem_after steps (entry.trans (enteredBeat_beat s u r).symm) s u, entry, ?_⟩
    intro k m n west north entryClass
    have size : aSlots (stepClass s r r.nextStep) = k := by rw [aSlots_eq, entryClass, ← cls]
    refine ⟨fun ahead km n1 => ?_, fun unstaged m0 n0 => ?_⟩
    · have few : k ≤ 64 := by rw [← size]; unfold aSlots; split <;> decide
      exact slices _ _ (edges_feed_ahead ahead ⟨.refl s, ⟨min m 64, by omega, by omega, fun v hv => ⟨stagedIn_min (west v hv), rfl⟩⟩,
        min n 64, by omega, by omega, fun v hv => ⟨stagedIn_min (north v hv), rfl⟩⟩)
    · subst m0 n0
      have edges := edges_feed_first due unstaged west north
      rw [unstaged, size] at edges
      have := slices _ _ edges
      unfold nextA nextB fetchA fetchB fetchStep at this
      rw [unstaged, size] at this
      exact this

end Sys2Proof.Machine
end

section
/-! PROOFS. The decoder and the encoder agree: decoding the words of an instruction gives it back, and a word that decodes is the encoding of its
instruction (R107-R118, R119). -/

namespace Sys2Proof.Laws.Encoding

/-! ### Decoding an encoding -/

/-- Each instruction is read back from its words, and an event has none: the lemma that bears its name says so. -/
theorem decode_encode (i : Instr) : Statement i :=
  @Instr.casesOn Statement i add sub mul mulh div divu rem remu divideCompletion and or xor shl shr sra min max minu maxu slt sltu sel clz popc addi
    andi ori xori shli shri srai slti lui lix br jmp call ret loop brk cqp endA nopA hint ld st ldl stl ldt stt pft align fence drnt drntCompletion
    queueEntryPerform pageFaultBankSwitch waita monitorTrigger waittmoExpiry aat orderedAtomicApply accseqWrite amem toksA tokwA crd cwr cmw cxc
    csrWrite trap eret yieldA rpush rpop tinv tinvCompletion frel frelCompletion ssync ssyncArrival barrierCompletion digstatWrite digpeerWrite
    mnest mfmt mgo mgoStart nestBeat drainRow haltRestart mwing reshapeEffect mdrn dstart dstartEffect dlook dfeed dfeedHead ddrn ddrnHead dend dret
    beatDue droneBeat missdl demandVector cpy cpyStart cpyCompletion cpyq commandCompletion psend psendCredit psendCompletion precv precvSlot
    precvCompletion coll collArrival collStep collInstanceCompletion collw scnstop scnrun scnout scnin scnq scanControllerTake beatStop
    coreStopComplete scnrunRestart vadd vsub vmul vfma vfms vmin vmax vabs vneg vand vor vxor vnot vshl vshr vsra vcmp vsel vexp2 vlog2 vrcp vrsq
    vsqrt vsigm vtanh vcvt vqdec vqenc vscl vred vscan vbcr vbcc vbcs vtrn vshf vmov vzero vacc vacw mand mor mxor mnot mpop eadd esub emul emov eli
    erd ewr cqb cqr xloop xbr toksX tokwX nopX xend dscl dbia dact dclp dcvt dmul dadd dovw dstl drainDend launchReady priorityAging visitPlacement
    visitRetire eventRingWrite evqheadWrite evqbaseWrite counterOverflow vcmdResume vcmdSkip varegWrite fedead lssplitWrite migration ctxstartWrite
    lsubmitWrite keyctlAssign keyctlRelease ownmaskWrite wingsetWrite resetDie resetTenant resetRoom visitAbort feataccWrite detctlWrite passWrite
    l2qosWrite l2PortGrant alockWrite aunlkWrite ologwWrite ologlimWrite replaydiv trctlWrite roomfltClear scndmgClear accumulatorAtomicApply
    prefetchCompletion copyElementMove scanShiftCompletion hostLaunch hostDoorbell hostQuote flitReceive linkdown linkRetrain routeUpdate
    powerThrottle patrolScrub stewardRegisterUe softError peerDigest unassignedEncoding resultLanding l2BucketRefill escapeChannelEntry thermalTrip
    packageReset

/-- The opcodes that the A map assigns (R116). -/
def opcodesA : List Nat :=
  [0x00, 0x01, 0x02, 0x03, 0x04, 0x05, 0x06, 0x07, 0x08, 0x09, 0x0a, 0x0b, 0x0c, 0x0d, 0x0e, 0x0f, 0x10, 0x11, 0x12, 0x13, 0x14, 0x15, 0x16, 0x17,
  0x18, 0x19, 0x1a, 0x1b, 0x1c, 0x1d, 0x1e, 0x1f, 0x20, 0x21, 0x22, 0x23, 0x24, 0x25, 0x26, 0x27, 0x28, 0x30, 0x31, 0x32, 0x33, 0x34, 0x35, 0x36,
  0x37, 0x38, 0x39, 0x3a, 0x3b, 0x48, 0x49, 0x58, 0x59, 0x5a, 0x5b, 0x5c, 0x5d, 0x5e, 0x5f, 0x60, 0x61, 0x62, 0x63, 0x64, 0x65, 0x66, 0x67, 0x68,
  0x69, 0x6a, 0x70, 0x71, 0x72, 0x73, 0x74, 0x75, 0x76, 0x77, 0x78, 0x79, 0x7a, 0x7b, 0x7c, 0x7d, 0x7e, 0x7f]

/-- Those that the X map assigns (R117). -/
def opcodesX : List Nat :=
  [0x00, 0x01, 0x02, 0x03, 0x04, 0x05, 0x06, 0x07, 0x08, 0x09, 0x0a, 0x0b, 0x0c, 0x0d, 0x0e, 0x0f, 0x10, 0x11, 0x18, 0x19, 0x1a, 0x1b, 0x1c, 0x1d,
  0x1e, 0x40, 0x41, 0x42, 0x43, 0x50, 0x51, 0x52, 0x53, 0x54, 0x55, 0x56, 0x57, 0x58, 0x59, 0x5a, 0x60, 0x61, 0x62, 0x63, 0x64, 0x68, 0x69, 0x6a,
  0x6b, 0x6c, 0x6d, 0x6e, 0x70, 0x71, 0x72, 0x73, 0x74, 0x75, 0x76, 0x77]

/-- And those of the drain map (R118). -/
def opcodesDrain : List Nat := [0x00, 0x01, 0x02, 0x03, 0x04, 0x05, 0x06, 0x07, 0x08, 0x09]

/-- A word that decodes has an opcode of its map. -/
theorem opcode_of_decodeA {w x : W32} {i : Instr} (h : decodeA w x = .ok i) : (fld w 25 7).toNat ∈ opcodesA := by
  unfold decodeA at h
  split at h
  case h_91 => cases h
  all_goals rename_i op; rw [op]; decide

theorem opcode_of_decodeX {w x : W32} {i : Instr} (h : decodeX w x = .ok i) : (fld w 25 7).toNat ∈ opcodesX := by
  unfold decodeX at h
  split at h
  case h_61 => cases h
  all_goals rename_i op; rw [op]; decide

theorem opcode_of_decodeDrain {w : W32} {i : Instr} (h : decodeDrain w = .ok i) : (fld w 25 7).toNat ∈ opcodesDrain := by
  unfold decodeDrain at h
  split at h
  case h_11 => cases h
  all_goals rename_i op; rw [op]; decide

theorem fits_of_opcodeA : ∀ n ∈ opcodesA, ∀ (w x : W32) (i : Instr),
    fld w 25 7 = BitVec.ofNat 7 n → decodeA w x = .ok i → Fits .a w x i := by
  simp only [opcodesA, List.forall_mem_cons, List.not_mem_nil, false_implies, implies_true, and_true]
  exact ⟨backA_00, backA_01, backA_02, backA_03, backA_04, backA_05, backA_06, backA_07, backA_08, backA_09, backA_0a, backA_0b, backA_0c, backA_0d,
    backA_0e, backA_0f, backA_10, backA_11, backA_12, backA_13, backA_14, backA_15, backA_16, backA_17, backA_18, backA_19, backA_1a, backA_1b,
    backA_1c, backA_1d, backA_1e, backA_1f, backA_20, backA_21, backA_22, backA_23, backA_24, backA_25, backA_26, backA_27, backA_28, backA_30,
    backA_31, backA_32, backA_33, backA_34, backA_35, backA_36, backA_37, backA_38, backA_39, backA_3a, backA_3b, backA_48, backA_49, backA_58,
    backA_59, backA_5a, backA_5b, backA_5c, backA_5d, backA_5e, backA_5f, backA_60, backA_61, backA_62, backA_63, backA_64, backA_65, backA_66,
    backA_67, backA_68, backA_69, backA_6a, backA_70, backA_71, backA_72, backA_73, backA_74, backA_75, backA_76, backA_77, backA_78, backA_79,
    backA_7a, backA_7b, backA_7c, backA_7d, backA_7e, backA_7f⟩

theorem fits_of_opcodeX : ∀ n ∈ opcodesX, ∀ (w x : W32) (i : Instr),
    fld w 25 7 = BitVec.ofNat 7 n → decodeX w x = .ok i → Fits .x w x i := by
  simp only [opcodesX, List.forall_mem_cons, List.not_mem_nil, false_implies, implies_true, and_true]
  exact ⟨backX_00, backX_01, backX_02, backX_03, backX_04, backX_05, backX_06, backX_07, backX_08, backX_09, backX_0a, backX_0b, backX_0c, backX_0d,
    backX_0e, backX_0f, backX_10, backX_11, backX_18, backX_19, backX_1a, backX_1b, backX_1c, backX_1d, backX_1e, backX_40, backX_41, backX_42,
    backX_43, backX_50, backX_51, backX_52, backX_53, backX_54, backX_55, backX_56, backX_57, backX_58, backX_59, backX_5a, backX_60, backX_61,
    backX_62, backX_63, backX_64, backX_68, backX_69, backX_6a, backX_6b, backX_6c, backX_6d, backX_6e, backX_70, backX_71, backX_72, backX_73,
    backX_74, backX_75, backX_76, backX_77⟩

theorem fits_of_opcodeDrain : ∀ n ∈ opcodesDrain, ∀ (w x : W32) (i : Instr),
    fld w 25 7 = BitVec.ofNat 7 n → decodeDrain w = .ok i → Fits .drain w x i := by
  simp only [opcodesDrain, List.forall_mem_cons, List.not_mem_nil, false_implies, implies_true, and_true]
  exact ⟨backD_00, backD_01, backD_02, backD_03, backD_04, backD_05, backD_06, backD_07, backD_08, backD_09⟩

/-- A word that decodes is the encoding of its instruction, in its map. -/
theorem decode_fits {m : Map} {w x : W32} {i : Instr} (h : decode m w x = .ok i) : Fits m w x i := by
  have opcode : fld w 25 7 = BitVec.ofNat 7 (fld w 25 7).toNat := ((BitVec.ofNat_toNat ..).trans (BitVec.setWidth_eq _)).symm
  cases m with
  | a => exact fits_of_opcodeA _ (opcode_of_decodeA h) w x i opcode h
  | x => exact fits_of_opcodeX _ (opcode_of_decodeX h) w x i opcode h
  | drain => exact fits_of_opcodeDrain _ (opcode_of_decodeDrain h) w x i opcode h

/-! ### The number of words

An arm of the decoder answers an instruction, needs its reserved fields to be zero, or picks one of two by the sub field (R111, R119). -/

section Arms
variable {n : Nat} {i : Instr} (hi : (encode i).length = n)
include hi

theorem length_of_ok : ∀ k, (.ok i : Except DecodeError Instr) = .ok k → (encode k).length = n := by
  rintro _ ⟨⟩
  exact hi

theorem length_of_need {c : Bool} : ∀ k, need c i = .ok k → (encode k).length = n := by
  intro k ok
  obtain ⟨-, rfl⟩ := need_ok ok
  exact hi

theorem length_of_pick {c : Bool} {sub : BitVec 2} {j : Instr} (hj : (encode j).length = n) :
    ∀ k, pick c sub i j = .ok k → (encode k).length = n := by
  intro k ok
  obtain ⟨-, -, rfl⟩ | ⟨-, -, rfl⟩ := pick_ok ok
  · exact hi
  · exact hj

end Arms

/-- The words are two where the opcode is that of a two-slot form, and one otherwise (R109, R113, R114). -/
theorem length_of_decodeA (w x : W32) : ∀ i, decodeA w x = .ok i → (encode i).length = if twoSlot .a w then 2 else 1 := by
  unfold decodeA
  split
  case h_91 => exact fun _ h => nomatch h
  all_goals
    rename_i op
    simp only [twoSlot, op]
    first
    | exact length_of_need rfl
    | exact length_of_ok rfl
    | exact length_of_pick rfl rfl

theorem length_of_decodeX (w x : W32) : ∀ i, decodeX w x = .ok i → (encode i).length = if twoSlot .x w then 2 else 1 := by
  unfold decodeX
  split
  case h_61 => exact fun _ h => nomatch h
  all_goals
    rename_i op
    simp only [twoSlot, op]
    first
    | exact length_of_need rfl
    | exact length_of_ok rfl

theorem length_of_decodeDrain (w : W32) : ∀ i, decodeDrain w = .ok i → (encode i).length = 1 := by
  unfold decodeDrain
  split
  case h_11 => exact fun _ h => nomatch h
  all_goals exact length_of_need rfl

/-- Settles O2: each instruction has its own lemma, and the arm that reads it back fixes its number of words. -/
theorem decodeEncode : Obligations.DecodeEncode := fun i m h =>
  have read := decode_encode i m h
  ⟨read, match m, read with
    | .a, read => length_of_decodeA _ _ i read
    | .x, read => length_of_decodeX _ _ i read
    | .drain, read => length_of_decodeDrain _ i read⟩

/-- Settles O3: the opcode of a word that decodes is assigned, and the arm of each assigned opcode reads every bit of the word. -/
theorem encodeDecode : Obligations.EncodeDecode := fun _ _ _ _ h => decode_fits h

/-- Settles O1: the decoder evaluates each word. -/
theorem decodedWords : Obligations.DecodedWords := by
  unfold Obligations.DecodedWords
  and_intros <;> rfl

end Sys2Proof.Laws.Encoding
end

section
/-! PROOFS. The plain instructions: NOP and hints, BRK, END, YIELD, range labels, ALIGN, FENCE and PFT (R136, R138, R148-R151, R162, R163, R192). -/

namespace Sys2Proof.Machine

/-- An instruction without waits, traps or an effect of its own has no effect beyond its issue (R136). -/
theorem issue_bare {i : Instr} {w : BitVec 4} {s : State} (h : ready s i w = true) :
    issue i w (fun _ _ => {}) s = .next (issued s w) := by
  rw [issue_next h rfl rfl]

/-! ### END and XEND -/

/-- In a Suite the end of a stream is the end of its run (R136, R192). -/
theorem endStream_bank {s : State} {ag : Agent} {u : SuiteId} {b : Fin 2} (h : ag.bank = .bank u b) :
    endStream s ag = s.modStream ag fun x => { x with running := false } := by
  simp only [endStream, h]

/-- In a Steward context it stops the context too, once neither stream runs (R322). -/
theorem endStream_ctx {s : State} {ag : Agent} {c : CtxId} (h : ag.bank = .ctx c) :
    let t := s.modStream ag fun x => { x with running := false }
    endStream s ag = if (t.ctx c).running ∧ ¬ (t.ctx c).regs.sa.running ∧ ¬ (t.ctx c).regs.sx.running then stopContext t c none else t := by
  simp only [endStream, h, State.bank, Bool.and_eq_true, Bool.not_eq_true', Bool.not_eq_true, and_assoc]

/-! ### A FENCE -/

/-- A FENCE stands while an earlier access has still to perform, one that a page fault has put aside too (R150). -/
theorem settleFence_pending {s : State} {r : BankRef} {q : Nat} {inval : Bool} (h : (s.bank r).fence = some (q, inval))
    (p : earlierPending (s.bank r) q = true ∨ replayPending (s.bank r) q = true) : settleFence s r = s := by
  simp only [settleFence, h, Bool.or_eq_true, p, if_true]

/-- Once the last one has performed it is over, and with a scope other than suite it clears L1 (R150, R57). -/
theorem settleFence_over {s : State} {r : BankRef} {q : Nat} {inval : Bool} (h : (s.bank r).fence = some (q, inval))
    (access : earlierPending (s.bank r) q = false) (replay : replayPending (s.bank r) q = false) :
    ((settleFence s r).bank r).fence = none ∧ ∀ u c, r = .bank u c → inval = true → ((settleFence s r).suite u).l1 = [] := by
  cases r with
  | ctx c =>
    have ends : settleFence s (.ctx c) = s.modBank (.ctx c) fun b => { b with fence := none } := by
      simp only [settleFence, h, access, replay, Bool.or_self, Bool.false_eq_true, if_false]
    rw [ends]
    exact ⟨by simp, fun _ _ e => nomatch e⟩
  | bank u c =>
    have ends : settleFence s (.bank u c) =
        if inval then l1Clear (s.modBank (.bank u c) fun b => { b with fence := none }) u
        else s.modBank (.bank u c) fun b => { b with fence := none } := by
      simp only [settleFence, h, access, replay, Bool.or_self, Bool.false_eq_true, if_false]
    rw [ends]
    cases inval
    · exact ⟨by simp, fun _ _ _ no => nomatch no⟩
    · refine ⟨by simp [bank_l1Clear], fun v k e _ => ?_⟩
      cases e
      exact (l1_l1Clear _ u u).trans (if_pos rfl)

/-! ### PFT -/

/-- A descriptor that PFT reads stands at an aligned address of the scratchpad (R148). -/
theorem prefetchable_iff (s : State) (u : SuiteId) (a : Nat) :
    (a % 64 == 0 && decide (a < 2 ^ 23) && inScratch (s.suite u) a 64) = true ↔
      a % 64 = 0 ∧ a < 2 ^ 23 ∧ inScratch (s.suite u) a 64 = true := by
  simp only [Bool.and_eq_true, beq_iff_eq, decide_eq_true_eq, and_assoc]

/-- Settles O15: each of them issues once ready, its plan's effect runs on the state after the issue, and a wait of its own is its plan's hold. -/
theorem plainEffects : Obligations.PlainEffects := by
  unfold Obligations.PlainEffects
  refine ⟨⟨⟨fun w x s => ⟨issue_bare, issue_bare, issue_bare⟩, ?_, ?_, ?_⟩, ?_⟩, ?_⟩
  · intro imm w s h t
    refine ⟨fun off => ?_, fun on => ?_⟩
    · exact (issue_next h rfl rfl).trans (congrArg Host.Outcome.next (if_neg (Bool.eq_false_iff.mp off)))
    · exact (issue_next h rfl rfl).trans (congrArg Host.Outcome.next (if_pos on))
  · intro w s u b hb stopped
    exact ⟨fun h => (issue_next h rfl rfl).trans (congrArg Host.Outcome.next (endStream_bank hb)),
      fun h => (issue_next h rfl rfl).trans (congrArg Host.Outcome.next (endStream_bank hb))⟩
  · rintro w s c i hc (rfl | rfl) h t
    · exact (issue_next h rfl rfl).trans (congrArg Host.Outcome.next (endStream_ctx hc))
    · exact (issue_next h rfl rfl).trans (congrArg Host.Outcome.next (endStream_ctx hc))
  · intro imm w s ag labels upd
    refine ⟨fun h => ?_, fun h => ⟨fun room => ?_, fun full => ?_⟩, fun h => ⟨fun empty => ?_, fun l rest top => ?_⟩⟩
    · refine (issue_next h rfl rfl).trans ?_
      simp only [ag]
      cases s.cur.bank <;> rfl
    · exact (issue_next h rfl rfl).trans (congrArg Host.Outcome.next (if_neg (Nat.not_le.mpr room)))
    · exact (issue_next h rfl rfl).trans (congrArg Host.Outcome.next (if_pos full))
    · refine (issue_next h rfl rfl).trans (congrArg Host.Outcome.next ?_)
      simp only [show (s.stream s.cur).labels = [] from empty]
      rfl
    · refine (issue_next h rfl rfl).trans (congrArg Host.Outcome.next ?_)
      simp only [show (s.stream s.cur).labels = l :: rest from top]
      rfl
  · intro s1 dn w scope s ag a b
    refine ⟨fun h => issue_next h rfl rfl, fun h => ⟨fun drnt => issue_waits (ready_iff.mp h).1 (if_pos drnt), fun none => ?_⟩, ?_⟩
    · exact issue_next h (if_neg (Bool.eq_false_iff.mp none)) rfl
    intro held
    refine ⟨fun h hold => issue_waits h (lsHold_eq_some hold.1 hold.2), fun h idle => ?_, ?_⟩
    · refine (issue_next h (lsHold_eq_none idle) rfl).trans ?_
      simp only [prefetchable_iff]
      rfl
    · rintro r t rfl q inval h
      exact ⟨settleFence_pending h, settleFence_over h⟩

end Sys2Proof.Machine
end

section
/-! PROOFS. Results of fixed latency: how they are emitted, where they land, and what the X-map arithmetic leaves alone; words that name no
instruction (R119, R121, R167, R169, R291, R366). -/

namespace Sys2Proof.Machine

/-! ### Registers after a landing -/

theorem readE_writeE (s : State) (ag : Agent) (d n : BitVec 4) (v : Word) : readE (writeE s ag d v) ag n = if d = n then v else readE s ag n := by
  simp only [readE, writeE, State.bank_modBank_same]
  exact vget_set_bv (k := 4) _ d n v

theorem tiles_setTile (s : State) (u : SuiteId) (t d : Fin 48) (v : Tile) :
    ((setTile s u t v).suite u).tiles.get d = if t = d then v else (s.suite u).tiles.get d := by
  simp only [setTile, State.suite_modPkg, State.suite_modSuite, if_true]
  exact vget_set _ t d v

theorem masks_setMask (s : State) (u : SuiteId) (m k : Fin 8) (v : Mask) :
    ((s.modSuite u fun y => { y with masks := y.masks.set m.val v m.isLt }).suite u).masks.get k = if m = k then v else (s.suite u).masks.get k := by
  simp only [State.suite_modSuite, if_true]
  exact vget_set _ m k v

@[simp] theorem bank_setTile (s : State) (u : SuiteId) (t : Fin 48) (v : Tile) (r : BankRef) : (setTile s u t v).bank r = s.bank r := by
  simp only [setTile, State.bank_modPkg, State.bank_modSuite]

theorem fly_writeA (s : State) (ag : Agent) (d : BitVec 5) (v : Word) : ((writeA s ag d v).bank ag.bank).fly = (s.bank ag.bank).fly := by
  unfold writeA
  split
  · rw [State.bank_modSuite s _ _ rfl]
  · split
    · rfl
    · rw [State.bank_modBank_same]

/-- The streams of a bank share its address registers. -/
theorem writeA_kind (s : State) (r : BankRef) {k : StreamKind} (h : k ≠ .chanter) (d : BitVec 5) (v : Word) :
    writeA s ⟨r, k⟩ d v = writeA s ⟨r, .a⟩ d v := by
  simp only [writeA, h, if_false, reduceCtorEq]

/-! ### XFLG -/

theorem xflg_recordFlags (s : State) (r : BankRef) (fl : Flags) :
    ((recordFlags s r fl).bank r).sx.xflg = xflgAfter (s.bank r).sx.xflg fl := by
  unfold recordFlags
  split
  next zero => rw [zero]; rfl
  next => rw [State.bank_modBank_same]

theorem xflgAfter_eq {fl : Flags} (h : fl ≠ 0) (x : BitVec 13) : xflgAfter x fl = fl ++ (0 : BitVec 3) ++ (x.extractLsb' 0 5 ||| fl) := if_neg h

/-- The sticky bits gather the flags (R79). -/
theorem xflgAfter_sticky (x : BitVec 13) (fl : Flags) (n : Fin 5) : (xflgAfter x fl).getLsbD n.val = (x.getLsbD n.val || fl.getLsbD n.val) := by
  by_cases h : fl = 0
  · subst h
    simp [xflgAfter]
  · rw [xflgAfter_eq h, BitVec.getLsbD_append, if_pos n.isLt]
    simp [n.isLt]

/-- The last flags are those of an instruction that raised some (R79). -/
theorem xflgAfter_last (x : BitVec 13) {fl : Flags} (h : fl ≠ 0) : (xflgAfter x fl).extractLsb' 8 5 = fl := by
  rw [xflgAfter_eq h]
  simp (disch := decide) only [BitVec.extractLsb'_append_eq_of_le, BitVec.extractLsb'_eq_self, Nat.reduceSub]

/-! ### Emitting one result -/

/-- What the emission of one result has done before it lands: its registers are marked as written in this cycle, and its flags recorded. -/
def marked (s : State) (ag : Agent) (x : Result) (fl : Flags) : State :=
  recordFlags (s.modBank ag.bank fun b => { b with wrote := b.wrote ++ ([x].flatMap (resultRegs ag.kind)).map fun g => (ag.kind, g) }) ag.bank fl

section Emit
variable {s : State} {ag : Agent} {cls : Nat}

/-- A result of latency 1 lands at once (R121). -/
theorem emit_now (l : latencyOf s ag.bank cls ≤ 1) (x : Result) (fl : Flags) :
    emit s ag cls [x] fl = landResult (marked s ag x fl) ag.bank ag.kind x := by
  unfold emit
  dsimp only
  rw [if_pos l]
  rfl

/-- Any other one flies (R121). -/
theorem emit_later (l : 1 < latencyOf s ag.bank cls) (res : List Result) (fl : Flags) : emit s ag cls res fl =
    s.modBank ag.bank fun b => { b with fly := b.fly ++ [⟨ag.kind, latencyOf s ag.bank cls - 1, res, fl, s.cycle, false⟩] } := by
  unfold emit
  dsimp only
  rw [if_neg (Nat.not_le.mpr l)]

end Emit

theorem xflg_marked (s : State) (ag : Agent) (x : Result) (fl : Flags) :
    ((marked s ag x fl).bank ag.bank).sx.xflg = xflgAfter (s.bank ag.bank).sx.xflg fl := by
  rw [marked, xflg_recordFlags, State.bank_modBank_same]

/-! ### The frame of an X-map result -/

/-- Nothing but the destination of an X-map result, the results in flight and XFLG of its bank lies between two states, as far as registers, rooms,
tenants and memories are concerned (R167). -/
structure XFrame (x : Result) (s t : State) (u : SuiteId) (b : Fin 2) : Prop where
  tiles : ∀ d : Fin 48, (∀ v, x ≠ .tile d v false) → (t.suite u).tiles.get d = (s.suite u).tiles.get d
  masks : ∀ m : Fin 8, (∀ v, x ≠ .mask m v) → (t.suite u).masks.get m = (s.suite u).masks.get m
  e : ∀ n : BitVec 4, (∀ v, x ≠ .e n v) → readE t ⟨.bank u b, .x⟩ n = readE s ⟨.bank u b, .x⟩ n
  flags : (t.suite u).flags = (s.suite u).flags
  a : (t.bank (.bank u b)).a = (s.bank (.bank u b)).a
  rooms : t.rooms = s.rooms
  tenants : t.tenants = s.tenants
  mem : t.pkg.mem = s.pkg.mem
  ls : ∀ v, (t.suite v).ls = (s.suite v).ls
  otherTiles : ∀ v, v ≠ u → (t.suite v).tiles = (s.suite v).tiles
  otherBanks : ∀ q, q ≠ .bank u b → t.bank q = s.bank q

section Frame
variable {x : Result} {s y z : State} {u : SuiteId} {b : Fin 2}

theorem XFrame.trans (h : XFrame x s y u b) (g : XFrame x y z u b) : XFrame x s z u b where
  tiles d n := (g.tiles d n).trans (h.tiles d n)
  masks m n := (g.masks m n).trans (h.masks m n)
  e k n := (g.e k n).trans (h.e k n)
  flags := g.flags.trans h.flags
  a := g.a.trans h.a
  rooms := g.rooms.trans h.rooms
  tenants := g.tenants.trans h.tenants
  mem := g.mem.trans h.mem
  ls v := (g.ls v).trans (h.ls v)
  otherTiles v n := (g.otherTiles v n).trans (h.otherTiles v n)
  otherBanks q n := (g.otherBanks q n).trans (h.otherBanks q n)

/-- An issue changes no register (R167). -/
theorem xFrame_issue (h : Bookkeeping s y ⟨.bank u b, .x⟩) : XFrame x s y u b where
  tiles d _ := by rw [Suite.kept_tiles (h.1.suites u)]
  masks m _ := by rw [Suite.kept_masks (h.1.suites u)]
  e n _ := by simp only [readE, h.2.e]
  flags := Suite.kept_flags (h.1.suites u)
  a := h.2.a
  rooms := h.1.rooms
  tenants := h.1.tenants
  mem := by rw [h.1.pkg]
  ls v := Suite.kept_ls (h.1.suites v)
  otherTiles v _ := Suite.kept_tiles (h.1.suites v)
  otherBanks := h.1.others

/-- So does a change of the bank that leaves its a registers, and the e registers that are no destination. -/
theorem xFrame_modBank (s : State) (f : Bank → Bank) (ha : (f (s.bank (.bank u b))).a = (s.bank (.bank u b)).a)
    (he : ∀ n : BitVec 4, (∀ v, x ≠ .e n v) →
      (f (s.bank (.bank u b))).e.get ⟨n.toNat, n.isLt⟩ = (s.bank (.bank u b)).e.get ⟨n.toNat, n.isLt⟩) :
    XFrame x s (s.modBank (.bank u b) f) u b := by
  have kept := fun v => State.suite_setBank_kept s (.bank u b) (f (s.bank (.bank u b))) v
  exact {
    tiles := fun d _ => congrArg (Vector.get · d) (Suite.kept_tiles (kept u))
    masks := fun m _ => congrArg (Vector.get · m) (Suite.kept_masks (kept u))
    e := fun n other => by simp only [readE, State.bank_modBank_same, he n other]
    flags := Suite.kept_flags (kept u)
    a := by rw [State.bank_modBank_same, ha]
    rooms := by simp
    tenants := by simp
    mem := by simp
    ls := fun v => Suite.kept_ls (kept v)
    otherTiles := fun v _ => Suite.kept_tiles (kept v)
    otherBanks := fun q n => State.bank_setBank_ne _ _ _ _ n.symm }

theorem xFrame_marked (s : State) (fl : Flags) : XFrame x s (marked s ⟨.bank u b, .x⟩ x fl) u b := by
  unfold marked recordFlags
  split
  · exact xFrame_modBank s _ rfl fun _ _ => rfl
  · exact (xFrame_modBank s _ rfl fun _ _ => rfl).trans (xFrame_modBank _ _ rfl fun _ _ => rfl)

theorem xFrame_tile (s : State) (d : Fin 48) (v : Tile) : XFrame (.tile d v false) s (setTile s u d v) u b where
  tiles k other := by rw [tiles_setTile, if_neg fun same => other v (by rw [same])]
  masks _ _ := by simp [setTile]
  e n _ := by simp only [readE, bank_setTile]
  flags := by simp [setTile]
  a := by rw [bank_setTile]
  rooms := rfl
  tenants := rfl
  mem := rfl
  ls w := by by_cases same : u = w <;> simp [setTile, same]
  otherTiles w other := by simp [setTile, other.symm]
  otherBanks q _ := bank_setTile ..

theorem xFrame_mask (s : State) (m : Fin 8) (v : Mask) :
    XFrame (.mask m v) s (s.modSuite u fun y => { y with masks := y.masks.set m.val v m.isLt }) u b where
  tiles _ _ := by simp
  masks k other := by rw [masks_setMask, if_neg fun same => other v (by rw [same])]
  e n _ := by simp only [readE, State.bank_modSuite]
  flags := by simp
  a := by rw [State.bank_modSuite s _ _ rfl]
  rooms := rfl
  tenants := rfl
  mem := rfl
  ls w := by by_cases same : u = w <;> simp [same]
  otherTiles w other := by simp [other.symm]
  otherBanks q _ := State.bank_modSuite s _ _ rfl q

theorem xFrame_e (s : State) (d : BitVec 4) (v : Word) : XFrame (.e d v) s (writeE s ⟨.bank u b, .x⟩ d v) u b :=
  xFrame_modBank s _ rfl fun n other => (vget_set_bv (k := 4) _ d n v).trans (if_neg fun same => other v (by rw [same]))

/-- The three kinds of results of the X-map arithmetic. -/
def IsArithmetic (x : Result) : Prop := (∃ d v, x = .tile d v false) ∨ (∃ m v, x = .mask m v) ∨ (∃ d v, x = .e d v)

theorem xFrame_landResult (h : IsArithmetic x) (s : State) : XFrame x s (landResult s (.bank u b) .x x) u b := by
  obtain ⟨d, v, rfl⟩ | ⟨m, v, rfl⟩ | ⟨d, v, rfl⟩ := h
  · exact xFrame_tile s d v
  · exact xFrame_mask s m v
  · exact xFrame_e s d v

theorem xFrame_emit (h : IsArithmetic x) (s : State) (cls : Nat) (fl : Flags) : XFrame x s (emit s ⟨.bank u b, .x⟩ cls [x] fl) u b := by
  by_cases l : latencyOf s (.bank u b) cls ≤ 1
  · rw [emit_now (ag := ⟨.bank u b, .x⟩) l]
    exact (xFrame_marked s fl).trans (xFrame_landResult h _)
  · rw [emit_later (ag := ⟨.bank u b, .x⟩) (Nat.not_le.mp l)]
    exact xFrame_modBank s _ rfl fun _ _ => rfl

end Frame

/-! ### The end of a cycle for one register result -/

/-- A register result loses no port and waits for no register (R121). -/
@[simp] theorem portTaken_register (s : State) (r : BankRef) (k : StreamKind) (left born : Nat) (d : BitVec 5) (v : Word) (fl : Flags) (var : Bool) :
    portTaken s r ⟨k, left, [.a d v], fl, born, var⟩ = false := by cases r <;> rfl

@[simp] theorem flightWaits_register (s : State) (r : BankRef) (k : StreamKind) (left born : Nat) (d : BitVec 5) (v : Word) (fl : Flags)
    (var : Bool) :
    flightWaits s r ⟨k, left, [.a d v], fl, born, var⟩ = false := rfl

/-- The turns of a cycle are no part of a bank. -/
theorem bank_turns (s : State) (l : List Turn) (r : BankRef) : ({ s with turns := l } : State).bank r = s.bank r := by cases r <;> rfl

theorem readA_turns (s : State) (l : List Turn) (r : BankRef) (n : BitVec 5) : readA { s with turns := l } ⟨r, .a⟩ n = readA s ⟨r, .a⟩ n := by
  simp only [readA, bank_turns, reduceCtorEq, false_and, if_false]

section Due
variable {s : State} {u : SuiteId} {b : Fin 2} {k : StreamKind} {left born : Nat} {d : BitVec 5} {v : Word} {var : Bool}

/-- What stands in flight after a cycle, before anything lands. -/
def unlanded (s : State) (u : SuiteId) (b : Fin 2) (l : List Flight) : State :=
  { s.modBank (.bank u b) fun x => { x with fly := l } with turns := [] }

theorem bank_unlanded (s : State) (u : SuiteId) (b : Fin 2) (l : List Flight) :
    (unlanded s u b l).bank (.bank u b) = { s.bank (.bank u b) with fly := l } :=
  (bank_turns ..).trans (State.bank_modBank_same ..)

theorem readA_unlanded (s : State) (u : SuiteId) (b : Fin 2) (l : List Flight) (n : BitVec 5) :
    readA (unlanded s u b l) ⟨.bank u b, .a⟩ n = readA s ⟨.bank u b, .a⟩ n := by
  simp only [readA, bank_unlanded, reduceCtorEq, false_and, if_false]

/-- While the core clock stands still a result of fixed latency stays (R291). -/
theorem landDue_stays (h : (s.bank (.bank u b)).fly = [⟨k, left, [.a d v], 0, born, var⟩]) (stopped : (s.suite u).stopped = true)
    (fixed : var = false) : (landDue s (.bank u b)).bank (.bank u b) = s.bank (.bank u b) := by
  subst fixed
  have stays : landDue s (.bank u b) = { unlanded s u b (s.bank (.bank u b)).fly with turns := s.turns } := by
    simp [landDue, unlanded, h, stopped, sortBorn]
  rw [stays, bank_turns, bank_unlanded]

/-- Otherwise one that is not due counts down. -/
theorem landDue_counts (h : (s.bank (.bank u b)).fly = [⟨k, left, [.a d v], 0, born, var⟩])
    (runs : (s.suite u).stopped = false ∨ var = true) (more : 0 < left) :
    (landDue s (.bank u b)).bank (.bank u b) = { s.bank (.bank u b) with fly := [⟨k, left - 1, [.a d v], 0, born, var⟩] } := by
  have later : (left == 0) = false := beq_eq_false_iff_ne.mpr more.ne'
  have counts : landDue s (.bank u b) = { unlanded s u b [⟨k, left - 1, [.a d v], 0, born, var⟩] with turns := s.turns } := by
    simp [landDue, unlanded, h, runs, later, sortBorn]
  rw [counts, bank_turns, bank_unlanded]

/-- A later write of the same cycle is kept over the result that lands (R121). -/
theorem landOne_register (s : State) (hk : k ≠ .chanter) : landOne s (.bank u b) ⟨k, 0, [.a d v], 0, born, var⟩ =
    if (s.bank (.bank u b)).wrote.contains (k, Reg.a d.toNat) then s else writeA s ⟨.bank u b, k⟩ d v := by
  have lands : landOne s (.bank u b) ⟨k, 0, [.a d v], 0, born, var⟩ = landResults s (.bank u b) k
      ([Result.a d v].filterMap (keepUnwritten (s.bank (.bank u b)).wrote k)) := rfl
  rw [lands]
  by_cases late : (s.bank (.bank u b)).wrote.contains (k, Reg.a d.toNat) = true
  · rw [if_pos late, List.filterMap_cons_none (by simpa [keepUnwritten, resultRegs, hk] using late)]
    rfl
  · rw [if_neg late, List.filterMap_cons_some (b := .a d v) (by simpa [keepUnwritten, resultRegs, hk] using late)]
    rfl

/-- And a due one lands. -/
theorem landDue_lands (h : (s.bank (.bank u b)).fly = [⟨k, 0, [.a d v], 0, born, var⟩]) (runs : (s.suite u).stopped = false ∨ var = true) :
    ∃ l, landDue s (.bank u b) = { landOne (unlanded s u b []) (.bank u b) ⟨k, 0, [.a d v], 0, born, var⟩ with turns := l } := by
  refine ⟨(landOne (unlanded s u b []) (.bank u b) ⟨k, 0, [.a d v], 0, born, var⟩).turns ++ s.turns, ?_⟩
  have halted : ¬ ((s.suite u).stopped = true ∧ var = false) := by
    rintro ⟨on, rfl⟩
    simp [on] at runs
  cases k <;> simp [landDue, unlanded, h, runs, halted, sortBorn, insertBorn]

/-- What the bank holds then: the value, unless a later instruction has written the register in the same cycle. -/
theorem landDue_register (h : (s.bank (.bank u b)).fly = [⟨k, 0, [.a d v], 0, born, var⟩]) (runs : (s.suite u).stopped = false ∨ var = true)
    (hk : k ≠ .chanter) :
    let late := (s.bank (.bank u b)).wrote.contains (k, Reg.a d.toNat)
    ((landDue s (.bank u b)).bank (.bank u b)).fly = [] ∧ ∀ n, readA (landDue s (.bank u b)) ⟨.bank u b, .a⟩ n =
      if n = d ∧ d ≠ 0 ∧ late = false then v else readA s ⟨.bank u b, .a⟩ n := by
  intro late
  obtain ⟨l, lands⟩ := landDue_lands h runs
  rw [lands, landOne_register _ hk, bank_unlanded, bank_turns]
  by_cases wrote : late = true
  · rw [if_pos wrote]
    refine ⟨by rw [bank_unlanded], fun n => ?_⟩
    rw [readA_turns, readA_unlanded, if_neg (by simp [wrote])]
  · rw [if_neg wrote, writeA_kind _ _ hk]
    refine ⟨by rw [fly_writeA _ ⟨.bank u b, .a⟩, bank_unlanded], fun n => ?_⟩
    rw [readA_turns, readA_writeA _ ⟨.bank u b, .a⟩ d n v (fun no => nomatch no), readA_unlanded]
    have named : (n = d ∧ (StreamKind.a = .chanter ∨ n ≠ 0)) ↔ (n = d ∧ d ≠ 0 ∧ late = false) := by
      simp only [reduceCtorEq, false_or, Bool.eq_false_iff.mpr wrote, and_true]
      exact and_congr_right fun same => by rw [same]
    simp only [named]

end Due

/-- Settles O33: one result is emitted and lands alone; what an issue and its landing leave is one frame; a single register result in flight stays,
counts down or lands; and a word that does not decode has the meaning that its error gives. -/
theorem resultsLand : Obligations.ResultsLand := by
  unfold Obligations.ResultsLand
  refine ⟨fun s u b k cls d e q m v tile mask fl hk => ?_, fun s w p cls x fl u b hq hc kinds => ?_,
    fun s u b k d v left born var => ?_, fun s m word f x k hf => ?_⟩
  · intro ag l now
    have walks : k ≠ .chanter := by obtain rfl | rfl := hk <;> exact fun no => nomatch no
    refine ⟨fun one => ⟨?_, ?_, ?_, ?_, ?_⟩, fun more r f => emit_later more [r] f, xflgAfter_sticky _ fl, xflgAfter_last _⟩
    · rw [show now (.a d v) 0 = emit s ag cls [.a d v] from rfl, (emit_a s ag cls d v fun no => absurd no walks).2.2.1 d]
      by_cases zero : d = 0
      · subst zero
        rw [if_neg (by simp [ag, walks]), if_pos rfl, readA_zero walks]
      · rw [if_pos ⟨one, rfl, .inr zero⟩, if_neg zero]
    · rw [show now (.e e v) 0 = _ from emit_now one _ _]
      exact (readE_writeE _ ag e e v).trans (if_pos rfl)
    · rw [show now (.tile q tile false) fl = _ from emit_now one _ _]
      exact (tiles_setTile _ u q q tile).trans (if_pos rfl)
    · rw [show now (.mask m mask) 0 = _ from emit_now one _ _]
      exact (masks_setMask _ u m m mask).trans (if_pos rfl)
    · rw [show now (.tile q tile false) fl = _ from emit_now one _ _]
      exact (congrArg (fun x : Bank => x.sx.xflg) (bank_setTile ..)).trans (xflg_marked s ag _ fl)
  · intro t
    have walks : s.cur.kind ≠ .drain := by rw [hc]; exact fun no => nomatch no
    have issue : Bookkeeping s (issued s w p) s.cur := complete_bookkeeping s s.cur w p walks (quietFor_of_quiet hq)
    have frame : XFrame x s (emit (issued s w p) s.cur cls [x] fl) u b := by
      rw [hc] at issue ⊢
      exact (xFrame_issue issue).trans (xFrame_emit kinds _ cls fl)
    exact ⟨frame.tiles, frame.masks, by rw [hc]; exact frame.e, frame.flags, by rw [hc]; exact frame.a, frame.rooms, frame.tenants, frame.mem,
      frame.ls, frame.otherTiles, by rw [hc]; exact frame.otherBanks⟩
  · intro r late hk h
    have walks : k ≠ .chanter := by obtain rfl | rfl := hk <;> exact fun no => nomatch no
    refine ⟨fun stopped fixed => ⟨_, rfl, ?_⟩, fun runs more => ⟨_, rfl, ?_⟩, fun runs due => ⟨_, rfl, ?_⟩⟩
    · have bank := landDue_stays h stopped fixed
      exact ⟨congrArg Bank.fly bank, congrArg Bank.a bank⟩
    · have bank := landDue_counts h runs more
      exact ⟨congrArg Bank.fly bank, (congrArg Bank.a bank).trans rfl⟩
    · subst due
      exact landDue_register h runs walks
  · intro i
    have run : exec i s = execUnassignedEncoding m word s := rfl
    simp only [run, execUnassignedEncoding, hf]
    refine ⟨fun bad walks => ?_, fun bad walks => ?_, fun e bad row => ?_, fun j good => ?_⟩
    · simp only [bad, walks, if_false]; rfl
    · simp only [bad, walks, if_false]; rfl
    · cases e <;> simp only [bad, row, if_true]
    · simp only [good]

end Sys2Proof.Machine
end

section
/-! PROOFS. What an integer instruction leaves alone: the registers but its destination, the semaphores that its wait field does not name, the other
stream of its bank, and the rest of the machine (R128-R131). -/

namespace Sys2Proof.Machine

/-! ### The destination of an issuing chanter -/

/-- A chanter line that issues an instruction with a checked destination names one of c0-c7 (R44, R119). -/
theorem chanterDest_of_free {s : State} {i : Instr} {w : BitVec 4} (h : free s i w = true) (nh : ∀ x, i ≠ .hint x) {d : BitVec 5}
    (hd : i.chanterDest = some d) (k : s.cur.kind = .chanter) : 24 ≤ d.toNat := by
  obtain ⟨-, -, refused, -⟩ := (stage1_none nh).mp (free_iff.mp h).1
  simpa [regRefused, hd, k] using (Bool.or_eq_false_iff.mp refused).2

theorem chanterDest_integer {i : Instr} (hi : i.isInteger = true) : i.chanterDest = i.aRegs.head? := if_pos hi

theorem integer_not_hint {i : Instr} (hi : i.isInteger = true) (x : BitVec 25) : i ≠ .hint x := by
  rintro rfl
  exact Bool.noConfusion hi

/-! ### The streams of a bank through an issue -/

/-- The stream of a bank that an agent does not use. -/
def Bank.otherStream (b : Bank) (k : StreamKind) : Stream := if k = .x then b.sa else b.sx

/-- Between two states the agent's bank keeps its other stream. -/
def SameOther (s t : State) (ag : Agent) : Prop := (t.bank ag.bank).otherStream ag.kind = (s.bank ag.bank).otherStream ag.kind

theorem SameOther.trans {s t v : State} {ag : Agent} (h : SameOther s t ag) (g : SameOther t v ag) : SameOther s v ag := Eq.trans g h

theorem sameOther_of_bank {s t : State} {ag : Agent} (h : t.bank ag.bank = s.bank ag.bank) : SameOther s t ag := by rw [SameOther, h]

theorem sameOther_modBank (s : State) (ag : Agent) {f : Bank → Bank}
    (h : (f (s.bank ag.bank)).otherStream ag.kind = (s.bank ag.bank).otherStream ag.kind) : SameOther s (s.modBank ag.bank f) ag := by
  rw [SameOther, State.bank_modBank_same, h]

theorem sameOther_modStream (s : State) (ag : Agent) (f : Stream → Stream) : SameOther s (s.modStream ag f) ag :=
  sameOther_modBank s ag (by cases ag.kind <;> rfl)

theorem sameOther_settleFence (s : State) (ag : Agent) : SameOther s (settleFence s ag.bank) ag := by
  have ended : SameOther s (s.modBank ag.bank fun b => { b with fence := none }) ag := sameOther_modBank s ag rfl
  unfold settleFence
  split
  · rfl
  · split
    · rfl
    · split
      · split
        · exact ended.trans (sameOther_of_bank (bank_l1Clear ..))
        · exact ended
      · exact ended

theorem sameOther_semTake (s : State) (ag : Agent) (w : BitVec 4) : SameOther s (semTake s ag w) ag := by
  unfold semTake
  split
  · exact sameOther_modStream s ag _
  · rfl

theorem sameOther_endWait {s : State} {ag : Agent} (p : Plan) (q : quietFor s ag) : SameOther s (endWait s ag p) ag := by
  unfold endWait
  split
  · rfl
  · rw [waitRecord_quiet _ _ _ _ _ _ q]
    exact sameOther_modStream s ag _

theorem sameOther_setLastMode (s : State) (ag : Agent) (m : Bool) : SameOther s (setLastMode s ag m) ag := by
  unfold setLastMode
  split
  · exact sameOther_of_bank (State.bank_modSuite s _ _ rfl _)
  · exact sameOther_modStream s ag _

theorem sameOther_usePort (s : State) (ag : Agent) : SameOther s (usePort s ag) ag := by
  unfold usePort
  split
  · rfl
  · split
    · exact sameOther_of_bank (State.bank_modSuite s _ _ rfl _)
    · rfl

theorem sameOther_beforeMove {s : State} {ag : Agent} (w : BitVec 4) (p : Plan) (q : quietFor s ag) :
    SameOther s (beforeMove s ag w p) ag := by
  have quiet : quietFor (settleFence (semTake s ag w) ag.bank) ag :=
    quietFor_keep ((semTake_bookkeeping s ag w).trans (settleFence_bookkeeping _ ag)).1 q
  exact ((((sameOther_semTake s ag w).trans (sameOther_settleFence _ ag)).trans (sameOther_endWait p quiet)).trans
    (sameOther_setLastMode _ ag _)).trans ((sameOther_of_bank ((counted_countEvents ..).bank _)).trans (sameOther_usePort _ ag))

theorem sameOther_setPos (s : State) {ag : Agent} (p : Nat) (h : ag.kind ≠ .drain) : SameOther s (setPos s ag p) ag := by
  unfold setPos
  split
  · exact sameOther_of_bank (State.bank_modSuite s _ _ rfl _)
  next drain => exact absurd drain h
  · exact sameOther_modStream s ag _

theorem sameOther_advance {s : State} {ag : Agent} (words : Nat) (h : ag.kind ≠ .drain) (q : quietFor s ag) :
    SameOther s (advance s ag words) ag := by
  unfold advance
  dsimp only
  split
  · exact sameOther_setPos s _ h
  · have moved : OnlyIssue s (s.modStream ag fun _ => { (loopEnd (posOf s ag) (sequential s ag words) 6 (s.stream ag)).2.1 with
        pos := (loopEnd (posOf s ag) (sequential s ag words) 6 (s.stream ag)).1 }) ag :=
      onlyIssue_modStream s ag _ (Eq.trans rfl (loopEnd_kept _ _ 6 (s.stream ag)))
    rw [loopIterations_quiet ag _ (quietFor_keep moved q)]
    exact sameOther_modStream s ag _

theorem aOrX_of_walks {k : StreamKind} (drain : k ≠ .drain) (chanter : k ≠ .chanter) : k = .a ∨ k = .x := by
  cases k <;> simp_all

section Issued
variable {s : State} {w : BitVec 4} {p : Plan} (q : quiet s = true) (h : s.cur.kind ≠ .drain)
include q h

/-- An issue leaves the other stream of its bank. -/
theorem sameOther_issued : SameOther s (issued s w p) s.cur := by
  have before := sameOther_beforeMove w p (quietFor_of_quiet q)
  have frame := (beforeMove_bookkeeping w p (quietFor_of_quiet q)).1
  rw [issued_eq]
  split
  · exact before.trans (sameOther_setPos _ _ h)
  · exact before.trans (sameOther_advance _ h (quietFor_keep frame (quietFor_of_quiet q)))

/-- Every stream that issues takes the semaphore of the wait field from its set alone, the chanter from the A-stream's (R44, R108). -/
theorem sems_issued_of_walks : ((issued s w p).stream s.cur).sems = ((s.stream s.cur).taken w).sems := by
  by_cases k : s.cur.kind = .chanter
  · have moves : ∀ (t : State) n, (setPos t s.cur n).stream s.cur = t.stream s.cur := fun t n => by
      simp only [setPos, k]
      exact congrArg (Bank.stream · s.cur.kind) (State.bank_modSuite t _ _ rfl _)
    have goes : ∀ (t : State) n, (advance t s.cur n).stream s.cur = t.stream s.cur := fun t n => by
      rw [advance, if_pos (.inl k), moves]
    have before : (beforeMove s s.cur w p).stream s.cur = (s.stream s.cur).taken w := by
      have mode : ∀ (t : State) m, (setLastMode t s.cur m).stream s.cur = t.stream s.cur := fun t m => by
        rw [setLastMode, if_pos k]
        exact congrArg (Bank.stream · s.cur.kind) (State.bank_modSuite t _ _ rfl _)
      have waits : ∀ t, endWait t s.cur p = t := fun t => if_pos (.inr k)
      rw [beforeMove, stream_usePort, stream_countEvents, mode, waits, stream_settleFence, stream_semTake]
    rw [issued_eq]
    split
    · rw [moves, before]
    · rw [goes, before]
  · exact sems_issued q (aOrX_of_walks h k)

/-- A semaphore that the wait field does not name keeps its count. -/
theorem sem_issued_unnamed {n : BitVec 3} (other : w.getLsbD 3 = true → w.setWidth 3 ≠ n) :
    ((issued s w p).stream s.cur).sems.get ⟨n.toNat, n.isLt⟩ = (s.stream s.cur).sems.get ⟨n.toNat, n.isLt⟩ := by
  rw [sems_issued_of_walks q h, sems_taken, if_neg fun named => other named.1 named.2, sub_zero]

end Issued

/-! ### The landing of an address register -/

/-- A write of an address register leaves the streams of its bank. -/
theorem streams_writeA (s : State) (ag : Agent) (d : BitVec 5) (v : Word) :
    ((writeA s ag d v).bank ag.bank).sa = (s.bank ag.bank).sa ∧ ((writeA s ag d v).bank ag.bank).sx = (s.bank ag.bank).sx := by
  unfold writeA
  split
  · rw [State.bank_modSuite s _ _ rfl]
    exact ⟨rfl, rfl⟩
  · split
    · exact ⟨rfl, rfl⟩
    · simp only [State.bank_modBank_same, and_self]

theorem streams_emit_a (s : State) (ag : Agent) (cls : Nat) (d : BitVec 5) (v : Word) :
    ((emit s ag cls [.a d v]).bank ag.bank).sa = (s.bank ag.bank).sa ∧ ((emit s ag cls [.a d v]).bank ag.bank).sx = (s.bank ag.bank).sx := by
  by_cases l : latencyOf s ag.bank cls ≤ 1
  · rw [emit_now l]
    have write := streams_writeA (marked s ag (.a d v) 0) ag d v
    simpa only [marked, recordFlags, if_true, State.bank_modBank_same, landResult] using write
  · rw [emit_later (Nat.not_le.mp l)]
    simp only [State.bank_modBank_same, and_self]

/-! ### One register result, or one divide -/

/-- A bank without its registers, what an issue moves in it, and its divides under way. -/
def Bank.keptButDivs (b : Bank) : Bank := { b.kept with divs := [] }

/-- Nothing but register d, the results in flight and one more divide for d lies between two states. -/
structure OneResult (s t : State) (ag : Agent) (d : BitVec 5) : Prop where
  reads : ∀ n, n ≠ d → readA t ag n = readA s ag n
  zero : readA t ag 0 = readA s ag 0
  e : (t.bank ag.bank).e = (s.bank ag.bank).e
  c : ag.kind ≠ .chanter → ∀ u, (t.suite u).chanter.c = (s.suite u).chanter.c
  sa : (t.bank ag.bank).sa = (s.bank ag.bank).sa
  sx : (t.bank ag.bank).sx = (s.bank ag.bank).sx
  bank : (t.bank ag.bank).keptButDivs = (s.bank ag.bank).keptButDivs
  divs : (t.bank ag.bank).divs = (s.bank ag.bank).divs ∨ ∃ v, v.d = d ∧ (t.bank ag.bank).divs = (s.bank ag.bank).divs ++ [v]
  pkg : t.pkg = s.pkg
  rooms : t.rooms = s.rooms
  tenants : t.tenants = s.tenants
  inputs : t.inputs = s.inputs
  suites : ∀ u, (t.suite u).kept = (s.suite u).kept
  ctxs : ∀ c, (t.ctx c).kept = (s.ctx c).kept
  others : ∀ r, r ≠ ag.bank → t.bank r = s.bank r

/-- A register result reads back at most in its own register, and never in a0, which no chanter line can name (R43, R44). -/
theorem oneResult_emit (s : State) (ag : Agent) (cls : Nat) (d : BitVec 5) (v : Word) (h : ag.kind = .chanter → 24 ≤ d.toNat) :
    OneResult s (emit s ag cls [.a d v]) ag d := by
  obtain ⟨frame, e, reads, c, -⟩ := emit_a s ag cls d v h
  obtain ⟨sa, sx⟩ := streams_emit_a s ag cls d v
  have zero : ¬ (latencyOf s ag.bank cls ≤ 1 ∧ 0 = d ∧ (ag.kind = .chanter ∨ (0 : BitVec 5) ≠ 0)) := by
    rintro ⟨-, rfl, k | k⟩
    · exact absurd (h k) (by decide)
    · exact k rfl
  exact {
    reads := fun n other => (reads n).trans (if_neg fun hit => other hit.2.1)
    zero := (reads 0).trans (if_neg zero)
    e, c, sa, sx
    bank := congrArg (fun b : Bank => { b with divs := [] }) frame.bank
    divs := .inl (Bank.kept_divs frame.bank)
    pkg := frame.pkg
    rooms := frame.rooms
    tenants := frame.tenants
    inputs := frame.inputs
    suites := frame.suites
    ctxs := frame.ctxs
    others := frame.others }

/-- A divide that goes under way changes no register yet (R129). -/
theorem oneResult_divide (s : State) (ag : Agent) (v : DivOp) :
    OneResult s (s.modBank ag.bank fun b => { b with divs := b.divs ++ [v] }) ag v.d := by
  have chanter : ∀ u, ((s.modBank ag.bank fun b => { b with divs := b.divs ++ [v] }).suite u).chanter = (s.suite u).chanter :=
    fun _ => State.chanter_setBank ..
  have reads : ∀ n, readA (s.modBank ag.bank fun b => { b with divs := b.divs ++ [v] }) ag n = readA s ag n :=
    readA_congr (by rw [State.bank_modBank_same]) (congrArg Chanter.c (chanter _))
  exact {
    reads := fun n _ => reads n
    zero := reads 0
    e := by rw [State.bank_modBank_same]
    c := fun _ u => congrArg Chanter.c (chanter u)
    sa := by rw [State.bank_modBank_same]
    sx := by rw [State.bank_modBank_same]
    bank := by rw [State.bank_modBank_same]; rfl
    divs := .inr ⟨v, rfl, by rw [State.bank_modBank_same]⟩
    pkg := by simp
    rooms := by simp
    tenants := by simp
    inputs := by simp
    suites := fun _ => State.suite_setBank_kept ..
    ctxs := fun _ => State.ctx_setBank_kept ..
    others := fun _ other => State.bank_setBank_ne _ _ _ _ other.symm }

/-- Settles O13: an integer instruction that is ready issues, and then writes one register or puts one divide under way. -/
theorem integerFrame : Obligations.IntegerFrame := by
  intro i d s hi hd ready q walks
  have dest : s.cur.kind = .chanter → 24 ≤ d.toNat :=
    chanterDest_of_free (ready_iff.mp ready).1 (integer_not_hint hi) ((chanterDest_integer hi).trans hd)
  have result : ∃ pl t, exec i s = .next t ∧ OneResult (issued s i.waitField pl) t s.cur d := by
    obtain ⟨pl, cls, v, run⟩ | ⟨pl, v, dn, n, run⟩ := exec_integer i d s hi hd ready
    · exact ⟨pl, _, run, oneResult_emit _ s.cur cls d v dest⟩
    · exact ⟨pl, _, run, oneResult_divide _ s.cur ⟨s.cur.kind, d, v, dn, n, s.cycle⟩⟩
  obtain ⟨pl, t, run, res⟩ := result
  obtain ⟨frame, regs⟩ : Bookkeeping s (issued s i.waitField pl) s.cur := complete_bookkeeping s s.cur _ pl walks (quietFor_of_quiet q)
  have reads := readA_congr regs.a (regs.c s.cur.suite)
  have pkg := res.pkg.trans frame.pkg
  have suites := fun u => (res.suites u).trans (frame.suites u)
  have other : SameOther s (issued s i.waitField pl) s.cur := sameOther_issued q walks
  have stream : ∀ k, (t.bank s.cur.bank).stream k = ((issued s i.waitField pl).bank s.cur.bank).stream k := fun k => by
    cases k with
    | x => exact res.sx
    | a | chanter | drain => exact res.sa
  refine ⟨t, run, fun n ne => (res.reads n ne).trans (reads n), res.zero.trans (reads 0), res.e.trans regs.e,
    fun k u => (res.c k u).trans (regs.c u), fun a => by rw [pkg], fun u a => by rw [Suite.kept_ls (suites u)],
    fun k => (congrArg Stream.kept (stream k)).trans (frame.stream k), fun n unnamed => ?_, fun x => ?_, fun x => ?_,
    res.bank.trans (congrArg (fun b : Bank => { b with divs := [] }) frame.bank), ?_, pkg, res.rooms.trans frame.rooms,
    res.tenants.trans frame.tenants, res.inputs.trans frame.inputs, fun r ne => (res.others r ne).trans (frame.others r ne), suites,
    fun c => (res.ctxs c).trans (frame.ctxs c)⟩
  · exact (congrArg (fun x : Stream => x.sems.get _) (stream s.cur.kind)).trans (sem_issued_unnamed q walks unnamed)
  · exact res.sa.trans (by simpa only [SameOther, Bank.otherStream, x, if_true] using other)
  · exact res.sx.trans (by simpa only [SameOther, Bank.otherStream, x, if_false] using other)
  · rw [← Bank.kept_divs frame.bank]
    exact res.divs

end Sys2Proof.Machine
end

section
/-! PROOFS. LDL and STL: their waits and traps, what they read and write, and what the streams that issue them leave alone (R143, R144, R204). -/

namespace Sys2Proof.Machine

/-! ### The checks of an address -/

/-- A range of the Local Store lies in the scratchpad, below bit 23 (R55, R144). -/
def lsInside (s : State) (u : SuiteId) (a n : Nat) : Prop := a < 2 ^ 23 ∧ a + n ≤ 0x800000 - (s.suite u).l1mib.toNat * 0x100000

theorem lsTrap_misaligned {s : State} {u : SuiteId} {a : Word} {align : Nat} (n : Nat) (narrow : a.toNat < 2 ^ 23) (m : a.toNat % align ≠ 0) :
    lsTrap s u a align n = some (cMISALIGN, 0) := by
  rw [lsTrap, if_neg (by rw [Nat.div_eq_of_lt narrow]; exact not_not.mpr rfl), if_pos m]

theorem lsTrap_outside {s : State} {u : SuiteId} {a : Word} {align n : Nat} (m : a.toNat % align = 0) (out : ¬ lsInside s u a.toNat n) :
    lsTrap s u a align n = some (cPROT, 0) := by
  unfold lsTrap
  by_cases wide : a.toNat / 2 ^ 23 ≠ 0
  · rw [if_pos wide]
  · have narrow : a.toNat < 2 ^ 23 := by omega
    have beyond : inScratch (s.suite u) a.toNat n = false := decide_eq_false fun fits => out ⟨narrow, fits⟩
    rw [if_neg wide, if_neg (not_not.mpr m), beyond]
    rfl

/-! ### At issue -/

section Access
variable {d s1 : BitVec 5} {size : BitVec 2} {sgn : BitVec 1} {w : BitVec 4} {s : State} {i : Instr}

/-- An acquire of the A-stream that has not performed holds its LDL and STL (R143). -/
theorem localStore_held (which : i = .ldl d s1 size sgn w ∨ i = .stl d s1 size w) (h : free s i w = true) (a : s.cur.kind = .a)
    (p : acquirePending (s.bank s.cur.bank) = true) : exec i s = .next (markHeld s s.cur ⟨false, false⟩) := by
  obtain rfl | rfl := which
  · exact issue_waits h (by rw [lsHold_eq_some a p]; rfl)
  · exact issue_waits h (lsHold_eq_some a p)

variable (idle : ¬ (s.cur.kind = .a ∧ acquirePending (s.bank s.cur.bank) = true))
include idle

theorem ldl_hold (unfed : touchesFed s s.cur.suite (readA s s.cur s1).toNat (2 ^ size.toNat) = false) :
    (lsHold s s.cur).or (fedReadHold s s.cur.suite (readA s s.cur s1).toNat (2 ^ size.toNat)) = none := by
  rw [lsHold_eq_none idle, fedReadHold_eq_none unfed]
  rfl

/-- A failed check of the address traps (R144, R368). -/
theorem localStore_traps (which : i = .ldl d s1 size sgn w ∨ i = .stl d s1 size w) (h : free s i w = true)
    (unfed : touchesFed s s.cur.suite (readA s s.cur s1).toNat (2 ^ size.toNat) = false) {c : BitVec 8}
    (check : lsTrap s s.cur.suite (readA s s.cur s1) (2 ^ size.toNat) (2 ^ size.toNat) = some (c, 0)) :
    trapsAs s i c 0 (posOf s s.cur) := by
  obtain rfl | rfl := which
  · exact trapsAs_plan rfl h (ldl_hold idle unfed) check rfl
  · exact trapsAs_plan rfl h (lsHold_eq_none idle) (congrArg (Option.or · _) check) rfl

variable (aligned : (readA s s.cur s1).toNat % 2 ^ size.toNat = 0)
  (inside : lsInside s s.cur.suite (readA s s.cur s1).toNat (2 ^ size.toNat))
include aligned inside

omit idle in
theorem stl_check : (lsTrap s s.cur.suite (readA s s.cur s1) (2 ^ size.toNat) (2 ^ size.toNat)).or
      (if touchesFed s s.cur.suite (readA s s.cur s1).toNat (2 ^ size.toNat) then some (cBANKCF, 0) else none) =
    if touchesFed s s.cur.suite (readA s s.cur s1).toNat (2 ^ size.toNat) then some (cBANKCF, 0) else none := by
  rw [lsTrap_eq_none aligned inside.2 inside.1, Option.none_or]

/-- STL into a bank group that a nest feeds traps BANKCF (R204). -/
theorem stl_fed_traps (h : free s (.stl d s1 size w) w = true)
    (fed : touchesFed s s.cur.suite (readA s s.cur s1).toNat (2 ^ size.toNat) = true) :
    trapsAs s (.stl d s1 size w) 0x40 0 (posOf s s.cur) :=
  trapsAs_plan rfl h (lsHold_eq_none idle) ((stl_check aligned inside).trans (if_pos fed)) rfl

variable (unfed : touchesFed s s.cur.suite (readA s s.cur s1).toNat (2 ^ size.toNat) = false)
include unfed

/-- LDL reads at issue and writes a[d] with class C3 (R144). -/
theorem exec_ldl_reads (h : ready s (.ldl d s1 size sgn w) w = true) : exec (.ldl d s1 size sgn w) s =
    .next (emit (issued s w) s.cur 3
      [.a d (loadValue size (sgn == 1) (lsRead s s.cur.suite (readA s s.cur s1).toNat (2 ^ size.toNat)))]) :=
  issue_next h (ldl_hold idle unfed) (lsTrap_eq_none aligned inside.2 inside.1)

/-- STL writes the low bytes of a[d] at issue (R144). -/
theorem exec_stl_writes (h : ready s (.stl d s1 size w) w = true) : exec (.stl d s1 size w) s =
    .next (lsWrite (issued s w) s.cur.suite (readA s s.cur s1).toNat (leBytes (2 ^ size.toNat) (readA s s.cur d).toNat)) :=
  issue_next h (lsHold_eq_none idle) ((stl_check aligned inside).trans (if_neg (by rw [unfed]; exact Bool.false_ne_true)))

end Access

/-! ### The frame -/

/-- A Suite without its Local Store. -/
def Suite.noLs (x : Suite) : Suite := { x with ls := [] }

theorem noLs_modSuite (s : State) (u v : SuiteId) (f : Memory → Memory) :
    ((s.modSuite u fun x => { x with ls := f x.ls }).suite v).noLs = (s.suite v).noLs := by
  rw [State.suite_modSuite]
  split
  next e => subst e; rfl
  next => rfl

/-- A write to a Local Store leaves the rest of every Suite, and the rooms and contexts. -/
theorem noLs_filled (u v : SuiteId) : ∀ (l : List Nat) (s : State), ((filled u s l).suite v).noLs = (s.suite v).noLs
  | [], _ => rfl
  | x :: l, s => (noLs_filled u v l _).trans (noLs_modSuite s u v fun m => memWrite m (x * 64) (List.replicate 64 0xff))

theorem noLs_lsWrite (s : State) (u v : SuiteId) (a : Nat) (bs : List Byte) : ((lsWrite s u a bs).suite v).noLs = (s.suite v).noLs := by
  rw [lsWrite_eq, noLs_modSuite _ u v fun m => memWrite m a bs, suite_cleared, noLs_filled]

theorem outside_filled (u : SuiteId) : ∀ (l : List Nat) (s : State), (filled u s l).rooms = s.rooms ∧ (filled u s l).ctxs = s.ctxs
  | [], _ => ⟨rfl, rfl⟩
  | _ :: l, _ => outside_filled u l _

theorem outside_lsWrite (s : State) (u : SuiteId) (a : Nat) (bs : List Byte) :
    (lsWrite s u a bs).rooms = s.rooms ∧ (lsWrite s u a bs).ctxs = s.ctxs := by
  rw [lsWrite_eq, cleared]
  split
  · exact outside_filled u _ s
  · exact outside_filled u _ s

theorem bank_lsWrite (s : State) (u : SuiteId) (a : Nat) (bs : List Byte) (r : BankRef) : (lsWrite s u a bs).bank r = s.bank r := by
  cases r with
  | ctx c => exact congrArg (fun v => Ctx.regs (Vector.get v c)) (outside_lsWrite s u a bs).2
  | bank v b =>
    have banks := congrArg (fun x : Suite => x.banks.get b) (noLs_lsWrite s u v a bs)
    exact banks

theorem chanter_lsWrite (s : State) (u v : SuiteId) (a : Nat) (bs : List Byte) :
    ((lsWrite s u a bs).suite v).chanter = (s.suite v).chanter := by
  have chanter := congrArg Suite.chanter (noLs_lsWrite s u v a bs)
  exact chanter

/-- Byte i of a little-endian value. -/
theorem getD_leBytes : ∀ (n v i : Nat), i < n → (leBytes n v).getD i 0 = BitVec.ofNat 8 (v / 256 ^ i)
  | _ + 1, v, 0, _ => by rw [leBytes, List.getD_cons_zero, pow_zero, Nat.div_one]
  | n + 1, v, i + 1, h => by
    rw [leBytes, List.getD_cons_succ, getD_leBytes n (v / 256) i (Nat.lt_of_succ_lt_succ h), Nat.div_div_eq_div_mul, pow_succ']

theorem length_leBytes : ∀ (n v : Nat), (leBytes n v).length = n
  | 0, _ => rfl
  | n + 1, v => by rw [leBytes, List.length_cons, length_leBytes n]

theorem getD_leBytes_word (x : Word) {n i : Nat} (h : i < n) : (leBytes n x.toNat).getD i 0 = (x >>> (8 * i)).setWidth 8 := by
  rw [getD_leBytes n x.toNat i h]
  apply BitVec.eq_of_toNat_eq
  rw [BitVec.toNat_ofNat, BitVec.toNat_setWidth, BitVec.toNat_ushiftRight, Nat.shiftRight_eq_div_pow,
    show 2 ^ (8 * i) = 256 ^ i from pow_mul 2 8 i]

/-- What an issue leaves of the Local Stores as they read. -/
theorem lsRead_congr {s t : State} (pkg : t.pkg = s.pkg) {u : SuiteId} (ls : (t.suite u).ls = (s.suite u).ls) (a n : Nat) :
    lsRead t u a n = lsRead s u a n := by
  have poison : ∀ b, lsPoisoned t u b = lsPoisoned s u b := fun b => by rw [lsPoisoned, pkg, lsPoisoned]
  simp only [lsRead, poison, ls]

section Frame
variable {d s1 : BitVec 5} {size : BitVec 2} {sgn : BitVec 1} {w : BitVec 4} {s : State}
  (idle : ¬ (s.cur.kind = .a ∧ acquirePending (s.bank s.cur.bank) = true))
  (aligned : (readA s s.cur s1).toNat % 2 ^ size.toNat = 0)
  (inside : lsInside s s.cur.suite (readA s s.cur s1).toNat (2 ^ size.toNat))
  (unfed : touchesFed s s.cur.suite (readA s s.cur s1).toNat (2 ^ size.toNat) = false)
  (q : quiet s = true) (walks : s.cur.kind ≠ .drain)
include idle aligned inside unfed q walks

/-- The LDL of a stream changes no register but a[d], no memory, room or other bank, and no byte of a Local Store (R144). -/
theorem ldl_frame (h : ready s (.ldl d s1 size sgn w) w = true) : answers (.ldl d s1 size sgn w) s fun t =>
    (∀ m, m ≠ d → readA t s.cur m = readA s s.cur m) ∧ (t.bank s.cur.bank).e = (s.bank s.cur.bank).e ∧ t.pkg = s.pkg ∧ t.rooms = s.rooms ∧
    (∀ r, r ≠ s.cur.bank → t.bank r = s.bank r) ∧ ∀ v b, lsRead t v b 1 = lsRead s v b 1 := by
  have dest : s.cur.kind = .chanter → 24 ≤ d.toNat := chanterDest_of_free (ready_iff.mp h).1 (fun _ => nofun) rfl
  obtain ⟨frame, regs⟩ : Bookkeeping s (issued s w) s.cur := complete_bookkeeping s s.cur w {} walks (quietFor_of_quiet q)
  have res := oneResult_emit (issued s w) s.cur 3 d
    (loadValue size (sgn == 1) (lsRead s s.cur.suite (readA s s.cur s1).toNat (2 ^ size.toNat))) dest
  have pkg := res.pkg.trans frame.pkg
  exact ⟨_, exec_ldl_reads idle aligned inside unfed h, fun m ne => (res.reads m ne).trans (readA_congr regs.a (regs.c _) m),
    res.e.trans regs.e, pkg, res.rooms.trans frame.rooms, fun r ne => (res.others r ne).trans (frame.others r ne),
    fun v b => lsRead_congr pkg (Suite.kept_ls ((res.suites v).trans (frame.suites v))) b 1⟩

/-- The STL of a stream changes no register, no memory, room or other bank, and only the bytes that it stores (R144). -/
theorem stl_frame (wf : ∀ v, (s.suite v).ls.wf = true) (h : ready s (.stl d s1 size w) w = true) : answers (.stl d s1 size w) s fun t =>
    (∀ m, readA t s.cur m = readA s s.cur m) ∧ (t.bank s.cur.bank).e = (s.bank s.cur.bank).e ∧ t.pkg.mem = s.pkg.mem ∧ t.rooms = s.rooms ∧
    (∀ r, r ≠ s.cur.bank → t.bank r = s.bank r) ∧ ∀ v b, lsRead t v b 1 =
      if v = s.cur.suite ∧ (readA s s.cur s1).toNat ≤ b ∧ b < (readA s s.cur s1).toNat + 2 ^ size.toNat then
        [(readA s s.cur d >>> (8 * (b - (readA s s.cur s1).toNat))).setWidth 8] else lsRead s v b 1 := by
  obtain ⟨frame, regs⟩ : Bookkeeping s (issued s w) s.cur := complete_bookkeeping s s.cur w {} walks (quietFor_of_quiet q)
  have ls := fun v => Suite.kept_ls (frame.suites v)
  refine ⟨_, exec_stl_writes idle aligned inside unfed h, fun m => ?_, by rw [bank_lsWrite, regs.e],
    (mem_cleared ..).trans (congrArg Package.mem frame.pkg), (outside_lsWrite ..).1.trans frame.rooms,
    fun r ne => by rw [bank_lsWrite, frame.others r ne], fun v b => ?_⟩
  · exact readA_congr (by rw [bank_lsWrite, regs.a]) (by rw [chanter_lsWrite, regs.c]) m
  · by_cases e : v = s.cur.suite
    · subst e
      rw [lsRead_lsWrite_same _ _ _ _ (by rw [ls]; exact wf _), length_leBytes, lsRead_congr frame.pkg (ls _)]
      simp only [true_and]
      split
      next hit => rw [getD_leBytes_word _ (by omega)]
      next => rfl
    · rw [lsRead_lsWrite_other _ _ _ _ e, lsRead_congr frame.pkg (ls _), if_neg fun hit => e hit.1]

end Frame

/-! ### The statement -/

/-- The statement speaks of every agent, that of the drain pipeline too, whose position is a part of a room. -/
def drainTurn : State := { State.reset with cur := ⟨.bank 0 0, .drain⟩ }

/-- Refutes O19: its frame has no premise that the agent is a stream. An LDL that the drain agent of room 0 issues after reset, at address 0, is
ready and moves that room's drain position, where the statement has every room as it was. For streams the frame holds: `ldl_frame`, `stl_frame`. -/
theorem not_localStoreAccess : ¬ Obligations.LocalStoreAccess := by
  intro h
  have quiet : quiet drainTurn = true := by decide
  have empty : ∀ v, (drainTurn.suite v).ls.wf = true := by decide
  have good : 0 % 2 ^ 0 = 0 ∧ 0 + 2 ^ 0 ≤ 0x800000 - (drainTurn.suite 0).l1mib.toNat * 0x100000 ∧ 0 < 2 ^ 23 ∧
      (drainTurn.cur.kind = .a → acquirePending (drainTurn.bank drainTurn.cur.bank) = false) ∧ touchesFed drainTurn 0 0 1 = false := by decide
  have ready : ready drainTurn (.ldl 1 2 0 0 0) 0 = true := by decide
  obtain ⟨t, run, -, -, -, rooms, -⟩ := (h.2 1 2 0 0 0 drainTurn quiet empty good).1 ready
  have still : (t.room 0).drainPos = 0 := by
    rw [State.room, rooms]
    decide
  have moved : (match exec (.ldl 1 2 0 0 0) drainTurn with | .next t => (t.room 0).drainPos | _ => 0) = 1 := by decide
  rw [run] at moved
  exact absurd (still.symm.trans moved) (by decide)

end Sys2Proof.Machine
end

section
/-! PROOFS. The queued accesses and the accumulator atomics at issue (R139-R142, R149-R155, R368). -/

namespace Sys2Proof.Machine

/-! ### The checks of a memory address -/

theorem vaTrap_sound {va : Word} {align : Nat} (low : va.toNat < 2 ^ 52) (m : va.toNat % align = 0) : vaTrap va align = none := by
  rw [vaTrap, if_neg (by omega), if_neg (not_not.mpr m)]

theorem vaTrap_high {va : Word} (align : Nat) (high : 2 ^ 52 ≤ va.toNat) : vaTrap va align = some (cSEGNP, va) := by
  rw [vaTrap, if_pos (by omega)]

theorem vaTrap_misaligned {va : Word} {align : Nat} (low : va.toNat < 2 ^ 52) (m : va.toNat % align ≠ 0) :
    vaTrap va align = some (cMISALIGN, va) := by
  rw [vaTrap, if_neg (by omega), if_pos m]

/-- What an access of a virtual address comes to once no wait holds it (R139, R368). -/
structure Accesses (s : State) (i : Instr) (w : BitVec 4) (va : Word) (align : Nat) (t : State) : Prop where
  goes : ready s i w = true → va.toNat < 2 ^ 52 → va.toNat % align = 0 → exec i s = .next t
  high : 2 ^ 52 ≤ va.toNat → trapsAs s i 0x20 va (posOf s s.cur)
  misaligned : va.toNat < 2 ^ 52 → va.toNat % align ≠ 0 → trapsAs s i 0x23 va (posOf s s.cur)

/-- An instruction whose plan checks an address, and has no wait now, is one. -/
theorem accesses_of_plan {s t : State} {i : Instr} {w : BitVec 4} {va : Word} {align : Nat} {p : State → Agent → Plan}
    (run : exec i s = issue i w p s) (h : free s i w = true) (hold : (p s s.cur).hold = none) (check : (p s s.cur).trap = vaTrap va align)
    (stays : (p s s.cur).retNext = false)
    (ends : (p s s.cur).act (issued s w { jump := (p s s.cur).jump, words := (p s s.cur).words, wait := (p s s.cur).wait }) = t) :
    Accesses s i w va align t where
  goes r low m := by rw [run, issue_next r hold (check.trans (vaTrap_sound low m)), ends]
  high far := trapsAs_plan run h hold (check.trans (vaTrap_high align far)) stays
  misaligned low m := trapsAs_plan run h hold (check.trans (vaTrap_misaligned low m)) stays

/-! ### Release stores -/

theorem storeHold_none {b : Bank} {ord : BitVec 2} (h : b.sq.all (fun e => !e.isDrnt) = true ∨ ord ≠ 2) :
    (if ord = 2 ∧ drntPending b = true then some holdPlain else none) = none := by
  refine if_neg ?_
  rintro ⟨release, pending⟩
  obtain ⟨e, mem, drnt⟩ := List.any_eq_true.mp pending
  have free : e.isDrnt = false := by simpa using List.all_eq_true.mp (h.resolve_right (not_not.mpr release)) e mem
  exact Bool.false_ne_true (free.symm.trans drnt)

theorem storeHold_some {b : Bank} {ord : BitVec 2} (pending : b.sq.any (fun e => e.isDrnt) = true) (release : ord = 2) :
    (if ord = 2 ∧ drntPending b = true then some holdPlain else none) = some ⟨false, false⟩ := if_pos ⟨release, pending⟩

/-! ### Atomics -/

/-- The checks of an AAT: its word's address, its tile in a dual Visit, and its number (R153, R155). -/
def aatCheck (x : Word) (dual : Bool) (ord : BitVec 1) (ahead : W32) : Option (BitVec 8 × Word) :=
  if x.toNat / 2 ^ 19 ≠ 0 then some (cPROT, 0)
  else if dual && decide (16 ≤ (x.extractLsb' 14 5).toNat) then some (cPROT, 0)
  else if ord = 1 ∧ 2 ^ 31 ≤ ahead.toNat then some (cORDSEQ, 0)
  else none

/-- No word of an accumulator that the Visit may name. -/
def aatBad (x : Word) (dual : Bool) : Prop := 2 ^ 19 ≤ x.toNat ∨ (dual = true ∧ 16 ≤ (x.extractLsb' 14 5).toNat)

section Check
variable {x : Word} {dual : Bool} {ord : BitVec 1} {ahead : W32}

theorem aatCheck_bad (bad : aatBad x dual) : aatCheck x dual ord ahead = some (0x22, 0) := by
  unfold aatCheck
  by_cases far : 2 ^ 19 ≤ x.toNat
  · rw [if_pos (by omega)]; rfl
  · obtain ⟨two, tile⟩ := bad.resolve_left far
    rw [if_neg (by omega), if_pos (by rw [two, decide_eq_true tile]; rfl)]
    rfl

theorem aatCheck_good (good : ¬ aatBad x dual) :
    aatCheck x dual ord ahead = if ord = 1 ∧ 2 ^ 31 ≤ ahead.toNat then some (cORDSEQ, 0) else none := by
  obtain ⟨near, tile⟩ := not_or.mp good
  have own : ¬ (dual && decide (16 ≤ (x.extractLsb' 14 5).toNat)) = true := by
    rw [Bool.and_eq_true, decide_eq_true_eq]
    exact tile
  rw [aatCheck, if_neg (by omega), if_neg own]

end Check

/-- An ordered AAT waits for a place in the buffer, and in a room whose clock stands still (R155, R288). -/
def aatHold (r : Room) (ord : BitVec 1) : Option Hold :=
  if ord = 1 ∧ (64 ≤ (r.atomics.filter (·.ordered)).length ∨ r.stopped = true) then some holdPlain else none

/-- What the plan of an AAT of a Suite stream says. -/
theorem exec_aat {d s1 s2 s3 : BitVec 5} {dn w : BitVec 4} {aop : BitVec 3} {ty ord : BitVec 1} {s : State} {u : SuiteId} {b : Fin 2}
    {k : StreamKind} (hag : s.cur = ⟨.bank u b, k⟩) :
    let x := readA s s.cur s1
    let q : W32 := (readA s s.cur s3).setWidth 32
    let atom : Atomic := ⟨tenantOf s s.cur.bank, k, b, d, dn, physAcc s s.cur.bank (x.extractLsb' 14 5).toNat,
      ⟨(x.extractLsb' 7 7).toNat, (x.extractLsb' 7 7).isLt⟩, ⟨(x.extractLsb' 0 7).toNat, (x.extractLsb' 0 7).isLt⟩,
      (readA s s.cur s2).setWidth 32, q, aop, ty == 1, ord == 1, false, s.cycle⟩
    let plan : Plan :=
      { words := 2, hold := aatHold (s.room u) ord, trap := aatCheck x (dualOf s s.cur.bank) ord (q - (s.room u).accseq),
        act := fun t => t.modRoom u fun r => { r with atomics := r.atomics ++ [atom] } }
    ∃ p, exec (.aat d s1 s2 dn s3 aop ty ord w) s = issue (.aat d s1 s2 dn s3 aop ty ord w) w p s ∧ p s s.cur = plan := by
  refine ⟨_, rfl, ?_⟩
  simp only [hag]
  rfl

/-- Settles O16: an access with an address has one check and one entry to queue; an AAT waits for its room first. -/
theorem accessesIssue : Obligations.AccessesIssue := by
  unfold Obligations.AccessesIssue
  refine ⟨fun d s1 s2 size sgn ord sub dn w s => ?_, fun d s1 s2 s3 dn aop ty ord w s u b k => ?_⟩
  · intro ag va queued access tmo
    have split : ∀ {i : Instr} {align : Nat} {t : State}, (free s i w = true → Accesses s i w va align t) → access i align t :=
      fun a h => ⟨(a h).goes, (a h).high, (a h).misaligned⟩
    have loads : ∀ op, pushEntry (issued s w) ag false op dn (posOf s ag) = queued false op := fun _ => pushEntry_load (cycle_issued ..)
    have stores : ∀ op, pushEntry (issued s w) ag true op dn (posOf s ag) = queued true op := fun _ => pushEntry_store (cycle_issued ..)
    refine ⟨split fun h => accesses_of_plan rfl h rfl rfl rfl (loads _), fun idle => split fun h =>
      accesses_of_plan rfl h (storeHold_none idle) rfl rfl (stores _), fun pending release h => issue_waits h (storeHold_some pending release),
      split fun h => accesses_of_plan rfl h rfl rfl rfl (loads _), fun r => ?_⟩
    exact (issue_next r rfl rfl).trans (congrArg Host.Outcome.next (stores _))
  · intro i ag x q tile atom full bad hag h
    obtain ⟨p, run, plan⟩ := exec_aat (d := d) (s1 := s1) (s2 := s2) (s3 := s3) (dn := dn) (w := w) (aop := aop) (ty := ty) (ord := ord) hag
    have stays : (p s ag).retNext = false := by rw [plan]
    refine ⟨fun one wait => ?_, fun go => ?_⟩
    · have hold : (p s ag).hold = some holdPlain := by rw [plan]; exact if_pos ⟨one, wait⟩
      rw [run, issue_waits h hold, plan]
      rfl
    have hold : (p s ag).hold = none := by
      rw [plan]
      refine if_neg ?_
      rintro ⟨one, wait⟩
      rcases go with zero | go
      · exact absurd (zero.symm.trans one) (by decide)
      · exact go wait
    refine ⟨fun no => ?_, fun good one behind => ?_, fun r good ahead => ?_⟩
    · exact trapsAs_plan run h hold (by rw [plan]; exact aatCheck_bad no) stays
    · exact trapsAs_plan run h hold (by rw [plan]; exact (aatCheck_good good).trans (if_pos ⟨one, behind⟩)) stays
    · have sound : (p s ag).trap = none := by
        rw [plan]
        refine (aatCheck_good good).trans (if_neg ?_)
        rintro ⟨one, behind⟩
        rcases ahead with zero | ahead
        · exact absurd (zero.symm.trans one) (by decide)
        · exact absurd ahead (Nat.not_lt.mpr behind)
      rw [run, issue_next r hold sound, plan]

end Sys2Proof.Machine
end

section
/-! PROOFS. TRAP, ERET and AMEM, and the return of a Steward stream from its trap frame (R157, R160, R161, R356). -/

namespace Sys2Proof.Machine

/-! ### AMEM -/

section Amem
variable {d s1 s2 : BitVec 5} {dn w : BitVec 4} {sub : BitVec 2} {s : State} (h : free s (.amem d s1 s2 dn sub w) w = true)
include h

theorem amem_traps (first : earlierPending (s.bank s.cur.bank) (s.bank s.cur.bank).nextSeq = false) :
    trapsAs s (.amem d s1 s2 dn sub w) 0x28 (readA s s.cur s1) (posOf s s.cur) :=
  trapsAs_plan rfl h (if_neg (by rw [first]; exact Bool.false_ne_true)) rfl rfl

theorem amem_waits (earlier : earlierPending (s.bank s.cur.bank) (s.bank s.cur.bank).nextSeq = true) :
    exec (.amem d s1 s2 dn sub w) s = .next (markHeld s s.cur ⟨false, false⟩) :=
  issue_waits h (if_pos earlier)

end Amem

/-! ### ERET -/

/-- Where the newest trap frame of a Steward stream stands (R356). -/
def newestFrame (s : State) (ag : Agent) : Nat := (s.stream ag).tfbase.toNat + 64 * ((s.stream ag).tfdepth.toNat - 1)

/-- What ERET of a Steward context asks of the issue: it waits while its newest frame cannot be read yet, and traps where it has none (R161). -/
def eretPlan (s : State) (c : CtxId) : Plan :=
  let st := s.stream s.cur
  { hold := match (loadVa s (ctxTenant s c) (newestFrame s s.cur) 64).1 with
      | .wait => if st.tfdepth = 0 then none else some holdPlain
      | _ => none
    trap := if st.tfdepth = 0 then some (cILLOP, 0) else none
    act := fun t => stewardReturn t c s.cur.kind (posOf s s.cur) }

theorem exec_eret {w : BitVec 4} {s : State} {c : CtxId} (hc : s.cur.bank = .ctx c) :
    ∃ p, exec (.eret w) s = issue (.eret w) w p s ∧ p s s.cur = eretPlan s c := by
  refine ⟨_, rfl, ?_⟩
  simp only [hc]
  rfl

/-- Without a frame nothing is read. -/
theorem eretPlan_empty {s : State} {c : CtxId} (none : (s.stream s.cur).tfdepth = 0) :
    (eretPlan s c).hold = .none ∧ (eretPlan s c).trap = some (cILLOP, 0) := by
  refine ⟨?_, if_pos none⟩
  unfold eretPlan
  dsimp only
  split
  · exact if_pos none
  · rfl

/-- A frame that can be read, or whose read faults, is returned from. -/
theorem eretPlan_reads {s : State} {c : CtxId} (some : (s.stream s.cur).tfdepth ≠ 0)
    (answers : ∀ s1, loadVa s (ctxTenant s c) (newestFrame s s.cur) 64 ≠ (.wait, s1)) :
    (eretPlan s c).hold = none ∧ (eretPlan s c).trap = none := by
  refine ⟨?_, if_neg some⟩
  unfold eretPlan
  dsimp only
  split
  next waits => exact (answers _ (Prod.ext waits rfl)).elim
  next => rfl

/-! ### The return from a frame -/

theorem Translated.bank {s t : State} (h : Translated s t) (r : BankRef) : t.bank r = s.bank r := by
  obtain ⟨_, _, _, _, _, _, _, _, _, _, rfl⟩ := h.rest
  cases r <;> rfl

section Return
variable {s s1 : State} {c : CtxId} {k : StreamKind} {ret : Nat}

/-- The registers that a return sets from its frame, and what it makes of its stream. -/
def Bank.returned (b : Bank) (f : List Byte) : Bank :=
  let reg := fun off => BitVec.ofNat 64 (fieldAt f off 8)
  { b with a := ((b.a.set 29 (reg 0x18)).set 30 (reg 0x20)).set 31 (reg 0x28) }

def Stream.returned (x : Stream) (f : List Byte) : Stream := { x with tfdepth := x.tfdepth - 1, pos := natBits (fieldAt f 0 8) 16 28 }

theorem stewardReturn_reads {f : List Byte}
    (h : loadVa s (ctxTenant s c) (newestFrame s ⟨.ctx c, k⟩) 64 = (.ok f, s1)) :
    stewardReturn s c k ret = (s1.modBank (.ctx c) fun x => x.returned f).modStream ⟨.ctx c, k⟩ fun x => x.returned f := by
  unfold newestFrame at h
  simp only [stewardReturn, h, Bank.returned, Stream.returned]

theorem stewardReturn_fails {cause : BitVec 8}
    (h : loadVa s (ctxTenant s c) (newestFrame s ⟨.ctx c, k⟩) 64 = (.fault cause, s1)) :
    stewardReturn s c k ret =
      stopContext s1 c (some ⟨cause, 0, k.code, 0, BitVec.ofNat 28 ret, BitVec.ofNat 64 (newestFrame s ⟨.ctx c, k⟩)⟩) := by
  unfold newestFrame at h ⊢
  simp only [stewardReturn, h]

/-- Three registers set one after another. -/
theorem get_set_last_three (v : Vector Word 32) (x y z : Word) (n : Fin 32) : (((v.set 29 x).set 30 y).set 31 z).get n =
    if n = 29 then x else if n = 30 then y else if n = 31 then z else v.get n := by
  have first : (v.set 29 x).get n = if 29 = n then x else v.get n := vget_set v 29 n x
  have second : ((v.set 29 x).set 30 y).get n = if 30 = n then y else (v.set 29 x).get n := vget_set _ 30 n y
  have third : (((v.set 29 x).set 30 y).set 31 z).get n = if 31 = n then z else ((v.set 29 x).set 30 y).get n := vget_set _ 31 n z
  rw [third, second, first]
  by_cases h29 : n = 29
  · subst h29; rfl
  · by_cases h30 : n = 30
    · subst h30; rfl
    · simp only [h29, h30, Ne.symm h29, Ne.symm h30, eq_comm (a := n), if_false]

theorem stream_returned (b : Bank) (f : List Byte) (k : StreamKind) : (b.returned f).stream k = b.stream k := by cases k <;> rfl

/-- A stream's update leaves the registers of its bank. -/
theorem regs_setStream (b : Bank) (k : StreamKind) (x : Stream) : (b.setStream k x).a = b.a ∧ (b.setStream k x).e = b.e := by
  cases k <;> exact ⟨rfl, rfl⟩

end Return

/-! ### A context that stops -/

theorem running_postEvent (s : State) (target : CtxId) (kind tenant source : Nat) (payload : BitVec 128) (c : CtxId) :
    ((postEvent s target kind tenant source payload).ctx c).running = (s.ctx c).running := by
  obtain ⟨_, _, h, hc⟩ := postEvent_eq s target kind tenant source payload
  obtain ⟨_, hk⟩ := hc c
  rw [h, State.ctx, hk]

theorem running_postHostEvent (s : State) (kind tenant source : Nat) (payload : BitVec 128) (c : CtxId) :
    ((postHostEvent s kind tenant source payload).ctx c).running = (s.ctx c).running := by
  obtain ⟨_, _, h, hc⟩ := sendHost_eq (s.modPkg fun p => { p with eventSeq := p.eventSeq + 1 }) 5 tenant 0
    (eventBytes ⟨s.pkg.eventSeq, kind, tenant, source, payload, true⟩)
  obtain ⟨_, hk⟩ := hc c
  rw [postHostEvent, h, State.ctx, hk]
  rfl

/-- A context that runs no longer. -/
def Ctx.ended (x : Ctx) : Ctx :=
  { x with running := false, held := [],
           regs := { x.regs with sa := { x.regs.sa with running := false }, sx := { x.regs.sx with running := false } } }

/-- The report of an event of a stop to the receiver of the context's kind-8 events (R328). -/
def reportStop (s : State) (c : CtxId) (t : State) (kind : Nat) (p : BitVec 128) : State :=
  if c.val = 127 then postHostEvent t kind (ctxTenant s c).val (256 + c.val) p
  else if 64 ≤ c.val then postEvent t (supervisor (t.ctx c).helperTenant) kind (ctxTenant s c).val (256 + c.val) p
  else postEvent t hypervisor kind (ctxTenant s c).val (256 + c.val) p

theorem stopContext_some (s : State) (c : CtxId) (r : Trap) : stopContext s c (some r) =
    reportStop s c (reportStop s c (s.modCtx c Ctx.ended) evTrap (trapBits r)) evStopped 0 := rfl

theorem running_reportStop (s : State) (c : CtxId) (t : State) (kind : Nat) (p : BitVec 128) :
    ((reportStop s c t kind p).ctx c).running = (t.ctx c).running := by
  unfold reportStop
  split
  · exact running_postHostEvent ..
  · split
    · exact running_postEvent ..
    · exact running_postEvent ..

theorem running_stopContext (s : State) (c : CtxId) (r : Trap) : ((stopContext s c (some r)).ctx c).running = false := by
  rw [stopContext_some, running_reportStop, running_reportStop, State.ctx_modCtx, if_pos rfl]
  rfl

/-- Settles O25: TRAP, ERET and AMEM are read off their plans; the return reads one frame, which changes nothing of the context's registers. -/
theorem systemTraps : Obligations.SystemTraps := by
  unfold Obligations.SystemTraps
  refine ⟨⟨fun imm w s h => ⟨_, issue_traps h rfl rfl⟩, fun w s c hc h => ?_, fun d s1 s2 dn sub w s => ?_⟩, fun s s1 c k ret => ?_⟩
  · intro st
    obtain ⟨p, run, plan⟩ := exec_eret (w := w) hc
    refine ⟨fun empty => ?_, fun some r reads => ?_⟩
    · obtain ⟨hold, trap⟩ := eretPlan_empty (c := c) empty
      exact trapsAs_plan run h (by rw [plan]; exact hold) (by rw [plan]; exact trap) (by rw [plan]; rfl)
    · obtain ⟨hold, trap⟩ := eretPlan_reads some reads
      rw [run, issue_next r (by rw [plan]; exact hold) (by rw [plan]; exact trap), plan]
      rfl
  · exact fun h => ⟨amem_traps h, amem_waits h⟩
  · intro ag st base t
    refine ⟨fun f reads => ?_, fun cause fails => ?_⟩
    · have bank : s1.bank (.ctx c) = s.bank (.ctx c) := by
        have frame := loadVa_translated s (ctxTenant s c) base 64
        rw [reads] at frame
        exact frame.bank _
      have after : t.bank (.ctx c) = ((s.bank (.ctx c)).returned f).setStream k (st.returned f) := by
        rw [show t = _ from stewardReturn_reads reads]
        simp only [State.modStream, State.bank_modBank_same, bank, stream_returned]
        rfl
      have stream : t.stream ag = st.returned f := by rw [State.stream, after, Bank.stream_setStream]
      obtain ⟨a, e⟩ := regs_setStream ((s.bank (.ctx c)).returned f) k (st.returned f)
      rw [stream, after, a, e]
      exact ⟨rfl, rfl, get_set_last_three _ _ _ _, rfl⟩
    · have stops : t = stopContext s1 c _ := stewardReturn_fails fails
      exact ⟨by rw [stops]; exact running_stopContext .., stops⟩

end Sys2Proof.Machine
end

section
/-! PROOFS. Atomics on the accumulator store: the word that one leaves and the one that it answers, and what its application changes (R153-R156). -/

namespace Sys2Proof.Machine

/-! ### The words of an atomic -/

theorem atomicNew_min (old v c : W32) : (atomicNew 1 true old v c).toInt = min old.toInt v.toInt := by
  have pick : atomicNew 1 true old v c = if old.slt v then old else v := rfl
  rw [pick, BitVec.slt_eq_decide]
  by_cases lt : old.toInt < v.toInt
  · rw [if_pos (decide_eq_true lt), min_eq_left lt.le]
  · rw [if_neg (by simpa using lt), min_eq_right (not_lt.mp lt)]

theorem atomicNew_max (old v c : W32) : (atomicNew 2 true old v c).toInt = max old.toInt v.toInt := by
  have pick : atomicNew 2 true old v c = if old.slt v then v else old := rfl
  rw [pick, BitVec.slt_eq_decide]
  by_cases lt : old.toInt < v.toInt
  · rw [if_pos (decide_eq_true lt), max_eq_right lt.le]
  · rw [if_neg (by simpa using lt), max_eq_left (not_lt.mp lt)]

theorem atomicNew_nan {old v : W32} (c : W32) (h : (dec32 old).isNaN = true ∨ (dec32 v).isNaN = true) :
    atomicNew 1 false old v c = 0x7fc00000 ∧ atomicNew 2 false old v c = 0x7fc00000 := by
  have nan : ((dec32 old).isNaN || (dec32 v).isNaN) = true := by rwa [Bool.or_eq_true]
  exact ⟨if_pos nan, if_pos nan⟩

theorem atomicNew_ordered {old v : W32} (c : W32) (h : (dec32 old).isNaN = false) (g : (dec32 v).isNaN = false) :
    atomicNew 1 false old v c = (if beforeV (dec32 v) (dec32 old) then v else old) ∧
    atomicNew 2 false old v c = (if beforeV (dec32 old) (dec32 v) then v else old) := by
  have number : ¬ ((dec32 old).isNaN || (dec32 v).isNaN) = true := by rw [h, g]; exact Bool.false_ne_true
  exact ⟨if_neg number, if_neg number⟩

/-! ### A write of an accumulator word -/

/-- Without errors pending a write ends none. -/
theorem dropAccErrors_none {s : State} (h : s.pkg.flips = []) (u : SuiteId) (k : Fin 32) (row : Fin 128) (p : Fin 128 → Bool) :
    dropAccErrors s u k row p = s := by
  rw [dropAccErrors, h]
  rfl

theorem accRead_none {s : State} (h : s.pkg.flips = []) (u : SuiteId) (k : Fin 32) (row col : Fin 128) :
    accRead s u k row col = (accGet s u k row col, s) := by
  rw [accRead, h]
  rfl

/-- Nothing but free choices and what VACCs under way carry lies between two states. -/
structure OnlyReaders (s t : State) : Prop where
  pkg : t.pkg = s.pkg
  rooms : t.rooms = s.rooms
  bank : ∀ r, ∃ fly, t.bank r = { s.bank r with fly := fly }

theorem OnlyReaders.refl (s : State) : OnlyReaders s s := ⟨rfl, rfl, fun _ => ⟨_, rfl⟩⟩

theorem OnlyReaders.trans {s t v : State} (h : OnlyReaders s t) (g : OnlyReaders t v) : OnlyReaders s v where
  pkg := g.pkg.trans h.pkg
  rooms := g.rooms.trans h.rooms
  bank r := by
    obtain ⟨a, ha⟩ := h.bank r
    obtain ⟨b, hb⟩ := g.bank r
    exact ⟨b, by rw [hb, ha]⟩

theorem onlyReaders_chooseBelow (s : State) (n : Nat) : OnlyReaders s (chooseBelow s n).2 :=
  ⟨rfl, rfl, fun r => ⟨_, (counted_chooseBelow s n).bank r⟩⟩

theorem onlyReaders_fly (s : State) (r : BankRef) (f : Bank → List Flight) : OnlyReaders s (s.modBank r fun b => { b with fly := f b }) where
  pkg := by simp
  rooms := by simp
  bank q := by
    by_cases e : r = q
    · subst e
      exact ⟨_, State.bank_modBank_same ..⟩
    · exact ⟨(s.bank q).fly, State.bank_setBank_ne _ _ _ _ e⟩

/-- What a VACC under way sees of a write changes nothing else (R156, R183). -/
theorem onlyReaders_vaccSees (s : State) (u : SuiteId) (k : Fin 32) (row col : Fin 128) (w : W32) : OnlyReaders s (vaccSees s u k row col w) := by
  unfold vaccSees
  generalize [(0 : Fin 2), 1] = banks
  induction banks generalizing s with
  | nil => exact .refl s
  | cons b banks ih =>
    refine OnlyReaders.trans ?_ (ih _)
    dsimp only
    split
    · exact .refl s
    · have chosen := onlyReaders_chooseBelow s 2
      split
      · exact chosen
      · exact chosen.trans (onlyReaders_fly _ _ _)

theorem accGet_congr {s t : State} (h : t.rooms = s.rooms) (u : SuiteId) (k : Fin 32) (row col : Fin 128) :
    accGet t u k row col = accGet s u k row col := by
  simp only [accGet, State.room, h]

/-- A room with one word of its accumulator store replaced. -/
def Room.withWord (x : Room) (k : Fin 32) (row col : Fin 128) (w : W32) : Room :=
  { x with acc := x.acc.set k.val ((x.acc.get k).set row.val (((x.acc.get k).get row).set col.val w col.isLt) row.isLt) k.isLt }

theorem accGet_withWord (s : State) (u v : SuiteId) (k j : Fin 32) (row r col c : Fin 128) (w : W32) :
    accGet (s.modRoom u fun x => x.withWord k row col w) v j r c =
      if v = u ∧ j = k ∧ r = row ∧ c = col then w else accGet s v j r c := by
  by_cases hu : u = v
  · subst hu
    have tile : (((s.room u).withWord k row col w).acc.get j) =
        if k = j then ((s.room u).acc.get k).set row.val ((((s.room u).acc.get k).get row).set col.val w col.isLt) row.isLt
        else (s.room u).acc.get j := vget_set ..
    simp only [accGet, State.room_modRoom, if_true, tile, true_and]
    by_cases hk : k = j
    · subst hk
      simp only [if_true, true_and, vget_set]
      by_cases hr : row = r
      · subst hr
        simp only [if_true, true_and, vget_set, eq_comm (a := c)]
      · simp only [hr, Ne.symm hr, if_false, false_and]
    · simp only [hk, Ne.symm hk, if_false, false_and]
  · simp only [accGet, State.room_modRoom, hu, Ne.symm hu, if_false, false_and]

theorem accSet_none {s : State} (h : s.pkg.flips = []) (u : SuiteId) (k : Fin 32) (row col : Fin 128) (w : W32) :
    accSet s u k row col w = vaccSees (s.modRoom u fun x => x.withWord k row col w) u k row col w := by
  rw [accSet, dropAccErrors_none h]
  rfl

/-! ### The application -/

/-- A room whose atomic applies has it no longer, its port taken, and ACCSEQ moved on behind an ordered one (R155, R156). -/
def Room.applies (x : Room) (a : Atomic) (i : Nat) : Room :=
  { x with atomics := x.atomics.eraseIdx i, portAtoms := (a.k.val % 8) :: x.portAtoms, accseq := if a.ordered then x.accseq + 1 else x.accseq }

/-- A waiting atomic applies where its room runs, its port is free and the order log is off (R156, R288, R337). -/
theorem tryAtomic_applies {s : State} {u : SuiteId} {i : Nat} {a : Atomic} (h : (s.room u).atomics[i]? = some a)
    (runs : (s.room u).stopped = false) (port : portBusy s u a.k = false) (log : ologMode s a.tenant = 0) :
    tryAtomic s u i = applyAtomic (s.modRoom u fun x => x.applies a i) u a := by
  have logged : ∀ agent bank tile row col, accLogged s a.tenant u agent bank tile row col = (true, s) := fun _ _ _ _ _ => by
    simp only [accLogged, ologTake, log]
  simp only [tryAtomic, h, runs, port, logged, Bool.false_eq_true, false_and, or_self, if_false]
  rfl

/-- What the application of an atomic leaves (R154). -/
structure Applied (s t : State) (u : SuiteId) (a : Atomic) : Prop where
  words : ∀ v k row col, accGet t v k row col = if v = u ∧ k = a.k ∧ row = a.row ∧ col = a.col then
    atomicNew a.aop a.i32 (accGet s u a.k a.row a.col) a.v a.cmp else accGet s v k row col
  atomics : (t.room u).atomics = (s.room u).atomics
  accseq : (t.room u).accseq = (s.room u).accseq
  fly : ∃ before, (t.bank (.bank u a.bank)).fly =
    before ++ [⟨a.kind, 0, [.a a.d (atomicOld a.i32 (accGet s u a.k a.row a.col))], 0, a.born, true⟩]
  done : doneIn s t (.bank u a.bank) a.kind a.dn
  regs : (t.bank (.bank u a.bank)).a = (s.bank (.bank u a.bank)).a
  pkg : t.pkg = s.pkg

theorem applyAtomic_applied {s : State} {u : SuiteId} {a : Atomic} (kept : a.discard = false) (sound : s.pkg.flips = []) :
    Applied s (applyAtomic s u a) u a := by
  have steps : applyAtomic s u a = doneFor (landLater (accSet s u a.k a.row a.col (atomicNew a.aop a.i32 (accGet s u a.k a.row a.col) a.v a.cmp))
      (.bank u a.bank) a.kind [.a a.d (atomicOld a.i32 (accGet s u a.k a.row a.col))] a.born) (.bank u a.bank) a.kind a.dn := by
    simp only [applyAtomic, accRead_none sound, kept, Bool.false_eq_true, if_false]
  rw [steps, accSet_none sound]
  generalize hw : atomicNew a.aop a.i32 (accGet s u a.k a.row a.col) a.v a.cmp = w
  obtain ⟨seenPkg, seenRooms, seenBank⟩ := onlyReaders_vaccSees (s.modRoom u fun x => x.withWord a.k a.row a.col w) u a.k a.row a.col w
  generalize vaccSees (s.modRoom u fun x => x.withWord a.k a.row a.col w) u a.k a.row a.col w = seen at seenPkg seenRooms seenBank
  obtain ⟨fly, bank⟩ := seenBank (.bank u a.bank)
  rw [State.bank_modRoom] at bank
  generalize hl : landLater seen (.bank u a.bank) a.kind [.a a.d (atomicOld a.i32 (accGet s u a.k a.row a.col))] a.born = landed
  have landedBank : landed.bank (.bank u a.bank) = { s.bank (.bank u a.bank) with
      fly := fly ++ [⟨a.kind, 0, [.a a.d (atomicOld a.i32 (accGet s u a.k a.row a.col))], 0, a.born, true⟩] } := by
    rw [← hl, landLater, State.bank_modBank_same, bank]
  have landedRooms : landed.rooms = seen.rooms := by rw [← hl]; simp [landLater]
  have landedPkg : landed.pkg = seen.pkg := by rw [← hl]; simp [landLater]
  obtain ⟨pkg, rooms, -, -, -, -, -, rest⟩ := doneFor_keeps landed (.bank u a.bank) a.kind a.dn
  have rooms := (rooms.trans landedRooms).trans seenRooms
  have room : (doneFor landed (.bank u a.bank) a.kind a.dn).room u = (s.room u).withWord a.k a.row a.col w := by
    rw [State.room, rooms]
    exact (State.room_modRoom s u u _).trans (if_pos rfl)
  exact {
    words := fun v k row col => (accGet_congr rooms v k row col).trans (by rw [accGet_withWord, hw])
    atomics := by rw [room]; rfl
    accseq := by rw [room]; rfl
    fly := ⟨fly, by rw [rest, landedBank]⟩
    done := fun n => (doneFor_done landed (.bank u a.bank) a.kind a.dn n).trans (by rw [landedBank]; cases a.kind <;> rfl)
    regs := by rw [rest, landedBank]
    pkg := (pkg.trans landedPkg).trans seenPkg }

/-! ### The two events -/

section Events
variable {s : State} {u : SuiteId} {a : Atomic} (only : (s.room u).atomics = [a])
include only

/-- An ordered atomic applies once ACCSEQ has reached its number (R155). -/
theorem execOrdered_only (ordered : a.ordered = true) (turn : a.cmp = (s.room u).accseq) :
    exec (.orderedAtomicApply u) s = .next (tryAtomic s u 0) := by
  have run : exec (.orderedAtomicApply u) s = execOrderedAtomicApply u s := rfl
  simp [run, execOrderedAtomicApply, only, List.findIdx?_cons, ordered, turn]

/-- The one unordered atomic is the one chosen (R156). -/
theorem execUnordered_only (unordered : a.ordered = false) (log : ologMode s a.tenant = 0) :
    exec (.accumulatorAtomicApply u) s = .next (tryAtomic { s with fresh := s.fresh + 1 } u 0) := by
  have run : exec (.accumulatorAtomicApply u) s = execAccumulatorAtomicApply u s := rfl
  have free : atomicForced s u a = false := by simp [atomicForced, accForced, log]
  simp [run, execAccumulatorAtomicApply, only, unordered, free, chooseBelow, Nat.mod_one]

/-- The state in which the only atomic of a room applies, its free choices counted on to n. -/
def applying (s : State) (u : SuiteId) (a : Atomic) (n : Nat) : State := ({ s with fresh := n } : State).modRoom u fun x => x.applies a 0

/-- So the one waiting atomic of a room applies, whichever event its kind has. -/
theorem exec_atomic_only (turn : a.ordered = true → a.cmp = (s.room u).accseq) (runs : (s.room u).stopped = false)
    (port : portBusy s u a.k = false) (log : ologMode s a.tenant = 0) :
    ∃ n, exec (if a.ordered then .orderedAtomicApply u else .accumulatorAtomicApply u) s = .next (applyAtomic (applying s u a n) u a) := by
  have applies : ∀ n, tryAtomic { s with fresh := n } u 0 = applyAtomic (applying s u a n) u a := fun n =>
    tryAtomic_applies (s := { s with fresh := n }) (congrArg (·[0]?) only) runs port log
  cases ordered : a.ordered
  · exact ⟨s.fresh + 1, by rw [← applies]; exact execUnordered_only only ordered log⟩
  · exact ⟨s.fresh, by rw [← applies]; exact execOrdered_only only ordered (turn ordered)⟩

end Events

theorem room_applying (s : State) (u : SuiteId) (a : Atomic) (n : Nat) : (applying s u a n).room u = (s.room u).applies a 0 :=
  (State.room_modRoom ..).trans (if_pos rfl)

theorem accGet_applying (s : State) (u : SuiteId) (a : Atomic) (n : Nat) (v : SuiteId) (k : Fin 32) (row col : Fin 128) :
    accGet (applying s u a n) v k row col = accGet s v k row col := by
  have acc : ((applying s u a n).room v).acc = (s.room v).acc := by
    rw [applying, State.room_modRoom]
    split
    next e => subst e; rfl
    next => rfl
  simp only [accGet, acc]

/-- Settles O22: one event tries the waiting atomic, which applies; its word is a function of the operation alone. -/
theorem atomicsApply : Obligations.AtomicsApply := by
  unfold Obligations.AtomicsApply
  refine ⟨⟨?_, fun s u b k v => ⟨?_, rfl⟩⟩, fun old v c => ⟨rfl, rfl, atomicNew_min old v c, atomicNew_max old v c, atomicNew_nan c,
    atomicNew_ordered c, fun i32 => ⟨rfl, fun same => if_pos same, fun other => if_neg other⟩, rfl, rfl⟩⟩
  · intro s u a i r old only turn kept runs port log sound
    obtain ⟨n, run⟩ := exec_atomic_only only turn runs port log
    obtain ⟨words, atomics, accseq, fly, done, regs, pkg⟩ := applyAtomic_applied (s := applying s u a n) (u := u) kept sound
    rw [accGet_applying] at fly
    simp only [accGet_applying] at words
    exact ⟨_, run, words, by rw [atomics, room_applying, Room.applies, only]; rfl, by rw [accseq, room_applying]; rfl, fly, done, regs, pkg⟩
  · simp [csrWaits]

end Sys2Proof.Machine
end

section
/-! PROOFS. How prefetches, DRNTs and WAITAs end (R148, R149, R151, R152, R325). -/

namespace Sys2Proof.Machine

/-! ### A done semaphore after a change of the rest of its bank -/

theorem doneIn_of_stream {s t v : State} {r : BankRef} {k : StreamKind} {dn : BitVec 4} (h : doneIn t v r k dn)
    (same : (t.bank r).stream k = (s.bank r).stream k) : doneIn s v r k dn := fun n => by rw [h n, same]

/-! ### Prefetches -/

/-- A prefetch ends: it leaves its bank's list, and its done semaphore counts (R148). -/
def endPrefetch (s : State) (r : BankRef) (k : Nat) (dn : BitVec 4) : State :=
  doneFor (s.modBank r fun x => { x with prefetch := x.prefetch.eraseIdx k }) r .a dn

theorem execPrefetch_unfetched {s : State} {r : BankRef} {k : Nat} {dn : BitVec 4} (h : (s.bank r).prefetch[k]? = some (dn, [])) :
    exec (.prefetchCompletion r k) s = .next (endPrefetch s r k dn) := by
  have run : exec (.prefetchCompletion r k) s = execPrefetchCompletion r k s := rfl
  rw [run, execPrefetchCompletion]
  simp only [h]
  cases r <;> rfl

theorem execPrefetch_none {s : State} {r : BankRef} {k : Nat} (h : (s.bank r).prefetch[k]? = none) :
    exec (.prefetchCompletion r k) s = .next s := by
  have run : exec (.prefetchCompletion r k) s = execPrefetchCompletion r k s := rfl
  rw [run, execPrefetchCompletion]
  simp only [h]

/-! ### DRNTs -/

/-- An entry that leaves its queue takes its place in it, and perhaps ends ALIGN markers and a FENCE; it leaves the A-stream and the registers of its
bank. -/
theorem dropEntry_keeps (s : State) (r : BankRef) (seq : Nat) :
    ((dropEntry s r seq).bank r).sq = eraseEntry (s.bank r).sq seq ∧ ((dropEntry s r seq).bank r).a = (s.bank r).a ∧
    ((dropEntry s r seq).bank r).stream .a = (s.bank r).stream .a ∧ (dropEntry s r seq).pkg = s.pkg := by
  unfold dropEntry
  generalize hy : (s.modBank r fun b =>
    let b1 := { b with lq := eraseEntry b.lq seq, sq := eraseEntry b.sq seq }
    { b1 with aligns := b1.aligns.filter fun q => earlierPending b1 q || b1.replay.any fun e => decide (e.seq < q) }) = y
  obtain ⟨frame, regs⟩ := settleFence_bookkeeping y ⟨r, .a⟩
  have stream := stream_settleFence y ⟨r, .a⟩
  refine ⟨(Bank.kept_sq frame.bank).trans ?_, regs.a.trans ?_, Eq.trans stream ?_, frame.pkg.trans ?_⟩
  · rw [← hy, State.bank_modBank_same]
  · rw [← hy, State.bank_modBank_same]
  · rw [← hy, State.stream, State.bank_modBank_same]; rfl
  · rw [← hy]; simp

section Drnt
variable {s : State} {r : BankRef} {e : QEntry} {sc : BitVec 2} (head : ((s.bank r).sq.find? fun f => !f.isNt) = some e) (op : e.op = .drnt sc)
include head op

/-- What a DRNT at the head of the ordered part waits for decides whether it completes (R143, R149, R151). -/
theorem execDrnt_head {waits : Bool} (h : waits = (alignHolds (s.bank r) e || (s.bank r).lq.any (fun f => f.isAcquire && decide (f.seq < e.seq)) ||
      ((s.bank r).sq ++ (s.bank r).replay).any fun f => f.isNt && decide (f.seq < e.seq))) :
    exec (.drntCompletion r) s = .next (if waits then s else doneFor (dropEntry s r e.seq) r .a e.dn) := by
  have run : exec (.drntCompletion r) s = execDrntCompletion r s := rfl
  have drnt : e.isDrnt = true := by rw [QEntry.isDrnt, op]
  rw [run, execDrntCompletion]
  simp only [head, drnt, Bool.true_and, ← Bool.not_or, ← h]
  cases waits <;> rfl

end Drnt

/-! ### What a read of a WAITA leaves of its bank and tenant -/

/-- Banks, their tenants, trace registers and order logs are as they were. -/
structure SameWaits (s t : State) : Prop where
  bank : ∀ r, t.bank r = s.bank r
  tenantOf : ∀ r, tenantOf t r = tenantOf s r
  trace : ∀ k, (t.tenant k).trace = (s.tenant k).trace
  olog : ∀ k, ologMode t k = ologMode s k

theorem SameWaits.trans {s t v : State} (h : SameWaits s t) (g : SameWaits t v) : SameWaits s v where
  bank r := (g.bank r).trans (h.bank r)
  tenantOf r := (g.tenantOf r).trans (h.tenantOf r)
  trace k := (g.trace k).trans (h.trace k)
  olog k := (g.olog k).trans (h.olog k)

theorem Translated.tenantOf {s t : State} (h : Translated s t) (r : BankRef) : tenantOf t r = tenantOf s r := by
  obtain ⟨_, _, _, _, _, _, _, _, _, _, rfl⟩ := h.rest
  cases r <;> rfl

theorem Translated.sameWaits {s t : State} (h : Translated s t) : SameWaits s t := ⟨h.bank, h.tenantOf, h.trace, h.ologMode⟩

theorem Counted.sameWaits {s t : State} (h : Counted s t) (tenants : t.tenants = s.tenants) (feat : t.pkg.featacc0 = s.pkg.featacc0) :
    SameWaits s t where
  bank := h.bank
  tenantOf := h.tenantOf
  trace := h.trace
  olog k := by rw [Machine.ologMode, Machine.ologMode, featOn, featOn, State.tenant, State.tenant, tenants, feat]

theorem translateVa_translated (s : State) (t : TenantId) (va : Nat) (write : Bool) : Translated s (translateVa s t va write).2 := by
  have desc := getDesc_translated s t (natBits va 36 16)
  unfold translateVa
  dsimp only
  split
  · exact desc
  · exact desc.trans (translate_translated ..)

theorem setterOf_translated (s : State) (word : Nat) : Translated s (setterOf s word).2 := by
  unfold setterOf
  split
  · exact .refl s
  · exact chooseBelow_translated s _

theorem countEvents_tenants (s : State) (r : BankRef) (code n : Nat) :
    (countEvents s r code n).tenants = s.tenants ∧ (countEvents s r code n).pkg = s.pkg := by
  unfold countEvents
  split
  · exact ⟨rfl, rfl⟩
  · cases r <;> dsimp only <;> split <;> exact ⟨rfl, rfl⟩

theorem countL2_tenants (s : State) (r : BankRef) (line : Nat) :
    (countL2 s r line).tenants = s.tenants ∧ (countL2 s r line).pkg.featacc0 = s.pkg.featacc0 := by
  cases r with
  | ctx c => exact ⟨rfl, rfl⟩
  | bank u b =>
    have counted := countEvents_tenants (chooseBelow (l2Use s (.agent (.bank u b)) line) 2).2 (.bank u b)
      (3 + (chooseBelow (l2Use s (.agent (.bank u b)) line) 2).1) 1
    have feat := congrArg Package.featacc0 counted.2
    exact ⟨counted.1, feat⟩

theorem sameWaits_countL2 (s : State) (r : BankRef) (line : Nat) : SameWaits s (countL2 s r line) :=
  (counted_countL2 s r line).sameWaits (countL2_tenants s r line).1 (countL2_tenants s r line).2

theorem sameWaits_l1Refresh (s : State) (r : BankRef) (t : TenantId) (seg off frame : Nat) (bs : List Byte) :
    SameWaits s (l1Refresh s r t seg off frame bs) :=
  (counted_l1Refresh s r t seg off frame bs).sameWaits (by cases r <;> rfl) (by cases r <;> rfl)

/-! ### The end of a wait -/

/-- A wait has ended with a status: its result lands at the end of the cycle, its done semaphore counts, and its monitor is free (R152). -/
def WaitEnds (s t : State) (r : BankRef) (e : QEntry) (d : BitVec 5) (status : Nat) : Prop :=
  (t.bank r).fly = (s.bank r).fly ++ [⟨.a, 0, [.a d (BitVec.ofNat 64 status)], 0, e.born, true⟩] ∧ doneIn s t r .a e.dn ∧
  (t.pkg.monitors.all fun m => m.2.1 != r) = true

theorem waitRecord_off {s : State} {ag : Agent} (h : (s.tenant (tenantOf s ag.bank)).trace.ctl.getLsbD 0 = false) (flag count setter sub : Nat) :
    waitRecord s ag flag count setter sub = s := by
  simp only [waitRecord, traceOn, traceFits, h, Bool.false_and, Bool.false_eq_true, if_false]

theorem acquireInvalidate_keeps (s : State) (r : BankRef) (scope : BitVec 2) :
    Counted s (acquireInvalidate s r scope) ∧ (acquireInvalidate s r scope).pkg = s.pkg := by
  cases r with
  | ctx c => exact ⟨.refl s, rfl⟩
  | bank u b =>
    unfold acquireInvalidate
    dsimp only
    split
    · exact ⟨.refl s, rfl⟩
    · exact ⟨counted_l1Clear s u, rfl⟩

theorem finishWaita_ends {s : State} {r : BankRef} (trace : (s.tenant (tenantOf s r)).trace.ctl.getLsbD 0 = false) (e : QEntry) (d : BitVec 5)
    (va : Word) (scope : BitVec 2) (start status setter : Nat) : WaitEnds s (finishWaita s r e d va scope start status setter) r e d status := by
  have freed : Counted s (freeMonitor s r) := counted_modPkg s _ rfl rfl rfl rfl rfl rfl
  have invalidated : Counted (freeMonitor s r) (if status = 0 then acquireInvalidate (freeMonitor s r) r scope else freeMonitor s r) ∧
      (if status = 0 then acquireInvalidate (freeMonitor s r) r scope else freeMonitor s r).pkg = (freeMonitor s r).pkg := by
    split
    · exact acquireInvalidate_keeps _ r scope
    · exact ⟨.refl _, rfl⟩
  unfold finishWaita
  dsimp only
  generalize (if status = 0 then acquireInvalidate (freeMonitor s r) r scope else freeMonitor s r) = x at invalidated
  obtain ⟨counted, pkg⟩ := invalidated
  have frame := freed.trans counted
  have off : (x.tenant (tenantOf x r)).trace.ctl.getLsbD 0 = false := by rw [frame.tenantOf, frame.trace]; exact trace
  rw [waitRecord_off (ag := ⟨r, .a⟩) off]
  obtain ⟨-, -, fly, done, -, -, -, same, -⟩ := finishEntry_keeps x r e [.a d (BitVec.ofNat 64 status)]
  refine ⟨by rw [fly, frame.bank], doneIn_of_stream done (by rw [frame.bank]), ?_⟩
  rw [same, pkg]
  exact List.all_eq_true.mpr fun m mem => (List.mem_filter.mp mem).2

/-- With the order log off a wait ends with the device's own status (R337). -/
theorem waitaStatus_off {s : State} {r : BankRef} (log : ologMode s (tenantOf s r) = 0) (status : Nat) :
    waitaStatus s r (some status) = (some status, s) := by
  cases r with
  | ctx c => rfl
  | bank u b => simp [waitaStatus, log, ologChoice_off log]

/-! ### Reads -/

theorem Counted.physBytes {s t : State} (h : Counted s t) (slot : Nat) : ∀ (n a : Nat), physBytes t slot a n = physBytes s slot a n
  | 0, _ => rfl
  | n + 1, a => by rw [Machine.physBytes, Machine.physBytes, h.physByte, h.physBytes slot n (a + 1)]

theorem counted_setterOf (s : State) (word : Nat) : Counted s (setterOf s word).2 := by
  unfold setterOf
  split
  · exact .refl s
  · exact counted_chooseBelow s _

/-- The state after the read of a granted WAITA, before it goes on waiting or ends. -/
def waitaSeen (s : State) (r : BankRef) (t : TenantId) (va : Word) (pa slot : Nat) : State :=
  l1Refresh (countL2 (physRead (setterOf s (pa / 8)).2 slot pa 8).2 r (pa / 64)) r t (natBits va.toNat 36 16) (va.toNat % 2 ^ 36) (pa / 65536)
    (physBytes s slot pa 8)

theorem sameWaits_waitaSeen (s : State) (r : BankRef) (t : TenantId) (va : Word) (pa slot : Nat) : SameWaits s (waitaSeen s r t va pa slot) :=
  (((setterOf_translated s _).trans (physRead_translated _ slot pa 8)).sameWaits.trans (sameWaits_countL2 _ r _)).trans (sameWaits_l1Refresh ..)

theorem monitors_countCes (l : List ErrSite) : ∀ s : State, (l.foldl (fun s _ => countCe s) s).pkg.monitors = s.pkg.monitors := by
  induction l with
  | nil => exact fun _ => rfl
  | cons _ _ ih => exact fun _ => ih _

/-- A read registers and frees no monitor. -/
theorem monitors_physRead (s : State) (slot a n : Nat) : (physRead s slot a n).2.pkg.monitors = s.pkg.monitors := by
  have corrected : (correctErrors s a n).pkg.monitors = s.pkg.monitors := by
    unfold correctErrors
    dsimp only
    split
    · rfl
    · exact monitors_countCes _ _
  have lost : (countLost (correctErrors s a n) a).pkg.monitors = (correctErrors s a n).pkg.monitors := by
    unfold countLost
    split <;> rfl
  exact lost.trans corrected

theorem monitorsHeld_read (s : State) (r : BankRef) (pa slot : Nat) :
    monitorsHeld (physRead (setterOf s (pa / 8)).2 slot pa 8).2 r = monitorsHeld s r := by
  have named : (setterOf s (pa / 8)).2.pkg = s.pkg := by
    unfold setterOf
    split <;> rfl
  rw [monitorsHeld, monitors_physRead, named, monitorsHeld]

/-- What a read that is not past its timeout ends the wait with: 0 where the word has changed, 2 where a first read finds the table full (R152). -/
def waitaOwn (s : State) (r : BankRef) (cmp : Word) (watched : Option Nat) (pa slot : Nat) : Option Nat :=
  if leNat (physBytes s slot pa 8) ≠ cmp.toNat then some 0
  else if watched.isNone && decide (512 ≤ monitorsHeld s r) then some 2 else none

section Read
variable {s s1 : State} {r : BankRef} {e : QEntry} {d : BitVec 5} {va cmp : Word} {scope : BitVec 2} {watched expire : Option Nat} {start : Nat}
  {pa slot : Nat} (there : translateVa s (tenantOf s r) va.toNat false = (.ok (pa, slot), s1))
include there

/-- A read asks its line's home port and waits for the grant (R325). -/
theorem waitaRead_asks (h : l2Granted s1 r (pa / 64) = false) (expired : Bool) :
    waitaRead s r e d va cmp scope watched expire start expired = l2Ask s1 r (tenantOf s r) (pa / 64) := by
  simp [waitaRead, there, h]

theorem sameWaits_read : SameWaits s (waitaSeen s1 r (tenantOf s r) va pa slot) := by
  have frame := translateVa_translated s (tenantOf s r) va.toNat false
  rw [there] at frame
  exact frame.sameWaits.trans (sameWaits_waitaSeen ..)

variable (granted : l2Granted s1 r (pa / 64) = true) (log : ologMode s (tenantOf s r) = 0)
include granted log

omit granted in
theorem waitaStatus_read (status : Nat) : waitaStatus (waitaSeen s1 r (tenantOf s r) va pa slot) r (some status) =
    (some status, waitaSeen s1 r (tenantOf s r) va pa slot) := by
  have same := sameWaits_read (va := va) there
  exact waitaStatus_off (by rw [same.tenantOf, same.olog]; exact log) status

/-- A read with a status of its own ends the wait. -/
theorem waitaRead_finishes {st : Nat} (own : waitaOwn s1 r cmp watched pa slot = some st) :
    waitaRead s r e d va cmp scope watched expire start false =
      finishWaita (waitaSeen s1 r (tenantOf s r) va pa slot) r e d va scope start st (if st = 0 then (setterOf s1 (pa / 8)).1 else 0xffff) := by
  have bytes : (physRead (setterOf s1 (pa / 8)).2 slot pa 8).1 = physBytes s1 slot pa 8 := (counted_setterOf s1 _).physBytes slot 8 pa
  have status : waitaStatus (waitaSeen s1 r (tenantOf s r) va pa slot) r (waitaOwn s1 r cmp watched pa slot) =
      (some st, waitaSeen s1 r (tenantOf s r) va pa slot) := by rw [own, waitaStatus_read there log]
  unfold waitaSeen waitaOwn at status
  unfold waitaSeen
  simp only [waitaRead, there, granted, bytes, monitorsHeld_read, Bool.not_true, Bool.false_eq_true, if_false, status]

theorem waitaRead_ends (trace : (s.tenant (tenantOf s r)).trace.ctl.getLsbD 0 = false) {st : Nat}
    (own : waitaOwn s1 r cmp watched pa slot = some st) : WaitEnds s (waitaRead s r e d va cmp scope watched expire start false) r e d st := by
  have same := sameWaits_read (va := va) there
  rw [waitaRead_finishes there granted log own]
  obtain ⟨fly, done, free⟩ := finishWaita_ends (by rw [same.tenantOf, same.trace]; exact trace) e d va scope start st _
  exact ⟨by rw [fly, same.bank], doneIn_of_stream done (by rw [same.bank]), free⟩

end Read

/-! ### Timeouts and triggers -/

section Events
variable {s : State} {r : BankRef} {e : QEntry} {d : BitVec 5} {va cmp : Word} {scope : BitVec 2} {l start : Nat} {expire : Option Nat}
  {rest : List QEntry} (head : (s.bank r).lq = e :: rest) (op : e.op = .waita d va cmp scope (some l) expire start)
include head op

/-- An expiry without a trigger ends the wait with status 1, without a read (R152). -/
theorem execWaittmo_expires (past : waitExpired s expire = true) (quiet : (s.pkg.monitors.any fun m => m.2.1 == r && m.2.2) = false)
    (log : ologMode s (tenantOf s r) = 0) : exec (.waittmoExpiry r) s = .next (finishWaita s r e d va scope start 1 0xffff) := by
  have run : exec (.waittmoExpiry r) s = execWaittmoExpiry r s := rfl
  simp [run, execWaittmoExpiry, head, op, past, quiet, waitaStatus_off log]

/-- A trigger reads the word again (R152). -/
theorem execMonitor_triggers (hit : (s.pkg.monitors.any fun m => m.2.1 == r && m.2.2) = true) :
    exec (.monitorTrigger r) s = .next (waitaRead s r e d va cmp scope (some l) expire start (waitExpired s expire)) := by
  have run : exec (.monitorTrigger r) s = execMonitorTrigger r s := rfl
  simp only [run, execMonitorTrigger, head, List.head?_cons, hit, op]

end Events

/-- Settles O21: a prefetch without a box and a DRNT that waits for nothing leave their lists and count; every end of a WAITA is one finish, on a state
whose banks, trace registers and order logs are those before its read. -/
theorem queueEntriesComplete : Obligations.QueueEntriesComplete := by
  unfold Obligations.QueueEntriesComplete
  refine ⟨⟨fun r k dn s h => ⟨_, execPrefetch_unfetched h, ?_⟩, fun r k s => execPrefetch_none, fun r e sc s head op => ?_⟩,
    fun r e d va cmp scope watched expire start s => ?_⟩
  · obtain ⟨pkg, -, -, -, -, -, -, rest⟩ := doneFor_keeps (s.modBank r fun x => { x with prefetch := x.prefetch.eraseIdx k }) r .a dn
    have done := doneFor_done (s.modBank r fun x => { x with prefetch := x.prefetch.eraseIdx k }) r .a dn
    refine ⟨?_, doneIn_of_stream done (by rw [State.bank_modBank_same]; rfl), ?_, pkg.trans (by simp)⟩
    · rw [endPrefetch, rest, State.bank_modBank_same]
    · rw [endPrefetch, rest, State.bank_modBank_same]
  · intro waits
    have run := execDrnt_head head op (waits := waits) rfl
    refine ⟨fun on => by rw [run, if_pos on], fun off => ⟨_, by rw [run, if_neg (by rw [off]; exact Bool.false_ne_true)], ?_⟩⟩
    obtain ⟨sq, regs, stream, same⟩ := dropEntry_keeps s r e.seq
    obtain ⟨pkg, -, -, -, -, -, -, rest⟩ := doneFor_keeps (dropEntry s r e.seq) r .a e.dn
    refine ⟨?_, doneIn_of_stream (doneFor_done (dropEntry s r e.seq) r .a e.dn) stream, ?_, pkg.trans same⟩
    · rw [rest]; exact sq
    · rw [rest]; exact regs
  · intro tn ends trace log
    refine ⟨fun pa slot s1 there ask => waitaRead_asks there ask false,
      fun pa slot s1 there granted => ⟨fun changed => ?_, fun same first full => ?_⟩, fun l x rest head op past quiet => ?_, fun l rest head op hit => execMonitor_triggers head op hit⟩
    · exact waitaRead_ends there granted log trace (if_pos changed)
    · exact waitaRead_ends there granted log trace ((if_neg (not_not.mpr same)).trans (if_pos (by simp [full])))
    · exact ⟨_, execWaittmo_expires head op (decide_eq_true past) quiet log, finishWaita_ends trace e d va scope start 1 _⟩

end Sys2Proof.Machine
end

section
/-! PROOFS. Tile bits, shifts, comparisons, selections and masks (R46, R171-R173, R186). -/

namespace Sys2Proof.Machine

/-! ### Patterns of elements -/

theorem vget_ofFn {α : Type} {n : Nat} (g : Fin n → α) (i : Fin n) : (Vector.ofFn g).get i = g i := Vector.getElem_ofFn i.isLt

theorem leNat_lt : ∀ l : List Byte, leNat l < 256 ^ l.length
  | [] => Nat.one_pos
  | b :: t => by
    have low := b.isLt
    have high := leNat_lt t
    rw [leNat, List.length_cons, Nat.pow_succ]
    omega

/-- An element of a row is a pattern of the format's width (R45). -/
theorem rowElem_lt (row : Vector Byte 256) (f : Fmt) (j : Nat) : rowElem row f j < 2 ^ f.width := by
  have byte := fun k => (row.toArray.getD k 0).isLt
  cases f
  case cb4 => exact Nat.mod_lt _ (by decide)
  case i64 => exact (leNat_lt _).trans_eq (by rw [List.length_map, List.length_range]; rfl)
  case fp32 | i32 =>
    have b0 := byte (4 * j)
    have b1 := byte (4 * j + 1)
    have b2 := byte (4 * j + 2)
    have b3 := byte (4 * j + 3)
    simp only [rowElem, Fmt.width]
    omega
  case bf16 | fp16 =>
    have b0 := byte (2 * j)
    have b1 := byte (2 * j + 1)
    simp only [rowElem, Fmt.width]
    omega
  case e4m3 | e5m2 | i8 | u8 => exact byte j

theorem elemAt_lt (t : Tile) (f : Fmt) (r : Fin 128) (c : Nat) : elemAt t f r c < 2 ^ f.width := rowElem_lt (t.get r) f c

/-- A pattern as a signed integer is the bit vector's (R74). -/
theorem signedOf_ofNat (w x : Nat) : signedOf w x = (BitVec.ofNat w x).toInt := by
  have half : x % 2 ^ w < 2 ^ (w - 1) ↔ 2 * (x % 2 ^ w) < 2 ^ w := by
    cases w with
    | zero => simp [Nat.mod_one]
    | succ w => rw [Nat.add_sub_cancel, Nat.pow_succ]; omega
  simp only [signedOf, BitVec.toInt_eq_toNat_cond, BitVec.toNat_ofNat, half]
  split <;> push_cast <;> rfl

/-! ### Shifts -/

section Shifts
variable {w x : Nat} (n : Nat)

theorem shiftLeft_pattern : x * 2 ^ n % 2 ^ w = (BitVec.ofNat w x <<< n).toNat := by
  rw [BitVec.toNat_shiftLeft, BitVec.toNat_ofNat, Nat.shiftLeft_eq, Nat.mod_mul_mod]

theorem shiftRight_pattern (h : x < 2 ^ w) : x / 2 ^ n % 2 ^ w = (BitVec.ofNat w x >>> n).toNat := by
  rw [BitVec.toNat_ushiftRight, BitVec.toNat_ofNat, Nat.mod_eq_of_lt h, Nat.shiftRight_eq_div_pow,
    Nat.mod_eq_of_lt ((Nat.div_le_self _ _).trans_lt h)]

/-- The quotient of the signed integer, as a pattern, is the shift that replicates the top bit (R171). -/
theorem sshiftRight_pattern : (signedOf w x / 2 ^ n % 2 ^ w).toNat % 2 ^ w = ((BitVec.ofNat w x).sshiftRight n).toNat := by
  have shifted : ((BitVec.ofNat w x).sshiftRight n).toNat = (signedOf w x / 2 ^ n % 2 ^ w).toNat := by
    rw [BitVec.sshiftRight, BitVec.toNat_ofInt, Int.shiftRight_eq_div_pow, ← signedOf_ofNat]
    push_cast
    rfl
  rw [← shifted]
  exact Nat.mod_eq_of_lt (BitVec.isLt _)

end Shifts

/-- A shift fills its tile as an operation on bit vectors says that agrees with its rule on patterns. -/
theorem fills_planShift {s : State} {i : Instr} {w : BitVec 4} {d s1 s2 : BitVec 6} {ty : BitVec 3} {g : Nat → Nat → Nat → Nat}
    (run : exec i s = issue i w (planShift d s1 s2 ty g) s) (op : BitVec (Fmt.ofTy ty).width → Nat → BitVec (Fmt.ofTy ty).width)
    (agree : ∀ x n, x < 2 ^ (Fmt.ofTy ty).width →
      g (Fmt.ofTy ty).width x n % 2 ^ (Fmt.ofTy ty).width = (op (BitVec.ofNat (Fmt.ofTy ty).width x) n).toNat) :
    fills s i w 5 d (Fmt.ofTy ty) fun r c =>
      ((op (BitVec.ofNat (Fmt.ofTy ty).width (elemAt (tileOp s s.cur s1) (Fmt.ofTy ty) r c))
        (elemAt (tileOp s s.cur s2) (Fmt.ofTy ty) r c % (Fmt.ofTy ty).width)).toNat, 0) :=
  fills_planGrid run rfl fun r c => ⟨congrArg (· % 2 ^ (Fmt.ofTy ty).width) (agree _ _ (elemAt_lt _ _ r c)), rfl⟩

/-! ### Bytes of a tile and rows of a mask -/

/-- A ready instruction whose plan fills a tile without flags emits that tile. -/
theorem exec_planTile {s : State} {i : Instr} {w : BitVec 4} {p : State → Agent → Plan} {cls : Nat} {d : BitVec 6} {v : Tile}
    (run : exec i s = issue i w p s) (plan : p s s.cur = planTile cls d (fun _ => v) s s.cur) (h : ready s i w = true) :
    exec i s = .next (emit (issued s w) s.cur cls [.tile (physTile s s.cur.bank d) v false]) := by
  rw [run, issue_next h (by rw [plan]; rfl) (by rw [plan]; rfl), plan]
  rfl

/-- A tile given byte by byte. -/
def byteTile (g : Fin 128 → Fin 256 → Byte) : Tile := Vector.ofFn fun r => Vector.ofFn fun b => g r b

theorem byteTile_get (g : Fin 128 → Fin 256 → Byte) (r : Fin 128) (b : Fin 256) : ((byteTile g).get r).get b = g r b := by
  rw [byteTile, vget_ofFn, vget_ofFn]

/-- A ready instruction whose plan fills a tile byte by byte. -/
theorem bytes_planTile {s : State} {i : Instr} {w : BitVec 4} {p : State → Agent → Plan} {d : BitVec 6} (g : Fin 128 → Fin 256 → Byte)
    (run : exec i s = issue i w p s) (plan : p s s.cur = planTile 5 d (fun _ => byteTile g) s s.cur) (h : ready s i w = true) :
    ∃ v : Tile, exec i s = .next (emit (issued s w) s.cur 5 [.tile (physTile s s.cur.bank d) v false]) ∧
      ∀ (r : Fin 128) (b : Fin 256), (v.get r).get b = g r b :=
  ⟨byteTile g, exec_planTile run plan h, byteTile_get g⟩

/-- A ready instruction whose plan fills a mask row by row. -/
theorem rows_planMask {s : State} {i : Instr} {w : BitVec 4} {p : State → Agent → Plan} {md : BitVec 3} (g : Fin 128 → BitVec 256)
    (run : exec i s = issue i w p s) (plan : p s s.cur = planMask md (Vector.ofFn g) s s.cur) (h : ready s i w = true) :
    ∃ m : Mask, exec i s = .next (emit (issued s w) s.cur 5 [.mask (physMask s s.cur.bank md) m]) ∧ ∀ r : Fin 128, m.get r = g r := by
  refine ⟨Vector.ofFn g, ?_, vget_ofFn g⟩
  rw [run, issue_next h (by rw [plan]; rfl) (by rw [plan]; rfl), plan]
  rfl

/-! ### The mask row of a comparison (R46) -/

/-- Runs of e bits side by side, all set or all clear. -/
def bitRuns (e : Nat) (g : Nat → Bool) (n : Nat) : Nat :=
  (List.range n).foldl (fun a j => if g j then a + (2 ^ e - 1) * 2 ^ (e * j) else a) 0

theorem maskRow_eq (f : Fmt) (g : Nat → Bool) : maskRow f g = BitVec.ofNat 256 (bitRuns f.esz g f.rowLen) := rfl

theorem bitRuns_succ (e : Nat) (g : Nat → Bool) (n : Nat) :
    bitRuns e g (n + 1) = 2 ^ (e * n) * (if g n then 2 ^ e - 1 else 0) + bitRuns e g n := by
  rw [bitRuns, List.range_succ, List.foldl_append, List.foldl_cons, List.foldl_nil, ← bitRuns]
  split
  · rw [Nat.add_comm, Nat.mul_comm]
  · rw [Nat.mul_zero, Nat.zero_add]

theorem bitRuns_lt (e : Nat) (g : Nat → Bool) : ∀ n, bitRuns e g n < 2 ^ (e * n)
  | 0 => Nat.pow_pos two_pos
  | n + 1 => by
    have below := bitRuns_lt e g n
    have run : (if g n then 2 ^ e - 1 else 0) + 1 ≤ 2 ^ e := by
      have := Nat.one_le_two_pow (n := e)
      split <;> omega
    calc bitRuns e g (n + 1) < 2 ^ (e * n) * ((if g n then 2 ^ e - 1 else 0) + 1) := by rw [bitRuns_succ, Nat.mul_succ]; omega
      _ ≤ 2 ^ (e * (n + 1)) := by rw [Nat.mul_succ e, Nat.pow_add]; exact Nat.mul_le_mul_left _ run

/-- Every bit of a run is what its element's result says. -/
theorem testBit_bitRuns {e : Nat} (g : Nat → Bool) {c k : Nat} (hk : k < e) : ∀ {n : Nat}, c < n → (bitRuns e g n).testBit (e * c + k) = g c
  | n + 1, hc => by
    rw [bitRuns_succ, Nat.testBit_two_pow_mul_add _ (bitRuns_lt e g n)]
    rcases Nat.lt_succ_iff_lt_or_eq.mp hc with less | rfl
    · have inside : e * c + k < e * n := by
        have next : e * (c + 1) ≤ e * n := Nat.mul_le_mul_left e less
        rw [Nat.mul_succ] at next
        omega
      rw [if_pos inside, testBit_bitRuns g hk less]
    · rw [if_neg (by omega), Nat.add_sub_cancel_left]
      cases g c
      · exact Nat.zero_testBit k
      · exact (Nat.testBit_two_pow_sub_one e k).trans (decide_eq_true hk)

theorem Fmt.ofTy_ne_cb4 : ∀ ty : BitVec 3, Fmt.ofTy ty ≠ .cb4 := by decide

/-- The elements of a row fill its 256 bytes (R45). -/
theorem Fmt.esz_mul_rowLen {f : Fmt} (h : f ≠ .cb4) : f.esz * f.rowLen = 256 := by
  cases f
  case cb4 => exact absurd rfl h
  all_goals rfl

theorem maskRow_getLsbD {f : Fmt} (h : f ≠ .cb4) (g : Nat → Bool) {c k : Nat} (hc : c < f.rowLen) (hk : k < f.esz) :
    (maskRow f g).getLsbD (f.esz * c + k) = g c := by
  have inside : f.esz * c + k < 256 := by
    have next : f.esz * (c + 1) ≤ f.esz * f.rowLen := Nat.mul_le_mul_left _ hc
    rw [Nat.mul_succ, Fmt.esz_mul_rowLen h] at next
    omega
  rw [maskRow_eq, BitVec.getLsbD_ofNat, decide_eq_true inside, Bool.true_and, testBit_bitRuns g hk hc]

/-! ### Conditions (R172) -/

section Conditions
variable {f : Fmt} {x y : Nat}

/-- With a NaN operand only ne and uo hold. -/
theorem cmpHolds_nan (h : f.isF = true) (nan : (dec x f).isNaN = true ∨ (dec y f).isNaN = true) (c : BitVec 3) :
    cmpHolds c f x y = (c == 1 || c == 6) := by
  have unordered : ((dec x f).isNaN || (dec y f).isNaN) = true := by rwa [Bool.or_eq_true]
  simp only [cmpHolds, h, if_true, unordered]
  generalize ltV (dec x f) (dec y f) = lt
  generalize eqV (dec x f) (dec y f) = eq
  revert c lt eq
  decide

/-- The conditions on an ordered pair, from the pair's order and equality. -/
def orderedHolds (lt eq : Bool) (c : BitVec 3) : Bool :=
  match c.toNat with
  | 0 => eq
  | 1 => !eq
  | 2 => lt
  | 3 => lt || eq
  | 4 => !lt && !eq
  | 5 => !lt
  | 6 => false
  | _ => true

theorem cmpHolds_float (h : f.isF = true) (hx : (dec x f).isNaN = false) (hy : (dec y f).isNaN = false) (c : BitVec 3) :
    cmpHolds c f x y = orderedHolds (ltV (dec x f) (dec y f)) (eqV (dec x f) (dec y f)) c := by
  simp only [cmpHolds, h, if_true, hx, hy, Bool.or_self]
  generalize ltV (dec x f) (dec y f) = lt
  generalize eqV (dec x f) (dec y f) = eq
  revert c lt eq
  decide

theorem cmpHolds_int (h : f.isF = false) (c : BitVec 3) :
    cmpHolds c f x y = orderedHolds (decide (intOf f x < intOf f y)) (decide (intOf f x = intOf f y)) c := by
  have same : (intOf f x == intOf f y) = decide (intOf f x = intOf f y) := beq_eq_decide ..
  simp only [cmpHolds, h, Bool.false_eq_true, if_false, same]
  generalize decide (intOf f x < intOf f y) = lt
  generalize decide (intOf f x = intOf f y) = eq
  revert c lt eq
  decide

end Conditions

/-- The order of two integers decides every condition on them. -/
theorem orderedHolds_int (a b : Int) :
    let o := orderedHolds (decide (a < b)) (decide (a = b))
    o 0 = decide (a = b) ∧ o 1 = decide (a ≠ b) ∧ o 2 = decide (a < b) ∧ o 3 = decide (a ≤ b) ∧ o 4 = decide (b < a) ∧ o 5 = decide (b ≤ a) ∧
      o 6 = false ∧ o 7 = true := by
  have le : (decide (a < b) || decide (a = b)) = decide (a ≤ b) := by rw [← Bool.decide_or, decide_eq_decide]; omega
  have gt : (!decide (a < b) && !decide (a = b)) = decide (b < a) := by
    rw [← decide_not, ← decide_not, ← Bool.decide_and, decide_eq_decide]; omega
  have ge : (!decide (a < b)) = decide (b ≤ a) := by rw [← decide_not, decide_eq_decide]; omega
  exact ⟨rfl, decide_not.symm, rfl, le, gt, ge, rfl, rfl⟩

/-! ### The number of set bits (R186) -/

theorem maskCount_eq (m : Mask) : maskCount m = ((List.finRange 128).map fun r => (List.range 256).countP fun k => (m.get r).getLsbD k).sum := by
  have folds : maskCount m = m.toList.foldl (fun a r => a + (List.range 256).countP fun k => r.getLsbD k) 0 := by
    rw [maskCount, ← Vector.foldl_toList]
  rw [folds, toList_eq_map_get, List.foldl_map, List.sum_eq_foldl, List.foldl_map]

/-- Settles O28: a byte or row operation is its own plan, a shift on patterns is the shift of bit vectors, a comparison sets runs of mask bits, and its
conditions follow from order and equality. -/
theorem tileBitsAndMasks : Obligations.TileBitsAndMasks := by
  unfold Obligations.TileBitsAndMasks
  refine ⟨fun d s1 s2 ty w s => ?_, ⟨fun md cond s1 s2 ty w s h => ?_, fun f x y => ⟨cmpHolds_nan, fun h hx hy => ?_, fun h => ?_⟩,
    fun d s1 m ty w s => bytes_planTile _ rfl rfl⟩, fun md m1 m2 w s => ?_⟩
  · exact ⟨bytes_planTile _ rfl rfl, bytes_planTile _ rfl rfl, bytes_planTile _ rfl rfl, bytes_planTile _ rfl rfl,
      fills_planShift rfl _ fun x n _ => shiftLeft_pattern n, fills_planShift rfl _ fun x n => shiftRight_pattern n,
      fills_planShift rfl _ fun x n _ => sshiftRight_pattern n⟩
  · obtain ⟨m, run, rows⟩ := rows_planMask (i := .vcmp md cond s1 s2 ty w) _ rfl rfl h
    exact ⟨m, run, fun r c k hc hk => by rw [rows, maskRow_getLsbD (Fmt.ofTy_ne_cb4 ty) _ hc hk]⟩
  · simp only [cmpHolds_float h hx hy]
    exact ⟨rfl, rfl, rfl, rfl, rfl, rfl, rfl, rfl⟩
  · simp only [cmpHolds_int h]
    exact orderedHolds_int _ _
  · refine ⟨rows_planMask _ rfl rfl, rows_planMask _ rfl rfl, rows_planMask _ rfl rfl, rows_planMask _ rfl rfl, fun h => ⟨?_, maskCount_eq _⟩⟩
    have run : exec (.mpop md m1 w) s = execMpop md m1 w s := rfl
    rw [run, execMpop, issue_next h rfl rfl]

end Sys2Proof.Machine
end

section
/-! PROOFS. Reductions and scans: what they leave of a line, the tree order, and the prefixes of a tree scan (R179-R181). -/

namespace Sys2Proof.Machine

/-! ### Grids that agree on a format's elements -/

theorem gridOf_congr {f : Fmt} {g h : Fin 128 → Nat → Nat × Flags} (same : ∀ r c, c < f.rowLen → g r c = h r c) : gridOf f g = gridOf f h := by
  unfold gridOf
  congr
  funext r
  congr
  funext c
  exact same r c.val c.isLt

/-- A ready instruction whose plan fills a tile from the grid of some elements fills it with those. -/
theorem fills_grid {s : State} {i : Instr} {w : BitVec 4} {cls : Nat} {d : BitVec 6} {f : Fmt} {p : State → Agent → Plan} {g : Unit → Grid}
    {res : Fin 128 → Nat → Nat × Flags} (run : exec i s = issue i w p s) (plan : p s s.cur = planGrid cls d f g s s.cur)
    (grid : g () = gridOf f res) : fills s i w cls d f res :=
  fills_planGrid run (plan.trans (congrArg (fun x => planGrid cls d f x s s.cur) (funext fun _ => grid))) fun _ _ => ⟨rfl, rfl⟩

/-! ### Lines -/

section Lines
variable (f : Fmt) (rm : BitVec 2) (add : Nat × Flags → Nat × Flags → Nat × Flags)

theorem seqSum_eq (l : List (Nat × Flags)) : seqSum add l = l.tail.foldl add (l.headD (0, 0)) := by
  cases l <;> rfl

/-- A reduction is a sum in one of the two orders, or the extreme of the line (R180). -/
theorem redLine_eq (order : BitVec 1) (kind : BitVec 2) (l : List (Nat × Flags)) : redLine f rm (order == 1) kind l =
    if kind = 0 then (if order = 1 then treeSum (addRnd f rm) 8 l else l.tail.foldl (addRnd f rm) (l.headD (0, 0)))
    else l.tail.foldl (extremeOf f (kind == 1)) (l.headD (0, 0)) := by
  have kinds : kind = 0 ∨ kind = 1 ∨ (kind.toNat ≠ 0 ∧ kind.toNat ≠ 1 ∧ kind ≠ 0 ∧ (kind == 1) = false) := by revert kind; decide
  simp only [← seqSum_eq]
  rcases kinds with rfl | rfl | ⟨n0, n1, sum, greatest⟩
  · simp [redLine]
  · rfl
  · rw [if_neg sum, greatest]
    unfold redLine
    split
    next zero => exact absurd zero n0
    next one => exact absurd one n1
    next => rfl

theorem length_seqScan : ∀ (y : Nat × Flags) (l : List (Nat × Flags)), (seqScan add y l).length = l.length
  | _, [] => rfl
  | y, x :: t => congrArg (· + 1) (length_seqScan (add y x) t)

theorem length_treeScan : ∀ (bl : List (Nat × (Nat × Flags))) (l : List (Nat × Flags)), (treeScan add bl l).length = l.length
  | _, [] => rfl
  | _, _ :: t => congrArg (· + 1) (length_treeScan _ t)

/-- An initial sum in sequential order is that of the elements up to its end. -/
theorem seqScan_getD : ∀ (m : Nat) (y : Nat × Flags) (l : List (Nat × Flags)), m < l.length →
    (seqScan add y l).getD m (0, 0) = (l.take (m + 1)).foldl add y
  | 0, _, _ :: _, _ => rfl
  | m + 1, y, x :: t, h => seqScan_getD m (add y x) t (Nat.lt_of_succ_lt_succ h)

/-- The prefixes of a line in the order named (R181). -/
def linePrefixes (order : BitVec 1) (l : List (Nat × Flags)) : List (Nat × Flags) :=
  if order = 1 then treeScan add [] l else match l with | [] => [] | x :: t => x :: seqScan add x t

theorem length_linePrefixes (order : BitVec 1) (l : List (Nat × Flags)) : (linePrefixes add order l).length = l.length := by
  unfold linePrefixes
  split
  · exact length_treeScan add [] l
  · cases l with
    | nil => rfl
    | cons x t => exact congrArg (· + 1) (length_seqScan add x t)

/-- The initial sum of a line that ends at an element (R181). -/
def prefixAt (order : BitVec 1) (l : List (Nat × Flags)) (m : Nat) : Nat × Flags :=
  if order = 1 then (treeScan add [] l).getD m (0, 0) else (l.tail.take m).foldl add (l.headD (0, 0))

theorem linePrefixes_getD (order : BitVec 1) {l : List (Nat × Flags)} {m : Nat} (h : m < l.length) :
    (linePrefixes add order l).getD m (0, 0) = prefixAt add order l m := by
  unfold linePrefixes prefixAt
  split
  · rfl
  · match l, m, h with
    | x :: _, 0, _ => rfl
    | x :: t, m + 1, h => exact seqScan_getD add m x t (Nat.lt_of_succ_lt_succ h)

theorem scanLine_eq (order : BitVec 1) (kind : BitVec 2) (l : List (Nat × Flags)) : scanLine f rm (order == 1) (kind == 1) l =
    if kind = 1 then (0, 0) :: (linePrefixes (addRnd f rm) order l).dropLast else linePrefixes (addRnd f rm) order l := by
  cases l <;> simp only [scanLine, linePrefixes, beq_iff_eq]

/-- An exclusive scan leaves the prefixes one place on, behind a zero. -/
theorem scanLine_getD (order : BitVec 1) (kind : BitVec 2) {l : List (Nat × Flags)} {m : Nat} (h : m < l.length) :
    (scanLine f rm (order == 1) (kind == 1) l).getD m (0, 0) =
      if kind = 1 then (if m = 0 then (0, 0) else prefixAt (addRnd f rm) order l (m - 1)) else prefixAt (addRnd f rm) order l m := by
  rw [scanLine_eq]
  split
  · cases m with
    | zero => rfl
    | succ m =>
      have inside : m < (linePrefixes (addRnd f rm) order l).length - 1 := by rw [length_linePrefixes]; omega
      rw [if_neg (Nat.succ_ne_zero m), Nat.add_sub_cancel, ← linePrefixes_getD _ _ (Nat.lt_of_succ_lt h), List.getD_cons_succ,
        List.getD_eq_getElem?_getD, List.getElem?_dropLast, if_pos inside, List.getD_eq_getElem?_getD]
  · exact linePrefixes_getD _ order h

end Lines

/-! ### The tree order (R180) -/

section Tree
variable (add : Nat × Flags → Nat × Flags → Nat × Flags)

theorem treeSum_single (n : Nat) (x : Nat × Flags) : treeSum add n [x] = x := by
  cases n <;> rfl

theorem pairSums_append : ∀ (n : Nat) (l r : List (Nat × Flags)), l.length = 2 * n → pairSums add (l ++ r) = pairSums add l ++ pairSums add r
  | 0, [], _, _ => rfl
  | n + 1, x :: y :: l, r, h => by
    have rest := pairSums_append n l r (by simp only [List.length_cons] at h; omega)
    rw [List.cons_append, List.cons_append, pairSums, rest, pairSums, List.cons_append]

theorem length_pairSums : ∀ (n : Nat) (l : List (Nat × Flags)), l.length = 2 * n → (pairSums add l).length = n
  | 0, [], _ => rfl
  | n + 1, x :: y :: l, h => by
    rw [pairSums, List.length_cons, length_pairSums n l (by simp only [List.length_cons] at h; omega)]

theorem treeSum_pairSums {n : Nat} {l : List (Nat × Flags)} (h : 1 < l.length) : treeSum add (n + 1) l = treeSum add n (pairSums add l) := by
  rw [treeSum, if_neg (Nat.not_le.mpr h)]

/-- The tree sum of an aligned block is the sum of those of its halves. -/
theorem treeSum_append : ∀ {n p : Nat} {l r : List (Nat × Flags)}, p < n → l.length = 2 ^ p → r.length = 2 ^ p →
    treeSum add n (l ++ r) = add (treeSum add n l) (treeSum add n r)
  | n + 1, 0, [x], [y], _, _, _ => by
    rw [treeSum_single, treeSum_single]
    exact (treeSum_pairSums add (l := [x, y]) Nat.one_lt_two).trans (treeSum_single add n (add x y))
  | n + 1, p + 1, l, r, less, hl, hr => by
    rw [Nat.pow_succ'] at hl hr
    have long := Nat.one_le_two_pow (n := p)
    have join : 1 < (l ++ r).length := by rw [List.length_append]; omega
    rw [treeSum_pairSums add join, pairSums_append add _ l r hl, treeSum_pairSums add (l := l) (by omega), treeSum_pairSums add (l := r) (by omega)]
    exact treeSum_append (Nat.lt_of_succ_lt_succ less) (length_pairSums add _ l hl) (length_pairSums add _ r hr)

/-! ### The blocks of a line's first elements (R181) -/

/-- The tree sum of the 2^p elements from a place on. -/
def blockSum (l : List (Nat × Flags)) (start p : Nat) : Nat × Flags := treeSum add 8 ((l.drop start).take (2 ^ p))

theorem blockSum_zero {l : List (Nat × Flags)} {start : Nat} (h : start < l.length) : blockSum add l start 0 = l[start] := by
  rw [blockSum, List.drop_eq_getElem_cons h]
  exact treeSum_single add 8 _

theorem blockSum_succ {l : List (Nat × Flags)} {start p : Nat} (small : p < 8) (h : start + 2 ^ (p + 1) ≤ l.length) :
    add (blockSum add l start p) (blockSum add l (start + 2 ^ p) p) = blockSum add l start (p + 1) := by
  rw [Nat.pow_succ'] at h
  rw [blockSum, blockSum, blockSum, Nat.pow_succ', Nat.two_mul, List.take_add, List.drop_drop]
  refine (treeSum_append add small ?_ ?_).symm
  · rw [List.length_take, List.length_drop]; omega
  · rw [List.length_take, List.length_drop]; omega

/-- The first n elements of a line cut into aligned blocks of falling size, least block first, each with its tree sum. -/
inductive Blocks (l : List (Nat × Flags)) : Nat → List (Nat × (Nat × Flags)) → Prop where
  | nil : Blocks l 0 []
  | cons {n p : Nat} {rest : List (Nat × (Nat × Flags))} (aligned : 2 ^ (p + 1) ∣ n) (before : Blocks l n rest) :
      Blocks l (n + 2 ^ p) ((p, blockSum add l n p) :: rest)

variable {add} {l : List (Nat × Flags)}

/-- One more aligned block joins the equal blocks before it. -/
theorem Blocks.carry (short : l.length ≤ 256) {n : Nat} {rest : List (Nat × (Nat × Flags))} (h : Blocks add l n rest) :
    ∀ {fuel q : Nat}, 2 ^ q ∣ n → n + 2 ^ q ≤ l.length → 9 ≤ fuel + q →
      Blocks add l (n + 2 ^ q) (carryBlocks add fuel q (blockSum add l n q) rest) := by
  induction h with
  | nil =>
    intro fuel q _ _ _
    cases fuel with
    | zero => exact .cons (dvd_zero _) .nil
    | succ fuel => exact .cons (dvd_zero _) .nil
  | @cons n p rest aligned before ih =>
    intro fuel q divides fits enough
    have small : q ≤ 8 := by
      have : 2 ^ q ≤ 2 ^ 8 := by omega
      exact (Nat.pow_le_pow_iff_right (by decide)).mp this
    obtain ⟨fuel, rfl⟩ : ∃ k, fuel = k + 1 := ⟨fuel - 1, by omega⟩
    have coarser : q ≤ p := by
      by_contra finer
      have both : 2 ^ (p + 1) ∣ 2 ^ p := (Nat.dvd_add_right aligned).mp ((Nat.pow_dvd_pow 2 (by omega)).trans divides)
      exact absurd (Nat.le_of_dvd (Nat.two_pow_pos p) both) (by rw [Nat.pow_succ]; have := Nat.two_pow_pos p; omega)
    rw [carryBlocks]
    split
    next equal =>
      subst equal
      have whole : n + 2 ^ p + 2 ^ p = n + 2 ^ (p + 1) := by rw [Nat.pow_succ]; omega
      rw [whole] at fits ⊢
      have bound : p + 1 ≤ 8 := by
        have : 2 ^ (p + 1) ≤ 2 ^ 8 := by omega
        exact (Nat.pow_le_pow_iff_right (by decide)).mp this
      rw [blockSum_succ add (by omega) fits]
      exact ih aligned fits (by omega)
    next differ =>
      have finer : q + 1 ≤ p := by omega
      exact .cons (dvd_add ((Nat.pow_dvd_pow 2 (by omega)).trans aligned) (Nat.pow_dvd_pow 2 finer)) (.cons aligned before)

/-- A number is a power of two times an odd one in one way only. -/
theorem two_pow_mul_odd_inj : ∀ {p q k j : Nat}, 2 ^ p * (2 * k + 1) = 2 ^ q * (2 * j + 1) → p = q ∧ k = j
  | 0, 0, k, j, h => by omega
  | 0, q + 1, k, j, h => by rw [Nat.pow_succ', Nat.mul_assoc] at h; omega
  | p + 1, 0, k, j, h => by rw [Nat.pow_succ', Nat.mul_assoc] at h; omega
  | p + 1, q + 1, k, j, h => by
    rw [Nat.pow_succ', Nat.pow_succ', Nat.mul_assoc, Nat.mul_assoc] at h
    obtain ⟨rfl, rfl⟩ := two_pow_mul_odd_inj (Nat.eq_of_mul_eq_mul_left two_pos h)
    exact ⟨rfl, rfl⟩

theorem Blocks.of_zero {bl : List (Nat × (Nat × Flags))} (h : Blocks add l 0 bl) : bl = [] := by
  generalize zero : 0 = n at h
  cases h with
  | nil => rfl
  | @cons n p => have := Nat.two_pow_pos p; omega

theorem Blocks.ne_nil {n : Nat} {bl : List (Nat × (Nat × Flags))} (h : Blocks add l n bl) (positive : 0 < n) : bl ≠ [] := by
  cases h with
  | nil => exact absurd positive (lt_irrefl 0)
  | cons => exact List.cons_ne_nil _ _

/-- The least block is the one that the number of elements ends in. -/
theorem Blocks.least {p k : Nat} {bl : List (Nat × (Nat × Flags))} (h : Blocks add l (2 ^ p * (2 * k + 1)) bl) :
    ∃ rest, bl = (p, blockSum add l (2 ^ p * (2 * k)) p) :: rest ∧ Blocks add l (2 ^ p * (2 * k)) rest := by
  generalize total : 2 ^ p * (2 * k + 1) = m at h
  cases h with
  | nil => exact absurd total (Nat.mul_ne_zero (Nat.two_pow_pos p).ne' (Nat.succ_ne_zero _))
  | @cons n q rest aligned before =>
    obtain ⟨j, rfl⟩ := aligned
    have odd : 2 ^ (q + 1) * j + 2 ^ q = 2 ^ q * (2 * j + 1) := by rw [Nat.pow_succ]; ring
    obtain ⟨rfl, rfl⟩ := two_pow_mul_odd_inj (total.trans odd)
    rw [Nat.pow_succ, Nat.mul_assoc] at before ⊢
    exact ⟨rest, rfl, before⟩

theorem Blocks.unique {n : Nat} {bl : List (Nat × (Nat × Flags))} (h : Blocks add l n bl) : ∀ {bl'}, Blocks add l n bl' → bl' = bl := by
  induction h with
  | nil => exact Blocks.of_zero
  | @cons n p rest aligned before ih =>
    intro bl' h'
    obtain ⟨j, rfl⟩ := aligned
    have odd : 2 ^ (p + 1) * j + 2 ^ p = 2 ^ p * (2 * j + 1) := by rw [Nat.pow_succ]; ring
    rw [odd] at h'
    obtain ⟨rest', rfl, before'⟩ := h'.least
    rw [← Nat.mul_assoc, ← Nat.pow_succ] at before' ⊢
    rw [ih before']

theorem seqSum_concat {t : List (Nat × Flags)} (h : t ≠ []) (x : Nat × Flags) : seqSum add (t ++ [x]) = add (seqSum add t) x := by
  cases t with
  | nil => exact absurd rfl h
  | cons y t => simp only [seqSum, List.cons_append, List.foldl_append, List.foldl_cons, List.foldl_nil]

/-- The least block is added last. -/
theorem joinBlocks_cons {rest : List (Nat × (Nat × Flags))} (h : rest ≠ []) (b : Nat × (Nat × Flags)) :
    joinBlocks add (b :: rest) = add (joinBlocks add rest) b.2 := by
  rw [joinBlocks, List.map_cons, List.reverse_cons, seqSum_concat (by simpa using h), joinBlocks]

/-- A tree scan joins the blocks of the elements up to each place. -/
theorem treeScan_blocks (short : l.length ≤ 256) : ∀ (j : Nat) {n : Nat} {bl : List (Nat × (Nat × Flags))}, Blocks add l n bl → n + j < l.length →
    ∃ bl', Blocks add l (n + j + 1) bl' ∧ (treeScan add bl (l.drop n))[j]? = some (joinBlocks add bl')
  | j, n, bl, h, inside => by
    have first : n < l.length := by omega
    have next : Blocks add l (n + 1) (carryBlocks add 16 0 l[n] bl) := by
      rw [← blockSum_zero add first]
      exact h.carry short (q := 0) (one_dvd n) first (by decide)
    rw [List.drop_eq_getElem_cons first]
    cases j with
    | zero => exact ⟨_, next, rfl⟩
    | succ j =>
      obtain ⟨bl', blocks, found⟩ := treeScan_blocks short j next (by omega)
      exact ⟨bl', by rwa [show n + (j + 1) + 1 = n + 1 + j + 1 by omega], found⟩

/-- A place of a tree scan holds the sum before its least block, where there is one, plus that block's tree sum (R181). -/
theorem treeScan_getElem (short : l.length ≤ 256) {m p k : Nat} (inside : m < l.length) (least : m + 1 = 2 ^ p * (2 * k + 1)) :
    (k = 0 → (treeScan add [] l)[m]? = some (blockSum add l (m + 1 - 2 ^ p) p)) ∧
    (k ≠ 0 → ∃ before, (treeScan add [] l)[m - 2 ^ p]? = some before ∧
      (treeScan add [] l)[m]? = some (add before (blockSum add l (m + 1 - 2 ^ p) p))) := by
  have scan : ∀ j, j < l.length → ∃ bl, Blocks add l (j + 1) bl ∧ (treeScan add [] l)[j]? = some (joinBlocks add bl) := fun j hj => by
    simpa using treeScan_blocks short j (Blocks.nil (add := add)) (by simpa using hj)
  have start : m + 1 - 2 ^ p = 2 ^ p * (2 * k) := by rw [least, Nat.mul_succ, Nat.add_sub_cancel]
  obtain ⟨bl, blocks, found⟩ := scan m inside
  rw [least] at blocks
  obtain ⟨rest, rfl, before⟩ := blocks.least
  rw [start, found]
  refine ⟨fun alone => ?_, fun more => ?_⟩
  · subst alone
    rw [before.of_zero]
    rfl
  · have block := Nat.two_pow_pos p
    have positive : 0 < 2 ^ p * (2 * k) := Nat.mul_pos block (by omega)
    generalize 2 ^ p * (2 * k) = n at *
    obtain ⟨bl', blocks', found'⟩ := scan (m - 2 ^ p) (by omega)
    rw [show m - 2 ^ p + 1 = n by omega] at blocks'
    obtain rfl := before.unique blocks'
    exact ⟨_, found', by rw [joinBlocks_cons (blocks'.ne_nil positive)]⟩

end Tree

/-! ### Results of every line of a tile -/

theorem ofFn_getD {α : Type} {n j : Nat} (g : Fin n → α) (d : α) (h : j < n) : (Array.ofFn g).getD j d = g ⟨j, h⟩ := by
  simp [Array.getD, h]

theorem length_rowLine (t : Tile) (f : Fmt) (r : Fin 128) : (rowLine t f r).length = f.rowLen := by
  rw [rowLine, List.length_map, List.length_range]

theorem length_colLine (t : Tile) (f : Fmt) (c : Nat) : (colLine t f c).length = 128 := by
  rw [colLine, List.length_map, List.length_finRange]

/-- Settles O31: each line's result is the line's fold or tree sum, and the blocks of a line's first elements are those of their
number in binary. -/
theorem reductionsAndScans : Obligations.ReductionsAndScans := by
  unfold Obligations.ReductionsAndScans
  refine ⟨fun d s1 order axis kind ty w s => ⟨fills_grid rfl rfl ?_, fills_grid rfl rfl ?_⟩,
    fun add => ⟨treeSum_single add 8, fun p l r small hl hr => treeSum_append add small hl hr⟩,
    fun add l m p k short inside least => treeScan_getElem short inside least⟩
  · by_cases rows : axis = 0
    · simp only [rows, if_true]
      refine gridOf_congr fun r c _ => ?_
      rw [vget_ofFn, redLine_eq]
      rfl
    · simp only [rows, if_false]
      refine gridOf_congr fun r c hc => ?_
      rw [ofFn_getD _ _ hc, redLine_eq]
      rfl
  · by_cases rows : axis = 0
    · simp only [rows, if_true]
      refine gridOf_congr fun r c hc => ?_
      rw [vget_ofFn, Array.getD_eq_getD_getElem?, List.getElem?_toArray, ← List.getD_eq_getElem?_getD]
      exact scanLine_getD _ _ order kind (by rwa [length_rowLine])
    · simp only [rows, if_false]
      refine gridOf_congr fun r c hc => ?_
      rw [ofFn_getD _ _ hc, Array.getD_eq_getD_getElem?, List.getElem?_toArray, ← List.getD_eq_getElem?_getD]
      exact scanLine_getD _ _ order kind (by rw [length_colLine]; exact r.isLt)

end Sys2Proof.Machine
end

section
/-! PROOFS. Conversions, CB4 coding and row scaling: the tiles that they wait for and fill, and the code nearest to a value (R168, R175-R178). -/

namespace Sys2Proof.Machine

/-! ### Tiles in produce and in consume mode (R168) -/

theorem elements_gridTile (f : Fmt) (res : Fin 128 → Nat → Nat × Flags) :
    Elements f res (gridTile f (gridOf f res)) (gridFlags (gridOf f res)) :=
  ⟨elemAt_gridTile f res, gridFlags_getLsbD f res⟩

theorem produceHold_on {s : State} {u : SuiteId} {p : Fin 48} (h : (tileFlag s u p).full = true ∨ (tileFlag s u p).producing = true) :
    produceHold s u p = some ⟨true, true⟩ :=
  produceHold_taken (by obtain h | h := h <;> simp [h])

theorem consumeHold_on {s : State} {u : SuiteId} {p : Fin 48} (h : (tileFlag s u p).full = false ∨ (tileFlag s u p).consuming = true) :
    consumeHold s u p = some ⟨true, true⟩ :=
  consumeHold_waits (by obtain h | h := h <;> simp [h])

/-- An instruction whose own wait is on and does nothing more marks its stream. -/
theorem exec_waits {s : State} {i : Instr} {w : BitVec 4} {p : State → Agent → Plan} {k : Hold} (run : exec i s = issue i w p s)
    (h : free s i w = true) (hold : (p s s.cur).hold = some k) (plain : (p s s.cur).onHold = id) : exec i s = .next (markHeld s s.cur k) := by
  rw [run, issue_waits h hold, plain]
  rfl

/-- A plan that waits for the full bit of a tile, takes the tile, and has results of a grid by class C8. -/
def planTakes (hold : Option Hold) (q : Fin 48) (take : TileFlag → TileFlag) (f : Fmt) (res : Fin 128 → Nat → Nat × Flags)
    (out : Tile → List Result) (s : State) (ag : Agent) : Plan :=
  { hold := hold
    wait := tileWait s ag.suite q
    act := fun t => emit (modTileFlag t ag.suite q take) ag 8 (out (gridTile f (gridOf f res))) (gridFlags (gridOf f res)) }

theorem exec_planTakes {s : State} {i : Instr} {w : BitVec 4} {p : State → Agent → Plan} {hold : Option Hold} {q : Fin 48}
    {take : TileFlag → TileFlag} {f : Fmt} {res : Fin 128 → Nat → Nat × Flags} {out : Tile → List Result} (run : exec i s = issue i w p s)
    (plan : p s s.cur = planTakes hold q take f res out s s.cur) (h : ready s i w = true) (goes : hold = none) :
    ∃ v fl, Elements f res v fl ∧ exec i s =
      .next (emit (modTileFlag (issued s w { wait := tileWait s s.cur.suite q }) s.cur.suite q take) s.cur 8 (out v) fl) := by
  refine ⟨_, _, elements_gridTile f res, ?_⟩
  rw [run, issue_next h (by rw [plan]; exact goes) (by rw [plan]; rfl), plan]
  rfl

/-! ### The nearest code (R177) -/

/-- A distance and a size of which the distance is less, or the same and the size no greater. -/
def within (x y : Nat × Nat) : Prop := x.1 < y.1 ∨ (x.1 = y.1 ∧ x.2 ≤ y.2)

theorem within_refl (x : Nat × Nat) : within x x := .inr ⟨rfl, le_refl _⟩

theorem within_trans {x y z : Nat × Nat} (h : within x y) (g : within y z) : within x z := by
  unfold within at *
  omega

section Closest
variable (dist : Nat → Nat × Nat)

/-- The code at hand, or another one that is closer. -/
def nearer (m c : Nat) : Nat := if (dist c).1 < (dist m).1 ∨ ((dist c).1 = (dist m).1 ∧ (dist c).2 < (dist m).2) then c else m

theorem nearer_within (m c : Nat) : within (dist (nearer dist m c)) (dist m) ∧ within (dist (nearer dist m c)) (dist c) := by
  unfold nearer within
  split <;> omega

theorem nearer_cases (m c : Nat) : nearer dist m c = m ∨ nearer dist m c = c := by
  unfold nearer
  split
  · exact .inr rfl
  · exact .inl rfl

/-- Running through codes, the closest one is kept. -/
theorem foldl_nearer : ∀ (l : List Nat) (m : Nat), l.foldl (nearer dist) m ∈ m :: l ∧ ∀ e ∈ m :: l, within (dist (l.foldl (nearer dist) m)) (dist e)
  | [], m => ⟨List.mem_singleton.mpr rfl, fun e he => by rw [List.mem_singleton.mp he]; exact within_refl _⟩
  | c :: l, m => by
    obtain ⟨member, least⟩ := foldl_nearer l (nearer dist m c)
    obtain ⟨old, new⟩ := nearer_within dist m c
    have first := least _ List.mem_cons_self
    rw [List.foldl_cons]
    refine ⟨?_, fun e he => ?_⟩
    · rcases List.mem_cons.mp member with same | inside
      · rw [same]
        rcases nearer_cases dist m c with h | h <;> rw [h] <;> simp
      · exact List.mem_cons_of_mem _ (List.mem_cons_of_mem _ inside)
    · rcases List.mem_cons.mp he with rfl | he
      · exact within_trans first old
      · rcases List.mem_cons.mp he with rfl | he
        · exact within_trans first new
        · exact least e (List.mem_cons_of_mem _ he)

/-- The closest of the 16 codes. -/
def closestCode : Nat := (List.range 16).foldl (nearer dist) 0

theorem closestCode_lt : closestCode dist < 16 := by
  rcases List.mem_cons.mp (foldl_nearer dist (List.range 16) 0).1 with zero | inside
  · exact zero.trans_lt (by decide)
  · exact List.mem_range.mp inside

theorem closestCode_within {e : Nat} (h : e < 16) : within (dist (closestCode dist)) (dist e) :=
  (foldl_nearer dist (List.range 16) 0).2 e (List.mem_cons_of_mem _ (List.mem_range.mpr h))

end Closest

/-- The code that VQENC takes for two finite values is the closest, in units below both values' exponents. -/
theorem nearestCode_fin (n m : Bool) (u a : Nat) (v b : Int) (sb : Nat) :
    let dist := cb4Dist (.fin n u v) (.fin m a b) sb (min v (b - 18))
    nearestCode (.fin n u v) (.fin m a b) sb = (closestCode dist, (dist (closestCode dist)).1 != 0) := rfl

section Encode
variable {x sc : Val} {sb : Nat}

theorem vqencElem_invalid (h : x.isNaN = true ∨ sc.isFinite = false) : vqencElem x sc sb = (7, Flags.invalid) :=
  if_pos (by simpa using h)

theorem vqencElem_zero (h : x.isNaN = false) (zero : sc.isZero = true) : vqencElem x sc sb = (7, if x.isZero then 0 else Flags.inexact) := by
  have finite : sc.isFinite = true := by
    cases sc with
    | fin => rfl
    | nan | inf => exact Bool.noConfusion zero
  unfold vqencElem
  rw [if_neg (by simp [h, finite]), if_pos zero]

variable {m : Bool} {a : Nat} {b : Int} (nonzero : a ≠ 0)
include nonzero

/-- An infinity takes the code of greatest or least value, by its sign and the scale's. -/
theorem vqencElem_inf (n : Bool) : vqencElem (.inf n) (.fin m a b) sb = (if m = n then 15 else 0, Flags.inexact) := by
  have scale : (Val.fin m a b).isZero = false := beq_false_of_ne nonzero
  unfold vqencElem
  rw [if_neg (by simp [Val.isNaN, Val.isFinite]), if_neg (by simp [scale])]
  cases m <;> cases n <;> rfl

theorem vqencElem_fin (n : Bool) (u : Nat) (v : Int) :
    let dist := cb4Dist (.fin n u v) (.fin m a b) sb (min v (b - 18))
    vqencElem (.fin n u v) (.fin m a b) sb = (closestCode dist, if (dist (closestCode dist)).1 = 0 then 0 else Flags.inexact) := by
  intro dist
  have scale : (Val.fin m a b).isZero = false := beq_false_of_ne nonzero
  have code : nearestCode (.fin n u v) (.fin m a b) sb = (closestCode dist, (dist (closestCode dist)).1 != 0) := nearestCode_fin ..
  unfold vqencElem
  rw [if_neg (by simp [Val.isNaN, Val.isFinite]), if_neg (by simp [scale])]
  dsimp only
  rw [code]
  by_cases exact : (dist (closestCode dist)).1 = 0 <;> simp [exact]

end Encode

/-- Settles O30: each conversion is one grid in its tile's mode, and VQENC's code is the least by distance and size of those it runs through. -/
theorem tileConversions : Obligations.TileConversions := by
  unfold Obligations.TileConversions
  refine ⟨fun d s1 s2 dty rmi ov ty w s => ⟨?_, ?_, ?_, ?_⟩, fun x sc sb => ⟨vqencElem_invalid, vqencElem_zero, ?_, ?_⟩⟩
  · exact ⟨fun h full idle => exec_planTakes rfl rfl h (produceHold_free (by rw [full, idle]; rfl)),
      fun h on => exec_waits rfl h (produceHold_on on) rfl⟩
  · exact ⟨fun h full idle => exec_planTakes rfl rfl h (produceHold_free (by rw [full, idle]; rfl)),
      fun h on => exec_waits rfl h (produceHold_on on) rfl⟩
  · exact ⟨fun h full idle => exec_planTakes rfl rfl h (consumeHold_ready (by rw [full, idle]; rfl)),
      fun h on => exec_waits rfl h (consumeHold_on on) rfl⟩
  · exact fills_planGrid rfl rfl fun _ _ => ⟨rfl, rfl⟩
  · rintro n m a b nonzero rfl rfl
    exact vqencElem_inf nonzero n
  · rintro n m u a v b nonzero rfl rfl
    rw [vqencElem_fin nonzero]
    exact ⟨closestCode_lt _, fun e he => closestCode_within (cb4Dist (.fin n u v) (.fin m a b) sb (min v (b - 18))) he, rfl⟩

end Sys2Proof.Machine
end

section
/-! PROOFS. Tile movement and accumulator moves: what a move takes from its source, what VACC reads and what VACW writes (R182-R185). -/

namespace Sys2Proof.Machine

/-! ### Movement (R182) -/

/-- A ready instruction whose plan fills a tile from a grid without flags gives the tile the grid's elements and raises none. -/
theorem fills_planTile {s : State} {i : Instr} {w : BitVec 4} {p : State → Agent → Plan} {cls : Nat} {d : BitVec 6} {f : Fmt}
    {res : Fin 128 → Nat → Nat × Flags} (run : exec i s = issue i w p s)
    (plan : p s s.cur = planTile cls d (fun _ => gridTile f (gridOf f res)) s s.cur) (flagless : ∀ r c, (res r c).2 = 0) :
    fills s i w cls d f res := by
  intro h
  refine ⟨gridTile f (gridOf f res), 0, ⟨fun r c hc => elemAt_gridTile f res r c hc, fun n => ?_⟩, exec_planTile run plan h⟩
  simp [flagless]

theorem fills_planMove {s : State} {i : Instr} {w : BitVec 4} {p : State → Agent → Plan} {d s1 : BitVec 6} {ty : BitVec 3}
    {g : Fmt → Fin 128 → Nat → Option (Fin 128 × Nat)} {res : Fin 128 → Nat → Nat × Flags} (run : exec i s = issue i w p s)
    (plan : p s s.cur = planMove d s1 ty g s s.cur)
    (moved : ∀ r c, ((g (Fmt.ofTy ty) r c).map fun k => (elemAt (tileOp s s.cur s1) (Fmt.ofTy ty) k.1 k.2, 0)).getD (0, 0) = res r c) :
    fills s i w 5 d (Fmt.ofTy ty) res := by
  refine fills_planTile run (plan.trans ?_) fun r c => ?_
  · refine congrArg (fun x => planTile 5 d (fun _ => gridTile (Fmt.ofTy ty) x) s s.cur) (gridOf_congr fun r c _ => ?_)
    rw [← moved]
    cases g (Fmt.ofTy ty) r c <;> rfl
  · rw [← moved]
    cases g (Fmt.ofTy ty) r c <;> rfl

/-! ### What an issue leaves of the accumulator stores -/

/-- The package and every accumulator store are as they were. -/
def SameAccs (s t : State) : Prop := t.pkg = s.pkg ∧ ∀ u, (t.room u).acc = (s.room u).acc

theorem SameAccs.trans {s t v : State} (h : SameAccs s t) (g : SameAccs t v) : SameAccs s v :=
  ⟨g.1.trans h.1, fun u => (g.2 u).trans (h.2 u)⟩

theorem OnlyIssue.sameAccs {s t : State} {ag : Agent} (h : OnlyIssue s t ag) : SameAccs s t :=
  ⟨h.pkg, fun u => by rw [State.room, State.room, h.rooms]⟩

theorem sameAccs_setPos (s : State) (ag : Agent) (p : Nat) : SameAccs s (setPos s ag p) := by
  by_cases drain : ag.kind = .drain
  · simp only [setPos, drain]
    refine ⟨rfl, fun u => ?_⟩
    rw [State.room_modRoom]
    split
    next same => rw [same]
    next => rfl
  · exact (setPos_bookkeeping s ag p drain).1.sameAccs

theorem sameAccs_issued {s : State} (w : BitVec 4) (p : Plan) (q : quiet s = true) : SameAccs s (issued s w p) := by
  have before := (beforeMove_bookkeeping w p (quietFor_of_quiet q)).1
  refine before.sameAccs.trans ?_
  rw [issued_eq]
  split
  · exact sameAccs_setPos _ _ _
  · by_cases drain : s.cur.kind = .drain
    · rw [advance, if_pos (.inr drain)]
      exact sameAccs_setPos _ _ _
    · exact (advance_bookkeeping _ _ _ drain (quietFor_keep before (quietFor_of_quiet q))).1.sameAccs

/-! ### Reads of half an accumulator tile (R183) -/

/-- Without errors pending a read of half a tile gives the tile as it stands. -/
theorem accReadHalf_none {s : State} (h : s.pkg.flips = []) (u : SuiteId) (k : Fin 32) (half : Bool) (rows : Fin 128 → Bool) :
    accReadHalf s u k half rows = ((s.room u).acc.get k, s) := by
  unfold accReadHalf
  generalize List.finRange 128 = l
  exact List.foldl_fixed' (fun r => List.foldl_fixed' (fun c => by simp [h]) l) l

theorem accHalf_byte (a : AccTile) (h : BitVec 1) (i : Fin 128) (j : Fin 64) (n : Nat) (hn : n < 4) :
    ((accHalf a (h == 1)).get i).get ⟨4 * j.val + n, by omega⟩ =
      ((a.get i).get ⟨64 * h.toNat + j.val, by have := h.isLt; omega⟩).extractLsb' (8 * n) 8 := by
  have base : (if (h == 1) = true then 64 else 0) = 64 * h.toNat := by revert h; decide
  have low := h.isLt
  have word : (64 * h.toNat + (4 * j.val + n) / 4) % 128 = 64 * h.toNat + j.val := by omega
  have lane : (4 * j.val + n) % 4 = n := by omega
  simp only [accHalf, vget_ofFn, base, word, lane]

/-- A word is its four bytes. -/
theorem word_of_bytes (x : W32) :
    x.extractLsb' 24 8 ++ x.extractLsb' 16 8 ++ x.extractLsb' 8 8 ++ x.extractLsb' 0 8 = x := by
  rw [BitVec.extractLsb'_append_extractLsb'_eq_extractLsb' (show 24 = 16 + 8 from rfl),
    BitVec.extractLsb'_append_extractLsb'_eq_extractLsb' (show 16 = 8 + 8 from rfl),
    BitVec.extractLsb'_append_extractLsb'_eq_extractLsb' (show 8 = 0 + 8 from rfl)]
  exact BitVec.extractLsb'_eq_self

theorem tileWord_of_bytes {v : Tile} {i : Fin 128} {j : Fin 64} {x : W32}
    (h : ∀ n (hn : n < 4), (v.get i).get ⟨4 * j.val + n, by omega⟩ = x.extractLsb' (8 * n) 8) : tileWord v i j = x := by
  have b0 : (v.get i).get ⟨4 * j.val, by omega⟩ = x.extractLsb' 0 8 := h 0 (by decide)
  simp only [tileWord, h 3 (by decide), h 2 (by decide), h 1 (by decide), b0]
  exact word_of_bytes x

theorem tileWord_accHalf (a : AccTile) (h : BitVec 1) (i : Fin 128) (j : Fin 64) :
    tileWord (accHalf a (h == 1)) i j = (a.get i).get ⟨64 * h.toNat + j.val, by have := h.isLt; omega⟩ :=
  tileWord_of_bytes (accHalf_byte a h i j)

/-! ### The landing of a VACW (R184) -/

/-- A word of the tile that a VACW leaves: in the rows and the half named the source's word, or its rounded sum with the old one. -/
theorem vacwTile_word (old : AccTile) (h add : Bool) (v : Tile) (rows : Fin 128 → Bool) (i j : Fin 128) :
    ((vacwTile old h add v rows).1.get i).get j =
      if rows i = true ∧ decide (64 ≤ j.val) = h then
        (let x := tileWord v i ⟨j.val % 64, Nat.mod_lt _ (by decide)⟩
         if add then rne32 (addV false (dec32 ((old.get i).get j)) (dec32 x)).1 else x)
      else (old.get i).get j := by
  simp only [vacwTile, vget_ofFn]
  by_cases row : rows i = true
  · have half : ((if h = true then 64 else 0) ≤ j.val ∧ j.val < (if h = true then 64 else 0) + 64) ↔ decide (64 ≤ j.val) = h := by
      cases h <;> simp
    have place : j.val - (if h = true then 64 else 0) = j.val % 64 ∨ ¬ decide (64 ≤ j.val) = h := by
      cases h <;> simp <;> omega
    simp only [row, if_true, vget_ofFn, true_and]
    by_cases inside : decide (64 ≤ j.val) = h
    · have place := place.resolve_right (not_not.mpr inside)
      rw [dif_pos (half.mpr inside), if_pos inside]
      simp only [place]
      cases add <;> rfl
    · rw [dif_neg (mt half.mp inside), if_neg inside]
  · simp only [row, Bool.false_eq_true, if_false, false_and]

theorem accGet_modRoom_acc (s : State) (u v : SuiteId) (k q : Fin 32) (new : AccTile) (i j : Fin 128) :
    accGet (s.modRoom u fun x => { x with acc := x.acc.set k.val new k.isLt }) v q i j =
      if v = u ∧ q = k then (new.get i).get j else accGet s v q i j := by
  by_cases hv : u = v
  · subst hv
    simp only [accGet, State.room_modRoom, if_true, vget_set, true_and, eq_comm (a := k)]
    split <;> rfl
  · simp only [accGet, State.room_modRoom, hv, Ne.symm hv, if_false, false_and]

theorem rooms_recordFlags (s : State) (r : BankRef) (fl : Flags) : (recordFlags s r fl).rooms = s.rooms := by
  unfold recordFlags
  split
  · rfl
  · simp

theorem dropAccErrors_rows {s : State} (h : s.pkg.flips = []) (u : SuiteId) (k : Fin 32) (rows p : Fin 128 → Bool) (l : List (Fin 128)) :
    l.foldl (fun s i => if rows i then dropAccErrors s u k i p else s) s = s :=
  List.foldl_fixed' (fun i => by rw [dropAccErrors_none h, ite_self]) l

/-- Without errors pending the rows of a VACW replace their tile, and flags may be recorded. -/
theorem vacwWrite_none {s : State} (h : s.pkg.flips = []) {u : SuiteId} {q : Fin 32} {half add : Bool} {v : Tile} {rows : Fin 128 → Bool}
    {new : AccTile} {fl : Flags} (tile : vacwTile ((s.room u).acc.get q) half add v rows = (new, fl)) (r : BankRef) (k : StreamKind) :
    vacwWrite s r k u q half add v rows =
      if k = .x then recordFlags (s.modRoom u fun x => { x with acc := x.acc.set q.val new q.isLt }) r fl
      else s.modRoom u fun x => { x with acc := x.acc.set q.val new q.isLt } := by
  rw [vacwWrite, accReadHalf_none h]
  dsimp only
  rw [tile]
  dsimp only
  rw [ite_self, dropAccErrors_rows h]

theorem accGet_vacwWrite {s : State} (h : s.pkg.flips = []) (r : BankRef) (k : StreamKind) (u : SuiteId) (q : Fin 32) (half add : Bool) (v : Tile)
    (rows : Fin 128 → Bool) (u' : SuiteId) (q' : Fin 32) (i j : Fin 128) : accGet (vacwWrite s r k u q half add v rows) u' q' i j =
      if u' = u ∧ q' = q then ((vacwTile ((s.room u).acc.get q) half add v rows).1.get i).get j else accGet s u' q' i j := by
  generalize tile : vacwTile ((s.room u).acc.get q) half add v rows = t
  rw [vacwWrite_none h tile, ← accGet_modRoom_acc]
  split
  · exact accGet_congr (rooms_recordFlags _ _ _) _ _ _ _
  · rfl

/-! ### Waits and effects of the three moves that wait -/

section Moves
variable {s : State} {w : BitVec 4}

theorem execVmov_moves {d s1 : BitVec 6} (h : ready s (.vmov d s1 w) w = true) (full : (tileFlag s s.cur.suite (physTile s s.cur.bank s1)).full = true)
    (idle : (tileFlag s s.cur.suite (physTile s s.cur.bank s1)).consuming = false) :
    exec (.vmov d s1 w) s = .next (emit (modTileFlag (issued s w { wait := tileWait s s.cur.suite (physTile s s.cur.bank s1) }) s.cur.suite
      (physTile s s.cur.bank s1) fun h => { h with consuming := true }) s.cur 5
      [.tile (physTile s s.cur.bank d) (tileOp s s.cur s1) false, .consume (physTile s s.cur.bank s1)]) := by
  have run : exec (.vmov d s1 w) s = execVmov d s1 w s := rfl
  rw [run, execVmov, issue_next h (consumeHold_ready (by rw [full, idle]; rfl)) rfl]

section Accumulators
variable {t : BitVec 6} {k : BitVec 5} {h : BitVec 1}

theorem execVacc_reads (r : ready s (.vacc t k h w) w = true) (q : quiet s = true) (sound : s.pkg.flips = []) (vacw : vacwPending s s.cur = false)
    (runs : (s.room s.cur.suite).stopped = false) :
    exec (.vacc t k h w) s = .next ((emit (issued s w) s.cur 7
        [.tile (physTile s s.cur.bank t) (accHalf ((s.room s.cur.suite).acc.get (physAcc s s.cur.bank k.toNat)) (h == 1)) false]).modBank s.cur.bank
      fun b => { b with fly := b.fly ++
        [⟨s.cur.kind, 23, [.accRead (physAcc s s.cur.bank k.toNat) (h == 1) (physTile s s.cur.bank t)], 0, s.cycle, false⟩] }) := by
  obtain ⟨pkg, acc⟩ := sameAccs_issued w {} q
  have run : exec (.vacc t k h w) s = execVacc t k h w s := rfl
  have read := accReadHalf_none (s := issued s w) (by rw [pkg, sound]) s.cur.suite (physAcc s s.cur.bank k.toNat) (h == 1) fun _ => true
  rw [run, execVacc]
  -- The read stays a name, since the comparison of two plans would otherwise run it.
  obtain ⟨reads, same⟩ : ∃ f, f = @accReadHalf := ⟨_, rfl⟩
  rw [← same] at read ⊢
  rw [issue_next r (if_neg (by simp [vacw, runs])) rfl]
  dsimp only
  rw [read, acc]

theorem execVacc_waits (r : free s (.vacc t k h w) w = true) (on : vacwPending s s.cur = true ∨ (s.room s.cur.suite).stopped = true) :
    exec (.vacc t k h w) s = .next (markHeld s s.cur ⟨false, false⟩) :=
  exec_waits rfl r (if_pos (by simpa using on)) rfl

theorem execVacw_flies {mode : BitVec 1} (r : ready s (.vacw t k h mode w) w = true) (vacw : vacwPending s s.cur = false)
    (vacc : vaccPending s s.cur = false) (runs : (s.room s.cur.suite).stopped = false) :
    exec (.vacw t k h mode w) s = .next ((issued s w).modBank s.cur.bank fun b => { b with fly := b.fly ++
      [⟨s.cur.kind, 31, [.acc (physAcc s s.cur.bank k.toNat) (h == 1) (mode == 1) (tileOp s s.cur t) 0 (tenantOf s s.cur.bank)], 0, s.cycle,
        false⟩] }) := by
  have run : exec (.vacw t k h mode w) s = execVacw t k h mode w s := rfl
  rw [run, execVacw, issue_next r (if_neg (by simp [vacw, vacc, runs])) rfl]

theorem execVacw_waits {mode : BitVec 1} (r : free s (.vacw t k h mode w) w = true)
    (on : vacwPending s s.cur = true ∨ vaccPending s s.cur = true ∨ (s.room s.cur.suite).stopped = true) :
    exec (.vacw t k h mode w) s = .next (markHeld s s.cur ⟨false, false⟩) :=
  exec_waits rfl r (if_pos (by simpa [or_assoc] using on)) rfl

end Accumulators
end Moves

/-- The movement of VTRN, by whether the element lies in the leading square. -/
theorem map_getD_ite {α β : Type} (c : Prop) [Decidable c] (a : α) (f : α → β) (z : β) :
    ((if c then some a else none).map f).getD z = if c then f a else z := by
  split <;> rfl

/-- Settles O32: a move is a grid of source elements without flags, a VACC reads the half's words as they stand when it issues, and a VACW replaces
its rows of one tile when it lands. -/
theorem tileMoves : Obligations.TileMoves := by
  unfold Obligations.TileMoves
  refine ⟨fun d s1 s2 ty w s => ⟨?_, ?_, ?_, ?_, ?_, exec_planTile rfl rfl, execVmov_moves, fun h on => exec_waits rfl h (consumeHold_on on) rfl⟩,
    fun t k h mode w s => ⟨fun r q sound vacw runs => ⟨_, execVacc_reads r q sound vacw runs, fun i j => tileWord_accHalf _ h i j⟩,
      execVacc_waits, execVacw_flies, execVacw_waits⟩,
    fun s u b k q h add v row tn sound u' q' i j => ?_⟩
  · exact fills_planMove rfl rfl fun _ _ => rfl
  · exact fills_planMove rfl rfl fun _ _ => rfl
  · exact fills_planMove rfl rfl fun _ _ => rfl
  · exact fills_planMove rfl rfl fun _ _ => map_getD_ite ..
  · exact fills_planMove rfl rfl fun _ _ => rfl
  · refine (accGet_vacwWrite sound (.bank u b) k u q h add v (fun i => decide (row ≤ i.val)) u' q' i j).trans ?_
    by_cases here : u' = u ∧ q' = q
    · obtain ⟨rfl, rfl⟩ := here
      rw [if_pos ⟨rfl, rfl⟩, vacwTile_word]
      simp only [decide_eq_true_eq, true_and]
      rfl
    · rw [if_neg here, if_neg fun all => here ⟨all.1, all.2.1⟩]

end Sys2Proof.Machine
end

section
/-! PROOFS. Commands at the head of their queue: taking the pop tokens, running and completing in one cycle, and a running command that waits for its
push (R213, R236, R288, R359). -/

namespace Sys2Proof.Machine

/-! ### The head of a queue once its tokens are taken -/

section Head
variable {s : State} {u : SuiteId} {e : Engine} {c : Cmd}

/-- The head command once all its pop tokens are taken in one cycle (R213). -/
def popped (s : State) (u : SuiteId) (e : Engine) (c : Cmd) : State := setHead (takePops s u e c) u e { c with status := .popped }

/-- What keeps a head command from acting, its pop tokens apart (R288, R365). -/
def headKept (s : State) (u : SuiteId) (e : Engine) (c : Cmd) : Prop := (s.suite u).stopped = true ∨ c.trapLevel ≠ 0 ∨ roomsWait s u e c = true

theorem not_headKept (runs : (s.suite u).stopped = false) (sound : c.trapLevel = 0) (rooms : roomsWait s u e c = false) : ¬ headKept s u e c := by
  simp [headKept, runs, sound, rooms]

theorem popHead_kept (h : headOf s u e = some c) (kept : headKept s u e c) : popHead s u e = (none, s) := by
  simp only [popHead, h]
  exact if_pos kept

theorem popHead_lacks (h : headOf s u e = some c) (new : c.status = .queued) (lacks : popsReady s u e c = false) : popHead s u e = (none, s) := by
  simp only [popHead, h, new, lacks, Bool.false_eq_true, if_false, ite_self]

theorem popHead_pops (h : headOf s u e = some c) (free : ¬ headKept s u e c) (new : c.status = .queued) (pops : popsReady s u e c = true) :
    popHead s u e = (some { c with status := .popped }, popped s u e c) := by
  have go : ¬ ((s.suite u).stopped = true ∨ c.trapLevel ≠ 0 ∨ roomsWait s u e c = true) := free
  simp only [popHead, h, go, new, pops, if_true, if_false]
  rfl

theorem popHead_popped (h : headOf s u e = some c) (free : ¬ headKept s u e c) (old : c.status = .popped) : popHead s u e = (some c, s) := by
  have go : ¬ ((s.suite u).stopped = true ∨ c.trapLevel ≠ 0 ∨ roomsWait s u e c = true) := free
  simp only [popHead, h, go, old, if_false]

/-! ### What taking tokens leaves -/

/-- Taking tokens changes nothing but token queues of banks. -/
theorem suite_takePops (s : State) (u : SuiteId) (e : Engine) (c : Cmd) (v : SuiteId) :
    { (takePops s u e c).suite v with banks := (s.suite v).banks } = s.suite v := by
  refine foldl_keeps (fun t : State => { t.suite v with banks := (s.suite v).banks }) (fun t w => ?_) _ s
  have one := congrArg (fun x : Suite => { x with banks := (s.suite v).banks })
    (State.suite_setBank t (.bank w c.bank) (popTake (t.bank (.bank w c.bank)) e c.tok.pop) v)
  exact one

theorem outside_takePops (s : State) (u : SuiteId) (e : Engine) (c : Cmd) :
    (takePops s u e c).rooms = s.rooms ∧ (takePops s u e c).cycle = s.cycle ∧ (takePops s u e c).pkg = s.pkg := by
  have keeps := foldl_keeps (fun t : State => (t.rooms, t.cycle, t.pkg))
    (f := fun t v => t.modBank (.bank v c.bank) fun b => popTake b e c.tok.pop) (fun _ _ => by simp) (engineSuites s e u) s
  simp only [Prod.mk.injEq] at keeps
  exact keeps

theorem queueOf_congr {x y : Suite} (m : x.mq = y.mq) (k : x.cqueue = y.cqueue) (e : Engine) : queueOf x e = queueOf y e := by
  unfold queueOf
  rw [m, k]

theorem queueOf_modQueue (s : State) (u : SuiteId) (e : Engine) (f : List Cmd → List Cmd) :
    queueOf ((modQueue s u e f).suite u) e = f (queueOf (s.suite u) e) := by
  rw [modQueue, State.suite_modSuite, if_pos rfl, queueOf, queueOf]
  split <;> rfl

theorem stopped_modQueue (s : State) (u v : SuiteId) (e : Engine) (f : List Cmd → List Cmd) :
    ((modQueue s u e f).suite v).stopped = (s.suite v).stopped := by
  rw [modQueue, State.suite_modSuite]
  split
  next same => subst same; split <;> rfl
  next => rfl

theorem headOf_setHead (h : headOf s u e = some c) (d : Cmd) : headOf (setHead s u e d) u e = some d := by
  unfold headOf setHead at *
  rw [queueOf_modQueue]
  cases queue : queueOf (s.suite u) e with
  | nil => rw [queue] at h; cases h
  | cons => rfl

theorem headOf_popped (h : headOf s u e = some c) : headOf (popped s u e c) u e = some { c with status := .popped } := by
  refine headOf_setHead (c := c) (Eq.trans ?_ h) _
  have same := suite_takePops s u e c u
  exact congrArg List.head? (queueOf_congr (congrArg Suite.mq same) (congrArg Suite.cqueue same) e)

theorem stopped_popped (s : State) (u : SuiteId) (e : Engine) (c : Cmd) (v : SuiteId) : ((popped s u e c).suite v).stopped = (s.suite v).stopped := by
  have same := congrArg Suite.stopped (suite_takePops s u e c v)
  exact (stopped_modQueue ..).trans same

theorem rooms_popped (s : State) (u : SuiteId) (e : Engine) (c : Cmd) : (popped s u e c).rooms = s.rooms := (outside_takePops s u e c).1

theorem roomsWait_popped (s : State) (u : SuiteId) (e : Engine) (c : Cmd) :
    roomsWait (popped s u e c) u e { c with status := .popped } = roomsWait s u e c := by
  unfold roomsWait members State.room
  rw [rooms_popped]

/-- The state with the tokens taken is one whose head has them: it goes on from there in the same way. -/
theorem popHead_of_popped (h : headOf s u e = some c) (free : ¬ headKept s u e c) :
    popHead (popped s u e c) u e = (some { c with status := .popped }, popped s u e c) := by
  refine popHead_popped (headOf_popped h) ?_ rfl
  unfold headKept at *
  rwa [stopped_popped, roomsWait_popped]

theorem roomsWait_iff (s : State) (u : SuiteId) (e : Engine) (c : Cmd) :
    roomsWait s u e c = true ↔ e = .m ∧ (∀ n, c.op ≠ .mwing n) ∧ ∃ v, v ∈ members s u ∧ (s.room v).stopped = true := by
  have reshape : (match c.op with | .mwing _ => false | _ => true) = true ↔ ∀ n, c.op ≠ .mwing n := by
    cases c.op <;> simp
  unfold roomsWait
  rw [Bool.and_eq_true, Bool.and_eq_true, beq_iff_eq, List.any_eq_true, and_assoc, and_comm (a := ∃ v, _)]
  exact and_congr_right fun _ => and_congr_left fun _ => reshape

end Head

/-! ### The events of a head -/

/-- The events that let the head command of a queue act, each with the commands it serves (R213-R218, R230-R236). -/
inductive HeadEvent (u : SuiteId) : Instr → Engine → CmdOp → Prop
  | mnest (sel : Nat) (bs : List Byte) : HeadEvent u (.commandCompletion u 0) .m (.mnest sel bs)
  | mfmt (mask : BitVec 16) (bs : List Byte) : HeadEvent u (.commandCompletion u 0) .m (.mfmt mask bs)
  | mdrn (prog : BitVec 4) (dbase : BitVec 32) : HeadEvent u (.commandCompletion u 0) .m (.mdrn prog dbase)
  | dlook (n : Nat) : HeadEvent u (.commandCompletion u 0) .m (.dlook n)
  | dend : HeadEvent u (.commandCompletion u 0) .m .dend
  | cpyq : HeadEvent u (.commandCompletion u 1) .c .cpyq
  | mgo : HeadEvent u (.mgoStart u) .m .mgo
  | mwing (shape : Nat) : HeadEvent u (.reshapeEffect u) .m (.mwing shape)
  | dstart (cfg cfg2 : Word) : HeadEvent u (.dstartEffect u) .m (.dstart cfg cfg2)
  | dfeed (src ctl : Word) : HeadEvent u (.dfeedHead u) .m (.dfeed src ctl)
  | ddrn (k : Nat) : HeadEvent u (.ddrnHead u) .m (.ddrn k)
  | cpy (job : CopyJob) : HeadEvent u (.cpyStart u) .c (.cpy job)

section Events
variable {u : SuiteId} {i : Instr} {e : Engine} {op : CmdOp} {s t : State} {c d : Cmd}

theorem headOp_of_headOf (h : headOf s u e = some c) (hop : c.op = op) : headOp s u e = some op := by rw [headOp, h, Option.map_some, hop]

theorem finishHead_waits (pop : popHead s u e = (none, s)) (effect : State → State) : finishHead s u e effect = s := by
  simp only [finishHead, pop]

theorem finishHead_congr (pop : popHead s u e = popHead t u e) (effect : State → State) : finishHead s u e effect = finishHead t u e effect := by
  simp only [finishHead, pop]

/-- The completion of the M queue's head is that of its own effect. -/
theorem exec_commandCompletion_m (h : headOf s u .m = some c) : exec (.commandCompletion u 0) s = .next (match c.op with
    | .mnest .. | .mfmt .. | .mdrn .. => finishHead s u .m (shadowEffect u c)
    | .dlook l => finishHead s u .m (dlookEffect u l)
    | .dend => finishHead s u .m (dendEffect u)
    | _ => s) := by
  show execCommandCompletion u 0 s = _
  unfold execCommandCompletion
  generalize headOf s u .m = o at h
  subst h
  rfl

/-- While its head is kept or lacks a token, the event of a head does nothing. -/
theorem headEvent_waits (ev : HeadEvent u i e op) (h : headOf s u e = some c) (hop : c.op = op) (pop : popHead s u e = (none, s)) :
    exec i s = .next s := by
  have hop' := headOp_of_headOf h hop
  cases ev with
  | mnest | mfmt | mdrn | dlook | dend => rw [exec_commandCompletion_m h, hop]; exact congrArg _ (finishHead_waits pop _)
  | cpyq => show execCommandCompletion u 1 s = _; simp only [execCommandCompletion, h, hop, pop]
  | mgo => show execMgoStart u s = _; simp only [execMgoStart, hop', pop]
  | mwing => show execReshapeEffect u s = _; simp only [execReshapeEffect, hop', pop]
  | dstart => show execDstartEffect u s = _; simp only [execDstartEffect, hop', pop]
  | dfeed => show execDfeedHead u s = _; simp only [execDfeedHead, hop', pop]
  | ddrn => show execDdrnHead u s = _; simp only [execDdrnHead, hop', pop]
  | cpy => show execCpyStart u s = _; simp only [execCpyStart, hop', pop]

theorem shadowEffect_congr (same : d.op = c.op) (bank : d.bank = c.bank) : shadowEffect u d = shadowEffect u c := by
  funext s
  simp only [shadowEffect, same, bank]

/-- The event of a head depends on what the head gives with its tokens taken, the cycle and the features of the part. -/
theorem headEvent_congr (ev : HeadEvent u i e op) (h : headOf s u e = some c) (hop : c.op = op) (h' : headOf t u e = some d) (same : d.op = c.op)
    (bank : d.bank = c.bank) (pop : popHead s u e = popHead t u e) (cycle : s.cycle = t.cycle) (feat : featOn s 1 = featOn t 1) :
    exec i s = exec i t := by
  have hops := headOp_of_headOf h hop
  have hopt := headOp_of_headOf h' (same.trans hop)
  cases ev with
  | mnest | mfmt | mdrn | dlook | dend =>
    rw [exec_commandCompletion_m h, exec_commandCompletion_m h', same, hop, shadowEffect_congr same bank]
    exact congrArg _ (finishHead_congr pop _)
  | cpyq =>
    show execCommandCompletion u 1 s = execCommandCompletion u 1 t
    simp only [execCommandCompletion, h, h', same, hop, pop]
  | mgo =>
    show execMgoStart u s = execMgoStart u t
    simp only [execMgoStart, hops, hopt, pop, cycle]
  | mwing =>
    show execReshapeEffect u s = execReshapeEffect u t
    simp only [execReshapeEffect, hops, hopt, pop]
  | dstart =>
    show execDstartEffect u s = execDstartEffect u t
    simp only [execDstartEffect, hops, hopt, pop, cycle, feat]
  | dfeed => show execDfeedHead u s = execDfeedHead u t; simp only [execDfeedHead, hops, hopt, pop]
  | ddrn => show execDdrnHead u s = execDdrnHead u t; simp only [execDdrnHead, hops, hopt, pop]
  | cpy => show execCpyStart u s = execCpyStart u t; simp only [execCpyStart, hops, hopt, pop]

/-- A head that acts takes its tokens first, and then goes on from the state without them (R213). -/
theorem headEvent_pops (ev : HeadEvent u i e op) (h : headOf s u e = some c) (hop : c.op = op) (free : ¬ headKept s u e c) (new : c.status = .queued)
    (pops : popsReady s u e c = true) : exec i s = exec i (popped s u e c) := by
  obtain ⟨-, cycle, pkg⟩ := outside_takePops s u e c
  refine headEvent_congr ev h hop (headOf_popped h) rfl rfl ?_ cycle.symm ?_
  · rw [popHead_pops h free new pops, popHead_of_popped h free]
  · exact congrArg (fun p : Package => p.featacc0.getLsbD 1) pkg.symm

end Events

/-! ### Completion in one cycle -/

section Completion
variable {s : State} {u : SuiteId} {e : Engine} {c : Cmd}

/-- The head completes, or waits for room for its push (R213, R359). -/
def completeHead (s : State) (u : SuiteId) (e : Engine) (c : Cmd) : State :=
  if pushRoom s u e c then completeCmd (dropHead s u e) u e c else setHead s u e { c with status := .complete }

theorem finishHead_popped (h : headOf s u e = some c) (free : ¬ headKept s u e c) (old : c.status = .popped) (effect : State → State) :
    finishHead s u e effect = completeHead (effect s) u e c := by
  simp only [finishHead, popHead_popped h free old, old]
  rfl

/-- CPYQ completes once no C command runs (R243). -/
theorem exec_cpyq_head (h : headOf s u .c = some c) (hop : c.op = .cpyq) (free : ¬ headKept s u .c c) (old : c.status = .popped) :
    exec (.commandCompletion u 1) s = .next (if (s.suite u).crun.isEmpty then completeHead s u .c c else s) := by
  show execCommandCompletion u 1 s = _
  simp only [execCommandCompletion, h, hop, popHead_popped h free old, finishHead_popped h free old]
  rfl

theorem modRunning_id (s : State) (u : SuiteId) (e : Engine) {f : List Cmd → List Cmd} (h : f (runningOf (s.suite u) e) = runningOf (s.suite u) e) :
    modRunning s u e f = s := by
  refine Eq.trans (congrArg (s.setSuite u) ?_) (State.setSuite_self s u)
  unfold runningOf at h
  split at h
  next m => dsimp only; rw [if_pos m, h]
  next m => dsimp only; rw [if_neg m, h]

/-- A running command that waits for its push alone completes when it finds room (R359). -/
theorem finishRunning_complete {n : Nat} (h : (runningOf (s.suite u) e)[n]? = some c) (done : c.status = .complete) :
    finishRunning s u e n = if pushRoom s u e c then completeCmd (modRunning s u e fun l => l.eraseIdx n) u e c else s := by
  have same : ({ c with status := .complete } : Cmd) = c := by rw [← done]
  simp only [finishRunning, h, same]
  congr 1
  refine modRunning_id s u e ?_
  obtain ⟨hn, rfl⟩ := List.getElem?_eq_some_iff.mp h
  exact List.set_getElem_self hn

/-- The completions after the two heads are those of the running commands, M's first (R359). -/
theorem exec_commandCompletion_running {e : Engine} {n k : Nat} (h : (runningOf (s.suite u) e)[n]? = some c) (done : c.status = .complete)
    (place : (e = .m ∧ k = n) ∨ (e = .c ∧ k = n + (s.suite u).mrun.length)) :
    exec (.commandCompletion u (k + 2)) s = .next (finishRunning s u e n) := by
  show execCommandCompletion u (k + 2) s = _
  unfold execCommandCompletion
  dsimp only
  obtain ⟨rfl, rfl⟩ | ⟨rfl, rfl⟩ := place
  · have short : k < (s.suite u).mrun.length := (List.getElem?_eq_some_iff.mp h).1
    rw [if_pos short, h]
    exact congrArg _ (if_pos done)
  · rw [if_neg (by omega), Nat.add_sub_cancel, h]
    exact congrArg _ (if_pos done)

end Completion

/-- The events of a head, with the commands that each serves, as the statement lists them. -/
def headServers (u : SuiteId) : List (Instr × Engine × (CmdOp → Bool)) :=
  [(.commandCompletion u 0, .m, fun o => match o with | .mnest .. | .mfmt .. | .mdrn .. | .dlook _ | .dend => true | _ => false),
   (.commandCompletion u 1, .c, (· == .cpyq)), (.mgoStart u, .m, (· == .mgo)),
   (.reshapeEffect u, .m, fun o => match o with | .mwing _ => true | _ => false),
   (.dstartEffect u, .m, fun o => match o with | .dstart .. => true | _ => false),
   (.dfeedHead u, .m, fun o => match o with | .dfeed .. => true | _ => false),
   (.ddrnHead u, .m, fun o => match o with | .ddrn _ => true | _ => false),
   (.cpyStart u, .c, fun o => match o with | .cpy _ => true | _ => false)]

theorem headServers_serve (u : SuiteId) (op : CmdOp) : ∀ x ∈ headServers u, x.2.2 op = true → HeadEvent u x.1 x.2.1 op := by
  refine List.forall_mem_cons.mpr ⟨?quick, List.forall_mem_cons.mpr ⟨?cpyq, List.forall_mem_cons.mpr ⟨?mgo, List.forall_mem_cons.mpr ⟨?mwing,
    List.forall_mem_cons.mpr ⟨?dstart, List.forall_mem_cons.mpr ⟨?dfeed, List.forall_mem_cons.mpr ⟨?ddrn, List.forall_mem_singleton.mpr ?cpy⟩⟩⟩⟩⟩⟩⟩
  case cpyq => intro hm; obtain rfl := eq_of_beq hm; exact .cpyq
  case mgo => intro hm; obtain rfl := eq_of_beq hm; exact .mgo
  case quick =>
    intro hm
    cases op with
    | mnest sel bs => exact .mnest sel bs
    | mfmt mask bs => exact .mfmt mask bs
    | mdrn prog dbase => exact .mdrn prog dbase
    | dlook n => exact .dlook n
    | dend => exact .dend
    | _ => exact absurd hm Bool.false_ne_true
  case mwing =>
    intro hm
    cases op with
    | mwing shape => exact .mwing shape
    | _ => exact absurd hm Bool.false_ne_true
  case dstart =>
    intro hm
    cases op with
    | dstart cfg cfg2 => exact .dstart cfg cfg2
    | _ => exact absurd hm Bool.false_ne_true
  case dfeed =>
    intro hm
    cases op with
    | dfeed src ctl => exact .dfeed src ctl
    | _ => exact absurd hm Bool.false_ne_true
  case ddrn =>
    intro hm
    cases op with
    | ddrn k => exact .ddrn k
    | _ => exact absurd hm Bool.false_ne_true
  case cpy =>
    intro hm
    cases op with
    | cpy job => exact .cpy job
    | _ => exact absurd hm Bool.false_ne_true

/-- Settles O36: each event of a head looks at the queue through the popping of its head alone, and a command of one cycle then completes with its
effect. -/
theorem commandsRun : Obligations.CommandsRun := by
  unfold Obligations.CommandsRun
  intro s u c quick heads complete
  refine ⟨fun i e mine mem h hm new => ?_, fun e => roomsWait_iff s u e c, fun runs sound old => ⟨fun h rooms => ?_, fun h hop => ?_⟩,
    fun k done h => ?_, fun k done h => ?_⟩
  · have ev : HeadEvent u i e c.op := headServers_serve u c.op (i, e, mine) mem hm
    refine ⟨fun wait => headEvent_waits ev h rfl ?_, fun pops runs sound rooms => headEvent_pops ev h rfl (not_headKept runs sound rooms) new pops⟩
    exact wait.elim (popHead_lacks h new) (popHead_kept h)
  · have run := exec_commandCompletion_m h
    have ends := finishHead_popped h (not_headKept runs sound rooms) old
    refine ⟨fun sel bs hop => ?_, fun mask bs hop => ?_, fun p b hop => ?_, fun l hop => ?_, fun hop => ?_⟩
    · rw [run, hop]
      refine congrArg _ ((ends _).trans ?_)
      simp only [shadowEffect, hop]
      rfl
    · rw [run, hop]
      refine congrArg _ ((ends _).trans ?_)
      simp only [shadowEffect, hop]
      rfl
    · rw [run, hop]
      refine congrArg _ ((ends _).trans ?_)
      simp only [shadowEffect, hop]
      rfl
    · rw [run, hop]
      exact congrArg _ (ends _)
    · rw [run, hop]
      exact congrArg _ (ends _)
  · have rooms : roomsWait s u .c c = false := Bool.eq_false_iff.mpr fun w => by simp [roomsWait_iff] at w
    have run := exec_cpyq_head h hop (not_headKept runs sound rooms) old
    refine ⟨fun none => ?_, fun some => ?_⟩
    · rw [run, none]
      rfl
    · rw [run, List.isEmpty_eq_false_iff.mpr some]
      rfl
  · rw [exec_commandCompletion_running (e := .m) h done (.inl ⟨rfl, rfl⟩), finishRunning_complete (e := .m) h done]
    rfl
  · rw [show k + 2 + (s.suite u).mrun.length = k + (s.suite u).mrun.length + 2 by omega,
      exec_commandCompletion_running (e := .c) h done (.inr ⟨rfl, rfl⟩), finishRunning_complete (e := .c) h done]
    rfl

end Sys2Proof.Machine
end

section
/-! PROOFS. Nests start on the shadow set of their bank, envelopes are reshaped once their rooms are idle, halted wings go on (R211, R217, R288, R377). -/

namespace Sys2Proof.Machine

/-! ### A command moves from the head of M to the running ones -/

/-- What changes of rooms leave. -/
theorem outside_foldl_modRoom (f : SuiteId → Room → Room) (l : List SuiteId) (s : State) :
    (l.foldl (fun t v => t.modRoom v (f v)) s).suites = s.suites ∧ (l.foldl (fun t v => t.modRoom v (f v)) s).pkg = s.pkg ∧
    (l.foldl (fun t v => t.modRoom v (f v)) s).tenants = s.tenants ∧ (l.foldl (fun t v => t.modRoom v (f v)) s).ctxs = s.ctxs := by
  have keeps := foldl_keeps (fun t : State => (t.suites, t.pkg, t.tenants, t.ctxs)) (f := fun t v => t.modRoom v (f v)) (fun _ _ => rfl) l s
  simpa only [Prod.mk.injEq] using keeps

section Queue
variable {s : State} {u : SuiteId} {c : Cmd} {rest : List Cmd}

theorem headOf_of_mq (h : (s.suite u).mq = c :: rest) : headOf s u .m = some c := by
  show (s.suite u).mq.head? = some c
  rw [h]
  rfl

theorem suite_startHead (s : State) (u : SuiteId) (c : Cmd) : (startHead s u .m c).suite u =
    { s.suite u with mq := (s.suite u).mq.drop 1, mrun := (s.suite u).mrun ++ [{ c with status := .running }] } := by
  simp only [startHead, modRunning, dropHead, modQueue, State.suite_modSuite, if_true]

end Queue

/-! ### The start of a nest -/

section Start
variable {s : State} {u : SuiteId} {c : Cmd} {n : NestSet}

/-- A new unit may enter the wing in this cycle (R217). -/
def mayStart (s : State) (u : SuiteId) : Prop :=
  wingLive s u = true ∧ (s.room u).drone.active = false ∧ rcycOf s u % 8 = 0 ∧
    ∀ r ∈ (s.room u).runs, r.drone = false ∧ r.total ≤ r.nextStep ∧ r.nextEntry ≤ r.beat

/-- A shadow set is the active set of every member room (R198). -/
def activated (s : State) (u : SuiteId) (n : NestSet) : State := (members s u).foldl (fun t v => t.modRoom v fun x => { x with active := n }) s

/-- A member room as a nest starts on its wing, which is idle or runs an earlier one (R195, R217). -/
def Room.entered (idle : Bool) (x : Room) : Room :=
  { (if idle then quietRoom x else x) with busy := true, nbeat := 0, aShift := (0, 0), bShift := (0, 0) }

/-- The nest of a command is the last of the wing's. -/
def withNest (s : State) (u : SuiteId) (c : Cmd) (n : NestSet) (now : Nat) : State :=
  (startHead (activated s u n) u .m c).modRoom u fun x => { x with runs := x.runs ++ [newRun c false n (nestTotal n) now] }

/-- The state in which the nest of a command runs. -/
def nestStarted (s : State) (u : SuiteId) (c : Cmd) (n : NestSet) : State :=
  (members (withNest s u c n s.cycle) u).foldl (fun t v => t.modRoom v (Room.entered (s.room u).runs.isEmpty)) (withNest s u c n s.cycle)

theorem roomsWait_of_live (live : wingLive s u = true) (e : Engine) (c : Cmd) : roomsWait s u e c = false := by
  refine Bool.eq_false_iff.mpr fun w => ?_
  obtain ⟨-, -, v, hv, stopped⟩ := (roomsWait_iff s u e c).mp w
  have runs := List.all_eq_true.mp live v hv
  simp [stopped] at runs

/-- What keeps a start back, as MGO_START looks at it. -/
theorem not_mayStart_iff (s : State) (u : SuiteId) : ¬ mayStart s u ↔
    (!((s.room u).runs.all fun r => !r.drone && decide (r.total ≤ r.nextStep) && decide (r.nextEntry ≤ r.beat)) || (s.room u).drone.active ||
      !wingLive s u || rcycOf s u % 8 != 0) = true := by
  have each : ((s.room u).runs.all fun r => !r.drone && decide (r.total ≤ r.nextStep) && decide (r.nextEntry ≤ r.beat)) = true ↔
      ∀ r ∈ (s.room u).runs, r.drone = false ∧ r.total ≤ r.nextStep ∧ r.nextEntry ≤ r.beat := by
    simp [List.all_eq_true, and_assoc]
  rw [mayStart, ← each]
  generalize ((s.room u).runs.all fun r => !r.drone && decide (r.total ≤ r.nextStep) && decide (r.nextEntry ≤ r.beat)) = entered
  cases entered <;> cases wingLive s u <;> cases (s.room u).drone.active <;> simp

section Head
variable (h : headOf s u .m = some c) (hop : c.op = .mgo) (pop : popHead s u .m = (some c, s))
include h hop pop

theorem exec_mgoStart_waits (no : ¬ mayStart s u) : exec (.mgoStart u) s = .next s := by
  show execMgoStart u s = _
  simp only [execMgoStart, headOp_of_headOf h hop, pop, (not_mayStart_iff s u).mp no, if_true]

theorem exec_mgoStart_goes (may : mayStart s u) : exec (.mgoStart u) s = .next
    (match startCheck (activated s u ((s.room u).shadow.get c.bank)) u c ((s.room u).shadow.get c.bank) with
      | some (cause, v) => headTrap (activated s u ((s.room u).shadow.get c.bank)) u .m c cause v
      | none => nestStarted s u c ((s.room u).shadow.get c.bank)) := by
  have go := mt (not_mayStart_iff s u).mpr (not_not.mpr may)
  show execMgoStart u s = _
  simp only [execMgoStart, headOp_of_headOf h hop, pop, go]
  rfl

end Head

theorem room_activated (s : State) (u : SuiteId) (n : NestSet) (v : SuiteId) :
    (activated s u n).room v = if v ∈ members s u then { s.room v with active := n } else s.room v :=
  room_foldl_modRoom (fun _ x => { x with active := n }) v (nodup_members s u) s

/-- A nest's start changes no wing. -/
theorem members_withNest (s : State) (u : SuiteId) (c : Cmd) (n : NestSet) (now : Nat) : members (withNest s u c n now) u = members s u := by
  have shape : ((withNest s u c n now).room u).wingShape = (s.room u).wingShape := by
    refine Eq.trans ?_ (foldl_modRoom_keeps Room.wingShape (f := fun _ x => { x with active := n }) (fun _ _ => rfl) (members s u) s u)
    rw [withNest, State.room_modRoom, if_pos rfl]
    rfl
  unfold members
  rw [shape]

theorem room_withNest (s : State) (u : SuiteId) (c : Cmd) (n : NestSet) (now : Nat) (v : SuiteId) : (withNest s u c n now).room v =
    if u = v then { (activated s u n).room u with runs := ((activated s u n).room u).runs ++ [newRun c false n (nestTotal n) now] }
    else (activated s u n).room v := State.room_modRoom ..

theorem room_nestStarted (s : State) (u : SuiteId) (c : Cmd) (n : NestSet) (v : SuiteId) : (nestStarted s u c n).room v =
    if v ∈ members s u then ((withNest s u c n s.cycle).room v).entered (s.room u).runs.isEmpty else (withNest s u c n s.cycle).room v := by
  rw [← members_withNest s u c n s.cycle]
  exact room_foldl_modRoom (fun _ => Room.entered (s.room u).runs.isEmpty) v (nodup_members _ u) _

theorem runs_entered (idle : Bool) (x : Room) : (x.entered idle).runs = x.runs := by cases idle <;> rfl
theorem active_entered (idle : Bool) (x : Room) : (x.entered idle).active = x.active := by cases idle <;> rfl

theorem runs_nestStarted (s : State) (u : SuiteId) (c : Cmd) (n : NestSet) :
    ((nestStarted s u c n).room u).runs = (s.room u).runs ++ [newRun c false n (nestTotal n) s.cycle] := by
  have runs : ((activated s u n).room u).runs = (s.room u).runs :=
    foldl_modRoom_keeps Room.runs (f := fun _ x => { x with active := n }) (fun _ _ => rfl) (members s u) s u
  rw [room_nestStarted, ← runs]
  split
  · rw [runs_entered, room_withNest, if_pos rfl]
  · rw [room_withNest, if_pos rfl]

theorem active_nestStarted {v : SuiteId} (h : v ∈ members s u) : ((nestStarted s u c n).room v).active = n := by
  have active : ((activated s u n).room v).active = n := by rw [room_activated, if_pos h]
  rw [room_nestStarted, if_pos h, active_entered, room_withNest]
  split
  next e => subst e; exact active
  next => exact active

/-- The quiet of an idle wing's rooms: every psum is zero (R195). -/
theorem acc_quietRoom (x : Room) (i j : Fin 128) : (((quietRoom x).pes.get i).get j).acc = 0 := by
  simp [quietRoom]

theorem suite_nestStarted (s : State) (u : SuiteId) (c : Cmd) (n : NestSet) : (nestStarted s u c n).suite u = (startHead s u .m c).suite u := by
  have outer : (nestStarted s u c n).suites = (withNest s u c n s.cycle).suites := (outside_foldl_modRoom (fun _ => Room.entered _) _ _).1
  have inner : (activated s u n).suites = s.suites := (outside_foldl_modRoom (fun _ x => { x with active := n }) _ _).1
  have same : (nestStarted s u c n).suite u = (startHead (activated s u n) u .m c).suite u := congrArg (Vector.get · u) outer
  have before : (activated s u n).suite u = s.suite u := congrArg (Vector.get · u) inner
  rw [same, suite_startHead, suite_startHead, before]

theorem outside_nestStarted (s : State) (u : SuiteId) (c : Cmd) (n : NestSet) :
    (nestStarted s u c n).pkg = s.pkg ∧ (nestStarted s u c n).tenants = s.tenants ∧ (nestStarted s u c n).ctxs = s.ctxs := by
  obtain ⟨-, pkg, tenants, ctxs⟩ := outside_foldl_modRoom (fun _ => Room.entered (s.room u).runs.isEmpty) (members (withNest s u c n s.cycle) u)
    (withNest s u c n s.cycle)
  obtain ⟨-, pkg', tenants', ctxs'⟩ := outside_foldl_modRoom (fun _ x => { x with active := n }) (members s u) s
  exact ⟨pkg.trans pkg', tenants.trans tenants', ctxs.trans ctxs'⟩

end Start

/-! ### Reshapes -/

section Reshape
variable {s : State} {u : SuiteId} {c : Cmd} {shape : Nat}

theorem roomsWait_mwing (hop : c.op = .mwing shape) (e : Engine) : roomsWait s u e c = false := by
  refine Bool.eq_false_iff.mpr fun w => ?_
  obtain ⟨-, other, -⟩ := (roomsWait_iff s u e c).mp w
  exact other shape hop

/-- The rooms of a bank's envelope (R208). -/
def envelopeRooms (s : State) (r : BankRef) : List SuiteId := wingRooms (envelopeOf s r).1 (envelopeOf s r).2

/-- A room of the envelope is foreign or stopped (R383). -/
def envelopeBad (s : State) (r : BankRef) : Bool := (envelopeRooms s r).any fun v => !owns s (tenantOf s r) v || (s.room v).stopped

/-- The envelope cut into wings, its command among those running. -/
def reshaped (s : State) (u : SuiteId) (c : Cmd) (shape : Nat) : State :=
  startHead (setWings s (envelopeOf s (.bank u c.bank)).1 (envelopeOf s (.bank u c.bank)).2 shape) u .m c

theorem exec_reshapeEffect_popped (h : headOf s u .m = some c) (hop : c.op = .mwing shape) (pop : popHead s u .m = (some c, s)) :
    exec (.reshapeEffect u) s = .next (if envelopeBad s (.bank u c.bank) then headTrap s u .m c 0x42 0
      else if !(envelopeRooms s (.bank u c.bank)).all (roomIdle s u) then s
      else finishRunning (reshaped s u c shape) u .m (((reshaped s u c shape).suite u).mrun.length - 1)) := by
  show execReshapeEffect u s = _
  simp only [execReshapeEffect, headOp_of_headOf h hop, pop, hop]
  rfl

theorem suite_reshaped (s : State) (u : SuiteId) (c : Cmd) (shape : Nat) : (reshaped s u c shape).suite u =
    { s.suite u with mq := (s.suite u).mq.drop 1, mrun := (s.suite u).mrun ++ [{ c with status := .running }] } := by
  have before := congrArg (fun p => p.1.get u) (setWings_keeps s (envelopeOf s (.bank u c.bank)).1 (envelopeOf s (.bank u c.bank)).2 shape)
  exact (suite_startHead ..).trans (by rw [show (setWings s _ _ shape).suite u = s.suite u from before])

/-- The state once a MWING without a push has completed. -/
def reshapeDone (s : State) (u : SuiteId) (c : Cmd) (shape : Nat) : State :=
  modRunning (reshaped s u c shape) u .m fun l => l.eraseIdx (s.suite u).mrun.length

theorem finishRunning_reshaped (runs : (s.suite u).stopped = false) (hop : c.op = .mwing shape) (noPush : c.tok.pushEn = 0) (kept : c.discard = false) :
    finishRunning (reshaped s u c shape) u .m (((reshaped s u c shape).suite u).mrun.length - 1) =
      doneFor (reshapeDone s u c shape) (.bank u c.bank) c.kind c.dn := by
  have suite := suite_reshaped s u c shape
  have last : ((reshaped s u c shape).suite u).mrun.length - 1 = (s.suite u).mrun.length := by rw [suite]; simp
  have cmd : (runningOf ((reshaped s u c shape).suite u) .m)[(s.suite u).mrun.length]? = some { c with status := .running } := by
    show ((reshaped s u c shape).suite u).mrun[(s.suite u).mrun.length]? = _
    rw [suite]
    simp
  have room : pushRoom (reshaped s u c shape) u .m { c with status := .running } = true := by
    simp [pushRoom, suite, runs, noPush]
  simp only [finishRunning, last, cmd, room, if_true]
  simp only [completeCmd, kept, Bool.false_eq_true, if_false, noPush, if_true, hop]
  rfl

theorem suite_reshapeDone (s : State) (u : SuiteId) (c : Cmd) (shape : Nat) :
    (reshapeDone s u c shape).suite u = { s.suite u with mq := (s.suite u).mq.drop 1 } := by
  have erased : ((s.suite u).mrun ++ [({ c with status := .running } : Cmd)]).eraseIdx (s.suite u).mrun.length = (s.suite u).mrun := by
    rw [List.eraseIdx_append_of_length_le (le_refl _), Nat.sub_self, List.eraseIdx_zero, List.tail_cons, List.append_nil]
  simp only [reshapeDone, modRunning, State.suite_modSuite, if_true, suite_reshaped, erased]

theorem bank_reshapeDone (s : State) (u : SuiteId) (c : Cmd) (shape : Nat) (b : Fin 2) :
    (reshapeDone s u c shape).bank (.bank u b) = s.bank (.bank u b) := by
  show ((reshapeDone s u c shape).suite u).banks.get b = (s.suite u).banks.get b
  rw [suite_reshapeDone]

/-- A room of the envelope in its sub-wing (R209, R212). -/
def Room.placed (lead : SuiteId) (shape : Nat) (v : SuiteId) (x : Room) : Room :=
  { x with
    wingLead := roomAt lead ((roomRow v - roomRow lead) / shapeRows shape * shapeRows shape) ((roomCol v - roomCol lead) / shapeCols shape * shapeCols shape)
    wingShape := ⟨shape % 9, by omega⟩
    latchE := Vector.replicate 128 0, latchS := Vector.replicate 128 0, latchX := Vector.replicate 128 0 }

theorem nodup_wingRooms (lead : SuiteId) (shape : Nat) : (wingRooms lead shape).Nodup := (List.nodup_finRange 64).filter _

theorem room_reshapeDone (s : State) (u : SuiteId) (c : Cmd) (shape : Nat) (v : SuiteId) : (reshapeDone s u c shape).room v =
    if v ∈ envelopeRooms s (.bank u c.bank) then (s.room v).placed (envelopeOf s (.bank u c.bank)).1 shape v else s.room v :=
  room_foldl_modRoom (Room.placed (envelopeOf s (.bank u c.bank)).1 shape) v (nodup_wingRooms _ _) s

end Reshape

/-! ### Halted wings -/

theorem room_haltWing (s : State) (lead : SuiteId) (h : Halt) (v : SuiteId) :
    (haltWing s lead h).room v = if v ∈ members s lead then { s.room v with halt := h } else s.room v :=
  room_foldl_modRoom (fun _ x => { x with halt := h }) v (nodup_members s lead) s

theorem exec_haltRestart (s : State) (u : SuiteId) : exec (.haltRestart u) s = .next
    (if (s.room u).halt.halted = true ∧ (s.room u).halt.held = [] ∧ rcycOf s u % 8 = (s.room u).halt.phase ∧
        ∀ v ∈ members s u, (s.room v).stopped = false
      then haltWing s (leadOf s u) Halt.reset else s) := by
  show execHaltRestart u s = _
  simp only [execHaltRestart, Bool.and_eq_true, List.isEmpty_iff, beq_iff_eq, List.all_eq_true, Bool.not_eq_true', and_assoc]

/-- Settles O37: the head with its tokens taken is looked at once; each outcome is a fold of independent changes of rooms. -/
theorem nestsStart : Obligations.NestsStart := by
  unfold Obligations.NestsStart
  intro s u c rest i rooms may n s1 popped h restarts
  have pops : popped → roomsWait s u .m c = false → headOf s u .m = some c ∧ popHead s u .m = (some c, s) := by
    rintro ⟨queue, old, sound, runs⟩ wait
    have head := headOf_of_mq queue
    exact ⟨head, popHead_popped head (not_headKept runs sound wait) old⟩
  refine ⟨fun ready hop => ⟨fun no => ?_, fun yes => ⟨fun v => ?_, fun cause v check => ?_, fun check => ?_⟩⟩, fun shape ready hop => ?_, fun go => ?_,
    fun no => ?_⟩
  · have head := headOf_of_mq ready.1
    cases wait : roomsWait s u .m c
    · exact exec_mgoStart_waits head hop (pops ready wait).2 no
    · exact headEvent_waits .mgo head hop (popHead_kept head (.inr (.inr wait)))
  · refine (congrArg Room.active (room_activated s u n v)).trans ?_
    split <;> rfl
  · obtain ⟨head, pop⟩ := pops ready (roomsWait_of_live yes.1 .m c)
    exact (exec_mgoStart_goes head hop pop yes).trans (by rw [show startCheck (activated s u n) u c n = some (cause, v) from check]; rfl)
  · obtain ⟨head, pop⟩ := pops ready (roomsWait_of_live yes.1 .m c)
    obtain ⟨pkg, tenants, ctxs⟩ := outside_nestStarted s u c n
    refine ⟨nestStarted s u c n,
      (exec_mgoStart_goes head hop pop yes).trans (by rw [show startCheck (activated s u n) u c n = none from check]), ?_, ?_, runs_nestStarted s u c n,
      fun v hv => ⟨active_nestStarted hv, ?_⟩, fun v out other => ?_, pkg, tenants, ctxs⟩
    · rw [suite_nestStarted, suite_startHead, ready.1]
      rfl
    · rw [suite_nestStarted, suite_startHead]
    · rw [room_nestStarted, if_pos hv]
      refine ⟨rfl, rfl, rfl, rfl, fun idle i j => ?_⟩
      rw [show (s.room u).runs = [] from idle]
      exact acc_quietRoom _ i j
    · rw [room_nestStarted, if_neg out, room_withNest, if_neg (Ne.symm other), room_activated, if_neg out]
  · obtain ⟨head, pop⟩ := pops ready (roomsWait_mwing hop .m)
    have run := exec_reshapeEffect_popped head hop pop
    intro env all bad
    refine ⟨fun foreign => ?_, fun sound busy => ?_, fun sound idle noPush kept => ?_⟩
    · exact run.trans (congrArg _ (if_pos foreign))
    · rw [run, if_neg (by rw [show envelopeBad s (.bank u c.bank) = false from sound]; exact Bool.false_ne_true),
        if_pos (by rw [show (envelopeRooms s (.bank u c.bank)).all (roomIdle s u) = false from busy]; rfl)]
    · rw [if_neg (by rw [show envelopeBad s (.bank u c.bank) = false from sound]; exact Bool.false_ne_true),
        if_neg (by rw [show (envelopeRooms s (.bank u c.bank)).all (roomIdle s u) = true from idle]; exact Bool.false_ne_true),
        finishRunning_reshaped ready.2.2.2 hop noPush kept] at run
      obtain ⟨-, doneRooms, -, -, -, -, doneSuites, -⟩ := doneFor_keeps (reshapeDone s u c shape) (.bank u c.bank) c.kind c.dn
      have room : ∀ v, (doneFor (reshapeDone s u c shape) (.bank u c.bank) c.kind c.dn).room v = (reshapeDone s u c shape).room v :=
        fun v => congrArg (Vector.get · v) doneRooms
      have suite := (doneSuites u).trans (suite_reshapeDone s u c shape)
      refine ⟨_, run, fun v hv => ?_, fun v out => ?_, ?_, ?_, ?_⟩
      · rw [room, room_reshapeDone, if_pos (show v ∈ envelopeRooms s (.bank u c.bank) from hv)]
        exact ⟨rfl, rfl⟩
      · rw [room, room_reshapeDone, if_neg (show v ∉ envelopeRooms s (.bank u c.bank) from out)]
      · have queue := congrArg Suite.mq suite
        refine Eq.trans queue ?_
        rw [ready.1]
        rfl
      · have running := congrArg Suite.mrun suite
        exact running
      · refine doneIn_congr ?_ (doneFor_done (reshapeDone s u c shape) (.bank u c.bank) c.kind c.dn)
        rw [bank_reshapeDone]
  · exact ⟨_, (exec_haltRestart s u).trans (congrArg _ (if_pos go)), room_haltWing s _ _,
      (outside_foldl_modRoom (fun _ x => { x with halt := Halt.reset }) _ s).1, (outside_foldl_modRoom (fun _ x => { x with halt := Halt.reset }) _ s).2.1⟩
  · exact (exec_haltRestart s u).trans (congrArg _ (if_neg no))

end Sys2Proof.Machine
end

section
/-! PROOFS. What the write of a drained row changes: words of one accumulator row, or bytes of the Local Store that the rows of its unit go on reading as
they stood (R196, R251-R253). -/

namespace Sys2Proof.Machine

theorem vget_map {α β : Type} {n : Nat} (f : α → β) (v : Vector α n) (i : Fin n) : (v.map f).get i = f (v.get i) := Vector.getElem_map ..

theorem modRoom_modRoom (s : State) (u : SuiteId) (f g : Room → Room) : (s.modRoom u f).modRoom u g = s.modRoom u fun x => g (f x) := by
  have inner : (s.modRoom u f).room u = f (s.room u) := (State.room_modRoom ..).trans (if_pos rfl)
  unfold State.modRoom State.setRoom at *
  dsimp only at *
  rw [inner, Vector.set_set]

/-! ### A row of the accumulator store -/

/-- Nothing but free choices and what results in flight carry lies between two states, as far as rooms, memory and Local Stores go. -/
structure OnlyFlights (s t : State) : Prop where
  rooms : t.rooms = s.rooms
  pkg : t.pkg = s.pkg
  turns : t.turns = s.turns
  ls : ∀ v, (t.suite v).ls = (s.suite v).ls

theorem OnlyFlights.refl (s : State) : OnlyFlights s s := ⟨rfl, rfl, rfl, fun _ => rfl⟩

theorem OnlyFlights.trans {s t v : State} (h : OnlyFlights s t) (g : OnlyFlights t v) : OnlyFlights s v :=
  ⟨g.rooms.trans h.rooms, g.pkg.trans h.pkg, g.turns.trans h.turns, fun u => (g.ls u).trans (h.ls u)⟩

theorem OnlyFlights.foldl {α : Type} {f : State → α → State} (h : ∀ t a, OnlyFlights t (f t a)) : ∀ (l : List α) (s : State), OnlyFlights s (l.foldl f s)
  | [], s => .refl s
  | a :: l, s => (h s a).trans (OnlyFlights.foldl h l (f s a))

theorem onlyFlights_modBank (s : State) (r : BankRef) (f : Bank → Bank) : OnlyFlights s (s.modBank r f) where
  rooms := by simp
  pkg := by simp
  turns := by simp
  ls v := by
    have same := congrArg Suite.ls (State.suite_setBank s r (f (s.bank r)) v)
    exact same

theorem onlyFlights_vaccSees (s : State) (u : SuiteId) (k : Fin 32) (row col : Fin 128) (w : W32) : OnlyFlights s (vaccSees s u k row col w) := by
  refine OnlyFlights.foldl (fun t b => ?_) _ s
  have chosen : OnlyFlights t (chooseBelow t 2).2 := ⟨rfl, rfl, rfl, fun _ => rfl⟩
  dsimp only
  split
  · exact .refl t
  · split
    · exact chosen
    · exact chosen.trans (onlyFlights_modBank _ _ _)

/-- A room with one row of its accumulator store replaced. -/
def Room.withRow (x : Room) (k : Fin 32) (row : Fin 128) (v : Vector W32 128) : Room :=
  { x with acc := x.acc.set k.val ((x.acc.get k).set row.val v row.isLt) k.isLt }

theorem accGet_withRow (s : State) (u p : SuiteId) (k f : Fin 32) (row i j : Fin 128) (v : Vector W32 128) :
    accGet (s.modRoom u fun x => x.withRow k row v) p f i j = if p = u ∧ f = k ∧ i = row then v.get j else accGet s p f i j := by
  by_cases hu : u = p
  · subst hu
    have tile : ((s.room u).withRow k row v).acc.get f =
        if k = f then ((s.room u).acc.get k).set row.val v row.isLt else (s.room u).acc.get f := vget_set ..
    simp only [accGet, State.room_modRoom, if_true, tile, true_and]
    by_cases hk : k = f
    · subst hk
      simp only [if_true, true_and, vget_set]
      by_cases hr : row = i
      · simp only [hr, if_true]
      · simp only [hr, Ne.symm hr, if_false]
    · simp only [hk, Ne.symm hk, if_false, false_and]
  · simp only [accGet, State.room_modRoom, hu, Ne.symm hu, if_false, false_and]

/-- With no error pending, writing a row replaces its words and nothing else but what VACCs under way carry. -/
theorem onlyFlights_accSetRow {s : State} (sound : s.pkg.flips = []) (u : SuiteId) (k : Fin 32) (row : Fin 128) (v : Vector W32 128) :
    OnlyFlights (s.modRoom u fun x => x.withRow k row v) (accSetRow s u k row v) := by
  unfold accSetRow
  rw [dropAccErrors_none sound]
  dsimp only
  split
  · exact OnlyFlights.foldl (fun t c => onlyFlights_vaccSees t u k row c (v.get c)) _ _
  · exact .refl _

theorem accGet_accSetRow {s : State} (sound : s.pkg.flips = []) (u p : SuiteId) (k f : Fin 32) (row i j : Fin 128) (v : Vector W32 128) :
    accGet (accSetRow s u k row v) p f i j = if p = u ∧ f = k ∧ i = row then v.get j else accGet s p f i j :=
  (accGet_congr (onlyFlights_accSetRow sound u k row v).rooms p f i j).trans (accGet_withRow ..)

theorem accReadRow_none {s : State} (sound : s.pkg.flips = []) (u : SuiteId) (k : Fin 32) (row : Fin 128) :
    accReadRow s u k row = (((s.room u).acc.get k).get row, s) := by
  unfold accReadRow
  dsimp only
  generalize List.finRange 128 = columns
  refine List.foldl_fixed' (fun c => ?_) columns
  exact if_pos (by rw [sound]; rfl)

/-- Accumulator words do not depend on what else a room holds. -/
theorem accGet_modRoom (s : State) (u : SuiteId) {f : Room → Room} (keeps : ∀ x, (f x).acc = x.acc) (p : SuiteId) (k : Fin 32) (i j : Fin 128) :
    accGet (s.modRoom u f) p k i j = accGet s p k i j := by
  unfold accGet
  rw [State.room_modRoom]
  split
  next e => subst e; rw [keeps]
  next => rfl

/-! ### Bytes of the Local Store -/

theorem filled_modRoom (u v : SuiteId) (f : Room → Room) : ∀ (l : List Nat) (s : State), filled u (s.modRoom v f) l = (filled u s l).modRoom v f
  | [], _ => rfl
  | x :: l, s => filled_modRoom u v f l (s.modSuite u fun y => { y with ls := memWrite y.ls (x * 64) (List.replicate 64 0xff) })

/-- A write to a Local Store and a change of a room do not see each other. -/
theorem lsWrite_modRoom (s : State) (u v : SuiteId) (f : Room → Room) (a : Nat) (bs : List Byte) :
    lsWrite (s.modRoom v f) u a bs = (lsWrite s u a bs).modRoom v f := by
  have bad : badUnits (s.modRoom v f) u a bs.length = badUnits s u a bs.length := rfl
  have clear : cleared (s.modRoom v f) u a bs.length = (cleared s u a bs.length).modRoom v f := by
    unfold cleared
    rw [bad, filled_modRoom]
    split <;> rfl
  rw [lsWrite_eq, clear]
  rfl

/-- What a write keeps of the bytes that no row of the unit has written before (R253). -/
def unitFresh (s : State) (u : SuiteId) (a n : Nat) : List (Nat × Byte) :=
  ((lsRead s u a n).zipIdx.map fun (b, i) => (a + i, b)).filter fun p => (s.room u).unitOld.all fun q => q.1 != p.1

theorem unitWrite_eq (s : State) (u : SuiteId) (a : Nat) (bs : List Byte) : unitWrite s u a bs =
    (lsWrite s u a bs).modRoom u fun r => { r with unitOld := unitFresh s u a bs.length ++ r.unitOld } := lsWrite_modRoom s u u _ a bs

theorem suite_unitWrite (s : State) (u v : SuiteId) (a : Nat) (bs : List Byte) : (unitWrite s u a bs).suite v = (lsWrite s u a bs).suite v := by
  rw [unitWrite_eq, State.suite_modRoom]

theorem room_lsWrite (s : State) (u v : SuiteId) (a : Nat) (bs : List Byte) : (lsWrite s u a bs).room v = s.room v :=
  congrArg (Vector.get · v) (outside_lsWrite s u a bs).1

/-- The row of a unit changes what its room keeps of the unit's old bytes, and no other part of a room. -/
theorem room_unitWrite (s : State) (u v : SuiteId) (a : Nat) (bs : List Byte) : (unitWrite s u a bs).room v =
    if u = v then { s.room u with unitOld := unitFresh s u a bs.length ++ (s.room u).unitOld } else s.room v := by
  rw [unitWrite_eq, State.room_modRoom, room_lsWrite, room_lsWrite]

theorem pkg_lsWrite_none {s : State} (sound : s.pkg.flips = []) (u : SuiteId) (a : Nat) (bs : List Byte) : (lsWrite s u a bs).pkg = s.pkg := by
  have none : badUnits s u a bs.length = [] := List.filter_eq_nil_iff.mpr fun _ _ => by simp [lsPoisoned, sound]
  have clear : cleared s u a bs.length = s := by
    unfold cleared
    rw [none]
    rfl
  rw [lsWrite_eq, clear]
  rfl

theorem sameAccs_unitWrite {s : State} (sound : s.pkg.flips = []) (u : SuiteId) (a : Nat) (bs : List Byte) : SameAccs s (unitWrite s u a bs) := by
  refine ⟨?_, fun v => ?_⟩
  · rw [unitWrite_eq]
    exact pkg_lsWrite_none sound u a bs
  · rw [room_unitWrite]
    split
    next e => subst e; rfl
    next => rfl

theorem SameAccs.accGet {s t : State} (h : SameAccs s t) (p : SuiteId) (k : Fin 32) (i j : Fin 128) : accGet t p k i j = accGet s p k i j := by
  unfold Machine.accGet
  rw [h.2]

/-! ### What the rows of a unit read -/

/-- A byte of the Local Store as it stood before the first row of the unit that drains (R253). -/
def unitByte (s : State) (u : SuiteId) (a : Nat) : Byte :=
  match (s.room u).unitOld.find? fun p => p.1 == a with | some p => p.2 | none => (lsRead s u a 1).headD 0

theorem lsRead_map (s : State) (u : SuiteId) (a n : Nat) : lsRead s u a n = (List.range n).map fun i => (lsRead s u (a + i) 1).headD 0 := rfl

theorem zipIdx_map_range {α : Type} (g : Nat → α) (n : Nat) : ((List.range n).map g).zipIdx = (List.range n).map fun i => (g i, i) := by
  refine List.ext_getElem (by simp) fun i _ _ => ?_
  simp

theorem unitRead_eq (s : State) (u : SuiteId) (a n : Nat) : unitRead s u a n = (List.range n).map fun i => unitByte s u (a + i) := by
  unfold unitRead
  rw [lsRead_map, zipIdx_map_range, List.map_map]
  rfl

theorem mem_unitFresh {s : State} {u : SuiteId} {a n : Nat} {p : Nat × Byte} : p ∈ unitFresh s u a n ↔
    (a ≤ p.1 ∧ p.1 < a + n) ∧ p.2 = (lsRead s u p.1 1).headD 0 ∧ ∀ q ∈ (s.room u).unitOld, q.1 ≠ p.1 := by
  unfold unitFresh
  rw [lsRead_map, zipIdx_map_range, List.map_map, List.mem_filter, List.mem_map, List.all_eq_true]
  simp only [bne_iff_ne, List.mem_range, Function.comp_apply]
  constructor
  · rintro ⟨⟨i, hi, rfl⟩, new⟩
    exact ⟨⟨Nat.le_add_right .., Nat.add_lt_add_left hi a⟩, rfl, new⟩
  · rintro ⟨⟨lo, hi⟩, value, new⟩
    have place : a + (p.1 - a) = p.1 := by omega
    exact ⟨⟨p.1 - a, by omega, Prod.ext place (by rw [place, value])⟩, new⟩

/-- Whatever a row of the unit writes, the later rows read what stood there before (R253). -/
theorem unitByte_unitWrite {s : State} {u : SuiteId} (wf : (s.suite u).ls.wf = true) (a : Nat) (bs : List Byte) (b : Nat) :
    unitByte (unitWrite s u a bs) u b = unitByte s u b := by
  have old : ((unitWrite s u a bs).room u).unitOld = unitFresh s u a bs.length ++ (s.room u).unitOld := by rw [room_unitWrite, if_pos rfl]
  have now : lsRead (unitWrite s u a bs) u b 1 = lsRead (lsWrite s u a bs) u b 1 := by rw [unitWrite_eq]; rfl
  unfold unitByte
  rw [old, List.find?_append, now]
  cases fresh : (unitFresh s u a bs.length).find? fun p => p.1 == b with
  | some p =>
    obtain rfl : p.1 = b := by simpa using List.find?_some fresh
    obtain ⟨-, value, new⟩ := mem_unitFresh.mp (List.mem_of_find?_eq_some fresh)
    have none : ((s.room u).unitOld.find? fun q => q.1 == p.1) = none := List.find?_eq_none.mpr fun q hq => by simpa using new q hq
    rw [none]
    exact value
  | none =>
    rw [Option.none_or]
    cases kept : (s.room u).unitOld.find? fun p => p.1 == b with
    | some p => rfl
    | none =>
      have outside : ¬ (a ≤ b ∧ b < a + bs.length) := fun inside => by
        have new : ∀ q ∈ (s.room u).unitOld, q.1 ≠ b := fun q hq => by simpa using List.find?_eq_none.mp kept q hq
        have found := List.find?_eq_none.mp fresh (b, (lsRead s u b 1).headD 0) (mem_unitFresh.mpr ⟨inside, rfl, new⟩)
        simp at found
      rw [lsRead_lsWrite_same s u a bs wf, if_neg outside]

/-! ### The main destination of a row (R196) -/

section Main
variable {s : State} {u : SuiteId} {x : DrainCtx}

theorem accTile_val (x : DrainCtx) (k : Nat) : (x.accTile k).val = if x.dual then 16 * x.bank.val + k % 16 else k % 32 := by
  unfold DrainCtx.accTile
  split <;> rfl

/-- The words that a row leaves in its place of the accumulator tile: its own, or their sums with the words there. -/
def mainWord (x : DrainCtx) (old new : W32) : W32 :=
  if x.mode = 1 then (if x.ty = .i32 then old + new else rne32 (addV false (dec32 old) (dec32 new)).1) else new

theorem laneArith_add (t : Fmt) (v w : W32) : (laneArith false t v w).1 = if t = .i32 then v + w else rne32 (addV false (dec32 v) (dec32 w)).1 := by
  unfold laneArith
  by_cases h : t = .i32
  · rw [if_pos h, if_pos h]
    show BitVec.ofInt 32 (v.toInt + w.toInt) = v + w
    rw [BitVec.ofInt_add, BitVec.ofInt_toInt, BitVec.ofInt_toInt]
  · rw [if_neg h, if_neg h]
    rfl

/-- A row that goes to an accumulator tile changes its own row of it, no PE, no package and no Local Store. -/
structure MainWritten (s t : State) (u : SuiteId) (x : DrainCtx) : Prop where
  words : ∀ p f i j, accGet t p f i j = if p = u ∧ f = x.accTile x.c ∧ i.val = x.row then mainWord x (accGet s p f i j) (x.lanes.get j)
    else accGet s p f i j
  pes : ∀ v, (t.room v).pes = (s.room v).pes
  pkg : t.pkg = s.pkg
  ls : ∀ v, (t.suite v).ls = (s.suite v).ls

theorem pes_withRow (s : State) (u v : SuiteId) (k : Fin 32) (row : Fin 128) (w : Vector W32 128) :
    ((s.modRoom u fun x => x.withRow k row w).room v).pes = (s.room v).pes := by
  rw [State.room_modRoom]
  split
  next e => subst e; rfl
  next => rfl

theorem pes_modRoom (s : State) (u : SuiteId) {f : Room → Room} (keeps : ∀ x, (f x).pes = x.pes) (v : SuiteId) :
    ((s.modRoom u f).room v).pes = (s.room v).pes := by
  rw [State.room_modRoom]
  split
  next e => subst e; exact keeps _
  next => rfl

theorem takePort_keeps (s : State) (u : SuiteId) (k : Fin 32) :
    (∀ p f i j, accGet (takePort s u k) p f i j = accGet s p f i j) ∧ ∀ v, ((takePort s u k).room v).pes = (s.room v).pes := by
  unfold takePort
  exact ⟨accGet_modRoom s u fun _ => rfl, pes_modRoom s u fun _ => rfl⟩

/-- A change of the room beside its accumulator tiles and PEs. -/
theorem MainWritten.modRoom {t : State} (h : MainWritten s t u x) {f : Room → Room} (acc : ∀ r, (f r).acc = r.acc) (pes : ∀ r, (f r).pes = r.pes) :
    MainWritten s (t.modRoom u f) u x :=
  ⟨fun p k i j => (accGet_modRoom t u acc p k i j).trans (h.words p k i j), fun v => (pes_modRoom t u pes v).trans (h.pes v), h.pkg, h.ls⟩

/-- Writing a row over its place, its words what the main destination's mode makes of those of the row. -/
theorem accSetRow_written (sound : s.pkg.flips = []) (short : x.row < 128) {v : Vector W32 128}
    (words : ∀ j, v.get j = mainWord x (accGet s u (x.accTile x.c) ⟨x.row, short⟩ j) (x.lanes.get j)) :
    MainWritten s (accSetRow (takePort s u (x.accTile x.c)) u (x.accTile x.c) ⟨x.row, short⟩ v) u x := by
  obtain ⟨acc, pes⟩ := takePort_keeps s u (x.accTile x.c)
  have port : (takePort s u (x.accTile x.c)).pkg.flips = [] := sound
  obtain ⟨rooms, pkg, -, ls⟩ := onlyFlights_accSetRow port u (x.accTile x.c) ⟨x.row, short⟩ v
  refine ⟨fun p f i j => ?_, fun p => ?_, pkg, ls⟩
  · rw [accGet_accSetRow port, acc]
    by_cases here : p = u ∧ f = x.accTile x.c ∧ i.val = x.row
    · obtain ⟨rfl, rfl, row⟩ := here
      obtain rfl : i = ⟨x.row, short⟩ := Fin.ext row
      rw [if_pos ⟨rfl, rfl, rfl⟩, if_pos ⟨rfl, rfl, rfl⟩, words]
    · rw [if_neg here, if_neg fun there => here ⟨there.1, there.2.1, congrArg Fin.val there.2.2⟩]
  · have same := congrArg (fun r => (Vector.get r p).pes) rooms
    exact Eq.trans same ((pes_withRow ..).trans (pes p))

/-- The sums of a row with the words in its place. -/
def mainSums (s : State) (u : SuiteId) (x : DrainCtx) (row : Fin 128) : Vector (W32 × Bool) 128 :=
  Vector.ofFn fun j => laneArith false x.ty (accGet s u (x.accTile x.c) row j) (x.lanes.get j)

theorem writeMain_over (short : x.row < 128) (acc : x.mode ≠ 2) (plain : x.mode ≠ 1) :
    writeMain s u x = accSetRow (takePort s u (x.accTile x.c)) u (x.accTile x.c) ⟨x.row, short⟩ x.lanes := by
  unfold writeMain
  rw [if_neg acc]
  dsimp only
  rw [dif_pos short, if_neg plain]

theorem writeMain_added (sound : s.pkg.flips = []) (short : x.row < 128) (add : x.mode = 1) :
    writeMain s u x = if (mainSums s u x ⟨x.row, short⟩).toList.any (·.2)
      then (accSetRow (takePort s u (x.accTile x.c)) u (x.accTile x.c) ⟨x.row, short⟩ ((mainSums s u x ⟨x.row, short⟩).map (·.1))).modRoom u
        fun q => { q with ovf := true, ovfNow := true }
      else accSetRow (takePort s u (x.accTile x.c)) u (x.accTile x.c) ⟨x.row, short⟩ ((mainSums s u x ⟨x.row, short⟩).map (·.1)) := by
  have port : (takePort s u (x.accTile x.c)).pkg.flips = [] := sound
  have old : (((takePort s u (x.accTile x.c)).room u).acc) = (s.room u).acc := by
    rw [takePort, State.room_modRoom, if_pos rfl]
  unfold writeMain
  rw [if_neg (by rw [add]; decide)]
  dsimp only
  rw [dif_pos short, if_pos add, accReadRow_none port, old]
  rfl

theorem writeMain_written (sound : s.pkg.flips = []) (short : x.row < 128) (acc : x.mode ≠ 2) : MainWritten s (writeMain s u x) u x := by
  by_cases add : x.mode = 1
  · have sums := accSetRow_written (v := (mainSums s u x ⟨x.row, short⟩).map (·.1)) sound short fun j => by
      rw [vget_map, mainSums, vget_ofFn, laneArith_add, mainWord, if_pos add]
    rw [writeMain_added sound short add]
    split
    · exact sums.modRoom (fun _ => rfl) fun _ => rfl
    · exact sums
  · rw [writeMain_over short acc add]
    exact accSetRow_written sound short fun j => by rw [mainWord, if_neg add]

end Main

end Sys2Proof.Machine
end

section
/-! PROOFS. The row of a room that is due in a beat: it leaves its PEs for its main destination, or stands before its drain program (R195-R197, R250). -/

namespace Sys2Proof.Machine

section Due
variable {s : State} {v : SuiteId} {r : WingRun} {q : UnitRec} {k : Nat}

/-- The row that drains, as its program or its main destination takes it (R250). -/
def dueRow (s : State) (v : SuiteId) (r : WingRun) (q : UnitRec) (i : Fin 128) : DrainCtx :=
  { bank := r.cmd.bank, writes := [], lanes := ((s.room v).pes.get i).map (·.acc), ty := if q.int then .i32 else .fp32, row := i.val, c := q.c.getD 0,
    mode := runMode s (leadOf s v) r, dbase := r.set.dbase.toNat, pitch := nestCpitch r.set, isInt := q.int, image := r.cmd.image, dual := r.cmd.dual }

/-- The room once the row has left its PEs; what the rows of a unit have kept goes before its first (R195, R253). -/
def Room.rowLeft (x : Room) (i : Fin 128) : Room :=
  { x with pes := x.pes.set i.val ((x.pes.get i).map fun p => { p with acc := 0 }) i.isLt, unitOld := if i.val = 0 then [] else x.unitOld }

/-- The row stands before the first micro-op of its program (R250). -/
def Room.rowBound (x : Room) (y : DrainCtx) (pos : Nat) : Room := { x with drain := some y, drainPos := pos }

theorem drainRoom_main (due : rowDue s v = some (r, q, k)) (h : k < 128) {im : Image} (image : cmdImage s r.cmd = some im) (free : 8 ≤ r.set.prog.toNat) :
    drainRoom s v = finishRow (s.modRoom v fun x => x.rowLeft ⟨k, h⟩) v (dueRow s v r q ⟨k, h⟩) true := by
  simp only [drainRoom, due, h, dif_pos, image, free, if_true]
  rfl

/-- The state in which the row stands before its program, whose turn comes next. -/
def rowStanding (s : State) (v : SuiteId) (i : Fin 128) (y : DrainCtx) (pos : Nat) : State :=
  { (s.modRoom v fun x => x.rowLeft i).modRoom v fun x => x.rowBound y pos with turns := .issue ⟨.bank v y.bank, .drain⟩ :: s.turns }

theorem drainRoom_program (due : rowDue s v = some (r, q, k)) (h : k < 128) {im : Image} (image : cmdImage s r.cmd = some im)
    (bound : r.set.prog.toNat < 8) : drainRoom s v =
      rowStanding s v ⟨k, h⟩ (dueRow s v r q ⟨k, h⟩) ((im.drains.getD r.set.prog.toNat 0).toNat * 16) := by
  simp only [drainRoom, due, h, dif_pos, image, not_le.mpr bound, if_false]
  rfl

/-! ### What leaves the PEs -/

theorem acc_rowLeft (x : Room) (i j : Fin 128) : (((x.rowLeft i).pes.get i).get j).acc = 0 := by
  have row : (x.rowLeft i).pes.get i = (x.pes.get i).map fun p => { p with acc := 0 } := (vget_set ..).trans (if_pos rfl)
  rw [row, vget_map]

theorem psum_rowLeft (s : State) (v : SuiteId) (i j : Fin 128) : (((((s.modRoom v fun x => x.rowLeft i).room v).pes).get i).get j).acc = 0 := by
  rw [State.room_modRoom, if_pos rfl, acc_rowLeft]

theorem accGet_rowLeft (s : State) (v : SuiteId) (i : Fin 128) (p : SuiteId) (f : Fin 32) (n j : Fin 128) :
    accGet (s.modRoom v fun x => x.rowLeft i) p f n j = accGet s p f n j := accGet_modRoom s v (fun _ => by rfl) p f n j

theorem room_rowStanding (s : State) (v : SuiteId) (i : Fin 128) (y : DrainCtx) (pos : Nat) :
    (rowStanding s v i y pos).room v = ((s.room v).rowLeft i).rowBound y pos := by
  show ((s.modRoom v fun x => x.rowLeft i).modRoom v fun x => x.rowBound y pos).room v = _
  rw [modRoom_modRoom, State.room_modRoom, if_pos rfl]

theorem accGet_rowStanding (s : State) (v : SuiteId) (i : Fin 128) (y : DrainCtx) (pos : Nat) (p : SuiteId) (f : Fin 32) (n j : Fin 128) :
    accGet (rowStanding s v i y pos) p f n j = accGet s p f n j :=
  (accGet_modRoom (s.modRoom v fun x => x.rowLeft i) v (f := fun x => x.rowBound y pos) (fun _ => rfl) p f n j).trans (accGet_rowLeft ..)

/-! ### The row at its main destination -/

/-- A row without pending writes goes to its main destination and leaves. -/
theorem finishRow_main {t : State} {x : DrainCtx} (none : x.writes = []) :
    finishRow t v x true = (writeMain t v x).modRoom v fun y => { y with drain := Option.none } := by
  simp only [finishRow, none, List.foldl_nil, if_true]

theorem rowBytes_dueRow (s : State) (v : SuiteId) (r : WingRun) (q : UnitRec) (i : Fin 128) :
    rowBytes (dueRow s v r q i) = (((s.room v).pes.get i).map (·.acc)).toList.flatMap fun w => leBytes 4 w.toNat := by
  have words : (dueRow s v r q i).ty.esz = 4 := by
    show (if q.int then Fmt.i32 else .fp32).esz = 4
    cases q.int <;> rfl
  rw [rowBytes, words]
  rfl

theorem mainWord_dueRow (s : State) (v : SuiteId) (r : WingRun) (q : UnitRec) (i : Fin 128) (old new : W32) :
    mainWord (dueRow s v r q i) old new =
      if runMode s (leadOf s v) r = 1 then (if q.int then old + new else rne32 (addV false (dec32 old) (dec32 new)).1) else new := by
  have int : ((dueRow s v r q i).ty = .i32) = (q.int = true) := by
    show ((if q.int then Fmt.i32 else .fp32) = .i32) = _
    cases q.int <;> simp
  simp only [mainWord, int]
  rfl

/-- The row at its main destination: its psums are zero, and only its place there has changed (R195, R196). -/
structure RowWritten (s t : State) (v : SuiteId) (r : WingRun) (q : UnitRec) (i : Fin 128) : Prop where
  psum : ∀ j, (((t.room v).pes.get i).get j).acc = 0
  gone : (t.room v).drain = none
  bytes : runMode s (leadOf s v) r = 2 →
    (t.suite v).ls = ((lsWrite s v (q.c.getD 0 + i.val * nestCpitch r.set) (rowBytes (dueRow s v r q i))).suite v).ls
  words : runMode s (leadOf s v) r ≠ 2 → MainWritten (s.modRoom v fun x => x.rowLeft i) t v (dueRow s v r q i)

theorem finishRow_dueRow (sound : s.pkg.flips = []) (i : Fin 128) :
    RowWritten s (finishRow (s.modRoom v fun x => x.rowLeft i) v (dueRow s v r q i) true) v r q i := by
  have left : (s.modRoom v fun x => x.rowLeft i).pkg.flips = [] := sound
  rw [finishRow_main (x := dueRow s v r q i) rfl]
  have gone : (((writeMain (s.modRoom v fun x => x.rowLeft i) v (dueRow s v r q i)).modRoom v fun y => { y with drain := none }).room v).drain = none := by
    rw [State.room_modRoom, if_pos rfl]
  by_cases bytes : runMode s (leadOf s v) r = 2
  · have run : writeMain (s.modRoom v fun x => x.rowLeft i) v (dueRow s v r q i) =
        unitWrite (s.modRoom v fun x => x.rowLeft i) v (q.c.getD 0 + i.val * nestCpitch r.set) (rowBytes (dueRow s v r q i)) := if_pos bytes
    refine ⟨fun j => ?_, gone, fun _ => ?_, fun acc => absurd bytes acc⟩
    · rw [run, pes_modRoom _ v (fun _ => by rfl), room_unitWrite, if_pos rfl]
      exact psum_rowLeft s v i j
    · rw [run, State.suite_modRoom, suite_unitWrite, lsWrite_modRoom, State.suite_modRoom]
  · have main := (writeMain_written (x := dueRow s v r q i) (u := v) left i.isLt bytes).modRoom
      (f := fun y => { y with drain := none }) (fun _ => rfl) fun _ => rfl
    refine ⟨fun j => ?_, gone, fun acc => absurd acc bytes, fun _ => main⟩
    rw [main.pes]
    exact psum_rowLeft s v i j

end Due

theorem exec_drainRow (s : State) (v : SuiteId) :
    exec (.drainRow v) s = .next (if nestRuns s (leadOf s v) && (wingFails s (leadOf s v)).isNone then drainRoom s v else s) := rfl

/-- Settles O39: the row that leaves its PEs is the one row that the main destination or the program takes. -/
theorem rowsDrain : Obligations.RowsDrain := by
  unfold Obligations.RowsDrain
  intro s v lead runs
  have go : (nestRuns s lead && (wingFails s lead).isNone) = true ↔ runs := by rw [Bool.and_eq_true, Option.isNone_iff_eq_none]
  refine ⟨fun still => ?_, fun r q k im on due image sound h => ?_⟩
  · rw [exec_drainRow]
    obtain off | none := still
    · rw [if_neg fun on => off (go.mp on)]
    · rw [drainRoom, none, ite_self]
  · have run : exec (.drainRow v) s = .next (drainRoom s v) := (exec_drainRow s v).trans (congrArg _ (if_pos (go.mpr on)))
    intro i psum c tile mode row
    refine ⟨fun free => ?_, fun bound => ?_⟩
    · have written := finishRow_dueRow (v := v) (r := r) (q := q) sound i
      refine ⟨_, run.trans (congrArg _ (drainRoom_main due h image free)), written.psum, written.gone, fun bytes => ?_, fun acc => ?_⟩
      · rw [written.bytes bytes, rowBytes_dueRow]
      · obtain ⟨words, -, -, ls⟩ := written.words acc
        refine ⟨ls v, fun p f j n => (words p f n j).trans ?_⟩
        have place : (p = v ∧ f = (dueRow s v r q i).accTile (dueRow s v r q i).c ∧ n.val = (dueRow s v r q i).row) ↔ (p = v ∧ f.val = tile ∧ n = i) := by
          rw [Fin.ext_iff (a := f), accTile_val, Fin.ext_iff (a := n)]
          rfl
        have lane : (dueRow s v r q i).lanes.get j = psum s j := vget_map ..
        simp only [place, accGet_rowLeft, mainWord_dueRow, lane]
        rfl
    · have room := room_rowStanding s v i (dueRow s v r q i) ((im.drains.getD r.set.prog.toNat 0).toNat * 16)
      refine ⟨_, run.trans (congrArg _ (drainRoom_program due h image bound)), fun j => ?_, rfl, ?_, fun p f j n => accGet_rowStanding .., dueRow s v r q i,
        ?_, ?_⟩
      · exact (congrArg (fun x : Room => ((x.pes.get i).get j).acc) room).trans (acc_rowLeft _ i j)
      · exact congrArg Room.drainPos room
      · exact congrArg Room.drain room
      · exact ⟨rfl, rfl, rfl, rfl, rfl, rfl, rfl, rfl, rfl⟩

end Sys2Proof.Machine
end

section
/-! PROOFS. Drain micro-ops: those that transform the row in its room, those that write it, and the end of the row (R250-R253). -/

namespace Sys2Proof.Machine

/-! ### A micro-op in its row -/

/-- The room after a micro-op has made a row of its row (R252). -/
def Room.reworked (q : Room) (y : DrainCtx) (ovf : Bool) : Room := { q with drain := some y, ovf := q.ovf || ovf, ovfNow := q.ovfNow || ovf }

/-- The machine after a micro-op of the running row: the position has moved on, and the next micro-op has its turn in the same cycle. -/
def opDone (s : State) (t : State) : State := { t with turns := .issue s.cur :: (advance s s.cur 1).turns }

/-- A micro-op makes another row of its row, and changes nothing else but ROOMSTAT's overflow bit. -/
def rowGoesOn (s : State) (i : Instr) (y : DrainCtx) (ovf : Bool) : Prop :=
  exec i s = .next (opDone s ((advance s s.cur 1).modRoom s.cur.suite fun q => q.reworked y ovf))

/-- A micro-op makes given lanes of a type of its row. -/
def rowLanes (s : State) (x : DrainCtx) (i : Instr) (t : Fmt) (f : Fin 128 → W32) (ovf : Bool) : Prop :=
  ∃ v : Vector W32 128, (∀ j, v.get j = f j) ∧ rowGoesOn s i { x with lanes := v, ty := t } ovf

theorem setRow_eq (s : State) (u : SuiteId) (y : DrainCtx) : setRow s u y = s.modRoom u fun q => q.reworked y false := by
  simp only [setRow, Room.reworked, Bool.or_false]

/-- A micro-op that only replaces its row. -/
theorem rowGoesOn_of_setRow {s : State} {i : Instr} {y : DrainCtx} (run : exec i s = .next (opDone s (setRow (advance s s.cur 1) s.cur.suite y))) :
    rowGoesOn s i y false := by
  rw [rowGoesOn, run, setRow_eq]

/-- A micro-op that maps the lanes of its row. -/
theorem rowLanes_of_map {s : State} {x : DrainCtx} {i : Instr} (g : W32 → W32) {t : Fmt} {lane : Fin 128 → W32}
    (run : exec i s = .next (opDone s (setRow (advance s s.cur 1) s.cur.suite { x with lanes := x.lanes.map g, ty := t })))
    (lanes : ∀ j, g (x.lanes.get j) = lane j) : rowLanes s x i t lane false :=
  ⟨x.lanes.map g, fun j => (vget_map ..).trans (lanes j), rowGoesOn_of_setRow run⟩

theorem drainOp_row {s : State} {x : DrainCtx} (row : (s.room s.cur.suite).drain = some x) (f : SuiteId → DrainCtx → State → State) : drainOp f s =
    .next { f s.cur.suite x (advance s s.cur 1) with turns := .issue s.cur :: (f s.cur.suite x (advance s s.cur 1)).turns } := by
  simp only [drainOp, row]

theorem rowLanes_dact {s : State} {x : DrainCtx} {fn : BitVec 6} {lane : Fin 128 → W32} (row : (s.room s.cur.suite).drain = some x)
    (lanes : ∀ j, laneAct fn x.ty (x.lanes.get j) = lane j) : rowLanes s x (.dact fn) x.ty lane false :=
  rowLanes_of_map (laneAct fn x.ty) (drainOp_row row fun u x t => setRow t u { x with lanes := x.lanes.map (laneAct fn x.ty) }) lanes

/-- DCVT converts each lane, and with them the row's type. -/
theorem rowLanes_dcvt {s : State} {x : DrainCtx} (row : (s.room s.cur.suite).drain = some x) (ov : BitVec 1) (rm : BitVec 2) (ty : BitVec 3) :
    rowLanes s x (.dcvt ov rm ty) (Fmt.ofTy ty)
      (fun j => BitVec.ofNat 32 (cvt (dec (x.lanes.get j).toNat x.ty) (Fmt.ofTy ty) rm (ov == 1)).1) false :=
  rowLanes_of_map (fun v => BitVec.ofNat 32 (cvt (dec v.toNat x.ty) (Fmt.ofTy ty) rm (ov == 1)).1)
    (drainOp_row row fun u x t => setRow t u
      { x with lanes := x.lanes.map (fun v => BitVec.ofNat 32 (cvt (dec v.toNat x.ty) (Fmt.ofTy ty) rm (ov == 1)).1), ty := Fmt.ofTy ty })
    fun _ => rfl

/-- DSTL leaves its bytes pending until the end of the row (R251). -/
theorem rowGoesOn_dstl {s : State} {x : DrainCtx} (row : (s.room s.cur.suite).drain = some x) (pitch : BitVec 2) (n : BitVec 12) :
    rowGoesOn s (.dstl pitch n)
      { x with writes := x.writes ++ [(x.dbase + 512 * n.toNat + 256 * 2 ^ pitch.toNat * x.row, rowBytes x)] } false :=
  rowGoesOn_of_setRow (drainOp_row row fun u x t => setRow t u
    { x with writes := x.writes ++ [(x.dbase + 512 * n.toNat + 256 * 2 ^ pitch.toNat * x.row, rowBytes x)] })

/-! ### Operand lines (R251, R253) -/

theorem advance_drain {s : State} {r : BankRef} (cur : s.cur = ⟨r, .drain⟩) :
    ∃ p, advance s s.cur 1 = s.modRoom s.cur.suite fun q => { q with drainPos := p } := by
  have kind : s.cur.kind = .drain := by rw [cur]
  refine ⟨sequential s s.cur 1, ?_⟩
  unfold advance
  dsimp only
  rw [if_pos (.inr kind), setPos, kind]

theorem drain_modRoom (s : State) (u : SuiteId) {f : Room → Room} (keeps : ∀ x, (f x).drain = x.drain) (v : SuiteId) :
    ((s.modRoom u f).room v).drain = (s.room v).drain := by
  rw [State.room_modRoom]
  split
  next e => subst e; exact keeps _
  next => rfl

theorem advance_drain_keeps {s : State} {r : BankRef} (cur : s.cur = ⟨r, .drain⟩) :
    ((advance s s.cur 1).room s.cur.suite).drain = (s.room s.cur.suite).drain ∧ (advance s s.cur 1).pkg.flips = s.pkg.flips ∧
      (advance s s.cur 1).turns = s.turns ∧ (∀ v, ((advance s s.cur 1).suite v).ls = (s.suite v).ls) ∧
      ∀ v q i j, accGet (advance s s.cur 1) v q i j = accGet s v q i j := by
  obtain ⟨p, moved⟩ := advance_drain cur
  rw [moved]
  refine ⟨drain_modRoom s _ (fun _ => by rfl) _, rfl, rfl, fun _ => rfl, accGet_modRoom s s.cur.suite fun _ => by rfl⟩

theorem unitOld_advance {s : State} {r : BankRef} (cur : s.cur = ⟨r, .drain⟩) :
    ((advance s s.cur 1).room s.cur.suite).unitOld = (s.room s.cur.suite).unitOld := by
  obtain ⟨p, moved⟩ := advance_drain cur
  rw [moved, State.room_modRoom, if_pos rfl]

/-- A byte of an operand line, as the running row reads it: what an earlier row of the unit wrote over, and else the Local Store. -/
def lineByte (s : State) (a : Nat) : Byte :=
  match (s.room s.cur.suite).unitOld.find? fun p => p.1 == a with | some p => p.2 | none => (lsRead (advance s s.cur 1) s.cur.suite a 1).headD 0

/-- A word of an operand line, as the running row reads it. -/
def operandWord (s : State) (x : DrainCtx) (line j : Nat) : W32 :=
  BitVec.ofNat 32 (leNat ((List.range 4).map fun i => lineByte s (x.dbase + 512 * line + 4 * j + i)))

theorem lineWord_advance {s : State} {r : BankRef} (cur : s.cur = ⟨r, .drain⟩) (x : DrainCtx) (n j : Nat) :
    lineWord (advance s s.cur 1) s.cur.suite x n j = operandWord s x n j := by
  have byte : ∀ a, unitByte (advance s s.cur 1) s.cur.suite a = lineByte s a := fun a => by
    rw [unitByte, unitOld_advance cur]
    rfl
  rw [lineWord, unitRead_eq, operandWord]
  simp only [byte]

/-! ### Arithmetic on lanes (R252, R391) -/

/-- Whether an exact sum or product leaves the INT32 range (R391). -/
def outsideInt32 (z : Int) : Bool := decide (z < -(2 ^ 31)) || decide (2 ^ 31 ≤ z)

theorem laneArith_int (mul : Bool) (v w : W32) : laneArith mul .i32 v w =
    (BitVec.ofInt 32 (if mul then v.toInt * w.toInt else v.toInt + w.toInt), outsideInt32 (if mul then v.toInt * w.toInt else v.toInt + w.toInt)) := rfl

theorem laneArith_float {t : Fmt} (h : t ≠ .i32) (mul : Bool) (v w : W32) : laneArith mul t v w =
    (rne32 (if mul then (mulV (dec32 v) (dec32 w)).1 else (addV false (dec32 v) (dec32 w)).1), false) := if_neg h

theorem any_toList {α : Type} {n : Nat} (v : Vector α n) (p : α → Bool) : v.toList.any p = (List.finRange n).any fun j => p (v.get j) := by
  rw [toList_eq_map_get, List.any_map]
  rfl

section Arith
variable {s : State} {r : BankRef} {x : DrainCtx} {i : Instr} {mul perRow : Bool} {n : BitVec 12} {line : Nat}

theorem drainArith_eq (t : State) (u : SuiteId) (mul perRow : Bool) (n : BitVec 12) (x : DrainCtx) :
    let sums : Vector (W32 × Bool) 128 := Vector.ofFn fun j =>
      laneArith mul x.ty (x.lanes.get j) (lineWord t u x (n.toNat + if perRow then x.row else 0) j.val)
    drainArith mul perRow n u x t = t.modRoom u fun q => q.reworked { x with lanes := sums.map (·.1) } (sums.toList.any (·.2)) := by
  intro sums
  have run : drainArith mul perRow n u x t = if sums.toList.any (·.2) = true
      then (setRow t u { x with lanes := sums.map (·.1) }).modRoom u fun q => { q with ovf := true, ovfNow := true }
      else setRow t u { x with lanes := sums.map (·.1) } := rfl
  rw [run]
  cases sums.toList.any (·.2)
  · exact setRow_eq ..
  · rw [if_pos rfl, setRow, modRoom_modRoom]
    simp only [Room.reworked, Bool.or_true]

variable (cur : s.cur = ⟨r, .drain⟩) (row : (s.room s.cur.suite).drain = some x) (run : exec i s = drainOp (drainArith mul perRow n) s)
  (place : n.toNat + (if perRow then x.row else 0) = line)
include cur row run place

/-- Sums and products with the words of an operand line: each lane, and whether one left its range. -/
theorem rowLanes_arith : rowLanes s x i x.ty (fun j => (laneArith mul x.ty (x.lanes.get j) (operandWord s x line j.val)).1)
    ((List.finRange 128).any fun j => (laneArith mul x.ty (x.lanes.get j) (operandWord s x line j.val)).2) := by
  refine ⟨(Vector.ofFn fun j : Fin 128 => laneArith mul x.ty (x.lanes.get j) (operandWord s x line j.val)).map (·.1), fun j => ?_, ?_⟩
  · rw [vget_map, vget_ofFn]
  · rw [rowGoesOn, run, drainOp_row row, drainArith_eq]
    simp only [place, lineWord_advance cur, any_toList, vget_ofFn]
    rfl

theorem rowLanes_arith_int (int : x.ty = .i32) : rowLanes s x i x.ty
    (fun j => BitVec.ofInt 32 (if mul then (x.lanes.get j).toInt * (operandWord s x line j.val).toInt
      else (x.lanes.get j).toInt + (operandWord s x line j.val).toInt))
    ((List.finRange 128).any fun j => outsideInt32 (if mul then (x.lanes.get j).toInt * (operandWord s x line j.val).toInt
      else (x.lanes.get j).toInt + (operandWord s x line j.val).toInt)) := by
  have lanes := rowLanes_arith cur row run place
  rw [int] at lanes ⊢
  simpa only [laneArith_int] using lanes

theorem rowLanes_arith_float (float : x.ty ≠ .i32) : rowLanes s x i x.ty
    (fun j => rne32 (if mul then (mulV (dec32 (x.lanes.get j)) (dec32 (operandWord s x line j.val))).1
      else (addV false (dec32 (x.lanes.get j)) (dec32 (operandWord s x line j.val))).1)) false := by
  have lanes := rowLanes_arith cur row run place
  have inside : ((List.finRange 128).any fun _ => false) = false := List.any_eq_false.mpr fun _ _ => Bool.false_ne_true
  simpa only [laneArith_float float, inside] using lanes

end Arith

theorem rowLanes_dclp {s : State} {r : BankRef} {x : DrainCtx} {n : BitVec 12} {lane : Fin 128 → W32} (cur : s.cur = ⟨r, .drain⟩)
    (row : (s.room s.cur.suite).drain = some x)
    (lanes : ∀ j, laneClamp x.ty (operandWord s x n.toNat 0) (operandWord s x n.toNat 1) (x.lanes.get j) = lane j) :
    rowLanes s x (.dclp n) x.ty lane false :=
  rowLanes_of_map (laneClamp x.ty (lineWord (advance s s.cur 1) s.cur.suite x n.toNat 0) (lineWord (advance s s.cur 1) s.cur.suite x n.toNat 1))
    (drainOp_row row fun u x t => setRow t u { x with lanes := x.lanes.map (laneClamp x.ty (lineWord t u x n.toNat 0) (lineWord t u x n.toNat 1)) })
    fun j => by rw [lineWord_advance cur, lineWord_advance cur, lanes]

/-! ### DACT and DCLP (R252) -/

theorem laneAct_int (v : W32) : laneAct 0 .i32 v = v ∧ laneAct 1 .i32 v = if 0 < v.toInt then v else 0 := by
  refine ⟨rfl, ?_⟩
  show (if (0 : W32).slt v then v else 0) = _
  rw [BitVec.slt_eq_decide]
  simp

theorem laneAct_float {t : Fmt} (h : t ≠ .i32) (fn : BitVec 6) (v : W32) : laneAct fn t v = match fn.toNat with
    | 0 => BitVec.ofNat 32 (canonBits v.toNat .fp32)
    | 1 => if (dec32 v).isNaN then 0x7fc00000 else if ltV .zero (dec32 v) then v else 0
    | 2 => rne32 (fSilu (dec32 v)).1
    | 3 => rne32 (fGelu (dec32 v)).1
    | 4 => rne32 (fSigm (dec32 v)).1
    | _ => rne32 (fTanh (dec32 v)).1 := if_neg h

theorem laneClamp_int (lo hi v : W32) : laneClamp .i32 lo hi v = BitVec.ofInt 32 (min (max v.toInt lo.toInt) hi.toInt) := by
  have raised : (if v.slt lo then lo else v).toInt = max v.toInt lo.toInt := by
    rw [BitVec.slt_eq_decide]
    by_cases h : v.toInt < lo.toInt
    · simp [h, max_eq_right h.le]
    · simp [h, max_eq_left (not_lt.mp h)]
  show (if hi.slt (if v.slt lo then lo else v) then hi else if v.slt lo then lo else v) = _
  generalize (if v.slt lo then lo else v) = m at raised
  rw [← raised, BitVec.slt_eq_decide]
  by_cases h : hi.toInt < m.toInt
  · simp [h, min_eq_right h.le]
  · simp [h, min_eq_left (not_lt.mp h)]

theorem laneClamp_float {t : Fmt} (h : t ≠ .i32) (lo hi v : W32) :
    laneClamp t lo hi v = rne32 (minMaxV false (minMaxV true (dec32 v) (dec32 lo)) (dec32 hi)) := if_neg h

/-! ### The writes of a row -/

section Writes
variable {s : State} {u : SuiteId} {x : DrainCtx}

/-- The writes of a row land in order (R251; log 64). -/
def storedRow (s : State) (u : SuiteId) (l : List (Nat × List Byte)) : State := l.foldl (fun t p => unitWrite t u p.1 p.2) s

theorem sameAccs_storedRow (u : SuiteId) : ∀ (l : List (Nat × List Byte)) {s : State}, s.pkg.flips = [] → SameAccs s (storedRow s u l)
  | [], _, _ => ⟨rfl, fun _ => rfl⟩
  | p :: l, s, sound => by
    have one := sameAccs_unitWrite sound u p.1 p.2
    exact one.trans (sameAccs_storedRow u l (by rw [one.1]; exact sound))

theorem exec_drainDend {s : State} {x : DrainCtx} (row : (s.room s.cur.suite).drain = some x) (nomain : BitVec 1) :
    exec (.drainDend nomain) s = .next ((if nomain == 0 then writeMain (storedRow s s.cur.suite x.writes) s.cur.suite x
      else storedRow s s.cur.suite x.writes).modRoom s.cur.suite fun r => { r with drain := none }) := by
  show execDrainDend nomain s = _
  simp only [execDrainDend, row]
  rfl

theorem exec_drainDend_main {s : State} {x : DrainCtx} (row : (s.room s.cur.suite).drain = some x) : exec (.drainDend 0) s =
    .next ((writeMain (storedRow s s.cur.suite x.writes) s.cur.suite x).modRoom s.cur.suite fun r => { r with drain := none }) :=
  (exec_drainDend row 0).trans (congrArg _ (congrArg (State.modRoom · _ _) (if_pos rfl)))

theorem drain_accSetRow {s : State} (sound : s.pkg.flips = []) (u : SuiteId) (k : Fin 32) (row : Fin 128) (v : Vector W32 128) (p : SuiteId) :
    ((accSetRow (takePort s u k) u k row v).room p).drain = (s.room p).drain := by
  have port : (takePort s u k).pkg.flips = [] := sound
  have same := congrArg (fun l => (Vector.get l p).drain) (onlyFlights_accSetRow port u k row v).rooms
  have placed := drain_modRoom (takePort s u k) u (f := fun x => x.withRow k row v) (fun _ => rfl) p
  exact same.trans (placed.trans (drain_modRoom s u (fun _ => by rfl) p))

/-- DOVW writes the row's words over its row of a tile, and leaves the row in its room (R252). -/
theorem dovw_row {s : State} {r : BankRef} {x : DrainCtx} (cur : s.cur = ⟨r, .drain⟩) (row : (s.room s.cur.suite).drain = some x) (short : x.row < 128)
    (sound : s.pkg.flips = []) (k : BitVec 5) : answers (.dovw k) s fun t => (t.room s.cur.suite).drain = some x ∧ t.turns = .issue s.cur :: s.turns ∧
      (∀ v, (t.suite v).ls = (s.suite v).ls) ∧
      ∀ v q i j, accGet t v q i j = if v = s.cur.suite ∧ q = x.accTile k.toNat ∧ i.val = x.row then x.lanes.get j else accGet s v q i j := by
  have run := drainOp_row row fun u x s => if h : x.row < 128
    then accSetRow (takePort s u (x.accTile k.toNat)) u (x.accTile k.toNat) ⟨x.row, h⟩ x.lanes else s
  simp only [short, dif_pos] at run
  obtain ⟨drain, sound', turns', ls', words'⟩ := advance_drain_keeps cur
  rw [← sound'] at sound
  generalize advance s s.cur 1 = m at *
  have port : (takePort m s.cur.suite (x.accTile k.toNat)).pkg.flips = [] := sound
  obtain ⟨-, -, turns, ls⟩ := onlyFlights_accSetRow port s.cur.suite (x.accTile k.toNat) ⟨x.row, short⟩ x.lanes
  refine ⟨_, run, (drain_accSetRow sound ..).trans (drain.trans row), congrArg _ (turns.trans turns'), fun v => (ls v).trans (ls' v), fun v q i j => ?_⟩
  have words := accGet_accSetRow port s.cur.suite v (x.accTile k.toNat) q ⟨x.row, short⟩ i j x.lanes
  simp only [(takePort_keeps ..).1, words', Fin.ext_iff (a := i)] at words
  exact words

/-- A row whose main destination is an accumulator tile ends there, after the writes of its DSTLs (R251, R252). -/
theorem drainDend_main {s : State} {x : DrainCtx} (row : (s.room s.cur.suite).drain = some x) (sound : s.pkg.flips = []) (short : x.row < 128)
    (acc : x.mode ≠ 2) : answers (.drainDend 0) s fun t => (t.room s.cur.suite).drain = none ∧
      (∀ v, (t.suite v).ls = ((storedRow s s.cur.suite x.writes).suite v).ls) ∧
      ∀ v q i j, accGet t v q i j = if v = s.cur.suite ∧ q = x.accTile x.c ∧ i.val = x.row then mainWord x (accGet s v q i j) (x.lanes.get j)
        else accGet s v q i j := by
  have stored := sameAccs_storedRow s.cur.suite x.writes sound
  have written := (writeMain_written (u := s.cur.suite) (by rw [stored.1]; exact sound) short acc).modRoom (f := fun r => { r with drain := none })
    (fun _ => rfl) fun _ => rfl
  refine ⟨_, exec_drainDend_main row, ?_, written.ls, fun v q i j => ?_⟩
  · rw [State.room_modRoom, if_pos rfl]
  · rw [written.words, stored.accGet]

end Writes

/-- Settles O35: a micro-op replaces its row in the room, word by word, or writes it; the bytes that the later rows of the unit read are kept aside. -/
theorem drainOperations : Obligations.DrainOperations := by
  unfold Obligations.DrainOperations
  refine ⟨?_, ?_, ?_⟩
  · intro n ov rm pitch ty s r x u moved cur row byte word goesOn lanes outside arith times plus acts
    refine ⟨⟨rowLanes_arith_int cur row (mul := true) (perRow := false) rfl rfl, rowLanes_arith_float cur row (mul := true) (perRow := false) rfl rfl⟩,
      ⟨rowLanes_arith_int cur row (mul := false) (perRow := false) rfl rfl, rowLanes_arith_float cur row (mul := false) (perRow := false) rfl rfl⟩,
      ⟨rowLanes_arith_int cur row (mul := true) (perRow := true) rfl rfl, rowLanes_arith_float cur row (mul := true) (perRow := true) rfl rfl⟩,
      ⟨rowLanes_arith_int cur row (mul := false) (perRow := true) rfl rfl, rowLanes_arith_float cur row (mul := false) (perRow := true) rfl rfl⟩,
      fun int => ⟨?_, ?_⟩, fun float => ⟨?_, ?_⟩, fun float => ?_, fun float => ?_, fun float => ?_, fun float => ?_, fun int => ?_, fun float => ?_, ?_, ?_⟩
    · exact rowLanes_dact row fun j => by rw [int]; exact (laneAct_int _).1
    · exact rowLanes_dact row fun j => by rw [int]; exact (laneAct_int _).2
    · exact rowLanes_dact row fun j => laneAct_float float 0 _
    · exact rowLanes_dact row fun j => laneAct_float float 1 _
    · exact rowLanes_dact row fun j => laneAct_float float 2 _
    · exact rowLanes_dact row fun j => laneAct_float float 3 _
    · exact rowLanes_dact row fun j => laneAct_float float 4 _
    · exact rowLanes_dact row fun j => laneAct_float float 5 _
    · exact rowLanes_dclp cur row fun j => by rw [int]; exact laneClamp_int ..
    · exact rowLanes_dclp cur row fun j => laneClamp_float float ..
    · exact rowLanes_dcvt row ov rm ty
    · exact rowGoesOn_dstl row pitch n
  · intro k s r x u tile bytes stored here cur row short sound
    have place : ∀ (n : Nat) (v : SuiteId) (q : Fin 32) (i : Fin 128), v = u ∧ q = x.accTile n ∧ i.val = x.row ↔ here n v q i := fun n v q i => by
      rw [Fin.ext_iff (a := q), accTile_val]
    refine ⟨?_, exec_drainDend row 1, fun ls => ?_, fun plain => ?_, fun add => ?_⟩
    · obtain ⟨t, run, drain, turns, ls, words⟩ := dovw_row cur row short sound k
      exact ⟨t, run, drain, turns, ls, fun v q i j => (words v q i j).trans (if_congr (place ..) rfl rfl)⟩
    · rw [exec_drainDend_main row, writeMain, if_pos ls]
      rfl
    · obtain ⟨t, run, drain, ls, words⟩ := drainDend_main row sound short (by rw [plain]; decide)
      exact ⟨t, run, drain, ls, fun v q i j => (words v q i j).trans (if_congr (place ..) (if_neg (by rw [plain]; decide)) rfl)⟩
    · obtain ⟨t, run, drain, ls, words⟩ := drainDend_main row sound short (by rw [add]; decide)
      exact ⟨t, run, drain, ls, fun v q i j => (words v q i j).trans (if_congr (place ..) (if_pos add) rfl)⟩
  · intro s u a bs wf t
    refine ⟨fun v => ?_, ?_, fun b => ?_⟩
    · rw [suite_unitWrite]
    · rw [show t = unitWrite s u a bs from rfl, unitWrite_eq]
      exact mem_cleared ..
    · rw [unitRead_eq, unitRead_eq]
      simp only [List.range_one, List.map_cons, List.map_nil, Nat.add_zero]
      rw [unitByte_unitWrite wf]

end Sys2Proof.Machine
end

section
/-! PROOFS. Acceptance of the commands of the M and C engines: a full queue holds the stream, the first check that fails traps, and what passes joins the
tail of its queue (R213, R236, R370). -/

namespace Sys2Proof.Machine

/-! ### Checks in their order -/

/-- The trap of the first check that fails, with trap value 0. -/
def firstTrap (l : List (Bool × BitVec 8)) : Option (BitVec 8 × Word) := (l.find? (·.1)).map fun k => (k.2, 0)

theorem firstTrap_of_find {l : List (Bool × BitVec 8)} {c : BitVec 8} (h : (l.find? (·.1)).map (·.2) = some c) : firstTrap l = some (c, 0) := by
  obtain ⟨k, found, rfl⟩ := Option.map_eq_some_iff.mp h
  rw [firstTrap, found]
  rfl

theorem firstTrap_of_all {l : List (Bool × BitVec 8)} (h : l.all (fun k => !k.1) = true) : firstTrap l = none := by
  have none : l.find? (·.1) = none := List.find?_eq_none.mpr fun k hk => by simpa using List.all_eq_true.mp h k hk
  rw [firstTrap, none]
  rfl

theorem firstTrap_cons (b : Bool) (c : BitVec 8) (l : List (Bool × BitVec 8)) : firstTrap ((b, c) :: l) = if b then some (c, 0) else firstTrap l := by
  cases b <;> rfl

/-- A check before those of a list. -/
theorem ite_eq_firstTrap {p : Prop} [Decidable p] {b : Bool} {c : BitVec 8} {t : Option (BitVec 8 × Word)} {l : List (Bool × BitVec 8)} (check : p ↔ b = true)
    (rest : t = firstTrap l) : (if p then some (c, 0) else t) = firstTrap ((b, c) :: l) := by
  rw [firstTrap_cons, rest]
  exact if_congr check rfl rfl

theorem div_ne_zero_eq_decide (a : Nat) {b : Nat} (h : 0 < b) : (a / b != 0) = decide (b ≤ a) := by
  rw [Bool.eq_iff_iff, bne_iff_ne, decide_eq_true_iff, Nat.div_ne_zero_iff]
  exact and_iff_right h.ne'

theorem div_check (a : Nat) {b : Nat} (h : 0 < b) : a / b ≠ 0 ↔ decide (b ≤ a) = true := by
  rw [← div_ne_zero_eq_decide a h, bne_iff_ne]

theorem or_check {p q : Prop} {a b : Bool} (left : p ↔ a = true) (right : q ↔ b = true) : p ∨ q ↔ (a || b) = true := by
  rw [Bool.or_eq_true_iff, left, right]

theorem and_check {p q : Prop} {a b : Bool} (left : p ↔ a = true) (right : q ↔ b = true) : p ∧ q ↔ (a && b) = true := by
  rw [Bool.and_eq_true_iff, left, right]

/-! ### The plan of an acceptance -/

/-- A command of a queue: the stream waits while the queue is full or while its own read of a record waits, and then the first failed check traps. -/
def acceptPlan (s : State) (e : Engine) (hold : Option Hold) (trap : Option (BitVec 8 × Word)) (words : Nat) (act : State → State) : Plan :=
  { words := words, trap := trap, act := act
    hold := if queueDepth ≤ (queueOf (s.suite s.cur.suite) e).length then some holdPlain else hold }

/-- What acceptance does: the command joins the tail of its queue. -/
def joinQueue (s : State) (e : Engine) (op : CmdOp) (tok : Tok) (dn : BitVec 4) (words : Nat) (t : State) : State :=
  modQueue t s.cur.suite e fun q => q ++ [newCmd s s.cur op tok dn words]

theorem planAccept_m {s : State} {op : CmdOp} {tok : Tok} {dn : BitVec 4} {hold : Option Hold} {trap : Option (BitVec 8 × Word)}
    {l : List (Bool × BitVec 8)} (checks : trap = firstTrap l) : planAccept .m op tok dn hold trap 1 s s.cur =
      acceptPlan s .m hold (firstTrap ((decide ((s.room s.cur.suite).wingLead ≠ s.cur.suite), 0x42) :: l)) 1 (joinQueue s .m op tok dn 1) := by
  have first := ite_eq_firstTrap (p := Engine.m = .m ∧ leadOf s s.cur.suite ≠ s.cur.suite) (c := cWINGV) (t := trap) (l := l)
    (b := decide ((s.room s.cur.suite).wingLead ≠ s.cur.suite)) (by rw [decide_eq_true_iff]; exact ⟨fun h => h.2, fun h => ⟨rfl, h⟩⟩) checks
  exact congrArg (acceptPlan s .m hold · 1 (joinQueue s .m op tok dn 1)) first

theorem planAccept_c (s : State) (op : CmdOp) (tok : Tok) (dn : BitVec 4) (hold : Option Hold) (trap : Option (BitVec 8 × Word)) (words : Nat) :
    planAccept .c op tok dn hold trap words s s.cur = acceptPlan s .c hold trap words (joinQueue s .c op tok dn words) := rfl

section Plan
variable {i : Instr} {w : BitVec 4} {p : State → Agent → Plan} {s : State} {e : Engine} {hold : Option Hold} {trap : Option (BitVec 8 × Word)}
  {words : Nat} {act : State → State} (run : exec i s = issue i w p s) (plan : p s s.cur = acceptPlan s e hold trap words act)
  (space : ¬ 16 ≤ (queueOf (s.suite s.cur.suite) e).length)

include plan space in
theorem accept_hold : (p s s.cur).hold = hold := by
  rw [plan]
  exact if_neg space

include run plan

theorem accept_full (h : free s i w = true) (full : 16 ≤ (queueOf (s.suite s.cur.suite) e).length) :
    exec i s = .next (markHeld s s.cur ⟨false, false⟩) :=
  exec_waits run h (by rw [plan]; exact if_pos full) (by rw [plan]; rfl)

include space

theorem accept_waits (h : free s i w = true) (waits : hold = some holdPlain) : exec i s = .next (markHeld s s.cur ⟨false, false⟩) :=
  exec_waits run h ((accept_hold plan space).trans waits) (by rw [plan]; rfl)

theorem accept_traps (h : free s i w = true) (goes : hold = none) {c : BitVec 8} {v : Word} (fails : trap = some (c, v)) :
    trapsAs s i c v (posOf s s.cur) :=
  trapsAs_plan run h ((accept_hold plan space).trans goes) (by rw [plan]; exact fails) (by rw [plan]; rfl)

theorem accept_next (h : ready s i w = true) (goes : hold = none) (passes : trap = none) :
    exec i s = .next (act (issued s w { words := words })) := by
  rw [run, issue_next h ((accept_hold plan space).trans goes) (by rw [plan]; exact passes), plan]
  rfl

end Plan

/-! ### M commands -/

/-- How an M command is accepted: what its own read waits for, and its checks. -/
theorem accepts_m {i : Instr} {w : BitVec 4} {p : State → Agent → Plan} {s : State} {op : CmdOp} {tok : Tok} {dn : BitVec 4} {hold : Option Hold}
    {checks : List (Bool × BitVec 8)} {readFree : Bool} (run : exec i s = issue i w p s)
    (plan : p s s.cur = acceptPlan s .m hold (firstTrap checks) 1 (joinQueue s .m op tok dn 1)) (goes : readFree = true → hold = none) :
    free s i w → (16 ≤ (s.suite s.cur.suite).mq.length → exec i s = .next (markHeld s s.cur ⟨false, false⟩)) ∧
      ((s.suite s.cur.suite).mq.length < 16 → readFree = true →
        (∀ c, (checks.find? (·.1)).map (·.2) = some c → trapsAs s i c 0 (posOf s s.cur)) ∧
        (checks.all (fun k => !k.1) = true → ready s i w →
          exec i s = .next ((issued s w).modSuite s.cur.suite fun z => { z with mq := z.mq ++ [newCmd s s.cur op tok dn 1] }))) := by
  intro h
  refine ⟨accept_full run plan h, fun space read => ⟨fun c first => ?_, fun pass go => ?_⟩⟩
  · exact accept_traps run plan (not_le.mpr space) h (goes read) (firstTrap_of_find first)
  · exact accept_next run plan (not_le.mpr space) go (goes read) (firstTrap_of_all pass)

/-- A record read that no acquire and no fed bank can hold. -/
theorem recordHold_eq_none {s : State} {ag : Agent} {a n : Nat} (acquires : ag.kind = .a → acquirePending (s.bank ag.bank) = false)
    (unfed : touchesFed s ag.suite a n = false) : recordHold s ag a n = none := by
  rw [recordHold, lsHold_eq_none (by simpa using acquires), fedReadHold_eq_none unfed]
  rfl

theorem recordHold_of_quiet {s : State} {ag : Agent} {a n : Nat}
    (h : (!(ag.kind == .a && acquirePending (s.bank ag.bank)) && !touchesFed s ag.suite a n) = true) : recordHold s ag a n = none := by
  obtain ⟨quiet, apart⟩ := Bool.and_eq_true_iff.mp h
  exact recordHold_eq_none (by simpa [imp_iff_not_or] using quiet) (by simpa using apart)

/-- The checks of a record (R214, R215). -/
theorem recordTrap_eq (s : State) (u : SuiteId) (a : Word) (align n : Nat) : recordTrap s u a align n = firstTrap
    [(a.toNat % align != 0, 0x23), (decide (2 ^ 23 ≤ a.toNat) || decide (0x800000 - (s.suite u).l1mib.toNat * 0x100000 < a.toNat + n), 0x22)] := by
  refine ite_eq_firstTrap (by rw [bne_iff_ne]) (ite_eq_firstTrap ?_ rfl)
  rw [Bool.or_eq_true_iff, decide_eq_true_iff, decide_eq_true_iff, inScratch, scratchLimit, Bool.not_eq_true', decide_eq_false_iff_not, not_le]
  omega

/-! ### C commands -/

/-- How a C command with no read of its own is accepted. -/
theorem accepts_c {i : Instr} {w : BitVec 4} {p : State → Agent → Plan} {s : State} {op : CmdOp} {tok : Tok} {dn : BitVec 4}
    {checks : List (Bool × BitVec 8)} (run : exec i s = issue i w p s)
    (plan : p s s.cur = acceptPlan s .c none (firstTrap checks) 1 (joinQueue s .c op tok dn 1)) :
    free s i w → (16 ≤ (s.suite s.cur.suite).cqueue.length → exec i s = .next (markHeld s s.cur ⟨false, false⟩)) ∧
      (¬ 16 ≤ (s.suite s.cur.suite).cqueue.length →
        (∀ c, (checks.find? (·.1)).map (·.2) = some c → trapsAs s i c 0 (posOf s s.cur)) ∧
        (checks.all (fun k => !k.1) = true → ready s i w →
          exec i s = .next ((issued s w { words := 1 }).modSuite s.cur.suite fun z => { z with cqueue := z.cqueue ++ [newCmd s s.cur op tok dn 1] }))) := by
  intro h
  refine ⟨accept_full run plan h, fun space => ⟨fun c first => ?_, fun pass go => ?_⟩⟩
  · exact accept_traps run plan space h rfl (firstTrap_of_find first)
  · exact accept_next run plan space go rfl (firstTrap_of_all pass)

/-- The checks of a passage: of a tile, or of a place in the Local Store (R269). -/
theorem passageTrap_eq (s : State) (ag : Agent) (x y : Word) : passageTrap s ag x y = firstTrap
    [(y &&& ~~~0x107 != 0, 0x02), (y.getLsbD 8 && decide ((if dualOf s ag.bank then 24 else 48) ≤ x.toNat % 64), 0x03),
      (!y.getLsbD 8 && x.toNat % 256 != 0, 0x23),
      (!y.getLsbD 8 && decide (0x800000 - (s.suite ag.suite).l1mib.toNat * 0x100000 < x.toNat + 32768), 0x22)] := by
  refine ite_eq_firstTrap (by rw [bne_iff_ne]) ?_
  cases y.getLsbD 8
  · rw [if_neg Bool.false_ne_true, firstTrap_cons, Bool.false_and, if_neg Bool.false_ne_true]
    refine ite_eq_firstTrap (by simp) (ite_eq_firstTrap ?_ rfl)
    rw [inScratch, scratchLimit, Bool.not_false, Bool.true_and, decide_eq_true_iff, Bool.not_eq_true', decide_eq_false_iff_not, not_le]
  · rw [if_pos rfl]
    refine ite_eq_firstTrap ?_ rfl
    cases dualOf s ag.bank
    · simp
    · simp only [true_and, Bool.true_and, if_true, decide_eq_true_iff]
      omega

section Copy
variable (s1 s2 : BitVec 5) (tok : Tok) (dn w : BitVec 4) (desc : BitVec 17) (s : State)

/-- The copy that a CPY asks for, from the descriptor as the issuing stream reads it (R241). -/
def cpyJob : CopyJob :=
  parseCopy (lsRead s s.cur.suite (64 * desc.toNat) 64) (readA s s.cur s1) (readA s s.cur s2) (physAcc s s.cur.bank)

/-- What the first of R242's steps says of it. -/
def cpyTrap : Option (BitVec 8 × Word) := copyTrap s s.cur (64 * desc.toNat) (lsRead s s.cur.suite (64 * desc.toNat) 64) (cpyJob s1 s2 desc s)

/-- A segment that a migration holds lets no new copy start. -/
def cpyHold : Option Hold :=
  if (cpyTrap s1 s2 desc s).isNone && (s.tenant (tenantOf s s.cur.bank)).held.contains (cpyJob s1 s2 desc s).seg then some holdPlain else none

/-- The trap of a CPY: that of its copy, or the overflow of the segment's busy count (R246). -/
def cpyFails : Option (BitVec 8 × Word) :=
  if (cpyTrap s1 s2 desc s).isNone && busyCount s (tenantOf s s.cur.bank) (cpyJob s1 s2 desc s).seg == 0xffffffff then some (cBUSYOVF, 0)
  else cpyTrap s1 s2 desc s

/-- A CPY joins its queue, and its segment's busy count rises by one. -/
def cpyJoins (t : State) : State :=
  setBusy (joinQueue s .c (.cpy (cpyJob s1 s2 desc s)) tok dn 2 t) (tenantOf s s.cur.bank) (cpyJob s1 s2 desc s).seg
    (busyCount t (tenantOf s s.cur.bank) (cpyJob s1 s2 desc s).seg + 1)

theorem exec_cpy : ∃ p, exec (.cpy s1 s2 tok dn desc w) s = issue (.cpy s1 s2 tok dn desc w) w p s ∧
    p s s.cur = acceptPlan s .c ((recordHold s s.cur (64 * desc.toNat) 64).or (cpyHold s1 s2 desc s)) (cpyFails s1 s2 desc s) 2
      (cpyJoins s1 s2 tok dn desc s) := by
  refine ⟨_, rfl, ?_⟩
  exact congrArg (fun p : Plan => { p with act := cpyJoins s1 s2 tok dn desc s })
    (planAccept_c s (.cpy (cpyJob s1 s2 desc s)) tok dn ((recordHold s s.cur (64 * desc.toNat) 64).or (cpyHold s1 s2 desc s)) (cpyFails s1 s2 desc s) 2)

variable {s1 s2 tok dn w desc s}

section Fails
variable {c : BitVec 8} {v : Word} (fails : cpyTrap s1 s2 desc s = some (c, v))
include fails

theorem cpyHold_of_trap : cpyHold s1 s2 desc s = none := by
  rw [cpyHold, fails]
  rfl

theorem cpyFails_of_trap : cpyFails s1 s2 desc s = some (c, v) := by
  rw [cpyFails, fails]
  rfl

end Fails

section Passes
variable (passes : cpyTrap s1 s2 desc s = none)
include passes

theorem cpyHold_of_passes : cpyHold s1 s2 desc s =
    if (s.tenant (tenantOf s s.cur.bank)).held.contains (cpyJob s1 s2 desc s).seg then some holdPlain else none := by
  rw [cpyHold, passes]
  rfl

theorem cpyFails_of_passes : cpyFails s1 s2 desc s =
    if busyCount s (tenantOf s s.cur.bank) (cpyJob s1 s2 desc s).seg = 0xffffffff then some (cBUSYOVF, 0) else none := by
  rw [cpyFails, passes]
  exact if_congr (by rw [Option.isNone_none, Bool.true_and, beq_iff_eq]) rfl rfl

end Passes

/-- How a CPY whose own read does not wait is accepted (R241, R242, R246). -/
theorem accepts_cpy (h : free s (.cpy s1 s2 tok dn desc w) w = true) (read : recordHold s s.cur (64 * desc.toNat) 64 = none) :
    (16 ≤ (s.suite s.cur.suite).cqueue.length → exec (.cpy s1 s2 tok dn desc w) s = .next (markHeld s s.cur ⟨false, false⟩)) ∧
    (¬ 16 ≤ (s.suite s.cur.suite).cqueue.length →
      (∀ c v, cpyTrap s1 s2 desc s = some (c, v) → trapsAs s (.cpy s1 s2 tok dn desc w) c v (posOf s s.cur)) ∧
      (cpyTrap s1 s2 desc s = none →
        ((s.tenant (tenantOf s s.cur.bank)).held.contains (cpyJob s1 s2 desc s).seg = true →
          exec (.cpy s1 s2 tok dn desc w) s = .next (markHeld s s.cur ⟨false, false⟩)) ∧
        ((s.tenant (tenantOf s s.cur.bank)).held.contains (cpyJob s1 s2 desc s).seg = false →
          (busyCount s (tenantOf s s.cur.bank) (cpyJob s1 s2 desc s).seg = 0xffffffff →
            trapsAs s (.cpy s1 s2 tok dn desc w) 0x49 0 (posOf s s.cur)) ∧
          (busyCount s (tenantOf s s.cur.bank) (cpyJob s1 s2 desc s).seg ≠ 0xffffffff → ready s (.cpy s1 s2 tok dn desc w) w = true →
            exec (.cpy s1 s2 tok dn desc w) s = .next (cpyJoins s1 s2 tok dn desc s (issued s w { words := 2 })))))) := by
  obtain ⟨p, run, plan⟩ := exec_cpy s1 s2 tok dn w desc s
  rw [read, Option.none_or] at plan
  refine ⟨accept_full run plan h, fun space => ⟨fun c v fails => ?_, fun passes => ?_⟩⟩
  · exact accept_traps run plan space h (cpyHold_of_trap fails) (cpyFails_of_trap fails)
  · rw [cpyHold_of_passes passes, cpyFails_of_passes passes] at plan
    refine ⟨fun held => ?_, fun free => ⟨fun full => ?_, fun counts go => ?_⟩⟩
    · exact accept_waits run plan space h (if_pos held)
    · exact accept_traps run plan space h (if_neg (by rw [free]; decide)) (if_pos full)
    · exact accept_next run plan space go (if_neg (by rw [free]; decide)) (if_neg counts)

end Copy

/-! ### COLLW -/

/-- The collective semaphore that a COLLW names (R278). -/
def semOf (x : Word) : Fin 16 := ⟨x.toNat % 16, Nat.mod_lt _ (by decide)⟩

/-- The plan of a COLLW on a word and its tenant's semaphores, up to what its wait record names. -/
def planCollw (s : State) (x : Word) (dn : BitVec 4) (wait : Nat × Nat × Nat) : Plan :=
  { hold := if x.toNat < 16 ∧ (s.tenant (tenantOf s s.cur.bank)).cs.get (semOf x) = 0 then some holdFlagOnly else none
    trap := if 16 ≤ x.toNat then some (0x02, 0) else none
    wait := wait
    act := fun t => doneFor (takeCs t (tenantOf s s.cur.bank) (semOf x)) s.cur.bank s.cur.kind dn }

/-- The bits of the wait condition: the semaphore exists, and it is zero. -/
theorem collw_hold (x : Nat) (n : BitVec 6) : ((if x / 16 ≠ 0 then some ((0x02 : BitVec 8), (0 : Word)) else none).isNone && n == 0) = true ↔
    x < 16 ∧ n = 0 := by
  rw [Bool.and_eq_true_iff, beq_iff_eq]
  refine and_congr_left fun _ => ?_
  by_cases small : x < 16
  · rw [if_neg (by omega)]
    exact iff_of_true rfl small
  · rw [if_pos (by omega)]
    exact iff_of_false Bool.false_ne_true small

theorem exec_collw (s1 : BitVec 5) (dn w : BitVec 4) (s : State) :
    ∃ p, exec (.collw s1 dn w) s = issue (.collw s1 dn w) w p s ∧ p s s.cur = planCollw s (readA s s.cur s1) dn (p s s.cur).wait := by
  refine ⟨_, rfl, ?_⟩
  rw [planCollw, ← if_congr (collw_hold ..) rfl rfl, if_congr (decide_eq_true_iff.symm.trans (div_check _ (by decide)).symm) rfl rfl]
  rfl

section Collw
variable {s1 : BitVec 5} {dn w : BitVec 4} {s : State}

theorem collw_traps (h : free s (.collw s1 dn w) w = true) (big : 16 ≤ (readA s s.cur s1).toNat) :
    trapsAs s (.collw s1 dn w) 0x02 0 (posOf s s.cur) := by
  obtain ⟨p, run, plan⟩ := exec_collw s1 dn w s
  exact trapsAs_plan run h (by rw [plan]; exact if_neg fun g => not_le.mpr g.1 big) (by rw [plan]; exact if_pos big) (by rw [plan]; rfl)

theorem collw_waits (h : free s (.collw s1 dn w) w = true) (small : (readA s s.cur s1).toNat < 16)
    (zero : (s.tenant (tenantOf s s.cur.bank)).cs.get (semOf (readA s s.cur s1)) = 0) :
    exec (.collw s1 dn w) s = .next (markHeld s s.cur ⟨false, true⟩) := by
  obtain ⟨p, run, plan⟩ := exec_collw s1 dn w s
  exact exec_waits run h (by rw [plan]; exact if_pos ⟨small, zero⟩) (by rw [plan]; rfl)

theorem collw_takes (h : ready s (.collw s1 dn w) w = true) (small : (readA s s.cur s1).toNat < 16)
    (some : (s.tenant (tenantOf s s.cur.bank)).cs.get (semOf (readA s s.cur s1)) ≠ 0) : ∃ wait, exec (.collw s1 dn w) s =
      .next (doneFor (takeCs (issued s w { wait := wait }) (tenantOf s s.cur.bank) (semOf (readA s s.cur s1))) s.cur.bank s.cur.kind dn) := by
  obtain ⟨p, run, plan⟩ := exec_collw s1 dn w s
  have hold : (p s s.cur).hold = none := by rw [plan]; exact if_neg fun g => some g.2
  have trap : (p s s.cur).trap = none := by rw [plan]; exact if_neg (not_le.mpr small)
  exact ⟨_, by rw [run, issue_next h hold trap, plan]; rfl⟩

end Collw

/-- Settles O34: every acceptance is one plan, a queue's room, a read's waits and a list of checks, which differ from command to command. -/
theorem commandsAccepted : Obligations.CommandsAccepted := by
  unfold Obligations.CommandsAccepted
  refine ⟨?_, ?_⟩
  · intro s1 s2 tok dn w s ag u x y n env notLead dual noChanter top cmd quietLs record sel len
    refine ⟨?mnest, ?mfmt, ?mgo, ?mdrn, ?mwing, ?dstart, ?dlook, ?dfeed, ?ddrn, ?dend, fun h => issue_next h rfl rfl⟩
    case mnest =>
      exact accepts_m rfl (planAccept_m (ite_eq_firstTrap (div_check _ (by decide)) (recordTrap_eq ..))) recordHold_of_quiet
    case mfmt =>
      exact accepts_m rfl (planAccept_m (ite_eq_firstTrap (div_check _ (by decide)) (recordTrap_eq ..))) recordHold_of_quiet
    case mgo => exact accepts_m rfl (planAccept_m rfl) fun _ => rfl
    case mdrn =>
      refine accepts_m rfl (planAccept_m (ite_eq_firstTrap ?_ (ite_eq_firstTrap (and_check bne_iff_ne.symm bne_iff_ne.symm) rfl))) fun _ => rfl
      exact Bool.or_eq_true_iff.trans (or_check Iff.rfl (bne_iff_ne.trans (div_check n (by decide))))
    case mwing =>
      refine accepts_m rfl (congrArg (acceptPlan s .m none · 1 _) (ite_eq_firstTrap decide_eq_true_iff.symm
        (ite_eq_firstTrap (or_check decide_eq_true_iff.symm decide_eq_true_iff.symm) (ite_eq_firstTrap bne_iff_ne.symm rfl)))) fun _ => rfl
    case dstart =>
      refine accepts_m rfl (planAccept_m (ite_eq_firstTrap ?_ (ite_eq_firstTrap (and_check bne_iff_ne.symm bne_iff_ne.symm) rfl))) fun _ => rfl
      simp only [Bool.or_eq_true_iff, beq_iff_eq, bne_iff_ne, decide_eq_true_iff, or_assoc]
      rfl
    case dlook =>
      exact accepts_m rfl (planAccept_m (ite_eq_firstTrap (or_check beq_iff_eq.symm decide_eq_true_iff.symm) rfl)) fun _ => rfl
    case dfeed =>
      refine accepts_m rfl (planAccept_m (ite_eq_firstTrap (or_check (div_check _ (by decide)) ?_) (ite_eq_firstTrap Iff.rfl rfl))) fun _ => rfl
      rw [div_ne_zero_eq_decide _ (by decide), div_ne_zero_eq_decide _ (by decide)]
    case ddrn =>
      exact accepts_m rfl (planAccept_m (ite_eq_firstTrap decide_eq_true_iff.symm (ite_eq_firstTrap Iff.rfl rfl))) fun _ => rfl
    case dend => exact accepts_m rfl (planAccept_m rfl) fun _ => rfl
  · intro s1 s2 tok dn w desc s ag u t x y addr bytes job cpy full top joins held cmd passage size sem collw
    refine ⟨fun h acquires unfed => ?_, ?cpyq, ?psend, ?precv, ?coll, fun h => ?_⟩
    case cpyq => exact accepts_c (checks := []) rfl rfl
    case psend => exact accepts_c rfl ((planAccept_c ..).trans (congrArg (acceptPlan s .c none · 1 _) (passageTrap_eq ..)))
    case precv => exact accepts_c rfl ((planAccept_c ..).trans (congrArg (acceptPlan s .c none · 1 _) (passageTrap_eq ..)))
    case coll =>
      exact accepts_c rfl ((planAccept_c ..).trans (congrArg (acceptPlan s .c none · 1 _) (ite_eq_firstTrap bne_iff_ne.symm
        (ite_eq_firstTrap decide_eq_true_iff.symm (ite_eq_firstTrap (div_check _ (by decide)) rfl)))))
    · have read : recordHold s ag addr 64 = none := recordHold_eq_none acquires unfed
      obtain ⟨holds, goes⟩ := accepts_cpy (s1 := s1) (s2 := s2) (tok := tok) (dn := dn) h read
      exact ⟨holds, fun space c v fails => (goes space).1 c v fails, fun space passes => ((goes space).2 passes).1,
        fun space passes => ((goes space).2 passes).2⟩
    · exact ⟨collw_traps h, collw_waits h, collw_takes⟩

end Sys2Proof.Machine
end

section
/-! PROOFS. The drone registers of a wing's lead through a beat: what drains, combines and completes leaves them alone, and the beat itself counts
(R219-R222, R228). -/

namespace Sys2Proof.Machine

/-! ### Changes that leave every room's drone registers -/

/-- The drone registers of every room. -/
def drones (s : State) (v : SuiteId) : Drone := (s.room v).drone

theorem drones_of_rooms {s t : State} (h : t.rooms = s.rooms) : drones t = drones s := funext fun v => congrArg (fun l => (Vector.get l v).drone) h

theorem drones_modRoom (s : State) (u : SuiteId) {f : Room → Room} (keeps : ∀ x, (f x).drone = x.drone) : drones (s.modRoom u f) = drones s :=
  funext fun v => foldl_modRoom_keeps Room.drone (f := fun _ => f) (fun _ => keeps) [u] s v

theorem drones_foldl_modRoom {f : SuiteId → Room → Room} (keeps : ∀ u x, (f u x).drone = x.drone) (l : List SuiteId) (s : State) :
    drones (l.foldl (fun t u => t.modRoom u (f u)) s) = drones s := funext (foldl_modRoom_keeps Room.drone keeps l s)

/-! ### Drained rows -/

theorem drones_dropAccErrors (s : State) (u : SuiteId) (k : Fin 32) (row : Fin 128) (p : Fin 128 → Bool) :
    drones (dropAccErrors s u k row p) = drones s := by
  unfold dropAccErrors
  split <;> rfl

theorem drones_accSetRow (s : State) (u : SuiteId) (k : Fin 32) (row : Fin 128) (v : Vector W32 128) :
    drones (accSetRow s u k row v) = drones s := by
  have written := (drones_modRoom (dropAccErrors s u k row fun _ => true) u (f := fun x => x.withRow k row v) fun _ => rfl).trans
    (drones_dropAccErrors ..)
  unfold accSetRow
  dsimp only
  split
  · exact (foldl_keeps drones (fun t c => drones_of_rooms (onlyFlights_vaccSees t u k row c (v.get c)).rooms) _ _).trans written
  · exact written

/-- A read of a word counts the errors that it meets (R393). -/
theorem drones_accRead (s : State) (u : SuiteId) (k : Fin 32) (row col : Fin 128) : drones (accRead s u k row col).2 = drones s := by
  unfold accRead
  split
  · rfl
  · exact (drones_modRoom _ u fun _ => by rfl).trans (drones_dropAccErrors s u k row fun c => c == col)
  · exact drones_modRoom _ u fun _ => by rfl

theorem drones_accReadRow (s : State) (u : SuiteId) (k : Fin 32) (row : Fin 128) : drones (accReadRow s u k row).2 = drones s := by
  refine foldl_keeps (fun p : Vector W32 128 × State => drones p.2) (fun p c => ?_) _ _
  split
  · rfl
  · exact drones_accRead p.2 u k row c

theorem drones_unitWrite (s : State) (u : SuiteId) (a : Nat) (bs : List Byte) : drones (unitWrite s u a bs) = drones s := by
  rw [unitWrite_eq]
  exact (drones_modRoom _ u fun _ => by rfl).trans (drones_of_rooms (outside_lsWrite s u a bs).1)

theorem drones_writeMain (s : State) (u : SuiteId) (x : DrainCtx) : drones (writeMain s u x) = drones s := by
  have port : drones (takePort s u (x.accTile x.c)) = drones s := drones_modRoom s u fun _ => by rfl
  unfold writeMain
  split
  · exact drones_unitWrite ..
  · dsimp only
    split
    next short =>
      have read := (drones_accReadRow (takePort s u (x.accTile x.c)) u (x.accTile x.c) ⟨x.row, short⟩).trans port
      split
      · split
        · exact (drones_modRoom _ u fun _ => by rfl).trans ((drones_accSetRow ..).trans read)
        · exact (drones_accSetRow ..).trans read
      · exact (drones_accSetRow ..).trans port
    next => rfl

theorem drones_storedRow (u : SuiteId) : ∀ (l : List (Nat × List Byte)) (s : State), drones (storedRow s u l) = drones s
  | [], _ => rfl
  | p :: l, s => (drones_storedRow u l (unitWrite s u p.1 p.2)).trans (drones_unitWrite s u p.1 p.2)

theorem finishRow_eq (s : State) (u : SuiteId) (x : DrainCtx) (main : Bool) : finishRow s u x main =
    (if main then writeMain (storedRow s u x.writes) u x else storedRow s u x.writes).modRoom u fun r => { r with drain := none } := rfl

theorem drones_finishRow (s : State) (u : SuiteId) (x : DrainCtx) (main : Bool) : drones (finishRow s u x main) = drones s := by
  rw [finishRow_eq, drones_modRoom _ u fun _ => by rfl]
  split
  · exact (drones_writeMain ..).trans (drones_storedRow ..)
  · exact drones_storedRow ..

theorem drones_drainRoom (s : State) (v : SuiteId) : drones (drainRoom s v) = drones s := by
  have left : ∀ i, drones (s.modRoom v fun x => x.rowLeft i) = drones s := fun i => drones_modRoom s v fun _ => by rfl
  cases due : rowDue s v with
  | none => rw [drainRoom, due]
  | some p =>
    obtain ⟨r, q, k⟩ := p
    by_cases h : k < 128
    · cases image : cmdImage s r.cmd with
      | none =>
        have run : drainRoom s v = finishRow (s.modRoom v fun x => x.rowLeft ⟨k, h⟩) v (dueRow s v r q ⟨k, h⟩) true := by
          simp only [drainRoom, due, h, dif_pos, image]
          rfl
        rw [run]
        exact (drones_finishRow ..).trans (left _)
      | some im =>
        by_cases bound : 8 ≤ r.set.prog.toNat
        · rw [drainRoom_main due h image bound]
          exact (drones_finishRow ..).trans (left _)
        · rw [drainRoom_program due h image (not_le.mp bound)]
          exact (drones_modRoom _ v (f := fun x => x.rowBound _ _) fun _ => rfl).trans (left _)
    · simp only [drainRoom, due, h, dif_neg, not_false_eq_true]

/-! ### Combination and completions -/

theorem drones_wingBeat (s : State) (lead : SuiteId) : drones (wingBeat s lead) = drones s :=
  funext (wingBeat_keeps Room.drone (fun _ _ _ _ _ _ => rfl) s lead)

theorem rooms_completeCmd (s : State) (u : SuiteId) (e : Engine) (c : Cmd) : (completeCmd s u e c).rooms = s.rooms := by
  have pushed : ∀ (l : List SuiteId) (t : State),
      (l.foldl (fun t v => t.modBank (.bank v c.bank) fun b => tokPut b e (Engine.ofCode c.tok.pushDst)) t).rooms = t.rooms :=
    fun l t => foldl_keeps State.rooms (fun _ _ => by simp) l t
  have done : ∀ t, (doneFor t (.bank u c.bank) c.kind c.dn).rooms = t.rooms := fun t => (doneFor_keeps t (.bank u c.bank) c.kind c.dn).2.1
  have counted : ∀ t, (countEvents t (.bank u c.bank) 8 1).rooms = t.rooms := fun t => (counted_countEvents t (.bank u c.bank) 8 1).rooms
  unfold completeCmd
  split
  · rfl
  · refine (done _).trans ?_
    split
    · refine (counted _).trans ?_
      split
      · rfl
      · exact pushed _ s
    · split
      · rfl
      · exact pushed _ s

theorem rooms_finishRunning (s : State) (u : SuiteId) (e : Engine) (n : Nat) : (finishRunning s u e n).rooms = s.rooms := by
  unfold finishRunning
  split
  · rfl
  · split
    · exact rooms_completeCmd ..
    · rfl

/-- The running DDRNs whose units have drained complete. -/
theorem drones_finishAll (u : SuiteId) (p : Cmd → Bool) (l : List Nat) (s : State) :
    drones (l.foldl (fun t _ => match findRunning t u .m p with | some n => finishRunning t u .m n | none => t) s) = drones s := by
  refine foldl_keeps drones (fun t _ => ?_) l s
  split
  · exact drones_of_rooms (rooms_finishRunning ..)
  · rfl

/-! ### The counts of a beat -/

/-- The registers that a beat counts in, and those of a beat that is held (R222, R228). -/
def Drone.counts (d : Drone) : Word × Bool × Nat × Word × Word := (d.dbeat, d.held, d.sinceBeat, d.dmiss, d.dstep)

/-- A change of the registers of a wing's lead. -/
theorem drones_modDrone (s : State) (u : SuiteId) (f : Drone → Drone) : drones (modDrone s u f) u = f (drones s u) := by
  simp [drones, modDrone]

theorem counts_raiseFeeds (d : Drone) (below : Nat) : (raiseFeeds d below).counts = d.counts := by
  unfold raiseFeeds
  dsimp only
  split <;> rfl

theorem drones_emptyStep (s : State) (u : SuiteId) (k : Nat) : drones (emptyStep s u k) = drones s := by
  unfold emptyStep
  exact (drones_foldl_modRoom (fun _ _ => by rfl) _ _).trans (drones_foldl_modRoom (fun _ _ => by rfl) _ s)

/-- The step that a feed beat brings in is counted (R222). -/
theorem counts_enterDrone (s : State) (u : SuiteId) (r : WingRun) :
    (drones (enterDrone s u r) u).counts = { drones s u with dstep := (drones s u).dstep + 1 : Drone }.counts := by
  unfold enterDrone
  dsimp only
  rw [drones_modDrone, counts_raiseFeeds, drones_modRoom _ u (fun _ => by rfl), drones_emptyStep]
  split <;> rfl

/-- What a beat's end may still change is the mark that the computation ends. -/
theorem counts_droneAfter (s : State) (u : SuiteId) (n : Nat) : (drones (droneAfter s u n) u).counts = (drones s u).counts := by
  unfold droneAfter
  split
  · rfl
  · have finished := fun l p => drones_finishAll u p l s
    dsimp only
    split
    · split
      · rw [drones_modDrone]
        exact congrArg (fun d => (d u).counts) (finished _ _)
      · exact congrArg (fun d => (d u).counts) (finished _ _)
    · exact congrArg (fun d => (d u).counts) (finished _ _)

end Sys2Proof.Machine
end

section
/-! PROOFS. The beat clock of a drone computation: a beat that is due, held, fired or past its deadline (R220-R222, R228, R384). -/

namespace Sys2Proof.Machine

section Beat
variable {s : State} {u : SuiteId} {r : WingRun}

theorem exec_beatDue_none (h : droneRun s u = none) : exec (.beatDue u) s = .next s := by
  show execBeatDue u s = _
  simp only [execBeatDue, h]

theorem exec_beatDue_some (h : droneRun s u = some r) : exec (.beatDue u) s = .next
    (if r.beat ≠ 0 ∧ (s.room u).drone.sinceBeat = (s.room u).drone.period ∧ (s.room u).drone.held = false ∧ beatReady s u r = false
      then modDrone s u fun d => { d with missNow := true } else s) := by
  show execBeatDue u s = _
  simp only [execBeatDue, h]

theorem exec_missdl_none (h : droneRun s u = none) : exec (.missdl u) s = .next s := by
  show execMissdl u s = _
  simp only [execMissdl, h]

/-- A beat is held D x P cycles past its due cycle, and no trap says so yet (R221, R384). -/
def missed (d : Drone) : Prop := d.deadline ≠ 0 ∧ d.held = true ∧ d.missRaised = false ∧ d.sinceBeat = d.period + d.deadline * d.period

theorem exec_missdl_early (h : droneRun s u = some r) (early : ¬ missed (s.room u).drone) : exec (.missdl u) s = .next s := by
  show execMissdl u s = _
  simp only [execMissdl, h]
  exact congrArg _ (if_neg early)

/-- The DSTART of the computation that runs. -/
def Cmd.droneStart (c : Cmd) : Bool := c.status == .running && (match c.op with | .dstart .. => true | _ => false)

/-- The trap of a missed deadline, on the DSTART (R384). -/
def missTrap (s : State) (u : SuiteId) : State :=
  match findRunning s u .m Cmd.droneStart with
  | some n =>
    match (s.suite u).mrun[n]? with
    | some c => if c.trapLevel = 0 then runTrap s u .m n cMISSDL else s
    | none => s
  | none => s

theorem exec_missdl_late (h : droneRun s u = some r) (late : missed (s.room u).drone) :
    exec (.missdl u) s = .next (missTrap (modDrone s u fun d => { d with missRaised := true }) u) := by
  show execMissdl u s = _
  simp only [execMissdl, h]
  exact congrArg _ (if_pos late)

theorem missTrap_some {n : Nat} {x : Cmd} (start : findRunning s u .m Cmd.droneStart = some n) (cmd : (s.suite u).mrun[n]? = some x)
    (sound : x.trapLevel = 0) : missTrap s u = runTrap s u .m n cMISSDL := by
  simp only [missTrap, start, cmd, sound, if_true]

/-! ### A beat fires -/

theorem beatFires_none (h : droneRun s u = none) : beatFires s u = false := by rw [beatFires, h]

theorem exec_droneBeat_waits (h : beatFires s u = false) : exec (.droneBeat u) s = .next s := by
  show execDroneBeat u s = _
  simp only [execDroneBeat, h]
  rfl

/-- The rows that are due have drained and the step of a feed beat has entered (R193, R222). -/
def droneEntered (s : State) (u : SuiteId) (r : WingRun) : State :=
  if feedBeat (s.room u).drone r
    then (members s u).foldl (fun t v => countEvents t (.bank v 0) 2 1) (enterDrone ((members s u).foldl drainRoom s) u r)
    else (members s u).foldl drainRoom s

/-- Every PE has combined, and the run is a beat further. -/
def droneCombined (s : State) (u : SuiteId) (r : WingRun) : State :=
  ((wingBeat (droneEntered s u r) u).modRoom u fun x => { x with runs := x.runs.map fun q => q.after (wingW s u) (wingH s u) }).modRoom u
    fun x => { x with beatNow := true }

/-- The registers of a computation whose beat fires (R220, R222). -/
def Drone.fired (d : Drone) : Drone := { d with dbeat := d.dbeat + 1, held := false, missRaised := false, sinceBeat := 0 }

theorem exec_droneBeat_fires (run : droneRun s u = some r) (fires : beatFires s u = true) : ∃ n, exec (.droneBeat u) s =
    .next (droneAfter (modDrone (droneCombined s u r) u Drone.fired) u n) := by
  refine ⟨match ((droneEntered s u r).room u).runs.head? with | some q => q.units.length | none => 0, ?_⟩
  show execDroneBeat u s = _
  simp only [execDroneBeat, run, fires]
  rfl

theorem drones_drained (s : State) (l : List SuiteId) : drones (l.foldl drainRoom s) = drones s :=
  foldl_keeps drones (f := drainRoom) drones_drainRoom l s

theorem counts_droneEntered (s : State) (u : SuiteId) (r : WingRun) : (drones (droneEntered s u r) u).counts =
    { drones s u with dstep := if feedBeat (s.room u).drone r then (drones s u).dstep + 1 else (drones s u).dstep : Drone }.counts := by
  have counted : ∀ (l : List SuiteId) t, drones (l.foldl (fun t v => countEvents t (.bank v 0) 2 1) t) = drones t := fun l t =>
    drones_of_rooms (foldl_keeps State.rooms (fun t v => (counted_countEvents t (.bank v 0) 2 1).rooms) l t)
  unfold droneEntered
  split
  · rw [counted, counts_enterDrone, drones_drained]
  · rw [drones_drained]

theorem drones_droneCombined (s : State) (u : SuiteId) (r : WingRun) : drones (droneCombined s u r) = drones (droneEntered s u r) := by
  unfold droneCombined
  rw [drones_modRoom _ u (fun _ => by rfl), drones_modRoom _ u (fun _ => by rfl), drones_wingBeat]

/-- A beat that fires is counted, with the step of a feed beat, and ends the hold (R220, R222). -/
theorem droneBeat_counts (run : droneRun s u = some r) (fires : beatFires s u = true) : answers (.droneBeat u) s fun t =>
    (drones t u).counts = ((drones s u).dbeat + 1, false, 0, (drones s u).dmiss,
      if feedBeat (s.room u).drone r then (drones s u).dstep + 1 else (drones s u).dstep) := by
  obtain ⟨n, beat⟩ := exec_droneBeat_fires run fires
  refine ⟨_, beat, ?_⟩
  dsimp only
  rw [counts_droneAfter, drones_modDrone, drones_droneCombined]
  have entered := counts_droneEntered s u r
  simp only [Drone.counts, Drone.fired, Prod.mk.injEq] at entered ⊢
  obtain ⟨dbeat, -, -, dmiss, dstep⟩ := entered
  exact ⟨by rw [dbeat], trivial, trivial, dmiss, dstep⟩

end Beat

end Sys2Proof.Machine
end

section
/-! PROOFS. The demands of a drone computation: the oldest starts the chanter, a DFEED fills a side of one, a DDRN answers a drain (R224-R226,
R232, R233, R385). -/

namespace Sys2Proof.Machine

/-! ### The chanter -/

section Chanter
variable {s : State} {u : SuiteId}

/-- The chanter may start (R226). -/
def chanterMay (s : State) (u : SuiteId) : Prop :=
  (s.suite u).chanter.busy = false ∧ (s.suite u).chanter.trapped = false ∧ (s.suite u).stopped = false ∧ (s.room u).stopped = false

theorem not_chanterMay_iff (s : State) (u : SuiteId) : ¬ chanterMay s u ↔
    ((s.suite u).chanter.busy || (s.suite u).chanter.trapped || (s.suite u).stopped || (s.room u).stopped) = true := by
  rw [← Bool.not_eq_false, not_iff_not]
  simp only [chanterMay, Bool.or_eq_false_iff, and_assoc]

theorem exec_demandVector_waits (h : (s.room u).drone.older = [] ∨ ¬ chanterMay s u) : exec (.demandVector u) s = .next s := by
  show execDemandVector u s = _
  cases older : (s.room u).drone.older with
  | nil => simp only [execDemandVector, older]
  | cons q l =>
    have waits := (not_chanterMay_iff s u).mp (h.resolve_left (by rw [older]; exact List.cons_ne_nil q l))
    simp only [execDemandVector, older, waits, if_true]

/-- The chanter as a demand starts it (R226). -/
def Chanter.started (x : Chanter) (q : Word) (pos : Nat) : Chanter := { x with c := x.c.set 7 q, pos := pos, busy := true, lineMode := none }

/-- The oldest demand is in DDEM and starts the chanter (R226). -/
def vectored (s : State) (u : SuiteId) (q : Word) (pos : Nat) : State :=
  (modDrone s u fun d => { d with queue := d.queue.drop 1, ddem := q }).modSuite u fun y => { y with chanter := y.chanter.started q pos }

theorem exec_demandVector_starts {q : Word} {l : List Word} {im : Image} (may : chanterMay s u) (old : (s.room u).drone.older ≠ [])
    (queue : (s.room u).drone.queue = q :: l) (image : imageOf s (.bank u (s.suite u).chanter.bank) = some im) :
    exec (.demandVector u) s = .next (vectored s u q (im.entryCh.toNat * 16)) := by
  have go := mt (not_chanterMay_iff s u).mpr (not_not.mpr may)
  obtain ⟨p, m, older⟩ := List.exists_cons_of_ne_nil old
  have first : q = p := by
    have some := congrArg List.head? older
    rw [Drone.older, queue, List.head?_take] at some
    split at some
    · cases some
    · exact Option.some.inj some
  show execDemandVector u s = _
  simp only [execDemandVector, older, go, image, first]
  rfl

theorem drone_vectored (s : State) (u : SuiteId) (q : Word) (pos : Nat) :
    ((vectored s u q pos).room u).drone = { (s.room u).drone with queue := (s.room u).drone.queue.drop 1, ddem := q } :=
  drones_modDrone s u fun d => { d with queue := d.queue.drop 1, ddem := q }

theorem chanter_vectored (s : State) (u : SuiteId) (q : Word) (pos : Nat) :
    ((vectored s u q pos).suite u).chanter = (s.suite u).chanter.started q pos :=
  congrArg Suite.chanter ((State.suite_modSuite ..).trans (if_pos rfl))

end Chanter

/-! ### Heads that complete at once -/

section Head
variable {s : State} {u : SuiteId} {c : Cmd} {rest : List Cmd}

/-- A command without a push, of a running Suite, leaves its queue with its done increment and touches no room (R213). -/
theorem completeHead_leaves {t : State} (queue : (s.suite u).mq = c :: rest) (runs : (s.suite u).stopped = false) (noPush : c.tok.pushEn = 0)
    (kept : c.discard = false) (plain : ∀ j, c.op ≠ .cpy j) (suites : t.suites = s.suites) :
    ((completeHead t u .m c).suite u).mq = rest ∧ doneIn s (completeHead t u .m c) (.bank u c.bank) c.kind c.dn ∧
      (completeHead t u .m c).rooms = t.rooms := by
  have same : ∀ v, t.suite v = s.suite v := fun v => congrArg (Vector.get · v) suites
  have room : pushRoom t u .m c = true := by simp [pushRoom, same, runs, noPush]
  have ends : completeHead t u .m c = doneFor (dropHead t u .m) (.bank u c.bank) c.kind c.dn := by
    rw [completeHead, if_pos room, completeCmd, kept, if_neg Bool.false_ne_true, if_pos noPush]
    cases op : c.op with
    | cpy j => exact absurd op (plain j)
    | _ => rfl
  have dropped : (dropHead t u .m).suite u = { s.suite u with mq := rest } := by
    rw [← same u, dropHead, modQueue, State.suite_modSuite, if_pos rfl, if_pos rfl, same u, queue]
    rfl
  have bank : (dropHead t u .m).bank (.bank u c.bank) = s.bank (.bank u c.bank) := by
    show ((dropHead t u .m).suite u).banks.get c.bank = _
    rw [dropped]
    rfl
  obtain ⟨-, rooms, -, -, -, -, suite, -⟩ := doneFor_keeps (dropHead t u .m) (.bank u c.bank) c.kind c.dn
  rw [ends]
  refine ⟨?_, doneIn_congr (by rw [bank]) (doneFor_done (dropHead t u .m) (.bank u c.bank) c.kind c.dn), rooms⟩
  have left := congrArg Suite.mq ((suite u).trans dropped)
  exact left

/-! ### DFEED -/

/-- The slots of one side of a room. -/
def Room.slots (x : Room) (b : Bool) : Vector Slot 64 := if b then x.bFeed else x.aFeed

theorem sideFull_eq (s : State) (u : SuiteId) (b : Bool) (k : Nat) : sideFull s u b k =
    (fedRooms s u b).all fun v => (((s.room v).slots b).get ⟨k % 64, Nat.mod_lt _ (by decide)⟩).full := by cases b <;> rfl

/-- What a DFEED stages in a room: a row of a tile, or 256 bytes of its Local Store (R232). -/
def fedBytes (s : State) (bank : Fin 2) (src ctl : Word) (v : SuiteId) : List Byte :=
  if ctl.getLsbD 1 then ((readTile s v (physTile s (.bank v bank) (src.setWidth 6))).get ⟨natBits src.toNat 8 7, Nat.mod_lt _ (by decide)⟩).toList
  else lsRead s v src.toNat 256

/-- A room with the slot of a beat-step full. -/
def Room.filled (b : Bool) (k : Nat) (l : List Byte) (x : Room) : Room :=
  if b then { x with bFeed := x.bFeed.set (k % 64) ⟨true, l⟩ (Nat.mod_lt _ (by decide)) }
  else { x with aFeed := x.aFeed.set (k % 64) ⟨true, l⟩ (Nat.mod_lt _ (by decide)) }

/-- A side of a beat-step filled. -/
def sideFilled (s : State) (u : SuiteId) (bank : Fin 2) (b : Bool) (k : Nat) (src ctl : Word) : State :=
  (fedRooms s u b).foldl (fun t v => t.modRoom v (Room.filled b k (fedBytes s bank src ctl v))) s

theorem fillSide_eq (s : State) (u : SuiteId) (bank : Fin 2) (b : Bool) (k : Nat) (src ctl : Word) : fillSide s u bank b k src ctl =
    if stepFull (sideFilled s u bank b k src ctl) u k
      then modDrone (sideFilled s u bank b k src ctl) u fun d => { d with feedOpen := d.feedOpen.filter (· != k) }
      else sideFilled s u bank b k src ctl := rfl

theorem slots_filled (b : Bool) (k : Nat) (l : List Byte) (x : Room) :
    ((x.filled b k l).slots b).get ⟨k % 64, Nat.mod_lt _ (by decide)⟩ = ⟨true, l⟩ := by
  cases b <;> exact (vget_set _ ⟨k % 64, Nat.mod_lt _ (by decide)⟩ _ _).trans (if_pos rfl)

theorem slots_filled_other (b : Bool) (k : Nat) (l : List Byte) (x : Room) : (x.filled b k l).slots (!b) = x.slots (!b) := by cases b <;> rfl
theorem drone_filled (b : Bool) (k : Nat) (l : List Byte) (x : Room) : (x.filled b k l).drone = x.drone := by cases b <;> rfl
theorem wingShape_filled (b : Bool) (k : Nat) (l : List Byte) (x : Room) : (x.filled b k l).wingShape = x.wingShape := by cases b <;> rfl

theorem nodup_fedRooms (s : State) (u : SuiteId) (b : Bool) : (fedRooms s u b).Nodup := by
  cases b
  · exact nodup_westRooms s u
  · exact nodup_northRooms s u

section Filled
variable (s u) (bank : Fin 2) (b : Bool) (k : Nat) (src ctl : Word)

/-- What a change of slots leaves of a room stays in every room. -/
theorem sideFilled_keeps {α : Type} (g : Room → α) (keeps : ∀ l x, g (Room.filled b k l x) = g x) (v : SuiteId) :
    g ((sideFilled s u bank b k src ctl).room v) = g (s.room v) :=
  foldl_modRoom_keeps g (f := fun v => Room.filled b k (fedBytes s bank src ctl v)) (fun _ => keeps _) _ s v

theorem fedRooms_sideFilled (side : Bool) : fedRooms (sideFilled s u bank b k src ctl) u side = fedRooms s u side := by
  unfold fedRooms northRooms westRooms wingRows wingCols
  rw [sideFilled_keeps s u bank b k src ctl Room.wingShape (wingShape_filled b k) u]

theorem slots_sideFilled {v : SuiteId} (fed : v ∈ fedRooms s u b) :
    (((sideFilled s u bank b k src ctl).room v).slots b).get ⟨k % 64, Nat.mod_lt _ (by decide)⟩ = ⟨true, fedBytes s bank src ctl v⟩ := by
  rw [sideFilled, room_foldl_modRoom (fun v => Room.filled b k (fedBytes s bank src ctl v)) v (nodup_fedRooms s u b), if_pos fed]
  exact slots_filled ..

/-- The side that is fed is full, and the other one is as it was. -/
theorem stepFull_sideFilled : stepFull (sideFilled s u bank b k src ctl) u k = sideFull s u (!b) k := by
  have fed : sideFull (sideFilled s u bank b k src ctl) u b k = true := by
    rw [sideFull_eq, fedRooms_sideFilled, List.all_eq_true]
    intro v hv
    rw [slots_sideFilled s u bank b k src ctl hv]
  have other : sideFull (sideFilled s u bank b k src ctl) u (!b) k = sideFull s u (!b) k := by
    rw [sideFull_eq, sideFull_eq, fedRooms_sideFilled]
    have same := sideFilled_keeps s u bank b k src ctl (Room.slots · (!b)) (slots_filled_other b k)
    simp only [same]
  rw [← other, stepFull]
  cases b
  · rw [fed, Bool.true_and, Bool.not_false]
  · rw [fed, Bool.and_true, Bool.not_true]

theorem suites_fillSide : (fillSide s u bank b k src ctl).suites = s.suites := by
  have filled : (sideFilled s u bank b k src ctl).suites = s.suites :=
    (outside_foldl_modRoom (fun v => Room.filled b k (fedBytes s bank src ctl v)) _ s).1
  rw [fillSide_eq]
  split
  · exact filled
  · exact filled

theorem slots_fillSide {v : SuiteId} (fed : v ∈ fedRooms s u b) :
    (((fillSide s u bank b k src ctl).room v).slots b).get ⟨k % 64, Nat.mod_lt _ (by decide)⟩ = ⟨true, fedBytes s bank src ctl v⟩ := by
  rw [fillSide_eq, ← slots_sideFilled s u bank b k src ctl fed]
  split
  · have same := foldl_modRoom_keeps (Room.slots · b)
      (f := fun _ x => { x with drone := { x.drone with feedOpen := x.drone.feedOpen.filter (· != k) } })
      (fun _ _ => by rfl) [u] (sideFilled s u bank b k src ctl) v
    exact congrArg (Vector.get · _) same
  · rfl

/-- A demand whose sides are both full is answered (R224). -/
theorem feedOpen_fillSide : ((fillSide s u bank b k src ctl).room u).drone.feedOpen =
    if sideFull s u (!b) k then (s.room u).drone.feedOpen.filter (· != k) else (s.room u).drone.feedOpen := by
  have drone := sideFilled_keeps s u bank b k src ctl Room.drone (drone_filled b k) u
  rw [fillSide_eq, stepFull_sideFilled, ← drone]
  split
  · rw [modDrone, State.room_modRoom, if_pos rfl]
  · rfl

end Filled

/-- A DFEED of a demand that was withdrawn counts it off (R385). -/
def withdrawnDone (s : State) (u : SuiteId) (c : Cmd) (b : Bool) : State := completeHead (modDrone s u (dropWithdrawn b)) u .m c

/-- A DFEED that passes its checks (R232, R385). -/
def feedHead (s : State) (u : SuiteId) (c : Cmd) (src ctl : Word) : State :=
  if (s.room u).drone.fixed then withdrawnDone s u c (ctl.getLsbD 0)
  else match (s.room u).drone.feedOpen.find? fun k => !sideFull s u (ctl.getLsbD 0) k with
    | none => if (s.room u).drone.withdrawn (ctl.getLsbD 0) = 0 then headTrap s u .m c cDEMERR else withdrawnDone s u c (ctl.getLsbD 0)
    | some k => completeHead (fillSide s u c.bank (ctl.getLsbD 0) k src ctl) u .m c

section Feed
variable {src ctl : Word}

theorem feedHead_withdrawn (gone : (s.room u).drone.fixed = true ∨
    ((s.room u).drone.feedOpen.find? fun k => !sideFull s u (ctl.getLsbD 0) k) = none ∧ (s.room u).drone.withdrawn (ctl.getLsbD 0) ≠ 0) :
    feedHead s u c src ctl = withdrawnDone s u c (ctl.getLsbD 0) := by
  unfold feedHead
  cases fixed : (s.room u).drone.fixed with
  | true => rfl
  | false =>
    obtain ⟨answered, more⟩ := gone.resolve_left (by rw [fixed]; decide)
    rw [answered]
    exact (if_neg Bool.false_ne_true).trans (if_neg more)

variable (going : (s.room u).drone.fixed = false)
include going

theorem feedHead_error (answered : ((s.room u).drone.feedOpen.find? fun k => !sideFull s u (ctl.getLsbD 0) k) = none)
    (zero : (s.room u).drone.withdrawn (ctl.getLsbD 0) = 0) : feedHead s u c src ctl = headTrap s u .m c cDEMERR := by
  rw [feedHead, going, answered]
  exact (if_neg Bool.false_ne_true).trans (if_pos zero)

theorem feedHead_fills {k : Nat} (lacks : ((s.room u).drone.feedOpen.find? fun k => !sideFull s u (ctl.getLsbD 0) k) = some k) :
    feedHead s u c src ctl = completeHead (fillSide s u c.bank (ctl.getLsbD 0) k src ctl) u .m c := by
  rw [feedHead, going, lacks]
  exact if_neg Bool.false_ne_true

end Feed

section Checks
variable {src ctl : Word} (h : headOf s u .m = some c) (hop : c.op = .dfeed src ctl) (free : ¬ headKept s u .m c) (old : c.status = .popped)
  (run : ∀ v ∈ fedRooms s u (ctl.getLsbD 0), (s.suite v).stopped = false ∧ (s.room v).stopped = false)
include h hop free old run

theorem exec_dfeedHead_popped : exec (.dfeedHead u) s = .next
    (if (!ctl.getLsbD 1 && src.toNat % 256 != 0) = true then headTrap s u .m c cMISALIGN
      else if (!ctl.getLsbD 1 && (fedRooms s u (ctl.getLsbD 0)).any fun v => !inScratch (s.suite v) src.toNat 256) = true then headTrap s u .m c cPROT
      else feedHead s u c src ctl) := by
  have clocks : (fedRooms s u (ctl.getLsbD 0)).any (fun v => (s.suite v).stopped || (s.room v).stopped) = false := by
    refine List.any_eq_false.mpr fun v hv => ?_
    obtain ⟨suite, room⟩ := run v hv
    rw [suite, room]
    exact Bool.false_ne_true
  have ends := finishHead_popped h free old
  show execDfeedHead u s = _
  simp only [execDfeedHead, headOp_of_headOf h hop, popHead_popped h free old, clocks, ends, old]
  rfl

theorem exec_dfeedHead_misaligned (ls : ctl.getLsbD 1 = false) (odd : src.toNat % 256 ≠ 0) :
    exec (.dfeedHead u) s = .next (headTrap s u .m c cMISALIGN) := by
  rw [exec_dfeedHead_popped h hop free old run, ls, if_pos]
  exact bne_iff_ne.mpr odd

theorem exec_dfeedHead_outside (ls : ctl.getLsbD 1 = false) (even : src.toNat % 256 = 0)
    (out : ∃ v ∈ fedRooms s u (ctl.getLsbD 0), inScratch (s.suite v) src.toNat 256 = false) :
    exec (.dfeedHead u) s = .next (headTrap s u .m c cPROT) := by
  obtain ⟨v, member, no⟩ := out
  rw [exec_dfeedHead_popped h hop free old run, ls, even, if_neg (by decide), if_pos]
  exact List.any_eq_true.mpr ⟨v, member, by rw [no]; rfl⟩

theorem exec_dfeedHead_feeds
    (passes : ctl.getLsbD 1 = true ∨ src.toNat % 256 = 0 ∧ ∀ v ∈ fedRooms s u (ctl.getLsbD 0), inScratch (s.suite v) src.toNat 256 = true) :
    exec (.dfeedHead u) s = .next (feedHead s u c src ctl) := by
  rw [exec_dfeedHead_popped h hop free old run]
  obtain tile | ⟨even, inside⟩ := passes
  · rw [tile, if_neg (by simp), if_neg (by simp)]
  · have all : ((fedRooms s u (ctl.getLsbD 0)).any fun v => !inScratch (s.suite v) src.toNat 256) = false :=
      List.any_eq_false.mpr fun v hv => by rw [inside v hv]; decide
    rw [even, all, if_neg (by simp), if_neg (by simp)]

end Checks

/-- One withdrawn demand of the side fewer waits for its DFEED. -/
theorem dropWithdrawn_eq (b : Bool) (d : Drone) :
    dropWithdrawn b d = if b then { d with withdrawnB := d.withdrawn b - 1 } else { d with withdrawnA := d.withdrawn b - 1 } := by cases b <;> rfl

/-! ### DDRN -/

/-- The unit's row goes to the destination that a DDRN names (R233). -/
def UnitRec.named (n k : Nat) (q : UnitRec) : UnitRec := if q.unitNo = n then { q with c := some k } else q

/-- The state with the drain demand answered. -/
def drainNamed (s : State) (u : SuiteId) (n k : Nat) : State :=
  (modDrone s u fun d => { d with drainOpen := none }).modRoom u fun x =>
    { x with runs := x.runs.map fun r => { r with units := r.units.map (UnitRec.named n k) } }

/-- The micro-ops of the run's drain program, as a DDRN reads them. -/
def ddrnOps (s : State) (u : SuiteId) (c : Cmd) : List Instr :=
  match (s.room u).runs.head?, cmdImage s c with | some r, some im => programOps im r.set.prog.toNat | _, _ => []

/-- A DOVW tile of the program is in the bank of the destination (R233). -/
def ddrnClash (s : State) (u : SuiteId) (c : Cmd) (k : Nat) : Bool :=
  !endsNomain (ddrnOps s u c) && (dovwTiles (ddrnOps s u c)).any fun t => t % 8 == k % 8

theorem exec_ddrnHead_popped {k : Nat} (h : headOf s u .m = some c) (hop : c.op = .ddrn k) (pop : popHead s u .m = (some c, s)) :
    exec (.ddrnHead u) s = .next (match (s.room u).drone.drainOpen with
      | none => headTrap s u .m c cDEMERR
      | some n => if ddrnClash s u c k then headTrap s u .m c cSCHEDV else startHead (drainNamed s u n k) u .m c) := by
  show execDdrnHead u s = _
  simp only [execDdrnHead, headOp_of_headOf h hop, pop]
  rfl

theorem room_drainNamed (s : State) (u : SuiteId) (n k : Nat) : (drainNamed s u n k).room u =
    { s.room u with drone := { (s.room u).drone with drainOpen := none },
                    runs := (s.room u).runs.map fun r => { r with units := r.units.map (UnitRec.named n k) } } := by
  rw [drainNamed, modDrone, modRoom_modRoom, State.room_modRoom, if_pos rfl]

theorem named_dest (n k : Nat) (q : UnitRec) : ((q.named n k).unitNo, (q.named n k).c) = (q.unitNo, if q.unitNo = n then some k else q.c) := by
  unfold UnitRec.named
  split <;> rfl

end Head

end Sys2Proof.Machine
end

section
/-! PROOFS. The start of a drone computation on an idle wing (R223, R225, R230), and with it how drone computations run. -/

namespace Sys2Proof.Machine

section Start
variable {s : State} {u : SuiteId} {c : Cmd} {cfg cfg2 : Word} {fmts : Vector W16 16} {cls : Nat}

/-- The wing may start a computation (R230). -/
def droneIdle (s : State) (u : SuiteId) : Prop := (s.room u).drone.active = false ∧ (s.room u).runs = [] ∧ wingLive s u = true

theorem not_droneIdle_iff (s : State) (u : SuiteId) :
    ¬ droneIdle s u ↔ ((s.room u).drone.active || !(s.room u).runs.isEmpty || !wingLive s u) = true := by
  rw [← Bool.not_eq_false, not_iff_not]
  simp only [droneIdle, Bool.or_eq_false_iff, Bool.not_eq_false', List.isEmpty_iff, and_assoc]

/-- A room with a format table in its active set. -/
def Room.formatted (fmts : Vector W16 16) (x : Room) : Room := { x with active := { x.active with fmts := fmts } }

/-- A format table is that of every member room (R230). -/
def formatted (s : State) (u : SuiteId) (fmts : Vector W16 16) : State := (members s u).foldl (fun t v => t.modRoom v (Room.formatted fmts)) s

/-- A member room as a computation starts on its wing: busy, with nothing staged. -/
def Room.readied (x : Room) : Room := { clearSlots x with busy := true }

/-- The registers of a computation that starts, with its first demands raised (R225, R230). -/
def Drone.started (cfg cfg2 : Word) (d : Drone) : Drone :=
  raiseFeeds { d with active := true, fixed := false, held := false, dbeat := 0, dmiss := 0, dstep := 0, dcfg := cfg, dcfg2 := cfg2,
                      finalStep := none, nextDemand := 0, feedOpen := [], withdrawnA := 0, withdrawnB := 0, drainOpen := none, sinceBeat := 0,
                      missRaised := false, missNow := false, ending := false } d.look.toNat

/-- The DSTART runs, and the chanter's registers are zero. -/
def chanterReady (s : State) (u : SuiteId) (c : Cmd) : State :=
  (startHead s u .m c).modSuite u fun x => { x with chanter := { x.chanter with c := Vector.replicate 8 0, bank := c.bank } }

/-- The run of a computation. -/
def droneNest (c : Cmd) (set : NestSet) (cfg cfg2 : Word) (now cls : Nat) (ft : W16) : WingRun :=
  { newRun c true { set with prog := BitVec.ofNat 4 (natBits cfg.toNat 12 4), dbase := BitVec.ofNat 32 (natBits cfg2.toNat 32 32) } 0 now with
    ftNow := ft, unitInt := cls == 2 }

/-- Every member room is readied. -/
def wingReadied (s : State) (u : SuiteId) (c : Cmd) : State :=
  (members (chanterReady s u c) u).foldl (fun t v => t.modRoom v Room.readied) (chanterReady s u c)

/-- The computation starts on a wing with its format table in place. -/
def droneStarted (s : State) (u : SuiteId) (c : Cmd) (cfg cfg2 : Word) (now cls : Nat) (ft : W16) : State :=
  modDrone ((wingReadied s u c).modRoom u fun x => { x with runs := [droneNest c ((chanterReady s u c).room u).active cfg cfg2 now cls ft] }) u
    (Drone.started cfg cfg2)

/-- What a DSTART finds wrong with its drain program (R230, R253). -/
def dstartCheck (s : State) (u : SuiteId) (c : Cmd) (cfg cfg2 : Word) (cls : Nat) : Option (BitVec 8 × Nat) :=
  match cmdImage s c with
  | some im => checkProgram im (BitVec.ofNat 4 (natBits cfg.toNat 12 4)).toNat (BitVec.ofNat 32 (natBits cfg2.toNat 32 32)).toNat
      [if cls = 2 then .i32 else .fp32] true c.dual [] [] ((members s u).map fun v => scratchLimit (s.suite v))
  | none => none

section Head
variable (h : headOf s u .m = some c) (hop : c.op = .dstart cfg cfg2) (pop : popHead s u .m = (some c, s))
include h hop pop

theorem exec_dstartEffect_waits (no : ¬ droneIdle s u) : exec (.dstartEffect u) s = .next s := by
  show execDstartEffect u s = _
  simp only [execDstartEffect, headOp_of_headOf h hop, pop, (not_droneIdle_iff s u).mp no, if_true]

/-- A DSTART at the head of an idle wing, whose format table is `fmts`. -/
theorem exec_dstartEffect_goes (idle : droneIdle s u) (table : ((s.room u).shadow.get c.bank).fmts = fmts) : exec (.dstartEffect u) s = .next
    (match ftClass (featOn s 1) (fmts.get 0) with
      | none => headTrap (formatted s u fmts) u .m c cFMTINV
      | some cls =>
        if cls = 3 then headTrap (formatted s u fmts) u .m c cFMTINV
        else match dstartCheck (formatted s u fmts) u c cfg cfg2 cls with
          | some (cause, v) => headTrap (formatted s u fmts) u .m c cause v
          | none => droneStarted (formatted s u fmts) u c cfg cfg2 s.cycle cls (fmts.get 0)) := by
  have go := mt (not_droneIdle_iff s u).mpr (not_not.mpr idle)
  subst table
  show execDstartEffect u s = _
  simp only [execDstartEffect, headOp_of_headOf h hop, pop, go]
  rfl

theorem exec_dstartEffect_invalid (idle : droneIdle s u) (table : ((s.room u).shadow.get c.bank).fmts = fmts)
    (bad : ftClass (featOn s 1) (fmts.get 0) = none ∨ ftClass (featOn s 1) (fmts.get 0) = some 3) :
    exec (.dstartEffect u) s = .next (headTrap (formatted s u fmts) u .m c cFMTINV) := by
  rw [exec_dstartEffect_goes h hop pop idle table]
  obtain invalid | three := bad
  · rw [invalid]
  · rw [three]
    rfl

theorem exec_dstartEffect_starts (idle : droneIdle s u) (table : ((s.room u).shadow.get c.bank).fmts = fmts)
    (entry : ftClass (featOn s 1) (fmts.get 0) = some cls) (not3 : cls ≠ 3) (check : dstartCheck (formatted s u fmts) u c cfg cfg2 cls = none) :
    exec (.dstartEffect u) s = .next (droneStarted (formatted s u fmts) u c cfg cfg2 s.cycle cls (fmts.get 0)) := by
  rw [exec_dstartEffect_goes h hop pop idle table, entry]
  dsimp only
  rw [if_neg not3, check]

end Head

/-! ### What the format table leaves -/

theorem room_formatted (s : State) (u : SuiteId) (fmts : Vector W16 16) (v : SuiteId) :
    (formatted s u fmts).room v = if v ∈ members s u then (s.room v).formatted fmts else s.room v :=
  room_foldl_modRoom (fun _ => Room.formatted fmts) v (nodup_members s u) s

theorem suite_formatted (s : State) (u : SuiteId) (fmts : Vector W16 16) (v : SuiteId) : (formatted s u fmts).suite v = s.suite v :=
  congrArg (Vector.get · v) (outside_foldl_modRoom (fun _ => Room.formatted fmts) (members s u) s).1

theorem cmdImage_formatted (s : State) (u : SuiteId) (fmts : Vector W16 16) (c : Cmd) : cmdImage (formatted s u fmts) c = cmdImage s c :=
  congrArg (fun p : Package => p.images[c.image]?) (outside_foldl_modRoom (fun _ => Room.formatted fmts) (members s u) s).2.1

theorem members_formatted (s : State) (u : SuiteId) (fmts : Vector W16 16) : members (formatted s u fmts) u = members s u := by
  have shape : ((formatted s u fmts).room u).wingShape = (s.room u).wingShape :=
    foldl_modRoom_keeps Room.wingShape (f := fun _ => Room.formatted fmts) (fun _ _ => rfl) (members s u) s u
  unfold members
  rw [shape]

theorem natBits_lt (x n w : Nat) : natBits x n w < 2 ^ w := Nat.mod_lt _ (Nat.two_pow_pos w)

theorem dstartCheck_formatted (good : ∀ im, cmdImage s c = some im → checkProgram im (natBits cfg.toNat 12 4) (natBits cfg2.toNat 32 32)
      [if some cls = some 2 then .i32 else .fp32] true c.dual [] [] ((members s u).map fun v => 0x800000 - (s.suite v).l1mib.toNat * 0x100000) = none) :
    dstartCheck (formatted s u fmts) u c cfg cfg2 cls = none := by
  unfold dstartCheck
  rw [cmdImage_formatted]
  cases image : cmdImage s c with
  | none => rfl
  | some im =>
    have same : ∀ v, scratchLimit ((formatted s u fmts).suite v) = 0x800000 - (s.suite v).l1mib.toNat * 0x100000 := fun v => by
      rw [suite_formatted, scratchLimit]
    have passes := good im image
    simp only [Option.some.injEq] at passes
    simp only [BitVec.toNat_ofNat, Nat.mod_eq_of_lt (natBits_lt _ _ _), members_formatted, same]
    exact passes

/-! ### What the start leaves -/

theorem room_wingReadied (s : State) (u : SuiteId) (c : Cmd) (v : SuiteId) :
    (wingReadied s u c).room v = if v ∈ members s u then (s.room v).readied else s.room v :=
  room_foldl_modRoom (fun _ => Room.readied) v (nodup_members s u) (chanterReady s u c)

/-- The readied room of the wing's lead, with the run and the registers of the computation. -/
theorem room_droneStarted (s : State) (u : SuiteId) (c : Cmd) (cfg cfg2 : Word) (now cls : Nat) (ft : W16) (v : SuiteId) :
    (droneStarted s u c cfg cfg2 now cls ft).room v = if u = v then
      { (wingReadied s u c).room u with
        runs := [droneNest c ((chanterReady s u c).room u).active cfg cfg2 now cls ft]
        drone := ((wingReadied s u c).room u).drone.started cfg cfg2 }
    else (wingReadied s u c).room v := by
  rw [droneStarted, modDrone, modRoom_modRoom, State.room_modRoom]

theorem drone_droneStarted (s : State) (u : SuiteId) (fmts : Vector W16 16) (c : Cmd) (cfg cfg2 : Word) (now cls : Nat) (ft : W16) :
    ((droneStarted (formatted s u fmts) u c cfg cfg2 now cls ft).room u).drone = (s.room u).drone.started cfg cfg2 := by
  have table : drones (formatted s u fmts) = drones s := drones_foldl_modRoom (f := fun _ => Room.formatted fmts) (fun _ _ => rfl) _ s
  have kept : drones (wingReadied (formatted s u fmts) u c) = drones (formatted s u fmts) :=
    drones_foldl_modRoom (f := fun _ => Room.readied) (fun _ _ => rfl) _ (chanterReady (formatted s u fmts) u c)
  rw [room_droneStarted, if_pos rfl]
  exact congrArg (Drone.started cfg cfg2) (congrFun (kept.trans table) u)

theorem suite_droneStarted (s : State) (u : SuiteId) (fmts : Vector W16 16) (c : Cmd) (cfg cfg2 : Word) (now cls : Nat) (ft : W16) :
    (droneStarted (formatted s u fmts) u c cfg cfg2 now cls ft).suite u =
      { s.suite u with mq := (s.suite u).mq.drop 1, mrun := (s.suite u).mrun ++ [{ c with status := .running }],
                       chanter := { (s.suite u).chanter with c := Vector.replicate 8 0, bank := c.bank } } := by
  have readied : (wingReadied (formatted s u fmts) u c).suites = (chanterReady (formatted s u fmts) u c).suites :=
    (outside_foldl_modRoom (fun _ => Room.readied) _ (chanterReady (formatted s u fmts) u c)).1
  have same : (droneStarted (formatted s u fmts) u c cfg cfg2 now cls ft).suite u = (chanterReady (formatted s u fmts) u c).suite u :=
    congrArg (Vector.get · u) readied
  rw [same, chanterReady, State.suite_modSuite, if_pos rfl, suite_startHead, suite_formatted]

/-- A member room of the wing: busy, with its format table and with every slot empty. -/
structure RoomReady (fmts : Vector W16 16) (x : Room) : Prop where
  busy : x.busy = true
  fmts : x.active.fmts = fmts
  a : ∀ n, (x.aFeed.get n).full = false
  b : ∀ n, (x.bFeed.get n).full = false

theorem roomReady_readied (fmts : Vector W16 16) (x : Room) : RoomReady fmts (x.formatted fmts).readied where
  busy := rfl
  fmts := rfl
  a n := congrArg Slot.full (vget_map _ x.aFeed n)
  b n := congrArg Slot.full (vget_map _ x.bFeed n)

theorem roomReady_droneStarted {v : SuiteId} (member : v ∈ members s u) (now : Nat) (ft : W16) :
    RoomReady fmts ((droneStarted (formatted s u fmts) u c cfg cfg2 now cls ft).room v) := by
  have ready : RoomReady fmts ((wingReadied (formatted s u fmts) u c).room v) := by
    rw [room_wingReadied, members_formatted, if_pos member, room_formatted, if_pos member]
    exact roomReady_readied fmts _
  rw [room_droneStarted]
  split
  next e => subst e; exact ⟨ready.busy, ready.fmts, ready.a, ready.b⟩
  next => exact ready

/-- The beat-steps whose demands a computation raises as it starts (R225). -/
def firstDemands (cfg : Word) (look : Nat) : List Nat := List.range (if natBits cfg.toNat 32 32 = 0 then look else min look (natBits cfg.toNat 32 32))

/-- A started computation has open the demands of its first beat-steps, behind those that wait for the chanter. -/
theorem started_demands (d : Drone) (cfg cfg2 : Word) : (d.started cfg cfg2).feedOpen = firstDemands cfg d.look.toNat ∧
    (d.started cfg cfg2).queue = d.queue ++ (firstDemands cfg d.look.toNat).map fun n => BitVec.ofNat 64 (n % 2 ^ 32) := by
  have first : (List.range (firstDemands cfg d.look.toNat).length).map (0 + ·) = firstDemands cfg d.look.toNat := by
    simp [firstDemands]
  have raised : (d.started cfg cfg2).feedOpen = [] ++ (List.range (firstDemands cfg d.look.toNat).length).map (0 + ·) ∧
      (d.started cfg cfg2).queue = d.queue ++ ((List.range (firstDemands cfg d.look.toNat).length).map (0 + ·)).map (demandRecord false) := by
    rw [firstDemands, List.length_range]
    exact ⟨rfl, rfl⟩
  rw [first] at raised
  exact raised

end Start

/-- Settles O40: each command at the head of an idle or running computation is looked at once with its tokens taken, and a beat changes the registers
of the wing's lead alone. -/
theorem dronesRun : Obligations.DronesRun := by
  unfold Obligations.DronesRun
  intro s u c rest d popped trap isStart
  have pops : popped → headOf s u .m = some c ∧ ¬ headKept s u .m c ∧ popHead s u .m = (some c, s) := by
    rintro ⟨queue, old, sound, runs, wait⟩
    have free := not_headKept runs sound wait
    exact ⟨headOf_of_mq queue, free, popHead_popped (headOf_of_mq queue) free old⟩
  refine ⟨fun cfg cfg2 ready hop => ?dstart, ⟨fun still => ?_, fun q l im may old queue image => ?_⟩, fun src ctl ready hop noPush kept => ?dfeed,
    fun k ready hop => ?ddrn, fun r run => ?beat, fun idle i which => ?_⟩
  case dstart =>
    obtain ⟨head, -, pop⟩ := pops ready
    intro i fmts cls idle s1 tops good count ahead
    refine ⟨exec_dstartEffect_waits head hop pop, fun yes bad => exec_dstartEffect_invalid head hop pop yes rfl bad, fun yes k entry not3 passes => ?_⟩
    have check : dstartCheck (formatted s u fmts) u c cfg cfg2 k = none := dstartCheck_formatted (entry ▸ passes)
    obtain ⟨demands, queue⟩ := started_demands d cfg cfg2
    refine ⟨_, exec_dstartEffect_starts head hop pop yes rfl entry not3 check, ?_⟩
    dsimp only
    rw [drone_droneStarted, suite_droneStarted, ready.1]
    refine ⟨rfl, rfl, rfl, rfl, rfl, rfl, rfl, rfl, demands, rfl, rfl, rfl, queue, rfl, rfl, fun v member => ?_, ?_⟩
    · obtain ⟨busy, table, a, b⟩ := roomReady_droneStarted (fmts := fmts) member s.cycle (fmts.get 0)
      exact ⟨busy, table, fun n => ⟨a n, b n⟩⟩
    · rw [room_droneStarted, if_pos rfl]
      exact ⟨_, rfl, rfl, rfl, rfl⟩
  · exact exec_demandVector_waits still
  · refine ⟨_, exec_demandVector_starts may old queue image, ?_⟩
    dsimp only
    rw [drone_vectored, chanter_vectored, show (s.room u).drone.queue = q :: l from queue]
    exact ⟨rfl, rfl, rfl, rfl, fun n => (vget_set _ 7 n q).trans (if_congr eq_comm rfl rfl)⟩
  case dfeed =>
    obtain ⟨head, free, -⟩ := pops ready
    obtain ⟨mq, old, -, runs, -⟩ := ready
    intro i b tile fed ls open1 left clocks
    have leaves : ∀ {t : State}, t.suites = s.suites → _ := completeHead_leaves mq runs noPush kept (by rw [hop]; exact fun _ => nofun)
    refine ⟨exec_dfeedHead_misaligned head hop free old clocks, fun inLs even out => ?_, fun passes => ?_⟩
    · obtain ⟨v, member, no⟩ := out
      exact exec_dfeedHead_outside head hop free old clocks inLs even ⟨v, member, decide_eq_false no⟩
    · have feeds := exec_dfeedHead_feeds head hop free old clocks (passes.imp_right fun p => ⟨p.1, fun v hv => decide_eq_true (p.2 v hv)⟩)
      refine ⟨fun gone => ?_, fun going answered zero => feeds.trans (congrArg _ (feedHead_error going answered zero)), fun k going lacks => ?_⟩
      · obtain ⟨queue, doneIn, rooms⟩ := leaves (t := modDrone s u (dropWithdrawn b)) rfl
        have room : ∀ v, (withdrawnDone s u c b).room v = (modDrone s u (dropWithdrawn b)).room v := fun v => congrArg (Vector.get · v) rooms
        refine ⟨_, feeds.trans (congrArg _ (feedHead_withdrawn gone)), queue, doneIn, fun v other => ?_, ?_⟩
        · exact (room v).trans ((State.room_modRoom ..).trans (if_neg (Ne.symm other)))
        · exact (room u).trans (((State.room_modRoom ..).trans (if_pos rfl)).trans
            (congrArg (fun e => { s.room u with drone := e }) (dropWithdrawn_eq b d)))
      · obtain ⟨queue, doneIn, rooms⟩ := leaves (suites_fillSide s u c.bank b k src ctl)
        have room : ∀ v, (completeHead (fillSide s u c.bank b k src ctl) u .m c).room v = (fillSide s u c.bank b k src ctl).room v :=
          fun v => congrArg (Vector.get · v) rooms
        refine ⟨_, feeds.trans (congrArg _ (feedHead_fills going lacks)), queue, doneIn, fun v member => ?_, ?_⟩
        · have staged := slots_fillSide s u c.bank b k src ctl member
          rwa [← room] at staged
        · have open2 := feedOpen_fillSide s u c.bank b k src ctl
          rwa [← room] at open2
  case ddrn =>
    obtain ⟨head, -, pop⟩ := pops ready
    have goes := exec_ddrnHead_popped head hop pop
    intro ops clash
    refine ⟨fun answered => ?_, fun n asked bad => ?_, fun n asked good => ?_⟩
    · rw [show (s.room u).drone.drainOpen = none from answered] at goes
      exact goes
    · rw [show (s.room u).drone.drainOpen = some n from asked] at goes
      exact goes.trans (congrArg _ (if_pos bad))
    · rw [show (s.room u).drone.drainOpen = some n from asked] at goes
      have room : (startHead (drainNamed s u n k) u .m c).room u = (drainNamed s u n k).room u := rfl
      refine ⟨_, goes.trans (congrArg _ (if_neg (by rw [show ddrnClash s u c k = false from good]; decide))), ?_⟩
      dsimp only
      rw [room, room_drainNamed, suite_startHead]
      refine ⟨rfl, by rw [show (drainNamed s u n k).suite u = s.suite u from rfl, ready.1]; rfl, rfl, ?_⟩
      simp only [List.map_map, Function.comp_def, named_dest]
  case beat =>
    intro due late
    refine ⟨fun yes => (exec_beatDue_some run).trans (congrArg _ (if_pos yes)), fun _ => ⟨Bool.or_true _, rfl⟩,
      fun no => (exec_beatDue_some run).trans (congrArg _ (if_neg no)), exec_droneBeat_waits, fun fires => ?_, exec_missdl_early run,
      fun n x missed start cmd sound => ?_⟩
    · obtain ⟨t, beat, counts⟩ := droneBeat_counts run fires
      simp only [Drone.counts, Prod.mk.injEq] at counts
      exact ⟨t, beat, counts⟩
    · exact (exec_missdl_late run missed).trans (congrArg _ (missTrap_some (x := x) start cmd sound))
  · obtain rfl | rfl | rfl := which
    · exact exec_beatDue_none idle
    · exact exec_droneBeat_waits (beatFires_none idle)
    · exact exec_missdl_none idle

end Sys2Proof.Machine
end

section
/-! PROOFS. Copies: they start while fewer than four fly, their elements and their rows move, and they complete when nothing is left (R236, R237, R240,
R244-R246). -/

namespace Sys2Proof.Machine

/-! ### The start of a copy (R236) -/

section Start
variable {s : State} {u : SuiteId} {c : Cmd} {rest : List Cmd} {j : CopyJob}

/-- The copies of a Suite that are under way. -/
def copiesFlying (s : State) (u : SuiteId) : Nat :=
  (s.suite u).crun.countP fun x => x.status == .running && (match x.op with | .cpy _ => true | _ => false)

theorem headOf_of_cqueue (h : (s.suite u).cqueue = c :: rest) : headOf s u .c = some c := congrArg List.head? h

theorem not_headKept_c (runs : (s.suite u).stopped = false) (sound : c.trapLevel = 0) : ¬ headKept s u .c c :=
  not_headKept runs sound (Bool.eq_false_iff.mpr fun w => nomatch ((roomsWait_iff s u .c c).mp w).1)

/-- The head command of C leaves the queue and runs. -/
theorem startHead_of_cqueue (h : (s.suite u).cqueue = c :: rest) : startHead s u .c c =
    s.modSuite u fun x => { x with cqueue := rest, crun := x.crun ++ [{ c with status := .running }] } := by
  refine (modSuite_modSuite s u (fun x => { x with cqueue := x.cqueue.drop 1 })
    fun x => { x with crun := x.crun ++ [{ c with status := .running }] }).trans ?_
  simp only [State.modSuite, h, List.drop_one, List.tail_cons]

theorem exec_cpyStart_popped (h : (s.suite u).cqueue = c :: rest) (hop : c.op = .cpy j) (old : c.status = .popped) (sound : c.trapLevel = 0)
    (runs : (s.suite u).stopped = false) : exec (.cpyStart u) s = .next (if copiesFlying s u < 4 then startHead s u .c c else s) := by
  have head := headOf_of_cqueue h
  show execCpyStart u s = _
  simp only [execCpyStart, headOp_of_headOf head hop, popHead_popped head (not_headKept_c runs sound) old]
  rfl

end Start

/-! ### One element between a segment and the Local Store (R239, R240, R245) -/

section Element
variable {s s1 : State} {u : SuiteId} {c : Cmd} {j : CopyJob} {d : Desc} {n : Nat}

theorem readSegElem_outside (out : outsideOf d (j.coord n) = true) : readSegElem s u c j d n = (.ok (natBits j.pad.toNat 0 d.fmt.width), s) :=
  if_pos out

theorem readSegElem_inside {bs : List Byte} (inside : outsideOf d (j.coord n) = false) (wide : d.fmt ≠ .cb4)
    (load : loadBytes s (.bank u c.bank) c.tenant j.seg d (offsetOf d (j.coord n)) d.fmt.esz true true = (.ok bs, s1)) :
    readSegElem s u c j d n = (.ok (leNat bs), s1) := by
  simp only [readSegElem, inside, load, wide, Bool.false_eq_true, if_false]

theorem readLsElem_bytes (wide : j.pfmt ≠ .cb4) : readLsElem s u j n = leNat (lsRead s u (j.lsAddr n) j.pfmt.esz) := if_neg wide

theorem writeLsElem_bytes (wide : j.pfmt ≠ .cb4) (v : Nat) : writeLsElem s u j n v = lsWrite s u (j.lsAddr n) (leBytes j.pfmt.esz v) := if_neg wide

/-- A stored element leaves no copy of its line in the issuing Suite's L1 (R57, R245). -/
theorem writeSegElem_stored {v : Nat} (wide : d.fmt ≠ .cb4) (store : storeBytes s (.bank u c.bank) c.tenant j.seg d (offsetOf d (j.coord n))
      (leBytes d.fmt.esz v) (u.val + 4 * 4096) true = (.ok (), s1)) :
    writeSegElem s u c j d n v = (.ok (), l1DropLine s1 u c.tenant j.seg (offsetOf d (j.coord n) / 64)) := by
  simp only [writeSegElem, wide, if_false, store]

/-- An element that has been read reaches the Local Store, converted, where no nest feeds from its address (R204, R240). -/
theorem moveElem_load {v : Nat} (load : j.store = false) (read : readSegElem s u c j d n = (.ok v, s1)) (wide : j.pfmt ≠ .cb4)
    (unfed : touchesFed s1 u (j.lsAddr n) j.pfmt.esz = false) :
    moveElem s u c j d n = (.done, lsWrite s1 u (j.lsAddr n) (leBytes j.pfmt.esz (convElem j d.fmt j.pfmt v))) := by
  simp only [moveElem, load, read, unfed, writeLsElem_bytes wide, Bool.false_eq_true, if_false]

/-- An element that would lie outside its segment is not stored (R239). -/
theorem moveElem_store_outside (store : j.store = true) (out : outsideOf d (j.coord n) = true) : moveElem s u c j d n = (.done, s) := by
  simp only [moveElem, store, out, if_true]

theorem moveElem_store_inside (store : j.store = true) (ls : j.acc = false) (inside : outsideOf d (j.coord n) = false) (wide : j.pfmt ≠ .cb4)
    (unfed : touchesFed s u (j.lsAddr n) j.pfmt.esz = false)
    (write : writeSegElem s u c j d n (convElem j j.pfmt d.fmt (leNat (lsRead s u (j.lsAddr n) j.pfmt.esz))) = (.ok (), s1)) :
    moveElem s u c j d n = (.done, s1) := by
  simp only [moveElem, store, ls, inside, fedReadHold_eq_none unfed, readLsElem_bytes wide, write, Option.isSome_none, Bool.false_eq_true, if_true,
    if_false]

end Element

/-! ### A turn of a running copy (R237, R244) -/

/-- The k-th running C command is a copy that goes on. -/
def copyRuns (s : State) (u : SuiteId) (k : Nat) (c : Cmd) (j : CopyJob) : Prop :=
  (s.suite u).crun[k]? = some c ∧ c.op = .cpy j ∧ c.status = .running ∧ c.trapLevel = 0 ∧ (s.suite u).stopped = false

/-- The k-th running C command as a copy that has come as far as `j`. -/
def setCopy (s : State) (u : SuiteId) (k : Nat) (j : CopyJob) : State := modRun s u k fun c => { c with op := .cpy j }

section Turn
variable {s s1 s2 : State} {u : SuiteId} {k m : Nat} {c : Cmd} {j : CopyJob} {d : Desc}

/-- All that is left and its first element are the same when one is left. -/
theorem turn_moves_last {n : Nat} (m : Nat) : n < 2 → (if n = 0 then [m] else [[m].getD (n - 1) 0]) = [m] :=
  match n with
  | 0 | 1 => fun _ => rfl
  | n + 2 => fun two => absurd two (by omega)

/-- The last element of a copy moves, whichever of the two free choices the turn makes: all that is left, or its first (R237). -/
theorem exec_copyElementMove_last (run : copyRuns s u k c j) (left : j.left = [m]) (elements : (j.acc && !j.store) = false)
    (desc : getDesc s c.tenant j.seg = (some d, s1)) (move : moveElem (chooseBelow s1 2).2 u c j d m = (.done, s2)) :
    exec (.copyElementMove u k) s = .next (setCopy s2 u k { j with moved := j.moved ++ [m] }) := by
  obtain ⟨cmd, hop, running, sound, going⟩ := run
  have all := turn_moves_last (n := (chooseBelow s1 2).1) m (Nat.mod_lt _ (by decide))
  show execCopyElementMove u k s = _
  simp only [execCopyElementMove, cmd, hop, running, sound, going, left, elements, desc, List.isEmpty_cons, List.length_singleton, Nat.reduceAdd, all,
    moveElems, move, Bool.false_and, Bool.false_eq_true, ne_eq, not_true_eq_false, or_self, if_false]
  rfl

section Rows
variable (run : copyRuns s u k c j) (left : j.left ≠ []) (rows : (j.acc && !j.store) = true)
include run left rows

theorem exec_copyElementMove_reads (short : j.got.length < j.size) (desc : getDesc s c.tenant j.seg = (some d, s1)) :
    exec (.copyElementMove u k) s = .next (readRows s1 u k c j d) := by
  obtain ⟨cmd, hop, running, sound, going⟩ := run
  show execCopyElementMove u k s = _
  simp only [execCopyElementMove, cmd, hop, running, sound, going, List.isEmpty_iff, left, rows, decide_eq_false (Nat.not_le.mpr short), desc,
    Bool.and_false, Bool.false_eq_true, ne_eq, not_true_eq_false, or_self, if_true, if_false]

theorem exec_copyElementMove_row (full : j.size ≤ j.got.length) : exec (.copyElementMove u k) s = .next (moveRow s u k c j) := by
  obtain ⟨cmd, hop, running, sound, going⟩ := run
  show execCopyElementMove u k s = _
  simp only [execCopyElementMove, cmd, hop, running, sound, going, List.isEmpty_iff, left, rows, decide_eq_true full,
    Bool.and_true, Bool.false_eq_true, ne_eq, not_true_eq_false, or_self, if_true, if_false]

end Rows

/-! ### Rows of an accumulator load (R205, R240, R244, R382) -/

/-- The words granted before a read waits are kept (R240). -/
theorem readRows_reads {l : List W32} {r : Moved} (words : loadWords s u c j d ((List.range j.size).drop j.got.length) = (l, r, s1))
    (sound : r = .wait ∨ r = .done) : readRows s u k c j d = setCopy s1 u k { j with got := j.got ++ l } := by
  obtain rfl | rfl := sound
  · simp only [readRows, words]
    rfl
  · simp only [readRows, words]
    rfl

/-- The cycle belongs to the copy's bank, whose port no other row of it takes. -/
def rowMay (s : State) (u : SuiteId) (j : CopyJob) : Prop :=
  rcycOf s u % 8 = j.k.val % 8 ∧ (s.room u).stopped = false ∧ ¬ j.k.val % 8 ∈ (s.room u).portRows ∧ unitDrains s u j.hold (j.k.val % 8) = false

theorem not_rowMay_iff (s : State) (u : SuiteId) (j : CopyJob) : ¬ rowMay s u j ↔
    rcycOf s u % 8 ≠ j.k.val % 8 ∨ (s.room u).stopped = true ∨ (s.room u).portRows.contains (j.k.val % 8) = true ∨
      unitDrains s u j.hold (j.k.val % 8) = true := by
  simp only [rowMay, List.contains_iff_mem, not_and_or, Bool.not_eq_false, not_not, ne_eq]

/-- The cycle in which the first row lands is a free choice (R244). -/
def rowChosen (s : State) (j : CopyJob) : State := if j.moved.length = 0 then (chooseBelow s 2).2 else s

/-- The first row lets this cycle pass. -/
def rowWaits (s : State) (j : CopyJob) : Prop := j.moved.length = 0 ∧ (chooseBelow s 2).1 = 1

/-- The next row of a load's words in the accumulator store, its bank's port taken (R205, R240). -/
def landCopyRow (s : State) (u : SuiteId) (j : CopyJob) : State :=
  ((j.got.drop (j.moved.length * j.e 0)).take (j.e 0)).zipIdx.foldl (fun t p => accPutWord t u j.k
    ⟨(j.row0 + j.moved.length) % 128, Nat.mod_lt _ (by decide)⟩ (accPlace j (j.moved.length * j.e 0 + p.2)).2 j.add (j.pfmt == .i32) p.1)
    (takePort s u j.k)

theorem accLogged_off {t : TenantId} (off : ologMode s t = 0) (agent bank tile row col : Nat) :
    accLogged s t u agent bank tile row col = (true, s) := by
  simp only [accLogged, ologTake, off]

theorem ologMode_rowChosen (s : State) (j : CopyJob) (t : TenantId) : ologMode (rowChosen s j) t = ologMode s t := by
  unfold rowChosen
  split <;> rfl

theorem moveRow_kept (kept : ¬ rowMay s u j) : moveRow s u k c j = s := if_pos ((not_rowMay_iff s u j).mp kept)

/-- With the order log off the choice of a turn is that of the first row alone. -/
theorem rowChoice_off (off : ologMode s c.tenant = 0) :
    (if j.moved.length = 0 ∧ ologMode s c.tenant ≠ 2 then chooseBelow s 2 else (0, s)) =
      (if j.moved.length = 0 then (chooseBelow s 2).1 else 0, rowChosen s j) := by
  by_cases first : j.moved.length = 0
  · simp [first, off, rowChosen]
  · simp [first, rowChosen]

section Free
variable (may : rowMay s u j) (off : ologMode s c.tenant = 0)
include may off

theorem moveRow_waits (waits : rowWaits s j) : moveRow s u k c j = rowChosen s j := by
  have free := mt (not_rowMay_iff s u j).mpr (not_not.mpr may)
  have one : (if j.moved.length = 0 then (chooseBelow s 2).1 else 0) = 1 := (if_pos waits.1).trans waits.2
  simp only [moveRow, free, rowChoice_off off, one, if_true, if_false]

theorem moveRow_lands (now : ¬ rowWaits s j) (clear : portClash (rowChosen s j) u (j.k.val % 8) = none) :
    moveRow s u k c j = setCopy (landCopyRow (rowChosen s j) u j) u k { j with moved := j.moved ++ [j.moved.length] } := by
  have free := mt (not_rowMay_iff s u j).mpr (not_not.mpr may)
  have go : (if j.moved.length = 0 then (chooseBelow s 2).1 else 0) ≠ 1 := by
    by_cases first : j.moved.length = 0
    · rw [if_pos first]
      exact fun one => now ⟨first, one⟩
    · rw [if_neg first]
      exact Nat.zero_ne_one
  simp only [moveRow, free, rowChoice_off off, go, clear, accLogged_off ((ologMode_rowChosen s j c.tenant).trans off), if_false]
  rfl

end Free

end Turn

/-! ### Completion (R237, R246) -/

section Completion
variable {s : State} {u : SuiteId} {k : Nat} {c : Cmd} {j : CopyJob} (cmd : (s.suite u).crun[k]? = some c)
include cmd

theorem exec_cpyCompletion_moves (hop : c.op = .cpy j) (left : j.left ≠ []) : exec (.cpyCompletion u k) s = .next s := by
  show execCpyCompletion u k s = _
  simp only [execCpyCompletion, cmd, hop, List.isEmpty_iff, left, false_and, and_false, if_false]

theorem exec_cpyCompletion_moved (hop : c.op = .cpy j) (running : c.status = .running) (runs : (s.suite u).stopped = false) (moved : j.left = []) :
    exec (.cpyCompletion u k) s = .next (finishRunning (lowerBusy s c.tenant j.seg) u .c k) := by
  show execCpyCompletion u k s = _
  simp only [execCpyCompletion, cmd, hop, running, runs, moved, List.isEmpty_nil, and_self, if_true]

/-- A copy without a push leaves the running commands at once (R213). -/
theorem finishRunning_lowered (runs : (s.suite u).stopped = false) (noPush : c.tok.pushEn = 0) :
    finishRunning (lowerBusy s c.tenant j.seg) u .c k =
      completeCmd ((lowerBusy s c.tenant j.seg).modSuite u fun x => { x with crun := x.crun.eraseIdx k }) u .c c := by
  have suite := (lowerBusy_translated s c.tenant j.seg).suite u
  have found : (runningOf ((lowerBusy s c.tenant j.seg).suite u) .c)[k]? = some c := by
    rw [suite]
    exact cmd
  have room : pushRoom (lowerBusy s c.tenant j.seg) u .c c = true := by simp [pushRoom, suite, runs, noPush]
  simp only [finishRunning, found, room, if_true]
  rfl

end Completion

/-- Settles O41: the last element of a copy moves alone whatever the turn chooses, a row lands in a free cycle of its bank, and a copy of which nothing
is left completes. -/
theorem copiesMove : Obligations.CopiesMove := by
  unfold Obligations.CopiesMove
  intro s u c rest j k go flying running chosen moves conv
  refine ⟨fun queue hop old sound runs => ?start, fun d s1 m run left desc => ?last, fun run left load acc => ?rows,
    fun cmd hop status runs => ?complete⟩
  case start =>
    have starts := exec_cpyStart_popped queue hop old sound runs
    refine ⟨fun many => starts.trans (congrArg _ (if_neg (Nat.not_lt.mpr many))), fun few => starts.trans (congrArg _ ?_)⟩
    exact (if_pos few).trans (startHead_of_cqueue queue)
  case last =>
    intro x at1 off b wide pwide
    refine ⟨fun load ls => ?_, fun store ls unfed => ?_⟩
    · have elements : (j.acc && !j.store) = false := by rw [ls]; rfl
      exact ⟨fun out unfed => exec_copyElementMove_last run left elements desc (moveElem_load load (readSegElem_outside out) pwide unfed),
        fun bs s2 inside read unfed =>
          exec_copyElementMove_last run left elements desc (moveElem_load load (readSegElem_inside inside wide read) pwide unfed)⟩
    · have elements : (j.acc && !j.store) = false := by rw [ls]; rfl
      exact ⟨fun out => exec_copyElementMove_last run left elements desc (moveElem_store_outside store out),
        fun s2 inside write =>
          exec_copyElementMove_last run left elements desc (moveElem_store_inside store ls inside pwide unfed (writeSegElem_stored wide write))⟩
  case rows =>
    intro y bank job mine s2 waits
    have rows : (j.acc && !j.store) = true := by rw [acc, load]; rfl
    refine ⟨fun d s1 l m s3 short desc words sound => ?_, fun full off => ?_⟩
    · exact (exec_copyElementMove_reads run left rows short desc).trans (congrArg _ (readRows_reads words sound))
    · have turn := exec_copyElementMove_row run left rows full
      exact ⟨fun kept => turn.trans (congrArg _ (moveRow_kept kept)), fun may wait => turn.trans (congrArg _ (moveRow_waits may off wait)),
        fun may now clear => turn.trans (congrArg _ (moveRow_lands may off now clear))⟩
  case complete =>
    exact ⟨exec_cpyCompletion_moves cmd hop, fun moved noPush =>
      (exec_cpyCompletion_moved cmd hop status runs moved).trans (congrArg _ (finishRunning_lowered cmd runs noPush))⟩

end Sys2Proof.Machine
end

section
/-! PROOFS. A page fault of a Suite bank: its entry and those ordered after it join the replay list, the first fault traps, and the bank switches away
once its queues are empty (R259, R360, R395). -/

namespace Sys2Proof.Machine

/-! ### A bank that is held with a trap (R354, R355) -/

section Held
variable (s : State) (u : SuiteId) (b : Fin 2) (t : Trap)

theorem bank_holdBank : (holdBank s (.bank u b) t).bank (.bank u b) =
    { s.bank (.bank u b) with traps := (s.bank (.bank u b)).traps ++ [t], trapAt := some s.cycle } :=
  ((postEvent_told ..).bank u b).trans (State.bank_modBank_same s _ _)

/-- The event of the trap goes to a queue, not to memory. -/
theorem mem_holdBank : (holdBank s (.bank u b) t).pkg.mem = s.pkg.mem := by
  obtain ⟨_, _, posted, -⟩ := postEvent_eq (s.modBank (.bank u b) fun x => { x with traps := x.traps ++ [t], trapAt := some s.cycle })
    (supervisor (tenantOf s (.bank u b))) evTrap (tenantOf s (.bank u b)).val (BankRef.bank u b).source (trapBits t)
  rw [holdBank, posted]
  simp only [State.modBank_pkg]

/-- A bank without a trap record is not held. -/
theorem heldBefore_noTraps {r : BankRef} (empty : (s.bank r).traps = []) : heldBefore s r = false := by simp [heldBefore, empty]

end Held

/-! ### The entries that a fault moves (R259, R360) -/

/-- A bank whose entry `e` has faulted: `e` and what R259 orders after it stand in the replay list, and the queues keep the rest. -/
def toReplay (e : QEntry) (x : Bank) : Bank :=
  let stays := fun (l : List QEntry) => l.filter fun f => !(faultClosure x e).any fun m => m.seq == f.seq
  { x with lq := stays x.lq, sq := stays x.sq, replay := sortSeq (x.replay ++ (faultClosure x e).map restartEntry) }

section Fault
variable {s : State} {u : SuiteId} {b : Fin 2} (e : QEntry) (cause : BitVec 8) (tval : Nat)

/-- A bank that is held for another trap detects no fault (R355). -/
theorem pageFault_held (other : (s.bank (.bank u b)).traps.any (fun f => f.cls == 1) = false) (held : heldBefore s (.bank u b) = true) :
    pageFault s (.bank u b) e cause tval = s := by
  simp only [pageFault, other, held, Bool.not_false, Bool.and_true, if_true]

/-- A fault of a bank that has trapped for one already raises no second trap (R360). -/
theorem pageFault_later (again : (s.bank (.bank u b)).traps.any (fun f => f.cls == 1) = true) :
    pageFault s (.bank u b) e cause tval = s.modBank (.bank u b) (toReplay e) := by
  simp only [pageFault, again, Bool.not_true, Bool.false_and, Bool.false_eq_true, if_false, if_true]
  rfl

/-- The first fault of a bank traps with the position of the A-stream, and the bank waits for its queues (R360). -/
theorem pageFault_first (first : (s.bank (.bank u b)).traps.any (fun f => f.cls == 1) = false) (free : heldBefore s (.bank u b) = false) :
    pageFault s (.bank u b) e cause tval =
      (queueTrap (s.modBank (.bank u b) (toReplay e)) (.bank u b) cause (BitVec.ofNat 64 tval) (s.bank (.bank u b)).sa.pos).modBank (.bank u b)
        fun y => { y with pageWait := true } := by
  simp only [pageFault, first, free, Bool.and_false, Bool.false_eq_true, if_false]
  rfl

/-- The bank after its first fault. -/
theorem bank_pageFault_first (first : (s.bank (.bank u b)).traps.any (fun f => f.cls == 1) = false) (free : heldBefore s (.bank u b) = false) :
    (pageFault s (.bank u b) e cause tval).bank (.bank u b) =
      { toReplay e (s.bank (.bank u b)) with
        traps := (s.bank (.bank u b)).traps ++
          [⟨cause, 1, 0, BitVec.ofNat 1 b.val, BitVec.ofNat 28 (s.bank (.bank u b)).sa.pos, BitVec.ofNat 64 tval⟩]
        trapAt := some s.cycle
        pageWait := true } := by
  rw [pageFault_first e cause tval first free, State.bank_modBank_same, queueTrap, bank_holdBank, State.bank_modBank_same, State.modBank_cycle]
  rfl

theorem mem_pageFault_first (first : (s.bank (.bank u b)).traps.any (fun f => f.cls == 1) = false) (free : heldBefore s (.bank u b) = false) :
    (pageFault s (.bank u b) e cause tval).pkg.mem = s.pkg.mem := by
  rw [pageFault_first e cause tval first free, State.modBank_pkg, queueTrap, mem_holdBank, State.modBank_pkg]

end Fault

/-! ### The switch (R360, step 5) -/

theorem exec_pageFaultBankSwitch_empty {s : State} {r : BankRef} (waits : (s.bank r).pageWait = true) (loads : (s.bank r).lq = [])
    (stores : (s.bank r).sq = []) :
    exec (.pageFaultBankSwitch r) s = .next (s.modBank r fun y => { y with pageWait := false, switched := true }) := by
  show execPageFaultBankSwitch r s = _
  simp only [execPageFaultBankSwitch, waits, loads, stores, List.isEmpty_nil, Bool.and_self, if_true]

/-- Settles O18: the first fault of a bank moves its entries and traps, a later one only moves them, and one of a bank held for another trap is not
detected; the switch is its event with both queues empty. -/
theorem pageFaultEntry : Obligations.PageFaultEntry := by
  unfold Obligations.PageFaultEntry
  refine ⟨fun s u b e cause tval => ⟨fun noTraps => ?first, fun again => ?later, pageFault_held e cause tval⟩,
    fun _ _ => exec_pageFaultBankSwitch_empty⟩
  case first =>
    have noFault : (s.bank (.bank u b)).traps.any (fun f => f.cls == 1) = false := by rw [noTraps]; rfl
    have free := heldBefore_noTraps s noTraps
    have bank := bank_pageFault_first e cause tval noFault free
    have mem := mem_pageFault_first e cause tval noFault free
    rw [noTraps] at bank
    rw [bank]
    exact ⟨⟨rfl, rfl, rfl, rfl, mem⟩, rfl, rfl⟩
  case later =>
    rw [pageFault_later e cause tval again, State.bank_modBank_same]
    exact ⟨⟨rfl, rfl, rfl, rfl, congrArg Package.mem (State.modBank_pkg ..)⟩, rfl⟩

end Sys2Proof.Machine
end

section
/-! PROOFS. Every step keeps the canonical form of every memory, and goes on: one rule per function of the model that answers a state, in the order
of the definitions. A rule says that the function keeps the canonical form; only the few writes of bytes have something to show, and the others
    hand on
what the functions that they call keep. -/

namespace Sys2Proof.Machine

/-- The canonical form of every memory, as a proposition. -/
def State.MemWf (s : State) : Prop := s.pkg.mem.wf = true ∧ ∀ u, (s.suite u).ls.wf = true

theorem memoriesWf_iff (s : State) : s.memoriesWf = true ↔ s.MemWf := by
  simp [State.memoriesWf, State.MemWf]

/-- A plan whose effects keep the canonical form. -/
structure Plan.Keeps (p : Plan) : Prop where
  act : ∀ {t : State}, t.MemWf → (p.act t).MemWf
  onHold : ∀ {t : State}, t.MemWf → (p.onHold t).MemWf

/-- An outcome that goes on to a next state, with the memories canonical where those of `s` are. -/
def Goes (s : State) (o : Host.Outcome State Fault Refusal) : Prop := ∃ t, o = .next t ∧ (s.MemWf → t.MemWf)

theorem Goes.next {s t : State} (h : s.MemWf → t.MemWf) : Goes s (.next t) := ⟨t, rfl, h⟩

theorem Goes.before {s t : State} {o : Host.Outcome State Fault Refusal} (h : s.MemWf → t.MemWf) (g : Goes t o) : Goes s o :=
  let ⟨z, e, k⟩ := g
  ⟨z, e, k ∘ h⟩

/-! ### Branches, pairs and folds -/

section
variable {α β : Type} {s t : State}

theorem memWf_ite {c : Prop} [Decidable c] (hs : s.MemWf) (ht : t.MemWf) : (if c then s else t).MemWf := by
  split
  · exact hs
  · exact ht

theorem memWf_snd {p : α × State} {a : α} (e : p = (a, s)) (w : p.2.MemWf) : s.MemWf := by rw [e] at w; exact w

theorem memWf_third {p : α × β × State} {a : α} {b : β} (e : p = (a, b, s)) (w : p.2.2.MemWf) : s.MemWf := by rw [e] at w; exact w

theorem memWf_fourth {γ : Type} {p : α × β × γ × State} {a : α} {b : β} {c : γ} (e : p = (a, b, c, s)) (w : p.2.2.2.MemWf) : s.MemWf := by
  rw [e] at w; exact w

theorem memWf_foldl {f : State → α → State} {l : List α} (hf : ∀ (t : State) (x : α), t.MemWf → (f t x).MemWf) (w : s.MemWf) :
    (l.foldl f s).MemWf := by
  induction l generalizing s with
  | nil => exact w
  | cons x l ih => exact ih (hf s x w)

theorem memWf_foldl_snd {f : α × State → β → α × State} {l : List β} {p : α × State} (hf : ∀ (q : α × State) (x : β), q.2.MemWf → (f q x).2.MemWf)
    (w : p.2.MemWf) : (l.foldl f p).2.MemWf := by
  induction l generalizing p with
  | nil => exact w
  | cons x l ih => exact ih (hf p x w)

end

/-! ### The parts of the state -/

section
variable {s : State}

/-- Only the Suites and the package hold memory. -/
theorem memWf_of_parts {t : State} (hs : t.suites = s.suites) (hp : t.pkg.mem = s.pkg.mem) (w : s.MemWf) : t.MemWf := by
  obtain ⟨hm, hl⟩ := w
  refine ⟨hp ▸ hm, fun u => ?_⟩
  have : t.suite u = s.suite u := congrArg (·.get u) hs
  exact this ▸ hl u

theorem memWf_setSuite {u : SuiteId} {x : Suite} (hx : x.ls.wf = true) (w : s.MemWf) : (s.setSuite u x).MemWf := by
  refine ⟨w.1, fun v => ?_⟩
  show ((s.suites.set u.val x u.isLt).get v).ls.wf = true
  rw [vget_set]
  split
  · exact hx
  · exact w.2 v

/-- A change of a Suite that leaves its Local Store. -/
theorem memWf_modSuite {u : SuiteId} {f : Suite → Suite} (hf : ∀ x, (f x).ls = x.ls) (w : s.MemWf) : (s.modSuite u f).MemWf :=
  memWf_setSuite ((congrArg Memory.wf (hf (s.suite u))).trans (w.2 u)) w

/-- A change of a Suite whose Local Store is canonical again. -/
theorem memWf_modSuite_ls {u : SuiteId} {f : Suite → Suite} (hf : ∀ x, x.ls.wf = true → (f x).ls.wf = true) (w : s.MemWf) : (s.modSuite u f).MemWf :=
  memWf_setSuite (hf _ (w.2 u)) w

/-- A change of all Suites that leaves every Local Store. -/
theorem memWf_mapSuites {f : Suite → Suite} (hf : ∀ x, (f x).ls = x.ls) (w : s.MemWf) : State.MemWf { s with suites := s.suites.map f } := by
  refine ⟨w.1, fun u => ?_⟩
  have : (s.suites.map f).get u = f (s.suite u) := by simp [Vector.get, State.suite]
  show ((s.suites.map f).get u).ls.wf = true
  rw [this, hf]
  exact w.2 u

theorem memWf_setRoom {u : SuiteId} {x : Room} (w : s.MemWf) : (s.setRoom u x).MemWf := w
theorem memWf_modRoom {u : SuiteId} {f : Room → Room} (w : s.MemWf) : (s.modRoom u f).MemWf := w
theorem memWf_setCtx {c : CtxId} {x : Ctx} (w : s.MemWf) : (s.setCtx c x).MemWf := w
theorem memWf_modCtx {c : CtxId} {f : Ctx → Ctx} (w : s.MemWf) : (s.modCtx c f).MemWf := w
theorem memWf_setTenant {c : TenantId} {x : Tenant} (w : s.MemWf) : (s.setTenant c x).MemWf := w
theorem memWf_modTenant {c : TenantId} {f : Tenant → Tenant} (w : s.MemWf) : (s.modTenant c f).MemWf := w

/-- A change of the package that leaves the bytes of its memory. -/
theorem memWf_modPkg {f : Package → Package} (hf : ∀ p, (f p).mem = p.mem) (w : s.MemWf) : (s.modPkg f).MemWf :=
  ⟨(congrArg Memory.wf (hf s.pkg)).trans w.1, w.2⟩

theorem memWf_setBank {r : BankRef} {x : Bank} (w : s.MemWf) : (s.setBank r x).MemWf := by
  cases r with
  | bank u b => exact memWf_setSuite (w.2 u) w
  | ctx c => exact memWf_setCtx w

theorem memWf_modBank {r : BankRef} {f : Bank → Bank} (w : s.MemWf) : (s.modBank r f).MemWf := memWf_setBank w

theorem memWf_modStream {ag : Agent} {f : Stream → Stream} (w : s.MemWf) : (s.modStream ag f).MemWf := memWf_modBank w

/-! ### The writes of bytes -/

/-- A fold of writes keeps the canonical form of one memory. -/
theorem wf_foldl {α : Type} {f : Memory → α → Memory} (hf : ∀ m x, m.wf = true → (f m x).wf = true) :
    ∀ (l : List α) {m : Memory}, m.wf = true → (l.foldl f m).wf = true
  | [], _, w => w
  | x :: l, m, w => wf_foldl hf l (hf m x w)

/-- A change of the package whose memory is canonical again. -/
theorem memWf_modPkg_mem {f : Package → Package} (hf : (f s.pkg).mem.wf = true) (w : s.MemWf) : (s.modPkg f).MemWf := ⟨hf, w.2⟩

theorem memWf_rewriteUnit {slot unit : Nat} (w : s.MemWf) : (rewriteUnit slot s unit).MemWf :=
  memWf_modPkg_mem (hbmWrite_wf _ _ _ w.1) w

/-- As O8 has it of a write to a Local Store. -/
theorem memWf_lsWrite {u : SuiteId} {a : Nat} {bs : List Byte} (w : s.MemWf) : (lsWrite s u a bs).MemWf := by
  obtain ⟨_, localStores⟩ := memoryWrites
  obtain ⟨hls, hmem, _⟩ := localStores s u a bs w.2
  exact ⟨hmem.symm ▸ w.1, hls⟩

end

theorem memWf_reset : State.reset.MemWf :=
  ⟨rfl, fun u => by simp [State.reset, State.suite, Vector.get, Suite.reset, Memory.wf, memWfFrom]⟩

theorem memWf_writeA {s : State} {ag : Agent} {n : BitVec 5} {v : Word} (wf : s.MemWf) : (writeA s ag n v).MemWf :=
  memWf_ite (memWf_modSuite (fun _ => rfl) wf) (memWf_ite wf (memWf_modBank wf))

theorem memWf_writeE {s : State} {ag : Agent} {n : BitVec 4} {v : Word} (wf : s.MemWf) : (writeE s ag n v).MemWf :=
  memWf_modBank wf

theorem memWf_doneFor {s : State} {r : BankRef} {k : StreamKind} {dn : BitVec 4} (wf : s.MemWf) : (doneFor s r k dn).MemWf :=
  memWf_ite (memWf_modBank wf) wf

theorem memWf_chooseBelow {s : State} {n : Nat} (wf : s.MemWf) : (chooseBelow s n).2.MemWf :=
  wf

theorem memWf_countLost {s : State} {a : Nat} (wf : s.MemWf) : (countLost s a).MemWf :=
  memWf_ite (memWf_modPkg (fun _ => rfl) wf) wf

theorem memWf_countErr {s : State} {p : Tenant → Bool} (wf : s.MemWf) : (countErr s p).MemWf :=
  wf

theorem memWf_countCe {s : State} (wf : s.MemWf) : (countCe s).MemWf :=
  memWf_modPkg (fun _ => rfl) (memWf_countErr wf)

theorem memWf_correctErrors {s : State} {a : Nat} {n : Nat} (wf : s.MemWf) : (correctErrors s a n).MemWf :=
  memWf_ite wf (memWf_foldl (fun _ _ wf1 => memWf_countCe wf1) (memWf_modPkg (fun _ => rfl) wf))

theorem memWf_triggerMonitors {s : State} {line : Nat} (wf : s.MemWf) : (triggerMonitors s line).MemWf :=
  memWf_modPkg (fun _ => rfl) wf

theorem memWf_nameSetter {setter : Nat} {s : State} {word : Nat} (wf : s.MemWf) : (nameSetter setter s word).MemWf :=
  memWf_modPkg (fun _ => rfl) wf

theorem memWf_physWrite {s : State} {slot a : Nat} {bs : List Byte} {setter : Nat} (wf : s.MemWf) : (physWrite s slot a bs setter).MemWf := by
  unfold physWrite
  split
  · exact wf
  · refine memWf_foldl (fun _ _ wf1 => memWf_triggerMonitors wf1) (memWf_foldl (fun _ _ wf1 => memWf_nameSetter wf1) (memWf_countLost ?_))
    have ready := memWf_foldl (l := unitsOf a bs.length 16) (fun t x wf1 => memWf_rewriteUnit (slot := slot) (unit := x) (s := t) wf1)
      (memWf_foldl (l := (unitsOf a bs.length 64).filter s.pkg.poison.contains)
        (fun t l wf1 => memWf_foldl (l := List.range 4) (fun t i wf2 => memWf_rewriteUnit (slot := slot) (unit := l * 4 + i) (s := t) wf2) wf1) wf)
    exact memWf_modPkg_mem (hbmWrite_wf _ _ _ ready.1) ready

theorem memWf_physRead {s : State} {slot : Nat} {a : Nat} {n : Nat} (wf : s.MemWf) : (physRead s slot a n).2.MemWf :=
  memWf_countLost (memWf_correctErrors wf)

theorem memWf_devFetch {s : State} {a : Nat} {n : Nat} (wf : s.MemWf) : (devFetch s a n).2.MemWf :=
  memWf_countLost (memWf_correctErrors wf)

theorem memWf_devWrite {s : State} {a : Nat} {bs : List Byte} (wf : s.MemWf) : (devWrite s a bs).MemWf :=
  memWf_foldl (fun _ _ wf1 => memWf_triggerMonitors wf1) (memWf_foldl (fun _ _ wf1 => memWf_nameSetter wf1)
    (memWf_countLost (memWf_modPkg_mem (hbmWrite_wf _ _ _ (wf_foldl (fun _ _ w => hbmWrite_wf _ _ _ w) _ wf.1)) wf)))

theorem memWf_getDesc {s : State} {t : TenantId} {seg : Nat} (wf : s.MemWf) : (getDesc s t seg).2.MemWf := by
  unfold getDesc
  split
  split
  · exact wf
  · dsimp only
    split
    · split
      · exact wf
      · dsimp only
        exact memWf_chooseBelow wf
    · split
      · refine memWf_devFetch ?_
        split
        · exact wf
        · exact memWf_chooseBelow wf
      · split
        · exact memWf_ite (memWf_devFetch wf) (memWf_modPkg (fun _ => rfl) (memWf_devFetch wf))
        · exact memWf_ite (memWf_devFetch (memWf_chooseBelow wf)) (memWf_modPkg (fun _ => rfl) (memWf_devFetch (memWf_chooseBelow wf)))

theorem memWf_getPte {s : State} {t : TenantId} {seg : Nat} {idx : Nat} {d : Desc} (wf : s.MemWf) : (getPte s t seg idx d).2.MemWf := by
  unfold getPte
  dsimp only
  split
  · split
    · exact wf
    · dsimp only
      exact memWf_chooseBelow wf
  · split
    · exact memWf_ite (memWf_modPkg (fun _ => rfl) (memWf_devFetch wf)) (memWf_devFetch wf)
    · exact memWf_ite (memWf_modPkg (fun _ => rfl) (memWf_devFetch (memWf_chooseBelow wf))) (memWf_devFetch (memWf_chooseBelow wf))

theorem memWf_markPte {s : State} {t : TenantId} {seg : Nat} {idx : Nat} {d : Desc} {e : Word} {write : Bool} (wf : s.MemWf) :
    (markPte s t seg idx d e write).MemWf :=
  memWf_ite wf (memWf_modPkg (fun _ => rfl) (memWf_devWrite (memWf_countLost (memWf_correctErrors wf))))

theorem memWf_translate {s : State} {t : TenantId} {seg : Nat} {d : Desc} {off : Nat} {write : Bool} {cross : Bool} (wf : s.MemWf) :
    (translate s t seg d off write cross).2.MemWf := by
  unfold translate
  split
  · exact wf
  · split
    · exact wf
    · split
      rename_i e1
      split
      · exact memWf_snd e1 (memWf_getPte wf)
      · split
        · dsimp only
          split
          · exact memWf_snd e1 (memWf_getPte wf)
          · split
            · exact memWf_snd e1 (memWf_getPte wf)
            · exact memWf_snd e1 (memWf_getPte wf)
        · dsimp only
          split
          · exact memWf_snd e1 (memWf_getPte wf)
          · split
            · exact memWf_snd e1 (memWf_getPte wf)
            · split
              · split
                · exact memWf_snd e1 (memWf_getPte wf)
                · split
                  · exact memWf_snd e1 (memWf_getPte wf)
                  · exact memWf_markPte (memWf_snd e1 (memWf_getPte wf))
              · exact memWf_snd e1 (memWf_getPte wf)

theorem memWf_translateVa {s : State} {t : TenantId} {va : Nat} {write : Bool} (wf : s.MemWf) : (translateVa s t va write).2.MemWf := by
  unfold translateVa
  dsimp only
  split
  · exact memWf_getDesc wf
  · exact memWf_translate (memWf_getDesc wf)

theorem memWf_l1Clear {s : State} {u : SuiteId} (wf : s.MemWf) : (l1Clear s u).MemWf :=
  memWf_modSuite (fun _ => rfl) wf

theorem memWf_l1ClearSeg {s : State} {t : TenantId} {p : Nat → Bool} (wf : s.MemWf) : (l1ClearSeg s t p).MemWf :=
  memWf_mapSuites (fun _ => rfl) wf

theorem memWf_l1DropLine {s : State} {u : SuiteId} {t : TenantId} {seg : Nat} {line : Nat} (wf : s.MemWf) : (l1DropLine s u t seg line).MemWf :=
  memWf_modSuite (fun _ => rfl) wf

theorem memWf_l1Update {s : State} {u : SuiteId} {t : TenantId} {seg : Nat} {off : Nat} {frame : Nat} {bs : List Byte} (wf : s.MemWf) :
    (l1Update s u t seg off frame bs).MemWf :=
  memWf_modSuite (fun _ => rfl) wf

theorem memWf_countEvents {s : State} {r : BankRef} {code : Nat} {n : Nat} (wf : s.MemWf) : (countEvents s r code n).MemWf := by
  unfold countEvents
  split
  · exact wf
  · split
    · exact memWf_ite wf (memWf_modSuite (fun _ => rfl) wf)
    · exact memWf_ite (memWf_modCtx wf) wf

theorem memWf_modL2 {s : State} {line : Nat} {f : L2Port → L2Port} (wf : s.MemWf) : (modL2 s line f).MemWf :=
  memWf_modPkg (fun _ => rfl) wf

theorem memWf_requestL2 {s : State} {t : TenantId} {who : Asker} {line : Nat} (wf : s.MemWf) : (requestL2 s t who line).MemWf :=
  memWf_modL2 wf

theorem memWf_l2AskFor {s : State} {w : Asker} {t : TenantId} {line : Nat} (wf : s.MemWf) : (l2AskFor s w t line).MemWf :=
  memWf_ite wf (memWf_requestL2 wf)

theorem memWf_l2Use {s : State} {w : Asker} {line : Nat} (wf : s.MemWf) : (l2Use s w line).MemWf :=
  memWf_modL2 wf

theorem memWf_l2Ask {s : State} {r : BankRef} {t : TenantId} {line : Nat} (wf : s.MemWf) : (l2Ask s r t line).MemWf :=
  memWf_l2AskFor wf

theorem memWf_countL2 {s : State} {r : BankRef} {line : Nat} (wf : s.MemWf) : (countL2 s r line).MemWf := by
  unfold countL2
  split
  · exact memWf_l2Use wf
  · exact memWf_countEvents (memWf_l2Use wf)

theorem memWf_l1Refresh {s : State} {r : BankRef} {t : TenantId} {seg : Nat} {off : Nat} {frame : Nat} {bs : List Byte} (wf : s.MemWf) :
    (l1Refresh s r t seg off frame bs).MemWf := by
  unfold l1Refresh
  split
  · exact memWf_l1Update wf
  · exact wf

theorem memWf_l1Hit {s : State} {r : BankRef} {t : TenantId} {seg : Nat} {line : Nat} {home : Nat} {bypass : Bool} (wf : s.MemWf) :
    (l1Hit s r t seg line home bypass).2.MemWf := by
  unfold l1Hit
  split
  · exact wf
  · split
    · exact wf
    · split
      · exact wf
      · split
        · exact wf
        · exact wf

theorem memWf_loadBytes {s : State} {r : BankRef} {t : TenantId} {seg : Nat} {d : Desc} {off : Nat} {n : Nat} {bypass : Bool}
    {cross : Bool} (wf : s.MemWf) :
    (loadBytes s r t seg d off n bypass cross).2.MemWf := by
  unfold loadBytes
  split
  · rename_i e
    exact memWf_snd e (memWf_translate wf)
  · rename_i e
    exact memWf_snd e (memWf_translate wf)
  · rename_i e
    split
    · rename_i e1
      exact memWf_snd e1 (memWf_l1Hit (memWf_snd e (memWf_translate wf)))
    · rename_i e1
      split
      · exact memWf_l2Ask (memWf_snd e1 (memWf_l1Hit (memWf_snd e (memWf_translate wf))))
      · split
        · exact memWf_countL2 (memWf_countLost (memWf_correctErrors (memWf_snd e1 (memWf_l1Hit (memWf_snd e (memWf_translate wf))))))
        · split
          · exact memWf_l1Refresh (memWf_countL2 (memWf_countLost (memWf_correctErrors (memWf_snd e1 (memWf_l1Hit (memWf_snd e
              (memWf_translate wf)))))))
          · exact memWf_countL2 (memWf_modSuite (fun _ => rfl) (memWf_countLost (memWf_correctErrors (memWf_snd e1 (memWf_l1Hit (memWf_snd e
              (memWf_translate wf)))))))

theorem memWf_storeBytes {s : State} {r : BankRef} {t : TenantId} {seg : Nat} {d : Desc} {off : Nat} {bs : List Byte} {setter : Nat}
    {cross : Bool} (wf : s.MemWf) :
    (storeBytes s r t seg d off bs setter cross).2.MemWf := by
  unfold storeBytes
  split
  · rename_i e
    exact memWf_snd e (memWf_translate wf)
  · rename_i e
    exact memWf_snd e (memWf_translate wf)
  · rename_i e
    split
    · exact memWf_l2Ask (memWf_snd e (memWf_translate wf))
    · split
      · exact memWf_countL2 (memWf_physWrite (memWf_snd e (memWf_translate wf)))
      · exact memWf_countL2 (memWf_l1Update (memWf_physWrite (memWf_snd e (memWf_translate wf))))

theorem memWf_loadSeg {s : State} {t : TenantId} {seg : Nat} {d : Desc} {off : Nat} {k : Nat} (wf : s.MemWf) :
    (loadSeg s t seg d off k).2.MemWf := by
  induction k generalizing s t seg d off wf with
  | zero =>
    unfold loadSeg
    exact wf
  | succ n ih =>
    unfold loadSeg
    split
    · rename_i e
      exact memWf_snd e (memWf_translate wf)
    · rename_i e
      exact memWf_snd e (memWf_translate wf)
    · rename_i e
      split
      rename_i e1
      split
      · rename_i e2
        exact memWf_snd e2 (ih (memWf_snd e1 (memWf_physRead (memWf_snd e (memWf_translate wf)))))
      · exact ih (memWf_snd e1 (memWf_physRead (memWf_snd e (memWf_translate wf))))

theorem memWf_loadVa {s : State} {t : TenantId} {va : Nat} {n : Nat} (wf : s.MemWf) : (loadVa s t va n).2.MemWf := by
  unfold loadVa
  split
  · rename_i e
    exact memWf_snd e (memWf_getDesc wf)
  · rename_i e
    exact memWf_loadSeg (memWf_snd e (memWf_getDesc wf))

theorem memWf_storeVa {s : State} {t : TenantId} {va : Nat} {bs : List Byte} {setter : Nat} (wf : s.MemWf) : (storeVa s t va bs setter).2.MemWf := by
  unfold storeVa
  split
  · rename_i e
    exact memWf_snd e (memWf_getDesc wf)
  · rename_i e
    split
    · rename_i e1
      exact memWf_snd e1 (memWf_translate (memWf_snd e (memWf_getDesc wf)))
    · rename_i e1
      exact memWf_snd e1 (memWf_translate (memWf_snd e (memWf_getDesc wf)))
    · rename_i e1
      exact memWf_physWrite (memWf_snd e1 (memWf_translate (memWf_snd e (memWf_getDesc wf))))

theorem memWf_storeVaBy {s : State} {w : Asker} {bucket : TenantId} {t : TenantId} {va : Nat} {bs : List Byte} {setter : Nat} (wf : s.MemWf) :
    (storeVaBy s w bucket t va bs setter).2.MemWf := by
  unfold storeVaBy
  split
  · rename_i e
    exact memWf_snd e (memWf_getDesc wf)
  · rename_i e
    split
    · rename_i e1
      exact memWf_snd e1 (memWf_translate (memWf_snd e (memWf_getDesc wf)))
    · rename_i e1
      exact memWf_snd e1 (memWf_translate (memWf_snd e (memWf_getDesc wf)))
    · rename_i e1
      split
      · exact memWf_physWrite (memWf_l2Use (memWf_snd e1 (memWf_translate (memWf_snd e (memWf_getDesc wf)))))
      · exact memWf_l2AskFor (memWf_snd e1 (memWf_translate (memWf_snd e (memWf_getDesc wf))))

theorem memWf_loadVaBy {s : State} {w : Asker} {bucket : TenantId} {t : TenantId} {va : Nat} {n : Nat} (wf : s.MemWf) :
    (loadVaBy s w bucket t va n).2.MemWf := by
  unfold loadVaBy
  split
  · rename_i e
    exact memWf_snd e (memWf_getDesc wf)
  · rename_i e
    split
    · rename_i e1
      exact memWf_snd e1 (memWf_translate (memWf_snd e (memWf_getDesc wf)))
    · rename_i e1
      exact memWf_snd e1 (memWf_translate (memWf_snd e (memWf_getDesc wf)))
    · rename_i e1
      split
      · exact memWf_countLost (memWf_correctErrors (memWf_l2Use (memWf_snd e1 (memWf_translate (memWf_snd e (memWf_getDesc wf))))))
      · exact memWf_l2AskFor (memWf_snd e1 (memWf_translate (memWf_snd e (memWf_getDesc wf))))

theorem memWf_dropAccErrors {s : State} {u : SuiteId} {k : Fin 32} {row : Fin 128} {p : Fin 128 → Bool} (wf : s.MemWf) :
    (dropAccErrors s u k row p).MemWf :=
  memWf_ite wf (memWf_modPkg (fun _ => rfl) wf)

theorem memWf_accRead {s : State} {u : SuiteId} {k : Fin 32} {row : Fin 128} {col : Fin 128} (wf : s.MemWf) : (accRead s u k row col).2.MemWf := by
  unfold accRead
  split
  · exact wf
  · exact memWf_modRoom (memWf_countErr (memWf_dropAccErrors wf))
  · exact memWf_modRoom (memWf_countErr wf)

theorem memWf_accReadRow {s : State} {u : SuiteId} {k : Fin 32} {row : Fin 128} (wf : s.MemWf) : (accReadRow s u k row).2.MemWf := by
  unfold accReadRow
  refine memWf_foldl_snd (fun q1 x1 wf1 => ?_) wf
  split
  · exact wf1
  · split
    rename_i e
    exact memWf_snd e (memWf_accRead wf1)

theorem memWf_accReadHalf {s : State} {u : SuiteId} {k : Fin 32} {h : Bool} {rows : Fin 128 → Bool} (wf : s.MemWf) :
    (accReadHalf s u k h rows).2.MemWf := by
  unfold accReadHalf
  refine memWf_foldl_snd (fun q1 x1 wf1 => ?_) wf
  refine memWf_foldl_snd (fun q2 x2 wf2 => ?_) wf1
  split
  · exact wf2
  · split
    rename_i e
    exact memWf_snd e (memWf_accRead wf2)

theorem memWf_sendHost {s : State} {kind : Nat} {tenant : Nat} {tag : Nat} {bytes : List Byte} (wf : s.MemWf) :
    (sendHost s kind tenant tag bytes).MemWf :=
  memWf_countEvents (memWf_modPkg (fun _ => rfl) wf)

theorem memWf_hostFlits {s : State} {n : Nat} (wf : s.MemWf) : (hostFlits s n).MemWf :=
  memWf_countEvents wf

theorem memWf_postEvent {s : State} {target : CtxId} {kind : Nat} {tenant : Nat} {source : Nat} {payload : BitVec 128} (wf : s.MemWf) :
    (postEvent s target kind tenant source payload).MemWf :=
  memWf_ite (memWf_sendHost (memWf_modCtx (memWf_modPkg (fun _ => rfl) wf))) (memWf_modCtx (memWf_modPkg (fun _ => rfl) wf))

theorem memWf_forwardHeld {s : State} {c : CtxId} (wf : s.MemWf) : (forwardHeld s c).MemWf :=
  memWf_modCtx (memWf_foldl (fun _ _ wf1 => memWf_ite wf1 (memWf_sendHost wf1)) wf)

theorem memWf_postHostEvent {s : State} {kind : Nat} {tenant : Nat} {source : Nat} {payload : BitVec 128} (wf : s.MemWf) :
    (postHostEvent s kind tenant source payload).MemWf :=
  memWf_sendHost (memWf_modPkg (fun _ => rfl) wf)

theorem memWf_writeRecord {s : State} {t : TenantId} {bytes : List Byte} (wf : s.MemWf) : (writeRecord s t bytes).MemWf :=
  memWf_modTenant wf

theorem memWf_writePending {t : TenantId} {ps : List (List Byte)} {s : State} (wf : s.MemWf) : (writePending t ps s).MemWf := by
  induction ps generalizing t s wf with
  | nil =>
    unfold writePending
    exact memWf_modTenant wf
  | cons x l ih =>
    unfold writePending
    dsimp only
    split
    · exact ih wf
    · split
      · rename_i e
        exact ih (memWf_modTenant (memWf_snd e (memWf_storeVaBy wf)))
      · rename_i e
        exact memWf_modTenant (memWf_snd e (memWf_storeVaBy wf))
      · rename_i e
        exact ih (memWf_modTenant (memWf_snd e (memWf_storeVaBy wf)))

theorem memWf_traceFlush {s : State} {t : TenantId} (wf : s.MemWf) : (traceFlush s t).MemWf :=
  memWf_ite wf (memWf_writePending wf)

theorem memWf_waitRecord {s : State} {ag : Agent} {flag : Nat} {count : Nat} {setter : Nat} {sub : Nat} (wf : s.MemWf) :
    (waitRecord s ag flag count setter sub).MemWf :=
  memWf_ite (memWf_writeRecord wf) wf

theorem memWf_rangeRecord {s : State} {ag : Agent} {kind : Nat} {label : W16} (wf : s.MemWf) : (rangeRecord s ag kind label).MemWf :=
  memWf_ite (memWf_writeRecord wf) wf

theorem memWf_debugRecord {s : State} {t : TenantId} {v : Option Visit} {label : W16} {ag : Agent} {kind : Nat} {flag : Nat} {count : Nat}
    (wf : s.MemWf) :
    (debugRecord s t v label ag kind flag count).MemWf :=
  memWf_ite (memWf_writeRecord wf) wf

theorem memWf_requestStop {s : State} {l : List SuiteId} {room : Bool} {core : Bool} (wf : s.MemWf) : (requestStop s l room core).MemWf :=
  memWf_modPkg (fun _ => rfl) wf

theorem memWf_stopClocks {s : State} {u : SuiteId} {room : Bool} {core : Bool} (wf : s.MemWf) : (stopClocks s u room core).MemWf :=
  memWf_ite (memWf_modPkg (fun _ => rfl) (memWf_modSuite (fun _ => rfl) (memWf_ite (memWf_modRoom wf) wf))) (memWf_ite (memWf_modRoom wf) wf)

theorem memWf_applyStops {s : State} (wf : s.MemWf) : (applyStops s).MemWf :=
  memWf_foldl (fun _ _ wf1 => memWf_stopClocks wf1) (memWf_modPkg (fun _ => rfl) wf)

theorem memWf_debugStop {s : State} {ag : Agent} {u : SuiteId} {lid : Nat} {n : Nat} (wf : s.MemWf) : (debugStop s ag u lid n).MemWf :=
  memWf_postEvent (memWf_debugRecord (memWf_requestStop (memWf_modSuite (fun _ => rfl) wf)))

theorem memWf_loopIteration {s : State} {ag : Agent} {lid : Nat} {n : Nat} (wf : s.MemWf) : (loopIteration s ag lid n).MemWf := by
  unfold loopIteration
  split
  · split
    · exact memWf_ite (memWf_writeRecord wf) wf
    · exact memWf_ite (memWf_debugStop (memWf_ite (memWf_writeRecord wf) wf)) (memWf_ite (memWf_writeRecord wf) wf)
  · split
    · exact memWf_ite (memWf_writeRecord wf) wf
    · exact memWf_ite (memWf_debugStop (memWf_ite (memWf_writeRecord wf) wf)) (memWf_ite (memWf_writeRecord wf) wf)

theorem memWf_watchAs {s : State} {t : TenantId} {v : Option Visit} {label : W16} {u : SuiteId} {ag : Agent} {store : Bool} {lo : Nat}
    {n : Nat} (wf : s.MemWf) :
    (watchAs s t v label u ag store lo n).MemWf :=
  memWf_ite (memWf_postEvent (memWf_debugRecord wf)) wf

theorem memWf_watchAccess {s : State} {ag : Agent} {store : Bool} {lo : Nat} {n : Nat} (wf : s.MemWf) : (watchAccess s ag store lo n).MemWf := by
  unfold watchAccess
  split
  · exact wf
  · exact memWf_watchAs wf

theorem memWf_setPos {s : State} {ag : Agent} {p : Nat} (wf : s.MemWf) : (setPos s ag p).MemWf := by
  unfold setPos
  split
  · exact memWf_modSuite (fun _ => rfl) wf
  · exact memWf_modRoom wf
  · exact memWf_modStream wf

theorem memWf_stopContext {s : State} {c : CtxId} {rec : Option Trap} (wf : s.MemWf) : (stopContext s c rec).MemWf := by
  unfold stopContext
  split
  · split
    · exact memWf_postHostEvent (memWf_postHostEvent (memWf_modCtx wf))
    · exact memWf_postHostEvent (memWf_modCtx wf)
  · split
    · split
      · exact memWf_postEvent (memWf_postEvent (memWf_modCtx wf))
      · exact memWf_postEvent (memWf_modCtx wf)
    · split
      · exact memWf_postEvent (memWf_postEvent (memWf_modCtx wf))
      · exact memWf_postEvent (memWf_modCtx wf)

theorem memWf_stewardTrap {s : State} {c : CtxId} {k : StreamKind} {t : Trap} (wf : s.MemWf) : (stewardTrap s c k t).MemWf := by
  unfold stewardTrap
  split
  · dsimp only
    split
    · exact memWf_stopContext wf
    · split
      · rename_i e1
        exact memWf_modStream (memWf_snd e1 (memWf_storeVa wf))
      · rename_i e1
        exact memWf_modCtx (memWf_snd e1 (memWf_storeVa wf))
      · rename_i e1
        exact memWf_stopContext (memWf_snd e1 (memWf_storeVa wf))
  · dsimp only
    split
    · exact memWf_stopContext wf
    · split
      · rename_i e
        exact memWf_modStream (memWf_snd e (memWf_storeVa wf))
      · rename_i e
        exact memWf_snd e (memWf_storeVa wf)
      · rename_i e
        exact memWf_stopContext (memWf_snd e (memWf_storeVa wf))

theorem memWf_retryTrap {s : State} {c : CtxId} (wf : s.MemWf) : (retryTrap s c).MemWf := by
  unfold retryTrap
  split
  · exact wf
  · exact memWf_ite (memWf_modCtx (memWf_stewardTrap (memWf_modCtx wf))) (memWf_stewardTrap (memWf_modCtx wf))

theorem memWf_stewardReturn {s : State} {c : CtxId} {k : StreamKind} {ret : Nat} (wf : s.MemWf) : (stewardReturn s c k ret).MemWf := by
  unfold stewardReturn
  dsimp only
  split
  · rename_i e
    exact memWf_modStream (memWf_modBank (memWf_snd e (memWf_loadVa wf)))
  · rename_i e
    exact memWf_snd e (memWf_loadVa wf)
  · rename_i e
    exact memWf_stopContext (memWf_snd e (memWf_loadVa wf))

theorem memWf_holdBank {s : State} {r : BankRef} {t : Trap} (wf : s.MemWf) : (holdBank s r t).MemWf :=
  memWf_postEvent (memWf_modBank wf)

theorem memWf_takeTrap {s : State} {ag : Agent} {cause : BitVec 8} {tval : Word} {ret : Nat} (wf : s.MemWf) :
    (takeTrap s ag cause tval ret).MemWf := by
  unfold takeTrap
  split
  · exact memWf_ite (memWf_holdBank wf) (memWf_stewardTrap wf)
  · exact memWf_ite wf (memWf_ite (memWf_modSuite (fun _ => rfl) (memWf_holdBank wf)) (memWf_holdBank wf))

theorem memWf_engineTrap {s : State} {u : SuiteId} {b : Fin 2} {e : Engine} {cause : BitVec 8} {qpos : Nat} {ret : Nat} (wf : s.MemWf) :
    (engineTrap s u b e cause qpos ret).MemWf :=
  memWf_ite (memWf_modBank wf) (memWf_holdBank wf)

theorem memWf_queueTrap {s : State} {r : BankRef} {cause : BitVec 8} {tval : Word} {ret : Nat} (wf : s.MemWf) :
    (queueTrap s r cause tval ret).MemWf :=
  memWf_holdBank wf

theorem memWf_externalTrap {s : State} {target : CtxId} {cause : BitVec 8} {tenant : Nat} {source : Nat} {tval : Word} (wf : s.MemWf) :
    (externalTrap s target cause tenant source tval).MemWf :=
  memWf_postEvent wf

theorem memWf_setCounters {s : State} {r : BankRef} {x : Counters} (wf : s.MemWf) : (setCounters s r x).MemWf := by
  unfold setCounters
  split
  · exact memWf_modSuite (fun _ => rfl) wf
  · exact memWf_modCtx wf

/-- The registers of a Steward context that CSR_WRITE sets. -/
theorem memWf_csrSet {s : State} {ag : Agent} {num : Nat} {v : Word} (wf : s.MemWf) : (csrSet s ag num v).MemWf := by
  unfold csrSet
  dsimp only
  have counters : ∀ c, (setCounters s ag.bank c).MemWf := fun _ => memWf_setCounters wf
  refine memWf_ite (memWf_modStream wf) <| memWf_ite (memWf_modStream wf) <| memWf_ite (memWf_modStream wf) <| memWf_ite (memWf_modStream wf) <|
    memWf_ite (memWf_modStream wf) <| memWf_ite (memWf_modStream wf) <| memWf_ite (memWf_modStream wf) <| memWf_ite (memWf_modStream wf) <|
    memWf_ite (counters _) <| memWf_ite (memWf_ite wf (counters _)) <| memWf_ite (counters _) ?_
  cases ag.bank with
  | bank u b =>
    exact memWf_ite (memWf_modSuite (fun _ => rfl) wf) <| memWf_ite (memWf_modSuite (fun _ => rfl) wf) <|
      memWf_ite (memWf_modSuite (fun _ => rfl) wf) wf
  | ctx c =>
    have pkg : ∀ (f : Package → Package), (∀ p, (f p).mem = p.mem) → (s.modPkg f).MemWf := fun _ h => memWf_modPkg h wf
    refine memWf_ite (memWf_modTenant wf) <| memWf_ite (memWf_modTenant wf) <| memWf_ite (memWf_modTenant wf) <| memWf_ite (memWf_modTenant wf) <|
      memWf_ite (memWf_modTenant wf) <| memWf_ite (memWf_modTenant wf) <| memWf_ite (memWf_modCtx wf) <| memWf_ite (memWf_modCtx wf) <|
      memWf_ite (memWf_modCtx (pkg _ fun _ => rfl)) <| memWf_ite (pkg _ fun _ => rfl) <|
      memWf_ite (memWf_ite (memWf_forwardHeld (memWf_modCtx wf)) (memWf_modCtx wf)) <| memWf_ite (memWf_modCtx wf) <|
      memWf_ite (pkg _ fun _ => rfl) <| memWf_ite (memWf_modTenant wf) <| memWf_ite (memWf_modTenant wf) <| memWf_ite (pkg _ fun _ => rfl) <|
      memWf_ite (pkg _ fun _ => rfl) <| memWf_ite (memWf_ite (pkg _ fun _ => rfl) wf) <| memWf_ite (memWf_ite (pkg _ fun _ => rfl) wf) <|
      memWf_ite (pkg _ fun _ => rfl) <| memWf_ite (memWf_ite (memWf_modTenant wf) wf) <| memWf_ite (memWf_ite (memWf_modTenant wf) wf) <|
      memWf_ite (memWf_ite (memWf_modTenant wf) wf) wf

theorem memWf_ologAdvance {s : State} {t : TenantId} {source : Nat} (wf : s.MemWf) : (ologAdvance s t source).MemWf := by
  unfold ologAdvance
  split
  · exact memWf_modSuite (fun _ => rfl) (memWf_modTenant wf)
  · exact memWf_modTenant wf

theorem memWf_ologSkip {t : TenantId} {k : Nat} {s : State} (wf : s.MemWf) : (ologSkip t k s).MemWf := by
  induction k generalizing t s wf with
  | zero =>
    unfold ologSkip
    exact wf
  | succ n ih =>
    unfold ologSkip
    exact memWf_ite (ih (memWf_modTenant wf)) wf

theorem memWf_logFull {s : State} {t : TenantId} {source : Nat} (wf : s.MemWf) : (logFull s t source).MemWf :=
  memWf_ite (memWf_externalTrap (memWf_modTenant wf)) wf

theorem memWf_ologRecord {s : State} {t : TenantId} {kind : Nat} {source : Nat} {value : Nat} (wf : s.MemWf) :
    (ologRecord s t kind source value).2.MemWf := by
  unfold ologRecord
  split
  · rename_i e
    exact memWf_ologAdvance (memWf_snd e (memWf_storeVaBy wf))
  · rename_i e
    exact memWf_snd e (memWf_storeVaBy wf)

theorem memWf_ologTake {s : State} {t : TenantId} {kind : Nat} {source : Nat} {value : Nat} {fits : Nat → Bool} (wf : s.MemWf) :
    (ologTake s t kind source value fits).2.MemWf := by
  unfold ologTake
  split
  · exact wf
  · split
    · exact memWf_logFull wf
    · split
      · rename_i e1
        exact memWf_snd e1 (memWf_ologRecord wf)
      · rename_i e1
        exact memWf_snd e1 (memWf_ologRecord wf)
  · dsimp only
    split
    · exact memWf_logFull (memWf_ologSkip wf)
    · split
      · split
        · exact memWf_ologAdvance (memWf_ologSkip wf)
        · exact memWf_ologSkip wf
      · exact memWf_ologSkip wf

theorem memWf_ologChoice {s : State} {t : TenantId} {kind : Nat} {source : Nat} {value : Nat} (wf : s.MemWf) :
    (ologChoice s t kind source value).2.MemWf :=
  memWf_ologTake wf

theorem memWf_accLogged {s : State} {t : TenantId} {u : SuiteId} {agent : Nat} {bank : Nat} {tile : Nat} {row : Nat} {col : Nat} (wf : s.MemWf) :
    (accLogged s t u agent bank tile row col).2.MemWf := by
  unfold accLogged
  split
  · rename_i e
    exact memWf_snd e (memWf_ologTake wf)
  · rename_i e
    exact memWf_snd e (memWf_ologTake wf)

theorem memWf_recordFlags {s : State} {r : BankRef} {fl : Flags} (wf : s.MemWf) : (recordFlags s r fl).MemWf :=
  memWf_ite wf (memWf_modBank wf)

theorem memWf_setTile {s : State} {u : SuiteId} {t : Fin 48} {v : Tile} (wf : s.MemWf) : (setTile s u t v).MemWf :=
  memWf_modPkg (fun _ => rfl) (memWf_modSuite (fun _ => rfl) wf)

theorem memWf_modTileFlag {s : State} {u : SuiteId} {t : Fin 48} {f : TileFlag → TileFlag} (wf : s.MemWf) : (modTileFlag s u t f).MemWf :=
  memWf_modSuite (fun _ => rfl) wf

theorem memWf_vacwWrite {s : State} {r : BankRef} {k : StreamKind} {u : SuiteId} {kt : Fin 32} {half add : Bool} {t : Tile} {rows : Fin 128 → Bool}
    (wf : s.MemWf) : (vacwWrite s r k u kt half add t rows).MemWf := by
  rw [vacwWrite]
  have read := memWf_accReadHalf (u := u) (k := kt) (h := half) (rows := rows) wf
  generalize accReadHalf s u kt half rows = p at read ⊢
  obtain ⟨old, s1⟩ := p
  have read : (if add then s1 else s).MemWf := memWf_ite read wf
  dsimp only
  generalize vacwTile old half add t rows = q
  obtain ⟨new, fl⟩ := q
  dsimp only
  have cleared := memWf_foldl (l := List.finRange 128) (f := fun s i => if rows i then dropAccErrors s u kt i (inHalf half) else s)
    (fun _ _ wf1 => memWf_ite (memWf_dropAccErrors wf1) wf1) read
  split
  · exact memWf_recordFlags (memWf_modRoom cleared)
  · exact memWf_modRoom cleared

theorem memWf_landResult {s : State} {r : BankRef} {k : StreamKind} {res : Result} (wf : s.MemWf) : (landResult s r k res).MemWf := by
  unfold landResult
  split
  · exact memWf_writeA wf
  · split
    · exact memWf_modSuite (fun _ => rfl) wf
    · exact wf
  · exact memWf_writeE wf
  · split
    · exact memWf_ite (memWf_modTileFlag (memWf_setTile wf)) (memWf_setTile wf)
    · exact wf
  · split
    · exact memWf_modTileFlag wf
    · exact wf
  · split
    · exact memWf_modSuite (fun _ => rfl) wf
    · exact wf
  · exact wf
  · split
    · exact memWf_vacwWrite wf
    · exact wf
  · exact wf
  · exact memWf_modBank wf

theorem memWf_landResults {s : State} {r : BankRef} {k : StreamKind} {l : List Result} (wf : s.MemWf) : (landResults s r k l).MemWf :=
  memWf_foldl (fun _ _ wf1 => memWf_landResult wf1) wf

theorem memWf_emit {s : State} {ag : Agent} {cls : Nat} {res : List Result} {fl : Flags} (wf : s.MemWf) : (emit s ag cls res fl).MemWf :=
  memWf_ite (memWf_landResults (memWf_recordFlags (memWf_modBank wf))) (memWf_modBank wf)

theorem memWf_vacwRows {r : BankRef} {k : StreamKind} {u : SuiteId} {b : Nat} {kt : Fin 32} {half : Bool} {add : Bool} {t : Tile}
    {tn : TenantId} {m : Nat} {x1 : Nat} {s : State} (wf : s.MemWf) :
    (vacwRows r k u b kt half add t tn m x1 s).2.MemWf := by
  induction m generalizing r k u b kt half add t tn x1 s wf with
  | zero =>
    unfold vacwRows
    exact wf
  | succ n ih =>
    unfold vacwRows
    split
    · rename_i e
      exact ih (memWf_vacwWrite (memWf_snd e (memWf_accLogged wf)))
    · rename_i e
      exact memWf_snd e (memWf_accLogged wf)

theorem memWf_landLater {s : State} {r : BankRef} {k : StreamKind} {res : List Result} {born : Nat} {left : Nat} (wf : s.MemWf) :
    (landLater s r k res born left).MemWf :=
  memWf_modBank wf

theorem memWf_landOne {s : State} {r : BankRef} {f : Flight} (wf : s.MemWf) : (landOne s r f).MemWf := by
  unfold landOne
  split
  · exact memWf_ite (memWf_landResults (memWf_recordFlags wf)) (memWf_ite (memWf_modBank (memWf_vacwRows wf)) (memWf_vacwRows wf))
  · exact memWf_landResults (memWf_recordFlags wf)

theorem memWf_landDue {s : State} {r : BankRef} (wf : s.MemWf) : (landDue s r).MemWf :=
  memWf_foldl (fun _ _ wf1 => memWf_landOne wf1) (memWf_modBank wf)

theorem memWf_settleFence {s : State} {r : BankRef} (wf : s.MemWf) : (settleFence s r).MemWf := by
  unfold settleFence
  split
  · exact wf
  · split
    · exact wf
    · split
      · exact memWf_ite (memWf_l1Clear (memWf_modBank wf)) (memWf_modBank wf)
      · exact memWf_modBank wf

theorem memWf_setLastMode {s : State} {ag : Agent} {m : Bool} (wf : s.MemWf) : (setLastMode s ag m).MemWf :=
  memWf_ite (memWf_modSuite (fun _ => rfl) wf) (memWf_modStream wf)

theorem memWf_semTake {s : State} {ag : Agent} {w : BitVec 4} (wf : s.MemWf) : (semTake s ag w).MemWf :=
  memWf_ite (memWf_modStream wf) wf

theorem memWf_advance {s : State} {ag : Agent} {words : Nat} (wf : s.MemWf) : (advance s ag words).MemWf :=
  memWf_ite (memWf_setPos wf) (memWf_foldl (fun _ _ wf1 => memWf_loopIteration wf1) (memWf_modStream wf))

theorem memWf_markHeld {s : State} {ag : Agent} {h : Hold} (wf : s.MemWf) : (markHeld s ag h).MemWf :=
  memWf_ite wf (memWf_ite (memWf_countEvents (memWf_modStream wf)) (memWf_modStream wf))

theorem memWf_endWait {s : State} {ag : Agent} {p : Plan} (wf : s.MemWf) : (endWait s ag p).MemWf :=
  memWf_ite wf (memWf_modStream (memWf_waitRecord wf))

theorem memWf_complete {s : State} {ag : Agent} {w : BitVec 4} {p : Plan} (hp : p.Keeps) (wf : s.MemWf) : (complete s ag w p).MemWf := by
  have moved : (setLastMode (endWait (settleFence (semTake s ag w) ag.bank) ag p) ag (lineMode s ag)).MemWf :=
    memWf_setLastMode (memWf_endWait (memWf_settleFence (memWf_semTake wf)))
  unfold complete
  refine hp.act ?_
  split
  · refine memWf_setPos ?_
    split
    · exact memWf_countEvents moved
    · split
      · exact memWf_modSuite (fun _ => rfl) (memWf_countEvents moved)
      · exact memWf_countEvents moved
  · refine memWf_advance ?_
    split
    · exact memWf_countEvents moved
    · split
      · exact memWf_modSuite (fun _ => rfl) (memWf_countEvents moved)
      · exact memWf_countEvents moved

theorem memWf_issueTrap {s : State} {ag : Agent} {cause : BitVec 8} {tval : Word} {ret : Nat} (wf : s.MemWf) :
    (issueTrap s ag cause tval ret).MemWf :=
  memWf_ite (memWf_markHeld wf) (memWf_takeTrap wf)

theorem memWf_issueState {i : Instr} {w : BitVec 4} {p : State → Agent → Plan} {s : State} (hp : s.MemWf → (p s s.cur).Keeps) (wf : s.MemWf) :
    (issueState i w p s).MemWf := by
  unfold issueState
  dsimp only
  split
  · exact memWf_issueTrap wf
  · split
    · exact memWf_markHeld wf
    · split
      · exact (hp wf).onHold (memWf_markHeld wf)
      · split
        · exact memWf_issueTrap (memWf_endWait wf)
        · split
          · exact memWf_issueTrap (memWf_endWait wf)
          · exact memWf_complete (hp wf) wf

/-- The plan of an instruction keeps the memories, and so does its issue. -/
theorem goes_issue {i : Instr} {w : BitVec 4} {p : State → Agent → Plan} {s : State} (hp : s.MemWf → (p s s.cur).Keeps) : Goes s (issue i w p s) :=
  .next fun wf => memWf_issueState hp wf

theorem memWf_pushEntry {s : State} {ag : Agent} {store : Bool} {op : QOp} {dn : BitVec 4} {ret : Nat} (wf : s.MemWf) :
    (pushEntry s ag store op dn ret).MemWf :=
  memWf_modBank wf

theorem goes_execLd {d : BitVec 5} {s1 : BitVec 5} {size : BitVec 2} {sgn : BitVec 1} {ord : BitVec 2} {dn : BitVec 4} {sub : BitVec 2}
    {w : BitVec 4} {s : State} :
    Goes s (execLd d s1 size sgn ord dn sub w s) := by
  unfold execLd
  exact goes_issue (fun _ => ⟨fun wf1 => memWf_pushEntry wf1, id⟩)

theorem goes_execSt {d : BitVec 5} {s1 : BitVec 5} {size : BitVec 2} {ord : BitVec 2} {dn : BitVec 4} {sub : BitVec 2} {w : BitVec 4} {s : State} :
    Goes s (execSt d s1 size ord dn sub w s) := by
  unfold execSt
  exact goes_issue (fun _ => ⟨fun wf1 => memWf_pushEntry wf1, id⟩)

theorem goes_execLdl {d : BitVec 5} {s1 : BitVec 5} {size : BitVec 2} {sgn : BitVec 1} {w : BitVec 4} {s : State} :
    Goes s (execLdl d s1 size sgn w s) := by
  unfold execLdl
  exact goes_issue (fun _ => ⟨fun wf1 => memWf_emit wf1, id⟩)

theorem goes_execStl {d : BitVec 5} {s1 : BitVec 5} {size : BitVec 2} {w : BitVec 4} {s : State} : Goes s (execStl d s1 size w s) := by
  unfold execStl
  exact goes_issue (fun _ => ⟨fun wf1 => memWf_lsWrite wf1, id⟩)

theorem memWf_landFree {s : State} {r : BankRef} {k : StreamKind} {res : List Result} (wf : s.MemWf) : (landFree s r k res).MemWf :=
  memWf_landLater wf

theorem goes_execLdt {t : BitVec 6} {s1 : BitVec 5} {src : BitVec 1} {dn : BitVec 4} {w : BitVec 4} {s : State} :
    Goes s (execLdt t s1 src dn w s) := by
  unfold execLdt
  refine goes_issue (fun wf => ?_)
  split
  · rename_i e
    exact ⟨fun wf1 => memWf_landFree (memWf_modTileFlag wf1), id⟩
  · exact ⟨fun wf1 => memWf_pushEntry (memWf_modTileFlag wf1), id⟩

theorem goes_execStt {t : BitVec 6} {s1 : BitVec 5} {src : BitVec 1} {dn : BitVec 4} {w : BitVec 4} {s : State} :
    Goes s (execStt t s1 src dn w s) := by
  unfold execStt
  refine goes_issue (fun wf => ?_)
  split
  · rename_i e
    exact ⟨fun wf1 => memWf_landFree (memWf_modTileFlag (memWf_lsWrite wf1)), id⟩
  · exact ⟨fun wf1 => memWf_pushEntry (memWf_modTileFlag wf1), id⟩

theorem memWf_loadElem {s : State} {r : BankRef} {t : TenantId} {d : Desc} {x : TileBox} {idx : Nat} (wf : s.MemWf) :
    (loadElem s r t d x idx).2.MemWf := by
  unfold loadElem
  split
  · dsimp only
    split
    · exact wf
    · split
      · rename_i e1
        exact memWf_snd e1 (memWf_loadBytes wf)
      · rename_i e2
        exact memWf_snd e2 (memWf_loadBytes wf)
      · rename_i e1
        exact memWf_snd e1 (memWf_loadBytes wf)
  · dsimp only
    split
    · exact wf
    · split
      · rename_i e
        exact memWf_snd e (memWf_loadBytes wf)
      · rename_i e1
        exact memWf_snd e1 (memWf_loadBytes wf)
      · rename_i e
        exact memWf_snd e (memWf_loadBytes wf)

theorem memWf_storeNibble {s : State} {r : BankRef} {t : TenantId} {seg : Nat} {d : Desc} {off : Nat} {half : Nat} {v : Nat}
    {setter : Nat} {cross : Bool} (wf : s.MemWf) :
    (storeNibble s r t seg d off half v setter cross).2.MemWf := by
  unfold storeNibble
  split
  · rename_i e
    exact memWf_storeBytes (memWf_snd e (memWf_translate wf))
  · rename_i e1
    exact memWf_snd e1 (memWf_translate wf)
  · rename_i e
    exact memWf_snd e (memWf_translate wf)

theorem memWf_storeElem {s : State} {r : BankRef} {t : TenantId} {d : Desc} {x : TileBox} {idx : Nat} {v : Nat} (wf : s.MemWf) :
    (storeElem s r t d x idx v).2.MemWf := by
  unfold storeElem
  split
  · dsimp only
    split
    · exact wf
    · exact memWf_storeNibble wf
  · dsimp only
    split
    · exact wf
    · exact memWf_storeBytes wf

theorem memWf_loadElems {s : State} {r : BankRef} {t : TenantId} {d : Desc} {x : TileBox} {tile : Tile} {ps : List Nat} (wf : s.MemWf) :
    (loadElems s r t d x tile ps).2.2.2.MemWf := by
  induction ps generalizing s r t d x tile wf with
  | nil =>
    unfold loadElems
    exact wf
  | cons x l ih =>
    unfold loadElems
    split
    · rename_i e
      exact ih (memWf_snd e (memWf_loadElem wf))
    · rename_i e1
      exact memWf_snd e1 (memWf_loadElem wf)
    · rename_i e
      exact memWf_snd e (memWf_loadElem wf)

theorem memWf_storeElems {s : State} {r : BankRef} {t : TenantId} {d : Desc} {x : TileBox} {tile : Tile} {ps : List Nat} (wf : s.MemWf) :
    (storeElems s r t d x tile ps).2.2.MemWf := by
  induction ps generalizing s r t d x tile wf with
  | nil =>
    unfold storeElems
    exact wf
  | cons x l ih =>
    unfold storeElems
    split
    · rename_i e
      exact ih (memWf_snd e (memWf_storeElem wf))
    · rename_i e1
      exact memWf_snd e1 (memWf_storeElem wf)
    · rename_i e
      exact memWf_snd e (memWf_storeElem wf)

theorem memWf_watchBox {s : State} {ag : Agent} {store : Bool} {d : Desc} {x : TileBox} (wf : s.MemWf) : (watchBox s ag store d x).MemWf := by
  unfold watchBox
  split
  · split
    · exact memWf_watchAccess wf
    · exact wf
  · exact wf

theorem memWf_chooseEntry {s : State} {r : BankRef} {store : Bool} (wf : s.MemWf) : (chooseEntry s r store).2.MemWf := by
  unfold chooseEntry
  split
  · exact wf
  · dsimp only
    split
    · exact wf
    · dsimp only
      exact memWf_chooseBelow wf

theorem memWf_dropEntry {s : State} {r : BankRef} {seq : Nat} (wf : s.MemWf) : (dropEntry s r seq).MemWf :=
  memWf_settleFence (memWf_modBank wf)

theorem memWf_replaceEntry {s : State} {r : BankRef} {e : QEntry} (wf : s.MemWf) : (replaceEntry s r e).MemWf :=
  memWf_modBank wf

theorem memWf_pageFault {s : State} {r : BankRef} {e : QEntry} {cause : BitVec 8} {tval : Nat} (wf : s.MemWf) :
    (pageFault s r e cause tval).MemWf := by
  unfold pageFault
  split
  · exact memWf_ite (memWf_stewardTrap wf) (memWf_dropEntry (memWf_stewardTrap wf))
  · exact memWf_ite wf (memWf_ite (memWf_modBank wf) (memWf_modBank (memWf_queueTrap (memWf_modBank wf))))

theorem memWf_finishEntry {s : State} {r : BankRef} {e : QEntry} {res : List Result} (wf : s.MemWf) : (finishEntry s r e res).MemWf :=
  memWf_doneFor (memWf_landLater (memWf_dropEntry wf))

theorem memWf_acquireInvalidate {s : State} {r : BankRef} {scope : BitVec 2} (wf : s.MemWf) : (acquireInvalidate s r scope).MemWf := by
  unfold acquireInvalidate
  split
  · exact memWf_ite wf (memWf_l1Clear wf)
  · exact wf

theorem memWf_freeMonitor {s : State} {r : BankRef} (wf : s.MemWf) : (freeMonitor s r).MemWf :=
  memWf_modPkg (fun _ => rfl) wf

theorem memWf_waitaStatus {s : State} {r : BankRef} {own : Option Nat} (wf : s.MemWf) : (waitaStatus s r own).2.MemWf := by
  unfold waitaStatus
  split
  · exact wf
  · split
    · dsimp only
      split
      · split
        · rename_i e1
          exact memWf_snd e1 (memWf_ologTake wf)
        · rename_i e1
          exact memWf_snd e1 (memWf_ologTake wf)
      · exact wf
    · dsimp only
      split
      · split
        · rename_i e1
          exact memWf_snd e1 (memWf_ologTake wf)
        · rename_i e1
          exact memWf_snd e1 (memWf_ologTake wf)
      · split
        · rename_i e
          exact memWf_snd e (memWf_ologChoice wf)
        · rename_i e
          exact memWf_snd e (memWf_ologChoice wf)

theorem memWf_setterOf {s : State} {word : Nat} (wf : s.MemWf) : (setterOf s word).2.MemWf := by
  unfold setterOf
  split
  · exact wf
  · exact memWf_chooseBelow wf

theorem memWf_finishWaita {s : State} {r : BankRef} {e : QEntry} {d : BitVec 5} {va : Word} {scope : BitVec 2} {start : Nat}
    {status : Nat} {setter : Nat} (wf : s.MemWf) :
    (finishWaita s r e d va scope start status setter).MemWf :=
  memWf_finishEntry (memWf_waitRecord (memWf_ite (memWf_acquireInvalidate (memWf_freeMonitor wf)) (memWf_freeMonitor wf)))

theorem memWf_waitaRead {s : State} {r : BankRef} {e : QEntry} {d : BitVec 5} {va : Word} {cmp : Word} {scope : BitVec 2}
    {watched : Option Nat} {expire : Option Nat} {start : Nat} {expired : Bool} (wf : s.MemWf) :
    (waitaRead s r e d va cmp scope watched expire start expired).MemWf := by
  unfold waitaRead
  split
  · rename_i e1
    exact memWf_pageFault (memWf_freeMonitor (memWf_snd e1 (memWf_translateVa wf)))
  · rename_i e1
    exact memWf_snd e1 (memWf_translateVa wf)
  · rename_i e1
    split
    · exact memWf_l2Ask (memWf_snd e1 (memWf_translateVa wf))
    · split
      rename_i e2
      split
      rename_i e3
      dsimp only
      split
      · rename_i e4
        exact memWf_finishWaita (memWf_snd e4 (memWf_waitaStatus (memWf_l1Refresh (memWf_countL2 (memWf_snd e3 (memWf_physRead (memWf_snd e2
            (memWf_setterOf (memWf_snd e1 (memWf_translateVa wf))))))))))
      · rename_i e4
        exact memWf_ite (memWf_replaceEntry (memWf_freeMonitor (memWf_snd e4 (memWf_waitaStatus (memWf_l1Refresh (memWf_countL2 (memWf_snd e3
            (memWf_physRead (memWf_snd e2 (memWf_setterOf (memWf_snd e1 (memWf_translateVa wf)))))))))))) (memWf_replaceEntry (memWf_modPkg
            (fun _ => rfl) (memWf_freeMonitor (memWf_snd e4 (memWf_waitaStatus (memWf_l1Refresh (memWf_countL2 (memWf_snd e3 (memWf_physRead
            (memWf_snd e2 (memWf_setterOf (memWf_snd e1 (memWf_translateVa wf)))))))))))))

theorem memWf_performEntry {s : State} {r : BankRef} {e : QEntry} (wf : s.MemWf) : (performEntry s r e).MemWf := by
  unfold performEntry
  split
  · split
    · dsimp only
      split
      · rename_i e2
        exact memWf_pageFault (memWf_snd e2 (memWf_getDesc wf))
      · rename_i e2
        split
        · rename_i e3
          exact memWf_pageFault (memWf_snd e3 (memWf_loadBytes (memWf_snd e2 (memWf_getDesc wf))))
        · rename_i e3
          exact memWf_snd e3 (memWf_loadBytes (memWf_snd e2 (memWf_getDesc wf)))
        · rename_i e3
          exact memWf_finishEntry (memWf_watchAccess (memWf_acquireInvalidate (memWf_snd e3 (memWf_loadBytes (memWf_snd e2 (memWf_getDesc wf))))))
    · dsimp only
      split
      · rename_i e2
        exact memWf_pageFault (memWf_snd e2 (memWf_getDesc wf))
      · rename_i e2
        split
        · rename_i e3
          exact memWf_pageFault (memWf_snd e3 (memWf_loadBytes (memWf_snd e2 (memWf_getDesc wf))))
        · rename_i e3
          exact memWf_snd e3 (memWf_loadBytes (memWf_snd e2 (memWf_getDesc wf)))
        · rename_i e3
          exact memWf_finishEntry (memWf_watchAccess (memWf_snd e3 (memWf_loadBytes (memWf_snd e2 (memWf_getDesc wf)))))
  · dsimp only
    split
    · rename_i e2
      exact memWf_pageFault (memWf_snd e2 (memWf_getDesc wf))
    · rename_i e2
      split
      · rename_i e3
        exact memWf_pageFault (memWf_snd e3 (memWf_storeBytes (memWf_snd e2 (memWf_getDesc wf))))
      · rename_i e3
        exact memWf_snd e3 (memWf_storeBytes (memWf_snd e2 (memWf_getDesc wf)))
      · rename_i e3
        exact memWf_finishEntry (memWf_watchAccess (memWf_snd e3 (memWf_storeBytes (memWf_snd e2 (memWf_getDesc wf)))))
  · dsimp only
    split
    · rename_i e2
      exact memWf_pageFault (memWf_snd e2 (memWf_getDesc wf))
    · rename_i e2
      split
      · rename_i e3
        exact memWf_pageFault (memWf_fourth e3 (memWf_loadElems (memWf_chooseBelow (memWf_snd e2 (memWf_getDesc wf)))))
      · rename_i e3
        exact memWf_replaceEntry (memWf_fourth e3 (memWf_loadElems (memWf_chooseBelow (memWf_snd e2 (memWf_getDesc wf)))))
      · rename_i e3
        exact memWf_ite (memWf_finishEntry (memWf_watchBox (memWf_fourth e3 (memWf_loadElems (memWf_chooseBelow (memWf_snd e2
            (memWf_getDesc wf))))))) (memWf_replaceEntry (memWf_fourth e3 (memWf_loadElems (memWf_chooseBelow (memWf_snd e2 (memWf_getDesc wf))))))
  · dsimp only
    split
    · rename_i e2
      exact memWf_pageFault (memWf_snd e2 (memWf_getDesc wf))
    · rename_i e2
      split
      · rename_i e3
        exact memWf_pageFault (memWf_replaceEntry (memWf_third e3 (memWf_storeElems (memWf_chooseBelow (memWf_snd e2 (memWf_getDesc wf))))))
      · rename_i e3
        exact memWf_replaceEntry (memWf_third e3 (memWf_storeElems (memWf_chooseBelow (memWf_snd e2 (memWf_getDesc wf)))))
      · rename_i e3
        exact memWf_ite (memWf_finishEntry (memWf_watchBox (memWf_third e3 (memWf_storeElems (memWf_chooseBelow (memWf_snd e2
            (memWf_getDesc wf))))))) (memWf_replaceEntry (memWf_third e3 (memWf_storeElems (memWf_chooseBelow (memWf_snd e2 (memWf_getDesc wf))))))
  · exact memWf_waitaRead wf
  · exact wf
  · exact wf

theorem memWf_leftoverStep {s : State} {u : SuiteId} (wf : s.MemWf) : (leftoverStep s u).MemWf := by
  unfold leftoverStep
  dsimp only
  split
  · exact wf
  · split
    · split
      · rename_i e2
        exact memWf_modSuite (fun _ => rfl) (memWf_snd e2 (memWf_getDesc (memWf_chooseBelow wf)))
      · rename_i e2
        split
        · rename_i e3
          exact memWf_snd e3 (memWf_storeBytes (memWf_snd e2 (memWf_getDesc (memWf_chooseBelow wf))))
        · rename_i e3
          exact memWf_modSuite (fun _ => rfl) (memWf_snd e3 (memWf_storeBytes (memWf_snd e2 (memWf_getDesc (memWf_chooseBelow wf)))))
        · rename_i e3
          exact memWf_modSuite (fun _ => rfl) (memWf_watchAs (memWf_snd e3 (memWf_storeBytes (memWf_snd e2 (memWf_getDesc (memWf_chooseBelow wf))))))
    · split
      · rename_i e2
        exact memWf_modSuite (fun _ => rfl) (memWf_snd e2 (memWf_getDesc (memWf_chooseBelow wf)))
      · rename_i e2
        split
        · rename_i e3
          exact memWf_modSuite (fun _ => rfl) (memWf_third e3 (memWf_storeElems (memWf_snd e2 (memWf_getDesc (memWf_chooseBelow wf)))))
        · rename_i e3
          exact memWf_modSuite (fun _ => rfl) (memWf_third e3 (memWf_storeElems (memWf_snd e2 (memWf_getDesc (memWf_chooseBelow wf)))))
        · rename_i e3
          split
          · exact memWf_modSuite (fun _ => rfl) (memWf_watchAs (memWf_third e3 (memWf_storeElems (memWf_snd e2 (memWf_getDesc
              (memWf_chooseBelow wf))))))
          · exact memWf_modSuite (fun _ => rfl) (memWf_third e3 (memWf_storeElems (memWf_snd e2 (memWf_getDesc (memWf_chooseBelow wf)))))
    · exact memWf_modSuite (fun _ => rfl) (memWf_chooseBelow wf)

theorem memWf_leftoverTurn {s : State} {r : BankRef} (wf : s.MemWf) : (leftoverTurn s r).MemWf := by
  unfold leftoverTurn
  split
  · exact memWf_ite wf (memWf_ite (memWf_leftoverStep wf) wf)
  · exact wf

theorem goes_execQueueEntryPerform {b : BankRef} {store : Bool} {s0 : State} : Goes s0 (execQueueEntryPerform b store s0) := by
  unfold execQueueEntryPerform
  refine .next fun wf => ?_
  split
  · dsimp only
    split
    · rename_i e2
      exact memWf_ite (memWf_snd e2 (memWf_chooseEntry (memWf_leftoverTurn wf))) (memWf_performEntry (memWf_snd e2 (memWf_chooseEntry
          (memWf_leftoverTurn wf))))
    · rename_i e1
      exact memWf_snd e1 (memWf_chooseEntry (memWf_leftoverTurn wf))
  · dsimp only
    split
    · rename_i e1
      exact memWf_ite (memWf_snd e1 (memWf_chooseEntry wf)) (memWf_performEntry (memWf_snd e1 (memWf_chooseEntry wf)))
    · rename_i e
      exact memWf_snd e (memWf_chooseEntry wf)

theorem goes_execPageFaultBankSwitch {b : BankRef} {s : State} : Goes s (execPageFaultBankSwitch b s) := by
  unfold execPageFaultBankSwitch
  exact .next fun wf => memWf_ite (memWf_modBank wf) wf

theorem goes_execPft {s1 : BitVec 5} {dn : BitVec 4} {w : BitVec 4} {s : State} : Goes s (execPft s1 dn w s) := by
  unfold execPft
  exact goes_issue (fun _ => ⟨fun wf1 => memWf_modBank wf1, id⟩)

theorem memWf_prefetchLines {s : State} {t : TenantId} {d : Desc} {x : TileBox} {ps : List Nat} {x1 : List (Nat × Nat × Nat)} (wf : s.MemWf) :
    (prefetchLines s t d x ps x1).2.MemWf := by
  induction ps generalizing s t d x x1 wf with
  | nil =>
    unfold prefetchLines
    exact wf
  | cons x l ih =>
    unfold prefetchLines
    dsimp only
    split
    · exact ih wf
    · split
      · rename_i e
        exact memWf_snd e (memWf_translate wf)
      · rename_i e
        exact memWf_snd e (memWf_translate wf)
      · rename_i e
        exact ih (memWf_snd e (memWf_translate wf))

theorem memWf_prefetchLine {u : SuiteId} {b : BankRef} {t : TenantId} {seg : Nat} {s : State} {line : Nat × Nat × Nat} (wf : s.MemWf) :
    (prefetchLine u b t seg s line).MemWf :=
  memWf_countL2 (memWf_modSuite (fun _ => rfl) (memWf_countLost (memWf_correctErrors wf)))

theorem goes_execPrefetchCompletion {b : BankRef} {k : Nat} {s : State} : Goes s (execPrefetchCompletion b k s) := by
  unfold execPrefetchCompletion
  refine .next fun wf => ?_
  split
  · exact wf
  · split
    · exact memWf_doneFor (memWf_modBank wf)
    · dsimp only
      split
      · exact memWf_doneFor (memWf_modBank wf)
      · split
        · exact memWf_doneFor (memWf_modBank wf)
        · rename_i e1
          split
          · rename_i e2
            exact memWf_ite (memWf_doneFor (memWf_modBank (memWf_foldl (fun _ _ wf1 => memWf_prefetchLine wf1) (memWf_snd e2
                (memWf_prefetchLines (memWf_snd e1 (memWf_getDesc wf))))))) (memWf_foldl (fun _ _ wf1 => memWf_ite wf1 (memWf_l2Ask wf1))
                (memWf_snd e2 (memWf_prefetchLines (memWf_snd e1 (memWf_getDesc wf)))))
          · exact memWf_doneFor (memWf_modBank wf)

theorem goes_execAlign {w : BitVec 4} {s : State} : Goes s (execAlign w s) := by
  unfold execAlign
  exact goes_issue (fun _ => ⟨fun wf1 => memWf_modBank wf1, id⟩)

theorem goes_execFence {scope : BitVec 2} {w : BitVec 4} {s : State} : Goes s (execFence scope w s) := by
  unfold execFence
  exact goes_issue (fun _ => ⟨fun wf1 => memWf_settleFence (memWf_modBank wf1), id⟩)

theorem goes_execDrnt {dn : BitVec 4} {scope : BitVec 2} {w : BitVec 4} {s : State} : Goes s (execDrnt dn scope w s) := by
  unfold execDrnt
  exact goes_issue (fun _ => ⟨fun wf1 => memWf_pushEntry wf1, id⟩)

theorem goes_execDrntCompletion {b : BankRef} {s : State} : Goes s (execDrntCompletion b s) := by
  unfold execDrntCompletion
  refine .next fun wf => ?_
  split
  · exact wf
  · exact memWf_ite (memWf_doneFor (memWf_dropEntry wf)) wf

theorem goes_execWaita {d : BitVec 5} {s1 : BitVec 5} {s2 : BitVec 5} {dn : BitVec 4} {scope : BitVec 2} {w : BitVec 4} {s : State} :
    Goes s (execWaita d s1 s2 dn scope w s) := by
  unfold execWaita
  exact goes_issue (fun _ => ⟨fun wf1 => memWf_pushEntry wf1, id⟩)

theorem goes_execMonitorTrigger {b : BankRef} {s : State} : Goes s (execMonitorTrigger b s) := by
  unfold execMonitorTrigger
  refine .next fun wf => ?_
  split
  · split
    · exact memWf_waitaRead wf
    · exact wf
  · exact wf

theorem goes_execWaittmoExpiry {b : BankRef} {s : State} : Goes s (execWaittmoExpiry b s) := by
  unfold execWaittmoExpiry
  refine .next fun wf => ?_
  split
  · split
    · split
      · rename_i e3
        exact memWf_ite (memWf_finishWaita (memWf_snd e3 (memWf_waitaStatus wf))) wf
      · rename_i e3
        exact memWf_ite (memWf_snd e3 (memWf_waitaStatus wf)) wf
    · exact wf
  · exact wf

theorem memWf_readHeader {s : State} {t : TenantId} {seg : Nat} (wf : s.MemWf) : (readHeader s t seg).2.MemWf := by
  unfold readHeader
  split
  · rename_i e
    exact memWf_snd e (memWf_loadVa wf)
  · rename_i e1
    exact memWf_snd e1 (memWf_loadVa wf)
  · rename_i e
    exact memWf_snd e (memWf_loadVa wf)

theorem memWf_storeImage {s : State} {im : Image} (wf : s.MemWf) : (storeImage s im).2.MemWf := by
  unfold storeImage
  split
  · exact wf
  · exact memWf_modPkg (fun _ => rfl) wf

theorem memWf_loadImage {s : State} {t : TenantId} {seg : Nat} {h : Header} (wf : s.MemWf) : (loadImage s t seg h).2.MemWf :=
  memWf_storeImage wf

theorem memWf_startContext {s : State} {c : CtxId} {v : Word} (wf : s.MemWf) : (startContext s c v).MemWf := by
  unfold startContext
  split
  split
  · exact wf
  · dsimp only
    split
    · rename_i e1
      exact memWf_modCtx (memWf_loadImage (memWf_snd e1 (memWf_readHeader wf)))
    · rename_i e1
      exact memWf_snd e1 (memWf_readHeader wf)

theorem memWf_vaccSees {s : State} {u : SuiteId} {k : Fin 32} {row : Fin 128} {col : Fin 128} {w : W32} (wf : s.MemWf) :
    (vaccSees s u k row col w).MemWf :=
  memWf_foldl (fun _ _ wf1 => memWf_ite wf1 (memWf_ite wf1 (memWf_modBank wf1))) wf

theorem memWf_accSet {s : State} {u : SuiteId} {k : Fin 32} {row : Fin 128} {col : Fin 128} {w : W32} (wf : s.MemWf) :
    (accSet s u k row col w).MemWf :=
  memWf_vaccSees (memWf_modRoom (memWf_dropAccErrors wf))

theorem memWf_accSetRow {s : State} {u : SuiteId} {k : Fin 32} {row : Fin 128} {v : Vector W32 128} (wf : s.MemWf) : (accSetRow s u k row v).MemWf :=
  memWf_ite (memWf_foldl (fun _ _ wf1 => memWf_vaccSees wf1) (memWf_modRoom (memWf_dropAccErrors wf))) (memWf_modRoom (memWf_dropAccErrors wf))

theorem memWf_applyAtomic {s : State} {u : SuiteId} {a : Atomic} (wf : s.MemWf) : (applyAtomic s u a).MemWf := by
  unfold applyAtomic
  split
  rename_i e
  exact memWf_ite (memWf_accSet (memWf_snd e (memWf_accRead wf))) (memWf_doneFor (memWf_landLater (memWf_accSet (memWf_snd e (memWf_accRead wf)))))

theorem goes_execAat {d : BitVec 5} {s1 : BitVec 5} {s2 : BitVec 5} {dn : BitVec 4} {s3 : BitVec 5} {aop : BitVec 3} {ty : BitVec 1}
    {ord : BitVec 1} {w : BitVec 4} {s : State} :
    Goes s (execAat d s1 s2 dn s3 aop ty ord w s) := by
  unfold execAat
  exact goes_issue (fun _ => ⟨fun wf1 => memWf_modRoom wf1, id⟩)

theorem memWf_tryAtomic {s : State} {u : SuiteId} {i : Nat} (wf : s.MemWf) : (tryAtomic s u i).MemWf := by
  unfold tryAtomic
  split
  · exact wf
  · split
    · exact wf
    · split
      · rename_i e1
        exact memWf_snd e1 (memWf_accLogged wf)
      · rename_i e1
        exact memWf_applyAtomic (memWf_modRoom (memWf_snd e1 (memWf_accLogged wf)))

theorem goes_execOrderedAtomicApply {u : SuiteId} {s : State} : Goes s (execOrderedAtomicApply u s) := by
  unfold execOrderedAtomicApply
  refine .next fun wf => ?_
  split
  · exact memWf_tryAtomic wf
  · exact wf

theorem goes_execAccumulatorAtomicApply {u : SuiteId} {s : State} : Goes s (execAccumulatorAtomicApply u s) := by
  unfold execAccumulatorAtomicApply
  refine .next fun wf => ?_
  dsimp only
  split
  · exact wf
  · split
    · exact memWf_tryAtomic wf
    · exact memWf_tryAtomic (memWf_chooseBelow wf)

theorem goes_execAccseqWrite {u : SuiteId} {v : Word} {s : State} : Goes s (execAccseqWrite u v s) := by
  unfold execAccseqWrite
  exact .next fun wf => memWf_modRoom wf

theorem keeps_planToks {e : Engine} {dst : BitVec 2} {s : State} {ag : Agent} : (planToks e dst s ag).Keeps := by
  unfold planToks
  exact ⟨fun wf => memWf_modBank wf, id⟩

theorem keeps_planTokw {e : Engine} {pop : BitVec 4} {s : State} {ag : Agent} : (planTokw e pop s ag).Keeps := by
  unfold planTokw
  exact ⟨fun wf => memWf_modBank wf, fun wf => memWf_modStream wf⟩

theorem goes_execToksA {dst : BitVec 2} {w : BitVec 4} {s : State} : Goes s (execToksA dst w s) := by
  unfold execToksA
  exact goes_issue (fun _ => keeps_planToks)

theorem goes_execTokwA {pop : BitVec 4} {w : BitVec 4} {s : State} : Goes s (execTokwA pop w s) := by
  unfold execTokwA
  exact goes_issue (fun _ => keeps_planTokw)

theorem goes_execToksX {dst : BitVec 2} {w : BitVec 4} {s : State} : Goes s (execToksX dst w s) := by
  unfold execToksX
  exact goes_issue (fun _ => keeps_planToks)

theorem goes_execTokwX {pop : BitVec 4} {w : BitVec 4} {s : State} : Goes s (execTokwX pop w s) := by
  unfold execTokwX
  exact goes_issue (fun _ => keeps_planTokw)

theorem keeps_planCsrRead {num : Nat} {cls : Nat} {res : Word → Result} {s : State} {ag : Agent} : (planCsrRead num cls res s ag).Keeps := by
  unfold planCsrRead
  exact ⟨fun wf => memWf_emit wf, id⟩

theorem memWf_csrAsk {s : State} {ag : Agent} {num : Nat} {v : Word} (wf : s.MemWf) : (csrAsk s ag num v).MemWf := by
  unfold csrAsk
  split
  · exact wf
  · exact memWf_ite (memWf_ite wf (memWf_modTenant wf)) wf

theorem memWf_csrTake {s : State} {ag : Agent} {num : Nat} {v : Word} (wf : s.MemWf) : (csrTake s ag num v).MemWf := by
  unfold csrTake
  split
  · exact wf
  · exact memWf_ite (memWf_modTenant wf) wf

theorem keeps_planCsrWrite {num : Nat} {op : CsrOp} {cls : Nat} {s : State} {ag : Agent} : (planCsrWrite num op cls s ag).Keeps := by
  unfold planCsrWrite
  exact ⟨fun wf => memWf_emit (memWf_csrTake wf), fun wf => memWf_csrAsk wf⟩

theorem goes_execCrd {d : BitVec 5} {s1 : BitVec 5} {csr : BitVec 11} {w : BitVec 4} {s : State} : Goes s (execCrd d s1 csr w s) := by
  unfold execCrd
  exact goes_issue (fun _ => keeps_planCsrRead)

theorem goes_execCwr {d : BitVec 5} {s1 : BitVec 5} {csr : BitVec 11} {w : BitVec 4} {s : State} : Goes s (execCwr d s1 csr w s) := by
  unfold execCwr
  exact goes_issue (fun _ => keeps_planCsrWrite)

theorem goes_execCmw {d : BitVec 5} {s1 : BitVec 5} {csr : BitVec 11} {w : BitVec 4} {s : State} : Goes s (execCmw d s1 csr w s) := by
  unfold execCmw
  exact goes_issue (fun _ => keeps_planCsrWrite)

theorem goes_execCxc {d : BitVec 5} {s1 : BitVec 5} {csr : BitVec 11} {w : BitVec 4} {s : State} : Goes s (execCxc d s1 csr w s) := by
  unfold execCxc
  exact goes_issue (fun _ => keeps_planCsrWrite)

theorem goes_execErd {d : BitVec 4} {csr : BitVec 12} {w : BitVec 4} {s : State} : Goes s (execErd d csr w s) := by
  unfold execErd
  exact goes_issue (fun _ => keeps_planCsrRead)

theorem goes_execEwr {d : BitVec 4} {csr : BitVec 12} {w : BitVec 4} {s : State} : Goes s (execEwr d csr w s) := by
  unfold execEwr
  exact goes_issue (fun _ => keeps_planCsrWrite)

theorem goes_execCsrWrite {ag : Agent} {num : BitVec 12} {v : Word} {s : State} : Goes s (execCsrWrite ag num v s) := by
  unfold execCsrWrite
  exact .next fun wf => memWf_csrSet wf

theorem goes_execTrap {imm : BitVec 16} {w : BitVec 4} {s : State} : Goes s (execTrap imm w s) := by
  unfold execTrap
  exact goes_issue (fun _ => ⟨id, id⟩)

theorem goes_execEret {w : BitVec 4} {s : State} : Goes s (execEret w s) := by
  unfold execEret
  refine goes_issue (fun wf => ?_)
  split
  · exact ⟨id, id⟩
  · exact ⟨fun wf1 => memWf_stewardReturn wf1, id⟩

theorem goes_execYieldA {w : BitVec 4} {s : State} : Goes s (execYieldA w s) := by
  unfold execYieldA
  exact goes_issue (fun _ => ⟨fun wf1 => memWf_modBank wf1, id⟩)

theorem goes_execRpush {imm : BitVec 16} {w : BitVec 4} {s : State} : Goes s (execRpush imm w s) := by
  unfold execRpush
  exact goes_issue (fun _ => ⟨fun wf1 => memWf_ite (memWf_modStream wf1) (memWf_rangeRecord (memWf_modStream wf1)), id⟩)

theorem goes_execRpop {w : BitVec 4} {s : State} : Goes s (execRpop w s) := by
  unfold execRpop
  refine goes_issue (fun wf => ?_)
  refine ⟨fun wf1 => ?_, fun wf1 => ?_⟩
  · split
    · exact memWf_modStream wf1
    · exact memWf_rangeRecord (memWf_modStream wf1)
  · exact wf1

theorem goes_execTinv {s1 : BitVec 5} {s2 : BitVec 5} {dn : BitVec 4} {w : BitVec 4} {s : State} : Goes s (execTinv s1 s2 dn w s) := by
  unfold execTinv
  refine goes_issue (fun wf => ?_)
  split
  · exact ⟨id, id⟩
  · exact ⟨fun wf1 => memWf_ite (memWf_doneFor wf1) (memWf_modCtx wf1), id⟩

theorem memWf_triggerSegment {s : State} {t : TenantId} {p : Nat → Bool} (wf : s.MemWf) : (triggerSegment s t p).MemWf :=
  memWf_modPkg (fun _ => rfl) wf

theorem memWf_invalidateSegments {s : State} {t : TenantId} {p : Nat → Bool} (wf : s.MemWf) : (invalidateSegments s t p).MemWf :=
  memWf_l1ClearSeg (memWf_modPkg (fun _ => rfl) wf)

theorem goes_execTinvCompletion {c : CtxId} {s : State} : Goes s (execTinvCompletion c s) := by
  unfold execTinvCompletion
  refine .next fun wf => ?_
  split
  · exact wf
  · exact memWf_doneFor (memWf_triggerSegment (memWf_invalidateSegments (memWf_modCtx wf)))

theorem goes_execFrel {s1 : BitVec 5} {s2 : BitVec 5} {dn : BitVec 4} {w : BitVec 4} {s : State} : Goes s (execFrel s1 s2 dn w s) := by
  unfold execFrel
  refine goes_issue (fun wf => ?_)
  split
  · exact ⟨id, id⟩
  · exact ⟨fun wf1 => memWf_modPkg (fun _ => rfl) (memWf_modCtx wf1), id⟩

theorem goes_execFrelCompletion {c : CtxId} {s : State} : Goes s (execFrelCompletion c s) := by
  refine .next fun wf => ?_
  split
  · exact wf
  · refine memWf_doneFor (memWf_mapSuites (fun _ => rfl) ?_)
    exact memWf_modPkg_mem (memClear_wf _ _ _ wf.1) (memWf_modCtx wf)

theorem goes_execAmem {d : BitVec 5} {s1 : BitVec 5} {s2 : BitVec 5} {dn : BitVec 4} {sub : BitVec 2} {w : BitVec 4} {s : State} :
    Goes s (execAmem d s1 s2 dn sub w s) := by
  unfold execAmem
  exact goes_issue (fun _ => ⟨id, id⟩)

theorem keeps_planGrid {cls : Nat} {d : BitVec 6} {f : Fmt} {g : Unit → Grid} {s : State} {ag : Agent} : (planGrid cls d f g s ag).Keeps := by
  unfold planGrid
  exact ⟨fun wf => memWf_emit wf, id⟩

theorem keeps_planTile {cls : Nat} {d : BitVec 6} {v : Unit → Tile} {s : State} {ag : Agent} : (planTile cls d v s ag).Keeps := by
  unfold planTile
  exact ⟨fun wf => memWf_emit wf, id⟩

theorem keeps_planLane {d : BitVec 6} {s1 : BitVec 6} {s2 : BitVec 6} {ty : BitVec 3} {fl : BitVec 2 → Val → Val → Val → Val × Flags}
    {int : Fmt → Nat → Nat → Nat → Nat} {s : State} {ag : Agent} :
    (planLane d s1 s2 ty fl int s ag).Keeps := by
  unfold planLane
  exact keeps_planGrid

theorem goes_execVadd {d : BitVec 6} {s1 : BitVec 6} {s2 : BitVec 6} {ty : BitVec 3} {w : BitVec 4} {s : State} :
    Goes s (execVadd d s1 s2 ty w s) := by
  unfold execVadd
  exact goes_issue (fun _ => keeps_planLane)

theorem goes_execVsub {d : BitVec 6} {s1 : BitVec 6} {s2 : BitVec 6} {ty : BitVec 3} {w : BitVec 4} {s : State} :
    Goes s (execVsub d s1 s2 ty w s) := by
  unfold execVsub
  exact goes_issue (fun _ => keeps_planLane)

theorem goes_execVmul {d : BitVec 6} {s1 : BitVec 6} {s2 : BitVec 6} {ty : BitVec 3} {w : BitVec 4} {s : State} :
    Goes s (execVmul d s1 s2 ty w s) := by
  unfold execVmul
  exact goes_issue (fun _ => keeps_planLane)

theorem goes_execVfma {d : BitVec 6} {s1 : BitVec 6} {s2 : BitVec 6} {ty : BitVec 3} {w : BitVec 4} {s : State} :
    Goes s (execVfma d s1 s2 ty w s) := by
  unfold execVfma
  exact goes_issue (fun _ => keeps_planLane)

theorem goes_execVfms {d : BitVec 6} {s1 : BitVec 6} {s2 : BitVec 6} {ty : BitVec 3} {w : BitVec 4} {s : State} :
    Goes s (execVfms d s1 s2 ty w s) := by
  unfold execVfms
  exact goes_issue (fun _ => keeps_planLane)

theorem goes_execVmin {d : BitVec 6} {s1 : BitVec 6} {s2 : BitVec 6} {ty : BitVec 3} {w : BitVec 4} {s : State} :
    Goes s (execVmin d s1 s2 ty w s) := by
  unfold execVmin
  exact goes_issue (fun _ => keeps_planLane)

theorem goes_execVmax {d : BitVec 6} {s1 : BitVec 6} {s2 : BitVec 6} {ty : BitVec 3} {w : BitVec 4} {s : State} :
    Goes s (execVmax d s1 s2 ty w s) := by
  unfold execVmax
  exact goes_issue (fun _ => keeps_planLane)

theorem goes_execVabs {d : BitVec 6} {s1 : BitVec 6} {ty : BitVec 3} {w : BitVec 4} {s : State} : Goes s (execVabs d s1 ty w s) := by
  unfold execVabs
  exact goes_issue (fun _ => keeps_planLane)

theorem goes_execVneg {d : BitVec 6} {s1 : BitVec 6} {ty : BitVec 3} {w : BitVec 4} {s : State} : Goes s (execVneg d s1 ty w s) := by
  unfold execVneg
  exact goes_issue (fun _ => keeps_planLane)

theorem keeps_planBytes {d : BitVec 6} {s1 : BitVec 6} {s2 : BitVec 6} {f : Byte → Byte → Byte} {s : State} {ag : Agent} :
    (planBytes d s1 s2 f s ag).Keeps := by
  unfold planBytes
  exact keeps_planTile

theorem goes_execVand {d : BitVec 6} {s1 : BitVec 6} {s2 : BitVec 6} {w : BitVec 4} {s : State} : Goes s (execVand d s1 s2 w s) := by
  unfold execVand
  exact goes_issue (fun _ => keeps_planBytes)

theorem goes_execVor {d : BitVec 6} {s1 : BitVec 6} {s2 : BitVec 6} {w : BitVec 4} {s : State} : Goes s (execVor d s1 s2 w s) := by
  unfold execVor
  exact goes_issue (fun _ => keeps_planBytes)

theorem goes_execVxor {d : BitVec 6} {s1 : BitVec 6} {s2 : BitVec 6} {w : BitVec 4} {s : State} : Goes s (execVxor d s1 s2 w s) := by
  unfold execVxor
  exact goes_issue (fun _ => keeps_planBytes)

theorem goes_execVnot {d : BitVec 6} {s1 : BitVec 6} {w : BitVec 4} {s : State} : Goes s (execVnot d s1 w s) := by
  unfold execVnot
  exact goes_issue (fun _ => keeps_planBytes)

theorem keeps_planShift {d : BitVec 6} {s1 : BitVec 6} {s2 : BitVec 6} {ty : BitVec 3} {g : Nat → Nat → Nat → Nat} {s : State} {ag : Agent} :
    (planShift d s1 s2 ty g s ag).Keeps := by
  unfold planShift
  exact keeps_planGrid

theorem goes_execVshl {d : BitVec 6} {s1 : BitVec 6} {s2 : BitVec 6} {ty : BitVec 3} {w : BitVec 4} {s : State} :
    Goes s (execVshl d s1 s2 ty w s) := by
  unfold execVshl
  exact goes_issue (fun _ => keeps_planShift)

theorem goes_execVshr {d : BitVec 6} {s1 : BitVec 6} {s2 : BitVec 6} {ty : BitVec 3} {w : BitVec 4} {s : State} :
    Goes s (execVshr d s1 s2 ty w s) := by
  unfold execVshr
  exact goes_issue (fun _ => keeps_planShift)

theorem goes_execVsra {d : BitVec 6} {s1 : BitVec 6} {s2 : BitVec 6} {ty : BitVec 3} {w : BitVec 4} {s : State} :
    Goes s (execVsra d s1 s2 ty w s) := by
  unfold execVsra
  exact goes_issue (fun _ => keeps_planShift)

theorem goes_execVcmp {md : BitVec 3} {cond : BitVec 3} {s1 : BitVec 6} {s2 : BitVec 6} {ty : BitVec 3} {w : BitVec 4} {s : State} :
    Goes s (execVcmp md cond s1 s2 ty w s) := by
  unfold execVcmp
  exact goes_issue (fun _ => ⟨fun wf1 => memWf_emit wf1, id⟩)

theorem goes_execVsel {d : BitVec 6} {s1 : BitVec 6} {m : BitVec 3} {ty : BitVec 3} {w : BitVec 4} {s : State} : Goes s (execVsel d s1 m ty w s) := by
  unfold execVsel
  exact goes_issue (fun _ => keeps_planTile)

theorem keeps_planMask {md : BitVec 3} {v : Mask} {s : State} {ag : Agent} : (planMask md v s ag).Keeps := by
  unfold planMask
  exact ⟨fun wf => memWf_emit wf, id⟩

theorem goes_execMand {md : BitVec 3} {ms1 : BitVec 3} {ms2 : BitVec 3} {w : BitVec 4} {s : State} : Goes s (execMand md ms1 ms2 w s) := by
  unfold execMand
  exact goes_issue (fun _ => keeps_planMask)

theorem goes_execMor {md : BitVec 3} {ms1 : BitVec 3} {ms2 : BitVec 3} {w : BitVec 4} {s : State} : Goes s (execMor md ms1 ms2 w s) := by
  unfold execMor
  exact goes_issue (fun _ => keeps_planMask)

theorem goes_execMxor {md : BitVec 3} {ms1 : BitVec 3} {ms2 : BitVec 3} {w : BitVec 4} {s : State} : Goes s (execMxor md ms1 ms2 w s) := by
  unfold execMxor
  exact goes_issue (fun _ => keeps_planMask)

theorem goes_execMnot {md : BitVec 3} {ms1 : BitVec 3} {w : BitVec 4} {s : State} : Goes s (execMnot md ms1 w s) := by
  unfold execMnot
  exact goes_issue (fun _ => keeps_planMask)

theorem goes_execMpop {md : BitVec 3} {ms1 : BitVec 3} {w : BitVec 4} {s : State} : Goes s (execMpop md ms1 w s) := by
  unfold execMpop
  exact goes_issue (fun _ => ⟨fun wf1 => memWf_emit wf1, id⟩)

theorem keeps_planFun {d : BitVec 6} {s1 : BitVec 6} {ty : BitVec 3} {g : Val → Val × Flags} {s : State} {ag : Agent} :
    (planFun d s1 ty g s ag).Keeps := by
  unfold planFun
  exact keeps_planGrid

theorem goes_execVexp2 {d : BitVec 6} {s1 : BitVec 6} {ty : BitVec 3} {w : BitVec 4} {s : State} : Goes s (execVexp2 d s1 ty w s) := by
  unfold execVexp2
  exact goes_issue (fun _ => keeps_planFun)

theorem goes_execVlog2 {d : BitVec 6} {s1 : BitVec 6} {ty : BitVec 3} {w : BitVec 4} {s : State} : Goes s (execVlog2 d s1 ty w s) := by
  unfold execVlog2
  exact goes_issue (fun _ => keeps_planFun)

theorem goes_execVrcp {d : BitVec 6} {s1 : BitVec 6} {ty : BitVec 3} {w : BitVec 4} {s : State} : Goes s (execVrcp d s1 ty w s) := by
  unfold execVrcp
  exact goes_issue (fun _ => keeps_planFun)

theorem goes_execVrsq {d : BitVec 6} {s1 : BitVec 6} {ty : BitVec 3} {w : BitVec 4} {s : State} : Goes s (execVrsq d s1 ty w s) := by
  unfold execVrsq
  exact goes_issue (fun _ => keeps_planFun)

theorem goes_execVsqrt {d : BitVec 6} {s1 : BitVec 6} {ty : BitVec 3} {w : BitVec 4} {s : State} : Goes s (execVsqrt d s1 ty w s) := by
  unfold execVsqrt
  exact goes_issue (fun _ => keeps_planFun)

theorem goes_execVsigm {d : BitVec 6} {s1 : BitVec 6} {ty : BitVec 3} {w : BitVec 4} {s : State} : Goes s (execVsigm d s1 ty w s) := by
  unfold execVsigm
  exact goes_issue (fun _ => keeps_planFun)

theorem goes_execVtanh {d : BitVec 6} {s1 : BitVec 6} {ty : BitVec 3} {w : BitVec 4} {s : State} : Goes s (execVtanh d s1 ty w s) := by
  unfold execVtanh
  exact goes_issue (fun _ => keeps_planFun)

theorem goes_execVcvt {d : BitVec 6} {s1 : BitVec 6} {dty : BitVec 3} {rm : BitVec 2} {ov : BitVec 1} {ty : BitVec 3} {w : BitVec 4} {s : State} :
    Goes s (execVcvt d s1 dty rm ov ty w s) := by
  unfold execVcvt
  exact goes_issue (fun _ => ⟨fun wf1 => memWf_emit (memWf_modTileFlag wf1), id⟩)

theorem goes_execVqdec {d : BitVec 6} {s1 : BitVec 6} {s2 : BitVec 6} {ty : BitVec 3} {w : BitVec 4} {s : State} :
    Goes s (execVqdec d s1 s2 ty w s) := by
  unfold execVqdec
  exact goes_issue (fun _ => ⟨fun wf1 => memWf_emit (memWf_modTileFlag wf1), id⟩)

theorem goes_execVqenc {d : BitVec 6} {s1 : BitVec 6} {s2 : BitVec 6} {ty : BitVec 3} {w : BitVec 4} {s : State} :
    Goes s (execVqenc d s1 s2 ty w s) := by
  unfold execVqenc
  exact goes_issue (fun _ => ⟨fun wf1 => memWf_emit (memWf_modTileFlag wf1), id⟩)

theorem goes_execVscl {d : BitVec 6} {s1 : BitVec 6} {s2 : BitVec 6} {ty : BitVec 3} {w : BitVec 4} {s : State} :
    Goes s (execVscl d s1 s2 ty w s) := by
  unfold execVscl
  exact goes_issue (fun _ => keeps_planGrid)

theorem goes_execVred {d : BitVec 6} {s1 : BitVec 6} {order : BitVec 1} {axis : BitVec 1} {kind : BitVec 2} {ty : BitVec 3} {w : BitVec 4}
    {s : State} :
    Goes s (execVred d s1 order axis kind ty w s) := by
  unfold execVred
  exact goes_issue (fun _ => keeps_planGrid)

theorem goes_execVscan {d : BitVec 6} {s1 : BitVec 6} {order : BitVec 1} {axis : BitVec 1} {kind : BitVec 2} {ty : BitVec 3}
    {w : BitVec 4} {s : State} :
    Goes s (execVscan d s1 order axis kind ty w s) := by
  unfold execVscan
  exact goes_issue (fun _ => keeps_planGrid)

theorem keeps_planMove {d : BitVec 6} {s1 : BitVec 6} {ty : BitVec 3} {g : Fmt → Fin 128 → Nat → Option (Fin 128 × Nat)} {s : State} {ag : Agent} :
    (planMove d s1 ty g s ag).Keeps := by
  unfold planMove
  exact keeps_planTile

theorem goes_execVbcr {d : BitVec 6} {s1 : BitVec 6} {ty : BitVec 3} {w : BitVec 4} {s : State} : Goes s (execVbcr d s1 ty w s) := by
  unfold execVbcr
  exact goes_issue (fun _ => keeps_planMove)

theorem goes_execVbcc {d : BitVec 6} {s1 : BitVec 6} {ty : BitVec 3} {w : BitVec 4} {s : State} : Goes s (execVbcc d s1 ty w s) := by
  unfold execVbcc
  exact goes_issue (fun _ => keeps_planMove)

theorem goes_execVbcs {d : BitVec 6} {s1 : BitVec 6} {ty : BitVec 3} {w : BitVec 4} {s : State} : Goes s (execVbcs d s1 ty w s) := by
  unfold execVbcs
  exact goes_issue (fun _ => keeps_planMove)

theorem goes_execVtrn {d : BitVec 6} {s1 : BitVec 6} {ty : BitVec 3} {w : BitVec 4} {s : State} : Goes s (execVtrn d s1 ty w s) := by
  unfold execVtrn
  exact goes_issue (fun _ => keeps_planMove)

theorem goes_execVshf {d : BitVec 6} {s1 : BitVec 6} {s2 : BitVec 6} {ty : BitVec 3} {w : BitVec 4} {s : State} :
    Goes s (execVshf d s1 s2 ty w s) := by
  unfold execVshf
  exact goes_issue (fun _ => keeps_planMove)

theorem goes_execVmov {d : BitVec 6} {s1 : BitVec 6} {w : BitVec 4} {s : State} : Goes s (execVmov d s1 w s) := by
  unfold execVmov
  exact goes_issue (fun _ => ⟨fun wf1 => memWf_emit (memWf_modTileFlag wf1), id⟩)

theorem goes_execVzero {d : BitVec 6} {w : BitVec 4} {s : State} : Goes s (execVzero d w s) := by
  unfold execVzero
  exact goes_issue (fun _ => keeps_planTile)

/-! ### The parts of the machine that the instructions and events move -/

theorem Plan.act_mk {hold : Option Hold} {trap : Option (BitVec 8 × Word)} {next : Bool} {jump : Option Nat} {words : Nat} {wait : Nat × Nat × Nat}
    {act onHold : State → State} (t : State) : (Plan.mk hold trap next jump words wait act onHold).act t = act t := rfl

theorem goes_execVacc {t : BitVec 6} {k : BitVec 5} {h : BitVec 1} {w : BitVec 4} {s : State} : Goes s (execVacc t k h w s) := by
  unfold execVacc
  refine goes_issue fun _ => ⟨fun wf1 => ?_, id⟩
  rw [Plan.act_mk]
  split
  rename_i e
  exact memWf_modBank (memWf_emit (memWf_snd e (memWf_accReadHalf wf1)))

theorem goes_execVacw {t : BitVec 6} {k : BitVec 5} {h : BitVec 1} {mode : BitVec 1} {w : BitVec 4} {s : State} :
    Goes s (execVacw t k h mode w s) := by
  unfold execVacw
  exact goes_issue (fun _ => ⟨fun wf1 => memWf_modBank wf1, id⟩)

theorem goes_execEadd {d : BitVec 4} {s1 : BitVec 4} {s2 : BitVec 4} {imm : BitVec 9} {w : BitVec 4} {s : State} :
    Goes s (execEadd d s1 s2 imm w s) := by
  unfold execEadd
  exact goes_issue (fun _ => ⟨fun wf1 => memWf_emit wf1, id⟩)

theorem goes_execEsub {d : BitVec 4} {s1 : BitVec 4} {s2 : BitVec 4} {imm : BitVec 9} {w : BitVec 4} {s : State} :
    Goes s (execEsub d s1 s2 imm w s) := by
  unfold execEsub
  exact goes_issue (fun _ => ⟨fun wf1 => memWf_emit wf1, id⟩)

theorem goes_execEmul {d : BitVec 4} {s1 : BitVec 4} {s2 : BitVec 4} {w : BitVec 4} {s : State} : Goes s (execEmul d s1 s2 w s) := by
  unfold execEmul
  exact goes_issue (fun _ => ⟨fun wf1 => memWf_emit wf1, id⟩)

theorem goes_execEmov {d : BitVec 4} {s1 : BitVec 4} {w : BitVec 4} {s : State} : Goes s (execEmov d s1 w s) := by
  unfold execEmov
  exact goes_issue (fun _ => ⟨fun wf1 => memWf_emit wf1, id⟩)

theorem goes_execEli {d : BitVec 4} {imm : BitVec 17} {w : BitVec 4} {s : State} : Goes s (execEli d imm w s) := by
  unfold execEli
  exact goes_issue (fun _ => ⟨fun wf1 => memWf_emit wf1, id⟩)

theorem memWf_modQueue {s : State} {u : SuiteId} {e : Engine} {f : List Cmd → List Cmd} (wf : s.MemWf) : (modQueue s u e f).MemWf := by
  unfold modQueue
  refine memWf_modSuite ?_ wf
  intro _
  split
  · rfl
  · rfl

theorem memWf_modRunning {s : State} {u : SuiteId} {e : Engine} {f : List Cmd → List Cmd} (wf : s.MemWf) : (modRunning s u e f).MemWf := by
  unfold modRunning
  refine memWf_modSuite ?_ wf
  intro _
  split
  · rfl
  · rfl

theorem keeps_planAccept {e : Engine} {op : CmdOp} {tok : Tok} {dn : BitVec 4} {hold : Option Hold} {trap : Option (BitVec 8 × Word)}
    {words : Nat} {s : State} {ag : Agent} :
    (planAccept e op tok dn hold trap words s ag).Keeps := by
  unfold planAccept
  exact ⟨fun wf => memWf_modQueue wf, id⟩

theorem memWf_takePops {s : State} {u : SuiteId} {e : Engine} {c : Cmd} (wf : s.MemWf) : (takePops s u e c).MemWf :=
  memWf_foldl (fun _ _ wf1 => memWf_modBank wf1) wf

theorem memWf_completeCmd {s : State} {u : SuiteId} {e : Engine} {c : Cmd} (wf : s.MemWf) : (completeCmd s u e c).MemWf := by
  unfold completeCmd
  split
  · exact wf
  · refine memWf_doneFor ?_
    split
    · exact memWf_countEvents (memWf_ite wf (memWf_foldl (fun _ _ wf1 => memWf_modBank wf1) wf))
    · exact memWf_ite wf (memWf_foldl (fun _ _ wf1 => memWf_modBank wf1) wf)

theorem memWf_setHead {s : State} {u : SuiteId} {e : Engine} {c : Cmd} (wf : s.MemWf) : (setHead s u e c).MemWf :=
  memWf_modQueue wf

theorem memWf_dropHead {s : State} {u : SuiteId} {e : Engine} (wf : s.MemWf) : (dropHead s u e).MemWf :=
  memWf_modQueue wf

theorem memWf_popHead {s : State} {u : SuiteId} {e : Engine} (wf : s.MemWf) : (popHead s u e).2.MemWf := by
  unfold popHead
  split
  · exact wf
  · split
    · exact wf
    · split
      · split
        · exact memWf_setHead (memWf_takePops wf)
        · exact wf
      · exact wf

theorem memWf_headTrap {s : State} {u : SuiteId} {e : Engine} {c : Cmd} {cause : BitVec 8} {tval : Nat} (wf : s.MemWf) :
    (headTrap s u e c cause tval).MemWf :=
  memWf_engineTrap (memWf_setHead wf)

theorem memWf_runTrap {s : State} {u : SuiteId} {e : Engine} {n : Nat} {cause : BitVec 8} {tval : Option Nat} (wf : s.MemWf) :
    (runTrap s u e n cause tval).MemWf := by
  unfold runTrap
  split
  · exact wf
  · exact memWf_ite (memWf_ite wf (memWf_modRunning wf)) (memWf_engineTrap (memWf_modRunning wf))

theorem memWf_finishHead {s : State} {u : SuiteId} {e : Engine} {effect : State → State} (he : ∀ t : State, t.MemWf → (effect t).MemWf)
    (wf : s.MemWf) : (finishHead s u e effect).MemWf := by
  unfold finishHead
  split
  · rename_i e1
    exact memWf_snd e1 (memWf_popHead wf)
  · rename_i s1 e1
    have taken : s1.MemWf := memWf_snd e1 (memWf_popHead wf)
    exact memWf_ite (memWf_completeCmd (memWf_dropHead (memWf_ite taken (he _ taken)))) (memWf_setHead (memWf_ite taken (he _ taken)))

theorem memWf_startHead {s : State} {u : SuiteId} {e : Engine} {c : Cmd} (wf : s.MemWf) : (startHead s u e c).MemWf :=
  memWf_modRunning (memWf_dropHead wf)

theorem memWf_finishRunning {s : State} {u : SuiteId} {e : Engine} {n : Nat} (wf : s.MemWf) : (finishRunning s u e n).MemWf := by
  unfold finishRunning
  split
  · exact wf
  · exact memWf_ite (memWf_completeCmd (memWf_modRunning wf)) (memWf_modRunning wf)

theorem memWf_unitWrite {s : State} {u : SuiteId} {a : Nat} {bs : List Byte} (wf : s.MemWf) : (unitWrite s u a bs).MemWf :=
  memWf_lsWrite (memWf_modRoom wf)

theorem goes_drainOp {f : SuiteId → DrainCtx → State → State} {s : State}
    (hf : ∀ (u : SuiteId) (x : DrainCtx) (t : State), t.MemWf → (f u x t).MemWf) :
    
    Goes s (drainOp f s) := by
  refine .next fun wf => ?_
  dsimp only
  split
  · exact memWf_advance wf
  · exact memWf_of_parts rfl rfl (hf _ _ _ (memWf_advance wf))

theorem memWf_setRow {s : State} {u : SuiteId} {x : DrainCtx} (wf : s.MemWf) : (setRow s u x).MemWf :=
  memWf_modRoom wf

theorem memWf_drainArith {mul perRow : Bool} {n : BitVec 12} {u : SuiteId} {x : DrainCtx} {s : State} (wf : s.MemWf) :
    (drainArith mul perRow n u x s).MemWf := by
  unfold drainArith
  extract_lets line r s1
  have stored : s1.MemWf := memWf_setRow wf
  clear_value s1 r
  split
  · exact memWf_modRoom stored
  · exact stored

theorem goes_execDscl {n : BitVec 12} {s : State} : Goes s (execDscl n s) := by
  unfold execDscl
  exact goes_drainOp (fun _ _ _ wf => memWf_drainArith wf)

theorem goes_execDbia {n : BitVec 12} {s : State} : Goes s (execDbia n s) := by
  unfold execDbia
  exact goes_drainOp (fun _ _ _ wf => memWf_drainArith wf)

theorem goes_execDmul {n : BitVec 12} {s : State} : Goes s (execDmul n s) := by
  unfold execDmul
  exact goes_drainOp (fun _ _ _ wf => memWf_drainArith wf)

theorem goes_execDadd {n : BitVec 12} {s : State} : Goes s (execDadd n s) := by
  unfold execDadd
  exact goes_drainOp (fun _ _ _ wf => memWf_drainArith wf)

theorem goes_execDact {fn : BitVec 6} {s : State} : Goes s (execDact fn s) := by
  unfold execDact
  exact goes_drainOp (fun _ _ _ wf => memWf_setRow wf)

theorem goes_execDclp {n : BitVec 12} {s : State} : Goes s (execDclp n s) := by
  unfold execDclp
  exact goes_drainOp (fun _ _ _ wf => memWf_setRow wf)

theorem goes_execDcvt {ov : BitVec 1} {rm : BitVec 2} {ty : BitVec 3} {s : State} : Goes s (execDcvt ov rm ty s) := by
  unfold execDcvt
  exact goes_drainOp (fun _ _ _ wf => memWf_setRow wf)

theorem memWf_takePort {s : State} {u : SuiteId} {k : Fin 32} (wf : s.MemWf) : (takePort s u k).MemWf :=
  memWf_modRoom wf

theorem goes_execDovw {k : BitVec 5} {s : State} : Goes s (execDovw k s) := by
  unfold execDovw
  refine goes_drainOp (fun u1 x1 t1 wf => ?_)
  split
  · exact memWf_accSetRow (memWf_takePort wf)
  · exact wf

theorem goes_execDstl {pitch : BitVec 2} {n : BitVec 12} {s : State} : Goes s (execDstl pitch n s) := by
  unfold execDstl
  exact goes_drainOp (fun _ _ _ wf => memWf_setRow wf)

theorem memWf_writeMain {s : State} {u : SuiteId} {x : DrainCtx} (wf : s.MemWf) : (writeMain s u x).MemWf := by
  rw [writeMain]
  split
  · exact memWf_unitWrite wf
  · dsimp only
    split
    · rename_i h
      have taken := memWf_takePort (u := u) (k := x.accTile x.c) wf
      split
      · have read := memWf_accReadRow (u := u) (k := x.accTile x.c) (row := ⟨x.row, h⟩) taken
        generalize accReadRow (takePort s u (x.accTile x.c)) u (x.accTile x.c) ⟨x.row, h⟩ = p at read ⊢
        exact memWf_ite (memWf_modRoom (memWf_accSetRow read)) (memWf_accSetRow read)
      · exact memWf_accSetRow taken
    · exact wf

theorem memWf_finishRow {s : State} {u : SuiteId} {x : DrainCtx} {main : Bool} (wf : s.MemWf) : (finishRow s u x main).MemWf :=
  memWf_modRoom (memWf_ite (memWf_writeMain (memWf_foldl (fun _ _ wf1 => memWf_unitWrite wf1) wf)) (memWf_foldl
      (fun _ _ wf1 => memWf_unitWrite wf1) wf))

theorem goes_execDrainDend {nomain : BitVec 1} {s : State} : Goes s (execDrainDend nomain s) := by
  unfold execDrainDend
  refine .next fun wf => ?_
  dsimp only
  split
  · exact memWf_advance wf
  · exact memWf_finishRow wf

theorem memWf_wingBeat {s : State} {lead : SuiteId} (wf : s.MemWf) : (wingBeat s lead).MemWf :=
  memWf_foldl (fun _ _ wf1 => memWf_modRoom wf1) wf

theorem memWf_stageStep {s : State} {lead : SuiteId} {r : WingRun} (wf : s.MemWf) : (stageStep s lead r).2.MemWf :=
  memWf_foldl (fun _ _ wf1 => memWf_modRoom wf1) (memWf_foldl (fun _ _ wf1 => memWf_modRoom wf1) wf)

theorem memWf_stageAhead {lead : SuiteId} {n : Nat} {p : WingRun × State} (wf : p.2.MemWf) : (stageAhead lead n p).2.MemWf := by
  induction n generalizing p with
  | zero => exact wf
  | succ n ih =>
    obtain ⟨r, s⟩ := p
    unfold stageAhead
    split
    · exact ih (memWf_stageStep wf)
    · exact wf

theorem memWf_feed {s : State} {lead : SuiteId} {r : WingRun} (wf : s.MemWf) : (feed s lead r).2.MemWf := by
  unfold feed
  split
  · exact wf
  · split
    rename_i e
    split
    rename_i e1
    split
    · exact memWf_stageStep (memWf_snd e1 (memWf_stageAhead (memWf_snd e (memWf_chooseBelow wf))))
    · exact memWf_snd e1 (memWf_stageAhead (memWf_snd e (memWf_chooseBelow wf)))

theorem memWf_enterStep {s : State} {lead : SuiteId} {r : WingRun} (wf : s.MemWf) : (enterStep s lead r).2.MemWf := by
  unfold enterStep
  split
  · exact wf
  · exact memWf_foldl (fun _ _ wf1 => memWf_modRoom wf1) (memWf_foldl (fun _ _ wf1 => memWf_modRoom wf1) wf)

theorem memWf_drainRoom {s : State} {v : SuiteId} (wf : s.MemWf) : (drainRoom s v).MemWf := by
  unfold drainRoom
  split
  · exact wf
  · split
    · dsimp only
      split
      · split
        · exact memWf_finishRow (memWf_modRoom wf)
        · exact memWf_of_parts (s := s) rfl rfl wf
      · exact memWf_finishRow (memWf_modRoom wf)
    · exact wf

theorem goes_execMnest {s1 : BitVec 5} {s2 : BitVec 5} {tok : Tok} {dn : BitVec 4} {w : BitVec 4} {s : State} :
    Goes s (execMnest s1 s2 tok dn w s) := by
  unfold execMnest
  exact goes_issue (fun _ => keeps_planAccept)

theorem goes_execMfmt {s1 : BitVec 5} {s2 : BitVec 5} {tok : Tok} {dn : BitVec 4} {w : BitVec 4} {s : State} :
    Goes s (execMfmt s1 s2 tok dn w s) := by
  unfold execMfmt
  exact goes_issue (fun _ => keeps_planAccept)

theorem goes_execMgo {tok : Tok} {dn : BitVec 4} {w : BitVec 4} {s : State} : Goes s (execMgo tok dn w s) := by
  unfold execMgo
  exact goes_issue (fun _ => keeps_planAccept)

theorem goes_execMdrn {s1 : BitVec 5} {s2 : BitVec 5} {tok : Tok} {dn : BitVec 4} {w : BitVec 4} {s : State} :
    Goes s (execMdrn s1 s2 tok dn w s) := by
  unfold execMdrn
  exact goes_issue (fun _ => keeps_planAccept)

theorem goes_execMwing {s1 : BitVec 5} {tok : Tok} {dn : BitVec 4} {w : BitVec 4} {s : State} : Goes s (execMwing s1 tok dn w s) := by
  unfold execMwing
  exact goes_issue fun _ => ⟨fun wf1 => memWf_modQueue wf1, id⟩

theorem memWf_modShadow {s : State} {u : SuiteId} {b : Fin 2} {f : NestSet → NestSet} (wf : s.MemWf) : (modShadow s u b f).MemWf :=
  memWf_modRoom wf

theorem memWf_shadowEffect {u : SuiteId} {c : Cmd} {s : State} (wf : s.MemWf) : (shadowEffect u c s).MemWf := by
  unfold shadowEffect
  split
  · exact memWf_modShadow wf
  · exact memWf_modShadow wf
  · exact memWf_modShadow wf
  · exact wf

theorem goes_execMgoStart {u : SuiteId} {s : State} : Goes s (execMgoStart u s) := by
  unfold execMgoStart
  refine .next fun wf => ?_
  split
  · split
    · rename_i e1
      exact memWf_snd e1 (memWf_popHead wf)
    · rename_i e1
      dsimp only
      split
      · exact memWf_snd e1 (memWf_popHead wf)
      · split
        · exact memWf_headTrap (memWf_foldl (fun _ _ wf1 => memWf_modRoom wf1) (memWf_snd e1 (memWf_popHead wf)))
        · exact memWf_foldl (fun _ _ wf1 => memWf_modRoom wf1) (memWf_modRoom (memWf_startHead (memWf_foldl (fun _ _ wf1 => memWf_modRoom wf1)
            (memWf_snd e1 (memWf_popHead wf)))))
  · exact wf

theorem memWf_haltWing {s : State} {lead : SuiteId} {h : Halt} (wf : s.MemWf) : (haltWing s lead h).MemWf :=
  memWf_foldl (fun _ _ wf1 => memWf_modRoom wf1) wf

theorem memWf_endBankRuns {s : State} {lead : SuiteId} {b : Fin 2} (wf : s.MemWf) : (endBankRuns s lead b).MemWf :=
  memWf_ite wf (memWf_ite (memWf_modRoom (memWf_foldl (fun _ _ wf1 => memWf_modRoom wf1) (memWf_modSuite (fun _ => rfl) (memWf_modRoom wf))))
      (memWf_foldl (fun _ _ wf1 => memWf_modRoom wf1) (memWf_modSuite (fun _ => rfl) (memWf_modRoom wf))))

theorem memWf_haltFmt {s : State} {lead : SuiteId} {r : WingRun} {idx : Nat} (wf : s.MemWf) : (haltFmt s lead r idx).MemWf :=
  memWf_ite (memWf_endBankRuns wf) (memWf_runTrap (memWf_haltWing wf))

theorem goes_execDrainRow {u : SuiteId} {s : State} : Goes s (execDrainRow u s) := by
  unfold execDrainRow
  exact .next fun wf => memWf_ite (memWf_drainRoom wf) wf

theorem memWf_finishRuns {s : State} {lead : SuiteId} (wf : s.MemWf) : (finishRuns s lead).MemWf :=
  memWf_foldl (fun _ _ wf1 => memWf_ite (memWf_finishRunning (memWf_ite (memWf_foldl (fun _ _ wf2 => memWf_modRoom wf2) (memWf_modRoom wf1))
      (memWf_modRoom wf1))) wf1) wf

theorem memWf_countSteps {s : State} {lead : SuiteId} (wf : s.MemWf) : (countSteps s lead).MemWf :=
  memWf_foldl (fun _ _ wf1 => memWf_ite (memWf_countEvents wf1) wf1) wf

theorem memWf_setNbeat {s : State} {lead : SuiteId} {n : Nat} (wf : s.MemWf) : (setNbeat s lead n).MemWf :=
  memWf_foldl (fun _ _ wf1 => memWf_modRoom wf1) wf

theorem goes_execNestBeat {u : SuiteId} {s : State} : Goes s (execNestBeat u s) := by
  refine .next fun wf => ?_
  split
  · exact wf
  · split
    · exact memWf_haltFmt wf
    · have fed := memWf_foldl_snd (l := (s.room u).runs) (p := (([] : List WingRun), s))
        (f := fun p r => (p.1 ++ [(enterStep (feed p.2 u r).2 u (feed p.2 u r).1).1], (enterStep (feed p.2 u r).2 u (feed p.2 u r).1).2))
        (fun _ _ wf1 => memWf_enterStep (memWf_feed wf1)) wf
      dsimp only
      refine memWf_modRoom ?_
      split
      · exact memWf_setNbeat (memWf_countSteps (memWf_wingBeat (memWf_modRoom fed)))
      · exact memWf_countSteps (memWf_wingBeat (memWf_modRoom fed))

theorem goes_execHaltRestart {u : SuiteId} {s : State} : Goes s (execHaltRestart u s) := by
  unfold execHaltRestart
  exact .next fun wf => memWf_ite (memWf_haltWing wf) wf

theorem memWf_setWings {s : State} {lead : SuiteId} {env : Nat} {shape : Nat} (wf : s.MemWf) : (setWings s lead env shape).MemWf :=
  memWf_foldl (fun _ _ wf1 => memWf_modRoom wf1) wf

theorem goes_execReshapeEffect {u : SuiteId} {s : State} : Goes s (execReshapeEffect u s) := by
  unfold execReshapeEffect
  refine .next fun wf => ?_
  split
  · split
    · rename_i e1
      exact memWf_snd e1 (memWf_popHead wf)
    · rename_i e1
      split
      · exact memWf_ite (memWf_headTrap (memWf_snd e1 (memWf_popHead wf))) (memWf_ite (memWf_snd e1 (memWf_popHead wf)) (memWf_finishRunning
          (memWf_startHead (memWf_setWings (memWf_snd e1 (memWf_popHead wf))))))
      · exact memWf_snd e1 (memWf_popHead wf)
  · exact wf

theorem goes_execDstart {s1 : BitVec 5} {s2 : BitVec 5} {tok : Tok} {dn : BitVec 4} {w : BitVec 4} {s : State} :
    Goes s (execDstart s1 s2 tok dn w s) := by
  unfold execDstart
  exact goes_issue (fun _ => keeps_planAccept)

theorem goes_execDlook {s1 : BitVec 5} {tok : Tok} {dn : BitVec 4} {w : BitVec 4} {s : State} : Goes s (execDlook s1 tok dn w s) := by
  unfold execDlook
  exact goes_issue (fun _ => keeps_planAccept)

theorem goes_execDfeed {s1 : BitVec 5} {s2 : BitVec 5} {tok : Tok} {dn : BitVec 4} {w : BitVec 4} {s : State} :
    Goes s (execDfeed s1 s2 tok dn w s) := by
  unfold execDfeed
  exact goes_issue (fun _ => keeps_planAccept)

theorem goes_execDdrn {s1 : BitVec 5} {tok : Tok} {dn : BitVec 4} {w : BitVec 4} {s : State} : Goes s (execDdrn s1 tok dn w s) := by
  unfold execDdrn
  exact goes_issue (fun _ => keeps_planAccept)

theorem goes_execDend {tok : Tok} {dn : BitVec 4} {w : BitVec 4} {s : State} : Goes s (execDend tok dn w s) := by
  unfold execDend
  exact goes_issue (fun _ => keeps_planAccept)

theorem goes_execDret {w : BitVec 4} {s : State} : Goes s (execDret w s) := by
  unfold execDret
  exact goes_issue (fun _ => ⟨fun wf1 => memWf_modSuite (fun _ => rfl) wf1, id⟩)

theorem memWf_modDrone {s : State} {lead : SuiteId} {f : Drone → Drone} (wf : s.MemWf) : (modDrone s lead f).MemWf :=
  memWf_modRoom wf

theorem goes_execDemandVector {u : SuiteId} {s : State} : Goes s (execDemandVector u s) := by
  unfold execDemandVector
  refine .next fun wf => ?_
  dsimp only
  split
  · exact wf
  · exact memWf_ite wf (memWf_modSuite (fun _ => rfl) (memWf_modDrone wf))

theorem goes_execDstartEffect {u : SuiteId} {s : State} : Goes s (execDstartEffect u s) := by
  unfold execDstartEffect
  refine .next fun wf => ?_
  split
  · split
    · rename_i e1
      exact memWf_snd e1 (memWf_popHead wf)
    · rename_i e1
      split
      · exact memWf_snd e1 (memWf_popHead wf)
      · dsimp only
        split
        · exact memWf_headTrap (memWf_foldl (fun _ _ wf1 => memWf_modRoom wf1) (memWf_snd e1 (memWf_popHead wf)))
        · split
          · exact memWf_headTrap (memWf_foldl (fun _ _ wf1 => memWf_modRoom wf1) (memWf_snd e1 (memWf_popHead wf)))
          · split
            · exact memWf_headTrap (memWf_foldl (fun _ _ wf1 => memWf_modRoom wf1) (memWf_snd e1 (memWf_popHead wf)))
            · exact memWf_modDrone (memWf_modRoom (memWf_foldl (fun _ _ wf1 => memWf_modRoom wf1) (memWf_modSuite (fun _ => rfl)
                (memWf_startHead (memWf_foldl (fun _ _ wf1 => memWf_modRoom wf1) (memWf_snd e1 (memWf_popHead wf)))))))
  · exact wf

theorem memWf_emptyStep {s : State} {lead : SuiteId} {step : Nat} (wf : s.MemWf) : (emptyStep s lead step).MemWf :=
  memWf_foldl (fun _ _ wf1 => memWf_modRoom wf1) (memWf_foldl (fun _ _ wf1 => memWf_modRoom wf1) wf)

theorem memWf_endDrone {s : State} {lead : SuiteId} (wf : s.MemWf) : (endDrone s lead).MemWf := by
  unfold endDrone
  dsimp only
  split
  · exact memWf_finishRunning (memWf_modDrone (memWf_foldl (fun _ _ wf1 => memWf_modRoom wf1) (memWf_modRoom wf)))
  · exact memWf_modDrone (memWf_foldl (fun _ _ wf1 => memWf_modRoom wf1) (memWf_modRoom wf))

theorem memWf_fixFinal {s : State} {lead : SuiteId} {count : Nat} (wf : s.MemWf) : (fixFinal s lead count).MemWf := by
  unfold fixFinal
  split
  · exact wf
  · exact memWf_ite (memWf_modDrone (memWf_modDrone (memWf_foldl (fun _ _ wf1 => memWf_ite wf1 (memWf_emptyStep wf1)) wf))) (memWf_ite
      (memWf_ite (memWf_modRoom (memWf_modDrone (memWf_foldl (fun _ _ wf1 => memWf_ite wf1 (memWf_emptyStep wf1)) wf))) (memWf_modDrone
      (memWf_modRoom (memWf_modDrone (memWf_foldl (fun _ _ wf1 => memWf_ite wf1 (memWf_emptyStep wf1)) wf))))) (memWf_modDrone (memWf_foldl
      (fun _ _ wf1 => memWf_ite wf1 (memWf_emptyStep wf1)) wf)))

theorem memWf_dendEffect {u : SuiteId} {s : State} (wf : s.MemWf) : (dendEffect u s).MemWf :=
  memWf_ite wf (memWf_fixFinal wf)

theorem memWf_dlookEffect {u : SuiteId} {l : Nat} {s : State} (wf : s.MemWf) : (dlookEffect u l s).MemWf :=
  memWf_modDrone wf

theorem goes_execBeatDue {u : SuiteId} {s : State} : Goes s (execBeatDue u s) := by
  unfold execBeatDue
  refine .next fun wf => ?_
  split
  · exact wf
  · exact memWf_ite (memWf_modDrone wf) wf

theorem memWf_enterDrone {s : State} {lead : SuiteId} {r : WingRun} (wf : s.MemWf) : (enterDrone s lead r).MemWf :=
  memWf_modDrone (memWf_modRoom (memWf_emptyStep wf))

theorem memWf_droneAfter {s : State} {lead : SuiteId} {before : Nat} (wf : s.MemWf) : (droneAfter s lead before).MemWf := by
  unfold droneAfter
  split
  · exact wf
  · split
    · split
      · refine memWf_modDrone ?_
        refine memWf_foldl (fun t1 x2 wf1 => ?_) wf
        split
        · exact memWf_finishRunning wf1
        · exact wf1
      · refine memWf_foldl (fun t1 x2 wf1 => ?_) wf
        split
        · exact memWf_finishRunning wf1
        · exact wf1
    · refine memWf_foldl (fun t1 x2 wf1 => ?_) wf
      split
      · exact memWf_finishRunning wf1
      · exact wf1

theorem goes_execDroneBeat {u : SuiteId} {s : State} : Goes s (execDroneBeat u s) := by
  unfold execDroneBeat
  refine .next fun wf => ?_
  split
  · exact wf
  · split
    · exact wf
    · exact memWf_droneAfter (memWf_modDrone (memWf_modRoom (memWf_modRoom (memWf_wingBeat (memWf_ite (memWf_foldl
        (fun _ _ wf1 => memWf_countEvents wf1) (memWf_enterDrone (memWf_foldl (fun _ _ wf1 => memWf_drainRoom wf1) wf))) (memWf_foldl
        (fun _ _ wf1 => memWf_drainRoom wf1) wf))))))

theorem goes_execMissdl {u : SuiteId} {s : State} : Goes s (execMissdl u s) := by
  unfold execMissdl
  refine .next fun wf => ?_
  split
  · exact wf
  · dsimp only
    split
    · split
      · split
        · exact memWf_ite (memWf_runTrap (memWf_modDrone wf)) (memWf_modDrone wf)
        · exact memWf_modDrone wf
      · exact memWf_modDrone wf
    · exact wf

theorem memWf_fillSide {s : State} {lead : SuiteId} {bank : Fin 2} {b : Bool} {step : Nat} {src : Word} {ctl : Word} (wf : s.MemWf) :
    (fillSide s lead bank b step src ctl).MemWf :=
  memWf_ite (memWf_modDrone (memWf_foldl (fun _ _ wf1 => memWf_modRoom wf1) wf)) (memWf_foldl (fun _ _ wf1 => memWf_modRoom wf1) wf)

theorem goes_execDfeedHead {u : SuiteId} {s : State} : Goes s (execDfeedHead u s) := by
  refine .next fun wf => ?_
  split
  · split
    · rename_i e
      exact memWf_snd e (memWf_popHead wf)
    · rename_i e
      have taken := memWf_snd e (memWf_popHead wf)
      dsimp only
      split
      · exact memWf_finishHead (fun _ wf1 => wf1) taken
      · split
        · exact taken
        · split
          · exact memWf_headTrap taken
          · split
            · exact memWf_headTrap taken
            · split
              · exact memWf_finishHead (fun _ wf1 => memWf_modDrone wf1) taken
              · split
                · split
                  · exact memWf_headTrap taken
                  · exact memWf_finishHead (fun _ wf1 => memWf_modDrone wf1) taken
                · exact memWf_finishHead (fun _ wf1 => memWf_fillSide wf1) taken
  · exact wf

theorem goes_execDdrnHead {u : SuiteId} {s : State} : Goes s (execDdrnHead u s) := by
  unfold execDdrnHead
  refine .next fun wf => ?_
  split
  · split
    · rename_i e1
      exact memWf_snd e1 (memWf_popHead wf)
    · rename_i e1
      split
      · exact memWf_headTrap (memWf_snd e1 (memWf_popHead wf))
      · exact memWf_ite (memWf_headTrap (memWf_snd e1 (memWf_popHead wf))) (memWf_startHead (memWf_modRoom (memWf_modDrone (memWf_snd e1
          (memWf_popHead wf)))))
  · exact wf

theorem memWf_setBusy {s : State} {t : TenantId} {seg : Nat} {n : Nat} (wf : s.MemWf) : (setBusy s t seg n).MemWf :=
  memWf_devWrite wf

theorem memWf_lowerBusy {s : State} {t : TenantId} {seg : Nat} (wf : s.MemWf) : (lowerBusy s t seg).MemWf :=
  memWf_ite wf (memWf_setBusy wf)

theorem goes_execCpy {s1 s2 : BitVec 5} {tok : Tok} {dn : BitVec 4} {desc : BitVec 17} {w : BitVec 4} {s : State} :
    Goes s (execCpy s1 s2 tok dn desc w s) := by
  unfold execCpy
  exact goes_issue fun _ => ⟨fun wf1 => memWf_setBusy (memWf_modQueue wf1), id⟩

theorem goes_execCpyq {tok : Tok} {dn : BitVec 4} {w : BitVec 4} {s : State} : Goes s (execCpyq tok dn w s) := by
  unfold execCpyq
  exact goes_issue (fun _ => keeps_planAccept)

theorem goes_execCpyStart {u : SuiteId} {s : State} : Goes s (execCpyStart u s) := by
  unfold execCpyStart
  refine .next fun wf => ?_
  split
  · split
    · rename_i e1
      exact memWf_snd e1 (memWf_popHead wf)
    · rename_i e1
      exact memWf_ite (memWf_startHead (memWf_snd e1 (memWf_popHead wf))) (memWf_snd e1 (memWf_popHead wf))
  · exact wf

theorem memWf_modRun {s : State} {u : SuiteId} {k : Nat} {f : Cmd → Cmd} (wf : s.MemWf) : (modRun s u k f).MemWf :=
  memWf_modRunning wf

theorem memWf_readSegElem {s : State} {u : SuiteId} {c : Cmd} {j : CopyJob} {d : Desc} {n : Nat} (wf : s.MemWf) :
    (readSegElem s u c j d n).2.MemWf := by
  unfold readSegElem
  split
  · dsimp only
    split
    · exact wf
    · split
      · rename_i e1
        exact memWf_snd e1 (memWf_loadBytes wf)
      · rename_i e2
        exact memWf_snd e2 (memWf_loadBytes wf)
      · rename_i e1
        exact memWf_snd e1 (memWf_loadBytes wf)
  · dsimp only
    split
    · exact wf
    · split
      · rename_i e
        exact memWf_snd e (memWf_loadBytes wf)
      · rename_i e1
        exact memWf_snd e1 (memWf_loadBytes wf)
      · rename_i e
        exact memWf_snd e (memWf_loadBytes wf)

theorem memWf_writeSegElem {s : State} {u : SuiteId} {c : Cmd} {j : CopyJob} {d : Desc} {n : Nat} {v : Nat} (wf : s.MemWf) :
    (writeSegElem s u c j d n v).2.MemWf := by
  unfold writeSegElem
  split
  · dsimp only
    split
    · exact memWf_l1DropLine (memWf_storeNibble wf)
    · exact memWf_storeNibble wf
  · dsimp only
    split
    · exact memWf_l1DropLine (memWf_storeBytes wf)
    · exact memWf_storeBytes wf

theorem memWf_writeLsElem {s : State} {u : SuiteId} {j : CopyJob} {n : Nat} {v : Nat} (wf : s.MemWf) : (writeLsElem s u j n v).MemWf :=
  memWf_ite (memWf_lsWrite wf) (memWf_lsWrite wf)

theorem memWf_moveElem {s : State} {u : SuiteId} {c : Cmd} {j : CopyJob} {d : Desc} {n : Nat} (wf : s.MemWf) : (moveElem s u c j d n).2.MemWf := by
  unfold moveElem
  split
  · split
    · exact wf
    · split
      · split
        · exact wf
        · dsimp only
          split
          · rename_i e2
            exact memWf_accRead (memWf_snd e2 (memWf_writeSegElem wf))
          · rename_i e3
            exact memWf_snd e3 (memWf_writeSegElem wf)
          · rename_i e2
            exact memWf_snd e2 (memWf_writeSegElem wf)
      · split
        · exact wf
        · dsimp only
          split
          · rename_i e1
            exact memWf_snd e1 (memWf_writeSegElem wf)
          · rename_i e2
            exact memWf_snd e2 (memWf_writeSegElem wf)
          · rename_i e1
            exact memWf_snd e1 (memWf_writeSegElem wf)
  · split
    · rename_i e
      split
      · exact memWf_snd e (memWf_readSegElem wf)
      · exact memWf_writeLsElem (memWf_snd e (memWf_readSegElem wf))
    · rename_i e1
      exact memWf_snd e1 (memWf_readSegElem wf)
    · rename_i e
      exact memWf_snd e (memWf_readSegElem wf)

theorem memWf_moveElems {s : State} {u : SuiteId} {c : Cmd} {j : CopyJob} {d : Desc} {ps : List Nat} (wf : s.MemWf) :
    (moveElems s u c j d ps).2.2.MemWf := by
  induction ps generalizing s u c j d wf with
  | nil =>
    unfold moveElems
    exact wf
  | cons x l ih =>
    unfold moveElems
    split
    · rename_i e
      exact ih (memWf_snd e (memWf_moveElem wf))
    · rename_i e
      exact memWf_snd e (memWf_moveElem wf)

theorem memWf_haltSched {s : State} {u : SuiteId} {tile : Fin 32} {held : List (SuiteId × Fin 2 × Nat)} (wf : s.MemWf) :
    (haltSched s u tile held).2.MemWf := by
  unfold haltSched
  split
  · exact wf
  · exact memWf_ite (memWf_haltWing wf) (memWf_runTrap (memWf_haltWing wf))

theorem memWf_loadWords {s : State} {u : SuiteId} {c : Cmd} {j : CopyJob} {d : Desc} {ps : List Nat} (wf : s.MemWf) :
    (loadWords s u c j d ps).2.2.MemWf := by
  induction ps generalizing s u c j d wf with
  | nil =>
    unfold loadWords
    exact wf
  | cons x l ih =>
    unfold loadWords
    split
    · rename_i e
      exact ih (memWf_snd e (memWf_readSegElem wf))
    · rename_i e1
      exact memWf_snd e1 (memWf_readSegElem wf)
    · rename_i e
      exact memWf_snd e (memWf_readSegElem wf)

theorem memWf_accPutWord {s : State} {u : SuiteId} {k : Fin 32} {row : Fin 128} {col : Fin 128} {add : Bool} {int : Bool} {w : W32} (wf : s.MemWf) :
    (accPutWord s u k row col add int w).MemWf := by
  unfold accPutWord
  split
  · refine memWf_accSet ?_
    split
    · exact wf
    · exact memWf_modRoom (memWf_countErr (memWf_dropAccErrors wf))
    · exact memWf_modRoom (memWf_countErr wf)
  · exact memWf_accSet wf

theorem memWf_copyTraps {s : State} {u : SuiteId} {kk : Nat} {c : Cmd} {j : CopyJob} {cause : BitVec 8} {tval : Option Nat} (wf : s.MemWf) :
    (copyTraps s u kk c j cause tval).MemWf :=
  memWf_runTrap (memWf_modRun (memWf_ite (memWf_lowerBusy wf) wf))

theorem memWf_readRows {s : State} {u : SuiteId} {kk : Nat} {c : Cmd} {j : CopyJob} {d : Desc} (wf : s.MemWf) : (readRows s u kk c j d).MemWf := by
  unfold readRows
  split
  · rename_i e1
    exact memWf_copyTraps (memWf_third e1 (memWf_loadWords wf))
  · rename_i e
    exact memWf_modRun (memWf_third e (memWf_loadWords wf))

theorem memWf_moveRow {s : State} {u : SuiteId} {kk : Nat} {c : Cmd} {j : CopyJob} (wf : s.MemWf) : (moveRow s u kk c j).MemWf := by
  unfold moveRow
  dsimp only
  split
  · exact wf
  · split
    · split
      · exact memWf_chooseBelow wf
      · split
        · exact memWf_copyTraps (memWf_haltSched (memWf_chooseBelow wf))
        · split
          · rename_i e1
            exact memWf_snd e1 (memWf_accLogged (memWf_chooseBelow wf))
          · rename_i e1
            exact memWf_modRun (memWf_foldl (fun _ _ wf1 => memWf_accPutWord wf1) (memWf_takePort (memWf_snd e1 (memWf_accLogged
                (memWf_chooseBelow wf)))))
    · split
      · exact wf
      · split
        · exact memWf_copyTraps (memWf_haltSched wf)
        · split
          · rename_i e1
            exact memWf_snd e1 (memWf_accLogged wf)
          · rename_i e1
            exact memWf_modRun (memWf_foldl (fun _ _ wf1 => memWf_accPutWord wf1) (memWf_takePort (memWf_snd e1 (memWf_accLogged wf))))

theorem goes_execCopyElementMove {u : SuiteId} {k : Nat} {s : State} : Goes s (execCopyElementMove u k s) := by
  unfold execCopyElementMove
  refine .next fun wf => ?_
  split
  · exact wf
  · split
    · split
      · exact wf
      · split
        · exact memWf_moveRow wf
        · split
          · rename_i e2
            exact memWf_copyTraps (memWf_snd e2 (memWf_getDesc wf))
          · rename_i e2
            split
            · exact memWf_readRows (memWf_snd e2 (memWf_getDesc wf))
            · dsimp only
              split
              · exact memWf_copyTraps (memWf_moveElems (memWf_chooseBelow (memWf_snd e2 (memWf_getDesc wf))))
              · exact memWf_modRun (memWf_moveElems (memWf_chooseBelow (memWf_snd e2 (memWf_getDesc wf))))
    · exact wf

theorem goes_execCpyCompletion {u : SuiteId} {k : Nat} {s : State} : Goes s (execCpyCompletion u k s) := by
  unfold execCpyCompletion
  refine .next fun wf => ?_
  split
  · exact wf
  · split
    · exact memWf_ite (memWf_finishRunning (memWf_lowerBusy wf)) wf
    · exact wf

theorem goes_execCommandCompletion {u : SuiteId} {k : Nat} {s : State} : Goes s (execCommandCompletion u k s) := by
  refine .next fun wf => ?_
  extract_lets x again
  have done (e : Engine) (n : Nat) : (again e n).MemWf := by
    dsimp only [again]
    split
    · split
      · exact memWf_finishRunning wf
      · exact wf
    · exact wf
  clear_value again
  split
  · split
    · exact wf
    · rename_i c _
      cases c.op with
      | mnest => exact memWf_finishHead (fun _ wf1 => memWf_shadowEffect wf1) wf
      | mfmt => exact memWf_finishHead (fun _ wf1 => memWf_shadowEffect wf1) wf
      | mdrn => exact memWf_finishHead (fun _ wf1 => memWf_shadowEffect wf1) wf
      | dlook => exact memWf_finishHead (fun _ wf1 => memWf_dlookEffect wf1) wf
      | dend => exact memWf_finishHead (fun _ wf1 => memWf_dendEffect wf1) wf
      | _ => exact wf
  · split
    · exact wf
    · rename_i c _
      cases c.op with
      | cpyq =>
        dsimp only
        split
        · rename_i e
          exact memWf_snd e (memWf_popHead wf)
        · rename_i e
          have taken := memWf_snd e (memWf_popHead wf)
          split
          · exact memWf_finishHead (fun _ wf1 => wf1) taken
          · exact taken
      | _ => exact wf
  · split
    · exact done _ _
    · exact done _ _

theorem memWf_sendPacket {s : State} {kind : Nat} {peer : Nat} {t : TenantId} {bytes : List Byte} (wf : s.MemWf) :
    (sendPacket s kind peer t bytes).MemWf :=
  memWf_ite (memWf_modPkg (fun _ => rfl) wf) (memWf_modPkg (fun _ => rfl) wf)

theorem memWf_modPassage {s : State} {b : Fin 5} {p : Fin 8} {f : Passage → Passage} (wf : s.MemWf) : (modPassage s b p f).MemWf :=
  memWf_modPkg (fun _ => rfl) wf

theorem goes_execPsend {s1 : BitVec 5} {s2 : BitVec 5} {tok : Tok} {dn : BitVec 4} {w : BitVec 4} {s : State} :
    Goes s (execPsend s1 s2 tok dn w s) := by
  unfold execPsend
  exact goes_issue (fun _ => keeps_planAccept)

theorem goes_execPrecv {s1 : BitVec 5} {s2 : BitVec 5} {tok : Tok} {dn : BitVec 4} {w : BitVec 4} {s : State} :
    Goes s (execPrecv s1 s2 tok dn w s) := by
  unfold execPrecv
  exact goes_issue (fun _ => keeps_planAccept)

theorem memWf_reserveSlot {s : State} {b : Fin 5} {p : Fin 8} (wf : s.MemWf) : (reserveSlot s b p).MemWf :=
  memWf_modPassage wf

theorem goes_execPsendCredit {u : SuiteId} {s : State} : Goes s (execPsendCredit u s) := by
  unfold execPsendCredit
  refine .next fun wf => ?_
  split
  · split
    · rename_i e1
      exact memWf_snd e1 (memWf_popHead wf)
    · rename_i e1
      split
      rename_i e2
      split
      · exact memWf_ite (memWf_headTrap (memWf_snd e1 (memWf_popHead wf))) (memWf_ite (memWf_snd e1 (memWf_popHead wf)) (memWf_snd e2
          (memWf_chooseBelow (memWf_snd e1 (memWf_popHead wf)))))
      · dsimp only
        split
        · exact memWf_headTrap (memWf_snd e1 (memWf_popHead wf))
        · split
          · exact memWf_snd e1 (memWf_popHead wf)
          · split
            · rename_i e3
              exact memWf_snd e3 (memWf_ologChoice (memWf_snd e2 (memWf_chooseBelow (memWf_snd e1 (memWf_popHead wf)))))
            · rename_i e3
              exact memWf_startHead (memWf_reserveSlot (memWf_snd e3 (memWf_ologChoice (memWf_snd e2 (memWf_chooseBelow (memWf_snd e1
                  (memWf_popHead wf)))))))
  · exact wf

theorem memWf_flushSlots {b : Fin 5} {p : Fin 8} {t : TenantId} {peer : Nat} {k : Nat} {s : State} (wf : s.MemWf) :
    (flushSlots b p t peer k s).MemWf := by
  induction k generalizing b p t peer s wf with
  | zero =>
    unfold flushSlots
    exact wf
  | succ n ih =>
    unfold flushSlots
    split
    · exact ih (memWf_sendPacket (memWf_modPassage wf))
    · exact wf

theorem goes_execPsendCompletion {u : SuiteId} {k : Nat} {s : State} : Goes s (execPsendCompletion u k s) := by
  unfold execPsendCompletion
  refine .next fun wf => ?_
  split
  · exact wf
  · split
    · split
      · exact wf
      · split
        · dsimp only
          split
          · exact memWf_runTrap wf
          · split
            · exact wf
            · split
              · rename_i e3
                exact memWf_snd e3 (memWf_ologChoice wf)
              · rename_i e3
                exact memWf_modRun (memWf_reserveSlot (memWf_snd e3 (memWf_ologChoice wf)))
        · split
          rename_i e3
          split
          · exact memWf_ite (memWf_ite (memWf_finishRunning (memWf_modPassage wf)) wf) (memWf_ite (memWf_snd e3 (memWf_chooseBelow wf))
              (memWf_snd e3 (memWf_chooseBelow wf)))
          · exact memWf_ite (memWf_ite (memWf_finishRunning (memWf_modPassage wf)) wf) (memWf_ite (memWf_snd e3 (memWf_chooseBelow wf))
              (memWf_ite (memWf_flushSlots (memWf_modPassage (memWf_snd e3 (memWf_chooseBelow wf)))) (memWf_finishRunning (memWf_modPassage
              (memWf_snd e3 (memWf_chooseBelow wf))))))
    · exact wf

theorem goes_execPrecvSlot {u : SuiteId} {s : State} : Goes s (execPrecvSlot u s) := by
  unfold execPrecvSlot
  refine .next fun wf => ?_
  split
  · split
    · rename_i e1
      exact memWf_snd e1 (memWf_popHead wf)
    · rename_i e1
      dsimp only
      split
      · exact memWf_headTrap (memWf_snd e1 (memWf_popHead wf))
      · split
        · exact memWf_startHead (memWf_modPassage (memWf_snd e1 (memWf_popHead wf)))
        · exact memWf_snd e1 (memWf_popHead wf)
  · exact wf

theorem memWf_returnCredit {s : State} {b : Fin 5} {p : Fin 8} {t : TenantId} (wf : s.MemWf) : (returnCredit s b p t).MemWf :=
  memWf_ite (memWf_sendPacket (memWf_modPassage wf)) (memWf_modPassage wf)

theorem goes_execPrecvCompletion {u : SuiteId} {k : Nat} {s : State} : Goes s (execPrecvCompletion u k s) := by
  unfold execPrecvCompletion
  refine .next fun wf => ?_
  split
  · exact wf
  · split
    · split
      · exact wf
      · dsimp only
        split
        · exact memWf_runTrap wf
        · split
          · exact memWf_modRun (memWf_modPassage wf)
          · exact wf
    · exact memWf_ite wf (memWf_ite wf (memWf_ite (memWf_runTrap wf) (memWf_finishRunning (memWf_ite (memWf_ite (memWf_setTile wf)
        (memWf_lsWrite wf)) (memWf_returnCredit (memWf_ite (memWf_setTile wf) (memWf_lsWrite wf)))))))
    · exact wf

theorem memWf_postCs {s : State} {t : TenantId} {n : Fin 16} (wf : s.MemWf) : (postCs s t n).MemWf :=
  memWf_modTenant wf

theorem memWf_takeCs {s : State} {t : TenantId} {n : Fin 16} (wf : s.MemWf) : (takeCs s t n).MemWf :=
  memWf_modTenant wf

theorem goes_execCollw {s1 : BitVec 5} {dn : BitVec 4} {w : BitVec 4} {s : State} : Goes s (execCollw s1 dn w s) := by
  unfold execCollw
  exact goes_issue (fun _ => ⟨fun wf1 => memWf_doneFor (memWf_takeCs wf1), id⟩)

theorem memWf_readRecord {s : State} {u : SuiteId} {dual : Bool} {t : TenantId} {seg : Nat} {offset : Nat} (wf : s.MemWf) :
    (readRecord s u dual t seg offset).2.MemWf := by
  unfold readRecord
  dsimp only
  split
  · rename_i e
    split
    · exact memWf_snd e (memWf_loadVa wf)
    · split
      · rename_i e1
        exact memWf_snd e1 (memWf_loadVa (memWf_snd e (memWf_loadVa wf)))
      · rename_i e2
        exact memWf_snd e2 (memWf_loadVa (memWf_snd e (memWf_loadVa wf)))
      · rename_i e1
        exact memWf_snd e1 (memWf_loadVa (memWf_snd e (memWf_loadVa wf)))
  · rename_i e1
    exact memWf_snd e1 (memWf_loadVa wf)
  · rename_i e
    exact memWf_snd e (memWf_loadVa wf)

theorem goes_execColl {s1 : BitVec 5} {s2 : BitVec 5} {tok : Tok} {dn : BitVec 4} {w : BitVec 4} {s : State} :
    Goes s (execColl s1 s2 tok dn w s) := by
  unfold execColl
  exact goes_issue (fun _ => keeps_planAccept)

theorem memWf_bumpCollCount {s : State} {t : TenantId} {seg : Nat} {off : Nat} {u : SuiteId} (wf : s.MemWf) : (bumpCollCount s t seg off u).MemWf :=
  memWf_modPkg (fun _ => rfl) wf

theorem memWf_modInst {s : State} {i : Nat} {f : CollInst → CollInst} (wf : s.MemWf) : (modInst s i f).MemWf :=
  memWf_modPkg (fun _ => rfl) wf

theorem memWf_sendAbandon {s : State} {x : CollInst} (wf : s.MemWf) : (sendAbandon s x).MemWf :=
  memWf_sendPacket wf

theorem memWf_abandonInst {s : State} {i : Nat} (wf : s.MemWf) : (abandonInst s i).MemWf := by
  unfold abandonInst
  split
  · exact wf
  · split
    · exact wf
    · refine memWf_foldl (fun t1 x2 wf1 => ?_) (memWf_ite (memWf_sendAbandon (memWf_modInst wf)) (memWf_modInst wf))
      split
      split
      · exact memWf_runTrap wf1
      · exact wf1

theorem memWf_fixT0 {s : State} {i : Nat} (wf : s.MemWf) : (fixT0 s i).MemWf :=
  memWf_modInst wf

theorem memWf_joinInst {s : State} {t : TenantId} {seg : Nat} {off : Nat} {u : SuiteId} {rec : Option (List Byte × List (List Byte))} (wf : s.MemWf) :
    (joinInst s t seg off u rec).2.MemWf := by
  unfold joinInst
  split
  dsimp only
  split
  · exact memWf_bumpCollCount wf
  · split
    · exact memWf_modInst (memWf_bumpCollCount wf)
    · exact memWf_modPkg (fun _ => rfl) (memWf_bumpCollCount wf)

theorem memWf_arriveColl {s : State} {u : SuiteId} {c : Cmd} {seg : Nat} {off : Nat} {rank : Nat}
    {rec_ : Option (List Byte × List (List Byte))} (wf : s.MemWf) :
    (arriveColl s u c seg off rank rec_).MemWf := by
  unfold arriveColl
  split
  · dsimp only
    split
    · exact wf
    · split
      · exact memWf_startHead (memWf_joinInst (memWf_ite (memWf_takeCs wf) wf))
      · split
        · split
          · exact memWf_ite (memWf_runTrap (memWf_abandonInst (memWf_startHead (memWf_joinInst (memWf_ite (memWf_takeCs wf) wf)))))
              (memWf_abandonInst (memWf_startHead (memWf_joinInst (memWf_ite (memWf_takeCs wf) wf))))
          · exact memWf_abandonInst (memWf_startHead (memWf_joinInst (memWf_ite (memWf_takeCs wf) wf)))
        · exact memWf_fixT0 (memWf_ite (memWf_sendPacket (memWf_modInst (memWf_startHead (memWf_joinInst (memWf_ite (memWf_takeCs wf) wf)))))
            (memWf_modInst (memWf_startHead (memWf_joinInst (memWf_ite (memWf_takeCs wf) wf)))))
  · dsimp only
    split
    · exact wf
    · split
      · exact memWf_startHead (memWf_joinInst (memWf_ite (memWf_takeCs wf) wf))
      · split
        · split
          · exact memWf_ite (memWf_runTrap (memWf_abandonInst (memWf_startHead (memWf_joinInst (memWf_ite (memWf_takeCs wf) wf)))))
              (memWf_abandonInst (memWf_startHead (memWf_joinInst (memWf_ite (memWf_takeCs wf) wf))))
          · exact memWf_abandonInst (memWf_startHead (memWf_joinInst (memWf_ite (memWf_takeCs wf) wf)))
        · exact memWf_fixT0 (memWf_ite (memWf_sendPacket (memWf_modInst (memWf_startHead (memWf_joinInst (memWf_ite (memWf_takeCs wf) wf)))))
            (memWf_modInst (memWf_startHead (memWf_joinInst (memWf_ite (memWf_takeCs wf) wf)))))

theorem goes_execCollArrival {u : SuiteId} {s : State} : Goes s (execCollArrival u s) := by
  unfold execCollArrival
  refine .next fun wf => ?_
  split
  · split
    · rename_i e1
      exact memWf_snd e1 (memWf_popHead wf)
    · rename_i e1
      dsimp only
      split
      · rename_i e2
        exact memWf_arriveColl (memWf_snd e2 (memWf_readRecord (memWf_snd e1 (memWf_popHead wf))))
      · rename_i e2
        exact memWf_snd e2 (memWf_readRecord (memWf_snd e1 (memWf_popHead wf)))
  · exact wf

theorem memWf_accWordOf {s : State} {u : SuiteId} {k : Fin 32} {y : Nat} {c : Nat} (wf : s.MemWf) : (accWordOf s u k y c).2.MemWf :=
  memWf_accRead wf

theorem memWf_srcWord {s : State} {x : CollInst} {i : Nat} {op : Nat} {u : SuiteId} {y : Nat} {c : Nat} (wf : s.MemWf) :
    (srcWord s x i op u y c).2.MemWf := by
  unfold srcWord
  split
  · exact wf
  · exact wf
  · exact wf
  · split
    rename_i e
    exact memWf_snd e (memWf_accWordOf wf)
  · exact memWf_accWordOf wf

theorem memWf_srcRow {s : State} {x : CollInst} {i : Nat} {op : Nat} {moved : Bool} {u : SuiteId} {y : Nat} (wf : s.MemWf) :
    (srcRow s x i op moved u y).2.MemWf := by
  unfold srcRow
  refine memWf_foldl_snd (fun q1 x1 wf1 => ?_) wf
  split
  rename_i e
  exact memWf_snd e (memWf_srcWord wf1)

theorem memWf_setProgress {s : State} {i : Nat} {n : Nat} {rows : Nat} {hold : Option (Nat × Nat)} (wf : s.MemWf) :
    (setProgress s i n rows hold).MemWf :=
  memWf_modInst wf

theorem memWf_finishStep {s : State} {i : Nat} {n : Nat} (wf : s.MemWf) : (finishStep s i n).MemWf := by
  unfold finishStep
  dsimp only
  split
  · exact memWf_ite (memWf_modInst wf) (memWf_sendPacket (memWf_modInst wf))
  · exact memWf_modInst wf

theorem memWf_stepRow {s : State} {x : CollInst} {i n op src dst y : Nat} {words : List W32} {t : State}
    (e : stepRow s x i n op src dst y = some (words, t))
    (wf : s.MemWf) : t.MemWf := by
  unfold stepRow at e
  split at e
  · split at e
    · contradiction
    · exact memWf_snd (Option.some.inj e) (memWf_srcRow wf)
  · split at e
    · exact memWf_snd (Option.some.inj e) wf
    · contradiction

theorem memWf_rowDone {s : State} {x : CollInst} {i : Nat} {n : Nat} {y : Nat} (wf : s.MemWf) : (rowDone s x i n y).MemWf :=
  memWf_ite (memWf_finishStep (memWf_setProgress wf)) (memWf_setProgress wf)

theorem memWf_landRow {s : State} {x : CollInst} {i n op src dst : Nat} {u : SuiteId} {y : Nat} {hold : Option (Nat × Nat)} (wf : s.MemWf) :
    (landRow s x i n op src dst u y hold).MemWf := by
  unfold landRow
  split
  · exact wf
  · split
    · exact wf
    · extract_lets k bank
      split
      · exact wf
      · have chosen : (if y = 0 ∧ ologMode s x.tenant ≠ 2 then chooseBelow s 2 else (0, s)).2.MemWf := by
          split
          · exact memWf_chooseBelow wf
          · exact wf
        generalize (if y = 0 ∧ ologMode s x.tenant ≠ 2 then chooseBelow s 2 else (0, s)) = p at chosen ⊢
        dsimp only
        split
        · exact chosen
        · split
          · exact chosen
          · rename_i e
            have read := memWf_stepRow e chosen
            split
            · exact memWf_runTrap (memWf_setProgress (memWf_haltSched read))
            · split
              · rename_i e1
                exact memWf_snd e1 (memWf_accLogged read)
              · rename_i e1
                exact memWf_rowDone (memWf_foldl (fun _ _ wf1 => memWf_accPutWord wf1) (memWf_takePort (memWf_snd e1 (memWf_accLogged read))))

theorem memWf_putRow {s : State} {x : CollInst} {i n src dst : Nat} {u : SuiteId} {y : Nat} (wf : s.MemWf) : (putRow s x i n src dst u y).MemWf := by
  unfold putRow
  split
  · exact wf
  · split
    · exact wf
    · rename_i e
      exact memWf_rowDone (memWf_lsWrite (memWf_stepRow e wf))

theorem memWf_runStep {s : State} {i : Nat} {n : Nat} (wf : s.MemWf) : (runStep s i n).MemWf := by
  unfold runStep
  split
  · exact wf
  · split
    · exact wf
    · split
      split
      · exact memWf_ite (memWf_putRow wf) (memWf_landRow wf)
      · split
        · split
          · exact wf
          · refine memWf_sendPacket ?_
            refine memWf_setProgress ?_
            refine memWf_foldl_snd (fun q1 x6 wf1 => ?_) wf
            refine memWf_foldl_snd (fun q2 x7 wf2 => ?_) wf1
            split
            rename_i e5
            exact memWf_snd e5 (memWf_srcWord wf2)
        · exact wf

theorem goes_execCollStep {inst : Nat} {s : State} : Goes s (execCollStep inst s) := by
  unfold execCollStep
  refine .next fun wf => ?_
  split
  · exact wf
  · exact memWf_ite wf (memWf_foldl (fun _ _ wf1 => memWf_runStep wf1) wf)

theorem goes_execCollInstanceCompletion {inst : Nat} {s : State} : Goes s (execCollInstanceCompletion inst s) := by
  unfold execCollInstanceCompletion
  refine .next fun wf => ?_
  split
  · exact wf
  · split
    · refine memWf_foldl (fun t1 x2 wf1 => ?_) wf
      split
      · exact memWf_ite (memWf_finishRunning wf1) wf1
      · exact wf1
    · split
      · exact wf
      · refine memWf_foldl (fun t1 x2 wf1 => ?_) ?_
        · dsimp only
          split
          · exact memWf_ite (memWf_finishRunning wf1) wf1
          · exact wf1
        · split
          · exact memWf_postCs (memWf_modInst wf)
          · exact memWf_modInst wf

theorem keeps_planRR {cls : Nat} {d : BitVec 5} {a : BitVec 5} {b : BitVec 5} {f : Word → Word → Word} {s : State} {ag : Agent} :
    (planRR cls d a b f s ag).Keeps := by
  unfold planRR
  exact ⟨fun wf => memWf_emit wf, id⟩

theorem keeps_planRI {d : BitVec 5} {a : BitVec 5} {imm : BitVec 11} {f : Word → Word → Word} {s : State} {ag : Agent} :
    (planRI d a imm f s ag).Keeps := by
  unfold planRI
  exact ⟨fun wf => memWf_emit wf, id⟩

theorem keeps_planDiv {op : Nat} {d : BitVec 5} {a : BitVec 5} {b : BitVec 5} {dn : BitVec 4} {f : Word → Word → Word} {s : State} {ag : Agent} :
    (planDiv op d a b dn f s ag).Keeps := by
  unfold planDiv
  exact ⟨fun wf => memWf_modBank wf, id⟩

theorem goes_execAdd {d : BitVec 5} {s1 : BitVec 5} {s2 : BitVec 5} {w : BitVec 4} {s : State} : Goes s (execAdd d s1 s2 w s) := by
  unfold execAdd
  exact goes_issue (fun _ => keeps_planRR)

theorem goes_execSub {d : BitVec 5} {s1 : BitVec 5} {s2 : BitVec 5} {w : BitVec 4} {s : State} : Goes s (execSub d s1 s2 w s) := by
  unfold execSub
  exact goes_issue (fun _ => keeps_planRR)

theorem goes_execMul {d : BitVec 5} {s1 : BitVec 5} {s2 : BitVec 5} {w : BitVec 4} {s : State} : Goes s (execMul d s1 s2 w s) := by
  unfold execMul
  exact goes_issue (fun _ => keeps_planRR)

theorem goes_execMulh {d : BitVec 5} {s1 : BitVec 5} {s2 : BitVec 5} {w : BitVec 4} {s : State} : Goes s (execMulh d s1 s2 w s) := by
  unfold execMulh
  exact goes_issue (fun _ => keeps_planRR)

theorem goes_execAnd {d : BitVec 5} {s1 : BitVec 5} {s2 : BitVec 5} {w : BitVec 4} {s : State} : Goes s (execAnd d s1 s2 w s) := by
  unfold execAnd
  exact goes_issue (fun _ => keeps_planRR)

theorem goes_execOr {d : BitVec 5} {s1 : BitVec 5} {s2 : BitVec 5} {w : BitVec 4} {s : State} : Goes s (execOr d s1 s2 w s) := by
  unfold execOr
  exact goes_issue (fun _ => keeps_planRR)

theorem goes_execXor {d : BitVec 5} {s1 : BitVec 5} {s2 : BitVec 5} {w : BitVec 4} {s : State} : Goes s (execXor d s1 s2 w s) := by
  unfold execXor
  exact goes_issue (fun _ => keeps_planRR)

theorem goes_execShl {d : BitVec 5} {s1 : BitVec 5} {s2 : BitVec 5} {w : BitVec 4} {s : State} : Goes s (execShl d s1 s2 w s) := by
  unfold execShl
  exact goes_issue (fun _ => keeps_planRR)

theorem goes_execShr {d : BitVec 5} {s1 : BitVec 5} {s2 : BitVec 5} {w : BitVec 4} {s : State} : Goes s (execShr d s1 s2 w s) := by
  unfold execShr
  exact goes_issue (fun _ => keeps_planRR)

theorem goes_execSra {d : BitVec 5} {s1 : BitVec 5} {s2 : BitVec 5} {w : BitVec 4} {s : State} : Goes s (execSra d s1 s2 w s) := by
  unfold execSra
  exact goes_issue (fun _ => keeps_planRR)

theorem goes_execMin {d : BitVec 5} {s1 : BitVec 5} {s2 : BitVec 5} {w : BitVec 4} {s : State} : Goes s (execMin d s1 s2 w s) := by
  unfold execMin
  exact goes_issue (fun _ => keeps_planRR)

theorem goes_execMax {d : BitVec 5} {s1 : BitVec 5} {s2 : BitVec 5} {w : BitVec 4} {s : State} : Goes s (execMax d s1 s2 w s) := by
  unfold execMax
  exact goes_issue (fun _ => keeps_planRR)

theorem goes_execMinu {d : BitVec 5} {s1 : BitVec 5} {s2 : BitVec 5} {w : BitVec 4} {s : State} : Goes s (execMinu d s1 s2 w s) := by
  unfold execMinu
  exact goes_issue (fun _ => keeps_planRR)

theorem goes_execMaxu {d : BitVec 5} {s1 : BitVec 5} {s2 : BitVec 5} {w : BitVec 4} {s : State} : Goes s (execMaxu d s1 s2 w s) := by
  unfold execMaxu
  exact goes_issue (fun _ => keeps_planRR)

theorem goes_execSlt {d : BitVec 5} {s1 : BitVec 5} {s2 : BitVec 5} {w : BitVec 4} {s : State} : Goes s (execSlt d s1 s2 w s) := by
  unfold execSlt
  exact goes_issue (fun _ => keeps_planRR)

theorem goes_execSltu {d : BitVec 5} {s1 : BitVec 5} {s2 : BitVec 5} {w : BitVec 4} {s : State} : Goes s (execSltu d s1 s2 w s) := by
  unfold execSltu
  exact goes_issue (fun _ => keeps_planRR)

theorem goes_execSel {d : BitVec 5} {s1 : BitVec 5} {s2 : BitVec 5} {w : BitVec 4} {s : State} : Goes s (execSel d s1 s2 w s) := by
  unfold execSel
  exact goes_issue (fun _ => keeps_planRR)

theorem goes_execClz {d : BitVec 5} {s1 : BitVec 5} {w : BitVec 4} {s : State} : Goes s (execClz d s1 w s) := by
  unfold execClz
  exact goes_issue (fun _ => keeps_planRR)

theorem goes_execPopc {d : BitVec 5} {s1 : BitVec 5} {w : BitVec 4} {s : State} : Goes s (execPopc d s1 w s) := by
  unfold execPopc
  exact goes_issue (fun _ => keeps_planRR)

theorem goes_execDiv {d : BitVec 5} {s1 : BitVec 5} {s2 : BitVec 5} {dn : BitVec 4} {w : BitVec 4} {s : State} : Goes s (execDiv d s1 s2 dn w s) := by
  unfold execDiv
  exact goes_issue (fun _ => keeps_planDiv)

theorem goes_execDivu {d : BitVec 5} {s1 : BitVec 5} {s2 : BitVec 5} {dn : BitVec 4} {w : BitVec 4} {s : State} :
    Goes s (execDivu d s1 s2 dn w s) := by
  unfold execDivu
  exact goes_issue (fun _ => keeps_planDiv)

theorem goes_execRem {d : BitVec 5} {s1 : BitVec 5} {s2 : BitVec 5} {dn : BitVec 4} {w : BitVec 4} {s : State} : Goes s (execRem d s1 s2 dn w s) := by
  unfold execRem
  exact goes_issue (fun _ => keeps_planDiv)

theorem goes_execRemu {d : BitVec 5} {s1 : BitVec 5} {s2 : BitVec 5} {dn : BitVec 4} {w : BitVec 4} {s : State} :
    Goes s (execRemu d s1 s2 dn w s) := by
  unfold execRemu
  exact goes_issue (fun _ => keeps_planDiv)

theorem goes_execAddi {d : BitVec 5} {s1 : BitVec 5} {imm : BitVec 11} {w : BitVec 4} {s : State} : Goes s (execAddi d s1 imm w s) := by
  unfold execAddi
  exact goes_issue (fun _ => keeps_planRI)

theorem goes_execAndi {d : BitVec 5} {s1 : BitVec 5} {imm : BitVec 11} {w : BitVec 4} {s : State} : Goes s (execAndi d s1 imm w s) := by
  unfold execAndi
  exact goes_issue (fun _ => keeps_planRI)

theorem goes_execOri {d : BitVec 5} {s1 : BitVec 5} {imm : BitVec 11} {w : BitVec 4} {s : State} : Goes s (execOri d s1 imm w s) := by
  unfold execOri
  exact goes_issue (fun _ => keeps_planRI)

theorem goes_execXori {d : BitVec 5} {s1 : BitVec 5} {imm : BitVec 11} {w : BitVec 4} {s : State} : Goes s (execXori d s1 imm w s) := by
  unfold execXori
  exact goes_issue (fun _ => keeps_planRI)

theorem goes_execShli {d : BitVec 5} {s1 : BitVec 5} {imm : BitVec 11} {w : BitVec 4} {s : State} : Goes s (execShli d s1 imm w s) := by
  unfold execShli
  exact goes_issue (fun _ => keeps_planRI)

theorem goes_execShri {d : BitVec 5} {s1 : BitVec 5} {imm : BitVec 11} {w : BitVec 4} {s : State} : Goes s (execShri d s1 imm w s) := by
  unfold execShri
  exact goes_issue (fun _ => keeps_planRI)

theorem goes_execSrai {d : BitVec 5} {s1 : BitVec 5} {imm : BitVec 11} {w : BitVec 4} {s : State} : Goes s (execSrai d s1 imm w s) := by
  unfold execSrai
  exact goes_issue (fun _ => keeps_planRI)

theorem goes_execSlti {d : BitVec 5} {s1 : BitVec 5} {imm : BitVec 11} {w : BitVec 4} {s : State} : Goes s (execSlti d s1 imm w s) := by
  unfold execSlti
  exact goes_issue (fun _ => keeps_planRI)

theorem goes_execLui {d : BitVec 5} {imm : BitVec 16} {w : BitVec 4} {s : State} : Goes s (execLui d imm w s) := by
  unfold execLui
  exact goes_issue (fun _ => ⟨fun wf1 => memWf_emit wf1, id⟩)

theorem goes_execLix {d : BitVec 5} {imm : BitVec 32} {w : BitVec 4} {s : State} : Goes s (execLix d imm w s) := by
  unfold execLix
  exact goes_issue (fun _ => ⟨fun wf1 => memWf_emit wf1, id⟩)

theorem goes_execDivideCompletion {b : BankRef} {k : Nat} {s : State} : Goes s (execDivideCompletion b k s) := by
  unfold execDivideCompletion
  refine .next fun wf => ?_
  split
  · exact wf
  · exact memWf_ite wf (memWf_doneFor (memWf_landLater (memWf_modBank wf)))

theorem keeps_planBranch {taken : Bool} {target : BitVec 28} {s : State} {ag : Agent} : (planBranch taken target s ag).Keeps := by
  unfold planBranch
  split
  · exact ⟨id, id⟩
  · exact ⟨id, id⟩

theorem goes_execBr {cond : BitVec 3} {s1 : BitVec 5} {s2 : BitVec 5} {target : BitVec 28} {w : BitVec 4} {s : State} :
    Goes s (execBr cond s1 s2 target w s) := by
  unfold execBr
  exact goes_issue (fun _ => keeps_planBranch)

theorem goes_execJmp {target : BitVec 28} {w : BitVec 4} {s : State} : Goes s (execJmp target w s) := by
  unfold execJmp
  exact goes_issue (fun _ => keeps_planBranch)

theorem goes_execCall {target : BitVec 28} {w : BitVec 4} {s : State} : Goes s (execCall target w s) := by
  unfold execCall
  refine goes_issue fun _ => ⟨fun wf1 => memWf_emit wf1, fun wf1 => ?_⟩
  exact (keeps_planBranch (taken := true) (target := target) (s := s) (ag := s.cur)).onHold wf1

theorem goes_execRet {w : BitVec 4} {s : State} : Goes s (execRet w s) := by
  unfold execRet
  exact goes_issue (fun _ => ⟨id, id⟩)

theorem keeps_planLoop {lid : BitVec 3} {count : W32} {target : BitVec 28} {s : State} {ag : Agent} : (planLoop lid count target s ag).Keeps := by
  unfold planLoop
  exact ⟨fun wf => memWf_ite wf (memWf_modStream wf), id⟩

theorem goes_execLoop {lid : BitVec 3} {s1 : BitVec 5} {target : BitVec 28} {w : BitVec 4} {s : State} : Goes s (execLoop lid s1 target w s) := by
  unfold execLoop
  exact goes_issue (fun _ => keeps_planLoop)

theorem goes_execXloop {lid : BitVec 3} {s1 : BitVec 4} {target : BitVec 28} {w : BitVec 4} {s : State} : Goes s (execXloop lid s1 target w s) := by
  unfold execXloop
  exact goes_issue (fun _ => keeps_planLoop)

theorem goes_execXbr {cond : BitVec 3} {s1 : BitVec 4} {s2 : BitVec 4} {target : BitVec 28} {w : BitVec 4} {s : State} :
    Goes s (execXbr cond s1 s2 target w s) := by
  unfold execXbr
  exact goes_issue (fun _ => keeps_planBranch)

theorem goes_execBrk {imm : BitVec 16} {w : BitVec 4} {s : State} : Goes s (execBrk imm w s) := by
  unfold execBrk
  exact goes_issue (fun _ => ⟨fun wf1 => memWf_ite (memWf_postEvent wf1) wf1, id⟩)

theorem goes_execCqp {s1 : BitVec 5} {w : BitVec 4} {s : State} : Goes s (execCqp s1 w s) := by
  unfold execCqp
  exact goes_issue (fun _ => ⟨fun wf1 => memWf_modBank wf1, id⟩)

theorem memWf_endStream {s : State} {ag : Agent} (wf : s.MemWf) : (endStream s ag).MemWf := by
  unfold endStream
  split
  · exact memWf_modStream wf
  · exact memWf_ite (memWf_stopContext (memWf_modStream wf)) (memWf_modStream wf)

theorem goes_execEndA {w : BitVec 4} {s : State} : Goes s (execEndA w s) := by
  unfold execEndA
  exact goes_issue (fun _ => ⟨fun wf1 => memWf_endStream wf1, id⟩)

theorem goes_execXend {w : BitVec 4} {s : State} : Goes s (execXend w s) := by
  unfold execXend
  exact goes_issue (fun _ => ⟨fun wf1 => memWf_endStream wf1, id⟩)

theorem goes_execNopA {w : BitVec 4} {s : State} : Goes s (execNopA w s) := by
  unfold execNopA
  exact goes_issue (fun _ => ⟨id, id⟩)

theorem goes_execNopX {w : BitVec 4} {s : State} : Goes s (execNopX w s) := by
  unfold execNopX
  exact goes_issue (fun _ => ⟨id, id⟩)

theorem goes_execHint {x : BitVec 25} {s : State} : Goes s (execHint x s) := by
  unfold execHint
  exact goes_issue (fun _ => ⟨id, id⟩)

theorem memWf_cqTake {s : State} {ag : Agent} (wf : s.MemWf) : (cqTake s ag).MemWf :=
  memWf_modBank wf

theorem goes_execCqb {cond : BitVec 3} {s1 s2 : BitVec 4} {target : BitVec 28} {w : BitVec 4} {s : State} :
    Goes s (execCqb cond s1 s2 target w s) := by
  unfold execCqb
  exact goes_issue fun _ => ⟨fun wf1 => memWf_emit (memWf_cqTake wf1), fun wf1 => keeps_planBranch.onHold wf1⟩

theorem goes_execCqr {d : BitVec 4} {w : BitVec 4} {s : State} : Goes s (execCqr d w s) := by
  unfold execCqr
  exact goes_issue (fun _ => ⟨fun wf1 => memWf_emit (memWf_cqTake wf1), id⟩)

theorem memWf_accPayload {s : State} {u : SuiteId} {b : Nat} (wf : s.MemWf) : (accPayload s u b).2.MemWf := by
  have keeps := @memWf_accReadRow
  obtain ⟨readRow, isRead⟩ : ∃ f, accReadRow = f := ⟨_, rfl⟩
  obtain ⟨rows, isRows⟩ : ∃ l, List.finRange 128 = l := ⟨_, rfl⟩
  obtain ⟨payload, isPayload⟩ : ∃ f, accPayload = f := ⟨_, rfl⟩
  rw [isPayload]
  delta accPayload at isPayload
  rw [isRead] at keeps isPayload
  rw [isRows] at isPayload
  subst isPayload
  refine memWf_foldl_snd (fun p y wf1 => ?_) wf
  exact keeps wf1

theorem memWf_lsUnload {s : State} {u : SuiteId} {n : Nat} {l : List Byte} (wf : s.MemWf) : (lsUnload s u n l).MemWf :=
  memWf_l1Clear (memWf_lsWrite wf)

theorem memWf_doorUnload {s : State} {u : SuiteId} {i : Nat} {l : List Byte} (wf : s.MemWf) : (doorUnload s u i l).MemWf :=
  memWf_ite wf (memWf_modRoom wf)

theorem memWf_payloadOf {s : State} {id : Nat} (wf : s.MemWf) : (payloadOf s id).2.MemWf := by
  unfold payloadOf
  extract_lets u i
  split
  · exact wf
  · exact wf
  · exact wf
  · exact memWf_accPayload wf
  · exact wf
  · exact memWf_modPkg (fun _ => rfl) wf
  · exact wf
  · exact wf

theorem memWf_dropOrigin {s : State} {from_ : SuiteId} {u : SuiteId} {v : Option Visit} (wf : s.MemWf) : (dropOrigin s from_ u v).MemWf := by
  unfold dropOrigin
  split
  · exact wf
  · split
    · exact wf
    · refine memWf_foldl (fun t1 x1 wf1 => ?_) wf
      split
      · exact memWf_ite (memWf_setBank wf1) wf1
      · exact wf1

theorem memWf_coreUnload {s : State} {acting : TenantId} {u from_ : SuiteId} {l : List Byte} (wf : s.MemWf) :
    (coreUnload s acting u from_ l).MemWf := by
  unfold coreUnload
  extract_lets h empty snap fe ph a old mrec crec bank c cmds src x s1 s2 halt s3
  have kept : x.ls.wf = true := wf.2 u
  have dropped : s1.MemWf := memWf_dropOrigin (memWf_dropOrigin wf)
  have loaded : s2.MemWf := memWf_modPkg (fun _ => rfl) (memWf_setSuite kept dropped)
  clear_value s2
  have whole : s3.MemWf := memWf_ite (memWf_foldl (fun _ _ wf1 => memWf_modRoom wf1) loaded) loaded
  exact memWf_l1Clear whole

theorem memWf_unloadSeg {s : State} {acting : TenantId} {id : Nat} {from_ : SuiteId} {l : List Byte} (wf : s.MemWf) :
    (unloadSeg s acting id from_ l).MemWf := by
  unfold unloadSeg
  split
  · exact memWf_modRoom wf
  · exact memWf_modRoom wf
  · exact memWf_modRoom wf
  · exact memWf_modPkg (fun _ => rfl) (memWf_modRoom wf)
  · exact memWf_modRoom wf
  · exact memWf_coreUnload wf
  · exact memWf_lsUnload wf
  · exact memWf_doorUnload wf

theorem memWf_loadEntry {s : State} {acting : TenantId} {e : SegEntry} {image : List Byte} (wf : s.MemWf) : (loadEntry s acting e image).MemWf :=
  memWf_ite (memWf_unloadSeg wf) (memWf_unloadSeg wf)

theorem memWf_settleWing {s : State} {lead : SuiteId} (wf : s.MemWf) : (settleWing s lead).MemWf := by
  unfold settleWing
  refine memWf_foldl (fun _ _ wf1 => memWf_modSuite (fun _ => rfl) (memWf_modRoom wf1)) ?_
  split
  · exact memWf_modRoom wf
  · exact memWf_modDrone (memWf_modRoom wf)

theorem keeps_planScan {op : ScanOp} {d : BitVec 5} {dn : BitVec 4} {bad : Bool} {rooms : Word} {ctl : Word} {entries : List SegEntry}
    {s : State} {ag : Agent} :
    (planScan op d dn bad rooms ctl entries s ag).Keeps := by
  unfold planScan
  split
  · exact ⟨id, id⟩
  · exact ⟨fun wf => memWf_modCtx wf, id⟩

theorem goes_execScnstop {d : BitVec 5} {s1 : BitVec 5} {s2 : BitVec 5} {dn : BitVec 4} {w : BitVec 4} {s : State} :
    Goes s (execScnstop d s1 s2 dn w s) := by
  unfold execScnstop
  exact goes_issue (fun _ => keeps_planScan)

theorem goes_execScnrun {d : BitVec 5} {s1 : BitVec 5} {s2 : BitVec 5} {dn : BitVec 4} {w : BitVec 4} {s : State} :
    Goes s (execScnrun d s1 s2 dn w s) := by
  unfold execScnrun
  exact goes_issue (fun _ => keeps_planScan)

theorem goes_execScnq {d : BitVec 5} {s1 : BitVec 5} {s2 : BitVec 5} {dn : BitVec 4} {w : BitVec 4} {s : State} :
    Goes s (execScnq d s1 s2 dn w s) := by
  unfold execScnq
  exact goes_issue (fun _ => keeps_planScan)

theorem keeps_planTransfer {out : Bool} {d : BitVec 5} {dn : BitVec 4} {va : Word} {s : State} {ag : Agent} :
    (planTransfer out d dn va s ag).Keeps := by
  unfold planTransfer
  split
  · exact ⟨id, id⟩
  · split
    · exact ⟨id, id⟩
    · exact ⟨id, id⟩
    · exact ⟨fun wf => memWf_modCtx wf, id⟩

theorem goes_execScnout {d : BitVec 5} {s1 : BitVec 5} {dn : BitVec 4} {w : BitVec 4} {s : State} : Goes s (execScnout d s1 dn w s) := by
  unfold execScnout
  exact goes_issue (fun _ => keeps_planTransfer)

theorem goes_execScnin {d : BitVec 5} {s1 : BitVec 5} {dn : BitVec 4} {w : BitVec 4} {s : State} : Goes s (execScnin d s1 dn w s) := by
  unfold execScnin
  exact goes_issue (fun _ => keeps_planTransfer)

theorem memWf_finishScan {s : State} {c : CtxId} {n : Nat} {word : Word} (wf : s.MemWf) : (finishScan s c n word).MemWf := by
  unfold finishScan
  split
  · exact wf
  · exact memWf_ite (memWf_doneFor (memWf_landLater (memWf_modCtx wf))) (memWf_postEvent (memWf_doneFor (memWf_landLater (memWf_modCtx wf))))

theorem memWf_finishTrapped {s : State} {c : CtxId} {n : Nat} {cause : BitVec 8} {tval : Nat} (wf : s.MemWf) :
    (finishTrapped s c n cause tval).MemWf := by
  unfold finishTrapped
  split
  · exact wf
  · exact memWf_ite (memWf_stewardTrap (memWf_postEvent (memWf_doneFor (memWf_writeA (memWf_modCtx wf))))) (memWf_postEvent (memWf_doneFor
      (memWf_writeA (memWf_modCtx wf))))

theorem memWf_modScan {s : State} {c : CtxId} {n : Nat} {f : ScanCmd → ScanCmd} (wf : s.MemWf) : (modScan s c n f).MemWf :=
  memWf_modCtx wf

theorem memWf_settleStops {c : CtxId} {k : Nat} {s : State} (wf : s.MemWf) : (settleStops c k s).MemWf := by
  induction k generalizing c s wf with
  | zero =>
    unfold settleStops
    exact wf
  | succ n ih =>
    unfold settleStops
    split
    · split
      · exact memWf_ite (ih (memWf_finishScan wf)) wf
      · exact wf
    · exact wf

theorem memWf_stopNamed {s : State} {x : ScanCmd} (wf : s.MemWf) : (stopNamed s x).MemWf :=
  memWf_requestStop wf

theorem memWf_takeStop {s : State} {c : CtxId} {n : Nat} {x : ScanCmd} (wf : s.MemWf) : (takeStop s c n x).MemWf := by
  unfold takeStop
  split
  · dsimp only
    split
    · exact memWf_finishScan wf
    · exact memWf_modScan wf
  · dsimp only
    split
    · exact memWf_finishScan wf
    · exact memWf_settleStops (memWf_modCtx (memWf_foldl (fun _ _ wf1 => memWf_stopNamed wf1) (memWf_stopNamed wf)))

theorem memWf_takeRun {s : State} {c : CtxId} {n : Nat} {x : ScanCmd} (wf : s.MemWf) : (takeRun s c n x).MemWf := by
  unfold takeRun
  split
  · exact memWf_finishScan wf
  · exact memWf_modScan wf

theorem goes_execScnrunRestart {c : CtxId} {s : State} : Goes s (execScnrunRestart c s) := by
  unfold execScnrunRestart
  refine .next fun wf => ?_
  split
  · exact wf
  · split
    split
    · split
      · split
        · exact memWf_ite wf (memWf_finishTrapped (memWf_foldl (fun _ _ wf1 => memWf_modSuite (fun _ => rfl) wf1) (memWf_foldl
            (fun _ _ wf1 => memWf_modRoom wf1) (memWf_foldl (fun _ _ wf1 => memWf_settleWing wf1) wf))))
        · exact memWf_ite wf (memWf_finishScan (memWf_foldl (fun _ _ wf1 => memWf_modSuite (fun _ => rfl) wf1) (memWf_foldl
            (fun _ _ wf1 => memWf_modRoom wf1) (memWf_foldl (fun _ _ wf1 => memWf_settleWing wf1) wf))))
      · split
        · exact memWf_ite wf (memWf_finishTrapped (memWf_foldl (fun _ _ wf1 => memWf_modRoom wf1) (memWf_foldl
            (fun _ _ wf1 => memWf_settleWing wf1) wf)))
        · exact memWf_ite wf (memWf_finishScan (memWf_foldl (fun _ _ wf1 => memWf_modRoom wf1) (memWf_foldl
            (fun _ _ wf1 => memWf_settleWing wf1) wf)))
    · split
      · split
        · exact memWf_ite wf (memWf_finishTrapped (memWf_foldl (fun _ _ wf1 => memWf_modSuite (fun _ => rfl) wf1) (memWf_foldl
            (fun _ _ wf1 => memWf_modRoom wf1) (memWf_foldl (fun _ _ wf1 => memWf_settleWing wf1) wf))))
        · exact memWf_ite wf (memWf_finishScan (memWf_foldl (fun _ _ wf1 => memWf_modSuite (fun _ => rfl) wf1) (memWf_foldl
            (fun _ _ wf1 => memWf_modRoom wf1) (memWf_foldl (fun _ _ wf1 => memWf_settleWing wf1) wf))))
      · split
        · exact memWf_ite wf (memWf_finishTrapped (memWf_foldl (fun _ _ wf1 => memWf_modRoom wf1) (memWf_foldl
            (fun _ _ wf1 => memWf_settleWing wf1) wf)))
        · exact memWf_ite wf (memWf_finishScan (memWf_foldl (fun _ _ wf1 => memWf_modRoom wf1) (memWf_foldl
            (fun _ _ wf1 => memWf_settleWing wf1) wf)))

theorem memWf_bufferLine {s : State} {c : CtxId} {acting : TenantId} {va : Nat} (wf : s.MemWf) : (bufferLine s c acting va).2.MemWf := by
  have read := memWf_loadVaBy (w := .scan c) (bucket := acting) (t := ctxTenant s c) (va := va) (n := 64) wf
  unfold bufferLine
  split
  · rename_i e
    exact memWf_snd e read
  · rename_i e
    exact memWf_snd e read
  · rename_i e
    have taken := memWf_snd e read
    exact taken

theorem memWf_writeLines {c : CtxId} {acting : TenantId} {ps : List (Nat × List Byte)} {s : State} (wf : s.MemWf) :
    (writeLines c acting ps s).2.MemWf := by
  induction ps generalizing c acting s wf with
  | nil =>
    unfold writeLines
    exact wf
  | cons x l ih =>
    unfold writeLines
    split
    · rename_i e
      exact memWf_snd e (memWf_storeVaBy wf)
    · rename_i e
      exact ih (memWf_snd e (memWf_storeVaBy wf))

theorem memWf_readImages {c : CtxId} {acting : TenantId} {ps : List Nat} {s : State} (wf : s.MemWf) : (readImages c acting ps s).2.MemWf := by
  induction ps generalizing c acting s wf with
  | nil =>
    unfold readImages
    exact wf
  | cons x l ih =>
    unfold readImages
    split
    · rename_i e
      exact memWf_snd e (memWf_bufferLine wf)
    · rename_i e
      exact ih (memWf_snd e (memWf_bufferLine wf))

theorem memWf_takeTransfer {s : State} {c : CtxId} {n : Nat} {x : ScanCmd} (wf : s.MemWf) : (takeTransfer s c n x).MemWf := by
  unfold takeTransfer
  split
  · exact memWf_finishScan wf
  · split
    · dsimp only
      split
      · exact memWf_modScan (memWf_readImages wf)
      · split
        · exact memWf_finishScan (memWf_readImages wf)
        · exact memWf_modScan (memWf_readImages wf)
    · exact memWf_ite (memWf_modScan wf) (memWf_modScan wf)

theorem memWf_takeQuery {s : State} {c : CtxId} {n : Nat} {x : ScanCmd} (wf : s.MemWf) : (takeQuery s c n x).MemWf :=
  memWf_finishScan wf

theorem goes_execScanControllerTake {c : CtxId} {s : State} : Goes s (execScanControllerTake c s) := by
  unfold execScanControllerTake
  refine .next fun wf => ?_
  split
  · exact wf
  · split
    · split
      · split
        · exact memWf_takeStop wf
        · exact wf
      · exact wf
    · split
      · exact wf
      · split
        · exact memWf_takeStop wf
        · exact memWf_takeRun wf
        · exact memWf_takeTransfer wf
        · exact memWf_takeTransfer wf
        · exact memWf_takeQuery wf

theorem goes_execBeatStop {c : CtxId} {s : State} : Goes s (execBeatStop c s) := by
  unfold execBeatStop
  refine .next fun wf => ?_
  split
  · exact memWf_ite (memWf_settleStops (memWf_modScan (memWf_stopNamed wf))) wf
  · exact wf

theorem goes_execCoreStopComplete {c : CtxId} {s : State} : Goes s (execCoreStopComplete c s) := by
  unfold execCoreStopComplete
  exact .next fun wf => memWf_settleStops wf

theorem memWf_damageSeg {s : State} {id : Nat} (wf : s.MemWf) : (damageSeg s id).MemWf :=
  memWf_modPkg (fun _ => rfl) (memWf_modRoom (memWf_countErr wf))

theorem memWf_healSeg {s : State} {id : Nat} (wf : s.MemWf) : (healSeg s id).MemWf :=
  memWf_modRoom wf

theorem memWf_flueErrors {s : State} {id : Nat} (wf : s.MemWf) : (flueErrors s id).2.MemWf :=
  memWf_modPkg (fun _ => rfl) wf

theorem memWf_damageTimes {s : State} {id : Nat} {n : Nat} (wf : s.MemWf) : (damageTimes s id n).MemWf :=
  memWf_foldl (fun _ _ wf1 => memWf_damageSeg wf1) wf

theorem memWf_receiveBeat {s : State} {l : List Byte} (wf : s.MemWf) : (receiveBeat s l).2.MemWf :=
  wf

theorem memWf_shiftEntry {s : State} {x : ScanCmd} {e : SegEntry} {off : Nat} {image : List Byte} (wf : s.MemWf) :
    (shiftEntry s x e off image).2.2.MemWf := by
  unfold shiftEntry
  split
  · split
    · exact wf
    · exact memWf_loadEntry wf
  · split
    · dsimp only
      split
      · exact memWf_damageTimes (memWf_unloadSeg (memWf_receiveBeat (memWf_payloadOf (memWf_flueErrors wf))))
      · exact memWf_payloadOf (memWf_flueErrors wf)
    · dsimp only
      split
      · exact memWf_damageTimes (memWf_loadEntry (memWf_receiveBeat (memWf_flueErrors wf)))
      · exact memWf_healSeg (memWf_loadEntry (memWf_flueErrors wf))

theorem memWf_shiftEntries {s : State} {x : ScanCmd} {p : SegEntry → Nat → Bool} (wf : s.MemWf) : (shiftEntries s x p).2.2.MemWf := by
  unfold shiftEntries
  dsimp only
  generalize (entryPlaces x.entries).zipIdx = places
  generalize splitImages x.entries x.data = images
  have start : ((none : Option Nat), ([] : List (Nat × List Byte)), s).2.2.MemWf := wf
  generalize ((none : Option Nat), ([] : List (Nat × List Byte)), s) = acc at start ⊢
  induction places generalizing acc with
  | nil => exact start
  | cons y l ih =>
    refine ih _ ?_
    dsimp only
    split
    · exact memWf_shiftEntry start
    · exact start

theorem goes_execScanShiftCompletion {c : CtxId} {s : State} : Goes s (execScanShiftCompletion c s) := by
  refine .next fun wf => ?_
  split
  · exact wf
  · split
    · exact wf
    · split
      · exact memWf_modScan wf
      · split
        · dsimp only
          split
          · exact memWf_chooseBelow wf
          · exact memWf_modScan (memWf_shiftEntries (memWf_chooseBelow wf))
        · split
          · rename_i e
            have written := memWf_snd e (memWf_writeLines wf)
            split
            · exact memWf_finishTrapped written
            · exact memWf_finishScan written
          · rename_i e
            exact memWf_modScan (memWf_snd e (memWf_writeLines wf))

theorem memWf_endScan {s : State} {die : Bool} {c : CtxId} {n : Nat} {x : ScanCmd} (wf : s.MemWf) : (endScan s die c n x).MemWf := by
  unfold endScan
  split
  · exact memWf_finishScan (memWf_foldl (fun _ _ wf1 => memWf_stopClocks wf1) wf)
  · have shifted : (if !x.shifting then ([], s) else if x.shifted then (x.lines, s)
        else (shiftEntries s x fun e before => decide (before ≤ x.doneAt (segRoom e.id.toNat))).2).2.MemWf := by
      split
      · exact wf
      · split
        · exact wf
        · exact memWf_shiftEntries wf
    exact memWf_finishScan (memWf_foldl (fun _ _ wf1 => memWf_storeVa wf1) shifted)

theorem memWf_endScans {s : State} {die : Bool} {rooms : List SuiteId} (wf : s.MemWf) : (endScans s die rooms).MemWf :=
  memWf_foldl (fun _ _ wf1 => memWf_foldl (fun _ _ wf2 => memWf_ite (memWf_endScan wf2) wf2) wf1) wf

theorem goes_execScndmgClear {v : Word} {s : State} : Goes s (execScndmgClear v s) := by
  unfold execScndmgClear
  exact .next fun wf => memWf_foldl (fun _ _ wf1 => memWf_modRoom wf1) wf

theorem memWf_modLaunch {s : State} {t : TenantId} {id : W32} {f : Launch → Launch} (wf : s.MemWf) : (modLaunch s t id f).MemWf :=
  memWf_modTenant wf

theorem memWf_postEnd {s : State} {t : TenantId} {id : W32} {status : Nat} {source : Nat} (wf : s.MemWf) : (postEnd s t id status source).MemWf :=
  memWf_postEvent (memWf_modTenant wf)

theorem memWf_failDependents {t : TenantId} {n : Nat} {ids : List W32} {s : State} (wf : s.MemWf) : (failDependents t n ids s).MemWf := by
  induction n generalizing ids s with
  | zero => exact wf
  | succ n ih =>
    cases ids with
    | nil => exact wf
    | cons id rest =>
      unfold failDependents
      exact ih (memWf_foldl (fun _ _ wf1 => memWf_postEnd wf1) wf)

theorem memWf_endLaunch {s : State} {t : TenantId} {id : W32} {status : Nat} {source : Nat} (wf : s.MemWf) : (endLaunch s t id status source).MemWf :=
  memWf_ite (memWf_postEnd wf) (memWf_failDependents (memWf_postEnd wf))

theorem memWf_settleLaunch {s : State} {t : TenantId} {id : W32} {source : Nat} (wf : s.MemWf) : (settleLaunch s t id source).MemWf := by
  unfold settleLaunch
  split
  · exact wf
  · exact memWf_ite (memWf_endLaunch wf) (memWf_ite (memWf_endLaunch wf) wf)

theorem goes_execLaunchReady {t : TenantId} {id : W32} {s : State} : Goes s (execLaunchReady t id s) := by
  unfold execLaunchReady
  refine .next fun wf => ?_
  split
  · exact wf
  · exact memWf_ite wf (memWf_settleLaunch (memWf_modLaunch wf))

theorem goes_execPriorityAging {t : TenantId} {id : W32} {s : State} : Goes s (execPriorityAging t id s) := by
  unfold execPriorityAging
  refine .next fun wf => ?_
  split
  · exact wf
  · exact memWf_ite wf (memWf_modLaunch wf)

theorem memWf_submitLaunch {s : State} {t : TenantId} {l : List Byte} (wf : s.MemWf) : (submitLaunch s t l).2.MemWf := by
  unfold submitLaunch
  split
  · split
    · dsimp only
      split
      · exact wf
      · split
        · exact wf
        · exact wf
    · split
      rename_i e2
      dsimp only
      split
      · exact wf
      · split
        · exact wf
        · exact memWf_modTenant (memWf_modPkg (fun _ => rfl) (memWf_snd e2 (memWf_loadImage wf)))
  · exact wf

theorem goes_execLsubmitWrite {c : CtxId} {v : Word} {s : State} : Goes s (execLsubmitWrite c v s) := by
  unfold execLsubmitWrite
  refine .next fun wf => ?_
  dsimp only
  split
  · exact memWf_modCtx (memWf_submitLaunch (memWf_modPkg (fun _ => rfl) wf))
  · exact wf

theorem goes_execCtxstartWrite {c : CtxId} {v : Word} {s : State} : Goes s (execCtxstartWrite c v s) := by
  unfold execCtxstartWrite
  exact .next fun wf => memWf_startContext wf

theorem memWf_affinity {s : State} {t : TenantId} {x : Launch} {n : Nat} (wf : s.MemWf) : (affinity s t x n).2.MemWf := by
  unfold affinity
  split
  · exact wf
  · split
    · rename_i e
      exact memWf_snd e (memWf_loadVa wf)
    · rename_i e1
      exact memWf_snd e1 (memWf_loadVa wf)
    · rename_i e
      exact memWf_snd e (memWf_loadVa wf)

theorem memWf_greedyWing {s : State} {t : TenantId} {x : Launch} (wf : s.MemWf) : (greedyWing s t x).2.MemWf := by
  unfold greedyWing
  dsimp only
  split
  · rename_i e
    refine memWf_snd e ?_
    split
    · exact wf
    · exact memWf_affinity wf
  · rename_i e
    refine memWf_snd e ?_
    split
    · exact wf
    · exact memWf_affinity wf

theorem memWf_setEnvelope {s : State} {lead : SuiteId} {shape : Nat} (wf : s.MemWf) : (setEnvelope s lead shape).MemWf :=
  memWf_setWings (memWf_foldl (fun _ _ wf1 => memWf_setWings wf1) wf)

theorem memWf_placeVisit {s : State} {t : TenantId} {x : Launch} {n : Nat} {lead : SuiteId} {b : Fin 2} (wf : s.MemWf) :
    (placeVisit s t x n lead b).MemWf := by
  unfold placeVisit
  split
  · exact wf
  · exact memWf_foldl (fun _ _ wf1 => memWf_modSuite (fun _ => rfl) (memWf_modBank wf1)) (memWf_ite (memWf_setEnvelope wf) wf)

theorem memWf_replayPlacement {s : State} {t : TenantId} {lead : SuiteId} {shape : Nat} (wf : s.MemWf) : (replayPlacement s t lead shape).MemWf := by
  unfold replayPlacement
  dsimp only
  split
  · exact memWf_logFull (memWf_ologSkip wf)
  · split
    · split
      · split
        · split
          · split
            · rename_i e4
              exact memWf_modLaunch (memWf_placeVisit (memWf_snd e4 (memWf_ologChoice (memWf_ologSkip wf))))
            · rename_i e4
              exact memWf_snd e4 (memWf_ologChoice (memWf_ologSkip wf))
          · exact memWf_ologSkip wf
        · exact memWf_ologSkip wf
      · exact memWf_ologSkip wf
    · exact memWf_ologSkip wf

theorem goes_execVisitPlacement {lead : SuiteId} {shape : Fin 9} {s : State} : Goes s (execVisitPlacement lead shape s) := by
  unfold execVisitPlacement
  refine .next fun wf => ?_
  split
  · exact wf
  · split
    · exact wf
    · split
      · exact wf
      · split
        · exact wf
        · split
          · split
            · exact wf
            · split
              · exact memWf_modLaunch (memWf_placeVisit wf)
              · exact wf
          · split
            · exact memWf_replayPlacement wf
            · split
              · exact wf
              · split
                split
                rename_i e4
                split
                · exact memWf_snd e4 (memWf_greedyWing wf)
                · split
                  · rename_i e5
                    exact memWf_modLaunch (memWf_placeVisit (memWf_snd e5 (memWf_ologChoice (memWf_snd e4 (memWf_greedyWing wf)))))
                  · rename_i e5
                    exact memWf_snd e5 (memWf_ologChoice (memWf_snd e4 (memWf_greedyWing wf)))

theorem memWf_discardAtomics {s : State} {u : SuiteId} {b : Fin 2} (wf : s.MemWf) : (discardAtomics s u b).MemWf :=
  memWf_modRoom wf

theorem memWf_releaseBank {s : State} {u : SuiteId} {b : Fin 2} {keepStores : Bool} (wf : s.MemWf) : (releaseBank s u b keepStores).MemWf :=
  memWf_modBank (memWf_modSuite (fun _ => rfl) (memWf_freeMonitor (memWf_discardAtomics (memWf_ite (memWf_modRoom wf) wf))))

theorem goes_execVisitRetire {u : SuiteId} {b : Fin 2} {s : State} : Goes s (execVisitRetire u b s) := by
  unfold execVisitRetire
  refine .next fun wf => ?_
  split
  · exact wf
  · exact memWf_ite wf (memWf_settleLaunch (memWf_modLaunch (memWf_foldl (fun _ _ wf1 => memWf_releaseBank wf1) wf)))

theorem memWf_abortCommands {s : State} {u : SuiteId} {b : Fin 2} (wf : s.MemWf) : (abortCommands s u b).MemWf := by
  unfold abortCommands
  refine memWf_modSuite (fun _ => rfl) ?_
  refine memWf_foldl (fun t1 x1 wf1 => ?_) wf
  split
  · exact memWf_lowerBusy wf1
  · exact wf1

theorem memWf_releaseHalts {s : State} {u : SuiteId} {b : Fin 2} (wf : s.MemWf) : (releaseHalts s u b).MemWf :=
  wf

theorem memWf_abortVisit {s : State} {b : Fin 2} {v : Visit} {replace : Bool} (wf : s.MemWf) : (abortVisit s b v replace).MemWf :=
  memWf_settleLaunch (memWf_modPkg (fun _ => rfl) (memWf_modLaunch (memWf_foldl (fun _ _ wf1 => memWf_releaseBank (memWf_releaseHalts
      (memWf_abortCommands wf1))) (memWf_foldl (fun _ _ wf1 => memWf_ite (memWf_endBankRuns wf1) wf1) wf))))

theorem goes_execVisitAbort {u : SuiteId} {b : Fin 2} {replace : Bool} {s : State} : Goes s (execVisitAbort u b replace s) := by
  unfold execVisitAbort
  refine .next fun wf => ?_
  refine memWf_postEvent ?_
  split
  · exact memWf_abortVisit wf
  · exact wf

theorem memWf_answerTrap {s : State} {r : BankRef} {t : Trap} {skip : Bool} (wf : s.MemWf) : (answerTrap s r t skip).MemWf := by
  unfold answerTrap
  split
  · exact wf
  · exact memWf_ite (memWf_advance (memWf_ite (memWf_modSuite (fun _ => rfl) wf) wf)) (memWf_setPos (memWf_ite (memWf_modSuite (fun _ => rfl) wf) wf))

theorem memWf_skipDone {s : State} {r : BankRef} {t : Trap} (wf : s.MemWf) : (skipDone s r t).MemWf := by
  unfold skipDone
  split
  · split
    · split
      · exact memWf_doneFor wf
      · exact wf
    · exact wf
  · exact wf

theorem memWf_releaseCommands {s : State} {u : SuiteId} {b : Fin 2} (wf : s.MemWf) : (releaseCommands s u b).MemWf := by
  unfold releaseCommands
  extract_lets f s1
  have stored : s1.MemWf := memWf_modSuite (fun _ => rfl) wf
  exact memWf_of_parts rfl rfl stored

theorem memWf_resumeBank {s : State} {r : BankRef} {skip : Bool} (wf : s.MemWf) : (resumeBank s r skip).MemWf := by
  unfold resumeBank
  refine memWf_foldl (fun _ _ wf1 => memWf_holdBank wf1) ?_
  split
  · refine memWf_releaseCommands ?_
    refine memWf_modBank ?_
    refine memWf_foldl (fun _ _ wf1 => memWf_answerTrap wf1) ?_
    split
    · exact memWf_ite (memWf_skipDone wf) wf
    · exact wf
  · refine memWf_modBank ?_
    refine memWf_foldl (fun _ _ wf1 => memWf_answerTrap wf1) ?_
    split
    · exact memWf_ite (memWf_skipDone wf) wf
    · exact wf

theorem goes_execVcmdResume {c : CtxId} {s : State} : Goes s (execVcmdResume c s) := by
  unfold execVcmdResume
  exact .next fun wf => memWf_resumeBank wf

theorem goes_execVcmdSkip {c : CtxId} {s : State} : Goes s (execVcmdSkip c s) := by
  unfold execVcmdSkip
  exact .next fun wf => memWf_resumeBank wf

theorem goes_execVaregWrite {c : CtxId} {v : Word} {s : State} : Goes s (execVaregWrite c v s) := by
  unfold execVaregWrite
  exact .next fun wf => memWf_writeA wf

theorem goes_execFedead {u : SuiteId} {b : Fin 2} {s : State} : Goes s (execFedead u b s) := by
  unfold execFedead
  exact .next fun wf => memWf_ite wf (memWf_ite (memWf_ite wf (memWf_modBank wf)) (memWf_ite (memWf_modBank wf) (memWf_takeTrap (memWf_modBank wf))))

theorem goes_execSsync {d : BitVec 5} {dn : BitVec 4} {w : BitVec 4} {s : State} : Goes s (execSsync d dn w s) := by
  unfold execSsync
  exact goes_issue (fun _ => ⟨fun wf1 => memWf_modBank wf1, id⟩)

theorem goes_execSsyncArrival {u : SuiteId} {b : Fin 2} {s : State} : Goes s (execSsyncArrival u b s) := by
  unfold execSsyncArrival
  refine .next fun wf => ?_
  dsimp only
  split
  · exact memWf_ite wf (memWf_modBank wf)
  · exact wf

theorem memWf_passBarrier {setter : Nat} {s : State} {p : SuiteId × Fin 2} (wf : s.MemWf) : (passBarrier setter s p).MemWf := by
  unfold passBarrier
  dsimp only
  split
  · exact memWf_waitRecord (memWf_doneFor (memWf_landLater (memWf_modBank (memWf_l1Clear wf))))
  · exact wf

theorem memWf_countBarrier {s : State} {t : TenantId} {scope : Fin 3} {inst : Nat} (wf : s.MemWf) : (countBarrier s t scope inst).MemWf :=
  memWf_ite (memWf_modLaunch wf) (memWf_modTenant wf)

theorem memWf_passAll {s : State} {t : TenantId} {scope : Fin 3} {inst : Nat} (wf : s.MemWf) : (passAll s t scope inst).MemWf :=
  memWf_foldl (fun _ _ wf1 => memWf_passBarrier wf1) (memWf_countBarrier wf)

theorem memWf_modReplica {s : State} {t : TenantId} {f : Replica → Replica} (wf : s.MemWf) : (modReplica s t f).MemWf :=
  memWf_modTenant wf

theorem memWf_digestsAgree {s : State} {t : TenantId} (wf : s.MemWf) : (digestsAgree s t).MemWf :=
  memWf_passAll (memWf_modReplica wf)

theorem memWf_abortTenant {s : State} {t : TenantId} (wf : s.MemWf) : (abortTenant s t).MemWf := by
  unfold abortTenant
  refine memWf_foldl (fun t1 x1 wf1 => ?_) wf
  refine memWf_foldl (fun t2 x2 wf2 => ?_) wf1
  split
  · exact memWf_ite (memWf_abortVisit wf2) wf2
  · exact wf2

theorem memWf_digestTrap {s : State} {target : CtxId} {t : TenantId} {count : Word} (wf : s.MemWf) : (digestTrap s target t count).MemWf :=
  memWf_externalTrap wf

theorem memWf_alsoHost {s : State} {c : CtxId} (wf : s.MemWf) : (alsoHost s c).MemWf := by
  unfold alsoHost
  split
  · exact memWf_ite wf (memWf_modCtx (memWf_sendHost wf))
  · exact wf

theorem memWf_compareDigests {s : State} {t : TenantId} (wf : s.MemWf) : (compareDigests s t).MemWf := by
  unfold compareDigests
  dsimp only
  split
  · rename_i e _ _ _ _
    exact memWf_ite wf (memWf_ite (memWf_digestsAgree wf) (memWf_ite (memWf_digestTrap (memWf_modReplica wf)) (memWf_ite (memWf_digestTrap
        (memWf_abortTenant (memWf_modReplica (memWf_digestTrap (memWf_modReplica wf))))) (memWf_ite (memWf_digestsAgree (memWf_modReplica
        (memWf_digestTrap (memWf_modReplica wf)))) (memWf_alsoHost (memWf_requestStop (memWf_digestTrap (memWf_modReplica wf))))))))
  · exact wf

theorem memWf_takeDigest {s : State} {t : TenantId} (wf : s.MemWf) : (takeDigest s t).MemWf :=
  memWf_compareDigests (memWf_sendPacket (memWf_modReplica wf))

theorem goes_execBarrierCompletion {t : TenantId} {scope : Fin 3} {inst : Nat} {s : State} : Goes s (execBarrierCompletion t scope inst s) := by
  unfold execBarrierCompletion
  exact .next fun wf => memWf_ite wf (memWf_ite (memWf_ite (memWf_compareDigests wf) (memWf_ite wf (memWf_takeDigest wf))) (memWf_passAll wf))

theorem goes_execPeerDigest {t : TenantId} {digest : BitVec 256} {count : Word} {errs : BitVec 32} {s : State} :
    Goes s (execPeerDigest t digest count errs s) := by
  unfold execPeerDigest
  exact .next fun wf => memWf_ite (memWf_compareDigests (memWf_modReplica (memWf_countEvents wf))) (memWf_countEvents wf)

theorem goes_execDigstatWrite {t : TenantId} {v : Word} {s : State} : Goes s (execDigstatWrite t v s) := by
  unfold execDigstatWrite
  exact .next fun wf => memWf_ite (memWf_modReplica wf) wf

theorem goes_execDigpeerWrite {t : TenantId} {v : Word} {s : State} : Goes s (execDigpeerWrite t v s) := by
  unfold execDigpeerWrite
  exact .next fun wf => memWf_ite wf (memWf_ite (memWf_ite (memWf_modReplica (memWf_modReplica wf)) (memWf_passAll (memWf_modReplica
      (memWf_modReplica wf)))) (memWf_modReplica wf))

theorem memWf_pushEvent {s : State} {c : CtxId} (wf : s.MemWf) : (pushEvent s c).MemWf := by
  unfold pushEvent
  dsimp only
  split
  · exact memWf_modCtx wf
  · split
    · exact wf
    · split
      · rename_i e2
        exact memWf_modCtx (memWf_snd e2 (memWf_storeVa wf))
      · rename_i e2
        exact memWf_modCtx (memWf_snd e2 (memWf_storeVa wf))
      · rename_i e2
        split
        · rename_i e3
          exact memWf_modCtx (memWf_snd e3 (memWf_storeVa (memWf_snd e2 (memWf_storeVa wf))))
        · rename_i e3
          exact memWf_modCtx (memWf_snd e3 (memWf_storeVa (memWf_snd e2 (memWf_storeVa wf))))
        · rename_i e3
          exact memWf_modCtx (memWf_snd e3 (memWf_storeVa (memWf_snd e2 (memWf_storeVa wf))))

theorem goes_execEventRingWrite {c : CtxId} {s : State} : Goes s (execEventRingWrite c s) := by
  unfold execEventRingWrite
  exact .next fun wf => memWf_ite (memWf_pushEvent wf) wf

theorem memWf_retryEvent {s : State} {c : CtxId} (wf : s.MemWf) : (retryEvent s c).MemWf :=
  memWf_ite (memWf_pushEvent wf) wf

theorem goes_execEvqheadWrite {c : CtxId} {v : Word} {s : State} : Goes s (execEvqheadWrite c v s) := by
  unfold execEvqheadWrite
  exact .next fun wf => memWf_retryEvent (memWf_modCtx wf)

theorem goes_execEvqbaseWrite {c : CtxId} {v : Word} {s : State} : Goes s (execEvqbaseWrite c v s) := by
  unfold execEvqbaseWrite
  exact .next fun wf => memWf_retryEvent (memWf_modCtx wf)

theorem goes_execCounterOverflow {b : BankRef} {n : Fin 8} {s : State} : Goes s (execCounterOverflow b n s) := by
  unfold execCounterOverflow
  exact .next fun wf => memWf_postEvent (memWf_setCounters wf)

theorem goes_execLssplitWrite {u : SuiteId} {v : Word} {s : State} : Goes s (execLssplitWrite u v s) :=
  .next fun wf => memWf_modPkg (fun _ => rfl) (memWf_modSuite_ls (fun _ => memClear_wf _ _ _) (memWf_modSuite (fun _ => rfl) wf))

theorem memWf_putPte {s : State} {d : Desc} {i : Nat} {v : Word} (wf : s.MemWf) : (putPte s d i v).MemWf :=
  memWf_devWrite wf

theorem memWf_copyFrame {s : State} {src dst old : Nat} {new : Option Nat} (wf : s.MemWf) : (copyFrame s src dst old new).MemWf := by
  have base : (countLost (correctErrors s (65536 * src) 65536) (65536 * src)).MemWf := memWf_countLost (memWf_correctErrors wf)
  have raw := wf_foldl (fun m (c : Nat × Byte) h => memPut_wf (c.1 % 65536 + dst * 65536) c.2 h (Nat.zero_le _))
    (frameCells (countLost (correctErrors s (65536 * src) 65536) (65536 * src)) src) base.1
  refine memWf_modPkg_mem ?_ base
  dsimp only
  split
  · exact raw
  · exact wf_foldl (fun m q h => memWrite_wf _ _ _ h) _ raw

theorem memWf_migrationHold {s : State} {t : TenantId} {seg : Nat} {d : Desc} (wf : s.MemWf) : (migrationHold s t seg d).MemWf :=
  memWf_modPkg (fun _ => rfl) (memWf_modTenant (memWf_foldl (fun _ _ wf1 => memWf_putPte wf1) wf))

theorem memWf_modMigr {s : State} {m : Migr} {f : Migr → List Migr} (wf : s.MemWf) : (modMigr s m f).MemWf :=
  memWf_modPkg (fun _ => rfl) wf

theorem goes_execMigration {t : TenantId} {seg : Fin 65536} {s : State} : Goes s (execMigration t seg s) := by
  unfold execMigration
  refine .next fun wf => ?_
  split
  · exact wf
  · split
    · exact memWf_ite wf (memWf_migrationHold wf)
    · split
      · exact memWf_ite wf (memWf_modMigr (memWf_copyFrame wf))
      · exact memWf_ite (memWf_modMigr (memWf_foldl (fun _ _ wf1 => memWf_putPte wf1) wf)) (memWf_modMigr (memWf_modTenant (memWf_foldl
          (fun _ _ wf1 => memWf_putPte wf1) (memWf_triggerSegment (memWf_invalidateSegments wf)))))

theorem memWf_modPort {s : State} {port : Nat} {f : L2Port → L2Port} (wf : s.MemWf) : (modPort s port f).MemWf :=
  memWf_modPkg (fun _ => rfl) wf

theorem goes_execL2PortGrant {port : Nat} {s : State} : Goes s (execL2PortGrant port s) := by
  unfold execL2PortGrant
  refine .next fun wf => ?_
  split
  · exact wf
  · exact memWf_ite wf (memWf_foldl (fun _ _ wf1 => memWf_ite (memWf_modTenant wf1) wf1) (memWf_modPort wf))

theorem goes_execL2BucketRefill {port : Nat} {s : State} : Goes s (execL2BucketRefill port s) := by
  unfold execL2BucketRefill
  exact .next fun wf => memWf_modPort wf

theorem goes_execL2qosWrite {t : TenantId} {v : Word} {s : State} : Goes s (execL2qosWrite t v s) := by
  unfold execL2qosWrite
  exact .next fun wf => memWf_modPkg (fun _ => rfl) (memWf_modTenant wf)

theorem goes_execOlogwWrite {c : CtxId} {v : Word} {s : State} : Goes s (execOlogwWrite c v s) := by
  unfold execOlogwWrite
  refine .next fun wf => ?_
  split
  · exact wf
  · dsimp only
    split
    · rename_i e
      exact memWf_modTenant (memWf_snd e (memWf_ologChoice wf))
    · rename_i e
      exact memWf_modBank (memWf_snd e (memWf_ologChoice wf))

theorem goes_execOloglimWrite {t : TenantId} {v : Word} {s : State} : Goes s (execOloglimWrite t v s) := by
  unfold execOloglimWrite
  exact .next fun wf => memWf_ite (memWf_modTenant wf) wf

theorem goes_execReplaydiv {t : TenantId} {s : State} : Goes s (execReplaydiv t s) := by
  unfold execReplaydiv
  exact .next fun wf => memWf_ite wf (memWf_ite (memWf_ologSkip wf) (memWf_ite (memWf_externalTrap (memWf_modTenant (memWf_ologSkip wf)))
      (memWf_modTenant (memWf_ologSkip wf))))

theorem goes_execTrctlWrite {t : TenantId} {v : Word} {s : State} : Goes s (execTrctlWrite t v s) := by
  unfold execTrctlWrite
  exact .next fun wf => memWf_modTenant wf

theorem goes_execRoomfltClear {u : SuiteId} {s : State} : Goes s (execRoomfltClear u s) := by
  unfold execRoomfltClear
  exact .next fun wf => memWf_modRoom wf

theorem memWf_drawKey {s : State} {slot : Fin 128} {t : Option TenantId} (wf : s.MemWf) : (drawKey s slot t).MemWf :=
  memWf_modPkg (fun _ => rfl) wf

theorem goes_execKeyctlAssign {t : TenantId} {slot : Fin 128} {s : State} : Goes s (execKeyctlAssign t slot s) := by
  unfold execKeyctlAssign
  exact .next fun wf => memWf_drawKey wf

theorem goes_execKeyctlRelease {slot : Fin 128} {s : State} : Goes s (execKeyctlRelease slot s) := by
  unfold execKeyctlRelease
  exact .next fun wf => memWf_drawKey wf

theorem memWf_dropRoomErrors {s : State} {u : SuiteId} (wf : s.MemWf) : (dropRoomErrors s u).MemWf :=
  memWf_modPkg (fun _ => rfl) wf

theorem memWf_zeroContents {s : State} {u : SuiteId} (wf : s.MemWf) : (zeroContents s u).MemWf :=
  memWf_modRoom (memWf_modSuite_ls (fun _ _ => rfl) (memWf_dropRoomErrors wf))

theorem memWf_detach {s : State} {u : SuiteId} (wf : s.MemWf) : (detach s u).MemWf :=
  memWf_ite wf (memWf_modRoom (memWf_modSuite (fun _ => rfl) (memWf_foldl (fun _ _ wf1 => memWf_freeMonitor wf1) (memWf_modPkg (fun _ => rfl) wf))))

theorem memWf_ownBit {t : TenantId} {v : Word} {s : State} {u : SuiteId} (wf : s.MemWf) : (ownBit t v s u).MemWf := by
  unfold ownBit
  split
  · exact memWf_ite wf (memWf_ite (memWf_ite (memWf_modTenant (memWf_detach wf)) wf) wf)
  · split
    · exact memWf_ite (memWf_modRoom (memWf_modTenant (memWf_ite wf (memWf_zeroContents wf)))) (memWf_ite (memWf_ite (memWf_modTenant
        (memWf_detach wf)) wf) wf)
    · exact memWf_ite (memWf_modRoom (memWf_modTenant wf)) (memWf_ite (memWf_ite (memWf_modTenant (memWf_detach wf)) wf) wf)

theorem goes_execOwnmaskWrite {t : TenantId} {v : Word} {s : State} : Goes s (execOwnmaskWrite t v s) := by
  unfold execOwnmaskWrite
  exact .next fun wf => memWf_foldl (fun _ _ wf1 => memWf_ownBit wf1) wf

theorem goes_execWingsetWrite {c : CtxId} {v : Word} {s : State} : Goes s (execWingsetWrite c v s) := by
  unfold execWingsetWrite
  exact .next fun wf => memWf_foldl (fun _ _ wf1 => memWf_modSuite (fun _ => rfl) wf1) (memWf_setEnvelope wf)

theorem memWf_abortRooms {s : State} {rooms : List SuiteId} {done : SuiteId → State → State}
    (hd : ∀ (u : SuiteId) (t : State), t.MemWf → (done u t).MemWf)
    (wf : s.MemWf) : (abortRooms s rooms done).MemWf := by
  refine memWf_foldl (fun t u wf1 => memWf_foldl (fun t' b wf2 => ?_) wf1) wf
  split
  · exact hd _ _ (memWf_abortVisit wf2)
  · exact wf2

theorem memWf_zeroRoom {stopped : Bool} {s : State} {u : SuiteId} (wf : s.MemWf) : (zeroRoom stopped s u).MemWf := by
  unfold zeroRoom
  refine memWf_modPkg (fun _ => rfl) ?_
  refine memWf_setRoom ?_
  refine memWf_setSuite ?_ (memWf_foldl (fun _ _ wf1 => memWf_freeMonitor wf1) (memWf_dropRoomErrors wf))
  rfl

theorem memWf_resetComplete {s : State} {tenant : Nat} {source : Nat} {level : Nat} (wf : s.MemWf) : (resetComplete s tenant source level).MemWf :=
  memWf_postEvent wf

theorem goes_execResetRoom {u : SuiteId} {s : State} : Goes s (execResetRoom u s) := by
  unfold execResetRoom
  exact .next fun wf => memWf_resetComplete (memWf_zeroRoom (memWf_abortRooms (fun _ _ wf1 => wf1) (memWf_endScans wf)))

theorem memWf_clearBoundary {s : State} {b : Fin 5} (wf : s.MemWf) : (clearBoundary s b).MemWf :=
  memWf_modPkg (fun _ => rfl) wf

theorem goes_execResetDie {d : DieId} {s : State} : Goes s (execResetDie d s) := by
  unfold execResetDie
  exact .next fun wf => memWf_resetComplete (memWf_modPkg (fun _ => rfl) (memWf_clearBoundary (memWf_clearBoundary (memWf_foldl
      (fun _ _ wf1 => memWf_modRoom (memWf_zeroRoom wf1)) (memWf_abortRooms (fun _ _ wf1 => wf1) (memWf_endScans wf))))))

theorem memWf_flushEvents {c : CtxId} {k : Nat} {s : State} (wf : s.MemWf) : (flushEvents c k s).MemWf := by
  induction k generalizing c s wf with
  | zero =>
    unfold flushEvents
    exact wf
  | succ n ih =>
    unfold flushEvents
    exact memWf_ite wf (ih (memWf_pushEvent wf))

theorem memWf_resetContext {t : TenantId} {s : State} {c : CtxId} (wf : s.MemWf) : (resetContext t s c).MemWf :=
  memWf_modCtx (memWf_freeMonitor wf)

theorem memWf_freeLocks {s : State} {t : TenantId} (wf : s.MemWf) : (freeLocks s t).MemWf :=
  memWf_foldl (fun _ _ wf1 => memWf_modCtx wf1) wf

theorem memWf_dropPassage {t : TenantId} {s : State} {b : Fin 5} {p : Fin 8} (wf : s.MemWf) : (dropPassage t s b p).MemWf :=
  memWf_ite wf (memWf_ite (memWf_sendPacket (memWf_modPassage wf)) (memWf_modPassage wf))

theorem memWf_dropTraffic {s : State} {t : TenantId} {ctxs : List CtxId} (wf : s.MemWf) : (dropTraffic s t ctxs).MemWf :=
  memWf_modPkg (fun _ => rfl) wf

theorem goes_execResetTenant {t : TenantId} {s : State} : Goes s (execResetTenant t s) := by
  unfold execResetTenant
  exact .next fun wf => memWf_resetComplete (memWf_foldl (fun _ _ wf1 => memWf_resetContext wf1) (memWf_modTenant (memWf_freeLocks (memWf_foldl
      (fun _ _ wf1 => memWf_abandonInst wf1) (memWf_foldl (fun _ _ wf1 => memWf_foldl (fun _ _ wf2 => memWf_dropPassage wf2) wf1) (memWf_foldl
      (fun _ _ wf1 => memWf_drawKey wf1) (memWf_dropTraffic (memWf_foldl (fun _ _ wf1 => memWf_zeroRoom wf1) (memWf_abortRooms
      (fun _ _ wf1 => memWf_postEvent wf1) (memWf_foldl (fun _ _ wf1 => memWf_postEnd wf1) (memWf_foldl (fun _ _ wf1 => memWf_modCtx
      (memWf_flushEvents wf1)) (memWf_endScans wf))))))))))))

theorem memWf_resetState {s : State} : (resetState s).MemWf := memWf_of_parts (s := State.reset) rfl rfl memWf_reset

theorem memWf_trainLinks {s : State} (wf : s.MemWf) : (trainLinks s).MemWf :=
  memWf_foldl (fun _ _ wf1 => memWf_modPkg (fun _ => rfl) wf1) wf

theorem memWf_bringUp {s : State} (wf : s.MemWf) : (bringUp s).MemWf :=
  memWf_ite (memWf_modCtx (memWf_modPkg (fun _ => rfl) (memWf_trainLinks wf))) wf

theorem memWf_replyStatus {s : State} {kind : Nat} {t : TenantId} {tag : W16} {status : Byte} (wf : s.MemWf) :
    (replyStatus s kind t tag status).MemWf :=
  memWf_sendHost wf

theorem memWf_unbooted {s : State} {kind : Nat} {t : TenantId} {tag : W16} (wf : s.MemWf) : (unbooted s kind t tag).MemWf :=
  memWf_replyStatus wf

theorem goes_execPackageReset {s : State} : Goes s (execPackageReset s) := by
  unfold execPackageReset
  exact .next fun wf => memWf_ite (memWf_unbooted (memWf_ite wf wf)) (memWf_ite (memWf_hostFlits (memWf_ite wf wf)) (memWf_bringUp
      (memWf_resetState)))

theorem goes_execFeataccWrite {hi : Bool} {v : Word} {s : State} : Goes s (execFeataccWrite hi v s) := by
  unfold execFeataccWrite
  refine .next fun wf => ?_
  split
  · exact wf
  · refine memWf_modPkg ?_ wf
    intro _
    split
    · rfl
    · rfl

theorem goes_execDetctlWrite {t : TenantId} {v : Word} {s : State} : Goes s (execDetctlWrite t v s) := by
  unfold execDetctlWrite
  exact .next fun wf => memWf_modTenant wf

theorem goes_execPassWrite {bd : Fin 5} {p : Fin 8} {v : Word} {s : State} : Goes s (execPassWrite bd p v s) := by
  unfold execPassWrite
  exact .next fun wf => memWf_modPassage wf

theorem goes_execAlockWrite {c : CtxId} {v : Word} {s : State} : Goes s (execAlockWrite c v s) := by
  unfold execAlockWrite
  exact .next fun wf => memWf_modCtx wf

theorem goes_execAunlkWrite {c : CtxId} {s : State} : Goes s (execAunlkWrite c s) := by
  refine .next fun wf => ?_
  split
  · exact wf
  · exact memWf_of_parts rfl rfl wf

theorem memWf_stampMessage {s : State} (wf : s.MemWf) : (stampMessage s).MemWf :=
  memWf_modPkg (fun _ => rfl) wf

theorem goes_execHostLaunch {t : TenantId} {tag : W16} {record : List Byte} {s0 : State} : Goes s0 (execHostLaunch t tag record s0) := by
  unfold execHostLaunch
  refine .next fun wf => ?_
  split
  · exact memWf_ite (memWf_unbooted (memWf_hostFlits wf)) (memWf_replyStatus (memWf_stampMessage (memWf_hostFlits wf)))
  · dsimp only
    split
    · exact memWf_unbooted (memWf_hostFlits wf)
    · exact memWf_replyStatus (memWf_ite (memWf_submitLaunch (memWf_modPkg (fun _ => rfl) (memWf_hostFlits wf))) (memWf_stampMessage
        (memWf_submitLaunch (memWf_modPkg (fun _ => rfl) (memWf_hostFlits wf)))))

theorem goes_execHostDoorbell {t : TenantId} {v : Word} {s0 : State} : Goes s0 (execHostDoorbell t v s0) := by
  unfold execHostDoorbell
  exact .next fun wf => memWf_ite (memWf_postEvent (memWf_hostFlits wf)) (memWf_unbooted (memWf_hostFlits wf))

theorem goes_execHostQuote {tag : W16} {nonce : BitVec 256} {s0 : State} : Goes s0 (execHostQuote tag nonce s0) := by
  unfold execHostQuote
  exact .next fun wf => memWf_ite (memWf_unbooted (memWf_hostFlits wf)) (memWf_sendHost (memWf_stampMessage (memWf_hostFlits wf)))

theorem memWf_remoteArrives {s : State} {source : Nat} {t : TenantId} {seg : Nat} {off : Nat} {inst : Nat} {rank : Nat} {time : Word} (wf : s.MemWf) :
    (remoteArrives s source t seg off inst rank time).MemWf := by
  unfold remoteArrives
  split
  · exact memWf_modPkg (fun _ => rfl) wf
  · split
    · exact wf
    · exact memWf_ite (memWf_sendAbandon wf) (memWf_ite wf (memWf_ite (memWf_abandonInst wf) (memWf_fixT0 (memWf_modInst wf))))

theorem memWf_remoteWords {s : State} {t : TenantId} {seg : Nat} {off : Nat} {inst : Nat} {n : Nat} {ws : List W32} (wf : s.MemWf) :
    (remoteWords s t seg off inst n ws).MemWf := by
  unfold remoteWords
  split
  · exact wf
  · exact memWf_modInst wf

theorem memWf_remoteAbandon {s : State} {t : TenantId} {seg : Nat} {off : Nat} {inst : Nat} (wf : s.MemWf) :
    (remoteAbandon s t seg off inst).MemWf := by
  unfold remoteAbandon
  split
  · exact memWf_modPkg (fun _ => rfl) wf
  · split
    · exact memWf_ite wf (memWf_abandonInst wf)
    · exact wf

theorem memWf_passageGone {s : State} {u : SuiteId} {k : Nat} {recv : Bool} {trap : Bool} (wf : s.MemWf) : (passageGone s u k recv trap).MemWf := by
  unfold passageGone
  split
  · exact wf
  · exact memWf_ite (memWf_modRun wf) (memWf_ite (memWf_runTrap (memWf_modRun wf)) (memWf_modRun wf))

theorem memWf_passageDown {s : State} {t : TenantId} {p : Fin 8} {recv : Bool} {trap : Bool} (wf : s.MemWf) : (passageDown s t p recv trap).MemWf :=
  memWf_foldl (fun _ _ wf1 => memWf_foldl (fun _ _ wf2 => memWf_passageGone wf2) wf1) (memWf_modPassage wf)

theorem memWf_deliver {s : State} {source : Nat} {z : Packet} (wf : s.MemWf) : (deliver s source z).MemWf := by
  unfold deliver
  split
  · exact memWf_ite (memWf_sendPacket (memWf_modPassage wf)) wf
  · exact memWf_modPassage wf
  · exact memWf_ite (memWf_modPassage wf) wf
  · exact memWf_postCs wf
  · exact memWf_remoteArrives wf
  · exact memWf_remoteWords wf
  · exact memWf_remoteAbandon wf
  · exact memWf_passageDown wf
  · exact wf

theorem memWf_packetFlits {s : State} {p : Packet} (wf : s.MemWf) : (packetFlits s p).2.MemWf := by
  unfold packetFlits
  split
  · exact wf
  · exact wf
  · exact wf
  · exact wf

theorem memWf_modLink {s : State} {port : Fin 12} {f : Link → Link} (wf : s.MemWf) : (modLink s port f).MemWf :=
  memWf_modPkg (fun _ => rfl) wf

theorem memWf_portDown {s : State} {port : Fin 12} (wf : s.MemWf) : (portDown s port).MemWf :=
  memWf_ite wf (memWf_externalTrap (memWf_modLink wf))

theorem memWf_reroute {s : State} {port : Fin 12} (wf : s.MemWf) : (reroute s port).MemWf := by
  unfold reroute
  dsimp only
  split
  · exact memWf_modLink (memWf_modLink (memWf_chooseBelow wf))
  · exact wf

theorem goes_execLinkdown {port : Fin 12} {s : State} : Goes s (execLinkdown port s) := by
  unfold execLinkdown
  exact .next fun wf => memWf_portDown wf

theorem goes_execFlitReceive {port : Fin 12} {crcOk : Bool} {source : Nat} {seq : Nat} {packet : Packet} {s : State} :
    Goes s (execFlitReceive port crcOk source seq packet s) := by
  unfold execFlitReceive
  refine .next fun wf => ?_
  split
  · exact memWf_ite wf (memWf_ite (memWf_portDown (memWf_modLink wf)) (memWf_modLink wf))
  · dsimp only
    split
    · exact wf
    · exact memWf_ite (memWf_modLink wf) (memWf_deliver (memWf_countEvents (memWf_packetFlits (memWf_modLink (memWf_modLink wf)))))

theorem goes_execLinkRetrain {port : Fin 12} {ok : Bool} {s : State} : Goes s (execLinkRetrain port ok s) := by
  unfold execLinkRetrain
  exact .next fun wf => memWf_ite (memWf_modLink wf) wf

theorem memWf_dropUnreachable {s : State} (wf : s.MemWf) : (dropUnreachable s).MemWf :=
  memWf_foldl (fun _ _ wf1 => memWf_abandonInst wf1) (memWf_foldl (fun _ _ wf1 => memWf_ite (memWf_passageDown (memWf_ite
      (memWf_passageDown wf1) wf1)) (memWf_ite (memWf_passageDown wf1) wf1)) wf)

theorem goes_execRouteUpdate {reachablePkgs : List Nat} {s : State} : Goes s (execRouteUpdate reachablePkgs s) := by
  unfold execRouteUpdate
  exact .next fun wf => memWf_dropUnreachable (memWf_foldl (fun _ _ wf1 => memWf_reroute wf1) (memWf_modPkg (fun _ => rfl) wf))

theorem memWf_sendFlit {s : State} {port : Fin 12} (wf : s.MemWf) : (sendFlit s port).MemWf := by
  unfold sendFlit
  split
  rename_i e
  dsimp only
  split
  · exact memWf_modLink wf
  · split
    · exact memWf_snd e (memWf_chooseBelow wf)
    · exact memWf_ite (memWf_modPkg (fun _ => rfl) (memWf_countEvents (memWf_modLink (memWf_snd e (memWf_chooseBelow wf))))) (memWf_countEvents
        (memWf_modLink (memWf_snd e (memWf_chooseBelow wf))))

theorem goes_execEscapeChannelEntry {port : Fin 12} {s : State} : Goes s (execEscapeChannelEntry port s) := by
  unfold execEscapeChannelEntry
  exact .next fun wf => memWf_ite wf (memWf_ite (memWf_foldl (fun _ _ wf1 => memWf_sendFlit wf1) (memWf_modLink wf)) (memWf_modLink wf))

theorem goes_execThermalTrip {s : State} : Goes s (execThermalTrip s) := by
  unfold execThermalTrip
  exact .next fun wf => memWf_bringUp (memWf_resetState)

theorem goes_execPowerThrottle {d : DieId} {blocks : Nat} {s : State} : Goes s (execPowerThrottle d blocks s) := by
  unfold execPowerThrottle
  exact .next fun wf => memWf_modPkg (fun _ => rfl) wf

theorem memWf_countUe {s : State} (wf : s.MemWf) : (countUe s).MemWf :=
  memWf_modPkg (fun _ => rfl) (memWf_countErr wf)

theorem goes_execSoftError {site : ErrSite} {s : State} : Goes s (execSoftError site s) := by
  unfold execSoftError
  refine .next fun wf => ?_
  split
  · exact memWf_ite wf (memWf_ite (memWf_modPkg (fun _ => rfl) (memWf_countUe wf)) (memWf_modPkg (fun _ => rfl) wf))
  · exact memWf_countUe (memWf_modPkg (fun _ => rfl) wf)
  · exact memWf_countUe (memWf_modPkg (fun _ => rfl) wf)
  · exact memWf_countUe (memWf_modSuite (fun _ => rfl) wf)
  · exact memWf_modPkg (fun _ => rfl) wf
  · exact memWf_modPkg (fun _ => rfl) wf
  · exact memWf_countCe wf

theorem goes_execPatrolScrub {line : Nat} {s : State} : Goes s (execPatrolScrub line s) := by
  unfold execPatrolScrub
  exact .next fun wf => memWf_correctErrors wf

theorem goes_execStewardRegisterUe {c : CtxId} {s : State} : Goes s (execStewardRegisterUe c s) := by
  unfold execStewardRegisterUe
  exact .next fun wf => memWf_ite (memWf_postEvent (memWf_postHostEvent (memWf_modCtx (memWf_countUe wf)))) (memWf_ite (memWf_postEvent
      (memWf_postEvent (memWf_modCtx (memWf_countUe wf)))) (memWf_postEvent (memWf_modCtx (memWf_countUe wf))))

theorem goes_execResultLanding {b : BankRef} {s : State} : Goes s (execResultLanding b s) := by
  unfold execResultLanding
  exact .next fun wf => memWf_landDue wf

theorem goes_execUnassignedEncoding {m : Map} {word : W32} {s : State} : Goes s (execUnassignedEncoding m word s) := by
  unfold execUnassignedEncoding
  refine .next fun wf => ?_
  dsimp only
  split
  · exact wf
  · exact memWf_ite (memWf_modRoom wf) (memWf_takeTrap wf)

theorem goes_exec {i : Instr} {s : State} : Goes s (exec i s) := by
  unfold exec
  split
  · exact goes_execAdd
  · exact goes_execSub
  · exact goes_execMul
  · exact goes_execMulh
  · exact goes_execDiv
  · exact goes_execDivu
  · exact goes_execRem
  · exact goes_execRemu
  · exact goes_execDivideCompletion
  · exact goes_execAnd
  · exact goes_execOr
  · exact goes_execXor
  · exact goes_execShl
  · exact goes_execShr
  · exact goes_execSra
  · exact goes_execMin
  · exact goes_execMax
  · exact goes_execMinu
  · exact goes_execMaxu
  · exact goes_execSlt
  · exact goes_execSltu
  · exact goes_execSel
  · exact goes_execClz
  · exact goes_execPopc
  · exact goes_execAddi
  · exact goes_execAndi
  · exact goes_execOri
  · exact goes_execXori
  · exact goes_execShli
  · exact goes_execShri
  · exact goes_execSrai
  · exact goes_execSlti
  · exact goes_execLui
  · exact goes_execLix
  · exact goes_execBr
  · exact goes_execJmp
  · exact goes_execCall
  · exact goes_execRet
  · exact goes_execLoop
  · exact goes_execBrk
  · exact goes_execCqp
  · exact goes_execEndA
  · exact goes_execNopA
  · exact goes_execHint
  · exact goes_execLd
  · exact goes_execSt
  · exact goes_execLdl
  · exact goes_execStl
  · exact goes_execLdt
  · exact goes_execStt
  · exact goes_execPft
  · exact goes_execAlign
  · exact goes_execFence
  · exact goes_execDrnt
  · exact goes_execDrntCompletion
  · exact goes_execQueueEntryPerform
  · exact goes_execPageFaultBankSwitch
  · exact goes_execWaita
  · exact goes_execMonitorTrigger
  · exact goes_execWaittmoExpiry
  · exact goes_execAat
  · exact goes_execOrderedAtomicApply
  · exact goes_execAccseqWrite
  · exact goes_execAmem
  · exact goes_execToksA
  · exact goes_execTokwA
  · exact goes_execCrd
  · exact goes_execCwr
  · exact goes_execCmw
  · exact goes_execCxc
  · exact goes_execCsrWrite
  · exact goes_execTrap
  · exact goes_execEret
  · exact goes_execYieldA
  · exact goes_execRpush
  · exact goes_execRpop
  · exact goes_execTinv
  · exact goes_execTinvCompletion
  · exact goes_execFrel
  · exact goes_execFrelCompletion
  · exact goes_execSsync
  · exact goes_execSsyncArrival
  · exact goes_execBarrierCompletion
  · exact goes_execDigstatWrite
  · exact goes_execDigpeerWrite
  · exact goes_execMnest
  · exact goes_execMfmt
  · exact goes_execMgo
  · exact goes_execMgoStart
  · exact goes_execNestBeat
  · exact goes_execDrainRow
  · exact goes_execHaltRestart
  · exact goes_execMwing
  · exact goes_execReshapeEffect
  · exact goes_execMdrn
  · exact goes_execDstart
  · exact goes_execDstartEffect
  · exact goes_execDlook
  · exact goes_execDfeed
  · exact goes_execDfeedHead
  · exact goes_execDdrn
  · exact goes_execDdrnHead
  · exact goes_execDend
  · exact goes_execDret
  · exact goes_execBeatDue
  · exact goes_execDroneBeat
  · exact goes_execMissdl
  · exact goes_execDemandVector
  · exact goes_execCpy
  · exact goes_execCpyStart
  · exact goes_execCpyCompletion
  · exact goes_execCpyq
  · exact goes_execCommandCompletion
  · exact goes_execPsend
  · exact goes_execPsendCredit
  · exact goes_execPsendCompletion
  · exact goes_execPrecv
  · exact goes_execPrecvSlot
  · exact goes_execPrecvCompletion
  · exact goes_execColl
  · exact goes_execCollArrival
  · exact goes_execCollStep
  · exact goes_execCollInstanceCompletion
  · exact goes_execCollw
  · exact goes_execScnstop
  · exact goes_execScnrun
  · exact goes_execScnout
  · exact goes_execScnin
  · exact goes_execScnq
  · exact goes_execScanControllerTake
  · exact goes_execBeatStop
  · exact goes_execCoreStopComplete
  · exact goes_execScnrunRestart
  · exact goes_execVadd
  · exact goes_execVsub
  · exact goes_execVmul
  · exact goes_execVfma
  · exact goes_execVfms
  · exact goes_execVmin
  · exact goes_execVmax
  · exact goes_execVabs
  · exact goes_execVneg
  · exact goes_execVand
  · exact goes_execVor
  · exact goes_execVxor
  · exact goes_execVnot
  · exact goes_execVshl
  · exact goes_execVshr
  · exact goes_execVsra
  · exact goes_execVcmp
  · exact goes_execVsel
  · exact goes_execVexp2
  · exact goes_execVlog2
  · exact goes_execVrcp
  · exact goes_execVrsq
  · exact goes_execVsqrt
  · exact goes_execVsigm
  · exact goes_execVtanh
  · exact goes_execVcvt
  · exact goes_execVqdec
  · exact goes_execVqenc
  · exact goes_execVscl
  · exact goes_execVred
  · exact goes_execVscan
  · exact goes_execVbcr
  · exact goes_execVbcc
  · exact goes_execVbcs
  · exact goes_execVtrn
  · exact goes_execVshf
  · exact goes_execVmov
  · exact goes_execVzero
  · exact goes_execVacc
  · exact goes_execVacw
  · exact goes_execMand
  · exact goes_execMor
  · exact goes_execMxor
  · exact goes_execMnot
  · exact goes_execMpop
  · exact goes_execEadd
  · exact goes_execEsub
  · exact goes_execEmul
  · exact goes_execEmov
  · exact goes_execEli
  · exact goes_execErd
  · exact goes_execEwr
  · exact goes_execCqb
  · exact goes_execCqr
  · exact goes_execXloop
  · exact goes_execXbr
  · exact goes_execToksX
  · exact goes_execTokwX
  · exact goes_execNopX
  · exact goes_execXend
  · exact goes_execDscl
  · exact goes_execDbia
  · exact goes_execDact
  · exact goes_execDclp
  · exact goes_execDcvt
  · exact goes_execDmul
  · exact goes_execDadd
  · exact goes_execDovw
  · exact goes_execDstl
  · exact goes_execDrainDend
  · exact goes_execLaunchReady
  · exact goes_execPriorityAging
  · exact goes_execVisitPlacement
  · exact goes_execVisitRetire
  · exact goes_execEventRingWrite
  · exact goes_execEvqheadWrite
  · exact goes_execEvqbaseWrite
  · exact goes_execCounterOverflow
  · exact goes_execVcmdResume
  · exact goes_execVcmdSkip
  · exact goes_execVaregWrite
  · exact goes_execFedead
  · exact goes_execLssplitWrite
  · exact goes_execMigration
  · exact goes_execCtxstartWrite
  · exact goes_execLsubmitWrite
  · exact goes_execKeyctlAssign
  · exact goes_execKeyctlRelease
  · exact goes_execOwnmaskWrite
  · exact goes_execWingsetWrite
  · exact goes_execResetDie
  · exact goes_execResetTenant
  · exact goes_execResetRoom
  · exact goes_execVisitAbort
  · exact goes_execFeataccWrite
  · exact goes_execDetctlWrite
  · exact goes_execPassWrite
  · exact goes_execL2qosWrite
  · exact goes_execL2PortGrant
  · exact goes_execAlockWrite
  · exact goes_execAunlkWrite
  · exact goes_execOlogwWrite
  · exact goes_execOloglimWrite
  · exact goes_execReplaydiv
  · exact goes_execTrctlWrite
  · exact goes_execRoomfltClear
  · exact goes_execScndmgClear
  · exact goes_execAccumulatorAtomicApply
  · exact goes_execPrefetchCompletion
  · exact goes_execCopyElementMove
  · exact goes_execScanShiftCompletion
  · exact goes_execHostLaunch
  · exact goes_execHostDoorbell
  · exact goes_execHostQuote
  · exact goes_execFlitReceive
  · exact goes_execLinkdown
  · exact goes_execLinkRetrain
  · exact goes_execRouteUpdate
  · exact goes_execPowerThrottle
  · exact goes_execPatrolScrub
  · exact goes_execStewardRegisterUe
  · exact goes_execSoftError
  · exact goes_execPeerDigest
  · exact goes_execUnassignedEncoding
  · exact goes_execResultLanding
  · exact goes_execL2BucketRefill
  · exact goes_execEscapeChannelEntry
  · exact goes_execThermalTrip
  · exact goes_execPackageReset

theorem memWf_after {s : State} {o : Host.Outcome State Fault Refusal} (g : Goes s o) (wf : s.MemWf) : (after s o).MemWf := by
  obtain ⟨t, e, k⟩ := g
  rw [e]
  exact k wf

theorem goes_runAt {s0 : State} {ag : Agent} : Goes s0 (runAt s0 ag) := by
  unfold runAt
  split
  · dsimp only
    split
    · split
      · refine .before (fun wf => ?_) goes_exec
        exact wf
      · refine .before (fun wf => ?_) goes_execUnassignedEncoding
        exact wf
    · exact .next fun wf => memWf_modRoom wf
    · exact .next id
  · dsimp only
    split
    · split
      · refine .before (fun wf => ?_) goes_exec
        exact wf
      · refine .before (fun wf => ?_) goes_execUnassignedEncoding
        exact wf
    · exact .next fun wf => memWf_takeTrap wf
    · exact .next id

theorem memWf_probe {s : State} {ag : Agent} (wf : s.MemWf) : (probe s ag).MemWf :=
  memWf_ite (memWf_markHeld wf) (memWf_ite wf (memWf_ite (memWf_markHeld wf) wf))

theorem goes_pairTurn {s : State} {r : BankRef} : Goes s (pairTurn s r) := by
  unfold pairTurn
  dsimp only
  split
  · split
    · exact .next fun wf => memWf_after goes_runAt wf
    · split
      · exact .next fun wf => memWf_after goes_runAt wf
      · refine .before (fun wf => ?_) goes_runAt
        exact memWf_after goes_runAt wf
  · split
    · exact .next id
    · split
      · exact .next id
      · exact goes_runAt

theorem goes_streamTurn {s : State} {ag : Agent} : Goes s (streamTurn s ag) := by
  unfold streamTurn
  split
  · exact goes_pairTurn
  · split
    · exact .next id
    · split
      · exact .next fun wf => memWf_probe wf
      · exact goes_runAt
  · split
    · exact .next fun wf => memWf_retryTrap wf
    · split
      · exact goes_runAt
      · exact .next id
  · split
    · exact goes_runAt
    · exact .next id

theorem goes_csrTurn {s : State} {ag : Agent} {num : BitVec 12} {op : CsrOp} : Goes s (csrTurn s ag num op) := by
  unfold csrTurn
  refine .before (fun wf => ?_) goes_exec
  split
  · exact memWf_writeA wf
  · exact wf

theorem memWf_someOf {l : List Instr} {s : State} (wf : s.MemWf) : (someOf l s).2.MemWf :=
  memWf_foldl_snd (fun _ _ wf1 => wf1) wf

theorem memWf_orderTraps {s : State} {r : BankRef} (wf : s.MemWf) : (orderTraps s r).MemWf :=
  memWf_ite wf (memWf_modPkg (fun _ => rfl) (memWf_modCtx (memWf_modBank wf)))

theorem memWf_sortTraps {s : State} (wf : s.MemWf) : (sortTraps s).MemWf :=
  memWf_foldl (fun _ _ wf1 => memWf_orderTraps wf1) wf

theorem memWf_selectSuite {p : List Turn × State} {u : SuiteId} (wf : p.2.MemWf) : (selectSuite p u).2.MemWf := by
  unfold selectSuite
  split
  · dsimp only
    split
    · exact memWf_probe (memWf_probe (memWf_modSuite (fun _ => rfl) wf))
    · exact memWf_modSuite (fun _ => rfl) wf
  · exact wf

theorem memWf_selectCore {p : List Turn × State} {core : Nat} (wf : p.2.MemWf) : (selectCore p core).2.MemWf := by
  unfold selectCore
  extract_lets run fresh cand
  split
  · exact wf
  · have chosen := memWf_chooseBelow (n := cand.length) wf
    split
    rename_i e
    have taken := memWf_snd e chosen
    split
    · exact taken
    · exact memWf_foldl (fun _ _ wf1 => memWf_probe (memWf_probe wf1)) taken

theorem memWf_countCycles {s : State} (wf : s.MemWf) : (countCycles s).MemWf :=
  memWf_foldl (fun _ _ wf1 => memWf_countEvents wf1) (memWf_foldl (fun _ _ wf1 => memWf_countEvents wf1) wf)

theorem memWf_startCycle {s : State} (wf : s.MemWf) : (startCycle s).MemWf :=
  memWf_ite (memWf_modPkg (fun _ => rfl) wf) (memWf_ite wf wf)

theorem memWf_countWaits {s : State} {r : BankRef} (wf : s.MemWf) : (countWaits s r).MemWf := by
  unfold countWaits
  split
  · split
    · exact memWf_ite wf (memWf_countEvents wf)
    · exact wf
  · exact wf

theorem memWf_endEffects {s : State} (wf : s.MemWf) : (endEffects s).MemWf :=
  memWf_foldl (fun _ _ wf1 => memWf_countWaits wf1) (memWf_foldl (fun _ _ wf1 => memWf_ite (memWf_endDrone wf1) wf1) (memWf_foldl
      (fun _ _ wf1 => memWf_finishRuns wf1) (memWf_foldl (fun _ _ wf1 => memWf_traceFlush wf1) (memWf_foldl
      (fun _ _ wf1 => memWf_settleFence wf1) wf))))

/-! ### The turns of a cycle -/

theorem memWf_phaseTurns {n : Nat} {s : State} (wf : s.MemWf) : (phaseTurns n s).2.MemWf := by
  have counted := memWf_countCycles wf
  have sorted := memWf_sortTraps wf
  unfold phaseTurns
  generalize countCycles s = s1 at counted ⊢
  generalize sortTraps s = s2 at sorted ⊢
  extract_lets banks
  split
  · exact wf
  · split
    rename_i e
    refine memWf_snd e (memWf_foldl_snd (fun p r wf1 => ?_) wf)
    split
    rename_i e1
    exact memWf_snd e1 (memWf_someOf wf1)
  · split
    rename_i e
    have chosen := memWf_snd e (memWf_foldl_snd (fun _ _ wf1 => memWf_selectSuite wf1) counted)
    split
    rename_i e1
    exact memWf_snd e1 (memWf_foldl_snd (fun _ _ wf1 => memWf_selectCore wf1) chosen)
  · exact wf
  · exact wf
  · exact wf
  · exact wf
  · exact wf
  · exact wf
  · exact sorted

/-- A change of each Suite in its place that leaves the Local Stores. -/
theorem memWf_ofFn_suites {s t : State} {f : SuiteId → Suite} (hs : t.suites = Vector.ofFn f) (hf : ∀ u, (f u).ls = (s.suite u).ls)
    (hp : t.pkg.mem = s.pkg.mem) (wf : s.MemWf) : t.MemWf := by
  obtain ⟨mem, ls⟩ := wf
  refine ⟨hp ▸ mem, fun u => ?_⟩
  rw [State.suite, hs, vget_ofFn, hf]
  exact ls u

theorem memWf_endCycle {s : State} (wf : s.MemWf) : (endCycle s).MemWf := by
  have ended := memWf_endEffects wf
  unfold endCycle
  generalize endEffects s = s0 at ended ⊢
  extract_lets s1 runs s2
  have closed : s2.MemWf := memWf_ofFn_suites rfl (fun _ => rfl) rfl ended
  clear_value s2
  exact memWf_modPkg (fun _ => rfl) (memWf_applyStops closed)

/-- What remains to do in a cycle is no memory. -/
theorem Goes.of_turns {s : State} {l : List Turn} {o : Host.Outcome State Fault Refusal} (g : Goes { s with turns := l } o) : Goes s o :=
  .before (fun wf => wf) g

theorem goes_turn {s : State} : Goes s (turn s) := by
  unfold turn
  split
  · refine .next fun wf => ?_
    have ended := memWf_endCycle wf
    generalize endCycle s = s1 at ended ⊢
    exact memWf_startCycle ended
  · exact .of_turns goes_exec
  · exact .of_turns goes_streamTurn
  · exact .of_turns goes_csrTurn
  · rename_i n rest _
    have laid (wf : s.MemWf) := memWf_phaseTurns (n := n) (s := { s with turns := rest }) wf
    split
    rename_i e
    refine .next fun wf => ?_
    have taken := memWf_snd e (laid wf)
    exact taken
  · exact .of_turns goes_execL2BucketRefill
  · exact .of_turns goes_execEscapeChannelEntry
  · exact .of_turns goes_execResultLanding
/-- Settles O60: the step is the turn of its cycle, which keeps every memory canonical. -/
theorem stepKeepsMemories : Obligations.StepKeepsMemories := by
  unfold Obligations.StepKeepsMemories
  intro s t wf next
  obtain ⟨z, e, keeps⟩ := goes_turn (s := s)
  obtain rfl : z = t := by
    have := e.symm.trans next
    injection this
  exact (memoriesWf_iff z).mpr (keeps ((memoriesWf_iff s).mp wf))

/-- Settles O5: the turn of every state is a next state. -/
theorem stepGoesOn : Obligations.StepGoesOn := by
  unfold Obligations.StepGoesOn
  intro s
  obtain ⟨t, e, _⟩ := goes_turn (s := s)
  have goes : step s = .next t := e
  rw [goes]
  rfl

/-- Settles O7: the memories of the reset state list nothing. -/
theorem resetMemoriesCanonical : Obligations.ResetMemoriesCanonical := by
  unfold Obligations.ResetMemoriesCanonical
  exact ⟨(memoriesWf_iff _).mpr memWf_reset, rfl, fun u => congrArg Suite.ls (suite_reset u)⟩

end Sys2Proof.Machine
end

section
/-! PROOFS. The registers whose writes only set what they name (R267, R325, R331, R335, R349, R378, R392, R404). -/

namespace Sys2Proof.Machine

/-! ### A tenant's bucket at a slice port -/

section
variable (x : L2Port) (t : TenantId) (b f : Nat)

theorem bucket_setBucket_same : (x.setBucket t b f).bucket t = (b, f) := by
  simp [L2Port.setBucket, L2Port.bucket]

theorem bucket_setBucket_other {o : TenantId} (other : o ≠ t) : (x.setBucket t b f).bucket o = x.bucket o := by
  have found : (x.buckets.filter fun y => y.1 != t).find? (fun y => y.1 == o) = x.buckets.find? fun y => y.1 == o := by
    rw [List.find?_filter]
    refine congrArg (List.find? · x.buckets) (funext fun y => ?_)
    by_cases h : y.1 = o <;> simp [h, other]
  have head : (t == o) = false := by simpa using other.symm
  simp only [L2Port.setBucket, L2Port.bucket, List.find?_cons, head, found]

/-- A bucket is cut to a depth. -/
def L2Port.cut (x : L2Port) (t : TenantId) (depth : Nat) : L2Port := if (x.bucket t).1 ≤ depth then x else x.setBucket t depth (x.bucket t).2

theorem port_cut (d : Nat) : (x.cut t d).port = x.port := by
  unfold L2Port.cut
  split <;> rfl

theorem bucket_cut_same (d : Nat) : ((x.cut t d).bucket t).1 = min (x.bucket t).1 d := by
  unfold L2Port.cut
  split
  case isTrue fits => exact (min_eq_left fits).symm
  case isFalse deep => rw [bucket_setBucket_same]; omega

theorem bucket_cut_other {o : TenantId} (other : o ≠ t) (d : Nat) : (x.cut t d).bucket o = x.bucket o := by
  unfold L2Port.cut
  split
  · rfl
  · exact bucket_setBucket_other x t _ _ other

end

/-! ### The fields of a passage's register -/

/-- Masking keeps a field that the mask covers. -/
theorem natBits_masked (v m : Word) {lo n : Nat} (covers : m.extractLsb' lo n = BitVec.allOnes n) :
    natBits (v &&& m).toNat lo n = natBits v.toNat lo n := by
  have field (y : Word) : natBits y.toNat lo n = (y.extractLsb' lo n).toNat := by
    rw [natBits, BitVec.extractLsb'_toNat, Nat.shiftRight_eq_div_pow]
  rw [field, field, BitVec.extractLsb'_and, covers, BitVec.and_allOnes]

theorem natBits_masked_clear (v m : Word) {lo n : Nat} (clears : m.extractLsb' lo n = 0#n) : natBits (v &&& m).toNat lo n = 0 := by
  rw [natBits, ← Nat.shiftRight_eq_div_pow, ← BitVec.extractLsb'_toNat, BitVec.extractLsb'_and, clears, BitVec.and_zero]
  rfl

theorem passage_modPassage_same (s : State) (b : Fin 5) (p : Fin 8) (f : Passage → Passage) :
    passage (modPassage s b p f) b p = f (passage s b p) := by
  simp only [passage, modPassage, State.pkg_modPkg, vget_set, if_true]

theorem passage_modPassage_other (s : State) {b c : Fin 5} {p q : Fin 8} (f : Passage → Passage) (other : c ≠ b ∨ q ≠ p) :
    passage (modPassage s b p f) c q = passage s c q := by
  simp only [passage, modPassage, State.pkg_modPkg, vget_set]
  split
  case isTrue same =>
    subst same
    rw [vget_set, if_neg (fun h => other.elim (· rfl) (· h.symm))]
  case isFalse => rfl

/-- What a write of PASS keeps of the word: the field of the peer exists at the outer boundaries only (R267). -/
def passMask (b : Fin 5) : Word := if b.val < 3 then 0x803f0f00 else 0x1ff803f0f00

section
variable (b : Fin 5) (v : Word) (slots : List (Nat × Option Tile)) (next used : Nat) (filled : List Nat)

theorem en_passMask : Passage.en ⟨v &&& passMask b, slots, next, used, filled⟩ = v.getLsbD 31 := by
  have covers : (passMask b).getLsbD 31 = true := by unfold passMask; split <;> decide
  simp [Passage.en, covers]

theorem tenant_passMask : Passage.tenant ⟨v &&& passMask b, slots, next, used, filled⟩ = v.toNat / 2 ^ 16 % 64 :=
  natBits_masked v _ (lo := 16) (n := 6) (by unfold passMask; split <;> decide)

theorem depth_passMask : Passage.depth ⟨v &&& passMask b, slots, next, used, filled⟩ = v.toNat / 2 ^ 8 % 16 + 1 :=
  congrArg (· + 1) (natBits_masked v _ (lo := 8) (n := 4) (by unfold passMask; split <;> decide))

theorem peer_passMask : Passage.peer ⟨v &&& passMask b, slots, next, used, filled⟩ = if b.val < 3 then 0 else v.toNat / 2 ^ 32 % 512 := by
  unfold Passage.peer passMask
  split
  · exact natBits_masked_clear v _ (by decide)
  · exact natBits_masked v _ (by decide)

end

/-! ### The writes -/

theorem passWrite_outcome (s : State) (b : Fin 5) (p : Fin 8) (v : Word) : answers (.passWrite b p v) s fun z =>
    (passage z b p).en = v.getLsbD 31 ∧ (passage z b p).tenant = v.toNat / 2 ^ 16 % 64 ∧ (passage z b p).depth = v.toNat / 2 ^ 8 % 16 + 1 ∧
    (passage z b p).peer = (if b.val < 3 then 0 else v.toNat / 2 ^ 32 % 512) ∧ (passage z b p).slots = (passage s b p).slots ∧
    ∀ c q, c ≠ b ∨ q ≠ p → passage z c q = passage s c q := by
  refine ⟨_, rfl, ?_⟩
  refine ⟨?_, ?_, ?_, ?_, ?_, fun c q other => passage_modPassage_other s _ other⟩
  all_goals rw [passage_modPassage_same]
  · exact en_passMask b v ..
  · exact tenant_passMask b v ..
  · exact depth_passMask b v ..
  · exact peer_passMask b v ..

theorem l2qosWrite_outcome (s : State) (t : TenantId) (v : Word) : answers (.l2qosWrite t v) s fun z =>
    (z.tenant t).qos.prio = v.extractLsb' 32 4 ∧ (z.tenant t).qos.depth = v.extractLsb' 16 13 ∧ (z.tenant t).qos.rate = v.extractLsb' 0 11 ∧
    (z.tenant t).qos.weight = (s.tenant t).qos.weight ∧ (∀ o, o ≠ t → z.tenant o = s.tenant o) ∧
    ∀ x, x ∈ s.pkg.l2 → ∃ y, y ∈ z.pkg.l2 ∧ y.port = x.port ∧ (y.bucket t).1 = min (x.bucket t).1 (v.toNat / 2 ^ 16 % 2 ^ 13) ∧
      ∀ o, o ≠ t → y.bucket o = x.bucket o := by
  refine ⟨_, rfl, ?_⟩
  simp only [State.tenant_modPkg, State.tenant_modTenant, if_true]
  refine ⟨trivial, trivial, trivial, trivial, fun o other => if_neg other.symm, fun x mem => ?_⟩
  exact ⟨x.cut t (natBits v.toNat 16 13), List.mem_map_of_mem mem, port_cut .., bucket_cut_same .., fun o other => bucket_cut_other x t other _⟩

theorem aunlkWrite_outcome (s : State) (c : CtxId) (held : (s.ctx c).lock ≠ none) : answers (.aunlkWrite c) s fun z => (z.ctx c).lock = none ∧
    ∀ t, (z.tenant t).locks = (s.tenant t).locks.filter fun q => q.2 != c := by
  have holds : (s.ctx c).lock.isNone = false := by simpa using Option.isSome_iff_ne_none.mpr held
  refine ⟨_, congrArg Host.Outcome.next (if_neg (by simp [holds])), ?_, fun t => ?_⟩
  · show ((s.modCtx c fun x => { x with lock := none }).ctx c).lock = none
    rw [State.ctx_modCtx, if_pos rfl]
  · exact congrArg Tenant.locks (vget_map _ s.tenants t)

/-- Settles O53: each write sets the fields it names, and the frames are those of a vector or a list with one entry replaced. -/
theorem tenantRegisters : Obligations.TenantRegisters := by
  unfold Obligations.TenantRegisters
  refine ⟨fun s v => ⟨fun unlocked => ?_, fun locked hi => ?_⟩, fun s t v => ⟨rfl, rfl⟩, fun s u => rfl, passWrite_outcome, l2qosWrite_outcome,
    fun s c v => ⟨rfl, fun none => ?_, aunlkWrite_outcome s c⟩⟩
  · constructor
    · exact congrArg Host.Outcome.next (if_neg (by simp [unlocked]))
    · exact congrArg Host.Outcome.next (if_neg (by simp [unlocked]))
  · exact congrArg Host.Outcome.next (if_pos locked)
  · exact congrArg Host.Outcome.next (if_pos (by simp [none]))

end Sys2Proof.Machine
end

section
/-! PROOFS. The scan instructions at issue (R297, R299-R301, R303): one rule for those that name a segment or rooms, one for those that move images,
and what a well-formed descriptor gives. -/

namespace Sys2Proof.Machine

/-! ### SCNSTOP, SCNRUN and SCNQ -/

/-- The context's command list with one more. -/
def joinScan (s : State) (c : CtxId) (x : ScanCmd) : State := s.modCtx c fun z => { z with scans := z.scans ++ [x] }

theorem planScan_ctx {s : State} {ag : Agent} {c : CtxId} (ctx : ag.bank = .ctx c) (op : ScanOp) (d : BitVec 5) (dn : BitVec 4) (bad : Bool)
    (rooms ctl : Word) (es : List SegEntry) : planScan op d dn bad rooms ctl es s ag =
      { trap := if bad then some (cILLFLD, 0) else if ctl.getLsbD 8 && c != hypervisor then some (cPROT, 0) else none
        act := fun t => joinScan t c (newScan op d dn rooms ctl (actingOf s c (ctl.getLsbD 8) (ctl.toNat % 64)) 0 es) } := by
  unfold planScan
  rw [ctx]
  rfl

theorem actingOf_mod (s : State) (c : CtxId) (tsel : Bool) (n : Nat) :
    actingOf s c tsel (n % 64) = if tsel then (⟨n % 64, Nat.mod_lt _ (by decide)⟩ : TenantId) else ctxTenant s c := by
  unfold actingOf
  simp only [Nat.mod_mod]

section
variable {i : Instr} {w : BitVec 4} {p : State → Agent → Plan} {s : State} {c : CtxId} {op : ScanOp} {d : BitVec 5} {dn : BitVec 4} {bad : Bool}
  {rooms ctl : Word} {es : List SegEntry} (run : exec i s = issue i w p s) (ctx : s.cur.bank = .ctx c)
  (plan : p s s.cur = planScan op d dn bad rooms ctl es s s.cur)
include run ctx plan

theorem scan_malformed (h : free s i w = true) (isBad : bad = true) : trapsAs s i 0x02 0 (posOf s s.cur) := by
  rw [planScan_ctx ctx] at plan
  exact trapsAs_plan run h (by rw [plan]) (by rw [plan]; exact if_pos isBad) (by rw [plan])

theorem scan_unentitled (h : free s i w = true) (good : bad = false) (named : ctl.getLsbD 8 = true) (other : c ≠ hypervisor) :
    trapsAs s i 0x22 0 (posOf s s.cur) := by
  rw [planScan_ctx ctx] at plan
  exact trapsAs_plan run h (by rw [plan]) (by rw [plan]; simp [good, named, other, cPROT]) (by rw [plan])

theorem scan_joins (h : ready s i w = true) (good : bad = false) (entitled : ctl.getLsbD 8 = false ∨ c = hypervisor) :
    exec i s = .next (joinScan (issued s w) c (newScan op d dn rooms ctl
      (if ctl.getLsbD 8 then (⟨ctl.toNat % 64, Nat.mod_lt _ (by decide)⟩ : TenantId) else ctxTenant s c) 0 es)) := by
  rw [planScan_ctx ctx, actingOf_mod] at plan
  have noTrap : (ctl.getLsbD 8 && c != hypervisor) = false := by
    rcases entitled with own | hyp
    · rw [own]; rfl
    · rw [hyp, bne_self_eq_false, Bool.and_false]
  rw [run, issue_next h (by rw [plan]) (by rw [plan, good, noTrap]; rfl), plan]

/-- The three together, with what makes the words malformed as a proposition. -/
theorem scan_rules {words : Prop} (malformed : bad = true ↔ words) (h : free s i w = true) :
    (words → trapsAs s i 0x02 0 (posOf s s.cur)) ∧
    (¬ words → ctl.getLsbD 8 = true → c ≠ hypervisor → trapsAs s i 0x22 0 (posOf s s.cur)) ∧
    (ready s i w = true → ¬ words → ctl.getLsbD 8 = false ∨ c = hypervisor → exec i s = .next (joinScan (issued s w) c (newScan op d dn rooms ctl
      (if ctl.getLsbD 8 then (⟨ctl.toNat % 64, Nat.mod_lt _ (by decide)⟩ : TenantId) else ctxTenant s c) 0 es))) := by
  have good (h : ¬ words) : bad = false := Bool.eq_false_iff.mpr (mt malformed.mp h)
  exact ⟨fun isBad => scan_malformed run ctx plan h (malformed.mpr isBad),
    fun fine named other => scan_unentitled run ctx plan h (good fine) named other,
    fun ready fine entitled => scan_joins run ctx plan ready (good fine) entitled⟩

end

/-- The words of SCNSTOP and SCNRUN that are malformed, as a proposition. -/
theorem stopMalformed_iff (run : Bool) (x y : Word) : stopMalformed run x y = true ↔
    (x = 0 ∨ y &&& ~~~0xffffffff0007013f ≠ 0 ∨ (y.getLsbD 16 = false ∧ y.getLsbD 17 = false) ∨ (y.getLsbD 18 = true ↔ y.toNat < 2 ^ 32) ∨
      (y.getLsbD 8 = false ∧ y.toNat % 64 ≠ 0)) ∨ (run = true ∧ y.getLsbD 18 = true) := by
  have beat : (y.getLsbD 18 != (y.toNat / 2 ^ 32 != 0)) = true ↔ (y.getLsbD 18 = true ↔ y.toNat < 2 ^ 32) := by
    have high : (y.toNat / 2 ^ 32 != 0) = !decide (y.toNat < 2 ^ 32) := by
      rw [bne, Bool.not_inj_iff, beq_eq_decide, decide_eq_decide]
      omega
    rw [high]
    cases y.getLsbD 18 <;> simp
  have parts : stopMalformed run x y = (x == 0 || (y &&& ~~~0xffffffff0007013f) != 0 || !(y.getLsbD 16 || y.getLsbD 17) ||
      (y.getLsbD 18 != (y.toNat / 2 ^ 32 != 0)) || (run && y.getLsbD 18) || (!y.getLsbD 8 && y.toNat % 64 != 0)) := rfl
  rw [parts]
  simp only [Bool.or_eq_true, Bool.and_eq_true, Bool.not_eq_true', Bool.or_eq_false_iff, bne_iff_ne, beq_iff_eq, beat]
  tauto

theorem queryMalformed_iff (x y : Word) :
    (!segOk x.toNat || (y &&& ~~~0x13f) != 0 || (!y.getLsbD 8 && y.toNat % 64 != 0)) = true ↔
      (segOk x.toNat = false ∨ y &&& ~~~0x13f ≠ 0 ∨ (y.getLsbD 8 = false ∧ y.toNat % 64 ≠ 0)) := by
  simp only [Bool.or_eq_true, Bool.and_eq_true, Bool.not_eq_true', bne_iff_ne, or_assoc]

/-! ### SCNOUT and SCNIN -/

section
variable {i : Instr} {w : BitVec 4} {p : State → Agent → Plan} {s : State} {c : CtxId} {out : Bool} {d : BitVec 5} {dn : BitVec 4} {va : Word}
  (run : exec i s = issue i w p s) (ctx : s.cur.bank = .ctx c) (plan : p s s.cur = planTransfer out d dn va s s.cur)
include run ctx plan

theorem transfer_traps (h : free s i w = true) {e : BitVec 8} {v : Word} (refused : prepare s c out va = .trap e v) :
    trapsAs s i e v (posOf s s.cur) := by
  have made : p s s.cur = { trap := some (e, v) } := by rw [plan, planTransfer, ctx]; simp only [refused]
  exact trapsAs_plan run h (by rw [made]) (by rw [made]) (by rw [made])

theorem transfer_joins (h : ready s i w = true) {t : TenantId} {buf : Word} {es : List SegEntry} (good : prepare s c out va = .cmd t buf es) :
    exec i s = .next (joinScan (issued s w) c (newScan (if out then .out else .inp) d dn 0 0 t buf es)) := by
  have made : p s s.cur = { act := fun x => joinScan x c (newScan (if out then .out else .inp) d dn 0 0 t buf es) } := by
    rw [plan, planTransfer, ctx]
    simp only [good]
    rfl
  rw [run, issue_next h (by rw [made]) (by rw [made]), made]

theorem transfer_waits (h : free s i w = true) (waits : prepare s c out va = .hold) :
    exec i s = .next (markHeld s s.cur ⟨false, false⟩) := by
  have made : p s s.cur = { hold := some holdPlain } := by rw [plan, planTransfer, ctx]; simp only [waits]
  rw [run, issue_waits h (k := holdPlain) (by rw [made]), made]
  rfl

theorem transfer_rules (h : free s i w = true) :
    (∀ e v, prepare s c out va = .trap e v → trapsAs s i e v (posOf s s.cur)) ∧
    (∀ t buf es, ready s i w = true → prepare s c out va = .cmd t buf es →
      exec i s = .next (joinScan (issued s w) c (newScan (if out then .out else .inp) d dn 0 0 t buf es))) ∧
    (prepare s c out va = .hold → exec i s = .next (markHeld s s.cur ⟨false, false⟩)) :=
  ⟨fun _ _ refused => transfer_traps run ctx plan h refused, fun _ _ _ ready good => transfer_joins run ctx plan ready good,
    transfer_waits run ctx plan h⟩

end

/-! ### A descriptor that is accepted -/

section
variable {s : State} {t : TenantId} {k : List Byte → Prepared}

/-- An aligned read of the descriptor or its list that memory answers. -/
theorem prepRead_ok {va : Word} {align n : Nat} {l : List Byte} {q : State} (aligned : va.toNat % align = 0) (low : va.toNat < 2 ^ 52)
    (read : loadVa s t va.toNat n = (.ok l, q)) : prepRead s t va align n k = k l := by
  unfold prepRead
  rw [if_neg (by omega), if_neg (by omega), read]

end

/-- The bytes that the images of a list need. -/
theorem foldl_imageSize (es : List SegEntry) : es.foldl (fun n e => n + imageSize e) 0 = (es.map imageSize).sum := by
  rw [List.sum_eq_foldl, List.foldl_map]

/-- The entries that a list's words name. -/
def listEntries (ids : List Byte) (n : Nat) : List SegEntry :=
  (List.range n).map fun k => let v := fieldAt ids (4 * k) 4; ⟨BitVec.ofNat 32 (v / 2 * 2), v.testBit 0⟩

theorem prepare_good {s : State} {c : CtxId} {out : Bool} {x : Word} {l ids : List Byte} {q1 q2 : State} (aligned : x.toNat % 8 = 0)
    (low : x.toNat < 2 ^ 52) (desc : loadVa s (ctxTenant s c) x.toNat 32 = (.ok l, q1)) (flags : fieldAt l 0x1b 1 = 0) (zero : fieldAt l 0x1c 4 = 0)
    (some : 1 ≤ fieldAt l 0x18 2) (most : fieldAt l 0x18 2 ≤ 1024) (listAligned : (word8 l 0).toNat % 4 = 0) (listLow : (word8 l 0).toNat < 2 ^ 52)
    (list : loadVa s (ctxTenant s c) (word8 l 0).toNat (4 * fieldAt l 0x18 2) = (.ok ids, q2))
    (named : ∀ e, e ∈ listEntries ids (fieldAt l 0x18 2) → segOk e.id.toNat = true)
    (distinct : ((listEntries ids (fieldAt l 0x18 2)).map (·.id)).Nodup)
    (long : ((listEntries ids (fieldAt l 0x18 2)).map imageSize).sum ≤ fieldAt l 0x10 8) (bufAligned : (word8 l 8).toNat % 64 = 0)
    (accessible : (rangeAccess s (ctxTenant s c) (word8 l 8).toNat ((listEntries ids (fieldAt l 0x18 2)).map imageSize).sum out).1 = .ok ()) :
    prepare s c out x = .cmd (ctxTenant s c) (word8 l 8) (listEntries ids (fieldAt l 0x18 2)) := by
  have all : ((listEntries ids (fieldAt l 0x18 2)).all fun e => segOk e.id.toNat) = true := List.all_eq_true.mpr named
  unfold prepare
  dsimp only
  rw [prepRead_ok aligned low desc]
  rw [if_neg (by simp [flags, zero]; omega), if_neg (by simp [flags]), prepRead_ok listAligned listLow list]
  rw [foldl_imageSize]
  change (if (!((listEntries ids (fieldAt l 0x18 2)).all _) || !decide ((listEntries ids (fieldAt l 0x18 2)).map _).Nodup) = true then _ else _) = _
  rw [if_neg (by simp [all, distinct])]
  change (if fieldAt l 0x10 8 < ((listEntries ids (fieldAt l 0x18 2)).map imageSize).sum then _ else _) = _
  rw [if_neg (by omega), if_neg (by omega)]
  generalize granted : rangeAccess s (ctxTenant s c) (word8 l 8).toNat ((listEntries ids (fieldAt l 0x18 2)).map imageSize).sum out = r at accessible
  obtain ⟨r, a⟩ := r
  subst accessible
  unfold listEntries at granted
  rw [granted, flags]
  rfl

/-- Settles O44: the instructions at issue by the rules above, and a good descriptor by `prepare_good`. -/
theorem scanCommandsIssue : Obligations.ScanCommandsIssue := by
  unfold Obligations.ScanCommandsIssue
  intro d s1 s2 dn w s c ctx
  refine ⟨scan_rules rfl ctx rfl ?_, scan_rules rfl ctx rfl ?_, scan_rules rfl ctx rfl (queryMalformed_iff ..), transfer_rules rfl ctx rfl,
    transfer_rules rfl ctx rfl, ?_⟩
  · have bad := stopMalformed_iff false (readA s s.cur s1) (readA s s.cur s2)
    simpa only [Bool.false_eq_true, false_and, or_false] using bad
  · have bad := stopMalformed_iff true (readA s s.cur s1) (readA s s.cur s2)
    simpa only [true_and] using bad
  · intro out l ids q1 q2 aligned low desc n list buf es need flags zero some most listAligned listLow read named distinct long bufAligned accessible
    exact prepare_good aligned low desc flags zero some most listAligned listLow read named distinct long bufAligned accessible

end Sys2Proof.Machine
end

section
/-! PROOFS. What events and messages to the host leave: everything but the numbers of events, the messages, and the queues and counters of contexts
(R41, R282, R327). -/

namespace Sys2Proof.Machine

/-- Between two states lie only events, messages to the host and what counters count of them. -/
structure Announced (s t : State) : Prop where
  shape : ∃ n out ctxs, t = { s with pkg := { s.pkg with eventSeq := n, out := out }, ctxs := ctxs }
  ctx : ∀ d, ∃ k ev, t.ctx d = { s.ctx d with counters := k, events := ev }

namespace Announced
variable {s t v : State}

theorem refl (s : State) : Announced s s := ⟨⟨_, _, _, rfl⟩, fun _ => ⟨_, _, rfl⟩⟩

theorem trans (h : Announced s t) (g : Announced t v) : Announced s v := by
  obtain ⟨_, _, _, rfl⟩ := h.shape
  obtain ⟨_, _, _, rfl⟩ := g.shape
  refine ⟨⟨_, _, _, rfl⟩, fun d => ?_⟩
  obtain ⟨_, _, hd⟩ := h.ctx d
  obtain ⟨k, ev, gd⟩ := g.ctx d
  exact ⟨k, ev, by rw [gd, hd]⟩

theorem suites (h : Announced s t) : t.suites = s.suites := by obtain ⟨_, _, _, rfl⟩ := h.shape; rfl
theorem rooms (h : Announced s t) : t.rooms = s.rooms := by obtain ⟨_, _, _, rfl⟩ := h.shape; rfl
theorem tenants (h : Announced s t) : t.tenants = s.tenants := by obtain ⟨_, _, _, rfl⟩ := h.shape; rfl
theorem cycle (h : Announced s t) : t.cycle = s.cycle := by obtain ⟨_, _, _, rfl⟩ := h.shape; rfl
theorem pkg (h : Announced s t) : ∃ n out, t.pkg = { s.pkg with eventSeq := n, out := out } := by
  obtain ⟨n, out, _, rfl⟩ := h.shape; exact ⟨n, out, rfl⟩
theorem mem (h : Announced s t) : t.pkg.mem = s.pkg.mem := by obtain ⟨_, _, e⟩ := h.pkg; rw [e]
theorem suite (h : Announced s t) (u : SuiteId) : t.suite u = s.suite u := congrArg (·.get u) h.suites
theorem room (h : Announced s t) (u : SuiteId) : t.room u = s.room u := congrArg (·.get u) h.rooms
theorem tenant (h : Announced s t) (k : TenantId) : t.tenant k = s.tenant k := congrArg (·.get k) h.tenants
theorem regs (h : Announced s t) (c : CtxId) : (t.ctx c).regs = (s.ctx c).regs := by obtain ⟨_, _, e⟩ := h.ctx c; rw [e]
theorem running (h : Announced s t) (c : CtxId) : (t.ctx c).running = (s.ctx c).running := by obtain ⟨_, _, e⟩ := h.ctx c; rw [e]
theorem hostfwd (h : Announced s t) (c : CtxId) : (t.ctx c).hostfwd = (s.ctx c).hostfwd := by obtain ⟨_, _, e⟩ := h.ctx c; rw [e]

theorem bank (h : Announced s t) (r : BankRef) : t.bank r = s.bank r := by
  cases r with
  | bank u b => exact congrArg (fun x : Suite => x.banks.get b) (h.suite u)
  | ctx c => exact h.regs c

end Announced

theorem countEvents_announced (s : State) (c : CtxId) (code n : Nat) : Announced s (countEvents s (.ctx c) code n) := by
  obtain ⟨ctxs, e, kept⟩ := countEvents_ctx s c code n
  rw [e]
  refine ⟨⟨_, _, _, rfl⟩, fun d => ?_⟩
  obtain ⟨k, hk⟩ := kept d
  exact ⟨k, (s.ctx d).events, hk⟩

theorem sendHost_announced (s : State) (kind tenant tag : Nat) (bytes : List Byte) : Announced s (sendHost s kind tenant tag bytes) := by
  obtain ⟨out, ctxs, e, kept⟩ := sendHost_eq s kind tenant tag bytes
  rw [e]
  refine ⟨⟨_, _, _, rfl⟩, fun d => ?_⟩
  obtain ⟨k, hk⟩ := kept d
  exact ⟨k, (s.ctx d).events, hk⟩

theorem postEvent_announced (s : State) (target : CtxId) (kind tenant source : Nat) (payload : BitVec 128) :
    Announced s (postEvent s target kind tenant source payload) := by
  obtain ⟨out, ctxs, e, kept⟩ := postEvent_eq s target kind tenant source payload
  rw [e]
  refine ⟨⟨_, _, _, rfl⟩, fun d => ?_⟩
  obtain ⟨k, hk⟩ := kept d
  exact ⟨k, _, hk⟩

theorem postHostEvent_announced (s : State) (kind tenant source : Nat) (payload : BitVec 128) :
    Announced s (postHostEvent s kind tenant source payload) := by
  have numbered : Announced s (s.modPkg fun p => { p with eventSeq := p.eventSeq + 1 }) := ⟨⟨_, _, _, rfl⟩, fun _ => ⟨_, _, rfl⟩⟩
  exact numbered.trans (sendHost_announced ..)

/-- The number of the next event after one. -/
theorem eventSeq_postEvent (s : State) (target : CtxId) (kind tenant source : Nat) (payload : BitVec 128) :
    (postEvent s target kind tenant source payload).pkg.eventSeq = s.pkg.eventSeq + 1 := by
  obtain ⟨_, _, e, -⟩ := postEvent_eq s target kind tenant source payload
  rw [e]

theorem events_postEvent_other (s : State) {target d : CtxId} (other : d ≠ target) (kind tenant source : Nat) (payload : BitVec 128) :
    ((postEvent s target kind tenant source payload).ctx d).events = (s.ctx d).events := by
  obtain ⟨_, _, e, kept⟩ := postEvent_eq s target kind tenant source payload
  obtain ⟨_, hk⟩ := kept d
  rw [e, State.ctx, hk, if_neg other.symm]

theorem reportStop_announced (s : State) (c : CtxId) (t : State) (kind : Nat) (p : BitVec 128) : Announced t (reportStop s c t kind p) := by
  unfold reportStop
  split
  · exact postHostEvent_announced ..
  · split
    · exact postEvent_announced ..
    · exact postEvent_announced ..

/-- A context that stops with a trap ends, and all that follows are reports. -/
theorem stopContext_announced (s : State) (c : CtxId) (r : Trap) : Announced (s.modCtx c Ctx.ended) (stopContext s c (some r)) := by
  rw [stopContext_some]
  exact (reportStop_announced ..).trans (reportStop_announced ..)

end Sys2Proof.Machine
end

section
/-! PROOFS. A precise trap is taken (R353-R356). -/

namespace Sys2Proof.Machine

/-! ### The trap of a Suite bank -/

section
variable (s : State) (u : SuiteId) (b : Fin 2) (k : StreamKind) (c : BitVec 8) (v : Word) (ret : Nat)

/-- The record of a trap of a bank's stream (R354). -/
def bankTrapOf (b : Fin 2) (k : StreamKind) (c : BitVec 8) (v : Word) (ret : Nat) : Trap := ⟨c, 0, k.code, BitVec.ofNat 1 b.val, BitVec.ofNat 28 ret, v⟩

theorem takeTrap_held (held : heldBefore s (.bank u b) = true) : takeTrap s ⟨.bank u b, k⟩ c v ret = s := if_pos held

theorem takeTrap_bank (free : heldBefore s (.bank u b) = false) : takeTrap s ⟨.bank u b, k⟩ c v ret =
    if k = .chanter then (holdBank s (.bank u b) (bankTrapOf b k c v ret)).modSuite u fun x => { x with chanter := { x.chanter with trapped := true } }
    else holdBank s (.bank u b) (bankTrapOf b k c v ret) :=
  if_neg (by simp [free])

/-- The chanter's flag aside, the machine of a trap taken is the one whose bank is held. -/
theorem takeTrap_parts (free : heldBefore s (.bank u b) = false) :
    let t := takeTrap s ⟨.bank u b, k⟩ c v ret
    let z := holdBank s (.bank u b) (bankTrapOf b k c v ret)
    t.bank (.bank u b) = z.bank (.bank u b) ∧ t.ctxs = z.ctxs ∧ t.pkg = z.pkg ∧ t.rooms = z.rooms ∧ t.tenants = z.tenants := by
  intro t z
  have made : t = _ := takeTrap_bank s u b k c v ret free
  rw [made]
  split
  · refine ⟨?_, rfl, rfl, rfl, rfl⟩
    simp only [State.bank, State.suite_modSuite, if_true, z]
  · exact ⟨rfl, rfl, rfl, rfl, rfl⟩

theorem holdBank_announced (t : Trap) : Announced (s.modBank (.bank u b) fun x => { x with traps := x.traps ++ [t], trapAt := some s.cycle })
    (holdBank s (.bank u b) t) := postEvent_announced ..

theorem events_holdBank (t : Trap) : let tn := tenantOf s (.bank u b)
    ((holdBank s (.bank u b) t).ctx (supervisor tn)).events =
      (s.ctx (supervisor tn)).events ++ [⟨s.pkg.eventSeq, 2, tn.val, u.val, trapBits t, (s.ctx (supervisor tn)).hostfwd⟩] :=
  events_postEvent ..

theorem takeTrap_outcome (free : heldBefore s (.bank u b) = false) :
    let r : BankRef := .bank u b
    let tr := bankTrapOf b k c v ret
    let t := takeTrap s ⟨r, k⟩ c v ret
    let tn := tenantOf s r
    (t.bank r).traps = (s.bank r).traps ++ [tr] ∧ (t.bank r).trapAt = some s.cycle ∧
      (t.ctx (supervisor tn)).events = (s.ctx (supervisor tn)).events ++ [⟨s.pkg.eventSeq, 2, tn.val, u.val, trapBits tr, (s.ctx (supervisor tn)).hostfwd⟩] ∧
      t.pkg.eventSeq = s.pkg.eventSeq + 1 ∧
      (t.bank r).a = (s.bank r).a ∧ (t.bank r).e = (s.bank r).e ∧ (t.bank r).sa = (s.bank r).sa ∧ (t.bank r).sx = (s.bank r).sx ∧
      t.pkg.mem = s.pkg.mem ∧ t.rooms = s.rooms ∧ t.tenants = s.tenants := by
  intro r tr t tn
  obtain ⟨bank, ctxs, pkg, rooms, tenants⟩ := takeTrap_parts s u b k c v ret free
  have held := bank.trans (bank_holdBank s u b tr)
  have kept := holdBank_announced s u b tr
  have ctx : t.ctx (supervisor tn) = (holdBank s r tr).ctx (supervisor tn) := congrArg (·.get (supervisor tn)) ctxs
  refine ⟨by rw [held], by rw [held], by rw [ctx]; exact events_holdBank s u b tr, ?_, by rw [held], by rw [held], by rw [held], by rw [held],
    ?_, rooms.trans (kept.rooms.trans (State.modBank_rooms ..)), tenants.trans (kept.tenants.trans (State.modBank_tenants ..))⟩
  · rw [pkg]
    exact eventSeq_postEvent ..
  · rw [pkg]
    exact mem_holdBank s u b tr

end

/-! ### The record -/

theorem trapBits_fields (t : Trap) : (trapBits t).extractLsb' 0 8 = t.cause ∧ (trapBits t).extractLsb' 8 3 = t.agent ∧
    (trapBits t).extractLsb' 11 1 = t.bank ∧ (trapBits t).extractLsb' 14 2 = t.cls ∧ (trapBits t).extractLsb' 16 28 = t.ret ∧
    (trapBits t).extractLsb' 64 64 = t.tval ∧ (trapBits t).extractLsb' 12 2 = 0 ∧ (trapBits t).extractLsb' 44 20 = 0 := by
  simp (disch := omega) only [trapBits, BitVec.extractLsb'_append_eq_of_add_le, BitVec.extractLsb'_append_eq_of_le]
  refine ⟨?_, ?_, ?_, ?_, ?_, ?_, ?_, ?_⟩ <;> exact BitVec.extractLsb'_eq_self

/-! ### The trap of a Steward context -/

section
variable (s : State) (c : CtxId) (k : StreamKind) (t : Trap)

/-- The context that ends keeps its position and its registers. -/
theorem stopContext_keeps : let z := stopContext s c (some t)
    (z.stream ⟨.ctx c, k⟩).pos = (s.stream ⟨.ctx c, k⟩).pos ∧ (z.bank (.ctx c)).a = (s.bank (.ctx c)).a := by
  intro z
  have ended : z.bank (.ctx c) = (s.ctx c).ended.regs := by
    rw [(stopContext_announced s c t).bank]
    simp only [State.bank, State.ctx_modCtx, if_true]
  constructor
  · rw [State.stream, ended]
    cases k <;> rfl
  · rw [ended]
    rfl

end

/-- Settles O11: the bank is held and told, or the context enters its handler's frame or stops. -/
theorem trapEntry : Obligations.TrapEntry := by
  unfold Obligations.TrapEntry
  refine ⟨⟨fun s u b k c v ret => ⟨takeTrap_held s u b k c v ret, takeTrap_outcome s u b k c v ret⟩, trapBits_fields⟩, ?_⟩
  intro s c k cause v ret notAtomic ag st h tr t
  have steward : t = stewardTrap s c k tr := if_neg (fun both => notAtomic both.1)
  constructor
  · intro stops
    have ended : t = stopContext s c (some tr) := steward.trans (if_pos stops)
    obtain ⟨pos, a⟩ := stopContext_keeps s c k tr
    rw [ended]
    exact ⟨rfl, running_stopContext s c tr, pos, a⟩
  · intro handler depth s1 stored
    rw [steward, stewardTrap, if_neg (by rintro (none | deep); exacts [handler none, absurd depth (Nat.not_lt.mpr deep)])]
    rw [stored]

end Sys2Proof.Machine
end

section
/-! PROOFS. Passages between the dies (R266-R270): the four turns of a PSEND and a PRECV, each for the command it serves. -/

namespace Sys2Proof.Machine

section Passages
variable {s : State} {u : SuiteId} {c : Cmd} {rest : List Cmd} {a ctl : Word}

/-- The state once the device has chosen whether it acts now. -/
def choiceMade (s : State) : State := { s with fresh := s.fresh + 1 }

/-- The device chooses to wait. -/
def choiceWaits (s : State) : Bool := Config.choice s.fresh % 2 == 1

/-- The head of C's queue leaves it and runs as `d`. -/
theorem startHead_cqueue (h : (s.suite u).cqueue = c :: rest) (d : Cmd) : startHead s u .c d =
    s.modSuite u fun x => { x with cqueue := rest, crun := x.crun ++ [{ d with status := .running }] } := by
  refine (modSuite_modSuite s u (fun x => { x with cqueue := x.cqueue.drop 1 })
    fun x => { x with crun := x.crun ++ [{ d with status := .running }] }).trans ?_
  simp only [State.modSuite, h, List.drop_one, List.tail_cons]

/-! ### The heads -/

section Head
variable (queue : (s.suite u).cqueue = c :: rest) (old : c.status = .popped) (sound : c.trapLevel = 0) (runs : (s.suite u).stopped = false)
include queue old sound runs

theorem popHead_c_popped : popHead s u .c = (some c, s) := popHead_popped (headOf_of_cqueue queue) (not_headKept_c runs sound) old

/-- PSEND at the head, by what its passage allows (R268, R269). -/
theorem exec_psendCredit (hop : c.op = .psend a ctl) : exec (.psendCredit u) s = .next (
    let at_ := slotBoundary s (sendBoundary u) (passageNo ctl)
    let x := passage s at_ (passageNo ctl)
    if !passageOk s (sendBoundary u) (passageNo ctl) c.tenant then headTrap s u .c c cPASSERR
    else if x.depth ≤ x.used then s
    else if Config.choice s.fresh % 2 = 1 then choiceMade s
    else
      match ologChoice (choiceMade s) c.tenant 2 u.val ((passageNo ctl).val + 16 * (sendBoundary u).val) with
      | (none, s3) => s3
      | (some _, s3) => startHead (reserveSlot s3 at_ (passageNo ctl)) u .c { c with slot := some (x.nextSlot, Tile.zero) }) := by
  show execPsendCredit u s = _
  simp only [execPsendCredit, headOp_of_headOf (headOf_of_cqueue queue) hop, popHead_c_popped queue old sound runs, chooseBelow] <;> rfl

theorem psendCredit_closed (hop : c.op = .psend a ctl) (closed : passageOk s (sendBoundary u) (passageNo ctl) c.tenant = false) :
    exec (.psendCredit u) s = .next (headTrap s u .c c 0x4a 0) := by
  rw [exec_psendCredit queue old sound runs hop]
  dsimp only
  rw [if_pos (by rw [closed]; rfl)]
  rfl

theorem psendCredit_full (hop : c.op = .psend a ctl) (opened : passageOk s (sendBoundary u) (passageNo ctl) c.tenant = true)
    (full : let x := passage s (slotBoundary s (sendBoundary u) (passageNo ctl)) (passageNo ctl); x.depth ≤ x.used) :
    exec (.psendCredit u) s = .next s := by
  rw [exec_psendCredit queue old sound runs hop]
  dsimp only
  rw [if_neg (by simp [opened]), if_pos full]

theorem psendCredit_takes (hop : c.op = .psend a ctl) (opened : passageOk s (sendBoundary u) (passageNo ctl) c.tenant = true)
    (left : let x := passage s (slotBoundary s (sendBoundary u) (passageNo ctl)) (passageNo ctl); x.used < x.depth)
    (off : ologMode s c.tenant = 0) : exec (.psendCredit u) s = .next (if Config.choice s.fresh % 2 = 1 then choiceMade s else
      let at_ := slotBoundary s (sendBoundary u) (passageNo ctl)
      (reserveSlot (choiceMade s) at_ (passageNo ctl)).modSuite u fun x => { x with
        cqueue := rest
        crun := x.crun ++ [{ c with status := .running, slot := some ((passage s at_ (passageNo ctl)).nextSlot, Tile.zero) }] }) := by
  rw [exec_psendCredit queue old sound runs hop]
  dsimp only
  rw [if_neg (by simp [opened]), if_neg (Nat.not_le.mpr left), ologChoice_off (s := choiceMade s) off]
  dsimp only
  rw [startHead_cqueue (s := reserveSlot (choiceMade s) _ _) queue]

/-- PRECV at the head (R268, R269). -/
theorem exec_precvSlot (hop : c.op = .precv a ctl) : exec (.precvSlot u) s = .next (
    if !passageOk s (recvBoundary u) (passageNo ctl) c.tenant then headTrap s u .c c cPASSERR
    else
      match (passage s (recvBoundary u) (passageNo ctl)).slots with
      | (id, some d) :: more =>
        startHead (modPassage s (recvBoundary u) (passageNo ctl) fun x => { x with slots := more }) u .c { c with slot := some (id, d) }
      | _ => s) := by
  show execPrecvSlot u s = _
  simp only [execPrecvSlot, headOp_of_headOf (headOf_of_cqueue queue) hop, popHead_c_popped queue old sound runs] <;> rfl

theorem precvSlot_closed (hop : c.op = .precv a ctl) (closed : passageOk s (recvBoundary u) (passageNo ctl) c.tenant = false) :
    exec (.precvSlot u) s = .next (headTrap s u .c c 0x4a 0) := by
  rw [exec_precvSlot queue old sound runs hop, if_pos (by rw [closed]; rfl)]
  rfl

theorem precvSlot_takes (hop : c.op = .precv a ctl) (opened : passageOk s (recvBoundary u) (passageNo ctl) c.tenant = true) {n : Nat} {d : Tile}
    {more : List (Nat × Option Tile)} (full : (passage s (recvBoundary u) (passageNo ctl)).slots = (n, some d) :: more) :
    exec (.precvSlot u) s = .next ((modPassage s (recvBoundary u) (passageNo ctl) fun x => { x with slots := more }).modSuite u fun x => { x with
      cqueue := rest, crun := x.crun ++ [{ c with status := .running, slot := some (n, d) }] }) := by
  rw [exec_precvSlot queue old sound runs hop, if_neg (by simp [opened]), full]
  dsimp only
  rw [startHead_cqueue (s := modPassage s _ _ _) queue]

theorem precvSlot_waits (hop : c.op = .precv a ctl) (opened : passageOk s (recvBoundary u) (passageNo ctl) c.tenant = true)
    (none : ∀ n d more, (passage s (recvBoundary u) (passageNo ctl)).slots ≠ (n, some d) :: more) : exec (.precvSlot u) s = .next s := by
  rw [exec_precvSlot queue old sound runs hop, if_neg (by simp [opened])]
  split
  next found => exact absurd found (none _ _ _)
  next => rfl

end Head

/-! ### The completions -/

section Running
variable {k id : Nat} {data : Tile} (cmd : (s.suite u).crun[k]? = some c) (slot : c.slot = some (id, data)) (status : c.status = .running)
  (sound : c.trapLevel = 0) (runs : (s.suite u).stopped = false)

/-- A command of C without a push that ends leaves the running ones (R213). -/
theorem finishRunning_noPush {t : State} (cmd : (t.suite u).crun[k]? = some c) (runs : (t.suite u).stopped = false) (noPush : c.tok.pushEn = 0) :
    finishRunning t u .c k = completeCmd (t.modSuite u fun x => { x with crun := x.crun.eraseIdx k }) u .c c := by
  have found : (runningOf (t.suite u) .c)[k]? = some c := cmd
  have room : pushRoom t u .c c = true := by simp [pushRoom, runs, noPush]
  simp only [finishRunning, found, room, if_true]
  rfl

/-- What can be read without waiting for a bank group that a nest feeds. -/
theorem passageRead_free (free : ctl.getLsbD 8 = true ∨ touchesFed s u a.toNat 32768 = false) :
    passageRead (choiceMade s) u c a ctl =
      some (if ctl.getLsbD 8 then readTile s u (c.tile (a.toNat % 64)) else tileOfBytes (lsRead s u a.toNat 32768)) := by
  unfold passageRead
  by_cases tile : ctl.getLsbD 8 = true
  · rw [if_pos tile, if_pos tile]
    rfl
  · have clear : touchesFed (choiceMade s) u a.toNat 32768 = false := free.resolve_left tile
    rw [if_neg tile, if_neg tile, fedReadHold, clear]
    rfl

theorem slotBoundary_inner {b : Fin 5} (inner : b.val < 3) (p : Fin 8) : slotBoundary s b p = b := if_neg (by omega)

theorem crosses_inner {b : Fin 5} (inner : b.val < 3) (p : Fin 8) : crosses s b p = false := by
  have : (b.val == 3) = false := beq_false_of_ne (by omega)
  simp [crosses, this]

include cmd slot status sound runs

/-- A PSEND between dies fills its slot once those before it are full (R268). -/
theorem exec_psendCompletion (hop : c.op = .psend a ctl) (inner : (sendBoundary u).val < 3) : exec (.psendCompletion u k) s = .next (
    if Config.choice s.fresh % 2 = 1 ∨ ((passage s (sendBoundary u) (passageNo ctl)).slots.takeWhile fun q => q.1 != id).any (fun q => q.2.isNone)
    then choiceMade s
    else
      match passageRead (choiceMade s) u c a ctl with
      | none => choiceMade s
      | some d => finishRunning (modPassage (choiceMade s) (sendBoundary u) (passageNo ctl) fun x =>
          { x with slots := x.slots.map fun q => if q.1 = id then (id, some d) else q }) u .c k) := by
  show execPsendCompletion u k s = _
  simp only [execPsendCompletion, cmd, hop, slot, status, sound, runs, slotBoundary_inner inner, crosses_inner inner, chooseBelow, ne_eq, not_true_eq_false,
    Bool.false_eq_true, or_self, false_and, if_false] <;> rfl

theorem exec_precvCompletion (hop : c.op = .precv a ctl) : exec (.precvCompletion u k) s = .next (
    if Config.choice s.fresh % 2 = 1 then choiceMade s
    else if !ctl.getLsbD 8 && touchesFed (choiceMade s) u a.toNat 32768 then runTrap (choiceMade s) u .c k cBANKCF
    else
      let s2 := if ctl.getLsbD 8 then setTile (choiceMade s) u (c.tile (a.toNat % 64)) data else lsWrite (choiceMade s) u a.toNat (bytesOfTile data)
      finishRunning (if id = noSlot then s2 else returnCredit s2 (recvBoundary u) (passageNo ctl) c.tenant) u .c k) := by
  show execPrecvCompletion u k s = _
  simp only [execPrecvCompletion, cmd, hop, slot, status, sound, runs, chooseBelow, ne_eq, not_true_eq_false, Bool.false_eq_true, or_self, if_false] <;> rfl

theorem psendCompletion_waits (hop : c.op = .psend a ctl) (inner : (sendBoundary u).val < 3)
    (before : ((passage s (sendBoundary u) (passageNo ctl)).slots.takeWhile fun q => q.1 != id).any (fun q => q.2.isNone) = true) :
    exec (.psendCompletion u k) s = .next (choiceMade s) := by
  rw [exec_psendCompletion cmd slot status sound runs hop inner, if_pos (.inr before)]

theorem psendCompletion_fills (hop : c.op = .psend a ctl) (inner : (sendBoundary u).val < 3) (noPush : c.tok.pushEn = 0)
    (before : ((passage s (sendBoundary u) (passageNo ctl)).slots.takeWhile fun q => q.1 != id).any (fun q => q.2.isNone) = false)
    (free : ctl.getLsbD 8 = true ∨ touchesFed s u a.toNat 32768 = false) :
    exec (.psendCompletion u k) s = .next (if Config.choice s.fresh % 2 = 1 then choiceMade s else
      completeCmd ((modPassage (choiceMade s) (sendBoundary u) (passageNo ctl) fun x =>
        { x with slots := x.slots.map fun q => if q.1 = id then
            (id, some (if ctl.getLsbD 8 then readTile s u (c.tile (a.toNat % 64)) else tileOfBytes (lsRead s u a.toNat 32768))) else q }).modSuite u
        fun x => { x with crun := x.crun.eraseIdx k }) u .c c) := by
  rw [exec_psendCompletion cmd slot status sound runs hop inner, passageRead_free free]
  dsimp only
  rw [finishRunning_noPush (t := modPassage (choiceMade s) _ _ _) cmd runs noPush]
  simp only [before, Bool.false_eq_true, or_false]

/-- The operand of a PRECV written (R268). -/
def precvWritten (s : State) (u : SuiteId) (c : Cmd) (a ctl : Word) (data : Tile) : State :=
  if ctl.getLsbD 8 then setTile (choiceMade s) u (c.tile (a.toNat % 64)) data else lsWrite (choiceMade s) u a.toNat (bytesOfTile data)

omit cmd slot status sound runs in
theorem crun_precvWritten : ((precvWritten s u c a ctl data).suite u).crun = (s.suite u).crun ∧
    ((precvWritten s u c a ctl data).suite u).stopped = (s.suite u).stopped := by
  unfold precvWritten
  split
  · unfold setTile
    rw [State.suite_modPkg, State.suite_modSuite, if_pos rfl]
    exact ⟨rfl, rfl⟩
  · have kept := noLs_lsWrite (choiceMade s) u u a.toNat (bytesOfTile data)
    exact ⟨(congrArg Suite.crun kept :), (congrArg Suite.stopped kept :)⟩

/-- The credit of a slot goes back, but for one that a reset has returned (R268, R417). -/
theorem precvCompletion_writes (hop : c.op = .precv a ctl) (inner : (recvBoundary u).val < 4) (noPush : c.tok.pushEn = 0)
    (free : ctl.getLsbD 8 = true ∨ touchesFed s u a.toNat 32768 = false) :
    exec (.precvCompletion u k) s = .next (if Config.choice s.fresh % 2 = 1 then choiceMade s else
      completeCmd ((if id = noSlot then precvWritten s u c a ctl data else
        modPassage (precvWritten s u c a ctl data) (recvBoundary u) (passageNo ctl) fun x => { x with used := x.used - 1 }).modSuite u
        fun x => { x with crun := x.crun.eraseIdx k }) u .c c) := by
  have clear : ¬ (!ctl.getLsbD 8 && touchesFed (choiceMade s) u a.toNat 32768) = true := by
    rcases free with tile | clear
    · rw [tile]; simp
    · rw [show touchesFed (choiceMade s) u a.toNat 32768 = false from clear]; simp
  have credit (t : State) : returnCredit t (recvBoundary u) (passageNo ctl) c.tenant =
      modPassage t (recvBoundary u) (passageNo ctl) fun x => { x with used := x.used - 1 } := if_neg (by omega)
  obtain ⟨crun, stopped⟩ := crun_precvWritten (s := s) (u := u) (c := c) (a := a) (ctl := ctl) (data := data)
  rw [exec_precvCompletion cmd slot status sound runs hop, if_neg clear]
  dsimp only
  rw [credit, finishRunning_noPush (c := c) _ _ noPush]
  · rfl
  · split
    · exact crun ▸ cmd
    · exact crun ▸ cmd
  · split
    · exact stopped.trans runs
    · exact stopped.trans runs

theorem precvCompletion_fed (hop : c.op = .precv a ctl) (scratch : ctl.getLsbD 8 = false) (fed : touchesFed s u a.toNat 32768 = true) :
    exec (.precvCompletion u k) s =
      .next (if Config.choice s.fresh % 2 = 1 then choiceMade s else runTrap (choiceMade s) u .c k 0x40 none) := by
  have met : (!ctl.getLsbD 8 && touchesFed (choiceMade s) u a.toNat 32768) = true := by
    rw [scratch, show touchesFed (choiceMade s) u a.toNat 32768 = true from fed]
    rfl
  rw [exec_precvCompletion cmd slot status sound runs hop, if_pos met]
  rfl

end Running

end Passages

/-- Settles O42: the head takes a credit or a full slot, and the completion fills or empties it. -/
theorem passagesMove : Obligations.PassagesMove := by
  unfold Obligations.PassagesMove
  intro s u c rest a ctl k id data no sb rb sat passage popped running later waits starts ends tile
  refine ⟨?_, ?_, ?_, ?_⟩
  · rintro ⟨queue, old, sound, runs⟩ hop x
    exact ⟨psendCredit_closed queue old sound runs hop, psendCredit_full queue old sound runs hop, psendCredit_takes queue old sound runs hop⟩
  · rintro ⟨cmd, hop, slot, status, sound, runs⟩ noPush inner before
    exact ⟨psendCompletion_waits cmd slot status sound runs hop inner,
      fun full free => psendCompletion_fills cmd slot status sound runs hop inner noPush full free⟩
  · rintro ⟨queue, old, sound, runs⟩ hop
    exact ⟨precvSlot_closed queue old sound runs hop, fun n d more opened => precvSlot_takes queue old sound runs hop opened,
      precvSlot_waits queue old sound runs hop⟩
  · rintro ⟨cmd, hop, slot, status, sound, runs⟩ noPush inner written put
    exact ⟨precvCompletion_fed cmd slot status sound runs hop,
      precvCompletion_writes cmd slot status sound runs hop inner noPush⟩

end Sys2Proof.Machine
end

section
/-! PROOFS. Answers to a trap (R355, R405): what answering the records of a bank leaves, where its streams stand after it, and what the release of the
bank does. -/

namespace Sys2Proof.Machine

/-! ### What a change of a bank's streams leaves -/

/-- The commands of a Suite. -/
def Suite.cmds (x : Suite) : List Cmd × List Cmd × List Cmd × List Cmd := (x.mq, x.mrun, x.cqueue, x.crun)

/-- Every bank but for one bank's streams, the commands and the bytes of memory are as they were. -/
structure OnlyStreams (s t : State) (r : BankRef) : Prop where
  bank : ∃ a x, t.bank r = { s.bank r with sa := a, sx := x }
  others : ∀ q, q ≠ r → t.bank q = s.bank q
  cmds : ∀ u, (t.suite u).cmds = (s.suite u).cmds
  mem : t.pkg.mem = s.pkg.mem

/-- Every bank, the commands and the bytes of memory are as they were. -/
structure SameBanks (s t : State) : Prop where
  bank : ∀ q, t.bank q = s.bank q
  cmds : ∀ u, (t.suite u).cmds = (s.suite u).cmds
  mem : t.pkg.mem = s.pkg.mem

theorem SameBanks.refl (s : State) : SameBanks s s := ⟨fun _ => rfl, fun _ => rfl, rfl⟩

theorem SameBanks.trans {s t v : State} (h : SameBanks s t) (g : SameBanks t v) : SameBanks s v :=
  ⟨fun q => (g.bank q).trans (h.bank q), fun u => (g.cmds u).trans (h.cmds u), g.mem.trans h.mem⟩

theorem SameBanks.stream {s t : State} (h : SameBanks s t) (ag : Agent) : t.stream ag = s.stream ag := congrArg (·.stream ag.kind) (h.bank ag.bank)

theorem SameBanks.only {s t : State} (h : SameBanks s t) (r : BankRef) : OnlyStreams s t r :=
  ⟨⟨_, _, h.bank r⟩, fun q _ => h.bank q, h.cmds, h.mem⟩

theorem OnlyStreams.refl (s : State) (r : BankRef) : OnlyStreams s s r := (SameBanks.refl s).only r

theorem OnlyStreams.trans {s t v : State} {r : BankRef} (h : OnlyStreams s t r) (g : OnlyStreams t v r) : OnlyStreams s v r := by
  obtain ⟨_, _, hb⟩ := h.bank
  obtain ⟨a, x, gb⟩ := g.bank
  exact ⟨⟨a, x, by rw [gb, hb]⟩, fun q o => (g.others q o).trans (h.others q o), fun u => (g.cmds u).trans (h.cmds u), g.mem.trans h.mem⟩

theorem Announced.sameBanks {s t : State} (h : Announced s t) : SameBanks s t :=
  ⟨h.bank, fun u => congrArg Suite.cmds (h.suite u), h.mem⟩

theorem sameBanks_modSuite (s : State) (u : SuiteId) {f : Suite → Suite} (banks : ∀ x, (f x).banks = x.banks) (cmds : ∀ x, (f x).cmds = x.cmds) :
    SameBanks s (s.modSuite u f) := by
  refine ⟨State.bank_modSuite s u f (banks _), fun v => ?_, rfl⟩
  rw [State.suite_modSuite]
  split
  next same => rw [cmds, same]
  next => rfl

theorem sameBanks_modTenant (s : State) (t : TenantId) (f : Tenant → Tenant) : SameBanks s (s.modTenant t f) :=
  ⟨fun q => State.bank_modTenant s q t f, fun _ => rfl, rfl⟩

theorem onlyStreams_modStream (s : State) (ag : Agent) (f : Stream → Stream) : OnlyStreams s (s.modStream ag f) ag.bank := by
  refine ⟨?_, fun q other => State.bank_setBank_ne s _ q _ other.symm, fun u => ?_, congrArg Package.mem (State.modBank_pkg ..)⟩
  · rw [State.modStream, State.bank_modBank_same]
    cases ag.kind <;> exact ⟨_, _, rfl⟩
  · exact (congrArg Suite.cmds (suite_modBank s ag.bank _ u) :)

/-! ### The move over an instruction, trace records and debug stops included -/

theorem sameBanks_loopIteration (s : State) (ag : Agent) (lid n : Nat) : SameBanks s (loopIteration s ag lid n) := by
  have stop (t : State) (u : SuiteId) : SameBanks t (debugStop t ag u lid n) := by
    unfold debugStop
    refine SameBanks.trans ?_ (postEvent_announced ..).sameBanks
    have disarmed := sameBanks_modSuite t u (f := fun x => { x with dbgarm := x.dbgarm &&& ~~~1 }) (fun _ => rfl) (fun _ => rfl)
    have asked (z : State) (l : List SuiteId) : SameBanks z (requestStop z l true true) := ⟨fun q => State.bank_modPkg .., fun _ => rfl, rfl⟩
    have recorded (z : State) (v : Option Visit) (x : W16) : SameBanks z (debugRecord z (tenantOf t ag.bank) v x ag 5 lid n) := by
      unfold debugRecord
      split
      · exact sameBanks_modTenant ..
      · exact .refl z
    exact (disarmed.trans (asked _ _)).trans (recorded _ _ _)
  unfold loopIteration
  extract_lets t tr label sel s1
  have recorded : SameBanks s s1 := by
    show SameBanks s (if _ then _ else _)
    split
    · exact sameBanks_modTenant ..
    · exact .refl s
  split
  · exact recorded
  · dsimp only
    split
    · exact recorded.trans (stop _ _)
    · exact recorded

theorem sameBanks_loopIterations (ag : Agent) (l : List (Nat × Nat)) (s : State) :
    SameBanks s (l.foldl (fun s x => loopIteration s ag x.1 x.2) s) := by
  induction l generalizing s with
  | nil => exact .refl s
  | cons x l ih => exact (sameBanks_loopIteration s ag x.1 x.2).trans (ih _)

section
variable {s : State} {ag : Agent}

theorem advance_stream (h : ag.kind = .a ∨ ag.kind = .x) (words : Nat) : ∃ l : Nat × Stream × List (Nat × Nat),
    l = loopEnd (posOf s ag) (sequential s ag words) 6 (s.stream ag) ∧
    SameBanks (s.modStream ag fun _ => { l.2.1 with pos := l.1 }) (advance s ag words) := by
  have other : ¬ (ag.kind = .chanter ∨ ag.kind = .drain) := by
    obtain h | h := h <;> simp [h]
  refine ⟨_, rfl, ?_⟩
  simp only [advance, other, if_false]
  exact sameBanks_loopIterations ..

/-- The loops that end at an instruction touch no count of increments. -/
theorem semNew_advance (h : ag.kind = .a ∨ ag.kind = .x) (words : Nat) : ((advance s ag words).stream ag).semNew = (s.stream ag).semNew := by
  obtain ⟨l, made, moved⟩ := advance_stream (s := s) h words
  rw [moved.stream, State.stream_modStream, made]
  exact Stream.kept_semNew (loopEnd_kept ..)

/-- The chanter keeps its own position, outside every bank. -/
theorem sameBanks_setPos_chanter (h : ag.kind = .chanter) (p : Nat) : SameBanks s (setPos s ag p) := by
  have set := sameBanks_modSuite s ag.suite (f := fun x => { x with chanter := { x.chanter with pos := p } }) (fun _ => rfl) fun _ => rfl
  simpa only [setPos, h] using set

theorem setPos_stream (h : ag.kind = .a ∨ ag.kind = .x) (p : Nat) : setPos s ag p = s.modStream ag fun x => { x with pos := p } := by
  obtain h | h := h <;> simp only [setPos, h]

theorem kind_stream (drain : ag.kind ≠ .drain) (chanter : ag.kind ≠ .chanter) : ag.kind = .a ∨ ag.kind = .x := by
  revert drain chanter
  cases ag.kind <;> simp

theorem onlyStreams_setPos (h : ag.kind ≠ .drain) (p : Nat) : OnlyStreams s (setPos s ag p) ag.bank := by
  by_cases chanter : ag.kind = .chanter
  · exact (sameBanks_setPos_chanter chanter p).only _
  · rw [setPos_stream (kind_stream h chanter)]
    exact onlyStreams_modStream ..

theorem onlyStreams_advance (h : ag.kind ≠ .drain) (words : Nat) : OnlyStreams s (advance s ag words) ag.bank := by
  by_cases chanter : ag.kind = .chanter
  · simp only [advance, chanter, true_or, if_true]
    exact onlyStreams_setPos h _
  · obtain ⟨l, _, moved⟩ := advance_stream (s := s) (kind_stream h chanter) words
    exact (onlyStreams_modStream ..).trans (moved.only _)

end

/-! ### The answer to one record (R355) -/

section
variable {s : State} {r : BankRef} {t : Trap} {ag : Agent}

/-- A record names a stream of its bank, and never a drain row. -/
theorem trapAgent_some (h : trapAgent r t = some ag) : ag.bank = r ∧ ag.kind ≠ .drain := by
  unfold trapAgent at h
  split at h
  · cases h
  · split at h
    · cases h; exact ⟨rfl, nofun⟩
    · split at h
      · cases h; exact ⟨rfl, nofun⟩
      · split at h
        · cases h; exact ⟨rfl, nofun⟩
        · cases h

theorem trapAgent_stream (h : trapAgent r t = some ag) (stream : ag.kind ≠ .chanter) : ag.kind = .a ∨ ag.kind = .x := by
  obtain ⟨_, drain⟩ := trapAgent_some h
  exact kind_stream drain stream

/-- The chanter of a trapped row program may go on. -/
def releaseChanter (s : State) (ag : Agent) : State :=
  if ag.kind = .chanter then s.modSuite ag.suite fun x => { x with chanter := { x.chanter with trapped := false } } else s

theorem sameBanks_releaseChanter (s : State) (ag : Agent) : SameBanks s (releaseChanter s ag) := by
  unfold releaseChanter
  split
  · exact sameBanks_modSuite s _ (fun _ => rfl) fun _ => rfl
  · exact .refl s

theorem answerTrap_some (h : trapAgent r t = some ag) (skip : Bool) : answerTrap s r t skip =
    if skip then advance (releaseChanter s ag) ag (slotsAt (releaseChanter s ag) ag) else setPos (releaseChanter s ag) ag t.ret.toNat := by
  unfold answerTrap
  rw [h]
  rfl

theorem answerTrap_none (h : trapAgent r t = none) (skip : Bool) : answerTrap s r t skip = s := by
  unfold answerTrap
  rw [h]

theorem onlyStreams_answerTrap (s : State) (r : BankRef) (t : Trap) (skip : Bool) : OnlyStreams s (answerTrap s r t skip) r := by
  cases h : trapAgent r t with
  | none => rw [answerTrap_none h]; exact .refl s r
  | some ag =>
    obtain ⟨rfl, drain⟩ := trapAgent_some h
    rw [answerTrap_some h]
    refine ((sameBanks_releaseChanter s ag).only _).trans ?_
    split
    · exact onlyStreams_advance drain _
    · exact onlyStreams_setPos drain _

/-- A stream stands at the return position of its record. -/
theorem pos_answerTrap (h : trapAgent r t = some ag) (stream : ag.kind ≠ .chanter) :
    ((answerTrap s r t false).stream ag).pos = t.ret.toNat := by
  rw [answerTrap_some h, if_neg Bool.false_ne_true, stream_setPos _ _ (trapAgent_stream h stream)]

theorem stream_modStream_other {b : Agent} (bank : b.bank = ag.bank) (kinds : ¬ (b.kind = .x ↔ ag.kind = .x)) (f : Stream → Stream) :
    (s.modStream b f).stream ag = s.stream ag := by
  have kept (x : Bank) (y : Stream) : (x.setStream b.kind y).stream ag.kind = x.stream ag.kind := by
    revert kinds
    cases b.kind <;> cases ag.kind <;> simp [Bank.setStream, Bank.stream]
  rw [State.stream, ← bank, State.modStream, State.bank_modBank_same, kept, bank]
  rfl

/-- The record of another agent moves no stream but its own. -/
theorem stream_answerTrap_other (bank : ag.bank = r) (h : trapAgent r t ≠ some ag) (stream : ag.kind = .a ∨ ag.kind = .x) :
    (answerTrap s r t false).stream ag = s.stream ag := by
  cases named : trapAgent r t with
  | none => rw [answerTrap_none named]
  | some b =>
    obtain ⟨home, drain⟩ := trapAgent_some named
    have differ : b.kind ≠ ag.kind := fun same => h (by
      rw [named]
      obtain ⟨_, _⟩ := b
      obtain ⟨_, _⟩ := ag
      cases home; cases bank; cases same; rfl)
    rw [answerTrap_some named, if_neg Bool.false_ne_true, ← (sameBanks_releaseChanter s b).stream ag]
    by_cases chanter : b.kind = .chanter
    · exact (sameBanks_setPos_chanter chanter _).stream ag
    · have kind := kind_stream drain chanter
      have kinds : ¬ (b.kind = .x ↔ ag.kind = .x) := by
        rcases kind with ka | kx <;> rcases stream with sa | sx <;> simp_all
      rw [setPos_stream kind, stream_modStream_other (home.trans bank.symm) kinds]

end

/-! ### The answers to all records of a bank -/

/-- The bank goes on at the return positions of its records. -/
def returnTraps (s : State) (r : BankRef) (l : List Trap) : State := l.foldl (fun s t => answerTrap s r t false) s

section
variable {r : BankRef} {ag : Agent}

theorem onlyStreams_returnTraps (l : List Trap) (s : State) : OnlyStreams s (returnTraps s r l) r := by
  induction l generalizing s with
  | nil => exact .refl s r
  | cons t l ih => exact (onlyStreams_answerTrap s r t false).trans (ih _)

theorem stream_returnTraps_other (bank : ag.bank = r) (stream : ag.kind = .a ∨ ag.kind = .x) (l : List Trap) (s : State)
    (h : ∀ q, q ∈ l → trapAgent r q ≠ some ag) : (returnTraps s r l).stream ag = s.stream ag := by
  induction l generalizing s with
  | nil => rfl
  | cons t l ih =>
    exact (ih _ fun q mem => h q (.tail _ mem)).trans (stream_answerTrap_other bank (h t (.head _)) stream)

/-- Where all records of a stream return to one position, it stands there. -/
theorem pos_returnTraps (bank : ag.bank = r) (stream : ag.kind = .a ∨ ag.kind = .x) (l : List Trap) (s : State) {p : Nat}
    (all : ∀ q, q ∈ l → trapAgent r q = some ag → q.ret.toNat = p) (one : (s.stream ag).pos = p ∨ ∃ q, q ∈ l ∧ trapAgent r q = some ag) :
    ((returnTraps s r l).stream ag).pos = p := by
  induction l generalizing s with
  | nil => exact one.resolve_right nofun
  | cons t l ih =>
    have later (q) (mem : q ∈ l) := all q (.tail _ mem)
    by_cases named : trapAgent r t = some ag
    · have notChanter : ag.kind ≠ .chanter := by obtain a | x := stream <;> simp [*]
      exact ih _ later (.inl ((pos_answerTrap named notChanter).trans (all t (.head _) named)))
    · refine ih _ later ?_
      rw [stream_answerTrap_other bank named stream]
      exact one.imp_right fun ⟨q, mem, names⟩ => by
        cases mem with
        | head => exact absurd names named
        | tail _ mem => exact ⟨q, mem, names⟩

/-- Only the first record can be skipped. -/
theorem foldl_zipIdx_returns (skip : Bool) (l : List Trap) (n : Nat) (h : skip = false ∨ n ≠ 0) (s : State) :
    (l.zipIdx n).foldl (fun s x => answerTrap s r x.1 (skip && x.2 == 0)) s = returnTraps s r l := by
  induction l generalizing n s with
  | nil => rfl
  | cons t l ih =>
    have back : (skip && n == 0) = false := by
      rcases h with off | past
      · rw [off]; rfl
      · simp [past]
    rw [List.zipIdx_cons, List.foldl_cons, back]
    exact ih (n + 1) (.inr (Nat.succ_ne_zero n)) _

end

/-! ### The release of the bank -/

/-- A bank without records, its replay list back in its queues in program order (R355, R360). -/
def Bank.resumed (x : Bank) : Bank :=
  { x with traps := [], trapsLater := [], trapAt := none, pageWait := false, switched := false, replay := [],
           lq := sortSeq (x.replay.filter (fun e => !isStoreEntry e) ++ x.lq), sq := sortSeq (x.replay.filter isStoreEntry ++ x.sq) }

/-- The commands of one bank of a list, each with one level of trap less. -/
def lowerTraps (b : Fin 2) (l : List Cmd) : List Cmd := l.map fun x => if x.bank = b then { x with trapLevel := x.trapLevel - 1 } else x

/-- A Suite whose commands of one bank have one level of trap less. -/
def Suite.lowered (b : Fin 2) (x : Suite) : Suite :=
  { x with mq := lowerTraps b x.mq, mrun := lowerTraps b x.mrun, cqueue := lowerTraps b x.cqueue, crun := lowerTraps b x.crun }

theorem suite_releaseCommands (s : State) (u : SuiteId) (b : Fin 2) : (releaseCommands s u b).suite u = (s.suite u).lowered b :=
  (State.suite_modSuite s u u (Suite.lowered b)).trans (if_pos rfl)

/-- The commands of a Suite's bank may go on. -/
def releaseOf (s : State) (r : BankRef) : State := match r with | .bank u b => releaseCommands s u b | .ctx _ => s

/-- The records of a bank answered, the first one as executed where it is skipped. -/
def answered (s : State) (r : BankRef) (skip : Bool) : State :=
  match (s.bank r).traps with
  | [] => s
  | p :: rest => if skip then returnTraps (answerTrap (skipDone s r p) r p true) r rest else returnTraps s r (p :: rest)

theorem resumeBank_eq {s : State} {r : BankRef} (none : (s.bank r).trapsLater = []) (skip : Bool) :
    resumeBank s r skip = releaseOf ((answered s r skip).modBank r Bank.resumed) r := by
  unfold resumeBank answered
  dsimp only
  rw [none]
  cases (s.bank r).traps with
  | nil => rfl
  | cons p rest =>
    dsimp only
    rw [List.zipIdx_cons, List.foldl_cons]
    cases skip with
    | true =>
      rw [foldl_zipIdx_returns true rest (0 + 1) (.inr (Nat.succ_ne_zero 0))]
      rfl
    | false =>
      rw [foldl_zipIdx_returns false rest (0 + 1) (.inl rfl)]
      rfl

section
variable {s z : State} {r : BankRef}

theorem bank_releaseOf (s : State) (r q : BankRef) : (releaseOf s r).bank q = s.bank q := by
  cases r with
  | ctx c => rfl
  | bank u b => exact State.bank_modSuite s u (Suite.lowered b) rfl q

theorem stream_resumed (x : Bank) (k : StreamKind) : x.resumed.stream k = x.stream k := by cases k <;> rfl

/-- What the release gives, on a state in which only the bank's streams have moved. -/
theorem resumed_back (h : OnlyStreams s z r) : let k := s.bank r; let t := releaseOf (z.modBank r Bank.resumed) r
    (t.bank r).traps = [] ∧ (t.bank r).replay = [] ∧ (t.bank r).switched = false ∧ (t.bank r).pageWait = false ∧
    (t.bank r).lq = sortSeq ((k.replay.filter fun e => !isStoreEntry e) ++ k.lq) ∧ (t.bank r).sq = sortSeq (k.replay.filter isStoreEntry ++ k.sq) ∧
    ∀ u b, r = .bank u b → (t.suite u).mq = lowerTraps b (s.suite u).mq ∧ (t.suite u).mrun = lowerTraps b (s.suite u).mrun ∧
      (t.suite u).cqueue = lowerTraps b (s.suite u).cqueue ∧ (t.suite u).crun = lowerTraps b (s.suite u).crun := by
  intro k t
  obtain ⟨a, x, moved⟩ := h.bank
  have bank : t.bank r = ({ s.bank r with sa := a, sx := x } : Bank).resumed := by
    rw [bank_releaseOf, State.bank_modBank_same, moved]
  refine ⟨by rw [bank]; rfl, by rw [bank]; rfl, by rw [bank]; rfl, by rw [bank]; rfl, by rw [bank]; rfl, by rw [bank]; rfl, ?_⟩
  rintro u b rfl
  have kept : ((z.modBank (.bank u b) Bank.resumed).suite u).cmds = (s.suite u).cmds :=
    (congrArg Suite.cmds (suite_modBank z (.bank u b) Bank.resumed u) :).trans (h.cmds u)
  obtain ⟨mq, mrun, cqueue, crun⟩ : _ ∧ _ ∧ _ ∧ _ := by
    simpa only [Suite.cmds, Prod.mk.injEq] using kept
  have suite : t.suite u = ((z.modBank (.bank u b) Bank.resumed).suite u).lowered b := suite_releaseCommands ..
  rw [suite]
  exact ⟨congrArg (lowerTraps b) mq, congrArg (lowerTraps b) mrun, congrArg (lowerTraps b) cqueue, congrArg (lowerTraps b) crun⟩

/-- The release moves no stream. -/
theorem stream_released (ag : Agent) (bank : ag.bank = r) : (releaseOf (z.modBank r Bank.resumed) r).stream ag = z.stream ag := by
  rw [State.stream, bank_releaseOf, bank, State.bank_modBank_same, stream_resumed, State.stream, bank]

theorem released_frame (h : OnlyStreams s z r) : let t := releaseOf (z.modBank r Bank.resumed) r
    (∀ q, q ≠ r → t.bank q = s.bank q) ∧ t.pkg.mem = s.pkg.mem ∧ (t.bank r).a = (s.bank r).a ∧ (t.bank r).e = (s.bank r).e := by
  intro t
  obtain ⟨a, x, moved⟩ := h.bank
  have pkg : t.pkg = z.pkg := by
    have released : t.pkg = (z.modBank r Bank.resumed).pkg := by cases r <;> rfl
    rw [released, State.modBank_pkg]
  refine ⟨fun q other => ?_, by rw [pkg, h.mem], ?_, ?_⟩
  · rw [bank_releaseOf, State.modBank, State.bank_setBank_ne z r q _ other.symm, h.others q other]
  · rw [bank_releaseOf, State.bank_modBank_same, moved]
    rfl
  · rw [bank_releaseOf, State.bank_modBank_same, moved]
    rfl

end

/-! ### RESUME and SKIP -/

section
variable {s : State} {r : BankRef}

theorem onlyStreams_doneFor (s : State) (r : BankRef) (k : StreamKind) (dn : BitVec 4) : OnlyStreams s (doneFor s r k dn) r := by
  unfold doneFor
  split
  · exact onlyStreams_modStream s ⟨r, k⟩ fun x => semLater x (dn.setWidth 3)
  · exact .refl s r

theorem onlyStreams_skipDone (s : State) (r : BankRef) (t : Trap) : OnlyStreams s (skipDone s r t) r := by
  unfold skipDone
  split
  · split
    · split
      · exact onlyStreams_doneFor ..
      · exact .refl s r
    · exact .refl s r
  · exact .refl s r

theorem onlyStreams_answered (s : State) (r : BankRef) (skip : Bool) : OnlyStreams s (answered s r skip) r := by
  unfold answered
  split
  · exact .refl s r
  · split
    · exact ((onlyStreams_skipDone ..).trans (onlyStreams_answerTrap ..)).trans (onlyStreams_returnTraps ..)
    · exact onlyStreams_returnTraps ..

theorem answered_returns (s : State) (r : BankRef) : answered s r false = returnTraps s r (s.bank r).traps := by
  unfold answered
  split
  next none => rw [none]; rfl
  next found => rw [found]; rfl

theorem answered_skips {p : Trap} {rest : List Trap} (found : (s.bank r).traps = p :: rest) :
    answered s r true = returnTraps (answerTrap (skipDone s r p) r p true) r rest := by
  unfold answered
  rw [found]
  rfl

section
variable {p : Trap} {rest : List Trap} {ag : Agent} (found : (s.bank r).traps = p :: rest) (named : trapAgent r p = some ag)
  (notChanter : ag.kind ≠ .chanter) (alone : ∀ q, q ∈ rest → trapAgent r q ≠ some ag)
include found named notChanter alone

/-- The skipped stream is moved over its instruction, and the other records do not move it. -/
theorem stream_skipped : (answered s r true).stream ag =
    (advance (skipDone s r p) ag (slotsAt (skipDone s r p) ag)).stream ag := by
  obtain ⟨bank, _⟩ := trapAgent_some named
  have stream := trapAgent_stream named notChanter
  have kept (z : State) : releaseChanter z ag = z := if_neg notChanter
  rw [answered_skips found, stream_returnTraps_other bank stream rest _ alone, answerTrap_some named, if_pos rfl, kept]

/-- A skipped AMEM counts as completed, and nothing else does (R405). -/
theorem semNew_skipped {t : State} (same : t.stream ag = (answered s r true).stream ag) {m : Map} {w x : W32} (fetched : fetch s ag = .word m w x) :
    (∀ d s1 s2 dn sub wf, decode m w x = .ok (.amem d s1 s2 dn sub wf) → doneIn s t r ag.kind dn) ∧
    ((∀ d s1 s2 dn sub wf, decode m w x ≠ .ok (.amem d s1 s2 dn sub wf)) → (t.stream ag).semNew = (s.stream ag).semNew) := by
  obtain ⟨bank, _⟩ := trapAgent_some named
  have after : (t.stream ag).semNew = ((skipDone s r p).stream ag).semNew := by
    rw [same, stream_skipped found named notChanter alone, semNew_advance (trapAgent_stream named notChanter)]
  constructor
  · intro d s1 s2 dn sub wf isAmem n
    have done : skipDone s r p = doneFor s r ag.kind dn := by simp only [skipDone, named, fetched, isAmem]
    rw [State.stream, State.stream, bank] at after
    rw [after, done]
    exact doneFor_done s r ag.kind dn n
  · intro other
    have kept : skipDone s r p = s := by
      simp only [skipDone, named, fetched]
    rw [after, kept]

end

end

/-- A write of an address register of a bank changes that register alone. -/
theorem writeA_frame (s : State) (r : BankRef) (n : BitVec 5) (v : Word) : let t := writeA s ⟨r, .a⟩ n v
    (t.bank r).e = (s.bank r).e ∧ (t.bank r).traps = (s.bank r).traps ∧ (∀ q, q ≠ r → t.bank q = s.bank q) ∧ t.pkg = s.pkg ∧ t.rooms = s.rooms := by
  intro t
  by_cases zero : n = 0
  · have same : t = s := by
      show writeA s ⟨r, .a⟩ n v = s
      rw [zero]
      exact writeA_zero (ag := ⟨r, .a⟩) nofun v
    rw [same]
    exact ⟨rfl, rfl, fun _ _ => rfl, rfl, rfl⟩
  · have set : t = s.modBank r fun b => { b with a := b.a.set n.toNat v n.isLt } := if_neg zero
    rw [set, State.bank_modBank_same]
    exact ⟨rfl, rfl, fun q other => State.bank_setBank_ne s r q _ other.symm, State.modBank_pkg .., State.modBank_rooms ..⟩

/-- Settles O48: the bank's records are answered one by one, which moves its streams alone, and then it is released. -/
theorem trapsAnswered : Obligations.TrapsAnswered := by
  unfold Obligations.TrapsAnswered
  refine ⟨fun s c => ?_, fun s c v => ?_⟩
  · intro r k later back
    refine ⟨⟨_, rfl, ?_⟩, ⟨_, rfl, ?_⟩⟩
    · rw [resumeBank_eq later]
      have only := onlyStreams_answered s r false
      obtain ⟨others, mem, a, e⟩ := released_frame only
      refine ⟨resumed_back only, fun p ag mem named notChanter all => ?_, others, mem, a, e⟩
      obtain ⟨bank, _⟩ := trapAgent_some named
      rw [stream_released ag bank, answered_returns]
      exact pos_returnTraps bank (trapAgent_stream named notChanter) _ s (fun q found names => congrArg BitVec.toNat (all q found names))
        (.inr ⟨p, mem, named⟩)
    · rw [resumeBank_eq later]
      refine ⟨resumed_back (onlyStreams_answered s r true), fun p rest ag found named notChanter alone => ?_⟩
      obtain ⟨bank, _⟩ := trapAgent_some named
      have stream := stream_released (z := answered s r true) ag bank
      refine ⟨?_, fun m w x fetched => semNew_skipped found named notChanter alone stream fetched⟩
      rw [stream, stream_skipped found named notChanter alone, posOf_stream _ (trapAgent_stream named notChanter)]
  · intro r n
    have read (k : BitVec 5) := readA_writeA s ⟨r, .a⟩ n k v nofun
    refine ⟨_, rfl, ?_, fun k other => ?_, writeA_frame s r n v⟩
    · refine (read n).trans ?_
      by_cases zero : n = 0
      · rw [zero]
        rfl
      · rw [if_pos ⟨rfl, .inr zero⟩, if_neg zero]
    · exact (read k).trans (if_neg fun both => other both.1)

end Sys2Proof.Machine
end

section
/-! PROOFS. Event rings and counters (R327, R346, R347). -/

namespace Sys2Proof.Machine

/-! ### Which event is written next -/

/-- A ring takes a record: it has an address and room, and does not stall but for a retry. -/
def Ctx.ringTakes (y : Ctx) : Prop := y.evqbase ≠ 0 ∧ y.evqtail - y.evqhead ≠ 256 ∧ (y.evqStalled = false ∨ y.evqRetry = true)

theorem ringNext_takes {y : Ctx} (h : y.ringTakes) : ringNext y = y.events.head?.map (·.seq) := by
  obtain ⟨base, room, free⟩ := h
  refine if_neg ?_
  rintro (none | full | ⟨stalled, again⟩)
  · exact base none
  · exact room (beq_iff_eq.mp full)
  · rcases free with off | retry
    · rw [off] at stalled; cases stalled
    · rw [retry] at again; cases again

theorem ringNext_rests {y : Ctx} (h : ¬ y.ringTakes) : ringNext y = none := by
  refine if_pos ?_
  by_contra kept
  obtain ⟨base, kept⟩ := not_or.mp kept
  obtain ⟨full, stall⟩ := not_or.mp kept
  refine h ⟨base, fun is => full (beq_iff_eq.mpr is), ?_⟩
  revert stall
  cases y.evqStalled <;> cases y.evqRetry <;> simp

theorem ringNext_some {y : Ctx} {n : Nat} : ringNext y = some n ↔ y.ringTakes ∧ ∃ f l, y.events = f :: l ∧ f.seq = n := by
  by_cases h : y.ringTakes
  · rw [ringNext_takes h]
    cases y.events <;> simp [h]
  · rw [ringNext_rests h]
    simp [h]

section
variable {s : State} {c : CtxId} {e : Event} {rest : List Event}

theorem ringTurn_iff (held : (s.ctx c).events = e :: rest) (takes : (s.ctx c).ringTakes) :
    ringTurn s c = true ↔ ∀ d f l, (s.ctx d).ringTakes → (s.ctx d).events = f :: l → e.seq ≤ f.seq := by
  have own : ringNext (s.ctx c) = some e.seq := ringNext_some.mpr ⟨takes, e, rest, held, rfl⟩
  unfold ringTurn
  rw [own]
  simp only [List.all_eq_true, List.mem_finRange, forall_const]
  refine forall_congr' fun d => ?_
  constructor
  · intro before f l open_ events
    rw [ringNext_some.mpr ⟨open_, f, l, events, rfl⟩] at before
    exact of_decide_eq_true before
  · intro before
    cases next : ringNext (s.ctx d) with
    | none => rfl
    | some m =>
      obtain ⟨open_, f, l, events, rfl⟩ := ringNext_some.mp next
      exact decide_eq_true (before f l open_ events)

theorem ringTurn_none (h : (s.ctx c).events = [] ∨ ¬ (s.ctx c).ringTakes) : ringTurn s c = false := by
  have none : ringNext (s.ctx c) = none := by
    by_cases takes : (s.ctx c).ringTakes
    · rw [ringNext_takes takes, h.resolve_right (not_not.mpr takes)]
      rfl
    · exact ringNext_rests takes
  unfold ringTurn
  rw [none]

/-! ### The write of an event -/

/-- The record and the index word of the next event of a ring (R327). -/
def writeRingRecord (s : State) (c : CtxId) (e : Event) : Mres Unit × State :=
  storeVa s (ctxTenant s c) ((s.ctx c).evqbase.toNat + 32 * ((s.ctx c).evqtail.toNat % 256)) (eventBytes e) 0xffff
def writeRingIndex (s : State) (c : CtxId) (z : State) : Mres Unit × State :=
  storeVa z (ctxTenant s c) ((s.ctx c).evqbase.toNat + 8192) (leBytes 8 ((s.ctx c).evqtail + 1).toNat) 0xffff

def stallRing (z : State) (c : CtxId) : State := z.modCtx c fun y => { y with evqStalled := true, evqRetry := false }
def retryRing (z : State) (c : CtxId) : State := z.modCtx c fun y => { y with evqRetry := true }

theorem pushEvent_writes (held : (s.ctx c).events = e :: rest) (takes : (s.ctx c).ringTakes) : pushEvent s c =
    match writeRingRecord s c e with
    | (.wait, s1) => retryRing s1 c
    | (.fault _, s1) => stallRing s1 c
    | (.ok (), s1) =>
      match writeRingIndex s c s1 with
      | (.wait, s2) => retryRing s2 c
      | (.fault _, s2) => stallRing s2 c
      | (.ok (), s2) => s2.modCtx c fun y =>
          { y with events := rest, evqtail := (s.ctx c).evqtail + 1, evqStalled := false, evqRetry := false } := by
  obtain ⟨base, room, _⟩ := takes
  have go : ¬ ((s.ctx c).evqbase = 0 ∨ ringFull (s.ctx c) = true) := by
    rintro (none | full)
    · exact base none
    · exact room (beq_iff_eq.mp full)
  unfold pushEvent
  dsimp only
  rw [held]
  exact if_neg go

theorem ringWrite_first (held : (s.ctx c).events = e :: rest) (takes : (s.ctx c).ringTakes)
    (first : ∀ d f l, (s.ctx d).ringTakes → (s.ctx d).events = f :: l → e.seq ≤ f.seq) (s1 s2 : State) :
    (writeRingRecord s c e = (.ok (), s1) → writeRingIndex s c s1 = (.ok (), s2) → exec (.eventRingWrite c) s = .next (s2.modCtx c fun y =>
      { y with events := rest, evqtail := (s.ctx c).evqtail + 1, evqStalled := false, evqRetry := false })) ∧
    (∀ f, writeRingRecord s c e = (.fault f, s1) → exec (.eventRingWrite c) s = .next (stallRing s1 c)) ∧
    (∀ f, writeRingRecord s c e = (.ok (), s1) → writeRingIndex s c s1 = (.fault f, s2) → exec (.eventRingWrite c) s = .next (stallRing s2 c)) ∧
    (writeRingRecord s c e = (.wait, s1) → exec (.eventRingWrite c) s = .next (retryRing s1 c)) ∧
    (writeRingRecord s c e = (.ok (), s1) → writeRingIndex s c s1 = (.wait, s2) → exec (.eventRingWrite c) s = .next (retryRing s2 c)) := by
  have push : exec (.eventRingWrite c) s = .next (pushEvent s c) :=
    congrArg Host.Outcome.next (if_pos ((ringTurn_iff held takes).mpr first))
  rw [push, pushEvent_writes held takes]
  refine ⟨fun record index => ?_, fun f record => ?_, fun f record index => ?_, fun record => ?_, fun record index => ?_⟩
  · rw [record]; dsimp only; rw [index]
  · rw [record]
  · rw [record]; dsimp only; rw [index]
  · rw [record]
  · rw [record]; dsimp only; rw [index]

theorem ringWrite_rests (rests : ringTurn s c = false) : exec (.eventRingWrite c) s = .next s :=
  congrArg Host.Outcome.next (if_neg (by simp [rests]))

end

/-! ### Counters -/

section
variable (s : State) (b : BankRef) (code n : Nat)

/-- Whether the clock of a counter's unit runs (R346). -/
def countersRun (s : State) : BankRef → Prop
  | .bank u _ => (s.suite u).stopped = false
  | .ctx c => (s.ctx c).running = true

theorem countEvents_runs (h : code ≠ 0) (some : 0 < n) (runs : countersRun s b) :
    countEvents s b code n = setCounters s b (countIn (countersOf s b) code n) := by
  unfold countEvents
  rw [if_neg (by omega)]
  cases b with
  | bank u k => exact if_neg (by simp [show (s.suite u).stopped = false from runs])
  | ctx c => exact if_pos runs

theorem countEvents_stands (stands : ¬ countersRun s b) : countEvents s b code n = s := by
  unfold countEvents
  split
  · rfl
  · cases b with
    | bank u k => exact if_pos (Bool.not_eq_false _ ▸ stands)
    | ctx c => exact if_neg stands

theorem countersOf_setCounters (x : Counters) : countersOf (setCounters s b x) b = x := by
  cases b with
  | bank u k => simp [countersOf, setCounters]
  | ctx c => simp [countersOf, setCounters]

/-- The counters' fields that an event of the cycle leaves. -/
def Counters.shown (x : Counters) : Vector (BitVec 48) 8 × Byte := (x.cnt, x.ovf)

theorem shown_countEvents (q : BankRef) : (countersOf (countEvents s q code n) b).shown = (countersOf s b).shown := by
  unfold countEvents
  split
  · rfl
  · split
    · rename_i u _
      split
      · rfl
      · cases b with
        | ctx c => rfl
        | bank v k =>
          simp only [countersOf, State.suite_modSuite]
          split
          next same => rw [same]; rfl
          next => rfl
    · rename_i c
      split
      · cases b with
        | bank v k => rfl
        | ctx d =>
          simp only [countersOf, State.ctx_modCtx]
          split
          next same => rw [same]; rfl
          next => rfl
      · rfl

theorem shown_postEvent (target : CtxId) (kind tenant source : Nat) (payload : BitVec 128) :
    (countersOf (postEvent s target kind tenant source payload) b).shown = (countersOf s b).shown := by
  have queued (e : Event) : (countersOf ((s.modPkg fun p => { p with eventSeq := p.eventSeq + 1 }).modCtx target fun c =>
      { c with events := c.events ++ [e] }) b).shown = (countersOf s b).shown := by
    cases b with
    | bank u k => rfl
    | ctx d =>
      simp only [countersOf, State.ctx_modCtx]
      split
      next same => rw [← same]; rfl
      next => rfl
  unfold postEvent
  dsimp only
  split
  · exact (shown_countEvents _ b 0x10 _ (.ctx hypervisor)).trans (queued _)
  · exact queued _

/-- A unit's counters with the sticky bit of one set. -/
def overflowed (s : State) (b : BankRef) (i : Fin 8) : Counters := { countersOf s b with ovf := (countersOf s b).ovf ||| (1 <<< i.val) }

theorem exec_counterOverflow (i : Fin 8) : exec (.counterOverflow b i) s = .next (postEvent (setCounters s b (overflowed s b i)) (counterTarget s b).1
    evCounter (counterTarget s b).2 b.source (BitVec.ofNat 128 i.val)) := rfl

theorem events_setCounters (y : Counters) (x : CtxId) : ((setCounters s b y).ctx x).events = (s.ctx x).events ∧
    ((setCounters s b y).ctx x).hostfwd = (s.ctx x).hostfwd := by
  cases b with
  | bank u k => exact ⟨rfl, rfl⟩
  | ctx c =>
    simp only [setCounters, State.ctx_modCtx]
    split
    next same => rw [← same]; exact ⟨rfl, rfl⟩
    next => exact ⟨rfl, rfl⟩

theorem counterOverflow_outcome (i : Fin 8) : let x := (counterTarget s b).1; let t := (counterTarget s b).2
    answers (.counterOverflow b i) s (fun z => (countersOf z b).ovf = (countersOf s b).ovf ||| (1 <<< i.val) ∧
      (countersOf z b).cnt = (countersOf s b).cnt ∧
      (z.ctx x).events = (s.ctx x).events ++ [⟨s.pkg.eventSeq, 3, t, b.source, BitVec.ofNat 128 i.val, (s.ctx x).hostfwd⟩]) := by
  intro x t
  have shown := shown_postEvent (setCounters s b (overflowed s b i)) b x evCounter t b.source (BitVec.ofNat 128 i.val)
  rw [countersOf_setCounters] at shown
  obtain ⟨cnt, ovf⟩ := Prod.mk.inj shown
  refine ⟨_, exec_counterOverflow s b i, ovf, cnt, ?_⟩
  obtain ⟨events, hostfwd⟩ := events_setCounters s b (overflowed s b i) x
  have pkg : (setCounters s b (overflowed s b i)).pkg = s.pkg := by cases b <;> rfl
  rw [events_postEvent, eventFor, events, hostfwd, pkg]
  rfl

end

theorem countClose_outcome (x : Counters) (i : Fin 8) : (countClose x).1.cnt.get i = x.cnt.get i + BitVec.ofNat 48 (x.inc.get i) ∧
    (countClose x).1.inc.get i = 0 ∧ (countClose x).1.set.get i = false ∧ (i ∈ (countClose x).2 ↔ 2 ^ 48 ≤ (x.cnt.get i).toNat + x.inc.get i) := by
  refine ⟨vget_ofFn _ i, vget_replicate _ i, vget_replicate _ i, ?_⟩
  simp only [countClose, List.mem_filter, List.mem_finRange, true_and, decide_eq_true_eq]

theorem countEvents_outcome (s : State) (b : BankRef) {code n : Nat} (h : code ≠ 0) (some : 0 < n) :
    let old := countersOf s b
    let z := countEvents s b code n
    (countersRun s b → ∀ i, (countersOf z b).inc.get i = old.inc.get i + if (old.sel.get i).toNat = code ∧ old.set.get i = false then n else 0) ∧
    (¬ countersRun s b → z = s) ∧ z.pkg = s.pkg ∧ z.tenants = s.tenants ∧ z.turns = s.turns ∧ (countersOf z b).cnt = old.cnt := by
  intro old z
  have cnt : (countersOf z b).cnt = old.cnt := (congrArg Prod.fst (shown_countEvents s b code n b) :)
  have frame : z.pkg = s.pkg ∧ z.tenants = s.tenants ∧ z.turns = s.turns := by
    by_cases runs : countersRun s b
    · have set : z = _ := countEvents_runs s b code n h some runs
      rw [set]
      cases b <;> exact ⟨rfl, rfl, rfl⟩
    · have same : z = s := countEvents_stands s b code n runs
      rw [same]
      exact ⟨rfl, rfl, rfl⟩
  obtain ⟨pkg, tenants, turns⟩ := frame
  refine ⟨fun runs i => ?_, countEvents_stands s b code n, pkg, tenants, turns, cnt⟩
  have set : z = _ := countEvents_runs s b code n h some runs
  rw [set, countersOf_setCounters]
  exact vget_ofFn _ i

/-- Settles O51: the arbiter's turn is the first of the rings that take records, and a counter advances at the end of its cycle. -/
theorem eventRings : Obligations.EventRings := by
  unfold Obligations.EventRings
  refine ⟨fun s c e rest => ?_, fun s c v => ?_, fun s b n => ?_, fun s b code n h some => ?_, countClose_outcome, fun s b i mem => ?_⟩
  · intro x t push record index takes first stall retry
    refine ⟨fun none => ringWrite_rests (ringTurn_none none), fun held open_ => ⟨fun later => ?_, ringWrite_first held open_⟩⟩
    exact ringWrite_rests (Bool.eq_false_iff.mpr (mt (ringTurn_iff held open_).mp later))
  · intro head base
    have stalled (z : State) (same : (z.ctx c).evqStalled = (s.ctx c).evqStalled) :
        ((s.ctx c).evqStalled = false → retryEvent z c = z) ∧ ((s.ctx c).evqStalled = true → retryEvent z c = pushEvent z c) :=
      ⟨fun free => if_neg (by simp [same, free]), fun stall => if_pos (same.trans stall)⟩
    have atHead := stalled head (by simp [head])
    have atBase := stalled base (by simp [base])
    exact ⟨fun free => ⟨congrArg Host.Outcome.next (atHead.1 free), congrArg Host.Outcome.next (atBase.1 free)⟩,
      fun stall => ⟨congrArg Host.Outcome.next (atHead.2 stall), congrArg Host.Outcome.next (atBase.2 stall)⟩⟩
  · refine ⟨counterOverflow_outcome s b n, ?_, ?_⟩
    · rintro u k o rfl owner
      simp only [counterTarget, owner, and_self]
    · rintro c rfl other
      simp only [counterTarget, other, if_false, and_self]
  · have outcome := countEvents_outcome s b h some
    cases b <;> exact outcome
  · exact List.mem_map_of_mem mem

end Sys2Proof.Machine
end

section
/-! PROOFS. The order log (R337-R341): how a choice point ends in each mode, OLOGW, OLOGLIM and the age of the entry at OLOGPOS. -/

namespace Sys2Proof.Machine

section
variable {s : State} {t : TenantId}

/-! ### Room, and the entry that is next -/

theorem ologRoom_iff : ologRoom s t = true ↔ (s.tenant t).olog.pos < (s.tenant t).olog.lim := by
  rw [ologRoom, decide_eq_true_eq, BitVec.lt_def]

theorem ologRoom_full : ologRoom s t = false ↔ (s.tenant t).olog.lim ≤ (s.tenant t).olog.pos := by
  rw [ologRoom, decide_eq_false_iff_not, BitVec.le_def, Nat.not_lt]

theorem ologNext_none (h : (s.tenant t).olog.lim ≤ (s.tenant t).olog.pos ∨ 2 ^ 24 ≤ (s.tenant t).olog.age) : ologNext s t = none := by
  refine if_pos ?_
  rcases h with full | dead
  · simp [ologRoom_full.mpr full]
  · simp only [ologDead, dead, decide_true, Bool.or_true, Bool.true_or]

theorem ologRoom_of_next {e : Nat × Nat × Nat} (h : ologNext s t = some e) : ologRoom s t = true := by
  cases room : ologRoom s t with
  | true => rfl
  | false =>
    rw [ologNext_none (.inl (ologRoom_full.mp room))] at h
    cases h

/-! ### A choice point in each mode -/

section
variable {kind source value : Nat} {fits : Nat → Bool}

theorem ologTake_off (off : ologMode s t = 0) : ologTake s t kind source value fits = (some value, s) := by
  simp only [ologTake, off]

theorem ologTake_record_full (mode : ologMode s t = 1) (full : ologRoom s t = false) :
    ologTake s t kind source value fits = (none, logFull s t source) := by
  simp only [ologTake, mode, full, Bool.not_false, if_true]

theorem ologTake_recorded (mode : ologMode s t = 1) (room : ologRoom s t = true) {s1 : State}
    (stored : storeVaBy s (.olog t) t t (ologVa s t (s.tenant t).olog.pos.toNat) (ologBytes t kind source value) 0xffff = (.ok (), s1)) :
    ologTake s t kind source value fits = (some value, ologAdvance s1 t source) := by
  simp only [ologTake, mode, room, ologRecord, stored, Bool.not_true, Bool.false_eq_true, if_false]

theorem ologTake_unrecorded (mode : ologMode s t = 1) (room : ologRoom s t = true) {r : Mres Unit} {s1 : State} (fails : r ≠ .ok ())
    (stored : storeVaBy s (.olog t) t t (ologVa s t (s.tenant t).olog.pos.toNat) (ologBytes t kind source value) 0xffff = (r, s1)) :
    ologTake s t kind source value fits = (none, s1) := by
  cases r with
  | ok => exact absurd rfl fails
  | fault => simp only [ologTake, mode, room, ologRecord, stored, Bool.not_true, Bool.false_eq_true, if_false]
  | wait => simp only [ologTake, mode, room, ologRecord, stored, Bool.not_true, Bool.false_eq_true, if_false]

theorem ologTake_replay_full (mode : ologMode s t = 2) (full : ologRoom (ologSkip t 64 s) t = false) :
    ologTake s t kind source value fits = (none, logFull (ologSkip t 64 s) t source) := by
  simp only [ologTake, mode, full, Bool.not_false, if_true]

theorem ologTake_replay_own (mode : ologMode s t = 2) {v : Nat} (next : ologNext (ologSkip t 64 s) t = some (kind, source, v)) (fit : fits v = true) :
    ologTake s t kind source value fits = (some v, ologAdvance (ologSkip t 64 s) t source) := by
  simp only [ologTake, mode, ologRoom_of_next next, next, fit, Bool.not_true, Bool.false_eq_true, if_false, and_self, if_true]

theorem ologTake_replay_other (mode : ologMode s t = 2) (room : ologRoom (ologSkip t 64 s) t = true)
    (other : ∀ v, fits v = true → ologNext (ologSkip t 64 s) t ≠ some (kind, source, v)) :
    ologTake s t kind source value fits = (none, ologSkip t 64 s) := by
  simp only [ologTake, mode, room, Bool.not_true, Bool.false_eq_true, if_false]
  split
  next k src v next =>
    refine if_neg ?_
    rintro ⟨rfl, rfl, fit⟩
    exact other v fit next
  next => rfl

end

/-! ### What skipping, advancing and LOGFULL change -/

/-- Skipping moves OLOGPOS of its tenant alone. -/
theorem ologSkip_keeps (t : TenantId) (n : Nat) (s : State) : ∃ l, ologSkip t n s = { s with tenants := l } ∧
    (l.get t).olog.r = (s.tenant t).olog.r ∧ (l.get t).olog.lim = (s.tenant t).olog.lim := by
  induction n generalizing s with
  | zero => exact ⟨s.tenants, rfl, rfl, rfl⟩
  | succ n ih =>
    unfold ologSkip
    split
    · obtain ⟨l, skipped, r, lim⟩ := ih (s.modTenant t fun x => { x with olog := { x.olog with pos := x.olog.pos + 1, age := 0 } })
      refine ⟨l, skipped, r.trans ?_, lim.trans ?_⟩
      · rw [State.tenant_modTenant, if_pos rfl]
      · rw [State.tenant_modTenant, if_pos rfl]
    · exact ⟨s.tenants, rfl, rfl, rfl⟩

theorem ologAdvance_outcome (s : State) (t : TenantId) (src : Nat) :
    let o := (s.tenant t).olog
    let z := ologAdvance s t src
    (z.tenant t).olog = { o with pos := o.pos + 1, age := 0, full := false } ∧ (∀ x, x ≠ t → z.tenant x = s.tenant x) ∧
    (∀ u : SuiteId, (z.suite u).ologsp = if u.val = src then o.pos + 1 else (s.suite u).ologsp) ∧ z.pkg = s.pkg ∧ z.rooms = s.rooms := by
  intro o z
  by_cases suite : src < 64
  · have made : z = _ := dif_pos suite
    rw [made]
    refine ⟨?_, fun x other => ?_, fun u => ?_, rfl, rfl⟩
    · rw [State.tenant_modSuite, State.tenant_modTenant, if_pos rfl]
    · rw [State.tenant_modSuite, State.tenant_modTenant, if_neg other.symm]
    · rw [State.suite_modSuite]
      by_cases same : u.val = src
      · have : (⟨src, suite⟩ : SuiteId) = u := Fin.ext same.symm
        rw [if_pos this, if_pos same]
      · have : (⟨src, suite⟩ : SuiteId) ≠ u := fun e => same (congrArg Fin.val e).symm
        rw [if_neg this, if_neg same]
        rfl
  · have made : z = _ := dif_neg suite
    rw [made]
    refine ⟨?_, fun x other => ?_, fun u => ?_, rfl, rfl⟩
    · rw [State.tenant_modTenant, if_pos rfl]
    · rw [State.tenant_modTenant, if_neg other.symm]
    · rw [if_neg (by omega)]
      rfl

theorem logFull_again (raised : (s.tenant t).olog.full = true) (src : Nat) : logFull s t src = s :=
  if_neg (by simp [raised])

/-- LOGFULL goes to the tenant's supervisor (R338). -/
theorem logFull_first (full : ologRoom s t = false) (first : (s.tenant t).olog.full = false) (src : Nat) : let y := logFull s t src
    (y.tenant t).olog.full = true ∧ (y.tenant t).olog.pos = (s.tenant t).olog.pos ∧ (∀ r, y.bank r = s.bank r) ∧
    (y.ctx (supervisor t)).events = (s.ctx (supervisor t)).events ++
      [⟨s.pkg.eventSeq, 2, t.val, src, trapBits ⟨0x92, 3, 0, 0, 0, (s.tenant t).olog.pos.setWidth 64⟩, (s.ctx (supervisor t)).hostfwd⟩] := by
  intro y
  have made : y = externalTrap (s.modTenant t fun x => { x with olog := { x.olog with full := true } }) (supervisor t) cLOGFULL t.val src
      ((s.tenant t).olog.pos.setWidth 64) := if_pos (by simp [full, first])
  have kept := postEvent_announced (s.modTenant t fun x => { x with olog := { x.olog with full := true } }) (supervisor t) evTrap t.val src
    (trapBits ⟨cLOGFULL, 3, 0, 0, 0, (s.tenant t).olog.pos.setWidth 64⟩)
  rw [made, externalTrap]
  refine ⟨?_, ?_, fun r => (kept.bank r).trans (State.bank_modTenant ..), events_postEvent ..⟩
  · rw [kept.tenant, State.tenant_modTenant, if_pos rfl]
  · rw [kept.tenant, State.tenant_modTenant, if_pos rfl]

/-! ### An accumulator write under replay -/

/-- It takes place exactly where its own entry is next (R337). -/
theorem accLogged_replay (mode : ologMode s t = 2) (u : SuiteId) (agent bank tile row col : Nat) :
    (accLogged s t u agent bank tile row col).1 = true ↔
      ologNext (ologSkip t 64 s) t = some (3, u.val, accChoice s u agent bank tile row col) := by
  constructor
  · intro applies
    by_contra other
    have waits (room : ologRoom (ologSkip t 64 s) t = true) := ologTake_replay_other (kind := 3) (source := u.val)
      (value := accChoice s u agent bank tile row col) (fits := fun w => w == accChoice s u agent bank tile row col) mode room
      (fun v fit next => other (by rw [next, eq_of_beq fit]))
    unfold accLogged at applies
    cases room : ologRoom (ologSkip t 64 s) t with
    | true => rw [waits room] at applies; cases applies
    | false => rw [ologTake_replay_full mode room] at applies; cases applies
  · intro next
    have takes := ologTake_replay_own (value := accChoice s u agent bank tile row col) (fits := fun w => w == accChoice s u agent bank tile row col)
      mode next (beq_self_eq_true _)
    rw [accLogged, takes]

end

/-! ### OLOGW -/

theorem events_modBank (s : State) (r : BankRef) (f : Bank → Bank) (d : CtxId) : ((s.modBank r f).ctx d).events = (s.ctx d).events := by
  cases r with
  | bank u b => rfl
  | ctx c =>
    refine (congrArg Ctx.events (State.ctx_modCtx s c d fun x => { x with regs := f x.regs })).trans ?_
    split
    next same => rw [same]
    next => rfl

/-- OLOGR takes a value. -/
def setOlogr (z : State) (t : TenantId) (x : Word) : State := z.modTenant t fun y => { y with olog := { y.olog with r := x } }

/-- A write of OLOGW stays in flight. -/
def ologwWaits (z : State) (c : CtxId) (v : Word) : State :=
  z.modBank (.ctx c) fun b => { b with fly := b.fly ++ [⟨.a, 0, [.csr 0x604 (.write v)], 0, 0, false⟩] }

section
variable {s : State} {c : CtxId} {v : Word} (on : featOn s 2 = true)
include on

theorem exec_ologw : exec (.ologwWrite c v) s = .next (match ologChoice s (ctxTenant s c) 4 (256 + c.val) v.toNat with
    | (some x, s1) => setOlogr s1 (ctxTenant s c) (BitVec.ofNat 64 x)
    | (none, s1) => ologwWaits s1 c v) := by
  exact congrArg Host.Outcome.next (if_neg (by simp [on]))

theorem ologw_takes {x : Nat} {s1 : State} (chosen : ologChoice s (ctxTenant s c) 4 (256 + c.val) v.toNat = (some x, s1)) :
    exec (.ologwWrite c v) s = .next (setOlogr s1 (ctxTenant s c) (BitVec.ofNat 64 x)) := by
  rw [exec_ologw on, chosen]

theorem ologw_waits {s1 : State} (waits : ologChoice s (ctxTenant s c) 4 (256 + c.val) v.toNat = (none, s1)) :
    exec (.ologwWrite c v) s = .next (ologwWaits s1 c v) := by
  rw [exec_ologw on, waits]

/-- Without room the write waits, and LOGFULL is raised once. -/
theorem ologw_full {z : State} (waits : ologRoom z (ctxTenant s c) = false →
      ologChoice s (ctxTenant s c) 4 (256 + c.val) v.toNat = (none, logFull z (ctxTenant s c) (256 + c.val)))
    (bank : z.bank (.ctx c) = s.bank (.ctx c)) (ctxs : z.ctxs = s.ctxs) (pkg : z.pkg = s.pkg) :
    let t := ctxTenant s c
    let o := (z.tenant t).olog
    o.lim ≤ o.pos → (o.full = true → exec (.ologwWrite c v) s = .next (ologwWaits z c v)) ∧
      (o.full = false → answers (.ologwWrite c v) s fun y => (y.tenant t).olog.full = true ∧ (y.tenant t).olog.pos = o.pos ∧
        (y.bank (.ctx c)).fly = (s.bank (.ctx c)).fly ++ [⟨.a, 0, [.csr 0x604 (.write v)], 0, 0, false⟩] ∧
        (y.ctx (supervisor t)).events = (s.ctx (supervisor t)).events ++
          [⟨s.pkg.eventSeq, 2, t.val, 256 + c.val, trapBits ⟨0x92, 3, 0, 0, 0, o.pos.setWidth 64⟩, (s.ctx (supervisor t)).hostfwd⟩]) := by
  intro t o reached
  have full : ologRoom z t = false := ologRoom_full.mpr reached
  have run := ologw_waits (c := c) (v := v) on (waits full)
  refine ⟨fun raised => by rw [run, logFull_again raised], fun first => ⟨_, run, ?_⟩⟩
  obtain ⟨raised, pos, banks, events⟩ := logFull_first full first (256 + c.val)
  have ctx (d : CtxId) : z.ctx d = s.ctx d := congrArg (·.get d) ctxs
  have tenants : (ologwWaits (logFull z t (256 + c.val)) c v).tenant t = (logFull z t (256 + c.val)).tenant t :=
    congrArg (·.get t) (State.modBank_tenants ..)
  refine ⟨by rw [tenants, raised], by rw [tenants, pos], ?_, ?_⟩
  · rw [ologwWaits, State.bank_modBank_same, banks, bank]
  · rw [ologwWaits, events_modBank, events, ctx, pkg]

end

/-! ### The age of the entry at OLOGPOS -/

section
variable {s : State} {t : TenantId}

/-- The entry at OLOGPOS has reached an age. -/
def setOlogAge (z : State) (t : TenantId) (n : Nat) : State := z.modTenant t fun x => { x with olog := { x.olog with age := n } }

/-- Whether the kind of the entry at OLOGPOS is assigned, and its source (R338, R434). -/
def ologKnown (z : State) (t : TenantId) : Bool := match ologEntry z t with | some (k, _, _) => decide (1 ≤ k) && decide (k ≤ 5) | none => true
def ologSource (z : State) (t : TenantId) : Nat := match ologEntry z t with | some (_, src, _) => src | none => 256 + t.val

theorem ologKnown_iff {z : State} : ologKnown z t = true ↔ ∀ e, ologEntry z t = some e → 1 ≤ e.1 ∧ e.1 ≤ 5 := by
  unfold ologKnown
  split
  next k src v entry => simp [entry]
  next none => simp [none]

/-- The age at which replay diverges (R339). -/
def ologDiverges (z : State) (t : TenantId) : State :=
  externalTrap (setOlogAge z t (2 ^ 24)) (supervisor t) cREPLAYDIV t.val (ologSource z t) ((z.tenant t).olog.pos.setWidth 64)

theorem exec_replaydiv (mode : ologMode s t = 2) : exec (.replaydiv t) s = .next (
    let s1 := ologSkip t 64 s
    if ologPassed s1 t ∨ (s1.tenant t).olog.lim.toNat ≤ (s1.tenant t).olog.pos.toNat ∨ 2 ^ 24 ≤ (s1.tenant t).olog.age then s1
    else if ologKnown s1 t = false ∨ (s1.tenant t).olog.age + 1 = 2 ^ 24 then ologDiverges s1 t
    else setOlogAge s1 t ((s1.tenant t).olog.age + 1)) := by
  refine congrArg Host.Outcome.next ?_
  dsimp only
  rw [if_neg (by simp [mode])]
  unfold ologDiverges ologKnown ologSource
  cases ologEntry (ologSkip t 64 s) t <;> rfl

theorem replaydiv_off (mode : ologMode s t ≠ 2) : exec (.replaydiv t) s = .next s := congrArg Host.Outcome.next (if_pos mode)

theorem ologDiverges_outcome (z : State) (t : TenantId) : let y := ologDiverges z t
    (y.tenant t).olog.age = 2 ^ 24 ∧ (y.tenant t).olog.r = (z.tenant t).olog.r ∧ (y.tenant t).olog.lim = (z.tenant t).olog.lim ∧
    y.suites = z.suites ∧ y.rooms = z.rooms ∧ y.pkg.mem = z.pkg.mem ∧
    (y.ctx (supervisor t)).events = (z.ctx (supervisor t)).events ++ [⟨z.pkg.eventSeq, 2, t.val, ologSource z t,
      trapBits ⟨0x91, 3, 0, 0, 0, (z.tenant t).olog.pos.setWidth 64⟩, (z.ctx (supervisor t)).hostfwd⟩] := by
  intro y
  have kept : Announced (setOlogAge z t (2 ^ 24)) y := postEvent_announced ..
  have aged : (setOlogAge z t (2 ^ 24)).tenant t = { z.tenant t with olog := { (z.tenant t).olog with age := 2 ^ 24 } } :=
    (State.tenant_modTenant ..).trans (if_pos rfl)
  have tenant := (kept.tenant t).trans aged
  refine ⟨by rw [tenant], by rw [tenant], by rw [tenant], kept.suites, kept.rooms, kept.mem, ?_⟩
  exact events_postEvent ..

/-- Whatever it finds, it leaves Suites, rooms, memory, OLOGR and OLOGLIM. -/
theorem replaydiv_keeps (s : State) (t : TenantId) : ∃ z, exec (.replaydiv t) s = .next z ∧ z.suites = s.suites ∧ z.rooms = s.rooms ∧
    z.pkg.mem = s.pkg.mem ∧ (z.tenant t).olog.r = (s.tenant t).olog.r ∧ (z.tenant t).olog.lim = (s.tenant t).olog.lim := by
  by_cases mode : ologMode s t = 2
  · refine ⟨_, exec_replaydiv mode, ?_⟩
    obtain ⟨l, skipped, r, lim⟩ := ologSkip_keeps t 64 s
    rw [skipped]
    dsimp only
    split
    · exact ⟨rfl, rfl, rfl, r, lim⟩
    · split
      · obtain ⟨_, r', lim', suites, rooms, mem, _⟩ := ologDiverges_outcome { s with tenants := l } t
        exact ⟨suites, rooms, mem, r'.trans r, lim'.trans lim⟩
      · refine ⟨rfl, rfl, rfl, ?_, ?_⟩
        · rw [setOlogAge, State.tenant_modTenant, if_pos rfl]
          exact r
        · rw [setOlogAge, State.tenant_modTenant, if_pos rfl]
          exact lim
  · exact ⟨s, replaydiv_off mode, rfl, rfl, rfl, rfl, rfl⟩

theorem replaydiv_replay (mode : ologMode s t = 2) :
    let s1 := ologSkip t 64 s
    let o := (s1.tenant t).olog
    let known := ∀ e, ologEntry s1 t = some e → 1 ≤ e.1 ∧ e.1 ≤ 5
    let rests := ologPassed s1 t = true ∨ o.lim ≤ o.pos ∨ 2 ^ 24 ≤ o.age
    (rests → exec (.replaydiv t) s = .next s1) ∧
    (¬ rests → known → o.age + 1 < 2 ^ 24 → exec (.replaydiv t) s = .next (setOlogAge s1 t (o.age + 1))) ∧
    (¬ rests → ¬ known ∨ o.age + 1 = 2 ^ 24 → answers (.replaydiv t) s fun z => (z.tenant t).olog.age = 2 ^ 24 ∧
      (z.ctx (supervisor t)).events = (s.ctx (supervisor t)).events ++ [⟨s.pkg.eventSeq, 2, t.val, ologSource s1 t,
        trapBits ⟨0x91, 3, 0, 0, 0, o.pos.setWidth 64⟩, (s.ctx (supervisor t)).hostfwd⟩]) := by
  intro s1 o known rests
  have run := exec_replaydiv mode
  have isKnown : ologKnown s1 t = true ↔ known := ologKnown_iff
  dsimp only at run
  refine ⟨fun rest => ?_, fun goes named young => ?_, fun goes ends => ?_⟩
  · exact run.trans (congrArg Host.Outcome.next (if_pos rest))
  · refine run.trans (congrArg Host.Outcome.next ((if_neg goes).trans (if_neg ?_)))
    rintro (unknown | old)
    · rw [isKnown.mpr named] at unknown
      cases unknown
    · exact absurd old (Nat.ne_of_lt young)
  · have ended : ologKnown s1 t = false ∨ (s1.tenant t).olog.age + 1 = 2 ^ 24 :=
      ends.imp_left fun unknown => Bool.eq_false_iff.mpr (mt isKnown.mp unknown)
    obtain ⟨age, _, _, _, _, _, events⟩ := ologDiverges_outcome s1 t
    refine ⟨ologDiverges s1 t, run.trans (congrArg Host.Outcome.next ((if_neg goes).trans (if_pos ended))), age, ?_⟩
    obtain ⟨l, skipped, _⟩ := ologSkip_keeps t 64 s
    have ctx : s1.ctx (supervisor t) = s.ctx (supervisor t) := by rw [show s1 = _ from skipped]; rfl
    have pkg : s1.pkg = s.pkg := by rw [show s1 = _ from skipped]
    rw [events, ctx, pkg]

end

/-- Settles O54: a choice point by its mode, and the age of its entry by what stands at OLOGPOS. -/
theorem orderLogs : Obligations.OrderLogs := by
  unfold Obligations.OrderLogs
  refine ⟨fun s c v on => ?_, fun s t src => ?_, fun s t u agent bank tile row col mode => accLogged_replay mode u agent bank tile row col,
    fun s t v => rfl, replaydiv_keeps, fun s t => ?_⟩
  · intro t o src i set waits full
    refine ⟨fun off => ?_, fun mode => ⟨?_, ?_⟩, fun mode => ⟨?_, ?_, ?_⟩⟩
    · have taken := ologw_takes (v := v) on (ologTake_off off)
      rwa [BitVec.ofNat_toNat, BitVec.setWidth_eq] at taken
    · exact ologw_full on (ologTake_record_full mode) rfl rfl rfl
    · intro room r s1 stored
      have free := ologRoom_iff.mpr room
      refine ⟨fun ok => ?_, fun fails => ologw_waits on (ologTake_unrecorded mode free fails stored)⟩
      subst ok
      have taken := ologw_takes (v := v) on (ologTake_recorded mode free stored)
      rwa [BitVec.ofNat_toNat, BitVec.setWidth_eq] at taken
    · obtain ⟨l, skipped, _⟩ := ologSkip_keeps t 64 s
      exact ologw_full on (ologTake_replay_full mode) (by rw [skipped]; rfl) (by rw [skipped]) (by rw [skipped])
    · exact fun x next => ologw_takes on (ologTake_replay_own mode next rfl)
    · intro room other
      exact ologw_waits on (ologTake_replay_other mode (ologRoom_iff.mpr room) fun x _ => other x)
  · obtain ⟨log, others, ologsp, pkg, rooms⟩ := ologAdvance_outcome s t src
    exact ⟨log, others, ologsp, pkg, rooms, ologNext_none⟩
  · exact ⟨replaydiv_off, replaydiv_replay⟩

end Sys2Proof.Machine
end

section
/-! PROOFS. L2 slice ports (R325, R351, R418, R419): who is granted, which of its requests, and the refill. -/

namespace Sys2Proof.Machine

/-! ### A port of the package -/

theorem portOf_modPort {s : State} {n : Nat} {x : L2Port} (h : portOf s n = some x) {f : L2Port → L2Port} (port : (f x).port = n) :
    portOf (modPort s n f) n = some (f x) := by
  unfold portOf at h ⊢
  show ((s.pkg.l2.map fun x => if x.port = n then f x else x).find? fun x => x.port == n) = _
  generalize s.pkg.l2 = l at h
  induction l with
  | nil => cases h
  | cons y l ih =>
    rw [List.map_cons]
    rw [List.find?_cons] at h
    by_cases named : y.port = n
    · have here : (y.port == n) = true := beq_iff_eq.mpr named
      rw [here] at h
      have same : y = x := Option.some.inj h
      have kept : ((f x).port == n) = true := beq_iff_eq.mpr port
      rw [if_pos named, List.find?_cons, same, kept]
    · have past : (y.port == n) = false := beq_false_of_ne named
      rw [past] at h
      rw [if_neg named, List.find?_cons, past]
      exact ih h

theorem port_portOf {s : State} {n : Nat} {x : L2Port} (h : portOf s n = some x) : x.port = n := by
  have := List.find?_some h
  simpa using this

/-! ### The request that is granted -/

theorem takeRequest_some {p : L2Req → Bool} : ∀ {l : List L2Req}, (∃ q, q ∈ l ∧ p q = true) → ∃ before q after, l = before ++ q :: after ∧ p q = true ∧
    (∀ o, o ∈ before → p o = false) ∧ takeRequest p l = (some q, (before ++ after).map L2Req.older)
  | [], h => by obtain ⟨q, mem, _⟩ := h; cases mem
  | r :: rest, h => by
    unfold takeRequest
    by_cases first : p r = true
    · exact ⟨[], r, rest, rfl, first, nofun, if_pos first⟩
    · have later : ∃ q, q ∈ rest ∧ p q = true := by
        obtain ⟨q, mem, found⟩ := h
        cases mem with
        | head => exact absurd found first
        | tail _ mem => exact ⟨q, mem, found⟩
      obtain ⟨before, q, after, split, found, none, taken⟩ := takeRequest_some later
      refine ⟨r :: before, q, after, by rw [split]; rfl, found, fun o mem => ?_, ?_⟩
      · cases mem with
        | head => exact Bool.eq_false_iff.mpr first
        | tail _ mem => exact none o mem
      · rw [if_neg first, taken]
        rfl

theorem takeRequest_none {p : L2Req → Bool} : ∀ {l : List L2Req}, (∀ q, q ∈ l → p q = false) → takeRequest p l = (none, l.map L2Req.older)
  | [], _ => rfl
  | r :: rest, h => by
    unfold takeRequest
    rw [if_neg (by rw [h r (.head _)]; exact Bool.false_ne_true), takeRequest_none fun q mem => h q (.tail _ mem)]
    rfl

/-- A grant: the oldest request selected is granted, and the others are a cycle older. -/
theorem grant_some {x : L2Port} {p : L2Req → Bool} (h : ∃ q, q ∈ x.reqs ∧ p q = true) : ∃ before q after, x.reqs = before ++ q :: after ∧ p q = true ∧
    (∀ o, o ∈ before → p o = false) ∧
    x.grant p = { x with reqs := (before ++ after).map L2Req.older, granted := x.granted ++ [(q.who, q.line)] } := by
  obtain ⟨before, q, after, split, found, none, taken⟩ := takeRequest_some h
  exact ⟨before, q, after, split, found, none, by rw [L2Port.grant, taken]⟩

theorem grant_none {x : L2Port} {p : L2Req → Bool} (h : ∀ q, q ∈ x.reqs → p q = false) :
    x.grant p = { x with reqs := x.reqs.map L2Req.older } := by
  rw [L2Port.grant, takeRequest_none h]

/-! ### The tenant whose turn it is -/

/-- How many tenants come before one after the last granted. -/
def robinTurn (last : Nat) (t : TenantId) : Nat := (t.val + 63 - last % 64) % 64

theorem robinOrder_find {last : Nat} {p : TenantId → Bool} {t : TenantId} (asks : p t = true) (first : ∀ o, p o = true → robinTurn last t ≤ robinTurn last o) :
    (robinOrder last).find? p = some t := by
  have place (i : Nat) (h : i < 64) : robinTurn last ⟨(last + 1 + i) % 64, Nat.mod_lt _ (by decide)⟩ = i := by
    unfold robinTurn
    dsimp only
    omega
  have own : (⟨(last + 1 + robinTurn last t) % 64, Nat.mod_lt _ (by decide)⟩ : TenantId) = t := by
    apply Fin.ext
    have := t.isLt
    unfold robinTurn
    dsimp only
    omega
  have found : (List.range 64).find? (p ∘ fun i => ⟨(last + 1 + i) % 64, Nat.mod_lt _ (by decide)⟩) = some (robinTurn last t) := by
    rw [List.find?_range_eq_some]
    refine ⟨by rw [Function.comp_apply, own, asks], List.mem_range.mpr (Nat.mod_lt _ (by decide)), fun j before => ?_⟩
    rw [Bool.not_eq_true', Function.comp_apply]
    refine Bool.eq_false_iff.mpr fun other => ?_
    have late := first _ other
    rw [place j (by have : robinTurn last t < 64 := Nat.mod_lt _ (by decide); omega)] at late
    omega
  rw [robinOrder, List.find?_map, found]
  exact congrArg some own

theorem mem_robinOrder (last : Nat) (t : TenantId) : t ∈ robinOrder last := by
  refine List.mem_map.mpr ⟨robinTurn last t, List.mem_range.mpr (Nat.mod_lt _ (by decide)), Fin.ext ?_⟩
  have := t.isLt
  unfold robinTurn
  dsimp only
  omega

theorem robinOrder_none {last : Nat} {p : TenantId → Bool} (silent : ∀ o, p o = false) : (robinOrder last).find? p = none :=
  List.find?_eq_none.mpr fun o _ => by rw [silent o]; exact Bool.false_ne_true

/-- The better of two tenants for the pool: of higher priority, and the earlier one on a tie. -/
def betterFor (prio : TenantId → Nat) (best : Option (TenantId × Bool)) (t : TenantId) : Option (TenantId × Bool) :=
  match best with
  | none => some (t, false)
  | some (b, _) => if prio b < prio t then some (t, false) else best

/-- Of a rising list the fold keeps the tenant of highest priority, the lowest number on a tie. -/
theorem foldl_betterFor {prio : TenantId → Nat} {t : TenantId} : ∀ {l : List TenantId} {b : TenantId}, (b :: l).Pairwise (· < ·) → t ∈ b :: l →
    (∀ o, o ∈ b :: l → prio o ≤ prio t ∧ (prio o = prio t → t.val ≤ o.val)) → l.foldl (betterFor prio) (some (b, false)) = some (t, false)
  | [], b, _, mem, _ => by rw [List.mem_singleton.mp mem]; rfl
  | a :: l, b, rising, mem, best => by
    rw [List.pairwise_cons] at rising
    obtain ⟨above, rising⟩ := rising
    have next : betterFor prio (some (b, false)) a = some (if prio b < prio a then a else b, false) := by
      show (if prio b < prio a then some (a, false) else some (b, false)) = _
      split <;> rfl
    rw [List.foldl_cons, next]
    by_cases higher : prio b < prio a
    · rw [if_pos higher]
      refine foldl_betterFor rising ?_ fun o mem => best o (.tail _ mem)
      cases mem with
      | head => exact absurd (best a (.tail _ (.head _))).1 (by omega)
      | tail _ mem => exact mem
    · rw [if_neg higher]
      have kept : (b :: l).Pairwise (· < ·) :=
        List.pairwise_cons.mpr ⟨fun o mem => above o (.tail _ mem), (List.pairwise_cons.mp rising).2⟩
      refine foldl_betterFor kept ?_ fun o mem => best o (by cases mem with | head => exact .head _ | tail _ mem => exact .tail _ (.tail _ mem))
      cases mem with
      | head => exact .head _
      | tail _ mem =>
        cases mem with
        | head =>
          obtain ⟨low, tie⟩ := best b (.head _)
          have := tie (by omega)
          have : b.val < t.val := above t (.head _)
          omega
        | tail _ mem => exact .tail _ mem

/-! ### The choice of a port -/

section
variable {x : L2Port} {prio : TenantId → Nat} {t : TenantId}

/-- A tenant asks with a request of its own. -/
def asksAt (x : L2Port) (t : TenantId) : Bool := x.reqs.any (L2Req.isOf t)

theorem choose_own (asks : asksAt x t = true) (rich : 1 ≤ (x.bucket t).1)
    (first : ∀ o, asksAt x o = true → 1 ≤ (x.bucket o).1 → robinTurn x.last t ≤ robinTurn x.last o) : x.choose prio = some (t, true) := by
  have found : (robinOrder x.last).find? (fun t => asksAt x t && decide (1 ≤ (x.bucket t).1)) = some t := by
    refine robinOrder_find (by simp [asks, rich]) fun o both => ?_
    obtain ⟨asksToo, richToo⟩ := Bool.and_eq_true_iff.mp both
    exact first o asksToo (of_decide_eq_true richToo)
  unfold asksAt at found
  simp only [L2Port.choose, found]

/-- Without a token of a tenant that asks, the pool serves, or a trace unit (R418). -/
theorem choose_poor (poor : ∀ o, asksAt x o = true → ¬ 1 ≤ (x.bucket o).1) : x.choose prio =
    if x.pool = 0 then none else ((List.finRange 64).filter (asksAt x)).foldl (betterFor prio) none := by
  have silent : (robinOrder x.last).find? (fun t => asksAt x t && decide (1 ≤ (x.bucket t).1)) = none :=
    robinOrder_none fun o => by
      cases asks : asksAt x o with
      | false => rfl
      | true => rw [Bool.true_and, decide_eq_false (poor o asks)]
  unfold asksAt at silent
  unfold L2Port.choose
  dsimp only
  rw [silent]
  rfl

theorem choose_pool (poor : ∀ o, asksAt x o = true → ¬ 1 ≤ (x.bucket o).1) (asks : asksAt x t = true) (pool : 0 < x.pool)
    (best : ∀ o, asksAt x o = true → prio o ≤ prio t ∧ (prio o = prio t → t.val ≤ o.val)) : x.choose prio = some (t, false) := by
  have member (o : TenantId) : o ∈ (List.finRange 64).filter (asksAt x) ↔ asksAt x o = true := by
    simp only [List.mem_filter, List.mem_finRange, true_and]
  have rising : ((List.finRange 64).filter (asksAt x)).Pairwise (· < ·) := (List.pairwise_lt_finRange 64).filter _
  rw [choose_poor poor, if_neg (by omega)]
  generalize (List.finRange 64).filter (asksAt x) = l at member rising
  cases l with
  | nil => exact absurd ((member t).mpr asks) List.not_mem_nil
  | cons b l =>
    exact foldl_betterFor rising ((member t).mpr asks) fun o mem => best o ((member o).mp mem)

theorem choose_none (h : ∀ o, asksAt x o = true → ¬ 1 ≤ (x.bucket o).1 ∧ x.pool = 0) : x.choose prio = none := by
  rw [choose_poor fun o asks => (h o asks).1]
  split
  · rfl
  · rename_i left
    have silent : (List.finRange 64).filter (asksAt x) = [] :=
      List.filter_eq_nil_iff.mpr fun o _ asks => left (h o asks).2
    rw [silent]
    rfl

end

/-! ### The grant (R418) -/

theorem traced_iff (q : L2Req) : q.traced = true ↔ ∃ o, q.who = .trace o := by
  unfold L2Req.traced
  cases q.who <;> simp

theorem isOf_iff (t : TenantId) (q : L2Req) : L2Req.isOf t q = true ↔ q.tenant = t ∧ ¬ ∃ o, q.who = .trace o := by
  rw [L2Req.isOf, Bool.and_eq_true, beq_iff_eq, Bool.not_eq_true', ← traced_iff, Bool.not_eq_true]

theorem asksAt_iff (x : L2Port) (t : TenantId) : asksAt x t = true ↔ ∃ q, q ∈ x.reqs ∧ q.tenant = t ∧ ¬ ∃ o, q.who = .trace o := by
  rw [asksAt, List.any_eq_true]
  exact exists_congr fun q => and_congr_right fun _ => isOf_iff t q

/-- A port after the choice of whom it grants. -/
def L2Port.served (x : L2Port) : Option (TenantId × Bool) → L2Port
  | none => x.grant L2Req.traced
  | some (t, true) => { (x.setBucket t ((x.bucket t).1 - 1) (x.bucket t).2).grant (L2Req.isOf t) with last := t.val }
  | some (t, false) => { x.grant (L2Req.isOf t) with pool := x.pool - 1 }

theorem port_grant (x : L2Port) (p : L2Req → Bool) : (x.grant p).port = x.port := by
  unfold L2Port.grant
  split <;> rfl

theorem port_served (x : L2Port) (c : Option (TenantId × Bool)) : (x.served c).port = x.port := by
  unfold L2Port.served
  split
  · exact port_grant ..
  · exact port_grant ..
  · exact port_grant ..

/-- QOSWAIT keeps a tenant's longest wait (R325). -/
def noteWait (s : State) (q : L2Req) : State :=
  if !q.traced ∧ (s.tenant q.tenant).qos.wait.toNat < q.wait then
    s.modTenant q.tenant fun z => { z with qos := { z.qos with wait := BitVec.ofNat 32 (min q.wait 0xffffffff) } }
  else s

theorem pkg_noteWaits (l : List L2Req) (z : State) : (l.foldl noteWait z).pkg = z.pkg := by
  induction l generalizing z with
  | nil => rfl
  | cons q l ih =>
    have one : (noteWait z q).pkg = z.pkg := by
      unfold noteWait
      split <;> rfl
    exact (ih _).trans one

section
variable {s : State} {n : Nat} {x : L2Port} (here : portOf s n = some x)
include here

theorem l2PortGrant_idle (idle : x.reqs = []) : exec (.l2PortGrant n) s = .next s := by
  refine congrArg Host.Outcome.next ?_
  rw [here]
  exact if_pos (by rw [idle]; rfl)

/-- QOSWAIT apart, a grant changes its port. -/
theorem l2PortGrant_serves (waiting : x.reqs ≠ []) {c : Option (TenantId × Bool)} (chosen : x.choose (fun t => (s.tenant t).qos.prio.toNat) = c) :
    answers (.l2PortGrant n) s fun z => portOf z n = some (x.served c) := by
  refine ⟨x.reqs.foldl noteWait (modPort s n fun _ => x.served c), congrArg Host.Outcome.next ?_, ?_⟩
  · rw [here]
    dsimp only
    rw [if_neg (by simp [waiting]), chosen]
    cases c with
    | none => rfl
    | some c => obtain ⟨t, _ | _⟩ := c <;> rfl
  · show portOf (x.reqs.foldl noteWait (modPort s n fun _ => x.served c)) n = _
    unfold portOf
    rw [pkg_noteWaits]
    exact portOf_modPort here (f := fun _ => x.served c) ((port_served x c).trans (port_portOf here))

end

/-- The requests among which a choice grants the oldest. -/
def granteeOf : Option (TenantId × Bool) → L2Req → Bool
  | none => L2Req.traced
  | some (t, _) => L2Req.isOf t

theorem served_some {x : L2Port} {c : Option (TenantId × Bool)} (found : ∃ q, q ∈ x.reqs ∧ granteeOf c q = true) :
    ∃ before q after, x.reqs = before ++ q :: after ∧ granteeOf c q = true ∧ (∀ o, o ∈ before → granteeOf c o = false) ∧
      (x.served c).reqs = (before ++ after).map L2Req.older ∧ (x.served c).granted = x.granted ++ [(q.who, q.line)] := by
  match c with
  | none =>
    obtain ⟨before, q, after, split, is, first, made⟩ := grant_some found
    exact ⟨before, q, after, split, is, first, (congrArg L2Port.reqs made :), (congrArg L2Port.granted made :)⟩
  | some (t, true) =>
    obtain ⟨before, q, after, split, is, first, made⟩ := grant_some (x := x.setBucket t ((x.bucket t).1 - 1) (x.bucket t).2) found
    exact ⟨before, q, after, split, is, first, (congrArg L2Port.reqs made :), (congrArg L2Port.granted made :)⟩
  | some (t, false) =>
    obtain ⟨before, q, after, split, is, first, made⟩ := grant_some found
    exact ⟨before, q, after, split, is, first, (congrArg L2Port.reqs made :), (congrArg L2Port.granted made :)⟩

/-- A grant leaves buckets, pool and round-robin place. -/
theorem grant_keeps (x : L2Port) (p : L2Req → Bool) : (∀ o, (x.grant p).bucket o = x.bucket o) ∧ (x.grant p).pool = x.pool ∧ (x.grant p).last = x.last := by
  unfold L2Port.grant
  split <;> exact ⟨fun _ => rfl, rfl, rfl⟩

theorem l2PortGrant_grants {s : State} {n : Nat} {x : L2Port} (here : portOf s n = some x) {c : Option (TenantId × Bool)}
    (chosen : x.choose (fun t => (s.tenant t).qos.prio.toNat) = c) {m : L2Req → Prop} (same : ∀ q, granteeOf c q = true ↔ m q)
    (found : ∃ q, q ∈ x.reqs ∧ m q) {P : L2Port → Prop} (holds : P (x.served c)) :
    ∃ before q after, x.reqs = before ++ q :: after ∧ m q ∧ (∀ o, o ∈ before → ¬ m o) ∧
      answers (.l2PortGrant n) s fun z => ∃ y, portOf z n = some y ∧ y.reqs = (before ++ after).map L2Req.older ∧
        y.granted = x.granted ++ [(q.who, q.line)] ∧ P y := by
  obtain ⟨q, mem, is⟩ := found
  have waiting : x.reqs ≠ [] := List.ne_nil_of_mem mem
  obtain ⟨before, q, after, split, is, first, reqs, granted⟩ := served_some ⟨q, mem, (same q).mpr is⟩
  obtain ⟨z, next, port⟩ := l2PortGrant_serves here waiting chosen
  refine ⟨before, q, after, split, (same q).mp is, fun o mem mine => ?_, z, next, _, port, reqs, granted, holds⟩
  have := first o mem
  rw [(same o).mpr mine] at this
  cases this

/-! ### The refill -/

section
variable (depth rate : TenantId → Nat)

/-- A tenant's bucket after a refill, and whether a token went to the pool (R325). -/
def refilled (x : L2Port) (t : TenantId) : Nat × Nat :=
  let f := (x.bucket t).2 + rate t
  (if f < 1024 ∨ depth t ≤ (x.bucket t).1 then (x.bucket t).1 else (x.bucket t).1 + 1, if f < 1024 then f else f - 1024)

def spills (x : L2Port) (t : TenantId) : Bool := decide (1024 ≤ (x.bucket t).2 + rate t) && decide (depth t ≤ (x.bucket t).1)

theorem refillTenant_outcome (x : L2Port) (t : TenantId) : let y := refillTenant depth rate x t
    y.bucket t = refilled depth rate x t ∧ (∀ o, o ≠ t → y.bucket o = x.bucket o) ∧ y.port = x.port ∧ y.reqs = x.reqs ∧ y.granted = x.granted ∧
    y.last = x.last ∧ y.pool = if spills depth rate x t then min 4096 (x.pool + 1) else x.pool := by
  intro y
  have made : y = refillTenant depth rate x t := rfl
  unfold refillTenant at made
  dsimp only at made
  unfold refilled spills
  split at made
  case isTrue young =>
    rw [made]
    refine ⟨?_, fun o other => bucket_setBucket_other x t _ _ other, rfl, rfl, rfl, rfl, ?_⟩
    · rw [bucket_setBucket_same]
      simp only [young, true_or, if_true]
    · rw [decide_eq_false (by omega), Bool.false_and]
      rfl
  case isFalse whole =>
    split at made
    case isTrue room =>
      rw [made]
      refine ⟨?_, fun o other => bucket_setBucket_other x t _ _ other, rfl, rfl, rfl, rfl, ?_⟩
      · rw [bucket_setBucket_same]
        simp only [whole, false_or, if_false, Nat.not_le.mpr room]
      · rw [decide_eq_false (Nat.not_le.mpr room), Bool.and_false]
        rfl
    case isFalse full =>
      rw [made]
      refine ⟨?_, fun o other => bucket_setBucket_other x t _ _ other, rfl, rfl, rfl, rfl, ?_⟩
      · refine (bucket_setBucket_same x t _ _).trans ?_
        simp only [whole, Nat.not_lt.mp full, or_true, if_true, if_false]
      · rw [decide_eq_true (Nat.not_lt.mp whole), decide_eq_true (Nat.not_lt.mp full)]
        rfl

theorem refillTenants_outcome : ∀ (l : List TenantId) (_ : l.Nodup) (x : L2Port), let y := l.foldl (refillTenant depth rate) x
    (∀ t, y.bucket t = if t ∈ l then refilled depth rate x t else x.bucket t) ∧ y.port = x.port ∧ y.reqs = x.reqs ∧ y.granted = x.granted ∧
    y.last = x.last ∧ (x.pool ≤ 4096 → y.pool = min 4096 (x.pool + (l.filter (spills depth rate x)).length))
  | [], _, x => ⟨fun _ => rfl, rfl, rfl, rfl, rfl, fun most => (min_eq_right most).symm⟩
  | a :: l, distinct, x => by
    obtain ⟨fresh, distinct⟩ := List.nodup_cons.mp distinct
    intro y
    obtain ⟨own, others, port, reqs, granted, last, pool⟩ := refillTenant_outcome depth rate x a
    obtain ⟨buckets, port', reqs', granted', last', pool'⟩ := refillTenants_outcome l distinct (refillTenant depth rate x a)
    have bucket {o : TenantId} (mem : o ∈ l) : (refillTenant depth rate x a).bucket o = x.bucket o := others o fun e => fresh (e ▸ mem)
    have spill : l.filter (spills depth rate (refillTenant depth rate x a)) = l.filter (spills depth rate x) :=
      List.filter_congr fun o mem => by rw [spills, spills, bucket mem]
    refine ⟨fun t => (buckets t).trans ?_, port'.trans port, reqs'.trans reqs, granted'.trans granted, last'.trans last, fun most => ?_⟩
    · by_cases mem : t ∈ l
      · rw [if_pos mem, if_pos (.tail _ mem), refilled, refilled, bucket mem]
      · rw [if_neg mem]
        by_cases same : t = a
        · subst same
          rw [if_pos (.head _), own]
        · rw [if_neg (by simp [same, mem]), others t same]
    · have most' : (refillTenant depth rate x a).pool ≤ 4096 := by
        rw [pool]
        split
        · exact min_le_left ..
        · exact most
      refine (pool' most').trans ?_
      rw [spill, pool, List.filter_cons]
      split
      · rw [List.length_cons]
        omega
      · rfl

end

/-- Settles O57: the choice of a port in its four cases, and the refill tenant by tenant. -/
theorem slicePorts : Obligations.SlicePorts := by
  unfold Obligations.SlicePorts
  refine ⟨fun s n x here _ => ?_, fun s n x here => ?_⟩
  · intro trace mine asks older rich turnOf prio i grants
    have asksAt (o : TenantId) : asksAt x o = true ↔ asks o := asksAt_iff x o
    refine ⟨l2PortGrant_idle here, fun t asking wealthy first => ?_, fun t asking poor pool best => ?_, fun traced poor => ?_, fun waiting untraced poor pool => ?_⟩
    · have chosen := choose_own (prio := prio) ((asksAt t).mpr asking) wealthy fun o also => first o ((asksAt o).mp also)
      obtain ⟨bucket, pool, _⟩ := grant_keeps (x.setBucket t ((x.bucket t).1 - 1) (x.bucket t).2) (L2Req.isOf t)
      refine l2PortGrant_grants here chosen (isOf_iff t) asking ⟨?_, fun o other => ?_, rfl, pool⟩
      · exact congrArg Prod.fst ((bucket t).trans (bucket_setBucket_same ..))
      · exact (bucket o).trans (bucket_setBucket_other x t _ _ other)
    · have chosen := choose_pool (prio := prio) (fun o also => poor o ((asksAt o).mp also)) ((asksAt t).mpr asking) pool
        fun o also => best o ((asksAt o).mp also)
      obtain ⟨bucket, _, last⟩ := grant_keeps x (L2Req.isOf t)
      exact l2PortGrant_grants here chosen (isOf_iff t) asking ⟨rfl, last, bucket⟩
    · have chosen := choose_none (prio := prio) fun o also => poor o ((asksAt o).mp also)
      obtain ⟨bucket, pool, last⟩ := grant_keeps x L2Req.traced
      exact l2PortGrant_grants here chosen traced_iff traced ⟨pool, last, bucket⟩
    · have chosen := choose_none (prio := prio) fun o also => ⟨poor o ((asksAt o).mp also), pool⟩
      obtain ⟨z, next, port⟩ := l2PortGrant_serves here waiting chosen
      have made : x.served none = { x with reqs := x.reqs.map L2Req.older } :=
        grant_none fun q mem => Bool.eq_false_iff.mpr fun isTraced => untraced q mem ((traced_iff q).mp isTraced)
      rw [made] at port
      exact ⟨z, next, _, port, rfl, rfl, pool, fun _ => rfl⟩
  · intro f full spill
    obtain ⟨buckets, port, reqs, granted, last, pool⟩ := refillTenants_outcome (fun t => (s.tenant t).qos.depth.toNat)
      (fun t => (s.tenant t).qos.rate.toNat) (List.finRange 64) (List.nodup_finRange 64) x
    refine ⟨_, rfl, _, portOf_modPort here (port.trans (port_portOf here)), reqs, granted, last, pool, fun t => ?_⟩
    have bucket := (buckets t).trans (if_pos (List.mem_finRange t))
    refine ⟨congrArg Prod.snd bucket, (congrArg Prod.fst bucket).trans ?_⟩
    simp only [refilled, full, decide_eq_true_eq]
    rfl

end Sys2Proof.Machine
end

section
/-! PROOFS. Soft errors (R393, R408, R411, R435). -/

namespace Sys2Proof.Machine

/-! ### The counts of MEMERR (R408) -/

/-- The count of uncorrectable errors, the upper half of MEMERR. -/
theorem upper_countUe (s : State) :
    (countUe s).pkg.memerr.extractLsb' 32 32 = satAdd32 (s.pkg.memerr.extractLsb' 32 32) := by
  show (satAdd32 (s.pkg.memerr.extractLsb' 32 32) ++ s.pkg.memerr.extractLsb' 0 32).extractLsb' 32 32 = _
  rw [BitVec.extractLsb'_append_eq_of_le (by omega)]
  exact BitVec.extractLsb'_eq_self

theorem low_memerr (w : BitVec 64) (x : W32) : (x.setWidth 64 ||| (w &&& 0xffffffff00000000)).setWidth 32 = x := by
  apply BitVec.eq_of_getLsbD_eq
  intro i hi
  have mask : (0xffffffff00000000 : BitVec 64).getLsbD i = false := by
    interval_cases i <;> rfl
  simp only [BitVec.getLsbD_setWidth, BitVec.getLsbD_or, BitVec.getLsbD_and, mask]
  simp [hi, show i < 64 by omega]

theorem upper_memerr (w : BitVec 64) (x : W32) :
    (x.setWidth 64 ||| (w &&& 0xffffffff00000000)).extractLsb' 32 32 = w.extractLsb' 32 32 := by
  apply BitVec.eq_of_getLsbD_eq
  intro i hi
  have mask : (0xffffffff00000000 : BitVec 64).getLsbD (32 + i) = true := by
    interval_cases i <;> rfl
  simp only [BitVec.getLsbD_extractLsb', BitVec.getLsbD_setWidth, BitVec.getLsbD_or, BitVec.getLsbD_and, mask]
  simp [hi, BitVec.getLsbD_of_ge x (32 + i) (by omega)]

/-- A corrected error is counted in the lower half of MEMERR, and nothing else of the package changes. -/
theorem countCe_memerr (s : State) : (countCe s).pkg.memerr.setWidth 32 = satAdd32 (s.pkg.memerr.setWidth 32) ∧
    (countCe s).pkg.memerr.extractLsb' 32 32 = s.pkg.memerr.extractLsb' 32 32 := ⟨low_memerr .., upper_memerr ..⟩

/-! ### Lines of HBM -/

section
variable (s : State) (a : Nat)

/-- Whether a flip is one of a line of HBM. -/
def inLine (line : Nat) (e : ErrSite) : Bool := match e with | .mem x => x / 64 == line | _ => false

theorem inLine_iff {line : Nat} {e : ErrSite} : inLine line e = true ↔ ∃ b, e = .mem b ∧ b / 64 = line := by
  cases e <;> simp [inLine]

theorem not_inLine_iff {line : Nat} {e : ErrSite} : (!inLine line e) = true ↔ ∀ b, e = .mem b → b / 64 ≠ line := by
  rw [Bool.not_eq_true', ← Bool.not_eq_true, inLine_iff]
  simp

theorem hit_iff (line : Nat) : s.pkg.flips.any (inLine line) = true ↔ ∃ b, ErrSite.mem b ∈ s.pkg.flips ∧ b / 64 = line := by
  rw [List.any_eq_true]
  constructor
  · rintro ⟨e, mem, at_⟩
    obtain ⟨b, rfl, line⟩ := inLine_iff.mp at_
    exact ⟨b, mem, line⟩
  · rintro ⟨b, mem, line⟩
    exact ⟨_, mem, inLine_iff.mpr ⟨b, rfl, line⟩⟩

/-- A line of HBM becomes poison (R408). -/
def poisonLine (line : Nat) : State :=
  (countUe s).modPkg fun p =>
    { p with flips := p.flips.filter fun e => !inLine line e, poison := line :: p.poison, memeaddr := BitVec.ofNat 64 (64 * line + 1) }

theorem exec_softError_mem : exec (.softError (.mem a)) s = .next (
    if s.pkg.poison.contains (a / 64) then s
    else if s.pkg.flips.any (inLine (a / 64)) then poisonLine s (a / 64)
    else s.modPkg fun p => { p with flips := .mem a :: p.flips }) := rfl

theorem physByte_poisonLine_same {line b : Nat} (at_ : b / 64 = line) (slot : Nat) : physByte (poisonLine s line) slot b = 0xff := by
  unfold physByte
  rw [if_pos]
  simp [poisonLine, at_]

theorem physByte_poisonLine_other {line b : Nat} (other : b / 64 ≠ line) (slot : Nat) :
    physByte (poisonLine s line) slot b = physByte s slot b := by
  have poisoned : (poisonLine s line).pkg.poison.contains (b / 64) = s.pkg.poison.contains (b / 64) := by
    show (line :: s.pkg.poison).contains (b / 64) = _
    simp [List.contains_cons, other]
  unfold physByte
  rw [poisoned]
  rfl

theorem flips_poisonLine {line b : Nat} (left : ErrSite.mem b ∈ (poisonLine s line).pkg.flips) : b / 64 ≠ line :=
  not_inLine_iff.mp (List.mem_filter.mp left).2 b rfl

end

/-! ### The patrol scrub -/

/-- Correcting counts errors, and takes the flips of the lines read away. -/
theorem flips_correctErrors_line (s : State) (line : Nat) (x : ErrSite) :
    x ∈ (correctErrors s (64 * line) 64).pkg.flips ↔ x ∈ s.pkg.flips ∧ ∀ b, x = .mem b → b / 64 ≠ line := by
  have counted : ∀ (l : List ErrSite) (t : State), (l.foldl (fun s _ => countCe s) t).pkg.flips = t.pkg.flips := by
    intro l
    induction l with
    | nil => exact fun _ => rfl
    | cons _ _ ih => exact fun t => ih _
  have lineOnly : ∀ b, (64 * line / 64 ≤ b / 64 ∧ b / 64 ≤ (64 * line + 64 - 1) / 64) ↔ b / 64 = line := by
    intro b
    omega
  unfold correctErrors
  dsimp only
  split
  next clean =>
    rw [List.isEmpty_iff, List.filter_eq_nil_iff] at clean
    refine ⟨fun mem => ⟨mem, fun b at_ => ?_⟩, And.left⟩
    subst at_
    intro here
    apply clean _ mem
    simpa using (lineOnly b).mpr here
  next =>
    rw [counted]
    show x ∈ s.pkg.flips.filter _ ↔ _
    rw [List.mem_filter]
    refine and_congr_right fun mem => ?_
    simp only [Bool.not_eq_true', ← Bool.not_eq_true, List.contains_iff_mem, List.mem_filter, mem, true_and]
    cases x with
    | mem b => simpa using (lineOnly b).not
    | _ => simp

/-! ### Steward registers (R435) -/

/-- The context whose registers are struck stops. -/
def Ctx.struck (x : Ctx) : Ctx :=
  { x with running := false, regs := { x.regs with sa := { x.regs.sa with running := false }, sx := { x.regs.sx with running := false } } }

section
variable (s : State) (c : CtxId)

theorem eventFor_sent (s : State) (target : CtxId) (kind t src : Nat) (payload : BitVec 128) :
    eventFor s target kind t src payload = ⟨s.pkg.eventSeq, kind, t, src, payload, (s.ctx target).hostfwd⟩ := rfl

/-- The machine whose context has stopped, before any report. -/
def struckState : State := (countUe s).modCtx c Ctx.struck

theorem struckState_events (d : CtxId) : ((struckState s c).ctx d).events = (s.ctx d).events := by
  unfold struckState
  rw [State.ctx_modCtx]
  split
  next e => subst e; rfl
  next => rfl

theorem struckState_hostfwd (d : CtxId) : ((struckState s c).ctx d).hostfwd = (s.ctx d).hostfwd := by
  unfold struckState
  rw [State.ctx_modCtx]
  split
  next e => subst e; rfl
  next => rfl

/-- What lies after the context has stopped are reports. -/
theorem stops_of_struck {z : State} (h : Announced (struckState s c) z) :
    (z.ctx c).running = false ∧ (z.stream ⟨.ctx c, .a⟩).running = false ∧ (z.stream ⟨.ctx c, .x⟩).running = false ∧ z.pkg.mem = s.pkg.mem := by
  have here : (struckState s c).ctx c = ((countUe s).ctx c).struck := by
    unfold struckState
    rw [State.ctx_modCtx, if_pos rfl]
  have regs := (h.bank (.ctx c)).trans (congrArg Ctx.regs here)
  refine ⟨?_, ?_, ?_, h.mem⟩
  · rw [h.running, here]
    rfl
  · rw [State.stream, regs]
    rfl
  · rw [State.stream, regs]
    rfl

/-- The report of one stopped context, to a target and then to the hypervisor. -/
theorem reports_in_order {target : CtxId} (other : target ≠ hypervisor) (t src : Nat) :
    let z := postEvent (postEvent (struckState s c) target evStopped t src 1) hypervisor evStopped t src 1
    (z.ctx target).events = (s.ctx target).events ++ [⟨s.pkg.eventSeq, 8, t, src, 1, (s.ctx target).hostfwd⟩] ∧
    (z.ctx hypervisor).events = (s.ctx hypervisor).events ++ [⟨s.pkg.eventSeq + 1, 8, t, src, 1, (s.ctx hypervisor).hostfwd⟩] := by
  constructor
  · rw [events_postEvent_other _ other, events_postEvent, eventFor_sent, struckState_events, struckState_hostfwd]
    rfl
  · rw [events_postEvent, events_postEvent_other _ other.symm, eventFor_sent, eventSeq_postEvent, (postEvent_announced ..).hostfwd,
      struckState_events, struckState_hostfwd]
    rfl

end

/-! ### The obligation -/

section
variable (s : State)

theorem lsPoisoned_struck (u : SuiteId) (a b : Nat) :
    lsPoisoned (countUe (s.modPkg fun p => { p with flips := .ls u a :: p.flips })) u b = (a / 64 == b / 64 || lsPoisoned s u b) := by
  show (ErrSite.ls u a :: s.pkg.flips).any _ = _
  rw [List.any_cons]
  simp [lsPoisoned]

theorem patrolScrub_corrects (line : Nat) : answers (.patrolScrub line) s (fun z => z.pkg.mem = s.pkg.mem ∧ z.pkg.poison = s.pkg.poison ∧
    ∀ x, x ∈ z.pkg.flips ↔ x ∈ s.pkg.flips ∧ ∀ b, x = .mem b → b / 64 ≠ line) := by
  have counted := counted_correctErrors s (64 * line) 64
  exact ⟨_, rfl, counted.mem, counted.poison, flips_correctErrors_line s line⟩

theorem softError_mem_second {a : Nat} (sound : a / 64 ∉ s.pkg.poison) (hit : ∃ b, ErrSite.mem b ∈ s.pkg.flips ∧ b / 64 = a / 64) :
    exec (.softError (.mem a)) s = .next (poisonLine s (a / 64)) := by
  rw [exec_softError_mem, if_neg (by simpa using sound), if_pos ((hit_iff s _).mpr hit)]

theorem softError_mem_first {a : Nat} (sound : a / 64 ∉ s.pkg.poison) (miss : ¬ ∃ b, ErrSite.mem b ∈ s.pkg.flips ∧ b / 64 = a / 64) :
    exec (.softError (.mem a)) s = .next (s.modPkg fun p => { p with flips := .mem a :: p.flips }) := by
  rw [exec_softError_mem, if_neg (by simpa using sound), if_neg ((hit_iff s _).not.mpr miss)]

theorem softError_ls (u : SuiteId) (a : Nat) : answers (.softError (.ls u a)) s fun z =>
    z.pkg.memerr.extractLsb' 32 32 = satAdd32 (s.pkg.memerr.extractLsb' 32 32) ∧ (∀ b, b / 64 = a / 64 → lsRead z u b 1 = [0xff]) ∧
      (∀ b, b / 64 ≠ a / 64 → lsRead z u b 1 = lsRead s u b 1) ∧ z.suites = s.suites ∧ z.pkg.mem = s.pkg.mem := by
  refine ⟨countUe (s.modPkg fun p => { p with flips := .ls u a :: p.flips }), rfl, upper_countUe _, fun b same => ?_, fun b other => ?_, rfl, rfl⟩
  · rw [lsRead_one, lsPoisoned_struck, if_pos (by simp [same])]
  · rw [lsRead_one, lsPoisoned_struck, lsRead_one]
    simp only [beq_eq_false_iff_ne.mpr (Ne.symm other), Bool.false_or]
    rfl

theorem softError_clean (u : SuiteId) : answers (.softError (.clean u)) s fun z =>
    z.pkg.memerr.extractLsb' 32 32 = satAdd32 (s.pkg.memerr.extractLsb' 32 32) ∧
      (z.suite u).l1 = (s.suite u).l1.eraseIdx (Config.choice s.fresh % max 1 (s.suite u).l1.length) ∧
      z.pkg.mem = s.pkg.mem ∧ z.pkg.flips = s.pkg.flips := by
  let k := Config.choice s.fresh % max 1 (s.suite u).l1.length
  let chosen := ({ s with fresh := s.fresh + 1 }).modSuite u fun x => { x with l1 := x.l1.eraseIdx k }
  refine ⟨countUe chosen, rfl, upper_countUe _, ?_, rfl, rfl⟩
  show (chosen.suite u).l1 = _
  rw [State.suite_modSuite, if_pos rfl]
  rfl

/-- A struck context of a Steward core other than the hypervisor's: who receives the events. -/
theorem stewardRegisterUe_helper {c : CtxId} (high : 64 ≤ c.val) (ne : c ≠ hypervisor) : exec (.stewardRegisterUe c) s =
    .next (postEvent (postEvent (struckState s c) (supervisor (ctxTenant s c)) evStopped (ctxTenant s c).val (256 + c.val) 1) hypervisor evStopped
      (ctxTenant s c).val (256 + c.val) 1) := by
  show Host.Outcome.next _ = _
  rw [if_neg ne, if_pos high]
  rfl

theorem stewardRegisterUe_supervisor {c : CtxId} (low : c.val < 64) : exec (.stewardRegisterUe c) s =
    .next (postEvent (struckState s c) hypervisor evStopped (ctxTenant s c).val (256 + c.val) 1) := by
  show Host.Outcome.next _ = _
  rw [if_neg (by rintro rfl; exact absurd low (by decide)), if_neg (Nat.not_le.mpr low)]
  rfl

theorem stewardRegisterUe_hypervisor : exec (.stewardRegisterUe hypervisor) s =
    .next (postEvent (postHostEvent (struckState s hypervisor) evStopped (ctxTenant s hypervisor).val (256 + hypervisor.val) 1) hypervisor evStopped
      (ctxTenant s hypervisor).val (256 + hypervisor.val) 1) := rfl

end

/-- No supervisor is the hypervisor. -/
theorem supervisor_ne_hypervisor (t : TenantId) : supervisor t ≠ hypervisor := by
  intro same
  have := congrArg Fin.val same
  have : t.val = 127 := this
  omega

/-- A message to the host goes to the end of those that wait. -/
theorem out_sendHost (s : State) (kind tenant tag : Nat) (bytes : List Byte) : (sendHost s kind tenant tag bytes).pkg.out = s.pkg.out ++
    [⟨kind, tag, leBytes 64 (kind % 256 + 2 ^ 8 * (tenant % 64) + 2 ^ 16 * (bytes.length % 65536) + 2 ^ 32 * (tag % 65536)) ++ bytes, 0⟩] := by
  obtain ⟨_, e, -⟩ := countEvents_ctx (s.modPkg fun p => { p with out := p.out ++
    [⟨kind, tag, leBytes 64 (kind % 256 + 2 ^ 8 * (tenant % 64) + 2 ^ 16 * (bytes.length % 65536) + 2 ^ 32 * (tag % 65536)) ++ bytes, 0⟩] })
    hypervisor 0x10 (flitsOf (64 + bytes.length))
  exact congrArg (fun z : State => z.pkg.out) e

theorem eventSeq_sendHost (s : State) (kind tenant tag : Nat) (bytes : List Byte) :
    (sendHost s kind tenant tag bytes).pkg.eventSeq = s.pkg.eventSeq := by
  obtain ⟨_, _, e, -⟩ := sendHost_eq s kind tenant tag bytes
  rw [e]

theorem events_sendHost (s : State) (kind tenant tag : Nat) (bytes : List Byte) (d : CtxId) :
    ((sendHost s kind tenant tag bytes).ctx d).events = (s.ctx d).events := by
  obtain ⟨_, _, e, kept⟩ := sendHost_eq s kind tenant tag bytes
  obtain ⟨_, hk⟩ := kept d
  rw [e, State.ctx, hk]

/-- An event for the host alone takes a number, and no context receives it. -/
theorem eventSeq_postHostEvent (s : State) (kind tenant source : Nat) (payload : BitVec 128) :
    (postHostEvent s kind tenant source payload).pkg.eventSeq = s.pkg.eventSeq + 1 := eventSeq_sendHost ..

theorem events_postHostEvent (s : State) (kind tenant source : Nat) (payload : BitVec 128) (d : CtxId) :
    ((postHostEvent s kind tenant source payload).ctx d).events = (s.ctx d).events := events_sendHost ..

theorem out_postEvent (s : State) (target : CtxId) (kind tenant source : Nat) (payload : BitVec 128) :
    s.pkg.out <+: (postEvent s target kind tenant source payload).pkg.out := by
  unfold postEvent
  dsimp only
  split
  · rw [out_sendHost]
    exact List.prefix_append ..
  · exact List.prefix_refl _

/-- Settles O56. -/
theorem softErrors : Obligations.SoftErrors := by
  unfold Obligations.SoftErrors
  constructor
  · intro s more struck
    refine ⟨?_, softError_ls s, ?_, softError_clean s, fun _ _ _ _ => rfl, fun _ => rfl, ?_⟩
    · intro a line hit
      refine ⟨fun poisoned => ?_, fun sound second => ?_, softError_mem_first s, patrolScrub_corrects s line⟩
      · rw [exec_softError_mem, if_pos (by simpa using poisoned)]
      · exact ⟨_, softError_mem_second s sound second, upper_countUe s, rfl, rfl, fun slot b at_ => physByte_poisonLine_same s at_ slot,
          fun slot b other => physByte_poisonLine_other s other slot, fun b left => flips_poisonLine s left⟩
    · exact fun u k i j => ⟨_, rfl, upper_countUe _, rfl, rfl⟩
    · exact ⟨_, rfl, low_memerr .., upper_memerr .., rfl, rfl⟩
  · intro s c t e
    rcases Nat.lt_or_ge c.val 64 with low | high
    · have kept := postEvent_announced (struckState s c) hypervisor evStopped t.val (256 + c.val) 1
      obtain ⟨ctx, a, x, mem⟩ := stops_of_struck s c kept
      refine ⟨_, stewardRegisterUe_supervisor s low, ctx, a, x, mem, fun _ => ?_, fun no => absurd low (Nat.not_lt.mpr no),
        fun no => absurd low (by rw [no]; decide)⟩
      rw [events_postEvent, eventFor_sent, struckState_events, struckState_hostfwd]
      rfl
    · by_cases top : c = hypervisor
      · subst top
        have first := postHostEvent_announced (struckState s hypervisor) evStopped t.val (256 + hypervisor.val) 1
        have kept := first.trans (postEvent_announced _ hypervisor evStopped t.val (256 + hypervisor.val) 1)
        obtain ⟨ctx, a, x, mem⟩ := stops_of_struck s hypervisor kept
        refine ⟨_, stewardRegisterUe_hypervisor s, ctx, a, x, mem, fun no => absurd no (by decide), fun _ no => absurd rfl no, fun _ => ⟨?_, ?_⟩⟩
        · rw [events_postEvent, eventFor_sent, first.hostfwd, struckState_hostfwd, events_postHostEvent, struckState_events, eventSeq_postHostEvent]
          rfl
        · refine List.IsPrefix.trans ?_ (out_postEvent ..)
          rw [out_sendHost, postHostEvent, out_sendHost]
          exact List.prefix_refl _
      · have kept := (postEvent_announced (struckState s c) (supervisor t) evStopped t.val (256 + c.val) 1).trans
          (postEvent_announced _ hypervisor evStopped t.val (256 + c.val) 1)
        obtain ⟨ctx, a, x, mem⟩ := stops_of_struck s c kept
        exact ⟨_, stewardRegisterUe_helper s high top, ctx, a, x, mem, fun no => absurd no (Nat.not_lt.mpr high),
          fun _ _ => reports_in_order s c (supervisor_ne_hypervisor t) t.val (256 + c.val), fun no => absurd no top⟩

end Sys2Proof.Machine
end

section
/-! PROOFS. What the parts of a reset leave (R315, R329, R415, R420): owners, masks, DETCTL, key draws, RCYC, and, where nothing aborts or pushes, the
launches and the events that wait. -/

namespace Sys2Proof.Machine

/-! ### A room at zero -/

/-- The machine without the errors struck in a room and the monitors of its Suite. -/
def unstruck (s : State) (u : SuiteId) : State := freeMonitor (freeMonitor (dropRoomErrors s u) (.bank u 0)) (.bank u 1)

/-- A room at its reset values, but for its wing and its last owner. -/
def zeroedRoom (stopped : Bool) (r : Room) (u : SuiteId) : Room :=
  { Room.reset u with wingLead := r.wingLead, wingShape := r.wingShape, lastOwner := r.lastOwner, stopped := stopped }

theorem zeroRoom_eq (stopped : Bool) (s : State) (u : SuiteId) : zeroRoom stopped s u =
    (((unstruck s u).setSuite u { Suite.reset with stopped := stopped }).setRoom u (zeroedRoom stopped (s.room u) u)).modPkg fun p =>
      { p with stopReq := p.stopReq.filter fun q => q.1 != u } := rfl

/-! ### What stays -/

/-- What a reset's parts keep: each room's last owner, each mask and DETCTL, the forwarding of the hypervisor's events, the key slots and RCYC; the launches
where `l`, and the events that wait where `e`. -/
structure Stays (l e : Prop) (s t : State) : Prop where
  owner : ∀ u, (t.room u).lastOwner = (s.room u).lastOwner
  mask : ∀ k, (t.tenant k).mask = (s.tenant k).mask
  detctl : ∀ k, (t.tenant k).detctl = (s.tenant k).detctl
  host : (t.ctx hypervisor).hostfwd = (s.ctx hypervisor).hostfwd
  keys : t.pkg.keys = s.pkg.keys
  rcyc : t.pkg.rcyc = s.pkg.rcyc
  launches : l → ∀ k, (t.tenant k).launches = (s.tenant k).launches
  events : e → ∀ c x, x ∈ (s.ctx c).events → x ∈ (t.ctx c).events

namespace Stays
variable {l e : Prop} {s t v : State}

theorem refl (s : State) : Stays l e s s :=
  ⟨fun _ => rfl, fun _ => rfl, fun _ => rfl, rfl, rfl, rfl, fun _ _ => rfl, fun _ _ _ h => h⟩

theorem trans (h : Stays l e s t) (g : Stays l e t v) : Stays l e s v where
  owner u := (g.owner u).trans (h.owner u)
  mask k := (g.mask k).trans (h.mask k)
  detctl k := (g.detctl k).trans (h.detctl k)
  host := g.host.trans h.host
  keys := g.keys.trans h.keys
  rcyc := g.rcyc.trans h.rcyc
  launches on k := (g.launches on k).trans (h.launches on k)
  events on c x mem := g.events on c x (h.events on c x mem)

theorem mono {l' e' : Prop} (hl : l' → l) (he : e' → e) (h : Stays l e s t) : Stays l' e' s t :=
  ⟨h.owner, h.mask, h.detctl, h.host, h.keys, h.rcyc, fun on => h.launches (hl on), fun on => h.events (he on)⟩

/-! What changes the machine, one part at a time. -/

theorem setSuite (h : Stays l e s t) (u : SuiteId) (x : Suite) : Stays l e s (t.setSuite u x) :=
  ⟨h.owner, h.mask, h.detctl, h.host, h.keys, h.rcyc, h.launches, h.events⟩

theorem modSuite (h : Stays l e s t) (u : SuiteId) (f : Suite → Suite) : Stays l e s (t.modSuite u f) := h.setSuite u _

theorem setRoom (h : Stays l e s t) {u : SuiteId} {x : Room} (hx : x.lastOwner = (t.room u).lastOwner) : Stays l e s (t.setRoom u x) :=
  ⟨fun v => by
    rw [State.room_setRoom]
    split
    next same => subst same; exact hx.trans (h.owner u)
    next => exact h.owner v, h.mask, h.detctl, h.host, h.keys, h.rcyc, h.launches, h.events⟩

theorem modRoom (h : Stays l e s t) {u : SuiteId} {f : Room → Room} (hf : ∀ x, (f x).lastOwner = x.lastOwner := by intro x; rfl) :
    Stays l e s (t.modRoom u f) := h.setRoom (hf _)

theorem modCtx (h : Stays l e s t) {c : CtxId} {f : Ctx → Ctx} (hf : c = hypervisor → ∀ x, (f x).hostfwd = x.hostfwd := by intro _ x; rfl)
    (he : e → ∀ x y, y ∈ x.events → y ∈ (f x).events := by exact fun _ _ _ mem => mem) : Stays l e s (t.modCtx c f) :=
  ⟨h.owner, h.mask, h.detctl, by
    rw [State.ctx_modCtx]
    split
    next same => rw [hf same, same]; exact h.host
    next => exact h.host, h.keys, h.rcyc, h.launches, fun on d y mem => by
    rw [State.ctx_modCtx]
    split
    next same => subst same; exact he on _ _ (h.events on _ _ mem)
    next => exact h.events on _ _ mem⟩

theorem setBank (h : Stays l e s t) (r : BankRef) (x : Bank) : Stays l e s (t.setBank r x) := by
  cases r with
  | bank u b => exact h.setSuite u _
  | ctx c => exact h.modCtx (c := c) (f := fun y => { y with regs := x }) (fun _ _ => rfl) fun _ _ _ mem => mem

theorem modBank (h : Stays l e s t) (r : BankRef) (f : Bank → Bank) : Stays l e s (t.modBank r f) := h.setBank r _

theorem modTenant (h : Stays l e s t) {k : TenantId} {f : Tenant → Tenant} (hm : ∀ x, (f x).mask = x.mask := by intro x; rfl)
    (hd : ∀ x, (f x).detctl = x.detctl := by intro x; rfl) (hl : l → ∀ x, (f x).launches = x.launches := by exact False.elim) : Stays l e s (t.modTenant k f) := by
  refine ⟨h.owner, fun j => ?_, fun j => ?_, h.host, h.keys, h.rcyc, fun on j => ?_, h.events⟩
  all_goals
    rw [State.tenant_modTenant]
    split
  · next same => subst same; exact (hm _).trans (h.mask k)
  · exact h.mask j
  · next same => subst same; exact (hd _).trans (h.detctl k)
  · exact h.detctl j
  · next same => subst same; exact (hl on _).trans (h.launches on k)
  · exact h.launches on j

theorem modPkg (h : Stays l e s t) {f : Package → Package} (hk : (f t.pkg).keys = t.pkg.keys := by rfl) (hr : (f t.pkg).rcyc = t.pkg.rcyc := by rfl) :
    Stays l e s (t.modPkg f) :=
  ⟨h.owner, h.mask, h.detctl, h.host, hk.trans h.keys, hr.trans h.rcyc, h.launches, h.events⟩

/-- A free choice uses one more number. -/
theorem fresh (h : Stays l e s t) (n : Nat) : Stays l e s { t with fresh := n } :=
  ⟨h.owner, h.mask, h.detctl, h.host, h.keys, h.rcyc, h.launches, h.events⟩

theorem translated (h : Stays l e s t) (g : Translated t v) : Stays l e s v := by
  have kept := g.errs
  obtain ⟨_, _, _, _, _, _, _, _, _, _, rfl⟩ := g.rest
  exact ⟨h.owner, fun k => (congrArg Tenant.mask (kept k) :).trans (h.mask k), fun k => (congrArg Tenant.detctl (kept k) :).trans (h.detctl k),
    h.host, h.keys, h.rcyc, fun on k => (congrArg Tenant.launches (kept k) :).trans (h.launches on k), h.events⟩

theorem counted (h : Stays l e s t) (p : Tenant → Bool) : Stays l e s (countErr t p) := h.translated (countErr_translated t p)

theorem ite {c : Prop} [Decidable c] (h : Stays l e s t) (g : Stays l e s v) : Stays l e s (if c then t else v) := by
  split
  · exact h
  · exact g

theorem foldl {α : Type} {f : State → α → State} {list : List α} (hf : ∀ t, ∀ x ∈ list, Stays l e s t → Stays l e s (f t x)) (h : Stays l e s t) :
    Stays l e s (list.foldl f t) := by
  induction list generalizing t with
  | nil => exact h
  | cons x list ih => exact ih (fun t y mem => hf t y (List.mem_cons_of_mem x mem)) (hf t x List.mem_cons_self h)

theorem foldl_snd {α β : Type} {f : α × State → β → α × State} {list : List β} {p : α × State}
    (hf : ∀ q x, Stays l e s q.2 → Stays l e s (f q x).2) (h : Stays l e s p.2) : Stays l e s (list.foldl f p).2 := by
  induction list generalizing p with
  | nil => exact h
  | cons x list ih => exact ih (hf p x h)

theorem snd {α : Type} {p : α × State} {a : α} (eq : p = (a, t)) (h : Stays l e s p.2) : Stays l e s t := by
  rw [eq] at h
  exact h

/-! Events and messages. -/

theorem countEvents (h : Stays l e s t) (r : BankRef) (code n : Nat) : Stays l e s (countEvents t r code n) := by
  unfold Machine.countEvents
  split
  · exact h
  · cases r with
    | bank u b => exact .ite h (h.modSuite ..)
    | ctx c => exact .ite h.modCtx h

theorem sendHost (h : Stays l e s t) (kind tenant tag : Nat) (bytes : List Byte) : Stays l e s (sendHost t kind tenant tag bytes) :=
  h.modPkg.countEvents ..

theorem postEvent (h : Stays l e s t) (target : CtxId) (kind tenant source : Nat) (payload : BitVec 128) :
    Stays l e s (postEvent t target kind tenant source payload) := by
  have queued := (h.modPkg (f := fun p => { p with eventSeq := p.eventSeq + 1 })).modCtx (c := target)
    (f := fun c => { c with events := c.events ++ [eventFor t target kind tenant source payload] })
    (he := fun _ _ _ mem => List.mem_append_left _ mem)
  exact .ite (queued.sendHost ..) queued

theorem sendPacket (h : Stays l e s t) (kind peer : Nat) (k : TenantId) (bytes : List Byte) : Stays l e s (sendPacket t kind peer k bytes) := by
  unfold Machine.sendPacket
  exact .ite h.modPkg ((h.fresh (t.fresh + 2)).modPkg)

/-! Memory. -/

theorem rewriteUnit (h : Stays l e s t) (slot unit : Nat) : Stays l e s (rewriteUnit slot t unit) := by
  unfold Machine.rewriteUnit
  exact h.modPkg

theorem physWrite (h : Stays l e s t) (slot a : Nat) (bs : List Byte) (setter : Nat) : Stays l e s (physWrite t slot a bs setter) := by
  unfold Machine.physWrite
  refine .ite h (foldl (fun t _ _ g => g.modPkg) (foldl (fun t _ _ g => g.modPkg) ?_))
  refine .ite (modPkg ?_) ?_
  all_goals
    refine .modPkg (foldl (fun t x _ g => g.rewriteUnit slot x) ?_) rfl rfl
    exact foldl (fun t _ _ g => foldl (fun t _ _ g => g.rewriteUnit slot _) g) h

theorem storeVa (h : Stays l e s t) (k : TenantId) (va : Nat) (bs : List Byte) (setter : Nat) : Stays l e s (storeVa t k va bs setter).2 := by
  have desc := h.translated (getDesc_translated t k (va / 2 ^ 36))
  unfold Machine.storeVa
  split
  next eq => exact snd eq desc
  next d s1 eq =>
    have found := snd eq desc
    have way := found.translated (translate_translated s1 k (va / 2 ^ 36) d (va % 2 ^ 36) true false)
    split
    next eq => exact snd eq way
    next eq => exact snd eq way
    next eq => exact (snd eq way).physWrite ..

theorem pushEvent (h : Stays l False s t) (c : CtxId) : Stays l False s (pushEvent t c) := by
  unfold Machine.pushEvent
  dsimp only
  have written := fun (v : State) (g : Stays l False s v) (f : Ctx → Ctx) (hf : ∀ x, (f x).hostfwd = x.hostfwd) =>
    g.modCtx (c := c) (f := f) (fun _ => hf) False.elim
  split
  · exact written t h _ fun _ => rfl
  · refine .ite h ?_
    have record := h.storeVa (ctxTenant t c) ((t.ctx c).evqbase.toNat + 32 * ((t.ctx c).evqtail.toNat % 256))
    split
    next eq => exact written _ (snd eq (record _ _)) _ fun _ => rfl
    next eq => exact written _ (snd eq (record _ _)) _ fun _ => rfl
    next s1 eq =>
      have index := (snd eq (record _ _)).storeVa (ctxTenant t c) ((t.ctx c).evqbase.toNat + 8192)
      split
      next eq2 => exact written _ (snd eq2 (index _ _)) _ fun _ => rfl
      next eq2 => exact written _ (snd eq2 (index _ _)) _ fun _ => rfl
      next eq2 => exact written _ (snd eq2 (index _ _)) _ fun _ => rfl

/-! Scan commands. -/

theorem landLater (h : Stays l e s t) (r : BankRef) (k : StreamKind) (res : List Result) : Stays l e s (landLater t r k res) := h.modBank ..

theorem doneFor (h : Stays l e s t) (r : BankRef) (k : StreamKind) (dn : BitVec 4) : Stays l e s (doneFor t r k dn) := .ite (h.modBank ..) h

theorem finishScan (h : Stays l e s t) (c : CtxId) (n : Nat) (word : Word) : Stays l e s (finishScan t c n word) := by
  unfold Machine.finishScan
  split
  · exact h
  · have closed := h.modCtx (c := c) (f := fun y => { y with scans := y.scans.eraseIdx n })
    dsimp only
    refine .ite ?_ (postEvent ?_ ..)
    all_goals exact (closed.landLater ..).doneFor ..

theorem stopClocks (h : Stays l e s t) (u : SuiteId) (room core : Bool) : Stays l e s (stopClocks t u room core) := by
  unfold Machine.stopClocks
  dsimp only
  have stopped : Stays l e s (if (room && !(t.room u).stopped) = true then t.modRoom u fun x =>
      { x with stopped := true, stopBeat := shownBeat t u, rphase := BitVec.ofNat 3 (t.pkg.rcyc.toList.getD (dieOf u) 0).toNat } else t) :=
    .ite h.modRoom h
  exact .ite (modPkg (stopped.modSuite ..)) stopped

theorem damageSeg (h : Stays l e s t) (id : Nat) : Stays l e s (damageSeg t id) :=
  ((h.counted _).modRoom).modPkg

theorem damageTimes (h : Stays l e s t) (id n : Nat) : Stays l e s (damageTimes t id n) := foldl (fun _ _ _ g => g.damageSeg id) h

theorem l1Clear (h : Stays l e s t) (u : SuiteId) : Stays l e s (l1Clear t u) := h.modSuite ..

theorem lsWrite (h : Stays l e s t) (u : SuiteId) (a : Nat) (bs : List Byte) : Stays l e s (lsWrite t u a bs) := by
  unfold Machine.lsWrite
  refine modSuite ?_ u _
  have written := foldl (l := l) (e := e) (s := s) (f := fun s n => s.modSuite u fun x => { x with ls := memWrite x.ls (n * 64) (List.replicate 64 0xff) })
    (list := (unitsOf a bs.length 64).filter fun n => lsPoisoned t u (n * 64)) (fun _ _ _ g => g.modSuite ..) h
  exact .ite written (written.modPkg)

theorem dropOrigin (h : Stays l e s t) (from_ u : SuiteId) (w : Option Visit) : Stays l e s (dropOrigin t from_ u w) := by
  unfold Machine.dropOrigin
  split
  · exact h
  · refine .ite h (foldl (fun t b _ g => ?_) h)
    split
    · exact .ite (g.setBank ..) g
    · exact g

theorem coreUnload (h : Stays l e s t) (acting : TenantId) (u from_ : SuiteId) (bytes : List Byte) :
    Stays l e s (coreUnload t acting u from_ bytes) := by
  unfold Machine.coreUnload
  extract_lets a empty snap fe ph arr old mrec crec bank c cmds src x s1 s2 halt s3
  have dropped : Stays l e s s1 := (h.dropOrigin ..).dropOrigin ..
  have loaded : Stays l e s s2 := modPkg (dropped.setSuite u x)
  clear_value s2
  have whole : Stays l e s s3 := .ite (foldl (fun _ _ _ g => g.modRoom) loaded) loaded
  exact whole.l1Clear u

theorem lastOwner_feedUnload (x : Room) (b : Bool) (bytes : List Byte) : (feedUnload x b bytes).lastOwner = x.lastOwner := by
  unfold feedUnload
  dsimp only
  split
  · rfl
  · rfl

theorem lastOwner_accUnload (x : Room) (i : Nat) (bytes : List Byte) : (accUnload x i bytes).lastOwner = x.lastOwner := by
  unfold accUnload
  rfl

theorem lastOwner_peUnload (x : Room) (i : Nat) (bytes : List Byte) : (peUnload x i bytes).lastOwner = x.lastOwner := by
  unfold peUnload
  rfl

theorem lastOwner_controlUnload (acting : TenantId) (x : Room) (bytes : List Byte) :
    (controlUnload acting x bytes).lastOwner = x.lastOwner := by
  unfold controlUnload
  rfl

theorem doorUnload (h : Stays l e s t) (u : SuiteId) (i : Nat) (bytes : List Byte) : Stays l e s (doorUnload t u i bytes) := by
  unfold Machine.doorUnload
  refine .ite h (h.modRoom fun x => by split <;> rfl)

theorem unloadSeg (h : Stays l e s t) (acting : TenantId) (id : Nat) (from_ : SuiteId) (bytes : List Byte) :
    Stays l e s (unloadSeg t acting id from_ bytes) := by
  unfold Machine.unloadSeg
  dsimp only
  split
  · exact h.modRoom fun x => lastOwner_peUnload ..
  · exact h.modRoom fun x => lastOwner_feedUnload ..
  · exact h.modRoom fun x => lastOwner_feedUnload ..
  · exact modPkg (h.modRoom fun x => lastOwner_accUnload ..)
  · exact h.modRoom fun x => lastOwner_controlUnload ..
  · exact h.coreUnload ..
  · exact (h.lsWrite ..).l1Clear _
  · exact h.doorUnload ..

theorem loadEntry (h : Stays l e s t) (acting : TenantId) (x : SegEntry) (image : List Byte) : Stays l e s (loadEntry t acting x image) :=
  .ite (h.unloadSeg ..) (h.unloadSeg ..)

theorem accRead (h : Stays l e s t) (u : SuiteId) (k : Fin 32) (row col : Fin 128) : Stays l e s (accRead t u k row col).2 := by
  have dropped : Stays l e s (dropAccErrors t u k row fun c => c == col) := .ite h h.modPkg
  unfold Machine.accRead
  split
  · exact h
  · dsimp only
    exact modRoom (dropped.counted _)
  · dsimp only
    exact modRoom (h.counted _)

theorem accReadRow (h : Stays l e s t) (u : SuiteId) (k : Fin 32) (row : Fin 128) : Stays l e s (accReadRow t u k row).2 := by
  unfold Machine.accReadRow
  exact foldl_snd (fun q c g => by dsimp only; split; exacts [g, g.accRead ..]) h

theorem accPayload (h : Stays l e s t) (u : SuiteId) (b : Nat) : Stays l e s (accPayload t u b).2 := by
  have keeps := @accReadRow l e s
  obtain ⟨readRow, isRead⟩ : ∃ f, Machine.accReadRow = f := ⟨_, rfl⟩
  obtain ⟨rows, isRows⟩ : ∃ l, List.finRange 128 = l := ⟨_, rfl⟩
  obtain ⟨payload, isPayload⟩ : ∃ f, Machine.accPayload = f := ⟨_, rfl⟩
  rw [isPayload]
  delta Machine.accPayload at isPayload
  rw [isRead] at keeps isPayload
  rw [isRows] at isPayload
  subst isPayload
  exact foldl_snd (fun p y g => keeps g ..) h

theorem payloadOf (h : Stays l e s t) (id : Nat) : Stays l e s (payloadOf t id).2 := by
  have accumulator := h.accPayload (segRoom id) (segIndex id)
  unfold Machine.payloadOf
  dsimp only
  split
  · exact h
  · exact h
  · exact h
  · exact accumulator
  · exact h
  · dsimp only
    exact h.modPkg
  · exact h
  · exact h

theorem shiftEntry (h : Stays l e s t) (x : ScanCmd) (y : SegEntry) (off : Nat) (image : List Byte) :
    Stays l e s (shiftEntry t x y off image).2.2 := by
  have struck : Stays l e s (flueErrors t y.id.toNat).2 := by
    unfold flueErrors
    dsimp only
    exact h.modPkg
  have paid := struck.payloadOf y.id.toNat
  unfold Machine.shiftEntry
  split
  · split
    · exact h
    · exact h.loadEntry ..
  · split
    · dsimp only
      split
      · exact ((paid.fresh _).unloadSeg ..).damageTimes ..
      · exact paid
    · dsimp only
      split
      · exact ((struck.fresh _).loadEntry ..).damageTimes ..
      · exact (struck.loadEntry ..).modRoom

theorem shiftEntries (h : Stays l e s t) (x : ScanCmd) (p : SegEntry → Nat → Bool) : Stays l e s (shiftEntries t x p).2.2 := by
  unfold Machine.shiftEntries
  dsimp only
  generalize (entryPlaces x.entries).zipIdx = places
  have start : Stays l e s ((none : Option Nat), ([] : List (Nat × List Byte)), t).2.2 := h
  generalize ((none : Option Nat), ([] : List (Nat × List Byte)), t) = acc at start ⊢
  induction places generalizing acc with
  | nil => exact start
  | cons y places ih =>
    refine ih _ ?_
    dsimp only
    split
    · exact start.shiftEntry ..
    · exact start

theorem endScan (h : Stays l e s t) (die : Bool) (c : CtxId) (n : Nat) (x : ScanCmd) : Stays l e s (endScan t die c n x) := by
  unfold Machine.endScan
  split
  · exact (foldl (fun _ _ _ g => g.stopClocks ..) h).finishScan ..
  · refine Stays.finishScan (foldl (fun _ _ _ g => g.storeVa ..) ?_) ..
    show Stays l e s (if (!x.shifting) = true then (([] : List (Nat × List Byte)), t) else
      if x.shifted = true then (x.lines, t) else (Machine.shiftEntries t x _).2).2
    split
    · exact h
    · split
      · exact h
      · exact h.shiftEntries ..

theorem endScans (h : Stays l e s t) (die : Bool) (rooms : List SuiteId) : Stays l e s (endScans t die rooms) :=
  foldl (fun _ _ _ g => foldl (fun _ _ _ g => .ite (g.endScan ..) g) g) h

/-! Aborted Visits. Their launches change. -/

theorem postEnd (h : Stays False e s t) (k : TenantId) (id : W32) (status source : Nat) : Stays False e s (postEnd t k id status source) :=
  (h.modTenant).postEvent ..

theorem failDependents (k : TenantId) : ∀ (n : Nat) (ids : List W32) {t : State}, Stays False e s t → Stays False e s (failDependents k n ids t)
  | 0, _, _, h => h
  | _ + 1, [], _, h => h
  | n + 1, _ :: _, _, h => failDependents k n _ (foldl (fun _ _ _ g => g.postEnd ..) h)

theorem settleLaunch (h : Stays False e s t) (k : TenantId) (id : W32) (source : Nat) : Stays False e s (settleLaunch t k id source) := by
  have ended : ∀ status, Stays False e s (endLaunch t k id status source) := fun status =>
    .ite (h.postEnd ..) (failDependents k _ _ (h.postEnd ..))
  unfold Machine.settleLaunch
  split
  · exact h
  · exact .ite (ended 0) (.ite (ended 1) h)

theorem modLaunch (h : Stays False e s t) (k : TenantId) (id : W32) (f : Launch → Launch) : Stays False e s (modLaunch t k id f) :=
  h.modTenant

theorem freeMonitor (h : Stays l e s t) (r : BankRef) : Stays l e s (freeMonitor t r) := h.modPkg

theorem endBankRuns (h : Stays l e s t) (lead : SuiteId) (b : Fin 2) : Stays l e s (endBankRuns t lead b) := by
  unfold Machine.endBankRuns
  dsimp only
  have emptied := fun (f : Room → Room) (g : Suite → Suite) (hf : ∀ x, (f x).lastOwner = x.lastOwner) => (h.modRoom (u := lead) hf).modSuite lead g
  refine .ite h (.ite (modRoom ?_) ?_)
  all_goals
    refine foldl (fun _ _ _ g => g.modRoom fun x => by split <;> rfl) (emptied _ _ fun _ => rfl)

theorem abortCommands (h : Stays l e s t) (u : SuiteId) (b : Fin 2) : Stays l e s (abortCommands t u b) := by
  obtain ⟨z, lowered, eq⟩ := abortCommands_eq t u b
  rw [eq]
  exact (h.translated lowered).modSuite ..

theorem releaseHalts (h : Stays l e s t) (u : SuiteId) (b : Fin 2) : Stays l e s (releaseHalts t u b) :=
  ⟨fun v => ((congrArg Room.lastOwner (vget_map ..) :).trans (h.owner v)), h.mask, h.detctl, h.host, h.keys, h.rcyc, h.launches, h.events⟩

theorem releaseBank (h : Stays l e s t) (u : SuiteId) (b : Fin 2) (keep : Bool) : Stays l e s (releaseBank t u b keep) := by
  unfold Machine.releaseBank
  have emptied : Stays l e s (if (t.suite u).chanter.bank = b then t.modRoom u fun x => { x with drone := { x.drone with queue := [], queueNew := 0 } } else t) :=
    .ite h.modRoom h
  exact (((emptied.modRoom).freeMonitor _).modSuite ..).modBank ..

theorem abortVisit (h : Stays False e s t) (b : Fin 2) (v : Visit) (replace : Bool) : Stays False e s (abortVisit t b v replace) := by
  unfold Machine.abortVisit
  refine settleLaunch (modPkg (modLaunch ?_ ..)) ..
  refine foldl (fun _ _ _ g => ((g.abortCommands ..).releaseHalts ..).releaseBank ..) ?_
  exact foldl (fun _ _ _ g => .ite (g.endBankRuns ..) g) h

theorem abortRooms {done : SuiteId → State → State} (hd : ∀ u t, Stays False e s t → Stays False e s (done u t)) (h : Stays False e s t)
    (rooms : List SuiteId) : Stays False e s (abortRooms t rooms done) := by
  refine foldl (fun _ u _ g => foldl (fun t b _ g => ?_) g) h
  split
  · exact hd u _ (g.abortVisit ..)
  · exact g

/-! Rooms at zero, passages, collectives. -/

theorem zeroRoom (h : Stays l e s t) (stopped : Bool) (u : SuiteId) : Stays l e s (zeroRoom stopped t u) := by
  have freed : Stays l e s (unstruck t u) := (((h.modPkg : Stays l e s (dropRoomErrors t u)).freeMonitor _).freeMonitor _)
  have zeroed : Stays l e s ((unstruck t u).setSuite u { Suite.reset with stopped := stopped }) := freed.setSuite ..
  rw [zeroRoom_eq]
  have roomed := zeroed.setRoom (u := u) (x := zeroedRoom stopped (t.room u) u) rfl
  exact roomed.modPkg

theorem modPassage (h : Stays l e s t) (b : Fin 5) (p : Fin 8) (f : Passage → Passage) : Stays l e s (modPassage t b p f) := h.modPkg

theorem dropPassage (h : Stays l e s t) (k : TenantId) (b : Fin 5) (p : Fin 8) : Stays l e s (dropPassage k t b p) :=
  .ite h (.ite ((h.modPassage ..).sendPacket ..) (h.modPassage ..))

theorem holdBank (h : Stays l e s t) (r : BankRef) (x : Trap) : Stays l e s (holdBank t r x) := (h.modBank ..).postEvent ..

theorem runTrap (h : Stays l e s t) (u : SuiteId) (x : Engine) (n : Nat) (cause : BitVec 8) (tval : Option Nat) :
    Stays l e s (runTrap t u x n cause tval) := by
  unfold Machine.runTrap
  split
  · exact h
  · refine .ite (.ite h (h.modSuite ..)) ?_
    exact .ite (modBank (h.modSuite ..) ..) (holdBank (h.modSuite ..) ..)

theorem abandonInst (h : Stays l e s t) (i : Nat) : Stays l e s (abandonInst t i) := by
  unfold Machine.abandonInst
  split
  · exact h
  · refine .ite h (foldl (fun t x _ g => ?_) (.ite (sendPacket h.modPkg ..) h.modPkg))
    obtain ⟨r, u⟩ := x
    dsimp only
    split
    · exact g.runTrap ..
    · exact g

/-! The contexts of a tenant. -/

theorem flushEvents (c : CtxId) : ∀ (n : Nat) {t : State}, Stays l False s t → Stays l False s (flushEvents c n t)
  | 0, _, h => h
  | n + 1, _, h => .ite h (flushEvents c n (h.pushEvent c))

theorem resetContext (h : Stays l e s t) (k : TenantId) {c : CtxId} (other : c ≠ hypervisor) : Stays l e s (resetContext k t c) := by
  unfold Machine.resetContext
  refine modCtx (h.freeMonitor _) (fun same => absurd same other) fun _ x y mem => ?_
  split <;> exact mem

theorem freeLocks (h : Stays l e s t) (k : TenantId) : Stays l e s (freeLocks t k) := foldl (fun _ _ _ g => g.modCtx) h

end Stays

/-! ### What a part of a reset brings about -/

/-- What one element of a list brings about, and every element keeps, holds after a fold over the list. -/
theorem foldl_establishes {α β : Type} {f : β → α → β} {P : β → Prop} {a : α} (make : ∀ b, P (f b a)) (keep : ∀ b x, P b → P (f b x)) :
    ∀ {l : List α}, a ∈ l → ∀ b, P (l.foldl f b)
  | x :: l, mem, b => by
    rcases List.mem_cons.mp mem with rfl | later
    · exact List.foldlRecOn l f (make b) fun b held x _ => keep b x held
    · exact foldl_establishes make keep later _

section
variable (s : State) (stopped : Bool) (u v : SuiteId)

theorem suite_zeroRoom : (zeroRoom stopped s u).suite v = if u = v then { Suite.reset with stopped := stopped } else s.suite v := by
  rw [zeroRoom_eq]
  exact State.suite_setSuite ..

theorem room_zeroRoom : (zeroRoom stopped s u).room v = if u = v then zeroedRoom stopped (s.room u) u else s.room v := by
  rw [zeroRoom_eq]
  exact State.room_setRoom ..

end

/-- The last event of the hypervisor after a reset-complete event. -/
theorem events_resetComplete (s : State) (tenant source level : Nat) :
    ((resetComplete s tenant source level).ctx hypervisor).events = (s.ctx hypervisor).events ++
      [⟨(resetComplete s tenant source level).pkg.eventSeq - 1, 7, tenant, source, BitVec.ofNat 128 level, (s.ctx hypervisor).hostfwd⟩] := by
  have numbered : (resetComplete s tenant source level).pkg.eventSeq = s.pkg.eventSeq + 1 := eventSeq_postEvent ..
  rw [numbered]
  exact events_postEvent ..

theorem resetComplete_announced (s : State) (tenant source level : Nat) : Announced s (resetComplete s tenant source level) := postEvent_announced ..

/-! ### Room and die -/

section
variable (s : State)

/-- A room is reset, but for the event. -/
def roomCleared (u : SuiteId) : State := zeroRoom true (abortRooms (endScans s false [u]) [u] fun _ s => s) u

theorem roomCleared_stays (u : SuiteId) : Stays False True s (roomCleared s u) :=
  (Stays.abortRooms (fun _ _ g => g) ((Stays.refl s).endScans ..) _).zeroRoom ..

theorem exec_resetRoom (u : SuiteId) : exec (.resetRoom u) s =
    .next (resetComplete (roomCleared s u) (match ownerOf? s u with | some t => t.val | none => 0) u.val 3) := rfl

theorem resetRoom_leaves (u : SuiteId) : answers (.resetRoom u) s fun z =>
    let r := z.room u
    z.suite u = { Suite.reset with stopped := true } ∧ r.stopped = true ∧ r.acc = (Room.reset u).acc ∧ r.pes = (Room.reset u).pes ∧ r.runs = [] ∧
    r.lastOwner = (s.room u).lastOwner ∧ (∀ t, (z.tenant t).mask = (s.tenant t).mask) ∧
    ∃ l, (z.ctx hypervisor).events = l ++ [⟨z.pkg.eventSeq - 1, 7, (match ownerOf? s u with | some t => t.val | none => 0), u.val, 3, (s.ctx hypervisor).hostfwd⟩] := by
  have stays := roomCleared_stays s u
  have room : (roomCleared s u).room u = zeroedRoom true _ u := (room_zeroRoom ..).trans (if_pos rfl)
  have suite : (roomCleared s u).suite u = { Suite.reset with stopped := true } := (suite_zeroRoom ..).trans (if_pos rfl)
  generalize tenant : (match ownerOf? s u with | some t => t.val | none => 0) = n
  have told := resetComplete_announced (roomCleared s u) n u.val 3
  have ends := events_resetComplete (roomCleared s u) n u.val 3
  refine ⟨resetComplete (roomCleared s u) n u.val 3, (exec_resetRoom s u).trans (by rw [← tenant]), ?_⟩
  rw [stays.host] at ends
  dsimp only
  rw [told.room, told.suite, room, suite]
  refine ⟨rfl, rfl, rfl, rfl, rfl, ?_, fun t => ?_, _, ends⟩
  · rw [← stays.owner u, room]
  · rw [told.tenant]
    exact stays.mask t

/-- A room of a die that is reset is zeroed, a wing of its own, with its clocks running. -/
def dieRoom (s : State) (u : SuiteId) : State := (zeroRoom false s u).modRoom u fun x => { x with wingLead := u, wingShape := 0 }

/-- What the reset of its die makes of a room and its Suite. -/
def FreshRoom (z : State) (u : SuiteId) : Prop :=
  z.suite u = { Suite.reset with stopped := false } ∧ (z.room u).stopped = false ∧ (z.room u).wingLead = u ∧
    (z.room u).wingShape = 0 ∧ (z.room u).acc = (Room.reset u).acc ∧ (z.room u).pes = (Room.reset u).pes

theorem freshRoom_dieRoom_same (u : SuiteId) : FreshRoom (dieRoom s u) u := by
  have suite : (dieRoom s u).suite u = { Suite.reset with stopped := false } := (suite_zeroRoom s false u u).trans (if_pos rfl)
  have room : (dieRoom s u).room u = { zeroedRoom false (s.room u) u with wingLead := u, wingShape := 0 } := by
    unfold dieRoom
    rw [State.room_modRoom, if_pos rfl, room_zeroRoom, if_pos rfl]
  refine ⟨suite, ?_⟩
  rw [room]
  exact ⟨rfl, rfl, rfl, rfl, rfl⟩

theorem freshRoom_dieRoom_keeps (u v : SuiteId) (h : FreshRoom s u) : FreshRoom (dieRoom s v) u := by
  by_cases same : v = u
  · subst same
    exact freshRoom_dieRoom_same s v
  · have suite : (dieRoom s v).suite u = s.suite u := (suite_zeroRoom s false v u).trans (if_neg same)
    have room : (dieRoom s v).room u = s.room u := by
      unfold dieRoom
      rw [State.room_modRoom, if_neg same, room_zeroRoom, if_neg same]
    unfold FreshRoom
    rw [suite, room]
    exact h

/-- The rooms of a die after its reset. -/
def dieCleared (d : DieId) : State :=
  let rooms := (List.finRange 64).filter fun u => dieOf u == d.val
  rooms.foldl dieRoom (abortRooms (endScans s true rooms) rooms fun _ s => s)

/-- A die is reset, but for the event. -/
def dieReset (d : DieId) : State :=
  (clearBoundary (clearBoundary (dieCleared s d) ⟨d.val, by omega⟩) (if d.val = 0 then 4 else ⟨d.val - 1, by omega⟩)).modPkg fun p =>
    { p with rcyc := p.rcyc.set d.val 0 d.isLt, throttle := p.throttle.set d.val 0 d.isLt,
             l2 := p.l2.map fun x => if x.port / 384 = d.val then ⟨x.port, [], 0, 63, [], []⟩ else x }

theorem dieCleared_stays (d : DieId) : Stays False True s (dieCleared s d) :=
  Stays.foldl (fun _ _ _ g => (g.zeroRoom ..).modRoom) (Stays.abortRooms (fun _ _ g => g) ((Stays.refl s).endScans ..) _)

theorem dieCleared_fresh (d : DieId) {u : SuiteId} (here : dieOf u = d.val) : FreshRoom (dieCleared s d) u :=
  foldl_establishes (P := fun z => FreshRoom z u) (fun t => freshRoom_dieRoom_same t u) (fun t v => freshRoom_dieRoom_keeps t u v)
    (List.mem_filter.mpr ⟨List.mem_finRange u, by simpa using here⟩) _

theorem suite_dieReset (d : DieId) (u : SuiteId) : (dieReset s d).suite u = (dieCleared s d).suite u := rfl
theorem room_dieReset (d : DieId) (u : SuiteId) : (dieReset s d).room u = (dieCleared s d).room u := rfl

theorem exec_resetDie (d : DieId) : exec (.resetDie d) s = .next (resetComplete (dieReset s d) 0 (256 + 127) 1) := rfl

theorem resetDie_leaves (d : DieId) : answers (.resetDie d) s fun z =>
    (∀ u, dieOf u = d.val → z.suite u = { Suite.reset with stopped := false } ∧ (z.room u).stopped = false ∧ (z.room u).wingLead = u ∧
      (z.room u).wingShape = 0 ∧ (z.room u).acc = (Room.reset u).acc ∧ (z.room u).pes = (Room.reset u).pes ∧ (z.room u).lastOwner = (s.room u).lastOwner) ∧
    z.pkg.rcyc.get d = 0 ∧ (∀ e, e ≠ d → z.pkg.rcyc.get e = s.pkg.rcyc.get e) ∧ (∀ t, (z.tenant t).mask = (s.tenant t).mask) ∧
    ∃ l, (z.ctx hypervisor).events = l ++ [⟨z.pkg.eventSeq - 1, 7, 0, 256 + 127, 1, (s.ctx hypervisor).hostfwd⟩] := by
  have stays := dieCleared_stays s d
  have told := resetComplete_announced (dieReset s d) 0 (256 + 127) 1
  have ends := events_resetComplete (dieReset s d) 0 (256 + 127) 1
  have host : ((dieReset s d).ctx hypervisor).hostfwd = (s.ctx hypervisor).hostfwd := stays.host
  have cycles : (resetComplete (dieReset s d) 0 (256 + 127) 1).pkg.rcyc = s.pkg.rcyc.set d.val 0 d.isLt := by
    obtain ⟨_, _, pkg⟩ := told.pkg
    rw [pkg]
    show (dieCleared s d).pkg.rcyc.set d.val 0 d.isLt = _
    rw [stays.rcyc]
  rw [host] at ends
  refine ⟨_, exec_resetDie s d, fun u here => ?_, ?_, fun e other => ?_, fun t => ?_, _, ends⟩
  · obtain ⟨suite, stopped, lead, shape, acc, pes⟩ := dieCleared_fresh s d here
    rw [told.suite, told.room, suite_dieReset, room_dieReset]
    exact ⟨suite, stopped, lead, shape, acc, pes, stays.owner u⟩
  · exact (congrArg (·.get d) cycles).trans ((vget_set ..).trans (if_pos rfl))
  · exact (congrArg (·.get e) cycles).trans ((vget_set ..).trans (if_neg other.symm))
  · rw [told.tenant]
    exact stays.mask t

end

/-! ### Tenant -/

/-- Only the package and the free choices lie between two states. -/
structure OnlyPackage (s t : State) : Prop where
  shape : ∃ pkg fresh, t = { s with pkg := pkg, fresh := fresh }

namespace OnlyPackage
variable {s t v : State}

theorem refl (s : State) : OnlyPackage s s := ⟨_, _, rfl⟩

theorem trans (h : OnlyPackage s t) (g : OnlyPackage t v) : OnlyPackage s v := by
  obtain ⟨_, _, rfl⟩ := h.shape
  obtain ⟨_, _, rfl⟩ := g.shape
  exact ⟨_, _, rfl⟩

theorem modPkg (h : OnlyPackage s t) (f : Package → Package) : OnlyPackage s (t.modPkg f) := h.trans ⟨_, _, rfl⟩

theorem foldl {α : Type} {f : State → α → State} (hf : ∀ t x, OnlyPackage s t → OnlyPackage s (f t x)) (h : OnlyPackage s t) (list : List α) :
    OnlyPackage s (list.foldl f t) := List.foldlRecOn list f h fun t g x _ => hf t x g

theorem sendPacket (h : OnlyPackage s t) (kind peer : Nat) (k : TenantId) (bytes : List Byte) :
    OnlyPackage s (sendPacket t kind peer k bytes) := by
  unfold Machine.sendPacket
  split
  · exact h.modPkg _
  · exact h.trans ⟨_, _, rfl⟩

theorem dropPassage (h : OnlyPackage s t) (k : TenantId) (b : Fin 5) (p : Fin 8) : OnlyPackage s (dropPassage k t b p) := by
  unfold Machine.dropPassage
  dsimp only
  split
  · exact h
  · split
    · exact (h.modPkg _).sendPacket ..
    · exact h.modPkg _

theorem suites (h : OnlyPackage s t) : t.suites = s.suites := by obtain ⟨_, _, rfl⟩ := h.shape; rfl
theorem rooms (h : OnlyPackage s t) : t.rooms = s.rooms := by obtain ⟨_, _, rfl⟩ := h.shape; rfl
theorem ctxs (h : OnlyPackage s t) : t.ctxs = s.ctxs := by obtain ⟨_, _, rfl⟩ := h.shape; rfl
theorem tenants (h : OnlyPackage s t) : t.tenants = s.tenants := by obtain ⟨_, _, rfl⟩ := h.shape; rfl

end OnlyPackage

section
variable (s : State) (t : TenantId)

/-- The rooms of a tenant. -/
def roomsOf : List SuiteId := (List.finRange 64).filter fun u => owns s t u

/-- The rings of the tenant's contexts are closed, after the scan commands of its rooms have ended. -/
def closedRings : State :=
  (contextsOf s t).foldl (fun s c => (flushEvents c (s.ctx c).events.length s).modCtx c closeRing) (endScans s false (roomsOf s t))

/-- The tenant's launches have ended. -/
def endedLaunches : State :=
  ((closedRings s t).tenant t).launches.foldl (fun s x => postEnd s t x.id 1 (256 + t.val)) (closedRings s t)

/-- The tenant's rooms stand at zero. -/
def zeroedRooms : State :=
  (roomsOf s t).foldl (zeroRoom true) (abortRooms (endedLaunches s t) (roomsOf s t) fun u s => postEvent s (supervisor t) evReset t.val u.val 4)

/-- The tenant's keys are drawn anew, and what of its traffic is under way is gone. -/
def redrawn : State :=
  ((List.finRange 128).filter fun k => ((zeroedRooms s t).pkg.keys.get k).tenant == some t).foldl (fun s k => drawKey s k (some t))
    (dropTraffic (zeroedRooms s t) t (contextsOf s t))

/-- The tenant's passages are disabled. -/
def unpassed : State := (List.finRange 5).foldl (fun s b => (List.finRange 8).foldl (fun s p => dropPassage t s b p) s) (redrawn s t)

/-- The tenant's collectives are abandoned. -/
def uncollected : State :=
  ((List.range (unpassed s t).pkg.colls.length).filter fun i => match (unpassed s t).pkg.colls[i]? with
    | some x => x.tenant == t && !x.closed
    | none => false).foldl abandonInst (unpassed s t)

/-- The tenant's registers are cleared and its contexts stopped. -/
def tenantReset : State := (contextsOf s t).foldl (resetContext t) ((freeLocks (uncollected s t) t).modTenant t clearedTenant)

theorem exec_resetTenant : exec (.resetTenant t) s = .next (resetComplete (tenantReset s t) t.val (256 + t.val) 2) := rfl

theorem mem_contextsOf {c : CtxId} (mem : c ∈ contextsOf s t) : c ≠ hypervisor := by
  rintro rfl
  unfold contextsOf at mem
  rw [List.mem_filter, Bool.or_eq_true, Bool.and_eq_true, Bool.and_eq_true, beq_iff_eq, decide_eq_true_iff, decide_eq_true_iff] at mem
  obtain ⟨-, super | ⟨⟨-, low⟩, -⟩⟩ := mem
  · exact supervisor_ne_hypervisor t super.symm
  · exact absurd low (by decide)

theorem supervisor_mem_contextsOf : supervisor t ∈ contextsOf s t := by
  unfold contextsOf
  rw [List.mem_filter]
  exact ⟨List.mem_finRange _, by rw [beq_self_eq_true, Bool.true_or]⟩

/-! What each part leaves. -/

theorem dropTraffic_onlyPackage (ctxs : List CtxId) : OnlyPackage s (dropTraffic s t ctxs) := ⟨_, _, rfl⟩

theorem closedRings_stays : Stays True False s (closedRings s t) :=
  Stays.foldl (fun _ _ mem g => (g.flushEvents ..).modCtx (fun same => absurd same (mem_contextsOf s t mem)) False.elim) ((Stays.refl s).endScans ..)

theorem endedLaunches_stays : Stays False True (closedRings s t) (endedLaunches s t) := Stays.foldl (fun _ _ _ g => g.postEnd ..) (.refl _)

theorem zeroedRooms_stays : Stays False True (endedLaunches s t) (zeroedRooms s t) :=
  Stays.foldl (fun _ _ _ g => g.zeroRoom ..) (Stays.abortRooms (fun _ _ g => g.postEvent ..) (.refl _) _)

theorem redrawn_onlyPackage : OnlyPackage (zeroedRooms s t) (redrawn s t) :=
  OnlyPackage.foldl (f := fun s k => drawKey s k (some t)) (fun _ _ g => g.modPkg _) (dropTraffic_onlyPackage ..) _

theorem unpassed_onlyPackage : OnlyPackage (redrawn s t) (unpassed s t) :=
  .foldl (fun _ b g => .foldl (fun _ p g => g.dropPassage t b p) g _) (.refl _) _

theorem unpassed_stays : Stays True True (redrawn s t) (unpassed s t) :=
  Stays.foldl (fun _ _ _ g => Stays.foldl (fun _ _ _ g => g.dropPassage ..) g) (.refl _)

theorem uncollected_stays : Stays True True (unpassed s t) (uncollected s t) := Stays.foldl (fun _ _ _ g => g.abandonInst _) (.refl _)

theorem tenantReset_stays : Stays False True (uncollected s t) (tenantReset s t) := by
  refine Stays.foldl (fun _ _ mem g => g.resetContext t (mem_contextsOf s t mem)) ?_
  exact (Stays.freeLocks (.refl _) t).modTenant

/-! The rooms. -/

/-- A room and its Suite stand at their reset values with both clocks stopped. -/
def AtRest (z : State) (u : SuiteId) : Prop :=
  z.suite u = { Suite.reset with stopped := true } ∧ (z.room u).stopped = true ∧ (z.room u).acc = (Room.reset u).acc

theorem AtRest.of_same {y z : State} {u : SuiteId} (suite : z.suite u = y.suite u) (room : z.room u = y.room u) (h : AtRest y u) : AtRest z u := by
  unfold AtRest
  rw [suite, room]
  exact h

theorem atRest_zeroRoom_same (z : State) (u : SuiteId) : AtRest (zeroRoom true z u) u := by
  unfold AtRest
  rw [suite_zeroRoom, if_pos rfl, room_zeroRoom, if_pos rfl]
  exact ⟨rfl, rfl, rfl⟩

theorem atRest_zeroRoom_keeps (z : State) (u v : SuiteId) (h : AtRest z u) : AtRest (zeroRoom true z v) u := by
  by_cases same : v = u
  · subst same
    exact atRest_zeroRoom_same z v
  · exact h.of_same ((suite_zeroRoom ..).trans (if_neg same)) ((room_zeroRoom ..).trans (if_neg same))

/-- A trap of a command of another Suite leaves a Suite and the rooms. -/
theorem runTrap_elsewhere (z : State) {u v : SuiteId} (other : v ≠ u) (e : Engine) (n : Nat) (cause : BitVec 8) (tval : Option Nat) :
    (runTrap z v e n cause tval).suite u = z.suite u ∧ (runTrap z v e n cause tval).room u = z.room u := by
  have queues : ∀ f, (modRunning z v e f).suite u = z.suite u ∧ (modRunning z v e f).room u = z.room u := fun f =>
    ⟨(State.suite_modSuite ..).trans (if_neg other), rfl⟩
  have bank : ∀ (y : State) (b : Fin 2) (f : Bank → Bank), (y.modBank (.bank v b) f).suite u = y.suite u ∧ (y.modBank (.bank v b) f).room u = y.room u :=
    fun y b f => ⟨(State.suite_setSuite ..).trans (if_neg other), rfl⟩
  unfold runTrap
  split
  · exact ⟨rfl, rfl⟩
  · split
    · split
      · exact ⟨rfl, rfl⟩
      · exact queues _
    · unfold engineTrap
      dsimp only
      split
      · exact ⟨(bank ..).1.trans (queues _).1, (bank ..).2.trans (queues _).2⟩
      · have told := postEvent_announced
        unfold holdBank
        dsimp only
        rw [(told ..).suite, (told ..).room]
        exact ⟨(bank ..).1.trans (queues _).1, (bank ..).2.trans (queues _).2⟩

/-- A Suite at rest runs no collective. -/
theorem collCmd_atRest {z : State} {u : SuiteId} (h : AtRest z u) (i : Nat) : collCmd z u i = none := by
  unfold collCmd findRunning
  rw [h.1]
  rfl

theorem atRest_abandonInst {z : State} {u : SuiteId} (h : AtRest z u) (i : Nat) : AtRest (abandonInst z i) u := by
  have packet : ∀ y (x : CollInst), AtRest y u → AtRest (sendAbandon y x) u := fun y x g =>
    have only := (OnlyPackage.refl y).sendPacket 8 0xffff x.tenant (instName x)
    g.of_same (congrArg (·.get u) only.suites) (congrArg (·.get u) only.rooms)
  unfold abandonInst
  split
  · exact h
  · split
    · exact h
    · refine List.foldlRecOn (motive := fun y => AtRest y u) _ _ ?_ fun y rest rank _ => ?_
      · split
        · exact packet _ _ h
        · exact h
      · obtain ⟨r, v⟩ := rank
        dsimp only
        split
        next k found =>
          have other : v ≠ u := by
            rintro rfl
            rw [collCmd_atRest rest] at found
            cases found
          obtain ⟨suite, room⟩ := runTrap_elsewhere y other .c k cCOLLERR none
          exact rest.of_same suite room
        next => exact rest

theorem freeLocks_places (y : State) :
    (freeLocks y t).suites = y.suites ∧ (freeLocks y t).rooms = y.rooms ∧ (freeLocks y t).tenants = y.tenants :=
  List.foldlRecOn (motive := fun z : State => z.suites = y.suites ∧ z.rooms = y.rooms ∧ z.tenants = y.tenants) _ _ ⟨rfl, rfl, rfl⟩
    fun _ same _ _ => same

theorem tenants_cleared (y z : State) (same : z.tenants = y.tenants) :
    (z.modTenant t clearedTenant).tenants = (y.modTenant t clearedTenant).tenants := by
  show z.tenants.set t.val (clearedTenant (z.tenants.get t)) t.isLt = _
  rw [same]
  rfl

theorem resetContexts_places (y z : State) (ctxs : List CtxId) (h : z.suites = y.suites ∧ z.rooms = y.rooms ∧ z.tenants = y.tenants) :
    (ctxs.foldl (resetContext t) z).suites = y.suites ∧ (ctxs.foldl (resetContext t) z).rooms = y.rooms ∧
      (ctxs.foldl (resetContext t) z).tenants = y.tenants :=
  List.foldlRecOn (motive := fun z : State => z.suites = y.suites ∧ z.rooms = y.rooms ∧ z.tenants = y.tenants) _ _ h fun _ same _ _ => same

/-- What the contexts' part of the reset leaves: Suites, rooms, and the tenants once their registers are cleared. -/
theorem tenantReset_places : (tenantReset s t).suites = (uncollected s t).suites ∧ (tenantReset s t).rooms = (uncollected s t).rooms ∧
    (tenantReset s t).tenants = ((uncollected s t).modTenant t clearedTenant).tenants := by
  unfold tenantReset
  generalize uncollected s t = y
  obtain ⟨suites, rooms, tenants⟩ := freeLocks_places t y
  exact resetContexts_places t (y.modTenant t clearedTenant) _ _ ⟨suites, rooms, tenants_cleared t _ _ tenants⟩

theorem tenantReset_atRest {u : SuiteId} (own : owns s t u = true) : AtRest (tenantReset s t) u := by
  have zeroed : AtRest (zeroedRooms s t) u := foldl_establishes (P := fun z => AtRest z u) (fun z => atRest_zeroRoom_same z u)
    (fun z v => atRest_zeroRoom_keeps z u v) (List.mem_filter.mpr ⟨List.mem_finRange u, own⟩) _
  have only := (redrawn_onlyPackage s t).trans (unpassed_onlyPackage s t)
  have unpassed := zeroed.of_same (congrArg (·.get u) only.suites) (congrArg (·.get u) only.rooms)
  have uncollected : AtRest (uncollected s t) u := List.foldlRecOn (motive := fun y => AtRest y u) _ _ unpassed fun y rest i _ => atRest_abandonInst rest i
  obtain ⟨suites, rooms, -⟩ := tenantReset_places s t
  exact uncollected.of_same (congrArg (·.get u) suites) (congrArg (·.get u) rooms)

/-! The keys. -/

theorem keys_drawAll (t : TenantId) : ∀ {l : List (Fin 128)}, l.Nodup → ∀ (z : State) (k : Fin 128),
    (l.foldl (fun s k => drawKey s k (some t)) z).pkg.keys.get k =
      if k ∈ l then ⟨some t, (z.pkg.keys.get k).draw + 1⟩ else z.pkg.keys.get k
  | [], _, z, k => by simp
  | x :: l, distinct, z, k => by
    obtain ⟨fresh, rest⟩ := List.nodup_cons.mp distinct
    have drawn : (drawKey z x (some t)).pkg.keys.get k = if x = k then ⟨some t, (z.pkg.keys.get x).draw + 1⟩ else z.pkg.keys.get k := vget_set ..
    rw [List.foldl_cons, keys_drawAll t rest, drawn]
    by_cases same : x = k
    · subst same
      simp [fresh]
    · simp [same, Ne.symm same]

theorem tenantReset_keys (k : Fin 128) : (tenantReset s t).pkg.keys.get k =
    if (s.pkg.keys.get k).tenant = some t then ⟨some t, (s.pkg.keys.get k).draw + 1⟩ else s.pkg.keys.get k := by
  have before : (zeroedRooms s t).pkg.keys = s.pkg.keys :=
    (zeroedRooms_stays s t).keys.trans ((endedLaunches_stays s t).keys.trans (closedRings_stays s t).keys)
  have after : (tenantReset s t).pkg.keys = (redrawn s t).pkg.keys :=
    (tenantReset_stays s t).keys.trans ((uncollected_stays s t).keys.trans (unpassed_stays s t).keys)
  have drawn := keys_drawAll t ((List.nodup_finRange 128).filter fun k => ((zeroedRooms s t).pkg.keys.get k).tenant == some t)
    (dropTraffic (zeroedRooms s t) t (contextsOf s t)) k
  have untouched : (dropTraffic (zeroedRooms s t) t (contextsOf s t)).pkg.keys = s.pkg.keys := before
  rw [after]
  refine drawn.trans ?_
  rw [untouched, before]
  simp

/-! The tenant and its contexts. -/

theorem tenantReset_tenant : (tenantReset s t).tenant t = clearedTenant ((uncollected s t).tenant t) := by
  obtain ⟨-, -, tenants⟩ := tenantReset_places s t
  exact (congrArg (·.get t) tenants).trans ((State.tenant_modTenant ..).trans (if_pos rfl))

/-- The tenant's mask and DETCTL, before its registers are cleared. -/
theorem uncollected_mask : ((uncollected s t).tenant t).mask = (s.tenant t).mask ∧ ((uncollected s t).tenant t).detctl = (s.tenant t).detctl := by
  have only : (unpassed s t).tenant t = (zeroedRooms s t).tenant t :=
    congrArg (·.get t) ((redrawn_onlyPackage s t).trans (unpassed_onlyPackage s t)).tenants
  have late := uncollected_stays s t
  have zeroed := zeroedRooms_stays s t
  have ended := endedLaunches_stays s t
  have closed := closedRings_stays s t
  constructor
  · rw [late.mask, only, zeroed.mask, ended.mask, closed.mask]
  · rw [late.detctl, only, zeroed.detctl, ended.detctl, closed.detctl]

/-- A context that has stopped with its segment table gone. -/
def Shut (z : State) (c : CtxId) : Prop := (z.ctx c).running = false ∧ (z.ctx c).segbase = 0

theorem shut_resetContext_same (z : State) : Shut (resetContext t z (supervisor t)) (supervisor t) := by
  have made : (resetContext t z (supervisor t)).ctx (supervisor t) = _ := (State.ctx_modCtx ..).trans (if_pos rfl)
  unfold Shut
  rw [made, if_pos rfl]
  exact ⟨rfl, rfl⟩

theorem shut_resetContext_keeps (z : State) (c : CtxId) (h : Shut z (supervisor t)) : Shut (resetContext t z c) (supervisor t) := by
  by_cases same : c = supervisor t
  · rw [same]
    exact shut_resetContext_same t z
  · have kept : (resetContext t z c).ctx (supervisor t) = z.ctx (supervisor t) := (State.ctx_modCtx ..).trans (if_neg same)
    unfold Shut
    rw [kept]
    exact h

theorem tenantReset_shut : Shut (tenantReset s t) (supervisor t) :=
  foldl_establishes (P := fun z => Shut z (supervisor t)) (fun z => shut_resetContext_same t z) (fun z c => shut_resetContext_keeps t z c)
    (supervisor_mem_contextsOf s t) _

/-- The completion event of a launch is among those of the supervisor. -/
def LaunchTold (z : State) (id : W32) : Prop :=
  ∃ e, e ∈ (z.ctx (supervisor t)).events ∧ e.kind = 1 ∧ e.payload = BitVec.ofNat 128 (id.toNat + 2 ^ 32)

theorem LaunchTold.later {y z : State} {id : W32} (h : LaunchTold t y id) (keeps : Stays False True y z) : LaunchTold t z id := by
  obtain ⟨e, mem, kind, payload⟩ := h
  exact ⟨e, keeps.events trivial _ _ mem, kind, payload⟩

theorem LaunchTold.of_ctxs {y z : State} {id : W32} (h : LaunchTold t y id) (same : z.ctxs = y.ctxs) : LaunchTold t z id := by
  unfold LaunchTold State.ctx
  rw [same]
  exact h

theorem launchTold_postEnd (z : State) (x : Launch) : LaunchTold t (postEnd z t x.id 1 (256 + t.val)) x.id := by
  let y := z.modTenant t fun v => { v with launches := v.launches.filter fun w => w.id != x.id }
  let payload := BitVec.ofNat 128 (x.id.toNat + 2 ^ 32)
  have posted := events_postEvent y (supervisor t) evLaunch t.val (256 + t.val) payload
  refine ⟨eventFor y (supervisor t) evLaunch t.val (256 + t.val) payload, ?_, rfl, rfl⟩
  show _ ∈ ((postEvent y (supervisor t) evLaunch t.val (256 + t.val) payload).ctx (supervisor t)).events
  rw [posted]
  exact List.mem_append_right _ List.mem_cons_self

theorem tenantReset_told {x : Launch} (mem : x ∈ (s.tenant t).launches) : LaunchTold t (tenantReset s t) x.id := by
  have listed : x ∈ ((closedRings s t).tenant t).launches := by
    rw [(closedRings_stays s t).launches trivial]
    exact mem
  have ended : LaunchTold t (endedLaunches s t) x.id := by
    unfold endedLaunches
    exact foldl_establishes (f := fun s (y : Launch) => postEnd s t y.id 1 (256 + t.val)) (P := fun z => LaunchTold t z x.id) (fun z => launchTold_postEnd t z x)
      (fun z y h => h.later t ((Stays.refl z).postEnd ..)) listed _
  have zeroed := ended.later t (zeroedRooms_stays s t)
  have drawn := zeroed.of_ctxs t ((redrawn_onlyPackage s t).trans (unpassed_onlyPackage s t)).ctxs
  exact (drawn.later t ((uncollected_stays s t).mono False.elim id)).later t (tenantReset_stays s t)

theorem tenantReset_host : ((tenantReset s t).ctx hypervisor).hostfwd = (s.ctx hypervisor).hostfwd := by
  have only : (unpassed s t).ctx hypervisor = (zeroedRooms s t).ctx hypervisor :=
    congrArg (·.get hypervisor) ((redrawn_onlyPackage s t).trans (unpassed_onlyPackage s t)).ctxs
  rw [(tenantReset_stays s t).host, (uncollected_stays s t).host, only, (zeroedRooms_stays s t).host, (endedLaunches_stays s t).host,
    (closedRings_stays s t).host]

theorem resetTenant_leaves : answers (.resetTenant t) s fun z =>
    (z.tenant t).launches = [] ∧ (z.tenant t).mask = (s.tenant t).mask ∧ (z.tenant t).detctl = (s.tenant t).detctl ∧ (z.tenant t).locks = [] ∧
    (∀ u, owns s t u = true → z.suite u = { Suite.reset with stopped := true } ∧ (z.room u).stopped = true ∧ (z.room u).acc = (Room.reset u).acc) ∧
    (∀ k : Fin 128, (s.pkg.keys.get k).tenant = some t → (z.pkg.keys.get k).tenant = some t ∧ (z.pkg.keys.get k).draw = (s.pkg.keys.get k).draw + 1) ∧
    (∀ k : Fin 128, (s.pkg.keys.get k).tenant ≠ some t → z.pkg.keys.get k = s.pkg.keys.get k) ∧
    (z.ctx (supervisor t)).running = false ∧ (z.ctx (supervisor t)).segbase = 0 ∧
    (∀ x, x ∈ (s.tenant t).launches → ∃ e, e ∈ (z.ctx (supervisor t)).events ∧ e.kind = 1 ∧ e.payload = BitVec.ofNat 128 (x.id.toNat + 2 ^ 32)) ∧
    ∃ l, (z.ctx hypervisor).events = l ++ [⟨z.pkg.eventSeq - 1, 7, t.val, 256 + t.val, 2, (s.ctx hypervisor).hostfwd⟩] := by
  have told := resetComplete_announced (tenantReset s t) t.val (256 + t.val) 2
  have ends := events_resetComplete (tenantReset s t) t.val (256 + t.val) 2
  have cleared := tenantReset_tenant s t
  obtain ⟨mask, detctl⟩ := uncollected_mask s t
  have keys : (resetComplete (tenantReset s t) t.val (256 + t.val) 2).pkg.keys = (tenantReset s t).pkg.keys := by
    obtain ⟨_, _, pkg⟩ := told.pkg
    rw [pkg]
  obtain ⟨stops, table⟩ := tenantReset_shut s t
  obtain ⟨_, _, super⟩ := told.ctx (supervisor t)
  rw [tenantReset_host] at ends
  refine ⟨_, exec_resetTenant s t, ?_, ?_, ?_, ?_, fun u own => ?_, fun k mine => ?_, fun k other => ?_, ?_, ?_, fun x mem => ?_, _, ends⟩
  · rw [told.tenant, cleared]
    rfl
  · rw [told.tenant, cleared]
    exact mask
  · rw [told.tenant, cleared]
    exact detctl
  · rw [told.tenant, cleared]
    rfl
  · rw [told.suite, told.room]
    exact tenantReset_atRest s t own
  · rw [keys, tenantReset_keys, if_pos mine]
    exact ⟨rfl, rfl⟩
  · rw [keys, tenantReset_keys, if_neg other]
  · rw [super]
    exact stops
  · rw [super]
    exact table
  · exact (tenantReset_told s t mem).later t ((Stays.refl _).postEvent ..)

end

/-! ### Package reset and thermal trip -/

section
variable (s : State)

/-- What firmware starts after a reset of the package, or leaves without it. -/
def Begins (s z : State) : Prop :=
  (Config.firmwareGood = false → z = { State.reset with inputs := s.inputs, resetFrom := s.resetFrom, fresh := s.fresh, pkg := { Package.reset with out := s.pkg.out } }) ∧
  (Config.firmwareGood = true → z.pkg.booted = true ∧ (z.ctx hypervisor).running = true ∧ z.pkg.images = [bootImage] ∧
    (z.stream ⟨.ctx hypervisor, .a⟩).running = true ∧ (z.stream ⟨.ctx hypervisor, .a⟩).pos = Config.bootEntryA.toNat * 16 ∧
    (z.stream ⟨.ctx hypervisor, .x⟩).pos = Config.bootEntryX.toNat * 16 ∧ (∀ c, c ≠ hypervisor → z.ctx c = Ctx.reset) ∧
    z.suites = State.reset.suites ∧ z.rooms = State.reset.rooms ∧ z.tenants = State.reset.tenants ∧ z.pkg.mem = [] ∧ z.pkg.out = s.pkg.out)

/-- Training the links changes the links and uses free choices. -/
theorem trainLinks_eq : ∃ links fresh, trainLinks s = { s with fresh := fresh, pkg := { s.pkg with links := links } } :=
  List.foldlRecOn (motive := fun z : State => ∃ links fresh, z = { s with fresh := fresh, pkg := { s.pkg with links := links } }) _ _ ⟨_, _, rfl⟩
    fun _ ⟨_, _, same⟩ _ _ => by
      subst same
      exact ⟨_, _, rfl⟩

theorem begins_bringUp : Begins s (bringUp (resetState s)) := by
  unfold bringUp
  constructor
  · intro bad
    rw [if_neg (by simp [bad])]
    rfl
  · intro good
    rw [if_pos good]
    obtain ⟨links, fresh, trained⟩ := trainLinks_eq (resetState s)
    dsimp only
    rw [trained]
    refine ⟨rfl, ?_, rfl, ?_, ?_, ?_, fun c other => ?_, rfl, rfl, rfl, rfl, rfl⟩
    · rw [State.ctx_modCtx, if_pos rfl]
    · simp only [State.stream, State.bank, State.ctx_modCtx, if_true]
      rfl
    · simp only [State.stream, State.bank, State.ctx_modCtx, if_true]
      rfl
    · simp only [State.stream, State.bank, State.ctx_modCtx, if_true]
      rfl
    · rw [State.ctx_modCtx, if_neg other.symm]
      exact vget_replicate ..

/-- What a reset of the package keeps is the same after the thermal event and its message as after the message alone. -/
theorem resetState_same {y z : State} (inputs : y.inputs = z.inputs) (froms : y.resetFrom = z.resetFrom) (fresh : y.fresh = z.fresh)
    (out : y.pkg.out = z.pkg.out) : resetState y = resetState z := by
  unfold resetState
  rw [inputs, froms, fresh, out]

theorem sendHost_keeps (kind tenant tag : Nat) (bytes : List Byte) : let z := sendHost s kind tenant tag bytes
    z.inputs = s.inputs ∧ z.resetFrom = s.resetFrom ∧ z.fresh = s.fresh := by
  obtain ⟨_, _, sent, -⟩ := sendHost_eq s kind tenant tag bytes
  rw [sent]
  exact ⟨rfl, rfl, rfl⟩

theorem out_sendHost_same {y z : State} (same : y.pkg.out = z.pkg.out) (kind tenant tag : Nat) (bytes : List Byte) :
    (sendHost y kind tenant tag bytes).pkg.out = (sendHost z kind tenant tag bytes).pkg.out := by
  rw [out_sendHost, out_sendHost, same]

/-- The thermal event and its message to the host. -/
def tripped : State :=
  if (s.ctx hypervisor).hostfwd then postEvent s hypervisor evThermal 0 (256 + 127) 0
  else sendHost (postEvent s hypervisor evThermal 0 (256 + 127) 0) 5 0 0 (eventBytes ⟨s.pkg.eventSeq, evThermal, 0, 256 + 127, 0, true⟩)

theorem resetState_tripped : resetState (tripped s) = resetState (sendHost s 5 0 0 (eventBytes ⟨s.pkg.eventSeq, 9, 0, 256 + 127, 0, true⟩)) := by
  obtain ⟨_, _, post, -⟩ := postEvent_eq s hypervisor evThermal 0 (256 + 127) 0
  obtain ⟨inputs, froms, fresh⟩ := sendHost_keeps s 5 0 0 (eventBytes ⟨s.pkg.eventSeq, 9, 0, 256 + 127, 0, true⟩)
  unfold tripped
  split
  next forwards =>
    have kept : ∀ x, x = postEvent s hypervisor evThermal 0 (256 + 127) 0 → x.inputs = s.inputs ∧ x.resetFrom = s.resetFrom ∧ x.fresh = s.fresh := by
      rintro x rfl
      rw [post]
      exact ⟨rfl, rfl, rfl⟩
    obtain ⟨inputs', froms', fresh'⟩ := kept _ rfl
    refine resetState_same (inputs'.trans inputs.symm) (froms'.trans froms.symm) (fresh'.trans fresh.symm) ?_
    unfold postEvent
    dsimp only
    rw [if_pos forwards]
    rw [out_sendHost, out_sendHost]
    rfl
  next silent =>
    have quiet : (postEvent s hypervisor evThermal 0 (256 + 127) 0).pkg.out = s.pkg.out := by
      unfold postEvent
      dsimp only
      rw [if_neg silent]
      rfl
    obtain ⟨inputs', froms', fresh'⟩ := sendHost_keeps (postEvent s hypervisor evThermal 0 (256 + 127) 0) 5 0 0
      (eventBytes ⟨s.pkg.eventSeq, evThermal, 0, 256 + 127, 0, true⟩)
    rw [post] at inputs' froms' fresh'
    refine resetState_same (.trans ?_ inputs.symm) (.trans ?_ froms.symm) (.trans ?_ fresh.symm) (out_sendHost_same quiet ..)
    · rw [post]
      exact inputs'
    · rw [post]
      exact froms'
    · rw [post]
      exact fresh'

theorem exec_thermalTrip : exec .thermalTrip s = .next (bringUp (resetState (tripped s))) := rfl

theorem exec_packageReset : exec .packageReset s = .next (
    let s1 := if s.pkg.booted || !Config.firmwareGood then { s with resetFrom := s.resetFrom.tail } else s
    if !s.pkg.booted && !Config.firmwareGood then unbooted s1 3 0 0
    else if s.pkg.booted && s.resetFrom.head?.any (· != Config.hostEndpoint) then hostFlits s1 0
    else bringUp (resetState s1)) := rfl

end

/-- Settles O58: the room, the die, the tenant, and the package, by a RESET message or by heat. -/
theorem resets : Obligations.Resets := by
  unfold Obligations.Resets
  refine ⟨resetRoom_leaves, resetDie_leaves, resetTenant_leaves, fun s => ?_⟩
  intro begins stays taken
  refine ⟨?_, ?_, ?_, ?_, ?_⟩
  · rintro ⟨dark, bad⟩
    refine ⟨Config.freeByte 0 3 0, ?_⟩
    rw [exec_packageReset]
    simp only [dark, bad, Bool.not_false, Bool.or_true, Bool.and_true, if_true]
    rfl
  · intro booted ep first foreign
    rw [exec_packageReset]
    simp only [booted, Bool.true_or, Bool.not_true, Bool.false_and, Bool.false_eq_true, if_false, if_true, first, Option.any_some, Bool.true_and]
    rw [if_pos (by simpa using foreign)]
    rfl
  · intro booted from_
    refine ⟨bringUp (resetState taken), ?_, begins_bringUp taken⟩
    rw [exec_packageReset]
    have fused : s.resetFrom.head?.any (· != Config.hostEndpoint) = false := by
      rcases from_ with none_ | host
      · rw [none_]
        rfl
      · rw [host]
        simp
    simp only [booted, fused, Bool.true_or, Bool.not_true, Bool.false_and, Bool.and_false, Bool.false_eq_true, if_false, if_true]
    rfl
  · intro dark good
    refine ⟨bringUp (resetState s), ?_, begins_bringUp s⟩
    rw [exec_packageReset]
    simp only [dark, good, Bool.not_true, Bool.not_false, Bool.or_false, Bool.and_false, Bool.false_and, Bool.false_eq_true, if_false]
  · refine ⟨_, exec_thermalTrip s, ?_⟩
    rw [resetState_tripped]
    exact begins_bringUp _

end Sys2Proof.Machine
end

section
/-! PROOFS. Replica digests at barriers of scope package (R342, R343, R430-R433). -/

namespace Sys2Proof.Machine

/-! ### The replica registers of a tenant -/

section
variable (s : State) (t : TenantId)

theorem replica_modReplica (f : Replica → Replica) : ((modReplica s t f).tenant t).replica = f (s.tenant t).replica := by
  unfold modReplica
  rw [State.tenant_modTenant, if_pos rfl]

theorem modReplica_modReplica (f g : Replica → Replica) : modReplica (modReplica s t f) t g = modReplica s t fun x => g (f x) := by
  have twice : ∀ (y z : Tenant), (s.setTenant t y).setTenant t z = s.setTenant t z := fun y z => by
    unfold State.setTenant
    dsimp only
    rw [Vector.set_set]
  have first : (s.modTenant t fun x => { x with replica := f x.replica }).tenant t = _ := (State.tenant_modTenant ..).trans (if_pos rfl)
  show (State.setTenant (s.setTenant t _) t _) = s.setTenant t _
  rw [twice]
  exact congrArg (fun x : Tenant => s.setTenant t { x with replica := g x.replica }) first

/-- Of a tenant's other registers, the replica registers have none. -/
theorem tenant_modReplica (f : Replica → Replica) (k : TenantId) :
    (modReplica s t f).tenant k = { s.tenant k with replica := if t = k then f (s.tenant k).replica else (s.tenant k).replica } := by
  unfold modReplica
  rw [State.tenant_modTenant]
  split
  next same => subst same; rfl
  next => rfl

theorem bank_modReplica (f : Replica → Replica) (r : BankRef) : (modReplica s t f).bank r = s.bank r := State.bank_modTenant ..

theorem owns_modReplica (f : Replica → Replica) (k : TenantId) (u : SuiteId) : owns (modReplica s t f) k u = owns s k u := by
  unfold owns
  rw [tenant_modReplica]

end

/-! ### Participants and pausing clocks -/

theorem participants_congr {s z : State} (same : ∀ u b, (z.bank (.bank u b)).visit = (s.bank (.bank u b)).visit) (t : TenantId) (scope : Fin 3) (inst : Nat) :
    participants z t scope inst = participants s t scope inst := by
  unfold participants
  simp only [same]

theorem anyPaused_package (s : State) (t : TenantId) (inst : Nat) : anyPaused s t 2 inst = anyPaused s t 2 0 := rfl

theorem anyPaused_congr {s z : State} (same : ∀ u b, (z.bank (.bank u b)).visit = (s.bank (.bank u b)).visit) (clocks : z.pkg.pausing = s.pkg.pausing)
    (t : TenantId) (scope : Fin 3) (inst : Nat) : anyPaused z t scope inst = anyPaused s t scope inst := by
  unfold anyPaused paused
  rw [participants_congr same, clocks]

theorem anyPaused_iff_held (s : State) (t : TenantId) (inst : Nat) :
    anyPaused s t 2 inst = true ↔ ∃ u b, (u, b) ∈ participants s t 2 0 ∧ paused s u = true := anyPaused_iff s t 2 0

/-! ### A barrier that completes -/

/-- A barrier leaves the replica registers. -/
theorem replica_passAll (s : State) (t : TenantId) (inst : Nat) (k : TenantId) : ((passAll s t 2 inst).tenant k).replica = (s.tenant k).replica := by
  obtain ⟨_, passed⟩ := (barrierFrame_passAll s t 2 inst).tenant k
  rw [passed]
  show ((s.modTenant t fun x => { x with barriersPkg := x.barriersPkg + 1 }).tenant k).replica = _
  rw [State.tenant_modTenant]
  split
  next same => subst same; rfl
  next => rfl

theorem passAll_passes {s z : State} {t : TenantId} (same : ∀ r, z.bank r = s.bank r) {u : SuiteId} {b : Fin 2} (mem : (u, b) ∈ participants s t 2 0)
    (arrived : hasArrived (s.bank (.bank u b)) = true) : ((passAll z t 2 0).bank (.bank u b)).sync = .none ∧
      ((passAll z t 2 0).bank (.bank u b)).phase = (s.bank (.bank u b)).phase + 1 := by
  have listed : (u, b) ∈ participants z t 2 0 := by
    rw [participants_congr (s := s) (z := z) fun u b => by rw [same]]
    exact mem
  cases sync : (s.bank (.bank u b)).sync with
  | arrived d dn start stop =>
    obtain ⟨free, phase, -⟩ := passed_passAll listed (by rw [same]; exact sync)
    exact ⟨free, phase.trans (by rw [same])⟩
  | _ =>
    rw [hasArrived, sync] at arrived
    cases arrived

/-- What the tenant's replica registers and its participants are once the digests agree, or comparison is over. -/
theorem digestsAgree_completes {s z : State} {t : TenantId} (same : ∀ r, z.bank r = s.bank r) :
    ((digestsAgree z t).tenant t).replica =
      { (z.tenant t).replica with
        count := (z.tenant t).replica.count + 1, errs := 0, fenced := false, rerun := false, pending := false, own := none, got := none } ∧
    ∀ u b, (u, b) ∈ participants s t 2 0 → hasArrived (s.bank (.bank u b)) = true →
      ((digestsAgree z t).bank (.bank u b)).sync = .none ∧ ((digestsAgree z t).bank (.bank u b)).phase = (s.bank (.bank u b)).phase + 1 :=
  ⟨(replica_passAll ..).trans (replica_modReplica ..), fun _ _ => passAll_passes fun r => (bank_modReplica ..).trans (same r)⟩

/-! ### The comparison -/

section
variable {s : State} {t : TenantId}

theorem compareDigests_alone (h : (s.tenant t).replica.own = none ∨ (s.tenant t).replica.got = none) : compareDigests s t = s := by
  unfold compareDigests
  dsimp only
  rcases h with own | got
  · rw [own]
  · rw [got]
    cases (s.tenant t).replica.own <;> rfl

/-- After a disagreement: the digests are gone, the barrier stays pending, and the supervisor has the trap. -/
def disagreed (s : State) (t : TenantId) : State :=
  digestTrap (modReplica s t fun y => { y with own := none, got := none, pending := true, rerun := false }) (supervisor t) t (s.tenant t).replica.count

/-- What the rerun of a tenant's barrier ends in, by the error counts of the two packages (R431). -/
def rerunEnds (s : State) (t : TenantId) (mine theirs : W32) : State :=
  if mine ≠ 0 ∧ theirs = 0 then
    digestTrap (abortTenant (modReplica (disagreed s t) t fun y => { y with fenced := true }) t) hypervisor t (s.tenant t).replica.count
  else if mine = 0 ∧ theirs ≠ 0 then digestsAgree (modReplica (disagreed s t) t fun y => { y with peer := Config.pkgId }) t
  else
    alsoHost (requestStop (disagreed s t) (extendRooms (disagreed s t) ((List.finRange 64).filter fun u => owns (disagreed s t) t u)) true true) (supervisor t)

theorem compareDigests_both {d e : BitVec 256} {mine theirs : W32} {count : Word} (own : (s.tenant t).replica.own = some (d, mine))
    (got : (s.tenant t).replica.got = some (e, count, theirs)) : compareDigests s t =
      if count ≠ (s.tenant t).replica.count ∨ anyPaused s t 2 0 then s
      else if d = e then digestsAgree s t
      else if !(s.tenant t).replica.rerun then disagreed s t
      else rerunEnds s t mine theirs := by
  unfold compareDigests
  dsimp only
  rw [own, got]
  rfl

end

/-! ### The peer's digest arrives -/

section
variable (s : State) (t : TenantId) (digest : BitVec 256) (errs : W32)

/-- The flit of the peer's digest is counted. -/
def cameIn : State := countEvents s (.ctx hypervisor) 0x11 1

/-- The peer's digest of the current barrier is kept. -/
def keptDigest : State := modReplica (cameIn s) t fun y => { y with got := some (digest, (s.tenant t).replica.count, errs) }

theorem cameIn_announced : Announced s (cameIn s) := countEvents_announced ..

theorem digestOn_cameIn : digestOn (cameIn s) t = digestOn s t := by
  obtain ⟨_, _, pkg⟩ := (cameIn_announced s).pkg
  unfold digestOn featOn
  rw [(cameIn_announced s).tenant, pkg]

theorem bank_keptDigest (r : BankRef) : (keptDigest s t digest errs).bank r = s.bank r :=
  (bank_modReplica ..).trans ((cameIn_announced s).bank r)

theorem replica_keptDigest : ((keptDigest s t digest errs).tenant t).replica =
    { (s.tenant t).replica with got := some (digest, (s.tenant t).replica.count, errs) } := by
  unfold keptDigest
  rw [replica_modReplica, (cameIn_announced s).tenant]

theorem anyPaused_keptDigest : anyPaused (keptDigest s t digest errs) t 2 0 = anyPaused s t 2 0 := by
  obtain ⟨_, _, pkg⟩ := (cameIn_announced s).pkg
  exact anyPaused_congr (s := s) (z := keptDigest s t digest errs) (fun u b => by rw [bank_keptDigest]) (congrArg Package.pausing pkg :) t 2 0

theorem exec_peerDigest : exec (.peerDigest t digest (s.tenant t).replica.count errs) s =
    .next (if digestOn s t then compareDigests (keptDigest s t digest errs) t else cameIn s) := by
  rw [← digestOn_cameIn]
  rfl

variable {s t digest errs} {mine : BitVec 256} {ours : W32}

theorem peerDigest_compared (on : digestOn s t = true) (held : ¬ ∃ u b, (u, b) ∈ participants s t 2 0 ∧ paused s u = true)
    (own : (s.tenant t).replica.own = some (mine, ours)) : exec (.peerDigest t digest (s.tenant t).replica.count errs) s = .next (
      if mine = digest then digestsAgree (keptDigest s t digest errs) t
      else if !(s.tenant t).replica.rerun then disagreed (keptDigest s t digest errs) t
      else rerunEnds (keptDigest s t digest errs) t ours errs) := by
  have replica := replica_keptDigest s t digest errs
  have both := compareDigests_both (s := keptDigest s t digest errs) (t := t) (d := mine) (e := digest) (mine := ours) (theirs := errs)
    (count := (s.tenant t).replica.count) (by rw [replica]; exact own) (by rw [replica])
  have run : anyPaused s t 2 0 = false := by rwa [Bool.eq_false_iff, ne_eq, anyPaused_iff_held s t 0]
  rw [exec_peerDigest, if_pos on, both, if_neg (by rw [anyPaused_keptDigest, run, replica]; simp), replica]

/-- The machine of a disagreement, in terms of the one before the digest came. -/
theorem disagreed_kept : disagreed (keptDigest s t digest errs) t =
    digestTrap (modReplica (cameIn s) t fun y => { y with own := none, got := none, pending := true, rerun := false }) (supervisor t) t
      (s.tenant t).replica.count := by
  unfold disagreed
  rw [replica_keptDigest, keptDigest, modReplica_modReplica]

/-- A digest that comes before the package's own, or while a participant's clock pauses, is kept. -/
theorem peerDigest_keeps (on : digestOn s t = true) (waits : (s.tenant t).replica.own = none ∨ ∃ u b, (u, b) ∈ participants s t 2 0 ∧ paused s u = true) :
    exec (.peerDigest t digest (s.tenant t).replica.count errs) s = .next (keptDigest s t digest errs) := by
  have replica := replica_keptDigest s t digest errs
  rw [exec_peerDigest, if_pos on]
  cases own : (s.tenant t).replica.own with
  | none => rw [compareDigests_alone (.inl (by rw [replica]; exact own))]
  | some x =>
    have held := waits.resolve_left (by rw [own]; simp)
    rw [compareDigests_both (d := x.1) (mine := x.2) (by rw [replica]; exact own) (by rw [replica]), if_pos]
    rw [anyPaused_keptDigest]
    exact .inr ((anyPaused_iff_held s t 0).mpr held)

/-- In the rerun, the package that alone saw errors is fenced. -/
theorem rerunEnds_fences (bad : ours ≠ 0) (good : errs = 0) : rerunEnds (keptDigest s t digest errs) t ours errs =
    digestTrap (abortTenant (modReplica (disagreed (keptDigest s t digest errs) t) t fun y => { y with fenced := true }) t) hypervisor t
      (s.tenant t).replica.count := by
  unfold rerunEnds
  rw [if_pos ⟨bad, good⟩, replica_keptDigest]

/-- In the rerun, the package that alone saw none goes on without a peer. -/
theorem rerunEnds_goesOn (good : ours = 0) (bad : errs ≠ 0) : rerunEnds (keptDigest s t digest errs) t ours errs =
    digestsAgree (modReplica (disagreed (keptDigest s t digest errs) t) t fun y => { y with peer := Config.pkgId }) t := by
  unfold rerunEnds
  rw [if_neg (fun both => both.1 good), if_pos ⟨good, bad⟩]

theorem disagreed_announced (s : State) (t : TenantId) :
    Announced (modReplica s t fun y => { y with own := none, got := none, pending := true, rerun := false }) (disagreed s t) := postEvent_announced ..

theorem disagreed_bank (r : BankRef) : (disagreed (keptDigest s t digest errs) t).bank r = s.bank r :=
  ((disagreed_announced ..).bank r).trans ((bank_modReplica ..).trans (bank_keptDigest ..))

theorem disagreed_replica : ((disagreed (keptDigest s t digest errs) t).tenant t).replica =
    { (s.tenant t).replica with own := none, got := none, pending := true, rerun := false } := by
  rw [(disagreed_announced ..).tenant, replica_modReplica, replica_keptDigest]

theorem disagreed_events : ((disagreed (keptDigest s t digest errs) t).ctx (supervisor t)).events = (s.ctx (supervisor t)).events ++
    [⟨s.pkg.eventSeq, 2, t.val, 256 + t.val, trapBits ⟨0x90, 3, 0, 0, 0, (s.tenant t).replica.count⟩, (s.ctx (supervisor t)).hostfwd⟩] := by
  obtain ⟨ctxs, came, kept⟩ := countEvents_ctx s hypervisor 0x11 1
  obtain ⟨_, ctx⟩ := kept (supervisor t)
  have there : (cameIn s).ctx (supervisor t) = _ := (congrArg (fun z : State => z.ctx (supervisor t)) came).trans ctx
  have seq : (cameIn s).pkg.eventSeq = s.pkg.eventSeq := by rw [cameIn, came]
  rw [disagreed_kept]
  refine (events_postEvent ..).trans ?_
  show ((cameIn s).ctx (supervisor t)).events ++ [⟨(cameIn s).pkg.eventSeq, _, _, _, _, ((cameIn s).ctx (supervisor t)).hostfwd⟩] = _
  rw [there, seq]
  rfl

end

/-! ### The newest event goes to the host too -/

section
variable (s : State) (c : CtxId)

theorem alsoHost_keeps : let z := alsoHost s c
    z.pkg.stopReq = s.pkg.stopReq ∧ z.tenants = s.tenants ∧ (∀ r, z.bank r = s.bank r) := by
  unfold alsoHost
  split
  next e _ =>
    dsimp only
    split
    · exact ⟨rfl, rfl, fun _ => rfl⟩
    · have sent := sendHost_announced s 5 e.tenant 0 (eventBytes e)
      obtain ⟨_, _, pkg⟩ := sent.pkg
      refine ⟨(congrArg Package.stopReq pkg :), sent.tenants, fun r => ?_⟩
      refine Eq.trans ?_ (sent.bank r)
      cases r with
      | bank u b => rfl
      | ctx d =>
        show (State.ctx _ d).regs = _
        rw [State.ctx_modCtx]
        split
        next same => subst same; rfl
        next => rfl
  · exact ⟨rfl, rfl, fun _ => rfl⟩

theorem alsoHost_sent {e : Event} (last : (s.ctx c).events.getLast? = some e) :
    ∃ f, ((alsoHost s c).ctx c).events.getLast? = some f ∧ f.kind = e.kind ∧ f.sent = true := by
  unfold alsoHost
  rw [last]
  dsimp only
  split
  next sent => exact ⟨e, last, rfl, sent⟩
  next =>
    rw [State.ctx_modCtx, if_pos rfl]
    exact ⟨{ e with sent := true }, List.getLast?_concat, rfl, rfl⟩

end

/-! ### The obligation -/

section
variable {s : State} {t : TenantId} {digest mine : BitVec 256} {errs ours : W32}

/-- What it is for a tenant's barrier to go on after a comparison. -/
theorem goesOn_digestsAgree {z : State} (same : ∀ r, z.bank r = s.bank r) (count : (z.tenant t).replica.count = (s.tenant t).replica.count) :
    let y := digestsAgree z t
    (y.tenant t).replica.count = (s.tenant t).replica.count + 1 ∧ (y.tenant t).replica.fenced = false ∧
      ((s.tenant t).trace.ctl.getLsbD 0 = false → (y.tenant t).replica.errs = 0) ∧
      (y.tenant t).replica.pending = false ∧ (y.tenant t).replica.rerun = false ∧ (y.tenant t).replica.own = none ∧ (y.tenant t).replica.got = none ∧
      ∀ u b, (u, b) ∈ participants s t 2 0 → hasArrived (s.bank (.bank u b)) = true →
        (y.bank (.bank u b)).sync = .none ∧ (y.bank (.bank u b)).phase = (s.bank (.bank u b)).phase + 1 := by
  intro y
  obtain ⟨replica, pass⟩ := digestsAgree_completes (s := s) (t := t) same
  rw [replica]
  exact ⟨congrArg (· + 1) count, rfl, fun _ => rfl, rfl, rfl, rfl, rfl, pass⟩

/-- Two of a kind: the rooms of the tenant stop, and the barrier stays pending. -/
theorem rerunEnds_stops (kind : ours = 0 ↔ errs = 0) : let z := rerunEnds (keptDigest s t digest errs) t ours errs
    z.pkg.stopReq = s.pkg.stopReq ++ (extendRooms s ((List.finRange 64).filter fun u => owns s t u)).map (fun u => (u, true, true)) ∧
      (z.tenant t).replica.pending = true ∧ (∀ r, z.bank r = s.bank r) ∧
      ∃ e, (z.ctx (supervisor t)).events.getLast? = some e ∧ e.kind = 2 ∧ e.sent = true := by
  have here : rerunEnds (keptDigest s t digest errs) t ours errs = alsoHost (requestStop (disagreed (keptDigest s t digest errs) t)
      (extendRooms (disagreed (keptDigest s t digest errs) t)
        ((List.finRange 64).filter fun u => owns (disagreed (keptDigest s t digest errs) t) t u)) true true) (supervisor t) := by
    unfold rerunEnds
    rw [if_neg (fun both => both.1 (kind.mpr both.2)), if_neg (fun both => both.2 (kind.mp both.1))]
  have bank := disagreed_bank (s := s) (t := t) (digest := digest) (errs := errs)
  have replica := disagreed_replica (s := s) (t := t) (digest := digest) (errs := errs)
  have events := disagreed_events (s := s) (t := t) (digest := digest) (errs := errs)
  have told := disagreed_announced (keptDigest s t digest errs) t
  have stopReq : (disagreed (keptDigest s t digest errs) t).pkg.stopReq = s.pkg.stopReq := by
    obtain ⟨_, _, after⟩ := told.pkg
    obtain ⟨_, _, before⟩ := (cameIn_announced s).pkg
    exact (congrArg Package.stopReq after :).trans (congrArg Package.stopReq before :)
  have owned : ∀ u, owns (disagreed (keptDigest s t digest errs) t) t u = owns s t u := fun u => by
    unfold owns
    rw [told.tenant, tenant_modReplica, keptDigest, tenant_modReplica, (cameIn_announced s).tenant]
  have rooms : (disagreed (keptDigest s t digest errs) t).rooms = s.rooms := told.rooms.trans (cameIn_announced s).rooms
  have extended : ∀ l, extendRooms (disagreed (keptDigest s t digest errs) t) l = extendRooms s l := fun l => by
    unfold extendRooms State.room
    rw [rooms]
  dsimp only
  rw [here]
  generalize disagreed (keptDigest s t digest errs) t = y at bank replica events stopReq owned extended ⊢
  obtain ⟨stops, tenants, banks⟩ := alsoHost_keeps (requestStop y (extendRooms y ((List.finRange 64).filter fun u => owns y t u)) true true) (supervisor t)
  refine ⟨stops.trans ?_, ?_, fun r => (banks r).trans ?_, ?_⟩
  · show y.pkg.stopReq ++ (extendRooms y ((List.finRange 64).filter fun u => owns y t u)).map (fun u => (u, true, true)) = _
    rw [stopReq, extended]
    simp only [owned]
  · have kept : (State.tenant _ t).replica.pending = (y.tenant t).replica.pending := congrArg (fun l => (Vector.get l t).replica.pending) tenants
    rw [kept, replica]
  · refine Eq.trans ?_ (bank r)
    cases r <;> rfl
  · exact alsoHost_sent _ _ (e := ⟨s.pkg.eventSeq, 2, t.val, 256 + t.val, trapBits ⟨0x90, 3, 0, 0, 0, (s.tenant t).replica.count⟩,
      (s.ctx (supervisor t)).hostfwd⟩) (by
        show (y.ctx (supervisor t)).events.getLast? = _
        rw [events]
        exact List.getLast?_concat)

end

section
variable {s : State} {t : TenantId} {inst : Nat}

theorem barrierCompletion_digest (all : allArrived s t 2 inst = true) (on : digestOn s t = true) (held : ¬ ∃ u b, (u, b) ∈ participants s t 2 0 ∧ paused s u = true) :
    exec (.barrierCompletion t 2 inst) s = .next (
      if (s.tenant t).replica.own.isSome then compareDigests s t
      else if ((s.tenant t).replica.pending ∧ !(s.tenant t).replica.rerun) ∨ declaredWaits s t then s else takeDigest s t) := by
  have run : ¬ anyPaused s t 2 inst = true := (anyPaused_iff_held s t inst).not.mpr held
  show Host.Outcome.next _ = _
  rw [if_neg (by simp [all, run]), if_pos ⟨rfl, on⟩]

/-- The digest is taken and sent; it waits for the peer's. -/
theorem takeDigest_sends (got : (s.tenant t).replica.got = none) : takeDigest s t =
    sendPacket (modReplica s t fun y => { y with own := some (sha256 (declaredBytes s t), (s.tenant t).replica.errs) }) 9
      (s.tenant t).replica.peer.toNat t (leBytes 1 t.val ++ digestBytes (sha256 (declaredBytes s t)) ++ leBytes 8 (s.tenant t).replica.count.toNat ++
        leBytes 4 (s.tenant t).replica.errs.toNat) := by
  have only : ∀ (y : State) kind peer bytes, (sendPacket y kind peer t bytes).tenant t = y.tenant t := fun y kind peer bytes =>
    congrArg (·.get t) ((OnlyPackage.refl y).sendPacket kind peer t bytes).tenants
  unfold takeDigest
  generalize sha256 (declaredBytes s t) = d
  dsimp only
  exact compareDigests_alone (.inr (by rw [only, replica_modReplica]; exact got))

end

section
variable {s : State} {t : TenantId} {v : Word}

/-- DIGPEER names the package itself while a digest waits. -/
theorem digpeerWrite_ends (on : featOn s 3 = true) (self : v.setWidth 9 = Config.pkgId) (own : (s.tenant t).replica.own ≠ none) :
    let y := modReplica s t fun x => { x with peer := v.setWidth 9, own := none, got := none }
    exec (.digpeerWrite t v) s = .next (if anyPaused s t 2 0 then y else passAll y t 2 0) := by
  have replica := replica_modReplica s t fun x => { x with peer := v.setWidth 9 }
  have some_ : (s.tenant t).replica.own.isSome = true := Option.isSome_iff_ne_none.mpr own
  have clocks : anyPaused (modReplica s t fun x => { x with peer := v.setWidth 9, own := none, got := none }) t 2 0 = anyPaused s t 2 0 :=
    anyPaused_congr (fun u b => by rw [bank_modReplica]) rfl t 2 0
  show Host.Outcome.next _ = _
  rw [if_neg (by simp [on])]
  rw [if_pos (by rw [replica]; exact ⟨self, some_⟩), modReplica_modReplica]
  dsimp only
  rw [clocks]

theorem digpeerWrite_sets (on : featOn s 3 = true) (h : v.setWidth 9 ≠ Config.pkgId ∨ (s.tenant t).replica.own = none) :
    exec (.digpeerWrite t v) s = .next (modReplica s t fun x => { x with peer := v.setWidth 9 }) := by
  have replica := replica_modReplica s t fun x => { x with peer := v.setWidth 9 }
  show Host.Outcome.next _ = _
  rw [if_neg (by simp [on]), if_neg]
  rw [replica]
  rintro ⟨self, own⟩
  rcases h with other | none_
  · exact other self
  · simp [none_] at own

end

/-- Settles O50. -/
theorem replicaDigests : Obligations.ReplicaDigests := by
  unfold Obligations.ReplicaDigests
  refine ⟨?_, ?_, ?_, ?_⟩
  · intro s t inst x i held all on
    refine ⟨fun waits => ?_, fun free own ready rerun got => ?_⟩
    · by_cases stop : held
      · show Host.Outcome.next _ = _
        rw [if_pos (.inr ((anyPaused_iff_held s t inst).mpr stop))]
      · have here := barrierCompletion_digest all on stop
        rcases waits with h | ⟨some_, got⟩ | ⟨own, later⟩
        · exact absurd h stop
        · exact here.trans (by rw [if_pos some_, compareDigests_alone (.inr got)])
        · refine here.trans ?_
          rw [if_neg (by simp [show (s.tenant t).replica.own = none from own]), if_pos]
          rcases later with unread | ⟨pending, fresh⟩
          · exact .inr unread
          · exact .inl ⟨pending, by simp [show (s.tenant t).replica.rerun = false from fresh]⟩
    · intro d
      refine (barrierCompletion_digest all on free).trans ?_
      rw [if_neg (by simp [show (s.tenant t).replica.own = none from own]), if_neg, takeDigest_sends got]
      rintro (⟨pending, fresh⟩ | unread)
      · rcases rerun with none_ | marked
        · exact absurd (none_.symm.trans pending) (by decide)
        · rw [show (s.tenant t).replica.rerun = true from marked] at fresh
          cases fresh
      · exact absurd (ready.symm.trans unread) (by decide)
  · intro s t digest mine errs ours x i came kept held s1 goesOnIn
    refine ⟨fun off => ?_, fun on waits => ?_, fun on free own => ?_⟩
    · rw [show exec i s = _ from exec_peerDigest s t digest errs, if_neg (by simp [off])]
      rfl
    · exact peerDigest_keeps on waits
    · have compared := peerDigest_compared (digest := digest) (errs := errs) on free own
      have bank := bank_keptDigest s t digest errs
      have count := congrArg Replica.count (replica_keptDigest s t digest errs)
      have same := disagreed_kept (s := s) (t := t) (digest := digest) (errs := errs)
      have ends : mine ≠ digest → (s.tenant t).replica.rerun = true → exec i s = .next (rerunEnds (keptDigest s t digest errs) t ours errs) :=
        fun other again => compared.trans (by rw [if_neg other, if_neg (by simp [again])])
      refine ⟨fun agree => ?_, fun other first => ?_, fun other again bad good => ?_, fun other again good bad => ?_, fun other again kind => ?_⟩
      · exact ⟨_, compared.trans (by rw [if_pos agree]), goesOn_digestsAgree bank count⟩
      · have result := compared.trans (by rw [if_neg other, if_pos (by simp [show (s.tenant t).replica.rerun = false from first])])
        have events := disagreed_events (s := s) (t := t) (digest := digest) (errs := errs)
        rw [same] at events
        exact ⟨result.trans (congrArg Host.Outcome.next same), events⟩
      · refine (ends other again).trans ?_
        exact congrArg Host.Outcome.next ((rerunEnds_fences bad good).trans (by rw [same] <;> rfl))
      · refine ⟨_, (ends other again).trans (congrArg Host.Outcome.next (rerunEnds_goesOn good bad)), ?_, ?_⟩
        · refine goesOn_digestsAgree (fun r => (bank_modReplica ..).trans (disagreed_bank r)) ?_
          rw [replica_modReplica, disagreed_replica]
        · obtain ⟨replica, -⟩ := digestsAgree_completes (t := t)
            (z := modReplica (disagreed (keptDigest s t digest errs) t) t fun y => { y with peer := Config.pkgId }) fun _ => rfl
          rw [replica, replica_modReplica]
      · exact ⟨_, ends other again, rerunEnds_stops kind⟩
  · intro s t self
    unfold digestOn
    rw [self]
    simp
  · intro s t v on
    refine ⟨?_, digpeerWrite_sets on, fun self own => ⟨_, digpeerWrite_ends on self own, ?_⟩⟩
    · show Host.Outcome.next _ = _
      rw [if_pos on]
    · have replica := replica_modReplica s t fun x => { x with peer := v.setWidth 9, own := none, got := none }
      split
      next stop =>
        dsimp only
        rw [replica]
        refine ⟨self, rfl, rfl, fun free => ?_⟩
        obtain ⟨u, b, mem, pause⟩ := (anyPaused_iff_held s t 0).mp stop
        exact absurd ((free u b mem).symm.trans pause) (by decide)
      next =>
        dsimp only
        rw [replica_passAll, replica]
        exact ⟨self, rfl, rfl, fun _ u b mem arrived => passAll_passes (fun r => bank_modReplica ..) mem arrived⟩

end Sys2Proof.Machine
end

section
/-! PROOFS. Collectives (R277, R288): a COLL whose Suite stood still when its collective closed completes later, so that the completion event of a
collective that has closed does change the machine. -/

namespace Sys2Proof.Machine

/-- One Suite's COLL of a collective completes, once the Suite runs and no trap holds it. -/
def finishColl (i : Nat) (s : State) (u : SuiteId) : State :=
  match collCmd s u i with
  | some k =>
    if paused s u = false ∧ (s.suite u).stopped = false ∧ ((s.suite u).crun[k]?.map fun c => (c.trapLevel, c.status)) = some (0, .running) then finishRunning s u .c k
    else s
  | none => s

theorem exec_collInstanceCompletion_closed {s : State} {i : Nat} {x : CollInst} (inst : s.pkg.colls[i]? = some x) (closed : x.closed = true) :
    exec (.collInstanceCompletion i) s = .next ((List.finRange 64).foldl (finishColl i) s) := by
  show Host.Outcome.next _ = _
  rw [inst]
  dsimp only
  rw [if_pos (.inr closed)]
  rfl

theorem finishColl_idle {s : State} {u : SuiteId} (i : Nat) (idle : (s.suite u).crun = []) : finishColl i s u = s := by
  have none_ : collCmd s u i = none := by
    unfold collCmd findRunning runningOf
    rw [if_neg (by decide), idle]
    rfl
  unfold finishColl
  rw [none_]

/-! ### A COLL left over when its collective closed -/

/-- The collective: one rank, no step, and closed. -/
def closedColl : CollInst :=
  { tenant := 0, imageSeg := 0, offset := 0, inst := 0, scope := 0, int := false, wire := .fp32, acck := 0, nrank := 1, lsAddr := 0, rows := 1, cols := 1,
    post := none, kind := 0, steps := [], ranks := [(0, 0)], remote := [], lastAt := 0, words := [], doneSteps := [], progress := [], t0 := some 0,
    abandoned := false, closed := true }

/-- The COLL that has joined the collective and still runs. -/
def lateColl : Cmd :=
  { op := .coll 0 0 (some 0), bank := 0, kind := .a, tok := ⟨0, 0, 0⟩, dn := 0, ret := 0, status := .running, trapLevel := 0, discard := false, tenant := 0,
    dual := false, image := 0, slot := none }

/-- Suite 0, whose core stood still at the close, runs again. -/
def lateState : State :=
  ({ State.reset with pkg := { Package.reset with colls := [closedColl] } }).setSuite 0 { Suite.reset with crun := [lateColl] }

theorem suite_lateState (u : SuiteId) : lateState.suite u = if 0 = u then { Suite.reset with crun := [lateColl] } else Suite.reset := by
  unfold lateState
  rw [State.suite_setSuite]
  split
  · rfl
  · exact vget_replicate ..

/-- The machine once the COLL has completed. -/
def doneState : State := lateState.modSuite 0 fun x => { x with crun := x.crun.eraseIdx 0 }

theorem finishColl_lateState : finishColl 0 lateState 0 = doneState := by
  have suite : lateState.suite 0 = { Suite.reset with crun := [lateColl] } := suite_lateState 0
  have found : collCmd lateState 0 0 = some 0 := by
    unfold collCmd findRunning
    rw [suite]
    rfl
  have cmd : (lateState.suite 0).crun[0]? = some lateColl := by rw [suite]; rfl
  have runs : (lateState.suite 0).stopped = false := by rw [suite]; rfl
  have running : paused lateState 0 = false := rfl
  unfold finishColl
  rw [found]
  dsimp only
  rw [if_pos ⟨running, runs, by rw [cmd]; rfl⟩, finishRunning_noPush cmd runs rfl]
  rfl

theorem crun_doneState (u : SuiteId) : (doneState.suite u).crun = [] := by
  unfold doneState
  rw [State.suite_modSuite, suite_lateState, suite_lateState]
  split <;> rfl

theorem completes_lateState : exec (.collInstanceCompletion 0) lateState = .next doneState := by
  have first : List.finRange 64 = (0 : SuiteId) :: (List.finRange 63).map Fin.succ := List.finRange_succ
  rw [exec_collInstanceCompletion_closed (x := closedColl) rfl rfl, first, List.foldl_cons, finishColl_lateState,
    List.foldl_fixed' fun u => finishColl_idle 0 (crun_doneState u)]

/-- Refutes O43: a collective that is closed and not abandoned still completes a COLL of a Suite that stood still when it closed (R288); in
`lateState` the event takes that COLL from Suite 0, where the statement has it leave the machine as it is. -/
theorem not_collectivesRun : ¬ Obligations.CollectivesRun := by
  intro h
  unfold Obligations.CollectivesRun at h
  obtain ⟨-, -, completion⟩ := h
  obtain ⟨waits, -⟩ := completion lateState 0 0 closedColl 0 rfl
  have unchanged := (completes_lateState.symm.trans (waits rfl (.inl rfl)))
  have same : doneState = lateState := Host.Outcome.next.inj unchanged
  have empty := crun_doneState 0
  rw [same, suite_lateState, if_pos rfl] at empty
  cases empty

end Sys2Proof.Machine
end

section
/-! PROOFS. The scan controller runs a context's commands (R289, R297-R303, R317, R411, R413). -/

namespace Sys2Proof.Machine

/-! ### The commands of a context -/

section
variable {s : State} {c : CtxId} {x : ScanCmd} {rest : List ScanCmd}

/-- The context's commands are these. -/
def withScans (s : State) (c : CtxId) (l : List ScanCmd) : State := s.modCtx c fun y => { y with scans := l }

theorem setCtx_setCtx (s : State) (c : CtxId) (y z : Ctx) : (s.setCtx c y).setCtx c z = s.setCtx c z := by
  unfold State.setCtx
  dsimp only
  rw [Vector.set_set]

theorem ctx_withScans (s : State) (c : CtxId) (l : List ScanCmd) : (withScans s c l).ctx c = { s.ctx c with scans := l } :=
  (State.ctx_modCtx ..).trans (if_pos rfl)

theorem modBank_setCtx (s : State) (c : CtxId) (y : Ctx) (f : Bank → Bank) :
    (s.setCtx c y).modBank (.ctx c) f = s.setCtx c { y with regs := f y.regs } := by
  show (s.setCtx c y).setCtx c { (s.setCtx c y).ctx c with regs := f ((s.setCtx c y).ctx c).regs } = _
  rw [setCtx_setCtx, State.ctx_setCtx, if_pos rfl]

theorem bank_setCtx (s : State) (c : CtxId) (y : Ctx) : (s.setCtx c y).bank (.ctx c) = y.regs := by
  show ((s.setCtx c y).ctx c).regs = _
  rw [State.ctx_setCtx, if_pos rfl]

theorem scans_withScans (s : State) (c : CtxId) (l : List ScanCmd) : ((withScans s c l).ctx c).scans = l := by
  rw [ctx_withScans]

theorem withScans_withScans (s : State) (c : CtxId) (l m : List ScanCmd) : withScans (withScans s c l) c m = withScans s c m := by
  show (s.setCtx c _).setCtx c { (withScans s c l).ctx c with scans := m } = s.setCtx c _
  rw [setCtx_setCtx, ctx_withScans]

theorem modScan_head (h : (s.ctx c).scans = x :: rest) (f : ScanCmd → ScanCmd) : modScan s c 0 f = withScans s c (f x :: rest) := by
  show s.setCtx c { s.ctx c with scans := (s.ctx c).scans.modify 0 f } = s.setCtx c { s.ctx c with scans := f x :: rest }
  rw [h]
  rfl

/-! ### Completion -/

/-- A command has left with its result word and its done increment. -/
def scanLeft (s : State) (c : CtxId) (x : ScanCmd) (rest : List ScanCmd) (word : Word) : State :=
  doneFor (landLater (withScans s c rest) (.ctx c) .a [.a x.d word]) (.ctx c) .a x.dn

theorem finishScan_head (h : (s.ctx c).scans = x :: rest) (word : Word) : finishScan s c 0 word =
    if x.op = .query then scanLeft s c x rest word
    else postEvent (scanLeft s c x rest word) c evScan x.acting.val (256 + c.val) (word.setWidth 128) := by
  have left : (s.modCtx c fun y => { y with scans := y.scans.eraseIdx 0 }) = withScans s c rest := by
    show s.setCtx c { s.ctx c with scans := (s.ctx c).scans.eraseIdx 0 } = s.setCtx c { s.ctx c with scans := rest }
    rw [h]
    rfl
  unfold finishScan
  rw [show (s.ctx c).scans[0]? = some x by rw [h]; rfl]
  dsimp only
  rw [left]
  rfl

theorem landLater_withScans (s : State) (c : CtxId) (rest : List ScanCmd) (res : List Result) :
    landLater (withScans s c rest) (.ctx c) .a res = s.setCtx c { s.ctx c with
      scans := rest, regs := { (s.ctx c).regs with fly := (s.ctx c).regs.fly ++ [⟨.a, 0, res, 0, 0, true⟩] } } :=
  modBank_setCtx s c { s.ctx c with scans := rest } _

/-- A command that has left changes its context's registers and commands. -/
theorem scanLeft_shape (s : State) (c : CtxId) (x : ScanCmd) (rest : List ScanCmd) (word : Word) :
    ∃ k, scanLeft s c x rest word = s.setCtx c { s.ctx c with scans := rest, regs := k } := by
  unfold scanLeft
  rw [landLater_withScans]
  unfold doneFor
  split
  · exact ⟨_, modBank_setCtx ..⟩
  · exact ⟨_, rfl⟩

/-- What a completion leaves: Suites, rooms, tenants, requested stops; and the commands that still wait. -/
theorem finishScan_leaves (h : (s.ctx c).scans = x :: rest) (word : Word) : let t := finishScan s c 0 word
    t.suites = s.suites ∧ t.rooms = s.rooms ∧ (t.ctx c).scans = rest := by
  obtain ⟨k, left⟩ := scanLeft_shape s c x rest word
  have here : ((scanLeft s c x rest word).ctx c).scans = rest := by rw [left, State.ctx_setCtx, if_pos rfl]
  have parts : (scanLeft s c x rest word).suites = s.suites ∧ (scanLeft s c x rest word).rooms = s.rooms := by
    rw [left]
    exact ⟨rfl, rfl⟩
  intro t
  have made : t = _ := finishScan_head h word
  rw [made]
  split
  · exact ⟨parts.1, parts.2, here⟩
  · have told := postEvent_announced (scanLeft s c x rest word) c evScan x.acting.val (256 + c.val) (word.setWidth 128)
    obtain ⟨_, _, ctx⟩ := told.ctx c
    exact ⟨told.suites.trans parts.1, told.rooms.trans parts.2, by rw [ctx]; exact here⟩

/-- The result word, the done increment and the event. -/
theorem finishScan_result (h : (s.ctx c).scans = x :: rest) (word : Word) : let t := finishScan s c 0 word
    (t.ctx c).scans = rest ∧ (t.bank (.ctx c)).fly = (s.bank (.ctx c)).fly ++ [⟨.a, 0, [.a x.d word], 0, 0, true⟩] ∧
      doneIn s t (.ctx c) .a x.dn ∧
      (t.ctx c).events = (s.ctx c).events ++
        if x.op = .query then [] else [⟨s.pkg.eventSeq, 4, x.acting.val, 256 + c.val, word.setWidth 128, (s.ctx c).hostfwd⟩] := by
  obtain ⟨k, left⟩ := scanLeft_shape s c x rest word
  obtain ⟨pkg, -, -, -, -, -, -, regs⟩ := doneFor_keeps (landLater (withScans s c rest) (.ctx c) .a [.a x.d word]) (.ctx c) .a x.dn
  have landed : (landLater (withScans s c rest) (.ctx c) .a [.a x.d word]).bank (.ctx c) =
      { s.bank (.ctx c) with fly := (s.bank (.ctx c)).fly ++ [⟨.a, 0, [.a x.d word], 0, 0, true⟩] } := by
    rw [landLater_withScans, bank_setCtx]
    rfl
  have fly : ((scanLeft s c x rest word).bank (.ctx c)).fly = (s.bank (.ctx c)).fly ++ [⟨.a, 0, [.a x.d word], 0, 0, true⟩] := by
    unfold scanLeft
    rw [regs, landed]
  have done : doneIn s (scanLeft s c x rest word) (.ctx c) .a x.dn := fun n => by
    refine (doneFor_done _ (.ctx c) .a x.dn n).trans ?_
    rw [landed]
    rfl
  have events : ((scanLeft s c x rest word).ctx c).events = (s.ctx c).events ∧ ((scanLeft s c x rest word).ctx c).hostfwd = (s.ctx c).hostfwd ∧
      (scanLeft s c x rest word).pkg = s.pkg := by
    rw [left, State.ctx_setCtx, if_pos rfl]
    exact ⟨rfl, rfl, rfl⟩
  obtain ⟨events, hostfwd, pkg⟩ := events
  intro t
  obtain ⟨-, -, scans⟩ := finishScan_leaves h word
  refine ⟨scans, ?_⟩
  have made : t = _ := finishScan_head h word
  rw [made]
  split
  · exact ⟨fly, done, by rw [events, List.append_nil]⟩
  · have told := postEvent_announced (scanLeft s c x rest word) c evScan x.acting.val (256 + c.val) (word.setWidth 128)
    refine ⟨by rw [told.bank]; exact fly, fun n => ?_, ?_⟩
    · have same := told.bank (.ctx c)
      exact (congrArg (fun k : Bank => (k.stream .a).semNew.get ⟨n.toNat, n.isLt⟩) same).trans (done n)
    · rw [events_postEvent, eventFor_sent, events, hostfwd, pkg]
      rfl

end

/-! ### Room masks -/

theorem getLsbD_room (u v : SuiteId) : (((1 <<< v.val : Nat) : Word)).getLsbD u.val = (u == v) := by
  rw [BitVec.natCast_eq_ofNat, BitVec.getLsbD_ofNat, Nat.one_shiftLeft, Nat.testBit_two_pow, Bool.eq_iff_iff]
  simp only [Bool.and_eq_true, decide_eq_true_eq, beq_iff_eq, Fin.ext_iff]
  omega

theorem getLsbD_roomsMask : ∀ (l : List SuiteId) (m : Word) (u : SuiteId),
    (l.foldl (fun (m : Word) u => m ||| (1 <<< u.val)) m).getLsbD u.val = (m.getLsbD u.val || l.contains u)
  | [], m, u => by simp
  | v :: l, m, u => by
    rw [List.foldl_cons, getLsbD_roomsMask l, BitVec.getLsbD_or, List.contains_cons, Bool.or_assoc]
    rw [getLsbD_room]

/-- A list of rooms in the order of their numbers is the list of its mask. -/
theorem maskRooms_roomsMask (s : State) (l : List SuiteId) : maskRooms (roomsMask (extendRooms s l)) = extendRooms s l := by
  unfold maskRooms roomsMask
  rw [List.filter_congr fun u _ => getLsbD_roomsMask (extendRooms s l) 0 u]
  unfold extendRooms
  refine List.filter_congr fun u _ => ?_
  simp

/-! ### Stops -/

section
variable {s : State} {c : CtxId} {x : ScanCmd} {rest : List ScanCmd}

theorem not_taken {y : ScanCmd} (h : y.taken = false) : y.pendingStop = false ∧ y.shifting = false ∧ y.awaitStop = false ∧ y.waitRun = false := by
  simpa [ScanCmd.taken, and_assoc] using h

/-- Without a stop that waits for its cores, nothing is settled. -/
theorem settleStops_none (none_ : ∀ y ∈ (s.ctx c).scans, y.awaitStop = false) (n : Nat) : settleStops c n s = s := by
  have found : (s.ctx c).scans.findIdx? (·.awaitStop) = none := by
    rw [List.findIdx?_eq_none_iff]
    exact none_
  cases n with
  | zero => rfl
  | succ n =>
    unfold settleStops
    rw [found]

/-- A stop at the head completes, once every core it names has come to rest. -/
theorem settleStops_head (h : (s.ctx c).scans = x :: rest) (waits : x.awaitStop = true) (others : ∀ y ∈ rest, y.taken = false) (n : Nat) :
    settleStops c (n + 1) s = if stopDone s x then finishScan s c 0 0 else s := by
  have found : (s.ctx c).scans.findIdx? (·.awaitStop) = some 0 := by
    rw [h, List.findIdx?_cons, if_pos waits]
  have cmd : (s.ctx c).scans[0]? = some x := by rw [h]; rfl
  unfold settleStops
  rw [found]
  dsimp only
  rw [cmd]
  dsimp only
  split
  · obtain ⟨-, -, scans⟩ := finishScan_leaves h (scanWord stOk 0)
    exact settleStops_none (by rw [scans]; exact fun y mem => (not_taken (others y mem)).2.2.1) n
  · rfl

/-- While a stop names cores that it has just asked to stop, it is over when they have come to rest. -/
theorem stopDone_asked {l : List SuiteId} (rooms : maskRooms x.rooms = l) (b : Bool) :
    stopDone (requestStop s l b (x.ctl.getLsbD 17)) x = true ↔ x.ctl.getLsbD 17 = false ∨ ∀ u, u ∈ l → coreStopped s u = true := by
  have rest : ∀ u, coreStopped (requestStop s l b (x.ctl.getLsbD 17)) u = coreStopped s u := fun u => rfl
  have asked : ∀ u, u ∈ l → x.ctl.getLsbD 17 = true →
      ((requestStop s l b (x.ctl.getLsbD 17)).pkg.stopReq.any fun q => q.1 == u && q.2.2) = true := fun u mem on => by
    rw [List.any_eq_true]
    exact ⟨(u, b, x.ctl.getLsbD 17), List.mem_append_right _ (List.mem_map.mpr ⟨u, mem, rfl⟩), by simp [on]⟩
  unfold stopDone
  rw [rooms]
  cases core : x.ctl.getLsbD 17 with
  | false => simp
  | true =>
    rw [core] at rest asked
    simp only [Bool.not_true, Bool.false_or, List.all_eq_true, Bool.or_eq_true, rest, Bool.and_eq_true, Bool.not_eq_true', reduceCtorEq, false_or]
    constructor
    · intro all u mem
      rcases all u mem with stopped | ⟨-, unasked⟩
      · exact stopped
      · exact absurd ((asked u mem rfl).symm.trans unasked) (by decide)
    · exact fun all u mem => .inl (all u mem)

end

/-! ### What the controller takes -/

section
variable {s : State} {c : CtxId} {x : ScanCmd} {rest : List ScanCmd} (h : (s.ctx c).scans = x :: rest) (fresh : x.taken = false)
include h fresh

theorem take_stop (op : x.op = .stop) : exec (.scanControllerTake c) s = .next (takeStop s c 0 x) := by
  show Host.Outcome.next _ = _
  rw [h]
  dsimp only
  rw [if_neg (by simp [(not_taken fresh).1]), if_neg (by simp [fresh]), op]

theorem take_run (op : x.op = .run) : exec (.scanControllerTake c) s = .next (takeRun s c 0 x) := by
  show Host.Outcome.next _ = _
  rw [h]
  dsimp only
  rw [if_neg (by simp [(not_taken fresh).1]), if_neg (by simp [fresh]), op]

theorem take_transfer (op : x.op = .out ∨ x.op = .inp) : exec (.scanControllerTake c) s = .next (takeTransfer s c 0 x) := by
  show Host.Outcome.next _ = _
  rw [h]
  dsimp only
  rw [if_neg (by simp [(not_taken fresh).1]), if_neg (by simp [fresh])]
  rcases op with op | op <;> rw [op]

theorem take_query (op : x.op = .query) : exec (.scanControllerTake c) s = .next (takeQuery s c 0 x) := by
  show Host.Outcome.next _ = _
  rw [h]
  dsimp only
  rw [if_neg (by simp [(not_taken fresh).1]), if_neg (by simp [fresh]), op]

omit fresh h in
theorem roomRefusal_foreign {rooms : List SuiteId} {u : SuiteId} (foreign : ((maskRooms x.rooms).find? fun u => !owns s x.acting u) = some u) :
    roomRefusal s c x rooms = some (stNotOwn, u.val) := by
  unfold roomRefusal
  rw [foreign]

omit fresh h in
theorem roomRefusal_free {rooms : List SuiteId} (foreign : ((maskRooms x.rooms).find? fun u => !owns s x.acting u) = none)
    (held : ∀ u, u ∈ rooms → heldByStop s c u = false) (flues : x.op = .run → ∀ u, u ∈ rooms → flueBusy s c (fun id => segRoom id == u) = false) :
    roomRefusal s c x rooms = none := by
  have quiet : (rooms.find? fun u => heldByStop s c u || (x.op == .run && flueBusy s c fun id => segRoom id == u)) = none := by
    rw [List.find?_eq_none]
    intro u mem
    rw [held u mem, Bool.false_or, Bool.and_eq_true, beq_iff_eq]
    rintro ⟨op, busy⟩
    rw [flues op u mem] at busy
    cases busy
  unfold roomRefusal
  rw [foreign]
  dsimp only
  rw [quiet]

end

/-! ### Stops and restarts, taken -/

section
variable {s : State} {c : CtxId} {x : ScanCmd} {rest : List ScanCmd} (h : (s.ctx c).scans = x :: rest) (fresh : x.taken = false)
include h fresh

theorem take_refused {u : SuiteId} (op : x.op = .stop ∨ x.op = .run) (foreign : ((maskRooms x.rooms).find? fun u => !owns s x.acting u) = some u) :
    exec (.scanControllerTake c) s = .next (finishScan s c 0 (BitVec.ofNat 64 (256 * u.val + 1))) := by
  rcases op with op | op
  · rw [take_stop h fresh op]
    unfold takeStop
    dsimp only
    rw [roomRefusal_foreign foreign]
    rfl
  · rw [take_run h fresh op]
    unfold takeRun
    rw [roomRefusal_foreign foreign]
    rfl

variable (foreign : ((maskRooms x.rooms).find? fun u => !owns s x.acting u) = none)
  (held : ∀ u, u ∈ extendRooms s (maskRooms x.rooms) → heldByStop s c u = false)
include foreign held

theorem take_beatStop (op : x.op = .stop) (beat : x.ctl.getLsbD 18 = true) : exec (.scanControllerTake c) s =
    .next (withScans s c ({ x with rooms := roomsMask (extendRooms s (maskRooms x.rooms)), pendingStop := true } :: rest)) := by
  rw [take_stop h fresh op]
  unfold takeStop
  dsimp only
  rw [roomRefusal_free foreign held fun no => by rw [op] at no; cases no]
  dsimp only
  rw [if_pos beat, modScan_head h]

theorem take_stopNow (op : x.op = .stop) (now : x.ctl.getLsbD 18 = false) (others : ∀ y ∈ rest, y.taken = false) :
    let rooms := extendRooms s (maskRooms x.rooms)
    let t := withScans (requestStop s rooms (x.ctl.getLsbD 16) (x.ctl.getLsbD 17)) c ({ x with rooms := roomsMask rooms, awaitStop := true } :: rest)
    exec (.scanControllerTake c) s =
      .next (if x.ctl.getLsbD 17 = false ∨ ∀ u, u ∈ rooms → coreStopped s u = true then finishScan t c 0 0 else t) := by
  intro rooms t
  have named : maskRooms (roomsMask rooms) = rooms := maskRooms_roomsMask ..
  have quiet : (s.ctx c).scans.filter (·.pendingStop) = [] := by
    rw [h, List.filter_eq_nil_iff]
    intro y mem
    rcases List.mem_cons.mp mem with rfl | mem
    · simp [(not_taken fresh).1]
    · simp [(not_taken (others y mem)).1]
  have kept : ∀ l : List ScanCmd, (∀ y ∈ l, y.taken = false) →
      l.map (fun z => if z.pendingStop then { z with pendingStop := false, awaitStop := true } else z) = l := fun l all => by
    refine (List.map_congr_left fun y mem => ?_).trans (List.map_id l)
    rw [if_neg (by simp [(not_taken (all y mem)).1])]
    rfl
  have listed : ((requestStop s rooms (x.ctl.getLsbD 16) (x.ctl.getLsbD 17)).modCtx c fun y =>
      { y with scans := (y.scans.set 0 { x with rooms := roomsMask rooms, awaitStop := true }).map fun z =>
          if z.pendingStop then { z with pendingStop := false, awaitStop := true } else z }) = t := by
    show (requestStop s rooms _ _).setCtx c { s.ctx c with scans := ((s.ctx c).scans.set 0 _).map _ } = _
    rw [h, List.set_cons_zero, List.map_cons, kept rest others, if_neg (by simp [(not_taken fresh).1])]
    rfl
  have done : stopDone t { x with rooms := roomsMask rooms, awaitStop := true } = true ↔
      x.ctl.getLsbD 17 = false ∨ ∀ u, u ∈ rooms → coreStopped s u = true :=
    stopDone_asked (s := s) (x := { x with rooms := roomsMask rooms, awaitStop := true }) named (x.ctl.getLsbD 16)
  rw [take_stop h fresh op]
  unfold takeStop
  dsimp only
  rw [roomRefusal_free foreign held fun no => by rw [op] at no; cases no]
  dsimp only
  rw [if_neg (by rw [now]; decide), quiet]
  have settled := settleStops_head (scans_withScans (requestStop s rooms (x.ctl.getLsbD 16) (x.ctl.getLsbD 17)) c
    ({ x with rooms := roomsMask rooms, awaitStop := true } :: rest)) rfl others 1
  refine congrArg Host.Outcome.next ?_
  unfold stopNamed
  rw [List.foldl_nil]
  dsimp only
  rw [named, listed]
  refine settled.trans ?_
  rw [if_congr done rfl rfl]

theorem take_restart (op : x.op = .run) (flues : ∀ u, u ∈ extendRooms s (maskRooms x.rooms) → flueBusy s c (fun id => segRoom id == u) = false) :
    exec (.scanControllerTake c) s = .next (withScans s c ({ x with waitRun := true } :: rest)) := by
  rw [take_run h fresh op]
  unfold takeRun
  rw [roomRefusal_free foreign held fun _ => flues]
  dsimp only
  rw [modScan_head h]

end

/-! ### Queries -/

section
variable {s : State} {c : CtxId} {x : ScanCmd} {rest : List ScanCmd} (h : (s.ctx c).scans = x :: rest) (fresh : x.taken = false)
include h fresh

theorem take_queryForeign {e : SegEntry} (op : x.op = .query) (entry : x.entries = [e]) (foreign : owns s x.acting (segRoom e.id.toNat) = false) :
    exec (.scanControllerTake c) s = .next (finishScan s c 0 1) := by
  rw [take_query h fresh op]
  unfold takeQuery
  rw [entry]
  dsimp only
  rw [if_pos (by simp [foreign])]
  rfl

theorem take_queryOwn {e : SegEntry} (op : x.op = .query) (entry : x.entries = [e]) (own : owns s x.acting (segRoom e.id.toNat) = true) :
    ∃ pend flue : Bool, exec (.scanControllerTake c) s = .next (finishScan s c 0 (BitVec.ofNat 64
      (2 ^ 32 * payloadBits e.id.toNat + 1024 * pend.toNat + 512 * flue.toNat + 256 * (segStopped s e.id.toNat).toNat))) := by
  have bit : ∀ (n : Nat) (b : Bool), (if b = true then n else 0) = n * b.toNat := fun n b => by cases b <;> simp
  refine ⟨(List.finRange 128).any fun k => (s.ctx k).scans.any fun y => y.pendingStop && y.rooms.getLsbD (segRoom e.id.toNat).val,
    (List.finRange 128).any fun k => (s.ctx k).scans.any fun y => flueShifts y e.id.toNat, ?_⟩
  rw [take_query h fresh op]
  unfold takeQuery
  rw [entry]
  dsimp only
  rw [if_neg (by simp [own]), bit, bit, bit]

end

/-! ### Transfers -/

section
variable {s : State} {c : CtxId} {x : ScanCmd} {rest : List ScanCmd} (h : (s.ctx c).scans = x :: rest) (fresh : x.taken = false)
include h fresh

theorem take_transferRefused (op : x.op = .out ∨ x.op = .inp) {st k : Nat} (refused : transferRefusal s c x [] = some (st, k)) :
    exec (.scanControllerTake c) s = .next (finishScan s c 0 (BitVec.ofNat 64 (256 * k + st))) := by
  rw [take_transfer h fresh op]
  unfold takeTransfer
  rw [refused]
  rfl

variable (accepted : transferRefusal s c x [] = none)
include accepted

theorem take_out (op : x.op = .out) : exec (.scanControllerTake c) s =
    .next (withScans s c ({ x with shifting := true, ports := shiftPorts x.entries, data := x.data } :: rest)) := by
  have noRead : (x.op = .inp) = False := by rw [op]; simp
  rw [take_transfer h fresh (.inl op)]
  unfold takeTransfer
  rw [accepted]
  simp only [noRead, if_false, readImages, List.length_nil, Nat.lt_irrefl, List.append_nil]
  rw [modScan_head h]

theorem take_inp (op : x.op = .inp) {got : List (List Byte)} {t1 : State}
    (read : readImages c x.acting ((imageLines x).drop x.data.length) s = (got, t1)) : exec (.scanControllerTake c) s = .next (
      if got.length < ((imageLines x).drop x.data.length).length then modScan t1 c 0 fun z => { z with data := x.data ++ got }
      else match transferRefusal t1 c x (splitImages x.entries (x.data ++ got)) with
        | some (st, whr) => finishScan t1 c 0 (scanWord st whr)
        | none => modScan t1 c 0 fun z => { z with shifting := true, ports := shiftPorts z.entries, data := x.data ++ got }) := by
  rw [take_transfer h fresh (.inr op)]
  unfold takeTransfer
  rw [accepted]
  simp only [op, if_true, read] <;> rfl

end

/-! ### Reading the images' lines -/

theorem Translated.ctxs {s t : State} (h : Translated s t) : t.ctxs = s.ctxs := by
  obtain ⟨_, _, _, _, _, _, _, _, _, _, rfl⟩ := h.rest
  rfl

theorem ctxs_l2AskFor (s : State) (w : Asker) (t : TenantId) (line : Nat) : (l2AskFor s w t line).ctxs = s.ctxs := by
  unfold l2AskFor
  split <;> rfl

/-- An access through a slice port leaves the contexts. -/
theorem ctxs_loadVaBy (s : State) (w : Asker) (bucket t : TenantId) (va n : Nat) : (loadVaBy s w bucket t va n).2.ctxs = s.ctxs := by
  have desc := getDesc_translated s t (va / 2 ^ 36)
  unfold loadVaBy
  split
  next eq =>
    rw [eq] at desc
    exact desc.ctxs
  next d s1 eq =>
    rw [eq] at desc
    have way := desc.trans (translate_translated s1 t (va / 2 ^ 36) d (va % 2 ^ 36) false false)
    split
    next eq2 =>
      rw [eq2] at way
      exact way.ctxs
    next eq2 =>
      rw [eq2] at way
      exact way.ctxs
    next pa slot s2 eq2 =>
      rw [eq2] at way
      split
      · exact (physRead_translated (l2Use s2 w (pa / 64)) slot pa n).ctxs.trans way.ctxs
      · exact (ctxs_l2AskFor ..).trans way.ctxs

theorem ctxs_bufferLine (s : State) (c : CtxId) (acting : TenantId) (va : Nat) : (bufferLine s c acting va).2.ctxs = s.ctxs := by
  have read := ctxs_loadVaBy s (.scan c) acting (ctxTenant s c) va 64
  unfold bufferLine
  split
  all_goals
    next eq =>
      rw [eq] at read
      exact read

theorem ctxs_readImages (c : CtxId) (acting : TenantId) : ∀ (l : List Nat) (s : State), (readImages c acting l s).2.ctxs = s.ctxs
  | [], _ => rfl
  | va :: l, s => by
    have line := ctxs_bufferLine s c acting va
    unfold readImages
    split
    next eq =>
      rw [eq] at line
      exact line
    next s1 eq =>
      rw [eq] at line
      exact (ctxs_readImages c acting l s1).trans line

section
variable {s : State} {c : CtxId} {x : ScanCmd} {rest : List ScanCmd}

theorem bufferLine_read {acting : TenantId} {va : Nat} {l : List Byte} {t : State}
    (read : loadVaBy s (.scan c) acting (ctxTenant s c) va 64 = (.ok l, t)) : bufferLine s c acting va = (some l, t) := by
  unfold bufferLine
  rw [read]

theorem bufferLine_waits {acting : TenantId} {va : Nat} {t : State}
    (read : loadVaBy s (.scan c) acting (ctxTenant s c) va 64 = (.wait, t)) : bufferLine s c acting va = (none, t) := by
  unfold bufferLine
  rw [read]

/-! ### Stops at a beat, and stops that complete -/

theorem beatStop_early (h : (s.ctx c).scans = x :: rest) (unmet : (maskRooms x.rooms).any (beatReached s (x.ctl.toNat / 2 ^ 32)) = false) :
    exec (.beatStop c) s = .next s := by
  show Host.Outcome.next _ = _
  rw [h]
  dsimp only
  rw [unmet, Bool.and_false, if_neg (by decide)]

theorem beatStop_due (h : (s.ctx c).scans = x :: rest) (pending : x.pendingStop = true) (others : ∀ y ∈ rest, y.taken = false)
    (met : (maskRooms x.rooms).any (beatReached s (x.ctl.toNat / 2 ^ 32)) = true) :
    let t := withScans (stopNamed s x) c ({ x with pendingStop := false, awaitStop := true } :: rest)
    exec (.beatStop c) s =
      .next (if x.ctl.getLsbD 17 = true ∧ ¬ (∀ u, u ∈ maskRooms x.rooms → coreStopped s u = true) then t else finishScan t c 0 0) := by
  intro t
  have listed : modScan (stopNamed s x) c 0 (fun y => { y with pendingStop := false, awaitStop := true }) = t :=
    modScan_head (s := stopNamed s x) h _
  have settled := settleStops_head (scans_withScans (stopNamed s x) c ({ x with pendingStop := false, awaitStop := true } :: rest)) rfl others 1
  have done : stopDone t { x with pendingStop := false, awaitStop := true } = true ↔
      x.ctl.getLsbD 17 = false ∨ ∀ u, u ∈ maskRooms x.rooms → coreStopped s u = true :=
    stopDone_asked (s := s) (x := { x with pendingStop := false, awaitStop := true }) rfl (x.ctl.getLsbD 16)
  show Host.Outcome.next _ = _
  rw [h]
  dsimp only
  rw [pending, met, Bool.and_self, if_pos rfl, listed]
  refine congrArg Host.Outcome.next (settled.trans ?_)
  by_cases ended : stopDone t { x with pendingStop := false, awaitStop := true } = true
  · rw [if_pos ended, if_neg]
    rintro ⟨core, waits⟩
    rcases done.mp ended with none_ | all
    · exact absurd (none_.symm.trans core) (by decide)
    · exact waits all
  · rw [if_neg ended, if_pos]
    rw [done] at ended
    exact ⟨by simpa using fun none_ => ended (.inl none_), fun all => ended (.inr all)⟩

theorem stopDone_iff : stopDone s x = true ↔ ¬ (x.ctl.getLsbD 17 = true ∧ ¬ (∀ u, u ∈ maskRooms x.rooms → coreStopped s u = true ∨
    ((s.suite u).stopped = false ∧ ∀ q, q ∈ s.pkg.stopReq → q.1 = u → q.2.2 = false))) := by
  unfold stopDone
  cases x.ctl.getLsbD 17 with
  | false => simp
  | true =>
    simp only [Bool.not_true, Bool.false_or, List.all_eq_true, Bool.or_eq_true, Bool.and_eq_true, Bool.not_eq_true', true_and, not_not,
      List.any_eq_false, beq_iff_eq, not_and, Bool.not_eq_true]

theorem coreStop_completes (h : (s.ctx c).scans = x :: rest) (waits : x.awaitStop = true) (others : ∀ y ∈ rest, y.taken = false) :
    exec (.coreStopComplete c) s = .next (if x.ctl.getLsbD 17 = true ∧ ¬ (∀ u, u ∈ maskRooms x.rooms → coreStopped s u = true ∨
        ((s.suite u).stopped = false ∧ ∀ q, q ∈ s.pkg.stopReq → q.1 = u → q.2.2 = false)) then s else finishScan s c 0 0) := by
  refine congrArg Host.Outcome.next ((settleStops_head h waits others 1).trans ?_)
  by_cases ended : stopDone s x = true
  · rw [if_pos ended, if_neg (stopDone_iff.mp ended)]
  · rw [if_neg ended, if_pos (not_not.mp (stopDone_iff.not.mp ended))]

end

/-! ### Restarts -/

/-- Between two states no clock stops or starts, and the contexts are the same. -/
structure SameClocks (s t : State) : Prop where
  room : ∀ u, (t.room u).stopped = (s.room u).stopped
  suite : ∀ u, (t.suite u).stopped = (s.suite u).stopped
  ctxs : t.ctxs = s.ctxs

namespace SameClocks
variable {s t v : State}

theorem refl (s : State) : SameClocks s s := ⟨fun _ => rfl, fun _ => rfl, rfl⟩

theorem modRoom (h : SameClocks s t) {u : SuiteId} {f : Room → Room} (hf : ∀ x, (f x).stopped = x.stopped := by intro x; rfl) :
    SameClocks s (t.modRoom u f) :=
  ⟨fun w => by
    rw [State.room_modRoom]
    split
    next same => subst same; exact (hf _).trans (h.room u)
    next => exact h.room w, h.suite, h.ctxs⟩

theorem modSuite (h : SameClocks s t) {u : SuiteId} {f : Suite → Suite} (hf : ∀ x, (f x).stopped = x.stopped := by intro x; rfl) :
    SameClocks s (t.modSuite u f) :=
  ⟨h.room, fun w => by
    rw [State.suite_modSuite]
    split
    next same => subst same; exact (hf _).trans (h.suite u)
    next => exact h.suite w, h.ctxs⟩

theorem foldl {α : Type} {f : State → α → State} {l : List α} (hf : ∀ t a, SameClocks s t → SameClocks s (f t a)) (h : SameClocks s t) :
    SameClocks s (l.foldl f t) := List.foldlRecOn (motive := fun t => SameClocks s t) l f h fun t g a _ => hf t a g

theorem settleWing (h : SameClocks s t) (lead : SuiteId) : SameClocks s (settleWing t lead) := by
  unfold Machine.settleWing
  refine foldl (fun _ _ g => (g.modRoom).modSuite) ?_
  split
  · exact h.modRoom
  · exact (h.modRoom).modRoom

end SameClocks

/-- The room clock of a list of rooms starts. -/
def startRooms (s : State) (l : List SuiteId) : State := l.foldl (fun s u => s.modRoom u fun r => { r with stopped := false }) s

/-- The core clock of a list of Suites starts. -/
def startCores (s : State) (l : List SuiteId) : State := l.foldl (fun s u => s.modSuite u fun y => { y with stopped := false }) s

theorem room_startRooms : ∀ (l : List SuiteId) (t : State) (u : SuiteId),
    ((startRooms t l).room u).stopped = ((t.room u).stopped && !l.contains u)
  | [], t, u => by simp [startRooms]
  | v :: l, t, u => by
    refine (room_startRooms l _ u).trans ?_
    rw [State.room_modRoom, List.contains_cons]
    by_cases same : v = u
    · subst same
      simp
    · rw [if_neg same, beq_eq_false_iff_ne.mpr (Ne.symm same), Bool.false_or]

theorem suite_startCores : ∀ (l : List SuiteId) (t : State) (u : SuiteId),
    ((startCores t l).suite u).stopped = ((t.suite u).stopped && !l.contains u)
  | [], t, u => by simp [startCores]
  | v :: l, t, u => by
    refine (suite_startCores l _ u).trans ?_
    rw [State.suite_modSuite, List.contains_cons]
    by_cases same : v = u
    · subst same
      simp
    · rw [if_neg same, beq_eq_false_iff_ne.mpr (Ne.symm same), Bool.false_or]

theorem startRooms_keeps (l : List SuiteId) (t : State) : (startRooms t l).suites = t.suites ∧ (startRooms t l).ctxs = t.ctxs :=
  List.foldlRecOn (motive := fun z : State => z.suites = t.suites ∧ z.ctxs = t.ctxs) l _ ⟨rfl, rfl⟩ fun _ same _ _ => same

theorem startCores_keeps (l : List SuiteId) (t : State) : (startCores t l).rooms = t.rooms ∧ (startCores t l).ctxs = t.ctxs :=
  List.foldlRecOn (motive := fun z : State => z.rooms = t.rooms ∧ z.ctxs = t.ctxs) l _ ⟨rfl, rfl⟩ fun _ same _ _ => same

section
variable {s : State} {c : CtxId} {x : ScanCmd} {rest : List ScanCmd}

/-- Where no room is damaged and none uses what is not accepted, every named room restarts. -/
theorem runRooms_sound (whole : ∀ u, u ∈ extendRooms s (maskRooms x.rooms) → (s.room u).damaged = [] ∧ usesUnaccepted s u = false) :
    runRooms s x = (extendRooms s (maskRooms x.rooms), none) := by
  have sound : (extendRooms s (maskRooms x.rooms)).filter (fun u => !(s.room u).damaged.isEmpty) = [] := by
    rw [List.filter_eq_nil_iff]
    intro u mem
    simp [(whole u mem).1]
  have accepted : (if x.ctl.getLsbD 16 then (extendRooms s (maskRooms x.rooms)).filter fun u => (s.room u).stopped && usesUnaccepted s u &&
      !([] : List SuiteId).contains (leadOf s u) else []) = [] := by
    split
    · rw [List.filter_eq_nil_iff]
      intro u mem
      simp [(whole u mem).2]
    · rfl
  unfold runRooms
  dsimp only
  rw [sound, List.map_nil, accepted]
  simp

/-- The rooms whose clock a restart starts. -/
def stoppedOf (s : State) (x : ScanCmd) : List SuiteId := (extendRooms s (maskRooms x.rooms)).filter fun u => (s.room u).stopped

/-- Whether the phase of the first stopped room has come (R317). -/
def phaseDue (s : State) (x : ScanCmd) : Bool :=
  match (stoppedOf s x).head? with
  | some u => rcycOf s u % 8 == ((s.room u).rphase.toNat + 1) % 8
  | none => true

/-- The machine once the named clocks run. -/
def restarted (s : State) (x : ScanCmd) : State :=
  let rooms := extendRooms s (maskRooms x.rooms)
  let leads := ((if x.ctl.getLsbD 17 then rooms else stoppedOf s x).map (leadOf s)).dedup
  let s2 := startRooms (leads.foldl settleWing s) (stoppedOf s x)
  if x.ctl.getLsbD 17 then startCores s2 rooms else s2

theorem exec_scnrunRestart (h : (s.ctx c).scans = x :: rest) (waits : x.waitRun = true) (roomClock : x.ctl.getLsbD 16 = true)
    (whole : ∀ u, u ∈ extendRooms s (maskRooms x.rooms) → (s.room u).damaged = [] ∧ usesUnaccepted s u = false) :
    exec (.scnrunRestart c) s = .next (if phaseDue s x then finishScan (restarted s x) c 0 0 else s) := by
  show Host.Outcome.next _ = _
  rw [h]
  dsimp only
  rw [runRooms_sound whole]
  dsimp only
  rw [roomClock, waits]
  simp only [if_true, Bool.not_true, Bool.false_or]
  change Host.Outcome.next (if (!phaseDue s x) = true then s else finishScan (restarted s x) c 0 (scanWord stOk 0)) = _
  cases phaseDue s x <;> rfl

theorem restarted_clocks (s : State) (x : ScanCmd) : let t := restarted s x
    t.ctxs = s.ctxs ∧ (∀ u, (t.room u).stopped = ((s.room u).stopped && !(extendRooms s (maskRooms x.rooms)).contains u)) ∧
      ∀ u, (t.suite u).stopped = ((s.suite u).stopped && !(x.ctl.getLsbD 17 && (extendRooms s (maskRooms x.rooms)).contains u)) := by
  have settled : SameClocks s ((((if x.ctl.getLsbD 17 then extendRooms s (maskRooms x.rooms) else stoppedOf s x).map (leadOf s)).dedup).foldl settleWing s) :=
    .foldl (fun _ lead g => g.settleWing lead) (.refl s)
  unfold restarted
  dsimp only
  generalize List.foldl settleWing s _ = y at settled
  obtain ⟨suites, ctxs⟩ := startRooms_keeps (stoppedOf s x) y
  have rooms : ∀ u, ((startRooms y (stoppedOf s x)).room u).stopped = ((s.room u).stopped && !(extendRooms s (maskRooms x.rooms)).contains u) := fun u => by
    rw [room_startRooms, settled.room]
    cases stopped : (s.room u).stopped with
    | false => rfl
    | true => simp [stoppedOf, stopped]
  have cores : ∀ u, ((startRooms y (stoppedOf s x)).suite u).stopped = (s.suite u).stopped := fun u =>
    (congrArg (fun l : Vector Suite 64 => (l.get u).stopped) suites).trans (settled.suite u)
  split
  next core =>
    obtain ⟨same, ctxs'⟩ := startCores_keeps (extendRooms s (maskRooms x.rooms)) (startRooms y (stoppedOf s x))
    refine ⟨ctxs'.trans (ctxs.trans settled.ctxs), fun u => ?_, fun u => ?_⟩
    · exact (congrArg (fun l : Vector Room 64 => (l.get u).stopped) same).trans (rooms u)
    · rw [suite_startCores, cores, core, Bool.true_and]
  next none_ =>
    refine ⟨ctxs.trans settled.ctxs, rooms, fun u => ?_⟩
    rw [cores, Bool.eq_false_iff.mpr none_, Bool.false_and, Bool.not_false, Bool.and_true]

end

/-! ### Shifts -/

section
variable {s : State} {c : CtxId} {x : ScanCmd} {rest : List ScanCmd} (h : (s.ctx c).scans = x :: rest) (shifting : x.shifting = true)
include h shifting

theorem shift_flue (busy : ∃ p, p ∈ x.ports ∧ p.2 ≠ 0) : exec (.scanShiftCompletion c) s =
    .next (withScans s c ({ x with ports := x.ports.map fun p => if portMine s c p.1 then (p.1, p.2 - 1) else p } :: rest)) := by
  show Host.Outcome.next _ = _
  rw [h]
  dsimp only
  rw [if_neg (by rw [shifting]; decide), if_pos, modScan_head h]
  rw [List.any_eq_true]
  obtain ⟨p, mem, left⟩ := busy
  exact ⟨p, mem, by simp [left]⟩

theorem shift_flued (idle : ∀ p, p ∈ x.ports → p.2 = 0) : exec (.scanShiftCompletion c) s = .next (
    if !x.shifted then
      if Config.choice s.fresh % 2 ≠ 0 then { s with fresh := s.fresh + 1 }
      else
        let r := shiftEntries { s with fresh := s.fresh + 1 } x fun _ _ => true
        modScan r.2.2 c 0 fun y => { y with shifted := true, lines := r.2.1, bad := r.1 }
    else match writeLines c x.acting x.lines s with
      | ([], s1) => match x.bad with
        | some id => finishTrapped s1 c 0 cSCNCRC id
        | none => finishScan s1 c 0 (scanWord stOk 0)
      | (l, s1) => modScan s1 c 0 fun y => { y with lines := l }) := by
  show Host.Outcome.next _ = _
  rw [h]
  dsimp only
  rw [shifting, if_neg (by decide), if_neg]
  · rfl
  · rw [List.any_eq_true]
    rintro ⟨p, mem, left⟩
    simp [idle p mem] at left

omit h shifting in
/-- One entry that shifts whole, its segment without an error. -/
theorem shiftEntries_one {e : SegEntry} (entry : x.entries = [e]) : shiftEntries s x (fun _ _ => true) =
    ((if (shiftEntry s x e 0 ((splitImages [e] x.data).getD 0 [])).1 then some e.id.toNat else none),
      (shiftEntry s x e 0 ((splitImages [e] x.data).getD 0 [])).2.1, (shiftEntry s x e 0 ((splitImages [e] x.data).getD 0 [])).2.2) := by
  unfold shiftEntries
  rw [entry]
  dsimp only
  rw [show (entryPlaces [e]).zipIdx = [((e, 0, 0), 0)] from rfl, List.foldl_cons, List.foldl_nil]
  simp only [if_true, Option.isNone_none, Bool.and_true, List.nil_append]

omit h shifting in
theorem flueErrors_none (quiet : s.pkg.flips = []) (id : Nat) : flueErrors s id = (0, s) := by
  have none_ : ∀ p : ErrSite → Bool, s.pkg.flips.filter p = s.pkg.flips := fun p => by
    rw [quiet]
    rfl
  unfold flueErrors State.modPkg
  dsimp only
  rw [none_, quiet]
  refine Prod.ext rfl ?_
  dsimp only
  rw [← quiet]

omit h shifting in
/-- SCNIN loads its image into the segment, which is whole again (R413). -/
theorem shiftEntry_load {e : SegEntry} {image : List Byte} (live : e.dead = false) (quiet : s.pkg.flips = []) (op : x.op = .inp) :
    shiftEntry s x e 0 image = (false, [], healSeg (loadEntry s x.acting e image) e.id.toNat) := by
  unfold shiftEntry
  dsimp only
  rw [live, op, flueErrors_none quiet]
  simp only [Bool.false_eq_true, if_false, reduceCtorEq, ne_eq, not_true_eq_false, List.take_append_drop]
  rfl

omit h shifting in
/-- SCNOUT gives the lines of the payload and of the header. -/
theorem shiftEntry_unload {e : SegEntry} {image : List Byte} (live : e.dead = false) (quiet : s.pkg.flips = []) (op : x.op = .out) :
    let p := payloadOf s e.id.toNat
    shiftEntry s x e 0 image =
      (false, linesOf (x.buf.toNat + 64) p.1 ++ linesOf x.buf.toNat (headerBytes p.2 x.acting e (crc32c p.1)), p.2) := by
  intro p
  have paid : payloadOf s e.id.toNat = (p.1, p.2) := rfl
  unfold shiftEntry
  dsimp only
  rw [live, op, flueErrors_none quiet]
  dsimp only
  rw [paid]
  simp only [Bool.false_eq_true, if_false, if_true, ne_eq, not_true_eq_false, Nat.add_zero]
  rfl

theorem shift_later (idle : ∀ p, p ∈ x.ports → p.2 = 0) (whole : x.shifted = false) (wait : Config.choice s.fresh % 2 = 1) :
    exec (.scanShiftCompletion c) s = .next { s with fresh := s.fresh + 1 } := by
  rw [shift_flued h shifting idle, if_pos (by rw [whole]; rfl), if_pos (by rw [wait]; decide)]

theorem shift_now {e : SegEntry} (idle : ∀ p, p ∈ x.ports → p.2 = 0) (whole : x.shifted = false) (entry : x.entries = [e])
    (now : Config.choice s.fresh % 2 = 0) {bad : Bool} {l : List (Nat × List Byte)} {t : State}
    (shifts : shiftEntry { s with fresh := s.fresh + 1 } x e 0 ((splitImages [e] x.data).getD 0 []) = (bad, l, t)) :
    exec (.scanShiftCompletion c) s = .next (modScan t c 0 fun y =>
      { y with shifted := true, lines := l, bad := if bad then some e.id.toNat else none }) := by
  rw [shift_flued h shifting idle, if_pos (by rw [whole]; rfl), if_neg (by rw [now]; decide), shiftEntries_one entry, shifts]

theorem shift_writes (idle : ∀ p, p ∈ x.ports → p.2 = 0) (whole : x.shifted = true) {l : List (Nat × List Byte)} {t : State}
    (writes : writeLines c x.acting x.lines s = (l, t)) :
    (l ≠ [] → exec (.scanShiftCompletion c) s = .next (modScan t c 0 fun y => { y with lines := l })) ∧
    (l = [] → x.bad = none → exec (.scanShiftCompletion c) s = .next (finishScan t c 0 0)) ∧
    (∀ bad, l = [] → x.bad = some bad → exec (.scanShiftCompletion c) s = .next (finishTrapped t c 0 0x72 bad)) := by
  rw [shift_flued h shifting idle, if_neg (by rw [whole]; decide), writes]
  refine ⟨fun waits => ?_, fun all sound => ?_, fun bad all hurt => ?_⟩
  · cases l with
    | nil => exact absurd rfl waits
    | cons _ _ => rfl
  · rw [all, sound]
    rfl
  · rw [all, hurt]
    rfl

end

/-! ### Damage cleared by hand -/

theorem scndmgClear_heals (s : State) (v : Word) : answers (.scndmgClear v) s fun t =>
    ∀ u, t.room u = if v.getLsbD u.val then { s.room u with damaged := [] } else s.room u := by
  refine ⟨_, rfl, fun u => ?_⟩
  refine (room_foldl_modRoom (fun _ x => { x with damaged := [] }) u ((List.nodup_finRange 64).filter _) s).trans ?_
  simp

/-- Settles O45: the command at the head, by what it waits for. -/
theorem scanCommandsRun : Obligations.ScanCommandsRun := by
  unfold Obligations.ScanCommandsRun
  intro s c x rest h take ends mask rooms foreign free clocks asked becomes roomsWord
  refine ⟨finishScan_result h, fun fresh => ⟨?_, ?_, ?_, ?_, ?_, ?_, ?_, ?_⟩, fun va => ⟨fun l t => bufferLine_read, fun t => bufferLine_waits⟩, ?_, ?_, ?_, ?_,
    scndmgClear_heals s⟩
  · exact fun u op none_ => take_refused h fresh op none_
  · exact fun op ⟨owned, held⟩ beat => take_beatStop h fresh owned held op beat
  · intro op ⟨owned, held⟩ now others t rests
    have taken := take_stopNow h fresh owned held op now others
    exact ⟨fun still => taken.trans (congrArg Host.Outcome.next (if_pos still)), fun waits => taken.trans (congrArg Host.Outcome.next (if_neg waits))⟩
  · exact fun op ⟨owned, held⟩ flues => take_restart h fresh owned held op flues
  · exact fun e op entry none_ => take_queryForeign h fresh op entry none_
  · exact fun e op entry own => take_queryOwn h fresh op entry own
  · exact fun op st k refused => take_transferRefused h fresh op refused
  · intro todo with1 shifts accepted
    refine ⟨fun op => (take_out h fresh accepted op).trans (congrArg Host.Outcome.next (modScan_head h fun z =>
      { z with shifting := true, ports := shiftPorts x.entries, data := x.data }).symm), fun op got t1 read => ?_⟩
    have taken := take_inp h fresh accepted op read
    have kept : (t1.ctx c).scans = x :: rest := by
      have same := ctxs_readImages c x.acting ((imageLines x).drop x.data.length) s
      rw [show readImages c x.acting ((imageLines x).drop x.data.length) s = (got, t1) from read] at same
      exact (congrArg (fun l : Vector Ctx 128 => (l.get c).scans) same).trans h
    intro data
    refine ⟨fun short => taken.trans (by rw [if_pos short]; rfl), fun whole => ⟨fun st k refused => ?_, fun fine => ?_⟩⟩
    · refine taken.trans ?_
      rw [if_neg (Nat.not_lt.mpr whole), refused]
      rfl
    · refine taken.trans ?_
      rw [if_neg (Nat.not_lt.mpr whole), fine]
      exact congrArg Host.Outcome.next ((modScan_head kept _).trans (modScan_head kept fun z =>
        { z with shifting := true, ports := shiftPorts x.entries, data := data }).symm)
  · intro pending others named t met
    refine ⟨beatStop_early h, fun due => (beatStop_due h pending others due).trans ?_⟩
    rfl
  · exact fun waits others => coreStop_completes h waits others
  · intro waits roomClock whole first due
    have restart := exec_scnrunRestart h waits roomClock whole
    have phase : phaseDue s x = true ↔ due := by
      unfold phaseDue stoppedOf
      rw [List.head?_filter]
      change _ ↔ match (extendRooms s (maskRooms x.rooms)).find? fun u => (s.room u).stopped with
        | some u => rcycOf s u % 8 = ((s.room u).rphase.toNat + 1) % 8
        | none => True
      cases (extendRooms s (maskRooms x.rooms)).find? fun u => (s.room u).stopped with
      | none => simp
      | some u => simp
    refine ⟨fun early => restart.trans (by rw [if_neg (phase.not.mpr early)]), fun now => ⟨_, restart.trans (by rw [if_pos (phase.mpr now)]), ?_⟩⟩
    obtain ⟨ctxs, roomsRun, coresRun⟩ := restarted_clocks s x
    obtain ⟨suites, places, scans⟩ := finishScan_leaves (s := restarted s x) (c := c)
      ((congrArg (fun l : Vector Ctx 128 => (l.get c).scans) ctxs).trans h) 0
    exact ⟨scans, fun u => (congrArg (fun l : Vector Room 64 => (l.get u).stopped) places).trans (roomsRun u),
      fun u => (congrArg (fun l : Vector Suite 64 => (l.get u).stopped) suites).trans (coresRun u)⟩
  · intro shifting go with1 cut
    refine ⟨shift_flue h shifting, ?_, fun idle whole l t writes => shift_writes h shifting idle whole writes⟩
    intro e idle whole entry live quiet later id
    have image : (splitImages [e] x.data).getD 0 [] = (x.data.take (imageSize e / 64)).flatten := by
      unfold splitImages
      rw [live]
      rfl
    refine ⟨shift_later h shifting idle whole, fun now => ⟨fun op => ?_, fun op => ?_⟩⟩
    · have loaded := shift_now h shifting idle whole entry now (shiftEntry_load (s := later) live quiet op)
      rw [image] at loaded
      exact loaded
    · exact shift_now h shifting idle whole entry now (shiftEntry_unload (s := later) live quiet op)

end Sys2Proof.Machine
end

section
/-! PROOFS. The host's messages, the ports and the flits that leave them, slots of other packages, and an update of the routes (R268, R282, R283, R326,
R330, R332, R333, R345, R422-R426). -/

namespace Sys2Proof.Machine

/-! ### Messages of the host -/

section Messages
variable {s : State} {t : TenantId} {tag : W16} {record : List Byte} {v : Word} {nonce : BitVec 256}

theorem hostFlits_announced (s : State) (n : Nat) : Announced s (hostFlits s n) := countEvents_announced ..

theorem booted_hostFlits (s : State) (n : Nat) : (hostFlits s n).pkg.booted = s.pkg.booted := by
  obtain ⟨_, _, pkg⟩ := (hostFlits_announced s n).pkg
  rw [pkg]

/-- The state in which a host message is looked at is booted as the machine is. -/
theorem isBooted (h : s.pkg.booted = true) (n : Nat) : ¬ ((!(hostFlits s n).pkg.booted) = true) := by
  rw [booted_hostFlits, h]
  decide

theorem notBooted (h : s.pkg.booted = false) (n : Nat) : (!(hostFlits s n).pkg.booted) = true := by
  rw [booted_hostFlits, h]
  rfl

theorem hostLaunch_unbooted (h : s.pkg.booted = false) :
    exec (.hostLaunch t tag record) s = .next (unbooted (hostFlits s record.length) 1 t tag) :=
  congrArg Host.Outcome.next (if_pos (notBooted h _))

theorem hostDoorbell_unbooted (h : s.pkg.booted = false) : exec (.hostDoorbell t v) s = .next (unbooted (hostFlits s 8) 2 t 0) := by
  have no : ¬ (hostFlits s 8).pkg.booted = true := by rw [booted_hostFlits, h]; decide
  exact congrArg Host.Outcome.next (if_neg no)

theorem hostQuote_unbooted (h : s.pkg.booted = false) : exec (.hostQuote tag nonce) s = .next (unbooted (hostFlits s 32) 4 0 tag) :=
  congrArg Host.Outcome.next (if_pos (notBooted h _))

theorem hostLaunch_wrongLength (h : s.pkg.booted = true) (wrong : record.length ≠ 128) :
    exec (.hostLaunch t tag record) s = .next (replyStatus (stampMessage (hostFlits s record.length)) 1 t tag 1) :=
  congrArg Host.Outcome.next ((if_neg (isBooted h _)).trans (if_pos wrong))

theorem hostDoorbell_booted (h : s.pkg.booted = true) :
    exec (.hostDoorbell t v) s = .next (postEvent (hostFlits s 8) (supervisor t) evDoorbell t.val 0xffff (v.setWidth 128)) :=
  congrArg Host.Outcome.next (if_pos ((booted_hostFlits s 8).trans h))

theorem quoteHead_hostFlits (s : State) (n : Nat) (nonce : BitVec 256) : quoteHead (hostFlits s n) nonce = quoteHead s nonce := by
  obtain ⟨_, _, pkg⟩ := (hostFlits_announced s n).pkg
  unfold quoteHead
  rw [pkg]

theorem hostQuote_booted (h : s.pkg.booted = true) :
    exec (.hostQuote tag nonce) s = .next (sendHost (stampMessage (hostFlits s 32)) 4 0 tag.toNat
      (quoteHead s nonce ++ leBytes 384 (Config.quoteSignature (quoteHead s nonce)).toNat)) := by
  rw [← quoteHead_hostFlits s 32]
  exact congrArg Host.Outcome.next (if_neg (isBooted h _))

/-- A doorbell stands behind the events that its supervisor already has. -/
theorem events_doorbell :
    ((postEvent (hostFlits s 8) (supervisor t) evDoorbell t.val 0xffff (v.setWidth 128)).ctx (supervisor t)).events =
      (s.ctx (supervisor t)).events ++ [⟨s.pkg.eventSeq, 5, t.val, 0xffff, v.setWidth 128, (s.ctx (supervisor t)).hostfwd⟩] := by
  have counted : (hostFlits s 8).pkg.eventSeq = s.pkg.eventSeq ∧ ((hostFlits s 8).ctx (supervisor t)).events = (s.ctx (supervisor t)).events := by
    obtain ⟨ctxs, e, kept⟩ := countEvents_ctx s hypervisor 0x11 (flitsOf (64 + 8))
    obtain ⟨_, same⟩ := kept (supervisor t)
    have there : (hostFlits s 8).ctx (supervisor t) = _ := (congrArg (·.ctx (supervisor t)) e).trans same
    exact ⟨congrArg (·.pkg.eventSeq) e, by rw [there]⟩
  rw [events_postEvent]
  unfold eventFor
  rw [counted.1, counted.2, (hostFlits_announced s 8).hostfwd]
  rfl

end Messages

/-! ### Ports -/

section Ports
variable {s : State} {port : Fin 12}

theorem mem_toList_iff_get {α : Type} {n : Nat} {v : Vector α n} {x : α} : x ∈ v.toList ↔ ∃ i : Fin n, v.get i = x := by
  rw [Vector.mem_toList_iff, Vector.mem_iff_getElem]
  exact ⟨fun ⟨i, h, e⟩ => ⟨⟨i, h⟩, e⟩, fun ⟨i, e⟩ => ⟨i.val, i.isLt, e⟩⟩

/-- A port takes and sends flits. -/
def PortUp (s : State) (i : Fin 12) : Prop := (s.pkg.links.get i).trained = true ∧ (s.pkg.links.get i).down = false

theorem link_modLink_same (s : State) (port : Fin 12) (f : Link → Link) : (modLink s port f).pkg.links.get port = f (s.pkg.links.get port) :=
  (vget_set ..).trans (if_pos rfl)

theorem link_modLink_other {i : Fin 12} (other : i ≠ port) (s : State) (f : Link → Link) : (modLink s port f).pkg.links.get i = s.pkg.links.get i :=
  (vget_set ..).trans (if_neg other.symm)

/-- Two changes of one port are one. -/
theorem modLink_modLink (s : State) (port : Fin 12) (f g : Link → Link) : modLink (modLink s port f) port g = modLink s port fun x => g (f x) := by
  show ({ s with pkg := { s.pkg with links := (s.pkg.links.set port.val (f (s.pkg.links.get port)) port.isLt).set port.val _ port.isLt } } : State) = _
  rw [link_modLink_same, Vector.set_set]
  rfl

theorem portDown_notUp (h : ¬ PortUp s port) : portDown s port = s := by
  unfold portDown
  refine if_pos ?_
  unfold PortUp at h
  simp only [not_and, Bool.not_eq_false] at h
  by_cases trained : (s.pkg.links.get port).trained = true
  · exact .inr (h trained)
  · exact .inl (by simpa using trained)

/-- The link of a port that goes down. -/
def Link.gone (x : Link) : Link :=
  { x with down := true, updating := true, downs := if x.downs = 0xffff then x.downs else x.downs + 1, failing := none, fails := 0 }

theorem portDown_up (h : PortUp s port) :
    portDown s port = externalTrap (modLink s port Link.gone) hypervisor cLINKDOWN 0 (256 + 127) (BitVec.ofNat 64 port.val) := by
  obtain ⟨trained, down⟩ := h
  unfold portDown
  exact if_neg (by simp [trained, down])

/-- What a port that goes down leaves, from a state in which only the count of its failing flit differs. -/
theorem portDown_leaves {z : State} {a : Option (Nat × Nat)} {b : Nat} {c : W32} (up : PortUp s port)
    (here : z.pkg.links.get port = { s.pkg.links.get port with failing := a, fails := b, retries := c })
    (there : ∀ i, i ≠ port → z.pkg.links.get i = s.pkg.links.get i) (seq : z.pkg.eventSeq = s.pkg.eventSeq) (ctxs : z.ctxs = s.ctxs) :
    (portDown z port).pkg.links.get port = { (s.pkg.links.get port).gone with retries := c } ∧
    ((portDown z port).ctx hypervisor).events = (s.ctx hypervisor).events ++
      [⟨s.pkg.eventSeq, 2, 0, 383, trapBits ⟨0x80, 3, 0, 0, 0, BitVec.ofNat 64 port.val⟩, (s.ctx hypervisor).hostfwd⟩] ∧
    ∀ i, i ≠ port → (portDown z port).pkg.links.get i = s.pkg.links.get i := by
  have up' : PortUp z port := by unfold PortUp; rw [here]; exact up
  have ctx : (modLink z port Link.gone).ctx hypervisor = s.ctx hypervisor := congrArg (·.get hypervisor) ctxs
  have num : (modLink z port Link.gone).pkg.eventSeq = s.pkg.eventSeq := seq
  rw [portDown_up up']
  have links : (externalTrap (modLink z port Link.gone) hypervisor cLINKDOWN 0 (256 + 127) (BitVec.ofNat 64 port.val)).pkg.links =
      (modLink z port Link.gone).pkg.links := by
    obtain ⟨_, _, pkg⟩ := (postEvent_announced (modLink z port Link.gone) hypervisor evTrap 0 (256 + 127)
      (trapBits ⟨cLINKDOWN, 3, 0, 0, 0, BitVec.ofNat 64 port.val⟩)).pkg
    unfold externalTrap
    rw [pkg]
  refine ⟨?_, ?_, fun i other => ?_⟩
  · rw [links, link_modLink_same, here]
    rfl
  · refine (events_postEvent ..).trans ?_
    unfold eventFor
    rw [ctx, num]
    rfl
  · rw [links, link_modLink_other other, there i other]

/-- A flit that came whole ends the retries that it had. -/
def Link.clear (source seq : Nat) (x : Link) : Link := if x.failing = some (source, seq) then { x with failing := none, fails := 0 } else x

theorem accepted_clear (source seq : Nat) (x : Link) : (x.clear source seq).accepted = x.accepted := by
  unfold Link.clear
  split <;> rfl

/-- The link of a port that asks for a flit again, the fails-th time in a row. -/
def Link.asked (source seq fails n : Nat) (x : Link) : Link :=
  { x with failing := some (source, seq), fails := fails, retries := addRetries x.retries n }

section Receive
variable {source seq : Nat} {packet : Packet}

/-- How many times in a row a flit has failed when it fails now. -/
def failsNow (s : State) (port : Fin 12) (source seq : Nat) : Nat :=
  if (s.pkg.links.get port).failing = some (source, seq) then (s.pkg.links.get port).fails + 1 else 1

theorem flitReceive_notUp (h : ¬ PortUp s port) (ok : Bool) : exec (.flitReceive port ok source seq packet) s = .next s := by
  refine congrArg Host.Outcome.next (if_pos ?_)
  unfold PortUp at h
  simp only [not_and, Bool.not_eq_false] at h
  by_cases trained : (s.pkg.links.get port).trained = true
  · exact .inr (h trained)
  · exact .inl (by simpa using trained)

theorem flitReceive_failed (h : PortUp s port) :
    exec (.flitReceive port false source seq packet) s =
      .next (if failsNow s port source seq = 17 then
        portDown (modLink { s with fresh := s.fresh + 1 } port (Link.asked source seq (failsNow s port source seq) (Config.choice s.fresh % 256 + 1))) port
      else modLink { s with fresh := s.fresh + 1 } port (Link.asked source seq (failsNow s port source seq) (Config.choice s.fresh % 256 + 1))) := by
  obtain ⟨trained, down⟩ := h
  exact congrArg Host.Outcome.next (if_neg (by simp [trained, down]))

theorem flitReceive_whole (h : PortUp s port) :
    exec (.flitReceive port true source seq packet) s =
      .next (if (modLink s port (Link.clear source seq)).pkg.links.toList.any fun x => x.accepted.contains (source, seq) then
        modLink s port (Link.clear source seq)
      else
        let q := packetFlits (modLink s port fun x => { x.clear source seq with accepted := (source, seq) :: x.accepted }) packet
        deliver (countEvents q.2 (.ctx hypervisor) 0x11 q.1) source packet) := by
  obtain ⟨trained, down⟩ := h
  have merged : (modLink (modLink s port (Link.clear source seq)) port fun x => { x with accepted := (source, seq) :: x.accepted }) =
      modLink s port fun x => { x.clear source seq with accepted := (source, seq) :: x.accepted } := by
    rw [modLink_modLink]
    exact congrArg (modLink s port) (funext fun x => by rw [accepted_clear])
  rw [← merged]
  exact congrArg Host.Outcome.next (if_neg (by simp [trained, down]))

/-- Whether a flit was taken before does not depend on the retries of a port. -/
theorem taken_iff : ((modLink s port (Link.clear source seq)).pkg.links.toList.any fun x => x.accepted.contains (source, seq)) = true ↔
    ∃ i, (source, seq) ∈ (s.pkg.links.get i).accepted := by
  have same : ∀ i, ((modLink s port (Link.clear source seq)).pkg.links.get i).accepted = (s.pkg.links.get i).accepted := fun i => by
    by_cases here : i = port
    · rw [here, link_modLink_same, accepted_clear]
    · rw [link_modLink_other here]
  simp only [List.any_eq_true, mem_toList_iff_get, List.contains_iff_mem]
  constructor
  · rintro ⟨_, ⟨i, rfl⟩, taken⟩
    exact ⟨i, same i ▸ taken⟩
  · rintro ⟨i, taken⟩
    exact ⟨_, ⟨i, rfl⟩, (same i).symm ▸ taken⟩

end Receive

/-! ### A cycle of a port -/

/-- A port after a cycle, before flits leave it: its packets grow older, and the oldest enter the escape channel (R283). -/
def Link.older (l : Link) : Link :=
  let aged := l.waiting.map fun q => { q with age := q.age + 25 }
  { l with waiting := aged.filter fun q => decide (q.age < 4096 * 16), escaped := l.escaped ++ aged.filter fun q => decide (4096 * 16 ≤ q.age),
           time := (l.time + 25) % 16 }

theorem escapeChannelEntry_updating (h : (s.pkg.links.get port).updating = true) : exec (.escapeChannelEntry port) s = .next s :=
  congrArg Host.Outcome.next (if_pos h)

theorem escapeChannelEntry_notUp (h : (s.pkg.links.get port).updating = false) (up : ¬ PortUp s port) :
    exec (.escapeChannelEntry port) s = .next (modLink { s with fresh := s.fresh + 1 } port fun _ => (s.pkg.links.get port).older) := by
  have not : ((s.pkg.links.get port).trained && !(s.pkg.links.get port).down) = false := by
    unfold PortUp at up
    simpa using up
  have free : ¬ (s.pkg.links.get port).updating = true := by rw [h]; decide
  refine congrArg Host.Outcome.next ((if_neg free).trans ?_)
  dsimp only [chooseBelow]
  rw [not]
  rfl

theorem escapeChannelEntry_up (h : (s.pkg.links.get port).updating = false) (up : PortUp s port) :
    exec (.escapeChannelEntry port) s =
      .next ((List.range (((s.pkg.links.get port).time + 25) / 16)).foldl (fun z _ => sendFlit z port)
        (modLink { s with fresh := s.fresh + 1 } port fun _ => (s.pkg.links.get port).older.replay (Config.choice s.fresh % 257))) := by
  have yes : ((s.pkg.links.get port).trained && !(s.pkg.links.get port).down) = true := by
    obtain ⟨trained, down⟩ := up
    rw [trained, down]
    rfl
  have free : ¬ (s.pkg.links.get port).updating = true := by rw [h]; decide
  refine congrArg Host.Outcome.next ((if_neg free).trans ?_)
  dsimp only [chooseBelow]
  rw [yes]
  rfl

end Ports

/-! ### The flit that leaves next -/

theorem takeFlit_some {c : Option TenantId} : ∀ {list rest : List Waiting} {w : Waiting}, takeFlit c list = some (w, rest) →
    ∃ before after, list = before ++ w :: after ∧ rest = before ++ (if w.flits ≤ 1 then after else { w with flits := w.flits - 1 } :: after) ∧
      w.isOf c = true ∧ ∀ q ∈ before, q.isOf c = false
  | [], _, _, h => nomatch h
  | q :: list, rest, w, h => by
    unfold takeFlit at h
    by_cases first : q.isOf c = true
    · rw [if_pos first] at h
      cases h
      exact ⟨[], list, rfl, rfl, first, fun _ no => nomatch no⟩
    · rw [if_neg first] at h
      obtain ⟨⟨w', l⟩, later, e⟩ := Option.map_eq_some_iff.1 h
      cases e
      obtain ⟨before, after, rfl, rfl, isOf, none⟩ := takeFlit_some later
      refine ⟨q :: before, after, rfl, rfl, isOf, fun x mem => ?_⟩
      rcases List.mem_cons.1 mem with rfl | mem
      · simpa using first
      · exact none x mem

theorem takeFlit_none {c : Option TenantId} {list : List Waiting} : takeFlit c list = none ↔ ∀ q ∈ list, q.isOf c = false := by
  induction list with
  | nil => exact ⟨fun _ _ no => (nomatch no), fun _ => rfl⟩
  | cons q list ih =>
    unfold takeFlit
    by_cases first : q.isOf c = true
    · simp [first]
    · simp [first, ih]

/-- The packet of a class whose flit leaves, the channel that it leaves, and both channels after it. -/
theorem leave_some {l y : Link} {c : Option TenantId} {escape : Bool} {w : Waiting} (h : l.leave c escape = some (w, y)) :
    ∃ before after, (∀ q ∈ before, q.isOf c = false) ∧ w.isOf c = true ∧
      let left := before ++ (if w.flits ≤ 1 then after else { w with flits := w.flits - 1 } :: after)
      (l.waiting = before ++ w :: after ∧ y.waiting = left ∧ y.escaped = l.escaped ∧ (escape = true → ∀ q ∈ l.escaped, q.isOf c = false)) ∨
        (l.escaped = before ++ w :: after ∧ y.escaped = left ∧ y.waiting = l.waiting) := by
  unfold Link.leave at h
  split at h
  next v rest taken =>
    obtain ⟨rfl, rfl⟩ := Prod.mk.inj (Option.some.inj h)
    obtain ⟨before, after, list, left, isOf, none⟩ := takeFlit_some taken
    refine ⟨before, after, none, isOf, ?_⟩
    cases escape with
    | true => exact .inr ⟨list, left, rfl⟩
    | false => exact .inl ⟨list, left, rfl, fun no => nomatch no⟩
  next first =>
    split at h
    next v rest taken =>
      obtain ⟨rfl, rfl⟩ := Prod.mk.inj (Option.some.inj h)
      obtain ⟨before, after, list, left, isOf, none⟩ := takeFlit_some taken
      refine ⟨before, after, none, isOf, ?_⟩
      cases escape with
      | true => exact .inl ⟨list, left, rfl, fun _ => takeFlit_none.1 first⟩
      | false => exact .inr ⟨list, left, rfl⟩
    next => cases h

/-- A class of which no flit can leave has no packet at the port. -/
theorem leave_none {l : Link} {c : Option TenantId} {escape : Bool} (h : l.leave c escape = none) : ∀ q ∈ l.escaped ++ l.waiting, q.isOf c = false := by
  unfold Link.leave at h
  split at h
  next => cases h
  next first =>
    split at h
    next => cases h
    next second =>
      have here := takeFlit_none.1 first
      have there := takeFlit_none.1 second
      intro q mem
      cases escape with
      | true => exact (List.mem_append.1 mem).elim (here q) (there q)
      | false => exact (List.mem_append.1 mem).elim (there q) (here q)

/-! ### The class that is served -/

section Serve
variable {l : Link} {opened : Bool} {weight : TenantId → Nat} {t : TenantId} {q : Waiting}

theorem mem_bulk : q ∈ l.bulk opened ↔ q.control = false ∧ (q ∈ l.escaped ∨ (opened = true ∧ q ∈ l.waiting)) := by
  unfold Link.bulk
  cases opened <;> simp [and_or_left, and_comm]

theorem mem_ready : t ∈ l.ready opened ↔ ∃ q ∈ l.bulk opened, q.tenant = t := by
  unfold Link.ready
  simp [List.mem_filter, List.any_eq_true]

theorem ready_nil : l.ready opened = [] ↔ ∀ q, q ∉ l.bulk opened := by
  constructor
  · intro none q mem
    have here : q.tenant ∈ l.ready opened := mem_ready.2 ⟨q, mem, rfl⟩
    rw [none] at here
    cases here
  · intro none
    refine List.eq_nil_iff_forall_not_mem.2 fun t here => ?_
    obtain ⟨q, mem, -⟩ := mem_ready.1 here
    exact none q mem

theorem mem_sharers (h : t ∈ l.sharers opened weight) : t ∈ l.ready opened ∧ (weight t ≠ 0 ∨ ∀ u ∈ l.ready opened, weight u = 0) := by
  unfold Link.sharers at h
  dsimp only at h
  split at h
  next light =>
    refine ⟨h, .inr fun u ready => ?_⟩
    have := List.filter_eq_nil_iff.1 (List.isEmpty_iff.1 light) u ready
    simpa using this
  next =>
    obtain ⟨ready, heavy⟩ := List.mem_filter.1 h
    exact ⟨ready, .inl (by simpa using heavy)⟩

theorem ready_of_sharers_nil (h : l.sharers opened weight = []) : l.ready opened = [] := by
  unfold Link.sharers at h
  dsimp only at h
  split at h
  next => exact h
  next heavy => exact absurd (List.isEmpty_iff.2 h) heavy

/-- The better owed of two tenants, the earlier one on a tie. -/
def Link.pick (l : Link) (best : Option TenantId) (t : TenantId) : Option TenantId :=
  match best with
  | none => some t
  | some b => if l.owed b < l.owed t then some t else best

theorem pick_isOne (best : Option TenantId) (t : TenantId) : l.pick best t = some t ∨ (l.pick best t = best ∧ best.isSome) := by
  cases best with
  | none => exact .inl rfl
  | some b =>
    unfold Link.pick
    dsimp only
    split
    · exact .inl rfl
    · exact .inr ⟨rfl, rfl⟩

theorem foldl_pick_mem {list : List TenantId} : ∀ {best : Option TenantId}, list.foldl l.pick best = some t → best = some t ∨ t ∈ list := by
  induction list with
  | nil => exact fun h => .inl h
  | cons u list ih =>
    intro best h
    rcases ih h with picked | later
    · rcases pick_isOne best u with e | ⟨e, -⟩
      · exact .inr (by rw [← Option.some.inj (e.symm.trans picked)]; exact List.mem_cons_self)
      · exact .inl (e.symm.trans picked)
    · exact .inr (List.mem_cons_of_mem _ later)

theorem foldl_pick_some {list : List TenantId} : ∀ {best : Option TenantId}, best.isSome = true ∨ list ≠ [] → (list.foldl l.pick best).isSome = true := by
  induction list with
  | nil => exact fun h => h.elim id fun no => absurd rfl no
  | cons u list ih =>
    intro best _
    refine ih (.inl ?_)
    rcases pick_isOne (l := l) best u with e | ⟨e, some⟩
    · rw [e]; rfl
    · rw [e]; exact some

theorem serve_eq : l.serve opened weight =
    if (l.escaped ++ l.waiting).any (·.control) && ((l.ready opened).isEmpty || decide (15 ≤ l.control)) then some none
    else ((l.sharers opened weight).foldl l.pick none).map some := rfl

theorem serve_none (h : l.serve opened weight = none) : (∀ q ∈ l.escaped ++ l.waiting, q.control = false) ∧ ∀ q, q ∉ l.bulk opened := by
  rw [serve_eq] at h
  split at h
  next => cases h
  next idle =>
    have nobody : l.sharers opened weight = [] := by
      by_contra some
      have := foldl_pick_some (l := l) (best := none) (.inr some)
      rw [Option.map_eq_none_iff.1 h] at this
      cases this
    have ready := ready_of_sharers_nil nobody
    refine ⟨?_, ready_nil.1 ready⟩
    rw [ready] at idle
    simpa [or_imp, forall_and] using idle

theorem serve_control (h : l.serve opened weight = some none) :
    (∃ q ∈ l.escaped ++ l.waiting, q.control = true) ∧ (15 ≤ l.control ∨ ∀ q, q ∉ l.bulk opened) := by
  rw [serve_eq] at h
  split at h
  next turn =>
    obtain ⟨some, turn⟩ := Bool.and_eq_true_iff.1 turn
    refine ⟨List.any_eq_true.1 some, ?_⟩
    rcases Bool.or_eq_true_iff.1 turn with empty | fifteen
    · exact .inr (ready_nil.1 (List.isEmpty_iff.1 empty))
    · exact .inl (of_decide_eq_true fifteen)
  next =>
    obtain ⟨_, -, e⟩ := Option.map_eq_some_iff.1 h
    cases e

theorem serve_bulk (h : l.serve opened weight = some (some t)) :
    t ∈ l.sharers opened weight ∧ (l.control < 15 ∨ ∀ q ∈ l.escaped ++ l.waiting, q.control = false) := by
  rw [serve_eq] at h
  split at h
  next => cases h
  next idle =>
    obtain ⟨_, best, e⟩ := Option.map_eq_some_iff.1 h
    cases e
    have sharer := (foldl_pick_mem best).resolve_left fun no => nomatch no
    refine ⟨sharer, ?_⟩
    by_contra both
    push Not at both
    obtain ⟨fifteen, q, mem, control⟩ := both
    refine idle (Bool.and_eq_true_iff.2 ⟨List.any_eq_true.2 ⟨q, mem, by simpa using control⟩, ?_⟩)
    exact Bool.or_eq_true_iff.2 (.inr (decide_eq_true fifteen))

/-- Where a class is served, a packet of the control class or a bulk packet may leave. -/
theorem any_of_served {c : Option TenantId} (h : l.serve opened weight = some c) :
    (∃ q ∈ l.escaped ++ l.waiting, q.control = true) ∨ ∃ q, q ∈ l.bulk opened := by
  cases c with
  | none => exact .inl (serve_control h).1
  | some t =>
    obtain ⟨q, bulk, -⟩ := mem_ready.1 (mem_sharers (serve_bulk h).1).1
    exact .inr ⟨q, bulk⟩

/-- A class that is served has a packet at the port. -/
theorem served_isOf {c : Option TenantId} (h : l.serve opened weight = some c) : ∃ q ∈ l.escaped ++ l.waiting, q.isOf c = true := by
  cases c with
  | none => exact (serve_control h).1
  | some t =>
    obtain ⟨q, bulk, tenant⟩ := mem_ready.1 (mem_sharers (serve_bulk h).1).1
    obtain ⟨control, where_⟩ := mem_bulk.1 bulk
    refine ⟨q, List.mem_append.2 (where_.imp id And.right), ?_⟩
    unfold Waiting.isOf
    simp [control, tenant]

end Serve

/-! ### One flit leaves -/

section Send
variable {s : State} {port : Fin 12}

/-- Whether the ordinary channels take bulk in a link cycle, and which channel comes first for a class. -/
def opens (s : State) : Bool := Config.choice s.fresh % 4 % 2 == 0
def escapeFirst (s : State) (c : Option TenantId) : Bool := Config.choice s.fresh % 4 / 2 == 1 || (c.isSome && !opens s)

/-- The weights of the tenants. -/
def weights (s : State) (t : TenantId) : Nat := (s.tenant t).qos.weight.toNat

theorem weights_eq_zero {t : TenantId} : weights s t = 0 ↔ (s.tenant t).qos.weight = 0 :=
  ⟨fun h => BitVec.eq_of_toNat_eq h, fun h => by unfold weights; rw [h]; rfl⟩

theorem sendFlit_resends {f : SentFlit} {rest : List SentFlit} (h : (s.pkg.links.get port).resend = f :: rest) :
    sendFlit s port = modLink s port fun x => { x with resend := rest, sent := (f :: x.sent).take 256 } := by
  unfold sendFlit
  dsimp only
  rw [h]
  rfl

/-- The port once a flit of a packet has left. -/
def Link.afterFlit (l : Link) (s : State) (c : Option TenantId) (w : Waiting) (y : Link) : Link :=
  ({ l.charge (opens s) (weights s) c with waiting := y.waiting, escaped := y.escaped } : Link).keep ⟨w.dest, w.tenant, w.control, w.msg.seq⟩

theorem sendFlit_idle (again : (s.pkg.links.get port).resend = []) (none : (s.pkg.links.get port).serve (opens s) (weights s) = none) :
    sendFlit s port = { s with fresh := s.fresh + 1 } := by
  have idle : (s.pkg.links.get port).serve (Config.choice s.fresh % 4 % 2 == 0) (fun t => (s.tenant t).qos.weight.toNat) = Option.none := none
  unfold sendFlit
  dsimp only [chooseBelow]
  rw [again]
  dsimp only
  rw [idle]
  rfl

theorem sendFlit_serves {c : Option TenantId} {w : Waiting} {y : Link} (again : (s.pkg.links.get port).resend = [])
    (served : (s.pkg.links.get port).serve (opens s) (weights s) = some c)
    (left : (s.pkg.links.get port).leave c (escapeFirst s c) = some (w, y)) :
    let z := countEvents (modLink { s with fresh := s.fresh + 1 } port fun _ => (s.pkg.links.get port).afterFlit s c w y) (.ctx hypervisor) 0x10 1
    sendFlit s port = if w.flits ≤ 1 then z.modPkg fun p => { p with out := p.out ++ [w.msg] } else z := by
  have who : (s.pkg.links.get port).serve (Config.choice s.fresh % 4 % 2 == 0) (fun t => (s.tenant t).qos.weight.toNat) = some c := served
  have what : (s.pkg.links.get port).leave c (Config.choice s.fresh % 4 / 2 == 1 || (c.isSome && !(Config.choice s.fresh % 4 % 2 == 0))) = some (w, y) := left
  unfold sendFlit
  dsimp only [chooseBelow]
  rw [again]
  dsimp only
  rw [who, Option.bind_some, what]
  rfl

theorem resend_charge (l : Link) (opened : Bool) (weight : TenantId → Nat) (c : Option TenantId) : (l.charge opened weight c).resend = l.resend := by
  cases c <;> rfl

theorem sent_charge (l : Link) (opened : Bool) (weight : TenantId → Nat) (c : Option TenantId) : (l.charge opened weight c).sent = l.sent := by
  cases c <;> rfl

/-- What a flit that leaves changes at the ports and in the messages that are out. -/
theorem sendFlit_served {c : Option TenantId} {w : Waiting} {y : Link} (again : (s.pkg.links.get port).resend = [])
    (served : (s.pkg.links.get port).serve (opens s) (weights s) = some c)
    (left : (s.pkg.links.get port).leave c (escapeFirst s c) = some (w, y)) :
    (sendFlit s port).pkg.links.get port = (s.pkg.links.get port).afterFlit s c w y ∧
      (∀ i, i ≠ port → (sendFlit s port).pkg.links.get i = s.pkg.links.get i) ∧
      (sendFlit s port).pkg.out = s.pkg.out ++ (if w.flits ≤ 1 then [w.msg] else []) := by
  have counted := countEvents_ctx (modLink { s with fresh := s.fresh + 1 } port fun _ => (s.pkg.links.get port).afterFlit s c w y) hypervisor 0x10 1
  obtain ⟨_, e, -⟩ := counted
  rw [sendFlit_serves again served left, e]
  have here := link_modLink_same { s with fresh := s.fresh + 1 } port fun _ => (s.pkg.links.get port).afterFlit s c w y
  have there : ∀ i, i ≠ port → _ := fun i other =>
    link_modLink_other other { s with fresh := s.fresh + 1 } fun _ => (s.pkg.links.get port).afterFlit s c w y
  split
  · exact ⟨here, there, rfl⟩
  · exact ⟨here, there, (List.append_nil _).symm⟩

/-- Of a class that is served a flit can leave. -/
theorem sendFlit_takes {c : Option TenantId}
    (served : (s.pkg.links.get port).serve (opens s) (weights s) = some c) :
    ∃ w y, (s.pkg.links.get port).leave c (escapeFirst s c) = some (w, y) := by
  cases left : (s.pkg.links.get port).leave c (escapeFirst s c) with
  | some x => exact ⟨x.1, x.2, rfl⟩
  | none =>
    obtain ⟨q, mem, isOf⟩ := served_isOf served
    rw [leave_none left q mem] at isOf
    cases isOf

/-- Two packets of one class. -/
theorem isOf_iff_sameClass {c : Option TenantId} {w q : Waiting} (h : w.isOf c = true) :
    q.isOf c = true ↔ q.control = w.control ∧ (w.control = true ∨ q.tenant = w.tenant) := by
  unfold Waiting.isOf at *
  cases c with
  | none =>
    have control : w.control = true := h
    simp [control]
  | some t =>
    obtain ⟨control, tenant⟩ : w.control = false ∧ w.tenant = t := by simpa using h
    simp [control, tenant]

theorem mem_bulk_iff {q : Waiting} {l : Link} :
    q ∈ l.bulk (opens s) ↔ q.control = false ∧ (q ∈ l.escaped ∨ (Config.choice s.fresh % 4 % 2 = 0 ∧ q ∈ l.waiting)) := by
  unfold opens
  rw [mem_bulk, beq_iff_eq]

/-- Who is served: the control class in its turn, or a bulk packet that may leave, of a tenant of weight 0 only when no other may. -/
theorem served_class {c : Option TenantId} {w y : _} {l : Link} (served : l.serve (opens s) (weights s) = some c)
    (left : l.leave c (escapeFirst s c) = some (w, y)) :
    (w.control = true → 15 ≤ l.control ∨ ∀ q, q ∉ l.bulk (opens s)) ∧
    (w.control = false → w ∈ l.bulk (opens s) ∧ (l.control < 15 ∨ ∀ q ∈ l.escaped ++ l.waiting, q.control = false) ∧
      (weights s w.tenant ≠ 0 ∨ ∀ q ∈ l.bulk (opens s), weights s q.tenant = 0)) := by
  obtain ⟨before, after, -, isOf, place⟩ := leave_some left
  cases c with
  | none =>
    have control : w.control = true := isOf
    rw [control]
    exact ⟨fun _ => (serve_control served).2, fun no => nomatch no⟩
  | some t =>
    obtain ⟨sharer, turn⟩ := serve_bulk served
    obtain ⟨ready, weight⟩ := mem_sharers sharer
    obtain ⟨control, tenant⟩ : w.control = false ∧ w.tenant = t := by
      unfold Waiting.isOf at isOf
      simpa using isOf
    refine ⟨fun no => absurd (control.symm.trans no) (by decide), fun _ => ⟨mem_bulk.2 ⟨control, ?_⟩, turn, ?_⟩⟩
    · rcases place with ⟨list, -, -, other⟩ | ⟨list, -⟩
      · refine .inr ⟨?_, by rw [list]; exact List.mem_append_right _ List.mem_cons_self⟩
        by_contra closed
        have first : escapeFirst s (some t) = true := by
          unfold escapeFirst
          simp [Bool.not_eq_true _ ▸ closed]
        obtain ⟨q, bulk, ofTenant⟩ := mem_ready.1 ready
        obtain ⟨notControl, here⟩ := mem_bulk.1 bulk
        have escaped := here.resolve_right fun no => closed no.1
        have no := other first q escaped
        unfold Waiting.isOf at no
        simp [notControl, ofTenant] at no
      · exact .inl (by rw [list]; exact List.mem_append_right _ List.mem_cons_self)
    · rw [tenant]
      exact weight.imp_right fun light q bulk => light q.tenant (mem_ready.2 ⟨q, bulk, rfl⟩)

end Send

/-! ### Packets of another package -/

theorem flitsOf_pos (n : Nat) : 1 ≤ flitsOf n := Nat.le_max_left ..

theorem packetFlits_bulk (s : State) : (packetFlits s .bulk).1 = Config.choice s.fresh % 1024 + 1 := rfl

theorem packetFlits_slot (s : State) (t : TenantId) (p : Fin 8) (n : Nat) (data : List Byte) :
    (packetFlits s (.slot t p n data)).1 = flitsOf (6 + data.length) + Config.choice s.fresh % 2 := rfl

theorem packetFlits_collWords (s : State) (t : TenantId) (seg off i k : Nat) (ws : List W32) :
    (packetFlits s (.collWords t seg off i k ws)).1 = flitsOf (15 + 4 * ws.length) + Config.choice s.fresh % 2 := rfl

theorem packetFlits_pos (s : State) (p : Packet) : 1 ≤ (packetFlits s p).1 := by
  cases p with
  | slot => rw [packetFlits_slot]; exact Nat.le_add_right_of_le (flitsOf_pos _)
  | collWords => rw [packetFlits_collWords]; exact Nat.le_add_right_of_le (flitsOf_pos _)
  | _ => exact Nat.le_add_left ..

/-! ### What a packet to another package adds to the ports -/

/-- A passage whose peer end is lost has no slots any more. -/
def Passage.lost (x : Passage) : Passage := { x with slots := [], used := 0, nextSlot := 0, filled := [] }

/-- Between two states only packets have joined the queues of ports, those that are up if any is, and passages have lost their slots; the routes and the
count of lost packets stay. -/
structure QueuesGrow (s t : State) : Prop where
  passage : ∀ b p, passage t b p = passage s b p ∨ passage t b p = (passage s b p).lost
  routes : t.pkg.routes = s.pkg.routes
  linklost : t.pkg.linklost = s.pkg.linklost
  links : ∀ i, ∃ more, t.pkg.links.get i = { s.pkg.links.get i with waiting := (s.pkg.links.get i).waiting ++ more } ∧
    (more = [] ∨ PortUp s i ∨ ∀ j, ¬ PortUp s j)

namespace QueuesGrow
variable {s t v : State}

theorem of_same (passages : t.pkg.passages = s.pkg.passages) (routes : t.pkg.routes = s.pkg.routes) (linklost : t.pkg.linklost = s.pkg.linklost)
    (links : t.pkg.links = s.pkg.links) : QueuesGrow s t where
  passage b p := .inl (by unfold Machine.passage; rw [passages])
  routes
  linklost
  links i := ⟨[], by rw [links, List.append_nil], .inl rfl⟩

theorem refl (s : State) : QueuesGrow s s := of_same rfl rfl rfl rfl

/-- What no packet changes at a port. -/
theorem same (h : QueuesGrow s t) (i : Fin 12) :
    (t.pkg.links.get i).down = (s.pkg.links.get i).down ∧ (t.pkg.links.get i).updating = (s.pkg.links.get i).updating := by
  obtain ⟨_, e, -⟩ := h.links i
  rw [e]
  exact ⟨rfl, rfl⟩

theorem portUp (h : QueuesGrow s t) (i : Fin 12) : PortUp t i ↔ PortUp s i := by
  obtain ⟨_, e, -⟩ := h.links i
  unfold PortUp
  rw [e]

theorem trans (h : QueuesGrow s t) (g : QueuesGrow t v) : QueuesGrow s v where
  passage b p := by
    rcases g.passage b p with e | e <;> rcases h.passage b p with e' | e'
    · exact .inl (e.trans e')
    · exact .inr (e.trans e')
    · exact .inr (by rw [e, e'])
    · exact .inr (by rw [e, e']; rfl)
  routes := g.routes.trans h.routes
  linklost := g.linklost.trans h.linklost
  links i := by
    obtain ⟨more, e, up⟩ := h.links i
    obtain ⟨more', e', up'⟩ := g.links i
    refine ⟨more ++ more', by rw [e', e, List.append_assoc], ?_⟩
    simp only [h.portUp] at up'
    rcases up with rfl | up
    · exact up'
    · exact .inr up

/-- A passage without slots stays without. -/
theorem slotless (h : QueuesGrow s t) {b : Fin 5} {p : Fin 8} (none : (Machine.passage s b p).slots = [] ∧ (Machine.passage s b p).used = 0) :
    (Machine.passage t b p).slots = [] ∧ (Machine.passage t b p).used = 0 := by
  rcases h.passage b p with e | e
  · rw [e]; exact none
  · rw [e]; exact ⟨rfl, rfl⟩

theorem foldl {α : Type} {f : State → α → State} (hf : ∀ t x, QueuesGrow s t → QueuesGrow s (f t x)) (list : List α) (h : QueuesGrow s t) :
    QueuesGrow s (list.foldl f t) :=
  List.foldlRecOn (motive := QueuesGrow s) _ _ h fun _ g x _ => hf _ x g

end QueuesGrow

/-- A packet waits at a port that is up, if one is. -/
theorem getD_ports {l : List (Fin 12)} (k : Nat) (h : l ≠ []) : l.getD (k % max 1 l.length) 0 ∈ l := by
  have pos : 0 < l.length := List.length_pos_iff.2 h
  have lt : k % max 1 l.length < l.length := by
    have := Nat.mod_lt k (y := max 1 l.length) (by omega)
    omega
  rw [List.getD_eq_getElem _ _ lt]
  exact List.getElem_mem lt

theorem sendPacket_grows {s : State} {peer : Nat} (h : reachable s peer = true) (kind : Nat) (t : TenantId) (bytes : List Byte) :
    QueuesGrow s (sendPacket s kind peer t bytes) := by
  unfold sendPacket
  rw [if_neg (by rw [h]; decide)]
  refine ⟨fun _ _ => .inl rfl, rfl, rfl, fun i => ?_⟩
  dsimp only [chooseBelow, State.modPkg]
  rw [vget_set]
  split
  next here =>
    subst here
    refine ⟨_, rfl, .inr ?_⟩
    by_cases some : (List.finRange 12).filter (fun i => (s.pkg.links.get i).trained && !(s.pkg.links.get i).down) = []
    · refine .inr fun j up => ?_
      have := List.filter_eq_nil_iff.1 some j (List.mem_finRange j)
      obtain ⟨trained, down⟩ := up
      simp [trained, down] at this
    · have mem := (List.mem_filter.1 (getD_ports (Config.choice s.fresh) some)).2
      exact .inl (by simpa [PortUp] using mem)
  next => exact ⟨[], by rw [List.append_nil], .inl rfl⟩

theorem Announced.grows {s t : State} (h : Announced s t) : QueuesGrow s t := by
  obtain ⟨_, _, pkg⟩ := h.pkg
  refine .of_same ?_ ?_ ?_ ?_ <;> rw [pkg]

theorem runTrap_grows (s : State) (u : SuiteId) (e : Engine) (n : Nat) (cause : BitVec 8) (tval : Option Nat) :
    QueuesGrow s (runTrap s u e n cause tval) := by
  unfold runTrap
  split
  · exact .refl s
  · split
    · split <;> exact .of_same rfl rfl rfl rfl
    · unfold engineTrap
      dsimp only
      split
      · exact .of_same rfl rfl rfl rfl
      · unfold holdBank
        have held := fun f b g => QueuesGrow.of_same (s := s) (t := (modRunning s u e f).modBank (.bank u b) g) rfl rfl rfl rfl
        exact (held ..).trans (postEvent_announced ..).grows

theorem abandonInst_grows {s : State} {routes : List Nat} (known : s.pkg.routes = some routes) (i : Nat) : QueuesGrow s (abandonInst s i) := by
  unfold abandonInst
  split
  · exact .refl s
  · split
    · exact .refl s
    · refine .foldl (fun t x h => ?_) _ ?_
      · obtain ⟨_, u⟩ := x
        dsimp only
        split
        · exact h.trans (runTrap_grows ..)
        · exact h
      · have marked := fun f => QueuesGrow.of_same (s := s) (t := modInst s i f) rfl rfl rfl rfl
        split
        · refine (marked _).trans (sendPacket_grows ?_ ..)
          unfold reachable
          rw [(marked _).routes, known]
          rfl
        · exact marked _

/-! ### Slots of another package -/

section Slots
variable {s : State} {source n : Nat} {t : TenantId} {p : Fin 8} {data : List Byte}

theorem passage_sendPacket (s : State) (kind peer : Nat) (t : TenantId) (bytes : List Byte) (b : Fin 5) (p : Fin 8) :
    passage (sendPacket s kind peer t bytes) b p = passage s b p := by
  unfold sendPacket
  split <;> rfl

theorem deliver_slot_taken (en : (passage s 4 p).en = true) (tenant : (passage s 4 p).tenant = t.val) (takes : (passage s 4 p).takes n = true) :
    passage (deliver s source (.slot t p n data)) 4 p = (passage s 4 p).fill n (tileOfBytes data) := by
  unfold deliver
  dsimp only
  rw [if_pos ⟨en, tenant, takes⟩, passage_sendPacket, passage_modPassage_same]

theorem deliver_slot_refused (h : ¬ ((passage s 4 p).en = true ∧ (passage s 4 p).tenant = t.val ∧ (passage s 4 p).takes n = true)) :
    deliver s source (.slot t p n data) = s := by
  unfold deliver
  exact if_neg h

/-- Whether a passage takes a slot: the next ones within its depth, and an earlier one that has not come. -/
theorem takes_iff (x : Passage) (n : Nat) :
    x.takes n = true ↔ (n < x.nextSlot ∧ (n, none) ∈ x.slots) ∨ (x.nextSlot ≤ n ∧ x.used + (n + 1 - x.nextSlot) ≤ x.depth) := by
  unfold Passage.takes
  by_cases early : n < x.nextSlot
  · simp [early, Nat.not_le.2 early]
  · simp [early, Nat.not_lt.1 early]

theorem fill_next {x : Passage} (d : Tile) (h : x.nextSlot ≤ n) :
    x.fill n d = { x with slots := x.slots ++ ((List.range (n - x.nextSlot)).map fun i => (x.nextSlot + i, none)) ++ [(n, some d)],
                          used := x.used + (n + 1 - x.nextSlot), nextSlot := n + 1 } := if_neg (Nat.not_lt.2 h)

theorem fill_early {x : Passage} (d : Tile) (h : n < x.nextSlot) :
    x.fill n d = { x with slots := x.slots.map fun q => if q.1 = n then (n, some d) else q } := if_pos h

end Slots

/-! ### An update of the routes -/

section Routes
variable {s : State}

theorem passageGone_grows (s : State) (u : SuiteId) (k : Nat) (recv trap : Bool) : QueuesGrow s (passageGone s u k recv trap) := by
  have changed := fun f => QueuesGrow.of_same (s := s) (t := modRun s u k f) rfl rfl rfl rfl
  unfold passageGone
  split
  · exact .refl s
  · split
    · exact changed _
    · dsimp only
      split
      · exact (changed _).trans (runTrap_grows ..)
      · exact changed _

theorem passageDown_after (s : State) (t : TenantId) (p : Fin 8) (recv trap : Bool) :
    QueuesGrow (modPassage s (if recv then 4 else 3) p Passage.lost) (passageDown s t p recv trap) := by
  unfold passageDown
  refine .foldl (fun y u h => ?_) _ (.refl _)
  exact .foldl (fun z k g => g.trans (passageGone_grows ..)) _ h

theorem modPassage_grows (s : State) (b : Fin 5) (p : Fin 8) : QueuesGrow s (modPassage s b p Passage.lost) where
  passage c q := by
    by_cases here : c = b ∧ q = p
    · obtain ⟨rfl, rfl⟩ := here
      exact .inr (passage_modPassage_same ..)
    · exact .inl (passage_modPassage_other _ _ (Decidable.not_and_iff_or_not.1 here))
  routes := rfl
  linklost := rfl
  links i := ⟨[], (by rw [List.append_nil]; rfl), .inl rfl⟩

theorem passageDown_grows (s : State) (t : TenantId) (p : Fin 8) (recv trap : Bool) : QueuesGrow s (passageDown s t p recv trap) :=
  (modPassage_grows ..).trans (passageDown_after ..)

theorem slotless_passageDown (s : State) (t : TenantId) (p : Fin 8) (recv trap : Bool) :
    (passage (passageDown s t p recv trap) (if recv then 4 else 3) p).slots = [] ∧
      (passage (passageDown s t p recv trap) (if recv then 4 else 3) p).used = 0 :=
  (passageDown_after ..).slotless (by rw [passage_modPassage_same]; exact ⟨rfl, rfl⟩)

/-- Whether the package at the peer end of a passage has lost its route. -/
def peerLost (s : State) (b : Fin 5) (p : Fin 8) : Bool :=
  (passage s b p).en && (passage s b p).peer != Config.pkgId.toNat && !reachable s (passage s b p).peer

/-- The tenant of a passage. -/
def tenantAt (s : State) (b : Fin 5) (p : Fin 8) : TenantId := ⟨(passage s b p).tenant % 64, by omega⟩

/-- The ends of one passage that lost their peers go down. -/
def dropEnds (s y : State) (p : Fin 8) : State :=
  let y1 := if peerLost s 3 p then passageDown y (tenantAt y 3 p) p false true else y
  if peerLost s 4 p then passageDown y1 (tenantAt y 4 p) p true true else y1

theorem dropUnreachable_eq (s : State) : ∃ insts : List Nat, dropUnreachable s = insts.foldl abandonInst ((List.finRange 8).foldl (dropEnds s) s) := ⟨_, rfl⟩

theorem dropEnds_grows (s y : State) (p : Fin 8) : QueuesGrow y (dropEnds s y p) := by
  have first : QueuesGrow y (if peerLost s 3 p then passageDown y (tenantAt y 3 p) p false true else y) := by
    split
    · exact passageDown_grows ..
    · exact .refl y
  unfold dropEnds
  dsimp only
  split
  · exact first.trans (passageDown_grows ..)
  · exact first

theorem slotless_dropEnds (s y : State) {b : Fin 5} {p : Fin 8} (outer : b = 3 ∨ b = 4) (lost : peerLost s b p = true) :
    (passage (dropEnds s y p) b p).slots = [] ∧ (passage (dropEnds s y p) b p).used = 0 := by
  unfold dropEnds
  dsimp only
  rcases outer with rfl | rfl
  · rw [lost, if_pos rfl]
    have down := slotless_passageDown y (tenantAt y 3 p) p false true
    split
    · exact (passageDown_grows ..).slotless down
    · exact down
  · rw [lost, if_pos rfl]
    exact slotless_passageDown _ (tenantAt y 4 p) p true true

theorem abandonInsts_grows {s : State} {routes : List Nat} (known : s.pkg.routes = some routes) (insts : List Nat) :
    QueuesGrow s (insts.foldl abandonInst s) :=
  .foldl (fun _ _ h => h.trans (abandonInst_grows (h.routes.trans known) _)) _ (.refl s)

theorem dropUnreachable_grows {routes : List Nat} (known : s.pkg.routes = some routes) : QueuesGrow s (dropUnreachable s) := by
  obtain ⟨insts, e⟩ := dropUnreachable_eq s
  have dropped : QueuesGrow s ((List.finRange 8).foldl (dropEnds s) s) := .foldl (fun y p h => h.trans (dropEnds_grows s y p)) _ (.refl s)
  rw [e]
  exact dropped.trans (abandonInsts_grows (dropped.routes.trans known) insts)

theorem slotless_dropUnreachable {routes : List Nat} (known : s.pkg.routes = some routes) {b : Fin 5} {p : Fin 8} (outer : b = 3 ∨ b = 4)
    (lost : peerLost s b p = true) : (passage (dropUnreachable s) b p).slots = [] ∧ (passage (dropUnreachable s) b p).used = 0 := by
  obtain ⟨insts, e⟩ := dropUnreachable_eq s
  have dropped : QueuesGrow s ((List.finRange 8).foldl (dropEnds s) s) := .foldl (fun y p h => h.trans (dropEnds_grows s y p)) _ (.refl s)
  have slotless := foldl_establishes (f := dropEnds s) (P := fun z => (passage z b p).slots = [] ∧ (passage z b p).used = 0)
    (fun y => slotless_dropEnds s y outer lost) (fun y q h => (dropEnds_grows s y q).slotless h) (List.mem_finRange p) s
  rw [e]
  exact (abandonInsts_grows (dropped.routes.trans known) insts).slotless slotless

/-! ### What waits at ports that are down leaves by others -/

/-- A port at which nothing waits and of which nothing is asked for again. -/
def Link.emptied (x : Link) : Link := { x with waiting := [], escaped := [], sent := [], resend := [] }

/-- A port that takes over what another had. -/
def Link.takesOver (l x : Link) : Link :=
  { x with waiting := x.waiting ++ l.waiting, escaped := x.escaped ++ l.escaped, resend := x.resend ++ l.sent.reverse ++ l.resend }

/-- Between two states ports that are not down have only taken over what ports that are down had. -/
structure MovesOn (s t : State) : Prop where
  passages : t.pkg.passages = s.pkg.passages
  routes : t.pkg.routes = s.pkg.routes
  linklost : t.pkg.linklost = s.pkg.linklost
  taking : ∀ i, (s.pkg.links.get i).down = false → ∃ w e r, t.pkg.links.get i = { s.pkg.links.get i with
    waiting := (s.pkg.links.get i).waiting ++ w, escaped := (s.pkg.links.get i).escaped ++ e, resend := (s.pkg.links.get i).resend ++ r }
  leaving : ∀ i, (s.pkg.links.get i).down = true → t.pkg.links.get i = s.pkg.links.get i ∨ t.pkg.links.get i = (s.pkg.links.get i).emptied

namespace MovesOn
variable {t v : State}

theorem refl (s : State) : MovesOn s s :=
  ⟨rfl, rfl, rfl, fun i _ => ⟨[], [], [], by rw [List.append_nil, List.append_nil, List.append_nil]⟩, fun _ _ => .inl rfl⟩

/-- What no move changes at a port. -/
theorem same (h : MovesOn s t) (i : Fin 12) : (t.pkg.links.get i).trained = (s.pkg.links.get i).trained ∧
    (t.pkg.links.get i).down = (s.pkg.links.get i).down ∧ (t.pkg.links.get i).updating = (s.pkg.links.get i).updating := by
  cases down : (s.pkg.links.get i).down with
  | false =>
    obtain ⟨_, _, _, e⟩ := h.taking i down
    rw [e]
    exact ⟨rfl, down, rfl⟩
  | true =>
    rcases h.leaving i down with e | e <;> rw [e]
    · exact ⟨rfl, down, rfl⟩
    · exact ⟨rfl, down, rfl⟩

theorem portUp (h : MovesOn s t) (i : Fin 12) : PortUp t i ↔ PortUp s i := by
  obtain ⟨trained, down, -⟩ := h.same i
  unfold PortUp
  rw [trained, down]

theorem trans (h : MovesOn s t) (g : MovesOn t v) : MovesOn s v where
  passages := g.passages.trans h.passages
  routes := g.routes.trans h.routes
  linklost := g.linklost.trans h.linklost
  taking i down := by
    obtain ⟨w, e, r, here⟩ := h.taking i down
    obtain ⟨w', e', r', here'⟩ := g.taking i ((h.same i).2.1.trans down)
    exact ⟨w ++ w', e ++ e', r ++ r', by rw [here', here, List.append_assoc, List.append_assoc, List.append_assoc]⟩
  leaving i down := by
    rcases h.leaving i down with e | e <;> rcases g.leaving i ((h.same i).2.1.trans down) with e' | e' <;> rw [e', e]
    · exact .inl rfl
    · exact .inr rfl
    · exact .inr rfl
    · exact .inr rfl

end MovesOn

/-- What a port had before has moved to one that is up. -/
def HandedOver (s : State) (i : Fin 12) (t : State) : Prop :=
  t.pkg.links.get i = (s.pkg.links.get i).emptied ∧ ∃ j, PortUp s j ∧
    (∀ q ∈ (s.pkg.links.get i).waiting, q ∈ (t.pkg.links.get j).waiting) ∧ (∀ q ∈ (s.pkg.links.get i).escaped, q ∈ (t.pkg.links.get j).escaped) ∧
    ∀ f ∈ (s.pkg.links.get i).sent ++ (s.pkg.links.get i).resend, f ∈ (t.pkg.links.get j).resend

theorem HandedOver.mono {t v : State} {i : Fin 12} (down : (s.pkg.links.get i).down = true) (before : MovesOn s t) (h : HandedOver s i t) (g : MovesOn t v) :
    HandedOver s i v := by
  obtain ⟨empty, j, up, waiting, escaped, resend⟩ := h
  have still : v.pkg.links.get i = (s.pkg.links.get i).emptied := by
    rcases g.leaving i ((before.same i).2.1.trans down) with e | e <;> rw [e, empty]
    rfl
  obtain ⟨w, e, r, here⟩ := g.taking j ((before.portUp j).2 up).2
  refine ⟨still, j, up, ?_, ?_, ?_⟩ <;> rw [here]
  · exact fun q mem => List.mem_append_left _ (waiting q mem)
  · exact fun q mem => List.mem_append_left _ (escaped q mem)
  · exact fun f mem => List.mem_append_left _ (resend f mem)

/-- Packets that join the queues later change nothing of it. -/
theorem HandedOver.grows {t v : State} {i : Fin 12} (down : (s.pkg.links.get i).down = true) (before : MovesOn s t) (h : HandedOver s i t)
    (g : QueuesGrow t v) : HandedOver s i v := by
  obtain ⟨empty, j, up, waiting, escaped, resend⟩ := h
  obtain ⟨more, here, why⟩ := g.links i
  obtain ⟨_, there, -⟩ := g.links j
  have nothing : more = [] := by
    rcases why with none | isUp | nowhere
    · exact none
    · exact absurd (down.symm.trans ((before.portUp i).1 isUp).2) (by decide)
    · exact absurd ((before.portUp j).2 up) (nowhere j)
  refine ⟨by rw [here, empty, nothing]; rfl, j, up, ?_, ?_, ?_⟩ <;> rw [there]
  · exact fun q mem => List.mem_append_left _ (waiting q mem)
  · exact escaped
  · exact resend

theorem reroute_stays {port : Fin 12} (h : (s.pkg.links.get port).down = false ∨ ∀ j, ¬ PortUp s j) : reroute s port = s := by
  unfold reroute
  dsimp only [chooseBelow]
  rcases h with up | nowhere
  · rw [if_neg (by rw [up]; decide)]
  · have none_ : (List.finRange 12).filter (fun i => (s.pkg.links.get i).trained && !(s.pkg.links.get i).down) = [] :=
      List.filter_eq_nil_iff.2 fun j _ => by simpa [PortUp] using nowhere j
    rw [none_, List.getElem?_nil, ite_self]

theorem reroute_down {port : Fin 12} (down : (s.pkg.links.get port).down = true) (some_ : ∃ j, PortUp s j) : ∃ i, PortUp s i ∧
    reroute s port = modLink (modLink { s with fresh := s.fresh + 1 } port Link.emptied) i (Link.takesOver (s.pkg.links.get port)) := by
  have ports : (List.finRange 12).filter (fun i => (s.pkg.links.get i).trained && !(s.pkg.links.get i).down) ≠ [] := by
    obtain ⟨j, trained, isUp⟩ := some_
    exact List.ne_nil_of_mem (List.mem_filter.2 ⟨List.mem_finRange j, by rw [trained, isUp]; rfl⟩)
  generalize list : (List.finRange 12).filter (fun i => (s.pkg.links.get i).trained && !(s.pkg.links.get i).down) = l at ports
  have lt : Config.choice s.fresh % max 1 l.length < l.length := by
    have pos := List.length_pos_iff.2 ports
    have := Nat.mod_lt (Config.choice s.fresh) (y := max 1 l.length) (by omega)
    omega
  have up : ∀ i ∈ l, PortUp s i := fun i mem => by
    rw [← list] at mem
    simpa [PortUp] using (List.mem_filter.1 mem).2
  refine ⟨_, up _ (List.getElem_mem lt), ?_⟩
  unfold reroute
  dsimp only [chooseBelow]
  rw [if_pos down, list, List.getElem?_eq_getElem lt]
  rfl

theorem reroute_movesOn (some_ : ∃ j, PortUp s j) (port : Fin 12) :
    MovesOn s (reroute s port) ∧ ((s.pkg.links.get port).down = true → HandedOver s port (reroute s port)) := by
  cases down : (s.pkg.links.get port).down with
  | false =>
    rw [reroute_stays (.inl down)]
    exact ⟨.refl s, fun no => nomatch no⟩
  | true =>
    obtain ⟨i, up, e⟩ := reroute_down down some_
    have other : i ≠ port := by
      rintro rfl
      exact absurd (down.symm.trans up.2) (by decide)
    have left : (reroute s port).pkg.links.get port = (s.pkg.links.get port).emptied := by
      rw [e, link_modLink_other other.symm, link_modLink_same]
    have taken : (reroute s port).pkg.links.get i = (s.pkg.links.get port).takesOver (s.pkg.links.get i) := by
      rw [e, link_modLink_same, link_modLink_other other]
    have rest : ∀ j, j ≠ i → j ≠ port → (reroute s port).pkg.links.get j = s.pkg.links.get j := fun j noTaker notPort => by
      rw [e, link_modLink_other noTaker, link_modLink_other notPort]
    refine ⟨⟨by rw [e]; rfl, by rw [e]; rfl, by rw [e]; rfl, fun j isUp => ?_, fun j isDown => ?_⟩, fun _ => ⟨left, i, up, ?_⟩⟩
    · by_cases taker : j = i
      · subst taker
        exact ⟨_, _, _, taken.trans (by unfold Link.takesOver; rw [List.append_assoc])⟩
      · have notPort : j ≠ port := by
          rintro rfl
          exact absurd (down.symm.trans isUp) (by decide)
        exact ⟨[], [], [], by rw [rest j taker notPort, List.append_nil, List.append_nil, List.append_nil]⟩
    · by_cases here : j = port
      · subst here
        exact .inr left
      · have noTaker : j ≠ i := by
          rintro rfl
          exact absurd (isDown.symm.trans up.2) (by decide)
        exact .inl (rest j noTaker here)
    · rw [taken]
      refine ⟨fun q mem => List.mem_append_right _ mem, fun q mem => List.mem_append_right _ mem, fun f mem => ?_⟩
      rcases List.mem_append.1 mem with sent | resend
      · exact List.mem_append_left _ (List.mem_append_right _ (List.mem_reverse.2 sent))
      · exact List.mem_append_right _ resend

/-- What one element of a list brings about, and every element keeps, under an invariant of the fold. -/
theorem foldl_reaches {α β : Type} {f : β → α → β} {I P : β → Prop} {a : α} (stays : ∀ b x, I b → I (f b x)) (make : ∀ b, I b → P (f b a))
    (keep : ∀ b x, I b → P b → P (f b x)) : ∀ {l : List α}, a ∈ l → ∀ b, I b → P (l.foldl f b)
  | x :: l, mem, b, held => by
    rcases List.mem_cons.mp mem with rfl | later
    · exact (List.foldlRecOn (motive := fun b => I b ∧ P b) l f ⟨stays b _ held, make b held⟩ fun b both x _ =>
        ⟨stays b x both.1, keep b x both.1 both.2⟩).2
    · exact foldl_reaches stays make keep later _ (stays b x held)

theorem reroutes_stay (h : ∀ i, (s.pkg.links.get i).down = false ∨ ∀ j, ¬ PortUp s j) : (List.finRange 12).foldl reroute s = s :=
  List.foldl_fixed' (fun i => reroute_stays (h i)) _

theorem reroutes_movesOn (some_ : ∃ j, PortUp s j) : MovesOn s ((List.finRange 12).foldl reroute s) :=
  List.foldlRecOn (motive := MovesOn s) _ _ (.refl s) fun _ h i _ =>
    h.trans (reroute_movesOn (some_.imp fun j => (h.portUp j).2) i).1

/-- A port that is down keeps what it has while others are emptied. -/
theorem reroute_elsewhere (some_ : ∃ j, PortUp s j) {i port : Fin 12} (down : (s.pkg.links.get i).down = true) (other : port ≠ i) :
    (reroute s port).pkg.links.get i = s.pkg.links.get i := by
  cases here : (s.pkg.links.get port).down with
  | false => rw [reroute_stays (.inl here)]
  | true =>
    obtain ⟨k, up, e⟩ := reroute_down here some_
    have noTaker : i ≠ k := by
      rintro rfl
      exact absurd (down.symm.trans up.2) (by decide)
    rw [e, link_modLink_other noTaker, link_modLink_other other.symm]

/-- Where a port is at its turn: as it was, or handed over already. -/
def Waits (s : State) (i : Fin 12) (y : State) : Prop := MovesOn s y ∧ (y.pkg.links.get i = s.pkg.links.get i ∨ HandedOver s i y)

theorem Waits.handsOver (some_ : ∃ j, PortUp s j) {i : Fin 12} {y : State} (down : (s.pkg.links.get i).down = true) (h : Waits s i y) :
    HandedOver s i (reroute y i) := by
  obtain ⟨moves, now⟩ := h
  obtain ⟨step, hands⟩ := reroute_movesOn (some_.imp fun j => (moves.portUp j).2) i
  rcases now with same | already
  · obtain ⟨empty, j, up, found⟩ := hands (by rw [same]; exact down)
    rw [same] at empty found
    exact ⟨empty, j, (moves.portUp j).1 up, found⟩
  · exact already.mono down moves step

theorem Waits.reroute (some_ : ∃ j, PortUp s j) {i : Fin 12} {y : State} (down : (s.pkg.links.get i).down = true) (h : Waits s i y) (p : Fin 12) :
    Waits s i (reroute y p) := by
  have someY := some_.imp fun j => (h.1.portUp j).2
  have step := (reroute_movesOn someY p).1
  refine ⟨h.1.trans step, ?_⟩
  by_cases here : p = i
  · subst here
    exact .inr (h.handsOver some_ down)
  · exact h.2.imp (fun same => (reroute_elsewhere someY (by rw [same]; exact down) here).trans same) fun already => already.mono down h.1 step

theorem reroutes_handOver (some_ : ∃ j, PortUp s j) {i : Fin 12} (down : (s.pkg.links.get i).down = true) :
    HandedOver s i ((List.finRange 12).foldl reroute s) :=
  foldl_reaches (I := Waits s i) (P := HandedOver s i) (fun _ p h => h.reroute some_ down p) (fun _ h => h.handsOver some_ down)
    (fun _ p h g => g.mono down h.1 (reroute_movesOn (some_.imp fun j => (h.1.portUp j).2) p).1) (List.mem_finRange i) s ⟨.refl s, .inl rfl⟩

/-- A port without what waits for packages that have no route. -/
def Link.kept (l : Link) (keep : Nat → Bool) : Link :=
  { l with updating := false, waiting := l.waiting.filter fun q => keep q.dest, escaped := l.escaped.filter fun q => keep q.dest,
           sent := l.sent.filter fun q => keep q.dest, resend := l.resend.filter fun q => keep q.dest }

/-- Whether a package is the partner of a port or has a route. -/
def routed (l : List Nat) (d : Nat) : Bool := d == 0xffff || l.contains d

/-- How many packets that wait are lost. -/
def lostPackets (s : State) (keep : Nat → Bool) : Nat :=
  s.pkg.links.toList.foldl (fun n x => n + (x.waiting.filter fun q => !keep q.dest).length + (x.escaped.filter fun q => !keep q.dest).length) 0

/-- The machine once the routes are known, before ports are emptied. -/
def routesKnown (s : State) (l : List Nat) : State :=
  s.modPkg fun p => { p with routes := some l, linklost := BitVec.ofNat 32 (min 0xffffffff (p.linklost.toNat + lostPackets s (routed l))),
                             links := p.links.map fun x => x.kept (routed l) }

theorem exec_routeUpdate (l : List Nat) :
    exec (.routeUpdate l) s = .next (dropUnreachable ((List.finRange 12).foldl reroute (routesKnown s l))) := rfl

theorem link_routesKnown (l : List Nat) (i : Fin 12) : (routesKnown s l).pkg.links.get i = (s.pkg.links.get i).kept (routed l) := vget_map ..

theorem portUp_routesKnown (l : List Nat) (i : Fin 12) : PortUp (routesKnown s l) i ↔ PortUp s i := by
  unfold PortUp
  rw [link_routesKnown]
  rfl

theorem reroutes_from (l : List Nat) : MovesOn (routesKnown s l) ((List.finRange 12).foldl reroute (routesKnown s l)) := by
  by_cases some_ : ∃ j, PortUp (routesKnown s l) j
  · exact reroutes_movesOn some_
  · rw [reroutes_stay fun i => .inr fun j up => some_ ⟨j, up⟩]
    exact .refl _

/-- The machine after an update of the routes. -/
def afterRoutes (s : State) (l : List Nat) : State := dropUnreachable ((List.finRange 12).foldl reroute (routesKnown s l))

variable {l : List Nat}

theorem afterRoutes_grows (s : State) (l : List Nat) : QueuesGrow ((List.finRange 12).foldl reroute (routesKnown s l)) (afterRoutes s l) :=
  dropUnreachable_grows (reroutes_from l).routes

theorem routes_afterRoutes (s : State) (l : List Nat) : (afterRoutes s l).pkg.routes = some l :=
  (afterRoutes_grows s l).routes.trans (reroutes_from l).routes

theorem linklost_afterRoutes (s : State) (l : List Nat) :
    (afterRoutes s l).pkg.linklost = BitVec.ofNat 32 (min 0xffffffff (s.pkg.linklost.toNat + lostPackets s (routed l))) :=
  (afterRoutes_grows s l).linklost.trans (reroutes_from l).linklost

theorem afterRoutes_down (s : State) (l : List Nat) (i : Fin 12) :
    ((afterRoutes s l).pkg.links.get i).updating = false ∧ ((afterRoutes s l).pkg.links.get i).down = (s.pkg.links.get i).down := by
  obtain ⟨-, down, updating⟩ := (reroutes_from (s := s) l).same i
  obtain ⟨downStays, updatingStays⟩ := (afterRoutes_grows s l).same i
  rw [link_routesKnown] at down updating
  exact ⟨updatingStays.trans updating, downStays.trans down⟩

/-- Without a port to take over, or to leave, ports keep what they have. -/
theorem afterRoutes_still (still : ∀ i, (s.pkg.links.get i).down = false ∨ ∀ j, ¬ PortUp s j) (i : Fin 12) : ∃ more,
    (afterRoutes s l).pkg.links.get i =
      { (s.pkg.links.get i).kept (routed l) with waiting := ((s.pkg.links.get i).kept (routed l)).waiting ++ more } := by
  have unmoved := reroutes_stay (s := routesKnown s l) fun i => (still i).imp (fun down => by rw [link_routesKnown]; exact down)
    fun none j up => none j ((portUp_routesKnown l j).1 up)
  obtain ⟨more, e, -⟩ := (afterRoutes_grows s l).links i
  rw [unmoved, link_routesKnown] at e
  exact ⟨more, e⟩

/-- A port that is not down keeps what it has before what it takes over. -/
theorem afterRoutes_taking {i : Fin 12} (down : (s.pkg.links.get i).down = false) : ∃ w e r,
    (afterRoutes s l).pkg.links.get i = { (s.pkg.links.get i).kept (routed l) with
      waiting := ((s.pkg.links.get i).kept (routed l)).waiting ++ w, escaped := ((s.pkg.links.get i).kept (routed l)).escaped ++ e,
      resend := ((s.pkg.links.get i).kept (routed l)).resend ++ r } := by
  obtain ⟨more, grown, -⟩ := (afterRoutes_grows s l).links i
  obtain ⟨w, e, r, taken⟩ := (reroutes_from (s := s) l).taking i (by rw [link_routesKnown]; exact down)
  rw [link_routesKnown] at taken
  exact ⟨w ++ more, e, r, by rw [grown, taken, List.append_assoc]⟩

/-- What a port that is down kept has moved to one that is up, if one is. -/
theorem afterRoutes_leaving (some_ : ∃ j, PortUp s j) {i : Fin 12} (down : (s.pkg.links.get i).down = true) :
    (afterRoutes s l).pkg.links.get i = ((s.pkg.links.get i).kept (routed l)).emptied ∧ ∃ j, PortUp s j ∧
      (∀ q ∈ ((s.pkg.links.get i).kept (routed l)).waiting, q ∈ ((afterRoutes s l).pkg.links.get j).waiting) ∧
      (∀ q ∈ ((s.pkg.links.get i).kept (routed l)).escaped, q ∈ ((afterRoutes s l).pkg.links.get j).escaped) ∧
      ∀ f ∈ ((s.pkg.links.get i).kept (routed l)).sent ++ ((s.pkg.links.get i).kept (routed l)).resend,
        f ∈ ((afterRoutes s l).pkg.links.get j).resend := by
  have isDown : ((routesKnown s l).pkg.links.get i).down = true := by rw [link_routesKnown]; exact down
  have handed := reroutes_handOver (some_.imp fun j => (portUp_routesKnown l j).2) isDown
  obtain ⟨empty, j, up, found⟩ := handed.grows isDown (reroutes_from l) (afterRoutes_grows s l)
  rw [link_routesKnown] at empty found
  exact ⟨empty, j, (portUp_routesKnown l j).1 up, found⟩

/-- A passage to a package that has lost its route has no slots any more. -/
theorem afterRoutes_slotless {b : Fin 5} {p : Fin 8} (outer : b = 3 ∨ b = 4) (en : (passage s b p).en = true)
    (peer : (passage s b p).peer ≠ Config.pkgId.toNat) (unrouted : routed l (passage s b p).peer = false) :
    (passage (afterRoutes s l) b p).slots = [] ∧ (passage (afterRoutes s l) b p).used = 0 := by
  have moves := reroutes_from (s := s) l
  have same : passage ((List.finRange 12).foldl reroute (routesKnown s l)) b p = passage s b p := by
    unfold passage
    rw [moves.passages]
    rfl
  refine slotless_dropUnreachable moves.routes outer ?_
  have lost : reachable ((List.finRange 12).foldl reroute (routesKnown s l)) (passage s b p).peer = false := by
    unfold reachable
    rw [moves.routes]
    exact unrouted
  unfold peerLost
  rw [same, en, lost]
  simpa using peer

end Routes

/-! ### The statement -/

/-- Settles O59: each message, flit and packet through the lemma of its event; what an update of the routes leaves at the ports follows from what the moves
of the ports that are down, and then the packets of abandoned collectives, change. -/
theorem hostAndLinks : Obligations.HostAndLinks := by
  unfold Obligations.HostAndLinks
  refine ⟨fun s t tag nonce record v => ⟨fun off => ?_, fun on => ?_⟩, fun s port => ?_, fun s port => ?_, fun s p => ?_, fun s source n t p data => ?_,
    fun s source n t p => ?_, fun s l => ?_, fun s d n => rfl⟩
  · exact ⟨_, hostLaunch_unbooted off, Config.freeByte (0 : W16).toNat 2 0, hostDoorbell_unbooted off, _, hostQuote_unbooted off⟩
  · exact ⟨hostLaunch_wrongLength on, ⟨_, hostDoorbell_booted on, events_doorbell⟩, hostQuote_booted on⟩
  · intro l up isDown
    have goes : ∀ {z : State} {a b c}, up port → z.pkg.links.get port = { l with failing := a, fails := b, retries := c } →
        (∀ i, i ≠ port → z.pkg.links.get i = s.pkg.links.get i) → z.pkg.eventSeq = s.pkg.eventSeq → z.ctxs = s.ctxs → isDown (portDown z port) :=
      fun isUp here there seq ctxs => by
        obtain ⟨link, events, others⟩ := portDown_leaves isUp here there seq ctxs
        exact ⟨by rw [link]; rfl, by rw [link]; rfl, events, by rw [link]; rfl, by rw [link]; rfl, by rw [link]; rfl, by rw [link]; rfl, by rw [link]; rfl, others⟩
    refine ⟨fun off => ⟨congrArg Host.Outcome.next (portDown_notUp off), fun ok src seq p => flitReceive_notUp off ok⟩, fun isUp => ⟨?_, fun src seq p => ?_⟩,
      rfl, rfl, escapeChannelEntry_updating, fun free => ⟨escapeChannelEntry_notUp free, escapeChannelEntry_up free⟩⟩
    · exact ⟨_, rfl, goes isUp rfl (fun _ _ => rfl) rfl rfl⟩
    · refine ⟨fun last => ⟨_, (flitReceive_failed isUp).trans (congrArg Host.Outcome.next (if_pos last)), goes isUp (link_modLink_same ..)
        (fun i other => link_modLink_other other ..) rfl rfl⟩, fun more => (flitReceive_failed isUp).trans (congrArg Host.Outcome.next (if_neg more)), ?_, ?_⟩
      · exact fun taken => (flitReceive_whole isUp).trans (congrArg Host.Outcome.next (if_pos (taken_iff.2 taken)))
      · intro new n z flits
        refine (flitReceive_whole isUp).trans (congrArg Host.Outcome.next ((if_neg fun taken => ?_).trans ?_))
        · obtain ⟨i, mem⟩ := taken_iff.1 taken
          exact new i mem
        · have counted : packetFlits (modLink s port fun x => { x.clear src seq with accepted := (src, seq) :: x.accepted }) p = (n, z) := flits
          dsimp only
          rw [counted]
  · intro l z y weight opened all bulk any
    have bulks : ∀ q, bulk q ↔ q ∈ l.bulk (opens s) := fun q => mem_bulk_iff.symm
    refine ⟨fun f rest again => sendFlit_resends again, fun again idle => ?_, fun again some_ => ?_⟩
    · refine sendFlit_idle again ?_
      cases served : l.serve (opens s) (weights s) with
      | none => rfl
      | some c =>
        exact absurd (any_of_served served) fun h => idle (h.imp id fun ⟨q, mem⟩ => ⟨q, (bulks q).2 mem⟩)
    · cases served : l.serve (opens s) (weights s) with
      | none =>
        obtain ⟨noControl, noBulk⟩ := serve_none served
        rcases some_ with ⟨q, mem, control⟩ | ⟨q, isBulk⟩
        · exact absurd ((noControl q mem).symm.trans control) (by decide)
        · exact absurd ((bulks q).1 isBulk) (noBulk q)
      | some c =>
        obtain ⟨w, x, left⟩ := sendFlit_takes served
        obtain ⟨before, after, first, isOf, place⟩ := leave_some left
        obtain ⟨here, there, out⟩ := sendFlit_served again served left
        obtain ⟨control, bulkTurn⟩ := served_class served left
        have link : y = l.afterFlit s c w x := here
        refine ⟨w, before, after, fun q mem same => ?_, ?_, ?_, ?_, out, fun is => (control is).imp_right fun no q isBulk => no q ((bulks q).1 isBulk),
          fun is => ?_, there⟩
        · exact absurd ((first q mem).symm.trans ((isOf_iff_sameClass isOf).2 same)) (by decide)
        · rw [link]
          exact place.imp (fun ⟨list, waiting, escaped, _⟩ => ⟨list, waiting, escaped⟩) id
        · rw [link]
          exact congrArg (fun l => (_ :: l).take 256) (sent_charge ..)
        · rw [link]
          exact (resend_charge ..).trans again
        · obtain ⟨isBulk, turn, heavy⟩ := bulkTurn is
          exact ⟨(bulks w).2 isBulk, turn, heavy.imp (fun h no => h (weights_eq_zero.2 no)) fun light q other =>
            weights_eq_zero.1 (light q ((bulks q).1 other))⟩
  · intro n
    refine ⟨packetFlits_pos s p, ?_, ?_, ?_⟩
    · rintro rfl
      have := Nat.mod_lt (Config.choice s.fresh) (y := 1024) (by decide)
      have size : n = Config.choice s.fresh % 1024 + 1 := packetFlits_bulk s
      omega
    · rintro t q k d rfl
      have := Nat.mod_lt (Config.choice s.fresh) (y := 2) (by decide)
      have size : n = _ := packetFlits_slot s t q k d
      omega
    · rintro t g o i k ws rfl
      have := Nat.mod_lt (Config.choice s.fresh) (y := 2) (by decide)
      have size : n = _ := packetFlits_collWords s t g o i k ws
      omega
  · intro x z y mine
    refine ⟨fun isMine next room => ?_, fun isMine early missing => ?_, fun no => deliver_slot_refused ?_⟩
    · have e : y = x.fill n (tileOfBytes data) := deliver_slot_taken isMine.1 isMine.2 ((takes_iff x n).2 (.inr ⟨next, room⟩))
      rw [e, fill_next _ next]
      exact ⟨rfl, rfl, rfl⟩
    · exact (deliver_slot_taken isMine.1 isMine.2 ((takes_iff x n).2 (.inl ⟨early, missing⟩))).trans (fill_early _ early)
    · rintro ⟨en, tenant, takes⟩
      rcases no with notMine | ⟨next, full⟩ | ⟨early, missing⟩
      · exact notMine ⟨en, tenant⟩
      · rcases (takes_iff x n).1 takes with ⟨early, -⟩ | ⟨-, room⟩
        · exact Nat.not_lt.2 next early
        · exact Nat.not_le.2 full room
      · rcases (takes_iff x n).1 takes with ⟨-, mem⟩ | ⟨next, -⟩
        · exact missing mem
        · exact Nat.not_lt.2 next early
  · intro x
    refine (passage_modPassage_same ..).trans ?_
    by_cases fits : x.tenant = t.val ∧ n < x.nextSlot ∧ n ∉ x.filled
    · rw [if_pos fits]
      exact if_pos ⟨fits.1, fits.2.1, by rw [List.contains_eq_mem]; exact decide_eq_false fits.2.2⟩
    · rw [if_neg fits]
      exact if_neg fun h => fits ⟨h.1, h.2.1, fun mem => absurd (h.2.2.symm.trans (List.contains_iff_mem.2 mem)) (by decide)⟩
  · intro keep lost
    refine ⟨afterRoutes s l, exec_routeUpdate l, routes_afterRoutes s l, ⟨linklost_afterRoutes s l, afterRoutes_down s l, fun still i => ?_, fun some_ i => ⟨fun down => ?_, fun down => ?_⟩⟩,
      fun b p outer en peer unrouted => afterRoutes_slotless outer en peer unrouted⟩
    · obtain ⟨more, e⟩ := afterRoutes_still (l := l) (fun i => (still i).imp id fun none j up => none ⟨j, up⟩) i
      exact ⟨⟨more, (congrArg Link.waiting e).symm⟩, congrArg Link.escaped e, congrArg Link.sent e, congrArg Link.resend e⟩
    · obtain ⟨empty, j, up, waiting, escaped, resend⟩ := afterRoutes_leaving (l := l) some_ down
      exact ⟨congrArg Link.waiting empty, congrArg Link.escaped empty, congrArg Link.sent empty, congrArg Link.resend empty,
        fun q mem => ⟨j, up, waiting q mem⟩, fun q mem => ⟨j, up, escaped q mem⟩, fun f mem => ⟨j, up, resend f mem⟩⟩
    · obtain ⟨w, x, r, e⟩ := afterRoutes_taking (l := l) down
      exact ⟨⟨w, (congrArg Link.waiting e).symm⟩, ⟨x, (congrArg Link.escaped e).symm⟩, congrArg Link.sent e, ⟨r, (congrArg Link.resend e).symm⟩⟩

end Sys2Proof.Machine
end
